-- ==== Sys2Proof/Word.lean ====
section
/-! DEFINITION. Words, bytes and the plainest helpers over them: little-endian byte order (R6), bit fields (R6),
and tables keyed by a number. -/

namespace Sys2Proof

/-- One byte. -/
abbrev Byte := BitVec 8

/-- The field `[hi:lo]` of a number, both ends included (R6). -/
def bits (n hi lo : Nat) : Nat := (n / 2 ^ lo) % 2 ^ (hi + 1 - lo)

/-- Bit `i` of a number (R6). -/
def bitAt (n i : Nat) : Bool := (n / 2 ^ i) % 2 == 1

/-- A list of bytes read as a little-endian number (R6). -/
def leNat : List Byte → Nat
  | [] => 0
  | b :: bs => b.toNat + 256 * leNat bs

/-- The `n` little-endian bytes of a number, cut to `n` bytes (R6). -/
def natLe : Nat → Nat → List Byte
  | 0, _ => []
  | n + 1, x => BitVec.ofNat 8 x :: natLe n (x / 256)

/-- `n` bytes of a list from `off`, zero where the list is too short. -/
def sliceB (bs : List Byte) (off n : Nat) : List Byte :=
  let t := (bs.drop off).take n
  t ++ List.replicate (n - t.length) 0#8

/-- The little-endian field of `n` bytes at byte offset `off`. -/
def fieldLe (bs : List Byte) (off n : Nat) : Nat := leNat ((bs.drop off).take n)

/-- Overwrite the bytes of `bs` from `off` with `new`, keeping the length of `bs`. -/
def overlay (bs : List Byte) (off : Nat) (new : List Byte) : List Byte :=
  (bs.take off ++ new ++ bs.drop (off + new.length)).take bs.length

/-- Division rounded up. -/
def ceilDiv (a b : Nat) : Nat := (a + b - 1) / b

/-- Two's complement reading of the low `w` bits. -/
def toSigned (w n : Nat) : Int :=
  let m := n % 2 ^ w
  if m < 2 ^ (w - 1) then (m : Int) else (m : Int) - (2 ^ w : Nat)

/-- The low `w` bits of an integer in two's complement. -/
def ofSigned (w : Nat) (i : Int) : Nat := (i.emod ((2 ^ w : Nat) : Int)).toNat

/-- A sparse table: pairs of a key and an entry, keys strictly rising. -/
abbrev Tab (α : Type) := List (Nat × α)

/-- The entry of a key, if it is listed. -/
def Tab.get? {α : Type} : Tab α → Nat → Option α
  | [], _ => none
  | (k, a) :: t, i => if k = i then some a else Tab.get? t i

/-- The entry of a key, or the default entry. -/
def Tab.getD {α : Type} (t : Tab α) (i : Nat) (d : α) : α := (Tab.get? t i).getD d

/-- Write an entry, keeping the keys rising. -/
def Tab.put {α : Type} : Tab α → Nat → α → Tab α
  | [], i, x => [(i, x)]
  | (k, a) :: t, i, x =>
    if i < k then (i, x) :: (k, a) :: t
    else if i = k then (k, x) :: t
    else (k, a) :: Tab.put t i x

/-- Remove an entry. -/
def Tab.del {α : Type} : Tab α → Nat → Tab α
  | [], _ => []
  | (k, a) :: t, i => if k = i then t else (k, a) :: Tab.del t i

/-- The first element of a list that meets a test, and the list without it. -/
def takeFirst {α : Type} (p : α → Bool) : List α → Option (α × List α)
  | [] => none
  | x :: xs =>
    if p x then some (x, xs)
    else match takeFirst p xs with
      | none => none
      | some (y, ys) => some (y, x :: ys)

/-- Change the first element that meets a test. -/
def updFirst {α : Type} (p : α → Bool) (f : α → α) : List α → List α
  | [] => []
  | x :: xs => if p x then f x :: xs else x :: updFirst p f xs

end Sys2Proof
end

