-- ==== Sys2Proof/Syntax.lean ====
section
/-! DEFINITION. The commands of the block: one constructor of `Instr` for each row of the table of operations and
events, with the operands the row's rule names. Units are numbered as in R4. -/

namespace Sys2Proof

/-- Virtual device, 0 … 255 (R348). -/
abbrev VDev := Fin 256
/-- A function with a BAR0: virtual function v, or 256 for the manager function (R348, Table 14-1). -/
abbrev FnId := Fin 257
/-- Whose BAR0 a write reaches: a function's, or that of the carrier function on HP1, HP2 or HP3 (R348, R349). -/
inductive BarFn where
  | fn (f : FnId) | carrier (i : Fin 3)
  deriving DecidableEq, Repr
/-- Queue number within one virtual device (R264). -/
abbrev QId := Fin 256
/-- Cluster c = 2n + h (R4). -/
abbrev Cluster := Fin 32
/-- Physical core, 68 × c + i (R4). -/
abbrev CoreId := Fin 2176
/-- MC die and stack (R4). -/
abbrev Die := Fin 32
/-- Memory channel 32 × k + j (R4). -/
abbrev Chan := Fin 1024
/-- Link die and fabric port (R4). -/
abbrev Port := Fin 16
/-- Host port (R4). -/
abbrev HPort := Fin 4
/-- Hub (R4). -/
abbrev Hub := Fin 2
/-- Partition number (R327). -/
abbrev PartId := Fin 16
/-- Interleave set number (R206). -/
abbrev SetId := Fin 1024

/-- Formats of ACL 1 (R40, Table 2-1). -/
inductive Fmt where
  | fp64 | fp32 | fp16 | bf16 | e4m3 | e5m2 | e2m3 | e3m2 | e2m1
  | int8 | int4 | int32 | int64
  | mxe4m3 | mxe5m2 | mxe2m3 | mxe3m2 | mxfp4 | mxint8 | peat
  deriving DecidableEq, Repr

/-- Rounding modes (R54, Table 2-4). -/
inductive RoundMode where
  | rne | rtz | rup | rdn | sr
  deriving DecidableEq, Repr

/-- Function codes (R90, Table 4-1). -/
inductive FnCode where
  | exp | exp2 | expm1 | log | log2 | log1p | sin | cos | tanh | sigmoid | erf
  | recip | sqrt | rsqrt | geluErf | geluTanh | silu | softplus
  deriving DecidableEq, Repr

/-- Operations of the vector unit: each is an exact operation rounded once (R138). -/
inductive VecOp where
  | add | sub | mul | div | fma | max | min | abs | neg | cast
  deriving DecidableEq, Repr

/-- Access sizes of core code: 1, 2, 4, 8 or 16 bytes (R164). -/
inductive AccSize where
  | b1 | b2 | b4 | b8 | b16
  deriving DecidableEq, Repr

/-- The integer atomics (Table 7-4); signed and unsigned extremes are different kinds (R175). -/
inductive IntAtomic where
  | add | and | or | xor | minS | maxS | minU | maxU
  deriving DecidableEq, Repr

/-- The operand of a peat-accumulate: a term of a format, or a stored word or fragment in the window (R175). -/
inductive PeatSrc where
  | term (f : Fmt) | word | fragment
  deriving DecidableEq, Repr

/-- What an MC die meets when it performs a request (Table 9-7): nothing, a read that the stack corrected, one that failed once,
one that failed twice; the line's copy in the memory-side cache, the write queue or the key-slot copy with a parity error; the two
XTS copies in disagreement. -/
inductive ReadFault where
  | good | corrected | badOnce | badTwice | cacheParity | queueParity | keyParity | xts
  deriving DecidableEq, Repr

/-- Where a read of a core meets an error: a place in its memories with bad parity (Tables 6-1, 17-1), which is core store at an offset, a
register, a writer tag's line, the instruction cache at an offset, a matrix window, the spill queue, a peat-store slot, a mover buffer,
the sticky flags, the preload shadow or the binary store of its cluster; or a line of device memory that its mover reads, by virtual address, with what its home meets
(R219). -/
inductive CoreMem where
  | store (off : Nat) | reg (r : Nat) | tag (line : Nat) | code (off : Nat) | window (pos : Nat) | spill (i : Nat) | slot (pos : Nat)
  | mover (i : Nat) | flags (lane : Nat) | shadow (off : Nat) | image | line (va : Nat) (bad : ReadFault)
  deriving DecidableEq, Repr

/-- A core that issues an instruction, and the place whose parity is bad where one of the instruction's reads meets an error
(R414). -/
structure CoreAt where
  core : CoreId
  bad : Option CoreMem
  deriving DecidableEq, Repr

/-- An instruction whose reads all have good parity. -/
def CoreAt.good (n : CoreId) : CoreAt := ⟨n, none⟩

/-- A queue whose built-in operation runs, and where a read of one of its cores meets an error (R146, R219, R414). -/
structure OpAt where
  q : QId
  bad : Option (CoreId × CoreMem)
  deriving DecidableEq, Repr

/-- An operation whose reads all are good. -/
def OpAt.good (q : QId) : OpAt := ⟨q, none⟩

/-- A queue for which an engine reads memory, and the line that a read meets bad, by virtual address, with what its home meets (R219). -/
structure QAt where
  q : QId
  bad : Option (Nat × ReadFault)
  deriving DecidableEq, Repr

/-- Reads that all are good. -/
def QAt.good (q : QId) : QAt := ⟨q, none⟩

/-- A fence operation at its home's fence unit, by its number, and whether the fence store's copy of the cell has bad parity (R219). -/
structure FenceAt where
  id : Nat
  bad : Bool
  deriving DecidableEq, Repr

/-- A fence cell of an MC die that is read, and whether the fence store's copy has bad parity (R219). -/
structure CellAt where
  cell : Fin 1048576
  bad : Bool
  deriving DecidableEq, Repr

/-- An operation that finds good parity. -/
def FenceAt.good (id : Nat) : FenceAt := ⟨id, false⟩

/-- A window set of the matrix engine, with the active threads of the instruction that names it (R139, R140). -/
structure MxSel where
  set : Bool
  mask : BitVec 32
  deriving DecidableEq, Repr

/-- A tile operand of `mma`: base, format, and the base of the scale vector of a block-scaled format (R140). -/
structure TileArg where
  base : Nat
  fmt : Fmt
  scales : Nat
  deriving DecidableEq, Repr

/-- Drain modes (Table 6-4) with their operands: a rounding mode, and under SR a stream, an element base and a draw
(R141). -/
inductive DrainMode where
  | round (f : Fmt) (rm : RoundMode) (stream : BitVec 32) (elem : BitVec 64) (draw : BitVec 32)
  | roundMx (f : Fmt) (rm : RoundMode) (scales : Nat) (stream : BitVec 32) (elem : BitVec 64) (draw : BitVec 32)
  | fragment
  | peat
  deriving DecidableEq, Repr

/-- A tensor-mover transfer: direction, addresses, and up to five axes of length and signed byte strides on the
memory side and the core-store side (Tensor mover). -/
structure MoverArg where
  toStore : Bool
  va : BitVec 64
  off : Nat
  axes : List (Nat × Int × Int)
  deriving DecidableEq, Repr

/-- What core code reads of a thread: the logical identities of Table 7-2, the physical ones (R161), and its sticky flags, left
as they are or cleared (R63). -/
inductive Identity where
  | groupX | groupY | groupZ | group | lane | thread | cohort | cohortGroup
  | core | cluster | die | slot
  | flags | takeFlags
  deriving DecidableEq, Repr

/-- Where range entries are cached: a cluster's or a hub's second level (R246). -/
inductive XNode where
  | cluster (c : Cluster) | hub (h : Hub)
  deriving DecidableEq, Repr

/-- A mailbox channel (Mailboxes). -/
inductive MbxChan where
  | toMgr (v : VDev) | fromMgr (v : VDev) | notice
  deriving DecidableEq, Repr

/-- An event controller (R358). -/
inductive EvCtl where
  | hub (h : Hub) | cluster (c : Cluster)
  deriving DecidableEq, Repr

/-- The function a Function Level Reset names (R349, R350). -/
inductive FlrTarget where
  | vf (v : VDev) | carrier (p : HPort)
  deriving DecidableEq, Repr

/-- PRI responses (R250). -/
inductive PriResp where
  | success | invalidRequest | responseFailure
  deriving DecidableEq, Repr

/-- A management binding (R481). -/
inductive MgmtBind where
  | i3c | vdm
  deriving DecidableEq, Repr

/-- A transport of SPDM (R462): the DOE of a function or of a carrier function, or MCTP. -/
inductive Transport where
  | doe (fn : FnId) | carrier (p : HPort) | mctp (b : MgmtBind)
  deriving DecidableEq, Repr

/-- What a requester offers in NEGOTIATE_ALGORITHMS of the algorithms of Table 19-1. -/
structure SpdmOffer where
  ecdsaP384 : Bool
  sha3_384 : Bool
  secp384r1 : Bool
  aes256gcm : Bool
  deriving DecidableEq, Repr

/-- How the I3C address is assigned (R514). -/
inductive I3cAssign where
  | entdaa | setdasa
  deriving DecidableEq, Repr

/-- The lanes of a port that locked in training, at this end and at the other, as the first control exchange tells (R376, R377). -/
structure LaneLock where
  here : BitVec 10
  peer : BitVec 10
  deriving DecidableEq, Repr

/-- The lanes that locked at both ends. -/
def LaneLock.both (l : LaneLock) : BitVec 10 := l.here &&& l.peer

/-- The bytes of a flit behind its header (R383, R385): the encrypted payload of 480 bytes and the tag. -/
structure FlitBody where
  cipher : List Byte
  tag : BitVec 128
  deriving DecidableEq, Repr

/-- A management flit behind its header, with the lanes whose symbols the FEC corrected in it (R378). -/
structure MgmtBody where
  body : FlitBody
  corrected : List Nat
  deriving DecidableEq, Repr

/-- What a collective receives of a participant that is not on this device: the bytes of its elements, or, of a part of a peat
sum, a fragment of every element with the full words by ordinal and the elements whose terms raised INVALID (R83, R87, R134,
R135); or such a part that has come as a peat-fragment message over the reedbed, by its source and message id (R198). -/
inductive PartData where
  | bytes (bs : List Byte)
  | sums (frags : List (BitVec 256)) (words : List (BitVec 768)) (invalid : List Nat)
  | message (src : BitVec 12) (msg : BitVec 16) (invalid : List Nat)
  deriving DecidableEq, Repr

/-- A part of a participant that is not on this device: its number, whether its fields agree (R133), and what it sent. -/
structure RemotePart where
  rank : Nat
  same : Bool
  data : PartData
  deriving DecidableEq, Repr

/-- How a channel ends its training and self-test at start-up (R224, R497). -/
inductive ReadyResult where
  | ready | trainingFailed | testFailed
  deriving DecidableEq, Repr

/-- A request at its home MC die: its number, and what the die meets when it performs it (R219). -/
structure ReqAt where
  id : Nat
  bad : ReadFault
  deriving DecidableEq, Repr

/-- A line that a host reads or writes, by its address, or a span of BAR2, by its length; and what the home MC die meets (R219). -/
structure HostAt where
  at_ : Nat
  bad : ReadFault
  deriving DecidableEq, Repr

/-- An access to a BAR of a function: its offset, and the IDE stream on which it arrives, if any (R465). -/
structure BarAt where
  off : Nat
  ide : Option Nat
  deriving DecidableEq, Repr

/-- An endpoint that installs composition maps (R338). -/
inductive Endp where
  | cluster (c : Cluster) | mc (k : Die) | lx (p : Port) | hub (h : Hub)
  deriving DecidableEq, Repr

/-- An engine that holds work of a command (Table 12-6). -/
inductive Engine where
  | core (n : CoreId) | ctl (c : Cluster) | mc (k : Die) | dma (h : Hub) | sec | lx (p : Port)
  deriving DecidableEq, Repr

/-- A reedbed link (Table 8-3): along x, along y, an attachment, or a core port. -/
inductive LinkId where
  | x (col : Fin 31) (row : Fin 4) | y (col : Fin 32) (row : Fin 3) | attach (r : Fin 84) | corePort (r : Fin 128)
  deriving DecidableEq, Repr

/-- One direction of a reedbed link: away from its first end (towards the greater column or row, or out to the die or the
cores of a port) or back. -/
abbrev Hop := LinkId × Bool

/-- A reedbed packet (R197): its 16-byte header (Table 8-7) and its payload. -/
structure Packet where
  hdr : BitVec 128
  payload : List Byte
  deriving DecidableEq, Repr

/-- A firmware processor (Table 16-1). -/
inductive Proc where
  | security | schedA | power | schedB | cluster (c : Cluster)
  deriving DecidableEq, Repr

/-- A die with thermal limits (Table 18-5). -/
inductive ThermDie where
  | cx (n : Fin 16) | mc (k : Die) | stack (k : Die) | lx (p : Port) | hb (h : Hub)
  deriving DecidableEq, Repr

/-- The commands: one constructor for each row of the table. -/
inductive Instr where
  /-- REGISTER_WRITE (R524). -/
  | registerWrite (fn : BarFn) (off : BarAt) (bytes : List Byte)
  /-- DOORBELL (R266). -/
  | doorbell (v : VDev) (off : Nat) (bytes : List Byte)
  /-- DOORBELL_RETRY (R279). -/
  | doorbellRetry (v : VDev) (q : QId) (w : BitVec 64)
  /-- CQ_HEAD_WRITE (R268). -/
  | cqHeadWrite (v : VDev) (q : QId) (w : BitVec 32)
  /-- XLT_SYNC (R243). -/
  | xltSync (v : VDev) (w : BitVec 64)
  /-- XLT_MOVE_AND_SYNC (R258). -/
  | xltMoveAndSync (v : VDev) (w : BitVec 64)
  /-- SYNC_MASTER_READ_DONE (R243). -/
  | syncMasterReadDone (v : VDev) (data : Option (List Byte))
  /-- RANGE_INVALIDATION (R247). -/
  | rangeInvalidation (v : VDev) (n : XNode)
  /-- INVALIDATION_ACK (R243). -/
  | invalidationAck (v : VDev) (n : XNode)
  /-- MOVE_PAGE_COPY_DONE (R258). -/
  | movePageCopyDone (v : VDev) (hostOk : Bool) (hostData : List Byte)
  /-- FAULT_RESP_FAIL (R256). -/
  | faultRespFail (v : VDev) (w : BitVec 64)
  /-- MBX_GO (R352). -/
  | mbxGo (c : MbxChan) (w : BitVec 32)
  /-- MBX_WITHDRAW (R354). -/
  | mbxWithdraw (c : MbxChan)
  /-- MBX_DONE (R353). -/
  | mbxDone (c : MbxChan) (w : BitVec 32)
  /-- NOTICE_SEND (R357). -/
  | noticeSend
  /-- EVC_CLAIM (R362). -/
  | evcClaim (c : EvCtl) (p : Fin 2)
  /-- EVC_EOI (R362). -/
  | evcEoi (c : EvCtl) (p : Fin 2)
  /-- EVC_HOLD_TIMER (R359). -/
  | evcHoldTimer (c : EvCtl) (src : Fin 512)
  /-- MSIX_VECTOR_CONTROL_WRITE (R363). -/
  | msixVectorControlWrite (fn : FnId) (vec : Option (Fin 64)) (mask : Bool)
  /-- MSIX_MODERATION_TIMER (R364). -/
  | msixModerationTimer (fn : FnId) (vec : Fin 64)
  /-- ADMIN_TAIL_WRITE (R403). -/
  | adminTailWrite (fn : FnId) (w : BitVec 32)
  /-- EV_HEAD_WRITE (R406). -/
  | evHeadWrite (fn : FnId) (w : BitVec 32)
  /-- NEGOTIATE (R401). -/
  | negotiate (fn : FnId)
  /-- CREATE_QUEUE (R264). -/
  | createQueue (v : VDev)
  /-- READ_BACKLOG (R290). -/
  | readBacklog (v : VDev)
  /-- CREATE_CONTEXT (R294). -/
  | createContext (v : VDev)
  /-- DESTROY_CONTEXT (R313). -/
  | destroyContext (v : VDev)
  /-- CREATE_FENCE (R299). -/
  | createFence (v : VDev)
  /-- DESTROY_FENCE (R314). -/
  | destroyFence (v : VDev)
  /-- SIGNAL_FENCE (R301). -/
  | signalFence (v : VDev)
  /-- READ_FENCE (R301). -/
  | readFence (v : VDev)
  /-- EXPORT_FENCE (R303). -/
  | exportFence (v : VDev)
  /-- IMPORT_FENCE (R304). -/
  | importFence (v : VDev)
  /-- REVOKE_EXPORT (R303). -/
  | revokeExport (v : VDev)
  /-- DESTROY_QUEUE (R312). -/
  | destroyQueue (v : VDev)
  /-- DESTROY_GRACE_EXPIRY (R312). -/
  | destroyGraceExpiry (v : VDev) (slot : Fin 32)
  /-- DESTROY_COMPLETE (R312). -/
  | destroyComplete (v : VDev) (slot : Fin 32)
  /-- RELEASE_RANGE (R308). -/
  | releaseRange (v : VDev)
  /-- RELEASE_RANGE_FORCE (R309). -/
  | releaseRangeForce (v : VDev)
  /-- RELEASE_COMPLETE (R308). -/
  | releaseComplete (v : VDev) (slot : Fin 32)
  /-- FENCE_SLOT_RELEASE (R314). -/
  | fenceSlotRelease (v : VDev) (slot : Fin 32)
  /-- DEFINE_PARTITION (R327). -/
  | definePartition (v : VDev)
  /-- PREFETCH (R345). -/
  | prefetch (v : VDev)
  /-- END_WARMING (R345). -/
  | endWarming (v : VDev)
  /-- WARMING_TIMEOUT (R345). -/
  | warmingTimeout (v : VDev) (p : PartId)
  /-- DEFINE_SET (R326). -/
  | defineSet (v : VDev)
  /-- JOIN_GROUP (R388). -/
  | joinGroup (v : VDev)
  /-- LEAVE_GROUP (R388). -/
  | leaveGroup (v : VDev)
  /-- COMPOSE (R322). -/
  | compose
  /-- RESET_FUNCTION (R350). -/
  | resetFunction
  /-- FREEZE (R366). -/
  | freeze
  /-- FREEZE_GRACE_EXPIRY (R366). -/
  | freezeGraceExpiry (v : VDev)
  /-- SAVE (R367). -/
  | save (destOk : Bool)
  /-- RESTORE (R369). -/
  | restore (blob : Nat) (intact : Bool)
  /-- THAW (R370). -/
  | thaw
  /-- DISCARD (R370). -/
  | discard
  /-- EXPOSE_HDM (R231). -/
  | exposeHdm
  /-- WITHDRAW_HDM (R231). -/
  | withdrawHdm
  /-- HDM_DECODER_COMMIT (R231). -/
  | hdmDecoderCommit (p : HPort) (d : Fin 4) (base size : Nat)
  /-- HDM_DECODER_DECOMMIT (R231). -/
  | hdmDecoderDecommit (p : HPort) (d : Fin 4) (newSize : Option Nat)
  /-- CXL_MEM_READ (R232). -/
  | cxlMemRead (p : HPort) (a : HostAt)
  /-- CXL_MEM_WRITE (R232). -/
  | cxlMemWrite (p : HPort) (a : Nat) (line : List Byte)
  /-- HOST_WINDOW_READ (R525). -/
  | hostWindowRead (v : VDev) (off : BarAt) (n : HostAt)
  /-- HOST_WINDOW_WRITE (R525). -/
  | hostWindowWrite (v : VDev) (off : BarAt) (bytes : List Byte)
  /-- FUNCTION_LEVEL_RESET (R350). -/
  | functionLevelReset (t : FlrTarget)
  /-- HOST_PORT_RESET (R515). -/
  | hostPortReset (p : HPort)
  /-- VF_ENABLE (R348). -/
  | vfEnable (v : VDev) (on : Bool)
  /-- ATS_INVALIDATION (R249). -/
  | atsInvalidation (fn : FnId) (page count : Nat)
  /-- PRI_RESPONSE (R250). -/
  | priResponse (fn : FnId) (page : Nat) (r : PriResp)
  /-- PRI_REENABLE (R250). -/
  | priReenable (fn : FnId)
  /-- HOST_READ_ERROR (R414). -/
  | hostReadError (id : Nat)
  /-- IDE_KM (R464). -/
  | ideKm (p : HPort) (stream : Fin 8) (key : BitVec 256)
  /-- IDE_INTEGRITY_FAIL (R464). -/
  | ideIntegrityFail (p : HPort) (stream : Fin 8) (read : Option Nat)
  /-- GET_TDISP_VERSION (R465). -/
  | getTdispVersion (v : VDev)
  /-- GET_TDISP_CAPABILITIES (R465). -/
  | getTdispCapabilities (v : VDev)
  /-- LOCK_INTERFACE_REQUEST (R466). -/
  | lockInterfaceRequest (v : VDev) (stream : Fin 8)
  /-- START_INTERFACE_REQUEST (R465). -/
  | startInterfaceRequest (v : VDev)
  /-- STOP_INTERFACE_REQUEST (R465). -/
  | stopInterfaceRequest (v : VDev)
  /-- GET_DEVICE_INTERFACE_REPORT (R465). -/
  | getDeviceInterfaceReport (v : VDev)
  /-- GET_DEVICE_INTERFACE_STATE (R465). -/
  | getDeviceInterfaceState (v : VDev)
  /-- SRIOV_CONFIG_CHANGE (R465). -/
  | sriovConfigChange (v : VDev)
  /-- GET_VERSION (R461). -/
  | getVersion (t : Transport)
  /-- GET_CAPABILITIES (R461). -/
  | getCapabilities (t : Transport)
  /-- NEGOTIATE_ALGORITHMS (R461). -/
  | negotiateAlgorithms (t : Transport) (offer : SpdmOffer)
  /-- GET_DIGESTS (R461). -/
  | getDigests (t : Transport)
  /-- GET_CERTIFICATE (R460). -/
  | getCertificate (t : Transport) (slot : BitVec 8) (off len : Nat)
  /-- CHALLENGE (R461). -/
  | challenge (t : Transport) (slot : BitVec 8) (nonce : BitVec 256)
  /-- GET_MEASUREMENTS (R463). -/
  | getMeasurements (t : Transport) (index : BitVec 8)
  /-- KEY_EXCHANGE (R461). -/
  | keyExchange (t : Transport)
  /-- FINISH (R461). -/
  | finish (t : Transport) (session : Nat)
  /-- KEY_UPDATE (R461). -/
  | keyUpdate (t : Transport) (session : Nat)
  /-- HEARTBEAT (R461). -/
  | heartbeat (t : Transport) (session : Nat)
  /-- END_SESSION (R461). -/
  | endSession (t : Transport) (session : Nat)
  /-- GENERATE (R469). -/
  | generate (v : VDev) (tag : BitVec 32)
  /-- IMPORT (R469). -/
  | importKey (v : VDev) (tag : BitVec 32) (keys : List Byte)
  /-- ERASE (R469). -/
  | erase (v : VDev) (tag : BitVec 32) (slot : BitVec 16)
  /-- LIST (R469). -/
  | listKeys (v : VDev) (tag : BitVec 32)
  /-- SET_ENDPOINT_ID (R481). -/
  | setEndpointId (b : MgmtBind) (eid : BitVec 8)
  /-- GET_ENDPOINT_ID (R481). -/
  | getEndpointId (b : MgmtBind)
  /-- GET_MCTP_VERSION_SUPPORT (R481). -/
  | getMctpVersionSupport (b : MgmtBind)
  /-- GET_MESSAGE_TYPE_SUPPORT (R481). -/
  | getMessageTypeSupport (b : MgmtBind)
  /-- GET_VENDOR_DEFINED_MESSAGE_SUPPORT (R481). -/
  | getVendorDefinedMessageSupport (b : MgmtBind)
  /-- I3C_ADDRESS_ASSIGN (R514). -/
  | i3cAddressAssign (how : I3cAssign) (a : BitVec 7)
  /-- I3C_HOT_JOIN (R514). -/
  | i3cHotJoin
  /-- OD_READ (R482). -/
  | odRead (b : MgmtBind) (tag : BitVec 16) (ix : BitVec 16) (sub : BitVec 8) (off : BitVec 32) (len : Nat)
  /-- OD_WRITE (R482). -/
  | odWrite (b : MgmtBind) (secured : Bool) (tag : BitVec 16) (ix : BitVec 16) (sub : BitVec 8) (val : List Byte)
  /-- OD_DESCRIBE (R482). -/
  | odDescribe (b : MgmtBind) (tag : BitVec 16) (ix : BitVec 16) (sub : BitVec 8)
  /-- NOTIFY (R484). -/
  | notify
  /-- NOTIFY_ACK (R484). -/
  | notifyAck (dest : Fin 4) (tag : BitVec 16)
  /-- NOTIFY_RESEND_TIMER (R484). -/
  | notifyResendTimer (dest : Fin 4) (tag : BitVec 16)
  /-- UNIT_REQUEST_OUT (R494). -/
  | unitRequestOut (b : MgmtBind) (tag : BitVec 16) (w : BitVec 64)
  /-- UNIT_REQUEST_IN (R494). -/
  | unitRequestIn (b : MgmtBind) (tag : BitVec 16) (w : BitVec 64)
  /-- UNIT_RETURN_DONE (R494). -/
  | unitReturnDone (u : BitVec 32) (ok : Bool)
  /-- LADDER_DEVICE_RESET (R488). -/
  | ladderDeviceReset (b : MgmtBind) (tag : BitVec 16) (w : BitVec 32)
  /-- LADDER_POWER_CYCLE (R488). -/
  | ladderPowerCycle (b : MgmtBind) (tag : BitVec 16) (w : BitVec 32)
  /-- ALARM_LEVEL_WRITE (R473). -/
  | alarmLevelWrite (b : MgmtBind) (secured : Bool) (tag : BitVec 16) (src : BitVec 8) (level : BitVec 8)
  /-- KEY_SLOT_QUOTA_WRITE (R467). -/
  | keySlotQuotaWrite (b : MgmtBind) (secured : Bool) (tag : BitVec 16) (v : VDev) (quota : BitVec 16)
  /-- FABRIC_PACKAGE_ID_WRITE (R393). -/
  | fabricPackageIdWrite (b : MgmtBind) (tag : BitVec 16) (id : BitVec 32)
  /-- FABRIC_NOTICE_GROUP_HANG (R393). -/
  | fabricNoticeGroupHang (b : MgmtBind) (tag : BitVec 16) (val : List Byte)
  /-- FABRIC_NOTICE_PACKAGE_LOST (R393). -/
  | fabricNoticePackageLost (b : MgmtBind) (tag : BitVec 16) (val : List Byte)
  /-- PWR_APPLY (R444). -/
  | pwrApply (w : BitVec 32)
  /-- FW_LOAD (R400). -/
  | fwLoad (w : BitVec 32)
  /-- FW_IMAGE_READ_DONE (R400). -/
  | fwImageReadDone (image : Option (List Byte))
  /-- COMMAND_FETCH (R274). -/
  | commandFetch (v : VDev) (q : QAt)
  /-- COMMAND_CURRENT (R281). -/
  | commandCurrent (v : VDev) (q : QId)
  /-- COMMAND_ELIGIBLE (R526). -/
  | commandEligible (v : VDev) (q : QAt)
  /-- DISPATCH_DECISION (R330). -/
  | dispatchDecision (v : VDev) (p : PartId)
  /-- DISPATCH_HANDOFF (R330). -/
  | dispatchHandoff (v : VDev) (q : QAt) (c : Cluster)
  /-- PRELOAD (R150). -/
  | preload (v : VDev) (q : QId) (n : CoreAt)
  /-- BINARY_LOAD (R153). -/
  | binaryLoad (v : VDev) (q : QAt) (c : Cluster)
  /-- NOP (R273). -/
  | nop (v : VDev) (q : QId)
  /-- KERNEL_LAUNCH (R160). -/
  | kernelLaunch (v : VDev) (q : QId)
  /-- GROUP_RESIDENT (R163). -/
  | groupResident (v : VDev) (q : QId)
  /-- QUERY_DISTANCE (R276). -/
  | queryDistance (v : VDev) (q : QId)
  /-- USAGE_SELF (R296). -/
  | usageSelf (v : VDev) (q : QId)
  /-- USAGE_ALL (R296). -/
  | usageAll (v : VDev) (q : QId)
  /-- MATMUL (R119). -/
  | matmul (v : VDev) (q : OpAt)
  /-- MATMUL_BATCHED (R119). -/
  | matmulBatched (v : VDev) (q : OpAt)
  /-- MATMUL_GROUPED (R120). -/
  | matmulGrouped (v : VDev) (q : OpAt)
  /-- MATMUL_FP64 (R121). -/
  | matmulFp64 (v : VDev) (q : OpAt)
  /-- CONV (R122). -/
  | conv (v : VDev) (q : OpAt)
  /-- CONV_TRANSPOSED (R122). -/
  | convTransposed (v : VDev) (q : OpAt)
  /-- CONV_WGRAD (R122). -/
  | convWgrad (v : VDev) (q : OpAt)
  /-- ATTENTION (R123). -/
  | attention (v : VDev) (q : OpAt)
  /-- ATTENTION_BWD (R124). -/
  | attentionBwd (v : VDev) (q : OpAt)
  /-- LAYERNORM (R125). -/
  | layernorm (v : VDev) (q : OpAt)
  /-- RMSNORM (R125). -/
  | rmsnorm (v : VDev) (q : OpAt)
  /-- GROUPNORM (R125). -/
  | groupnorm (v : VDev) (q : OpAt)
  /-- SOFTMAX (R101). -/
  | softmax (v : VDev) (q : OpAt)
  /-- LOG_SOFTMAX (R125). -/
  | logSoftmax (v : VDev) (q : OpAt)
  /-- LAYERNORM_BWD (R126). -/
  | layernormBwd (v : VDev) (q : OpAt)
  /-- RMSNORM_BWD (R126). -/
  | rmsnormBwd (v : VDev) (q : OpAt)
  /-- SOFTMAX_BWD (R126). -/
  | softmaxBwd (v : VDev) (q : OpAt)
  /-- UNARY (R91). -/
  | unary (v : VDev) (q : OpAt)
  /-- ADD (R127). -/
  | add (v : VDev) (q : OpAt)
  /-- SUB (R127). -/
  | sub (v : VDev) (q : OpAt)
  /-- MUL (R127). -/
  | mul (v : VDev) (q : OpAt)
  /-- DIV (R127). -/
  | div (v : VDev) (q : OpAt)
  /-- MAX (R127). -/
  | max (v : VDev) (q : OpAt)
  /-- MIN (R127). -/
  | min (v : VDev) (q : OpAt)
  /-- FMA (R127). -/
  | fma (v : VDev) (q : OpAt)
  /-- SELECT (R128). -/
  | select (v : VDev) (q : OpAt)
  /-- COMPARE (R128). -/
  | compare (v : VDev) (q : OpAt)
  /-- ABS (R128). -/
  | abs (v : VDev) (q : OpAt)
  /-- NEG (R128). -/
  | neg (v : VDev) (q : OpAt)
  /-- RELU (R128). -/
  | relu (v : VDev) (q : OpAt)
  /-- CLAMP (R128). -/
  | clamp (v : VDev) (q : OpAt)
  /-- DROPOUT (R109). -/
  | dropout (v : VDev) (q : OpAt)
  /-- RANDOM_UNIFORM (R128). -/
  | randomUniform (v : VDev) (q : OpAt)
  /-- CAST (R59). -/
  | cast (v : VDev) (q : OpAt)
  /-- PEAT_ROUND (R74). -/
  | peatRound (v : VDev) (q : OpAt)
  /-- PEAT_ACCUMULATE (R71). -/
  | peatAccumulate (v : VDev) (q : OpAt)
  /-- COPY (R44). -/
  | copy (v : VDev) (q : OpAt)
  /-- PERMUTE (R111). -/
  | permute (v : VDev) (q : OpAt)
  /-- FILL (R111). -/
  | fill (v : VDev) (q : OpAt)
  /-- GATHER (R129). -/
  | gather (v : VDev) (q : OpAt)
  /-- SCATTER (R130). -/
  | scatter (v : VDev) (q : OpAt)
  /-- SCATTER_ADD (R130). -/
  | scatterAdd (v : VDev) (q : OpAt)
  /-- SCATTER_MAX (R130). -/
  | scatterMax (v : VDev) (q : OpAt)
  /-- SCATTER_MIN (R130). -/
  | scatterMin (v : VDev) (q : OpAt)
  /-- EMBEDDING (R129). -/
  | embedding (v : VDev) (q : OpAt)
  /-- EMBEDDING_BAG (R129). -/
  | embeddingBag (v : VDev) (q : OpAt)
  /-- TOPK (R131). -/
  | topk (v : VDev) (q : OpAt)
  /-- SORT (R131). -/
  | sort (v : VDev) (q : OpAt)
  /-- ARGMAX (R131). -/
  | argmax (v : VDev) (q : OpAt)
  /-- ARGMIN (R131). -/
  | argmin (v : VDev) (q : OpAt)
  /-- REDUCE_SUM (R132). -/
  | reduceSum (v : VDev) (q : OpAt)
  /-- REDUCE_MAX (R132). -/
  | reduceMax (v : VDev) (q : OpAt)
  /-- REDUCE_MIN (R132). -/
  | reduceMin (v : VDev) (q : OpAt)
  /-- REDUCE_MEAN (R132). -/
  | reduceMean (v : VDev) (q : OpAt)
  /-- REDUCE_VAR (R132). -/
  | reduceVar (v : VDev) (q : OpAt)
  /-- CUMSUM (R132). -/
  | cumsum (v : VDev) (q : OpAt)
  /-- ALL_REDUCE (R134). -/
  | allReduce (v : VDev) (q : OpAt) (remote : List RemotePart)
  /-- REDUCE_SCATTER (R134). -/
  | reduceScatter (v : VDev) (q : OpAt) (remote : List RemotePart)
  /-- ALL_GATHER (R134). -/
  | allGather (v : VDev) (q : OpAt) (remote : List RemotePart)
  /-- ALL_TO_ALL (R134). -/
  | allToAll (v : VDev) (q : OpAt) (remote : List RemotePart)
  /-- BROADCAST (R134). -/
  | broadcast (v : VDev) (q : OpAt) (remote : List RemotePart)
  /-- PEER_FAILURE (R391). -/
  | peerFailure (group : BitVec 32) (seq : BitVec 64)
  /-- RESTART (R427). -/
  | restart (group : BitVec 32) (seq : BitVec 64)
  /-- RESUME (R427). -/
  | resume (group : BitVec 32) (seq : BitVec 64) (phase : Nat)
  /-- MMA (R140). -/
  | mma (n : CoreAt) (g : Nat) (set : MxSel) (a b : TileArg)
  /-- PEAT_SPILL (R79). -/
  | peatSpill (n : CoreAt)
  /-- MDRAIN (R141). -/
  | mdrain (n : CoreAt) (g : Nat) (set : MxSel) (dst : Nat) (mode : DrainMode)
  /-- MCLEAR (R141). -/
  | mclear (n : CoreAt) (g : Nat) (set : MxSel)
  /-- VECTOR_OP (R138). -/
  | vectorOp (n : CoreAt) (g : Nat) (mask : BitVec 32) (op : VecOp) (src dst : Fmt) (rm : RoundMode) (rd : Nat) (rs : List Nat) (ru : Nat)
  /-- FUNCTION_OP (R91). -/
  | functionOp (n : CoreAt) (g : Nat) (mask : BitVec 32) (fn : FnCode) (src dst : Fmt) (rm : RoundMode) (rd rs ru : Nat)
  /-- WISP (R107). -/
  | wisp (n : CoreAt) (g : Nat) (mask : BitVec 32) (rd rStream rElem rDraw : Nat)
  /-- CORE_STORE_LOAD (R145). -/
  | coreStoreLoad (n : CoreAt) (g : Nat) (mask : BitVec 32) (size : AccSize) (rd ra : Nat) (parityBad : Bool)
  /-- CORE_STORE_STORE (R171). -/
  | coreStoreStore (n : CoreAt) (g : Nat) (mask : BitVec 32) (size : AccSize) (ra rs : Nat)
  /-- GLOBAL_LOAD (R166). -/
  | globalLoad (n : CoreAt) (g : Nat) (mask : BitVec 32) (size : AccSize) (rd ra : Nat)
  /-- GLOBAL_STORE (R164). -/
  | globalStore (n : CoreAt) (g : Nat) (mask : BitVec 32) (size : AccSize) (ra rs : Nat)
  /-- ATOMIC_INT (R175). -/
  | atomicInt (n : CoreAt) (g : Nat) (mask : BitVec 32) (op : IntAtomic) (wide core : Bool) (ra rs : Nat)
  /-- ATOMIC_FP_MINMAX (R175). -/
  | atomicFpMinmax (n : CoreAt) (g : Nat) (mask : BitVec 32) (isMax wide core : Bool) (ra rs : Nat)
  /-- ATOMIC_PEAT_ACCUMULATE (R88). -/
  | atomicPeatAccumulate (n : CoreAt) (g : Nat) (mask : BitVec 32) (src : PeatSrc) (core : Bool) (ra rs : Nat)
  /-- COMPARE_AND_SWAP (R177). -/
  | compareAndSwap (n : CoreAt) (g : Nat) (lane : Fin 32) (wide core : Bool) (rd ra re rs : Nat)
  /-- EXCHANGE (R177). -/
  | exchange (n : CoreAt) (g : Nat) (lane : Fin 32) (wide core : Bool) (rd ra rs : Nat)
  /-- FETCH_ATOMIC (R177). -/
  | fetchAtomic (n : CoreAt) (g : Nat) (lane : Fin 32) (op : IntAtomic) (wide core : Bool) (rd ra rs : Nat)
  /-- DALLOC (R182). -/
  | dalloc (n : CoreAt) (g : Nat) (lane : Fin 32) (rd rs : Nat)
  /-- DFREE (R182). -/
  | dfree (n : CoreAt) (g : Nat) (lane : Fin 32) (ra rs : Nat)
  /-- ORDREL (R178). -/
  | ordrel (n : CoreAt) (g : Nat) (mask : BitVec 32)
  /-- ORDERED_TURN (R178). -/
  | orderedTurn (v : VDev) (q : QId)
  /-- GROUP_BARRIER (R167). -/
  | groupBarrier (n : CoreAt) (g : Nat) (lane : Fin 32)
  /-- COHORT_BARRIER (R167). -/
  | cohortBarrier (n : CoreAt) (g : Nat) (lane : Fin 32)
  /-- BARRIER_RELEASE (R167). -/
  | barrierRelease (n : CoreId) (g : Nat) (cohort : Bool)
  /-- MOVER_TRANSFER (R148). -/
  | moverTransfer (n : CoreAt) (g : Nat) (mask : BitVec 32) (x : MoverArg)
  /-- PEER_TRANSFER (R168). -/
  | peerTransfer (n : CoreAt) (g : Nat) (mask : BitVec 32) (src : Nat) (dstGroup off len : Nat)
  /-- MOVER_TRANSFER_COMPLETE (R149). -/
  | moverTransferComplete (n : CoreAt) (g : Nat) (id : Nat)
  /-- MOVER_WAIT (R149). -/
  | moverWait (n : CoreAt) (g : Nat) (lane : Fin 32) (count : Nat)
  /-- COUNTER_READ (R155). -/
  | counterRead (n : CoreAt) (g : Nat) (mask : BitVec 32) (ctr : Fin 13) (rd : Nat)
  /-- IDENTITY_READ (R161). -/
  | identityRead (n : CoreAt) (g : Nat) (mask : BitVec 32) (id : Identity) (rd : Nat)
  /-- THREAD_END (R167). -/
  | threadEnd (n : CoreAt) (g : Nat) (lane : Fin 32)
  /-- READ_REQ (R210). -/
  | readReq (id : Nat) (bad : ReadFault)
  /-- WRITE (R210). -/
  | write (id : ReqAt)
  /-- ATOMIC (R210). -/
  | atomic (id : ReqAt)
  /-- READ_DATA (R166). -/
  | readData (id : Nat)
  /-- WRITE_ACK (R210). -/
  | writeAck (id : Nat)
  /-- ATOMIC_ACK (R210). -/
  | atomicAck (id : Nat)
  /-- PEER_WRITE (R168). -/
  | peerWrite (id : Nat)
  /-- FRAGMENTS (R198). -/
  | fragments (ep : BitVec 12) (src : BitVec 12) (msg : BitVec 16) (first : Nat) (frags : List (BitVec 256))
  /-- FULL_WORD (R198). -/
  | fullWord (ep : BitVec 12) (src : BitVec 12) (msg : BitVec 16) (ordinal : Nat) (word : BitVec 768)
  /-- MGMT (R191). -/
  | mgmt (dest : BitVec 12) (src : BitVec 12) (payload : List Byte)
  /-- RANGE_WALK (R247). -/
  | rangeWalk (v : VDev) (n : XNode) (va : BitVec 64)
  /-- WALK_REPLY (R247). -/
  | walkReply (v : VDev) (n : XNode) (va : BitVec 64)
  /-- TRANSLATION_FAULT (R251). -/
  | translationFault (id : Nat)
  /-- FAULT_TABLE_RETRY_TIMER (R251). -/
  | faultTableRetryTimer (id : Nat)
  /-- FAULT_BATCH_TIMER (R255). -/
  | faultBatchTimer (v : VDev)
  /-- FENCE_SIGNAL (R215). -/
  | fenceSignal (id : FenceAt)
  /-- FENCE_FAIL (R215). -/
  | fenceFail (id : FenceAt)
  /-- FENCE_WAIT (R216). -/
  | fenceWait (id : FenceAt)
  /-- FENCE_READ (R215). -/
  | fenceRead (die : Die) (cell : CellAt)
  /-- FENCE_WAIT_NOTIFY (R216). -/
  | fenceWaitNotify (id : Nat)
  /-- FENCE_WAIT_RETRY_TIMER (R216). -/
  | fenceWaitRetryTimer (id : Nat)
  /-- FENCE_OP_REPLY (R284). -/
  | fenceOpReply (id : Nat)
  /-- FENCE_PROXY_TIMEOUT (R394). -/
  | fenceProxyTimeout (v : VDev) (slot : BitVec 16)
  /-- COMMAND_TIMEOUT (R284). -/
  | commandTimeout (v : VDev) (q : QId)
  /-- ATTEMPT_LAST_WRITE_ACKED (R217). -/
  | attemptLastWriteAcked (v : VDev) (q : QId)
  /-- DIGEST_CLOSE (R218). -/
  | digestClose (v : VDev) (q : QAt) (k : Die)
  /-- LEAF_HASH (R218). -/
  | leafHash (v : VDev) (q : QId) (k : Die)
  /-- RECEIPT_SIGN_DONE (R31). -/
  | receiptSignDone (v : VDev) (q : QId)
  /-- COMMAND_COMPLETE (R278). -/
  | commandComplete (v : VDev) (q : QId)
  /-- CHAIN_SUCCESSOR_FETCH (R282). -/
  | chainSuccessorFetch (v : VDev) (q : QAt)
  /-- BE_SLICE_EXPIRY (R333). -/
  | beSliceExpiry (v : VDev) (p : PartId)
  /-- ABORT (R311). -/
  | abort (v : VDev) (q : QId) (e : Engine)
  /-- ABORT_ACK (R311). -/
  | abortAck (v : VDev) (q : QId) (e : Engine)
  /-- MAP_PUBLISH (R338). -/
  | mapPublish (v : VDev) (e : Endp)
  /-- MAP_ACK (R338). -/
  | mapAck (v : VDev) (e : Endp)
  /-- DRAINED (R339). -/
  | drained (u : BitVec 32) (e : Endp)
  /-- REBIND_GRACE_EXPIRY (R341). -/
  | rebindGraceExpiry (n : CoreId)
  /-- SLUICE_SCRUB_DONE (R342). -/
  | sluiceScrubDone (u : BitVec 32)
  /-- SLUICE_OVERDUE (R343). -/
  | sluiceOverdue (u : BitVec 32)
  /-- PACKET_RECEIVE (R199). -/
  | packetReceive (l : Hop) (p : Packet) (parityBad : Bool)
  /-- ROUTER_FAIL (R200). -/
  | routerFail (r : Fin 212)
  /-- CHANNEL_TRAINING_LOSS (R219). -/
  | channelTrainingLoss (c : Chan)
  /-- CHANNEL_RETRAIN_DONE (R219). -/
  | channelRetrainDone (c : Chan) (ok : Bool)
  /-- PATROL_SCRUB (R221). -/
  | patrolScrub (c : Chan) (line : Nat) (corrected written bad : Bool)
  /-- CHANNEL_RETIRE (R225). -/
  | channelRetire (c : Chan)
  /-- CHANNEL_COPY_DONE (R225). -/
  | channelCopyDone (c : Chan)
  /-- RETIRING_NOTICE_TIMER (R226). -/
  | retiringNoticeTimer (c : Chan)
  /-- MC_DIE_LOST (R227). -/
  | mcDieLost (k : Die)
  /-- HBM_TEMP_READ (R448). -/
  | hbmTempRead (k : Die) (tenths : Int)
  /-- CORE_RETIRE_GRACE_EXPIRY (R158). -/
  | coreRetireGraceExpiry (n : CoreId)
  /-- CORE_SELF_TEST_DONE (R158). -/
  | coreSelfTestDone (n : CoreId) (pass : Bool)
  /-- ENGINE_HANG (R429). -/
  | engineHang (e : Engine)
  /-- DREDGE_SUSPECT_END (R431). -/
  | dredgeSuspectEnd (e : Engine) (completed : Bool)
  /-- FW_WATCHDOG_EXPIRY (R408). -/
  | fwWatchdogExpiry (p : Proc)
  /-- FW_TRAP (R408). -/
  | fwTrap (p : Proc)
  /-- FW_RESTART (R412). -/
  | fwRestart (p : Proc) (section_ : List Byte)
  /-- FW_RESTART_TIMEOUT (R412). -/
  | fwRestartTimeout (p : Proc)
  /-- SCHEDULER_TAKEOVER (R411). -/
  | schedulerTakeover
  /-- JOURNAL_APPEND (R410). -/
  | journalAppend (r : List Byte)
  /-- DEVICE_RESET (R434). -/
  | deviceReset
  /-- POWER_CYCLE (R435). -/
  | powerCycle
  /-- PORT_SIGNAL_DETECT (R376). -/
  | portSignalDetect (p : Port)
  /-- PORT_TRAINING_DONE (R376). -/
  | portTrainingDone (p : Port) (locked : LaneLock)
  /-- PORT_TRAIN_RETRY_TIMER (R376). -/
  | portTrainRetryTimer (p : Port)
  /-- PORT_SESSION_DONE (R382). -/
  | portSessionDone (p : Port) (authentic : Bool) (peerAcl : BitVec 16) (peerPort : BitVec 4) (peerPkg : BitVec 32)
  /-- FLIT_DATA (R380). -/
  | flitData (p : Port) (hdr : BitVec 128) (fecBad : Bool) (body : FlitBody) (corrected : List Nat)
  /-- FLIT_MGMT (R382). -/
  | flitMgmt (p : Port) (hdr : BitVec 128) (fecBad : Bool) (body : MgmtBody)
  /-- RETRY_REQ (R380). -/
  | retryReq (p : Port) (seq : BitVec 32)
  /-- LANE_SWITCH (R378). -/
  | laneSwitch (p : Port) (failed : Fin 10) (seq : BitVec 32)
  /-- LANE_FAIL (R378). -/
  | laneFail (p : Port) (lane : Fin 10)
  /-- PORT_RETRAIN_DONE (R381). -/
  | portRetrainDone (p : Port) (ok : Bool) (locked : LaneLock)
  /-- SESSION_REKEY (R383). -/
  | sessionRekey (p : Port)
  /-- FABRIC_SEGMENT (R386). -/
  | fabricSegment (p : Port) (hdr : BitVec 256) (data : List Byte)
  /-- POWER_GOOD (R495). -/
  | powerGood (alarms : BitVec 3)
  /-- POWER_GOOD_DEASSERT (R507). -/
  | powerGoodDeassert
  /-- STACK_GROUP_POWER_UP (R506). -/
  | stackGroupPowerUp (g : Fin 4)
  /-- CHANNEL_READY (R497). -/
  | channelReady (c : Chan) (pass : ReadyResult)
  /-- EARLY_SERVICE_START (R498). -/
  | earlyServiceStart
  /-- FULL_SERVICE_START (R499). -/
  | fullServiceStart
  /-- START_UP_BOUND_EXPIRY (R499). -/
  | startUpBoundExpiry (u : BitVec 32)
  /-- REFERENCE_CLOCK_LOSS (R512). -/
  | referenceClockLoss
  /-- VOLTAGE_ACK (R508). -/
  | voltageAck (c : Cluster)
  /-- CURRENT_ALERT (R509). -/
  | currentAlert (c : Cluster)
  /-- CURRENT_ALERT_RELEASE (R448). -/
  | currentAlertRelease (c : Cluster)
  /-- POWER_ESTIMATE_TICK (R443). -/
  | powerEstimateTick
  /-- PFP_TELEMETRY (R443). -/
  | pfpTelemetry (microjoules : Nat)
  /-- PHASE_KEY_UPDATE (R447). -/
  | phaseKeyUpdate
  /-- POWER_ALLOCATION (R446). -/
  | powerAllocation
  /-- THERMAL_THROTTLE (R448). -/
  | thermalThrottle (d : ThermDie) (tenths : Int)
  /-- THROTTLE_STEP_TIMER (R448). -/
  | throttleStepTimer (d : ThermDie) (tenths : Int)
  /-- THERMAL_CRITICAL (R448). -/
  | thermalCritical (d : ThermDie) (tenths : Int)
  /-- THERMTRIP (R510). -/
  | thermtrip (d : ThermDie)
  /-- CORE_IDLE_ENTRY (R454). -/
  | coreIdleEntry (n : CoreId)
  /-- CORE_WAKE (R456). -/
  | coreWake (n : CoreId)
  /-- CHANNEL_IDLE_TIMER (R456). -/
  | channelIdleTimer (c : Chan)
  /-- PFS_ALARM (R513). -/
  | pfsAlarm (line : Fin 3) (ns : Nat)
  /-- PFS_HEARTBEAT_LOSS (R513). -/
  | pfsHeartbeatLoss
  /-- DEBUG_PORT_ENABLE (R472). -/
  | debugPortEnable (manufacturing : Bool)
  /-- ALARM (R472). -/
  | alarm (src : BitVec 8) (detail : BitVec 16)
  /-- UNDO_JOURNAL_APPLIED (R421). -/
  | undoJournalApplied (v : VDev) (q : QId)
  /-- MIRROR_REBUILD_DONE (R240). -/
  | mirrorRebuildDone (v : VDev) (data : List Byte)
  /-- REMIRROR_COPY_DONE (R428). -/
  | remirrorCopyDone (v : VDev) (set : SetId)
  /-- SOFT_REPAIR_DONE (R222). -/
  | softRepairDone (c : Chan)
  /-- CRITICAL_TEMPERATURE_RELEASE (R448). -/
  | criticalTemperatureRelease (d : ThermDie) (tenths : Int)
  /-- CLASS_N_WRITE_CONFIRM (R480). -/
  | classNWriteConfirm
  /-- REFERENCE_CLOCK_RETURN (R512). -/
  | referenceClockReturn
  /-- PFS_ALARM_DEASSERT (R513). -/
  | pfsAlarmDeassert (line : Fin 3)
  /-- HOST_PORT_LINK_UP (R515). -/
  | hostPortLinkUp (p : HPort) (rate width : Nat) (cxl : Bool)
  /-- HUB_DIE_FAILURE (R433). -/
  | hubDieFailure (h : Hub)
  /-- EVC_MASK_WRITE (R360). -/
  | evcMaskWrite (c : EvCtl) (p : Fin 2) (m : Bool)
  /-- ATS_TRANSLATION_COMPLETION (R250). -/
  | atsTranslationCompletion (fn : FnId) (page : Nat) (r w : Bool)
  /-- HOST_READ_COMPLETION (R248). -/
  | hostReadCompletion (id : Nat) (data : List Byte)
  deriving DecidableEq, Repr

end Sys2Proof
end

