-- ==== Sys2Proof/Config.lean ====
section
/-! DEFINITION. What one part fixes and the values the manual leaves open: constants without a body, of which no proof
can see a value. Each is named in the assumption log. -/

namespace Sys2Proof.Config

/-- PCI-SIG vendor identifier of Pusendal: never a constant to assume (R485). -/
opaque vendorId : BitVec 16
/-- Silicon revision of the part (R485). -/
opaque siliconRevision : BitVec 16
/-- Package serial number, fixed at manufacture (R485). -/
opaque serialNumber : BitVec 64

/-- What a byte reads as under a key other than the key it was written under: the byte's address, the key that wrote
it, the reading key (both as numbers, see `KeyId.code`), and the stored byte (R212). -/
opaque foreignByte : Nat → Nat → Nat → Byte → Byte
/-- A register of a core that the running command has not written (R137): a draw number, the lane and the register. -/
opaque freeReg : Nat → Nat → Nat → BitVec 32
/-- A core-store byte that the running command has not written (R137): a draw number and the offset. -/
opaque freeStoreByte : Nat → Nat → Byte
/-- A byte that a failed command leaves in its output ranges (R287): a draw number and the byte's position. -/
opaque unspecifiedByte : Nat → Nat → Byte
/-- The scale byte of a block of moved patterns whose scales differ, or of patterns that bring no scale: the patterns with
their scales (R10: the same for the same elements; R129 and R130 give no such scale). -/
opaque mixedScale : List (Nat × Option Nat) → Byte
/-- The cycles of an island's clock in one reference period (R185, R187): the island and the period. -/
opaque tickCycles : Nat → Nat → Nat
/-- What a timing-dependent counter of a core gains in one reference period (Table 6-7): core, counter, period. -/
opaque tickCount : Nat → Nat → Nat → Nat
/-- The security core's random bit generator (R303, R469): a draw number. -/
opaque randomBits : Nat → BitVec 512
/-- The key pair of key slot 0 (R467). -/
opaque slotZeroKey : BitVec 512
/-- How firmware configures a source of an event controller (R358): the controller and the source; the priority, hold count and hold
limit that it writes. -/
opaque sourceConfig : Nat → Nat → BitVec 32
/-- Whether a processor that handles nothing and finds nothing to claim goes to sleep (R360). -/
opaque sleeps : Nat → Bool
/-- A nonce of an ECDSA signature (R31): a draw number and the number of the try. -/
opaque signingNonce : Nat → Nat → Nat
/-- What the attestation private key is derived from: the root secret in PF-S (R460). -/
opaque attestationSeed : Nat
/-- The first byte of the certificate chain of SPDM slot 0, held in PF-S (R460). -/
opaque certificateHead : Byte
/-- The other bytes of the certificate chain. -/
opaque certificateTail : List Byte
/-- The certificate chain: at least one byte. -/
def certificateChain : List Byte := certificateHead :: certificateTail
/-- The public key of the firmware signing key, whose hash PF-S holds (R399). -/
opaque firmwareKey : Nat × Nat
/-- The floor of the security version number held in PF-S (R400). -/
opaque svnFloor : Nat
/-- The TDISP device interface report of a virtual function, whose content the manual leaves to the cited standard. -/
opaque tdispReport : Nat → List Byte
/-- Whether an 8-byte word decodes to an instruction at a level (R153 check 3): the core code encoding is in the Core
Code Reference. Arguments: the level and the word. -/
opaque coreWordDecodes : Nat → BitVec 64 → Bool
/-- Checks 4 to 6 of R153 on a code section: level, registers per thread, call depth, entry, code bytes. -/
opaque coreCodeOk : Nat → Nat → Nat → Nat → List Byte → Bool
/-- Whether a code section reads a wisp block (R153 check 7). -/
opaque coreCodeReadsWisp : List Byte → Bool
/-- Whether a code section holds an ordered atomic (R177). -/
opaque coreCodeOrdered : List Byte → Bool
/-- Whether a code section uses the matrix engine (R254). -/
opaque coreCodeMatrix : List Byte → Bool
/-- The number of work units firmware divides an operation into (R331): operation id and output elements. -/
opaque workUnits : Nat → Nat → Nat
/-- Whether a built-in operation fits in what a switched-out command leaves free of a core (R254): operation id; free thread slots,
registers and bytes of core store. -/
opaque opFits : Nat → Nat × Nat × Nat → Bool
/-- What a built-in operation holds of each of its cores (R254): operation id; thread slots, registers, bytes of core store. -/
opaque opHolds : Nat → Nat × Nat × Nat
/-- The estimate of a domain's power over an interval (R443): a draw number, the domain 0 compute, 1 memory, 2 links, and the
correction of its gain. In watts. -/
opaque powerEstimate : Nat → Nat → Int → Nat
/-- Measured power per domain at 1.0 GHz of a phase key in an interval (R447): draw number, key, domain; watts. -/
opaque phasePower : Nat → Nat → Nat → Nat
/-- Fraction of cycles stalled on memory of a phase key, in 1/256 (R447). -/
opaque phaseStall : Nat → Nat → Nat
/-- The lever setting the controller derives from an allocation (R446): domain, unit, allocation in watts. -/
opaque leverFor : Nat → Nat → Nat → Nat
/-- The core clock the controller gives a core (R446): core number and compute allocation; in units of 25 MHz. -/
opaque clockFor : Nat → Nat → Nat
/-- The voltage set point the controller requests for a clock (R508), in millivolts. -/
opaque voltageFor : Nat → Nat
/-- Energy attributed to a queue or partition at one tick (R452), in microjoules: draw number and counter. -/
opaque energyShare : Nat → Nat → Nat
/-- The channel firmware picks for a new mirror among those in service (R240): virtual device. -/
opaque mirrorChannel : Nat → Nat
/-- The temperature of a die where no reading has been taken, in 0.1 °C. -/
opaque temperature : Nat → Int
/-- The salt of a fabric session (R383): draw number. -/
opaque linkSalt : Nat → BitVec 32
/-- The key of the receiving direction of a fabric session (R382): draw number. -/
opaque linkKey : Nat → BitVec 256
/-- The endpoint in another package that receives a group's messages, and its virtual device there (Table 15-4): package and group. -/
opaque peerEndpoint : Nat → Nat → BitVec 12
/-- The virtual device in another package that has joined a group: package and group. -/
opaque peerVdev : Nat → Nat → BitVec 8
/-- The key that seals a blob, by number, which the security core shares with that of the destination (R367). -/
opaque migrationKey : Nat → BitVec 256
/-- The bytes of a section of a blob, by number and section, but for section 9: the manual lists what a section holds and gives no layout
(Table 14-8). -/
opaque blobSection : Nat → Nat → List Byte
/-- The initial count of spare rows of a channel's banks (Table 9-10). -/
opaque spareRows : Nat → Nat
/-- The lines of a row of a channel, which a soft repair reads and writes back (R222). -/
opaque rowLines : Nat → Nat
/-- The row of the stack that holds a line of a channel: channel, channel offset of the line (R222). -/
opaque rowOf : Nat → Nat → Nat
/-- The bank of a row of a channel (R223). -/
opaque bankOf : Nat → Nat → Nat

end Sys2Proof.Config
end

