-- ==== Sys2Proof/Machine/Flags.lean ====
section
/-! DEFINITION. The exception flag word (R62, Table 2-7) and its sticky OR (R63). -/

namespace Sys2Proof.Machine

/-- The 32-bit exception flag word (Table 2-7). -/
abbrev FlagWord := BitVec 32

/-- INVALID, bit 0. -/
def fInvalid : FlagWord := 1
/-- DIVZERO, bit 1. -/
def fDivZero : FlagWord := 2
/-- OVERFLOW, bit 2. -/
def fOverflow : FlagWord := 4
/-- UNDERFLOW, bit 3. -/
def fUnderflow : FlagWord := 8
/-- INEXACT, bit 4. -/
def fInexact : FlagWord := 16
/-- SATURATE, bit 5. -/
def fSaturate : FlagWord := 32

/-- A flag raised when a condition holds. -/
def fIf (c : Bool) (f : FlagWord) : FlagWord := if c then f else 0

/-- The sticky word of a list of words: their bitwise OR (R63). -/
def orFlags : List FlagWord → FlagWord
  | [] => 0
  | f :: fs => f ||| orFlags fs

end Sys2Proof.Machine
end

