-- ==== Sys2Proof/Machine/Formats.lean ====
section
/-! DEFINITION. Number formats and rounding (chapter Number formats and rounding, R40 … R61): what each pattern means,
and how an exact value becomes a pattern and which flags that raises. -/

namespace Sys2Proof.Machine

/-- A finite value to be rounded: magnitude `m · 2^e`, or, with `st`, a magnitude strictly between `m · 2^e` and
`(m + 1) · 2^e`. A zero keeps its sign (R46). -/
structure Ex where
  neg : Bool
  m : Nat
  e : Int
  st : Bool := false
  deriving DecidableEq, Repr

/-- The value of an element: NaN (signalling or quiet, R45), an infinity, or finite. -/
inductive Val where
  | nan (signalling : Bool)
  | inf (neg : Bool)
  | fin (x : Ex)
  deriving DecidableEq, Repr

/-- An exact finite value. -/
def Val.mk (neg : Bool) (m : Nat) (e : Int) : Val := .fin { neg := neg, m := m, e := e }

/-- +0. -/
def Val.zero : Val := .mk false 0 0

/-- Layout of a floating-point element (Table 2-2) and its extremes (Table 2-3). -/
structure FpSpec where
  ebits : Nat
  mbits : Nat
  bias : Nat
  maxFinite : Nat
  hasInf : Bool
  canonNan : Option Nat
  deriving DecidableEq, Repr

/-- The element layout of a floating-point or block-scaled format (Table 2-2, Table 2-3). -/
def fpSpec : Fmt → Option FpSpec
  | .fp64 => some ⟨11, 52, 1023, 0x7FEFFFFFFFFFFFFF, true, some 0x7FF8000000000000⟩
  | .fp32 => some ⟨8, 23, 127, 0x7F7FFFFF, true, some 0x7FC00000⟩
  | .fp16 => some ⟨5, 10, 15, 0x7BFF, true, some 0x7E00⟩
  | .bf16 => some ⟨8, 7, 127, 0x7F7F, true, some 0x7FC0⟩
  | .e5m2 | .mxe5m2 => some ⟨5, 2, 15, 0x7B, true, some 0x7E⟩
  | .e4m3 | .mxe4m3 => some ⟨4, 3, 7, 0x7E, false, some 0x7F⟩
  | .e3m2 | .mxe3m2 => some ⟨3, 2, 3, 0x1F, false, none⟩
  | .e2m3 | .mxe2m3 => some ⟨2, 3, 1, 0x1F, false, none⟩
  | .e2m1 | .mxfp4 => some ⟨2, 1, 1, 0x7, false, none⟩
  | .int8 | .int4 | .int32 | .int64 | .mxint8 | .peat => none

/-- Largest exponent of an element, 0 for MXINT8 (Table 2-2, R60). -/
def emaxOf : Fmt → Int
  | .fp64 => 1023
  | .fp32 | .bf16 => 127
  | .fp16 | .e5m2 | .mxe5m2 => 15
  | .e4m3 | .mxe4m3 => 8
  | .e3m2 | .mxe3m2 => 4
  | .e2m3 | .mxe2m3 | .e2m1 | .mxfp4 => 2
  | .int8 | .int4 | .int32 | .int64 | .mxint8 | .peat => 0

/-- Format codes FMT (Table 2-1). -/
def fmtCode : Fmt → Nat
  | .fp64 => 0x01 | .fp32 => 0x02 | .fp16 => 0x03 | .bf16 => 0x04 | .e4m3 => 0x05 | .e5m2 => 0x06 | .e2m3 => 0x07
  | .e3m2 => 0x08 | .e2m1 => 0x09 | .int8 => 0x0A | .int4 => 0x0B | .int32 => 0x0C | .int64 => 0x0D
  | .mxe4m3 => 0x10 | .mxe5m2 => 0x11 | .mxe2m3 => 0x12 | .mxe3m2 => 0x13 | .mxfp4 => 0x14 | .mxint8 => 0x15
  | .peat => 0x18

/-- The format of a code; reserved codes have none (R40). -/
def fmtOfCode : Nat → Option Fmt
  | 0x01 => some .fp64 | 0x02 => some .fp32 | 0x03 => some .fp16 | 0x04 => some .bf16 | 0x05 => some .e4m3
  | 0x06 => some .e5m2 | 0x07 => some .e2m3 | 0x08 => some .e3m2 | 0x09 => some .e2m1 | 0x0A => some .int8
  | 0x0B => some .int4 | 0x0C => some .int32 | 0x0D => some .int64 | 0x10 => some .mxe4m3 | 0x11 => some .mxe5m2
  | 0x12 => some .mxe2m3 | 0x13 => some .mxe3m2 | 0x14 => some .mxfp4 | 0x15 => some .mxint8 | 0x18 => some .peat
  | _ => none

/-- Element width in bits; a peat word takes 768 stored bits (Table 2-1). -/
def fmtBits : Fmt → Nat
  | .fp64 | .int64 => 64
  | .fp32 | .int32 => 32
  | .fp16 | .bf16 => 16
  | .e4m3 | .e5m2 | .int8 | .mxe4m3 | .mxe5m2 | .mxint8 => 8
  | .e2m3 | .e3m2 | .mxe2m3 | .mxe3m2 => 6
  | .e2m1 | .int4 | .mxfp4 => 4
  | .peat => 768

/-- Block-scaled formats (R50). -/
def fmtIsMx : Fmt → Bool
  | .mxe4m3 | .mxe5m2 | .mxe2m3 | .mxe3m2 | .mxfp4 | .mxint8 => true
  | .fp64 | .fp32 | .fp16 | .bf16 | .e4m3 | .e5m2 | .e2m3 | .e3m2 | .e2m1 | .int8 | .int4 | .int32 | .int64
  | .peat => false

/-- Integer formats (R48); MXINT8 is block-scaled, not an integer format. -/
def fmtIsInt : Fmt → Bool
  | .int8 | .int4 | .int32 | .int64 => true
  | .fp64 | .fp32 | .fp16 | .bf16 | .e4m3 | .e5m2 | .e2m3 | .e3m2 | .e2m1 | .mxe4m3 | .mxe5m2 | .mxe2m3 | .mxe3m2
  | .mxfp4 | .mxint8 | .peat => false

/-- Plain floating-point formats, not block-scaled. -/
def fmtIsFp (f : Fmt) : Bool := !fmtIsInt f && !fmtIsMx f && f != .peat

/-- Rounding mode codes (Table 2-4); 5 … 7 are reserved (R54). -/
def roundOfCode : Nat → Option RoundMode
  | 0 => some .rne | 1 => some .rtz | 2 => some .rup | 3 => some .rdn | 4 => some .sr
  | _ => none

/-- The value of a floating-point element (R42, R43). -/
def decodeFp (s : FpSpec) (b : Nat) : Val :=
  let neg := bitAt b (s.ebits + s.mbits)
  let ef := bits b (s.ebits + s.mbits - 1) s.mbits
  let mf := b % 2 ^ s.mbits
  let ones := 2 ^ s.ebits - 1
  if s.hasInf && ef == ones then
    if mf == 0 then .inf neg else .nan (!bitAt mf (s.mbits - 1))
  else if s.canonNan.isSome && !s.hasInf && ef == ones && mf == 2 ^ s.mbits - 1 then .nan false
  else if ef == 0 then .mk neg mf (1 - (s.bias : Int) - s.mbits)
  else .mk neg (2 ^ s.mbits + mf) ((ef : Int) - s.bias - s.mbits)

/-- An integer as a value. -/
def valOfInt (i : Int) : Val := .mk (decide (i < 0)) i.natAbs 0

/-- The value of an element without its scale: R42, R43, R48, R49. -/
def decodeElem (f : Fmt) (b : Nat) : Val :=
  match fpSpec f with
  | some s => decodeFp s (b % 2 ^ fmtBits f)
  | none =>
    match f with
    | .mxint8 => let i := toSigned 8 b; .mk (decide (i < 0)) i.natAbs (-6)
    | _ => valOfInt (toSigned (fmtBits f) b)

/-- Multiply a value by `2^k`, exactly. -/
def valScale (v : Val) (k : Int) : Val :=
  match v with
  | .fin x => .fin { x with e := x.e + k }
  | .nan s => .nan s
  | .inf n => .inf n

/-- The value of a block-scaled element under the scale byte `x` (R47, R50). -/
def decodeMx (f : Fmt) (b x : Nat) : Val :=
  if x % 256 = 255 then .nan false else valScale (decodeElem f b) ((x % 256 : Nat) - 127)

/-- Position of the leading bit of a finite non-zero magnitude: floor(log2 |x|). -/
def exLog2 (x : Ex) : Int := if x.m = 0 then x.e - 1 else (Nat.log2 x.m : Int) + x.e

/-- A magnitude cut at the quantum `2^q`: the count of whole quanta, the remainder over `2^s`, and `s`. -/
def cutAt (x : Ex) (q : Int) : Nat × Nat × Nat :=
  if x.e ≥ q then (x.m * 2 ^ (x.e - q).toNat, 0, 0)
  else
    let s := (q - x.e).toNat
    (x.m / 2 ^ s, x.m % 2 ^ s, s)

/-- Whether the magnitude is taken up to the next quantum (Table 2-4, R57); `u` is the draw under SR. -/
def roundUp (rm : RoundMode) (u : Nat) (neg : Bool) (n r s : Nat) (st : Bool) : Bool :=
  if r = 0 ∧ st = false then false
  else
    match rm with
    | .rne => if 2 * r = 2 ^ s ∧ st = false then n % 2 == 1 else decide (2 * r ≥ 2 ^ s)
    | .rtz => false
    | .rup => !neg
    | .rdn => neg
    | .sr => decide (u < r * 2 ^ 32 / 2 ^ s)

/-- Integer a value rounds to (magnitude), and whether that changed it. -/
def roundToInt (rm : RoundMode) (u : Nat) (x : Ex) : Nat × Bool :=
  let (n, r, s) := cutAt x 0
  let up := roundUp rm u x.neg n r s x.st
  (if up then n + 1 else n, decide (r ≠ 0) || x.st)

/-- The overflowing result is an infinity (Table 2-5, infinity formats). -/
def overflowToInf (rm : RoundMode) (neg : Bool) : Bool :=
  match rm with
  | .rne | .sr => true
  | .rtz => false
  | .rup => !neg
  | .rdn => neg

/-- Set the sign bit of a pattern. -/
def withSign (s : FpSpec) (neg : Bool) (b : Nat) : Nat := if neg then b + 2 ^ (s.ebits + s.mbits) else b

/-- The pattern of +∞. -/
def infBits (s : FpSpec) : Nat := (2 ^ s.ebits - 1) * 2 ^ s.mbits

/-- Compare a magnitude with a pattern's magnitude: `|x| > value of b`. -/
def magGtBits (s : FpSpec) (x : Ex) (b : Nat) : Bool :=
  match decodeFp s b with
  | .fin y =>
    let k := min x.e y.e
    let a := x.m * 2 ^ (x.e - k).toNat
    let c := y.m * 2 ^ (y.e - k).toNat
    decide (a > c) || (x.st && decide (a ≥ c))
  | _ => false

/-- The result of a finite overflow in a format (R55, Table 2-5). -/
def overflowResult (s : FpSpec) (rm : RoundMode) (neg : Bool) : Nat × FlagWord :=
  if s.hasInf then
    (withSign s neg (if overflowToInf rm neg then infBits s else s.maxFinite), fOverflow ||| fInexact)
  else (withSign s neg s.maxFinite, fOverflow ||| fInexact ||| fSaturate)

/-- Round a finite value into a floating-point element (R53 … R58). -/
def roundFp (s : FpSpec) (rm : RoundMode) (u : Nat) (x : Ex) : Nat × FlagWord :=
  if x.m = 0 ∧ x.st = false then (withSign s x.neg 0, 0)
  else
    let qmin : Int := 1 - (s.bias : Int) - s.mbits
    let q := max (exLog2 x - s.mbits) qmin
    let (n, r, sh) := cutAt x q
    let inex := decide (r ≠ 0) || x.st
    if rm = .sr ∧ magGtBits s x s.maxFinite then overflowResult s rm x.neg
    else
      let n' := if roundUp rm u x.neg n r sh x.st then n + 1 else n
      let b := (q - qmin).toNat * 2 ^ s.mbits + n'
      if b > s.maxFinite then overflowResult s rm x.neg
      else
        let tiny := decide (b < 2 ^ s.mbits)
        (withSign s x.neg b, fIf (tiny && inex) fUnderflow ||| fIf inex fInexact)

/-- Least and greatest integer of an integer format of `w` bits (R48). -/
def intMin (w : Nat) : Int := -((2 ^ (w - 1) : Nat) : Int)
/-- Greatest integer of `w` bits (R48). -/
def intMax (w : Nat) : Int := ((2 ^ (w - 1) : Nat) : Int) - 1

/-- The integer cast (R59, Table 2-6): `srcInt` says the source has an integer format. -/
def castInt (w : Nat) (rm : RoundMode) (u : Nat) (srcInt : Bool) (v : Val) : Nat × FlagWord :=
  match v with
  | .nan _ => (0, fInvalid)
  | .inf neg => (ofSigned w (if neg then intMin w else intMax w), fInvalid ||| fSaturate)
  | .fin x =>
    let (n, inex) := roundToInt rm u x
    let i : Int := if x.neg then -(n : Int) else n
    let out := if srcInt then fSaturate else fInvalid ||| fSaturate
    if i > intMax w then (ofSigned w (intMax w), out)
    else if i < intMin w then (ofSigned w (intMin w), out)
    else (ofSigned w i, fIf inex fInexact)

/-- The floating-point cast of a value (R59, Table 2-6). -/
def castFp (s : FpSpec) (rm : RoundMode) (u : Nat) (v : Val) : Nat × FlagWord :=
  match v with
  | .nan sig =>
    match s.canonNan with
    | some c => (c, fIf sig fInvalid)
    | none => (0, fInvalid)
  | .inf neg =>
    if s.hasInf then (withSign s neg (infBits s), 0) else (withSign s neg s.maxFinite, fSaturate ||| fInexact)
  | .fin x => roundFp s rm u x

/-- Round a value once into an element of a format other than PEAT, without its scale (R59). For MXINT8 the pattern
is the integer cast of 64 times the value (R60 step 4). DESIGN CHOICE: a value of an integer-format source that leaves the INT8
range there raises INVALID and SATURATE, since what is cast is the scaled value. -/
def castElem (f : Fmt) (rm : RoundMode) (u : Nat) (srcInt : Bool) (v : Val) : Nat × FlagWord :=
  match fpSpec f with
  | some s => castFp s rm u v
  | none =>
    match f with
    | .mxint8 => castInt 8 rm u false (valScale v 6)
    | _ => castInt (fmtBits f) rm u srcInt v

/-- `|x| ≥ |y|` through the leading bits only. -/
def valLog2? : Val → Option Int
  | .fin x => if x.m = 0 ∧ x.st = false then none else some (exLog2 x)
  | _ => none

/-- The largest floor(log2 |xi|) over the finite non-zero values of a block. -/
def blockLog2 : List Val → Option Int
  | [] => none
  | v :: vs =>
    match valLog2? v, blockLog2 vs with
    | none, r => r
    | some a, none => some a
    | some a, some b => some (max a b)

/-- A NaN value. -/
def Val.isNan : Val → Bool
  | .nan _ => true
  | _ => false

/-- A signalling NaN value. -/
def Val.isSNan : Val → Bool
  | .nan s => s
  | _ => false

/-- An infinite value. -/
def Val.isInf : Val → Bool
  | .inf _ => true
  | _ => false

/-- A zero of either sign. -/
def Val.isZero : Val → Bool
  | .fin x => decide (x.m = 0) && !x.st
  | _ => false

/-- The sign of a value; a NaN counts as positive. -/
def Val.sign : Val → Bool
  | .nan _ => false
  | .inf n => n
  | .fin x => x.neg

/-- The scale exponent S of a block (R60 step 2). -/
def blockScaleExp (f : Fmt) (vs : List Val) : Int :=
  match blockLog2 vs with
  | none => 0
  | some e => max (-127) (min 127 (e - emaxOf f))

/-- The elements of a block at scale exponent `k`, each with its flags; `us` holds the draw of each (R60 step 4). -/
def castBlockElems (f : Fmt) (rm : RoundMode) (k : Int) : List (Val × Bool) → List Nat → List (Nat × FlagWord)
  | [], _ => []
  | (v, srcInt) :: vs, us =>
    castElem f rm (us.headD 0) srcInt (valScale v (-k)) :: castBlockElems f rm k vs us.tail

/-- A cast of a block into a block-scaled format: scale byte, elements with their flags, and the flags of the block as
a whole (R60). A source is a value and whether its format is an integer format; `us` holds the draws. -/
def castBlock (f : Fmt) (rm : RoundMode) (vs : List (Val × Bool)) (us : List Nat) :
    Nat × List (Nat × FlagWord) × FlagWord :=
  if vs.any (fun p => p.1.isNan) then
    (255, vs.map (fun _ => (0, 0)), fIf (vs.any (fun p => p.1.isSNan)) fInvalid)
  else
    let k := blockScaleExp f (vs.map Prod.fst)
    ((k + 127).toNat, castBlockElems f rm k vs us, 0)

/-- Elements that share one packing group, and the bytes the group takes (R51). -/
def packGroup (f : Fmt) : Nat × Nat :=
  match fmtBits f with
  | 4 => (2, 1)
  | 6 => (4, 3)
  | w => (1, w / 8)

/-- Bytes that `n` packed elements take, the last group full size (R51, R52). -/
def packedBytes (f : Fmt) (n : Nat) : Nat :=
  let (g, b) := packGroup f
  ceilDiv n g * b

/-- Element `i` of packed bytes (R51). -/
def unpackElem (f : Fmt) (bs : List Byte) (i : Nat) : Nat :=
  let (g, b) := packGroup f
  let w := fmtBits f
  bits (fieldLe bs (i / g * b) b) (w * (i % g) + w - 1) (w * (i % g))

/-- The little-endian number of a group's elements. -/
def packNat (w : Nat) : List Nat → Nat
  | [] => 0
  | x :: xs => x % 2 ^ w + 2 ^ w * packNat w xs

/-- Pack elements into bytes, group by group, with zero padding (R51, R52). Fuel is the number of groups. -/
def packGo (w g b : Nat) : Nat → List Nat → List Byte
  | 0, _ => []
  | k + 1, xs => natLe b (packNat w (xs.take g)) ++ packGo w g b k (xs.drop g)

/-- Pack elements of a format. -/
def packElems (f : Fmt) (xs : List Nat) : List Byte :=
  let (g, b) := packGroup f
  packGo (fmtBits f) g b (ceilDiv xs.length g) xs

end Sys2Proof.Machine
end

