-- ==== Sys2Proof/Machine/Peat.lean ====
section
/-! DEFINITION. Peat words, the matrix-engine window, and peat fragments (chapter Peat accumulation, R65 … R88). -/

namespace Sys2Proof.Machine

/-- A peat word: a 640-bit integer N of weight 2^(−300), and three flags (R65, R66). -/
structure Peat where
  n : BitVec 640
  nan : Bool
  pinf : Bool
  ninf : Bool
  deriving DecidableEq, Repr

/-- The empty sum. -/
def Peat.zero : Peat := ⟨0, false, false, false⟩

/-- N as a signed integer. -/
def peatInt (p : Peat) : Int := p.n.toInt

/-- The stored 96 bytes, reserved bits 0 (R67, R68). -/
def peatBytes (p : Peat) : List Byte :=
  natLe 96 (p.n.toNat + (if p.nan then 2 ^ 640 else 0) + (if p.pinf then 2 ^ 641 else 0)
    + (if p.ninf then 2 ^ 642 else 0))

/-- A stored word read back; reserved bits are ignored (R68). -/
def peatOfNat (x : Nat) : Peat := ⟨BitVec.ofNat 640 x, bitAt x 640, bitAt x 641, bitAt x 642⟩

/-- A stored word of 96 bytes read back. -/
def peatOfBytes (bs : List Byte) : Peat := peatOfNat (leNat (bs.take 96))

/-- The integer `x · 2^300` of a finite term (R71); every term of Table 3-2 is a multiple of 2^(−300). -/
def termInt (x : Ex) : Int :=
  let a : Nat := if x.e + 300 ≥ 0 then x.m * 2 ^ (x.e + 300).toNat else x.m / 2 ^ (-(x.e + 300)).toNat
  if x.neg then -(a : Int) else a

/-- Add a term to a word (R70, R71). -/
def peatAddTerm (p : Peat) (v : Val) : Peat :=
  match v with
  | .nan _ => { p with nan := true }
  | .inf false => { p with pinf := true }
  | .inf true => { p with ninf := true }
  | .fin x => { p with n := p.n + BitVec.ofInt 640 (termInt x) }

/-- Add two words (R71). -/
def peatAdd (p q : Peat) : Peat := ⟨p.n + q.n, p.nan || q.nan, p.pinf || q.pinf, p.ninf || q.ninf⟩

/-- The product of two values as a term, with the flag that forming it raises (R70, Table 3-3). -/
def termMul (a b : Val) : Val × FlagWord :=
  match a, b with
  | .nan s, .nan t => (.nan (s || t), fIf (s || t) fInvalid)
  | .nan s, _ => (.nan s, fIf s fInvalid)
  | _, .nan t => (.nan t, fIf t fInvalid)
  | .inf s, y => if y.isZero then (.nan true, fInvalid) else (.inf (s != y.sign), 0)
  | x, .inf t => if x.isZero then (.nan true, fInvalid) else (.inf (x.sign != t), 0)
  | .fin x, .fin y => (.mk (x.neg != y.neg) (x.m * y.m) (x.e + y.e), 0)

/-- A single value as a term, with its flag (R70). -/
def termOne (a : Val) : Val × FlagWord := (a, fIf a.isSNan fInvalid)

/-- The value of a word as a source of a rounding (R66, Table 3-4). A word with both infinity flags is NaN-valued and
raises INVALID, which is told here as a signalling NaN; N = 0 is +0 (R75). -/
def peatVal (p : Peat) : Val :=
  if p.nan || (p.pinf && p.ninf) then .nan (p.pinf && p.ninf)
  else if p.pinf then .inf false
  else if p.ninf then .inf true
  else let i := peatInt p; .mk (decide (i < 0)) i.natAbs (-300)

/-- Round a word into a format other than PEAT, without its scale (R74). -/
def peatRoundElem (f : Fmt) (rm : RoundMode) (u : Nat) (p : Peat) : Nat × FlagWord :=
  castElem f rm u false (peatVal p)

/-- A finite value outside the range of a peat word (R65, R76); `n` whole quanta, `inex` a remainder. -/
def peatOutside (neg : Bool) (n : Nat) (inex : Bool) : Bool :=
  let top := if neg then 2 ^ 639 else 2 ^ 639 - 1
  decide (n > top) || (decide (n = top) && inex)

/-- A cast into PEAT from a source that is not PEAT (R76, Table 3-5). -/
def castPeat (rm : RoundMode) (u : Nat) (v : Val) : Peat × FlagWord :=
  match v with
  | .nan s => ({ Peat.zero with nan := true }, fIf s fInvalid)
  | .inf neg => ({ Peat.zero with pinf := !neg, ninf := neg }, 0)
  | .fin x =>
    let (n, r, s) := cutAt x (-300)
    let inex := decide (r ≠ 0) || x.st
    let n' := if roundUp rm u x.neg n r s x.st then n + 1 else n
    let excessive := if rm = .sr then peatOutside x.neg n inex else peatOutside x.neg n' false
    if excessive then ({ Peat.zero with pinf := !x.neg, ninf := x.neg }, fOverflow ||| fInexact)
    else
      ({ Peat.zero with n := BitVec.ofInt 640 (if x.neg then -(n' : Int) else n') },
        fIf inex fInexact ||| fIf (inex && decide (n' = 0)) fUnderflow)

/-- A matrix-engine window: W, base index and flags (R77). -/
structure Window where
  w : Int
  base : Nat
  nan : Bool
  pinf : Bool
  ninf : Bool
  deriving DecidableEq, Repr

/-- The empty window. DESIGN CHOICE: the manual gives an empty window no base index; it starts at 0. No result depends on it (R82). -/
def Window.empty : Window := ⟨0, 0, false, false, false⟩

/-- Index of the lowest set bit of a non-zero number. -/
def lowBit (n : Nat) : Nat := Nat.log2 (Nat.xor n (n - 1))

/-- `p` (in units of 2^(−300)) fits at base `b` (R77). -/
def fitsAt (p : Int) (b : Nat) : Bool :=
  decide (p % ((2 ^ b : Nat) : Int) = 0) && decide (-((2 ^ 127 : Nat) : Int) ≤ p / ((2 ^ b : Nat) : Int))
    && decide (p / ((2 ^ b : Nat) : Int) ≤ ((2 ^ 127 : Nat) : Int) - 1)

/-- The base of case 2 of R78: the lowest base with |W| < 2^95, else the highest at which `p` fits. -/
def chooseBase (p : Int) : Option Nat :=
  if p = 0 then some 0
  else
    let tz := min (lowBit p.natAbs) 512
    let lo := Nat.log2 p.natAbs + 1 - 95
    if lo ≤ tz then some lo
    else if fitsAt p tz then some tz
    else none

/-- The finite value of a window, in units of 2^(−300). -/
def windowInt (w : Window) : Int := w.w * ((2 ^ w.base : Nat) : Int)

/-- A term arrives at a window: the new window and the word that spills, if one does (R78, R79). -/
def windowAdd (w : Window) (v : Val) : Window × Option Int :=
  match v with
  | .nan _ => ({ w with nan := true }, none)
  | .inf false => ({ w with pinf := true }, none)
  | .inf true => ({ w with ninf := true }, none)
  | .fin x =>
    let t := termInt x
    let p := windowInt w + t
    if fitsAt p w.base then ({ w with w := p / ((2 ^ w.base : Nat) : Int) }, none)
    else
      match chooseBase p with
      | some b => ({ w with w := p / ((2 ^ b : Nat) : Int), base := b }, none)
      | none =>
        let b := (chooseBase t).getD 0
        ({ w with w := t / ((2 ^ b : Nat) : Int), base := b }, some (windowInt w))

/-- A window added to its slot (R81). -/
def windowPlusSlot (w : Window) (slot : Peat) : Peat :=
  peatAdd slot ⟨BitVec.ofInt 640 (windowInt w), w.nan, w.pinf, w.ninf⟩

/-- The lowest base in 0 … 448 of a SPAN fragment of `n`, if one fits (R84). -/
def fragBase (n : Int) : Option Nat :=
  if n = 0 then some 0
  else
    let a := n.natAbs
    let len := Nat.log2 a + 1
    let neg2 := decide (n < 0) && decide (a = 2 ^ (len - 1))
    let b := len - (if neg2 then 192 else 191)
    if b ≤ 448 ∧ b ≤ lowBit a then some b else none

/-- The flag bits of a fragment (Table 3-8). -/
def fragFlags (p : Peat) : Nat :=
  (if p.nan then 2 ^ 202 else 0) + (if p.pinf then 2 ^ 203 else 0) + (if p.ninf then 2 ^ 204 else 0)

/-- Encode a word as a fragment; a FULL fragment carries the given ordinal (R83 … R85). The flag says FULL. -/
def fragEncode (p : Peat) (ordinal : Nat) : BitVec 256 × Bool :=
  match fragBase (peatInt p) with
  | some b =>
    (BitVec.ofNat 256 (2 ^ 252 + fragFlags p + b * 2 ^ 192 + ofSigned 192 (peatInt p / ((2 ^ b : Nat) : Int))), false)
  | none => (BitVec.ofNat 256 (2 * 2 ^ 252 + fragFlags p + ordinal % 2 ^ 32), true)

/-- What a received fragment says: a word, the ordinal of a full word, or corrupted data (R86). -/
inductive FragRead where
  | span (p : Peat)
  | full (ordinal : Nat)
  | corrupt
  deriving DecidableEq, Repr

/-- Read a fragment (R83, R86). DESIGN CHOICE (log entry 74; R85 does not say): of a FULL fragment the NAN, PINF and NINF bits are not
looked at; those of its full word count. -/
def fragDecode (f : BitVec 256) : FragRead :=
  let x := f.toNat
  let b := bits x 201 192
  if 448 < b then .corrupt
  else match bits x 255 252 with
    | 1 => .span ⟨BitVec.ofInt 640 (toSigned 192 x * ((2 ^ b : Nat) : Int)), bitAt x 202, bitAt x 203, bitAt x 204⟩
    | 2 => .full (bits x 31 0)
    | _ => .corrupt

end Sys2Proof.Machine
end

