-- ==== Sys2Proof/Machine/State.lean ====
section
/-! DEFINITION. The state of the block as plain data: device memory, the registers of every function, queues and
commands, fences, contexts, translation, channels, compositions, firmware, fabric, power, security, the dictionary and
start-up; the faults and refusals; and the state at reset. Sparse tables list only what differs from the default. -/

namespace Sys2Proof.Machine

open Sys2Proof

/-! ## Memory -/

/-- The key material that a line is written under (R212): key slot 0 of the device, a pair the device generated
(numbered by the draw that made it), or an imported pair. -/
inductive KeyId where
  | slot0 | gen (n : Nat) | imported (k : BitVec 512)
  deriving DecidableEq, Repr

/-- Device memory (R205): plaintext bytes by address, and the key each byte was written under. The address of a byte is
channel × 1,536 MiB + channel offset. An unlisted byte is 0, and an unlisted key is slot 0. -/
structure Memory where
  cells : List Host.Cell
  keys : List (Nat × KeyId)
  deriving DecidableEq, Repr

/-! ## Functions: registers, rings, vectors (Tables 10-3, 11-2, 14-2, 16-2, 16-7) -/

/-- One MSI-X vector and its moderation (R363, R364). -/
structure Vec where
  addr : BitVec 64
  data : BitVec 32
  mask : Bool
  pend : Bool
  mod : BitVec 64
  held : Nat
  deriving DecidableEq, Repr

/-- An event held while the event ring is full (R406): kind, object, merged count, body. -/
structure HeldEvent where
  kind : Nat
  obj : Nat
  merged : Nat
  body : List Byte
  deriving DecidableEq, Repr

/-- What an admin request that firmware has taken is waiting for (R292, R402). The horizon is a list of a queue's
creation number and the ring entries submitted to it when the request was taken (R293). -/
inductive DefOp where
  | signal
  | destroyQueue (q : Nat) (grace : Bool)
  | destroyContext (ctx : Nat) (grace : Bool) (started : List Nat)
  | destroyFence (slot : Nat) (horizon : List (Nat × Nat))
  | release (start len : Nat) (force : Bool) (horizon : List (Nat × Nat)) (holds : List Nat) (move : Option (BitVec 32))
  | importFence (pkg rights : Nat)
  | freeze (v : Nat) (grace : Bool)
  | reset (v : Nat)
  | withdrawHdm (p : Nat)
  deriving DecidableEq, Repr

/-- A taken request: its tag, what it waits for, and when it was taken. -/
structure Taken where
  tag : BitVec 32
  op : DefOp
  since : BitVec 64
  deriving DecidableEq, Repr

/-- The state of a TEE device interface (R465). -/
inductive Tdi where
  | configUnlocked | configLocked | run | error
  deriving DecidableEq, Repr

/-- The registers and rings of one function: a virtual function, or the manager function; the state of its TEE device
interface; whether the host could not give the argument block of the request at the head. -/
structure Fn where
  err : BitVec 32
  hwbase : BitVec 64
  adTail : BitVec 32
  adHead : BitVec 32
  evHead : BitVec 32
  adVec : BitVec 32
  feat : BitVec 128
  masterBase : BitVec 64
  masterCount : BitVec 32
  xltMode : BitVec 32
  syncFirst : BitVec 32
  syncSpan : BitVec 32
  moveVa : BitVec 64
  movePages : BitVec 32
  gatherLimit : BitVec 32
  syncDone : BitVec 64
  overrun : Bool
  vecs : Tab Vec
  fnMask : Bool
  reqSlots : Tab (List Byte)
  respSlots : Tab (List Byte)
  respUsed : Tab Nat
  taken : Tab Taken
  evRing : Tab (List Byte)
  evIndex : Nat
  evCount : Nat
  evSeq : BitVec 32
  evHeld : List HeldEvent
  tdi : Tdi
  tdiStream : Nat
  argBad : Bool
  deriving DecidableEq, Repr

/-- One mailbox channel (Tables 14-2 … 14-4). -/
structure Mbx where
  data : Tab (BitVec 32)
  seq : BitVec 16
  len : BitVec 5
  go : Bool
  err : Bool
  late : Bool
  withdrawn : Bool
  irqS : BitVec 32
  irqR : BitVec 32
  deriving DecidableEq, Repr

/-- A pending firmware notice (R357). -/
structure Notice where
  kind : Nat
  vdev : Nat
  count : Nat
  detail : List (BitVec 32)
  deriving DecidableEq, Repr

/-! ## Queues and commands (Gwepol queue interface) -/

/-- Queue states (Table 11-5). -/
inductive QState where
  | free | active | stalled | blocked | fetchError | destroying
  deriving DecidableEq, Repr

/-- A refusal of a command: reason, address of the structure, byte offset of the field (R274, Table 11-11). -/
structure Refuse where
  reason : Nat
  addr : Nat
  off : Nat
  deriving DecidableEq, Repr

/-- Where a queue's current command stands (R280 … R285, R330). -/
inductive Phase where
  | waiting | eligible | resid | checked | placed | running | executed | acked | closing | signing | ready
  | refusing | failing | aborting | replaying | held
  deriving DecidableEq, Repr

/-- The error detail of a completion record (Table 11-11). -/
structure Detail where
  addr : Nat
  cs : Bool
  inherited : Bool
  auxA : Nat
  auxB : Nat
  deriving DecidableEq, Repr

/-- A fence operation's target: cell i of MC die k, numbered 1,048,576 × k + i; or a fence of another package. -/
inductive FRef where
  | cell (k : Nat)
  | proxy (v slot : Nat)
  deriving DecidableEq, Repr

/-- One command: its descriptor and ranges as fetched, and what has become of it. -/
structure Cmd where
  no : Nat
  ord : Nat
  addr : Nat
  desc : List Byte
  ins : List (Nat × Nat)
  outs : List (Nat × Nat)
  index : Nat
  chain : Nat
  front : Option Refuse
  sig : Option FRef
  waits : List FRef
  early : Option Nat
  phase : Phase
  start : BitVec 64
  waitsOk : List Nat
  eligAt : BitVec 64
  attempt : Nat
  replays : Nat
  avoid : List Nat
  cores : List Nat
  clusters : List Nat
  flags : FlagWord
  error : Nat
  detail : Detail
  started : Bool
  ranBefore : Bool
  failOut : Option Nat
  expired : Bool
  aborts : List Engine
  thenReplay : Bool
  key : BitVec 128
  abortAcks : List Engine
  inDigests : List (List Byte)
  diesLeft : List Nat
  leafHome : List (Nat × Nat)
  leafSent : List (Nat × List (Nat × List Byte))
  leaves : List (Nat × List Byte)
  receipt : List Byte
  params : List Byte
  hdr : List Byte
  code : List Byte
  resv : List (Nat × Nat)
  matrix : Bool
  cohorts : List (List Nat)
  ran : List (List Nat)
  deriving DecidableEq, Repr

/-- A completion record (Table 11-9) without its phase. -/
structure Rec where
  index : Nat
  error : Nat
  flags : FlagWord
  stamp : BitVec 64
  chain : Nat
  detail : Detail
  deriving DecidableEq, Repr

/-- The successor a completed command names (R282): its address, chain position, the predecessor's address, and the
ring entry that began the chain. -/
structure Chain where
  addr : Nat
  pos : Nat
  pred : Nat
  ord : Nat
  index : Nat
  cluster : Option Nat
  deriving DecidableEq, Repr

/-- One queue of a virtual device. Entries up to `lostTo`, counted since the queue was created, were submitted before a device
reset and fail with 0x0070 (R434); those of `doomed` were submitted before the context of that number was destroyed (R313). -/
structure Queue where
  uid : Nat
  cfg : List Byte
  state : QState
  cause : Nat
  devq : Nat
  sqHead : Nat
  tail : Nat
  cqHead : Nat
  cqIndex : Nat
  cqPhase : Bool
  backlog : List Rec
  fetched : List Cmd
  cur : Option Cmd
  nFetched : Nat
  nDone : Nat
  chainNext : Option Chain
  recWait : List Rec
  retrying : Bool
  rlistFail : Nat
  lostTo : Nat
  doomed : List (Nat × Nat)
  deriving DecidableEq, Repr

/-! ## Fences, contexts, exports (Contexts, fences and memory objects) -/

/-- A fence cell (Table 9-4); its waiters are the registered waits on it. -/
structure FCell where
  gen : BitVec 32
  vdev : Nat
  state : Nat
  error : BitVec 16
  value : BitVec 64
  lost : Bool
  deriving DecidableEq, Repr

/-- A slot of a virtual device's fence table (R298, R305): the use count of its last use, whether it is in use, what it
is bound to, whether the virtual device created it, the SIGNAL right, whether it is being destroyed, and for a proxy the
fabric package id of its home and the cell there (R394). -/
structure FSlot where
  use : Nat
  inUse : Bool
  ref : FRef
  owned : Bool
  canSignal : Bool
  destroyed : Bool
  pkg : Nat
  home : Nat
  deriving DecidableEq, Repr

/-- Fence operations (Table 9-5). -/
inductive FOp where
  | signal (v : BitVec 64)
  | fail (code : Nat) (t : BitVec 64)
  | wait (t : BitVec 64)
  | read
  deriving DecidableEq, Repr

/-- The outcome a fence unit replies (Table 9-5). -/
inductive FOut where
  | applied | stale | refused (code : Nat) | signalled | alreadyFailed (code : Nat)
  deriving DecidableEq, Repr

/-- Who sent a fence operation and gets its reply. A command that fails before it starts (`dead`) gets none; it holds the bytes it names
until its failure commits (R307). -/
inductive FSrc where
  | wait (v q no i : Nat)
  | cmdFail (v q no code : Nat)
  | timeout (v q no code : Nat)
  | signal (v q no : Nat)
  | admin (fn slot : Nat)
  | remote (p id : Nat)
  | dead (v no uid ord : Nat) (spans : List (Nat × Nat))
  | nobody
  deriving DecidableEq, Repr

/-- A fence operation on its way to the home MC die. -/
structure FReq where
  id : Nat
  cell : Nat
  op : FOp
  src : FSrc
  deriving DecidableEq, Repr

/-- A reply on its way to the hub. -/
structure FRep where
  id : Nat
  src : FSrc
  out : FOut
  deriving DecidableEq, Repr

/-- A registered wait (R216). -/
structure FWait where
  cell : Nat
  t : BitVec 64
  src : FSrc
  deriving DecidableEq, Repr

/-- A wait notification on its way to its endpoint: no error, or the code. -/
structure FNote where
  id : Nat
  src : FSrc
  err : Option Nat
  deriving DecidableEq, Repr

/-- A context (R294, Table 12-2). -/
structure Ctx where
  vdev : Nat
  destroying : Bool
  faults : BitVec 32
  done : BitVec 64
  failed : BitVec 64
  coreUs : BitVec 64
  read : BitVec 64
  written : BitVec 64
  deriving DecidableEq, Repr

/-- An export of a fence (R303). -/
structure FExport where
  vdev : Nat
  slot : Nat
  ref : FRef
  rights : BitVec 8
  token : BitVec 64
  deriving DecidableEq, Repr

/-- The count of checked import refusals of a virtual device (R304). -/
structure ImpLimit where
  times : List (BitVec 64)
  endAt : BitVec 64
  blocked : Bool
  deriving DecidableEq, Repr

/-! ## Range translation -/

/-- A range entry (Table 10-1). -/
structure REntry where
  start : Nat
  len : Nat
  pbase : Nat
  res : Nat
  r : Bool
  w : Bool
  x : Bool
  migrate : Bool
  key : Nat
  sw : Nat
  deriving DecidableEq, Repr

/-- A synchronisation in progress (Table 10-5). -/
inductive SyncStep where
  | reading | copying | invalidating
  deriving DecidableEq, Repr

/-- The synchronisation of a virtual device that is in progress (R243, R258). -/
structure Sync where
  seq : BitVec 32
  move : Bool
  step : SyncStep
  first : Nat
  span : Nat
  count : Nat
  pages : List Nat
  moveLeft : List Nat
  next : List REntry
  sent : List XNode
  acks : List XNode
  changed : List (Nat × Nat)
  deriving DecidableEq, Repr

/-- A cached entry of a second level (R246): the device it serves and its generation. -/
structure CEntry where
  vdev : Nat
  gen : BitVec 32
  e : REntry
  deriving DecidableEq, Repr

/-- The engines that translate (R246), each with a range buffer: the global access path and the tensor mover of a core, a cluster
control core, and the DMA engine of a hub. -/
inductive XEng where
  | core (n : Nat) | mover (n : Nat) | ctl (c : Nat) | dma (h : Nat)
  deriving DecidableEq, Repr

/-- An access that waits on a walk, a fault, a page or memory: who made it. A group's access names its core. -/
inductive Waiter where
  | fetch (v q : Nat)
  | cmd (v q no : Nat)
  | group (v q no core : Nat)
  | access (id : Nat)
  deriving DecidableEq, Repr

/-- A walk sent to the mirror MC die, and its reply (R247). -/
structure Walk where
  vdev : Nat
  node : XNode
  va : Nat
  reply : Option (Option REntry × BitVec 32)
  deriving DecidableEq, Repr

/-- A fault on its way to the fault table (R251), with the generation that its walk read, and whether GATHERED was set when it was
raised (R255). -/
structure FaultMsg where
  id : Nat
  vdev : Nat
  va : Nat
  kind : Nat
  access : Nat
  gen : BitVec 32
  sw : Nat
  gathered : Bool
  who : Waiter
  deriving DecidableEq, Repr

/-- An entry of the fault table (R251, Table 10-7). -/
structure FaultEnt where
  vdev : Nat
  page : Nat
  kind : Nat
  access : Nat
  sw : Nat
  queue : Nat
  ctx : Nat
  use : Nat
  waiters : List (Waiter × Nat)
  deriving DecidableEq, Repr

/-- A page request outstanding at a hub (R250). -/
structure PageReq where
  fn : Nat
  page : Nat
  deriving DecidableEq, Repr

/-- Translation state of the whole device: second levels and range buffers, the least recently used entry of an engine first
(R246); invalidations acknowledged by a node, with the generation that began with them; walks, faults and the fault table;
batches of fault-table slots with their use counts (R255); the translation caches of the hubs, and their requests; page requests
outstanding, and those that wait for room (R250); host invalidations with the requests that used the pages (R249). -/
structure Xlt where
  caches : List (XNode × CEntry)
  buffers : List (XEng × CEntry)
  acked : List (XNode × Nat × Nat × Nat × BitVec 32)
  inval : List (XNode × Nat)
  walks : List Walk
  faultMsgs : List FaultMsg
  faultFull : List FaultMsg
  faults : Tab FaultEnt
  uses : Tab Nat
  batches : Tab (List (Nat × Nat))
  atc : List (Nat × Nat × Bool × Bool)
  atsOut : List (Nat × Nat)
  pageReqs : List PageReq
  priWait : List PageReq
  hostWait : List (Nat × Nat × Waiter)
  atsInval : List (Nat × Nat × Nat × List Nat)
  priOff : List Nat
  nextId : Nat
  deriving DecidableEq, Repr

/-! ## Memory system -/

/-- An interleave set (Table 9-2): members are a channel and a base in 64 KiB units. -/
structure SetEnt where
  epoch : BitVec 32
  len : Nat
  vdev : Nat
  log2n : Nat
  valid : Bool
  members : List (Nat × Nat)
  deriving DecidableEq, Repr

/-- `MC_CH_STATE` (Table 9-9). -/
inductive ChState where
  | unpowered | training | scrubbing | inService | repairing | retiring | retired
  deriving DecidableEq, Repr

/-- One memory channel. `repairs` are the rows under soft repair, the oldest first (R222). Counter 0x07 counts down from the part's initial spare rows, so `spareUsed` is kept by bank. `resume`
is the state a retrain returns to, or IN_SERVICE where a channel in SCRUBBING has only to be admitted (R497). Once the contents
are lost (R501), every line is poisoned but for those that `poison` lists. -/
structure Channel where
  state : ChState
  ctr : Tab (BitVec 64)
  poison : List Nat
  lost : Bool
  fixes : List (Nat × Nat × BitVec 64)
  rounds : List (BitVec 64)
  retrains : Nat
  repairs : List Nat
  softRows : List Nat
  spareUsed : Tab Nat
  target : Option Nat
  copied : Bool
  selfRefresh : Bool
  hardPending : Bool
  resume : ChState
  deriving DecidableEq, Repr

/-- A line in a memory-side cache (R211): its address, and the virtual device and key slot of its tag. Its bytes are those of the
stack, which every update is written through to. -/
structure CLine where
  line : Nat
  vdev : Nat
  key : Nat
  deriving DecidableEq, Repr

/-- One MC die: whether it is lost, the times of XTS disagreements, prefetch lists, the memory-side cache with the least recently
used line first (R211, R219, R227), and the fence cells in the fence store of its fence unit, the least recently used first (R214). -/
structure McDie where
  lost : Bool
  xts : List (BitVec 64)
  prefetch : List (Nat × Nat × Nat)
  cache : List CLine
  store : List Nat
  deriving DecidableEq, Repr

/-- States of a key slot (R467). -/
inductive SlotState where
  | empty | loaded | erasing | zeroized
  deriving DecidableEq, Repr

/-- A key slot (R212, R467): its state, its virtual device and its key. -/
structure KeySlot where
  state : SlotState
  vdev : Nat
  key : KeyId
  deriving DecidableEq, Repr

/-- A CXL HDM decoder (R231): base and size as committed, and the window bound to it. -/
structure Hdm where
  base : Nat
  size : Nat
  committed : Bool
  bound : Option (Nat × Nat × Bool × Bool)
  deriving DecidableEq, Repr

/-- An undo record (Table 17-2): its command and line, the key of the line, and where its 128 bytes lie: for each copy the channel whose
undo journal pool holds it and the record's number there. The second copy is that of a mirrored set (R428). -/
structure Undo where
  cmd : Nat
  line : Nat
  vdev : Nat
  queue : Nat
  index : Nat
  chain : Nat
  key : KeyId
  places : List (Nat × Nat)
  deriving DecidableEq, Repr

/-- Who issued a memory request and where its response goes: a lane's registers, or a lane's store or atomic. -/
inductive MDest where
  | load (g lane rd size : Nat)
  | store (g lane : Nat)
  | none
  deriving DecidableEq, Repr

/-- Where a memory request stands: it waits on a walk, on a fault or on a host page, or is on its way to its home. -/
inductive MStage where
  | walk | fault | host | sent
  deriving DecidableEq, Repr

/-- What an order-free atomic does (R175). -/
inductive AtOp where
  | int (op : IntAtomic) (wide : Bool) (v : BitVec 64)
  | fp (isMax wide : Bool) (v : BitVec 64)
  | peat (word : Peat)
  deriving DecidableEq, Repr

/-- The kinds of memory request (Table 8-7). -/
inductive MKind where
  | read (n : Nat)
  | write (bytes : List Byte)
  | atomic (op : AtOp)
  deriving DecidableEq, Repr

/-- Where a request goes on device memory, fixed when it is injected (R196): its device physical address and key slot, and the
channel and channel offset that the issuing cluster's copy of the set table decodes it to (R206). -/
structure Spot where
  pa : Nat
  keySlot : Nat
  chan : Nat
  off : Nat
  deriving DecidableEq, Repr

/-- A memory request of a core: its command, the core, the address, what it does, where its response goes, where it
stands, and once it is translated where it goes, line by line; a request to the host holds its I/O address. -/
structure MReq where
  id : Nat
  vdev : Nat
  queue : Nat
  cmd : Nat
  core : Nat
  va : Nat
  kind : MKind
  dest : MDest
  stage : MStage
  spots : List Spot
  iova : Nat
  deriving DecidableEq, Repr

/-- A response on its way to the issuing core. -/
structure MResp where
  req : MReq
  data : List Byte
  deriving DecidableEq, Repr

/-- A request to a HOST range at the hub (R248). -/
structure HostReq where
  id : Nat
  fn : Nat
  vdev : Nat
  queue : Nat
  cmd : Nat
  iova : Nat
  len : Nat
  write : Option (List Byte)
  dest : MDest
  retried : Bool
  deriving DecidableEq, Repr

/-- A copy of the set table that an endpoint holds for a virtual device, tagged with its epoch (R207). -/
structure SetView where
  ep : Endp
  vdev : Nat
  epoch : BitVec 32
  sets : Tab SetEnt
  deriving DecidableEq, Repr

/-- A host access that waits at a hub with its virtual device and address: a line through a CXL.mem window of a port, or a span of BAR2,
while a channel trains, a bank is repaired or the walk waits for the mirror (R219, R222, R240). -/
inductive HeldAcc where
  | cxlRead (p a v va : Nat) (bad : ReadFault)
  | cxlWrite (p a v va : Nat) (line : List Byte)
  | windowRead (v va off n : Nat) (bad : ReadFault)
  | windowWrite (v va : Nat) (bytes : List Byte)
  deriving DecidableEq, Repr

/-- The memory system outside the stored bytes. The set table is the one that firmware writes; `views` are the copies that cluster
control cores and MC dies have installed. `regions` says, for a channel whose reserved region has moved with it, which channel
holds it now (R209, R225). -/
structure Mc where
  sets : Tab SetEnt
  views : List SetView
  regions : Tab Nat
  chans : Tab Channel
  dies : Tab McDie
  cells : Tab FCell
  keys : Tab KeySlot
  hdm : Tab Hdm
  cxl : List Nat
  undo : List Undo
  reqs : List MReq
  resps : List MResp
  host : List HostReq
  hostBuf : List (Nat × Nat × List Byte)
  held : List HeldAcc
  nextId : Nat
  deriving DecidableEq, Repr

/-- A fence operation on its way to another package (R394), when it was sent, and whether it has left on a port. -/
structure FRemote where
  id : Nat
  vdev : Nat
  slot : Nat
  op : FOp
  src : FSrc
  since : BitVec 64
  sent : Bool
  deriving DecidableEq, Repr

/-- Fence messages and registered waits; proxies that have failed locally; cells that proxies of other packages hold; what the homes of
proxies have answered to READ_FENCE: function, request slot, and state, value and error code. -/
structure Fences where
  reqs : List FReq
  reps : List FRep
  notes : List FNote
  waits : List FWait
  retry : List FReq
  remote : List FRemote
  deadProxies : List (Nat × Nat)
  held : List Nat
  reads : List (Nat × Nat × Nat × Nat × Nat)
  nextId : Nat
  deriving DecidableEq, Repr

/-! ## Running kernels (The compute core; Threads, memory order and races) -/

/-- A matrix-engine window (R77). -/
structure Win where
  w : BitVec 128
  base : Nat
  nan : Bool
  pinf : Bool
  ninf : Bool
  deriving DecidableEq, Repr

/-- A slot of the peat store in use (R80, R142): its word, and the window set that owns it. -/
structure PSlot where
  word : Peat
  set : Bool
  deriving DecidableEq, Repr

/-- A spill on its way to the peat store (R79). -/
structure Spill where
  pos : Nat
  set : Bool
  word : Peat
  deriving DecidableEq, Repr

/-- The matrix engine of a core: two window sets, the peat store, the spill queue. -/
structure Mx where
  set0 : Tab Win
  set1 : Tab Win
  slots : Tab PSlot
  queue : List Spill
  deriving DecidableEq, Repr

/-- The writer tag of a core-store line (R170): the interval of the last write (cohort and group barriers passed), the
writing thread or none for MULTI, the bytes written by threads, and the bytes written by peer transfers. -/
structure Tag where
  c : Nat
  b : Nat
  writer : Option Nat
  mask : BitVec 64
  peer : BitVec 64
  deriving DecidableEq, Repr

/-- A mover or peer transfer in flight (R148, R149, R168): its number, the issuing lane, its barrier interval and place in
the record of accesses; for a peer transfer the source, destination group and offset, and length; whether it landed. -/
structure MoverT where
  id : Nat
  lane : Nat
  arg : MoverArg
  peer : Option (Nat × Nat × Nat × Nat)
  c : Nat
  b : Nat
  at_ : Nat
  landed : Bool
  deriving DecidableEq, Repr

/-- A completed transfer that a lane's wait has seen (R165): the lane, its interval and place. -/
structure Seen where
  id : Nat
  lane : Nat
  c : Nat
  b : Nat
  at_ : Nat
  deriving DecidableEq, Repr

/-- The kinds of access that races distinguish (R169). -/
inductive AccKind where
  | load | store | atomic (kind : Nat)
  deriving DecidableEq, Repr

/-- A place that race detection knows: a global byte, or a byte of a group's window. -/
inductive Loc where
  | glob (va : Nat)
  | store (g : Nat) (off : Nat)
  deriving DecidableEq, Repr

/-- A recorded access (R172): its place in the order of recording, the byte, kind and value, the thread and its barrier
interval, and the transfer that made it with the receiving group of a peer transfer. -/
structure WAcc where
  n : Nat
  loc : Loc
  kind : AccKind
  value : Byte
  g : Nat
  lane : Nat
  c : Nat
  b : Nat
  mover : Option Nat
  peerTo : Option Nat
  deriving DecidableEq, Repr

/-- What an ordered operation does (R177, R180). -/
inductive OrdOp where
  | cas (core wide : Bool) (addr : Nat) (expect new : BitVec 64)
  | swap (core wide : Bool) (addr : Nat) (new : BitVec 64)
  | fetch (core wide : Bool) (op : IntAtomic) (addr : Nat) (v : BitVec 64)
  | alloc (size : Nat)
  | free (addr size : Nat)
  deriving DecidableEq, Repr

/-- An ordered operation waiting for its turn: its key (h, c, g, b, t, s) and destination register (R178). -/
structure OrdReq where
  h : Nat
  c : Nat
  g : Nat
  b : Nat
  t : Nat
  s : Nat
  rd : Nat
  op : OrdOp
  deriving DecidableEq, Repr

/-- A resident group (R136, R161 … R167): its core and slot; a number for the values nobody has written, none where the sluice
left zeros (R137, R146); registers by
256 × lane + register; flags by lane; lanes ended, lanes at a group and at a cohort barrier, lanes past `ordrel`; barriers
passed; ordered operations issued by lane; the window's bytes, tags and last writer by byte; transfers, their count, those
finished with their issuing lanes, and those seen. -/
structure KGroup where
  core : Nat
  slot : Nat
  fresh : Option Nat
  regs : Tab (BitVec 32)
  flags : Tab FlagWord
  ended : BitVec 32
  atGroup : BitVec 32
  atCohort : BitVec 32
  beyond : BitVec 32
  c : Nat
  b : Nat
  seqs : Tab Nat
  store : Tab Byte
  tags : Tab Tag
  lastBy : Tab Nat
  movers : List MoverT
  count : Nat
  finished : List (Nat × Nat)
  seen : List Seen
  deriving DecidableEq, Repr

/-- A kernel in execution: its queue, its resident groups, the next group to become resident, groups ended, engines by
core, ordered operations, recorded accesses; the counters of its cores and the hubs' counts when the attempt began (R155). -/
structure KRun where
  vdev : Nat
  queue : Nat
  groups : Tab KGroup
  next : Nat
  ended : Nat
  engines : Tab Mx
  ordered : List OrdReq
  accesses : List WAcc
  nextAcc : Nat
  stopped : Bool
  base : Tab (Tab (BitVec 64))
  start : BitVec 64 × BitVec 64
  deriving DecidableEq, Repr

/-! ## Compositions and scheduling -/

/-- A group that a virtual device has joined (R388): participants, own number, token, the packages of its neighbours. -/
structure Group where
  id : BitVec 32
  size : Nat
  rank : Nat
  token : BitVec 64
  nbrs : List (BitVec 32)
  deriving DecidableEq, Repr

/-- A partition (Table 13-2, R328, R345); `jobBy` is the command with which the holder took exclusive ownership (R335). -/
structure Part where
  sets : List Nat
  cores : List Nat
  wanted : Nat
  lcReserve : Nat
  sliceUs : Nat
  warming : Bool
  lastPrefetch : BitVec 64
  holder : Option Nat
  jobBy : Nat
  turn : Option Nat
  turnStart : BitVec 64
  deriving DecidableEq, Repr

/-- The composition of a virtual device and what else it owns. -/
structure Vd where
  enabled : Bool
  inReset : Bool
  frozen : Bool
  table : List REntry
  gen : BitVec 32
  mirrorCh : Nat
  mirrorLost : Bool
  sync : Option Sync
  epoch : BitVec 32
  cores : List Nat
  reserve : List Nat
  reserveWant : Nat
  chans : List Nat
  ports : BitVec 16
  mirrored : Bool
  queueGrant : Nat
  parts : Tab Part
  queues : Tab Queue
  slots : Tab FSlot
  imports : ImpLimit
  quota : BitVec 16
  mirrors : Tab (List Nat)
  unmirrored : List Nat
  ctr : Tab (BitVec 64)
  keyTimes : List (BitVec 64)
  groups : List Group
  deriving DecidableEq, Repr

/-- The kinds of unit that the sluice and the unit table know. -/
inductive UnitKind where
  | core | chan | port
  deriving DecidableEq, Repr

/-- A leaving unit (R337 … R342): the virtual device it leaves (256 for none), the epoch that removes it, the endpoints that
have not reported DRAINED, whether its bound has passed, whether it is being retired, and whether the epoch is
published. -/
structure Leaving where
  kind : UnitKind
  num : Nat
  vdev : Nat
  epoch : BitVec 32
  left : List Endp
  overdue : Bool
  retiring : Bool
  published : Bool
  deriving DecidableEq, Repr

/-- A unit already released, while others that the same change removed are still in the sluice (R347). -/
structure Released where
  kind : UnitKind
  num : Nat
  vdev : Nat
  epoch : BitVec 32
  deriving DecidableEq, Repr

/-- What a composition is charged for (R346): its bound cores, reserve cores, channels and ports. -/
structure Bill where
  cores : List Nat
  reserve : List Nat
  chans : List Nat
  ports : BitVec 16
  deriving DecidableEq, Repr

/-- A map publication in progress (R338): the endpoints that have not received the map, those that have not acknowledged,
the channels whose data is copied first, with their targets (R324), what was bound before the change (R346), and the interleave sets
of the map, once a later change has been accepted (R207). -/
structure Publish where
  vdev : Nat
  epoch : BitVec 32
  toSend : List Endp
  toAck : List Endp
  copies : List (Nat × Nat)
  old : Bill
  sets : Option (Tab SetEnt)
  deriving DecidableEq, Repr

/-- What the hub unit table holds of a unit beside its own state (R492): ADMIN OUT, the last cause of leaving service, and
whether a return is under way. -/
structure UnitRec where
  adminOut : Bool
  cause : Nat
  returning : Bool
  deriving DecidableEq, Repr

/-- States of a core in the hub unit table (Table 6-9). A scrubbed core has been zeroed and its island powered off (step 3); it
still counts as its composition's until the new serviceable set is recorded (step 5). -/
inductive CoreState where
  | unpowered | serviceable | spare | draining | scrubbed | testing | retired | returning
  deriving DecidableEq, Repr

/-- One core in the unit table: its state, the command it runs, a switched-out command, parity history, idle state,
clock in steps of 25 MHz and matrix duty in sixteenths (Tables 6-8, 6-9, 18-1, 18-7); since when it is idle; the clock it
gets once its rail has risen (R442), 0 for none; whether its store and registers hold the sluice's zeros (R146); its counters
since its island was powered, and the hub count then (R155, R187); whether the command that was switched out has resumed beside the other
(R254). -/
structure Core where
  state : CoreState
  busy : Option Nat
  switched : Option Nat
  parity : List (Nat × Nat × BitVec 64)
  idle : Nat
  clock : Nat
  duty : Nat
  dirty : Bool
  idleFrom : BitVec 64
  wanted : Nat
  zeroed : Bool
  ctr : Tab (BitVec 64)
  onAt : BitVec 64
  shares : Bool
  deriving DecidableEq, Repr

/-- A validated binary held by a cluster (R154): its key, its length, the digest of the whole image, whether its code uses the
matrix engine, and whether it lies in the overflow store. -/
structure Binary where
  vdev : Nat
  start : Nat
  digest : List Byte
  len : Nat
  image : List Byte
  matrix : Bool
  overflow : Bool
  deriving DecidableEq, Repr

/-- A preload shadow (R150, Table 6-5): the command whose state it holds, the translation generation its entries come from, the
descriptor, the parameter bytes, the binary's header and first code bytes, the range entries and the key. -/
structure Shadow where
  cmd : Nat
  gen : BitVec 32
  desc : List Byte
  params : List Byte
  header : List Byte
  code : List Byte
  entries : List REntry
  key : BitVec 128
  deriving DecidableEq, Repr

/-- Scheduling state of the device. -/
structure Sched where
  cores : Tab Core
  leaving : List Leaving
  released : List Released
  publish : List Publish
  binaries : Tab (List Binary)
  shadows : Tab Shadow
  units : Tab UnitRec
  unitCommits : BitVec 64
  nextCmd : Nat
  nextUid : Nat
  deriving DecidableEq, Repr

/-! ## Firmware -/

/-- A firmware processor (Table 16-1): whether it is up, the times of its crashes, whether a restart is under way, and
whether its last crash has been told (R412). -/
structure ProcSt where
  up : Bool
  crashes : List (BitVec 64)
  restarting : Bool
  told : Bool
  deriving DecidableEq, Repr

/-- Firmware load, processors, roles and journal (Firmware processors): the load registers and state; what the loaded image
offers; its measurement, version and length, and the digests of its sections; the journal since the last checkpoint, the
records the standby has applied, the checkpoints written; the channels whose firmware area holds the two copies, and those whose area
holds the cluster control section (R400). -/
structure Fw where
  addr : BitVec 64
  len : BitVec 64
  state : Nat
  reason : Nat
  offered : BitVec 128
  aclMax : BitVec 16
  svn : BitVec 32
  imageLen : BitVec 64
  meas : List Byte
  sections : List (List Byte)
  procs : Tab ProcSt
  activeB : Bool
  standbyReady : Bool
  journal : List (List Byte)
  applied : Nat
  checkpoint : Nat
  copies : List Nat
  area : List Nat
  deriving DecidableEq, Repr

/-! ## Event controllers -/

/-- An event source (Table 14-6, R359). -/
structure EvSrc where
  cfg : BitVec 32
  pend : Nat
  ready : Bool
  deriving DecidableEq, Repr

/-- One processor of an event controller (R360, R362). -/
structure EvProc where
  prio : Nat
  stack : List Nat
  mask : Bool
  asleep : Bool
  given : List Nat
  last : BitVec 10
  deriving DecidableEq, Repr

/-- One event controller. -/
structure Evc where
  srcs : Tab EvSrc
  p0 : EvProc
  p1 : EvProc
  deriving DecidableEq, Repr

/-! ## The reedbed -/

/-- A packet (Table 8-7) on the reedbed: its header, its payload, and the links still before it. Its destination is fixed
when it is injected (R196). -/
structure Flight where
  hdr : BitVec 128
  payload : List Byte
  route : List Hop
  deriving DecidableEq, Repr

/-- One direction of a reedbed link (R193, R199): the packets that wait at the router output that drives it, oldest first; the
grants of VC1 since one of VC2 or VC3, and those of VC2 since one of VC3; the packet in the retry buffer with the times it
was received in error; the times of parity errors; the link sequence number of the last packet accepted. -/
structure LinkSt where
  waiting : List Flight
  vc1Run : Nat
  vc2Run : Nat
  retry : Option (Flight × Nat)
  errors : List (BitVec 64)
  accepted : BitVec 64
  deriving DecidableEq, Repr

/-- A peat-fragment message in reception (R198): fragments by index, full words by ordinal. -/
structure FragMsg where
  ep : BitVec 12
  src : BitVec 12
  msg : BitVec 16
  frags : Tab (BitVec 256)
  words : Tab (BitVec 768)
  deriving DecidableEq, Repr

/-- A peat-fragment message received whole (R198): the command it is for, its source and id, and its words. -/
structure WholeMsg where
  cmd : Nat
  src : BitVec 12
  msg : BitVec 16
  words : List (BitVec 768)
  deriving DecidableEq, Repr

/-- The reedbed: retired links, the state of every link direction, failed routers, the generation of the distance table, the
VC0 packets in flight by source endpoint, the responses that endpoints wait for (endpoint, tag, virtual channel; R191, R194),
peat messages in reception, the whole messages of commands that run, the ids under which LX dies frame messages of other packages (port,
remote source and id, id here; R387), and MGMT traffic that has arrived. -/
structure Net where
  retired : List LinkId
  links : List (Hop × LinkSt)
  dead : List Nat
  gen : BitVec 64
  vc0 : Tab Nat
  owed : List (BitVec 12 × BitVec 16 × Nat)
  msgs : List FragMsg
  sums : List WholeMsg
  relays : List (Nat × BitVec 12 × BitVec 16 × BitVec 16)
  mgmt : List (BitVec 12 × BitVec 12 × List Byte)
  deriving DecidableEq, Repr

/-! ## The device -/

/-- A state blob (Table 14-8): the highest level of a command in it, the feature mask, the epoch; registers, rings and
both mailbox channels; pending notices; key slots; the range table; sets as number, L, LEN and member bases; partitions;
queues with their commands; fence slots with their cells; contexts; memory by set and set offset with its key. -/
structure Blob where
  acl : Nat
  feat : BitVec 128
  epoch : BitVec 32
  fn : Fn
  mbxTo : Mbx
  mbxFrom : Mbx
  notices : List Notice
  keys : List (Nat × KeyId)
  table : List REntry
  gen : BitVec 32
  sets : List (Nat × Nat × Nat × List Nat)
  parts : Tab Part
  queues : Tab Queue
  slots : List (Nat × FSlot × FCell)
  ctxs : Tab Ctx
  mem : List (Nat × Nat × Byte × KeyId)
  deriving DecidableEq, Repr

/-- What the SPDM responder answers (R461 … R463). The framing of a message is the standard's. -/
inductive SpdmReply where
  | version | capabilities | algorithms
  | digests (d : BitVec 384)
  | certificate (part : List Byte) (remaining : Nat)
  | challenge (chain : BitVec 384) (sig : BitVec 384 × BitVec 384)
  | measurements (blocks : List (Nat × List Byte)) (sig : BitVec 384 × BitVec 384)
  | session (id : Nat)
  | finished (id : Nat)
  | updated (id : Nat)
  | alive (id : Nat)
  | ended (id : Nat)
  | ideKey (stream : Nat)
  | error (busy : Bool)
  deriving DecidableEq, Repr

/-- What a TEE device interface answers (R465). -/
inductive TdispReply where
  | version | capabilities | locked | started | stopped | error
  | report (bytes : List Byte)
  | state (t : Tdi)
  deriving DecidableEq, Repr

/-- What the device answers to MCTP control messages (R481). -/
inductive MctpReply where
  | endpoint (eid : BitVec 8)
  | version (major minor : Nat)
  | types (l : List Nat)
  | vendor (id : BitVec 16)
  | error
  deriving DecidableEq, Repr

/-- What leaves at a port of the block. -/
inductive Output where
  | hostWrite (fn : Nat) (iova : Nat) (bytes : List Byte)
  | hostRead (fn id iova len : Nat)
  | masterRead (v : Nat) (iova len : Nat)
  | imageRead (iova len : Nat)
  | msix (fn vec : Nat) (addr : BitVec 64) (data : BitVec 32)
  | atsRequest (fn page : Nat)
  | pageRequest (fn page : Nat)
  | atsDone (fn page count : Nat)
  | cxlRead (p : Nat) (a : Nat) (line : List Byte) (poison : Bool)
  | cxlWriteDone (p : Nat) (a : Nat)
  | windowRead (v off : Nat) (bytes : List Byte) (poison : Bool)
  | fenceOut (p v slot home id : Nat) (op : FOp)
  | fenceReply (p id : Nat) (o : FOut)
  | fenceNote (p id : Nat) (err : Option Nat)
  | fenceCellOut (p id state value error : Nat)
  | fenceCell (die cell : Nat) (bytes : List Byte)
  | fenceRelease (pkg home : Nat)
  | blobOut (v n : Nat)
  | blobPart (p v i : Nat) (bytes : List Byte)
  | importOut (v slot pkg ex : Nat) (token : BitVec 64) (rights : Nat)
  | thermtrip (die : Nat)
  | spdm (t : Transport) (r : SpdmReply)
  | tdisp (v : Nat) (r : TdispReply)
  | key (v : Nat) (tag : BitVec 32) (status : Nat) (result : List Byte)
  | peerFailure (p : Nat) (group : Nat) (seq : BitVec 64)
  | restart (p : Nat) (group : Nat) (seq : BitVec 64)
  | phaseData (p : Nat) (group : Nat) (seq : BitVec 64) (phase : Nat) (segs : List (BitVec 256 × List Byte))
  | resume (p : Nat) (group : Nat) (seq : BitVec 64) (phase : Nat)
  | importAnswer (p : Nat) (id : Nat) (status : Nat) (cell : Nat)
  | retryReq (p : Nat) (seq : BitVec 64)
  | resend (p : Nat) (seq : BitVec 64) (count : Nat)
  | laneSwitch (p : Nat) (lane : Nat) (seq : BitVec 64)
  | session (p : Nat) (keys pkg : Nat)
  | linkResend (h : Hop)
  | linkAck (h : Hop) (seq : BitVec 64)
  | od (b : MgmtBind) (tag : BitVec 16) (op status : Nat) (value : List Byte)
  | mctp (b : MgmtBind) (r : MctpReply)
  | notice (b : MgmtBind) (eid : Nat) (tag : BitVec 16) (value : List Byte)
  | ibi
  | hotJoin
  | linkAccepted (h : Hop) (count : BitVec 64)
  deriving DecidableEq, Repr

/-- The clocks: the two hub local counts (R188), whether the device is powered and whether PREF_CLK runs (R512). -/
structure Clk where
  hlc0 : BitVec 64
  hlc1 : BitVec 64
  powered : Bool
  running : Bool
  deriving DecidableEq, Repr

/-- Start-up and service (Start-up and early service): READY of the manager function, EARLY, whether the start was cold,
whether the scheduler role is taken, the milliseconds of calibration, and the times of device resets. -/
structure Boot where
  ready : Bool
  early : Bool
  cold : Bool
  active : Bool
  calib : Nat
  resets : List (BitVec 64)
  deriving DecidableEq, Repr

/-! ## Power (Power and heat) -/

/-- The power bounds (Table 18-2). -/
structure Bounds where
  cap : BitVec 32
  floorCmp : BitVec 16
  ceilCmp : BitVec 16
  floorMem : BitVec 16
  ceilMem : BitVec 16
  floorLnk : BitVec 16
  ceilLnk : BitVec 16
  fmax : BitVec 16
  idle : BitVec 8
  deriving DecidableEq, Repr

/-- A die with thermal limits: its last reading in tenths of a degree, whether the throttle and critical actions hold it, and
the steps its lever is lowered (Table 18-4). -/
structure Therm where
  temp : Option Int
  throttled : Bool
  critical : Bool
  steps : Nat
  deriving DecidableEq, Repr

/-- What the controller has learned of a phase key (R447): power per domain in watts, and the stalled fraction in 1/256. -/
structure PhaseKey where
  key : Nat
  cmp : Nat
  mem : Nat
  lnk : Nat
  stall : Nat
  deriving DecidableEq, Repr

/-- Power state: bounds in force, pending copies, submissions that wait, `PWR_STATUS` bits; safety actions in force; the time
they have been in force; estimates, energy and gains by domain (0 compute, 1 memory, 2 links); allocations; phase keys, the
latest used first; energy of queues by creation number and of partitions by 16v + p; levers of MC dies and ports in
sixteenths; rail set points and requests in millivolts by CX half; whether every island is held at 500 MHz because the
power-management core has not come back. -/
structure Pwr where
  bounds : Bounds
  pend : Bounds
  subs : List Bounds
  refused : Bool
  capLimited : Bool
  alerts : List Nat
  overDraw : Nat
  therm : Tab Therm
  overTicks : Nat
  overSince : Option (BitVec 64)
  est : Tab Nat
  energy : BitVec 64
  msEst : Tab Nat
  gains : Tab Int
  alloc : Tab Nat
  keys : List PhaseKey
  queueE : Tab (BitVec 64)
  partE : Tab (BitVec 64)
  letIn : Tab Nat
  linkDuty : Tab Nat
  volts : Tab Nat
  request : Tab Nat
  slow : Bool
  deriving DecidableEq, Repr

/-! ## Security -/

/-- An entry of the security log (R474): source, level applied, detail, stamp, sequence since power-on. -/
structure AlarmRec where
  src : Nat
  level : Nat
  detail : BitVec 16
  stamp : BitVec 64
  seq : Nat
  deriving DecidableEq, Repr

/-- Where SPDM on a transport stands (R461): how far the connection is negotiated (0 none, 1 version, 2 capabilities,
3 algorithms). -/
structure Spdm where
  stage : Nat
  deriving DecidableEq, Repr

/-- A secured session: its number, its transport, the draw its keys came from, the key updates since, and whether FINISH has
established it. -/
structure Session where
  id : Nat
  transport : Transport
  keys : Nat
  updates : Nat
  open_ : Bool
  deriving DecidableEq, Repr

/-- Security state: the level in force, alarms raised and not yet acted on, the log with its sequence, the levels of sources,
the counts held in PF-S, receipt serial, negotiation by transport and sessions, IDE stream keys by 8 × port + stream, alarm
lines asserted and since when the others are low, whether the PF-S link is lost, whether the attestation key is held, and
the requests that wait for the security core (R462). -/
structure Sec where
  level : Nat
  raised : List (BitVec 8 × BitVec 16)
  log : List AlarmRec
  logSeq : Nat
  levels : Tab Nat
  a2Count : BitVec 32
  a3Count : BitVec 32
  serial : BitVec 64
  spdm : List (Transport × Spdm)
  sessions : List Session
  nextSession : Nat
  ide : Tab (BitVec 256)
  lines : List Nat
  lineLow : Tab (BitVec 64)
  linkLost : Bool
  attKey : Bool
  waiting : List Instr
  deriving DecidableEq, Repr

/-! ## The object dictionary -/

/-- A pending notice of the dictionary for one destination (R484): destination, tag, kind, object, merged count, detail,
whether it has been sent. -/
structure OdNotice where
  dest : Nat
  tag : BitVec 16
  kind : Nat
  obj : Nat
  count : Nat
  detail : List Byte
  sent : Bool
  deriving DecidableEq, Repr

/-- A write of an alarm level that waits for PF-S (R480): its binding and tag, the source and the level. -/
structure OdWait where
  binding : MgmtBind
  tag : BitVec 16
  src : Nat
  level : Nat
  deriving DecidableEq, Repr

/-- Dictionary and management state: notice destinations, pending notices and the next tag; the last unit request and its
result; the class-N write that waits for its platform die, and the requests behind it; MCTP endpoint ids by binding; the I3C address and whether a
hot-join was requested. -/
structure Od where
  dests : Tab (BitVec 64)
  notices : List OdNotice
  nextTag : BitVec 16
  lastUnit : Nat
  lastResult : Nat
  confirm : Option OdWait
  waiting : List Instr
  eids : Tab (BitVec 8)
  addr : Option (BitVec 7)
  hotJoined : Bool
  deriving DecidableEq, Repr

/-! ## Recovery -/

/-- A dredge under way (R430): the engine, the suspects that have not run alone, the one that runs alone, how often it hung
alone, the core where it is tried again, and whether any suspect was guilty. -/
structure Dredge where
  engine : Engine
  waiting : List (Nat × Nat × Nat)
  alone : Option (Nat × Nat × Nat)
  hangs : Nat
  second : Option Nat
  guilty : Bool
  deriving DecidableEq, Repr

/-- A phase record (Table 17-3): the length of its carried state and of one of the two buffers that hold it, in 4 KiB units, and the
first unit in the staging areas of its die; the places of its two copies, by MC die and number in the phase-record areas; the carried
state (what earlier phases received), and its digest. -/
structure PhaseRec where
  vdev : Nat
  kind : Nat
  group : BitVec 32
  seq : BitVec 64
  rank : Nat
  phase : Nat
  phases : Nat
  len : Nat
  room : Nat
  unit : Nat
  copyA : Option (Nat × Nat)
  copyB : Option (Nat × Nat)
  stateDie : Nat
  carried : List RemotePart
  digest : List Byte
  deriving DecidableEq, Repr

/-! ## The fabric -/

/-- An open collective exchange: the command, its group, sequence number and participant number, the ports it has used, the messages
sent in its current and previous phase (R427), and those that still wait for a port, by package and phase (R392). -/
structure Exchange where
  cmd : Nat
  vdev : Nat
  queue : Nat
  group : Nat
  seq : BitVec 64
  rank : Nat
  ports : List Port
  sent : List (Nat × PartData)
  due : List (Nat × Nat)
  deriving DecidableEq, Repr

/-- A fabric port (Tables 15-2, 15-5, 15-6): its state; active, reserve and failed lanes; its peer; its counters by
register number; the transmit count of the next flit, the count the peer expects, and the count expected from it; resends
of the oldest flit; whether flits are discarded until the expected one; times of retrains and of tag failures, and of the
last uncorrectable codeword; the draw of the session's salt and keys; credits by virtual channel; flits that wait for the
buffer; lane switches named for a later flit (lane and sequence number); how many multiples of 2^40 the session's rekeys cover; the
draws whose keys incoming flits are sealed under, each from a count on; segments in reception by channel and stream. -/
structure PortSt where
  state : Nat
  active : BitVec 10
  reserve : BitVec 10
  failed : BitVec 10
  peerPort : BitVec 4
  peerPkg : BitVec 32
  ctr : Tab (BitVec 64)
  tx : BitVec 64
  acked : BitVec 64
  rx : BitVec 64
  resends : Nat
  hunting : Bool
  retrains : List (BitVec 64)
  auths : List (BitVec 64)
  uncorrAt : Option (BitVec 64)
  session : Nat
  credits : Tab Nat
  waiting : Nat
  switchAt : List (Nat × BitVec 64)
  span : Nat
  keys : List (BitVec 64 × Nat)
  streams : Tab (List Byte)
  deriving DecidableEq, Repr

/-- The link of a host port (R516 … R518): whether it is up, its rate in GT/s, its width, and whether it runs CXL. -/
structure HostLink where
  up : Bool
  rate : Nat
  width : Nat
  cxl : Bool
  deriving DecidableEq, Repr

/-- Fabric state: open exchanges, ports, the package's id, and the exchanges (group and sequence number) that have failed,
whose notices are relayed once. -/
structure Fab where
  exchanges : List Exchange
  ports : Tab PortSt
  pkgId : BitVec 32
  failed : List (Nat × BitVec 64)
  refused : List (Nat × BitVec 64)
  deriving DecidableEq, Repr

/-- Everything in the block but device memory and the queue of commands. -/
structure Dev where
  clk : Clk
  boot : Boot
  fns : Tab Fn
  vds : Tab Vd
  mbx : Tab Mbx
  notices : List Notice
  evcs : Tab Evc
  fx : Fences
  ctxs : Tab Ctx
  exports : Tab FExport
  nextExport : Nat
  blobs : Tab Blob
  xlt : Xlt
  mc : Mc
  sched : Sched
  fw : Fw
  sec : Sec
  kern : Tab KRun
  fab : Fab
  pwr : Pwr
  od : Od
  dredges : List Dredge
  records : List PhaseRec
  events : Tab (BitVec 64)
  hdTimes : Tab (List (BitVec 64))
  net : Net
  hostLinks : Tab HostLink
  windowErrors : BitVec 64
  out : List Output
  draws : Nat
  deriving DecidableEq, Repr

/-- The state of the block. -/
structure State where
  dev : Dev
  mem : Memory
  pending : List Instr
  deriving DecidableEq, Repr

/-- Why the machine stops. -/
inductive Fault where
  /-- A memory address that no channel has (R205). No command raises it: every access is translated or bounded before it
  reaches memory, and one that names no cell is answered with the manual's own error. Safe. -/
  | noSuchCell
  deriving DecidableEq, Repr

/-- Why a command has no meaning. -/
inductive Refusal where
  /-- A row of the table of commands that has no meaning yet; raised by the dispatcher alone. Safe: the model stops. -/
  | notModelled (mnemonic : String)
  deriving DecidableEq, Repr

/-! ## Reset values -/

/-- An MSI-X vector at function reset (R363, R364). -/
def Vec.reset : Vec := ⟨0, 0, true, false, 0, 0⟩

/-- A function's registers at reset (Tables 10-3, 11-2, 16-7). -/
def Fn.reset : Fn where
  err := 0
  hwbase := 0
  adTail := 0
  adHead := 0
  evHead := 0
  adVec := 0
  feat := 1
  masterBase := 0
  masterCount := 0
  xltMode := 0
  syncFirst := 0
  syncSpan := 0
  moveVa := 0
  movePages := 0
  gatherLimit := 0x00200064
  syncDone := 0
  overrun := false
  vecs := []
  fnMask := false
  reqSlots := []
  respSlots := []
  respUsed := []
  taken := []
  evRing := []
  evIndex := 0
  evCount := 0
  evSeq := 0
  evHeld := []
  tdi := .configUnlocked
  tdiStream := 0
  argBad := false

/-- A mailbox channel at reset (Tables 14-2 … 14-4). -/
def Mbx.reset : Mbx := ⟨[], 0, 0, false, false, false, false, 0, 0⟩

/-- A fence cell at reset (Table 9-4). -/
def FCell.reset : FCell := ⟨0, 0, 0, 0, 0, false⟩

/-- A fence slot never used. -/
def FSlot.reset : FSlot := ⟨0, false, .cell 0, false, false, false, 0, 0⟩

/-- An interleave set entry at reset (Table 9-2). -/
def SetEnt.reset : SetEnt := ⟨0, 0, 0, 0, false, []⟩

/-- A channel with no power (Tables 9-9, 9-10). -/
def Channel.reset : Channel := ⟨.unpowered, [], [], false, [], [], 0, [], [], [], none, false, false, false, .unpowered⟩

/-- An MC die at power-on. -/
def McDie.reset : McDie := ⟨false, [], [], [], []⟩

/-- A key slot at power-on (R467). -/
def KeySlot.reset : KeySlot := ⟨.empty, 0, .slot0⟩

/-- An HDM decoder that the host has not committed (R231). -/
def Hdm.reset : Hdm := ⟨0, 0, false, none⟩

/-- A virtual device without a composition (R321, R325, R348). -/
def Vd.reset : Vd where
  enabled := false
  inReset := false
  frozen := false
  table := []
  gen := 0
  mirrorCh := 0
  mirrorLost := false
  sync := none
  epoch := 0
  cores := []
  reserve := []
  reserveWant := 0
  chans := []
  ports := 0
  mirrored := false
  queueGrant := 0
  parts := []
  queues := []
  slots := []
  imports := ⟨[], 0, false⟩
  quota := 0
  mirrors := []
  unmirrored := []
  ctr := []
  keyTimes := []
  groups := []

/-- A processor of an event controller at reset. -/
def EvProc.reset : EvProc := ⟨0, [], false, false, [], 0x3FF⟩

/-- An event controller at reset. -/
def Evc.reset : Evc := ⟨[], EvProc.reset, EvProc.reset⟩

/-- An event source at reset (Table 14-6). -/
def EvSrc.reset : EvSrc := ⟨0x00001000, 0, false⟩

/-- A core without power: its clock is 0 and its matrix duty full. -/
def Core.reset : Core := ⟨.unpowered, none, none, [], 0, 0, 16, false, 0, 0, false, [], 0, false⟩

/-- A unit that management and the data path agree on. -/
def UnitRec.reset : UnitRec := ⟨false, 0, false⟩

/-- A port at reset (Tables 15-5, 15-6). -/
def PortSt.reset : PortSt := ⟨0, 0, 0, 0, 0, 0, [], 0, 0, 0, 0, false, [], [], none, 0, [], 0, [], 0, [], []⟩

/-- A host link that is down. -/
def HostLink.reset : HostLink := ⟨false, 0, 0, false⟩

/-- A firmware processor before a load: only the security core runs (R398). -/
def ProcSt.reset (p : Nat) : ProcSt := ⟨p == 0, [], false, false⟩

/-- The default power bounds (Table 18-2). -/
def Bounds.reset : Bounds := ⟨17400, 1500, 14400, 600, 2100, 300, 500, 1100, 7⟩

/-- A die not yet read. -/
def Therm.reset : Therm := ⟨none, false, false, 0⟩

/-- Power state at power-on. -/
def Pwr.reset : Pwr where
  bounds := Bounds.reset
  pend := Bounds.reset
  subs := []
  refused := false
  capLimited := false
  alerts := []
  overDraw := 0
  therm := []
  overTicks := 0
  overSince := none
  est := []
  energy := 0
  msEst := []
  gains := []
  alloc := []
  keys := []
  queueE := []
  partE := []
  letIn := []
  linkDuty := []
  volts := []
  request := []
  slow := false

/-- Security state at power-on; levels that are not listed are the defaults of Table 19-4. DESIGN CHOICE: the manual gives the receipt
serial no first value (R30); the count starts at 0, so the first receipt of a device bears 1. -/
def Sec.reset : Sec where
  level := 0
  raised := []
  log := []
  logSeq := 0
  levels := []
  a2Count := 0
  a3Count := 0
  serial := 0
  spdm := []
  sessions := []
  nextSession := 0
  ide := []
  lines := []
  lineLow := []
  linkLost := false
  attKey := false
  waiting := []

/-- The dictionary at power-on. -/
def Od.reset : Od := ⟨[], [], 0, 0, 0, none, [], [], none, false⟩

/-- The device right after reset, before power-good. -/
def Dev.reset : Dev where
  clk := ⟨0, 0, false, true⟩
  boot := ⟨false, false, true, false, 0, []⟩
  fns := []
  vds := []
  mbx := []
  notices := []
  evcs := []
  fx := ⟨[], [], [], [], [], [], [], [], [], 0⟩
  ctxs := []
  exports := []
  nextExport := 1
  blobs := []
  xlt := ⟨[], [], [], [], [], [], [], [], [], [], [], [], [], [], [], [], [], 0⟩
  mc := ⟨[], [], [], [], [], [], [], [], [], [], [], [], [], [], [], 0⟩
  sched := ⟨[], [], [], [], [], [], [], 0, 1, 1⟩
  fw := ⟨0, 0, 0, 0, 0, 0, 0, 0, [], [], [], false, false, [], 0, 0, [], []⟩
  sec := Sec.reset
  kern := []
  fab := ⟨[], [], 0, [], []⟩
  pwr := Pwr.reset
  od := Od.reset
  dredges := []
  records := []
  events := []
  hdTimes := []
  net := ⟨[], [], [], 0, [], [], [], [], [], []⟩
  hostLinks := []
  windowErrors := 0
  out := []
  draws := 0

/-- The machine right after reset. -/
def State.reset : State := ⟨Dev.reset, ⟨[], []⟩, []⟩

end Sys2Proof.Machine
end

