-- ==== Sys2Proof/Machine/Ops.lean ====
section
/-! DEFINITION. Operations shared by the meanings: device memory and the one place where a command's writes are
committed, accessors of the tables of `Dev`, clocks, interrupts and moderation, the event ring, firmware notices, event
sources. -/

namespace Sys2Proof.Machine

open Sys2Proof

/-- What a step answers. -/
abbrev Out := Host.Outcome State Fault Refusal

/-- Whether two ranges share a byte. -/
def rangesMeet (a b : Nat × Nat) : Bool :=
  decide (0 < a.2) && decide (0 < b.2) && decide (a.1 < b.1 + b.2) && decide (b.1 < a.1 + a.2)

/-! ## Device memory -/

/-- Bytes of one channel: 1,536 MiB (R205). -/
def chanBytes : Nat := 1610612736
/-- Bytes of tenant memory of one channel: 1,440 MiB (R205). -/
def tenantBytes : Nat := 1509949440
/-- Bytes of the whole of device memory. -/
def memBytes : Nat := 1024 * chanBytes

/-- What an unlisted byte of device memory reads as: the initial scrub writes zeros under key slot 0 (R228). -/
def emptyByte : Byte := 0

/-- A number for a key, for `Config.foreignByte`. -/
def KeyId.code : KeyId → Nat
  | .slot0 => 0
  | .gen n => 2 * n + 1
  | .imported k => 2 * k.toNat + 2

/-- The stored plaintext of a byte. -/
def Memory.raw (m : Memory) (a : Nat) : Byte := Tab.getD m.cells a emptyByte

/-- The key a byte was written under. -/
def Memory.keyAt (m : Memory) (a : Nat) : KeyId := Tab.getD m.keys a .slot0

/-- A byte read under a key (R212): the stored byte under the key that wrote it, else a value the manual does not
give. -/
def Memory.read (m : Memory) (k : KeyId) (a : Nat) : Byte :=
  if m.keyAt a = k then m.raw a else Config.foreignByte a (m.keyAt a).code k.code (m.raw a)

/-- One byte written: address, key, byte. -/
structure MemWrite where
  addr : Nat
  key : KeyId
  byte : Byte
  deriving DecidableEq, Repr

/-- Write a byte under a key, keeping the canonical form. There is no cell past the end of memory (R205): translation names
none, and a write there stores nothing. -/
def Memory.write (m : Memory) (w : MemWrite) : Memory :=
  if w.addr < memBytes then
    { cells := if w.byte = emptyByte then Tab.del m.cells w.addr else Tab.put m.cells w.addr w.byte,
      keys := if w.key = .slot0 then Tab.del m.keys w.addr else Tab.put m.keys w.addr w.key }
  else m

/-- The keys of a table rise strictly. -/
def risingKeys {α : Type} : List (Nat × α) → Bool
  | [] => true
  | [_] => true
  | a :: b :: t => decide (a.1 < b.1) && risingKeys (b :: t)

/-- The canonical form of memory: addresses strictly rising and below the end of memory, no entry equal to what an
unlisted address reads as. -/
def Memory.wf (m : Memory) : Bool :=
  risingKeys m.cells && m.cells.all (fun c => decide (c.1 < memBytes) && decide (c.2 ≠ emptyByte)) &&
  (risingKeys m.keys && m.keys.all (fun c => decide (c.1 < memBytes) && decide (c.2 ≠ KeyId.slot0)))

/-- Apply a command's writes, the newest first in the list. -/
def Memory.commit (m : Memory) (log : List MemWrite) : Memory := log.foldr (fun w m => m.write w) m

/-- A command at work: the device, memory as it was when the command began, and the command's own writes, newest
first. -/
structure Wk where
  dev : Dev
  mem : Memory
  log : List MemWrite
  deriving DecidableEq, Repr

/-- The latest write of this command to an address. -/
def logAt : List MemWrite → Nat → Option MemWrite
  | [], _ => none
  | w :: l, a => if w.addr = a then some w else logAt l a

/-- A byte read by a command under a key, its own writes included. -/
def Wk.byte (w : Wk) (k : KeyId) (a : Nat) : Byte :=
  match logAt w.log a with
  | some e => if e.key = k then e.byte else Config.foreignByte a e.key.code k.code e.byte
  | none => w.mem.read k a

/-- The stored plaintext of a byte with its key, the command's own writes included. -/
def Wk.rawAt (w : Wk) (a : Nat) : KeyId × Byte :=
  match logAt w.log a with
  | some e => (e.key, e.byte)
  | none => (w.mem.keyAt a, w.mem.raw a)

/-- Consecutive bytes read under a key. -/
def Wk.bytes (w : Wk) (k : KeyId) (a n : Nat) : List Byte := (List.range n).map fun i => w.byte k (a + i)

/-- Consecutive bytes written under a key. -/
def Wk.put (w : Wk) (k : KeyId) : Nat → List Byte → Wk
  | _, [] => w
  | a, b :: bs => Wk.put { w with log := ⟨a, k, b⟩ :: w.log } k (a + 1) bs

/-- Change the device part of a command at work. -/
def Wk.on (f : Dev → Dev) (w : Wk) : Wk := { w with dev := f w.dev }

/-- Run a meaning that may write memory, and commit its writes. -/
def runMem (f : Wk → Wk) (s : State) : Out :=
  let w := f ⟨s.dev, s.mem, []⟩
  .next { s with dev := w.dev, mem := s.mem.commit w.log }

/-- Run a meaning that reads memory and writes none. -/
def runDev (f : Memory → Dev → Dev) (s : State) : Out := .next { s with dev := f s.mem s.dev }

/-! ## Accessors -/

/-- The number of the manager function among the functions. -/
def mgr : Nat := 256

/-- The registers of a function. -/
def Dev.fn (d : Dev) (i : Nat) : Fn := Tab.getD d.fns i Fn.reset
/-- Replace the registers of a function. -/
def Dev.setFn (d : Dev) (i : Nat) (x : Fn) : Dev := { d with fns := Tab.put d.fns i x }
/-- Change the registers of a function. -/
def Dev.onFn (d : Dev) (i : Nat) (f : Fn → Fn) : Dev := d.setFn i (f (d.fn i))

/-- A virtual device. -/
def Dev.vd (d : Dev) (v : Nat) : Vd := Tab.getD d.vds v Vd.reset
/-- Replace a virtual device. -/
def Dev.setVd (d : Dev) (v : Nat) (x : Vd) : Dev := { d with vds := Tab.put d.vds v x }
/-- Change a virtual device. -/
def Dev.onVd (d : Dev) (v : Nat) (f : Vd → Vd) : Dev := d.setVd v (f (d.vd v))

/-- A queue, if it exists. -/
def Dev.queue? (d : Dev) (v q : Nat) : Option Queue := Tab.get? (d.vd v).queues q
/-- Replace a queue. -/
def Dev.setQueue (d : Dev) (v q : Nat) (x : Queue) : Dev :=
  d.onVd v fun y => { y with queues := Tab.put y.queues q x }
/-- Change a queue if it exists. -/
def Dev.onQueue (d : Dev) (v q : Nat) (f : Queue → Queue) : Dev :=
  match d.queue? v q with
  | some x => d.setQueue v q (f x)
  | none => d

/-- The current command of a queue. -/
def Dev.cur? (d : Dev) (v q : Nat) : Option Cmd := (d.queue? v q).bind fun x => x.cur
/-- Change the current command of a queue. -/
def Dev.onCur (d : Dev) (v q : Nat) (f : Cmd → Cmd) : Dev := d.onQueue v q fun x => { x with cur := x.cur.map f }

/-- A channel. -/
def Dev.chan (d : Dev) (c : Nat) : Channel := Tab.getD d.mc.chans c Channel.reset
/-- Change the memory system. -/
def Dev.onMc (d : Dev) (f : Mc → Mc) : Dev := { d with mc := f d.mc }
/-- Change a channel. -/
def Dev.onChan (d : Dev) (c : Nat) (f : Channel → Channel) : Dev :=
  d.onMc fun m => { m with chans := Tab.put m.chans c (f (d.chan c)) }
/-- An MC die. -/
def Dev.die (d : Dev) (k : Nat) : McDie := Tab.getD d.mc.dies k McDie.reset
/-- Change an MC die. -/
def Dev.onDie (d : Dev) (k : Nat) (f : McDie → McDie) : Dev :=
  d.onMc fun m => { m with dies := Tab.put m.dies k (f (d.die k)) }
/-- An interleave set. -/
def Dev.set (d : Dev) (s : Nat) : SetEnt := Tab.getD d.mc.sets s SetEnt.reset
/-- A fence cell. -/
def Dev.cell (d : Dev) (k : Nat) : FCell := Tab.getD d.mc.cells k FCell.reset
/-- Change a fence cell. -/
def Dev.onCell (d : Dev) (k : Nat) (f : FCell → FCell) : Dev :=
  d.onMc fun m => { m with cells := Tab.put m.cells k (f (d.cell k)) }
/-- A key slot. Slot 0 holds the device's own key (R467). -/
def Dev.keySlot (d : Dev) (k : Nat) : KeySlot := Tab.getD d.mc.keys k KeySlot.reset
/-- Change a key slot. -/
def Dev.onKey (d : Dev) (k : Nat) (f : KeySlot → KeySlot) : Dev :=
  d.onMc fun m => { m with keys := Tab.put m.keys k (f (d.keySlot k)) }
/-- Every memory-side cache drops its lines under the slots that a test picks (R468). -/
def dropKeyLines (p : Nat → Bool) (d : Dev) : Dev :=
  let die (k : McDie) : McDie := { k with cache := k.cache.filter fun l => !p l.key }
  d.onMc fun m => { m with dies := m.dies.map fun (i, k) => (i, die k) }
/-- Slots are erased: every copy is zeroed, the cache lines under them go, and they are EMPTY (R468). -/
def eraseSlots (p : Nat → KeySlot → Bool) (d : Dev) : Dev :=
  let d := dropKeyLines (fun i => p i (d.keySlot i)) d
  d.onMc fun m => { m with keys := m.keys.map fun (i, k) => (i, if p i k then KeySlot.reset else k) }
/-- A fence slot of a virtual device. -/
def Vd.slot (x : Vd) (i : Nat) : FSlot := Tab.getD x.slots i FSlot.reset
/-- A core of the unit table. -/
def Dev.core (d : Dev) (n : Nat) : Core := Tab.getD d.sched.cores n Core.reset
/-- Change scheduling state. -/
def Dev.onSched (d : Dev) (f : Sched → Sched) : Dev := { d with sched := f d.sched }
/-- Change a core. -/
def Dev.onCore (d : Dev) (n : Nat) (f : Core → Core) : Dev :=
  d.onSched fun s => { s with cores := Tab.put s.cores n (f (d.core n)) }
/-- Change translation state. -/
def Dev.onXlt (d : Dev) (f : Xlt → Xlt) : Dev := { d with xlt := f d.xlt }
/-- Change fence messages and waits. -/
def Dev.onFx (d : Dev) (f : Fences → Fences) : Dev := { d with fx := f d.fx }
/-- A context, if it is live or being destroyed. -/
def Dev.ctx? (d : Dev) (c : Nat) : Option Ctx := Tab.get? d.ctxs c
/-- Change a context if it is live. -/
def Dev.onCtx (d : Dev) (c : Nat) (f : Ctx → Ctx) : Dev :=
  match d.ctx? c with
  | some x => { d with ctxs := Tab.put d.ctxs c (f x) }
  | none => d
/-- Append to what leaves at the ports. -/
def Dev.emit (d : Dev) (o : Output) : Dev := { d with out := d.out ++ [o] }
/-- A counter of a port. -/
def PortSt.count (x : PortSt) (i n : Nat) : PortSt := { x with ctr := Tab.put x.ctr i (Tab.getD x.ctr i 0 + BitVec.ofNat 64 n) }

/-- Flits of a retry buffer (R380). -/
def retryFlits : Nat := 4096

/-- Flits leave as far as the retry buffer holds them, and not past a multiple of 2^40 for which the session has not been rekeyed; the
transmitter stops there (R380, R383). -/
def PortSt.send (x : PortSt) (n : Nat) : PortSt :=
  let all := x.waiting + n
  let k := min (min all (retryFlits - (x.tx - x.acked).toNat)) (2 ^ 40 * (x.span + 1) - x.tx.toNat)
  { (x.count 4 k) with tx := x.tx + BitVec.ofNat 64 k, waiting := all - k }

/-- Count a device event (0x5000 of Table 20-6): 1 parity, 2 replays, 3 failures with 0x0010, 4 hangs, 5 guilty verdicts,
6 cores retired, 7 channels retired, 8 reedbed links retired, 9 device resets, 10 firmware restarts. -/
def bump (i : Nat) (d : Dev) : Dev := { d with events := Tab.put d.events i (Tab.getD d.events i 0 + 1) }
/-- Take the next draw number, for a free value. -/
def Dev.draw (d : Dev) : Nat × Dev := (d.draws, { d with draws := d.draws + 1 })

/-- Count in a channel counter (Table 9-10). A read or a write wakes the channel from self-refresh (R456). -/
def countCh (c i : Nat) (d : Dev) : Dev := d.onChan c fun k => { k with
  ctr := Tab.put k.ctr i (Tab.getD k.ctr i 0 + 1)
  selfRefresh := k.selfRefresh && decide (2 ≤ i) }

/-! ## Ownership, clocks, service -/

/-- The hub that owns a virtual device (R262, R348). -/
def hubOf (v : Nat) : Nat := v / 128 % 2
/-- The hub of a function: HB0 for the manager function. -/
def fnHub (fn : Nat) : Nat := if fn = mgr then 0 else hubOf fn
/-- The hub local count of a hub (R188). -/
def Dev.hlc (d : Dev) (h : Nat) : BitVec 64 := if h = 0 then d.clk.hlc0 else d.clk.hlc1
/-- The hub local count of the hub that owns a virtual device. -/
def Dev.hlcOf (d : Dev) (v : Nat) : BitVec 64 := d.hlc (hubOf v)
/-- Whether any unit is bound to a virtual device. -/
def Vd.composed (x : Vd) : Bool := !(x.cores.isEmpty && x.reserve.isEmpty && x.chans.isEmpty && x.ports == 0)

/-- What a composition is charged for now: what the last published epoch binds (R346). -/
def Dev.bill (d : Dev) (v : Nat) (x : Vd) : Bill :=
  match d.sched.publish.find? fun p => p.vdev == v with
  | some p => p.old
  | none => ⟨x.cores, x.reserve, x.chans, x.ports⟩

/-- Active lanes of the ports of a mask (R379). -/
def Dev.lanes (d : Dev) (ports : BitVec 16) : Nat :=
  (d.fab.ports.map fun p => if bitAt ports.toNat p.1 then (List.range 10).countP fun i => bitAt p.2.active.toNat i else 0).sum

/-- Add to counter i of a composition (Table 13-6). -/
def Vd.count (x : Vd) (i n : Nat) : Vd := { x with ctr := Tab.put x.ctr i (Tab.getD x.ctr i 0 + BitVec.ofNat 64 n) }

/-- `us` microseconds of the owning hub's count are charged to a composition (R346, Table 13-6). -/
def Dev.charge (d : Dev) (us v : Nat) (x : Vd) : Vd :=
  let b := d.bill v x
  let x := ((x.count 0 (us * b.cores.length)).count 1 (us * b.reserve.length)).count 2 (us * b.chans.length)
  let x := x.count 3 (us * d.lanes b.ports)
  if d.boot.early then x.count 4 (us * b.cores.length) else x

/-- The context number of a command. -/
def Cmd.context (c : Cmd) : Nat := bits (fieldLe c.desc 8 4) 19 0

/-- The contexts whose groups or tiles are resident on cores of a hub's virtual devices, each with the number of those cores (Table
12-2). The groups of a command that is switched out stay resident (R254). -/
def Dev.resident (d : Dev) (h : Nat) : List (Nat × Nat) :=
  (d.vds.filter fun v => v.1 < 256 && hubOf v.1 == h).flatMap fun v => v.2.queues.filterMap fun q => q.2.cur.map fun c =>
    (c.context, if c.started then
      (d.sched.cores.filter fun k => k.2.busy == some c.no || k.2.switched == some c.no).length else 0)

/-- The units of a virtual device in the map that an endpoint has installed (R338): until it switches to a map being published, those
that were bound before that change. -/
def Dev.mapOf (d : Dev) (e : Endp) (v : Nat) : Bill :=
  match d.sched.publish.find? fun p => p.vdev == v && p.toSend.contains e with
  | some p => p.old
  | none => ⟨(d.vd v).cores, (d.vd v).reserve, (d.vd v).chans, (d.vd v).ports⟩

/-- The owning hub of a virtual device as an endpoint. -/
def hubEnd (v : Nat) : Endp := .hub (if hubOf v = 0 then 0 else 1)

/-- Whether a virtual device is charged for units: it has some, or the epoch that removes its last is not yet published (R346). -/
def Dev.charged (d : Dev) (v : Nat) (x : Vd) : Bool := x.composed || d.sched.publish.any fun p => p.vdev == v

/-- The whole microseconds from one count to another are charged to every composition of a hub (R346), and to the contexts resident
on cores (R297). -/
def Dev.chargeAll (d : Dev) (h us : Nat) : Dev :=
  if us = 0 then d
  else
    let d := (d.resident h).foldl (fun d c => d.onCtx c.1 fun x => { x with coreUs := x.coreUs + BitVec.ofNat 64 (us * c.2) }) d
    { d with vds := d.vds.map fun v => (v.1, if v.1 < 256 ∧ hubOf v.1 = h ∧ d.charged v.1 v.2 = true then d.charge us v.1 v.2 else v.2) }

/-- Time has reached `t` on a hub's count: the count never runs back (R188), and stands while the reference clock is missing
(R512). -/
def Dev.advance (d : Dev) (h : Nat) (t : BitVec 64) : Dev :=
  let old := d.hlc h
  if !d.clk.running || !(old < t) then d
  else
    let d := d.chargeAll h (t.toNat / 100 - old.toNat / 100)
    if h = 0 then { d with clk := { d.clk with hlc0 := t } } else { d with clk := { d.clk with hlc1 := t } }

/-- With no command waiting, one tick of both counts passes while the device is powered and PREF_CLK runs (R188, R512). -/
def idle (s : State) : State :=
  if s.dev.clk.powered then { s with dev := (s.dev.advance 0 (s.dev.clk.hlc0 + 1)).advance 1 (s.dev.clk.hlc1 + 1) } else s

/-- A number of microseconds in ticks of 10 ns (R188). -/
def usTicks (us : Nat) : BitVec 64 := BitVec.ofNat 64 (100 * us)
/-- The hub of the active scheduler core (R396). -/
def Dev.schedHub (d : Dev) : Nat := if d.fw.activeB then 1 else 0
/-- Whether a `t` within `us` microseconds before `now`. -/
def within (now t : BitVec 64) (us : Nat) : Bool := decide ((now - t).toNat ≤ 100 * us)

/-- A firmware processor: 0 security core, 1 scheduler core A, 2 power-management core, 3 scheduler core B, 4 + c the control
core of cluster c. -/
def Dev.proc (d : Dev) (p : Nat) : ProcSt := Tab.getD d.fw.procs p (ProcSt.reset p)
/-- Whether the active scheduler runs (R396): it takes requests and decides. -/
def Dev.schedUp (d : Dev) : Bool := d.boot.active && d.fw.state == 2 && (d.proc (if d.fw.activeB then 3 else 1)).up && d.sec.level != 3
/-- Whether the security core runs. -/
def Dev.secUp (d : Dev) : Bool := d.clk.powered && (d.proc 0).up && d.sec.level != 3

/-- What READY of a virtual function asks beyond its composition: during early service every member channel of its sets in
service, a serviceable core in each partition, and the security core (R501). -/
def Dev.earlyReady (d : Dev) (v : Nat) : Bool :=
  (d.mc.sets.all fun s => !(s.2.valid && s.2.vdev == v) || s.2.members.all fun m =>
    (d.chan m.1).state == .inService || (d.chan m.1).state == .repairing) &&
  ((d.vd v).parts.all fun p => p.2.cores.any fun n => (d.core n).state == .serviceable) && d.secUp

/-- READY of `GQI_ID_STATUS` (Table 11-2): firmware serves, and the manager has composed the virtual device (R348). -/
def Dev.ready (d : Dev) (v : Nat) : Bool :=
  d.boot.ready && d.fw.state == 2 && (v == mgr || ((d.vd v).composed && !(d.vd v).inReset && (!d.boot.early || d.earlyReady v)))

/-- Whether new commands may be dispatched (R263, R365). -/
def Dev.dispatching (d : Dev) (v : Nat) : Bool := d.ready v && d.sec.level == 0 && !(d.vd v).frozen

/-- `GQI_ID_STATUS` (Table 11-2). -/
def Dev.idStatus (d : Dev) (fn : Nat) : BitVec 32 :=
  BitVec.ofNat 32 ((if d.ready fn then 1 else 0) + (if d.boot.early then 2 else 0) + (if d.sec.level == 2 then 4 else 0)
    + (if d.sec.level == 3 then 8 else 0))

/-- A feature bit of a function's effective mask (R401). -/
def Dev.feature (d : Dev) (fn b : Nat) : Bool := bitAt (d.fn fn).feat.toNat b

/-! ## MSI-X (R363, R364) -/

/-- A vector of a function. -/
def Fn.vec (x : Fn) (i : Nat) : Vec := Tab.getD x.vecs i Vec.reset

/-- Send one message on a vector, or set its pending bit while the vector or the function is masked. -/
def sendMsix (fn i : Nat) (d : Dev) : Dev :=
  let f := d.fn fn
  let x := f.vec i
  let d := d.setFn fn { f with vecs := Tab.put f.vecs i { x with pend := x.mask || f.fnMask, held := 0 } }
  if x.mask || f.fnMask then d else d.emit (.msix fn i x.addr x.data)

/-- `EVC_MOD_TIME` of a vector. -/
def Vec.modTime (x : Vec) : Nat := bits x.mod.toNat 31 16
/-- `EVC_MOD_COUNT` of a vector; 0 acts as 1. -/
def Vec.modCount (x : Vec) : Nat := max 1 (bits x.mod.toNat 15 0)

/-- Signal an event on a vector, subject to its moderation. On a masked vector it sets the pending bit at once (R363). -/
def signalVec (fn i : Nat) (d : Dev) : Dev :=
  let i := i % 64
  let f := d.fn fn
  let x := f.vec i
  if x.modTime = 0 || x.mask || f.fnMask || decide (x.modCount ≤ x.held + 1) then sendMsix fn i d
  else d.setFn fn { f with vecs := Tab.put f.vecs i { x with held := x.held + 1 } }

/-! ## Event controllers (R359 … R361) -/

/-- An event controller. Controllers are numbered: hubs 0 and 1, cluster c at 2 + c. -/
def Dev.evc (d : Dev) (i : Nat) : Evc := Tab.getD d.evcs i Evc.reset
/-- Replace an event controller. -/
def Dev.setEvc (d : Dev) (i : Nat) (x : Evc) : Dev := { d with evcs := Tab.put d.evcs i x }
/-- A source of a controller. -/
def Evc.src (x : Evc) (i : Nat) : EvSrc := Tab.getD x.srcs i EvSrc.reset
/-- `EVC_PRIO`. -/
def EvSrc.prio (x : EvSrc) : Nat := bits x.cfg.toNat 11 8
/-- `EVC_COUNT`; 0 acts as 1. -/
def EvSrc.count (x : EvSrc) : Nat := max 1 (bits x.cfg.toNat 19 12)
/-- `EVC_TIME_US`. -/
def EvSrc.time (x : EvSrc) : Nat := bits x.cfg.toNat 31 20
/-- `EVC_TARGET` bit. -/
def EvSrc.targets (x : EvSrc) (p : Nat) : Bool := bitAt x.cfg.toNat p
/-- A processor of a controller. -/
def Evc.proc (x : Evc) (p : Nat) : EvProc := if p = 0 then x.p0 else x.p1
/-- Replace a processor of a controller. -/
def Evc.setProc (x : Evc) (p : Nat) (y : EvProc) : Evc := if p = 0 then { x with p0 := y } else { x with p1 := y }

/-- A ready source is eligible at a processor (R360). -/
def Evc.eligible (x : Evc) (i p : Nat) : Bool :=
  let s := x.src i
  s.ready && decide (0 < s.prio) && s.targets p && decide ((x.proc p).prio < s.prio) &&
    (!(x.proc p).mask || (x.proc p).asleep)

/-- The processor that a ready source is routed to (R360). -/
def Evc.route (x : Evc) (i : Nat) : Option Nat :=
  match x.eligible i 0, x.eligible i 1 with
  | false, false => none
  | true, false => some 0
  | false, true => some 1
  | true, true =>
    if x.p0.prio < x.p1.prio then some 0 else if x.p1.prio < x.p0.prio then some 1
    else if x.p0.asleep && !x.p1.asleep then some 1 else some 0

/-- Route every ready source again: sources delivered and not claimed follow the processor now chosen, and a sleeping
processor in the target of a ready source wakes (R360, R361). A masked processor receives nothing until it unmasks; a source that was
routed to a masked sleeper is routed once more after that has woken. -/
def Evc.reroute (x : Evc) : Evc :=
  let ready := (x.srcs.filter fun s => s.2.ready && decide (0 < s.2.prio)).map Prod.fst
  let wake (p : Nat) (y : EvProc) : EvProc := if ready.any fun i => (x.src i).targets p then { y with asleep := false } else y
  let woken : Evc := { x with p0 := wake 0 x.p0, p1 := wake 1 x.p1 }
  let dest (i : Nat) : Option Nat := match x.route i with
    | some p => if (x.proc p).mask then woken.route i else some p
    | none => none
  { woken with p0 := { woken.p0 with given := ready.filter fun i => dest i == some 0 }, p1 := { woken.p1 with given := ready.filter fun i => dest i == some 1 } }

/-- An event arrives at a source of a controller (R359). A source with priority 0 is disabled (R358). -/
def raiseSrc (c i : Nat) (d : Dev) : Dev :=
  let x := d.evc c
  let s := x.src i
  let n := s.pend + 1
  let s := { s with pend := n, ready := s.ready || s.time == 0 || decide (s.count ≤ n) }
  d.setEvc c ({ x with srcs := Tab.put x.srcs i s }).reroute

/-- An event of the cluster controllers (Table 14-6): dispatch hand-off 0, chain successor due 1, ABORT 2, map or invalidation
message 3, binary load request 4. -/
def raiseClusters (i : Nat) (cs : List Nat) (d : Dev) : Dev := cs.foldl (fun d c => raiseSrc (2 + c) (0x44 + i) d) d

/-! ## The scheduler journal (R409, R410) -/

/-- A record of the scheduler journal: 64 bytes, the last of which is the parity of the others. DESIGN CHOICE (log entry 80): its kind,
then its words of 32 bits. -/
def journalRecord (kind : Nat) (ws : List Nat) : List Byte :=
  let bs := sliceB (natLe 1 kind ++ ws.flatMap (natLe 4)) 0 63
  bs ++ [bs.foldl (· ^^^ ·) 0]

/-- A record is appended to the journal, and the standby applies it. After 256 KiB of records the active scheduler writes a checkpoint. -/
def appendJournal (r : List Byte) (d : Dev) : Dev :=
  let d := raiseSrc (1 - d.schedHub) 0x151 d
  let l := d.fw.journal ++ [r]
  { d with fw := { d.fw with
      journal := if 4096 ≤ l.length then [] else l
      applied := if 4096 ≤ l.length then 0 else if d.fw.standbyReady then l.length else d.fw.applied
      checkpoint := if 4096 ≤ l.length then d.fw.checkpoint + 1 else d.fw.checkpoint } }

/-- The active scheduler records a change before it is visible (R409): an admin request taken (kind 1: function, slot, operation), its
effect and response (2: function, slot, status), a hand-off (3: command, attempt, up to 12 cores), an abandoned attempt (4: command,
attempt), a change of the fault table (5: slot, waiters, virtual device, page), an epoch (6: virtual device, epoch), an event entry posted
(7: function, kind). -/
def journal (kind : Nat) (ws : List Nat) (d : Dev) : Dev := if d.schedUp then appendJournal (journalRecord kind ws) d else d

/-! ## Event rings (R405, R406) -/

/-- The event vector of a function: `GQI_AD_VEC` [13:8]. -/
def Fn.evVec (x : Fn) : Nat := bits x.adVec.toNat 13 8
/-- The admin vector of a function: `GQI_AD_VEC` [5:0]. -/
def Fn.adminVec (x : Fn) : Nat := bits x.adVec.toNat 5 0

/-- Whether the event ring takes no further entry. -/
def Fn.evFull (x : Fn) : Bool := x.evIndex == (bits x.evHead.toNat 7 0 + 255) % 256

/-- An event entry (Table 16-12): header and body. -/
def eventEntry (stamp : BitVec 64) (seq : BitVec 32) (merged kind : Nat) (phase : Bool) (body : List Byte) : List Byte :=
  natLe 1 (if phase then 1 else 0) ++ natLe 1 kind ++ natLe 2 merged ++ natLe 4 seq.toNat ++ natLe 8 stamp.toNat ++
    natLe 16 0 ++ sliceB body 0 32

/-- Write one event entry at the ring's index; the entry is journaled (R409). -/
def writeEntry (fn : Nat) (e : HeldEvent) (d : Dev) : Dev :=
  let d := journal 7 [fn, e.kind] d
  let f := d.fn fn
  let entry := eventEntry (d.hlc (fnHub fn)) (f.evSeq + 1) e.merged e.kind (f.evCount / 256 % 2 == 0) e.body
  d.setFn fn { f with
    evRing := Tab.put f.evRing f.evIndex entry
    evIndex := (f.evIndex + 1) % 256
    evCount := f.evCount + 1
    evSeq := f.evSeq + 1 }

/-- Write one event entry and signal the event vector. -/
def writeEvent (fn : Nat) (e : HeldEvent) (d : Dev) : Dev := signalVec fn (d.fn fn).evVec (writeEntry fn e d)

/-- Hold an event while the ring is full, merging it with a held event of its kind and object (R406). -/
def holdEvent (e : HeldEvent) (l : List HeldEvent) : List HeldEvent :=
  if e.kind != 1 && l.any (fun x => x.kind == e.kind && x.obj == e.obj) then
    updFirst (fun x => x.kind == e.kind && x.obj == e.obj) (fun x => { x with merged := x.merged + e.merged, body := e.body }) l
  else l ++ [e]

/-- Post an event on a function's ring: kind, object, body (Table 16-13). -/
def postEvent (fn kind obj : Nat) (body : List Byte) (d : Dev) : Dev :=
  let f := d.fn fn
  let e : HeldEvent := ⟨kind, obj, 1, body⟩
  if f.evFull || !f.evHeld.isEmpty then d.setFn fn { f with evHeld := holdEvent e f.evHeld }
  else writeEvent fn e d

/-- Post consecutive events, each with its object, followed by one interrupt (R255). -/
def postBatch (fn kind : Nat) (bodies : List (Nat × List Byte)) (d : Dev) : Dev :=
  let d := bodies.foldl (fun d b =>
    if (d.fn fn).evFull || !(d.fn fn).evHeld.isEmpty then d.onFn fn fun f => { f with evHeld := holdEvent ⟨kind, b.1, 1, b.2⟩ f.evHeld }
    else writeEntry fn ⟨kind, b.1, 1, b.2⟩ d) d
  signalVec fn (d.fn fn).evVec d

/-- The fault id: slot and use count (Table 10-7). -/
def faultId (slot use : Nat) : Nat := slot + use % 2 ^ 20 * 4096

/-- Whether the FAULT of a fault-table entry is held unposted: the entry stays in the table until it is posted (R406). -/
def Dev.unposted (d : Dev) (slot : Nat) (e : FaultEnt) : Bool := (d.fn e.vdev).evHeld.any fun h => h.kind == 1 && h.obj == faultId slot e.use

/-- A FAULT has been posted: its entry is freed where nothing waits on it any more (R406). -/
def faultPosted (e : HeldEvent) (d : Dev) : Dev :=
  if e.kind ≠ 1 then d
  else d.onXlt fun x => { x with faults := x.faults.filter fun f => !(faultId f.1 f.2.use == e.obj && f.2.waiters.isEmpty && f.2.kind != 0) }

/-- Post held events while the ring has room (R406). -/
def drainHeld (fn : Nat) : Nat → Dev → Dev
  | 0, d => d
  | n + 1, d =>
    let f := d.fn fn
    match f.evHeld with
    | [] => d
    | e :: rest => if f.evFull then d else drainHeld fn n (faultPosted e (writeEvent fn e (d.setFn fn { f with evHeld := rest })))

/-! ## Notices of the object dictionary (R484) -/

/-- The kind mask of a notice destination. -/
def odMask (x : BitVec 64) : Nat := if bits x.toNat 63 56 = 0 then 0 else bits x.toNat 15 0

/-- An event of a kind is noted for each destination whose mask holds the kind. A later event of the same kind and object
merges into the pending notice, which then goes out again under a new tag. -/
def raiseOd (kind obj : Nat) (detail : List Byte) (d : Dev) : Dev :=
  d.od.dests.foldl (fun d dest =>
    if !bitAt (odMask dest.2) (kind - 1) then d
    else
      let o := d.od
      let hit (n : OdNotice) : Bool := n.dest == dest.1 && n.kind == kind && n.obj == obj
      let l := if o.notices.any hit
        then updFirst hit (fun n => { n with count := n.count + 1, detail := detail, tag := o.nextTag, sent := false }) o.notices
        else o.notices ++ [⟨dest.1, o.nextTag, kind, obj, 1, detail, false⟩]
      { d with od := { o with notices := l, nextTag := o.nextTag + 1 } }) d

/-! ## Alarms -/

/-- An alarm source is raised inside another step; the step ALARM that follows logs it and acts (R472). -/
def raiseAlarm (src : BitVec 8) (detail : BitVec 16) (d : Dev) : Dev :=
  { d with sec := { d.sec with raised := d.sec.raised ++ [(src, detail)] } }

/-! ## Firmware notices (R357) -/

/-- Notice kinds. -/
def noticeStalled : Nat := 1
/-- COMPOSITION_CHANGED. -/
def noticeComposition : Nat := 2
/-- SLUICE_OVERDUE. -/
def noticeOverdue : Nat := 3
/-- MIGRATION. -/
def noticeMigration : Nat := 4
/-- DISPUTE. -/
def noticeDispute : Nat := 5

/-- Raise a notice: a later event of the same kind and virtual device replaces the detail and counts. -/
def raiseNotice (kind v : Nat) (detail : List (BitVec 32)) (d : Dev) : Dev :=
  { d with notices :=
      if d.notices.any (fun n => n.kind == kind && n.vdev == v) then
        updFirst (fun n => n.kind == kind && n.vdev == v) (fun n => { n with count := n.count + 1, detail := detail }) d.notices
      else d.notices ++ [⟨kind, v, 1, detail⟩] }

/-- The word of a unit in an event body (Table 16-13). -/
def unitRef (u : UnitKind × Nat) : Nat := (match u.1 with | .core => 1 | .chan => 2 | .port => 3) * 2 ^ 28 + u.2

/-- The fabric manager is told of the ports that a change of a composition moves (R393). -/
def portsMoved (v : Nat) (units : List (UnitKind × Nat)) (d : Dev) : Dev :=
  (units.filter fun u => u.1 == .port).foldl (fun d u => raiseOd 3 (unitRef u) (natLe 4 (d.vd v).epoch.toNat) d) d

/-- A composition event: its record on the event ring and the notice to the manager (R347), and where a port moves the notice
to the fabric manager (R393). Units are (kind, number); more than six take further records of the same epoch and cause. -/
def compositionChanged (v cause : Nat) (units : List (UnitKind × Nat)) (d : Dev) : Dev :=
  let ws := units.map unitRef
  let ep := (d.vd v).epoch
  let body (i : Nat) : List Byte :=
    natLe 4 ep.toNat ++ natLe 1 cause ++ natLe 3 0 ++ ((ws.drop (6 * i)).take 6).flatMap (natLe 4)
  let d := (List.range (max 1 ((ws.length + 5) / 6))).foldl (fun d i => postEvent v 6 (leNat (((ws.drop (6 * i)).take 6).flatMap (natLe 4))) (body i) d) d
  let d := portsMoved v units d
  raiseNotice noticeComposition v (ep :: BitVec.ofNat 32 cause :: (ws.take 4).map (BitVec.ofNat 32)) d

end Sys2Proof.Machine
end

