-- ==== Sys2Proof/Machine/Distance.lean ====
section
/-! DEFINITION. The geometry of the reedbed (R183, R184, R190, R192) and the distance table (R201, R202), with the
detours of retired links (R200). -/

namespace Sys2Proof.Machine

open Sys2Proof

/-- The router of a core (R184): column and row. -/
def coreRouter (n : Nat) : Nat × Nat :=
  let c := n / 68
  let r := n % 68 / 17
  (2 * (c % 16) + r % 2, if c < 16 then (if r < 2 then 0 else 1) else (if r < 2 then 3 else 2))

/-- The router at which port q = 2k + port of an MC die attaches (Table 8-1). -/
def portRouter (q : Nat) : Nat × Nat := (2 * (q / 2 % 16) + q % 2, if q / 2 < 16 then 0 else 3)

/-- The traversal time of the x link between columns a and a + 1 (Table 8-3). -/
def xLinkNs (a : Nat) : Nat := if a % 4 = 1 then 16 else if a % 4 = 3 then 20 else 12

/-- The traversal time of the y link between rows a and a + 1 (Table 8-3). -/
def yLinkNs (a : Nat) : Nat := if a = 1 then 20 else 12

/-- The x links of the route, which runs along x in the source's row (R192). -/
def routeX (x0 x1 : Nat) : List Nat := if x0 ≤ x1 then (List.range (x1 - x0)).map (x0 + ·) else (List.range (x0 - x1)).map (x1 + ·)

/-- Whether the x link from column a in a row is retired. -/
def xRetired (rs : List LinkId) (a y : Nat) : Bool :=
  rs.any fun l => match l with
    | .x c r => c.val == a && r.val == y
    | _ => false

/-- Whether the y link from row a in a column is retired. -/
def yRetired (rs : List LinkId) (x a : Nat) : Bool :=
  rs.any fun l => match l with
    | .y c r => c.val == x && r.val == a
    | _ => false

/-- The entry of a core and an MC port (Table 8-9, R202): nominal time, boardwalks, hops. A detour around a retired
link adds two half-internal hops (R200). -/
def distEntry (rs : List LinkId) (core q : Nat) : Nat × Nat × Nat :=
  let (x0, y0) := coreRouter core
  let (x1, y1) := portRouter q
  let xs := routeX x0 x1
  let ys := routeX y0 y1
  let det := (xs.filter fun a => xRetired rs a y0).length + (ys.filter fun a => yRetired rs x1 a).length
  let ns := 8 + (xs.map xLinkNs).foldl (· + ·) 0 + (ys.map yLinkNs).foldl (· + ·) 0 + 24 * det + 10
  (ns, (xs.filter fun a => a % 4 == 1).length, xs.length + ys.length + 2 * det + 1)

/-- The 32-bit entry (Table 8-9). -/
def distWord (rs : List LinkId) (core q : Nat) : Nat :=
  let (ns, b, h) := distEntry rs core q
  ns * 65536 + b * 256 + h

/-- The 557,056 bytes of the distance table (R201). -/
def distTable (rs : List LinkId) : List Byte :=
  (List.range 2176).flatMap fun c => (List.range 64).flatMap fun q => natLe 4 (distWord rs c q)

/-- The distance of a core to a list of home channels (R328). -/
def coreDistance (rs : List LinkId) (chans : List Nat) (core : Nat) : Nat :=
  (chans.map fun ch => min (distEntry rs core (2 * (ch / 32))).1 (distEntry rs core (2 * (ch / 32) + 1)).1).foldl (· + ·) 0

end Sys2Proof.Machine
end

