-- ==== Sys2Proof/Machine/Real.lean ====
section
/-! DEFINITION. Exact arithmetic on values, and the exact mathematical functions of R91 as values to be rounded once:
each irrational result is enclosed by integer arithmetic until at least 160 leading bits, and all bits down to
2^(−340), are settled. -/

namespace Sys2Proof.Machine

/-- A signed integer scaled by `2^e` as a finite value. -/
def exOfInt (i : Int) (e : Int) : Ex := { neg := decide (i < 0), m := i.natAbs, e := e }

/-- The signed significand of an exact value at exponent `k ≤ x.e`. -/
def exAt (x : Ex) (k : Int) : Int :=
  let a : Nat := x.m * 2 ^ (x.e - k).toNat
  if x.neg then -(a : Int) else a

/-- Exact sum; an exact zero sum of opposite signs is +0 unless `rdn` (IEEE 754-2019), and equal zeros keep their sign. -/
def exAdd (rdn : Bool) (x y : Ex) : Ex :=
  let k := min x.e y.e
  let s := exAt x k + exAt y k
  if s = 0 then { neg := if x.neg == y.neg then x.neg else rdn, m := 0, e := 0 }
  else exOfInt s k

/-- Exact product. -/
def exMul (x y : Ex) : Ex := { neg := x.neg != y.neg, m := x.m * y.m, e := x.e + y.e }

/-- Change of sign. -/
def exNeg (x : Ex) : Ex := { x with neg := !x.neg }

/-- Magnitude. -/
def exAbs (x : Ex) : Ex := { x with neg := false }

/-- Quotient by a non-zero value: exact where it ends, else enclosed with at least 200 bits and to 2^(−400). -/
def exDiv (x y : Ex) : Ex :=
  if x.m = 0 then { neg := x.neg != y.neg, m := 0, e := 0 }
  else
    let s := max (max (200 + (Nat.log2 y.m : Int) - Nat.log2 x.m) (x.e - y.e + 400)) 0
    let a := x.m * 2 ^ s.toNat
    { neg := x.neg != y.neg, m := a / y.m, e := x.e - y.e - s, st := decide (a % y.m ≠ 0) }

/-- Integer square root by Newton steps from above. -/
def isqrtGo (n : Nat) : Nat → Nat → Nat
  | 0, r => r
  | f + 1, r =>
    let t := (r + n / r) / 2
    if t < r then isqrtGo n f t else r

/-- Integer square root. -/
def isqrt (n : Nat) : Nat := if n = 0 then 0 else isqrtGo n (Nat.log2 n + 4) (2 ^ (Nat.log2 n / 2 + 1))

/-- Square root of a non-negative finite value. -/
def exSqrt (x : Ex) : Ex :=
  if x.m = 0 then x
  else
    let s0 : Nat := (max (500 - (Nat.log2 x.m : Int)) (x.e + 800)).toNat
    let s := if (x.e - (s0 : Int)) % 2 = 0 then s0 else s0 + 1
    let a := x.m * 2 ^ s
    let r := isqrt a
    { neg := false, m := r, e := (x.e - (s : Int)) / 2, st := decide (r * r ≠ a) }

/-- Compare two exact values: the sign of `x − y`. -/
def exCmp (x y : Ex) : Ordering :=
  let k := min x.e y.e
  compare (exAt x k) (exAt y k)

/-- Equality of exact values, zeros of either sign equal. -/
def exEq (x y : Ex) : Bool := exCmp x y == .eq && !x.st && !y.st

/-- The integer nearest an exact value, ties to even. -/
def exRint (x : Ex) : Int :=
  let (n, _) := roundToInt .rne 0 x
  if x.neg then -(n : Int) else n

/-- Fixed-point image of an exact value at `w` fraction bits, rounded down. -/
def exFix (x : Ex) (w : Nat) : Int :=
  let k := x.e + w
  let a : Int := if x.neg then -(x.m : Int) else x.m
  if k ≥ 0 then a * ((2 ^ k.toNat : Nat) : Int) else a / ((2 ^ (-k).toNat : Nat) : Int)

/-- Divide a fixed-point product back to `w` fraction bits. -/
def fixMul (w : Nat) (a b : Int) : Int := a * b / ((2 ^ w : Nat) : Int)

/-- Sum of the exponential series from term `t` of index `k`. -/
def expSeries (w : Nat) (r : Int) : Nat → Nat → Int → Int → Int
  | 0, _, _, acc => acc
  | f + 1, k, t, acc =>
    if t = 0 ∨ t = -1 then acc
    else expSeries w r f (k + 1) (fixMul w t r / ((k + 1 : Nat) : Int)) (acc + t)

/-- Sum of `s^(2k+1)/(2k+1)`. -/
def atanhSeries (w : Nat) (s2 : Int) : Nat → Nat → Int → Int → Int
  | 0, _, _, acc => acc
  | f + 1, k, t, acc =>
    if t = 0 ∨ t = -1 then acc
    else atanhSeries w s2 f (k + 2) (fixMul w t s2) (acc + t / (k : Int))

/-- Sum of `(−1)^k · 1/((2k+1) · x^(2k+1))` at `w` fraction bits; `t` is `2^w / x^(2k+1)`. -/
def atanInvSeries (x2 : Nat) : Nat → Nat → Nat → Int → Int → Int
  | 0, _, _, _, acc => acc
  | f + 1, k, t, sg, acc =>
    if t = 0 then acc else atanInvSeries x2 f (k + 2) (t / x2) (-sg) (acc + sg * ((t / k : Nat) : Int))

/-- π at `w` fraction bits (16 arctan(1/5) − 4 arctan(1/239)). -/
def piFix (w : Nat) : Int :=
  let v := w + 16
  let a := atanInvSeries 25 v 1 (2 ^ v / 5) 1 0
  let b := atanInvSeries (239 * 239) v 1 (2 ^ v / 239) 1 0
  (16 * a - 4 * b) / ((2 ^ 16 : Nat) : Int)

/-- ln 2 at `w` fraction bits (2 artanh(1/3)). -/
def ln2Fix (w : Nat) : Int :=
  let v := w + 16
  let s : Int := ((2 ^ v : Nat) : Int) / 3
  2 * atanhSeries v (fixMul v s s) v 1 s 0 / ((2 ^ 16 : Nat) : Int)

/-- Integer nearest `a / b` for positive `b`. -/
def nearDiv (a b : Int) : Int := (2 * a + b) / (2 * b)

/-- e^r for a small fixed-point `r`. -/
def expFix (w : Nat) (r : Int) : Int := expSeries w r w 0 ((2 ^ w : Nat) : Int) 0

/-- e^x for |x| < 2^10, as an integer and its scale: the value is `a · 2^(−sc)`. -/
def expApx (x : Ex) (w : Nat) : Int × Int :=
  let v := w + 32
  let l := ln2Fix v
  let xf := exFix x v
  let n := nearDiv xf l
  (expFix v (xf - n * l), (v : Int) - n)

/-- 2^x for |x| < 2^12. -/
def exp2Apx (x : Ex) (w : Nat) : Int × Int :=
  let v := w + 32
  let n := exRint x
  let r := exAdd false x (exOfInt (-n) 0)
  (expFix v (fixMul v (exFix r v) (ln2Fix v)), (v : Int) - n)

/-- Shift an integer left, or right rounding down. -/
def shiftI (a k : Int) : Int := if k ≥ 0 then a * ((2 ^ k.toNat : Nat) : Int) else a / ((2 ^ (-k).toNat : Nat) : Int)

/-- e^x − 1. -/
def expm1Apx (x : Ex) (w : Nat) : Int × Int :=
  let (c, sc) := expApx x w
  if sc ≥ (w : Int) + 32 then (shiftI c ((w : Int) + 32 - sc) - shiftI 1 ((w : Int) + 32), (w : Int) + 32)
  else (c - shiftI 1 sc, sc)

/-- ln x for x > 0, absolute precision `w`. -/
def logApx (x : Ex) (w : Nat) : Int × Int :=
  let v := w + 32
  let e0 := exLog2 x
  -- m in [0.75, 1.5): take one binade up where the leading bits say so
  let big := decide (x.m * 2 ≥ 3 * 2 ^ Nat.log2 x.m)
  let e := if big then e0 + 1 else e0
  let m : Ex := { neg := false, m := x.m, e := x.e - e }
  let d := exAdd false m (exOfInt (-1) 0)
  let s := exAdd false m (exOfInt 1 0)
  let k := min d.e s.e
  let q := exAt d k * ((2 ^ v : Nat) : Int) / exAt s k
  (2 * atanhSeries v (fixMul v q q) v 1 q 0 + e * ln2Fix v, (v : Int))

/-- log2 x for x > 0. -/
def log2Apx (x : Ex) (w : Nat) : Int × Int :=
  let (a, sc) := logApx x w
  (a * ((2 ^ sc.toNat : Nat) : Int) / ln2Fix sc.toNat, sc)

/-- x − k·π/2 at `w` fraction bits and k mod 4, where k is the integer nearest x·2/π. -/
def trigReduce (x : Ex) (w : Nat) : Int × Int :=
  let big := (max (exLog2 x) 0).toNat + 8
  let v := w + big
  let p := piFix v
  let xf := exFix x v
  let k := nearDiv (2 * xf) p
  ((2 * xf - k * p) / ((2 ^ (big + 1) : Nat) : Int), k)

/-- Alternating series: next term is `t · r² / ((k+1)(k+2))`. -/
def trigSeries (w : Nat) (r2 : Int) : Nat → Nat → Int → Int → Int
  | 0, _, _, acc => acc
  | f + 1, k, t, acc =>
    if t = 0 ∨ t = -1 then acc
    else trigSeries w r2 f (k + 2) (-(fixMul w t r2) / (((k + 1) * (k + 2) : Nat) : Int)) (acc + t)

/-- Sine or cosine of a small fixed-point argument. -/
def sinFix (w : Nat) (r : Int) : Int := trigSeries w (fixMul w r r) w 1 r 0
/-- Cosine of a small fixed-point argument. -/
def cosFix (w : Nat) (r : Int) : Int := trigSeries w (fixMul w r r) w 0 ((2 ^ w : Nat) : Int) 0

/-- sin x (`ph = 0`) or cos x (`ph = 1`). -/
def trigApx (ph : Int) (x : Ex) (w : Nat) : Int × Int :=
  let v := w + 16
  let (r, k) := trigReduce x v
  let q := (k + ph) % 4
  let a := if q = 0 then sinFix v r else if q = 1 then cosFix v r else if q = 2 then -sinFix v r else -cosFix v r
  (a, (v : Int))

/-- tanh of |x| < 128. -/
def tanhApx (x : Ex) (w : Nat) : Int × Int :=
  let (a, sc) := expm1Apx { x with neg := false, e := x.e + 1 } w
  let q := a * ((2 ^ w : Nat) : Int) / (a + shiftI 2 sc)
  (if x.neg then -q else q, (w : Int))

/-- 1 / (1 + e^(−x)) for |x| < 512. -/
def sigmoidApx (x : Ex) (w : Nat) : Int × Int :=
  let (c, sc) := expApx { x with neg := true } w
  let one := shiftI 1 sc
  if x.neg then (c * one / (one + c), sc) else (one * one / (one + c), sc)

/-- Terms of the error-function series: `t = x^(2n+1)/n!`, alternating. -/
def erfSeries (w : Nat) (x2 : Int) : Nat → Nat → Int → Int → Int
  | 0, _, _, acc => acc
  | f + 1, n, t, acc =>
    if t = 0 ∨ t = -1 then acc
    else erfSeries w x2 f (n + 1) (-(fixMul w t x2) / ((n + 1 : Nat) : Int)) (acc + t / ((2 * n + 1 : Nat) : Int))

/-- erf x for x² < 512. -/
def erfApx (x : Ex) (w : Nat) : Int × Int :=
  let x2 := exMul x x
  let v := w + 3 * ((exFix x2 0).toNat + 1) + 32
  let xf := exFix { x with neg := false } v
  let s := erfSeries v (exFix x2 v) (2 * v) 0 xf 0
  let sqrtPi : Int := isqrt ((piFix v).toNat * 2 ^ v)
  let a := 2 * s * ((2 ^ v : Nat) : Int) / sqrtPi / ((2 ^ (v - w) : Nat) : Int)
  (if x.neg then -a else a, (w : Int))

/-- Settle an irrational value: widen until the enclosure agrees on the kept bits. -/
def settle (g : Nat → Int × Int) : Nat → Nat → Ex
  | 0, w =>
    let (a, sc) := g w
    { neg := decide (a < 0), m := a.natAbs, e := -sc, st := true }
  | f + 1, w =>
    let (a, sc) := g w
    let m := a.natAbs
    let k := min ((Nat.log2 m : Int) - 160) (sc - 340)
    let lo := (m - 2 ^ 12) / 2 ^ k.toNat
    let hi := (m + 2 ^ 12) / 2 ^ k.toNat
    if k ≥ 16 ∧ lo = hi then { neg := decide (a < 0), m := lo, e := k - sc, st := true }
    else settle g f (2 * w)

/-- Settle from 448 bits. -/
def settled (g : Nat → Int × Int) : Ex := settle g 8 448

/-- A magnitude just under 1. -/
def justUnderOne (neg : Bool) : Ex := { neg := neg, m := 2 ^ 340 - 1, e := -340, st := true }

/-- A positive value above every range of Table 2-1 and of R65. -/
def hugeEx : Ex := { neg := false, m := 1, e := 700, st := true }

/-- A positive value below every step of Table 2-1 and of R65. -/
def tinyEx : Ex := { neg := false, m := 1, e := -750, st := true }

/-- An exact integer value, if the value is one. -/
def exIsInt (x : Ex) : Bool :=
  let (_, r, _) := cutAt x 0
  decide (r = 0) && !x.st

/-- The exponent of an exact power of two. -/
def exPow2? (x : Ex) : Option Int :=
  if x.m ≠ 0 ∧ x.m = 2 ^ Nat.log2 x.m ∧ x.st = false then some (exLog2 x) else none

/-- The exact mathematical value of a correctly rounded function at a finite input that Table 4-2 does not list (R91);
the composite functions have their own step sequences. -/
def fnExact (fn : FnCode) (x : Ex) : Ex :=
  match fn with
  | .exp => if exLog2 x ≥ 9 then (if x.neg then tinyEx else hugeEx) else settled (expApx x)
  | .exp2 =>
    if exLog2 x ≥ 10 then (if x.neg then tinyEx else hugeEx)
    else if exIsInt x then { neg := false, m := 1, e := exRint x }
    else settled (exp2Apx x)
  | .expm1 =>
    if exLog2 x ≥ 9 then (if x.neg then justUnderOne true else hugeEx) else settled (expm1Apx x)
  | .log => if exEq x (exOfInt 1 0) then exOfInt 0 0 else settled (logApx x)
  | .log2 => match exPow2? x with
    | some k => exOfInt k 0
    | none => settled (log2Apx x)
  | .log1p => settled (logApx (exAdd false x (exOfInt 1 0)))
  | .sin => settled (trigApx 0 x)
  | .cos => settled (trigApx 1 x)
  | .tanh => if exLog2 x ≥ 7 then justUnderOne x.neg else settled (tanhApx x)
  | .sigmoid =>
    if exLog2 x ≥ 9 then (if x.neg then tinyEx else justUnderOne false) else settled (sigmoidApx x)
  | .erf => if exFix (exMul x x) 0 ≥ 340 then justUnderOne x.neg else settled (erfApx x)
  | .recip => exDiv (exOfInt 1 0) x
  | .sqrt => exSqrt x
  | .rsqrt =>
    -- 1/sqrt(x) = sqrt(1/x): exact where both end, else enclosed through the root of a long quotient
    let r := exSqrt x
    if r.st = false then exDiv (exOfInt 1 0) r
    else
      let s : Nat := (max (1200 + (Nat.log2 x.m : Int)) (800 - x.e)).toNat
      let s' := if (x.e + (s : Int)) % 2 = 0 then s else s + 1
      { neg := false, m := isqrt (2 ^ s' / x.m), e := -((x.e + (s' : Int)) / 2), st := true }
  | .geluErf | .geluTanh | .silu | .softplus => x

/-- The special inputs of Table 4-2 (R92): value and flags, for a value that is not NaN. -/
def fnSpecial (fn : FnCode) (v : Val) : Option (Val × FlagWord) :=
  match fn, v with
  | _, .nan s => some (.nan false, fIf s fInvalid)
  | .exp, .inf true | .exp2, .inf true => some (.zero, 0)
  | .exp, .inf false | .exp2, .inf false => some (.inf false, 0)
  | .expm1, .inf true => some (.mk true 1 0, 0)
  | .expm1, .inf false => some (.inf false, 0)
  | .log, .inf true | .log2, .inf true | .log1p, .inf true => some (.nan false, fInvalid)
  | .log, .inf false | .log2, .inf false | .log1p, .inf false => some (.inf false, 0)
  | .sin, .inf _ | .cos, .inf _ => some (.nan false, fInvalid)
  | .tanh, .inf n | .erf, .inf n => some (.mk n 1 0, 0)
  | .sigmoid, .inf false => some (.mk false 1 0, 0)
  | .sigmoid, .inf true => some (.zero, 0)
  | .recip, .inf n => some (.mk n 0 0, 0)
  | .sqrt, .inf true | .rsqrt, .inf true => some (.nan false, fInvalid)
  | .sqrt, .inf false => some (.inf false, 0)
  | .rsqrt, .inf false => some (.zero, 0)
  | .geluErf, .inf _ | .geluTanh, .inf _ | .silu, .inf _ | .softplus, .inf _ => none
  | fn, .fin x =>
    if x.m = 0 then
      match fn with
      | .exp | .exp2 | .cos => some (.mk false 1 0, 0)
      | .expm1 | .log1p | .sin | .tanh | .erf | .sqrt => some (.mk x.neg 0 0, 0)
      | .log | .log2 => some (.inf true, fDivZero)
      | .sigmoid => some (.mk false 1 (-1), 0)
      | .recip | .rsqrt => some (.inf x.neg, fDivZero)
      | .geluErf | .geluTanh | .silu | .softplus => none
    else
      match fn with
      | .log | .log2 | .sqrt | .rsqrt => if x.neg then some (.nan false, fInvalid) else none
      | .log1p =>
        match exCmp x (exOfInt (-1) 0) with
        | .lt => some (.nan false, fInvalid)
        | .eq => some (.inf true, fDivZero)
        | .gt => none
      | _ => none

/-- Sum of two values (IEEE 754-2019); `rdn` decides the sign of an exact zero sum. -/
def valAdd (rdn : Bool) (a b : Val) : Val × FlagWord :=
  match a, b with
  | .nan s, .nan t => (.nan false, fIf (s || t) fInvalid)
  | .nan s, _ => (.nan false, fIf s fInvalid)
  | _, .nan t => (.nan false, fIf t fInvalid)
  | .inf s, .inf t => if s == t then (.inf s, 0) else (.nan false, fInvalid)
  | .inf s, .fin _ => (.inf s, 0)
  | .fin _, .inf t => (.inf t, 0)
  | .fin x, .fin y => (.fin (exAdd rdn x y), 0)

/-- Change of sign of a value. -/
def valNeg : Val → Val
  | .nan s => .nan s
  | .inf n => .inf (!n)
  | .fin x => .fin (exNeg x)

/-- Magnitude of a value. -/
def valAbs : Val → Val
  | .nan s => .nan s
  | .inf _ => .inf false
  | .fin x => .fin (exAbs x)

/-- Product of two values; a NaN result is quiet, its flag told beside it. -/
def valMul (a b : Val) : Val × FlagWord :=
  let (v, f) := termMul' a b
  (v, f)
where
  termMul' : Val → Val → Val × FlagWord
    | .nan s, .nan t => (.nan false, fIf (s || t) fInvalid)
    | .nan s, _ => (.nan false, fIf s fInvalid)
    | _, .nan t => (.nan false, fIf t fInvalid)
    | .inf s, y => if y.isZero then (.nan false, fInvalid) else (.inf (s != y.sign), 0)
    | x, .inf t => if x.isZero then (.nan false, fInvalid) else (.inf (x.sign != t), 0)
    | .fin x, .fin y => (.fin (exMul x y), 0)

/-- Quotient of two values: 0/0 and ∞/∞ are invalid, a finite non-zero value over zero is an exact infinity with
DIVZERO (Table 2-7). -/
def valDiv (a b : Val) : Val × FlagWord :=
  match a, b with
  | .nan s, .nan t => (.nan false, fIf (s || t) fInvalid)
  | .nan s, _ => (.nan false, fIf s fInvalid)
  | _, .nan t => (.nan false, fIf t fInvalid)
  | .inf _, .inf _ => (.nan false, fInvalid)
  | .inf s, .fin y => (.inf (s != y.neg), 0)
  | .fin x, .inf t => (.mk (x.neg != t) 0 0, 0)
  | .fin x, .fin y =>
    if y.m = 0 then (if x.m = 0 then (.nan false, fInvalid) else (.inf (x.neg != y.neg), fDivZero))
    else (.fin (exDiv x y), 0)

/-- a × b + c with one exact value (fused). -/
def valFma (rdn : Bool) (a b c : Val) : Val × FlagWord :=
  let (p, f) := valMul a b
  let (s, g) := valAdd rdn p c
  (s, f ||| g)

/-- Compare non-NaN values in the total order −∞ < finite < +∞ with −0 < +0 (R98): `a < b`. -/
def valLt (a b : Val) : Bool :=
  match a, b with
  | .inf true, .inf true => false
  | .inf true, _ => true
  | _, .inf true => false
  | .inf false, _ => false
  | _, .inf false => true
  | .fin x, .fin y =>
    match exCmp x y with
    | .lt => true
    | .eq => decide (x.m = 0) && x.neg && !y.neg
    | .gt => false
  | _, _ => false

end Sys2Proof.Machine
end

