-- ==== Sys2Proof/Machine/Fp64.lean ====
section
/-! DEFINITION. The FP64 algorithms (R94, R95), the composite step sequences (R93), and the evaluation of a function
code on an element. -/

namespace Sys2Proof.Machine

/-- Layout of FP64. -/
def spec64 : FpSpec := ⟨11, 52, 1023, 0x7FEFFFFFFFFFFFFF, true, some 0x7FF8000000000000⟩
/-- Layout of FP32. -/
def spec32 : FpSpec := ⟨8, 23, 127, 0x7F7FFFFF, true, some 0x7FC00000⟩

/-- A finite FP64 or FP32 pattern as an exact value; a non-finite pattern reads as 0. -/
def exOfBits (s : FpSpec) (b : Nat) : Ex :=
  match decodeFp s b with
  | .fin x => x
  | _ => exOfInt 0 0

/-- One FP64 rounding under RNE of a finite value whose result is finite. -/
def r64 (x : Ex) : Ex := exOfBits spec64 (roundFp spec64 .rne 0 x).1

/-- fma: one rounding to FP64 (R95). -/
def fma64 (a b c : Ex) : Ex := r64 (exAdd false (exMul a b) c)
/-- FP64 sum under RNE. -/
def add64 (a b : Ex) : Ex := r64 (exAdd false a b)
/-- FP64 difference under RNE. -/
def sub64 (a b : Ex) : Ex := r64 (exAdd false a (exNeg b))
/-- FP64 product under RNE. -/
def mul64 (a b : Ex) : Ex := r64 (exMul a b)
/-- FP64 quotient under RNE. -/
def div64 (a b : Ex) : Ex := r64 (exDiv a b)

/-- Factorial. -/
def fact : Nat → Nat
  | 0 => 1
  | k + 1 => (k + 1) * fact k

/-- `± 1/n` rounded RNE to FP64. -/
def inv64 (neg : Bool) (n : Nat) : Ex := r64 (exDiv { neg := neg, m := 1, e := 0 } (exOfInt n 0))

/-- C[k] = 1/k! (R95). -/
def coefC (k : Nat) : Ex := inv64 false (fact k)
/-- D[k] = 1/(2k + 1) (R95). -/
def coefD (k : Nat) : Ex := inv64 false (2 * k + 1)
/-- S[j] = (−1)^j/(2j + 1)! (R95). -/
def coefS (j : Nat) : Ex := inv64 (j % 2 == 1) (fact (2 * j + 1))
/-- K[j] = (−1)^j/(2j)! (R95). -/
def coefK (j : Nat) : Ex := inv64 (j % 2 == 1) (fact (2 * j))

/-- LOG2E (R95). -/
def cLog2e : Ex := exOfBits spec64 0x3FF71547652B82FE
/-- LN2 (R95). -/
def cLn2 : Ex := exOfBits spec64 0x3FE62E42FEFA39EF
/-- LN2_HI (R95). -/
def cLn2Hi : Ex := exOfBits spec64 0x3FE62E42FEE00000
/-- LN2_LO (R95). -/
def cLn2Lo : Ex := exOfBits spec64 0x3DEA39EF35793C76
/-- HALF_LN2 (R95). -/
def cHalfLn2 : Ex := exOfBits spec64 0x3FD62E42FEFA39EF
/-- SQRT_HALF (R95). -/
def cSqrtHalf : Ex := exOfBits spec64 0x3FE6A09E667F3BCD

/-- Horner steps `q := fma(q, x, c k)` for k = lo + n − 1 down to lo. -/
def horner (c : Nat → Ex) (x : Ex) (lo : Nat) : Nat → Ex → Ex
  | 0, q => q
  | n + 1, q => horner c x lo n (fma64 q x (c (lo + n)))

/-- core(r) (R95). -/
def core64 (r : Ex) : Ex := horner coefC r 0 13 (coefC 13)

/-- reduce(x) (R95). -/
def reduce64 (x : Ex) : Int × Ex :=
  let n := exRint (mul64 x cLog2e)
  let mn := exOfInt (-n) 0
  (n, fma64 mn cLn2Lo (fma64 mn cLn2Hi x))

/-- A power of two with a sign. -/
def pow2Ex (neg : Bool) (k : Int) : Ex := { neg := neg, m := 1, e := k }

/-- x ≥ k for an integer k. -/
def exGe (x : Ex) (k : Int) : Bool := exCmp x (exOfInt k 0) != .lt
/-- x < k for an integer k. -/
def exLtI (x : Ex) (k : Int) : Bool := exCmp x (exOfInt k 0) == .lt

/-- Operand of exp's `round_out` (R95). -/
def exp64 (x : Ex) : Ex :=
  if exGe x 710 then pow2Ex false 1100
  else if exLtI x (-746) then pow2Ex false (-1100)
  else
    let (n, r) := reduce64 x
    let c := core64 r
    { c with e := c.e + n }

/-- Operand of exp2's `round_out` (R95). -/
def exp2f64 (x : Ex) : Ex :=
  if exGe x 1024 then pow2Ex false 1100
  else if exLtI x (-1075) then pow2Ex false (-1100)
  else
    let n := exRint x
    let r := mul64 (exAdd false x (exOfInt (-n) 0)) cLn2
    let c := core64 r
    { c with e := c.e + n }

/-- Operand of expm1's `round_out` (R95). -/
def expm1f64 (x : Ex) : Ex :=
  if exGe x 710 then pow2Ex false 1100
  else if exLtI x (-746) then exAdd false (exOfInt (-1) 0) (pow2Ex false (-1100))
  else if exCmp (exAbs x) cHalfLn2 == .lt then
    let q := horner coefC x 2 11 (coefC 13)
    exAdd false x (exMul q (mul64 x x))
  else
    let (n, r) := reduce64 x
    let c := core64 r
    exAdd false { c with e := c.e + n } (exOfInt (-1) 0)

/-- logm(x): the exponent and the logarithm of the significand (R95). -/
def logm64 (x : Ex) : Int × Ex :=
  let e0 := exLog2 x
  let m1 : Ex := { neg := false, m := x.m, e := x.e - e0 }       -- in [1, 2)
  -- SQRT_HALF <= m < 2 * SQRT_HALF
  let up := exCmp m1 { cSqrtHalf with e := cSqrtHalf.e + 1 } != .lt
  let e := if up then e0 + 1 else e0
  let m : Ex := if up then { m1 with e := m1.e - 1 } else m1
  let one := exOfInt 1 0
  let s := div64 (sub64 m one) (add64 m one)
  let z := mul64 s s
  let a := mul64 (exOfInt 2 0) s
  let q := horner coefD z 1 9 (coefD 10)
  (e, fma64 (mul64 a z) q a)

/-- Operand of log's `round_out` (R95). -/
def log64 (x : Ex) : Ex :=
  let (e, lm) := logm64 x
  let ee := exOfInt e 0
  exAdd false (exMul ee cLn2Hi) (fma64 ee cLn2Lo lm)

/-- Operand of log2's `round_out` (R95). -/
def log2f64 (x : Ex) : Ex :=
  let (e, lm) := logm64 x
  exAdd false (exOfInt e 0) (exMul lm cLog2e)

/-- Operand of log1p's `round_out` (R95). -/
def log1pf64 (x : Ex) : Ex :=
  let u := add64 (exOfInt 1 0) x
  if exEq u (exOfInt 1 0) then
    let h := exMul x x
    exAdd false x (exNeg { h with e := h.e - 1 })
  else
    let (e, lm) := logm64 u
    let ee := exOfInt e 0
    let l := add64 (mul64 ee cLn2Hi) (fma64 ee cLn2Lo lm)
    exDiv (exMul l x) (sub64 u (exOfInt 1 0))

/-- The remainder x − k·π/2 (R95, trig): exactly x where k is 0, else settled like any irrational. -/
def trigRem (x : Ex) : Ex × Int :=
  let (_, k) := trigReduce x 64
  if k = 0 then (x, 0)
  else (settle (fun w => let (r, _) := trigReduce x (w + 16); (r, (w : Int) + 16)) 8 448, k)

/-- The enclosed value less an exact one, still enclosed. -/
def exSubEnc (x y : Ex) : Ex :=
  let d := exAdd false { x with st := false } (exNeg y)
  if x.st then (if d.neg == x.neg then { d with st := true } else { d with m := d.m - 1, st := true }) else d

/-- trig(x): quadrant, sv, cv (R95). -/
def trig64 (x : Ex) : Int × Ex × Ex :=
  let (rem, k) := trigRem x
  let rh := r64 rem
  let rl := r64 (exSubEnc rem rh)
  let z := mul64 rh rh
  let ps := horner coefS z 1 7 (coefS 8)
  let pc := horner coefK z 1 7 (coefK 8)
  let sv := exAdd false rh (fma64 (mul64 rh z) ps rl)
  let cv := exAdd false (exOfInt 1 0) (fma64 z pc (exNeg (mul64 rh rl)))
  (k % 4, sv, cv)

/-- Operand of sin's (`ph = 0`) or cos's (`ph = 1`) `round_out` (R95). -/
def trigOut64 (ph : Int) (x : Ex) : Ex :=
  let (q, sv, cv) := trig64 x
  let k := (q + ph) % 4
  if k = 0 then sv else if k = 1 then cv else if k = 2 then exNeg sv else exNeg cv

/-- Operand of tanh's `round_out` (R95). -/
def tanh64 (x : Ex) : Ex :=
  if exGe (exAbs x) 22 then
    let t := exAdd false (exOfInt 1 0) (pow2Ex true (-80))
    if x.neg then exNeg t else t
  else
    let e := r64 (expm1f64 { x with neg := false, e := x.e + 1 })
    let q := exDiv e (exAdd false e (exOfInt 2 0))
    if x.neg then exNeg q else q

/-- Operand of sigmoid's `round_out` (R95). -/
def sigmoid64 (x : Ex) : Ex :=
  let t := exp64 (exNeg x)
  match castFp spec64 .rne 0 (.fin t) with
  | (b, _) =>
    match decodeFp spec64 b with
    | .fin y => exDiv (exOfInt 1 0) (exAdd false (exOfInt 1 0) y)
    | _ => pow2Ex false (-1100)

/-- Operand of the final `round_out` of an FP64 function at a finite input that Table 4-2 does not list (R95). -/
def fn64 (fn : FnCode) (x : Ex) : Ex :=
  match fn with
  | .exp => exp64 x
  | .exp2 => exp2f64 x
  | .expm1 => expm1f64 x
  | .log => log64 x
  | .log2 => log2f64 x
  | .log1p => log1pf64 x
  | .sin => trigOut64 0 x
  | .cos => trigOut64 1 x
  | .tanh => tanh64 x
  | .sigmoid => sigmoid64 x
  | .recip => exDiv (exOfInt 1 0) x
  | .sqrt => exSqrt x
  | .rsqrt => exDiv (exOfInt 1 0) (r64 (exSqrt x))
  | .erf | .geluErf | .geluTanh | .silu | .softplus => x

/-- The function's exact value where it is rational, for the INEXACT of R95: `none` where no result can equal it. -/
def fnRational (fn : FnCode) (x : Ex) : Option Ex :=
  match fn with
  | .exp2 => if exIsInt x ∧ exLog2 x < 12 then some (pow2Ex false (exRint x)) else none
  | .log => if exEq x (exOfInt 1 0) then some (exOfInt 0 0) else none
  | .log2 => (exPow2? x).map (fun k => exOfInt k 0)
  | .recip => let q := exDiv (exOfInt 1 0) x; if q.st then none else some q
  | .sqrt => let q := exSqrt x; if q.st then none else some q
  | .rsqrt =>
    let q := exSqrt x
    if q.st then none
    else let r := exDiv (exOfInt 1 0) q; if r.st then none else some r
  | _ => none

/-- A function evaluated on an element: the value to round into the output, the flags raised before that, and, for an
FP64 algorithm, the exact value that its INEXACT is told against. -/
structure FnRes where
  v : Val
  fl : FlagWord
  alg : Bool := false
  exact : Option Ex := none
  deriving DecidableEq, Repr

/-- One rounding into FP32 under RNE of a value (R93). -/
def rne32 (v : Val) : Val × FlagWord :=
  let (b, f) := castFp spec32 .rne 0 v
  (decodeFp spec32 b, f)

/-- A correctly rounded function with FP32 output under RNE (R93). -/
def f32 (fn : FnCode) (v : Val) : Val × FlagWord :=
  match fnSpecial fn v with
  | some (w, f) => let (r, g) := rne32 w; (r, f ||| g)
  | none =>
    match v with
    | .fin x => rne32 (.fin (fnExact fn x))
    | _ => (v, 0)

/-- A constant of FP32. -/
def const32 (b : Nat) : Val := decodeFp spec32 b

/-- Half of a value, exactly. -/
def valHalf (v : Val) : Val := valScale v (-1)

/-- One step `rne32(a op b)`. -/
def step32 (p : Val × FlagWord) : Val × FlagWord :=
  let (v, f) := p
  let (w, g) := rne32 v
  (w, f ||| g)

/-- GELU, erf form, up to its `round_out` (R93). -/
def geluErf (x : Val) : Val × FlagWord :=
  let (t1, f1) := step32 (valMul x (const32 0x3F3504F3))
  let (t2, f2) := f32 .erf t1
  let (t3, f3) := step32 (valAdd false (valOfInt 1) t2)
  let (t4, f4) := step32 (valMul x t3)
  (valHalf t4, f1 ||| f2 ||| f3 ||| f4)

/-- GELU, tanh form, up to its `round_out` (R93). -/
def geluTanh (x : Val) : Val × FlagWord :=
  let (a, f1) := step32 (valMul x x)
  let (b, f2) := step32 (valMul a x)
  let (c, f3) := step32 (valMul (const32 0x3D372713) b)
  let (d, f4) := step32 (valAdd false x c)
  let (e, f5) := step32 (valMul (const32 0x3F4C422A) d)
  let (t, f6) := f32 .tanh e
  let (g, f7) := step32 (valAdd false (valOfInt 1) t)
  let (h, f8) := step32 (valMul x g)
  (valHalf h, orFlags [f1, f2, f3, f4, f5, f6, f7, f8])

/-- SiLU up to its `round_out` (R93). -/
def siluSteps (x : Val) : Val × FlagWord :=
  let (s, f1) := f32 .sigmoid x
  let (p, f2) := valMul x s
  (p, f1 ||| f2)

/-- softplus up to its `round_out` (R93); max(x, +0) is exact. -/
def softplusSteps (x : Val) : Val × FlagWord :=
  let (a, f1) := f32 .exp (valNeg (valAbs x))
  let (b, f2) := f32 .log1p a
  let m := if valLt x Val.zero then Val.zero else x
  let (s, f3) := valAdd false m b
  (s, f1 ||| f2 ||| f3)

/-- The composite functions (R93). -/
def composite (fn : FnCode) (x : Val) : Val × FlagWord :=
  match fn, x with
  | _, .nan s => (.nan false, fIf s fInvalid)
  | .softplus, v => softplusSteps v
  | _, .inf true => (Val.zero, 0)
  | .geluErf, v => geluErf v
  | .geluTanh, v => geluTanh v
  | _, v => siluSteps v

/-- The composite function codes. -/
def fnIsComposite : FnCode → Bool
  | .geluErf | .geluTanh | .silu | .softplus => true
  | .exp | .exp2 | .expm1 | .log | .log2 | .log1p | .sin | .cos | .tanh | .sigmoid | .erf | .recip | .sqrt
  | .rsqrt => false

/-- Function codes FN (Table 4-1). -/
def fnOfCode : Nat → Option FnCode
  | 0x01 => some .exp | 0x02 => some .exp2 | 0x03 => some .expm1 | 0x04 => some .log | 0x05 => some .log2
  | 0x06 => some .log1p | 0x07 => some .sin | 0x08 => some .cos | 0x09 => some .tanh | 0x0A => some .sigmoid
  | 0x0B => some .erf | 0x0C => some .recip | 0x0D => some .sqrt | 0x0E => some .rsqrt | 0x10 => some .geluErf
  | 0x11 => some .geluTanh | 0x12 => some .silu | 0x13 => some .softplus
  | _ => none

/-- FN with an FP64 input or output is refused for erf and the composites (R90). -/
def fnFp64Ok (fn : FnCode) : Bool := !(fnIsComposite fn || fn == .erf)

/-- Evaluate a function on one element of a source format (R91 … R95); `f64` says that input or output is FP64. -/
def fnEval (fn : FnCode) (f64 : Bool) (src : Fmt) (v : Val) : FnRes :=
  if fnIsComposite fn then let (w, f) := composite fn v; { v := w, fl := f }
  else
    -- R94: an INT64 input is cast to FP64 once
    let (x, f0) : Val × FlagWord :=
      if f64 && src == .int64 then
        let (b, f) := castFp spec64 .rne 0 v
        (decodeFp spec64 b, f)
      else (v, 0)
    match fnSpecial fn x with
    | some (w, f) => { v := w, fl := f0 ||| f }
    | none =>
      match x with
      | .fin y =>
        if f64 then { v := .fin (fn64 fn y), fl := f0, alg := true, exact := fnRational fn y }
        else { v := .fin (fnExact fn y), fl := f0 }
      | _ => { v := x, fl := f0 }

/-- The flags of the final `round_out` of an FP64 algorithm: INEXACT is told against the function's exact value
(R95). `got` is the value of the result. -/
def fnOutFlags (r : FnRes) (got : Val) (f : FlagWord) : FlagWord :=
  if r.alg then
    let same := match got, r.exact with
      | .fin g, some e => exEq g e
      | _, _ => false
    (f &&& ~~~fInexact) ||| fIf (!same) fInexact
  else f

end Sys2Proof.Machine
end

