-- ==== Sys2Proof/Machine/Wisp.lean ====
section
/-! DEFINITION. The wisp generator (R105, R106) and SHA3-256 (FIPS 202, as R24 and Table 0-8 use it). -/

namespace Sys2Proof.Machine

/-- A 32-bit word. -/
abbrev W32 := BitVec 32

/-- Four words of a wisp block. -/
structure Quad where
  a : W32
  b : W32
  c : W32
  d : W32
  deriving DecidableEq, Repr

/-- Rotation left. -/
def rotl32 (v : W32) (n : Nat) : W32 := v.rotateLeft n

/-- The extended key word `k[i]`, i = 0 … 4 (R105). -/
def wispKey (k : BitVec 128) (i : Nat) : W32 :=
  let w (j : Nat) : W32 := (k >>> (32 * j)).setWidth 32
  if i < 4 then w i else 0x6A09E667#32 ^^^ w 0 ^^^ w 1 ^^^ w 2 ^^^ w 3

/-- inject(x, k, s) (R105). -/
def wispInject (x : Quad) (k : BitVec 128) (s : Nat) : Quad :=
  ⟨x.a + wispKey k (s % 5), x.b + wispKey k ((s + 1) % 5), x.c + wispKey k ((s + 2) % 5),
    x.d + wispKey k ((s + 3) % 5) + BitVec.ofNat 32 s⟩

/-- ROT[(r − 1) mod 4] (R105). -/
def wispRot (r : Nat) : Nat × Nat :=
  if (r - 1) % 4 = 0 then (16, 12) else if (r - 1) % 4 = 1 then (8, 7) else if (r - 1) % 4 = 2 then (24, 13) else (20, 9)

/-- One round, with its swap (R105). -/
def wispRound (x : Quad) (r : Nat) : Quad :=
  let (p, q) := wispRot r
  let x0 := x.a + x.b
  let x1 := rotl32 x.b p ^^^ x0
  let x2 := x.c + x.d
  let x3 := rotl32 x.d q ^^^ x2
  ⟨x0, x3, x2, x1⟩

/-- Rounds `r`, `r + 1`, …, with an injection after every fourth (R105). -/
def wispRounds (k : BitVec 128) : Nat → Nat → Quad → Quad
  | 0, _, x => x
  | n + 1, r, x =>
    let y := wispRound x r
    wispRounds k n (r + 1) (if r % 4 = 0 then wispInject y k (r / 4) else y)

/-- A wisp block: words y0 … y3 (R105). -/
def wispBlock (k : BitVec 128) (stream : W32) (elem : BitVec 64) (draw : W32) : Quad :=
  wispRounds k 12 1 (wispInject ⟨elem.setWidth 32, (elem >>> 32).setWidth 32, draw, stream⟩ k 0)

/-- A 32-bit draw (R106). -/
def wispDraw (k : BitVec 128) (stream : W32) (elem : BitVec 64) (draw : W32) : Nat := (wispBlock k stream elem draw).a.toNat

/-! ## SHA-3 (FIPS 202): hashes over bytes -/

/-- A lane of the Keccak state. -/
abbrev Lane := BitVec 64

/-- The state as a list of rows y = 0 … 4, each of lanes x = 0 … 4. -/
abbrev Rows := List (List Lane)

/-- Lane (x, y), both modulo 5. -/
def Rows.lane (s : Rows) (x y : Nat) : Lane := (s.getD (y % 5) []).getD (x % 5) 0

/-- A state whose lane (x, y) is given. -/
def rowsOf (f : Nat → Nat → Lane) : Rows := (List.range 5).map fun y => (List.range 5).map fun x => f x y

/-- The shift register that the round constants come from: bit 0 is its output. -/
def rcShift (r : Nat) : Nat := if 128 ≤ r then (2 * r) ^^^ 0x171 else 2 * r

/-- Seven outputs of the register set the bits 2^j − 1 of a round constant; the register that follows. -/
def rcWord : Nat → Nat → Nat × Lane
  | 0, r => (r, 0)
  | j + 1, r =>
    let (r', l) := rcWord j r
    (rcShift r', l ||| (BitVec.ofNat 64 (r' % 2) <<< (2 ^ j - 1)))

/-- The constants of n rounds, from a state of the register. -/
def rcList : Nat → Nat → List Lane
  | 0, _ => []
  | n + 1, r => (rcWord 7 r).2 :: rcList n (rcWord 7 r).1

/-- The walk over the lanes other than (0, 0) that rho follows: the lanes with their offsets (t + 1)(t + 2) / 2. -/
def rhoWalk : Nat → Nat → Nat → Nat → List (Nat × Nat × Nat)
  | 0, _, _, _ => []
  | n + 1, t, x, y => (x, y, (t + 1) * (t + 2) / 2 % 64) :: rhoWalk n (t + 1) y ((2 * x + 3 * y) % 5)

/-- The rotation of a lane in rho. -/
def rhoOf (x y : Nat) : Nat := (((rhoWalk 24 0 1 0).find? fun e => e.1 == x && e.2.1 == y).map fun e => e.2.2).getD 0

/-- The rotations by lane, computed once: entry 5y + x. -/
def rhoTable : List Nat := (List.range 25).map fun i => rhoOf (i % 5) (i / 5)

/-- theta. -/
def stepTheta (s : Rows) : Rows :=
  let parity := (List.range 5).map fun x => (List.range 5).foldl (fun a y => a ^^^ s.lane x y) (0 : Lane)
  rowsOf fun x y => s.lane x y ^^^ parity.getD ((x + 4) % 5) 0 ^^^ (parity.getD ((x + 1) % 5) 0).rotateLeft 1

/-- rho, then pi: lane (x, y) goes, rotated, to (y, 2x + 3y); so (x, y) comes from (x + 3y, x). -/
def stepRhoPi (rot : List Nat) (s : Rows) : Rows :=
  rowsOf fun x y => (s.lane (x + 3 * y) x).rotateLeft (rot.getD (5 * x + (x + 3 * y) % 5) 0)

/-- chi. -/
def stepChi (s : Rows) : Rows := rowsOf fun x y => s.lane x y ^^^ (~~~ s.lane (x + 1) y &&& s.lane (x + 2) y)

/-- iota, on lane (0, 0). -/
def stepIota (rc : Lane) (s : Rows) : Rows := rowsOf fun x y => if x = 0 ∧ y = 0 then s.lane 0 0 ^^^ rc else s.lane x y

/-- The permutation of 24 rounds. -/
def permute (s : Rows) : Rows := (rcList 24 1).foldl (fun t rc => stepIota rc (stepChi (stepRhoPi rhoTable (stepTheta t)))) s

/-- XOR a block of 8-byte lanes into the state, in the order of the rows. -/
def xorBlock (blk : List Byte) (s : Rows) : Rows :=
  rowsOf fun x y => s.lane x y ^^^ BitVec.ofNat 64 (fieldLe blk (8 * (5 * y + x)) 8)

/-- Absorb a number of blocks of `rate` bytes. -/
def absorb (rate : Nat) : Nat → List Byte → Rows → Rows
  | 0, _, s => s
  | n + 1, bs, s => absorb rate n (bs.drop rate) (permute (xorBlock (bs.take rate) s))

/-- The padding of SHA-3: the suffix bits 01, then 1, zeros and 1 up to a whole block of `rate` bytes. -/
def sha3Pad (rate len : Nat) : List Byte :=
  (List.range (rate - len % rate)).map fun i =>
    (if i = 0 then 0x06 else 0) ||| (if i + 1 = rate - len % rate then 0x80 else 0)

/-- SHA-3 with an output of `out` bytes: the rate is 200 − 2 · out bytes. -/
def sha3 (out : Nat) (bs : List Byte) : List Byte :=
  let rate := 200 - 2 * out
  let s := absorb rate (bs.length / rate + 1) (bs ++ sha3Pad rate bs.length) (rowsOf fun _ _ => 0)
  (List.range (out / 8)).flatMap fun i => natLe 8 (s.lane i (i / 5)).toNat

/-- SHA3-256 (R24). -/
def sha3_256 (bs : List Byte) : List Byte := sha3 32 bs
/-- SHA3-384 (R31). -/
def sha3_384 (bs : List Byte) : List Byte := sha3 48 bs

end Sys2Proof.Machine
end

