-- ==== Sys2Proof/Machine/Operands.lean ====
section
/-! DEFINITION. Operand forms of the built-in operations: parameter blocks, tensor descriptors, footprints, and reading
and writing tensor elements (R111 … R118, R51, R52, R108, R520). -/

namespace Sys2Proof.Machine

/-- A tensor descriptor (Table 5-2). -/
structure Tensor where
  base : Nat
  fmt : Fmt
  rank : Nat
  blockAxis : Nat
  round : RoundMode
  srStream : BitVec 32
  scaleBase : Nat
  shape : List Nat
  stride : List Int
  deriving DecidableEq, Repr

/-- A field of a structure at fault: reason of Table 11-8, address of the structure, byte offset of the field. -/
structure Bad where
  reason : Nat
  addr : Nat
  off : Nat
  deriving DecidableEq, Repr

/-- A parameter block (Table 5-1): address, header bytes, and its tensors. -/
structure PBlock where
  addr : Nat
  hdr : List Byte
  ins : List Tensor
  outs : List Tensor
  deriving DecidableEq, Repr

/-- Product of a list. -/
def prodL : List Nat → Nat
  | [] => 1
  | n :: ns => n * prodL ns

/-- Number of elements (R112). -/
def Tensor.count (t : Tensor) : Nat := prodL t.shape

/-- Index vector of a logical index (R112). -/
def unravel : List Nat → Nat → List Nat
  | [], _ => []
  | _ :: ns, i => (i / prodL ns) :: unravel ns (i % prodL ns)

/-- Logical index of an index vector. -/
def ravel : List Nat → List Nat → Nat
  | n :: ns, i :: is => (i % Nat.max n 1) * prodL ns + ravel ns is
  | _, _ => 0

/-- Linear element offset of an index vector (R113). -/
def dotStride : List Nat → List Int → Int
  | i :: is, s :: ss => (i : Int) * s + dotStride is ss
  | _, _ => 0

/-- Every index vector of a shape, in logical order. -/
def allIdx (sh : List Nat) : List (List Nat) := (List.range (prodL sh)).map (unravel sh)

/-- Lowest and highest element offset over a shape of non-zero lengths. -/
def spanOff : List Nat → List Int → Int × Int
  | n :: ns, s :: ss =>
    let (lo, hi) := spanOff ns ss
    let d := ((n : Int) - 1) * s
    (lo + min 0 d, hi + max 0 d)
  | _, _ => (0, 0)

/-- The `i`-th element of a list, 0 past the end. -/
def nth (l : List Nat) (i : Nat) : Nat := l.getD i 0
/-- The `i`-th element of a list of integers. -/
def nthI (l : List Int) (i : Nat) : Int := l.getD i 0

/-- Replace one element of a list. -/
def setAt (l : List Nat) (i x : Nat) : List Nat := l.set i x

/-- The block grid of a block-scaled tensor (R113). -/
def Tensor.grid (t : Tensor) : List Nat := setAt t.shape t.blockAxis (ceilDiv (nth t.shape t.blockAxis) 32)

/-- The axis along which a packing group runs: the first axis of stride 1 whose other strides are multiples of the
group (R113). -/
def packAxis (t : Tensor) (g : Nat) : Option Nat :=
  (List.range t.rank).find? fun a =>
    nthI t.stride a == 1 && (List.range t.rank).all fun b => b == a || nthI t.stride b % (g : Int) == 0

/-- The shape with its final group or block full size (R52). -/
def paddedShape (t : Tensor) : List Nat :=
  if fmtIsMx t.fmt then setAt t.shape t.blockAxis (32 * ceilDiv (nth t.shape t.blockAxis) 32)
  else
    let (g, _) := packGroup t.fmt
    if g = 1 then t.shape
    else match packAxis t g with
      | some a => setAt t.shape a (g * ceilDiv (nth t.shape a) g)
      | none => t.shape

/-- Byte address of the packing group that holds element offset `o`, and the group's bytes. -/
def groupAddr (t : Tensor) (o : Nat) : Nat × Nat :=
  let (g, b) := packGroup t.fmt
  (t.base + o / g * b, b)

/-- Footprint of a tensor: byte intervals `[lo, hi)` of elements and of scales (R114). -/
def footprint (t : Tensor) : List (Nat × Nat) :=
  if t.count = 0 then []
  else
    let (lo, hi) := spanOff (paddedShape t) t.stride
    let (a, _) := groupAddr t lo.toNat
    let (c, n) := groupAddr t hi.toNat
    if fmtIsMx t.fmt then [(a, c + n), (t.scaleBase, t.scaleBase + prodL t.grid)] else [(a, c + n)]

/-- Two byte intervals meet. -/
def ivMeet (a b : Nat × Nat) : Bool := decide (a.1 < b.2) && decide (b.1 < a.2)

/-- Every byte of `[lo, hi)` lies in the union of the ranges (start, length); fuel is the number of ranges. -/
def coveredGo (rs : List (Nat × Nat)) : Nat → Nat → Nat → Bool
  | 0, lo, hi => decide (hi ≤ lo)
  | f + 1, lo, hi =>
    if hi ≤ lo then true
    else match rs.find? (fun r => decide (r.1 ≤ lo) && decide (lo < r.1 + r.2)) with
      | some r => coveredGo rs f (r.1 + r.2) hi
      | none => false

/-- Coverage of an interval by a range list (R115). -/
def covered (rs : List (Nat × Nat)) (iv : Nat × Nat) : Bool := coveredGo rs (rs.length + 1) iv.1 iv.2

/-- Check a field: `none` passes, else the field's offset. -/
def chk (ok : Bool) (off : Nat) : Option Nat := if ok then none else some off

/-- The first failing check. -/
def firstBad : List (Option Nat) → Option Nat
  | [] => none
  | some o :: _ => some o
  | none :: cs => firstBad cs

/-- The descriptor fields in the order of Table 5-2, before R113. -/
def descFieldBad (isOut : Bool) (bs : List Byte) : Option Nat :=
  let fmt := fieldLe bs 8 1
  let rank := fieldLe bs 9 1
  let ba := fieldLe bs 10 1
  let rd := fieldLe bs 11 1
  let mx := match fmtOfCode fmt with
    | some f => fmtIsMx f
    | none => false
  firstBad ([
    chk (decide (fieldLe bs 0 8 < 2 ^ 56)) 0x00,
    chk (fmtOfCode fmt).isSome 0x08,
    chk (decide (rank ≤ 6)) 0x09,
    chk (if mx then decide (ba < rank) else decide (ba = 255)) 0x0A,
    chk (if isOut then (roundOfCode rd).isSome else decide (rd = 0)) 0x0B,
    chk ((isOut && decide (rd = 4)) || decide (fieldLe bs 12 4 = 0)) 0x0C,
    chk (mx || decide (fieldLe bs 16 8 = 0)) 0x10]
    ++ (List.range 6).map (fun a =>
        chk (if a < rank then decide (fieldLe bs (0x18 + 4 * a) 4 < 2 ^ 31)
             else decide (fieldLe bs (0x18 + 4 * a) 4 = 0)) (0x18 + 4 * a))
    ++ (List.range 6).map (fun a => chk (decide (a < rank) || decide (fieldLe bs (0x30 + 8 * a) 8 = 0)) (0x30 + 8 * a))
    ++ [chk (decide (fieldLe bs 0x60 32 = 0)) 0x60])

/-- The fields of a descriptor as a tensor. -/
def descTensor (bs : List Byte) : Tensor :=
  let rank := fieldLe bs 9 1
  { base := fieldLe bs 0 8
    fmt := (fmtOfCode (fieldLe bs 8 1)).getD .fp32
    rank := rank
    blockAxis := fieldLe bs 10 1
    round := (roundOfCode (fieldLe bs 11 1)).getD .rne
    srStream := BitVec.ofNat 32 (fieldLe bs 12 4)
    scaleBase := fieldLe bs 16 8
    shape := (List.range rank).map fun a => fieldLe bs (0x18 + 4 * a) 4
    stride := (List.range rank).map fun a => toSigned 64 (fieldLe bs (0x30 + 8 * a) 8) }

/-- The layout rules of R113 and the element bound of R116. -/
def tensorBad (t : Tensor) : Option Nat :=
  let (g, _) := packGroup t.fmt
  let (lo, hi) := spanOff t.shape t.stride
  let align := if t.fmt == .peat then 32 else if fmtBits t.fmt ≥ 8 then fmtBits t.fmt / 8 else 1
  firstBad [
    chk (decide (t.base % align = 0)) 0x00,
    chk (decide (t.count ≤ 2 ^ 48)) 0x18,
    chk (decide (t.count = 0) || (decide (0 ≤ lo) && decide (hi < 2 ^ 48))) 0x30,
    chk (decide (g = 1) || fmtIsMx t.fmt || decide (t.rank = 0) || (packAxis t g).isSome) 0x30,
    chk (!fmtIsMx t.fmt ||
      (nthI t.stride t.blockAxis == 1 &&
        (List.range t.rank).all fun b => b == t.blockAxis || nthI t.stride b % 32 == 0)) 0x30]

/-- Built-in operations (Table 5-4). -/
inductive OpK where
  | matmul | matmulBatched | matmulGrouped | matmulFp64 | conv | convTransposed | convWgrad
  | attention | attentionBwd
  | layernorm | rmsnorm | groupnorm | softmax | logSoftmax | layernormBwd | rmsnormBwd | softmaxBwd
  | unary | add | sub | mul | div | max | min | fma | select | compare | abs | neg | relu | clamp
  | dropout | randomUniform
  | cast | peatRound | peatAccumulate | copy | permute | fill
  | gather | scatter | scatterAdd | scatterMax | scatterMin | embedding | embeddingBag
  | topk | sort | argmax | argmin
  | reduceSum | reduceMax | reduceMin | reduceMean | reduceVar | cumsum
  | allReduce | reduceScatter | allGather | allToAll | broadcast
  deriving DecidableEq, Repr

/-- Operation ids (Table 5-4). -/
def opOfId (n : Nat) : Option OpK :=
  match n with
  | 0x00010001 => some .matmul | 0x00010002 => some .matmulBatched | 0x00010003 => some .matmulGrouped
  | 0x00010004 => some .matmulFp64 | 0x00010010 => some .conv | 0x00010011 => some .convTransposed
  | 0x00010012 => some .convWgrad | 0x00020001 => some .attention | 0x00020002 => some .attentionBwd
  | 0x00030001 => some .layernorm | 0x00030002 => some .rmsnorm | 0x00030003 => some .groupnorm
  | 0x00030004 => some .softmax | 0x00030005 => some .logSoftmax | 0x00030011 => some .layernormBwd
  | 0x00030012 => some .rmsnormBwd | 0x00030014 => some .softmaxBwd | 0x00040001 => some .unary
  | 0x00040010 => some .add | 0x00040011 => some .sub | 0x00040012 => some .mul | 0x00040013 => some .div
  | 0x00040014 => some .max | 0x00040015 => some .min | 0x00040016 => some .fma | 0x00040017 => some .select
  | 0x00040018 => some .compare | 0x00040020 => some .abs | 0x00040021 => some .neg | 0x00040022 => some .relu
  | 0x00040023 => some .clamp | 0x00040030 => some .dropout | 0x00040031 => some .randomUniform
  | 0x00050001 => some .cast | 0x00050002 => some .peatRound | 0x00050003 => some .peatAccumulate
  | 0x00050004 => some .copy | 0x00050005 => some .permute | 0x00050006 => some .fill
  | 0x00060001 => some .gather | 0x00060002 => some .scatter | 0x00060003 => some .scatterAdd
  | 0x00060004 => some .scatterMax | 0x00060005 => some .scatterMin | 0x00060010 => some .embedding
  | 0x00060011 => some .embeddingBag | 0x00070001 => some .topk | 0x00070002 => some .sort
  | 0x00070003 => some .argmax | 0x00070004 => some .argmin | 0x00080001 => some .reduceSum
  | 0x00080002 => some .reduceMax | 0x00080003 => some .reduceMin | 0x00080004 => some .reduceMean
  | 0x00080005 => some .reduceVar | 0x00080010 => some .cumsum | 0x00090001 => some .allReduce
  | 0x00090002 => some .reduceScatter | 0x00090003 => some .allGather | 0x00090004 => some .allToAll
  | 0x00090005 => some .broadcast
  | _ => none

/-- Admitted counts of inputs and outputs (Table 5-4, R111). -/
def opArity : OpK → List Nat × List Nat
  | .matmul | .matmulBatched | .conv | .convTransposed => ([2, 3], [1])
  | .matmulGrouped => ([3, 4], [1])
  | .matmulFp64 | .convWgrad | .add | .sub | .mul | .div | .max | .min | .compare | .peatAccumulate | .gather
  | .embedding | .softmaxBwd => ([2], [1])
  | .attention => ([3, 4], [1, 2])
  | .attentionBwd => ([6, 7], [3])
  | .layernorm | .groupnorm => ([3], [1, 3])
  | .rmsnorm => ([2], [1, 2])
  | .layernormBwd => ([5], [3])
  | .rmsnormBwd => ([4], [2])
  | .softmax | .logSoftmax | .unary | .abs | .neg | .relu | .clamp | .dropout | .cast | .peatRound | .copy | .permute
  | .argmax | .argmin | .reduceSum | .reduceMax | .reduceMin | .reduceMean | .reduceVar | .cumsum | .allReduce
  | .reduceScatter | .allGather | .allToAll | .broadcast => ([1], [1])
  | .fma | .select | .scatter | .scatterAdd | .scatterMax | .scatterMin => ([3], [1])
  | .randomUniform | .fill => ([0], [1])
  | .embeddingBag => ([3, 4], [1])
  | .topk => ([1], [2])
  | .sort => ([1], [1, 2])

/-- Operations marked IP (Table 5-4). -/
def opInPlace : OpK → Bool
  | .unary | .add | .sub | .mul | .div | .max | .min | .fma | .select | .abs | .neg | .relu | .clamp | .dropout | .cast
  | .peatAccumulate | .scatter | .scatterAdd | .scatterMax | .scatterMin | .allReduce | .reduceScatter | .allGather
  | .allToAll | .broadcast => true
  | _ => false

/-- Operations marked P (Table 5-4). -/
def opPeatOut : OpK → Bool
  | .matmul | .matmulBatched | .matmulGrouped | .conv | .convTransposed | .convWgrad | .cast | .peatAccumulate
  | .reduceSum | .cumsum | .allReduce | .reduceScatter => true
  | _ => false

/-- Copying operations (R520). -/
def opCopying : OpK → Bool
  | .copy | .permute | .gather | .embedding | .scatter | .allGather | .allToAll | .broadcast => true
  | _ => false

/-- Header bytes that an operation's scalars take: (offset, bytes) (Table 5-3). -/
def opScalars : OpK → List (Nat × Nat)
  | .matmulGrouped => [(0x18, 4)]
  | .conv | .convTransposed | .convWgrad => [(0x18, 1), (0x1A, 2), (0x1C, 6), (0x22, 6), (0x28, 6)]
  | .attention | .attentionBwd => [(0x18, 4), (0x1C, 1), (0x20, 8)]
  | .layernorm | .rmsnorm => [(0x18, 4), (0x1C, 1)]
  | .groupnorm => [(0x18, 4), (0x20, 4)]
  | .layernormBwd | .rmsnormBwd => [(0x1C, 1)]
  | .reduceSum | .reduceMax | .reduceMin | .reduceMean | .softmax | .logSoftmax | .softmaxBwd => [(0x18, 1)]
  | .reduceVar => [(0x18, 1), (0x19, 1)]
  | .gather | .scatter | .scatterAdd | .scatterMax | .scatterMin | .argmax | .argmin => [(0x18, 1)]
  | .topk => [(0x18, 1), (0x19, 1), (0x1C, 4)]
  | .sort => [(0x18, 1), (0x19, 1)]
  | .cumsum => [(0x18, 1), (0x1A, 1)]
  | .embeddingBag => [(0x1B, 1)]
  | .unary | .compare => [(0x18, 1)]
  | .permute => [(0x18, 6)]
  | .dropout => [(0x18, 4), (0x1C, 4), (0x20, 4)]
  | .randomUniform => [(0x18, 4), (0x24, 4)]
  | .clamp => [(0x20, 16)]
  | .fill => [(0x20, 8)]
  | .allReduce | .reduceScatter => [(0x18, 4), (0x1C, 2), (0x1E, 2), (0x20, 8), (0x28, 1)]
  | .allGather | .allToAll => [(0x18, 4), (0x1C, 2), (0x1E, 2), (0x20, 8)]
  | .broadcast => [(0x18, 4), (0x1C, 2), (0x1E, 2), (0x20, 8), (0x2A, 2)]
  | .matmul | .matmulBatched | .matmulFp64 | .add | .sub | .mul | .div | .max | .min | .fma | .select | .abs | .neg
  | .relu | .cast | .peatRound | .peatAccumulate | .copy | .embedding => []

/-- A scalar byte that the operation does not use and that is not 0 (R111). -/
def unusedScalar (k : OpK) (hdr : List Byte) : Option Nat :=
  ((List.range 40).map (· + 0x18)).find? fun i =>
    !((opScalars k).any fun (o, n) => decide (o ≤ i) && decide (i < o + n)) && (hdr.getD i 0 != 0)

/-- The rules of R111 and R117 that fix an operation's block: operation, size and numbers of tensors. -/
def headerBad (addr : Nat) (hdr : List Byte) : Option Nat :=
  let size := fieldLe hdr 4 2
  let nin := fieldLe hdr 6 1
  let nout := fieldLe hdr 7 1
  match opOfId (fieldLe hdr 0 4) with
  | none => some 0
  | some k =>
    firstBad [
      chk (decide (addr % 64 = 0)) 0,
      chk (decide (192 ≤ size) && decide (size ≤ 4160) && decide (size = 64 + 128 * (nin + nout))) 4,
      chk (decide (nin ≤ 24) && (opArity k).1.contains nin) 6,
      chk (decide (1 ≤ nout) && decide (nout ≤ 8) && (opArity k).2.contains nout) 7]

/-- Descriptor `i` of a block's bytes. -/
def descBytes (body : List Byte) (i : Nat) : List Byte := sliceB body (128 * i) 128

/-- Read and check a parameter block, field by field (R111 … R113): `body` holds the descriptors. -/
def parseBlock (addr : Nat) (hdr body : List Byte) : PBlock :=
  let nin := fieldLe hdr 6 1
  let nout := fieldLe hdr 7 1
  { addr := addr, hdr := hdr
    ins := (List.range nin).map fun i => descTensor (descBytes body i)
    outs := (List.range nout).map fun i => descTensor (descBytes body (nin + i)) }

/-- The first descriptor at fault, with its first field at fault (R112, R113). -/
def descsBad (addr nin n : Nat) (body : List Byte) : Option Bad :=
  (List.range n).findSome? fun i =>
    let bs := descBytes body i
    let own := descFieldBad (decide (nin ≤ i)) bs
    let layout := if own.getD 0x60 = 0x60 then tensorBad (descTensor bs) else none
    (layout.orElse fun _ => own).map fun o => ⟨0x0A, addr + 64 + 128 * i, o⟩

/-- The first field at fault of several: the lowest address, then the lowest offset. -/
def leastBad : List Bad → Option Bad
  | [] => none
  | b :: bs => match leastBad bs with
    | some c => if c.addr < b.addr || (c.addr == b.addr && decide (c.off < b.off)) then some c else some b
    | none => some b

/-- A reader of a command's memory: address and length give the bytes. -/
abbrev Rd := Nat → Nat → List Byte

/-- An element as read: its pattern, its scale byte, its value, and its word where it is PEAT. -/
structure El where
  raw : Nat
  scale : Nat
  v : Val
  pt : Peat
  deriving DecidableEq, Repr

/-- Read the element at an index vector (R113, R50, R51). -/
def readEl (rd : Rd) (t : Tensor) (idx : List Nat) : El :=
  let o := (dotStride idx t.stride).toNat
  let (g, _) := packGroup t.fmt
  let (a, n) := groupAddr t o
  let w := fmtBits t.fmt
  let x := leNat (rd a n)
  let raw := bits x (w * (o % g) + w - 1) (w * (o % g))
  if t.fmt == .peat then
    let p := peatOfNat raw
    ⟨leNat (peatBytes p), 0, peatVal p, p⟩
  else if fmtIsMx t.fmt then
    let sc := leNat (rd (t.scaleBase + ravel t.grid (setAt idx t.blockAxis (nth idx t.blockAxis / 32))) 1)
    ⟨raw, sc, decodeMx t.fmt raw sc, Peat.zero⟩
  else ⟨raw, 0, decodeElem t.fmt raw, Peat.zero⟩

/-- Read a whole tensor in logical order. -/
def readTensor (rd : Rd) (t : Tensor) : List El := (allIdx t.shape).map (readEl rd t)

/-- What an operation gives for one output element: an exact value, with whether its source has an integer format; a
peat sum; a pattern copied unchanged, with its scale byte where it has one; or a function's value. -/
inductive Res where
  | val (x : Val) (srcInt : Bool)
  | sum (p : Peat)
  | raw (b : Nat) (scale : Option Nat)
  | fn (r : FnRes)
  deriving DecidableEq, Repr

/-- The value that a result rounds. -/
def resVal : Res → Val × Bool
  | .val x s => (x, s)
  | .sum p => (peatVal p, false)
  | .raw _ _ => (Val.zero, false)
  | .fn r => (r.v, false)

/-- Pattern and flags of a result in a format that is not block-scaled (R118). -/
def resBits (f : Fmt) (rm : RoundMode) (u : Nat) (r : Res) : Nat × FlagWord :=
  match r with
  | .raw b _ => if f == .peat then (leNat (peatBytes (peatOfNat b)), 0) else (b, 0)
  | .sum p => if f == .peat then (leNat (peatBytes p), 0) else peatRoundElem f rm u p
  | .val x s =>
    if f == .peat then let (p, fl) := castPeat rm u x; (leNat (peatBytes p), fl) else castElem f rm u s x
  | .fn q =>
    if f == .peat then let (p, fl) := castPeat rm u q.v; (leNat (peatBytes p), fl)
    else let (b, fl) := castElem f rm u false q.v; (b, fnOutFlags q (decodeElem f b) fl)

/-- Bytes at addresses. -/
abbrev Writes := List (Nat × Byte)

/-- Bytes laid from an address. -/
def layBytes : Nat → List Byte → Writes
  | _, [] => []
  | a, b :: bs => (a, b) :: layBytes (a + 1) bs

/-- The draw of output element `e` of output `o` (R108). -/
def srDraw (key : BitVec 128) (t : Tensor) (o e : Nat) : Nat :=
  if t.round == .sr then wispDraw key t.srStream (BitVec.ofNat 64 e) (BitVec.ofNat 32 o) else 0

/-- Collect element patterns by packing group: the group's number and its bits. -/
def addToGroup (t : Tensor) (tab : Tab Nat) (o b : Nat) : Tab Nat :=
  let (g, _) := packGroup t.fmt
  let w := fmtBits t.fmt
  Tab.put tab (o / g) (Tab.getD tab (o / g) 0 + b % 2 ^ w * 2 ^ (w * (o % g)))

/-- The bytes of collected groups. -/
def groupWrites (t : Tensor) (tab : Tab Nat) : Writes :=
  let (_, b) := packGroup t.fmt
  (tab.map fun (k, x) => layBytes (t.base + k * b) (natLe b x)).flatten

/-- Write a tensor that is not block-scaled: element patterns in logical order (R51, R52). -/
def plainWrites (t : Tensor) (bs : List Nat) : Writes :=
  let os := (allIdx t.shape).map fun i => (dotStride i t.stride).toNat
  let (g, b) := packGroup t.fmt
  if g = 1 then ((os.zip bs).map fun (o, x) => layBytes (t.base + o * b) (natLe b x)).flatten
  else groupWrites t ((os.zip bs).foldl (fun tab (o, x) => addToGroup t tab o x) [])

/-- The logical indices of the elements of one block, and its first index vector. -/
def blockElems (t : Tensor) (cell : List Nat) : List Nat :=
  let a := t.blockAxis
  let b := nth cell a
  (List.range (Nat.min 32 (nth t.shape a - 32 * b))).map fun k => ravel t.shape (setAt cell a (32 * b + k))

/-- A pattern copied unchanged, with its scale. -/
def Res.copied : Res → Option (Nat × Option Nat)
  | .raw b s => some (b, s)
  | _ => none

/-- One scale for patterns copied unchanged into one block: theirs where they agree (R44, R129). DESIGN CHOICE: where they
differ, or bring none, the manual states no scale and the byte is a free value of the patterns and their scales. -/
def rawScale (ps : List (Nat × Option Nat)) : Nat :=
  match ps with
  | (_, some s) :: rest => if rest.all (fun p => p.2 == some s) then s else (Config.mixedScale ps).toNat
  | _ => (Config.mixedScale ps).toNat

/-- A result that adds nothing to a block of copies: the +0 written for an index that names nothing (R129). -/
def Res.isZero : Res → Bool
  | .val v _ => v == Val.zero
  | _ => false

/-- One block of a block-scaled output: scale, patterns, flags (R60, R118). -/
def blockOut (t : Tensor) (key : BitVec 128) (o : Nat) (es : List Nat) (rs : List Res) : Nat × List Nat × FlagWord :=
  let ps := rs.filterMap Res.copied
  if !ps.isEmpty && rs.all (fun r => r.copied.isSome || r.isZero) then
    (rawScale ps, rs.map (fun r => (r.copied.getD (0, none)).1), 0)
  else
    let (sc, bs, fl) := castBlock t.fmt t.round (rs.map resVal) (es.map (srDraw key t o))
    let fls := (bs.zip rs).map fun ((b, f), r) =>
      match r with
      | .fn q => if sc = 255 then f else fnOutFlags q (decodeMx t.fmt b sc) f
      | _ => f
    (sc, bs.map Prod.fst, fl ||| orFlags fls)

/-- Write a block-scaled tensor: blocks in grid order, with zero padding and a scale byte each (R52, R60, R113). -/
def mxWrites (t : Tensor) (key : BitVec 128) (o : Nat) (rs : List Res) : Writes × FlagWord :=
  let cells := allIdx t.grid
  let blocks := cells.map fun cell =>
    let es := blockElems t cell
    (cell, blockOut t key o es (es.map fun e => rs.getD e (.val Val.zero false)))
  let tab := blocks.foldl (fun tab (cell, (_, bs, _)) =>
    let o0 := (dotStride (setAt cell t.blockAxis (32 * nth cell t.blockAxis)) t.stride).toNat
    (List.range 32).foldl (fun tab k => addToGroup t tab (o0 + k) (nth bs k)) tab) []
  let scs := blocks.map fun (cell, (sc, _, _)) => (t.scaleBase + ravel t.grid cell, BitVec.ofNat 8 sc)
  (groupWrites t tab ++ scs, orFlags (blocks.map fun (_, (_, _, fl)) => fl))

/-- Write output number `o` from its results in logical order (R118, R108). -/
def writeTensor (t : Tensor) (key : BitVec 128) (o : Nat) (rs : List Res) : Writes × FlagWord :=
  if t.count = 0 then ([], 0)
  else if fmtIsMx t.fmt then mxWrites t key o rs
  else
    let ps := rs.zipIdx.map fun (r, e) => resBits t.fmt t.round (srDraw key t o e) r
    (plainWrites t (ps.map Prod.fst), orFlags (ps.map Prod.snd))

end Sys2Proof.Machine
end

