-- ==== Sys2Proof/Machine/OpChecks.lean ====
section
/-! DEFINITION. The operation-specific rules of a parameter block (R90, R96, R100, R101, R110, R116 … R134, R520): which
formats, scalars and shapes an operation admits. -/

namespace Sys2Proof.Machine

/-- A tensor that stands for an absent one. -/
def noTensor : Tensor :=
  { base := 0, fmt := .fp32, rank := 0, blockAxis := 255, round := .rne, srStream := 0, scaleBase := 0, shape := [],
    stride := [] }

/-- Input `i` of a block. -/
def PBlock.inp (b : PBlock) (i : Nat) : Tensor := b.ins.getD i noTensor
/-- Output `i` of a block. -/
def PBlock.out (b : PBlock) (i : Nat) : Tensor := b.outs.getD i noTensor
/-- A scalar of the header: offset and bytes. -/
def PBlock.scal (b : PBlock) (off n : Nat) : Nat := fieldLe b.hdr off n

/-- Formats whose values are terms (R69). -/
def fmtIsTerm (f : Fmt) : Bool := f != .fp64 && f != .peat
/-- Formats that the matrix engine takes (R41, R119). -/
def fmtIsEngine (f : Fmt) : Bool := fmtIsTerm f && f != .int32 && f != .int64
/-- Index formats (R41). -/
def fmtIsIndex (f : Fmt) : Bool := f == .int32 || f == .int64

/-- One format rule: the tensor's position (inputs, then outputs) and whether its format is admitted. -/
abbrev FmtRule := Nat × Bool

/-- Format rules of an operation (R118, R520 and the definitions). DESIGN CHOICE (R99, R101 do not say): REDUCE_MEAN and
REDUCE_VAR admit INT32 and INT64 inputs, whose values their sums take; the SOFTMAX family does not, and refuses an FP64
output. DESIGN CHOICE (log entry 74): EMBEDDING_BAG refuses an FP64 table or weight, which R97 would make an FP64 sum and R129 gives no
form; the normalisations refuse every FP64 input, which R125 neither admits nor refuses. -/
def fmtRules (k : OpK) (b : PBlock) : List FmtRule :=
  let ni := b.ins.length
  let i (j : Nat) : Fmt := (b.inp j).fmt
  let o (j : Nat) : Fmt := (b.out j).fmt
  let outNP : List FmtRule := b.outs.zipIdx.map fun (t, j) => (ni + j, t.fmt != .peat)
  let allIn (p : Fmt → Bool) : List FmtRule := b.ins.zipIdx.map fun (t, j) => (j, p t.fmt)
  match k with
  | .matmul | .matmulBatched =>
    [(0, fmtIsEngine (i 0)), (1, fmtIsEngine (i 1))]
      ++ (if ni = 3 then [(2, fmtIsTerm (i 2) || i 2 == .peat)] else [])
  | .matmulGrouped =>
    [(0, fmtIsEngine (i 0)), (1, fmtIsEngine (i 1)), (2, i 2 == .int64)]
      ++ (if ni = 4 then [(3, fmtIsTerm (i 3) || i 3 == .peat)] else [])
  | .matmulFp64 => [(0, fmtIsFp (i 0)), (1, fmtIsFp (i 1))] ++ outNP
  | .conv | .convTransposed =>
    [(0, fmtIsEngine (i 0)), (1, fmtIsEngine (i 1))] ++ (if ni = 3 then [(2, fmtIsTerm (i 2))] else [])
  | .convWgrad => allIn fmtIsEngine
  | .attention =>
    [(0, fmtIsEngine (i 0)), (1, fmtIsEngine (i 1)), (2, fmtIsEngine (i 2))]
      ++ (if ni = 4 then [(3, i 3 == .int8)] else [])
      ++ [(ni, o 0 != .peat)] ++ (if b.outs.length = 2 then [(ni + 1, o 1 == .fp32)] else [])
  | .attentionBwd =>
    (List.range 5).map (fun j => (j, fmtIsEngine (i j))) ++ [(5, i 5 == .fp32)]
      ++ (if ni = 7 then [(6, i 6 == .int8)] else []) ++ outNP
  | .layernorm | .rmsnorm | .groupnorm =>
    allIn fmtIsEngine ++ [(ni, o 0 != .peat)]
      ++ (List.range (b.outs.length - 1)).map (fun j => (ni + 1 + j, o (j + 1) == .fp32))
  | .softmax | .logSoftmax => allIn fmtIsEngine ++ [(ni, o 0 != .peat && o 0 != .fp64)]
  | .layernormBwd =>
    [(0, fmtIsEngine (i 0)), (1, fmtIsEngine (i 1)), (2, i 2 == .fp32), (3, i 3 == .fp32), (4, fmtIsEngine (i 4))]
      ++ outNP
  | .rmsnormBwd =>
    [(0, fmtIsEngine (i 0)), (1, fmtIsEngine (i 1)), (2, i 2 == .fp32), (3, fmtIsEngine (i 3))] ++ outNP
  | .softmaxBwd => allIn fmtIsEngine ++ [(ni, o 0 != .peat && o 0 != .fp64)]
  | .unary =>
    [(0, i 0 != .peat), (1, o 0 != .peat && (i 0 == .fp64 || o 0 == .fp64 || !fmtIsInt (o 0)))]
  | .add | .sub | .mul | .div | .max | .min | .fma | .select | .abs | .neg | .relu | .clamp | .dropout | .randomUniform
  | .fill => allIn (· != .peat) ++ outNP
  | .compare => allIn (· != .peat) ++ [(ni, fmtIsInt (o 0))]
  | .cast => []
  | .peatRound => [(0, i 0 == .peat)] ++ outNP
  | .peatAccumulate => [(0, i 0 == .peat), (1, i 1 == .peat || fmtIsTerm (i 1)), (2, o 0 == .peat)]
  | .copy | .permute => [(1, o 0 == i 0)]
  | .gather | .embedding => [(1, fmtIsIndex (i 1)), (2, (i 0 == .peat) == (o 0 == .peat))]
  | .scatter =>
    [(1, fmtIsIndex (i 1)), (2, (i 2 == .peat) == (i 0 == .peat)), (3, (o 0 == .peat) == (i 0 == .peat))]
  | .scatterAdd | .scatterMax | .scatterMin =>
    [(0, i 0 != .peat), (1, fmtIsIndex (i 1)), (2, i 2 != .peat), (3, o 0 != .peat)]
  | .embeddingBag =>
    [(0, fmtIsTerm (i 0)), (1, fmtIsIndex (i 1)), (2, i 2 == .int64)]
      ++ (if ni = 4 then [(3, fmtIsTerm (i 3))] else []) ++ outNP
  | .topk => [(0, i 0 != .peat), (1, o 0 != .peat), (2, fmtIsIndex (o 1))]
  | .sort =>
    [(0, i 0 != .peat), (1, o 0 != .peat)] ++ (if b.outs.length = 2 then [(2, fmtIsIndex (o 1))] else [])
  | .argmax | .argmin => [(0, i 0 != .peat), (1, fmtIsIndex (o 0))]
  | .reduceSum | .cumsum => []
  | .reduceMax | .reduceMin | .reduceMean | .reduceVar => [(0, i 0 != .peat)] ++ outNP
  | .allReduce | .reduceScatter =>
    if b.scal 0x28 1 = 0 then [] else [(0, i 0 != .peat)]
  | .allGather | .allToAll | .broadcast => [(1, (i 0 == .peat) == (o 0 == .peat))]

/-- A scalar rule: header offset and whether it holds. -/
abbrev ScalRule := Nat × Bool

/-- A finite FP32 pattern. -/
def fp32Finite (n : Nat) : Bool := match decodeFp spec32 n with
  | .fin _ => true
  | _ => false

/-- EPS of Table 5-3. -/
def epsOk (n : Nat) : Bool := match decodeFp spec32 n with
  | .fin x => decide (x.m = 0) || !x.neg
  | _ => false

/-- `v ≤ w` as numbers, for non-NaN values. -/
def valLe (v w : Val) : Bool := !valLt w v || (v.isZero && w.isZero)

/-- A bit mask of axes. -/
def maskAxes (m : Nat) : List Nat := (List.range 8).filter fun a => bitAt m a

/-- Scalar rules of an operation (Table 5-3). -/
def scalRules (k : OpK) (b : PBlock) : List ScalRule :=
  let s := b.scal
  let rank := (b.inp 0).rank
  let axisOk : List ScalRule := [(0x18, decide (s 0x18 1 < rank))]
  match k with
  | .matmulGrouped => [(0x18, decide (1 ≤ s 0x18 4) && decide (s 0x18 4 ≤ 65536))]
  | .conv | .convTransposed | .convWgrad =>
    let n := s 0x18 1
    [(0x18, decide (1 ≤ n) && decide (n ≤ 3)), (0x1A, decide (1 ≤ s 0x1A 2))]
      ++ (List.range 3).map (fun a => (0x1C + 2 * a, decide (a < n) == decide (1 ≤ s (0x1C + 2 * a) 2)))
      ++ (List.range 3).map (fun a => (0x22 + 2 * a, decide (a < n) == decide (1 ≤ s (0x22 + 2 * a) 2)))
      ++ (List.range 3).map (fun a => (0x28 + 2 * a, decide (a < n) || decide (s (0x28 + 2 * a) 2 = 0)))
  | .attention | .attentionBwd =>
    let base := if k = .attention then 3 else 6
    [(0x18, fp32Finite (s 0x18 4)), (0x1C, decide (s 0x1C 1 ≤ 2)),
      (0x1C, decide (s 0x1C 1 = 2) == decide (b.ins.length = base + 1))]
  | .layernorm | .rmsnorm =>
    [(0x18, epsOk (s 0x18 4)), (0x1C, decide (1 ≤ s 0x1C 1) && decide (s 0x1C 1 ≤ rank))]
  | .layernormBwd | .rmsnormBwd => [(0x1C, decide (1 ≤ s 0x1C 1) && decide (s 0x1C 1 ≤ rank))]
  | .groupnorm =>
    [(0x18, epsOk (s 0x18 4)), (0x20, decide (1 ≤ s 0x20 4) && decide (nth (b.inp 0).shape 1 % s 0x20 4 = 0))]
  | .softmax | .logSoftmax | .softmaxBwd =>
    [(0x18, decide ((maskAxes (s 0x18 1)).length = 1) && (maskAxes (s 0x18 1)).all (fun a => decide (a < rank)))]
  | .reduceSum | .reduceMax | .reduceMin | .reduceMean =>
    [(0x18, (maskAxes (s 0x18 1)).all (fun a => decide (a < rank)))]
  | .reduceVar =>
    [(0x18, (maskAxes (s 0x18 1)).all (fun a => decide (a < rank))), (0x19, decide (s 0x19 1 ≤ 1))]
  | .gather | .scatter | .scatterAdd | .scatterMax | .scatterMin | .argmax | .argmin => axisOk
  | .topk =>
    axisOk ++ [(0x19, decide (s 0x19 1 ≤ 1)),
      (0x1C, decide (1 ≤ s 0x1C 4) && decide (s 0x1C 4 ≤ nth (b.inp 0).shape (s 0x18 1)))]
  | .sort => axisOk ++ [(0x19, decide (s 0x19 1 ≤ 1))]
  | .cumsum => axisOk ++ [(0x1A, decide (s 0x1A 1 ≤ 1))]
  | .embeddingBag => [(0x1B, decide (s 0x1B 1 ≤ 1))]
  | .unary =>
    let f64 := (b.inp 0).fmt == .fp64 || (b.out 0).fmt == .fp64
    match fnOfCode (s 0x18 1) with
    | none => [(0x18, false)]
    | some fn => [(0x18, !f64 || fnFp64Ok fn)]
  | .compare => [(0x18, decide (s 0x18 1 ≤ 5))]
  | .permute =>
    let ps := (List.range 6).map fun a => s (0x18 + a) 1
    (List.range 6).map fun a =>
      (0x18 + a, if a < rank then decide (nth ps a < rank) && decide ((ps.take rank).count (nth ps a) = 1)
                 else decide (nth ps a = 0))
  | .dropout => [(0x18, !((b.out 0).round == .sr) || (b.out 0).srStream.toNat != s 0x18 4)]
  | .clamp =>
    let lo := decodeFp spec64 (s 0x20 8)
    let hi := decodeFp spec64 (s 0x28 8)
    [(0x20, !lo.isNan), (0x28, !hi.isNan), (0x20, lo.isNan || hi.isNan || valLe lo hi)]
  | .fill => [(0x20, decide (s 0x20 8 < 2 ^ fmtBits (b.out 0).fmt))]
  | .allReduce | .reduceScatter =>
    [(0x1C, decide (1 ≤ s 0x1C 2) && decide (s 0x1C 2 ≤ 4096)), (0x1E, decide (s 0x1E 2 < s 0x1C 2)),
      (0x28, decide (s 0x28 1 ≤ 2))]
  | .allGather | .allToAll =>
    [(0x1C, decide (1 ≤ s 0x1C 2) && decide (s 0x1C 2 ≤ 4096)), (0x1E, decide (s 0x1E 2 < s 0x1C 2))]
  | .broadcast =>
    [(0x1C, decide (1 ≤ s 0x1C 2) && decide (s 0x1C 2 ≤ 4096)), (0x1E, decide (s 0x1E 2 < s 0x1C 2)),
      (0x2A, decide (s 0x2A 2 < s 0x1C 2))]
  | .matmul | .matmulBatched | .matmulFp64 | .add | .sub | .mul | .div | .max | .min | .fma | .select | .abs | .neg
  | .relu | .randomUniform | .cast | .peatRound | .peatAccumulate | .copy | .embedding => []

/-- A shape rule: the tensor's position, the field's offset in its descriptor, and whether the rule holds. -/
abbrev ShapeRule := Nat × Nat × Bool

/-- Every axis length but one, which is replaced. -/
def shapeWith (sh : List Nat) (a n : Nat) : List Nat := setAt sh a n

/-- The shape with trailing axes of length 1. -/
def trailOnes (sh : List Nat) (n : Nat) : List Nat := sh.take (sh.length - n) ++ List.replicate n 1

/-- Shape rules of an operation. -/
def shapeRules (k : OpK) (b : PBlock) : List ShapeRule :=
  let s := b.scal
  let ni := b.ins.length
  let sh (j : Nat) : List Nat := (b.inp j).shape
  let so (j : Nat) : List Nat := (b.out j).shape
  let same (j : Nat) (l : List Nat) : ShapeRule := (j, 0x18, (if j < ni then sh j else so (j - ni)) == l)
  let rankIs (j n : Nat) : ShapeRule := (j, 0x09, (if j < ni then sh j else so (j - ni)).length == n)
  let mxAxis (j a : Nat) : ShapeRule := (j, 0x0A, !fmtIsMx (b.inp j).fmt || (b.inp j).blockAxis == a)
  let big (n : Nat) : Bool := decide (n ≤ 2 ^ 52 - 1)
  match k with
  | .matmul | .matmulFp64 =>
    let m := nth (sh 0) 0; let kk := nth (sh 0) 1; let n := nth (sh 1) 1
    [rankIs 0 2, rankIs 1 2, mxAxis 0 1, mxAxis 1 0, same 1 [kk, n]]
      ++ (if ni = 3 then [same 2 [m, n]] else []) ++ [same ni [m, n], (0, 0x18, big kk)]
  | .matmulBatched =>
    let t := nth (sh 0) 0; let m := nth (sh 0) 1; let kk := nth (sh 0) 2; let n := nth (sh 1) 2
    [rankIs 0 3, rankIs 1 3, mxAxis 0 2, mxAxis 1 1, same 1 [t, kk, n]]
      ++ (if ni = 3 then [same 2 [t, m, n]] else []) ++ [same ni [t, m, n], (0, 0x18, big kk)]
  | .matmulGrouped =>
    let g := s 0x18 4; let m := nth (sh 0) 0; let kk := nth (sh 0) 1; let n := nth (sh 1) 2
    [rankIs 0 2, rankIs 1 3, mxAxis 0 1, mxAxis 1 1, same 1 [g, kk, n], same 2 [g + 1]]
      ++ (if ni = 4 then [same 3 [m, n]] else []) ++ [same ni [m, n], (0, 0x18, big kk)]
  | .conv | .convTransposed | .convWgrad =>
    let n := s 0x18 1; let g := s 0x1A 2
    let x := sh 0; let y := if k = .convWgrad then sh 1 else so 0
    let w := if k = .convWgrad then so 0 else sh 1
    let pw := if k = .convWgrad then ni else 1
    let py := if k = .convWgrad then 1 else ni
    let cin := nth x 1; let cout := nth y 1
    [rankIs 0 (n + 2), rankIs 1 (n + 2), rankIs ni (n + 2), (py, 0x18, nth y 0 == nth x 0),
      (0, 0x1A, decide (cin % g = 0)), (py, 0x18, decide (cout % g = 0)),
      (pw, 0x18, if k = .convTransposed then nth w 0 == cin && nth w 1 == cout / g
                 else nth w 0 == cout && nth w 1 == cin / g),
      (pw, 0x18, big (cin / g * prodL (w.drop 2)))]
      ++ (if ni = 3 then [same 2 [cout]] else [])
  | .attention | .attentionBwd =>
    let q := sh 0; let kk := sh 1; let v := sh 2
    let bt := nth q 0; let h := nth q 1; let lq := nth q 2; let d := nth q 3
    let hk := nth kk 1; let lk := nth kk 2; let dv := nth v 3
    [rankIs 0 4, rankIs 1 4, rankIs 2 4, same 1 [bt, hk, lk, d], (1, 0x18, decide (hk ≥ 1) && decide (h % hk = 0)),
      same 2 [bt, hk, lk, dv]]
      ++ (if k = .attention then
            (if ni = 4 then [same 3 [bt, lq, lk]] else []) ++ [same ni [bt, h, lq, dv]]
              ++ (if b.outs.length = 2 then [same (ni + 1) [bt, h, lq]] else [])
          else
            [same 3 [bt, h, lq, dv], same 4 [bt, h, lq, dv], same 5 [bt, h, lq]]
              ++ (if ni = 7 then [same 6 [bt, lq, lk]] else []) ++ [same ni q, same (ni + 1) kk, same (ni + 2) v])
  | .layernorm | .rmsnorm =>
    let x := sh 0; let n := s 0x1C 1; let tr := x.drop (x.length - n)
    [(0, 0x18, decide (prodL tr ≥ 1) && big (prodL tr)), same 1 tr]
      ++ (if k = .layernorm then [same 2 tr] else []) ++ [same ni x]
      ++ (List.range (b.outs.length - 1)).map (fun j => same (ni + 1 + j) (trailOnes x n))
  | .groupnorm =>
    let x := sh 0; let g := s 0x20 4; let ch := nth x 1
    [(0, 0x09, decide (x.length ≥ 2)), (0, 0x18, decide (prodL (x.drop 1) ≥ 1) && big (prodL (x.drop 1))),
      same 1 [ch], same 2 [ch], same ni x]
      ++ (List.range (b.outs.length - 1)).map (fun j => same (ni + 1 + j) [nth x 0, g])
  | .softmax | .logSoftmax =>
    [(0, 0x18, decide (prodL ((maskAxes (s 0x18 1)).map (nth (sh 0))) ≥ 1)), same ni (sh 0)]
  | .softmaxBwd =>
    [(0, 0x18, decide (prodL ((maskAxes (s 0x18 1)).map (nth (sh 0))) ≥ 1)), same 1 (sh 0), same ni (sh 0)]
  | .layernormBwd =>
    let x := sh 0; let n := s 0x1C 1; let tr := x.drop (x.length - n)
    [(0, 0x18, decide (prodL tr ≥ 1) && big x.length), same 1 tr, same 2 (trailOnes x n), same 3 (trailOnes x n),
      same 4 x, same ni x, same (ni + 1) tr, same (ni + 2) tr]
  | .rmsnormBwd =>
    let x := sh 0; let n := s 0x1C 1; let tr := x.drop (x.length - n)
    [(0, 0x18, decide (prodL tr ≥ 1)), same 1 tr, same 2 (trailOnes x n), same 3 x, same ni x, same (ni + 1) tr]
  | .unary | .add | .sub | .mul | .div | .max | .min | .fma | .select | .compare | .abs | .neg | .relu | .clamp
  | .dropout | .cast | .peatRound | .peatAccumulate => (List.range ni).map fun j => same j (so 0)
  | .copy =>
    [same 1 (sh 0), (1, 0x0A, !fmtIsMx (b.inp 0).fmt || (b.inp 0).blockAxis == (b.out 0).blockAxis)]
  | .permute => [same 1 ((List.range (b.inp 0).rank).map fun a => nth (sh 0) (s (0x18 + a) 1))]
  | .randomUniform | .fill => []
  | .gather =>
    let a := s 0x18 1
    let y := (sh 0).take a ++ sh 1 ++ (sh 0).drop (a + 1)
    [(ni, 0x09, decide (y.length ≤ 6)), same ni y]
  | .embedding =>
    let y := sh 1 ++ (sh 0).drop 1
    [(0, 0x09, decide ((sh 0).length ≥ 1)), (ni, 0x09, decide (y.length ≤ 6)), same ni y]
  | .scatter | .scatterAdd | .scatterMax | .scatterMin =>
    let a := s 0x18 1
    [rankIs 1 1, same 2 (shapeWith (sh 0) a (nth (sh 1) 0)), same ni (sh 0)]
  | .embeddingBag =>
    [(0, 0x09, decide ((sh 0).length ≥ 1)), rankIs 1 1, rankIs 2 1, (2, 0x18, decide (nth (sh 2) 0 ≥ 1))]
      ++ (if ni = 4 then [same 3 (sh 1)] else []) ++ [same ni ((nth (sh 2) 0 - 1) :: (sh 0).drop 1)]
  | .topk =>
    let y := shapeWith (sh 0) (s 0x18 1) (s 0x1C 4)
    [same 1 y, same 2 y]
  | .sort => (List.range b.outs.length).map fun j => same (1 + j) (sh 0)
  | .argmax | .argmin =>
    let a := s 0x18 1
    [(0, 0x18, decide (nth (sh 0) a ≥ 1)), same 1 (shapeWith (sh 0) a 1)]
  | .reduceSum | .reduceMax | .reduceMin | .reduceMean | .reduceVar =>
    let as := maskAxes (s 0x18 1)
    let n := prodL (as.map (nth (sh 0)))
    [(0, 0x18, big n && (k = .reduceSum || decide (n ≥ 1))),
      (0, 0x18, !(k == .reduceVar) || decide (n ≥ 1 + s 0x19 1)),
      same 1 ((sh 0).zipIdx.map fun (l, a) => if as.contains a then 1 else l)]
  | .cumsum => [same 1 (sh 0), (0, 0x18, big (nth (sh 0) (s 0x18 1)))]
  | .allReduce | .broadcast => [same 1 (sh 0)]
  | .reduceScatter =>
    [(0, 0x09, decide ((sh 0).length ≥ 1)), (0, 0x18, decide (nth (sh 0) 0 % s 0x1C 2 = 0)),
      same 1 (shapeWith (sh 0) 0 (nth (sh 0) 0 / s 0x1C 2))]
  | .allGather =>
    [(0, 0x09, decide ((sh 0).length ≥ 1)), same 1 (shapeWith (sh 0) 0 (nth (sh 0) 0 * s 0x1C 2))]
  | .allToAll =>
    [(0, 0x09, decide ((sh 0).length ≥ 1)), (0, 0x18, decide (nth (sh 0) 0 % s 0x1C 2 = 0)), same 1 (sh 0)]

/-- The operation takes a draw (Table 5-1, R108, R109). -/
def takesDraw (k : OpK) (b : PBlock) : Bool :=
  k == .dropout || k == .randomUniform || b.outs.any fun t => t.round == .sr

/-- Address of descriptor `j` of a block. -/
def descAddr (b : PBlock) (j : Nat) : Nat := b.addr + 64 + 128 * j

/-- A PEAT output that R118 does not admit. -/
def peatOutBad (k : OpK) (b : PBlock) : Option Bad :=
  (b.outs.zipIdx.find? fun (t, _) => t.fmt == .peat && !opPeatOut k && !(opCopying k && (b.inp 0).fmt == .peat)).map
    fun (_, j) => ⟨0x0A, descAddr b (b.ins.length + j), 0x08⟩

/-- The fields of the block's header behind the numbers of tensors, in ascending offset: the seed (R104), the reserved field, the scalars
that the operation uses and the bytes that it does not use (R111). -/
def headFieldsBad (k : OpK) (b : PBlock) : Option Bad :=
  let at_ (o : Nat) : Bad := ⟨0x0A, b.addr, o⟩
  leastBad ((if decide (b.scal 8 8 = 0) == takesDraw k b then [at_ 0x08] else []) ++ (if b.scal 0x10 8 = 0 then [] else [at_ 0x10]) ++
    (((scalRules k b).filter fun r => !r.2).map fun r => at_ r.1) ++ (unusedScalar k b.hdr).toList.map at_)

/-- The rules that relate the tensors of an operation (R118): formats and shapes. -/
def relationBad (k : OpK) (b : PBlock) : Option Bad :=
  leastBad ((peatOutBad k b).toList ++ (((fmtRules k b).filter fun r => !r.2).map fun r => ⟨0x0A, descAddr b r.1, 0x08⟩) ++
    ((shapeRules k b).filter fun r => !r.2.2).map fun r => ⟨0x0A, descAddr b r.1, r.2.1⟩)

/-- The parameter block, field by field, with reason 0x0A (R526): header, descriptors, and what relates them. DEDUCED (log entry 82): the
rules that relate tensors apply once every descriptor is right by itself. -/
def opBad (k : OpK) (b : PBlock) (body : List Byte) : Option Bad :=
  (headFieldsBad k b).orElse fun _ => (descsBad b.addr b.ins.length (b.ins.length + b.outs.length) body).orElse fun _ => relationBad k b

/-- An output repeats an input exactly (R114). -/
def repeats (o i : Tensor) : Bool :=
  o.base == i.base && o.fmt == i.fmt && o.rank == i.rank && o.shape == i.shape && o.stride == i.stride

/-- Footprint and coverage rules, with reason 0x0C (R114, R115). -/
def footBad (k : OpK) (b : PBlock) (inR outR : List (Nat × Nat)) : Option Bad :=
  let ni := b.ins.length
  let fail (j o : Nat) : Option Bad := some ⟨0x0C, descAddr b j, o⟩
  let zeroStride := b.outs.zipIdx.find? fun (t, _) =>
    (t.shape.zip t.stride).any fun (n, s) => decide (n > 1) && s == 0
  let meets (a c : Tensor) : Bool := (footprint a).any fun x => (footprint c).any fun y => ivMeet x y
  let clash := b.outs.zipIdx.find? fun (t, j) =>
    (b.outs.zipIdx.any fun (t', j') => decide (j' < j) && meets t t')
      || b.ins.any fun i => meets t i && !(opInPlace k && repeats t i)
  let inUncov := b.ins.zipIdx.find? fun (t, _) => !(footprint t).all (covered inR)
  let outUncov := b.outs.zipIdx.find? fun (t, _) => !(footprint t).all (covered outR)
  let seed := b.scal 8 8
  match zeroStride with
  | some (_, j) => fail (ni + j) 0x30
  | none =>
    match clash with
    | some (_, j) => fail (ni + j) 0
    | none =>
      match inUncov with
      | some (_, j) => fail j 0
      | none =>
        match outUncov with
        | some (_, j) => fail (ni + j) 0
        | none => if seed ≠ 0 && !covered inR (seed, seed + 64) then some ⟨0x0C, b.addr, 8⟩ else none

/-- The command is in-place (R114). -/
def isInPlace (b : PBlock) : Bool := b.outs.any fun o => b.ins.any fun i => repeats o i && decide (o.count > 0)

end Sys2Proof.Machine
end

