-- ==== Sys2Proof/Machine/OpEval.lean ====
section
/-! DEFINITION. What each built-in operation computes: the results of every output element, in logical order, and the
flags raised before their last rounding (R96 … R103, R109, R118 … R134). -/

namespace Sys2Proof.Machine

/-- A tensor as read: shape, format, elements in logical order. -/
structure Data where
  sh : List Nat
  fmt : Fmt
  els : List El
  deriving DecidableEq, Repr

/-- A zero element. -/
def El.zero : El := ⟨0, 0, Val.zero, Peat.zero⟩

/-- The element at an index vector. -/
def Data.at (d : Data) (idx : List Nat) : El := d.els.getD (ravel d.sh idx) El.zero
/-- The element at a logical index. -/
def Data.lin (d : Data) (i : Nat) : El := d.els.getD i El.zero
/-- The value at an index vector. -/
def Data.v (d : Data) (idx : List Nat) : Val := (d.at idx).v

/-- Results of the outputs, and the flags of the steps before the last rounding. -/
structure OpOut where
  outs : List (List Res)
  fl : FlagWord
  deriving DecidableEq, Repr

/-- A list of results with flags, split. -/
def splitRes (l : List (Res × FlagWord)) : List Res × FlagWord := (l.map Prod.fst, orFlags (l.map Prod.snd))

/-- One output. -/
def oneOut (l : List (Res × FlagWord)) : OpOut := let (r, f) := splitRes l; ⟨[r], f⟩

/-- Exact sum of terms, each with the flag of forming it (R70, R71). -/
def sumTerms : List (Val × FlagWord) → Peat × FlagWord
  | [] => (Peat.zero, 0)
  | (v, f) :: ts => let (p, g) := sumTerms ts; (peatAddTerm p v, f ||| g)

/-- Exact sum of products. -/
def dotTerms (l : List (Val × Val)) : Peat × FlagWord := sumTerms (l.map fun (a, b) => termMul a b)

/-- Exact sum of the values of elements, words added as words (R97, R520). -/
def sumEls (f : Fmt) : List El → Peat × FlagWord
  | [] => (Peat.zero, 0)
  | e :: es =>
    let (p, g) := sumEls f es
    if f == .peat then (peatAdd p e.pt, g)
    else let (v, fl) := termOne e.v; (peatAddTerm p v, fl ||| g)

/-- FP64 addition under RNE, with its flags (R102). -/
def fadd64 (a b : Val) : Val × FlagWord :=
  let (s, f) := valAdd false a b
  let (x, g) := castFp spec64 .rne 0 s
  (decodeFp spec64 x, f ||| g)

/-- FP64 product under RNE, with its flags (R103). -/
def fmul64 (a b : Val) : Val × FlagWord :=
  let (s, f) := valMul a b
  let (x, g) := castFp spec64 .rne 0 s
  (decodeFp spec64 x, f ||| g)

/-- One level of the canonical tree: pairs joined, an odd last node promoted (R102). -/
def treeLevel : List Val → List Val × FlagWord
  | a :: b :: vs =>
    let (s, f) := fadd64 a b
    let (rest, g) := treeLevel vs
    (s :: rest, f ||| g)
  | [a] => ([a], 0)
  | [] => ([], 0)

/-- The canonical FP64 tree up to its root, which `round_out` rounds (R102). Fuel is the number of leaves. -/
def tree64 : Nat → List Val → Val × FlagWord
  | 0, vs => (vs.headD Val.zero, 0)
  | f + 1, vs =>
    match vs with
    | [] => (Val.zero, 0)
    | [a] => (if a.isNan then .nan false else a, fIf a.isSNan fInvalid)
    | [a, b] => valAdd false a b
    | _ =>
      let (l, g) := treeLevel vs
      let (r, h) := tree64 f l
      (r, g ||| h)

/-- The tree over a list of leaves. -/
def treeOf (vs : List Val) : Val × FlagWord := tree64 vs.length vs

/-- The tree with every node rounded, root included (R99, R100). -/
def treeRounded (vs : List Val) : Val × FlagWord :=
  let (r, f) := treeOf vs
  let (x, g) := castFp spec64 .rne 0 r
  (decodeFp spec64 x, f ||| g)

/-- Greatest (`mx`) or least of two elements with their formats' integer marks (R98). -/
def pickPair (mx : Bool) (a b : Val × Bool) : Val × Bool :=
  if mx then (if valLt a.1 b.1 then b else a) else (if valLt b.1 a.1 then b else a)

/-- Max or min over a non-empty list (R98): value, integer mark, flags. -/
def extreme (mx : Bool) : List (Val × Bool) → Val × Bool × FlagWord
  | [] => (Val.zero, false, 0)
  | x :: xs =>
    let all := x :: xs
    if all.any (fun p => p.1.isNan) then (.nan false, false, fIf (all.any fun p => p.1.isSNan) fInvalid)
    else let r := xs.foldl (pickPair mx) x; (r.1, r.2, 0)

/-- A result that carries an extreme. -/
def extremeRes (mx : Bool) (l : List (Val × Bool)) : Res × FlagWord :=
  let (v, s, f) := extreme mx l
  (.val v s, f)

/-- Mean of a peat sum as a value (R99). -/
def peatMean (p : Peat) (n : Nat) : Val :=
  match peatVal p with
  | .fin x => .fin (exDiv x (exOfInt n 0))
  | v => v

/-- A peat sum divided by a count and rounded into FP32 under RNE. -/
def meanRne32 (p : Peat) (n : Nat) : Val × FlagWord := rne32 (peatMean p n)

/-- A peat sum rounded into FP32 under RNE. -/
def sumRne32 (p : Peat × FlagWord) : Val × FlagWord :=
  let (v, f) := rne32 (peatVal p.1)
  (v, p.2 ||| f)

/-- Chunks of `n` elements. Fuel is the number of chunks. -/
def chunks {α : Type} (n : Nat) : Nat → List α → List (List α)
  | 0, _ => []
  | k + 1, l => l.take n :: chunks n k (l.drop n)

/-- Split a list into chunks of `n`. -/
def chunksOf {α : Type} (n : Nat) (l : List α) : List (List α) := if n = 0 then [] else chunks n (l.length / n) l

/-- Element-wise map over three inputs; absent inputs repeat the first. -/
def map3 (f : El → El → El → Res × FlagWord) (ds : List Data) : OpOut :=
  let d0 := ds.getD 0 ⟨[], .fp32, []⟩
  let d1 := ds.getD 1 d0
  let d2 := ds.getD 2 d0
  oneOut ((List.range d0.els.length).map fun i => f (d0.lin i) (d1.lin i) (d2.lin i))

/-- Input `i`. -/
def dat (ds : List Data) (i : Nat) : Data := ds.getD i ⟨[], .fp32, []⟩

/-- A value result that is not from an integer source. DESIGN CHOICE: integer arithmetic that leaves the range of an integer
output raises INVALID and SATURATE: its result is an exact value, not a value of an integer-format source (R59). -/
def vres (p : Val × FlagWord) : Res × FlagWord := (.val p.1 false, p.2)

/-- A canonical-NaN selection: a NaN reads as quiet with its flag (R44, R45). -/
def selRes (e : El) (f : Fmt) : Res × FlagWord := (.val e.v (fmtIsInt f), 0)

/-- COMPARE's predicate (R128). -/
def predicate (p : Nat) (a b : Val) : Bool :=
  if a.isNan || b.isNan then decide (p = 1)
  else
    let eq := !valLt a b && !valLt b a || (a.isZero && b.isZero)
    let lt := valLt a b && !eq
    if p = 0 then eq else if p = 1 then !eq else if p = 2 then lt else if p = 3 then lt || eq
    else if p = 4 then !lt && !eq else !lt

/-- Signalling-NaN flag of two operands. -/
def snan2 (a b : Val) : FlagWord := fIf (a.isSNan || b.isSNan) fInvalid

/-- The element-wise operations (R109, R127, R128, R91 … R95, R59, R71). `key` is the command's key. -/
def evalElem (k : OpK) (b : PBlock) (key : BitVec 128) (ds : List Data) : OpOut :=
  let f (i : Nat) : Fmt := (dat ds i).fmt
  match k with
  | .add => map3 (fun x y _ => vres (valAdd false x.v y.v)) ds
  | .sub => map3 (fun x y _ => vres (valAdd false x.v (valNeg y.v))) ds
  | .mul => map3 (fun x y _ => vres (valMul x.v y.v)) ds
  | .div => map3 (fun x y _ => vres (valDiv x.v y.v)) ds
  | .fma => map3 (fun x y z => vres (valFma false x.v y.v z.v)) ds
  | .max => map3 (fun x y _ => extremeRes true [(x.v, fmtIsInt (f 0)), (y.v, fmtIsInt (f 1))]) ds
  | .min => map3 (fun x y _ => extremeRes false [(x.v, fmtIsInt (f 0)), (y.v, fmtIsInt (f 1))]) ds
  | .select =>
    map3 (fun c x y =>
      let (r, g) := if predicate 1 c.v Val.zero && !c.v.isNan then selRes x (f 1)
                    else if c.v.isNan then selRes x (f 1) else selRes y (f 2)
      (r, g ||| fIf c.v.isSNan fInvalid)) ds
  | .compare =>
    map3 (fun x y _ => (.val (valOfInt (if predicate (b.scal 0x18 1) x.v y.v then 1 else 0)) true, snan2 x.v y.v)) ds
  | .abs => map3 (fun x _ _ => (.val (valAbs x.v) false, 0)) ds
  | .neg => map3 (fun x _ _ => (.val (valNeg x.v) false, 0)) ds
  | .relu => map3 (fun x _ _ => extremeRes true [(x.v, fmtIsInt (f 0)), (Val.zero, fmtIsInt (f 0))]) ds
  | .clamp =>
    let lo := decodeFp spec64 (b.scal 0x20 8)
    let hi := decodeFp spec64 (b.scal 0x28 8)
    map3 (fun x _ _ =>
      let (v, s, g) := extreme true [(x.v, fmtIsInt (f 0)), (lo, false)]
      if v.isNan then (.val v false, g) else extremeRes false [(v, s), (hi, false)]) ds
  | .unary =>
    let f64 := f 0 == .fp64 || (b.out 0).fmt == .fp64
    let fn := (fnOfCode (b.scal 0x18 1)).getD .exp
    map3 (fun x _ _ => let r := fnEval fn f64 (f 0) x.v; (.fn r, r.fl)) ds
  | .dropout =>
    let d0 := dat ds 0
    let sc := decodeFp spec32 (b.scal 0x20 4)
    oneOut (d0.els.zipIdx.map fun (x, e) =>
      let u := wispDraw key (BitVec.ofNat 32 (b.scal 0x18 4)) (BitVec.ofNat 64 e) 0
      if u < b.scal 0x1C 4 then (.val Val.zero false, 0) else vres (valMul x.v sc))
  | .randomUniform =>
    oneOut ((List.range (b.out 0).count).map fun e =>
      let u := wispDraw key (BitVec.ofNat 32 (b.scal 0x18 4)) (BitVec.ofNat 64 e) (BitVec.ofNat 32 (b.scal 0x24 4))
      (.val (.mk false u (-32)) false, 0))
  | .cast =>
    map3 (fun x _ _ => if f 0 == .peat then (.sum x.pt, 0) else (.val x.v (fmtIsInt (f 0)), 0)) ds
  | .peatRound => map3 (fun x _ _ => (.sum x.pt, 0)) ds
  | .peatAccumulate =>
    map3 (fun w x _ =>
      if f 1 == .peat then (.sum (peatAdd w.pt x.pt), 0)
      else let (v, g) := termOne x.v; (.sum (peatAddTerm w.pt v), g)) ds
  | _ => ⟨[], 0⟩

/-- A pattern copied unchanged, with its scale byte in a block-scaled format. -/
def rawOf (f : Fmt) (e : El) : Res := .raw e.raw (if fmtIsMx f then some e.scale else none)

/-- A copied element: unchanged where the formats are equal, cast under R59 otherwise (R44, R129). -/
def copyRes (src dst : Fmt) (e : El) : Res := if src == dst then rawOf src e else .val e.v (fmtIsInt src)

/-- COPY, PERMUTE and FILL (Table 5-4). -/
def evalMove (k : OpK) (b : PBlock) (ds : List Data) : OpOut :=
  let d := dat ds 0
  match k with
  | .copy => ⟨[d.els.map (rawOf d.fmt)], 0⟩
  | .permute =>
    let ps := (List.range d.sh.length).map fun a => b.scal (0x18 + a) 1
    let y := ps.map (nth d.sh)
    -- output axis a takes input axis PERM[a]
    let src (idx : List Nat) : List Nat := (List.range d.sh.length).map fun a => nth idx (ps.idxOf a)
    ⟨[(allIdx y).map fun idx => rawOf d.fmt (d.at (src idx))], 0⟩
  | _ => ⟨[(List.range (b.out 0).count).map fun _ => .raw (b.scal 0x20 8) none], 0⟩

/-- An index element as an integer. -/
def idxVal (e : El) : Int := exRint (match e.v with | .fin x => x | _ => exOfInt 0 0)

/-- An index within a length. -/
def idxIn (e : El) (n : Nat) : Option Nat :=
  let i := idxVal e
  if 0 ≤ i ∧ i < n then some i.toNat else none

/-- What an invalid index gives: +0, 0, or a zero peat word (R129, R520). -/
def zeroRes (dst : Fmt) : Res := if dst == .peat then .raw 0 none else .val Val.zero false

/-- GATHER along an axis (R129). -/
def evalGather (a : Nat) (dst : Fmt) (ds : List Data) : OpOut :=
  let x := dat ds 0
  let ix := dat ds 1
  let r := ix.sh.length
  let y := x.sh.take a ++ ix.sh ++ x.sh.drop (a + 1)
  oneOut ((allIdx y).map fun idx =>
    match idxIn (ix.at ((idx.drop a).take r)) (nth x.sh a) with
    | some i => (copyRes x.fmt dst (x.at (idx.take a ++ i :: idx.drop (a + r))), 0)
    | none => (zeroRes dst, fInvalid))

/-- An offset tensor is valid: starts at 0, is non-decreasing, ends at `n` (R120). -/
def offsetsOk (os : List Int) (n : Nat) : Bool :=
  os.headD 1 == 0 && os.getLastD (-1) == (n : Int) && (os.zip os.tail).all fun (a, b) => decide (a ≤ b)

/-- EMBEDDING_BAG (R129). -/
def evalBag (b : PBlock) (ds : List Data) : OpOut :=
  let t := dat ds 0
  let ix := dat ds 1
  let off := (dat ds 2).els.map idxVal
  let hasW := decide (ds.length = 4)
  let w := dat ds 3
  let rowLen := t.sh.drop 1
  let nb := off.length - 1
  let n := ix.els.length
  let bad := fIf (ix.els.any fun e => (idxIn e (nth t.sh 0)).isNone) fInvalid
  if offsetsOk off n then
    let r := oneOut ((allIdx (nb :: rowLen)).map fun idx =>
      let bag := nth idx 0
      let lo := (off.getD bag 0).toNat
      let hi := (off.getD (bag + 1) 0).toNat
      let terms := (List.range (hi - lo)).filterMap fun j =>
        (idxIn (ix.lin (lo + j)) (nth t.sh 0)).map fun i =>
          let x := t.v (i :: idx.drop 1)
          if hasW then termMul (w.lin (lo + j)).v x else termOne x
      let (p, f) := sumTerms terms
      if b.scal 0x1B 1 = 1 ∧ hi > lo then (.val (peatMean p (hi - lo)) false, f) else (.sum p, f))
    { r with fl := r.fl ||| fIf (decide (prodL (nb :: rowLen) > 0)) bad }
  else ⟨[(List.range (b.out 0).count).map fun _ => .val Val.zero false], fIf (decide ((b.out 0).count > 0)) fInvalid⟩

/-- `out(x)` of an element (R118): a PEAT word moves whole with its flags (R520); another is rounded into the output's
format. -/
def outRes (f : Fmt) (e : El) : Res := if f == .peat then .raw e.raw none else .val e.v (fmtIsInt f)

/-- The SCATTER operations (R130). DESIGN CHOICE: an integer leaf enters the FP64 tree of SCATTER_ADD at its exact value; R102 does
not say whether it is cast first. -/
def evalScatter (k : OpK) (b : PBlock) (ds : List Data) : OpOut :=
  let a := b.scal 0x18 1
  let x := dat ds 0
  let ix := dat ds 1
  let u := dat ds 2
  let len := nth x.sh a
  let bad := fIf ((ix.els.any fun e => (idxIn e len).isNone) && decide (0 < u.els.length ∧ 0 < x.els.length)) fInvalid
  let f64 := x.fmt == .fp64 || u.fmt == .fp64
  let r := oneOut ((allIdx x.sh).map fun idx =>
    let e := x.at idx
    -- the updates naming this target, in ascending logical index
    let us := (List.range ix.els.length).filterMap fun j =>
      if idxIn (ix.lin j) len = some (nth idx a) then some (u.at (setAt idx a j)) else none
    match us with
    | [] => (outRes x.fmt e, 0)
    | _ =>
      match k with
      | .scatter => (match us.getLast? with | some l => outRes u.fmt l | none => outRes x.fmt e, 0)
      | .scatterAdd =>
        if f64 then let (v, f) := treeOf (e.v :: us.map El.v); (.val v false, f)
        else let (p, f) := sumTerms ((e :: us).map fun y => termOne y.v); (.sum p, f)
      | _ =>
        extremeRes (k == .scatterMax) ((e.v, fmtIsInt x.fmt) :: us.map fun y => (y.v, fmtIsInt u.fmt)))
  { r with fl := r.fl ||| bad }

/-- `a` ranks before `b` in key order (R131): −∞ < finite < +∞ < NaN. -/
def keyLt (a b : Val) : Bool := if b.isNan then !a.isNan else if a.isNan then false else valLt a b

/-- Insert behind equal keys: a stable insertion sort. -/
def insertKey (desc : Bool) (x : El × Nat) : List (El × Nat) → List (El × Nat)
  | [] => [x]
  | y :: ys =>
    let before := if desc then keyLt y.1.v x.1.v else keyLt x.1.v y.1.v
    if before then x :: y :: ys else y :: insertKey desc x ys

/-- Stable sort of a run with original positions. -/
def sortRun (desc : Bool) (l : List El) : List (El × Nat) :=
  l.zipIdx.foldl (fun acc x => insertKey desc x acc) []

/-- The elements along one axis at a position of the others. -/
def axisRun (d : Data) (a : Nat) (idx : List Nat) : List El :=
  (List.range (nth d.sh a)).map fun i => d.at (setAt idx a i)

/-- TOPK, SORT, ARGMAX and ARGMIN (R131). -/
def evalOrder (k : OpK) (b : PBlock) (ds : List Data) : OpOut :=
  let d := dat ds 0
  let a := b.scal 0x18 1
  let fl := fIf (d.els.any fun e => e.v.isSNan) fInvalid
  match k with
  | .argmax | .argmin =>
    let y := setAt d.sh a 1
    ⟨[(allIdx y).map fun idx =>
      let run := axisRun d a idx
      let i := match k with
        | .argmax => ((sortRun true run).map Prod.snd).headD 0
        | _ =>
          match run.findIdx? (fun e => e.v.isNan) with
          | some j => j
          | none => ((sortRun false run).map Prod.snd).headD 0
      .val (valOfInt i) true], fIf (decide (prodL y > 0)) fl⟩
  | _ =>
    let n := if k == .topk then b.scal 0x1C 4 else nth d.sh a
    let y := setAt d.sh a n
    let desc := decide (b.scal 0x19 1 = 0)
    let ranked (idx : List Nat) : El × Nat := (sortRun desc (axisRun d a idx)).getD (nth idx a) (El.zero, 0)
    let vals := (allIdx y).map fun idx => Res.val (ranked idx).1.v (fmtIsInt d.fmt)
    let idxs := (allIdx y).map fun idx => Res.val (valOfInt (ranked idx).2) true
    ⟨[vals, idxs], fl⟩

/-- The elements that a reduction joins at one output index, in logical order of the reduced axes. -/
def reduceRun (d : Data) (as : List Nat) (idx : List Nat) : List El :=
  let lens := as.map (nth d.sh)
  (allIdx lens).map fun j => d.at ((as.zip j).foldl (fun i (a, x) => setAt i a x) idx)

/-- Variance (R100). -/
def variance (f64 : Bool) (c : Nat) (l : List El) : Res × FlagWord :=
  let n := l.length
  if f64 then
    let (s, f1) := treeRounded (l.map El.v)
    let (q0, g0) := valDiv s (valOfInt n)
    let (mb, f2) := castFp spec64 .rne 0 q0
    let m := decodeFp spec64 mb
    let ds := l.map fun e => fadd64 e.v (valNeg m)
    let sq := ds.map fun (d, _) => fmul64 d d
    let (q, f4) := treeRounded (sq.map Prod.fst)
    let (r, f5) := valDiv q (valOfInt ((n : Int) - c))
    (.val r false, f1 ||| g0 ||| f2 ||| orFlags (ds.map Prod.snd) ||| orFlags (sq.map Prod.snd) ||| f4 ||| f5)
  else
    let (p, f1) := sumTerms (l.map fun e => termOne e.v)
    let (m, f2) := meanRne32 p n
    let ds := l.map fun e => step32 (valAdd false e.v (valNeg m))
    let (q, f4) := dotTerms (ds.map fun (d, _) => (d, d))
    (.val (peatMean q (n - c)) false, f1 ||| f2 ||| orFlags (ds.map Prod.snd) ||| f4)

/-- The reductions (R96 … R100, R132). -/
def evalReduce (k : OpK) (b : PBlock) (ds : List Data) : OpOut :=
  let d := dat ds 0
  let as := (maskAxes (b.scal 0x18 1))
  let y := d.sh.zipIdx.map fun (l, a) => if as.contains a then 1 else l
  let f64 := d.fmt == .fp64
  oneOut ((allIdx y).map fun idx =>
    let l := reduceRun d as idx
    match k with
    | .reduceSum =>
      if f64 then let (v, f) := treeOf (l.map El.v); (.val v false, f)
      else let (p, f) := sumEls d.fmt l; (.sum p, f)
    | .reduceMax => extremeRes true (l.map fun e => (e.v, fmtIsInt d.fmt))
    | .reduceMin => extremeRes false (l.map fun e => (e.v, fmtIsInt d.fmt))
    | .reduceMean =>
      if f64 then
        let (s, f) := treeRounded (l.map El.v)
        let (q, g) := valDiv s (valOfInt l.length)
        (.val q false, f ||| g)
      else let (p, f) := sumTerms (l.map fun e => termOne e.v); (.val (peatMean p l.length) false, f)
    | _ => variance f64 (b.scal 0x19 1) l)

/-- CUMSUM (R132). -/
def evalCumsum (b : PBlock) (ds : List Data) : OpOut :=
  let d := dat ds 0
  let a := b.scal 0x18 1
  oneOut ((allIdx d.sh).map fun idx =>
    let i := nth idx a
    let l := (axisRun d a idx).take (if b.scal 0x1A 1 = 1 then i else i + 1)
    if d.fmt == .fp64 then let (v, f) := treeOf (l.map El.v); (.val v false, f)
    else let (p, f) := sumEls d.fmt l; (.sum p, f))

/-- Matrix products (R119, R120). -/
def evalMatmul (k : OpK) (b : PBlock) (ds : List Data) : OpOut :=
  let A := dat ds 0
  let B := dat ds 1
  let addC (c : Option (Data × List Nat)) (pf : Peat × FlagWord) : Res × FlagWord :=
    match c with
    | none => (.sum pf.1, pf.2)
    | some (C, idx) =>
      let e := C.at idx
      if C.fmt == .peat then (.sum (peatAdd pf.1 e.pt), pf.2)
      else let (v, f) := termOne e.v; (.sum (peatAddTerm pf.1 v), pf.2 ||| f)
  match k with
  | .matmul =>
    let kk := nth A.sh 1
    oneOut ((allIdx [nth A.sh 0, nth B.sh 1]).map fun idx =>
      let i := nth idx 0; let j := nth idx 1
      addC (if ds.length = 3 then some (dat ds 2, idx) else none)
        (dotTerms ((List.range kk).map fun t => (A.v [i, t], B.v [t, j]))))
  | .matmulBatched =>
    let kk := nth A.sh 2
    oneOut ((allIdx [nth A.sh 0, nth A.sh 1, nth B.sh 2]).map fun idx =>
      let n := nth idx 0; let i := nth idx 1; let j := nth idx 2
      addC (if ds.length = 3 then some (dat ds 2, idx) else none)
        (dotTerms ((List.range kk).map fun t => (A.v [n, i, t], B.v [n, t, j]))))
  | .matmulGrouped =>
    let off := (dat ds 2).els.map idxVal
    let m := nth A.sh 0
    let kk := nth A.sh 1
    if offsetsOk off m then
      oneOut ((allIdx [m, nth B.sh 2]).map fun idx =>
        let i := nth idx 0; let j := nth idx 1
        let g := ((List.range (off.length - 1)).find? fun g =>
          decide (off.getD g 0 ≤ i) && decide ((i : Int) < off.getD (g + 1) 0)).getD 0
        addC (if ds.length = 4 then some (dat ds 3, idx) else none)
          (dotTerms ((List.range kk).map fun t => (A.v [i, t], B.v [g, t, j]))))
    else
      ⟨[(List.range (b.out 0).count).map fun _ => .sum Peat.zero], fIf (decide ((b.out 0).count > 0)) fInvalid⟩
  | _ =>
    let kk := nth A.sh 1
    oneOut ((allIdx [nth A.sh 0, nth B.sh 1]).map fun idx =>
      let i := nth idx 0; let j := nth idx 1
      let ls := (List.range kk).map fun t => fmul64 (A.v [i, t]) (B.v [t, j])
      let (v, f) := treeOf (ls.map Prod.fst)
      (.val v false, f ||| orFlags (ls.map Prod.snd)))

/-- The source position x(p, r) of one spatial axis, if it lies inside (R122). -/
def convPos (b : PBlock) (a p r n : Nat) : Option Nat :=
  let x : Int := (p * b.scal (0x1C + 2 * a) 2 : Nat) + (r * b.scal (0x22 + 2 * a) 2 : Nat) - (b.scal (0x28 + 2 * a) 2 : Nat)
  if 0 ≤ x ∧ x < n then some x.toNat else none

/-- Source positions over all spatial axes. -/
def convPosAll (b : PBlock) : Nat → List Nat → List Nat → List Nat → Option (List Nat)
  | a, p :: ps, r :: rs, n :: ns =>
    match convPos b a p r n, convPosAll b (a + 1) ps rs ns with
    | some x, some xs => some (x :: xs)
    | _, _ => none
  | _, _, _, _ => some []

/-- The CONV family (R122). -/
def evalConv (k : OpK) (b : PBlock) (ds : List Data) : OpOut :=
  let X := dat ds 0
  let W := dat ds 1
  let g := b.scal 0x1A 2
  let bias (co : Nat) (pf : Peat × FlagWord) : Res × FlagWord :=
    if ds.length = 3 then
      let (v, f) := termOne ((dat ds 2).lin co).v
      (.sum (peatAddTerm pf.1 v), pf.2 ||| f)
    else (.sum pf.1, pf.2)
  match k with
  | .conv =>
    let cin := nth X.sh 1; let y := (b.out 0).shape; let cout := nth y 1
    oneOut ((allIdx y).map fun idx =>
      let n := nth idx 0; let co := nth idx 1; let gi := co / (cout / g)
      bias co (dotTerms ((allIdx ((cin / g) :: W.sh.drop 2)).filterMap fun cr =>
        (convPosAll b 0 (idx.drop 2) (cr.drop 1) (X.sh.drop 2)).map fun xs =>
          (X.v (n :: (gi * (cin / g) + nth cr 0) :: xs), W.v (co :: cr)))))
  | .convTransposed =>
    let cin := nth X.sh 1; let y := (b.out 0).shape; let cout := nth y 1
    oneOut ((allIdx y).map fun idx =>
      let n := nth idx 0; let co := nth idx 1; let gi := co / (cout / g)
      bias co (dotTerms ((allIdx ((cin / g) :: (X.sh.drop 2 ++ W.sh.drop 2))).filterMap fun cpr =>
        let c := gi * (cin / g) + nth cpr 0
        let p := (cpr.drop 1).take (X.sh.length - 2)
        let r := cpr.drop (X.sh.length - 1)
        if convPosAll b 0 p r (y.drop 2) = some (idx.drop 2) then
          some (X.v (n :: c :: p), W.v (c :: (co % (cout / g)) :: r))
        else none)))
  | _ =>
    let cin := nth X.sh 1; let cout := nth W.sh 1
    oneOut ((allIdx (b.out 0).shape).map fun idx =>
      let co := nth idx 0; let gi := co / (cout / g)
      let pf := dotTerms ((allIdx (nth W.sh 0 :: W.sh.drop 2)).filterMap fun np =>
        (convPosAll b 0 (np.drop 1) (idx.drop 2) (X.sh.drop 2)).map fun xs =>
          (W.v (nth np 0 :: co :: np.drop 1), X.v (nth np 0 :: (gi * (cin / g) + nth idx 1) :: xs)))
      (.sum pf.1, pf.2))

/-- A score: rne32(SCALE × exact dot) (R123). -/
def score (scale : Val) (q kk : List Val) : Val × FlagWord :=
  let (p, f) := dotTerms (q.zip kk)
  let (v, g) := valMul scale (peatVal p)
  let (w, h) := rne32 v
  (w, f ||| g ||| h)

/-- Key `j` is admitted for query `i` (R123). -/
def admitted (b : PBlock) (mask : Data) (bt i j : Nat) : Bool :=
  match b.scal 0x1C 1 with
  | 0 => true
  | 1 => decide ((j : Int) ≤ (i : Int) + toSigned 64 (b.scal 0x20 8))
  | _ => idxVal (mask.at [bt, i, j]) != 0

/-- Row `[…, :]` of a tensor's last axis. -/
def lastRow (d : Data) (idx : List Nat) : List Val :=
  (List.range (nth d.sh (d.sh.length - 1))).map fun e => d.v (idx ++ [e])

/-- One query row of ATTENTION: the outputs of the row and its lse (R123). -/
def attnRow (b : PBlock) (mask : Data) (K V : Data) (scale : Val) (q : List Val) (bt hk i : Nat) :
    List (Res × FlagWord) × (Res × FlagWord) :=
  let lk := nth K.sh 2
  let dv := nth V.sh 3
  let ss : List (Nat × Val × FlagWord) := (List.range lk).filterMap fun j =>
    if admitted b mask bt i j then some (j, score scale q (lastRow K [bt, hk, j])) else none
  let f0 := orFlags (ss.map fun (_, (_, f)) => f)
  if ss.isEmpty then
    ((List.range dv).map fun _ => (.val Val.zero false, 0), (.val (.inf true) false, 0))
  else if ss.any (fun (_, (s, _)) => s.isNan || s == .inf false) then
    ((List.range dv).map fun _ => (.val (.nan false) false, f0 ||| fInvalid), (.val (.nan false) false, f0 ||| fInvalid))
  else
    let blocks : List (List (Nat × Val × FlagWord)) := ((List.range (ceilDiv lk 128)).map fun n => ss.filter fun (j, _) => decide (j / 128 = n)).filter
      fun l => !l.isEmpty
    let parts := blocks.map fun (l : List (Nat × Val × FlagWord)) =>
      let (m, _, _) := extreme true (l.map fun (_, (s, _)) => (s, false))
      let ps : List (Nat × Val × FlagWord) := l.map fun ((j, (s, _)) : Nat × Val × FlagWord) =>
        let (d, f1) := step32 (valAdd false s (valNeg m))
        let (p, f2) := f32 .exp d
        (j, p, f1 ||| f2)
      let (lsum, f3) := sumRne32 (sumTerms (ps.map fun (y : Nat × Val × FlagWord) => termOne y.2.1))
      let os := (List.range dv).map fun e =>
        sumRne32 (dotTerms (ps.map fun (y : Nat × Val × FlagWord) => (y.2.1, V.v [bt, hk, y.1, e])))
      (m, lsum, os, orFlags (ps.map fun (y : Nat × Val × FlagWord) => y.2.2) ||| f3 ||| orFlags (os.map Prod.snd))
    let (M, _, _) := extreme true (parts.map fun (m, _) => (m, false))
    let cs := parts.map fun (m, _) =>
      let (d, f1) := step32 (valAdd false m (valNeg M))
      let (c, f2) := f32 .exp d
      (c, f1 ||| f2)
    let (L, f4) := sumRne32 (dotTerms ((cs.zip parts).map fun ((c, _), (_, l, _, _)) => (c, l)))
    let fl := f0 ||| f4 ||| orFlags (parts.map fun (_, _, _, f) => f) ||| orFlags (cs.map Prod.snd)
    let outs := (List.range dv).map fun e =>
      let (p, f5) := dotTerms ((cs.zip parts).map fun ((c, _), (_, _, os, _)) => (c, (os.getD e (Val.zero, 0)).1))
      let (v, f6) := valDiv (peatVal p) L
      (Res.val v false, fl ||| f5 ||| f6)
    let (lg, f7) := f32 .log L
    let (s, f8) := step32 (valAdd false M lg)
    (outs, (.val s false, fl ||| f7 ||| f8))

/-- ATTENTION (R123). -/
def evalAttention (b : PBlock) (ds : List Data) : OpOut :=
  let Q := dat ds 0; let K := dat ds 1; let V := dat ds 2; let mask := dat ds 3
  let scale := decodeFp spec32 (b.scal 0x18 4)
  let h := nth Q.sh 1; let hk := nth K.sh 1
  let rows := (allIdx (Q.sh.take 3)).map fun idx =>
    attnRow b mask K V scale (lastRow Q idx) (nth idx 0) (nth idx 1 / (h / hk)) (nth idx 2)
  let (o, f1) := splitRes (rows.map Prod.fst).flatten
  let (l, f2) := splitRes (rows.map Prod.snd)
  if b.outs.length = 2 then ⟨[o, l], f1 ||| f2⟩ else ⟨[o], f1⟩

/-- P[i, j] of the backward pass (R124). -/
def attnProb (b : PBlock) (mask : Data) (scale lse : Val) (q kk : List Val) (bt i j : Nat) : Val × FlagWord :=
  if !admitted b mask bt i j || lse == .inf true then (Val.zero, 0)
  else
    let (s, f1) := score scale q kk
    let (d, f2) := step32 (valAdd false s (valNeg lse))
    let (p, f3) := f32 .exp d
    (p, f1 ||| f2 ||| f3)

/-- ATTENTION_BWD (R124). -/
def evalAttentionBwd (b : PBlock) (ds : List Data) : OpOut :=
  let Q := dat ds 0; let K := dat ds 1; let V := dat ds 2; let O := dat ds 3; let dO := dat ds 4; let lse := dat ds 5
  let mask := dat ds 6
  let scale := decodeFp spec32 (b.scal 0x18 4)
  let bt := nth Q.sh 0; let h := nth Q.sh 1; let lq := nth Q.sh 2; let d := nth Q.sh 3
  let hk := nth K.sh 1; let lk := nth K.sh 2; let dv := nth V.sh 3
  let rep := h / hk
  -- P and dS of every (batch, head, query, key)
  let cells := (allIdx [bt, h, lq, lk]).map fun idx =>
    let t := nth idx 0; let hh := nth idx 1; let i := nth idx 2; let j := nth idx 3
    let (p, f1) := attnProb b mask scale (lse.v [t, hh, i]) (lastRow Q [t, hh, i]) (lastRow K [t, hh / rep, j]) t i j
    let (D, f2) := sumRne32 (dotTerms ((lastRow dO [t, hh, i]).zip (lastRow O [t, hh, i])))
    let (dP, f3) := sumRne32 (dotTerms ((lastRow dO [t, hh, i]).zip (lastRow V [t, hh / rep, j])))
    let (x, f4) := valAdd false dP (valNeg D)
    let (y, f5) := valMul p x
    let (dS, f6) := rne32 y
    -- an output of no elements raises no flag (R118): dS feeds dQ and dK alone
    (p, dS, (if d + dv = 0 then 0 else f1) ||| (if d = 0 then 0 else orFlags [f2, f3, f4, f5, f6]))
  let cell (t hh i j : Nat) : Val × Val × FlagWord :=
    cells.getD (ravel [bt, h, lq, lk] [t, hh, i, j]) (Val.zero, Val.zero, 0)
  let fl := orFlags (cells.map fun (_, _, f) => f)
  let scaled (pf : Peat × FlagWord) : Res × FlagWord :=
    let (v, f) := valMul scale (peatVal pf.1)
    (.val v false, pf.2 ||| f)
  let (dQ, f1) := splitRes ((allIdx [bt, h, lq, d]).map fun idx =>
    let t := nth idx 0; let hh := nth idx 1; let i := nth idx 2; let e := nth idx 3
    scaled (dotTerms ((List.range lk).map fun j => ((cell t hh i j).2.1, K.v [t, hh / rep, j, e]))))
  let (dK, f2) := splitRes ((allIdx [bt, hk, lk, d]).map fun idx =>
    let t := nth idx 0; let kh := nth idx 1; let j := nth idx 2; let e := nth idx 3
    scaled (dotTerms ((allIdx [rep, lq]).map fun hi =>
      let hh := kh * rep + nth hi 0
      ((cell t hh (nth hi 1) j).2.1, Q.v [t, hh, nth hi 1, e]))))
  let (dV, f3) := splitRes ((allIdx [bt, hk, lk, dv]).map fun idx =>
    let t := nth idx 0; let kh := nth idx 1; let j := nth idx 2; let e := nth idx 3
    let (p, f) := dotTerms ((allIdx [rep, lq]).map fun hi =>
      let hh := kh * rep + nth hi 0
      ((cell t hh (nth hi 1) j).1, dO.v [t, hh, nth hi 1, e]))
    (.sum p, f))
  ⟨[dQ, dK, dV], fl ||| f1 ||| f2 ||| f3⟩

/-- Steps 2 … 4 of LAYERNORM after the mean: r (R125). -/
def normRsqrt (eps : Val) (q : Peat × FlagWord) (n : Nat) : Val × FlagWord :=
  let (v, f1) := meanRne32 q.1 n
  let (w, f2) := step32 (valAdd false v eps)
  let (r, f3) := f32 .rsqrt w
  (r, q.2 ||| f1 ||| f2 ||| f3)

/-- One normalised set with a mean: y, m, r (R125). `gb` gives γ and β of each element. -/
def layerSet (eps : Val) (xs : List El) (gb : List (Val × Val)) :
    List (Res × FlagWord) × (Res × FlagWord) × (Res × FlagWord) :=
  let (s, f1) := sumTerms (xs.map fun e => termOne e.v)
  let (m, f2) := meanRne32 s xs.length
  let ds := xs.map fun e => step32 (valAdd false e.v (valNeg m))
  let (r, f3) := normRsqrt eps (dotTerms (ds.map fun (d, _) => (d, d))) xs.length
  let fl := f1 ||| f2 ||| f3 ||| orFlags (ds.map Prod.snd)
  let ys := (ds.zip gb).map fun ((d, _), (g, bb)) =>
    let (h, f4) := step32 (valMul d r)
    let (y, f5) := valFma false h g bb
    (Res.val y false, fl ||| f4 ||| f5)
  (ys, (.val m false, fl), (.val r false, fl))

/-- One RMSNORM set: y, r (R125). -/
def rmsSet (eps : Val) (xs : List El) (gs : List Val) : List (Res × FlagWord) × (Res × FlagWord) :=
  let (r, f3) := normRsqrt eps (dotTerms (xs.map fun e => (e.v, e.v))) xs.length
  let ys := (xs.zip gs).map fun (x, g) =>
    let (h, f4) := step32 (valMul x.v r)
    let (y, f5) := valMul h g
    (Res.val y false, f3 ||| f4 ||| f5)
  (ys, (.val r false, f3))

/-- LAYERNORM, RMSNORM and GROUPNORM (R125). -/
def evalNorm (k : OpK) (b : PBlock) (ds : List Data) : OpOut :=
  let x := dat ds 0; let g := dat ds 1; let be := dat ds 2
  let eps := decodeFp spec32 (b.scal 0x18 4)
  let three (sets : List (List (Res × FlagWord) × (Res × FlagWord) × (Res × FlagWord))) : OpOut :=
    let (y, f) := splitRes (sets.map fun s => s.1).flatten
    let (m, f1) := splitRes (sets.map fun s => s.2.1)
    let (r, f2) := splitRes (sets.map fun s => s.2.2)
    if b.outs.length = 3 then ⟨[y, m, r], f ||| f1 ||| f2⟩ else ⟨[y], f⟩
  match k with
  | .layernorm =>
    let n := g.els.length
    three ((chunksOf n x.els).map fun xs => layerSet eps xs ((List.range n).map fun i => ((g.lin i).v, (be.lin i).v)))
  | .groupnorm =>
    let ch := nth x.sh 1
    let per := ch / b.scal 0x20 4
    let sp := prodL (x.sh.drop 2)
    let n := per * sp
    three ((chunksOf n x.els).zipIdx.map fun (xs, si) =>
      let c0 := si % b.scal 0x20 4 * per
      layerSet eps xs ((List.range n).map fun i => ((g.lin (c0 + i / sp)).v, (be.lin (c0 + i / sp)).v)))
  | _ =>
    let n := g.els.length
    let sets := (chunksOf n x.els).map fun xs => rmsSet eps xs (g.els.map El.v)
    let (y, f) := splitRes (sets.map Prod.fst).flatten
    let (r, f1) := splitRes (sets.map Prod.snd)
    if b.outs.length = 2 then ⟨[y, r], f ||| f1⟩ else ⟨[y], f⟩

/-- Backward set: xh, g, and the flags of forming them (R126). `m` is absent for RMSNORM. -/
def bwdTerms (m : Option Val) (r : Val) (xs dys : List El) (gs : List Val) : List (Val × Val × FlagWord) :=
  ((xs.zip dys).zip gs).map fun ((x, dy), g) =>
    let (c, f1) := match m with
      | some mm => step32 (valAdd false x.v (valNeg mm))
      | none => (x.v, 0)
    let (xh, f2) := step32 (valMul c r)
    let (gi, f3) := step32 (valMul dy.v g)
    (xh, gi, f1 ||| f2 ||| f3)

/-- One dx element: r × (g − A − xh × B), one rounding (R126). -/
def dxRes (r : Val) (A : Option Val) (B xh g : Val) : Res × FlagWord :=
  let (t, f1) := match A with
    | some a => valAdd false g (valNeg a)
    | none => (g, 0)
  let (p, f2) := valMul xh B
  let (u, f3) := valAdd false t (valNeg p)
  let (v, f4) := valMul r u
  (.val v false, f1 ||| f2 ||| f3 ||| f4)

/-- LAYERNORM_BWD and RMSNORM_BWD (R126). -/
def evalNormBwd (k : OpK) (ds : List Data) : OpOut :=
  let ln := k == .layernormBwd
  let x := dat ds 0; let g := dat ds 1
  let m := dat ds 2
  let r := if ln then dat ds 3 else dat ds 2
  let dy := if ln then dat ds 4 else dat ds 3
  let n := g.els.length
  let runs : List ((List El × List El) × Nat) := ((chunksOf n x.els).zip (chunksOf n dy.els)).zipIdx
  let sets : List (List (Res × FlagWord) × List Val × FlagWord) := runs.map fun (((xs, dys), si) : (List El × List El) × Nat) =>
    let rv := (r.lin si).v
    let ts : List (Val × Val × FlagWord) := bwdTerms (if ln then some (m.lin si).v else none) rv xs dys (g.els.map El.v)
    let (pa, fa) := sumTerms (ts.map fun (_, gi, _) => termOne gi)
    let (A, fa2) := meanRne32 pa n
    let (pb, fb) := dotTerms (ts.map fun (xh, gi, _) => (gi, xh))
    let (B, fb2) := meanRne32 pb n
    let fl := orFlags (ts.map fun (_, _, f) => f) ||| fb ||| fb2 ||| (if ln then fa ||| fa2 else 0)
    let dx := ts.map fun (xh, gi, _) => dxRes rv (if ln then some A else none) B xh gi
    (dx, ts.map (fun (xh, _, _) => xh), fl)
  let (dx, f0) := splitRes (sets.map fun s => s.1).flatten
  let fl := f0 ||| orFlags (sets.map fun s => s.2.2)
  let xhs := sets.map fun s => s.2.1
  let dg := splitRes ((List.range n).map fun i =>
    let (p, f) := dotTerms (xhs.zipIdx.map fun (xh, si) => ((dy.lin (si * n + i)).v, xh.getD i Val.zero))
    (Res.sum p, f))
  let db := splitRes ((List.range n).map fun i =>
    let (p, f) := sumTerms (xhs.zipIdx.map fun (_, si) => termOne (dy.lin (si * n + i)).v)
    (Res.sum p, f))
  if ln then ⟨[dx, dg.1, db.1], fl ||| dg.2 ||| db.2⟩ else ⟨[dx, dg.1], fl ||| dg.2⟩

/-- One softmax run: m, the exponentials and S (R101). -/
def softmaxCore (xs : List El) : Val × List (Val × Val) × Val × FlagWord :=
  let (m, _, f0) := extreme true (xs.map fun e => (e.v, false))
  let es := xs.map fun e =>
    let (d, f1) := step32 (valAdd false e.v (valNeg m))
    let (p, f2) := f32 .exp d
    (d, p, f1 ||| f2)
  let (S, f3) := sumRne32 (sumTerms (es.map fun (_, p, _) => termOne p))
  (m, es.map (fun (d, p, _) => (d, p)), S, f0 ||| f3 ||| orFlags (es.map fun (_, _, f) => f))

/-- One run of SOFTMAX or LOG_SOFTMAX (R101, R125). -/
def softmaxRun (lg : Bool) (xs : List El) : List (Res × FlagWord) :=
  let (m, _, f0) := extreme true (xs.map fun e => (e.v, false))
  match m with
  | .nan _ => xs.map fun _ => (.val (.nan false) false, f0)
  | .inf false => xs.map fun _ => (.val (.nan false) false, fInvalid)
  | .inf true => xs.map fun _ => (.val (if lg then .inf true else Val.zero) false, 0)
  | .fin _ =>
    let (_, es, S, fl) := softmaxCore xs
    let (ls, f1) := f32 .log S
    es.map fun (d, p) =>
      if lg then let (v, f) := valAdd false d (valNeg ls); (.val v false, fl ||| f1 ||| f)
      else let (v, f) := valDiv p S; (.val v false, fl ||| f)

/-- One run of SOFTMAX_BWD (R126). -/
def softmaxBwdRun (ys dys : List El) : List (Res × FlagWord) :=
  let (D, f0) := sumRne32 (dotTerms ((ys.map El.v).zip (dys.map El.v)))
  (ys.zip dys).map fun (y, dy) =>
    let (t, f1) := valAdd false dy.v (valNeg D)
    let (v, f2) := valMul y.v t
    (.val v false, f0 ||| f1 ||| f2)

/-- The SOFTMAX family along its axis (R101, R125, R126). -/
def evalSoftmax (k : OpK) (b : PBlock) (ds : List Data) : OpOut :=
  let x := dat ds 0
  let a := (maskAxes (b.scal 0x18 1)).headD 0
  oneOut ((allIdx x.sh).map fun idx =>
    let run := axisRun x a idx
    let rs := match k with
      | .softmax => softmaxRun false run
      | .logSoftmax => softmaxRun true run
      | _ => softmaxBwdRun run (axisRun (dat ds 1) a idx)
    rs.getD (nth idx a) (.val Val.zero false, 0))

/-- The sum of one element over parts, each of its own format: a part that is a peat word is added as a word (R87), and brings
INVALID with it where its terms raised it (R134). -/
def sumParts : List (Fmt × El) → Peat × FlagWord
  | [] => (Peat.zero, 0)
  | (f, e) :: es =>
    let (p, g) := sumParts es
    if f == .peat then (peatAdd p e.pt, g ||| fIf (e.scale == 1) fInvalid)
    else let (v, fl) := termOne e.v; (peatAddTerm p v, fl ||| g)

/-- Collectives, over the inputs of all participants in order of their number (R134). -/
def evalCollective (k : OpK) (b : PBlock) (rank : Nat) (xs : List Data) : OpOut :=
  let x := dat xs rank
  let p := xs.length
  let dst := (b.out 0).fmt
  let red := b.scal 0x28 1
  let reduceAt (idx : List Nat) : Res × FlagWord :=
    let es := xs.map fun d => d.at idx
    if red = 0 then
      if x.fmt == .fp64 then let (v, f) := treeOf (es.map El.v); (.val v false, f)
      else let (w, f) := sumParts (xs.map fun d => (d.fmt, d.at idx)); (.sum w, f)
    else extremeRes (red == 1) (es.map fun e => (e.v, fmtIsInt x.fmt))
  match k with
  | .allReduce => oneOut ((allIdx x.sh).map reduceAt)
  | .reduceScatter =>
    let seg := nth x.sh 0 / p
    oneOut ((allIdx (setAt x.sh 0 seg)).map fun idx => reduceAt (setAt idx 0 (rank * seg + nth idx 0)))
  | .allGather =>
    let l := nth x.sh 0
    ⟨[(allIdx (setAt x.sh 0 (l * p))).map fun idx =>
      copyRes x.fmt dst ((dat xs (nth idx 0 / l)).at (setAt idx 0 (nth idx 0 % l)))], 0⟩
  | .allToAll =>
    let seg := nth x.sh 0 / p
    ⟨[(allIdx x.sh).map fun idx =>
      copyRes x.fmt dst ((dat xs (nth idx 0 / seg)).at (setAt idx 0 (rank * seg + nth idx 0 % seg)))], 0⟩
  | _ => ⟨[(allIdx x.sh).map fun idx => copyRes x.fmt dst ((dat xs (b.scal 0x2A 2)).at idx)], 0⟩

/-- Every operation but the collectives, on the data of its inputs. -/
def evalOp (k : OpK) (b : PBlock) (key : BitVec 128) (ds : List Data) : OpOut :=
  match k with
  | .matmul | .matmulBatched | .matmulGrouped | .matmulFp64 => evalMatmul k b ds
  | .conv | .convTransposed | .convWgrad => evalConv k b ds
  | .attention => evalAttention b ds
  | .attentionBwd => evalAttentionBwd b ds
  | .layernorm | .rmsnorm | .groupnorm => evalNorm k b ds
  | .layernormBwd | .rmsnormBwd => evalNormBwd k ds
  | .softmax | .logSoftmax | .softmaxBwd => evalSoftmax k b ds
  | .copy | .permute | .fill => evalMove k b ds
  | .gather => evalGather (b.scal 0x18 1) (b.out 0).fmt ds
  | .embedding => evalGather 0 (b.out 0).fmt ds
  | .embeddingBag => evalBag b ds
  | .scatter | .scatterAdd | .scatterMax | .scatterMin => evalScatter k b ds
  | .topk | .sort | .argmax | .argmin => evalOrder k b ds
  | .reduceSum | .reduceMax | .reduceMin | .reduceMean | .reduceVar => evalReduce k b ds
  | .cumsum => evalCumsum b ds
  | _ => evalElem k b key ds

/-- The data of one input. -/
def readData (rd : Rd) (t : Tensor) : Data := ⟨t.shape, t.fmt, readTensor rd t⟩

/-- The bytes an operation writes, and its flag word (R63): outputs in order, output `o` under its own draws. -/
def writeOuts (b : PBlock) (key : BitVec 128) (r : OpOut) : Writes × FlagWord :=
  let ws := (b.outs.zip r.outs).zipIdx.map fun ((t, rs), o) => writeTensor t key o rs
  ((ws.map Prod.fst).flatten, r.fl ||| orFlags (ws.map Prod.snd))

end Sys2Proof.Machine
end

