-- ==== Sys2Proof/Machine/Ecdsa.lean ====
section
/-! DEFINITION. ECDSA on curve P-384 with SHA3-384 (R31, R36): the signatures of receipts and of SPDM responses. The curve is
that of FIPS 186-5, which the manual names. -/

namespace Sys2Proof.Machine

open Sys2Proof

/-- The prime of the field of P-384. -/
def p384Field : Nat := 2 ^ 384 - 2 ^ 128 - 2 ^ 96 + 2 ^ 32 - 1
/-- The order of the base point. -/
def p384Order : Nat := 0xFFFFFFFFFFFFFFFFFFFFFFFFFFFFFFFFFFFFFFFFFFFFFFFFC7634D81F4372DDF581A0DB248B0A77AECEC196ACCC52973

/-- A point of the curve; none is the point at infinity. -/
abbrev Point := Option (Nat × Nat)

/-- The base point. -/
def p384Base : Point :=
  some (0xAA87CA22BE8B05378EB1C71EF320AD746E1D3B628BA79B9859F741E082542A385502F25DBF55296C3A545E3872760AB7,
    0x3617DE4A96262C6F5D9E98BF9292DC29F8F41DBD289A147CE9DA3113B5F0B8C00A60B1CE1D7E819D7A431D7C90EA0E5F)

/-- The power of a number modulo m, over the low bits of the exponent. -/
def powMod (m : Nat) : Nat → Nat → Nat → Nat
  | 0, _, _ => 1 % m
  | bits + 1, a, e => (if e % 2 = 1 then a else 1) * powMod m bits (a * a % m) (e / 2) % m

/-- The inverse modulo a prime below 2^384. -/
def invMod (m a : Nat) : Nat := powMod m 384 (a % m) (m - 2)

/-- The third point of a line with slope l through a point and one with abscissa x2, reflected. -/
def chord (l : Nat) (a : Nat × Nat) (x2 : Nat) : Point :=
  let p := p384Field
  let x := (l * l + 2 * p - a.1 - x2) % p
  some (x, (l * (a.1 + p - x) + p - a.2) % p)

/-- The sum of two points of the curve y² = x³ − 3x + b. -/
def addPoint (a b : Point) : Point :=
  let p := p384Field
  match a, b with
  | none, _ => b
  | _, none => a
  | some s, some t =>
    if s.1 ≠ t.1 then chord ((t.2 + p - s.2) * invMod p (t.1 + p - s.1) % p) s t.1
    else if s.2 ≠ t.2 ∨ s.2 = 0 then none
    else chord ((3 * s.1 * s.1 + p - 3) * invMod p (2 * s.2) % p) s t.1

/-- A multiple of a point, over the low bits of the multiplier. -/
def mulPoint : Nat → Nat → Point → Point
  | 0, _, _ => none
  | bits + 1, k, a => addPoint (if k % 2 = 1 then a else none) (mulPoint bits (k / 2) (addPoint a a))

/-- The abscissa of a point modulo the order. -/
def abscissa (a : Point) : Nat := (a.map fun s => s.1 % p384Order).getD 0

/-- A number as big-endian bytes. -/
def natBe (n x : Nat) : List Byte := (natLe n x).reverse

/-- The number that big-endian bytes stand for. -/
def beNat (bs : List Byte) : Nat := leNat bs.reverse

/-- A public key in SEC1 uncompressed form. -/
def sec1 (a : Point) : List Byte := 4 :: (natBe 48 ((a.map Prod.fst).getD 0) ++ natBe 48 ((a.map Prod.snd).getD 0))

/-- The public key of a private key. -/
def publicKey (key : Nat) : Point := mulPoint 384 key p384Base

/-- The signature values for a nonce, where neither is 0. -/
def signWith (key nonce hash : Nat) : Option (BitVec 384 × BitVec 384) :=
  let r := abscissa (mulPoint 384 nonce p384Base)
  let s := invMod p384Order nonce * (hash + r * key) % p384Order
  if nonce = 0 ∨ r = 0 ∨ s = 0 then none else some (BitVec.ofNat 384 r, BitVec.ofNat 384 s)

/-- Sign bytes under a private key: the signer tries one nonce after another until both values are non-zero. -/
def sign (key : Nat) (nonce : Nat → Nat) (bs : List Byte) : BitVec 384 × BitVec 384 :=
  ((List.range 64).findSome? fun i => signWith key (nonce i % p384Order) (beNat (sha3_384 bs))).getD (0, 0)

/-- Whether a signature over bytes verifies under a public key (R36). -/
def verifies (pub : Point) (bs : List Byte) (sig : BitVec 384 × BitVec 384) : Bool :=
  let n := p384Order
  let r := sig.1.toNat
  let s := sig.2.toNat
  let w := invMod n s
  decide (1 ≤ r) && decide (r < n) && decide (1 ≤ s) && decide (s < n) &&
    abscissa (addPoint (mulPoint 384 (beNat (sha3_384 bs) * w % n) p384Base) (mulPoint 384 (r * w % n) pub)) == r

/-- The attestation private key as a multiplier (R460). -/
def attestationPrivate : Nat := 1 + Config.attestationSeed % (p384Order - 1)

/-- A signature under the attestation key (R31, R460). -/
def attest (draw : Nat) (bs : List Byte) : BitVec 384 × BitVec 384 := sign attestationPrivate (Config.signingNonce draw) bs

end Sys2Proof.Machine
end

