-- ==== Sys2Proof/Machine/Access.lean ====
section
/-! DEFINITION. Accesses of a virtual device: translation by range entry (R236 … R238), decoding of a device physical
address (R206), the checks of the home MC die (R208, R212, R220, R227), reads, writes with poison, mirrors and the undo
journal. -/

namespace Sys2Proof.Machine

open Sys2Proof

/-! ## Translation -/

/-- The entry whose span holds an address. -/
def entryAt (t : List REntry) (va : Nat) : Option REntry :=
  t.find? fun e => decide (e.start ≤ va) && decide (va < e.start + e.len)

/-- Permissions an access needs. -/
structure Need where
  r : Bool
  w : Bool
  x : Bool
  deriving DecidableEq, Repr

/-- No permission: where an address lies, for what the device does of itself. -/
def needNone : Need := ⟨false, false, false⟩
/-- A read. -/
def needR : Need := ⟨true, false, false⟩
/-- A write. -/
def needW : Need := ⟨false, true, false⟩
/-- An atomic (R238). -/
def needRW : Need := ⟨true, true, false⟩
/-- A kernel image load. -/
def needX : Need := ⟨false, false, true⟩

/-- Why an access does not proceed. Kinds of fault: 1 NO_ENTRY, 2 PERMISSION, 3 ABSENT, 4 MIGRATE (Table 10-7). It waits while the
mirror is lost (R240), while its channel trains (R219) and while its bank is under repair (R222). -/
inductive Why where
  | fault (kind : Nat) (sw : Nat)
  | wait
  | revoked
  | pri
  | home (misuse : Bool)
  | erased
  | lost
  | poison
  deriving DecidableEq, Repr

/-- Where an access goes (Table 10-2). -/
inductive Place where
  | device (pa key : Nat)
  | host (iova : Nat)
  | bad (w : Why)
  deriving DecidableEq, Repr

/-- The pages that a move in progress has blocked (Table 10-8). -/
def Vd.blocked (x : Vd) (page : Nat) : Bool :=
  match x.sync with
  | some s => s.step == .copying && s.pages.contains page
  | none => false

/-- The entry of the active table that an access finds; none on a blocked page. -/
def Vd.find (x : Vd) (va : Nat) : Option REntry := if x.blocked (va / 65536) then none else entryAt x.table va

/-- Translate an address under the active table of a virtual device (R238). -/
def translate (x : Vd) (n : Need) (va : Nat) : Place :=
  match x.find va with
  | none => if x.mirrorLost && !x.blocked (va / 65536) then .bad .wait else .bad (.fault 1 0)
  | some e =>
    if (n.r && !e.r) || (n.w && !e.w) || (n.x && !e.x) then .bad (.fault 2 e.sw)
    else if e.res = 1 then .device (e.pbase + (va - e.start)) e.key
    else if e.res = 2 then (if e.migrate then .bad (.fault 4 e.sw) else .host (e.pbase + (va - e.start)))
    else if e.res = 3 then .bad (.fault 3 e.sw)
    else .bad .revoked

/-! ## Physical addresses -/

/-- Decode a device physical address (R206): the set number, member, channel and channel offset of a valid one. -/
def decodePa (d : Dev) (pa : Nat) : Option (Nat × Nat × Nat × Nat) :=
  let s := bits pa 47 38
  let o := bits pa 37 0
  let e := d.set s
  let n := 2 ^ e.log2n
  if e.valid && decide (o < n * e.len * 65536) then
    let k := o / 4096
    let m := e.members.getD (k % n) (0, 0)
    some (s, k % n, m.1, m.2 * 65536 + k / n * 4096 + o % 4096)
  else none

/-- The address in device memory of a channel offset. -/
def cellAt (ch off : Nat) : Nat := ch * chanBytes + off

/-- The line of an address: its first byte. -/
def lineOf (a : Nat) : Nat := a / 64 * 64

/-- The channel of an address in device memory. -/
def chanOf (a : Nat) : Nat := a / chanBytes

/-- Whether a channel answers requests (Table 9-9). -/
def Channel.serves (c : Channel) : Bool :=
  match c.state with
  | .inService => true
  | .repairing => true
  | .retiring => true
  | .training => true
  | .scrubbing => true
  | .unpowered => false
  | .retired => false

/-- The key-slot checks of the home MC die (R212). -/
def keyCheck (d : Dev) (v key : Nat) : Except Why Unit :=
  let k := d.keySlot key
  if k.state == .zeroized && k.vdev == v then .error .erased
  else if key = 0 || k.state != .loaded || k.vdev ≠ v then .error (.home true)
  else .ok ()

/-- A request for a line waits while its channel trains (R219), and while its bank is under repair (R222). -/
def Dev.lineWaits (d : Dev) (ch off : Nat) : Bool :=
  (d.chan ch).state == .training ||
    (d.chan ch).repairs.any fun r => Config.bankOf ch (Config.rowOf ch off) == Config.bankOf ch r

/-- The checks of the home MC die (R208, R212, R227): the memory address, the set and the member, or why not. -/
def homeCheck (d : Dev) (v pa key : Nat) : Except Why (Nat × Nat × Nat) :=
  match decodePa d pa with
  | none => .error (.home false)
  | some (s, j, ch, off) =>
    if (d.set s).vdev ≠ v then .error (.home false)
    else if (d.die (ch / 32)).lost || !(d.chan ch).serves then .error .lost
    else match keyCheck d v key with
      | .error e => .error e
      | .ok _ => if d.lineWaits ch off then .error .wait else .ok (cellAt ch off, s, j)

/-! ## Copies of the set table (R206 … R208) -/

/-- The set entry that an endpoint's copy of the table gives for a virtual device: what it has installed under its last map, else
what firmware has written. DEDUCED: a copy without the set stands for one whose map is still on its way. -/
def Dev.setSeen (d : Dev) (e : Endp) (v s : Nat) : SetEnt :=
  match (d.mc.views.find? fun x => x.ep == e && x.vdev == v).bind fun x => Tab.get? x.sets s with
  | some y => y
  | none => d.set s

/-- Decode a device physical address with a set entry (R206): channel and channel offset. -/
def SetEnt.decode (e : SetEnt) (pa : Nat) : Option (Nat × Nat) :=
  let o := bits pa 37 0
  let n := 2 ^ e.log2n
  if e.valid && decide (o < n * e.len * 65536) then
    let k := o / 4096
    let m := e.members.getD (k % n) (0, 0)
    some (m.1, m.2 * 65536 + k / n * 4096 + o % 4096)
  else none

/-- The cluster control core that keeps a core's copy of the set table. -/
def clusterOf (n : Nat) : Endp := if h : n / 68 < 32 then .cluster ⟨n / 68, h⟩ else .cluster 0
/-- An MC die as an endpoint. -/
def mcOf (k : Nat) : Endp := if h : k < 32 then .mc ⟨k, h⟩ else .mc 0

/-- Where a request of a core goes (R206, R196): decoded at the issuing engine with its cluster's copy of the set table. An
address that the copy does not decode goes to channel 0, whose die refuses it (R208). -/
def spotOf (d : Dev) (core v pa key : Nat) : Spot :=
  let (ch, off) := ((d.setSeen (clusterOf core) v (bits pa 47 38)).decode pa).getD (0, 0)
  ⟨pa, key, ch, off⟩

/-- Whether a channel is leaving its composition, or is being retired with its copy made: requests of older epochs finish there
(R196, R341). -/
def Dev.finishesAt (d : Dev) (ch : Nat) : Bool := (d.chan ch).target.isSome || d.sched.leaving.any fun u => u.kind == .chan && u.num == ch

/-- The checks of the home MC die of a request in flight (R208, R212, R227): the die decodes the address again with its own copy
of the table, and performs the request on the channel it finds where that is one of its own. A request that an older epoch sent to a
leaving channel is performed there. The answer is the memory address, the set and the member. -/
def spotCheck (d : Dev) (v : Nat) (p : Spot) : Except Why (Nat × Nat × Nat) :=
  let s := bits p.pa 47 38
  let e := d.setSeen (mcOf (p.chan / 32)) v s
  let at_ : Option (Nat × Nat) := (e.decode p.pa).bind fun x =>
    if x.1 / 32 = p.chan / 32 then some x else if d.finishesAt p.chan then some (p.chan, p.off) else none
  let j := bits p.pa 37 0 / 4096 % 2 ^ e.log2n
  match at_ with
  | none => .error (.home false)
  | some (ch, off) =>
    if !e.valid || e.vdev ≠ v then .error (.home false)
    else if (d.die (ch / 32)).lost || !(d.chan ch).serves then .error .lost
    else match keyCheck d v p.keySlot with
      | .error e => .error e
      | .ok _ => .ok (cellAt ch off, s, j)

/-- Whether a request is on its way to a channel that meets a test. -/
def MReq.goesTo (r : MReq) (p : Nat → Bool) : Bool := r.stage == .sent && r.spots.any fun s => p s.chan

/-- Whether the line of an address is poisoned (R220). -/
def poisoned (d : Dev) (a : Nat) : Bool := (d.chan (chanOf a)).poison.contains (lineOf a) != (d.chan (chanOf a)).lost

/-- The mirror of an address of a set member, where the set has one (R428). -/
def mirrorOf (d : Dev) (v s j a : Nat) : Option Nat :=
  ((Tab.getD (d.vd v).mirrors s []).drop j).head?.map fun ch => cellAt ch (a % chanBytes)

/-- The place of an address in a set: the set offset (R206), where a member of the set holds it. -/
def SetEnt.offsetOf (e : SetEnt) (a : Nat) : Option Nat :=
  let n := 2 ^ e.log2n
  e.members.zipIdx.findSome? fun (m, j) =>
    let o := a % chanBytes
    if chanOf a = m.1 ∧ 65536 * m.2 ≤ o ∧ o < 65536 * (m.2 + e.len) then
      let r := o - 65536 * m.2
      some ((r / 4096 * n + j) * 4096 + r % 4096)
    else none

/-- The mirror of an address that a set's member holds (R428). -/
def Dev.mirrorAt (d : Dev) (a : Nat) : Option Nat :=
  d.mc.sets.findSome? fun (s, e) =>
    if !e.valid then none
    else match e.offsetOf a with
      | none => none
      | some o => mirrorOf d e.vdev s (o / 4096 % 2 ^ e.log2n) a

/-! ## Channel counters and the memory-side cache (R211, R229) -/

/-- Count several lines in a channel counter. -/
def countLines (c i n : Nat) (d : Dev) : Dev := d.onChan c fun k => { k with
  ctr := Tab.put k.ctr i (Tab.getD k.ctr i 0 + BitVec.ofNat 64 n)
  selfRefresh := k.selfRefresh && decide (2 ≤ i) }

/-- The set of a memory-side cache that holds a line: there are 65,536 (R211). DESIGN CHOICE: the line's number selects it. -/
def cacheSet (line : Nat) : Nat := line / 64 % 65536

/-- The quota of a virtual device in lines of a memory-side cache (R211): 2 MiB for each of its channels on the die. -/
def Dev.cacheQuota (d : Dev) (k v : Nat) : Nat := 32768 * ((d.vd v).chans.filter fun c => c / 32 == k).length

/-- The line that makes room for a new one of a virtual device (R211), the least recently used first: at its quota one of its
own; below it an invalid line, which takes none out, then a line of a virtual device above its quota, then one of its own. -/
def cacheVictim (d : Dev) (k v line : Nat) (l : List CLine) : Option (Option Nat) :=
  let here := l.filter fun e => cacheSet e.line == cacheSet line
  let own := (here.find? fun e => e.vdev == v).map fun e => some e.line
  let used (u : Nat) : Nat := (l.filter fun e => e.vdev == u).length
  if d.cacheQuota k v ≤ used v then own
  else if here.length < 16 then some none
  else match here.find? fun e => decide (d.cacheQuota k e.vdev < used e.vdev) with
    | some e => some (some e.line)
    | none => own

/-- A line is put into the memory-side cache of its die; one of another tag is dropped (R211). -/
def cachePut (v key line : Nat) (d : Dev) : Dev :=
  let k := chanOf line / 32
  let l := (d.die k).cache.filter fun e => e.line != line
  match cacheVictim d k v line l with
  | none => d.onDie k fun m => { m with cache := l }
  | some out => d.onDie k fun m => { m with cache := (l.filter fun e => some e.line != out) ++ [⟨line, v, key⟩] }

/-- Drop the cache lines that meet a test. -/
def cacheDrop (k : Nat) (p : Nat → Bool) (d : Dev) : Dev := d.onDie k fun m => { m with cache := m.cache.filter fun e => !p e.line }

/-- Whether a line is served from the memory-side cache: both tags match (R211). -/
def Dev.cacheHit (d : Dev) (v key a : Nat) : Bool := (d.die (chanOf a / 32)).cache.contains ⟨lineOf a, v, key⟩

/-- A line is read at its die (R211, R229): served from the cache, or read from the stack and allocated. -/
def readLine (v key a : Nat) (d : Dev) : Dev := cachePut v key (lineOf a) (countCh (chanOf a) (if d.cacheHit v key a then 2 else 0) d)

/-- A line is written at its die: held in the cache, and written through to the stack. -/
def writeLine (v key a : Nat) (d : Dev) : Dev := cachePut v key (lineOf a) (countCh (chanOf a) 1 d)

/-! ## Line by line -/

/-- The pieces of a span that lie in one line each: address and length. -/
def lineParts : Nat → Nat → Nat → List (Nat × Nat)
  | 0, _, _ => []
  | f + 1, a, n =>
    if n = 0 then [] else
      let k := min n (64 - a % 64)
      (a, k) :: lineParts f (a + k) (n - k)

/-- The pieces of a span. -/
def parts (a n : Nat) : List (Nat × Nat) := lineParts (n / 64 + 2) a n

/-- An access that did not proceed: the virtual address and why, or that it goes to the host. -/
inductive Acc where
  | bad (va : Nat) (w : Why)
  | host (va iova : Nat)
  deriving DecidableEq, Repr

/-- Read one piece at device physical address: the checks of the home, then poison (R220). A line poisoned in the
member is served from its mirror if the mirror holds it good (R428). -/
def readPiece (w : Wk) (v pa key n : Nat) : Except Why (List Byte) :=
  match homeCheck w.dev v pa key with
  | .error e => .error e
  | .ok (a, _, _) =>
    if poisoned w.dev a then .error .poison
    else .ok (w.bytes (w.dev.keySlot key).key a n)

/-- A store to a host page leaves the device (R248); lines of it that a hub had read before are read anew (R166). -/
def hostStore (v iova : Nat) (bs : List Byte) (d : Dev) : Dev :=
  (d.onMc fun m => { m with hostBuf := m.hostBuf.filter fun b => !(b.1 == v && rangesMeet (b.2.1, b.2.2.length) (iova, bs.length)) }).emit
    (.hostWrite v iova bs)

/-- Bytes of a host page that a hub has read for the device (R248). -/
def hostBytes (d : Dev) (fn iova n : Nat) : Option (List Byte) :=
  (d.mc.hostBuf.find? fun b => b.1 == fn && decide (b.2.1 ≤ iova) && decide (iova + n ≤ b.2.1 + b.2.2.length)).map
    fun b => sliceB b.2.2 (iova - b.2.1) n

/-- The permissions that a hub's address translation cache holds for a host page of a function (R248). -/
def Dev.atc? (d : Dev) (fn page : Nat) : Option (Bool × Bool) :=
  (d.xlt.atc.find? fun e => e.1 == fn && e.2.1 == page).map fun e => (e.2.2.1, e.2.2.2)

/-- Read the pieces of a span by virtual address. A HOST piece is served from what the hub has read. -/
def readParts (w : Wk) (v : Nat) (need : Need) : List (Nat × Nat) → Except Acc (List Byte)
  | [] => .ok []
  | (va, n) :: t =>
    match translate (w.dev.vd v) need va with
    | .bad y => .error (.bad va y)
    | .host i =>
      match hostBytes w.dev v i n with
      | none => .error (.host va i)
      | some bs => (readParts w v need t).map fun rest => bs ++ rest
    | .device pa key =>
      match readPiece w v pa key n with
      | .error y => .error (.bad va y)
      | .ok bs => (readParts w v need t).map fun rest => bs ++ rest

/-- Read a span of virtual addresses of device memory. -/
def readVa (w : Wk) (v : Nat) (need : Need) (va n : Nat) : Except Acc (List Byte) := readParts w v need (parts va n)

/-- Turn the poison of a line. -/
def flipPoison (a : Nat) (d : Dev) : Dev :=
  d.onChan (chanOf a) fun c => { c with
    poison := if c.poison.contains (lineOf a) then c.poison.filter fun x => x != lineOf a else c.poison ++ [lineOf a] }

/-- Clear the poison of a line. -/
def clearPoison (a : Nat) (d : Dev) : Dev := if poisoned d a then flipPoison a d else d

/-- Whether an undo record of a command already holds a line. -/
def hasUndo (d : Dev) (cmd line : Nat) : Bool := d.mc.undo.any fun u => u.cmd == cmd && u.line == line

/-- What a write needs of its command to journal it: its number, device queue, ring index, chain position, and its
range lists. -/
structure JCmd where
  no : Nat
  devq : Nat
  index : Nat
  chain : Nat
  ins : List (Nat × Nat)
  outs : List (Nat × Nat)
  deriving DecidableEq, Repr

/-- The journal key of a write; none where the command is not journaled. -/
abbrev JKey := Option JCmd

/-- Whether a range holds a byte of the line at an address. -/
def lineMeets (va : Nat) (r : Nat × Nat) : Bool := decide (0 < r.2) && decide (r.1 < lineOf va + 64) && decide (lineOf va < r.1 + r.2)

/-- A journaled line holds a byte of an input range and a byte of an output range (R419). -/
def jAt (j : JKey) (va : Nat) : JKey :=
  match j with
  | none => none
  | some c => if c.ins.any (lineMeets va) && c.outs.any (lineMeets va) then some c else none

/-! ## The undo journal pools (R419, Tables 9-3 and 17-2) -/

/-- The channel that holds the reserved region of a channel: its own, or the one to which it has moved (R209, R225). -/
def Dev.regionChan (d : Dev) (ch : Nat) : Nat := Tab.getD d.mc.regions ch ch

/-- Where an undo record lies in the reserved region of the channel whose pool holds it (Table 9-3). -/
def undoAt (p : Nat × Nat) : Nat := cellAt p.1 (0x5A400000 + 128 * p.2)

/-- Undo records of one channel's pool: 32 MiB of 128-byte records. -/
def undoRoom : Nat := 262144

/-- The first number from one on that a list does not hold. -/
def firstFree (used : List Nat) : Nat → Nat → Nat
  | 0, i => i
  | n + 1, i => if used.contains i then firstFree used n (i + 1) else i

/-- A free record of the pools of a channel's die (R419). DESIGN CHOICE: in the pool of the channel itself, else of the next one of the
die that has room, the first free record. -/
def Dev.undoPlace (d : Dev) (ch : Nat) : Nat × Nat :=
  let free (c : Nat) : Nat :=
    let used := (d.mc.undo.flatMap Undo.places).filterMap fun p => if p.1 = c then some p.2 else none
    firstFree used used.length 0
  let c := ((ch :: (List.range 32).map fun i => 32 * (ch / 32) + i).find? fun c => decide (free c < undoRoom)).getD ch
  (c, free c)

/-- The line index of R212. -/
def lineIndex (a : Nat) : Nat := 2 ^ 25 * chanOf a + a % chanBytes / 64

/-- The 128 bytes of an undo record of a line with its prior plaintext (Table 17-2). -/
def Undo.bytes (u : Undo) (prior : List Byte) : List Byte :=
  natLe 64 (1 + u.chain % 32 * 2 ^ 52 + u.index % 2 ^ 16 * 2 ^ 57 + u.queue % 4096 * 2 ^ 73 + u.vdev % 256 * 2 ^ 85 +
    lineIndex u.line * 2 ^ 93) ++ sliceB prior 0 64

/-- Save the prior plaintext of a line before its first write by a command (R419): an undo record under key slot 0 in a pool of the
line's home die, and in one of its mirror's die where the set is mirrored (R428). -/
def journalLine (j : JKey) (v a : Nat) (key : KeyId) (w : Wk) : Wk :=
  match j with
  | none => w
  | some c =>
    let l := lineOf a
    if hasUndo w.dev c.no l then w
    else
      let places := w.dev.undoPlace (chanOf l) :: ((w.dev.mirrorAt l).map fun x => w.dev.undoPlace (chanOf x)).toList
      let u : Undo := ⟨c.no, l, v, c.devq, c.index, c.chain, key, places⟩
      let prior := w.bytes key l 64
      let w := places.foldl (fun w p => (w.put .slot0 (undoAt p) (u.bytes prior)).on (countLines p.1 1 2)) w
      w.on fun d => d.onMc fun m => { m with undo := m.undo ++ [u] }

/-- Whether a copy of an undo record can be read (R422): the die that holds it stands, and neither of its lines is poisoned. -/
def placeReadable (d : Dev) (p : Nat × Nat) : Bool :=
  !(d.die (d.regionChan p.1 / 32)).lost && !poisoned d (undoAt p) && !poisoned d (undoAt p + 64)

/-- Whether an undo record can be read (R422): at its own place, or at its mirror's. -/
def undoReadable (d : Dev) (u : Undo) : Bool := u.places.any (placeReadable d)

/-- The prior plaintext that an undo record holds. -/
def Undo.prior (u : Undo) (w : Wk) : List Byte :=
  match u.places.find? (placeReadable w.dev) with
  | some p => w.bytes .slot0 (undoAt p + 64) 64
  | none => []

/-- Undo records that meet a test are freed: VALID of each is cleared (R421). -/
def freeUndos (p : Undo → Bool) (w : Wk) : Wk :=
  let w' := (w.dev.mc.undo.filter p).foldl (fun w u => u.places.foldl (fun w x => w.put .slot0 (undoAt x) [0]) w) w
  w'.on fun d => d.onMc fun m => { m with undo := m.undo.filter fun u => !p u }

/-- The channel that holds the same contents as a channel being copied away, or as the target of one, from the end of the copy until
the source is scrubbed (R225): a write to either is written to both, so that requests of the old epoch at the source and of the new one
at the target meet the same bytes. -/
def Dev.twin (d : Dev) (ch : Nat) : Option Nat :=
  match (d.chan ch).target with
  | some t => if (d.chan ch).copied then some t else none
  | none => (d.mc.chans.find? fun k => k.2.target == some ch && k.2.copied).map Prod.fst

/-- Store bytes of one line at the home: the member, and its mirror (R428). A whole line clears poison (R220). A
channel whose contents have been copied away is kept equal to its target (Table 9-8 steps 3 and 5, R341). -/
def storeAt (v s j a slot : Nat) (bs : List Byte) (w : Wk) : Wk :=
  let whole := a % 64 == 0 && bs.length == 64
  let one (w : Wk) (x : Nat) : Wk :=
    let w := (w.put (w.dev.keySlot slot).key x bs).on (writeLine v slot x)
    if whole then w.on (clearPoison x) else w
  let w := one w a
  let w := match mirrorOf w.dev v s j a with
    | some x => one w x
    | none => w
  match w.dev.twin (chanOf a) with
  | some t => one w (cellAt t (a % chanBytes))
  | none => w

/-- Write one piece at a device physical address. -/
def writePiece (v pa key : Nat) (bs : List Byte) (j : JKey) (w : Wk) : Except Why Wk :=
  match homeCheck w.dev v pa key with
  | .error e => .error e
  | .ok (a, s, m) => .ok (storeAt v s m a key bs (journalLine j v a (w.dev.keySlot key).key w))

/-- Write the pieces of a span by virtual address; pieces already written stay written. A HOST piece leaves at the
hub's port where its translation cache holds write permission (R248). -/
def writeParts (v : Nat) (need : Need) (j : JKey) : List (Nat × Nat) → List Byte → Wk → Wk × Option Acc
  | [], _, w => (w, none)
  | (va, n) :: t, bs, w =>
    match translate (w.dev.vd v) need va with
    | .bad y => (w, some (.bad va y))
    | .host i =>
      match w.dev.atc? v (i / 4096) with
      | some (_, true) => writeParts v need j t (bs.drop n) (w.on fun d => hostStore v i (bs.take n) d)
      | _ => (w, some (.host va i))
    | .device pa key =>
      match writePiece v pa key (bs.take n) (jAt j va) w with
      | .error y => (w, some (.bad va y))
      | .ok w => writeParts v need j t (bs.drop n) w

/-- Write a span of virtual addresses of device memory. -/
def writeVa (v va : Nat) (bs : List Byte) (j : JKey) (w : Wk) : Wk × Option Acc :=
  writeParts v needW j (parts va bs.length) bs w

/-- Check the pieces of a span for an access without making it. -/
def checkParts (d : Dev) (v : Nat) (need : Need) : List (Nat × Nat) → Option Acc
  | [] => none
  | (va, _) :: t =>
    match translate (d.vd v) need va with
    | .bad y => some (.bad va y)
    | .host i => some (.host va i)
    | .device pa key =>
      match homeCheck d v pa key with
      | .error y => some (.bad va y)
      | .ok _ => checkParts d v need t

/-! ## Translation as an engine sees it (R246, R247) -/

/-- The second level that an engine searches. -/
def XEng.node : XEng → XNode
  | .core n => if h : n / 68 < 32 then .cluster ⟨n / 68, h⟩ else .cluster 0
  | .mover n => if h : n / 68 < 32 then .cluster ⟨n / 68, h⟩ else .cluster 0
  | .ctl c => if h : c < 32 then .cluster ⟨c, h⟩ else .cluster 0
  | .dma h => .hub (if h = 0 then 0 else 1)

/-- The entries of a virtual device in an engine's range buffer. -/
def Dev.buffered (d : Dev) (e : XEng) (v : Nat) : List CEntry := (d.xlt.buffers.filter fun c => c.1 == e && c.2.vdev == v).map Prod.snd

/-- The entries of a virtual device in a second level. -/
def Dev.secondLevel (d : Dev) (n : XNode) (v : Nat) : List CEntry := (d.xlt.caches.filter fun c => c.1 == n && c.2.vdev == v).map Prod.snd

/-- The entries that an engine uses for a virtual device: those of its range buffer, then those of its second level, then by a
walk those of the active buffer of the mirror, unless it is lost (R240). -/
def Dev.xview (d : Dev) (e : XEng) (v : Nat) : List REntry :=
  (d.buffered e v ++ d.secondLevel e.node v).map CEntry.e ++ (if (d.vd v).mirrorLost then [] else (d.vd v).table)

/-- The device as an engine translates for a virtual device. -/
def Dev.seenBy (d : Dev) (e : XEng) (v : Nat) : Dev := d.onVd v fun x => { x with table := d.xview e v }

/-- Read a span of virtual addresses as an engine translates them. -/
def readAs (e : XEng) (w : Wk) (v : Nat) (need : Need) (va n : Nat) : Except Acc (List Byte) := readVa (w.on fun d => d.seenBy e v) v need va n

/-- Write a span of virtual addresses as an engine translates them. -/
def writeAs (e : XEng) (v va : Nat) (bs : List Byte) (j : JKey) (w : Wk) : Wk × Option Acc :=
  let (w', r) := writeVa v va bs j (w.on fun d => d.seenBy e v)
  (w'.on fun d => d.onVd v fun x => { x with table := (w.dev.vd v).table }, r)

/-- Check an access of an engine without making it. -/
def checkAs (e : XEng) (d : Dev) (v : Nat) (need : Need) (ps : List (Nat × Nat)) : Option Acc := checkParts (d.seenBy e v) v need ps

/-- Whether every byte of a span is covered by entries that meet a test; spans are walked entry by entry. -/
def spanAll (t : List REntry) (ok : REntry → Bool) : Nat → Nat → Nat → Bool
  | 0, _, _ => false
  | f + 1, a, b =>
    if b ≤ a then true
    else match entryAt t a with
      | none => false
      | some e => ok e && spanAll t ok f (e.start + e.len) b

/-- Every byte of `[a, a + n)` lies in an entry that meets a test. -/
def spanIn (t : List REntry) (ok : REntry → Bool) (a n : Nat) : Bool := spanAll t ok (t.length + 1) a (a + n)

/-- Whether some entry that meets a test intersects `[a, a + n)`. -/
def spanMeets (t : List REntry) (ok : REntry → Bool) (a n : Nat) : Bool :=
  t.any fun e => ok e && decide (e.start < a + n) && decide (a < e.start + e.len)

/-- DEVICE with a permission. -/
def isDeviceWith (r w : Bool) (e : REntry) : Bool := e.res == 1 && (!r || e.r) && (!w || e.w)

/-- The fence error code of an access that failed for good, where it has one (Table 11-11). -/
def Why.code : Why → Nat
  | .fault _ _ => 3
  | .revoked => 4
  | .pri => 3
  | .home _ => 3
  | .wait => 3
  | .erased => 0x50
  | .lost => 0x11
  | .poison => 0x12

/-- `GQI_CR_AUX_A` for an access that failed (Table 11-11). -/
def Why.cause : Why → Nat
  | .fault k _ => k
  | .pri => 5
  | .home _ => 6
  | _ => 0

/-! ## Phase records and carried state (R424, Table 9-3) -/

/-- Where a phase record lies in the phase-record areas of an MC die. DESIGN CHOICE (log entry 77): record i lies in channel i mod 32. -/
def recordAt (p : Nat × Nat) : Nat := cellAt (32 * p.1 + p.2 % 32) (0x5A200000 + 64 * (p.2 / 32))

/-- Where a 4 KiB unit of the staging areas of an MC die lies: they are striped over its channels (R424). -/
def stagingAt (die u : Nat) : Nat := cellAt (32 * die + u % 32) (0x5DC00000 + 4096 * (u / 32))

/-- Units of the staging areas of one MC die: 32 MiB in each of 32 channels. -/
def stagingRoom : Nat := 262144

/-- The first unit of the buffer that holds the carried state of a record: the two alternate by phase (R424). -/
def PhaseRec.buffer (r : PhaseRec) : Nat := r.unit + r.phase % 2 * r.room

/-- The 64 bytes of a phase record (Table 17-3). -/
def PhaseRec.bytes (r : PhaseRec) : List Byte :=
  natLe 64 (1 + r.rank % 65536 * 2 ^ 16 + r.kind % 16 * 2 ^ 36 + r.vdev % 256 * 2 ^ 40 + r.phases % 65536 * 2 ^ 48 +
    r.phase % 65536 * 2 ^ 64 + r.seq.toNat * 2 ^ 80 + r.group.toNat * 2 ^ 144 + r.len % 2 ^ 32 * 2 ^ 176 +
    (stagingAt r.stateDie r.buffer % chanBytes) * 2 ^ 208 + (stagingAt r.stateDie r.buffer / chanBytes) * 2 ^ 246 +
    leNat (r.digest.take 32) * 2 ^ 256)

/-- Phase records that meet a test are freed: VALID of each copy is cleared. -/
def freeRecords (p : PhaseRec → Bool) (w : Wk) : Wk :=
  let gone := w.dev.records.filter p
  let w := (gone.flatMap fun r => r.copyA.toList ++ r.copyB.toList).foldl (fun w c => w.put .slot0 (recordAt c) (natLe 64 0)) w
  w.on fun d => { d with records := d.records.filter fun r => !p r }

end Sys2Proof.Machine
end

