-- ==== Sys2Proof/Machine/Units.lean ====
section
/-! DEFINITION. Units and their bindings: the hub unit table (R492, R493), core lists (R328), map epochs (R325, R338),
leaving units (R337), the retirement and replacement of cores (R156 … R159). -/

namespace Sys2Proof.Machine

open Sys2Proof

/-! ## The unit table -/

/-- The number of a unit kind in a unit word (R491). -/
def UnitKind.code : UnitKind → Nat
  | .core => 1
  | .chan => 2
  | .port => 3

/-- The unit word of a unit (R491). -/
def unitWord (k : UnitKind) (n : Nat) : Nat := k.code * 2 ^ 28 + n

/-- The unit a word names, if there is one (R491). -/
def unitOf (w : Nat) : Option (UnitKind × Nat) :=
  let n := w % 2 ^ 28
  match w / 2 ^ 28 with
  | 1 => if n < 2176 then some (.core, n) else none
  | 2 => if n < 1024 then some (.chan, n) else none
  | 3 => if n < 16 then some (.port, n) else none
  | _ => none

/-- The record of a unit (R492). -/
def Dev.unit (d : Dev) (k : UnitKind) (n : Nat) : UnitRec := Tab.getD d.sched.units (unitWord k n) UnitRec.reset

/-- Commit a change of a unit's record (R492). -/
def Dev.onUnit (d : Dev) (k : UnitKind) (n : Nat) (f : UnitRec → UnitRec) : Dev :=
  d.onSched fun s => { s with units := Tab.put s.units (unitWord k n) (f (d.unit k n)), unitCommits := s.unitCommits + 1 }

/-- A fabric port. -/
def Dev.port (d : Dev) (p : Nat) : PortSt := Tab.getD d.fab.ports p PortSt.reset
/-- Change a fabric port. -/
def Dev.onPort (d : Dev) (p : Nat) (f : PortSt → PortSt) : Dev :=
  { d with fab := { d.fab with ports := Tab.put d.fab.ports p (f (d.port p)) } }
/-- A port whose link is trained: UP or DEGRADED (R375). -/
def PortSt.trained (x : PortSt) : Bool := x.state == 3 || x.state == 4

/-- The hub that owns a port (R376). -/
def portHub (p : Nat) : Nat := p / 8 % 2

/-- A port enters a state: its event source fires, and the fabric manager is told (R393). -/
def enterPort (p st : Nat) (d : Dev) : Dev :=
  raiseOd 1 p (natLe 1 st) (raiseSrc (portHub p) (0x141 + p) (d.onPort p fun x => { x with state := st }))

/-- A port starts TRAINING: its lanes are found anew. -/
def startTraining (p : Nat) (d : Dev) : Dev := enterPort p 1 (d.onPort p fun x => { x with active := 0, reserve := 0 })

/-- SERVING of a unit: the data path holds it fit for service (Table 20-7). -/
def Dev.serving (d : Dev) (k : UnitKind) (n : Nat) : Bool :=
  match k with
  | .core => (d.core n).state == .serviceable || (d.core n).state == .spare
  | .chan => (d.chan n).state == .inService || (d.chan n).state == .repairing
  | .port => (d.port n).trained

/-- DISPUTED (Table 20-8). -/
def Dev.disputed (d : Dev) (k : UnitKind) (n : Nat) : Bool :=
  let u := d.unit k n
  !u.adminOut && !u.returning && !d.serving k n && (u.cause == 1 || u.cause == 2 || u.cause == 4 || u.cause == 5)

/-- The virtual device a unit is bound to. -/
def Dev.boundTo (d : Dev) (k : UnitKind) (n : Nat) : Option Nat :=
  (d.vds.find? fun v => match k with
    | .core => v.2.cores.contains n || v.2.reserve.contains n
    | .chan => v.2.chans.contains n
    | .port => bitAt v.2.ports.toNat n).map Prod.fst

/-- Whether a unit is leaving its composition (R337). -/
def Dev.sluiced (d : Dev) (k : UnitKind) (n : Nat) : Bool := d.sched.leaving.any fun u => u.kind == k && u.num == n

/-- A free serviceable core: bound to nothing, not leaving, and wanted in service (R321, R323). -/
def Dev.freeCore (d : Dev) (n : Nat) : Bool :=
  (d.core n).state == .serviceable && (d.boundTo .core n).isNone && !d.sluiced .core n && !(d.unit .core n).adminOut

/-- A unit's cause is recorded; where management and the data path now differ, the manager is told (R493). -/
def setCause (k : UnitKind) (n cause : Nat) (d : Dev) : Dev :=
  let d := d.onUnit k n fun u => { u with cause := cause }
  let d := match k with
    | .core => bump 6 d
    | .chan => bump 7 d
    | .port => d
  if d.disputed k n then
    raiseOd 5 (unitWord k n) (natLe 4 cause)
      (raiseNotice noticeDispute ((d.boundTo k n).getD 0) [BitVec.ofNat 32 (unitWord k n), BitVec.ofNat 32 cause] d)
  else d

/-- A return that was requested ends: the last request's result follows where it is this one (R494, R502). -/
def endReturn (k : UnitKind) (n : Nat) (ok : Bool) (d : Dev) : Dev :=
  if !(d.unit k n).returning then d
  else
    let d := d.onUnit k n fun u => { u with returning := false, cause := if ok then 0 else u.cause }
    if d.od.lastUnit = unitWord k n ∧ d.od.lastResult = 1 then { d with od := { d.od with lastResult := if ok then 0 else 2 } } else d

/-! ## Core islands -/

/-- The hub that owns a core's cluster (R189). -/
def coreHub (n : Nat) : Nat := if n / 136 % 8 < 4 then 0 else 1

/-- Whether a core's island is powered: not before start-up, and not once the core is out of service (Table 6-9 step 3). -/
def Core.powered (c : Core) : Bool := c.state != .unpowered && c.state != .retired && c.state != .scrubbed

/-- A core's island is powered up: its counters and its cycle count start at 0 (R155, R187). -/
def powerCore (n : Nat) (st : CoreState) (d : Dev) : Dev :=
  d.onCore n fun c => { c with
    state := st
    ctr := []
    onAt := d.hlc (coreHub n)
    zeroed := false
    clock := 20
    duty := 16 }

/-- Count in a core's counters (Table 6-7). -/
def countCore (n i k : Nat) (d : Dev) : Dev := d.onCore n fun c => { c with ctr := Tab.put c.ctr i (Tab.getD c.ctr i 0 + BitVec.ofNat 64 k) }

/-- Cycles of an island's clock between two hub counts (R187): it starts at 0 at power-on and only rises. How many cycles a
reference period holds is a free value of the island and the period. -/
def islandCycles (island from_ till : Nat) : Nat := ((List.range (till - from_)).map fun i => Config.tickCycles island (from_ + i)).sum

/-- The island of a control core of a cluster, a router, an MC die, an LX die or a hub (R187); the islands of the cores come first. -/
inductive Island where
  | core (n : Nat) | control (k : Nat) | router (r : Nat) | mc (k : Nat) | lx (p : Nat) | hub (h : Nat)
  deriving DecidableEq, Repr

/-- Islands by number. -/
def Island.no : Island → Nat
  | .core n => n
  | .control k => 2176 + k
  | .router r => 2208 + r
  | .mc k => 2420 + k
  | .lx p => 2452 + p
  | .hub h => 2468 + h

/-- The hub whose count runs beside an island's (R189). -/
def Island.hub_ : Island → Nat
  | .core n => coreHub n
  | .control k => coreHub (68 * k)
  | .router _ => 0
  | .mc k => coreHub (68 * k)
  | .lx p => portHub p
  | .hub h => h

/-- The 64-bit count of an island's own cycles since its last power-on (R187): a core's island since its power-up, the others since the
package has power, when the hubs' counts started. -/
def Dev.islandCount (d : Dev) (i : Island) : BitVec 64 :=
  let now := (d.hlc i.hub_).toNat
  let from_ := match i with | .core n => (d.core n).onAt.toNat | _ => 0
  let on_ := match i with | .core n => (d.core n).powered | _ => d.clk.powered
  if on_ then BitVec.ofNat 64 (islandCycles i.no from_ now) else 0

/-- A counter of a core (Table 6-7) between two readings: cycles of the island, the terms, spills, bytes, misses, preloads and parity
events that the model counts; the others gain a free amount in each reference period, as they depend on timing (R16). -/
def coreCount (n ctr : Nat) (old new : Tab (BitVec 64)) (from_ till : Nat) : BitVec 64 :=
  if ctr = 0 then BitVec.ofNat 64 (islandCycles n from_ till)
  else if [3, 4, 7, 8, 9, 10, 11, 12].contains ctr then Tab.getD new ctr 0 - Tab.getD old ctr 0
  else BitVec.ofNat 64 (((List.range (till - from_)).map fun i => Config.tickCount n ctr (from_ + i)).sum)

/-- Discard the preload shadow of a core, if it has one (R150). -/
def dropShadow (n : Nat) (d : Dev) : Dev :=
  if (Tab.get? d.sched.shadows n).isNone then d
  else countCore n 0xB 1 (d.onSched fun s => { s with shadows := Tab.del s.shadows n })

/-- Discard every shadow that meets a test of its core and the command it holds (R150). -/
def dropShadows (p : Nat → Nat → Bool) (d : Dev) : Dev :=
  ((d.sched.shadows.filter fun x => p x.1 x.2.cmd).map Prod.fst).foldl (fun d n => dropShadow n d) d

/-- The sluice zeroes a core's store, registers, instruction cache and shadow (R137, R146). -/
def zeroCore (n : Nat) (d : Dev) : Dev :=
  (dropShadow n d).onCore n fun c => { c with dirty := false, zeroed := true }

/-- The data path begins a return of a unit that is out of service (R494): a core runs its self-test, a channel retrains, a port
trains. -/
def startReturn (k : UnitKind) (n : Nat) (d : Dev) : Dev :=
  match k with
  | .core => if (d.core n).state == .retired then powerCore n .returning d else d
  | .chan => if (d.chan n).state == .retired then d.onChan n fun c => { c with state := .training, resume := .retired, retrains := 0 } else d
  | .port => if (d.port n).state = 6 then startTraining n d else d

/-! ## Core lists -/

/-- Insert into an ascending list. -/
def insertBy {α : Type} (key : α → Nat × Nat) (a : α) : List α → List α
  | [] => [a]
  | b :: l => if (key a).1 < (key b).1 || ((key a).1 == (key b).1 && decide ((key a).2 ≤ (key b).2)) then a :: b :: l
    else b :: insertBy key a l

/-- Sort by two numbers. -/
def sortBy {α : Type} (key : α → Nat × Nat) (l : List α) : List α := l.foldr (insertBy key) []

/-- The home channels of a partition (R328). -/
def Dev.homeChans (d : Dev) (p : Part) : List Nat := p.sets.flatMap fun s => (d.set s).members.map Prod.fst

/-- Cores in ascending distance from a partition's memory, ties by number (R328). -/
def coreOrder (d : Dev) (p : Part) (l : List Nat) : List Nat :=
  let chans := d.homeChans p
  sortBy (fun n => (coreDistance d.net.retired chans n, n)) l

/-- Rebuild the core lists of a virtual device (R328). -/
def rebuildLists (v : Nat) (d : Dev) : Dev :=
  d.onVd v fun x => { x with parts := x.parts.map fun (i, p) => (i, { p with cores := coreOrder d p p.cores }) }

/-- Rebuild every core list: the distance table has a new generation (R328). -/
def rebuildAll (d : Dev) : Dev := (d.vds.map Prod.fst).foldl (fun d v => rebuildLists v d) d

/-- The bound cores of a composition that no partition holds. -/
def Vd.looseCores (x : Vd) : List Nat := x.cores.filter fun n => !(x.parts.any fun p => p.2.cores.contains n)

/-! ## Epochs and publication (R325, R338) -/

/-- The endpoints that serve a virtual device: cluster control cores, MC dies, LX dies and its hub. -/
def Vd.endpoints (x : Vd) (v : Nat) : List Endp :=
  let cl := ((x.cores ++ x.reserve).map (· / 68)).eraseDups
  let ks := (x.chans.map (· / 32)).eraseDups
  let ps := (List.range 16).filter fun p => bitAt x.ports.toNat p
  cl.filterMap (fun c => if h : c < 32 then some (.cluster ⟨c, h⟩) else none) ++
    ks.filterMap (fun k => if h : k < 32 then some (.mc ⟨k, h⟩) else none) ++
    ps.filterMap (fun p => if h : p < 16 then some (.lx ⟨p, h⟩) else none) ++
    [.hub (if hubOf v = 0 then 0 else 1)]

/-- The next epoch (R325). -/
def nextEpoch (e : BitVec 32) : BitVec 32 := if e = 0xFFFFFFFF then 1 else e + 1

/-- The sets of a virtual device as the hub unit table has them. -/
def Dev.setsOf (d : Dev) (v : Nat) : Tab SetEnt := d.mc.sets.filter fun s => s.2.valid && s.2.vdev == v

/-- A further change is accepted: the maps of a virtual device that are still being published keep the sets they have (R207). -/
def keepMaps (v : Nat) (d : Dev) : Dev :=
  d.onSched fun s => { s with publish := s.publish.map fun p =>
    if p.vdev = v ∧ p.sets = none then { p with sets := some (d.setsOf v) } else p }

/-- A change is accepted: the next epoch begins, core lists are rebuilt, and the map goes to the endpoints that served the
virtual device before or serve it now. The units that leave are SLUICED from here (R338). -/
def publishChange (v : Nat) (old : Vd) (leave : List (UnitKind × Nat)) (retiring : Bool) (copies : List (Nat × Nat)) (d : Dev) : Dev :=
  let d := (journal 6 [v, (nextEpoch (d.vd v).epoch).toNat] (keepMaps v d)).onVd v fun x => { x with epoch := nextEpoch x.epoch, ctr := Tab.put x.ctr 5 (Tab.getD x.ctr 5 0 + 1) }
  let d := rebuildLists v d
  let d := (leave.filter fun u => u.1 == .core).foldl (fun d u => dropShadow u.2 d) d
  let x := d.vd v
  let ends := (old.endpoints v ++ x.endpoints v).eraseDups
  d.onSched fun s => { s with
    publish := s.publish ++ [⟨v, x.epoch, ends, [], copies, ⟨old.cores, old.reserve, old.chans, old.ports⟩, none⟩]
    leaving := s.leaving ++ leave.map fun u => ⟨u.1, u.2, v, x.epoch, ends, false, retiring, false⟩ }

/-- Keep each LC reserve below its partition's count of cores (R329); the partitions changed. -/
def lowerReserves (v : Nat) (d : Dev) : Dev :=
  let low := (d.vd v).parts.any fun p => decide (0 < p.2.lcReserve) && decide (p.2.cores.length < p.2.lcReserve + 1)
  let d := d.onVd v fun x => { x with parts := x.parts.map fun (i, p) => (i, { p with lcReserve := min p.lcReserve (p.cores.length - 1) }) }
  if low then compositionChanged v 3 [] d else d

/-! ## Retirement of cores (R156 … R159) -/

/-- The replacement of a core of a partition (R159): a bound core that no partition holds, nearest first, else the reserve
core of lowest number. -/
def replacement (d : Dev) (x : Vd) (p : Part) : Option Nat :=
  let ok (n : Nat) : Bool := (d.core n).state == .serviceable && !d.sluiced .core n
  match (coreOrder d p (x.looseCores.filter ok)).head? with
  | some n => some n
  | none => (sortBy (fun n => (n, 0)) (x.reserve.filter ok)).head?

/-- The hub unit table records the serviceable set without a core that the sluice has scrubbed (Table 6-9 step 5): a bound core
leaves its composition under a new epoch, replaced under R159 where it was a core of a partition. A return that was requested
meanwhile begins. -/
def settleCore (n : Nat) (d : Dev) : Dev :=
  if (d.core n).state != .scrubbed then d
  else
    let d := d.onCore n fun k => { k with state := .retired }
    let d := match d.boundTo .core n with
      | none => d
      | some v =>
        let old := d.vd v
        let part := old.parts.find? fun p => p.2.cores.contains n
        let new := part.bind fun p => replacement d { old with cores := old.cores.filter (· != n), reserve := old.reserve.filter (· != n) } p.2
        let d := d.onVd v fun x => { x with
          cores := (x.cores.filter (· != n)) ++ (match new with | some m => if x.cores.contains m then [] else [m] | none => [])
          reserve := x.reserve.filter fun m => m != n && some m != new
          parts := x.parts.map fun (i, p) => (i, { p with cores := (p.cores.filter (· != n)) ++
            (if p.cores.contains n then new.toList else []) }) }
        let d := publishChange v old [] true [] d
        let d := lowerReserves v d
        let lost := part.isSome && new.isNone
        compositionChanged v (if lost then 5 else 2) ((.core, n) :: new.toList.map fun m => (.core, m)) d
    if (d.unit .core n).returning then startReturn .core n d else d

/-- A core enters the sluice to be retired (Table 6-9 step 1, R337): a composition may not place work on it, and its endpoints
report DRAINED for it. One that is leaving already is retired when it has left. -/
def sluiceCore (n : Nat) (d : Dev) : Dev :=
  if d.sluiced .core n then
    d.onSched fun s => { s with leaving := s.leaving.map fun u => if u.kind == .core && u.num == n then { u with retiring := true } else u }
  else
    let v := (d.boundTo .core n).getD 256
    let u : Leaving := ⟨.core, n, v, (d.vd v).epoch, if v = 256 then [] else (d.vd v).endpoints v, false, true, true⟩
    d.onSched fun s => { s with leaving := s.leaving ++ [u] }

/-- The control core of the cluster tells the scheduler (Table 16-14), and a core is marked draining (Table 6-9 step 1): no command is dispatched to it, its shadow is discarded, and it enters the
sluice. A core that no command can use leaves service at once. -/
def drainCore (n cause : Nat) (d : Dev) : Dev :=
  let d := raiseSrc d.schedHub (0x101 + n / 68) d
  match (d.core n).state with
  | .serviceable => setCause .core n cause (sluiceCore n (dropShadow n (d.onCore n fun k => { k with state := .draining })))
  | .spare | .testing | .returning => setCause .core n cause (zeroCore n (d.onCore n fun k => { k with state := .retired }))
  | _ => d

/-! ## Parity errors of cores (R146, R147, R414, R156) -/

/-- Ticks of 24 hours. -/
def dayTicks : Nat := 8640000000000

/-- Whether a time lies within the last 24 hours. -/
def lastDay (now t : BitVec 64) : Bool := decide ((now - t).toNat ≤ dayTicks)

/-- A place in a core's memories as a number: the kind of memory, and the place within it. -/
def coreMemPlace : CoreMem → Nat
  | .store off => off
  | .reg r => 1 * 2 ^ 32 + r
  | .tag line => 2 * 2 ^ 32 + line
  | .code off => 3 * 2 ^ 32 + off
  | .window pos => 4 * 2 ^ 32 + pos
  | .spill i => 5 * 2 ^ 32 + i
  | .slot pos => 6 * 2 ^ 32 + pos
  | .mover i => 7 * 2 ^ 32 + i
  | .flags lane => 8 * 2 ^ 32 + lane
  | .shadow off => 9 * 2 ^ 32 + off
  | .image => 10 * 2 ^ 32
  | .line va _ => 11 * 2 ^ 32 + va

/-- Core i of a cluster is at a boundary, has trapped, or has a parity event: source i of the cluster's controller (Table 16-14). -/
def coreNotice (n : Nat) (d : Dev) : Dev := raiseSrc (2 + n / 68) (n % 68) d

/-- A parity event in a core's memories (R414, R156): two at one location within 24 hours, or three anywhere in the core
within an hour, of the count of the hub that owns the cluster, retire the core. -/
def parityEvent (core loc : Nat) (d : Dev) : Dev :=
  let now := d.hlc (coreHub core)
  let old := (d.core core).parity.filter fun p => lastDay now p.2.2
  let d := countCore core 0xC 1 (d.onCore core fun k => { k with parity := old ++ [(core, loc, now)] })
  let same := old.any fun p => p.2.1 == loc
  let hour := old.filter fun p => decide ((now - p.2.2).toNat ≤ 360000000000)
  let d := coreNotice core (bump 1 d)
  if same || 2 ≤ hour.length then drainCore core 2 d else d

/-! ## The level of service (R504) -/

/-- Serviceable cores, channels in service, and ports UP or DEGRADED. -/
def Dev.admitted (d : Dev) : Nat × Nat × List Nat :=
  ((d.sched.cores.filter fun c => c.2.state == .serviceable).length,
    (d.mc.chans.filter fun c => c.2.state == .inService).length,
    (List.range 16).filter fun p => (d.port p).trained)

/-- The body of SERVICE_LEVEL: level, start kind and what is in service. -/
def Dev.serviceBody (d : Dev) : List Byte :=
  let (n, c, ps) := d.admitted
  natLe 1 (if d.boot.early then 1 else 2) ++ natLe 1 (if d.boot.cold then 1 else 2) ++ natLe 2 0 ++ natLe 4 n ++ natLe 4 c ++
    natLe 2 (ps.map (2 ^ ·)).sum

/-- SERVICE_LEVEL on a function's ring. -/
def postService (fn : Nat) (d : Dev) : Dev := postEvent fn 0x0A 0 d.serviceBody d

/-- SERVICE_LEVEL after a change: the manager hears of units admitted during early service, and each virtual function whose
READY has set hears of it. -/
def announce (old d : Dev) : Dev :=
  let a := old.admitted
  let b := d.admitted
  let d := if d.boot.early && (decide (a.1 < b.1) || decide (a.2.1 < b.2.1) || decide (a.2.2.length < b.2.2.length)) then postService mgr d else d
  d.vds.foldl (fun d v => if !old.ready v.1 && d.ready v.1 then postService v.1 d else d) d

/-- A change, and what is told of it. -/
def announcing (f : Dev → Dev) (d : Dev) : Dev := announce d (f d)

end Sys2Proof.Machine
end

