-- ==== Sys2Proof/Machine/Caches.lean ====
section
/-! DEFINITION. The translation caches of the engines (R246, R247) and what an access leaves in them, in the memory-side caches
and in the counters (R211, R229). -/

namespace Sys2Proof.Machine

open Sys2Proof

/-- The engine that reads for a virtual device at its hub: the front end, dispatch and the records go through it (R246, R267). -/
def hubEng (v : Nat) : XEng := .dma (hubOf v)

/-- Whether two entries' spans intersect. -/
def spansMeet (a b : REntry) : Bool := rangesMeet (a.start, a.len) (b.start, b.len)

/-- An entry is the latest used of an engine's range buffer of 32 entries; the least recently used makes room (R246). It takes the
place of entries of its virtual device that it overlaps. -/
def bufferPut (e : XEng) (c : CEntry) (d : Dev) : Dev :=
  d.onXlt fun x =>
    let l := x.buffers.filter fun b => !(b.1 == e && b.2.vdev == c.vdev && spansMeet b.2.e c.e)
    let l := if 32 ≤ (l.filter fun b => b.1 == e).length then ((takeFirst (fun b => b.1 == e) l).map Prod.snd).getD l else l
    { x with buffers := l ++ [(e, c)] }

/-- Install an entry in a second level of 1,024 entries. DESIGN CHOICE: the oldest makes room; the manual gives no rule for a
second level. -/
def installEntry (n : XNode) (e : CEntry) (d : Dev) : Dev :=
  d.onXlt fun x =>
    let l := x.caches.filter fun b => !(b.1 == n && b.2.vdev == e.vdev && spansMeet b.2.e e.e)
    let rest := if 1024 ≤ (l.filter fun c => c.1 == n).length then ((takeFirst (fun c => c.1 == n) l).map Prod.snd).getD l else l
    { x with caches := rest ++ [(n, e)] }

/-- A miss of a core's range buffer counts (Table 6-7). -/
def countMiss (e : XEng) (d : Dev) : Dev :=
  match e with
  | .core n => countCore n 9 1 d
  | .mover n => countCore n 9 1 d
  | _ => d

/-- The entry of a list that holds an address. -/
def centryAt (l : List CEntry) (va : Nat) : Option CEntry := l.find? fun c => decide (c.e.start ≤ va) && decide (va < c.e.start + c.e.len)

/-- An engine uses an entry: its range buffer holds it, its second level does, or a walk has brought it (R247). -/
def useEntry (e : XEng) (c : CEntry) (d : Dev) : Dev :=
  if (d.buffered e c.vdev).contains c then bufferPut e c d
  else
    let d := bufferPut e c (countMiss e d)
    if (d.secondLevel e.node c.vdev).contains c then d else installEntry e.node c d

/-- The entries that an engine uses for spans of a virtual device. -/
def entriesFor (d : Dev) (e : XEng) (v : Nat) (spans : List (Nat × Nat)) : List CEntry :=
  let walked : List CEntry := if (d.vd v).mirrorLost then [] else (d.vd v).table.map fun t => ⟨v, (d.vd v).gen, t⟩
  ((d.buffered e v ++ d.secondLevel e.node v ++ walked).filter fun c => spans.any fun s => rangesMeet s (c.e.start, c.e.len)).foldl
    (fun l c => if l.any fun b => spansMeet b.e c.e then l else l ++ [c]) []

/-- An engine has translated spans of a virtual device. -/
def useXlt (e : XEng) (v : Nat) (spans : List (Nat × Nat)) (d : Dev) : Dev := (entriesFor d e v spans).foldl (fun d c => useEntry e c d) d

/-- The generation of the entry that an engine finds for an address: a cached entry's own, else that of the active buffer. -/
def Dev.genAt (d : Dev) (e : XEng) (v va : Nat) : BitVec 32 :=
  match centryAt (d.buffered e v ++ d.secondLevel e.node v) va with
  | some c => c.gen
  | none => (d.vd v).gen

/-- The lines of device memory that spans of a virtual device hold, as an engine translates them: address and key slot. -/
def linesOf (d : Dev) (e : XEng) (v : Nat) (need : Need) (spans : List (Nat × Nat)) : List (Nat × Nat) :=
  (spans.flatMap fun s => parts s.1 s.2).filterMap fun p =>
    match translate ((d.seenBy e v).vd v) need p.1 with
    | .device pa key => match homeCheck d v pa key with
      | .ok (a, _, _) => some (a, key)
      | .error _ => none
    | _ => none

/-- An engine has read spans of a virtual device: its caches hold the entries, and the lines were served at their dies. -/
def noteRead (e : XEng) (v : Nat) (need : Need) (spans : List (Nat × Nat)) (d : Dev) : Dev :=
  (linesOf d e v need spans).foldl (fun d l => readLine v l.2 l.1 d) (useXlt e v spans d)

/-- The bytes of spans that lie at MC dies. -/
def dieBytes (d : Dev) (e : XEng) (v : Nat) (need : Need) (spans : List (Nat × Nat)) : Nat :=
  ((spans.flatMap fun s => parts s.1 s.2).map fun p => match translate ((d.seenBy e v).vd v) need p.1 with
    | .device _ _ => p.2
    | _ => 0).sum

/-- Bytes read and written at MC dies count for a context (Table 12-2). -/
def countIo (ctx r n : Nat) (d : Dev) : Dev :=
  d.onCtx ctx fun x => { x with read := x.read + BitVec.ofNat 64 r, written := x.written + BitVec.ofNat 64 n }

/-- An engine has read spans for a command of a context. -/
def readFor (ctx : Nat) (e : XEng) (v : Nat) (need : Need) (spans : List (Nat × Nat)) (d : Dev) : Dev :=
  countIo ctx (dieBytes d e v need spans) 0 (noteRead e v need spans d)

/-- An engine has written spans for a command of a context. -/
def wroteFor (ctx : Nat) (e : XEng) (v : Nat) (spans : List (Nat × Nat)) (d : Dev) : Dev :=
  countIo ctx 0 (dieBytes d e v needW spans) d

end Sys2Proof.Machine
end

