-- ==== Sys2Proof/Machine/Cmd.lean ====
section
/-! DEFINITION. Shared operations over commands and fences: descriptor fields, the fence unit, completion records and
the backlog, the failure, abort and end of a command. -/

namespace Sys2Proof.Machine

open Sys2Proof

/-! ## Descriptor and configuration fields (Tables 11-3, 11-7) -/

/-- `GQI_CD_KIND`. -/
def Cmd.kind (c : Cmd) : Nat := fieldLe c.desc 0 1
/-- `GQI_CD_N_WAIT`. -/
def Cmd.nWait (c : Cmd) : Nat := fieldLe c.desc 1 1
/-- `GQI_CD_ACL`. -/
def Cmd.acl (c : Cmd) : Nat := fieldLe c.desc 2 2
/-- `GQI_CD_FLAGS`. -/
def Cmd.flagWord (c : Cmd) : Nat := fieldLe c.desc 4 4
/-- RECEIPT. -/
def Cmd.receiptFlag (c : Cmd) : Bool := bitAt c.flagWord 1
/-- DIGEST, which RECEIPT implies. -/
def Cmd.digestFlag (c : Cmd) : Bool := bitAt c.flagWord 0 || bitAt c.flagWord 1
/-- JOURNAL. -/
def Cmd.journalFlag (c : Cmd) : Bool := bitAt c.flagWord 2
/-- JOB_START. -/
def Cmd.jobStart (c : Cmd) : Bool := bitAt c.flagWord 3
/-- JOB_END. -/
def Cmd.jobEnd (c : Cmd) : Bool := bitAt c.flagWord 4
/-- CHAIN. -/
def Cmd.chainFlag (c : Cmd) : Bool := bitAt c.flagWord 5
/-- `GQI_CD_SIG_FENCE`. -/
def Cmd.sigId (c : Cmd) : Nat := fieldLe c.desc 0x0C 4
/-- `GQI_CD_SIG_VALUE`. -/
def Cmd.sigValue (c : Cmd) : BitVec 64 := BitVec.ofNat 64 (fieldLe c.desc 0x10 8)
/-- `GQI_CD_PARAM`. -/
def Cmd.param (c : Cmd) : Nat := fieldLe c.desc 0x18 8
/-- `GQI_CD_CHAIN`. -/
def Cmd.chainAddr (c : Cmd) : Nat := fieldLe c.desc 0x30 8
/-- The fence id of wait i. -/
def Cmd.waitId (c : Cmd) (i : Nat) : Nat := fieldLe c.desc (0x40 + 16 * i) 4
/-- The value of wait i. -/
def Cmd.waitValue (c : Cmd) (i : Nat) : BitVec 64 := BitVec.ofNat 64 (fieldLe c.desc (0x48 + 16 * i) 8)

/-- `GQI_QC_QID`. -/
def Queue.qid (x : Queue) : Nat := fieldLe x.cfg 0 2
/-- Whether the queue is best-effort (`GQI_QC_CLASS`). -/
def Queue.be (x : Queue) : Bool := fieldLe x.cfg 2 1 == 1
/-- EXCLUSIVE. -/
def Queue.exclusive (x : Queue) : Bool := bitAt (fieldLe x.cfg 3 1) 0
/-- Entries of the command ring. -/
def Queue.S (x : Queue) : Nat := 2 ^ fieldLe x.cfg 4 1
/-- Records of the completion ring. -/
def Queue.C (x : Queue) : Nat := 2 ^ fieldLe x.cfg 5 1
/-- `GQI_QC_MSIX`. -/
def Queue.msix (x : Queue) : Nat := fieldLe x.cfg 6 1
/-- `GQI_QC_PARTITION`. -/
def Queue.part (x : Queue) : Nat := fieldLe x.cfg 7 1
/-- `GQI_QC_SQ_BASE`. -/
def Queue.sqBase (x : Queue) : Nat := fieldLe x.cfg 8 8
/-- `GQI_QC_CQ_BASE`. -/
def Queue.cqBase (x : Queue) : Nat := fieldLe x.cfg 0x10 8
/-- `GQI_QC_AUDIT_BASE`. -/
def Queue.auditBase (x : Queue) : Nat := fieldLe x.cfg 0x18 8
/-- The timeout in ticks (R283). -/
def Queue.timeoutTicks (x : Queue) : BitVec 64 := BitVec.ofNat 64 (100 * (fieldLe x.cfg 0x20 4 + 1))

/-- The detail of an access that failed (Table 11-11). -/
def Detail.none : Detail := ⟨0, false, false, 0, 0⟩
/-- The detail of a translation failure. -/
def Detail.xlate (va cause : Nat) : Detail := ⟨va, false, false, cause, 0⟩

/-! ## The fence unit (R215, R216) -/

/-- The MC die of a fence cell. -/
def cellDie (k : Nat) : Nat := k / 1048576

/-- The channel in which a fence cell is laid out (R214). -/
def cellHome (k : Nat) : Nat := 32 * cellDie k + k % 1048576 % 32

/-- The channel offset of a fence cell (R214, Table 9-3). -/
def cellOffset (k : Nat) : Nat := 0x5A000000 + 64 * (k % 1048576 / 32)

/-- The channel that holds a fence cell now: its own, or the one to which the reserved region has moved with a retired channel
(R209, R225). -/
def Dev.cellChan (d : Dev) (k : Nat) : Nat := d.regionChan (cellHome k)

/-- Whether a cell is lost with its home MC die, or with the die that holds its channel's region now (R227, R300). -/
def Dev.cellLost (d : Dev) (k : Nat) : Bool := (d.cell k).lost || (d.die (cellDie k)).lost || (d.die (d.cellChan k / 32)).lost

/-- `MC_FC_WAITERS`: the registered waits of a cell (Table 9-4). -/
def Dev.cellWaiters (d : Dev) (k : Nat) : Nat := (d.fx.waits.filter fun w => w.cell == k).length

/-- The 64 bytes of a fence cell (Table 9-4). -/
def Dev.cellBytes (d : Dev) (k : Nat) : List Byte :=
  let c := d.cell k
  natLe 64 (c.value.toNat + (if c.state = 2 then c.error.toNat else 0) * 2 ^ 64 + c.state % 4 * 2 ^ 80 + c.vdev % 256 * 2 ^ 82 +
    c.gen.toNat * 2 ^ 96 + d.cellWaiters k % 2 ^ 32 * 2 ^ 128)

/-- What a READ of a cell replies (R215): the cell; of a lost one, state ERROR, value 0 and code 0x0011 (R227). -/
def Dev.cellReply (d : Dev) (k : Nat) : List Byte :=
  if d.cellLost k then natLe 64 (0x11 * 2 ^ 64 + 2 * 2 ^ 80) else d.cellBytes k

/-- The evaluation of a wait on value t (R216): pending, signalled, or an error code. -/
def Dev.evalWait (d : Dev) (k : Nat) (t : BitVec 64) : Option (Option Nat) :=
  if d.cellLost k then some (some 0x11)
  else if t ≤ (d.cell k).value then some none
  else if (d.cell k).state = 2 then some (some (d.cell k).error.toNat)
  else none

/-- Send a notification to the endpoint of a wait. -/
def noteWait (src : FSrc) (e : Option Nat) (d : Dev) : Dev :=
  d.onFx fun x => { x with notes := x.notes ++ [⟨x.nextId, src, e⟩], nextId := x.nextId + 1 }

/-- Notify and remove the registered waits of a cell whose evaluation has changed (R216). -/
def notifyWaits (k : Nat) (d : Dev) : Dev :=
  let due := d.fx.waits.filter fun w => w.cell == k && (d.evalWait k w.t).isSome
  let d := d.onFx fun x => { x with waits := x.waits.filter fun w => !(w.cell == k && (d.evalWait k w.t).isSome) }
  due.foldl (fun d w => noteWait w.src ((d.evalWait k w.t).getD none) d) d

/-- SIGNAL(v) commits (Table 9-5). -/
def commitSignal (k : Nat) (v : BitVec 64) (d : Dev) : FOut × Dev :=
  let c := d.cell k
  if d.cellLost k then (.refused 0x11, d)
  else if c.state = 1 then
    if c.value < v then (.applied, notifyWaits k (d.onCell k fun c => { c with value := v })) else (.stale, d)
  else (.refused c.error.toNat, d)

/-- FAIL(code, t) commits (Table 9-5). -/
def commitFail (k code : Nat) (t : BitVec 64) (d : Dev) : FOut × Dev :=
  let c := d.cell k
  if d.cellLost k then (.alreadyFailed 0x11, d)
  else if c.state = 1 then
    if c.value < t then (.applied, notifyWaits k (d.onCell k fun c => { c with state := 2, error := BitVec.ofNat 16 code }))
    else (.signalled, d)
  else if c.state = 2 then (.alreadyFailed c.error.toNat, d)
  else (.signalled, d)

/-- Whether a proxy has failed locally (R394). -/
def Dev.proxyFailed (d : Dev) (v s : Nat) : Bool := d.fx.deadProxies.contains (v, s)

/-- Reply to a fence operation. -/
def replyFence (src : FSrc) (o : FOut) (d : Dev) : Dev :=
  match src with
  | .nobody => d
  | .dead _ _ _ _ _ => d
  | _ => d.onFx fun x => { x with reps := x.reps ++ [⟨x.nextId, src, o⟩], nextId := x.nextId + 1 }

/-- The home's answer to a READ_FENCE of a proxy is kept for the request, which then completes. -/
def readBack (src : FSrc) (state value error : Nat) (d : Dev) : Dev :=
  match src with
  | .admin fn slot => d.onFx fun x => { x with reads := x.reads ++ [(fn, slot, state, value, error)] }
  | _ => d

/-- What a proxy that has failed locally answers (R394): error 0x0011 at every value. -/
def answerDead (op : FOp) (src : FSrc) (d : Dev) : Dev :=
  match op with
  | .signal _ => replyFence src (.refused 0x11) d
  | .fail _ _ => replyFence src (.alreadyFailed 0x11) d
  | .wait _ => noteWait src (some 0x11) d
  | .read => readBack src 2 0 0x11 d

/-- The trained port of a composition that reaches a package, in the map that the owning hub holds (R338): the lowest in number. -/
def Dev.portTo (d : Dev) (v pkg : Nat) : Option Nat :=
  (List.range 16).find? fun p => bitAt (d.mapOf (hubEnd v) v).ports.toNat p && (d.port p).trained && (d.port p).peerPkg.toNat == pkg

/-- Send a fence operation towards the home of the fence (R215); for a fence of another package it leaves on a port of
the composition that reaches the home, at once or when there is one (R394). -/
def sendFence (r : FRef) (op : FOp) (src : FSrc) (d : Dev) : Dev :=
  match r with
  | .cell k => d.onFx fun x => { x with reqs := x.reqs ++ [⟨x.nextId, k, op, src⟩], nextId := x.nextId + 1 }
  | .proxy v s =>
    if d.proxyFailed v s then answerDead op src d
    else
      let y := Tab.getD (d.vd v).slots s FSlot.reset
      let port := d.portTo v y.pkg
      let d := d.onFx fun x => { x with remote := x.remote ++ [⟨x.nextId, v, s, op, src, d.hlcOf v, port.isSome⟩], nextId := x.nextId + 1 }
      match port with
      | some p => (d.onPort p fun x => x.send 1).emit (.fenceOut p v s y.home (d.fx.nextId - 1) op)
      | none => d

/-! ## Fence slots and cells -/

/-- The slot number of a fence id (Table 12-3). -/
def fidSlot (id : Nat) : Nat := bits id 15 0
/-- The use count of a fence id. -/
def fidUse (id : Nat) : Nat := bits id 31 16

/-- The slot a fence id names, if the id is valid for the virtual device (R298). -/
def Vd.fence? (x : Vd) (id : Nat) : Option FSlot :=
  let s := x.slot (fidSlot id)
  if fidSlot id ≠ 0 && s.inUse && s.use == fidUse id then some s else none

/-- Ring entries submitted and not yet fetched: the index of each. -/
def Queue.unfetched (x : Queue) : List Nat := (List.range ((x.tail + x.S - x.sqHead) % x.S)).map fun k => (x.sqHead + k) % x.S

/-- Every command of a queue that has not committed: the current one, then those fetched. -/
def Queue.cmds (x : Queue) : List Cmd := x.cur.toList ++ x.fetched

/-- Whether a command refers to a fence. -/
def Cmd.refers (c : Cmd) (r : FRef) : Bool := c.sig == some r || c.waits.contains r

/-- Whether anything still refers to a cell (R306): a slot here or in another package, an uncommitted command, an operation on
its way. -/
def Dev.cellReferenced (d : Dev) (k : Nat) : Bool :=
  (d.vds.any fun (_, x) => (x.slots.any fun (_, s) => s.inUse && s.ref == .cell k) ||
    x.queues.any fun (_, q) => q.cmds.any fun c => c.refers (.cell k)) || d.fx.held.contains k || d.fx.reqs.any fun r => r.cell == k

/-- Cells that the fence store of an MC die holds (R214). -/
def fenceRoom : Nat := 32768

/-- The fence unit reads a cell (R214, R219): from its store, or, for one that is not there or has bad parity, from the stack. The store
keeps the cells used last. DESIGN CHOICE (log entry 73): the order in which the store gives up cells. -/
def storeRead (k : Nat) (bad : Bool) (d : Dev) : Dev :=
  let held := (d.die (cellDie k)).store
  let d := d.onDie (cellDie k) fun m => { m with store := (k :: held.filter fun i => i != k).take fenceRoom }
  let d := if bad then bump 1 d else d
  if held.contains k && !bad then d else countCh (cellHome k) 0 d

/-- A change of a cell is written through to the stack (R214). -/
def storeWrite (k : Nat) (old new : Dev) : Dev := if new.cellBytes k == old.cellBytes k then new else countCh (cellHome k) 1 new

/-- An operation of the fence unit on a cell of its die (R214, R215), unless the die is lost. -/
def storeOp {α : Type} (k : Nat) (bad : Bool) (go : Dev → α × Dev) (d : Dev) : α × Dev :=
  if d.cellLost k then go d
  else
    let d := storeRead k bad d
    let (o, e) := go d
    (o, storeWrite k d e)

/-- A change of a cell outside the fence operations: its creation, and its return to FREE (R299, R306). -/
def storeSet (k : Nat) (f : FCell → FCell) (d : Dev) : Dev := (storeOp k false (fun d => ((), d.onCell k f)) d).2

/-- The cell returns to FREE when its last reference is released (R306). -/
def releaseCell (k : Nat) (d : Dev) : Dev :=
  if d.cellReferenced k then d
  else if (d.cell k).state = 0 then d
  else storeSet k (fun c => { c with state := 0, error := 0, value := 0, lost := false }) d

/-- Release the cells that a command named, where nothing else refers to them. -/
def releaseRefs (c : Cmd) (d : Dev) : Dev :=
  (c.sig.toList ++ c.waits).foldl (fun d r => match r with | .cell k => releaseCell k d | .proxy _ _ => d) d

/-! ## Completion records (R277, R288 … R291) -/

/-- The 32 bytes of a completion record (Table 11-9). -/
def Rec.bytes (r : Rec) (phase : Bool) : List Byte :=
  natLe 32 (r.index % 2 ^ 16 + r.error % 2 ^ 16 * 2 ^ 16 + r.flags.toNat * 2 ^ 32 + r.stamp.toNat % 2 ^ 56 * 2 ^ 64
    + (if phase then 2 ^ 120 else 0) + r.detail.addr % 2 ^ 56 * 2 ^ 121 + r.chain % 32 * 2 ^ 177
    + (if r.detail.cs then 2 ^ 182 else 0) + (if r.detail.inherited then 2 ^ 183 else 0)
    + r.detail.auxA % 2 ^ 36 * 2 ^ 184 + r.detail.auxB % 2 ^ 36 * 2 ^ 220)

/-- Ask ATS for a host page unless a request for it is outstanding. -/
def askAts (fn page : Nat) (d : Dev) : Dev :=
  if d.xlt.atsOut.contains (fn, page) then d
  else (d.onXlt fun x => { x with atsOut := x.atsOut ++ [(fn, page)] }).emit (.atsRequest fn page)

/-- Issue a PRI page request for a host page (R250): at most one for a page and 512 for a function; another waits for room. -/
def askPri (fn page : Nat) (d : Dev) : Dev :=
  if (d.xlt.pageReqs ++ d.xlt.priWait).any fun r => r.fn == fn && r.page == page then d
  else if 512 ≤ (d.xlt.pageReqs.filter fun r => r.fn == fn).length then d.onXlt fun x => { x with priWait := x.priWait ++ [⟨fn, page⟩] }
  else (d.onXlt fun x => { x with pageReqs := x.pageReqs ++ [⟨fn, page⟩] }).emit (.pageRequest fn page)

/-- Go on with a host page whose permission is wanted: ATS first, a page request where ATS has given too little. -/
def askPage (fn page : Nat) (d : Dev) : Dev :=
  if (d.xlt.pageReqs ++ d.xlt.priWait).any fun r => r.fn == fn && r.page == page then d
  else if (d.atc? fn page).isSome then askPri fn page d
  else askAts fn page d

/-- An access that needs a page request is refused since a Response Failure of the function (R250). -/
def Dev.priRefused (d : Dev) (fn page : Nat) : Bool := d.xlt.priOff.contains fn && (d.atc? fn page).isSome

/-- What became of the attempt to write a record at the ring. -/
inductive RecTry where
  | done | full | unwritable | waiting (page : Nat)
  deriving DecidableEq, Repr

/-- The ring index after a record, and its phase (R268). -/
def Queue.bumpCq (x : Queue) : Queue :=
  { x with cqIndex := (x.cqIndex + 1) % x.C, cqPhase := if x.cqIndex + 1 = x.C then !x.cqPhase else x.cqPhase }

/-- Try to write one record at the queue's next ring index, and signal its vector (R268, R269, R288). -/
def tryRecord (v q : Nat) (r : Rec) (w : Wk) : RecTry × Wk :=
  match w.dev.queue? v q with
  | none => (.done, w)
  | some x =>
    let va := x.cqBase + 32 * x.cqIndex
    let bs := r.bytes x.cqPhase
    let ok (w : Wk) : Wk := w.on fun d => signalVec v x.msix (useXlt (.dma (hubOf v)) v [(va, 32)] (d.setQueue v q x.bumpCq))
    if x.cqIndex = (x.cqHead + x.C - 1) % x.C then (.full, w)
    else match translate ((w.dev.seenBy (.dma (hubOf v)) v).vd v) needW va with
      | .bad _ => (.unwritable, w)
      | .device pa key =>
        match writePiece v pa key bs none w with
        | .error _ => (.unwritable, w)
        | .ok w => (.done, ok w)
      | .host i =>
        match w.dev.atc? v (i / 4096) with
        | some (_, true) => (.done, ok (w.on fun d => hostStore v i bs d))
        | _ => if w.dev.priRefused v (i / 4096) then (.unwritable, w) else (.waiting (i / 4096), w)

/-- A record enters the backlog: the first one stalls the queue, the 256th blocks it (R288, R289). -/
def toBacklog (v q cause : Nat) (r : Rec) (d : Dev) : Dev :=
  match d.queue? v q with
  | none => d
  | some x =>
    let n := x.backlog.length + 1
    let first := x.backlog.isEmpty
    let st := match x.state with
      | .active => if 256 ≤ n then .blocked else .stalled
      | .stalled => if 256 ≤ n then .blocked else .stalled
      | s => s
    let d := d.setQueue v q { x with backlog := x.backlog ++ [r], state := st, cause := if first then cause else x.cause }
    if first then
      raiseNotice noticeStalled v [BitVec.ofNat 32 x.qid, BitVec.ofNat 32 cause]
        (postEvent v 3 x.qid (natLe 2 x.qid ++ natLe 1 cause) d)
    else d

/-- Write a record, or put it behind those already held (R288). Records of a queue in DESTROYING are discarded
(R277). -/
def pushRecord (v q : Nat) (r : Rec) (w : Wk) : Wk :=
  match w.dev.queue? v q with
  | none => w
  | some x =>
    if x.state = .destroying then w
    else if !x.backlog.isEmpty then w.on (toBacklog v q x.cause r)
    else if !x.recWait.isEmpty then w.on fun d => d.setQueue v q { x with recWait := x.recWait ++ [r] }
    else match tryRecord v q r w with
      | (.done, w) => w
      | (.full, w) => w.on (toBacklog v q 2 r)
      | (.unwritable, w) => w.on (toBacklog v q 1 r)
      | (.waiting page, w) => w.on fun d => askPage v page (d.onQueue v q fun x => { x with recWait := x.recWait ++ [r] })

/-- The backlog has become empty: the queue returns to ACTIVE (R291); one in FETCH_ERROR stays there, with its cause cleared. -/
def resumeQueue (v q : Nat) (d : Dev) : Dev :=
  match d.queue? v q with
  | none => d
  | some x =>
    if x.backlog.isEmpty && (x.state == .stalled || x.state == .blocked) then
      postEvent v 4 x.qid (natLe 2 x.qid) (d.setQueue v q { x with state := .active, cause := 0 })
    else if x.backlog.isEmpty && x.state == .fetchError && x.cause != 0 then
      postEvent v 4 x.qid (natLe 2 x.qid) (d.setQueue v q { x with cause := 0 })
    else if x.state == .blocked && decide (x.backlog.length < 256) then d.setQueue v q { x with state := .stalled }
    else d

/-- Retry the backlog in order until a write fails again; a write that needs the host's answer goes on with it (R279,
R250). -/
def retryBacklog (v q : Nat) : Nat → Wk → Wk
  | 0, w => w.on (resumeQueue v q)
  | n + 1, w =>
    match w.dev.queue? v q with
    | none => w
    | some x =>
      match x.backlog with
      | [] => w.on (resumeQueue v q)
      | r :: rest =>
        match tryRecord v q r w with
        | (.done, w) => retryBacklog v q n (w.on fun d => d.onQueue v q fun x => { x with backlog := rest })
        | (.waiting page, w) =>
          w.on fun d => resumeQueue v q (askPage v page (d.onQueue v q fun x => { x with retrying := true }))
        | (_, w) => w.on (resumeQueue v q)

/-- Retry the whole backlog of a queue. -/
def retryQueue (v q : Nat) (w : Wk) : Wk := retryBacklog v q (((w.dev.queue? v q).map fun x => x.backlog.length).getD 0) w

/-- Go on with a retry that waited on a host page. -/
def resumeRetry (v q : Nat) (w : Wk) : Wk :=
  match w.dev.queue? v q with
  | none => w
  | some x => if x.retrying then retryQueue v q (w.on fun d => d.setQueue v q { x with retrying := false }) else w

/-- Retry the backlogs of every queue of a virtual device (R279). -/
def retryVd (v : Nat) (w : Wk) : Wk := ((w.dev.vd v).queues.map Prod.fst).foldl (fun w q => retryQueue v q w) w

/-- Write the records that wait on an address translation, now resolved; those that cannot be written go to the
backlog (R250, R288). -/
def flushRecWait (v q : Nat) (w : Wk) : Wk :=
  match w.dev.queue? v q with
  | none => w
  | some x =>
    x.recWait.foldl (fun w r => pushRecord v q r w) (w.on fun d => d.setQueue v q { x with recWait := [] })

/-- Send the records that wait on a page that will not be made writable to the backlog. -/
def failRecWait (v q : Nat) (d : Dev) : Dev :=
  match d.queue? v q with
  | none => d
  | some x => x.recWait.foldl (fun d r => toBacklog v q 1 r d) (d.setQueue v q { x with recWait := [] })

/-! ## Audit slots -/

/-- Whether a command has an audit slot: DIGEST or RECEIPT, on a ring entry of a queue with an audit ring (R29). -/
def hasSlot (x : Queue) (c : Cmd) : Bool := c.digestFlag && x.auditBase != 0 && c.chain == 0

/-- Write the 1,024 bytes of a command's audit slot through the translation of the owning hub (R522). -/
def writeSlot (v : Nat) (x : Queue) (c : Cmd) (bs : List Byte) (w : Wk) : Wk × Option Acc :=
  let va := x.auditBase + 1024 * c.index
  let hub : XEng := .dma (hubOf v)
  match checkAs hub w.dev v needW (parts va 1024) with
  | some e => (w, some e)
  | none => writeAs hub v va (sliceB bs 0 1024) none (w.on (useXlt hub v [(va, 1024)]))

/-- R34: the slot of a failed command is all zero; where it cannot be written it is left as it stood (R522). -/
def clearSlot (v : Nat) (x : Queue) (c : Cmd) (w : Wk) : Wk :=
  if hasSlot x c then (writeSlot v x c [] w).1 else w

/-! ## Queues and slots that are released -/

/-- Every queue of a virtual device that runs on a partition. -/
def Vd.partQueues (x : Vd) (p : Nat) : List (Nat × Queue) := x.queues.filter fun q => q.2.part == p

/-- The best-effort queues of a partition in ascending device queue number. -/
def beRing (x : Vd) (p : Nat) : List (Nat × Queue) :=
  sortBy (fun q => (q.2.devq, 0)) ((x.partQueues p).filter fun q => q.2.be)

/-- The next member of the ring after a device queue number. -/
def nextTurn (ring : List Nat) (devq : Nat) : Option Nat :=
  match ring.find? fun n => decide (devq < n) with
  | some n => some n
  | none => ring.head?

/-- A queue becomes FREE (R312 step 4): its rings are no longer held, exclusive ownership ends (R336), and the turn passes
on (R333). -/
def freeQueue (v q : Nat) (d : Dev) : Dev :=
  match d.queue? v q with
  | none => d
  | some x =>
    let ring := ((beRing (d.vd v) x.part).map fun y => y.2.devq).filter (· != x.devq)
    d.onVd v fun y => { y with
      queues := Tab.del y.queues q
      parts := y.parts.map fun (i, p) => (i, { p with
        holder := if p.holder == some x.uid then none else p.holder
        turn := if i = x.part ∧ p.turn = some x.devq then nextTurn ring x.devq else p.turn
        turnStart := if i = x.part ∧ p.turn = some x.devq then d.hlcOf v else p.turnStart }) }

/-- Release a fence slot; its cell goes with its last reference (R306). -/
def releaseSlot (v i : Nat) (d : Dev) : Dev :=
  let s := (d.vd v).slot i
  let d := d.onVd v fun x => { x with slots := Tab.put x.slots i { s with inUse := false, destroyed := false, owned := false, canSignal := false } }
  match s.ref with
  | .cell k => releaseCell k d
  | .proxy pv ps => (d.onFx fun x => { x with deadProxies := x.deadProxies.filter (· != (pv, ps)) }).emit (.fenceRelease s.pkg s.home)

/-! ## Admin responses and status codes -/

/-- OK. -/
def stOk : Nat := 0
/-- UNKNOWN_OP. -/
def stUnknown : Nat := 1
/-- FIELD. -/
def stField : Nat := 2
/-- NOT_HELD. -/
def stNotHeld : Nat := 3
/-- STATE. -/
def stState : Nat := 4
/-- NO_RESOURCE. -/
def stNoRes : Nat := 5
/-- EPOCH. -/
def stEpoch : Nat := 6
/-- FAILED. -/
def stFailed : Nat := 7
/-- CANCELLED. -/
def stCancelled : Nat := 8

/-- The bytes of a response (Table 16-9). -/
def responseBytes (status code : Nat) (phase : Bool) (tag : BitVec 32) (result : List Byte) : List Byte :=
  natLe 2 status ++ natLe 2 (if phase then 1 else 0) ++ natLe 4 tag.toNat ++ natLe 2 code ++ natLe 6 0 ++ sliceB result 0 48

/-- Write a response: PHASE is 1 on the first use of the slot and inverted on each later use (R403); the admin vector is
signalled. The effect and the response are journaled first (R409). -/
def adRespond (fn slot : Nat) (tag : BitVec 32) (status code : Nat) (result : List Byte) (d : Dev) : Dev :=
  let d := journal 2 [fn, slot, status] d
  let f := d.fn fn
  let n := Tab.getD f.respUsed slot 0
  signalVec fn f.adminVec (d.setFn fn { f with
    respSlots := Tab.put f.respSlots slot (responseBytes status code (n % 2 == 0) tag result)
    respUsed := Tab.put f.respUsed slot (n + 1)
    taken := Tab.del f.taken slot })

/-! ## Function reset and freeze: what ends them -/

/-- A request of the manager that firmware has taken and that meets a test is answered. -/
def answerMgr (p : DefOp → Bool) (status : Nat) (d : Dev) : Dev :=
  match (d.fn mgr).taken.find? fun t => p t.2.op with
  | some (slot, t) => adRespond mgr slot t.tag status 0 [] d
  | none => d

/-- Whether a taken request of the manager meets a test. -/
def Dev.mgrWaits (d : Dev) (p : DefOp → Bool) : Bool := (d.fn mgr).taken.any fun t => p t.2.op

/-- A RESET_FUNCTION of a virtual device. -/
def DefOp.resets (v : Nat) : DefOp → Bool
  | .reset u => u == v
  | _ => false

/-- A FREEZE of a virtual device. -/
def DefOp.freezes (v : Nat) : DefOp → Bool
  | .freeze u _ => u == v
  | _ => false

/-- The function reset of a virtual device ends when no command of it is left (R350): its queues are FREE, its contexts and
slots are gone. -/
def finishReset (v : Nat) (d : Dev) : Dev :=
  let x := d.vd v
  if !x.inReset || x.queues.any fun q => q.2.cur.isSome then d
  else
    let d := x.queues.foldl (fun d q => freeQueue v q.1 d) d
    let d := { d with ctxs := d.ctxs.filter fun c => c.2.vdev != v }
    let d := (x.slots.filter fun s => s.2.inUse).foldl (fun d s => releaseSlot v s.1 d) d
    answerMgr (DefOp.resets v) stOk (d.onVd v fun y => { y with inReset := false })

/-- Report a step of a migration to the manager (R372): the operation code and its status. -/
def noteMigration (v op status : Nat) (d : Dev) : Dev :=
  raiseNotice noticeMigration v [BitVec.ofNat 32 (op + 65536 * status)] d

/-- A command held at its boundary: current and not started (Table 14-7). -/
def Cmd.held (c : Cmd) : Bool :=
  !c.started && (c.phase == .waiting || c.phase == .eligible || c.phase == .resid || c.phase == .checked)

/-- Whether a fence operation of a virtual device is on its way, but for registered waits. -/
def Dev.fenceBusy (d : Dev) (v : Nat) : Bool :=
  let mine (s : FSrc) : Bool := match s with
    | .cmdFail u _ _ _ => u == v
    | .timeout u _ _ _ => u == v
    | .signal u _ _ => u == v
    | .admin u _ => u == v
    | _ => false
  d.fx.reqs.any (fun r => mine r.src) || d.fx.reps.any (fun r => mine r.src) || d.fx.remote.any fun r => mine r.src

/-- Whether a virtual device is at rest (Table 14-7): no attempt runs, no synchronisation or fence operation is
outstanding, every map is published, and old-epoch traffic to units that leave it has drained. -/
def Dev.atRest (d : Dev) (v : Nat) : Bool :=
  (d.vd v).sync.isNone && !d.fenceBusy v && (d.sched.publish.all fun p => p.vdev != v) &&
    (d.sched.leaving.all fun u => u.vdev != v || u.left.isEmpty) && (d.vd v).queues.all fun q => match q.2.cur with
    | some c => c.held
    | none => true

/-- Fault-table entries of a frozen virtual device, and faults on their way, are dropped; the commands that wait on them are
held (Table 14-7 step 4). -/
def dropFaults (v : Nat) (d : Dev) : Dev :=
  let gone := d.xlt.faults.filter fun e => e.2.vdev == v
  let d := d.onXlt fun x => { x with
    faults := x.faults.filter fun e => e.2.vdev != v
    batches := Tab.del x.batches v
    faultMsgs := x.faultMsgs.filter fun m => m.vdev != v
    faultFull := x.faultFull.filter fun m => m.vdev != v }
  let d := gone.foldl (fun d e => journal 5 [e.1, 0, e.2.vdev, e.2.page % 2 ^ 32] d) d
  let back (c : Cmd) : Cmd := if c.phase == .resid then { c with phase := .eligible } else c
  d.onVd v fun x => { x with queues := x.queues.map fun (q, y) => (q, { y with cur := y.cur.map back }) }

/-- FREEZE completes when the virtual device is at rest (R366): its faults are dropped, and its prefetch lists, whose lines PREFETCH has
filled, are over. -/
def settleFreeze (v : Nat) (d : Dev) : Dev :=
  if !(d.vd v).frozen || !d.atRest v || !d.mgrWaits (DefOp.freezes v) then d
  else
    let d := dropFaults v d
    let d := d.onMc fun m => { m with dies := m.dies.map fun (k, y) => (k, { y with prefetch := y.prefetch.filter fun f => f.1 != v }) }
    noteMigration v 0x0401 stOk (answerMgr (DefOp.freezes v) stOk d)

/-! ## The end of a command -/

/-- A command leaves a core. Where it shared the core with one that had resumed, the core is the other's (R254). -/
def Core.without (no : Nat) (c : Core) : Core :=
  if c.switched == some no then { c with switched := none, shares := false }
  else if c.busy != some no then c
  else if c.shares then { c with busy := c.switched, switched := none, shares := false }
  else { c with busy := none }

/-- Free the cores that a command holds. -/
def freeCores (no : Nat) (d : Dev) : Dev := d.onSched fun s => { s with cores := s.cores.map fun (n, c) => (n, c.without no) }

/-- Count a command of a virtual device in its context (Table 12-2). A context that another virtual device holds, which a refused
descriptor may name, counts nothing. -/
def countCtx (v : Nat) (c : Cmd) (ok : Bool) (d : Dev) : Dev :=
  d.onCtx c.context fun x =>
    if x.vdev ≠ v then x else if ok then { x with done := x.done + 1 } else { x with failed := x.failed + 1 }

/-- Exclusive ownership of a partition ends with its JOB_END command, or where the command that took it fails before it is placed
(R335). -/
def endJob (v : Nat) (x : Queue) (c : Cmd) (d : Dev) : Dev :=
  let unplaced := c.attempt = 0 && (Tab.get? (d.vd v).parts x.part).any fun p => p.holder == some x.uid && p.jobBy == c.no
  if c.jobEnd || unplaced then
    d.onVd v fun y => { y with parts := y.parts.map fun (n, p) =>
      (n, if n == x.part && p.holder == some x.uid then { p with holder := none } else p) }
  else d

/-- Waiters that meet a test are gone; a fault-table entry is freed when its last waiter is gone (R256), but for
one that blocks a page of a move (R258) and one whose FAULT is held unposted (R406). -/
def dropWaiters (p : Waiter → Bool) (d : Dev) : Dev :=
  d.onXlt fun x => { x with
    faultMsgs := x.faultMsgs.filter fun m => !p m.who
    faultFull := x.faultFull.filter fun m => !p m.who
    faults := (x.faults.map fun (k, e) => (k, { e with waiters := e.waiters.filter fun y => !p y.1 })).filter fun e =>
      !e.2.waiters.isEmpty || e.2.kind == 0 || d.unposted e.1 e.2
    hostWait := x.hostWait.filter fun h => !p h.2.2 }

/-- The exchanges of a command's attempt close. Its phase record stays: the next attempt resumes from it (R426). -/
def closeExchanges (no : Nat) (d : Dev) : Dev :=
  { d with fab := { d.fab with exchanges := d.fab.exchanges.filter fun e => e.cmd != no } }

/-- Complete host-page invalidations whose requests, those that used the dropped entries, have all completed (R249). -/
def flushAts (d : Dev) : Dev :=
  let open_ (i : Nat × Nat × Nat × List Nat) : Bool := d.mc.host.any fun r => i.2.2.2.contains r.id
  let done := d.xlt.atsInval.filter fun i => !open_ i
  let d := d.onXlt fun x => { x with atsInval := x.atsInval.filter open_ }
  done.foldl (fun d i => d.emit (.atsDone i.1 i.2.1 i.2.2.1)) d

/-- What is left in the memory system and the cores of a command's attempt is dropped. -/
def dropWork (no : Nat) (d : Dev) : Dev :=
  let mine := (d.mc.reqs.filter fun r => r.cmd == no).map MReq.id
  let d := dropWaiters (fun y => match y with
    | .fetch _ _ => false
    | .cmd _ _ n => n == no
    | .group _ _ n _ => n == no
    | .access id => mine.contains id) d
  let d := flushAts (d.onMc fun m => { m with
    reqs := m.reqs.filter fun r => r.cmd != no
    resps := m.resps.filter fun r => r.req.cmd != no
    host := m.host.filter fun r => r.cmd != no })
  closeExchanges no { d with
    kern := Tab.del d.kern no
    net := { d.net with sums := d.net.sums.filter fun m => m.cmd != no } }

/-! ## Collectives: fields and neighbours (R133, R388) -/

/-- Whether a command is a collective whose parameter block has been read. -/
def Cmd.isColl (c : Cmd) : Bool := c.kind == 1 && fieldLe c.params 2 2 == 9
/-- `GQI_OP_GROUP_ID`. -/
def Cmd.group (c : Cmd) : Nat := fieldLe c.params 0x18 4
/-- The number of participants P. -/
def Cmd.participants (c : Cmd) : Nat := fieldLe c.params 0x1C 2
/-- `GQI_OP_RANK`. -/
def Cmd.rank (c : Cmd) : Nat := fieldLe c.params 0x1E 2
/-- `GQI_OP_SEQ`. -/
def Cmd.opSeq (c : Cmd) : BitVec 64 := BitVec.ofNat 64 (fieldLe c.params 0x20 8)

/-- A joined group of a virtual device. -/
def Vd.group? (x : Vd) (g : Nat) : Option Group := x.groups.find? fun y => y.id.toNat == g

/-- The ports that reach the ring neighbours of a virtual device in a group. -/
def Dev.groupPorts (d : Dev) (v g : Nat) : List Nat :=
  match (d.vd v).group? g with
  | none => []
  | some y => ((y.nbrs.filter (· != 0)).filterMap fun n => d.portTo v n.toNat).eraseDups

/-- A participant on this device: the command that takes part. -/
structure Member where
  v : Nat
  q : Nat
  x : Queue
  c : Cmd
  deriving DecidableEq, Repr

/-- Current collective commands of a (group, SEQ) that meet a test. -/
def Dev.members (d : Dev) (g : Nat) (seq : BitVec 64) (p : Cmd → Bool) : List Member :=
  d.vds.flatMap fun v => v.2.queues.filterMap fun q => match q.2.cur with
    | some c => if c.isColl && c.group == g && c.opSeq == seq && p c then some ⟨v.1, q.1, q.2, c⟩ else none
    | none => none

/-- The PEER_FAILURE notice of a participant to its neighbours in other packages (R391). -/
def tellPeers (v g : Nat) (seq : BitVec 64) (d : Dev) : Dev :=
  (d.groupPorts v g).foldl (fun d p => (d.onPort p fun x => x.send 1).emit (.peerFailure p g seq)) d

/-- Whether a record is the phase record of a collective command (Table 17-3). -/
def PhaseRec.isOf (r : PhaseRec) (v : Nat) (c : Cmd) : Bool :=
  r.kind == 1 && r.vdev == v && r.group.toNat == c.group && r.seq == c.opSeq && r.rank == c.rank

/-- The virtual devices here that have joined a group. -/
def Dev.joined (d : Dev) (g : Nat) : List Nat := (d.vds.filter fun v => (v.2.group? g).isSome).map Prod.fst

/-- A notice that an exchange has failed goes once round the ring (R391): every member here passes it to its neighbours in other
packages, the participants here fail at their next step, and the fabric manager is told (R393). A second copy is dropped. -/
def failExchange (g : Nat) (seq : BitVec 64) (d : Dev) : Dev :=
  if d.fab.failed.contains (g, seq) then d
  else
    let d := { d with fab := { d.fab with failed := d.fab.failed ++ [(g, seq)] } }
    raiseOd 2 g (natLe 8 seq.toNat) ((d.joined g).foldl (fun d v => tellPeers v g seq d) d)

/-- Whether a command was refused at its exchange: its fields differ from another's, or its participant number is in flight (R133). The
others find a difference themselves, and a second command of a number does not end the exchange of the first. -/
def Cmd.refusedThere (c : Cmd) : Bool := c.error == 0x22 && c.detail.auxB == 0x0D

/-- A collective command leaves its queue: its whole messages go. Where it failed before its part in the exchange was done, its peers are
told (R135, R391). -/
def endColl (v : Nat) (ok : Bool) (c : Cmd) (d : Dev) : Dev :=
  if !c.isColl then d
  else if ok || c.refusedThere || (d.records.any fun r => r.isOf v c && decide (r.phases ≤ r.phase)) then d
  else failExchange c.group c.opSeq d

/-- The parameter block of a built-in operation that fails before it was read, where it can be read: it names the group of a collective
(R391). -/
def Cmd.withBlock (v : Nat) (w : Wk) (c : Cmd) : Cmd :=
  if c.kind = 1 ∧ c.params = [] then
    match readVa w v needNone c.param 64 with
    | .ok bs => { c with params := bs }
    | .error _ => c
  else c

/-- The cluster whose control core dispatched a command and fetches its successor (R282): that of its first core. A command that used
no core has none, and the active scheduler's hub reads the successor. -/
def Cmd.leader (c : Cmd) : Option Nat := (c.cores.head?).map (· / 68)

/-- The current command leaves its queue: its completion or failure has committed and its record goes on the ring. A
successful command with CHAIN names its successor (R282); a collective that failed tells its peers (R391). -/
def endCmd (v q : Nat) (ok : Bool) (error : Nat) (flags : FlagWord) (dt : Detail) (w : Wk) : Wk :=
  match w.dev.queue? v q with
  | none => w
  | some x =>
    match x.cur with
    | none => w
    | some c =>
      let follow := ok && c.chainFlag && decide (c.chain < 32)
      let r : Rec := ⟨c.index, error, flags, w.dev.hlcOf v, min c.chain 31, dt⟩
      let b := if ok then c else c.withBlock v w
      let w := (freeRecords (fun r => r.isOf v c) ((freeUndos (fun u => u.cmd == c.no) w).on (endColl v ok b))).on fun d =>
        let d := d.setQueue v q { x with
          cur := none
          nDone := if follow then x.nDone else x.nDone + 1
          chainNext := if follow then some ⟨c.chainAddr, c.chain + 1, c.addr, c.ord, c.index, c.leader⟩ else none }
        let d := dropWork c.no d
        let d := if follow then raiseClusters 1 c.leader.toList d else d
        releaseRefs c (endJob v x c (countCtx v c ok (freeCores c.no d)))
      (pushRecord v q r w).on fun d => settleFreeze v (finishReset v d)

/-- Record a failed command: its audit slot is cleared (R34), its flags read 0 (R64). -/
def recordFailure (v q : Nat) (w : Wk) : Wk :=
  match w.dev.queue? v q with
  | none => w
  | some x =>
    match x.cur with
    | none => w
    | some c => endCmd v q false c.error 0 c.detail (clearSlot v x c w)

/-- The engines that hold work of a command (Table 12-6). -/
def cmdEngines (d : Dev) (c : Cmd) : List Engine :=
  let core (n : Nat) : List Engine := if h : n < 2176 then [.core ⟨n, h⟩] else []
  let ctl (k : Nat) : List Engine := if h : k < 32 then [.ctl ⟨k, h⟩] else []
  let die (k : Nat) : List Engine := if h : k < 32 then [.mc ⟨k, h⟩] else []
  let cores := c.cores.filter fun n => (d.core n).busy == some c.no || (d.core n).switched == some c.no
  let homes := (d.mc.reqs.filter fun r => r.cmd == c.no && r.stage == .sent).flatMap fun r => r.spots.map fun p => p.chan / 32
  let hubs := ((d.mc.host.filter fun r => r.cmd == c.no).map fun r => Engine.dma (if hubOf r.vdev = 0 then 0 else 1)).take 1
  let lx := (d.fab.exchanges.filter fun e => e.cmd == c.no).flatMap fun e => e.ports.map Engine.lx
  cores.flatMap core ++ c.clusters.flatMap ctl ++ (c.diesLeft ++ c.leafSent.map Prod.fst ++ homes).eraseDups.flatMap die ++ hubs ++
    (if c.phase == .signing then [.sec] else []) ++ lx

/-- Bytes that a failed command leaves in an output range (R287): a free value for each byte it may write. -/
def scribble (v : Nat) (j : JKey) (r : Nat × Nat) (w : Wk) : Wk :=
  let (dn, d) := w.dev.draw
  (writeVa v r.1 ((List.range r.2).map fun i => Config.unspecifiedByte dn i) j { w with dev := d }).1

/-- The journal key of a command on its queue: present when the command is journaled (R272, R419). -/
def jkey (x : Queue) (c : Cmd) : JKey := if c.journalFlag then some ⟨c.no, x.devq, c.index, c.chain, c.ins, c.outs⟩ else none

/-- The undo records of a command. -/
def undosOf (d : Dev) (no : Nat) : List Undo := d.mc.undo.filter fun u => u.cmd == no

/-- The output ranges of a command that fails after it has started hold unspecified bytes (R287, R311). The lines of an in-place
command are journaled first, so that its journal restores them. -/
def scribbleOuts (v q : Nat) (w : Wk) : Wk :=
  match w.dev.queue? v q with
  | none => w
  | some x =>
    match x.cur with
    | none => w
    | some c => c.outs.foldl (fun w r => scribble v (jkey x c) r w) w

/-- An attempt is gone: the command is placed again, unless a failure is on its way to its fence (R417), or its failure
is recorded. -/
def placeAgain (v q : Nat) (w : Wk) : Wk :=
  match w.dev.cur? v q with
  | none => w
  | some c =>
    if c.thenReplay then w.on fun d => settleFreeze v (d.onCur v q fun c =>
      { c with phase := if c.failOut.isSome then .failing else .checked, thenReplay := false, started := false, ranBefore := true })
    else recordFailure v q w

/-- Every engine has acknowledged: an in-place command waits for its journal to be applied (R421); otherwise the
command is placed again, or its failure is recorded. -/
def afterAbort (v q : Nat) (w : Wk) : Wk :=
  match w.dev.cur? v q with
  | none => w
  | some c =>
    let w := w.on fun d => freeCores c.no (dropWork c.no d)
    if !(undosOf w.dev c.no).isEmpty then w.on fun d => d.onCur v q fun c => { c with phase := .replaying }
    else placeAgain v q w

/-- Every group of a kernel ends at its next instruction (R173, R311). -/
def stopRun (no : Nat) (d : Dev) : Dev :=
  match Tab.get? d.kern no with
  | some k => { d with kern := Tab.put d.kern no { k with stopped := true } }
  | none => d

/-- Abort the attempt of the current command on every engine that holds work of it (R311). Where the command fails, its outputs
hold unspecified bytes (R287); an attempt abandoned for a replay leaves what it wrote, which the next one writes again (R10). -/
def abortCmd (v q : Nat) (w : Wk) : Wk :=
  match w.dev.queue? v q with
  | none => w
  | some x =>
    match x.cur with
    | none => w
    | some c =>
      let engines := cmdEngines w.dev c
      let w := if c.thenReplay then w else scribbleOuts v q w
      let w := w.on fun d => stopRun c.no ((raiseClusters 2 c.clusters d).onCur v q fun c => { c with
        phase := .aborting
        aborts := engines
        abortAcks := []
        diesLeft := []
        leafHome := []
        leafSent := []
        leaves := []
        flags := 0
        cores := []
        clusters := []
        cohorts := [] })
      if engines.isEmpty then afterAbort v q w else w

/-- Every attempt of a command that counted toward the replay limit ran on the same core: the core is retired (Table
6-8). -/
def retireGuilty (c : Cmd) (d : Dev) : Dev :=
  match c.ran with
  | [] => d
  | l :: rest => (l.filter fun n => rest.all fun m => m.contains n).foldl (fun d n => drainCore n 2 d) d

/-- The failure of the current command has committed at its fence, or at the hub where it has none: a command that has started,
in this attempt or in an abandoned one, is aborted; another is recorded at once. One whose abandoned attempt is still being aborted
or undone fails instead of being replayed (R417), and its outputs hold unspecified bytes from now on (R287). -/
def failCommitted (v q code : Nat) (dt : Detail) (w : Wk) : Wk :=
  match w.dev.cur? v q with
  | none => w
  | some c =>
    let w := w.on fun d => d.onCur v q fun c => { c with error := code, detail := dt, failOut := none, thenReplay := false }
    let w := if c.thenReplay && (c.phase == .aborting || c.phase == .replaying) then scribbleOuts v q w else w
    let w := if code = 0x10 then w.on fun d => bump 3 (retireGuilty c d) else w
    if c.phase == .aborting then w
    else if c.phase == .replaying then if (undosOf w.dev c.no).isEmpty then recordFailure v q w else w
    else if c.started || c.ranBefore then abortCmd v q w else recordFailure v q w

/-- The current command fails with a code: FAIL(code, v) goes to its signal fence, or the failure commits at the hub
where it has none (R286, R521). -/
def failCmd (v q code : Nat) (dt : Detail) (w : Wk) : Wk :=
  match w.dev.cur? v q with
  | none => w
  | some c =>
    match c.sig with
    | some r =>
      w.on fun d => sendFence r (.fail code c.sigValue) (.cmdFail v q c.no code)
        (d.onCur v q fun c => { c with
          error := code
          detail := dt
          failOut := some code
          phase := if c.phase == .aborting || c.phase == .replaying then c.phase else .failing })
    | none => failCommitted v q code dt w

/-- The current command fails for an access that cannot proceed (Table 11-11). -/
def failAccess (v q va : Nat) (y : Why) (w : Wk) : Wk :=
  failCmd v q y.code (if y.code = 3 || y.code = 4 then Detail.xlate va y.cause else Detail.none) w

/-- Send FAIL(code, v) to the signal fence of a command that has not started, with nobody waiting on the reply (R312,
R313), and remember the code for its record. -/
def failEarly (v uid code : Nat) (c : Cmd) (d : Dev) : Dev :=
  match c.sig with
  | some r => sendFence r (.fail code c.sigValue) (.dead v c.no uid c.ord (c.ins ++ c.outs)) d
  | none => d

/-- Abandon the attempt of the current command, to be placed again (R415); it is journaled (R409). -/
def abandonCmd (v q : Nat) (w : Wk) : Wk :=
  abortCmd v q (w.on fun d => (match d.cur? v q with
    | some c => journal 4 [c.no, c.attempt] d
    | none => d).onCur v q fun c => { c with thenReplay := true })

end Sys2Proof.Machine
end

