-- ==== Sys2Proof/Machine/Wait.lean ====
section
/-! DEFINITION. Accesses that wait: faults on their way to the fault table (R251), host pages through ATS and PRI
(R248 … R250), and host lines being read. -/

namespace Sys2Proof.Machine

open Sys2Proof

/-- The 64 KiB page of an address. -/
def pageOf (va : Nat) : Nat := va / 65536

/-- Whether a waiter already has a fault on its way, waiting on a full table, or in the table. -/
def Dev.faulted (d : Dev) (v : Nat) (who : Waiter) (page : Nat) : Bool :=
  (d.xlt.faultMsgs.any fun m => m.vdev == v && m.who == who && pageOf m.va == page) ||
  (d.xlt.faultFull.any fun m => m.vdev == v && m.who == who && pageOf m.va == page) ||
  (d.xlt.faults.any fun (_, e) => e.vdev == v && e.page == page && e.waiters.any fun x => x.1 == who)

/-- Send a fault to the fault table (R251), once for a waiter and page, with the generation that was read. Access bits are those of
`XLT_FR_ACCESS`. -/
def raiseFault (v va kind sw access : Nat) (gen : BitVec 32) (who : Waiter) (d : Dev) : Dev :=
  if d.faulted v who (pageOf va) then d
  else d.onXlt fun x => { x with
    faultMsgs := x.faultMsgs ++ [⟨x.nextId, v, va, kind, access, gen, sw, bitAt (d.fn v).xltMode.toNat 0, who⟩]
    nextId := x.nextId + 1 }

/-- A waiter waits on a host page. -/
def waitHost (v page : Nat) (who : Waiter) (d : Dev) : Dev :=
  if d.xlt.hostWait.contains (v, page, who) then d
  else d.onXlt fun x => { x with hostWait := x.hostWait ++ [(v, page, who)] }

/-- Go on with a host page. -/
def askHostPage (v page : Nat) (who : Waiter) (d : Dev) : Dev := askPage v page (waitHost v page who d)

/-- The device queue number under which the admin ring reads host lines. -/
def adminQueue : Nat := 4096

/-- Read a line of a host page for the device: through the translation cache, else ATS first (R248). -/
def askHostLine (v iova : Nat) (who : Waiter) (queue cmd : Nat) (d : Dev) : Dev :=
  match d.atc? v (iova / 4096) with
  | some (true, _) =>
    let a := iova / 64 * 64
    if d.mc.host.any fun r => r.fn == v && r.iova == a && r.write.isNone && r.dest == .none then d
    else
      let id := d.mc.nextId
      (d.onMc fun m => { m with host := m.host ++ [⟨id, v, v, queue, cmd, a, 64, none, .none, false⟩], nextId := id + 1 }).emit
        (.hostRead v id a 64)
  | _ => askHostPage v (iova / 4096) who d

/-- What became of an access that did not proceed: it waits, or it has failed for good. -/
inductive Verdict where
  | waits
  | fails (va : Nat) (y : Why)
  deriving DecidableEq, Repr

/-- An access of an engine that did not proceed: raise its fault or fetch its host line and wait, or say why it fails. -/
def holdAccess (g : XEng) (v : Nat) (who : Waiter) (queue cmd access : Nat) (e : Acc) (d : Dev) : Verdict × Dev :=
  match e with
  | .bad va (.fault k sw) => (.waits, raiseFault v va k sw access (d.genAt g v va) who d)
  | .bad _ .wait => (.waits, d)
  | .bad va y => (.fails va y, d)
  | .host va i =>
    if (match d.atc? v (i / 4096) with | some (r, w) => !(if access = 2 then w else r) | none => false) && d.priRefused v (i / 4096)
    then (.fails va .pri, d)
    else (.waits, if access = 2 then askHostPage v (i / 4096) who d else askHostLine v i who queue cmd d)

/-- Drop the host lines that a virtual device's accesses have used. -/
def dropHostBuf (v : Nat) (d : Dev) : Dev := d.onMc fun m => { m with hostBuf := m.hostBuf.filter fun b => b.1 != v }

/-- The channel that an access of a virtual device goes to: that of its device physical address, or channel 0 where no set decodes it
(R208). -/
def Dev.chanAt (d : Dev) (v va : Nat) : Nat :=
  match entryAt (d.xview (hubEng v) v) va with
  | some e => ((decodePa d (e.pbase + (va - e.start))).map fun x => x.2.2.1).getD 0
  | none => 0

/-- Raise the key-slot misuse alarm for a refused access (R212). The alarm is raised by the step that follows. -/
def misuse (v : Nat) (y : Why) (d : Dev) : Dev :=
  match y with
  | .home true => raiseAlarm 0x08 (BitVec.ofNat 16 v) d
  | _ => d

/-- An access is refused at its home (R208, R212): its channel counts it (Table 9-10), and a misused key slot raises the alarm. -/
def refusedAt (v va : Nat) (y : Why) (d : Dev) : Dev :=
  misuse v y (match y with
    | .home _ => countCh (d.chanAt v va) 0xA d
    | _ => d)

end Sys2Proof.Machine
end

