-- ==== Sys2Proof/Machine/FrontEnd.lean ====
section
/-! DEFINITION. The front end: fetching descriptors and range lists with their checks (R267, R270 … R275, R282), and the
command that becomes current (R280, R281, R283). -/

namespace Sys2Proof.Machine

open Sys2Proof

/-- A command fresh from its descriptor. -/
def mkCmd (no ord addr index chain : Nat) (desc : List Byte) : Cmd where
  no := no
  ord := ord
  addr := addr
  desc := desc
  ins := []
  outs := []
  index := index
  chain := chain
  front := none
  sig := none
  waits := []
  early := none
  phase := .waiting
  start := 0
  waitsOk := []
  eligAt := 0
  attempt := 0
  replays := 0
  avoid := []
  cores := []
  clusters := []
  flags := 0
  error := 0
  detail := Detail.none
  started := false
  ranBefore := false
  failOut := none
  expired := false
  aborts := []
  thenReplay := false
  key := 0
  abortAcks := []
  inDigests := []
  diesLeft := []
  leafHome := []
  leafSent := []
  leaves := []
  receipt := []
  params := []
  hdr := []
  code := []
  resv := []
  matrix := false
  cohorts := []
  ran := []

/-- The first index whose element meets a test. -/
def findAt {α : Type} (p : α → Bool) : List α → Option Nat
  | [] => none
  | x :: xs => if p x then some 0 else (findAt p xs).map (· + 1)

/-- Reason 0x01: the fields of a descriptor in ascending offset, each with its rule (Table 11-7, R273, R401). -/
def descriptorRules (c : Cmd) (audit : Bool) : List (Nat × Bool) :=
  let d := c.desc
  let nop := c.kind == 0
  let nin := fieldLe d 0x28 2
  let nout := fieldLe d 0x2A 2
  [ (0x00, decide (c.kind ≤ 3)), (0x01, decide (c.nWait ≤ 4)),
    (0x04, decide (c.flagWord < 64) && (audit || !c.digestFlag) &&
      !((nop || c.kind == 3) && (c.digestFlag || c.journalFlag || c.jobStart))),
    (0x08, decide (fieldLe d 8 4 < 2 ^ 20)),
    (0x10, (c.sigId == 0) == (fieldLe d 0x10 8 == 0)),
    (0x18, !nop || c.param == 0),
    (0x20, !(nin == 0 && nout == 0) || fieldLe d 0x20 8 == 0),
    (0x28, decide (nin ≤ 256) && !(nop && decide (0 < nin))),
    (0x2A, decide (nout ≤ 256) && !(nop && decide (0 < nout))),
    (0x2C, fieldLe d 0x2C 4 == 0),
    (0x30, c.chainFlag || c.chainAddr == 0),
    (0x38, fieldLe d 0x38 8 == 0) ] ++
  (List.range 4).flatMap fun i =>
    [ (0x40 + 16 * i, decide (i < c.nWait) || (c.waitId i == 0 && fieldLe d (0x48 + 16 * i) 8 == 0)),
      (0x44 + 16 * i, fieldLe d (0x44 + 16 * i) 4 == 0) ]

/-- Reasons 0x01 … 0x03 and the alignment part of 0x04, which need no range list. -/
def checkDesc (d : Dev) (v : Nat) (x : Queue) (c : Cmd) : Option Refuse :=
  let n := fieldLe c.desc 0x28 2 + fieldLe c.desc 0x2A 2
  match (descriptorRules c (d.feature v 1)).find? fun r => !r.2 with
  | some (o, _) => some ⟨0x01, c.addr, o⟩
  | none =>
    if c.digestFlag && (x.auditBase == 0 || decide (0 < c.chain)) then some ⟨0x02, c.addr, 4⟩
    else if c.digestFlag && decide (16 < fieldLe c.desc 0x28 2) then some ⟨0x03, c.addr, 0x28⟩
    else if decide (0 < n) && fieldLe c.desc 0x20 8 % 16 != 0 then some ⟨0x04, c.addr, 0x20⟩
    else none

/-- The ranges of a list of 16-byte entries. -/
def rangesOf (bs : List Byte) (n : Nat) : List (Nat × Nat) :=
  (List.range n).map fun i => (fieldLe bs (16 * i) 8, fieldLe bs (16 * i + 8) 8)

/-- Reasons 0x04 … 0x09 once the range list is known. -/
def checkRanges (d : Dev) (v : Nat) (x : Queue) (c : Cmd) (pred : Nat) : Option Refuse :=
  let rl := fieldLe c.desc 0x20 8
  let nin := c.ins.length
  let long := findAt (fun r : Nat × Nat => decide (2 ^ 56 ≤ r.1) || decide (2 ^ 56 < r.1 + r.2)) (c.ins ++ c.outs)
  let twice := findAt (fun i => (c.outs.take i).any fun r => rangesMeet r (c.outs.getD i (0, 0))) (List.range c.outs.length)
  let meets := findAt (fun o => c.ins.any fun r => rangesMeet r o) c.outs
  let y := d.vd v
  let sigBad := c.sigId != 0 && !(match y.fence? c.sigId with | some s => s.canSignal | none => false)
  let waitBad := findAt (fun i => (y.fence? (c.waitId i)).isNone) (List.range c.nWait)
  let ctxBad := match d.ctx? c.context with | some k => k.vdev != v | none => true
  match long with
  | some i => some ⟨0x04, rl, 16 * i + (if 2 ^ 56 ≤ ((c.ins ++ c.outs).getD i (0, 0)).1 then 0 else 8)⟩
  | none =>
    if c.digestFlag && twice.isSome then some ⟨0x05, rl, 16 * (nin + twice.getD 0)⟩
    else if !c.journalFlag && meets.isSome then some ⟨0x06, rl, 16 * (nin + meets.getD 0)⟩
    else if (c.jobStart || c.jobEnd) && !x.exclusive then some ⟨0x07, c.addr, 4⟩
    else if ctxBad then some ⟨0x08, c.addr, 8⟩
    else if sigBad then some ⟨0x08, c.addr, 0x0C⟩
    else if waitBad.isSome then some ⟨0x08, c.addr, 0x40 + 16 * waitBad.getD 0⟩
    else if 31 < c.chain then some ⟨0x09, pred, 0x30⟩
    else none

/-- Bind the fences a command names (R306): the signal fence where it is valid with the SIGNAL right, and the waits. -/
def bindFences (y : Vd) (c : Cmd) : Cmd :=
  { c with
    sig := (y.fence? c.sigId).bind fun s => if s.canSignal then some s.ref else none
    waits := (List.range (min c.nWait 4)).filterMap fun i => (y.fence? (c.waitId i)).map fun s => s.ref }

/-- A command submitted before a device reset fails with 0x0070 (R434); one of a context being destroyed fails at once with 0x0001 and
is recorded with it in its turn, as is one submitted before that context's destruction was complete (R313). -/
def presetEarly (d : Dev) (x : Queue) (c : Cmd) : Cmd :=
  let named := c.front.isNone || c.front == some ⟨0x08, c.addr, 8⟩
  if c.ord ≤ x.lostTo then { c with early := some 0x70 }
  else if named && x.doomed.any fun e => e.1 == c.context && decide (c.ord ≤ e.2) then { c with early := some 1, front := none }
  else match c.front, d.ctx? c.context with
  | none, some k => if k.destroying then { c with early := some 1 } else c
  | _, _ => c

/-- What reading a descriptor came to. -/
inductive Fetched where
  | waits
  | unreadable
  | got (c : Cmd)
  deriving DecidableEq

/-- Read a descriptor at `addr` and its range list, and apply the front-end checks in the order of Table 11-8 (R274).
A read fault waits for its resolution. A range list that cannot be read for a cause that R274 lists gives reason 0x04; one on a lost
MC die fails the command with 0x0011 (R227), and one whose host read fails twice with 0x0012 (Table 17-1), once it is current. -/
def fetchDesc (v q : Nat) (x : Queue) (ord addr index chain pred : Nat) (w : Wk) : Fetched × Wk :=
  let hub : XEng := .dma (hubOf v)
  match readAs hub w v needR addr 128 with
  | .error e =>
    match holdAccess hub v (.fetch v q) x.devq 0 1 e w.dev with
    | (.waits, d) => (.waits, { w with dev := d })
    | (.fails va y, d) => (.unreadable, { w with dev := refusedAt v va y d })
  | .ok desc =>
    let c := bindFences (w.dev.vd v) (mkCmd w.dev.sched.nextCmd ord addr index chain desc)
    let done (c : Cmd) (w : Wk) : Fetched × Wk :=
      let c := presetEarly w.dev x c
      (.got c, w.on fun d =>
        let d := dropHostBuf v (d.onSched fun s => { s with nextCmd := s.nextCmd + 1 })
        if c.early = some 1 then failEarly v x.uid 1 c d else d)
    match checkDesc w.dev v x c with
    | some r => done { c with front := some r } w
    | none =>
      let nin := fieldLe desc 0x28 2
      let n := nin + fieldLe desc 0x2A 2
      if n = 0 then done { c with front := checkRanges w.dev v x c pred } w
      else match readAs hub w v needR (fieldLe desc 0x20 8) (16 * n) with
        | .error e =>
          let unread (code : Nat) : Cmd := if code = 0x22 then { c with front := some ⟨0x04, addr, 0x20⟩ } else { c with early := some code }
          if x.rlistFail ≠ 0 then done (unread x.rlistFail) w
          else match holdAccess hub v (.fetch v q) x.devq 0 1 e w.dev with
            | (.waits, d) => (.waits, { w with dev := d })
            | (.fails va y, d) => done (unread (if y = .lost then 0x11 else 0x22)) { w with dev := refusedAt v va y d }
        | .ok bs =>
          let rs := rangesOf bs n
          let c := { c with ins := rs.take nin, outs := rs.drop nin }
          done { c with front := checkRanges w.dev v x c pred } w

/-- Whether a queue's state lets the front end read further entries. -/
def QState.fetches : QState → Bool
  | .active => true
  | .stalled => true
  | .blocked => true
  | _ => false

/-- The queue enters FETCH_ERROR (R267), which only destruction leaves (Table 11-5), and an event names it. Records that it holds
back stay in its backlog. -/
def fetchError (v q : Nat) (d : Dev) : Dev :=
  match d.queue? v q with
  | none => d
  | some x => if x.state.fetches then postEvent v 5 x.qid (natLe 2 x.qid) (d.setQueue v q { x with state := .fetchError }) else d

/-- A chained descriptor that cannot be read ends its chain, and the queue enters FETCH_ERROR as for a ring entry. DESIGN CHOICE:
R267 names ring entries only. -/
def chainError (v q : Nat) (d : Dev) : Dev := fetchError v q (d.onQueue v q fun x => { x with chainNext := none, rlistFail := 0 })

/-- The front end reads the entry at `GQI_QS_SQ_HEAD` (R267, R274). The answer says whether it has it. -/
def fetchEntry (v q : Nat) (x : Queue) (w : Wk) : Bool × Wk :=
  match fetchDesc v q x (x.nFetched + 1) (x.sqBase + 128 * x.sqHead) x.sqHead 0 0 w with
  | (.waits, w) => (false, w)
  | (.unreadable, w) => (false, w.on (fetchError v q))
  | (.got c, w) => (true, w.on fun d => d.onQueue v q fun x =>
      { x with fetched := x.fetched ++ [c], sqHead := (x.sqHead + 1) % x.S, nFetched := x.nFetched + 1, rlistFail := 0 })

/-- COMMAND_FETCH: the front end reads the next entry if it is submitted. -/
def doFetch (v q : Nat) (w : Wk) : Wk :=
  match w.dev.queue? v q with
  | none => w
  | some x =>
    if !x.state.fetches || x.sqHead == x.tail || (w.dev.vd v).frozen || !w.dev.boot.ready || w.dev.sec.level == 3 then w
    else (fetchEntry v q x w).2

/-- The front end reads the successor that a completed command named. A misaligned address is not read, and its refusal names
the predecessor's field. The answer says whether the successor is there. -/
def fetchNamed (v q : Nat) (x : Queue) (n : Chain) (w : Wk) : Bool × Wk :=
  let put (c : Cmd) (w : Wk) : Wk := w.on fun d => d.onQueue v q fun x =>
    { x with fetched := c :: x.fetched, chainNext := none, rlistFail := 0 }
  if n.addr % 128 ≠ 0 then
    (true, put (presetEarly w.dev x { mkCmd w.dev.sched.nextCmd n.ord n.addr n.index n.pos [] with front := some ⟨0x09, n.pred, 0x30⟩ })
      (w.on fun d => d.onSched fun s => { s with nextCmd := s.nextCmd + 1 }))
  else match fetchDesc v q x n.ord n.addr n.index n.pos n.pred w with
    | (.waits, w) => (false, w)
    | (.unreadable, w) => (false, w.on (chainError v q))
    | (.got c, w) => (true, put c w)

/-- CHAIN_SUCCESSOR_FETCH (R282): the successor that the completed command named is read and checked, also where a later ring entry
could not be read. It waits for a cluster control core that is down (Table 16-16). -/
def doChainFetch (v q : Nat) (w : Wk) : Wk :=
  match w.dev.queue? v q with
  | none => w
  | some x =>
    match x.chainNext with
    | none => w
    | some n =>
      if !(x.state.fetches || x.state == .fetchError) || (w.dev.vd v).frozen || w.dev.sec.level == 3 ||
          (n.cluster.any fun k => !(w.dev.proc (4 + k)).up) then w
      else (fetchNamed v q x n w).2

/-- Register the waits of a command at their fences' home MC dies (R216, R281). -/
def registerWaits (v q : Nat) (c : Cmd) (d : Dev) : Dev :=
  (List.range c.waits.length).foldl (fun d i =>
    match c.waits[i]? with
    | some r => sendFence r (.wait (c.waitValue i)) (.wait v q c.no i) d
    | none => d) d

/-- A command without waits, or with every wait signalled, is eligible (R281). -/
def markEligible (v q : Nat) (d : Dev) : Dev :=
  d.onCur v q fun c =>
    if c.phase == .waiting && (List.range c.waits.length).all (fun i => c.waitsOk.contains i) then
      { c with phase := .eligible, eligAt := d.hlcOf v }
    else c

/-- COMMAND_CURRENT: the oldest command of the queue becomes current and its timer starts (R280, R283). A front-end
refusal takes effect at once (R274); a command failed before its turn is recorded with that code (R312, R313), or now sends its
FAIL (R227, R434, Table 17-1); otherwise its waits are registered. None becomes current while 256 records are held back (R289). -/
def doCurrent (v q : Nat) (w : Wk) : Wk :=
  match w.dev.queue? v q with
  | none => w
  | some x =>
    match x.cur, x.fetched, x.chainNext with
    | none, c :: rest, none =>
      if !(x.state == .active || x.state == .stalled || x.state == .fetchError) || 256 ≤ x.backlog.length + x.recWait.length ||
          !w.dev.dispatching v then w
      else
        let c := { c with start := w.dev.hlcOf v }
        let w := w.on fun d => d.setQueue v q { x with cur := some c, fetched := rest }
        match c.front, c.early with
        | _, some 0x70 => failCmd v q 0x70 Detail.none w
        | some r, _ =>
          failCmd v q 0x22 ⟨r.addr, false, false, r.off, r.reason⟩
            (w.on fun d => d.onCur v q fun c => { c with phase := .refusing })
        | none, some 1 => failCommitted v q 1 Detail.none w
        | none, some code => failCmd v q code Detail.none w
        | none, none => w.on fun d => markEligible v q (registerWaits v q c d)
    | _, _, _ => w

/-- COMMAND_CURRENT. -/
def execCommandCurrent (v : VDev) (q : QId) (s : State) : Out := runMem (doCurrent v.val q.val) s

/-- FENCE_WAIT_NOTIFY (R216, R281): a signalled wait counts toward eligibility; a wait in error fails the command with
that code, inherited. -/
def doWaitNotify (id : Nat) (w : Wk) : Wk :=
  match takeFirst (fun n => n.id == id) w.dev.fx.notes with
  | none => w
  | some (n, rest) =>
    let w := w.on fun d => d.onFx fun x => { x with notes := rest }
    match n.src with
    | .wait v q no i =>
      match w.dev.cur? v q with
      | none => w
      | some c =>
        if c.no ≠ no || c.phase != .waiting then w
        else match n.err with
          | none => w.on fun d => markEligible v q (d.onCur v q fun c => { c with waitsOk := c.waitsOk ++ [i] })
          | some code =>
            let others := rest.filterMap fun m => match m.src, m.err with
              | .wait _ _ no' j, some e => if no' = no then some (j, e) else none
              | _, _ => none
            let (j, e) := others.foldl (fun a b => if b.1 < a.1 then b else a) (i, code)
            failCmd v q e ⟨0, false, true, j, 0⟩ w
    | .remote p rid => w.on fun d => d.emit (.fenceNote p rid n.err)
    | _ => w

/-- FENCE_WAIT_NOTIFY. -/
def execFenceWaitNotify (id : Nat) (s : State) : Out := runMem (doWaitNotify id) s

end Sys2Proof.Machine
end

