-- ==== Sys2Proof/Machine/Eligible.lean ====
section
/-! DEFINITION. The checks of an eligible command (R526): the declared level, revoked ranges, the structures the command
names, footprints, coverage and the journal reservation, and residency. -/

namespace Sys2Proof.Machine

open Sys2Proof

/-- Why a check does not pass: a refusal, a failure with a code, or an access that does not proceed, with its access
bits. -/
inductive Stop where
  | refuse (r : Refuse)
  | fail (code : Nat) (dt : Detail)
  | acc (access : Nat) (e : Acc)
  deriving DecidableEq, Repr

/-- Read a structure of a command at an engine. -/
def readBy (g : XEng) (w : Wk) (v : Nat) (need : Need) (a n : Nat) : Except Stop (List Byte) :=
  match readAs g w v need a n with
  | .ok bs => .ok bs
  | .error e => .error (.acc (if need.x then 4 else 1) e)

/-- Read a structure of a command at dispatch. DEDUCED: through the translation of the owning hub, as the front end reads. -/
def readC (w : Wk) (v : Nat) (need : Need) (a n : Nat) : Except Stop (List Byte) := readBy (hubEng v) w v need a n

/-- A rule of a structure: its byte offset and whether it holds. The first rule broken refuses the command. -/
def rules (reason addr : Nat) (rs : List (Nat × Bool)) : Except Stop Unit :=
  match rs.find? fun r => !r.2 with
  | some (o, _) => .error (.refuse ⟨reason, addr, o⟩)
  | none => .ok ()

/-- Refuse with a reason, unless a condition holds. -/
def must (ok : Bool) (reason addr off : Nat) : Except Stop Unit :=
  if ok then .ok () else .error (.refuse ⟨reason, addr, off⟩)

/-- The level an understated command would need. -/
def aclStop (declared needed : Nat) : Stop := .fail 0x20 ⟨0, false, false, declared, needed⟩

/-! ## Range lists -/

/-- Whether a span lies in a list of ranges (R115). -/
def inRanges (rs : List (Nat × Nat)) (a n : Nat) : Bool :=
  n == 0 || covered rs (a, a + n)

/-- The lines of a range, as an interval of line numbers. -/
def rangeLines (r : Nat × Nat) : Nat × Nat := if r.2 = 0 then (0, 0) else (r.1 / 64, (r.1 + r.2 + 63) / 64)

/-- Add an interval to a list of disjoint intervals. -/
def joinIv (a : Nat × Nat) (l : List (Nat × Nat)) : List (Nat × Nat) :=
  let touching := l.filter fun b => decide (a.1 ≤ b.2) && decide (b.1 ≤ a.2)
  let rest := l.filter fun b => !(decide (a.1 ≤ b.2) && decide (b.1 ≤ a.2))
  ((a :: touching).foldl (fun x b => (min x.1 b.1, max x.2 b.2)) a) :: rest

/-- The journaled lines of a command (R419), as disjoint intervals of line numbers. -/
def journalSpans (c : Cmd) : List (Nat × Nat) :=
  let cuts := c.ins.flatMap fun i => c.outs.map fun o =>
    let a := rangeLines i
    let b := rangeLines o
    (max a.1 b.1, min a.2 b.2)
  (cuts.filter fun x => decide (x.1 < x.2)).foldl (fun l x => joinIv x l) []

/-- The engine that translates the range lists at dispatch (R246): the control core of a cluster. DESIGN CHOICE (log entry 79): that of
the first core of the virtual device. -/
def listEng (d : Dev) (v : Nat) : XEng := .ctl ((d.vd v).cores.headD 0 / 68)

/-- The entries that dispatch finds for range lists: those of its caches, else by walks. -/
def listEntries (d : Dev) (v : Nat) (rs : List (Nat × Nat)) : List REntry := (entriesFor d (listEng d v) v rs).map CEntry.e

/-- A walk for a range list waits for the mirror's rebuild (R240): the mirror is lost and the caches do not cover the list. -/
def listsWait (d : Dev) (v : Nat) (rs : List (Nat × Nat)) : Bool :=
  (d.vd v).mirrorLost && !(rs.all fun r => spanIn (listEntries d v rs) (fun _ => true) r.1 r.2)

/-- The MC die that homes a line of a virtual device, where it is in device memory. -/
def homeDie (d : Dev) (v va : Nat) : Option Nat :=
  match entryAt (d.vd v).table va with
  | some e => if e.res = 1 then (decodePa d (e.pbase + (va - e.start))).map fun x => x.2.2.1 / 32 else none
  | none => none

/-- The records to reserve for a command on each MC die (R420). -/
def reservation (d : Dev) (v : Nat) (c : Cmd) : List (Nat × Nat) :=
  if !c.journalFlag then []
  else
    let dies := (journalSpans c).flatMap fun s => (List.range (s.2 - s.1)).filterMap fun i => homeDie (d.seenBy (listEng d v) v) v (64 * (s.1 + i))
    (List.range 32).filterMap fun k =>
      let n := (dies.filter fun x => x == k).length
      if n = 0 then none else some (k, n)

/-- The records of one MC die's pools (R420). -/
def undoPool : Nat := 8388608

/-! ## Parameter blocks, queries and job seeds -/

/-- The operations of rate class M (Table 5-4). -/
def opIsMatrix : OpK → Bool
  | .matmul | .matmulBatched | .matmulGrouped | .conv | .convTransposed | .convWgrad | .attention | .attentionBwd => true
  | _ => false

/-- The job-seed record at an address (R104): its key. -/
def readSeed (w : Wk) (v param off seed : Nat) : Except Stop (BitVec 128) := do
  must (seed % 64 == 0) 0x0A param off
  let bs ← readC w v needR seed 64
  rules 0x0A seed [(0, fieldLe bs 0 4 == 0x534A5642), (4, fieldLe bs 4 2 == 1), (6, fieldLe bs 6 2 == 0),
    (0x18, fieldLe bs 0x18 40 == 0)]
  return BitVec.ofNat 128 (fieldLe bs 8 16)

/-- The query block (R276, R296). -/
def checkQuery (w : Wk) (v : Nat) (c : Cmd) : Except Stop Cmd := do
  must (c.param % 64 == 0) 0x0A c.addr 0x18
  let bs ← readC w v needR c.param 64
  let code := fieldLe bs 0 4
  let need := if code = 1 then 557064 else if code = 0x100 then 64 else 16
  must ((code == 1 || code == 0x100 || code == 0x101) && decide (need ≤ (c.outs.headD (0, 0)).2)) 0x0A c.param 0
  must (fieldLe bs 4 60 == 0) 0x0A c.param 4
  return { c with params := bs }

/-- The parameter block of a built-in operation (R111 … R118), the seed record, and footprints and coverage. -/
def checkOperation (w : Wk) (v : Nat) (c : Cmd) : Except Stop Cmd := do
  must (c.param % 64 == 0) 0x0A c.addr 0x18
  let hdr ← readC w v needR c.param 64
  match headerBad c.param hdr, opOfId (fieldLe hdr 0 4) with
  | some o, _ => .error (.refuse ⟨0x0A, c.param, o⟩)
  | none, none => .error (.refuse ⟨0x0A, c.param, 0⟩)
  | none, some k =>
    let nin := fieldLe hdr 6 1
    let n := nin + fieldLe hdr 7 1
    let body ← readC w v needR (c.param + 64) (128 * n)
    let b := parseBlock c.param hdr body
    match opBad k b body with
    | some b => .error (.refuse ⟨b.reason, b.addr, b.off⟩)
    | none =>
      let seed := fieldLe hdr 8 8
      let key ← if seed = 0 then .ok 0 else readSeed w v c.param 8 seed
      match footBad k b c.ins c.outs with
      | some b => .error (.refuse ⟨b.reason, b.addr, b.off⟩)
      | none => return { c with params := hdr ++ body, key := key, matrix := opIsMatrix k }

/-! ## Kernels -/

/-- Resident groups on one core, G (R136). -/
def groupsPerCore (regs gs : Nat) : Nat := min (min 48 (3072 / regs)) (if gs = 0 then 48 else 4194304 / gs)

/-- The private window of a group, WS (R162). -/
def windowSize (g : Nat) : Nat := 4096 * (1024 / g)

/-- `GQI_KB_REGS`. -/
def hdrRegs (h : List Byte) : Nat := fieldLe h 8 2
/-- `GQI_KB_GROUP_STORE`. -/
def hdrGs (h : List Byte) : Nat := fieldLe h 0xC 4
/-- The WISP flag. -/
def hdrWisp (h : List Byte) : Bool := bitAt (fieldLe h 0x24 4) 0
/-- `GQI_KB_IMAGE_LEN`. -/
def hdrLen (h : List Byte) : Nat := fieldLe h 0x28 8

/-- Check 1 of R153: the fields of Table 6-6, and where the sections lie (R152). -/
def hdrRules (h : List Byte) : List (Nat × Bool) :=
  let codeOff := fieldLe h 0x10 4
  let codeLen := fieldLe h 0x14 4
  let constOff := fieldLe h 0x18 4
  let constLen := fieldLe h 0x1C 4
  let len := hdrLen h
  [ (0x00, fieldLe h 0 4 == 0x424B5642), (0x04, fieldLe h 4 2 == 1), (0x06, decide (1 ≤ fieldLe h 6 2)),
    (0x08, decide (8 ≤ hdrRegs h) && decide (hdrRegs h ≤ 256) && hdrRegs h % 8 == 0),
    (0x0A, decide (fieldLe h 0xA 1 ≤ 16)), (0x0B, fieldLe h 0xB 1 == 0),
    (0x0C, decide (hdrGs h ≤ 4194304) && hdrGs h % 4096 == 0),
    (0x10, codeOff % 64 == 0 && decide (0x80 ≤ codeOff)),
    (0x14, decide (8 ≤ codeLen) && decide (codeLen ≤ 16777216) && codeLen % 8 == 0 && decide (codeOff + codeLen ≤ len)),
    (0x18, if constLen = 0 then constOff == 0
      else constOff % 64 == 0 && decide (0x80 ≤ constOff) && decide (constOff + constLen ≤ len) &&
        (decide (constOff + constLen ≤ codeOff) || decide (codeOff + codeLen ≤ constOff))),
    (0x1C, decide (constLen ≤ 65536)),
    (0x20, fieldLe h 0x20 4 % 8 == 0 && decide (fieldLe h 0x20 4 < codeLen)),
    (0x24, decide (fieldLe h 0x24 4 < 2)),
    (0x28, decide (0x80 ≤ len) && decide (len ≤ 0x80 + 16842752)),
    (0x30, fieldLe h 0x30 16 == 0), (0x60, fieldLe h 0x60 32 == 0) ]

/-- `GQI_KL_FLAGS`: WATCH. -/
def klWatch (p : List Byte) : Bool := bitAt (fieldLe p 6 2) 0
/-- `GQI_KL_FLAGS`: ORDERED. -/
def klOrdered (p : List Byte) : Bool := bitAt (fieldLe p 6 2) 1
/-- `GQI_KL_IMAGE`. -/
def klImage (p : List Byte) : Nat := fieldLe p 8 8
/-- `GQI_KL_SEED`. -/
def klSeed (p : List Byte) : Nat := fieldLe p 0x10 8
/-- Groups along grid axis i. -/
def klGrid (p : List Byte) (i : Nat) : Nat := fieldLe p (0x18 + 4 * i) 4
/-- Groups of the launch. -/
def klGroups (p : List Byte) : Nat := klGrid p 0 * klGrid p 1 * klGrid p 2
/-- `GQI_KL_COHORT`. -/
def klCohort (p : List Byte) : Nat := fieldLe p 0x24 4
/-- `GQI_KL_HEAP`. -/
def klHeap (p : List Byte) : Nat := fieldLe p 0x28 8
/-- `GQI_KL_WATCH_POOL`. -/
def klPool (p : List Byte) : Nat := fieldLe p 0x30 8
/-- `GQI_KL_WATCH_LEN`. -/
def klPoolLen (p : List Byte) : Nat := fieldLe p 0x38 8
/-- `GQI_KL_PEER_RECV`. -/
def klPeer (p : List Byte) : Nat := fieldLe p 0x40 4
/-- `GQI_KL_ARGS_LEN`. -/
def klArgs (p : List Byte) : Nat := fieldLe p 0x44 4

/-- The fields of Table 7-1 before the one that needs the binary. A flag whose feature bit is clear is out of range (R401). -/
def launchHead (d : Dev) (v : Nat) (p : List Byte) : List (Nat × Bool) :=
  [ (0x00, fieldLe p 0 4 == 0x4C4B5642), (0x04, fieldLe p 4 2 == 1),
    (0x06, decide (fieldLe p 6 2 < 4) && (!klWatch p || d.feature v 5) && (!klOrdered p || d.feature v 6)) ]

/-- Whether a cohort that needs k cores fits on the cores of a partition (R163, R329). -/
def cohortFits (x : Part) (be : Bool) (k : Nat) : Bool :=
  let cs := if be then x.cores.drop x.lcReserve else x.cores
  (List.range 32).any fun cl => decide (k ≤ (cs.filter fun n => n / 68 == cl).length)

/-- The other fields of Table 7-1, field by field (R526); `part` is the partition of the queue. Where the binary's REGS or GS is out
of its range the rules that use G say nothing, and the binary is refused under R153. -/
def launchRules (part : Option Part) (be : Bool) (p h : List Byte) : List (Nat × Bool) :=
  let side (i : Nat) : Nat × Bool := (0x18 + 4 * i, decide (1 ≤ klGrid p i) && decide (klGrid p i < 2 ^ 31))
  let hasG := decide (8 ≤ hdrRegs h) && decide (hdrRegs h ≤ 256) && decide (hdrGs h ≤ 4194304)
  let g := groupsPerCore (hdrRegs h) (hdrGs h)
  [ (0x10, hdrWisp h == (klSeed p != 0)),
    side 0, side 1, side 2, (0x18, decide (klGroups p < 2 ^ 31)),
    (0x24, decide (1 ≤ klCohort p) && (!hasG || decide (klCohort p ≤ 64 * g))),
    (0x24, !hasG || (match part with
      | some y => cohortFits y be (ceilDiv (min (klCohort p) (klGroups p)) (max 1 g))
      | none => false)),
    (0x28, klHeap p % 64 == 0),
    (0x30, klWatch p || klPool p == 0),
    (0x40, klPeer p % 4096 == 0 && (!hasG || decide (klPeer p ≤ windowSize g - hdrGs h))), (0x44, decide (klArgs p ≤ 3904)),
    (0x48, fieldLe p 0x48 56 == 0) ]

/-- Checks 2 … 7 of R153 on a whole image, and R177: a code section with ordered atomics needs ORDERED. Offsets name the
header field that the failed check is about. -/
def imageRules (p h img : List Byte) : List (Nat × Bool) :=
  let code := sliceB img (fieldLe h 0x10 4) (fieldLe h 0x14 4)
  let acl := fieldLe h 6 2
  [ (0x40, sha3_256 (img.drop 0x80) == sliceB h 0x40 32),
    (0x10, (List.range (code.length / 8)).all fun i => Config.coreWordDecodes acl (BitVec.ofNat 64 (fieldLe code (8 * i) 8))),
    (0x08, Config.coreCodeOk acl (hdrRegs h) (fieldLe h 0xA 1) (fieldLe h 0x20 4) code),
    (0x24, !Config.coreCodeReadsWisp code || hdrWisp h),
    (0x10, !Config.coreCodeOrdered code || klOrdered p) ]

/-- The heap of a launch (R181). -/
def checkHeap (w : Wk) (v heap : Nat) : Except Stop Unit :=
  if heap = 0 then .ok ()
  else do
    let bs ← readC w v needR heap 64
    rules 0x0A heap [(0, fieldLe bs 0 4 == 0x50485642), (4, fieldLe bs 4 2 == 1), (6, fieldLe bs 6 2 == 0),
      (8, decide (1 ≤ fieldLe bs 8 8) && decide (fieldLe bs 8 8 ≤ 2 ^ 36)), (0x10, fieldLe bs 0x10 48 == 0)]

/-- Bytes of a heap: header, bitmap and granules (Table 7-6). -/
def heapBytes (n : Nat) : Nat := 64 + 64 * ceilDiv n 512 + 64 * n

/-- Total length of a range list. -/
def totalLen (rs : List (Nat × Nat)) : Nat := (rs.map Prod.snd).foldl (· + ·) 0

/-- A kernel launch (R160, R163, R172, R181, R153, R329). -/
def checkKernel (w : Wk) (v : Nat) (x : Queue) (c : Cmd) : Except Stop Cmd := do
  must (c.param % 64 == 0) 0x0A c.addr 0x18
  let fixed ← readC w v needR c.param 128
  rules 0x0A c.param (launchHead w.dev v fixed)
  let image := klImage fixed
  let h ← readC w v needX image 128
  rules 0x0A c.param (launchRules (Tab.get? (w.dev.vd v).parts x.part) x.be fixed h)
  let args ← readC w v needR (c.param + 128) (klArgs fixed)
  let p := fixed ++ args
  let key ← if klSeed p = 0 then .ok 0 else readSeed w v c.param 0x10 (klSeed p)
  checkHeap w v (klHeap p)
  must (!klWatch p || decide (3 * totalLen c.outs + totalLen c.ins ≤ 4 * klPoolLen p)) 0x0A c.param 0x38
  if c.acl < fieldLe h 6 2 then .error (aclStop c.acl (fieldLe h 6 2)) else .ok ()
  must (image % 64 == 0) 0x0B c.param 8
  rules 0x0B image (hdrRules h)
  let img ← readC w v needX image (hdrLen h)
  rules 0x0B image (imageRules p h img)
  let n ← if klHeap p = 0 then .ok [] else readC w v needR (klHeap p + 8) 8
  rules 0x0C c.param [
    (0x00, inRanges c.ins c.param (128 + klArgs p)), (0x08, inRanges c.ins image (hdrLen h)),
    (0x10, klSeed p == 0 || inRanges c.ins (klSeed p) 64),
    (0x28, klHeap p == 0 || (inRanges c.ins (klHeap p) (heapBytes (leNat n)) && inRanges c.outs (klHeap p) (heapBytes (leNat n)))),
    (0x30, !klWatch p || inRanges c.outs (klPool p) (klPoolLen p)) ]
  return { c with
    params := p
    hdr := h
    code := sha3_256 img
    key := key
    matrix := Config.coreCodeMatrix (sliceB img (fieldLe h 0x10 4) (fieldLe h 0x14 4)) }

/-! ## COMMAND_ELIGIBLE -/

/-- The first address at which a range list meets a revoked entry (R257). -/
def revokedAt (d : Dev) (v : Nat) (rs : List (Nat × Nat)) : Option Nat :=
  let es := listEntries d v rs
  rs.findSome? fun r => (es.find? fun e => e.res == 4 && rangesMeet r (e.start, e.len)).map fun e => max r.1 e.start

/-- The checks 1 … 4 of R526 in order. -/
def checkEligible (w : Wk) (v : Nat) (x : Queue) (c : Cmd) : Except Stop Cmd := do
  if c.acl = 0 || w.dev.fw.aclMax.toNat < c.acl then .error (aclStop c.acl 0) else .ok ()
  match revokedAt w.dev v (c.ins ++ c.outs) with
  | some a => .error (.fail 4 (Detail.xlate a 0))
  | none => .ok ()
  let c ← if c.kind = 1 then checkOperation w v c else if c.kind = 2 then checkKernel w v x c
    else if c.kind = 3 then checkQuery w v c else .ok c
  let r := reservation w.dev v c
  must (r.all fun k => decide (k.2 ≤ undoPool)) 0x0C c.addr 0x20
  return { c with resv := r }

/-- The 64 KiB pages of a range. -/
def pagesOf (r : Nat × Nat) : List Nat :=
  if r.2 = 0 then [] else (List.range ((r.1 + r.2 - 1) / 65536 + 1 - r.1 / 65536)).map fun i => r.1 / 65536 + i

/-- The pages of a command's range lists that are not DEVICE-resident (R259), with the word of their entry. -/
def awayPages (d : Dev) (v : Nat) (c : Cmd) : List (Nat × Nat) :=
  let es := listEntries d v (c.ins ++ c.outs)
  ((c.ins ++ c.outs).flatMap pagesOf).eraseDups.filterMap fun p =>
    match entryAt es (65536 * p) with
    | some e => if e.res = 1 then none else some (65536 * p, e.sw)
    | none => some (65536 * p, 0)

/-- Check 5 of R526: a command with DIGEST or RECEIPT waits on a MIGRATE fault for each page that is not in device
memory; the command is then placed (R330). A page that has become REVOKED while the command waited fails it (R257). -/
def checkResidency (v q : Nat) (w : Wk) : Wk :=
  match w.dev.cur? v q with
  | none => w
  | some c =>
    let away := if c.digestFlag then awayPages w.dev v c else []
    match revokedAt w.dev v (c.ins ++ c.outs) with
    | some a => failCmd v q 4 (Detail.xlate a 0) w
    | none =>
      if away.isEmpty then w.on fun d => d.onCur v q fun c => { c with phase := .checked }
      else w.on fun d => away.foldl (fun d (a, sw) => raiseFault v a 4 sw 1 (d.vd v).gen (.cmd v q c.no) d)
        (d.onCur v q fun c => { c with phase := .resid })

/-- Refuse the current command at dispatch (R274). -/
def refuseCmd (v q : Nat) (r : Refuse) (w : Wk) : Wk :=
  failCmd v q 0x22 ⟨r.addr, false, false, r.off, r.reason⟩ (w.on fun d => d.onCur v q fun c => { c with phase := .refusing })

/-- Act on a check or an access of the current command that did not pass at an engine; `who` waits where it waits. -/
def stopAt (g : XEng) (who : Waiter) (v q : Nat) (x : Queue) (c : Cmd) (e : Stop) (w : Wk) : Wk :=
  match e with
  | .refuse r => refuseCmd v q r w
  | .fail code dt => failCmd v q code dt w
  | .acc n e =>
    match holdAccess g v who x.devq c.no n e w.dev with
    | (.waits, d) => { w with dev := d }
    | (.fails va y, d) => failAccess v q va y { w with dev := refusedAt v va y d }

/-- The structures that the checks of a command have read went through the hub's translation. -/
def noteChecks (v : Nat) (c : Cmd) (d : Dev) : Dev :=
  let d := if c.kind = 0 then d else readFor c.context (hubEng v) v needR [(c.param, c.params.length)] d
  if c.kind = 2 then readFor c.context (hubEng v) v needX [(klImage c.params, hdrLen c.hdr)] d else d

/-- Act on a check of the current command that did not pass at an engine. -/
def stopCmd (g : XEng) (v q : Nat) (x : Queue) (c : Cmd) (e : Stop) (w : Wk) : Wk := stopAt g (.cmd v q c.no) v q x c e w

/-- COMMAND_ELIGIBLE (R526). A check that waits for a page is made again by a later step. -/
def doEligible (v q : Nat) (w : Wk) : Wk :=
  match w.dev.queue? v q with
  | none => w
  | some x =>
    match x.cur with
    | none => w
    | some c =>
      if !w.dev.dispatching v then w
      else if c.phase != .resid && c.phase != .eligible then w
      else if listsWait w.dev v (c.ins ++ c.outs) then w
      else if c.phase == .resid then checkResidency v q (w.on (useXlt (listEng w.dev v) v (c.ins ++ c.outs)))
      else match checkEligible w v x c with
        | .ok c => checkResidency v q (w.on fun d => noteChecks v c (useXlt (listEng d v) v (c.ins ++ c.outs) (dropHostBuf v (d.onCur v q fun _ => c))))
        | .error e => stopCmd (hubEng v) v q x c e w

end Sys2Proof.Machine
end

