-- ==== Sys2Proof/Machine/Digest.lean ====
section
/-! DEFINITION. Output and input digests (R24 … R27) and the audit slot (Table 1-3). -/

namespace Sys2Proof.Machine

open Sys2Proof

/-- The hash of a leaf (R24). -/
def leafHash (bs : List Byte) : List Byte := sha3_256 (0 :: bs)
/-- The hash of a node (R24). -/
def nodeHash (l r : List Byte) : List Byte := sha3_256 (1 :: (l ++ r))

/-- One level of the tree: pairs are joined, an odd last node is promoted unchanged. -/
def nodeLevel : List (List Byte) → List (List Byte)
  | a :: b :: t => nodeHash a b :: nodeLevel t
  | l => l

/-- The root over a list of leaf hashes. -/
def rootOf : Nat → List (List Byte) → List Byte
  | _, [] => leafHash []
  | _, [a] => a
  | 0, a :: _ => a
  | n + 1, l => rootOf n (nodeLevel l)

/-- Sort ranges by start, then by length (R24). -/
def sortRanges (rs : List (Nat × Nat)) : List (Nat × Nat) := rs.foldr ins []
where
  /-- Insert a range. -/
  ins (a : Nat × Nat) : List (Nat × Nat) → List (Nat × Nat)
    | [] => [a]
    | b :: t => if a.1 < b.1 || (a.1 == b.1 && decide (a.2 ≤ b.2)) then a :: b :: t else b :: ins a t

/-- The leaves of a range: address and length of each. -/
def leavesOf (r : Nat × Nat) : List (Nat × Nat) :=
  (List.range (ceilDiv r.2 4096)).map fun i => (r.1 + 4096 * i, min 4096 (r.2 - 4096 * i))

/-- The digest of sorted ranges whose leaf hashes are known (R24). -/
def digestOf (rs : List (Nat × Nat)) (hashes : Nat → List (List Byte)) : List Byte :=
  sha3_256 (2 :: (natLe 4 rs.length ++ rs.zipIdx.flatMap fun (r, i) => natLe 8 r.2 ++ rootOf 64 (hashes i)))

/-- Leaf hashes of a range, read now at the addresses that the owning hub gives the MC dies: a digest read needs R (Table 10-1). -/
def hashLeaves (w : Wk) (v : Nat) : List (Nat × Nat) → Except Acc (List (List Byte))
  | [] => .ok []
  | (a, n) :: t =>
    match readAs (hubEng v) w v needR a n with
    | .error e => .error e
    | .ok bs => (hashLeaves w v t).map fun r => leafHash bs :: r

/-- The input digests of a command, over its input ranges as they are now (R25, R27). -/
def inputDigests (w : Wk) (v : Nat) : List (Nat × Nat) → Except Acc (List (List Byte))
  | [] => .ok []
  | r :: t =>
    match hashLeaves w v (leavesOf r) with
    | .error e => .error e
    | .ok hs => (inputDigests w v t).map fun ds => digestOf [r] (fun _ => hs) :: ds

/-- The pieces of a range outside a span. -/
def outside (a n : Nat) (r : Nat × Nat) : List (Nat × Nat) :=
  [(r.1, min (r.1 + r.2) a - r.1), (max r.1 (a + n), r.1 + r.2 - max r.1 (a + n))].filter fun x => decide (0 < x.2)

/-- The ranges of the output digest: the output ranges, without the watch pool (R24, R172). DESIGN CHOICE: an output range that
holds the pool enters the digest as the pieces on both sides of it, each a range of its own. -/
def Cmd.digestRanges (c : Cmd) : List (Nat × Nat) :=
  sortRanges (if c.kind == 2 && klWatch c.params then c.outs.flatMap (outside (klPool c.params) (klPoolLen c.params)) else c.outs)

/-- The leaves of a command's output ranges: number (2^44 × range + leaf), address and length. -/
def outLeaves (c : Cmd) : List (Nat × Nat × Nat) :=
  c.digestRanges.zipIdx.flatMap fun (r, i) => (leavesOf r).zipIdx.map fun (l, j) => (2 ^ 44 * i + j, l.1, l.2)

/-- The output digest once every leaf hash has arrived. -/
def outDigest (c : Cmd) : List Byte :=
  digestOf c.digestRanges fun i =>
    (outLeaves c).filterMap fun (id, _, _) =>
      if id / 2 ^ 44 = i then some (((c.leaves.find? fun l => l.1 == id).map Prod.snd).getD []) else none

/-- Bytes 0x0000 … 0x027F of the audit slot (Table 1-3). -/
def slotBody (c : Cmd) : List Byte :=
  natLe 4 0x43525642 ++ natLe 2 1 ++ natLe 2 (if c.receiptFlag then 0x2D8 else 0x280) ++ natLe 2 c.acl ++
    natLe 2 (if c.kind = 2 then 2 else 1) ++ natLe 4 (if c.kind = 2 then 0 else fieldLe c.params 0 4) ++ natLe 4 c.flags.toNat ++
    natLe 2 c.ins.length ++ natLe 2 0 ++ natLe 8 (totalLen c.outs) ++ sliceB (if c.kind = 2 then c.code else []) 0 32 ++
    sha3_256 c.params ++ outDigest c ++ sliceB c.inDigests.flatten 0 512

/-- The envelope, bytes 0x0280 … 0x02D7. -/
def slotEnvelope (c : Cmd) (serial devq v : Nat) (meas : List Byte) : List Byte :=
  natLe 4 c.context ++ natLe 4 0 ++ natLe 8 serial ++ natLe 2 devq ++ natLe 2 v ++ natLe 4 0 ++ sliceB meas 0 32 ++
    sha3_256 (sec1 (publicKey attestationPrivate))

/-- The whole signed slot (R30, R31): the signature value depends on the signer's nonce. -/
def signedSlot (dn : Nat) (signed : List Byte) : List Byte :=
  let (r, s) := attest dn signed
  sliceB (signed ++ natBe 48 r.toNat ++ natBe 48 s.toNat) 0 1024

end Sys2Proof.Machine
end

