-- ==== Sys2Proof/Machine/Placement.lean ====
section
/-! DEFINITION. Dispatch and placement: decisions, turns and exclusive jobs (R330 … R336), hand-over to the cluster
control cores, preloading (R150, R151) and the loading of binaries (R152 … R154). -/

namespace Sys2Proof.Machine

open Sys2Proof

/-- Whether a command has been placed and its completion or failure has not committed. -/
def Phase.active : Phase → Bool
  | .placed | .running | .executed | .acked | .closing | .signing | .ready => true
  | .failing | .aborting | .replaying => true
  | _ => false

/-- Cohorts of a kernel launch. -/
def Cmd.cohortCount (c : Cmd) : Nat := ceilDiv (klGroups c.params) (max 1 (klCohort c.params))

/-- Cores that one cohort of a kernel takes (R331). -/
def Cmd.cohortCores (c : Cmd) : Nat :=
  ceilDiv (klCohort c.params) (max 1 (groupsPerCore (hdrRegs c.hdr) (hdrGs c.hdr)))

/-- A command waits for cores: checked and not placed, or a kernel whose cohorts are not all placed. One whose FAIL is on its way is
not placed meanwhile, so that no attempt starts (R334, R417). -/
def Cmd.wantsCores (c : Cmd) : Bool :=
  (c.phase == .checked && c.failOut.isNone) || (c.kind == 2 && (c.phase == .running || c.phase == .placed) && decide (c.cohorts.length < c.cohortCount))

/-- The current command of a number. -/
def Dev.curNo (d : Dev) (no : Nat) : Option Cmd :=
  d.vds.findSome? fun v => v.2.queues.findSome? fun q => q.2.cur.bind fun c => if c.no = no then some c else none

/-- What a switched-out command leaves free of a core (R254): thread slots, registers and bytes of core store. -/
def Dev.leftBy (d : Dev) (n no : Nat) : Nat × Nat × Nat :=
  match d.curNo no with
  | none => (48, 3072, 4194304)
  | some c =>
    let (s, r, b) :=
      if c.kind = 2 then
        let k := ((Tab.getD d.kern no ⟨0, 0, [], 0, 0, [], [], [], 0, false, [], (0, 0)⟩).groups.filter fun g => g.2.core == n).length
        (k, k * hdrRegs c.hdr, k * hdrGs c.hdr)
      else Config.opHolds (fieldLe c.params 0 4)
    (48 - s, 3072 - r, 4194304 - b)

/-- Whether a command may join a core on which another is switched out (R254): it does not use the matrix engine, and the groups it
would hold on a core fit in what is left free. -/
def Cmd.joins (c : Cmd) (left : Nat × Nat × Nat) : Bool :=
  let g := min (groupsPerCore (hdrRegs c.hdr) (hdrGs c.hdr)) (min (klCohort c.params) (klGroups c.params))
  !c.matrix && (if c.kind = 2 then decide (g ≤ left.1) && decide (g * hdrRegs c.hdr ≤ left.2.1) && decide (g * hdrGs c.hdr ≤ left.2.2)
    else Config.opFits (fieldLe c.params 0 4) left)

/-- Whether the dredge of an engine that meets a test keeps a command off it (R430): the engine serves only the suspect that
runs alone. -/
def Dev.dredgeBars (d : Dev) (p : Engine → Bool) (no : Nat) : Bool :=
  d.dredges.any fun r => p r.engine && (r.alone.map fun s => s.2.2) != some no

/-- Whether a core is kept for a suspect other than a command (R430, R431). -/
def Dev.coreBarred (d : Dev) (n no : Nat) : Bool :=
  d.dredges.any fun r => (r.alone.map fun s => s.2.2) != some no && (r.second == some n || match r.engine with
    | .core m => m.val == n
    | _ => false)

/-- Whether a command waits for its turn in a dredge. -/
def Dev.dredgeWaits (d : Dev) (no : Nat) : Bool := d.dredges.any fun r => r.waiting.any fun s => s.2.2 == no

/-- The core on which a suspect of a core runs alone. -/
def Dev.dredgeCore (d : Dev) (no : Nat) : Option Nat :=
  d.dredges.findSome? fun r => match r.engine with
    | .core m => if (r.alone.map fun s => s.2.2) = some no then some (r.second.getD m.val) else none
    | _ => none

/-- The free cores with the one that a suspect must run on in front. -/
def aheadOf (t : Option Nat) (l : List Nat) : List Nat :=
  match t with
  | none => l
  | some n => if l.contains n then n :: l.filter (· != n) else []

/-- Whether a core of a virtual device is joining its composition: the epoch that binds it is not published everywhere (R338). -/
def Dev.joining (d : Dev) (v n : Nat) : Bool := d.sched.publish.any fun p => p.vdev == v && !p.old.cores.contains n

/-- The cores of a partition that a command may take, in core-list order (R331); a joining core takes work once the map is published
(R338). A replay avoids the cores of its parity events while others are free (R415). -/
def freeFor (d : Dev) (v : Nat) (p : Part) (c : Cmd) (be holder : Bool) : List Nat :=
  let idle (n : Nat) : Bool :=
    !d.joining v n && (d.core n).state == .serviceable && (d.core n).busy.isNone && !d.coreBarred n c.no && !d.sluiced .core n &&
      (match (d.core n).switched with
        | none => true
        | some no => no != c.no && c.joins (d.leftBy n no))
  let cs := if be && !holder then p.cores.drop p.lcReserve else p.cores
  let free := cs.filter idle
  let good := free.filter fun n => !c.avoid.contains n
  if good.isEmpty then free else good

/-- Cores for the cohorts of a kernel, one cohort at a time (R331). -/
def takeCohorts (k : Nat) : Nat → List Nat → List (List Nat)
  | 0, _ => []
  | m + 1, free =>
    let here (n : Nat) : List Nat := free.filter fun j => j / 68 == n / 68
    match free.find? fun n => decide (k ≤ (here n).length) with
    | none => []
    | some n =>
      let take := (here n).take k
      take :: takeCohorts k m (free.filter fun j => !take.contains j)

/-- Work units of a built-in operation (R331): its division is fixed by firmware. -/
def workUnitsOf (c : Cmd) : Nat :=
  let b := parseBlock c.param (c.params.take 64) (c.params.drop 64)
  max 1 (Config.workUnits (fieldLe c.params 0 4) ((b.outs.map Tensor.count).foldl (· + ·) 0))

/-- The reserved undo records on one MC die (R420): a command holds its reservation from its first dispatch until its completion or
failure commits, as its records stay valid across attempts (R421). -/
def Dev.reserved (d : Dev) (k : Nat) : Nat :=
  (d.vds.flatMap fun (_, x) => x.queues.filterMap fun (_, q) => q.cur.bind fun c =>
    if 0 < c.attempt then (c.resv.find? fun r => r.1 == k).map Prod.snd else none).foldl (· + ·) 0

/-- The reservation of a command fits (R420), or was made at an earlier dispatch. -/
def Dev.fitsJournal (d : Dev) (c : Cmd) : Bool :=
  decide (0 < c.attempt) || c.resv.all fun r => decide (d.reserved r.1 + r.2 ≤ undoPool)

/-- Validated images of a virtual device that a dispatched command's outputs intersect are invalidated (R154). -/
def dropBinaries (v : Nat) (outs : List (Nat × Nat)) (d : Dev) : Dev :=
  d.onSched fun s => { s with binaries := s.binaries.map fun (k, l) =>
    (k, l.filter fun b => !(b.vdev == v && outs.any fun r => rangesMeet r (b.start, b.len))) }

/-- A command takes the cores chosen for it; a shadow of another command on one of them is discarded (R150). A built-in operation
leaves registers and core store in no known state (R137). -/
def takeCores (no : Nat) (kernel : Bool) (cs : List Nat) (d : Dev) : Dev :=
  cs.foldl (fun d n =>
    let d := d.onCore n fun k => { k with busy := some no, dirty := true, idle := 0, zeroed := k.zeroed && kernel }
    match Tab.get? d.sched.shadows n with
    | some s => if s.cmd = no then d else dropShadow n d
    | none => d) d

/-- A hand-off is journaled: the command, the attempt and the cores, in as many records as they take (R409). -/
def journalHandoff (c : Cmd) (cs : List Nat) (d : Dev) : Dev :=
  (List.range ((cs.length + 11) / 12)).foldl (fun d i => journal 3 ([c.no, c.attempt + 1] ++ (cs.drop (12 * i)).take 12) d) d

/-- Place a command that waits for cores (R331). Commands that use no core are handed over at once; a QUERY invalidates the images
that its outputs meet, as any dispatched command does (R154). -/
def placeCmd (v q : Nat) (p : Part) (holder : Bool) (d : Dev) : Dev :=
  match d.queue? v q with
  | none => d
  | some x =>
    match x.cur with
    | none => d
    | some c =>
      if d.dredgeWaits c.no || !c.wantsCores then d
      else if c.kind = 0 || c.kind = 3 then dropBinaries v c.outs (d.onCur v q fun c => { c with phase := .running, started := true })
      else
        let must := if c.phase == .checked then d.dredgeCore c.no else none
        let free := aheadOf must (freeFor d v p c x.be holder)
        let new : List (List Nat) :=
          if c.kind = 2 then takeCohorts c.cohortCores (c.cohortCount - c.cohorts.length) free
          else [free.take (workUnitsOf c)]
        let cs := new.flatten
        if cs.isEmpty || !d.fitsJournal c || (must.map fun n => !cs.contains n).getD false then d
        else dropBinaries v c.outs (takeCores c.no (c.kind == 2) cs ((journalHandoff c cs d).onCur v q fun c => { c with
          phase := if c.phase == .checked then .placed else c.phase
          attempt := if c.phase == .checked then c.attempt + 1 else c.attempt
          cores := c.cores ++ cs
          cohorts := if c.kind = 2 then c.cohorts ++ new else c.cohorts }))

/-- Whether a core holds work of a command: one being aborted keeps its cores until they have acted on the abort (R335). -/
def Dev.holdsCore (d : Dev) (no : Nat) : Bool :=
  d.sched.cores.any fun k => k.2.busy == some no || k.2.switched == some no

/-! ## Turns of the best-effort ring (R333) -/

/-- The slice of a partition in ticks (Table 13-2): 0 selects 2,000 µs. -/
def Part.slice (p : Part) : Nat := 100 * (if p.sliceUs = 0 then 2000 else p.sliceUs)

/-- Whether a queue has a command that waits for cores. -/
def Queue.wants (x : Queue) : Bool := match x.cur with | some c => c.wantsCores | none => false

/-- Pass the turn at a decision: a holder whose slice has ended, or with no eligible command, passes it on, at most once
round the ring. -/
def passTurn (ring : List Nat) (wants : Nat → Bool) (now : BitVec 64) : Nat → Part → Part
  | 0, p => p
  | n + 1, p =>
    match p.turn with
    | none => p
    | some t =>
      if ring.contains t && wants t && decide ((now - p.turnStart).toNat < p.slice) then p
      else passTurn ring wants now n { p with turn := nextTurn ring t, turnStart := now }

/-- Rotate a ring to begin with the turn-holder. -/
def fromTurn (l : List (Nat × Queue)) (t : Option Nat) : List (Nat × Queue) :=
  match t with
  | none => l
  | some n => (l.filter fun q => decide (n ≤ q.2.devq)) ++ l.filter fun q => decide (q.2.devq < n)

/-- DISPATCH_DECISION (R330 … R336): latency-critical commands by the time they became eligible, then best-effort ones
from the turn-holder. -/
def doDecision (v p : Nat) (d : Dev) : Dev :=
  let x := d.vd v
  match Tab.get? x.parts p with
  | none => d
  | some part =>
    if !d.dispatching v || !d.schedUp then d
    else
      let lc := sortBy (fun q => ((q.2.cur.map fun c => c.eligAt.toNat).getD 0, q.2.devq))
        ((x.partQueues p).filter fun q => !q.2.be && q.2.wants)
      let ring := beRing x p
      let ids := ring.map fun q => q.2.devq
      let wants (n : Nat) : Bool := ring.any fun q => q.2.devq == n && q.2.wants
      let part := if part.turn.isSome then part else { part with turn := ids.head?, turnStart := d.hlcOf v }
      let part := passTurn ids wants (d.hlcOf v) ids.length part
      let order := lc ++ (fromTurn ring part.turn).filter fun q => q.2.wants
      let first := order.find? fun q => (q.2.cur.map fun c => c.jobStart).getD false
      let holder := match part.holder with
        | some u => some u
        | none => first.map fun q => q.2.uid
      let part := { part with
        holder := holder
        jobBy := if part.holder.isNone then ((first.bind fun q => q.2.cur).map Cmd.no).getD 0 else part.jobBy }
      let others (u : Nat) : Bool := (x.partQueues p).any fun q =>
        q.2.uid != u && (match q.2.cur with | some c => c.phase.active && (!c.cores.isEmpty || d.holdsCore c.no) | none => false)
      let d := d.onVd v fun y => { y with parts := Tab.put y.parts p part }
      order.foldl (fun d (q, y) =>
        match holder with
        | none => placeCmd v q part false d
        | some u => if y.uid ≠ u || others u then d else placeCmd v q part true d) d

/-- DISPATCH_DECISION. -/
def execDispatchDecision (v : VDev) (p : PartId) (s : State) : Out := runDev (fun _ d => doDecision v.val p.val d) s

/-- BE_SLICE_EXPIRY (R333): the turn-holder's slice is up; the turn passes at the next decision. -/
def execBeSliceExpiry (v : VDev) (p : PartId) (s : State) : Out :=
  runDev (fun _ d => match Tab.get? (d.vd v.val).parts p.val with
    | some x => if x.turn.isNone then d else d.advance (hubOf v.val) (x.turnStart + BitVec.ofNat 64 x.slice)
    | none => d) s

/-! ## Hand-over, binaries, preloading -/

/-- The image of a kernel as a cluster keys it (R154). -/
def Binary.matches (b : Binary) (v : Nat) (c : Cmd) : Bool :=
  b.vdev == v && b.start == klImage c.params && b.digest == sliceB c.hdr 0x40 32

/-- Images held by a cluster. -/
def Dev.binariesOf (d : Dev) (k : Nat) : List Binary := Tab.getD d.sched.binaries k []

/-- A core starts a command: from its shadow, where it holds that command (Table 6-7). -/
def useShadow (no n : Nat) (d : Dev) : Dev :=
  match Tab.get? d.sched.shadows n with
  | none => d
  | some s =>
    if s.cmd = no then countCore n 0xA 1 (d.onSched fun s => { s with shadows := Tab.del s.shadows n }) else dropShadow n d

/-- DISPATCH_HANDOFF (R330): a cluster control core receives its part of a placed command. A kernel's image must be
validated on the cluster. The command runs once every cluster of its cores has its part; the input digests it asks for
are taken then (R27). An attempt does not start while a FAIL of the command is on its way (R334, R417). -/
def doHandoff (v q k : Nat) (w : Wk) : Wk :=
  match w.dev.queue? v q with
  | none => w
  | some x =>
    match x.cur with
    | none => w
    | some c =>
      let need := (c.cores.map (· / 68)).eraseDups
      if !(c.phase == .placed || (c.kind == 2 && c.phase == .running)) || !need.contains k || c.clusters.contains k ||
          !w.dev.schedUp || !(w.dev.proc (4 + k)).up || (c.phase == .placed && c.failOut.isSome) then w
      else if c.kind == 2 && !((w.dev.binariesOf k).any fun b => b.matches v c) then w
      else
        let got := c.clusters ++ [k]
        let starts := c.phase == .placed && need.all fun j => got.contains j
        let took (d : Dev) : Dev := (c.cores.filter fun n => n / 68 == k).foldl (fun d n => useShadow c.no n d) (raiseClusters 0 [k] d)
        if !starts then w.on fun d => took (d.onCur v q fun c => { c with clusters := got })
        else match (if c.digestFlag then inputDigests w v (sortRanges c.ins) else .ok []) with
          | .error e => stopCmd (hubEng v) v q x c (.acc 1 e) w
          | .ok ds => w.on fun d => took ((if c.digestFlag then readFor c.context (hubEng v) v needR c.ins d else d).onCur v q fun c => { c with
              clusters := got
              phase := .running
              started := true
              inDigests := ds })

/-- Images of a cluster that a running command uses. -/
def imageUsed (d : Dev) (k : Nat) (b : Binary) : Bool :=
  d.vds.any fun (v, x) => x.queues.any fun (_, q) => match q.cur with
    | some c => c.kind == 2 && c.phase.active && (c.cores.any fun n => n / 68 == k) && b.matches v c
    | none => false

/-- Bytes of a store of a cluster: 8 MiB on the die, 64 MiB of overflow (R154). -/
def storeRoom (overflow : Bool) : Nat := if overflow then 67108864 else 8388608

/-- Bytes of the images in a store. -/
def storeUsed (l : List Binary) (overflow : Bool) : Nat := ((l.filter fun b => b.overflow == overflow).map Binary.len).sum

/-- Make room for an image in a store: entries no running command uses are evicted, the oldest first. -/
def evict (d : Dev) (k len : Nat) (overflow : Bool) : Nat → List Binary → List Binary
  | 0, l => l
  | n + 1, l =>
    if l.length < 32 && decide (storeUsed l overflow + len ≤ storeRoom overflow) then l
    else match takeFirst (fun b => !imageUsed d k b && (b.overflow == overflow || decide (32 ≤ l.length))) l with
      | none => l
      | some (_, rest) => evict d k len overflow n rest

/-- Whether an image fits in a store of a list of entries. -/
def fitsStore (l : List Binary) (len : Nat) (overflow : Bool) : Bool :=
  decide (l.length < 32) && decide (storeUsed l overflow + len ≤ storeRoom overflow)

/-- Where an image is put (R154): in the on-die store where it fits there once entries of commands that are not running are
evicted, otherwise in the overflow store, which goes with the MC die beside the cluster; without room it waits. DESIGN CHOICE (log entry 75;
R154 does not say): an image that only the overflow store could hold waits for good once that die is lost. -/
def placeImage (d : Dev) (k len : Nat) (l : List Binary) : Option (Bool × List Binary) :=
  let a := evict d k len false 64 l
  if fitsStore a len false then some (false, a)
  else
    let b := evict d k len true 64 l
    if fitsStore b len true && !(d.die k).lost then some (true, b) else none

/-- BINARY_LOAD (R152 … R154): a cluster control core loads and validates the image of a placed kernel, once per cluster
and image. An image that fails a check of R153 refuses the command. -/
def doBinaryLoad (v q k : Nat) (w : Wk) : Wk :=
  match w.dev.queue? v q with
  | none => w
  | some x =>
    match x.cur with
    | none => w
    | some c =>
      let here := c.cores.any fun n => n / 68 == k
      if c.kind ≠ 2 || !(c.phase == .placed || c.phase == .running) || !here || !(w.dev.proc (4 + k)).up ||
          (w.dev.binariesOf k).any (fun b => b.matches v c) then w
      else
        let image := klImage c.params
        let w := w.on (raiseClusters 4 [k])
        let load : Except Stop (List Byte × List Byte) := do
          let h ← readBy (.ctl k) w v needX image 128
          if c.acl < fieldLe h 6 2 then .error (aclStop c.acl (fieldLe h 6 2)) else .ok ()
          rules 0x0B image (hdrRules h)
          let img ← readBy (.ctl k) w v needX image (hdrLen h)
          rules 0x0B image (imageRules c.params h img)
          return (h, img)
        match load with
        | .error e => stopCmd (.ctl k) v q x c e w
        | .ok (h, img) =>
          match placeImage w.dev k img.length (w.dev.binariesOf k) with
          | none => w
          | some (over_, l) =>
            let b : Binary := ⟨v, image, sliceB h 0x40 32, img.length, sha3_256 img,
              Config.coreCodeMatrix (sliceB img (fieldLe h 0x10 4) (fieldLe h 0x14 4)), over_⟩
            w.on fun d => readFor c.context (.ctl k) v needX [(image, img.length)] <| dropHostBuf v ((d.onSched fun s => { s with binaries := Tab.put s.binaries k (l ++ [b]) }).onCur v q
              fun c => { c with hdr := h, code := b.image, matrix := b.matrix })

/-- Every command that has not committed, with its virtual device, queue and place in the queue. -/
def Dev.allCmds (d : Dev) : List (Nat × Nat × Nat × Cmd) :=
  d.vds.flatMap fun (v, x) => x.queues.flatMap fun (q, y) => y.cmds.zipIdx.map fun (c, i) => (v, q, i, c)

/-- Commands that precede the commands of a list in queue order, or signal a fence that one of them waits on. -/
def precede (all l : List (Nat × Nat × Nat × Cmd)) : List (Nat × Nat × Nat × Cmd) :=
  all.filter fun (v, q, i, c) => l.any fun (v', q', i', c') =>
    (v == v' && q == q' && decide (i < i')) || (match c.sig with | some r => c'.waits.contains r | none => false)

/-- The commands that precede one in the declared order (R15), to a depth; the chains go through fences of other virtual devices. -/
def preceding (all : List (Nat × Nat × Nat × Cmd)) : Nat → List (Nat × Nat × Nat × Cmd) → List (Nat × Nat × Nat × Cmd)
  | 0, _ => []
  | n + 1, l =>
    let p := precede all l
    p ++ (if p.isEmpty then [] else preceding all n p)

/-- Whether a chain successor that is not read yet comes before the entries fetched from the ring (R15, R282). -/
def Queue.chainUnread (x : Queue) : Bool :=
  x.chainNext.isSome || x.cur.any fun c => c.chainFlag && decide (c.chain < 32)

/-- The command a queue runs next: the current one while it is not placed, else the oldest one fetched; a chain successor that is not read
yet is not known. -/
def Queue.nextCmd (x : Queue) : Option Cmd :=
  let next := if x.chainUnread then none else x.fetched.head?
  match x.cur with
  | some c => if c.phase == .waiting || c.phase == .eligible || c.phase == .resid || c.phase == .checked then some c else next
  | none => next

/-- Whether a wait of a command is not signalled, and no command read so far signals its fence: one that is not fetched yet precedes it. -/
def waitsUnread (d : Dev) (all : List (Nat × Nat × Nat × Cmd)) (c : Cmd) : Bool :=
  c.waits.zipIdx.any fun (r, i) => !(c.waitsOk.contains i) && !(all.any fun (_, _, _, y) => y.sig == some r) &&
    match r with
    | .cell k => d.evalWait k (c.waitValue i) != some none
    | .proxy _ _ => true

/-- Whether commands that are not read yet precede one of a list in the declared order (R15): a chain successor, or the signaller of a
fence. -/
def unreadBefore (d : Dev) (all l : List (Nat × Nat × Nat × Cmd)) : Bool :=
  l.any fun (v, q, _, c) => waitsUnread d all c || (match d.queue? v q with
    | some x => x.chainUnread && (x.cur.map Cmd.no) != some c.no
    | none => false)

/-- What is preloaded besides the descriptor and the range entries (Table 6-5): parameter bytes, the binary's header and first
16 KiB of code, and the key, each where no preceding command's outputs intersect them (R151), none that precedes is still
unread, and they can be read. -/
def preloadBytes (g : XEng) (w : Wk) (v : Nat) (c : Cmd) : List Byte × List Byte × List Byte × BitVec 128 :=
  let all := w.dev.allCmds
  let me := all.filter fun (_, _, _, x) => x.no == c.no
  let before := preceding all all.length me
  let unread := unreadBefore w.dev all (me ++ before)
  let clean (a n : Nat) : Bool := !unread && !(before.any fun (u, _, _, x) => u == v && x.outs.any fun r => rangesMeet r (a, n))
  let get (a n : Nat) : List Byte := if clean a n then ((readAs g w v needR a n).toOption).getD [] else []
  let n := if c.kind = 1 then min 4160 (fieldLe (get c.param 64) 4 2)
    else if c.kind = 2 then 128 + min 3904 (klArgs (get c.param 128)) else 0
  let p := get c.param n
  let code (a n : Nat) : List Byte := if clean a n then ((readAs g w v needX a n).toOption).getD [] else []
  let h := if c.kind = 2 ∧ p ≠ [] then code (klImage p) 128 else []
  let cs := if h = [] then [] else code (klImage p + fieldLe h 0x10 4) (min 16384 (fieldLe h 0x14 4))
  let seed := if c.kind = 1 then fieldLe p 8 8 else if c.kind = 2 then klSeed p else 0
  (p, h, cs, if seed = 0 || p.isEmpty then 0 else BitVec.ofNat 128 (fieldLe (get seed 64) 8 16))

/-- A shadow of another command gives way to that of the command that is chosen now (R150). -/
def shadowFor (no n : Nat) (d : Dev) : Dev :=
  match Tab.get? d.sched.shadows n with
  | some s => if s.cmd = no then d else dropShadow n d
  | none => d

/-- A parity error in a shadow discards it (R150). -/
def shadowError (n : Nat) (d : Dev) : Dev := if (Tab.get? d.sched.shadows n).isNone then d else parityEvent n (coreMemPlace (.shadow 0)) (dropShadow n d)

/-- PRELOAD (R150, R151): while a core runs a command, its cluster control core fetches the state of the next command
into the preload shadow. Nothing starts, and no fence or output is touched. -/
def doPreload (v q n : Nat) (w : Wk) : Wk :=
  match w.dev.queue? v q with
  | none => w
  | some x =>
    match x.nextCmd with
    | none => w
    | some c =>
      if !(w.dev.proc (4 + n / 68)).up || (w.dev.core n).busy.isNone || (w.dev.core n).busy == some c.no || !(w.dev.vd v).cores.contains n || w.dev.sluiced .core n
      then w
      else
        let (p, h, cs, key) := preloadBytes (.ctl (n / 68)) w v c
        let es := ((entriesFor w.dev (.ctl (n / 68)) v (c.ins ++ c.outs)).map CEntry.e).take 32
        let code := if h = [] then [] else [(klImage p, 128), (klImage p + fieldLe h 0x10 4, cs.length)]
        w.on fun d => (shadowFor c.no n (readFor c.context (.ctl (n / 68)) v needX code (readFor c.context (.ctl (n / 68)) v needR [(c.param, p.length)] d))).onSched fun s =>
          { s with shadows := Tab.put s.shadows n ⟨c.no, (d.vd v).gen, c.desc, p, h, cs, es, key⟩ }

/-- PRELOAD: the next command's state, or a parity error in the shadow, which is discarded and never replayed (R150). -/
def execPreload (v : VDev) (q : QId) (n : CoreAt) (s : State) : Out :=
  match n.bad with
  | none => runMem (doPreload v.val q.val n.core.val) s
  | some _ => runDev (fun _ d => shadowError n.core.val d) s

end Sys2Proof.Machine
end

