-- ==== Sys2Proof/Machine/Execute.lean ====
section
/-! DEFINITION. Running a placed command on its data: the shared part of every built-in operation, NOP and queries
(R273, R276, R296, R297). -/

namespace Sys2Proof.Machine

open Sys2Proof

/-- The engine that moves the data of a built-in operation: the tensor mover of its first core (R148). DEDUCED: the manual does not
say which of the command's cores translates which address. -/
def Cmd.mover (c : Cmd) : XEng := .mover (c.cores.headD 0)

/-- A wanted access of a running command that does not proceed: it waits, or the command fails (Table 11-11). -/
def stallCmd (g : XEng) (v q : Nat) (x : Queue) (c : Cmd) (access : Nat) (e : Acc) (w : Wk) : Wk := stopCmd g v q x c (.acc access e) w

/-- Read spans of virtual addresses as an engine translates them. -/
def readSpans (g : XEng) (w : Wk) (v : Nat) : List (Nat × Nat) → Except Acc (List (Nat × List Byte))
  | [] => .ok []
  | (a, n) :: t =>
    match readAs g w v needR a n with
    | .error e => .error e
    | .ok bs => (readSpans g w v t).map fun r => (a, bs) :: r

/-- A reader over bytes already read. -/
def spanRd (l : List (Nat × List Byte)) : Rd := fun a n =>
  match l.find? fun s => decide (s.1 ≤ a) && decide (a + n ≤ s.1 + s.2.length) with
  | some s => sliceB s.2 (a - s.1) n
  | none => List.replicate n 0

/-- Join bytes at consecutive addresses into runs. -/
def runsOf : Writes → List (Nat × List Byte)
  | [] => []
  | (a, b) :: t =>
    match runsOf t with
    | (a', bs) :: r => if a + 1 = a' then (a, b :: bs) :: r else (a, [b]) :: (a', bs) :: r
    | [] => [(a, [b])]

/-- The first run that cannot be written. -/
def badRun (g : XEng) (d : Dev) (v : Nat) (rs : List (Nat × List Byte)) : Option Acc :=
  rs.findSome? fun (a, bs) => checkWrites (d.seenBy g v) v (parts a bs.length)
where
  /-- Whether the pieces of a span can be written; a HOST piece needs write permission in the hub's cache. -/
  checkWrites (d : Dev) (v : Nat) (ps : List (Nat × Nat)) : Option Acc :=
    match checkParts d v needW ps with
    | some (.host va i) =>
      match d.atc? v (i / 4096) with
      | some (_, true) => none
      | _ => some (.host va i)
    | x => x

/-- Write runs. -/
def writeRuns (g : XEng) (v : Nat) (j : JKey) (rs : List (Nat × List Byte)) (w : Wk) : Wk :=
  rs.foldl (fun w (a, bs) => (writeAs g v a bs j w).1) (w.on (useXlt g v (rs.map fun r => (r.1, r.2.length))))

/-- The parameter block of a command. -/
def Cmd.block (c : Cmd) : PBlock := parseBlock c.param (c.params.take 64) (c.params.drop 64)

/-- The spans of a block's inputs, as start and length. -/
def inputSpans (b : PBlock) : List (Nat × Nat) := (b.ins.flatMap footprint).map fun f => (f.1, f.2 - f.1)

/-- The data of a command's inputs. -/
def inputData (g : XEng) (w : Wk) (v : Nat) (b : PBlock) : Except Acc (List Data) :=
  (readSpans g w v (inputSpans b)).map fun l => b.ins.map (readData (spanRd l))

/-- A built-in operation of the current command writes its outputs; the command has then executed,
and the values that the step left open are used up. -/
def finishOp (v q : Nat) (x : Queue) (c : Cmd) (ws : Writes) (fl : FlagWord) (w : Wk) : Wk :=
  let rs := runsOf ws
  match badRun c.mover w.dev v rs with
  | some e => stallCmd c.mover v q x c 2 e w
  | none =>
    (writeRuns c.mover v (jkey x c) rs (w.on (readFor c.context c.mover v needR (inputSpans c.block)))).on fun d =>
      dropHostBuf v (wroteFor c.context c.mover v (rs.map fun r => (r.1, r.2.length))
        (d.draw.2.onCur v q fun c => { c with flags := c.flags ||| fl, phase := .executed }))

/-- Whether the current command of a queue runs the given built-in operation. -/
def runningOp (d : Dev) (v q : Nat) (k : OpK) : Option (Queue × Cmd) :=
  match d.queue? v q with
  | none => none
  | some x =>
    match x.cur with
    | none => none
    | some c =>
      if c.phase == .running && c.kind == 1 && opOfId (fieldLe c.params 0 4) == some k then some (x, c) else none

/-- A built-in operation (The operation catalogue): its inputs are read, its outputs written with their flags. An access
that does not proceed leaves the command waiting. -/
def runOp (k : OpK) (v q : Nat) (w : Wk) : Wk :=
  match runningOp w.dev v q k with
  | none => w
  | some (x, c) =>
    let b := c.block
    match inputData c.mover w v b with
    | .error e => stallCmd c.mover v q x c 1 e w
    | .ok ds =>
      let (ws, fl) := writeOuts b c.key (evalOp k b c.key ds)
      finishOp v q x c ws fl w

/-! ## NOP and queries -/

/-- NOP (R273): it has nothing to do but signal. -/
def doNop (v q : Nat) (d : Dev) : Dev :=
  d.onCur v q fun c => if c.phase == .running && c.kind == 0 then { c with phase := .executed } else c

/-- NOP. -/
def execNop (v : VDev) (q : QId) (s : State) : Out := runDev (fun _ d => doNop v.val q.val d) s

/-- A query writes its answer into output range 0 (R276). -/
def runQuery (code : Nat) (answer : Wk → Cmd → List Byte) (v q : Nat) (w : Wk) : Wk :=
  match w.dev.queue? v q with
  | none => w
  | some x =>
    match x.cur with
    | none => w
    | some c =>
      if !(c.phase == .running && c.kind == 3 && fieldLe c.params 0 4 == code) then w
      else
        let out := c.outs.headD (0, 0)
        let bs := answer w c
        match badRun (hubEng v) w.dev v [(out.1, bs)] with
        | some e => stallCmd (hubEng v) v q x c 2 e w
        | none => (writeRuns (hubEng v) v (jkey x c) [(out.1, bs)] w).on fun d =>
            (wroteFor c.context (hubEng v) v [(out.1, bs.length)] d).onCur v q fun c => { c with phase := .executed }

/-- QUERY_DISTANCE (R276, R201): the distance table and its generation. -/
def execQueryDistance (v : VDev) (q : QId) (s : State) : Out :=
  runMem (runQuery 1 (fun w _ => distTable w.dev.net.retired ++ natLe 8 w.dev.net.gen.toNat) v.val q.val) s

/-- A submitted entry that the front end has not fetched, as its ring bytes now stand: the context it names and the sum of its
range-list lengths; nothing where the ring cannot be read. -/
def peekEntry (w : Wk) (v : Nat) (x : Queue) (k : Nat) : Option (Nat × Nat) :=
  match readAs (hubEng v) w v needR (x.sqBase + 128 * ((x.sqHead + k) % x.S)) 128 with
  | .error _ => none
  | .ok desc =>
    let n := fieldLe desc 0x28 2 + fieldLe desc 0x2A 2
    let held := match readAs (hubEng v) w v needR (fieldLe desc 0x20 8) (16 * min n 512) with
      | .ok bs => totalLen (rangesOf bs (min n 512))
      | .error _ => 0
    some (fieldLe desc 8 4 % 2 ^ 20, held)

/-- The commands of a context that are submitted and not recorded, each as the sum of its range-list lengths. -/
def pendingOf (w : Wk) (v ctx : Nat) : List Nat :=
  (w.dev.vd v).queues.flatMap fun (_, x) =>
    ((x.cmds.filter fun c => c.context == ctx).map fun c => totalLen c.ins + totalLen c.outs) ++
      (((List.range ((x.tail + x.S - x.sqHead) % x.S)).filterMap (peekEntry w v x)).filter fun e => e.1 == ctx).map Prod.snd

/-- A usage record (Table 12-2). -/
def usageRecord (w : Wk) (ctx : Nat) (k : Ctx) : List Byte :=
  let p := pendingOf w k.vdev ctx
  natLe 4 ctx ++ natLe 4 (if k.destroying then 1 else 0) ++ natLe 4 p.length ++ natLe 4 k.faults.toNat ++
    natLe 8 k.done.toNat ++ natLe 8 k.failed.toNat ++ natLe 8 k.coreUs.toNat ++ natLe 8 k.read.toNat ++
    natLe 8 k.written.toNat ++ natLe 8 p.sum

/-- USAGE_SELF (R296): one record for the query's own context. -/
def execUsageSelf (v : VDev) (q : QId) (s : State) : Out :=
  runMem (runQuery 0x100 (fun w c => match w.dev.ctx? c.context with
    | some k => usageRecord w c.context k
    | none => []) v.val q.val) s

/-- USAGE_ALL (R296): a header with the number of live contexts, then records in ascending context number, as many as the range
holds; a context being destroyed still has its record, whose flag says so (Table 12-2). -/
def execUsageAll (v : VDev) (q : QId) (s : State) : Out :=
  runMem (runQuery 0x101 (fun w c =>
    let held := w.dev.ctxs.filter fun k => k.2.vdev == v.val
    let live := held.filter fun k => !k.2.destroying
    let n := min held.length (((c.outs.headD (0, 0)).2 - 16) / 64)
    natLe 4 live.length ++ natLe 4 n ++ natLe 8 0 ++ (held.take n).flatMap fun k => usageRecord w k.1 k.2) v.val q.val) s

end Sys2Proof.Machine
end

