-- ==== Sys2Proof/Machine/Complete.lean ====
section
/-! DEFINITION. The end of commands: acknowledged writes, digests and receipts (R217, R218, R29 … R35), completion (R278),
timeouts (R283 … R286), aborts (R311), the undo journal (R421, R422), replay (R415 … R417) and the fence unit (R215,
R216). -/

namespace Sys2Proof.Machine

open Sys2Proof

/-! ## Acknowledgement, digests, receipts -/

/-- The MC die that hashes each leaf of a command's outputs: the home of its first byte when the digest closes, which a page
moved later does not change; MC0 for a leaf that has none, whose read then does not proceed. -/
def leafHomes (d : Dev) (v : Nat) (c : Cmd) : List (Nat × Nat) :=
  (outLeaves c).map fun l => (l.1, (homeDie (d.seenBy (hubEng v) v) v l.2.1).getD 0)

/-- ATTEMPT_LAST_WRITE_ACKED (R217): every write and atomic of the attempt is acknowledged. The cores are at their command
boundary, which their clusters' controllers and then the scheduler are told (Table 16-14). A command with DIGEST closes its digest at every MC die that holds output bytes (R218). -/
def doAcked (v q : Nat) (d : Dev) : Dev :=
  match d.cur? v q with
  | none => d
  | some c =>
    if c.phase != .executed || (d.mc.reqs.any fun r => r.cmd == c.no) || (d.mc.resps.any fun r => r.req.cmd == c.no) then d
    else
      let d := (c.cores.eraseDups).foldl (fun d n => coreNotice n d) (freeCores c.no { d with kern := Tab.del d.kern c.no })
      let d := c.clusters.foldl (fun d k => raiseSrc d.schedHub (0x101 + k) d) d
      let homes := if c.digestFlag then leafHomes d v c else []
      d.onCur v q fun c => { c with
        clusters := []
        phase := if c.digestFlag then .closing else .ready
        diesLeft := (homes.map Prod.snd).eraseDups
        leafHome := homes
        leafSent := []
        leaves := [] }

/-- Every leaf hash has arrived: the slot's body is formed, and a receipt goes to the security core. -/
def closeDigest (v q : Nat) (d : Dev) : Dev :=
  let signs : Bool := match d.cur? v q with
    | some c => c.phase == .closing && c.diesLeft.isEmpty && c.leafSent.isEmpty && c.receiptFlag
    | none => false
  let d : Dev := if signs then raiseSrc 0 0x154 d else d
  d.onCur v q fun c =>
    if c.phase == .closing && c.diesLeft.isEmpty && c.leafSent.isEmpty then
      { c with phase := if c.receiptFlag then .signing else .ready, receipt := sliceB (slotBody c) 0 1024 }
    else c

/-- What the device leaves in a watch pool (R172): contents the manual does not give. -/
def leavePool (v q : Nat) (w : Wk) : Wk :=
  match w.dev.cur? v q with
  | some c => if c.phase == .executed && c.kind == 2 && klWatch c.params then scribble v none (klPool c.params, klPoolLen c.params) w else w
  | none => w

/-- ATTEMPT_LAST_WRITE_ACKED. -/
def execAttemptLastWriteAcked (v : VDev) (q : QId) (s : State) : Out :=
  runMem (fun w => (leavePool v.val q.val w).on fun d => closeDigest v.val q.val (doAcked v.val q.val d)) s

/-- DIGEST_CLOSE (R218, Table 9-6 step 3): an MC die hashes the leaves it owns and sends their hashes. -/
def doDigestClose (v q k : Nat) (w : Wk) : Wk :=
  match w.dev.queue? v q with
  | none => w
  | some x =>
    match x.cur with
    | none => w
    | some c =>
      if c.phase != .closing || !c.diesLeft.contains k then w
      else
        let mine := (outLeaves c).filter fun l => c.leafHome.contains (l.1, k)
        match hashLeaves w v (mine.map Prod.snd) with
        | .error e => stopCmd (hubEng v) v q x c (.acc 1 e) w
        | .ok hs => w.on fun d => (readFor c.context (hubEng v) v needR (mine.map Prod.snd) d).onCur v q fun c => { c with
            diesLeft := c.diesLeft.filter (· != k)
            leafSent := c.leafSent ++ [(k, (mine.map Prod.fst).zip hs)] }

/-- LEAF_HASH (R218, Table 9-6 step 4): the hashes of an MC die reach the owning hub, which forms the digest when all
have arrived. -/
def execLeafHash (v : VDev) (q : QId) (k : Die) (s : State) : Out :=
  runDev (fun _ d => closeDigest v.val q.val (d.onCur v.val q.val fun c =>
    if c.phase == .closing then { c with
      leaves := c.leaves ++ (c.leafSent.filter fun l => l.1 == k.val).flatMap Prod.snd
      leafSent := c.leafSent.filter fun l => l.1 != k.val }
    else c)) s

/-- RECEIPT_SIGN_DONE (R30, R31): the security core has signed the receipt. -/
def doSigned (v q : Nat) (d : Dev) : Dev :=
  match d.queue? v q with
  | none => d
  | some x =>
    match x.cur with
    | none => d
    | some c =>
      if c.phase != .signing || !d.secUp then d
      else
        let serial := d.sec.serial + 1
        let signed := slotBody c ++ slotEnvelope c serial.toNat x.devq v d.fw.meas
        let (dn, d) := d.draw
        ({ d with sec := { d.sec with serial := serial } }).onCur v q fun c =>
          { c with phase := .ready, receipt := signedSlot dn signed }

/-- RECEIPT_SIGN_DONE. -/
def execReceiptSignDone (v : VDev) (q : QId) (s : State) : Out := runDev (fun _ d => doSigned v.val q.val d) s

/-! ## Completion -/

/-- The cause of an audit slot that cannot be written (R522, Table 11-11). DESIGN CHOICE: the manual gives no cause for a slot
in a HOST range, here 4, in a REVOKED range, here 3, or whose home is lost, here 6 as for a refusal at the home. -/
def slotCause : Acc → Nat
  | .bad _ (.fault k _) => k
  | .bad _ .revoked => 3
  | .bad _ _ => 6
  | .host _ _ => 4

/-- The current command has completed successfully. -/
def succeed (v q : Nat) (w : Wk) : Wk :=
  match w.dev.cur? v q with
  | none => w
  | some c => endCmd v q true 0 (if c.kind = 1 || c.kind = 2 then c.flags else 0) Detail.none w

/-- NOP and QUERY have no writes of cores to wait for. -/
def Cmd.canComplete (c : Cmd) : Bool := c.phase == .ready || (c.phase == .executed && c.kind == 0)

/-- COMMAND_COMPLETE (R278): the audit slot, then the signal at the fence's home, then the record and its interrupt. A
signal that is refused fails the command with the code the fence holds (R281). A command with DIGEST waits for a FAIL of
its timer that is under way (R285). -/
def doComplete (v q : Nat) (w : Wk) : Wk :=
  match w.dev.queue? v q with
  | none => w
  | some x =>
    match x.cur with
    | none => w
    | some c =>
      if !c.canComplete || (c.digestFlag && c.failOut.isSome) then w
      else
        let (w, e) := if hasSlot x c then writeSlot v x c c.receipt w else (w, none)
        match e with
        | some e => failCmd v q 3 (Detail.xlate (x.auditBase + 1024 * c.index) (slotCause e)) w
        | none =>
          match c.sig with
          | none => succeed v q w
          | some (.cell k) =>
            match storeOp k false (commitSignal k c.sigValue) w.dev with
            | (.refused code, d) => failCommitted v q code Detail.none { w with dev := d }
            | (_, d) => succeed v q { w with dev := d }
          | some (.proxy pv s) =>
            w.on fun d => sendFence (.proxy pv s) (.signal c.sigValue) (.signal v q c.no)
              (d.onCur v q fun c => { c with phase := .held })

/-- COMMAND_COMPLETE. -/
def execCommandComplete (v : VDev) (q : QId) (s : State) : Out := runMem (doComplete v.val q.val) s

/-! ## Timeouts -/

/-- Whether the timer of a command still decides anything: it has not failed, and no FAIL of it is under way. The timer of a command
with an audit slot whose SIGNAL is on its way is evaluated after the reply (R285). -/
def Cmd.timerLive (c : Cmd) : Bool :=
  !c.expired && !(c.phase == .held && c.digestFlag) && c.failOut.isNone && c.phase != .refusing && !(c.phase == .aborting && !c.thenReplay) && !(c.phase == .replaying && !c.thenReplay)

/-- COMMAND_TIMEOUT (R283, R284, R286): the owning hub's count has reached the end of the current command's timer. -/
def doTimeout (v q : Nat) (w : Wk) : Wk :=
  match w.dev.queue? v q with
  | none => w
  | some x =>
    match x.cur with
    | none => w
    | some c =>
      let w := w.on fun d => d.advance (hubOf v) (c.start + x.timeoutTicks)
      if !c.timerLive || ((w.dev.vd v).frozen && !c.started) then w
      else match c.sig with
        | none => failCommitted v q 2 Detail.none (w.on fun d => d.onCur v q fun c => { c with expired := true })
        | some r => w.on fun d => sendFence r (.fail 2 c.sigValue) (.timeout v q c.no 2)
            (d.onCur v q fun c => { c with failOut := some 2, expired := true })

/-- COMMAND_TIMEOUT. -/
def execCommandTimeout (v : VDev) (q : QId) (s : State) : Out := runMem (doTimeout v.val q.val) s

/-- The reply to a FAIL of a timer or of a destruction (R284, R312): applied, the command is aborted; where another failure
committed first, the record carries its code; signalled, the command has completed. -/
def timeoutReply (v q no code : Nat) (o : FOut) (w : Wk) : Wk :=
  match w.dev.cur? v q with
  | none => w
  | some c =>
    if c.no ≠ no then w
    else match o with
      | .applied => failCommitted v q code Detail.none w
      | .alreadyFailed other => failCommitted v q other Detail.none w
      | _ => w.on fun d => d.onCur v q fun c =>
          { c with failOut := none, phase := if c.phase == .failing then .checked else c.phase }

/-- The reply to a FAIL for another cause (R521). -/
def failReply (v q no code : Nat) (o : FOut) (w : Wk) : Wk :=
  match w.dev.cur? v q with
  | none => w
  | some c =>
    if c.no ≠ no then w
    else match o with
      | .alreadyFailed other => failCommitted v q other (if other = code then c.detail else Detail.none) w
      | _ => failCommitted v q code c.detail w

/-- The reply to a SIGNAL that left the package (R281, R394). -/
def signalReply (v q no : Nat) (o : FOut) (w : Wk) : Wk :=
  match w.dev.cur? v q with
  | none => w
  | some c =>
    if c.no ≠ no || c.phase != .held then w
    else match o with
      | .refused code => failCommitted v q code Detail.none w
      | .alreadyFailed code => failCommitted v q code Detail.none w
      | _ => succeed v q w

/-! ## Aborts and the undo journal -/

/-- What an engine does on ABORT (Table 12-6). -/
def engineAbort (e : Engine) (c : Cmd) (d : Dev) : Dev :=
  match e with
  | .core n =>
    let d := d.onCore n.val (Core.without c.no)
    match Tab.get? d.kern c.no with
    | some r => { d with kern := Tab.put d.kern c.no { r with
        groups := r.groups.filter fun g => g.2.core != n.val
        engines := Tab.del r.engines n.val } }
    | none => d
  | .ctl k => dropShadows (fun n no => no == c.no && n / 68 == k.val) d
  | .mc k => d.onMc fun m => { m with reqs := m.reqs.filter fun r =>
      !(r.cmd == c.no && r.spots.any fun p => p.chan / 32 == k.val) }
  | .dma _ => d.onMc fun m => { m with host := m.host.filter fun r => r.cmd != c.no }
  | .sec => d
  | .lx p => { d with fab := { d.fab with exchanges := d.fab.exchanges.map fun e =>
      if e.cmd == c.no then { e with ports := e.ports.filter (· != p) } else e } }

/-- ABORT (R311): an engine receives the abort, acts, and acknowledges. -/
def doAbort (v q : Nat) (e : Engine) (d : Dev) : Dev :=
  match d.cur? v q with
  | none => d
  | some c =>
    if !(c.aborts.contains e) then d
    else engineAbort e c (d.onCur v q fun c => { c with aborts := c.aborts.filter (· != e), abortAcks := c.abortAcks ++ [e] })

/-- ABORT_ACK (R311): the acknowledgement reaches the hub; with the last one the abort is over. -/
def doAbortAck (v q : Nat) (e : Engine) (w : Wk) : Wk :=
  match w.dev.cur? v q with
  | none => w
  | some c =>
    if !(c.abortAcks.contains e) then w
    else
      let acks := c.abortAcks.filter (· != e)
      let w := w.on fun d => d.onCur v q fun c => { c with abortAcks := acks }
      if c.phase == .aborting && acks.isEmpty && c.aborts.isEmpty then afterAbort v q w else w

/-- ABORT_ACK. -/
def execAbortAck (v : VDev) (q : QId) (e : Engine) (s : State) : Out := runMem (doAbortAck v.val q.val e) s

/-- Write an undo record's data back to its line, and to the line's mirror (R421, R428). -/
def applyUndo (u : Undo) (w : Wk) : Wk :=
  let data := u.prior w
  let back (w : Wk) (a : Nat) : Wk := (w.put u.key a data).on fun d => clearPoison a (countCh (chanOf a) 1 d)
  (u.line :: (w.dev.mirrorAt u.line).toList).foldl back w

/-- UNDO_JOURNAL_APPLIED (R421): the journal of the current command is written back, and the command is placed again or
its failure recorded. A record that cannot be read fails the command with 0x0011 instead of a replay (R422); its outputs then hold
unspecified bytes but for the lines that were restored (R287). -/
def doUndo (v q : Nat) (w : Wk) : Wk :=
  match w.dev.cur? v q with
  | none => w
  | some c =>
    if c.phase != .replaying then w
    else
      let whole := (undosOf w.dev c.no).all (undoReadable w.dev)
      let w := if !whole && c.thenReplay then scribbleOuts v q w else w
      let w := ((undosOf w.dev c.no).filter (undoReadable w.dev)).foldl (fun w u => applyUndo u w) w
      if whole then placeAgain v q w
      else
        let w := freeUndos (fun u => u.cmd == c.no) w
        if c.thenReplay && c.failOut.isNone then
          failCmd v q 0x11 Detail.none (w.on fun d => d.onCur v q fun c => { c with thenReplay := false })
        else if c.failOut.isNone then recordFailure v q w
        else w.on fun d => d.onCur v q fun c => { c with thenReplay := false }

/-- UNDO_JOURNAL_APPLIED. -/
def execUndoJournalApplied (v : VDev) (q : QId) (s : State) : Out := runMem (doUndo v.val q.val) s

/-- A replay-class event ends the current attempt (R415, R416): the command is placed again, and after the third such
attempt it fails with 0x0010. The replay avoids the cores of parity events. -/
def replayCmd (v q : Nat) (bad : List Nat) (w : Wk) : Wk :=
  match w.dev.cur? v q with
  | none => w
  | some c =>
    if !c.started || c.phase == .aborting || c.phase == .replaying || c.phase == .failing || c.phase == .refusing then w
    else
      let w := w.on fun d => (bump 2 d).onCur v q fun c =>
        { c with replays := c.replays + 1, avoid := c.avoid ++ bad, ran := c.ran ++ [c.cores] }
      if 3 ≤ c.replays + 1 then failCmd v q 0x10 Detail.none w else abandonCmd v q w

/-! ## The fence unit -/

/-- The hub that sends a fence operation, where one does. -/
def FSrc.hub? : FSrc → Option Nat
  | .cmdFail v _ _ _ => some (hubOf v)
  | .timeout v _ _ _ => some (hubOf v)
  | .signal v _ _ => some (hubOf v)
  | .wait v _ _ _ => some (hubOf v)
  | .admin v _ => some (hubOf v)
  | .dead v _ _ _ _ => some (hubOf v)
  | .remote _ _ => none
  | .nobody => none

/-- Whether a fence operation is on its way: a hub keeps at most 16 VC0 packets in flight, and later ones wait to be injected (R194). -/
def Dev.inFlight (d : Dev) (r : FReq) : Bool :=
  match r.src.hub? with
  | none => true
  | some h => ((d.fx.reqs.filter fun o => o.src.hub? == some h).take 16).any fun o => o.id == r.id

/-- Operations of one hub on one cell arrive in the order in which they were sent; one that fails a destroyed fence comes before those
sent after it (R215, R317). -/
def Dev.fenceAhead (d : Dev) (r : FReq) : Bool :=
  (d.fx.reqs.takeWhile fun o => o.id != r.id).any fun o => o.cell == r.cell && (o.src.hub? == r.src.hub? || o.src == .nobody)

/-- Take a fence operation that meets a test off its way. -/
def takeReq (id : Nat) (p : FOp → Bool) (d : Dev) : Option (FReq × Dev) :=
  match takeFirst (fun r => r.id == id && p r.op && d.inFlight r && !d.fenceAhead r) d.fx.reqs with
  | none => none
  | some (r, rest) => some (r, d.onFx fun x => { x with reqs := rest })

/-- An operation on a cell is over: the cell returns to FREE when nothing refers to it any more (R306). -/
def afterOp (k : Nat) (d : Dev) : Dev := releaseCell k d

/-- FENCE_SIGNAL (R215). -/
def execFenceSignal (f : FenceAt) (s : State) : Out :=
  runDev (fun _ d =>
    match takeReq f.id (fun o => match o with | .signal _ => true | _ => false) d with
    | some (⟨_, k, .signal v, src⟩, d) =>
      let (o, d) := storeOp k f.bad (commitSignal k v) d
      afterOp k (replyFence src o d)
    | _ => d) s

/-- FENCE_FAIL (R215). -/
def execFenceFail (f : FenceAt) (s : State) : Out :=
  runDev (fun _ d =>
    match takeReq f.id (fun o => match o with | .fail _ _ => true | _ => false) d with
    | some (⟨_, k, .fail code t, src⟩, d) =>
      let (o, d) := storeOp k f.bad (commitFail k code t) d
      afterOp k (replyFence src o d)
    | _ => d) s

/-- Registered waits that one fence unit holds (R216). -/
def waitRoom : Nat := 8192

/-- FENCE_WAIT (R216): evaluated at once, registered, or repeated later when the unit's store is full. -/
def doFenceWait (f : FenceAt) (d : Dev) : Dev :=
  match takeReq f.id (fun o => match o with | .wait _ => true | _ => false) d with
  | some (⟨rid, k, .wait t, src⟩, d) =>
    afterOp k (storeOp k f.bad (fun d => ((), match d.evalWait k t with
      | some e => noteWait src e d
      | none =>
        if waitRoom ≤ (d.fx.waits.filter fun w => cellDie w.cell == cellDie k).length then
          d.onFx fun x => { x with retry := x.retry ++ [⟨rid, k, .wait t, src⟩] }
        else d.onFx fun x => { x with waits := x.waits ++ [⟨k, t, src⟩] })) d).2
  | _ => d

/-- FENCE_WAIT. -/
def execFenceWait (f : FenceAt) (s : State) : Out := runDev (fun _ d => doFenceWait f d) s

/-- A READ of another package that is next at a cell is answered with its state, value and error code (R394). -/
def readHome (k : Nat) (d : Dev) : Dev :=
  match takeFirst (fun r : FReq => r.cell == k) d.fx.reqs with
  | some (⟨_, _, .read, .remote p id⟩, rest) =>
    let c := d.cell k
    let d := d.onFx fun x => { x with reqs := rest }
    if d.cellLost k then d.emit (.fenceCellOut p id 2 0 0x11) else d.emit (.fenceCellOut p id c.state c.value.toNat c.error.toNat)
  | _ => d

/-- FENCE_READ (R215): the cell is replied; nothing of it changes. -/
def execFenceRead (die : Die) (cell : CellAt) (s : State) : Out :=
  runDev (fun _ d =>
    let k := 1048576 * die.val + cell.cell.val
    readHome k ((storeOp k cell.bad (fun d => ((), d)) d).2.emit (.fenceCell die.val cell.cell.val (d.cellReply k)))) s

/-- FENCE_WAIT_RETRY_TIMER (R216): a wait that found the store full is sent again. -/
def execFenceWaitRetryTimer (id : Nat) (s : State) : Out :=
  runDev (fun _ d =>
    match takeFirst (fun r : FReq => r.id == id) d.fx.retry with
    | some (r, rest) => d.onFx fun x => { x with retry := rest, reqs := x.reqs ++ [r] }
    | none => d) s

end Sys2Proof.Machine
end

