-- ==== Sys2Proof/Machine/Regs.lean ====
section
/-! DEFINITION. Registers of BAR0 that act: doorbells (R266), completion heads (R268), vector masks (R363) and moderation
(R364), and the access gate of a function's BARs (R348, R465). -/

namespace Sys2Proof.Machine

open Sys2Proof

/-- A mailbox channel: 0 … 255 from virtual functions to the manager, 256 … 511 from the manager, 512 the notice
channel. -/
def Dev.mbxCh (d : Dev) (c : Nat) : Mbx := Tab.getD d.mbx c Mbx.reset
/-- Change a mailbox channel. -/
def Dev.onMbx (d : Dev) (c : Nat) (f : Mbx → Mbx) : Dev := { d with mbx := Tab.put d.mbx c (f (d.mbxCh c)) }

/-- The bytes of a request slot. -/
def Fn.reqSlot (x : Fn) (i : Nat) : List Byte := Tab.getD x.reqSlots i (List.replicate 256 0)

/-- Whether a function's BAR0 takes accesses: the manager function, or an enabled virtual function (R348). -/
def Dev.barOpen (d : Dev) (fn : Nat) : Bool := fn == mgr || (d.vd fn).enabled

/-- Whether a TDI takes an access of a BAR (R465): in CONFIG_LOCKED and RUN only one on the IDE stream bound at LOCK_INTERFACE; another
completes as Unsupported Request. -/
def Dev.barTakes (d : Dev) (fn : Nat) (ide : Option Nat) : Bool :=
  d.barOpen fn && (fn == mgr || match (d.fn fn).tdi with
    | .configLocked => ide == some (d.fn fn).tdiStream
    | .run => ide == some (d.fn fn).tdiStream
    | _ => true)

/-- Set bits of `GQI_ID_ERR` (Table 11-2): 1 BAD_DOORBELL, 2 NARROW_WRITE, 4 CQ_HEAD_RANGE. -/
def setErr (fn : Nat) (m : BitVec 32) (d : Dev) : Dev := d.onFn fn fun f => { f with err := f.err ||| m }

/-- A doorbell for queue q (R266). A queue that is FREE or not granted, or a tail not below S, sets BAD_DOORBELL. With
RETRY the backlog is retried (R279). A frozen virtual device's doorbells are recorded and not acted on (R365). -/
def ringDoorbell (v q w : Nat) (retry : Bool) (k : Wk) : Wk :=
  match k.dev.queue? v q with
  | none => k.on (setErr v 1)
  | some x =>
    if (k.dev.vd v).queueGrant ≤ q || x.S ≤ bits w 15 0 then k.on (setErr v 1)
    else
      let k := k.on fun d => d.setQueue v q { x with tail := bits w 15 0 }
      if retry && !(k.dev.vd v).frozen then retryQueue v q k else k

/-- A write into the doorbell array (R266). -/
def doDoorbell (v : VDev) (off : Nat) (bs : List Byte) (k : Wk) : Wk :=
  if !k.dev.barOpen v.val then k
  else if 0x2800 ≤ off || off + bs.length ≤ 0x2000 || bs.isEmpty then k
  else if bs.length = 8 && decide (0x2000 ≤ off) && off % 8 == 0 then
    ringDoorbell v.val ((off - 0x2000) / 8) (leNat bs) (bitAt (leNat bs) 16) k
  else k.on (setErr v.val 2)

/-- DOORBELL. -/
def execDoorbell (v : VDev) (off : Nat) (bs : List Byte) (s : State) : Out := runMem (doDoorbell v off bs) s

/-- DOORBELL_RETRY (R279): a doorbell of queue q with RETRY set. -/
def execDoorbellRetry (v : VDev) (q : QId) (w : BitVec 64) (s : State) : Out :=
  runMem (fun k => if k.dev.barOpen v.val then ringDoorbell v.val q.val w.toNat true k else k) s

/-- A write of `GQI_QS_CQ_HEAD` (R268, R279). -/
def doCqHead (v : VDev) (q : QId) (w : BitVec 32) (k : Wk) : Wk :=
  if !k.dev.barOpen v.val then k
  else match k.dev.queue? v.val q.val with
    | none => k
    | some x =>
      if x.C ≤ w.toNat then k.on (setErr v.val 4)
      else retryQueue v.val q.val (k.on fun d => d.setQueue v.val q.val { x with cqHead := w.toNat })

/-- CQ_HEAD_WRITE. -/
def execCqHeadWrite (v : VDev) (q : QId) (w : BitVec 32) (s : State) : Out := runMem (doCqHead v q w) s

/-- Send the messages of vectors that are pending and no longer masked (R363). -/
def releaseVecs (fn : Nat) (d : Dev) : Dev :=
  if (d.fn fn).fnMask then d
  else (List.range 64).foldl (fun d i =>
    let x := (d.fn fn).vec i
    if x.pend && !x.mask then
      (d.onFn fn fun f => { f with vecs := Tab.put f.vecs i { f.vec i with pend := false } }).emit (.msix fn i x.addr x.data)
    else d) d

/-- MSIX_VECTOR_CONTROL_WRITE (R363): a vector's Mask bit, or the Function Mask. -/
def execMsixVectorControlWrite (fn : FnId) (vec : Option (Fin 64)) (mask : Bool) (s : State) : Out :=
  runDev (fun _ d =>
    if !d.barOpen fn.val then d
    else releaseVecs fn.val (match vec with
      | some i => d.onFn fn.val fun f => { f with vecs := Tab.put f.vecs i.val { f.vec i.val with mask := mask } }
      | none => d.onFn fn.val fun f => { f with fnMask := mask })) s

/-- MSIX_MODERATION_TIMER (R364): the held events of a vector are sent as one message. -/
def execMsixModerationTimer (fn : FnId) (vec : Fin 64) (s : State) : Out :=
  runDev (fun _ d => if ((d.fn fn.val).vec vec.val).held = 0 then d else sendMsix fn.val vec.val d) s

end Sys2Proof.Machine
end

