-- ==== Sys2Proof/Machine/Admin.lean ====
section
/-! DEFINITION. The admin ring (R402 … R404, R527): taking requests, reading arguments, responses; NEGOTIATE (R401); the
head of the event ring (R406). -/

namespace Sys2Proof.Machine

open Sys2Proof

/-! ## Requests (Table 16-8) -/

/-- A request as firmware takes it: function, slot, flags, tag, argument bytes, where bulk results go. -/
structure AdReq where
  fn : Nat
  slot : Nat
  flags : Nat
  tag : BitVec 32
  args : List Byte
  result : Nat

/-- The operation code of a request slot. -/
def slotOp (bs : List Byte) : Nat := fieldLe bs 0 2

/-- Operations issued by virtual functions (Table 16-10). -/
def guestOps : List Nat :=
  [0x0001, 0x0101, 0x0102, 0x0201, 0x0202, 0x0210, 0x0211, 0x0212, 0x0213, 0x0214, 0x0215, 0x0216, 0x0220, 0x0230, 0x0240,
    0x0242, 0x0243, 0x0250, 0x0260, 0x0261]
/-- Operations issued by the manager (Table 16-10). -/
def managerOps : List Nat := [0x0001, 0x0301, 0x0302, 0x0310, 0x0311, 0x0401, 0x0402, 0x0403, 0x0404, 0x0405]

/-- The feature bit an operation needs (Table 16-5). -/
def opFeature (op : Nat) : Option Nat :=
  if op = 0x0260 then some 4 else if op = 0x0310 ∨ op = 0x0311 then some 8 else if 0x0401 ≤ op ∧ op ≤ 0x0405 then some 3 else none

/-- Whether a function's request is refused with UNKNOWN_OP (R401, R404). -/
def Dev.unknownOp (d : Dev) (fn op : Nat) : Bool :=
  !((if fn = mgr then managerOps else guestOps).contains op) ||
    (match opFeature op with | some b => !d.feature fn b | none => false)

/-- The slot that firmware takes next, if one is submitted and firmware serves the function. -/
def Dev.nextSlot (d : Dev) (fn : Nat) : Option (Nat × List Byte) :=
  let f := d.fn fn
  let h := bits f.adHead.toNat 4 0
  if !d.schedUp || !d.barOpen fn || (fn != mgr && (d.vd fn).inReset) || h == bits f.adTail.toNat 4 0 then none
  else some (h, f.reqSlot h)

/-- The slot at the head is taken. -/
def advanceHead (fn : Nat) (d : Dev) : Dev :=
  d.onFn fn fun f => { f with adHead := BitVec.ofNat 32 ((bits f.adHead.toNat 4 0 + 1) % 32), argBad := false }

/-- The refusal of a migration operation without its feature is told to the manager (R372). -/
def noteUnknown (fn : Nat) (bs : List Byte) (d : Dev) : Dev :=
  if fn = mgr ∧ 0x0401 ≤ slotOp bs ∧ slotOp bs ≤ 0x0405 then
    noteMigration ((bs.drop (if fieldLe bs 8 8 = 0 then 32 else 0)).headD 0).toNat (slotOp bs) stUnknown d
  else d

/-- Refuse the requests at the head whose code is unknown, not entitled or without its feature (R404). -/
def answerUnknown (fn : Nat) : Nat → Dev → Dev
  | 0, d => d
  | n + 1, d =>
    match d.nextSlot fn with
    | none => d
    | some (i, bs) =>
      if d.unknownOp fn (slotOp bs) then
        answerUnknown fn n (noteUnknown fn bs <| adRespond fn i (BitVec.ofNat 32 (fieldLe bs 4 4)) stUnknown 0 [] (advanceHead fn d))
      else d

/-- Requests are refused with STATE while the virtual device is frozen (R365) and while the device is quarantined (R475),
but for those that a row lets through. -/
def Dev.adminBlocked (d : Dev) (fn : Nat) (whileFrozen whileA2 : Bool) : Bool :=
  (fn != mgr && (d.vd fn).frozen && !whileFrozen) || (d.sec.level == 2 && !whileA2)

/-- What handling a request comes to: an answer, a deferred operation, or nothing yet. -/
inductive Ans where
  | done (status code : Nat) (result : List Byte)
  | later (op : DefOp)
  | wait

/-- A refusal. -/
def refuse (status : Nat) (w : Wk) : Ans × Wk := (.done status 0 [], w)
/-- A request performed. -/
def performed (result : List Byte) (w : Wk) : Ans × Wk := (.done stOk 0 result, w)

/-- The first status whose condition does not hold, in the order listed. -/
def firstStatus (cs : List (Bool × Nat)) : Option Nat := (cs.find? fun c => !c.1).map Prod.snd

/-- A host page that firmware needs for a request, without page requests (R403): ask for its translation or its line and
wait, or give up. -/
def hostForAdmin (fn : Nat) (write : Bool) (i : Nat) (w : Wk) : Option Wk :=
  if (w.dev.fn fn).argBad then none
  else match w.dev.atc? fn (i / 4096) with
  | none => some (w.on (askAts fn (i / 4096)))
  | some (r, wr) =>
    if write then (if wr then some w else none)
    else if r then some (w.on (askHostLine fn i (.fetch fn adminQueue) adminQueue 0)) else none

/-- The arguments of a request (R403): inline, or a block read through the function's translation. -/
inductive Args where
  | bytes (bs : List Byte)
  | field
  | failed (code : Nat)
  | wait

/-- `GQI_AS_CODE` of a block that cannot be read or a result that cannot be written (R403). -/
def accCode : Acc → Nat
  | .bad _ .poison => 0x12
  | _ => 3

/-- Read the arguments of a request. -/
def readArgs (fn : Nat) (bs : List Byte) (need : Nat) (w : Wk) : Args × Wk :=
  let a := fieldLe bs 8 8
  let n := fieldLe bs 0x10 4
  if n < need then (.field, w)
  else if a = 0 then (if 224 < n then .field else .bytes ((bs.drop 0x20).take n), w)
  else if fn = mgr || 65536 < n then (.field, w)
  else match readAs (hubEng fn) w fn needR a n with
    | .ok xs => (.bytes xs, w.on fun d => noteRead (hubEng fn) fn needR [(a, n)] (dropHostBuf fn d))
    | .error (.host _ i) =>
      match hostForAdmin fn false i w with
      | some w => (.wait, w)
      | none => (.failed 3, w.on (dropHostBuf fn))
    | .error e => (.failed (accCode e), w.on (dropHostBuf fn))

/-- How a row takes its requests: which slots, the flags it admits, the bytes of arguments it needs, whether it has a bulk
result, whether it is let through on a frozen virtual device and in quarantine. -/
structure AdRow where
  sel : List Byte → Bool
  flags : Nat
  need : Nat
  bulk : Bool
  whileFrozen : Bool
  whileA2 : Bool

/-- A row for one operation code. -/
def adRow (op need : Nat) : AdRow := ⟨fun bs => slotOp bs == op, 0, need, false, false, false⟩

/-- Finish a request: the response, or the deferred operation. That it was taken is journaled (R409); the horizon of a deferred one stands
with it. -/
def finish (r : AdReq) (a : Ans) (w : Wk) : Wk :=
  let took (d : Dev) : Dev := journal 1 [r.fn, r.slot, r.flags] (advanceHead r.fn d)
  match a with
  | .wait => w
  | .done st code res => w.on fun d => answerUnknown r.fn 32 (adRespond r.fn r.slot r.tag st code res (took d))
  | .later op => w.on fun d => answerUnknown r.fn 32 ((took d).onFn r.fn fun f =>
      { f with taken := Tab.put f.taken r.slot ⟨r.tag, op, d.hlc (fnHub r.fn)⟩ })

/-- Take the request at the head of a function's admin ring if it is one of a row's, and handle it (R403, R404, R527). A
refused request changes nothing. -/
def takeRequest (fn : Nat) (row : AdRow) (body : AdReq → Wk → Ans × Wk) (w : Wk) : Wk :=
  let w := w.on (answerUnknown fn 32)
  match w.dev.nextSlot fn with
  | none => w
  | some (i, bs) =>
    if !row.sel bs then w
    else
      let r (args : List Byte) : AdReq := ⟨fn, i, fieldLe bs 2 2, BitVec.ofNat 32 (fieldLe bs 4 4), args, fieldLe bs 0x18 8⟩
      let envelope := fieldLe bs 0x14 4 == 0 && (fieldLe bs 2 2 ||| row.flags) == row.flags && (row.bulk || fieldLe bs 0x18 8 == 0)
      if !envelope then finish (r []) (.done stField 0 []) w
      else match readArgs fn bs row.need w with
        | (.field, _) => finish (r []) (.done stField 0 []) w
        | (.wait, w) => w
        | (.failed code, w) => finish (r []) (.done stFailed code []) w
        | (.bytes xs, w) =>
          let (a, w') := body (r xs) w
          if w.dev.adminBlocked fn row.whileFrozen row.whileA2 then
            match a with
            | .done st _ _ => finish (r xs) (.done (if st = stField ∨ st = stNotHeld ∨ st = stEpoch then st else stState) 0 []) w
            | _ => finish (r xs) (.done stState 0 []) w
          else match a with
            | .done st code res =>
              if st = stOk ∨ st = stFailed then finish (r xs) (.done st code res) w' else finish (r xs) (.done st code res) w
            | a => finish (r xs) a w'

/-! ## Ring registers -/

/-- ADMIN_TAIL_WRITE (R403, Table 16-7): slots are submitted; the scheduler's event source fires (Table 16-14). -/
def doAdminTail (fn : Nat) (x : BitVec 32) (d : Dev) : Dev :=
  if !d.barOpen fn then d
  else answerUnknown fn 32 (raiseSrc d.schedHub fn (d.onFn fn fun f => { f with adTail := BitVec.ofNat 32 (bits x.toNat 4 0) }))

/-- ADMIN_TAIL_WRITE. -/
def execAdminTailWrite (fn : FnId) (w : BitVec 32) (s : State) : Out := runDev (fun _ d => doAdminTail fn.val w d) s

/-- A write of `GQI_EV_HEAD` (R406): entries are freed, and held events are posted in the order first raised. -/
def doEvHead (fn : Nat) (w : BitVec 32) (d : Dev) : Dev :=
  if !d.barOpen fn then d
  else
    let d := d.onFn fn fun f => { f with evHead := BitVec.ofNat 32 (bits w.toNat 7 0) }
    drainHeld fn (d.fn fn).evHeld.length d

/-- EV_HEAD_WRITE. -/
def execEvHeadWrite (fn : FnId) (w : BitVec 32) (s : State) : Out := runDev (fun _ d => doEvHead fn.val w d) s

/-! ## NEGOTIATE -/

/-- The feature bits that exist (Table 16-5). -/
def featureBits : BitVec 128 := 0x1FF

/-- The effective mask (R401). -/
def effectiveMask (d : Dev) (fn : Nat) (driver : BitVec 128) : BitVec 128 :=
  driver &&& d.fw.offered &&& featureBits &&& (if fn = mgr then featureBits else (d.fn mgr).feat)

/-- NEGOTIATE (R401): bits of `XLT_MODE` whose feature is now clear read 0. -/
def doNegotiate (r : AdReq) (w : Wk) : Ans × Wk :=
  if r.fn ≠ mgr && !(w.dev.vd r.fn).queues.isEmpty then refuse stState w
  else
    let m := effectiveMask w.dev r.fn (BitVec.ofNat 128 (fieldLe r.args 0 16))
    performed (natLe 16 m.toNat) (w.on fun d => d.onFn r.fn fun f => { f with
      feat := m
      xltMode := f.xltMode &&& BitVec.ofNat 32 ((if bitAt m.toNat 2 then 1 else 0) + (if bitAt m.toNat 7 then 2 else 0)) })

/-- NEGOTIATE. -/
def execNegotiate (fn : FnId) (s : State) : Out := runMem (takeRequest fn.val (adRow 0x0001 16) doNegotiate) s

end Sys2Proof.Machine
end

