-- ==== Sys2Proof/Machine/Translation.lean ====
section
/-! DEFINITION. Range translation (chapter Range translation): synchronisation of the mirror, walks and invalidation, moves,
the fault table, and host pages through ATS and PRI. -/

namespace Sys2Proof.Machine

open Sys2Proof

/-! ## The fault table: its slots (R251) -/

/-- Entries of the fault table. -/
def faultRoom : Nat := 4096

/-- The free fault-table slot of lowest number. -/
def freeFault (d : Dev) : Nat := ((List.range faultRoom).find? fun i => (Tab.get? d.xlt.faults i).isNone).getD 0

/-- Put an entry into a slot of the fault table; the change is journaled (R251, R409). -/
def putFault (slot : Nat) (e : FaultEnt) (d : Dev) : Dev :=
  journal 5 [slot, e.waiters.length, e.vdev, e.page % 2 ^ 32] (d.onXlt fun x => { x with faults := Tab.put x.faults slot e })

/-- Free the entries of the fault table that meet a test, each a change that is journaled; those whose FAULT is held unposted stay, with
no waiters (R406). -/
def freeFaults (p : Nat × FaultEnt → Bool) (d : Dev) : Dev :=
  let gone := d.xlt.faults.filter p
  let d := d.onXlt fun x => { x with
    faults := (x.faults.filter fun e => !p e || d.unposted e.1 e.2).map fun e => (e.1, if p e then { e.2 with waiters := [] } else e.2) }
  gone.foldl (fun d e => journal 5 [e.1, 0, e.2.vdev, e.2.page % 2 ^ 32] d) d

/-- The next entry of a new fault: the free slot of lowest number, and its use count. -/
def newFault (v page kind access sw queue ctx : Nat) (ws : List (Waiter × Nat)) (d : Dev) : Nat × FaultEnt × Dev :=
  let i := freeFault d
  let use := Tab.getD d.xlt.uses i 0
  let e : FaultEnt := ⟨v, page, kind, access, sw, queue, ctx, use, ws⟩
  (i, e, putFault i e (d.onXlt fun y => { y with uses := Tab.put y.uses i (use + 1) }))

/-- The kind of the entry that blocks a page of a move (Table 10-8 step 1). It is reported to nobody. -/
def blockKind : Nat := 0

/-- The pages of a move are marked blocked in the fault table, as far as it has room. DESIGN CHOICE (log entry 79): a page without an entry
is blocked all the same. -/
def blockPages (v : Nat) (ps : List Nat) (d : Dev) : Dev :=
  ps.foldl (fun d p => if faultRoom ≤ d.xlt.faults.length then d else (newFault v p blockKind 0 0 0 0 [] d).2.2) d

/-! ## Range entries (Table 10-1) and the rules of a table (R239) -/

/-- Decode a range entry. -/
def entryOf (bs : List Byte) : REntry :=
  let n := leNat bs
  ⟨bits n 55 16 * 65536, (bits n 95 64 + 1) * 65536, bits n 159 128 * 65536, bits n 195 192, bitAt n 196, bitAt n 197,
    bitAt n 198, bitAt n 199, bits n 209 200, bits n 255 224⟩

/-- The reserved bits of a range entry are 0. -/
def reservedZero (bs : List Byte) : Bool :=
  let n := leNat bs
  bits n 223 210 == 0 && bits n 191 160 == 0 && bits n 127 96 == 0 && bits n 63 56 == 0 && bits n 15 0 == 0

/-- Entries of a master array. -/
def entriesOf (bs : List Byte) : List (List Byte) := chunksOf 32 bs

/-- Rules 1 and 2 of R239: ascending, disjoint, below 2^56. -/
def tableOrdered : List REntry → Bool
  | [] => true
  | [e] => decide (e.start + e.len ≤ 2 ^ 56)
  | e :: f :: t => decide (e.start + e.len ≤ f.start) && decide (e.start + e.len ≤ 2 ^ 56) && tableOrdered (f :: t)

/-- Rule 3 and 4 of R239 for one entry. -/
def entryFieldOk (d : Dev) (v : Nat) (e : REntry) : Bool :=
  decide (1 ≤ e.res) && decide (e.res ≤ 4) && (e.key != 0) == (e.res == 1) && (!e.migrate || e.res == 2) &&
    (e.res == 1 || e.res == 2 || e.pbase == 0) &&
    (if e.res = 1 then
      let s := bits e.pbase 47 38
      let k := d.set s
      k.valid && k.vdev == v && decide (bits e.pbase 37 0 + e.len ≤ 2 ^ k.log2n * k.len * 65536)
    else if e.res = 2 then decide (e.pbase + e.len ≤ 2 ^ 48) else true)

/-- Rule 5 of R239: no two DEVICE entries map intersecting physical spans. -/
def tableAlias (t : List REntry) : Bool :=
  let ps := sortRanges ((t.filter fun e => e.res == 1).map fun e => (e.pbase, e.len))
  (ps.zip (ps.drop 1)).any fun (a, b) => decide (b.1 < a.1 + a.2)

/-! ## Completing a synchronisation -/

/-- `GQI` event SYNC_DONE. -/
def postSyncDone (v : Nat) (seq : BitVec 32) (status : Nat) (d : Dev) : Dev :=
  let d := d.onFn v fun f => { f with syncDone := BitVec.ofNat 64 (seq.toNat * 2 ^ 32 + status) }
  if bitAt (d.fn v).xltMode.toNat 1 then
    postEvent v 2 0 (natLe 4 seq.toNat ++ natLe 1 status ++ natLe 3 0 ++ natLe 4 (d.vd v).gen.toNat) d
  else d

/-- Send a walk of an access that waits on one (R247). -/
def sendWalk (v : Nat) (n : XNode) (va : Nat) (d : Dev) : Dev :=
  if d.xlt.walks.any fun w => w.vdev == v && w.node == n && w.va == va then d
  else d.onXlt fun x => { x with walks := x.walks ++ [⟨v, n, va, none⟩] }

/-- The node that translates for a core. -/
def coreNode (n : Nat) : XNode := (XEng.core n).node

/-- Core accesses of a virtual device that wait on a fault walk again. -/
def rewalkAll (v : Nat) (d : Dev) : Dev :=
  let rs := d.mc.reqs.filter fun r => r.vdev == v && r.stage == .fault
  let d := d.onMc fun m => { m with reqs := m.reqs.map fun r => if r.vdev == v && r.stage == .fault then { r with stage := .walk } else r }
  rs.foldl (fun d r => sendWalk v (coreNode r.core) r.va d) d

/-- A command that was switched out on a fault resumes (R254): where its core runs no other, it is the core's command
again, otherwise it shares issue. -/
def resumeCores (v : Nat) (d : Dev) : Dev :=
  let nos := (d.vd v).queues.filterMap fun (_, q) => q.cur.map Cmd.no
  d.onSched fun s => { s with cores := s.cores.map fun (n, c) =>
    (n, match c.switched with
      | some no => if !(nos.contains no) then c else if c.busy.isNone then { c with busy := some no, switched := none } else { c with shares := true }
      | none => c) }

/-- After every completed synchronisation, every fault-table entry of the virtual device is retried (R256), and the
completion backlogs (R279). -/
def retryFaults (v : Nat) (d : Dev) : Dev :=
  let d := (freeFaults (fun e => e.2.vdev == v) d).onXlt fun x => { x with
    batches := Tab.del x.batches v
    faultFull := x.faultFull.filter fun m => m.vdev != v }
  resumeCores v (rewalkAll v d)

/-- A synchronisation completes with a status; SYNC_BUSY is cleared (Table 10-5 step 7). -/
def completeSync (v status : Nat) (w : Wk) : Wk :=
  match (w.dev.vd v).sync with
  | none => w
  | some s =>
    (retryVd v (w.on fun d => retryFaults v (postSyncDone v s.seq status (d.onVd v fun x => { x with sync := none })))).on
      (settleFreeze v)

/-- The virtual-address intervals of the entries that differ between two tables. -/
def changedSpans (a b : List REntry) : List (Nat × Nat) :=
  ((a.filter fun e => !b.contains e) ++ (b.filter fun e => !a.contains e)).map fun e => (e.start, e.len)

/-- The inactive buffer becomes active (Table 10-5 steps 5 and 6): the generation rises, preload shadows of the virtual
device and images under changed entries go, and every node that holds entries of it gets an invalidation. DEDUCED (log entry 79): a node
with an answered walk on its way counts as holding the entry of the reply, for otherwise a stale entry could enter its caches (R247). -/
def activate (v : Nat) (s : Sync) (w : Wk) : Wk :=
  let x := w.dev.vd v
  let ch := changedSpans x.table s.next
  let nodes := ((w.dev.xlt.caches.filter fun c => c.2.vdev == v).map Prod.fst ++
    ((w.dev.xlt.buffers.filter fun c => c.2.vdev == v).map fun c => c.1.node) ++
    (w.dev.xlt.walks.filter fun k => k.vdev == v && k.reply.isSome).map Walk.node).eraseDups
  let nos := x.queues.flatMap fun q => q.2.cmds.map Cmd.no
  let w := w.on fun d =>
    let d := d.onVd v fun x => { x with
      table := s.next
      gen := x.gen + 1
      sync := some { s with step := .invalidating, changed := ch, sent := nodes, acks := [] } }
    let clusters := nodes.filterMap fun n => match n with
      | .cluster c => some c.val
      | .hub _ => none
    dropBinaries v ch (dropShadows (fun _ no => nos.contains no) (raiseClusters 3 clusters d))
  if nodes.isEmpty then completeSync v 0 w else w

/-- The pages of a move (R258), as page numbers. -/
def movePagesOf (f : Fn) : List Nat := (List.range f.movePages.toNat).map fun i => f.moveVa.toNat / 65536 + i

/-- Whether a page's pair of entries may be moved (R258). -/
def pageMoves (old new : List REntry) (page : Nat) : Bool :=
  match entryAt old (65536 * page), entryAt new (65536 * page) with
  | some a, some b =>
    a.r == b.r && a.w == b.w && a.x == b.x &&
      ((a.res == 2 && b.res == 1) || (a.res == 1 && b.res == 2) || (a.res == 3 && b.res == 1) ||
        (a.res == 1 && b.res == 1 &&
          (a.key != b.key || a.pbase + (65536 * page - a.start) != b.pbase + (65536 * page - b.start))))
  | _, _ => false

/-- Step 3 of Table 10-5: check the new table in the order of R244, then move or activate. `raw` are the entries read. -/
def checkSync (v : Nat) (raw : List (List Byte)) (s : Sync) (w : Wk) : Wk :=
  let x := w.dev.vd v
  let next := (x.table.take s.first ++ raw.map entryOf ++ x.table.drop (s.first + s.span)).take s.count
  if !tableOrdered next then completeSync v 1 w
  else if !(raw.all reservedZero && next.all (entryFieldOk w.dev v)) then completeSync v 2 w
  else if tableAlias next then completeSync v 4 w
  else if s.move && !(s.pages.all (pageMoves x.table next)) then completeSync v 6 w
  else
    let s := { s with next := next }
    if s.move && !s.pages.isEmpty then
      let hit (c : CEntry) : Bool := c.vdev == v && s.pages.any fun p => rangesMeet (c.e.start, c.e.len) (65536 * p, 65536)
      let drop (y : Xlt) : Xlt := { y with
        caches := y.caches.filter fun c => !hit c.2
        buffers := y.buffers.filter fun c => !hit c.2 }
      w.on fun d => (blockPages v s.pages (d.onXlt drop)).onVd v fun x => { x with sync := some { s with step := .copying, moveLeft := s.pages } }
    else activate v s w

/-- The host pages that hold the span of the master copy which a synchronisation reads. -/
def masterPages (d : Dev) (v : Nat) (s : Sync) : List Nat :=
  let a := (d.fn v).masterBase.toNat + 32 * s.first
  if s.span = 0 then [] else (List.range ((a + 32 * s.span - 1) / 4096 + 1 - a / 4096)).map fun i => a / 4096 + i

/-- The pages of the span that the hub holds no permission to read yet (R248). -/
def masterMissing (d : Dev) (v : Nat) (s : Sync) : List Nat :=
  (masterPages d v s).filter fun p => match d.atc? v p with
    | some (r, _) => !r
    | none => true

/-- Step 2 of Table 10-5: the hub reads the span through ATS, asking for pages it has no permission for (R250); a page that is refused
ends the synchronisation with READ. -/
def readMaster (v : Nat) (s : Sync) (w : Wk) : Wk :=
  let missing := masterMissing w.dev v s
  if missing.any fun p => w.dev.priRefused v p then completeSync v 5 w
  else if !missing.isEmpty then w.on fun d => missing.foldl (fun d p => askPage v p d) d
  else w.on fun d => d.emit (.masterRead v ((d.fn v).masterBase.toNat + 32 * s.first) (32 * s.span))

/-- A write of `XLT_SYNC_REQ` (R243, R244). A synchronisation that reads nothing copies from the active buffer at once, unless the mirror
is lost (R240). -/
def syncRequest (v : Nat) (req : BitVec 64) (w : Wk) : Wk :=
  let f := w.dev.fn v
  let x := w.dev.vd v
  let op := bits req.toNat 3 0
  let seq := BitVec.ofNat 32 (req.toNat / 2 ^ 32)
  if !w.dev.barOpen v then w
  else if x.sync.isSome then w.on fun d => d.onFn v fun f => { f with overrun := true }
  else if op ≠ 1 && op ≠ 2 then w.on (postSyncDone v seq 2)
  else
    let first := f.syncFirst.toNat
    let span := f.syncSpan.toNat
    let count := f.masterCount.toNat
    let s : Sync := ⟨seq, op == 2, .reading, first, span, count, if op = 2 then movePagesOf f else [], [], [], [], [], []⟩
    let w := w.on fun d => d.onVd v fun x => { x with sync := some s }
    if f.masterBase.toNat % 4096 ≠ 0 || 65536 < count || 65536 < span ||
        (op = 2 && (f.moveVa.toNat % 65536 ≠ 0 || f.movePages.toNat < 1 || 16 < f.movePages.toNat)) then completeSync v 2 w
    else if count < first + span || (x.table.length < first && x.table.length < count) ||
        (x.table.length < count && first + span < count) then completeSync v 3 w
    else if span = 0 && !x.mirrorLost then checkSync v [] s w
    else readMaster v s w

/-- XLT_SYNC (R243): a SYNC request is written to `XLT_SYNC_REQ`. -/
def execXltSync (v : VDev) (w : BitVec 64) (s : State) : Out := runMem (syncRequest v.val w) s

/-- XLT_MOVE_AND_SYNC (R258): a MOVE_AND_SYNC request is written to `XLT_SYNC_REQ`. -/
def execXltMoveAndSync (v : VDev) (w : BitVec 64) (s : State) : Out := runMem (syncRequest v.val w) s

/-- SYNC_MASTER_READ_DONE (Table 10-5 step 2): the hub has read the span of the master copy, or could not. It reads no page it has no
permission for, and the entries that are kept are copied once the mirror serves (R240). -/
def doMasterRead (v : Nat) (data : Option (List Byte)) (w : Wk) : Wk :=
  match (w.dev.vd v).sync with
  | none => w
  | some s =>
    if s.step != .reading then w
    else match data with
      | none => completeSync v 5 w
      | some bs => if !(masterMissing w.dev v s).isEmpty then readMaster v s w else if (w.dev.vd v).mirrorLost then w else checkSync v (entriesOf (sliceB bs 0 (32 * s.span))) s w

/-- SYNC_MASTER_READ_DONE. -/
def execSyncMasterReadDone (v : VDev) (data : Option (List Byte)) (s : State) : Out := runMem (doMasterRead v.val data) s

/-- Whether a walk of a node for a virtual device is on its way. -/
def Xlt.walking (x : Xlt) (v : Nat) (n : XNode) : Bool := x.walks.any fun w => w.vdev == v && w.node == n

/-- RANGE_INVALIDATION (R247): a cluster or hub drops the overlapping entries of an older generation from its second level and from
the range buffers of its engines, and acknowledges. What it has acknowledged is kept while a walk of it is on its way, whose
reply may be older still. -/
def execRangeInvalidation (v : VDev) (n : XNode) (s : State) : Out :=
  runDev (fun _ d =>
    match (d.vd v.val).sync with
    | none => d
    | some y =>
      if !y.sent.contains n then d
      else
        let g := (d.vd v.val).gen
        let old (m : XNode) (c : CEntry) : Bool := m == n && c.vdev == v.val && c.gen != g &&
          y.changed.any fun r => rangesMeet r (c.e.start, c.e.len)
        let d := d.onXlt fun x => { x with
          caches := x.caches.filter fun c => !old c.1 c.2
          buffers := x.buffers.filter fun c => !old c.1.node c.2
          acked := (x.acked.filter fun a => !(a.1 == n && a.2.1 == v.val && !x.walking v.val n)) ++
            y.changed.map fun r => (n, v.val, r.1, r.2, g) }
        d.onVd v.val fun x => { x with sync := x.sync.map fun y => { y with sent := y.sent.filter (· != n), acks := y.acks ++ [n] } }) s

/-- INVALIDATION_ACK (Table 10-5 step 7): with the last acknowledgement the synchronisation is complete. -/
def doInvAck (v : Nat) (n : XNode) (w : Wk) : Wk :=
  match (w.dev.vd v).sync with
  | none => w
  | some y =>
    if !y.acks.contains n then w
    else
      let acks := y.acks.filter (· != n)
      let w := w.on fun d => d.onVd v fun x => { x with sync := some { y with acks := acks } }
      if acks.isEmpty && y.sent.isEmpty && y.step == .invalidating then completeSync v 0 w else w

/-- INVALIDATION_ACK. -/
def execInvalidationAck (v : VDev) (n : XNode) (s : State) : Out := runMem (doInvAck v.val n) s

/-! ## Moves (Table 10-8) -/

/-- Bytes of an access. -/
def MReq.bytes (r : MReq) : Nat :=
  match r.kind with
  | .read n => n
  | .write bs => bs.length
  | .atomic (.int _ wide _) => if wide then 8 else 4
  | .atomic (.fp _ wide _) => if wide then 8 else 4
  | .atomic (.peat _) => 96

/-- Whether every access already under way to a page has been performed (step 2): those on their way to device memory or at the
host, and the lines that the hub reads there. -/
def pageQuiet (d : Dev) (v page : Nat) : Bool :=
  let io := match entryAt (d.vd v).table (65536 * page) with
    | some e => if e.res = 2 then (e.pbase + (65536 * page - e.start), 65536) else (0, 0)
    | none => (0, 0)
  !(d.mc.reqs.any fun r => r.vdev == v && (r.stage == .sent || r.stage == .host) && rangesMeet (r.va, r.bytes) (65536 * page, 65536)) &&
    !(d.mc.host.any fun r => r.fn == v && rangesMeet (r.iova, r.len) io)

/-- The host pages that the move of a page reads or writes through ATS (Table 10-8 step 3): number, and whether it is written. -/
def moveHostPages (d : Dev) (v page : Nat) (s : Sync) : List (Nat × Bool) :=
  let of (e : Option REntry) (wr : Bool) : List (Nat × Bool) := match e with
    | some e => if e.res = 2 then (List.range 16).map fun i => ((e.pbase + (65536 * page - e.start)) / 4096 + i, wr) else []
    | none => []
  of (entryAt (d.vd v).table (65536 * page)) false ++ of (entryAt s.next (65536 * page)) true

/-- The host pages of a move for which the hub holds no permission yet (R248, R250). -/
def moveMissing (d : Dev) (v page : Nat) (s : Sync) : List Nat :=
  ((moveHostPages d v page s).filter fun p => match d.atc? v p.1 with
    | some (r, w) => !(if p.2 then w else r)
    | none => true).map Prod.fst

/-- Copy one page between its old and new places. The host's bytes come with the step. -/
def copyPage (v page : Nat) (s : Sync) (hostOk : Bool) (hostData : List Byte) (w : Wk) : Except Nat Wk :=
  let va := 65536 * page
  match entryAt (w.dev.vd v).table va, entryAt s.next va with
  | some a, some b =>
    let src : Except Nat (List Byte) :=
      if a.res = 3 then .ok (List.replicate 65536 0)
      else if a.res = 2 then (if hostOk then .ok (sliceB hostData 0 65536) else .error 8)
      else match (parts 0 65536).mapM fun (o, n) => readPiece w v (a.pbase + (va - a.start) + o) a.key n with
        | .ok bs => .ok bs.flatten
        | .error _ => .error 7
    match src with
    | .error e => .error e
    | .ok bs =>
      if b.res = 2 then
        if hostOk then .ok (w.on fun d => hostStore v (b.pbase + (va - b.start)) bs d) else .error 8
      else (parts 0 65536).foldlM (fun w (o, n) =>
        match writePiece v (b.pbase + (va - b.start) + o) b.key (sliceB bs o n) none w with
        | .ok w => .ok w
        | .error _ => .error 7) w
  | _, _ => .error 6

/-- MOVE_PAGE_COPY_DONE (R258): the next page of the move is copied; after the last one the new table becomes active. Host pages
without permission are asked for first. A poisoned source or a host page that cannot be made present stops the move. -/
def doMoveCopy (v : Nat) (hostOk : Bool) (hostData : List Byte) (w : Wk) : Wk :=
  match (w.dev.vd v).sync with
  | none => w
  | some s =>
    match s.moveLeft with
    | [] => w
    | p :: rest =>
      let missing := moveMissing w.dev v p s
      if s.step != .copying || (w.dev.vd v).mirrorLost || !pageQuiet w.dev v p then w
      else if hostOk && missing.any fun n => w.dev.priRefused v n then completeSync v 8 w
      else if hostOk && !missing.isEmpty then w.on fun d => missing.foldl (fun d n => askPage v n d) d
      else match copyPage v p s hostOk hostData w with
        | .error e => completeSync v e w
        | .ok w =>
          let s := { s with moveLeft := rest }
          let w := w.on fun d => d.onVd v fun x => { x with sync := some s }
          if rest.isEmpty then activate v s w else w

/-- MOVE_PAGE_COPY_DONE. -/
def execMovePageCopyDone (v : VDev) (hostOk : Bool) (hostData : List Byte) (s : State) : Out :=
  runMem (doMoveCopy v.val hostOk hostData) s

/-! ## Walks (R246, R247) -/

/-- RANGE_WALK (R247): the mirror MC die searches the active buffer. Walks wait while the mirror is lost (R240). -/
def execRangeWalk (v : VDev) (n : XNode) (va : BitVec 64) (s : State) : Out :=
  runDev (fun _ d =>
    if (d.vd v.val).mirrorLost then d
    else
      let x := d.vd v.val
      let mine (w : Walk) : Bool := w.vdev == v.val && w.node == n && w.va == va.toNat && w.reply.isNone
      let found (w : Walk) : Walk := { w with reply := some (x.find va.toNat, x.gen) }
      d.onXlt fun y => { y with walks := updFirst mine found y.walks }) s

/-- What a core's access needs. -/
def MReq.need (r : MReq) : Need :=
  match r.kind with
  | .read _ => needR
  | .write _ => needW
  | .atomic _ => needRW

/-- The access bits of a fault record. -/
def MReq.accessBits (r : MReq) : Nat :=
  match r.kind with
  | .read _ => 1
  | .write _ => 2
  | .atomic _ => 8

/-- Change a memory request. -/
def onReq (id : Nat) (f : MReq → MReq) (d : Dev) : Dev :=
  d.onMc fun m => { m with reqs := m.reqs.map fun r => if r.id == id then f r else r }

/-- The response of a memory request goes to its core. -/
def respond (r : MReq) (data : List Byte) (d : Dev) : Dev :=
  d.onMc fun m => { m with reqs := m.reqs.filter fun x => x.id != r.id, resps := m.resps ++ [⟨r, data⟩] }

/-- Requests of one thread reach the home of a byte in program order: an older request of the same thread to a byte of
this one goes first (R166, R210). -/
def olderFirst (d : Dev) (r : MReq) : Bool :=
  d.mc.reqs.any fun o => decide (o.id < r.id) && o.cmd == r.cmd && rangesMeet (o.va, o.bytes) (r.va, r.bytes) &&
    (match o.dest, r.dest with
      | .load g l _ _, .load g' l' _ _ => g == g' && l == l'
      | .load g l _ _, .store g' l' => g == g' && l == l'
      | .store g l, .load g' l' _ _ => g == g' && l == l'
      | .store g l, .store g' l' => g == g' && l == l'
      | _, _ => false)

/-- A core's access to a host page (R248). An atomic on a host page has no home MC die. An older access of its thread to the same bytes
goes first (R166). -/
def hostAccessOnce (r : MReq) (iova : Nat) (w : Wk) : Wk :=
  let v := r.vdev
  let devq := ((w.dev.queue? v r.queue).map Queue.devq).getD 0
  let hold (access : Nat) : Wk :=
    match holdAccess (.core r.core) v (.access r.id) devq r.cmd access (.host r.va iova) w.dev with
    | (.waits, d) => { w with dev := onReq r.id (fun r => { r with stage := .host, iova := iova }) d }
    | (.fails va y, d) => failAccess v r.queue va y { w with dev := d }
  if olderFirst w.dev r then w.on (onReq r.id fun r => { r with stage := .host, iova := iova })
  else match r.kind with
  | .read n =>
    match hostBytes w.dev v iova n with
    | some bs => w.on (respond r bs)
    | none => hold 1
  | .write bs =>
    match w.dev.atc? v (iova / 4096) with
    | some (_, true) => w.on fun d => respond r [] (hostStore v iova bs d)
    | _ => hold 2
  | .atomic _ => failAccess v r.queue r.va (.home false) w

/-- A core's access to a host page, and then those of its thread that waited for it, in their order. -/
def hostAccess (r : MReq) (iova : Nat) (w : Wk) : Wk :=
  let w := hostAccessOnce r iova w
  if w.dev.mc.reqs.any fun x => x.id == r.id then w
  else (w.dev.mc.reqs.filter fun x => x.cmd == r.cmd && x.stage == .host && decide (r.id < x.id) &&
    rangesMeet (x.va, x.bytes) (r.va, r.bytes)).foldl (fun w x => hostAccessOnce x x.iova w) w

/-- Where the pieces of an access go on device memory: the spots, or the first piece that does not go there. -/
def spotsFor (d : Dev) (r : MReq) (t : List REntry) : List (Nat × Nat) → Except (Nat × Place) (List Spot)
  | [] => .ok []
  | p :: ps =>
    match translate { d.vd r.vdev with table := t, mirrorLost := false } r.need p.1 with
    | .device pa key => (spotsFor d r t ps).map fun l => spotOf d r.core r.vdev pa key :: l
    | y => .error (p.1, y)

/-- An access of a core goes on under the entries it found, of which the first has a generation (R238, Table 10-2). One to an MC die that
is lost fails at issue (R227). -/
def placeReq (r : MReq) (found : List REntry) (gen : BitVec 32) (w : Wk) : Wk :=
  let v := r.vdev
  match spotsFor w.dev r found (parts r.va r.bytes) with
  | .ok l =>
    if l.any fun p => (w.dev.die (p.chan / 32)).lost then failAccess v r.queue r.va .lost w
    else w.on (onReq r.id fun r => { r with stage := .sent, spots := l })
  | .error (_, .host i) => hostAccess r i w
  | .error (va, .bad (.fault k sw)) =>
    w.on fun d => raiseFault v va k sw r.accessBits gen (.access r.id) (onReq r.id (fun r => { r with stage := .fault }) d)
  | .error (va, .bad y) => failAccess v r.queue va y w
  | .error (va, .device _ _) => failAccess v r.queue va (.home false) w

/-- A new access of a core: its range buffer and its second level are searched, and a miss walks. -/
def startReq (r : MReq) (w : Wk) : Wk :=
  let e : XEng := .core r.core
  let near := w.dev.buffered e r.vdev ++ w.dev.secondLevel e.node r.vdev
  match centryAt near r.va with
  | some c =>
    if (w.dev.vd r.vdev).blocked (r.va / 65536) then w.on (sendWalk r.vdev e.node r.va)
    else placeReq r (c.e :: w.dev.xview e r.vdev) c.gen (w.on (useEntry e c))
  | none => w.on fun d => sendWalk r.vdev e.node r.va (countMiss e d)

/-- Whether the requester has acknowledged an invalidation of a newer generation for an interval that an entry overlaps (R247). -/
def walkStale (d : Dev) (v : Nat) (n : XNode) (e : REntry) (g : BitVec 32) : Bool :=
  d.xlt.acked.any fun (m, u, lo, len, ga) =>
    m == n && u == v && ga != g && decide ((ga - g).toNat < 2 ^ 31) && rangesMeet (lo, len) (e.start, e.len)

/-- WALK_REPLY (R247): the entry is installed in the second level and in the range buffers of the cores whose accesses waited for it,
and they go on; a reply that an acknowledged invalidation has overtaken is discarded, and the walk is made again. -/
def doWalkReply (v : Nat) (n : XNode) (va : Nat) (w : Wk) : Wk :=
  match takeFirst (fun x : Walk => x.vdev == v && x.node == n && x.va == va && x.reply.isSome) w.dev.xlt.walks with
  | none => w
  | some (k, rest) =>
    match k.reply with
    | none => w
    | some (e, g) =>
      let stale := match e with
        | some e => walkStale w.dev v n e g
        | none => false
      if stale then w.on fun d => d.onXlt fun x => { x with walks := rest ++ [{ k with reply := none }] }
      else
        let w := w.on fun d =>
          let d := d.onXlt fun x => { x with walks := rest }
          match e with
          | some e => installEntry n ⟨v, g, e⟩ d
          | none => d
        let mine := w.dev.mc.reqs.filter fun r =>
          r.vdev == v && r.stage == .walk && coreNode r.core == n &&
            (match e with
              | some e => decide (e.start ≤ r.va) && decide (r.va < e.start + e.len)
              | none => r.va == va)
        let got (r : MReq) (d : Dev) : Dev := match e with
          | some e => bufferPut (.core r.core) ⟨v, g, e⟩ d
          | none => d
        let view (w : Wk) (r : MReq) : List REntry := match e with
          | some e => e :: w.dev.xview (.core r.core) v
          | none => []
        mine.foldl (fun w r => placeReq r (view w r) g (w.on (got r))) w

/-- WALK_REPLY. -/
def execWalkReply (v : VDev) (n : XNode) (va : BitVec 64) (s : State) : Out := runMem (doWalkReply v.val n va.toNat) s

/-! ## The fault table (R251 … R256) -/

/-- The command a waiter belongs to: its queue and number. -/
def waiterCmd (d : Dev) : Waiter → Option (Nat × Nat × Nat)
  | .fetch _ _ => none
  | .cmd v q no => some (v, q, no)
  | .group v q no _ => some (v, q, no)
  | .access id => (d.mc.reqs.find? fun r => r.id == id).map fun r => (r.vdev, r.queue, r.cmd)

/-- The queue of a waiter. -/
def waiterQueue (d : Dev) : Waiter → Option (Nat × Nat)
  | .fetch v q => some (v, q)
  | y => (waiterCmd d y).map fun c => (c.1, c.2.1)

/-- A fault record (Table 10-7). -/
def faultRecord (slot batch : Nat) (e : FaultEnt) : List Byte :=
  natLe 32 (e.sw * 2 ^ 224 + faultId slot e.use * 2 ^ 192 + e.queue * 2 ^ 180 + e.ctx * 2 ^ 160 + e.vdev * 2 ^ 152 +
    e.kind * 2 ^ 148 + e.access * 2 ^ 144 + e.waiters.length % 2 ^ 16 * 2 ^ 128 + batch * 2 ^ 112 + e.page % 2 ^ 40 * 2 ^ 16)

/-- The cores on which groups of a waiting command wait: that of the access, or all of a built-in operation. A
kernel's image that faults holds none of its groups. -/
def waitingCores (d : Dev) : Waiter → List Nat
  | .fetch _ _ => []
  | .cmd v q no => match d.cur? v q with
    | some c => if c.no = no && c.phase == .running && c.kind != 2 then c.cores else []
    | none => []
  | .group _ _ _ n => [n]
  | .access id => ((d.mc.reqs.find? fun r => r.id == id).map fun r => r.core).toList

/-- Switch a waiting command out of its cores (R254): a core holds at most one switched-out command. -/
def switchOut (y : Waiter) (d : Dev) : Dev :=
  match waiterCmd d y with
  | none => d
  | some (_, _, no) => (waitingCores d y).foldl (fun d n =>
      let c := d.core n
      if c.busy == some no && c.switched.isNone then d.onCore n fun c => { c with busy := none, switched := some no }
      else if c.busy == some no && c.shares then d.onCore n fun c => { c with busy := c.switched, switched := some no, shares := false }
      else if c.switched == some no && c.shares then d.onCore n fun c => { c with shares := false }
      else d) d

/-- Close the batch of a virtual device (R255): its records are posted consecutively, followed by one interrupt. -/
def closeBatch (v : Nat) (d : Dev) : Dev :=
  match Tab.get? d.xlt.batches v with
  | none => d
  | some slots =>
    let live := slots.filterMap fun (i, use) => ((Tab.get? d.xlt.faults i).filter fun e => e.use == use && e.vdev == v).map fun e => (i, e)
    let bodies := live.zipIdx.map fun ((i, e), k) => (faultId i e.use, faultRecord i (live.length - 1 - k) e)
    postBatch v 1 bodies (d.onXlt fun x => { x with batches := Tab.del x.batches v })

/-- A new entry is reported, in a batch where GATHERED was set when its fault was raised (R254, R255). -/
def reportFault (slot : Nat) (e : FaultEnt) (gathered : Bool) (y : Waiter) (d : Dev) : Dev :=
  let f := d.fn e.vdev
  if gathered then
    let l := (Tab.get? d.xlt.batches e.vdev).getD []
    let limit := bits f.gatherLimit.toNat 31 16
    let d := d.onXlt fun x => { x with batches := Tab.put x.batches e.vdev (l ++ [(slot, e.use)]) }
    if limit ≤ l.length + 1 then closeBatch e.vdev d else d
  else switchOut y (postEvent e.vdev 1 (faultId slot e.use) (faultRecord slot 0 e) d)

/-- A fault is handled at the fault table (R251). One on a page that a move blocks joins the blocking entry (R258). -/
def enterFault (m : FaultMsg) (d : Dev) : Dev :=
  let x := d.vd m.vdev
  let ctx := ((waiterCmd d m.who).bind fun (v, q, _) => d.cur? v q).map Cmd.context
  let joins (i : Nat) (e : FaultEnt) (d : Dev) : Dev := putFault i { e with waiters := e.waiters ++ [(m.who, m.va)] } d
  if let some (i, e) := d.xlt.faults.find? fun e => e.2.vdev == m.vdev && e.2.page == pageOf m.va && e.2.kind == blockKind then joins i e d
  else if m.gen != x.gen || x.sync.isSome then
    match m.who with
    | .access id =>
      if x.sync.isSome then d
      else match d.mc.reqs.find? fun r => r.id == id with
        | some r => sendWalk m.vdev (coreNode r.core) r.va (onReq id (fun r => { r with stage := .walk }) d)
        | none => d
    | _ => d
  else match d.xlt.faults.find? fun e => e.2.vdev == m.vdev && e.2.page == pageOf m.va && e.2.kind == m.kind with
    | some (i, e) =>
      let d := joins i e d
      if m.gathered then d else switchOut m.who d
    | none =>
      if faultRoom ≤ d.xlt.faults.length then d.onXlt fun y => { y with faultFull := y.faultFull ++ [m] }
      else
        let q := ((waiterQueue d m.who).bind fun (v, q) => d.queue? v q).map Queue.devq
        let (i, e, d) := newFault m.vdev (pageOf m.va) m.kind m.access m.sw (q.getD 0) (ctx.getD 0) [(m.who, m.va)] d
        reportFault i e m.gathered m.who d

/-- A fault counts for its command's context (Table 12-2). -/
def countFault (m : FaultMsg) (d : Dev) : Dev :=
  match (waiterCmd d m.who).bind fun (v, q, _) => d.cur? v q with
  | some c => d.onCtx c.context fun x => { x with faults := x.faults + 1 }
  | none => d

/-- TRANSLATION_FAULT (R251): a fault reaches the fault table. -/
def execTranslationFault (id : Nat) (s : State) : Out :=
  runDev (fun _ d =>
    match takeFirst (fun m : FaultMsg => m.id == id) d.xlt.faultMsgs with
    | none => d
    | some (m, rest) => enterFault m (countFault m (d.onXlt fun x => { x with faultMsgs := rest }))) s

/-- FAULT_TABLE_RETRY_TIMER (R251): a fault that found the table full is offered again. -/
def execFaultTableRetryTimer (id : Nat) (s : State) : Out :=
  runDev (fun _ d =>
    match takeFirst (fun m : FaultMsg => m.id == id) d.xlt.faultFull with
    | none => d
    | some (m, rest) => enterFault m (d.onXlt fun x => { x with faultFull := rest })) s

/-- FAULT_BATCH_TIMER (R255): the time limit of an open batch has passed. -/
def execFaultBatchTimer (v : VDev) (s : State) : Out := runDev (fun _ d => closeBatch v.val d) s

/-- A read of the front end fails for good (R267, R274): a ring entry or chained descriptor, or a range list. -/
def failFetch (v q va : Nat) (d : Dev) : Dev :=
  match d.queue? v q with
  | none => d
  | some x =>
    let addr := match x.chainNext with | some c => c.addr | none => x.sqBase + 128 * x.sqHead
    if rangesMeet (addr, 128) (va / 64 * 64, 64) then (if x.chainNext.isSome then chainError v q d else fetchError v q d)
    else d.setQueue v q { x with rlistFail := 0x22 }

/-- A waiter fails with 0x0003. -/
def failWaiter (kind : Nat) (y : Waiter) (va : Nat) (w : Wk) : Wk :=
  match y with
  | .fetch v q => w.on (failFetch v q va)
  | _ =>
    match waiterCmd w.dev y with
    | none => w
    | some (v, q, no) =>
      match w.dev.cur? v q with
      | some c => if c.no = no then failCmd v q 3 (Detail.xlate va kind) w else w
      | none => w

/-- FAULT_RESP_FAIL (R256): a write of `XLT_FAULT_RESP` with FAIL and a live fault id fails every waiting command and frees
the entry. -/
def doFaultResp (v : Nat) (r : BitVec 64) (w : Wk) : Wk :=
  let id := r.toNat / 2 ^ 32
  let slot := bits id 11 0
  if !w.dev.barOpen v || !bitAt r.toNat 0 then w
  else match Tab.get? w.dev.xlt.faults slot with
    | none => w
    | some e =>
      if e.vdev ≠ v || faultId slot e.use ≠ id || e.kind = blockKind then w
      else
        let w := w.on (freeFaults fun x => x.1 == slot)
        e.waiters.foldl (fun w (y, va) => failWaiter e.kind y va w) w

/-- FAULT_RESP_FAIL. -/
def execFaultRespFail (v : VDev) (w : BitVec 64) (s : State) : Out := runMem (doFaultResp v.val w) s

/-! ## ATS and PRI (R248 … R250) -/

/-- ATS_INVALIDATION (R249): matching cache entries go; the completion is returned once the requests that used them have
completed. -/
def execAtsInvalidation (fn : FnId) (page count : Nat) (s : State) : Out :=
  runDev (fun _ d => flushAts (d.onXlt fun x => { x with
    atc := x.atc.filter fun e => !(e.1 == fn.val && decide (page ≤ e.2.1) && decide (e.2.1 < page + count))
    atsInval := x.atsInval ++ [(fn.val, page, count, (d.mc.host.filter fun r =>
      r.fn == fn.val && decide (page ≤ r.iova / 4096) && decide (r.iova / 4096 < page + count)).map HostReq.id)] })) s

/-- Waiters on a host page go on: core accesses are made again, records are written. -/
def resumePage (fn page : Nat) (w : Wk) : Wk :=
  let w := w.on fun d => d.onXlt fun x => { x with hostWait := x.hostWait.filter fun h => !(h.1 == fn && h.2.1 == page) }
  let rs := w.dev.mc.reqs.filter fun r => r.vdev == fn && r.stage == .host && r.iova / 4096 == page
  let w := rs.foldl (fun w r => hostAccess r r.iova w) w
  let w := match (w.dev.vd fn).sync with
    | some s => if s.step == SyncStep.reading && (masterPages w.dev fn s).contains page then readMaster fn s w else w
    | none => w
  ((w.dev.vd fn).queues.map Prod.fst).foldl (fun w q => resumeRetry fn q (flushRecWait fn q w)) w

/-- Every command waiting on a host page fails (R250), a synchronisation that reads the master copy there ends with READ, a move that needs it stops (R258), and records for it go to the backlog. -/
def failPage (fn page : Nat) (w : Wk) : Wk :=
  let hs := w.dev.xlt.hostWait.filter fun h => h.1 == fn && h.2.1 == page
  let w := w.on fun d => d.onXlt fun x => { x with hostWait := x.hostWait.filter fun h => !(h.1 == fn && h.2.1 == page) }
  let va (y : Waiter) : Nat := match y with
    | .access id => ((w.dev.mc.reqs.find? fun r => r.id == id).map MReq.va).getD 0
    | .cmd v _ _ => hostVa w.dev v page
    | .group v _ _ _ => hostVa w.dev v page
    | .fetch v _ => hostVa w.dev v page
  let w := hs.foldl (fun w h => failWaiter 5 h.2.2 (va h.2.2) w) w
  let w := match (w.dev.vd fn).sync with
    | some s =>
      if s.step == SyncStep.reading && (masterPages w.dev fn s).contains page then completeSync fn 5 w
      else if s.step == SyncStep.copying && s.pages.any fun p => (moveHostPages w.dev fn p s).any fun h => h.1 == page then completeSync fn 8 w
      else w
    | none => w
  ((w.dev.vd fn).queues.map Prod.fst).foldl (fun w q => w.on fun d => (failRecWait fn q d).onQueue fn q fun x => { x with retrying := false }) w
where
  /-- The virtual address that maps a host page. -/
  hostVa (d : Dev) (v page : Nat) : Nat :=
    match (d.vd v).table.find? fun e => e.res == 2 && decide (e.pbase ≤ 4096 * page) && decide (4096 * page < e.pbase + e.len) with
    | some e => e.start + (4096 * page - e.pbase)
    | none => 0

/-- Entries of a hub's address translation cache. -/
def atcRoom : Nat := 8192

/-- An entry enters the cache of its function's hub; the oldest of that hub makes room. -/
def atcPut (e : Nat × Nat × Bool × Bool) (l : List (Nat × Nat × Bool × Bool)) : List (Nat × Nat × Bool × Bool) :=
  let l := l.filter fun x => !(x.1 == e.1 && x.2.1 == e.2.1)
  let here (x : Nat × Nat × Bool × Bool) : Bool := hubOf x.1 == hubOf e.1
  (if atcRoom ≤ (l.filter here).length then ((takeFirst here l).map Prod.snd).getD l else l) ++ [e]

/-- ATS_TRANSLATION_COMPLETION (R248, R250): the host answers a translation request. A page without permission is asked for
through PRI, unless the function's page requests are off. -/
def doAtsDone (fn page : Nat) (r w : Bool) (k : Wk) : Wk :=
  if !k.dev.xlt.atsOut.contains (fn, page) then k
  else
    let k := k.on fun d => d.onXlt fun x => { x with
      atsOut := x.atsOut.filter (· != (fn, page))
      atc := if r || w then atcPut (fn, page, r, w) x.atc else x.atc.filter fun e => !(e.1 == fn && e.2.1 == page) }
    if r || w then resumePage fn page k
    else if k.dev.xlt.priOff.contains fn then failPage fn page k
    else k.on (askPri fn page)

/-- ATS_TRANSLATION_COMPLETION. -/
def execAtsTranslationCompletion (fn : FnId) (page : Nat) (r w : Bool) (s : State) : Out :=
  runMem (doAtsDone fn.val page r w) s

/-- Room for a page request of a function: the first that waited for it is issued. -/
def nextPri (fn : Nat) (d : Dev) : Dev :=
  match takeFirst (fun r : PageReq => r.fn == fn) d.xlt.priWait with
  | none => d
  | some (r, rest) => askPri fn r.page (d.onXlt fun x => { x with priWait := rest })

/-- PRI_RESPONSE (R250): on Success the waiters translate again; otherwise they fail, and after Response Failure the hub
issues no page request for the function, those that waited for room included. -/
def doPri (fn page : Nat) (r : PriResp) (w : Wk) : Wk :=
  if !(w.dev.xlt.pageReqs.any fun x => x.fn == fn && x.page == page) then w
  else
    let w := w.on fun d => d.onXlt fun x => { x with
      pageReqs := x.pageReqs.filter fun x => !(x.fn == fn && x.page == page)
      atc := x.atc.filter fun e => !(e.1 == fn && e.2.1 == page)
      priOff := if r = .responseFailure && !x.priOff.contains fn then x.priOff ++ [fn] else x.priOff }
    match r with
    | .success => w.on fun d => nextPri fn (askAts fn page d)
    | .invalidRequest => (failPage fn page w).on (nextPri fn)
    | .responseFailure =>
      let waiting := (w.dev.xlt.priWait.filter fun x => x.fn == fn).map PageReq.page
      let w := w.on fun d => d.onXlt fun x => { x with priWait := x.priWait.filter fun x => x.fn != fn }
      (page :: waiting).foldl (fun w p => failPage fn p w) w

/-- PRI_RESPONSE. -/
def execPriResponse (fn : FnId) (page : Nat) (r : PriResp) (s : State) : Out := runMem (doPri fn.val page r) s

/-- PRI_REENABLE (R250, R279): page requests may be issued again, and the backlogs are retried. -/
def execPriReenable (fn : FnId) (s : State) : Out :=
  runMem (fun w => retryVd fn.val (w.on fun d => d.onXlt fun x => { x with priOff := x.priOff.filter (· != fn.val) })) s

/-- A hub that a dredge holds defers the transfer of every command but the suspect that runs alone (R430). -/
def Dev.dmaBars (d : Dev) (r : HostReq) : Bool :=
  r.queue != adminQueue && d.dredgeBars (fun e => match e with | .dma h => h.val == hubOf r.vdev | _ => false) r.cmd

/-- HOST_READ_COMPLETION (R248): a line of a host page arrives; accesses that wait for it go on. -/
def doHostRead (id : Nat) (data : List Byte) (w : Wk) : Wk :=
  match takeFirst (fun r : HostReq => r.id == id) w.dev.mc.host with
  | none => w
  | some (r, rest) =>
    if w.dev.dmaBars r then w
    else
    let w := w.on fun d => flushAts (d.onMc fun m => { m with
      host := rest
      hostBuf := m.hostBuf ++ [(r.fn, r.iova, sliceB data 0 r.len)] })
    let rs := w.dev.mc.reqs.filter fun x => x.vdev == r.fn && x.stage == .host && decide (r.iova ≤ x.iova) && decide (x.iova < r.iova + r.len)
    rs.foldl (fun w x => hostAccess x x.iova w) w

/-- HOST_READ_COMPLETION. -/
def execHostReadCompletion (id : Nat) (data : List Byte) (s : State) : Out := runMem (doHostRead id data) s

/-- HOST_READ_ERROR (Table 17-1): poisoned data, Unsupported Request or a completion timeout. The transfer is made once
more; if that fails too, the command fails with 0x0012, and an admin request whose arguments lie there fails. -/
def doHostError (id : Nat) (w : Wk) : Wk :=
  match takeFirst (fun r : HostReq => r.id == id) w.dev.mc.host with
  | none => w
  | some (r, rest) =>
    if !r.retried then
      w.on fun d => (d.onMc fun m => { m with host := rest ++ [{ r with retried := true }] }).emit (.hostRead r.fn r.id r.iova r.len)
    else
      let w := w.on fun d => flushAts (d.onMc fun m => { m with host := rest })
      let hit (c : Cmd) : Bool := c.no == r.cmd
      if r.queue = adminQueue then w.on fun d => d.onFn r.fn fun f => { f with argBad := true }
      else match (w.dev.vd r.vdev).queues.find? fun q => (q.2.cur.map hit).getD false with
      | some (q, _) => failCmd r.vdev q 0x12 Detail.none w
      | none =>
        match (w.dev.vd r.vdev).queues.find? fun q => q.2.devq == r.queue with
        | some (q, x) =>
          let addr := match x.chainNext with | some c => c.addr | none => x.sqBase + 128 * x.sqHead
          let inDesc := match translate (w.dev.vd r.vdev) needR addr with
            | .host i => decide (r.iova < i + 128) && decide (i < r.iova + r.len)
            | _ => false
          w.on fun d =>
            if inDesc then (if x.chainNext.isSome then chainError r.vdev q d else fetchError r.vdev q d)
            else d.onQueue r.vdev q fun x => { x with rlistFail := 0x12 }
        | none => w

/-- HOST_READ_ERROR. -/
def execHostReadError (id : Nat) (s : State) : Out := runMem (doHostError id) s

/-- Where firmware puts a range-table mirror that was lost (R240): on a channel of the composition that serves, else on another.
DESIGN CHOICE: the first in number; the place is timing-dependent. -/
def mirrorHome (d : Dev) (v : Nat) : Nat :=
  let ok (c : Nat) : Bool := (d.chan c).serves && !(d.die (c / 32)).lost
  (((d.vd v).chans.find? ok).orElse fun _ => (List.range 1024).find? ok).getD (Config.mirrorChannel v)

end Sys2Proof.Machine
end

