-- ==== Sys2Proof/Machine/Kernel.lean ====
section
/-! DEFINITION. Running kernels, shared parts: a resident group and its lanes (R136 … R139, R161, R162), registers and
core store, writer tags and races (R169 … R173), memory requests of lanes. -/

namespace Sys2Proof.Machine

open Sys2Proof

/-! ## Groups -/

/-- A matrix engine with both sets empty. -/
def Mx.empty : Mx := ⟨[], [], [], []⟩

/-- A resident group of a running kernel, found by its core and its logical number. -/
structure KAt where
  no : Nat
  run : KRun
  grp : KGroup
  cmd : Cmd
  deriving DecidableEq, Repr

/-- The group with a logical number on a core, while its kernel runs: its command is the core's, or the one switched out
on it (R254). A group of a stopped kernel issues nothing (R173, R311). -/
def Dev.at? (d : Dev) (n g : Nat) : Option KAt :=
  d.kern.findSome? fun (no, r) =>
    match Tab.get? r.groups g, d.cur? r.vdev r.queue with
    | some x, some c =>
      if x.core == n && !r.stopped && c.no == no && c.phase == .running &&
          ((d.core n).busy == some no || (d.core n).switched == some no) then some ⟨no, r, x, c⟩
      else none
    | _, _ => none

/-- Replace the run of a kernel. -/
def Dev.setRun (d : Dev) (no : Nat) (r : KRun) : Dev := { d with kern := Tab.put d.kern no r }

/-- Change a group of a run. -/
def KRun.onG (g : Nat) (f : KGroup → KGroup) (r : KRun) : KRun :=
  match Tab.get? r.groups g with
  | some x => { r with groups := Tab.put r.groups g (f x) }
  | none => r

/-- Lanes of a mask. -/
def lanesOf (m : BitVec 32) : List Nat := (List.range 32).filter fun i => m.getLsbD i

/-- A mask with one lane. -/
def laneBit (i : Nat) : BitVec 32 := (1 : BitVec 32) <<< i

/-- Window size WS of a command's groups (R162). -/
def Cmd.ws (c : Cmd) : Nat := windowSize (groupsPerCore (hdrRegs c.hdr) (hdrGs c.hdr))

/-- The cohort number of a group (Table 7-2). -/
def Cmd.cohortOf (c : Cmd) (g : Nat) : Nat := g / max 1 (klCohort c.params)

/-- The logical thread number (Table 7-2). -/
def threadNo (g lane : Nat) : Nat := 32 * g + lane

/-! ## Registers and flags -/

/-- A register of a lane; one that nobody has written holds a timing-dependent value (R137), 0 where the sluice cleared it. -/
def KGroup.reg (x : KGroup) (lane r : Nat) : BitVec 32 := (Tab.get? x.regs (256 * lane + r)).getD
  (match x.fresh with | none => 0 | some k => Config.freeReg k lane r)

/-- A register pair, the low half first. -/
def KGroup.pair (x : KGroup) (lane r : Nat) : BitVec 64 := x.reg lane (r + 1) ++ x.reg lane r

/-- The operand of a number of bits in registers of a lane. -/
def KGroup.operand (x : KGroup) (lane r bits : Nat) : Nat :=
  if 32 < bits then (x.pair lane r).toNat else (x.reg lane r).toNat % 2 ^ bits

/-- Write consecutive registers of a lane. -/
def KGroup.setRegs (lane : Nat) : Nat → List (BitVec 32) → KGroup → KGroup
  | _, [], x => x
  | r, v :: vs, x => KGroup.setRegs lane (r + 1) vs { x with regs := Tab.put x.regs (256 * lane + r) v }

/-- The registers that hold a number of n bits: one up to 32 bits, else a pair, the low half first. -/
def regWords (bits v : Nat) : List (BitVec 32) :=
  if 32 < bits then [BitVec.ofNat 32 v, BitVec.ofNat 32 (v / 2 ^ 32)] else [BitVec.ofNat 32 v]

/-- Set flags of a lane (R139). -/
def KGroup.addFlags (lane : Nat) (f : FlagWord) (x : KGroup) : KGroup :=
  if f = 0 then x else { x with flags := Tab.put x.flags lane (Tab.getD x.flags lane 0 ||| f) }

/-- Registers that a lane waits for: loads and ordered operations in flight. -/
def pendingRegs (d : Dev) (a : KAt) (g lane : Nat) : List Nat :=
  let dest (m : MReq) : List Nat :=
    match m.dest with
    | .load g' l rd size => if m.cmd = a.no && g' = g && l = lane then (List.range (max 1 (size / 4))).map (rd + ·) else []
    | _ => []
  (d.mc.reqs.flatMap dest) ++ (d.mc.resps.flatMap fun p => dest p.req) ++
    (a.run.ordered.filter fun o => o.g == g && o.t == lane).flatMap fun o => [o.rd, o.rd + 1]

/-- The active lanes of an instruction: those of its mask that have not ended. It issues when none of them waits at a
barrier or for a register it uses; registers lie below REGS (R153). -/
def activeLanes (d : Dev) (a : KAt) (g : Nat) (mask : BitVec 32) (regs : List Nat) : Option (List Nat) :=
  let m := mask &&& ~~~ a.grp.ended
  if m == 0 || (m &&& (a.grp.atGroup ||| a.grp.atCohort)) != 0 || regs.any (fun r => decide (hdrRegs a.cmd.hdr ≤ r)) then none
  else
    let ls := lanesOf m
    if ls.any fun l => (pendingRegs d a g l).any fun r => regs.contains r then none else some ls

/-- An instruction that touches registers and flags alone: for each active lane, the destination registers' values and
flags (R138, R139). DEDUCED (log entry 74): the flags set in a thread are those that its own lane's operation raised. -/
def laneInstr (n g : Nat) (mask : BitVec 32) (uses : List Nat) (rd : Nat) (f : KAt → Nat → List (BitVec 32) × FlagWord)
    (d : Dev) : Dev :=
  match d.at? n g with
  | none => d
  | some a =>
    match activeLanes d a g mask uses with
    | none => d
    | some ls =>
      let step (x : KGroup) (l : Nat) : KGroup := let (ws, fl) := f a l; (KGroup.setRegs l rd ws x).addFlags l fl
      d.setRun a.no (a.run.onG g fun x => ls.foldl step x)

/-! ## Core store, writer tags and races -/

/-- A byte of a group's window; one that nobody has written holds a timing-dependent value (R137). -/
def KGroup.byte (x : KGroup) (off : Nat) : Byte := (Tab.get? x.store off).getD
  (match x.fresh with | none => 0 | some k => Config.freeStoreByte k off)

/-- Bytes of a group's window; at or above WS they read 0 (R164). -/
def KGroup.bytes (x : KGroup) (ws off n : Nat) : List Byte :=
  (List.range n).map fun i => if off + i < ws then x.byte (off + i) else 0

/-- A detected race: the address or core-store offset, and the two logical thread numbers (R173). -/
structure Race where
  cs : Bool
  addr : Nat
  t1 : Nat
  t2 : Nat
  deriving DecidableEq, Repr

/-- The tag of a line in the current barrier interval of its group; a line last written earlier counts as unwritten
(R170). -/
def KGroup.tagNow (x : KGroup) (line : Nat) : Tag :=
  match Tab.get? x.tags line with
  | some t => if t.c == x.c && t.b == x.b then t else ⟨x.c, x.b, none, 0, 0⟩
  | none => ⟨x.c, x.b, none, 0, 0⟩

/-- A mask of one byte of a line. -/
def byteBit (off : Nat) : BitVec 64 := (1 : BitVec 64) <<< (off % 64)

/-- The race that a thread's store of a byte meets, against the tag as it stood before the instruction (R171): the byte is
marked as written in the interval by exactly one other thread, or by a peer transfer, and takes a different value. -/
def storeRace (thread off : Nat) (b : Byte) (x : KGroup) : Option Race :=
  let t := x.tagNow (off / 64)
  let k := byteBit off
  let other := (Tab.get? x.lastBy off).getD thread
  if x.byte off != b && (((t.mask &&& k) != 0 && t.writer.isSome && t.writer != some thread) || (t.peer &&& k) != 0) then
    some ⟨true, off, min thread other, max thread other⟩
  else none

/-- A thread writes a byte of its window: a store, an atomic, or a transfer it issued; the line's tag records it (R170). -/
def storeByte (thread off : Nat) (b : Byte) (x : KGroup) : KGroup :=
  let t := x.tagNow (off / 64)
  let writer := if t.mask == 0 then some thread else if t.writer == some thread then some thread else none
  { x with
    store := Tab.put x.store off b
    tags := Tab.put x.tags (off / 64) { t with
      writer := writer
      mask := t.mask ||| byteBit off }
    lastBy := Tab.put x.lastBy off thread }

/-- A thread writes consecutive bytes of its window. -/
def storeBytes (thread off : Nat) (bs : List Byte) (x : KGroup) : KGroup :=
  bs.zipIdx.foldl (fun x b => storeByte thread (off + b.2) b.1 x) x

/-- A peer transfer writes a byte of the window of its receiving group. -/
def peerByte (thread off : Nat) (b : Byte) (x : KGroup) : KGroup × Option Race :=
  let t := x.tagNow (off / 64)
  let k := byteBit off
  let other := (Tab.get? x.lastBy off).getD thread
  let bad := x.byte off != b && (t.mask &&& k) != 0
  ({ x with
      store := Tab.put x.store off b
      tags := Tab.put x.tags (off / 64) { t with peer := t.peer ||| k }
      lastBy := Tab.put x.lastBy off thread },
    if bad then some ⟨true, off, min thread other, max thread other⟩ else none)

/-- The first of two races. -/
def firstRace (a b : Option Race) : Option Race := a.orElse fun _ => b

/-- One instruction stores a list of bytes, each by its thread: two lanes that store different values to one byte race, and each
byte is held against its tag as the instruction found it (R171). -/
def storeAll (ws : Nat) (l : List (Nat × Nat × Byte)) (x : KGroup) : KGroup × Option Race :=
  let clash := l.findSome? fun (t, o, b) =>
    (l.find? fun y => y.2.1 == o && y.2.2 != b && decide (o < ws)).map fun y => (⟨true, o, min t y.1, max t y.1⟩ : Race)
  let live := l.filter fun y => decide (y.2.1 < ws)
  (live.foldl (fun x y => storeByte y.1 y.2.1 y.2.2 x) x, firstRace clash (live.findSome? fun y => storeRace y.1 y.2.1 y.2.2 x))

/-! ## Watch mode (R165, R169, R172) -/

/-- One pair of barrier counts comes before another: fewer cohort barriers, or as many and fewer group barriers. -/
def earlier (c b c' b' : Nat) : Bool := decide (c < c') || (c == c' && decide (b < b'))

/-- Whether interval (c, b) of group g with barriers orders before interval (c', b') of group g' (links 2 and 3). -/
def barrierBefore (k : Cmd) (g c b g' c' b' : Nat) : Bool :=
  if g = g' then earlier c b c' b' else k.cohortOf g == k.cohortOf g' && decide (c < c')

/-- Access A, recorded before B, happens before B (R165). The accesses of one instruction of a thread are in order. The place of a transfer's
accesses is that of its issue. A peer
transfer's writes come before the receiving group's accesses after the first cohort barrier that the issuing group passes
(link 5), and by the next such barrier before those of every group of the cohort (link 3). -/
def happensBefore (k : Cmd) (r : KRun) (a b : WAcc) : Bool :=
  match a.mover with
  | none => (a.g == b.g && a.lane == b.lane && decide (a.n ≤ b.n)) || barrierBefore k a.g a.c a.b b.g b.c b.b
  | some id =>
    (match if a.kind == .store then a.peerTo else none with
      | some g => (b.g == g && decide (a.c < b.c)) || (k.cohortOf b.g == k.cohortOf g && decide (a.c + 1 < b.c))
      | none => false) ||
    match (Tab.get? r.groups a.g).bind fun x => x.seen.find? fun s => s.id == id with
    | none => false
    | some s => (b.g == a.g && b.lane == s.lane && decide (s.at_ ≤ b.n)) || barrierBefore k a.g s.c s.b b.g b.c b.b

/-- Two accesses to one byte conflict (R169). Ordered atomics are ordered with each other (R178). -/
def conflicts (a b : WAcc) : Bool :=
  match a.kind, b.kind with
  | .load, .load => false
  | .load, _ => true
  | _, .load => true
  | .store, .store => a.value != b.value
  | .store, .atomic _ => true
  | .atomic _, .store => true
  | .atomic i, .atomic j => i != j

/-- The location of an ordered atomic: whether it lies in the core store, its address, and its bytes. -/
def OrdOp.place? : OrdOp → Option (Bool × Nat × Nat)
  | .cas core wide addr _ _ => some (core, addr, if wide then 8 else 4)
  | .swap core wide addr _ => some (core, addr, if wide then 8 else 4)
  | .fetch core wide _ addr _ => some (core, addr, if wide then 8 else 4)
  | _ => none

/-- Whether a thread has an ordered atomic on bytes of a span that has not had its turn: its later accesses to them wait (R165 link 1). -/
def KRun.turnDue (r : KRun) (g lane : Nat) (core : Bool) (addr n : Nat) : Bool :=
  r.ordered.any fun o => o.g == g && o.t == lane && match o.op.place? with
    | some (k, a, m) => k == core && rangesMeet (a, m) (addr, n)
    | none => false

/-- Record an access in watch mode, and detect a race with an earlier one. Global bytes outside the range lists are not
recorded (R172). -/
def watch (k : Cmd) (a : WAcc) (r : KRun) : KRun × Option Race :=
  let inside := match a.loc with
    | .glob va => (k.ins ++ k.outs).any fun x => rangesMeet x (va, 1)
    | .store _ _ => true
  if !klWatch k.params || !inside then (r, none)
  else
    let hit := r.accesses.find? fun o => o.loc == a.loc && conflicts o a && !happensBefore k r o a
    ({ r with accesses := r.accesses ++ [a] },
      hit.map fun o =>
        let t1 := threadNo o.g o.lane
        let t2 := threadNo a.g a.lane
        match a.loc with
        | .glob va => ⟨false, va, min t1 t2, max t1 t2⟩
        | .store _ off => ⟨true, off, min t1 t2, max t1 t2⟩)

/-- Record a list of accesses. -/
def watchAll (k : Cmd) (l : List WAcc) (r : KRun) : KRun × Option Race :=
  l.foldl (fun (r, x) a => let (r, y) := watch k a r; (r, firstRace x y)) (r, none)

/-- The accesses of one instruction of a group, all at one place: lane, byte, kind, value. -/
def accessesOf (a : KAt) (g : Nat) (l : List (Nat × Loc × AccKind × Byte)) : List WAcc :=
  l.map fun (lane, loc, k, v) => ⟨a.run.nextAcc, loc, k, v, g, lane, a.grp.c, a.grp.b, none, none⟩

/-- Watch the accesses of one instruction and count its place. -/
def watchInstr (a : KAt) (g : Nat) (l : List (Nat × Loc × AccKind × Byte)) (r : KRun) : KRun × Option Race :=
  let (r, x) := watchAll a.cmd (accessesOf a g l) r
  ({ r with nextAcc := r.nextAcc + 1 }, x)

/-- A detected race stops the attempt and fails the command (R173). -/
def raceFail (no : Nat) (r : KRun) (x : Race) (w : Wk) : Wk :=
  failCmd r.vdev r.queue 0x21 ⟨x.addr, x.cs, false, x.t1, x.t2⟩ (w.on (stopRun no))

/-- An instruction has changed the run of its kernel, and may have met a race. -/
def putRun (no : Nat) (r : KRun) (x : Option Race) (w : Wk) : Wk :=
  let w := w.on fun d => d.setRun no r
  match x with
  | some x => raceFail no r x w
  | none => w

/-! ## Accesses -/

/-- Bytes of an access size (R164). -/
def accBytes : AccSize → Nat
  | .b1 => 1 | .b2 => 2 | .b4 => 4 | .b8 => 8 | .b16 => 16

/-- Registers that an access of n bytes fills. -/
def sizeRegs (n : Nat) : Nat := max 1 (n / 4)

/-- The registers of a value of n bytes from rd up. -/
def regsFrom (rd n : Nat) : List Nat := (List.range (sizeRegs n)).map (rd + ·)

/-- An address rounded down to a multiple, with INVALID where that changed it (R164). -/
def alignDown (a s : Nat) : Nat × FlagWord := (a / s * s, fIf (a % s != 0) fInvalid)

/-- Words of loaded bytes. -/
def wordsOf (bs : List Byte) : List (BitVec 32) :=
  (List.range (sizeRegs bs.length)).map fun i => BitVec.ofNat 32 (fieldLe bs (4 * i) 4)

/-- The bytes of registers of a lane. -/
def KGroup.regBytes (x : KGroup) (lane r n : Nat) : List Byte :=
  ((List.range (sizeRegs n)).flatMap fun i => natLe 4 (x.reg lane (r + i)).toNat).take n

/-- A core-store access of a lane: the rounded offset, whether it lies in the window, and its flags (R164). -/
def csOffset (c : Cmd) (x : KGroup) (lane ra s : Nat) : Nat × Bool × FlagWord :=
  let (o, f) := alignDown (x.reg lane ra).toNat s
  let ok := decide (o < c.ws)
  (o, ok, f ||| fIf (!ok) fInvalid)

/-- Bytes of an access as watched accesses. -/
def csAccess (g lane off : Nat) (k : AccKind) (bs : List Byte) : List (Nat × Loc × AccKind × Byte) :=
  bs.zipIdx.map fun (b, i) => (lane, .store g (off + i), k, b)

/-- Bytes of a global access as watched accesses. -/
def globAccess (lane va : Nat) (k : AccKind) (bs : List Byte) : List (Nat × Loc × AccKind × Byte) :=
  bs.zipIdx.map fun (b, i) => (lane, .glob (va + i), k, b)

/-- A lane's memory request begins its way. -/
def issueReq (a : KAt) (va : Nat) (kind : MKind) (dest : MDest) (w : Wk) : Wk :=
  let id := w.dev.mc.nextId
  let r : MReq := ⟨id, a.run.vdev, a.run.queue, a.no, a.grp.core, va, kind, dest, .walk, [], 0⟩
  startReq r (w.on fun d => d.onMc fun m => { m with reqs := m.reqs ++ [r], nextId := id + 1 })

/-- Requests and responses in flight of a group. -/
def MDest.group? : MDest → Option Nat
  | .load g _ _ _ => some g
  | .store g _ => some g
  | .none => Option.none

/-- Whether an access, a transfer or an ordered operation of a group is outstanding. -/
def outstanding (d : Dev) (no : Nat) (r : KRun) (g : Nat) : Bool :=
  (d.mc.reqs.any fun m => m.cmd == no && m.dest.group? == some g) ||
  (d.mc.resps.any fun p => p.req.cmd == no && p.req.dest.group? == some g) ||
  (r.ordered.any fun o => o.g == g) ||
  (match Tab.get? r.groups g with | some x => !x.movers.isEmpty | none => false)

/-! ## The end of groups, cohorts and kernels (R163) -/

/-- The groups of a cohort that are resident. -/
def KRun.cohort (r : KRun) (c : Cmd) (h : Nat) : List (Nat × KGroup) := r.groups.filter fun g => c.cohortOf g.1 == h

/-- Whether every lane of a group has ended. -/
def KGroup.allEnded (x : KGroup) : Bool := x.ended == BitVec.allOnes 32

/-- A cohort whose groups have all ended, with nothing outstanding, leaves its cores; its threads' flags go to the
command's flag word (R139). After the last cohort the kernel has executed. -/
def settleCohort (no h : Nat) (d : Dev) : Dev :=
  match Tab.get? d.kern no with
  | none => d
  | some r =>
    match d.cur? r.vdev r.queue with
    | none => d
    | some c =>
      let gs := r.cohort c h
      if c.no ≠ no || gs.isEmpty || !(gs.all fun g => g.2.allEnded && !outstanding d no r g.1) then d
      else
        let fl := orFlags (gs.flatMap fun g => g.2.flags.map Prod.snd)
        let cores := (c.cohorts.getD h [])
        let r := { r with
          groups := r.groups.filter fun g => c.cohortOf g.1 != h
          ended := r.ended + gs.length }
        let d := cores.foldl (fun d n => d.onCore n (Core.without no)) (d.setRun no r)
        -- the flags of an abandoned attempt are discarded (R64)
        if c.phase != .running then d
        else d.onCur r.vdev r.queue fun c => { c with
          flags := c.flags ||| fl
          phase := if r.ended == klGroups c.params then .executed else c.phase }

/-- Settle the cohort of a group. -/
def settleGroup (no g : Nat) (d : Dev) : Dev :=
  match Tab.get? d.kern no with
  | none => d
  | some r =>
    match d.cur? r.vdev r.queue with
    | none => d
    | some c => settleCohort no (c.cohortOf g) d

/-! ## Parity errors met by instructions (R146, R147) -/

/-- A parity error in a cluster's binary store: the image is dropped, to be loaded and validated again, which changes time only
(Table 17-1). -/
def imageError (k v : Nat) (c : Cmd) (d : Dev) : Dev :=
  raiseClusters 4 [k] (bump 1 (d.onSched fun s => { s with
    binaries := Tab.put s.binaries k ((Tab.getD s.binaries k []).filter fun b => b.overflow || !b.matches v c) }))

/-- An instruction's read met a parity error: the attempt is abandoned and replayed (R146, R147, R414). An offset of the core
store counts from the base of the group's window. -/
def coreError (a : KAt) (m : CoreMem) (w : Wk) : Wk :=
  let loc := match m with
    | .store off => a.grp.slot * a.cmd.ws + off
    | _ => coreMemPlace m
  if m = .image then w.on (imageError (a.grp.core / 68) a.run.vdev a.cmd)
  else replayCmd a.run.vdev a.run.queue [a.grp.core] (w.on (parityEvent a.grp.core loc))

/-- An instruction of a group: its effect, or the parity error that one of its reads meets. -/
def coreStep (n : CoreAt) (g : Nat) (f : Wk → Wk) (s : State) : Out :=
  match n.bad with
  | none => runMem f s
  | some (.line _ _) => runMem f s
  | some m => runMem (fun w => match w.dev.at? n.core.val g with
    | none => w
    | some a => coreError a m w) s

/-! ## Launch and residency -/

/-- KERNEL_LAUNCH (R160): the groups of a placed kernel's grid are to be made resident. -/
def doKernelLaunch (v q : Nat) (d : Dev) : Dev :=
  match d.cur? v q with
  | none => d
  | some c =>
    if c.kind ≠ 2 || c.phase != .running || (Tab.get? d.kern c.no).isSome then d
    else
      let cores := c.cohorts.flatten.eraseDups
      d.setRun c.no ⟨v, q, [], 0, 0, [], [], [], 0, false, cores.map fun n => (n, (d.core n).ctr), (d.hlc 0, d.hlc 1)⟩

/-- KERNEL_LAUNCH. -/
def execKernelLaunch (v : VDev) (q : QId) (s : State) : Out := runDev (fun _ d => doKernelLaunch v.val q.val d) s

/-- A group as it becomes resident: registers and window allocated, not cleared (R137). -/
def newGroup (core slot : Nat) (fresh : Option Nat) : KGroup where
  core := core
  slot := slot
  fresh := fresh
  regs := []
  flags := []
  ended := 0
  atGroup := 0
  atCohort := 0
  beyond := 0
  c := 0
  b := 0
  seqs := []
  store := []
  tags := []
  lastBy := []
  movers := []
  count := 0
  finished := []
  seen := []

/-- GROUP_RESIDENT (R163): the next cohort becomes resident as a whole on the cores that hold it, once its cluster has
its part of the command. -/
def doGroupResident (v q : Nat) (d : Dev) : Dev :=
  match d.cur? v q with
  | none => d
  | some c =>
    match Tab.get? d.kern c.no with
    | none => d
    | some r =>
      let size := max 1 (klCohort c.params)
      match c.cohorts[r.next / size]? with
      | none => d
      | some cores =>
        if c.phase != .running || r.stopped || klGroups c.params ≤ r.next || !(cores.all fun n => c.clusters.contains (n / 68)) then d
        else
          let count := min size (klGroups c.params - r.next)
          let per := max 1 (groupsPerCore (hdrRegs c.hdr) (hdrGs c.hdr))
          let new (i : Nat) : Nat × KGroup :=
            let n := cores.getD (i / per) 0
            (r.next + i, newGroup n (i % per) (if (d.core n).zeroed then none else some (d.draws + i)))
          let d' := cores.foldl (fun d n => d.onCore n fun k => { k with zeroed := false }) { d with draws := d.draws + count }
          d'.setRun c.no { r with
            groups := r.groups ++ (List.range count).map new
            next := r.next + count }

/-- GROUP_RESIDENT. -/
def execGroupResident (v : VDev) (q : QId) (s : State) : Out := runDev (fun _ d => doGroupResident v.val q.val d) s

end Sys2Proof.Machine
end

