-- ==== Sys2Proof/Machine/KernelMem.lean ====
section
/-! DEFINITION. Core-store and global accesses of core code (R164, R166, R171), order-free atomics (R174, R175, R88), their
responses, and the retirement and repair of channels (R222 … R225). -/

namespace Sys2Proof.Machine

open Sys2Proof

/-! ## Channels: counters, repair, retirement (R219 … R229) -/

/-- The virtual device that a channel is bound to. -/
def Dev.chanOwner (d : Dev) (c : Nat) : Option Nat := d.boundTo .chan c

/-- Channels that hold a member of a valid set, or a mirror of one. -/
def Dev.usedChan (d : Dev) (c : Nat) : Bool :=
  (d.mc.sets.any fun s => s.2.valid && s.2.members.any fun m => m.1 == c) ||
  d.vds.any fun v => v.2.mirrors.any fun m => m.2.contains c

/-- Whether a channel is bindable and bound to nothing. -/
def Dev.freeChan (d : Dev) (c : Nat) : Bool :=
  (d.chan c).state == .inService && (d.chanOwner c).isNone && !(d.die (c / 32)).lost &&
    !(d.sched.leaving.any fun u => u.kind == .chan && u.num == c) && !(d.mc.chans.any fun k => k.2.target == some c)

/-- The target of a retirement (Table 9-8 step 2): a free channel of the same composition, else of the package. DEDUCED: a partition
holds sets and no free channel, so a free one of its composition stands for one of the partition. -/
def retireTarget (c : Nat) (d : Dev) : Option Nat :=
  let own := match d.chanOwner c with
    | some v => ((d.vd v).chans.filter fun n => n != c && (d.chan n).state == .inService && !d.usedChan n &&
        !(d.mc.chans.any fun k => k.2.target == some n))
    | none => []
  match own with
  | n :: _ => some n
  | [] => (List.range 1024).find? fun n => n != c && d.freeChan n

/-- Retirement of a channel begins (Table 9-8 steps 1 and 2). A free channel in service has its reserved region to copy; one that has
not come into service has nothing, and is out of service at once. -/
def retireChan (c cause : Nat) (d : Dev) : Dev :=
  let begin_ (d : Dev) : Dev := setCause .chan c cause (d.onChan c fun k => { k with state := .retiring, target := retireTarget c d, copied := false })
  match (d.chan c).state, d.chanOwner c with
  | .retiring, _ | .retired, _ | .unpowered, _ => d
  | _, some v => compositionChanged v 2 [(.chan, c)] (begin_ d)
  | .inService, none | .repairing, none => begin_ d
  | _, none => setCause .chan c cause (d.onChan c fun k => { k with state := .retired })

/-- Soft post-package repair of the row of a line (R222): the row is read through ECC, and requests to its bank wait until it is
written back. With no spare row left in its bank, the channel is retired (R223). -/
def softRepair (a : Nat) (d : Dev) : Dev :=
  let c := chanOf a
  let row := Config.rowOf c (a % chanBytes)
  let bank := Config.bankOf c row
  let used := Tab.getD (d.chan c).spareUsed bank 0
  if (d.chan c).repairs.contains row then d
  else if Config.spareRows c ≤ used then retireChan c 2 d
  else (countLines c 0 (Config.rowLines c) (countCh c 6 d)).onChan c fun k => { k with
    state := if k.state == .inService then .repairing else k.state
    repairs := k.repairs ++ [row]
    softRows := k.softRows ++ [row]
    spareUsed := Tab.put k.spareUsed bank (used + 1)
    fixes := k.fixes.filter fun f => f.1 != row }

/-- The hub in whose count the events of an MC die are timed. DESIGN CHOICE: that of the cluster beside it. -/
def dieHub (k : Nat) : Nat := coreHub (68 * k)

/-- A read was corrected by the stack (R219, R222): two corrections in a row of the stack within 24 hours, on two lines or
twice on one, call for soft repair. -/
def correctedRead (a : Nat) (d : Dev) : Dev :=
  let c := chanOf a
  let now := d.hlc (dieHub (c / 32))
  let row := Config.rowOf c (a % chanBytes)
  let again := (d.chan c).fixes.any fun f => f.1 == row && lastDay now f.2.2
  let d := (countCh c 3 d).onChan c fun k =>
    { k with fixes := (k.fixes.filter fun f => lastDay now f.2.2) ++ [(row, lineOf a, now)] }
  if again then softRepair a d else d

/-- Entries of a channel's poison list (R220). -/
def poisonRoom : Nat := 4096

/-- A line is poisoned (R220): its row is repaired, and a channel whose list fills is retired. -/
def poisonLine (a : Nat) (d : Dev) : Dev :=
  let c := chanOf a
  if poisoned d a then d
  else
    let d := softRepair a (flipPoison a (countCh c 5 d))
    if !(d.chan c).lost && decide (poisonRoom ≤ (d.chan c).poison.length) then retireChan c 2 d else d

/-- Both reads of a line have failed (R219): the third such round within 24 hours retires the channel (R224). -/
def failedRound (a : Nat) (d : Dev) : Dev :=
  let c := chanOf a
  let now := d.hlc (dieHub (c / 32))
  let rs := (d.chan c).rounds.filter (lastDay now) ++ [now]
  let d := (countCh c 4 d).onChan c fun k => { k with rounds := rs }
  if 3 ≤ rs.length then retireChan c 2 d else d

/-- A line is read at its home (R211, R213, R219): from the memory-side cache, or from the stack with what that meets. The answer says
whether its bytes are there. A line bad once is read again; bad twice, it is served from a mirror that holds it and rewritten (R428), else
poisoned (R220). -/
def meetLine (v key s j a : Nat) (f : ReadFault) (d : Dev) : Bool × Dev :=
  if f == .cacheParity then (true, readLine v key a (cacheDrop (chanOf a / 32) (fun l => l == lineOf a) d))
  else if d.cacheHit v key a then (true, readLine v key a d)
  else
    let d := readLine v key a d
    match f with
    | .corrected => (true, correctedRead a d)
    | .badOnce => (true, countCh (chanOf a) 0 (countCh (chanOf a) 4 d))
    | .badTwice =>
      let d := failedRound a (countCh (chanOf a) 0 d)
      match mirrorOf d v s j a with
      | some x => if poisoned d x then (false, poisonLine a d) else (true, countCh (chanOf a) 1 (countCh (chanOf x) 0 d))
      | none => (false, poisonLine a d)
    | _ => (true, d)

/-! ## Atomics -/

/-- The value an integer atomic leaves (R175). -/
def intAtomic (op : IntAtomic) (bits : Nat) (old v : Nat) : Nat :=
  let s (x : Nat) : Int := toSigned bits x
  match op with
  | .add => (old + v) % 2 ^ bits
  | .and => old &&& v
  | .or => old ||| v
  | .xor => old ^^^ v
  | .minS => if s v < s old then v else old
  | .maxS => if s old < s v then v else old
  | .minU => min old v
  | .maxU => max old v

/-- The pattern a floating-point minimum or maximum leaves (R98, R175). -/
def fpExtreme (isMax wide : Bool) (old v : Nat) : Nat :=
  let f : Fmt := if wide then .fp64 else .fp32
  let (x, i, _) := extreme isMax [(decodeElem f old, false), (decodeElem f v, false)]
  (castElem f .rne 0 i x).1

/-- The bytes an order-free atomic leaves. -/
def atomicBytes (op : AtOp) (old : List Byte) : List Byte :=
  match op with
  | .int o wide v => natLe (if wide then 8 else 4) (intAtomic o (if wide then 64 else 32) (leNat old) (v.toNat % 2 ^ (if wide then 64 else 32)))
  | .fp m wide v => natLe (if wide then 8 else 4) (fpExtreme m wide (leNat old) (v.toNat % 2 ^ (if wide then 64 else 32)))
  | .peat p => peatBytes (peatAdd (peatOfBytes old) p)

/-! ## Responses -/

/-- Take a response to a request that meets a test. -/
def takeResp (id : Nat) (p : MKind → Bool) (d : Dev) : Option (MResp × Dev) :=
  match takeFirst (fun x : MResp => x.req.id == id && p x.req.kind) d.mc.resps with
  | none => none
  | some (x, rest) => some (x, d.onMc fun m => { m with resps := rest })

/-- The group of a response hears of it: its cohort may have nothing outstanding any more. -/
def hearResp (x : MResp) (d : Dev) : Dev :=
  match x.req.dest.group? with
  | some g => settleGroup x.req.cmd g d
  | none => d

/-- READ_DATA (R166): read data arrives at the core and fills the lane's registers. -/
def doReadData (id : Nat) (d : Dev) : Dev :=
  match takeResp id (fun k => match k with | .read _ => true | _ => false) d with
  | none => d
  | some (x, d) =>
    match x.req.dest, Tab.get? d.kern x.req.cmd with
    | .load g l rd _, some r => hearResp x (d.setRun x.req.cmd (r.onG g (KGroup.setRegs l rd (wordsOf x.data))))
    | _, _ => d

/-- READ_DATA. -/
def execReadData (id : Nat) (s : State) : Out := runDev (fun _ d => doReadData id d) s

/-- WRITE_ACK (R210): the acknowledgement of a write arrives. -/
def execWriteAck (id : Nat) (s : State) : Out :=
  runDev (fun _ d => match takeResp id (fun k => match k with | .write _ => true | _ => false) d with
    | some (x, d) => hearResp x d
    | none => d) s

/-- ATOMIC_ACK (R210): the acknowledgement of an atomic arrives. -/
def execAtomicAck (id : Nat) (s : State) : Out :=
  runDev (fun _ d => match takeResp id (fun k => match k with | .atomic _ => true | _ => false) d with
    | some (x, d) => hearResp x d
    | none => d) s

/-! ## Core store -/

/-- CORE_STORE_LOAD (R164, R166): each lane loads from its group's window; at or above WS it loads 0. A parity error on the
read fails the attempt (R146). -/
def doCsLoad (n g : Nat) (mask : BitVec 32) (size : AccSize) (rd ra : Nat) (w : Wk) : Wk :=
  match w.dev.at? n g with
  | none => w
  | some a =>
    let s := accBytes size
    match activeLanes w.dev a g mask (ra :: regsFrom rd s) with
    | none => w
    | some ls =>
      let loads := ls.map fun l =>
        let (o, _, f) := csOffset a.cmd a.grp l ra s
        (l, o, a.grp.bytes a.cmd.ws o s, f)
      if loads.any fun y => a.run.turnDue g y.1 true y.2.1 s then w else
      let step (x : KGroup) (y : Nat × Nat × List Byte × FlagWord) : KGroup :=
        (KGroup.setRegs y.1 rd (wordsOf y.2.2.1) x).addFlags y.1 y.2.2.2
      let r := a.run.onG g fun x => loads.foldl step x
      let (r, race) := watchInstr a g ((loads.filter fun y => decide (y.2.1 < a.cmd.ws)).flatMap fun y => csAccess g y.1 y.2.1 .load y.2.2.1) r
      putRun a.no r race w

/-- CORE_STORE_LOAD. -/
def execCoreStoreLoad (n : CoreAt) (g : Nat) (mask : BitVec 32) (size : AccSize) (rd ra : Nat) (parityBad : Bool) (s : State) : Out :=
  coreStep n g (fun w =>
    if parityBad then
      match w.dev.at? n.core.val g with
      | none => w
      | some a =>
        match activeLanes w.dev a g mask (ra :: regsFrom rd (accBytes size)) with
        | none => w
        | some ls => coreError a (.store (csOffset a.cmd a.grp (ls.headD 0) ra (accBytes size)).1) w
    else doCsLoad n.core.val g mask size rd ra w) s

/-- CORE_STORE_STORE (R164, R170, R171): each lane stores into its group's window; at or above WS it stores nothing. -/
def doCsStore (n g : Nat) (mask : BitVec 32) (size : AccSize) (ra rs : Nat) (w : Wk) : Wk :=
  match w.dev.at? n g with
  | none => w
  | some a =>
    let s := accBytes size
    match activeLanes w.dev a g mask (ra :: regsFrom rs s) with
    | none => w
    | some ls =>
      let stores := ls.map fun l =>
        let (o, _, f) := csOffset a.cmd a.grp l ra s
        (l, o, a.grp.regBytes l rs s, f)
      if stores.any fun y => a.run.turnDue g y.1 true y.2.1 s then w else
      let bytes := stores.flatMap fun y => y.2.2.1.zipIdx.map fun (b, i) => (threadNo g y.1, y.2.1 + i, b)
      let (x, race) := storeAll a.cmd.ws bytes a.grp
      let x := stores.foldl (fun x y => x.addFlags y.1 y.2.2.2) x
      let r := { a.run with groups := Tab.put a.run.groups g x }
      let (r, y) := watchInstr a g ((stores.filter fun y => decide (y.2.1 < a.cmd.ws)).flatMap fun y => csAccess g y.1 y.2.1 .store y.2.2.1) r
      putRun a.no r (firstRace race y) w

/-- CORE_STORE_STORE. -/
def execCoreStoreStore (n : CoreAt) (g : Nat) (mask : BitVec 32) (size : AccSize) (ra rs : Nat) (s : State) : Out :=
  coreStep n g (doCsStore n.core.val g mask size ra rs) s

/-! ## Global accesses -/

/-- GLOBAL_LOAD (R164, R166): each lane's load is translated and sent to its home. -/
def doGlobalLoad (n g : Nat) (mask : BitVec 32) (size : AccSize) (rd ra : Nat) (w : Wk) : Wk :=
  match w.dev.at? n g with
  | none => w
  | some a =>
    let s := accBytes size
    match activeLanes w.dev a g mask (ra :: (ra + 1) :: regsFrom rd s) with
    | none => w
    | some ls =>
      let loads := ls.map fun l => (l, alignDown (a.grp.pair l ra).toNat s)
      if loads.any fun y => a.run.turnDue g y.1 false y.2.1 s then w else
      let r := a.run.onG g fun x => loads.foldl (fun x y => x.addFlags y.1 y.2.2) x
      let (r, race) := watchInstr a g (loads.flatMap fun y => globAccess y.1 y.2.1 .load (List.replicate s 0)) r
      let w := putRun a.no r race w
      if race.isSome then w else loads.foldl (fun w y => issueReq a y.2.1 (.read s) (.load g y.1 rd s) w) w

/-- GLOBAL_LOAD. -/
def execGlobalLoad (n : CoreAt) (g : Nat) (mask : BitVec 32) (size : AccSize) (rd ra : Nat) (s : State) : Out :=
  coreStep n g (doGlobalLoad n.core.val g mask size rd ra) s

/-- GLOBAL_STORE (R164): each lane's store is translated and sent to its home. -/
def doGlobalStore (n g : Nat) (mask : BitVec 32) (size : AccSize) (ra rs : Nat) (w : Wk) : Wk :=
  match w.dev.at? n g with
  | none => w
  | some a =>
    let s := accBytes size
    match activeLanes w.dev a g mask (ra :: (ra + 1) :: regsFrom rs s) with
    | none => w
    | some ls =>
      let stores := ls.map fun l => (l, alignDown (a.grp.pair l ra).toNat s, a.grp.regBytes l rs s)
      if stores.any fun y => a.run.turnDue g y.1 false y.2.1.1 s then w else
      let r := a.run.onG g fun x => stores.foldl (fun x y => x.addFlags y.1 y.2.1.2) x
      let (r, race) := watchInstr a g (stores.flatMap fun y => globAccess y.1 y.2.1.1 .store y.2.2) r
      let w := putRun a.no r race w
      if race.isSome then w else stores.foldl (fun w y => issueReq a y.2.1.1 (.write y.2.2) (.store g y.1) w) w

/-- GLOBAL_STORE. -/
def execGlobalStore (n : CoreAt) (g : Nat) (mask : BitVec 32) (size : AccSize) (ra rs : Nat) (s : State) : Out :=
  coreStep n g (doGlobalStore n.core.val g mask size ra rs) s

/-! ## Order-free atomics -/

/-- A number for the kind of an order-free atomic; accesses of one kind do not race (R169, R175). Kind 0 is ordered. -/
def AtOp.kindNo : AtOp → Nat
  | .int op wide _ => 1 + 2 * (match op with
      | .add => 0 | .and => 1 | .or => 2 | .xor => 3 | .minS => 4 | .maxS => 5 | .minU => 6 | .maxU => 7) + (if wide then 1 else 0)
  | .fp m wide _ => 17 + (if m then 2 else 0) + (if wide then 1 else 0)
  | .peat _ => 21

/-- The width of an order-free atomic in bytes. -/
def AtOp.width : AtOp → Nat
  | .int _ wide _ => if wide then 8 else 4
  | .fp _ wide _ => if wide then 8 else 4
  | .peat _ => 96

/-- The unit an atomic's address is a multiple of: a peat word's is 32 (R68, R164). -/
def AtOp.align (o : AtOp) : Nat := match o with | .peat _ => 32 | _ => o.width

/-- An order-free atomic of each lane, in the core store or sent to its home (R174, R175). DESIGN CHOICE (log entry 75; R164 speaks of an
access at an offset at or above WS): an atomic in the core store whose bytes begin below WS and run past it stores nothing at all. -/
def doOrderFree (n g : Nat) (mask : BitVec 32) (core : Bool) (ra : Nat) (uses : List Nat)
    (op : KAt → Nat → AtOp × FlagWord) (reads : KAt → Nat → List (Nat × Loc × AccKind × Byte)) (w : Wk) : Wk :=
  match w.dev.at? n g with
  | none => w
  | some a =>
    match activeLanes w.dev a g mask ((if core then [ra] else [ra, ra + 1]) ++ uses) with
    | none => w
    | some ls =>
      let ops := ls.map fun l =>
        let (o, f) := op a l
        let (at_, f') := alignDown (if core then (a.grp.reg l ra).toNat else (a.grp.pair l ra).toNat) o.align
        let out := core && decide (a.cmd.ws < at_ + o.width)
        (l, o, at_, f ||| f' ||| fIf out fInvalid, out)
      if ops.any fun y => a.run.turnDue g y.1 core y.2.2.1 y.2.1.width then w else
      let flags (x : KGroup) : KGroup := ops.foldl (fun x y => x.addFlags y.1 y.2.2.2.1) x
      let live := ops.filter fun y => !y.2.2.2.2
      let acc := live.flatMap fun y =>
        let k : AccKind := .atomic y.2.1.kindNo
        if core then csAccess g y.1 y.2.2.1 k (List.replicate y.2.1.width 0) else globAccess y.1 y.2.2.1 k (List.replicate y.2.1.width 0)
      let perform (x : KGroup) (y : Nat × AtOp × Nat × FlagWord × Bool) : KGroup :=
        storeBytes (threadNo g y.1) y.2.2.1 (atomicBytes y.2.1 (x.bytes a.cmd.ws y.2.2.1 y.2.1.width)) x
      let r := a.run.onG g fun x => if core then live.foldl perform (flags x) else flags x
      let (r, race) := watchInstr a g (ls.flatMap (reads a) ++ acc) r
      let w := putRun a.no r race w
      if core || race.isSome then w else live.foldl (fun w y => issueReq a y.2.2.1 (.atomic y.2.1) (.store g y.1) w) w

/-- ATOMIC_INT (R175): integer add, and, or, xor, minimum and maximum. -/
def execAtomicInt (n : CoreAt) (g : Nat) (mask : BitVec 32) (op : IntAtomic) (wide core : Bool) (ra rs : Nat) (s : State) : Out :=
  coreStep n g (doOrderFree n.core.val g mask core ra (if wide then [rs, rs + 1] else [rs]) (fun a l =>
    (.int op wide (BitVec.ofNat 64 (a.grp.operand l rs (if wide then 64 else 32))), 0)) fun _ _ => []) s

/-- ATOMIC_FP_MINMAX (R98, R175): a signalling NaN operand sets INVALID in the issuing thread. DESIGN CHOICE (log entry 74; R45 and R175
do not say): a signalling NaN that the location already holds raises nothing; only the thread's own operand does. -/
def execAtomicFpMinmax (n : CoreAt) (g : Nat) (mask : BitVec 32) (isMax wide core : Bool) (ra rs : Nat) (s : State) : Out :=
  coreStep n g (doOrderFree n.core.val g mask core ra (if wide then [rs, rs + 1] else [rs]) (fun a l =>
    let v := a.grp.operand l rs (if wide then 64 else 32)
    (.fp isMax wide (BitVec.ofNat 64 v), fIf (decodeElem (if wide then .fp64 else .fp32) v).isSNan fInvalid)) fun _ _ => []) s

/-- Formats that a lane's registers hold: element formats that are neither block-scaled nor PEAT. -/
def fmtIsLane (f : Fmt) : Bool := !fmtIsMx f && f != .peat

/-- The operand of a peat-accumulate as a word, with its flags (R69 … R71, R86): the full word of a FULL fragment follows it
(R85); none for a corrupted fragment. DESIGN CHOICE: the word stands directly behind the fragment, whose ordinal is 0; the manual does
not place it. -/
def peatOperand (src : PeatSrc) (a : KAt) (l rs : Nat) : Option (Peat × FlagWord) :=
  match src with
  | .term f =>
    let (v, fl) := termOne (decodeElem f (a.grp.operand l rs (fmtBits f)))
    some (peatAddTerm Peat.zero v, fl)
  | .word =>
    let (o, f) := alignDown (a.grp.reg l rs).toNat 32
    some (peatOfBytes (a.grp.bytes a.cmd.ws o 96), f ||| fIf (decide (a.cmd.ws < o + 96)) fInvalid)
  | .fragment =>
    let (o, f) := alignDown (a.grp.reg l rs).toNat 32
    match fragDecode (BitVec.ofNat 256 (leNat (a.grp.bytes a.cmd.ws o 32))) with
    | .span p => some (p, f ||| fIf (decide (a.cmd.ws < o + 32)) fInvalid)
    | .full 0 => some (peatOfBytes (a.grp.bytes a.cmd.ws (o + 32) 96), f ||| fIf (decide (a.cmd.ws < o + 128)) fInvalid)
    | _ => none

/-- The bytes of the window that a peat-accumulate reads for its operand: a word, a fragment, or a FULL fragment with the word
behind it (R85). -/
def peatSpan (src : PeatSrc) (a : KAt) (l rs : Nat) : Nat × Nat :=
  let o := (alignDown (a.grp.reg l rs).toNat 32).1
  match src with
  | .term _ => (o, 0)
  | .word => (o, 96)
  | .fragment => (o, match fragDecode (BitVec.ofNat 256 (leNat (a.grp.bytes a.cmd.ws o 32))) with | .full _ => 128 | _ => 32)

/-- The reads of the operands of a peat-accumulate, as watched accesses (R172). -/
def peatLoads (src : PeatSrc) (a : KAt) (g rs l : Nat) : List (Nat × Loc × AccKind × Byte) :=
  let (o, n) := peatSpan src a l rs
  (csAccess g l o .load (a.grp.bytes a.cmd.ws o n)).filter fun y => match y.2.1 with
    | .store _ off => decide (off < a.cmd.ws)
    | _ => true

/-- ATOMIC_PEAT_ACCUMULATE (R71, R88, R175): a term, a word or a fragment is added to a stored word. A corrupted fragment
is replayed as a parity error is (R86). -/
def execAtomicPeatAccumulate (n : CoreAt) (g : Nat) (mask : BitVec 32) (src : PeatSrc) (core : Bool) (ra rs : Nat) (s : State) : Out :=
  coreStep n g (fun w =>
    let okFmt := match src with | .term f => fmtIsLane f && f != .fp64 | _ => true
    let uses := match src with | .term f => if 32 < fmtBits f then [rs, rs + 1] else [rs] | _ => [rs]
    match w.dev.at? n.core.val g with
    | none => w
    | some a =>
      match activeLanes w.dev a g mask ((if core then [ra] else [ra, ra + 1]) ++ uses) with
      | none => w
      | some ls =>
        if !okFmt then w
        else if ls.any fun l => (peatOperand src a l rs).isNone then
          replayCmd a.run.vdev a.run.queue [] w
        else doOrderFree n.core.val g mask core ra uses (fun a l =>
          let (p, f) := (peatOperand src a l rs).getD (Peat.zero, 0)
          (.peat p, f)) (fun a l => peatLoads src a g rs l) w) s
end Sys2Proof.Machine
end

