-- ==== Sys2Proof/Machine/Objects.lean ====
section
/-! DEFINITION. Admin operations on queues, contexts, fences and ranges (R264, R290, R292 … R315), the deferred operations
they leave, and the replies of the fence units (R284, R521). -/

namespace Sys2Proof.Machine

open Sys2Proof

/-! ## Queues (R264, R290) -/

/-- A fresh queue. -/
def mkQueue (uid devq : Nat) (cfg : List Byte) : Queue where
  uid := uid
  cfg := cfg
  state := .active
  cause := 0
  devq := devq
  sqHead := 0
  tail := 0
  cqHead := 0
  cqIndex := 0
  cqPhase := true
  backlog := []
  fetched := []
  cur := none
  nFetched := 0
  nDone := 0
  chainNext := none
  recWait := []
  retrying := false
  rlistFail := 0
  lostTo := 0
  doomed := []

/-- Every device queue number in use. -/
def Dev.devqs (d : Dev) : List Nat := d.vds.flatMap fun v => v.2.queues.map fun q => q.2.devq

/-- The smallest number from `lo` that a list does not hold. -/
def lowestFree (lo : Nat) (used : List Nat) : Nat :=
  ((List.range (used.length + 1)).find? fun i => !used.contains (lo + i)).getD 0 + lo

/-- The fields of a configuration block (Table 11-3). -/
def queueFieldsOk (cfg : List Byte) : Bool :=
  let b (i : Nat) : Nat := fieldLe cfg i 1
  let aligned (i : Nat) : Bool := fieldLe cfg i 8 % 4096 == 0 && decide (fieldLe cfg i 8 < 2 ^ 56)
  decide (fieldLe cfg 0 2 < 256) && decide (b 2 ≤ 1) && decide (b 3 ≤ 1) && decide (6 ≤ b 4) && decide (b 4 ≤ 16) &&
    decide (6 ≤ b 5) && decide (b 5 ≤ 16) && decide (b 6 < 64) && aligned 8 && aligned 0x10 && aligned 0x18 && fieldLe cfg 0x24 28 == 0

/-- The rings of a queue lie in ranges as R264 requires. -/
def ringsOk (t : List REntry) (x : Queue) : Bool :=
  spanIn t (isDeviceWith true false) x.sqBase (128 * x.S) &&
  spanIn t (fun e => (e.res == 1 && e.w) || (e.res == 2 && e.w && !e.migrate)) x.cqBase (32 * x.C) &&
  (x.auditBase == 0 || spanIn t (isDeviceWith false true) x.auditBase (1024 * x.S))

/-- CREATE_QUEUE (R264). The first best-effort queue of a partition takes the turn (R333). -/
def doCreateQueue (r : AdReq) (w : Wk) : Ans × Wk :=
  let cfg := r.args.take 64
  let vd := w.dev.vd r.fn
  let used := w.dev.devqs
  let x := mkQueue w.dev.sched.nextUid (lowestFree 0 used) cfg
  let q := fieldLe cfg 0 2
  match firstStatus [(queueFieldsOk cfg && decide (q < vd.queueGrant) && ringsOk vd.table x, stField),
      ((Tab.get? vd.parts x.part).isSome, stNotHeld), ((Tab.get? vd.queues q).isNone, stState),
      (decide (used.length < 4096), stNoRes)] with
  | some st => refuse st w
  | none => performed [] (w.on fun d =>
      let d := (d.onSched fun s => { s with nextUid := s.nextUid + 1 }).setQueue r.fn q x
      d.onVd r.fn fun y => { y with parts := y.parts.map fun (i, p) =>
        (i, if i = x.part ∧ x.be ∧ p.turn.isNone then { p with turn := some x.devq, turnStart := d.hlcOf r.fn } else p) })

/-- CREATE_QUEUE. -/
def execCreateQueue (v : VDev) (s : State) : Out := runMem (takeRequest v.val (adRow 0x0101 64) doCreateQueue) s

/-- READ_BACKLOG (R290): the oldest records leave the backlog, with phase 0, at the result address. -/
def doReadBacklog (r : AdReq) (w : Wk) : Ans × Wk :=
  let q := fieldLe r.args 0 2
  let n := fieldLe r.args 2 2
  if n = 0 || 256 < n || 256 ≤ q then refuse stField w
  else match w.dev.queue? r.fn q with
  | none => refuse stNotHeld w
  | some x =>
    let rs := x.backlog.take n
    let bs := rs.flatMap fun y => y.bytes false
    let give (w : Wk) : Ans × Wk := performed (natLe 2 rs.length)
      (w.on fun d => resumeQueue r.fn q (d.setQueue r.fn q { x with backlog := x.backlog.drop n }))
    let hub := hubEng r.fn
    let store (w : Wk) : Wk := (writeAs hub r.fn r.result bs none (w.on (useXlt hub r.fn [(r.result, bs.length)]))).1
    let seen := w.dev.seenBy hub r.fn
    match checkAs hub w.dev r.fn needW (parts r.result bs.length) with
    | none => give (store w)
    | some _ =>
      -- Host pages among the result's: each must be writable before anything is written.
      let bad := (parts r.result bs.length).filterMap fun p => match translate (seen.vd r.fn) needW p.1 with
        | .device _ _ => checkParts seen r.fn needW [p]
        | .host i => match w.dev.atc? r.fn (i / 4096) with
          | some (_, true) => none
          | _ => some (.host p.1 i)
        | .bad y => some (.bad p.1 y)
      match bad.find? fun e => match e with | .bad _ _ => true | .host _ _ => false with
      | some e => (.done stFailed (accCode e) [], w)
      | none => match bad with
        | [] => give (store w)
        | .host _ i :: _ => match hostForAdmin r.fn true i w with
          | some w => (.wait, w)
          | none => (.done stFailed 3 [], w)
        | e :: _ => (.done stFailed (accCode e) [], w)

/-- READ_BACKLOG. -/
def execReadBacklog (v : VDev) (s : State) : Out :=
  runMem (takeRequest v.val { adRow 0x0102 4 with bulk := true } doReadBacklog) s

/-! ## Horizons (R293) -/

/-- Ring entries submitted to a queue: those fetched, and those up to the tail. -/
def Queue.submitted (x : Queue) : Nat := x.nFetched + (x.tail + x.S - x.sqHead) % x.S

/-- The horizon of a request: on each queue, the entries submitted to it. -/
def horizonOf (x : Vd) : List (Nat × Nat) := x.queues.map fun q => (q.2.uid, q.2.submitted)

/-- Whether a command lies within a horizon on its queue; chained descriptors share the ordinal of their ring entry. -/
def inHorizon (h : List (Nat × Nat)) (uid ord : Nat) : Bool := h.any fun e => e.1 == uid && decide (ord ≤ e.2)

/-- Whether something within a horizon that a queue still holds may meet a test: entries not yet fetched and unread chains
count as meeting it. -/
def horizonHolds (h : List (Nat × Nat)) (p : Cmd → Bool) (x : Queue) : Bool :=
  match h.find? fun e => e.1 == x.uid with
  | none => false
  | some (_, n) =>
    decide (x.nFetched < n) || (match x.chainNext with | some c => decide (c.ord ≤ n) | none => false) ||
      x.cmds.any fun c => decide (c.ord ≤ n) && (p c || c.chainFlag)

/-! ## Stopping commands -/

/-- The hub sends FAIL(code, v) for a started command of a destruction (R309, R312): applied, it is aborted; signalled, it
has completed. -/
def killStarted (v q code : Nat) (w : Wk) : Wk :=
  match w.dev.cur? v q with
  | none => w
  | some c =>
    if c.failOut.isSome || (c.phase == .aborting && !c.thenReplay) || (c.phase == .replaying && !c.thenReplay) then w
    else match c.sig with
    | none => failCommitted v q code Detail.none w
    | some r => w.on fun d => sendFence r (.fail code c.sigValue) (.timeout v q c.no code)
        (d.onCur v q fun c => { c with failOut := some code })

/-- A current command that has not started fails with a code and is recorded with it. -/
def killWaiting (v q code : Nat) (w : Wk) : Wk :=
  match w.dev.cur? v q with
  | none => w
  | some c => if c.phase == .failing || c.phase == .refusing then w else failCmd v q code Detail.none w

/-- A command that has not started fails with its queue: its fence is failed, and its audit slot is zeroed (R312, R34). -/
def failUnstarted (v : Nat) (x : Queue) (c : Cmd) (w : Wk) : Wk := clearSlot v x c (w.on fun d => failEarly v x.uid 1 c (countCtx v c false d))

/-- The front end reads a submitted entry once, without waiting (R312 step 2): its signal fence is failed if it names one. -/
def readDoomed (v : Nat) (x : Queue) (k : Nat) (w : Wk) : Wk :=
  let i := (x.sqHead + k) % x.S
  match readAs (hubEng v) w v needR (x.sqBase + 128 * i) 128 with
  | .error _ => w
  | .ok desc =>
    let c := bindFences (w.dev.vd v) (mkCmd 0 (x.nFetched + k + 1) (x.sqBase + 128 * i) i 0 desc)
    failUnstarted v x c w

/-- A queue enters DESTROYING (R312 steps 1 and 2): the commands that have not started fail with 0x0001, the backlog is
discarded. -/
def destroyQueueNow (v q : Nat) (w : Wk) : Wk :=
  match w.dev.queue? v q with
  | none => w
  | some x =>
    let n := (x.tail + x.S - x.sqHead) % x.S
    let w := w.on fun d => dropWaiters (fun y => match y with | .fetch v' q' => v' == v && q' == q | _ => false) <|
      dropShadows (fun _ no => x.cmds.any fun c => c.no == no) d
    let w := w.on fun d => d.setQueue v q { x with
      state := .destroying
      backlog := []
      recWait := []
      retrying := false
      fetched := []
      chainNext := none
      sqHead := x.tail
      nFetched := x.nFetched + n }
    let w := x.fetched.foldl (fun w c => (failUnstarted v x c w).on (releaseRefs c)) w
    let w := (List.range n).foldl (fun w k => readDoomed v x k w) w
    match w.dev.cur? v q with
    | none => w
    | some c => if c.started then w else killWaiting v q 1 w

/-- DESTROY_QUEUE (R312). -/
def doDestroyQueue (r : AdReq) (w : Wk) : Ans × Wk :=
  let q := fieldLe r.args 0 2
  let now := bitAt r.flags 0
  if 256 ≤ q then refuse stField w
  else match w.dev.queue? r.fn q with
  | none => refuse stNotHeld w
  | some x =>
    if x.state = .destroying then refuse stState w
    else
      let w := destroyQueueNow r.fn q w
      let started := (w.dev.cur? r.fn q).any fun c => c.started
      (.later (.destroyQueue q now), if now && started then killStarted r.fn q 1 w else w)

/-- DESTROY_QUEUE. -/
def execDestroyQueue (v : VDev) (s : State) : Out :=
  runMem (takeRequest v.val { adRow 0x0220 2 with flags := 1 } doDestroyQueue) s

/-! ## Contexts (R294, R313) -/

/-- CREATE_CONTEXT (R294): the lowest number that is neither live nor being destroyed. -/
def doCreateContext (r : AdReq) (w : Wk) : Ans × Wk :=
  let live := w.dev.ctxs.filter fun c => !c.2.destroying
  let mine := live.filter fun c => c.2.vdev == r.fn
  let n := lowestFree 1 (w.dev.ctxs.map Prod.fst)
  if 65536 ≤ live.length || 4096 ≤ mine.length || 2 ^ 20 ≤ n then refuse stNoRes w
  else performed (natLe 4 n) (w.on fun d => { d with ctxs := Tab.put d.ctxs n ⟨r.fn, false, 0, 0, 0, 0, 0, 0⟩ })

/-- CREATE_CONTEXT. -/
def execCreateContext (v : VDev) (s : State) : Out := runMem (takeRequest v.val (adRow 0x0201 0) doCreateContext) s

/-- Fetch every entry that a queue has submitted and that can be read. -/
def fetchAll (v q : Nat) : Nat → Wk → Wk
  | 0, w => w
  | n + 1, w => fetchAll v q n (doFetch v q w)

/-- The front end reads what has been submitted to every queue of a virtual device. -/
def fetchVd (v : Nat) (w : Wk) : Wk :=
  (w.dev.vd v).queues.foldl (fun w (q, x) => fetchAll v q ((x.tail + x.S - x.sqHead) % x.S) w) w

/-- A queue's part of the destruction of a context: fetched commands of it fail at once and wait for their turn to be
recorded. -/
def doomContext (v q ctx : Nat) (w : Wk) : Wk :=
  match w.dev.queue? v q with
  | none => w
  | some x =>
    let hit (c : Cmd) : Bool := c.context == ctx && c.front.isNone && c.early != some 1 && c.early != some 0x70
    let w := (x.fetched.filter hit).foldl (fun w c => w.on (failEarly v x.uid 1 c)) w
    let w := w.on fun d => d.onQueue v q fun x =>
      { x with fetched := x.fetched.map fun c => if hit c then { c with early := some 1 } else c }
    match x.cur with
    | none => w
    | some c => if c.context == ctx && !c.started then killWaiting v q 1 w else w

/-- DESTROY_CONTEXT (R313). -/
def doDestroyContext (r : AdReq) (w : Wk) : Ans × Wk :=
  let ctx := fieldLe r.args 0 4
  let now := bitAt r.flags 0
  if ctx = 0 || 2 ^ 20 ≤ ctx then refuse stField w
  else match w.dev.ctx? ctx with
  | none => refuse stNotHeld w
  | some x =>
    if x.vdev ≠ r.fn then refuse stNotHeld w
    else if x.destroying then refuse stState w
    else
      let w := (fetchVd r.fn w).on fun d => d.onCtx ctx fun x => { x with destroying := true }
      let qs := (w.dev.vd r.fn).queues.map Prod.fst
      let w := qs.foldl (fun w q => doomContext r.fn q ctx w) w
      let nos := qs.flatMap fun q => (((w.dev.queue? r.fn q).map Queue.cmds).getD []).filterMap fun c => if c.context == ctx then some c.no else none
      let w := w.on (dropShadows fun _ no => nos.contains no)
      let started := (w.dev.vd r.fn).queues.filterMap fun (q, x) => match x.cur with
        | some c => if c.started && c.context == ctx then some (q, c.no) else none
        | none => none
      let w := if now then started.foldl (fun w s => killStarted r.fn s.1 1 w) w else w
      (.later (.destroyContext ctx now (started.map Prod.snd)), w)

/-- DESTROY_CONTEXT. -/
def execDestroyContext (v : VDev) (s : State) : Out :=
  runMem (takeRequest v.val { adRow 0x0202 4 with flags := 1 } doDestroyContext) s

/-! ## Grace and completion of destructions -/

/-- The grace of a destruction in ticks: 20 ms (R312). -/
def graceTicks : BitVec 64 := usTicks 20000

/-- DESTROY_GRACE_EXPIRY (R312 step 3): the grace of a taken destruction ends. -/
def doGrace (v slot : Nat) (w : Wk) : Wk :=
  match Tab.get? (w.dev.fn v).taken slot with
  | none => w
  | some t =>
    let mark (op : DefOp) (w : Wk) : Wk := w.on fun d => (d.advance (hubOf v) (t.since + graceTicks)).onFn v fun f =>
      { f with taken := Tab.put f.taken slot { t with op := op } }
    match t.op with
    | .destroyQueue q false => killStarted v q 1 (mark (.destroyQueue q true) w)
    | .destroyContext ctx false started =>
      (w.dev.vd v).queues.foldl (fun w (q, x) =>
        if x.cur.any fun c => started.contains c.no then killStarted v q 1 w else w) (mark (.destroyContext ctx true started) w)
    | _ => w

/-- DESTROY_GRACE_EXPIRY. -/
def execDestroyGraceExpiry (v : VDev) (slot : Fin 32) (s : State) : Out := runMem (doGrace v.val slot.val) s

/-- DESTROY_COMPLETE (R312 step 4, R313): every engine has acknowledged. Descriptors submitted before this point that name
a context being destroyed fail with 0x0001: the front end reads them first, and marks those that it cannot read yet. -/
def doDestroyComplete (v slot : Nat) (w : Wk) : Wk :=
  match Tab.get? (w.dev.fn v).taken slot with
  | none => w
  | some t =>
    match t.op with
    | .destroyQueue q _ =>
      if (w.dev.cur? v q).isSome then w
      else w.on fun d => adRespond v slot t.tag stOk 0 [] (freeQueue v q d)
    | .destroyContext ctx _ started =>
      if (w.dev.vd v).queues.any fun (_, x) => x.cur.any fun c => started.contains c.no then w
      else (fetchVd v w).on fun d =>
        let doom (x : Queue) : Queue := if x.unfetched.isEmpty && x.chainNext.isNone then x
          else { x with doomed := x.doomed ++ [(ctx, x.nFetched + x.unfetched.length)] }
        adRespond v slot t.tag stOk 0 [] ({ d with ctxs := Tab.del d.ctxs ctx }.onVd v fun y => { y with queues := y.queues.map fun (q, x) => (q, doom x) })
    | _ => w

/-- DESTROY_COMPLETE. -/
def execDestroyComplete (v : VDev) (slot : Fin 32) (s : State) : Out := runMem (doDestroyComplete v.val slot.val) s

/-! ## Fences (R298 … R306, R314) -/

/-- The MC dies that hold channels of a virtual device (R214). -/
def Vd.dies (x : Vd) : List Nat := (sortBy (fun k => (k, 0)) ((x.chans.map (· / 32)).eraseDups))

/-- The lowest FREE cell of an MC die that nothing refers to. -/
def freeCell (d : Dev) (k : Nat) : Option Nat :=
  let used := (d.mc.cells.filter fun c => cellDie c.1 == k && (c.2.state != 0 || d.cellReferenced c.1)).map fun c => c.1 % 1048576
  let i := lowestFree 0 used
  if (d.die k).lost || 1048576 ≤ i then none else some (1048576 * k + i)

/-- The lowest free slot of a virtual device's fence table. -/
def Vd.freeSlot (x : Vd) : Option Nat :=
  let i := lowestFree 1 ((x.slots.filter fun s => s.2.inUse).map Prod.fst)
  if 65536 ≤ i then none else some i

/-- The next use count of a slot (Table 12-3). -/
def nextUse (n : Nat) : Nat := if 65535 ≤ n then 1 else n + 1

/-- The id of a slot. -/
def fenceId (slot use : Nat) : Nat := use * 65536 + slot

/-- Bind a slot of a virtual device to a fence; the new id. -/
def bindSlot (v i : Nat) (ref : FRef) (owned signal : Bool) (pkg home : Nat) (d : Dev) : Nat × Dev :=
  let use := nextUse ((d.vd v).slot i).use
  (fenceId i use, d.onVd v fun x => { x with slots := Tab.put x.slots i ⟨use, true, ref, owned, signal, false, pkg, home⟩ })

/-- CREATE_FENCE (R299): a FREE cell becomes LIVE with the initial value, and a free slot is bound to it. -/
def doCreateFence (r : AdReq) (w : Wk) : Ans × Wk :=
  let init := BitVec.ofNat 64 (fieldLe r.args 0 8)
  match (w.dev.vd r.fn).freeSlot, (w.dev.vd r.fn).dies.findSome? (freeCell w.dev) with
  | some i, some k =>
    let d := storeSet k (fun c => { c with gen := c.gen + 1, vdev := r.fn, state := 1, error := 0, value := init, lost := false }) w.dev
    let (id, d) := bindSlot r.fn i (.cell k) true true 0 0 d
    performed (natLe 4 id) { w with dev := d }
  | _, _ => refuse stNoRes w

/-- CREATE_FENCE. -/
def execCreateFence (v : VDev) (s : State) : Out := runMem (takeRequest v.val (adRow 0x0210 8) doCreateFence) s

/-- Exports of a slot end (R303, R314). -/
def dropExports (v slot : Nat) (d : Dev) : Dev :=
  { d with exports := d.exports.filter fun e => !(e.2.vdev == v && e.2.slot == slot) }

/-- DESTROY_FENCE (R314): a fence that the virtual device created fails at every value not yet signalled; an imported slot
is only released. -/
def doDestroyFence (r : AdReq) (w : Wk) : Ans × Wk :=
  let id := fieldLe r.args 0 4
  let code := fieldLe r.args 4 2
  let x := w.dev.vd r.fn
  if code ≠ 1 ∧ code ≠ 5 then refuse stField w
  else match x.fence? id with
  | none => refuse stNotHeld w
  | some s =>
    if s.destroyed then refuse stState w
    else
      let i := fidSlot id
      let w := w.on fun d => d.onVd r.fn fun y => { y with slots := Tab.put y.slots i { s with destroyed := true } }
      let w := if s.owned then w.on fun d => dropExports r.fn i (sendFence s.ref (.fail code (BitVec.allOnes 64)) .nobody d) else w
      (.later (.destroyFence i (horizonOf x)), w)

/-- DESTROY_FENCE. -/
def execDestroyFence (v : VDev) (s : State) : Out := runMem (takeRequest v.val (adRow 0x0211 6) doDestroyFence) s

/-- FENCE_SLOT_RELEASE (R314): no command that precedes the request and names the id remains unrecorded. -/
def doSlotRelease (v slot : Nat) (d : Dev) : Dev :=
  match Tab.get? (d.fn v).taken slot with
  | none => d
  | some t =>
    match t.op with
    | .destroyFence i h =>
      let id := fenceId i ((d.vd v).slot i).use
      let names (c : Cmd) : Bool := c.sigId == id || (List.range (min c.nWait 4)).any fun j => c.waitId j == id
      if (d.vd v).queues.any fun q => horizonHolds h names q.2 then d
      else adRespond v slot t.tag stOk 0 [] (releaseSlot v i d)
    | _ => d

/-- FENCE_SLOT_RELEASE. -/
def execFenceSlotRelease (v : VDev) (slot : Fin 32) (s : State) : Out := runDev (fun _ d => doSlotRelease v.val slot.val d) s

/-- SIGNAL_FENCE (R301): the hub sends SIGNAL to the fence; the outcome answers the request. -/
def doSignalFence (r : AdReq) (w : Wk) : Ans × Wk :=
  match (w.dev.vd r.fn).fence? (fieldLe r.args 0 4) with
  | none => refuse stNotHeld w
  | some s =>
    if !s.canSignal then refuse stNotHeld w
    else (.later .signal, w.on (sendFence s.ref (.signal (BitVec.ofNat 64 (fieldLe r.args 4 8))) (.admin r.fn r.slot)))

/-- SIGNAL_FENCE. -/
def execSignalFence (v : VDev) (s : State) : Out := runMem (takeRequest v.val (adRow 0x0212 12) doSignalFence) s

/-- The outcome of Table 9-5 as a number. -/
def FOut.num : FOut → Nat
  | .applied => 0
  | .stale => 1
  | .refused _ => 2
  | .signalled => 3
  | .alreadyFailed _ => 4

/-- What a READ of a cell of this package returns: state, value, error code. A lost fence reads ERROR, 0 and 0x0011 (R227). -/
def readCell (k : Nat) (d : Dev) : Nat × Nat × Nat :=
  if d.cellLost k then (2, 0, 0x11) else ((d.cell k).state, (d.cell k).value.toNat, (d.cell k).error.toNat)

/-- The response of READ_FENCE: state, value, error code, in the order of Table 12-1. -/
def readReply (x : Nat × Nat × Nat) : List Byte := natLe 1 x.1 ++ natLe 8 x.2.1 ++ natLe 2 x.2.2

/-- READ_FENCE (R301). A READ of a proxy goes to the home package, and the request waits at the head of the ring for its answer; a proxy
that has failed here reads ERROR (R394). -/
def doReadFence (r : AdReq) (w : Wk) : Ans × Wk :=
  match (w.dev.vd r.fn).fence? (fieldLe r.args 0 4) with
  | none => refuse stNotHeld w
  | some s =>
    match s.ref with
    | .cell k => performed (readReply (readCell k w.dev)) w
    | .proxy pv ps =>
      if w.dev.proxyFailed pv ps then performed (readReply (2, 0, 0x11)) w
      else match takeFirst (fun x : Nat × Nat × Nat × Nat × Nat => x.1 == r.fn && x.2.1 == r.slot) w.dev.fx.reads with
        | some (x, rest) => performed (readReply x.2.2) (w.on fun d => d.onFx fun y => { y with reads := rest })
        | none =>
          if w.dev.fx.remote.any fun x => x.op == .read && x.src == .admin r.fn r.slot then (.wait, w)
          else (.wait, w.on (sendFence s.ref .read (.admin r.fn r.slot)))

/-- READ_FENCE: let through while frozen (R365) and in quarantine (R475). -/
def execReadFence (v : VDev) (s : State) : Out :=
  runMem (takeRequest v.val { adRow 0x0213 4 with whileFrozen := true, whileA2 := true } doReadFence) s

/-- EXPORT_FENCE (R303): only a fence the virtual device created. The security core draws the token. -/
def doExportFence (r : AdReq) (w : Wk) : Ans × Wk :=
  let id := fieldLe r.args 0 4
  let rights := fieldLe r.args 4 1
  if rights = 0 || 4 ≤ rights then refuse stField w
  else match (w.dev.vd r.fn).fence? id with
  | none => refuse stNotHeld w
  | some s =>
    let n := (w.dev.exports.filter fun e => e.2.vdev == r.fn && e.2.slot == fidSlot id).length
    if !s.owned || s.destroyed then refuse stState w
    else if 16 ≤ n || 16384 ≤ w.dev.exports.length then refuse stNoRes w
    else if !w.dev.secUp then (.wait, w)
    else
      let (dn, d) := (raiseSrc 0 0x154 w.dev).draw
      let token : BitVec 64 := (Config.randomBits dn).truncate 64
      let ex := lowestFree d.nextExport (d.exports.map Prod.fst) % 2 ^ 32
      performed (natLe 4 ex ++ natLe 8 token.toNat) { w with dev := { d with
        exports := Tab.put d.exports ex ⟨r.fn, fidSlot id, s.ref, BitVec.ofNat 8 rights, token⟩
        nextExport := ex + 1 } }

/-- EXPORT_FENCE. -/
def execExportFence (v : VDev) (s : State) : Out := runMem (takeRequest v.val (adRow 0x0214 5) doExportFence) s

/-- An import that is checked and refused counts toward the limit: the eighth within a second of the owning hub's count
blocks the next second (R304). -/
def countRefusal (v : Nat) (d : Dev) : Dev :=
  let now := d.hlcOf v
  d.onVd v fun x =>
    let times := (x.imports.times.filter fun t => within now t 1000000) ++ [now]
    { x with imports := if 8 ≤ times.length then ⟨[], now + usTicks 1000000, true⟩ else { x.imports with times := times } }

/-- Whether imports of a virtual device are refused without being checked (R304). -/
def Dev.importsBlocked (d : Dev) (v : Nat) : Bool :=
  let x := (d.vd v).imports
  x.blocked && decide (d.hlcOf v < x.endAt)

/-- IMPORT_FENCE (R304). A request of more than 16 bytes names the home's fabric package: the export lies in another
package, and the request goes there over a port of the composition (R394). -/
def doImportFence (r : AdReq) (w : Wk) : Ans × Wk :=
  let v := r.fn
  if w.dev.importsBlocked v then (.done stNoRes 0 [], w)
  else
    let w := if (w.dev.vd v).imports.blocked then w.on fun d => d.onVd v fun x => { x with imports := ⟨[], 0, false⟩ } else w
    let ex := fieldLe r.args 0 4
    let token := BitVec.ofNat 64 (fieldLe r.args 4 8)
    let rights := fieldLe r.args 12 1
    let pkg := fieldLe r.args 13 4
    let x := w.dev.vd v
    if pkg ≠ 0 && pkg ≠ w.dev.fab.pkgId.toNat then
      if rights = 0 || 4 ≤ rights then refuse stField w
      else if !((List.range 16).any fun p => bitAt x.ports.toNat p && (w.dev.port p).trained && (w.dev.port p).peerPkg.toNat == pkg) then
        refuse stNotHeld w
      else if x.freeSlot.isNone then refuse stNoRes w
      else (.later (.importFence pkg rights), w.on fun d => ((d.portTo v pkg).toList.foldl (fun d p => d.onPort p fun x => x.send 1) d).emit
        (.importOut v r.slot pkg ex token rights))
    else
      let e := Tab.get? w.dev.exports ex
      let held := match e with
        | some y => y.token == token && (rights ||| y.rights.toNat) == y.rights.toNat
        | none => false
      match firstStatus [(rights != 0 && decide (rights < 4), stField), (held, stNotHeld), (x.freeSlot.isSome, stNoRes)], e, x.freeSlot with
      | none, some y, some i =>
        let (id, d) := bindSlot v i y.ref false (bitAt rights 1) 0 0 w.dev
        performed (natLe 4 id) { w with dev := d }
      | st, _, _ => refuse (st.getD stNotHeld) w

/-- The refusals of an import that count, and the misuse alarm of one that was not checked (R304). -/
def noteImport (v : Nat) (before : Dev) (w : Wk) : Wk :=
  match before.nextSlot v with
  | none => w
  | some (i, bs) =>
    if slotOp bs ≠ 0x0215 then w
    else
      let now := Tab.getD (w.dev.fn v).respUsed i 0
      let st := fieldLe (Tab.getD (w.dev.fn v).respSlots i []) 0 2
      if now = Tab.getD (before.fn v).respUsed i 0 || st = stOk || st = stFailed || st = stState || st = stUnknown then w
      else if before.importsBlocked v then w.on (raiseAlarm 0x09 (BitVec.ofNat 16 v))
      else w.on fun d =>
        countRefusal v (if (d.vd v).imports.blocked then d.onVd v fun x => { x with imports := ⟨[], 0, false⟩ } else d)

/-- IMPORT_FENCE. -/
def execImportFence (v : VDev) (s : State) : Out :=
  runMem (fun w =>
    let w := w.on (answerUnknown v.val 32)
    noteImport v.val w.dev (takeRequest v.val (adRow 0x0215 13) doImportFence w)) s

/-- REVOKE_EXPORT (R303): further imports end; slots already imported keep their rights. -/
def doRevoke (r : AdReq) (w : Wk) : Ans × Wk :=
  let ex := fieldLe r.args 0 4
  match Tab.get? w.dev.exports ex with
  | none => refuse stNotHeld w
  | some y =>
    if y.vdev ≠ r.fn then refuse stNotHeld w
    else performed [] (w.on fun d => { d with exports := Tab.del d.exports ex })

/-- REVOKE_EXPORT. -/
def execRevokeExport (v : VDev) (s : State) : Out := runMem (takeRequest v.val (adRow 0x0216 4) doRevoke) s

/-! ## Ranges (R307 … R309) -/

/-- The rings of a queue. -/
def Queue.rings (x : Queue) : List (Nat × Nat) :=
  [(x.sqBase, 128 * x.S), (x.cqBase, 32 * x.C)] ++ (if x.auditBase = 0 then [] else [(x.auditBase, 1024 * x.S)])

/-- Whether a command names a byte of a span. -/
def Cmd.namesSpan (c : Cmd) (span : Nat × Nat) : Bool := (c.ins ++ c.outs).any (rangesMeet span)

/-- The span of a request, if its fields are in range. -/
def spanOf (args : List Byte) : Option (Nat × Nat) :=
  let a := fieldLe args 0 8
  let n := fieldLe args 8 8
  if a % 65536 = 0 ∧ n % 65536 = 0 ∧ a + n ≤ 2 ^ 56 then some (a, n) else none

/-- RELEASE_RANGE without FORCE (R308). -/
def doRelease (r : AdReq) (w : Wk) : Ans × Wk :=
  match spanOf r.args with
  | none => refuse stField w
  | some (a, n) =>
    let x := w.dev.vd r.fn
    if !spanIn x.table (fun _ => true) a n then refuse stNotHeld w
    else
      let fs := (w.dev.xlt.faults.filter fun f => f.2.vdev == r.fn && rangesMeet (f.2.page * 65536, 65536) (a, n)).map fun f => faultId f.1 f.2.use
      let mv := match x.sync with | some y => if y.move then some y.seq else none | none => none
      (.later (.release a n false (horizonOf x) fs mv), w)

/-- RELEASE_RANGE. -/
def execReleaseRange (v : VDev) (s : State) : Out :=
  runMem (takeRequest v.val { adRow 0x0230 16 with sel := fun bs => slotOp bs == 0x0230 && !bitAt (fieldLe bs 2 2) 0 } doRelease) s

/-- RELEASE_RANGE with FORCE (R309): the span must be REVOKED and hold no ring of a queue that is not FREE; running
commands that name it fail with 0x0004. -/
def doReleaseForce (r : AdReq) (w : Wk) : Ans × Wk :=
  match spanOf r.args with
  | none => refuse stField w
  | some (a, n) =>
    let x := w.dev.vd r.fn
    if !spanIn x.table (fun _ => true) a n then refuse stNotHeld w
    else if !spanIn x.table (fun e => e.res == 4) a n || x.queues.any fun q => q.2.rings.any (rangesMeet (a, n)) then refuse stState w
    else
      let hit := x.queues.filterMap fun (q, y) => match y.cur with
        | some c => if c.started && c.namesSpan (a, n) then some (q, c.no) else none
        | none => none
      (.later (.release a n true [] (hit.map Prod.snd) none), hit.foldl (fun w h => killStarted r.fn h.1 4 w) w)

/-- RELEASE_RANGE_FORCE. -/
def execReleaseRangeForce (v : VDev) (s : State) : Out :=
  runMem (takeRequest v.val
    { adRow 0x0230 16 with sel := fun bs => slotOp bs == 0x0230 && bitAt (fieldLe bs 2 2) 0, flags := 1 } doReleaseForce) s

/-- A command that has failed before it started: its FAIL is still on its way to the fence. -/
def Dev.failing (d : Dev) (no : Nat) : Bool :=
  let mine (s : FSrc) : Bool := match s with
    | .dead _ n _ _ _ => n == no
    | _ => false
  (d.fx.reqs.any fun r => mine r.src) || d.fx.remote.any fun r => mine r.src

/-- Whether commands of a queue within a horizon hold a byte of a span: those that name it, until their completion or failure commits, and
those whose chain may (R307). -/
def queueHolds (d : Dev) (h : List (Nat × Nat)) (span : Nat × Nat) (x : Queue) : Bool :=
  horizonHolds h (fun _ => false) { x with cur := none, fetched := [] } ||
    horizonHolds h (fun c => c.namesSpan span) { x with
      fetched := x.fetched.filter fun c => c.early.isNone || d.failing c.no }

/-- Whether a command that has left its queue holds a byte of a span, as its failure has not committed (R307). -/
def deadHolds (d : Dev) (v : Nat) (h : List (Nat × Nat)) (span : Nat × Nat) : Bool :=
  let holds (s : FSrc) : Bool := match s with
    | .dead u _ uid ord spans => u == v && spans.any (rangesMeet span) && (h.find? fun e => e.1 == uid).all fun e => decide (ord ≤ e.2)
    | _ => false
  (d.fx.reqs.any fun r => holds r.src) || d.fx.remote.any fun r => holds r.src

/-- Whether a reference that arose before a release still holds a byte of its span (R307, R308). -/
def releaseHeld (d : Dev) (v a n : Nat) (h : List (Nat × Nat)) (fs : List Nat) (mv : Option (BitVec 32)) : Bool :=
  let x := d.vd v
  deadHolds d v h (a, n) ||
  x.queues.any (fun q => queueHolds d h (a, n) q.2 ||
    ((h.any fun e => e.1 == q.2.uid) && q.2.rings.any (rangesMeet (a, n)))) ||
  d.xlt.faults.any (fun f => fs.contains (faultId f.1 f.2.use)) ||
  (match x.sync, mv with
    | some y, some seq => y.move && y.seq == seq && y.pages.any fun p => rangesMeet (p * 65536, 65536) (a, n)
    | _, _ => false)

/-- RELEASE_COMPLETE (R308, R309). -/
def doReleaseComplete (v slot : Nat) (d : Dev) : Dev :=
  match Tab.get? (d.fn v).taken slot with
  | none => d
  | some t =>
    match t.op with
    | .release a n false h fs mv => if releaseHeld d v a n h fs mv then d else adRespond v slot t.tag stOk 0 [] d
    | .release _ _ true _ killed _ =>
      if (d.vd v).queues.any fun q => q.2.cur.any fun c => killed.contains c.no then d else adRespond v slot t.tag stOk 0 [] d
    | _ => d

/-- RELEASE_COMPLETE. -/
def execReleaseComplete (v : VDev) (slot : Fin 32) (s : State) : Out := runDev (fun _ d => doReleaseComplete v.val slot.val d) s

/-! ## Replies of the fence units -/

/-- FENCE_OP_REPLY (R215, R281, R284, R312, R521): the reply reaches the hub that sent the operation. -/
def doFenceReply (id : Nat) (w : Wk) : Wk :=
  match takeFirst (fun r : FRep => r.id == id) w.dev.fx.reps with
  | none => w
  | some (r, rest) =>
    let w := w.on fun d => d.onFx fun x => { x with reps := rest }
    match r.src with
    | .timeout v q no code => (timeoutReply v q no code r.out w).on (settleFreeze v)
    | .cmdFail v q no code => (failReply v q no code r.out w).on (settleFreeze v)
    | .signal v q no => (signalReply v q no r.out w).on (settleFreeze v)
    | .admin fn slot =>
      match Tab.get? (w.dev.fn fn).taken slot with
      | some ⟨tag, .signal, _⟩ => w.on fun d => settleFreeze fn (adRespond fn slot tag stOk 0 (natLe 2 r.out.num) d)
      | _ => w
    | .remote p rid => w.on fun d => d.emit (.fenceReply p rid r.out)
    | _ => w

/-- FENCE_OP_REPLY. -/
def execFenceOpReply (id : Nat) (s : State) : Out := runMem (doFenceReply id) s

end Sys2Proof.Machine
end

