-- ==== Sys2Proof/Machine/Compose.lean ====
section
/-! DEFINITION. Compositions, interleave sets and partitions (R321 … R329, R345, R428), the publication of maps and the
sluice (R337 … R343), and the retirement of cores (R156 … R159). -/

namespace Sys2Proof.Machine

open Sys2Proof

/-! ## COMPOSE (R322 … R324) -/

/-- A composition request (Table 13-1). -/
structure Req where
  bytes : List Byte

/-- `GQI_CM_VDEV`. -/
def Req.vdev (r : Req) : Nat := fieldLe r.bytes 0 1
/-- MIRRORED. -/
def Req.mirrored (r : Req) : Bool := bitAt (fieldLe r.bytes 1 1) 0
/-- `GQI_CM_CORE_RESERVE`. -/
def Req.reserve (r : Req) : Nat := fieldLe r.bytes 2 2
/-- `GQI_CM_PORTS`. -/
def Req.ports (r : Req) : Nat := fieldLe r.bytes 4 2
/-- `GQI_CM_QUEUES`. -/
def Req.queues (r : Req) : Nat := fieldLe r.bytes 6 2
/-- `GQI_CM_EPOCH_EXPECT`. -/
def Req.epoch (r : Req) : Nat := fieldLe r.bytes 8 4
/-- Byte c of `GQI_CM_CORES`. -/
def Req.cores (r : Req) (c : Nat) : Nat := fieldLe r.bytes (0x20 + c) 1
/-- The channels that `GQI_CM_CHANNELS` names. -/
def Req.chans (r : Req) : List Nat :=
  (List.range 1024).filter fun j => bitAt (r.bytes.getD (0x40 + j / 8) 0).toNat (j % 8)

/-- The fields of a request are in range. -/
def Req.fieldsOk (r : Req) : Bool :=
  decide (fieldLe r.bytes 1 1 ≤ 1) && decide (r.reserve ≤ 256) && decide (r.queues ≤ 256) && fieldLe r.bytes 0xC 20 == 0 &&
    (List.range 32).all fun c => decide (r.cores c ≤ 64)

/-- Cores of a cluster. -/
def onCluster (c : Nat) (l : List Nat) : List Nat := l.filter fun n => n / 68 == c

/-- The cores that leave a cluster when its count is lowered, in their order (R324). -/
def Vd.leavers (x : Vd) (c : Nat) : List Nat :=
  (onCluster c (sortBy (fun n => (n, 0)) x.looseCores)).reverse ++
    (x.parts.reverse.flatMap fun p => (onCluster c p.2.cores).reverse)

/-- The cores that leave and join a composition, cluster by cluster. -/
def coreChanges (d : Dev) (x : Vd) (r : Req) : List Nat × List Nat :=
  let per (c : Nat) : List Nat × List Nat :=
    let have_ := (onCluster c x.cores).length
    let want := r.cores c
    ((x.leavers c).take (have_ - want), ((List.range 68).map (68 * c + ·)).filter d.freeCore |>.take (want - have_))
  let all := (List.range 32).map per
  (all.flatMap Prod.fst, all.flatMap Prod.snd)

/-- A channel or port that a request adds is bindable (R321, R323). -/
def Dev.bindable (d : Dev) (k : UnitKind) (n : Nat) : Bool :=
  !(d.unit k n).adminOut && !d.disputed k n && !d.sluiced k n && (d.boundTo k n).isNone &&
    match k with
    | .core => d.freeCore n
    | .chan => d.freeChan n
    | .port => (d.port n).trained

/-- Members of valid sets among channels; a mirror (R428) belongs to no set. -/
def Dev.memberChans (d : Dev) (l : List Nat) : List Nat :=
  l.filter fun c => d.mc.sets.any fun s => s.2.valid && s.2.members.any fun m => m.1 == c

/-- A channel or port that a request names and the composition has already is bindable still, and not in dispute (R321, R323). -/
def Dev.keepable (d : Dev) (k : UnitKind) (n : Nat) : Bool :=
  !(d.unit k n).adminOut && !d.disputed k n && match k with
    | .core => true
    | .chan => (d.chan n).state == .inService
    | .port => (d.port n).trained

/-- The change that a request asks of a composition. -/
structure Change where
  outCores : List Nat
  inCores : List Nat
  outReserve : List Nat
  inReserve : List Nat
  outChans : List Nat
  inChans : List Nat
  outPorts : List Nat
  inPorts : List Nat
  pairs : List (Nat × Nat)

/-- The change from a composition to the one requested (R324). -/
def changeOf (d : Dev) (x : Vd) (r : Req) : Change :=
  let (outC, inC) := coreChanges d x r
  let cores := (x.cores.filter fun n => !outC.contains n) ++ inC
  let sorted := sortBy (fun n => (n, 0)) x.reserve
  let free := (List.range 2176).filter fun n => d.freeCore n && !inC.contains n
  let near := free.filter fun n => cores.any fun m => m / 68 == n / 68
  let far := free.filter fun n => !(cores.any fun m => m / 68 == n / 68)
  let want := r.chans
  let outCh := sortBy (fun n => (n, 0)) (x.chans.filter fun c => !want.contains c)
  let inCh := want.filter fun c => !x.chans.contains c
  { outCores := outC
    inCores := inC
    outReserve := sorted.reverse.take (x.reserve.length - r.reserve)
    inReserve := (near ++ far).take (r.reserve - x.reserve.length)
    outChans := outCh
    inChans := inCh
    outPorts := (List.range 16).filter fun p => bitAt x.ports.toNat p && !bitAt r.ports p
    inPorts := (List.range 16).filter fun p => !bitAt x.ports.toNat p && bitAt r.ports p
    pairs := (d.memberChans outCh).zip inCh }

/-- Why a request is refused, if it is (R323, R527). -/
def composeStatus (d : Dev) (x : Vd) (r : Req) (c : Change) : Option Nat :=
  let added := (List.range 32).all fun k => decide ((onCluster k x.cores).length + (onCluster k c.inCores).length ≥ r.cores k)
  let ports := (List.range 16).filter fun p => bitAt r.ports p
  let bindable := c.inChans.all (d.bindable .chan) && c.inPorts.all (d.bindable .port) &&
    (r.chans.filter fun k => !c.inChans.contains k).all (d.keepable .chan) && (ports.filter fun p => !c.inPorts.contains p).all (d.keepable .port)
  let partsOk := x.parts.all fun p => p.2.cores.any fun n => !c.outCores.contains n
  let setsOk := decide ((d.memberChans c.outChans).length ≤ c.inChans.length)
  let grantOk := x.queues.all fun q => decide (q.1 < r.queues)
  firstStatus [(r.fieldsOk, stField), (r.epoch == x.epoch.toNat, stEpoch),
    (bindable && partsOk && setsOk && grantOk && !x.frozen, stState),
    (added && decide (x.reserve.length + c.inReserve.length ≥ r.reserve), stNoRes)]

/-- Make a change to a composition: bind what joins, release what leaves, pair the data that must be copied first. A set whose mirror
leaves runs unmirrored (R428). -/
def applyChange (v : Nat) (r : Req) (c : Change) (d : Dev) : Dev :=
  let old := d.vd v
  let chans := (old.chans.filter fun k => !c.outChans.contains k) ++ c.inChans
  let d := d.onVd v fun x => { x with
    cores := (x.cores.filter fun n => !c.outCores.contains n) ++ c.inCores
    reserve := (x.reserve.filter fun n => !c.outReserve.contains n) ++ c.inReserve
    reserveWant := r.reserve
    chans := chans
    ports := BitVec.ofNat 16 r.ports
    mirrored := r.mirrored
    mirrors := if r.mirrored then x.mirrors.filter fun s => !(s.2.any c.outChans.contains) else []
    unmirrored := x.unmirrored ++ if r.mirrored then (x.mirrors.filter fun s => s.2.any c.outChans.contains).map Prod.fst else []
    queueGrant := r.queues
    mirrorCh := if old.chans.isEmpty then chans.headD x.mirrorCh else x.mirrorCh
    parts := x.parts.map fun (i, p) => (i, { p with cores := p.cores.filter fun n => !c.outCores.contains n }) }
  let d := c.pairs.foldl (fun d p => d.onChan p.1 fun k => { k with target := some p.2, copied := false }) d
  let out := (c.outCores ++ c.outReserve).map (fun n => (UnitKind.core, n)) ++ c.outChans.map (fun n => (UnitKind.chan, n)) ++
    c.outPorts.map fun n => (UnitKind.port, n)
  lowerReserves v (portsMoved v ((c.inPorts ++ c.outPorts).map fun n => (UnitKind.port, n)) (publishChange v old out false c.pairs d))

/-- COMPOSE (R322, R323). -/
def doCompose (a : AdReq) (w : Wk) : Ans × Wk :=
  let r : Req := ⟨a.args.take 192⟩
  let x := w.dev.vd r.vdev
  let c := changeOf w.dev x r
  match composeStatus w.dev x r c with
  | some st => refuse st w
  | none => performed [] (w.on (applyChange r.vdev r c))

/-- COMPOSE. -/
def execCompose (s : State) : Out := runMem (fun w => (takeRequest mgr (adRow 0x0301 192) doCompose w).on (announce w.dev)) s

/-! ## DEFINE_SET (R326, R428) -/

/-- The members a request lists: channel and base. -/
def setMembers (args : List Byte) (n : Nat) : List (Nat × Nat) :=
  (List.range n).map fun i => (fieldLe args (8 + 4 * i) 2, fieldLe args (10 + 4 * i) 2)

/-- Whether two members of sets overlap in a channel (R207). -/
def membersMeet (a : Nat × Nat) (la : Nat) (b : Nat × Nat) (lb : Nat) : Bool := a.1 == b.1 && rangesMeet (a.2, la) (b.2, lb)

/-- Whether some member of a list overlaps a later one. -/
def selfMeet (len : Nat) : List (Nat × Nat) → Bool
  | [] => false
  | m :: ms => ms.any (fun n => membersMeet m len n len) || selfMeet len ms

/-- Mirrors for members (R428): each a bound channel on another stack that is no set member and no other mirror, in
ascending order. -/
def pickMirrors (d : Dev) (x : Vd) (members : List (Nat × Nat)) : Option (List Nat) :=
  let cand := (sortBy (fun n => (n, 0)) x.chans).filter fun c => !d.usedChan c && !(members.any fun m => m.1 == c) &&
    (d.chan c).state == .inService
  let step (acc : Option (List Nat)) (m : Nat × Nat) : Option (List Nat) := acc.bind fun l =>
    (cand.find? fun c => !l.contains c && c / 32 != m.1 / 32).map fun c => l ++ [c]
  members.foldl step (some [])

/-- Write a set under a new epoch, whose core lists follow the members that it has now (R328). -/
def putSet (v s : Nat) (f : SetEnt → SetEnt) (mirrors : Option (List Nat)) (d : Dev) : Dev :=
  let d := publishChange v (d.vd v) [] false [] d
  let d := d.onMc fun m => { m with sets := Tab.put m.sets s { f (d.set s) with epoch := (d.vd v).epoch } }
  (rebuildLists v d).onVd v fun x => { x with
    mirrors := match mirrors with
      | some l => Tab.put x.mirrors s l
      | none => Tab.del x.mirrors s
    unmirrored := x.unmirrored.filter (· != s) }

/-- DEFINE_SET (R207, R326). With VALID 0 the set is removed. -/
def doDefineSet (r : AdReq) (w : Wk) : Ans × Wk :=
  let d := w.dev
  let v := r.fn
  let x := d.vd v
  let s := fieldLe r.args 0 2
  let l := fieldLe r.args 2 1
  let valid := fieldLe r.args 3 1
  let len := fieldLe r.args 4 4
  let n := 2 ^ min l 6
  let e := d.set s
  let mine := e.valid && e.vdev == v
  if 1024 ≤ s || 2 ≤ valid then refuse stField w
  else if valid = 0 then
    if !mine then refuse stNotHeld w
    else if x.table.any fun y => y.res == 1 && y.pbase / 2 ^ 38 == s then refuse stState w
    else performed [] (w.on (putSet v s (fun e => { e with valid := false, members := [] }) none))
  else
    let ms := setMembers r.args n
    let fields := decide (l ≤ 6) && decide (1 ≤ len) && decide (len ≤ 23040) && decide (r.args.length ≥ 8 + 4 * n) &&
      ms.all (fun m => decide (m.1 < 1024) && decide (m.2 + len ≤ 23040)) && !selfMeet len ms
    let held := ms.all fun m => x.chans.contains m.1
    let others := d.mc.sets.any fun y => y.2.valid && y.2.members.any fun b => ms.any fun m => membersMeet m len b y.2.len
    let mirrors := if x.mirrored then pickMirrors d x ms else some []
    match firstStatus [(fields, stField), (held, stNotHeld), (!e.valid && !others, stState), (mirrors.isSome, stNoRes)] with
    | some st => refuse st w
    | none => performed [] (w.on (putSet v s
        (fun e => { e with len := len, vdev := v, log2n := l, valid := true, members := ms }) (if x.mirrored then mirrors else none)))

/-- DEFINE_SET. -/
def execDefineSet (v : VDev) (s : State) : Out := runMem (takeRequest v.val (adRow 0x0250 8) doDefineSet) s

/-! ## Partitions (R327, R345) -/

/-- The fields of a partition definition (Table 13-2). -/
def partFieldsOk (b : List Byte) : Bool :=
  let n := fieldLe b 2 1
  let cores := fieldLe b 4 2
  let slice := fieldLe b 8 4
  let frame := decide (fieldLe b 0 1 < 16) && decide (fieldLe b 1 1 ≤ 1) && fieldLe b 3 1 == 0 && fieldLe b 0xC 4 == 0 && fieldLe b 0x20 32 == 0
  frame && (bitAt (fieldLe b 1 1) 0 ||
    (decide (1 ≤ n) && decide (n ≤ 8) && decide (1 ≤ cores) && decide (cores ≤ 2048) && decide (fieldLe b 6 2 < cores) &&
      (slice == 0 || (decide (100 ≤ slice) && decide (slice ≤ 1000000))) &&
      (List.range 8).all fun i => if i < n then decide (fieldLe b (0x10 + 2 * i) 2 < 1024) else fieldLe b (0x10 + 2 * i) 2 == 0))

/-- The cores of a partition after a resize (R327, R328): the list is cut at its end, or the nearest free cores join. -/
def resizeCores (d : Dev) (x : Vd) (p : Part) (n : Nat) : List Nat :=
  if n ≤ p.cores.length then p.cores.take n
  else p.cores ++ (coreOrder d p x.looseCores).take (n - p.cores.length)

/-- DEFINE_PARTITION (R327). A new partition is WARMING (R345). -/
def doDefinePartition (r : AdReq) (w : Wk) : Ans × Wk :=
  let d := w.dev
  let v := r.fn
  let x := d.vd v
  let b := r.args.take 64
  let i := fieldLe b 0 1
  let old := Tab.get? x.parts i
  if !partFieldsOk b then refuse stField w
  else if bitAt (fieldLe b 1 1) 0 then
    if old.isNone then refuse stNotHeld w
    else if !(x.partQueues i).isEmpty then refuse stState w
    else performed [] (w.on fun d => publishChange v x [] false [] (d.onVd v fun x => { x with parts := Tab.del x.parts i }))
  else
    let sets := (List.range (fieldLe b 2 1)).map fun j => fieldLe b (0x10 + 2 * j) 2
    let n := fieldLe b 4 2
    let now := d.hlcOf v
    let p : Part := match old with
      | some p => { p with sets := sets }
      | none => ⟨sets, [], 0, 0, 0, true, now, none, 0, none, 0⟩
    let held := sets.all fun s => (d.set s).valid && (d.set s).vdev == v
    let p := { p with wanted := n, lcReserve := fieldLe b 6 2, sliceUs := fieldLe b 8 4, cores := resizeCores d x p n }
    if !held then refuse stNotHeld w
    else if p.cores.length < n then refuse stNoRes w
    else performed [] (w.on fun d =>
      let d := if (Tab.get? x.parts i).isSome then d else { d with pwr := { d.pwr with partE := Tab.del d.pwr.partE (16 * v + i) } }
      publishChange v x [] false [] (d.onVd v fun x => { x with parts := Tab.put x.parts i p }))

/-- DEFINE_PARTITION. -/
def execDefinePartition (v : VDev) (s : State) : Out := runMem (takeRequest v.val (adRow 0x0240 64) doDefinePartition) s

/-- The MC dies that home bytes of a span. -/
def spanDies (d : Dev) (v a n : Nat) : List Nat :=
  (((d.vd v).table.filter fun e => e.res == 1 && rangesMeet (e.start, e.len) (a, n)).flatMap fun e =>
    (d.set (e.pbase / 2 ^ 38)).members.map fun m => m.1 / 32).eraseDups

/-- PREFETCH (R345, R211): the MC dies receive the spans in order, and read their lines into the virtual device's quota.
During early service every partition is WARMING. -/
def doPrefetch (r : AdReq) (w : Wk) : Ans × Wk :=
  let v := r.fn
  let d := w.dev
  let x := d.vd v
  let i := fieldLe r.args 0 1
  let n := fieldLe r.args 1 2
  let spans := (List.range n).map fun j => (fieldLe r.args (3 + 16 * j) 8, fieldLe r.args (11 + 16 * j) 8)
  let fields := decide (i < 16) && decide (1 ≤ n) && decide (n ≤ 256) && decide (r.args.length ≥ 3 + 16 * n) &&
    spans.all fun s => decide (s.1 + s.2 ≤ 2 ^ 56)
  let p := Tab.get? x.parts i
  let held := p.isSome && spans.all fun s => spanIn x.table (fun _ => true) s.1 s.2
  match firstStatus [(fields, stField), (held, stNotHeld), (p.any fun p => p.warming || d.boot.early, stState)] with
  | some st => refuse st w
  | none => performed [] (w.on fun d =>
      let d := d.onVd v fun x => { x with parts := x.parts.map fun (j, p) => (j, if j = i then { p with lastPrefetch := d.hlcOf v } else p) }
      let d := spans.foldl (fun d s => (spanDies d v s.1 s.2).foldl (fun d k => d.onDie k fun m =>
        { m with prefetch := m.prefetch ++ [(v, s.1, s.2)] }) d) d
      (linesOf d (hubEng v) v needNone spans).foldl (fun d l => readLine v l.2 l.1 d) d)

/-- PREFETCH. -/
def execPrefetch (v : VDev) (s : State) : Out := runMem (takeRequest v.val (adRow 0x0242 3) doPrefetch) s

/-- A partition leaves WARMING; with the last of a virtual device its prefetch lists go (R345). -/
def stopWarming (v i : Nat) (d : Dev) : Dev :=
  let d := d.onVd v fun x => { x with parts := x.parts.map fun (j, p) => (j, if j = i then { p with warming := false } else p) }
  if (d.vd v).parts.any fun p => p.2.warming then d
  else d.onMc fun m => { m with dies := m.dies.map fun (k, y) => (k, { y with prefetch := y.prefetch.filter fun f => f.1 != v }) }

/-- END_WARMING (R345). -/
def doEndWarming (r : AdReq) (w : Wk) : Ans × Wk :=
  let i := fieldLe r.args 0 1
  if 16 ≤ i then refuse stField w
  else if (Tab.get? (w.dev.vd r.fn).parts i).isNone then refuse stNotHeld w
  else performed [] (w.on (stopWarming r.fn i))

/-- END_WARMING. -/
def execEndWarming (v : VDev) (s : State) : Out := runMem (takeRequest v.val (adRow 0x0243 1) doEndWarming) s

/-- WARMING_TIMEOUT (R345): 10 s without a PREFETCH. -/
def execWarmingTimeout (v : VDev) (p : PartId) (s : State) : Out :=
  runDev (fun _ d => match Tab.get? (d.vd v.val).parts p.val with
    | some x => if x.warming then stopWarming v.val p.val (d.advance (hubOf v.val) (x.lastPrefetch + usTicks 10000000)) else d
    | none => d) s

/-! ## Publication (R338) -/

/-- An endpoint that keeps a copy of the set table (R207), a cluster control core or an MC die, installs the sets of a map. The units
that an LX die or a hub finds in a map are those of `Dev.mapOf`. -/
def installSets (e : Endp) (p : Publish) (d : Dev) : Dev :=
  let put (d : Dev) : Dev := d.onMc fun m => { m with
    views := (m.views.filter fun x => !(x.ep == e && x.vdev == p.vdev)) ++ [⟨e, p.vdev, p.epoch, p.sets.getD (d.setsOf p.vdev)⟩] }
  match e with
  | .cluster _ => put d
  | .mc _ => put d
  | _ => d

/-- MAP_PUBLISH (R338): an endpoint receives a map, installs it and switches to it. The map of a change that copies
channels goes out when the copies are made (R341). -/
def doMapPublish (v : Nat) (e : Endp) (d : Dev) : Dev :=
  let ready (p : Publish) : Bool := p.vdev == v && p.toSend.contains e && p.copies.all fun c => (d.chan c.1).copied
  let d := match d.sched.publish.find? ready with
    | some p => installSets e p (match e with
      | .cluster c => raiseClusters 3 [c.val] d
      | _ => d)
    | none => d
  d.onSched fun s => { s with publish := updFirst ready (fun p => { p with toSend := p.toSend.filter (· != e), toAck := p.toAck ++ [e] }) s.publish }

/-- MAP_PUBLISH. -/
def execMapPublish (v : VDev) (e : Endp) (s : State) : Out := runDev (fun _ d => doMapPublish v.val e d) s

/-- MAP_ACK (R338): an acknowledgement arrives; with the last one the publication is complete. -/
def doMapAck (v : Nat) (e : Endp) (d : Dev) : Dev :=
  let hit (p : Publish) : Bool := p.vdev == v && p.toAck.contains e
  let d := d.onSched fun s => { s with publish := updFirst hit (fun p => { p with toAck := p.toAck.filter (· != e) }) s.publish }
  let finished := d.sched.publish.filter fun p => p.toSend.isEmpty && p.toAck.isEmpty
  settleFreeze v (d.onSched fun s => { s with
    publish := s.publish.filter fun p => !(p.toSend.isEmpty && p.toAck.isEmpty)
    leaving := s.leaving.map fun u => if finished.any fun p => p.vdev == u.vdev && p.epoch == u.epoch then { u with published := true } else u })

/-- MAP_ACK. -/
def execMapAck (v : VDev) (e : Endp) (s : State) : Out := runDev (fun _ d => doMapAck v.val e d) s

/-! ## The sluice (R339 … R343) -/

/-- Whether an endpoint has requests to, from or through a leaving unit that are not acknowledged (R339): the cluster control core of a
core, the requests of its cores; an MC die, the requests it serves and the copy of its channel; a hub, its host DMA and the fence
operations of its virtual devices; an LX die, its exchanges. -/
def busyAt (d : Dev) (e : Endp) (k : UnitKind) (n : Nat) : Bool :=
  match k, e with
  | .core, .cluster c => n / 68 == c.val && ((d.core n).busy.isSome || (d.core n).switched.isSome || (d.mc.reqs.any fun r => r.core == n) ||
      d.mc.resps.any fun r => r.req.core == n)
  | .core, .mc m => d.mc.reqs.any fun r => r.core == n && r.goesTo fun x => x / 32 == m.val
  | .core, .hub h => d.mc.host.any fun r => hubOf r.vdev == h.val && ((d.core n).busy == some r.cmd || (d.core n).switched == some r.cmd)
  | .core, .lx _ => false
  | .chan, .cluster c => d.mc.reqs.any fun r => r.core / 68 == c.val && r.goesTo fun x => x == n
  | .chan, .mc m => (n / 32 == m.val && d.mc.reqs.any fun r => r.goesTo fun x => x == n) ||
      ((d.chan n).target.any fun t => !(d.chan n).copied && (n / 32 == m.val || t / 32 == m.val))
  | .chan, .hub h => d.fx.reqs.any fun r => d.cellChan r.cell == n && (match r.src with
      | .cmdFail u _ _ _ => hubOf u == h.val
      | .timeout u _ _ _ => hubOf u == h.val
      | .signal u _ _ => hubOf u == h.val
      | .admin u _ => hubOf u == h.val
      | _ => false)
  | .chan, .lx _ => false
  | .port, .lx p => p.val == n && d.fab.exchanges.any fun x => x.ports.any fun y => y.val == n
  | .port, .hub h => d.fx.remote.any fun r => hubOf r.vdev == h.val && (d.port n).peerPkg.toNat == ((d.vd r.vdev).slot r.slot).pkg
  | .port, _ => false

/-- Every endpoint of the package. -/
def allEnds : List Endp :=
  (List.finRange 32).map Endp.cluster ++ (List.finRange 32).map Endp.mc ++ (List.finRange 16).map Endp.lx ++ (List.finRange 2).map Endp.hub

/-- Whether old-epoch work still uses a leaving unit, at any endpoint. -/
def unitBusy (d : Dev) (k : UnitKind) (n : Nat) : Bool := allEnds.any fun e => busyAt d e k n

/-- DRAINED (R339): an endpoint's old-epoch requests for a leaving unit are all acknowledged. -/
def doDrained (word : Nat) (e : Endp) (d : Dev) : Dev :=
  match unitOf word with
  | none => d
  | some (k, n) =>
    if busyAt d e k n then d
    else
      let f (u : Leaving) : Leaving :=
        if u.kind == k && u.num == n && u.published then { u with left := u.left.filter (· != e) } else u
      let who := (d.sched.leaving.filter fun u => u.kind == k && u.num == n).map Leaving.vdev
      who.foldl (fun d v => settleFreeze v d) (d.onSched fun s => { s with leaving := s.leaving.map f })

/-- DRAINED. -/
def execDrained (u : BitVec 32) (e : Endp) (s : State) : Out := runDev (fun _ d => doDrained u.toNat e d) s

/-- The queue whose current command has a number. -/
def Dev.whereIs (d : Dev) (no : Nat) : Option (Nat × Nat × Cmd) :=
  d.vds.findSome? fun (v, x) => x.queues.findSome? fun (q, y) =>
    match y.cur with
    | some c => if c.no = no then some (v, q, c) else none
    | none => none

/-- Whether an attempt runs that can be abandoned. -/
def Cmd.attempting (c : Cmd) : Bool :=
  c.started && c.phase != .failing && c.phase != .refusing && c.phase != .aborting && c.phase != .replaying

/-- Abandon the attempts that use a core (R341, R158), counting them where the count keeps them (Table 13-6). -/
def abandonOn (n : Nat) (count : Bool) (w : Wk) : Wk :=
  ((w.dev.core n).busy.toList ++ (w.dev.core n).switched.toList).foldl (fun w no =>
    match w.dev.whereIs no with
    | none => w
    | some (v, q, c) =>
      if !c.attempting then w
      else
        let w := if count then w.on fun d => d.onVd v fun x => { x with ctr := Tab.put x.ctr 6 (Tab.getD x.ctr 6 0 + 1) } else w
        abandonCmd v q w) w

/-- REBIND_GRACE_EXPIRY (R341): 20 ms after publication, the attempt on a leaving core is abandoned and replayed. -/
def execRebindGraceExpiry (n : CoreId) (s : State) : Out :=
  runMem (fun w => if w.dev.sched.leaving.any fun u => u.kind == .core && u.num == n.val && u.published && !u.retiring then abandonOn n.val true w else w) s

/-- CORE_RETIRE_GRACE_EXPIRY (Table 6-9 step 2): 20 ms after a management request, the command on a draining core is
abandoned and replayed elsewhere. -/
def execCoreRetireGraceExpiry (n : CoreId) (s : State) : Out :=
  runMem (fun w => if (w.dev.core n.val).state == .draining then abandonOn n.val false w else w) s

/-- The scrub of a channel range (R228): zeros under key slot 0 in every line of tenant memory; its cache lines and poison go. -/
def scrubChan (c : Nat) (w : Wk) : Wk :=
  let inside (a : Nat) : Bool := decide (c * chanBytes ≤ a) && decide (a < c * chanBytes + tenantBytes)
  let as := (((w.mem.cells.map Prod.fst) ++ (w.mem.keys.map Prod.fst)).filter inside)
  let w := (as.foldl (fun w a => w.put .slot0 a [emptyByte]) w).on (countLines c 1 (tenantBytes / 64))
  w.on fun d => (cacheDrop (c / 32) (fun l => chanOf l == c && inside l) d).onChan c fun k => { k with
    lost := false
    poison := if k.lost then [] else k.poison.filter fun a => !inside a }

/-- A port is erased by the sluice (Table 13-4 step 5, R384): session keys and retry buffers go, and the port secures a new
session, or is out of service where it is being retired. -/
def erasePort (p : Nat) (retiring : Bool) (d : Dev) : Dev :=
  let d := d.onPort p fun x => { x with
    peerPort := 0
    peerPkg := 0
    tx := 0
    acked := 0
    rx := 0
    resends := 0
    hunting := false
    credits := []
    waiting := 0
    switchAt := []
    span := 0
    keys := []
    streams := []
    session := 0 }
  if retiring then enterPort p 6 d else if (d.port p).trained then enterPort p 2 d else d

/-- The manager and the driver are told of a release once every unit that the change removed has left the sluice (R347). -/
def tellReleased (v : Nat) (ep : BitVec 32) (d : Dev) : Dev :=
  let mine (u : Released) : Bool := u.vdev == v && u.epoch == ep
  if d.sched.leaving.any fun u => u.vdev == v && u.epoch == ep then d
  else match sortBy (fun u => (unitRef (u.kind, u.num), 0)) (d.sched.released.filter mine) with
    | [] => d
    | us => compositionChanged v 4 (us.map fun u => (u.kind, u.num))
        (d.onSched fun s => { s with released := s.released.filter fun u => !mine u })

/-- The cores of a cluster in a state. -/
def coresIn (d : Dev) (c : Nat) (st : CoreState) : List Nat := ((List.range 68).map (68 * c + ·)).filter fun n => (d.core n).state == st

/-- For each scrubbed core of a cluster a reserve core is tested (Table 6-9 step 4); without one, the serviceable set is recorded. -/
def nextSpare (c : Nat) (d : Dev) : Dev :=
  let waits := coresIn d c .scrubbed
  let tests := coresIn d c .testing
  if waits.length ≤ tests.length then d
  else match (coresIn d c .spare).find? fun n => !(d.unit .core n).adminOut with
    | some n => d.onCore n fun k => { k with state := .testing }
    | none => if tests.isEmpty then waits.foldl (fun d n => settleCore n d) d else d

/-- A drained core that is being retired has been zeroed, and its island is powered off (Table 6-9 step 3); a reserve core of its
cluster begins its self-test (step 4). -/
def scrubbedCore (n : Nat) (d : Dev) : Dev := nextSpare (n / 68) ((zeroCore n d).onCore n fun k => { k with state := .scrubbed })

/-- SLUICE_SCRUB_DONE (R342): a drained unit is scrubbed and released, or out of service where it is being retired. -/
def doScrubDone (word : Nat) (w : Wk) : Wk :=
  match unitOf word with
  | none => w
  | some (k, n) =>
    match w.dev.sched.leaving.find? fun u => u.kind == k && u.num == n with
    | none => w
    | some u =>
      if !u.published || !u.left.isEmpty || unitBusy w.dev k n then w
      else
        let w := w.on fun d => d.onSched fun s => { s with leaving := s.leaving.filter fun y => !(y.kind == k && y.num == n) }
        let w := match k with
          | .core => w.on fun d => if u.retiring then scrubbedCore n d else zeroCore n d
          | .chan => (scrubChan n w).on fun d => d.onChan n fun c =>
              { c with target := none, copied := false, state := if u.retiring then .retired else c.state }
          | .port => w.on (erasePort n u.retiring)
        let w := if u.retiring && k != .core && (w.dev.unit k n).returning then w.on (startReturn k n) else w
        if u.vdev < 256 then
          w.on fun d => tellReleased u.vdev u.epoch (if u.retiring then d
            else d.onSched fun s => { s with released := s.released ++ [⟨k, n, u.vdev, u.epoch⟩] })
        else w

/-- SLUICE_SCRUB_DONE. -/
def execSluiceScrubDone (u : BitVec 32) (s : State) : Out := runMem (doScrubDone u.toNat) s

/-- SLUICE_OVERDUE (R343): a drain bound has passed; the unit stays SLUICED and the manager is told. -/
def doOverdue (word : Nat) (d : Dev) : Dev :=
  match unitOf word with
  | none => d
  | some (k, n) =>
    match d.sched.leaving.find? fun u => u.kind == k && u.num == n with
    | none => d
    | some u =>
      if u.overdue || !u.published || u.left.isEmpty then d
      else
        let mark (y : Leaving) : Leaving := if y.kind == k && y.num == n then { y with overdue := true } else y
        let d := d.onSched fun s => { s with leaving := s.leaving.map mark }
        let body := natLe 4 u.epoch.toNat ++ natLe 4 0 ++ natLe 4 word
        let d := postEvent mgr 7 word body d
        if u.vdev < 256 then
          raiseNotice noticeOverdue u.vdev [u.epoch, BitVec.ofNat 32 word] (postEvent u.vdev 7 word body d)
        else d

/-- SLUICE_OVERDUE. -/
def execSluiceOverdue (u : BitVec 32) (s : State) : Out := runDev (fun _ d => doOverdue u.toNat d) s

/-! ## Self-tests of cores (R4, R156 … R159) -/

/-- Cores of a cluster that count as serviceable. -/
def serviceableIn (d : Dev) (c : Nat) : List Nat := coresIn d c .serviceable

/-- A core that passed its self-test is serviceable while its cluster has fewer than 64, else in reserve. -/
def admitCore (n : Nat) (d : Dev) : Dev :=
  let full := decide (64 ≤ (serviceableIn d (n / 68)).length)
  d.onCore n fun k => { k with state := if full then .spare else .serviceable }

/-- CORE_SELF_TEST_DONE (R156 … R159, R494): a core in self-test or returning is admitted, or retired. A reserve core's test
ends the retirement that started it; after a failed test the next reserve core is tested. A bound core that fails is replaced
under R159 (R501). -/
def doSelfTest (n : Nat) (pass : Bool) (d : Dev) : Dev :=
  let c := n / 68
  let st := (d.core n).state
  if st != .testing && st != .returning then d
  else
    let d := raiseSrc (2 + c) (n % 68) d
    let d := endReturn .core n pass d
    if st == .returning then
      if pass then admitCore n d else setCause .core n 1 (d.onCore n fun k => { k with state := .retired })
    else if pass then
      let d := if (d.unit .core n).adminOut then setCause .core n 3 (d.onCore n fun k => { k with state := .retired }) else admitCore n d
      nextSpare c (((coresIn d c .scrubbed).take 1).foldl (fun d n => settleCore n d) d)
    else if (d.boundTo .core n).isSome then
      settleCore n (setCause .core n 1 (d.onCore n fun k => { k with state := .scrubbed }))
    else nextSpare c (setCause .core n 1 (d.onCore n fun k => { k with state := .retired }))

/-- CORE_SELF_TEST_DONE. -/
def execCoreSelfTestDone (n : CoreId) (pass : Bool) (s : State) : Out := runDev (fun _ d => announcing (doSelfTest n.val pass) d) s

end Sys2Proof.Machine
end

