-- ==== Sys2Proof/Machine/Xts.lean ====
section
/-! DEFINITION. What a stack holds for a line (R212, R213, R220): its ciphertext under AES-256-XTS (FIPS 197, IEEE 1619) with the
line index as tweak, and the parity bits in its metadata. -/

namespace Sys2Proof.Machine

open Sys2Proof

/-! ## AES-256 -/

/-- Multiplication by x in the field of AES. -/
def timesX (a : Byte) : Byte := (a <<< 1) ^^^ (if a.msb then 0x1B else 0)

/-- The product in the field of AES. -/
def fieldMul (a b : Byte) : Byte :=
  ((List.range 8).foldl (fun (p : Byte × Byte) i => (if b.getLsbD i then p.1 ^^^ p.2 else p.1, timesX p.2)) (0, a)).1

/-- The inverse, which is the 254th power: the product of the powers 2, 4 … 128. -/
def fieldInv (a : Byte) : Byte :=
  ((List.range 7).foldl (fun (p : Byte × Byte) _ => let s := fieldMul p.2 p.2; (fieldMul p.1 s, s)) (1, a)).1

/-- The byte substitution: the inverse under the affine map of AES. -/
def substitute (a : Byte) : Byte :=
  let b := fieldInv a
  ((List.range 4).map fun i => b.rotateLeft (i + 1)).foldl (· ^^^ ·) (b ^^^ 0x63)

/-- The exclusive or of two byte strings. -/
def xorBytes (a b : List Byte) : List Byte := List.zipWith (· ^^^ ·) a b

/-- The next word of the key schedule of a 256-bit key, from the eight before it. -/
def nextKeyWord (i : Nat) (ws : List (List Byte)) : List Byte :=
  let last := ws.getD (i - 1) []
  let turned := (last.drop 1 ++ last.take 1).map substitute
  let round := (List.range (i / 8 - 1)).foldl (fun c _ => timesX c) (1 : Byte)
  xorBytes (ws.getD (i - 8) [])
    (if i % 8 = 0 then xorBytes turned [round, 0, 0, 0] else if i % 8 = 4 then last.map substitute else last)

/-- The 15 round keys. -/
def roundKeys (key : List Byte) : List (List Byte) :=
  let first := (List.range 8).map fun i => (key.drop (4 * i)).take 4
  let ws := (List.range 52).foldl (fun ws i => ws ++ [nextKeyWord (i + 8) ws]) first
  (List.range 15).map fun r => ((ws.drop (4 * r)).take 4).flatten

/-- Substitution and row shift of a block of 16 bytes, four to a column. -/
def shiftRows (s : List Byte) : List Byte :=
  (List.range 16).map fun i => substitute (s.getD ((i + 4 * (i % 4)) % 16) 0)

/-- The column mix. -/
def mixColumns (s : List Byte) : List Byte :=
  (List.range 16).map fun i =>
    let at_ (k : Nat) : Byte := s.getD (i / 4 * 4 + (i + k) % 4) 0
    timesX (at_ 0) ^^^ (timesX (at_ 1) ^^^ at_ 1) ^^^ at_ 2 ^^^ at_ 3

/-- AES-256 on one block. -/
def aes256 (keys : List (List Byte)) (block : List Byte) : List Byte :=
  let k (i : Nat) : List Byte := keys.getD i []
  let s := (List.range 13).foldl (fun s i => xorBytes (mixColumns (shiftRows s)) (k (i + 1))) (xorBytes block (k 0))
  xorBytes (shiftRows s) (k 14)

/-! ## XTS -/

/-- The tweak of the next block: multiplication by the primitive element of the 128-bit field. -/
def nextTweak (t : List Byte) : List Byte :=
  let x := leNat t * 2
  natLe 16 (if bitAt x 128 then (x % 2 ^ 128) ^^^ 0x87 else x)

/-- A 64-byte data unit encrypted under a key pair with a tweak. -/
def xtsLine (k1 k2 : List Byte) (tweak : Nat) (line : List Byte) : List Byte :=
  let ks := roundKeys k1
  let t0 := aes256 (roundKeys k2) (natLe 16 tweak)
  ((List.range 4).foldl (fun (p : List Byte × List Byte) i =>
    (p.1 ++ xorBytes (aes256 ks (xorBytes ((line.drop (16 * i)).take 16) p.2)) p.2, nextTweak p.2)) ([], t0)).1

/-! ## A line in its stack -/

/-- The 64 bytes of a key pair. -/
def keyPair (k : KeyId) : List Byte :=
  natLe 64 (match k with
    | .slot0 => Config.slotZeroKey
    | .gen n => Config.randomBits n
    | .imported x => x).toNat

/-- The ciphertext that the stack holds for a line, each of whose bytes was written under one key. -/
def stackLine (w : Wk) (a : Nat) : List Byte :=
  let key := (w.rawAt (lineOf a)).1
  xtsLine ((keyPair key).take 32) ((keyPair key).drop 32) (lineIndex a) (w.bytes key (lineOf a) 64)

/-- The parity of a byte. -/
def byteParity (b : Byte) : Bool := ((List.range 8).countP fun i => b.getLsbD i) % 2 == 1

/-- The 64 parity bits in the metadata of a line: one for each byte of ciphertext, all inverted where the line is poisoned (R213,
R220). DESIGN CHOICE: a parity bit is the exclusive or of its byte's bits. -/
def stackParity (w : Wk) (a : Nat) : List Bool := (stackLine w a).map fun b => byteParity b != poisoned w.dev (lineOf a)

/-- The check of a read (R213): the stored parity against the parity of what the stack returns. -/
def parityHolds (stored : List Bool) (line : List Byte) : Bool := stored == line.map byteParity

end Sys2Proof.Machine
end

