-- ==== Sys2Proof/Machine/Gcm.lean ====
section
/-! DEFINITION. AES-GCM-256 (NIST SP 800-38D), by which the flits of a fabric session are sealed (R383). -/

namespace Sys2Proof.Machine

open Sys2Proof

/-- A block of 16 bytes as the number of GCM, its first byte the most significant. -/
def blockNat (bs : List Byte) : BitVec 128 := BitVec.ofNat 128 (leNat ((bs ++ List.replicate (16 - bs.length) 0).take 16).reverse)

/-- The block of a number. -/
def natBlock (x : BitVec 128) : List Byte := (natLe 16 x.toNat).reverse

/-- The product in the field of GCM. -/
def ghashMul (x y : BitVec 128) : BitVec 128 :=
  ((List.range 128).foldl (fun (p : BitVec 128 × BitVec 128) i =>
    (if x.getMsbD i then p.1 ^^^ p.2 else p.1, if p.2.getLsbD 0 then (p.2 >>> 1) ^^^ (0xE1#128 <<< 120) else p.2 >>> 1)) (0, y)).1

/-- The blocks of a byte string, the last filled with zeros. -/
def gcmBlocks (bs : List Byte) : List (BitVec 128) :=
  (List.range ((bs.length + 15) / 16)).map fun i => blockNat ((bs.drop (16 * i)).take 16)

/-- The counter block of a 96-bit nonce. -/
def gcmCounter (nonce : List Byte) (i : Nat) : List Byte := nonce ++ (natLe 4 i).reverse

/-- The tag of a ciphertext with its additional authenticated data. -/
def gcmTag (key nonce aad cipher : List Byte) : BitVec 128 :=
  let ks := roundKeys key
  let h := blockNat (aes256 ks (List.replicate 16 0))
  let lens : BitVec 128 := BitVec.ofNat 128 (8 * aad.length * 2 ^ 64 + 8 * cipher.length)
  ((gcmBlocks aad ++ gcmBlocks cipher ++ [lens]).foldl (fun y b => ghashMul (y ^^^ b) h) 0) ^^^ blockNat (aes256 ks (gcmCounter nonce 1))

/-- The key stream over a text: it encrypts a plaintext and decrypts a ciphertext. -/
def gcmText (key nonce text : List Byte) : List Byte :=
  let ks := roundKeys key
  (List.range ((text.length + 15) / 16)).flatMap fun i => xorBytes ((text.drop (16 * i)).take 16) (aes256 ks (gcmCounter nonce (i + 2)))

end Sys2Proof.Machine
end

