-- ==== Sys2Proof/Machine/Reedbed.lean ====
section
/-! DEFINITION. The reedbed's packets (Table 8-7), virtual channels (R191), routes (R192), arbitration (R193), endpoint limits
(R194), the links' acknowledgements and resends (R199) and the detours of retired links (R200). -/

namespace Sys2Proof.Machine

open Sys2Proof

/-! ## Packets and endpoints (R197) -/

/-- `KIND` of a packet header. -/
def pkKind (h : BitVec 128) : Nat := bits h.toNat 127 124
/-- `VC`. -/
def pkVc (h : BitVec 128) : Nat := bits h.toNat 123 122
/-- `LEN`. -/
def pkLen (h : BitVec 128) : Nat := bits h.toNat 121 119
/-- `DEST`. -/
def pkDest (h : BitVec 128) : BitVec 12 := BitVec.ofNat 12 (bits h.toNat 118 107)
/-- `SRC`. -/
def pkSrc (h : BitVec 128) : BitVec 12 := BitVec.ofNat 12 (bits h.toNat 106 95)
/-- `TAG`. -/
def pkTag (h : BitVec 128) : BitVec 16 := BitVec.ofNat 16 (bits h.toNat 86 71)
/-- `ADDR`. -/
def pkAddr (h : BitVec 128) : Nat := bits h.toNat 47 0

/-- A header of its fields (Table 8-7). -/
def packetHeader (kind vc len : Nat) (dest src : BitVec 12) (vdev tag keySlot addr : Nat) : BitVec 128 :=
  BitVec.ofNat 128 (kind * 2 ^ 124 + vc * 2 ^ 122 + len * 2 ^ 119 + dest.toNat * 2 ^ 107 + src.toNat * 2 ^ 95 + vdev * 2 ^ 87 +
    tag * 2 ^ 71 + keySlot * 2 ^ 61 + addr)

/-- The virtual channels that carry a kind of packet (Table 8-5): memory requests of threads on VC1, of movers and hosts on
VC2, of scrubs and repairs on VC3, with their responses beside them; control on VC0; bulk on VC2; management on VC3. DESIGN CHOICE (log entry 76): the rules name no
kind for allocator requests and range-table walks, which Table 8-5 puts on VC1; CONTROL passes on VC0 alone. -/
def kindVcs (kind : Nat) : List Nat :=
  if kind = 0 ∨ 11 < kind then []
  else if kind ≤ 6 then [1, 2, 3] else if kind ≤ 9 then [2] else if kind = 10 then [0] else [3]

/-- The payload of a kind, in units of 32 bytes (R197, R198). -/
def kindLens (kind : Nat) : List Nat :=
  if kind = 1 ∨ kind = 4 then [0]
  else if kind = 3 then [2, 3]
  else if kind = 9 then [3]
  else if kind = 8 then [1, 2, 3, 4]
  else [0, 1, 2, 3, 4]

/-- The router of cluster c numbered r, as router 4c + r (R184). -/
def routerAt (n : Nat) : Nat × Nat :=
  let c := n / 4
  (2 * (c % 16) + n % 2, if c < 16 then (if n % 4 < 2 then 0 else 1) else (if n % 4 < 2 then 3 else 2))

/-- The router at which attachment port q attaches (Table 8-1): 0 … 63 the MC ports, 64 … 79 the LX dies, 80 … 83 the hub
ports. -/
def attachRouter (q : Nat) : Nat × Nat :=
  if q < 64 then portRouter q
  else if q < 80 then (if q < 72 then (0, (q - 64) / 2) else (31, (q - 72) / 2))
  else ((if q < 82 then 0 else 31), q % 2 + 1)

/-- An attachment link. -/
def attachLink (q : Nat) : List (LinkId × Nat × Nat) := if h : q < 84 then [(.attach ⟨q, h⟩, attachRouter q)] else []
/-- A core port. -/
def coreLink (r : Nat) : List (LinkId × Nat × Nat) := if h : r < 128 then [(.corePort ⟨r, h⟩, routerAt r)] else []

/-- The links of an endpoint (Table 8-8), each with its router: a core uses the core port of router i div 17 of its cluster,
the cluster control core shares that of router 3 (R184). -/
def endpLinks (ep : Nat) : List (LinkId × Nat × Nat) :=
  if ep < 2176 then coreLink (4 * (ep / 68) + ep % 68 / 17)
  else if 0x900 ≤ ep ∧ ep < 0x920 then coreLink (4 * (ep - 0x900) + 3)
  else if 0xA00 ≤ ep ∧ ep < 0xA20 then attachLink (2 * (ep - 0xA00)) ++ attachLink (2 * (ep - 0xA00) + 1)
  else if 0xB00 ≤ ep ∧ ep < 0xB10 then attachLink (64 + (ep - 0xB00))
  else if 0xC00 ≤ ep ∧ ep < 0xC02 then attachLink (80 + 2 * (ep - 0xC00)) ++ attachLink (81 + 2 * (ep - 0xC00))
  else []

/-- A packet the reedbed carries (R191, R194, R197): known kind, channel and endpoints, a payload of LEN units that the kind
admits, and at most 32 bytes of it on VC0. -/
def packetOk (h : BitVec 128) (payload : List Byte) : Bool :=
  (kindVcs (pkKind h)).contains (pkVc h) && (kindLens (pkKind h)).contains (pkLen h) && payload.length == 32 * pkLen h &&
    !(endpLinks (pkSrc h).toNat).isEmpty && !(endpLinks (pkDest h).toNat).isEmpty && (pkVc h != 0 || decide (pkLen h ≤ 1))

/-! ## Routes (R192, R200) -/

/-- The x link between columns a and a + 1 of a row, in a direction. -/
def xHop (a y : Nat) (east : Bool) : List Hop := if h : a < 31 ∧ y < 4 then [(.x ⟨a, h.1⟩ ⟨y, h.2⟩, east)] else []
/-- The y link between rows a and a + 1 of a column, in a direction. -/
def yHop (x a : Nat) (south : Bool) : List Hop := if h : x < 32 ∧ a < 3 then [(.y ⟨x, h.1⟩ ⟨a, h.2⟩, south)] else []

/-- The hop from one position to its neighbour. -/
def meshHop (p q : Nat × Nat) : List Hop :=
  if p.2 = q.2 then xHop (min p.1 q.1) p.2 (decide (p.1 < q.1)) else yHop p.1 (min p.2 q.2) (decide (p.2 < q.2))

/-- The other row of a die row. -/
def otherRow (y : Nat) : Nat := y / 2 * 2 + (1 - y % 2)
/-- The neighbouring column of a half. -/
def otherCol (x : Nat) : Nat := x / 2 * 2 + (1 - x % 2)

/-- One hop, or its detour where its link is retired (R200): an x link through the other row of its die row, a y link through
the neighbouring column of its half. Either adds two hops. DESIGN CHOICE (log entry 76): where the detour has a retired link too, as after
a router has failed, the first other row or column whose hops are all in service is taken. -/
def hopOrDetour (retired : List LinkId) (p q : Nat × Nat) : List Hop :=
  let hop := meshHop p q
  let out (l : List Hop) : Bool := l.any fun h => retired.contains h.1
  let row (y : Nat) : List Hop := meshHop p (p.1, y) ++ meshHop (p.1, y) (q.1, y) ++ meshHop (q.1, y) q
  let col (x : Nat) : List Hop := meshHop p (x, p.2) ++ meshHop (x, p.2) (x, q.2) ++ meshHop (x, q.2) q
  if !out hop then hop
  else
    let ways := if p.2 = q.2 then row (otherRow p.2) :: ((List.range 4).filter fun y => y != p.2 && y != otherRow p.2).map row
      else col (otherCol p.1) :: ((List.range 32).filter fun x => x != p.1 && x != otherCol p.1).map col
    (ways.find? fun l => !out l).getD ((if p.2 = q.2 then row (otherRow p.2) else col (otherCol p.1)))

/-- The positions from one coordinate to another, the first left out. -/
def towards (a b : Nat) : List Nat :=
  if a ≤ b then (List.range (b - a)).map (a + 1 + ·) else (List.range (a - b)).map (a - 1 - ·)

/-- The hops through a list of positions. -/
def hopsThrough (retired : List LinkId) (p : Nat × Nat) : List (Nat × Nat) → List Hop
  | [] => []
  | q :: qs => hopOrDetour retired p q ++ hopsThrough retired q qs

/-- The parity of a number's bits. -/
def xorBits (n k : Nat) : Nat := ((List.range k).filter fun i => n.testBit i).length % 2

/-- The stripe bit of a VC2 packet (R192): over bits [13:6] of ADDR, or [9:2] of the index of a peat message. -/
def stripeBit (h : BitVec 128) : Nat :=
  if pkKind h = 8 ∨ pkKind h = 9 then xorBits (bits (pkAddr h) 9 2) 8 else xorBits (bits (pkAddr h) 13 6) 8

/-- The stripe row of a die row: the memory-edge row where the stripe bit is 0, the inner row where it is 1 (R192). -/
def stripeRow (y bit : Nat) : Nat := if y < 2 then bit else 3 - bit

/-- Whether a path along x crosses a boardwalk, between columns 4m + 1 and 4m + 2. -/
def crossesBoardwalk (x0 x1 : Nat) : Bool := (routeX x0 x1).any fun a => a % 4 == 1

/-- The route between two routers (R192): along x in the source's row, then along y; a VC2 packet that crosses a boardwalk
goes along x in its stripe row. -/
def meshRoute (retired : List LinkId) (h : BitVec 128) (s t : Nat × Nat) : List Hop :=
  let row := if pkVc h = 2 && crossesBoardwalk s.1 t.1 then stripeRow s.2 (stripeBit h) else s.2
  hopsThrough retired s ((towards s.2 row).map (fun y => (s.1, y)) ++ (towards s.1 t.1).map (fun x => (x, row)) ++
    (towards row t.2).map fun y => (t.1, y))

/-- The link by which an endpoint is reached from a router: one in service, the nearer router first (R200). -/
def endpLink (retired : List LinkId) (ep : Nat) (s : Nat × Nat) : Option (LinkId × Nat × Nat) :=
  let far (l : LinkId × Nat × Nat) : Nat := (routeX s.1 l.2.1).length + (routeX s.2 l.2.2).length
  let ls := (endpLinks ep).filter fun l => !retired.contains l.1
  ls.foldl (fun b l => match b with
    | none => some l
    | some k => if far l < far k then some l else some k) none

/-- The links a packet takes after it was injected over one of its source's links. -/
def routeOf (retired : List LinkId) (h : BitVec 128) (s : Nat × Nat) : List Hop :=
  match endpLink retired (pkDest h).toNat s with
  | none => []
  | some (l, t) => meshRoute retired h s t ++ [(l, true)]

/-! ## Router outputs (R193) -/

/-- The state of a link direction. -/
def Net.link (x : Net) (h : Hop) : LinkSt :=
  ((x.links.find? fun e => e.1 == h).map Prod.snd).getD ⟨[], 0, 0, none, [], 0⟩
/-- Change the state of a link direction. -/
def Net.onLink (x : Net) (h : Hop) (f : LinkSt → LinkSt) : Net :=
  { x with links := (x.links.filter fun e => e.1 != h) ++ [(h, f (x.link h))] }

/-- The oldest waiting packet of a channel. -/
def LinkSt.first (o : LinkSt) (vc : Nat) : Option Flight := o.waiting.find? fun f => pkVc f.hdr == vc

/-- The channel that a router output grants next (R193): VC0 when it has a packet; else VC1, but for at most 3 of 4 grants
while VC2 or VC3 wait; else VC2 and VC3 in the ratio 15 : 1. -/
def LinkSt.nextVc (o : LinkSt) : Option Nat :=
  let has (vc : Nat) : Bool := (o.first vc).isSome
  if has 0 then some 0
  else if has 1 && (!(has 2 || has 3) || decide (o.vc1Run < 3)) then some 1
  else if has 3 && (!has 2 || decide (15 ≤ o.vc2Run)) then some 3
  else if has 2 then some 2 else none

/-- The packet that a router output grants next. -/
def LinkSt.grant (o : LinkSt) : Option Flight := o.nextVc.bind o.first

/-- The output after the grant of a packet: it leaves the waiting packets, and the counts of R193 follow. -/
def LinkSt.granted (o : LinkSt) (f : Flight) : LinkSt :=
  let others := (o.first 2).isSome || (o.first 3).isSome
  let vc := pkVc f.hdr
  { o with
    waiting := o.waiting.erase f
    vc1Run := if vc = 1 then (if others then o.vc1Run + 1 else 0) else if vc = 0 then o.vc1Run else 0
    vc2Run := if vc = 2 then (if (o.first 3).isSome then o.vc2Run + 1 else 0) else if vc = 3 then 0 else o.vc2Run }

/-- A packet waits at the output that drives its next link. -/
def Net.enqueue (x : Net) (f : Flight) : Net :=
  match f.route with
  | [] => x
  | h :: _ => x.onLink h fun o => { o with waiting := o.waiting ++ [f] }

/-! ## Injection and delivery (R191, R194) -/

/-- Whether a kind asks for a response, and what kind that is (Table 8-7). -/
def responseKind (kind : Nat) : Option Nat :=
  if kind = 1 then some 2 else if kind = 3 then some 4 else if kind = 5 then some 6 else none

/-- Whether a kind is a response. -/
def isResponse (kind : Nat) : Bool := kind == 2 || kind == 4 || kind == 6

/-- Whether an endpoint may inject a packet now: at most 16 VC0 packets of it in flight, buffer space for the response of a
request, and a response on the channel of its request. DEDUCED: the space for a response is named by its tag. -/
def Net.mayInject (x : Net) (h : BitVec 128) (payload : List Byte) : Bool :=
  packetOk h payload && (pkVc h != 0 || decide (Tab.getD x.vc0 (pkSrc h).toNat 0 < 16)) &&
    (if isResponse (pkKind h) then x.owed.contains (pkDest h, pkTag h, pkVc h)
     else (responseKind (pkKind h)).isNone || !(x.owed.any fun e => e.1 == pkSrc h && e.2.1 == pkTag h))

/-- A packet is on its way: it counts among its source's VC0 packets, and a request is owed its response. -/
def Net.injected (x : Net) (h : BitVec 128) : Net :=
  { x with
    vc0 := if pkVc h = 0 then Tab.put x.vc0 (pkSrc h).toNat (Tab.getD x.vc0 (pkSrc h).toNat 0 + 1) else x.vc0
    owed := if (responseKind (pkKind h)).isSome then x.owed ++ [(pkSrc h, pkTag h, pkVc h)] else x.owed }

/-- A packet is accepted at its destination's port: a VC0 packet is no longer in flight, a response takes its space. -/
def Net.accepted (x : Net) (h : BitVec 128) : Net :=
  { x with
    vc0 := if pkVc h = 0 then Tab.put x.vc0 (pkSrc h).toNat (Tab.getD x.vc0 (pkSrc h).toNat 0 - 1) else x.vc0
    owed := if isResponse (pkKind h) then x.owed.erase (pkDest h, pkTag h, pkVc h) else x.owed }

/-- A sender inside the block puts a packet on the reedbed: it waits at the first of its links. -/
def Net.send (x : Net) (h : BitVec 128) (payload : List Byte) : Net :=
  if !x.mayInject h payload then x
  else match (endpLinks (pkSrc h).toNat).find? fun l => !x.retired.contains l.1 with
    | none => x
    | some (l, s) => (x.injected h).enqueue ⟨h, payload, (l, false) :: routeOf x.retired h s⟩

/-- The packets of a peat-fragment message from a run of its fragments (R198): up to four consecutive fragments each. -/
def fragPackets (dest src : BitVec 12) (vdev msg : Nat) : Nat → Nat → List (BitVec 256) → List (BitVec 128 × List Byte)
  | 0, _, _ => []
  | k + 1, first, fs =>
    if fs.isEmpty then []
    else
      let now := fs.take 4
      (packetHeader 8 2 now.length dest src vdev 0 0 (msg * 2 ^ 32 + first), now.flatMap fun f => natLe 32 f.toNat) ::
        fragPackets dest src vdev msg k (first + 4) (fs.drop 4)

/-- The packet of a full word (R198). -/
def wordPacket (dest src : BitVec 12) (vdev msg ordinal : Nat) (w : BitVec 768) : BitVec 128 × List Byte :=
  (packetHeader 9 2 3 dest src vdev 0 0 (msg * 2 ^ 32 + ordinal), natLe 96 w.toNat)

/-! ## What a link receives (R199) -/

/-- The packet that a link direction carries next: the one in the retry buffer, else the granted one. A link from an endpoint
into the mesh also carries a packet that the endpoint injects now. -/
def Net.carried (x : Net) (h : Hop) (hdr : BitVec 128) (payload : List Byte) : Option Flight :=
  let o := x.link h
  match o.retry with
  | some (f, _) => if f.hdr == hdr && f.payload == payload then some f else none
  | none =>
    match o.grant with
    | some f => if f.hdr == hdr && f.payload == payload then some f else none
    | none =>
      match (endpLinks (pkSrc hdr).toNat).find? fun l => l.1 == h.1 with
      | some (_, s) => if !h.2 && x.mayInject hdr payload then some ⟨hdr, payload, h :: routeOf x.retired hdr s⟩ else none
      | none => none

/-- Whether a packet enters the reedbed with this crossing of its first link. -/
def Net.enters (x : Net) (h : Hop) : Bool := (x.link h).retry.isNone && (x.link h).grant.isNone

/-- A packet was received in error: it stays in the sender's retry buffer, one more failure beside it. -/
def LinkSt.failed (o : LinkSt) (f : Flight) (now : BitVec 64) : LinkSt :=
  match o.retry with
  | some (g, n) => { o with retry := some (g, n + 1), errors := o.errors ++ [now] }
  | none => { o.granted f with retry := some (f, 1), errors := o.errors ++ [now] }

/-- A packet was accepted under the next link sequence number: its sender's retry buffer is free of it. -/
def LinkSt.passed (o : LinkSt) (f : Flight) : LinkSt :=
  match o.retry with
  | some _ => { o with retry := none, accepted := o.accepted + 1 }
  | none => { o.granted f with accepted := o.accepted + 1 }

/-- The route of a packet with the retired links of it replaced by their detours; at an endpoint of two ports the other port
takes the place of a lost one (R200). -/
def reroute (retired : List LinkId) (f : Flight) : Flight :=
  match f.route with
  | (l, away) :: rest =>
    if !((l, away) :: rest).any (fun h => retired.contains h.1) then f
    else
      let from? : Option (Nat × Nat) := match l, away with
        | .x c r, e => some (if e then c.val else c.val + 1, r.val)
        | .y c r, e => some (c.val, if e then r.val else r.val + 1)
        | .attach q, true => some (attachRouter q.val)
        | .corePort r, true => some (routerAt r.val)
        | _, false => none
      match from? with
      | some s => { f with route := routeOf retired f.hdr s }
      | none =>
        match (endpLinks (pkSrc f.hdr).toNat).find? fun l => !retired.contains l.1 with
        | some (l, s) => { f with route := (l, false) :: routeOf retired f.hdr s }
        | none => { f with route := [] }
  | [] => f

/-- A link leaves service (R200): what waits for it, or lies in its retry buffer, goes on by the detour, and so does every
packet whose route uses it. -/
def Net.detour (x : Net) (l : LinkId) : Net :=
  let retired := x.retired ++ [l]
  let moved := x.links.flatMap fun e => if e.1.1 == l then (e.2.retry.map Prod.fst).toList ++ e.2.waiting else []
  let kept := x.links.map fun e =>
    if e.1.1 == l then (e.1, { e.2 with
      waiting := []
      retry := none })
    else (e.1, { e.2 with
      waiting := e.2.waiting.map (reroute retired)
      retry := e.2.retry.map fun r => (reroute retired r.1, r.2) })
  let x : Net := { x with
    retired := retired
    links := kept }
  -- a packet whose route changed at the output it waits for moves to its new output
  let stray (e : Hop × LinkSt) : List Flight := e.2.waiting.filter fun f => f.route.head? != some e.1
  let strays := x.links.flatMap stray
  let x : Net := { x with links := x.links.map fun e => (e.1, { e.2 with waiting := e.2.waiting.filter fun f => f.route.head? == some e.1 }) }
  (moved.map (reroute retired) ++ strays).foldl (fun x f => x.enqueue f) x

end Sys2Proof.Machine
end

