-- ==== Sys2Proof/Machine/Vf.lean ====
section
/-! DEFINITION. Virtual functions: mailboxes (R351 … R357), event controllers (R358 … R362), re-initialisation (R348 …
R350, R523), freeze, save and restore (R365 … R372, R471). -/

namespace Sys2Proof.Machine

open Sys2Proof

/-! ## Mailboxes -/

/-- The number of a mailbox channel. -/
def chanNo : MbxChan → Nat
  | .toMgr v => v.val
  | .fromMgr v => 256 + v.val
  | .notice => 512

/-- The function that sends on a channel; firmware sends notices. -/
def mbxSender : MbxChan → Option Nat
  | .toMgr v => some v.val
  | .fromMgr _ => some mgr
  | .notice => none

/-- The function that receives on a channel. -/
def mbxReceiver : MbxChan → Nat
  | .toMgr _ => mgr
  | .fromMgr v => v.val
  | .notice => mgr

/-- Signal one side of a channel on the vector of its `MBX_IRQ`, if an enable bit of it is set (Table 14-2). -/
def mbxSignal (fn : Nat) (irq : BitVec 32) (en : Nat) (d : Dev) : Dev :=
  if bitAt irq.toNat en then signalVec fn (bits irq.toNat 13 8) d else d

/-- MBX_GO (R352, R353): a sender writes `MBX_CTRL`. -/
def doMbxGo (c : MbxChan) (w : Nat) (d : Dev) : Dev :=
  match mbxSender c with
  | none => d
  | some fn =>
    if !d.barOpen fn then d
    else
      let n := chanNo c
      let d := d.onMbx n fun m => { m with len := BitVec.ofNat 5 (bits w 12 8) }
      let m := d.mbxCh n
      if !bitAt w 0 then d
      else if m.go || m.len.toNat < 8 || 16 < m.len.toNat then d.onMbx n fun m => { m with err := true }
      else mbxSignal (mbxReceiver c) m.irqR 0 (d.onMbx n fun m => { m with go := true, seq := m.seq + 1 })


/-- MBX_WITHDRAW (R354). -/
def doMbxWithdraw (c : MbxChan) (d : Dev) : Dev :=
  match mbxSender c with
  | none => d
  | some fn =>
    if !d.barOpen fn || !(d.mbxCh (chanNo c)).go then d
    else d.onMbx (chanNo c) fun m => { m with go := false, withdrawn := true }

/-- A write of `MBX_CTRL` by the sender (Table 14-3). One that sets both WITHDRAW and GO withdraws first. DESIGN CHOICE (log entry 83). -/
def doMbxCtrl (c : MbxChan) (w : Nat) (d : Dev) : Dev := doMbxGo c w (if bitAt w 1 then doMbxWithdraw c d else d)

/-- MBX_GO. -/
def execMbxGo (c : MbxChan) (w : BitVec 32) (s : State) : Out := runDev (fun _ d => doMbxCtrl c w.toNat d) s

/-- MBX_WITHDRAW. -/
def execMbxWithdraw (c : MbxChan) (s : State) : Out := runDev (fun _ d => doMbxWithdraw c d) s

/-- MBX_DONE (R353): the receiver takes the message that its sequence number names, or sets `MBX_LATE`. -/
def doMbxDone (c : MbxChan) (w : Nat) (d : Dev) : Dev :=
  let m := d.mbxCh (chanNo c)
  if !d.barOpen (mbxReceiver c) then d
  else if m.go && m.seq.toNat == bits w 31 16 then
    let d := d.onMbx (chanNo c) fun m => { m with go := false }
    match mbxSender c with
    | some fn => mbxSignal fn m.irqS 1 d
    | none => d
  else d.onMbx (chanNo c) fun m => { m with late := true }

/-- MBX_DONE. -/
def execMbxDone (c : MbxChan) (w : BitVec 32) (s : State) : Out := runDev (fun _ d => doMbxDone c w.toNat d) s

/-- NOTICE_SEND (R357): the notice first raised goes out once the channel is empty. -/
def doNoticeSend (d : Dev) : Dev :=
  match d.notices with
  | [] => d
  | n :: rest =>
    let m := d.mbxCh 512
    if m.go || !d.schedUp then d
    else
      let words := BitVec.ofNat 32 (n.kind + 65536 * n.vdev) :: BitVec.ofNat 32 n.count ::
        (List.range 6).map fun i => n.detail.getD i 0
      let put (t : Tab (BitVec 32)) (e : BitVec 32 × Nat) : Tab (BitVec 32) := Tab.put t e.2 e.1
      let d := ({ d with notices := rest }).onMbx 512 fun m => { m with
        data := words.zipIdx.foldl put m.data
        len := 8
        go := true
        seq := m.seq + 1 }
      mbxSignal mgr m.irqR 0 d

/-- NOTICE_SEND. -/
def execNoticeSend (s : State) : Out := runDev (fun _ d => doNoticeSend d) s

/-! ## Event controllers -/

/-- The number of a controller: hubs 0 and 1, cluster c at 2 + c. -/
def ctlNo : EvCtl → Nat
  | .hub h => h.val
  | .cluster c => 2 + c.val

/-- Whether a controller serves a processor: a cluster controller serves one. -/
def ctlHas (c : EvCtl) (p : Nat) : Bool :=
  match c with
  | .hub _ => true
  | .cluster _ => p == 0

/-- Change one processor of a controller, and route again (R360). -/
def onProc (c : EvCtl) (p : Nat) (f : EvProc → EvProc) (d : Dev) : Dev :=
  let x := d.evc (ctlNo c)
  d.setEvc (ctlNo c) (x.setProc p (f (x.proc p))).reroute

/-- The source of highest priority, ties to the lower number, among those delivered. -/
def Evc.best (x : Evc) (l : List Nat) : Option Nat :=
  l.foldl (fun b i => match b with
    | none => some i
    | some j => if (x.src j).prio < (x.src i).prio || ((x.src j).prio == (x.src i).prio && decide (i < j)) then some i else b) none

/-- EVC_CLAIM (R362): all pending events of the source are delivered with one claim (R359). A processor that handles nothing and finds
nothing may go to sleep (R360). DESIGN CHOICE (log entry 81): whether it does is free. -/
def doClaim (c : EvCtl) (p : Nat) (d : Dev) : Dev :=
  if !ctlHas c p then d
  else
    let x := d.evc (ctlNo c)
    match x.best (x.proc p).given with
    | none =>
      let (n, d) := d.draw
      onProc c p (fun y => { y with last := 0x3FF, asleep := y.asleep || (y.stack.isEmpty && Config.sleeps n) }) d
    | some i =>
      let prio := (x.src i).prio
      let x := { x with srcs := Tab.put x.srcs i { x.src i with pend := 0, ready := false } }
      onProc c p (fun y => { y with last := BitVec.ofNat 10 i, stack := y.prio :: y.stack, prio := prio })
        (d.setEvc (ctlNo c) x)

/-- EVC_CLAIM. -/
def execEvcClaim (c : EvCtl) (p : Fin 2) (s : State) : Out := runDev (fun _ d => doClaim c p.val d) s

/-- EVC_EOI (R362): the stack is popped; with an empty stack the write is ignored. -/
def doEoi (c : EvCtl) (p : Nat) (d : Dev) : Dev :=
  if !ctlHas c p then d
  else match ((d.evc (ctlNo c)).proc p).stack with
    | [] => d
    | n :: rest => onProc c p (fun y => { y with prio := n, stack := rest }) d

/-- EVC_EOI. -/
def execEvcEoi (c : EvCtl) (p : Fin 2) (s : State) : Out := runDev (fun _ d => doEoi c p.val d) s

/-- EVC_HOLD_TIMER (R359, R361): the hold limit of a source's oldest pending event has passed. -/
def doHold (c : EvCtl) (i : Nat) (d : Dev) : Dev :=
  let x := d.evc (ctlNo c)
  let y := x.src i
  if y.pend = 0 || y.ready then d
  else d.setEvc (ctlNo c) ({ x with srcs := Tab.put x.srcs i { y with ready := true } }).reroute

/-- EVC_HOLD_TIMER. -/
def execEvcHoldTimer (c : EvCtl) (src : Fin 512) (s : State) : Out := runDev (fun _ d => doHold c src.val d) s

/-- EVC_MASK_WRITE (R360): routing is evaluated again. -/
def execEvcMaskWrite (c : EvCtl) (p : Fin 2) (m : Bool) (s : State) : Out :=
  runDev (fun _ d => if ctlHas c p.val then onProc c p.val (fun y => { y with mask := m }) d else d) s

/-! ## Re-initialisation (R317, R350, R523) -/

/-- The slots that a virtual device created fail with 0x0005, and their exports end (R317). -/
def failOwned (v : Nat) (d : Dev) : Dev :=
  ((d.vd v).slots.filter fun s => s.2.inUse && s.2.owned).foldl (fun d s =>
    dropExports v s.1 (sendFence s.2.ref (.fail 5 (BitVec.allOnes 64)) .nobody d)) d

/-- Every queue of a virtual device is destroyed at once (R312 with IMMEDIATE). -/
def destroyQueues (v : Nat) (w : Wk) : Wk :=
  ((w.dev.vd v).queues.map Prod.fst).foldl (fun w q =>
    let w := destroyQueueNow v q w
    if (w.dev.cur? v q).any fun c => c.started then killStarted v q 1 w else w) w

/-- The vectors of a re-initialised function (R350, R363, R364): masked, nothing pending or held, the moderation register at its
reset value; address and data are kept. -/
def resetVecs (t : Tab Vec) : Tab Vec := t.map fun (i, x) => (i, { x with mask := true, pend := false, held := 0, mod := 0 })

/-- The registers of a function after re-initialisation: reset values, but for MSI-X (R363) and the ring windows and phase
counts (R523). An FLR also resets the MSI-X capability, whose Function Mask RESET_FUNCTION keeps (R363). The TEE device interface
enters ERROR (R465). -/
def Fn.reinit (flr : Bool) (f : Fn) : Fn :=
  { Fn.reset with
    vecs := resetVecs f.vecs
    fnMask := !flr && f.fnMask
    reqSlots := f.reqSlots
    respSlots := f.respSlots
    respUsed := f.respUsed
    evSeq := f.evSeq
    tdi := .error
    tdiStream := f.tdiStream }

/-- The taken requests of a function are answered CANCELLED (R523). -/
def cancelTaken (fn : Nat) (d : Dev) : Dev :=
  (d.fn fn).taken.foldl (fun d t => adRespond fn t.1 t.2.tag stCancelled 0 [] d) d

/-- A channel as a reset of its sender leaves it (R356): the receiver's `MBX_IRQ` and `MBX_LATE` stand. -/
def Mbx.senderReset (m : Mbx) : Mbx := { Mbx.reset with irqR := m.irqR, late := m.late }

/-- What a function holds in the address translation services goes (an FLR resets them). -/
def dropAts (fn : Nat) (d : Dev) : Dev :=
  d.onXlt fun x => { x with
    atc := x.atc.filter fun e => e.1 != fn
    atsOut := x.atsOut.filter fun e => e.1 != fn
    pageReqs := x.pageReqs.filter fun r => r.fn != fn
    priWait := x.priWait.filter fun r => r.fn != fn
    priOff := x.priOff.filter (· != fn) }

/-- Re-initialise the function of a virtual device (R350). The composition, the range table and memory stay. A
synchronisation in progress is dropped with every cached entry. -/
def resetVf (v : Nat) (flr : Bool) (w : Wk) : Wk :=
  let w := w.on (failOwned v)
  let w := w.on fun d =>
    let d := d.onVd v fun x => { x with inReset := true, sync := none }
    let d := d.onXlt fun x => { x with
      caches := x.caches.filter fun c => c.2.vdev != v
      buffers := x.buffers.filter fun c => c.2.vdev != v }
    { d with ctxs := d.ctxs.map fun (n, c) => (n, if c.vdev = v then { c with destroying := true } else c) }
  let w := destroyQueues v w
  w.on fun d =>
    let d := cancelTaken v d
    let d := dropFaults v (d.onFn v (Fn.reinit flr))
    let d := (d.onMbx v Mbx.senderReset).onFx fun x => { x with reads := x.reads.filter fun y => y.1 != v }
    finishReset v (if flr then dropAts v d else d)

/-- RESET_FUNCTION (R350): the request is answered when the re-initialisation has ended. -/
def doResetFunction (a : AdReq) (w : Wk) : Ans × Wk :=
  (.later (.reset (fieldLe a.args 0 1)), w)

/-- RESET_FUNCTION: a taken request starts at once. -/
def startReset (fresh : Nat → Bool) (w : Wk) : Wk :=
  match (w.dev.fn mgr).taken.find? fun t => fresh t.1 && (match t.2.op with | .reset _ => true | _ => false) with
  | some (_, ⟨_, .reset v, _⟩) => resetVf v false w
  | _ => w

/-- RESET_FUNCTION. -/
def execResetFunction (s : State) : Out :=
  runMem (fun w =>
    let before := (w.dev.fn mgr).taken.map Prod.fst
    startReset (fun i => !before.contains i) (takeRequest mgr (adRow 0x0302 1) doResetFunction w)) s

/-- A CXL decoder of a port is unbound (R231). -/
def unbindPort (p : Nat) (d : Dev) : Dev :=
  d.onMc fun m => { m with hdm := m.hdm.map fun (i, x) => (i, if i / 4 = p then { x with bound := none } else x) }

/-- TotalVFs of the SR-IOV capability of each physical function (R348, R349). -/
def totalVfs : Nat := 64

/-- The virtual functions of a host port (R348). -/
def portVfs (p : Nat) : List Nat := (List.range totalVfs).map (totalVfs * p + ·)

/-- FUNCTION_LEVEL_RESET (R349, R350): a virtual function, or every one that a carrier function carries. The carrier of
port 0 is the manager function, whose own rings are handled as well (R523). -/
def doFlr (t : FlrTarget) (w : Wk) : Wk :=
  match t with
  | .vf v => if w.dev.barOpen v.val then resetVf v.val true w else w
  | .carrier p =>
    let w := (portVfs p.val).foldl (fun w v => resetVf v true w) w
    let w := w.on (unbindPort p.val)
    if p.val = 0 then
      w.on fun d =>
        let d := (cancelTaken mgr d).onFn mgr (Fn.reinit true)
        (List.range 256).foldl (fun d v => d.onMbx (256 + v) Mbx.senderReset) (dropAts mgr d)
    else w

/-- FUNCTION_LEVEL_RESET. -/
def execFunctionLevelReset (t : FlrTarget) (s : State) : Out := runMem (doFlr t) s

/-- VF_ENABLE (R348): the host enables or disables a virtual function; one that is disabled is re-initialised. -/
def doVfEnable (v : Nat) (on : Bool) (w : Wk) : Wk :=
  if (w.dev.vd v).enabled == on then w
  else
    let w := w.on fun d => d.onVd v fun x => { x with enabled := on }
    if on then w else resetVf v true w

/-- VF_ENABLE. -/
def execVfEnable (v : VDev) (on : Bool) (s : State) : Out := runMem (doVfEnable v.val on) s

/-! ## FREEZE (R366) -/

/-- Whether a window is bound to a virtual device (R235). -/
def Dev.windowed (d : Dev) (v : Nat) : Bool := d.mc.hdm.any fun h => match h.2.bound with | some b => b.1 == v | none => false

/-- FREEZE (R235, R366): no command becomes current or is dispatched. -/
def doFreeze (a : AdReq) (w : Wk) : Ans × Wk :=
  let v := fieldLe a.args 0 1
  if (w.dev.vd v).frozen || w.dev.windowed v then refuse stState w
  else (.later (.freeze v false), w.on fun d => d.onVd v fun x => { x with frozen := true })

/-- The notice of a refused migration request (R372): its status is read from the slot that was answered. -/
def noteRefusal (op : Nat) (before : Dev) (w : Wk) : Wk :=
  match before.nextSlot mgr with
  | none => w
  | some (i, bs) =>
    let st := fieldLe (Tab.getD (w.dev.fn mgr).respSlots i []) 0 2
    if slotOp bs ≠ op || Tab.getD (w.dev.fn mgr).respUsed i 0 = Tab.getD (before.fn mgr).respUsed i 0 || st = stOk || st = stUnknown then w
    else w.on (noteMigration ((bs.drop (if fieldLe bs 8 8 = 0 then 32 else 0)).headD 0).toNat op st)

/-- Run a migration row: the request, and the notice of its refusal. -/
def migrate (op : Nat) (row : AdRow) (body : AdReq → Wk → Ans × Wk) (w : Wk) : Wk :=
  let w := w.on (answerUnknown mgr 32)
  noteRefusal op w.dev (takeRequest mgr row body w)

/-- Every virtual device that a FREEZE waits on is looked at again. -/
def settleAll (d : Dev) : Dev := (d.vds.map Prod.fst).foldl (fun d v => settleFreeze v d) d

/-- FREEZE. -/
def execFreeze (s : State) : Out :=
  runMem (fun w => (migrate 0x0401 { adRow 0x0401 1 with whileA2 := true } doFreeze w).on settleAll) s

/-- Hold the current command of a queue at the end of the grace: an attempt is abandoned unless it has begun a collective
exchange; a command placed and not handed over gives its cores back (Table 14-7 steps 2 and 3). -/
def holdCmd (v q : Nat) (w : Wk) : Wk :=
  match w.dev.cur? v q with
  | none => w
  | some c =>
    if c.phase == .placed then
      w.on fun d => (freeCores c.no d).onCur v q fun c => { c with phase := .checked, cores := [], clusters := [], cohorts := [] }
    else if c.attempting && !(w.dev.fab.exchanges.any fun e => e.cmd == c.no) then abandonCmd v q w
    else w

/-- FREEZE_GRACE_EXPIRY (R366): 20 ms after a FREEZE was taken. -/
def doFreezeGrace (v : Nat) (w : Wk) : Wk :=
  match (w.dev.fn mgr).taken.find? fun t => t.2.op == .freeze v false with
  | none => w
  | some (slot, t) =>
    let w := w.on fun d => (d.advance 0 (t.since + graceTicks)).onFn mgr fun f =>
      { f with taken := Tab.put f.taken slot { t with op := .freeze v true } }
    (((w.dev.vd v).queues.map Prod.fst).foldl (fun w q => holdCmd v q w) w).on (settleFreeze v)

/-- FREEZE_GRACE_EXPIRY. -/
def execFreezeGraceExpiry (v : VDev) (s : State) : Out := runMem (doFreezeGrace v.val) s

/-! ## SAVE (R367, R368, Table 14-8) -/

/-- Section 9 of a blob: every byte of the sets that differs from an unlisted one. -/
def saveMemory (w : Wk) (v : Nat) : List (Nat × Nat × Byte × KeyId) :=
  let as := ((w.mem.cells.map Prod.fst) ++ (w.mem.keys.map Prod.fst)).eraseDups
  (w.dev.setsOf v).flatMap fun (s, e) => as.filterMap fun a =>
    (e.offsetOf a).map fun o => (s, o, w.mem.raw a, w.mem.keyAt a)

/-- Whether data of a virtual device is lost (R371): a poisoned line of a set, or a channel that no longer answers. -/
def Dev.lostData (d : Dev) (v : Nat) : Bool :=
  (d.setsOf v).any fun (_, e) => e.members.any fun m =>
    (d.die (m.1 / 32)).lost || !(d.chan m.1).serves || (d.chan m.1).lost || (d.chan m.1).poison.any fun a => (e.offsetOf a).isSome

/-- Under which number the READ of an imported slot of another package is sent for a SAVE. -/
def saveRead (v slot : Nat) : Nat := 65536 * (v + 1) + slot

/-- What the home of an imported slot has answered for a SAVE: state, value, error code. -/
def savedHome (d : Dev) (v slot : Nat) : Option (Nat × Nat × Nat) :=
  (d.fx.reads.find? fun x => x.1 == mgr && x.2.1 == saveRead v slot).map fun x => x.2.2

/-- The imported slots whose homes have not answered yet (R368). -/
def unreadSlots (d : Dev) (v : Nat) : List (Nat × FSlot) :=
  (d.vd v).slots.filter fun s => s.2.inUse && (match s.2.ref with | .cell _ => false | .proxy pv ps => !d.proxyFailed pv ps) &&
    (savedHome d v s.1).isNone

/-- Ask the homes of imported slots for the states that a SAVE needs, once each. -/
def askHomes (v : Nat) (d : Dev) : Dev :=
  (unreadSlots d v).foldl (fun d s =>
    if d.fx.remote.any fun x => x.src == .admin mgr (saveRead v s.1) then d
    else sendFence s.2.ref .read (.admin mgr (saveRead v s.1)) d) d

/-- The fence slots of a blob: those in use, and cells that only a command still refers to, numbered from 65,536. -/
def saveSlots (d : Dev) (v : Nat) : List (Nat × FSlot × FCell) :=
  let x := d.vd v
  let cell (r : FRef) : FCell := match r with
    | .cell k => if d.cellLost k then { d.cell k with state := 2, error := 0x11, value := 0 } else d.cell k
    | .proxy _ ps =>
      let (st, val, e) := (savedHome d v ps).getD (2, 0, 0x11)
      { FCell.reset with state := st, value := BitVec.ofNat 64 val, error := BitVec.ofNat 16 e }
  let slots := (x.slots.filter fun s => s.2.inUse).map fun s => (s.1, s.2, cell s.2.ref)
  let refs := (x.queues.flatMap fun q => q.2.cmds.flatMap fun c => c.sig.toList ++ c.waits).eraseDups
  let loose := refs.filter fun r => !(slots.any fun s => s.2.1.ref == r)
  slots ++ loose.zipIdx.map fun (r, i) =>
    (65536 + i, { FSlot.reset with ref := r, owned := (match r with | .cell k => (d.cell k).vdev == v | .proxy _ _ => false) }, cell r)

/-- The highest declared level of any command in a blob (Table 14-8). -/
def topAcl (x : Vd) : Nat := ((x.queues.flatMap fun q => q.2.cmds.map Cmd.acl).foldl max 0)

/-- The state blob of a virtual device. -/
def blobOf (w : Wk) (v : Nat) : Blob :=
  let d := w.dev
  let x := d.vd v
  { acl := topAcl x
    feat := (d.fn v).feat
    epoch := x.epoch
    fn := d.fn v
    mbxTo := d.mbxCh v
    mbxFrom := d.mbxCh (256 + v)
    notices := d.notices.filter fun n => n.vdev == v
    keys := (d.mc.keys.filter fun k => k.2.state == .loaded && k.2.vdev == v).map fun k => (k.1, k.2.key)
    table := x.table
    gen := x.gen
    sets := (d.setsOf v).map fun s => (s.1, s.2.log2n, s.2.len, s.2.members.map Prod.snd)
    parts := x.parts
    queues := x.queues
    slots := saveSlots d v
    ctxs := d.ctxs.filter fun c => c.2.vdev == v
    mem := saveMemory w v }

/-- The plaintext of a set, in set-offset order (Table 14-8, section 9). -/
def setPlain (w : Wk) (s : Nat) (e : SetEnt) : List Byte :=
  (List.range (2 ^ e.log2n * e.len * 65536)).map fun o => match decodePa w.dev (s * 2 ^ 38 + o) with
    | some (_, _, c, off) => w.mem.raw (cellAt c off)
    | none => emptyByte

/-- The chunks of 1 MiB of a section. -/
def mibChunks (bs : List Byte) : List (List Byte) :=
  (List.range ((bs.length + 1048575) / 1048576)).map fun i => (bs.drop (1048576 * i)).take 1048576

/-- Header and sealed chunks of a blob (R367): every section is encrypted with AES-GCM-256 in chunks, each with its own nonce of section
and chunk number, and the header carries the digest of the tags in order. DESIGN CHOICE (log entry 84): the header's fields lie in the
order of Table 14-8, a nonce is the section in 4 bytes and the chunk in 8, and the header up to its digest is the additional data. -/
def sealBlob (w : Wk) (v n : Nat) (b : Blob) : List Byte × List (List Byte) :=
  let plain (i : Nat) : List Byte := if i = 9 then (w.dev.setsOf v).flatMap fun s => setPlain w s.1 s.2 else Config.blobSection n i
  let key := natLe 32 (Config.migrationKey n).toNat
  let parts := ((List.range 9).map (· + 1)).flatMap fun i => (mibChunks (plain i)).zipIdx.map fun (bs, j) => (natLe 4 i ++ natLe 8 j, bs)
  let size := 74 + (parts.map fun p => p.2.length + 16).sum
  let head := [0x42, 0x56, 0x4D, 0x42] ++ natLe 4 1 ++ natLe 8 size ++ natLe 4 9 ++ natLe 2 b.acl ++ natLe 16 b.feat.toNat ++ natLe 4 b.epoch.toNat
  let done := parts.map fun p =>
    let c := gcmText key p.1 p.2
    (c, natBlock (gcmTag key p.1 head c))
  (head ++ sha3_256 (done.flatMap Prod.snd), done.map fun p => p.1 ++ p.2)

/-- Where a SAVE writes (R367): to a range of the manager function at the host, chunk after chunk, or to the peer at a port. -/
def writeBlob (kind p addr v : Nat) (x : List Byte × List (List Byte)) (d : Dev) : Dev :=
  ((x.1 :: x.2).foldl (fun (e : Dev × Nat × Nat) bs =>
    (e.1.emit (if kind = 0 then .hostWrite mgr (addr + e.2.1) bs else .blobPart p v e.2.2 bs), e.2.1 + bs.length, e.2.2 + 1)) (d, 0, 0)).1

/-- The number of the next blob. -/
def Dev.nextBlob (d : Dev) : Nat := (d.blobs.map Prod.fst).foldl max 0 + 1

/-- SAVE (R367, R368, R371, R471). The operand says whether the destination is there, authentic and new enough. -/
def doSave (destOk : Bool) (a : AdReq) (w : Wk) : Ans × Wk :=
  let v := fieldLe a.args 0 1
  let d := w.dev
  if 2 ≤ fieldLe a.args 1 1 || 16 ≤ fieldLe a.args 2 1 then refuse stField w
  else if !(d.vd v).frozen || !d.atRest v || d.mgrWaits (DefOp.freezes v) || !destOk then refuse stState w
  else if !d.secUp then (.wait, w)
  else if d.lostData v then (.done stFailed 0x11 [], w)
  else if !(unreadSlots d v).isEmpty then (.wait, w.on (askHomes v))
  else
    let n := d.nextBlob
    let b := blobOf w v
    performed [] (w.on fun d =>
      let d := { d with blobs := Tab.put d.blobs n b, exports := d.exports.filter fun e => e.2.vdev != v }
      let d := d.onFx fun x => { x with reads := x.reads.filter fun y => !(y.1 == mgr && y.2.1 / 65536 == v + 1) }
      noteMigration v 0x0402 stOk (writeBlob (fieldLe a.args 1 1) (fieldLe a.args 2 1) (fieldLe a.args 3 8) v (sealBlob w v n b) (d.emit (.blobOut v n))))

/-- SAVE. -/
def execSave (destOk : Bool) (s : State) : Out :=
  runMem (migrate 0x0402 { adRow 0x0402 19 with whileA2 := true } (doSave destOk)) s

/-! ## RESTORE (R369, R471) -/

/-- Places for the members of saved sets on the channels of a composition, found by trying the channels in ascending order for each: the
members of a set lie on channels of their own, and each at its saved base, or else where other members end. None where the composition
cannot hold every set with its n and LEN (R369). A member to place is set, length and saved base; a placed one is set, length, channel and
base. -/
def placeAll (d : Dev) (chans : List Nat) : List (Nat × Nat × Nat) → List (Nat × Nat × Nat × Nat) → Option (List (Nat × Nat × Nat × Nat))
  | [], got => some got
  | (s, len, b) :: rest, got =>
    chans.findSome? fun c =>
      let here : List (Nat × Nat) := ((d.mc.sets.filter fun y => y.2.valid).flatMap fun y => (y.2.members.filter fun m => m.1 == c).map fun m => (m.2, y.2.len)) ++
        (got.filter fun g => g.2.2.1 == c).map fun g => (g.2.2.2, g.2.1)
      if got.any (fun g => g.1 == s && g.2.2.1 == c) || !(d.chan c).serves then none
      else (([b, 0] ++ here.map fun h => h.1 + h.2).eraseDups.filter fun a =>
          decide (a + len ≤ 23040) && !(here.any (rangesMeet (a, len)))).findSome? fun a =>
        placeAll d chans rest (got ++ [(s, len, c, a)])

/-- Rebuild the saved sets on a composition's channels, and their mirrors (R428). -/
def placeSets (v : Nat) (sets : List (Nat × Nat × Nat × List Nat)) (d : Dev) : Option Dev :=
  let chans := sortBy (fun n => (n, 0)) (d.vd v).chans
  let needs := sets.flatMap fun s => s.2.2.2.map fun b => (s.1, s.2.2.1, b)
  let mirror (o : Option Dev) (s : Nat × Nat × Nat × List Nat) : Option Dev := o.bind fun d =>
    (pickMirrors d (d.vd v) (d.set s.1).members).map fun l => d.onVd v fun x => { x with mirrors := Tab.put x.mirrors s.1 l }
  let placed := (placeAll d chans needs []).map fun got => sets.foldl (fun d s =>
    let ms := (got.filter fun g => g.1 == s.1).map fun g => (g.2.2.1, g.2.2.2)
    d.onMc fun m => { m with sets := Tab.put m.sets s.1 ⟨(d.vd v).epoch, s.2.2.1, v, s.2.1, true, ms⟩ }) d
  if (d.vd v).mirrored then sets.foldl mirror placed else placed

/-- A saved cell as it is restored (R368): a fence of another virtual device that is pending there fails with 0x0005. -/
def restoredCell (v : Nat) (s : FSlot) (c : FCell) : FCell :=
  let c := { c with vdev := v, lost := false }
  if !s.owned && c.state == 1 then { c with state := 2, error := 5 } else c

/-- Restore the fence slots: each fence gets a cell of the destination's dies. Answers where each saved fence went. -/
def placeFences (v : Nat) (slots : List (Nat × FSlot × FCell)) (d : Dev) : Option (List (FRef × FRef) × Dev) :=
  let own := slots.filter fun s => s.2.1.owned
  let rest := slots.filter fun s => !s.2.1.owned
  let one (o : Option (List (FRef × FRef) × Dev)) (s : Nat × FSlot × FCell) : Option (List (FRef × FRef) × Dev) :=
    o.bind fun (mp, d) =>
      let bind (r : FRef) (d : Dev) : Dev :=
        if s.1 < 65536 then d.onVd v fun x => { x with slots := Tab.put x.slots s.1 { s.2.1 with ref := r, pkg := 0 } } else d
      match mp.find? fun m => m.1 == s.2.1.ref with
      | some m => some (mp, bind m.2 d)
      | none =>
        match (d.vd v).dies.findSome? (freeCell d) with
        | none => none
        | some k =>
          let c := restoredCell v s.2.1 s.2.2
          some (mp ++ [(s.2.1.ref, .cell k)], bind (.cell k) (storeSet k (fun old => { c with gen := old.gen + 1 }) d))
  (own ++ rest).foldl one (some ([], d))

/-- Where a saved fence went. -/
def moved (mp : List (FRef × FRef)) (r : FRef) : FRef := ((mp.find? fun m => m.1 == r).map Prod.snd).getD r

/-- A saved command at the destination: new number and fences; the current one is held, to be checked again from its
inputs. -/
def restoredCmd (mp : List (FRef × FRef)) (base : Nat) (nos : List Nat) (cur : Bool) (c : Cmd) : Cmd :=
  let c := { c with no := base + nos.findIdx (· == c.no), sig := c.sig.map (moved mp), waits := c.waits.map (moved mp) }
  if cur then { c with phase := .waiting, waitsOk := [], cores := [], clusters := [], cohorts := [], avoid := [], ran := [] } else c

/-- Restore the queues: device queue numbers, creation numbers and command numbers of the destination. -/
def placeQueues (v : Nat) (b : Blob) (mp : List (FRef × FRef)) (d : Dev) : Dev :=
  let nos := b.queues.flatMap fun q => q.2.cmds.map Cmd.no
  let base := d.sched.nextCmd
  let uid0 := d.sched.nextUid
  let put (d : Dev) (e : (Nat × Queue) × Nat) : Dev :=
    let q := e.1.2
    d.setQueue v e.1.1 { q with
      uid := uid0 + e.2
      devq := lowestFree 0 d.devqs
      cur := q.cur.map (restoredCmd mp base nos true)
      fetched := q.fetched.map (restoredCmd mp base nos false) }
  let d := b.queues.zipIdx.foldl put d
  d.onSched fun s => { s with nextCmd := base + nos.length, nextUid := uid0 + b.queues.length }

/-- Where a saved queue went: its creation number. -/
def newUid (b : Blob) (uid0 : Nat) (uid : Nat) : Nat := uid0 + b.queues.findIdx (fun q => q.2.uid == uid)

/-- Restore the partitions (R369): they enter WARMING; holders and turns follow their queues. -/
def placeParts (v : Nat) (b : Blob) (uid0 : Nat) (d : Dev) : Dev :=
  let turnOf (t : Nat) : Option Nat := (b.queues.find? fun q => q.2.devq == t).bind fun q => (d.queue? v q.1).map Queue.devq
  b.parts.foldl (fun d (i, p) =>
    let p := { p with
      cores := []
      warming := true
      lastPrefetch := d.hlcOf v
      holder := p.holder.map (newUid b uid0)
      jobBy := 0
      turn := p.turn.bind turnOf
      turnStart := d.hlcOf v }
    d.onVd v fun x => { x with parts := Tab.put x.parts i { p with cores := resizeCores d x p p.wanted } }) d

/-- The deferred requests of the saved function, their horizons over the new queues. -/
def restoredTaken (b : Blob) (uid0 : Nat) (t : Taken) : Taken :=
  let renew (h : List (Nat × Nat)) : List (Nat × Nat) := h.map fun e => (newUid b uid0 e.1, e.2)
  match t.op with
  | .destroyFence i h => { t with op := .destroyFence i (renew h) }
  | .release a n f h fs mv => { t with op := .release a n f (renew h) (if f then [] else fs) mv }
  | .destroyContext c g _ => { t with op := .destroyContext c g [] }
  | _ => t

/-- Memory of the sets: what the channels held goes, and the blob's bytes are written under their keys (R212). -/
def restoreMemory (v : Nat) (b : Blob) (w : Wk) : Wk :=
  let as := ((w.mem.cells.map Prod.fst) ++ (w.mem.keys.map Prod.fst)).eraseDups
  let inSets (a : Nat) : Bool := (w.dev.setsOf v).any fun s => (s.2.offsetOf a).isSome
  let w := (as.filter inSets).foldl (fun w a => w.put .slot0 a [emptyByte]) w
  let put (w : Wk) (e : Nat × Nat × Byte × KeyId) : Wk :=
    match decodePa w.dev (e.1 * 2 ^ 38 + e.2.1) with
    | none => w
    | some (_, j, ch, off) =>
      let a := cellAt ch off
      let w := w.put e.2.2.2 a [e.2.2.1]
      match mirrorOf w.dev v e.1 j a with
      | some x => w.put e.2.2.2 x [e.2.2.1]
      | none => w
  b.mem.foldl put w

/-- A saved notice is pending again with its count; one pending here of its kind merges into it (R357). -/
def restoreNotice (v : Nat) (n : Notice) (d : Dev) : Dev :=
  let hit (y : Notice) : Bool := y.kind == n.kind && y.vdev == v
  { d with notices := if d.notices.any hit then updFirst hit (fun y => { y with count := y.count + n.count, detail := n.detail }) d.notices
      else d.notices ++ [{ n with vdev := v }] }

/-- Everything else of a blob: registers, rings, mailboxes, notices, keys, ranges, contexts (Table 14-8). The effective mask is the saved
one and the features of the firmware here (R401). -/
def restoreRest (v : Nat) (b : Blob) (uid0 : Nat) (d : Dev) : Dev :=
  let mask := b.feat &&& d.fw.offered
  let d := d.setFn v { b.fn with
    feat := mask
    xltMode := b.fn.xltMode &&& BitVec.ofNat 32 ((if bitAt mask.toNat 2 then 1 else 0) + (if bitAt mask.toNat 7 then 2 else 0))
    taken := b.fn.taken.map fun t => (t.1, restoredTaken b uid0 t.2)
    tdi := .configUnlocked
    tdiStream := 0 }
  let d := (d.onMbx v fun _ => b.mbxTo).onMbx (256 + v) fun _ => b.mbxFrom
  let d := b.notices.foldl (fun d n => restoreNotice v n d) d
  let d := b.keys.foldl (fun d k => d.onKey k.1 fun _ => ⟨.loaded, v, k.2⟩) d
  let d := { d with ctxs := b.ctxs.foldl (fun t (c : Nat × Ctx) => Tab.put t c.1 { c.2 with vdev := v }) d.ctxs }
  let d := d.onVd v fun x => { x with table := b.table, gen := b.gen, frozen := true }
  if mask = b.feat then d else postEvent v 9 0 (natLe 16 mask.toNat) d

/-- The waits of the restored current commands are registered again. -/
def rewait (v : Nat) (d : Dev) : Dev :=
  (d.vd v).queues.foldl (fun d (q, x) => match x.cur with
    | some c => markEligible v q (registerWaits v q c d)
    | none => d) d

/-- Write a blob into a virtual device whose composition has been made, or answer that something has no place. -/
def restoreBlob (v : Nat) (b : Blob) (w : Wk) : Option Wk :=
  let uid0 := w.dev.sched.nextUid
  (placeSets v b.sets w.dev).bind fun d => (placeFences v b.slots d).map fun (mp, d) =>
    let d := restoreRest v b uid0 (placeQueues v b mp d)
    restoreMemory v b { w with dev := rewait v (placeParts v b uid0 d) }

/-- RESTORE (R369, R471). The operands: the blob that stands at the source the request names, and whether every chunk of it
authenticates. -/
def doRestore (n : Nat) (intact : Bool) (a : AdReq) (w : Wk) : Ans × Wk :=
  let r : Req := ⟨a.args.take 192⟩
  let v := r.vdev
  let d := w.dev
  let x := d.vd v
  let c := changeOf d x r
  if !r.fieldsOk || 2 ≤ fieldLe a.args 192 1 || 16 ≤ fieldLe a.args 193 1 then refuse stField w
  else if r.epoch ≠ x.epoch.toNat then refuse stEpoch w
  else if !d.secUp then (.wait, w)
  else match Tab.get? d.blobs n, intact with
  | some b, true =>
    let keysOk := b.keys.all fun k => (d.keySlot k.1).state == .empty
    let ok := !x.composed && !x.inReset && decide (b.acl ≤ d.fw.aclMax.toNat) && keysOk &&
      b.ctxs.all (fun t => (d.ctx? t.1).isNone) && b.sets.all (fun s => !(d.set s.1).valid) &&
      b.queues.all fun q => decide (q.1 < r.queues)
    let room := decide (b.keys.length ≤ x.quota.toNat) && decide (d.devqs.length + b.queues.length ≤ 4096)
    if !ok then refuse stState w
    else match composeStatus d { x with frozen := false } r c with
    | some st => refuse st w
    | none =>
      if !room then refuse stNoRes w
      else match restoreBlob v b (w.on (applyChange v r c)) with
      | none => refuse stNoRes w
      | some w => performed [] (w.on (noteMigration v 0x0403 stOk))
  | _, _ => (.done stFailed 0 [], w.on (raiseAlarm 0x0D (BitVec.ofNat 16 v)))

/-- RESTORE. -/
def execRestore (blob : Nat) (intact : Bool) (s : State) : Out :=
  runMem (migrate 0x0403 (adRow 0x0403 210) (doRestore blob intact)) s

/-! ## THAW and DISCARD (R370) -/

/-- THAW: the virtual device is released; timers of the held commands start again (R366). A FREEZE not yet complete is
cancelled. -/
def doThaw (a : AdReq) (w : Wk) : Ans × Wk :=
  let v := fieldLe a.args 0 1
  if !(w.dev.vd v).frozen then refuse stState w
  else performed [] (w.on fun d =>
    let d := if d.mgrWaits (DefOp.freezes v) then noteMigration v 0x0401 stState (answerMgr (DefOp.freezes v) stState d) else d
    let again (c : Cmd) : Cmd := if c.held then { c with start := d.hlcOf v } else c
    let d := d.onVd v fun x => { x with
      frozen := false
      queues := x.queues.map fun (q, y) => (q, { y with cur := y.cur.map again }) }
    d)

/-- THAW. -/
def execThaw (s : State) : Out :=
  runMem (migrate 0x0404 { adRow 0x0404 1 with whileA2 := true } doThaw) s

/-- Erase every key slot of a virtual device (R470). -/
def eraseKeys (v : Nat) (d : Dev) : Dev :=
  eraseSlots (fun i k => i != 0 && k.vdev == v && (k.state == .loaded || k.state == .erasing)) d

/-- Destroy a virtual device: its sets, partitions and table go, and its units pass the sluice (R317, R370). -/
def destroyVd (v : Nat) (d : Dev) : Dev :=
  let old := d.vd v
  let out := (old.cores ++ old.reserve).map (fun n => (UnitKind.core, n)) ++ old.chans.map (fun n => (UnitKind.chan, n)) ++
    ((List.range 16).filter fun p => bitAt old.ports.toNat p).map fun p => (UnitKind.port, p)
  let d := d.onMc fun m => { m with sets := m.sets.map fun (i, e) =>
    (i, if e.vdev = v then { e with valid := false, members := [] } else e) }
  let d := d.onVd v fun x => { x with
    cores := []
    reserve := []
    reserveWant := 0
    chans := []
    ports := 0
    mirrored := false
    queueGrant := 0
    parts := []
    mirrors := []
    unmirrored := []
    table := []
    gen := x.gen + 1
    frozen := false }
  eraseKeys v (publishChange v old out false [] d)

/-- DISCARD (R370): a frozen virtual device is destroyed; its fences fail with 0x0005. -/
def doDiscard (a : AdReq) (w : Wk) : Ans × Wk :=
  let v := fieldLe a.args 0 1
  if !(w.dev.vd v).frozen || w.dev.mgrWaits (DefOp.freezes v) then refuse stState w
  else
    let w := resetVf v false w
    performed [] (w.on fun d => destroyVd v (d.onFn v fun f => { f with tdi := .configUnlocked, tdiStream := 0 }))

/-- DISCARD. -/
def execDiscard (s : State) : Out :=
  runMem (migrate 0x0405 { adRow 0x0405 1 with whileA2 := true } doDiscard) s

end Sys2Proof.Machine
end

