-- ==== Sys2Proof/Machine/Security.lean ====
section
/-! DEFINITION. Security: alarms, quarantine and zeroize (R472 … R478), PF-S lines (R513), SPDM (R460 … R463), IDE (R464),
TEE device interfaces (R465, R466) and key operations (R467 … R470). -/

namespace Sys2Proof.Machine

open Sys2Proof

/-- Change security state. -/
def Dev.onSec (d : Dev) (f : Sec → Sec) : Dev := { d with sec := f d.sec }

/-! ## Alarm sources (Table 19-4) -/

/-- The default level of a source; 0 for a source that does not exist. -/
def alarmDefault (src : Nat) : Nat :=
  if src = 1 ∨ src = 2 ∨ src = 5 then 3 else if src = 3 ∨ src = 4 ∨ src = 6 ∨ src = 7 then 2
  else if 8 ≤ src ∧ src ≤ 13 then 1 else 0

/-- The floor of a source. -/
def alarmFloor (src : Nat) : Nat :=
  if src = 1 then 3 else if 2 ≤ src ∧ src ≤ 7 then 2 else if 8 ≤ src ∧ src ≤ 13 then 1 else 0

/-- The level of a source in force. -/
def Dev.alarmLevel (d : Dev) (src : Nat) : Nat := Tab.getD d.sec.levels src (alarmDefault src)

/-- Whether a source at level A2 or A3 asserts: a PF-S line that is high, or the PF-S link lost (R475, R513). -/
def Dev.alarmAsserts (d : Dev) : Bool :=
  (d.sec.lines.any fun l => decide (2 ≤ d.alarmLevel (l + 1))) || (d.sec.linkLost && decide (2 ≤ d.alarmLevel 4))

/-! ## What is left of queues when they stop -/

/-- Every command of a queue that has no record, in queue order: ring index and chain position. -/
def Queue.unrecorded (x : Queue) : List (Nat × Nat) :=
  (x.cur.toList.map fun c => (c.index, c.chain)) ++ (x.chainNext.toList.map fun c => (c.index, c.pos)) ++
    (x.fetched.map fun c => (c.index, c.chain)) ++ x.unfetched.map fun i => (i, 0)

/-- The front end of a queue holds nothing any more. -/
def Queue.emptied (x : Queue) : Queue :=
  { x with
    cur := none
    chainNext := none
    fetched := []
    sqHead := x.tail
    nFetched := x.nFetched + x.unfetched.length
    nDone := x.nFetched + x.unfetched.length
    rlistFail := 0 }

/-! ## Zeroize (R476, Table 19-5) -/

/-- Step 1: every engine drops its work, undo journals without applying them. -/
def haltEngines (d : Dev) : Dev :=
  let d := d.onMc fun m => { m with reqs := [], resps := [], host := [], hostBuf := [], undo := [] }
  let d := d.onFx fun x => { x with reqs := [], reps := [], retry := [], remote := [] }
  let d := d.onXlt fun x => { x with walks := [], faultMsgs := [], faultFull := [], hostWait := [] }
  { (d.onSched fun s => { s with cores := s.cores.map fun (i, k) => (i, { k with busy := none, switched := none, shares := false }) }) with
    kern := []
    dredges := [] }

/-- Step 2: a slot is zeroed, so that requests under it fail with 0x0050 (R212). -/
def KeySlot.zeroize (k : KeySlot) : KeySlot := if k.state = .empty then k else { k with state := .zeroized, key := .slot0 }

/-- Step 3: each LIVE cell fails with 0x0050 at every value not yet signalled. -/
def failCells (d : Dev) : Dev :=
  (d.mc.cells.filter fun c => c.2.state == 1).foldl (fun d c => (commitFail c.1 0x50 0xFFFFFFFFFFFFFFFF d).2) d

/-- Whether the completion ring of a queue lies in a HOST range. -/
def hostRing (x : Vd) (q : Queue) : Bool := match entryAt x.table q.cqBase with | some e => e.res == 2 | none => false

/-- Records with a code for commands of a queue, each written or, where its page is not translated yet, waiting for it. -/
def writeRecords (v q code : Nat) (l : List (Nat × Nat)) (w : Wk) : Wk :=
  l.foldl (fun w e =>
    let r : Rec := ⟨e.1, code, 0, w.dev.hlcOf v, min e.2 31, Detail.none⟩
    match w.dev.queue? v q with
    | none => w
    | some x =>
      if !x.recWait.isEmpty then w.on fun d => d.setQueue v q { x with recWait := x.recWait ++ [r] }
      else match tryRecord v q r w with
        | (.waiting page, w) => w.on fun d => askPage v page (d.onQueue v q fun x => { x with recWait := x.recWait ++ [r] })
        | (_, w) => w) w

/-- Step 4: records with 0x0050 for every command without a record whose ring lies in a HOST range. -/
def zeroizeQueue (v q : Nat) (w : Wk) : Wk :=
  match w.dev.queue? v q with
  | none => w
  | some x =>
    let all := ((x.backlog ++ x.recWait).map fun r => (r.index, r.chain)) ++ x.unrecorded
    let w := w.on fun d => d.setQueue v q { x.emptied with backlog := [], recWait := [], retrying := false }
    if hostRing (w.dev.vd v) x then writeRecords v q 0x50 all w else w

/-- Step 5: keys, tokens and sessions go, peers are told, every TEE device interface enters ERROR. -/
def dropKeys (d : Dev) : Dev :=
  let d := d.fab.exchanges.foldl (fun d e => e.ports.foldl (fun d p => d.emit (.peerFailure p.val e.group e.seq)) d) d
  let port (p : PortSt) : PortSt := { p with session := 0, keys := [] }
  let fn (f : Fn) : Fn := { f with tdi := .error }
  let d := { d with
    fab := { d.fab with
      exchanges := []
      ports := d.fab.ports.map fun (i, p) => (i, port p) }
    exports := []
    fns := d.fns.map fun (i, f) => (i, fn f) }
  let d := d.onKey 0 fun k => { k with state := .zeroized }
  d.onSec fun s => { s with ide := [], sessions := [], spdm := [], attKey := false, waiting := [] }

/-- A3: the whole sequence of Table 19-5, which nothing interrupts. -/
def zeroize (w : Wk) : Wk :=
  let w := w.on fun d =>
    let d := haltEngines (d.onSec fun s => { s with level := 3 })
    let d := dropKeyLines (fun i => i != 0) d
    failCells (d.onMc fun m => { m with keys := m.keys.map fun (i, k) => (i, if i = 0 then k else k.zeroize) })
  let qs := w.dev.vds.flatMap fun v => v.2.queues.map fun q => (v.1, q.1)
  let w := qs.foldl (fun w q => zeroizeQueue q.1 q.2 w) w
  w.on fun d => (dropKeys d).onSec fun s => { s with a3Count := s.a3Count + 1 }

/-! ## ALARM (R472 … R477) -/

/-- Append to the security log, which keeps the latest 1,024 entries; two alarms of a source within one millisecond make one
entry with the higher level (R474, R477). The answer says whether the entry is new. -/
def logAlarm (src level : Nat) (detail : BitVec 16) (d : Dev) : Bool × Dev :=
  let now := d.clk.hlc0
  let same (e : AlarmRec) : Bool := e.src == src && e.stamp.toNat / 100000 == now.toNat / 100000
  if d.sec.log.any same then
    (false, d.onSec fun s => { s with log := s.log.map fun e => if same e then { e with level := max e.level level } else e })
  else
    let n := d.sec.logSeq + 1
    let l := d.sec.log ++ [⟨src, level, detail, now, n⟩]
    (true, d.onSec fun s => { s with log := l.drop (l.length - 1024), logSeq := n })

/-- The detail word of an entry (R474): the virtual device for sources 0x08, 0x09, 0x0C and 0x0D, the port for 0x0A and 0x0B, and 0
otherwise. -/
def alarmDetail (src : Nat) (x : BitVec 16) : BitVec 16 := if 8 ≤ src ∧ src ≤ 13 then x else 0

/-- ALARM (R472, R475 … R477): from power-good onward the source is logged at its level and acted on. During A3 it is logged in PF-S only. -/
def doAlarm (src : BitVec 8) (detail : BitVec 16) (w : Wk) : Wk :=
  let w := w.on fun d => match takeFirst (fun r : BitVec 8 × BitVec 16 => r == (src, detail)) d.sec.raised with
    | some (_, rest) => d.onSec fun s => { s with raised := rest }
    | none => d
  let level := w.dev.alarmLevel src.toNat
  if alarmDefault src.toNat = 0 || w.dev.sec.level == 3 || !w.dev.clk.powered then w
  else
    let (new, d) := logAlarm src.toNat level (alarmDetail src.toNat detail) w.dev
    let w : Wk := { w with dev := raiseOd 6 src.toNat (natLe 1 level ++ natLe 2 (alarmDetail src.toNat detail).toNat) d }
    if level = 3 then zeroize w
    else if level = 2 then w.on fun d => d.onSec fun s =>
      { s with level := max s.level 2, a2Count := if new then s.a2Count + 1 else s.a2Count }
    else w

/-- ALARM. -/
def execAlarm (src : BitVec 8) (detail : BitVec 16) (s : State) : Out := runMem (doAlarm src detail) s

/-- A PF-S line is high: its source is raised unless the assertion does not count (R513). -/
def assertLine (line : Nat) (counts : Bool) (d : Dev) : Dev :=
  let d := d.onSec fun s => { s with lines := s.lines ++ [line], lineLow := Tab.del s.lineLow line }
  if counts then raiseSrc 0 0x153 (raiseAlarm (BitVec.ofNat 8 (line + 1)) 0 d) else d

/-- PFS_ALARM (R513): a line held high for at least 200 ns counts as asserted; a new assertion counts once the line has been
low for 1 ms. -/
def execPfsAlarm (line : Fin 3) (ns : Nat) (s : State) : Out :=
  runDev (fun _ d =>
    if ns < 200 || d.sec.lines.contains line.val then d
    else assertLine line.val (match Tab.get? d.sec.lineLow line.val with
      | some t => decide (100000 ≤ (d.clk.hlc0 - t).toNat)
      | none => true) d) s

/-- PFS_ALARM_DEASSERT (R513): the line goes low, and its 1 ms begins. -/
def execPfsAlarmDeassert (line : Fin 3) (s : State) : Out :=
  runDev (fun _ d =>
    if d.sec.lines.contains line.val then d.onSec fun s =>
      { s with lines := s.lines.filter (· != line.val), lineLow := Tab.put s.lineLow line.val d.clk.hlc0 }
    else d) s

/-- PFS_HEARTBEAT_LOSS (R513): 10 ms without an edge or a frame raise source 0x04. -/
def execPfsHeartbeatLoss (s : State) : Out :=
  runDev (fun _ d => raiseSrc 0 0x153 (raiseAlarm 4 0 (d.onSec fun s => { s with linkLost := true }))) s

/-- DEBUG_PORT_ENABLE (R472): an attempt outside manufacturing mode raises source 0x05. -/
def execDebugPortEnable (manufacturing : Bool) (s : State) : Out :=
  runDev (fun _ d => if manufacturing then d else raiseAlarm 5 0 d) s

/-! ## Requests to the security core (R462) -/

/-- The number of a firmware function or the manager in a transport; whether the transport is there. -/
def Dev.hasTransport (d : Dev) (t : Transport) : Bool :=
  d.clk.powered && match t with
    | .doe fn => d.barOpen fn.val
    | .carrier p => p.val != 0
    | .mctp _ => true

/-- A request reaches the security core: source 0x154 fires, and the request is served, or waits while the core is down. -/
def secRequest (t : Transport) (i : Instr) (f : Dev → Dev) (d : Dev) : Dev :=
  if !d.hasTransport t then d
  else
    let d := raiseSrc 0 0x154 d
    if d.secUp then f d else d.onSec fun s => { s with waiting := s.waiting ++ [i] }

/-- How far the connection of a transport is negotiated. -/
def Dev.spdmStage (d : Dev) (t : Transport) : Nat := ((d.sec.spdm.find? fun e => e.1 == t).map fun e => e.2.stage).getD 0

/-- Set how far a connection is negotiated. -/
def setStage (t : Transport) (n : Nat) (d : Dev) : Dev :=
  d.onSec fun s => { s with spdm := (s.spdm.filter fun e => e.1 != t) ++ [(t, ⟨n⟩)] }

/-- An answer at a stage of negotiation, else ERROR. -/
def atStage (t : Transport) (n : Nat) (f : Dev → Dev) (d : Dev) : Dev :=
  if n ≤ d.spdmStage t then f d else d.emit (.spdm t (.error false))

/-- GET_VERSION (R461). -/
def doGetVersion (t : Transport) (d : Dev) : Dev := (setStage t 1 d).emit (.spdm t .version)
/-- GET_CAPABILITIES. -/
def doGetCapabilities (t : Transport) (d : Dev) : Dev :=
  atStage t 1 (fun d => (setStage t (max 2 (d.spdmStage t)) d).emit (.spdm t .capabilities)) d
/-- NEGOTIATE_ALGORITHMS: the algorithms of Table 19-1 and no other. -/
def doNegotiateAlgorithms (t : Transport) (o : SpdmOffer) (d : Dev) : Dev :=
  atStage t 2 (fun d =>
    if o.ecdsaP384 && o.sha3_384 && o.secp384r1 && o.aes256gcm then (setStage t 3 d).emit (.spdm t .algorithms)
    else d.emit (.spdm t (.error false))) d
/-- GET_DIGESTS: the digest of the slot-0 chain. -/
def doGetDigests (t : Transport) (d : Dev) : Dev :=
  atStage t 3 (fun d => d.emit (.spdm t (.digests (BitVec.ofNat 384 (beNat (sha3_384 Config.certificateChain)))))) d
/-- GET_CERTIFICATE (R460): a part of the slot-0 chain. -/
def doGetCertificate (t : Transport) (slot off len : Nat) (d : Dev) : Dev :=
  let chain := Config.certificateChain
  atStage t 3 (fun d => d.emit (.spdm t (if slot = 0 && decide (off < chain.length) then
    .certificate ((chain.drop off).take len) (chain.length - off - min len (chain.length - off)) else .error false))) d
/-- CHALLENGE: a signature of the attestation key. -/
def doChallenge (t : Transport) (slot : Nat) (nonce : BitVec 256) (d : Dev) : Dev :=
  atStage t 3 (fun d =>
    if slot = 0 && d.sec.attKey then
      let (n, d) := d.draw
      d.emit (.spdm t (.challenge (BitVec.ofNat 384 (beNat (sha3_384 Config.certificateChain))) (attest n (natLe 32 nonce.toNat))))
    else d.emit (.spdm t (.error false))) d

/-- The slots of a virtual device that are LOADED. -/
def Dev.heldSlots (d : Dev) (v : Nat) : List Nat := (d.mc.keys.filter fun k => k.1 != 0 && k.2.vdev == v && k.2.state == .loaded).map Prod.fst

/-- The bitmap of LOADED slots of a virtual device, 128 bytes. -/
def Dev.slotBitmap (d : Dev) (v : Nat) : List Byte := natLe 128 ((d.heldSlots v).map (2 ^ ·)).sum

/-- The measurement blocks that a transport offers (R462, R463, Table 19-2). -/
def Dev.measurements (d : Dev) (t : Transport) : List (Nat × List Byte) :=
  [ (1, sliceB d.fw.meas 0 32),
    (2, natLe 4 d.fw.svn.toNat ++ natLe 2 d.fw.aclMax.toNat ++ natLe 4 Config.svnFloor),
    (3, (List.range 16).map fun i => BitVec.ofNat 8 (d.alarmLevel (i + 1))),
    (4, natLe 4 d.sec.a2Count.toNat ++ natLe 4 d.sec.a3Count.toNat ++ natLe 1 (if d.sec.level == 2 then 1 else 0)) ] ++
  match t with
  | .doe fn => if fn.val = mgr then [] else [(5, sha3_256 (Config.tdispReport fn.val)), (6, d.slotBitmap fn.val)]
  | _ => []

/-- GET_MEASUREMENTS (R463): one block, or every block with index 0xFF, signed. -/
def doGetMeasurements (t : Transport) (index : Nat) (d : Dev) : Dev :=
  atStage t 3 (fun d =>
    let l := (d.measurements t).filter fun b => index == 0xFF || b.1 == index
    if l.isEmpty || !d.sec.attKey then d.emit (.spdm t (.error false))
    else
      let (n, d) := d.draw
      d.emit (.spdm t (.measurements l (attest n (l.flatMap Prod.snd))))) d

/-- Whether two transports share a session limit (Table 19-1): 4 for each function, 8 over MCTP. -/
def sameLimit (a b : Transport) : Bool := match a, b with | .mctp _, .mctp _ => true | a, b => a == b
/-- The session limit of a transport. -/
def sessionLimit : Transport → Nat | .mctp _ => 8 | _ => 4

/-- KEY_EXCHANGE: a session opens, authenticated by the attestation key, or ERROR Busy at the limit. -/
def doKeyExchange (t : Transport) (d : Dev) : Dev :=
  atStage t 3 (fun d =>
    if !d.sec.attKey then d.emit (.spdm t (.error false))
    else if sessionLimit t ≤ (d.sec.sessions.filter fun s => sameLimit s.transport t).length then d.emit (.spdm t (.error true))
    else
      let (n, d) := d.draw
      let id := d.sec.nextSession
      (d.onSec fun s => { s with sessions := s.sessions ++ [⟨id, t, n, 0, false⟩], nextSession := id + 1 }).emit (.spdm t (.session id))) d

/-- Whether a session is on a transport, established or not. -/
def Dev.hasSession (d : Dev) (t : Transport) (id : Nat) (established : Bool) : Bool :=
  d.sec.sessions.any fun s => s.id == id && s.transport == t && s.open_ == established

/-- Whether a transport has an established session. -/
def Dev.secured (d : Dev) (t : Transport) : Bool := d.sec.sessions.any fun s => s.transport == t && s.open_

/-- Change a session. -/
def onSession (id : Nat) (f : Session → Session) (d : Dev) : Dev :=
  d.onSec fun s => { s with sessions := updFirst (fun x => x.id == id) f s.sessions }

/-- FINISH: the session is established. -/
def doFinish (t : Transport) (id : Nat) (d : Dev) : Dev :=
  if d.hasSession t id false then (onSession id (fun s => { s with open_ := true }) d).emit (.spdm t (.finished id))
  else d.emit (.spdm t (.error false))
/-- KEY_UPDATE: the session has new keys. -/
def doKeyUpdate (t : Transport) (id : Nat) (d : Dev) : Dev :=
  if d.hasSession t id true then (onSession id (fun s => { s with updates := s.updates + 1 }) d).emit (.spdm t (.updated id))
  else d.emit (.spdm t (.error false))
/-- HEARTBEAT: the session stays. -/
def doHeartbeat (t : Transport) (id : Nat) (d : Dev) : Dev :=
  d.emit (.spdm t (if d.hasSession t id true then .alive id else .error false))
/-- END_SESSION: the session is gone. -/
def doEndSession (t : Transport) (id : Nat) (d : Dev) : Dev :=
  if d.hasSession t id true then
    (d.onSec fun s => { s with sessions := s.sessions.filter fun x => x.id != id }).emit (.spdm t (.ended id))
  else d.emit (.spdm t (.error false))

/-! ## IDE (R464) -/

/-- The transport of the physical function of a host port: the manager function or a carrier function. -/
def portTransport (p : HPort) : Transport := if p.val = 0 then .doe ⟨256, by decide⟩ else .carrier p

/-- IDE_KM: in a secured session of the port's physical function, a stream's key is programmed in the hub. -/
def doIdeKm (p : HPort) (stream : Fin 8) (key : BitVec 256) (d : Dev) : Dev :=
  let t := portTransport p
  if d.secured t then
    (d.onSec fun s => { s with ide := Tab.put s.ide (8 * p.val + stream.val) key }).emit (.spdm t (.ideKey stream.val))
  else d.emit (.spdm t (.error false))

/-- IDE_KM. -/
def execIdeKm (p : HPort) (stream : Fin 8) (key : BitVec 256) (s : State) : Out :=
  runDev (fun _ d => secRequest (portTransport p) (.ideKm p stream key) (doIdeKm p stream key) d) s

/-- IDE_INTEGRITY_FAIL (R464): the TLP is dropped; where it answered a read of the device, the read failed. A stream without
a key carries no traffic. -/
def execIdeIntegrityFail (p : HPort) (stream : Fin 8) (read : Option Nat) (s : State) : Out :=
  runMem (fun w => match read with
    | some id => if (Tab.get? w.dev.sec.ide (8 * p.val + stream.val)).isSome then doHostError id w else w
    | none => w) s

/-! ## TEE device interfaces (R465, R466) -/

/-- Change the interface of a virtual function and answer. -/
def setTdi (v : Nat) (t : Tdi) (r : TdispReply) (d : Dev) : Dev := (d.onFn v fun f => { f with tdi := t }).emit (.tdisp v r)

/-- LOCK_INTERFACE_REQUEST (R466): refused outside CONFIG_UNLOCKED and while an HDM window is bound. -/
def doLock (v stream : Nat) (d : Dev) : Dev :=
  if (d.fn v).tdi != .configUnlocked || d.windowed v then d.emit (.tdisp v .error)
  else setTdi v .configLocked .locked (d.onFn v fun f => { f with tdiStream := stream })
/-- START_INTERFACE_REQUEST. -/
def doStart (v : Nat) (d : Dev) : Dev :=
  if (d.fn v).tdi == .configLocked then setTdi v .run .started d else d.emit (.tdisp v .error)
/-- STOP_INTERFACE_REQUEST: from every state to CONFIG_UNLOCKED. -/
def doStop (v : Nat) (d : Dev) : Dev := setTdi v .configUnlocked .stopped d
/-- GET_DEVICE_INTERFACE_REPORT: in CONFIG_LOCKED and RUN. -/
def doReport (v : Nat) (d : Dev) : Dev :=
  d.emit (.tdisp v (if (d.fn v).tdi == .configLocked || (d.fn v).tdi == .run then .report (Config.tdispReport v) else .error))

/-- A TDISP message on the DOE of a virtual function. -/
def tdisp (v : VDev) (i : Instr) (f : Dev → Dev) (s : State) : Out :=
  runDev (fun _ d => secRequest (.doe ⟨v.val, by omega⟩) i f d) s

/-- GET_TDISP_VERSION. -/
def execGetTdispVersion (v : VDev) (s : State) : Out := tdisp v (.getTdispVersion v) (fun d => d.emit (.tdisp v.val .version)) s
/-- GET_TDISP_CAPABILITIES. -/
def execGetTdispCapabilities (v : VDev) (s : State) : Out :=
  tdisp v (.getTdispCapabilities v) (fun d => d.emit (.tdisp v.val .capabilities)) s
/-- LOCK_INTERFACE_REQUEST. -/
def execLockInterfaceRequest (v : VDev) (stream : Fin 8) (s : State) : Out :=
  tdisp v (.lockInterfaceRequest v stream) (doLock v.val stream.val) s
/-- START_INTERFACE_REQUEST. -/
def execStartInterfaceRequest (v : VDev) (s : State) : Out := tdisp v (.startInterfaceRequest v) (doStart v.val) s
/-- STOP_INTERFACE_REQUEST. -/
def execStopInterfaceRequest (v : VDev) (s : State) : Out := tdisp v (.stopInterfaceRequest v) (doStop v.val) s
/-- GET_DEVICE_INTERFACE_REPORT. -/
def execGetDeviceInterfaceReport (v : VDev) (s : State) : Out := tdisp v (.getDeviceInterfaceReport v) (doReport v.val) s
/-- GET_DEVICE_INTERFACE_STATE. -/
def execGetDeviceInterfaceState (v : VDev) (s : State) : Out :=
  tdisp v (.getDeviceInterfaceState v) (fun d => d.emit (.tdisp v.val (.state (d.fn v.val).tdi))) s

/-- SRIOV_CONFIG_CHANGE (R465): the manager changes the SR-IOV or BAR configuration of a function, whose interface enters
ERROR. -/
def execSriovConfigChange (v : VDev) (s : State) : Out := runDev (fun _ d => d.onFn v.val fun f => { f with tdi := .error }) s

/-! ## Key operations (R467 … R470, Table 19-3) -/

/-- A refused key operation: the status, and the misuse alarm after more than 16 within a second (source 0x0C). -/
def refuseKey (v : Nat) (tag : BitVec 32) (status : Nat) (d : Dev) : Dev :=
  let now := d.clk.hlc0
  let times := ((d.vd v).keyTimes.filter fun t => within now t 1000000) ++ [now]
  let d := (d.onVd v fun x => { x with keyTimes := times }).emit (.key v tag status [])
  if 16 < times.length then raiseAlarm 0x0C (BitVec.ofNat 16 v) d else d

/-- A key operation travels in a secured session of the virtual device's own DOE; in quarantine it is refused. -/
def keyOp (v : Nat) (t : Transport) (tag : BitVec 32) (f : Dev → Dev) (d : Dev) : Dev :=
  if !d.secured t then d.emit (.spdm t (.error false))
  else if d.sec.level == 2 then refuseKey v tag 5 d
  else f d

/-- The lowest EMPTY slot. -/
def Dev.emptySlot (d : Dev) : Option Nat := ((List.range 1023).map (· + 1)).find? fun i => (d.keySlot i).state == .empty

/-- A slot is loaded with a key for a virtual device, where its quota and the slots allow it. -/
def loadSlot (v : Nat) (tag : BitVec 32) (k : Dev → KeyId × Dev) (d : Dev) : Dev :=
  match (if (d.heldSlots v).length < (d.vd v).quota.toNat then d.emptySlot else none) with
  | none => refuseKey v tag 2 d
  | some i =>
    let (key, d) := k d
    (d.onKey i fun _ => ⟨.loaded, v, key⟩).emit (.key v tag 0 (natLe 2 i))

/-- GENERATE: keys of the random bit generator. -/
def doGenerate (v : Nat) (tag : BitVec 32) (d : Dev) : Dev :=
  loadSlot v tag (fun d => let (n, d) := d.draw; (.gen n, d)) d

/-- IMPORT: the two keys of the pair must differ and make 64 bytes. -/
def doImportKey (v : Nat) (tag : BitVec 32) (keys : List Byte) (d : Dev) : Dev :=
  if keys.length ≠ 64 || keys.take 32 == keys.drop 32 then refuseKey v tag 4 d
  else loadSlot v tag (fun d => (.imported (BitVec.ofNat 512 (leNat keys)), d)) d

/-- ERASE: a held slot that no DEVICE entry of the active table selects. -/
def doErase (v : Nat) (tag : BitVec 32) (slot : Nat) (d : Dev) : Dev :=
  if !(d.heldSlots v).contains slot then refuseKey v tag 1 d
  else if (d.vd v).table.any fun e => e.res == 1 && e.key == slot then refuseKey v tag 3 d
  else (eraseSlots (fun i _ => i == slot) d).emit (.key v tag 0 [])

/-- LIST: the bitmap of LOADED slots. -/
def doListKeys (v : Nat) (tag : BitVec 32) (d : Dev) : Dev := d.emit (.key v tag 0 (d.slotBitmap v))

/-- The DOE of a virtual function. -/
def vfDoe (v : VDev) : Transport := .doe ⟨v.val, by omega⟩

/-- GENERATE. -/
def execGenerate (v : VDev) (tag : BitVec 32) (s : State) : Out :=
  runDev (fun _ d => secRequest (vfDoe v) (.generate v tag) (keyOp v.val (vfDoe v) tag (doGenerate v.val tag)) d) s
/-- IMPORT. -/
def execImportKey (v : VDev) (tag : BitVec 32) (keys : List Byte) (s : State) : Out :=
  runDev (fun _ d => secRequest (vfDoe v) (.importKey v tag keys) (keyOp v.val (vfDoe v) tag (doImportKey v.val tag keys)) d) s
/-- ERASE. -/
def execErase (v : VDev) (tag : BitVec 32) (slot : BitVec 16) (s : State) : Out :=
  runDev (fun _ d => secRequest (vfDoe v) (.erase v tag slot) (keyOp v.val (vfDoe v) tag (doErase v.val tag slot.toNat)) d) s
/-- LIST. -/
def execListKeys (v : VDev) (tag : BitVec 32) (s : State) : Out :=
  runDev (fun _ d => secRequest (vfDoe v) (.listKeys v tag) (keyOp v.val (vfDoe v) tag (doListKeys v.val tag)) d) s

/-! ## SPDM rows -/

/-- GET_VERSION. -/
def execGetVersion (t : Transport) (s : State) : Out := runDev (fun _ d => secRequest t (.getVersion t) (doGetVersion t) d) s
/-- GET_CAPABILITIES. -/
def execGetCapabilities (t : Transport) (s : State) : Out :=
  runDev (fun _ d => secRequest t (.getCapabilities t) (doGetCapabilities t) d) s
/-- NEGOTIATE_ALGORITHMS. -/
def execNegotiateAlgorithms (t : Transport) (offer : SpdmOffer) (s : State) : Out :=
  runDev (fun _ d => secRequest t (.negotiateAlgorithms t offer) (doNegotiateAlgorithms t offer) d) s
/-- GET_DIGESTS. -/
def execGetDigests (t : Transport) (s : State) : Out := runDev (fun _ d => secRequest t (.getDigests t) (doGetDigests t) d) s
/-- GET_CERTIFICATE. -/
def execGetCertificate (t : Transport) (slot : BitVec 8) (off len : Nat) (s : State) : Out :=
  runDev (fun _ d => secRequest t (.getCertificate t slot off len) (doGetCertificate t slot.toNat off len) d) s
/-- CHALLENGE. -/
def execChallenge (t : Transport) (slot : BitVec 8) (nonce : BitVec 256) (s : State) : Out :=
  runDev (fun _ d => secRequest t (.challenge t slot nonce) (doChallenge t slot.toNat nonce) d) s
/-- GET_MEASUREMENTS. -/
def execGetMeasurements (t : Transport) (index : BitVec 8) (s : State) : Out :=
  runDev (fun _ d => secRequest t (.getMeasurements t index) (doGetMeasurements t index.toNat) d) s
/-- KEY_EXCHANGE. -/
def execKeyExchange (t : Transport) (s : State) : Out := runDev (fun _ d => secRequest t (.keyExchange t) (doKeyExchange t) d) s
/-- FINISH. -/
def execFinish (t : Transport) (session : Nat) (s : State) : Out :=
  runDev (fun _ d => secRequest t (.finish t session) (doFinish t session) d) s
/-- KEY_UPDATE. -/
def execKeyUpdate (t : Transport) (session : Nat) (s : State) : Out :=
  runDev (fun _ d => secRequest t (.keyUpdate t session) (doKeyUpdate t session) d) s
/-- HEARTBEAT. -/
def execHeartbeat (t : Transport) (session : Nat) (s : State) : Out :=
  runDev (fun _ d => secRequest t (.heartbeat t session) (doHeartbeat t session) d) s
/-- END_SESSION. -/
def execEndSession (t : Transport) (session : Nat) (s : State) : Out :=
  runDev (fun _ d => secRequest t (.endSession t session) (doEndSession t session) d) s

/-- A request that waited for the security core is served (R462). -/
def serveWaiting (i : Instr) (d : Dev) : Dev :=
  let key (v : VDev) (tag : BitVec 32) (f : Dev → Dev) : Dev := keyOp v.val (vfDoe v) tag f d
  match i with
  | .getVersion t => doGetVersion t d
  | .getCapabilities t => doGetCapabilities t d
  | .negotiateAlgorithms t o => doNegotiateAlgorithms t o d
  | .getDigests t => doGetDigests t d
  | .getCertificate t slot off len => doGetCertificate t slot.toNat off len d
  | .challenge t slot nonce => doChallenge t slot.toNat nonce d
  | .getMeasurements t index => doGetMeasurements t index.toNat d
  | .keyExchange t => doKeyExchange t d
  | .finish t id => doFinish t id d
  | .keyUpdate t id => doKeyUpdate t id d
  | .heartbeat t id => doHeartbeat t id d
  | .endSession t id => doEndSession t id d
  | .ideKm p st k => doIdeKm p st k d
  | .getTdispVersion v => d.emit (.tdisp v.val .version)
  | .getTdispCapabilities v => d.emit (.tdisp v.val .capabilities)
  | .lockInterfaceRequest v st => doLock v.val st.val d
  | .startInterfaceRequest v => doStart v.val d
  | .stopInterfaceRequest v => doStop v.val d
  | .getDeviceInterfaceReport v => doReport v.val d
  | .getDeviceInterfaceState v => d.emit (.tdisp v.val (.state (d.fn v.val).tdi))
  | .generate v tag => key v tag (doGenerate v.val tag)
  | .importKey v tag keys => key v tag (doImportKey v.val tag keys)
  | .erase v tag slot => key v tag (doErase v.val tag slot.toNat)
  | .listKeys v tag => key v tag (doListKeys v.val tag)
  | _ => d

/-- Every request that waits for the security core is served, in arrival order. -/
def serveAll (d : Dev) : Dev :=
  if !d.secUp then d else d.sec.waiting.foldl (fun d i => serveWaiting i d) (d.onSec fun s => { s with waiting := [] })

end Sys2Proof.Machine
end

