-- ==== Sys2Proof/Machine/Links.lean ====
section
/-! DEFINITION. Fabric links: ports, lanes, retry, sessions and sealed flits (R373 … R386, R395), and what is sent on them. -/

namespace Sys2Proof.Machine

open Sys2Proof

/-! ## Lanes -/

/-- The lanes of a set, ascending. -/
def linkLanes (x : BitVec 10) : List Nat := (List.range 10).filter fun i => bitAt x.toNat i
/-- A set of lanes. -/
def laneSet (l : List Nat) : BitVec 10 := BitVec.ofNat 10 ((l.eraseDups.map (2 ^ ·)).sum)

/-- `LX_WIDTH`: active lanes, 0, 4 or 8. -/
def PortSt.width (x : PortSt) : Nat :=
  let n := (linkLanes x.active).length
  if 8 ≤ n then 8 else if 4 ≤ n then 4 else 0

/-- The register at offset 8n of a port (Tables 15-5, 15-6). -/
def Dev.portReg (d : Dev) (p n : Nat) : Nat :=
  let x := d.port p
  if n = 0 then x.state + x.width * 2 ^ 8 + x.reserve.toNat * 2 ^ 12 + x.failed.toNat * 2 ^ 22 + x.active.toNat * 2 ^ 32
  else if n = 1 then (if x.trained then x.peerPkg.toNat + x.peerPort.toNat * 2 ^ 32 else 0)
  else if n = 2 then d.fab.pkgId.toNat
  else (Tab.getD x.ctr n 0).toNat

/-! ## Port states -/

/-- Active and reserve lanes from those that locked (R376, R377): 8 if they suffice, else 4. -/
def chooseLanes (locked : BitVec 10) (x : PortSt) : PortSt :=
  let l := linkLanes locked
  let n := if 8 ≤ l.length then 8 else if 4 ≤ l.length then 4 else 0
  { x with active := laneSet (l.take n), reserve := if n = 0 then 0 else laneSet (l.drop n), failed := ~~~locked }

/-- The state of a port whose session is live: UP on 8 lanes, else DEGRADED. -/
def PortSt.liveState (x : PortSt) : Nat := if 8 ≤ x.width then 3 else 4

/-- PORT_SIGNAL_DETECT (R376): a port whose lanes detect a signal starts TRAINING. -/
def execPortSignalDetect (p : Port) (s : State) : Out :=
  runDev (fun _ d => if d.clk.powered && (d.port p.val).state == 0 then startTraining p.val d else d) s

/-- PORT_TRAIN_RETRY_TIMER (R376): a port that locked too few lanes, and is DOWN for it, tries again. -/
def execPortTrainRetryTimer (p : Port) (s : State) : Out :=
  runDev (fun _ d => if (d.port p.val).state == 0 && (d.port p.val).active == 0 && (d.port p.val).failed != 0 then startTraining p.val d else d) s

/-- PORT_TRAINING_DONE (R376, R377): 8 or 4 … 7 lanes that locked at both ends go on to SECURING, fewer return the port to DOWN. Until
the scheduler is active the port holds lock in TRAINING (Table 21-1). -/
def execPortTrainingDone (p : Port) (locked : LaneLock) (s : State) : Out :=
  runDev (fun _ d =>
    if (d.port p.val).state != 1 then d
    else
      let d := d.onPort p.val (chooseLanes locked.both)
      if (linkLanes locked.both).length < 4 then enterPort p.val 0 (endReturn .port p.val false d)
      else if d.boot.active then enterPort p.val 2 d else d) s

/-- Sequence numbers from zero, with nothing to resend. -/
def PortSt.fresh (x : PortSt) : PortSt :=
  { x with
    tx := 0
    acked := 0
    rx := 0
    resends := 0
    hunting := false
    credits := []
    waiting := 0
    switchAt := []
    span := 0
    keys := []
    streams := [] }

/-- A session is live, under a fresh salt and keys. After one that was given up for its tag failures the traffic that waited goes
on with its sequence numbers (R384), so that no flit is lost or comes twice (R380); any other starts at zero. -/
def startSession (p : Nat) (d : Dev) : Dev :=
  let (n, d) := d.draw
  let goesOn := (d.port p).session != 0
  let d := (d.onPort p fun x =>
    let x := (if goesOn then x else x.fresh).count 3 1
    { x with session := n + 1, keys := x.keys ++ [(x.rx, n)] }).emit (.session p n d.fab.pkgId.toNat)
  let k := ((d.port p).tx - (d.port p).acked).toNat
  if goesOn && k != 0 then (d.onPort p fun x => { ((x.count 8 k).count 4 k) with hunting := false }).emit (.resend p (d.port p).acked k) else d

/-- PORT_SESSION_DONE (R382): an authentic peer with a level brings the port UP or DEGRADED; any other leaves it DOWN and
raises source 0x0A. A port with ADMIN OUT is not admitted (R502), nor one that failed before, until management
asks for its return (R157). -/
def doSession (p : Nat) (ok : Bool) (peerAcl : BitVec 16) (peerPort : BitVec 4) (peerPkg : BitVec 32) (d : Dev) : Dev :=
  if (d.port p).state != 2 || d.fw.state != 2 || !d.secUp then d
  else if !ok || peerAcl == 0 then raiseAlarm 0x0A (BitVec.ofNat 16 p) (enterPort p 0 (endReturn .port p false d))
  else if (d.unit .port p).adminOut then setCause .port p 3 (enterPort p 6 d)
  else if (d.unit .port p).cause != 0 && !(d.unit .port p).returning then enterPort p 6 d
  else
    let d := startSession p (d.onPort p fun x => { x with peerPort := peerPort, peerPkg := peerPkg })
    endReturn .port p true (enterPort p (d.port p).liveState d)

/-! ## Failure and retraining (R381) -/

/-- A port fails: its retry buffers go, and every command with traffic on it fails with 0x0011 (R381, R391). -/
def failPort (p : Nat) (w : Wk) : Wk :=
  let hit := w.dev.fab.exchanges.filter fun e => (e.ports.any fun x => x.val == p) || (w.dev.groupPorts e.vdev e.group).contains p
  let w := w.on fun d => setCause .port p 2 (enterPort p 6 (d.onPort p fun x => { x.fresh with session := 0 }))
  hit.foldl (fun w e => match w.dev.cur? e.vdev e.queue with
    | some c => if c.no = e.cmd then failCmd e.vdev e.queue 0x11 Detail.none w else w
    | none => w) w

/-- A port enters RETRAINING; a second entry within one second fails it. -/
def retrain (p : Nat) (w : Wk) : Wk :=
  let now := w.dev.hlc (portHub p)
  let recent := (w.dev.port p).retrains.filter fun t => within now t 1000000
  let w := w.on fun d => enterPort p 5 (d.onPort p fun x => { (x.count 11 1) with retrains := recent ++ [now], resends := 0 })
  if recent.isEmpty then w else failPort p w

/-- PORT_RETRAIN_DONE (R381): the port goes on with the first flit not acknowledged, or fails. One whose session the sluice has
erased secures a new one (R384). -/
def doRetrainDone (p : Nat) (ok : Bool) (locked : LaneLock) (w : Wk) : Wk :=
  if (w.dev.port p).state != 5 then w
  else if !ok || decide ((linkLanes locked.both).length < 4) then failPort p w
  else w.on fun d =>
    let d := d.onPort p (chooseLanes locked.both)
    let n := ((d.port p).tx - (d.port p).acked).toNat
    let d := enterPort p (if (d.port p).session = 0 then 2 else (d.port p).liveState) (d.onPort p fun x => (x.count 8 n).count 4 n)
    if n = 0 then d else d.emit (.resend p (d.port p).acked n)

/-! ## Lane sparing (R378) -/

/-- The lane map without a lane: the lowest trained reserve lane takes the place of an active one; without a reserve the port goes on
with 4 lanes, or with none below that. -/
def PortSt.dropLane (lane : Nat) (x : PortSt) : PortSt :=
  let without (s : BitVec 10) : List Nat := (linkLanes s).filter (· != lane)
  let failed := laneSet (lane :: linkLanes x.failed)
  let good := without x.active
  if !bitAt x.active.toNat lane then { x with reserve := laneSet (without x.reserve), failed := failed }
  else match linkLanes x.reserve with
    | r :: rest => { (x.count 10 1) with active := laneSet (r :: good), reserve := laneSet rest, failed := failed }
    | [] =>
      let n := if good.length < 4 then 0 else 4
      { x with active := laneSet (good.take n), reserve := if n = 0 then 0 else laneSet (good.drop n), failed := failed }

/-- A lane is failed: it leaves the lane map, and a trained port goes on as the map allows: below 4 lanes it retrains. -/
def dropLane (p lane : Nat) (w : Wk) : Wk :=
  let x := w.dev.port p
  if !(x.trained || x.state == 2) || bitAt x.failed.toNat lane then w
  else
    let y := x.dropLane lane
    let w := w.on fun d => d.onPort p fun _ => y
    if y.width = 0 then retrain p w
    else if x.trained && y.liveState != x.state then w.on (enterPort p y.liveState)
    else w

/-- LANE_FAIL (R378): this receiver finds the lane failed, and names to the peer the sequence number of the switch: the flit that it
expects next. -/
def execLaneFail (p : Port) (lane : Fin 10) (s : State) : Out :=
  runMem (fun w =>
    let x := w.dev.port p.val
    let tell := (x.trained || x.state == 2) && bitAt x.active.toNat lane.val
    let w := dropLane p.val lane.val w
    if tell then w.on fun d => d.emit (.laneSwitch p.val lane.val x.rx) else w) s

/-- A 64-bit count near another with given low 32 bits, at or above it. -/
def extendSeq (base : BitVec 64) (low : Nat) : BitVec 64 := base + BitVec.ofNat 64 ((low + 2 ^ 32 - base.toNat % 2 ^ 32) % 2 ^ 32)

/-- Lane switches named for a flit that has now been sent, or comes next, take effect (R378). -/
def settleLanes (p : Nat) (w : Wk) : Wk :=
  let x := w.dev.port p
  let now (e : Nat × BitVec 64) : Bool := decide ((e.2 - x.acked).toNat ≤ (x.tx - x.acked).toNat)
  let w := w.on fun d => d.onPort p fun x => { x with switchAt := x.switchAt.filter fun e => !now e }
  (x.switchAt.filter now).foldl (fun w e => dropLane p e.1 w) w

/-- LANE_SWITCH (R378): the peer names the sequence number at which both ends replace a failed lane: the switch waits for that flit. -/
def execLaneSwitch (p : Port) (failed : Fin 10) (seq : BitVec 32) (s : State) : Out :=
  runMem (fun w => settleLanes p.val (w.on fun d => d.onPort p.val fun x =>
    { x with switchAt := x.switchAt ++ [(failed.val, extendSeq x.acked seq.toNat)] })) s

/-! ## Flits (R380, R383 … R385) -/

/-- Fields of a flit header (Table 15-3). -/
def flitKind (h : BitVec 128) : Nat := bits h.toNat 67 64
/-- `LX_FH_SEQ`. -/
def flitSeq (h : BitVec 128) : Nat := bits h.toNat 31 0
/-- `LX_FH_ACK`. -/
def flitAck (h : BitVec 128) : Nat := bits h.toNat 63 32

/-- An acknowledgement frees the retry buffer up to it, where it names a flit sent and not yet acknowledged, and flits that waited
for the buffer leave. -/
def PortSt.ack (x : PortSt) (low : Nat) : PortSt :=
  let a := extendSeq x.acked low
  if (a - x.acked).toNat ≤ (x.tx - x.acked).toNat then
    ({ x with acked := a, resends := if a = x.acked then x.resends else 0 } : PortSt).send 0
  else x

/-- A flit is discarded; the receiver asks for the expected one, and again where that one comes corrupted once more (R380). -/
def discardFlit (p seq : Nat) (d : Dev) : Dev :=
  if (d.port p).hunting && seq != (d.port p).rx.toNat % 2 ^ 32 then d
  else (d.onPort p fun x => { x with hunting := true }).emit (.retryReq p (d.port p).rx)

/-- More than 16 tag failures within one second, with no uncorrectable codeword in it, raise source 0x0B, and the port
returns to SECURING for a new session (R384). -/
def checkTags (p : Nat) (d : Dev) : Dev :=
  let x := d.port p
  let now := d.hlc (portHub p)
  let clean := match x.uncorrAt with | some t => !within now t 1000000 | none => true
  if 16 < x.auths.length && clean then
    raiseAlarm 0x0B (BitVec.ofNat 16 p) (enterPort p 2 (d.onPort p fun x => { x with auths := [] }))
  else d

/-- The draw whose key seals the incoming flit of a count (R382, R383). -/
def PortSt.keyAt (x : PortSt) (n : BitVec 64) : Nat :=
  ((x.keys.filter fun k => decide (k.1 ≤ n)).getLast?.map Prod.snd).getD 0

/-- The nonce of a flit: the session's salt and the transmit count, the most significant byte first (R383). -/
def flitNonce (k : Nat) (n : BitVec 64) : List Byte := (natLe 4 (Config.linkSalt k).toNat).reverse ++ (natLe 8 n.toNat).reverse

/-- The tag of a flit: over its header as additional data and its encrypted payload (R383). -/
def flitTag (k : Nat) (n : BitVec 64) (hdr : BitVec 128) (cipher : List Byte) : BitVec 128 :=
  gcmTag (natLe 32 (Config.linkKey k).toNat).reverse (flitNonce k n) (natLe 16 hdr.toNat) cipher

/-- The payload of a flit: encrypted under the session's key (R383). -/
def flitText (k : Nat) (n : BitVec 64) (text : List Byte) : List Byte :=
  gcmText (natLe 32 (Config.linkKey k).toNat).reverse (flitNonce k n) text

/-- The transmit count of an incoming flit. -/
def PortSt.countOf (x : PortSt) (hdr : BitVec 128) : BitVec 64 := extendSeq x.rx (flitSeq hdr)

/-- Whether a flit authenticates (R383). Before the session has its keys, the management flits of SECURING are not sealed. -/
def PortSt.authentic (x : PortSt) (hdr : BitVec 128) (b : FlitBody) : Bool :=
  let n := x.countOf hdr
  x.keys.isEmpty || flitTag (x.keyAt n) n hdr b.cipher == b.tag

/-- The valid payload of an accepted flit: `LX_FH_UNITS` units of 32 bytes. -/
def PortSt.payload (x : PortSt) (hdr : BitVec 128) (b : FlitBody) : List Byte :=
  let n := x.countOf hdr
  ((if x.keys.isEmpty then b.cipher else flitText (x.keyAt n) n b.cipher).take (32 * bits hdr.toNat 87 84))

/-- The channel and stream of a flit, as one number. -/
def flitStream (hdr : BitVec 128) : Nat := 4096 * bits hdr.toNat 69 68 + bits hdr.toNat 83 72

/-- The flits of a segment follow one another on its stream (R386): the first begins it, the last makes it whole. -/
def PortSt.assemble (x : PortSt) (hdr : BitVec 128) (bs : List Byte) : PortSt × Option (List Byte) :=
  let k := flitStream hdr
  let all := (if bitAt hdr.toNat 70 then [] else Tab.getD x.streams k []) ++ bs
  if bitAt hdr.toNat 71 then ({ x with streams := Tab.del x.streams k }, some all)
  else ({ x with streams := Tab.put x.streams k all }, none)

/-- A sequenced flit of a kind arrives (R380): it is accepted in sequence, or discarded. The last DATA flit of a segment gives the
segment. -/
def doFlit (p kind : Nat) (hdr : BitVec 128) (fecBad : Bool) (body : FlitBody) (corrected : List Nat) (d : Dev) : Dev × Option (List Byte) :=
  let live := (d.port p).trained || (kind == 2 && (d.port p).state == 2)
  if !live || flitKind hdr != kind then (d, none)
  else
    let now := d.hlc (portHub p)
    let d := d.onPort p fun x => (corrected.filter fun l => decide (l < 10)).foldl (fun x l => x.count (12 + l) 1) (x.count 6 corrected.length)
    if fecBad then (discardFlit p (flitSeq hdr) (d.onPort p fun x => { (x.count 7 1) with uncorrAt := some now }), none)
    else if !(d.port p).authentic hdr body then
      let d := d.onPort p fun x => { (x.count 9 1) with auths := (x.auths.filter fun t => within now t 1000000) ++ [now] }
      (checkTags p (discardFlit p (flitSeq hdr) d), none)
    else
      let d := d.onPort p fun x => x.ack (flitAck hdr)
      if flitSeq hdr ≠ (d.port p).rx.toNat % 2 ^ 32 then (discardFlit p (flitSeq hdr) d, none)
      else
        let (x, seg) := if kind = 1 then (d.port p).assemble hdr ((d.port p).payload hdr body) else (d.port p, none)
        (d.onPort p fun _ => { (x.count 5 1) with
          rx := x.rx + 1
          hunting := false
          credits := Tab.put x.credits (bits hdr.toNat 101 100) (Tab.getD x.credits (bits hdr.toNat 101 100) 0 + bits hdr.toNat 99 88) }, seg)

/-- FLIT_MGMT (R382): in SECURING as well. -/
def execFlitMgmt (p : Port) (hdr : BitVec 128) (fecBad : Bool) (body : MgmtBody) (s : State) : Out :=
  runDev (fun _ d => (doFlit p.val 2 hdr fecBad body.body body.corrected d).1) s

/-- RETRY_REQ (R380, R381): the transmitter resends from the flit named; a flit that fails four resends makes the port
retrain. -/
def doRetryReq (p : Nat) (low : Nat) (w : Wk) : Wk :=
  let x := w.dev.port p
  let a := extendSeq x.acked low
  if !(x.trained || x.state == 2) || (x.tx - x.acked).toNat ≤ (a - x.acked).toNat then w
  else
    let n := (x.tx - a).toNat
    let again := a == x.acked && decide (0 < x.resends)
    if again && decide (4 ≤ x.resends) then retrain p w
    else w.on fun d => (d.onPort p fun x => { ((x.count 8 n).count 4 n) with acked := a, resends := if again then x.resends + 1 else 1 }).emit
      (.resend p a n)

/-- RETRY_REQ. -/
def execRetryReq (p : Port) (seq : BitVec 32) (s : State) : Out := runMem (doRetryReq p.val seq.toNat) s

/-- SESSION_REKEY (R383): before the transmit count reaches the next multiple of 2^40 the session goes on under new keys, from the next
flit of each direction on, and flits that waited for it leave; rekeys wait while the security core is down (Table 16-16). -/
def execSessionRekey (p : Port) (s : State) : Out :=
  runDev (fun _ d =>
    let x := d.port p.val
    if !x.trained || !d.secUp || x.tx.toNat / 2 ^ 40 < x.span then d
    else
      let (n, d) := d.draw
      (d.onPort p.val fun x => ({ (x.count 3 1) with session := n + 1, span := x.span + 1, keys := x.keys ++ [(x.rx, n)] } : PortSt).send 0).emit
        (.session p.val n d.fab.pkgId.toNat)) s

/-! ## Segments sent (R340, R386, R387) -/

/-- A segment header (Table 15-4). -/
def segHeader (kind dest src vdev group len : Nat) (seq : BitVec 64) (addr : Nat) : BitVec 256 :=
  BitVec.ofNat 256 (kind % 16 * 2 ^ 252 + dest % 4096 * 2 ^ 240 + src % 4096 * 2 ^ 228 + vdev % 256 * 2 ^ 220 + group % 2 ^ 32 * 2 ^ 188 +
    len % 2 ^ 32 * 2 ^ 156 + seq.toNat * 2 ^ 60 + addr % 2 ^ 48)

/-- The segments of a part of a collective under a message id: kind, ADDR and data. Fragments go 2,047 to a segment, each full word alone
(R387). DESIGN CHOICE (log entry 77): the bytes of a part that is no sum go as WRITE segments of at most 64 KiB, whose ADDR is their
offset in the part. -/
def partSegs (msg : Nat) : PartData → List (Nat × Nat × List Byte)
  | .bytes bs => (List.range (ceilDiv bs.length 65536)).map fun i => (3, 65536 * i, sliceB bs (65536 * i) (min 65536 (bs.length - 65536 * i)))
  | .sums fs ws _ =>
    ((List.range (ceilDiv fs.length 2047)).map fun i =>
      (8, msg % 65536 * 2 ^ 32 + 2047 * i, ((fs.drop (2047 * i)).take 2047).flatMap fun f => natLe 32 f.toNat)) ++
      ws.zipIdx.map fun (w, i) => (9, msg % 65536 * 2 ^ 32 + i, natLe 96 w.toNat)
  | .message _ _ _ => []

/-- The flits of segments: 480 bytes each, the header of 32 bytes first. -/
def segFlits (l : List (BitVec 256 × List Byte)) : Nat := (l.map fun s => ceilDiv (s.2.length + 32) 480).sum

/-- The message of a phase leaves on a port: its segments take sequence numbers and stay in the retry buffer. -/
def sendPart (p pkg : Nat) (e : Exchange) (phase : Nat) (data : PartData) (w : Wk) : Wk :=
  let segs := (partSegs phase data).map fun (k, a, bs) =>
    (segHeader k (Config.peerEndpoint pkg e.group).toNat (0xB00 + p) (Config.peerVdev pkg e.group).toNat e.group bs.length e.seq a, bs)
  settleLanes p (w.on fun d => (d.onPort p fun x => x.send (segFlits segs)).emit (.phaseData p e.group e.seq phase segs))

/-- Change an open exchange. -/
def Dev.onExchange (d : Dev) (no : Nat) (f : Exchange → Exchange) : Dev :=
  { d with fab := { d.fab with exchanges := d.fab.exchanges.map fun e => if e.cmd == no then f e else e } }

/-- What an exchange still owes goes out on the ports of the current map that reach its packages; the rest waits (R384, R392). -/
def flushExchange (e : Exchange) (w : Wk) : Wk :=
  let out := e.due.filterMap fun (pkg, j) => match w.dev.portTo e.vdev pkg, e.sent.find? fun s => s.1 == j with
    | some p, some s => some (p, pkg, s)
    | _, _ => none
  let ports := out.filterMap fun o => if h : o.1 < 16 then some (⟨o.1, h⟩ : Port) else none
  let left := e.due.filter fun x => (w.dev.portTo e.vdev x.1).isNone
  out.foldl (fun w (p, pkg, s) => sendPart p pkg e s.1 s.2 w)
    (w.on fun d => d.onExchange e.cmd fun e => { e with due := left, ports := (e.ports ++ ports).eraseDups })

/-- Fence operations of other packages that found no port leave now (R394). -/
def flushRemote (d : Dev) : Dev :=
  d.fx.remote.foldl (fun d r =>
    if r.sent then d
    else match d.portTo r.vdev ((d.vd r.vdev).slot r.slot).pkg with
      | none => d
      | some p =>
        let d := d.onFx fun x => { x with remote := x.remote.map fun y => if y.id == r.id then { y with sent := true } else y }
        (d.onPort p fun x => x.send 1).emit (.fenceOut p r.vdev r.slot ((d.vd r.vdev).slot r.slot).home r.id r.op)) d

/-- Whatever waits for a port leaves on one that has become live. -/
def flushDue (w : Wk) : Wk := (w.dev.fab.exchanges.foldl (fun w e => flushExchange e w) w).on flushRemote

/-- PORT_SESSION_DONE. -/
def execPortSessionDone (p : Port) (authentic : Bool) (peerAcl : BitVec 16) (peerPort : BitVec 4) (peerPkg : BitVec 32) (s : State) : Out :=
  runMem (fun w => flushDue (w.on (announcing (doSession p.val authentic peerAcl peerPort peerPkg)))) s

/-- PORT_RETRAIN_DONE. -/
def execPortRetrainDone (p : Port) (ok : Bool) (locked : LaneLock) (s : State) : Out :=
  runMem (fun w => flushDue (doRetrainDone p.val ok locked w)) s

end Sys2Proof.Machine
end

