-- ==== Sys2Proof/Machine/Fabric.lean ====
section
/-! DEFINITION. Multi-package work: groups (R388), collectives and their phases (R133 … R135, R389 … R392, R423 … R427), fences of other
packages (R394), segments and the messages of the reedbed (R197, R198, R386, R387), link and router events (R199, R200). -/

namespace Sys2Proof.Machine

open Sys2Proof

/-! ## Groups (R388) -/

/-- JOIN_GROUP: group id, P, participant number, token, and the packages of the two ring neighbours. -/
def doJoinGroup (r : AdReq) (w : Wk) : Ans × Wk :=
  let a := r.args
  let x := w.dev.vd r.fn
  let g : Group := ⟨BitVec.ofNat 32 (fieldLe a 0 4), fieldLe a 4 2, fieldLe a 6 2, BitVec.ofNat 64 (fieldLe a 8 8),
    [BitVec.ofNat 32 (fieldLe a 16 4), BitVec.ofNat 32 (fieldLe a 20 4)]⟩
  let fieldsOk := decide (1 ≤ g.size) && decide (g.size ≤ 4096) && decide (g.rank < g.size)
  let routed := (g.nbrs.filter (· != 0)).all fun n => (w.dev.portTo r.fn n.toNat).isSome
  match firstStatus [(fieldsOk, stField), (routed, stNotHeld), ((x.group? g.id.toNat).isNone, stState), (decide (x.groups.length < 64), stNoRes)] with
  | some st => refuse st w
  | none => performed [] (w.on fun d => d.onVd r.fn fun x => { x with groups := x.groups ++ [g] })

/-- JOIN_GROUP. -/
def execJoinGroup (v : VDev) (s : State) : Out := runMem (takeRequest v.val (adRow 0x0260 24) doJoinGroup) s

/-- LEAVE_GROUP: the group is left, and what was remembered of its failed exchanges goes where no other member is here. -/
def doLeaveGroup (r : AdReq) (w : Wk) : Ans × Wk :=
  let g := fieldLe r.args 0 4
  if ((w.dev.vd r.fn).group? g).isNone then refuse stNotHeld w
  else performed [] (w.on fun d =>
    let d := d.onVd r.fn fun x => { x with groups := x.groups.filter fun y => y.id.toNat != g }
    if d.vds.any fun v => (v.2.group? g).isSome then d
    else { d with fab := { d.fab with 
        failed := d.fab.failed.filter fun f => f.1 != g
        refused := d.fab.refused.filter fun f => f.1 != g } })

/-- LEAVE_GROUP. -/
def execLeaveGroup (v : VDev) (s : State) : Out := runMem (takeRequest v.val (adRow 0x0261 4) doLeaveGroup) s

/-! ## Collectives (R133 … R135) -/

/-- The running participants of a (group, SEQ). -/
def Dev.running (d : Dev) (g : Nat) (seq : BitVec 64) : List Member := d.members g seq fun c => c.phase == .running

/-- The fields that participants must share (R133), with the group's token (R388). -/
def Member.terms (m : Member) (d : Dev) : Nat × Nat × Nat × List (Fmt × List Nat) × Option (BitVec 64) :=
  let b := m.c.block
  (fieldLe m.c.params 0 4, m.c.participants, b.scal 0x28 1, (b.ins ++ b.outs).map (fun t => (t.fmt, t.shape)),
    ((d.vd m.v).group? m.c.group).map Group.token)

/-- A tensor with the format and shape of another, packed without gaps from address 0, its scales behind its elements. -/
def packed (t : Tensor) : Tensor :=
  let (g, b) := packGroup t.fmt
  { t with
    base := 0
    scaleBase := ceilDiv t.count g * b
    stride := (List.range t.shape.length).map fun i => (((t.shape.drop (i + 1)).foldl (· * ·) 1 : Nat) : Int) }

/-- Whether a collective's parts travel as peat sums (R135): a sum that is no FP64 tree. -/
def sumsTravel (k : OpK) (c : Cmd) : Bool :=
  (k == .allReduce || k == .reduceScatter) && c.block.scal 0x28 1 == 0 && (c.block.inp 0).fmt != .fp64

/-- One element of a part of a peat sum: its word, marked in the place of a scale where its terms raised INVALID. -/
def partEl (p : Peat) (invalid : Bool) : El := ⟨0, if invalid then 1 else 0, peatVal p, p⟩

/-- The words of a part of a peat sum: none where a fragment is corrupted data (R86). -/
def partWords (words : List (BitVec 768)) : List (BitVec 256) → Option (List Peat)
  | [] => some []
  | f :: fs =>
    match fragDecode f, partWords words fs with
    | .span p, some ps => some (p :: ps)
    | .full o, some ps => (words[o]?).map fun x => peatOfNat x.toNat :: ps
    | _, _ => none

/-- The input of a participant in another package: its bytes packed, or its part of a peat sum; none where the part is
corrupted. -/
def remoteData (t : Tensor) : PartData → Option Data
  | .bytes bs => some (readData (fun a n => sliceB bs a n) (packed t))
  | .sums fs ws bad => (partWords ws fs).map fun ps => ⟨t.shape, .peat, ps.zipIdx.map fun (p, i) => partEl p (bad.contains i)⟩
  | .message _ _ _ => none

/-- Whether a part has arrived whole in the form that the collective's parts take. -/
def partWhole (k : OpK) (c : Cmd) (t : Tensor) (r : RemotePart) : Bool :=
  match r.data with
  | .bytes _ => !sumsTravel k c
  | .sums fs _ _ => sumsTravel k c && fs.length == t.count
  | .message _ _ _ => false

/-- The bytes of a tensor's elements without gaps, as `packed` lays them out, and its scales behind them. -/
def tensorBytes (t : Tensor) (x : Data) : List Byte :=
  let (g, b) := packGroup t.fmt
  let w := fmtBits t.fmt
  let group (i : Nat) : List Byte := natLe b ((((x.els.drop (g * i)).take g).zipIdx.map fun e => e.1.raw % 2 ^ w * 2 ^ (w * e.2)).sum)
  (List.range (ceilDiv t.count g)).flatMap group ++
    if fmtIsMx t.fmt then (allIdx t.grid).map fun c =>
      BitVec.ofNat 8 (x.at (setAt c t.blockAxis (32 * nth c t.blockAxis))).scale
    else []

/-- A peat sum as it travels (R84, R85, R87): a fragment of each word, and the full words in ascending order, numbered from `n`. -/
def fragParts : List Peat → Nat → List (BitVec 256) × List (BitVec 768)
  | [], _ => ([], [])
  | p :: ps, n =>
    let (f, full) := fragEncode p n
    let (fs, ws) := fragParts ps (if full then n + 1 else n)
    (f :: fs, if full then BitVec.ofNat 768 (leNat (peatBytes p)) :: ws else ws)

/-- Words of a sum, each with whether its terms raised INVALID, in transport form. -/
def sumsOf (l : List (Peat × Bool)) : PartData :=
  let (fs, ws) := fragParts (l.map Prod.fst) 0
  .sums fs ws ((l.zipIdx.filter fun e => e.1.2).map Prod.snd)

/-- The exact sum over the inputs of some participants, in transport form (R87, R389). -/
def sumPart (t : Tensor) (xs : List Data) : PartData :=
  sumsOf ((allIdx t.shape).map fun i =>
    let (p, f) := sumParts (xs.map fun x => (x.fmt, x.at i))
    (p, f != 0))

/-- What a participant puts into the exchange of its own input: a sum as fragments and words, other data as bytes (R135). -/
def ownPart (k : OpK) (c : Cmd) (x : Data) : PartData :=
  if sumsTravel k c then sumPart (c.block.inp 0) [x] else .bytes (tensorBytes (c.block.inp 0) x)

/-- A part that comes as a peat-fragment message is the message's words (R86, R198); one whose message is not whole yet has not come. -/
def arrivedPart (d : Dev) (no : Nat) (r : RemotePart) : Option RemotePart :=
  match r.data with
  | .message src m bad =>
    (d.net.sums.find? fun x => x.cmd == no && x.src == src && x.msg == m).map fun x =>
      { r with data := sumsOf (x.words.zipIdx.map fun (p, i) => (peatOfNat p.toNat, bad.contains i)) }
  | _ => some r

/-- The bytes of the carried state that parts make up, for its digest (R424). -/
def partBytes (r : RemotePart) : List Byte :=
  natLe 2 r.rank ++ match r.data with
    | .bytes bs => bs
    | .sums fs ws _ => fs.flatMap (fun f => natLe 32 f.toNat) ++ ws.flatMap fun w => natLe 96 w.toNat
    | .message _ _ _ => []

/-- The digest of bytes taken as one range (R24, R424). -/
def stateDigest (bs : List Byte) : List Byte :=
  let leaves := (List.range (ceilDiv bs.length 4096)).map fun i => leafHash (sliceB bs (4096 * i) (min 4096 (bs.length - 4096 * i)))
  digestOf [(0, bs.length)] fun _ => leaves

/-- `MC_PR_DIGEST` of carried state. -/
def carriedDigest (rs : List RemotePart) : List Byte := stateDigest (rs.flatMap partBytes)

/-- The inputs of every participant here, or the first that cannot be read. -/
def memberData (w : Wk) : List Member → Except (Member × Acc) (List (Nat × Data))
  | [] => .ok []
  | m :: t =>
    match inputData m.c.mover w m.v m.c.block with
    | .error e => .error (m, e)
    | .ok ds => (memberData w t).map fun r => (m.c.rank, ds.headD ⟨[], .fp32, []⟩) :: r

/-- The phases of a collective's ring exchange (R423). -/
def phasesOf (k : OpK) (p : Nat) : Nat := if k == .allReduce then 2 * (p - 1) else p - 1

/-- MC dies in service, ascending from a number. -/
def Dev.diesFrom (d : Dev) (k : Nat) : List Nat := ((List.range 32).map fun i => (k + i) % 32).filter fun i =>
  !(d.die i).lost && (List.range 32).any fun j => d.serving .chan (32 * i + j)

/-- The units of a record's buffer with its bytes as they stand in the staging areas. -/
def PhaseRec.stateBytes (r : PhaseRec) (w : Wk) : List Byte :=
  (List.range r.len).flatMap fun i => w.bytes .slot0 (stagingAt r.stateDie (r.buffer + i)) 4096

/-- Whether a copy of a phase record can be read, and the carried state with the record's digest (R426). -/
def PhaseRec.readable (r : PhaseRec) (w : Wk) : Bool :=
  let d := w.dev
  let copy (c : Nat × Nat) : Bool := !(d.die c.1).lost && !poisoned d (recordAt c)
  let whole := (List.range r.len).all fun i => (List.range 64).all fun j => !poisoned d (stagingAt r.stateDie (r.buffer + i) + 64 * j)
  let n := (r.carried.flatMap partBytes).length
  (r.copyA.any copy || r.copyB.any copy) && !(d.die r.stateDie).lost && whole &&
    r.digest == stateDigest ((r.stateBytes w).take n)

/-- The phase record of a participant. -/
def Dev.phaseOf (d : Dev) (v : Nat) (c : Cmd) : Option PhaseRec := d.records.find? fun r => r.isOf v c

/-- The ring neighbours of a participant in other packages. -/
def Dev.neighbours (d : Dev) (v g : Nat) : List Nat :=
  (((d.vd v).group? g).map fun y => ((y.nbrs.filter (· != 0)).map BitVec.toNat).eraseDups).getD []

/-- Units that a record holds of the staging areas of a die. -/
def PhaseRec.span (r : PhaseRec) (die : Nat) : Option (Nat × Nat) := if r.stateDie = die then some (r.unit, 2 * r.room) else none

/-- Where a buffer pair of `n` units fits in the staging areas of a die: the lowest place. -/
def Dev.stagingPlace (d : Dev) (die n : Nat) : Nat :=
  let held := d.records.filterMap fun r => r.span die
  let free (u : Nat) : Bool := decide (u + n ≤ stagingRoom) && held.all fun h => decide (u + n ≤ h.1) || decide (h.1 + h.2 ≤ u)
  ((0 :: held.map fun h => h.1 + h.2).find? free).getD 0

/-- The die that firmware picks for carried state: in service, with the most free staging (R424); of equals the lowest. -/
def Dev.stateDie (d : Dev) : Option Nat :=
  let held (k : Nat) : Nat := (d.records.filterMap fun r => (r.span k).map Prod.snd).sum
  (d.diesFrom 0).foldl (fun b k => match b with
    | none => some k
    | some a => if held k < held a then some k else b) none

/-- A free record of the phase-record areas of a die. -/
def Dev.recordPlace (d : Dev) (die : Nat) : Nat × Nat :=
  let used := (d.records.flatMap fun r => r.copyA.toList ++ r.copyB.toList).filterMap fun c => if c.1 = die then some c.2 else none
  (die, firstFree used used.length 0)

/-- A participant's record before its first phase: the places of its carried state and of its two copies (R424). -/
def newRecord (k : OpK) (m : Member) (d : Dev) : PhaseRec :=
  let a := d.stateDie
  let b := a.bind fun a => ((d.diesFrom (a + 16)).filter (· != a)).head?
  let room := min 131072 (ceilDiv (m.c.participants * (2 + 128 * (m.c.block.inp 0).count)) 4096)
  ⟨m.v, 1, BitVec.ofNat 32 m.c.group, m.c.opSeq, m.c.rank, 0, phasesOf k m.c.participants, 0, room, d.stagingPlace (a.getD 0) (2 * room),
    a.map d.recordPlace, b.map d.recordPlace, a.getD 0, [], carriedDigest []⟩

/-- A phase commits (R425): the carried state is written to its buffer, then the record to both copies. -/
def writeRecord (r : PhaseRec) (w : Wk) : Wk :=
  let bs := r.carried.flatMap partBytes
  let w := (List.range r.len).foldl (fun w i =>
    let a := stagingAt r.stateDie (r.buffer + i)
    (w.put .slot0 a (sliceB bs (4096 * i) (min 4096 (bs.length - 4096 * i)))).on (countLines (chanOf a) 1 64)) w
  (r.copyA.toList ++ r.copyB.toList).foldl (fun w c =>
    (w.put .slot0 (recordAt c) r.bytes).on (countLines (chanOf (recordAt c)) 1 1)) w

/-- A message of an exchange: kept with that of the phase before (R427), and owed to the neighbours in other packages. -/
def oweMessage (m : Member) (j : Nat) (data : PartData) (d : Dev) : Dev :=
  d.onExchange m.c.no fun e => { e with
    sent := (e.sent.filter fun s => decide (j ≤ s.1 + 1)) ++ [(j, data)]
    due := e.due ++ (d.neighbours m.v m.c.group).map fun n => (n, j) }

/-- What a participant sends in a phase (R389). DESIGN CHOICE (log entry 77; the manual leaves the algorithm open): first its own part;
then, up to phase P − 1, the part that came in the phase before; then, of a sum, the whole sum, and of other data the parts again. -/
def phasePart (k : OpK) (c : Cmd) (own : Data) (parts : List RemotePart) (xs : List Data) (j : Nat) : PartData :=
  let p := c.participants
  if j ≤ 1 then ownPart k c own
  else if j < p then ((parts[j - 2]?).map RemotePart.data).getD (.bytes [])
  else if sumsTravel k c then sumPart (c.block.inp 0) xs
  else ((parts[j - p]?).map RemotePart.data).getD (.bytes [])

/-- A participant opens its exchange: with no record it sends its own part; with a record it can read it resumes at the next phase,
asking its neighbours for their messages of it; otherwise it starts again from its inputs (R424 … R427). -/
def openExchange (k : OpK) (m : Member) (own : Data) (w : Wk) : Wk :=
  if w.dev.fab.exchanges.any fun e => e.cmd == m.c.no then w
  else
    let e : Exchange := ⟨m.c.no, m.v, m.q, m.c.group, m.c.opSeq, m.c.rank, [], [], []⟩
    let w := w.on fun d => { d with fab := { d.fab with exchanges := d.fab.exchanges ++ [e] } }
    let tell (o : Nat → Output) (w : Wk) : Wk :=
      (w.dev.groupPorts m.v m.c.group).foldl (fun w p => w.on fun d => (d.onPort p fun x => x.send 1).emit (o p)) w
    match w.dev.phaseOf m.v m.c with
    | none => w.on (oweMessage m 1 (ownPart k m.c own))
    | some r =>
      if r.readable w then
        let w := if r.phase < r.phases then w.on (oweMessage m (r.phase + 1) (phasePart k m.c own r.carried [] (r.phase + 1))) else w
        tell (fun p => .resume p m.c.group m.c.opSeq (r.phase + 1)) w
      else
        (tell (fun p => .restart p m.c.group m.c.opSeq) (freeRecords (fun y => y.isOf m.v m.c) w)).on (oweMessage m 1 (ownPart k m.c own))

/-- What a participant has of the others after a step: the parts carried from earlier phases and those that arrive. -/
def carriedParts (k : OpK) (m : Member) (here : List Nat) (remote : List RemotePart) (w : Wk) : List RemotePart :=
  let old := match w.dev.phaseOf m.v m.c with
    | some r => if r.readable w then r.carried else []
    | none => []
  let t := m.c.block.inp 0
  let new := if (w.dev.neighbours m.v m.c.group).isEmpty then [] else
    (remote.filterMap (arrivedPart w.dev m.c.no)).filter fun r =>
      partWhole k m.c t r && !here.contains r.rank && !(old.any fun o => o.rank == r.rank)
  (old.filter fun r => !here.contains r.rank) ++ new

/-- Phases commit as the messages of the other participants are known (R425): each leaves its record, and only then do the messages of
the next phase go out. With the last part every phase is done. -/
def commitPhases (k : OpK) (m : Member) (own : Data) (xs : List Data) (parts : List RemotePart) (w : Wk) : Wk :=
  let r := (w.dev.phaseOf m.v m.c).getD (newRecord k m w.dev)
  let till := if m.c.participants ≤ xs.length then r.phases else max r.phase (min (xs.length - 1) r.phases)
  if till ≤ r.phase then w
  else
    let next : PhaseRec := { r with
      phase := till
      len := min r.room (ceilDiv (parts.flatMap partBytes).length 4096)
      carried := parts
      digest := carriedDigest parts }
    let w := (writeRecord next w).on fun d => { d with records := (d.records.filter fun y => !y.isOf m.v m.c) ++ [next] }
    (List.range (min (till + 1) r.phases - (r.phase + 1))).foldl (fun w i =>
      w.on (oweMessage m (r.phase + 2 + i) (phasePart k m.c own parts xs (r.phase + 2 + i)))) w

/-- A participant is refused as malformed at its first exchange (R133, R274): it has written nothing. -/
def refuseMember (m : Member) (w : Wk) : Wk :=
  failCmd m.v m.q 0x22 ⟨m.c.param, false, false, 0x18, 0x0D⟩ (w.on fun d => d.onCur m.v m.q fun c => { c with outs := [] })

/-- The participants of a (group, SEQ) differ in a field (R133): every one here is refused, and one that comes later too. -/
def refuseAll (g : Nat) (seq : BitVec 64) (ms : List Member) (w : Wk) : Wk :=
  ms.foldl (fun w m => refuseMember m w) (w.on fun d =>
    { d with fab := { d.fab with refused := if d.fab.refused.contains (g, seq) then d.fab.refused else d.fab.refused ++ [(g, seq)] } })

/-- Whether a command is in flight at its exchange: it has begun, and its failure is not decided. -/
def Cmd.inExchange (c : Cmd) : Bool := c.started && c.failOut.isNone && c.phase != .failing && c.phase != .refusing && c.phase != .aborting

/-- Every participant here writes its outputs. -/
def writeMembers (k : OpK) (xs : List Data) (ms : List Member) (w : Wk) : Wk :=
  ms.foldl (fun w m =>
    let b := m.c.block
    let (ws, fl) := writeOuts b m.c.key (evalCollective k b m.c.rank xs)
    (finishOp m.v m.q m.x m.c ws fl w).on (closeExchanges m.c.no)) w

/-- The first participant here whose outputs cannot be written. -/
def memberBlocked (k : OpK) (xs : List Data) (w : Wk) (ms : List Member) : Option (Member × Acc) :=
  ms.findSome? fun m =>
    (badRun m.c.mover w.dev m.v (runsOf (writeOuts m.c.block m.c.key (evalCollective k m.c.block m.c.rank xs)).1)).map fun e => (m, e)

/-- A collective (R133 … R135): when the inputs of all P participants are here, each participant on this device writes its
outputs; until then the exchange stays open and its phases commit. A mismatch refuses every participant, a duplicate the
later command. An exchange that has failed fails the command with 0x0011 (R391). Corrupted fragments replay it (R86). -/
def runCollective (k : OpK) (v q : Nat) (remote : List RemotePart) (w : Wk) : Wk :=
  match runningOp w.dev v q k with
  | none => w
  | some (x, c) =>
    let me : Member := ⟨v, q, x, c⟩
    let key := (c.group, c.opSeq)
    if (w.dev.groupPorts v c.group).any fun p => w.dev.dredgeBars (fun e => match e with | .lx y => y.val == p | _ => false) c.no then w
    else if w.dev.fab.refused.contains key then refuseMember me w
    else if w.dev.fab.failed.contains key then failCmd v q 0x11 Detail.none w
    else
      let all := w.dev.running c.group c.opSeq
      let twin (m : Member) : Bool := m.c.rank == c.rank && m.c.no != c.no && (decide (m.c.no < c.no) || m.c.phase != .running)
      let opened := (w.dev.fab.exchanges.any fun e => e.cmd == c.no) || (w.dev.phaseOf v c).isSome
      if (w.dev.members c.group c.opSeq Cmd.inExchange).any twin || (!opened && remote.any fun r => r.rank == c.rank) then refuseMember me w
      else
        let ms := all.filter fun m => !(all.any fun o => o.c.rank == m.c.rank && decide (o.c.no < m.c.no))
        let parts := carriedParts k me (ms.map fun m => m.c.rank) remote w
        if ms.any (fun m => m.terms w.dev != me.terms w.dev) || parts.any (fun r => !r.same) then refuseAll c.group c.opSeq ms w
        else match memberData w ms with
          | .error (m, e) => stallCmd m.c.mover m.v m.q m.x m.c 1 e w
          | .ok mine =>
            let t := c.block.inp 0
            let far := parts.map fun r => (r.rank, remoteData t r.data)
            if far.any fun e => e.2.isNone then replayCmd v q [] w
            else
              let data := mine ++ far.filterMap fun e => e.2.map fun y => (e.1, y)
              let xs := (List.range c.participants).filterMap fun i => (data.find? fun e => e.1 == i).map Prod.snd
              let w := ms.foldl (fun w m =>
                if m.c.no = c.no || c.participants ≤ xs.length then
                  let own := ((mine.find? fun e => e.1 == m.c.rank).map Prod.snd).getD ⟨[], t.fmt, []⟩
                  commitPhases k m own xs parts (openExchange k m own w)
                else w) w
              let w := flushDue w
              if xs.length < c.participants || (w.dev.fab.exchanges.any fun e => (ms.any fun m => m.c.no == e.cmd) && !e.due.isEmpty) then w
              else match memberBlocked k xs w ms with
                | some (m, e) => stallCmd m.c.mover m.v m.q m.x m.c 2 e w
                | none => writeMembers k xs ms w

/-! ## Notices between participants (R391, R427) -/

/-- Whether a command's failure is still to be decided. -/
def Cmd.open_ (c : Cmd) : Bool := c.failOut.isNone && c.phase != .failing && c.phase != .refusing

/-- PEER_FAILURE (R391): the notice, of which the hubs of the group's ports are told (Table 16-14), is relayed once, and every participant here whose fence is pending fails with 0x0011. -/
def doPeerFailure (g : Nat) (seq : BitVec 64) (w : Wk) : Wk :=
  let w := w.on fun d => failExchange g seq (((d.joined g).flatMap fun v => d.groupPorts v g).eraseDups.foldl (fun d p => raiseSrc (portHub p) (0x141 + p) d) d)
  (w.dev.members g seq Cmd.open_).foldl (fun w m => failCmd m.v m.q 0x11 Detail.none w) w

/-- PEER_FAILURE. -/
def execPeerFailure (group : BitVec 32) (seq : BitVec 64) (s : State) : Out := runMem (doPeerFailure group.toNat seq) s

/-- RESTART (R427): relayed once; every participant here abandons its attempt and runs again from its inputs. A copy that comes
back finds no attempt to abandon. -/
def doRestart (g : Nat) (seq : BitVec 64) (w : Wk) : Wk :=
  let ms := w.dev.running g seq
  if ms.isEmpty then w
  else
    let w := w.on fun d => (d.joined g).foldl (fun d v => (d.groupPorts v g).foldl (fun d p => (d.onPort p fun x => x.send 1).emit (.restart p g seq)) d) d
    let w := freeRecords (fun r => r.kind == 1 && r.group.toNat == g && r.seq == seq) w
    ms.foldl (fun w m => abandonCmd m.v m.q w) w

/-- RESTART. -/
def execRestart (group : BitVec 32) (seq : BitVec 64) (s : State) : Out := runMem (doRestart group.toNat seq) s

/-- RESUME (R427): the message of a phase that a participant keeps is sent again. -/
def doResume (g : Nat) (seq : BitVec 64) (j : Nat) (w : Wk) : Wk :=
  flushDue (w.on fun d => d.fab.exchanges.foldl (fun d e =>
    if e.group != g || e.seq != seq || !(e.sent.any fun s => s.1 == j) then d
    else d.onExchange e.cmd fun e => { e with due := (e.due.filter fun x => x.2 != j) ++ (d.neighbours e.vdev g).map fun n => (n, j) }) d)

/-- RESUME. -/
def execResume (group : BitVec 32) (seq : BitVec 64) (phase : Nat) (s : State) : Out :=
  runMem (doResume group.toNat seq phase) s

/-- An MC die is lost (R426): a lost copy B is written again on the next die in service; with copy A the carried state is lost,
and the request starts again on every participant. -/
def loseRecords (k : Nat) (w : Wk) : Wk :=
  let dead := w.dev.records.filter fun r => r.kind == 1 && r.stateDie == k
  let w := (w.dev.records.filter fun r => r.copyB.any fun c => c.1 == k).foldl (fun w r =>
    let next : PhaseRec := { r with
      copyB := (((w.dev.diesFrom (k + 1)).filter fun i => i != k && !(r.copyA.any fun c => c.1 == i)).head?).map w.dev.recordPlace }
    let w := next.copyB.toList.foldl (fun w c => w.put .slot0 (recordAt c) next.bytes) w
    w.on fun d => { d with records := d.records.map fun y => if y == r then next else y }) w
  dead.foldl (fun w r => doRestart r.group.toNat r.seq w) w

/-! ## Fences of other packages (R394) -/

/-- FENCE_PROXY_TIMEOUT (R394): no port of the composition has reached the home for 100 ms, and the proxy fails locally with
0x0011. -/
def execFenceProxyTimeout (v : VDev) (slot : BitVec 16) (s : State) : Out :=
  runDev (fun _ d =>
    let y := (d.vd v.val).slot slot.toNat
    match y.ref with
    | .cell _ => d
    | .proxy pv ps =>
      if !y.inUse || (d.portTo v.val y.pkg).isSome || d.proxyFailed pv ps then d
      else
        let mine := d.fx.remote.filter fun r => r.vdev == pv && r.slot == ps
        let d := d.onFx fun x => { x with
          deadProxies := x.deadProxies ++ [(pv, ps)]
          remote := x.remote.filter fun r => !(r.vdev == pv && r.slot == ps) }
        mine.foldl (fun d r => answerDead r.op r.src d) d) s

/-- The answer to an import that went to another package: the slot becomes a proxy of the cell there. Without a free slot the import is
refused, which counts (R304), and the cell's home is told to let it go. -/
def answerImport (v slot status cell : Nat) (d : Dev) : Dev :=
  match Tab.get? (d.fn v).taken slot, (d.vd v).freeSlot with
  | some ⟨tag, .importFence pkg rights, _⟩, some i =>
    if status = 0 then
      let (id, d) := bindSlot v i (.proxy v i) false (bitAt rights 1) pkg cell d
      adRespond v slot tag stOk 0 (natLe 4 id) d
    else adRespond v slot tag stNotHeld 0 [] (countRefusal v d)
  | some ⟨tag, .importFence pkg _, _⟩, none =>
    let d := adRespond v slot tag (if status = 0 then stNoRes else stNotHeld) 0 [] (countRefusal v d)
    if status = 0 then d.emit (.fenceRelease pkg cell) else d
  | _, _ => d

/-- An import of an export of this package by another (R304, R394): checked as any import; the cell is held for the proxy. -/
def serveImport (p id ex : Nat) (token : BitVec 64) (rights : Nat) (d : Dev) : Dev :=
  match Tab.get? d.exports ex with
  | some y =>
    match y.ref with
    | .cell k =>
      if y.token = token ∧ (rights ||| y.rights.toNat) = y.rights.toNat ∧ rights ≠ 0 then
        (d.onFx fun x => { x with held := x.held ++ [k] }).emit (.importAnswer p id 0 k)
      else d.emit (.importAnswer p id 3 0)
    | .proxy _ _ => d.emit (.importAnswer p id 3 0)
  | none => d.emit (.importAnswer p id 3 0)

/-- A reply or notification for a proxy reaches the hub that sent the operation. -/
def remoteAnswer (id : Nat) (f : FSrc → Dev → Dev) (d : Dev) : Dev :=
  match takeFirst (fun r : FRemote => r.id == id) d.fx.remote with
  | some (r, rest) => f r.src (d.onFx fun x => { x with remote := rest })
  | none => d

/-- A fence operation of another package reaches this home (R394). -/
def homeOp (p id cell : Nat) (op : FOp) (d : Dev) : Dev :=
  if d.fx.held.contains cell then d.onFx fun x => { x with reqs := x.reqs ++ [⟨x.nextId, cell, op, .remote p id⟩], nextId := x.nextId + 1 } else d

/-- The outcomes of Table 9-5 by number. -/
def outOf (n code : Nat) : FOut :=
  if n = 0 then .applied else if n = 1 then .stale else if n = 2 then .refused code else if n = 3 then .signalled else .alreadyFailed code

/-- A CONTROL segment. The layout of its data is the model's: byte 0 says what it is, fields follow little-endian. -/
def controlSegment (p vdev g : Nat) (seq : BitVec 64) (bs : List Byte) (w : Wk) : Wk :=
  let f (off n : Nat) : Nat := fieldLe bs off n
  match f 0 1 with
  | 1 => w.on (homeOp p (f 1 8) (f 9 8) (.signal (BitVec.ofNat 64 (f 17 8))))
  | 2 => w.on (homeOp p (f 1 8) (f 9 8) (.fail (f 25 2) (BitVec.ofNat 64 (f 17 8))))
  | 3 => w.on (homeOp p (f 1 8) (f 9 8) (.wait (BitVec.ofNat 64 (f 17 8))))
  | 4 => w.on (remoteAnswer (f 1 8) fun src d => replyFence src (outOf (f 9 1) (f 10 2)) d)
  | 5 => w.on (remoteAnswer (f 1 8) fun src d => noteWait src (if f 9 2 = 0 then none else some (f 9 2)) d)
  | 6 => w.on (serveImport p (f 1 8) (f 9 4) (BitVec.ofNat 64 (f 13 8)) (f 21 1))
  | 7 => w.on (answerImport vdev (f 1 1) (f 2 1) (f 3 8))
  | 8 => w.on fun d => releaseCell (f 1 8) (d.onFx fun x => { x with held := x.held.erase (f 1 8) })
  | 9 => doPeerFailure g seq w
  | 10 => doRestart g seq w
  | 11 => doResume g seq (f 1 2) w
  | 12 => w.on (homeOp p (f 1 8) (f 9 8) .read)
  | 13 => w.on (remoteAnswer (f 1 8) fun src d => readBack src (f 9 1) (f 10 8) (f 18 2) d)
  | _ => w

/-! ## The reedbed's messages (R197, R198, R387) -/

/-- A peat-fragment message in reception, or a new one. -/
def Net.msg (x : Net) (ep src : BitVec 12) (m : BitVec 16) : FragMsg :=
  (x.msgs.find? fun y => y.ep == ep && y.src == src && y.msg == m).getD ⟨ep, src, m, [], []⟩
/-- Replace a message. -/
def Net.setMsg (x : Net) (y : FragMsg) : Net :=
  { x with msgs := (x.msgs.filter fun z => !(z.ep == y.ep && z.src == y.src && z.msg == y.msg)) ++ [y] }

/-- The current commands that a test picks, each with its virtual device and queue. -/
def Dev.currents (d : Dev) (p : Nat → Cmd → Bool) : List (Nat × Nat) :=
  d.vds.flatMap fun v => v.2.queues.filterMap fun q => match q.2.cur with
    | some c => if p v.1 c then some (v.1, q.1) else none
    | none => none

/-- Whether an endpoint works for a command: a core that runs it, the control core of its cluster, an MC die that serves its requests, an
LX die that carries its exchange, a hub whose DMA moves its data. -/
def Dev.worksFor (d : Dev) (ep : Nat) (v : Nat) (c : Cmd) : Bool :=
  if ep < 2176 then (d.core ep).busy == some c.no
  else if 0x900 ≤ ep ∧ ep < 0x920 then c.clusters.contains (ep - 0x900)
  else if 0xA00 ≤ ep ∧ ep < 0xA20 then (cmdEngines d c).any fun e => match e with | .mc k => k.val == ep - 0xA00 | _ => false
  else if 0xB00 ≤ ep ∧ ep < 0xB10 then d.fab.exchanges.any fun e => e.cmd == c.no && (d.groupPorts e.vdev e.group).contains (ep - 0xB00)
  else if 0xC00 ≤ ep ∧ ep < 0xC02 then hubOf v == ep - 0xC00 && (cmdEngines d c).any fun e => match e with | .dma _ => true | _ => false
  else false

/-- The commands that run on an endpoint are replayed: data reached it corrupted, which counts as a parity event (R86, R200, R414). -/
def replayEndpoint (ep : Nat) (w : Wk) : Wk :=
  let l := w.dev.currents (w.dev.worksFor ep)
  l.foldl (fun w m => replayCmd m.1 m.2 [] w) (if l.isEmpty then w else w.on (bump 1))

/-- The collective that a message to an endpoint is for, and how many fragments it has, known to both sides from the operation (R198): the
elements of the input. -/
def Dev.msgFor (d : Dev) (ep : Nat) : Option (Cmd × Nat) :=
  match d.currents (fun v c => c.isColl && d.worksFor ep v c) with
  | (v, q) :: _ => (d.cur? v q).map fun c => (c, (c.block.ins.map Tensor.count).headD 0)
  | [] => none

/-- Whether a message has been received whole (R198): all n fragments and every full word that a FULL fragment names. -/
def FragMsg.complete (y : FragMsg) (n : Nat) : Bool :=
  (List.range n).all fun i => match Tab.get? y.frags i with
    | none => false
    | some f => match fragDecode f with
      | .full o => (Tab.get? y.words o).isSome
      | _ => true

/-- The number of full words in the array of n fragments. -/
def FragMsg.fulls (y : FragMsg) (n : Nat) : Nat :=
  ((List.range n).filter fun i => match (Tab.get? y.frags i).map fragDecode with
    | some (.full _) => true
    | _ => false).length

/-- Whether a FULL fragment names a word that the message cannot hold (R85, R86): an ordinal that names no full word. -/
def FragMsg.corrupt (y : FragMsg) (n : Nat) : Bool :=
  ((List.range n).all fun i => (Tab.get? y.frags i).isSome) && (List.range n).any fun i => match (Tab.get? y.frags i).map fragDecode with
    | some (.full o) => decide (y.fulls n ≤ o)
    | _ => false

/-- The words of a whole message (R86). -/
def FragMsg.wordsOf (y : FragMsg) (n : Nat) : List Peat :=
  (List.range n).map fun i => match (Tab.get? y.frags i).map fragDecode with
    | some (.span p) => p
    | some (.full o) => peatOfNat ((Tab.get? y.words o).getD 0).toNat
    | _ => Peat.zero

/-- A message that is whole leaves reception: its words stand ready for the command there (R86, R87), and the id under which an LX die
framed it is free again. One whose FULL fragment names no word is corrupted data. -/
def settleMsg (y : FragMsg) (w : Wk) : Wk :=
  match w.dev.msgFor y.ep.toNat with
  | none => w
  | some (c, n) =>
    let drop (x : Net) : Net := { x with
      msgs := x.msgs.filter fun z => !(z.ep == y.ep && z.src == y.src && z.msg == y.msg)
      relays := x.relays.filter fun r => !(0xB00 + r.1 == y.src.toNat && r.2.2.2 == y.msg) }
    if y.corrupt n then replayEndpoint y.ep.toNat (w.on fun d => { d with net := drop d.net })
    else if !y.complete n then w
    else w.on fun d =>
      let m : WholeMsg := ⟨c.no, y.src, y.msg, (y.wordsOf n).map fun p => BitVec.ofNat 768 (leNat (peatBytes p))⟩
      let x := drop d.net
      { d with net := { x with sums := (x.sums.filter fun z => !(z.cmd == c.no && z.src == y.src && z.msg == y.msg)) ++ [m] } }

/-- Fragments arrive at an endpoint (R198): each is placed by its index. A corrupted one replays the command there. -/
def placeFragments (ep src : BitVec 12) (m : BitVec 16) (first : Nat) (fs : List (BitVec 256)) (w : Wk) : Wk :=
  if fs.any fun f => fragDecode f == .corrupt then replayEndpoint ep.toNat w
  else
    let y := fs.zipIdx.foldl (fun (y : FragMsg) f => { y with frags := Tab.put y.frags (first + f.2) f.1 }) (w.dev.net.msg ep src m)
    settleMsg y (w.on fun d => { d with net := d.net.setMsg y })

/-- A full word arrives at an endpoint (R198): it is placed by its ordinal. -/
def placeWord (ep src : BitVec 12) (m : BitVec 16) (ordinal : Nat) (word : BitVec 768) (w : Wk) : Wk :=
  let y := w.dev.net.msg ep src m
  let y : FragMsg := { y with words := Tab.put y.words ordinal word }
  settleMsg y (w.on fun d => { d with net := d.net.setMsg y })

/-- Dictionary and firmware traffic reaches its endpoint (R191, R197). -/
def arriveMgmt (dest src : BitVec 12) (payload : List Byte) (d : Dev) : Dev :=
  { d with net := { d.net with mgmt := d.net.mgmt ++ [(dest, src, payload)] } }

/-- FRAGMENTS (R197, R198): one to four consecutive fragments. -/
def execFragments (ep src : BitVec 12) (msg : BitVec 16) (first : Nat) (frags : List (BitVec 256)) (s : State) : Out :=
  runMem (fun w => if frags.length = 0 || 4 < frags.length then w else placeFragments ep src msg first frags w) s

/-- FULL_WORD (R198). -/
def execFullWord (ep src : BitVec 12) (msg : BitVec 16) (ordinal : Nat) (word : BitVec 768) (s : State) : Out :=
  runMem (placeWord ep src msg ordinal word) s

/-- MGMT. -/
def execMgmt (dest src : BitVec 12) (payload : List Byte) (s : State) : Out := runDev (fun _ d => arriveMgmt dest src payload d) s

/-- 32-byte fragments of the data of a segment. -/
def segFragments (bs : List Byte) : List (BitVec 256) :=
  (List.range (bs.length / 32)).map fun i => BitVec.ofNat 256 (fieldLe bs (32 * i) 32)

/-- The id under which the LX die of a port frames a message of another package: each remote source and id has one of its own among the
messages in flight (R198, R387). -/
def relayId (p : Nat) (src : BitVec 12) (m : BitVec 16) (d : Dev) : BitVec 16 × Dev :=
  match d.net.relays.find? fun r => r.1 == p && r.2.1 == src && r.2.2.1 == m with
  | some r => (r.2.2.2, d)
  | none =>
    let used := (d.net.relays.filter fun r => r.1 == p).map fun r => r.2.2.2.toNat
    let i := BitVec.ofNat 16 (firstFree used used.length 0)
    (i, { d with net := { d.net with relays := d.net.relays ++ [(p, src, m, i)] } })

/-- A peat-fragment message is framed onto the reedbed again by the LX die that received it (R387): its packets go from the LX
die to the endpoint. -/
def reframe (p : Nat) (dest src : BitVec 12) (vdev : Nat) (m : BitVec 16) (first : Nat) (fs : List (BitVec 256)) (d : Dev) : Dev :=
  let (i, d) := relayId p src m d
  { d with net := (fragPackets dest (BitVec.ofNat 12 (0xB00 + p)) vdev i.toNat fs.length first fs).foldl (fun x k => x.send k.1 k.2) d.net }

/-- FABRIC_SEGMENT (R386, R387): a segment arrives on a port whose session is live and is framed onto the reedbed again. -/
def doSegment (p : Nat) (hdr : BitVec 256) (bs : List Byte) (w : Wk) : Wk :=
  let h := hdr.toNat
  let dest := BitVec.ofNat 12 (bits h 251 240)
  let src := BitVec.ofNat 12 (bits h 239 228)
  let a := bits h 47 0
  let m := BitVec.ofNat 16 (bits a 47 32)
  if !(w.dev.port p).trained || bits h 187 156 ≠ bs.length || 65536 < bs.length then w
  else match bits h 255 252 with
    | 8 => if bs.length % 32 ≠ 0 || 2047 < bs.length / 32 then w
      else w.on (reframe p dest src (bits h 227 220) m (bits a 31 0) (segFragments bs))
    | 9 => if bs.length ≠ 96 then w
      else w.on fun d =>
        let (i, d) := relayId p src m d
        let k := wordPacket dest (BitVec.ofNat 12 (0xB00 + p)) (bits h 227 220) i.toNat (bits a 31 0) (BitVec.ofNat 768 (leNat bs))
        { d with net := d.net.send k.1 k.2 }
    | 10 => controlSegment p (bits h 227 220) (bits h 219 188) (BitVec.ofNat 64 (bits h 123 60)) bs w
    | 11 => w.on (arriveMgmt dest src bs)
    | _ => w

/-- FABRIC_SEGMENT. -/
def execFabricSegment (p : Port) (hdr : BitVec 256) (data : List Byte) (s : State) : Out := runMem (doSegment p.val hdr data) s

/-- FLIT_DATA (R380, R383, R385, R386): the flit that ends a segment delivers it. -/
def doFlitData (p : Nat) (hdr : BitVec 128) (fecBad : Bool) (body : FlitBody) (corrected : List Nat) (w : Wk) : Wk :=
  let (d, seg) := doFlit p 1 hdr fecBad body corrected w.dev
  let w := settleLanes p (w.on fun _ => d)
  match seg with
  | none => w
  | some bs =>
    let h := BitVec.ofNat 256 (fieldLe bs 0 32)
    doSegment p h (sliceB bs 32 (min (bits h.toNat 187 156) (bs.length - 32))) w

/-- FLIT_DATA. -/
def execFlitData (p : Port) (hdr : BitVec 128) (fecBad : Bool) (body : FlitBody) (corrected : List Nat) (s : State) : Out :=
  runMem (doFlitData p.val hdr fecBad body corrected) s

/-! ## Reedbed links (R199, R200) -/

/-- The hub that owns a link, by its column (R189). DESIGN CHOICE (log entry 76; R199 says only "the owning hub"): a link between columns
15 and 16 goes to the hub of column 15, an attachment to the hub of its core, port or die. -/
def linkHub : LinkId → Nat
  | .x c _ => if c.val < 16 then 0 else 1
  | .y c _ => if c.val < 16 then 0 else 1
  | .attach r => if r.val < 64 then (if r.val / 2 % 16 < 8 then 0 else 1) else if r.val < 80 then portHub (r.val - 64) else (r.val - 80) / 2 % 2
  | .corePort r => if r.val / 4 % 16 < 8 then 0 else 1

/-- A link is retired (R200): the receivers report the last packet they accepted, traffic takes the detour, the distance table
has a new generation, and core lists follow it. -/
def retireLink (l : LinkId) (d : Dev) : Dev :=
  if d.net.retired.contains l then d
  else
    let d := [true, false].foldl (fun d a => d.emit (.linkAccepted (l, a) (d.net.link (l, a)).accepted)) d
    let x := d.net.detour l
    rebuildAll (bump 8 { d with net := { x with gen := x.gen + 1 } })

/-- The links of a router (Table 8-1): routers 0 … 127 are those of the clusters, 128 … 211 those of the attachments. -/
def routerLinks (r : Nat) : List LinkId :=
  if r < 128 then
    let (x, y) := routerAt r
    let xs := ([x - 1, x].eraseDups.filter fun a => decide (a + 1 = x) || a == x).filterMap fun a =>
      if h : a < 31 ∧ y < 4 then some (LinkId.x ⟨a, h.1⟩ ⟨y, h.2⟩) else none
    let ys := ([y - 1, y].eraseDups.filter fun a => decide (a + 1 = y) || a == y).filterMap fun a =>
      if h : x < 32 ∧ a < 3 then some (LinkId.y ⟨x, h.1⟩ ⟨a, h.2⟩) else none
    let att := ((List.range 64).filter fun q => portRouter q == (x, y)) ++
      ((List.range 16).filter fun p => (if p < 8 then (0, p / 2) else (31, (p - 8) / 2)) == (x, y)).map (64 + ·) ++
      ((List.range 4).filter fun h => ((if h < 2 then 0 else 31), h % 2 + 1) == (x, y)).map (80 + ·)
    xs ++ ys ++ (att.filterMap fun a => if h : a < 84 then some (LinkId.attach ⟨a, h⟩) else none) ++
      (if h : r < 128 then [LinkId.corePort ⟨r, h⟩] else [])
  else if h : r - 128 < 84 then [LinkId.attach ⟨r - 128, h⟩] else []

/-- ROUTER_FAIL (R200): all its links are retired, and the cores on its core port. -/
def execRouterFail (r : Fin 212) (s : State) : Out :=
  runDev (fun _ d =>
    if d.net.dead.contains r.val then d
    else
      let d := { d with net := { d.net with dead := d.net.dead ++ [r.val] } }
      let d := (routerLinks r.val).foldl (fun d l => retireLink l d) d
      if r.val < 128 then ((List.range 17).map fun i => 68 * (r.val / 4) + 17 * (r.val % 4) + i).foldl (fun d n => drainCore n 2 d) d
      else d) s

/-- ABORT (R311, Table 12-6): an engine receives the abort, acts, and acknowledges. -/
def execAbort (v : VDev) (q : QId) (e : Engine) (s : State) : Out := runDev (fun _ d => doAbort v.val q.val e d) s

end Sys2Proof.Machine
end

