-- ==== Sys2Proof/Machine/Memory.lean ====
section
/-! DEFINITION. The memory system: patrol scrub, repair, training, retirement of channels and MC dies (R219 … R229), mirrored
state (R428), CXL.mem windows (R230 … R235) and the host window (R525). -/

namespace Sys2Proof.Machine

open Sys2Proof

/-! ## Scrub, repair, training (R219 … R224) -/

/-- Lines of a channel. -/
def chanLines : Nat := chanBytes / 64

/-- A line is bad on both reads (R219): it is rewritten from a mirror that holds it (R428), else poisoned. -/
def badLine (a : Nat) (d : Dev) : Dev :=
  let d := failedRound a (countCh (chanOf a) 0 d)
  match d.mirrorAt a with
  | some x => if poisoned d x then poisonLine a d else countCh (chanOf a) 1 (countCh (chanOf x) 0 d)
  | none => poisonLine a d

/-- PATROL_SCRUB (R221): one line of a channel in service is read. A corrected line is written back unless another write
has reached it since. A poisoned line stays poisoned. The bytes do not change. -/
def doPatrol (c line : Nat) (corrected written bad : Bool) (d : Dev) : Dev :=
  let s := (d.chan c).state
  if !(s == .inService || s == .repairing || s == .retiring) || chanLines ≤ line then d
  else
    let a := cellAt c (64 * line)
    let known := poisoned d a
    let d := countCh c 0 d
    let d := if line + 1 = chanLines then countCh c 8 d else d
    if known then d
    else if bad then badLine a d
    else if corrected then
      let d := correctedRead a d
      if written then d else countCh c 1 d
    else d

/-- PATROL_SCRUB. -/
def execPatrolScrub (c : Chan) (line : Nat) (corrected written bad : Bool) (s : State) : Out :=
  runDev (fun _ d => doPatrol c.val line corrected written bad d) s

/-- A soft repair of a channel is complete: the oldest one. With the last one the channel is no longer REPAIRING. -/
def Channel.repaired (k : Channel) : Channel :=
  let rest := k.repairs.drop 1
  let over_ (s : ChState) : ChState := if s == .repairing && rest.isEmpty then .inService else s
  { k with repairs := rest, state := over_ k.state, resume := over_ k.resume, hardPending := true }

/-- SOFT_REPAIR_DONE (R222, R223): the row is written back, and the repair waits to be made permanent. -/
def doRepaired (c : Nat) (d : Dev) : Dev :=
  if (d.chan c).repairs.isEmpty then d else countLines c 1 (Config.rowLines c) (d.onChan c Channel.repaired)

/-- CHANNEL_TRAINING_LOSS (R219): the channel retrains. -/
def execChannelTrainingLoss (c : Chan) (s : State) : Out :=
  runDev (fun _ d =>
    let st := (d.chan c.val).state
    if st == .inService || st == .repairing || st == .retiring then
      raiseSrc (d.schedHub) (0x121 + c.val / 32) (d.onChan c.val fun k => { k with
        state := .training
        retrains := 0
        resume := st })
    else d) s

/-- CHANNEL_RETRAIN_DONE (R219, R224): service goes on; after two failed retrains the channel is retired. On a cold start a channel
that has trained for the first time goes on to its initial scrub (R496 step 3). -/
def doRetrain (c : Nat) (ok : Bool) (d : Dev) : Dev :=
  let k := d.chan c
  if k.state == .training && k.resume == .unpowered && d.boot.cold && ok then d.onChan c fun k => { k with state := .scrubbing }
  else if k.state != .training || k.resume == .unpowered || k.resume == .retired then d
  else
    let d := countCh c 9 d
    if ok then d.onChan c fun k => { k with state := k.resume, retrains := 0 }
    else if k.retrains = 0 then d.onChan c fun k => { k with retrains := 1 }
    else retireChan c 2 (d.onChan c fun k => { k with state := k.resume, retrains := 0 })

/-! ## Retirement of a channel (R225, R226) -/

/-- CHANNEL_RETIRE (Table 9-8 steps 1 and 2): a channel enters RETIRING; one that waits for a target gets the first that is
free. -/
def doChannelRetire (c : Nat) (d : Dev) : Dev :=
  let d := raiseSrc d.schedHub (0x121 + c / 32) d
  if (d.chan c).state == .retiring then
    if (d.chan c).target.isSome then d else d.onChan c fun k => { k with target := retireTarget c d, copied := false }
  else retireChan c 2 d

/-- CHANNEL_RETIRE. -/
def execChannelRetire (c : Chan) (s : State) : Out := runDev (fun _ d => doChannelRetire c.val d) s

/-- The lines of a channel that a copy of it reads (Table 9-8 step 3): its used ranges and its reserved region. -/
def Dev.usedLines (d : Dev) (c : Nat) : Nat :=
  ((d.mc.sets.filter fun s => s.2.valid).flatMap fun s => s.2.members.map fun m => if m.1 = c then 1024 * s.2.len else 0).sum +
    (chanBytes - tenantBytes) / 64

/-- Copy the contents of a channel to another (Table 9-8 steps 3 and 4): every byte below the reserved region with its key, and the
poisoned lines. -/
def copyChan (c t : Nat) (w : Wk) : Wk :=
  let n := w.dev.usedLines c
  let w := w.on fun d => countLines t 1 n (countLines c 0 n d)
  let tenant (a : Nat) : Bool := decide (a % chanBytes < tenantBytes)
  let as := (((w.mem.cells.map Prod.fst) ++ (w.mem.keys.map Prod.fst)).eraseDups).filter tenant
  let w := (as.filter fun a => chanOf a == t).foldl (fun w a => w.put .slot0 a [emptyByte]) w
  let w := (as.filter fun a => chanOf a == c).foldl (fun w a => w.put (w.mem.keyAt a) (cellAt t (a % chanBytes)) [w.mem.raw a]) w
  w.on fun d => d.onChan t fun k => { k with
      lost := (d.chan c).lost
      poison := (d.chan c).poison.map fun a => cellAt t (a % chanBytes) }

/-- The target takes the place of a channel in every set, mirror list, range-table mirror and undo record, and in the maps that wait on
the copy (Table 9-8 step 5, R341). -/
def replaceChan (v c t : Nat) (d : Dev) : Dev :=
  let swap (n : Nat) : Nat := if n = c then t else n
  let line (a : Nat) : Nat := if chanOf a = c then cellAt t (a % chanBytes) else a
  let d := d.onMc fun m => { m with
    sets := m.sets.map fun (i, e) => (i, { e with members := e.members.map fun b => (swap b.1, b.2) })
    undo := m.undo.map fun u => { u with line := line u.line } }
  let moved (p : Publish) (l : Tab SetEnt) : Tab SetEnt :=
    l.map fun (i, e) => (i, { e with epoch := p.epoch, members := e.members.map fun b => (swap b.1, b.2) })
  let d := d.onSched fun s => { s with
    publish := s.publish.map fun p =>
      if p.vdev = v ∧ p.copies.contains (c, t) then { p with sets := p.sets.map (moved p) } else p }
  d.onVd v fun x => { x with
    mirrors := x.mirrors.map fun (i, l) => (i, l.map swap)
    mirrorCh := swap x.mirrorCh }

/-- The epoch of the sets of a virtual device that a channel serves becomes the current one. -/
def stampSets (v t : Nat) (d : Dev) : Dev :=
  d.onMc fun m => { m with sets := m.sets.map fun (i, e) =>
    (i, if e.valid && e.vdev == v && e.members.any fun b => b.1 == t then { e with epoch := (d.vd v).epoch } else e) }

/-- The reserved region of a retired channel has moved with it (R209, R225): fence cells, phase records, undo records, the range-table
mirrors, the journal and the cluster control section there. DESIGN CHOICE: it is held at the target beside the region that the target has of its own, and keeps the
addresses it had. -/
def moveRegion (c t : Nat) (d : Dev) : Dev :=
  let d := d.onMc fun m => { m with regions := Tab.put (m.regions.map fun (i, x) => (i, if x = c then t else x)) c t }
  let move (x : Nat) : Nat := if x = c then t else x
  { d with
    vds := d.vds.map fun (v, x) => (v, { x with mirrorCh := if x.mirrorCh = c ∧ x.composed then t else x.mirrorCh })
    fw := { d.fw with copies := d.fw.copies.map move, area := d.fw.area.map move } }

/-- CHANNEL_COPY_DONE (Table 9-8, R324, R341): the copy to the target is complete. The target replaces a retiring channel
under a new epoch; for a channel that a COMPOSE removes, under the epoch already accepted. A free channel has nothing more to do but
its scrub. -/
def doCopyDone (c : Nat) (w : Wk) : Wk :=
  let k := w.dev.chan c
  match k.target with
  | none => w
  | some t =>
    if k.copied then w
    else
      let w := (copyChan c t w).on fun d => d.onChan c fun k => { k with copied := true }
      if k.state == .retiring then
        let w := w.on (moveRegion c t)
        match w.dev.chanOwner c with
        | none => w.on fun d => d.onSched fun s => { s with leaving := s.leaving ++ [⟨.chan, c, 256, 0, [], true, true, false⟩] }
        | some v => w.on fun d =>
          let old := d.vd v
          let d := replaceChan v c t (keepMaps v d)
          let d := d.onVd v fun x => { x with chans := (x.chans.filter (· != c)) ++ (if x.chans.contains t then [] else [t]) }
          compositionChanged v 2 [(.chan, c), (.chan, t)] (stampSets v t (publishChange v old [(.chan, c)] true [] d))
      else w.on fun d => match d.sched.leaving.find? fun u => u.kind == .chan && u.num == c with
        | some u => rebuildLists u.vdev (stampSets u.vdev t (replaceChan u.vdev c t d))
        | none => d

/-- CHANNEL_COPY_DONE. -/
def execChannelCopyDone (c : Chan) (s : State) : Out := runMem (doCopyDone c.val) s

/-- RETIRING_NOTICE_TIMER (R226): a second has passed without a free channel, and the manager is told again. -/
def doRetiringNotice (c : Nat) (d : Dev) : Dev :=
  if (d.chan c).state != .retiring || (d.chan c).target.isSome then d
  else match retireTarget c d with
    | some t => d.onChan c fun k => { k with target := some t, copied := false }
    | none => match d.chanOwner c with
      | some v => compositionChanged v 2 [(.chan, c)] d
      | none => d

/-- RETIRING_NOTICE_TIMER. -/
def execRetiringNoticeTimer (c : Chan) (s : State) : Out := runDev (fun _ d => doRetiringNotice c.val d) s

/-! ## Loss of an MC die (R227, R428) -/

/-- Whether a range of a virtual device has a byte on an MC die: the stripes of a span take the members of a set in turn. -/
def touchesDie (d : Dev) (v k : Nat) (r : Nat × Nat) : Bool :=
  (d.vd v).table.any fun e =>
    if e.res != 1 || !rangesMeet (e.start, e.len) r then false
    else
      let lo := max e.start r.1
      let hi := min (e.start + e.len) (r.1 + r.2)
      let set := d.set (e.pbase / 2 ^ 38)
      let n := 2 ^ set.log2n
      let k1 := (e.pbase + (lo - e.start)) % 2 ^ 38 / 4096
      let k2 := (e.pbase + (hi - 1 - e.start)) % 2 ^ 38 / 4096
      (List.range (min n (k2 + 1 - k1))).any fun i => (set.members.getD ((k1 + i) % n) (0, 0)).1 / 32 == k

/-- Undo records of a line follow it from a lost channel to its mirror (R428). -/
def followMirrors (pairs : List (Nat × Nat)) (d : Dev) : Dev :=
  let line (a : Nat) : Nat := match pairs.find? fun p => p.1 == chanOf a with
    | some p => cellAt p.2 (a % chanBytes)
    | none => a
  d.onMc fun m => { m with undo := m.undo.map fun u => { u with line := line u.line } }

/-- What the loss of a die does to the current command of a queue: `some false` it fails with 0x0011, `some true` its attempt
is replayed from mirrors without counting. Inputs that lay there count whether or not they had been reached. -/
def lossOf (d : Dev) (v k : Nat) (c : Cmd) : Option Bool :=
  let busy := d.mc.reqs.any fun r => r.cmd == c.no && r.goesTo fun x => x / 32 == k
  let inputs := c.started && c.ins.any (touchesDie d v k)
  if !c.attempting || !(busy || inputs) then none else some (d.vd v).mirrored

/-- Members of mirrored sets on lost channels are replaced by their mirrors, and mirrors there are given up; the sets carry the new
epoch and run unmirrored. -/
def takeMirrors (v : Nat) (epoch : BitVec 32) (gone : Nat → Bool) (d : Dev) : Dev :=
  let hit (s : Nat × List Nat) : Bool := ((d.set s.1).members.zip s.2).any fun (m, c) => gone m.1 || gone c
  let sets := (d.vd v).mirrors.filter hit
  let take (d : Dev) (s : Nat × List Nat) : Dev := d.onMc fun m => { m with sets := Tab.put m.sets s.1 { d.set s.1 with
    epoch := epoch
    members := ((d.set s.1).members.zip s.2).map fun (b, c) => if gone b.1 && !gone c then (c, b.2) else b } }
  let moved : List (Nat × Nat) := sets.flatMap fun s => ((d.set s.1).members.zip s.2).filterMap fun (b, c) =>
    if gone b.1 && !gone c then some (b.1, c) else none
  (followMirrors moved (sets.foldl take d)).onVd v fun x => { x with
    mirrors := x.mirrors.filter fun s => !(sets.any fun y => y.1 == s.1)
    unmirrored := x.unmirrored ++ sets.map Prod.fst }

/-- A virtual device loses the channels of a die (R227, R428): they leave its composition under a new epoch. -/
def loseChans (v k : Nat) (d : Dev) : Dev :=
  let gone := (d.vd v).chans.filter fun c => c / 32 == k
  let d := if (d.vd v).mirrorCh / 32 = k ∧ (d.vd v).composed then d.onVd v fun x => { x with mirrorLost := true } else d
  if gone.isEmpty then d
  else
    let old := d.vd v
    let d := takeMirrors v (nextEpoch old.epoch) (fun c => c / 32 == k) (keepMaps v d)
    let d := d.onVd v fun x => { x with chans := x.chans.filter fun c => c / 32 != k }
    compositionChanged v 2 (gone.map fun c => (UnitKind.chan, c)) (publishChange v old [] true [] d)

/-- Where the ring of 4 MiB of a journal copy lies in a channel. DESIGN CHOICE (log entry 80): at the beginning of the firmware area
(Table 9-3). -/
def journalRing : Nat × Nat := (0x5D400000, 4194304)

/-- Copies of the journal that meet a test are given up: the active scheduler writes a checkpoint to a channel on another stack (R409). -/
def renewCopies (bad : Nat → Bool) (d : Dev) : Dev :=
  if !(d.fw.copies.any bad) then d
  else
    let kept := d.fw.copies.filter fun c => !bad c
    let fit (kept : List Nat) (c : Nat) : Bool :=
      d.serving .chan c && !d.fw.copies.contains c && !(d.die (c / 32)).lost && kept.all fun y => y / 32 != c / 32
    let add (kept : List Nat) : List Nat := kept ++ ((List.range 1024).filter (fit kept)).take 1
    { d with fw := { d.fw with 
        copies := add (if kept.isEmpty then add kept else kept)
        journal := []
        applied := 0
        checkpoint := d.fw.checkpoint + 1 } }

/-- An MC die is lost with its copies of the journal and of the cluster control section. -/
def moveJournal (k : Nat) (d : Dev) : Dev :=
  renewCopies (fun c => c / 32 == k) { d with fw := { d.fw with area := d.fw.area.filter fun c => c / 32 != k } }

/-- A copy of the journal on a channel without contents, or with a poisoned line, is unreadable. -/
def Dev.copyUnreadable (d : Dev) (c : Nat) : Bool :=
  (d.chan c).lost || (d.chan c).poison.any fun a => rangesMeet (a, 64) (cellAt c journalRing.1, journalRing.2)

/-- Where a copy of the journal is unreadable, the other copy is used, and a new one is written (Table 17-1). -/
def checkCopies (d : Dev) : Dev := renewCopies d.copyUnreadable d

/-- MC_DIE_LOST (R227): the die is retired with its channels and fences. Its waits are notified; commands that used it or
whose inputs lay there fail with 0x0011, but for those of a mirrored composition. -/
def doDieLost (k : Nat) (w : Wk) : Wk :=
  if (w.dev.die k).lost then w
  else
    let hits := w.dev.vds.flatMap fun (v, x) => x.queues.filterMap fun (q, y) =>
      y.cur.bind fun c => (lossOf w.dev v k c).map fun m => (v, q, m)
    let w := w.on fun d =>
      let d := d.onDie k fun m => { m with lost := true, prefetch := [], cache := [] }
      let d := d.onMc fun m => { m with cells := m.cells.map fun (i, c) => (i, if cellDie i = k || d.cellChan i / 32 = k then { c with lost := true } else c) }
      let d := ((d.fx.waits.map FWait.cell).eraseDups.filter fun i => cellDie i == k || d.cellChan i / 32 == k).foldl (fun d i => notifyWaits i d) d
      let d := ((List.range 32).map (32 * k + ·)).foldl (fun d c =>
        setCause .chan c 5 (d.onChan c fun x => { x with state := .retired, target := none, copied := false })) d
      let d := d.onSched fun s => { s with binaries := Tab.put s.binaries k ((Tab.getD s.binaries k []).filter fun b => !b.overflow) }
      (d.vds.map Prod.fst).foldl (fun d v => loseChans v k d) (moveJournal k (raiseSrc d.schedHub (0x121 + k) d))
    loseRecords k (hits.foldl (fun w (v, q, m) => if m then abandonCmd v q w else failCmd v q 0x11 Detail.none w) w)


/-- The XTS copies of an MC die disagree (R219): the line is done again; a third time within 1 ms retires the die (R227). -/
def xtsEvent (k : Nat) (w : Wk) : Wk :=
  let now := w.dev.hlc (dieHub k)
  let l := ((w.dev.die k).xts.filter fun t => decide ((now - t).toNat ≤ 100000)) ++ [now]
  let w := w.on fun d => d.onDie k fun m => { m with xts := l }
  if 3 ≤ l.length then doDieLost k w else w

/-- Copy a set's members to their new mirrors. -/
def fillMirrors (members : List (Nat × Nat)) (mirrors : List Nat) (w : Wk) : Wk :=
  (members.zip mirrors).foldl (fun w (m, c) => copyChan m.1 c w) w

/-- REMIRROR_COPY_DONE (R428): a set that runs unmirrored is copied onto free bound channels and is mirrored again; without
such channels the manager is told. -/
def doRemirror (v s : Nat) (w : Wk) : Wk :=
  let x := w.dev.vd v
  if !x.unmirrored.contains s || !(w.dev.set s).valid then w
  else match pickMirrors w.dev x (w.dev.set s).members with
    | none => w.on (compositionChanged v 2 ((w.dev.set s).members.map fun m => (UnitKind.chan, m.1)))
    | some l => (fillMirrors (w.dev.set s).members l w).on fun d => d.onVd v fun x => { x with
        mirrors := Tab.put x.mirrors s l
        unmirrored := x.unmirrored.filter (· != s) }

/-- REMIRROR_COPY_DONE. -/
def execRemirrorCopyDone (v : VDev) (set : SetId) (s : State) : Out := runMem (doRemirror v.val set.val) s

/-! ## CXL.mem windows (R230 … R235) -/

/-- What the CXL Device DVSEC of a port reports (R230): Cache_Capable 0, Mem_Capable 1, and one HDM decoder capability of 4 decoders. -/
def cxlDvsec : Bool × Bool × Nat := (false, true, 4)

/-- A decoder of a port. -/
def Dev.decoder (d : Dev) (p i : Nat) : Hdm := Tab.getD d.mc.hdm (4 * p + i) Hdm.reset
/-- Change a decoder. -/
def Dev.onDecoder (d : Dev) (p i : Nat) (f : Hdm → Hdm) : Dev :=
  d.onMc fun m => { m with hdm := Tab.put m.hdm (4 * p + i) (f (d.decoder p i)) }
/-- The link of a host port. -/
def Dev.link (d : Dev) (p : Nat) : HostLink := Tab.getD d.hostLinks p HostLink.reset
/-- Bytes of 256 MiB, of which a decoder's size is a multiple. -/
def hdmUnit : Nat := 268435456

/-- EXPOSE_HDM (R231): the arguments are the port, the decoder, the virtual device, the permissions (bit 0 R, bit 1 W) and the
virtual start. -/
def doExposeHdm (a : AdReq) (w : Wk) : Ans × Wk :=
  let p := fieldLe a.args 0 1
  let i := fieldLe a.args 1 1
  let v := fieldLe a.args 2 1
  let perm := fieldLe a.args 3 1
  let start := fieldLe a.args 4 8
  let h := w.dev.decoder p i
  let t := (w.dev.fn v).tdi
  let fields := decide (p < 4) && decide (i < 4) && decide (1 ≤ perm) && decide (perm < 4) && start % 65536 == 0 &&
    decide (start + h.size ≤ 2 ^ 56) && v / 64 == p
  let free := h.committed && h.bound.isNone && t != .configLocked && t != .run && !(w.dev.vd v).frozen && decide (w.dev.sec.level < 2)
  match firstStatus [(fields, stField), (free, stState)] with
  | some st => refuse st w
  | none => performed [] (w.on fun d => d.onDecoder p i fun h => { h with bound := some (v, start, bitAt perm 0, bitAt perm 1) })

/-- EXPOSE_HDM. -/
def execExposeHdm (s : State) : Out := runMem (takeRequest mgr (adRow 0x0310 12) doExposeHdm) s

/-- HDM_DECODER_COMMIT (R231): a port that runs CXL takes the base and size of a decoder that is not committed. -/
def execHdmDecoderCommit (p : HPort) (i : Fin 4) (base size : Nat) (s : State) : Out :=
  runDev (fun _ d =>
    if !(d.link p.val).cxl || (d.decoder p.val i.val).committed || size = 0 || size % hdmUnit ≠ 0 then d
    else d.onDecoder p.val i.val fun _ => ⟨base, size, true, none⟩) s

/-- HDM_DECODER_DECOMMIT (R231): a decoder de-committed or resized is unbound at that moment. -/
def execHdmDecoderDecommit (p : HPort) (i : Fin 4) (newSize : Option Nat) (s : State) : Out :=
  runDev (fun _ d =>
    if !(d.decoder p.val i.val).committed then d
    else match newSize with
      | none => d.onDecoder p.val i.val fun _ => Hdm.reset
      | some n =>
        if n = 0 || n % hdmUnit ≠ 0 then d
        else d.onDecoder p.val i.val fun h => { h with size := n, bound := none }) s

/-- The committed decoder of a port that holds a host physical address. -/
def Dev.decoderAt (d : Dev) (p a : Nat) : Option Hdm :=
  ((List.range 4).map (d.decoder p)).find? fun h => h.committed && decide (h.base ≤ a) && decide (a < h.base + h.size)

/-- An access through a window that does not reach memory counts at 0x5000:0B (R232, R525). -/
def countWindow (d : Dev) : Dev := { d with windowErrors := d.windowErrors + 1 }

/-- A host access does not reach memory: its channel counts a refusal and the key-slot alarm of R212 is raised, and the access counts as
R232 and R525 say; a CXL.mem read of a poisoned line, or of one under an erased key slot, does not. -/
def windowMiss (cxlRead : Bool) (v : Nat) (e : Acc) (d : Dev) : Dev :=
  match e with
  | .bad _ .poison => if cxlRead then d else countWindow d
  | .bad _ .erased => if cxlRead then d else countWindow d
  | .bad va y => countWindow (refusedAt v va y d)
  | .host _ _ => countWindow d

/-- Whether an access is held until its channel, its bank or the mirror is ready again (R219, R222, R240). -/
def Acc.waits : Acc → Bool
  | .bad _ .wait => true
  | _ => false

/-- Hold a host access. -/
def holdHost (h : HeldAcc) (w : Wk) : Wk := w.on fun d => d.onMc fun m => { m with held := m.held ++ [h] }

/-- The lines of a read of an engine meet what their homes meet (R219); `f` is for the first. -/
def meetSpan (e : XEng) (v : Nat) (ps : List (Nat × Nat)) (f : ReadFault) (w : Wk) : Wk :=
  let seen := w.dev.seenBy e v
  let line (w : Wk) (p : Nat × Nat) (f : ReadFault) : Wk :=
    match translate (seen.vd v) needNone p.1 with
    | .device pa key => match homeCheck w.dev v pa key with
      | .ok (a, s, j) => if poisoned w.dev a then w else
          let w := if f = .xts then xtsEvent (chanOf a / 32) w else w
          w.on fun d => (meetLine v key s j a f d).2
      | .error _ => w
    | _ => w
  (ps.drop 1).foldl (fun w p => line w p .good) ((ps.take 1).foldl (fun w p => line w p f) w)

/-- A host read of a span of a virtual device: the bytes, or poison; or it is held. -/
def hostReadVa (cxl : Bool) (v va n : Nat) (f : ReadFault) (h : HeldAcc) (answer : Option (List Byte) → Wk → Wk) (w : Wk) : Wk :=
  match checkAs (hubEng v) w.dev v needR (parts va n) with
  | some e => if e.waits then holdHost h w else answer none (w.on (windowMiss cxl v e))
  | none =>
    let w := meetSpan (hubEng v) v (parts va n) f (w.on (useXlt (hubEng v) v [(va, n)]))
    match readAs (hubEng v) w v needR va n with
    | .ok bs => answer (some bs) w
    | .error e => answer none (w.on (windowMiss cxl v e))

/-- The first piece of a write that covers a poisoned line in part (R525). -/
def partPoison (d : Dev) (v : Nat) (ps : List (Nat × Nat)) : Option Acc :=
  ps.findSome? fun p => match translate ((d.seenBy (hubEng v) v).vd v) needW p.1 with
    | .device pa key => match homeCheck d v pa key with
      | .ok (a, _, _) => if poisoned d a && p.2 != 64 then some (.bad p.1 .poison) else none
      | .error _ => none
    | _ => none

/-- A host write of a span of a virtual device, or nothing, and what follows; or it is held. -/
def hostWriteVa (v va : Nat) (bs : List Byte) (h : HeldAcc) (done : Wk → Wk) (w : Wk) : Wk :=
  match (checkAs (hubEng v) w.dev v needW (parts va bs.length)).orElse fun _ => partPoison w.dev v (parts va bs.length) with
  | some e => if e.waits then holdHost h w else done (w.on (windowMiss false v e))
  | none => done (writeAs (hubEng v) v va bs none (w.on (useXlt (hubEng v) v [(va, bs.length)]))).1

/-- What a bound window answers for an address: the virtual device, the virtual address and its permissions. -/
def windowAt (d : Dev) (p a : Nat) : Option (Nat × Nat × Bool × Bool) :=
  if d.sec.level = 3 then none
  else (d.decoderAt p a).bind fun h => h.bound.map fun (v, start, r, w) => (v, start + (a - h.base), r, w)

/-- Read a line for a host port through a window: the bytes, or poison. -/
def cxlLine (p a v va : Nat) (f : ReadFault) (w : Wk) : Wk :=
  hostReadVa true v va 64 f (.cxlRead p a v va f) (fun got w => w.on fun d => d.emit (.cxlRead p a (got.getD []) got.isNone)) w

/-- CXL_MEM_READ (R232): a line is read, or poison is returned. -/
def doCxlRead (p : Nat) (x : HostAt) (w : Wk) : Wk :=
  let a := lineOf x.at_
  let none_ (w : Wk) : Wk := w.on fun d => d.emit (.cxlRead p a [] true)
  if !(w.dev.link p).cxl then w
  else match windowAt w.dev p a with
    | none => none_ w
    | some (v, va, r, _) => if !r then none_ (w.on countWindow) else cxlLine p a v va x.bad w

/-- CXL_MEM_READ. -/
def execCxlMemRead (p : HPort) (a : HostAt) (s : State) : Out := runMem (doCxlRead p.val a) s

/-- Write a line for a host port through a window, or drop it; its completion follows (R233). -/
def cxlStore (p a v va : Nat) (line : List Byte) (w : Wk) : Wk :=
  hostWriteVa v va line (.cxlWrite p a v va line) (fun w => w.on fun d => d.emit (.cxlWriteDone p a)) w

/-- CXL_MEM_WRITE (R232, R233): a line is written, or dropped; the completion is returned either way. -/
def doCxlWrite (p a : Nat) (line : List Byte) (w : Wk) : Wk :=
  let a := lineOf a
  let done (w : Wk) : Wk := w.on fun d => d.emit (.cxlWriteDone p a)
  if !(w.dev.link p).cxl then w
  else match windowAt w.dev p a with
    | none => done w
    | some (v, va, _, wr) => if !wr then done (w.on countWindow) else cxlStore p a v va (sliceB line 0 64) w

/-- CXL_MEM_WRITE. -/
def execCxlMemWrite (p : HPort) (a : Nat) (line : List Byte) (s : State) : Out := runMem (doCxlWrite p.val a line) s

/-! ## The host window (R525) -/

/-- Bytes of BAR2: 64 GiB. -/
def windowBytes : Nat := 68719476736

/-- A read of a span of BAR2: poisoned data where it does not reach memory. -/
def readWindow (v va off n : Nat) (f : ReadFault) (w : Wk) : Wk :=
  hostReadVa false v va n f (.windowRead v va off n f) (fun got w => w.on fun d => d.emit (.windowRead v off (got.getD []) got.isNone)) w

/-- A write of a span of BAR2, or nothing. -/
def writeWindow (v va : Nat) (bs : List Byte) (w : Wk) : Wk := hostWriteVa v va bs (.windowWrite v va bs) id w

/-- HOST_WINDOW_READ (R525, R465). -/
def doWindowRead (v : Nat) (off : BarAt) (n : HostAt) (w : Wk) : Wk :=
  if !w.dev.barTakes v off.ide || windowBytes < off.off + n.at_ then w
  else readWindow v ((w.dev.fn v).hwbase.toNat + off.off) off.off n.at_ n.bad w

/-- HOST_WINDOW_READ. -/
def execHostWindowRead (v : VDev) (off : BarAt) (n : HostAt) (s : State) : Out := runMem (doWindowRead v.val off n) s

/-- HOST_WINDOW_WRITE (R525). -/
def doWindowWrite (v : Nat) (off : BarAt) (bs : List Byte) (w : Wk) : Wk :=
  if !w.dev.barTakes v off.ide || windowBytes < off.off + bs.length then w
  else writeWindow v ((w.dev.fn v).hwbase.toNat + off.off) bs w

/-- HOST_WINDOW_WRITE. -/
def execHostWindowWrite (v : VDev) (off : BarAt) (bytes : List Byte) (s : State) : Out := runMem (doWindowWrite v.val off bytes) s

/-! ## Held host accesses (R219, R222, R240) -/

/-- Perform a held access, or hold it again. -/
def runHeld (h : HeldAcc) (w : Wk) : Wk :=
  match h with
  | .cxlRead p a v va f => cxlLine p a v va f w
  | .cxlWrite p a v va line => cxlStore p a v va line w
  | .windowRead v va off n f => readWindow v va off n f w
  | .windowWrite v va bs => writeWindow v va bs w

/-- Whether a CXL.mem access of a port is held. -/
def Dev.cxlHeld (d : Dev) (p : Nat) : Bool := d.mc.held.any fun h => match h with
  | .cxlRead q _ _ _ _ => q == p
  | .cxlWrite q _ _ _ _ => q == p
  | _ => false

/-- A WITHDRAW_HDM that waited for its last response is answered (R231). -/
def endWithdraw (p : Nat) (d : Dev) : Dev :=
  if d.cxlHeld p then d else answerMgr (fun o => o == .withdrawHdm p) stOk d

/-- Perform the held accesses in the order in which they came. -/
def releaseHost (w : Wk) : Wk :=
  (w.dev.mc.held.foldl (fun w h => runHeld h w) (w.on fun d => d.onMc fun m => { m with held := [] })).on fun d =>
    (List.range 4).foldl (fun d p => endWithdraw p d) d

/-- WITHDRAW_HDM (R231): the decoder is unbound, and the request completes when the CXL.mem accesses of its port that are held have
their responses. -/
def doWithdrawHdm (a : AdReq) (w : Wk) : Ans × Wk :=
  let p := fieldLe a.args 0 1
  let i := fieldLe a.args 1 1
  if 4 ≤ p || 4 ≤ i then refuse stField w
  else if (w.dev.decoder p i).bound.isNone then refuse stState w
  else
    let w := w.on fun d => d.onDecoder p i fun h => { h with bound := none }
    if w.dev.cxlHeld p then (.later (.withdrawHdm p), w) else performed [] w

/-- WITHDRAW_HDM. -/
def execWithdrawHdm (s : State) : Out := runMem (takeRequest mgr (adRow 0x0311 2) doWithdrawHdm) s

/-- MC_DIE_LOST. -/
def execMcDieLost (k : Die) (s : State) : Out := runMem (fun w => releaseHost (doDieLost k.val w)) s

/-- SOFT_REPAIR_DONE. -/
def execSoftRepairDone (c : Chan) (s : State) : Out := runMem (fun w => releaseHost (w.on (doRepaired c.val))) s

/-- CHANNEL_RETRAIN_DONE. -/
def execChannelRetrainDone (c : Chan) (ok : Bool) (s : State) : Out := runMem (fun w => releaseHost (w.on (doRetrain c.val ok))) s

end Sys2Proof.Machine
end

