-- ==== Sys2Proof/Machine/Power.lean ====
section
/-! DEFINITION. Power and heat (R441 … R456) and the rails (R508 … R510): bounds and submissions, estimates and energy,
phase keys, the allocation and its levers, safety actions, idle states. -/

namespace Sys2Proof.Machine

open Sys2Proof

/-- Change power state. -/
def Dev.onPwr (d : Dev) (f : Pwr → Pwr) : Dev := { d with pwr := f d.pwr }

/-- Whether the power-management core runs. -/
def Dev.pmUp (d : Dev) : Bool := d.fw.state == 2 && (d.proc 2).up && d.sec.level != 3

/-! ## Bounds (R444, Table 18-2) -/

/-- Whether a submission is accepted: each value in its range, no floor above its ceiling, floors and hub within the cap. -/
def Bounds.ok (b : Bounds) : Bool :=
  let inR (x lo hi : Nat) : Bool := decide (lo ≤ x) && decide (x ≤ hi)
  inR b.cap.toNat 2800 17400 && inR b.floorCmp.toNat 1500 14400 && inR b.ceilCmp.toNat 1500 14400 &&
  inR b.floorMem.toNat 600 2100 && inR b.ceilMem.toNat 600 2100 && inR b.floorLnk.toNat 300 500 &&
  inR b.ceilLnk.toNat 300 500 && inR b.fmax.toNat 500 1100 && b.fmax.toNat % 25 == 0 && inR (bits b.idle.toNat 1 0) 1 3 &&
  decide (b.floorCmp ≤ b.ceilCmp) && decide (b.floorMem ≤ b.ceilMem) && decide (b.floorLnk ≤ b.ceilLnk) &&
  decide (b.floorCmp.toNat + b.floorMem.toNat + b.floorLnk.toNat + 400 ≤ b.cap.toNat)

/-- A submission commits, or is refused with BOUNDS_REFUSED. -/
def commitBounds (b : Bounds) (d : Dev) : Dev :=
  d.onPwr fun p => if b.ok then { p with bounds := b } else { p with refused := true }

/-- The submissions that wait commit one at a time in arrival order, once the power-management core runs. -/
def commitSubs (d : Dev) : Dev :=
  if !d.pmUp then d
  else d.pwr.subs.foldl (fun d b => commitBounds b d) (d.onPwr fun p => { p with subs := [] })

/-- The pending values are submitted (R444, R486). -/
def submitBounds (d : Dev) : Dev := commitSubs (d.onPwr fun p => { p with subs := p.subs ++ [p.pend] })

/-- PWR_APPLY (R444): a write of `PWR_APPLY`. -/
def execPwrApply (w : BitVec 32) (s : State) : Out :=
  runDev (fun _ d => if bitAt w.toNat 0 then submitBounds d else d) s

/-! ## Safety actions in force (R448) -/

/-- Whether any action of Table 18-4 is in force. -/
def Pwr.overridden (p : Pwr) : Bool :=
  !p.alerts.isEmpty || decide (0 < p.overDraw) || p.therm.any fun t => t.2.throttled || t.2.critical

/-- `PWR_STATUS` (Table 18-3). -/
def Dev.pwrStatus (d : Dev) : BitVec 32 :=
  let p := d.pwr
  let b (x : Bool) (i : Nat) : Nat := if x then 2 ^ i else 0
  BitVec.ofNat 32 (b p.overridden 0 + b p.capLimited 1 + b (p.therm.any fun t => t.2.throttled || t.2.critical) 2 +
    b (!p.alerts.isEmpty || decide (0 < p.overDraw)) 3 + b (d.fw.state == 2 && !(d.proc 2).up) 4 + b p.refused 5)

/-- POLICY_OVERRIDDEN follows the actions in force: the time it has been set is counted on the HLC of HB1. -/
def noteOverride (d : Dev) : Dev :=
  d.onPwr fun p => match p.overridden, p.overSince with
    | true, none => { p with overSince := some d.clk.hlc1 }
    | false, some t => { p with overSince := none, overTicks := p.overTicks + (d.clk.hlc1 - t).toNat }
    | _, _ => p

/-- `PWR_OVERRIDE_S`: whole seconds with POLICY_OVERRIDDEN set. -/
def Dev.overrideSeconds (d : Dev) : Nat :=
  (d.pwr.overTicks + (d.pwr.overSince.map fun t => (d.clk.hlc1 - t).toNat).getD 0) / 100000000

/-! ## Dies with thermal limits -/

/-- The numbers of thermal dies: CX die n at n, MC die k at 16 + k, stack k at 48 + k, LX die p at 80 + p, hub h at
96 + h. -/
def thermNum : ThermDie → Nat
  | .cx n => n.val
  | .mc k => 16 + k.val
  | .stack k => 48 + k.val
  | .lx p => 80 + p.val
  | .hb h => 96 + h.val

/-- Target, throttle, critical and shutdown temperature in tenths of a degree (Table 18-5). -/
def thermLimits : ThermDie → Int × Int × Int × Int
  | .cx _ => (900, 950, 1050, 1150)
  | .mc _ => (900, 1000, 1100, 1200)
  | .stack _ => (850, 900, 950, 1050)
  | .lx _ => (950, 1000, 1100, 1200)
  | .hb _ => (950, 1000, 1100, 1200)

/-- A thermal die's state. -/
def Dev.therm (d : Dev) (i : Nat) : Therm := Tab.getD d.pwr.therm i Therm.reset
/-- Change a thermal die's state, and POLICY_OVERRIDDEN with it. -/
def Dev.onTherm (d : Dev) (i : Nat) (f : Therm → Therm) : Dev :=
  noteOverride (d.onPwr fun p => { p with therm := Tab.put p.therm i (f (d.therm i)) })

/-! ## Levers (Table 18-1) -/

/-- The highest clock, in steps of 25 MHz, and matrix duty, in sixteenths, that the actions in force leave a core: a current
alert of its half, its die's critical action, early service, and the fallback of Table 16-16. -/
def Dev.coreHold (d : Dev) (n : Nat) : Nat × Nat :=
  let alert := d.pwr.alerts.contains (n / 68)
  let crit := (d.therm (n / 136)).critical
  (if alert || crit || d.pwr.slow || d.boot.early then 20 else d.pwr.bounds.fmax.toNat / 25,
    min (if alert then 8 else 16) (if crit then 4 else 16))

/-- A clock and duty lowered by steps: 25 MHz a step down to 500 MHz, then sixteenths of duty down to one. -/
def lowerLever (clock duty steps : Nat) : Nat × Nat :=
  let down := min steps (clock - 20)
  (clock - down, max 1 (duty - (steps - down)))

/-- The lever of a core for a clock and duty that the controller wants. -/
def Dev.coreLever (d : Dev) (n clock duty : Nat) : Nat × Nat :=
  let (hc, hd) := d.coreHold n
  let t := d.therm (n / 136)
  lowerLever (max 20 (min clock hc)) (max 1 (min duty hd)) (if t.throttled then t.steps else 0)

/-- A core's lever is set (R442, R508): a fall takes effect now; a rise waits for its rail. -/
def setCoreLever (n : Nat) (l : Nat × Nat) (d : Dev) : Dev :=
  if !(d.core n).powered then d
  else d.onCore n fun c =>
    if l.1 ≤ c.clock then { c with clock := l.1, wanted := 0, duty := l.2 } else { c with wanted := l.1, duty := l.2 }

/-- The cores of a cluster. -/
def clusterCores (c : Nat) : List Nat := (List.range 68).map (68 * c + ·)

/-- The controller asks for the voltage of the highest clock that a half has or waits for (R508). The latest request
replaces an earlier one. -/
def askVoltage (c : Nat) (d : Dev) : Dev :=
  let top := ((clusterCores c).map fun n => max (d.core n).clock (d.core n).wanted).foldl max 0
  d.onPwr fun p => { p with request := Tab.put p.request c (Config.voltageFor top) }

/-- Actions in force lower the levers of a half at once, in hardware. -/
def holdCluster (c : Nat) (d : Dev) : Dev :=
  (clusterCores c).foldl (fun d n =>
    let k := d.core n
    let (clk, duty) := d.coreLever n k.clock k.duty
    if k.powered then d.onCore n fun k => { k with clock := min k.clock clk, duty := min k.duty duty, wanted := min k.wanted clk } else d) d

/-- The admission of an MC die in sixteenths: the controller's setting, lowered by its own throttling and its stack's, and
held at 1/4 by a critical temperature of either. -/
def Dev.mcLever (d : Dev) (k want : Nat) : Nat :=
  let s (i : Nat) : Nat := if (d.therm i).throttled then (d.therm i).steps else 0
  min (if (d.therm (16 + k)).critical || (d.therm (48 + k)).critical then 4 else 16)
    (max 1 (min want 16 - max (s (16 + k)) (s (48 + k))))

/-- The VC2 injection duty of a port in sixteenths. -/
def Dev.lxLever (d : Dev) (p want : Nat) : Nat :=
  let t := d.therm (80 + p)
  min (if t.critical then 4 else 16) (max 1 (min want 16 - (if t.throttled then t.steps else 0)))

/-- The levers of a die follow its actions: they are lowered at once. Hub dies have no lever. -/
def holdDie (t : ThermDie) (d : Dev) : Dev :=
  let mem (k : Nat) : Dev := d.onPwr fun p => { p with letIn := Tab.put p.letIn k (d.mcLever k (Tab.getD p.letIn k 16)) }
  match t with
  | .cx n => holdCluster (2 * n.val + 1) (holdCluster (2 * n.val) d)
  | .mc k => mem k.val
  | .stack k => mem k.val
  | .lx p => d.onPwr fun x => { x with linkDuty := Tab.put x.linkDuty p.val (d.lxLever p.val (Tab.getD x.linkDuty p.val 16)) }
  | .hb _ => d

/-! ## Phase keys and demand (R446, R447) -/

/-- The phase key of a command: the operation id, or the body digest [31:0] of its image. -/
def Cmd.phaseKey (c : Cmd) : Nat := if c.kind = 2 then fieldLe c.hdr 0x40 4 else fieldLe c.params 0 4

/-- The phase keys of the running commands. -/
def Dev.runningKeys (d : Dev) : List Nat :=
  d.vds.flatMap fun v => v.2.queues.filterMap fun q => match q.2.cur with
    | some c => if c.phase == .running then some c.phaseKey else none
    | none => none

/-- The table of a domain's ceilings: 0 compute, 1 memory, 2 links. -/
def Bounds.ceil (b : Bounds) (dom : Nat) : Nat := if dom = 0 then b.ceilCmp.toNat else if dom = 1 then b.ceilMem.toNat else b.ceilLnk.toNat
/-- The floor of a domain. -/
def Bounds.floor (b : Bounds) (dom : Nat) : Nat := if dom = 0 then b.floorCmp.toNat else if dom = 1 then b.floorMem.toNat else b.floorLnk.toNat
/-- The learned power of a domain. -/
def PhaseKey.power (k : PhaseKey) (dom : Nat) : Nat := if dom = 0 then k.cmp else if dom = 1 then k.mem else k.lnk

/-- The predicted demand of a domain: the sum over running commands; a key not in the table is predicted at the ceiling. -/
def Dev.demand (d : Dev) (dom : Nat) : Nat :=
  (d.runningKeys.map fun k => match d.pwr.keys.find? fun e => e.key == k with
    | some e => e.power dom
    | none => d.pwr.bounds.ceil dom).foldl (· + ·) 0

/-- The allocation of R446. -/
def allocate (b : Bounds) (demand : Nat → Nat) : Nat → Nat :=
  let want (i : Nat) : Nat := max (b.floor i) (min (demand i) (b.ceil i))
  let avail := b.cap.toNat - 400
  if want 0 + want 1 + want 2 ≤ avail then want
  else
    let spare := avail - (b.floor 0 + b.floor 1 + b.floor 2)
    let ext := (want 0 - b.floor 0) + (want 1 - b.floor 1) + (want 2 - b.floor 2)
    fun i => b.floor i + spare * (want i - b.floor i) / ext

/-- The controller sets every lever for an allocation. In early service the clocks stay at 500 MHz (R449). -/
def setLevers (d : Dev) : Dev :=
  let a (i : Nat) : Nat := Tab.getD d.pwr.alloc i 0
  let d := (d.sched.cores.map Prod.fst).foldl (fun d n =>
    let clk := Config.clockFor n (a 0)
    setCoreLever n (d.coreLever n clk (if clk < 20 then Config.leverFor 0 n (a 0) else 16)) d) d
  let d := (List.range 32).foldl (fun d c => askVoltage c d) d
  let d := (List.range 32).foldl (fun d k => d.onPwr fun p => { p with letIn := Tab.put p.letIn k (d.mcLever k (Config.leverFor 1 k (a 1))) }) d
  (List.range 16).foldl (fun d q => d.onPwr fun p => { p with linkDuty := Tab.put p.linkDuty q (d.lxLever q (Config.leverFor 2 q (a 2))) }) d

/-- POWER_ALLOCATION (R446): the controller allocates and sets the levers. The compute allocation is lowered while the
over-draw action is in force. CAP_LIMITED is set where a domain gets less than its predicted demand. -/
def doAllocation (d : Dev) : Dev :=
  if !d.pmUp then d
  else
    let al := allocate d.pwr.bounds d.demand
    let d := d.onPwr fun p => { p with
      alloc := [(0, al 0 - p.overDraw), (1, al 1), (2, al 2)]
      capLimited := decide (al 0 - p.overDraw < d.demand 0) || decide (al 1 < d.demand 1) || decide (al 2 < d.demand 2) }
    setLevers d

/-- POWER_ALLOCATION. -/
def execPowerAllocation (s : State) : Out := runDev (fun _ d => doAllocation d) s

/-- VOLTAGE_ACK (R508): PF-P has the rail at the latest request, and the clock rises that wait for it take effect. -/
def execVoltageAck (c : Cluster) (s : State) : Out :=
  runDev (fun _ d => match Tab.get? d.pwr.request c.val with
    | none => d
    | some mv =>
      let d := d.onPwr fun p => { p with volts := Tab.put p.volts c.val mv, request := Tab.del p.request c.val }
      (clusterCores c.val).foldl (fun d n =>
        if (d.core n).wanted = 0 then d else d.onCore n fun k => { k with clock := max k.clock k.wanted, wanted := 0 }) d) s

/-! ## Estimates, telemetry, energy (R443, R452) -/

/-- POWER_ESTIMATE_TICK (R443, R452): every 4 µs the core estimates each domain's power and attributes energy to queues and
partitions. Source 0x155 of HB1 fires (Table 16-14). -/
def doEstimate (d : Dev) : Dev :=
  if !d.pmUp then d
  else
    let (n, d) := (raiseSrc 1 0x155 d).draw
    let e (i : Nat) : Nat := 4 * Config.powerEstimate n i (Tab.getD d.pwr.gains i 0)
    let share (t : Tab (BitVec 64)) (k c : Nat) : Tab (BitVec 64) := Tab.put t k (Tab.getD t k 0 + BitVec.ofNat 64 (Config.energyShare n c))
    let queues := d.vds.flatMap fun v => v.2.queues.filterMap fun q => q.2.cur.bind fun c => if c.phase == .running then some q.2.uid else none
    let parts := d.vds.flatMap fun v => (v.2.parts.filter fun p => !p.2.cores.isEmpty).map fun p => 16 * v.1 + p.1
    d.onPwr fun p => { p with
      est := [(0, Tab.getD p.est 0 0 + e 0), (1, Tab.getD p.est 1 0 + e 1), (2, Tab.getD p.est 2 0 + e 2), (3, Tab.getD p.est 3 0 + 1600)]
      energy := p.energy + BitVec.ofNat 64 (e 0 + e 1 + e 2 + 1600)
      queueE := queues.foldl (fun t u => share t u (2 * u)) p.queueE
      partE := parts.foldl (fun t u => share t u (2 * u + 1)) p.partE }

/-- POWER_ESTIMATE_TICK. -/
def execPowerEstimateTick (s : State) : Out := runDev (fun _ d => doEstimate d) s

/-- PFP_TELEMETRY (R443, R448): the millisecond's energy arrives, in microjoules: each domain's gain is corrected by an eighth
of the difference, and a draw above 17,400 W lowers the compute allocation by the excess and 5 % of it until an interval
within the limit. Source 0x156 of HB1 fires. -/
def doTelemetry (uj : Nat) (d : Dev) : Dev :=
  if !d.pmUp then d
  else
    let d := raiseSrc 1 0x156 d
    let e (i : Nat) : Nat := Tab.getD d.pwr.est i 0
    let sum := e 0 + e 1 + e 2 + e 3
    let diff : Int := ((uj : Int) - (sum : Int)) / 8
    let excess := ceilDiv (uj - 17400000) 1000
    let d := { d with boot := { d.boot with calib := d.boot.calib + 1 } }
    noteOverride (d.onPwr fun p => { p with
      gains := [(0, Tab.getD p.gains 0 0 + diff), (1, Tab.getD p.gains 1 0 + diff), (2, Tab.getD p.gains 2 0 + diff)]
      msEst := [(0, e 0 / 1000), (1, e 1 / 1000), (2, e 2 / 1000), (3, sum / 1000)]
      est := []
      overDraw := if 17400000 < uj then excess + ceilDiv (excess * 5) 100 else 0 })

/-- PFP_TELEMETRY. -/
def execPfpTelemetry (microjoules : Nat) (s : State) : Out := runDev (fun _ d => doTelemetry microjoules d) s

/-- A moving average with weight 1/8. -/
def average8 (old new : Nat) : Nat := (7 * old + new) / 8

/-- PHASE_KEY_UPDATE (R447): the keys that ran are measured and become the latest used; the table keeps 4,096 keys. -/
def doPhaseKeys (d : Dev) : Dev :=
  if !d.pmUp then d
  else
    let (n, d) := d.draw
    d.runningKeys.eraseDups.foldl (fun d k =>
      let m : PhaseKey := ⟨k, Config.phasePower n k 0, Config.phasePower n k 1, Config.phasePower n k 2, Config.phaseStall n k⟩
      let e : PhaseKey := match d.pwr.keys.find? fun e => e.key == k with
        | some o => ⟨k, average8 o.cmp m.cmp, average8 o.mem m.mem, average8 o.lnk m.lnk, average8 o.stall m.stall⟩
        | none => m
      d.onPwr fun p => { p with keys := (e :: p.keys.filter fun x => x.key != k).take 4096 }) d

/-- PHASE_KEY_UPDATE. -/
def execPhaseKeyUpdate (s : State) : Out := runDev (fun _ d => doPhaseKeys d) s

/-! ## Safety actions (R448, Table 18-4) -/

/-- CURRENT_ALERT (R448, R509): every island of the rail's half goes to 500 MHz with matrix duty 1/2, in hub hardware. -/
def execCurrentAlert (c : Cluster) (s : State) : Out :=
  runDev (fun _ d => holdCluster c.val (noteOverride (d.onPwr fun p =>
    { p with alerts := if p.alerts.contains c.val then p.alerts else p.alerts ++ [c.val] }))) s

/-- CURRENT_ALERT_RELEASE (R448): 100 µs without an alert, and the controller releases the action. Levers rise with the next
allocation. -/
def execCurrentAlertRelease (c : Cluster) (s : State) : Out :=
  runDev (fun _ d => if d.pmUp then noteOverride (d.onPwr fun p => { p with alerts := p.alerts.filter (· != c.val) }) else d) s

/-- THERMAL_THROTTLE (R448): a die at its throttle temperature; its lever is lowered one step. -/
def execThermalThrottle (t : ThermDie) (tenths : Int) (s : State) : Out :=
  runDev (fun _ d =>
    let d := d.onTherm (thermNum t) fun x => { x with temp := some tenths }
    if tenths < (thermLimits t).2.1 || (d.therm (thermNum t)).throttled then d
    else holdDie t (d.onTherm (thermNum t) fun x => { x with throttled := true, steps := 1 })) s

/-- A throttling die is read again: a further step above its target, released 3 °C below it. -/
def stepThrottle (t : ThermDie) (tenths : Int) (d : Dev) : Dev :=
  if !(d.therm (thermNum t)).throttled then d
  else if tenths ≤ (thermLimits t).1 - 30 then d.onTherm (thermNum t) fun x => { x with throttled := false, steps := 0 }
  else if (thermLimits t).1 < tenths then holdDie t (d.onTherm (thermNum t) fun x => { x with steps := x.steps + 1 })
  else d

/-- THROTTLE_STEP_TIMER (R448): 1 ms has passed. -/
def execThrottleStepTimer (t : ThermDie) (tenths : Int) (s : State) : Out :=
  runDev (fun _ d => stepThrottle t tenths (d.onTherm (thermNum t) fun x => { x with temp := some tenths })) s

/-- The critical action begins at the critical temperature: the die is held at its critical settings. -/
def startCritical (t : ThermDie) (d : Dev) : Dev :=
  holdDie t (d.onTherm (thermNum t) fun x => { x with critical := true, throttled := true, steps := max x.steps 1 })

/-- THERMAL_CRITICAL (R448): hub hardware holds the die at its critical settings. A die at its critical temperature is at its
throttle temperature too. -/
def execThermalCritical (t : ThermDie) (tenths : Int) (s : State) : Out :=
  runDev (fun _ d =>
    let d := d.onTherm (thermNum t) fun x => { x with temp := some tenths }
    if tenths < (thermLimits t).2.2.1 then d else startCritical t d) s

/-- CRITICAL_TEMPERATURE_RELEASE (R448): below its throttle temperature the critical action is released. -/
def execCriticalTemperatureRelease (t : ThermDie) (tenths : Int) (s : State) : Out :=
  runDev (fun _ d =>
    let d := d.onTherm (thermNum t) fun x => { x with temp := some tenths }
    if tenths < (thermLimits t).2.1 then d.onTherm (thermNum t) fun x => { x with critical := false } else d) s

/-- HBM_TEMP_READ (R448, Table 18-5): a stack's readout, every 1 ms, against every limit of the stack. -/
def doHbmTemp (k : Die) (tenths : Int) (d : Dev) : Dev :=
  let t : ThermDie := .stack k
  let d := d.onTherm (thermNum t) fun x => { x with temp := some tenths }
  let (_, throttle, critical, _) := thermLimits t
  let d := if tenths < throttle then d.onTherm (thermNum t) fun x => { x with critical := false } else d
  if critical ≤ tenths then startCritical t d
  else if (d.therm (thermNum t)).throttled then stepThrottle t tenths d
  else if throttle ≤ tenths then holdDie t (d.onTherm (thermNum t) fun x => { x with throttled := true, steps := 1 })
  else d

/-- HBM_TEMP_READ. -/
def execHbmTempRead (k : Die) (tenths : Int) (s : State) : Out := runDev (fun _ d => doHbmTemp k tenths d) s

/-- THERMTRIP (R510): a die is at its shutdown temperature and the line to PF-P is asserted, in hardware. PF-P removes power
in answer: that is the event POWER_GOOD_DEASSERT. -/
def execThermtrip (t : ThermDie) (s : State) : Out := runDev (fun _ d => d.emit (.thermtrip (thermNum t))) s

/-! ## Idle states (R453 … R456) -/

/-- The wake time of an idle state in ticks of 10 ns (Table 18-7). -/
def wakeTicks (s : Nat) : Nat := if s = 1 then 20 else if s = 2 then 2000 else 50000

/-- A core is idle (R453): it holds no resident group, no switched-out command and no preloaded command. -/
def Dev.coreIdle (d : Dev) (n : Nat) : Bool :=
  (d.core n).powered && (d.core n).busy.isNone && (d.core n).switched.isNone && (Tab.get? d.sched.shadows n).isNone

/-- The partition that holds a core. -/
def Dev.partOf (d : Dev) (n : Nat) : Option (Nat × Nat × Part) :=
  d.vds.findSome? fun v => (v.2.parts.find? fun p => p.2.cores.contains n).map fun p => (v.1, p.1, p.2)

/-- The time in ticks to the earliest known event of a core (R454), if there is one. -/
def Dev.knownEvent (d : Dev) (n : Nat) : Option Nat :=
  match d.partOf n with
  | none => none
  | some (v, i, p) =>
    let now := d.hlcOf v
    let left (t : BitVec 64) : Nat := t.toNat - now.toNat
    let timers := ((d.vd v).partQueues i).filterMap fun q => q.2.cur.map fun c => left (c.start + q.2.timeoutTicks)
    let slice := if p.turn.isSome then [left (p.turnStart + BitVec.ofNat 64 p.slice)] else []
    (timers ++ slice).foldl (fun a t => some (match a with | none => t | some x => min x t)) none

/-- Whether a core belongs to its partition's LC reserve, the first cores of its list (R455). -/
def Dev.lcReserved (d : Dev) (n : Nat) : Bool :=
  match d.partOf n with
  | some (_, _, p) => (p.cores.take p.lcReserve).contains n
  | none => false

/-- The deepest idle state that an idle core meets (R454): state 1 at once. -/
def Dev.idleState (d : Dev) (n : Nat) : Nat :=
  let now := d.hlc (((d.boundTo .core n).map hubOf).getD (coreHub n))
  let ok (s : Nat) : Bool :=
    decide (s ≤ bits d.pwr.bounds.idle.toNat 1 0) && !d.lcReserved n && decide (wakeTicks s ≤ (now - (d.core n).idleFrom).toNat) &&
    (match d.knownEvent n with | none => true | some t => decide (4 * wakeTicks s ≤ t))
  if (d.core n).idle = 0 then 1 else if ok 3 then 3 else if ok 2 then 2 else 1

/-- CORE_IDLE_ENTRY (R453 … R455): an idle core enters the deepest state it may. -/
def execCoreIdleEntry (n : CoreId) (s : State) : Out :=
  runDev (fun _ d =>
    if !d.coreIdle n.val then d
    else
      let st := d.idleState n.val
      let now := d.hlc (((d.boundTo .core n.val).map hubOf).getD (coreHub n.val))
      -- island off loses the registers (Table 18-7)
      d.onCore n.val fun c => { c with
        idle := st
        idleFrom := if c.idle = 0 then now else c.idleFrom
        zeroed := c.zeroed && st != 3 }) s

/-- CORE_WAKE (R454, R456): a sleeping core wakes. -/
def execCoreWake (n : CoreId) (s : State) : Out :=
  runDev (fun _ d =>
    let now := d.hlc (((d.boundTo .core n.val).map hubOf).getD (coreHub n.val))
    if (d.core n.val).idle = 0 then d else d.onCore n.val fun c => { c with idle := 0, idleFrom := now }) s

/-- Whether a request is on its way to a channel. -/
def Dev.channelBusy (d : Dev) (c : Nat) : Bool :=
  d.mc.reqs.any fun r => r.goesTo fun x => x == c

/-- A bound partition of a channel holds a core that is awake and not idle (R456). -/
def Dev.channelWanted (d : Dev) (c : Nat) : Bool :=
  d.vds.any fun v => v.2.parts.any fun p => (d.homeChans p.2).contains c && p.2.cores.any fun n =>
    (d.core n).powered && (d.core n).idle == 0 && !d.coreIdle n

/-- CHANNEL_IDLE_TIMER (R453, R456): 200 µs without a request, and the channel enters self-refresh where that is permitted. -/
def execChannelIdleTimer (c : Chan) (s : State) : Out :=
  runDev (fun _ d =>
    if bitAt d.pwr.bounds.idle.toNat 2 && (d.chan c.val).state == .inService && !d.channelBusy c.val && !d.channelWanted c.val
    then d.onChan c.val fun x => { x with selfRefresh := true } else d) s

end Sys2Proof.Machine
end

