-- ==== Sys2Proof/Machine/Recovery.lean ====
section
/-! DEFINITION. Recovery: the device reset and the power cycle (R433 … R435), the loss of a hub die, hangs and the dredge
(R429 … R432). -/

namespace Sys2Proof.Machine

open Sys2Proof

/-! ## Device reset (R434) -/

/-- Every engine stops: outputs of attempts that ran hold unspecified bytes (R287). -/
def scribbleAll (w : Wk) : Wk :=
  let qs := w.dev.vds.flatMap fun v => v.2.queues.filterMap fun q => q.2.cur.bind fun c =>
    if (c.started || c.ranBefore) && ((c.phase != .aborting && c.phase != .replaying) || c.thenReplay) then some (v.1, q.2, c) else none
  qs.foldl (fun w e => e.2.2.outs.foldl (fun w r => scribble e.1 (jkey e.2.1 e.2.2) r w) w) w

/-- Every undo journal is applied (R421). -/
def undoAll (w : Wk) : Wk :=
  freeUndos (fun _ => true) ((w.dev.mc.undo.filter (undoReadable w.dev)).foldl (fun w u => applyUndo u w) w)

/-- The front end reads what is left of a queue, as far as it can be read. -/
def fetchLeft (v q : Nat) : Nat → Wk → Wk
  | 0, w => w
  | n + 1, w =>
    match w.dev.queue? v q with
    | none => w
    | some x =>
      match x.chainNext with
      | some c =>
        let (got, w) := fetchNamed v q x c w
        if got then fetchLeft v q n w else w
      | none =>
        if x.sqHead == x.tail then w
        else
          let (got, w) := fetchEntry v q x w
          if got then fetchLeft v q n w else w

/-- The current command of a queue fails with 0x0070 at its fence, and its record carries the code. -/
def loseCur (v q : Nat) (w : Wk) : Wk :=
  match w.dev.cur? v q with
  | none => w
  | some c =>
    let fail (d : Dev) : Dev := match c.sig with
      | some (.cell k) => (commitFail k 0x70 c.sigValue d).2
      | some r => sendFence r (.fail 0x70 c.sigValue) .nobody d
      | none => d
    recordFailure v q (w.on fun d => (fail d).onCur v q fun c => { c with error := 0x70, detail := Detail.none })

/-- The fetched commands of a queue fail in queue order. -/
def loseFetched (v q : Nat) : Nat → Wk → Wk
  | 0, w => w
  | n + 1, w =>
    match w.dev.queue? v q with
    | none => w
    | some x =>
      match x.cur, x.fetched with
      | none, c :: rest => loseFetched v q n (loseCur v q (w.on fun d => d.setQueue v q { x with cur := some c, fetched := rest }))
      | _, _ => w

/-- Every command of a queue that has no record fails with 0x0070 (R434 step 3). Entries that cannot be read now are marked, and
fail as the front end reads them. -/
def loseQueue (v q : Nat) (w : Wk) : Wk :=
  match w.dev.queue? v q with
  | none => w
  | some x =>
    let w := loseCur v q (w.on fun d => d.setQueue v q { x with lostTo := x.nFetched + x.unfetched.length })
    let w := fetchLeft v q (x.unfetched.length + 1) w
    match w.dev.queue? v q with
    | none => w
    | some x =>
      if x.chainNext.isSome then
        w.on fun d => d.setQueue v q { x with fetched := x.fetched.map fun c => { c with early := some 0x70 } }
      else loseFetched v q x.fetched.length w

/-- Fence operations and waits of commands are gone with them. -/
def dropCmdFences (x : Fences) : Fences :=
  let keep : FSrc → Bool
    | .admin _ _ => true
    | .remote _ _ => true
    | .nobody => true
    | .dead _ _ _ _ _ => true
    | _ => false
  { x with
    reqs := x.reqs.filter fun r => keep r.src
    reps := x.reps.filter fun r => keep r.src
    notes := x.notes.filter fun r => keep r.src
    waits := x.waits.filter fun r => keep r.src
    retry := x.retry.filter fun r => keep r.src
    remote := x.remote.filter fun r => keep r.src }

/-- A channel after a reset (R496, R223): it leaves self-refresh and trains again; pending hard repairs are applied. A channel
being retired goes on with that. -/
def Channel.restart (k : Channel) : Channel :=
  if k.state == .unpowered || k.state == .retired then k
  else { k with
    resume := if k.state == .retiring || (k.state == .training && k.resume == .retiring) then .retiring else .unpowered
    state := .training
    retrains := 0
    repairs := []
    softRows := []
    selfRefresh := false
    hardPending := false }

/-- A core after a reset: it waits for its self-test, unless it leaves service; the island of one that drains keeps its power and counts. -/
def Core.restart (k : Core) : Core :=
  { k with
    state := if k.state == .retired || k.state == .draining || k.state == .scrubbed then k.state else .unpowered
    busy := none
    switched := none
    shares := false
    idle := 0
    clock := 0
    dirty := false
    wanted := 0
    zeroed := false
    ctr := if k.state == .draining || k.state == .scrubbed then k.ctr else []
    onAt := if k.state == .draining || k.state == .scrubbed then k.onAt else 0 }

/-- A port after a reset: its link is down until its lanes detect a signal and train again, also where it had failed (R376). -/
def PortSt.restart (x : PortSt) : PortSt := { PortSt.reset with ctr := x.ctr }

/-- Firmware after a reset: the boot ROM of the security core runs, and the host loads the firmware again (R398). The scheduler
journal is kept. DESIGN CHOICE: ACL_MAX (R20) reads 0 until the next load; the manual gives it no value there. -/
def Fw.restart (f : Fw) : Fw :=
  { f with
    addr := 0
    len := 0
    state := 0
    reason := 0
    offered := 0
    aclMax := 0
    svn := 0
    imageLen := 0
    meas := []
    sections := []
    procs := f.procs.map fun (i, p) => (i, { ProcSt.reset i with crashes := p.crashes })
    activeB := false
    standbyReady := false
    copies := []
    area := [] }

/-- What a device reset makes of state outside the queues. The fabric manager is told of the ports that leave their state (R393). -/
def restartDev (d : Dev) : Dev :=
  let d := (d.fab.ports.filter fun p => p.2.state != 0).foldl (fun d p => raiseOd 1 p.1 (natLe 1 0) d) d
  let d := dropWaiters (fun _ => true) d
  let d := d.onXlt fun x => { x with caches := [], buffers := [], acked := [], walks := [], batches := [], priWait := [] }
  let d := d.onMc fun m => { m with
    reqs := []
    resps := []
    host := []
    hostBuf := []
    held := []
    hdm := m.hdm.map fun (i, h) => (i, { h with bound := none })
    dies := m.dies.map fun (i, k) => (i, { k with prefetch := [], cache := [] })
    chans := m.chans.map fun (i, k) => (i, k.restart) }
  let d := d.onFx dropCmdFences
  let d := d.onSched fun s => { s with
    cores := s.cores.map fun (i, k) => (i, k.restart)
    binaries := []
    shadows := [] }
  let part (p : Part) : Part := { p with warming := true }
  let vd (x : Vd) : Vd := { x with parts := x.parts.map fun (i, p) => (i, part p) }
  let d := { d with
    vds := d.vds.map fun (i, x) => (i, vd x)
    evcs := []
    kern := []
    dredges := []
    records := []
    fw := d.fw.restart
    fab := { d.fab with
      exchanges := []
      ports := d.fab.ports.map fun (i, p) => (i, PortSt.restart p) }
    od := { d.od with
      lastUnit := 0
      lastResult := 0
      confirm := none
      waiting := [] }
    boot := ⟨false, false, false, false, 0, d.boot.resets ++ [d.clk.hlc0]⟩ }
  let d := d.onPwr fun p => { p with
    subs := []
    est := []
    msEst := []
    gains := []
    alloc := []
    keys := []
    request := []
    slow := false }
  bump 9 (d.onSec fun s => { s with
    level := if s.level = 2 ∧ !d.alarmAsserts then 0 else s.level
    spdm := []
    sessions := []
    waiting := [] })

/-! ## Power cycle (R435) -/

/-- The bytes and keys of device memory are gone. -/
def loseMemory (w : Wk) : Wk :=
  (((w.mem.cells.map Prod.fst) ++ (w.mem.keys.map Prod.fst) ++ w.log.map MemWrite.addr).eraseDups).foldl
    (fun w a => w.put .slot0 a [emptyByte]) w

/-- A power cycle: every volatile value is lost. What is kept non-volatile stays: ADMIN of each unit, alarm levels, the counts held
in PF-S, the receipt serial, and the spare rows that hard repairs have used in the stacks (R223). -/
def coldDev (d : Dev) : Dev :=
  let admin := d.sched.units.filter fun u => u.2.adminOut
  { Dev.reset with
    sched := { Dev.reset.sched with units := admin.map fun (i, _) => (i, ⟨true, 0, false⟩) }
    sec := { Sec.reset with
      levels := d.sec.levels
      a2Count := d.sec.a2Count
      a3Count := d.sec.a3Count
      serial := d.sec.serial }
    mc := { Dev.reset.mc with chans := (d.mc.chans.filter fun c => !c.2.spareUsed.isEmpty).map fun (i, k) =>
      (i, { Channel.reset with spareUsed := k.spareUsed }) }
    out := d.out
    draws := d.draws }

/-- The power cycle of step 4 of the recovery ladder. -/
def powerCycle (w : Wk) : Wk := (loseMemory w).on coldDev

/-- A device reset (R434). A second one within 10 minutes becomes a power cycle (Table 17-5). A device halted by A3 returns only
with a power cycle (R478). -/
def deviceReset (w : Wk) : Wk :=
  if !w.dev.clk.powered || w.dev.sec.level == 3 then w
  else if w.dev.boot.resets.any fun t => within w.dev.clk.hlc0 t 600000000 then powerCycle w
  else
    let w := w.on fun d => { d with boot := { d.boot with ready := false, early := false } }
    let w := undoAll (scribbleAll w)
    let qs := w.dev.vds.flatMap fun v => v.2.queues.map fun q => (v.1, q.1)
    (qs.foldl (fun w q => loseQueue q.1 q.2 w) w).on restartDev

/-- DEVICE_RESET. -/
def execDeviceReset (s : State) : Out := runMem deviceReset s

/-- POWER_CYCLE. -/
def execPowerCycle (s : State) : Out := runMem powerCycle s

/-- HUB_DIE_FAILURE (Table 17-1): the other hub's watchdog declares a hub failed, and the device is reset. -/
def execHubDieFailure (_h : Hub) (s : State) : Out := runMem deviceReset s

/-! ## Hangs and the dredge (R429 … R432) -/

/-- A suspect: virtual device, queue, command. -/
abbrev Suspect := Nat × Nat × Nat

/-- The order in which suspects run alone (R430): device queue number, then place in the queue. -/
def suspectKey (d : Dev) (s : Suspect) : Nat × Nat :=
  match d.queue? s.1 s.2.1 with
  | some x => (x.devq, (x.cur.map fun c => 32 * c.index + c.chain).getD 0)
  | none => (0, 0)

/-- The started attempts that hold work of an engine (R430). -/
def suspectsOf (d : Dev) (e : Engine) : List Suspect :=
  let nos : List Nat := match e with
    | .core n => (d.core n.val).busy.toList ++ (d.core n.val).switched.toList
    | .dma h => ((d.mc.host.filter fun r => hubOf r.vdev == h.val && r.queue != adminQueue).map HostReq.cmd).eraseDups
    | .lx p => (d.fab.exchanges.filter fun x => x.ports.contains p).map Exchange.cmd
    | _ => []
  let l : List Suspect := nos.filterMap fun no => (d.whereIs no).bind fun (v, q, c) => if c.attempting then some (v, q, no) else none
  sortBy (suspectKey d) l

/-- The current command of a suspect. -/
def Dev.suspect? (d : Dev) (s : Suspect) : Option Cmd := (d.cur? s.1 s.2.1).bind fun c => if c.no = s.2.2 then some c else none

/-- Change the dredge of an engine. -/
def onDredge (e : Engine) (f : Dredge → Dredge) (d : Dev) : Dev := { d with dredges := updFirst (fun r => r.engine == e) f d.dredges }

/-- The dredge of an engine is over. -/
def endDredge (e : Engine) (d : Dev) : Dev := { d with dredges := d.dredges.filter fun r => r.engine != e }

/-- An engine is reset: its own state is cleared as by the sluice (R430). -/
def resetEngine (e : Engine) (d : Dev) : Dev :=
  match e with
  | .core n => zeroCore n.val d
  | _ => d

/-- A suspect's participation in a collective with other packages is told to the fabric manager (R432). -/
def noteHang (s : Suspect) (d : Dev) : Dev :=
  match d.suspect? s with
  | some c => if c.isColl && !(d.groupPorts s.1 c.group).isEmpty then raiseOd 4 c.group (natLe 8 c.opSeq.toNat) d else d
  | none => d

/-- ENGINE_HANG (R429, R430): a core, a hub DMA engine or an exchange engine that holds a started attempt makes no progress. The
engine is reset, every suspect's attempt is abandoned, and the first one runs alone. -/
def doHang (e : Engine) (w : Wk) : Wk :=
  match suspectsOf w.dev e with
  | [] => w
  | s :: rest =>
    if w.dev.dredges.any fun r => r.engine == e || (match e with | .core n => r.second == some n.val | _ => false) then w
    else
      let w := w.on fun d => (s :: rest).foldl (fun d x => noteHang x d) (resetEngine e (bump 4 d))
      let w := w.on fun d => { d with dredges := d.dredges ++ [⟨e, rest, some s, 0, none, false⟩] }
      (s :: rest).foldl (fun w x => abandonCmd x.1 x.2.1 w) w

/-- ENGINE_HANG. -/
def execEngineHang (e : Engine) (s : State) : Out := runMem (doHang e) s

/-- The verdict on an engine whose suspects were all innocent (R431). -/
def condemn (e : Engine) (w : Wk) : Wk :=
  match e with
  | .core n => w.on (drainCore n.val 4)
  | .lx p => retrain p.val w
  | .dma h =>
    let now := w.dev.hlc h.val
    let old := (Tab.getD w.dev.hdTimes h.val []).filter (lastDay now)
    let w := w.on fun d => { d with hdTimes := Tab.put d.hdTimes h.val (old ++ [now]) }
    if old.isEmpty then w else deviceReset w
  | _ => w

/-- The next suspect runs alone; after the last one, an engine with no guilty suspect gets its verdict. -/
def nextSuspect (r : Dredge) (w : Wk) : Wk :=
  match r.waiting.filter fun s => (w.dev.suspect? s).isSome with
  | s :: rest => w.on (onDredge r.engine fun _ => { r with waiting := rest, alone := some s, hangs := 0, second := none })
  | [] =>
    let w := w.on (endDredge r.engine)
    if r.guilty then w else condemn r.engine w

/-- Another serviceable core of the partition of a suspect (R431). -/
def otherCore (d : Dev) (s : Suspect) (n : Nat) : Option Nat :=
  (d.queue? s.1 s.2.1).bind fun x => (Tab.get? (d.vd s.1).parts x.part).bind fun p =>
    p.cores.find? fun m => m != n && (d.core m).state == .serviceable && !d.sluiced .core m

/-- A suspect is guilty: it fails with 0x0040, and the engine is reset again (R431). -/
def convict (r : Dredge) (s : Suspect) (w : Wk) : Wk :=
  let w := failCmd s.1 s.2.1 0x40 Detail.none (w.on fun d => resetEngine r.engine (bump 5 d))
  nextSuspect { r with guilty := true } w

/-- A suspect that runs alone has hung. On a core it runs alone once more on another core of its partition; without one it is
guilty. -/
def hungAlone (r : Dredge) (s : Suspect) (w : Wk) : Wk :=
  let w := w.on (bump 4)
  match r.engine, r.second with
  | .core n, none =>
    match otherCore w.dev s n.val with
    | some m => abandonCmd s.1 s.2.1 (w.on fun d => onDredge r.engine (fun r => { r with hangs := 1, second := some m }) (resetEngine r.engine d))
    | none => convict r s w
  | _, _ => convict r s w

/-- A suspect that ran alone is innocent. Where that took a second core, the first one is retired, and the dredge is over. -/
def acquit (r : Dredge) (w : Wk) : Wk :=
  match r.engine, r.second with
  | .core n, some _ => w.on fun d => drainCore n.val 4 (endDredge r.engine d)
  | _, _ => nextSuspect r w

/-- DREDGE_SUSPECT_END (R431): the suspect that runs alone has completed, or has hung. One that has failed otherwise leaves the
dredge. -/
def doSuspectEnd (e : Engine) (completed : Bool) (w : Wk) : Wk :=
  match w.dev.dredges.find? fun r => r.engine == e with
  | none => w
  | some r =>
    match r.alone with
    | none => w
    | some s =>
      let running : Bool := match w.dev.suspect? s with
        | some c => c.phase == .checked || c.phase == .placed || c.phase == .running
        | none => false
      let failing : Bool := match w.dev.suspect? s with
        | some c => c.failOut.isSome || c.phase == .failing || (c.phase == .aborting && !c.thenReplay)
        | none => false
      if completed then if failing then nextSuspect { r with guilty := true } w else if running then w else acquit r w
      else match w.dev.suspect? s with
        | some c => if c.attempting then hungAlone r s w else w
        | none => w

/-- DREDGE_SUSPECT_END. -/
def execDredgeSuspectEnd (e : Engine) (completed : Bool) (s : State) : Out := runMem (doSuspectEnd e completed) s

end Sys2Proof.Machine
end

