-- ==== Sys2Proof/Machine/Startup.lean ====
section
/-! DEFINITION. Start-up and early service (R495 … R504), power-good (R506, R507), the reference clock (R512) and host ports
(R515). -/

namespace Sys2Proof.Machine

open Sys2Proof

/-! ## Power-good (R495, R506, R507) -/

/-- POWER_GOOD (R495, Table 21-1 step 1): the counts start at 0, the security core leaves reset and holds the attestation key,
slot 0 is generated and loaded, and a PF-S line that is high counts as asserted (R513). The VCORE rails stand at 700 mV (Table
22-3). -/
def doPowerGood (alarms : BitVec 3) (d : Dev) : Dev :=
  if d.clk.powered then d
  else
    let d := { d with clk := ⟨0, 0, true, true⟩ }
    let d := (d.onKey 0 fun _ => ⟨.loaded, 0, .slot0⟩).onSec fun s => { s with attKey := true }
    let d := d.onPwr fun p => { p with volts := (List.range 32).map fun i => (i, 700) }
    ((List.range 3).filter fun i => bitAt alarms.toNat i).foldl (fun d i => assertLine i true d) d

/-- POWER_GOOD. -/
def execPowerGood (alarms : BitVec 3) (s : State) : Out := runDev (fun _ d => doPowerGood alarms d) s

/-- POWER_GOOD_DEASSERT (R507): HB0 stops every engine and zeroes the key slots; what follows is a power cycle. -/
def doPowerLoss (w : Wk) : Wk :=
  let w := w.on fun d =>
    let d := haltEngines d
    d.onMc fun m => { m with keys := m.keys.map fun (i, k) => (i, k.zeroize) }
  powerCycle w

/-- POWER_GOOD_DEASSERT. -/
def execPowerGoodDeassert (s : State) : Out := runMem doPowerLoss s

/-- STACK_GROUP_POWER_UP (R506): the stacks of a group are powered, and their channels train. -/
def doStackPower (g : Nat) (d : Dev) : Dev :=
  if !d.clk.powered then d
  else (((List.range 1024).filter fun c => c / 32 / 4 % 4 == g).filter fun c => (d.chan c).state == .unpowered).foldl
    (fun d c => d.onChan c fun k => { k with state := .training, resume := .unpowered, hardPending := false, softRows := [] }) d

/-- STACK_GROUP_POWER_UP. -/
def execStackGroupPowerUp (g : Fin 4) (s : State) : Out := runDev (fun _ d => doStackPower g.val d) s

/-! ## The scheduler takes the active role (Table 21-1 step 6) -/

/-- A channel that has only to be admitted (R497). -/
def Channel.readyToServe (k : Channel) : Bool := k.state == .scrubbing && k.resume == .inService

/-- The first serving channel of each of two MC dies but those of some: two channels on different stacks. -/
def twoStacks (ready : List Nat) (but : List Nat) : List Nat :=
  (((ready.map (· / 32)).eraseDups.filter fun k => !but.contains k).take 2).filterMap fun k => ready.find? fun c => c / 32 == k

/-- Scheduler core A takes the active role once firmware runs and two channels on different stacks are ready. Channels that wait
are admitted, core B becomes standby, the journal has its two copies on different stacks (R409), the cluster control section is written to the firmware area of two channels
(R400), and ports that hold lock
secure. -/
def takeRole (d : Dev) : Dev :=
  let ready := (d.mc.chans.filter fun c => c.2.readyToServe).map Prod.fst
  if d.boot.active || d.fw.state != 2 || !(d.proc 1).up || (ready.map (· / 32)).eraseDups.length < 2 then d
  else
    let d := ready.foldl (fun d c => d.onChan c fun k => { k with state := .inService, resume := .unpowered }) d
    let d : Dev := { d with
      boot := { d.boot with active := true }
      fw := { d.fw with 
        activeB := false
        standbyReady := (d.proc 3).up
        copies := twoStacks ready []
        area := twoStacks ready [] } }
    ((List.range 16).filter fun p => (d.port p).state == 1 && decide (4 ≤ (d.port p).width)).foldl (fun d p => enterPort p 2 d) d

/-! ## Channels (R496, R497, R501, R503) -/

/-- A channel fails at start-up (R501, R503): its contents are lost. In a mirrored composition its mirror replaces it; otherwise
its lines are poisoned. It is retired (R224). -/
def failChan (c : Nat) (d : Dev) : Dev :=
  let out (d : Dev) : Dev := setCause .chan c 1 (d.onChan c fun k => { k with state := .retired, target := none, copied := false })
  let d := endReturn .chan c false d
  match d.chanOwner c with
  | none => out d
  | some v =>
    let d := if (d.vd v).mirrorCh = c then d.onVd v fun x => { x with mirrorLost := true } else d
    if (d.vd v).mirrored then
      let old := d.vd v
      let d := (takeMirrors v (nextEpoch old.epoch) (· == c) (keepMaps v d)).onVd v fun x => { x with chans := x.chans.filter (· != c) }
      out (compositionChanged v 2 [(.chan, c)] (publishChange v old [] true [] d))
    else retireChan c 1 (d.onChan c fun k => { k with state := .inService, lost := true, poison := [] })

/-- CHANNEL_READY (R497, R503, R224): a channel has trained, passed its self-test and, on a cold start, been scrubbed, each line written and
read back; or its self-test
has failed, or its training, for the second time for good. It waits in SCRUBBING until the scheduler is active. One with ADMIN OUT is not admitted
(R502). -/
def doChannelReady (c : Nat) (pass : ReadyResult) (d : Dev) : Dev :=
  let k := d.chan c
  if !((k.state == .training && (k.resume == .unpowered || k.resume == .retiring)) || (k.state == .scrubbing && k.resume == .unpowered)) then d
  else
    let d := raiseSrc d.schedHub (0x121 + c / 32) d
    let d := if d.boot.cold && pass == .ready then countLines c 1 (chanBytes / 64) (countLines c 0 (chanBytes / 64) d) else d
    match pass with
    | .testFailed => failChan c d
    | .trainingFailed => if k.retrains = 0 then d.onChan c fun k => { k with retrains := 1 } else failChan c d
    | .ready =>
      let d := endReturn .chan c true (d.onChan c fun k => { k with retrains := 0 })
      if k.resume == .retiring then d.onChan c fun k => { k with state := .retiring, resume := .unpowered }
      else if (d.unit .chan c).adminOut then setCause .chan c 3 (d.onChan c fun k => { k with state := .retired })
      else if d.boot.active then d.onChan c fun k => { k with state := .inService }
      else takeRole (d.onChan c fun k => { k with state := .scrubbing, resume := .inService })

/-- CHANNEL_READY. -/
def execChannelReady (c : Chan) (pass : ReadyResult) (s : State) : Out := runDev (fun _ d => announcing (doChannelReady c.val pass) d) s

/-! ## Levels of service (R498, R499, R502) -/

/-- EARLY_SERVICE_START (R498): READY and EARLY are set, core islands run at 500 MHz, partitions of compositions that survived a
device reset are warming (R501). -/
def doEarly (d : Dev) : Dev :=
  if !d.boot.active || d.boot.ready || d.sec.level == 3 then d
  else
    let d := { d with boot := { d.boot with ready := true, early := true } }
    let d := d.onSched fun s => { s with cores := s.cores.map fun (i, k) => (i, if k.powered then { k with clock := 20 } else k) }
    let vd (v : Nat) (x : Vd) : Vd := { x with parts := x.parts.map fun (i, p) => (i, { p with lastPrefetch := d.hlcOf v }) }
    let d := { d with vds := d.vds.map fun (v, x) => (v, vd v x) }
    postService mgr d

/-- EARLY_SERVICE_START. -/
def execEarlyServiceStart (s : State) : Out :=
  runDev (fun _ d => announcing doEarly d) s

/-- Whether a unit has reached service, been retired, or has ADMIN OUT (R499). A port whose lanes detect no signal has nothing to
wait for. -/
def Dev.settled (d : Dev) (k : UnitKind) (n : Nat) : Bool :=
  (d.unit k n).adminOut || match k with
    | .core => (match (d.core n).state with
      | .unpowered => false
      | .testing => false
      | .returning => false
      | _ => true)
    | .chan => (match (d.chan n).state with
      | .unpowered => false
      | .training => false
      | .scrubbing => false
      | _ => true)
    | .port => (d.port n).state != 1 && (d.port n).state != 2

/-- FULL_SERVICE_START (R499): every unit is settled and calibration has run for 20 ms. EARLY clears, and the manager and each
composed virtual function are told (R504). -/
def doFull (d : Dev) : Dev :=
  if !d.boot.early || d.boot.calib < 20 || !((List.range 2176).all fun n => d.settled .core n) ||
      !((List.range 1024).all fun n => d.settled .chan n) || !((List.range 16).all fun n => d.settled .port n) then d
  else
    let d := { d with boot := { d.boot with early := false } }
    (d.vds.filter fun v => v.2.composed).foldl (fun d v => postService v.1 d) (postService mgr d)

/-- FULL_SERVICE_START. -/
def execFullServiceStart (s : State) : Out := runDev (fun _ d => doFull d) s

/-- Whether channels of two stacks serve or can still reach service. -/
def Dev.twoStacksLeft (d : Dev) : Bool :=
  decide (2 ≤ ((List.range 32).filter fun k => !(d.die k).lost && (List.range 32).any fun j =>
    !(d.unit .chan (32 * k + j)).adminOut && (d.chan (32 * k + j)).state != .retired && !(d.chan (32 * k + j)).lost).length)

/-- A unit that is not yet in service when its bound expires is retired (R499). -/
def expireUnit (k : UnitKind) (n : Nat) (d : Dev) : Dev :=
    if d.settled k n then d
    else match k with
      | .core =>
        let d := setCause .core n 1 (endReturn .core n false d)
        if (d.boundTo .core n).isSome then settleCore n (d.onCore n fun c => { c with state := .scrubbed })
        else d.onCore n fun c => { c with state := .retired }
      | .chan => failChan n d
      | .port => setCause .port n 1 (enterPort n 6 (endReturn .port n false d))

/-- START_UP_BOUND_EXPIRY (R499, R503): a unit that is not yet in service when its bound of Table 21-1 expires is retired. Where no two
stacks can reach service any more, no scheduler takes its role: after a device reset the next step of the recovery ladder is the power
cycle (Table 17-5). DESIGN CHOICE (log entry 86): after a cold start, which is the last step of the ladder, the device stays out of
service. -/
def doBoundExpiry (word : Nat) (w : Wk) : Wk :=
  match unitOf word with
  | none => w
  | some (k, n) =>
    if !w.dev.clk.powered || (w.dev.boot.ready && !w.dev.boot.early) then w
    else
      let w := w.on (expireUnit k n)
      if k == .chan && !w.dev.boot.active && !w.dev.boot.cold && !w.dev.twoStacksLeft then powerCycle w else w

/-- START_UP_BOUND_EXPIRY. -/
def execStartUpBoundExpiry (u : BitVec 32) (s : State) : Out := runMem (doBoundExpiry u.toNat) s

/-! ## The reference clock (R512) -/

/-- REFERENCE_CLOCK_LOSS: HLC stops, lanes lose lock, and trained ports retrain. -/
def doClockLoss (w : Wk) : Wk :=
  if !w.dev.clk.running then w
  else
    let w := w.on fun d => { d with clk := { d.clk with running := false } }
    ((List.range 16).filter fun p => (w.dev.port p).trained).foldl (fun w p => retrain p w) w

/-- REFERENCE_CLOCK_LOSS. -/
def execReferenceClockLoss (s : State) : Out := runMem doClockLoss s

/-- REFERENCE_CLOCK_RETURN: HLC counts again. -/
def execReferenceClockReturn (s : State) : Out := runDev (fun _ d => { d with clk := { d.clk with running := true } }) s

/-! ## Host ports (R515) -/

/-- HOST_PORT_RESET (R515): PERST# or a loss of the link re-initialises every function of the port; the link is down, and its
decoders are no longer committed. -/
def doPortReset (p : HPort) (w : Wk) : Wk :=
  let w := doFlr (.carrier p) w
  w.on fun d =>
    let d := { d with hostLinks := Tab.put d.hostLinks p.val HostLink.reset }
    d.onMc fun m => { m with hdm := m.hdm.filter fun h => h.1 / 4 != p.val }

/-- HOST_PORT_RESET. -/
def execHostPortReset (p : HPort) (s : State) : Out := runMem (doPortReset p) s

/-- The PCIe rates of a port, in tenths of GT/s, and its widths. -/
def hostRates : List Nat := [25, 50, 80, 160, 320, 640]
/-- Widths a port trains at. -/
def hostWidths : List Nat := [1, 4, 8, 16]

/-- The rates and widths at which a port runs CXL (R230): 64 and 32 GT/s, x16 and x8. -/
def cxlRuns (rate width : Nat) : Bool := (rate == 640 || rate == 320) && (width == 16 || width == 8)

/-- HOST_PORT_LINK_UP (R515, R230): the link trains at a rate and width, for CXL or PCIe; a port that cannot run CXL there runs as PCIe
alone. -/
def execHostPortLinkUp (p : HPort) (rate width : Nat) (cxl : Bool) (s : State) : Out :=
  runDev (fun _ d =>
    if !d.clk.powered || !hostRates.contains rate || !hostWidths.contains width then d
    else { d with hostLinks := Tab.put d.hostLinks p.val ⟨true, rate, width, cxl && cxlRuns rate width⟩ }) s

end Sys2Proof.Machine
end

