-- ==== Sys2Proof/Machine/Firmware.lean ====
section
/-! DEFINITION. Firmware processors: loading (R398 … R400), crashes and restarts (R408, R412), takeover (R411), the scheduler
journal (R409, R410). -/

namespace Sys2Proof.Machine

open Sys2Proof

/-- Change firmware state. -/
def Dev.onFw (d : Dev) (f : Fw → Fw) : Dev := { d with fw := f d.fw }
/-- Change a firmware processor. -/
def Dev.onProcSt (d : Dev) (p : Nat) (f : ProcSt → ProcSt) : Dev := d.onFw fun x => { x with procs := Tab.put x.procs p (f (d.proc p)) }

/-! ## Loading (R398 … R400) -/

/-- FW_LOAD (Table 16-4 steps 1 and 2): LOAD acts while the state is WAIT or REFUSED, and the image is read. -/
def doLoad (word : Nat) (d : Dev) : Dev :=
  if !bitAt word 0 || !d.clk.powered || d.sec.level == 3 || !(d.fw.state == 0 || d.fw.state == 3) then d
  else (d.onFw fun f => { f with state := 1, reason := 0 }).emit (.imageRead d.fw.addr.toNat d.fw.len.toNat)

/-- FW_LOAD. -/
def execFwLoad (w : BitVec 32) (s : State) : Out := runDev (fun _ d => doLoad w.toNat d) s

/-- `SEC_FW_IMAGE_LEN`. -/
def imageLength (bs : List Byte) : Nat := fieldLe bs 0x20 8

/-- The sections of an image: offset, length, kind (Table 16-2). -/
def imageSections (bs : List Byte) : List (Nat × Nat × Nat) :=
  (List.range 4).map fun i => (fieldLe bs (0x30 + 16 * i) 4, fieldLe bs (0x34 + 16 * i) 4, fieldLe bs (0x38 + 16 * i) 1)

/-- Whether the magic, the format and the section table of an image are right: the bytes "BVFW", format 1, four sections of the
four kinds, each inside the image behind the header. -/
def imageFormatOk (bs : List Byte) : Bool :=
  let n := imageLength bs
  let ss := imageSections bs
  fieldLe bs 0 4 == 0x57465642 && fieldLe bs 4 2 == 1 && fieldLe bs 0x0C 4 == 4 && decide (0x200 ≤ n) && decide (n ≤ 33554432) &&
    decide (n ≤ bs.length) && ss.all (fun s => decide (0x200 ≤ s.1) && decide (0 < s.2.1) && decide (s.1 + s.2.1 ≤ n)) &&
    [1, 2, 3, 4].all fun k => ss.any fun s => s.2.2 == k

/-- Whether the signature of an image verifies under the firmware signing key: bytes 0x0000 … 0x00FF and 0x0200 … to the end are
signed with ECDSA on P-384 with SHA3-384 (R399). -/
def imageSigned (bs : List Byte) : Bool :=
  verifies (some Config.firmwareKey) (sliceB bs 0 0x100 ++ bs.drop 0x200)
    (BitVec.ofNat 384 (beNat (sliceB bs 0x100 48)), BitVec.ofNat 384 (beNat (sliceB bs 0x130 48)))

/-- Why an image is refused (Table 16-3), if it is. -/
def imageRefusal (image : Option (List Byte)) : Option Nat :=
  match image with
  | none => some 4
  | some bs =>
    if !imageFormatOk bs then some 1
    else if !imageSigned (bs.take (imageLength bs)) then some 2
    else if fieldLe bs 8 4 < Config.svnFloor then some 3
    else none

/-- `EVC_TARGET` of a source of a hub's controller (Table 16-14); none for one that is held disabled. -/
def hubTarget (hub i : Nat) : Option Nat :=
  if i ≤ 0x151 then some 2
  else if i = 0x152 then some 3
  else if i = 0x153 ∨ i = 0x154 then if hub = 0 then some 1 else none
  else if i = 0x155 ∨ i = 0x156 then if hub = 1 then some 1 else none
  else none

/-- The listed sources of a controller as firmware enables them (R358, R407): the target of Table 16-14, and a priority, hold count and
hold limit of its own choice. -/
def enabledSources (c : Nat) : Tab EvSrc :=
  (List.range 512).filterMap fun i =>
    (if 2 ≤ c then (if i ≤ 0x48 then some 1 else none) else hubTarget c i).map fun t =>
      let x := (Config.sourceConfig c i).toNat
      (i, ⟨BitVec.ofNat 32 (x / 4096 * 4096 + 256 * (1 + bits x 11 8 % 15) + t), 0, false⟩)

/-- Firmware configures the event controllers of the hubs and the clusters. -/
def enableSources (d : Dev) : Dev :=
  (List.range 34).foldl (fun d c => d.setEvc c { Evc.reset with srcs := enabledSources c }) d

/-- Steps 4 and 5 of Table 16-4: measurement and section digests are recorded, every processor leaves reset, and the cores begin
their self-tests at 500 MHz. Calibration begins. -/
def runImage (bs : List Byte) (d : Dev) : Dev :=
  let d := d.onFw fun f => { f with
    state := 2
    reason := 0
    offered := BitVec.ofNat 128 (fieldLe bs 0x10 16)
    aclMax := BitVec.ofNat 16 (fieldLe bs 6 2)
    svn := BitVec.ofNat 32 (fieldLe bs 8 4)
    imageLen := BitVec.ofNat 64 (imageLength bs)
    meas := sha3_256 (bs.take (imageLength bs))
    sections := [1, 2, 3, 4].map fun k => match (imageSections bs).find? fun s => s.2.2 == k with
      | some s => sha3_256 ((bs.drop s.1).take s.2.1)
      | none => [] }
  let d := (List.range 36).foldl (fun d p => d.onProcSt p fun x => ⟨true, x.crashes, false, false⟩) d
  let d := (List.range 2176).foldl (fun d n =>
    if (d.core n).state == .unpowered then powerCore n .testing d else d) d
  let d := d.onSec fun s => { s with attKey := true }
  takeRole (enableSources { d with boot := { d.boot with calib := 0 } })

/-- FW_IMAGE_READ_DONE (R400): the image is checked, measured and placed, or the load is refused and source 0x06 is raised. -/
def doImage (image : Option (List Byte)) (d : Dev) : Dev :=
  if d.fw.state != 1 || !d.secUp then d
  else match imageRefusal image with
    | some r => raiseAlarm 6 0 (d.onFw fun f => { f with state := 3, reason := r })
    | none => runImage (image.getD []) d

/-- FW_IMAGE_READ_DONE. -/
def execFwImageReadDone (image : Option (List Byte)) (s : State) : Out := runDev (fun _ d => announcing (doImage image) d) s

/-! ## Crashes (R408, R412) -/

/-- The hub whose count a processor's watchdog uses. -/
def procHub (p : Nat) : Nat := if p < 2 then 0 else if p < 4 then 1 else if (p - 4) % 16 < 8 then 0 else 1
/-- The number of the active scheduler's processor. -/
def Dev.activeProc (d : Dev) : Nat := if d.fw.activeB then 3 else 1

/-- FIRMWARE_RESTART (Table 16-13) goes to every function (Table 16-15 step 5). -/
def tellRestart (p : Nat) (outageUs : Nat) (d : Dev) : Dev :=
  let kind := if p = 0 then 0 else if p = 1 ∨ p = 3 then 1 else if p = 2 then 2 else 3
  let body := natLe 1 kind ++ natLe 1 (p - 4) ++ natLe 2 0 ++ natLe 4 outageUs
  (List.range 257).foldl (fun d fn => postEvent fn 8 p body d) d

/-- The microseconds since the last crash of a processor. -/
def Dev.outage (d : Dev) (p : Nat) : Nat := (d.hlc (procHub p) - (d.proc p).crashes.getLastD 0).toNat / 100

/-- The cores of a cluster are retired, and their attempts are replayed elsewhere (Table 16-16). -/
def loseCluster (c : Nat) (w : Wk) : Wk :=
  let cores := (List.range 68).map (68 * c + ·)
  let w := cores.foldl (fun w n => abandonOn n false w) w
  w.on fun d =>
    let spare := cores.filter fun n => (d.core n).state != .serviceable
    let d := spare.foldl (fun d n => drainCore n 2 d) d
    cores.foldl (fun d n => drainCore n 2 d) d

/-- A processor is not back in time, or has crashed for the third time within an hour (Table 16-16). DESIGN CHOICE (log entry 80): the
FIRMWARE_RESTART of one that stays down carries the outage 0xFFFF_FFFF. -/
def fallBack (p : Nat) (w : Wk) : Wk :=
  let w := w.on fun d => d.onProcSt p fun x => { x with restarting := p == 0 || p == 2 }
  if p = 0 then w.on (raiseAlarm 7 0)
  else if p = 2 then w.on fun d =>
    let d := d.onPwr fun x => { x with slow := true }
    d.onSched fun s => { s with cores := s.cores.map fun (i, k) => (i, if k.powered then { k with clock := 20, wanted := 0 } else k) }
  else if p = 1 ∨ p = 3 then
    if p = w.dev.activeProc then deviceReset w
    else w.on fun d => postEvent mgr 8 p (natLe 1 1 ++ natLe 3 0 ++ natLe 4 0xFFFFFFFF) d
  else loseCluster (p - 4) (w.on (tellRestart p 0xFFFFFFFF))

/-- A firmware processor is declared crashed (R408), the security core also while it runs from its boot ROM (R398): source 0x152 fires on both hubs. A cluster loses its shadows and its binary
store. With both scheduler cores down at once the device is reset (Table 17-5). -/
def crash (p : Nat) (w : Wk) : Wk :=
  let d := w.dev
  if (d.fw.state != 2 && p != 0) || !d.clk.powered || d.sec.level == 3 || !(d.proc p).up then w
  else
    let now := d.hlc (procHub p)
    let times := ((d.proc p).crashes.filter fun t => within now t 3600000000) ++ [now]
    let d := raiseSrc 1 0x152 (raiseSrc 0 0x152 (d.onProcSt p fun _ => ⟨false, times, true, false⟩))
    let d := if (p = 1 ∨ p = 3) ∧ p ≠ d.activeProc then d.onFw fun f => { f with standbyReady := false } else d
    let d := if p < 4 then d else dropShadows (fun n _ => n / 68 == p - 4) (d.onSched fun s =>
      { s with binaries := Tab.put s.binaries (p - 4) ((Tab.getD s.binaries (p - 4) []).filter fun b => b.overflow) })
    let w := { w with dev := d }
    if (p = 1 ∨ p = 3) ∧ (d.proc (4 - p)).restarting = true then deviceReset w
    else if 3 ≤ times.length then fallBack p w else w

/-- The number of a firmware processor. -/
def procNo : Proc → Nat
  | .security => 0
  | .schedA => 1
  | .power => 2
  | .schedB => 3
  | .cluster c => 4 + c.val

/-- FW_WATCHDOG_EXPIRY. -/
def execFwWatchdogExpiry (p : Proc) (s : State) : Out := runMem (crash (procNo p)) s
/-- FW_TRAP. -/
def execFwTrap (p : Proc) (s : State) : Out := runMem (crash (procNo p)) s

/-- The place of a processor's section among the recorded digests: security, scheduler, power, cluster control. -/
def sectionOf (p : Nat) : Nat := if p = 0 then 0 else if p = 1 ∨ p = 3 then 1 else if p = 2 then 2 else 3

/-- Whether a crashed processor may start from the section as it is read back: its digest is the recorded one (R412). The security core
has its boot ROM until firmware runs (R398). -/
def Dev.sectionOk (d : Dev) (p : Nat) (bs : List Byte) : Bool :=
  (p == 0 && d.fw.state != 2) || d.fw.sections[sectionOf p]? == some (sha3_256 bs)

/-- FW_RESTART (R412): a crashed processor restarts from its section. A digest that differs raises source 0x06, and the processor
stays down, which the functions are told. A scheduler core that comes back while no other core took the role holds it again (R411); otherwise it is the
standby. -/
def restartProc (p : Nat) (digestOk : Bool) (d : Dev) : Dev :=
  if !(d.proc p).restarting then d
  else
    let d := d.onProcSt p fun x => { x with restarting := false }
    if !digestOk then raiseAlarm 6 0 (if (d.proc p).told then d else tellRestart p 0xFFFFFFFF d)
    else
      let d := bump 10 (if (d.proc p).told then d else tellRestart p (d.outage p) d)
      let d := d.onProcSt p fun x => { x with up := true, told := true }
      if p = 0 then serveAll d
      else if p = 2 then commitSubs (d.onPwr fun x => { x with slow := false })
      else if (p = 1 ∨ p = 3) ∧ p ≠ d.activeProc then d.onFw fun f => { f with standbyReady := true, applied := f.journal.length }
      else d


/-- FW_RESTART_TIMEOUT (Table 16-16). -/
def execFwRestartTimeout (p : Proc) (s : State) : Out :=
  runMem (fun w => if (w.dev.proc (procNo p)).restarting then fallBack (procNo p) w else w) s

/-! ## Takeover and journal (R409 … R411) -/

/-- The attempts lost with a cluster control core that is down are abandoned and replayed (R411). -/
def abandonLost (w : Wk) : Wk :=
  let lost := w.dev.vds.flatMap fun v => v.2.queues.filterMap fun q => q.2.cur.bind fun c =>
    if c.attempting && c.clusters.any fun k => !(w.dev.proc (4 + k)).up then some (v.1, q.1) else none
  lost.foldl (fun w e => abandonCmd e.1 e.2 w) w

/-- A scheduler core that takes the active role reads the journal: with both copies unreadable the device is reset (Table 17-5);
otherwise lost attempts are abandoned (R411). -/
def reconcile (w : Wk) : Wk :=
  if w.dev.boot.active && w.dev.fw.copies.all w.dev.copyUnreadable then deviceReset w else abandonLost (w.on checkCopies)

/-- FW_RESTART (R412): where the active scheduler comes back to its role, it reconciles as after a takeover (R411). A cluster control
core takes its section from the firmware area of a channel that serves. -/
def doRestartProc (p : Nat) (bs : List Byte) (w : Wk) : Wk :=
  if 4 ≤ p && !(w.dev.fw.area.any fun c => (w.dev.chan c).serves) then w
  else
    let digestOk := w.dev.sectionOk p bs
    let role := p == w.dev.activeProc && (w.dev.proc p).restarting && digestOk
    let w := w.on (announcing (restartProc p digestOk))
    if role then reconcile w else w

/-- FW_RESTART. -/
def execFwRestart (p : Proc) (bs : List Byte) (s : State) : Out := runMem (doRestartProc (procNo p) bs) s

/-- SCHEDULER_TAKEOVER (R411): the standby, which has read the journal to its last record, takes the active role of a scheduler core that
has crashed. A hand-off that no cluster holds yet leaves its command placed, so it is handed off again; a request whose effect is journaled
has its response, for both are one step here. -/
def doTakeover (w : Wk) : Wk :=
  let d := w.dev
  let a := d.activeProc
  if !d.boot.active || d.fw.state != 2 || (d.proc a).up || !d.fw.standbyReady then w
  else
    let d := d.onFw fun f => { f with activeB := !f.activeB, standbyReady := false, applied := f.journal.length }
    let d := (tellRestart a (d.outage a) d).onProcSt a fun x => { x with told := true }
    reconcile { w with dev := d }

/-- SCHEDULER_TAKEOVER. -/
def execSchedulerTakeover (s : State) : Out := runMem doTakeover s

/-- JOURNAL_APPEND (R409, R410): the active scheduler appends a record of 64 bytes, and the standby applies it. The records of the
effects of Table 16-15 are appended by those effects themselves. -/
def doJournal (r : List Byte) (d : Dev) : Dev :=
  if !d.schedUp || r.length ≠ 64 then d else appendJournal r d

/-- JOURNAL_APPEND. -/
def execJournalAppend (r : List Byte) (s : State) : Out := runDev (fun _ d => doJournal r d) s

end Sys2Proof.Machine
end

