-- ==== Sys2Proof/Machine/Bar.lean ====
section
/-! DEFINITION. The registers of BAR0 (Tables 11-1, 11-2, 11-4, 10-3, 14-1 … 14-4, 16-3, 16-6, 16-7, 18-2): what a read of any
bytes returns (R7, R261), and REGISTER_WRITE (R524). -/

namespace Sys2Proof.Machine

open Sys2Proof

/-- All ones in n bits. -/
def ones (n : Nat) : Nat := 2 ^ n - 1

/-- A register of BAR0: its place, its width in bytes, the bits that are RW, those that are W1C, those that act when written
(WO and W1S), whether all its fields are WO, what it reads, and what a write does with the value it leaves: RW and W1C bits as
they become, acting bits as they were written. -/
structure BarReg where
  off : Nat
  width : Nat
  rw : Nat
  w1c : Nat
  acts : Nat
  whole : Bool
  get : Dev → Nat
  put : Nat → Wk → Wk

/-- The bits of a register that a write covers, and their values: byte i of the register is byte off + i − wo of the
write. -/
def covers (off width wo : Nat) (bs : List Byte) : Nat × Nat :=
  let f (i : Nat) : Nat × Nat :=
    if wo ≤ off + i && decide (off + i < wo + bs.length) then (255 * 256 ^ i, (bs.getD (off + i - wo) 0).toNat * 256 ^ i) else (0, 0)
  ((List.range width).map f).foldl (fun a b => (a.1 + b.1, a.2 + b.2)) (0, 0)

/-- A write acts on one register (R524): each field under its access code, on the bytes written. A register whose fields are all
WO acts only where the write covers the whole of it. -/
def BarReg.write (r : BarReg) (wo : Nat) (bs : List Byte) (k : Wk) : Wk :=
  let (m, x) := covers r.off r.width wo bs
  if m = 0 || (r.whole && m != ones (8 * r.width)) then k
  else
    let set := m &&& r.rw
    let gone := set ||| (x &&& r.w1c) ||| r.acts
    r.put (((r.get k.dev) &&& (ones (8 * r.width) ^^^ gone)) ||| (x &&& set) ||| (x &&& r.acts)) k

/-! ## Kinds of register -/

/-- A register that only reads. -/
def roReg (off width : Nat) (g : Dev → Nat) : BarReg := ⟨off, width, 0, 0, 0, false, g, fun _ k => k⟩

/-- A register that stores what is written. -/
def rwReg (off width rw : Nat) (g : Dev → Nat) (p : Nat → Dev → Dev) : BarReg :=
  ⟨off, width, rw, 0, 0, false, g, fun x k => k.on (p x)⟩

/-- A register that stores what is written, and acts. -/
def actReg (off width rw : Nat) (g : Dev → Nat) (p : Nat → Wk → Wk) : BarReg := ⟨off, width, rw, 0, 0, false, g, p⟩

/-- A register whose bits are cleared by ones; the others of it only read. -/
def w1cReg (off width bits : Nat) (g : Dev → Nat) (p : Nat → Dev → Dev) : BarReg :=
  ⟨off, width, 0, bits, 0, false, g, fun x k => k.on (p x)⟩

/-- A register whose fields are all WO: it reads 0, and a write of the whole register acts. -/
def woReg (off width : Nat) (p : Nat → Wk → Wk) : BarReg := ⟨off, width, 0, 0, ones (8 * width), true, fun _ => 0, p⟩

/-- A register of a function held in a bit vector. -/
def fnReg {w : Nat} (fn off rw : Nat) (g : Fn → BitVec w) (p : Fn → BitVec w → Fn) : BarReg :=
  rwReg off (w / 8) rw (fun d => (g (d.fn fn)).toNat) fun x d => d.onFn fn fun f => p f (BitVec.ofNat w x)

/-- The numbers of the blocks of an array that an access of n bytes touches: count blocks of stride bytes from base. -/
def touched (base stride count off n : Nat) : List Nat :=
  if off + n ≤ base || base + stride * count ≤ off then []
  else
    let a := (off - base) / stride
    let b := min count ((off + n - 1 - base) / stride + 1)
    (List.range (b - a)).map (a + ·)

/-! ## Identity, rings and translation (Tables 11-2, 16-7, 10-3) -/

/-- The identity and status registers. HWBASE takes only a multiple of 64 KiB (R3), and reads 0 in the manager function. -/
def idRegs (fn : Nat) : List BarReg :=
  [ roReg 0x0000 4 fun _ => 0x51475642,
    roReg 0x0004 2 fun _ => 0x0201,
    roReg 0x0006 2 fun d => d.fw.aclMax.toNat,
    roReg 0x0008 2 fun _ => fn,
    roReg 0x000A 2 fun d => if fn = mgr then 0 else (d.vd fn).queueGrant,
    roReg 0x000C 1 fun _ => fnHub fn,
    roReg 0x0010 4 fun d => (d.idStatus fn).toNat,
    w1cReg 0x0014 4 7 (fun d => (d.fn fn).err.toNat) (fun x d => d.onFn fn fun f => { f with err := BitVec.ofNat 32 x }),
    roReg 0x0018 8 fun d => (d.hlc (fnHub fn)).toNat ] ++
  if fn = mgr then []
  else [ fnReg fn 0x0020 (ones 64) Fn.hwbase fun f x => if x.toNat % 65536 = 0 then { f with hwbase := x } else f ]

/-- The ring registers. -/
def ringRegs (fn : Nat) : List BarReg :=
  [ woReg 0x0100 4 fun x k => k.on (doAdminTail fn (BitVec.ofNat 32 x)),
    roReg 0x0104 4 fun d => (d.fn fn).adHead.toNat,
    actReg 0x0108 4 0xFF (fun d => (d.fn fn).evHead.toNat) fun x k => k.on (doEvHead fn (BitVec.ofNat 32 x)),
    fnReg fn 0x010C 0x3F3F Fn.adVec fun f x => { f with adVec := x },
    roReg 0x0110 16 fun d => (d.fn fn).feat.toNat ]

/-- Whether the limits of a fault batch are in their ranges (Table 10-3). -/
def gatherOk (x : BitVec 32) : Bool :=
  let count := bits x.toNat 31 16
  decide (1 ≤ count) && decide (count ≤ 64) && decide (1 ≤ bits x.toNat 15 0)

/-- The translation registers of a virtual function. Bits of `XLT_MODE` whose feature is not negotiated are not stored (R401);
`XLT_GATHER_LIMIT` takes only limits in range (R3). -/
def xltRegs (v : Nat) : List BarReg :=
  let held (d : Dev) : Nat := (d.xlt.faults.filter fun e => e.2.vdev == v).length
  [ fnReg v 0x0800 (ones 64) Fn.masterBase fun f x => { f with masterBase := x },
    fnReg v 0x0808 (ones 32) Fn.masterCount fun f x => { f with masterCount := x },
    rwReg 0x080C 4 3 (fun d => (d.fn v).xltMode.toNat) (fun x d =>
      let may := (if d.feature v 2 then 1 else 0) + (if d.feature v 7 then 2 else 0)
      d.onFn v fun f => { f with xltMode := BitVec.ofNat 32 (x &&& may) }),
    fnReg v 0x0810 (ones 32) Fn.syncFirst fun f x => { f with syncFirst := x },
    fnReg v 0x0814 (ones 32) Fn.syncSpan fun f x => { f with syncSpan := x },
    fnReg v 0x0818 (ones 64) Fn.moveVa fun f x => { f with moveVa := x },
    fnReg v 0x0820 (ones 32) Fn.movePages fun f x => { f with movePages := x },
    fnReg v 0x0824 (ones 32) Fn.gatherLimit fun f x => if gatherOk x then { f with gatherLimit := x } else f,
    woReg 0x0828 8 fun x k => syncRequest v (BitVec.ofNat 64 x) k,
    roReg 0x0830 8 fun d => (d.fn v).syncDone.toNat,
    roReg 0x0838 4 fun d => (d.vd v).gen.toNat,
    w1cReg 0x083C 4 2 (fun d => (if (d.vd v).sync.isSome then 1 else 0) + (if (d.fn v).overrun then 2 else 0) +
        (if held d = 0 then 0 else 4))
      (fun x d => d.onFn v fun f => { f with overrun := bitAt x 1 }),
    woReg 0x0840 8 fun x k => doFaultResp v (BitVec.ofNat 64 x) k,
    roReg 0x0848 4 held ]

/-! ## Mailboxes (Tables 14-2 … 14-4) -/

/-- The virtual function at one end of a channel, if it has one. -/
def mbxVf : MbxChan → Option Nat
  | .toMgr v => some v.val
  | .fromMgr v => some v.val
  | .notice => none

/-- A channel as it reads: that of a disabled virtual function reads as reset (R356). -/
def Dev.mbxSeen (d : Dev) (c : MbxChan) : Mbx :=
  if (mbxVf c).any fun v => !(d.vd v).enabled then Mbx.reset else d.mbxCh (chanNo c)

/-- `MBX_PEER` (R355), in either view the state of the receiving function: 3 ABSENT, 1 RESET, 2 MASKED, 0 ACTIVE. -/
def Dev.mbxPeer (d : Dev) (c : MbxChan) : Nat :=
  let r := mbxReceiver c
  let irq := (d.mbxCh (chanNo c)).irqR.toNat
  if r != mgr && !(d.vd r).enabled then 3
  else if r != mgr && (d.vd r).inReset then 1
  else if !bitAt irq 0 || (d.fn r).fnMask || ((d.fn r).vec (bits irq 13 8)).mask then 2
  else 0

/-- `MBX_STATUS` (Table 14-4) in the sender's or the receiver's view. -/
def Dev.mbxStatus (d : Dev) (c : MbxChan) (sender : Bool) : Nat :=
  let m := d.mbxSeen c
  let b (x : Bool) (i : Nat) : Nat := if x then 2 ^ i else 0
  b m.go 0 + b m.withdrawn 1 + b m.late 2 + b (sender && m.err) 3 + 16 * d.mbxPeer c

/-- `MBX_CTRL` (Table 14-3). -/
def Mbx.ctrl (m : Mbx) : Nat := (if m.go then 1 else 0) + 256 * m.len.toNat + 65536 * m.seq.toNat

/-- A write to a mailbox channel's own registers; those of a disabled virtual function keep what they hold (R356). -/
def Dev.onSeen (d : Dev) (c : MbxChan) (f : Mbx → Mbx) : Dev :=
  if (mbxVf c).any fun v => !(d.vd v).enabled then d else d.onMbx (chanNo c) f

/-- The registers of one view of a mailbox channel. -/
def mbxRegs (base : Nat) (c : MbxChan) (sender : Bool) : List BarReg :=
  let data (i : Nat) : BarReg :=
    let g (d : Dev) : Nat := (Tab.getD (d.mbxSeen c).data i 0).toNat
    if sender then rwReg (base + 4 * i) 4 (ones 32) g fun x d => d.onSeen c fun m => { m with data := Tab.put m.data i (BitVec.ofNat 32 x) }
    else roReg (base + 4 * i) 4 g
  let ctrl : BarReg :=
    if sender then
      ⟨base + 0x40, 4, 0x1F00, 0, 3, false, fun d => (d.mbxSeen c).ctrl, fun x k => k.on (doMbxCtrl c x)⟩
    else roReg (base + 0x40) 4 fun d => (d.mbxSeen c).ctrl
  let status : BarReg := w1cReg (base + 0x44) 4 (if sender then 0xA else 4) (fun d => d.mbxStatus c sender) fun x d =>
    d.onSeen c fun m => if sender then { m with err := bitAt x 3, withdrawn := bitAt x 1 } else { m with late := bitAt x 2 }
  let done : List BarReg := if sender then [] else [woReg (base + 0x48) 4 fun x k => k.on (doMbxDone c x)]
  let irq : BarReg :=
    if sender then rwReg (base + 0x4C) 4 0x3F02 (fun d => (d.mbxSeen c).irqS.toNat) fun x d => d.onSeen c fun m => { m with irqS := BitVec.ofNat 32 x }
    else rwReg (base + 0x4C) 4 0x3F01 (fun d => (d.mbxSeen c).irqR.toNat) fun x d => d.onSeen c fun m => { m with irqR := BitVec.ofNat 32 x }
  (List.range 16).map data ++ [ctrl, status] ++ done ++ [irq]

/-- A number as a virtual device. -/
def asVDev (v : Nat) : VDev := ⟨v % 256, Nat.mod_lt _ (by decide)⟩

/-- The bits of one mask of 256 channels (Table 14-1). -/
def channelMap (f : Nat → Bool) : Nat := (List.range 256).foldl (fun a v => if f v then a + 2 ^ v else a) 0

/-! ## Queue status (Tables 11-4, 11-5) -/

/-- The code of a queue state. -/
def QState.code : QState → Nat
  | .free => 0
  | .active => 1
  | .stalled => 2
  | .blocked => 3
  | .fetchError => 4
  | .destroying => 5

/-- Status entry q of a virtual function: a queue that is FREE reads 0 everywhere. -/
def queueRegs (v q : Nat) : List BarReg :=
  let a := 0x3000 + 16 * q
  let g (f : Queue → Nat) (d : Dev) : Nat := ((d.queue? v q).map f).getD 0
  [ actReg a 4 (ones 32) (g Queue.cqHead) fun x k => doCqHead (asVDev v) ⟨q % 256, Nat.mod_lt _ (by decide)⟩ (BitVec.ofNat 32 x) k,
    roReg (a + 4) 1 (g fun x => x.state.code),
    roReg (a + 5) 1 (g Queue.cause),
    roReg (a + 6) 2 (g fun x => x.backlog.length),
    roReg (a + 8) 4 (g Queue.sqHead),
    roReg (a + 12) 2 (g Queue.devq) ]

/-! ## MSI-X (R363, R364) -/

/-- One vector of the MSI-X table. -/
def vecRegs (fn tab i : Nat) : List BarReg :=
  let set (f : Vec → Vec) (d : Dev) : Dev := d.onFn fn fun x => { x with vecs := Tab.put x.vecs i (f (x.vec i)) }
  [ rwReg (tab + 16 * i) 8 (ones 64) (fun d => ((d.fn fn).vec i).addr.toNat) fun x => set fun y => { y with addr := BitVec.ofNat 64 x },
    rwReg (tab + 16 * i + 8) 4 (ones 32) (fun d => ((d.fn fn).vec i).data.toNat) fun x => set fun y => { y with data := BitVec.ofNat 32 x },
    rwReg (tab + 16 * i + 12) 4 1 (fun d => if ((d.fn fn).vec i).mask then 1 else 0) fun x d =>
      releaseVecs fn (set (fun y => { y with mask := bitAt x 0 }) d) ]

/-- The moderation register of a vector. Held events whose count or time limit the new value has reached go out. -/
def modReg (fn base i : Nat) : BarReg :=
  rwReg (base + 8 * i) 8 (ones 32) (fun d => ((d.fn fn).vec i).mod.toNat) fun x d =>
    let d := d.onFn fn fun f => { f with vecs := Tab.put f.vecs i { f.vec i with mod := BitVec.ofNat 64 x } }
    let held := ((d.fn fn).vec i).held
    if held = 0 then d
    else if bits x 31 16 = 0 || bits x 15 0 ≤ held then sendMsix fn i d else d

/-- The pending bits of a function. -/
def Fn.pba (x : Fn) : Nat := (List.range 64).foldl (fun a i => if (x.vec i).pend then a + 2 ^ i else a) 0

/-! ## Firmware load and power (Tables 16-3, 18-2) -/

/-- The load registers. `SEC_FW_ADDR` takes only a multiple of 4,096 (R3). -/
def loadRegs : List BarReg :=
  [ rwReg 0x21000 8 (ones 64) (fun d => d.fw.addr.toNat) fun x d =>
      if x % 4096 = 0 then { d with fw := { d.fw with addr := BitVec.ofNat 64 x } } else d,
    rwReg 0x21008 8 (ones 64) (fun d => d.fw.len.toNat) fun x d => { d with fw := { d.fw with len := BitVec.ofNat 64 x } },
    woReg 0x21010 4 fun x k => k.on (doLoad x),
    roReg 0x21014 4 fun d => d.fw.state + 256 * d.fw.reason ]

/-- A field of the pending copy of the power bounds. -/
def boundReg (off width rw : Nat) (g : Bounds → Nat) (p : Nat → Bounds → Bounds) : BarReg :=
  rwReg off width rw (fun d => g d.pwr.pend) fun x d => { d with pwr := { d.pwr with pend := p x d.pwr.pend } }

/-- The power registers: the pending copies, APPLY, the status and the counts. -/
def powerRegs : List BarReg :=
  [ boundReg 0x22000 4 (ones 32) (fun b => b.cap.toNat) (fun x b => { b with cap := BitVec.ofNat 32 x }),
    boundReg 0x22004 2 (ones 16) (fun b => b.floorCmp.toNat) (fun x b => { b with floorCmp := BitVec.ofNat 16 x }),
    boundReg 0x22006 2 (ones 16) (fun b => b.ceilCmp.toNat) (fun x b => { b with ceilCmp := BitVec.ofNat 16 x }),
    boundReg 0x22008 2 (ones 16) (fun b => b.floorMem.toNat) (fun x b => { b with floorMem := BitVec.ofNat 16 x }),
    boundReg 0x2200A 2 (ones 16) (fun b => b.ceilMem.toNat) (fun x b => { b with ceilMem := BitVec.ofNat 16 x }),
    boundReg 0x2200C 2 (ones 16) (fun b => b.floorLnk.toNat) (fun x b => { b with floorLnk := BitVec.ofNat 16 x }),
    boundReg 0x2200E 2 (ones 16) (fun b => b.ceilLnk.toNat) (fun x b => { b with ceilLnk := BitVec.ofNat 16 x }),
    boundReg 0x22010 2 (ones 16) (fun b => b.fmax.toNat) (fun x b => { b with fmax := BitVec.ofNat 16 x }),
    boundReg 0x22012 1 7 (fun b => b.idle.toNat) (fun x b => { b with idle := BitVec.ofNat 8 x }),
    woReg 0x22014 4 fun x k => k.on fun d => if bitAt x 0 then submitBounds d else d,
    w1cReg 0x22018 4 32 (fun d => d.pwrStatus.toNat) (fun x d => { d with pwr := { d.pwr with refused := bitAt x 5 } }),
    roReg 0x22020 8 Dev.overrideSeconds ] ++
  (List.range 4).map (fun i => roReg (0x22028 + 4 * i) 4 fun d => Tab.getD d.pwr.msEst i 0) ++
  [ roReg 0x22038 8 fun d => d.pwr.energy.toNat ]

/-! ## The ring windows (Table 16-6) -/

/-- The request slots, response slots and event ring of a function, from three offsets. A request slot stores every byte
written but those reserved, at 0x14 (Table 16-8). -/
def ringWindows (fn req resp ev off n : Nat) : List BarReg :=
  (touched req 256 32 off n).map (fun i =>
    rwReg (req + 256 * i) 256 (ones 2048 ^^^ (ones 32 * 2 ^ 160)) (fun d => leNat ((d.fn fn).reqSlot i)) fun x d =>
      d.onFn fn fun f => { f with reqSlots := Tab.put f.reqSlots i (natLe 256 x) }) ++
  (touched resp 64 32 off n).map (fun i => roReg (resp + 64 * i) 64 fun d => leNat (Tab.getD (d.fn fn).respSlots i [])) ++
  (touched ev 64 256 off n).map (fun i => roReg (ev + 64 * i) 64 fun d => leNat (Tab.getD (d.fn fn).evRing i []))

/-! ## Whole functions -/

/-- The registers of a virtual function that an access of n bytes may touch, in ascending order; the doorbells stand apart. -/
def vfRegs (v off n : Nat) : List BarReg :=
  let at_ (base size : Nat) (l : List BarReg) : List BarReg := if off < base + size && base < off + n then l else []
  at_ 0 0x100 (idRegs v) ++ at_ 0x100 0x20 (ringRegs v) ++ at_ 0x800 0x50 (xltRegs v) ++
    at_ 0x1000 0x80 (mbxRegs 0x1000 (.toMgr (asVDev v)) true) ++ at_ 0x1080 0x80 (mbxRegs 0x1080 (.fromMgr (asVDev v)) false) ++
    (touched 0x3000 16 256 off n).flatMap (queueRegs v) ++ (touched 0x4000 16 64 off n).flatMap (vecRegs v 0x4000) ++
    (touched 0x5000 8 64 off n).map (modReg v 0x5000) ++ [roReg 0x6000 8 fun d => (d.fn v).pba] ++
    ringWindows v 0x8000 0xA000 0xC000 off n

/-- The registers of the manager function that an access of n bytes may touch, in ascending order (Table 14-1). -/
def mgrRegs (off n : Nat) : List BarReg :=
  let at_ (base size : Nat) (l : List BarReg) : List BarReg := if off < base + size && base < off + n then l else []
  at_ 0 0x100 (idRegs mgr) ++ at_ 0x100 0x20 (ringRegs mgr) ++
    (touched 0x10000 128 256 off n).flatMap (fun v => mbxRegs (0x10000 + 128 * v) (.toMgr (asVDev v)) false) ++
    (touched 0x18000 128 256 off n).flatMap (fun v => mbxRegs (0x18000 + 128 * v) (.fromMgr (asVDev v)) true) ++
    at_ 0x20000 0x80 (mbxRegs 0x20000 .notice false) ++
    at_ 0x20100 0x40 [ roReg 0x20100 32 fun d => channelMap fun v => (d.mbxSeen (.toMgr (asVDev v))).go,
      roReg 0x20120 32 fun d => channelMap fun v => !(d.mbxSeen (.fromMgr (asVDev v))).go ] ++
    at_ 0x21000 0x18 loadRegs ++ at_ 0x22000 0x40 powerRegs ++
    (touched 0x30000 16 64 off n).flatMap (vecRegs mgr 0x30000) ++ [roReg 0x31000 8 fun d => (d.fn mgr).pba] ++
    (touched 0x32000 8 64 off n).map (modReg mgr 0x32000) ++ ringWindows mgr 0x40000 0x42000 0x44000 off n

/-- The registers of a function that an access may touch. -/
def barRegs (fn off n : Nat) : List BarReg := if fn = mgr then mgrRegs off n else vfRegs fn off n

/-- One byte of BAR0 as it reads: 0 where no register lies (R261), in a WO field and in the doorbell array (Table 0-5). -/
def Dev.barByte (d : Dev) (fn off : Nat) : Byte :=
  match (barRegs fn off 1).find? fun r => r.off ≤ off && off < r.off + r.width with
  | some r => BitVec.ofNat 8 (r.get d / 256 ^ (off - r.off))
  | none => 0

/-- A read of BAR0 returns the bytes requested (R524). -/
def Dev.barRead (d : Dev) (fn off n : Nat) : List Byte := (List.range n).map fun i => d.barByte fn (off + i)

/-- What the configuration space of a physical function presents (R348, R349): TotalVFs of its SR-IOV capability, whether a DOE
mailbox serves SPDM and IDE_KM, its bytes of BAR0, and, in CXL mode, the CXL DVSEC of R230. -/
structure PfConfig where
  totalVfs : Nat
  doe : Bool
  bar0 : Nat
  dvsec : Option (Bool × Bool × Nat)
  deriving DecidableEq, Repr

/-- The configuration space of the physical function of a host port: the manager function on HP0, else a carrier function (R349). -/
def Dev.pfConfig (d : Dev) (p : HPort) : PfConfig :=
  ⟨Sys2Proof.Machine.totalVfs, true, 2 ^ 20, if (d.link p.val).cxl then some cxlDvsec else none⟩

/-- A read of any function's BAR0 (R524): that of a carrier function is 1 MiB of zeros (R349). -/
def Dev.pfRead (d : Dev) (fn : BarFn) (off n : Nat) : List Byte :=
  match fn with
  | .fn f => d.barRead f.val off n
  | .carrier _ => List.replicate n 0

/-- A write of a function's BAR0 (R524): each register the write overlaps, in ascending offset order; doorbells follow R266. -/
def doBarWrite (fn : FnId) (off : BarAt) (bs : List Byte) (k : Wk) : Wk :=
  if !k.dev.barTakes fn.val off.ide then k
  else
    let rs := barRegs fn.val off.off bs.length
    let k := (rs.filter fun r => fn.val == mgr || r.off < 0x2000).foldl (fun k r => r.write off.off bs k) k
    if fn.val = mgr then k
    else (rs.filter fun r => !(r.off < 0x2000)).foldl (fun k r => r.write off.off bs k) (doDoorbell (asVDev fn.val) off.off bs k)

/-- REGISTER_WRITE (R524): the BAR0 of a carrier function ignores it (R349). -/
def doRegisterWrite (fn : BarFn) (off : BarAt) (bs : List Byte) (k : Wk) : Wk :=
  match fn with
  | .fn f => doBarWrite f off bs k
  | .carrier _ => k

/-- REGISTER_WRITE. -/
def execRegisterWrite (fn : BarFn) (off : BarAt) (bs : List Byte) (s : State) : Out := runMem (doRegisterWrite fn off bs) s

end Sys2Proof.Machine
end

