-- ==== Sys2Proof/Machine/KernelSync.lean ====
section
/-! DEFINITION. Ordering in core code: ordered atomics and the allocator (R177 … R182), barriers (R165, R167), the tensor
mover and peer transfers (R148, R149, R168), the end of threads. -/

namespace Sys2Proof.Machine

open Sys2Proof

/-! ## Ordered operations (R177, R178) -/

/-- An order key: (h, c, g, b, t, s). -/
abbrev Key := List Nat

/-- Keys compare field by field (R178). -/
def ordLt : Key → Key → Bool
  | a :: as, b :: bs => decide (a < b) || (a == b && ordLt as bs)
  | _, _ => false

/-- The key of an ordered request. -/
def OrdReq.key (o : OrdReq) : Key := [o.h, o.c, o.g, o.b, o.t, o.s]

/-- The smallest key a thread could still issue (R178): in its interval, or in the next one when it waits at a barrier or has
executed `ordrel` for this one. -/
def nextKey (k : Cmd) (g : Nat) (x : KGroup) (lane : Nat) : Key :=
  let h := k.cohortOf g
  if x.atCohort.getLsbD lane then [h, x.c + 1, g, 0, lane, 0]
  else if x.atGroup.getLsbD lane || x.beyond.getLsbD lane then [h, x.c, g, x.b + 1, lane, 0]
  else [h, x.c, g, x.b, lane, Tab.getD x.seqs lane 0]

/-- A thread is beyond a key: it has ended, or can issue no smaller key. -/
def beyondKey (k : Cmd) (g : Nat) (x : KGroup) (key : Key) (lane : Nat) : Bool :=
  x.ended.getLsbD lane || !ordLt (nextKey k g x lane) key

/-- An ordered operation may be performed: every thread that could still issue a smaller key is beyond it. -/
def turnReady (k : Cmd) (r : KRun) (o : OrdReq) : Bool :=
  r.groups.all fun (g, x) => (List.range 32).all (beyondKey k g x o.key)

/-- The pending operation of smallest key. -/
def leastOrd : List OrdReq → Option OrdReq
  | [] => none
  | o :: t =>
    match leastOrd t with
    | none => some o
    | some p => if ordLt o.key p.key then some o else some p

/-- A lane issues an ordered operation under its key, and waits for its result (R178). -/
def issueOrdered (n g lane rd : Nat) (regs : List Nat) (anyLaunch : Bool) (op : KAt → OrdOp × FlagWord) (w : Wk) : Wk :=
  match w.dev.at? n g with
  | none => w
  | some a =>
    match activeLanes w.dev a g (laneBit lane) regs with
    | none => w
    | some _ =>
      if !anyLaunch && !klOrdered a.cmd.params then w
      else
        let (o, f) := op a
        let s := Tab.getD a.grp.seqs lane 0
        let q : OrdReq := ⟨a.cmd.cohortOf g, a.grp.c, g, a.grp.b, lane, s, rd, o⟩
        let r := a.run.onG g fun x => { x with seqs := Tab.put x.seqs lane (s + 1) }.addFlags lane f
        let r := { r with ordered := r.ordered ++ [q] }
        let width (wide : Bool) : Nat := if wide then 8 else 4
        let acc (core wide : Bool) (addr : Nat) : List (Nat × Loc × AccKind × Byte) :=
          if core then csAccess g lane addr (.atomic 0) (List.replicate (width wide) 0)
          else globAccess lane addr (.atomic 0) (List.replicate (width wide) 0)
        let l := match o with
          | .cas core wide addr _ _ => acc core wide addr
          | .swap core wide addr _ => acc core wide addr
          | .fetch core wide _ addr _ => acc core wide addr
          | _ => []
        let (r, race) := watchInstr a g l r
        putRun a.no r race w

/-- Registers of an address: one for a core-store offset, a pair for a virtual address. -/
def addrRegs (core : Bool) (ra : Nat) : List Nat := if core then [ra] else [ra, ra + 1]

/-- Registers of a 32- or 64-bit value. -/
def wideRegs (wide : Bool) (r : Nat) : List Nat := if wide then [r, r + 1] else [r]

/-- The aligned address of an ordered atomic of a lane (R164, R174). -/
def ordAddr (a : KAt) (lane : Nat) (core wide : Bool) (ra : Nat) : Nat × FlagWord :=
  let (o, f) := alignDown (if core then (a.grp.reg lane ra).toNat else (a.grp.pair lane ra).toNat) (if wide then 8 else 4)
  (o, f ||| fIf (core && decide (a.cmd.ws ≤ o)) fInvalid)

/-- A 32- or 64-bit operand of a lane. -/
def wideVal (a : KAt) (lane r : Nat) (wide : Bool) : BitVec 64 := BitVec.ofNat 64 (a.grp.operand lane r (if wide then 64 else 32))

/-- COMPARE_AND_SWAP (R177). -/
def execCompareAndSwap (n : CoreAt) (g : Nat) (lane : Fin 32) (wide core : Bool) (rd ra re rs : Nat) (s : State) : Out :=
  coreStep n g (issueOrdered n.core.val g lane.val rd (wideRegs wide rd ++ addrRegs core ra ++ wideRegs wide re ++ wideRegs wide rs) false fun a =>
    let (o, f) := ordAddr a lane.val core wide ra
    (.cas core wide o (wideVal a lane.val re wide) (wideVal a lane.val rs wide), f)) s

/-- EXCHANGE (R177). -/
def execExchange (n : CoreAt) (g : Nat) (lane : Fin 32) (wide core : Bool) (rd ra rs : Nat) (s : State) : Out :=
  coreStep n g (issueOrdered n.core.val g lane.val rd (wideRegs wide rd ++ addrRegs core ra ++ wideRegs wide rs) false fun a =>
    let (o, f) := ordAddr a lane.val core wide ra
    (.swap core wide o (wideVal a lane.val rs wide), f)) s

/-- FETCH_ATOMIC (R177). -/
def execFetchAtomic (n : CoreAt) (g : Nat) (lane : Fin 32) (op : IntAtomic) (wide core : Bool) (rd ra rs : Nat) (s : State) : Out :=
  coreStep n g (issueOrdered n.core.val g lane.val rd (wideRegs wide rd ++ addrRegs core ra ++ wideRegs wide rs) false fun a =>
    let (o, f) := ordAddr a lane.val core wide ra
    (.fetch core wide op o (wideVal a lane.val rs wide), f)) s

/-- DALLOC (R180, R182): a request for a size in bytes. Without a heap the lane receives 0 and INVALID. -/
def execDalloc (n : CoreAt) (g : Nat) (lane : Fin 32) (rd rs : Nat) (s : State) : Out :=
  coreStep n g (fun w =>
    match w.dev.at? n.core.val g with
    | none => w
    | some a =>
      if klHeap a.cmd.params = 0 then
        w.on (laneInstr n.core.val g (laneBit lane.val) [rd, rd + 1, rs, rs + 1] rd fun _ _ => (regWords 64 0, fInvalid))
      else issueOrdered n.core.val g lane.val rd [rd, rd + 1, rs, rs + 1] true (fun a => (.alloc (a.grp.pair lane.val rs).toNat, 0)) w) s

/-- DFREE (R180, R182): a block is returned. Without a heap it has no effect but INVALID. -/
def execDfree (n : CoreAt) (g : Nat) (lane : Fin 32) (ra rs : Nat) (s : State) : Out :=
  coreStep n g (fun w =>
    match w.dev.at? n.core.val g with
    | none => w
    | some a =>
      if klHeap a.cmd.params = 0 then
        w.on (laneInstr n.core.val g (laneBit lane.val) [ra, ra + 1, rs, rs + 1] ra fun _ _ => ([], fInvalid))
      else issueOrdered n.core.val g lane.val 256 [ra, ra + 1, rs, rs + 1] true
        (fun a => (.free (a.grp.pair lane.val ra).toNat (a.grp.pair lane.val rs).toNat, 0)) w) s

/-- ORDREL (R178): the active threads are beyond every key of their current interval. -/
def execOrdrel (n : CoreAt) (g : Nat) (mask : BitVec 32) (s : State) : Out :=
  coreStep n g (fun w => w.on fun d =>
    match d.at? n.core.val g with
    | none => d
    | some a =>
      match activeLanes d a g mask [] with
      | none => d
      | some ls => d.setRun a.no (a.run.onG g fun x => { x with beyond := ls.foldl (fun m l => m ||| laneBit l) x.beyond })) s

/-! ## The allocator (R180 … R182) -/

/-- The first granule of the heap of a launch. -/
def heapBlocks (heap n : Nat) : Nat := heap + 64 + 64 * ceilDiv n 512

/-- Whether granules i … i + n − 1 all have a given mark. -/
def granules (bm : List Byte) (i n : Nat) (mark : Bool) : Bool :=
  (List.range n).all fun k => bitAt (bm.getD ((i + k) / 8) 0).toNat ((i + k) % 8) == mark

/-- Mark granules i … i + n − 1. -/
def markGranules (bm : List Byte) (i n : Nat) (mark : Bool) : List Byte :=
  bm.zipIdx.map fun (b, j) =>
    BitVec.ofNat 8 (((List.range 8).map fun k =>
      let one := if decide (i ≤ 8 * j + k) && decide (8 * j + k < i + n) then mark else bitAt b.toNat k
      if one then 2 ^ k else 0).foldl (· + ·) 0)

/-- `dalloc` on a bitmap of N granules: the address or 0, and the bitmap (R182). -/
def heapAlloc (blocks total size : Nat) (bm : List Byte) : Nat × List Byte :=
  if size = 0 then (0, bm)
  else
    let n := ceilDiv size 64
    match (List.range (total + 1 - n)).find? fun i => decide (i + n ≤ total) && granules bm i n false with
    | none => (0, bm)
    | some i => (blocks + 64 * i, markGranules bm i n true)

/-- `dfree` on a bitmap of N granules: whether INVALID is set, and the bitmap (R182). -/
def heapFree (blocks total addr size : Nat) (bm : List Byte) : Bool × List Byte :=
  if size = 0 then (false, bm)
  else
    let n := ceilDiv size 64
    let i := (addr - blocks) / 64
    if addr < blocks || (addr - blocks) % 64 != 0 || total < i + n || !granules bm i n true then (true, bm)
    else (false, markGranules bm i n false)

/-! ## ORDERED_TURN -/

/-- What an ordered atomic leaves and returns, on the old value. -/
def ordResult (op : OrdOp) (old : Nat) : Nat :=
  match op with
  | .cas _ wide _ e v => let k := if wide then 64 else 32; if old = e.toNat % 2 ^ k then v.toNat % 2 ^ k else old
  | .swap _ wide _ v => v.toNat % 2 ^ (if wide then 64 else 32)
  | .fetch _ wide f _ v => let k := if wide then 64 else 32; intAtomic f k old (v.toNat % 2 ^ k)
  | _ => old

/-- An ordered operation is over: it leaves the queue, and its lane's registers and flags are written. -/
def endOrdered (no : Nat) (o : OrdReq) (ws : List (BitVec 32)) (f : FlagWord) (d : Dev) : Dev :=
  match Tab.get? d.kern no with
  | none => d
  | some r =>
    let r := { r with ordered := r.ordered.filter fun p => p.key != o.key }
    settleGroup no o.g (d.setRun no (r.onG o.g fun x => (KGroup.setRegs o.t o.rd ws x).addFlags o.t f))

/-- An ordered atomic on a core-store location of the issuing group. -/
def ordCore (no : Nat) (c : Cmd) (o : OrdReq) (wide : Bool) (addr : Nat) (d : Dev) : Dev :=
  match (Tab.get? d.kern no).bind fun r => (Tab.get? r.groups o.g).map fun x => (r, x) with
  | none => d
  | some (r, x) =>
    let n := if wide then 8 else 4
    let old := leNat (x.bytes c.ws addr n)
    let bs := natLe n (ordResult o.op old)
    let put (x : KGroup) : KGroup :=
      if addr < c.ws then storeBytes (threadNo o.g o.t) addr bs x else x
    endOrdered no o (regWords (8 * n) old) 0 (d.setRun no (r.onG o.g put))

/-- The core of the group that issued an ordered operation. -/
def ordHome (d : Dev) (no : Nat) (o : OrdReq) : Nat := (((Tab.get? d.kern no).bind fun r => Tab.get? r.groups o.g).map KGroup.core).getD 0

/-- An access for an ordered operation that does not proceed waits, its group with it, or fails the command. -/
def ordStop (v q : Nat) (c : Cmd) (n : Nat) (e : Acc) (w : Wk) : Wk :=
  match w.dev.queue? v q with
  | none => w
  | some x => stopAt (.core n) (.group v q c.no n) v q x c (.acc 8 e) w

/-- An ordered atomic on a global location, after the accesses to it that its thread made before (R165 link 1). -/
def ordGlobal (v q no : Nat) (c : Cmd) (o : OrdReq) (wide : Bool) (addr : Nat) (w : Wk) : Wk :=
  match w.dev.queue? v q with
  | none => w
  | some x =>
    let n := if wide then 8 else 4
    let k := ordHome w.dev no o
    let earlier := w.dev.mc.reqs.any fun r => r.cmd == no && rangesMeet (r.va, r.bytes) (addr, n) && match r.dest with
      | .load g l _ _ => g == o.g && l == o.t
      | .store g l => g == o.g && l == o.t
      | .none => false
    if earlier then w else
    match readAs (.core k) w v needRW addr n with
    | .error e => ordStop v q c k e w
    | .ok old =>
      match writeAs (.core k) v addr (natLe n (ordResult o.op (leNat old))) (jkey x c) (w.on fun d => wroteFor c.context (.core k) v [(addr, n)] (readFor c.context (.core k) v needRW [(addr, n)] d)) with
      | (w, some e) => ordStop v q c k e w
      | (w, none) => w.on (endOrdered no o (regWords (8 * n) (leNat old)) 0)

/-- The accesses of an allocator request to the heap, as watched accesses of the requesting thread (R172): ordered with every
other ordered operation. -/
def watchHeap (no : Nat) (c : Cmd) (o : OrdReq) (heap n : Nat) (w : Wk) : Wk :=
  match Tab.get? w.dev.kern no with
  | none => w
  | some r =>
    let acc := (List.range n).map fun i => (⟨r.nextAcc, .glob (heap + i), .atomic 0, 0, o.g, o.t, o.c, o.b, none, none⟩ : WAcc)
    let (r, race) := watchAll c acc r
    if klWatch c.params then putRun no { r with nextAcc := r.nextAcc + 1 } race w else w

/-- An allocator request is served against the heap (R180, R182). -/
def ordHeap (v q no : Nat) (c : Cmd) (o : OrdReq) (serve : Nat → Nat → List Byte → List (BitVec 32) × FlagWord × List Byte)
    (w : Wk) : Wk :=
  match w.dev.queue? v q with
  | none => w
  | some x =>
    let heap := klHeap c.params
    let k := ordHome w.dev no o
    match readAs (.core k) w v needRW (heap + 8) 8 with
    | .error e => ordStop v q c k e w
    | .ok nb =>
      let n := leNat nb
      match readAs (.core k) w v needRW (heap + 64) (ceilDiv n 8) with
      | .error e => ordStop v q c k e w
      | .ok bm =>
        let (ws, f, bm') := serve (heapBlocks heap n) n bm
        match writeAs (.core k) v (heap + 64) bm' (jkey x c) (w.on fun d =>
            wroteFor c.context (.core k) v [(heap + 64, ceilDiv n 8)]
              (readFor c.context (.core k) v needRW [(heap + 8, 8), (heap + 64, ceilDiv n 8)] d)) with
        | (w, some e) => ordStop v q c k e w
        | (w, none) => watchHeap no c o heap (16 + 48 + ceilDiv n 8) (w.on (endOrdered no o ws f))

/-- ORDERED_TURN (R178): the pending ordered operation or allocator request of smallest key is performed, once every
thread that could issue a smaller key is beyond it. -/
def doOrderedTurn (v q : Nat) (w : Wk) : Wk :=
  match w.dev.cur? v q with
  | none => w
  | some c =>
    match Tab.get? w.dev.kern c.no with
    | none => w
    | some r =>
      match leastOrd r.ordered with
      | none => w
      | some o =>
        if c.phase != .running || r.stopped || !turnReady c r o then w
        else match o.op with
          | .cas core wide addr _ _ => if core then w.on (ordCore c.no c o wide addr) else ordGlobal v q c.no c o wide addr w
          | .swap core wide addr _ => if core then w.on (ordCore c.no c o wide addr) else ordGlobal v q c.no c o wide addr w
          | .fetch core wide _ addr _ => if core then w.on (ordCore c.no c o wide addr) else ordGlobal v q c.no c o wide addr w
          | .alloc size => ordHeap v q c.no c o (fun b n bm =>
              let (a, bm) := heapAlloc b n size bm
              (regWords 64 a, 0, bm)) w
          | .free addr size => ordHeap v q c.no c o (fun b n bm =>
              let (bad, bm) := heapFree b n addr size bm
              ([], fIf bad fInvalid, bm)) w

/-- ORDERED_TURN. -/
def execOrderedTurn (v : VDev) (q : QId) (s : State) : Out := runMem (doOrderedTurn v.val q.val) s

/-! ## Barriers (R167) -/

/-- GROUP_BARRIER (R167): a thread reaches a group barrier and waits. -/
def execGroupBarrier (n : CoreAt) (g : Nat) (lane : Fin 32) (s : State) : Out :=
  coreStep n g (fun w => w.on fun d =>
    match d.at? n.core.val g with
    | none => d
    | some a => match activeLanes d a g (laneBit lane.val) [] with
      | none => d
      | some _ => d.setRun a.no (a.run.onG g fun x => { x with atGroup := x.atGroup ||| laneBit lane.val })) s

/-- COHORT_BARRIER (R167): a thread reaches a cohort barrier and waits. -/
def execCohortBarrier (n : CoreAt) (g : Nat) (lane : Fin 32) (s : State) : Out :=
  coreStep n g (fun w => w.on fun d =>
    match d.at? n.core.val g with
    | none => d
    | some a => match activeLanes d a g (laneBit lane.val) [] with
      | none => d
      | some _ => d.setRun a.no (a.run.onG g fun x => { x with atCohort := x.atCohort ||| laneBit lane.val })) s

/-- A group passes a barrier. -/
def passBarrier (cohort : Bool) (x : KGroup) : KGroup :=
  { x with
    c := if cohort then x.c + 1 else x.c
    b := if cohort then 0 else x.b + 1
    atGroup := if cohort then x.atGroup else 0
    atCohort := if cohort then 0 else x.atCohort
    beyond := 0
    seqs := [] }

/-- Every thread of a group has arrived at a barrier or ended. -/
def arrivedAll (x : KGroup) (cohort : Bool) : Bool := ((if cohort then x.atCohort else x.atGroup) ||| x.ended) == BitVec.allOnes 32

/-- BARRIER_RELEASE (R167): all threads have arrived or ended and everything the barrier orders has been performed. -/
def execBarrierRelease (n : CoreId) (g : Nat) (cohort : Bool) (s : State) : Out :=
  runDev (fun _ d =>
    match d.at? n.val g with
    | none => d
    | some a =>
      let gs := if cohort then a.run.cohort a.cmd (a.cmd.cohortOf g) else [(g, a.grp)]
      let waits := gs.any fun x => (if cohort then x.2.atCohort else x.2.atGroup) != 0
      if waits && gs.all (fun x => arrivedAll x.2 cohort && !outstanding d a.no a.run x.1) then
        d.setRun a.no (gs.foldl (fun r x => r.onG x.1 (passBarrier cohort)) a.run)
      else d) s

/-! ## The tensor mover (R148, R149, R168) -/

/-- Transfers a group may have in flight (R149). -/
def moverRoom : Nat := 16

/-- A group issues a transfer; it waits while 16 are in flight. The issuing thread is the lowest active one, and the transfer's
flags go to it (R139). -/
def issueMover (n g : Nat) (mask : BitVec 32) (arg : MoverArg) (peer : KAt → Option (Nat × Nat × Nat × Nat) × FlagWord) (d : Dev) : Dev :=
  match d.at? n g with
  | none => d
  | some a =>
    match activeLanes d a g mask [] with
    | none => d
    | some ls =>
      if moverRoom ≤ a.grp.movers.length then d
      else
        let lane := ls.headD 0
        if a.run.ordered.any fun o => o.g == g && o.t == lane && o.op.place?.isSome then d else
        let (p, f) := peer a
        let t : MoverT := ⟨d.mc.nextId, lane, arg, p, a.grp.c, a.grp.b, a.run.nextAcc, false⟩
        let r := a.run.onG g fun x => { x with movers := x.movers ++ [t] }.addFlags lane f
        (d.onMc fun m => { m with nextId := m.nextId + 1 }).setRun a.no { r with nextAcc := r.nextAcc + 1 }

/-- MOVER_TRANSFER (R148): a transfer of up to five axes is issued. -/
def execMoverTransfer (n : CoreAt) (g : Nat) (mask : BitVec 32) (x : MoverArg) (s : State) : Out :=
  coreStep n g (fun w => w.on fun d => if 5 < x.axes.length then d else issueMover n.core.val g mask x (fun _ => (none, 0)) d) s

/-- Groups of the cohort of a group. -/
def cohortSize (c : Cmd) (g : Nat) : Nat :=
  let size := max 1 (klCohort c.params)
  min size (klGroups c.params - c.cohortOf g * size)

/-- PEER_TRANSFER (R168): a transfer to the peer-receive area of a group of the same cohort. One that names no such group
or runs beyond the area writes nothing and sets INVALID. -/
def execPeerTransfer (n : CoreAt) (g : Nat) (mask : BitVec 32) (src dstGroup off len : Nat) (s : State) : Out :=
  coreStep n g (fun w => w.on fun d => issueMover n.core.val g mask ⟨false, 0, src, []⟩ (fun a =>
    let area := klPeer a.cmd.params
    let ok := decide (dstGroup < cohortSize a.cmd g) && decide (off + len ≤ area)
    let dst := a.cmd.cohortOf g * max 1 (klCohort a.cmd.params) + dstGroup
    if ok then (some (src, dst, a.cmd.ws - area + off, len), 0) else (some (src, dst, 0, 0), fInvalid)) d) s

/-- A transfer in flight of any group, by its number. -/
def findMover (d : Dev) (id : Nat) : Option (Nat × KRun × Nat × KGroup × MoverT) :=
  d.kern.findSome? fun (no, r) => r.groups.findSome? fun (g, x) => (x.movers.find? fun t => t.id == id).map fun t => (no, r, g, x, t)

/-- Change a transfer. -/
def KGroup.onMover (id : Nat) (f : MoverT → MoverT) (x : KGroup) : KGroup :=
  { x with movers := x.movers.map fun t => if t.id == id then f t else t }

/-- Accesses of a transfer, at the place and interval of its issue. -/
def moverAccess (g : Nat) (t : MoverT) (peerTo : Option Nat) (loc : Loc) (k : AccKind) (b : Byte) : WAcc :=
  ⟨t.at_, loc, k, b, g, t.lane, t.c, t.b, some t.id, peerTo⟩

/-- PEER_WRITE (R168): the bytes of a peer transfer reach the receiving group's window. -/
def doPeerWrite (id : Nat) (w : Wk) : Wk :=
  match findMover w.dev id with
  | none => w
  | some (no, r, g, x, t) =>
    match t.peer, w.dev.cur? r.vdev r.queue with
    | some (src, dst, off, len), some c =>
      match Tab.get? r.groups dst with
      | none => w
      | some y =>
        if t.landed || r.stopped || c.no ≠ no then w
        else
          let bs := x.bytes c.ws src len
          let (y, race) := bs.zipIdx.foldl (fun (acc : KGroup × Option Race) (b, i) =>
            let (z, e) := peerByte (threadNo g t.lane) (off + i) b acc.1
            (z, firstRace acc.2 e)) (y, none)
          let r := { r with groups := Tab.put r.groups dst y }
          let r := r.onG g fun x => (x.onMover id fun t => { t with landed := true }).addFlags t.lane
            (fIf (decide (c.ws < src + len) && decide (0 < len)) fInvalid)
          let acc := bs.zipIdx.flatMap fun (b, i) =>
            (if src + i < c.ws then [moverAccess g t (some dst) (.store g (src + i)) .load b] else []) ++
              [moverAccess g t (some dst) (.store dst (off + i)) .store b]
          let (r, race') := watchAll c acc r
          putRun no r (firstRace race race') w
    | _, _ => w

/-- PEER_WRITE. -/
def execPeerWrite (id : Nat) (s : State) : Out := runMem (doPeerWrite id) s

/-- The pairs of a transfer: memory address and core-store offset of each byte. -/
def moverPairs (x : MoverArg) : List (Int × Int) :=
  let axis (l : List (Int × Int)) (y : Nat × Int × Int) : List (Int × Int) :=
    l.flatMap fun p => (List.range y.1).map fun (i : Nat) => (p.1 + (i : Int) * y.2.1, p.2 + (i : Int) * y.2.2)
  x.axes.foldl axis [((x.va.toNat : Int), (x.off : Int))]

/-- A virtual address modulo 2^64. -/
def addr64 (i : Int) : Nat := (i % ((2 ^ 64 : Nat) : Int)).toNat

/-- A core-store offset within a window, if it lies in one. -/
def inWindow (ws : Nat) (i : Int) : Option Nat := if 0 ≤ i && i < (ws : Int) then some i.toNat else none

/-- Read single bytes of memory for a transfer. -/
def readEach (g : XEng) (w : Wk) (v : Nat) : List Nat → Except Acc (List Byte)
  | [] => .ok []
  | a :: t =>
    match readAs g w v needR a 1 with
    | .error e => .error e
    | .ok bs => (readEach g w v t).map fun r => bs ++ r

/-- A transfer into core store lands whole (R148). -/
def moverIn (v q : Nat) (qx : Queue) (no : Nat) (r : KRun) (c : Cmd) (g : Nat) (t : MoverT) (w : Wk) : Wk × Bool :=
  let ps := moverPairs t.arg
  let n := ((Tab.get? r.groups g).map KGroup.core).getD 0
  match readEach (.mover n) w v (ps.map fun p => addr64 p.1) with
  | .error e => (stopAt (.mover n) (.group v q no n) v q qx c (.acc 1 e) w, false)
  | .ok bs =>
    let put := (ps.zip bs).filterMap fun (p, b) => (inWindow c.ws p.2).map fun o => (addr64 p.1, o, b)
    let store (x : KGroup) : KGroup := put.foldl (fun x (_, o, b) => storeByte (threadNo g t.lane) o b x) x
    let r := r.onG g fun x => (store x).addFlags t.lane (fIf (decide (put.length < ps.length)) fInvalid)
    let acc := put.flatMap fun (a, o, b) =>
      [moverAccess g t none (.glob a) .load b, moverAccess g t none (.store g o) .store b]
    let (r, race) := watchAll c acc r
    let lines := ((ps.map fun p => lineOf (addr64 p.1)).eraseDups).map fun a => (a, 1)
    let bytes (d : Dev) : Nat := dieBytes d (.mover n) v needR (ps.map fun p => (addr64 p.1, 1))
    (putRun no r race (w.on fun d => countCore n 7 ps.length (countIo c.context (bytes d) 0 (noteRead (.mover n) v needR lines d))), race.isNone)

/-- A transfer out of core store. -/
def moverOut (v q : Nat) (qx : Queue) (no : Nat) (r : KRun) (c : Cmd) (g : Nat) (x : KGroup) (t : MoverT) (w : Wk) : Wk × Bool :=
  let ps := moverPairs t.arg
  let data := ps.map fun p => (addr64 p.1, match inWindow c.ws p.2 with | some o => x.byte o | none => 0)
  let out := ps.any fun p => (inWindow c.ws p.2).isNone
  let runs := runsOf data
  match badRun (.mover x.core) w.dev v runs with
  | some e => (stopAt (.mover x.core) (.group v q no x.core) v q qx c (.acc 2 e) w, false)
  | none =>
    let w := (writeRuns (.mover x.core) v (jkey qx c) runs w).on (wroteFor c.context (.mover x.core) v (runs.map fun r => (r.1, r.2.length)))
    let r := r.onG g fun x => x.addFlags t.lane (fIf out fInvalid)
    let acc := (ps.zip data).flatMap fun (p, a, b) =>
      (match inWindow c.ws p.2 with | some o => [moverAccess g t none (.store g o) .load b] | none => []) ++
        [moverAccess g t none (.glob a) .store b]
    let (r, race) := watchAll c acc r
    (putRun no r race (w.on (countCore x.core 8 ps.length)), race.isNone)

/-- A transfer is complete: the group's count advances. -/
def finishMover (no g : Nat) (t : MoverT) (d : Dev) : Dev :=
  match Tab.get? d.kern no with
  | none => d
  | some r => settleGroup no g (d.setRun no (r.onG g fun x => { x with
      movers := x.movers.filter fun y => y.id != t.id
      count := x.count + 1
      finished := x.finished ++ [(t.id, t.lane)] }))

/-- Whether a global access that the issuing thread made before a transfer is still on its way: the transfer's reads and writes
come after it (R165 link 4, R166). -/
def moverWaits (d : Dev) (no g : Nat) (t : MoverT) : Bool :=
  d.mc.reqs.any fun m => m.cmd == no && decide (m.id < t.id) && match m.dest with
    | .load g' l _ _ => g' == g && l == t.lane
    | .store g' l => g' == g && l == t.lane
    | .none => false

/-- MOVER_TRANSFER_COMPLETE (R149): every byte of a transfer has landed, and the group's completion count advances. A
transfer to or from memory that meets a fault waits, and so does one whose issuer's earlier accesses are not done. -/
def doMoverComplete (n g id : Nat) (w : Wk) : Wk :=
  match findMover w.dev id with
  | none => w
  | some (no, r, g', x, t) =>
    match w.dev.queue? r.vdev r.queue with
    | none => w
    | some qx =>
      match qx.cur with
      | none => w
      | some c =>
        if g' ≠ g || x.core ≠ n || r.stopped || c.no ≠ no || c.phase != .running || moverWaits w.dev no g t then w
        else match t.peer with
          | some (_, _, _, len) => if t.landed || len = 0 then w.on (finishMover no g t) else w
          | none =>
            let (w, ok) := if t.arg.toStore then moverIn r.vdev r.queue qx no r c g t w
              else moverOut r.vdev r.queue qx no r c g x t w
            if ok then w.on fun d => dropHostBuf r.vdev (finishMover no g t d) else w

/-- MOVER_WAIT (R149, R165): a thread waits until the completion count reaches a number; the transfers it issued that have
completed are seen by it from then on. -/
def execMoverWait (n : CoreAt) (g : Nat) (lane : Fin 32) (count : Nat) (s : State) : Out :=
  coreStep n g (fun w => w.on fun d =>
    match d.at? n.core.val g with
    | none => d
    | some a =>
      match activeLanes d a g (laneBit lane.val) [] with
      | none => d
      | some _ =>
        if a.grp.count < count then d
        else
          let new := (a.grp.finished.filter fun f => f.2 == lane.val && !(a.grp.seen.any fun s => s.id == f.1)).map fun f =>
            (⟨f.1, lane.val, a.grp.c, a.grp.b, a.run.nextAcc⟩ : Seen)
          let r := a.run.onG g fun x => { x with seen := x.seen ++ new }
          d.setRun a.no { r with nextAcc := r.nextAcc + 1 }) s

/-! ## The end of a thread -/

/-- THREAD_END (R167): a thread ends, and counts as arrived at every later barrier of its group and cohort. -/
def execThreadEnd (n : CoreAt) (g : Nat) (lane : Fin 32) (s : State) : Out :=
  coreStep n g (fun w => w.on fun d =>
    match d.at? n.core.val g with
    | none => d
    | some a =>
      match activeLanes d a g (laneBit lane.val) [] with
      | none => d
      | some _ =>
        settleGroup a.no g (d.setRun a.no (a.run.onG g fun x => { x with ended := x.ended ||| laneBit lane.val }))) s

end Sys2Proof.Machine
end

