-- ==== Sys2Proof/Machine/Reads.lean ====
section
/-! DEFINITION. What the reads of engines meet (R146, R219): a parity error in a core's memories during a built-in operation, and a line
of device memory that its home finds bad, for operations, movers, the front end, dispatch, binary loads and digests. -/

namespace Sys2Proof.Machine

open Sys2Proof

/-- A step of an engine whose reads cover spans: one line may meet an error at its home first (R219). -/
def meetRead (e : XEng) (v : Nat) (bad : Option (Nat × ReadFault)) (spans : List (Nat × Nat)) (w : Wk) : Wk :=
  match bad with
  | none => w
  | some (va, f) => if spans.any fun s => rangesMeet s (va, 1) then meetSpan e v [(va, 1)] f w else w

/-- A step of a running built-in operation. A parity error in a memory of one of its cores fails the attempt, which is replayed (R146,
R414); a preload shadow with bad parity is only discarded (R150); a line that its home finds bad is met there (R219). -/
def opStep (k : OpK) (go : Nat → Nat → Wk → Wk) (v : Nat) (q : OpAt) (w : Wk) : Wk :=
  match q.bad, runningOp w.dev v q.q.val k with
  | some (n, m), some (_, c) =>
    if !c.cores.contains n.val then go v q.q.val w
    else match m with
      | .line va f => go v q.q.val (meetRead (.mover n.val) v (some (va, f)) (inputSpans c.block) w)
      | .shadow _ => go v q.q.val (w.on (shadowError n.val))
      | m => replayCmd v q.q.val [n.val] (w.on (parityEvent n.val (coreMemPlace m)))
  | _, _ => go v q.q.val w

/-- The spans that a step about the current command of a queue reads. -/
def curSpans (v q : Nat) (f : Cmd → List (Nat × Nat)) (w : Wk) : List (Nat × Nat) := ((w.dev.cur? v q).map f).getD []

/-- A descriptor and the range list that it names. -/
def descSpans (v addr : Nat) (w : Wk) : List (Nat × Nat) :=
  (addr, 128) :: match readAs (hubEng v) w v needR addr 128 with
    | .ok desc => [(fieldLe desc 0x20 8, 16 * (fieldLe desc 0x28 2 + fieldLe desc 0x2A 2))]
    | .error _ => []

/-- COMMAND_FETCH (R267, R274). -/
def execCommandFetch (v : VDev) (q : QAt) (s : State) : Out :=
  runMem (fun w => doFetch v.val q.q.val (meetRead (hubEng v.val) v.val q.bad (match w.dev.queue? v.val q.q.val with
    | some x => if x.sqHead == x.tail then [] else descSpans v.val (x.sqBase + 128 * x.sqHead) w
    | none => []) w)) s

/-- CHAIN_SUCCESSOR_FETCH (R282). -/
def execChainSuccessorFetch (v : VDev) (q : QAt) (s : State) : Out :=
  runMem (fun w => doChainFetch v.val q.q.val (meetRead (hubEng v.val) v.val q.bad
    (match (w.dev.queue? v.val q.q.val).bind Queue.chainNext with
      | some n => descSpans v.val n.addr w
      | none => []) w)) s

/-- COMMAND_ELIGIBLE (R526). -/
def execCommandEligible (v : VDev) (q : QAt) (s : State) : Out :=
  runMem (fun w => doEligible v.val q.q.val (meetRead (hubEng v.val) v.val q.bad
    (curSpans v.val q.q.val (fun c => if c.phase == .eligible then [(c.param, 4160)] else []) w) w)) s

/-- DISPATCH_HANDOFF (R330); the input digests are read now (R27, R218). -/
def execDispatchHandoff (v : VDev) (q : QAt) (c : Cluster) (s : State) : Out :=
  runMem (fun w => doHandoff v.val q.q.val c.val (meetRead (hubEng v.val) v.val q.bad
    (curSpans v.val q.q.val (fun c => if c.phase == .placed && c.digestFlag then c.ins else []) w) w)) s

/-- BINARY_LOAD (R152 … R154). -/
def execBinaryLoad (v : VDev) (q : QAt) (c : Cluster) (s : State) : Out :=
  runMem (fun w => doBinaryLoad v.val q.q.val c.val (meetRead (.ctl c.val) v.val q.bad
    (curSpans v.val q.q.val (fun c => [(klImage c.params, hdrLen c.hdr)]) w) w)) s

/-- DIGEST_CLOSE (R218). -/
def execDigestClose (v : VDev) (q : QAt) (k : Die) (s : State) : Out :=
  runMem (fun w => doDigestClose v.val q.q.val k.val (meetRead (hubEng v.val) v.val q.bad
    (curSpans v.val q.q.val (fun c => if c.phase == .closing then (outLeaves c).map Prod.snd else []) w) w)) s

/-- MOVER_TRANSFER_COMPLETE (R148): the transfer may meet a bad line at its home. -/
def execMoverTransferComplete (n : CoreAt) (g : Nat) (id : Nat) (s : State) : Out :=
  match n.bad with
  | some (.line va f) => runMem (fun w => match w.dev.at? n.core.val g with
    | none => w
    | some a => doMoverComplete n.core.val g id (meetRead (.mover n.core.val) a.run.vdev (some (va, f)) a.cmd.ins w)) s
  | _ => coreStep n g (doMoverComplete n.core.val g id) s

/-- MIRROR_REBUILD_DONE (R240): the mirror of a virtual device is rebuilt in a new place from the bytes of the master copy, and the walks
that waited go on. -/
def doMirrorRebuilt (v : Nat) (data : List Byte) (w : Wk) : Wk :=
  if !(w.dev.vd v).mirrorLost then w
  else releaseHost (w.on fun d =>
    let es := entriesOf (sliceB data 0 (32 * (d.vd v).table.length))
    let t := es.map entryOf
    let ok := tableOrdered t && es.all reservedZero && t.all (entryFieldOk d v) && !tableAlias t
    d.onVd v fun x => { x with
      mirrorLost := false
      mirrorCh := mirrorHome d v
      table := if ok then t else x.table })

/-- MIRROR_REBUILD_DONE. -/
def execMirrorRebuildDone (v : VDev) (data : List Byte) (s : State) : Out := runMem (doMirrorRebuilt v.val data) s

end Sys2Proof.Machine
end

