-- ==== Sys2Proof/Machine/Builtin.lean ====
section
/-! DEFINITION. The built-in operations and the collectives (The operation catalogue), one meaning each. -/

namespace Sys2Proof.Machine

open Sys2Proof

/-- MATMUL (R119). -/
def execMatmul (v : VDev) (q : OpAt) (s : State) : Out := runMem (opStep .matmul (runOp .matmul) v.val q) s

/-- MATMUL_BATCHED (R119). -/
def execMatmulBatched (v : VDev) (q : OpAt) (s : State) : Out := runMem (opStep .matmulBatched (runOp .matmulBatched) v.val q) s

/-- MATMUL_GROUPED (R120). -/
def execMatmulGrouped (v : VDev) (q : OpAt) (s : State) : Out := runMem (opStep .matmulGrouped (runOp .matmulGrouped) v.val q) s

/-- MATMUL_FP64 (R121). -/
def execMatmulFp64 (v : VDev) (q : OpAt) (s : State) : Out := runMem (opStep .matmulFp64 (runOp .matmulFp64) v.val q) s

/-- CONV (R122). -/
def execConv (v : VDev) (q : OpAt) (s : State) : Out := runMem (opStep .conv (runOp .conv) v.val q) s

/-- CONV_TRANSPOSED (R122). -/
def execConvTransposed (v : VDev) (q : OpAt) (s : State) : Out := runMem (opStep .convTransposed (runOp .convTransposed) v.val q) s

/-- CONV_WGRAD (R122). -/
def execConvWgrad (v : VDev) (q : OpAt) (s : State) : Out := runMem (opStep .convWgrad (runOp .convWgrad) v.val q) s

/-- ATTENTION (R123). -/
def execAttention (v : VDev) (q : OpAt) (s : State) : Out := runMem (opStep .attention (runOp .attention) v.val q) s

/-- ATTENTION_BWD (R124). -/
def execAttentionBwd (v : VDev) (q : OpAt) (s : State) : Out := runMem (opStep .attentionBwd (runOp .attentionBwd) v.val q) s

/-- LAYERNORM (R125). -/
def execLayernorm (v : VDev) (q : OpAt) (s : State) : Out := runMem (opStep .layernorm (runOp .layernorm) v.val q) s

/-- RMSNORM (R125). -/
def execRmsnorm (v : VDev) (q : OpAt) (s : State) : Out := runMem (opStep .rmsnorm (runOp .rmsnorm) v.val q) s

/-- GROUPNORM (R125). -/
def execGroupnorm (v : VDev) (q : OpAt) (s : State) : Out := runMem (opStep .groupnorm (runOp .groupnorm) v.val q) s

/-- SOFTMAX (R101). -/
def execSoftmax (v : VDev) (q : OpAt) (s : State) : Out := runMem (opStep .softmax (runOp .softmax) v.val q) s

/-- LOG_SOFTMAX (R125). -/
def execLogSoftmax (v : VDev) (q : OpAt) (s : State) : Out := runMem (opStep .logSoftmax (runOp .logSoftmax) v.val q) s

/-- LAYERNORM_BWD (R126). -/
def execLayernormBwd (v : VDev) (q : OpAt) (s : State) : Out := runMem (opStep .layernormBwd (runOp .layernormBwd) v.val q) s

/-- RMSNORM_BWD (R126). -/
def execRmsnormBwd (v : VDev) (q : OpAt) (s : State) : Out := runMem (opStep .rmsnormBwd (runOp .rmsnormBwd) v.val q) s

/-- SOFTMAX_BWD (R126). -/
def execSoftmaxBwd (v : VDev) (q : OpAt) (s : State) : Out := runMem (opStep .softmaxBwd (runOp .softmaxBwd) v.val q) s

/-- UNARY (R91). -/
def execUnary (v : VDev) (q : OpAt) (s : State) : Out := runMem (opStep .unary (runOp .unary) v.val q) s

/-- ADD (R127). -/
def execAdd (v : VDev) (q : OpAt) (s : State) : Out := runMem (opStep .add (runOp .add) v.val q) s

/-- SUB (R127). -/
def execSub (v : VDev) (q : OpAt) (s : State) : Out := runMem (opStep .sub (runOp .sub) v.val q) s

/-- MUL (R127). -/
def execMul (v : VDev) (q : OpAt) (s : State) : Out := runMem (opStep .mul (runOp .mul) v.val q) s

/-- DIV (R127). -/
def execDiv (v : VDev) (q : OpAt) (s : State) : Out := runMem (opStep .div (runOp .div) v.val q) s

/-- MAX (R127). -/
def execMax (v : VDev) (q : OpAt) (s : State) : Out := runMem (opStep .max (runOp .max) v.val q) s

/-- MIN (R127). -/
def execMin (v : VDev) (q : OpAt) (s : State) : Out := runMem (opStep .min (runOp .min) v.val q) s

/-- FMA (R127). -/
def execFma (v : VDev) (q : OpAt) (s : State) : Out := runMem (opStep .fma (runOp .fma) v.val q) s

/-- SELECT (R128). -/
def execSelect (v : VDev) (q : OpAt) (s : State) : Out := runMem (opStep .select (runOp .select) v.val q) s

/-- COMPARE (R128). -/
def execCompare (v : VDev) (q : OpAt) (s : State) : Out := runMem (opStep .compare (runOp .compare) v.val q) s

/-- ABS (R128). -/
def execAbs (v : VDev) (q : OpAt) (s : State) : Out := runMem (opStep .abs (runOp .abs) v.val q) s

/-- NEG (R128). -/
def execNeg (v : VDev) (q : OpAt) (s : State) : Out := runMem (opStep .neg (runOp .neg) v.val q) s

/-- RELU (R128). -/
def execRelu (v : VDev) (q : OpAt) (s : State) : Out := runMem (opStep .relu (runOp .relu) v.val q) s

/-- CLAMP (R128). -/
def execClamp (v : VDev) (q : OpAt) (s : State) : Out := runMem (opStep .clamp (runOp .clamp) v.val q) s

/-- DROPOUT (R109). -/
def execDropout (v : VDev) (q : OpAt) (s : State) : Out := runMem (opStep .dropout (runOp .dropout) v.val q) s

/-- RANDOM_UNIFORM (R128). -/
def execRandomUniform (v : VDev) (q : OpAt) (s : State) : Out := runMem (opStep .randomUniform (runOp .randomUniform) v.val q) s

/-- CAST (R59). -/
def execCast (v : VDev) (q : OpAt) (s : State) : Out := runMem (opStep .cast (runOp .cast) v.val q) s

/-- PEAT_ROUND (R74). -/
def execPeatRound (v : VDev) (q : OpAt) (s : State) : Out := runMem (opStep .peatRound (runOp .peatRound) v.val q) s

/-- PEAT_ACCUMULATE (R71). -/
def execPeatAccumulate (v : VDev) (q : OpAt) (s : State) : Out := runMem (opStep .peatAccumulate (runOp .peatAccumulate) v.val q) s

/-- COPY (R44). -/
def execCopy (v : VDev) (q : OpAt) (s : State) : Out := runMem (opStep .copy (runOp .copy) v.val q) s

/-- PERMUTE (R111). -/
def execPermute (v : VDev) (q : OpAt) (s : State) : Out := runMem (opStep .permute (runOp .permute) v.val q) s

/-- FILL (R111). -/
def execFill (v : VDev) (q : OpAt) (s : State) : Out := runMem (opStep .fill (runOp .fill) v.val q) s

/-- GATHER (R129). -/
def execGather (v : VDev) (q : OpAt) (s : State) : Out := runMem (opStep .gather (runOp .gather) v.val q) s

/-- SCATTER (R130). -/
def execScatter (v : VDev) (q : OpAt) (s : State) : Out := runMem (opStep .scatter (runOp .scatter) v.val q) s

/-- SCATTER_ADD (R130). -/
def execScatterAdd (v : VDev) (q : OpAt) (s : State) : Out := runMem (opStep .scatterAdd (runOp .scatterAdd) v.val q) s

/-- SCATTER_MAX (R130). -/
def execScatterMax (v : VDev) (q : OpAt) (s : State) : Out := runMem (opStep .scatterMax (runOp .scatterMax) v.val q) s

/-- SCATTER_MIN (R130). -/
def execScatterMin (v : VDev) (q : OpAt) (s : State) : Out := runMem (opStep .scatterMin (runOp .scatterMin) v.val q) s

/-- EMBEDDING (R129). -/
def execEmbedding (v : VDev) (q : OpAt) (s : State) : Out := runMem (opStep .embedding (runOp .embedding) v.val q) s

/-- EMBEDDING_BAG (R129). -/
def execEmbeddingBag (v : VDev) (q : OpAt) (s : State) : Out := runMem (opStep .embeddingBag (runOp .embeddingBag) v.val q) s

/-- TOPK (R131). -/
def execTopk (v : VDev) (q : OpAt) (s : State) : Out := runMem (opStep .topk (runOp .topk) v.val q) s

/-- SORT (R131). -/
def execSort (v : VDev) (q : OpAt) (s : State) : Out := runMem (opStep .sort (runOp .sort) v.val q) s

/-- ARGMAX (R131). -/
def execArgmax (v : VDev) (q : OpAt) (s : State) : Out := runMem (opStep .argmax (runOp .argmax) v.val q) s

/-- ARGMIN (R131). -/
def execArgmin (v : VDev) (q : OpAt) (s : State) : Out := runMem (opStep .argmin (runOp .argmin) v.val q) s

/-- REDUCE_SUM (R132). -/
def execReduceSum (v : VDev) (q : OpAt) (s : State) : Out := runMem (opStep .reduceSum (runOp .reduceSum) v.val q) s

/-- REDUCE_MAX (R132). -/
def execReduceMax (v : VDev) (q : OpAt) (s : State) : Out := runMem (opStep .reduceMax (runOp .reduceMax) v.val q) s

/-- REDUCE_MIN (R132). -/
def execReduceMin (v : VDev) (q : OpAt) (s : State) : Out := runMem (opStep .reduceMin (runOp .reduceMin) v.val q) s

/-- REDUCE_MEAN (R132). -/
def execReduceMean (v : VDev) (q : OpAt) (s : State) : Out := runMem (opStep .reduceMean (runOp .reduceMean) v.val q) s

/-- REDUCE_VAR (R132). -/
def execReduceVar (v : VDev) (q : OpAt) (s : State) : Out := runMem (opStep .reduceVar (runOp .reduceVar) v.val q) s

/-- CUMSUM (R132). -/
def execCumsum (v : VDev) (q : OpAt) (s : State) : Out := runMem (opStep .cumsum (runOp .cumsum) v.val q) s

/-- ALL_REDUCE (R133 … R135). -/
def execAllReduce (v : VDev) (q : OpAt) (remote : List RemotePart) (s : State) : Out :=
  runMem (opStep .allReduce (fun v q w => runCollective .allReduce v q remote w) v.val q) s

/-- REDUCE_SCATTER (R133 … R135). -/
def execReduceScatter (v : VDev) (q : OpAt) (remote : List RemotePart) (s : State) : Out :=
  runMem (opStep .reduceScatter (fun v q w => runCollective .reduceScatter v q remote w) v.val q) s

/-- ALL_GATHER (R133 … R135). -/
def execAllGather (v : VDev) (q : OpAt) (remote : List RemotePart) (s : State) : Out :=
  runMem (opStep .allGather (fun v q w => runCollective .allGather v q remote w) v.val q) s

/-- ALL_TO_ALL (R133 … R135). -/
def execAllToAll (v : VDev) (q : OpAt) (remote : List RemotePart) (s : State) : Out :=
  runMem (opStep .allToAll (fun v q w => runCollective .allToAll v q remote w) v.val q) s

/-- BROADCAST (R133 … R135). -/
def execBroadcast (v : VDev) (q : OpAt) (remote : List RemotePart) (s : State) : Out :=
  runMem (opStep .broadcast (fun v q w => runCollective .broadcast v q remote w) v.val q) s

end Sys2Proof.Machine
end

