-- ==== Sys2Proof/Machine/Dictionary.lean ====
section
/-! DEFINITION. The object dictionary (R479 … R494): entries, requests and their answers, notices (R484), unit requests (R491 …
R494), and the management bindings (R481, R514). -/

namespace Sys2Proof.Machine

open Sys2Proof

/-! ## Entries (Tables 20-1, 20-2, 20-6) -/

/-- An entry: its type code, value length, access code (1 RO, 2 RW, 3 WO), persistence class (0 —, 1 V, 2 D, 3 N), whether it is
timing-dependent, its default, and the bytes it reads as. -/
structure OdEntry where
  type : Nat
  len : Nat
  access : Nat
  cls : Nat
  timing : Bool
  dflt : Nat
  value : Dev → List Byte

/-- The type code of an unsigned value of `n` bytes. -/
def unsignedType (n : Nat) : Nat := if n = 1 then 2 else if n = 2 then 3 else if n = 4 then 4 else 5

/-- An unsigned entry without a stored value, read only. -/
def liveU (n : Nat) (timing : Bool) (f : Dev → Nat) : OdEntry := ⟨unsignedType n, n, 1, 0, timing, 0, fun d => natLe n (f d)⟩
/-- An unsigned entry with a class and a default. -/
def storedU (n access cls dflt : Nat) (f : Dev → Nat) : OdEntry := ⟨unsignedType n, n, access, cls, false, dflt, fun d => natLe n (f d)⟩
/-- An octet entry, read only. -/
def octets (n cls : Nat) (timing : Bool) (f : Dev → List Byte) : OdEntry := ⟨7, n, 1, cls, timing, 0, fun d => sliceB (f d) 0 n⟩
/-- A domain, whose segments `domainByte` reads. -/
def domain (n : Nat) : OdEntry := ⟨8, n, 1, 0, true, 0, fun _ => []⟩
/-- A write-only entry. -/
def sink (type n : Nat) : OdEntry := ⟨type, n, 3, 0, false, 0, fun _ => []⟩

/-- Whether the release scrub of a channel is under way: every endpoint has drained, and it is not retired (R228, R229). -/
def Dev.releaseScrub (d : Dev) (c : Nat) : Bool :=
  d.sched.leaving.any fun l => l.kind == .chan && l.num == c && l.published && l.left.isEmpty && !l.retiring

/-- STATE of a unit state word (Table 20-7). A channel in its release scrub shows SCRUBBING. -/
def Dev.unitStateCode (d : Dev) (k : UnitKind) (n : Nat) : Nat :=
  match k with
  | .core => (match (d.core n).state with
    | .unpowered => 0
    | .testing => 1
    | .serviceable => 2
    | .spare => 3
    | .draining | .scrubbed => 4
    | .retired => 5
    | .returning => 6)
  | .chan => (match (d.chan n).state with
    | .unpowered => 0
    | .training => 1
    | .scrubbing => 2
    | .inService => if d.releaseScrub n then 2 else 3
    | .repairing => if d.releaseScrub n then 2 else 4
    | .retiring => 5
    | .retired => 6)
  | .port => (d.port n).state

/-- The partition of a core of a virtual device. -/
def Vd.partOf (x : Vd) (n : Nat) : Nat := ((x.parts.find? fun p => p.2.cores.contains n).map Prod.fst).getD 0

/-- The unit state word (Table 20-7). -/
def Dev.unitStateWord (d : Dev) (k : UnitKind) (n : Nat) : Nat :=
  let b (x : Bool) (i : Nat) : Nat := if x then 2 ^ i else 0
  let u := d.unit k n
  let v := d.boundTo k n
  let part := match k, v with
    | .core, some v => (d.vd v).partOf n
    | _, _ => 0
  b u.adminOut 31 + b (d.disputed k n) 30 + b (d.serving k n) 29 + b v.isSome 28 + d.unitStateCode k n * 2 ^ 24 + u.cause * 2 ^ 20 +
    part * 2 ^ 16 + v.getD 0 * 2 ^ 8

/-- Every unit of the device. -/
def allUnits : List (UnitKind × Nat) :=
  (List.range 2176).map (fun n => (UnitKind.core, n)) ++ (List.range 1024).map (fun n => (UnitKind.chan, n)) ++
    (List.range 16).map fun n => (UnitKind.port, n)

/-- The counters of a core (Table 6-7), since its island was powered (R155, R187); what the model does not count is a free value. -/
def Dev.coreCounters (d : Dev) (n : Nat) : List Byte :=
  let k := d.core n
  (List.range 13).flatMap fun i => natLe 8 (if k.powered then
    (coreCount n i [] k.ctr k.onAt.toNat (d.hlc (coreHub n)).toNat).toNat else 0)

/-- The counters of a channel (Table 9-10). -/
def Dev.chanCounters (d : Dev) (c : Nat) : List Byte :=
  let k := d.chan c
  let spare := Config.spareRows c - (k.spareUsed.map Prod.snd).foldl max 0
  (List.range 11).flatMap fun i => natLe 8 (if i = 7 then spare else (Tab.getD k.ctr i 0).toNat)

/-- The temperature of a thermal die in tenths of a degree. -/
def Dev.tempBytes (d : Dev) (i : Nat) : List Byte := natLe 2 (ofSigned 16 ((d.therm i).temp.getD (Config.temperature i)))

/-- The state word of a firmware processor (0x7010). -/
def Dev.procWord (d : Dev) (p : Nat) : Nat :=
  let now := d.hlc (procHub p)
  let n := ((d.proc p).crashes.filter fun t => within now t 3600000000).length
  let st := if !(d.proc p).up then 1
    else if (p = 1 ∨ p = 3) ∧ d.boot.active then if p = d.activeProc then 2 else 3
    else 0
  n % 65536 * 65536 + st

/-- An entry of the security log, newest first (R494 as 0x6020 lays it out). -/
def Dev.logEntry (d : Dev) (i : Nat) : List Byte :=
  match d.sec.log.reverse[i]? with
  | some e => natLe 8 e.stamp.toNat ++ natLe 1 e.src ++ natLe 1 e.level ++ natLe 2 e.detail.toNat ++ natLe 4 e.seq
  | none => natLe 16 0

/-- Four entries of the security log. -/
def Dev.logPage (d : Dev) (page : Nat) : List Byte := (List.range 4).flatMap fun j => if 4 * page + j < 1024 then d.logEntry (4 * page + j) else natLe 16 0

/-- A bound of the pending copies (Table 18-2): its width and value. -/
def boundEntry (sub : Nat) : Option (Nat × (Bounds → Nat)) :=
  match sub with
  | 1 => some (4, fun b => b.cap.toNat)
  | 2 => some (2, fun b => b.floorCmp.toNat)
  | 3 => some (2, fun b => b.ceilCmp.toNat)
  | 4 => some (2, fun b => b.floorMem.toNat)
  | 5 => some (2, fun b => b.ceilMem.toNat)
  | 6 => some (2, fun b => b.floorLnk.toNat)
  | 7 => some (2, fun b => b.ceilLnk.toNat)
  | 8 => some (2, fun b => b.fmax.toNat)
  | 9 => some (1, fun b => b.idle.toNat)
  | _ => none

/-- The energy of the queue that holds a device queue number. -/
def Dev.queueEnergy (d : Dev) (devq : Nat) : BitVec 64 :=
  match d.vds.findSome? fun v => (v.2.queues.find? fun q => q.2.devq == devq).map fun q => q.2.uid with
  | some u => Tab.getD d.pwr.queueE u 0
  | none => 0

/-- A byte of a DOMAIN entry. -/
def Dev.domainByte (d : Dev) (ix sub i : Nat) : Byte :=
  let at_ (n x : Nat) : Byte := (natLe n x).getD (i % n) 0
  if ix = 0x2800 then at_ 4 (distWord d.net.retired (i / 256) (i / 4 % 64))
  else if sub = 1 then at_ 8 (d.queueEnergy (i / 8)).toNat
  else at_ 8 (Tab.getD d.pwr.partE (i / 8) 0).toNat

/-- The entries of 0x1000 … 0x1FFF. -/
def entry1 (ix sub : Nat) : Option OdEntry :=
  match ix, sub with
  | 0x1000, 1 => some (liveU 2 false fun _ => Config.vendorId.toNat)
  | 0x1000, 2 => some (liveU 4 false fun _ => 0x56534142)
  | 0x1000, 3 => some (liveU 2 false fun _ => Config.siliconRevision.toNat)
  | 0x1000, 4 => some (liveU 8 false fun _ => Config.serialNumber.toNat)
  | 0x1000, 5 => some (storedU 2 1 1 0 fun d => d.fw.aclMax.toNat)
  | 0x1000, 6 => some (liveU 2 false fun _ => 0x0201)
  | 0x1001, 1 => some (storedU 4 2 2 0 fun d => d.fab.pkgId.toNat)
  | 0x1002, 1 => some (liveU 8 true fun d => d.clk.hlc0.toNat)
  | 0x1002, 2 => some (liveU 8 true fun d => d.clk.hlc1.toNat)
  | 0x1010, n => if 1 ≤ n ∧ n ≤ 4 then some (storedU 8 2 2 0 fun d => (Tab.getD d.od.dests (n - 1) 0).toNat) else none
  | 0x1030, 1 => some (sink 7 24)
  | _, _ => none

/-- The entries of 0x2000 … 0x2FFF. -/
def entry2 (ix sub : Nat) : Option OdEntry :=
  let n := ix % 256
  if ix / 256 = 0x20 ∧ n < 32 then
    if 1 ≤ sub ∧ sub ≤ 0x44 then some (liveU 4 true fun d => d.unitStateWord .core (68 * n + sub - 1))
    else if sub = 0x50 then some (liveU 1 true fun d => (serviceableIn d n).length) else none
  else if ix / 256 = 0x21 ∧ n < 32 ∧ 1 ≤ sub ∧ sub ≤ 0x44 then
    some (octets 104 0 true fun d => d.coreCounters (68 * n + sub - 1))
  else if ix / 256 = 0x22 ∧ n < 32 ∧ 1 ≤ sub ∧ sub ≤ 0x20 then some (liveU 4 true fun d => d.unitStateWord .chan (32 * n + sub - 1))
  else if ix / 256 = 0x23 ∧ n < 32 ∧ sub = 1 then
    some (liveU 1 true fun d => if (d.die n).lost then 1 else if (List.range 32).all fun j => (d.chan (32 * n + j)).state == .unpowered then 2 else 0)
  else if ix / 256 = 0x24 ∧ n < 16 then
    if 1 ≤ sub ∧ sub ≤ 0x16 then some (liveU 8 (sub != 3) fun d => d.portReg n (sub - 1))
    else if sub = 0x20 then some (liveU 4 true fun d => d.unitStateWord .port n) else none
  else match ix, sub with
    | 0x2800, 1 => some (domain 557056)
    | 0x2800, 2 => some (liveU 8 true fun d => d.net.gen.toNat)
    | 0x2900, 1 => some (sink 5 8)
    | 0x2900, 2 => some { liveU 8 true (fun d => d.od.lastResult * 2 ^ 32 + d.od.lastUnit) with cls := 1 }
    | 0x2900, 3 => some (liveU 4 true fun d => (allUnits.filter fun u => d.disputed u.1 u.2).length)
    | 0x2900, 4 => some (liveU 4 true fun d => d.sched.unitCommits.toNat)
    | _, _ => none

/-- The entries of 0x3000 … 0x3FFF. -/
def entry3 (ix sub : Nat) : Option OdEntry :=
  let v := ix % 256
  if ix = 0x3000 then match sub with
    | 1 => some (liveU 2 true fun d => (d.vds.filter fun x => x.2.composed).length)
    | 2 => some (liveU 2 true fun d => ((List.range 2176).filter d.freeCore).length)
    | 3 => some (liveU 2 true fun d => ((List.range 1024).filter fun c => d.bindable .chan c).length)
    | 4 => some (liveU 2 true fun d => (((List.range 16).filter fun p => d.bindable .port p).map (2 ^ ·)).sum)
    | _ => none
  else if ix / 256 = 0x31 then match sub with
    | 1 => some (liveU 4 true fun d => (d.vd v).epoch.toNat)
    | 2 => some (liveU 1 true fun d => if (d.vd v).mirrored then 1 else 0)
    | 3 => some (liveU 2 true fun d => (d.vd v).reserveWant)
    | 4 => some (liveU 2 true fun d => (d.vd v).ports.toNat)
    | 5 => some (octets 32 0 true fun d => (List.range 32).map fun c => BitVec.ofNat 8 (onCluster c (d.vd v).cores).length)
    | 6 => some (octets 128 0 true fun d => natLe 128 ((d.vd v).chans.map (2 ^ ·)).sum)
    | 7 => some (liveU 2 true fun d => ((d.vd v).parts.map fun p => 2 ^ p.1).sum)
    | 8 => some (liveU 2 false fun d => (d.vd v).queueGrant)
    | _ => none
  else if ix / 256 = 0x32 ∧ 1 ≤ sub ∧ sub ≤ 7 then some (liveU 8 true fun d => (Tab.getD (d.vd v).ctr (sub - 1) 0).toNat)
  else none

/-- The entries of 0x4000 … 0x4FFF. -/
def entry4 (ix sub : Nat) : Option OdEntry :=
  let c := ix % 256
  if ix = 0x4000 then match boundEntry sub with
    | some (n, f) => some (storedU n 2 2 (f Bounds.reset) fun d => f d.pwr.pend)
    | none => match sub with
      | 0x0A => some (sink 4 4)
      | 0x0B => some (liveU 4 true fun d => d.pwrStatus.toNat)
      | 0x0C => some (liveU 8 true fun d => d.overrideSeconds)
      | 0x11 => some (liveU 8 true fun d => d.pwr.energy.toNat)
      | n => if 0x0D ≤ n ∧ n ≤ 0x10 then some (liveU 4 true fun d => Tab.getD d.pwr.msEst (n - 0x0D) 0) else none
  else if ix = 0x4100 then if sub = 1 ∨ sub = 2 then some (domain 32768) else none
  else if ix = 0x4200 then match sub with
    | 1 => some (octets 32 0 true fun d => (List.range 16).flatMap fun i => d.tempBytes i)
    | 2 => some (octets 64 0 true fun d => (List.range 32).flatMap fun i => d.tempBytes (16 + i))
    | 3 => some (octets 64 0 true fun d => (List.range 32).flatMap fun i => d.tempBytes (48 + i))
    | 4 => some (octets 32 0 true fun d => (List.range 16).flatMap fun i => d.tempBytes (80 + i))
    | 5 => some (octets 4 0 true fun d => (List.range 2).flatMap fun i => d.tempBytes (96 + i))
    | _ => none
  else if ix / 256 = 0x43 ∧ c < 32 ∧ 1 ≤ sub ∧ sub ≤ 0x44 then
    some (liveU 2 true fun d => (d.core (68 * c + sub - 1)).idle * 4096 + 25 * (d.core (68 * c + sub - 1)).clock)
  else none

/-- The entries of 0x5000 … 0x5FFF. -/
def entry5 (ix sub : Nat) : Option OdEntry :=
  let k := ix % 256
  if ix = 0x5000 then
    if 1 ≤ sub ∧ sub ≤ 0x0A then some (liveU 8 true fun d => (Tab.getD d.events sub 0).toNat)
    else if sub = 0x0B then some (liveU 8 true fun d => d.windowErrors.toNat) else none
  else if ix / 256 = 0x52 ∧ k < 32 ∧ 1 ≤ sub ∧ sub ≤ 0x20 then some (octets 88 0 true fun d => d.chanCounters (32 * k + sub - 1))
  else if ix = 0x5400 ∧ sub = 1 then some (sink 4 4)
  else none

/-- The entries of 0x6000 … 0x6FFF. -/
def entry6 (ix sub : Nat) : Option OdEntry :=
  if ix = 0x6000 then match sub with
    | 1 => some (liveU 1 true fun d => d.sec.level)
    | 2 => some (storedU 4 1 3 0 fun d => d.sec.a2Count.toNat)
    | 3 => some (storedU 4 1 3 0 fun d => d.sec.a3Count.toNat)
    | _ => none
  else if ix = 0x6010 ∧ 1 ≤ sub ∧ sub ≤ 0x10 then some (storedU 1 2 3 (alarmDefault sub) fun d => d.alarmLevel sub)
  else if (ix = 0x6020 ∨ ix = 0x6021) ∧ 1 ≤ sub then some (octets 64 2 true fun d => d.logPage (255 * (ix - 0x6020) + sub - 1))
  else if ix / 256 = 0x62 ∧ sub = 1 then some (storedU 2 2 2 0 fun d => (d.vd (ix % 256)).quota.toNat)
  else none

/-- The entries of 0x7000 … 0x7FFF. -/
def entry7 (ix sub : Nat) : Option OdEntry :=
  if ix = 0x7000 then match sub with
    | 1 => some (liveU 1 false fun d => d.fw.state)
    | 2 => some (octets 32 1 false fun d => d.fw.meas)
    | 3 => some (storedU 4 1 1 0 fun d => d.fw.svn.toNat)
    | 4 => some (octets 16 1 false fun d => natLe 16 d.fw.offered.toNat)
    | 5 => some (storedU 8 1 1 0 fun d => d.fw.imageLen.toNat)
    | _ => none
  else if ix = 0x7010 then
    if 1 ≤ sub ∧ sub ≤ 4 then some (liveU 4 true fun d => d.procWord (sub - 1))
    else if 0x10 ≤ sub ∧ sub ≤ 0x2F then some (liveU 4 true fun d => d.procWord (4 + (sub - 0x10))) else none
  else none

/-- The entry of an index and a subindex other than 0. -/
def odSub (ix sub : Nat) : Option OdEntry :=
  match ix / 4096 with
  | 1 => entry1 ix sub
  | 2 => entry2 ix sub
  | 3 => entry3 ix sub
  | 4 => entry4 ix sub
  | 5 => entry5 ix sub
  | 6 => entry6 ix sub
  | 7 => entry7 ix sub
  | _ => none

/-- The highest subindex of an index, 0 where the index is not defined. -/
def odTop (ix : Nat) : Nat := ((List.range 256).filter fun sub => decide (1 ≤ sub) && (odSub ix sub).isSome).getLastD 0

/-- The statuses of Table 20-4. -/
def odNoEntry : Nat := 1
/-- NO_SUB. -/
def odNoSub : Nat := 2
/-- ACCESS. -/
def odAccess : Nat := 3
/-- RANGE. -/
def odRange : Nat := 4
/-- LENGTH. -/
def odLength : Nat := 5
/-- SECURE. -/
def odSecure : Nat := 6
/-- BUSY. -/
def odBusy : Nat := 7
/-- STATE. -/
def odState : Nat := 8
/-- REFUSED. -/
def odRefused : Nat := 9

/-- The entry that a request names, or the status that refuses it. Subindex 0 holds the highest subindex (R479). -/
def odEntry (ix sub : Nat) : Except Nat OdEntry :=
  if odTop ix = 0 then .error odNoEntry
  else if sub = 0 then .ok (liveU 1 false fun _ => odTop ix)
  else match odSub ix sub with
    | some e => .ok e
    | none => .error odNoSub

/-- Whether the processor that serves an index, beside the power-management core, is down (Table 20-5). -/
def Dev.servedDown (d : Dev) (ix : Nat) : Bool :=
  (ix / 4096 == 3 && !d.schedUp) || (ix / 4096 == 6 && !d.secUp) || (ix / 256 == 0x21 && !(d.proc (4 + ix % 256)).up)

/-! ## Requests -/

/-- Answer a request: operation 1 READ, 2 WRITE, 3 DESCRIBE. -/
def odAnswer (b : MgmtBind) (tag : BitVec 16) (op status : Nat) (value : List Byte) (d : Dev) : Dev := d.emit (.od b tag op status value)

/-- A READ (R482): the whole value, or a segment of a DOMAIN. -/
def odRead (b : MgmtBind) (tag : BitVec 16) (ix sub off len : Nat) (d : Dev) : Dev :=
  match odEntry ix sub with
  | .error st => odAnswer b tag 1 st [] d
  | .ok e =>
    if d.servedDown ix then odAnswer b tag 1 odBusy [] d
    else if e.access = 3 then odAnswer b tag 1 odAccess [] d
    else if e.type = 8 then
      if 1024 < len || e.len < off + len then odAnswer b tag 1 odLength [] d
      else odAnswer b tag 1 0 ((List.range len).map fun i => d.domainByte ix sub (off + i)) d
    else if off ≠ 0 then odAnswer b tag 1 odLength [] d
    else
      let bs := e.value d
      odAnswer b tag 1 0 bs (if ix / 256 = 0x21 then d.draw.2 else d)

/-- A DESCRIBE (R482). -/
def odDescribe (b : MgmtBind) (tag : BitVec 16) (ix sub : Nat) (d : Dev) : Dev :=
  match odEntry ix sub with
  | .error st => odAnswer b tag 3 st [] d
  | .ok e =>
    let flags := (if e.timing then 1 else 0) + (if ix / 4096 = 6 then 2 else 0)
    odAnswer b tag 3 0 (natLe 1 e.type ++ natLe 1 e.access ++ natLe 1 e.cls ++ natLe 1 flags ++ natLe 4 e.len ++
      natLe 8 (if e.type = 8 ∨ 8 < e.len then 0 else e.dflt)) d

/-! ## Unit requests (R491 … R494) -/

/-- The last unit request and its result: 0 DONE, 1 PENDING, 3 SUPERSEDED. -/
def lastRequest (k : UnitKind) (n result : Nat) (d : Dev) : Dev := { d with od := { d.od with lastUnit := unitWord k n, lastResult := result } }

/-- Removal of a core on request (R494): whatever its state, it serves no more. -/
def removeCore (n : Nat) (d : Dev) : Dev :=
  match (d.core n).state with
  | .testing => nextSpare (n / 68) (drainCore n 3 d)
  | _ => drainCore n 3 d

/-- Removal of a channel on request: retirement for one that holds contents, at once for one that is not yet admitted. -/
def removeChan (n : Nat) (d : Dev) : Dev :=
  let k := d.chan n
  match k.state with
  | .training =>
    if k.resume == .unpowered || k.resume == .retired then setCause .chan n 3 (d.onChan n fun k => { k with state := .retired })
    else retireChan n 3 (d.onChan n fun k => { k with state := k.resume })
  | .scrubbing => setCause .chan n 3 (d.onChan n fun k => { k with state := .retired })
  | _ => retireChan n 3 d

/-- Removal of a port on request: a bound one leaves its composition through the sluice, another is out of service at once. -/
def removePort (n : Nat) (d : Dev) : Dev :=
  match d.boundTo .port n with
  | some v =>
    let old := d.vd v
    let d := (setCause .port n 3 d).onVd v fun x => { x with ports := BitVec.ofNat 16 (x.ports.toNat - 2 ^ n) }
    compositionChanged v 2 [(.port, n)] (publishChange v old [(.port, n)] true [] d)
  | none => if d.sluiced .port n || (d.port n).state = 6 then d else setCause .port n 3 (enterPort n 6 d)

/-- A request OUT (R494): ADMIN is OUT, a return under way is superseded and abandoned, and the removal begins. -/
def unitOut (k : UnitKind) (n : Nat) (d : Dev) : Dev :=
  let back := (d.unit k n).returning
  let d := if back then lastRequest k n 3 d else d
  let d := d.onUnit k n fun u => { u with adminOut := true, returning := false }
  let d := match k with
    | .core => removeCore n d
    | .chan => removeChan n d
    | .port => removePort n d
  lastRequest k n 0 d

/-- A request IN (R494, R502): ADMIN is IN; a unit that serves already is done, another is returned by the data path. -/
def unitIn (k : UnitKind) (n : Nat) (d : Dev) : Dev :=
  let d := d.onUnit k n fun u => { u with adminOut := false }
  if d.serving k n then lastRequest k n 0 d
  else lastRequest k n 1 (startReturn k n (d.onUnit k n fun u => { u with returning := true }))

/-- A unit request (0x2900:01): the status and the device after it. -/
def unitRequest (x : Nat) (d : Dev) : Nat × Dev :=
  match unitOf (x % 2 ^ 32) with
  | none => (odRange, d)
  | some (k, n) =>
    match bits x 35 32 with
      | 1 => (0, unitOut k n d)
      | 2 => (0, unitIn k n d)
      | _ => (odRange, d)

/-- UNIT_RETURN_DONE (R494): the self-test or training of a return ends. A channel that passes is scrubbed first. -/
def doReturnDone (word : Nat) (ok : Bool) (w : Wk) : Wk :=
  match unitOf word with
  | none => w
  | some (k, n) =>
    if !(w.dev.unit k n).returning then w
    else match k with
      | .core => w.on (announcing (doSelfTest n ok))
      | .chan =>
        if (w.dev.chan n).state != .training || (w.dev.chan n).resume != .retired then w
        else if ok && !(w.dev.die (n / 32)).lost then
          let w := (scrubChan n w).on (endReturn .chan n true)
          w.on (announcing fun d => d.onChan n fun c => { c with state := .inService, resume := .unpowered })
        else w.on fun d => setCause .chan n 1 (endReturn .chan n false (d.onChan n fun c => { c with state := .retired }))
      | .port =>
        if ok then if (w.dev.port n).trained then w.on (endReturn .port n true) else w
        else w.on fun d => setCause .port n 1 (endReturn .port n false (enterPort n 6 d))

/-- UNIT_RETURN_DONE. -/
def execUnitReturnDone (u : BitVec 32) (ok : Bool) (s : State) : Out := runMem (doReturnDone u.toNat ok) s

/-! ## Writes -/

/-- A write of a notice destination (0x1010): bindings 0 … 2; what is written to the reserved bits is ignored (Table 0-5). Without a
binding its notices go. -/
def writeDest (i : Nat) (x : Nat) (d : Dev) : Nat × Dev :=
  if 2 < x / 2 ^ 56 then (odRange, d)
  else
    let o := d.od
    (0, { d with od := { o with
      dests := Tab.put o.dests i (BitVec.ofNat 64 (x / 2 ^ 48 * 2 ^ 48 + x % 2 ^ 16))
      notices := if x / 2 ^ 56 = 0 then o.notices.filter fun n => n.dest != i else o.notices } })

/-- A write of a pending bound (R486). -/
def writeBound (sub x : Nat) (b : Bounds) : Bounds :=
  match sub with
  | 1 => { b with cap := BitVec.ofNat 32 x }
  | 2 => { b with floorCmp := BitVec.ofNat 16 x }
  | 3 => { b with ceilCmp := BitVec.ofNat 16 x }
  | 4 => { b with floorMem := BitVec.ofNat 16 x }
  | 5 => { b with ceilMem := BitVec.ofNat 16 x }
  | 6 => { b with floorLnk := BitVec.ofNat 16 x }
  | 7 => { b with ceilLnk := BitVec.ofNat 16 x }
  | 8 => { b with fmax := BitVec.ofNat 16 x }
  | _ => { b with idle := BitVec.ofNat 8 (x % 8) }

/-- A write of a key-slot quota (R467, R470): 0 erases every slot the virtual device holds. -/
def writeQuota (v x : Nat) (d : Dev) : Nat × Dev :=
  let others := ((d.vds.filter fun y => y.1 != v).map fun y => y.2.quota.toNat).sum
  if 1023 < x then (odRange, d)
  else if x = 0 then (0, (eraseKeys v d).onVd v fun y => { y with quota := 0 })
  else if 1023 < others + x || x < (d.heldSlots v).length then (odRefused, d)
  else (0, d.onVd v fun y => { y with quota := BitVec.ofNat 16 x })

/-- A write of an alarm level (R473, R487): the status, where it is refused. -/
def levelRefused (src level : Nat) : Option Nat :=
  if level = 0 ∨ 3 < level then some odRange
  else if alarmDefault src = 0 ∨ level < alarmFloor src then some odRefused else none

/-- Whether any port is in SECURING, UP, DEGRADED or RETRAINING. -/
def Dev.anyPortLive (d : Dev) : Bool := (List.range 16).any fun p => decide (2 ≤ (d.port p).state) && decide ((d.port p).state ≤ 5)

/-- A write of an entry that may be written, with a value of its length. `none` where the answer waits for the platform die. The
answer to a ladder request leaves before its step begins (R488). -/
def odCommit (b : MgmtBind) (tag : BitVec 16) (ix sub : Nat) (val : List Byte) (w : Wk) : Wk :=
  let x := leNat val
  let answer (st : Nat) (w : Wk) : Wk := w.on (odAnswer b tag 2 st [])
  let plain (r : Nat × Dev) : Wk := answer r.1 { w with dev := r.2 }
  if ix = 0x1001 then
    if x = 0 then answer odRange w else if w.dev.anyPortLive then answer odState w
    else plain (0, { w.dev with fab := { w.dev.fab with pkgId := BitVec.ofNat 32 x } })
  else if ix = 0x1010 then plain (writeDest (sub - 1) x w.dev)
  else if ix = 0x1030 then
    if fieldLe val 0 1 = 1 ∨ fieldLe val 0 1 = 2 then answer 0 (doPeerFailure (fieldLe val 4 4) (BitVec.ofNat 64 (fieldLe val 8 8)) w)
    else answer odRange w
  else if ix = 0x2900 then plain (unitRequest x w.dev)
  else if ix = 0x4000 then
    if sub = 0x0A then plain (0, if bitAt x 0 then submitBounds w.dev else w.dev)
    else plain (0, w.dev.onPwr fun p => { p with pend := writeBound sub x p.pend })
  else if ix = 0x5400 then
    if x = 0xB5A70003 then deviceReset (answer 0 w) else if x = 0xB5A70004 then powerCycle (answer 0 w) else answer odRange w
  else if ix = 0x6010 then match levelRefused sub x with
    | some st => answer st w
    | none => w.on fun d => { d with od := { d.od with confirm := some ⟨b, tag, sub, x⟩ } }
  else if ix / 256 = 0x62 then plain (writeQuota (ix % 256) x w.dev)
  else answer odAccess w

/-- A WRITE (R480, R482). The first cause that applies, in this order, is the status: NO_ENTRY, NO_SUB, BUSY, ACCESS, SECURE,
LENGTH, then what the value itself breaks. -/
def odWrite (b : MgmtBind) (secured : Bool) (tag : BitVec 16) (ix sub : Nat) (val : List Byte) (w : Wk) : Wk :=
  let refuse (st : Nat) : Wk := w.on (odAnswer b tag 2 st [])
  match odEntry ix sub with
  | .error st => refuse st
  | .ok e =>
    if w.dev.servedDown ix then refuse odBusy
    else if e.access = 1 then refuse odAccess
    else if ix / 4096 = 6 && !(secured && w.dev.secured (.mctp b)) then refuse odSecure
    else if val.length ≠ e.len then refuse odLength
    else odCommit b tag ix sub val w

/-- A request as it arrives on a binding. -/
inductive OdReq where
  | read (tag : BitVec 16) (ix sub off len : Nat)
  | write (secured : Bool) (tag : BitVec 16) (ix sub : Nat) (val : List Byte)
  | describe (tag : BitVec 16) (ix sub : Nat)
  deriving DecidableEq, Repr

/-- Tag and operation of a request. -/
def OdReq.head : OdReq → BitVec 16 × Nat
  | .read t _ _ _ _ => (t, 1)
  | .write _ t _ _ _ => (t, 2)
  | .describe t _ _ => (t, 3)

/-- A request is committed and answered. -/
def OdReq.serve (b : MgmtBind) (r : OdReq) (w : Wk) : Wk :=
  match r with
  | .read tag ix sub off len => w.on (odRead b tag ix sub off len)
  | .write secured tag ix sub val => odWrite b secured tag ix sub val w
  | .describe tag ix sub => w.on (odDescribe b tag ix sub)

/-- The request that a row stands for, with its binding. -/
def odReqOf (i : Instr) : Option (MgmtBind × OdReq) :=
  match i with
  | .odRead b tag ix sub off len => some (b, .read tag ix.toNat sub.toNat off.toNat len)
  | .odWrite b secured tag ix sub val => some (b, .write secured tag ix.toNat sub.toNat val)
  | .odDescribe b tag ix sub => some (b, .describe tag ix.toNat sub.toNat)
  | .unitRequestOut b tag w => some (b, .write false tag 0x2900 1 (natLe 8 w.toNat))
  | .unitRequestIn b tag w => some (b, .write false tag 0x2900 1 (natLe 8 w.toNat))
  | .ladderDeviceReset b tag w => some (b, .write false tag 0x5400 1 (natLe 4 w.toNat))
  | .ladderPowerCycle b tag w => some (b, .write false tag 0x5400 1 (natLe 4 w.toNat))
  | .alarmLevelWrite b secured tag src level => some (b, .write secured tag 0x6010 src.toNat (natLe 1 level.toNat))
  | .keySlotQuotaWrite b secured tag v quota => some (b, .write secured tag (0x6200 + v.val) 1 (natLe 2 quota.toNat))
  | .fabricPackageIdWrite b tag id => some (b, .write false tag 0x1001 1 (natLe 4 id.toNat))
  | .fabricNoticeGroupHang b tag val => some (b, .write false tag 0x1030 1 val)
  | .fabricNoticePackageLost b tag val => some (b, .write false tag 0x1030 1 val)
  | _ => none

/-- Whether a request is a write of action OUT to 0x2900:01. -/
def OdReq.isOut : OdReq → Bool
  | .write _ _ ix sub val => ix == 0x2900 && sub == 1 && val.length == 8 && bits (leNat val) 35 32 == 1
  | _ => false

/-- Requests of a binding that are outstanding: the write that waits for its platform die, and those behind it. -/
def Dev.outstanding (d : Dev) (b : MgmtBind) : Nat :=
  (match d.od.confirm with | some c => if c.binding = b then 1 else 0 | none => 0) +
    (d.od.waiting.filter fun i => (odReqOf i).map Prod.fst == some b).length

/-- A request arrives (R483). While the power-management core is down, hub hardware answers BUSY, but for a unit request OUT, which
it commits. A request behind a write that waits for its platform die waits too, up to 8 of one endpoint. -/
def odArrive (i : Instr) (w : Wk) : Wk :=
  match odReqOf i with
  | none => w
  | some (b, r) =>
    let busy : Wk := w.on (odAnswer b r.head.1 r.head.2 odBusy [])
    if !w.dev.clk.powered then w
    else if !w.dev.pmUp then if r.isOut && w.dev.sec.level != 3 then r.serve b w else busy
    else if 8 ≤ w.dev.outstanding b then busy
    else if w.dev.od.confirm.isSome then w.on fun d => { d with od := { d.od with waiting := d.od.waiting ++ [i] } }
    else r.serve b w

/-- Requests that waited are served in arrival order, until one waits for its platform die. -/
def serveOd : Nat → Wk → Wk
  | 0, w => w
  | n + 1, w =>
    match w.dev.od.confirm, w.dev.od.waiting with
    | none, i :: rest =>
      let w := w.on fun d => { d with od := { d.od with waiting := rest } }
      serveOd n (match odReqOf i with
        | some (b, r) => r.serve b w
        | none => w)
    | _, _ => w

/-- CLASS_N_WRITE_CONFIRM (R480): PF-S confirms, the level is in force, and the answer is sent. -/
def doConfirm (w : Wk) : Wk :=
  match w.dev.od.confirm with
  | none => w
  | some c =>
    let w := w.on fun d =>
      let d := d.onSec fun s => { s with levels := Tab.put s.levels c.src c.level }
      odAnswer c.binding c.tag 2 0 [] { d with od := { d.od with confirm := none } }
    serveOd w.dev.od.waiting.length w

/-- CLASS_N_WRITE_CONFIRM. -/
def execClassNWriteConfirm (s : State) : Out := runMem doConfirm s

/-- OD_READ. -/
def execOdRead (b : MgmtBind) (tag : BitVec 16) (ix : BitVec 16) (sub : BitVec 8) (off : BitVec 32) (len : Nat) (s : State) : Out :=
  runMem (odArrive (.odRead b tag ix sub off len)) s
/-- OD_WRITE. -/
def execOdWrite (b : MgmtBind) (secured : Bool) (tag : BitVec 16) (ix : BitVec 16) (sub : BitVec 8) (val : List Byte) (s : State) : Out :=
  runMem (odArrive (.odWrite b secured tag ix sub val)) s
/-- OD_DESCRIBE. -/
def execOdDescribe (b : MgmtBind) (tag : BitVec 16) (ix : BitVec 16) (sub : BitVec 8) (s : State) : Out :=
  runMem (odArrive (.odDescribe b tag ix sub)) s
/-- UNIT_REQUEST_OUT: a write of 0x2900:01. -/
def execUnitRequestOut (b : MgmtBind) (tag : BitVec 16) (x : BitVec 64) (s : State) : Out := runMem (odArrive (.unitRequestOut b tag x)) s
/-- UNIT_REQUEST_IN: a write of 0x2900:01. -/
def execUnitRequestIn (b : MgmtBind) (tag : BitVec 16) (x : BitVec 64) (s : State) : Out := runMem (odArrive (.unitRequestIn b tag x)) s
/-- LADDER_DEVICE_RESET: a write of 0x5400:01. -/
def execLadderDeviceReset (b : MgmtBind) (tag : BitVec 16) (x : BitVec 32) (s : State) : Out := runMem (odArrive (.ladderDeviceReset b tag x)) s
/-- LADDER_POWER_CYCLE: a write of 0x5400:01. -/
def execLadderPowerCycle (b : MgmtBind) (tag : BitVec 16) (x : BitVec 32) (s : State) : Out := runMem (odArrive (.ladderPowerCycle b tag x)) s
/-- ALARM_LEVEL_WRITE: a write of 0x6010. -/
def execAlarmLevelWrite (b : MgmtBind) (secured : Bool) (tag : BitVec 16) (src level : BitVec 8) (s : State) : Out :=
  runMem (odArrive (.alarmLevelWrite b secured tag src level)) s
/-- KEY_SLOT_QUOTA_WRITE: a write of 0x6200 + v. -/
def execKeySlotQuotaWrite (b : MgmtBind) (secured : Bool) (tag : BitVec 16) (v : VDev) (quota : BitVec 16) (s : State) : Out :=
  runMem (odArrive (.keySlotQuotaWrite b secured tag v quota)) s
/-- FABRIC_PACKAGE_ID_WRITE: a write of 0x1001:01. -/
def execFabricPackageIdWrite (b : MgmtBind) (tag : BitVec 16) (id : BitVec 32) (s : State) : Out :=
  runMem (odArrive (.fabricPackageIdWrite b tag id)) s
/-- FABRIC_NOTICE_GROUP_HANG: a write of 0x1030:01. -/
def execFabricNoticeGroupHang (b : MgmtBind) (tag : BitVec 16) (val : List Byte) (s : State) : Out :=
  runMem (odArrive (.fabricNoticeGroupHang b tag val)) s
/-- FABRIC_NOTICE_PACKAGE_LOST: a write of 0x1030:01. -/
def execFabricNoticePackageLost (b : MgmtBind) (tag : BitVec 16) (val : List Byte) (s : State) : Out :=
  runMem (odArrive (.fabricNoticePackageLost b tag val)) s

/-! ## Notices (R484) -/

/-- The binding of a destination. -/
def destBind (x : Nat) : Option MgmtBind := if x / 2 ^ 56 = 1 then some .i3c else if x / 2 ^ 56 = 2 then some .vdm else none

/-- A notice leaves for its destination; on I3C the in-band interrupt signals it. -/
def sendNotice (n : OdNotice) (d : Dev) : Dev :=
  let x := (Tab.getD d.od.dests n.dest 0).toNat
  match destBind x with
  | none => d
  | some b =>
    let d := if b = .i3c then d.emit .ibi else d
    d.emit (.notice b (bits x 55 48) n.tag (natLe 2 n.kind ++ natLe 2 n.count ++ natLe 4 n.obj ++ sliceB n.detail 0 16))

/-- NOTIFY (R484): every notice not yet sent leaves. -/
def doNotify (d : Dev) : Dev :=
  if !d.pmUp then d
  else
    let mark (n : OdNotice) : OdNotice := { n with sent := true }
    (d.od.notices.filter fun n => !n.sent).foldl (fun d n => sendNotice n d) { d with od := { d.od with notices := d.od.notices.map mark } }

/-- NOTIFY. -/
def execNotify (s : State) : Out := runDev (fun _ d => doNotify d) s

/-- NOTIFY_ACK (R484): the notice with the tag is no longer pending. -/
def execNotifyAck (dest : Fin 4) (tag : BitVec 16) (s : State) : Out :=
  runDev (fun _ d => if !d.pmUp then d else { d with od := { d.od with
    notices := d.od.notices.filter fun n => !(n.dest == dest.val && n.tag == tag && n.sent) } }) s

/-- NOTIFY_RESEND_TIMER (R484): 100 ms have passed without acknowledgement. -/
def execNotifyResendTimer (dest : Fin 4) (tag : BitVec 16) (s : State) : Out :=
  runDev (fun _ d => if !d.pmUp then d
    else match d.od.notices.find? fun n => n.dest == dest.val && n.tag == tag && n.sent with
      | some n => sendNotice n d
      | none => d) s

/-! ## MCTP control and the I3C target (R481, R514) -/

/-- An answer to an MCTP control message, while the device has power. -/
def mctpAnswer (b : MgmtBind) (f : Dev → MctpReply) (s : State) : Out := runDev (fun _ d => if d.clk.powered then d.emit (.mctp b (f d)) else d) s

/-- The number of a binding. -/
def bindNo : MgmtBind → Nat
  | .i3c => 0
  | .vdm => 1

/-- SET_ENDPOINT_ID (R481): the ids 0x00 and 0xFF that DSP0236 reserves are refused. -/
def execSetEndpointId (b : MgmtBind) (eid : BitVec 8) (s : State) : Out :=
  runDev (fun _ d =>
    if !d.clk.powered then d
    else if eid = 0 ∨ eid = 0xFF then d.emit (.mctp b .error)
    else ({ d with od := { d.od with eids := Tab.put d.od.eids (bindNo b) eid } }).emit (.mctp b (.endpoint eid))) s
/-- GET_ENDPOINT_ID. -/
def execGetEndpointId (b : MgmtBind) (s : State) : Out := mctpAnswer b (fun d => .endpoint (Tab.getD d.od.eids (bindNo b) 0)) s
/-- GET_MCTP_VERSION_SUPPORT: MCTP Base 1.3. -/
def execGetMctpVersionSupport (b : MgmtBind) (s : State) : Out := mctpAnswer b (fun _ => .version 1 3) s
/-- GET_MESSAGE_TYPE_SUPPORT: MCTP control, SPDM, secured messages, and Vendor Defined – PCI. -/
def execGetMessageTypeSupport (b : MgmtBind) (s : State) : Out := mctpAnswer b (fun _ => .types [0x00, 0x05, 0x06, 0x7E]) s
/-- GET_VENDOR_DEFINED_MESSAGE_SUPPORT: Pusendal's PCI-SIG vendor identifier. -/
def execGetVendorDefinedMessageSupport (b : MgmtBind) (s : State) : Out := mctpAnswer b (fun _ => .vendor Config.vendorId) s

/-- I3C_ADDRESS_ASSIGN (R514): ENTDAA or SETDASA gives the target its dynamic address. -/
def execI3cAddressAssign (_how : I3cAssign) (a : BitVec 7) (s : State) : Out :=
  runDev (fun _ d => if d.clk.powered && d.od.addr.isNone then { d with od := { d.od with addr := some a } } else d) s

/-- I3C_HOT_JOIN (R514): requested once after power-good, while no address is assigned. -/
def execI3cHotJoin (s : State) : Out :=
  runDev (fun _ d => if d.clk.powered && d.od.addr.isNone && !d.od.hotJoined then
      ({ d with od := { d.od with hotJoined := true } }).emit .hotJoin
    else d) s

end Sys2Proof.Machine
end

