-- ==== Sys2Proof/Machine/Home.lean ====
section
/-! DEFINITION. The requests of cores at their home MC dies (R208 … R213, R219, R220, R222): READ_REQ, WRITE and ATOMIC. -/

namespace Sys2Proof.Machine

open Sys2Proof

/-- A request that has reached the request stage of its home and need not wait there. -/
def arrived (d : Dev) (id : Nat) (p : MKind → Bool) : Option MReq :=
  match d.mc.reqs.find? fun r => r.id == id with
  | some r => if r.stage == .sent && p r.kind && !olderFirst d r && !r.spots.any fun p => d.lineWaits p.chan p.off then some r else none
  | none => none

/-- A request is refused at its home, which its channel counts (Table 9-10), or finds its line lost, erased or poisoned: its command
fails. -/
def failReq (r : MReq) (ch : Nat) (y : Why) (w : Wk) : Wk :=
  let w := w.on fun d => d.onMc fun m => { m with reqs := m.reqs.filter fun x => x.id != r.id }
  let w := w.on fun d => match y with
    | .home _ => countCh ch 0xA d
    | _ => d
  failAccess r.vdev r.queue r.va y (w.on (misuse r.vdev y))

/-- The lines of a request, checked at its home (R208, R212, R220): for each its spot, address, set and member; or the channel
that refuses it and why. -/
def checkSpots (d : Dev) (v : Nat) : List Spot → Except (Nat × Why) (List (Spot × Nat × Nat × Nat))
  | [] => .ok []
  | p :: t =>
    match spotCheck d v p with
    | .error y => .error (p.chan, y)
    | .ok x => (checkSpots d v t).map fun l => (p, x) :: l

/-- The journal key of a request's command. -/
def reqJournal (d : Dev) (r : MReq) : JKey :=
  match d.queue? r.vdev r.queue, d.cur? r.vdev r.queue with
  | some x, some c => if c.no = r.cmd then jkey x c else none
  | _, _ => none

/-- A request that has arrived passes the checks of its home, with what the die meets: `go` performs it on its lines. Where the XTS
copies disagree the line is done again, unless that retires the die. -/
def atHome (id : Nat) (p : MKind → Bool) (f : ReadFault) (go : MReq → List (Spot × Nat × Nat × Nat) → Wk → Wk) (w : Wk) : Wk :=
  match arrived w.dev id p with
  | none => w
  | some r =>
    match checkSpots w.dev r.vdev r.spots with
    | .error (ch, y) => failReq r ch y w
    | .ok l =>
      let k := (r.spots.head?.map fun p => p.chan / 32).getD 0
      let w := if f = .xts then xtsEvent k w else w
      if (w.dev.die k).lost then w else go r l w

/-- The bytes that a request has read and written count for its command's context (Table 12-2). -/
def tally (r : MReq) (read written : Nat) (d : Dev) : Dev :=
  match d.cur? r.vdev r.queue with
  | some c => if c.no = r.cmd then countIo c.context read written d else d
  | none => d

/-- READ_REQ (R210): the home performs a read. -/
def readAtHome (f : ReadFault) (r : MReq) (l : List (Spot × Nat × Nat × Nat)) (w : Wk) : Wk :=
  match l with
  | [] => w
  | (p, a, s, j) :: _ =>
    if poisoned w.dev a then failReq r p.chan .poison w
    else
      let (ok, d) := meetLine r.vdev p.keySlot s j a f w.dev
      if ok then { w with dev := respond r (w.bytes (w.dev.keySlot p.keySlot).key a r.bytes) (tally r r.bytes 0 d) }
      else failReq r p.chan .poison { w with dev := d }

/-- READ_REQ. -/
def execReadReq (id : Nat) (bad : ReadFault) (s : State) : Out :=
  runMem (atHome id (fun k => match k with | .read _ => true | _ => false) bad (readAtHome bad)) s

/-- Store a request's bytes at its lines, saving the prior bytes of each first where its command is journaled (R419). -/
def storeLines (r : MReq) (j : JKey) : List ((Nat × Nat) × Spot × Nat × Nat × Nat) → List Byte → Wk → Wk
  | [], _, w => w
  | ((va, n), p, a, s, m) :: t, bs, w =>
    storeLines r j t (bs.drop n) (storeAt r.vdev s m a p.keySlot (bs.take n) (journalLine (jAt j va) r.vdev a (w.dev.keySlot p.keySlot).key w))

/-- WRITE (R210): the home performs a write. A write-queue parity error is made good from the cache (R219). -/
def writeAtHome (f : ReadFault) (r : MReq) (l : List (Spot × Nat × Nat × Nat)) (w : Wk) : Wk :=
  match r.kind with
  | .write bs =>
    let w' := storeLines r (reqJournal w.dev r) ((parts r.va r.bytes).zip l) bs w
    w'.on fun d => respond r [] <| tally r 0 r.bytes (if f = .queueParity then l.foldl (fun d x => countCh x.1.chan 1 d) d else d)
  | _ => w

/-- WRITE. -/
def execWrite (id : ReqAt) (s : State) : Out :=
  runMem (atHome id.id (fun k => match k with | .write _ => true | _ => false) id.bad (writeAtHome id.bad)) s

/-- ATOMIC (R210, R175, R88): the home's atomic unit performs an atomic indivisibly on its lines. -/
def atomicAtHome (f : ReadFault) (r : MReq) (l : List (Spot × Nat × Nat × Nat)) (w : Wk) : Wk :=
  match r.kind with
  | .atomic op =>
    match l.find? fun x => poisoned w.dev x.2.1 with
    | some x => failReq r x.1.chan .poison w
    | none =>
      let read (b : Bool × Dev) (x : Spot × Nat × Nat × Nat) (f : ReadFault) : Bool × Dev :=
        let (ok, d) := meetLine r.vdev x.1.keySlot x.2.2.1 x.2.2.2 x.2.1 f b.2
        (b.1 && ok, d)
      let (ok, d) := (l.drop 1).foldl (fun b x => read b x .good) ((l.take 1).foldl (fun b x => read b x f) (true, w.dev))
      let w := { w with dev := d }
      if !ok then failReq r ((l.head?.map fun x => x.1.chan).getD 0) .poison w
      else
        let ps := (parts r.va r.bytes).zip l
        let old := ps.flatMap fun x => w.bytes (w.dev.keySlot x.2.1.keySlot).key x.2.2.1 x.1.2
        (storeLines r (reqJournal w.dev r) ps (atomicBytes op old) w).on fun d => respond r [] (tally r r.bytes r.bytes d)
  | _ => w

/-- ATOMIC. -/
def execAtomic (id : ReqAt) (s : State) : Out :=
  runMem (atHome id.id (fun k => match k with | .atomic _ => true | _ => false) id.bad (atomicAtHome id.bad)) s

end Sys2Proof.Machine
end

