-- ==== Sys2Proof/Machine/KernelOps.lean ====
section
/-! DEFINITION. Core instructions that compute: the vector and function units (R138, R91), wisp (R107), counters and
identities (R155, R161), and the matrix engine (R140 … R142, R77 … R81). -/

namespace Sys2Proof.Machine

open Sys2Proof

/-! ## Vector and function units -/

/-- The registers that a value of a format occupies from r up. -/
def fmtRegs (f : Fmt) (r : Nat) : List Nat := if 32 < fmtBits f then [r, r + 1] else [r]

/-- Operands of a vector operation. -/
def vecArity : VecOp → Nat
  | .abs | .neg | .cast => 1
  | .add | .sub | .mul | .div | .max | .min => 2
  | .fma => 3

/-- The exact value of a vector operation before its rounding, whether its source counts as an integer, and the flags
raised so far (R109, R98, R59). -/
def vecValue (op : VecOp) (src : Fmt) (rdn : Bool) (a b c : Val) : Val × Bool × FlagWord :=
  let i := fmtIsInt src
  match op with
  | .add => let (v, f) := valAdd rdn a b; (v, false, f)
  | .sub => let (v, f) := valAdd rdn a (valNeg b); (v, false, f)
  | .mul => let (v, f) := valMul a b; (v, false, f)
  | .div => let (v, f) := valDiv a b; (v, false, f)
  | .fma => let (v, f) := valFma rdn a b c; (v, false, f)
  | .max => extreme true [(a, i), (b, i)]
  | .min => extreme false [(a, i), (b, i)]
  | .abs => (valAbs a, false, 0)
  | .neg => (valNeg a, false, 0)
  | .cast => (a, i, 0)

/-- One lane of a vector operation: its result's registers and flags (R138, R139). -/
def vecLane (op : VecOp) (src dst : Fmt) (rm : RoundMode) (rs : List Nat) (ru : Nat) (x : KGroup) (l : Nat) :
    List (BitVec 32) × FlagWord :=
  let v (i : Nat) : Val := decodeElem src (x.operand l (rs.getD i 0) (fmtBits src))
  let (r, i, f) := vecValue op src (rm == .rdn) (v 0) (v 1) (v 2)
  let u := if rm == .sr then (x.reg l ru).toNat else 0
  let (b, g) := castElem dst rm u i r
  (regWords (fmtBits dst) b, f ||| g)

/-- VECTOR_OP (R138): each active lane computes exactly and rounds once in the mode the instruction names. -/
def execVectorOp (n : CoreAt) (g : Nat) (mask : BitVec 32) (op : VecOp) (src dst : Fmt) (rm : RoundMode) (rd : Nat)
    (rs : List Nat) (ru : Nat) (s : State) : Out :=
  coreStep n g (fun w => w.on fun d =>
    if !fmtIsLane src || !fmtIsLane dst || rs.length ≠ vecArity op then d
    else
      let uses := fmtRegs dst rd ++ rs.flatMap (fmtRegs src) ++ (if rm == .sr then [ru] else [])
      laneInstr n.core.val g mask uses rd (fun a l => vecLane op src dst rm rs ru a.grp l) d) s

/-- One lane of a function (R91, R95). -/
def fnLane (fn : FnCode) (src dst : Fmt) (rm : RoundMode) (rs ru : Nat) (x : KGroup) (l : Nat) : List (BitVec 32) × FlagWord :=
  let r := fnEval fn (src == .fp64 || dst == .fp64) src (decodeElem src (x.operand l rs (fmtBits src)))
  let u := if rm == .sr then (x.reg l ru).toNat else 0
  let (b, g) := resBits dst rm u (.fn r)
  (regWords (fmtBits dst) b, r.fl ||| g)

/-- FUNCTION_OP (R91): each active lane computes a correctly rounded function. FP64 is not a format of erf or of the
composites (R90). DESIGN CHOICE (log entry 74; the formats of core code are another book's): a block-scaled source or destination leaves
the state as it is, and an integer destination is computed with the CAST rules. -/
def execFunctionOp (n : CoreAt) (g : Nat) (mask : BitVec 32) (fn : FnCode) (src dst : Fmt) (rm : RoundMode) (rd rs ru : Nat)
    (s : State) : Out :=
  coreStep n g (fun w => w.on fun d =>
    if !fmtIsLane src || !fmtIsLane dst || ((src == .fp64 || dst == .fp64) && !fnFp64Ok fn) then d
    else
      let uses := fmtRegs dst rd ++ fmtRegs src rs ++ (if rm == .sr then [ru] else [])
      laneInstr n.core.val g mask uses rd (fun a l => fnLane fn src dst rm rs ru a.grp l) d) s

/-- WISP (R107): y0 … y3 of the block for a stream id, an element index and a draw number, under the command's key. A
kernel whose binary does not declare WISP holds no such instruction (R153). -/
def execWisp (n : CoreAt) (g : Nat) (mask : BitVec 32) (rd rStream rElem rDraw : Nat) (s : State) : Out :=
  coreStep n g (fun w => w.on fun d =>
    laneInstr n.core.val g mask ([rd, rd + 1, rd + 2, rd + 3, rStream, rElem, rElem + 1, rDraw]) rd (fun a l =>
      if !hdrWisp a.cmd.hdr then ([], 0)
      else
        let y := wispBlock a.cmd.key (a.grp.reg l rStream) (a.grp.pair l rElem) (a.grp.reg l rDraw)
        ([y.a, y.b, y.c, y.d], 0)) d) s

/-! ## Counters and identities -/

/-- COUNTER_READ (R155): a count since the start of the attempt. -/
def execCounterRead (n : CoreAt) (g : Nat) (mask : BitVec 32) (ctr : Fin 13) (rd : Nat) (s : State) : Out :=
  coreStep n g (fun w => w.on fun d =>
    let c := n.core.val
    laneInstr c g mask [rd, rd + 1] rd (fun a _ =>
      let from_ := if coreHub c = 0 then a.run.start.1 else a.run.start.2
      let x := coreCount c ctr.val (Tab.getD a.run.base c []) (d.core c).ctr from_.toNat (d.hlc (coreHub c)).toNat
      (regWords 64 x.toNat, 0)) d) s

/-- An identity of a thread (Table 7-2), or of the place it runs in (R161). -/
def identityOf (a : KAt) (g l : Nat) : Identity → Nat
  | .groupX => g % max 1 (klGrid a.cmd.params 0)
  | .groupY => g / max 1 (klGrid a.cmd.params 0) % max 1 (klGrid a.cmd.params 1)
  | .groupZ => g / max 1 (klGrid a.cmd.params 0 * klGrid a.cmd.params 1)
  | .group => g
  | .lane => l
  | .thread => threadNo g l
  | .cohort => a.cmd.cohortOf g
  | .cohortGroup => g % max 1 (klCohort a.cmd.params)
  | .core => a.grp.core
  | .cluster => a.grp.core / 68
  | .die => a.grp.core / 136
  | .slot => a.grp.slot
  | .flags | .takeFlags => (Tab.getD a.grp.flags l 0).toNat

/-- The width of an identity: a logical thread number takes 36 bits. -/
def identityBits : Identity → Nat
  | .thread => 36
  | _ => 32

/-- The sticky flags of a group's lanes are cleared (R63). -/
def clearFlags (n g : Nat) (mask : BitVec 32) (d : Dev) : Dev :=
  match d.at? n g with
  | none => d
  | some a =>
    match activeLanes d a g mask [] with
    | none => d
    | some ls => d.setRun a.no (a.run.onG g fun x => { x with flags := x.flags.filter fun f => !ls.contains f.1 })

/-- IDENTITY_READ (R161), and a thread's read of its own sticky flags, which it may clear with it (R63). -/
def execIdentityRead (n : CoreAt) (g : Nat) (mask : BitVec 32) (id : Identity) (rd : Nat) (s : State) : Out :=
  coreStep n g (fun w => w.on fun d =>
    let uses := if 32 < identityBits id then [rd, rd + 1] else [rd]
    let reads := match d.at? n.core.val g with
      | some a => (activeLanes d a g mask uses).isSome
      | none => false
    let d := laneInstr n.core.val g mask uses rd (fun a l => (regWords (identityBits id) (identityOf a g l id), 0)) d
    if reads && id == .takeFlags then clearFlags n.core.val g mask d else d) s

/-! ## The matrix engine -/

/-- Positions of the engine. -/
def mxPositions : Nat := 16384

/-- Entries of the spill queue (R80). -/
def spillRoom : Nat := 256

/-- The matrix engine of a core in a run. -/
def KRun.engine (r : KRun) (core : Nat) : Mx := Tab.getD r.engines core Mx.empty

/-- The windows of a set. -/
def Mx.winSet (m : Mx) (s : Bool) : Tab Win := if s then m.set1 else m.set0

/-- Replace the windows of a set. -/
def Mx.setWins (m : Mx) (s : Bool) (t : Tab Win) : Mx := if s then { m with set1 := t } else { m with set0 := t }

/-- A window as the arithmetic of R78 takes it. -/
def Win.toWindow (w : Win) : Window := ⟨w.w.toInt, w.base, w.nan, w.pinf, w.ninf⟩

/-- A window as the engine holds it. -/
def winOf (w : Window) : Win := ⟨BitVec.ofInt 128 w.w, w.base, w.nan, w.pinf, w.ninf⟩

/-- An empty window. -/
def Win.empty : Win := winOf Window.empty

/-- The elements of a tile of `mma`: rows of 32 for A, 32 rows of 128 for B, packed under R51 (R140). -/
def tileElems (x : KGroup) (ws : Nat) (t : TileArg) : List Nat :=
  let bs := x.bytes ws (alignDown t.base 256).1 (packedBytes t.fmt 4096)
  (List.range 4096).map (unpackElem t.fmt bs)

/-- The value of an element under its scale. -/
def tileVal (t : TileArg) (scales : List Byte) (line e : Nat) : Val :=
  if fmtIsMx t.fmt then decodeMx t.fmt e (scales.getD line 0).toNat else decodeElem t.fmt e

/-- Terms arrive at a window one by one; those that spill leave words for the peat store (R78, R79). -/
def windowTerms : List Val → Window → Window × List Int
  | [], w => (w, [])
  | v :: vs, w =>
    let (w, p) := windowAdd w v
    let (w, ps) := windowTerms vs w
    (w, p.toList ++ ps)

/-- The spills of one position. -/
def spillsOf (pos : Nat) (set : Bool) (ps : List Int) : List Spill :=
  ps.map fun i => ⟨pos, set, ⟨BitVec.ofInt 640 i, false, false, false⟩⟩

/-- The head of the spill queue can enter the peat store: its slot is free or its set's (R142). -/
def Mx.spillReady (m : Mx) : Bool :=
  match m.queue with
  | [] => true
  | p :: _ => match Tab.get? m.slots p.pos with
    | some s => s.set == p.set
    | none => true

/-- The head spill enters its slot (R79, R142). -/
def Mx.takeSpill (m : Mx) : Mx :=
  match m.queue with
  | [] => m
  | p :: rest =>
    match Tab.get? m.slots p.pos with
    | none => { m with
        queue := rest
        slots := Tab.put m.slots p.pos ⟨p.word, p.set⟩ }
    | some s => if s.set == p.set then { m with
        queue := rest
        slots := Tab.put m.slots p.pos ⟨peatAdd s.word p.word, s.set⟩ } else m

/-- Spills join the queue of 256 entries; while it is full the engine stalls until its head has entered the store (R80). None
where the head waits for a slot of the other set (R142). -/
def Mx.pushSpills (m : Mx) : List Spill → Option Mx
  | [] => some m
  | p :: ps =>
    if m.queue.length < spillRoom then Mx.pushSpills { m with queue := m.queue ++ [p] } ps
    else if m.spillReady then
      let m := m.takeSpill
      Mx.pushSpills { m with queue := m.queue ++ [p] } ps
    else none

/-- An `mma` on an engine: the 32 terms of each position are added to its window, and what spills joins the queue (R140, R79):
the engine, the flags and the number of spills. None while the engine stalls on slot ownership. -/
def mmaEngine (set : Bool) (av bv : Nat → Val) (m : Mx) : Option (Mx × FlagWord × Nat) :=
  let cells := (List.range mxPositions).map fun pos =>
    let ts := (List.range 32).map fun k => termMul (av (32 * (pos / 128) + k)) (bv (128 * k + pos % 128))
    let (w, ps) := windowTerms (ts.map Prod.fst) (Tab.getD (m.winSet set) pos Win.empty).toWindow
    (pos, winOf w, ps, orFlags (ts.map Prod.snd))
  let wins := (cells.map fun c => (c.1, c.2.1)).filter fun c => c.2 != Win.empty
  let spills := cells.flatMap fun c => spillsOf c.1 set c.2.2.1
  ((m.setWins set wins).pushSpills spills).map fun m => (m, orFlags (cells.map fun c => c.2.2.2), spills.length)

/-- Bytes of a tile and its scales as accesses. -/
def tileLoads (g l ws : Nat) (x : KGroup) (t : TileArg) : List (Nat × Loc × AccKind × Byte) :=
  let base := (alignDown t.base 256).1
  csAccess g l base .load (x.bytes ws base (packedBytes t.fmt 4096)) ++
    (if fmtIsMx t.fmt then csAccess g l t.scales .load (x.bytes ws t.scales 128) else [])

/-- Flags of a tile operand's place: INVALID where its base was rounded, or where it runs past the window (R164). -/
def tileFlags (ws : Nat) (t : TileArg) : FlagWord :=
  let (base, f) := alignDown t.base 256
  f ||| fIf (decide (ws < base + packedBytes t.fmt 4096) || (fmtIsMx t.fmt && decide (ws < t.scales + 128))) fInvalid

/-- MMA (R140): a group adds the products of two tiles of its window to a window set of its core's engine. It waits while
the engine stalls on a full spill queue whose head waits for a slot (R80, R142). Its flags go to the lowest active thread
(R139). -/
def doMma (n g : Nat) (sel : MxSel) (ta tb : TileArg) (w : Wk) : Wk :=
  match w.dev.at? n g with
  | none => w
  | some a =>
    match activeLanes w.dev a g sel.mask [] with
    | none => w
    | some ls =>
      if !fmtIsEngine ta.fmt || !fmtIsEngine tb.fmt then w
      else
        let l := ls.headD 0
        let ws := a.cmd.ws
        let ae := tileElems a.grp ws ta
        let be := tileElems a.grp ws tb
        let sa := a.grp.bytes ws ta.scales 128
        let sb := a.grp.bytes ws tb.scales 128
        match mmaEngine sel.set (fun i => tileVal ta sa (i / 32) (ae.getD i 0)) (fun i => tileVal tb sb (i % 128) (be.getD i 0))
            (a.run.engine n) with
        | none => w
        | some (m, fl, spills) =>
          let r := { a.run with engines := Tab.put a.run.engines n m }
          let r := r.onG g (KGroup.addFlags l (fl ||| tileFlags ws ta ||| tileFlags ws tb))
          let (r, x) := watchInstr a g (tileLoads g l ws a.grp ta ++ tileLoads g l ws a.grp tb) r
          putRun a.no r x (w.on fun d => countCore n 4 spills (countCore n 3 (32 * mxPositions) d))

/-- MMA. -/
def execMma (n : CoreAt) (g : Nat) (set : MxSel) (a b : TileArg) (s : State) : Out := coreStep n g (doMma n.core.val g set a b) s

/-- The running kernel of a core. -/
def Dev.runOn (d : Dev) (n : Nat) : Option (Nat × KRun) :=
  d.kern.find? fun (no, r) => !r.stopped && (Tab.get? r.engines n).isSome &&
    ((d.core n).busy == some no || (d.core n).switched == some no)

/-- PEAT_SPILL (R79): the head of the spill queue enters the peat store. A parity error of the queue or the store replays the
command (R80). -/
def execPeatSpill (n : CoreAt) (s : State) : Out :=
  runMem (fun w => match w.dev.runOn n.core.val with
    | none => w
    | some (no, r) =>
      match n.bad with
      | some m => replayCmd r.vdev r.queue [n.core.val] (w.on (parityEvent n.core.val (coreMemPlace m)))
      | none => w.on fun d => d.setRun no { r with engines := Tab.put r.engines n.core.val (r.engine n.core.val).takeSpill }) s

/-- A set is emptied; its slots are cleared and released (R141). -/
def Mx.emptySet (m : Mx) (s : Bool) : Mx :=
  { m.setWins s [] with slots := m.slots.filter fun k => k.2.set != s, queue := m.queue.filter fun p => p.set != s }

/-- The final value of a position (R81). -/
def Mx.final (m : Mx) (s : Bool) (pos : Nat) : Peat :=
  let w := (Tab.getD (m.winSet s) pos Win.empty).toWindow
  match Tab.get? m.slots pos with
  | some k => if k.set == s then windowPlusSlot w k.word else windowPlusSlot w Peat.zero
  | none => windowPlusSlot w Peat.zero

/-- The draw of a position under SR (R141). -/
def drainDraw (key : BitVec 128) (rm : RoundMode) (stream : BitVec 32) (elem : BitVec 64) (draw : BitVec 32) (pos : Nat) : Nat :=
  if rm == .sr then wispDraw key stream (elem + BitVec.ofNat 64 pos) draw else 0

/-- Fragments of words and the full words that follow them (R84, R85). -/
def fragStream (ps : List Peat) : List Byte :=
  let (fs, full) := ps.foldl (fun (acc : List (List Byte) × List (List Byte)) p =>
    let (f, isFull) := fragEncode p acc.2.length
    (natLe 32 f.toNat :: acc.1, if isFull then peatBytes p :: acc.2 else acc.2)) ([], [])
  fs.reverse.flatten ++ full.reverse.flatten

/-- What a drain writes: bytes at offsets of the window, and its flags (Table 6-4). A rounding drain names a plain element
format, a ROUND_MX drain a block-scaled one. -/
def drainBytes (key : BitVec 128) (dst : Nat) (mode : DrainMode) (ps : List Peat) : Option (List (Nat × List Byte) × FlagWord) :=
  match mode with
  | .round f rm st el dr =>
    if !fmtIsLane f then none
    else
      let es := ps.zipIdx.map fun (p, i) => peatRoundElem f rm (drainDraw key rm st el dr i) p
      some ([(dst, packElems f (es.map Prod.fst))], orFlags (es.map Prod.snd))
  | .roundMx f rm scales st el dr =>
    if !fmtIsMx f then none
    else
      let blocks := (chunksOf 32 ps).zipIdx.map fun (b, i) =>
        castBlock f rm (b.map fun p => (peatVal p, false)) ((List.range 32).map fun k => drainDraw key rm st el dr (32 * i + k))
      some ([(dst, packElems f (blocks.flatMap fun b => b.2.1.map Prod.fst)), (scales, blocks.map fun b => BitVec.ofNat 8 b.1)],
        orFlags (blocks.map fun b => b.2.2 ||| orFlags (b.2.1.map Prod.snd)))
  | .fragment => some ([(dst, fragStream ps)], 0)
  | .peat => some ([(dst, ps.flatMap peatBytes)], 0)

/-- The destination of a drain: PEAT and FRAGMENT drains write units at multiples of 32, and a start that is none is rounded
down with INVALID (R68, R83, R164). -/
def drainBase (mode : DrainMode) (dst : Nat) : Nat × FlagWord :=
  match mode with
  | .fragment | .peat => alignDown dst 32
  | _ => (dst, 0)

/-- MDRAIN (R141): the final values of a set are written in the named mode, and the set is emptied and released. It waits
until the set's spills have left the spill queue. Its flags go to the lowest active thread (R139). -/
def doMdrain (n g : Nat) (sel : MxSel) (dst : Nat) (mode : DrainMode) (w : Wk) : Wk :=
  match w.dev.at? n g with
  | none => w
  | some a =>
    match activeLanes w.dev a g sel.mask [] with
    | none => w
    | some ls =>
      let l := ls.headD 0
      let m := a.run.engine n
      let (base, f) := drainBase mode dst
      if m.queue.any fun p => p.set == sel.set then w
      else match drainBytes a.cmd.key base mode ((List.range mxPositions).map (m.final sel.set)) with
        | none => w
        | some (runs, fl) =>
          let ws := a.cmd.ws
          let bytes := runs.flatMap fun (o, bs) => bs.zipIdx.map fun (b, i) => (o + i, b)
          let (x, race) := storeAll ws (bytes.map fun (o, b) => (threadNo g l, o, b)) a.grp
          let out := bytes.any fun (o, _) => decide (ws ≤ o)
          let x := x.addFlags l (fl ||| f ||| fIf out fInvalid)
          let r := { a.run with
            engines := Tab.put a.run.engines n (m.emptySet sel.set)
            groups := Tab.put a.run.groups g x }
          let (r, y) := watchInstr a g ((bytes.filter fun p => decide (p.1 < ws)).map fun (o, b) => (l, .store g o, .store, b)) r
          putRun a.no r (firstRace race y) w

/-- MDRAIN. -/
def execMdrain (n : CoreAt) (g : Nat) (set : MxSel) (dst : Nat) (mode : DrainMode) (s : State) : Out :=
  coreStep n g (doMdrain n.core.val g set dst mode) s

/-- MCLEAR (R141): a set is emptied, and its slots cleared and released, without writing anything. -/
def execMclear (n : CoreAt) (g : Nat) (set : MxSel) (s : State) : Out :=
  coreStep n g (fun w => w.on fun d =>
    match d.at? n.core.val g with
    | none => d
    | some a =>
      if (activeLanes d a g set.mask []).isNone then d
      else d.setRun a.no { a.run with engines := Tab.put a.run.engines n.core.val ((a.run.engine n.core.val).emptySet set.set) }) s

end Sys2Proof.Machine
end

