-- ==== Sys2Proof/Machine/Packets.lean ====
section
/-! DEFINITION. Packets that reach their endpoint (R197, R198) and the links that carry them (R193, R199). -/

namespace Sys2Proof.Machine

open Sys2Proof

/-- `VDEV` of a packet header. -/
def pkVdev (h : BitVec 128) : Nat := bits h.toNat 94 87
/-- `KEYSLOT`. -/
def pkKey (h : BitVec 128) : Nat := bits h.toNat 70 61

/-- The command that runs on the endpoint which sent a packet, with its virtual device and queue. -/
def Dev.senderCmd (d : Dev) (h : BitVec 128) : Option (Nat × Nat) :=
  (d.currents fun v c => v == pkVdev h && d.worksFor (pkSrc h).toNat v c).head?

/-- The line that a memory packet names, as the MC die that it reached decodes it. An address outside the die's channels keeps a channel
of the die, and is refused there (R208). -/
def packetSpot (d : Dev) (h : BitVec 128) : Spot :=
  let k := (pkDest h).toNat - 0xA00
  match (d.setSeen (mcOf k) (pkVdev h) (bits (pkAddr h) 47 38)).decode (pkAddr h) with
  | some (ch, off) => ⟨pkAddr h, pkKey h, if ch / 32 = k then ch else 32 * k, off⟩
  | none => ⟨pkAddr h, pkKey h, 32 * k, 0⟩

/-- A memory packet is refused at its home (R208, R212), or finds its line erased, lost or poisoned: the command that sent it fails. -/
def refusePacket (h : BitVec 128) (ch : Nat) (y : Why) (w : Wk) : Wk :=
  let w := w.on fun d => misuse (pkVdev h) y (match y with | .home _ => countCh ch 0xA d | _ => d)
  match w.dev.senderCmd h with
  | some (v, q) => failAccess v q (pkAddr h) y w
  | none => w

/-- The response to a packet: on its channel, with its tag (R191). -/
def replyPacket (kind len : Nat) (payload : List Byte) (h : BitVec 128) (w : Wk) : Wk :=
  w.on fun d => { d with net := d.net.send (packetHeader kind (pkVc h) len (pkSrc h) (pkDest h) (pkVdev h) (pkTag h).toNat (pkKey h) (pkAddr h)) payload }

/-- The runs of a line's bytes whose mask bit is 1 (R197). -/
def maskedRuns (mask : Nat) (line : List Byte) : Nat → List (Nat × List Byte)
  | 0 => []
  | n + 1 =>
    let i := line.length - (n + 1)
    let rest := maskedRuns mask line n
    if !bitAt mask i then rest
    else match rest with
      | (o, bs) :: t => if o = i + 1 then (i, line.getD i 0 :: bs) :: t else (i, [line.getD i 0]) :: rest
      | [] => [(i, [line.getD i 0])]

/-- A memory packet reaches its home MC die (R197, R210): READ_REQ answers the line; WRITE writes a whole line, or with LEN 3 the bytes
whose mask bit is 1. An ATOMIC is a request of a core's thread and is performed there (row ATOMIC): the manual gives its payload no
layout. -/
def memoryPacket (h : BitVec 128) (bs : List Byte) (w : Wk) : Wk :=
  let p := packetSpot w.dev h
  let v := pkVdev h
  match spotCheck w.dev v p with
  | .error y => refusePacket h p.chan y w
  | .ok (a, s, j) =>
    let a := lineOf a
    let key := (w.dev.keySlot p.keySlot).key
    let jk : JKey := match w.dev.senderCmd h with
      | some (u, q) => match w.dev.queue? u q, w.dev.cur? u q with
        | some x, some c => jkey x c
        | _, _ => none
      | none => none
    match pkKind h with
    | 1 =>
      if poisoned w.dev a then refusePacket h p.chan .poison w
      else replyPacket 2 2 (w.bytes key a 64) h (w.on (readLine v p.keySlot a))
    | 3 =>
      let runs := if pkLen h = 2 then [(0, bs)] else maskedRuns (fieldLe bs 0 8) (sliceB bs 32 64) 64
      let w := if runs.isEmpty then w else journalLine (jAt jk (pkAddr h)) v a key w
      replyPacket 4 0 [] h (runs.foldl (fun w r => storeAt v s j (a + r.1) p.keySlot r.2 w) w)
    | _ => w

/-- A PEER_WRITE packet reaches a core (R168, R197): its bytes go to the core-store offset, in the window of the group that holds it. -/
def peerPacket (h : BitVec 128) (bs : List Byte) (d : Dev) : Dev :=
  let n := (pkDest h).toNat
  let place (ws : Nat) (x : KGroup) : KGroup :=
    bs.zipIdx.foldl (fun x b =>
      let o := pkAddr h + b.2
      if x.slot * ws ≤ o ∧ o < (x.slot + 1) * ws then { x with store := Tab.put x.store (o - x.slot * ws) b.1 } else x) x
  { d with kern := d.kern.map fun (no, r) => (no, if r.vdev != pkVdev h then r else match d.curNo no with
    | some c => { r with groups := r.groups.map fun (g, x) => (g, if x.core = n then place c.ws x else x) }
    | none => r) }

/-- A packet reaches its destination (R197, R198): a memory request is performed and answered, a response takes its place at the endpoint
that asked, peat messages and management traffic are placed. CONTROL packets carry what the rows of fences, aborts and maps do. -/
def deliverPacket (h : BitVec 128) (bs : List Byte) (w : Wk) : Wk :=
  let w := w.on fun d => { d with net := d.net.accepted h }
  let m := BitVec.ofNat 16 (bits (pkAddr h) 47 32)
  let atMc : Bool := decide (0xA00 ≤ (pkDest h).toNat) && decide ((pkDest h).toNat < 0xA20)
  match pkKind h with
  | 1 => if atMc then memoryPacket h bs w else w
  | 3 => if atMc then memoryPacket h bs w else w
  | 7 => if (pkDest h).toNat < 2176 then w.on (peerPacket h bs) else w
  | 8 => placeFragments (pkDest h) (pkSrc h) m (bits (pkAddr h) 31 0) (segFragments bs) w
  | 9 => placeWord (pkDest h) (pkSrc h) m (bits (pkAddr h) 31 0) (BitVec.ofNat 768 (leNat bs)) w
  | 11 => w.on (arriveMgmt (pkDest h) (pkSrc h) bs)
  | _ => w

/-- PACKET_RECEIVE (R193, R199): one direction of a link receives the packet it carries next. With good parity the packet is
acknowledged by its link sequence number and waits for its next link, or is delivered; with bad parity it is discarded and
asked for again, until the link is retired at its limits. -/
def doPacket (h : Hop) (hdr : BitVec 128) (payload : List Byte) (bad : Bool) (w : Wk) : Wk :=
  let l := h.1
  if w.dev.net.retired.contains l then w
  else match w.dev.net.carried h hdr payload with
    | none => w
    | some f =>
      let w := if w.dev.net.enters h then w.on fun d => { d with net := d.net.injected hdr } else w
      if bad then
        w.on fun d =>
          let now := d.hlc (linkHub l)
          let d := { d with net := d.net.onLink h fun o => o.failed f now }
          let recent (a : Bool) : Nat := ((d.net.link (l, a)).errors.filter fun t => within now t 1000).length
          let n := ((d.net.link h).retry.map Prod.snd).getD 0
          if 4 ≤ n || 8 ≤ recent true + recent false then retireLink l d else d.emit (.linkResend h)
      else
        let w := w.on fun d =>
          let x := d.net.onLink h fun o => o.passed f
          { d with net := x }.emit (.linkAck h (x.link h).accepted)
        match f.route.tail with
        | [] => deliverPacket hdr payload w
        | rest => w.on fun d => { d with net := d.net.enqueue { f with route := rest } }

/-- PACKET_RECEIVE. -/
def execPacketReceive (l : Hop) (p : Packet) (parityBad : Bool) (s : State) : Out :=
  runMem (doPacket l p.hdr p.payload parityBad) s

end Sys2Proof.Machine
end

