-- ==== Sys2Proof/Machine/Dispatch.lean ====
section
/-! DEFINITION. The meaning of every command: one arm for each constructor. -/

namespace Sys2Proof.Machine

open Sys2Proof

/-- The effect of a command on everything but the queue. -/
def exec (i : Instr) (s : State) : Host.Outcome State Fault Refusal :=
  match i with
  | .registerWrite fn off bytes => Sys2Proof.Machine.execRegisterWrite fn off bytes s
  | .doorbell v off bytes => Sys2Proof.Machine.execDoorbell v off bytes s
  | .doorbellRetry v q w => Sys2Proof.Machine.execDoorbellRetry v q w s
  | .cqHeadWrite v q w => Sys2Proof.Machine.execCqHeadWrite v q w s
  | .xltSync v w => Sys2Proof.Machine.execXltSync v w s
  | .xltMoveAndSync v w => Sys2Proof.Machine.execXltMoveAndSync v w s
  | .syncMasterReadDone v data => Sys2Proof.Machine.execSyncMasterReadDone v data s
  | .rangeInvalidation v n => Sys2Proof.Machine.execRangeInvalidation v n s
  | .invalidationAck v n => Sys2Proof.Machine.execInvalidationAck v n s
  | .movePageCopyDone v hostOk hostData => Sys2Proof.Machine.execMovePageCopyDone v hostOk hostData s
  | .faultRespFail v w => Sys2Proof.Machine.execFaultRespFail v w s
  | .mbxGo c w => Sys2Proof.Machine.execMbxGo c w s
  | .mbxWithdraw c => Sys2Proof.Machine.execMbxWithdraw c s
  | .mbxDone c w => Sys2Proof.Machine.execMbxDone c w s
  | .noticeSend => Sys2Proof.Machine.execNoticeSend s
  | .evcClaim c p => Sys2Proof.Machine.execEvcClaim c p s
  | .evcEoi c p => Sys2Proof.Machine.execEvcEoi c p s
  | .evcHoldTimer c src => Sys2Proof.Machine.execEvcHoldTimer c src s
  | .msixVectorControlWrite fn vec mask => Sys2Proof.Machine.execMsixVectorControlWrite fn vec mask s
  | .msixModerationTimer fn vec => Sys2Proof.Machine.execMsixModerationTimer fn vec s
  | .adminTailWrite fn w => Sys2Proof.Machine.execAdminTailWrite fn w s
  | .evHeadWrite fn w => Sys2Proof.Machine.execEvHeadWrite fn w s
  | .negotiate fn => Sys2Proof.Machine.execNegotiate fn s
  | .createQueue v => Sys2Proof.Machine.execCreateQueue v s
  | .readBacklog v => Sys2Proof.Machine.execReadBacklog v s
  | .createContext v => Sys2Proof.Machine.execCreateContext v s
  | .destroyContext v => Sys2Proof.Machine.execDestroyContext v s
  | .createFence v => Sys2Proof.Machine.execCreateFence v s
  | .destroyFence v => Sys2Proof.Machine.execDestroyFence v s
  | .signalFence v => Sys2Proof.Machine.execSignalFence v s
  | .readFence v => Sys2Proof.Machine.execReadFence v s
  | .exportFence v => Sys2Proof.Machine.execExportFence v s
  | .importFence v => Sys2Proof.Machine.execImportFence v s
  | .revokeExport v => Sys2Proof.Machine.execRevokeExport v s
  | .destroyQueue v => Sys2Proof.Machine.execDestroyQueue v s
  | .destroyGraceExpiry v slot => Sys2Proof.Machine.execDestroyGraceExpiry v slot s
  | .destroyComplete v slot => Sys2Proof.Machine.execDestroyComplete v slot s
  | .releaseRange v => Sys2Proof.Machine.execReleaseRange v s
  | .releaseRangeForce v => Sys2Proof.Machine.execReleaseRangeForce v s
  | .releaseComplete v slot => Sys2Proof.Machine.execReleaseComplete v slot s
  | .fenceSlotRelease v slot => Sys2Proof.Machine.execFenceSlotRelease v slot s
  | .definePartition v => Sys2Proof.Machine.execDefinePartition v s
  | .prefetch v => Sys2Proof.Machine.execPrefetch v s
  | .endWarming v => Sys2Proof.Machine.execEndWarming v s
  | .warmingTimeout v p => Sys2Proof.Machine.execWarmingTimeout v p s
  | .defineSet v => Sys2Proof.Machine.execDefineSet v s
  | .joinGroup v => Sys2Proof.Machine.execJoinGroup v s
  | .leaveGroup v => Sys2Proof.Machine.execLeaveGroup v s
  | .compose => Sys2Proof.Machine.execCompose s
  | .resetFunction => Sys2Proof.Machine.execResetFunction s
  | .freeze => Sys2Proof.Machine.execFreeze s
  | .freezeGraceExpiry v => Sys2Proof.Machine.execFreezeGraceExpiry v s
  | .save destOk => Sys2Proof.Machine.execSave destOk s
  | .restore blob intact => Sys2Proof.Machine.execRestore blob intact s
  | .thaw => Sys2Proof.Machine.execThaw s
  | .discard => Sys2Proof.Machine.execDiscard s
  | .exposeHdm => Sys2Proof.Machine.execExposeHdm s
  | .withdrawHdm => Sys2Proof.Machine.execWithdrawHdm s
  | .hdmDecoderCommit p d base size => Sys2Proof.Machine.execHdmDecoderCommit p d base size s
  | .hdmDecoderDecommit p d newSize => Sys2Proof.Machine.execHdmDecoderDecommit p d newSize s
  | .cxlMemRead p a => Sys2Proof.Machine.execCxlMemRead p a s
  | .cxlMemWrite p a line => Sys2Proof.Machine.execCxlMemWrite p a line s
  | .hostWindowRead v off n => Sys2Proof.Machine.execHostWindowRead v off n s
  | .hostWindowWrite v off bytes => Sys2Proof.Machine.execHostWindowWrite v off bytes s
  | .functionLevelReset t => Sys2Proof.Machine.execFunctionLevelReset t s
  | .hostPortReset p => Sys2Proof.Machine.execHostPortReset p s
  | .vfEnable v on => Sys2Proof.Machine.execVfEnable v on s
  | .atsInvalidation fn page count => Sys2Proof.Machine.execAtsInvalidation fn page count s
  | .priResponse fn page r => Sys2Proof.Machine.execPriResponse fn page r s
  | .priReenable fn => Sys2Proof.Machine.execPriReenable fn s
  | .hostReadError id => Sys2Proof.Machine.execHostReadError id s
  | .ideKm p stream key => Sys2Proof.Machine.execIdeKm p stream key s
  | .ideIntegrityFail p stream read => Sys2Proof.Machine.execIdeIntegrityFail p stream read s
  | .getTdispVersion v => Sys2Proof.Machine.execGetTdispVersion v s
  | .getTdispCapabilities v => Sys2Proof.Machine.execGetTdispCapabilities v s
  | .lockInterfaceRequest v stream => Sys2Proof.Machine.execLockInterfaceRequest v stream s
  | .startInterfaceRequest v => Sys2Proof.Machine.execStartInterfaceRequest v s
  | .stopInterfaceRequest v => Sys2Proof.Machine.execStopInterfaceRequest v s
  | .getDeviceInterfaceReport v => Sys2Proof.Machine.execGetDeviceInterfaceReport v s
  | .getDeviceInterfaceState v => Sys2Proof.Machine.execGetDeviceInterfaceState v s
  | .sriovConfigChange v => Sys2Proof.Machine.execSriovConfigChange v s
  | .getVersion t => Sys2Proof.Machine.execGetVersion t s
  | .getCapabilities t => Sys2Proof.Machine.execGetCapabilities t s
  | .negotiateAlgorithms t offer => Sys2Proof.Machine.execNegotiateAlgorithms t offer s
  | .getDigests t => Sys2Proof.Machine.execGetDigests t s
  | .getCertificate t slot off len => Sys2Proof.Machine.execGetCertificate t slot off len s
  | .challenge t slot nonce => Sys2Proof.Machine.execChallenge t slot nonce s
  | .getMeasurements t index => Sys2Proof.Machine.execGetMeasurements t index s
  | .keyExchange t => Sys2Proof.Machine.execKeyExchange t s
  | .finish t session => Sys2Proof.Machine.execFinish t session s
  | .keyUpdate t session => Sys2Proof.Machine.execKeyUpdate t session s
  | .heartbeat t session => Sys2Proof.Machine.execHeartbeat t session s
  | .endSession t session => Sys2Proof.Machine.execEndSession t session s
  | .generate v tag => Sys2Proof.Machine.execGenerate v tag s
  | .importKey v tag keys => Sys2Proof.Machine.execImportKey v tag keys s
  | .erase v tag slot => Sys2Proof.Machine.execErase v tag slot s
  | .listKeys v tag => Sys2Proof.Machine.execListKeys v tag s
  | .setEndpointId b eid => Sys2Proof.Machine.execSetEndpointId b eid s
  | .getEndpointId b => Sys2Proof.Machine.execGetEndpointId b s
  | .getMctpVersionSupport b => Sys2Proof.Machine.execGetMctpVersionSupport b s
  | .getMessageTypeSupport b => Sys2Proof.Machine.execGetMessageTypeSupport b s
  | .getVendorDefinedMessageSupport b => Sys2Proof.Machine.execGetVendorDefinedMessageSupport b s
  | .i3cAddressAssign how a => Sys2Proof.Machine.execI3cAddressAssign how a s
  | .i3cHotJoin => Sys2Proof.Machine.execI3cHotJoin s
  | .odRead b tag ix sub off len => Sys2Proof.Machine.execOdRead b tag ix sub off len s
  | .odWrite b secured tag ix sub val => Sys2Proof.Machine.execOdWrite b secured tag ix sub val s
  | .odDescribe b tag ix sub => Sys2Proof.Machine.execOdDescribe b tag ix sub s
  | .notify => Sys2Proof.Machine.execNotify s
  | .notifyAck dest tag => Sys2Proof.Machine.execNotifyAck dest tag s
  | .notifyResendTimer dest tag => Sys2Proof.Machine.execNotifyResendTimer dest tag s
  | .unitRequestOut b tag w => Sys2Proof.Machine.execUnitRequestOut b tag w s
  | .unitRequestIn b tag w => Sys2Proof.Machine.execUnitRequestIn b tag w s
  | .unitReturnDone u ok => Sys2Proof.Machine.execUnitReturnDone u ok s
  | .ladderDeviceReset b tag w => Sys2Proof.Machine.execLadderDeviceReset b tag w s
  | .ladderPowerCycle b tag w => Sys2Proof.Machine.execLadderPowerCycle b tag w s
  | .alarmLevelWrite b secured tag src level => Sys2Proof.Machine.execAlarmLevelWrite b secured tag src level s
  | .keySlotQuotaWrite b secured tag v quota => Sys2Proof.Machine.execKeySlotQuotaWrite b secured tag v quota s
  | .fabricPackageIdWrite b tag id => Sys2Proof.Machine.execFabricPackageIdWrite b tag id s
  | .fabricNoticeGroupHang b tag val => Sys2Proof.Machine.execFabricNoticeGroupHang b tag val s
  | .fabricNoticePackageLost b tag val => Sys2Proof.Machine.execFabricNoticePackageLost b tag val s
  | .pwrApply w => Sys2Proof.Machine.execPwrApply w s
  | .fwLoad w => Sys2Proof.Machine.execFwLoad w s
  | .fwImageReadDone image => Sys2Proof.Machine.execFwImageReadDone image s
  | .commandFetch v q => Sys2Proof.Machine.execCommandFetch v q s
  | .commandCurrent v q => Sys2Proof.Machine.execCommandCurrent v q s
  | .commandEligible v q => Sys2Proof.Machine.execCommandEligible v q s
  | .dispatchDecision v p => Sys2Proof.Machine.execDispatchDecision v p s
  | .dispatchHandoff v q c => Sys2Proof.Machine.execDispatchHandoff v q c s
  | .preload v q n => Sys2Proof.Machine.execPreload v q n s
  | .binaryLoad v q c => Sys2Proof.Machine.execBinaryLoad v q c s
  | .nop v q => Sys2Proof.Machine.execNop v q s
  | .kernelLaunch v q => Sys2Proof.Machine.execKernelLaunch v q s
  | .groupResident v q => Sys2Proof.Machine.execGroupResident v q s
  | .queryDistance v q => Sys2Proof.Machine.execQueryDistance v q s
  | .usageSelf v q => Sys2Proof.Machine.execUsageSelf v q s
  | .usageAll v q => Sys2Proof.Machine.execUsageAll v q s
  | .matmul v q => Sys2Proof.Machine.execMatmul v q s
  | .matmulBatched v q => Sys2Proof.Machine.execMatmulBatched v q s
  | .matmulGrouped v q => Sys2Proof.Machine.execMatmulGrouped v q s
  | .matmulFp64 v q => Sys2Proof.Machine.execMatmulFp64 v q s
  | .conv v q => Sys2Proof.Machine.execConv v q s
  | .convTransposed v q => Sys2Proof.Machine.execConvTransposed v q s
  | .convWgrad v q => Sys2Proof.Machine.execConvWgrad v q s
  | .attention v q => Sys2Proof.Machine.execAttention v q s
  | .attentionBwd v q => Sys2Proof.Machine.execAttentionBwd v q s
  | .layernorm v q => Sys2Proof.Machine.execLayernorm v q s
  | .rmsnorm v q => Sys2Proof.Machine.execRmsnorm v q s
  | .groupnorm v q => Sys2Proof.Machine.execGroupnorm v q s
  | .softmax v q => Sys2Proof.Machine.execSoftmax v q s
  | .logSoftmax v q => Sys2Proof.Machine.execLogSoftmax v q s
  | .layernormBwd v q => Sys2Proof.Machine.execLayernormBwd v q s
  | .rmsnormBwd v q => Sys2Proof.Machine.execRmsnormBwd v q s
  | .softmaxBwd v q => Sys2Proof.Machine.execSoftmaxBwd v q s
  | .unary v q => Sys2Proof.Machine.execUnary v q s
  | .add v q => Sys2Proof.Machine.execAdd v q s
  | .sub v q => Sys2Proof.Machine.execSub v q s
  | .mul v q => Sys2Proof.Machine.execMul v q s
  | .div v q => Sys2Proof.Machine.execDiv v q s
  | .max v q => Sys2Proof.Machine.execMax v q s
  | .min v q => Sys2Proof.Machine.execMin v q s
  | .fma v q => Sys2Proof.Machine.execFma v q s
  | .select v q => Sys2Proof.Machine.execSelect v q s
  | .compare v q => Sys2Proof.Machine.execCompare v q s
  | .abs v q => Sys2Proof.Machine.execAbs v q s
  | .neg v q => Sys2Proof.Machine.execNeg v q s
  | .relu v q => Sys2Proof.Machine.execRelu v q s
  | .clamp v q => Sys2Proof.Machine.execClamp v q s
  | .dropout v q => Sys2Proof.Machine.execDropout v q s
  | .randomUniform v q => Sys2Proof.Machine.execRandomUniform v q s
  | .cast v q => Sys2Proof.Machine.execCast v q s
  | .peatRound v q => Sys2Proof.Machine.execPeatRound v q s
  | .peatAccumulate v q => Sys2Proof.Machine.execPeatAccumulate v q s
  | .copy v q => Sys2Proof.Machine.execCopy v q s
  | .permute v q => Sys2Proof.Machine.execPermute v q s
  | .fill v q => Sys2Proof.Machine.execFill v q s
  | .gather v q => Sys2Proof.Machine.execGather v q s
  | .scatter v q => Sys2Proof.Machine.execScatter v q s
  | .scatterAdd v q => Sys2Proof.Machine.execScatterAdd v q s
  | .scatterMax v q => Sys2Proof.Machine.execScatterMax v q s
  | .scatterMin v q => Sys2Proof.Machine.execScatterMin v q s
  | .embedding v q => Sys2Proof.Machine.execEmbedding v q s
  | .embeddingBag v q => Sys2Proof.Machine.execEmbeddingBag v q s
  | .topk v q => Sys2Proof.Machine.execTopk v q s
  | .sort v q => Sys2Proof.Machine.execSort v q s
  | .argmax v q => Sys2Proof.Machine.execArgmax v q s
  | .argmin v q => Sys2Proof.Machine.execArgmin v q s
  | .reduceSum v q => Sys2Proof.Machine.execReduceSum v q s
  | .reduceMax v q => Sys2Proof.Machine.execReduceMax v q s
  | .reduceMin v q => Sys2Proof.Machine.execReduceMin v q s
  | .reduceMean v q => Sys2Proof.Machine.execReduceMean v q s
  | .reduceVar v q => Sys2Proof.Machine.execReduceVar v q s
  | .cumsum v q => Sys2Proof.Machine.execCumsum v q s
  | .allReduce v q remote => Sys2Proof.Machine.execAllReduce v q remote s
  | .reduceScatter v q remote => Sys2Proof.Machine.execReduceScatter v q remote s
  | .allGather v q remote => Sys2Proof.Machine.execAllGather v q remote s
  | .allToAll v q remote => Sys2Proof.Machine.execAllToAll v q remote s
  | .broadcast v q remote => Sys2Proof.Machine.execBroadcast v q remote s
  | .peerFailure group seq => Sys2Proof.Machine.execPeerFailure group seq s
  | .restart group seq => Sys2Proof.Machine.execRestart group seq s
  | .resume group seq phase => Sys2Proof.Machine.execResume group seq phase s
  | .mma n g set a b => Sys2Proof.Machine.execMma n g set a b s
  | .peatSpill n => Sys2Proof.Machine.execPeatSpill n s
  | .mdrain n g set dst mode => Sys2Proof.Machine.execMdrain n g set dst mode s
  | .mclear n g set => Sys2Proof.Machine.execMclear n g set s
  | .vectorOp n g mask op src dst rm rd rs ru => Sys2Proof.Machine.execVectorOp n g mask op src dst rm rd rs ru s
  | .functionOp n g mask fn src dst rm rd rs ru => Sys2Proof.Machine.execFunctionOp n g mask fn src dst rm rd rs ru s
  | .wisp n g mask rd rStream rElem rDraw => Sys2Proof.Machine.execWisp n g mask rd rStream rElem rDraw s
  | .coreStoreLoad n g mask size rd ra parityBad => Sys2Proof.Machine.execCoreStoreLoad n g mask size rd ra parityBad s
  | .coreStoreStore n g mask size ra rs => Sys2Proof.Machine.execCoreStoreStore n g mask size ra rs s
  | .globalLoad n g mask size rd ra => Sys2Proof.Machine.execGlobalLoad n g mask size rd ra s
  | .globalStore n g mask size ra rs => Sys2Proof.Machine.execGlobalStore n g mask size ra rs s
  | .atomicInt n g mask op wide core ra rs => Sys2Proof.Machine.execAtomicInt n g mask op wide core ra rs s
  | .atomicFpMinmax n g mask isMax wide core ra rs => Sys2Proof.Machine.execAtomicFpMinmax n g mask isMax wide core ra rs s
  | .atomicPeatAccumulate n g mask src core ra rs => Sys2Proof.Machine.execAtomicPeatAccumulate n g mask src core ra rs s
  | .compareAndSwap n g lane wide core rd ra re rs => Sys2Proof.Machine.execCompareAndSwap n g lane wide core rd ra re rs s
  | .exchange n g lane wide core rd ra rs => Sys2Proof.Machine.execExchange n g lane wide core rd ra rs s
  | .fetchAtomic n g lane op wide core rd ra rs => Sys2Proof.Machine.execFetchAtomic n g lane op wide core rd ra rs s
  | .dalloc n g lane rd rs => Sys2Proof.Machine.execDalloc n g lane rd rs s
  | .dfree n g lane ra rs => Sys2Proof.Machine.execDfree n g lane ra rs s
  | .ordrel n g mask => Sys2Proof.Machine.execOrdrel n g mask s
  | .orderedTurn v q => Sys2Proof.Machine.execOrderedTurn v q s
  | .groupBarrier n g lane => Sys2Proof.Machine.execGroupBarrier n g lane s
  | .cohortBarrier n g lane => Sys2Proof.Machine.execCohortBarrier n g lane s
  | .barrierRelease n g cohort => Sys2Proof.Machine.execBarrierRelease n g cohort s
  | .moverTransfer n g lane x => Sys2Proof.Machine.execMoverTransfer n g lane x s
  | .peerTransfer n g lane src dstGroup off len => Sys2Proof.Machine.execPeerTransfer n g lane src dstGroup off len s
  | .moverTransferComplete n g id => Sys2Proof.Machine.execMoverTransferComplete n g id s
  | .moverWait n g lane count => Sys2Proof.Machine.execMoverWait n g lane count s
  | .counterRead n g mask ctr rd => Sys2Proof.Machine.execCounterRead n g mask ctr rd s
  | .identityRead n g mask id rd => Sys2Proof.Machine.execIdentityRead n g mask id rd s
  | .threadEnd n g lane => Sys2Proof.Machine.execThreadEnd n g lane s
  | .readReq id bad => Sys2Proof.Machine.execReadReq id bad s
  | .write id => Sys2Proof.Machine.execWrite id s
  | .atomic id => Sys2Proof.Machine.execAtomic id s
  | .readData id => Sys2Proof.Machine.execReadData id s
  | .writeAck id => Sys2Proof.Machine.execWriteAck id s
  | .atomicAck id => Sys2Proof.Machine.execAtomicAck id s
  | .peerWrite id => Sys2Proof.Machine.execPeerWrite id s
  | .fragments ep src msg first frags => Sys2Proof.Machine.execFragments ep src msg first frags s
  | .fullWord ep src msg ordinal word => Sys2Proof.Machine.execFullWord ep src msg ordinal word s
  | .mgmt dest src payload => Sys2Proof.Machine.execMgmt dest src payload s
  | .rangeWalk v n va => Sys2Proof.Machine.execRangeWalk v n va s
  | .walkReply v n va => Sys2Proof.Machine.execWalkReply v n va s
  | .translationFault id => Sys2Proof.Machine.execTranslationFault id s
  | .faultTableRetryTimer id => Sys2Proof.Machine.execFaultTableRetryTimer id s
  | .faultBatchTimer v => Sys2Proof.Machine.execFaultBatchTimer v s
  | .fenceSignal id => Sys2Proof.Machine.execFenceSignal id s
  | .fenceFail id => Sys2Proof.Machine.execFenceFail id s
  | .fenceWait id => Sys2Proof.Machine.execFenceWait id s
  | .fenceRead die cell => Sys2Proof.Machine.execFenceRead die cell s
  | .fenceWaitNotify id => Sys2Proof.Machine.execFenceWaitNotify id s
  | .fenceWaitRetryTimer id => Sys2Proof.Machine.execFenceWaitRetryTimer id s
  | .fenceOpReply id => Sys2Proof.Machine.execFenceOpReply id s
  | .fenceProxyTimeout v slot => Sys2Proof.Machine.execFenceProxyTimeout v slot s
  | .commandTimeout v q => Sys2Proof.Machine.execCommandTimeout v q s
  | .attemptLastWriteAcked v q => Sys2Proof.Machine.execAttemptLastWriteAcked v q s
  | .digestClose v q k => Sys2Proof.Machine.execDigestClose v q k s
  | .leafHash v q k => Sys2Proof.Machine.execLeafHash v q k s
  | .receiptSignDone v q => Sys2Proof.Machine.execReceiptSignDone v q s
  | .commandComplete v q => Sys2Proof.Machine.execCommandComplete v q s
  | .chainSuccessorFetch v q => Sys2Proof.Machine.execChainSuccessorFetch v q s
  | .beSliceExpiry v p => Sys2Proof.Machine.execBeSliceExpiry v p s
  | .abort v q e => Sys2Proof.Machine.execAbort v q e s
  | .abortAck v q e => Sys2Proof.Machine.execAbortAck v q e s
  | .mapPublish v e => Sys2Proof.Machine.execMapPublish v e s
  | .mapAck v e => Sys2Proof.Machine.execMapAck v e s
  | .drained u e => Sys2Proof.Machine.execDrained u e s
  | .rebindGraceExpiry n => Sys2Proof.Machine.execRebindGraceExpiry n s
  | .sluiceScrubDone u => Sys2Proof.Machine.execSluiceScrubDone u s
  | .sluiceOverdue u => Sys2Proof.Machine.execSluiceOverdue u s
  | .packetReceive l p parityBad => Sys2Proof.Machine.execPacketReceive l p parityBad s
  | .routerFail r => Sys2Proof.Machine.execRouterFail r s
  | .channelTrainingLoss c => Sys2Proof.Machine.execChannelTrainingLoss c s
  | .channelRetrainDone c ok => Sys2Proof.Machine.execChannelRetrainDone c ok s
  | .patrolScrub c line corrected written bad => Sys2Proof.Machine.execPatrolScrub c line corrected written bad s
  | .channelRetire c => Sys2Proof.Machine.execChannelRetire c s
  | .channelCopyDone c => Sys2Proof.Machine.execChannelCopyDone c s
  | .retiringNoticeTimer c => Sys2Proof.Machine.execRetiringNoticeTimer c s
  | .mcDieLost k => Sys2Proof.Machine.execMcDieLost k s
  | .hbmTempRead k tenths => Sys2Proof.Machine.execHbmTempRead k tenths s
  | .coreRetireGraceExpiry n => Sys2Proof.Machine.execCoreRetireGraceExpiry n s
  | .coreSelfTestDone n pass => Sys2Proof.Machine.execCoreSelfTestDone n pass s
  | .engineHang e => Sys2Proof.Machine.execEngineHang e s
  | .dredgeSuspectEnd e completed => Sys2Proof.Machine.execDredgeSuspectEnd e completed s
  | .fwWatchdogExpiry p => Sys2Proof.Machine.execFwWatchdogExpiry p s
  | .fwTrap p => Sys2Proof.Machine.execFwTrap p s
  | .fwRestart p digestOk => Sys2Proof.Machine.execFwRestart p digestOk s
  | .fwRestartTimeout p => Sys2Proof.Machine.execFwRestartTimeout p s
  | .schedulerTakeover => Sys2Proof.Machine.execSchedulerTakeover s
  | .journalAppend r => Sys2Proof.Machine.execJournalAppend r s
  | .deviceReset => Sys2Proof.Machine.execDeviceReset s
  | .powerCycle => Sys2Proof.Machine.execPowerCycle s
  | .portSignalDetect p => Sys2Proof.Machine.execPortSignalDetect p s
  | .portTrainingDone p locked => Sys2Proof.Machine.execPortTrainingDone p locked s
  | .portTrainRetryTimer p => Sys2Proof.Machine.execPortTrainRetryTimer p s
  | .portSessionDone p authentic peerAcl peerPort peerPkg => Sys2Proof.Machine.execPortSessionDone p authentic peerAcl peerPort peerPkg s
  | .flitData p hdr fecBad tagBad corrected => Sys2Proof.Machine.execFlitData p hdr fecBad tagBad corrected s
  | .flitMgmt p hdr fecBad tagBad => Sys2Proof.Machine.execFlitMgmt p hdr fecBad tagBad s
  | .retryReq p seq => Sys2Proof.Machine.execRetryReq p seq s
  | .laneSwitch p failed seq => Sys2Proof.Machine.execLaneSwitch p failed seq s
  | .laneFail p lane => Sys2Proof.Machine.execLaneFail p lane s
  | .portRetrainDone p ok locked => Sys2Proof.Machine.execPortRetrainDone p ok locked s
  | .sessionRekey p => Sys2Proof.Machine.execSessionRekey p s
  | .fabricSegment p hdr data => Sys2Proof.Machine.execFabricSegment p hdr data s
  | .powerGood alarms => Sys2Proof.Machine.execPowerGood alarms s
  | .powerGoodDeassert => Sys2Proof.Machine.execPowerGoodDeassert s
  | .stackGroupPowerUp g => Sys2Proof.Machine.execStackGroupPowerUp g s
  | .channelReady c pass => Sys2Proof.Machine.execChannelReady c pass s
  | .earlyServiceStart => Sys2Proof.Machine.execEarlyServiceStart s
  | .fullServiceStart => Sys2Proof.Machine.execFullServiceStart s
  | .startUpBoundExpiry u => Sys2Proof.Machine.execStartUpBoundExpiry u s
  | .referenceClockLoss => Sys2Proof.Machine.execReferenceClockLoss s
  | .voltageAck c => Sys2Proof.Machine.execVoltageAck c s
  | .currentAlert c => Sys2Proof.Machine.execCurrentAlert c s
  | .currentAlertRelease c => Sys2Proof.Machine.execCurrentAlertRelease c s
  | .powerEstimateTick => Sys2Proof.Machine.execPowerEstimateTick s
  | .pfpTelemetry microjoules => Sys2Proof.Machine.execPfpTelemetry microjoules s
  | .phaseKeyUpdate => Sys2Proof.Machine.execPhaseKeyUpdate s
  | .powerAllocation => Sys2Proof.Machine.execPowerAllocation s
  | .thermalThrottle d tenths => Sys2Proof.Machine.execThermalThrottle d tenths s
  | .throttleStepTimer d tenths => Sys2Proof.Machine.execThrottleStepTimer d tenths s
  | .thermalCritical d tenths => Sys2Proof.Machine.execThermalCritical d tenths s
  | .thermtrip d => Sys2Proof.Machine.execThermtrip d s
  | .coreIdleEntry n => Sys2Proof.Machine.execCoreIdleEntry n s
  | .coreWake n => Sys2Proof.Machine.execCoreWake n s
  | .channelIdleTimer c => Sys2Proof.Machine.execChannelIdleTimer c s
  | .pfsAlarm line ns => Sys2Proof.Machine.execPfsAlarm line ns s
  | .pfsHeartbeatLoss => Sys2Proof.Machine.execPfsHeartbeatLoss s
  | .debugPortEnable manufacturing => Sys2Proof.Machine.execDebugPortEnable manufacturing s
  | .alarm src detail => Sys2Proof.Machine.execAlarm src detail s
  | .undoJournalApplied v q => Sys2Proof.Machine.execUndoJournalApplied v q s
  | .mirrorRebuildDone v data => Sys2Proof.Machine.execMirrorRebuildDone v data s
  | .remirrorCopyDone v set => Sys2Proof.Machine.execRemirrorCopyDone v set s
  | .softRepairDone c => Sys2Proof.Machine.execSoftRepairDone c s
  | .criticalTemperatureRelease d tenths => Sys2Proof.Machine.execCriticalTemperatureRelease d tenths s
  | .classNWriteConfirm => Sys2Proof.Machine.execClassNWriteConfirm s
  | .referenceClockReturn => Sys2Proof.Machine.execReferenceClockReturn s
  | .pfsAlarmDeassert line => Sys2Proof.Machine.execPfsAlarmDeassert line s
  | .hostPortLinkUp p rate width cxl => Sys2Proof.Machine.execHostPortLinkUp p rate width cxl s
  | .hubDieFailure h => Sys2Proof.Machine.execHubDieFailure h s
  | .evcMaskWrite c p m => Sys2Proof.Machine.execEvcMaskWrite c p m s
  | .atsTranslationCompletion fn page r w => Sys2Proof.Machine.execAtsTranslationCompletion fn page r w s
  | .hostReadCompletion id data => Sys2Proof.Machine.execHostReadCompletion id data s

end Sys2Proof.Machine
end

