-- ==== Sys2Proof/Safety.lean ====
section
/-! DEFINITION. The terms in which claims speak of the block: a safe step, a command that completes, and a request on the
admin ring that is taken and not refused. -/

namespace Sys2Proof

open Sys2Proof.Machine

/-- A step that ends in neither a fault nor a refusal. -/
def Safe (s : State) : Prop := ∃ t, step s = .next t

/-- A command answers a next state, and `P` holds of it. -/
def Completes (c : Instr) (s : State) (P : State → Prop) : Prop := ∃ t, exec c s = .next t ∧ P t

/-- A command answers a next state that differs from `s` in the device alone, and `P` holds of that device. -/
def Gives (c : Instr) (s : State) (P : Dev → Prop) : Prop := ∃ d, exec c s = .next { s with dev := d } ∧ P d

/-- The work of a command as it begins. -/
def work (s : State) : Wk := ⟨s.dev, s.mem, []⟩

/-- The state that a command at work leaves behind. -/
def after (s : State) (w : Wk) : State := { s with dev := w.dev, mem := s.mem.commit w.log }

/-- The request of slot `i`, whose bytes are `bs` and whose arguments are inline (Table 16-8). -/
def headReq (fn i : Nat) (bs : List Byte) : AdReq :=
  ⟨fn, i, fieldLe bs 2 2, BitVec.ofNat 32 (fieldLe bs 4 4), (bs.drop 0x20).take (fieldLe bs 0x10 4), fieldLe bs 0x18 8⟩

/-- The request at the head of a function's admin ring is one of a row's, with inline arguments, and nothing in its envelope
or in the state of the function refuses it (R403, R404, R365, R475). -/
structure Accepted (d : Dev) (fn : Nat) (row : AdRow) (i : Nat) (bs : List Byte) : Prop where
  head : d.nextSlot fn = some (i, bs)
  known : d.unknownOp fn (slotOp bs) = false
  selected : row.sel bs = true
  reserved : fieldLe bs 0x14 4 = 0
  flags : fieldLe bs 2 2 ||| row.flags = row.flags
  result : row.bulk = true ∨ fieldLe bs 0x18 8 = 0
  inlined : fieldLe bs 8 8 = 0
  length : row.need ≤ fieldLe bs 0x10 4 ∧ fieldLe bs 0x10 4 ≤ 224
  admitted : d.adminBlocked fn row.whileFrozen row.whileA2 = false

end Sys2Proof
end

