-- ==== Sys2Proof/WellFormed.lean ====
section
/-! DEFINITION. Which operands of a command are well formed: the limits that the type of the operand does not hold by
itself. A command of ill-formed operands has no counterpart on the device. -/

namespace Sys2Proof

/-- An access of `n` bytes at offset `off` of a window of `size` bytes (R524, R525). -/
def accessOk (off n size : Nat) : Bool := decide (0 < n) && decide (off + n ≤ size)

/-- A register number of a thread (R136). -/
def regOk (r : Nat) : Bool := decide (r < 256)

/-- The registers that an access of a size takes: one, two or four from the given one (R164). -/
def pairOk (size : AccSize) (r : Nat) : Bool :=
  match size with
  | .b1 | .b2 | .b4 => decide (r < 256)
  | .b8 => decide (r + 1 < 256)
  | .b16 => decide (r + 3 < 256)

/-- A tile operand: its base is a multiple of 256 bytes, and its format is no peat (R140). -/
def tileOk (t : TileArg) : Bool := t.base % 256 == 0 && t.fmt != .peat

/-- The operands of a vector operation (R138). -/
def VecOp.arity : VecOp → Nat
  | .fma => 3
  | .add | .sub | .mul | .div | .max | .min => 2
  | .abs | .neg | .cast => 1

/-- A command whose operands lie in the limits of its row. -/
def Instr.wellFormed : Instr → Bool
  | .registerWrite _ off bs => accessOk off.off bs.length (2 ^ 20)
  | .doorbell _ off bs => accessOk off bs.length (2 ^ 20)
  | .doorbellRetry _ _ _ => true
  | .cqHeadWrite _ _ _ => true
  | .xltSync _ _ => true
  | .xltMoveAndSync _ _ => true
  | .syncMasterReadDone _ data => match data with | some bs => decide (bs.length % 32 = 0) && decide (bs.length ≤ 32 * 65536) | none => true
  | .rangeInvalidation _ _ => true
  | .invalidationAck _ _ => true
  | .movePageCopyDone _ _ bs => bs.isEmpty || bs.length == 65536
  | .faultRespFail _ _ => true
  | .mbxGo _ _ => true
  | .mbxWithdraw _ => true
  | .mbxDone _ _ => true
  | .noticeSend => true
  | .evcClaim _ _ => true
  | .evcEoi _ _ => true
  | .evcHoldTimer _ _ => true
  | .msixVectorControlWrite _ _ _ => true
  | .msixModerationTimer _ _ => true
  | .adminTailWrite _ _ => true
  | .evHeadWrite _ _ => true
  | .negotiate _ => true
  | .createQueue _ => true
  | .readBacklog _ => true
  | .createContext _ => true
  | .destroyContext _ => true
  | .createFence _ => true
  | .destroyFence _ => true
  | .signalFence _ => true
  | .readFence _ => true
  | .exportFence _ => true
  | .importFence _ => true
  | .revokeExport _ => true
  | .destroyQueue _ => true
  | .destroyGraceExpiry _ _ => true
  | .destroyComplete _ _ => true
  | .releaseRange _ => true
  | .releaseRangeForce _ => true
  | .releaseComplete _ _ => true
  | .fenceSlotRelease _ _ => true
  | .definePartition _ => true
  | .prefetch _ => true
  | .endWarming _ => true
  | .warmingTimeout _ _ => true
  | .defineSet _ => true
  | .joinGroup _ => true
  | .leaveGroup _ => true
  | .compose => true
  | .resetFunction => true
  | .freeze => true
  | .freezeGraceExpiry _ => true
  | .save _ => true
  | .restore _ _ => true
  | .thaw => true
  | .discard => true
  | .exposeHdm => true
  | .withdrawHdm => true
  | .hdmDecoderCommit _ _ base size => decide (base + size ≤ 2 ^ 52)
  | .hdmDecoderDecommit _ _ n => match n with | some k => decide (k ≤ 2 ^ 52) | none => true
  | .cxlMemRead _ a => decide (a.at_ < 2 ^ 52) && a.at_ % 64 == 0
  | .cxlMemWrite _ a line => decide (a < 2 ^ 52) && a % 64 == 0 && line.length == 64
  | .hostWindowRead _ off n => accessOk off.off n.at_ (2 ^ 36)
  | .hostWindowWrite _ off bs => accessOk off.off bs.length (2 ^ 36)
  | .functionLevelReset _ => true
  | .hostPortReset _ => true
  | .vfEnable _ _ => true
  | .atsInvalidation _ page count => decide (0 < count) && decide (page + count ≤ 2 ^ 52)
  | .priResponse _ page _ => decide (page < 2 ^ 52)
  | .priReenable _ => true
  | .hostReadError _ => true
  | .ideKm _ _ _ => true
  | .ideIntegrityFail _ _ _ => true
  | .getTdispVersion _ => true
  | .getTdispCapabilities _ => true
  | .lockInterfaceRequest _ _ => true
  | .startInterfaceRequest _ => true
  | .stopInterfaceRequest _ => true
  | .getDeviceInterfaceReport _ => true
  | .getDeviceInterfaceState _ => true
  | .sriovConfigChange _ => true
  | .getVersion _ => true
  | .getCapabilities _ => true
  | .negotiateAlgorithms _ _ => true
  | .getDigests _ => true
  | .getCertificate _ _ off len => decide (off < 2 ^ 16) && decide (len < 2 ^ 16)
  | .challenge _ _ _ => true
  | .getMeasurements _ _ => true
  | .keyExchange _ => true
  | .finish _ _ => true
  | .keyUpdate _ _ => true
  | .heartbeat _ _ => true
  | .endSession _ _ => true
  | .generate _ _ => true
  | .importKey _ _ keys => decide (keys.length ≤ 64)
  | .erase _ _ _ => true
  | .listKeys _ _ => true
  | .setEndpointId _ _ => true
  | .getEndpointId _ => true
  | .getMctpVersionSupport _ => true
  | .getMessageTypeSupport _ => true
  | .getVendorDefinedMessageSupport _ => true
  | .i3cAddressAssign _ _ => true
  | .i3cHotJoin => true
  | .odRead _ _ _ _ _ len => decide (len < 2 ^ 32)
  | .odWrite _ _ _ _ _ bs => decide (bs.length < 2 ^ 32)
  | .odDescribe _ _ _ _ => true
  | .notify => true
  | .notifyAck _ _ => true
  | .notifyResendTimer _ _ => true
  | .unitRequestOut _ _ _ => true
  | .unitRequestIn _ _ _ => true
  | .unitReturnDone _ _ => true
  | .ladderDeviceReset _ _ _ => true
  | .ladderPowerCycle _ _ _ => true
  | .alarmLevelWrite _ _ _ _ _ => true
  | .keySlotQuotaWrite _ _ _ _ _ => true
  | .fabricPackageIdWrite _ _ _ => true
  | .fabricNoticeGroupHang _ _ _ => true
  | .fabricNoticePackageLost _ _ _ => true
  | .pwrApply _ => true
  | .fwLoad _ => true
  | .fwImageReadDone img => match img with | some bs => decide (bs.length < 2 ^ 32) | none => true
  | .commandFetch _ _ => true
  | .commandCurrent _ _ => true
  | .commandEligible _ _ => true
  | .dispatchDecision _ _ => true
  | .dispatchHandoff _ _ _ => true
  | .preload _ _ _ => true
  | .binaryLoad _ _ _ => true
  | .nop _ _ => true
  | .kernelLaunch _ _ => true
  | .groupResident _ _ => true
  | .queryDistance _ _ => true
  | .usageSelf _ _ => true
  | .usageAll _ _ => true
  | .matmul _ _ => true
  | .matmulBatched _ _ => true
  | .matmulGrouped _ _ => true
  | .matmulFp64 _ _ => true
  | .conv _ _ => true
  | .convTransposed _ _ => true
  | .convWgrad _ _ => true
  | .attention _ _ => true
  | .attentionBwd _ _ => true
  | .layernorm _ _ => true
  | .rmsnorm _ _ => true
  | .groupnorm _ _ => true
  | .softmax _ _ => true
  | .logSoftmax _ _ => true
  | .layernormBwd _ _ => true
  | .rmsnormBwd _ _ => true
  | .softmaxBwd _ _ => true
  | .unary _ _ => true
  | .add _ _ => true
  | .sub _ _ => true
  | .mul _ _ => true
  | .div _ _ => true
  | .max _ _ => true
  | .min _ _ => true
  | .fma _ _ => true
  | .select _ _ => true
  | .compare _ _ => true
  | .abs _ _ => true
  | .neg _ _ => true
  | .relu _ _ => true
  | .clamp _ _ => true
  | .dropout _ _ => true
  | .randomUniform _ _ => true
  | .cast _ _ => true
  | .peatRound _ _ => true
  | .peatAccumulate _ _ => true
  | .copy _ _ => true
  | .permute _ _ => true
  | .fill _ _ => true
  | .gather _ _ => true
  | .scatter _ _ => true
  | .scatterAdd _ _ => true
  | .scatterMax _ _ => true
  | .scatterMin _ _ => true
  | .embedding _ _ => true
  | .embeddingBag _ _ => true
  | .topk _ _ => true
  | .sort _ _ => true
  | .argmax _ _ => true
  | .argmin _ _ => true
  | .reduceSum _ _ => true
  | .reduceMax _ _ => true
  | .reduceMin _ _ => true
  | .reduceMean _ _ => true
  | .reduceVar _ _ => true
  | .cumsum _ _ => true
  | .allReduce _ _ _ => true
  | .reduceScatter _ _ _ => true
  | .allGather _ _ _ => true
  | .allToAll _ _ _ => true
  | .broadcast _ _ _ => true
  | .peerFailure _ _ => true
  | .restart _ _ => true
  | .resume _ _ ph => decide (ph < 2 ^ 32)
  | .mma _ _ _ a b => tileOk a && tileOk b
  | .peatSpill _ => true
  | .mdrain _ _ _ dst _ => decide (dst < 2 ^ 22)
  | .mclear _ _ _ => true
  | .vectorOp _ _ _ op _ _ _ rd rs ru => rs.length == op.arity && (rd :: ru :: rs).all regOk
  | .functionOp _ _ _ _ _ _ _ rd rs ru => [rd, rs, ru].all regOk
  | .wisp _ _ _ rd r1 r2 r3 => [rd, r1, r2, r3].all regOk
  | .coreStoreLoad _ _ _ size rd ra _ => pairOk size rd && regOk ra
  | .coreStoreStore _ _ _ size ra rs => regOk ra && pairOk size rs
  | .globalLoad _ _ _ size rd ra => pairOk size rd && regOk ra
  | .globalStore _ _ _ size ra rs => regOk ra && pairOk size rs
  | .atomicInt _ _ _ _ _ _ ra rs => regOk ra && regOk rs
  | .atomicFpMinmax _ _ _ _ _ _ ra rs => regOk ra && regOk rs
  | .atomicPeatAccumulate _ _ _ _ _ ra rs => regOk ra && regOk rs
  | .compareAndSwap _ _ _ _ _ rd ra re rs => [rd, ra, re, rs].all regOk
  | .exchange _ _ _ _ _ rd ra rs => [rd, ra, rs].all regOk
  | .fetchAtomic _ _ _ _ _ _ rd ra rs => [rd, ra, rs].all regOk
  | .dalloc _ _ _ rd rs => regOk rd && regOk rs
  | .dfree _ _ _ ra rs => regOk ra && regOk rs
  | .ordrel _ _ _ => true
  | .orderedTurn _ _ => true
  | .groupBarrier _ _ _ => true
  | .cohortBarrier _ _ _ => true
  | .barrierRelease _ _ _ => true
  | .moverTransfer _ _ _ x => decide (x.axes.length ≤ 5)
  | .peerTransfer _ _ _ _ _ _ len => decide (0 < len)
  | .moverTransferComplete _ _ _ => true
  | .moverWait _ _ _ _ => true
  | .counterRead _ _ _ _ rd => regOk rd
  | .identityRead _ _ _ _ rd => regOk rd
  | .threadEnd _ _ _ => true
  | .readReq _ _ => true
  | .write _ => true
  | .atomic _ => true
  | .readData _ => true
  | .writeAck _ => true
  | .atomicAck _ => true
  | .peerWrite _ => true
  | .fragments _ _ _ _ fs => decide (1 ≤ fs.length)
  | .fullWord _ _ _ _ _ => true
  | .mgmt _ _ bs => decide (bs.length ≤ 128) && bs.length % 32 == 0
  | .rangeWalk _ _ _ => true
  | .walkReply _ _ _ => true
  | .translationFault _ => true
  | .faultTableRetryTimer _ => true
  | .faultBatchTimer _ => true
  | .fenceSignal _ => true
  | .fenceFail _ => true
  | .fenceWait _ => true
  | .fenceRead _ _ => true
  | .fenceWaitNotify _ => true
  | .fenceWaitRetryTimer _ => true
  | .fenceOpReply _ => true
  | .fenceProxyTimeout _ _ => true
  | .commandTimeout _ _ => true
  | .attemptLastWriteAcked _ _ => true
  | .digestClose _ _ _ => true
  | .leafHash _ _ _ => true
  | .receiptSignDone _ _ => true
  | .commandComplete _ _ => true
  | .chainSuccessorFetch _ _ => true
  | .beSliceExpiry _ _ => true
  | .abort _ _ _ => true
  | .abortAck _ _ _ => true
  | .mapPublish _ _ => true
  | .mapAck _ _ => true
  | .drained _ _ => true
  | .rebindGraceExpiry _ => true
  | .sluiceScrubDone _ => true
  | .sluiceOverdue _ => true
  | .packetReceive _ p _ => decide (p.payload.length ≤ 128)
  | .routerFail _ => true
  | .channelTrainingLoss _ => true
  | .channelRetrainDone _ _ => true
  | .patrolScrub _ line _ _ _ => decide (line < 0x60000000 / 64)
  | .channelRetire _ => true
  | .channelCopyDone _ => true
  | .retiringNoticeTimer _ => true
  | .mcDieLost _ => true
  | .hbmTempRead _ _ => true
  | .coreRetireGraceExpiry _ => true
  | .coreSelfTestDone _ _ => true
  | .engineHang _ => true
  | .dredgeSuspectEnd _ _ => true
  | .fwWatchdogExpiry _ => true
  | .fwTrap _ => true
  | .fwRestart _ _ => true
  | .fwRestartTimeout _ => true
  | .schedulerTakeover => true
  | .journalAppend r => r.length == 64
  | .deviceReset => true
  | .powerCycle => true
  | .portSignalDetect _ => true
  | .portTrainingDone _ _ => true
  | .portTrainRetryTimer _ => true
  | .portSessionDone _ _ _ _ _ => true
  | .flitData _ _ _ b cs => b.cipher.length == 480 && cs.all fun l => decide (l < 10)
  | .flitMgmt _ _ _ b => b.body.cipher.length == 480 && b.corrected.all fun l => decide (l < 10)
  | .retryReq _ _ => true
  | .laneSwitch _ _ _ => true
  | .laneFail _ _ => true
  | .portRetrainDone _ _ _ => true
  | .sessionRekey _ => true
  | .fabricSegment _ _ _ => true
  | .powerGood _ => true
  | .powerGoodDeassert => true
  | .stackGroupPowerUp _ => true
  | .channelReady _ _ => true
  | .earlyServiceStart => true
  | .fullServiceStart => true
  | .startUpBoundExpiry _ => true
  | .referenceClockLoss => true
  | .voltageAck _ => true
  | .currentAlert _ => true
  | .currentAlertRelease _ => true
  | .powerEstimateTick => true
  | .pfpTelemetry _ => true
  | .phaseKeyUpdate => true
  | .powerAllocation => true
  | .thermalThrottle _ _ => true
  | .throttleStepTimer _ _ => true
  | .thermalCritical _ _ => true
  | .thermtrip _ => true
  | .coreIdleEntry _ => true
  | .coreWake _ => true
  | .channelIdleTimer _ => true
  | .pfsAlarm _ _ => true
  | .pfsHeartbeatLoss => true
  | .debugPortEnable _ => true
  | .alarm _ _ => true
  | .undoJournalApplied _ _ => true
  | .mirrorRebuildDone _ _ => true
  | .remirrorCopyDone _ _ => true
  | .softRepairDone _ => true
  | .criticalTemperatureRelease _ _ => true
  | .classNWriteConfirm => true
  | .referenceClockReturn => true
  | .pfsAlarmDeassert _ => true
  | .hostPortLinkUp _ rate width _ => [25, 50, 80, 160, 320, 640].contains rate && [1, 2, 4, 8, 16].contains width
  | .hubDieFailure _ => true
  | .evcMaskWrite _ _ _ => true
  | .atsTranslationCompletion _ page _ _ => decide (page < 2 ^ 52)
  | .hostReadCompletion _ data => decide (data.length ≤ 4096)

end Sys2Proof
end

