-- ==== Sys2Proof/Certificates/Slice0/Obligations.lean ====
section
/-! DEFINITION. The statements about the model for the provers. A command completes where `exec` answers a next state; each
statement says under which conditions on the state and the operands it does, and what that state holds. The lists and
abbreviations that several statements use stand first. -/

open Sys2Proof Sys2Proof.Machine

/-- The commands that run a built-in operation alone, with the operation each runs. -/
def opRows (v : VDev) (q : OpAt) : List (Instr × OpK) :=
  [(.matmul v q, .matmul), (.matmulBatched v q, .matmulBatched), (.matmulGrouped v q, .matmulGrouped), (.matmulFp64 v q, .matmulFp64), (.conv v q, .conv), (.convTransposed v q, .convTransposed)] ++
  [(.convWgrad v q, .convWgrad), (.attention v q, .attention), (.attentionBwd v q, .attentionBwd), (.layernorm v q, .layernorm), (.rmsnorm v q, .rmsnorm), (.groupnorm v q, .groupnorm)] ++
  [(.softmax v q, .softmax), (.logSoftmax v q, .logSoftmax), (.layernormBwd v q, .layernormBwd), (.rmsnormBwd v q, .rmsnormBwd), (.softmaxBwd v q, .softmaxBwd), (.unary v q, .unary)] ++
  [(.add v q, .add), (.sub v q, .sub), (.mul v q, .mul), (.div v q, .div), (.max v q, .max), (.min v q, .min)] ++
  [(.fma v q, .fma), (.select v q, .select), (.compare v q, .compare), (.abs v q, .abs), (.neg v q, .neg), (.relu v q, .relu)] ++
  [(.clamp v q, .clamp), (.dropout v q, .dropout), (.randomUniform v q, .randomUniform), (.cast v q, .cast), (.peatRound v q, .peatRound), (.peatAccumulate v q, .peatAccumulate)] ++
  [(.copy v q, .copy), (.permute v q, .permute), (.fill v q, .fill), (.gather v q, .gather), (.scatter v q, .scatter), (.scatterAdd v q, .scatterAdd)] ++
  [(.scatterMax v q, .scatterMax), (.scatterMin v q, .scatterMin), (.embedding v q, .embedding), (.embeddingBag v q, .embeddingBag), (.topk v q, .topk), (.sort v q, .sort)] ++
  [(.argmax v q, .argmax), (.argmin v q, .argmin), (.reduceSum v q, .reduceSum), (.reduceMax v q, .reduceMax), (.reduceMin v q, .reduceMin), (.reduceMean v q, .reduceMean)] ++
  [(.reduceVar v q, .reduceVar), (.cumsum v q, .cumsum)]

/-- What a lane instruction leaves: each of its lanes' destination registers and flags (R138, R139). -/
def lanesWrite (a : KAt) (g : Nat) (ls : List Nat) (rd : Nat) (f : KAt → Nat → List (BitVec 32) × FlagWord) (d : Dev) : Dev :=
  d.setRun a.no (a.run.onG g fun x => ls.foldl (fun x l => (KGroup.setRegs l rd (f a l).1 x).addFlags l (f a l).2) x)

/-- What a change of one group of a kernel leaves. -/
def groupLeft (a : KAt) (g : Nat) (f : KGroup → KGroup) (d : Dev) : Dev := d.setRun a.no (a.run.onG g f)

/-- An instruction that a group issues: its core, the group, and the mask of its threads. -/
def groupInstr : Instr → Option (CoreAt × Nat × BitVec 32)
  | .mma n g x _ _ => some (n, g, x.mask)
  | .mdrain n g x _ _ => some (n, g, x.mask)
  | .mclear n g x => some (n, g, x.mask)
  | .vectorOp n g m _ _ _ _ _ _ _ => some (n, g, m)
  | .functionOp n g m _ _ _ _ _ _ _ => some (n, g, m)
  | .wisp n g m _ _ _ _ => some (n, g, m)
  | .coreStoreLoad n g m _ _ _ _ => some (n, g, m)
  | .coreStoreStore n g m _ _ _ => some (n, g, m)
  | .globalLoad n g m _ _ _ => some (n, g, m)
  | .globalStore n g m _ _ _ => some (n, g, m)
  | .atomicInt n g m _ _ _ _ _ => some (n, g, m)
  | .atomicFpMinmax n g m _ _ _ _ _ => some (n, g, m)
  | .atomicPeatAccumulate n g m _ _ _ _ => some (n, g, m)
  | .compareAndSwap n g l _ _ _ _ _ _ => some (n, g, laneBit l.val)
  | .exchange n g l _ _ _ _ _ => some (n, g, laneBit l.val)
  | .fetchAtomic n g l _ _ _ _ _ _ => some (n, g, laneBit l.val)
  | .dalloc n g l _ _ => some (n, g, laneBit l.val)
  | .dfree n g l _ _ => some (n, g, laneBit l.val)
  | .ordrel n g m => some (n, g, m)
  | .groupBarrier n g l => some (n, g, laneBit l.val)
  | .cohortBarrier n g l => some (n, g, laneBit l.val)
  | .moverTransfer n g m _ => some (n, g, m)
  | .peerTransfer n g m _ _ _ _ => some (n, g, m)
  | .moverWait n g l _ => some (n, g, laneBit l.val)
  | .identityRead n g m _ _ => some (n, g, m)
  | .threadEnd n g l => some (n, g, laneBit l.val)
  | _ => none

/-- The instruction where none of its reads meets a parity error. -/
def readsGood : Instr → Instr
  | .mma n g x x1 x2 => .mma ⟨n.core, none⟩ g x x1 x2
  | .mdrain n g x x1 x2 => .mdrain ⟨n.core, none⟩ g x x1 x2
  | .mclear n g x => .mclear ⟨n.core, none⟩ g x
  | .vectorOp n g m x1 x2 x3 x4 x5 x6 x7 => .vectorOp ⟨n.core, none⟩ g m x1 x2 x3 x4 x5 x6 x7
  | .functionOp n g m x1 x2 x3 x4 x5 x6 x7 => .functionOp ⟨n.core, none⟩ g m x1 x2 x3 x4 x5 x6 x7
  | .wisp n g m x1 x2 x3 x4 => .wisp ⟨n.core, none⟩ g m x1 x2 x3 x4
  | .coreStoreLoad n g m x1 x2 x3 x4 => .coreStoreLoad ⟨n.core, none⟩ g m x1 x2 x3 x4
  | .coreStoreStore n g m x1 x2 x3 => .coreStoreStore ⟨n.core, none⟩ g m x1 x2 x3
  | .globalLoad n g m x1 x2 x3 => .globalLoad ⟨n.core, none⟩ g m x1 x2 x3
  | .globalStore n g m x1 x2 x3 => .globalStore ⟨n.core, none⟩ g m x1 x2 x3
  | .atomicInt n g m x1 x2 x3 x4 x5 => .atomicInt ⟨n.core, none⟩ g m x1 x2 x3 x4 x5
  | .atomicFpMinmax n g m x1 x2 x3 x4 x5 => .atomicFpMinmax ⟨n.core, none⟩ g m x1 x2 x3 x4 x5
  | .atomicPeatAccumulate n g m x1 x2 x3 x4 => .atomicPeatAccumulate ⟨n.core, none⟩ g m x1 x2 x3 x4
  | .compareAndSwap n g l x1 x2 x3 x4 x5 x6 => .compareAndSwap ⟨n.core, none⟩ g l x1 x2 x3 x4 x5 x6
  | .exchange n g l x1 x2 x3 x4 x5 => .exchange ⟨n.core, none⟩ g l x1 x2 x3 x4 x5
  | .fetchAtomic n g l x1 x2 x3 x4 x5 x6 => .fetchAtomic ⟨n.core, none⟩ g l x1 x2 x3 x4 x5 x6
  | .dalloc n g l x1 x2 => .dalloc ⟨n.core, none⟩ g l x1 x2
  | .dfree n g l x1 x2 => .dfree ⟨n.core, none⟩ g l x1 x2
  | .ordrel n g m => .ordrel ⟨n.core, none⟩ g m
  | .groupBarrier n g l => .groupBarrier ⟨n.core, none⟩ g l
  | .cohortBarrier n g l => .cohortBarrier ⟨n.core, none⟩ g l
  | .moverTransfer n g m x1 => .moverTransfer ⟨n.core, none⟩ g m x1
  | .peerTransfer n g m x1 x2 x3 x4 => .peerTransfer ⟨n.core, none⟩ g m x1 x2 x3 x4
  | .moverWait n g l x1 => .moverWait ⟨n.core, none⟩ g l x1
  | .identityRead n g m x1 x2 => .identityRead ⟨n.core, none⟩ g m x1 x2
  | .threadEnd n g l => .threadEnd ⟨n.core, none⟩ g l
  | i => i

/-- No host access is held at a hub, and no WITHDRAW_HDM waits for one (R219, R231). -/
abbrev hostQuiet (d : Dev) : Prop :=
  d.mc.held = [] ∧ (d.fn mgr).taken.all (fun t => match t.2.op with | .withdrawHdm _ => false | _ => true) = true

/-- The transport of a request to the security core. -/
def secTransport : Instr → Option Transport
  | .getVersion t => some t
  | .getCapabilities t => some t
  | .negotiateAlgorithms t _ => some t
  | .getDigests t => some t
  | .getCertificate t _ _ _ => some t
  | .challenge t _ _ => some t
  | .getMeasurements t _ => some t
  | .keyExchange t => some t
  | .finish t _ => some t
  | .keyUpdate t _ => some t
  | .heartbeat t _ => some t
  | .endSession t _ => some t
  | .ideKm p _ _ => some (portTransport p)
  | .getTdispVersion v => some (vfDoe v)
  | .getTdispCapabilities v => some (vfDoe v)
  | .lockInterfaceRequest v _ => some (vfDoe v)
  | .startInterfaceRequest v => some (vfDoe v)
  | .stopInterfaceRequest v => some (vfDoe v)
  | .getDeviceInterfaceReport v => some (vfDoe v)
  | .getDeviceInterfaceState v => some (vfDoe v)
  | .generate v _ => some (vfDoe v)
  | .importKey v _ _ => some (vfDoe v)
  | .erase v _ _ => some (vfDoe v)
  | .listKeys v _ => some (vfDoe v)
  | _ => none

/-- A request to the security core reaches it and is served: the device but for the event controllers is as `P` says. -/
def Served (i : Instr) (s : State) (P : Dev → Prop) : Prop :=
  ∀ t, secTransport i = some t → s.dev.hasTransport t = true → s.dev.secUp = true → Gives i s P

/-- A step with a command at the front of the queue is the meaning of that command on the state with the rest of the queue (the
block's queue is first in, first out). -/
def Obligations.StepRunsFront : Prop :=
  ∀ (c : Instr) (rest : List Instr) (s : State), step { s with pending := c :: rest } = exec c { s with pending := rest }

/-- R188, R346, R297, R512: with no command waiting, a step is one reference period (the model's choice, log entry 1): both
hubs' counts rise by exactly one while the device has power and the reference clock runs; the service counters of compositions
and the core microseconds of contexts may rise with them, and nothing else changes. Without power or clock nothing changes at
all. -/
def Obligations.IdleStepTicks : Prop :=
  (∀ s : State, s.pending = [] → s.dev.clk.powered = true → s.dev.clk.running = true → s.dev.clk.hlc0 ≠ BitVec.allOnes 64 →
    s.dev.clk.hlc1 ≠ BitVec.allOnes 64 → ∃ t, step s = .next t ∧ t.dev.clk.hlc0 = s.dev.clk.hlc0 + 1 ∧
    t.dev.clk.hlc1 = s.dev.clk.hlc1 + 1 ∧ t.mem = s.mem ∧ t.pending = [] ∧
    { t.dev with
      clk := s.dev.clk
      vds := s.dev.vds
      ctxs := s.dev.ctxs } = s.dev ∧
    (t.dev.vds.map fun e => (e.1, { e.2 with ctr := [] })) = (s.dev.vds.map fun e => (e.1, { e.2 with ctr := [] })) ∧
    ∀ c, ∃ us, t.dev.ctx? c = (s.dev.ctx? c).map fun x => { x with coreUs := x.coreUs + us }) ∧
  (∀ s : State, s.pending = [] → s.dev.clk.powered = false ∨ s.dev.clk.running = false → step s = .next s)

/-- Every command answers a next state in every state: no command of the table is refused or faults; and no command touches the
queue of those behind it. -/
def Obligations.EveryCommandAnswers : Prop :=
  ∀ (c : Instr) (s : State), ∃ t, exec c s = .next t ∧ t.pending = s.pending

/-- Every step that answers a next state keeps the canonical form of device memory (addresses rising and inside the stacks, no
entry equal to what an unlisted byte or line reads as). -/
def Obligations.StepKeepsMemory : Prop :=
  ∀ s t : State, s.mem.wf = true → step s = .next t → t.mem.wf = true

/-- What reset leaves: memory in canonical form with nothing listed, no command waiting, no power, every unit out of service, no
virtual device, the default power bounds (Table 18-2) and the default alarm levels (Table 19-4), and no reading pending. -/
def Obligations.ResetState : Prop :=
  State.reset.mem.wf = true ∧ State.reset.pending = [] ∧ State.reset.dev.clk.powered = false ∧ State.reset.dev.clk.hlc0 = 0 ∧
  State.reset.dev.clk.hlc1 = 0 ∧ State.reset.dev.boot.ready = false ∧ State.reset.dev.vds = [] ∧ State.reset.dev.fw.state = 0 ∧
  State.reset.dev.pwr.bounds = ⟨17400, 1500, 14400, 600, 2100, 300, 500, 1100, 7⟩ ∧ State.reset.dev.sec.level = 0 ∧
  (∀ n, (State.reset.dev.core n).state = .unpowered) ∧ (∀ c, (State.reset.dev.chan c).state = .unpowered) ∧
  (∀ a, State.reset.mem.raw a = emptyByte) ∧
  (∀ src, State.reset.dev.alarmLevel src = if src = 1 ∨ src = 2 ∨ src = 5 then 3 else if src = 3 ∨ src = 4 ∨ src = 6 ∨ src = 7 then 2
    else if 8 ≤ src ∧ src ≤ 13 then 1 else 0)

/-- R48: the integer formats are two's complement, and every pattern is a number. -/
def Obligations.IntegerPatterns : Prop :=
  ∀ f, f = Fmt.int4 ∨ f = .int8 ∨ f = .int32 ∨ f = .int64 →
    let w := fmtBits f
    (∀ b, ∃ i : Int, decodeElem f b = valOfInt i ∧ -(2 ^ (w - 1) : Int) ≤ i ∧ i ≤ (2 ^ (w - 1) : Int) - 1 ∧
      (b < 2 ^ w → i = if b < 2 ^ (w - 1) then (b : Int) else (b : Int) - (2 ^ w : Int))) ∧
    ∀ i : Int, -(2 ^ (w - 1) : Int) ≤ i → i ≤ (2 ^ (w - 1) : Int) - 1 → ∃ b, b < 2 ^ w ∧ decodeElem f b = valOfInt i

/-- R67: a peat word is stored in 96 bytes, byte k of which holds bits 8k to 8k + 7 of the stored value: N in bits 639 to 0,
NAN, PINF and NINF above it, and zeros above those; and what is stored reads back as the word it was. -/
def Obligations.PeatWordStored : Prop :=
  ∀ p : Peat, let stored := p.n.toNat + 2 ^ 640 * ((if p.nan then 1 else 0) + (if p.pinf then 2 else 0) + (if p.ninf then 4 else 0))
    (peatBytes p).length = 96 ∧ (∀ k, k < 96 → (peatBytes p)[k]? = some (BitVec.ofNat 8 (stored / 2 ^ (8 * k)))) ∧
    peatOfBytes (peatBytes p) = p

/-- R71: adding a term, or a word, adds N modulo 2^640 and joins the flags; and any order of the same terms gives the same word.
-/
def Obligations.PeatAddition : Prop :=
  (∀ (p : Peat) (x : Ex), let q := peatAddTerm p (.fin x)
    q.n.toInt = (p.n.toInt + termInt x).bmod (2 ^ 640) ∧ q.nan = p.nan ∧ q.pinf = p.pinf ∧ q.ninf = p.ninf) ∧
  (∀ (p : Peat) (sig neg : Bool), peatAddTerm p (.nan sig) = { p with nan := true } ∧
    peatAddTerm p (.inf neg) = { p with
      pinf := p.pinf || !neg
      ninf := p.ninf || neg }) ∧
  (∀ (p q : Peat), (peatAdd p q).n.toInt = (p.n.toInt + q.n.toInt).bmod (2 ^ 640) ∧ (peatAdd p q).nan = (p.nan || q.nan) ∧
    (peatAdd p q).pinf = (p.pinf || q.pinf) ∧ (peatAdd p q).ninf = (p.ninf || q.ninf)) ∧
  (∀ (l m : List Val) (p : Peat), l.Perm m → l.foldl peatAddTerm p = m.foldl peatAddTerm p) ∧
  (∀ (l m : List Val) (p q : Peat), peatAdd (l.foldl peatAddTerm p) (m.foldl peatAddTerm q) = (l ++ m).foldl peatAddTerm (peatAdd p q))

/-- R78, R79, R81, R82: whether a term spills changes no result. A window that takes any terms in any order, each spilled value
going to its slot, gives with its slot the exact sum of all the terms. -/
def Obligations.WindowSumsAreExact : Prop :=
  ∀ (l : List Val) (w : Window) (slot : Peat),
    let spill (q : Peat) (o : Option Int) : Peat := match o with
      | some i => peatAdd q ⟨BitVec.ofInt 640 i, false, false, false⟩
      | none => q
    let run := l.foldl (fun (a : Window × Peat) v => ((windowAdd a.1 v).1, spill a.2 (windowAdd a.1 v).2)) (w, slot)
    windowPlusSlot run.1 run.2 = l.foldl peatAddTerm (windowPlusSlot w slot)

/-- R83 … R86: a word leaves as a fragment and is read back as it was, in one fragment where it spans at most 192 bits and else
under the ordinal of its full word; a fragment of another kind, or with a base above 448, is corrupted. -/
def Obligations.FragmentsKeepWords : Prop :=
  (∀ (p : Peat) (o : Nat), fragDecode (fragEncode p o).1 = if (fragEncode p o).2 then .full (o % 2 ^ 32) else .span p) ∧
  (∀ (p : Peat) (o : Nat) (i : Int) (b : Nat), b ≤ 448 → -(2 ^ 191 : Int) ≤ i → i < (2 ^ 191 : Int) → p.n = BitVec.ofInt 640 (i * (2 ^ b : Int)) →
    (fragEncode p o).2 = false) ∧
  (∀ f : BitVec 256, bits f.toNat 255 252 ≠ 1 → bits f.toNat 255 252 ≠ 2 → fragDecode f = .corrupt) ∧
  (∀ f : BitVec 256, bits f.toNat 255 252 = 1 → 448 < bits f.toNat 201 192 → fragDecode f = .corrupt)

/-- R524, R525, R261, R465, R3, R7: REGISTER_WRITE. A function whose BAR0 does not take the access changes nothing. Otherwise
every register that the write touches acts, in ascending order, the doorbell array among them, each on the bytes written. A
write that touches read-only registers or undefined offsets alone changes nothing. A write of all of `GQI_ID_HWBASE` replaces
it, and changes nothing where the value is no multiple of 64 KiB; a narrower write of `XLT_MASTER_BASE` replaces the bytes
written; and each plain RW register of Table 10-3 reads back as it was written. The BAR0 of a carrier function ignores writes
and reads as 0 (R349). R266, R268, R279, R365: a write into the doorbell array. An aligned write of eight bytes is the doorbell
of its queue, which records the tail, and with RETRY tries the backlog again unless the virtual device is frozen; a queue that
is FREE or not granted, or a tail not below the ring's size, sets BAD_DOORBELL; another write into the array sets NARROW_WRITE,
and one beside it does nothing. A write of the completion head of a queue records it and tries the backlog again; one not below
the ring's size sets CQ_HEAD_RANGE and records nothing; of a FREE queue it does nothing. A closed function takes none of them.
R363, R364, R465: a write of a vector's Mask bit, or of the Function Mask, sets it, and every vector that is pending and now no
longer masked sends its one message, in ascending order; with the mask set nothing is sent. The moderation timer sends the held
events of a vector as one message, or sets its pending bit while it or the function is masked; with none held it does nothing.
R403, R404, R406: a write of the admin tail records it, tells the scheduler, and answers the requests at the head that no row of
Table 16-10 names; a write of the event head frees entries, and the events held for want of room are posted in the order first
raised as far as they now fit. A closed function takes neither. -/
def Obligations.RegisterWrites : Prop :=
  (∀ (s : State) (fn : FnId) (off : BarAt) (bs : List Byte), s.dev.barTakes fn.val off.ide = false →
    exec (.registerWrite (.fn fn) off bs) s = .next s) ∧
  (∀ (s : State) (fn : FnId) (off : BarAt) (bs : List Byte), s.dev.barTakes fn.val off.ide = true → fn.val = mgr →
    exec (.registerWrite (.fn fn) off bs) s = .next (after s
      ((barRegs mgr off.off bs.length).foldl (fun k r => r.write off.off bs k) (work s)))) ∧
  (∀ (s : State) (fn : FnId) (off : BarAt) (bs : List Byte), s.dev.barTakes fn.val off.ide = true → fn.val ≠ mgr →
    let below (r : BarReg) : Bool := decide (r.off < 0x2000)
    let rs := barRegs fn.val off.off bs.length
    exec (.registerWrite (.fn fn) off bs) s = .next (after s ((rs.filter fun r => !below r).foldl (fun k r => r.write off.off bs k)
      (doDoorbell (asVDev fn.val) off.off bs ((rs.filter below).foldl (fun k r => r.write off.off bs k) (work s)))))) ∧
  (∀ (s : State) (fn : FnId) (off : BarAt) (bs : List Byte), off.off + bs.length ≤ 0x14 ∨ (0x28 ≤ off.off ∧ off.off + bs.length ≤ 0x100) →
    exec (.registerWrite (.fn fn) off bs) s = .next s) ∧
  (∀ (s : State) (v : FnId) (ide : Option Nat) (bs : List Byte), v.val ≠ mgr → s.dev.barTakes v.val ide = true → bs.length = 8 →
    leNat bs % 65536 = 0 →
    Gives (.registerWrite (.fn v) ⟨0x20, ide⟩ bs) s fun d =>
      d.fn v.val = { s.dev.fn v.val with hwbase := BitVec.ofNat 64 (leNat bs) } ∧
      (∀ i, i ≠ v.val → d.fn i = s.dev.fn i) ∧ { d with fns := s.dev.fns } = s.dev) ∧
  (∀ (s : State) (v : FnId) (ide : Option Nat) (bs : List Byte), v.val ≠ mgr → bs.length = 8 → leNat bs % 65536 ≠ 0 →
    Gives (.registerWrite (.fn v) ⟨0x20, ide⟩ bs) s fun d => (∀ i, d.fn i = s.dev.fn i) ∧ { d with fns := s.dev.fns } = s.dev) ∧
  (∀ (s : State) (v : FnId) (ide : Option Nat) (b : Byte) (i : Nat), v.val ≠ mgr → s.dev.barTakes v.val ide = true → i < 8 →
    Gives (.registerWrite (.fn v) ⟨0x800 + i, ide⟩ [b]) s fun d =>
      ((d.fn v.val).masterBase >>> (8 * i)).truncate 8 = b ∧
      (∀ j, j < 8 → j ≠ i → ((d.fn v.val).masterBase >>> (8 * j)).truncate 8 = ((s.dev.fn v.val).masterBase >>> (8 * j)).truncate 8) ∧
      { d.fn v.val with masterBase := (s.dev.fn v.val).masterBase } = s.dev.fn v.val) ∧
  (∀ (s : State) (p : Fin 3) (off : BarAt) (bs : List Byte), exec (.registerWrite (.carrier p) off bs) s = .next s) ∧
  (∀ (d : Dev) (p : Fin 3) (off n : Nat), d.pfRead (.carrier p) off n = List.replicate n 0) ∧
  (∀ (s : State) (v : FnId) (ide : Option Nat) (o n : Nat) (bs : List Byte), v.val ≠ mgr → s.dev.barTakes v.val ide = true →
    (o, n) ∈ [(0x800, 8), (0x808, 4), (0x810, 4), (0x814, 4), (0x818, 8), (0x820, 4)] → bs.length = n →
    Gives (.registerWrite (.fn v) ⟨o, ide⟩ bs) s fun d => d.barRead v.val o n = bs) ∧
  (∀ (s : State) (v : VDev) (q : QId) (w : BitVec 64) (x : Queue), s.dev.barOpen v.val = true →
    s.dev.queue? v.val q.val = some x → q.val < (s.dev.vd v.val).queueGrant → bits w.toNat 15 0 < x.S → bitAt w.toNat 16 = false →
    Gives (.doorbell v (0x2000 + 8 * q.val) (natLe 8 w.toNat)) s fun d =>
      d = s.dev.setQueue v.val q.val { x with tail := bits w.toNat 15 0 }) ∧
  (∀ (s : State) (v : VDev) (q : QId) (w : BitVec 64) (x : Queue), s.dev.barOpen v.val = true →
    s.dev.queue? v.val q.val = some x → q.val < (s.dev.vd v.val).queueGrant → bits w.toNat 15 0 < x.S → bitAt w.toNat 16 = true →
    (s.dev.vd v.val).frozen = false →
    exec (.doorbell v (0x2000 + 8 * q.val) (natLe 8 w.toNat)) s = .next (after s (retryQueue v.val q.val
      ((work s).on fun d => d.setQueue v.val q.val { x with tail := bits w.toNat 15 0 })))) ∧
  (∀ (s : State) (v : VDev) (q : QId) (w : BitVec 64), s.dev.barOpen v.val = true →
    (∀ x, s.dev.queue? v.val q.val = some x → (s.dev.vd v.val).queueGrant ≤ q.val ∨ x.S ≤ bits w.toNat 15 0) →
    Gives (.doorbell v (0x2000 + 8 * q.val) (natLe 8 w.toNat)) s (fun d => d = setErr v.val 1 s.dev) ∧
    Gives (.doorbellRetry v q w) s fun d => d = setErr v.val 1 s.dev) ∧
  (∀ (s : State) (v : VDev) (off : Nat) (bs : List Byte), s.dev.barOpen v.val = true → 0x2000 < off + bs.length → off < 0x2800 → bs ≠ [] →
    (bs.length ≠ 8 ∨ off < 0x2000 ∨ off % 8 ≠ 0) → Gives (.doorbell v off bs) s fun d => d = setErr v.val 2 s.dev) ∧
  (∀ (s : State) (v : VDev) (off : Nat) (bs : List Byte), s.dev.barOpen v.val = false ∨ off + bs.length ≤ 0x2000 ∨ 0x2800 ≤ off ∨ bs = [] →
    exec (.doorbell v off bs) s = .next s) ∧
  (∀ (s : State) (v : VDev) (q : QId) (w : BitVec 64) (x : Queue), s.dev.barOpen v.val = true →
    s.dev.queue? v.val q.val = some x → q.val < (s.dev.vd v.val).queueGrant → bits w.toNat 15 0 < x.S →
    exec (.doorbellRetry v q w) s = .next (after s
      (let k := (work s).on fun d => d.setQueue v.val q.val { x with tail := bits w.toNat 15 0 }
       if (s.dev.vd v.val).frozen then k else retryQueue v.val q.val k))) ∧
  (∀ (s : State) (v : VDev) (q : QId) (w : BitVec 64), s.dev.barOpen v.val = false → exec (.doorbellRetry v q w) s = .next s) ∧
  (∀ (s : State) (v : VDev) (q : QId) (w : BitVec 32) (x : Queue), s.dev.barOpen v.val = true →
    s.dev.queue? v.val q.val = some x → w.toNat < x.C →
    exec (.cqHeadWrite v q w) s = .next (after s (retryQueue v.val q.val
      ((work s).on fun d => d.setQueue v.val q.val { x with cqHead := w.toNat })))) ∧
  (∀ (s : State) (v : VDev) (q : QId) (w : BitVec 32) (x : Queue), s.dev.barOpen v.val = true →
    s.dev.queue? v.val q.val = some x → w.toNat < x.C → x.backlog = [] → x.state = .active →
    Gives (.cqHeadWrite v q w) s fun d => d = s.dev.setQueue v.val q.val { x with cqHead := w.toNat }) ∧
  (∀ (s : State) (v : VDev) (q : QId) (w : BitVec 32) (x : Queue), s.dev.barOpen v.val = true →
    s.dev.queue? v.val q.val = some x → x.C ≤ w.toNat →
    Gives (.cqHeadWrite v q w) s fun d => d = setErr v.val 4 s.dev) ∧
  (∀ (s : State) (v : VDev) (q : QId) (w : BitVec 32), s.dev.barOpen v.val = false ∨ s.dev.queue? v.val q.val = none →
    exec (.cqHeadWrite v q w) s = .next s) ∧
  (∀ (s : State) (fn : FnId) (i : Fin 64) (m : Bool), s.dev.barOpen fn.val = true →
    Gives (.msixVectorControlWrite fn (some i) m) s fun d => d = releaseVecs fn.val
      (s.dev.onFn fn.val fun f => { f with vecs := Tab.put f.vecs i.val { f.vec i.val with mask := m } })) ∧
  (∀ (s : State) (fn : FnId) (m : Bool), s.dev.barOpen fn.val = true →
    Gives (.msixVectorControlWrite fn none m) s fun d => d = releaseVecs fn.val (s.dev.onFn fn.val fun f => { f with fnMask := m })) ∧
  (∀ (s : State) (fn : FnId) (o : Option (Fin 64)) (m : Bool), s.dev.barOpen fn.val = false →
    exec (.msixVectorControlWrite fn o m) s = .next s) ∧
  (∀ (s : State) (fn : FnId) (i : Fin 64), s.dev.barOpen fn.val = true →
    Gives (.msixVectorControlWrite fn (some i) true) s fun d =>
      (d.fn fn.val).vec i.val = { (s.dev.fn fn.val).vec i.val with mask := true }) ∧
  (∀ (s : State) (fn : FnId), s.dev.barOpen fn.val = true →
    Gives (.msixVectorControlWrite fn none true) s fun d =>
      d = s.dev.onFn fn.val fun f => { f with fnMask := true }) ∧
  (∀ (s : State) (fn : FnId) (i : Fin 64), s.dev.barOpen fn.val = true → (s.dev.fn fn.val).fnMask = false →
    ((s.dev.fn fn.val).vec i.val).pend = true →
    Gives (.msixVectorControlWrite fn (some i) false) s fun d =>
      (d.fn fn.val).vec i.val = { (s.dev.fn fn.val).vec i.val with mask := false, pend := false } ∧
      .msix fn.val i.val ((s.dev.fn fn.val).vec i.val).addr ((s.dev.fn fn.val).vec i.val).data ∈ d.out) ∧
  (∀ (s : State) (fn : FnId) (i : Fin 64), ((s.dev.fn fn.val).vec i.val).held ≠ 0 →
    Gives (.msixModerationTimer fn i) s fun d =>
      let x := (s.dev.fn fn.val).vec i.val
      let masked := (s.dev.fn fn.val).fnMask || x.mask
      d.out = s.dev.out ++ (if masked then [] else [.msix fn.val i.val x.addr x.data]) ∧
      (d.fn fn.val).vec i.val = { x with
        pend := masked
        held := 0 } ∧
      (∀ j, j ≠ i.val → (d.fn fn.val).vec j = (s.dev.fn fn.val).vec j) ∧ { d with fns := s.dev.fns, out := s.dev.out } = s.dev) ∧
  (∀ (s : State) (fn : FnId) (i : Fin 64), ((s.dev.fn fn.val).vec i.val).held = 0 → exec (.msixModerationTimer fn i) s = .next s) ∧
  (∀ (s : State) (fn : FnId) (w : BitVec 32), s.dev.barOpen fn.val = true →
    Gives (.adminTailWrite fn w) s fun d => d = answerUnknown fn.val 32 (raiseSrc s.dev.schedHub fn.val
      (s.dev.onFn fn.val fun f => { f with adTail := BitVec.ofNat 32 (bits w.toNat 4 0) }))) ∧
  (∀ (s : State) (fn : FnId) (w : BitVec 32), s.dev.barOpen fn.val = true →
    Gives (.evHeadWrite fn w) s fun d => d = drainHeld fn.val (s.dev.fn fn.val).evHeld.length
      (s.dev.onFn fn.val fun f => { f with evHead := BitVec.ofNat 32 (bits w.toNat 7 0) })) ∧
  (∀ (s : State) (fn : FnId) (w : BitVec 32), s.dev.barOpen fn.val = true → (s.dev.fn fn.val).evHeld = [] →
    Gives (.evHeadWrite fn w) s fun d => d = s.dev.onFn fn.val fun f => { f with evHead := BitVec.ofNat 32 (bits w.toNat 7 0) }) ∧
  (∀ (s : State) (fn : FnId) (w : BitVec 32) (e : HeldEvent), s.dev.barOpen fn.val = true → (s.dev.fn fn.val).evHeld = [e] →
    (s.dev.fn fn.val).evIndex ≠ (bits w.toNat 7 0 + 255) % 256 →
    Gives (.evHeadWrite fn w) s fun d => (d.fn fn.val).evHeld = [] ∧ (d.fn fn.val).evSeq = (s.dev.fn fn.val).evSeq + 1 ∧
      (d.fn fn.val).evIndex = ((s.dev.fn fn.val).evIndex + 1) % 256) ∧
  (∀ (s : State) (fn : FnId) (w : BitVec 32), s.dev.barOpen fn.val = false →
    exec (.adminTailWrite fn w) s = .next s ∧ exec (.evHeadWrite fn w) s = .next s)

/-- R403, R401: NEGOTIATE of a function without queues sets its mask to what the driver, the firmware and, for a virtual
function, the manager's mask allow, and answers it in the request's response slot with OK and the request's tag. The slot is the
last that was submitted. R264, R290, R294: the requests on queues and contexts. CREATE_QUEUE makes the queue ACTIVE with empty
rings, READ_BACKLOG takes the oldest records off the backlog and writes them with phase 0, CREATE_CONTEXT makes the lowest free
number live. -/
def Obligations.QueueRequests : Prop :=
  (∀ (s : State) (fn : FnId) (i : Nat) (bs : List Byte), Accepted s.dev fn.val (adRow 0x0001 16) i bs →
    (fn.val = mgr ∨ (s.dev.vd fn.val).queues = []) →
    bits (s.dev.fn fn.val).adTail.toNat 4 0 = (i + 1) % 32 →
    Gives (.negotiate fn) s fun d =>
      let m := effectiveMask s.dev fn.val (BitVec.ofNat 128 (fieldLe bs 0x20 16))
      (d.fn fn.val).feat = m ∧ (d.fn fn.val).adHead = BitVec.ofNat 32 ((i + 1) % 32) ∧
      Tab.get? (d.fn fn.val).respSlots i =
        some (responseBytes stOk 0 (Tab.getD (s.dev.fn fn.val).respUsed i 0 % 2 == 0) (BitVec.ofNat 32 (fieldLe bs 4 4)) (natLe 16 m.toNat))) ∧
  (∀ (s : State) (v : VDev) (i : Nat) (bs : List Byte), Accepted s.dev v.val (adRow 0x0101 64) i bs →
    let cfg := (headReq v.val i bs).args.take 64
    let x := mkQueue s.dev.sched.nextUid (lowestFree 0 s.dev.devqs) cfg
    let q := fieldLe cfg 0 2
    queueFieldsOk cfg = true → q < (s.dev.vd v.val).queueGrant → ringsOk (s.dev.vd v.val).table x = true →
    (Tab.get? (s.dev.vd v.val).parts x.part).isSome = true → s.dev.queue? v.val q = none → s.dev.devqs.length < 4096 →
    Gives (.createQueue v) s fun d => d.queue? v.val q = some x ∧ x.state = .active ∧ x.backlog = [] ∧ x.cqPhase = true ∧
      ∀ u r, u ≠ v.val → d.queue? u r = s.dev.queue? u r) ∧
  (∀ (s : State) (v : VDev) (i : Nat) (bs : List Byte) (x : Queue),
    Accepted s.dev v.val { adRow 0x0102 4 with bulk := true } i bs →
    let r := headReq v.val i bs
    let n := fieldLe r.args 2 2
    let rs := (x.backlog.take n).flatMap fun y => y.bytes false
    let hub := hubEng v.val
    0 < n → n ≤ 256 → fieldLe r.args 0 2 < 256 → s.dev.queue? v.val (fieldLe r.args 0 2) = some x →
    checkAs hub s.dev v.val needW (parts r.result rs.length) = none →
    exec (.readBacklog v) s = .next (after s (finish r (.done stOk 0 (natLe 2 (x.backlog.take n).length))
      ((writeAs hub v.val r.result rs none ((work s).on (useXlt hub v.val [(r.result, rs.length)]))).1.on fun d =>
        resumeQueue v.val (fieldLe r.args 0 2)
          (d.setQueue v.val (fieldLe r.args 0 2) { x with backlog := x.backlog.drop n }))))) ∧
  (∀ (s : State) (v : VDev) (i : Nat) (bs : List Byte), Accepted s.dev v.val (adRow 0x0201 0) i bs →
    let live := s.dev.ctxs.filter fun c => !c.2.destroying
    let n := lowestFree 1 (s.dev.ctxs.map Prod.fst)
    live.length < 65536 → (live.filter fun c => c.2.vdev == v.val).length < 4096 → n < 2 ^ 20 →
    Gives (.createContext v) s fun d => d.ctxs = Tab.put s.dev.ctxs n ⟨v.val, false, 0, 0, 0, 0, 0, 0⟩ ∧ d.vds = s.dev.vds)

/-- R312, R313, R314: the destructions. A queue in DESTROYING fails what has not started with 0x0001; the grace ends by killing
what runs; with no command left the queue is FREE, and with no started command of it left a context goes. A fence that its
creator destroys fails at every value not yet signalled, and its slot is released when no command within the horizon names it.
-/
def Obligations.DestructionRequests : Prop :=
  (∀ (s : State) (v : VDev) (i : Nat) (bs : List Byte) (x : Queue),
    Accepted s.dev v.val { adRow 0x0220 2 with flags := 1 } i bs →
    let r := headReq v.val i bs
    let q := fieldLe r.args 0 2
    let w := destroyQueueNow v.val q (work s)
    let now := bitAt r.flags 0
    let running := (w.dev.cur? v.val q).any fun c => c.started
    q < 256 → s.dev.queue? v.val q = some x → x.state ≠ .destroying →
    exec (.destroyQueue v) s = .next (after s (finish r (.later (.destroyQueue q now))
      (if now && running then killStarted v.val q 1 w else w)))) ∧
  (∀ (s : State) (v : VDev) (i : Nat) (bs : List Byte) (x : Ctx),
    Accepted s.dev v.val { adRow 0x0202 4 with flags := 1 } i bs →
    let ctx := fieldLe (headReq v.val i bs).args 0 4
    0 < ctx → ctx < 2 ^ 20 → s.dev.ctx? ctx = some x → x.vdev = v.val → x.destroying = false → (s.dev.vd v.val).queues = [] →
    Gives (.destroyContext v) s fun d => d.ctx? ctx = some { x with destroying := true }) ∧
  (∀ (s : State) (v : VDev) (i : Nat) (bs : List Byte) (x : Ctx),
    Accepted s.dev v.val { adRow 0x0202 4 with flags := 1 } i bs →
    let r := headReq v.val i bs
    let ctx := fieldLe r.args 0 4
    let now := bitAt r.flags 0
    let read := (fetchVd v.val (work s)).on fun d => d.onCtx ctx fun x => { x with destroying := true }
    let qs := (read.dev.vd v.val).queues.map Prod.fst
    let doomed := qs.foldl (fun w q => doomContext v.val q ctx w) read
    let nos := qs.flatMap fun q => (((doomed.dev.queue? v.val q).map Queue.cmds).getD []).filterMap fun c =>
      if c.context == ctx then some c.no else none
    let w := doomed.on (dropShadows fun _ no => nos.contains no)
    let started := (w.dev.vd v.val).queues.filterMap fun e => match e.2.cur with
      | some c => if c.started && c.context == ctx then some (e.1, c.no) else none
      | none => none
    0 < ctx → ctx < 2 ^ 20 → s.dev.ctx? ctx = some x → x.vdev = v.val → x.destroying = false →
    exec (.destroyContext v) s = .next (after s (finish r (.later (.destroyContext ctx now (started.map Prod.snd)))
      (if now then started.foldl (fun w c => killStarted v.val c.1 1 w) w else w)))) ∧
  (∀ (s : State) (v : VDev) (i : Nat) (bs : List Byte) (x : FSlot),
    Accepted s.dev v.val (adRow 0x0211 6) i bs →
    let id := fieldLe (headReq v.val i bs).args 0 4
    let code := fieldLe (headReq v.val i bs).args 4 2
    (code = 1 ∨ code = 5) → (s.dev.vd v.val).fence? id = some x → x.destroyed = false → x.owned = true →
    Gives (.destroyFence v) s fun d => (d.vd v.val).slot (fidSlot id) = { x with destroyed := true } ∧
      (∀ k, x.ref = .cell k → ∃ f, d.fx.reqs = s.dev.fx.reqs ++ [f] ∧ f.cell = k ∧ f.op = .fail code (BitVec.allOnes 64)) ∧
      (∀ pv ps, x.ref = .proxy pv ps → s.dev.proxyFailed pv ps = false →
        ∃ f, d.fx.remote = s.dev.fx.remote ++ [f] ∧ f.vdev = pv ∧ f.slot = ps ∧ f.op = .fail code (BitVec.allOnes 64))) ∧
  (∀ (s : State) (v : VDev) (i : Nat) (bs : List Byte) (x : FSlot),
    Accepted s.dev v.val (adRow 0x0211 6) i bs →
    let id := fieldLe (headReq v.val i bs).args 0 4
    let code := fieldLe (headReq v.val i bs).args 4 2
    (code = 1 ∨ code = 5) → (s.dev.vd v.val).fence? id = some x → x.destroyed = false → x.owned = false →
    Gives (.destroyFence v) s fun d => (d.vd v.val).slot (fidSlot id) = { x with destroyed := true } ∧ d.fx = s.dev.fx) ∧
  (∀ (s : State) (v : VDev) (slot : Fin 32) (t : Taken) (q : Nat), Tab.get? (s.dev.fn v.val).taken slot.val = some t →
    t.op = .destroyQueue q false →
    let mark (d : Dev) : Dev := (d.advance (hubOf v.val) (t.since + graceTicks)).onFn v.val fun f =>
      { f with taken := Tab.put f.taken slot.val { t with op := .destroyQueue q true } }
    exec (.destroyGraceExpiry v slot) s = .next (after s (killStarted v.val q 1 ((work s).on mark)))) ∧
  (∀ (s : State) (v : VDev) (slot : Fin 32) (t : Taken) (q : Nat), Tab.get? (s.dev.fn v.val).taken slot.val = some t →
    t.op = .destroyQueue q false → s.dev.cur? v.val q = none →
    Gives (.destroyGraceExpiry v slot) s fun d =>
      Tab.get? (d.fn v.val).taken slot.val = some { t with op := .destroyQueue q true }) ∧
  (∀ (s : State) (v : VDev) (slot : Fin 32) (t : Taken) (ctx : Nat) (b : Bool) (started : List Nat),
    Tab.get? (s.dev.fn v.val).taken slot.val = some t → t.op = .destroyContext ctx b started → (s.dev.vd v.val).queues = [] →
    Gives (.destroyComplete v slot) s fun d => d.ctxs = Tab.del s.dev.ctxs ctx ∧ (d.vd v.val).queues = [] ∧
      Tab.get? (d.fn v.val).taken slot.val = none) ∧
  (∀ (s : State) (v : VDev) (slot : Fin 32) (t : Taken) (ctx : Nat) (b : Bool) (started : List Nat),
    let live := (s.dev.vd v.val).queues.any fun q => q.2.cur.any fun c => started.contains c.no
    let late (x : Queue) : Queue := if x.unfetched.isEmpty && x.chainNext.isNone then x
      else { x with doomed := x.doomed ++ [(ctx, x.nFetched + x.unfetched.length)] }
    Tab.get? (s.dev.fn v.val).taken slot.val = some t → t.op = .destroyContext ctx b started →
    exec (.destroyComplete v slot) s = .next (after s (if live then work s else (fetchVd v.val (work s)).on fun d =>
      adRespond v.val slot.val t.tag stOk 0 [] ({ d with ctxs := Tab.del d.ctxs ctx }.onVd v.val fun y =>
        { y with queues := y.queues.map fun (q : Nat × Queue) => (q.1, late q.2) })))) ∧
  (∀ (s : State) (v : VDev) (slot : Fin 32) (t : Taken) (q : Nat) (b : Bool), Tab.get? (s.dev.fn v.val).taken slot.val = some t →
    t.op = .destroyQueue q b → s.dev.cur? v.val q = none →
    Gives (.destroyComplete v slot) s fun d => d = adRespond v.val slot.val t.tag stOk 0 [] (freeQueue v.val q s.dev)) ∧
  (∀ (s : State) (v : VDev) (slot : Fin 32) (t : Taken) (i : Nat) (h : List (Nat × Nat)),
    let id := fenceId i ((s.dev.vd v.val).slot i).use
    let names (c : Cmd) : Bool := c.sigId == id || (List.range (min c.nWait 4)).any fun j => c.waitId j == id
    let held := (s.dev.vd v.val).queues.any fun q => horizonHolds h names q.2
    Tab.get? (s.dev.fn v.val).taken slot.val = some t → t.op = .destroyFence i h →
    Gives (.fenceSlotRelease v slot) s fun d =>
      d = if held then s.dev else adRespond v.val slot.val t.tag stOk 0 [] (releaseSlot v.val i s.dev))

/-- R299, R301, R303, R304: the requests on fences. A created fence is a LIVE cell with the initial value; a signal goes to the
fence's home; a read answers the state, the value and the error of the cell, and one of a fence of another package waits for
what its home answers; an export draws a token; an import with that token binds a slot; a revoked export is gone. R307, R308,
R309: a release names its span and waits for every earlier reference; a forced one is admitted where the span is REVOKED and
holds no ring; each is answered when nothing holds the span. -/
def Obligations.FenceAndReleaseRequests : Prop :=
  (∀ (s : State) (v : VDev) (i : Nat) (bs : List Byte) (j k : Nat), Accepted s.dev v.val (adRow 0x0210 8) i bs →
    (s.dev.vd v.val).freeSlot = some j → (s.dev.vd v.val).dies.findSome? (freeCell s.dev) = some k →
    Gives (.createFence v) s fun d =>
      (d.cell k).state = 1 ∧ (d.cell k).vdev = v.val ∧ (d.cell k).error = 0 ∧
      (d.cell k).value = BitVec.ofNat 64 (fieldLe (headReq v.val i bs).args 0 8) ∧
      ((d.vd v.val).slot j).ref = .cell k ∧ ((d.vd v.val).slot j).owned = true ∧ ((d.vd v.val).slot j).inUse = true) ∧
  (∀ (s : State) (v : VDev) (i : Nat) (bs : List Byte) (x : FSlot), Accepted s.dev v.val (adRow 0x0212 12) i bs →
    let a := (headReq v.val i bs).args
    (s.dev.vd v.val).fence? (fieldLe a 0 4) = some x → x.canSignal = true →
    exec (.signalFence v) s = .next (after s (finish (headReq v.val i bs) (.later .signal)
      ((work s).on (sendFence x.ref (.signal (BitVec.ofNat 64 (fieldLe a 4 8))) (.admin v.val i)))))) ∧
  (∀ (s : State) (v : VDev) (i : Nat) (bs : List Byte) (x : FSlot) (k : Nat), Accepted s.dev v.val (adRow 0x0212 12) i bs →
    let a := (headReq v.val i bs).args
    (s.dev.vd v.val).fence? (fieldLe a 0 4) = some x → x.canSignal = true → x.ref = .cell k →
    Gives (.signalFence v) s fun d => ∃ f, d.fx.reqs = s.dev.fx.reqs ++ [f] ∧ f.cell = k ∧
      f.op = .signal (BitVec.ofNat 64 (fieldLe a 4 8))) ∧
  (∀ (s : State) (v : VDev) (i : Nat) (bs : List Byte) (x : FSlot) (k : Nat),
    Accepted s.dev v.val { adRow 0x0213 4 with whileFrozen := true, whileA2 := true } i bs →
    let r := headReq v.val i bs
    (s.dev.vd v.val).fence? (fieldLe r.args 0 4) = some x → x.ref = .cell k → s.dev.cellLost k = false →
    exec (.readFence v) s = .next (after s (finish r (.done stOk 0
      (natLe 1 (s.dev.cell k).state ++ natLe 8 (s.dev.cell k).value.toNat ++ natLe 2 (s.dev.cell k).error.toNat)) (work s)))) ∧
  (∀ (s : State) (v : VDev) (i : Nat) (bs : List Byte) (x : FSlot),
    Accepted s.dev v.val { adRow 0x0213 4 with whileFrozen := true, whileA2 := true } i bs →
    let r := headReq v.val i bs
    (s.dev.vd v.val).fence? (fieldLe r.args 0 4) = some x →
    (match x.ref with | .proxy pv ps => s.dev.proxyFailed pv ps | _ => true) = true →
    exec (.readFence v) s = .next (after s (finish r (.done stOk 0 (match x.ref with
      | .cell k => readReply (readCell k s.dev)
      | .proxy _ _ => readReply (2, 0, 0x11))) (work s)))) ∧
  (∀ (s : State) (v : VDev) (i pv ps : Nat) (bs : List Byte) (x : FSlot),
    Accepted s.dev v.val { adRow 0x0213 4 with whileFrozen := true, whileA2 := true } i bs →
    (s.dev.vd v.val).fence? (fieldLe (headReq v.val i bs).args 0 4) = some x → x.ref = .proxy pv ps → s.dev.proxyFailed pv ps = false →
    takeFirst (fun y : Nat × Nat × Nat × Nat × Nat => y.1 == v.val && y.2.1 == i) s.dev.fx.reads = none →
    (s.dev.fx.remote.any fun y => y.op == .read && y.src == .admin v.val i) = false →
    exec (.readFence v) s = .next (after s ((work s).on (sendFence x.ref .read (.admin v.val i))))) ∧
  (∀ (s : State) (v : VDev) (i pv ps state value error : Nat) (bs : List Byte) (x : FSlot) (rest : List (Nat × Nat × Nat × Nat × Nat)),
    Accepted s.dev v.val { adRow 0x0213 4 with whileFrozen := true, whileA2 := true } i bs →
    let r := headReq v.val i bs
    (s.dev.vd v.val).fence? (fieldLe r.args 0 4) = some x → x.ref = .proxy pv ps → s.dev.proxyFailed pv ps = false →
    takeFirst (fun y : Nat × Nat × Nat × Nat × Nat => y.1 == v.val && y.2.1 == i) s.dev.fx.reads = some ((v.val, i, state, value, error), rest) →
    exec (.readFence v) s = .next (after s (finish r (.done stOk 0 (natLe 1 state ++ natLe 8 value ++ natLe 2 error))
      ((work s).on fun d => d.onFx fun y => { y with reads := rest })))) ∧
  (∀ (s : State) (v : VDev) (i : Nat) (bs : List Byte) (x : FSlot), Accepted s.dev v.val (adRow 0x0214 5) i bs →
    let id := fieldLe (headReq v.val i bs).args 0 4
    let rights := fieldLe (headReq v.val i bs).args 4 1
    0 < rights → rights < 4 → (s.dev.vd v.val).fence? id = some x → x.owned = true → x.destroyed = false →
    (s.dev.exports.filter fun e => e.2.vdev == v.val && e.2.slot == fidSlot id).length < 16 → s.dev.exports.length < 16384 →
    s.dev.secUp = true →
    Gives (.exportFence v) s fun d => ∃ ex y, Tab.get? d.exports ex = some y ∧ y.vdev = v.val ∧ y.slot = fidSlot id ∧
      y.ref = x.ref ∧ y.rights = BitVec.ofNat 8 rights ∧ y.token = (Config.randomBits s.dev.draws).truncate 64) ∧
  (∀ (s : State) (v : VDev) (i : Nat) (bs : List Byte) (y : FExport) (j : Nat), Accepted s.dev v.val (adRow 0x0215 13) i bs →
    let a := (headReq v.val i bs).args
    s.dev.importsBlocked v.val = false → (s.dev.vd v.val).imports.blocked = false → a.length = 13 →
    0 < fieldLe a 12 1 → fieldLe a 12 1 < 4 → Tab.get? s.dev.exports (fieldLe a 0 4) = some y →
    y.token = BitVec.ofNat 64 (fieldLe a 4 8) → fieldLe a 12 1 ||| y.rights.toNat = y.rights.toNat →
    (s.dev.vd v.val).freeSlot = some j → bits (s.dev.fn v.val).adTail.toNat 4 0 = (i + 1) % 32 →
    Gives (.importFence v) s fun d => ((d.vd v.val).slot j).ref = y.ref ∧ ((d.vd v.val).slot j).owned = false ∧
      ((d.vd v.val).slot j).inUse = true) ∧
  (∀ (s : State) (v : VDev) (i p : Nat) (bs : List Byte), Accepted s.dev v.val (adRow 0x0215 13) i bs →
    let r := headReq v.val i bs
    let pkg := fieldLe r.args 13 4
    let rights := fieldLe r.args 12 1
    let x := s.dev.vd v.val
    s.dev.importsBlocked v.val = false → x.imports.blocked = false → pkg ≠ 0 → pkg ≠ s.dev.fab.pkgId.toNat → 0 < rights → rights < 4 →
    p < 16 → bitAt x.ports.toNat p = true → (s.dev.port p).trained = true → (s.dev.port p).peerPkg.toNat = pkg → x.freeSlot.isSome = true →
    bits (s.dev.fn v.val).adTail.toNat 4 0 = (i + 1) % 32 →
    Gives (.importFence v) s fun d =>
      d.out = s.dev.out ++ [.importOut v.val i pkg (fieldLe r.args 0 4) (BitVec.ofNat 64 (fieldLe r.args 4 8)) rights] ∧
      ∃ t, Tab.get? (d.fn v.val).taken i = some t ∧ t.op = .importFence pkg rights ∧ t.tag = r.tag) ∧
  (∀ (s : State) (v : VDev) (i : Nat) (bs : List Byte) (y : FExport), Accepted s.dev v.val (adRow 0x0216 4) i bs →
    let ex := fieldLe (headReq v.val i bs).args 0 4
    Tab.get? s.dev.exports ex = some y → y.vdev = v.val →
    Gives (.revokeExport v) s fun d => d.exports = Tab.del s.dev.exports ex ∧ d.vds = s.dev.vds) ∧
  (∀ (s : State) (v : VDev) (i : Nat) (bs : List Byte) (a n : Nat),
    Accepted s.dev v.val { adRow 0x0230 16 with sel := fun bs => slotOp bs == 0x0230 && !bitAt (fieldLe bs 2 2) 0 } i bs →
    spanOf (headReq v.val i bs).args = some (a, n) → spanIn (s.dev.vd v.val).table (fun _ => true) a n = true →
    bits (s.dev.fn v.val).adTail.toNat 4 0 = (i + 1) % 32 →
    Gives (.releaseRange v) s fun d => ∃ t fs mv, Tab.get? (d.fn v.val).taken i = some t ∧
      t.op = .release a n false (horizonOf (s.dev.vd v.val)) fs mv ∧ d.vds = s.dev.vds) ∧
  (∀ (s : State) (v : VDev) (i : Nat) (bs : List Byte) (a n : Nat),
    Accepted s.dev v.val { adRow 0x0230 16 with
      sel := fun bs => slotOp bs == 0x0230 && bitAt (fieldLe bs 2 2) 0
      flags := 1 } i bs →
    spanOf (headReq v.val i bs).args = some (a, n) → spanIn (s.dev.vd v.val).table (fun _ => true) a n = true →
    spanIn (s.dev.vd v.val).table (fun e => e.res == 4) a n = true →
    (∀ q ∈ (s.dev.vd v.val).queues, q.2.rings.any (rangesMeet (a, n)) = false) →
    let hit := (s.dev.vd v.val).queues.filterMap fun e => match e.2.cur with
      | some c => if c.started && c.namesSpan (a, n) then some (e.1, c.no) else none
      | none => none
    exec (.releaseRangeForce v) s = .next (after s (finish (headReq v.val i bs) (.later (.release a n true [] (hit.map Prod.snd) none))
      (hit.foldl (fun w c => killStarted v.val c.1 4 w) (work s))))) ∧
  (∀ (s : State) (v : VDev) (slot : Fin 32) (t : Taken) (a n : Nat) (h : List (Nat × Nat)) (fs : List Nat) (mv : Option (BitVec 32)),
    Tab.get? (s.dev.fn v.val).taken slot.val = some t → t.op = .release a n false h fs mv →
    releaseHeld s.dev v.val a n h fs mv = false →
    Gives (.releaseComplete v slot) s fun d => d = adRespond v.val slot.val t.tag stOk 0 [] s.dev) ∧
  (∀ (s : State) (v : VDev) (slot : Fin 32) (t : Taken) (a n : Nat) (h : List (Nat × Nat)) (fs : List Nat) (mv : Option (BitVec 32)),
    Tab.get? (s.dev.fn v.val).taken slot.val = some t → t.op = .release a n false h fs mv →
    releaseHeld s.dev v.val a n h fs mv = true → exec (.releaseComplete v slot) s = .next s) ∧
  (∀ (s : State) (v : VDev) (slot : Fin 32) (t : Taken) (a n : Nat) (h : List (Nat × Nat)) (killed : List Nat) (mv : Option (BitVec 32)),
    Tab.get? (s.dev.fn v.val).taken slot.val = some t → t.op = .release a n true h killed mv →
    let live := (s.dev.vd v.val).queues.any fun q => q.2.cur.any fun c => killed.contains c.no
    Gives (.releaseComplete v slot) s fun d => d = if live then s.dev else adRespond v.val slot.val t.tag stOk 0 [] s.dev)

/-- R267, R274, R275, R282: the front end reads the entry at the head of the ring. The descriptor and its range list become a
fetched command, with the refusal of the first check it breaks; the head moves on by one; one that cannot be read puts the queue
in FETCH_ERROR; one that a fault holds waits. A queue that is not fetching, or with nothing submitted, or of a frozen virtual
device, reads nothing. A successor that a completed command named stands before every fetched entry, and a misaligned one is
refused unread; it waits for a cluster control core that is down. Where a read of the front end meets a bad line, its home meets
it first (R219). -/
def Obligations.CommandsAreFetched : Prop :=
  (∀ (s : State) (v : VDev) (q : QId) (x : Queue), s.dev.queue? v.val q.val = some x → x.state.fetches = true →
    x.sqHead ≠ x.tail → (s.dev.vd v.val).frozen = false → s.dev.boot.ready = true → s.dev.sec.level ≠ 3 →
    let run := exec (.commandFetch v (.good q)) s
    match fetchDesc v.val q.val x (x.nFetched + 1) (x.sqBase + 128 * x.sqHead) x.sqHead 0 0 (work s) with
    | (.waits, w) => run = .next (after s w)
    | (.unreadable, w) => run = .next (after s (w.on (fetchError v.val q.val)))
    | (.got c, w) => run = .next (after s (w.on fun d => d.onQueue v.val q.val fun x => { x with
        fetched := x.fetched ++ [c]
        sqHead := (x.sqHead + 1) % x.S
        nFetched := x.nFetched + 1
        rlistFail := 0 }))) ∧
  (∀ (s : State) (v : VDev) (q : QId) (x : Queue), s.dev.queue? v.val q.val = some x →
    (x.state.fetches = false ∨ x.sqHead = x.tail ∨ (s.dev.vd v.val).frozen = true) → exec (.commandFetch v (.good q)) s = .next s) ∧
  (∀ (s : State) (v q : Nat) (x : Queue) (ord addr index chain pred : Nat) (desc : List Byte),
    let c := bindFences (s.dev.vd v) (mkCmd s.dev.sched.nextCmd ord addr index chain desc)
    let got := presetEarly s.dev x { c with front := checkRanges s.dev v x c pred }
    readAs (.dma (hubOf v)) (work s) v needR addr 128 = .ok desc → checkDesc s.dev v x c = none →
    fieldLe desc 0x28 2 + fieldLe desc 0x2A 2 = 0 → got.early ≠ some 1 →
    fetchDesc v q x ord addr index chain pred (work s) = (.got got, (work s).on fun d =>
      dropHostBuf v (d.onSched fun s => { s with nextCmd := s.nextCmd + 1 }))) ∧
  (∀ (s : State) (v q : Nat) (x : Queue) (ord addr index chain pred : Nat) (desc : List Byte) (r : Refuse),
    let c := bindFences (s.dev.vd v) (mkCmd s.dev.sched.nextCmd ord addr index chain desc)
    let got := presetEarly s.dev x { c with front := some r }
    readAs (.dma (hubOf v)) (work s) v needR addr 128 = .ok desc → checkDesc s.dev v x c = some r →
    fetchDesc v q x ord addr index chain pred (work s) = (.got got, (work s).on fun d =>
      let d := dropHostBuf v (d.onSched fun s => { s with nextCmd := s.nextCmd + 1 })
      if got.early = some 1 then failEarly v x.uid 1 got d else d)) ∧
  (∀ (s : State) (v : VDev) (q : QId) (x : Queue) (n : Chain), s.dev.queue? v.val q.val = some x →
    x.chainNext = some n → x.state.fetches = true ∨ x.state = .fetchError → (s.dev.vd v.val).frozen = false → s.dev.sec.level ≠ 3 →
    (n.cluster.any fun k => !(s.dev.proc (4 + k)).up) = false →
    n.addr % 128 = 0 →
    let run := exec (.chainSuccessorFetch v (.good q)) s
    match fetchDesc v.val q.val x n.ord n.addr n.index n.pos n.pred (work s) with
    | (.waits, w) => run = .next (after s w)
    | (.unreadable, w) => run = .next (after s (w.on (chainError v.val q.val)))
    | (.got c, w) => run = .next (after s (w.on fun d => d.onQueue v.val q.val fun x => { x with
        fetched := c :: x.fetched
        chainNext := none
        rlistFail := 0 }))) ∧
  (∀ (s : State) (v : VDev) (q : QId) (x : Queue) (n : Chain) (k : Nat), s.dev.queue? v.val q.val = some x → x.chainNext = some n →
    n.cluster = some k → (s.dev.proc (4 + k)).up = false → exec (.chainSuccessorFetch v (.good q)) s = .next s) ∧
  (∀ (s : State) (v : VDev) (q : QId) (x : Queue) (va : Nat) (f : ReadFault), s.dev.queue? v.val q.val = some x →
    let spans := if x.sqHead == x.tail then [] else descSpans v.val (x.sqBase + 128 * x.sqHead) (work s)
    exec (.commandFetch v ⟨q, some (va, f)⟩) s = .next (after s (doFetch v.val q.val (if spans.any fun r => rangesMeet r (va, 1)
      then meetSpan (.dma (hubOf v.val)) v.val [(va, 1)] f (work s) else work s)))) ∧
  (∀ (s : State) (v : VDev) (q : QId) (x : Queue) (n : Chain) (va : Nat) (f : ReadFault), s.dev.queue? v.val q.val = some x →
    x.chainNext = some n →
    exec (.chainSuccessorFetch v ⟨q, some (va, f)⟩) s = .next (after s (doChainFetch v.val q.val
      (if (descSpans v.val n.addr (work s)).any fun r => rangesMeet r (va, 1)
        then meetSpan (.dma (hubOf v.val)) v.val [(va, 1)] f (work s) else work s)))) ∧
  (∀ (s : State) (v : VDev) (q : QId) (x : Queue) (n : Chain), s.dev.queue? v.val q.val = some x →
    x.chainNext = some n → x.state.fetches = true ∨ x.state = .fetchError → (s.dev.vd v.val).frozen = false → s.dev.sec.level ≠ 3 →
    (n.cluster.any fun k => !(s.dev.proc (4 + k)).up) = false →
    n.addr % 128 ≠ 0 → Gives (.chainSuccessorFetch v (.good q)) s fun d => ∃ y c, d.queue? v.val q.val = some y ∧ y.fetched = c :: x.fetched ∧
      y.chainNext = none ∧ c.front = some ⟨0x09, n.pred, 0x30⟩ ∧ c.addr = n.addr)

/-- R280, R281, R283, R286, R216: the oldest command becomes current and its timer starts; without waits it is eligible at once,
otherwise its waits are registered at the homes of its fences; one that the front end refused fails with 0x0022. A signalled
wait counts, a wait in error fails the command with that code; of two, the lowest wait gives the code. R526, R259, R274: an
eligible command that passes the four checks is checked, or waits in front of pages that are not in device memory if it digests;
one that fails a check stops as that check says. The range lists are translated through a cluster's caches, and a walk for them
waits for the mirror's rebuild (R240, R246). -/
def Obligations.EligibilityAndChecks : Prop :=
  (∀ (s : State) (v : VDev) (q : QId) (x : Queue) (c : Cmd) (rest : List Cmd), s.dev.queue? v.val q.val = some x → x.cur = none →
    x.fetched = c :: rest → x.chainNext = none → x.state = .active ∨ x.state = .stalled ∨ x.state = .fetchError →
    x.backlog.length + x.recWait.length < 256 → s.dev.dispatching v.val = true → c.front = none → c.early = none →
    Gives (.commandCurrent v q) s fun d => d = markEligible v.val q.val (registerWaits v.val q.val { c with start := s.dev.hlcOf v.val }
      (s.dev.setQueue v.val q.val { x with
        cur := some { c with start := s.dev.hlcOf v.val }
        fetched := rest })) ∧
      (c.waits = [] → c.phase = .waiting → d.cur? v.val q.val = some { c with
        start := s.dev.hlcOf v.val
        phase := .eligible
        eligAt := s.dev.hlcOf v.val })) ∧
  (∀ (s : State) (v : VDev) (q : QId) (x : Queue) (c : Cmd) (rest : List Cmd) (r : Refuse), s.dev.queue? v.val q.val = some x →
    x.cur = none → x.fetched = c :: rest → x.chainNext = none → x.state = .active ∨ x.state = .stalled ∨ x.state = .fetchError →
    x.backlog.length + x.recWait.length < 256 → s.dev.dispatching v.val = true → c.front = some r → c.early ≠ some 0x70 →
    exec (.commandCurrent v q) s = .next (after s (failCmd v.val q.val 0x22 ⟨r.addr, false, false, r.off, r.reason⟩
      ((work s).on fun d => (d.setQueue v.val q.val { x with
        cur := some { c with start := s.dev.hlcOf v.val }
        fetched := rest }).onCur v.val q.val fun c => { c with phase := .refusing })))) ∧
  (∀ (s : State) (v : VDev) (q : QId) (x : Queue) (c : Cmd) (rest : List Cmd) (code : Nat), s.dev.queue? v.val q.val = some x →
    x.cur = none → x.fetched = c :: rest → x.chainNext = none → x.state = .active ∨ x.state = .stalled ∨ x.state = .fetchError →
    x.backlog.length + x.recWait.length < 256 → s.dev.dispatching v.val = true → c.early = some code → (code = 0x70 ∨ c.front = none) →
    let w := (work s).on fun d => d.setQueue v.val q.val { x with
      cur := some { c with start := s.dev.hlcOf v.val }
      fetched := rest }
    exec (.commandCurrent v q) s = .next (after s
      (if code = 1 then failCommitted v.val q.val 1 Detail.none w else failCmd v.val q.val code Detail.none w))) ∧
  (∀ (s : State) (id : Nat) (n : FNote) (rest : List FNote) (v q no i : Nat) (c : Cmd),
    takeFirst (fun n => n.id == id) s.dev.fx.notes = some (n, rest) → n.src = .wait v q no i → s.dev.cur? v q = some c → c.no = no →
    c.phase = .waiting → n.err = none →
    Gives (.fenceWaitNotify id) s fun d => d = markEligible v q ((s.dev.onFx fun x => { x with notes := rest }).onCur v q
      fun c => { c with waitsOk := c.waitsOk ++ [i] })) ∧
  (∀ (s : State) (id : Nat) (n : FNote) (rest : List FNote) (p rid : Nat),
    takeFirst (fun n => n.id == id) s.dev.fx.notes = some (n, rest) → n.src = .remote p rid →
    Gives (.fenceWaitNotify id) s fun d => d = (s.dev.onFx fun x => { x with notes := rest }).emit (.fenceNote p rid n.err)) ∧
  (∀ (s : State) (id : Nat) (n : FNote) (v q no i code : Nat) (c : Cmd),
    s.dev.fx.notes = [n] → n.id = id → n.src = .wait v q no i → s.dev.cur? v q = some c → c.no = no → c.phase = .waiting →
    n.err = some code →
    exec (.fenceWaitNotify id) s = .next (after s (failCmd v q code ⟨0, false, true, i, 0⟩
      ((work s).on fun d => d.onFx fun x => { x with notes := [] })))) ∧
  (∀ (s : State) (v : VDev) (q : QId) (x : Queue) (c c' : Cmd), s.dev.queue? v.val q.val = some x → x.cur = some c →
    s.dev.dispatching v.val = true → c.phase = .eligible → listsWait s.dev v.val (c.ins ++ c.outs) = false →
    checkEligible (work s) v.val x c = .ok c' →
    let w := (work s).on fun d =>
      noteChecks v.val c' (useXlt (listEng d v.val) v.val (c'.ins ++ c'.outs) (dropHostBuf v.val (d.onCur v.val q.val fun _ => c')))
    exec (.commandEligible v (.good q)) s = .next (after s (checkResidency v.val q.val w)) ∧
    ((c'.digestFlag = true → awayPages w.dev v.val c' = []) → revokedAt w.dev v.val (c'.ins ++ c'.outs) = none →
      Gives (.commandEligible v (.good q)) s fun d => d.cur? v.val q.val = some { c' with phase := .checked })) ∧
  (∀ (s : State) (v : VDev) (q : QId) (x : Queue) (c : Cmd), s.dev.queue? v.val q.val = some x → x.cur = some c →
    s.dev.dispatching v.val = true → c.phase = .resid → listsWait s.dev v.val (c.ins ++ c.outs) = false →
    exec (.commandEligible v (.good q)) s = .next (after s (checkResidency v.val q.val
      ((work s).on (useXlt (listEng s.dev v.val) v.val (c.ins ++ c.outs)))))) ∧
  (∀ (s : State) (v : VDev) (q : QId) (x : Queue) (c : Cmd), s.dev.queue? v.val q.val = some x → x.cur = some c →
    listsWait s.dev v.val (c.ins ++ c.outs) = true → exec (.commandEligible v (.good q)) s = .next s) ∧
  (∀ (s : State) (v : VDev) (q : QId) (c : Cmd) (va : Nat) (f : ReadFault), s.dev.cur? v.val q.val = some c →
    exec (.commandEligible v ⟨q, some (va, f)⟩) s = .next (after s (doEligible v.val q.val
      (if c.phase = .eligible ∧ rangesMeet (c.param, 4160) (va, 1) = true
        then meetSpan (.dma (hubOf v.val)) v.val [(va, 1)] f (work s) else work s)))) ∧
  (∀ (s : State) (v : VDev) (q : QId) (x : Queue) (c : Cmd) (e : Stop), s.dev.queue? v.val q.val = some x → x.cur = some c →
    s.dev.dispatching v.val = true → c.phase = .eligible → listsWait s.dev v.val (c.ins ++ c.outs) = false →
    checkEligible (work s) v.val x c = .error e →
    exec (.commandEligible v (.good q)) s = .next (after s (stopCmd (hubEng v.val) v.val q.val x c e (work s)))) ∧
  (∀ (w : Wk) (v : Nat) (x : Queue) (c : Cmd), c.acl = 0 ∨ w.dev.fw.aclMax.toNat < c.acl →
    checkEligible w v x c = .error (.fail 0x20 ⟨0, false, false, c.acl, 0⟩)) ∧
  (∀ (w : Wk) (v : Nat) (x : Queue) (c : Cmd) (a : Nat), 0 < c.acl → c.acl ≤ w.dev.fw.aclMax.toNat →
    revokedAt w.dev v (c.ins ++ c.outs) = some a → checkEligible w v x c = .error (.fail 4 (Detail.xlate a 0))) ∧
  (∀ (w : Wk) (v : Nat) (x : Queue) (c : Cmd), 0 < c.acl → c.acl ≤ w.dev.fw.aclMax.toNat → c.kind = 0 →
    revokedAt w.dev v (c.ins ++ c.outs) = none → c.journalFlag = false → checkEligible w v x c = .ok { c with resv := [] })

/-- R330, R331, R333, R154, R150, R27: the scheduler's decisions. Without a queue in the partition only the turn moves; a
command that uses no core is handed over at once; a checked command takes free cores; with its last cluster it runs; a cluster
that has no room left or has the image already takes none; a preload fills the shadow of a busy core; the expiry of a slice
brings the count to its end. Where a read of dispatch or of a binary load meets a bad line, its home meets it first (R219). -/
def Obligations.DispatchCommands : Prop :=
  (∀ (s : State) (v : VDev) (p : PartId) (part : Part) (q : Nat) (x : Queue) (c : Cmd),
    Tab.get? (s.dev.vd v.val).parts p.val = some part → s.dev.dispatching v.val = true → s.dev.schedUp = true →
    (s.dev.vd v.val).queues = [(q, x)] → x.part = p.val → x.be = false → x.cur = some c → c.phase = .checked → c.kind = 0 →
    c.failOut = none → c.jobStart = false → part.holder = none → s.dev.dredges = [] →
    Gives (.dispatchDecision v p) s fun d => d.cur? v.val q = some { c with
      phase := .running
      started := true }) ∧
  (∀ (s : State) (v : VDev) (p : PartId) (part : Part) (q n : Nat) (x : Queue) (c : Cmd),
    Tab.get? (s.dev.vd v.val).parts p.val = some part → s.dev.dispatching v.val = true → s.dev.schedUp = true →
    (s.dev.vd v.val).queues = [(q, x)] → x.part = p.val → x.be = false → x.cur = some c → c.phase = .checked → c.kind = 1 →
    c.failOut = none → c.jobStart = false → c.cores = [] → c.resv = [] → part.holder = none → s.dev.dredges = [] →
    part.cores = [n] → freeFor s.dev v.val part c false false = [n] →
    Gives (.dispatchDecision v p) s fun d => d.cur? v.val q = some { c with
      phase := .placed
      attempt := c.attempt + 1
      cores := [n] } ∧ (d.core n).busy = some c.no) ∧
  (∀ (s : State) (v : VDev) (p : PartId) (part : Part), Tab.get? (s.dev.vd v.val).parts p.val = some part → part.turn.isSome = true →
    Gives (.beSliceExpiry v p) s fun d => d = s.dev.advance (hubOf v.val) (part.turnStart + BitVec.ofNat 64 part.slice)) ∧
  (∀ (s : State) (v : VDev) (q : QId) (k : Cluster) (x : Queue) (c : Cmd), s.dev.queue? v.val q.val = some x → x.cur = some c →
    c.phase = .placed → (c.cores.map (· / 68)).eraseDups = [k.val] → c.clusters = [] → c.failOut = none → s.dev.schedUp = true →
    (s.dev.proc (4 + k.val)).up = true → c.digestFlag = false →
    (c.kind = 2 → ((s.dev.binariesOf k.val).any fun b => b.matches v.val c) = true) →
    Gives (.dispatchHandoff v (.good q) k) s fun d => d.cur? v.val q.val = some { c with
      clusters := [k.val]
      phase := .running
      started := true
      inDigests := [] }) ∧
  (∀ (s : State) (v : VDev) (q : QId) (k : Cluster) (x : Queue) (c : Cmd) (ds : List (List Byte)), s.dev.queue? v.val q.val = some x →
    x.cur = some c → c.phase = .placed → (c.cores.map (· / 68)).eraseDups = [k.val] → c.clusters = [] → c.failOut = none → s.dev.schedUp = true →
    (s.dev.proc (4 + k.val)).up = true → c.digestFlag = true → inputDigests (work s) v.val (sortRanges c.ins) = .ok ds →
    (c.kind = 2 → ((s.dev.binariesOf k.val).any fun b => b.matches v.val c) = true) →
    Gives (.dispatchHandoff v (.good q) k) s fun d => d.cur? v.val q.val = some { c with
      clusters := [k.val]
      phase := .running
      started := true
      inDigests := ds }) ∧
  (∀ (s : State) (v : VDev) (q : QId) (k : Cluster) (x : Queue) (c : Cmd) (h img : List Byte), s.dev.queue? v.val q.val = some x →
    x.cur = some c → c.kind = 2 → c.phase = .placed → (c.cores.any fun n => n / 68 == k.val) = true →
    (s.dev.proc (4 + k.val)).up = true → s.dev.binariesOf k.val = [] →
    let at_ := klImage c.params
    let ctl : XEng := .ctl k.val
    let w := (work s).on (raiseClusters 4 [k.val])
    readBy ctl w v.val needX at_ 128 = .ok h → fieldLe h 6 2 ≤ c.acl → rules 0x0B at_ (hdrRules h) = .ok () →
    readBy ctl w v.val needX at_ (hdrLen h) = .ok img → img.length ≤ storeRoom false →
    match rules 0x0B at_ (imageRules c.params h img) with
    | .error e => exec (.binaryLoad v (.good q) k) s = .next (after s (stopCmd ctl v.val q.val x c e w))
    | .ok _ => Gives (.binaryLoad v (.good q) k) s fun d => ∃ b, d.binariesOf k.val = [b] ∧ b.vdev = v.val ∧ b.start = klImage c.params ∧
        b.digest = sliceB h 0x40 32 ∧ b.image = sha3_256 img ∧ d.out = s.dev.out) ∧
  (∀ (s : State) (v : VDev) (q : QId) (k : Cluster) (x : Queue) (c : Cmd) (h : List Byte), s.dev.queue? v.val q.val = some x →
    x.cur = some c → c.kind = 2 → c.phase = .placed → (c.cores.any fun n => n / 68 == k.val) = true →
    (s.dev.proc (4 + k.val)).up = true → s.dev.binariesOf k.val = [] →
    let w := (work s).on (raiseClusters 4 [k.val])
    readBy (.ctl k.val) w v.val needX (klImage c.params) 128 = .ok h → c.acl < fieldLe h 6 2 →
    exec (.binaryLoad v (.good q) k) s = .next (after s (stopCmd (.ctl k.val) v.val q.val x c (aclStop c.acl (fieldLe h 6 2)) w))) ∧
  (∀ (s : State) (v : VDev) (q : QId) (n : CoreId) (x : Queue) (c : Cmd), s.dev.queue? v.val q.val = some x → x.nextCmd = some c →
    (s.dev.proc (4 + n.val / 68)).up = true → (∃ m, (s.dev.core n.val).busy = some m ∧ m ≠ c.no) →
    (s.dev.vd v.val).cores.contains n.val = true → s.dev.sluiced .core n.val = false →
    Gives (.preload v q ⟨n, none⟩) s fun d => ∃ h, Tab.get? d.sched.shadows n.val = some h ∧ h.cmd = c.no ∧ h.desc = c.desc ∧
      h.gen = (s.dev.vd v.val).gen ∧ d.vds = s.dev.vds ∧ d.fx = s.dev.fx) ∧
  (∀ (s : State) (v : VDev) (q : QId) (n : CoreId) (m : CoreMem) (h : Shadow), Tab.get? s.dev.sched.shadows n.val = some h →
    Gives (.preload v q ⟨n, some m⟩) s fun d => d = parityEvent n.val (coreMemPlace (.shadow 0)) (dropShadow n.val s.dev)) ∧
  (∀ (s : State) (v : VDev) (q : QId) (n : CoreId) (m : CoreMem), Tab.get? s.dev.sched.shadows n.val = none →
    exec (.preload v q ⟨n, some m⟩) s = .next s) ∧
  (∀ (s : State) (v : VDev) (q : QId) (k : Cluster) (c : Cmd) (va : Nat) (f : ReadFault), s.dev.cur? v.val q.val = some c →
    let ins := if c.phase == .placed && c.digestFlag then c.ins else []
    exec (.dispatchHandoff v ⟨q, some (va, f)⟩ k) s = .next (after s (doHandoff v.val q.val k.val
      (if ins.any fun r => rangesMeet r (va, 1) then meetSpan (.dma (hubOf v.val)) v.val [(va, 1)] f (work s) else work s))) ∧
    exec (.binaryLoad v ⟨q, some (va, f)⟩ k) s = .next (after s (doBinaryLoad v.val q.val k.val
      (if rangesMeet (klImage c.params, hdrLen c.hdr) (va, 1) then meetSpan (.ctl k.val) v.val [(va, 1)] f (work s) else work s))))

/-- R111, R286, R524: a built-in operation that runs reads its inputs and writes what the operation gives to its outputs; it has
then executed, its flags are collected and its bytes are counted for its context. An input or output that cannot be reached
stalls the command, and nothing is written. A parity error in a memory of one of its cores fails the attempt, which is replayed
(R146, R414); a shadow with bad parity is discarded (R150); a line that its home finds bad is met there (R219). R273, R276,
R296, R201, R294: a NOP executes at once and leaves all but its phase; the queries write their answer to output range 0: the
distance table with its generation, the record of the query's own context, and, behind the number of live contexts and the
number of records, the records of the contexts in ascending order. An output that cannot be written stalls the query. -/
def Obligations.OperationsAndQueries : Prop :=
  (∀ (s : State) (v : VDev) (q : QId) (i : Instr) (k : OpK) (x : Queue) (c : Cmd), (i, k) ∈ opRows v (.good q) →
    runningOp s.dev v.val q.val k = some (x, c) →
    match inputData c.mover (work s) v.val c.block with
    | .error e => exec i s = .next (after s (stallCmd c.mover v.val q.val x c 1 e (work s)))
    | .ok ds =>
      let r := writeOuts c.block c.key (evalOp k c.block c.key ds)
      let runs := runsOf r.1
      match badRun c.mover s.dev v.val runs with
      | some e => exec i s = .next (after s (stallCmd c.mover v.val q.val x c 2 e (work s)))
      | none =>
        let read := (work s).on (readFor c.context c.mover v.val needR (inputSpans c.block))
        exec i s = .next (after s ((writeRuns c.mover v.val (jkey x c) runs read).on fun d =>
          dropHostBuf v.val (wroteFor c.context c.mover v.val (runs.map fun w => (w.1, w.2.length))
            (({ d with draws := d.draws + 1 } : Dev).onCur v.val q.val fun y => { y with
              flags := y.flags ||| r.2
              phase := .executed }))))) ∧
  (∀ (s : State) (v : VDev) (q : QId) (i j : Instr) (k : OpK) (n : CoreId) (m : CoreMem), (i, k) ∈ opRows v ⟨q, some (n, m)⟩ →
    (j, k) ∈ opRows v (.good q) →
    (runningOp s.dev v.val q.val k = none → exec i s = .next s) ∧
    (∀ x c, runningOp s.dev v.val q.val k = some (x, c) →
      (c.cores.contains n.val = false → exec i s = exec j s) ∧
      (c.cores.contains n.val = true → (∀ va f, m ≠ .line va f) → (∀ a, m ≠ .shadow a) →
        exec i s = .next (after s (replayCmd v.val q.val [n.val] ((work s).on (parityEvent n.val (coreMemPlace m)))))) ∧
      (∀ a, c.cores.contains n.val = true → m = .shadow a →
        exec i s = .next (after s (runOp k v.val q.val ((work s).on (shadowError n.val))))) ∧
      (∀ va f, c.cores.contains n.val = true → m = .line va f →
        exec i s = .next (after s (runOp k v.val q.val (if (inputSpans c.block).any fun r => rangesMeet r (va, 1)
          then meetSpan (.mover n.val) v.val [(va, 1)] f (work s) else work s)))))) ∧
  (∀ (s : State) (v : VDev) (q : QId) (c : Cmd), s.dev.cur? v.val q.val = some c → c.phase = .running → c.kind = 0 →
    Gives (.nop v q) s fun d => d.cur? v.val q.val = some { c with phase := .executed } ∧ { d with vds := s.dev.vds } = s.dev) ∧
  (∀ (s : State) (v : VDev) (q : QId) (x : Queue) (c : Cmd) (i : Instr) (code : Nat) (bs : List Byte),
    s.dev.queue? v.val q.val = some x → x.cur = some c → c.phase = .running → c.kind = 3 → fieldLe c.params 0 4 = code →
    (i, code, bs) ∈ [ (.queryDistance v q, 1, distTable s.dev.net.retired ++ natLe 8 s.dev.net.gen.toNat),
      (.usageSelf v q, 0x100, ((s.dev.ctx? c.context).map fun k => usageRecord (work s) c.context k).getD []),
      (.usageAll v q, 0x101,
        let held := s.dev.ctxs.filter fun k => k.2.vdev == v.val
        let live := held.filter fun k => !k.2.destroying
        let n := min held.length (((c.outs.headD (0, 0)).2 - 16) / 64)
        natLe 4 live.length ++ natLe 4 n ++ natLe 8 0 ++ (held.take n).flatMap fun k => usageRecord (work s) k.1 k.2) ] →
    let hub := hubEng v.val
    let out := (c.outs.headD (0, 0)).1
    match badRun hub s.dev v.val [(out, bs)] with
    | some e => exec i s = .next (after s (stallCmd hub v.val q.val x c 2 e (work s)))
    | none => exec i s = .next (after s ((writeRuns hub v.val (jkey x c) [(out, bs)] (work s)).on fun d =>
        (wroteFor c.context hub v.val [(out, bs.length)] d).onCur v.val q.val fun c => { c with phase := .executed })))

/-- R217, R218, R30, R31: the end of an attempt. When no write is outstanding the cores are free and the command is ready, or it
closes its digest at every die that holds output bytes; each die hashes the leaves whose home it was at that moment; with the
last hash the digest is formed, and a receipt is signed by the security core. -/
def Obligations.AttemptsClose : Prop :=
  (∀ (s : State) (v : VDev) (q : QId) (c : Cmd), s.dev.cur? v.val q.val = some c → c.phase = .executed →
    (c.kind = 2 → klWatch c.params = false) → (s.dev.mc.reqs.any fun r => r.cmd == c.no) = false → (s.dev.mc.resps.any fun r => r.req.cmd == c.no) = false →
    let homes := leafHomes s.dev v.val c
    let dies := (homes.map Prod.snd).eraseDups
    Gives (.attemptLastWriteAcked v q) s fun d =>
      (c.digestFlag = false → d.cur? v.val q.val = some { c with
        clusters := []
        phase := .ready
        diesLeft := []
        leafHome := []
        leafSent := []
        leaves := [] }) ∧
      (c.digestFlag = true → dies ≠ [] → d.cur? v.val q.val = some { c with
        clusters := []
        phase := .closing
        diesLeft := dies
        leafHome := homes
        leafSent := []
        leaves := [] }) ∧
      (c.digestFlag = true → dies = [] → ∃ y, d.cur? v.val q.val = some y ∧ y.phase = (if c.receiptFlag then .signing else .ready)) ∧
      (∀ n, (d.core n).busy ≠ some c.no) ∧ d.mc = s.dev.mc ∧ d.fx = s.dev.fx) ∧
  (∀ (s : State) (v : VDev) (q : QId) (k : Die) (x : Queue) (c : Cmd),
    s.dev.queue? v.val q.val = some x → x.cur = some c → c.phase = .closing → c.diesLeft.contains k.val = true →
    let mine := (outLeaves c).filter fun l => c.leafHome.contains (l.1, k.val)
    match hashLeaves (work s) v.val (mine.map Prod.snd) with
    | .error e => exec (.digestClose v (.good q) k) s = .next (after s (stopCmd (hubEng v.val) v.val q.val x c (.acc 1 e) (work s)))
    | .ok hs => Gives (.digestClose v (.good q) k) s fun d => d.cur? v.val q.val = some { c with
        diesLeft := c.diesLeft.filter (· != k.val)
        leafSent := c.leafSent ++ [(k.val, (mine.map Prod.fst).zip hs)] }) ∧
  (∀ (s : State) (v : VDev) (q : QId) (k : Die) (c : Cmd) (va : Nat) (f : ReadFault), s.dev.cur? v.val q.val = some c →
    let read := if c.phase == .closing then (outLeaves c).map Prod.snd else []
    exec (.digestClose v ⟨q, some (va, f)⟩ k) s = .next (after s (doDigestClose v.val q.val k.val
      (if read.any fun r => rangesMeet r (va, 1) then meetSpan (.dma (hubOf v.val)) v.val [(va, 1)] f (work s) else work s)))) ∧
  (∀ (s : State) (v : VDev) (q : QId) (k : Die) (c : Cmd) (ls : List (Nat × List Byte)), s.dev.cur? v.val q.val = some c →
    c.phase = .closing → c.diesLeft = [] → c.leafSent = [(k.val, ls)] →
    Gives (.leafHash v q k) s fun d => ∃ y, d.cur? v.val q.val = some y ∧ y.leaves = c.leaves ++ ls ∧ y.leafSent = [] ∧
      y.phase = (if c.receiptFlag then .signing else .ready)) ∧
  (∀ (s : State) (v : VDev) (q : QId) (x : Queue) (c : Cmd), s.dev.queue? v.val q.val = some x → x.cur = some c →
    c.phase = .signing → s.dev.secUp = true →
    Gives (.receiptSignDone v q) s fun d => d.sec.serial = s.dev.sec.serial + 1 ∧ d.cur? v.val q.val = some { c with
      phase := .ready
      receipt := signedSlot s.dev.draws (slotBody c ++ slotEnvelope c (s.dev.sec.serial + 1).toNat x.devq v.val s.dev.fw.meas) })

/-- R278, R281, R283, R284, R286, R522: a command that is ready completes. Its audit slot, where it has one, is written first,
and one that cannot be written fails the command with 0x0003. Without a signal fence it succeeds then; with one here the signal
commits first, and a signal that the fence refuses fails the command with the fence's code; a fence of another package is
signalled through its port. The timer of a live command fails it with 0x0002; of another command it only lets time pass. -/
def Obligations.CommandsComplete : Prop :=
  (∀ (s : State) (v : VDev) (q : QId) (x : Queue) (c : Cmd), s.dev.queue? v.val q.val = some x → x.cur = some c →
    c.canComplete = true → (c.digestFlag = true → c.failOut = none) →
    let slot : Wk × Option Acc := if hasSlot x c then writeSlot v.val x c c.receipt (work s) else (work s, none)
    let w := slot.1
    let run := exec (.commandComplete v q) s
    (∀ e, slot.2 = some e → run = .next (after s (failCmd v.val q.val 3
      (Detail.xlate (x.auditBase + 1024 * c.index) (slotCause e)) w))) ∧
    (slot.2 = none →
      (c.sig = none → run = .next (after s (succeed v.val q.val w))) ∧
      (∀ k, c.sig = some (.cell k) →
        (w.dev.cellLost k = false → (w.dev.cell k).state = 1 →
          run = .next (after s (succeed v.val q.val (w.on fun d => (storeOp k false (commitSignal k c.sigValue) d).2)))) ∧
        (w.dev.cellLost k = false → (w.dev.cell k).state ≠ 1 →
          run = .next (after s (failCommitted v.val q.val (w.dev.cell k).error.toNat Detail.none (w.on (storeRead k false))))) ∧
        (w.dev.cellLost k = true → run = .next (after s (failCommitted v.val q.val 0x11 Detail.none w)))) ∧
      (∀ pv i, c.sig = some (.proxy pv i) → run = .next (after s (w.on fun d =>
        sendFence (.proxy pv i) (.signal c.sigValue) (.signal v.val q.val c.no)
          (d.onCur v.val q.val fun c => { c with phase := .held })))))) ∧
  (∀ (s : State) (v : VDev) (q : QId) (x : Queue) (c : Cmd), s.dev.queue? v.val q.val = some x → x.cur = some c →
    c.timerLive = true → ((s.dev.vd v.val).frozen = true → c.started = true) →
    (∀ r, c.sig = some r → Gives (.commandTimeout v q) s fun d =>
      d = sendFence r (.fail 2 c.sigValue) (.timeout v.val q.val c.no 2)
        ((s.dev.advance (hubOf v.val) (c.start + x.timeoutTicks)).onCur v.val q.val fun c => { c with
          failOut := some 2
          expired := true })) ∧
    (c.sig = none → exec (.commandTimeout v q) s = .next (after s (failCommitted v.val q.val 2 Detail.none
      ((work s).on fun d => (d.advance (hubOf v.val) (c.start + x.timeoutTicks)).onCur v.val q.val fun c => { c with expired := true }))))) ∧
  (∀ (s : State) (v : VDev) (q : QId) (x : Queue) (c : Cmd), s.dev.queue? v.val q.val = some x → x.cur = some c →
    (c.timerLive = false ∨ ((s.dev.vd v.val).frozen = true ∧ c.started = false)) →
    Gives (.commandTimeout v q) s fun d => d = s.dev.advance (hubOf v.val) (c.start + x.timeoutTicks))

/-- R277, R268, R282, R287: what the end of a command leaves. Its queue holds it no longer, no core is busy with it, its undo
records and fence messages of its attempt are gone, and its record goes to the ring with its index, code and flags; a success
with CHAIN names the successor. -/
def Obligations.EndedCommandsLeave : Prop :=
  ∀ (s : State) (v q : Nat) (ok : Bool) (error : Nat) (flags : FlagWord) (dt : Detail) (x : Queue) (c : Cmd),
    s.dev.queue? v q = some x → x.cur = some c → (s.dev.vd v).inReset = false →
    let w := endCmd v q ok error flags dt (work s)
    ∃ y, w.dev.queue? v q = some y ∧ y.cur = none ∧ y.fetched = x.fetched ∧
      y.chainNext = (if ok && c.chainFlag && decide (c.chain < 32) then some ⟨c.chainAddr, c.chain + 1, c.addr, c.ord, c.index, c.leader⟩ else none) ∧
      (∀ n, (w.dev.core n).busy ≠ some c.no) ∧ (∀ u ∈ w.dev.mc.undo, u.cmd ≠ c.no) ∧ w.dev.kern = Tab.del s.dev.kern c.no

/-- R268, R269: a record goes to the entry at the ring index when the ring has room and the entry can be written: the index
moves on by one, the phase turns at the end of the ring, and the 32 bytes are what the table gives with that phase. A full ring
takes none and changes nothing. R311, R417, R421: an engine that has acted on an abort and is the last one to acknowledge ends
the abort; the undo journal of a replaying command is written back, and the command is placed again or its failure recorded. A
record that cannot be read fails the command with 0x0011 instead of a replay, and its outputs hold unspecified bytes but for the
lines restored (R287, R422). Freed records are VALID no longer. -/
def Obligations.RecordsAndAborts : Prop :=
  (∀ (w : Wk) (v q : Nat) (r : Rec) (x : Queue) (pa key : Nat) (w' : Wk), w.dev.queue? v q = some x →
    let hub : XEng := .dma (hubOf v)
    let va := x.cqBase + 32 * x.cqIndex
    x.cqIndex ≠ (x.cqHead + x.C - 1) % x.C → translate ((w.dev.seenBy hub v).vd v) needW va = .device pa key →
    writePiece v pa key (r.bytes x.cqPhase) none w = .ok w' →
    tryRecord v q r w = (.done, w'.on fun d => signalVec v x.msix (useXlt hub v [(va, 32)] (d.setQueue v q { x with
      cqIndex := (x.cqIndex + 1) % x.C
      cqPhase := if x.cqIndex + 1 = x.C then !x.cqPhase else x.cqPhase }))) ∧
      (r.bytes x.cqPhase).length = 32) ∧
  (∀ (w : Wk) (v q : Nat) (r : Rec) (x : Queue), w.dev.queue? v q = some x → x.cqIndex = (x.cqHead + x.C - 1) % x.C →
    tryRecord v q r w = (.full, w)) ∧
  (∀ (s : State) (v : VDev) (q : QId) (e : Engine) (c : Cmd), s.dev.cur? v.val q.val = some c → c.abortAcks = [e] →
    c.aborts = [] → c.phase = .aborting →
    exec (.abortAck v q e) s = .next (after s (afterAbort v.val q.val ((work s).on fun d =>
      d.onCur v.val q.val fun c => { c with abortAcks := [] })))) ∧
  (∀ (s : State) (v : VDev) (q : QId) (e : Engine) (c : Cmd), s.dev.cur? v.val q.val = some c → c.abortAcks.contains e = true →
    (c.aborts ≠ [] ∨ c.abortAcks.filter (· != e) ≠ []) →
    Gives (.abortAck v q e) s fun d => d.cur? v.val q.val = some { c with abortAcks := c.abortAcks.filter (· != e) }) ∧
  (∀ (s : State) (v : VDev) (q : QId) (c : Cmd), s.dev.cur? v.val q.val = some c → c.phase = .replaying →
    (undosOf s.dev c.no).all (undoReadable s.dev) = true →
    exec (.undoJournalApplied v q) s = .next (after s (placeAgain v.val q.val
      ((undosOf s.dev c.no).foldl (fun w u => applyUndo u w) (work s))))) ∧
  (∀ (s : State) (v : VDev) (q : QId) (c : Cmd), s.dev.cur? v.val q.val = some c → c.phase = .replaying →
    (undosOf s.dev c.no).all (undoReadable s.dev) = false → c.failOut = none →
    let back (w : Wk) : Wk := freeUndos (fun u => u.cmd == c.no)
      (((undosOf w.dev c.no).filter (undoReadable w.dev)).foldl (fun w u => applyUndo u w) w)
    (c.thenReplay = false → exec (.undoJournalApplied v q) s = .next (after s (recordFailure v.val q.val (back (work s))))) ∧
    (c.thenReplay = true → exec (.undoJournalApplied v q) s = .next (after s (failCmd v.val q.val 0x11 Detail.none
      ((back (scribbleOuts v.val q.val (work s))).on fun d => d.onCur v.val q.val fun c => { c with thenReplay := false }))))) ∧
  (∀ (w : Wk) (p : Undo → Bool), ∀ u ∈ (freeUndos p w).dev.mc.undo, p u = false)

/-- R215, R216, Table 9-5: the fence unit. An operation that reaches the home of its cell commits there and is replied; a wait
is answered at once, registered, or sent back when the store of the unit is full, from where its timer sends it again; a read
replies the cell and changes none. An operation of a hub on a cell waits for those sent before it, and at most 16 of a hub are
on their way (R194, R317); the store of the unit decides no outcome, also where its copy has bad parity (R214, R219). A READ
from another package is answered with the state, value and error of its cell (R394). R215, R281, R284, R312, R521: the reply of
a fence unit. The failure of a timer that was applied fails the command with that code; where another failure came first, its
code stands; a command already signalled goes on; the reply to a request is its answer. -/
def Obligations.FenceUnit : Prop :=
  (∀ (s : State) (f : FenceAt) (id k : Nat) (v : BitVec 64) (src : FSrc) (e : Dev),
    takeReq f.id (fun o => match o with | .signal _ => true | _ => false) s.dev = some (⟨id, k, .signal v, src⟩, e) →
    Gives (.fenceSignal f) s fun d =>
      let r := storeOp k f.bad (commitSignal k v) e
      d = releaseCell k (replyFence src r.1 r.2)) ∧
  (∀ (s : State) (f : FenceAt) (id k code : Nat) (t : BitVec 64) (src : FSrc) (e : Dev),
    takeReq f.id (fun o => match o with | .fail _ _ => true | _ => false) s.dev = some (⟨id, k, .fail code t, src⟩, e) →
    Gives (.fenceFail f) s fun d =>
      let r := storeOp k f.bad (commitFail k code t) e
      d = releaseCell k (replyFence src r.1 r.2)) ∧
  (∀ (s : State) (f : FenceAt) (id k : Nat) (t : BitVec 64) (src : FSrc) (e : Dev),
    takeReq f.id (fun o => match o with | .wait _ => true | _ => false) s.dev = some (⟨id, k, .wait t, src⟩, e) → e.cellReferenced k = true →
    Gives (.fenceWait f) s fun d =>
      (∀ a, e.evalWait k t = some a → d.fx = (noteWait src a e).fx) ∧
      (e.evalWait k t = none → waitRoom ≤ (e.fx.waits.filter fun w => cellDie w.cell == cellDie k).length →
        d.fx = { e.fx with retry := e.fx.retry ++ [⟨id, k, .wait t, src⟩] }) ∧
      (e.evalWait k t = none → (e.fx.waits.filter fun w => cellDie w.cell == cellDie k).length < waitRoom →
        d.fx = { e.fx with waits := e.fx.waits ++ [⟨k, t, src⟩] }) ∧
      ∀ j, d.cell j = s.dev.cell j) ∧
  (∀ (s : State) (id : Nat) (p : FOp → Bool), takeReq id p s.dev = none →
    (∀ bad, p = (fun o => match o with | .signal _ => true | _ => false) → exec (.fenceSignal ⟨id, bad⟩) s = .next s) ∧
    (∀ bad, p = (fun o => match o with | .fail _ _ => true | _ => false) → exec (.fenceFail ⟨id, bad⟩) s = .next s) ∧
    (∀ bad, p = (fun o => match o with | .wait _ => true | _ => false) → exec (.fenceWait ⟨id, bad⟩) s = .next s)) ∧
  (∀ (s : State) (die : Die) (cell : CellAt), Gives (.fenceRead die cell) s fun d =>
    let k := 1048576 * die.val + cell.cell.val
    d = readHome k ((storeOp k cell.bad (fun e => ((), e)) s.dev).2.emit (.fenceCell die.val cell.cell.val (s.dev.cellReply k))) ∧
      ∀ j, d.cell j = s.dev.cell j) ∧
  (∀ (d : Dev) (k p id : Nat) (r : FReq) (rest : List FReq), takeFirst (fun r : FReq => r.cell == k) d.fx.reqs = some (r, rest) →
    r.op = .read → r.src = .remote p id → (readHome k d).fx = { d.fx with reqs := rest } ∧
      (readHome k d).out = d.out ++ [.fenceCellOut p id (readCell k d).1 (readCell k d).2.1 (readCell k d).2.2]) ∧
  (∀ (d : Dev) (k : Nat) (v t : BitVec 64) (code j : Nat) (bad : Bool),
    (storeOp k bad (commitSignal k v) d).1 = (commitSignal k v d).1 ∧
    (storeOp k bad (commitSignal k v) d).2.cell j = (commitSignal k v d).2.cell j ∧
    (storeOp k bad (commitFail k code t) d).1 = (commitFail k code t d).1 ∧
    (storeOp k bad (commitFail k code t) d).2.cell j = (commitFail k code t d).2.cell j) ∧
  (∀ (s : State) (id : Nat) (r : FReq) (rest : List FReq), takeFirst (fun r : FReq => r.id == id) s.dev.fx.retry = some (r, rest) →
    Gives (.fenceWaitRetryTimer id) s fun d => d.fx.retry = rest ∧ d.fx.reqs = s.dev.fx.reqs ++ [r] ∧ { d with fx := s.dev.fx } = s.dev) ∧
  (∀ (s : State) (id : Nat) (r : FRep) (rest : List FRep), takeFirst (fun r : FRep => r.id == id) s.dev.fx.reps = some (r, rest) →
    let w := (work s).on fun d => d.onFx fun x => { x with reps := rest }
    (∀ v q no code c, r.src = .timeout v q no code → s.dev.cur? v q = some c → c.no = no →
      (r.out = .applied → exec (.fenceOpReply id) s = .next (after s ((failCommitted v q code Detail.none w).on (settleFreeze v)))) ∧
      (∀ other, r.out = .alreadyFailed other →
        exec (.fenceOpReply id) s = .next (after s ((failCommitted v q other Detail.none w).on (settleFreeze v)))) ∧
      (r.out = .signalled → c.phase ≠ .failing →
        exec (.fenceOpReply id) s = .next (after s (w.on fun d => settleFreeze v (d.onCur v q fun c => { c with failOut := none }))))) ∧
    (∀ v q no code c, r.src = .cmdFail v q no code → s.dev.cur? v q = some c → c.no = no → r.out = .applied →
      exec (.fenceOpReply id) s = .next (after s ((failCommitted v q code c.detail w).on (settleFreeze v)))) ∧
    (∀ v q no code other c, r.src = .cmdFail v q no code → s.dev.cur? v q = some c → c.no = no → r.out = .alreadyFailed other →
      exec (.fenceOpReply id) s = .next (after s ((failCommitted v q other (if other = code then c.detail else Detail.none) w).on (settleFreeze v)))) ∧
    (∀ v q no c, r.src = .signal v q no → s.dev.cur? v q = some c → c.no = no → c.phase = .held →
      (∀ code, r.out = .refused code →
        exec (.fenceOpReply id) s = .next (after s ((failCommitted v q code Detail.none w).on (settleFreeze v)))) ∧
      (r.out = .applied ∨ r.out = .stale → exec (.fenceOpReply id) s = .next (after s ((succeed v q w).on (settleFreeze v))))) ∧
    (∀ fn slot tag t0, r.src = .admin fn slot → Tab.get? (s.dev.fn fn).taken slot = some ⟨tag, .signal, t0⟩ →
      exec (.fenceOpReply id) s = .next (after s (w.on fun d => settleFreeze fn (adRespond fn slot tag stOk 0 (natLe 2 r.out.num) d)))) ∧
    (∀ p rid, r.src = .remote p rid → exec (.fenceOpReply id) s = .next (after s (w.on fun d => d.emit (.fenceReply p rid r.out)))))

/-- R215, Table 9-5: what a signal and a failure do to a cell. Only a LIVE cell changes; its value never falls; a signal at or
below the value is stale, a failure at or below it comes too late; a failed cell keeps its error; no other cell changes. -/
def Obligations.FenceCellTable : Prop :=
  ∀ (d : Dev) (k code : Nat) (v : BitVec 64),
    (d.cell k).value ≤ ((commitSignal k v d).2.cell k).value ∧
    (∀ j, j ≠ k → (commitSignal k v d).2.cell j = d.cell j ∧ (commitFail k code v d).2.cell j = d.cell j) ∧
    (d.cellLost k = false → (d.cell k).state = 1 → (d.cell k).value < v →
      (commitSignal k v d).1 = .applied ∧ (commitSignal k v d).2.cell k = { d.cell k with value := v } ∧
      (commitFail k code v d).1 = .applied ∧
      (commitFail k code v d).2.cell k = { d.cell k with
        state := 2
        error := BitVec.ofNat 16 code }) ∧
    (d.cellLost k = false → (d.cell k).state = 1 → v ≤ (d.cell k).value →
      commitSignal k v d = (.stale, d) ∧ commitFail k code v d = (.signalled, d)) ∧
    (d.cellLost k = false → (d.cell k).state = 2 →
      commitSignal k v d = (.refused (d.cell k).error.toNat, d) ∧ commitFail k code v d = (.alreadyFailed (d.cell k).error.toNat, d)) ∧
    (d.cellLost k = true → commitSignal k v d = (.refused 0x11, d) ∧ commitFail k code v d = (.alreadyFailed 0x11, d))

/-- R216: a commit at a cell notifies exactly the registered waits whose evaluation it settles, each once, and no such wait
stays registered. -/
def Obligations.SettledWaitsLeave : Prop :=
  ∀ (d : Dev) (k : Nat),
    let e := notifyWaits k d
    (∀ w ∈ e.fx.waits, w ∈ d.fx.waits ∧ ¬ (w.cell = k ∧ (d.evalWait k w.t).isSome)) ∧
    (∀ w ∈ d.fx.waits, ¬ (w.cell = k ∧ (d.evalWait k w.t).isSome) → w ∈ e.fx.waits) ∧
    e.fx.notes.length + e.fx.waits.length = d.fx.notes.length + d.fx.waits.length

/-- R243, R244, R258: a SYNC or MOVE_AND_SYNC request with valid registers begins a synchronisation, which reads the named span
of the master array and changes neither the table nor the generation; a second one while the first is in progress only sets
SYNC_OVERRUN; an operation that is neither, or a register out of range, is answered with status 2, and a span outside the table
with status 3. A closed function takes none. The hub asks for the pages of the array it has no permission for, and a page that
is refused ends the synchronisation with status 5, as a failed read does (R248, R250); the bytes read are checked as they
arrive, once the mirror serves. R247, R258, R240: an invalidation drops every overlapping entry of an older generation at its
node and acknowledges; the last acknowledgement completes the synchronisation with status 0. The last page copied makes the new
table active; a page that cannot be copied completes the move with its status. A lost mirror is rebuilt. -/
def Obligations.Synchronisation : Prop :=
  (∀ (s : State) (v : VDev) (w : BitVec 64) (i : Instr), i = .xltSync v w ∨ i = .xltMoveAndSync v w → s.dev.barOpen v.val = true →
    let f := s.dev.fn v.val
    let x := s.dev.vd v.val
    let op := bits w.toNat 3 0
    (x.sync.isSome = true → Gives i s fun d => d = s.dev.onFn v.val fun f => { f with overrun := true }) ∧
    (x.sync = none → op ≠ 1 → op ≠ 2 → Gives i s fun d => d = postSyncDone v.val (BitVec.ofNat 32 (w.toNat / 2 ^ 32)) 2 s.dev) ∧
    (x.sync = none → op = 1 ∨ op = 2 →
      let pages := if op = 2 then movePagesOf f else []
      let y : Sync := ⟨BitVec.ofNat 32 (w.toNat / 2 ^ 32), op == 2, .reading, f.syncFirst.toNat, f.syncSpan.toNat, f.masterCount.toNat, pages, [], [], [], [], []⟩
      let begun := (work s).on fun d => d.onVd v.val fun x => { x with sync := some y }
      let bad := f.masterBase.toNat % 4096 ≠ 0 ∨ 65536 < f.masterCount.toNat ∨ 65536 < f.syncSpan.toNat ∨
        (op = 2 ∧ (f.moveVa.toNat % 65536 ≠ 0 ∨ f.movePages.toNat < 1 ∨ 16 < f.movePages.toNat))
      (bad → exec i s = .next (after s (completeSync v.val 2 begun))) ∧
      (¬ bad → f.masterCount.toNat < f.syncFirst.toNat + f.syncSpan.toNat → exec i s = .next (after s (completeSync v.val 3 begun)))) ∧
    (x.sync = none → op = 1 ∨ (op = 2 ∧ f.moveVa.toNat % 65536 = 0 ∧ 1 ≤ f.movePages.toNat ∧ f.movePages.toNat ≤ 16) →
      f.masterBase.toNat % 4096 = 0 → f.masterCount.toNat ≤ 65536 → f.syncSpan.toNat ≤ 65536 →
      f.syncFirst.toNat + f.syncSpan.toNat ≤ f.masterCount.toNat → f.syncFirst.toNat ≤ x.table.length →
      (f.masterCount.toNat ≤ x.table.length ∨ f.masterCount.toNat ≤ f.syncFirst.toNat + f.syncSpan.toNat) → 0 < f.syncSpan.toNat →
      let y : Sync := ⟨BitVec.ofNat 32 (w.toNat / 2 ^ 32), op == 2, .reading, f.syncFirst.toNat, f.syncSpan.toNat, f.masterCount.toNat,
        if op = 2 then movePagesOf f else [], [], [], [], [], []⟩
      let begun := s.dev.onVd v.val fun x => { x with sync := some y }
      let missing := masterMissing begun v.val y
      (missing = [] → Gives i s fun d =>
        d = begun.emit (.masterRead v.val (f.masterBase.toNat + 32 * f.syncFirst.toNat) (32 * f.syncSpan.toNat))) ∧
      (missing ≠ [] → (∀ p ∈ missing, begun.priRefused v.val p = false) → Gives i s fun d =>
        d = missing.foldl (fun d p => askPage v.val p d) begun) ∧
      ((∃ p ∈ missing, begun.priRefused v.val p = true) →
        exec i s = .next (after s (completeSync v.val 5 ((work s).on fun _ => begun)))))) ∧
  (∀ (s : State) (v : VDev) (y : Sync), (s.dev.vd v.val).sync = some y → y.step = .reading →
    exec (.syncMasterReadDone v none) s = .next (after s (completeSync v.val 5 (work s))) ∧
    ∀ bs, (masterMissing s.dev v.val y ≠ [] → exec (.syncMasterReadDone v (some bs)) s = .next (after s (readMaster v.val y (work s)))) ∧
      (masterMissing s.dev v.val y = [] → (s.dev.vd v.val).mirrorLost = true → exec (.syncMasterReadDone v (some bs)) s = .next s) ∧
      (masterMissing s.dev v.val y = [] → (s.dev.vd v.val).mirrorLost = false → exec (.syncMasterReadDone v (some bs)) s =
        .next (after s (checkSync v.val (entriesOf (sliceB bs 0 (32 * y.span))) y (work s))))) ∧
  (∀ (s : State) (v : VDev) (w : BitVec 64), s.dev.barOpen v.val = false →
    exec (.xltSync v w) s = .next s ∧ exec (.xltMoveAndSync v w) s = .next s) ∧
  (∀ (s : State) (v : VDev) (n : XNode) (y : Sync), (s.dev.vd v.val).sync = some y → y.sent.contains n = true →
    Gives (.rangeInvalidation v n) s fun d =>
      (∀ c ∈ d.xlt.caches, c ∈ s.dev.xlt.caches ∧ ¬ (c.1 = n ∧ c.2.vdev = v.val ∧ c.2.gen ≠ (s.dev.vd v.val).gen ∧
        (y.changed.any fun r => rangesMeet r (c.2.e.start, c.2.e.len)) = true)) ∧
      (∀ c ∈ d.xlt.buffers, c ∈ s.dev.xlt.buffers ∧ ¬ (c.1.node = n ∧ c.2.vdev = v.val ∧ c.2.gen ≠ (s.dev.vd v.val).gen ∧
        (y.changed.any fun r => rangesMeet r (c.2.e.start, c.2.e.len)) = true)) ∧
      (d.vd v.val).sync = some { y with
        sent := y.sent.filter (· != n)
        acks := y.acks ++ [n] }) ∧
  (∀ (s : State) (v : VDev) (n : XNode) (y : Sync), (s.dev.vd v.val).sync = some y → y.acks = [n] → y.sent = [] → y.step = .invalidating →
    exec (.invalidationAck v n) s = .next (after s (completeSync v.val 0
      ((work s).on fun d => d.onVd v.val fun x => { x with sync := some { y with acks := [] } })))) ∧
  (∀ (s : State) (v : VDev) (n : XNode) (y : Sync), (s.dev.vd v.val).sync = some y → y.acks.contains n = true →
    (y.acks.filter (· != n) ≠ [] ∨ y.sent ≠ []) → Gives (.invalidationAck v n) s fun d =>
      d = s.dev.onVd v.val fun x => { x with sync := some { y with acks := y.acks.filter (· != n) } }) ∧
  (∀ (s : State) (v : VDev) (y : Sync) (p : Nat) (rest : List Nat) (ok : Bool) (bs : List Byte),
    (s.dev.vd v.val).sync = some y → y.moveLeft = p :: rest → y.step = .copying → (s.dev.vd v.val).mirrorLost = false →
    pageQuiet s.dev v.val p = true →
    (ok = true → moveMissing s.dev v.val p y = []) →
    match copyPage v.val p y ok bs (work s) with
    | .error e => exec (.movePageCopyDone v ok bs) s = .next (after s (completeSync v.val e (work s)))
    | .ok w =>
      let w := w.on fun d => d.onVd v.val fun x => { x with sync := some { y with moveLeft := rest } }
      exec (.movePageCopyDone v ok bs) s = .next (after s (if rest = [] then activate v.val { y with moveLeft := [] } w else w))) ∧
  (∀ (s : State) (v : VDev) (y : Sync) (p : Nat) (rest : List Nat) (bs : List Byte),
    (s.dev.vd v.val).sync = some y → y.moveLeft = p :: rest → y.step = .copying → (s.dev.vd v.val).mirrorLost = false →
    pageQuiet s.dev v.val p = true →
    let missing := moveMissing s.dev v.val p y
    missing ≠ [] →
    ((∃ n ∈ missing, s.dev.priRefused v.val n = true) →
      exec (.movePageCopyDone v true bs) s = .next (after s (completeSync v.val 8 (work s)))) ∧
    ((∀ n ∈ missing, s.dev.priRefused v.val n = false) →
      Gives (.movePageCopyDone v true bs) s fun d => d = missing.foldl (fun d n => askPage v.val n d) s.dev)) ∧
  (∀ (s : State) (v : VDev) (bs : List Byte), (s.dev.vd v.val).mirrorLost = true →
    let es := entriesOf (sliceB bs 0 (32 * (s.dev.vd v.val).table.length))
    exec (.mirrorRebuildDone v bs) s = .next (after s (releaseHost ((work s).on fun d => d.onVd v.val fun x => { x with
      mirrorLost := false
      mirrorCh := mirrorHome s.dev v.val
      table := if tableOrdered (es.map entryOf) && es.all reservedZero && (es.map entryOf).all (entryFieldOk s.dev v.val) &&
        !tableAlias (es.map entryOf) then es.map entryOf else x.table })))) ∧
  (∀ (s : State) (v : VDev) (bs : List Byte), (s.dev.vd v.val).mirrorLost = false → exec (.mirrorRebuildDone v bs) s = .next s)

/-- R239, R244: a new table is adopted only if every rule holds: it is ordered and disjoint, its reserved bits are zero and its
fields legal, no two entries share device memory, and a moved page's pair may be moved. Then the generation rises by one. In
every other case the table and the generation stay. -/
def Obligations.OnlyLawfulTablesAreAdopted : Prop :=
  ∀ (s : State) (v : Nat) (raw : List (List Byte)) (y : Sync), (s.dev.vd v).sync = some y →
    let x := s.dev.vd v
    let next := (x.table.take y.first ++ raw.map entryOf ++ x.table.drop (y.first + y.span)).take y.count
    let lawful := tableOrdered next && (raw.all reservedZero && next.all (entryFieldOk s.dev v)) && !tableAlias next
    let z := (checkSync v raw y (work s)).dev.vd v
    (lawful = true → y.move = false → z.table = next ∧ z.gen = x.gen + 1) ∧
    (lawful = false → z.table = x.table ∧ z.gen = x.gen ∧ z.sync = none) ∧
    (y.move = true → y.pages ≠ [] → z.table = x.table ∧ z.gen = x.gen)

/-- R246, R247, R251, R254 … R256: a walk finds the entry of the active table; its reply is installed and the accesses that wait
go on; a fault enters the table as a new entry, or joins the waiters of its page; FAIL fails every waiter and frees the entry,
but for one that blocks a page of a move, which an access to the page joins (R258). R248 … R250: host pages. An invalidation
drops every cached translation it names, and its completion leaves at once where nothing uses them; a translation answered
without permission is asked for through PRI; on Success the hub translates again, otherwise the waiters fail; page requests may
be allowed again; a line read is there for the access that waits; a failed transfer is made once more, and the second failure
fails its command with 0x0012. -/
def Obligations.WalksFaultsAndPages : Prop :=
  (∀ (s : State) (v : VDev) (n : XNode) (va : BitVec 64), (s.dev.vd v.val).mirrorLost = false → s.dev.xlt.walks = [⟨v.val, n, va.toNat, none⟩] →
    Gives (.rangeWalk v n va) s fun d =>
      d.xlt.walks = [⟨v.val, n, va.toNat, some ((s.dev.vd v.val).find va.toNat, (s.dev.vd v.val).gen)⟩] ∧
      { d with xlt := s.dev.xlt } = s.dev) ∧
  (∀ (s : State) (v : VDev) (n : XNode) (va : BitVec 64), (s.dev.vd v.val).mirrorLost = true → exec (.rangeWalk v n va) s = .next s) ∧
  (∀ (s : State) (v : VDev) (n : XNode) (va : BitVec 64) (e : Option REntry) (g : BitVec 32),
    s.dev.xlt.walks = [⟨v.val, n, va.toNat, some (e, g)⟩] → s.dev.xlt.acked = [] → s.dev.mc.reqs = [] →
    Gives (.walkReply v n va) s fun d => d.xlt.walks = [] ∧ ∀ x, e = some x → (n, ⟨v.val, g, x⟩) ∈ d.xlt.caches) ∧
  (∀ (s : State) (v : VDev) (n : XNode) (va : BitVec 64) (k : Walk) (rest : List Walk) (e : REntry) (g : BitVec 32),
    takeFirst (fun x : Walk => x.vdev == v.val && x.node == n && x.va == va.toNat && x.reply.isSome) s.dev.xlt.walks = some (k, rest) →
    k.reply = some (some e, g) →
    (walkStale s.dev v.val n e g = true → Gives (.walkReply v n va) s fun d =>
      d = s.dev.onXlt fun x => { x with walks := rest ++ [{ k with reply := none }] }) ∧
    (walkStale s.dev v.val n e g = false →
      let mine := s.dev.mc.reqs.filter fun r => r.vdev == v.val && r.stage == .walk && coreNode r.core == n &&
        (decide (e.start ≤ r.va) && decide (r.va < e.start + e.len))
      let entry : CEntry := ⟨v.val, g, e⟩
      let w := (work s).on fun d => installEntry n entry (d.onXlt fun x => { x with walks := rest })
      exec (.walkReply v n va) s = .next (after s (mine.foldl (fun w r =>
        placeReq r (e :: w.dev.xview (.core r.core) v.val) g (w.on (bufferPut (.core r.core) entry))) w)))) ∧
  (∀ (s : State) (id : Nat) (m : FaultMsg) (rest : List FaultMsg),
    takeFirst (fun m : FaultMsg => m.id == id) s.dev.xlt.faultMsgs = some (m, rest) →
    Gives (.translationFault id) s fun d => d = enterFault m (countFault m (s.dev.onXlt fun x => { x with faultMsgs := rest }))) ∧
  (∀ (s : State) (id : Nat) (m : FaultMsg) (rest : List FaultMsg),
    takeFirst (fun m : FaultMsg => m.id == id) s.dev.xlt.faultFull = some (m, rest) →
    Gives (.faultTableRetryTimer id) s fun d => d = enterFault m (s.dev.onXlt fun x => { x with faultFull := rest })) ∧
  (∀ (d : Dev) (m : FaultMsg), m.gen = (d.vd m.vdev).gen → (d.vd m.vdev).sync = none → d.xlt.faults.length < 4096 →
    (d.xlt.faults.find? fun e => e.2.vdev == m.vdev && e.2.page == pageOf m.va && (e.2.kind == m.kind || e.2.kind == blockKind)) = none →
    ∃ i e, Tab.get? d.xlt.faults i = none ∧ Tab.get? (enterFault m d).xlt.faults i = some e ∧ e.vdev = m.vdev ∧ e.page = pageOf m.va ∧
      e.kind = m.kind ∧ e.waiters = [(m.who, m.va)]) ∧
  (∀ (d : Dev) (m : FaultMsg) (i : Nat) (e : FaultEnt),
    (d.xlt.faults.find? fun e => e.2.vdev == m.vdev && e.2.page == pageOf m.va && e.2.kind == blockKind) = some (i, e) →
    enterFault m d = putFault i { e with waiters := e.waiters ++ [(m.who, m.va)] } d) ∧
  (∀ (s : State) (v : VDev) (slots : List (Nat × Nat)), Tab.get? s.dev.xlt.batches v.val = some slots →
    Gives (.faultBatchTimer v) s fun d =>
      let live := slots.filterMap fun i => ((Tab.get? s.dev.xlt.faults i.1).filter fun e => e.use == i.2 && e.vdev == v.val).map fun e => (i.1, e)
      d = postBatch v.val 1 (live.zipIdx.map fun x => (faultId x.1.1 x.1.2.use, faultRecord x.1.1 (live.length - 1 - x.2) x.1.2))
        (s.dev.onXlt fun x => { x with batches := Tab.del x.batches v.val })) ∧
  (∀ (s : State) (v : VDev) (r : BitVec 64) (e : FaultEnt), s.dev.barOpen v.val = true → bitAt r.toNat 0 = true →
    Tab.get? s.dev.xlt.faults (bits (r.toNat / 2 ^ 32) 11 0) = some e → e.vdev = v.val →
    faultId (bits (r.toNat / 2 ^ 32) 11 0) e.use = r.toNat / 2 ^ 32 →
    (e.kind = blockKind → exec (.faultRespFail v r) s = .next s) ∧
    (e.kind ≠ blockKind → exec (.faultRespFail v r) s = .next (after s (e.waiters.foldl (fun w y => failWaiter e.kind y.1 y.2 w)
      ((work s).on (freeFaults fun x => x.1 == bits (r.toNat / 2 ^ 32) 11 0)))))) ∧
  (∀ (d : Dev) (i : Nat), (∀ e, (i, e) ∈ d.xlt.faults → d.unposted i e = false) →
    Tab.get? (freeFaults (fun x => x.1 == i) d).xlt.faults i = none) ∧
  (∀ (s : State) (v : VDev) (r : BitVec 64), s.dev.barOpen v.val = false ∨ bitAt r.toNat 0 = false → exec (.faultRespFail v r) s = .next s) ∧
  (∀ (s : State) (fn : FnId) (page count : Nat), s.dev.mc.host = [] → s.dev.xlt.atsInval = [] →
    Gives (.atsInvalidation fn page count) s fun d =>
      (∀ e ∈ d.xlt.atc, e ∈ s.dev.xlt.atc ∧ ¬ (e.1 = fn.val ∧ page ≤ e.2.1 ∧ e.2.1 < page + count)) ∧
      (∀ e ∈ s.dev.xlt.atc, ¬ (e.1 = fn.val ∧ page ≤ e.2.1 ∧ e.2.1 < page + count) → e ∈ d.xlt.atc) ∧
      d.out = s.dev.out ++ [.atsDone fn.val page count]) ∧
  (∀ (s : State) (fn : FnId) (page count : Nat), Gives (.atsInvalidation fn page count) s fun d => d = flushAts (s.dev.onXlt fun x => { x with
    atc := x.atc.filter fun e => !(e.1 == fn.val && decide (page ≤ e.2.1) && decide (e.2.1 < page + count))
    atsInval := x.atsInval ++ [(fn.val, page, count, (s.dev.mc.host.filter fun r =>
      r.fn == fn.val && decide (page ≤ r.iova / 4096) && decide (r.iova / 4096 < page + count)).map HostReq.id)] })) ∧
  (∀ (s : State) (fn : FnId) (page : Nat) (r w : Bool), s.dev.xlt.atsOut.contains (fn.val, page) = true →
    let k := (work s).on fun d => d.onXlt fun x => { x with
      atsOut := x.atsOut.filter (· != (fn.val, page))
      atc := if r || w then atcPut (fn.val, page, r, w) x.atc else x.atc.filter fun e => !(e.1 == fn.val && e.2.1 == page) }
    ((r || w) = true → exec (.atsTranslationCompletion fn page r w) s = .next (after s (resumePage fn.val page k))) ∧
    ((r || w) = false → s.dev.xlt.priOff.contains fn.val = false →
      exec (.atsTranslationCompletion fn page r w) s = .next (after s (k.on (askPri fn.val page)))) ∧
    ((r || w) = false → s.dev.xlt.priOff.contains fn.val = true →
      exec (.atsTranslationCompletion fn page r w) s = .next (after s (failPage fn.val page k)))) ∧
  (∀ (s : State) (fn : FnId) (page : Nat) (r : PriResp), (s.dev.xlt.pageReqs.any fun x => x.fn == fn.val && x.page == page) = true →
    let w := (work s).on fun d => d.onXlt fun x => { x with
      pageReqs := x.pageReqs.filter fun x => !(x.fn == fn.val && x.page == page)
      atc := x.atc.filter fun e => !(e.1 == fn.val && e.2.1 == page)
      priOff := if r = .responseFailure && !x.priOff.contains fn.val then x.priOff ++ [fn.val] else x.priOff }
    let waiting := (w.dev.xlt.priWait.filter fun x => x.fn == fn.val).map PageReq.page
    let quiet := w.on fun d => d.onXlt fun x => { x with priWait := x.priWait.filter fun x => x.fn != fn.val }
    exec (.priResponse fn page r) s = .next (after s (match r with
      | .success => w.on fun d => nextPri fn.val (askAts fn.val page d)
      | .invalidRequest => (failPage fn.val page w).on (nextPri fn.val)
      | .responseFailure => (page :: waiting).foldl (fun w p => failPage fn.val p w) quiet))) ∧
  (∀ (s : State) (fn : FnId), exec (.priReenable fn) s = .next (after s (retryVd fn.val ((work s).on fun d => d.onXlt fun x =>
    { x with priOff := x.priOff.filter (· != fn.val) })))) ∧
  (∀ (s : State) (id : Nat) (bs : List Byte) (r : HostReq) (rest : List HostReq),
    takeFirst (fun r : HostReq => r.id == id) s.dev.mc.host = some (r, rest) → s.dev.dmaBars r = false →
    let w := (work s).on fun d => flushAts (d.onMc fun m => { m with
      host := rest
      hostBuf := m.hostBuf ++ [(r.fn, r.iova, sliceB bs 0 r.len)] })
    let rs := s.dev.mc.reqs.filter fun x => x.vdev == r.fn && x.stage == .host && decide (r.iova ≤ x.iova) && decide (x.iova < r.iova + r.len)
    exec (.hostReadCompletion id bs) s = .next (after s (rs.foldl (fun w x => hostAccess x x.iova w) w))) ∧
  (∀ (s : State) (id : Nat) (r : HostReq) (rest : List HostReq),
    takeFirst (fun r : HostReq => r.id == id) s.dev.mc.host = some (r, rest) →
    (r.retried = false → Gives (.hostReadError id) s fun d => d.mc.host = rest ++ [{ r with retried := true }] ∧
      d.out = s.dev.out ++ [.hostRead r.fn r.id r.iova r.len]) ∧
    (r.retried = true → r.queue = adminQueue → Gives (.hostReadError id) s fun d =>
      d = (flushAts (s.dev.onMc fun m => { m with host := rest })).onFn r.fn fun f => { f with argBad := true }) ∧
    (r.retried = true → r.queue ≠ adminQueue → ∀ q x c, (s.dev.vd r.vdev).queues = [(q, x)] → x.cur = some c → c.no = r.cmd →
      exec (.hostReadError id) s = .next (after s (failCmd r.vdev q 0x12 Detail.none
        ((work s).on fun d => flushAts (d.onMc fun m => { m with host := rest }))))))

/-- R352 … R354, R357: a mailbox. GO sends a message with the next sequence number, and only then (a WITHDRAW in the same write
comes first); a message withdrawn or taken leaves the channel; the wrong sequence number is late. A notice that firmware sends
goes to the manager's channel with its kind, virtual device and count. No other channel changes. R359, R360, R362: an event
controller. A claim takes every pending event of the best source delivered and raises the processor's priority to it, or reads
0x3FF; the end of an interrupt pops the stack; the hold limit makes a pending source ready; a mask is as written. -/
def Obligations.MailboxesAndEvents : Prop :=
  (∀ (s : State) (c : MbxChan) (w : BitVec 32) (fn : Nat), mbxSender c = some fn → s.dev.barOpen fn = true →
    let held := s.dev.mbxCh (chanNo c)
    let m := { (if bitAt w.toNat 1 && held.go then { held with go := false, withdrawn := true } else held) with
      len := BitVec.ofNat 5 (bits w.toNat 12 8) }
    Gives (.mbxGo c w) s fun d =>
      (bitAt w.toNat 0 = false → d = s.dev.onMbx (chanNo c) fun _ => m) ∧
      (bitAt w.toNat 0 = true → m.go = false → 8 ≤ m.len.toNat → m.len.toNat ≤ 16 → d.mbxCh (chanNo c) = { m with
        go := true
        seq := m.seq + 1 }) ∧
      (bitAt w.toNat 0 = true → m.go = true ∨ m.len.toNat < 8 ∨ 16 < m.len.toNat → d.mbxCh (chanNo c) = { m with err := true }) ∧
      (∀ k, k ≠ chanNo c → d.mbxCh k = s.dev.mbxCh k) ∧ d.vds = s.dev.vds) ∧
  (∀ (s : State) (c : MbxChan) (w : BitVec 32), (∀ fn, mbxSender c = some fn → s.dev.barOpen fn = false) →
    exec (.mbxGo c w) s = .next s ∧ exec (.mbxWithdraw c) s = .next s) ∧
  (∀ (s : State) (c : MbxChan), (s.dev.mbxCh (chanNo c)).go = false → exec (.mbxWithdraw c) s = .next s) ∧
  (∀ (s : State) (c : MbxChan) (w : BitVec 32), s.dev.barOpen (mbxReceiver c) = false → exec (.mbxDone c w) s = .next s) ∧
  (∀ s : State, (s.dev.notices = [] ∨ (s.dev.mbxCh 512).go = true ∨ s.dev.schedUp = false) → exec .noticeSend s = .next s) ∧
  (∀ (s : State) (c : MbxChan) (fn : Nat), mbxSender c = some fn → s.dev.barOpen fn = true → (s.dev.mbxCh (chanNo c)).go = true →
    Gives (.mbxWithdraw c) s fun d => d = s.dev.onMbx (chanNo c) fun m => { m with
      go := false
      withdrawn := true }) ∧
  (∀ (s : State) (c : MbxChan) (w : BitVec 32), s.dev.barOpen (mbxReceiver c) = true →
    let m := s.dev.mbxCh (chanNo c)
    Gives (.mbxDone c w) s fun d =>
      (m.go = true → m.seq.toNat = bits w.toNat 31 16 → d.mbxCh (chanNo c) = { m with go := false }) ∧
      (m.go = false ∨ m.seq.toNat ≠ bits w.toNat 31 16 → d = s.dev.onMbx (chanNo c) fun m => { m with late := true })) ∧
  (∀ (s : State) (n : Notice) (rest : List Notice), s.dev.notices = n :: rest → (s.dev.mbxCh 512).go = false → s.dev.schedUp = true →
    Gives .noticeSend s fun d => d.notices = rest ∧ (d.mbxCh 512).go = true ∧ (d.mbxCh 512).seq = (s.dev.mbxCh 512).seq + 1 ∧
      (d.mbxCh 512).len = 8 ∧ Tab.get? (d.mbxCh 512).data 0 = some (BitVec.ofNat 32 (n.kind + 65536 * n.vdev)) ∧
      Tab.get? (d.mbxCh 512).data 1 = some (BitVec.ofNat 32 n.count)) ∧
  (∀ (s : State) (c : EvCtl) (p : Fin 2) (i : Nat), ctlHas c p.val = true →
    (s.dev.evc (ctlNo c)).best ((s.dev.evc (ctlNo c)).proc p.val).given = some i →
    Gives (.evcClaim c p) s fun d =>
      let x := s.dev.evc (ctlNo c)
      let y := d.evc (ctlNo c)
      (y.src i).pend = 0 ∧ (y.src i).ready = false ∧ (y.proc p.val).last = BitVec.ofNat 10 i ∧
        (y.proc p.val).stack = (x.proc p.val).prio :: (x.proc p.val).stack ∧ (y.proc p.val).prio = (x.src i).prio ∧
        ∀ k, k ≠ ctlNo c → d.evc k = s.dev.evc k) ∧
  (∀ (s : State) (c : EvCtl) (p : Fin 2), ctlHas c p.val = true →
    (s.dev.evc (ctlNo c)).best ((s.dev.evc (ctlNo c)).proc p.val).given = none →
    Gives (.evcClaim c p) s fun d => ((d.evc (ctlNo c)).proc p.val).last = 0x3FF ∧
      ((d.evc (ctlNo c)).proc p.val).stack = ((s.dev.evc (ctlNo c)).proc p.val).stack) ∧
  (∀ (s : State) (c : EvCtl) (p : Fin 2) (n : Nat) (rest : List Nat), ctlHas c p.val = true →
    ((s.dev.evc (ctlNo c)).proc p.val).stack = n :: rest →
    Gives (.evcEoi c p) s fun d => ((d.evc (ctlNo c)).proc p.val).prio = n ∧ ((d.evc (ctlNo c)).proc p.val).stack = rest) ∧
  (∀ (s : State) (c : EvCtl) (i : Fin 512), ((s.dev.evc (ctlNo c)).src i.val).pend ≠ 0 → ((s.dev.evc (ctlNo c)).src i.val).ready = false →
    Gives (.evcHoldTimer c i) s fun d => (d.evc (ctlNo c)).src i.val = { (s.dev.evc (ctlNo c)).src i.val with ready := true }) ∧
  (∀ (s : State) (c : EvCtl) (p : Fin 2) (m : Bool), ctlHas c p.val = true →
    Gives (.evcMaskWrite c p m) s fun d => ((d.evc (ctlNo c)).proc p.val).mask = m ∧
      (m = true → ((d.evc (ctlNo c)).proc p.val).given = [])) ∧
  (∀ (s : State) (c : EvCtl) (p : Fin 2) (m : Bool), ctlHas c p.val = false →
    exec (.evcClaim c p) s = .next s ∧ exec (.evcEoi c p) s = .next s ∧ exec (.evcMaskWrite c p m) s = .next s) ∧
  (∀ (s : State) (c : EvCtl) (p : Fin 2), ((s.dev.evc (ctlNo c)).proc p.val).stack = [] → exec (.evcEoi c p) s = .next s) ∧
  (∀ (s : State) (c : EvCtl) (i : Fin 512), ((s.dev.evc (ctlNo c)).src i.val).pend = 0 ∨ ((s.dev.evc (ctlNo c)).src i.val).ready = true →
    exec (.evcHoldTimer c i) s = .next s)

/-- R348 … R350, R523: the re-initialisations. A RESET_FUNCTION is taken and begins at once; a function-level reset and the
disabling of a function re-initialise it; enabling it does nothing else. The registers of a re-initialised function are those of
reset but for its messages, its ring windows and phase counts, and its device interface enters ERROR. -/
def Obligations.FunctionResets : Prop :=
  (∀ (s : State) (i : Nat) (bs : List Byte), Accepted s.dev mgr (adRow 0x0302 1) i bs →
    bits (s.dev.fn mgr).adTail.toNat 4 0 = (i + 1) % 32 → (s.dev.fn mgr).taken = [] →
    exec .resetFunction s = .next (after s (resetVf (fieldLe (headReq mgr i bs).args 0 1) false
      (finish (headReq mgr i bs) (.later (.reset (fieldLe (headReq mgr i bs).args 0 1))) (work s))))) ∧
  (∀ (s : State) (i : Nat) (bs : List Byte), Accepted s.dev mgr (adRow 0x0302 1) i bs →
    let r := headReq mgr i bs
    exec .resetFunction s = .next (after s (startReset (fun k => !((s.dev.fn mgr).taken.map Prod.fst).contains k)
      (finish r (.later (.reset (fieldLe r.args 0 1))) (work s))))) ∧
  (∀ (s : State) (v : VDev), (s.dev.vd v.val).enabled = true →
    exec (.functionLevelReset (.vf v)) s = .next (after s (resetVf v.val true (work s)))) ∧
  (∀ (s : State) (v : VDev), (s.dev.vd v.val).enabled = false → exec (.functionLevelReset (.vf v)) s = .next s) ∧
  (∀ (s : State) (v : VDev) (on : Bool), (s.dev.vd v.val).enabled = on → exec (.vfEnable v on) s = .next s) ∧
  (∀ s : State, let w := ((portVfs 0).foldl (fun w v => resetVf v true w) (work s)).on (unbindPort 0)
    exec (.functionLevelReset (.carrier 0)) s = .next (after s (w.on fun d =>
      (List.range 256).foldl (fun d v => d.onMbx (256 + v) Mbx.senderReset)
        (dropAts mgr ((cancelTaken mgr d).onFn mgr (Fn.reinit true)))))) ∧
  (∀ (s : State) (p : Fin 4), p.val ≠ 0 → exec (.functionLevelReset (.carrier p)) s =
    .next (after s (((portVfs p.val).foldl (fun w v => resetVf v true w) (work s)).on (unbindPort p.val)))) ∧
  (∀ (s : State) (v : VDev), (s.dev.vd v.val).enabled = false →
    Gives (.vfEnable v true) s fun d => d = s.dev.onVd v.val fun x => { x with enabled := true }) ∧
  (∀ (s : State) (v : VDev), (s.dev.vd v.val).enabled = true →
    exec (.vfEnable v false) s = .next (after s (resetVf v.val true ((work s).on fun d => d.onVd v.val fun x => { x with enabled := false })))) ∧
  (∀ (s : State) (v : VDev), (s.dev.vd v.val).enabled = true → (s.dev.vd v.val).queues = [] → (s.dev.vd v.val).slots = [] →
    (s.dev.fn v.val).taken = [] →
    Gives (.functionLevelReset (.vf v)) s fun d =>
      d.fn v.val = { Fn.reset with
        vecs := resetVecs (s.dev.fn v.val).vecs
        reqSlots := (s.dev.fn v.val).reqSlots
        respSlots := (s.dev.fn v.val).respSlots
        respUsed := (s.dev.fn v.val).respUsed
        evSeq := (s.dev.fn v.val).evSeq
        tdi := .error
        tdiStream := (s.dev.fn v.val).tdiStream } ∧
      (d.vd v.val).table = (s.dev.vd v.val).table ∧ (d.vd v.val).gen = (s.dev.vd v.val).gen ∧
      (d.vd v.val).cores = (s.dev.vd v.val).cores ∧ (d.vd v.val).chans = (s.dev.vd v.val).chans ∧
      (∀ c ∈ d.ctxs, c.2.vdev ≠ v.val) ∧ (∀ u, u ≠ v.val → d.vd u = s.dev.vd u))

/-- R365 … R372, R235: the migration of a virtual device. FREEZE freezes it; the end of its grace holds its commands; SAVE keeps
a blob of a device at rest, writes it sealed to the host or to a peer, and ends its exports, once the homes of imported fences
have answered; RESTORE brings a blob back; THAW releases it, and a held command's timer starts again; DISCARD takes its units,
tables and partitions away. -/
def Obligations.MigrationCommands : Prop :=
  (∀ (s : State) (i : Nat) (bs : List Byte), Accepted s.dev mgr { adRow 0x0401 1 with whileA2 := true } i bs →
    let v := fieldLe (headReq mgr i bs).args 0 1
    (s.dev.vd v).frozen = false → s.dev.windowed v = false →
    Gives .freeze s fun d => (d.vd v).frozen = true ∧ (d.vd v).table = (s.dev.vd v).table ∧ (d.vd v).cores = (s.dev.vd v).cores) ∧
  (∀ (s : State) (v : VDev) (slot : Nat) (t : Taken),
    (s.dev.fn mgr).taken.find? (fun t => t.2.op == .freeze v.val false) = some (slot, t) →
    exec (.freezeGraceExpiry v) s = .next (after s (((((s.dev.advance 0 (t.since + graceTicks)).vd v.val).queues.map Prod.fst).foldl
      (fun w q => holdCmd v.val q w) ((work s).on fun d => (d.advance 0 (t.since + graceTicks)).onFn mgr fun f =>
        { f with taken := Tab.put f.taken slot { t with op := .freeze v.val true } })).on (settleFreeze v.val)))) ∧
  (∀ (s : State) (v : VDev), (s.dev.fn mgr).taken.find? (fun t => t.2.op == .freeze v.val false) = none →
    exec (.freezeGraceExpiry v) s = .next s) ∧
  (∀ (s : State) (i : Nat) (bs : List Byte), Accepted s.dev mgr { adRow 0x0402 19 with whileA2 := true } i bs →
    let a := (headReq mgr i bs).args
    let v := fieldLe a 0 1
    fieldLe a 1 1 < 2 → fieldLe a 2 1 < 16 → (s.dev.vd v).frozen = true → s.dev.atRest v = true →
    s.dev.mgrWaits (DefOp.freezes v) = false → s.dev.secUp = true → s.dev.lostData v = false →
    (unreadSlots s.dev v ≠ [] → exec (.save true) s = .next (after s ((work s).on (askHomes v)))) ∧
    (unreadSlots s.dev v = [] → Gives (.save true) s fun d => Tab.get? d.blobs s.dev.nextBlob = some (blobOf (work s) v) ∧
      (∀ e ∈ d.exports, e.2.vdev ≠ v) ∧ d.vds = s.dev.vds ∧
      let sealed := sealBlob (work s) v s.dev.nextBlob (blobOf (work s) v)
      (fieldLe a 1 1 = 0 → .hostWrite mgr (fieldLe a 3 8) sealed.1 ∈ d.out) ∧
      (fieldLe a 1 1 = 1 → .blobPart (fieldLe a 2 1) v 0 sealed.1 ∈ d.out))) ∧
  (∀ (s : State) (n i : Nat) (bs : List Byte) (b : Blob) (w : Wk), Accepted s.dev mgr (adRow 0x0403 210) i bs →
    let a := (headReq mgr i bs).args
    let r : Req := ⟨a.take 192⟩
    let x := s.dev.vd r.vdev
    r.fieldsOk = true → fieldLe a 192 1 < 2 → fieldLe a 193 1 < 16 → r.epoch = x.epoch.toNat → s.dev.secUp = true →
    Tab.get? s.dev.blobs n = some b → x.composed = false → x.inReset = false → b.acl ≤ s.dev.fw.aclMax.toNat →
    (b.keys.all fun k => (s.dev.keySlot k.1).state == .empty) = true → (b.ctxs.all fun t => (s.dev.ctx? t.1).isNone) = true →
    (b.sets.all fun e => !(s.dev.set e.1).valid) = true → (b.queues.all fun q => decide (q.1 < r.queues)) = true →
    composeStatus s.dev { x with frozen := false } r (changeOf s.dev x r) = none → b.keys.length ≤ x.quota.toNat →
    s.dev.devqs.length + b.queues.length ≤ 4096 →
    restoreBlob r.vdev b ((work s).on (applyChange r.vdev r (changeOf s.dev x r))) = some w →
    Completes (.restore n true) s fun t => t.dev.vds = w.dev.vds ∧ t.mem = s.mem.commit w.log ∧ t.dev.ctxs = w.dev.ctxs) ∧
  (∀ (s : State) (i : Nat) (bs : List Byte), Accepted s.dev mgr { adRow 0x0404 1 with whileA2 := true } i bs →
    let v := fieldLe (headReq mgr i bs).args 0 1
    (s.dev.vd v).frozen = true →
    Gives .thaw s fun d => (d.vd v).frozen = false ∧ ∀ q c, s.dev.cur? v q = some c → c.held = true →
      d.cur? v q = some { c with start := s.dev.hlcOf v }) ∧
  (∀ (s : State) (i : Nat) (bs : List Byte), Accepted s.dev mgr { adRow 0x0405 1 with whileA2 := true } i bs →
    let v := fieldLe (headReq mgr i bs).args 0 1
    (s.dev.vd v).frozen = true → s.dev.mgrWaits (DefOp.freezes v) = false →
    Completes .discard s fun t => (t.dev.vd v).frozen = false ∧ (t.dev.vd v).cores = [] ∧ (t.dev.vd v).chans = [] ∧
      (t.dev.vd v).parts = [] ∧ (t.dev.vd v).table = [])

/-- R322 … R325, R337, R338: COMPOSE binds what joins and releases what leaves under the next epoch; a map for the change waits
to be published, and every unit released is leaving from there. A request that a rule refuses changes the rings alone. -/
def Obligations.CompositionChanges : Prop :=
  ∀ (s : State) (i : Nat) (bs : List Byte), Accepted s.dev mgr (adRow 0x0301 192) i bs →
    let r : Req := ⟨(headReq mgr i bs).args.take 192⟩
    let x := s.dev.vd r.vdev
    let c := changeOf s.dev x r
    (composeStatus s.dev x r c = none → Gives .compose s fun d =>
      (d.vd r.vdev).cores = (x.cores.filter fun n => !c.outCores.contains n) ++ c.inCores ∧
      (d.vd r.vdev).chans = (x.chans.filter fun k => !c.outChans.contains k) ++ c.inChans ∧
      (d.vd r.vdev).ports = BitVec.ofNat 16 r.ports ∧ (d.vd r.vdev).queueGrant = r.queues ∧ (d.vd r.vdev).epoch = nextEpoch x.epoch ∧
      (∀ v, v ≠ r.vdev → d.vd v = s.dev.vd v) ∧
      (∃ p, d.sched.publish = (keepMaps r.vdev s.dev).sched.publish ++ [p] ∧ p.vdev = r.vdev ∧ p.epoch = nextEpoch x.epoch ∧ p.toAck = []) ∧
      (∀ n ∈ c.outCores, d.sluiced .core n = true) ∧ (∀ n ∈ c.outChans, d.sluiced .chan n = true)) ∧
    (∀ st, composeStatus s.dev x r c = some st →
      exec .compose s = .next (after s ((finish (headReq mgr i bs) (.done st 0 []) (work s)).on (announce s.dev))))

/-- R207, R326, R327, R345: sets and partitions. A defined set holds its members under the new epoch; a new partition is WARMING
and has the cores wanted; a prefetch goes to every die that homes its spans and starts the bound again; a partition leaves
WARMING on request, or after ten seconds without a prefetch. R156 … R159, R494, R501: a self-test. A core in test that passes is
serviceable while its cluster has fewer than 64, else in reserve, and the retirement that waited for a test goes on; one that
fails is retired for its self-test, and a bound one leaves its composition. A core that is not in test is not touched. -/
def Obligations.SetsPartitionsAndSelfTests : Prop :=
  (∀ (s : State) (v : VDev) (i : Nat) (bs : List Byte), Accepted s.dev v.val (adRow 0x0250 8) i bs →
    let a := (headReq v.val i bs).args
    let k := fieldLe a 0 2
    let l := fieldLe a 2 1
    let len := fieldLe a 4 4
    let ms := setMembers a (2 ^ l)
    k < 1024 → fieldLe a 3 1 = 1 → l ≤ 6 → 1 ≤ len → len ≤ 23040 → 8 + 4 * 2 ^ l ≤ a.length →
    (ms.all fun m => decide (m.1 < 1024) && decide (m.2 + len ≤ 23040)) = true → selfMeet len ms = false →
    (ms.all fun m => (s.dev.vd v.val).chans.contains m.1) = true → (s.dev.set k).valid = false →
    (s.dev.mc.sets.any fun y => y.2.valid && y.2.members.any fun b => ms.any fun m => membersMeet m len b y.2.len) = false →
    ((s.dev.vd v.val).mirrored = true → (pickMirrors s.dev (s.dev.vd v.val) ms).isSome = true) →
    Gives (.defineSet v) s fun d => (d.vd v.val).epoch = nextEpoch (s.dev.vd v.val).epoch ∧
      d.set k = { s.dev.set k with
        len := len
        vdev := v.val
        log2n := l
        valid := true
        members := ms
        epoch := nextEpoch (s.dev.vd v.val).epoch } ∧ ∀ j, j ≠ k → d.set j = s.dev.set j) ∧
  (∀ (s : State) (v : VDev) (i : Nat) (bs : List Byte), Accepted s.dev v.val (adRow 0x0250 8) i bs →
    let k := fieldLe (headReq v.val i bs).args 0 2
    k < 1024 → fieldLe (headReq v.val i bs).args 3 1 = 0 → (s.dev.set k).valid = true → (s.dev.set k).vdev = v.val →
    ((s.dev.vd v.val).table.any fun y => y.res == 1 && y.pbase / 2 ^ 38 == k) = false →
    Gives (.defineSet v) s fun d => (d.vd v.val).epoch = nextEpoch (s.dev.vd v.val).epoch ∧
      d.set k = { s.dev.set k with
        valid := false
        members := []
        epoch := nextEpoch (s.dev.vd v.val).epoch } ∧ ∀ j, j ≠ k → d.set j = s.dev.set j) ∧
  (∀ (s : State) (v : VDev) (i : Nat) (bs : List Byte), Accepted s.dev v.val (adRow 0x0240 64) i bs →
    let b := (headReq v.val i bs).args.take 64
    let n := fieldLe b 4 2
    let sets := (List.range (fieldLe b 2 1)).map fun j => fieldLe b (0x10 + 2 * j) 2
    let p : Part := ⟨sets, [], 0, 0, 0, true, s.dev.hlcOf v.val, none, 0, none, 0⟩
    partFieldsOk b = true → bitAt (fieldLe b 1 1) 0 = false → Tab.get? (s.dev.vd v.val).parts (fieldLe b 0 1) = none →
    (sets.all fun k => (s.dev.set k).valid && (s.dev.set k).vdev == v.val) = true →
    n ≤ (resizeCores s.dev (s.dev.vd v.val) p n).length →
    Gives (.definePartition v) s fun d => ∃ y, Tab.get? (d.vd v.val).parts (fieldLe b 0 1) = some y ∧ y.sets = sets ∧ y.warming = true ∧
      y.wanted = n ∧ y.lcReserve = fieldLe b 6 2 ∧ (d.vd v.val).epoch = nextEpoch (s.dev.vd v.val).epoch) ∧
  (∀ (s : State) (v : VDev) (i : Nat) (bs : List Byte) (old : Part), Accepted s.dev v.val (adRow 0x0240 64) i bs →
    let r := headReq v.val i bs
    let b := r.args.take 64
    let x := s.dev.vd v.val
    let j := fieldLe b 0 1
    let sets := (List.range (fieldLe b 2 1)).map fun j => fieldLe b (0x10 + 2 * j) 2
    let cores := resizeCores s.dev x { old with sets := sets } (fieldLe b 4 2)
    let p : Part := { old with
      sets := sets
      wanted := fieldLe b 4 2
      lcReserve := fieldLe b 6 2
      sliceUs := fieldLe b 8 4
      cores := cores }
    partFieldsOk b = true → Tab.get? x.parts j = some old →
    (bitAt (fieldLe b 1 1) 0 = false → (sets.all fun k => (s.dev.set k).valid && (s.dev.set k).vdev == v.val) = true →
      fieldLe b 4 2 ≤ cores.length → exec (.definePartition v) s = .next (after s (finish r (.done stOk 0 [])
        ((work s).on fun d => publishChange v.val x [] false [] (d.onVd v.val fun x => { x with parts := Tab.put x.parts j p }))))) ∧
    (bitAt (fieldLe b 1 1) 0 = true → x.partQueues j = [] → exec (.definePartition v) s = .next (after s (finish r (.done stOk 0 [])
      ((work s).on fun d => publishChange v.val x [] false [] (d.onVd v.val fun x => { x with parts := Tab.del x.parts j })))))) ∧
  (∀ (s : State) (v : VDev) (i : Nat) (bs : List Byte) (p : Part), Accepted s.dev v.val (adRow 0x0242 3) i bs →
    let a := (headReq v.val i bs).args
    let n := fieldLe a 1 2
    let spans := (List.range n).map fun j => (fieldLe a (3 + 16 * j) 8, fieldLe a (11 + 16 * j) 8)
    fieldLe a 0 1 < 16 → 1 ≤ n → n ≤ 256 → 3 + 16 * n ≤ a.length → (spans.all fun x => decide (x.1 + x.2 ≤ 2 ^ 56)) = true →
    Tab.get? (s.dev.vd v.val).parts (fieldLe a 0 1) = some p → (p.warming = true ∨ s.dev.boot.early = true) →
    (spans.all fun x => spanIn (s.dev.vd v.val).table (fun _ => true) x.1 x.2) = true →
    Gives (.prefetch v) s fun d =>
      Tab.get? (d.vd v.val).parts (fieldLe a 0 1) = some { p with lastPrefetch := s.dev.hlcOf v.val } ∧
      ∀ x ∈ spans, ∀ k ∈ spanDies s.dev v.val x.1 x.2, (v.val, x.1, x.2) ∈ (d.die k).prefetch) ∧
  (∀ (s : State) (v : VDev) (i : Nat) (bs : List Byte) (p : Part), Accepted s.dev v.val (adRow 0x0243 1) i bs →
    let n := fieldLe (headReq v.val i bs).args 0 1
    n < 16 → Tab.get? (s.dev.vd v.val).parts n = some p →
    Gives (.endWarming v) s fun d => Tab.get? (d.vd v.val).parts n = some { p with warming := false } ∧
      ∀ j, j ≠ n → Tab.get? (d.vd v.val).parts j = Tab.get? (s.dev.vd v.val).parts j) ∧
  (∀ (s : State) (v : VDev) (n : PartId) (p : Part), Tab.get? (s.dev.vd v.val).parts n.val = some p → p.warming = true →
    Gives (.warmingTimeout v n) s fun d => Tab.get? (d.vd v.val).parts n.val = some { p with warming := false } ∧
      d.clk = (s.dev.advance (hubOf v.val) (p.lastPrefetch + usTicks 10000000)).clk) ∧
  (∀ (s : State) (v : VDev) (n : PartId), (∀ p, Tab.get? (s.dev.vd v.val).parts n.val = some p → p.warming = false) →
    exec (.warmingTimeout v n) s = .next s) ∧
  (∀ (s : State) (n : CoreId), (s.dev.core n.val).state = .testing → (s.dev.unit .core n.val).adminOut = false →
    coresIn s.dev (n.val / 68) .scrubbed = [] →
    Gives (.coreSelfTestDone n true) s fun d => (d.core n.val).state =
      (if 64 ≤ (serviceableIn s.dev (n.val / 68)).length then .spare else .serviceable)) ∧
  (∀ (s : State) (n : CoreId), (s.dev.core n.val).state = .testing → (s.dev.unit .core n.val).adminOut = false →
    let c := n.val / 68
    let e := admitCore n.val (endReturn .core n.val true (raiseSrc (2 + c) (n.val % 68) s.dev))
    Gives (.coreSelfTestDone n true) s fun d => d = announce s.dev
      (nextSpare c (((coresIn e c .scrubbed).take 1).foldl (fun d n => settleCore n d) e))) ∧
  (∀ (s : State) (n : CoreId), (s.dev.core n.val).state = .testing → (s.dev.unit .core n.val).adminOut = true →
    coresIn s.dev (n.val / 68) .scrubbed = [] →
    Gives (.coreSelfTestDone n true) s fun d => (d.core n.val).state = .retired ∧ (d.unit .core n.val).cause = 3) ∧
  (∀ (s : State) (n : CoreId), (s.dev.core n.val).state = .testing → s.dev.boundTo .core n.val = none →
    Gives (.coreSelfTestDone n false) s fun d => (d.core n.val).state = .retired ∧ (d.unit .core n.val).cause = 1) ∧
  (∀ (s : State) (n : CoreId) (v : Nat), (s.dev.core n.val).state = .testing → s.dev.boundTo .core n.val = some v →
    Gives (.coreSelfTestDone n false) s fun d => d = announce s.dev (settleCore n.val (setCause .core n.val 1
      ((endReturn .core n.val false (raiseSrc (2 + n.val / 68) (n.val % 68) s.dev)).onCore n.val fun k => { k with state := .scrubbed })))) ∧
  (∀ (s : State) (n : CoreId), (s.dev.core n.val).state = .returning →
    (Gives (.coreSelfTestDone n true) s fun d => (d.core n.val).state =
      (if 64 ≤ (serviceableIn s.dev (n.val / 68)).length then .spare else .serviceable)) ∧
    (Gives (.coreSelfTestDone n false) s fun d => (d.core n.val).state = .retired ∧ (d.unit .core n.val).cause = 1)) ∧
  (∀ (s : State) (n : CoreId) (pass : Bool), (s.dev.core n.val).state ≠ .testing → (s.dev.core n.val).state ≠ .returning →
    exec (.coreSelfTestDone n pass) s = .next s)

/-- R338 … R343, R228, R347: the sluice. An endpoint receives a map and acknowledges it; with the last acknowledgement the units
that the change released are published; an endpoint with old-epoch requests for a unit has not drained; a drained unit is
scrubbed and released; the bytes of a scrubbed channel read zero under key slot 0; a late drain is told of once. -/
def Obligations.SluiceCommands : Prop :=
  (∀ (s : State) (v : VDev) (e : Endp) (p : Publish) (rest : List Publish), s.dev.sched.publish = p :: rest → p.vdev = v.val →
    p.toSend.contains e = true → (p.copies.all fun c => (s.dev.chan c.1).copied) = true →
    Gives (.mapPublish v e) s fun d => d.sched.publish = { p with
      toSend := p.toSend.filter (· != e)
      toAck := p.toAck ++ [e] } :: rest) ∧
  (∀ (s : State) (v : VDev) (e : Endp) (p : Publish), s.dev.sched.publish = [p] → p.vdev = v.val → p.toSend = [] → p.toAck = [e] →
    Gives (.mapAck v e) s fun d => d.sched.publish = [] ∧
      ∀ u ∈ d.sched.leaving, u.vdev = v.val → u.epoch = p.epoch → u.published = true) ∧
  (∀ (s : State) (w : BitVec 32) (e : Endp) (k : UnitKind) (n : Nat), unitOf w.toNat = some (k, n) →
    (busyAt s.dev e k n = false → Gives (.drained w e) s fun d =>
      ∀ u ∈ d.sched.leaving, u.kind = k → u.num = n → u.published = true → e ∉ u.left) ∧
    (busyAt s.dev e k n = true → exec (.drained w e) s = .next s)) ∧
  (∀ (d : Dev) (e : Endp) (p : Publish), (∃ c, e = .cluster c) ∨ (∃ k, e = .mc k) →
    (installSets e p d).mc.views.filter (fun x => x.ep == e && x.vdev == p.vdev) = [⟨e, p.vdev, p.epoch, p.sets.getD (d.setsOf p.vdev)⟩]) ∧
  (∀ (s : State) (n : CoreId), (s.dev.sched.leaving.any fun u => u.kind == .core && u.num == n.val && u.published && !u.retiring) = true →
    exec (.rebindGraceExpiry n) s = .next (after s (abandonOn n.val true (work s)))) ∧
  (∀ (s : State) (n : CoreId), (s.dev.core n.val).state = .draining →
    exec (.coreRetireGraceExpiry n) s = .next (after s (abandonOn n.val false (work s)))) ∧
  (∀ (s : State) (n : CoreId),
    ((s.dev.sched.leaving.any fun u => u.kind == .core && u.num == n.val && u.published && !u.retiring) = false →
      exec (.rebindGraceExpiry n) s = .next s) ∧
    ((s.dev.core n.val).state ≠ .draining → exec (.coreRetireGraceExpiry n) s = .next s)) ∧
  (∀ (s : State) (w : BitVec 32) (n : Nat) (u : Leaving), unitOf w.toNat = some (.core, n) →
    s.dev.sched.leaving.find? (fun u => u.kind == .core && u.num == n) = some u → u.published = true → u.left = [] →
    unitBusy s.dev .core n = false → u.retiring = false →
    Gives (.sluiceScrubDone w) s fun d => d.sluiced .core n = false ∧ (d.core n).dirty = false ∧ (d.core n).zeroed = true ∧
      (d.core n).state = (s.dev.core n).state) ∧
  (∀ (s : State) (w : BitVec 32) (n : Nat) (u : Leaving), unitOf w.toNat = some (.chan, n) → s.mem.wf = true →
    s.dev.sched.leaving.find? (fun u => u.kind == .chan && u.num == n) = some u → u.published = true → u.left = [] →
    unitBusy s.dev .chan n = false → u.retiring = false →
    Completes (.sluiceScrubDone w) s fun t => t.dev.sluiced .chan n = false ∧
      (∀ a, n * chanBytes ≤ a → a < n * chanBytes + tenantBytes → t.mem.raw a = emptyByte ∧ t.mem.keyAt a = .slot0) ∧
      (∀ a, ¬ (n * chanBytes ≤ a ∧ a < n * chanBytes + tenantBytes) → t.mem.raw a = s.mem.raw a ∧ t.mem.keyAt a = s.mem.keyAt a)) ∧
  (∀ (s : State) (w : BitVec 32) (n : Nat) (u : Leaving), unitOf w.toNat = some (.port, n) →
    s.dev.sched.leaving.find? (fun u => u.kind == .port && u.num == n) = some u → u.published = true → u.left = [] →
    unitBusy s.dev .port n = false → u.retiring = false → (s.dev.port n).trained = true →
    Gives (.sluiceScrubDone w) s fun d => d.sluiced .port n = false ∧ (d.port n).state = 2 ∧ (d.port n).session = 0) ∧
  (∀ (s : State) (w : BitVec 32) (k : UnitKind) (n : Nat) (u : Leaving), unitOf w.toNat = some (k, n) →
    s.dev.sched.leaving.find? (fun u => u.kind == k && u.num == n) = some u →
    (u.published = false ∨ u.left ≠ [] ∨ unitBusy s.dev k n = true) → exec (.sluiceScrubDone w) s = .next s) ∧
  (∀ (s : State) (w : BitVec 32), unitOf w.toNat = none → exec (.sluiceScrubDone w) s = .next s ∧ exec (.sluiceOverdue w) s = .next s ∧
    ∀ e, exec (.drained w e) s = .next s) ∧
  (∀ (s : State) (w : BitVec 32) (k : UnitKind) (n : Nat) (u : Leaving), unitOf w.toNat = some (k, n) → s.dev.sched.leaving = [u] →
    u.kind = k → u.num = n → u.overdue = false → u.published = true → u.left ≠ [] →
    Gives (.sluiceOverdue w) s fun d => d.sched.leaving = [{ u with overdue := true }])

/-- R376, R377, R381 … R383: the states of a port. A signal or the retry timer starts training; with eight lanes, or four to
seven, it goes on to SECURING, with fewer it is DOWN; an authentic peer with a level brings it UP on eight lanes and DEGRADED on
fewer; any other peer leaves it DOWN, and a port with ADMIN OUT or a cause is out; what waits for a port leaves on one that is
live; a retrained port is live again or fails; before each multiple of 2^40 flits a new session key takes the next draw. The
lanes are those that locked at both ends. -/
def Obligations.PortCommands : Prop :=
  (∀ (s : State) (p : Port), s.dev.clk.powered = true → (s.dev.port p.val).state = 0 →
    Gives (.portSignalDetect p) s fun d => (d.port p.val).state = 1 ∧ (d.port p.val).active = 0 ∧ ∀ k, k ≠ p.val → d.port k = s.dev.port k) ∧
  (∀ (s : State) (p : Port), (s.dev.clk.powered = false ∨ (s.dev.port p.val).state ≠ 0) → exec (.portSignalDetect p) s = .next s) ∧
  (∀ (s : State) (p : Port), (s.dev.port p.val).state = 0 → (s.dev.port p.val).active = 0 → (s.dev.port p.val).failed ≠ 0 →
    Gives (.portTrainRetryTimer p) s fun d => (d.port p.val).state = 1 ∧ ∀ k, k ≠ p.val → d.port k = s.dev.port k) ∧
  (∀ (s : State) (p : Port), ((s.dev.port p.val).state ≠ 0 ∨ (s.dev.port p.val).active ≠ 0 ∨ (s.dev.port p.val).failed = 0) →
    exec (.portTrainRetryTimer p) s = .next s) ∧
  (∀ (s : State) (p : Port) (l : LaneLock), (s.dev.port p.val).state ≠ 1 → exec (.portTrainingDone p l) s = .next s) ∧
  (∀ (s : State) (p : Port) (l : LaneLock), (s.dev.port p.val).state = 1 →
    let k := linkLanes (l.here &&& l.peer)
    Gives (.portTrainingDone p l) s fun d =>
      (d.port p.val).failed = ~~~(l.here &&& l.peer) ∧
      (k.length < 4 → (d.port p.val).state = 0) ∧
      (4 ≤ k.length → s.dev.boot.active = true → (d.port p.val).state = 2) ∧
      (8 ≤ k.length → (d.port p.val).active = laneSet (k.take 8) ∧ (d.port p.val).reserve = laneSet (k.drop 8)) ∧
      (4 ≤ k.length → k.length < 8 → (d.port p.val).active = laneSet (k.take 4))) ∧
  (∀ (s : State) (p : Port) (ok : Bool) (acl : BitVec 16) (port : BitVec 4) (pkg : BitVec 32),
    exec (.portSessionDone p ok acl port pkg) s = .next (after s (flushDue ((work s).on fun d => announce d (doSession p.val ok acl port pkg d))))) ∧
  (∀ (s : State) (p : Port) (ok : Bool) (acl : BitVec 16) (port : BitVec 4) (pkg : BitVec 32), s.dev.fab.exchanges = [] → s.dev.fx.remote = [] →
    Gives (.portSessionDone p ok acl port pkg) s fun d => d = announce s.dev (doSession p.val ok acl port pkg s.dev)) ∧
  (∀ (d : Dev) (p : Nat) (acl : BitVec 16) (port : BitVec 4) (pkg : BitVec 32), (d.port p).state = 2 → d.fw.state = 2 →
    d.secUp = true → acl ≠ 0 →
    let e := doSession p true acl port pkg d
    ((d.unit .port p).adminOut = false → ((d.unit .port p).cause = 0 ∨ (d.unit .port p).returning = true) →
      (e.port p).state = (d.port p).liveState ∧ (e.port p).peerPort = port ∧ (e.port p).peerPkg = pkg ∧
      ((d.port p).session = 0 → (e.port p).tx = 0 ∧ (e.port p).rx = 0) ∧
      ((d.port p).session ≠ 0 → (e.port p).tx = (d.port p).tx ∧ (e.port p).rx = (d.port p).rx) ∧
      .session p d.draws d.fab.pkgId.toNat ∈ e.out) ∧
    ((d.unit .port p).adminOut = true → (e.port p).state = 6 ∧ (e.unit .port p).cause = 3) ∧
    ((d.unit .port p).adminOut = false → (d.unit .port p).cause ≠ 0 → (d.unit .port p).returning = false → (e.port p).state = 6)) ∧
  (∀ (d : Dev) (p : Nat) (ok : Bool) (acl : BitVec 16) (port : BitVec 4) (pkg : BitVec 32),
    ((d.port p).state ≠ 2 ∨ d.fw.state ≠ 2 ∨ d.secUp = false) → doSession p ok acl port pkg d = d) ∧
  (∀ (d : Dev) (p : Nat) (ok : Bool) (acl : BitVec 16) (port : BitVec 4) (pkg : BitVec 32), (d.port p).state = 2 →
    d.fw.state = 2 → d.secUp = true → ok = false ∨ acl = 0 →
    ((doSession p ok acl port pkg d).port p).state = 0 ∧ (0x0A, BitVec.ofNat 16 p) ∈ (doSession p ok acl port pkg d).sec.raised) ∧
  (∀ (s : State) (p : Port) (ok : Bool) (l : LaneLock),
    exec (.portRetrainDone p ok l) s = .next (after s (flushDue (doRetrainDone p.val ok l (work s))))) ∧
  (∀ (w : Wk) (p : Nat) (ok : Bool) (l : LaneLock),
    let x := w.dev.port p
    ((w.dev.port p).state = 5 → 4 ≤ (linkLanes (l.here &&& l.peer)).length → ∃ d, doRetrainDone p true l w = w.on (fun _ => d) ∧
      (d.port p).state = (if x.session = 0 then 2 else (chooseLanes (l.here &&& l.peer) x).liveState) ∧
      (d.port p).tx = x.tx ∧ (d.port p).acked = x.acked ∧ (x.tx ≠ x.acked → .resend p x.acked (x.tx - x.acked).toNat ∈ d.out)) ∧
    ((w.dev.port p).state = 5 → (ok = false ∨ (linkLanes (l.here &&& l.peer)).length < 4) → doRetrainDone p ok l w = failPort p w) ∧
    ((w.dev.port p).state ≠ 5 → doRetrainDone p ok l w = w)) ∧
  (∀ (s : State) (p : Port), ((s.dev.port p.val).trained = false ∨ s.dev.secUp = false ∨
    (s.dev.port p.val).tx.toNat / 2 ^ 40 < (s.dev.port p.val).span) → exec (.sessionRekey p) s = .next s) ∧
  (∀ (s : State) (p : Port), (s.dev.port p.val).trained = true → s.dev.secUp = true →
    (s.dev.port p.val).span ≤ (s.dev.port p.val).tx.toNat / 2 ^ 40 →
    Gives (.sessionRekey p) s fun d => (d.port p.val).session = s.dev.draws + 1 ∧ d.draws = s.dev.draws + 1 ∧
      (d.port p.val).span = (s.dev.port p.val).span + 1 ∧ (d.port p.val).keys = (s.dev.port p.val).keys ++ [((s.dev.port p.val).rx, s.dev.draws)] ∧
      d.out = s.dev.out ++ [.session p.val s.dev.draws s.dev.fab.pkgId.toNat] ∧
      ((s.dev.port p.val).waiting = 0 → (d.port p.val).tx = (s.dev.port p.val).tx))

/-- R378, R380, R383 … R386: lanes and flits. A failed active lane is replaced by the lowest reserve lane, or the port goes on
with four, and retrains below that; the switch waits for the flit named; an authentic flit in sequence is accepted, and its
payload joins the segment of its stream, which the last flit delivers; nothing else moves the receive count; a flit out of
sequence, uncorrectable or not authentic is discarded and asked for again; the transmitter resends from the flit named. -/
def Obligations.LaneAndFlitCommands : Prop :=
  (∀ (x : PortSt) (lane : Nat), let good := (linkLanes x.active).filter (· != lane)
    (bitAt x.active.toNat lane = false → (x.dropLane lane).active = x.active) ∧
    (bitAt x.active.toNat lane = true →
      (∀ r rest, linkLanes x.reserve = r :: rest → (x.dropLane lane).active = laneSet (r :: good) ∧ (x.dropLane lane).reserve = laneSet rest) ∧
      (linkLanes x.reserve = [] → 4 ≤ good.length → (x.dropLane lane).active = laneSet (good.take 4)) ∧
      (linkLanes x.reserve = [] → good.length < 4 → (x.dropLane lane).active = laneSet [])) ∧
    (x.dropLane lane).failed = laneSet (lane :: linkLanes x.failed)) ∧
  (∀ (w : Wk) (p lane : Nat), let x := w.dev.port p
    let y := x.dropLane lane
    ((x.trained || x.state == 2) = false ∨ bitAt x.failed.toNat lane = true → dropLane p lane w = w) ∧
    ((x.trained || x.state == 2) = true → bitAt x.failed.toNat lane = false →
      (y.width = 0 → dropLane p lane w = retrain p (w.on fun d => d.onPort p fun _ => y)) ∧
      (y.width ≠ 0 → ∃ d, dropLane p lane w = w.on (fun _ => d) ∧ d.port p = { y with state := if x.trained then y.liveState else x.state }))) ∧
  (∀ (s : State) (p : Port) (lane : Fin 10), let x := s.dev.port p.val
    let w := dropLane p.val lane.val (work s)
    exec (.laneFail p lane) s = .next (after s
      (if (x.trained || x.state == 2) && bitAt x.active.toNat lane.val then w.on fun d => d.emit (.laneSwitch p.val lane.val x.rx) else w))) ∧
  (∀ (s : State) (p : Port) (lane : Fin 10) (q : BitVec 32), let x := s.dev.port p.val
    let a := extendSeq x.acked q.toNat
    let put (l : List (Nat × BitVec 64)) : Wk := (work s).on fun d => d.onPort p.val fun x => { x with switchAt := l }
    x.switchAt = [] →
    ((a - x.acked).toNat ≤ (x.tx - x.acked).toNat → exec (.laneSwitch p lane q) s = .next (after s (dropLane p.val lane.val (put [])))) ∧
    ((x.tx - x.acked).toNat < (a - x.acked).toNat → exec (.laneSwitch p lane q) s = .next (after s (put [(lane.val, a)])))) ∧
  (∀ (s : State) (p : Port) (lane : Fin 10) (q : BitVec 32), exec (.laneSwitch p lane q) s = .next (after s (settleLanes p.val
    ((work s).on fun d => d.onPort p.val fun x => { x with switchAt := x.switchAt ++ [(lane.val, extendSeq x.acked q.toNat)] })))) ∧
  (∀ (s : State) (p : Port) (hdr : BitVec 128) (fec : Bool) (b : FlitBody) (ls : List Nat),
    (s.dev.port p.val).trained = false → (s.dev.port p.val).switchAt = [] →
    ((s.dev.port p.val).state ≠ 2 → exec (.flitMgmt p hdr fec ⟨b, ls⟩) s = .next s) ∧
    Gives (.flitData p hdr fec b ls) s fun d => (∀ k, d.port k = s.dev.port k) ∧ { d with fab := s.dev.fab } = s.dev) ∧
  (∀ (s : State) (p : Port) (i : Instr) (k : Nat) (hdr : BitVec 128) (b : FlitBody) (ls : List Nat),
    (k = 1 ∧ (i = .flitData p hdr true b ls ∨ (i = .flitData p hdr false b ls ∧ (s.dev.port p.val).authentic hdr b = false))) ∨
      (k = 2 ∧ (i = .flitMgmt p hdr true ⟨b, ls⟩ ∨ (i = .flitMgmt p hdr false ⟨b, ls⟩ ∧ (s.dev.port p.val).authentic hdr b = false))) →
    (s.dev.port p.val).trained = true → (s.dev.port p.val).switchAt = [] → flitKind hdr = k →
    Gives i s fun d => (d.port p.val).rx = (s.dev.port p.val).rx ∧ (d.port p.val).acked = (s.dev.port p.val).acked ∧
      (d.port p.val).streams = (s.dev.port p.val).streams ∧ (d.port p.val).hunting = true) ∧
  (∀ (s : State) (p : Port) (i : Instr) (k : Nat) (hdr : BitVec 128) (b : FlitBody) (ls : List Nat),
    (k = 1 ∧ i = .flitData p hdr false b ls ∧ bitAt hdr.toNat 71 = false) ∨ (k = 2 ∧ i = .flitMgmt p hdr false ⟨b, ls⟩) →
    (s.dev.port p.val).trained = true → (s.dev.port p.val).switchAt = [] → (s.dev.port p.val).authentic hdr b = true → flitKind hdr = k →
    Gives i s fun d =>
      (flitSeq hdr = (s.dev.port p.val).rx.toNat % 2 ^ 32 → (d.port p.val).rx = (s.dev.port p.val).rx + 1 ∧ (d.port p.val).hunting = false ∧
        d.out = s.dev.out ∧ (k = 1 → Tab.getD (d.port p.val).streams (flitStream hdr) [] =
          (if bitAt hdr.toNat 70 then [] else Tab.getD (s.dev.port p.val).streams (flitStream hdr) []) ++ (s.dev.port p.val).payload hdr b)) ∧
      (flitSeq hdr ≠ (s.dev.port p.val).rx.toNat % 2 ^ 32 → (d.port p.val).rx = (s.dev.port p.val).rx ∧ (d.port p.val).hunting = true ∧
        ((s.dev.port p.val).hunting = false → d.out = s.dev.out ++ [.retryReq p.val (s.dev.port p.val).rx]))) ∧
  (∀ (s : State) (p : Port) (hdr : BitVec 128) (fec : Bool) (b : FlitBody) (ls : List Nat),
    let r := doFlit p.val 1 hdr fec b ls s.dev
    let w := settleLanes p.val ((work s).on fun _ => r.1)
    (r.2 = none → exec (.flitData p hdr fec b ls) s = .next (after s w)) ∧
    (∀ bs, r.2 = some bs → let h := BitVec.ofNat 256 (fieldLe bs 0 32)
      exec (.flitData p hdr fec b ls) s = .next (after s (doSegment p.val h (sliceB bs 32 (min (bits h.toNat 187 156) (bs.length - 32))) w)))) ∧
  (∀ (d : Dev) (p : Nat) (hdr : BitVec 128) (b : FlitBody), (d.port p).trained = true → flitKind hdr = 1 → (d.port p).authentic hdr b = true →
    flitSeq hdr = (d.port p).rx.toNat % 2 ^ 32 → bitAt hdr.toNat 71 = true →
    (doFlit p 1 hdr false b [] d).2 = some ((if bitAt hdr.toNat 70 then [] else Tab.getD (d.port p).streams (flitStream hdr) []) ++
      (d.port p).payload hdr b)) ∧
  (∀ (s : State) (p : Port) (q : BitVec 32), (s.dev.port p.val).trained = true → (s.dev.port p.val).resends = 0 →
    let x := s.dev.port p.val
    let a := extendSeq x.acked q.toNat
    (a - x.acked).toNat < (x.tx - x.acked).toNat →
    Gives (.retryReq p q) s fun d => (d.port p.val).acked = a ∧ (d.port p.val).tx = x.tx ∧
      d.out = s.dev.out ++ [.resend p.val a (x.tx - a).toNat]) ∧
  (∀ (s : State) (p : Port) (q : BitVec 32), let x := s.dev.port p.val
    let a := extendSeq x.acked q.toNat
    (((x.trained = false ∧ x.state ≠ 2) ∨ (x.tx - x.acked).toNat ≤ (a - x.acked).toNat) → exec (.retryReq p q) s = .next s) ∧
    (x.trained = true → (a - x.acked).toNat < (x.tx - x.acked).toNat → a = x.acked → 4 ≤ x.resends →
      exec (.retryReq p q) s = .next (after s (retrain p.val (work s)))))

/-- R133, R134, R388 … R392, R425, R427: groups and collectives. A group is joined and left; with the inputs of all P
participants here, every participant on this device writes its outputs, once its messages have left; a phase leaves its record
before the message of the next is owed; a message leaves on a port that reaches its package, and waits for one; a peer's failure
is remembered, told on once and fails every open participant with 0x0011; a restart abandons every running attempt; a resume
sends again what is kept. R197 … R200, R386, R387, R394, R311: messages of the reedbed and of other packages. Fragments and full
words are kept by index and ordinal; management payloads reach their endpoint; a good packet is accepted, a bad one asked for
again until its link is retired; a failed router retires its links; a segment on a live port is framed again; a proxy whose home
cannot be reached fails locally; an engine that receives an abort acts and acknowledges. -/
def Obligations.CollectivesAndMessages : Prop :=
  (∀ (s : State) (v : VDev) (i : Nat) (bs : List Byte), Accepted s.dev v.val (adRow 0x0260 24) i bs →
    let a := (headReq v.val i bs).args
    let g : Group := ⟨BitVec.ofNat 32 (fieldLe a 0 4), fieldLe a 4 2, fieldLe a 6 2, BitVec.ofNat 64 (fieldLe a 8 8),
      [BitVec.ofNat 32 (fieldLe a 16 4), BitVec.ofNat 32 (fieldLe a 20 4)]⟩
    1 ≤ g.size → g.size ≤ 4096 → g.rank < g.size → ((g.nbrs.filter (· != 0)).all fun n => (s.dev.portTo v.val n.toNat).isSome) = true →
    (s.dev.vd v.val).group? g.id.toNat = none → (s.dev.vd v.val).groups.length < 64 →
    Gives (.joinGroup v) s fun d => (d.vd v.val).groups = (s.dev.vd v.val).groups ++ [g] ∧ d.fab = s.dev.fab) ∧
  (∀ (s : State) (v : VDev) (i : Nat) (bs : List Byte) (y : Group), Accepted s.dev v.val (adRow 0x0261 4) i bs →
    let g := fieldLe (headReq v.val i bs).args 0 4
    (s.dev.vd v.val).group? g = some y →
    Gives (.leaveGroup v) s fun d => (d.vd v.val).group? g = none ∧
      (d.vd v.val).groups = (s.dev.vd v.val).groups.filter fun y => y.id.toNat != g) ∧
  (∀ (s : State) (v : VDev) (q : QId) (rs : List RemotePart) (i : Instr) (k : OpK) (x : Queue) (c : Cmd),
    (i, k) ∈ [(.allReduce v (.good q) rs, OpK.allReduce), (.reduceScatter v (.good q) rs, .reduceScatter), (.allGather v (.good q) rs, .allGather),
      (.allToAll v (.good q) rs, .allToAll), (.broadcast v (.good q) rs, .broadcast)] →
    runningOp s.dev v.val q.val k = some (x, c) →
    ((s.dev.groupPorts v.val c.group).any fun p => s.dev.dredgeBars (fun e => match e with | .lx y => y.val == p | _ => false) c.no) = false →
    let me : Member := ⟨v.val, q.val, x, c⟩
    let all := s.dev.running c.group c.opSeq
    let twin (m : Member) : Bool := m.c.rank == c.rank && m.c.no != c.no && (decide (m.c.no < c.no) || m.c.phase != .running)
    let opened := (s.dev.fab.exchanges.any fun e => e.cmd == c.no) || (s.dev.phaseOf v.val c).isSome
    let ms := all.filter fun m => !(all.any fun o => o.c.rank == m.c.rank && decide (o.c.no < m.c.no))
    let parts := carriedParts k me (ms.map fun m => m.c.rank) rs (work s)
    let t := c.block.inp 0
    let far := parts.map fun r => (r.rank, remoteData t r.data)
    (s.dev.fab.refused.contains (c.group, c.opSeq) = true → exec i s = .next (after s (refuseMember me (work s)))) ∧
    (s.dev.fab.refused.contains (c.group, c.opSeq) = false →
      (s.dev.fab.failed.contains (c.group, c.opSeq) = true →
        exec i s = .next (after s (failCmd v.val q.val 0x11 Detail.none (work s)))) ∧
      (s.dev.fab.failed.contains (c.group, c.opSeq) = false →
        ((s.dev.members c.group c.opSeq Cmd.inExchange).any twin = true ∨ (opened = false ∧ (rs.any fun r => r.rank == c.rank) = true) →
          exec i s = .next (after s (refuseMember me (work s)))) ∧
        ((s.dev.members c.group c.opSeq Cmd.inExchange).any twin = false → opened = true ∨ (rs.any fun r => r.rank == c.rank) = false →
          ((∃ m ∈ ms, m.terms s.dev ≠ me.terms s.dev) ∨ (∃ r ∈ parts, r.same = false) →
            exec i s = .next (after s (refuseAll c.group c.opSeq ms (work s)))) ∧
          (∀ m e, (∀ m ∈ ms, m.terms s.dev = me.terms s.dev) → (∀ r ∈ parts, r.same = true) → memberData (work s) ms = .error (m, e) →
            exec i s = .next (after s (stallCmd m.c.mover m.v m.q m.x m.c 1 e (work s)))) ∧
          ∀ mine, (∀ m ∈ ms, m.terms s.dev = me.terms s.dev) → (∀ r ∈ parts, r.same = true) → memberData (work s) ms = .ok mine →
            ((∃ e ∈ far, e.2 = none) → exec i s = .next (after s (replayCmd v.val q.val [] (work s)))) ∧
            ((∀ e ∈ far, e.2 ≠ none) →
              let data := mine ++ far.filterMap fun e => e.2.map fun y => (e.1, y)
              let xs := (List.range c.participants).filterMap fun i => (data.find? fun e => e.1 == i).map Prod.snd
              let own (m : Member) : Data := ((mine.find? fun e => e.1 == m.c.rank).map Prod.snd).getD ⟨[], t.fmt, []⟩
              let w := flushDue (ms.foldl (fun w m => if m.c.no = c.no ∨ c.participants ≤ xs.length
                then commitPhases k m (own m) xs parts (openExchange k m (own m) w) else w) (work s))
              let owed := w.dev.fab.exchanges.any fun e => (ms.any fun m => m.c.no == e.cmd) && !e.due.isEmpty
              (xs.length < c.participants ∨ owed = true → exec i s = .next (after s w)) ∧
              (c.participants ≤ xs.length → owed = false →
                (∀ m e, memberBlocked k xs w ms = some (m, e) → exec i s = .next (after s (stallCmd m.c.mover m.v m.q m.x m.c 2 e w))) ∧
                (memberBlocked k xs w ms = none → exec i s = .next (after s (writeMembers k xs ms w))))))))) ∧
  (∀ (s : State) (v : VDev) (q : QId) (rs : List RemotePart) (i : Instr) (k : OpK) (x : Queue) (c : Cmd),
    (i, k) ∈ [(.allReduce v (.good q) rs, OpK.allReduce), (.reduceScatter v (.good q) rs, .reduceScatter), (.allGather v (.good q) rs, .allGather),
      (.allToAll v (.good q) rs, .allToAll), (.broadcast v (.good q) rs, .broadcast)] →
    runningOp s.dev v.val q.val k = some (x, c) →
    ((s.dev.groupPorts v.val c.group).any fun p => s.dev.dredgeBars (fun e => match e with | .lx y => y.val == p | _ => false) c.no) = true →
    exec i s = .next s) ∧
  (∀ (k : OpK) (m : Member) (own : Data) (xs : List Data) (parts : List RemotePart) (w : Wk),
    let r := (w.dev.phaseOf m.v m.c).getD (newRecord k m w.dev)
    let till := if m.c.participants ≤ xs.length then r.phases else max r.phase (min (xs.length - 1) r.phases)
    (till ≤ r.phase → commitPhases k m own xs parts w = w) ∧
    (r.phase < till → ∃ y, (commitPhases k m own xs parts w).dev.phaseOf m.v m.c = some y ∧ y.phase = till ∧ y.carried = parts ∧
      y.digest = carriedDigest parts)) ∧
  (∀ (s : State) (g : BitVec 32) (seq : BitVec 64), s.dev.fab.failed.contains (g.toNat, seq) = false → s.dev.members g.toNat seq Cmd.open_ = [] →
    Gives (.peerFailure g seq) s fun d => (g.toNat, seq) ∈ d.fab.failed ∧ d.vds = s.dev.vds) ∧
  (∀ (s : State) (g : BitVec 32) (seq : BitVec 64),
    let ports := ((s.dev.joined g.toNat).flatMap fun v => s.dev.groupPorts v g.toNat).eraseDups
    let w := (work s).on fun d => failExchange g.toNat seq (ports.foldl (fun d p => raiseSrc (portHub p) (0x141 + p) d) d)
    exec (.peerFailure g seq) s = .next (after s ((w.dev.members g.toNat seq Cmd.open_).foldl
      (fun w m => failCmd m.v m.q 0x11 Detail.none w) w))) ∧
  (∀ (d : Dev) (g : Nat) (seq : BitVec 64),
    (d.fab.failed.contains (g, seq) = true → failExchange g seq d = d) ∧
    (d.fab.failed.contains (g, seq) = false → (g, seq) ∈ (failExchange g seq d).fab.failed ∧
      ∀ v ∈ d.joined g, ∀ p ∈ d.groupPorts v g, .peerFailure p g seq ∈ (failExchange g seq d).out)) ∧
  (∀ (s : State) (g : BitVec 32) (seq : BitVec 64), s.dev.running g.toNat seq = [] → exec (.restart g seq) s = .next s) ∧
  (∀ (s : State) (g : BitVec 32) (seq : BitVec 64), s.dev.running g.toNat seq ≠ [] →
    exec (.restart g seq) s = .next (after s ((s.dev.running g.toNat seq).foldl (fun w m => abandonCmd m.v m.q w)
      (freeRecords (fun r => r.kind == 1 && r.group.toNat == g.toNat && r.seq == seq) ((work s).on fun d =>
        (d.joined g.toNat).foldl (fun d v => (d.groupPorts v g.toNat).foldl
          (fun d p => (d.onPort p fun x => x.send 1).emit (.restart p g.toNat seq)) d) d))))) ∧
  (∀ (s : State) (g : BitVec 32) (seq : BitVec 64) (j : Nat) (e : Exchange), s.dev.fab.exchanges = [e] →
    ((e.group = g.toNat ∧ e.seq = seq ∧ (e.sent.any fun s => s.1 == j) = true) →
      exec (.resume g seq j) s = .next (after s (flushDue ((work s).on fun d => d.onExchange e.cmd fun e =>
        { e with due := (e.due.filter fun x => x.2 != j) ++ (s.dev.neighbours e.vdev g.toNat).map fun n => (n, j) })))) ∧
    (e.group ≠ g.toNat ∨ e.seq ≠ seq ∨ (e.sent.any fun s => s.1 == j) = false →
      exec (.resume g seq j) s = .next (after s (flushDue (work s))))) ∧
  (∀ (w : Wk) (e : Exchange) (p pkg j : Nat) (data : PartData), e.due = [(pkg, j)] → e.sent = [(j, data)] →
    (w.dev.portTo e.vdev pkg = none → (flushExchange e w).dev.out = w.dev.out) ∧
    (w.dev.portTo e.vdev pkg = some p → flushExchange e w = sendPart p pkg e j data
      (w.on fun d => d.onExchange e.cmd fun e => { e with
        due := []
        ports := (e.ports ++ (if h : p < 16 then [(⟨p, h⟩ : Port)] else [])).eraseDups }))) ∧
  (∀ (s : State) (ep src : BitVec 12) (m : BitVec 16) (first : Nat) (fs : List (BitVec 256)),
    let y := fs.zipIdx.foldl (fun (y : FragMsg) f => { y with frags := Tab.put y.frags (first + f.2) f.1 }) (s.dev.net.msg ep src m)
    ((fs.length = 0 ∨ 4 < fs.length) → exec (.fragments ep src m first fs) s = .next s) ∧
    (fs.length ≠ 0 → fs.length ≤ 4 → (∃ f ∈ fs, fragDecode f = .corrupt) →
      exec (.fragments ep src m first fs) s = .next (after s (replayEndpoint ep.toNat (work s)))) ∧
    (fs.length ≠ 0 → fs.length ≤ 4 → (∀ f ∈ fs, fragDecode f ≠ .corrupt) →
      exec (.fragments ep src m first fs) s = .next (after s
        (settleMsg y ((work s).on fun d => { d with net := d.net.setMsg y }))))) ∧
  (∀ (s : State) (ep src : BitVec 12) (m : BitVec 16) (first : Nat) (f : BitVec 256), fragDecode f ≠ .corrupt → s.dev.msgFor ep.toNat = none →
    Gives (.fragments ep src m first [f]) s fun d => Tab.get? (d.net.msg ep src m).frags first = some f ∧ d.vds = s.dev.vds) ∧
  (∀ (s : State) (ep src : BitVec 12) (m : BitVec 16) (n : Nat) (x : BitVec 768),
    let y := s.dev.net.msg ep src m
    let z : FragMsg := { y with words := Tab.put y.words n x }
    exec (.fullWord ep src m n x) s = .next (after s (settleMsg z ((work s).on fun d => { d with net := d.net.setMsg z })))) ∧
  (∀ (s : State) (ep src : BitVec 12) (m : BitVec 16) (n : Nat) (x : BitVec 768), s.dev.msgFor ep.toNat = none →
    Gives (.fullWord ep src m n x) s fun d => Tab.get? (d.net.msg ep src m).words n = some x ∧
      (d.net.msg ep src m).frags = (s.dev.net.msg ep src m).frags ∧ d.vds = s.dev.vds) ∧
  (∀ (y : FragMsg) (w : Wk) (c : Cmd) (n : Nat), w.dev.msgFor y.ep.toNat = some (c, n) → y.corrupt n = false → y.complete n = true →
    let z := settleMsg y w
    (⟨c.no, y.src, y.msg, (y.wordsOf n).map fun p => BitVec.ofNat 768 (leNat (peatBytes p))⟩ : WholeMsg) ∈ z.dev.net.sums ∧
    ∀ k ∈ z.dev.net.msgs, ¬ (k.ep = y.ep ∧ k.src = y.src ∧ k.msg = y.msg)) ∧
  (∀ (y : FragMsg) (w : Wk) (c : Cmd) (n : Nat), w.dev.msgFor y.ep.toNat = some (c, n) → y.corrupt n = false → y.complete n = false →
    settleMsg y w = w) ∧
  (∀ (s : State) (dest src : BitVec 12) (bs : List Byte),
    Gives (.mgmt dest src bs) s fun d => d.net.mgmt = s.dev.net.mgmt ++ [(dest, src, bs)] ∧ { d with net := s.dev.net } = s.dev) ∧
  (∀ (s : State) (h : Hop) (p : Packet) (bad : Bool),
    (s.dev.net.retired.contains h.1 = true ∨ s.dev.net.carried h p.hdr p.payload = none) → exec (.packetReceive h p bad) s = .next s) ∧
  (∀ (s : State) (h : Hop) (p : Packet) (f : Flight), s.dev.net.retired.contains h.1 = false → s.dev.net.carried h p.hdr p.payload = some f →
    let came := if s.dev.net.enters h then s.dev.net.injected p.hdr else s.dev.net
    let net := came.onLink h fun o => o.passed f
    let w := (work s).on fun d => ({ d with net := net } : Dev).emit (.linkAck h (net.link h).accepted)
    exec (.packetReceive h p false) s = .next (after s (match f.route.tail with
      | [] => deliverPacket p.hdr p.payload w
      | rest => w.on fun d => { d with net := d.net.enqueue { f with route := rest } }))) ∧
  (∀ (s : State) (h : Hop) (p : Packet) (f : Flight), s.dev.net.retired.contains h.1 = false → s.dev.net.carried h p.hdr p.payload = some f →
    let came := if s.dev.net.enters h then s.dev.net.injected p.hdr else s.dev.net
    let now := s.dev.hlc (linkHub h.1)
    let e : Dev := { s.dev with net := came.onLink h fun o => o.failed f now }
    let recent (a : Bool) : Nat := ((e.net.link (h.1, a)).errors.filter fun t => within now t 1000).length
    let tries := ((e.net.link h).retry.map Prod.snd).getD 0
    Gives (.packetReceive h p true) s fun d =>
      d = if 4 ≤ tries ∨ 8 ≤ recent true + recent false then retireLink h.1 e else e.emit (.linkResend h)) ∧
  (∀ (s : State) (r : Fin 212), s.dev.net.dead.contains r.val = true → exec (.routerFail r) s = .next s) ∧
  (∀ (s : State) (r : Fin 212), s.dev.net.dead.contains r.val = false →
    Gives (.routerFail r) s fun d => r.val ∈ d.net.dead ∧ ∀ l ∈ routerLinks r.val, l ∈ d.net.retired) ∧
  (∀ (s : State) (p : Port) (hdr : BitVec 256) (bs : List Byte), (s.dev.port p.val).trained = true → bits hdr.toNat 187 156 = bs.length →
    bs.length ≤ 65536 → bits hdr.toNat 255 252 = 11 →
    Gives (.fabricSegment p hdr bs) s fun d => d.net.mgmt = s.dev.net.mgmt ++
      [(BitVec.ofNat 12 (bits hdr.toNat 251 240), BitVec.ofNat 12 (bits hdr.toNat 239 228), bs)]) ∧
  (∀ (s : State) (p : Port) (hdr : BitVec 256) (bs : List Byte), (s.dev.port p.val).trained = true → bits hdr.toNat 187 156 = bs.length →
    bs.length ≤ 65536 →
    let dest := BitVec.ofNat 12 (bits hdr.toNat 251 240)
    let src := BitVec.ofNat 12 (bits hdr.toNat 239 228)
    let vdev := bits hdr.toNat 227 220
    let msg := bits (bits hdr.toNat 47 0) 47 32
    let first := bits (bits hdr.toNat 47 0) 31 0
    (bits hdr.toNat 255 252 = 8 → bs.length % 32 = 0 → bs.length / 32 ≤ 2047 → Gives (.fabricSegment p hdr bs) s fun d =>
      d = reframe p.val dest src vdev (BitVec.ofNat 16 msg) first (segFragments bs) s.dev) ∧
    (bits hdr.toNat 255 252 = 9 → bs.length = 96 → Gives (.fabricSegment p hdr bs) s fun d =>
      let r := relayId p.val src (BitVec.ofNat 16 msg) s.dev
      let k := wordPacket dest (BitVec.ofNat 12 (0xB00 + p.val)) vdev r.1.toNat first (BitVec.ofNat 768 (leNat bs))
      d = { r.2 with net := r.2.net.send k.1 k.2 }) ∧
    (bits hdr.toNat 255 252 = 10 → exec (.fabricSegment p hdr bs) s = .next (after s
      (controlSegment p.val vdev (bits hdr.toNat 219 188) (BitVec.ofNat 64 (bits hdr.toNat 123 60)) bs (work s))))) ∧
  (∀ (s : State) (p : Port) (hdr : BitVec 256) (bs : List Byte),
    ((s.dev.port p.val).trained = false ∨ bits hdr.toNat 187 156 ≠ bs.length ∨ 65536 < bs.length) →
    exec (.fabricSegment p hdr bs) s = .next s) ∧
  (∀ (s : State) (v : VDev) (i : BitVec 16) (pv ps : Nat), ((s.dev.vd v.val).slot i.toNat).ref = .proxy pv ps →
    ((s.dev.vd v.val).slot i.toNat).inUse = true → s.dev.portTo v.val ((s.dev.vd v.val).slot i.toNat).pkg = none →
    s.dev.proxyFailed pv ps = false →
    Gives (.fenceProxyTimeout v i) s fun d => d.proxyFailed pv ps = true ∧ ∀ r ∈ d.fx.remote, ¬ (r.vdev = pv ∧ r.slot = ps)) ∧
  (∀ (s : State) (v : VDev) (q : QId) (e : Engine) (c : Cmd), s.dev.cur? v.val q.val = some c → c.aborts.contains e = true →
    Gives (.abort v q e) s fun d => d = engineAbort e c (s.dev.onCur v.val q.val fun c => { c with
        aborts := c.aborts.filter (· != e)
        abortAcks := c.abortAcks ++ [e] }) ∧
      d.cur? v.val q.val = some { c with
        aborts := c.aborts.filter (· != e)
        abortAcks := c.abortAcks ++ [e] }) ∧
  (∀ (s : State) (v : VDev) (q : QId) (e : Engine), (∀ c, s.dev.cur? v.val q.val = some c → c.aborts.contains e = false) →
    exec (.abort v q e) s = .next s)

/-- R138, R146, R147, R163, R414: an instruction of a group issues where its group runs. A parity error that one of its reads
meets abandons the attempt and replays the command; with no such group on the core, or with none of its threads free to issue,
nothing happens; and none of these instructions changes the queue or ends in a fault. -/
def Obligations.GroupInstructionsIssue : Prop :=
  (∀ (s : State) (i : Instr) (n : CoreId) (m : CoreMem) (g : Nat) (k : BitVec 32) (a : KAt), groupInstr i = some (⟨n, some m⟩, g, k) →
    (∀ va f, m ≠ .line va f) → s.dev.at? n.val g = some a → exec i s = .next (after s (coreError a m (work s)))) ∧
  (∀ (s : State) (i : Instr) (n : CoreId) (va : Nat) (f : ReadFault) (g : Nat) (k : BitVec 32),
    groupInstr i = some (⟨n, some (.line va f)⟩, g, k) → exec i s = exec (readsGood i) s) ∧
  (∀ (s : State) (i : Instr) (n : CoreAt) (g : Nat) (k : BitVec 32), groupInstr i = some (n, g, k) → s.dev.at? n.core.val g = none →
    exec i s = .next s) ∧
  (∀ (s : State) (i : Instr) (n : CoreId) (g : Nat) (k : BitVec 32) (a : KAt), groupInstr i = some (⟨n, none⟩, g, k) →
    s.dev.at? n.val g = some a →
    (k &&& ~~~a.grp.ended = 0 ∨ k &&& ~~~a.grp.ended &&& (a.grp.atGroup ||| a.grp.atCohort) ≠ 0) → exec i s = .next s) ∧
  (∀ (s : State) (n : CoreId) (m : CoreMem) (g : Nat) (k : BitVec 32) (c : Fin 13) (rd id : Nat) (a : KAt), s.dev.at? n.val g = some a →
    (∀ va f, m ≠ .line va f) →
    exec (.counterRead ⟨n, some m⟩ g k c rd) s = .next (after s (coreError a m (work s))) ∧
    exec (.moverTransferComplete ⟨n, some m⟩ g id) s = .next (after s (coreError a m (work s)))) ∧
  (∀ (s : State) (n : CoreId) (g : Nat) (k : BitVec 32) (c : Fin 13) (rd : Nat), s.dev.at? n.val g = none →
    exec (.counterRead ⟨n, none⟩ g k c rd) s = .next s) ∧
  (∀ (s : State) (n : CoreId) (g id va : Nat) (f : ReadFault) (k : BitVec 32) (c : Fin 13) (rd : Nat),
    exec (.counterRead ⟨n, some (.line va f)⟩ g k c rd) s = exec (.counterRead ⟨n, none⟩ g k c rd) s ∧
    (s.dev.at? n.val g = none → exec (.moverTransferComplete ⟨n, some (.line va f)⟩ g id) s = .next s) ∧
    ∀ a, s.dev.at? n.val g = some a → exec (.moverTransferComplete ⟨n, some (.line va f)⟩ g id) s = .next (after s
      (doMoverComplete n.val g id (meetRead (.mover n.val) a.run.vdev (some (va, f)) a.cmd.ins (work s)))))

/-- R138, R91, R107, R155, R161: the instructions that compute from registers write, for each active lane, the result's
registers and flags: a vector operation in the format and mode it names, a function, wisp under the command's key, a count, an
identity. -/
def Obligations.LaneInstructionsCompute : Prop :=
  (∀ (s : State) (n : CoreId) (g : Nat) (m : BitVec 32) (a : KAt) (ls : List Nat) (op : VecOp) (src dst : Fmt) (rm : RoundMode) (rd : Nat)
    (rs : List Nat) (ru : Nat), s.dev.at? n.val g = some a → fmtIsLane src = true → fmtIsLane dst = true → rs.length = vecArity op →
    activeLanes s.dev a g m (fmtRegs dst rd ++ rs.flatMap (fmtRegs src) ++ (if rm == .sr then [ru] else [])) = some ls →
    Gives (.vectorOp ⟨n, none⟩ g m op src dst rm rd rs ru) s fun d =>
      d = lanesWrite a g ls rd (fun a l => vecLane op src dst rm rs ru a.grp l) s.dev) ∧
  (∀ (s : State) (n : CoreId) (g : Nat) (m : BitVec 32) (a : KAt) (ls : List Nat) (fn : FnCode) (src dst : Fmt) (rm : RoundMode)
    (rd rs ru : Nat), s.dev.at? n.val g = some a → fmtIsLane src = true → fmtIsLane dst = true →
    (src = .fp64 ∨ dst = .fp64 → fnFp64Ok fn = true) →
    activeLanes s.dev a g m (fmtRegs dst rd ++ fmtRegs src rs ++ (if rm == .sr then [ru] else [])) = some ls →
    Gives (.functionOp ⟨n, none⟩ g m fn src dst rm rd rs ru) s fun d =>
      d = lanesWrite a g ls rd (fun a l => fnLane fn src dst rm rs ru a.grp l) s.dev) ∧
  (∀ (s : State) (n : CoreId) (g : Nat) (m : BitVec 32) (a : KAt) (ls : List Nat) (rd r1 r2 r3 : Nat), s.dev.at? n.val g = some a →
    activeLanes s.dev a g m [rd, rd + 1, rd + 2, rd + 3, r1, r2, r2 + 1, r3] = some ls → hdrWisp a.cmd.hdr = true →
    Gives (.wisp ⟨n, none⟩ g m rd r1 r2 r3) s fun d => d = lanesWrite a g ls rd (fun a l =>
      let y := wispBlock a.cmd.key (a.grp.reg l r1) (a.grp.pair l r2) (a.grp.reg l r3)
      ([y.a, y.b, y.c, y.d], 0)) s.dev) ∧
  (∀ (s : State) (n : CoreId) (g : Nat) (m : BitVec 32) (op : VecOp) (fn : FnCode) (src dst : Fmt) (rm : RoundMode) (rd r ru : Nat)
    (rs : List Nat), fmtIsLane src = false ∨ fmtIsLane dst = false →
    exec (.vectorOp ⟨n, none⟩ g m op src dst rm rd rs ru) s = .next s ∧ exec (.functionOp ⟨n, none⟩ g m fn src dst rm rd r ru) s = .next s) ∧
  (∀ (s : State) (n : CoreId) (g : Nat) (m : BitVec 32) (a : KAt) (ls : List Nat) (c : Fin 13) (rd : Nat), s.dev.at? n.val g = some a →
    activeLanes s.dev a g m [rd, rd + 1] = some ls →
    let since := if coreHub n.val = 0 then a.run.start.1 else a.run.start.2
    let count := coreCount n.val c.val (Tab.getD a.run.base n.val []) (s.dev.core n.val).ctr since.toNat
      (s.dev.hlc (coreHub n.val)).toNat
    Gives (.counterRead ⟨n, none⟩ g m c rd) s fun d =>
      d = lanesWrite a g ls rd (fun _ _ => (regWords 64 count.toNat, 0)) s.dev) ∧
  (∀ (n i from_ till : Nat) (old new : Tab (BitVec 64)), i ∈ [3, 4, 7, 8, 9, 10, 11, 12] →
    coreCount n i old new from_ till = Tab.getD new i 0 - Tab.getD old i 0) ∧
  (∀ (n from_ till : Nat) (old new : Tab (BitVec 64)), coreCount n 0 old new from_ till = BitVec.ofNat 64 (islandCycles n from_ till)) ∧
  (∀ (s : State) (n : CoreId) (g : Nat) (m : BitVec 32) (a : KAt) (ls : List Nat) (i : Identity) (rd : Nat), s.dev.at? n.val g = some a →
    i ≠ .takeFlags → activeLanes s.dev a g m (if 32 < identityBits i then [rd, rd + 1] else [rd]) = some ls →
    Gives (.identityRead ⟨n, none⟩ g m i rd) s fun d =>
      d = lanesWrite a g ls rd (fun a l => (regWords (identityBits i) (identityOf a g l i), 0)) s.dev) ∧
  (∀ (s : State) (n : CoreId) (g : Nat) (m : BitVec 32) (a : KAt) (ls : List Nat) (rd : Nat), s.dev.at? n.val g = some a →
    activeLanes s.dev a g m [rd] = some ls →
    Gives (.identityRead ⟨n, none⟩ g m .takeFlags rd) s fun d => ∃ r x, Tab.get? d.kern a.no = some r ∧ Tab.get? r.groups g = some x ∧
      (∀ l ∈ ls, Tab.get? x.flags l = none ∧ x.reg l rd = BitVec.ofNat 32 (Tab.getD a.grp.flags l 0).toNat) ∧
      (∀ l, l ∉ ls → Tab.get? x.flags l = Tab.get? a.grp.flags l) ∧ x.store = a.grp.store ∧ { d with kern := s.dev.kern } = s.dev)

/-- R138, R139: what a lane instruction writes. Every active lane holds its result from the destination register up; the
registers of the other lanes, and every other register of the active lanes, are unchanged, and so are every other group and all
that is not a kernel. -/
def Obligations.LaneInstructionsFrame : Prop :=
  ∀ (d : Dev) (n g : Nat) (m : BitVec 32) (uses : List Nat) (a : KAt) (ls : List Nat) (rd : Nat)
    (f : KAt → Nat → List (BitVec 32) × FlagWord), d.at? n g = some a → activeLanes d a g m uses = some ls → hdrRegs a.cmd.hdr ≤ 256 →
    (∀ l i, i < (f a l).1.length → rd + i ∈ uses) →
    ∃ r x, Tab.get? (lanesWrite a g ls rd f d).kern a.no = some r ∧ Tab.get? r.groups g = some x ∧
      (∀ l ∈ ls, ∀ i v, (f a l).1[i]? = some v → x.reg l (rd + i) = v) ∧
      (∀ l k, l < 32 → k < 256 → l ∉ ls ∨ k < rd ∨ rd + (f a l).1.length ≤ k → x.reg l k = a.grp.reg l k) ∧
      (∀ h, h ≠ g → Tab.get? r.groups h = Tab.get? a.run.groups h) ∧ x.store = a.grp.store ∧ x.ended = a.grp.ended ∧
      (∀ k, k ≠ a.no → Tab.get? (lanesWrite a g ls rd f d).kern k = Tab.get? d.kern k) ∧
      { lanesWrite a g ls rd f d with kern := d.kern } = d

/-- R160, R163, R167: the life of a kernel's groups. A launch begins a run without groups; the next cohort becomes resident
whole, its registers and windows not cleared; a thread that ends counts as ended, and the last thread of a kernel with nothing
outstanding lets the command execute. -/
def Obligations.KernelGroups : Prop :=
  (∀ (s : State) (v : VDev) (q : QId) (c : Cmd), s.dev.cur? v.val q.val = some c → c.kind = 2 → c.phase = .running →
    Tab.get? s.dev.kern c.no = none →
    Gives (.kernelLaunch v q) s fun d => d = s.dev.setRun c.no ⟨v.val, q.val, [], 0, 0, [], [], [], 0, false,
      c.cohorts.flatten.eraseDups.map fun n => (n, (s.dev.core n).ctr), (s.dev.hlc 0, s.dev.hlc 1)⟩) ∧
  (∀ (s : State) (v : VDev) (q : QId), (∀ c, s.dev.cur? v.val q.val = some c → c.kind ≠ 2 ∨ c.phase ≠ .running ∨ Tab.get? s.dev.kern c.no ≠ none) →
    exec (.kernelLaunch v q) s = .next s) ∧
  (∀ (s : State) (v : VDev) (q : QId), (∀ c r cores, s.dev.cur? v.val q.val = some c → Tab.get? s.dev.kern c.no = some r →
      c.cohorts[r.next / max 1 (klCohort c.params)]? = some cores → c.phase ≠ .running ∨ r.stopped = true ∨ klGroups c.params ≤ r.next ∨
      ∃ n ∈ cores, c.clusters.contains (n / 68) = false) →
    exec (.groupResident v q) s = .next s) ∧
  (∀ (s : State) (v : VDev) (q : QId) (c : Cmd) (r : KRun) (cores : List Nat), s.dev.cur? v.val q.val = some c → c.phase = .running →
    Tab.get? s.dev.kern c.no = some r → r.stopped = false → c.cohorts[r.next / max 1 (klCohort c.params)]? = some cores →
    r.next < klGroups c.params → (cores.all fun n => c.clusters.contains (n / 68)) = true →
    let count := min (max 1 (klCohort c.params)) (klGroups c.params - r.next)
    Gives (.groupResident v q) s fun d => d.draws = s.dev.draws + count ∧ d.vds = s.dev.vds ∧ ∃ y, Tab.get? d.kern c.no = some y ∧
      y.next = r.next + count ∧ y.groups.length = r.groups.length + count ∧ y.groups.take r.groups.length = r.groups ∧
      ∀ p ∈ y.groups.drop r.groups.length, p.2.regs = [] ∧ p.2.store = [] ∧ p.2.tags = [] ∧ p.2.ended = 0 ∧ r.next ≤ p.1 ∧
        p.1 < r.next + count ∧ p.2.fresh = (if (s.dev.core p.2.core).zeroed then none else some (s.dev.draws + (p.1 - r.next)))) ∧
  (∀ (s : State) (n : CoreId) (g : Nat) (lane : Fin 32) (a : KAt), s.dev.at? n.val g = some a →
    activeLanes s.dev a g (laneBit lane.val) [] = some [lane.val] →
    Gives (.threadEnd ⟨n, none⟩ g lane) s fun d =>
      d = settleGroup a.no g (groupLeft a g (fun x => { x with ended := x.ended ||| laneBit lane.val }) s.dev)) ∧
  (∀ (s : State) (n : CoreId) (g : Nat) (lane : Fin 32) (a : KAt), s.dev.at? n.val g = some a →
    activeLanes s.dev a g (laneBit lane.val) [] = some [lane.val] → (a.grp.ended ||| laneBit lane.val) = BitVec.allOnes 32 →
    a.run.groups = [(g, a.grp)] → a.run.ordered = [] → a.grp.movers = [] → s.dev.mc.reqs = [] → s.dev.mc.resps = [] →
    a.run.ended + 1 = klGroups a.cmd.params →
    Gives (.threadEnd ⟨n, none⟩ g lane) s fun d => ∃ c, d.cur? a.run.vdev a.run.queue = some c ∧ c.phase = .executed ∧
      c.flags = a.cmd.flags ||| orFlags (a.grp.flags.map Prod.snd))

/-- R139 … R142, R79, R80: the matrix engine. A product is added to the windows of a set, what spills joins the queue, and the
product waits while the engine stalls; a spill that heads the queue enters its slot; a drain writes the final values of a set
and empties it; a clear empties it without writing; the flags go to the lowest active thread. -/
def Obligations.MatrixInstructions : Prop :=
  (∀ (s : State) (n : CoreId) (g : Nat) (set : Bool) (mask : BitVec 32) (ta tb : TileArg) (a : KAt) (l : Nat) (ls : List Nat),
    s.dev.at? n.val g = some a → activeLanes s.dev a g mask [] = some (l :: ls) → fmtIsEngine ta.fmt = true → fmtIsEngine tb.fmt = true →
    klWatch a.cmd.params = false →
    let ws := a.cmd.ws
    let x := mmaEngine set (fun i => tileVal ta (a.grp.bytes ws ta.scales 128) (i / 32) ((tileElems a.grp ws ta).getD i 0))
      (fun i => tileVal tb (a.grp.bytes ws tb.scales 128) (i % 128) ((tileElems a.grp ws tb).getD i 0)) (a.run.engine n.val)
    (∀ e fl k, x = some (e, fl, k) → Gives (.mma ⟨n, none⟩ g ⟨set, mask⟩ ta tb) s fun d => ∃ r, Tab.get? d.kern a.no = some r ∧
      r.engine n.val = e ∧ r.groups = (a.run.onG g (KGroup.addFlags l (fl ||| tileFlags ws ta ||| tileFlags ws tb))).groups ∧
      { d with kern := s.dev.kern } = countCore n.val 4 k (countCore n.val 3 (32 * mxPositions) s.dev)) ∧
    (x = none → exec (.mma ⟨n, none⟩ g ⟨set, mask⟩ ta tb) s = .next s)) ∧
  (∀ (set : Bool) (av bv : Nat → Val) (m : Mx),
    (∀ pos < mxPositions, (windowTerms ((List.range 32).map fun k => (termMul (av (32 * (pos / 128) + k)) (bv (128 * k + pos % 128))).1)
      (Tab.getD (m.winSet set) pos Win.empty).toWindow).2 = []) → ∃ e fl, mmaEngine set av bv m = some (e, fl, 0) ∧ e.queue = m.queue ∧ e.slots = m.slots) ∧
  (∀ (s : State) (n : CoreId) (no : Nat) (r : KRun) (p : Spill) (rest : List Spill), s.dev.runOn n.val = some (no, r) →
    (r.engine n.val).queue = p :: rest → Tab.get? (r.engine n.val).slots p.pos = none →
    Gives (.peatSpill ⟨n, none⟩) s fun d => ∃ y, Tab.get? d.kern no = some y ∧ (y.engine n.val).queue = rest ∧
      Tab.get? (y.engine n.val).slots p.pos = some ⟨p.word, p.set⟩) ∧
  (∀ (s : State) (n : CoreId) (no : Nat) (r : KRun) (p : Spill) (rest : List Spill) (w : PSlot), s.dev.runOn n.val = some (no, r) →
    (r.engine n.val).queue = p :: rest → Tab.get? (r.engine n.val).slots p.pos = some w → w.set = p.set →
    Gives (.peatSpill ⟨n, none⟩) s fun d => ∃ y, Tab.get? d.kern no = some y ∧ (y.engine n.val).queue = rest ∧
      Tab.get? (y.engine n.val).slots p.pos = some ⟨peatAdd w.word p.word, w.set⟩) ∧
  (∀ (s : State) (n : CoreId) (no : Nat) (r : KRun), s.dev.runOn n.val = some (no, r) → (r.engine n.val).queue = [] ∨ (r.engine n.val).spillReady = false →
    Gives (.peatSpill ⟨n, none⟩) s fun d => ∃ y, Tab.get? d.kern no = some y ∧ y.engine n.val = r.engine n.val ∧ y.groups = r.groups) ∧
  (∀ (s : State) (n : CoreId) (no : Nat) (r : KRun) (m : CoreMem), s.dev.runOn n.val = some (no, r) →
    exec (.peatSpill ⟨n, some m⟩) s = .next (after s (replayCmd r.vdev r.queue [n.val] ((work s).on (parityEvent n.val (coreMemPlace m)))))) ∧
  (∀ (s : State) (n : CoreAt), s.dev.runOn n.core.val = none → exec (.peatSpill n) s = .next s) ∧
  (∀ (s : State) (n : CoreId) (g : Nat) (set : Bool) (mask : BitVec 32) (dst : Nat) (mode : DrainMode) (a : KAt) (l : Nat) (ls : List Nat)
    (runs : List (Nat × List Byte)) (fl : FlagWord), s.dev.at? n.val g = some a → activeLanes s.dev a g mask [] = some (l :: ls) →
    ((a.run.engine n.val).queue.any fun p => p.set == set) = false → klWatch a.cmd.params = false →
    drainBytes a.cmd.key (drainBase mode dst).1 mode ((List.range mxPositions).map ((a.run.engine n.val).final set)) = some (runs, fl) →
    let bytes := runs.flatMap fun (o, bs) => bs.zipIdx.map fun (b, i) => (o + i, b)
    let x := storeAll a.cmd.ws (bytes.map fun (o, b) => (threadNo g l, o, b)) a.grp
    let f := fl ||| (drainBase mode dst).2 ||| fIf (bytes.any fun (o, _) => decide (a.cmd.ws ≤ o)) fInvalid
    let r := { a.run with
      engines := Tab.put a.run.engines n.val ((a.run.engine n.val).emptySet set)
      groups := Tab.put a.run.groups g (x.1.addFlags l f)
      nextAcc := a.run.nextAcc + 1 }
    exec (.mdrain ⟨n, none⟩ g ⟨set, mask⟩ dst mode) s = .next (after s (putRun a.no r x.2 (work s)))) ∧
  (∀ (s : State) (n : CoreId) (g : Nat) (set : Bool) (mask : BitVec 32) (dst : Nat) (mode : DrainMode) (a : KAt), s.dev.at? n.val g = some a →
    ((a.run.engine n.val).queue.any fun p => p.set == set) = true → exec (.mdrain ⟨n, none⟩ g ⟨set, mask⟩ dst mode) s = .next s) ∧
  (∀ (s : State) (n : CoreId) (g : Nat) (set : Bool) (mask : BitVec 32) (a : KAt) (ls : List Nat), s.dev.at? n.val g = some a →
    activeLanes s.dev a g mask [] = some ls →
    Gives (.mclear ⟨n, none⟩ g ⟨set, mask⟩) s fun d => ∃ r, Tab.get? d.kern a.no = some r ∧
      r.engine n.val = (a.run.engine n.val).emptySet set ∧ ((r.engine n.val).winSet set) = [] ∧
      (r.engine n.val).winSet (!set) = (a.run.engine n.val).winSet (!set) ∧ r.groups = a.run.groups ∧
      { d with kern := s.dev.kern } = s.dev)

/-- R164, R170, R171, R146: core-store instructions outside watch mode. An access waits while its lane's own earlier ordered
operation on those bytes has not had its turn. A load fills registers with the bytes of the lane's aligned place, or zeros past
the window; a store writes the bytes of each lane, and races as the tags say; a parity error on a load replays the command. -/
def Obligations.CoreStoreInstructions : Prop :=
  (∀ (s : State) (n : CoreId) (g : Nat) (m : BitVec 32) (z : AccSize) (rd ra : Nat) (a : KAt) (ls : List Nat), s.dev.at? n.val g = some a →
    activeLanes s.dev a g m (ra :: regsFrom rd (accBytes z)) = some ls → klWatch a.cmd.params = false →
    (∀ l ∈ ls, a.run.turnDue g l true (csOffset a.cmd a.grp l ra (accBytes z)).1 (accBytes z) = false) →
    Gives (.coreStoreLoad ⟨n, none⟩ g m z rd ra false) s fun d =>
      let step (x : KGroup) (l : Nat) : KGroup :=
        let o := csOffset a.cmd a.grp l ra (accBytes z)
        (KGroup.setRegs l rd (wordsOf (a.grp.bytes a.cmd.ws o.1 (accBytes z))) x).addFlags l o.2.2
      d = s.dev.setRun a.no { a.run.onG g (fun x => ls.foldl step x) with nextAcc := a.run.nextAcc + 1 }) ∧
  (∀ (s : State) (n : CoreId) (g : Nat) (m : BitVec 32) (z : AccSize) (rd ra : Nat) (a : KAt) (l : Nat) (ls : List Nat),
    s.dev.at? n.val g = some a → activeLanes s.dev a g m (ra :: regsFrom rd (accBytes z)) = some (l :: ls) →
    exec (.coreStoreLoad ⟨n, none⟩ g m z rd ra true) s = .next (after s
      (coreError a (.store (csOffset a.cmd a.grp l ra (accBytes z)).1) (work s)))) ∧
  (∀ (s : State) (n : CoreId) (g : Nat) (m : BitVec 32) (z : AccSize) (ra rs : Nat) (a : KAt) (ls : List Nat), s.dev.at? n.val g = some a →
    activeLanes s.dev a g m (ra :: regsFrom rs (accBytes z)) = some ls → klWatch a.cmd.params = false →
    let at_ (l : Nat) : Nat × Bool × FlagWord := csOffset a.cmd a.grp l ra (accBytes z)
    (∀ l ∈ ls, a.run.turnDue g l true (at_ l).1 (accBytes z) = false) →
    let x := storeAll a.cmd.ws (ls.flatMap fun l => (a.grp.regBytes l rs (accBytes z)).zipIdx.map fun (b, i) =>
      (threadNo g l, (at_ l).1 + i, b)) a.grp
    let y := ls.foldl (fun x l => x.addFlags l (at_ l).2.2) x.1
    exec (.coreStoreStore ⟨n, none⟩ g m z ra rs) s = .next (after s (putRun a.no { a.run with
      groups := Tab.put a.run.groups g y
      nextAcc := a.run.nextAcc + 1 } x.2 (work s)))) ∧
  (∀ (s : State) (n : CoreId) (g : Nat) (m : BitVec 32) (z : AccSize) (ra r l : Nat) (a : KAt) (ls : List Nat),
    s.dev.at? n.val g = some a → activeLanes s.dev a g m (ra :: regsFrom r (accBytes z)) = some ls → l ∈ ls →
    a.run.turnDue g l true (csOffset a.cmd a.grp l ra (accBytes z)).1 (accBytes z) = true →
    exec (.coreStoreLoad ⟨n, none⟩ g m z r ra false) s = .next s ∧ exec (.coreStoreStore ⟨n, none⟩ g m z ra r) s = .next s)

/-- R164, R166, R174, R175, R88: global accesses and order-free atomics outside watch mode. Each lane's request goes out in lane
order with its aligned address; an atomic on the core store is performed at once, lane by lane; a peat-accumulate takes a term,
a word or a fragment. -/
def Obligations.GlobalAndAtomicInstructions : Prop :=
  (∀ (s : State) (n : CoreId) (g : Nat) (m : BitVec 32) (z : AccSize) (rd ra : Nat) (a : KAt) (ls : List Nat), s.dev.at? n.val g = some a →
    activeLanes s.dev a g m (ra :: (ra + 1) :: regsFrom rd (accBytes z)) = some ls → klWatch a.cmd.params = false →
    let at_ (l : Nat) : Nat × FlagWord := alignDown (a.grp.pair l ra).toNat (accBytes z)
    (∀ l ∈ ls, a.run.turnDue g l false (at_ l).1 (accBytes z) = false) → exec (.globalLoad ⟨n, none⟩ g m z rd ra) s = .next (after s (ls.foldl
      (fun w l => issueReq a (at_ l).1 (.read (accBytes z)) (.load g l rd (accBytes z)) w)
      ((work s).on fun d => d.setRun a.no { a.run.onG g (fun x => ls.foldl (fun x l => x.addFlags l (at_ l).2) x) with
        nextAcc := a.run.nextAcc + 1 })))) ∧
  (∀ (s : State) (n : CoreId) (g : Nat) (m : BitVec 32) (z : AccSize) (ra rs : Nat) (a : KAt) (ls : List Nat), s.dev.at? n.val g = some a →
    activeLanes s.dev a g m (ra :: (ra + 1) :: regsFrom rs (accBytes z)) = some ls → klWatch a.cmd.params = false →
    let at_ (l : Nat) : Nat × FlagWord := alignDown (a.grp.pair l ra).toNat (accBytes z)
    (∀ l ∈ ls, a.run.turnDue g l false (at_ l).1 (accBytes z) = false) → exec (.globalStore ⟨n, none⟩ g m z ra rs) s = .next (after s (ls.foldl
      (fun w l => issueReq a (at_ l).1 (.write (a.grp.regBytes l rs (accBytes z))) (.store g l) w)
      ((work s).on fun d => d.setRun a.no { a.run.onG g (fun x => ls.foldl (fun x l => x.addFlags l (at_ l).2) x) with
        nextAcc := a.run.nextAcc + 1 })))) ∧
  (∀ (s : State) (n : CoreId) (g : Nat) (m : BitVec 32) (core : Bool) (ra : Nat) (a : KAt) (ls uses : List Nat) (i : Instr)
    (op : Nat → AtOp × FlagWord),
    (∃ rs wide o, i = .atomicInt ⟨n, none⟩ g m o wide core ra rs ∧ uses = (if wide then [rs, rs + 1] else [rs]) ∧
      op = fun l => (.int o wide (BitVec.ofNat 64 (a.grp.operand l rs (if wide then 64 else 32))), 0)) ∨
    (∃ rs wide mx, i = .atomicFpMinmax ⟨n, none⟩ g m mx wide core ra rs ∧ uses = (if wide then [rs, rs + 1] else [rs]) ∧
      op = fun l => (.fp mx wide (BitVec.ofNat 64 (a.grp.operand l rs (if wide then 64 else 32))),
        fIf (decodeElem (if wide then .fp64 else .fp32) (a.grp.operand l rs (if wide then 64 else 32))).isSNan fInvalid)) ∨
    (∃ rs src, i = .atomicPeatAccumulate ⟨n, none⟩ g m src core ra rs ∧ (∀ f, src = .term f → fmtIsLane f = true ∧ f ≠ .fp64) ∧
      (ls.all fun l => (peatOperand src a l rs).isSome) = true ∧
      uses = (match src with | .term f => if 32 < fmtBits f then [rs, rs + 1] else [rs] | _ => [rs]) ∧
      op = fun l => (.peat ((peatOperand src a l rs).getD (Peat.zero, 0)).1, ((peatOperand src a l rs).getD (Peat.zero, 0)).2)) →
    s.dev.at? n.val g = some a → activeLanes s.dev a g m ((if core then [ra] else [ra, ra + 1]) ++ uses) = some ls →
    klWatch a.cmd.params = false →
    let place (l : Nat) : Nat × FlagWord :=
      alignDown (if core then (a.grp.reg l ra).toNat else (a.grp.pair l ra).toNat) (op l).1.align
    let outside (l : Nat) : Bool := core && decide (a.cmd.ws < (place l).1 + (op l).1.width)
    let flags (x : KGroup) : KGroup := ls.foldl (fun x l => x.addFlags l ((op l).2 ||| (place l).2 ||| fIf (outside l) fInvalid)) x
    let perform (x : KGroup) (l : Nat) : KGroup :=
      storeBytes (threadNo g l) (place l).1 (atomicBytes (op l).1 (x.bytes a.cmd.ws (place l).1 (op l).1.width)) x
    let live := ls.filter fun l => !outside l
    (∀ l ∈ ls, a.run.turnDue g l core (place l).1 (op l).1.width = false) →
    let w := (work s).on fun d => d.setRun a.no { a.run.onG g (fun x => if core then live.foldl perform (flags x) else flags x) with
      nextAcc := a.run.nextAcc + 1 }
    exec i s = .next (after s (if core then w else live.foldl (fun w l => issueReq a (place l).1 (.atomic (op l).1) (.store g l) w) w))) ∧
  (∀ (s : State) (n : CoreId) (g : Nat) (m : BitVec 32) (core : Bool) (ra rs : Nat) (a : KAt) (ls : List Nat), s.dev.at? n.val g = some a →
    activeLanes s.dev a g m ((if core then [ra] else [ra, ra + 1]) ++ [rs]) = some ls →
    (ls.any fun l => (peatOperand .fragment a l rs).isNone) = true →
    exec (.atomicPeatAccumulate ⟨n, none⟩ g m .fragment core ra rs) s = .next (after s (replayCmd a.run.vdev a.run.queue [] (work s)))) ∧
  (∀ (s : State) (n : CoreId) (g : Nat) (m : BitVec 32) (f : Fmt) (core : Bool) (ra rs : Nat), fmtIsLane f = false ∨ f = .fp64 →
    exec (.atomicPeatAccumulate ⟨n, none⟩ g m (.term f) core ra rs) s = .next s)

/-- R208 … R213, R166, R219, R220, R227: requests at their home and their responses. Every request is held against the table and
the key of its home, and refused there or performed on its lines. A read answers the bytes of its line under its key, from the
memory-side cache or the stack; one bad twice is served from a mirror or fails with poison; a write lands and is acknowledged;
an atomic reads and writes its lines in one step; a response fills the registers of its lane, or counts as acknowledged. -/
def Obligations.HomeRequests : Prop :=
  (∀ (s : State) (id : Nat) (f : ReadFault),
    (arrived s.dev id (fun k => match k with | .read _ => true | _ => false) = none → exec (.readReq id f) s = .next s) ∧
    (arrived s.dev id (fun k => match k with | .write _ => true | _ => false) = none → exec (.write ⟨id, f⟩) s = .next s) ∧
    (arrived s.dev id (fun k => match k with | .atomic _ => true | _ => false) = none → exec (.atomic ⟨id, f⟩) s = .next s)) ∧
  (∀ (s : State) (id : Nat) (f : ReadFault) (r : MReq) (ch : Nat) (y : Why), checkSpots s.dev r.vdev r.spots = .error (ch, y) →
    (arrived s.dev id (fun k => match k with | .read _ => true | _ => false) = some r →
      exec (.readReq id f) s = .next (after s (failReq r ch y (work s)))) ∧
    (arrived s.dev id (fun k => match k with | .write _ => true | _ => false) = some r →
      exec (.write ⟨id, f⟩) s = .next (after s (failReq r ch y (work s)))) ∧
    (arrived s.dev id (fun k => match k with | .atomic _ => true | _ => false) = some r →
      exec (.atomic ⟨id, f⟩) s = .next (after s (failReq r ch y (work s))))) ∧
  (∀ (s : State) (id : Nat) (f : ReadFault) (r : MReq) (l : List (Spot × Nat × Nat × Nat)), checkSpots s.dev r.vdev r.spots = .ok l →
    let k := (r.spots.head?.map fun p => p.chan / 32).getD 0
    let w := if f = .xts then xtsEvent k (work s) else work s
    (arrived s.dev id (fun k => match k with | .read _ => true | _ => false) = some r →
      exec (.readReq id f) s = .next (after s (if (w.dev.die k).lost then w else readAtHome f r l w))) ∧
    (arrived s.dev id (fun k => match k with | .write _ => true | _ => false) = some r →
      exec (.write ⟨id, f⟩) s = .next (after s (if (w.dev.die k).lost then w else writeAtHome f r l w))) ∧
    (arrived s.dev id (fun k => match k with | .atomic _ => true | _ => false) = some r →
      exec (.atomic ⟨id, f⟩) s = .next (after s (if (w.dev.die k).lost then w else atomicAtHome f r l w)))) ∧
  (∀ (s : State) (id : Nat) (r : MReq) (p : Spot) (a k j : Nat), arrived s.dev id (fun k => match k with | .read _ => true | _ => false) = some r →
    r.spots = [p] → checkSpots s.dev r.vdev r.spots = .ok [(p, a, k, j)] → (s.dev.die (p.chan / 32)).lost = false → poisoned s.dev a = false →
    let bs := (work s).bytes (s.dev.keySlot p.keySlot).key a r.bytes
    let line := readLine r.vdev p.keySlot a s.dev
    let answers (f : ReadFault) (d : Dev) : Prop := Gives (.readReq id f) s fun t => t = respond r bs (tally r r.bytes 0 d)
    answers .good line ∧
    (s.dev.cacheHit r.vdev p.keySlot a = true → ∀ f ∈ [ReadFault.corrected, .badOnce, .badTwice], answers f line) ∧
    answers .cacheParity (readLine r.vdev p.keySlot a (cacheDrop (chanOf a / 32) (fun l => l == lineOf a) s.dev)) ∧
    (s.dev.cacheHit r.vdev p.keySlot a = false →
      answers .corrected (correctedRead a line) ∧ answers .badOnce (countCh (chanOf a) 0 (countCh (chanOf a) 4 line)) ∧
      let round := failedRound a (countCh (chanOf a) 0 line)
      (∀ x, mirrorOf round r.vdev k j a = some x → poisoned round x = false →
        answers .badTwice (countCh (chanOf a) 1 (countCh (chanOf x) 0 round))) ∧
      (∀ x, mirrorOf round r.vdev k j a = some x → poisoned round x = true →
        exec (.readReq id .badTwice) s = .next (after s (failReq r p.chan .poison ((work s).on fun _ => poisonLine a round)))) ∧
      (mirrorOf round r.vdev k j a = none →
        exec (.readReq id .badTwice) s = .next (after s (failReq r p.chan .poison ((work s).on fun _ => poisonLine a round)))))) ∧
  (∀ (s : State) (id : Nat) (f : ReadFault) (r : MReq) (p : Spot) (a k j : Nat),
    arrived s.dev id (fun k => match k with | .read _ => true | _ => false) = some r → f ≠ .xts →
    r.spots = [p] → checkSpots s.dev r.vdev r.spots = .ok [(p, a, k, j)] → (s.dev.die (p.chan / 32)).lost = false → poisoned s.dev a = true →
    exec (.readReq id f) s = .next (after s (failReq r p.chan .poison (work s)))) ∧
  (∀ (s : State) (id : Nat) (f : ReadFault) (r : MReq) (bs : List Byte) (l : List (Spot × Nat × Nat × Nat)),
    arrived s.dev id (fun k => match k with | .write _ => true | _ => false) = some r → r.kind = .write bs → f ≠ .xts →
    checkSpots s.dev r.vdev r.spots = .ok l → (s.dev.die ((r.spots.head?.map fun p => p.chan / 32).getD 0)).lost = false →
    exec (.write ⟨id, f⟩) s = .next (after s ((storeLines r (reqJournal s.dev r) ((parts r.va bs.length).zip l) bs (work s)).on fun d =>
      respond r [] (tally r 0 bs.length (if f = .queueParity then l.foldl (fun d x => countCh x.1.chan 1 d) d else d))))) ∧
  (∀ (s : State) (id : Nat) (r : MReq) (op : AtOp) (p : Spot) (a k j : Nat),
    arrived s.dev id (fun k => match k with | .atomic _ => true | _ => false) = some r → r.kind = .atomic op → r.spots = [p] →
    checkSpots s.dev r.vdev r.spots = .ok [(p, a, k, j)] → (s.dev.die (p.chan / 32)).lost = false → poisoned s.dev a = false →
    parts r.va r.bytes = [(r.va, r.bytes)] →
    let w := (work s).on (readLine r.vdev p.keySlot a)
    let old := (work s).bytes (s.dev.keySlot p.keySlot).key a r.bytes
    exec (.atomic ⟨id, .good⟩) s = .next (after s ((storeLines r (reqJournal w.dev r) [((r.va, r.bytes), p, a, k, j)] (atomicBytes op old) w).on
      fun d => respond r [] (tally r r.bytes r.bytes d)))) ∧
  (∀ (s : State) (id g l rd n : Nat) (x : MResp) (rest : List MResp) (r : KRun),
    takeFirst (fun x : MResp => x.req.id == id && (match x.req.kind with | .read _ => true | _ => false)) s.dev.mc.resps = some (x, rest) →
    x.req.dest = .load g l rd n → Tab.get? s.dev.kern x.req.cmd = some r →
    Gives (.readData id) s fun d => d = hearResp x ((s.dev.onMc fun m => { m with resps := rest }).setRun x.req.cmd
      (r.onG g (KGroup.setRegs l rd (wordsOf x.data))))) ∧
  (∀ (s : State) (id : Nat) (x : MResp) (rest : List MResp),
    (takeFirst (fun x : MResp => x.req.id == id && (match x.req.kind with | .write _ => true | _ => false)) s.dev.mc.resps = some (x, rest) →
      Gives (.writeAck id) s fun d => d = hearResp x (s.dev.onMc fun m => { m with resps := rest })) ∧
    (takeFirst (fun x : MResp => x.req.id == id && (match x.req.kind with | .atomic _ => true | _ => false)) s.dev.mc.resps = some (x, rest) →
      Gives (.atomicAck id) s fun d => d = hearResp x (s.dev.onMc fun m => { m with resps := rest }))) ∧
  (∀ (s : State) (id : Nat), (s.dev.mc.resps.any fun x => x.req.id == id) = false →
    exec (.readData id) s = .next s ∧ exec (.writeAck id) s = .next s ∧ exec (.atomicAck id) s = .next s)

/-- R177, R178, R180, R182: ordered operations outside watch mode. Each is queued under its key, and its lane's sequence rises;
without a heap an allocation answers 0 with INVALID; the turn performs the operation of smallest key when every thread that
could issue a smaller one is beyond it. -/
def Obligations.OrderedInstructions : Prop :=
  (∀ (s : State) (n : CoreId) (g : Nat) (lane : Fin 32) (a : KAt) (rd : Nat) (uses : List Nat) (i : Instr) (o : OrdOp) (f : FlagWord),
    (∃ wide core ra re rs, i = .compareAndSwap ⟨n, none⟩ g lane wide core rd ra re rs ∧ klOrdered a.cmd.params = true ∧
      uses = wideRegs wide rd ++ addrRegs core ra ++ wideRegs wide re ++ wideRegs wide rs ∧
      o = .cas core wide (ordAddr a lane.val core wide ra).1 (wideVal a lane.val re wide) (wideVal a lane.val rs wide) ∧
      f = (ordAddr a lane.val core wide ra).2) ∨
    (∃ wide core ra rs, i = .exchange ⟨n, none⟩ g lane wide core rd ra rs ∧ klOrdered a.cmd.params = true ∧
      uses = wideRegs wide rd ++ addrRegs core ra ++ wideRegs wide rs ∧
      o = .swap core wide (ordAddr a lane.val core wide ra).1 (wideVal a lane.val rs wide) ∧ f = (ordAddr a lane.val core wide ra).2) ∨
    (∃ op wide core ra rs, i = .fetchAtomic ⟨n, none⟩ g lane op wide core rd ra rs ∧ klOrdered a.cmd.params = true ∧
      uses = wideRegs wide rd ++ addrRegs core ra ++ wideRegs wide rs ∧
      o = .fetch core wide op (ordAddr a lane.val core wide ra).1 (wideVal a lane.val rs wide) ∧ f = (ordAddr a lane.val core wide ra).2) ∨
    (∃ rs, i = .dalloc ⟨n, none⟩ g lane rd rs ∧ klHeap a.cmd.params ≠ 0 ∧ uses = [rd, rd + 1, rs, rs + 1] ∧
      o = .alloc (a.grp.pair lane.val rs).toNat ∧ f = 0) ∨
    (∃ ra rs, i = .dfree ⟨n, none⟩ g lane ra rs ∧ klHeap a.cmd.params ≠ 0 ∧ rd = 256 ∧ uses = [ra, ra + 1, rs, rs + 1] ∧
      o = .free (a.grp.pair lane.val ra).toNat (a.grp.pair lane.val rs).toNat ∧ f = 0) →
    s.dev.at? n.val g = some a → activeLanes s.dev a g (laneBit lane.val) uses = some [lane.val] → klWatch a.cmd.params = false →
    Gives i s fun d => ∃ r x, Tab.get? d.kern a.no = some r ∧ Tab.get? r.groups g = some x ∧
      r.ordered = a.run.ordered ++ [⟨a.cmd.cohortOf g, a.grp.c, g, a.grp.b, lane.val, Tab.getD a.grp.seqs lane.val 0, rd, o⟩] ∧
      Tab.getD x.seqs lane.val 0 = Tab.getD a.grp.seqs lane.val 0 + 1 ∧ x.regs = a.grp.regs ∧ x.store = a.grp.store ∧
      { d with kern := s.dev.kern } = s.dev) ∧
  (∀ (s : State) (n : CoreId) (g : Nat) (lane : Fin 32) (a : KAt) (rd rs : Nat), s.dev.at? n.val g = some a → klHeap a.cmd.params = 0 →
    activeLanes s.dev a g (laneBit lane.val) [rd, rd + 1, rs, rs + 1] = some [lane.val] →
    (Gives (.dalloc ⟨n, none⟩ g lane rd rs) s fun d => d = lanesWrite a g [lane.val] rd (fun _ _ => (regWords 64 0, fInvalid)) s.dev) ∧
    (Gives (.dfree ⟨n, none⟩ g lane rd rs) s fun d => d = lanesWrite a g [lane.val] rd (fun _ _ => ([], fInvalid)) s.dev)) ∧
  (∀ (s : State) (n : CoreId) (g : Nat) (m : BitVec 32) (a : KAt) (ls : List Nat), s.dev.at? n.val g = some a →
    activeLanes s.dev a g m [] = some ls →
    Gives (.ordrel ⟨n, none⟩ g m) s fun d => d = groupLeft a g (fun x => { x with beyond := ls.foldl (fun m l => m ||| laneBit l) x.beyond }) s.dev) ∧
  (∀ (s : State) (n : CoreId) (g : Nat) (lane : Fin 32) (a : KAt) (wide core : Bool) (op : IntAtomic) (rd ra re rs : Nat),
    s.dev.at? n.val g = some a → klOrdered a.cmd.params = false →
    exec (.compareAndSwap ⟨n, none⟩ g lane wide core rd ra re rs) s = .next s ∧ exec (.exchange ⟨n, none⟩ g lane wide core rd ra rs) s = .next s ∧
      exec (.fetchAtomic ⟨n, none⟩ g lane op wide core rd ra rs) s = .next s) ∧
  (∀ (s : State) (v : VDev) (q : QId), (∀ c r o, s.dev.cur? v.val q.val = some c → Tab.get? s.dev.kern c.no = some r → leastOrd r.ordered = some o →
      c.phase ≠ .running ∨ r.stopped = true ∨ turnReady c r o = false) → exec (.orderedTurn v q) s = .next s) ∧
  (∀ (s : State) (v : VDev) (q : QId) (c : Cmd) (r : KRun) (o : OrdReq), s.dev.cur? v.val q.val = some c → Tab.get? s.dev.kern c.no = some r →
    leastOrd r.ordered = some o → c.phase = .running → r.stopped = false → turnReady c r o = true →
    exec (.orderedTurn v q) s = .next (after s (match o.op with
      | .cas core wide addr _ _ => if core then (work s).on (ordCore c.no c o wide addr) else ordGlobal v.val q.val c.no c o wide addr (work s)
      | .swap core wide addr _ => if core then (work s).on (ordCore c.no c o wide addr) else ordGlobal v.val q.val c.no c o wide addr (work s)
      | .fetch core wide _ addr _ => if core then (work s).on (ordCore c.no c o wide addr) else ordGlobal v.val q.val c.no c o wide addr (work s)
      | .alloc size => ordHeap v.val q.val c.no c o
          (fun b n bm => (regWords 64 (heapAlloc b n size bm).1, 0, (heapAlloc b n size bm).2)) (work s)
      | .free addr size => ordHeap v.val q.val c.no c o
          (fun b n bm => ([], fIf (heapFree b n addr size bm).1 fInvalid, (heapFree b n addr size bm).2)) (work s)))) ∧
  (∀ (l : List OrdReq) (o : OrdReq), leastOrd l = some o → o ∈ l ∧ ∀ p ∈ l, ordLt p.key o.key = false)

/-- R148, R149, R165, R167, R168: barriers, transfers and waits. A thread that reaches a barrier waits at it; a barrier that all
have reached, with nothing outstanding, is passed; a transfer is in flight from its issue, and the group's count rises when it
has landed; a peer transfer writes the receiving window; a wait passes when the count has reached its number. -/
def Obligations.BarriersAndTransfers : Prop :=
  (∀ (s : State) (n : CoreId) (g : Nat) (lane : Fin 32) (a : KAt), s.dev.at? n.val g = some a →
    activeLanes s.dev a g (laneBit lane.val) [] = some [lane.val] →
    (Gives (.groupBarrier ⟨n, none⟩ g lane) s fun d => d = groupLeft a g (fun x => { x with atGroup := x.atGroup ||| laneBit lane.val }) s.dev) ∧
    (Gives (.cohortBarrier ⟨n, none⟩ g lane) s fun d => d = groupLeft a g (fun x => { x with atCohort := x.atCohort ||| laneBit lane.val }) s.dev)) ∧
  (∀ (s : State) (n : CoreId) (g : Nat) (a : KAt), s.dev.at? n.val g = some a → a.grp.atGroup ≠ 0 → arrivedAll a.grp false = true →
    outstanding s.dev a.no a.run g = false →
    Gives (.barrierRelease n g false) s fun d => d = groupLeft a g (fun x => { x with
      b := x.b + 1
      atGroup := 0
      beyond := 0
      seqs := [] }) s.dev) ∧
  (∀ (s : State) (n : CoreId) (g : Nat) (a : KAt), s.dev.at? n.val g = some a →
    let gs := a.run.cohort a.cmd (a.cmd.cohortOf g)
    (gs.any fun x => x.2.atCohort != 0) = true → (gs.all fun x => arrivedAll x.2 true && !outstanding s.dev a.no a.run x.1) = true →
    Gives (.barrierRelease n g true) s fun d => d = s.dev.setRun a.no (gs.foldl (fun r x => r.onG x.1 (passBarrier true)) a.run)) ∧
  (∀ (s : State) (n : CoreId) (g : Nat) (a : KAt), s.dev.at? n.val g = some a →
    (a.grp.atGroup = 0 ∨ arrivedAll a.grp false = false ∨ outstanding s.dev a.no a.run g = true → exec (.barrierRelease n g false) s = .next s) ∧
    ((∃ x ∈ a.run.cohort a.cmd (a.cmd.cohortOf g), arrivedAll x.2 true = false ∨ outstanding s.dev a.no a.run x.1 = true) →
      exec (.barrierRelease n g true) s = .next s)) ∧
  (∀ (s : State) (n : CoreId) (g : Nat) (cohort : Bool), s.dev.at? n.val g = none → exec (.barrierRelease n g cohort) s = .next s) ∧
  (∀ (s : State) (n : CoreId) (g : Nat) (m : BitVec 32) (a : KAt) (x : MoverArg) (l : Nat) (ls : List Nat), s.dev.at? n.val g = some a →
    activeLanes s.dev a g m [] = some (l :: ls) → x.axes.length ≤ 5 → a.grp.movers.length < moverRoom →
    (a.run.ordered.any fun o => o.g == g && o.t == l && o.op.place?.isSome) = false →
    Gives (.moverTransfer ⟨n, none⟩ g m x) s fun d => ∃ r y, Tab.get? d.kern a.no = some r ∧ Tab.get? r.groups g = some y ∧
      y = { a.grp with movers := a.grp.movers ++ [⟨s.dev.mc.nextId, l, x, none, a.grp.c, a.grp.b, a.run.nextAcc, false⟩] } ∧
      (∀ h, h ≠ g → Tab.get? r.groups h = Tab.get? a.run.groups h)) ∧
  (∀ (s : State) (n : CoreId) (g : Nat) (m : BitVec 32) (a : KAt) (x : MoverArg) (src dst off len : Nat), s.dev.at? n.val g = some a →
    (moverRoom ≤ a.grp.movers.length ∨ ∃ l ls, activeLanes s.dev a g m [] = some (l :: ls) ∧
      (a.run.ordered.any fun o => o.g == g && o.t == l && o.op.place?.isSome) = true) →
    exec (.moverTransfer ⟨n, none⟩ g m x) s = .next s ∧ exec (.peerTransfer ⟨n, none⟩ g m src dst off len) s = .next s) ∧
  (∀ (s : State) (n : CoreId) (g : Nat) (m : BitVec 32) (x : MoverArg), 5 < x.axes.length → exec (.moverTransfer ⟨n, none⟩ g m x) s = .next s) ∧
  (∀ (s : State) (n : CoreId) (g : Nat) (m : BitVec 32) (a : KAt) (src dst off len l : Nat) (ls : List Nat), s.dev.at? n.val g = some a →
    activeLanes s.dev a g m [] = some (l :: ls) → a.grp.movers.length < moverRoom →
    (a.run.ordered.any fun o => o.g == g && o.t == l && o.op.place?.isSome) = false →
    let inside := dst < cohortSize a.cmd g ∧ off + len ≤ klPeer a.cmd.params
    let till := a.cmd.cohortOf g * max 1 (klCohort a.cmd.params) + dst
    (inside → Gives (.peerTransfer ⟨n, none⟩ g m src dst off len) s fun d => ∃ r y, Tab.get? d.kern a.no = some r ∧
      Tab.get? r.groups g = some y ∧ y.flags = a.grp.flags ∧ y.movers = a.grp.movers ++ [⟨s.dev.mc.nextId, l, ⟨false, 0, src, []⟩,
        some (src, till, a.cmd.ws - klPeer a.cmd.params + off, len), a.grp.c, a.grp.b, a.run.nextAcc, false⟩]) ∧
    (¬inside → Gives (.peerTransfer ⟨n, none⟩ g m src dst off len) s fun d => ∃ r y, Tab.get? d.kern a.no = some r ∧
      Tab.get? r.groups g = some y ∧ Tab.getD y.flags l 0 = Tab.getD a.grp.flags l 0 ||| fInvalid ∧
      y.movers = a.grp.movers ++ [⟨s.dev.mc.nextId, l, ⟨false, 0, src, []⟩, some (src, till, 0, 0), a.grp.c, a.grp.b, a.run.nextAcc, false⟩])) ∧
  (∀ (s : State) (id no g src dst off len : Nat) (r : KRun) (x y : KGroup) (t : MoverT) (c : Cmd),
    findMover s.dev id = some (no, r, g, x, t) → t.peer = some (src, dst, off, len) → s.dev.cur? r.vdev r.queue = some c →
    Tab.get? r.groups dst = some y → y.tags = [] → t.landed = false → r.stopped = false → c.no = no → klWatch c.params = false →
    Completes (.peerWrite id) s fun u => ∃ r' y', Tab.get? u.dev.kern no = some r' ∧ Tab.get? r'.groups dst = some y' ∧
      ∀ i, i < len → y'.byte (off + i) = ((x.bytes c.ws src len).getD i 0)) ∧
  (∀ (s : State) (n : CoreId) (g id no src dst off len : Nat) (r : KRun) (x : KGroup) (t : MoverT) (qx : Queue) (c : Cmd),
    findMover s.dev id = some (no, r, g, x, t) → t.peer = some (src, dst, off, len) → t.landed = true ∨ len = 0 →
    s.dev.queue? r.vdev r.queue = some qx → qx.cur = some c → x.core = n.val → r.stopped = false → c.no = no → c.phase = .running →
    moverWaits s.dev no g t = false → Gives (.moverTransferComplete ⟨n, none⟩ g id) s fun d => d = finishMover no g t s.dev) ∧
  (∀ (s : State) (n : CoreId) (g id no : Nat) (r : KRun) (x : KGroup) (t : MoverT) (qx : Queue) (c : Cmd),
    findMover s.dev id = some (no, r, g, x, t) → t.peer = none → s.dev.queue? r.vdev r.queue = some qx → qx.cur = some c →
    x.core = n.val → r.stopped = false → c.no = no → c.phase = .running → moverWaits s.dev no g t = false →
    let p := if t.arg.toStore then moverIn r.vdev r.queue qx no r c g t (work s) else moverOut r.vdev r.queue qx no r c g x t (work s)
    exec (.moverTransferComplete ⟨n, none⟩ g id) s =
      .next (after s (if p.2 then p.1.on fun d => dropHostBuf r.vdev (finishMover no g t d) else p.1))) ∧
  (∀ (s : State) (n : CoreId) (g : Nat) (lane : Fin 32) (a : KAt) (k : Nat), s.dev.at? n.val g = some a →
    activeLanes s.dev a g (laneBit lane.val) [] = some [lane.val] → k ≤ a.grp.count →
    Gives (.moverWait ⟨n, none⟩ g lane k) s fun d => ∃ r y, Tab.get? d.kern a.no = some r ∧ Tab.get? r.groups g = some y ∧
      (∀ f ∈ a.grp.finished, f.2 = lane.val → ∃ z ∈ y.seen, z.id = f.1) ∧ y.regs = a.grp.regs ∧ r.nextAcc = a.run.nextAcc + 1) ∧
  (∀ (s : State) (n : CoreId) (g : Nat) (lane : Fin 32) (a : KAt) (k : Nat), s.dev.at? n.val g = some a → a.grp.count < k →
    exec (.moverWait ⟨n, none⟩ g lane k) s = .next s) ∧
  (∀ (s : State) (n : CoreId) (g id no : Nat) (r : KRun) (x : KGroup) (t : MoverT), findMover s.dev id = some (no, r, g, x, t) →
    moverWaits s.dev no g t = true ∨ r.stopped = true → exec (.moverTransferComplete ⟨n, none⟩ g id) s = .next s) ∧
  (∀ (s : State) (n : CoreId) (g id : Nat), findMover s.dev id = none →
    exec (.moverTransferComplete ⟨n, none⟩ g id) s = .next s ∧ exec (.peerWrite id) s = .next s)

/-- R219, R221 … R224: scrub, repair and training. A good patrol read counts and changes nothing else; a corrected one is
written back and counted; the end of a pass counts too; a row repair ends with the channel in service; a channel that loses
training trains, and goes on where it was; after two failed retrains its retirement begins. Host accesses that were held are
performed when a channel serves again. R209, R225 … R228, R428: the retirement of channels and the loss of a die. A channel in
service enters RETIRING and looks for a target; the copy carries every byte below the reserved region with its key, and the
target takes the channel's place and the reserved region; the loss of a die marks it, its fences and its channels; a set is
mirrored again when free channels suffice. -/
def Obligations.ScrubRepairAndRetirement : Prop :=
  (∀ (s : State) (c : Chan) (line : Nat) (written : Bool), (s.dev.chan c.val).state ∈ [ChState.inService, .repairing, .retiring] →
    line < chanLines → poisoned s.dev (cellAt c.val (64 * line)) = false →
    let a := cellAt c.val (64 * line)
    let d1 := countCh c.val 0 s.dev
    let d0 := if line + 1 = chanLines then countCh c.val 8 d1 else d1
    (Gives (.patrolScrub c line false written false) s fun d => d = d0) ∧
    (Gives (.patrolScrub c line true true false) s fun d => d = correctedRead a d0) ∧
    (Gives (.patrolScrub c line true false false) s fun d => d = countCh c.val 1 (correctedRead a d0)) ∧
    (∀ corrected, Gives (.patrolScrub c line corrected written true) s fun d => d = badLine a d0)) ∧
  (∀ (s : State) (c : Chan) (line : Nat) (corrected written bad : Bool),
    ((s.dev.chan c.val).state ∉ [ChState.inService, .repairing, .retiring] ∨ chanLines ≤ line) →
    exec (.patrolScrub c line corrected written bad) s = .next s) ∧
  (∀ (s : State) (c : Chan) (line : Nat) (corrected written bad : Bool), (s.dev.chan c.val).state ∈ [ChState.inService, .repairing, .retiring] →
    line < chanLines → poisoned s.dev (cellAt c.val (64 * line)) = true →
    Gives (.patrolScrub c line corrected written bad) s fun d =>
      d = if line + 1 = chanLines then countCh c.val 8 (countCh c.val 0 s.dev) else countCh c.val 0 s.dev) ∧
  (∀ (s : State) (c : Chan) (ok : Bool),
    exec (.softRepairDone c) s = .next (after s (releaseHost ((work s).on (doRepaired c.val)))) ∧
    exec (.channelRetrainDone c ok) s = .next (after s (releaseHost ((work s).on (doRetrain c.val ok))))) ∧
  (∀ (s : State) (c : Chan) (row : Nat) (rest : List Nat), hostQuiet s.dev → (s.dev.chan c.val).repairs = row :: rest →
    Gives (.softRepairDone c) s fun d => (d.chan c.val).repairs = rest ∧ (d.chan c.val).hardPending = true ∧
      (d.chan c.val).state = (if (s.dev.chan c.val).state = .repairing ∧ rest = [] then .inService else (s.dev.chan c.val).state) ∧
      (d.chan c.val).poison = (s.dev.chan c.val).poison ∧ (d.chan c.val).softRows = (s.dev.chan c.val).softRows ∧
      ∀ k, k ≠ c.val → d.chan k = s.dev.chan k) ∧
  (∀ (s : State) (c : Chan), hostQuiet s.dev → (s.dev.chan c.val).repairs = [] → exec (.softRepairDone c) s = .next s) ∧
  (∀ (s : State) (c : Chan), (s.dev.chan c.val).state ∈ [ChState.inService, .repairing, .retiring] →
    Gives (.channelTrainingLoss c) s fun d => d.chan c.val = { s.dev.chan c.val with
      state := .training
      retrains := 0
      resume := (s.dev.chan c.val).state } ∧
      (∀ k, k ≠ c.val → d.chan k = s.dev.chan k) ∧ d.vds = s.dev.vds) ∧
  (∀ (s : State) (c : Chan), (s.dev.chan c.val).state ∉ [ChState.inService, .repairing, .retiring] →
    exec (.channelTrainingLoss c) s = .next s) ∧
  (∀ (s : State) (c : Chan), hostQuiet s.dev → (s.dev.chan c.val).state = .training →
    (s.dev.chan c.val).resume ∉ [ChState.unpowered, .retired] →
    let k := s.dev.chan c.val
    (Gives (.channelRetrainDone c true) s fun d => (d.chan c.val).state = k.resume ∧ (d.chan c.val).retrains = 0) ∧
    (k.retrains = 0 → Gives (.channelRetrainDone c false) s fun d => (d.chan c.val).state = .training ∧ (d.chan c.val).retrains = 1) ∧
    (k.retrains ≠ 0 → Gives (.channelRetrainDone c false) s fun d => d = retireChan c.val 2 ((countCh c.val 9 s.dev).onChan c.val fun k => { k with
      state := k.resume
      retrains := 0 })) ∧
    (k.retrains ≠ 0 → k.resume = .inService → Gives (.channelRetrainDone c false) s fun d =>
      (d.chan c.val).state = .retiring ∧ (d.unit .chan c.val).cause = 2)) ∧
  (∀ (s : State) (c : Chan), hostQuiet s.dev → (s.dev.chan c.val).state = .training → (s.dev.chan c.val).resume = .unpowered →
    s.dev.boot.cold = true → Gives (.channelRetrainDone c true) s fun d => d = s.dev.onChan c.val fun k => { k with state := .scrubbing }) ∧
  (∀ (s : State) (c : Chan) (ok : Bool), hostQuiet s.dev →
    ((s.dev.chan c.val).state ≠ .training ∨ (s.dev.chan c.val).resume = .retired ∨
      ((s.dev.chan c.val).resume = .unpowered ∧ (s.dev.boot.cold = false ∨ ok = false))) →
    exec (.channelRetrainDone c ok) s = .next s) ∧
  (∀ (s : State) (c : Chan), (s.dev.chan c.val).state = .inService →
    Gives (.channelRetire c) s fun d => (d.chan c.val).state = .retiring ∧ (d.chan c.val).copied = false ∧
      (d.chan c.val).target = retireTarget c.val s.dev ∧ (d.unit .chan c.val).cause = 2 ∧ d.vds = s.dev.vds) ∧
  (∀ (s : State) (c : Chan), (s.dev.chan c.val).state = .retired ∨ (s.dev.chan c.val).state = .unpowered →
    Gives (.channelRetire c) s fun d => d.mc = s.dev.mc ∧ d.vds = s.dev.vds) ∧
  (∀ (s : State) (c : Chan) (t : Nat), (s.dev.chan c.val).target = some t → (s.dev.chan c.val).copied = false → t ≠ c.val → t < 1024 →
    s.mem.wf = true →
    Completes (.channelCopyDone c) s fun u => (∀ a, a < tenantBytes →
      u.mem.raw (cellAt t a) = s.mem.raw (cellAt c.val a) ∧ u.mem.keyAt (cellAt t a) = s.mem.keyAt (cellAt c.val a) ∧
      u.mem.raw (cellAt c.val a) = s.mem.raw (cellAt c.val a)) ∧
      ((s.dev.chan c.val).state = .retiring → Tab.get? u.dev.mc.regions c.val = some t ∧
        (s.dev.chanOwner c.val = none → u.dev.sched.leaving = s.dev.sched.leaving ++ [⟨.chan, c.val, 256, 0, [], true, true, false⟩]) ∧
        ∀ v, s.dev.chanOwner c.val = some v → c.val ∉ (u.dev.vd v).chans ∧ t ∈ (u.dev.vd v).chans)) ∧
  (∀ (s : State) (c : Chan), (s.dev.chan c.val).target = none ∨ (s.dev.chan c.val).copied = true → exec (.channelCopyDone c) s = .next s) ∧
  (∀ (s : State) (c : Chan), (s.dev.chan c.val).state = .retiring → (s.dev.chan c.val).target = none →
    (∀ t, retireTarget c.val s.dev = some t → Gives (.retiringNoticeTimer c) s fun d =>
      d = s.dev.onChan c.val fun k => { k with
        target := some t
        copied := false }) ∧
    (retireTarget c.val s.dev = none → ∀ v, s.dev.chanOwner c.val = some v →
      Gives (.retiringNoticeTimer c) s fun d => d = compositionChanged v 2 [(.chan, c.val)] s.dev) ∧
    (retireTarget c.val s.dev = none → s.dev.chanOwner c.val = none → exec (.retiringNoticeTimer c) s = .next s)) ∧
  (∀ (s : State) (c : Chan), ((s.dev.chan c.val).state ≠ .retiring ∨ (s.dev.chan c.val).target ≠ none) → exec (.retiringNoticeTimer c) s = .next s) ∧
  (∀ (s : State) (k : Die), hostQuiet s.dev → (s.dev.die k.val).lost = false → (∀ v x, (v, x) ∈ s.dev.vds → x.queues = []) → s.dev.records = [] →
    Gives (.mcDieLost k) s fun d => (d.die k.val).lost = true ∧ (∀ c, c / 32 = k.val → (d.chan c).state = .retired) ∧
      ∀ i, cellDie i = k.val → d.cellLost i = true) ∧
  (∀ (s : State) (k : Die), hostQuiet s.dev → (s.dev.die k.val).lost = true → exec (.mcDieLost k) s = .next s) ∧
  (∀ (s : State) (v : VDev) (n : SetId), (s.dev.vd v.val).unmirrored.contains n.val = true → (s.dev.set n.val).valid = true →
    (∀ l, pickMirrors s.dev (s.dev.vd v.val) (s.dev.set n.val).members = some l →
      Completes (.remirrorCopyDone v n) s fun t => Tab.get? (t.dev.vd v.val).mirrors n.val = some l ∧
        (t.dev.vd v.val).unmirrored = (s.dev.vd v.val).unmirrored.filter (· != n.val)) ∧
    (pickMirrors s.dev (s.dev.vd v.val) (s.dev.set n.val).members = none → Gives (.remirrorCopyDone v n) s fun d =>
      d = compositionChanged v.val 2 ((s.dev.set n.val).members.map fun m => (UnitKind.chan, m.1)) s.dev)) ∧
  (∀ (s : State) (v : VDev) (n : SetId), ((s.dev.vd v.val).unmirrored.contains n.val = false ∨ (s.dev.set n.val).valid = false) →
    exec (.remirrorCopyDone v n) s = .next s)

/-- R230 … R233, R525: windows. A committed decoder of the virtual function's port is bound, and unbound again; a decoder is
committed with a size that is a multiple of 256 MiB and resized unbound; a read through a bound window answers the bytes at the
virtual address, or poison; a write changes them, or nothing; either is held while its channel trains, its bank is repaired or
the mirror is rebuilt; the host window goes through `GQI_ID_HWBASE`. -/
def Obligations.HostWindows : Prop :=
  (∀ (s : State) (i : Nat) (bs : List Byte), Accepted s.dev mgr (adRow 0x0310 12) i bs →
    let a := (headReq mgr i bs).args
    let h := s.dev.decoder (fieldLe a 0 1) (fieldLe a 1 1)
    fieldLe a 0 1 < 4 → fieldLe a 1 1 < 4 → 1 ≤ fieldLe a 3 1 → fieldLe a 3 1 < 4 → fieldLe a 4 8 % 65536 = 0 →
    fieldLe a 4 8 + h.size ≤ 2 ^ 56 → fieldLe a 2 1 / 64 = fieldLe a 0 1 → h.committed = true → h.bound = none →
    (s.dev.fn (fieldLe a 2 1)).tdi ≠ .configLocked → (s.dev.fn (fieldLe a 2 1)).tdi ≠ .run → (s.dev.vd (fieldLe a 2 1)).frozen = false →
    s.dev.sec.level < 2 →
    Gives .exposeHdm s fun d => d.decoder (fieldLe a 0 1) (fieldLe a 1 1) = { h with
      bound := some (fieldLe a 2 1, fieldLe a 4 8, bitAt (fieldLe a 3 1) 0, bitAt (fieldLe a 3 1) 1) }) ∧
  (∀ (s : State) (i : Nat) (bs : List Byte), Accepted s.dev mgr (adRow 0x0311 2) i bs →
    let a := (headReq mgr i bs).args
    fieldLe a 0 1 < 4 → fieldLe a 1 1 < 4 → (s.dev.decoder (fieldLe a 0 1) (fieldLe a 1 1)).bound.isSome = true →
    Gives .withdrawHdm s fun d => d.decoder (fieldLe a 0 1) (fieldLe a 1 1) =
      { s.dev.decoder (fieldLe a 0 1) (fieldLe a 1 1) with bound := none }) ∧
  (∀ (s : State) (p : HPort) (i : Fin 4) (base size : Nat), (s.dev.link p.val).cxl = true → (s.dev.decoder p.val i.val).committed = false →
    0 < size → size % hdmUnit = 0 →
    Gives (.hdmDecoderCommit p i base size) s fun d => d.decoder p.val i.val = ⟨base, size, true, none⟩ ∧ { d with mc := s.dev.mc } = s.dev) ∧
  (∀ (s : State) (p : HPort) (i : Fin 4), (s.dev.decoder p.val i.val).committed = true →
    (Gives (.hdmDecoderDecommit p i none) s fun d => d.decoder p.val i.val = Hdm.reset) ∧
    ∀ n, 0 < n → n % hdmUnit = 0 → Gives (.hdmDecoderDecommit p i (some n)) s fun d =>
      d.decoder p.val i.val = { s.dev.decoder p.val i.val with
        size := n
        bound := none }) ∧
  (∀ (s : State) (p : HPort) (i : Fin 4), ((s.dev.link p.val).cxl = false ∨ (s.dev.decoder p.val i.val).committed = true) →
    ∀ base size, exec (.hdmDecoderCommit p i base size) s = .next s) ∧
  (∀ (s : State) (p : HPort) (i : Fin 4) (base size : Nat), size = 0 ∨ size % hdmUnit ≠ 0 →
    exec (.hdmDecoderCommit p i base size) s = .next s ∧ exec (.hdmDecoderDecommit p i (some size)) s = .next s) ∧
  (∀ (s : State) (p : HPort) (i : Fin 4) (n : Option Nat), (s.dev.decoder p.val i.val).committed = false →
    exec (.hdmDecoderDecommit p i n) s = .next s) ∧
  (∀ (s : State) (p : HPort) (a v va : Nat) (f : ReadFault) (r wr : Bool), (s.dev.link p.val).cxl = true →
    windowAt s.dev p.val (lineOf a) = some (v, va, r, wr) →
    let reached := meetSpan (hubEng v) v (parts va 64) f ((work s).on (useXlt (hubEng v) v [(va, 64)]))
    let blocked := (checkAs (hubEng v) s.dev v needW (parts va 64)).orElse fun _ => partPoison s.dev v (parts va 64)
    (r = true → checkAs (hubEng v) s.dev v needR (parts va 64) = none →
      (∀ bs, readAs (hubEng v) reached v needR va 64 = .ok bs → exec (.cxlMemRead p ⟨a, f⟩) s =
        .next (after s (reached.on fun d => d.emit (.cxlRead p.val (lineOf a) bs false)))) ∧
      (∀ e, readAs (hubEng v) reached v needR va 64 = .error e → exec (.cxlMemRead p ⟨a, f⟩) s =
        .next (after s (reached.on fun d => (windowMiss true v e d).emit (.cxlRead p.val (lineOf a) [] true))))) ∧
    (r = true → ∀ e, checkAs (hubEng v) s.dev v needR (parts va 64) = some e → Gives (.cxlMemRead p ⟨a, f⟩) s fun d =>
      d = if e.waits = true then s.dev.onMc (fun m => { m with held := m.held ++ [.cxlRead p.val (lineOf a) v va f] })
        else (windowMiss true v e s.dev).emit (.cxlRead p.val (lineOf a) [] true)) ∧
    (r = false → Gives (.cxlMemRead p ⟨a, f⟩) s fun d => d = (countWindow s.dev).emit (.cxlRead p.val (lineOf a) [] true)) ∧
    (∀ line, line.length = 64 → wr = true → blocked = none → exec (.cxlMemWrite p a line) s = .next (after s
      ((writeAs (hubEng v) v va line none ((work s).on (useXlt (hubEng v) v [(va, 64)]))).1.on fun d => d.emit (.cxlWriteDone p.val (lineOf a))))) ∧
    (∀ line e, line.length = 64 → wr = true → blocked = some e → Gives (.cxlMemWrite p a line) s fun d =>
      d = if e.waits = true then s.dev.onMc (fun m => { m with held := m.held ++ [.cxlWrite p.val (lineOf a) v va line] })
        else (windowMiss false v e s.dev).emit (.cxlWriteDone p.val (lineOf a))) ∧
    (∀ line, wr = false → Gives (.cxlMemWrite p a line) s fun d => d = (countWindow s.dev).emit (.cxlWriteDone p.val (lineOf a)))) ∧
  (∀ (s : State) (p : HPort) (a : Nat) (f : ReadFault) (line : List Byte), (s.dev.link p.val).cxl = true → windowAt s.dev p.val (lineOf a) = none →
    (Gives (.cxlMemRead p ⟨a, f⟩) s fun d => d = s.dev.emit (.cxlRead p.val (lineOf a) [] true)) ∧
    (Gives (.cxlMemWrite p a line) s fun d => d = s.dev.emit (.cxlWriteDone p.val (lineOf a)))) ∧
  (∀ (s : State) (p : HPort) (a : HostAt) (n : Nat) (line : List Byte), (s.dev.link p.val).cxl = false →
    exec (.cxlMemRead p a) s = .next s ∧ exec (.cxlMemWrite p n line) s = .next s) ∧
  (∀ (v n : Nat) (d : Dev) (y : Why), y = .poison ∨ y = .erased → windowMiss true v (.bad n y) d = d ∧
    windowMiss false v (.bad n y) d = countWindow d) ∧
  (∀ (s : State) (v : VDev) (off n : Nat) (ide : Option Nat) (f : ReadFault), s.dev.barTakes v.val ide = true → off + n ≤ windowBytes →
    let va := (s.dev.fn v.val).hwbase.toNat + off
    let e := hubEng v.val
    let reached := meetSpan e v.val (parts va n) f ((work s).on (useXlt e v.val [(va, n)]))
    let i := Instr.hostWindowRead v ⟨off, ide⟩ ⟨n, f⟩
    (checkAs e s.dev v.val needR (parts va n) = none →
      (∀ bs, readAs e reached v.val needR va n = .ok bs → exec i s =
        .next (after s (reached.on fun d => d.emit (.windowRead v.val off bs false)))) ∧
      (∀ x, readAs e reached v.val needR va n = .error x → exec i s =
        .next (after s (reached.on fun d => (windowMiss false v.val x d).emit (.windowRead v.val off [] true))))) ∧
    (∀ x, checkAs e s.dev v.val needR (parts va n) = some x → Gives i s fun d =>
      d = if x.waits = true then s.dev.onMc (fun m => { m with held := m.held ++ [.windowRead v.val va off n f] })
        else (windowMiss false v.val x s.dev).emit (.windowRead v.val off [] true))) ∧
  (∀ (s : State) (v : VDev) (off : Nat) (ide : Option Nat) (bs : List Byte), s.dev.barTakes v.val ide = true → off + bs.length ≤ windowBytes →
    let va := (s.dev.fn v.val).hwbase.toNat + off
    let e := hubEng v.val
    let blocked := (checkAs e s.dev v.val needW (parts va bs.length)).orElse fun _ => partPoison s.dev v.val (parts va bs.length)
    (blocked = none → exec (.hostWindowWrite v ⟨off, ide⟩ bs) s = .next (after s
      (writeAs e v.val va bs none ((work s).on (useXlt e v.val [(va, bs.length)]))).1)) ∧
    ∀ x, blocked = some x → Gives (.hostWindowWrite v ⟨off, ide⟩ bs) s fun d =>
      d = if x.waits = true then s.dev.onMc (fun m => { m with held := m.held ++ [.windowWrite v.val va bs] })
        else windowMiss false v.val x s.dev) ∧
  (∀ (s : State) (v : VDev) (off : BarAt) (n : HostAt) (bs : List Byte), s.dev.barTakes v.val off.ide = false →
    exec (.hostWindowRead v off n) s = .next s ∧ exec (.hostWindowWrite v off bs) s = .next s)

/-- R444, R446, R447, R452, R508: the power bounds and the allocation. A submission commits where its bounds are in range and is
refused otherwise, and it waits while the power-management core is down; an allocation lies between floor and ceiling of each
domain and within the cap less 400 W; a rise of a clock waits for its rail; energy is counted; the phase table keeps 4,096 keys.
-/
def Obligations.PowerAllocation : Prop :=
  (∀ (s : State) (w : BitVec 32), w.getLsbD 0 = false → Gives (.pwrApply w) s fun d => d = s.dev) ∧
  (∀ (s : State) (w : BitVec 32), w.getLsbD 0 = true → s.dev.pmUp = true → s.dev.pwr.subs = [] →
    (s.dev.pwr.pend.ok = true → Gives (.pwrApply w) s fun d => d.pwr = { s.dev.pwr with bounds := s.dev.pwr.pend }) ∧
    (s.dev.pwr.pend.ok = false → Gives (.pwrApply w) s fun d => d.pwr = { s.dev.pwr with refused := true })) ∧
  (∀ (s : State) (w : BitVec 32), w.getLsbD 0 = true → s.dev.pmUp = true → Gives (.pwrApply w) s fun d =>
    d = (s.dev.pwr.subs ++ [s.dev.pwr.pend]).foldl (fun d b => commitBounds b d) (s.dev.onPwr fun p => { p with subs := [] })) ∧
  (∀ (s : State) (w : BitVec 32), w.getLsbD 0 = true → s.dev.pmUp = false →
    Gives (.pwrApply w) s fun d => d.pwr = { s.dev.pwr with subs := s.dev.pwr.subs ++ [s.dev.pwr.pend] }) ∧
  (∀ (s : State), s.dev.pmUp = true → Gives .powerAllocation s fun d =>
    let b := s.dev.pwr.bounds
    let al := allocate b s.dev.demand
    d.pwr.alloc = [(0, al 0 - s.dev.pwr.overDraw), (1, al 1), (2, al 2)] ∧ d.pwr.bounds = b ∧
    (b.ok = true → al 0 + al 1 + al 2 + 400 ≤ b.cap.toNat ∧ ∀ i, i < 3 → b.floor i ≤ al i ∧ al i ≤ b.ceil i)) ∧
  (∀ (s : State) (uj : Nat), s.dev.pmUp = false → exec .powerAllocation s = .next s ∧ exec .powerEstimateTick s = .next s ∧
    exec (.pfpTelemetry uj) s = .next s ∧ exec .phaseKeyUpdate s = .next s) ∧
  (∀ (s : State) (c : Cluster), Tab.get? s.dev.pwr.request c.val = none → exec (.voltageAck c) s = .next s) ∧
  (∀ (s : State) (c : Cluster) (mv : Nat), Tab.get? s.dev.pwr.request c.val = some mv →
    Gives (.voltageAck c) s fun d => Tab.get? d.pwr.volts c.val = some mv ∧ d.pwr.request = Tab.del s.dev.pwr.request c.val ∧
      ∀ n, n / 68 = c.val → (d.core n).clock = max (s.dev.core n).clock (s.dev.core n).wanted ∧ (d.core n).wanted = 0) ∧
  (∀ (s : State), s.dev.pmUp = true →
    (Gives .powerEstimateTick s fun d => d.draws = s.dev.draws + 1 ∧ d.pwr.bounds = s.dev.pwr.bounds ∧
      let e (i : Nat) : Nat := 4 * Config.powerEstimate s.dev.draws i (Tab.getD s.dev.pwr.gains i 0)
      d.pwr.energy = s.dev.pwr.energy + BitVec.ofNat 64 (e 0 + e 1 + e 2 + 1600) ∧
      ∀ i, i < 3 → Tab.getD d.pwr.est i 0 = Tab.getD s.dev.pwr.est i 0 + e i) ∧
    (∀ uj, Gives (.pfpTelemetry uj) s fun d => d.pwr.est = [] ∧ (0 < d.pwr.overDraw ↔ 17400000 < uj) ∧
      d.pwr.overSince.isSome = d.pwr.overridden) ∧
    (s.dev.pwr.keys.length ≤ 4096 → Gives .phaseKeyUpdate s fun d => d.pwr.keys.length ≤ 4096 ∧ d.pwr.bounds = s.dev.pwr.bounds))

/-- R448, R509, R510, Tables 18-4 and 18-5: the safety actions. A current alert holds the half's cores at 500 MHz and half
matrix duty; a die that throttles is stepped until 3 °C below its target; a die at its critical temperature is held until it is
below its throttle temperature; the shutdown temperature asserts the line to the platform; POLICY_OVERRIDDEN follows the actions
in force. R453 … R456: idle states. An idle core enters state 1 at once and a deeper one only where the bound, its idle time and
its reserve allow it, and it wakes; a channel with no request and no core that wants it enters self-refresh where that is
permitted. -/
def Obligations.SafetyAndIdleStates : Prop :=
  (∀ (s : State) (c : Cluster), Gives (.currentAlert c) s fun d => d.pwr.alerts.contains c.val = true ∧
    d.pwr.overSince.isSome = true ∧ ∀ n, n / 68 = c.val → (s.dev.core n).powered = true → (d.core n).clock ≤ 20 ∧ (d.core n).duty ≤ 8) ∧
  (∀ (s : State) (c : Cluster), s.dev.pmUp = true → Gives (.currentAlertRelease c) s fun d => d.pwr.alerts.contains c.val = false ∧
    d.pwr.overSince.isSome = d.pwr.overridden) ∧
  (∀ (s : State) (c : Cluster), s.dev.pmUp = false → exec (.currentAlertRelease c) s = .next s) ∧
  (∀ (s : State) (t : ThermDie) (x : Int),
    let old := s.dev.therm (thermNum t)
    (old.throttled = true → Gives (.thermalThrottle t x) s fun d => d.therm (thermNum t) = { old with temp := some x }) ∧
    (old.throttled = false → Gives (.throttleStepTimer t x) s fun d => d.therm (thermNum t) = { old with temp := some x }) ∧
    (x < (thermLimits t).2.2.1 → Gives (.thermalCritical t x) s fun d => d.therm (thermNum t) = { old with temp := some x }) ∧
    ((thermLimits t).2.1 ≤ x → Gives (.criticalTemperatureRelease t x) s fun d => d.therm (thermNum t) = { old with temp := some x })) ∧
  (∀ (s : State) (t : ThermDie) (x : Int),
    let old := s.dev.therm (thermNum t)
    ((thermLimits t).2.1 ≤ x → old.throttled = false → Gives (.thermalThrottle t x) s fun d =>
      d.therm (thermNum t) = ⟨some x, true, old.critical, 1⟩ ∧ d.pwr.overSince.isSome = true) ∧
    (x < (thermLimits t).2.1 → Gives (.thermalThrottle t x) s fun d => d.therm (thermNum t) = { old with temp := some x })) ∧
  (∀ (s : State) (t : ThermDie) (x : Int),
    let old := s.dev.therm (thermNum t)
    old.throttled = true →
    (x ≤ (thermLimits t).1 - 30 → Gives (.throttleStepTimer t x) s fun d => d.therm (thermNum t) = ⟨some x, false, old.critical, 0⟩) ∧
    ((thermLimits t).1 - 30 < x → x ≤ (thermLimits t).1 → Gives (.throttleStepTimer t x) s fun d =>
      d.therm (thermNum t) = { old with temp := some x }) ∧
    ((thermLimits t).1 < x → Gives (.throttleStepTimer t x) s fun d =>
      d.therm (thermNum t) = ⟨some x, true, old.critical, old.steps + 1⟩)) ∧
  (∀ (s : State) (t : ThermDie) (x : Int),
    let old := s.dev.therm (thermNum t)
    ((thermLimits t).2.2.1 ≤ x → Gives (.thermalCritical t x) s fun d =>
      d.therm (thermNum t) = ⟨some x, true, true, max old.steps 1⟩ ∧ d.pwr.overSince.isSome = true) ∧
    (x < (thermLimits t).2.1 → Gives (.criticalTemperatureRelease t x) s fun d =>
      d.therm (thermNum t) = { old with
        temp := some x
        critical := false } ∧ d.pwr.overSince.isSome = d.pwr.overridden)) ∧
  (∀ (s : State) (k : Die) (x : Int), Gives (.hbmTempRead k x) s fun d => (d.therm (48 + k.val)).temp = some x ∧
    (900 ≤ x → (d.therm (48 + k.val)).throttled = true) ∧ (950 ≤ x → (d.therm (48 + k.val)).critical = true) ∧
    (x < 900 → (d.therm (48 + k.val)).critical = false) ∧ (x ≤ 820 → (d.therm (48 + k.val)).throttled = false)) ∧
  (∀ (s : State) (t : ThermDie), Gives (.thermtrip t) s fun d => d = s.dev.emit (.thermtrip (thermNum t))) ∧
  (∀ (s : State) (n : CoreId), s.dev.coreIdle n.val = true → Gives (.coreIdleEntry n) s fun d =>
    1 ≤ (d.core n.val).idle ∧ (d.core n.val).idle ≤ 3 ∧ ((s.dev.core n.val).idle = 0 → (d.core n.val).idle = 1) ∧
    (1 < (d.core n.val).idle → (d.core n.val).idle ≤ bits s.dev.pwr.bounds.idle.toNat 1 0 ∧ s.dev.lcReserved n.val = false ∧
      ∀ t, s.dev.knownEvent n.val = some t → 4 * wakeTicks (d.core n.val).idle ≤ t) ∧
    (d.core n.val).zeroed = ((s.dev.core n.val).zeroed && (d.core n.val).idle != 3) ∧ ∀ k, k ≠ n.val → d.core k = s.dev.core k) ∧
  (∀ (s : State) (n : CoreId), s.dev.coreIdle n.val = false → Gives (.coreIdleEntry n) s fun d => d = s.dev) ∧
  (∀ (s : State) (n : CoreId), Gives (.coreWake n) s fun d => (d.core n.val).idle = 0 ∧ ∀ k, k ≠ n.val → d.core k = s.dev.core k) ∧
  (∀ (s : State) (c : Chan),
    let allowed := bitAt s.dev.pwr.bounds.idle.toNat 2 && (s.dev.chan c.val).state == .inService &&
      !s.dev.channelBusy c.val && !s.dev.channelWanted c.val
    (allowed = true → Gives (.channelIdleTimer c) s fun d => d = s.dev.onChan c.val fun x => { x with selfRefresh := true }) ∧
    (allowed = false → Gives (.channelIdleTimer c) s fun d => d = s.dev))

/-- R429 … R435, R478: recovery. A device reset stops every engine, forgets every attempt and waits for the host to load the
firmware; a second one within 10 minutes is a power cycle, which loses every volatile value and keeps what is non-volatile; a
device without power or halted by A3 does nothing; the failure of a hub die is a device reset; the suspects of an engine that
hangs run alone one after the other. -/
def Obligations.Recovery : Prop :=
  (∀ (s : State), s.dev.clk.powered = false ∨ s.dev.sec.level = 3 → Gives .deviceReset s fun d => d = s.dev) ∧
  (∀ (s : State), s.dev.clk.powered = true → s.dev.sec.level ≠ 3 →
    ((∀ t, t ∈ s.dev.boot.resets → within s.dev.clk.hlc0 t 600000000 = false) → Completes .deviceReset s fun t =>
      t.dev.fw.state = 0 ∧ t.dev.boot.ready = false ∧ t.dev.boot.active = false ∧ t.dev.kern = [] ∧ t.dev.dredges = [] ∧
      t.dev.records = [] ∧ t.dev.mc.reqs = [] ∧ t.dev.mc.host = [] ∧ t.dev.mc.undo = [] ∧ t.dev.fab.exchanges = [] ∧
      t.dev.sec.sessions = [] ∧ (s.dev.vds = [] → s.dev.mc.undo = [] → t.mem = s.mem ∧ t.dev.sec.log = s.dev.sec.log ∧
        t.dev.mc.keys = s.dev.mc.keys ∧ t.dev.boot.resets = s.dev.boot.resets ++ [s.dev.clk.hlc0])) ∧
    ((∃ t, t ∈ s.dev.boot.resets ∧ within s.dev.clk.hlc0 t 600000000 = true) → exec .deviceReset s = exec .powerCycle s)) ∧
  (∀ (s : State) (h : Hub), exec (.hubDieFailure h) s = exec .deviceReset s) ∧
  (∀ (s : State), s.mem.wf = true → Completes .powerCycle s fun t => (∀ a, t.mem.raw a = emptyByte) ∧ t.dev.clk.powered = false ∧
    t.dev.vds = [] ∧ t.dev.fw.state = 0 ∧ t.dev.sec.level = 0 ∧ t.dev.sec.log = [] ∧ t.dev.sec.levels = s.dev.sec.levels ∧
    t.dev.sec.a2Count = s.dev.sec.a2Count ∧ t.dev.sec.a3Count = s.dev.sec.a3Count ∧ t.dev.sec.serial = s.dev.sec.serial ∧
    (∀ i, t.dev.keySlot i = KeySlot.reset) ∧
    ((s.dev.mc.chans.map Prod.fst).Nodup → ∀ c, (t.dev.chan c).spareUsed = (s.dev.chan c).spareUsed) ∧ ∀ k n, (t.dev.unit k n).cause = 0 ∧ (t.dev.unit k n).returning = false) ∧
  (∀ (s : State) (e : Engine), suspectsOf s.dev e = [] → Gives (.engineHang e) s fun d => d = s.dev) ∧
  (∀ (s : State) (e : Engine) (a : Suspect) (l : List Suspect), suspectsOf s.dev e = a :: l → s.dev.dredges = [] →
    Completes (.engineHang e) s fun t => t.dev.dredges = [⟨e, l, some a, 0, none, false⟩]) ∧
  (∀ (s : State) (e : Engine) (r : Dredge), r ∈ s.dev.dredges → r.engine = e → exec (.engineHang e) s = .next s) ∧
  (∀ (s : State) (e : Engine) (b : Bool) (r : Dredge), (s.dev.dredges.find? fun r => r.engine == e) = some r → r.alone = none →
    exec (.dredgeSuspectEnd e b) s = .next s) ∧
  (∀ (s : State) (e : Engine) (r : Dredge) (a : Suspect), (s.dev.dredges.find? fun r => r.engine == e) = some r → r.alone = some a →
    (s.dev.suspect? a = none → exec (.dredgeSuspectEnd e false) s = .next s) ∧
    (∀ c, s.dev.suspect? a = some c → c.attempting = false → exec (.dredgeSuspectEnd e false) s = .next s) ∧
    (∀ c, s.dev.suspect? a = some c → c.phase = .running → c.failOut = none → exec (.dredgeSuspectEnd e true) s = .next s)) ∧
  (∀ (s : State) (e : Engine) (b : Bool), (∀ r, r ∈ s.dev.dredges → r.engine ≠ e) → Gives (.dredgeSuspectEnd e b) s fun d => d = s.dev) ∧
  (∀ (s : State) (e : Engine) (r : Dredge) (a : Suspect), (s.dev.dredges.find? fun r => r.engine == e) = some r → r.alone = some a →
    r.second = none → s.dev.suspect? a = none →
    (∀ x l, r.waiting = x :: l → (s.dev.suspect? x).isSome = true → Gives (.dredgeSuspectEnd e true) s fun d =>
      d = onDredge r.engine (fun _ => { r with
        waiting := l.filter fun y => (s.dev.suspect? y).isSome
        alone := some x
        hangs := 0
        second := none }) s.dev) ∧
    (r.waiting = [] → r.guilty = true → Gives (.dredgeSuspectEnd e true) s fun d =>
      d = { s.dev with dredges := s.dev.dredges.filter fun r => r.engine != e })) ∧
  (∀ (s : State) (n m : CoreId) (r : Dredge) (a : Suspect) (c : Cmd), s.dev.dredges = [r] → r.engine = .core n → r.alone = some a →
    r.second = none → s.dev.suspect? a = some c → c.attempting = true → otherCore s.dev a n.val = some m.val →
    Completes (.dredgeSuspectEnd (.core n) false) s fun t => t.dev.dredges = [{ r with
      hangs := 1
      second := some m.val }])

/-- R495 … R503, R506, R507, R512, R515: start-up. Power-good starts the counts and the security core, its loss ends everything;
stacks are powered group by group and their channels train; a channel is admitted; the levels of service begin; a unit that is
late is retired, and the power is cycled where that leaves no two stacks after a device reset; the clock stops and returns; a
host port comes and goes. -/
def Obligations.StartUp : Prop :=
  (∀ (s : State) (l : BitVec 3), s.dev.clk.powered = false → Gives (.powerGood l) s fun d => d.clk = ⟨0, 0, true, true⟩ ∧
    d.keySlot 0 = ⟨.loaded, 0, .slot0⟩ ∧ d.sec.attKey = true ∧
    ∀ i, i < 3 → bitAt l.toNat i = true → i ∈ d.sec.lines ∧ (BitVec.ofNat 8 (i + 1), 0) ∈ d.sec.raised) ∧
  (∀ (s : State) (l : BitVec 3), s.dev.clk.powered = true → Gives (.powerGood l) s fun d => d = s.dev) ∧
  (∀ (s : State), s.mem.wf = true → Completes .powerGoodDeassert s fun t => (∀ a, t.mem.raw a = emptyByte) ∧
    t.dev.clk.powered = false ∧ t.dev.vds = [] ∧ (∀ i, t.dev.keySlot i = KeySlot.reset) ∧ t.dev.sec.levels = s.dev.sec.levels) ∧
  (∀ (s : State) (g : Fin 4), s.dev.clk.powered = false → exec (.stackGroupPowerUp g) s = .next s) ∧
  (∀ (s : State) (g : Fin 4), s.dev.clk.powered = true → Gives (.stackGroupPowerUp g) s fun d => ∀ c, c < 1024 →
    (d.chan c).state = if (s.dev.chan c).state = .unpowered ∧ c / 32 / 4 % 4 = g.val then .training else (s.dev.chan c).state) ∧
  (∀ (s : State) (c : Chan), (s.dev.chan c.val).state = .training ∨ (s.dev.chan c.val).state = .scrubbing →
    (s.dev.chan c.val).resume = .unpowered → (s.dev.boot.active = true → (s.dev.unit .chan c.val).adminOut = false →
      Gives (.channelReady c .ready) s fun d => (d.chan c.val).state = .inService ∧ (d.chan c.val).retrains = 0) ∧
    ((s.dev.unit .chan c.val).adminOut = true → Gives (.channelReady c .ready) s fun d =>
      (d.chan c.val).state = .retired ∧ (d.unit .chan c.val).cause = 3) ∧
    ((s.dev.chan c.val).retrains = 0 → Gives (.channelReady c .trainingFailed) s fun d =>
      (d.chan c.val).state = (s.dev.chan c.val).state ∧ (d.chan c.val).retrains = 1) ∧
    (s.dev.chanOwner c.val = none → (Gives (.channelReady c .testFailed) s fun d => (d.chan c.val).state = .retired ∧
        (d.unit .chan c.val).cause = 1) ∧
      ((s.dev.chan c.val).retrains ≠ 0 → Gives (.channelReady c .trainingFailed) s fun d => (d.chan c.val).state = .retired ∧
        (d.unit .chan c.val).cause = 1))) ∧
  (∀ (s : State) (c : Chan), (s.dev.chan c.val).state = .training → (s.dev.chan c.val).resume = .retiring →
    Gives (.channelReady c .ready) s fun d => (d.chan c.val).state = .retiring ∧ (d.chan c.val).resume = .unpowered) ∧
  (∀ (s : State) (c : Chan) (x : ReadyResult),
    ¬((s.dev.chan c.val).state = .training ∧ (s.dev.chan c.val).resume ∈ [ChState.unpowered, .retiring]) →
    ¬((s.dev.chan c.val).state = .scrubbing ∧ (s.dev.chan c.val).resume = .unpowered) → exec (.channelReady c x) s = .next s) ∧
  (∀ (s : State), s.dev.boot.active = true → s.dev.boot.ready = false → s.dev.sec.level ≠ 3 →
    Gives .earlyServiceStart s fun d => d.boot.ready = true ∧ d.boot.early = true ∧
      ∀ n, (s.dev.core n).powered = true → (d.core n).clock = 20) ∧
  (∀ (s : State), (s.dev.boot.active = false ∨ s.dev.boot.ready = true ∨ s.dev.sec.level = 3) → exec .earlyServiceStart s = .next s) ∧
  (∀ (s : State), s.dev.boot.early = true → 20 ≤ s.dev.boot.calib → (∀ n, n < 2176 → s.dev.settled .core n = true) →
    (∀ n, n < 1024 → s.dev.settled .chan n = true) → (∀ n, n < 16 → s.dev.settled .port n = true) →
    Gives .fullServiceStart s fun d => d.boot.early = false) ∧
  (∀ (s : State), (s.dev.boot.early = false ∨ s.dev.boot.calib < 20 ∨ (∃ n, n < 2176 ∧ s.dev.settled .core n = false) ∨
      (∃ n, n < 1024 ∧ s.dev.settled .chan n = false) ∨ ∃ n, n < 16 ∧ s.dev.settled .port n = false) → exec .fullServiceStart s = .next s) ∧
  (∀ (s : State) (u : BitVec 32) (n : Nat), unitOf u.toNat = some (.core, n) → s.dev.clk.powered = true → s.dev.boot.ready = false →
    s.dev.settled .core n = false → s.dev.boundTo .core n = none →
    Gives (.startUpBoundExpiry u) s fun d => (d.core n).state = .retired ∧ (d.unit .core n).cause = 1) ∧
  (∀ (s : State) (u : BitVec 32) (n : Nat), s.dev.clk.powered = true → s.dev.boot.ready = false →
    (unitOf u.toNat = some (.chan, n) → s.dev.settled .chan n = false → s.dev.chanOwner n = none →
      (s.dev.boot.active = true ∨ s.dev.boot.cold = true) →
      Gives (.startUpBoundExpiry u) s fun d => (d.chan n).state = .retired ∧ (d.unit .chan n).cause = 1) ∧
    (unitOf u.toNat = some (.port, n) → s.dev.settled .port n = false →
      Gives (.startUpBoundExpiry u) s fun d => (d.port n).state = 6 ∧ (d.unit .port n).cause = 1)) ∧
  (∀ (s : State) (u : BitVec 32), (unitOf u.toNat = none ∨ s.dev.clk.powered = false ∨ (s.dev.boot.ready = true ∧ s.dev.boot.early = false)) →
    exec (.startUpBoundExpiry u) s = .next s) ∧
  (∀ (s : State) (u : BitVec 32) (k : UnitKind) (n : Nat), unitOf u.toNat = some (k, n) → s.dev.settled k n = true →
    (k = .chan → s.dev.boot.active = true ∨ s.dev.boot.cold = true) → Gives (.startUpBoundExpiry u) s fun d => d = s.dev) ∧
  (∀ (s : State) (u : BitVec 32) (n : Nat), unitOf u.toNat = some (.chan, n) → s.dev.clk.powered = true → s.dev.boot.ready = false →
    s.dev.boot.active = false → s.dev.boot.cold = false → (expireUnit .chan n s.dev).twoStacksLeft = false →
    Completes (.startUpBoundExpiry u) s fun t => t.dev.clk.powered = false ∧ t.dev.boot.cold = true) ∧
  (∀ (s : State), s.dev.clk.running = true → (∀ p, p < 16 → (s.dev.port p).trained = false) →
    Gives .referenceClockLoss s fun d => d = { s.dev with clk := { s.dev.clk with running := false } }) ∧
  (∀ (s : State), s.dev.clk.running = true → exec .referenceClockLoss s = .next (after s
    (((List.range 16).filter fun p => (s.dev.port p).trained).foldl (fun w p => retrain p w)
      ((work s).on fun d => { d with clk := { d.clk with running := false } })))) ∧
  (∀ (s : State), s.dev.clk.running = false → exec .referenceClockLoss s = .next s) ∧
  (∀ (s : State), Gives .referenceClockReturn s fun d => d = { s.dev with clk := { s.dev.clk with running := true } }) ∧
  (∀ (s : State) (p : HPort), Completes (.hostPortReset p) s fun t => t.dev.link p.val = HostLink.reset ∧
    ∀ h, h ∈ t.dev.mc.hdm → h.1 / 4 ≠ p.val) ∧
  (∀ (s : State) (p : HPort) (r w : Nat) (x : Bool), s.dev.clk.powered = true → hostRates.contains r = true → hostWidths.contains w = true →
    Gives (.hostPortLinkUp p r w x) s fun d => d.link p.val = ⟨true, r, w, x && cxlRuns r w⟩ ∧
      ∀ q, q ≠ p.val → d.link q = s.dev.link q) ∧
  (∀ (s : State) (p : HPort) (r w : Nat) (x : Bool), (s.dev.clk.powered = false ∨ hostRates.contains r = false ∨ hostWidths.contains w = false) →
    exec (.hostPortLinkUp p r w x) s = .next s)

/-- R398 … R400, R408 … R412: firmware. A load is taken while the state is WAIT or REFUSED; the image runs or is refused with
the first reason that applies; a processor that crashes is down until it restarts from its section, which must have the recorded
digest; a cluster's section is read from a channel that serves; the standby takes over, or the device is reset where no copy of
the journal can be read; the journal grows to a checkpoint. -/
def Obligations.FirmwareControl : Prop :=
  (∀ (s : State) (w : BitVec 32), bitAt w.toNat 0 = true → s.dev.clk.powered = true → s.dev.sec.level ≠ 3 →
    (s.dev.fw.state = 0 ∨ s.dev.fw.state = 3) → Gives (.fwLoad w) s fun d => d.fw = { s.dev.fw with
      state := 1
      reason := 0 } ∧ d.out = s.dev.out ++ [.imageRead s.dev.fw.addr.toNat s.dev.fw.len.toNat]) ∧
  (∀ (s : State) (w : BitVec 32), (bitAt w.toNat 0 = false ∨ s.dev.clk.powered = false ∨ s.dev.sec.level = 3 ∨
      (s.dev.fw.state ≠ 0 ∧ s.dev.fw.state ≠ 3)) → exec (.fwLoad w) s = .next s) ∧
  (∀ (s : State) (image : Option (List Byte)), (s.dev.fw.state ≠ 1 ∨ s.dev.secUp = false) → exec (.fwImageReadDone image) s = .next s) ∧
  (∀ (s : State) (image : Option (List Byte)), s.dev.fw.state = 1 → s.dev.secUp = true →
    Gives (.fwImageReadDone image) s fun d => match imageRefusal image with
      | some r => d.fw.state = 3 ∧ d.fw.reason = r ∧ (6, 0) ∈ d.sec.raised
      | none => d.fw.state = 2 ∧ d.sec.attKey = true ∧ d.boot.calib = 0 ∧ (∀ p, p < 36 → (d.proc p).up = true) ∧
        d.fw.svn = BitVec.ofNat 32 (fieldLe (image.getD []) 8 4) ∧ d.fw.aclMax = BitVec.ofNat 16 (fieldLe (image.getD []) 6 2)) ∧
  (imageRefusal none = some 4 ∧ ∀ bs, (imageFormatOk bs = false → imageRefusal (some bs) = some 1) ∧
    (imageFormatOk bs = true → imageSigned (bs.take (imageLength bs)) = false → imageRefusal (some bs) = some 2) ∧
    (imageFormatOk bs = true → imageSigned (bs.take (imageLength bs)) = true → fieldLe bs 8 4 < Config.svnFloor → imageRefusal (some bs) = some 3)) ∧
  (∀ (s : State) (p : Proc), exec (.fwTrap p) s = exec (.fwWatchdogExpiry p) s) ∧
  (∀ (s : State) (p : Proc), s.dev.fw.state = 2 ∨ p = .security → s.dev.clk.powered = true → s.dev.sec.level ≠ 3 →
    (s.dev.proc (procNo p)).up = true →
    let now := s.dev.hlc (procHub (procNo p))
    let recent := (s.dev.proc (procNo p)).crashes.filter fun t => within now t 3600000000
    recent.length < 2 → (procNo p = 1 ∨ procNo p = 3 → (s.dev.proc (4 - procNo p)).restarting = false) → Gives (.fwWatchdogExpiry p) s fun d => d.proc (procNo p) = ⟨false, recent ++ [now], true, false⟩ ∧
      ∀ k, k ≠ procNo p → d.proc k = s.dev.proc k) ∧
  (∀ (s : State) (p : Proc), ((s.dev.fw.state ≠ 2 ∧ p ≠ .security) ∨ s.dev.clk.powered = false ∨ s.dev.sec.level = 3 ∨
      (s.dev.proc (procNo p)).up = false) →
    exec (.fwWatchdogExpiry p) s = .next s) ∧
  (∀ (s : State), s.dev.clk.powered = true → s.dev.sec.level ≠ 3 → (s.dev.proc 0).up = true →
    2 ≤ ((s.dev.proc 0).crashes.filter fun t => within (s.dev.hlc 0) t 3600000000).length →
    Gives (.fwWatchdogExpiry .security) s fun d => (7, 0) ∈ d.sec.raised ∧ (d.proc 0).up = false ∧ (d.proc 0).restarting = true) ∧
  (∀ (s : State) (p : Proc) (bs : List Byte), (s.dev.proc (procNo p)).restarting = true →
    (procNo p < 4 ∨ ∃ c ∈ s.dev.fw.area, (s.dev.chan c).serves = true) →
    (s.dev.sectionOk (procNo p) bs = false → Gives (.fwRestart p bs) s fun d => (d.proc (procNo p)).restarting = false ∧
      (d.proc (procNo p)).up = (s.dev.proc (procNo p)).up ∧ (6, 0) ∈ d.sec.raised) ∧
    (s.dev.sectionOk (procNo p) bs = true → p ≠ .security →
      (procNo p ≠ s.dev.activeProc ∨ ∃ c ∈ s.dev.fw.copies, s.dev.copyUnreadable c = false) → Completes (.fwRestart p bs) s fun t =>
      (t.dev.proc (procNo p)).restarting = false ∧ (t.dev.proc (procNo p)).up = true ∧ (t.dev.proc (procNo p)).told = true) ∧
    (procNo p ≠ s.dev.activeProc → Gives (.fwRestart p bs) s fun d =>
      d = announcing (restartProc (procNo p) (s.dev.sectionOk (procNo p) bs)) s.dev)) ∧
  (∀ (s : State) (p : Proc) (bs : List Byte), s.dev.fw.state = 2 →
    (s.dev.sectionOk (procNo p) bs = true ↔ s.dev.fw.sections[sectionOf (procNo p)]? = some (sha3_256 bs))) ∧
  (∀ (s : State) (c : Cluster) (bs : List Byte), (∀ k ∈ s.dev.fw.area, (s.dev.chan k).serves = false) →
    exec (.fwRestart (.cluster c) bs) s = .next s) ∧
  (∀ (s : State) (p : Proc) (bs : List Byte), (s.dev.proc (procNo p)).restarting = false →
    exec (.fwRestart p bs) s = .next s ∧ exec (.fwRestartTimeout p) s = .next s) ∧
  (∀ (s : State), (s.dev.proc 0).restarting = true → Gives (.fwRestartTimeout .security) s fun d =>
    (7, 0) ∈ d.sec.raised ∧ (d.proc 0).restarting = true) ∧
  (∀ (s : State), (s.dev.proc 2).restarting = true → Gives (.fwRestartTimeout .power) s fun d => d.pwr.slow = true ∧
    ∀ n, (s.dev.core n).powered = true → (d.core n).clock = 20) ∧
  (∀ (s : State) (p : Proc), procNo p ∈ [1, 3] → procNo p ≠ s.dev.activeProc → (s.dev.proc (procNo p)).restarting = true →
    Gives (.fwRestartTimeout p) s fun d => (d.proc (procNo p)).restarting = false ∧ (d.proc (procNo p)).up = (s.dev.proc (procNo p)).up ∧
      d.vds = s.dev.vds) ∧
  (∀ (s : State), s.dev.boot.active = true → s.dev.fw.state = 2 → (s.dev.proc s.dev.activeProc).up = false →
    s.dev.fw.standbyReady = true → (∃ c ∈ s.dev.fw.copies, s.dev.copyUnreadable c = false) →
    Completes .schedulerTakeover s fun t => t.dev.fw.activeB = !s.dev.fw.activeB ∧ t.dev.fw.standbyReady = false) ∧
  (∀ (s : State), s.dev.boot.active = true → s.dev.fw.state = 2 → (s.dev.proc s.dev.activeProc).up = false →
    s.dev.fw.standbyReady = true → (∀ c ∈ s.dev.fw.copies, s.dev.copyUnreadable c = true) → s.dev.clk.powered = true →
    s.dev.sec.level ≠ 3 → Completes .schedulerTakeover s fun t => t.dev.boot.active = false ∧ t.dev.boot.ready = false) ∧
  (∀ (s : State), (s.dev.boot.active = false ∨ s.dev.fw.state ≠ 2 ∨ (s.dev.proc s.dev.activeProc).up = true ∨ s.dev.fw.standbyReady = false) →
    exec .schedulerTakeover s = .next s) ∧
  (∀ (s : State) (r : List Byte), (s.dev.schedUp = false ∨ r.length ≠ 64) → exec (.journalAppend r) s = .next s) ∧
  (∀ (s : State) (r : List Byte), s.dev.schedUp = true → r.length = 64 →
    (s.dev.fw.journal.length < 4095 → Gives (.journalAppend r) s fun d => d.fw.journal = s.dev.fw.journal ++ [r] ∧
      d.fw.checkpoint = s.dev.fw.checkpoint) ∧
    (4095 ≤ s.dev.fw.journal.length → Gives (.journalAppend r) s fun d => d.fw.journal = [] ∧
      d.fw.checkpoint = s.dev.fw.checkpoint + 1))

/-- R461, R462: a request to the security core is served, in arrival order behind those that wait, and waits while the core is
down; one on a transport that is not there is no request. -/
def Obligations.SecurityRequests : Prop :=
  (∀ (s : State) (i : Instr) (t : Transport), secTransport i = some t → s.dev.hasTransport t = false → Gives i s fun d => d = s.dev) ∧
  (∀ (s : State) (i : Instr) (t : Transport), secTransport i = some t → s.dev.hasTransport t = true → s.dev.secUp = false →
    Gives i s fun d => d.sec = { s.dev.sec with waiting := s.dev.sec.waiting ++ [i] } ∧ d.out = s.dev.out) ∧
  (∀ (s : State) (i : Instr) (t : Transport), secTransport i = some t → s.dev.hasTransport t = true → s.dev.secUp = true →
    Gives i s fun d => d = serveWaiting i (raiseSrc 0 0x154 s.dev))

/-- R460 … R466, Tables 19-1 and 19-2: SPDM, IDE and TDISP. Negotiation goes stage by stage and accepts the algorithms of the
table alone; sessions open up to their limit and end; a key of a stream is programmed in a secured session; an interface is
locked, started, stopped and reported as its state allows, and a change of its configuration is an error. The order of the
stages is the model's (PRESUMED). -/
def Obligations.AttestationAndInterfaces : Prop :=
  (∀ (s : State) (t : Transport), Served (.getVersion t) s fun d => d.spdmStage t = 1 ∧ d.out = s.dev.out ++ [.spdm t .version]) ∧
  (∀ (s : State) (t : Transport), s.dev.spdmStage t = 0 → Served (.getCapabilities t) s fun d => d.sec = s.dev.sec ∧ d.out = s.dev.out ++ [.spdm t (.error false)]) ∧
  (∀ (s : State) (t : Transport) (o : SpdmOffer), s.dev.spdmStage t < 2 → Served (.negotiateAlgorithms t o) s fun d => d.sec = s.dev.sec ∧ d.out = s.dev.out ++ [.spdm t (.error false)]) ∧
  (∀ (s : State) (t : Transport), 1 ≤ s.dev.spdmStage t → Served (.getCapabilities t) s fun d =>
    d.spdmStage t = max 2 (s.dev.spdmStage t) ∧ d.out = s.dev.out ++ [.spdm t .capabilities]) ∧
  (∀ (s : State) (t : Transport) (o : SpdmOffer), 2 ≤ s.dev.spdmStage t → Served (.negotiateAlgorithms t o) s fun d =>
    if o.ecdsaP384 = true ∧ o.sha3_384 = true ∧ o.secp384r1 = true ∧ o.aes256gcm = true then
      d.spdmStage t = 3 ∧ d.out = s.dev.out ++ [.spdm t .algorithms]
    else d.sec = s.dev.sec ∧ d.out = s.dev.out ++ [.spdm t (.error false)]) ∧
  (∀ (s : State) (t : Transport) (slot index : BitVec 8) (off len : Nat) (nonce : BitVec 256), s.dev.spdmStage t < 3 →
    ∀ i, i ∈ [Instr.getDigests t, .getCertificate t slot off len, .challenge t slot nonce, .getMeasurements t index, .keyExchange t] → Served i s fun d => d.out = s.dev.out ++ [.spdm t (.error false)] ∧ d.sec = s.dev.sec) ∧
  (∀ (s : State) (t : Transport), 3 ≤ s.dev.spdmStage t →
    (Served (.getDigests t) s fun d => d.out = s.dev.out ++ [.spdm t (.digests (BitVec.ofNat 384 (beNat (sha3_384 Config.certificateChain))))]) ∧
    (∀ off len, off < Config.certificateChain.length → Served (.getCertificate t 0 off len) s fun d => d.out = s.dev.out ++
      [.spdm t (.certificate ((Config.certificateChain.drop off).take len) (Config.certificateChain.length - (off + len)))]) ∧
    (∀ slot off len, slot ≠ 0 ∨ Config.certificateChain.length ≤ off → Served (.getCertificate t slot off len) s fun d => d.sec = s.dev.sec ∧ d.out = s.dev.out ++ [.spdm t (.error false)]) ∧
    (∀ slot nonce, slot ≠ 0 ∨ s.dev.sec.attKey = false → Served (.challenge t slot nonce) s fun d => d.sec = s.dev.sec ∧ d.out = s.dev.out ++ [.spdm t (.error false)]) ∧
    (∀ index : BitVec 8, ((s.dev.measurements t).any fun b => index.toNat == 0xFF || b.1 == index.toNat) = false ∨ s.dev.sec.attKey = false →
      Served (.getMeasurements t index) s fun d => d.sec = s.dev.sec ∧ d.out = s.dev.out ++ [.spdm t (.error false)]) ∧
    (∀ index : BitVec 8, s.dev.sec.attKey = true → ((s.dev.measurements t).any fun b => index.toNat == 0xFF || b.1 == index.toNat) = true →
      Served (.getMeasurements t index) s fun d => ∃ sig, d.out = s.dev.out ++ [.spdm t (.measurements
        ((s.dev.measurements t).filter fun b => index.toNat == 0xFF || b.1 == index.toNat) sig)]) ∧
    (s.dev.sec.attKey = false → Served (.keyExchange t) s fun d => d.sec = s.dev.sec ∧ d.out = s.dev.out ++ [.spdm t (.error false)]) ∧
    (∀ nonce, s.dev.sec.attKey = true → Served (.challenge t 0 nonce) s fun d => d.out = s.dev.out ++
      [.spdm t (.challenge (BitVec.ofNat 384 (beNat (sha3_384 Config.certificateChain))) (attest s.dev.draws (natLe 32 nonce.toNat)))]) ∧
    (s.dev.sec.attKey = true → Served (.getMeasurements t 4) s fun d => ∃ sig, d.out = s.dev.out ++ [.spdm t (.measurements
      [(4, natLe 4 s.dev.sec.a2Count.toNat ++ natLe 4 s.dev.sec.a3Count.toNat ++ natLe 1 (if s.dev.sec.level = 2 then 1 else 0))] sig)]) ∧
    (s.dev.sec.attKey = true → (s.dev.sec.sessions.filter fun x => sameLimit x.transport t).length < sessionLimit t → Served (.keyExchange t) s fun d =>
      d.sec.sessions = s.dev.sec.sessions ++ [⟨s.dev.sec.nextSession, t, s.dev.draws, 0, false⟩] ∧
      d.out = s.dev.out ++ [.spdm t (.session s.dev.sec.nextSession)]) ∧
    (s.dev.sec.attKey = true → sessionLimit t ≤ (s.dev.sec.sessions.filter fun x => sameLimit x.transport t).length → Served (.keyExchange t) s fun d =>
      d.sec = s.dev.sec ∧ d.out = s.dev.out ++ [.spdm t (.error true)])) ∧
  (∀ (s : State) (t : Transport) (id : Nat), s.dev.hasSession t id false = true →
    Served (.finish t id) s fun d => d.out = s.dev.out ++ [.spdm t (.finished id)] ∧
      d.sec.sessions = updFirst (fun x => x.id == id) (fun x => { x with open_ := true }) s.dev.sec.sessions) ∧
  (∀ (s : State) (t : Transport) (id : Nat),
    (s.dev.hasSession t id false = false → Served (.finish t id) s fun d => d.sec = s.dev.sec ∧ d.out = s.dev.out ++ [.spdm t (.error false)]) ∧
    (s.dev.hasSession t id true = false → ∀ i, i ∈ [Instr.keyUpdate t id, .heartbeat t id, .endSession t id] →
      Served i s fun d => d.sec = s.dev.sec ∧ d.out = s.dev.out ++ [.spdm t (.error false)])) ∧
  (∀ (s : State) (t : Transport) (id : Nat), s.dev.hasSession t id true = true →
    (Served (.keyUpdate t id) s fun d => d.out = s.dev.out ++ [.spdm t (.updated id)]) ∧
    (Served (.heartbeat t id) s fun d => d.sec = s.dev.sec ∧ d.out = s.dev.out ++ [.spdm t (.alive id)]) ∧
    (Served (.endSession t id) s fun d => d.out = s.dev.out ++ [.spdm t (.ended id)] ∧ ∀ x, x ∈ d.sec.sessions → x.id ≠ id)) ∧
  (∀ (s : State) (p : HPort) (n : Fin 8) (k : BitVec 256), s.dev.secured (portTransport p) = true →
    Served (.ideKm p n k) s fun d => Tab.get? d.sec.ide (8 * p.val + n.val) = some k) ∧
  (∀ (s : State) (p : HPort) (n : Fin 8) (k : BitVec 256), s.dev.secured (portTransport p) = false →
    Served (.ideKm p n k) s fun d => d.sec = s.dev.sec ∧ d.out = s.dev.out ++ [.spdm (portTransport p) (.error false)]) ∧
  (∀ (s : State) (p : HPort) (n : Fin 8) (r : Option Nat), (Tab.get? s.dev.sec.ide (8 * p.val + n.val)).isSome = false →
    exec (.ideIntegrityFail p n r) s = .next s) ∧
  (∀ (s : State) (p : HPort) (n : Fin 8), (Gives (.ideIntegrityFail p n none) s fun d => d = s.dev) ∧
    ∀ id, (Tab.get? s.dev.sec.ide (8 * p.val + n.val)).isSome = true →
      exec (.ideIntegrityFail p n (some id)) s = .next (after s (doHostError id (work s)))) ∧
  (∀ (s : State) (v : VDev),
    (Served (.getTdispVersion v) s fun d => d.out = s.dev.out ++ [.tdisp v.val .version]) ∧
    (Served (.getTdispCapabilities v) s fun d => d.out = s.dev.out ++ [.tdisp v.val .capabilities]) ∧
    (Served (.getDeviceInterfaceState v) s fun d => d.out = s.dev.out ++ [.tdisp v.val (.state (s.dev.fn v.val).tdi)]) ∧
    (Served (.stopInterfaceRequest v) s fun d => (d.fn v.val).tdi = .configUnlocked ∧ d.out = s.dev.out ++ [.tdisp v.val .stopped]) ∧
    ((s.dev.fn v.val).tdi = .configUnlocked → s.dev.windowed v.val = false → ∀ st, Served (.lockInterfaceRequest v st) s fun d =>
      (d.fn v.val).tdi = .configLocked ∧ (d.fn v.val).tdiStream = st.val ∧ d.out = s.dev.out ++ [.tdisp v.val .locked]) ∧
    ((s.dev.fn v.val).tdi ≠ .configUnlocked ∨ s.dev.windowed v.val = true → ∀ st, Served (.lockInterfaceRequest v st) s fun d =>
      (d.fn v.val).tdi = (s.dev.fn v.val).tdi ∧ d.out = s.dev.out ++ [.tdisp v.val .error]) ∧
    ((s.dev.fn v.val).tdi = .configLocked → (Served (.startInterfaceRequest v) s fun d =>
        (d.fn v.val).tdi = .run ∧ d.out = s.dev.out ++ [.tdisp v.val .started])) ∧
    ((s.dev.fn v.val).tdi = .configLocked ∨ (s.dev.fn v.val).tdi = .run → Served (.getDeviceInterfaceReport v) s fun d =>
      d.out = s.dev.out ++ [.tdisp v.val (.report (Config.tdispReport v.val))]) ∧
    ((s.dev.fn v.val).tdi ≠ .configLocked → (s.dev.fn v.val).tdi ≠ .run → Served (.getDeviceInterfaceReport v) s fun d =>
      d.out = s.dev.out ++ [.tdisp v.val .error]) ∧
    ((s.dev.fn v.val).tdi ≠ .configLocked → Served (.startInterfaceRequest v) s fun d =>
      (d.fn v.val).tdi = (s.dev.fn v.val).tdi ∧ d.out = s.dev.out ++ [.tdisp v.val .error]) ∧
    (Gives (.sriovConfigChange v) s fun d => (d.fn v.val).tdi = .error ∧ ∀ k, k ≠ v.val → d.fn k = s.dev.fn k))

/-- R467 … R470, Table 19-3: key operations. In a secured session a key is generated or imported into the lowest empty slot
within the quota, erased where no table uses it, and listed; outside one, in quarantine and where the operands do not allow it,
they are refused. -/
def Obligations.KeyOperations : Prop :=
  (∀ (s : State) (v : VDev) (tag : BitVec 32) (bs : List Byte) (slot : BitVec 16) (i : Instr),
    i ∈ [Instr.generate v tag, .importKey v tag bs, .erase v tag slot, .listKeys v tag] →
    (s.dev.secured (vfDoe v) = false → Served i s fun d => d.out = s.dev.out ++ [.spdm (vfDoe v) (.error false)] ∧ d.mc = s.dev.mc) ∧
    (s.dev.secured (vfDoe v) = true → s.dev.sec.level = 2 → Served i s fun d => d.out = s.dev.out ++ [.key v.val tag 5 []] ∧
      d.mc = s.dev.mc)) ∧
  (∀ (s : State) (v : VDev) (tag : BitVec 32), s.dev.secured (vfDoe v) = true → s.dev.sec.level ≠ 2 →
    (∀ i, (s.dev.heldSlots v.val).length < (s.dev.vd v.val).quota.toNat → s.dev.emptySlot = some i →
      (Served (.generate v tag) s fun d => d.keySlot i = ⟨.loaded, v.val, .gen s.dev.draws⟩ ∧ d.draws = s.dev.draws + 1 ∧
        d.out = s.dev.out ++ [.key v.val tag 0 (natLe 2 i)] ∧ ∀ j, j ≠ i → d.keySlot j = s.dev.keySlot j) ∧
      (∀ bs, bs.length = 64 → bs.take 32 ≠ bs.drop 32 → Served (.importKey v tag bs) s fun d =>
        d.keySlot i = ⟨.loaded, v.val, .imported (BitVec.ofNat 512 (leNat bs))⟩ ∧ d.out = s.dev.out ++ [.key v.val tag 0 (natLe 2 i)])) ∧
    ((s.dev.vd v.val).quota.toNat ≤ (s.dev.heldSlots v.val).length ∨ s.dev.emptySlot = none →
      (Served (.generate v tag) s fun d => d.mc = s.dev.mc ∧ d.out = s.dev.out ++ [.key v.val tag 2 []]) ∧
      ∀ bs, bs.length = 64 → bs.take 32 ≠ bs.drop 32 → Served (.importKey v tag bs) s fun d => d.mc = s.dev.mc ∧
        d.out = s.dev.out ++ [.key v.val tag 2 []]) ∧
    (∀ bs, bs.length ≠ 64 ∨ bs.take 32 = bs.drop 32 → Served (.importKey v tag bs) s fun d => d.mc = s.dev.mc ∧
      d.out = s.dev.out ++ [.key v.val tag 4 []]) ∧
    (∀ slot : BitVec 16, (s.dev.heldSlots v.val).contains slot.toNat = false → Served (.erase v tag slot) s fun d => d.mc = s.dev.mc ∧
      d.out = s.dev.out ++ [.key v.val tag 1 []]) ∧
    (∀ slot : BitVec 16, (s.dev.heldSlots v.val).contains slot.toNat = true →
      let used := (s.dev.vd v.val).table.any fun e => e.res == 1 && e.key == slot.toNat
      (used = true → Served (.erase v tag slot) s fun d => d.mc = s.dev.mc ∧ d.out = s.dev.out ++ [.key v.val tag 3 []]) ∧
      (used = false → Served (.erase v tag slot) s fun d => d.keySlot slot.toNat = KeySlot.reset ∧
        d.out = s.dev.out ++ [.key v.val tag 0 []])) ∧
    (Served (.listKeys v tag) s fun d => d.out = s.dev.out ++ [.key v.val tag 0 (s.dev.slotBitmap v.val)]))

/-- R472 … R478, R513, Tables 19-4 and 19-5: alarms. An alarm of level A1 is logged, one of A2 quarantines the device, one of A3
zeroizes it; a line of PF-S counts once it has been high for 200 ns and low for 1 ms before; a lost heartbeat and a debug
attempt raise their sources. -/
def Obligations.Alarms : Prop :=
  (∀ (s : State) (src : BitVec 8) (x : BitVec 16), alarmDefault src.toNat ≠ 0 → s.dev.sec.level ≠ 3 →
    s.dev.clk.powered = true →
    (s.dev.alarmLevel src.toNat ≠ 3 → s.dev.sec.log = [] → Gives (.alarm src x) s fun d =>
      d.sec.log = [⟨src.toNat, s.dev.alarmLevel src.toNat, if 8 ≤ src.toNat ∧ src.toNat ≤ 13 then x else 0, s.dev.clk.hlc0, s.dev.sec.logSeq + 1⟩] ∧
      d.sec.level = (if s.dev.alarmLevel src.toNat = 2 then max s.dev.sec.level 2 else s.dev.sec.level) ∧
      d.sec.a2Count = if s.dev.alarmLevel src.toNat = 2 then s.dev.sec.a2Count + 1 else s.dev.sec.a2Count) ∧
    (s.dev.alarmLevel src.toNat = 3 → Completes (.alarm src x) s fun t => t.dev.sec.level = 3 ∧ t.dev.sec.a3Count = s.dev.sec.a3Count + 1 ∧
      t.dev.sec.sessions = [] ∧ t.dev.sec.attKey = false ∧ t.dev.sec.ide = [] ∧ t.dev.exports = [] ∧ t.dev.fab.exchanges = [] ∧
      (t.dev.keySlot 0).state = .zeroized ∧
      (∀ i k, (i, k) ∈ t.dev.mc.keys → i ≠ 0 → k.state = .empty ∨ k.state = .zeroized) ∧ ∀ v f, (v, f) ∈ t.dev.fns → f.tdi = .error)) ∧
  (∀ (s : State) (src : BitVec 8) (x : BitVec 16), alarmDefault src.toNat = 0 ∨ s.dev.sec.level = 3 ∨ s.dev.clk.powered = false →
    ((src, x) ∉ s.dev.sec.raised → exec (.alarm src x) s = .next s) ∧
    ∀ l, s.dev.sec.raised = (src, x) :: l → Gives (.alarm src x) s fun d => d = { s.dev with sec := { s.dev.sec with raised := l } }) ∧
  (∀ (s : State) (l : Fin 3) (ns : Nat), s.dev.sec.lines.contains l.val = false →
    (ns < 200 → Gives (.pfsAlarm l ns) s fun d => d = s.dev) ∧
    (200 ≤ ns → Gives (.pfsAlarm l ns) s fun d => d.sec.lines = s.dev.sec.lines ++ [l.val] ∧
      (Tab.get? s.dev.sec.lineLow l.val = none → d.sec.raised = s.dev.sec.raised ++ [(BitVec.ofNat 8 (l.val + 1), 0)]) ∧
      ∀ t, Tab.get? s.dev.sec.lineLow l.val = some t → d.sec.raised =
        if (s.dev.clk.hlc0 - t).toNat < 100000 then s.dev.sec.raised else s.dev.sec.raised ++ [(BitVec.ofNat 8 (l.val + 1), 0)])) ∧
  (∀ (s : State) (l : Fin 3) (ns : Nat), (s.dev.sec.lines.contains l.val = true → exec (.pfsAlarm l ns) s = .next s) ∧
    (s.dev.sec.lines.contains l.val = false → exec (.pfsAlarmDeassert l) s = .next s)) ∧
  (∀ (s : State) (l : Fin 3), s.dev.sec.lines.contains l.val = true → Gives (.pfsAlarmDeassert l) s fun d =>
    d.sec.lines.contains l.val = false ∧ Tab.get? d.sec.lineLow l.val = some s.dev.clk.hlc0) ∧
  (∀ (s : State), Gives .pfsHeartbeatLoss s fun d => d.sec.linkLost = true ∧ d.sec.raised = s.dev.sec.raised ++ [(4, 0)]) ∧
  (∀ (s : State), (Gives (.debugPortEnable true) s fun d => d = s.dev) ∧
    Gives (.debugPortEnable false) s fun d => d.sec.raised = s.dev.sec.raised ++ [(5, 0)])

/-- R480 … R483, R488: requests of the management bindings. While the power-management core runs, a request is committed and
answered in arrival order, behind a write that waits for its platform die; while it is down, hub hardware answers BUSY, but for
a unit request OUT. R481, R514: the MCTP endpoint and the I3C target. The endpoint takes the identifier it is given, but for the
two that are reserved (PRESUMED, as the message types are), and answers what it is; the target takes one dynamic address and
asks to join once. -/
def Obligations.ManagementPath : Prop :=
  (∀ (s : State) (i : Instr) (b : MgmtBind) (r : OdReq), odReqOf i = some (b, r) → s.dev.clk.powered = false →
    Gives i s fun d => d = s.dev) ∧
  (∀ (s : State) (i : Instr) (b : MgmtBind) (r : OdReq), odReqOf i = some (b, r) → s.dev.clk.powered = true → s.dev.pmUp = false →
    (r.isOut = false ∨ s.dev.sec.level = 3) → Gives i s fun d => d = s.dev.emit (.od b r.head.1 r.head.2 7 [])) ∧
  (∀ (s : State) (i : Instr) (b : MgmtBind) (r : OdReq), odReqOf i = some (b, r) → s.dev.clk.powered = true → s.dev.pmUp = false →
    r.isOut = true → s.dev.sec.level ≠ 3 → exec i s = .next (after s (r.serve b (work s)))) ∧
  (∀ (s : State) (i : Instr) (b : MgmtBind) (r : OdReq), odReqOf i = some (b, r) → s.dev.clk.powered = true → s.dev.pmUp = true →
    (s.dev.outstanding b < 8 → s.dev.od.confirm = none → exec i s = .next (after s (r.serve b (work s)))) ∧
    (s.dev.outstanding b < 8 → s.dev.od.confirm.isSome = true → Gives i s fun d =>
      d = { s.dev with od := { s.dev.od with waiting := s.dev.od.waiting ++ [i] } }) ∧
    (8 ≤ s.dev.outstanding b → Gives i s fun d => d = s.dev.emit (.od b r.head.1 r.head.2 7 []))) ∧
  (∀ (s : State) (b : MgmtBind) (e : BitVec 8), s.dev.clk.powered = true → e ≠ 0 → e ≠ 0xFF → Gives (.setEndpointId b e) s fun d =>
    Tab.get? d.od.eids (bindNo b) = some e ∧ d.out = s.dev.out ++ [.mctp b (.endpoint e)]) ∧
  (∀ (s : State) (b : MgmtBind), s.dev.clk.powered = true →
    (Gives (.setEndpointId b 0) s fun d => d = s.dev.emit (.mctp b .error)) ∧
    (Gives (.setEndpointId b 0xFF) s fun d => d = s.dev.emit (.mctp b .error)) ∧
    (Gives (.getEndpointId b) s fun d => d = s.dev.emit (.mctp b (.endpoint (Tab.getD s.dev.od.eids (bindNo b) 0)))) ∧
    (Gives (.getMctpVersionSupport b) s fun d => d = s.dev.emit (.mctp b (.version 1 3))) ∧
    (Gives (.getMessageTypeSupport b) s fun d => d = s.dev.emit (.mctp b (.types [0x00, 0x05, 0x06, 0x7E]))) ∧
    (Gives (.getVendorDefinedMessageSupport b) s fun d => d = s.dev.emit (.mctp b (.vendor Config.vendorId)))) ∧
  (∀ (s : State) (b : MgmtBind) (e : BitVec 8) (i : Instr), s.dev.clk.powered = false → i ∈ [Instr.setEndpointId b e, .getEndpointId b,
    .getMctpVersionSupport b, .getMessageTypeSupport b, .getVendorDefinedMessageSupport b] → Gives i s fun d => d = s.dev) ∧
  (∀ (s : State) (h : I3cAssign) (a : BitVec 7), s.dev.clk.powered = true → s.dev.od.addr = none →
    Gives (.i3cAddressAssign h a) s fun d => d.od = { s.dev.od with addr := some a }) ∧
  (∀ (s : State) (h : I3cAssign) (a : BitVec 7), (s.dev.od.addr.isSome = true ∨ s.dev.clk.powered = false) →
    exec (.i3cAddressAssign h a) s = .next s) ∧
  (∀ (s : State), s.dev.clk.powered = true → s.dev.od.addr = none → s.dev.od.hotJoined = false →
    Gives .i3cHotJoin s fun d => d.od.hotJoined = true ∧ d.out = s.dev.out ++ [.hotJoin]) ∧
  (∀ (s : State), (s.dev.od.hotJoined = true ∨ s.dev.od.addr.isSome = true ∨ s.dev.clk.powered = false) → exec .i3cHotJoin s = .next s)

/-- R479, R480, R482, R484, R486 … R494: what the entries do. Reads and descriptions answer the value and what the entry is; the
fabric identifier, an alarm level, a quota of key slots, a fabric notice, a unit request and a step of the recovery ladder act
as their entries say; secured entries ask for a session; notices leave, are acknowledged and sent again; a return ends. -/
def Obligations.DictionaryEntries : Prop :=
  (∀ (s : State) (b : MgmtBind) (tag : BitVec 16), s.dev.clk.powered = true → s.dev.pmUp = true → s.dev.outstanding b < 8 →
    s.dev.od.confirm = none →
    let answers (i : Instr) (op st : Nat) (bs : List Byte) : Prop := Completes i s fun t => t.dev.out = s.dev.out ++ [.od b tag op st bs]
    (∀ off, answers (.odRead b tag 0x1001 1 0 off) 1 0 (natLe 4 s.dev.fab.pkgId.toNat) ∧
      answers (.odRead b tag 0x5400 1 0 off) 1 3 [] ∧ answers (.odRead b tag 0x1001 2 0 off) 1 2 [] ∧
      answers (.odRead b tag 0x1800 1 0 off) 1 1 []) ∧
    answers (.odDescribe b tag 0x5400 1) 3 0 ([4, 3, 0, 0] ++ natLe 4 4 ++ natLe 8 0) ∧
    (∀ id : BitVec 32, id ≠ 0 → s.dev.anyPortLive = false → Gives (.fabricPackageIdWrite b tag id) s fun d =>
      d.fab.pkgId = id ∧ d.out = s.dev.out ++ [.od b tag 2 0 []]) ∧
    (∀ id : BitVec 32, id ≠ 0 → s.dev.anyPortLive = true → Gives (.fabricPackageIdWrite b tag id) s fun d =>
      d.fab = s.dev.fab ∧ d.out = s.dev.out ++ [.od b tag 2 8 []]) ∧
    (Gives (.fabricPackageIdWrite b tag 0) s fun d => d.fab = s.dev.fab ∧ d.out = s.dev.out ++ [.od b tag 2 4 []]) ∧
    (exec (.odWrite b false tag 0x1001 1 (natLe 4 7)) s = exec (.fabricPackageIdWrite b tag 7) s) ∧
    (∀ src level secured, s.dev.secUp = true → 1 ≤ src.toNat → src.toNat ≤ 16 →
      (secured = false → Gives (.alarmLevelWrite b secured tag src level) s fun d => d.sec = s.dev.sec ∧
        d.out = s.dev.out ++ [.od b tag 2 6 []]) ∧
      (secured = true → s.dev.secured (.mctp b) = true →
        (alarmDefault src.toNat ≠ 0 → alarmFloor src.toNat ≤ level.toNat → 1 ≤ level.toNat → level.toNat ≤ 3 →
          Gives (.alarmLevelWrite b secured tag src level) s fun d => d.sec = s.dev.sec ∧ d.out = s.dev.out ∧
            d.od = { s.dev.od with confirm := some ⟨b, tag, src.toNat, level.toNat⟩ }) ∧
        (level.toNat = 0 ∨ 3 < level.toNat → Gives (.alarmLevelWrite b secured tag src level) s fun d =>
          d.sec = s.dev.sec ∧ d.out = s.dev.out ++ [.od b tag 2 4 []]) ∧
        (1 ≤ level.toNat → level.toNat ≤ 3 → alarmDefault src.toNat = 0 ∨ level.toNat < alarmFloor src.toNat → Gives (.alarmLevelWrite b secured tag src level) s fun d =>
          d.sec = s.dev.sec ∧ d.out = s.dev.out ++ [.od b tag 2 9 []]))) ∧
    (∀ v quota, s.dev.secUp = true → s.dev.secured (.mctp b) = true → 0 < quota.toNat → quota.toNat ≤ 1023 →
      (((s.dev.vds.filter fun y => y.1 != v.val).map fun y => y.2.quota.toNat).sum + quota.toNat ≤ 1023) →
      (s.dev.heldSlots v.val).length ≤ quota.toNat → Gives (.keySlotQuotaWrite b true tag v quota) s fun d =>
        (d.vd v.val).quota = quota ∧ d.mc = s.dev.mc ∧ d.out = s.dev.out ++ [.od b tag 2 0 []]) ∧
    (∀ v quota, s.dev.secUp = true → s.dev.secured (.mctp b) = true → 1023 < quota.toNat →
      Gives (.keySlotQuotaWrite b true tag v quota) s fun d => d.vds = s.dev.vds ∧ d.out = s.dev.out ++ [.od b tag 2 4 []]) ∧
    (∀ v quota secured, s.dev.secUp = true → (secured = false ∨ s.dev.secured (.mctp b) = false) →
      Gives (.keySlotQuotaWrite b secured tag v quota) s fun d => d.vds = s.dev.vds ∧ d.out = s.dev.out ++ [.od b tag 2 6 []]) ∧
    (∀ v quota, s.dev.secUp = true → s.dev.secured (.mctp b) = true → 0 < quota.toNat → quota.toNat ≤ 1023 →
      (1023 < ((s.dev.vds.filter fun y => y.1 != v.val).map fun y => y.2.quota.toNat).sum + quota.toNat ∨
        quota.toNat < (s.dev.heldSlots v.val).length) → Gives (.keySlotQuotaWrite b true tag v quota) s fun d =>
        d.vds = s.dev.vds ∧ d.mc = s.dev.mc ∧ d.out = s.dev.out ++ [.od b tag 2 9 []]) ∧
    (∀ v, s.dev.secUp = true → s.dev.secured (.mctp b) = true → Gives (.keySlotQuotaWrite b true tag v 0) s fun d =>
      (d.vd v.val).quota = 0 ∧ d.heldSlots v.val = [] ∧ d.out = s.dev.out ++ [.od b tag 2 0 []]) ∧
    (∀ bs, bs.length ≠ 24 → Gives (.fabricNoticeGroupHang b tag bs) s fun d => d = s.dev.emit (.od b tag 2 5 [])) ∧
    (∀ bs, bs.length = 24 → fieldLe bs 0 1 ≠ 1 → fieldLe bs 0 1 ≠ 2 →
      Gives (.fabricNoticeGroupHang b tag bs) s fun d => d = s.dev.emit (.od b tag 2 4 [])) ∧
    (∀ bs, exec (.fabricNoticePackageLost b tag bs) s = exec (.fabricNoticeGroupHang b tag bs) s) ∧
    (∀ x, exec (.ladderPowerCycle b tag x) s = exec (.ladderDeviceReset b tag x) s) ∧
    (∀ x, exec (.unitRequestIn b tag x) s = exec (.unitRequestOut b tag x) s) ∧
    (∀ x : BitVec 64, unitOf (x.toNat % 2 ^ 32) = none ∨ (bits x.toNat 35 32 ≠ 1 ∧ bits x.toNat 35 32 ≠ 2) →
      Gives (.unitRequestOut b tag x) s fun d => d = s.dev.emit (.od b tag 2 4 [])) ∧
    (∀ bs, bs.length = 24 → fieldLe bs 0 1 = 1 → exec (.fabricNoticeGroupHang b tag bs) s = .next (after s
      ((doPeerFailure (fieldLe bs 4 4) (BitVec.ofNat 64 (fieldLe bs 8 8)) (work s)).on fun d => d.emit (.od b tag 2 0 [])))) ∧
    (∀ bs, bs.length = 24 → fieldLe bs 0 1 = 2 → exec (.fabricNoticePackageLost b tag bs) s = .next (after s
      ((doPeerFailure (fieldLe bs 4 4) (BitVec.ofNat 64 (fieldLe bs 8 8)) (work s)).on fun d => d.emit (.od b tag 2 0 [])))) ∧
    (exec (.ladderDeviceReset b tag 0xB5A70003) s =
      .next (after s (deviceReset ((work s).on fun d => d.emit (.od b tag 2 0 []))))) ∧
    (exec (.ladderPowerCycle b tag 0xB5A70004) s =
      .next (after s (powerCycle ((work s).on fun d => d.emit (.od b tag 2 0 []))))) ∧
    (∀ x, x ≠ 0xB5A70003 → x ≠ 0xB5A70004 → Gives (.ladderDeviceReset b tag x) s fun d => d = s.dev.emit (.od b tag 2 4 [])) ∧
    (∀ (u : BitVec 32) (k : UnitKind) (n : Nat), unitOf u.toNat = some (k, n) →
      (Gives (.unitRequestOut b tag (BitVec.ofNat 64 (2 ^ 32 + u.toNat))) s fun d => (d.unit k n).adminOut = true ∧
        (d.unit k n).returning = false ∧ d.od.lastUnit = unitWord k n ∧ d.od.lastResult = 0 ∧ d.out.getLast? = some (.od b tag 2 0 [])) ∧
      (Gives (.unitRequestIn b tag (BitVec.ofNat 64 (2 * 2 ^ 32 + u.toNat))) s fun d => (d.unit k n).adminOut = false ∧
        d.od.lastUnit = unitWord k n ∧ d.od.lastResult = (if s.dev.serving k n = true then 0 else 1) ∧
        ((d.unit k n).returning = true ∨ s.dev.serving k n = true) ∧ d.out = s.dev.out ++ [.od b tag 2 0 []]))) ∧
  (∀ (s : State) (c : OdWait), s.dev.od.confirm = some c → s.dev.od.waiting = [] → Gives .classNWriteConfirm s fun d =>
    d.alarmLevel c.src = c.level ∧ d.od.confirm = none ∧ d.out = s.dev.out ++ [.od c.binding c.tag 2 0 []]) ∧
  (∀ (s : State) (c : OdWait), s.dev.od.confirm = some c →
    let d := (s.dev.onSec fun x => { x with levels := Tab.put x.levels c.src c.level })
    let w := (work s).on fun _ => odAnswer c.binding c.tag 2 0 [] { d with od := { d.od with confirm := none } }
    exec .classNWriteConfirm s = .next (after s (serveOd s.dev.od.waiting.length w))) ∧
  (∀ (s : State), s.dev.od.confirm = none → exec .classNWriteConfirm s = .next s) ∧
  (∀ (s : State) (q : Fin 4) (tag : BitVec 16), s.dev.pmUp = false →
    exec .notify s = .next s ∧ exec (.notifyAck q tag) s = .next s ∧ exec (.notifyResendTimer q tag) s = .next s) ∧
  (∀ (s : State) (q : Fin 4) (tag : BitVec 16), (s.dev.od.notices.find? fun n => n.dest == q.val && n.tag == tag && n.sent) = none →
    exec (.notifyResendTimer q tag) s = .next s) ∧
  (∀ (s : State), s.dev.pmUp = true → (Gives .notify s fun d => (∀ n, n ∈ d.od.notices → n.sent = true) ∧
      d.od.notices.length = s.dev.od.notices.length) ∧
    (∀ q tag, Gives (.notifyAck q tag) s fun d => ∀ n, n ∈ d.od.notices ↔
      (n ∈ s.dev.od.notices ∧ ¬(n.dest = q.val ∧ n.tag = tag ∧ n.sent = true))) ∧
    ∀ (q : Fin 4) (tag : BitVec 16) (n : OdNotice), (s.dev.od.notices.find? fun n => n.dest == q.val && n.tag == tag && n.sent) = some n →
      Gives (.notifyResendTimer q tag) s fun d => d = sendNotice n s.dev) ∧
  (∀ (s : State) (u : BitVec 32) (k : UnitKind) (n : Nat) (ok : Bool), unitOf u.toNat = some (k, n) → (s.dev.unit k n).returning = false →
    Gives (.unitReturnDone u ok) s fun d => d = s.dev) ∧
  (∀ (s : State) (u : BitVec 32) (ok : Bool), unitOf u.toNat = none → exec (.unitReturnDone u ok) s = .next s) ∧
  (∀ (s : State) (u : BitVec 32) (n : Nat) (ok : Bool), unitOf u.toNat = some (.core, n) → (s.dev.unit .core n).returning = true →
    Gives (.unitReturnDone u ok) s fun d => d = announcing (doSelfTest n ok) s.dev) ∧
  (∀ (s : State) (u : BitVec 32) (n : Nat), unitOf u.toNat = some (.chan, n) → (s.dev.unit .chan n).returning = true →
    (s.dev.chan n).state = .training → (s.dev.chan n).resume = .retired → Gives (.unitReturnDone u false) s fun d =>
      (d.chan n).state = .retired ∧ (d.unit .chan n).returning = false ∧ (d.unit .chan n).cause = 1) ∧
  (∀ (s : State) (u : BitVec 32) (n : Nat) (ok : Bool), unitOf u.toNat = some (.chan, n) →
    ((s.dev.chan n).state ≠ .training ∨ (s.dev.chan n).resume ≠ .retired) → exec (.unitReturnDone u ok) s = .next s) ∧
  (∀ (s : State) (u : BitVec 32) (n : Nat), unitOf u.toNat = some (.port, n) → (s.dev.unit .port n).returning = true →
    ((s.dev.port n).trained = true → Gives (.unitReturnDone u true) s fun d => (d.unit .port n).returning = false ∧
      (d.unit .port n).cause = 0) ∧
    (Gives (.unitReturnDone u false) s fun d => (d.unit .port n).returning = false ∧ (d.unit .port n).cause = 1 ∧
      (d.port n).state = 6)) ∧
  (∀ (s : State) (u : BitVec 32) (n : Nat), unitOf u.toNat = some (.chan, n) → (s.dev.unit .chan n).returning = true →
    (s.dev.chan n).state = .training → (s.dev.chan n).resume = .retired → (s.dev.die (n / 32)).lost = false →
    Completes (.unitReturnDone u true) s fun t => (t.dev.chan n).state = .inService ∧ (t.dev.unit .chan n).returning = false)
end

