-- ==== Sys2Proof/Laws/Tables.lean ====
section
/-! SUPPORT. Laws of the sparse tables: what a read gives after a write or a removal, and the bytes of a little-endian
number. -/

namespace Sys2Proof

/-! ## Reading a table -/

@[simp] theorem Tab.get?_nil {α : Type} (i : Nat) : Tab.get? ([] : Tab α) i = none := rfl

@[simp] theorem Tab.get?_put_same {α : Type} (t : Tab α) (i : Nat) (x : α) : Tab.get? (Tab.put t i x) i = some x := by
  induction t with
  | nil => simp [Tab.put, Tab.get?]
  | cons p t ih =>
    obtain ⟨k, a⟩ := p
    rcases Nat.lt_trichotomy i k with h | h | h
    · simp [Tab.put, Tab.get?, h]
    · simp [Tab.put, Tab.get?, h]
    · have h1 : ¬ i < k := by omega
      have h2 : ¬ i = k := by omega
      have h3 : ¬ k = i := by omega
      simp [Tab.put, Tab.get?, h1, h2, h3, ih]

theorem Tab.get?_put_ne {α : Type} (t : Tab α) {i j : Nat} (x : α) (h : j ≠ i) :
    Tab.get? (Tab.put t i x) j = Tab.get? t j := by
  have hi : ¬ i = j := fun e => h e.symm
  induction t with
  | nil => simp [Tab.put, Tab.get?, hi]
  | cons p t ih =>
    obtain ⟨k, a⟩ := p
    by_cases h1 : i < k
    · simp [Tab.put, Tab.get?, h1, hi]
    · by_cases h2 : i = k
      · subst h2; simp [Tab.put, Tab.get?, hi]
      · rw [show Tab.put ((k, a) :: t) i x = (k, a) :: Tab.put t i x by simp [Tab.put, h1, h2]]
        simp [Tab.get?, ih]

theorem Tab.get?_del_ne {α : Type} (t : Tab α) {i j : Nat} (h : j ≠ i) : Tab.get? (Tab.del t i) j = Tab.get? t j := by
  have hi : ¬ i = j := fun e => h e.symm
  induction t with
  | nil => rfl
  | cons p t ih =>
    obtain ⟨k, a⟩ := p
    by_cases h1 : k = i
    · subst h1; simp [Tab.del, Tab.get?, hi]
    · rw [show Tab.del ((k, a) :: t) i = (k, a) :: Tab.del t i by simp [Tab.del, h1]]
      simp [Tab.get?, ih]

@[simp] theorem Tab.getD_nil {α : Type} (i : Nat) (d : α) : Tab.getD ([] : Tab α) i d = d := rfl

@[simp] theorem Tab.getD_put_same {α : Type} (t : Tab α) (i : Nat) (x d : α) : Tab.getD (Tab.put t i x) i d = x := by
  simp [Tab.getD]

theorem Tab.getD_put_ne {α : Type} (t : Tab α) {i j : Nat} (x d : α) (h : j ≠ i) :
    Tab.getD (Tab.put t i x) j d = Tab.getD t j d := by
  simp [Tab.getD, Tab.get?_put_ne t x h]

/-- A second write to a key replaces the first. -/
theorem Tab.put_put {α : Type} (t : Tab α) (i : Nat) (x y : α) : Tab.put (Tab.put t i x) i y = Tab.put t i y := by
  induction t with
  | nil => simp [Tab.put]
  | cons p t ih =>
    obtain ⟨k, a⟩ := p
    by_cases h1 : i < k
    · simp [Tab.put, h1]
    · by_cases h2 : i = k
      · subst h2; simp [Tab.put]
      · simp [Tab.put, h1, h2, ih]

/-! ## Rising keys -/

/-- The keys of a table rise strictly, and none is below `lo`. -/
def keysFrom {α : Type} : Nat → Tab α → Prop
  | _, [] => True
  | lo, (k, _) :: t => lo ≤ k ∧ keysFrom (k + 1) t

theorem keysFrom_mono {α : Type} {a b : Nat} (h : a ≤ b) : {t : Tab α} → keysFrom b t → keysFrom a t
  | [], _ => trivial
  | (_, _) :: _, hb => ⟨Nat.le_trans h hb.1, hb.2⟩

theorem keysFrom_put {α : Type} (x : α) : {lo : Nat} → {t : Tab α} → {i : Nat} → lo ≤ i → keysFrom lo t →
    keysFrom lo (Tab.put t i x)
  | _, [], _, h, _ => ⟨h, trivial⟩
  | lo, (k, a) :: t, i, h, ht => by
    by_cases h1 : i < k
    · simp only [Tab.put, h1, if_true]
      exact ⟨h, by omega, ht.2⟩
    · by_cases h2 : i = k
      · subst h2; simp only [Tab.put, if_true, h1, if_false]
        exact ⟨ht.1, ht.2⟩
      · simp only [Tab.put, h1, h2, if_false]
        exact ⟨ht.1, keysFrom_put x (by omega) ht.2⟩

theorem keysFrom_del {α : Type} : {lo : Nat} → {t : Tab α} → {i : Nat} → keysFrom lo t → keysFrom lo (Tab.del t i)
  | _, [], _, _ => trivial
  | lo, (k, a) :: t, i, ht => by
    by_cases h1 : k = i
    · simp only [Tab.del, h1, if_true]
      exact keysFrom_mono (by have := ht.1; omega) ht.2
    · simp only [Tab.del, h1, if_false]
      exact ⟨ht.1, keysFrom_del ht.2⟩

theorem get?_none_of_keysFrom {α : Type} : {lo : Nat} → {t : Tab α} → {i : Nat} → keysFrom lo t → i < lo →
    Tab.get? t i = none
  | _, [], _, _, _ => rfl
  | lo, (k, a) :: t, i, ht, h => by
    have hk : ¬ k = i := by have := ht.1; omega
    simp only [Tab.get?, hk, if_false]
    exact get?_none_of_keysFrom ht.2 (by have := ht.1; omega)

theorem Tab.get?_del_same {α : Type} : {lo : Nat} → {t : Tab α} → {i : Nat} → keysFrom lo t → Tab.get? (Tab.del t i) i = none
  | _, [], _, _ => rfl
  | lo, (k, a) :: t, i, ht => by
    by_cases h1 : k = i
    · subst h1
      simp only [Tab.del, if_true]
      exact get?_none_of_keysFrom ht.2 (by omega)
    · simp only [Tab.del, h1, if_false, Tab.get?]
      exact Tab.get?_del_same ht.2

/-- An entry of a table after a write is the new entry or an old one. -/
theorem mem_put {α : Type} {x : α} {p : Nat × α} : {t : Tab α} → {i : Nat} → p ∈ Tab.put t i x → p = (i, x) ∨ p ∈ t
  | [], _, h => by simp [Tab.put] at h; exact .inl h
  | (k, a) :: t, i, h => by
    by_cases h1 : i < k
    · simp [Tab.put, h1] at h; rcases h with h | h | h <;> simp [h]
    · by_cases h2 : i = k
      · subst h2; simp [Tab.put] at h; rcases h with h | h <;> simp [h]
      · simp [Tab.put, h1, h2] at h
        rcases h with h | h
        · simp [h]
        · rcases mem_put h with h | h <;> simp [h]

/-- An entry of a table after a removal is an old one. -/
theorem mem_del {α : Type} {p : Nat × α} : {t : Tab α} → {i : Nat} → p ∈ Tab.del t i → p ∈ t
  | [], _, h => h
  | (k, a) :: t, i, h => by
    by_cases h1 : k = i
    · simp [Tab.del, h1] at h; exact .tail _ h
    · simp [Tab.del, h1] at h
      rcases h with h | h
      · simp [h]
      · exact .tail _ (mem_del h)

/-! ## Little-endian numbers -/

@[simp] theorem length_natLe (n x : Nat) : (natLe n x).length = n := by
  induction n generalizing x with
  | zero => rfl
  | succ n ih => simp [natLe, ih]

/-- The bytes of a number, read back. -/
theorem leNat_natLe (n x : Nat) : leNat (natLe n x) = x % 256 ^ n := by
  induction n generalizing x with
  | zero => simp [natLe, leNat, Nat.mod_one]
  | succ n ih =>
    rw [Nat.pow_succ, Nat.mul_comm, Nat.mod_mul]
    simp [natLe, leNat, ih]

end Sys2Proof
end

