-- ==== Sys2Proof/Laws/Memory.lean ====
section
/-! SUPPORT. Laws of device memory: every write keeps the canonical form, a read after a write to the same address gives
what was written, and a write leaves every other address alone. -/

namespace Sys2Proof.Machine

open Sys2Proof

/-! ## The canonical form -/

theorem risingKeys_iff {α : Type} : {t : Tab α} → (risingKeys t = true ↔ ∃ lo, keysFrom lo t)
  | [] => by simp [risingKeys, keysFrom]
  | [(k, a)] => by
    simp only [risingKeys, keysFrom, and_true, true_iff]
    exact ⟨k, Nat.le_refl k⟩
  | (k, a) :: (l, b) :: t => by
    have ih := risingKeys_iff (t := (l, b) :: t)
    simp only [risingKeys, Bool.and_eq_true, decide_eq_true_eq]
    constructor
    · rintro ⟨h, ht⟩
      obtain ⟨lo, hl⟩ := ih.1 ht
      exact ⟨k, Nat.le_refl k, by omega, hl.2⟩
    · rintro ⟨lo, -, h⟩
      exact ⟨by have := h.1; omega, ih.2 ⟨k + 1, h⟩⟩

theorem keysFrom_zero_of_risingKeys {α : Type} {t : Tab α} (h : risingKeys t = true) : keysFrom 0 t := by
  obtain ⟨lo, hl⟩ := risingKeys_iff.1 h
  exact keysFrom_mono (Nat.zero_le lo) hl

theorem risingKeys_of_keysFrom {α : Type} {t : Tab α} {lo : Nat} (h : keysFrom lo t) : risingKeys t = true :=
  risingKeys_iff.2 ⟨lo, h⟩

/-- What `Memory.wf` says, as propositions. -/
theorem Memory.wf_iff (m : Memory) : m.wf = true ↔
    (risingKeys m.cells = true ∧ ∀ c ∈ m.cells, c.1 < memBytes ∧ c.2 ≠ emptyByte) ∧
    (risingKeys m.keys = true ∧ ∀ c ∈ m.keys, c.1 < memBytes ∧ c.2 ≠ KeyId.slot0) := by
  simp [Memory.wf, List.all_eq_true]

theorem Memory.write_wf (m : Memory) (w : MemWrite) (h : m.wf = true) : (m.write w).wf = true := by
  obtain ⟨⟨hc, hc'⟩, hk, hk'⟩ := m.wf_iff.1 h
  have fc := keysFrom_zero_of_risingKeys hc
  have fk := keysFrom_zero_of_risingKeys hk
  by_cases ha : w.addr < memBytes
  · refine (Memory.wf_iff _).2 ?_
    simp only [Memory.write, ha, if_true]
    refine ⟨⟨?_, ?_⟩, ?_, ?_⟩
    · split
      · exact risingKeys_of_keysFrom (keysFrom_del fc)
      · exact risingKeys_of_keysFrom (keysFrom_put _ (Nat.zero_le _) fc)
    · intro c hm
      split at hm
      · exact hc' c (mem_del hm)
      · rename_i hb
        rcases mem_put hm with rfl | hm
        · exact ⟨ha, hb⟩
        · exact hc' c hm
    · split
      · exact risingKeys_of_keysFrom (keysFrom_del fk)
      · exact risingKeys_of_keysFrom (keysFrom_put _ (Nat.zero_le _) fk)
    · intro c hm
      split at hm
      · exact hk' c (mem_del hm)
      · rename_i hb
        rcases mem_put hm with rfl | hm
        · exact ⟨ha, hb⟩
        · exact hk' c hm
  · simpa [Memory.write, ha] using h

/-- Committing a command's writes keeps the canonical form. -/
theorem Memory.commit_wf (m : Memory) (l : List MemWrite) (h : m.wf = true) : (m.commit l).wf = true := by
  induction l with
  | nil => exact h
  | cons w l ih => exact Memory.write_wf _ w ih

/-! ## Read after write -/

theorem Memory.raw_write_same (m : Memory) (w : MemWrite) (h : m.wf = true) (ha : w.addr < memBytes) :
    (m.write w).raw w.addr = w.byte := by
  have fc := keysFrom_zero_of_risingKeys (m.wf_iff.1 h).1.1
  by_cases hb : w.byte = emptyByte
  · simp [Memory.raw, Memory.write, ha, hb, Tab.getD, Tab.get?_del_same fc]
  · simp [Memory.raw, Memory.write, ha, hb]

theorem Memory.keyAt_write_same (m : Memory) (w : MemWrite) (h : m.wf = true) (ha : w.addr < memBytes) :
    (m.write w).keyAt w.addr = w.key := by
  have fk := keysFrom_zero_of_risingKeys (m.wf_iff.1 h).2.1
  by_cases hb : w.key = .slot0
  · simp [Memory.keyAt, Memory.write, ha, hb, Tab.getD, Tab.get?_del_same fk]
  · simp [Memory.keyAt, Memory.write, ha, hb]

theorem Memory.raw_write_ne (m : Memory) (w : MemWrite) {a : Nat} (h : a ≠ w.addr) : (m.write w).raw a = m.raw a := by
  simp only [Memory.raw, Memory.write]
  split
  · split
    · simp [Tab.getD, Tab.get?_del_ne m.cells h]
    · simp [Tab.getD_put_ne m.cells _ _ h]
  · rfl

theorem Memory.keyAt_write_ne (m : Memory) (w : MemWrite) {a : Nat} (h : a ≠ w.addr) :
    (m.write w).keyAt a = m.keyAt a := by
  unfold Memory.keyAt Memory.write
  split
  · by_cases hk : w.key = .slot0
    · simp [hk, Tab.getD, Tab.get?_del_ne m.keys h]
    · simp [hk, Tab.getD_put_ne m.keys _ _ h]
  · rfl

/-- A byte written under a key reads as written under that key. -/
theorem Memory.read_write_same (m : Memory) (w : MemWrite) (h : m.wf = true) (ha : w.addr < memBytes) :
    (m.write w).read w.key w.addr = w.byte := by
  simp [Memory.read, Memory.raw_write_same m w h ha, Memory.keyAt_write_same m w h ha]

/-- Every other address reads as before under every key. -/
theorem Memory.read_write_ne (m : Memory) (w : MemWrite) (k : KeyId) {a : Nat} (h : a ≠ w.addr) :
    (m.write w).read k a = m.read k a := by
  simp [Memory.read, Memory.raw_write_ne m w h, Memory.keyAt_write_ne m w h]

/-! ## Steps -/

@[simp] theorem runMem_eq (f : Wk → Wk) (s : State) : runMem f s =
    .next { s with dev := (f ⟨s.dev, s.mem, []⟩).dev, mem := s.mem.commit (f ⟨s.dev, s.mem, []⟩).log } := rfl

@[simp] theorem runDev_eq (f : Memory → Dev → Dev) (s : State) : runDev f s = .next { s with dev := f s.mem s.dev } := rfl

@[simp] theorem Memory.commit_nil (m : Memory) : m.commit [] = m := rfl

@[simp] theorem Wk.on_dev (f : Dev → Dev) (w : Wk) : (w.on f).dev = f w.dev := rfl
@[simp] theorem Wk.on_mem (f : Dev → Dev) (w : Wk) : (w.on f).mem = w.mem := rfl
@[simp] theorem Wk.on_log (f : Dev → Dev) (w : Wk) : (w.on f).log = w.log := rfl

end Sys2Proof.Machine
end

