-- ==== Sys2Proof/Laws/State.lean ====
section
/-! SUPPORT. What each update of `State` and of `Dev` leaves alone: one lemma for each field and update, each true by
unfolding, so that no later proof unfolds a record update. -/

namespace Sys2Proof.Machine

open Sys2Proof

/-! ## State -/

@[simp] theorem State.dev_with_pending (s : State) (l : List Instr) : ({ s with pending := l } : State).dev = s.dev := rfl
@[simp] theorem State.mem_with_pending (s : State) (l : List Instr) : ({ s with pending := l } : State).mem = s.mem := rfl
@[simp] theorem State.pending_with_dev (s : State) (d : Dev) : ({ s with dev := d } : State).pending = s.pending := rfl
@[simp] theorem State.mem_with_dev (s : State) (d : Dev) : ({ s with dev := d } : State).mem = s.mem := rfl

/-! ## `Dev.setFn` -/

@[simp] theorem Dev.setFn_clk (d : Dev) (i : Nat) (x : Fn) : (d.setFn i x).clk = d.clk := rfl
@[simp] theorem Dev.setFn_boot (d : Dev) (i : Nat) (x : Fn) : (d.setFn i x).boot = d.boot := rfl
@[simp] theorem Dev.setFn_vds (d : Dev) (i : Nat) (x : Fn) : (d.setFn i x).vds = d.vds := rfl
@[simp] theorem Dev.setFn_mbx (d : Dev) (i : Nat) (x : Fn) : (d.setFn i x).mbx = d.mbx := rfl
@[simp] theorem Dev.setFn_notices (d : Dev) (i : Nat) (x : Fn) : (d.setFn i x).notices = d.notices := rfl
@[simp] theorem Dev.setFn_evcs (d : Dev) (i : Nat) (x : Fn) : (d.setFn i x).evcs = d.evcs := rfl
@[simp] theorem Dev.setFn_fx (d : Dev) (i : Nat) (x : Fn) : (d.setFn i x).fx = d.fx := rfl
@[simp] theorem Dev.setFn_ctxs (d : Dev) (i : Nat) (x : Fn) : (d.setFn i x).ctxs = d.ctxs := rfl
@[simp] theorem Dev.setFn_exports (d : Dev) (i : Nat) (x : Fn) : (d.setFn i x).exports = d.exports := rfl
@[simp] theorem Dev.setFn_nextExport (d : Dev) (i : Nat) (x : Fn) : (d.setFn i x).nextExport = d.nextExport := rfl
@[simp] theorem Dev.setFn_blobs (d : Dev) (i : Nat) (x : Fn) : (d.setFn i x).blobs = d.blobs := rfl
@[simp] theorem Dev.setFn_xlt (d : Dev) (i : Nat) (x : Fn) : (d.setFn i x).xlt = d.xlt := rfl
@[simp] theorem Dev.setFn_mc (d : Dev) (i : Nat) (x : Fn) : (d.setFn i x).mc = d.mc := rfl
@[simp] theorem Dev.setFn_sched (d : Dev) (i : Nat) (x : Fn) : (d.setFn i x).sched = d.sched := rfl
@[simp] theorem Dev.setFn_fw (d : Dev) (i : Nat) (x : Fn) : (d.setFn i x).fw = d.fw := rfl
@[simp] theorem Dev.setFn_sec (d : Dev) (i : Nat) (x : Fn) : (d.setFn i x).sec = d.sec := rfl
@[simp] theorem Dev.setFn_kern (d : Dev) (i : Nat) (x : Fn) : (d.setFn i x).kern = d.kern := rfl
@[simp] theorem Dev.setFn_fab (d : Dev) (i : Nat) (x : Fn) : (d.setFn i x).fab = d.fab := rfl
@[simp] theorem Dev.setFn_pwr (d : Dev) (i : Nat) (x : Fn) : (d.setFn i x).pwr = d.pwr := rfl
@[simp] theorem Dev.setFn_od (d : Dev) (i : Nat) (x : Fn) : (d.setFn i x).od = d.od := rfl
@[simp] theorem Dev.setFn_dredges (d : Dev) (i : Nat) (x : Fn) : (d.setFn i x).dredges = d.dredges := rfl
@[simp] theorem Dev.setFn_records (d : Dev) (i : Nat) (x : Fn) : (d.setFn i x).records = d.records := rfl
@[simp] theorem Dev.setFn_events (d : Dev) (i : Nat) (x : Fn) : (d.setFn i x).events = d.events := rfl
@[simp] theorem Dev.setFn_hdTimes (d : Dev) (i : Nat) (x : Fn) : (d.setFn i x).hdTimes = d.hdTimes := rfl
@[simp] theorem Dev.setFn_net (d : Dev) (i : Nat) (x : Fn) : (d.setFn i x).net = d.net := rfl
@[simp] theorem Dev.setFn_hostLinks (d : Dev) (i : Nat) (x : Fn) : (d.setFn i x).hostLinks = d.hostLinks := rfl
@[simp] theorem Dev.setFn_windowErrors (d : Dev) (i : Nat) (x : Fn) : (d.setFn i x).windowErrors = d.windowErrors := rfl
@[simp] theorem Dev.setFn_out (d : Dev) (i : Nat) (x : Fn) : (d.setFn i x).out = d.out := rfl
@[simp] theorem Dev.setFn_draws (d : Dev) (i : Nat) (x : Fn) : (d.setFn i x).draws = d.draws := rfl

/-! ## `Dev.onFn` -/

@[simp] theorem Dev.onFn_clk (d : Dev) (i : Nat) (f : Fn → Fn) : (d.onFn i f).clk = d.clk := rfl
@[simp] theorem Dev.onFn_boot (d : Dev) (i : Nat) (f : Fn → Fn) : (d.onFn i f).boot = d.boot := rfl
@[simp] theorem Dev.onFn_vds (d : Dev) (i : Nat) (f : Fn → Fn) : (d.onFn i f).vds = d.vds := rfl
@[simp] theorem Dev.onFn_mbx (d : Dev) (i : Nat) (f : Fn → Fn) : (d.onFn i f).mbx = d.mbx := rfl
@[simp] theorem Dev.onFn_notices (d : Dev) (i : Nat) (f : Fn → Fn) : (d.onFn i f).notices = d.notices := rfl
@[simp] theorem Dev.onFn_evcs (d : Dev) (i : Nat) (f : Fn → Fn) : (d.onFn i f).evcs = d.evcs := rfl
@[simp] theorem Dev.onFn_fx (d : Dev) (i : Nat) (f : Fn → Fn) : (d.onFn i f).fx = d.fx := rfl
@[simp] theorem Dev.onFn_ctxs (d : Dev) (i : Nat) (f : Fn → Fn) : (d.onFn i f).ctxs = d.ctxs := rfl
@[simp] theorem Dev.onFn_exports (d : Dev) (i : Nat) (f : Fn → Fn) : (d.onFn i f).exports = d.exports := rfl
@[simp] theorem Dev.onFn_nextExport (d : Dev) (i : Nat) (f : Fn → Fn) : (d.onFn i f).nextExport = d.nextExport := rfl
@[simp] theorem Dev.onFn_blobs (d : Dev) (i : Nat) (f : Fn → Fn) : (d.onFn i f).blobs = d.blobs := rfl
@[simp] theorem Dev.onFn_xlt (d : Dev) (i : Nat) (f : Fn → Fn) : (d.onFn i f).xlt = d.xlt := rfl
@[simp] theorem Dev.onFn_mc (d : Dev) (i : Nat) (f : Fn → Fn) : (d.onFn i f).mc = d.mc := rfl
@[simp] theorem Dev.onFn_sched (d : Dev) (i : Nat) (f : Fn → Fn) : (d.onFn i f).sched = d.sched := rfl
@[simp] theorem Dev.onFn_fw (d : Dev) (i : Nat) (f : Fn → Fn) : (d.onFn i f).fw = d.fw := rfl
@[simp] theorem Dev.onFn_sec (d : Dev) (i : Nat) (f : Fn → Fn) : (d.onFn i f).sec = d.sec := rfl
@[simp] theorem Dev.onFn_kern (d : Dev) (i : Nat) (f : Fn → Fn) : (d.onFn i f).kern = d.kern := rfl
@[simp] theorem Dev.onFn_fab (d : Dev) (i : Nat) (f : Fn → Fn) : (d.onFn i f).fab = d.fab := rfl
@[simp] theorem Dev.onFn_pwr (d : Dev) (i : Nat) (f : Fn → Fn) : (d.onFn i f).pwr = d.pwr := rfl
@[simp] theorem Dev.onFn_od (d : Dev) (i : Nat) (f : Fn → Fn) : (d.onFn i f).od = d.od := rfl
@[simp] theorem Dev.onFn_dredges (d : Dev) (i : Nat) (f : Fn → Fn) : (d.onFn i f).dredges = d.dredges := rfl
@[simp] theorem Dev.onFn_records (d : Dev) (i : Nat) (f : Fn → Fn) : (d.onFn i f).records = d.records := rfl
@[simp] theorem Dev.onFn_events (d : Dev) (i : Nat) (f : Fn → Fn) : (d.onFn i f).events = d.events := rfl
@[simp] theorem Dev.onFn_hdTimes (d : Dev) (i : Nat) (f : Fn → Fn) : (d.onFn i f).hdTimes = d.hdTimes := rfl
@[simp] theorem Dev.onFn_net (d : Dev) (i : Nat) (f : Fn → Fn) : (d.onFn i f).net = d.net := rfl
@[simp] theorem Dev.onFn_hostLinks (d : Dev) (i : Nat) (f : Fn → Fn) : (d.onFn i f).hostLinks = d.hostLinks := rfl
@[simp] theorem Dev.onFn_windowErrors (d : Dev) (i : Nat) (f : Fn → Fn) : (d.onFn i f).windowErrors = d.windowErrors := rfl
@[simp] theorem Dev.onFn_out (d : Dev) (i : Nat) (f : Fn → Fn) : (d.onFn i f).out = d.out := rfl
@[simp] theorem Dev.onFn_draws (d : Dev) (i : Nat) (f : Fn → Fn) : (d.onFn i f).draws = d.draws := rfl

/-! ## `Dev.setVd` -/

@[simp] theorem Dev.setVd_clk (d : Dev) (v : Nat) (x : Vd) : (d.setVd v x).clk = d.clk := rfl
@[simp] theorem Dev.setVd_boot (d : Dev) (v : Nat) (x : Vd) : (d.setVd v x).boot = d.boot := rfl
@[simp] theorem Dev.setVd_fns (d : Dev) (v : Nat) (x : Vd) : (d.setVd v x).fns = d.fns := rfl
@[simp] theorem Dev.setVd_mbx (d : Dev) (v : Nat) (x : Vd) : (d.setVd v x).mbx = d.mbx := rfl
@[simp] theorem Dev.setVd_notices (d : Dev) (v : Nat) (x : Vd) : (d.setVd v x).notices = d.notices := rfl
@[simp] theorem Dev.setVd_evcs (d : Dev) (v : Nat) (x : Vd) : (d.setVd v x).evcs = d.evcs := rfl
@[simp] theorem Dev.setVd_fx (d : Dev) (v : Nat) (x : Vd) : (d.setVd v x).fx = d.fx := rfl
@[simp] theorem Dev.setVd_ctxs (d : Dev) (v : Nat) (x : Vd) : (d.setVd v x).ctxs = d.ctxs := rfl
@[simp] theorem Dev.setVd_exports (d : Dev) (v : Nat) (x : Vd) : (d.setVd v x).exports = d.exports := rfl
@[simp] theorem Dev.setVd_nextExport (d : Dev) (v : Nat) (x : Vd) : (d.setVd v x).nextExport = d.nextExport := rfl
@[simp] theorem Dev.setVd_blobs (d : Dev) (v : Nat) (x : Vd) : (d.setVd v x).blobs = d.blobs := rfl
@[simp] theorem Dev.setVd_xlt (d : Dev) (v : Nat) (x : Vd) : (d.setVd v x).xlt = d.xlt := rfl
@[simp] theorem Dev.setVd_mc (d : Dev) (v : Nat) (x : Vd) : (d.setVd v x).mc = d.mc := rfl
@[simp] theorem Dev.setVd_sched (d : Dev) (v : Nat) (x : Vd) : (d.setVd v x).sched = d.sched := rfl
@[simp] theorem Dev.setVd_fw (d : Dev) (v : Nat) (x : Vd) : (d.setVd v x).fw = d.fw := rfl
@[simp] theorem Dev.setVd_sec (d : Dev) (v : Nat) (x : Vd) : (d.setVd v x).sec = d.sec := rfl
@[simp] theorem Dev.setVd_kern (d : Dev) (v : Nat) (x : Vd) : (d.setVd v x).kern = d.kern := rfl
@[simp] theorem Dev.setVd_fab (d : Dev) (v : Nat) (x : Vd) : (d.setVd v x).fab = d.fab := rfl
@[simp] theorem Dev.setVd_pwr (d : Dev) (v : Nat) (x : Vd) : (d.setVd v x).pwr = d.pwr := rfl
@[simp] theorem Dev.setVd_od (d : Dev) (v : Nat) (x : Vd) : (d.setVd v x).od = d.od := rfl
@[simp] theorem Dev.setVd_dredges (d : Dev) (v : Nat) (x : Vd) : (d.setVd v x).dredges = d.dredges := rfl
@[simp] theorem Dev.setVd_records (d : Dev) (v : Nat) (x : Vd) : (d.setVd v x).records = d.records := rfl
@[simp] theorem Dev.setVd_events (d : Dev) (v : Nat) (x : Vd) : (d.setVd v x).events = d.events := rfl
@[simp] theorem Dev.setVd_hdTimes (d : Dev) (v : Nat) (x : Vd) : (d.setVd v x).hdTimes = d.hdTimes := rfl
@[simp] theorem Dev.setVd_net (d : Dev) (v : Nat) (x : Vd) : (d.setVd v x).net = d.net := rfl
@[simp] theorem Dev.setVd_hostLinks (d : Dev) (v : Nat) (x : Vd) : (d.setVd v x).hostLinks = d.hostLinks := rfl
@[simp] theorem Dev.setVd_windowErrors (d : Dev) (v : Nat) (x : Vd) : (d.setVd v x).windowErrors = d.windowErrors := rfl
@[simp] theorem Dev.setVd_out (d : Dev) (v : Nat) (x : Vd) : (d.setVd v x).out = d.out := rfl
@[simp] theorem Dev.setVd_draws (d : Dev) (v : Nat) (x : Vd) : (d.setVd v x).draws = d.draws := rfl

/-! ## `Dev.onVd` -/

@[simp] theorem Dev.onVd_clk (d : Dev) (v : Nat) (f : Vd → Vd) : (d.onVd v f).clk = d.clk := rfl
@[simp] theorem Dev.onVd_boot (d : Dev) (v : Nat) (f : Vd → Vd) : (d.onVd v f).boot = d.boot := rfl
@[simp] theorem Dev.onVd_fns (d : Dev) (v : Nat) (f : Vd → Vd) : (d.onVd v f).fns = d.fns := rfl
@[simp] theorem Dev.onVd_mbx (d : Dev) (v : Nat) (f : Vd → Vd) : (d.onVd v f).mbx = d.mbx := rfl
@[simp] theorem Dev.onVd_notices (d : Dev) (v : Nat) (f : Vd → Vd) : (d.onVd v f).notices = d.notices := rfl
@[simp] theorem Dev.onVd_evcs (d : Dev) (v : Nat) (f : Vd → Vd) : (d.onVd v f).evcs = d.evcs := rfl
@[simp] theorem Dev.onVd_fx (d : Dev) (v : Nat) (f : Vd → Vd) : (d.onVd v f).fx = d.fx := rfl
@[simp] theorem Dev.onVd_ctxs (d : Dev) (v : Nat) (f : Vd → Vd) : (d.onVd v f).ctxs = d.ctxs := rfl
@[simp] theorem Dev.onVd_exports (d : Dev) (v : Nat) (f : Vd → Vd) : (d.onVd v f).exports = d.exports := rfl
@[simp] theorem Dev.onVd_nextExport (d : Dev) (v : Nat) (f : Vd → Vd) : (d.onVd v f).nextExport = d.nextExport := rfl
@[simp] theorem Dev.onVd_blobs (d : Dev) (v : Nat) (f : Vd → Vd) : (d.onVd v f).blobs = d.blobs := rfl
@[simp] theorem Dev.onVd_xlt (d : Dev) (v : Nat) (f : Vd → Vd) : (d.onVd v f).xlt = d.xlt := rfl
@[simp] theorem Dev.onVd_mc (d : Dev) (v : Nat) (f : Vd → Vd) : (d.onVd v f).mc = d.mc := rfl
@[simp] theorem Dev.onVd_sched (d : Dev) (v : Nat) (f : Vd → Vd) : (d.onVd v f).sched = d.sched := rfl
@[simp] theorem Dev.onVd_fw (d : Dev) (v : Nat) (f : Vd → Vd) : (d.onVd v f).fw = d.fw := rfl
@[simp] theorem Dev.onVd_sec (d : Dev) (v : Nat) (f : Vd → Vd) : (d.onVd v f).sec = d.sec := rfl
@[simp] theorem Dev.onVd_kern (d : Dev) (v : Nat) (f : Vd → Vd) : (d.onVd v f).kern = d.kern := rfl
@[simp] theorem Dev.onVd_fab (d : Dev) (v : Nat) (f : Vd → Vd) : (d.onVd v f).fab = d.fab := rfl
@[simp] theorem Dev.onVd_pwr (d : Dev) (v : Nat) (f : Vd → Vd) : (d.onVd v f).pwr = d.pwr := rfl
@[simp] theorem Dev.onVd_od (d : Dev) (v : Nat) (f : Vd → Vd) : (d.onVd v f).od = d.od := rfl
@[simp] theorem Dev.onVd_dredges (d : Dev) (v : Nat) (f : Vd → Vd) : (d.onVd v f).dredges = d.dredges := rfl
@[simp] theorem Dev.onVd_records (d : Dev) (v : Nat) (f : Vd → Vd) : (d.onVd v f).records = d.records := rfl
@[simp] theorem Dev.onVd_events (d : Dev) (v : Nat) (f : Vd → Vd) : (d.onVd v f).events = d.events := rfl
@[simp] theorem Dev.onVd_hdTimes (d : Dev) (v : Nat) (f : Vd → Vd) : (d.onVd v f).hdTimes = d.hdTimes := rfl
@[simp] theorem Dev.onVd_net (d : Dev) (v : Nat) (f : Vd → Vd) : (d.onVd v f).net = d.net := rfl
@[simp] theorem Dev.onVd_hostLinks (d : Dev) (v : Nat) (f : Vd → Vd) : (d.onVd v f).hostLinks = d.hostLinks := rfl
@[simp] theorem Dev.onVd_windowErrors (d : Dev) (v : Nat) (f : Vd → Vd) : (d.onVd v f).windowErrors = d.windowErrors := rfl
@[simp] theorem Dev.onVd_out (d : Dev) (v : Nat) (f : Vd → Vd) : (d.onVd v f).out = d.out := rfl
@[simp] theorem Dev.onVd_draws (d : Dev) (v : Nat) (f : Vd → Vd) : (d.onVd v f).draws = d.draws := rfl

/-! ## `Dev.setQueue` -/

@[simp] theorem Dev.setQueue_clk (d : Dev) (v q : Nat) (x : Queue) : (d.setQueue v q x).clk = d.clk := rfl
@[simp] theorem Dev.setQueue_boot (d : Dev) (v q : Nat) (x : Queue) : (d.setQueue v q x).boot = d.boot := rfl
@[simp] theorem Dev.setQueue_fns (d : Dev) (v q : Nat) (x : Queue) : (d.setQueue v q x).fns = d.fns := rfl
@[simp] theorem Dev.setQueue_mbx (d : Dev) (v q : Nat) (x : Queue) : (d.setQueue v q x).mbx = d.mbx := rfl
@[simp] theorem Dev.setQueue_notices (d : Dev) (v q : Nat) (x : Queue) : (d.setQueue v q x).notices = d.notices := rfl
@[simp] theorem Dev.setQueue_evcs (d : Dev) (v q : Nat) (x : Queue) : (d.setQueue v q x).evcs = d.evcs := rfl
@[simp] theorem Dev.setQueue_fx (d : Dev) (v q : Nat) (x : Queue) : (d.setQueue v q x).fx = d.fx := rfl
@[simp] theorem Dev.setQueue_ctxs (d : Dev) (v q : Nat) (x : Queue) : (d.setQueue v q x).ctxs = d.ctxs := rfl
@[simp] theorem Dev.setQueue_exports (d : Dev) (v q : Nat) (x : Queue) : (d.setQueue v q x).exports = d.exports := rfl
@[simp] theorem Dev.setQueue_nextExport (d : Dev) (v q : Nat) (x : Queue) : (d.setQueue v q x).nextExport = d.nextExport := rfl
@[simp] theorem Dev.setQueue_blobs (d : Dev) (v q : Nat) (x : Queue) : (d.setQueue v q x).blobs = d.blobs := rfl
@[simp] theorem Dev.setQueue_xlt (d : Dev) (v q : Nat) (x : Queue) : (d.setQueue v q x).xlt = d.xlt := rfl
@[simp] theorem Dev.setQueue_mc (d : Dev) (v q : Nat) (x : Queue) : (d.setQueue v q x).mc = d.mc := rfl
@[simp] theorem Dev.setQueue_sched (d : Dev) (v q : Nat) (x : Queue) : (d.setQueue v q x).sched = d.sched := rfl
@[simp] theorem Dev.setQueue_fw (d : Dev) (v q : Nat) (x : Queue) : (d.setQueue v q x).fw = d.fw := rfl
@[simp] theorem Dev.setQueue_sec (d : Dev) (v q : Nat) (x : Queue) : (d.setQueue v q x).sec = d.sec := rfl
@[simp] theorem Dev.setQueue_kern (d : Dev) (v q : Nat) (x : Queue) : (d.setQueue v q x).kern = d.kern := rfl
@[simp] theorem Dev.setQueue_fab (d : Dev) (v q : Nat) (x : Queue) : (d.setQueue v q x).fab = d.fab := rfl
@[simp] theorem Dev.setQueue_pwr (d : Dev) (v q : Nat) (x : Queue) : (d.setQueue v q x).pwr = d.pwr := rfl
@[simp] theorem Dev.setQueue_od (d : Dev) (v q : Nat) (x : Queue) : (d.setQueue v q x).od = d.od := rfl
@[simp] theorem Dev.setQueue_dredges (d : Dev) (v q : Nat) (x : Queue) : (d.setQueue v q x).dredges = d.dredges := rfl
@[simp] theorem Dev.setQueue_records (d : Dev) (v q : Nat) (x : Queue) : (d.setQueue v q x).records = d.records := rfl
@[simp] theorem Dev.setQueue_events (d : Dev) (v q : Nat) (x : Queue) : (d.setQueue v q x).events = d.events := rfl
@[simp] theorem Dev.setQueue_hdTimes (d : Dev) (v q : Nat) (x : Queue) : (d.setQueue v q x).hdTimes = d.hdTimes := rfl
@[simp] theorem Dev.setQueue_net (d : Dev) (v q : Nat) (x : Queue) : (d.setQueue v q x).net = d.net := rfl
@[simp] theorem Dev.setQueue_hostLinks (d : Dev) (v q : Nat) (x : Queue) : (d.setQueue v q x).hostLinks = d.hostLinks := rfl
@[simp] theorem Dev.setQueue_windowErrors (d : Dev) (v q : Nat) (x : Queue) : (d.setQueue v q x).windowErrors = d.windowErrors := rfl
@[simp] theorem Dev.setQueue_out (d : Dev) (v q : Nat) (x : Queue) : (d.setQueue v q x).out = d.out := rfl
@[simp] theorem Dev.setQueue_draws (d : Dev) (v q : Nat) (x : Queue) : (d.setQueue v q x).draws = d.draws := rfl

/-! ## `Dev.onMc` -/

@[simp] theorem Dev.onMc_clk (d : Dev) (f : Mc → Mc) : (d.onMc f).clk = d.clk := rfl
@[simp] theorem Dev.onMc_boot (d : Dev) (f : Mc → Mc) : (d.onMc f).boot = d.boot := rfl
@[simp] theorem Dev.onMc_fns (d : Dev) (f : Mc → Mc) : (d.onMc f).fns = d.fns := rfl
@[simp] theorem Dev.onMc_vds (d : Dev) (f : Mc → Mc) : (d.onMc f).vds = d.vds := rfl
@[simp] theorem Dev.onMc_mbx (d : Dev) (f : Mc → Mc) : (d.onMc f).mbx = d.mbx := rfl
@[simp] theorem Dev.onMc_notices (d : Dev) (f : Mc → Mc) : (d.onMc f).notices = d.notices := rfl
@[simp] theorem Dev.onMc_evcs (d : Dev) (f : Mc → Mc) : (d.onMc f).evcs = d.evcs := rfl
@[simp] theorem Dev.onMc_fx (d : Dev) (f : Mc → Mc) : (d.onMc f).fx = d.fx := rfl
@[simp] theorem Dev.onMc_ctxs (d : Dev) (f : Mc → Mc) : (d.onMc f).ctxs = d.ctxs := rfl
@[simp] theorem Dev.onMc_exports (d : Dev) (f : Mc → Mc) : (d.onMc f).exports = d.exports := rfl
@[simp] theorem Dev.onMc_nextExport (d : Dev) (f : Mc → Mc) : (d.onMc f).nextExport = d.nextExport := rfl
@[simp] theorem Dev.onMc_blobs (d : Dev) (f : Mc → Mc) : (d.onMc f).blobs = d.blobs := rfl
@[simp] theorem Dev.onMc_xlt (d : Dev) (f : Mc → Mc) : (d.onMc f).xlt = d.xlt := rfl
@[simp] theorem Dev.onMc_sched (d : Dev) (f : Mc → Mc) : (d.onMc f).sched = d.sched := rfl
@[simp] theorem Dev.onMc_fw (d : Dev) (f : Mc → Mc) : (d.onMc f).fw = d.fw := rfl
@[simp] theorem Dev.onMc_sec (d : Dev) (f : Mc → Mc) : (d.onMc f).sec = d.sec := rfl
@[simp] theorem Dev.onMc_kern (d : Dev) (f : Mc → Mc) : (d.onMc f).kern = d.kern := rfl
@[simp] theorem Dev.onMc_fab (d : Dev) (f : Mc → Mc) : (d.onMc f).fab = d.fab := rfl
@[simp] theorem Dev.onMc_pwr (d : Dev) (f : Mc → Mc) : (d.onMc f).pwr = d.pwr := rfl
@[simp] theorem Dev.onMc_od (d : Dev) (f : Mc → Mc) : (d.onMc f).od = d.od := rfl
@[simp] theorem Dev.onMc_dredges (d : Dev) (f : Mc → Mc) : (d.onMc f).dredges = d.dredges := rfl
@[simp] theorem Dev.onMc_records (d : Dev) (f : Mc → Mc) : (d.onMc f).records = d.records := rfl
@[simp] theorem Dev.onMc_events (d : Dev) (f : Mc → Mc) : (d.onMc f).events = d.events := rfl
@[simp] theorem Dev.onMc_hdTimes (d : Dev) (f : Mc → Mc) : (d.onMc f).hdTimes = d.hdTimes := rfl
@[simp] theorem Dev.onMc_net (d : Dev) (f : Mc → Mc) : (d.onMc f).net = d.net := rfl
@[simp] theorem Dev.onMc_hostLinks (d : Dev) (f : Mc → Mc) : (d.onMc f).hostLinks = d.hostLinks := rfl
@[simp] theorem Dev.onMc_windowErrors (d : Dev) (f : Mc → Mc) : (d.onMc f).windowErrors = d.windowErrors := rfl
@[simp] theorem Dev.onMc_out (d : Dev) (f : Mc → Mc) : (d.onMc f).out = d.out := rfl
@[simp] theorem Dev.onMc_draws (d : Dev) (f : Mc → Mc) : (d.onMc f).draws = d.draws := rfl

/-! ## `Dev.onChan` -/

@[simp] theorem Dev.onChan_clk (d : Dev) (c : Nat) (f : Channel → Channel) : (d.onChan c f).clk = d.clk := rfl
@[simp] theorem Dev.onChan_boot (d : Dev) (c : Nat) (f : Channel → Channel) : (d.onChan c f).boot = d.boot := rfl
@[simp] theorem Dev.onChan_fns (d : Dev) (c : Nat) (f : Channel → Channel) : (d.onChan c f).fns = d.fns := rfl
@[simp] theorem Dev.onChan_vds (d : Dev) (c : Nat) (f : Channel → Channel) : (d.onChan c f).vds = d.vds := rfl
@[simp] theorem Dev.onChan_mbx (d : Dev) (c : Nat) (f : Channel → Channel) : (d.onChan c f).mbx = d.mbx := rfl
@[simp] theorem Dev.onChan_notices (d : Dev) (c : Nat) (f : Channel → Channel) : (d.onChan c f).notices = d.notices := rfl
@[simp] theorem Dev.onChan_evcs (d : Dev) (c : Nat) (f : Channel → Channel) : (d.onChan c f).evcs = d.evcs := rfl
@[simp] theorem Dev.onChan_fx (d : Dev) (c : Nat) (f : Channel → Channel) : (d.onChan c f).fx = d.fx := rfl
@[simp] theorem Dev.onChan_ctxs (d : Dev) (c : Nat) (f : Channel → Channel) : (d.onChan c f).ctxs = d.ctxs := rfl
@[simp] theorem Dev.onChan_exports (d : Dev) (c : Nat) (f : Channel → Channel) : (d.onChan c f).exports = d.exports := rfl
@[simp] theorem Dev.onChan_nextExport (d : Dev) (c : Nat) (f : Channel → Channel) : (d.onChan c f).nextExport = d.nextExport := rfl
@[simp] theorem Dev.onChan_blobs (d : Dev) (c : Nat) (f : Channel → Channel) : (d.onChan c f).blobs = d.blobs := rfl
@[simp] theorem Dev.onChan_xlt (d : Dev) (c : Nat) (f : Channel → Channel) : (d.onChan c f).xlt = d.xlt := rfl
@[simp] theorem Dev.onChan_sched (d : Dev) (c : Nat) (f : Channel → Channel) : (d.onChan c f).sched = d.sched := rfl
@[simp] theorem Dev.onChan_fw (d : Dev) (c : Nat) (f : Channel → Channel) : (d.onChan c f).fw = d.fw := rfl
@[simp] theorem Dev.onChan_sec (d : Dev) (c : Nat) (f : Channel → Channel) : (d.onChan c f).sec = d.sec := rfl
@[simp] theorem Dev.onChan_kern (d : Dev) (c : Nat) (f : Channel → Channel) : (d.onChan c f).kern = d.kern := rfl
@[simp] theorem Dev.onChan_fab (d : Dev) (c : Nat) (f : Channel → Channel) : (d.onChan c f).fab = d.fab := rfl
@[simp] theorem Dev.onChan_pwr (d : Dev) (c : Nat) (f : Channel → Channel) : (d.onChan c f).pwr = d.pwr := rfl
@[simp] theorem Dev.onChan_od (d : Dev) (c : Nat) (f : Channel → Channel) : (d.onChan c f).od = d.od := rfl
@[simp] theorem Dev.onChan_dredges (d : Dev) (c : Nat) (f : Channel → Channel) : (d.onChan c f).dredges = d.dredges := rfl
@[simp] theorem Dev.onChan_records (d : Dev) (c : Nat) (f : Channel → Channel) : (d.onChan c f).records = d.records := rfl
@[simp] theorem Dev.onChan_events (d : Dev) (c : Nat) (f : Channel → Channel) : (d.onChan c f).events = d.events := rfl
@[simp] theorem Dev.onChan_hdTimes (d : Dev) (c : Nat) (f : Channel → Channel) : (d.onChan c f).hdTimes = d.hdTimes := rfl
@[simp] theorem Dev.onChan_net (d : Dev) (c : Nat) (f : Channel → Channel) : (d.onChan c f).net = d.net := rfl
@[simp] theorem Dev.onChan_hostLinks (d : Dev) (c : Nat) (f : Channel → Channel) : (d.onChan c f).hostLinks = d.hostLinks := rfl
@[simp] theorem Dev.onChan_windowErrors (d : Dev) (c : Nat) (f : Channel → Channel) : (d.onChan c f).windowErrors = d.windowErrors := rfl
@[simp] theorem Dev.onChan_out (d : Dev) (c : Nat) (f : Channel → Channel) : (d.onChan c f).out = d.out := rfl
@[simp] theorem Dev.onChan_draws (d : Dev) (c : Nat) (f : Channel → Channel) : (d.onChan c f).draws = d.draws := rfl

/-! ## `Dev.onDie` -/

@[simp] theorem Dev.onDie_clk (d : Dev) (k : Nat) (f : McDie → McDie) : (d.onDie k f).clk = d.clk := rfl
@[simp] theorem Dev.onDie_boot (d : Dev) (k : Nat) (f : McDie → McDie) : (d.onDie k f).boot = d.boot := rfl
@[simp] theorem Dev.onDie_fns (d : Dev) (k : Nat) (f : McDie → McDie) : (d.onDie k f).fns = d.fns := rfl
@[simp] theorem Dev.onDie_vds (d : Dev) (k : Nat) (f : McDie → McDie) : (d.onDie k f).vds = d.vds := rfl
@[simp] theorem Dev.onDie_mbx (d : Dev) (k : Nat) (f : McDie → McDie) : (d.onDie k f).mbx = d.mbx := rfl
@[simp] theorem Dev.onDie_notices (d : Dev) (k : Nat) (f : McDie → McDie) : (d.onDie k f).notices = d.notices := rfl
@[simp] theorem Dev.onDie_evcs (d : Dev) (k : Nat) (f : McDie → McDie) : (d.onDie k f).evcs = d.evcs := rfl
@[simp] theorem Dev.onDie_fx (d : Dev) (k : Nat) (f : McDie → McDie) : (d.onDie k f).fx = d.fx := rfl
@[simp] theorem Dev.onDie_ctxs (d : Dev) (k : Nat) (f : McDie → McDie) : (d.onDie k f).ctxs = d.ctxs := rfl
@[simp] theorem Dev.onDie_exports (d : Dev) (k : Nat) (f : McDie → McDie) : (d.onDie k f).exports = d.exports := rfl
@[simp] theorem Dev.onDie_nextExport (d : Dev) (k : Nat) (f : McDie → McDie) : (d.onDie k f).nextExport = d.nextExport := rfl
@[simp] theorem Dev.onDie_blobs (d : Dev) (k : Nat) (f : McDie → McDie) : (d.onDie k f).blobs = d.blobs := rfl
@[simp] theorem Dev.onDie_xlt (d : Dev) (k : Nat) (f : McDie → McDie) : (d.onDie k f).xlt = d.xlt := rfl
@[simp] theorem Dev.onDie_sched (d : Dev) (k : Nat) (f : McDie → McDie) : (d.onDie k f).sched = d.sched := rfl
@[simp] theorem Dev.onDie_fw (d : Dev) (k : Nat) (f : McDie → McDie) : (d.onDie k f).fw = d.fw := rfl
@[simp] theorem Dev.onDie_sec (d : Dev) (k : Nat) (f : McDie → McDie) : (d.onDie k f).sec = d.sec := rfl
@[simp] theorem Dev.onDie_kern (d : Dev) (k : Nat) (f : McDie → McDie) : (d.onDie k f).kern = d.kern := rfl
@[simp] theorem Dev.onDie_fab (d : Dev) (k : Nat) (f : McDie → McDie) : (d.onDie k f).fab = d.fab := rfl
@[simp] theorem Dev.onDie_pwr (d : Dev) (k : Nat) (f : McDie → McDie) : (d.onDie k f).pwr = d.pwr := rfl
@[simp] theorem Dev.onDie_od (d : Dev) (k : Nat) (f : McDie → McDie) : (d.onDie k f).od = d.od := rfl
@[simp] theorem Dev.onDie_dredges (d : Dev) (k : Nat) (f : McDie → McDie) : (d.onDie k f).dredges = d.dredges := rfl
@[simp] theorem Dev.onDie_records (d : Dev) (k : Nat) (f : McDie → McDie) : (d.onDie k f).records = d.records := rfl
@[simp] theorem Dev.onDie_events (d : Dev) (k : Nat) (f : McDie → McDie) : (d.onDie k f).events = d.events := rfl
@[simp] theorem Dev.onDie_hdTimes (d : Dev) (k : Nat) (f : McDie → McDie) : (d.onDie k f).hdTimes = d.hdTimes := rfl
@[simp] theorem Dev.onDie_net (d : Dev) (k : Nat) (f : McDie → McDie) : (d.onDie k f).net = d.net := rfl
@[simp] theorem Dev.onDie_hostLinks (d : Dev) (k : Nat) (f : McDie → McDie) : (d.onDie k f).hostLinks = d.hostLinks := rfl
@[simp] theorem Dev.onDie_windowErrors (d : Dev) (k : Nat) (f : McDie → McDie) : (d.onDie k f).windowErrors = d.windowErrors := rfl
@[simp] theorem Dev.onDie_out (d : Dev) (k : Nat) (f : McDie → McDie) : (d.onDie k f).out = d.out := rfl
@[simp] theorem Dev.onDie_draws (d : Dev) (k : Nat) (f : McDie → McDie) : (d.onDie k f).draws = d.draws := rfl

/-! ## `Dev.onCell` -/

@[simp] theorem Dev.onCell_clk (d : Dev) (k : Nat) (f : FCell → FCell) : (d.onCell k f).clk = d.clk := rfl
@[simp] theorem Dev.onCell_boot (d : Dev) (k : Nat) (f : FCell → FCell) : (d.onCell k f).boot = d.boot := rfl
@[simp] theorem Dev.onCell_fns (d : Dev) (k : Nat) (f : FCell → FCell) : (d.onCell k f).fns = d.fns := rfl
@[simp] theorem Dev.onCell_vds (d : Dev) (k : Nat) (f : FCell → FCell) : (d.onCell k f).vds = d.vds := rfl
@[simp] theorem Dev.onCell_mbx (d : Dev) (k : Nat) (f : FCell → FCell) : (d.onCell k f).mbx = d.mbx := rfl
@[simp] theorem Dev.onCell_notices (d : Dev) (k : Nat) (f : FCell → FCell) : (d.onCell k f).notices = d.notices := rfl
@[simp] theorem Dev.onCell_evcs (d : Dev) (k : Nat) (f : FCell → FCell) : (d.onCell k f).evcs = d.evcs := rfl
@[simp] theorem Dev.onCell_fx (d : Dev) (k : Nat) (f : FCell → FCell) : (d.onCell k f).fx = d.fx := rfl
@[simp] theorem Dev.onCell_ctxs (d : Dev) (k : Nat) (f : FCell → FCell) : (d.onCell k f).ctxs = d.ctxs := rfl
@[simp] theorem Dev.onCell_exports (d : Dev) (k : Nat) (f : FCell → FCell) : (d.onCell k f).exports = d.exports := rfl
@[simp] theorem Dev.onCell_nextExport (d : Dev) (k : Nat) (f : FCell → FCell) : (d.onCell k f).nextExport = d.nextExport := rfl
@[simp] theorem Dev.onCell_blobs (d : Dev) (k : Nat) (f : FCell → FCell) : (d.onCell k f).blobs = d.blobs := rfl
@[simp] theorem Dev.onCell_xlt (d : Dev) (k : Nat) (f : FCell → FCell) : (d.onCell k f).xlt = d.xlt := rfl
@[simp] theorem Dev.onCell_sched (d : Dev) (k : Nat) (f : FCell → FCell) : (d.onCell k f).sched = d.sched := rfl
@[simp] theorem Dev.onCell_fw (d : Dev) (k : Nat) (f : FCell → FCell) : (d.onCell k f).fw = d.fw := rfl
@[simp] theorem Dev.onCell_sec (d : Dev) (k : Nat) (f : FCell → FCell) : (d.onCell k f).sec = d.sec := rfl
@[simp] theorem Dev.onCell_kern (d : Dev) (k : Nat) (f : FCell → FCell) : (d.onCell k f).kern = d.kern := rfl
@[simp] theorem Dev.onCell_fab (d : Dev) (k : Nat) (f : FCell → FCell) : (d.onCell k f).fab = d.fab := rfl
@[simp] theorem Dev.onCell_pwr (d : Dev) (k : Nat) (f : FCell → FCell) : (d.onCell k f).pwr = d.pwr := rfl
@[simp] theorem Dev.onCell_od (d : Dev) (k : Nat) (f : FCell → FCell) : (d.onCell k f).od = d.od := rfl
@[simp] theorem Dev.onCell_dredges (d : Dev) (k : Nat) (f : FCell → FCell) : (d.onCell k f).dredges = d.dredges := rfl
@[simp] theorem Dev.onCell_records (d : Dev) (k : Nat) (f : FCell → FCell) : (d.onCell k f).records = d.records := rfl
@[simp] theorem Dev.onCell_events (d : Dev) (k : Nat) (f : FCell → FCell) : (d.onCell k f).events = d.events := rfl
@[simp] theorem Dev.onCell_hdTimes (d : Dev) (k : Nat) (f : FCell → FCell) : (d.onCell k f).hdTimes = d.hdTimes := rfl
@[simp] theorem Dev.onCell_net (d : Dev) (k : Nat) (f : FCell → FCell) : (d.onCell k f).net = d.net := rfl
@[simp] theorem Dev.onCell_hostLinks (d : Dev) (k : Nat) (f : FCell → FCell) : (d.onCell k f).hostLinks = d.hostLinks := rfl
@[simp] theorem Dev.onCell_windowErrors (d : Dev) (k : Nat) (f : FCell → FCell) : (d.onCell k f).windowErrors = d.windowErrors := rfl
@[simp] theorem Dev.onCell_out (d : Dev) (k : Nat) (f : FCell → FCell) : (d.onCell k f).out = d.out := rfl
@[simp] theorem Dev.onCell_draws (d : Dev) (k : Nat) (f : FCell → FCell) : (d.onCell k f).draws = d.draws := rfl

/-! ## `Dev.onKey` -/

@[simp] theorem Dev.onKey_clk (d : Dev) (k : Nat) (f : KeySlot → KeySlot) : (d.onKey k f).clk = d.clk := rfl
@[simp] theorem Dev.onKey_boot (d : Dev) (k : Nat) (f : KeySlot → KeySlot) : (d.onKey k f).boot = d.boot := rfl
@[simp] theorem Dev.onKey_fns (d : Dev) (k : Nat) (f : KeySlot → KeySlot) : (d.onKey k f).fns = d.fns := rfl
@[simp] theorem Dev.onKey_vds (d : Dev) (k : Nat) (f : KeySlot → KeySlot) : (d.onKey k f).vds = d.vds := rfl
@[simp] theorem Dev.onKey_mbx (d : Dev) (k : Nat) (f : KeySlot → KeySlot) : (d.onKey k f).mbx = d.mbx := rfl
@[simp] theorem Dev.onKey_notices (d : Dev) (k : Nat) (f : KeySlot → KeySlot) : (d.onKey k f).notices = d.notices := rfl
@[simp] theorem Dev.onKey_evcs (d : Dev) (k : Nat) (f : KeySlot → KeySlot) : (d.onKey k f).evcs = d.evcs := rfl
@[simp] theorem Dev.onKey_fx (d : Dev) (k : Nat) (f : KeySlot → KeySlot) : (d.onKey k f).fx = d.fx := rfl
@[simp] theorem Dev.onKey_ctxs (d : Dev) (k : Nat) (f : KeySlot → KeySlot) : (d.onKey k f).ctxs = d.ctxs := rfl
@[simp] theorem Dev.onKey_exports (d : Dev) (k : Nat) (f : KeySlot → KeySlot) : (d.onKey k f).exports = d.exports := rfl
@[simp] theorem Dev.onKey_nextExport (d : Dev) (k : Nat) (f : KeySlot → KeySlot) : (d.onKey k f).nextExport = d.nextExport := rfl
@[simp] theorem Dev.onKey_blobs (d : Dev) (k : Nat) (f : KeySlot → KeySlot) : (d.onKey k f).blobs = d.blobs := rfl
@[simp] theorem Dev.onKey_xlt (d : Dev) (k : Nat) (f : KeySlot → KeySlot) : (d.onKey k f).xlt = d.xlt := rfl
@[simp] theorem Dev.onKey_sched (d : Dev) (k : Nat) (f : KeySlot → KeySlot) : (d.onKey k f).sched = d.sched := rfl
@[simp] theorem Dev.onKey_fw (d : Dev) (k : Nat) (f : KeySlot → KeySlot) : (d.onKey k f).fw = d.fw := rfl
@[simp] theorem Dev.onKey_sec (d : Dev) (k : Nat) (f : KeySlot → KeySlot) : (d.onKey k f).sec = d.sec := rfl
@[simp] theorem Dev.onKey_kern (d : Dev) (k : Nat) (f : KeySlot → KeySlot) : (d.onKey k f).kern = d.kern := rfl
@[simp] theorem Dev.onKey_fab (d : Dev) (k : Nat) (f : KeySlot → KeySlot) : (d.onKey k f).fab = d.fab := rfl
@[simp] theorem Dev.onKey_pwr (d : Dev) (k : Nat) (f : KeySlot → KeySlot) : (d.onKey k f).pwr = d.pwr := rfl
@[simp] theorem Dev.onKey_od (d : Dev) (k : Nat) (f : KeySlot → KeySlot) : (d.onKey k f).od = d.od := rfl
@[simp] theorem Dev.onKey_dredges (d : Dev) (k : Nat) (f : KeySlot → KeySlot) : (d.onKey k f).dredges = d.dredges := rfl
@[simp] theorem Dev.onKey_records (d : Dev) (k : Nat) (f : KeySlot → KeySlot) : (d.onKey k f).records = d.records := rfl
@[simp] theorem Dev.onKey_events (d : Dev) (k : Nat) (f : KeySlot → KeySlot) : (d.onKey k f).events = d.events := rfl
@[simp] theorem Dev.onKey_hdTimes (d : Dev) (k : Nat) (f : KeySlot → KeySlot) : (d.onKey k f).hdTimes = d.hdTimes := rfl
@[simp] theorem Dev.onKey_net (d : Dev) (k : Nat) (f : KeySlot → KeySlot) : (d.onKey k f).net = d.net := rfl
@[simp] theorem Dev.onKey_hostLinks (d : Dev) (k : Nat) (f : KeySlot → KeySlot) : (d.onKey k f).hostLinks = d.hostLinks := rfl
@[simp] theorem Dev.onKey_windowErrors (d : Dev) (k : Nat) (f : KeySlot → KeySlot) : (d.onKey k f).windowErrors = d.windowErrors := rfl
@[simp] theorem Dev.onKey_out (d : Dev) (k : Nat) (f : KeySlot → KeySlot) : (d.onKey k f).out = d.out := rfl
@[simp] theorem Dev.onKey_draws (d : Dev) (k : Nat) (f : KeySlot → KeySlot) : (d.onKey k f).draws = d.draws := rfl

/-! ## `Dev.onSched` -/

@[simp] theorem Dev.onSched_clk (d : Dev) (f : Sched → Sched) : (d.onSched f).clk = d.clk := rfl
@[simp] theorem Dev.onSched_boot (d : Dev) (f : Sched → Sched) : (d.onSched f).boot = d.boot := rfl
@[simp] theorem Dev.onSched_fns (d : Dev) (f : Sched → Sched) : (d.onSched f).fns = d.fns := rfl
@[simp] theorem Dev.onSched_vds (d : Dev) (f : Sched → Sched) : (d.onSched f).vds = d.vds := rfl
@[simp] theorem Dev.onSched_mbx (d : Dev) (f : Sched → Sched) : (d.onSched f).mbx = d.mbx := rfl
@[simp] theorem Dev.onSched_notices (d : Dev) (f : Sched → Sched) : (d.onSched f).notices = d.notices := rfl
@[simp] theorem Dev.onSched_evcs (d : Dev) (f : Sched → Sched) : (d.onSched f).evcs = d.evcs := rfl
@[simp] theorem Dev.onSched_fx (d : Dev) (f : Sched → Sched) : (d.onSched f).fx = d.fx := rfl
@[simp] theorem Dev.onSched_ctxs (d : Dev) (f : Sched → Sched) : (d.onSched f).ctxs = d.ctxs := rfl
@[simp] theorem Dev.onSched_exports (d : Dev) (f : Sched → Sched) : (d.onSched f).exports = d.exports := rfl
@[simp] theorem Dev.onSched_nextExport (d : Dev) (f : Sched → Sched) : (d.onSched f).nextExport = d.nextExport := rfl
@[simp] theorem Dev.onSched_blobs (d : Dev) (f : Sched → Sched) : (d.onSched f).blobs = d.blobs := rfl
@[simp] theorem Dev.onSched_xlt (d : Dev) (f : Sched → Sched) : (d.onSched f).xlt = d.xlt := rfl
@[simp] theorem Dev.onSched_mc (d : Dev) (f : Sched → Sched) : (d.onSched f).mc = d.mc := rfl
@[simp] theorem Dev.onSched_fw (d : Dev) (f : Sched → Sched) : (d.onSched f).fw = d.fw := rfl
@[simp] theorem Dev.onSched_sec (d : Dev) (f : Sched → Sched) : (d.onSched f).sec = d.sec := rfl
@[simp] theorem Dev.onSched_kern (d : Dev) (f : Sched → Sched) : (d.onSched f).kern = d.kern := rfl
@[simp] theorem Dev.onSched_fab (d : Dev) (f : Sched → Sched) : (d.onSched f).fab = d.fab := rfl
@[simp] theorem Dev.onSched_pwr (d : Dev) (f : Sched → Sched) : (d.onSched f).pwr = d.pwr := rfl
@[simp] theorem Dev.onSched_od (d : Dev) (f : Sched → Sched) : (d.onSched f).od = d.od := rfl
@[simp] theorem Dev.onSched_dredges (d : Dev) (f : Sched → Sched) : (d.onSched f).dredges = d.dredges := rfl
@[simp] theorem Dev.onSched_records (d : Dev) (f : Sched → Sched) : (d.onSched f).records = d.records := rfl
@[simp] theorem Dev.onSched_events (d : Dev) (f : Sched → Sched) : (d.onSched f).events = d.events := rfl
@[simp] theorem Dev.onSched_hdTimes (d : Dev) (f : Sched → Sched) : (d.onSched f).hdTimes = d.hdTimes := rfl
@[simp] theorem Dev.onSched_net (d : Dev) (f : Sched → Sched) : (d.onSched f).net = d.net := rfl
@[simp] theorem Dev.onSched_hostLinks (d : Dev) (f : Sched → Sched) : (d.onSched f).hostLinks = d.hostLinks := rfl
@[simp] theorem Dev.onSched_windowErrors (d : Dev) (f : Sched → Sched) : (d.onSched f).windowErrors = d.windowErrors := rfl
@[simp] theorem Dev.onSched_out (d : Dev) (f : Sched → Sched) : (d.onSched f).out = d.out := rfl
@[simp] theorem Dev.onSched_draws (d : Dev) (f : Sched → Sched) : (d.onSched f).draws = d.draws := rfl

/-! ## `Dev.onCore` -/

@[simp] theorem Dev.onCore_clk (d : Dev) (n : Nat) (f : Core → Core) : (d.onCore n f).clk = d.clk := rfl
@[simp] theorem Dev.onCore_boot (d : Dev) (n : Nat) (f : Core → Core) : (d.onCore n f).boot = d.boot := rfl
@[simp] theorem Dev.onCore_fns (d : Dev) (n : Nat) (f : Core → Core) : (d.onCore n f).fns = d.fns := rfl
@[simp] theorem Dev.onCore_vds (d : Dev) (n : Nat) (f : Core → Core) : (d.onCore n f).vds = d.vds := rfl
@[simp] theorem Dev.onCore_mbx (d : Dev) (n : Nat) (f : Core → Core) : (d.onCore n f).mbx = d.mbx := rfl
@[simp] theorem Dev.onCore_notices (d : Dev) (n : Nat) (f : Core → Core) : (d.onCore n f).notices = d.notices := rfl
@[simp] theorem Dev.onCore_evcs (d : Dev) (n : Nat) (f : Core → Core) : (d.onCore n f).evcs = d.evcs := rfl
@[simp] theorem Dev.onCore_fx (d : Dev) (n : Nat) (f : Core → Core) : (d.onCore n f).fx = d.fx := rfl
@[simp] theorem Dev.onCore_ctxs (d : Dev) (n : Nat) (f : Core → Core) : (d.onCore n f).ctxs = d.ctxs := rfl
@[simp] theorem Dev.onCore_exports (d : Dev) (n : Nat) (f : Core → Core) : (d.onCore n f).exports = d.exports := rfl
@[simp] theorem Dev.onCore_nextExport (d : Dev) (n : Nat) (f : Core → Core) : (d.onCore n f).nextExport = d.nextExport := rfl
@[simp] theorem Dev.onCore_blobs (d : Dev) (n : Nat) (f : Core → Core) : (d.onCore n f).blobs = d.blobs := rfl
@[simp] theorem Dev.onCore_xlt (d : Dev) (n : Nat) (f : Core → Core) : (d.onCore n f).xlt = d.xlt := rfl
@[simp] theorem Dev.onCore_mc (d : Dev) (n : Nat) (f : Core → Core) : (d.onCore n f).mc = d.mc := rfl
@[simp] theorem Dev.onCore_fw (d : Dev) (n : Nat) (f : Core → Core) : (d.onCore n f).fw = d.fw := rfl
@[simp] theorem Dev.onCore_sec (d : Dev) (n : Nat) (f : Core → Core) : (d.onCore n f).sec = d.sec := rfl
@[simp] theorem Dev.onCore_kern (d : Dev) (n : Nat) (f : Core → Core) : (d.onCore n f).kern = d.kern := rfl
@[simp] theorem Dev.onCore_fab (d : Dev) (n : Nat) (f : Core → Core) : (d.onCore n f).fab = d.fab := rfl
@[simp] theorem Dev.onCore_pwr (d : Dev) (n : Nat) (f : Core → Core) : (d.onCore n f).pwr = d.pwr := rfl
@[simp] theorem Dev.onCore_od (d : Dev) (n : Nat) (f : Core → Core) : (d.onCore n f).od = d.od := rfl
@[simp] theorem Dev.onCore_dredges (d : Dev) (n : Nat) (f : Core → Core) : (d.onCore n f).dredges = d.dredges := rfl
@[simp] theorem Dev.onCore_records (d : Dev) (n : Nat) (f : Core → Core) : (d.onCore n f).records = d.records := rfl
@[simp] theorem Dev.onCore_events (d : Dev) (n : Nat) (f : Core → Core) : (d.onCore n f).events = d.events := rfl
@[simp] theorem Dev.onCore_hdTimes (d : Dev) (n : Nat) (f : Core → Core) : (d.onCore n f).hdTimes = d.hdTimes := rfl
@[simp] theorem Dev.onCore_net (d : Dev) (n : Nat) (f : Core → Core) : (d.onCore n f).net = d.net := rfl
@[simp] theorem Dev.onCore_hostLinks (d : Dev) (n : Nat) (f : Core → Core) : (d.onCore n f).hostLinks = d.hostLinks := rfl
@[simp] theorem Dev.onCore_windowErrors (d : Dev) (n : Nat) (f : Core → Core) : (d.onCore n f).windowErrors = d.windowErrors := rfl
@[simp] theorem Dev.onCore_out (d : Dev) (n : Nat) (f : Core → Core) : (d.onCore n f).out = d.out := rfl
@[simp] theorem Dev.onCore_draws (d : Dev) (n : Nat) (f : Core → Core) : (d.onCore n f).draws = d.draws := rfl

/-! ## `Dev.onXlt` -/

@[simp] theorem Dev.onXlt_clk (d : Dev) (f : Xlt → Xlt) : (d.onXlt f).clk = d.clk := rfl
@[simp] theorem Dev.onXlt_boot (d : Dev) (f : Xlt → Xlt) : (d.onXlt f).boot = d.boot := rfl
@[simp] theorem Dev.onXlt_fns (d : Dev) (f : Xlt → Xlt) : (d.onXlt f).fns = d.fns := rfl
@[simp] theorem Dev.onXlt_vds (d : Dev) (f : Xlt → Xlt) : (d.onXlt f).vds = d.vds := rfl
@[simp] theorem Dev.onXlt_mbx (d : Dev) (f : Xlt → Xlt) : (d.onXlt f).mbx = d.mbx := rfl
@[simp] theorem Dev.onXlt_notices (d : Dev) (f : Xlt → Xlt) : (d.onXlt f).notices = d.notices := rfl
@[simp] theorem Dev.onXlt_evcs (d : Dev) (f : Xlt → Xlt) : (d.onXlt f).evcs = d.evcs := rfl
@[simp] theorem Dev.onXlt_fx (d : Dev) (f : Xlt → Xlt) : (d.onXlt f).fx = d.fx := rfl
@[simp] theorem Dev.onXlt_ctxs (d : Dev) (f : Xlt → Xlt) : (d.onXlt f).ctxs = d.ctxs := rfl
@[simp] theorem Dev.onXlt_exports (d : Dev) (f : Xlt → Xlt) : (d.onXlt f).exports = d.exports := rfl
@[simp] theorem Dev.onXlt_nextExport (d : Dev) (f : Xlt → Xlt) : (d.onXlt f).nextExport = d.nextExport := rfl
@[simp] theorem Dev.onXlt_blobs (d : Dev) (f : Xlt → Xlt) : (d.onXlt f).blobs = d.blobs := rfl
@[simp] theorem Dev.onXlt_mc (d : Dev) (f : Xlt → Xlt) : (d.onXlt f).mc = d.mc := rfl
@[simp] theorem Dev.onXlt_sched (d : Dev) (f : Xlt → Xlt) : (d.onXlt f).sched = d.sched := rfl
@[simp] theorem Dev.onXlt_fw (d : Dev) (f : Xlt → Xlt) : (d.onXlt f).fw = d.fw := rfl
@[simp] theorem Dev.onXlt_sec (d : Dev) (f : Xlt → Xlt) : (d.onXlt f).sec = d.sec := rfl
@[simp] theorem Dev.onXlt_kern (d : Dev) (f : Xlt → Xlt) : (d.onXlt f).kern = d.kern := rfl
@[simp] theorem Dev.onXlt_fab (d : Dev) (f : Xlt → Xlt) : (d.onXlt f).fab = d.fab := rfl
@[simp] theorem Dev.onXlt_pwr (d : Dev) (f : Xlt → Xlt) : (d.onXlt f).pwr = d.pwr := rfl
@[simp] theorem Dev.onXlt_od (d : Dev) (f : Xlt → Xlt) : (d.onXlt f).od = d.od := rfl
@[simp] theorem Dev.onXlt_dredges (d : Dev) (f : Xlt → Xlt) : (d.onXlt f).dredges = d.dredges := rfl
@[simp] theorem Dev.onXlt_records (d : Dev) (f : Xlt → Xlt) : (d.onXlt f).records = d.records := rfl
@[simp] theorem Dev.onXlt_events (d : Dev) (f : Xlt → Xlt) : (d.onXlt f).events = d.events := rfl
@[simp] theorem Dev.onXlt_hdTimes (d : Dev) (f : Xlt → Xlt) : (d.onXlt f).hdTimes = d.hdTimes := rfl
@[simp] theorem Dev.onXlt_net (d : Dev) (f : Xlt → Xlt) : (d.onXlt f).net = d.net := rfl
@[simp] theorem Dev.onXlt_hostLinks (d : Dev) (f : Xlt → Xlt) : (d.onXlt f).hostLinks = d.hostLinks := rfl
@[simp] theorem Dev.onXlt_windowErrors (d : Dev) (f : Xlt → Xlt) : (d.onXlt f).windowErrors = d.windowErrors := rfl
@[simp] theorem Dev.onXlt_out (d : Dev) (f : Xlt → Xlt) : (d.onXlt f).out = d.out := rfl
@[simp] theorem Dev.onXlt_draws (d : Dev) (f : Xlt → Xlt) : (d.onXlt f).draws = d.draws := rfl

/-! ## `Dev.onFx` -/

@[simp] theorem Dev.onFx_clk (d : Dev) (f : Fences → Fences) : (d.onFx f).clk = d.clk := rfl
@[simp] theorem Dev.onFx_boot (d : Dev) (f : Fences → Fences) : (d.onFx f).boot = d.boot := rfl
@[simp] theorem Dev.onFx_fns (d : Dev) (f : Fences → Fences) : (d.onFx f).fns = d.fns := rfl
@[simp] theorem Dev.onFx_vds (d : Dev) (f : Fences → Fences) : (d.onFx f).vds = d.vds := rfl
@[simp] theorem Dev.onFx_mbx (d : Dev) (f : Fences → Fences) : (d.onFx f).mbx = d.mbx := rfl
@[simp] theorem Dev.onFx_notices (d : Dev) (f : Fences → Fences) : (d.onFx f).notices = d.notices := rfl
@[simp] theorem Dev.onFx_evcs (d : Dev) (f : Fences → Fences) : (d.onFx f).evcs = d.evcs := rfl
@[simp] theorem Dev.onFx_ctxs (d : Dev) (f : Fences → Fences) : (d.onFx f).ctxs = d.ctxs := rfl
@[simp] theorem Dev.onFx_exports (d : Dev) (f : Fences → Fences) : (d.onFx f).exports = d.exports := rfl
@[simp] theorem Dev.onFx_nextExport (d : Dev) (f : Fences → Fences) : (d.onFx f).nextExport = d.nextExport := rfl
@[simp] theorem Dev.onFx_blobs (d : Dev) (f : Fences → Fences) : (d.onFx f).blobs = d.blobs := rfl
@[simp] theorem Dev.onFx_xlt (d : Dev) (f : Fences → Fences) : (d.onFx f).xlt = d.xlt := rfl
@[simp] theorem Dev.onFx_mc (d : Dev) (f : Fences → Fences) : (d.onFx f).mc = d.mc := rfl
@[simp] theorem Dev.onFx_sched (d : Dev) (f : Fences → Fences) : (d.onFx f).sched = d.sched := rfl
@[simp] theorem Dev.onFx_fw (d : Dev) (f : Fences → Fences) : (d.onFx f).fw = d.fw := rfl
@[simp] theorem Dev.onFx_sec (d : Dev) (f : Fences → Fences) : (d.onFx f).sec = d.sec := rfl
@[simp] theorem Dev.onFx_kern (d : Dev) (f : Fences → Fences) : (d.onFx f).kern = d.kern := rfl
@[simp] theorem Dev.onFx_fab (d : Dev) (f : Fences → Fences) : (d.onFx f).fab = d.fab := rfl
@[simp] theorem Dev.onFx_pwr (d : Dev) (f : Fences → Fences) : (d.onFx f).pwr = d.pwr := rfl
@[simp] theorem Dev.onFx_od (d : Dev) (f : Fences → Fences) : (d.onFx f).od = d.od := rfl
@[simp] theorem Dev.onFx_dredges (d : Dev) (f : Fences → Fences) : (d.onFx f).dredges = d.dredges := rfl
@[simp] theorem Dev.onFx_records (d : Dev) (f : Fences → Fences) : (d.onFx f).records = d.records := rfl
@[simp] theorem Dev.onFx_events (d : Dev) (f : Fences → Fences) : (d.onFx f).events = d.events := rfl
@[simp] theorem Dev.onFx_hdTimes (d : Dev) (f : Fences → Fences) : (d.onFx f).hdTimes = d.hdTimes := rfl
@[simp] theorem Dev.onFx_net (d : Dev) (f : Fences → Fences) : (d.onFx f).net = d.net := rfl
@[simp] theorem Dev.onFx_hostLinks (d : Dev) (f : Fences → Fences) : (d.onFx f).hostLinks = d.hostLinks := rfl
@[simp] theorem Dev.onFx_windowErrors (d : Dev) (f : Fences → Fences) : (d.onFx f).windowErrors = d.windowErrors := rfl
@[simp] theorem Dev.onFx_out (d : Dev) (f : Fences → Fences) : (d.onFx f).out = d.out := rfl
@[simp] theorem Dev.onFx_draws (d : Dev) (f : Fences → Fences) : (d.onFx f).draws = d.draws := rfl

/-! ## `Dev.emit` -/

@[simp] theorem Dev.emit_clk (d : Dev) (o : Output) : (d.emit o).clk = d.clk := rfl
@[simp] theorem Dev.emit_boot (d : Dev) (o : Output) : (d.emit o).boot = d.boot := rfl
@[simp] theorem Dev.emit_fns (d : Dev) (o : Output) : (d.emit o).fns = d.fns := rfl
@[simp] theorem Dev.emit_vds (d : Dev) (o : Output) : (d.emit o).vds = d.vds := rfl
@[simp] theorem Dev.emit_mbx (d : Dev) (o : Output) : (d.emit o).mbx = d.mbx := rfl
@[simp] theorem Dev.emit_notices (d : Dev) (o : Output) : (d.emit o).notices = d.notices := rfl
@[simp] theorem Dev.emit_evcs (d : Dev) (o : Output) : (d.emit o).evcs = d.evcs := rfl
@[simp] theorem Dev.emit_fx (d : Dev) (o : Output) : (d.emit o).fx = d.fx := rfl
@[simp] theorem Dev.emit_ctxs (d : Dev) (o : Output) : (d.emit o).ctxs = d.ctxs := rfl
@[simp] theorem Dev.emit_exports (d : Dev) (o : Output) : (d.emit o).exports = d.exports := rfl
@[simp] theorem Dev.emit_nextExport (d : Dev) (o : Output) : (d.emit o).nextExport = d.nextExport := rfl
@[simp] theorem Dev.emit_blobs (d : Dev) (o : Output) : (d.emit o).blobs = d.blobs := rfl
@[simp] theorem Dev.emit_xlt (d : Dev) (o : Output) : (d.emit o).xlt = d.xlt := rfl
@[simp] theorem Dev.emit_mc (d : Dev) (o : Output) : (d.emit o).mc = d.mc := rfl
@[simp] theorem Dev.emit_sched (d : Dev) (o : Output) : (d.emit o).sched = d.sched := rfl
@[simp] theorem Dev.emit_fw (d : Dev) (o : Output) : (d.emit o).fw = d.fw := rfl
@[simp] theorem Dev.emit_sec (d : Dev) (o : Output) : (d.emit o).sec = d.sec := rfl
@[simp] theorem Dev.emit_kern (d : Dev) (o : Output) : (d.emit o).kern = d.kern := rfl
@[simp] theorem Dev.emit_fab (d : Dev) (o : Output) : (d.emit o).fab = d.fab := rfl
@[simp] theorem Dev.emit_pwr (d : Dev) (o : Output) : (d.emit o).pwr = d.pwr := rfl
@[simp] theorem Dev.emit_od (d : Dev) (o : Output) : (d.emit o).od = d.od := rfl
@[simp] theorem Dev.emit_dredges (d : Dev) (o : Output) : (d.emit o).dredges = d.dredges := rfl
@[simp] theorem Dev.emit_records (d : Dev) (o : Output) : (d.emit o).records = d.records := rfl
@[simp] theorem Dev.emit_events (d : Dev) (o : Output) : (d.emit o).events = d.events := rfl
@[simp] theorem Dev.emit_hdTimes (d : Dev) (o : Output) : (d.emit o).hdTimes = d.hdTimes := rfl
@[simp] theorem Dev.emit_net (d : Dev) (o : Output) : (d.emit o).net = d.net := rfl
@[simp] theorem Dev.emit_hostLinks (d : Dev) (o : Output) : (d.emit o).hostLinks = d.hostLinks := rfl
@[simp] theorem Dev.emit_windowErrors (d : Dev) (o : Output) : (d.emit o).windowErrors = d.windowErrors := rfl
@[simp] theorem Dev.emit_draws (d : Dev) (o : Output) : (d.emit o).draws = d.draws := rfl

/-! ## `Dev.setEvc` -/

@[simp] theorem Dev.setEvc_clk (d : Dev) (i : Nat) (x : Evc) : (d.setEvc i x).clk = d.clk := rfl
@[simp] theorem Dev.setEvc_boot (d : Dev) (i : Nat) (x : Evc) : (d.setEvc i x).boot = d.boot := rfl
@[simp] theorem Dev.setEvc_fns (d : Dev) (i : Nat) (x : Evc) : (d.setEvc i x).fns = d.fns := rfl
@[simp] theorem Dev.setEvc_vds (d : Dev) (i : Nat) (x : Evc) : (d.setEvc i x).vds = d.vds := rfl
@[simp] theorem Dev.setEvc_mbx (d : Dev) (i : Nat) (x : Evc) : (d.setEvc i x).mbx = d.mbx := rfl
@[simp] theorem Dev.setEvc_notices (d : Dev) (i : Nat) (x : Evc) : (d.setEvc i x).notices = d.notices := rfl
@[simp] theorem Dev.setEvc_fx (d : Dev) (i : Nat) (x : Evc) : (d.setEvc i x).fx = d.fx := rfl
@[simp] theorem Dev.setEvc_ctxs (d : Dev) (i : Nat) (x : Evc) : (d.setEvc i x).ctxs = d.ctxs := rfl
@[simp] theorem Dev.setEvc_exports (d : Dev) (i : Nat) (x : Evc) : (d.setEvc i x).exports = d.exports := rfl
@[simp] theorem Dev.setEvc_nextExport (d : Dev) (i : Nat) (x : Evc) : (d.setEvc i x).nextExport = d.nextExport := rfl
@[simp] theorem Dev.setEvc_blobs (d : Dev) (i : Nat) (x : Evc) : (d.setEvc i x).blobs = d.blobs := rfl
@[simp] theorem Dev.setEvc_xlt (d : Dev) (i : Nat) (x : Evc) : (d.setEvc i x).xlt = d.xlt := rfl
@[simp] theorem Dev.setEvc_mc (d : Dev) (i : Nat) (x : Evc) : (d.setEvc i x).mc = d.mc := rfl
@[simp] theorem Dev.setEvc_sched (d : Dev) (i : Nat) (x : Evc) : (d.setEvc i x).sched = d.sched := rfl
@[simp] theorem Dev.setEvc_fw (d : Dev) (i : Nat) (x : Evc) : (d.setEvc i x).fw = d.fw := rfl
@[simp] theorem Dev.setEvc_sec (d : Dev) (i : Nat) (x : Evc) : (d.setEvc i x).sec = d.sec := rfl
@[simp] theorem Dev.setEvc_kern (d : Dev) (i : Nat) (x : Evc) : (d.setEvc i x).kern = d.kern := rfl
@[simp] theorem Dev.setEvc_fab (d : Dev) (i : Nat) (x : Evc) : (d.setEvc i x).fab = d.fab := rfl
@[simp] theorem Dev.setEvc_pwr (d : Dev) (i : Nat) (x : Evc) : (d.setEvc i x).pwr = d.pwr := rfl
@[simp] theorem Dev.setEvc_od (d : Dev) (i : Nat) (x : Evc) : (d.setEvc i x).od = d.od := rfl
@[simp] theorem Dev.setEvc_dredges (d : Dev) (i : Nat) (x : Evc) : (d.setEvc i x).dredges = d.dredges := rfl
@[simp] theorem Dev.setEvc_records (d : Dev) (i : Nat) (x : Evc) : (d.setEvc i x).records = d.records := rfl
@[simp] theorem Dev.setEvc_events (d : Dev) (i : Nat) (x : Evc) : (d.setEvc i x).events = d.events := rfl
@[simp] theorem Dev.setEvc_hdTimes (d : Dev) (i : Nat) (x : Evc) : (d.setEvc i x).hdTimes = d.hdTimes := rfl
@[simp] theorem Dev.setEvc_net (d : Dev) (i : Nat) (x : Evc) : (d.setEvc i x).net = d.net := rfl
@[simp] theorem Dev.setEvc_hostLinks (d : Dev) (i : Nat) (x : Evc) : (d.setEvc i x).hostLinks = d.hostLinks := rfl
@[simp] theorem Dev.setEvc_windowErrors (d : Dev) (i : Nat) (x : Evc) : (d.setEvc i x).windowErrors = d.windowErrors := rfl
@[simp] theorem Dev.setEvc_out (d : Dev) (i : Nat) (x : Evc) : (d.setEvc i x).out = d.out := rfl
@[simp] theorem Dev.setEvc_draws (d : Dev) (i : Nat) (x : Evc) : (d.setEvc i x).draws = d.draws := rfl

end Sys2Proof.Machine
end

