-- ==== Sys2Proof/Laws/Ops.lean ====
section
/-! SUPPORT. What the accessors of `Dev` read after an update, and what the shared operations on rings, vectors and
notices can do. -/

namespace Sys2Proof.Machine

open Sys2Proof

/-! ## Reading back what an update wrote -/

@[simp] theorem Dev.fn_setFn_same (d : Dev) (i : Nat) (x : Fn) : (d.setFn i x).fn i = x := by simp [Dev.fn, Dev.setFn]
theorem Dev.fn_setFn_ne (d : Dev) {i j : Nat} (x : Fn) (h : j ≠ i) : (d.setFn i x).fn j = d.fn j := by
  simp [Dev.fn, Dev.setFn, Tab.getD_put_ne d.fns x _ h]
@[simp] theorem Dev.fn_onFn_same (d : Dev) (i : Nat) (f : Fn → Fn) : (d.onFn i f).fn i = f (d.fn i) := by simp [Dev.onFn]
theorem Dev.fn_onFn_ne (d : Dev) {i j : Nat} (f : Fn → Fn) (h : j ≠ i) : (d.onFn i f).fn j = d.fn j := by
  simp [Dev.onFn, Dev.fn_setFn_ne d _ h]

@[simp] theorem Dev.vd_setVd_same (d : Dev) (v : Nat) (x : Vd) : (d.setVd v x).vd v = x := by simp [Dev.vd, Dev.setVd]
theorem Dev.vd_setVd_ne (d : Dev) {v u : Nat} (x : Vd) (h : u ≠ v) : (d.setVd v x).vd u = d.vd u := by
  simp [Dev.vd, Dev.setVd, Tab.getD_put_ne d.vds x _ h]
@[simp] theorem Dev.vd_onVd_same (d : Dev) (v : Nat) (f : Vd → Vd) : (d.onVd v f).vd v = f (d.vd v) := by simp [Dev.onVd]
theorem Dev.vd_onVd_ne (d : Dev) {v u : Nat} (f : Vd → Vd) (h : u ≠ v) : (d.onVd v f).vd u = d.vd u := by
  simp [Dev.onVd, Dev.vd_setVd_ne d _ h]

@[simp] theorem Dev.queue?_setQueue_same (d : Dev) (v q : Nat) (x : Queue) : (d.setQueue v q x).queue? v q = some x := by
  simp [Dev.queue?, Dev.setQueue]
theorem Dev.queue?_setQueue_ne (d : Dev) (v : Nat) {q r : Nat} (x : Queue) (h : r ≠ q) :
    (d.setQueue v q x).queue? v r = d.queue? v r := by
  simp [Dev.queue?, Dev.setQueue, Tab.get?_put_ne _ x h]
theorem Dev.queue?_setQueue_vd (d : Dev) {v u : Nat} (q r : Nat) (x : Queue) (h : u ≠ v) :
    (d.setQueue v q x).queue? u r = d.queue? u r := by
  simp [Dev.queue?, Dev.setQueue, Dev.vd_onVd_ne d _ h]
theorem Dev.queue?_onQueue_same (d : Dev) (v q : Nat) (f : Queue → Queue) :
    (d.onQueue v q f).queue? v q = (d.queue? v q).map f := by
  unfold Dev.onQueue
  cases h : d.queue? v q with
  | none => simp [h]
  | some x => simp
theorem Dev.cur?_onCur_same (d : Dev) (v q : Nat) (f : Cmd → Cmd) : (d.onCur v q f).cur? v q = (d.cur? v q).map f := by
  unfold Dev.cur? Dev.onCur
  rw [Dev.queue?_onQueue_same]
  cases d.queue? v q <;> simp

@[simp] theorem Dev.chan_onChan_same (d : Dev) (c : Nat) (f : Channel → Channel) : (d.onChan c f).chan c = f (d.chan c) := by
  simp [Dev.chan, Dev.onChan, Dev.onMc]
theorem Dev.chan_onChan_ne (d : Dev) {c e : Nat} (f : Channel → Channel) (h : e ≠ c) : (d.onChan c f).chan e = d.chan e := by
  simp [Dev.chan, Dev.onChan, Dev.onMc, Tab.getD_put_ne d.mc.chans _ _ h]
@[simp] theorem Dev.cell_onCell_same (d : Dev) (k : Nat) (f : FCell → FCell) : (d.onCell k f).cell k = f (d.cell k) := by
  simp [Dev.cell, Dev.onCell, Dev.onMc]
theorem Dev.cell_onCell_ne (d : Dev) {k j : Nat} (f : FCell → FCell) (h : j ≠ k) : (d.onCell k f).cell j = d.cell j := by
  simp [Dev.cell, Dev.onCell, Dev.onMc, Tab.getD_put_ne d.mc.cells _ _ h]
@[simp] theorem Dev.keySlot_onKey_same (d : Dev) (k : Nat) (f : KeySlot → KeySlot) :
    (d.onKey k f).keySlot k = f (d.keySlot k) := by simp [Dev.keySlot, Dev.onKey, Dev.onMc]
theorem Dev.keySlot_onKey_ne (d : Dev) {k j : Nat} (f : KeySlot → KeySlot) (h : j ≠ k) :
    (d.onKey k f).keySlot j = d.keySlot j := by simp [Dev.keySlot, Dev.onKey, Dev.onMc, Tab.getD_put_ne d.mc.keys _ _ h]
@[simp] theorem Dev.core_onCore_same (d : Dev) (n : Nat) (f : Core → Core) : (d.onCore n f).core n = f (d.core n) := by
  simp [Dev.core, Dev.onCore, Dev.onSched]
theorem Dev.core_onCore_ne (d : Dev) {n m : Nat} (f : Core → Core) (h : m ≠ n) : (d.onCore n f).core m = d.core m := by
  simp [Dev.core, Dev.onCore, Dev.onSched, Tab.getD_put_ne d.sched.cores _ _ h]
@[simp] theorem Dev.evc_setEvc_same (d : Dev) (i : Nat) (x : Evc) : (d.setEvc i x).evc i = x := by
  simp [Dev.evc, Dev.setEvc]
theorem Dev.evc_setEvc_ne (d : Dev) {i j : Nat} (x : Evc) (h : j ≠ i) : (d.setEvc i x).evc j = d.evc j := by
  simp [Dev.evc, Dev.setEvc, Tab.getD_put_ne d.evcs x _ h]

/-! ## Shared operations: everything they can do -/

/-- A message on a vector changes that function's vectors and adds at most one message to what leaves. -/
theorem sendMsix_spec (fn i : Nat) (d : Dev) : ∃ vs out,
    sendMsix fn i d = { d with fns := Tab.put d.fns fn { d.fn fn with vecs := vs }, out := out } ∧
    (out = d.out ∨ ∃ a b, out = d.out ++ [.msix fn i a b]) := by
  unfold sendMsix
  by_cases h : (((d.fn fn).vec i).mask || (d.fn fn).fnMask) = true
  · simp only [h, if_true]
    exact ⟨_, _, rfl, .inl rfl⟩
  · simp only [h]
    exact ⟨_, _, rfl, .inr ⟨_, _, rfl⟩⟩

/-- A signal on a vector changes that function's vectors and adds at most one message to what leaves. -/
theorem signalVec_spec (fn i : Nat) (d : Dev) : ∃ vs out,
    signalVec fn i d = { d with fns := Tab.put d.fns fn { d.fn fn with vecs := vs }, out := out } ∧
    (out = d.out ∨ ∃ a b, out = d.out ++ [.msix fn (i % 64) a b]) := by
  unfold signalVec
  extract_lets j f x
  by_cases h : (decide (x.modTime = 0) || x.mask || f.fnMask || decide (x.modCount ≤ x.held + 1)) = true
  · rw [if_pos h]
    exact sendMsix_spec fn (i % 64) d
  · rw [if_neg h]
    exact ⟨_, _, rfl, .inl rfl⟩

/-- An event at a source changes the event controllers alone. -/
theorem raiseSrc_spec (c i : Nat) (d : Dev) : ∃ l, raiseSrc c i d = { d with evcs := l } := ⟨_, rfl⟩

/-- A record appended to the journal changes the journal's registers and the event controllers. -/
theorem appendJournal_spec (r : List Byte) (d : Dev) : ∃ l w, appendJournal r d = { d with evcs := l, fw := w } := ⟨_, _, rfl⟩

/-- A change journaled changes the journal's registers and the event controllers, or nothing. -/
theorem journal_spec (kind : Nat) (ws : List Nat) (d : Dev) : ∃ l w, journal kind ws d = { d with evcs := l, fw := w } := by
  unfold journal
  by_cases h : d.schedUp = true
  · rw [if_pos h]
    exact appendJournal_spec _ d
  · rw [if_neg h]
    exact ⟨d.evcs, d.fw, rfl⟩

/-- An event entry written changes that function's registers and rings, and the journal. -/
theorem writeEntry_spec (fn : Nat) (e : HeldEvent) (d : Dev) : ∃ x l w,
    writeEntry fn e d = { d with fns := Tab.put d.fns fn x, evcs := l, fw := w } := by
  obtain ⟨l, w, h⟩ := journal_spec 7 [fn, e.kind] d
  unfold writeEntry
  rw [h]
  exact ⟨_, l, w, rfl⟩

/-- An event written changes that function's registers and rings, the journal and what leaves. -/
theorem writeEvent_spec (fn : Nat) (e : HeldEvent) (d : Dev) : ∃ x l w out,
    writeEvent fn e d = { d with fns := Tab.put d.fns fn x, evcs := l, fw := w, out := out } := by
  obtain ⟨x, l, w, hx⟩ := writeEntry_spec fn e d
  obtain ⟨vs, out, h, -⟩ := signalVec_spec fn (d.fn fn).evVec { d with fns := Tab.put d.fns fn x, evcs := l, fw := w }
  unfold writeEvent
  rw [hx, h, Tab.put_put]
  exact ⟨_, l, w, _, rfl⟩

/-- An event posted changes that function's registers and rings, the journal and what leaves, and nothing else of the device. -/
theorem postEvent_spec (fn kind obj : Nat) (body : List Byte) (d : Dev) : ∃ x l w out,
    postEvent fn kind obj body d = { d with fns := Tab.put d.fns fn x, evcs := l, fw := w, out := out } := by
  unfold postEvent
  extract_lets f e
  by_cases h : (f.evFull || !f.evHeld.isEmpty) = true
  · rw [if_pos h]
    exact ⟨_, d.evcs, d.fw, d.out, rfl⟩
  · rw [if_neg h]
    exact writeEvent_spec fn e d

/-- A notice raised changes the notices alone. -/
theorem raiseNotice_spec (kind v : Nat) (detail : List (BitVec 32)) (d : Dev) : ∃ l,
    raiseNotice kind v detail d = { d with notices := l } := ⟨_, rfl⟩

/-- An alarm raised changes the list of raised alarms alone, by its source at the end. -/
theorem raiseAlarm_spec (src : BitVec 8) (detail : BitVec 16) (d : Dev) :
    raiseAlarm src detail d = { d with sec := { d.sec with raised := d.sec.raised ++ [(src, detail)] } } := rfl

end Sys2Proof.Machine
end

