-- ==== Sys2Proof/Laws/Admin.lean ====
section
/-! SUPPORT. What taking a request from an admin ring comes to, and what answering one leaves alone. -/

namespace Sys2Proof.Machine

open Sys2Proof

/-- Requests whose code is known are left to their rows. -/
theorem answerUnknown_known (d : Dev) (fn n i : Nat) (bs : List Byte) (h : d.nextSlot fn = some (i, bs))
    (hk : d.unknownOp fn (slotOp bs) = false) : answerUnknown fn n d = d := by
  cases n with
  | zero => rfl
  | succ n => simp [answerUnknown, h, hk]

/-- With no request submitted there is none to refuse. -/
theorem answerUnknown_none (d : Dev) (fn n : Nat) (h : d.nextSlot fn = none) : answerUnknown fn n d = d := by
  cases n with
  | zero => rfl
  | succ n => simp [answerUnknown, h]

/-- A response changes the function's rings, the journal and what leaves, and nothing else. -/
theorem adRespond_spec (fn slot : Nat) (tag : BitVec 32) (st code : Nat) (res : List Byte) (d : Dev) : ∃ x l w out,
    adRespond fn slot tag st code res d = { d with fns := Tab.put d.fns fn x, evcs := l, fw := w, out := out } := by
  obtain ⟨l, w, hj⟩ := journal_spec 2 [fn, slot, st] d
  unfold adRespond
  rw [hj]
  extract_lets d' f n
  obtain ⟨vs, out, h, -⟩ := signalVec_spec fn f.adminVec (d'.setFn fn { f with
    respSlots := Tab.put f.respSlots slot (responseBytes st code (n % 2 == 0) tag res)
    respUsed := Tab.put f.respUsed slot (n + 1)
    taken := Tab.del f.taken slot })
  rw [h]
  simp only [Dev.setFn, Tab.put_put]
  exact ⟨_, l, w, _, rfl⟩

/-- A request refused with UNKNOWN_OP changes at most the notices. -/
theorem noteUnknown_spec (fn : Nat) (bs : List Byte) (d : Dev) : ∃ ns, noteUnknown fn bs d = { d with notices := ns } := by
  unfold noteUnknown
  split
  · exact ⟨_, rfl⟩
  · exact ⟨d.notices, rfl⟩

/-- Refusing unknown requests changes the functions, the notices, the journal and what leaves, and nothing else. -/
theorem answerUnknown_spec (fn n : Nat) (d : Dev) : ∃ fns ns l w out,
    answerUnknown fn n d = { d with fns := fns, notices := ns, evcs := l, fw := w, out := out } := by
  induction n generalizing d with
  | zero => exact ⟨_, _, _, _, _, rfl⟩
  | succ n ih =>
    unfold answerUnknown
    split
    · exact ⟨_, _, _, _, _, rfl⟩
    · rename_i i bs hs
      split
      · obtain ⟨x, l, w, out, h⟩ := adRespond_spec fn i (BitVec.ofNat 32 (fieldLe bs 4 4)) stUnknown 0 [] (advanceHead fn d)
        obtain ⟨ns, hn⟩ := noteUnknown_spec fn bs { advanceHead fn d with
          fns := Tab.put (advanceHead fn d).fns fn x, evcs := l, fw := w, out := out }
        rw [h, hn]
        obtain ⟨fns, ns', l', w', out', h'⟩ := ih { advanceHead fn d with
          fns := Tab.put (advanceHead fn d).fns fn x, evcs := l, fw := w, out := out, notices := ns }
        rw [h']
        exact ⟨_, _, _, _, _, rfl⟩
      · exact ⟨_, _, _, _, _, rfl⟩

/-- What taking a request leaves: its ring's head and the journal. -/
theorem took_spec (r : AdReq) (d : Dev) : ∃ l w, journal 1 [r.fn, r.slot, r.flags] (advanceHead r.fn d) =
    { advanceHead r.fn d with evcs := l, fw := w } := journal_spec _ _ _

/-- Finishing a request changes the functions, the notices, the journal and what leaves, and nothing else of the device; memory
and the command's own writes stand. -/
theorem finish_spec (r : AdReq) (a : Ans) (w : Wk) : ∃ fns ns l fw out,
    finish r a w = { w with dev := { w.dev with fns := fns, notices := ns, evcs := l, fw := fw, out := out } } := by
  obtain ⟨l0, w0, h0⟩ := took_spec r w.dev
  cases a with
  | wait => exact ⟨_, _, _, _, _, rfl⟩
  | done st code res =>
    obtain ⟨x, l, j, out, h⟩ := adRespond_spec r.fn r.slot r.tag st code res { advanceHead r.fn w.dev with evcs := l0, fw := w0 }
    obtain ⟨fns, ns, l', j', out', h'⟩ := answerUnknown_spec r.fn 32
      { advanceHead r.fn w.dev with fns := Tab.put (advanceHead r.fn w.dev).fns r.fn x, evcs := l, fw := j, out := out }
    simp only [finish, Wk.on]
    rw [h0, h, h']
    exact ⟨_, _, _, _, _, rfl⟩
  | later op =>
    simp only [finish, Wk.on]
    rw [h0]
    obtain ⟨fns, ns, l, j, out, h⟩ := answerUnknown_spec r.fn 32 (({ advanceHead r.fn w.dev with evcs := l0, fw := w0 } : Dev).onFn r.fn
      fun f => { f with taken := Tab.put f.taken r.slot ⟨r.tag, op, w.dev.hlc (fnHub r.fn)⟩ })
    exact ⟨fns, ns, l, j, out, congrArg (fun d => ({ w with dev := d } : Wk)) h⟩

/-- An accepted request is handled by its body: what the body refuses leaves the work as it was, what it performs or defers
stands. -/
theorem takeRequest_accepted {w : Wk} {fn : Nat} {row : AdRow} {i : Nat} {bs : List Byte}
    (h : Accepted w.dev fn row i bs) (body : AdReq → Wk → Ans × Wk) :
    takeRequest fn row body w = (match body (headReq fn i bs) w with
      | (.done st code res, w') =>
        if st = stOk ∨ st = stFailed then finish (headReq fn i bs) (.done st code res) w' else finish (headReq fn i bs) (.done st code res) w
      | (a, w') => finish (headReq fn i bs) a w') := by
  have hw : w.on (answerUnknown fn 32) = w := by
    simp only [Wk.on, answerUnknown_known _ _ 32 _ _ h.head h.known]
  have hr : (row.bulk || fieldLe bs 0x18 8 == 0) = true := by
    rcases h.result with hb | hb <;> simp [hb]
  have hn : ¬ fieldLe bs 0x10 4 < row.need := by have := h.length.1; omega
  have hm : ¬ 224 < fieldLe bs 0x10 4 := by have := h.length.2; omega
  unfold takeRequest
  simp only [hw, h.head, h.selected, h.reserved, h.flags, hr, readArgs, h.inlined, hn, hm]
  simp only [headReq, beq_self_eq_true, Bool.not_true, if_false, if_true, Bool.false_eq_true, Bool.and_self]
  generalize body ⟨fn, i, fieldLe bs 2 2, BitVec.ofNat 32 (fieldLe bs 4 4), (bs.drop 0x20).take (fieldLe bs 0x10 4),
    fieldLe bs 0x18 8⟩ w = p
  obtain ⟨a, w'⟩ := p
  cases a <;> simp [h.admitted]

end Sys2Proof.Machine
end

