-- ==== Sys2Proof/Laws/Matrix.lean ====
section
/-! SUPPORT. The spill queue of the matrix engine: when spills always enter it, and when they stall it (R80, R142). -/

namespace Sys2Proof.Machine

open Sys2Proof

/-- Every waiting spill and every owned slot of an engine is of one window set. -/
def Mx.OneSet (s : Bool) (m : Mx) : Prop :=
  (∀ p ∈ m.queue, p.set = s) ∧ ∀ pos w, Tab.get? m.slots pos = some w → w.set = s

theorem Mx.oneSet_empty (s : Bool) : Mx.OneSet s Mx.empty := ⟨fun _ h => (List.not_mem_nil h).elim, fun _ _ h => nomatch h⟩

theorem Mx.OneSet.ready {s : Bool} {m : Mx} (h : m.OneSet s) : m.spillReady = true := by
  unfold Mx.spillReady
  split
  · rfl
  next p t hq =>
    split
    next w hw => simp [h.2 _ _ hw, h.1 p (hq ▸ List.mem_cons_self)]
    · rfl

theorem Mx.OneSet.take {s : Bool} {m : Mx} (h : m.OneSet s) : m.takeSpill.OneSet s := by
  unfold Mx.takeSpill
  split
  · exact h
  next p t hq =>
    have hp : p.set = s := h.1 p (hq ▸ List.mem_cons_self)
    have ht : ∀ q ∈ t, q.set = s := fun q hm => h.1 q (hq ▸ List.mem_cons_of_mem _ hm)
    have put (x : PSlot) (hx : x.set = s) :
        ∀ pos w, Tab.get? (Tab.put m.slots p.pos x) pos = some w → w.set = s := by
      intro pos w hw
      by_cases e : pos = p.pos
      · subst e; rw [Tab.get?_put_same] at hw; cases hw; exact hx
      · rw [Tab.get?_put_ne _ _ e] at hw; exact h.2 _ _ hw
    split
    · exact ⟨ht, put _ hp⟩
    next w hw =>
      have hs : w.set = s := h.2 _ _ hw
      split
      · exact ⟨ht, put _ hs⟩
      · exact h

theorem Mx.OneSet.push {s : Bool} {m : Mx} {p : Spill} (h : m.OneSet s) (hp : p.set = s) :
    Mx.OneSet s { m with queue := m.queue ++ [p] } :=
  ⟨fun q hq => (List.mem_append.mp hq).elim (h.1 q) fun e => List.mem_singleton.mp e ▸ hp, h.2⟩

/-- While every spill is of one set, the engine takes them all. -/
theorem Mx.pushSpills_isSome {s : Bool} : {l : List Spill} → {m : Mx} → m.OneSet s → (∀ p ∈ l, p.set = s) → (m.pushSpills l).isSome = true
  | [], _, _, _ => rfl
  | p :: l, m, h, hl => by
    have hp := hl p List.mem_cons_self
    have ht : ∀ q ∈ l, q.set = s := fun q hq => hl q (List.mem_cons_of_mem _ hq)
    unfold Mx.pushSpills
    split
    · exact Mx.pushSpills_isSome (h.push hp) ht
    · rw [h.ready]
      exact Mx.pushSpills_isSome (h.take.push hp) ht

/-- A full queue whose head must wait takes no spill. -/
theorem Mx.pushSpills_none {m : Mx} (hq : ¬ m.queue.length < spillRoom) (hr : m.spillReady = false) {l : List Spill} (hl : l ≠ []) :
    m.pushSpills l = none := by
  cases l with
  | nil => exact absurd rfl hl
  | cons p t => simp [Mx.pushSpills, hq, hr]

/-- What an `mma` does is decided by whether its spills enter the queue. -/
theorem mmaEngine_eq (set : Bool) (av bv : Nat → Val) (m : Mx) : ∃ wins spills fl, (∀ p ∈ spills, p.set = set) ∧
    (∀ pos < mxPositions, ∀ i ∈ (windowTerms ((List.range 32).map fun k => (termMul (av (32 * (pos / 128) + k)) (bv (128 * k + pos % 128))).1)
      (Tab.getD (m.winSet set) pos Win.empty).toWindow).2, ⟨pos, set, ⟨BitVec.ofInt 640 i, false, false, false⟩⟩ ∈ spills) ∧
    mmaEngine set av bv m = ((m.setWins set wins).pushSpills spills).map fun m => (m, fl, spills.length) := by
  unfold mmaEngine
  dsimp only
  refine ⟨_, _, _, ?_, ?_, rfl⟩
  · intro p hp
    obtain ⟨c, -, hc⟩ := List.mem_flatMap.mp hp
    obtain ⟨i, -, rfl⟩ := List.mem_map.mp hc
    rfl
  · intro pos hpos i hi
    refine List.mem_flatMap.mpr ⟨_, List.mem_map.mpr ⟨pos, List.mem_range.mpr hpos, rfl⟩, ?_⟩
    refine List.mem_map.mpr ⟨i, ?_, rfl⟩
    simpa [List.map_map, Function.comp_def] using hi

end Sys2Proof.Machine
end

