-- ==== Sys2Proof/Tests/Slice0.lean ====
section
/-! SUPPORT. Tests: ill-formed operands are refused; small steps with the results that the specification gives; and for every
statement, operands and states that meet the hypotheses of each of its clauses together. -/

namespace Sys2Proof.Tests

open Sys2Proof Sys2Proof.Machine

set_option synthInstance.maxSize 1000
set_option Elab.async false

/-! ## Small states -/

/-- A state of a device alone. -/
def st (d : Dev) : State := ⟨d, ⟨[], []⟩, []⟩
/-- A device whose firmware runs and whose scheduler is active. -/
def upDev : Dev := { Dev.reset with
  clk := ⟨1000, 1000, true, true⟩
  boot := { Dev.reset.boot with
    ready := true
    active := true }
  fw := { Dev.reset.fw with
    state := 2
    aclMax := 1
    procs := (List.range 8).map fun i => (i, ⟨true, [], false, false⟩) } }
/-- A device entry of a range table that maps 16 MiB to interleave set 0. -/
def ent : REntry := ⟨0, 16777216, 0, 1, true, true, true, false, 1, 0⟩
/-- A partition with one core. -/
def part0 : Part := ⟨[0], [0], 1, 0, 100, false, 0, none, 0, none, 0⟩
/-- A virtual device with a core, a channel and a table. -/
def vd0 : Vd := { Vd.reset with
  enabled := true
  queueGrant := 4
  quota := 2
  cores := [0]
  chans := [0]
  table := [ent]
  parts := [(0, part0)] }
/-- A device with virtual device 0 as given; channel 0 holds set 0. -/
def vfD (x : Vd) : Dev :=
  let d := { upDev with mc := { upDev.mc with
    sets := [(0, ⟨0, 256, 0, 0, true, [(0, 0)]⟩)]
    chans := [(0, { Channel.reset with state := .inService })]
    keys := [(1, ⟨.loaded, 0, .slot0⟩)] } }
  (d.onCore 0 fun c => { c with
    state := .serviceable
    clock := 40 }).setVd 0 x
/-- The configuration of a queue with rings of 64 entries. -/
def cfg0 : List Byte := natLe 2 0 ++ [0, 0, 6, 6, 0, 0] ++ natLe 8 0x10000 ++ natLe 8 0x20000 ++ natLe 40 0
/-- An empty queue. -/
def q0 : Queue := mkQueue 1 0 cfg0
/-- A device with queue 0 as given. -/
def vq (x : Queue) : Dev := vfD { vd0 with queues := [(0, x)] }
/-- A descriptor of a kind and flags. -/
def desc (kind flags : Nat) : List Byte := natLe 1 kind ++ natLe 1 0 ++ natLe 2 1 ++ natLe 4 flags ++ natLe 120 0
/-- A command of a kind in a phase. -/
def cmd (kind flags : Nat) (ph : Phase) : Cmd := { mkCmd 7 1 0x10000 0 0 (desc kind flags) with phase := ph }
/-- A queue whose current command is given. -/
def qc (c : Cmd) : Queue := { q0 with cur := some c }
/-- A device with a current command. -/
def vc (c : Cmd) : Dev := vq (qc c)
/-- A request slot (Table 16-8). -/
def slotBytes (op flags : Nat) (args : List Byte) (res : Nat) : List Byte :=
  natLe 2 op ++ natLe 2 flags ++ natLe 4 9 ++ natLe 8 0 ++ natLe 4 args.length ++ natLe 4 0 ++ natLe 8 res ++ args ++
    natLe (224 - args.length) 0
/-- A device with one request submitted on a function's ring. -/
def ask (d : Dev) (fn op flags : Nat) (args : List Byte) (res : Nat) : Dev :=
  d.onFn fn fun f => { f with
    adTail := 1
    feat := 0xFFFF
    reqSlots := [(0, slotBytes op flags args res)] }
/-- What the envelope of a request and the state of its function are asked (R403, R404, R365, R475), test by test. -/
def acceptTests (d : Dev) (fn : Nat) (row : AdRow) (i : Nat) (bs : List Byte) : List Bool :=
  let n := fieldLe bs 0x10 4
  [d.nextSlot fn == some (i, bs), !d.unknownOp fn (slotOp bs), row.sel bs, fieldLe bs 0x14 4 == 0, fieldLe bs 2 2 ||| row.flags == row.flags,
    row.bulk || fieldLe bs 0x18 8 == 0, fieldLe bs 8 8 == 0, decide (row.need ≤ n ∧ n ≤ 224), !d.adminBlocked fn row.whileFrozen row.whileA2]
/-- Whether a request is accepted, as a Boolean. -/
def acceptedB (d : Dev) (fn : Nat) (row : AdRow) (i : Nat) (bs : List Byte) : Bool := (acceptTests d fn row i bs).all id
/-- Every test of a list that passes as a whole passes. -/
theorem all_at {l : List Bool} (h : l.all id = true) (n : Nat) (hn : n < l.length) : l[n] = true :=
  List.all_eq_true.mp h _ (List.getElem_mem hn)
/-- The Boolean is right. -/
theorem accepted_of {d : Dev} {fn : Nat} {row : AdRow} {i : Nat} {bs : List Byte} (h : acceptedB d fn row i bs = true) :
    Accepted d fn row i bs where
  head := eq_of_beq (all_at h 0 (by show _ < 9; decide))
  known := Bool.not_eq_true' _ ▸ all_at h 1 (by show _ < 9; decide)
  selected := all_at h 2 (by show _ < 9; decide)
  reserved := eq_of_beq (all_at h 3 (by show _ < 9; decide))
  flags := eq_of_beq (all_at h 4 (by show _ < 9; decide))
  result := (Bool.or_eq_true _ _ ▸ all_at h 5 (by show _ < 9; decide)).imp id eq_of_beq
  inlined := eq_of_beq (all_at h 6 (by show _ < 9; decide))
  length := of_decide_eq_true (all_at h 7 (by show _ < 9; decide))
  admitted := Bool.not_eq_true' _ ▸ all_at h 8 (by show _ < 9; decide)

/-- Whether two results are equal, as a Boolean. -/
def exB {α β : Type} [DecidableEq α] [DecidableEq β] : Except α β → Except α β → Bool
  | .ok a, .ok b => decide (a = b)
  | .error a, .error b => decide (a = b)
  | _, _ => false
/-- The Boolean is right. -/
theorem ex_eq {α β : Type} [DecidableEq α] [DecidableEq β] {x y : Except α β} (h : exB x y = true) : x = y := by
  cases x <;> cases y <;> simp_all [exB]
/-- What a value holds, where it has the shape named. -/
def pSome {α : Type} (o : Option (Option α)) : Option α := o.getD none
def pOk {α β : Type} (o : Option (Except α β)) : Option β := match o with | some (.ok b) => some b | _ => none
def pErr {α β : Type} (o : Option (Except α β)) : Option α := match o with | some (.error b) => some b | _ => none
def pHead {α : Type} (o : Option (List α)) : Option α := o.bind List.head?
def pTail {α : Type} (o : Option (List α)) : Option (List α) := o.map List.tail
def pFst {α β : Type} (o : Option (α × β)) : Option α := o.map Prod.fst
def pSnd {α β : Type} (o : Option (α × β)) : Option β := o.map Prod.snd
/-- A command that was fetched, or another. -/
def gotC (c : Cmd) : Fetched → Cmd
  | .got x => x
  | _ => c

/-! ## Ill-formed operands, one for each check -/

/-- Operands outside the limits of their row are refused. -/
theorem test_illFormed_accesses :
    (Instr.registerWrite (.fn 0) ⟨0xFFFFE, none⟩ [0, 0, 0]).wellFormed = false ∧ (Instr.registerWrite (.fn 0) ⟨0, none⟩ []).wellFormed = false ∧
    (Instr.doorbell 0 0xFFFFF [0, 0]).wellFormed = false ∧ (Instr.hostWindowRead 0 ⟨2 ^ 36, none⟩ ⟨1, .good⟩).wellFormed = false ∧
    (Instr.hostWindowWrite 0 ⟨2 ^ 36 - 1, none⟩ [0, 0]).wellFormed = false ∧ (Instr.cxlMemRead 0 ⟨32, .good⟩).wellFormed = false ∧
    (Instr.cxlMemRead 0 ⟨2 ^ 52, .good⟩).wellFormed = false ∧ (Instr.cxlMemWrite 0 64 [0]).wellFormed = false ∧
    (Instr.hdmDecoderCommit 0 0 (2 ^ 52) 1).wellFormed = false ∧ (Instr.hdmDecoderDecommit 0 0 (some (2 ^ 52 + 1))).wellFormed = false := by
  decide +kernel

theorem test_illFormed_messages :
    (Instr.syncMasterReadDone 0 (some [0])).wellFormed = false ∧ (Instr.movePageCopyDone 0 true [0]).wellFormed = false ∧
    (Instr.atsInvalidation 0 0 0).wellFormed = false ∧ (Instr.atsInvalidation 0 (2 ^ 52) 1).wellFormed = false ∧
    (Instr.priResponse 0 (2 ^ 52) .success).wellFormed = false ∧ (Instr.getCertificate (.doe 0) 0 (2 ^ 16) 0).wellFormed = false ∧
    (Instr.getCertificate (.doe 0) 0 0 (2 ^ 16)).wellFormed = false ∧ (Instr.importKey 0 0 (natLe 65 0)).wellFormed = false ∧
    (Instr.odRead .i3c 0 0 0 0 (2 ^ 32)).wellFormed = false ∧ (Instr.atsTranslationCompletion 0 (2 ^ 52) true true).wellFormed = false ∧
    (Instr.hostPortLinkUp 0 33 16 false).wellFormed = false ∧ (Instr.hostPortLinkUp 0 320 3 false).wellFormed = false ∧
    (Instr.resume 0 0 (2 ^ 32)).wellFormed = false := by
  decide +kernel

theorem test_illFormed_long (bs : List Byte) : (bs.length = 2 ^ 32 → (Instr.odWrite .i3c false 0 0 0 bs).wellFormed = false) ∧
    (bs.length = 4097 → (Instr.hostReadCompletion 0 bs).wellFormed = false) := by
  constructor <;> intro h <;> simp only [Instr.wellFormed] <;> rw [h] <;> rfl

theorem test_illFormed_package :
    (Instr.fragments 0 0 0 0 []).wellFormed = false ∧ (Instr.mgmt 0 0 [0]).wellFormed = false ∧ (Instr.mgmt 0 0 (natLe 160 0)).wellFormed = false ∧
    (Instr.packetReceive (.attach 0, false) ⟨0, natLe 160 0⟩ false).wellFormed = false ∧
    (Instr.patrolScrub 0 (0x60000000 / 64) false false false).wellFormed = false ∧ (Instr.journalAppend [0]).wellFormed = false ∧
    (Instr.flitData 0 0 false ⟨List.replicate 480 0, 0⟩ [10]).wellFormed = false ∧ (Instr.flitMgmt 0 0 false ⟨⟨[0], 0⟩, []⟩).wellFormed = false := by
  decide +kernel

theorem test_illFormed_core :
    (Instr.mma ⟨0, none⟩ 0 ⟨false, 1⟩ ⟨128, .int8, 0⟩ ⟨0, .int8, 0⟩).wellFormed = false ∧
    (Instr.mma ⟨0, none⟩ 0 ⟨false, 1⟩ ⟨0, .int8, 0⟩ ⟨0, .peat, 0⟩).wellFormed = false ∧
    (Instr.mdrain ⟨0, none⟩ 0 ⟨false, 1⟩ (2 ^ 22) .peat).wellFormed = false ∧
    (Instr.vectorOp ⟨0, none⟩ 0 1 .fma .fp32 .fp32 .rne 0 [1, 2] 0).wellFormed = false ∧
    (Instr.vectorOp ⟨0, none⟩ 0 1 .add .fp32 .fp32 .rne 256 [1, 2] 0).wellFormed = false ∧
    (Instr.functionOp ⟨0, none⟩ 0 1 .exp .fp32 .fp32 .rne 0 256 0).wellFormed = false ∧
    (Instr.wisp ⟨0, none⟩ 0 1 0 1 2 256).wellFormed = false ∧ (Instr.coreStoreLoad ⟨0, none⟩ 0 1 .b8 255 0 false).wellFormed = false ∧
    (Instr.coreStoreStore ⟨0, none⟩ 0 1 .b16 0 253).wellFormed = false ∧ (Instr.globalLoad ⟨0, none⟩ 0 1 .b4 256 0).wellFormed = false ∧
    (Instr.globalStore ⟨0, none⟩ 0 1 .b4 256 0).wellFormed = false := by
  decide +kernel

theorem test_illFormed_atomics :
    (Instr.atomicInt ⟨0, none⟩ 0 1 .add false false 0 256).wellFormed = false ∧
    (Instr.atomicFpMinmax ⟨0, none⟩ 0 1 false false false 256 0).wellFormed = false ∧
    (Instr.compareAndSwap ⟨0, none⟩ 0 0 false false 0 0 256 0).wellFormed = false ∧
    (Instr.exchange ⟨0, none⟩ 0 0 false false 256 0 0).wellFormed = false ∧
    (Instr.fetchAtomic ⟨0, none⟩ 0 0 .add false false 0 256 0).wellFormed = false ∧ (Instr.dalloc ⟨0, none⟩ 0 0 256 0).wellFormed = false ∧
    (Instr.dfree ⟨0, none⟩ 0 0 0 256).wellFormed = false ∧
    (Instr.moverTransfer ⟨0, none⟩ 0 1 ⟨true, 0, 0, List.replicate 6 (1, 0, 0)⟩).wellFormed = false ∧
    (Instr.peerTransfer ⟨0, none⟩ 0 1 0 0 0 0).wellFormed = false ∧ (Instr.counterRead ⟨0, none⟩ 0 1 0 256).wellFormed = false ∧
    (Instr.identityRead ⟨0, none⟩ 0 1 .lane 256).wellFormed = false := by
  decide +kernel

theorem test_illFormed_peatAccumulate : ∀ src, (Instr.atomicPeatAccumulate ⟨0, none⟩ 0 1 src false 256 0).wellFormed = false := by
  intro src; simp [Instr.wellFormed, regOk]

/-- No row of the table gives bits, so no word spells a command. -/
theorem test_decodeTableWord : decodeTableWord 32 0x12345678 = none ∧ (State.reset.withFetchWord 32 0x12345678) = State.reset := ⟨rfl, rfl⟩

/-! ## Worked examples of the specification -/

/-- 08_package_and_reedbed.md, R202: the entries of core 7/1/42 for five ports. -/
theorem test_distance : [30, 31, 29, 62, 0].map (distWord [] 1062) = [0x001E0002, 0x002A0003, 0x002E0103, 0x00320003, 0x01DE0820] := by decide +kernel

/-- 20_object_dictionary.md: its entry for MC15 port 0 lies at offset 0x0004_2678 of the table. -/
theorem test_distance_offset : 4 * (64 * 1062 + 30) = 0x00042678 ∧ natLe 4 (distWord [] 1062 30) = [0x02, 0x00, 0x1E, 0x00] := by decide +kernel

/-- 02_number_formats.md: a block cast into MXFP4, under RNE and RUP: scale byte and elements. -/
theorem test_mxfp4 :
    let vs := ([Val.mk false 5 (-10), Val.mk true 3 (-12), Val.mk false 9 (-15)] ++ List.replicate 29 Val.zero).map fun v => (v, false)
    let us := List.replicate 32 0
    let b := castBlock .mxfp4 .rne vs us
    (b.1, b.2.1.map Prod.fst) = (0x75, [0x6, 0xA, 0x1] ++ List.replicate 29 0) ∧
      (castBlock .mxfp4 .rup vs us).2.1.map Prod.fst = [0x7, 0x9, 0x1] ++ List.replicate 29 0 := by decide +kernel

/-- 03_peat_accumulation.md: the product 1.5 × −0.375 as a peat word, and as a fragment of base 109. -/
theorem test_peat_word :
    let p := peatAddTerm Peat.zero (termMul (decodeElem .fp32 0x3FC00000) (decodeElem .fp32 0xBEC00000)).1
    peatBytes p = List.replicate 37 0 ++ [0xF7] ++ List.replicate 42 0xFF ++ List.replicate 16 0 ∧
      natLe 32 (fragEncode p 0).1.toNat = List.replicate 23 0 ++ [0xB8, 0x6D, 0x00, 0, 0, 0, 0, 0, 0x10] := by decide +kernel

/-- 04_functions_and_wisp.md: the reciprocal of +0 in E4M3. -/
theorem test_reciprocal :
    (fnSpecial .recip Val.zero).map (fun r => let c := castElem .e4m3 .rne 0 false r.1; (c.1, c.2 ||| r.2)) = some (0x7E, 0x32) := by decide +kernel

/-- 04_functions_and_wisp.md: the FP64 tree of four leaves. -/
theorem test_tree64 : let r := treeOf ([0x4340000000000000, 0x3FF0000000000000, 0x3FF0000000000000, 0xC340000000000000].map (decodeElem .fp64))
    castElem .fp64 .rne 0 false r.1 = (0x3FF0000000000000, 0) ∧ r.2 = 0x10 := by decide +kernel

/-- 04_functions_and_wisp.md: the draw of key 0, stream 0, element 0, and its use in a cast under SR. -/
theorem test_draw : wispDraw 0 0 0 0 = 0xE8CD7923 ∧ castElem .bf16 .sr 0xE8CD7923 false (decodeElem .fp32 0x3DCCCCCD) = (0x3DCC, 0x10) := by decide +kernel

/-- 05_operation_catalogue.md: the ranking of eight values in both orders. -/
theorem test_ranking :
    let run := [0x40400000, 0xFFC01234, 0x40400000, 0x80000000, 0x40E00000, 0x00000000, 0xFF800000, 0x40400000].map fun b => (⟨b, 0, decodeElem .fp32 b, Peat.zero⟩ : El)
    (sortRun true run).map Prod.snd = [1, 4, 0, 2, 7, 5, 3, 6] ∧ ((sortRun false run).map Prod.snd).take 3 = [6, 3, 5] := by decide +kernel

/-- 06_compute_core.md: groups on a core. -/
theorem test_groups : groupsPerCore 96 49152 = 32 ∧ groupsPerCore 64 49152 = 48 := by decide +kernel

/-- 07_threads_and_memory_order.md: three requests of the allocator, in the order of service. -/
theorem test_heap :
    let a := heapAlloc 0xC0 1024 100 (List.replicate 128 0)
    let b := heapAlloc 0xC0 1024 64 a.2
    let c := heapAlloc 0xC0 1024 256 b.2
    (a.1, b.1, c.1, c.2.getD 0 0) = (0xC0, 0xC0 + 0x80, 0xC0 + 0xC0, 0x7F) := by decide +kernel

/-- 09_memory_system.md: set 0x025 of the claims-triage composition decodes an address to S5.14; the line's tweak. -/
theorem test_decodePa :
    let d := { Dev.reset with mc := { Dev.reset.mc with sets := [(0x25, ⟨0, 23040, 0, 3, true, (List.range 8).map fun i => (168 + i, 0)⟩)] } }
    decodePa d 0x094123456780 = some (0x25, 6, 174, 0x2468A780) ∧ lineIndex (cellAt 174 0x2468A780) = 0x15C91A29E := by decide +kernel

/-- 10_range_translation.md: the bytes of a range entry. -/
theorem test_rangeEntry : entryOf (natLe 8 0x00007F2000010000 ++ natLe 8 0 ++ natLe 8 0x000000000C400042 ++ natLe 8 0x0000001700012331) =
    ⟨0x00007F2000010000, 65536, 0x0C4000420000, 1, true, true, false, false, 0x123, 0x17⟩ := by decide +kernel

/-- 15_fabric_links.md: `LX_STATE` before and after the loss of lane 3. -/
theorem test_lxState :
    let d := Dev.reset.onPort 4 fun x => { x with
      state := 3
      active := 0xFF
      reserve := 0x300 }
    let w := dropLane 4 3 (work (st d))
    d.portReg 4 0 = 0x000000FF00300803 ∧ w.dev.portReg 4 0 = 0x000001F702200803 := by decide +kernel

/-- 18_power_and_heat.md: the allocation of the training step. -/
theorem test_allocation :
    let b : Bounds := ⟨14000, 11000, 0xFFFF, 1400, 0xFFFF, 300, 0xFFFF, 0, 0⟩
    (List.range 3).map (allocate b fun i => [13700, 1600, 400].getD i 0) = [11810, 1460, 330] := by decide +kernel

/-- 20_object_dictionary.md, Table 20-9: the unit word of the core, and its state entry in steps 1 and 4. -/
theorem test_unitState :
    let d (out : Bool) (c : Nat) := ((vfD { vd0 with cores := [] }).onCore 1062 fun c => { c with state := .retired }).onUnit .core 1062 fun u => { u with
      adminOut := out
      cause := c }
    unitWord .core 1062 = 0x10000426 ∧ (d false 2).unitStateWord .core 1062 = 0x45200000 ∧ (d true 3).unitStateWord .core 1062 = 0x85300000 := by decide +kernel

/-- FIPS 197, sections 4.2 and 5.1.1: products and substitutions of the block cipher of R212. -/
theorem test_cipherBytes : fieldMul 0x57 0x83 = 0xC1 ∧ fieldMul 0x57 0x13 = 0xFE ∧ substitute 0x53 = 0xED ∧ substitute 0x00 = 0x63 := by decide +kernel

/-! ## Witnesses: each clause of each statement has operands and a state that meet its hypotheses -/

/-- A kernel command that is placed on core 0, its image at 128 KiB. -/
def klCmd : Cmd := { cmd 2 0 .placed with
  cores := [0]
  params := natLe 8 0 ++ natLe 8 0x20000 ++ natLe 48 0 }
/-- Its image: a header of 128 bytes and one code word. -/
def klState : State :=
  ⟨vc klCmd, ⟨[(0x20000, 0x42), (0x20001, 0x56), (0x20002, 0x4B), (0x20003, 0x42), (0x20004, 1), (0x20006, 1), (0x20008, 8),
    (0x20010, 0x80), (0x20014, 8), (0x20028, 0x88)], []⟩, []⟩

/-- An empty state blob. -/
def blob0 : Blob := ⟨1, 0, 0, Fn.reset, Mbx.reset, Mbx.reset, [], [], [], 0, [], [], [], [], [], []⟩
/-- A device with the blob at a source, asked to restore it. -/
def restoreDev : Dev := ask { upDev with blobs := [(1, blob0)] } 256 0x0403 0 (natLe 210 0) 0

/-- A kernel command in execution on core 0: one group of 32 lanes, 32 registers, its cohort on core 0. -/
def kCmd : Cmd := { cmd 2 0 .running with
  cores := [0]
  clusters := [0]
  cohorts := [[0]]
  params := natLe 8 0 ++ natLe 8 0x20000 ++ natLe 8 0 ++ natLe 4 1 ++ natLe 4 1 ++ natLe 4 1 ++ natLe 4 1 ++ natLe 64 0
  hdr := natLe 8 0 ++ natLe 2 32 ++ natLe 2 0 ++ natLe 4 1024 ++ natLe 20 0 ++ natLe 4 1 ++ natLe 88 0 }
/-- The run of a kernel with one resident group. -/
def kRun0 : KRun := ⟨0, 0, [(0, newGroup 0 0 none)], 1, 0, [], [], [], 0, false, [], (0, 0)⟩
/-- A device that runs a kernel. -/
def kDev (r : KRun) : Dev :=
  { vc kCmd with kern := [(7, r)] }.onCore 0 fun c => { c with busy := some 7 }
/-- The group of that device. -/
def kGrp (f : KGroup → KGroup) : Dev := kDev { kRun0 with groups := [(0, f (newGroup 0 0 none))] }
/-- A collective of a group of `p` participants, sequence number 3, own number 0. -/
def aCmd (p op rank : Nat) : Cmd := { cmd 1 0 .running with
  started := true
  params := natLe 4 op ++ natLe 20 0 ++ natLe 4 5 ++ natLe 2 p ++ natLe 2 rank ++ natLe 8 3 ++ natLe 24 0 }
/-- A device that runs it. -/
def aDev (p : Nat) : Dev := vfD { vd0 with
  queues := [(0, qc (aCmd p 0x90001 0))]
  groups := [⟨5, 2, 0, 9, [0, 0]⟩] }
/-- A device that runs a kernel with other launch parameters: bytes at an offset. -/
def kPar (o : Nat) (bs : List Byte) (f : KGroup → KGroup) : Dev :=
  let c : Cmd := { kCmd with params := overlay kCmd.params o bs }
  { vc c with kern := [(7, { kRun0 with groups := [(0, f (newGroup 0 0 none))] })] }.onCore 0 fun c => { c with busy := some 7 }
/-- A device with one memory request. -/
def rDev (k : MKind) (slot : Nat) : Dev :=
  (kGrp id).onMc fun m => { m with reqs := [⟨1, 0, 0, 7, 0, 0, k, .load 0 0 4 4, .sent, [⟨0, slot, 0, 0⟩], 0⟩] }
/-- A device with one response. -/
def sDev (k : MKind) : Dev :=
  (kGrp id).onMc fun m => { m with resps := [⟨⟨1, 0, 0, 7, 0, 0, k, .load 0 0 4 4, .sent, [⟨0, 1, 0, 0⟩], 0⟩, natLe 4 9⟩] }
/-- A transfer. -/
def mov (peer : Option (Nat × Nat × Nat × Nat)) (landed : Bool) : MoverT := ⟨1, 0, ⟨false, 0x20000, 0, []⟩, peer, 0, 0, 0, landed⟩

/-- A device with a host decoder of port 3, at 4 GiB, of 256 MiB, with a window as given. -/
def hDev (up : Bool) (bound : Option (Nat × Nat × Bool × Bool)) (x : Vd) : Dev :=
  { vfD x with
    hostLinks := [(3, ⟨true, 64, 16, up⟩)]
    mc := { (vfD x).mc with hdm := [(15, ⟨4294967296, 268435456, true, bound⟩)] } }
/-- A device that waits in start-up with some units settled. -/
def settledOf (cores chans : List Nat) : Dev := { upDev with
  boot := { upDev.boot with
    early := true
    calib := 20 }
  sched := { upDev.sched with cores := cores.map fun n => (n, { Core.reset with state := .serviceable }) }
  mc := { upDev.mc with chans := chans.map fun n => (n, { Channel.reset with state := .inService }) } }
/-- A device that waits in start-up with every unit settled. -/
def settledDev : Dev := settledOf (List.range 2176) (List.range 1024)
theorem getD_map {β : Type} (l : List Nat) (x d : β) (n : Nat) (h : n ∈ l) : Tab.getD (l.map fun i => (i, x)) n d = x := by
  have key : Tab.get? (l.map fun i => (i, x)) n = some x := by
    induction l with
    | nil => cases h
    | cons a t ih =>
      by_cases e : a = n
      · subst e; simp [Tab.get?]
      · rcases List.mem_cons.mp h with h | h
        · exact absurd h.symm e
        · have := ih h
          simp_all [Tab.get?]
  simp [Tab.getD, key]
theorem settled_core (a b : List Nat) (n : Nat) (h : n ∈ a) : (settledOf a b).settled .core n = true := by
  have e : ((settledOf a b).core n).state = .serviceable := by
    show (Tab.getD (a.map fun i => (i, { Core.reset with state := CoreState.serviceable })) n Core.reset).state = _
    rw [getD_map _ _ _ _ h]
  simp [Dev.settled, e]
theorem settled_chan (a b : List Nat) (n : Nat) (h : n ∈ b) : (settledOf a b).settled .chan n = true := by
  have e : ((settledOf a b).chan n).state = .inService := by
    show (Tab.getD (b.map fun i => (i, { Channel.reset with state := ChState.inService })) n Channel.reset).state = _
    rw [getD_map _ _ _ _ h]
  simp [Dev.settled, e]

/-- A kernel whose engine stalls: window 0 of set 0 holds 2^448 units, the spill queue is full, and its head waits for a slot that
set 0 owns. -/
def stallRun : KRun := { kRun0 with
  engines := [(0, ⟨[(0, winOf ⟨1, 448, false, false, false⟩)], [], [(0, ⟨Peat.zero, false⟩)], List.replicate 256 ⟨0, true, Peat.zero⟩⟩)]
  groups := [(0, { newGroup 0 0 none with store := [(2, 0x80), (3, 0x3F), (16386, 0x80), (16387, 0x3F)] })] }
theorem mma_takes (set : Bool) (av bv : Nat → Val) : (mmaEngine set av bv Mx.empty).isSome = true := by
  obtain ⟨wins, spills, fl, hs, -, e⟩ := mmaEngine_eq set av bv Mx.empty
  rw [e, Option.isSome_map]
  refine Mx.pushSpills_isSome (s := set) ?_ hs
  cases set <;> exact ⟨fun _ h => (List.not_mem_nil h).elim, fun _ _ h => nomatch h⟩
theorem mma_stalls (set : Bool) (av bv : Nat → Val) (m : Mx) (hq : ¬ m.queue.length < spillRoom) (hr : m.spillReady = false)
    (hs : (windowTerms ((List.range 32).map fun k => (termMul (av k) (bv (128 * k))).1) (Tab.getD (m.winSet set) 0 Win.empty).toWindow).2 ≠ []) :
    mmaEngine set av bv m = none := by
  obtain ⟨wins, spills, fl, -, h0, e⟩ := mmaEngine_eq set av bv m
  have hne : spills ≠ [] := by
    obtain ⟨i, t, hi⟩ := List.exists_cons_of_ne_nil hs
    intro hn
    have := h0 0 (by decide) i (by simp [hi])
    rw [hn] at this
    exact List.not_mem_nil this
  rw [e]
  have : (m.setWins set wins).pushSpills spills = none := by
    cases set
    · exact Mx.pushSpills_none (m := m.setWins false wins) hq hr hne
    · exact Mx.pushSpills_none (m := m.setWins true wins) hq hr hne
  rw [this]
  rfl

/-- A collective with one tensor, input or output, at an address. -/
def tCmd (p base nin nout : Nat) : Cmd :=
  let c := aCmd p 0x90001 0
  { c with params := overlay c.params 6 (natLe 1 nin ++ natLe 1 nout) ++ natLe 8 base ++ natLe 120 0 }
/-- A device that runs it. -/
def tDev (p base nin nout : Nat) : Dev := vfD { vd0 with
  queues := [(0, qc (tCmd p base nin nout))]
  groups := [⟨5, 2, 0, 9, [0, 0]⟩] }

/-- Witnesses for IdleStepTicks. -/
theorem wit_IdleStepTicks :
    (∃ (s : State), s.pending = [] ∧ s.dev.clk.powered = true ∧ s.dev.clk.running = true ∧ s.dev.clk.hlc0 ≠ BitVec.allOnes 64 ∧ s.dev.clk.hlc1 ≠ BitVec.allOnes 64) ∧
    (∃ (s : State), s.pending = [] ∧ (s.dev.clk.powered = false ∨ s.dev.clk.running = false)) :=
  ⟨⟨st upDev, by decide +kernel⟩,
   ⟨State.reset, by decide +kernel⟩⟩

/-- Witnesses for StepKeepsMemory. -/
theorem wit_StepKeepsMemory :
    (∃ (s t : State), s.mem.wf = true ∧ step s = .next t) :=
  ⟨State.reset, State.reset, by decide +kernel, rfl⟩

/-- Witnesses for IntegerPatterns. -/
theorem wit_IntegerPatterns :
    (∃ (f : Fmt), (f = Fmt.int4 ∨ f = .int8 ∨ f = .int32 ∨ f = .int64)) ∧
    (∃ (f : Fmt), ∃ (i : Int), ∃ w, w = (fmtBits f) ∧ (f = Fmt.int4 ∨ f = .int8 ∨ f = .int32 ∨ f = .int64) ∧ -(2 ^ (w - 1) : Int) ≤ i ∧ i ≤ (2 ^ (w - 1) : Int) - 1) :=
  ⟨⟨.int4, by decide +kernel⟩,
   ⟨.int4, -8, _, rfl, by decide +kernel⟩⟩

/-- Witnesses for PeatWordStored. -/
theorem wit_PeatWordStored :
    (∃ k : Nat, k < 96) :=
  ⟨95, by decide⟩

/-- Witnesses for PeatAddition. -/
theorem wit_PeatAddition :
    (∃ (l m : List Val), l.Perm m ∧ l ≠ m) :=
  ⟨[Val.zero, .nan true], [.nan true, Val.zero], List.Perm.swap _ _ _, by decide⟩

/-- Witnesses for FragmentsKeepWords. -/
theorem wit_FragmentsKeepWords :
    (∃ (p : Peat) (i : Int) (b : Nat), b ≤ 448 ∧ -(2 ^ 191 : Int) ≤ i ∧ i < (2 ^ 191 : Int) ∧ p.n = BitVec.ofInt 640 (i * (2 ^ b : Int))) ∧
    (∃ (f : BitVec 256), bits f.toNat 255 252 ≠ 1 ∧ bits f.toNat 255 252 ≠ 2) ∧
    (∃ (f : BitVec 256), bits f.toNat 255 252 = 1 ∧ 448 < bits f.toNat 201 192) :=
  ⟨⟨⟨BitVec.ofInt 640 (-(2 ^ 191) * 2 ^ 448), false, false, false⟩, -(2 ^ 191), 448, by decide +kernel⟩,
   ⟨0, by decide +kernel⟩,
   ⟨(1 <<< 252) ||| (449 <<< 192), by decide +kernel⟩⟩

/-- Witnesses for RegisterWrites. -/
theorem wit_RegisterWrites :
    (∃ (s : State), ∃ (fn : FnId), ∃ (off : BarAt), s.dev.barTakes fn.val off.ide = false) ∧
    (∃ (s : State), ∃ (fn : FnId), ∃ (off : BarAt), s.dev.barTakes fn.val off.ide = true ∧ fn.val = mgr) ∧
    (∃ (s : State), ∃ (fn : FnId), ∃ (off : BarAt), s.dev.barTakes fn.val off.ide = true ∧ fn.val ≠ mgr) ∧
    (∃ (off : BarAt), ∃ (bs : List Byte), (off.off + bs.length ≤ 0x14 ∨ (0x28 ≤ off.off ∧ off.off + bs.length ≤ 0x100))) ∧
    (∃ (s : State), ∃ (v : FnId), ∃ (ide : Option Nat), ∃ (bs : List Byte), v.val ≠ mgr ∧ s.dev.barTakes v.val ide = true ∧ bs.length = 8 ∧ leNat bs % 65536 = 0) ∧
    (∃ (v : FnId), ∃ (bs : List Byte), v.val ≠ mgr ∧ bs.length = 8 ∧ leNat bs % 65536 ≠ 0) ∧
    (∃ (s : State), ∃ (v : FnId), ∃ (ide : Option Nat), ∃ (i : Nat), v.val ≠ mgr ∧ s.dev.barTakes v.val ide = true ∧ i < 8) ∧
    (∃ (s : State), ∃ (v : FnId), ∃ (ide : Option Nat), ∃ (o : Nat), ∃ (n : Nat), ∃ (bs : List Byte), v.val ≠ mgr ∧ s.dev.barTakes v.val ide = true ∧ (o, n) ∈ [(0x800, 8), (0x808, 4), (0x810, 4), (0x814, 4), (0x818, 8), (0x820, 4)] ∧ bs.length = n) ∧
    (∃ (s : State), ∃ (v : VDev), ∃ (q : QId), ∃ (w : BitVec 64), ∃ (x : Queue), s.dev.barOpen v.val = true ∧ s.dev.queue? v.val q.val = some x ∧ q.val < (s.dev.vd v.val).queueGrant ∧ bits w.toNat 15 0 < x.S ∧ bitAt w.toNat 16 = false) ∧
    (∃ (s : State), ∃ (v : VDev), ∃ (q : QId), ∃ (w : BitVec 64), ∃ (x : Queue), s.dev.barOpen v.val = true ∧ s.dev.queue? v.val q.val = some x ∧ q.val < (s.dev.vd v.val).queueGrant ∧ bits w.toNat 15 0 < x.S ∧ bitAt w.toNat 16 = true ∧ (s.dev.vd v.val).frozen = false) ∧
    (∃ (s : State), ∃ (v : VDev), ∃ (q : QId), ∃ (w : BitVec 64), s.dev.barOpen v.val = true ∧ (∀ x, s.dev.queue? v.val q.val = some x → (s.dev.vd v.val).queueGrant ≤ q.val ∨ x.S ≤ bits w.toNat 15 0)) ∧
    (∃ (s : State), ∃ (v : VDev), ∃ (off : Nat), ∃ (bs : List Byte), s.dev.barOpen v.val = true ∧ 0x2000 < off + bs.length ∧ off < 0x2800 ∧ bs ≠ [] ∧ (bs.length ≠ 8 ∨ off < 0x2000 ∨ off % 8 ≠ 0)) ∧
    (∃ (s : State), ∃ (v : VDev), ∃ (off : Nat), ∃ (bs : List Byte), (s.dev.barOpen v.val = false ∨ off + bs.length ≤ 0x2000 ∨ 0x2800 ≤ off ∨ bs = [])) ∧
    (∃ (s : State), ∃ (v : VDev), s.dev.barOpen v.val = false) ∧
    (∃ (s : State), ∃ (v : VDev), ∃ (q : QId), ∃ (w : BitVec 32), ∃ (x : Queue), s.dev.barOpen v.val = true ∧ s.dev.queue? v.val q.val = some x ∧ w.toNat < x.C ∧ x.backlog = [] ∧ x.state = .active) ∧
    (∃ (s : State), ∃ (v : VDev), ∃ (q : QId), ∃ (w : BitVec 32), ∃ (x : Queue), s.dev.barOpen v.val = true ∧ s.dev.queue? v.val q.val = some x ∧ x.C ≤ w.toNat) ∧
    (∃ (s : State), ∃ (v : VDev), ∃ (q : QId), (s.dev.barOpen v.val = false ∨ s.dev.queue? v.val q.val = none)) ∧
    (∃ (s : State), ∃ (fn : FnId), s.dev.barOpen fn.val = true) ∧
    (∃ (s : State), ∃ (fn : FnId), s.dev.barOpen fn.val = true) ∧
    (∃ (s : State), ∃ (fn : FnId), s.dev.barOpen fn.val = false) ∧
    (∃ (s : State), ∃ (fn : FnId), s.dev.barOpen fn.val = true) ∧
    (∃ (s : State), ∃ (fn : FnId), ∃ (i : Fin 64), s.dev.barOpen fn.val = true ∧ (s.dev.fn fn.val).fnMask = false ∧ ((s.dev.fn fn.val).vec i.val).pend = true) ∧
    (∃ (s : State), ∃ (fn : FnId), ∃ (i : Fin 64), ((s.dev.fn fn.val).vec i.val).held ≠ 0) ∧
    (∃ (s : State), ∃ (fn : FnId), ∃ (i : Fin 64), ((s.dev.fn fn.val).vec i.val).held = 0) ∧
    (∃ (s : State), ∃ (fn : FnId), s.dev.barOpen fn.val = true ∧ (s.dev.fn fn.val).evHeld = []) ∧
    (∃ (s : State), ∃ (fn : FnId), ∃ (w : BitVec 32), ∃ (e : HeldEvent), s.dev.barOpen fn.val = true ∧ (s.dev.fn fn.val).evHeld = [e] ∧ (s.dev.fn fn.val).evIndex ≠ (bits w.toNat 7 0 + 255) % 256) ∧
    (∃ (s : State), ∃ (fn : FnId), s.dev.barOpen fn.val = false) :=
  ⟨⟨State.reset, 0, ⟨0, none⟩, by decide +kernel⟩,
   ⟨State.reset, 256, ⟨0, none⟩, by decide +kernel⟩,
   ⟨st (vfD vd0), 0, ⟨0, none⟩, by decide +kernel⟩,
   ⟨⟨0, none⟩, [], by decide +kernel⟩,
   ⟨st (vfD vd0), 0, none, natLe 8 0x10000, by decide +kernel⟩,
   ⟨0, natLe 8 1, by decide +kernel⟩,
   ⟨st (vfD vd0), 0, none, 0, by decide +kernel⟩,
   ⟨st (vfD vd0), 0, none, 0x800, 8, natLe 8 0, by decide +kernel⟩,
   ⟨st (vq q0), 0, 0, 0, ((pSome (some ((st (vq q0) : State).dev.queue? (0 : VDev).val (0 : QId).val)))).get (by decide +kernel), by decide +kernel⟩,
   ⟨st (vq q0), 0, 0, 0x1003F, ((pSome (some ((st (vq q0) : State).dev.queue? (0 : VDev).val (0 : QId).val)))).get (by decide +kernel), by decide +kernel⟩,
   ⟨st (vfD vd0), 0, 0, 0, by decide +kernel⟩,
   ⟨st (vfD vd0), 0, 0x27FC, [1], by decide +kernel⟩,
   ⟨State.reset, 0, 0, [], by decide +kernel⟩,
   ⟨State.reset, 0, by decide +kernel⟩,
   ⟨st (vq q0), 0, 0, 0, ((pSome (some ((st (vq q0) : State).dev.queue? (0 : VDev).val (0 : QId).val)))).get (by decide +kernel), by decide +kernel⟩,
   ⟨st (vq q0), 0, 0, 64, ((pSome (some ((st (vq q0) : State).dev.queue? (0 : VDev).val (0 : QId).val)))).get (by decide +kernel), by decide +kernel⟩,
   ⟨State.reset, 0, 0, by decide +kernel⟩,
   ⟨st (vfD vd0), 0, by decide +kernel⟩,
   ⟨st (vfD vd0), 0, by decide +kernel⟩,
   ⟨State.reset, 0, by decide +kernel⟩,
   ⟨st (vfD vd0), 0, by decide +kernel⟩,
   ⟨st ((vfD vd0).onFn 0 fun f => { f with fnMask := false, vecs := [(63, ⟨0, 0, false, true, 0, 2⟩)] }), 0, 63, by decide +kernel⟩,
   ⟨st ((vfD vd0).onFn 0 fun f => { f with vecs := [(3, ⟨0, 0, true, true, 0, 2⟩)] }), 0, 3, by decide +kernel⟩,
   ⟨State.reset, 0, 0, by decide +kernel⟩,
   ⟨st (vfD vd0), 0, by decide +kernel⟩,
   ⟨st ((vfD vd0).onFn 0 fun f => { f with evHeld := [⟨1, 0, 1, []⟩] }), 0, 7, ⟨1, 0, 1, []⟩, by decide +kernel⟩,
   ⟨State.reset, 0, by decide +kernel⟩⟩

/-- Witnesses for QueueRequests. -/
theorem wit_QueueRequests :
    (∃ (s : State), ∃ (fn : FnId), ∃ (i : Nat), ∃ (bs : List Byte), Accepted s.dev fn.val (adRow 0x0001 16) i bs ∧ (fn.val = mgr ∨ (s.dev.vd fn.val).queues = []) ∧ bits (s.dev.fn fn.val).adTail.toNat 4 0 = (i + 1) % 32) ∧
    (∃ (s : State), ∃ (v : VDev), ∃ (i : Nat), ∃ (bs : List Byte), ∃ cfg, cfg = ((headReq v.val i bs).args.take 64) ∧ ∃ x, x = (mkQueue s.dev.sched.nextUid (lowestFree 0 s.dev.devqs) cfg) ∧ ∃ q, q = (fieldLe cfg 0 2) ∧ Accepted s.dev v.val (adRow 0x0101 64) i bs ∧ queueFieldsOk cfg = true ∧ q < (s.dev.vd v.val).queueGrant ∧ ringsOk (s.dev.vd v.val).table x = true ∧ (Tab.get? (s.dev.vd v.val).parts x.part).isSome = true ∧ s.dev.queue? v.val q = none ∧ s.dev.devqs.length < 4096) ∧
    (∃ (s : State), ∃ (v : VDev), ∃ (i : Nat), ∃ (bs : List Byte), ∃ r, r = (headReq v.val i bs) ∧ ∃ n, n = (fieldLe r.args 2 2) ∧ ∃ hub, hub = (hubEng v.val) ∧ ∃ (x : Queue), ∃ rs, rs = ((x.backlog.take n).flatMap fun y => y.bytes false) ∧ Accepted s.dev v.val { adRow 0x0102 4 with bulk := true } i bs ∧ 0 < n ∧ n ≤ 256 ∧ fieldLe r.args 0 2 < 256 ∧ s.dev.queue? v.val (fieldLe r.args 0 2) = some x ∧ checkAs hub s.dev v.val needW (parts r.result rs.length) = none) ∧
    (∃ (s : State), ∃ (v : VDev), ∃ (i : Nat), ∃ (bs : List Byte), ∃ live, live = (s.dev.ctxs.filter fun c => !c.2.destroying) ∧ ∃ n, n = (lowestFree 1 (s.dev.ctxs.map Prod.fst)) ∧ Accepted s.dev v.val (adRow 0x0201 0) i bs ∧ live.length < 65536 ∧ ((live.filter fun c => c.2.vdev == v.val).length < 4096) ∧ n < 2 ^ 20) :=
  ⟨⟨st (ask (vfD vd0) 0 0x0001 0 (natLe 16 3) 0), 0, 0, slotBytes 0x0001 0 (natLe 16 3) 0, accepted_of (by decide +kernel), by decide +kernel⟩,
   ⟨st (ask (vfD vd0) 0 0x0101 0 (cfg0) 0), 0, 0, slotBytes 0x0101 0 (cfg0) 0, _, rfl, _, rfl, _, rfl, accepted_of (by decide +kernel), by decide +kernel⟩,
   ⟨st (ask (vq q0) 0 0x0102 0 (natLe 2 0 ++ natLe 2 256) 0x40000), 0, 0, slotBytes 0x0102 0 (natLe 2 0 ++ natLe 2 256) 0x40000, _, rfl, _, rfl, _, rfl, ((pSome (some ((st (ask (vq q0) 0 0x0102 0 (natLe 2 0 ++ natLe 2 256) 0x40000) : State).dev.queue? (0 : VDev).val (fieldLe (headReq (0 : VDev).val (0 : Nat) (slotBytes 0x0102 0 (natLe 2 0 ++ natLe 2 256) 0x40000 : List Byte)).args 0 2))))).get (by decide +kernel), _, rfl, accepted_of (by decide +kernel), by decide +kernel⟩,
   ⟨st (ask (vfD vd0) 0 0x0201 0 ([]) 0), 0, 0, slotBytes 0x0201 0 ([]) 0, _, rfl, _, rfl, accepted_of (by decide +kernel), by decide +kernel⟩⟩

/-- Witnesses for DestructionRequests. -/
theorem wit_DestructionRequests :
    (∃ (s : State), ∃ (v : VDev), ∃ (i : Nat), ∃ (bs : List Byte), ∃ r, r = (headReq v.val i bs) ∧ ∃ q, q = (fieldLe r.args 0 2) ∧ ∃ (x : Queue), Accepted s.dev v.val { adRow 0x0220 2 with flags := 1 } i bs ∧ q < 256 ∧ s.dev.queue? v.val q = some x ∧ x.state ≠ .destroying) ∧
    (∃ (s : State), ∃ (v : VDev), ∃ (i : Nat), ∃ (bs : List Byte), ∃ ctx, ctx = (fieldLe (headReq v.val i bs).args 0 4) ∧ ∃ (x : Ctx), Accepted s.dev v.val { adRow 0x0202 4 with flags := 1 } i bs ∧ 0 < ctx ∧ ctx < 2 ^ 20 ∧ s.dev.ctx? ctx = some x ∧ x.vdev = v.val ∧ x.destroying = false ∧ (s.dev.vd v.val).queues = []) ∧
    (∃ (s : State), ∃ (v : VDev), ∃ (i : Nat), ∃ (bs : List Byte), ∃ r, r = (headReq v.val i bs) ∧ ∃ ctx, ctx = (fieldLe r.args 0 4) ∧ ∃ (x : Ctx), Accepted s.dev v.val { adRow 0x0202 4 with flags := 1 } i bs ∧ 0 < ctx ∧ ctx < 2 ^ 20 ∧ s.dev.ctx? ctx = some x ∧ x.vdev = v.val ∧ x.destroying = false) ∧
    (∃ (s : State), ∃ (v : VDev), ∃ (i : Nat), ∃ (bs : List Byte), ∃ id, id = (fieldLe (headReq v.val i bs).args 0 4) ∧ ∃ code, code = (fieldLe (headReq v.val i bs).args 4 2) ∧ ∃ (x : FSlot), Accepted s.dev v.val (adRow 0x0211 6) i bs ∧ (code = 1 ∨ code = 5) ∧ (s.dev.vd v.val).fence? id = some x ∧ x.destroyed = false ∧ x.owned = true) ∧
    (∃ (s : State), ∃ (v : VDev), ∃ (i : Nat), ∃ (bs : List Byte), ∃ id, id = (fieldLe (headReq v.val i bs).args 0 4) ∧ ∃ code, code = (fieldLe (headReq v.val i bs).args 4 2) ∧ ∃ (x : FSlot), Accepted s.dev v.val (adRow 0x0211 6) i bs ∧ (code = 1 ∨ code = 5) ∧ (s.dev.vd v.val).fence? id = some x ∧ x.destroyed = false ∧ x.owned = false) ∧
    (∃ (s : State), ∃ (v : VDev), ∃ (slot : Fin 32), ∃ (t : Taken), ∃ (q : Nat), Tab.get? (s.dev.fn v.val).taken slot.val = some t ∧ t.op = .destroyQueue q false) ∧
    (∃ (s : State), ∃ (v : VDev), ∃ (slot : Fin 32), ∃ (t : Taken), ∃ (q : Nat), Tab.get? (s.dev.fn v.val).taken slot.val = some t ∧ t.op = .destroyQueue q false ∧ s.dev.cur? v.val q = none) ∧
    (∃ (s : State), ∃ (v : VDev), ∃ (slot : Fin 32), ∃ (t : Taken), ∃ (ctx : Nat), ∃ (b : Bool), ∃ (started : List Nat), Tab.get? (s.dev.fn v.val).taken slot.val = some t ∧ t.op = .destroyContext ctx b started ∧ (s.dev.vd v.val).queues = []) ∧
    (∃ (s : State), ∃ (v : VDev), ∃ (slot : Fin 32), ∃ (t : Taken), ∃ (ctx : Nat), ∃ (b : Bool), ∃ (started : List Nat), Tab.get? (s.dev.fn v.val).taken slot.val = some t ∧ t.op = .destroyContext ctx b started) ∧
    (∃ (s : State), ∃ (v : VDev), ∃ (slot : Fin 32), ∃ (t : Taken), ∃ (q : Nat), ∃ (b : Bool), Tab.get? (s.dev.fn v.val).taken slot.val = some t ∧ t.op = .destroyQueue q b ∧ s.dev.cur? v.val q = none) ∧
    (∃ (s : State), ∃ (v : VDev), ∃ (slot : Fin 32), ∃ (t : Taken), ∃ (i : Nat), ∃ (h : List (Nat × Nat)), Tab.get? (s.dev.fn v.val).taken slot.val = some t ∧ t.op = .destroyFence i h) :=
  ⟨⟨st (ask (vfD { vd0 with queues := [(255, q0)] }) 0 0x0220 0 (natLe 2 255) 0), 0, 0, slotBytes 0x0220 0 (natLe 2 255) 0, _, rfl, _, rfl, ((pSome (some ((st (ask (vfD { vd0 with queues := [(255, q0)] }) 0 0x0220 0 (natLe 2 255) 0) : State).dev.queue? (0 : VDev).val (fieldLe (headReq (0 : VDev).val (0 : Nat) (slotBytes 0x0220 0 (natLe 2 255) 0 : List Byte)).args 0 2))))).get (by decide +kernel), accepted_of (by decide +kernel), by decide +kernel⟩,
   ⟨st (ask ({ vfD vd0 with ctxs := [(1, ⟨0, false, 0, 0, 0, 0, 0, 0⟩)] }) 0 0x0202 0 (natLe 4 1) 0), 0, 0, slotBytes 0x0202 0 (natLe 4 1) 0, _, rfl, ((pSome (some ((st (ask ({ vfD vd0 with ctxs := [(1, ⟨0, false, 0, 0, 0, 0, 0, 0⟩)] }) 0 0x0202 0 (natLe 4 1) 0) : State).dev.ctx? (fieldLe (headReq (0 : VDev).val (0 : Nat) (slotBytes 0x0202 0 (natLe 4 1) 0 : List Byte)).args 0 4))))).get (by decide +kernel), accepted_of (by decide +kernel), by decide +kernel⟩,
   ⟨st (ask ({ vq q0 with ctxs := [(1, ⟨0, false, 0, 0, 0, 0, 0, 0⟩)] }) 0 0x0202 0 (natLe 4 1) 0), 0, 0, slotBytes 0x0202 0 (natLe 4 1) 0, _, rfl, _, rfl, ((pSome (some ((st (ask ({ vq q0 with ctxs := [(1, ⟨0, false, 0, 0, 0, 0, 0, 0⟩)] }) 0 0x0202 0 (natLe 4 1) 0) : State).dev.ctx? (fieldLe (headReq (0 : VDev).val (0 : Nat) (slotBytes 0x0202 0 (natLe 4 1) 0 : List Byte)).args 0 4))))).get (by decide +kernel), accepted_of (by decide +kernel), by decide +kernel⟩,
   ⟨st (ask (vfD { vd0 with slots := [(1, ⟨1, true, .cell 5, true, true, false, 0, 0⟩)] }) 0 0x0211 0 (natLe 4 0x10001 ++ natLe 2 5) 0), 0, 0, slotBytes 0x0211 0 (natLe 4 0x10001 ++ natLe 2 5) 0, _, rfl, _, rfl, ((pSome (some (((st (ask (vfD { vd0 with slots := [(1, ⟨1, true, .cell 5, true, true, false, 0, 0⟩)] }) 0 0x0211 0 (natLe 4 0x10001 ++ natLe 2 5) 0) : State).dev.vd (0 : VDev).val).fence? (fieldLe (headReq (0 : VDev).val (0 : Nat) (slotBytes 0x0211 0 (natLe 4 0x10001 ++ natLe 2 5) 0 : List Byte)).args 0 4))))).get (by decide +kernel), accepted_of (by decide +kernel), by decide +kernel⟩,
   ⟨st (ask (vfD { vd0 with slots := [(1, ⟨1, true, .cell 5, false, true, false, 0, 0⟩)] }) 0 0x0211 0 (natLe 4 0x10001 ++ natLe 2 1) 0), 0, 0, slotBytes 0x0211 0 (natLe 4 0x10001 ++ natLe 2 1) 0, _, rfl, _, rfl, ((pSome (some (((st (ask (vfD { vd0 with slots := [(1, ⟨1, true, .cell 5, false, true, false, 0, 0⟩)] }) 0 0x0211 0 (natLe 4 0x10001 ++ natLe 2 1) 0) : State).dev.vd (0 : VDev).val).fence? (fieldLe (headReq (0 : VDev).val (0 : Nat) (slotBytes 0x0211 0 (natLe 4 0x10001 ++ natLe 2 1) 0 : List Byte)).args 0 4))))).get (by decide +kernel), accepted_of (by decide +kernel), by decide +kernel⟩,
   ⟨st ((vc (cmd 1 0 .running)).onFn 0 fun f => { f with taken := [(31, ⟨9, .destroyQueue 0 false, 0⟩)] }), 0, 31, ⟨9, .destroyQueue 0 false, 0⟩, 0, by decide +kernel⟩,
   ⟨st ((vq q0).onFn 0 fun f => { f with taken := [(31, ⟨9, .destroyQueue 0 false, 0⟩)] }), 0, 31, ⟨9, .destroyQueue 0 false, 0⟩, 0, by decide +kernel⟩,
   ⟨st (({ vfD vd0 with ctxs := [(1, ⟨0, false, 0, 0, 0, 0, 0, 0⟩)] }).onFn 0 fun f => { f with taken := [(31, ⟨9, .destroyContext 1 true [], 0⟩)] }), 0, 31, ⟨9, .destroyContext 1 true [], 0⟩, 1, true, [], by decide +kernel⟩,
   ⟨st (({ vfD vd0 with ctxs := [(1, ⟨0, false, 0, 0, 0, 0, 0, 0⟩)] }).onFn 0 fun f => { f with taken := [(31, ⟨9, .destroyContext 1 false [], 0⟩)] }), 0, 31, ⟨9, .destroyContext 1 false [], 0⟩, 1, false, [], by decide +kernel⟩,
   ⟨st ((vq q0).onFn 0 fun f => { f with taken := [(31, ⟨9, .destroyQueue 0 true, 0⟩)] }), 0, 31, ⟨9, .destroyQueue 0 true, 0⟩, 0, true, by decide +kernel⟩,
   ⟨st ((vfD { vd0 with slots := [(1, ⟨1, true, .cell 5, true, true, false, 0, 0⟩)] }).onFn 0 fun f => { f with taken := [(31, ⟨9, .destroyFence 1 [], 0⟩)] }), 0, 31, ⟨9, .destroyFence 1 [], 0⟩, 1, [], by decide +kernel⟩⟩

/-- Witnesses for FenceAndReleaseRequests. -/
theorem wit_FenceAndReleaseRequests :
    (∃ (s : State), ∃ (v : VDev), ∃ (i : Nat), ∃ (bs : List Byte), ∃ (j : Nat), ∃ (k : Nat), Accepted s.dev v.val (adRow 0x0210 8) i bs ∧ (s.dev.vd v.val).freeSlot = some j ∧ (s.dev.vd v.val).dies.findSome? (freeCell s.dev) = some k) ∧
    (∃ (s : State), ∃ (v : VDev), ∃ (i : Nat), ∃ (bs : List Byte), ∃ a, a = ((headReq v.val i bs).args) ∧ ∃ (x : FSlot), Accepted s.dev v.val (adRow 0x0212 12) i bs ∧ (s.dev.vd v.val).fence? (fieldLe a 0 4) = some x ∧ x.canSignal = true) ∧
    (∃ (s : State), ∃ (v : VDev), ∃ (i : Nat), ∃ (bs : List Byte), ∃ (k : Nat), ∃ a, a = ((headReq v.val i bs).args) ∧ ∃ (x : FSlot), Accepted s.dev v.val (adRow 0x0212 12) i bs ∧ (s.dev.vd v.val).fence? (fieldLe a 0 4) = some x ∧ x.canSignal = true ∧ x.ref = .cell k) ∧
    (∃ (s : State), ∃ (v : VDev), ∃ (i : Nat), ∃ (bs : List Byte), ∃ (k : Nat), ∃ r, r = (headReq v.val i bs) ∧ ∃ (x : FSlot), Accepted s.dev v.val { adRow 0x0213 4 with whileFrozen := true, whileA2 := true } i bs ∧ (s.dev.vd v.val).fence? (fieldLe r.args 0 4) = some x ∧ x.ref = .cell k ∧ s.dev.cellLost k = false) ∧
    (∃ (s : State), ∃ (v : VDev), ∃ (i : Nat), ∃ (bs : List Byte), ∃ r, r = (headReq v.val i bs) ∧ ∃ (x : FSlot), Accepted s.dev v.val { adRow 0x0213 4 with whileFrozen := true, whileA2 := true } i bs ∧ (s.dev.vd v.val).fence? (fieldLe r.args 0 4) = some x ∧ ((match x.ref with | .proxy pv ps => s.dev.proxyFailed pv ps | _ => true) = true)) ∧
    (∃ (s : State), ∃ (v : VDev), ∃ (i : Nat), ∃ (pv : Nat), ∃ (ps : Nat), ∃ (bs : List Byte), ∃ (x : FSlot), Accepted s.dev v.val { adRow 0x0213 4 with whileFrozen := true, whileA2 := true } i bs ∧ (s.dev.vd v.val).fence? (fieldLe (headReq v.val i bs).args 0 4) = some x ∧ x.ref = .proxy pv ps ∧ s.dev.proxyFailed pv ps = false ∧ (takeFirst (fun y : Nat × Nat × Nat × Nat × Nat => y.1 == v.val && y.2.1 == i) s.dev.fx.reads = none) ∧ ((s.dev.fx.remote.any fun y => y.op == .read && y.src == .admin v.val i) = false)) ∧
    (∃ (s : State), ∃ (v : VDev), ∃ (i : Nat), ∃ (pv : Nat), ∃ (ps : Nat), ∃ (state : Nat), ∃ (value : Nat), ∃ (error : Nat), ∃ (bs : List Byte), ∃ (rest : List (Nat × Nat × Nat × Nat × Nat)), ∃ r, r = (headReq v.val i bs) ∧ ∃ (x : FSlot), Accepted s.dev v.val { adRow 0x0213 4 with whileFrozen := true, whileA2 := true } i bs ∧ (s.dev.vd v.val).fence? (fieldLe r.args 0 4) = some x ∧ x.ref = .proxy pv ps ∧ s.dev.proxyFailed pv ps = false ∧ (takeFirst (fun y : Nat × Nat × Nat × Nat × Nat => y.1 == v.val && y.2.1 == i) s.dev.fx.reads = some ((v.val, i, state, value, error), rest))) ∧
    (∃ (s : State), ∃ (v : VDev), ∃ (i : Nat), ∃ (bs : List Byte), ∃ id, id = (fieldLe (headReq v.val i bs).args 0 4) ∧ ∃ rights, rights = (fieldLe (headReq v.val i bs).args 4 1) ∧ ∃ (x : FSlot), Accepted s.dev v.val (adRow 0x0214 5) i bs ∧ 0 < rights ∧ rights < 4 ∧ (s.dev.vd v.val).fence? id = some x ∧ x.owned = true ∧ x.destroyed = false ∧ ((s.dev.exports.filter fun e => e.2.vdev == v.val && e.2.slot == fidSlot id).length < 16) ∧ s.dev.exports.length < 16384 ∧ s.dev.secUp = true) ∧
    (∃ (s : State), ∃ (v : VDev), ∃ (i : Nat), ∃ (bs : List Byte), ∃ a, a = ((headReq v.val i bs).args) ∧ ∃ (y : FExport), ∃ (j : Nat), Accepted s.dev v.val (adRow 0x0215 13) i bs ∧ s.dev.importsBlocked v.val = false ∧ (s.dev.vd v.val).imports.blocked = false ∧ a.length = 13 ∧ 0 < fieldLe a 12 1 ∧ fieldLe a 12 1 < 4 ∧ Tab.get? s.dev.exports (fieldLe a 0 4) = some y ∧ y.token = BitVec.ofNat 64 (fieldLe a 4 8) ∧ fieldLe a 12 1 ||| y.rights.toNat = y.rights.toNat ∧ (s.dev.vd v.val).freeSlot = some j ∧ bits (s.dev.fn v.val).adTail.toNat 4 0 = (i + 1) % 32) ∧
    (∃ (s : State), ∃ (v : VDev), ∃ (i : Nat), ∃ (p : Nat), ∃ (bs : List Byte), ∃ r, r = (headReq v.val i bs) ∧ ∃ pkg, pkg = (fieldLe r.args 13 4) ∧ ∃ rights, rights = (fieldLe r.args 12 1) ∧ ∃ x, x = (s.dev.vd v.val) ∧ Accepted s.dev v.val (adRow 0x0215 13) i bs ∧ s.dev.importsBlocked v.val = false ∧ x.imports.blocked = false ∧ pkg ≠ 0 ∧ pkg ≠ s.dev.fab.pkgId.toNat ∧ 0 < rights ∧ rights < 4 ∧ p < 16 ∧ bitAt x.ports.toNat p = true ∧ (s.dev.port p).trained = true ∧ (s.dev.port p).peerPkg.toNat = pkg ∧ x.freeSlot.isSome = true ∧ bits (s.dev.fn v.val).adTail.toNat 4 0 = (i + 1) % 32) ∧
    (∃ (s : State), ∃ (v : VDev), ∃ (i : Nat), ∃ (bs : List Byte), ∃ ex, ex = (fieldLe (headReq v.val i bs).args 0 4) ∧ ∃ (y : FExport), Accepted s.dev v.val (adRow 0x0216 4) i bs ∧ Tab.get? s.dev.exports ex = some y ∧ y.vdev = v.val) ∧
    (∃ (s : State), ∃ (v : VDev), ∃ (i : Nat), ∃ (bs : List Byte), ∃ (a : Nat), ∃ (n : Nat), (Accepted s.dev v.val { adRow 0x0230 16 with sel := fun bs => slotOp bs == 0x0230 && !bitAt (fieldLe bs 2 2) 0 } i bs) ∧ spanOf (headReq v.val i bs).args = some (a, n) ∧ (spanIn (s.dev.vd v.val).table (fun _ => true) a n = true) ∧ bits (s.dev.fn v.val).adTail.toNat 4 0 = (i + 1) % 32) ∧
    (∃ (s : State), ∃ (v : VDev), ∃ (i : Nat), ∃ (bs : List Byte), ∃ (a : Nat), ∃ (n : Nat), (Accepted s.dev v.val { adRow 0x0230 16 with sel := fun bs => slotOp bs == 0x0230 && bitAt (fieldLe bs 2 2) 0, flags := 1 } i bs) ∧ spanOf (headReq v.val i bs).args = some (a, n) ∧ (spanIn (s.dev.vd v.val).table (fun _ => true) a n = true) ∧ (spanIn (s.dev.vd v.val).table (fun e => e.res == 4) a n = true) ∧ (∀ q ∈ (s.dev.vd v.val).queues, q.2.rings.any (rangesMeet (a, n)) = false)) ∧
    (∃ (s : State), ∃ (v : VDev), ∃ (slot : Fin 32), ∃ (t : Taken), ∃ (a : Nat), ∃ (n : Nat), ∃ (h : List (Nat × Nat)), ∃ (fs : List Nat), ∃ (mv : Option (BitVec 32)), Tab.get? (s.dev.fn v.val).taken slot.val = some t ∧ t.op = .release a n false h fs mv ∧ releaseHeld s.dev v.val a n h fs mv = false) ∧
    (∃ (s : State), ∃ (v : VDev), ∃ (slot : Fin 32), ∃ (t : Taken), ∃ (a : Nat), ∃ (n : Nat), ∃ (h : List (Nat × Nat)), ∃ (fs : List Nat), ∃ (mv : Option (BitVec 32)), Tab.get? (s.dev.fn v.val).taken slot.val = some t ∧ t.op = .release a n false h fs mv ∧ releaseHeld s.dev v.val a n h fs mv = true) ∧
    (∃ (s : State), ∃ (v : VDev), ∃ (slot : Fin 32), ∃ (t : Taken), ∃ (a : Nat), ∃ (n : Nat), ∃ (h : List (Nat × Nat)), ∃ (killed : List Nat), ∃ (mv : Option (BitVec 32)), Tab.get? (s.dev.fn v.val).taken slot.val = some t ∧ t.op = .release a n true h killed mv) :=
  ⟨⟨st (ask (vfD vd0) 0 0x0210 0 (natLe 8 7) 0), 0, 0, slotBytes 0x0210 0 (natLe 8 7) 0, ((pSome (some (((st (ask (vfD vd0) 0 0x0210 0 (natLe 8 7) 0) : State).dev.vd (0 : VDev).val).freeSlot)))).get (by decide +kernel), ((pSome (some (((st (ask (vfD vd0) 0 0x0210 0 (natLe 8 7) 0) : State).dev.vd (0 : VDev).val).dies.findSome? (freeCell (st (ask (vfD vd0) 0 0x0210 0 (natLe 8 7) 0) : State).dev))))).get (by decide +kernel), accepted_of (by decide +kernel), by decide +kernel⟩,
   ⟨st (ask (vfD { vd0 with slots := [(1, ⟨1, true, .cell 5, true, true, false, 0, 0⟩)] }) 0 0x0212 0 (natLe 4 0x10001 ++ natLe 8 7) 0), 0, 0, slotBytes 0x0212 0 (natLe 4 0x10001 ++ natLe 8 7) 0, _, rfl, ((pSome (some (((st (ask (vfD { vd0 with slots := [(1, ⟨1, true, .cell 5, true, true, false, 0, 0⟩)] }) 0 0x0212 0 (natLe 4 0x10001 ++ natLe 8 7) 0) : State).dev.vd (0 : VDev).val).fence? (fieldLe ((headReq (0 : VDev).val (0 : Nat) (slotBytes 0x0212 0 (natLe 4 0x10001 ++ natLe 8 7) 0 : List Byte)).args) 0 4))))).get (by decide +kernel), accepted_of (by decide +kernel), by decide +kernel⟩,
   ⟨st (ask (vfD { vd0 with slots := [(1, ⟨1, true, .cell 5, true, true, false, 0, 0⟩)] }) 0 0x0212 0 (natLe 4 0x10001 ++ natLe 8 7) 0), 0, 0, slotBytes 0x0212 0 (natLe 4 0x10001 ++ natLe 8 7) 0, 5, _, rfl, ((pSome (some (((st (ask (vfD { vd0 with slots := [(1, ⟨1, true, .cell 5, true, true, false, 0, 0⟩)] }) 0 0x0212 0 (natLe 4 0x10001 ++ natLe 8 7) 0) : State).dev.vd (0 : VDev).val).fence? (fieldLe ((headReq (0 : VDev).val (0 : Nat) (slotBytes 0x0212 0 (natLe 4 0x10001 ++ natLe 8 7) 0 : List Byte)).args) 0 4))))).get (by decide +kernel), accepted_of (by decide +kernel), by decide +kernel⟩,
   ⟨st (ask (vfD { vd0 with slots := [(1, ⟨1, true, .cell 5, true, true, false, 0, 0⟩)] }) 0 0x0213 0 (natLe 4 0x10001) 0), 0, 0, slotBytes 0x0213 0 (natLe 4 0x10001) 0, 5, _, rfl, ((pSome (some (((st (ask (vfD { vd0 with slots := [(1, ⟨1, true, .cell 5, true, true, false, 0, 0⟩)] }) 0 0x0213 0 (natLe 4 0x10001) 0) : State).dev.vd (0 : VDev).val).fence? (fieldLe (headReq (0 : VDev).val (0 : Nat) (slotBytes 0x0213 0 (natLe 4 0x10001) 0 : List Byte)).args 0 4))))).get (by decide +kernel), accepted_of (by decide +kernel), by decide +kernel⟩,
   ⟨st (ask (vfD { vd0 with slots := [(1, ⟨1, true, .cell 5, false, true, false, 0, 0⟩)] }) 0 0x0213 0 (natLe 4 0x10001) 0), 0, 0, slotBytes 0x0213 0 (natLe 4 0x10001) 0, _, rfl, ((pSome (some (((st (ask (vfD { vd0 with slots := [(1, ⟨1, true, .cell 5, false, true, false, 0, 0⟩)] }) 0 0x0213 0 (natLe 4 0x10001) 0) : State).dev.vd (0 : VDev).val).fence? (fieldLe (headReq (0 : VDev).val (0 : Nat) (slotBytes 0x0213 0 (natLe 4 0x10001) 0 : List Byte)).args 0 4))))).get (by decide +kernel), accepted_of (by decide +kernel), by decide +kernel⟩,
   ⟨st (ask (vfD { vd0 with slots := [(1, ⟨1, true, .proxy 0 3, true, true, false, 9, 0⟩)] }) 0 0x0213 0 (natLe 4 0x10001) 0), 0, 0, 0, 3, slotBytes 0x0213 0 (natLe 4 0x10001) 0, ((pSome (some (((st (ask (vfD { vd0 with slots := [(1, ⟨1, true, .proxy 0 3, true, true, false, 9, 0⟩)] }) 0 0x0213 0 (natLe 4 0x10001) 0) : State).dev.vd (0 : VDev).val).fence? (fieldLe (headReq (0 : VDev).val (0 : Nat) (slotBytes 0x0213 0 (natLe 4 0x10001) 0 : List Byte)).args 0 4))))).get (by decide +kernel), accepted_of (by decide +kernel), by decide +kernel⟩,
   ⟨st (ask ((vfD { vd0 with slots := [(1, ⟨1, true, .proxy 0 3, true, true, false, 9, 0⟩)] }).onFx fun x => { x with reads := [(0, 0, 1, 5, 0)] }) 0 0x0213 0 (natLe 4 0x10001) 0), 0, 0, 0, 3, 1, 5, 0, slotBytes 0x0213 0 (natLe 4 0x10001) 0, [], _, rfl, ((pSome (some (((st (ask ((vfD { vd0 with slots := [(1, ⟨1, true, .proxy 0 3, true, true, false, 9, 0⟩)] }).onFx fun x => { x with reads := [(0, 0, 1, 5, 0)] }) 0 0x0213 0 (natLe 4 0x10001) 0) : State).dev.vd (0 : VDev).val).fence? (fieldLe (headReq (0 : VDev).val (0 : Nat) (slotBytes 0x0213 0 (natLe 4 0x10001) 0 : List Byte)).args 0 4))))).get (by decide +kernel), accepted_of (by decide +kernel), by decide +kernel⟩,
   ⟨st (ask (vfD { vd0 with slots := [(1, ⟨1, true, .cell 5, true, true, false, 0, 0⟩)] }) 0 0x0214 0 (natLe 4 0x10001 ++ natLe 1 3) 0), 0, 0, slotBytes 0x0214 0 (natLe 4 0x10001 ++ natLe 1 3) 0, _, rfl, _, rfl, ((pSome (some (((st (ask (vfD { vd0 with slots := [(1, ⟨1, true, .cell 5, true, true, false, 0, 0⟩)] }) 0 0x0214 0 (natLe 4 0x10001 ++ natLe 1 3) 0) : State).dev.vd (0 : VDev).val).fence? (fieldLe (headReq (0 : VDev).val (0 : Nat) (slotBytes 0x0214 0 (natLe 4 0x10001 ++ natLe 1 3) 0 : List Byte)).args 0 4))))).get (by decide +kernel), accepted_of (by decide +kernel), by decide +kernel⟩,
   ⟨st (ask ({ vfD vd0 with exports := [(1, ⟨0, 1, .cell 5, 3, 77⟩)] }) 0 0x0215 0 (natLe 4 1 ++ natLe 8 77 ++ natLe 1 3) 0), 0, 0, slotBytes 0x0215 0 (natLe 4 1 ++ natLe 8 77 ++ natLe 1 3) 0, _, rfl, ((pSome (some (Tab.get? (st (ask ({ vfD vd0 with exports := [(1, ⟨0, 1, .cell 5, 3, 77⟩)] }) 0 0x0215 0 (natLe 4 1 ++ natLe 8 77 ++ natLe 1 3) 0) : State).dev.exports (fieldLe ((headReq (0 : VDev).val (0 : Nat) (slotBytes 0x0215 0 (natLe 4 1 ++ natLe 8 77 ++ natLe 1 3) 0 : List Byte)).args) 0 4))))).get (by decide +kernel), ((pSome (some (((st (ask ({ vfD vd0 with exports := [(1, ⟨0, 1, .cell 5, 3, 77⟩)] }) 0 0x0215 0 (natLe 4 1 ++ natLe 8 77 ++ natLe 1 3) 0) : State).dev.vd (0 : VDev).val).freeSlot)))).get (by decide +kernel), accepted_of (by decide +kernel), by decide +kernel⟩,
   ⟨st (ask ((vfD { vd0 with ports := 0x8000 }).onPort 15 fun p => { p with state := 4, active := 0x3FF, peerPkg := 9 }) 0 0x0215 0 (natLe 4 1 ++ natLe 8 77 ++ natLe 1 3 ++ natLe 4 9) 0), 0, 0, 15, slotBytes 0x0215 0 (natLe 4 1 ++ natLe 8 77 ++ natLe 1 3 ++ natLe 4 9) 0, _, rfl, _, rfl, _, rfl, _, rfl, accepted_of (by decide +kernel), by decide +kernel⟩,
   ⟨st (ask ({ vfD vd0 with exports := [(1, ⟨0, 1, .cell 5, 3, 77⟩)] }) 0 0x0216 0 (natLe 4 1) 0), 0, 0, slotBytes 0x0216 0 (natLe 4 1) 0, _, rfl, ((pSome (some (Tab.get? (st (ask ({ vfD vd0 with exports := [(1, ⟨0, 1, .cell 5, 3, 77⟩)] }) 0 0x0216 0 (natLe 4 1) 0) : State).dev.exports (fieldLe (headReq (0 : VDev).val (0 : Nat) (slotBytes 0x0216 0 (natLe 4 1) 0 : List Byte)).args 0 4))))).get (by decide +kernel), accepted_of (by decide +kernel), by decide +kernel⟩,
   ⟨st (ask (vfD vd0) 0 0x0230 0 (natLe 8 0 ++ natLe 8 65536) 0), 0, 0, slotBytes 0x0230 0 (natLe 8 0 ++ natLe 8 65536) 0, ((pFst (pSome (some (spanOf (headReq (0 : VDev).val (0 : Nat) (slotBytes 0x0230 0 (natLe 8 0 ++ natLe 8 65536) 0 : List Byte)).args))))).get (by decide +kernel), ((pSnd (pSome (some (spanOf (headReq (0 : VDev).val (0 : Nat) (slotBytes 0x0230 0 (natLe 8 0 ++ natLe 8 65536) 0 : List Byte)).args))))).get (by decide +kernel), accepted_of (by decide +kernel), by decide +kernel⟩,
   ⟨st (ask (vfD { vd0 with table := [{ ent with res := 4 }] }) 0 0x0230 1 (natLe 8 0 ++ natLe 8 65536) 0), 0, 0, slotBytes 0x0230 1 (natLe 8 0 ++ natLe 8 65536) 0, ((pFst (pSome (some (spanOf (headReq (0 : VDev).val (0 : Nat) (slotBytes 0x0230 1 (natLe 8 0 ++ natLe 8 65536) 0 : List Byte)).args))))).get (by decide +kernel), ((pSnd (pSome (some (spanOf (headReq (0 : VDev).val (0 : Nat) (slotBytes 0x0230 1 (natLe 8 0 ++ natLe 8 65536) 0 : List Byte)).args))))).get (by decide +kernel), accepted_of (by decide +kernel), by decide +kernel⟩,
   ⟨st ((vfD vd0).onFn 0 fun f => { f with taken := [(31, ⟨9, .release 0 65536 false [] [] none, 0⟩)] }), 0, 31, ⟨9, .release 0 65536 false [] [] none, 0⟩, 0, 65536, [], [], none, by decide +kernel⟩,
   ⟨st ((vq { q0 with fetched := [{ cmd 0 0 .waiting with ins := [(4096, 16)] }] }).onFn 0 fun f => { f with taken := [(31, ⟨9, .release 0 65536 false [(1, 5)] [] none, 0⟩)] }), 0, 31, ⟨9, .release 0 65536 false [(1, 5)] [] none, 0⟩, 0, 65536, [(1, 5)], [], none, by decide +kernel⟩,
   ⟨st ((vfD vd0).onFn 0 fun f => { f with taken := [(31, ⟨9, .release 0 65536 true [] [7] none, 0⟩)] }), 0, 31, ⟨9, .release 0 65536 true [] [7] none, 0⟩, 0, 65536, [], [7], none, by decide +kernel⟩⟩

/-- Witnesses for CommandsAreFetched. -/
theorem wit_CommandsAreFetched :
    (∃ (s : State), ∃ (v : VDev), ∃ (q : QId), ∃ (x : Queue), s.dev.queue? v.val q.val = some x ∧ x.state.fetches = true ∧ x.sqHead ≠ x.tail ∧ (s.dev.vd v.val).frozen = false ∧ s.dev.boot.ready = true ∧ s.dev.sec.level ≠ 3) ∧
    (∃ (s : State), ∃ (v : VDev), ∃ (q : QId), ∃ (x : Queue), s.dev.queue? v.val q.val = some x ∧ (x.state.fetches = false ∨ x.sqHead = x.tail ∨ (s.dev.vd v.val).frozen = true)) ∧
    (∃ (s : State), ∃ (v : Nat), ∃ (x : Queue), ∃ (ord : Nat), ∃ (addr : Nat), ∃ (index : Nat), ∃ (chain : Nat), ∃ (pred : Nat), ∃ (desc : List Byte), ∃ c, c = (bindFences (s.dev.vd v) (mkCmd s.dev.sched.nextCmd ord addr index chain desc)) ∧ ∃ got, got = (presetEarly s.dev x { c with front := checkRanges s.dev v x c pred }) ∧ readAs (.dma (hubOf v)) (work s) v needR addr 128 = .ok desc ∧ checkDesc s.dev v x c = none ∧ fieldLe desc 0x28 2 + fieldLe desc 0x2A 2 = 0 ∧ got.early ≠ some 1) ∧
    (∃ (s : State), ∃ (v : Nat), ∃ (x : Queue), ∃ (ord : Nat), ∃ (addr : Nat), ∃ (index : Nat), ∃ (chain : Nat), ∃ (desc : List Byte), ∃ c, c = (bindFences (s.dev.vd v) (mkCmd s.dev.sched.nextCmd ord addr index chain desc)) ∧ ∃ (r : Refuse), readAs (.dma (hubOf v)) (work s) v needR addr 128 = .ok desc ∧ checkDesc s.dev v x c = some r) ∧
    (∃ (s : State), ∃ (v : VDev), ∃ (q : QId), ∃ (x : Queue), ∃ (n : Chain), s.dev.queue? v.val q.val = some x ∧ x.chainNext = some n ∧ (x.state.fetches = true ∨ x.state = .fetchError) ∧ (s.dev.vd v.val).frozen = false ∧ s.dev.sec.level ≠ 3 ∧ ((n.cluster.any fun k => !(s.dev.proc (4 + k)).up) = false) ∧ n.addr % 128 = 0) ∧
    (∃ (s : State), ∃ (v : VDev), ∃ (q : QId), ∃ (x : Queue), ∃ (n : Chain), ∃ (k : Nat), s.dev.queue? v.val q.val = some x ∧ x.chainNext = some n ∧ n.cluster = some k ∧ (s.dev.proc (4 + k)).up = false) ∧
    (∃ (s : State), ∃ (v : VDev), ∃ (q : QId), ∃ (x : Queue), s.dev.queue? v.val q.val = some x) ∧
    (∃ (s : State), ∃ (v : VDev), ∃ (q : QId), ∃ (x : Queue), ∃ (n : Chain), s.dev.queue? v.val q.val = some x ∧ x.chainNext = some n) ∧
    (∃ (s : State), ∃ (v : VDev), ∃ (q : QId), ∃ (x : Queue), ∃ (n : Chain), s.dev.queue? v.val q.val = some x ∧ x.chainNext = some n ∧ (x.state.fetches = true ∨ x.state = .fetchError) ∧ (s.dev.vd v.val).frozen = false ∧ s.dev.sec.level ≠ 3 ∧ ((n.cluster.any fun k => !(s.dev.proc (4 + k)).up) = false) ∧ n.addr % 128 ≠ 0) :=
  ⟨⟨st (vq { q0 with tail := 63 }), 0, 0, ((pSome (some ((st (vq { q0 with tail := 63 }) : State).dev.queue? (0 : VDev).val (0 : QId).val)))).get (by decide +kernel), by decide +kernel⟩,
   ⟨st (vq q0), 0, 0, ((pSome (some ((st (vq q0) : State).dev.queue? (0 : VDev).val (0 : QId).val)))).get (by decide +kernel), by decide +kernel⟩,
   ⟨st (vfD vd0), 0, q0, 0, 0, 0, 0, 0, ((pOk (some (readAs (.dma (hubOf (0 : Nat))) (work (st (vfD vd0) : State)) (0 : Nat) needR (0 : Nat) 128)))).get (by decide +kernel), _, rfl, _, rfl, ex_eq (by decide +kernel), by decide +kernel⟩,
   ⟨⟨vq { q0 with tail := 63 }, ⟨[(0x10000, 0x7F)], []⟩, []⟩, 0, { q0 with tail := 63 }, 1, 0x10000, 0, 0, ((pOk (some (readAs (.dma (hubOf (0 : Nat))) (work (⟨vq { q0 with tail := 63 }, ⟨[(0x10000, 0x7F)], []⟩, []⟩ : State)) (0 : Nat) needR (0x10000 : Nat) 128)))).get (by decide +kernel), _, rfl, ((pSome (some (checkDesc (⟨vq { q0 with tail := 63 }, ⟨[(0x10000, 0x7F)], []⟩, []⟩ : State).dev (0 : Nat) ({ q0 with tail := 63 } : Queue) (bindFences ((⟨vq { q0 with tail := 63 }, ⟨[(0x10000, 0x7F)], []⟩, []⟩ : State).dev.vd (0 : Nat)) (mkCmd (⟨vq { q0 with tail := 63 }, ⟨[(0x10000, 0x7F)], []⟩, []⟩ : State).dev.sched.nextCmd (1 : Nat) (0x10000 : Nat) (0 : Nat) (0 : Nat) (((pOk (some (readAs (.dma (hubOf (0 : Nat))) (work (⟨vq { q0 with tail := 63 }, ⟨[(0x10000, 0x7F)], []⟩, []⟩ : State)) (0 : Nat) needR (0x10000 : Nat) 128)))).get (by decide +kernel)))))))).get (by decide +kernel), ex_eq (by decide +kernel), by decide +kernel⟩,
   ⟨st (vq { q0 with chainNext := some ⟨0x10000, 1, 0x10000, 1, 0, none⟩ }), 0, 0, ((pSome (some ((st (vq { q0 with chainNext := some ⟨0x10000, 1, 0x10000, 1, 0, none⟩ }) : State).dev.queue? (0 : VDev).val (0 : QId).val)))).get (by decide +kernel), ((pSome (some ((((pSome (some ((st (vq { q0 with chainNext := some ⟨0x10000, 1, 0x10000, 1, 0, none⟩ }) : State).dev.queue? (0 : VDev).val (0 : QId).val)))).get (by decide +kernel)).chainNext)))).get (by decide +kernel), by decide +kernel⟩,
   ⟨st { vq { q0 with chainNext := some ⟨0x10000, 1, 0x10000, 1, 0, some 31⟩ } with fw := { upDev.fw with procs := [] } }, 0, 0, ((pSome (some ((st { vq { q0 with chainNext := some ⟨0x10000, 1, 0x10000, 1, 0, some 31⟩ } with fw := { upDev.fw with procs := [] } } : State).dev.queue? (0 : VDev).val (0 : QId).val)))).get (by decide +kernel), ((pSome (some ((((pSome (some ((st { vq { q0 with chainNext := some ⟨0x10000, 1, 0x10000, 1, 0, some 31⟩ } with fw := { upDev.fw with procs := [] } } : State).dev.queue? (0 : VDev).val (0 : QId).val)))).get (by decide +kernel)).chainNext)))).get (by decide +kernel), ((pSome (some ((((pSome (some ((((pSome (some ((st { vq { q0 with chainNext := some ⟨0x10000, 1, 0x10000, 1, 0, some 31⟩ } with fw := { upDev.fw with procs := [] } } : State).dev.queue? (0 : VDev).val (0 : QId).val)))).get (by decide +kernel)).chainNext)))).get (by decide +kernel)).cluster)))).get (by decide +kernel), by decide +kernel⟩,
   ⟨st (vq q0), 0, 0, ((pSome (some ((st (vq q0) : State).dev.queue? (0 : VDev).val (0 : QId).val)))).get (by decide +kernel), by decide +kernel⟩,
   ⟨st (vq { q0 with chainNext := some ⟨0x10000, 1, 0x10000, 1, 0, none⟩ }), 0, 0, ((pSome (some ((st (vq { q0 with chainNext := some ⟨0x10000, 1, 0x10000, 1, 0, none⟩ }) : State).dev.queue? (0 : VDev).val (0 : QId).val)))).get (by decide +kernel), ((pSome (some ((((pSome (some ((st (vq { q0 with chainNext := some ⟨0x10000, 1, 0x10000, 1, 0, none⟩ }) : State).dev.queue? (0 : VDev).val (0 : QId).val)))).get (by decide +kernel)).chainNext)))).get (by decide +kernel), by decide +kernel⟩,
   ⟨st (vq { q0 with chainNext := some ⟨0x10040, 1, 0x10000, 1, 0, none⟩ }), 0, 0, ((pSome (some ((st (vq { q0 with chainNext := some ⟨0x10040, 1, 0x10000, 1, 0, none⟩ }) : State).dev.queue? (0 : VDev).val (0 : QId).val)))).get (by decide +kernel), ((pSome (some ((((pSome (some ((st (vq { q0 with chainNext := some ⟨0x10040, 1, 0x10000, 1, 0, none⟩ }) : State).dev.queue? (0 : VDev).val (0 : QId).val)))).get (by decide +kernel)).chainNext)))).get (by decide +kernel), by decide +kernel⟩⟩

/-- Witnesses for EligibilityAndChecks. -/
theorem wit_EligibilityAndChecks :
    (∃ (s : State), ∃ (v : VDev), ∃ (q : QId), ∃ (x : Queue), ∃ (c : Cmd), ∃ (rest : List Cmd), s.dev.queue? v.val q.val = some x ∧ x.cur = none ∧ x.fetched = c :: rest ∧ x.chainNext = none ∧ (x.state = .active ∨ x.state = .stalled ∨ x.state = .fetchError) ∧ x.backlog.length + x.recWait.length < 256 ∧ s.dev.dispatching v.val = true ∧ c.front = none ∧ c.early = none) ∧
    (∃ (s : State), ∃ (v : VDev), ∃ (q : QId), ∃ (x : Queue), ∃ (c : Cmd), ∃ (rest : List Cmd), ∃ (r : Refuse), s.dev.queue? v.val q.val = some x ∧ x.cur = none ∧ x.fetched = c :: rest ∧ x.chainNext = none ∧ (x.state = .active ∨ x.state = .stalled ∨ x.state = .fetchError) ∧ x.backlog.length + x.recWait.length < 256 ∧ s.dev.dispatching v.val = true ∧ c.front = some r ∧ c.early ≠ some 0x70) ∧
    (∃ (s : State), ∃ (v : VDev), ∃ (q : QId), ∃ (x : Queue), ∃ (c : Cmd), ∃ (rest : List Cmd), ∃ (code : Nat), s.dev.queue? v.val q.val = some x ∧ x.cur = none ∧ x.fetched = c :: rest ∧ x.chainNext = none ∧ (x.state = .active ∨ x.state = .stalled ∨ x.state = .fetchError) ∧ x.backlog.length + x.recWait.length < 256 ∧ s.dev.dispatching v.val = true ∧ c.early = some code ∧ (code = 0x70 ∨ c.front = none)) ∧
    (∃ (s : State), ∃ (id : Nat), ∃ (v : Nat), ∃ (q : Nat), ∃ (i : Nat), ∃ (n : FNote), ∃ (rest : List FNote), ∃ (c : Cmd), ∃ (no : Nat), (takeFirst (fun n => n.id == id) s.dev.fx.notes = some (n, rest)) ∧ n.src = .wait v q no i ∧ s.dev.cur? v q = some c ∧ c.no = no ∧ c.phase = .waiting ∧ n.err = none) ∧
    (∃ (s : State), ∃ (id : Nat), ∃ (p : Nat), ∃ (rid : Nat), ∃ (n : FNote), ∃ (rest : List FNote), (takeFirst (fun n => n.id == id) s.dev.fx.notes = some (n, rest)) ∧ n.src = .remote p rid) ∧
    (∃ (s : State), ∃ (n : FNote), ∃ (v : Nat), ∃ (q : Nat), ∃ (i : Nat), ∃ (code : Nat), ∃ (id : Nat), ∃ (c : Cmd), ∃ (no : Nat), s.dev.fx.notes = [n] ∧ n.id = id ∧ n.src = .wait v q no i ∧ s.dev.cur? v q = some c ∧ c.no = no ∧ c.phase = .waiting ∧ n.err = some code) ∧
    (∃ (s : State), ∃ (v : VDev), ∃ (q : QId), ∃ (x : Queue), ∃ (c : Cmd), ∃ (c' : Cmd), ∃ w, w = ((work s).on fun d => noteChecks v.val c' (useXlt (listEng d v.val) v.val (c'.ins ++ c'.outs) (dropHostBuf v.val (d.onCur v.val q.val fun _ => c')))) ∧ s.dev.queue? v.val q.val = some x ∧ x.cur = some c ∧ s.dev.dispatching v.val = true ∧ c.phase = .eligible ∧ listsWait s.dev v.val (c.ins ++ c.outs) = false ∧ checkEligible (work s) v.val x c = .ok c' ∧ (c'.digestFlag = true → awayPages w.dev v.val c' = []) ∧ revokedAt w.dev v.val (c'.ins ++ c'.outs) = none) ∧
    (∃ (s : State), ∃ (v : VDev), ∃ (q : QId), ∃ (x : Queue), ∃ (c : Cmd), s.dev.queue? v.val q.val = some x ∧ x.cur = some c ∧ s.dev.dispatching v.val = true ∧ c.phase = .resid ∧ listsWait s.dev v.val (c.ins ++ c.outs) = false) ∧
    (∃ (s : State), ∃ (v : VDev), ∃ (q : QId), ∃ (x : Queue), ∃ (c : Cmd), s.dev.queue? v.val q.val = some x ∧ x.cur = some c ∧ listsWait s.dev v.val (c.ins ++ c.outs) = true) ∧
    (∃ (s : State), ∃ (v : VDev), ∃ (q : QId), ∃ (c : Cmd), s.dev.cur? v.val q.val = some c) ∧
    (∃ (s : State), ∃ (v : VDev), ∃ (q : QId), ∃ (x : Queue), ∃ (c : Cmd), ∃ (e : Stop), s.dev.queue? v.val q.val = some x ∧ x.cur = some c ∧ s.dev.dispatching v.val = true ∧ c.phase = .eligible ∧ listsWait s.dev v.val (c.ins ++ c.outs) = false ∧ checkEligible (work s) v.val x c = .error e) ∧
    (∃ (w : Wk), ∃ (c : Cmd), (c.acl = 0 ∨ w.dev.fw.aclMax.toNat < c.acl)) ∧
    (∃ (w : Wk), ∃ (v : Nat), ∃ (c : Cmd), ∃ (a : Nat), 0 < c.acl ∧ c.acl ≤ w.dev.fw.aclMax.toNat ∧ revokedAt w.dev v (c.ins ++ c.outs) = some a) ∧
    (∃ (w : Wk), ∃ (v : Nat), ∃ (c : Cmd), 0 < c.acl ∧ c.acl ≤ w.dev.fw.aclMax.toNat ∧ c.kind = 0 ∧ revokedAt w.dev v (c.ins ++ c.outs) = none ∧ c.journalFlag = false) :=
  ⟨⟨st (vq { q0 with fetched := [cmd 0 0 .waiting] }), 0, 0, ((pSome (some ((st (vq { q0 with fetched := [cmd 0 0 .waiting] }) : State).dev.queue? (0 : VDev).val (0 : QId).val)))).get (by decide +kernel), ((pHead (some ((((pSome (some ((st (vq { q0 with fetched := [cmd 0 0 .waiting] }) : State).dev.queue? (0 : VDev).val (0 : QId).val)))).get (by decide +kernel)).fetched)))).get (by decide +kernel), ((pTail (some ((((pSome (some ((st (vq { q0 with fetched := [cmd 0 0 .waiting] }) : State).dev.queue? (0 : VDev).val (0 : QId).val)))).get (by decide +kernel)).fetched)))).get (by decide +kernel), by decide +kernel⟩,
   ⟨st (vq { q0 with fetched := [{ cmd 0 0 .waiting with front := some ⟨1, 0x10000, 0⟩ }] }), 0, 0, ((pSome (some ((st (vq { q0 with fetched := [{ cmd 0 0 .waiting with front := some ⟨1, 0x10000, 0⟩ }] }) : State).dev.queue? (0 : VDev).val (0 : QId).val)))).get (by decide +kernel), ((pHead (some ((((pSome (some ((st (vq { q0 with fetched := [{ cmd 0 0 .waiting with front := some ⟨1, 0x10000, 0⟩ }] }) : State).dev.queue? (0 : VDev).val (0 : QId).val)))).get (by decide +kernel)).fetched)))).get (by decide +kernel), ((pTail (some ((((pSome (some ((st (vq { q0 with fetched := [{ cmd 0 0 .waiting with front := some ⟨1, 0x10000, 0⟩ }] }) : State).dev.queue? (0 : VDev).val (0 : QId).val)))).get (by decide +kernel)).fetched)))).get (by decide +kernel), ((pSome (some ((((pHead (some ((((pSome (some ((st (vq { q0 with fetched := [{ cmd 0 0 .waiting with front := some ⟨1, 0x10000, 0⟩ }] }) : State).dev.queue? (0 : VDev).val (0 : QId).val)))).get (by decide +kernel)).fetched)))).get (by decide +kernel)).front)))).get (by decide +kernel), by decide +kernel⟩,
   ⟨st (vq { q0 with fetched := [{ cmd 0 0 .waiting with early := some 0x70 }] }), 0, 0, ((pSome (some ((st (vq { q0 with fetched := [{ cmd 0 0 .waiting with early := some 0x70 }] }) : State).dev.queue? (0 : VDev).val (0 : QId).val)))).get (by decide +kernel), ((pHead (some ((((pSome (some ((st (vq { q0 with fetched := [{ cmd 0 0 .waiting with early := some 0x70 }] }) : State).dev.queue? (0 : VDev).val (0 : QId).val)))).get (by decide +kernel)).fetched)))).get (by decide +kernel), ((pTail (some ((((pSome (some ((st (vq { q0 with fetched := [{ cmd 0 0 .waiting with early := some 0x70 }] }) : State).dev.queue? (0 : VDev).val (0 : QId).val)))).get (by decide +kernel)).fetched)))).get (by decide +kernel), ((pSome (some ((((pHead (some ((((pSome (some ((st (vq { q0 with fetched := [{ cmd 0 0 .waiting with early := some 0x70 }] }) : State).dev.queue? (0 : VDev).val (0 : QId).val)))).get (by decide +kernel)).fetched)))).get (by decide +kernel)).early)))).get (by decide +kernel), by decide +kernel⟩,
   ⟨st ((vc (cmd 0 0 .waiting)).onFx fun x => { x with notes := [⟨1, .wait 0 0 7 0, none⟩] }), 1, 0, 0, 0, ((pFst (pSome (some (takeFirst (fun n => n.id == (1 : Nat)) (st ((vc (cmd 0 0 .waiting)).onFx fun x => { x with notes := [⟨1, .wait 0 0 7 0, none⟩] }) : State).dev.fx.notes))))).get (by decide +kernel), ((pSnd (pSome (some (takeFirst (fun n => n.id == (1 : Nat)) (st ((vc (cmd 0 0 .waiting)).onFx fun x => { x with notes := [⟨1, .wait 0 0 7 0, none⟩] }) : State).dev.fx.notes))))).get (by decide +kernel), ((pSome (some ((st ((vc (cmd 0 0 .waiting)).onFx fun x => { x with notes := [⟨1, .wait 0 0 7 0, none⟩] }) : State).dev.cur? (0 : Nat) (0 : Nat))))).get (by decide +kernel), ((some ((((pSome (some ((st ((vc (cmd 0 0 .waiting)).onFx fun x => { x with notes := [⟨1, .wait 0 0 7 0, none⟩] }) : State).dev.cur? (0 : Nat) (0 : Nat))))).get (by decide +kernel)).no))).get (by decide +kernel), by decide +kernel⟩,
   ⟨st ((vc (cmd 0 0 .waiting)).onFx fun x => { x with notes := [⟨1, .remote 3 5, none⟩] }), 1, 3, 5, ((pFst (pSome (some (takeFirst (fun n => n.id == (1 : Nat)) (st ((vc (cmd 0 0 .waiting)).onFx fun x => { x with notes := [⟨1, .remote 3 5, none⟩] }) : State).dev.fx.notes))))).get (by decide +kernel), ((pSnd (pSome (some (takeFirst (fun n => n.id == (1 : Nat)) (st ((vc (cmd 0 0 .waiting)).onFx fun x => { x with notes := [⟨1, .remote 3 5, none⟩] }) : State).dev.fx.notes))))).get (by decide +kernel), by decide +kernel⟩,
   ⟨st ((vc (cmd 0 0 .waiting)).onFx fun x => { x with notes := [⟨1, .wait 0 0 7 0, some 5⟩] }), ⟨1, .wait 0 0 7 0, some 5⟩, 0, 0, 0, 5, ((some ((⟨1, .wait 0 0 7 0, some 5⟩ : FNote).id))).get (by decide +kernel), ((pSome (some ((st ((vc (cmd 0 0 .waiting)).onFx fun x => { x with notes := [⟨1, .wait 0 0 7 0, some 5⟩] }) : State).dev.cur? (0 : Nat) (0 : Nat))))).get (by decide +kernel), ((some ((((pSome (some ((st ((vc (cmd 0 0 .waiting)).onFx fun x => { x with notes := [⟨1, .wait 0 0 7 0, some 5⟩] }) : State).dev.cur? (0 : Nat) (0 : Nat))))).get (by decide +kernel)).no))).get (by decide +kernel), by decide +kernel⟩,
   ⟨st (vc (cmd 0 0 .eligible)), 0, 0, ((pSome (some ((st (vc (cmd 0 0 .eligible)) : State).dev.queue? (0 : VDev).val (0 : QId).val)))).get (by decide +kernel), ((pSome (some ((((pSome (some ((st (vc (cmd 0 0 .eligible)) : State).dev.queue? (0 : VDev).val (0 : QId).val)))).get (by decide +kernel)).cur)))).get (by decide +kernel), ((pOk (some (checkEligible (work (st (vc (cmd 0 0 .eligible)) : State)) (0 : VDev).val (((pSome (some ((st (vc (cmd 0 0 .eligible)) : State).dev.queue? (0 : VDev).val (0 : QId).val)))).get (by decide +kernel)) (((pSome (some ((((pSome (some ((st (vc (cmd 0 0 .eligible)) : State).dev.queue? (0 : VDev).val (0 : QId).val)))).get (by decide +kernel)).cur)))).get (by decide +kernel)))))).get (by decide +kernel), _, rfl, by decide +kernel, by decide +kernel, by decide +kernel, by decide +kernel, by decide +kernel, ex_eq (by decide +kernel), by decide +kernel⟩,
   ⟨st (vc (cmd 0 0 .resid)), 0, 0, ((pSome (some ((st (vc (cmd 0 0 .resid)) : State).dev.queue? (0 : VDev).val (0 : QId).val)))).get (by decide +kernel), ((pSome (some ((((pSome (some ((st (vc (cmd 0 0 .resid)) : State).dev.queue? (0 : VDev).val (0 : QId).val)))).get (by decide +kernel)).cur)))).get (by decide +kernel), by decide +kernel⟩,
   ⟨st (vfD { vd0 with mirrorLost := true, queues := [(0, qc { cmd 0 0 .eligible with ins := [(0x1000, 16)] })] }), 0, 0, ((pSome (some ((st (vfD { vd0 with mirrorLost := true, queues := [(0, qc { cmd 0 0 .eligible with ins := [(0x1000, 16)] })] }) : State).dev.queue? (0 : VDev).val (0 : QId).val)))).get (by decide +kernel), ((pSome (some ((((pSome (some ((st (vfD { vd0 with mirrorLost := true, queues := [(0, qc { cmd 0 0 .eligible with ins := [(0x1000, 16)] })] }) : State).dev.queue? (0 : VDev).val (0 : QId).val)))).get (by decide +kernel)).cur)))).get (by decide +kernel), by decide +kernel⟩,
   ⟨st (vc (cmd 1 0 .running)), 0, 0, ((pSome (some ((st (vc (cmd 1 0 .running)) : State).dev.cur? (0 : VDev).val (0 : QId).val)))).get (by decide +kernel), by decide +kernel⟩,
   ⟨st (vc ({ cmd 0 0 .eligible with desc := natLe 128 0 })), 0, 0, ((pSome (some ((st (vc ({ cmd 0 0 .eligible with desc := natLe 128 0 })) : State).dev.queue? (0 : VDev).val (0 : QId).val)))).get (by decide +kernel), ((pSome (some ((((pSome (some ((st (vc ({ cmd 0 0 .eligible with desc := natLe 128 0 })) : State).dev.queue? (0 : VDev).val (0 : QId).val)))).get (by decide +kernel)).cur)))).get (by decide +kernel), ((pErr (some (checkEligible (work (st (vc ({ cmd 0 0 .eligible with desc := natLe 128 0 })) : State)) (0 : VDev).val (((pSome (some ((st (vc ({ cmd 0 0 .eligible with desc := natLe 128 0 })) : State).dev.queue? (0 : VDev).val (0 : QId).val)))).get (by decide +kernel)) (((pSome (some ((((pSome (some ((st (vc ({ cmd 0 0 .eligible with desc := natLe 128 0 })) : State).dev.queue? (0 : VDev).val (0 : QId).val)))).get (by decide +kernel)).cur)))).get (by decide +kernel)))))).get (by decide +kernel), by decide +kernel, by decide +kernel, by decide +kernel, by decide +kernel, by decide +kernel, ex_eq (by decide +kernel)⟩,
   ⟨(work State.reset), cmd 0 0 .waiting, by decide +kernel⟩,
   ⟨work (st (vfD { vd0 with table := [{ ent with res := 4 }] })), 0, { cmd 0 0 .eligible with ins := [(0x1000, 16)] }, ((pSome (some (revokedAt (work (st (vfD { vd0 with table := [{ ent with res := 4 }] })) : Wk).dev (0 : Nat) (({ cmd 0 0 .eligible with ins := [(0x1000, 16)] } : Cmd).ins ++ ({ cmd 0 0 .eligible with ins := [(0x1000, 16)] } : Cmd).outs))))).get (by decide +kernel), by decide +kernel⟩,
   ⟨work (st (vc (cmd 0 0 .eligible))), 0, cmd 0 0 .eligible, by decide +kernel⟩⟩

/-- Witnesses for DispatchCommands. -/
theorem wit_DispatchCommands :
    (∃ (s : State), ∃ (v : VDev), ∃ (p : PartId), ∃ (part : Part), ∃ (q : Nat), ∃ (x : Queue), ∃ (c : Cmd), Tab.get? (s.dev.vd v.val).parts p.val = some part ∧ s.dev.dispatching v.val = true ∧ s.dev.schedUp = true ∧ (s.dev.vd v.val).queues = [(q, x)] ∧ x.part = p.val ∧ x.be = false ∧ x.cur = some c ∧ c.phase = .checked ∧ c.kind = 0 ∧ c.failOut = none ∧ c.jobStart = false ∧ part.holder = none ∧ s.dev.dredges = []) ∧
    (∃ (s : State), ∃ (v : VDev), ∃ (p : PartId), ∃ (n : Nat), ∃ (part : Part), ∃ (q : Nat), ∃ (x : Queue), ∃ (c : Cmd), Tab.get? (s.dev.vd v.val).parts p.val = some part ∧ s.dev.dispatching v.val = true ∧ s.dev.schedUp = true ∧ (s.dev.vd v.val).queues = [(q, x)] ∧ x.part = p.val ∧ x.be = false ∧ x.cur = some c ∧ c.phase = .checked ∧ c.kind = 1 ∧ c.failOut = none ∧ c.jobStart = false ∧ c.cores = [] ∧ c.resv = [] ∧ part.holder = none ∧ s.dev.dredges = [] ∧ part.cores = [n] ∧ freeFor s.dev v.val part c false false = [n]) ∧
    (∃ (s : State), ∃ (v : VDev), ∃ (p : PartId), ∃ (part : Part), Tab.get? (s.dev.vd v.val).parts p.val = some part ∧ part.turn.isSome = true) ∧
    (∃ (s : State), ∃ (v : VDev), ∃ (q : QId), ∃ (k : Cluster), ∃ (x : Queue), ∃ (c : Cmd), s.dev.queue? v.val q.val = some x ∧ x.cur = some c ∧ c.phase = .placed ∧ (c.cores.map (· / 68)).eraseDups = [k.val] ∧ c.clusters = [] ∧ c.failOut = none ∧ s.dev.schedUp = true ∧ (s.dev.proc (4 + k.val)).up = true ∧ c.digestFlag = false ∧ (c.kind = 2 → ((s.dev.binariesOf k.val).any fun b => b.matches v.val c) = true)) ∧
    (∃ (s : State), ∃ (v : VDev), ∃ (q : QId), ∃ (k : Cluster), ∃ (x : Queue), ∃ (c : Cmd), ∃ (ds : List (List Byte)), s.dev.queue? v.val q.val = some x ∧ x.cur = some c ∧ c.phase = .placed ∧ (c.cores.map (· / 68)).eraseDups = [k.val] ∧ c.clusters = [] ∧ c.failOut = none ∧ s.dev.schedUp = true ∧ (s.dev.proc (4 + k.val)).up = true ∧ c.digestFlag = true ∧ inputDigests (work s) v.val (sortRanges c.ins) = .ok ds ∧ (c.kind = 2 → ((s.dev.binariesOf k.val).any fun b => b.matches v.val c) = true)) ∧
    (∃ (s : State), ∃ (v : VDev), ∃ (q : QId), ∃ (k : Cluster), ∃ (ctl : XEng), ctl = (.ctl k.val) ∧ ∃ w, w = ((work s).on (raiseClusters 4 [k.val])) ∧ ∃ (x : Queue), ∃ (c : Cmd), ∃ at_, at_ = (klImage c.params) ∧ ∃ (h : List Byte), ∃ (img : List Byte), s.dev.queue? v.val q.val = some x ∧ x.cur = some c ∧ c.kind = 2 ∧ c.phase = .placed ∧ ((c.cores.any fun n => n / 68 == k.val) = true) ∧ (s.dev.proc (4 + k.val)).up = true ∧ s.dev.binariesOf k.val = [] ∧ readBy ctl w v.val needX at_ 128 = .ok h ∧ fieldLe h 6 2 ≤ c.acl ∧ rules 0x0B at_ (hdrRules h) = .ok () ∧ readBy ctl w v.val needX at_ (hdrLen h) = .ok img ∧ img.length ≤ storeRoom false) ∧
    (∃ (s : State), ∃ (v : VDev), ∃ (q : QId), ∃ (k : Cluster), ∃ w, w = ((work s).on (raiseClusters 4 [k.val])) ∧ ∃ (x : Queue), ∃ (c : Cmd), ∃ (h : List Byte), s.dev.queue? v.val q.val = some x ∧ x.cur = some c ∧ c.kind = 2 ∧ c.phase = .placed ∧ ((c.cores.any fun n => n / 68 == k.val) = true) ∧ (s.dev.proc (4 + k.val)).up = true ∧ s.dev.binariesOf k.val = [] ∧ readBy (.ctl k.val) w v.val needX (klImage c.params) 128 = .ok h ∧ c.acl < fieldLe h 6 2) ∧
    (∃ (s : State), ∃ (v : VDev), ∃ (q : QId), ∃ (n : CoreId), ∃ (x : Queue), ∃ (c : Cmd), s.dev.queue? v.val q.val = some x ∧ x.nextCmd = some c ∧ (s.dev.proc (4 + n.val / 68)).up = true ∧ (∃ m, (s.dev.core n.val).busy = some m ∧ m ≠ c.no) ∧ (s.dev.vd v.val).cores.contains n.val = true ∧ s.dev.sluiced .core n.val = false) ∧
    (∃ (s : State), ∃ (n : CoreId), ∃ (h : Shadow), Tab.get? s.dev.sched.shadows n.val = some h) ∧
    (∃ (s : State), ∃ (n : CoreId), Tab.get? s.dev.sched.shadows n.val = none) ∧
    (∃ (s : State), ∃ (v : VDev), ∃ (q : QId), ∃ (c : Cmd), s.dev.cur? v.val q.val = some c) :=
  ⟨⟨st (vc (cmd 0 0 .checked)), 0, 0, ((pSome (some (Tab.get? ((st (vc (cmd 0 0 .checked)) : State).dev.vd (0 : VDev).val).parts (0 : PartId).val)))).get (by decide +kernel), ((pFst (pHead (some (((st (vc (cmd 0 0 .checked)) : State).dev.vd (0 : VDev).val).queues))))).get (by decide +kernel), ((pSnd (pHead (some (((st (vc (cmd 0 0 .checked)) : State).dev.vd (0 : VDev).val).queues))))).get (by decide +kernel), ((pSome (some ((((pSnd (pHead (some (((st (vc (cmd 0 0 .checked)) : State).dev.vd (0 : VDev).val).queues))))).get (by decide +kernel)).cur)))).get (by decide +kernel), by decide +kernel⟩,
   ⟨st (vc (cmd 1 0 .checked)), 0, 0, 0, ((pSome (some (Tab.get? ((st (vc (cmd 1 0 .checked)) : State).dev.vd (0 : VDev).val).parts (0 : PartId).val)))).get (by decide +kernel), ((pFst (pHead (some (((st (vc (cmd 1 0 .checked)) : State).dev.vd (0 : VDev).val).queues))))).get (by decide +kernel), ((pSnd (pHead (some (((st (vc (cmd 1 0 .checked)) : State).dev.vd (0 : VDev).val).queues))))).get (by decide +kernel), ((pSome (some ((((pSnd (pHead (some (((st (vc (cmd 1 0 .checked)) : State).dev.vd (0 : VDev).val).queues))))).get (by decide +kernel)).cur)))).get (by decide +kernel), by decide +kernel⟩,
   ⟨st (vfD { vd0 with parts := [(0, { part0 with turn := some 1 })] }), 0, 0, ((pSome (some (Tab.get? ((st (vfD { vd0 with parts := [(0, { part0 with turn := some 1 })] }) : State).dev.vd (0 : VDev).val).parts (0 : PartId).val)))).get (by decide +kernel), by decide +kernel⟩,
   ⟨st (vc ({ cmd 1 0 .placed with cores := [0] })), 0, 0, 0, ((pSome (some ((st (vc ({ cmd 1 0 .placed with cores := [0] })) : State).dev.queue? (0 : VDev).val (0 : QId).val)))).get (by decide +kernel), ((pSome (some ((((pSome (some ((st (vc ({ cmd 1 0 .placed with cores := [0] })) : State).dev.queue? (0 : VDev).val (0 : QId).val)))).get (by decide +kernel)).cur)))).get (by decide +kernel), by decide +kernel⟩,
   ⟨st (vc ({ cmd 1 1 .placed with cores := [0] })), 0, 0, 0, ((pSome (some ((st (vc ({ cmd 1 1 .placed with cores := [0] })) : State).dev.queue? (0 : VDev).val (0 : QId).val)))).get (by decide +kernel), ((pSome (some ((((pSome (some ((st (vc ({ cmd 1 1 .placed with cores := [0] })) : State).dev.queue? (0 : VDev).val (0 : QId).val)))).get (by decide +kernel)).cur)))).get (by decide +kernel), ((pOk (some (inputDigests (work (st (vc ({ cmd 1 1 .placed with cores := [0] })) : State)) (0 : VDev).val (sortRanges (((pSome (some ((((pSome (some ((st (vc ({ cmd 1 1 .placed with cores := [0] })) : State).dev.queue? (0 : VDev).val (0 : QId).val)))).get (by decide +kernel)).cur)))).get (by decide +kernel)).ins))))).get (by decide +kernel), by decide +kernel, by decide +kernel, by decide +kernel, by decide +kernel, by decide +kernel, by decide +kernel, by decide +kernel, by decide +kernel, by decide +kernel, ex_eq (by decide +kernel), by decide +kernel⟩,
   ⟨klState, 0, 0, 0, _, rfl, _, rfl, ((pSome (some ((klState : State).dev.queue? (0 : VDev).val (0 : QId).val)))).get (by decide +kernel), ((pSome (some ((((pSome (some ((klState : State).dev.queue? (0 : VDev).val (0 : QId).val)))).get (by decide +kernel)).cur)))).get (by decide +kernel), _, rfl, ((pOk (some (readBy (.ctl (0 : Cluster).val : XEng) ((work (klState : State)).on (raiseClusters 4 [(0 : Cluster).val])) (0 : VDev).val needX (klImage (((pSome (some ((((pSome (some ((klState : State).dev.queue? (0 : VDev).val (0 : QId).val)))).get (by decide +kernel)).cur)))).get (by decide +kernel)).params) 128)))).get (by decide +kernel), ((pOk (some (readBy (.ctl (0 : Cluster).val : XEng) ((work (klState : State)).on (raiseClusters 4 [(0 : Cluster).val])) (0 : VDev).val needX (klImage (((pSome (some ((((pSome (some ((klState : State).dev.queue? (0 : VDev).val (0 : QId).val)))).get (by decide +kernel)).cur)))).get (by decide +kernel)).params) (hdrLen (((pOk (some (readBy (.ctl (0 : Cluster).val : XEng) ((work (klState : State)).on (raiseClusters 4 [(0 : Cluster).val])) (0 : VDev).val needX (klImage (((pSome (some ((((pSome (some ((klState : State).dev.queue? (0 : VDev).val (0 : QId).val)))).get (by decide +kernel)).cur)))).get (by decide +kernel)).params) 128)))).get (by decide +kernel))))))).get (by decide +kernel), by decide +kernel, by decide +kernel, by decide +kernel, by decide +kernel, by decide +kernel, by decide +kernel, by decide +kernel, ex_eq (by decide +kernel), by decide +kernel, ex_eq (by decide +kernel), ex_eq (by decide +kernel), by decide +kernel⟩,
   ⟨{ klState with dev := vc { klCmd with desc := natLe 1 2 ++ natLe 127 0 } }, 0, 0, 0, _, rfl, ((pSome (some (({ klState with dev := vc { klCmd with desc := natLe 1 2 ++ natLe 127 0 } } : State).dev.queue? (0 : VDev).val (0 : QId).val)))).get (by decide +kernel), ((pSome (some ((((pSome (some (({ klState with dev := vc { klCmd with desc := natLe 1 2 ++ natLe 127 0 } } : State).dev.queue? (0 : VDev).val (0 : QId).val)))).get (by decide +kernel)).cur)))).get (by decide +kernel), ((pOk (some (readBy (.ctl (0 : Cluster).val) ((work ({ klState with dev := vc { klCmd with desc := natLe 1 2 ++ natLe 127 0 } } : State)).on (raiseClusters 4 [(0 : Cluster).val])) (0 : VDev).val needX (klImage (((pSome (some ((((pSome (some (({ klState with dev := vc { klCmd with desc := natLe 1 2 ++ natLe 127 0 } } : State).dev.queue? (0 : VDev).val (0 : QId).val)))).get (by decide +kernel)).cur)))).get (by decide +kernel)).params) 128)))).get (by decide +kernel), by decide +kernel, by decide +kernel, by decide +kernel, by decide +kernel, by decide +kernel, by decide +kernel, by decide +kernel, ex_eq (by decide +kernel), by decide +kernel⟩,
   ⟨st ((vq { q0 with fetched := [cmd 2 0 .waiting] }).onCore 0 fun c => { c with busy := some 9 }), 0, 0, 0, ((pSome (some ((st ((vq { q0 with fetched := [cmd 2 0 .waiting] }).onCore 0 fun c => { c with busy := some 9 }) : State).dev.queue? (0 : VDev).val (0 : QId).val)))).get (by decide +kernel), ((pSome (some ((((pSome (some ((st ((vq { q0 with fetched := [cmd 2 0 .waiting] }).onCore 0 fun c => { c with busy := some 9 }) : State).dev.queue? (0 : VDev).val (0 : QId).val)))).get (by decide +kernel)).nextCmd)))).get (by decide +kernel), by decide +kernel⟩,
   ⟨st { vfD vd0 with sched := { (vfD vd0).sched with shadows := [(0, ⟨7, 0, [], [], [], [], [], 0⟩)] } }, 0, ((pSome (some (Tab.get? (st { vfD vd0 with sched := { (vfD vd0).sched with shadows := [(0, ⟨7, 0, [], [], [], [], [], 0⟩)] } } : State).dev.sched.shadows (0 : CoreId).val)))).get (by decide +kernel), by decide +kernel⟩,
   ⟨State.reset, 0, by decide +kernel⟩,
   ⟨st (vc (cmd 1 0 .running)), 0, 0, ((pSome (some ((st (vc (cmd 1 0 .running)) : State).dev.cur? (0 : VDev).val (0 : QId).val)))).get (by decide +kernel), by decide +kernel⟩⟩

/-- Witnesses for OperationsAndQueries. -/
theorem wit_OperationsAndQueries :
    (∃ (s : State), ∃ (v : VDev), ∃ (q : QId), ∃ (i : Instr), ∃ (k : OpK), ∃ (x : Queue), ∃ (c : Cmd), (i, k) ∈ opRows v (.good q) ∧ runningOp s.dev v.val q.val k = some (x, c)) ∧
    (∃ (s : State), ∃ (v : VDev), ∃ (q : QId), ∃ (i : Instr), ∃ (j : Instr), ∃ (k : OpK), ∃ (n : CoreId), ∃ (m : CoreMem), (i, k) ∈ opRows v ⟨q, some (n, m)⟩ ∧ (j, k) ∈ opRows v (.good q) ∧ runningOp s.dev v.val q.val k = none) ∧
    (∃ (s : State), ∃ (v : VDev), ∃ (q : QId), ∃ (i : Instr), ∃ (j : Instr), ∃ (k : OpK), ∃ (n : CoreId), ∃ (m : CoreMem), ∃ (x : Queue), ∃ (c : Cmd), (i, k) ∈ opRows v ⟨q, some (n, m)⟩ ∧ (j, k) ∈ opRows v (.good q) ∧ runningOp s.dev v.val q.val k = some (x, c) ∧ c.cores.contains n.val = false) ∧
    (∃ (s : State), ∃ (v : VDev), ∃ (q : QId), ∃ (i : Instr), ∃ (j : Instr), ∃ (k : OpK), ∃ (n : CoreId), ∃ (m : CoreMem), ∃ (x : Queue), ∃ (c : Cmd), (i, k) ∈ opRows v ⟨q, some (n, m)⟩ ∧ (j, k) ∈ opRows v (.good q) ∧ runningOp s.dev v.val q.val k = some (x, c) ∧ c.cores.contains n.val = true ∧ (∀ va f, m ≠ .line va f) ∧ (∀ a, m ≠ .shadow a)) ∧
    (∃ (s : State), ∃ (v : VDev), ∃ (q : QId), ∃ (i : Instr), ∃ (j : Instr), ∃ (k : OpK), ∃ (n : CoreId), ∃ (m : CoreMem), ∃ (a : Nat), ∃ (x : Queue), ∃ (c : Cmd), (i, k) ∈ opRows v ⟨q, some (n, m)⟩ ∧ (j, k) ∈ opRows v (.good q) ∧ runningOp s.dev v.val q.val k = some (x, c) ∧ c.cores.contains n.val = true ∧ m = .shadow a) ∧
    (∃ (s : State), ∃ (v : VDev), ∃ (q : QId), ∃ (i : Instr), ∃ (j : Instr), ∃ (k : OpK), ∃ (n : CoreId), ∃ (m : CoreMem), ∃ (va : Nat), ∃ (f : ReadFault), ∃ (x : Queue), ∃ (c : Cmd), (i, k) ∈ opRows v ⟨q, some (n, m)⟩ ∧ (j, k) ∈ opRows v (.good q) ∧ runningOp s.dev v.val q.val k = some (x, c) ∧ c.cores.contains n.val = true ∧ m = .line va f) ∧
    (∃ (s : State), ∃ (v : VDev), ∃ (q : QId), ∃ (c : Cmd), s.dev.cur? v.val q.val = some c ∧ c.phase = .running ∧ c.kind = 0) ∧
    (∃ (s : State), ∃ (v : VDev), ∃ (q : QId), ∃ (i : Instr), ∃ (bs : List Byte), ∃ (x : Queue), ∃ (c : Cmd), ∃ (code : Nat), s.dev.queue? v.val q.val = some x ∧ x.cur = some c ∧ c.phase = .running ∧ c.kind = 3 ∧ fieldLe c.params 0 4 = code ∧ ((i, code, bs) ∈ [ (.queryDistance v q, 1, distTable s.dev.net.retired ++ natLe 8 s.dev.net.gen.toNat), (.usageSelf v q, 0x100, ((s.dev.ctx? c.context).map fun k => usageRecord (work s) c.context k).getD []), (.usageAll v q, 0x101, let held := s.dev.ctxs.filter fun k => k.2.vdev == v.val; let live := held.filter fun k => !k.2.destroying; let n := min held.length (((c.outs.headD (0, 0)).2 - 16) / 64); natLe 4 live.length ++ natLe 4 n ++ natLe 8 0 ++ (held.take n).flatMap fun k => usageRecord (work s) k.1 k.2) ])) :=
  ⟨⟨st (vc ({ cmd 1 0 .running with params := natLe 4 0x40020 ++ natLe 60 0 })), 0, 0, .abs 0 (.good 0), .abs, ((pFst (pSome (some (runningOp (st (vc ({ cmd 1 0 .running with params := natLe 4 0x40020 ++ natLe 60 0 })) : State).dev (0 : VDev).val (0 : QId).val (.abs : OpK)))))).get (by decide +kernel), ((pSnd (pSome (some (runningOp (st (vc ({ cmd 1 0 .running with params := natLe 4 0x40020 ++ natLe 60 0 })) : State).dev (0 : VDev).val (0 : QId).val (.abs : OpK)))))).get (by decide +kernel), by simp only [opRows, List.cons_append, List.nil_append]; repeat (first | exact List.mem_cons_self | apply List.mem_cons_of_mem), by decide +kernel⟩,
   ⟨st (vc (cmd 0 0 .waiting)), 0, 0, .abs 0 ⟨0, some (0, .reg 0)⟩, .abs 0 (.good 0), .abs, 0, .reg 0, by simp only [opRows, List.cons_append, List.nil_append]; repeat (first | exact List.mem_cons_self | apply List.mem_cons_of_mem), by simp only [opRows, List.cons_append, List.nil_append]; repeat (first | exact List.mem_cons_self | apply List.mem_cons_of_mem), by decide +kernel⟩,
   ⟨st (vc ({ cmd 1 0 .running with params := natLe 4 0x40020 ++ natLe 60 0 })), 0, 0, .abs 0 ⟨0, some (0, .reg 0)⟩, .abs 0 (.good 0), .abs, 0, .reg 0, ((pFst (pSome (some (runningOp (st (vc ({ cmd 1 0 .running with params := natLe 4 0x40020 ++ natLe 60 0 })) : State).dev (0 : VDev).val (0 : QId).val (.abs : OpK)))))).get (by decide +kernel), ((pSnd (pSome (some (runningOp (st (vc ({ cmd 1 0 .running with params := natLe 4 0x40020 ++ natLe 60 0 })) : State).dev (0 : VDev).val (0 : QId).val (.abs : OpK)))))).get (by decide +kernel), by simp only [opRows, List.cons_append, List.nil_append]; repeat (first | exact List.mem_cons_self | apply List.mem_cons_of_mem), by simp only [opRows, List.cons_append, List.nil_append]; repeat (first | exact List.mem_cons_self | apply List.mem_cons_of_mem), by decide +kernel⟩,
   ⟨st (vc ({ cmd 1 0 .running with cores := [0], params := natLe 4 0x40020 ++ natLe 60 0 })), 0, 0, .abs 0 ⟨0, some (0, .reg 0)⟩, .abs 0 (.good 0), .abs, 0, .reg 0, ((pFst (pSome (some (runningOp (st (vc ({ cmd 1 0 .running with cores := [0], params := natLe 4 0x40020 ++ natLe 60 0 })) : State).dev (0 : VDev).val (0 : QId).val (.abs : OpK)))))).get (by decide +kernel), ((pSnd (pSome (some (runningOp (st (vc ({ cmd 1 0 .running with cores := [0], params := natLe 4 0x40020 ++ natLe 60 0 })) : State).dev (0 : VDev).val (0 : QId).val (.abs : OpK)))))).get (by decide +kernel), by simp only [opRows, List.cons_append, List.nil_append]; repeat (first | exact List.mem_cons_self | apply List.mem_cons_of_mem), by simp only [opRows, List.cons_append, List.nil_append]; repeat (first | exact List.mem_cons_self | apply List.mem_cons_of_mem), by decide +kernel, by decide +kernel, (by intro va f h; cases h), (by intro a h; cases h)⟩,
   ⟨st (vc ({ cmd 1 0 .running with cores := [0], params := natLe 4 0x40020 ++ natLe 60 0 })), 0, 0, .abs 0 ⟨0, some (0, .shadow 0)⟩, .abs 0 (.good 0), .abs, 0, .shadow 0, 0, ((pFst (pSome (some (runningOp (st (vc ({ cmd 1 0 .running with cores := [0], params := natLe 4 0x40020 ++ natLe 60 0 })) : State).dev (0 : VDev).val (0 : QId).val (.abs : OpK)))))).get (by decide +kernel), ((pSnd (pSome (some (runningOp (st (vc ({ cmd 1 0 .running with cores := [0], params := natLe 4 0x40020 ++ natLe 60 0 })) : State).dev (0 : VDev).val (0 : QId).val (.abs : OpK)))))).get (by decide +kernel), by simp only [opRows, List.cons_append, List.nil_append]; repeat (first | exact List.mem_cons_self | apply List.mem_cons_of_mem), by simp only [opRows, List.cons_append, List.nil_append]; repeat (first | exact List.mem_cons_self | apply List.mem_cons_of_mem), by decide +kernel⟩,
   ⟨st (vc ({ cmd 1 0 .running with cores := [0], params := natLe 4 0x40020 ++ natLe 60 0 })), 0, 0, .abs 0 ⟨0, some (0, .line 0 .good)⟩, .abs 0 (.good 0), .abs, 0, .line 0 .good, 0, .good, ((pFst (pSome (some (runningOp (st (vc ({ cmd 1 0 .running with cores := [0], params := natLe 4 0x40020 ++ natLe 60 0 })) : State).dev (0 : VDev).val (0 : QId).val (.abs : OpK)))))).get (by decide +kernel), ((pSnd (pSome (some (runningOp (st (vc ({ cmd 1 0 .running with cores := [0], params := natLe 4 0x40020 ++ natLe 60 0 })) : State).dev (0 : VDev).val (0 : QId).val (.abs : OpK)))))).get (by decide +kernel), by simp only [opRows, List.cons_append, List.nil_append]; repeat (first | exact List.mem_cons_self | apply List.mem_cons_of_mem), by simp only [opRows, List.cons_append, List.nil_append]; repeat (first | exact List.mem_cons_self | apply List.mem_cons_of_mem), by decide +kernel⟩,
   ⟨st (vc (cmd 0 0 .running)), 0, 0, ((pSome (some ((st (vc (cmd 0 0 .running)) : State).dev.cur? (0 : VDev).val (0 : QId).val)))).get (by decide +kernel), by decide +kernel⟩,
   ⟨st (vc ({ cmd 3 0 .running with params := natLe 4 1 ++ natLe 60 0 })), 0, 0, .queryDistance 0 0, distTable [] ++ natLe 8 0, ((pSome (some ((st (vc ({ cmd 3 0 .running with params := natLe 4 1 ++ natLe 60 0 })) : State).dev.queue? (0 : VDev).val (0 : QId).val)))).get (by decide +kernel), ((pSome (some ((((pSome (some ((st (vc ({ cmd 3 0 .running with params := natLe 4 1 ++ natLe 60 0 })) : State).dev.queue? (0 : VDev).val (0 : QId).val)))).get (by decide +kernel)).cur)))).get (by decide +kernel), ((some (fieldLe (((pSome (some ((((pSome (some ((st (vc ({ cmd 3 0 .running with params := natLe 4 1 ++ natLe 60 0 })) : State).dev.queue? (0 : VDev).val (0 : QId).val)))).get (by decide +kernel)).cur)))).get (by decide +kernel)).params 0 4))).get (by decide +kernel), by decide +kernel, by decide +kernel, by decide +kernel, by decide +kernel, by decide +kernel, List.mem_cons_self⟩⟩

/-- Witnesses for AttemptsClose. -/
theorem wit_AttemptsClose :
    (∃ (s : State), ∃ (v : VDev), ∃ (q : QId), ∃ (c : Cmd), s.dev.cur? v.val q.val = some c ∧ c.phase = .executed ∧ (c.kind = 2 → klWatch c.params = false) ∧ ((s.dev.mc.reqs.any fun r => r.cmd == c.no) = false) ∧ ((s.dev.mc.resps.any fun r => r.req.cmd == c.no) = false)) ∧
    (∃ (s : State), ∃ (v : VDev), ∃ (q : QId), ∃ (k : Die), ∃ (x : Queue), ∃ (c : Cmd), s.dev.queue? v.val q.val = some x ∧ x.cur = some c ∧ c.phase = .closing ∧ c.diesLeft.contains k.val = true) ∧
    (∃ (s : State), ∃ (v : VDev), ∃ (q : QId), ∃ (c : Cmd), s.dev.cur? v.val q.val = some c) ∧
    (∃ (s : State), ∃ (v : VDev), ∃ (q : QId), ∃ (k : Die), ∃ (ls : List (Nat × List Byte)), ∃ (c : Cmd), s.dev.cur? v.val q.val = some c ∧ c.phase = .closing ∧ c.diesLeft = [] ∧ c.leafSent = [(k.val, ls)]) ∧
    (∃ (s : State), ∃ (v : VDev), ∃ (q : QId), ∃ (x : Queue), ∃ (c : Cmd), s.dev.queue? v.val q.val = some x ∧ x.cur = some c ∧ c.phase = .signing ∧ s.dev.secUp = true) :=
  ⟨⟨st (vc (cmd 1 0 .executed)), 0, 0, ((pSome (some ((st (vc (cmd 1 0 .executed)) : State).dev.cur? (0 : VDev).val (0 : QId).val)))).get (by decide +kernel), by decide +kernel⟩,
   ⟨st (vc ({ cmd 1 0 .closing with diesLeft := [31] })), 0, 0, 31, ((pSome (some ((st (vc ({ cmd 1 0 .closing with diesLeft := [31] })) : State).dev.queue? (0 : VDev).val (0 : QId).val)))).get (by decide +kernel), ((pSome (some ((((pSome (some ((st (vc ({ cmd 1 0 .closing with diesLeft := [31] })) : State).dev.queue? (0 : VDev).val (0 : QId).val)))).get (by decide +kernel)).cur)))).get (by decide +kernel), by decide +kernel⟩,
   ⟨st (vc (cmd 1 0 .running)), 0, 0, ((pSome (some ((st (vc (cmd 1 0 .running)) : State).dev.cur? (0 : VDev).val (0 : QId).val)))).get (by decide +kernel), by decide +kernel⟩,
   ⟨st (vc ({ cmd 1 0 .closing with leafSent := [(0, [(0, [])])] })), 0, 0, 0, [(0, [])], ((pSome (some ((st (vc ({ cmd 1 0 .closing with leafSent := [(0, [(0, [])])] })) : State).dev.cur? (0 : VDev).val (0 : QId).val)))).get (by decide +kernel), by decide +kernel⟩,
   ⟨st (vc (cmd 1 8 .signing)), 0, 0, ((pSome (some ((st (vc (cmd 1 8 .signing)) : State).dev.queue? (0 : VDev).val (0 : QId).val)))).get (by decide +kernel), ((pSome (some ((((pSome (some ((st (vc (cmd 1 8 .signing)) : State).dev.queue? (0 : VDev).val (0 : QId).val)))).get (by decide +kernel)).cur)))).get (by decide +kernel), by decide +kernel⟩⟩

/-- Witnesses for CommandsComplete. -/
theorem wit_CommandsComplete :
    (∃ (s : State), ∃ (v : VDev), ∃ (q : QId), ∃ (x : Queue), ∃ (c : Cmd), ∃ (slot : Wk × Option Acc), slot = (if hasSlot x c then writeSlot v.val x c c.receipt (work s) else (work s, none)) ∧ ∃ e, s.dev.queue? v.val q.val = some x ∧ x.cur = some c ∧ c.canComplete = true ∧ (c.digestFlag = true → c.failOut = none) ∧ slot.2 = some e) ∧
    (∃ (s : State), ∃ (v : VDev), ∃ (q : QId), ∃ (x : Queue), ∃ (c : Cmd), ∃ (slot : Wk × Option Acc), slot = (if hasSlot x c then writeSlot v.val x c c.receipt (work s) else (work s, none)) ∧ s.dev.queue? v.val q.val = some x ∧ x.cur = some c ∧ c.canComplete = true ∧ (c.digestFlag = true → c.failOut = none) ∧ slot.2 = none ∧ c.sig = none) ∧
    (∃ (s : State), ∃ (v : VDev), ∃ (q : QId), ∃ k, ∃ (x : Queue), ∃ (c : Cmd), ∃ (slot : Wk × Option Acc), slot = (if hasSlot x c then writeSlot v.val x c c.receipt (work s) else (work s, none)) ∧ ∃ w, w = (slot.1) ∧ s.dev.queue? v.val q.val = some x ∧ x.cur = some c ∧ c.canComplete = true ∧ (c.digestFlag = true → c.failOut = none) ∧ slot.2 = none ∧ c.sig = some (.cell k) ∧ w.dev.cellLost k = false ∧ (w.dev.cell k).state = 1) ∧
    (∃ (s : State), ∃ (v : VDev), ∃ (q : QId), ∃ k, ∃ (x : Queue), ∃ (c : Cmd), ∃ (slot : Wk × Option Acc), slot = (if hasSlot x c then writeSlot v.val x c c.receipt (work s) else (work s, none)) ∧ ∃ w, w = (slot.1) ∧ s.dev.queue? v.val q.val = some x ∧ x.cur = some c ∧ c.canComplete = true ∧ (c.digestFlag = true → c.failOut = none) ∧ slot.2 = none ∧ c.sig = some (.cell k) ∧ w.dev.cellLost k = false ∧ (w.dev.cell k).state ≠ 1) ∧
    (∃ (s : State), ∃ (v : VDev), ∃ (q : QId), ∃ k, ∃ (x : Queue), ∃ (c : Cmd), ∃ (slot : Wk × Option Acc), slot = (if hasSlot x c then writeSlot v.val x c c.receipt (work s) else (work s, none)) ∧ ∃ w, w = (slot.1) ∧ s.dev.queue? v.val q.val = some x ∧ x.cur = some c ∧ c.canComplete = true ∧ (c.digestFlag = true → c.failOut = none) ∧ slot.2 = none ∧ c.sig = some (.cell k) ∧ w.dev.cellLost k = true) ∧
    (∃ (s : State), ∃ (v : VDev), ∃ (q : QId), ∃ pv, ∃ i, ∃ (x : Queue), ∃ (c : Cmd), ∃ (slot : Wk × Option Acc), slot = (if hasSlot x c then writeSlot v.val x c c.receipt (work s) else (work s, none)) ∧ s.dev.queue? v.val q.val = some x ∧ x.cur = some c ∧ c.canComplete = true ∧ (c.digestFlag = true → c.failOut = none) ∧ slot.2 = none ∧ c.sig = some (.proxy pv i)) ∧
    (∃ (s : State), ∃ (v : VDev), ∃ (q : QId), ∃ (x : Queue), ∃ (c : Cmd), ∃ r, s.dev.queue? v.val q.val = some x ∧ x.cur = some c ∧ c.timerLive = true ∧ ((s.dev.vd v.val).frozen = true → c.started = true) ∧ c.sig = some r) ∧
    (∃ (s : State), ∃ (v : VDev), ∃ (q : QId), ∃ (x : Queue), ∃ (c : Cmd), s.dev.queue? v.val q.val = some x ∧ x.cur = some c ∧ c.timerLive = true ∧ ((s.dev.vd v.val).frozen = true → c.started = true) ∧ c.sig = none) ∧
    (∃ (s : State), ∃ (v : VDev), ∃ (q : QId), ∃ (x : Queue), ∃ (c : Cmd), s.dev.queue? v.val q.val = some x ∧ x.cur = some c ∧ (c.timerLive = false ∨ ((s.dev.vd v.val).frozen = true ∧ c.started = false))) :=
  ⟨⟨st (vq { q0 with cfg := overlay cfg0 0x18 (natLe 8 0x70000000), cur := some ({ cmd 1 1 .ready with receipt := [1], chain := 0 }) }), 0, 0, ((pSome (some ((st (vq { q0 with cfg := overlay cfg0 0x18 (natLe 8 0x70000000), cur := some ({ cmd 1 1 .ready with receipt := [1], chain := 0 }) }) : State).dev.queue? (0 : VDev).val (0 : QId).val)))).get (by decide +kernel), ((pSome (some ((((pSome (some ((st (vq { q0 with cfg := overlay cfg0 0x18 (natLe 8 0x70000000), cur := some ({ cmd 1 1 .ready with receipt := [1], chain := 0 }) }) : State).dev.queue? (0 : VDev).val (0 : QId).val)))).get (by decide +kernel)).cur)))).get (by decide +kernel), _, rfl, ((pSome (some ((if hasSlot (((pSome (some ((st (vq { q0 with cfg := overlay cfg0 0x18 (natLe 8 0x70000000), cur := some ({ cmd 1 1 .ready with receipt := [1], chain := 0 }) }) : State).dev.queue? (0 : VDev).val (0 : QId).val)))).get (by decide +kernel)) (((pSome (some ((((pSome (some ((st (vq { q0 with cfg := overlay cfg0 0x18 (natLe 8 0x70000000), cur := some ({ cmd 1 1 .ready with receipt := [1], chain := 0 }) }) : State).dev.queue? (0 : VDev).val (0 : QId).val)))).get (by decide +kernel)).cur)))).get (by decide +kernel)) then writeSlot (0 : VDev).val (((pSome (some ((st (vq { q0 with cfg := overlay cfg0 0x18 (natLe 8 0x70000000), cur := some ({ cmd 1 1 .ready with receipt := [1], chain := 0 }) }) : State).dev.queue? (0 : VDev).val (0 : QId).val)))).get (by decide +kernel)) (((pSome (some ((((pSome (some ((st (vq { q0 with cfg := overlay cfg0 0x18 (natLe 8 0x70000000), cur := some ({ cmd 1 1 .ready with receipt := [1], chain := 0 }) }) : State).dev.queue? (0 : VDev).val (0 : QId).val)))).get (by decide +kernel)).cur)))).get (by decide +kernel)) (((pSome (some ((((pSome (some ((st (vq { q0 with cfg := overlay cfg0 0x18 (natLe 8 0x70000000), cur := some ({ cmd 1 1 .ready with receipt := [1], chain := 0 }) }) : State).dev.queue? (0 : VDev).val (0 : QId).val)))).get (by decide +kernel)).cur)))).get (by decide +kernel)).receipt (work (st (vq { q0 with cfg := overlay cfg0 0x18 (natLe 8 0x70000000), cur := some ({ cmd 1 1 .ready with receipt := [1], chain := 0 }) }) : State)) else (work (st (vq { q0 with cfg := overlay cfg0 0x18 (natLe 8 0x70000000), cur := some ({ cmd 1 1 .ready with receipt := [1], chain := 0 }) }) : State), none) : Wk × Option Acc).2)))).get (by decide +kernel), by decide +kernel⟩,
   ⟨st (vc (cmd 1 0 .ready)), 0, 0, ((pSome (some ((st (vc (cmd 1 0 .ready)) : State).dev.queue? (0 : VDev).val (0 : QId).val)))).get (by decide +kernel), ((pSome (some ((((pSome (some ((st (vc (cmd 1 0 .ready)) : State).dev.queue? (0 : VDev).val (0 : QId).val)))).get (by decide +kernel)).cur)))).get (by decide +kernel), _, rfl, by decide +kernel⟩,
   ⟨st ((vc ({ cmd 1 0 .ready with sig := some (.cell 5) })).onCell 5 fun c => { c with state := 1, lost := false }), 0, 0, 5, ((pSome (some ((st ((vc ({ cmd 1 0 .ready with sig := some (.cell 5) })).onCell 5 fun c => { c with state := 1, lost := false }) : State).dev.queue? (0 : VDev).val (0 : QId).val)))).get (by decide +kernel), ((pSome (some ((((pSome (some ((st ((vc ({ cmd 1 0 .ready with sig := some (.cell 5) })).onCell 5 fun c => { c with state := 1, lost := false }) : State).dev.queue? (0 : VDev).val (0 : QId).val)))).get (by decide +kernel)).cur)))).get (by decide +kernel), _, rfl, _, rfl, by decide +kernel⟩,
   ⟨st ((vc ({ cmd 1 0 .ready with sig := some (.cell 5) })).onCell 5 fun c => { c with state := 2, lost := false }), 0, 0, 5, ((pSome (some ((st ((vc ({ cmd 1 0 .ready with sig := some (.cell 5) })).onCell 5 fun c => { c with state := 2, lost := false }) : State).dev.queue? (0 : VDev).val (0 : QId).val)))).get (by decide +kernel), ((pSome (some ((((pSome (some ((st ((vc ({ cmd 1 0 .ready with sig := some (.cell 5) })).onCell 5 fun c => { c with state := 2, lost := false }) : State).dev.queue? (0 : VDev).val (0 : QId).val)))).get (by decide +kernel)).cur)))).get (by decide +kernel), _, rfl, _, rfl, by decide +kernel⟩,
   ⟨st ((vc ({ cmd 1 0 .ready with sig := some (.cell 5) })).onCell 5 fun c => { c with state := 1, lost := true }), 0, 0, 5, ((pSome (some ((st ((vc ({ cmd 1 0 .ready with sig := some (.cell 5) })).onCell 5 fun c => { c with state := 1, lost := true }) : State).dev.queue? (0 : VDev).val (0 : QId).val)))).get (by decide +kernel), ((pSome (some ((((pSome (some ((st ((vc ({ cmd 1 0 .ready with sig := some (.cell 5) })).onCell 5 fun c => { c with state := 1, lost := true }) : State).dev.queue? (0 : VDev).val (0 : QId).val)))).get (by decide +kernel)).cur)))).get (by decide +kernel), _, rfl, _, rfl, by decide +kernel⟩,
   ⟨st (vc ({ cmd 1 0 .ready with sig := some (.proxy 0 3) })), 0, 0, 0, 3, ((pSome (some ((st (vc ({ cmd 1 0 .ready with sig := some (.proxy 0 3) })) : State).dev.queue? (0 : VDev).val (0 : QId).val)))).get (by decide +kernel), ((pSome (some ((((pSome (some ((st (vc ({ cmd 1 0 .ready with sig := some (.proxy 0 3) })) : State).dev.queue? (0 : VDev).val (0 : QId).val)))).get (by decide +kernel)).cur)))).get (by decide +kernel), _, rfl, by decide +kernel⟩,
   ⟨st (vc ({ cmd 1 0 .running with sig := some (.cell 5) })), 0, 0, ((pSome (some ((st (vc ({ cmd 1 0 .running with sig := some (.cell 5) })) : State).dev.queue? (0 : VDev).val (0 : QId).val)))).get (by decide +kernel), ((pSome (some ((((pSome (some ((st (vc ({ cmd 1 0 .running with sig := some (.cell 5) })) : State).dev.queue? (0 : VDev).val (0 : QId).val)))).get (by decide +kernel)).cur)))).get (by decide +kernel), ((pSome (some ((((pSome (some ((((pSome (some ((st (vc ({ cmd 1 0 .running with sig := some (.cell 5) })) : State).dev.queue? (0 : VDev).val (0 : QId).val)))).get (by decide +kernel)).cur)))).get (by decide +kernel)).sig)))).get (by decide +kernel), by decide +kernel⟩,
   ⟨st (vc (cmd 1 0 .running)), 0, 0, ((pSome (some ((st (vc (cmd 1 0 .running)) : State).dev.queue? (0 : VDev).val (0 : QId).val)))).get (by decide +kernel), ((pSome (some ((((pSome (some ((st (vc (cmd 1 0 .running)) : State).dev.queue? (0 : VDev).val (0 : QId).val)))).get (by decide +kernel)).cur)))).get (by decide +kernel), by decide +kernel⟩,
   ⟨st (vc (cmd 1 0 .refusing)), 0, 0, ((pSome (some ((st (vc (cmd 1 0 .refusing)) : State).dev.queue? (0 : VDev).val (0 : QId).val)))).get (by decide +kernel), ((pSome (some ((((pSome (some ((st (vc (cmd 1 0 .refusing)) : State).dev.queue? (0 : VDev).val (0 : QId).val)))).get (by decide +kernel)).cur)))).get (by decide +kernel), by decide +kernel⟩⟩

/-- Witnesses for EndedCommandsLeave. -/
theorem wit_EndedCommandsLeave :
    (∃ (s : State), ∃ (v : Nat), ∃ (q : Nat), ∃ (x : Queue), ∃ (c : Cmd), s.dev.queue? v q = some x ∧ x.cur = some c ∧ (s.dev.vd v).inReset = false) :=
  ⟨st (vc (cmd 1 0 .running)), 0, 0, ((pSome (some ((st (vc (cmd 1 0 .running)) : State).dev.queue? (0 : Nat) (0 : Nat))))).get (by decide +kernel), ((pSome (some ((((pSome (some ((st (vc (cmd 1 0 .running)) : State).dev.queue? (0 : Nat) (0 : Nat))))).get (by decide +kernel)).cur)))).get (by decide +kernel), by decide +kernel⟩

/-- Witnesses for RecordsAndAborts. -/
theorem wit_RecordsAndAborts :
    (∃ (w : Wk), ∃ (v : Nat), ∃ (q : Nat), ∃ (r : Rec), ∃ (pa : Nat), ∃ (key : Nat), ∃ (hub : XEng), hub = (.dma (hubOf v)) ∧ ∃ (x : Queue), ∃ (w' : Wk), ∃ va, va = (x.cqBase + 32 * x.cqIndex) ∧ w.dev.queue? v q = some x ∧ x.cqIndex ≠ (x.cqHead + x.C - 1) % x.C ∧ translate ((w.dev.seenBy hub v).vd v) needW va = .device pa key ∧ writePiece v pa key (r.bytes x.cqPhase) none w = .ok w') ∧
    (∃ (w : Wk), ∃ (v : Nat), ∃ (q : Nat), ∃ (x : Queue), w.dev.queue? v q = some x ∧ x.cqIndex = (x.cqHead + x.C - 1) % x.C) ∧
    (∃ (s : State), ∃ (v : VDev), ∃ (q : QId), ∃ (c : Cmd), ∃ (e : Engine), s.dev.cur? v.val q.val = some c ∧ c.abortAcks = [e] ∧ c.aborts = [] ∧ c.phase = .aborting) ∧
    (∃ (s : State), ∃ (v : VDev), ∃ (q : QId), ∃ (e : Engine), ∃ (c : Cmd), s.dev.cur? v.val q.val = some c ∧ c.abortAcks.contains e = true ∧ (c.aborts ≠ [] ∨ c.abortAcks.filter (· != e) ≠ [])) ∧
    (∃ (s : State), ∃ (v : VDev), ∃ (q : QId), ∃ (c : Cmd), s.dev.cur? v.val q.val = some c ∧ c.phase = .replaying ∧ (undosOf s.dev c.no).all (undoReadable s.dev) = true) ∧
    (∃ (s : State), ∃ (v : VDev), ∃ (q : QId), ∃ (c : Cmd), s.dev.cur? v.val q.val = some c ∧ c.phase = .replaying ∧ (undosOf s.dev c.no).all (undoReadable s.dev) = false ∧ c.failOut = none ∧ c.thenReplay = false) ∧
    (∃ (s : State), ∃ (v : VDev), ∃ (q : QId), ∃ (c : Cmd), s.dev.cur? v.val q.val = some c ∧ c.phase = .replaying ∧ (undosOf s.dev c.no).all (undoReadable s.dev) = false ∧ c.failOut = none ∧ c.thenReplay = true) :=
  ⟨⟨work (st (vq q0)), 0, 0, ⟨0, 0, 0, 0, 0, Detail.none⟩, 0x20000, 1, _, rfl, ((pSome (some ((work (st (vq q0)) : Wk).dev.queue? (0 : Nat) (0 : Nat))))).get (by decide +kernel), ((pOk (some (writePiece (0 : Nat) (0x20000 : Nat) (1 : Nat) ((⟨0, 0, 0, 0, 0, Detail.none⟩ : Rec).bytes (((pSome (some ((work (st (vq q0)) : Wk).dev.queue? (0 : Nat) (0 : Nat))))).get (by decide +kernel)).cqPhase) none (work (st (vq q0)) : Wk))))).get (by decide +kernel), _, rfl, by decide +kernel, by decide +kernel, by decide +kernel, ex_eq (by decide +kernel)⟩,
   ⟨work (st (vq { q0 with cqIndex := 63 })), 0, 0, ((pSome (some ((work (st (vq { q0 with cqIndex := 63 })) : Wk).dev.queue? (0 : Nat) (0 : Nat))))).get (by decide +kernel), by decide +kernel⟩,
   ⟨st (vc ({ cmd 1 0 .aborting with abortAcks := [.core 0] })), 0, 0, ((pSome (some ((st (vc ({ cmd 1 0 .aborting with abortAcks := [.core 0] })) : State).dev.cur? (0 : VDev).val (0 : QId).val)))).get (by decide +kernel), ((pHead (some ((((pSome (some ((st (vc ({ cmd 1 0 .aborting with abortAcks := [.core 0] })) : State).dev.cur? (0 : VDev).val (0 : QId).val)))).get (by decide +kernel)).abortAcks)))).get (by decide +kernel), by decide +kernel⟩,
   ⟨st (vc ({ cmd 1 0 .aborting with abortAcks := [.core 0, .core 1] })), 0, 0, .core 0, ((pSome (some ((st (vc ({ cmd 1 0 .aborting with abortAcks := [.core 0, .core 1] })) : State).dev.cur? (0 : VDev).val (0 : QId).val)))).get (by decide +kernel), by decide +kernel⟩,
   ⟨st (vc (cmd 1 0 .replaying)), 0, 0, ((pSome (some ((st (vc (cmd 1 0 .replaying)) : State).dev.cur? (0 : VDev).val (0 : QId).val)))).get (by decide +kernel), by decide +kernel⟩,
   ⟨st (({ vc (cmd 1 0 .replaying) with mc := { (vc (cmd 1 0 .replaying)).mc with undo := [⟨7, 0, 0, 0, 0, 0, .slot0, [(0, 0)]⟩] } }).onDie 0 fun x => { x with lost := true }), 0, 0, ((pSome (some ((st (({ vc (cmd 1 0 .replaying) with mc := { (vc (cmd 1 0 .replaying)).mc with undo := [⟨7, 0, 0, 0, 0, 0, .slot0, [(0, 0)]⟩] } }).onDie 0 fun x => { x with lost := true }) : State).dev.cur? (0 : VDev).val (0 : QId).val)))).get (by decide +kernel), by decide +kernel⟩,
   ⟨st (({ vc ({ cmd 1 0 .replaying with thenReplay := true }) with mc := { (vc ({ cmd 1 0 .replaying with thenReplay := true })).mc with undo := [⟨7, 0, 0, 0, 0, 0, .slot0, [(0, 0)]⟩] } }).onDie 0 fun x => { x with lost := true }), 0, 0, ((pSome (some ((st (({ vc ({ cmd 1 0 .replaying with thenReplay := true }) with mc := { (vc ({ cmd 1 0 .replaying with thenReplay := true })).mc with undo := [⟨7, 0, 0, 0, 0, 0, .slot0, [(0, 0)]⟩] } }).onDie 0 fun x => { x with lost := true }) : State).dev.cur? (0 : VDev).val (0 : QId).val)))).get (by decide +kernel), by decide +kernel⟩⟩

/-- Witnesses for FenceUnit. -/
theorem wit_FenceUnit :
    (∃ (s : State), ∃ (f : FenceAt), ∃ (id : Nat), ∃ (k : Nat), ∃ (v : BitVec 64), ∃ (src : FSrc), ∃ (e : Dev), (takeReq f.id (fun o => match o with | .signal _ => true | _ => false) s.dev = some (⟨id, k, .signal v, src⟩, e))) ∧
    (∃ (s : State), ∃ (f : FenceAt), ∃ (id : Nat), ∃ (k : Nat), ∃ (code : Nat), ∃ (t : BitVec 64), ∃ (src : FSrc), ∃ (e : Dev), (takeReq f.id (fun o => match o with | .fail _ _ => true | _ => false) s.dev = some (⟨id, k, .fail code t, src⟩, e))) ∧
    (∃ (s : State), ∃ (f : FenceAt), ∃ (id : Nat), ∃ (k : Nat), ∃ (t : BitVec 64), ∃ (src : FSrc), ∃ (e : Dev), (takeReq f.id (fun o => match o with | .wait _ => true | _ => false) s.dev = some (⟨id, k, .wait t, src⟩, e)) ∧ e.cellReferenced k = true) ∧
    (∃ (s : State), ∃ (id : Nat), ∃ (p : FOp → Bool), takeReq id p s.dev = none ∧ (p = (fun o => match o with | .signal _ => true | _ => false))) ∧
    (∃ (s : State), ∃ (id : Nat), ∃ (p : FOp → Bool), takeReq id p s.dev = none ∧ (p = (fun o => match o with | .fail _ _ => true | _ => false))) ∧
    (∃ (s : State), ∃ (id : Nat), ∃ (p : FOp → Bool), takeReq id p s.dev = none ∧ (p = (fun o => match o with | .wait _ => true | _ => false))) ∧
    (∃ (d : Dev), ∃ (k : Nat), ∃ (p : Nat), ∃ (id : Nat), ∃ (r : FReq), ∃ (rest : List FReq), (takeFirst (fun r : FReq => r.cell == k) d.fx.reqs = some (r, rest)) ∧ r.op = .read ∧ r.src = .remote p id) ∧
    (∃ (s : State), ∃ (id : Nat), ∃ (r : FReq), ∃ (rest : List FReq), (takeFirst (fun r : FReq => r.id == id) s.dev.fx.retry = some (r, rest))) ∧
    (∃ (s : State), ∃ (id : Nat), ∃ v, ∃ q, ∃ code, ∃ (r : FRep), ∃ (rest : List FRep), ∃ c, ∃ no, (takeFirst (fun r : FRep => r.id == id) s.dev.fx.reps = some (r, rest)) ∧ r.src = .timeout v q no code ∧ s.dev.cur? v q = some c ∧ c.no = no ∧ r.out = .applied) ∧
    (∃ (s : State), ∃ (id : Nat), ∃ v, ∃ q, ∃ code, ∃ other, ∃ (r : FRep), ∃ (rest : List FRep), ∃ c, ∃ no, (takeFirst (fun r : FRep => r.id == id) s.dev.fx.reps = some (r, rest)) ∧ r.src = .timeout v q no code ∧ s.dev.cur? v q = some c ∧ c.no = no ∧ r.out = .alreadyFailed other) ∧
    (∃ (s : State), ∃ (id : Nat), ∃ v, ∃ q, ∃ code, ∃ (r : FRep), ∃ (rest : List FRep), ∃ c, ∃ no, (takeFirst (fun r : FRep => r.id == id) s.dev.fx.reps = some (r, rest)) ∧ r.src = .timeout v q no code ∧ s.dev.cur? v q = some c ∧ c.no = no ∧ r.out = .signalled ∧ c.phase ≠ .failing) ∧
    (∃ (s : State), ∃ (id : Nat), ∃ v, ∃ q, ∃ code, ∃ (r : FRep), ∃ (rest : List FRep), ∃ c, ∃ no, (takeFirst (fun r : FRep => r.id == id) s.dev.fx.reps = some (r, rest)) ∧ r.src = .cmdFail v q no code ∧ s.dev.cur? v q = some c ∧ c.no = no ∧ r.out = .applied) ∧
    (∃ (s : State), ∃ (id : Nat), ∃ v, ∃ q, ∃ code, ∃ other, ∃ (r : FRep), ∃ (rest : List FRep), ∃ c, ∃ no, (takeFirst (fun r : FRep => r.id == id) s.dev.fx.reps = some (r, rest)) ∧ r.src = .cmdFail v q no code ∧ s.dev.cur? v q = some c ∧ c.no = no ∧ r.out = .alreadyFailed other) ∧
    (∃ (s : State), ∃ (id : Nat), ∃ v, ∃ q, ∃ code, ∃ (r : FRep), ∃ (rest : List FRep), ∃ c, ∃ no, (takeFirst (fun r : FRep => r.id == id) s.dev.fx.reps = some (r, rest)) ∧ r.src = .signal v q no ∧ s.dev.cur? v q = some c ∧ c.no = no ∧ c.phase = .held ∧ r.out = .refused code) ∧
    (∃ (s : State), ∃ (id : Nat), ∃ v, ∃ q, ∃ (r : FRep), ∃ (rest : List FRep), ∃ c, ∃ no, (takeFirst (fun r : FRep => r.id == id) s.dev.fx.reps = some (r, rest)) ∧ r.src = .signal v q no ∧ s.dev.cur? v q = some c ∧ c.no = no ∧ c.phase = .held ∧ (r.out = .applied ∨ r.out = .stale)) ∧
    (∃ (s : State), ∃ (id : Nat), ∃ fn, ∃ slot, ∃ tag, ∃ t0, ∃ (r : FRep), ∃ (rest : List FRep), (takeFirst (fun r : FRep => r.id == id) s.dev.fx.reps = some (r, rest)) ∧ r.src = .admin fn slot ∧ Tab.get? (s.dev.fn fn).taken slot = some ⟨tag, .signal, t0⟩) ∧
    (∃ (s : State), ∃ (id : Nat), ∃ p, ∃ rid, ∃ (r : FRep), ∃ (rest : List FRep), (takeFirst (fun r : FRep => r.id == id) s.dev.fx.reps = some (r, rest)) ∧ r.src = .remote p rid) :=
  ⟨⟨st ((vc (cmd 1 0 .running)).onFx fun x => { x with reqs := [⟨1, 5, .signal 9, .nobody⟩] }), ⟨1, false⟩, 1, 5, 9, .nobody, ((vc (cmd 1 0 .running)).onFx fun x => { x with reqs := [] }), by decide +kernel⟩,
   ⟨st ((vc (cmd 1 0 .running)).onFx fun x => { x with reqs := [⟨1, 5, .fail 3 0, .nobody⟩] }), ⟨1, false⟩, 1, 5, 3, 0, .nobody, ((vc (cmd 1 0 .running)).onFx fun x => { x with reqs := [] }), by decide +kernel⟩,
   ⟨st ((vfD { vd0 with slots := [(1, ⟨1, true, .cell 5, true, true, false, 0, 0⟩)] }).onFx fun x => { x with reqs := [⟨1, 5, .wait 9, .nobody⟩] }), ⟨1, false⟩, 1, 5, 9, .nobody, ((vfD { vd0 with slots := [(1, ⟨1, true, .cell 5, true, true, false, 0, 0⟩)] }).onFx fun x => { x with reqs := [] }), by decide +kernel⟩,
   ⟨st upDev, 1, _, by decide +kernel, rfl⟩,
   ⟨st upDev, 1, _, by decide +kernel, rfl⟩,
   ⟨st upDev, 1, _, by decide +kernel, rfl⟩,
   ⟨(vfD vd0).onFx fun x => { x with reqs := [⟨1, 5, .read, .remote 3 7⟩] }, 5, 3, 7, ((pFst (pSome (some (takeFirst (fun r : FReq => r.cell == (5 : Nat)) ((vfD vd0).onFx fun x => { x with reqs := [⟨1, 5, .read, .remote 3 7⟩] } : Dev).fx.reqs))))).get (by decide +kernel), ((pSnd (pSome (some (takeFirst (fun r : FReq => r.cell == (5 : Nat)) ((vfD vd0).onFx fun x => { x with reqs := [⟨1, 5, .read, .remote 3 7⟩] } : Dev).fx.reqs))))).get (by decide +kernel), by decide +kernel⟩,
   ⟨st ((vc (cmd 1 0 .running)).onFx fun x => { x with retry := [⟨1, 5, .wait 9, .nobody⟩] }), 1, ((pFst (pSome (some (takeFirst (fun r : FReq => r.id == (1 : Nat)) (st ((vc (cmd 1 0 .running)).onFx fun x => { x with retry := [⟨1, 5, .wait 9, .nobody⟩] }) : State).dev.fx.retry))))).get (by decide +kernel), ((pSnd (pSome (some (takeFirst (fun r : FReq => r.id == (1 : Nat)) (st ((vc (cmd 1 0 .running)).onFx fun x => { x with retry := [⟨1, 5, .wait 9, .nobody⟩] }) : State).dev.fx.retry))))).get (by decide +kernel), by decide +kernel⟩,
   ⟨st ((vc (cmd 1 0 .running)).onFx fun x => { x with reps := [⟨1, .timeout 0 0 7 2, .applied⟩] }), 1, 0, 0, 2, ((pFst (pSome (some (takeFirst (fun r : FRep => r.id == (1 : Nat)) (st ((vc (cmd 1 0 .running)).onFx fun x => { x with reps := [⟨1, .timeout 0 0 7 2, .applied⟩] }) : State).dev.fx.reps))))).get (by decide +kernel), ((pSnd (pSome (some (takeFirst (fun r : FRep => r.id == (1 : Nat)) (st ((vc (cmd 1 0 .running)).onFx fun x => { x with reps := [⟨1, .timeout 0 0 7 2, .applied⟩] }) : State).dev.fx.reps))))).get (by decide +kernel), ((pSome (some ((st ((vc (cmd 1 0 .running)).onFx fun x => { x with reps := [⟨1, .timeout 0 0 7 2, .applied⟩] }) : State).dev.cur? (0) (0))))).get (by decide +kernel), ((some ((((pSome (some ((st ((vc (cmd 1 0 .running)).onFx fun x => { x with reps := [⟨1, .timeout 0 0 7 2, .applied⟩] }) : State).dev.cur? (0) (0))))).get (by decide +kernel)).no))).get (by decide +kernel), by decide +kernel⟩,
   ⟨st ((vc (cmd 1 0 .running)).onFx fun x => { x with reps := [⟨1, .timeout 0 0 7 2, .alreadyFailed 5⟩] }), 1, 0, 0, 2, 5, ((pFst (pSome (some (takeFirst (fun r : FRep => r.id == (1 : Nat)) (st ((vc (cmd 1 0 .running)).onFx fun x => { x with reps := [⟨1, .timeout 0 0 7 2, .alreadyFailed 5⟩] }) : State).dev.fx.reps))))).get (by decide +kernel), ((pSnd (pSome (some (takeFirst (fun r : FRep => r.id == (1 : Nat)) (st ((vc (cmd 1 0 .running)).onFx fun x => { x with reps := [⟨1, .timeout 0 0 7 2, .alreadyFailed 5⟩] }) : State).dev.fx.reps))))).get (by decide +kernel), ((pSome (some ((st ((vc (cmd 1 0 .running)).onFx fun x => { x with reps := [⟨1, .timeout 0 0 7 2, .alreadyFailed 5⟩] }) : State).dev.cur? (0) (0))))).get (by decide +kernel), ((some ((((pSome (some ((st ((vc (cmd 1 0 .running)).onFx fun x => { x with reps := [⟨1, .timeout 0 0 7 2, .alreadyFailed 5⟩] }) : State).dev.cur? (0) (0))))).get (by decide +kernel)).no))).get (by decide +kernel), by decide +kernel⟩,
   ⟨st ((vc (cmd 1 0 .running)).onFx fun x => { x with reps := [⟨1, .timeout 0 0 7 2, .signalled⟩] }), 1, 0, 0, 2, ((pFst (pSome (some (takeFirst (fun r : FRep => r.id == (1 : Nat)) (st ((vc (cmd 1 0 .running)).onFx fun x => { x with reps := [⟨1, .timeout 0 0 7 2, .signalled⟩] }) : State).dev.fx.reps))))).get (by decide +kernel), ((pSnd (pSome (some (takeFirst (fun r : FRep => r.id == (1 : Nat)) (st ((vc (cmd 1 0 .running)).onFx fun x => { x with reps := [⟨1, .timeout 0 0 7 2, .signalled⟩] }) : State).dev.fx.reps))))).get (by decide +kernel), ((pSome (some ((st ((vc (cmd 1 0 .running)).onFx fun x => { x with reps := [⟨1, .timeout 0 0 7 2, .signalled⟩] }) : State).dev.cur? (0) (0))))).get (by decide +kernel), ((some ((((pSome (some ((st ((vc (cmd 1 0 .running)).onFx fun x => { x with reps := [⟨1, .timeout 0 0 7 2, .signalled⟩] }) : State).dev.cur? (0) (0))))).get (by decide +kernel)).no))).get (by decide +kernel), by decide +kernel⟩,
   ⟨st ((vc (cmd 1 0 .failing)).onFx fun x => { x with reps := [⟨1, .cmdFail 0 0 7 3, .applied⟩] }), 1, 0, 0, 3, ((pFst (pSome (some (takeFirst (fun r : FRep => r.id == (1 : Nat)) (st ((vc (cmd 1 0 .failing)).onFx fun x => { x with reps := [⟨1, .cmdFail 0 0 7 3, .applied⟩] }) : State).dev.fx.reps))))).get (by decide +kernel), ((pSnd (pSome (some (takeFirst (fun r : FRep => r.id == (1 : Nat)) (st ((vc (cmd 1 0 .failing)).onFx fun x => { x with reps := [⟨1, .cmdFail 0 0 7 3, .applied⟩] }) : State).dev.fx.reps))))).get (by decide +kernel), ((pSome (some ((st ((vc (cmd 1 0 .failing)).onFx fun x => { x with reps := [⟨1, .cmdFail 0 0 7 3, .applied⟩] }) : State).dev.cur? (0) (0))))).get (by decide +kernel), ((some ((((pSome (some ((st ((vc (cmd 1 0 .failing)).onFx fun x => { x with reps := [⟨1, .cmdFail 0 0 7 3, .applied⟩] }) : State).dev.cur? (0) (0))))).get (by decide +kernel)).no))).get (by decide +kernel), by decide +kernel⟩,
   ⟨st ((vc (cmd 1 0 .failing)).onFx fun x => { x with reps := [⟨1, .cmdFail 0 0 7 3, .alreadyFailed 5⟩] }), 1, 0, 0, 3, 5, ((pFst (pSome (some (takeFirst (fun r : FRep => r.id == (1 : Nat)) (st ((vc (cmd 1 0 .failing)).onFx fun x => { x with reps := [⟨1, .cmdFail 0 0 7 3, .alreadyFailed 5⟩] }) : State).dev.fx.reps))))).get (by decide +kernel), ((pSnd (pSome (some (takeFirst (fun r : FRep => r.id == (1 : Nat)) (st ((vc (cmd 1 0 .failing)).onFx fun x => { x with reps := [⟨1, .cmdFail 0 0 7 3, .alreadyFailed 5⟩] }) : State).dev.fx.reps))))).get (by decide +kernel), ((pSome (some ((st ((vc (cmd 1 0 .failing)).onFx fun x => { x with reps := [⟨1, .cmdFail 0 0 7 3, .alreadyFailed 5⟩] }) : State).dev.cur? (0) (0))))).get (by decide +kernel), ((some ((((pSome (some ((st ((vc (cmd 1 0 .failing)).onFx fun x => { x with reps := [⟨1, .cmdFail 0 0 7 3, .alreadyFailed 5⟩] }) : State).dev.cur? (0) (0))))).get (by decide +kernel)).no))).get (by decide +kernel), by decide +kernel⟩,
   ⟨st ((vc (cmd 1 0 .held)).onFx fun x => { x with reps := [⟨1, .signal 0 0 7, .refused 5⟩] }), 1, 0, 0, 5, ((pFst (pSome (some (takeFirst (fun r : FRep => r.id == (1 : Nat)) (st ((vc (cmd 1 0 .held)).onFx fun x => { x with reps := [⟨1, .signal 0 0 7, .refused 5⟩] }) : State).dev.fx.reps))))).get (by decide +kernel), ((pSnd (pSome (some (takeFirst (fun r : FRep => r.id == (1 : Nat)) (st ((vc (cmd 1 0 .held)).onFx fun x => { x with reps := [⟨1, .signal 0 0 7, .refused 5⟩] }) : State).dev.fx.reps))))).get (by decide +kernel), ((pSome (some ((st ((vc (cmd 1 0 .held)).onFx fun x => { x with reps := [⟨1, .signal 0 0 7, .refused 5⟩] }) : State).dev.cur? (0) (0))))).get (by decide +kernel), ((some ((((pSome (some ((st ((vc (cmd 1 0 .held)).onFx fun x => { x with reps := [⟨1, .signal 0 0 7, .refused 5⟩] }) : State).dev.cur? (0) (0))))).get (by decide +kernel)).no))).get (by decide +kernel), by decide +kernel⟩,
   ⟨st ((vc (cmd 1 0 .held)).onFx fun x => { x with reps := [⟨1, .signal 0 0 7, .applied⟩] }), 1, 0, 0, ((pFst (pSome (some (takeFirst (fun r : FRep => r.id == (1 : Nat)) (st ((vc (cmd 1 0 .held)).onFx fun x => { x with reps := [⟨1, .signal 0 0 7, .applied⟩] }) : State).dev.fx.reps))))).get (by decide +kernel), ((pSnd (pSome (some (takeFirst (fun r : FRep => r.id == (1 : Nat)) (st ((vc (cmd 1 0 .held)).onFx fun x => { x with reps := [⟨1, .signal 0 0 7, .applied⟩] }) : State).dev.fx.reps))))).get (by decide +kernel), ((pSome (some ((st ((vc (cmd 1 0 .held)).onFx fun x => { x with reps := [⟨1, .signal 0 0 7, .applied⟩] }) : State).dev.cur? (0) (0))))).get (by decide +kernel), ((some ((((pSome (some ((st ((vc (cmd 1 0 .held)).onFx fun x => { x with reps := [⟨1, .signal 0 0 7, .applied⟩] }) : State).dev.cur? (0) (0))))).get (by decide +kernel)).no))).get (by decide +kernel), by decide +kernel⟩,
   ⟨st (((vfD vd0).onFn 0 fun f => { f with taken := [(3, ⟨9, .signal, 0⟩)] }).onFx fun x => { x with reps := [⟨1, .admin 0 3, .applied⟩] }), 1, 0, 3, 9, 0, ((pFst (pSome (some (takeFirst (fun r : FRep => r.id == (1 : Nat)) (st (((vfD vd0).onFn 0 fun f => { f with taken := [(3, ⟨9, .signal, 0⟩)] }).onFx fun x => { x with reps := [⟨1, .admin 0 3, .applied⟩] }) : State).dev.fx.reps))))).get (by decide +kernel), ((pSnd (pSome (some (takeFirst (fun r : FRep => r.id == (1 : Nat)) (st (((vfD vd0).onFn 0 fun f => { f with taken := [(3, ⟨9, .signal, 0⟩)] }).onFx fun x => { x with reps := [⟨1, .admin 0 3, .applied⟩] }) : State).dev.fx.reps))))).get (by decide +kernel), by decide +kernel⟩,
   ⟨st ((vc (cmd 1 0 .running)).onFx fun x => { x with reps := [⟨1, .remote 3 5, .applied⟩] }), 1, 3, 5, ((pFst (pSome (some (takeFirst (fun r : FRep => r.id == (1 : Nat)) (st ((vc (cmd 1 0 .running)).onFx fun x => { x with reps := [⟨1, .remote 3 5, .applied⟩] }) : State).dev.fx.reps))))).get (by decide +kernel), ((pSnd (pSome (some (takeFirst (fun r : FRep => r.id == (1 : Nat)) (st ((vc (cmd 1 0 .running)).onFx fun x => { x with reps := [⟨1, .remote 3 5, .applied⟩] }) : State).dev.fx.reps))))).get (by decide +kernel), by decide +kernel⟩⟩

/-- Witnesses for FenceCellTable. -/
theorem wit_FenceCellTable :
    (∃ (k : Nat), ∃ j, j ≠ k) ∧
    (∃ (d : Dev), ∃ (k : Nat), ∃ (v : BitVec 64), d.cellLost k = false ∧ (d.cell k).state = 1 ∧ (d.cell k).value < v) ∧
    (∃ (d : Dev), ∃ (k : Nat), ∃ (v : BitVec 64), d.cellLost k = false ∧ (d.cell k).state = 1 ∧ v ≤ (d.cell k).value) ∧
    (∃ (d : Dev), ∃ (k : Nat), d.cellLost k = false ∧ (d.cell k).state = 2) ∧
    (∃ (d : Dev), ∃ (k : Nat), d.cellLost k = true) :=
  ⟨⟨5, 6, by decide +kernel⟩,
   ⟨(vfD vd0).onCell 5 fun c => { c with state := 1, lost := false, value := 4 }, 5, 5, by decide +kernel⟩,
   ⟨(vfD vd0).onCell 5 fun c => { c with state := 1, lost := false, value := 4 }, 5, 4, by decide +kernel⟩,
   ⟨(vfD vd0).onCell 5 fun c => { c with state := 2, lost := false, value := 4 }, 5, by decide +kernel⟩,
   ⟨(vfD vd0).onCell 5 fun c => { c with state := 1, lost := true, value := 4 }, 5, by decide +kernel⟩⟩

/-- Witnesses for SettledWaitsLeave. -/
theorem wit_SettledWaitsLeave :
    (∃ (d : Dev), ∃ (k : Nat), ∃ w, w ∈ d.fx.waits ∧ (¬ (w.cell = k ∧ (d.evalWait k w.t).isSome))) :=
  ⟨(vfD vd0).onFx fun x => { x with waits := [⟨5, 9, .nobody⟩] }, 5, ((pHead (some (((vfD vd0).onFx fun x => { x with waits := [⟨5, 9, .nobody⟩] } : Dev).fx.waits)))).get (by decide +kernel), by decide +kernel⟩

/-- Witnesses for Synchronisation. -/
theorem wit_Synchronisation :
    (∃ (s : State), ∃ (v : VDev), ∃ (w : BitVec 64), ∃ (i : Instr), ∃ x, x = (s.dev.vd v.val) ∧ (i = .xltSync v w ∨ i = .xltMoveAndSync v w) ∧ s.dev.barOpen v.val = true ∧ x.sync.isSome = true) ∧
    (∃ (s : State), ∃ (v : VDev), ∃ (w : BitVec 64), ∃ (i : Instr), ∃ x, x = (s.dev.vd v.val) ∧ ∃ op, op = (bits w.toNat 3 0) ∧ (i = .xltSync v w ∨ i = .xltMoveAndSync v w) ∧ s.dev.barOpen v.val = true ∧ x.sync = none ∧ op ≠ 1 ∧ op ≠ 2) ∧
    (∃ (s : State), ∃ (v : VDev), ∃ (w : BitVec 64), ∃ (i : Instr), ∃ f, f = (s.dev.fn v.val) ∧ ∃ x, x = (s.dev.vd v.val) ∧ ∃ op, op = (bits w.toNat 3 0) ∧ ∃ bad, bad = (f.masterBase.toNat % 4096 ≠ 0 ∨ 65536 < f.masterCount.toNat ∨ 65536 < f.syncSpan.toNat ∨ (op = 2 ∧ (f.moveVa.toNat % 65536 ≠ 0 ∨ f.movePages.toNat < 1 ∨ 16 < f.movePages.toNat))) ∧ (i = .xltSync v w ∨ i = .xltMoveAndSync v w) ∧ s.dev.barOpen v.val = true ∧ x.sync = none ∧ (op = 1 ∨ op = 2) ∧ bad) ∧
    (∃ (s : State), ∃ (v : VDev), ∃ (w : BitVec 64), ∃ (i : Instr), ∃ f, f = (s.dev.fn v.val) ∧ ∃ x, x = (s.dev.vd v.val) ∧ ∃ op, op = (bits w.toNat 3 0) ∧ ∃ bad, bad = (f.masterBase.toNat % 4096 ≠ 0 ∨ 65536 < f.masterCount.toNat ∨ 65536 < f.syncSpan.toNat ∨ (op = 2 ∧ (f.moveVa.toNat % 65536 ≠ 0 ∨ f.movePages.toNat < 1 ∨ 16 < f.movePages.toNat))) ∧ (i = .xltSync v w ∨ i = .xltMoveAndSync v w) ∧ s.dev.barOpen v.val = true ∧ x.sync = none ∧ (op = 1 ∨ op = 2) ∧ (¬ bad) ∧ f.masterCount.toNat < f.syncFirst.toNat + f.syncSpan.toNat) ∧
    (∃ (s : State), ∃ (v : VDev), ∃ (w : BitVec 64), ∃ (i : Instr), ∃ f, f = (s.dev.fn v.val) ∧ ∃ x, x = (s.dev.vd v.val) ∧ ∃ op, op = (bits w.toNat 3 0) ∧ ∃ (y : Sync), y = (⟨BitVec.ofNat 32 (w.toNat / 2 ^ 32), op == 2, .reading, f.syncFirst.toNat, f.syncSpan.toNat, f.masterCount.toNat, if op = 2 then movePagesOf f else [], [], [], [], [], []⟩) ∧ ∃ begun, begun = (s.dev.onVd v.val fun x => { x with sync := some y }) ∧ ∃ missing, missing = (masterMissing begun v.val y) ∧ (i = .xltSync v w ∨ i = .xltMoveAndSync v w) ∧ s.dev.barOpen v.val = true ∧ x.sync = none ∧ (op = 1 ∨ (op = 2 ∧ f.moveVa.toNat % 65536 = 0 ∧ 1 ≤ f.movePages.toNat ∧ f.movePages.toNat ≤ 16)) ∧ f.masterBase.toNat % 4096 = 0 ∧ f.masterCount.toNat ≤ 65536 ∧ f.syncSpan.toNat ≤ 65536 ∧ f.syncFirst.toNat + f.syncSpan.toNat ≤ f.masterCount.toNat ∧ f.syncFirst.toNat ≤ x.table.length ∧ (f.masterCount.toNat ≤ x.table.length ∨ f.masterCount.toNat ≤ f.syncFirst.toNat + f.syncSpan.toNat) ∧ 0 < f.syncSpan.toNat ∧ missing = []) ∧
    (∃ (s : State), ∃ (v : VDev), ∃ (w : BitVec 64), ∃ (i : Instr), ∃ f, f = (s.dev.fn v.val) ∧ ∃ x, x = (s.dev.vd v.val) ∧ ∃ op, op = (bits w.toNat 3 0) ∧ ∃ (y : Sync), y = (⟨BitVec.ofNat 32 (w.toNat / 2 ^ 32), op == 2, .reading, f.syncFirst.toNat, f.syncSpan.toNat, f.masterCount.toNat, if op = 2 then movePagesOf f else [], [], [], [], [], []⟩) ∧ ∃ begun, begun = (s.dev.onVd v.val fun x => { x with sync := some y }) ∧ ∃ missing, missing = (masterMissing begun v.val y) ∧ (i = .xltSync v w ∨ i = .xltMoveAndSync v w) ∧ s.dev.barOpen v.val = true ∧ x.sync = none ∧ (op = 1 ∨ (op = 2 ∧ f.moveVa.toNat % 65536 = 0 ∧ 1 ≤ f.movePages.toNat ∧ f.movePages.toNat ≤ 16)) ∧ f.masterBase.toNat % 4096 = 0 ∧ f.masterCount.toNat ≤ 65536 ∧ f.syncSpan.toNat ≤ 65536 ∧ f.syncFirst.toNat + f.syncSpan.toNat ≤ f.masterCount.toNat ∧ f.syncFirst.toNat ≤ x.table.length ∧ (f.masterCount.toNat ≤ x.table.length ∨ f.masterCount.toNat ≤ f.syncFirst.toNat + f.syncSpan.toNat) ∧ 0 < f.syncSpan.toNat ∧ missing ≠ [] ∧ (∀ p ∈ missing, begun.priRefused v.val p = false)) ∧
    (∃ (s : State), ∃ (v : VDev), ∃ (w : BitVec 64), ∃ (i : Instr), ∃ f, f = (s.dev.fn v.val) ∧ ∃ x, x = (s.dev.vd v.val) ∧ ∃ op, op = (bits w.toNat 3 0) ∧ ∃ (y : Sync), y = (⟨BitVec.ofNat 32 (w.toNat / 2 ^ 32), op == 2, .reading, f.syncFirst.toNat, f.syncSpan.toNat, f.masterCount.toNat, if op = 2 then movePagesOf f else [], [], [], [], [], []⟩) ∧ ∃ begun, begun = (s.dev.onVd v.val fun x => { x with sync := some y }) ∧ ∃ missing, missing = (masterMissing begun v.val y) ∧ (i = .xltSync v w ∨ i = .xltMoveAndSync v w) ∧ s.dev.barOpen v.val = true ∧ x.sync = none ∧ (op = 1 ∨ (op = 2 ∧ f.moveVa.toNat % 65536 = 0 ∧ 1 ≤ f.movePages.toNat ∧ f.movePages.toNat ≤ 16)) ∧ f.masterBase.toNat % 4096 = 0 ∧ f.masterCount.toNat ≤ 65536 ∧ f.syncSpan.toNat ≤ 65536 ∧ f.syncFirst.toNat + f.syncSpan.toNat ≤ f.masterCount.toNat ∧ f.syncFirst.toNat ≤ x.table.length ∧ (f.masterCount.toNat ≤ x.table.length ∨ f.masterCount.toNat ≤ f.syncFirst.toNat + f.syncSpan.toNat) ∧ 0 < f.syncSpan.toNat ∧ (∃ p ∈ missing, begun.priRefused v.val p = true)) ∧
    (∃ (s : State), ∃ (v : VDev), ∃ (y : Sync), (s.dev.vd v.val).sync = some y ∧ y.step = .reading) ∧
    (∃ (s : State), ∃ (v : VDev), s.dev.barOpen v.val = false) ∧
    (∃ (s : State), ∃ (v : VDev), ∃ (n : XNode), ∃ (y : Sync), (s.dev.vd v.val).sync = some y ∧ y.sent.contains n = true) ∧
    (∃ (s : State), ∃ (v : VDev), ∃ (y : Sync), ∃ (n : XNode), (s.dev.vd v.val).sync = some y ∧ y.acks = [n] ∧ y.sent = [] ∧ y.step = .invalidating) ∧
    (∃ (s : State), ∃ (v : VDev), ∃ (n : XNode), ∃ (y : Sync), (s.dev.vd v.val).sync = some y ∧ y.acks.contains n = true ∧ (y.acks.filter (· != n) ≠ [] ∨ y.sent ≠ [])) ∧
    (∃ (s : State), ∃ (v : VDev), ∃ (ok : Bool), ∃ (y : Sync), ∃ (p : Nat), ∃ (rest : List Nat), (s.dev.vd v.val).sync = some y ∧ y.moveLeft = p :: rest ∧ y.step = .copying ∧ (s.dev.vd v.val).mirrorLost = false ∧ pageQuiet s.dev v.val p = true ∧ (ok = true → moveMissing s.dev v.val p y = [])) ∧
    (∃ (s : State), ∃ (v : VDev), ∃ (y : Sync), ∃ (p : Nat), ∃ (rest : List Nat), ∃ missing, missing = (moveMissing s.dev v.val p y) ∧ (s.dev.vd v.val).sync = some y ∧ y.moveLeft = p :: rest ∧ y.step = .copying ∧ (s.dev.vd v.val).mirrorLost = false ∧ pageQuiet s.dev v.val p = true ∧ missing ≠ [] ∧ (∃ n ∈ missing, s.dev.priRefused v.val n = true)) ∧
    (∃ (s : State), ∃ (v : VDev), ∃ (y : Sync), ∃ (p : Nat), ∃ (rest : List Nat), ∃ missing, missing = (moveMissing s.dev v.val p y) ∧ (s.dev.vd v.val).sync = some y ∧ y.moveLeft = p :: rest ∧ y.step = .copying ∧ (s.dev.vd v.val).mirrorLost = false ∧ pageQuiet s.dev v.val p = true ∧ missing ≠ [] ∧ (∀ n ∈ missing, s.dev.priRefused v.val n = false)) ∧
    (∃ (s : State), ∃ (v : VDev), (s.dev.vd v.val).mirrorLost = true) ∧
    (∃ (s : State), ∃ (v : VDev), (s.dev.vd v.val).mirrorLost = false) :=
  ⟨⟨st (vfD { vd0 with sync := some ⟨3, false, .reading, 0, 1, 1, [], [], [ent], [], [], []⟩, table := [ent] }), 0, 1, .xltSync 0 1, _, rfl, by decide +kernel⟩,
   ⟨st (vfD vd0), 0, 0x30000000F, .xltMoveAndSync 0 0x30000000F, _, rfl, _, rfl, by decide +kernel⟩,
   ⟨st ((vfD vd0).onFn 0 fun f => { f with movePages := 17 }), 0, 2, .xltMoveAndSync 0 2, _, rfl, _, rfl, _, rfl, _, rfl, by decide +kernel⟩,
   ⟨st ((vfD vd0).onFn 0 fun f => { f with masterCount := 1, syncFirst := 1, syncSpan := 1 }), 0, 1, .xltSync 0 1, _, rfl, _, rfl, _, rfl, _, rfl, by decide +kernel⟩,
   ⟨st (((vfD vd0).onXlt fun x => { x with atc := [(0, 0, true, false)] }).onFn 0 fun f => { f with masterCount := 1, syncSpan := 1 }), 0, 0x300000001, .xltSync 0 0x300000001, _, rfl, _, rfl, _, rfl, _, rfl, _, rfl, _, rfl, by decide +kernel⟩,
   ⟨st ((vfD vd0).onFn 0 fun f => { f with masterCount := 1, syncSpan := 1 }), 0, 0x300000001, .xltSync 0 0x300000001, _, rfl, _, rfl, _, rfl, _, rfl, _, rfl, _, rfl, by decide +kernel⟩,
   ⟨st (((vfD vd0).onXlt fun x => { x with atc := [(0, 0, false, false)], priOff := [0] }).onFn 0 fun f => { f with masterCount := 1, syncSpan := 1 }), 0, 0x300000001, .xltSync 0 0x300000001, _, rfl, _, rfl, _, rfl, _, rfl, _, rfl, _, rfl, by decide +kernel⟩,
   ⟨st (vfD { vd0 with sync := some ⟨3, false, .reading, 0, 1, 1, [], [], [ent], [], [], []⟩, table := [ent] }), 0, ((pSome (some (((st (vfD { vd0 with sync := some ⟨3, false, .reading, 0, 1, 1, [], [], [ent], [], [], []⟩, table := [ent] }) : State).dev.vd (0 : VDev).val).sync)))).get (by decide +kernel), by decide +kernel⟩,
   ⟨State.reset, 0, by decide +kernel⟩,
   ⟨st (vfD { vd0 with sync := some ⟨3, false, .invalidating, 0, 1, 1, [], [], [ent], [.hub 1], [], []⟩, table := [ent] }), 0, .hub 1, ((pSome (some (((st (vfD { vd0 with sync := some ⟨3, false, .invalidating, 0, 1, 1, [], [], [ent], [.hub 1], [], []⟩, table := [ent] }) : State).dev.vd (0 : VDev).val).sync)))).get (by decide +kernel), by decide +kernel⟩,
   ⟨st (vfD { vd0 with sync := some ⟨3, false, .invalidating, 0, 1, 1, [], [], [ent], [], [.hub 1], []⟩, table := [ent] }), 0, ((pSome (some (((st (vfD { vd0 with sync := some ⟨3, false, .invalidating, 0, 1, 1, [], [], [ent], [], [.hub 1], []⟩, table := [ent] }) : State).dev.vd (0 : VDev).val).sync)))).get (by decide +kernel), ((pHead (some ((((pSome (some (((st (vfD { vd0 with sync := some ⟨3, false, .invalidating, 0, 1, 1, [], [], [ent], [], [.hub 1], []⟩, table := [ent] }) : State).dev.vd (0 : VDev).val).sync)))).get (by decide +kernel)).acks)))).get (by decide +kernel), by decide +kernel⟩,
   ⟨st (vfD { vd0 with sync := some ⟨3, false, .invalidating, 0, 1, 1, [], [], [ent], [], [.hub 1, .cluster 0], []⟩, table := [ent] }), 0, .cluster 0, ((pSome (some (((st (vfD { vd0 with sync := some ⟨3, false, .invalidating, 0, 1, 1, [], [], [ent], [], [.hub 1, .cluster 0], []⟩, table := [ent] }) : State).dev.vd (0 : VDev).val).sync)))).get (by decide +kernel), by decide +kernel⟩,
   ⟨st (vfD { vd0 with sync := some ⟨3, true, .copying, 0, 1, 1, [5], [5], [ent], [], [], []⟩, table := [ent] }), 0, true, ((pSome (some (((st (vfD { vd0 with sync := some ⟨3, true, .copying, 0, 1, 1, [5], [5], [ent], [], [], []⟩, table := [ent] }) : State).dev.vd (0 : VDev).val).sync)))).get (by decide +kernel), ((pHead (some ((((pSome (some (((st (vfD { vd0 with sync := some ⟨3, true, .copying, 0, 1, 1, [5], [5], [ent], [], [], []⟩, table := [ent] }) : State).dev.vd (0 : VDev).val).sync)))).get (by decide +kernel)).moveLeft)))).get (by decide +kernel), ((pTail (some ((((pSome (some (((st (vfD { vd0 with sync := some ⟨3, true, .copying, 0, 1, 1, [5], [5], [ent], [], [], []⟩, table := [ent] }) : State).dev.vd (0 : VDev).val).sync)))).get (by decide +kernel)).moveLeft)))).get (by decide +kernel), by decide +kernel⟩,
   ⟨st ((vfD { vd0 with sync := some ⟨3, true, .copying, 0, 1, 1, [5], [5], [ent], [], [], []⟩, table := [{ ent with res := 2, pbase := 0x40000000 }] }).onXlt fun x => { x with priOff := [0], atc := [(0, 0x40050, false, false)] }), 0, ((pSome (some (((st ((vfD { vd0 with sync := some ⟨3, true, .copying, 0, 1, 1, [5], [5], [ent], [], [], []⟩, table := [{ ent with res := 2, pbase := 0x40000000 }] }).onXlt fun x => { x with priOff := [0], atc := [(0, 0x40050, false, false)] }) : State).dev.vd (0 : VDev).val).sync)))).get (by decide +kernel), ((pHead (some ((((pSome (some (((st ((vfD { vd0 with sync := some ⟨3, true, .copying, 0, 1, 1, [5], [5], [ent], [], [], []⟩, table := [{ ent with res := 2, pbase := 0x40000000 }] }).onXlt fun x => { x with priOff := [0], atc := [(0, 0x40050, false, false)] }) : State).dev.vd (0 : VDev).val).sync)))).get (by decide +kernel)).moveLeft)))).get (by decide +kernel), ((pTail (some ((((pSome (some (((st ((vfD { vd0 with sync := some ⟨3, true, .copying, 0, 1, 1, [5], [5], [ent], [], [], []⟩, table := [{ ent with res := 2, pbase := 0x40000000 }] }).onXlt fun x => { x with priOff := [0], atc := [(0, 0x40050, false, false)] }) : State).dev.vd (0 : VDev).val).sync)))).get (by decide +kernel)).moveLeft)))).get (by decide +kernel), _, rfl, by decide +kernel⟩,
   ⟨st (vfD { vd0 with sync := some ⟨3, true, .copying, 0, 1, 1, [5], [5], [ent], [], [], []⟩, table := [{ ent with res := 2, pbase := 0x40000000 }] }), 0, ((pSome (some (((st (vfD { vd0 with sync := some ⟨3, true, .copying, 0, 1, 1, [5], [5], [ent], [], [], []⟩, table := [{ ent with res := 2, pbase := 0x40000000 }] }) : State).dev.vd (0 : VDev).val).sync)))).get (by decide +kernel), ((pHead (some ((((pSome (some (((st (vfD { vd0 with sync := some ⟨3, true, .copying, 0, 1, 1, [5], [5], [ent], [], [], []⟩, table := [{ ent with res := 2, pbase := 0x40000000 }] }) : State).dev.vd (0 : VDev).val).sync)))).get (by decide +kernel)).moveLeft)))).get (by decide +kernel), ((pTail (some ((((pSome (some (((st (vfD { vd0 with sync := some ⟨3, true, .copying, 0, 1, 1, [5], [5], [ent], [], [], []⟩, table := [{ ent with res := 2, pbase := 0x40000000 }] }) : State).dev.vd (0 : VDev).val).sync)))).get (by decide +kernel)).moveLeft)))).get (by decide +kernel), _, rfl, by decide +kernel⟩,
   ⟨st (vfD { vd0 with mirrorLost := true }), 0, by decide +kernel⟩,
   ⟨State.reset, 0, by decide +kernel⟩⟩

/-- Witnesses for OnlyLawfulTablesAreAdopted. -/
theorem wit_OnlyLawfulTablesAreAdopted :
    (∃ (s : State), ∃ (v : Nat), ∃ (raw : List (List Byte)), ∃ x, x = (s.dev.vd v) ∧ ∃ (y : Sync), ∃ next, next = ((x.table.take y.first ++ raw.map entryOf ++ x.table.drop (y.first + y.span)).take y.count) ∧ ∃ lawful, lawful = (tableOrdered next && (raw.all reservedZero && next.all (entryFieldOk s.dev v)) && !tableAlias next) ∧ (s.dev.vd v).sync = some y ∧ lawful = true ∧ y.move = false) ∧
    (∃ (s : State), ∃ (v : Nat), ∃ (raw : List (List Byte)), ∃ x, x = (s.dev.vd v) ∧ ∃ (y : Sync), ∃ next, next = ((x.table.take y.first ++ raw.map entryOf ++ x.table.drop (y.first + y.span)).take y.count) ∧ ∃ lawful, lawful = (tableOrdered next && (raw.all reservedZero && next.all (entryFieldOk s.dev v)) && !tableAlias next) ∧ (s.dev.vd v).sync = some y ∧ lawful = false) ∧
    (∃ (s : State), ∃ (v : Nat), ∃ (y : Sync), (s.dev.vd v).sync = some y ∧ y.move = true ∧ y.pages ≠ []) :=
  ⟨⟨st (vfD { vd0 with sync := some ⟨3, false, .reading, 1, 0, 1, [], [], [ent], [], [], []⟩, table := [ent] }), 0, [], _, rfl, ((pSome (some (((st (vfD { vd0 with sync := some ⟨3, false, .reading, 1, 0, 1, [], [], [ent], [], [], []⟩, table := [ent] }) : State).dev.vd (0 : Nat)).sync)))).get (by decide +kernel), _, rfl, _, rfl, by decide +kernel⟩,
   ⟨st (vfD { vd0 with sync := some ⟨3, false, .reading, 0, 1, 1, [], [], [ent], [], [], []⟩, table := [ent] }), 0, [natLe 32 1], _, rfl, ((pSome (some (((st (vfD { vd0 with sync := some ⟨3, false, .reading, 0, 1, 1, [], [], [ent], [], [], []⟩, table := [ent] }) : State).dev.vd (0 : Nat)).sync)))).get (by decide +kernel), _, rfl, _, rfl, by decide +kernel⟩,
   ⟨st (vfD { vd0 with sync := some ⟨3, true, .copying, 0, 1, 1, [5], [5], [ent], [], [], []⟩, table := [ent] }), 0, ((pSome (some (((st (vfD { vd0 with sync := some ⟨3, true, .copying, 0, 1, 1, [5], [5], [ent], [], [], []⟩, table := [ent] }) : State).dev.vd (0 : Nat)).sync)))).get (by decide +kernel), by decide +kernel⟩⟩

/-- Witnesses for WalksFaultsAndPages. -/
theorem wit_WalksFaultsAndPages :
    (∃ (s : State), ∃ (v : VDev), ∃ (n : XNode), ∃ (va : BitVec 64), (s.dev.vd v.val).mirrorLost = false ∧ s.dev.xlt.walks = [⟨v.val, n, va.toNat, none⟩]) ∧
    (∃ (s : State), ∃ (v : VDev), (s.dev.vd v.val).mirrorLost = true) ∧
    (∃ (s : State), ∃ (v : VDev), ∃ (n : XNode), ∃ (va : BitVec 64), ∃ (e : Option REntry), ∃ (g : BitVec 32), s.dev.xlt.walks = [⟨v.val, n, va.toNat, some (e, g)⟩] ∧ s.dev.xlt.acked = [] ∧ s.dev.mc.reqs = []) ∧
    (∃ (s : State), ∃ (v : VDev), ∃ (n : XNode), ∃ (va : BitVec 64), ∃ (k : Walk), ∃ (rest : List Walk), ∃ (e : REntry), ∃ (g : BitVec 32), (takeFirst (fun x : Walk => x.vdev == v.val && x.node == n && x.va == va.toNat && x.reply.isSome) s.dev.xlt.walks = some (k, rest)) ∧ k.reply = some (some e, g) ∧ walkStale s.dev v.val n e g = true) ∧
    (∃ (s : State), ∃ (v : VDev), ∃ (n : XNode), ∃ (va : BitVec 64), ∃ (k : Walk), ∃ (rest : List Walk), ∃ (e : REntry), ∃ (g : BitVec 32), (takeFirst (fun x : Walk => x.vdev == v.val && x.node == n && x.va == va.toNat && x.reply.isSome) s.dev.xlt.walks = some (k, rest)) ∧ k.reply = some (some e, g) ∧ walkStale s.dev v.val n e g = false) ∧
    (∃ (s : State), ∃ (id : Nat), ∃ (m : FaultMsg), ∃ (rest : List FaultMsg), (takeFirst (fun m : FaultMsg => m.id == id) s.dev.xlt.faultMsgs = some (m, rest))) ∧
    (∃ (s : State), ∃ (id : Nat), ∃ (m : FaultMsg), ∃ (rest : List FaultMsg), (takeFirst (fun m : FaultMsg => m.id == id) s.dev.xlt.faultFull = some (m, rest))) ∧
    (∃ (d : Dev), ∃ (m : FaultMsg), m.gen = (d.vd m.vdev).gen ∧ (d.vd m.vdev).sync = none ∧ d.xlt.faults.length < 4096 ∧ ((d.xlt.faults.find? fun e => e.2.vdev == m.vdev && e.2.page == pageOf m.va && (e.2.kind == m.kind || e.2.kind == blockKind)) = none)) ∧
    (∃ (d : Dev), ∃ (m : FaultMsg), ∃ (i : Nat), ∃ (e : FaultEnt), ((d.xlt.faults.find? fun e => e.2.vdev == m.vdev && e.2.page == pageOf m.va && e.2.kind == blockKind) = some (i, e))) ∧
    (∃ (s : State), ∃ (v : VDev), ∃ (slots : List (Nat × Nat)), Tab.get? s.dev.xlt.batches v.val = some slots) ∧
    (∃ (s : State), ∃ (v : VDev), ∃ (r : BitVec 64), ∃ (e : FaultEnt), s.dev.barOpen v.val = true ∧ bitAt r.toNat 0 = true ∧ Tab.get? s.dev.xlt.faults (bits (r.toNat / 2 ^ 32) 11 0) = some e ∧ e.vdev = v.val ∧ faultId (bits (r.toNat / 2 ^ 32) 11 0) e.use = r.toNat / 2 ^ 32 ∧ e.kind = blockKind) ∧
    (∃ (s : State), ∃ (v : VDev), ∃ (r : BitVec 64), ∃ (e : FaultEnt), s.dev.barOpen v.val = true ∧ bitAt r.toNat 0 = true ∧ Tab.get? s.dev.xlt.faults (bits (r.toNat / 2 ^ 32) 11 0) = some e ∧ e.vdev = v.val ∧ faultId (bits (r.toNat / 2 ^ 32) 11 0) e.use = r.toNat / 2 ^ 32 ∧ e.kind ≠ blockKind) ∧
    (∃ (d : Dev), ∃ (i : Nat), (∀ e, (i, e) ∈ d.xlt.faults → d.unposted i e = false)) ∧
    (∃ (s : State), ∃ (v : VDev), ∃ (r : BitVec 64), (s.dev.barOpen v.val = false ∨ bitAt r.toNat 0 = false)) ∧
    (∃ (s : State), s.dev.mc.host = [] ∧ s.dev.xlt.atsInval = []) ∧
    (∃ (s : State), ∃ (fn : FnId), ∃ (page : Nat), ∃ (r : Bool), ∃ (w : Bool), s.dev.xlt.atsOut.contains (fn.val, page) = true ∧ (r || w) = true) ∧
    (∃ (s : State), ∃ (fn : FnId), ∃ (page : Nat), ∃ (r : Bool), ∃ (w : Bool), s.dev.xlt.atsOut.contains (fn.val, page) = true ∧ (r || w) = false ∧ s.dev.xlt.priOff.contains fn.val = false) ∧
    (∃ (s : State), ∃ (fn : FnId), ∃ (page : Nat), ∃ (r : Bool), ∃ (w : Bool), s.dev.xlt.atsOut.contains (fn.val, page) = true ∧ (r || w) = false ∧ s.dev.xlt.priOff.contains fn.val = true) ∧
    (∃ (s : State), ∃ (fn : FnId), ∃ (page : Nat), ((s.dev.xlt.pageReqs.any fun x => x.fn == fn.val && x.page == page) = true)) ∧
    (∃ (s : State), ∃ (id : Nat), ∃ (r : HostReq), ∃ (rest : List HostReq), (takeFirst (fun r : HostReq => r.id == id) s.dev.mc.host = some (r, rest)) ∧ s.dev.dmaBars r = false) ∧
    (∃ (s : State), ∃ (id : Nat), ∃ (r : HostReq), ∃ (rest : List HostReq), (takeFirst (fun r : HostReq => r.id == id) s.dev.mc.host = some (r, rest)) ∧ r.retried = false) ∧
    (∃ (s : State), ∃ (id : Nat), ∃ (r : HostReq), ∃ (rest : List HostReq), (takeFirst (fun r : HostReq => r.id == id) s.dev.mc.host = some (r, rest)) ∧ r.retried = true ∧ r.queue = adminQueue) ∧
    (∃ (s : State), ∃ (id : Nat), ∃ (r : HostReq), ∃ (rest : List HostReq), ∃ (q : Nat), ∃ (x : Queue), ∃ (c : Cmd), (takeFirst (fun r : HostReq => r.id == id) s.dev.mc.host = some (r, rest)) ∧ r.retried = true ∧ r.queue ≠ adminQueue ∧ (s.dev.vd r.vdev).queues = [(q, x)] ∧ x.cur = some c ∧ c.no = r.cmd) :=
  ⟨⟨st ((vfD vd0).onXlt fun x => { x with walks := [⟨0, .hub 0, 0x5000, none⟩] }), 0, .hub 0, 0x5000, by decide +kernel⟩,
   ⟨st (vfD { vd0 with mirrorLost := true }), 0, by decide +kernel⟩,
   ⟨st ((vfD vd0).onXlt fun x => { x with walks := [⟨0, .hub 0, 0x5000, some (some ent, 0)⟩] }), 0, .hub 0, 0x5000, some ent, 0, by decide +kernel⟩,
   ⟨st ((vfD vd0).onXlt fun x => { x with walks := [⟨0, .hub 0, 0x5000, some (some ent, 0)⟩], acked := [(.hub 0, 0, 0, 65536, 1)] }), 0, .hub 0, 0x5000, ((pFst (pSome (some (takeFirst (fun x : Walk => x.vdev == (0 : VDev).val && x.node == (.hub 0 : XNode) && x.va == (0x5000 : BitVec 64).toNat && x.reply.isSome) (st ((vfD vd0).onXlt fun x => { x with walks := [⟨0, .hub 0, 0x5000, some (some ent, 0)⟩], acked := [(.hub 0, 0, 0, 65536, 1)] }) : State).dev.xlt.walks))))).get (by decide +kernel), ((pSnd (pSome (some (takeFirst (fun x : Walk => x.vdev == (0 : VDev).val && x.node == (.hub 0 : XNode) && x.va == (0x5000 : BitVec 64).toNat && x.reply.isSome) (st ((vfD vd0).onXlt fun x => { x with walks := [⟨0, .hub 0, 0x5000, some (some ent, 0)⟩], acked := [(.hub 0, 0, 0, 65536, 1)] }) : State).dev.xlt.walks))))).get (by decide +kernel), ((pSome (pFst (pSome (some ((((pFst (pSome (some (takeFirst (fun x : Walk => x.vdev == (0 : VDev).val && x.node == (.hub 0 : XNode) && x.va == (0x5000 : BitVec 64).toNat && x.reply.isSome) (st ((vfD vd0).onXlt fun x => { x with walks := [⟨0, .hub 0, 0x5000, some (some ent, 0)⟩], acked := [(.hub 0, 0, 0, 65536, 1)] }) : State).dev.xlt.walks))))).get (by decide +kernel)).reply)))))).get (by decide +kernel), ((pSnd (pSome (some ((((pFst (pSome (some (takeFirst (fun x : Walk => x.vdev == (0 : VDev).val && x.node == (.hub 0 : XNode) && x.va == (0x5000 : BitVec 64).toNat && x.reply.isSome) (st ((vfD vd0).onXlt fun x => { x with walks := [⟨0, .hub 0, 0x5000, some (some ent, 0)⟩], acked := [(.hub 0, 0, 0, 65536, 1)] }) : State).dev.xlt.walks))))).get (by decide +kernel)).reply))))).get (by decide +kernel), by decide +kernel⟩,
   ⟨st ((vfD vd0).onXlt fun x => { x with walks := [⟨0, .hub 0, 0x5000, some (some ent, 0)⟩] }), 0, .hub 0, 0x5000, ((pFst (pSome (some (takeFirst (fun x : Walk => x.vdev == (0 : VDev).val && x.node == (.hub 0 : XNode) && x.va == (0x5000 : BitVec 64).toNat && x.reply.isSome) (st ((vfD vd0).onXlt fun x => { x with walks := [⟨0, .hub 0, 0x5000, some (some ent, 0)⟩] }) : State).dev.xlt.walks))))).get (by decide +kernel), ((pSnd (pSome (some (takeFirst (fun x : Walk => x.vdev == (0 : VDev).val && x.node == (.hub 0 : XNode) && x.va == (0x5000 : BitVec 64).toNat && x.reply.isSome) (st ((vfD vd0).onXlt fun x => { x with walks := [⟨0, .hub 0, 0x5000, some (some ent, 0)⟩] }) : State).dev.xlt.walks))))).get (by decide +kernel), ((pSome (pFst (pSome (some ((((pFst (pSome (some (takeFirst (fun x : Walk => x.vdev == (0 : VDev).val && x.node == (.hub 0 : XNode) && x.va == (0x5000 : BitVec 64).toNat && x.reply.isSome) (st ((vfD vd0).onXlt fun x => { x with walks := [⟨0, .hub 0, 0x5000, some (some ent, 0)⟩] }) : State).dev.xlt.walks))))).get (by decide +kernel)).reply)))))).get (by decide +kernel), ((pSnd (pSome (some ((((pFst (pSome (some (takeFirst (fun x : Walk => x.vdev == (0 : VDev).val && x.node == (.hub 0 : XNode) && x.va == (0x5000 : BitVec 64).toNat && x.reply.isSome) (st ((vfD vd0).onXlt fun x => { x with walks := [⟨0, .hub 0, 0x5000, some (some ent, 0)⟩] }) : State).dev.xlt.walks))))).get (by decide +kernel)).reply))))).get (by decide +kernel), by decide +kernel⟩,
   ⟨st ((vfD vd0).onXlt fun x => { x with faultMsgs := [⟨1, 0, 0x5000, 1, 1, 0, 0, false, .fetch 0 0⟩] }), 1, ((pFst (pSome (some (takeFirst (fun m : FaultMsg => m.id == (1 : Nat)) (st ((vfD vd0).onXlt fun x => { x with faultMsgs := [⟨1, 0, 0x5000, 1, 1, 0, 0, false, .fetch 0 0⟩] }) : State).dev.xlt.faultMsgs))))).get (by decide +kernel), ((pSnd (pSome (some (takeFirst (fun m : FaultMsg => m.id == (1 : Nat)) (st ((vfD vd0).onXlt fun x => { x with faultMsgs := [⟨1, 0, 0x5000, 1, 1, 0, 0, false, .fetch 0 0⟩] }) : State).dev.xlt.faultMsgs))))).get (by decide +kernel), by decide +kernel⟩,
   ⟨st ((vfD vd0).onXlt fun x => { x with faultFull := [⟨1, 0, 0x5000, 1, 1, 0, 0, false, .fetch 0 0⟩] }), 1, ((pFst (pSome (some (takeFirst (fun m : FaultMsg => m.id == (1 : Nat)) (st ((vfD vd0).onXlt fun x => { x with faultFull := [⟨1, 0, 0x5000, 1, 1, 0, 0, false, .fetch 0 0⟩] }) : State).dev.xlt.faultFull))))).get (by decide +kernel), ((pSnd (pSome (some (takeFirst (fun m : FaultMsg => m.id == (1 : Nat)) (st ((vfD vd0).onXlt fun x => { x with faultFull := [⟨1, 0, 0x5000, 1, 1, 0, 0, false, .fetch 0 0⟩] }) : State).dev.xlt.faultFull))))).get (by decide +kernel), by decide +kernel⟩,
   ⟨vfD vd0, ⟨1, 0, 0x5000, 1, 1, 0, 0, false, .fetch 0 0⟩, by decide +kernel⟩,
   ⟨(vfD vd0).onXlt fun x => { x with faults := [(4095, ⟨0, 0, 0, 1, 0, 0, 0, 3, []⟩)] }, ⟨1, 0, 0x5000, 1, 1, 0, 0, false, .fetch 0 0⟩, ((pFst (pSome (some ((((vfD vd0).onXlt fun x => { x with faults := [(4095, ⟨0, 0, 0, 1, 0, 0, 0, 3, []⟩)] } : Dev).xlt.faults.find? fun e => e.2.vdev == (⟨1, 0, 0x5000, 1, 1, 0, 0, false, .fetch 0 0⟩ : FaultMsg).vdev && e.2.page == pageOf (⟨1, 0, 0x5000, 1, 1, 0, 0, false, .fetch 0 0⟩ : FaultMsg).va && e.2.kind == blockKind)))))).get (by decide +kernel), ((pSnd (pSome (some ((((vfD vd0).onXlt fun x => { x with faults := [(4095, ⟨0, 0, 0, 1, 0, 0, 0, 3, []⟩)] } : Dev).xlt.faults.find? fun e => e.2.vdev == (⟨1, 0, 0x5000, 1, 1, 0, 0, false, .fetch 0 0⟩ : FaultMsg).vdev && e.2.page == pageOf (⟨1, 0, 0x5000, 1, 1, 0, 0, false, .fetch 0 0⟩ : FaultMsg).va && e.2.kind == blockKind)))))).get (by decide +kernel), by decide +kernel⟩,
   ⟨st ((vfD vd0).onXlt fun x => { x with batches := [(0, [(0, 1)])] }), 0, ((pSome (some (Tab.get? (st ((vfD vd0).onXlt fun x => { x with batches := [(0, [(0, 1)])] }) : State).dev.xlt.batches (0 : VDev).val)))).get (by decide +kernel), by decide +kernel⟩,
   ⟨st ((vfD vd0).onXlt fun x => { x with faults := [(4095, ⟨0, 0, 0, 1, 0, 0, 0, 3, []⟩)] }), 0, 0x3FFF00000001, ((pSome (some (Tab.get? (st ((vfD vd0).onXlt fun x => { x with faults := [(4095, ⟨0, 0, 0, 1, 0, 0, 0, 3, []⟩)] }) : State).dev.xlt.faults (bits ((0x3FFF00000001 : BitVec 64).toNat / 2 ^ 32) 11 0))))).get (by decide +kernel), by decide +kernel⟩,
   ⟨st ((vfD vd0).onXlt fun x => { x with faults := [(4095, ⟨0, 5, 1, 1, 0, 0, 0, 3, []⟩)] }), 0, 0x3FFF00000001, ((pSome (some (Tab.get? (st ((vfD vd0).onXlt fun x => { x with faults := [(4095, ⟨0, 5, 1, 1, 0, 0, 0, 3, []⟩)] }) : State).dev.xlt.faults (bits ((0x3FFF00000001 : BitVec 64).toNat / 2 ^ 32) 11 0))))).get (by decide +kernel), by decide +kernel⟩,
   ⟨vfD vd0, 5, fun e h => absurd h List.not_mem_nil⟩,
   ⟨State.reset, 0, 0, by decide +kernel⟩,
   ⟨State.reset, by decide +kernel⟩,
   ⟨st ((vfD vd0).onXlt fun x => { x with atsOut := [(256, 3)] }), 256, 3, false, true, by decide +kernel⟩,
   ⟨st ((vfD vd0).onXlt fun x => { x with atsOut := [(0, 3)] }), 0, 3, false, false, by decide +kernel⟩,
   ⟨st ((vfD vd0).onXlt fun x => { x with atsOut := [(0, 3)], priOff := [0] }), 0, 3, false, false, by decide +kernel⟩,
   ⟨st ((vfD vd0).onXlt fun x => { x with pageReqs := [⟨0, 3⟩] }), 0, 3, by decide +kernel⟩,
   ⟨st ((vfD vd0).onMc fun m => { m with host := [⟨1, 0, 0, 0, 7, 0x40000000, 64, none, .none, false⟩] }), 1, ((pFst (pSome (some (takeFirst (fun r : HostReq => r.id == (1 : Nat)) (st ((vfD vd0).onMc fun m => { m with host := [⟨1, 0, 0, 0, 7, 0x40000000, 64, none, .none, false⟩] }) : State).dev.mc.host))))).get (by decide +kernel), ((pSnd (pSome (some (takeFirst (fun r : HostReq => r.id == (1 : Nat)) (st ((vfD vd0).onMc fun m => { m with host := [⟨1, 0, 0, 0, 7, 0x40000000, 64, none, .none, false⟩] }) : State).dev.mc.host))))).get (by decide +kernel), by decide +kernel⟩,
   ⟨st ((vfD vd0).onMc fun m => { m with host := [⟨1, 0, 0, 0, 7, 0x40000000, 64, none, .none, false⟩] }), 1, ((pFst (pSome (some (takeFirst (fun r : HostReq => r.id == (1 : Nat)) (st ((vfD vd0).onMc fun m => { m with host := [⟨1, 0, 0, 0, 7, 0x40000000, 64, none, .none, false⟩] }) : State).dev.mc.host))))).get (by decide +kernel), ((pSnd (pSome (some (takeFirst (fun r : HostReq => r.id == (1 : Nat)) (st ((vfD vd0).onMc fun m => { m with host := [⟨1, 0, 0, 0, 7, 0x40000000, 64, none, .none, false⟩] }) : State).dev.mc.host))))).get (by decide +kernel), by decide +kernel⟩,
   ⟨st ((vfD vd0).onMc fun m => { m with host := [⟨1, 0, 0, adminQueue, 7, 0x40000000, 64, none, .none, true⟩] }), 1, ((pFst (pSome (some (takeFirst (fun r : HostReq => r.id == (1 : Nat)) (st ((vfD vd0).onMc fun m => { m with host := [⟨1, 0, 0, adminQueue, 7, 0x40000000, 64, none, .none, true⟩] }) : State).dev.mc.host))))).get (by decide +kernel), ((pSnd (pSome (some (takeFirst (fun r : HostReq => r.id == (1 : Nat)) (st ((vfD vd0).onMc fun m => { m with host := [⟨1, 0, 0, adminQueue, 7, 0x40000000, 64, none, .none, true⟩] }) : State).dev.mc.host))))).get (by decide +kernel), by decide +kernel⟩,
   ⟨st ((vc (cmd 1 0 .running)).onMc fun m => { m with host := [⟨1, 0, 0, 0, 7, 0x40000000, 64, none, .none, true⟩] }), 1, ((pFst (pSome (some (takeFirst (fun r : HostReq => r.id == (1 : Nat)) (st ((vc (cmd 1 0 .running)).onMc fun m => { m with host := [⟨1, 0, 0, 0, 7, 0x40000000, 64, none, .none, true⟩] }) : State).dev.mc.host))))).get (by decide +kernel), ((pSnd (pSome (some (takeFirst (fun r : HostReq => r.id == (1 : Nat)) (st ((vc (cmd 1 0 .running)).onMc fun m => { m with host := [⟨1, 0, 0, 0, 7, 0x40000000, 64, none, .none, true⟩] }) : State).dev.mc.host))))).get (by decide +kernel), ((pFst (pHead (some (((st ((vc (cmd 1 0 .running)).onMc fun m => { m with host := [⟨1, 0, 0, 0, 7, 0x40000000, 64, none, .none, true⟩] }) : State).dev.vd (((pFst (pSome (some (takeFirst (fun r : HostReq => r.id == (1 : Nat)) (st ((vc (cmd 1 0 .running)).onMc fun m => { m with host := [⟨1, 0, 0, 0, 7, 0x40000000, 64, none, .none, true⟩] }) : State).dev.mc.host))))).get (by decide +kernel)).vdev).queues))))).get (by decide +kernel), ((pSnd (pHead (some (((st ((vc (cmd 1 0 .running)).onMc fun m => { m with host := [⟨1, 0, 0, 0, 7, 0x40000000, 64, none, .none, true⟩] }) : State).dev.vd (((pFst (pSome (some (takeFirst (fun r : HostReq => r.id == (1 : Nat)) (st ((vc (cmd 1 0 .running)).onMc fun m => { m with host := [⟨1, 0, 0, 0, 7, 0x40000000, 64, none, .none, true⟩] }) : State).dev.mc.host))))).get (by decide +kernel)).vdev).queues))))).get (by decide +kernel), ((pSome (some ((((pSnd (pHead (some (((st ((vc (cmd 1 0 .running)).onMc fun m => { m with host := [⟨1, 0, 0, 0, 7, 0x40000000, 64, none, .none, true⟩] }) : State).dev.vd (((pFst (pSome (some (takeFirst (fun r : HostReq => r.id == (1 : Nat)) (st ((vc (cmd 1 0 .running)).onMc fun m => { m with host := [⟨1, 0, 0, 0, 7, 0x40000000, 64, none, .none, true⟩] }) : State).dev.mc.host))))).get (by decide +kernel)).vdev).queues))))).get (by decide +kernel)).cur)))).get (by decide +kernel), by decide +kernel⟩⟩

/-- Witnesses for MailboxesAndEvents. -/
theorem wit_MailboxesAndEvents :
    (∃ (s : State), ∃ (c : MbxChan), ∃ (fn : Nat), mbxSender c = some fn ∧ s.dev.barOpen fn = true) ∧
    (∃ (s : State), ∃ (c : MbxChan), (∀ fn, mbxSender c = some fn → s.dev.barOpen fn = false)) ∧
    (∃ (s : State), ∃ (c : MbxChan), (s.dev.mbxCh (chanNo c)).go = false) ∧
    (∃ (s : State), ∃ (c : MbxChan), s.dev.barOpen (mbxReceiver c) = false) ∧
    (∃ (s : State), (s.dev.notices = [] ∨ (s.dev.mbxCh 512).go = true ∨ s.dev.schedUp = false)) ∧
    (∃ (s : State), ∃ (c : MbxChan), ∃ (fn : Nat), mbxSender c = some fn ∧ s.dev.barOpen fn = true ∧ (s.dev.mbxCh (chanNo c)).go = true) ∧
    (∃ (s : State), ∃ (c : MbxChan), s.dev.barOpen (mbxReceiver c) = true) ∧
    (∃ (s : State), ∃ (n : Notice), ∃ (rest : List Notice), s.dev.notices = n :: rest ∧ (s.dev.mbxCh 512).go = false ∧ s.dev.schedUp = true) ∧
    (∃ (s : State), ∃ (c : EvCtl), ∃ (p : Fin 2), ∃ (i : Nat), ctlHas c p.val = true ∧ (s.dev.evc (ctlNo c)).best ((s.dev.evc (ctlNo c)).proc p.val).given = some i) ∧
    (∃ (s : State), ∃ (c : EvCtl), ∃ (p : Fin 2), ctlHas c p.val = true ∧ (s.dev.evc (ctlNo c)).best ((s.dev.evc (ctlNo c)).proc p.val).given = none) ∧
    (∃ (s : State), ∃ (c : EvCtl), ∃ (p : Fin 2), ∃ (n : Nat), ∃ (rest : List Nat), ctlHas c p.val = true ∧ ((s.dev.evc (ctlNo c)).proc p.val).stack = n :: rest) ∧
    (∃ (s : State), ∃ (c : EvCtl), ∃ (i : Fin 512), ((s.dev.evc (ctlNo c)).src i.val).pend ≠ 0 ∧ ((s.dev.evc (ctlNo c)).src i.val).ready = false) ∧
    (∃ (c : EvCtl), ∃ (p : Fin 2), ctlHas c p.val = true) ∧
    (∃ (c : EvCtl), ∃ (p : Fin 2), ctlHas c p.val = false) ∧
    (∃ (s : State), ∃ (c : EvCtl), ∃ (p : Fin 2), ((s.dev.evc (ctlNo c)).proc p.val).stack = []) ∧
    (∃ (s : State), ∃ (c : EvCtl), ∃ (i : Fin 512), (((s.dev.evc (ctlNo c)).src i.val).pend = 0 ∨ ((s.dev.evc (ctlNo c)).src i.val).ready = true)) :=
  ⟨⟨st (vfD vd0), .toMgr 0, ((pSome (some (mbxSender (.toMgr 0 : MbxChan))))).get (by decide +kernel), by decide +kernel⟩,
   ⟨State.reset, .toMgr 0, by decide +kernel⟩,
   ⟨State.reset, .toMgr 0, by decide +kernel⟩,
   ⟨st (vfD { vd0 with enabled := false }), .fromMgr 0, by decide +kernel⟩,
   ⟨State.reset, by decide +kernel⟩,
   ⟨st ((vfD vd0).onMbx 0 fun x => { x with go := true }), .toMgr 0, ((pSome (some (mbxSender (.toMgr 0 : MbxChan))))).get (by decide +kernel), by decide +kernel⟩,
   ⟨State.reset, .toMgr 0, by decide +kernel⟩,
   ⟨st { vfD vd0 with notices := [⟨1, 0, 1, []⟩] }, ((pHead (some ((st { vfD vd0 with notices := [⟨1, 0, 1, []⟩] } : State).dev.notices)))).get (by decide +kernel), ((pTail (some ((st { vfD vd0 with notices := [⟨1, 0, 1, []⟩] } : State).dev.notices)))).get (by decide +kernel), by decide +kernel⟩,
   ⟨st { upDev with evcs := [(0, { Evc.reset with p0 := ⟨0, [], false, false, [511], 0⟩ })] }, .hub 0, 0, ((pSome (some (((st { upDev with evcs := [(0, { Evc.reset with p0 := ⟨0, [], false, false, [511], 0⟩ })] } : State).dev.evc (ctlNo (.hub 0 : EvCtl))).best (((st { upDev with evcs := [(0, { Evc.reset with p0 := ⟨0, [], false, false, [511], 0⟩ })] } : State).dev.evc (ctlNo (.hub 0 : EvCtl))).proc (0 : Fin 2).val).given)))).get (by decide +kernel), by decide +kernel⟩,
   ⟨State.reset, .hub 0, 0, by decide +kernel⟩,
   ⟨st { upDev with evcs := [(0, { Evc.reset with p0 := ⟨0, [511], false, false, [511], 0⟩ })] }, .hub 0, 0, ((pHead (some ((((st { upDev with evcs := [(0, { Evc.reset with p0 := ⟨0, [511], false, false, [511], 0⟩ })] } : State).dev.evc (ctlNo (.hub 0 : EvCtl))).proc (0 : Fin 2).val).stack)))).get (by decide +kernel), ((pTail (some ((((st { upDev with evcs := [(0, { Evc.reset with p0 := ⟨0, [511], false, false, [511], 0⟩ })] } : State).dev.evc (ctlNo (.hub 0 : EvCtl))).proc (0 : Fin 2).val).stack)))).get (by decide +kernel), by decide +kernel⟩,
   ⟨st { upDev with evcs := [(0, { Evc.reset with srcs := [(511, ⟨0x1000, 1, false⟩)] })] }, .hub 0, 511, by decide +kernel⟩,
   ⟨.hub 0, 0, by decide +kernel⟩,
   ⟨.cluster 0, 1, by decide +kernel⟩,
   ⟨State.reset, .hub 0, 0, by decide +kernel⟩,
   ⟨State.reset, .hub 0, 0, by decide +kernel⟩⟩

/-- Witnesses for FunctionResets. -/
theorem wit_FunctionResets :
    (∃ (s : State), ∃ (i : Nat), ∃ (bs : List Byte), Accepted s.dev mgr (adRow 0x0302 1) i bs ∧ bits (s.dev.fn mgr).adTail.toNat 4 0 = (i + 1) % 32 ∧ (s.dev.fn mgr).taken = []) ∧
    (∃ (s : State), ∃ (i : Nat), ∃ (bs : List Byte), Accepted s.dev mgr (adRow 0x0302 1) i bs) ∧
    (∃ (s : State), ∃ (v : VDev), (s.dev.vd v.val).enabled = false) ∧
    (∃ (s : State), ∃ (v : VDev), ∃ (on : Bool), (s.dev.vd v.val).enabled = on) ∧
    (∃ (p : Fin 4), p.val ≠ 0) ∧
    (∃ (s : State), ∃ (v : VDev), (s.dev.vd v.val).enabled = true ∧ (s.dev.vd v.val).queues = [] ∧ (s.dev.vd v.val).slots = [] ∧ (s.dev.fn v.val).taken = []) :=
  ⟨⟨st (ask (vfD vd0) 256 0x0302 0 (natLe 1 0) 0), 0, slotBytes 0x0302 0 (natLe 1 0) 0, accepted_of (by decide +kernel), by decide +kernel⟩,
   ⟨st (ask (vfD vd0) 256 0x0302 0 (natLe 1 0) 0), 0, slotBytes 0x0302 0 (natLe 1 0) 0, accepted_of (by decide +kernel)⟩,
   ⟨State.reset, 0, by decide +kernel⟩,
   ⟨State.reset, 0, false, by decide +kernel⟩,
   ⟨3, by decide +kernel⟩,
   ⟨st (vfD vd0), 0, by decide +kernel⟩⟩

/-- Witnesses for MigrationCommands. -/
theorem wit_MigrationCommands :
    (∃ (s : State), ∃ (i : Nat), ∃ (bs : List Byte), ∃ v, v = (fieldLe (headReq mgr i bs).args 0 1) ∧ Accepted s.dev mgr { adRow 0x0401 1 with whileA2 := true } i bs ∧ (s.dev.vd v).frozen = false ∧ s.dev.windowed v = false) ∧
    (∃ (s : State), ∃ (v : VDev), ∃ (slot : Nat), ∃ (t : Taken), ((s.dev.fn mgr).taken.find? (fun t => t.2.op == .freeze v.val false) = some (slot, t))) ∧
    (∃ (s : State), ∃ (v : VDev), ((s.dev.fn mgr).taken.find? (fun t => t.2.op == .freeze v.val false) = none)) ∧
    (∃ (s : State), ∃ (i : Nat), ∃ (bs : List Byte), ∃ a, a = ((headReq mgr i bs).args) ∧ ∃ v, v = (fieldLe a 0 1) ∧ Accepted s.dev mgr { adRow 0x0402 19 with whileA2 := true } i bs ∧ fieldLe a 1 1 < 2 ∧ fieldLe a 2 1 < 16 ∧ (s.dev.vd v).frozen = true ∧ s.dev.atRest v = true ∧ s.dev.mgrWaits (DefOp.freezes v) = false ∧ s.dev.secUp = true ∧ s.dev.lostData v = false ∧ unreadSlots s.dev v ≠ []) ∧
    (∃ (s : State), ∃ (i : Nat), ∃ (bs : List Byte), ∃ a, a = ((headReq mgr i bs).args) ∧ ∃ v, v = (fieldLe a 0 1) ∧ Accepted s.dev mgr { adRow 0x0402 19 with whileA2 := true } i bs ∧ fieldLe a 1 1 < 2 ∧ fieldLe a 2 1 < 16 ∧ (s.dev.vd v).frozen = true ∧ s.dev.atRest v = true ∧ s.dev.mgrWaits (DefOp.freezes v) = false ∧ s.dev.secUp = true ∧ s.dev.lostData v = false ∧ unreadSlots s.dev v = []) ∧
    (∃ (s : State), ∃ (n : Nat), ∃ (i : Nat), ∃ (bs : List Byte), ∃ (w : Wk), ∃ a, a = ((headReq mgr i bs).args) ∧ ∃ (r : Req), r = (⟨a.take 192⟩) ∧ ∃ x, x = (s.dev.vd r.vdev) ∧ ∃ (b : Blob), Accepted s.dev mgr (adRow 0x0403 210) i bs ∧ r.fieldsOk = true ∧ fieldLe a 192 1 < 2 ∧ fieldLe a 193 1 < 16 ∧ r.epoch = x.epoch.toNat ∧ s.dev.secUp = true ∧ Tab.get? s.dev.blobs n = some b ∧ x.composed = false ∧ x.inReset = false ∧ b.acl ≤ s.dev.fw.aclMax.toNat ∧ ((b.keys.all fun k => (s.dev.keySlot k.1).state == .empty) = true) ∧ ((b.ctxs.all fun t => (s.dev.ctx? t.1).isNone) = true) ∧ ((b.sets.all fun e => !(s.dev.set e.1).valid) = true) ∧ ((b.queues.all fun q => decide (q.1 < r.queues)) = true) ∧ composeStatus s.dev { x with frozen := false } r (changeOf s.dev x r) = none ∧ b.keys.length ≤ x.quota.toNat ∧ s.dev.devqs.length + b.queues.length ≤ 4096 ∧ restoreBlob r.vdev b ((work s).on (applyChange r.vdev r (changeOf s.dev x r))) = some w) ∧
    (∃ (s : State), ∃ (i : Nat), ∃ (bs : List Byte), ∃ v, v = (fieldLe (headReq mgr i bs).args 0 1) ∧ Accepted s.dev mgr { adRow 0x0404 1 with whileA2 := true } i bs ∧ (s.dev.vd v).frozen = true) ∧
    (∃ (s : State), ∃ (i : Nat), ∃ (bs : List Byte), ∃ v, v = (fieldLe (headReq mgr i bs).args 0 1) ∧ Accepted s.dev mgr { adRow 0x0405 1 with whileA2 := true } i bs ∧ (s.dev.vd v).frozen = true ∧ s.dev.mgrWaits (DefOp.freezes v) = false) :=
  ⟨⟨st (ask (vfD vd0) 256 0x0401 0 (natLe 1 0) 0), 0, slotBytes 0x0401 0 (natLe 1 0) 0, _, rfl, accepted_of (by decide +kernel), by decide +kernel⟩,
   ⟨st (upDev.onFn 256 fun f => { f with taken := [(31, ⟨9, .freeze 0 false, 0⟩)] }), 0, ((pFst (pSome (some (((st (upDev.onFn 256 fun f => { f with taken := [(31, ⟨9, .freeze 0 false, 0⟩)] }) : State).dev.fn mgr).taken.find? (fun t => t.2.op == .freeze (0 : VDev).val false)))))).get (by decide +kernel), ((pSnd (pSome (some (((st (upDev.onFn 256 fun f => { f with taken := [(31, ⟨9, .freeze 0 false, 0⟩)] }) : State).dev.fn mgr).taken.find? (fun t => t.2.op == .freeze (0 : VDev).val false)))))).get (by decide +kernel), by decide +kernel⟩,
   ⟨State.reset, 0, by decide +kernel⟩,
   ⟨st (ask (vfD { vd0 with frozen := true, slots := [(1, ⟨1, true, .proxy 0 1, false, true, false, 9, 5⟩)] }) 256 0x0402 0 (natLe 1 0 ++ natLe 1 1 ++ natLe 1 15 ++ natLe 16 0) 0), 0, slotBytes 0x0402 0 (natLe 1 0 ++ natLe 1 1 ++ natLe 1 15 ++ natLe 16 0) 0, _, rfl, _, rfl, accepted_of (by decide +kernel), by decide +kernel⟩,
   ⟨st (ask (vfD { vd0 with frozen := true }) 256 0x0402 0 (natLe 1 0 ++ natLe 1 1 ++ natLe 1 15 ++ natLe 16 0) 0), 0, slotBytes 0x0402 0 (natLe 1 0 ++ natLe 1 1 ++ natLe 1 15 ++ natLe 16 0) 0, _, rfl, _, rfl, accepted_of (by decide +kernel), by decide +kernel⟩,
   ⟨st restoreDev, 1, 0, slotBytes 0x0403 0 (natLe 210 0) 0, (restoreBlob 0 blob0 ((work (st restoreDev)).on (applyChange 0 ⟨natLe 192 0⟩ (changeOf restoreDev (restoreDev.vd 0) ⟨natLe 192 0⟩)))).getD (work State.reset), _, rfl, _, rfl, _, rfl, ((pSome (some (Tab.get? (st restoreDev : State).dev.blobs (1 : Nat))))).get (by decide +kernel), accepted_of (by decide +kernel), by decide +kernel⟩,
   ⟨st (ask (vfD { vd0 with frozen := true }) 256 0x0404 0 (natLe 1 0) 0), 0, slotBytes 0x0404 0 (natLe 1 0) 0, _, rfl, accepted_of (by decide +kernel), by decide +kernel⟩,
   ⟨st (ask (vfD { vd0 with frozen := true }) 256 0x0405 0 (natLe 1 0) 0), 0, slotBytes 0x0405 0 (natLe 1 0) 0, _, rfl, accepted_of (by decide +kernel), by decide +kernel⟩⟩

/-- Witnesses for CompositionChanges. -/
theorem wit_CompositionChanges :
    (∃ (s : State), ∃ (i : Nat), ∃ (bs : List Byte), ∃ (r : Req), r = (⟨(headReq mgr i bs).args.take 192⟩) ∧ ∃ x, x = (s.dev.vd r.vdev) ∧ ∃ c, c = (changeOf s.dev x r) ∧ Accepted s.dev mgr (adRow 0x0301 192) i bs ∧ composeStatus s.dev x r c = none) ∧
    (∃ (s : State), ∃ (i : Nat), ∃ (bs : List Byte), ∃ (r : Req), r = (⟨(headReq mgr i bs).args.take 192⟩) ∧ ∃ x, x = (s.dev.vd r.vdev) ∧ ∃ c, c = (changeOf s.dev x r) ∧ ∃ st, Accepted s.dev mgr (adRow 0x0301 192) i bs ∧ composeStatus s.dev x r c = some st) :=
  ⟨⟨st (ask (upDev) 256 0x0301 0 (natLe 192 0) 0), 0, slotBytes 0x0301 0 (natLe 192 0) 0, _, rfl, _, rfl, _, rfl, accepted_of (by decide +kernel), by decide +kernel⟩,
   ⟨st (ask (vfD vd0) 256 0x0301 0 (natLe 192 0) 0), 0, slotBytes 0x0301 0 (natLe 192 0) 0, _, rfl, _, rfl, _, rfl, ((pSome (some (composeStatus (st (ask (vfD vd0) 256 0x0301 0 (natLe 192 0) 0) : State).dev ((st (ask (vfD vd0) 256 0x0301 0 (natLe 192 0) 0) : State).dev.vd (⟨(headReq mgr (0 : Nat) (slotBytes 0x0301 0 (natLe 192 0) 0 : List Byte)).args.take 192⟩ : Req).vdev) (⟨(headReq mgr (0 : Nat) (slotBytes 0x0301 0 (natLe 192 0) 0 : List Byte)).args.take 192⟩ : Req) (changeOf (st (ask (vfD vd0) 256 0x0301 0 (natLe 192 0) 0) : State).dev ((st (ask (vfD vd0) 256 0x0301 0 (natLe 192 0) 0) : State).dev.vd (⟨(headReq mgr (0 : Nat) (slotBytes 0x0301 0 (natLe 192 0) 0 : List Byte)).args.take 192⟩ : Req).vdev) (⟨(headReq mgr (0 : Nat) (slotBytes 0x0301 0 (natLe 192 0) 0 : List Byte)).args.take 192⟩ : Req)))))).get (by decide +kernel), accepted_of (by decide +kernel), by decide +kernel⟩⟩

/-- Witnesses for SetsPartitionsAndSelfTests. -/
theorem wit_SetsPartitionsAndSelfTests :
    (∃ (s : State), ∃ (v : VDev), ∃ (i : Nat), ∃ (bs : List Byte), ∃ a, a = ((headReq v.val i bs).args) ∧ ∃ k, k = (fieldLe a 0 2) ∧ ∃ l, l = (fieldLe a 2 1) ∧ ∃ len, len = (fieldLe a 4 4) ∧ ∃ ms, ms = (setMembers a (2 ^ l)) ∧ Accepted s.dev v.val (adRow 0x0250 8) i bs ∧ k < 1024 ∧ fieldLe a 3 1 = 1 ∧ l ≤ 6 ∧ 1 ≤ len ∧ len ≤ 23040 ∧ 8 + 4 * 2 ^ l ≤ a.length ∧ ((ms.all fun m => decide (m.1 < 1024) && decide (m.2 + len ≤ 23040)) = true) ∧ selfMeet len ms = false ∧ ((ms.all fun m => (s.dev.vd v.val).chans.contains m.1) = true) ∧ (s.dev.set k).valid = false ∧ ((s.dev.mc.sets.any fun y => y.2.valid && y.2.members.any fun b => ms.any fun m => membersMeet m len b y.2.len) = false) ∧ ((s.dev.vd v.val).mirrored = true → (pickMirrors s.dev (s.dev.vd v.val) ms).isSome = true)) ∧
    (∃ (s : State), ∃ (v : VDev), ∃ (i : Nat), ∃ (bs : List Byte), ∃ k, k = (fieldLe (headReq v.val i bs).args 0 2) ∧ Accepted s.dev v.val (adRow 0x0250 8) i bs ∧ k < 1024 ∧ fieldLe (headReq v.val i bs).args 3 1 = 0 ∧ (s.dev.set k).valid = true ∧ (s.dev.set k).vdev = v.val ∧ (((s.dev.vd v.val).table.any fun y => y.res == 1 && y.pbase / 2 ^ 38 == k) = false)) ∧
    (∃ (s : State), ∃ (v : VDev), ∃ (i : Nat), ∃ (bs : List Byte), ∃ b, b = ((headReq v.val i bs).args.take 64) ∧ ∃ n, n = (fieldLe b 4 2) ∧ ∃ sets, sets = ((List.range (fieldLe b 2 1)).map fun j => fieldLe b (0x10 + 2 * j) 2) ∧ ∃ (p : Part), p = (⟨sets, [], 0, 0, 0, true, s.dev.hlcOf v.val, none, 0, none, 0⟩) ∧ Accepted s.dev v.val (adRow 0x0240 64) i bs ∧ partFieldsOk b = true ∧ bitAt (fieldLe b 1 1) 0 = false ∧ Tab.get? (s.dev.vd v.val).parts (fieldLe b 0 1) = none ∧ ((sets.all fun k => (s.dev.set k).valid && (s.dev.set k).vdev == v.val) = true) ∧ n ≤ (resizeCores s.dev (s.dev.vd v.val) p n).length) ∧
    (∃ (s : State), ∃ (v : VDev), ∃ (i : Nat), ∃ (bs : List Byte), ∃ r, r = (headReq v.val i bs) ∧ ∃ b, b = (r.args.take 64) ∧ ∃ x, x = (s.dev.vd v.val) ∧ ∃ j, j = (fieldLe b 0 1) ∧ ∃ sets, sets = ((List.range (fieldLe b 2 1)).map fun j => fieldLe b (0x10 + 2 * j) 2) ∧ ∃ (old : Part), ∃ cores, cores = (resizeCores s.dev x { old with sets := sets } (fieldLe b 4 2)) ∧ Accepted s.dev v.val (adRow 0x0240 64) i bs ∧ partFieldsOk b = true ∧ Tab.get? x.parts j = some old ∧ bitAt (fieldLe b 1 1) 0 = false ∧ ((sets.all fun k => (s.dev.set k).valid && (s.dev.set k).vdev == v.val) = true) ∧ fieldLe b 4 2 ≤ cores.length) ∧
    (∃ (s : State), ∃ (v : VDev), ∃ (i : Nat), ∃ (bs : List Byte), ∃ r, r = (headReq v.val i bs) ∧ ∃ b, b = (r.args.take 64) ∧ ∃ x, x = (s.dev.vd v.val) ∧ ∃ j, j = (fieldLe b 0 1) ∧ ∃ (old : Part), Accepted s.dev v.val (adRow 0x0240 64) i bs ∧ partFieldsOk b = true ∧ Tab.get? x.parts j = some old ∧ bitAt (fieldLe b 1 1) 0 = true ∧ x.partQueues j = []) ∧
    (∃ (s : State), ∃ (v : VDev), ∃ (i : Nat), ∃ (bs : List Byte), ∃ a, a = ((headReq v.val i bs).args) ∧ ∃ n, n = (fieldLe a 1 2) ∧ ∃ spans, spans = ((List.range n).map fun j => (fieldLe a (3 + 16 * j) 8, fieldLe a (11 + 16 * j) 8)) ∧ ∃ (p : Part), Accepted s.dev v.val (adRow 0x0242 3) i bs ∧ fieldLe a 0 1 < 16 ∧ 1 ≤ n ∧ n ≤ 256 ∧ 3 + 16 * n ≤ a.length ∧ ((spans.all fun x => decide (x.1 + x.2 ≤ 2 ^ 56)) = true) ∧ Tab.get? (s.dev.vd v.val).parts (fieldLe a 0 1) = some p ∧ (p.warming = true ∨ s.dev.boot.early = true) ∧ ((spans.all fun x => spanIn (s.dev.vd v.val).table (fun _ => true) x.1 x.2) = true)) ∧
    (∃ (s : State), ∃ (v : VDev), ∃ (i : Nat), ∃ (bs : List Byte), ∃ n, n = (fieldLe (headReq v.val i bs).args 0 1) ∧ ∃ (p : Part), Accepted s.dev v.val (adRow 0x0243 1) i bs ∧ n < 16 ∧ Tab.get? (s.dev.vd v.val).parts n = some p) ∧
    (∃ (s : State), ∃ (v : VDev), ∃ (n : PartId), ∃ (p : Part), Tab.get? (s.dev.vd v.val).parts n.val = some p ∧ p.warming = true) ∧
    (∃ (s : State), ∃ (v : VDev), ∃ (n : PartId), (∀ p, Tab.get? (s.dev.vd v.val).parts n.val = some p → p.warming = false)) ∧
    (∃ (s : State), ∃ (n : CoreId), (s.dev.core n.val).state = .testing ∧ (s.dev.unit .core n.val).adminOut = false ∧ coresIn s.dev (n.val / 68) .scrubbed = []) ∧
    (∃ (s : State), ∃ (n : CoreId), (s.dev.core n.val).state = .testing ∧ (s.dev.unit .core n.val).adminOut = false) ∧
    (∃ (s : State), ∃ (n : CoreId), (s.dev.core n.val).state = .testing ∧ (s.dev.unit .core n.val).adminOut = true ∧ coresIn s.dev (n.val / 68) .scrubbed = []) ∧
    (∃ (s : State), ∃ (n : CoreId), (s.dev.core n.val).state = .testing ∧ s.dev.boundTo .core n.val = none) ∧
    (∃ (s : State), ∃ (n : CoreId), ∃ (v : Nat), (s.dev.core n.val).state = .testing ∧ s.dev.boundTo .core n.val = some v) ∧
    (∃ (s : State), ∃ (n : CoreId), (s.dev.core n.val).state = .returning) ∧
    (∃ (s : State), ∃ (n : CoreId), (s.dev.core n.val).state ≠ .testing ∧ (s.dev.core n.val).state ≠ .returning) :=
  ⟨⟨st (ask (vfD { vd0 with chans := [0, 1023] }) 0 0x0250 0 (natLe 2 1023 ++ natLe 1 0 ++ natLe 1 1 ++ natLe 4 23040 ++ natLe 4 1023) 0), 0, 0, slotBytes 0x0250 0 (natLe 2 1023 ++ natLe 1 0 ++ natLe 1 1 ++ natLe 4 23040 ++ natLe 4 1023) 0, _, rfl, _, rfl, _, rfl, _, rfl, _, rfl, accepted_of (by decide +kernel), by decide +kernel⟩,
   ⟨st (ask (vfD { vd0 with table := [] }) 0 0x0250 0 (natLe 2 0 ++ natLe 1 0 ++ natLe 1 0 ++ natLe 4 0) 0), 0, 0, slotBytes 0x0250 0 (natLe 2 0 ++ natLe 1 0 ++ natLe 1 0 ++ natLe 4 0) 0, _, rfl, accepted_of (by decide +kernel), by decide +kernel⟩,
   ⟨st (ask (vfD { vd0 with parts := [] }) 0 0x0240 0 (natLe 1 15 ++ natLe 1 0 ++ natLe 2 1 ++ natLe 2 1 ++ natLe 2 0 ++ natLe 4 1000 ++ natLe 52 0) 0), 0, 0, slotBytes 0x0240 0 (natLe 1 15 ++ natLe 1 0 ++ natLe 2 1 ++ natLe 2 1 ++ natLe 2 0 ++ natLe 4 1000 ++ natLe 52 0) 0, _, rfl, _, rfl, _, rfl, _, rfl, accepted_of (by decide +kernel), by decide +kernel⟩,
   ⟨st (ask (vfD vd0) 0 0x0240 0 (natLe 1 0 ++ natLe 1 0 ++ natLe 2 1 ++ natLe 2 1 ++ natLe 2 0 ++ natLe 4 1000 ++ natLe 52 0) 0), 0, 0, slotBytes 0x0240 0 (natLe 1 0 ++ natLe 1 0 ++ natLe 2 1 ++ natLe 2 1 ++ natLe 2 0 ++ natLe 4 1000 ++ natLe 52 0) 0, _, rfl, _, rfl, _, rfl, _, rfl, _, rfl, ((pSome (some (Tab.get? ((st (ask (vfD vd0) 0 0x0240 0 (natLe 1 0 ++ natLe 1 0 ++ natLe 2 1 ++ natLe 2 1 ++ natLe 2 0 ++ natLe 4 1000 ++ natLe 52 0) 0) : State).dev.vd (0 : VDev).val).parts (fieldLe ((headReq (0 : VDev).val (0 : Nat) (slotBytes 0x0240 0 (natLe 1 0 ++ natLe 1 0 ++ natLe 2 1 ++ natLe 2 1 ++ natLe 2 0 ++ natLe 4 1000 ++ natLe 52 0) 0 : List Byte)).args.take 64) 0 1))))).get (by decide +kernel), _, rfl, accepted_of (by decide +kernel), by decide +kernel⟩,
   ⟨st (ask (vfD vd0) 0 0x0240 0 (natLe 1 0 ++ natLe 1 1 ++ natLe 2 1 ++ natLe 2 1 ++ natLe 2 0 ++ natLe 4 1000 ++ natLe 52 0) 0), 0, 0, slotBytes 0x0240 0 (natLe 1 0 ++ natLe 1 1 ++ natLe 2 1 ++ natLe 2 1 ++ natLe 2 0 ++ natLe 4 1000 ++ natLe 52 0) 0, _, rfl, _, rfl, _, rfl, _, rfl, ((pSome (some (Tab.get? ((st (ask (vfD vd0) 0 0x0240 0 (natLe 1 0 ++ natLe 1 1 ++ natLe 2 1 ++ natLe 2 1 ++ natLe 2 0 ++ natLe 4 1000 ++ natLe 52 0) 0) : State).dev.vd (0 : VDev).val).parts (fieldLe ((headReq (0 : VDev).val (0 : Nat) (slotBytes 0x0240 0 (natLe 1 0 ++ natLe 1 1 ++ natLe 2 1 ++ natLe 2 1 ++ natLe 2 0 ++ natLe 4 1000 ++ natLe 52 0) 0 : List Byte)).args.take 64) 0 1))))).get (by decide +kernel), accepted_of (by decide +kernel), by decide +kernel⟩,
   ⟨st (ask (vfD { vd0 with parts := [(0, { part0 with warming := true })] }) 0 0x0242 0 (natLe 1 0 ++ natLe 2 1 ++ natLe 8 0 ++ natLe 8 65536) 0), 0, 0, slotBytes 0x0242 0 (natLe 1 0 ++ natLe 2 1 ++ natLe 8 0 ++ natLe 8 65536) 0, _, rfl, _, rfl, _, rfl, ((pSome (some (Tab.get? ((st (ask (vfD { vd0 with parts := [(0, { part0 with warming := true })] }) 0 0x0242 0 (natLe 1 0 ++ natLe 2 1 ++ natLe 8 0 ++ natLe 8 65536) 0) : State).dev.vd (0 : VDev).val).parts (fieldLe ((headReq (0 : VDev).val (0 : Nat) (slotBytes 0x0242 0 (natLe 1 0 ++ natLe 2 1 ++ natLe 8 0 ++ natLe 8 65536) 0 : List Byte)).args) 0 1))))).get (by decide +kernel), accepted_of (by decide +kernel), by decide +kernel⟩,
   ⟨st (ask (vfD vd0) 0 0x0243 0 (natLe 1 0) 0), 0, 0, slotBytes 0x0243 0 (natLe 1 0) 0, _, rfl, ((pSome (some (Tab.get? ((st (ask (vfD vd0) 0 0x0243 0 (natLe 1 0) 0) : State).dev.vd (0 : VDev).val).parts (fieldLe (headReq (0 : VDev).val (0 : Nat) (slotBytes 0x0243 0 (natLe 1 0) 0 : List Byte)).args 0 1))))).get (by decide +kernel), accepted_of (by decide +kernel), by decide +kernel⟩,
   ⟨st (vfD { vd0 with parts := [(15, { part0 with warming := true })] }), 0, 15, ((pSome (some (Tab.get? ((st (vfD { vd0 with parts := [(15, { part0 with warming := true })] }) : State).dev.vd (0 : VDev).val).parts (15 : PartId).val)))).get (by decide +kernel), by decide +kernel⟩,
   ⟨State.reset, 0, 0, by decide +kernel⟩,
   ⟨st (((vfD vd0).onCore 2175 fun c => { c with state := .testing }).onUnit .core 2175 fun u => { u with adminOut := false }), 2175, by decide +kernel⟩,
   ⟨st (((vfD vd0).onCore 2175 fun c => { c with state := .testing }).onUnit .core 2175 fun u => { u with adminOut := false }), 2175, by decide +kernel⟩,
   ⟨st (((vfD vd0).onCore 2175 fun c => { c with state := .testing }).onUnit .core 2175 fun u => { u with adminOut := true }), 2175, by decide +kernel⟩,
   ⟨st (((vfD vd0).onCore 2175 fun c => { c with state := .testing }).onUnit .core 2175 fun u => { u with adminOut := false }), 2175, by decide +kernel⟩,
   ⟨st (((vfD vd0).onCore 0 fun c => { c with state := .testing }).onUnit .core 0 fun u => { u with adminOut := false }), 0, ((pSome (some ((st (((vfD vd0).onCore 0 fun c => { c with state := .testing }).onUnit .core 0 fun u => { u with adminOut := false }) : State).dev.boundTo .core (0 : CoreId).val)))).get (by decide +kernel), by decide +kernel⟩,
   ⟨st (((vfD vd0).onCore 2175 fun c => { c with state := .returning }).onUnit .core 2175 fun u => { u with adminOut := false }), 2175, by decide +kernel⟩,
   ⟨State.reset, 0, by decide +kernel⟩⟩

/-- Witnesses for SluiceCommands. -/
theorem wit_SluiceCommands :
    (∃ (s : State), ∃ (v : VDev), ∃ (e : Endp), ∃ (p : Publish), ∃ (rest : List Publish), s.dev.sched.publish = p :: rest ∧ p.vdev = v.val ∧ p.toSend.contains e = true ∧ ((p.copies.all fun c => (s.dev.chan c.1).copied) = true)) ∧
    (∃ (s : State), ∃ (v : VDev), ∃ (p : Publish), ∃ (e : Endp), s.dev.sched.publish = [p] ∧ p.vdev = v.val ∧ p.toSend = [] ∧ p.toAck = [e]) ∧
    (∃ (s : State), ∃ (w : BitVec 32), ∃ (e : Endp), ∃ (k : UnitKind), ∃ (n : Nat), unitOf w.toNat = some (k, n) ∧ busyAt s.dev e k n = false) ∧
    (∃ (s : State), ∃ (w : BitVec 32), ∃ (e : Endp), ∃ (k : UnitKind), ∃ (n : Nat), unitOf w.toNat = some (k, n) ∧ busyAt s.dev e k n = true) ∧
    (∃ (e : Endp), ((∃ c, e = .cluster c) ∨ (∃ k, e = .mc k))) ∧
    (∃ (s : State), ∃ (n : CoreId), ((s.dev.sched.leaving.any fun u => u.kind == .core && u.num == n.val && u.published && !u.retiring) = true)) ∧
    (∃ (s : State), ∃ (n : CoreId), (s.dev.core n.val).state = .draining) ∧
    (∃ (s : State), ∃ (n : CoreId), ((s.dev.sched.leaving.any fun u => u.kind == .core && u.num == n.val && u.published && !u.retiring) = false)) ∧
    (∃ (s : State), ∃ (n : CoreId), (s.dev.core n.val).state ≠ .draining) ∧
    (∃ (s : State), ∃ (w : BitVec 32), ∃ (n : Nat), ∃ (u : Leaving), unitOf w.toNat = some (.core, n) ∧ (s.dev.sched.leaving.find? (fun u => u.kind == .core && u.num == n) = some u) ∧ u.published = true ∧ u.left = [] ∧ unitBusy s.dev .core n = false ∧ u.retiring = false) ∧
    (∃ (s : State), ∃ (w : BitVec 32), ∃ (n : Nat), ∃ (u : Leaving), unitOf w.toNat = some (.chan, n) ∧ s.mem.wf = true ∧ (s.dev.sched.leaving.find? (fun u => u.kind == .chan && u.num == n) = some u) ∧ u.published = true ∧ u.left = [] ∧ unitBusy s.dev .chan n = false ∧ u.retiring = false) ∧
    (∃ (s : State), ∃ (w : BitVec 32), ∃ (n : Nat), ∃ (u : Leaving), unitOf w.toNat = some (.port, n) ∧ (s.dev.sched.leaving.find? (fun u => u.kind == .port && u.num == n) = some u) ∧ u.published = true ∧ u.left = [] ∧ unitBusy s.dev .port n = false ∧ u.retiring = false ∧ (s.dev.port n).trained = true) ∧
    (∃ (s : State), ∃ (w : BitVec 32), ∃ (k : UnitKind), ∃ (n : Nat), ∃ (u : Leaving), unitOf w.toNat = some (k, n) ∧ (s.dev.sched.leaving.find? (fun u => u.kind == k && u.num == n) = some u) ∧ (u.published = false ∨ u.left ≠ [] ∨ unitBusy s.dev k n = true)) ∧
    (∃ (w : BitVec 32), unitOf w.toNat = none) ∧
    (∃ (s : State), ∃ (w : BitVec 32), ∃ (k : UnitKind), ∃ (n : Nat), ∃ (u : Leaving), unitOf w.toNat = some (k, n) ∧ s.dev.sched.leaving = [u] ∧ u.kind = k ∧ u.num = n ∧ u.overdue = false ∧ u.published = true ∧ u.left ≠ []) :=
  ⟨⟨st ((vfD vd0).onSched fun x => { x with publish := [⟨0, 1, [.cluster 31], [], [], ⟨[], [], [], 0⟩, none⟩] }), 0, .cluster 31, ((pHead (some ((st ((vfD vd0).onSched fun x => { x with publish := [⟨0, 1, [.cluster 31], [], [], ⟨[], [], [], 0⟩, none⟩] }) : State).dev.sched.publish)))).get (by decide +kernel), ((pTail (some ((st ((vfD vd0).onSched fun x => { x with publish := [⟨0, 1, [.cluster 31], [], [], ⟨[], [], [], 0⟩, none⟩] }) : State).dev.sched.publish)))).get (by decide +kernel), by decide +kernel⟩,
   ⟨st ((vfD vd0).onSched fun x => { x with publish := [⟨0, 1, [], [.cluster 31], [], ⟨[], [], [], 0⟩, none⟩] }), 0, ((pHead (some ((st ((vfD vd0).onSched fun x => { x with publish := [⟨0, 1, [], [.cluster 31], [], ⟨[], [], [], 0⟩, none⟩] }) : State).dev.sched.publish)))).get (by decide +kernel), ((pHead (some ((((pHead (some ((st ((vfD vd0).onSched fun x => { x with publish := [⟨0, 1, [], [.cluster 31], [], ⟨[], [], [], 0⟩, none⟩] }) : State).dev.sched.publish)))).get (by decide +kernel)).toAck)))).get (by decide +kernel), by decide +kernel⟩,
   ⟨st (vfD vd0), 0x1000087F, .cluster 0, ((pFst (pSome (some (unitOf (0x1000087F : BitVec 32).toNat))))).get (by decide +kernel), ((pSnd (pSome (some (unitOf (0x1000087F : BitVec 32).toNat))))).get (by decide +kernel), by decide +kernel⟩,
   ⟨st ((vfD vd0).onCore 2175 fun c => { c with busy := some 7 }), 0x1000087F, .cluster 31, ((pFst (pSome (some (unitOf (0x1000087F : BitVec 32).toNat))))).get (by decide +kernel), ((pSnd (pSome (some (unitOf (0x1000087F : BitVec 32).toNat))))).get (by decide +kernel), by decide +kernel⟩,
   ⟨.cluster 31, Or.inl ⟨31, rfl⟩⟩,
   ⟨st ((vfD vd0).onSched fun x => { x with leaving := [⟨.core, 2175, 0, 1, [], false, false, true⟩] }), 2175, by decide +kernel⟩,
   ⟨st (((vfD vd0).onCore 2175 fun c => { c with state := .draining }).onUnit .core 2175 fun u => { u with adminOut := false }), 2175, by decide +kernel⟩,
   ⟨State.reset, 0, by decide +kernel⟩,
   ⟨State.reset, 0, by decide +kernel⟩,
   ⟨st ((vfD vd0).onSched fun x => { x with leaving := [⟨.core, 2175, 0, 1, [], false, false, true⟩] }), 0x1000087F, ((pSnd (pSome (some (unitOf (0x1000087F : BitVec 32).toNat))))).get (by decide +kernel), ((pSome (some ((st ((vfD vd0).onSched fun x => { x with leaving := [⟨.core, 2175, 0, 1, [], false, false, true⟩] }) : State).dev.sched.leaving.find? (fun u => u.kind == .core && u.num == (((pSnd (pSome (some (unitOf (0x1000087F : BitVec 32).toNat))))).get (by decide +kernel))))))).get (by decide +kernel), by decide +kernel⟩,
   ⟨st ((vfD vd0).onSched fun x => { x with leaving := [⟨.chan, 1023, 0, 1, [], false, false, true⟩] }), 0x200003FF, ((pSnd (pSome (some (unitOf (0x200003FF : BitVec 32).toNat))))).get (by decide +kernel), ((pSome (some ((st ((vfD vd0).onSched fun x => { x with leaving := [⟨.chan, 1023, 0, 1, [], false, false, true⟩] }) : State).dev.sched.leaving.find? (fun u => u.kind == .chan && u.num == (((pSnd (pSome (some (unitOf (0x200003FF : BitVec 32).toNat))))).get (by decide +kernel))))))).get (by decide +kernel), by decide +kernel⟩,
   ⟨st (((vfD vd0).onPort 15 fun p => { p with state := 3, active := 0x3FF }).onSched fun x => { x with leaving := [⟨.port, 15, 0, 1, [], false, false, true⟩] }), 0x3000000F, ((pSnd (pSome (some (unitOf (0x3000000F : BitVec 32).toNat))))).get (by decide +kernel), ((pSome (some ((st (((vfD vd0).onPort 15 fun p => { p with state := 3, active := 0x3FF }).onSched fun x => { x with leaving := [⟨.port, 15, 0, 1, [], false, false, true⟩] }) : State).dev.sched.leaving.find? (fun u => u.kind == .port && u.num == (((pSnd (pSome (some (unitOf (0x3000000F : BitVec 32).toNat))))).get (by decide +kernel))))))).get (by decide +kernel), by decide +kernel⟩,
   ⟨st ((vfD vd0).onSched fun x => { x with leaving := [⟨.core, 2175, 0, 1, [.cluster 0], false, false, true⟩] }), 0x1000087F, ((pFst (pSome (some (unitOf (0x1000087F : BitVec 32).toNat))))).get (by decide +kernel), ((pSnd (pSome (some (unitOf (0x1000087F : BitVec 32).toNat))))).get (by decide +kernel), ((pSome (some ((st ((vfD vd0).onSched fun x => { x with leaving := [⟨.core, 2175, 0, 1, [.cluster 0], false, false, true⟩] }) : State).dev.sched.leaving.find? (fun u => u.kind == (((pFst (pSome (some (unitOf (0x1000087F : BitVec 32).toNat))))).get (by decide +kernel)) && u.num == (((pSnd (pSome (some (unitOf (0x1000087F : BitVec 32).toNat))))).get (by decide +kernel))))))).get (by decide +kernel), by decide +kernel⟩,
   ⟨0, by decide +kernel⟩,
   ⟨st ((vfD vd0).onSched fun x => { x with leaving := [⟨.core, 2175, 0, 1, [.cluster 0], false, false, true⟩] }), 0x1000087F, ((pFst (pSome (some (unitOf (0x1000087F : BitVec 32).toNat))))).get (by decide +kernel), ((pSnd (pSome (some (unitOf (0x1000087F : BitVec 32).toNat))))).get (by decide +kernel), ((pHead (some ((st ((vfD vd0).onSched fun x => { x with leaving := [⟨.core, 2175, 0, 1, [.cluster 0], false, false, true⟩] }) : State).dev.sched.leaving)))).get (by decide +kernel), by decide +kernel⟩⟩

/-- Witnesses for PortCommands. -/
theorem wit_PortCommands :
    (∃ (s : State), ∃ (p : Port), s.dev.clk.powered = true ∧ (s.dev.port p.val).state = 0) ∧
    (∃ (s : State), ∃ (p : Port), (s.dev.clk.powered = false ∨ (s.dev.port p.val).state ≠ 0)) ∧
    (∃ (s : State), ∃ (p : Port), (s.dev.port p.val).state = 0 ∧ (s.dev.port p.val).active = 0 ∧ (s.dev.port p.val).failed ≠ 0) ∧
    (∃ (s : State), ∃ (p : Port), ((s.dev.port p.val).state ≠ 0 ∨ (s.dev.port p.val).active ≠ 0 ∨ (s.dev.port p.val).failed = 0)) ∧
    (∃ (s : State), ∃ (p : Port), (s.dev.port p.val).state ≠ 1) ∧
    (∃ (s : State), ∃ (p : Port), (s.dev.port p.val).state = 1) ∧
    (∃ (s : State), s.dev.fab.exchanges = [] ∧ s.dev.fx.remote = []) ∧
    (∃ (d : Dev), ∃ (p : Nat), ∃ (acl : BitVec 16), (d.port p).state = 2 ∧ d.fw.state = 2 ∧ d.secUp = true ∧ acl ≠ 0 ∧ (d.unit .port p).adminOut = false ∧ ((d.unit .port p).cause = 0 ∨ (d.unit .port p).returning = true) ∧ (d.port p).session = 0) ∧
    (∃ (d : Dev), ∃ (p : Nat), ∃ (acl : BitVec 16), (d.port p).state = 2 ∧ d.fw.state = 2 ∧ d.secUp = true ∧ acl ≠ 0 ∧ (d.unit .port p).adminOut = false ∧ ((d.unit .port p).cause = 0 ∨ (d.unit .port p).returning = true) ∧ (d.port p).session ≠ 0) ∧
    (∃ (d : Dev), ∃ (p : Nat), ∃ (acl : BitVec 16), (d.port p).state = 2 ∧ d.fw.state = 2 ∧ d.secUp = true ∧ acl ≠ 0 ∧ (d.unit .port p).adminOut = true) ∧
    (∃ (d : Dev), ∃ (p : Nat), ∃ (acl : BitVec 16), (d.port p).state = 2 ∧ d.fw.state = 2 ∧ d.secUp = true ∧ acl ≠ 0 ∧ (d.unit .port p).adminOut = false ∧ (d.unit .port p).cause ≠ 0 ∧ (d.unit .port p).returning = false) ∧
    (∃ (d : Dev), ∃ (p : Nat), ((d.port p).state ≠ 2 ∨ d.fw.state ≠ 2 ∨ d.secUp = false)) ∧
    (∃ (d : Dev), ∃ (p : Nat), ∃ (ok : Bool), ∃ (acl : BitVec 16), (d.port p).state = 2 ∧ d.fw.state = 2 ∧ d.secUp = true ∧ (ok = false ∨ acl = 0)) ∧
    (∃ (w : Wk), ∃ (p : Nat), ∃ (l : LaneLock), (w.dev.port p).state = 5 ∧ 4 ≤ (linkLanes (l.here &&& l.peer)).length) ∧
    (∃ (w : Wk), ∃ (p : Nat), ∃ (ok : Bool), ∃ (l : LaneLock), (w.dev.port p).state = 5 ∧ (ok = false ∨ (linkLanes (l.here &&& l.peer)).length < 4)) ∧
    (∃ (w : Wk), ∃ (p : Nat), (w.dev.port p).state ≠ 5) ∧
    (∃ (s : State), ∃ (p : Port), ((s.dev.port p.val).trained = false ∨ s.dev.secUp = false ∨ (s.dev.port p.val).tx.toNat / 2 ^ 40 < (s.dev.port p.val).span)) ∧
    (∃ (s : State), ∃ (p : Port), (s.dev.port p.val).trained = true ∧ s.dev.secUp = true ∧ (s.dev.port p.val).span ≤ (s.dev.port p.val).tx.toNat / 2 ^ 40) :=
  ⟨⟨st upDev, 0, by decide +kernel⟩,
   ⟨State.reset, 0, by decide +kernel⟩,
   ⟨st ((upDev).onPort 15 fun p => { p with failed := 1 }), 15, by decide +kernel⟩,
   ⟨State.reset, 0, by decide +kernel⟩,
   ⟨State.reset, 0, by decide +kernel⟩,
   ⟨st ((upDev).onPort 15 fun p => { p with state := 1 }), 15, by decide +kernel⟩,
   ⟨State.reset, by decide +kernel⟩,
   ⟨(upDev).onPort 15 fun p => { p with state := 2 }, 15, 1, by decide +kernel⟩,
   ⟨(upDev).onPort 15 fun p => { p with state := 2, session := 5 }, 15, 1, by decide +kernel⟩,
   ⟨(upDev.onUnit .port 15 fun u => { u with adminOut := true }).onPort 15 fun p => { p with state := 2 }, 15, 1, by decide +kernel⟩,
   ⟨(upDev.onUnit .port 15 fun u => { u with cause := 1 }).onPort 15 fun p => { p with state := 2 }, 15, 1, by decide +kernel⟩,
   ⟨Dev.reset, 0, by decide +kernel⟩,
   ⟨(upDev).onPort 15 fun p => { p with state := 2 }, 15, false, 0, by decide +kernel⟩,
   ⟨work (st ((upDev).onPort 15 fun p => { p with state := 5 })), 15, ⟨0xF, 0xF⟩, by decide +kernel⟩,
   ⟨work (st ((upDev).onPort 15 fun p => { p with state := 5 })), 15, true, ⟨7, 7⟩, by decide +kernel⟩,
   ⟨(work State.reset), 0, by decide +kernel⟩,
   ⟨State.reset, 0, by decide +kernel⟩,
   ⟨st ((upDev).onPort 15 fun p => { p with state := 3, active := 0xFF, reserve := 0x300 }), 15, by decide +kernel⟩⟩

/-- Witnesses for LaneAndFlitCommands. -/
theorem wit_LaneAndFlitCommands :
    (∃ (x : PortSt), ∃ (lane : Nat), bitAt x.active.toNat lane = false) ∧
    (∃ (x : PortSt), ∃ (lane : Nat), ∃ r, ∃ rest, bitAt x.active.toNat lane = true ∧ linkLanes x.reserve = r :: rest) ∧
    (∃ (x : PortSt), ∃ (lane : Nat), ∃ good, good = ((linkLanes x.active).filter (· != lane)) ∧ bitAt x.active.toNat lane = true ∧ linkLanes x.reserve = [] ∧ 4 ≤ good.length) ∧
    (∃ (x : PortSt), ∃ (lane : Nat), ∃ good, good = ((linkLanes x.active).filter (· != lane)) ∧ bitAt x.active.toNat lane = true ∧ linkLanes x.reserve = [] ∧ good.length < 4) ∧
    (∃ (w : Wk), ∃ (p : Nat), ∃ (lane : Nat), ∃ x, x = (w.dev.port p) ∧ ((x.trained || x.state == 2) = false ∨ bitAt x.failed.toNat lane = true)) ∧
    (∃ (w : Wk), ∃ (p : Nat), ∃ (lane : Nat), ∃ x, x = (w.dev.port p) ∧ ∃ y, y = (x.dropLane lane) ∧ (x.trained || x.state == 2) = true ∧ bitAt x.failed.toNat lane = false ∧ y.width = 0) ∧
    (∃ (w : Wk), ∃ (p : Nat), ∃ (lane : Nat), ∃ x, x = (w.dev.port p) ∧ ∃ y, y = (x.dropLane lane) ∧ (x.trained || x.state == 2) = true ∧ bitAt x.failed.toNat lane = false ∧ y.width ≠ 0) ∧
    (∃ (s : State), ∃ (p : Port), ∃ (q : BitVec 32), ∃ x, x = (s.dev.port p.val) ∧ ∃ a, a = (extendSeq x.acked q.toNat) ∧ x.switchAt = [] ∧ (a - x.acked).toNat ≤ (x.tx - x.acked).toNat) ∧
    (∃ (s : State), ∃ (p : Port), ∃ (q : BitVec 32), ∃ x, x = (s.dev.port p.val) ∧ ∃ a, a = (extendSeq x.acked q.toNat) ∧ x.switchAt = [] ∧ (x.tx - x.acked).toNat < (a - x.acked).toNat) ∧
    (∃ (s : State), ∃ (p : Port), (s.dev.port p.val).trained = false ∧ (s.dev.port p.val).switchAt = [] ∧ (s.dev.port p.val).state ≠ 2) ∧
    (∃ (s : State), ∃ (p : Port), ∃ (i : Instr), ∃ (k : Nat), ∃ (hdr : BitVec 128), ∃ (b : FlitBody), ∃ (ls : List Nat), ((k = 1 ∧ (i = .flitData p hdr true b ls ∨ (i = .flitData p hdr false b ls ∧ (s.dev.port p.val).authentic hdr b = false))) ∨ (k = 2 ∧ (i = .flitMgmt p hdr true ⟨b, ls⟩ ∨ (i = .flitMgmt p hdr false ⟨b, ls⟩ ∧ (s.dev.port p.val).authentic hdr b = false)))) ∧ (s.dev.port p.val).trained = true ∧ (s.dev.port p.val).switchAt = [] ∧ flitKind hdr = k) ∧
    (∃ (s : State), ∃ (p : Port), ∃ (i : Instr), ∃ (k : Nat), ∃ (hdr : BitVec 128), ∃ (b : FlitBody), ∃ (ls : List Nat), ((k = 1 ∧ i = .flitData p hdr false b ls ∧ bitAt hdr.toNat 71 = false) ∨ (k = 2 ∧ i = .flitMgmt p hdr false ⟨b, ls⟩)) ∧ (s.dev.port p.val).trained = true ∧ (s.dev.port p.val).switchAt = [] ∧ (s.dev.port p.val).authentic hdr b = true ∧ flitKind hdr = k) ∧
    (∃ (s : State), ∃ (p : Port), ∃ (hdr : BitVec 128), ∃ (fec : Bool), ∃ (b : FlitBody), ∃ (ls : List Nat), ∃ r, r = (doFlit p.val 1 hdr fec b ls s.dev) ∧ r.2 = none) ∧
    (∃ (s : State), ∃ (p : Port), ∃ (hdr : BitVec 128), ∃ (fec : Bool), ∃ (b : FlitBody), ∃ (ls : List Nat), ∃ r, r = (doFlit p.val 1 hdr fec b ls s.dev) ∧ ∃ (bs : List Byte), r.2 = some bs) ∧
    (∃ (d : Dev), ∃ (p : Nat), ∃ (hdr : BitVec 128), ∃ (b : FlitBody), (d.port p).trained = true ∧ flitKind hdr = 1 ∧ (d.port p).authentic hdr b = true ∧ flitSeq hdr = (d.port p).rx.toNat % 2 ^ 32 ∧ bitAt hdr.toNat 71 = true) ∧
    (∃ (s : State), ∃ (p : Port), ∃ (q : BitVec 32), ∃ x, x = (s.dev.port p.val) ∧ ∃ a, a = (extendSeq x.acked q.toNat) ∧ (s.dev.port p.val).trained = true ∧ (s.dev.port p.val).resends = 0 ∧ (a - x.acked).toNat < (x.tx - x.acked).toNat) ∧
    (∃ (s : State), ∃ (p : Port), ∃ (q : BitVec 32), ∃ x, x = (s.dev.port p.val) ∧ ∃ a, a = (extendSeq x.acked q.toNat) ∧ ((x.trained = false ∧ x.state ≠ 2) ∨ (x.tx - x.acked).toNat ≤ (a - x.acked).toNat)) ∧
    (∃ (s : State), ∃ (p : Port), ∃ (q : BitVec 32), ∃ x, x = (s.dev.port p.val) ∧ ∃ a, a = (extendSeq x.acked q.toNat) ∧ x.trained = true ∧ (a - x.acked).toNat < (x.tx - x.acked).toNat ∧ a = x.acked ∧ 4 ≤ x.resends) :=
  ⟨⟨PortSt.reset, 0, by decide +kernel⟩,
   ⟨{ PortSt.reset with active := 0xFF, reserve := 0x300 }, 0, ((pHead (some (linkLanes ({ PortSt.reset with active := 0xFF, reserve := 0x300 } : PortSt).reserve)))).get (by decide +kernel), ((pTail (some (linkLanes ({ PortSt.reset with active := 0xFF, reserve := 0x300 } : PortSt).reserve)))).get (by decide +kernel), by decide +kernel⟩,
   ⟨{ PortSt.reset with active := 0xFF }, 0, _, rfl, by decide +kernel⟩,
   ⟨{ PortSt.reset with active := 0xF }, 0, _, rfl, by decide +kernel⟩,
   ⟨(work State.reset), 0, 0, _, rfl, by decide +kernel⟩,
   ⟨work (st ((upDev).onPort 15 fun p => { p with state := 2, active := 0xF })), 15, 0, _, rfl, _, rfl, by decide +kernel⟩,
   ⟨work (st ((upDev).onPort 15 fun p => { p with state := 2, active := 0x3F })), 15, 0, _, rfl, _, rfl, by decide +kernel⟩,
   ⟨State.reset, 0, 0, _, rfl, _, rfl, by decide +kernel⟩,
   ⟨st ((upDev).onPort 15 fun p => { p with state := 3, active := 0xFF, reserve := 0x300 }), 15, 9, _, rfl, _, rfl, by decide +kernel⟩,
   ⟨State.reset, 0, by decide +kernel⟩,
   ⟨st ((upDev).onPort 15 fun p => { p with state := 3, active := 0xFF, reserve := 0x300 }), 15, .flitMgmt 15 0x20000000000000000 true ⟨⟨[], 0⟩, []⟩, 2, 0x20000000000000000, ⟨[], 0⟩, [], Or.inr ⟨rfl, Or.inl rfl⟩, by decide +kernel⟩,
   ⟨st ((upDev).onPort 15 fun p => { p with state := 3, active := 0xFF, reserve := 0x300 }), 15, .flitMgmt 15 0x20000000000000000 false ⟨⟨[], 0⟩, []⟩, 2, 0x20000000000000000, ⟨[], 0⟩, [], Or.inr ⟨rfl, rfl⟩, by decide +kernel⟩,
   ⟨State.reset, 0, 0, false, ⟨[], 0⟩, [], _, rfl, by decide +kernel⟩,
   ⟨st ((upDev).onPort 15 fun p => { p with state := 3, active := 0xFF, reserve := 0x300 }), 15, 0x800000000000000000 ||| 0x400000000000000000 ||| 0x10000000000000000, false, ⟨[], 0⟩, [], _, rfl, ((pSome (some ((doFlit (15 : Port).val 1 (0x800000000000000000 ||| 0x400000000000000000 ||| 0x10000000000000000 : BitVec 128) (false : Bool) (⟨[], 0⟩ : FlitBody) ([] : List Nat) (st ((upDev).onPort 15 fun p => { p with state := 3, active := 0xFF, reserve := 0x300 }) : State).dev).2)))).get (by decide +kernel), by decide +kernel⟩,
   ⟨(upDev).onPort 15 fun p => { p with state := 3, active := 0xFF, reserve := 0x300 }, 15, 0x800000000000000000 ||| 0x400000000000000000 ||| 0x10000000000000000, ⟨[], 0⟩, by decide +kernel⟩,
   ⟨st ((upDev).onPort 15 fun p => { p with state := 3, active := 0xFF, reserve := 0x300, tx := 5 }), 15, 4, _, rfl, _, rfl, by decide +kernel⟩,
   ⟨State.reset, 0, 0, _, rfl, _, rfl, by decide +kernel⟩,
   ⟨st ((upDev).onPort 15 fun p => { p with state := 3, active := 0xFF, reserve := 0x300, tx := 5, resends := 4 }), 15, 0, _, rfl, _, rfl, by decide +kernel⟩⟩

/-- Witnesses for CollectivesAndMessages. -/
theorem wit_CollectivesAndMessages :
    (∃ (s : State), ∃ (v : VDev), ∃ (i : Nat), ∃ (bs : List Byte), ∃ a, a = ((headReq v.val i bs).args) ∧ ∃ (g : Group), g = (⟨BitVec.ofNat 32 (fieldLe a 0 4), fieldLe a 4 2, fieldLe a 6 2, BitVec.ofNat 64 (fieldLe a 8 8), [BitVec.ofNat 32 (fieldLe a 16 4), BitVec.ofNat 32 (fieldLe a 20 4)]⟩) ∧ Accepted s.dev v.val (adRow 0x0260 24) i bs ∧ 1 ≤ g.size ∧ g.size ≤ 4096 ∧ g.rank < g.size ∧ (((g.nbrs.filter (· != 0)).all fun n => (s.dev.portTo v.val n.toNat).isSome) = true) ∧ (s.dev.vd v.val).group? g.id.toNat = none ∧ (s.dev.vd v.val).groups.length < 64) ∧
    (∃ (s : State), ∃ (v : VDev), ∃ (i : Nat), ∃ (bs : List Byte), ∃ g, g = (fieldLe (headReq v.val i bs).args 0 4) ∧ ∃ (y : Group), Accepted s.dev v.val (adRow 0x0261 4) i bs ∧ (s.dev.vd v.val).group? g = some y) ∧
    (∃ (s : State), ∃ (v : VDev), ∃ (q : QId), ∃ (rs : List RemotePart), ∃ (i : Instr), ∃ (k : OpK), ∃ (x : Queue), ∃ (c : Cmd), (i, k) ∈ [(.allReduce v (.good q) rs, OpK.allReduce), (.reduceScatter v (.good q) rs, .reduceScatter), (.allGather v (.good q) rs, .allGather), (.allToAll v (.good q) rs, .allToAll), (.broadcast v (.good q) rs, .broadcast)] ∧ runningOp s.dev v.val q.val k = some (x, c) ∧ (((s.dev.groupPorts v.val c.group).any fun p => s.dev.dredgeBars (fun e => match e with | .lx y => y.val == p | _ => false) c.no) = false) ∧ s.dev.fab.refused.contains (c.group, c.opSeq) = true) ∧
    (∃ (s : State), ∃ (v : VDev), ∃ (q : QId), ∃ (rs : List RemotePart), ∃ (i : Instr), ∃ (k : OpK), ∃ (x : Queue), ∃ (c : Cmd), (i, k) ∈ [(.allReduce v (.good q) rs, OpK.allReduce), (.reduceScatter v (.good q) rs, .reduceScatter), (.allGather v (.good q) rs, .allGather), (.allToAll v (.good q) rs, .allToAll), (.broadcast v (.good q) rs, .broadcast)] ∧ runningOp s.dev v.val q.val k = some (x, c) ∧ (((s.dev.groupPorts v.val c.group).any fun p => s.dev.dredgeBars (fun e => match e with | .lx y => y.val == p | _ => false) c.no) = false) ∧ s.dev.fab.refused.contains (c.group, c.opSeq) = false ∧ s.dev.fab.failed.contains (c.group, c.opSeq) = true) ∧
    (∃ (s : State), ∃ (v : VDev), ∃ (q : QId), ∃ (rs : List RemotePart), ∃ (i : Instr), ∃ (k : OpK), ∃ (x : Queue), ∃ (c : Cmd), ∃ twin, twin = (fun (m : Member) => (m.c.rank == c.rank && m.c.no != c.no && (decide (m.c.no < c.no) || m.c.phase != .running) : Bool)) ∧ ∃ opened, opened = ((s.dev.fab.exchanges.any fun e => e.cmd == c.no) || (s.dev.phaseOf v.val c).isSome) ∧ (i, k) ∈ [(.allReduce v (.good q) rs, OpK.allReduce), (.reduceScatter v (.good q) rs, .reduceScatter), (.allGather v (.good q) rs, .allGather), (.allToAll v (.good q) rs, .allToAll), (.broadcast v (.good q) rs, .broadcast)] ∧ runningOp s.dev v.val q.val k = some (x, c) ∧ (((s.dev.groupPorts v.val c.group).any fun p => s.dev.dredgeBars (fun e => match e with | .lx y => y.val == p | _ => false) c.no) = false) ∧ s.dev.fab.refused.contains (c.group, c.opSeq) = false ∧ s.dev.fab.failed.contains (c.group, c.opSeq) = false ∧ ((s.dev.members c.group c.opSeq Cmd.inExchange).any twin = true ∨ (opened = false ∧ (rs.any fun r => r.rank == c.rank) = true))) ∧
    (∃ (s : State), ∃ (v : VDev), ∃ (q : QId), ∃ (rs : List RemotePart), ∃ (i : Instr), ∃ (k : OpK), ∃ (x : Queue), ∃ (c : Cmd), ∃ (me : Member), me = (⟨v.val, q.val, x, c⟩) ∧ ∃ all, all = (s.dev.running c.group c.opSeq) ∧ ∃ twin, twin = (fun (m : Member) => (m.c.rank == c.rank && m.c.no != c.no && (decide (m.c.no < c.no) || m.c.phase != .running) : Bool)) ∧ ∃ opened, opened = ((s.dev.fab.exchanges.any fun e => e.cmd == c.no) || (s.dev.phaseOf v.val c).isSome) ∧ ∃ ms, ms = (all.filter fun m => !(all.any fun o => o.c.rank == m.c.rank && decide (o.c.no < m.c.no))) ∧ ∃ parts, parts = (carriedParts k me (ms.map fun m => m.c.rank) rs (work s)) ∧ (i, k) ∈ [(.allReduce v (.good q) rs, OpK.allReduce), (.reduceScatter v (.good q) rs, .reduceScatter), (.allGather v (.good q) rs, .allGather), (.allToAll v (.good q) rs, .allToAll), (.broadcast v (.good q) rs, .broadcast)] ∧ runningOp s.dev v.val q.val k = some (x, c) ∧ (((s.dev.groupPorts v.val c.group).any fun p => s.dev.dredgeBars (fun e => match e with | .lx y => y.val == p | _ => false) c.no) = false) ∧ s.dev.fab.refused.contains (c.group, c.opSeq) = false ∧ s.dev.fab.failed.contains (c.group, c.opSeq) = false ∧ (s.dev.members c.group c.opSeq Cmd.inExchange).any twin = false ∧ (opened = true ∨ (rs.any fun r => r.rank == c.rank) = false) ∧ ((∃ m ∈ ms, m.terms s.dev ≠ me.terms s.dev) ∨ (∃ r ∈ parts, r.same = false))) ∧
    (∃ (s : State), ∃ (v : VDev), ∃ (q : QId), ∃ (rs : List RemotePart), ∃ (i : Instr), ∃ (k : OpK), ∃ (x : Queue), ∃ (c : Cmd), ∃ (me : Member), me = (⟨v.val, q.val, x, c⟩) ∧ ∃ all, all = (s.dev.running c.group c.opSeq) ∧ ∃ twin, twin = (fun (m : Member) => (m.c.rank == c.rank && m.c.no != c.no && (decide (m.c.no < c.no) || m.c.phase != .running) : Bool)) ∧ ∃ opened, opened = ((s.dev.fab.exchanges.any fun e => e.cmd == c.no) || (s.dev.phaseOf v.val c).isSome) ∧ ∃ ms, ms = (all.filter fun m => !(all.any fun o => o.c.rank == m.c.rank && decide (o.c.no < m.c.no))) ∧ ∃ parts, parts = (carriedParts k me (ms.map fun m => m.c.rank) rs (work s)) ∧ ∃ m, ∃ e, (i, k) ∈ [(.allReduce v (.good q) rs, OpK.allReduce), (.reduceScatter v (.good q) rs, .reduceScatter), (.allGather v (.good q) rs, .allGather), (.allToAll v (.good q) rs, .allToAll), (.broadcast v (.good q) rs, .broadcast)] ∧ runningOp s.dev v.val q.val k = some (x, c) ∧ (((s.dev.groupPorts v.val c.group).any fun p => s.dev.dredgeBars (fun e => match e with | .lx y => y.val == p | _ => false) c.no) = false) ∧ s.dev.fab.refused.contains (c.group, c.opSeq) = false ∧ s.dev.fab.failed.contains (c.group, c.opSeq) = false ∧ (s.dev.members c.group c.opSeq Cmd.inExchange).any twin = false ∧ (opened = true ∨ (rs.any fun r => r.rank == c.rank) = false) ∧ (∀ m ∈ ms, m.terms s.dev = me.terms s.dev) ∧ (∀ r ∈ parts, r.same = true) ∧ memberData (work s) ms = .error (m, e)) ∧
    (∃ (s : State), ∃ (v : VDev), ∃ (q : QId), ∃ (rs : List RemotePart), ∃ (i : Instr), ∃ (k : OpK), ∃ (x : Queue), ∃ (c : Cmd), ∃ (me : Member), me = (⟨v.val, q.val, x, c⟩) ∧ ∃ all, all = (s.dev.running c.group c.opSeq) ∧ ∃ twin, twin = (fun (m : Member) => (m.c.rank == c.rank && m.c.no != c.no && (decide (m.c.no < c.no) || m.c.phase != .running) : Bool)) ∧ ∃ opened, opened = ((s.dev.fab.exchanges.any fun e => e.cmd == c.no) || (s.dev.phaseOf v.val c).isSome) ∧ ∃ ms, ms = (all.filter fun m => !(all.any fun o => o.c.rank == m.c.rank && decide (o.c.no < m.c.no))) ∧ ∃ parts, parts = (carriedParts k me (ms.map fun m => m.c.rank) rs (work s)) ∧ ∃ t, t = (c.block.inp 0) ∧ ∃ far, far = (parts.map fun r => (r.rank, remoteData t r.data)) ∧ ∃ mine, (i, k) ∈ [(.allReduce v (.good q) rs, OpK.allReduce), (.reduceScatter v (.good q) rs, .reduceScatter), (.allGather v (.good q) rs, .allGather), (.allToAll v (.good q) rs, .allToAll), (.broadcast v (.good q) rs, .broadcast)] ∧ runningOp s.dev v.val q.val k = some (x, c) ∧ (((s.dev.groupPorts v.val c.group).any fun p => s.dev.dredgeBars (fun e => match e with | .lx y => y.val == p | _ => false) c.no) = false) ∧ s.dev.fab.refused.contains (c.group, c.opSeq) = false ∧ s.dev.fab.failed.contains (c.group, c.opSeq) = false ∧ (s.dev.members c.group c.opSeq Cmd.inExchange).any twin = false ∧ (opened = true ∨ (rs.any fun r => r.rank == c.rank) = false) ∧ (∀ m ∈ ms, m.terms s.dev = me.terms s.dev) ∧ (∀ r ∈ parts, r.same = true) ∧ memberData (work s) ms = .ok mine ∧ (∃ e ∈ far, e.2 = none)) ∧
    (∃ (s : State), ∃ (v : VDev), ∃ (q : QId), ∃ (rs : List RemotePart), ∃ (i : Instr), ∃ (k : OpK), ∃ (x : Queue), ∃ (c : Cmd), ∃ (me : Member), me = (⟨v.val, q.val, x, c⟩) ∧ ∃ all, all = (s.dev.running c.group c.opSeq) ∧ ∃ twin, twin = (fun (m : Member) => (m.c.rank == c.rank && m.c.no != c.no && (decide (m.c.no < c.no) || m.c.phase != .running) : Bool)) ∧ ∃ opened, opened = ((s.dev.fab.exchanges.any fun e => e.cmd == c.no) || (s.dev.phaseOf v.val c).isSome) ∧ ∃ ms, ms = (all.filter fun m => !(all.any fun o => o.c.rank == m.c.rank && decide (o.c.no < m.c.no))) ∧ ∃ parts, parts = (carriedParts k me (ms.map fun m => m.c.rank) rs (work s)) ∧ ∃ t, t = (c.block.inp 0) ∧ ∃ far, far = (parts.map fun r => (r.rank, remoteData t r.data)) ∧ ∃ mine, ∃ data, data = (mine ++ far.filterMap fun e => e.2.map fun y => (e.1, y)) ∧ ∃ xs, xs = ((List.range c.participants).filterMap fun i => (data.find? fun e => e.1 == i).map Prod.snd) ∧ ∃ own, own = (fun (m : Member) => (((mine.find? fun e => e.1 == m.c.rank).map Prod.snd).getD ⟨[], t.fmt, []⟩ : Data)) ∧ ∃ w, w = (flushDue (ms.foldl (fun w m => if m.c.no = c.no ∨ c.participants ≤ xs.length then commitPhases k m (own m) xs parts (openExchange k m (own m) w) else w) (work s))) ∧ ∃ owed, owed = (w.dev.fab.exchanges.any fun e => (ms.any fun m => m.c.no == e.cmd) && !e.due.isEmpty) ∧ (i, k) ∈ [(.allReduce v (.good q) rs, OpK.allReduce), (.reduceScatter v (.good q) rs, .reduceScatter), (.allGather v (.good q) rs, .allGather), (.allToAll v (.good q) rs, .allToAll), (.broadcast v (.good q) rs, .broadcast)] ∧ runningOp s.dev v.val q.val k = some (x, c) ∧ (((s.dev.groupPorts v.val c.group).any fun p => s.dev.dredgeBars (fun e => match e with | .lx y => y.val == p | _ => false) c.no) = false) ∧ s.dev.fab.refused.contains (c.group, c.opSeq) = false ∧ s.dev.fab.failed.contains (c.group, c.opSeq) = false ∧ (s.dev.members c.group c.opSeq Cmd.inExchange).any twin = false ∧ (opened = true ∨ (rs.any fun r => r.rank == c.rank) = false) ∧ (∀ m ∈ ms, m.terms s.dev = me.terms s.dev) ∧ (∀ r ∈ parts, r.same = true) ∧ memberData (work s) ms = .ok mine ∧ (∀ e ∈ far, e.2 ≠ none) ∧ (xs.length < c.participants ∨ owed = true)) ∧
    (∃ (s : State), ∃ (v : VDev), ∃ (q : QId), ∃ (rs : List RemotePart), ∃ (i : Instr), ∃ (k : OpK), ∃ (x : Queue), ∃ (c : Cmd), ∃ (me : Member), me = (⟨v.val, q.val, x, c⟩) ∧ ∃ all, all = (s.dev.running c.group c.opSeq) ∧ ∃ twin, twin = (fun (m : Member) => (m.c.rank == c.rank && m.c.no != c.no && (decide (m.c.no < c.no) || m.c.phase != .running) : Bool)) ∧ ∃ opened, opened = ((s.dev.fab.exchanges.any fun e => e.cmd == c.no) || (s.dev.phaseOf v.val c).isSome) ∧ ∃ ms, ms = (all.filter fun m => !(all.any fun o => o.c.rank == m.c.rank && decide (o.c.no < m.c.no))) ∧ ∃ parts, parts = (carriedParts k me (ms.map fun m => m.c.rank) rs (work s)) ∧ ∃ t, t = (c.block.inp 0) ∧ ∃ far, far = (parts.map fun r => (r.rank, remoteData t r.data)) ∧ ∃ mine, ∃ data, data = (mine ++ far.filterMap fun e => e.2.map fun y => (e.1, y)) ∧ ∃ xs, xs = ((List.range c.participants).filterMap fun i => (data.find? fun e => e.1 == i).map Prod.snd) ∧ ∃ own, own = (fun (m : Member) => (((mine.find? fun e => e.1 == m.c.rank).map Prod.snd).getD ⟨[], t.fmt, []⟩ : Data)) ∧ ∃ w, w = (flushDue (ms.foldl (fun w m => if m.c.no = c.no ∨ c.participants ≤ xs.length then commitPhases k m (own m) xs parts (openExchange k m (own m) w) else w) (work s))) ∧ ∃ owed, owed = (w.dev.fab.exchanges.any fun e => (ms.any fun m => m.c.no == e.cmd) && !e.due.isEmpty) ∧ ∃ m, ∃ e, (i, k) ∈ [(.allReduce v (.good q) rs, OpK.allReduce), (.reduceScatter v (.good q) rs, .reduceScatter), (.allGather v (.good q) rs, .allGather), (.allToAll v (.good q) rs, .allToAll), (.broadcast v (.good q) rs, .broadcast)] ∧ runningOp s.dev v.val q.val k = some (x, c) ∧ (((s.dev.groupPorts v.val c.group).any fun p => s.dev.dredgeBars (fun e => match e with | .lx y => y.val == p | _ => false) c.no) = false) ∧ s.dev.fab.refused.contains (c.group, c.opSeq) = false ∧ s.dev.fab.failed.contains (c.group, c.opSeq) = false ∧ (s.dev.members c.group c.opSeq Cmd.inExchange).any twin = false ∧ (opened = true ∨ (rs.any fun r => r.rank == c.rank) = false) ∧ (∀ m ∈ ms, m.terms s.dev = me.terms s.dev) ∧ (∀ r ∈ parts, r.same = true) ∧ memberData (work s) ms = .ok mine ∧ (∀ e ∈ far, e.2 ≠ none) ∧ c.participants ≤ xs.length ∧ owed = false ∧ memberBlocked k xs w ms = some (m, e)) ∧
    (∃ (s : State), ∃ (v : VDev), ∃ (q : QId), ∃ (rs : List RemotePart), ∃ (i : Instr), ∃ (k : OpK), ∃ (x : Queue), ∃ (c : Cmd), ∃ (me : Member), me = (⟨v.val, q.val, x, c⟩) ∧ ∃ all, all = (s.dev.running c.group c.opSeq) ∧ ∃ twin, twin = (fun (m : Member) => (m.c.rank == c.rank && m.c.no != c.no && (decide (m.c.no < c.no) || m.c.phase != .running) : Bool)) ∧ ∃ opened, opened = ((s.dev.fab.exchanges.any fun e => e.cmd == c.no) || (s.dev.phaseOf v.val c).isSome) ∧ ∃ ms, ms = (all.filter fun m => !(all.any fun o => o.c.rank == m.c.rank && decide (o.c.no < m.c.no))) ∧ ∃ parts, parts = (carriedParts k me (ms.map fun m => m.c.rank) rs (work s)) ∧ ∃ t, t = (c.block.inp 0) ∧ ∃ far, far = (parts.map fun r => (r.rank, remoteData t r.data)) ∧ ∃ mine, ∃ data, data = (mine ++ far.filterMap fun e => e.2.map fun y => (e.1, y)) ∧ ∃ xs, xs = ((List.range c.participants).filterMap fun i => (data.find? fun e => e.1 == i).map Prod.snd) ∧ ∃ own, own = (fun (m : Member) => (((mine.find? fun e => e.1 == m.c.rank).map Prod.snd).getD ⟨[], t.fmt, []⟩ : Data)) ∧ ∃ w, w = (flushDue (ms.foldl (fun w m => if m.c.no = c.no ∨ c.participants ≤ xs.length then commitPhases k m (own m) xs parts (openExchange k m (own m) w) else w) (work s))) ∧ ∃ owed, owed = (w.dev.fab.exchanges.any fun e => (ms.any fun m => m.c.no == e.cmd) && !e.due.isEmpty) ∧ (i, k) ∈ [(.allReduce v (.good q) rs, OpK.allReduce), (.reduceScatter v (.good q) rs, .reduceScatter), (.allGather v (.good q) rs, .allGather), (.allToAll v (.good q) rs, .allToAll), (.broadcast v (.good q) rs, .broadcast)] ∧ runningOp s.dev v.val q.val k = some (x, c) ∧ (((s.dev.groupPorts v.val c.group).any fun p => s.dev.dredgeBars (fun e => match e with | .lx y => y.val == p | _ => false) c.no) = false) ∧ s.dev.fab.refused.contains (c.group, c.opSeq) = false ∧ s.dev.fab.failed.contains (c.group, c.opSeq) = false ∧ (s.dev.members c.group c.opSeq Cmd.inExchange).any twin = false ∧ (opened = true ∨ (rs.any fun r => r.rank == c.rank) = false) ∧ (∀ m ∈ ms, m.terms s.dev = me.terms s.dev) ∧ (∀ r ∈ parts, r.same = true) ∧ memberData (work s) ms = .ok mine ∧ (∀ e ∈ far, e.2 ≠ none) ∧ c.participants ≤ xs.length ∧ owed = false ∧ memberBlocked k xs w ms = none) ∧
    (∃ (s : State), ∃ (v : VDev), ∃ (q : QId), ∃ (rs : List RemotePart), ∃ (i : Instr), ∃ (k : OpK), ∃ (x : Queue), ∃ (c : Cmd), (i, k) ∈ [(.allReduce v (.good q) rs, OpK.allReduce), (.reduceScatter v (.good q) rs, .reduceScatter), (.allGather v (.good q) rs, .allGather), (.allToAll v (.good q) rs, .allToAll), (.broadcast v (.good q) rs, .broadcast)] ∧ runningOp s.dev v.val q.val k = some (x, c) ∧ (((s.dev.groupPorts v.val c.group).any fun p => s.dev.dredgeBars (fun e => match e with | .lx y => y.val == p | _ => false) c.no) = true)) ∧
    (∃ (k : OpK), ∃ (m : Member), ∃ (xs : List Data), ∃ (w : Wk), ∃ r, r = ((w.dev.phaseOf m.v m.c).getD (newRecord k m w.dev)) ∧ ∃ till, till = (if m.c.participants ≤ xs.length then r.phases else max r.phase (min (xs.length - 1) r.phases)) ∧ till ≤ r.phase) ∧
    (∃ (k : OpK), ∃ (m : Member), ∃ (xs : List Data), ∃ (w : Wk), ∃ r, r = ((w.dev.phaseOf m.v m.c).getD (newRecord k m w.dev)) ∧ ∃ till, till = (if m.c.participants ≤ xs.length then r.phases else max r.phase (min (xs.length - 1) r.phases)) ∧ r.phase < till) ∧
    (∃ (s : State), ∃ (g : BitVec 32), ∃ (seq : BitVec 64), s.dev.fab.failed.contains (g.toNat, seq) = false ∧ s.dev.members g.toNat seq Cmd.open_ = []) ∧
    (∃ (d : Dev), ∃ (g : Nat), ∃ (seq : BitVec 64), d.fab.failed.contains (g, seq) = true) ∧
    (∃ (d : Dev), ∃ (g : Nat), ∃ (seq : BitVec 64), d.fab.failed.contains (g, seq) = false) ∧
    (∃ (s : State), ∃ (g : BitVec 32), ∃ (seq : BitVec 64), s.dev.running g.toNat seq = []) ∧
    (∃ (s : State), ∃ (g : BitVec 32), ∃ (seq : BitVec 64), s.dev.running g.toNat seq ≠ []) ∧
    (∃ (s : State), ∃ (g : BitVec 32), ∃ (seq : BitVec 64), ∃ (j : Nat), ∃ (e : Exchange), s.dev.fab.exchanges = [e] ∧ (e.group = g.toNat ∧ e.seq = seq ∧ (e.sent.any fun s => s.1 == j) = true)) ∧
    (∃ (s : State), ∃ (g : BitVec 32), ∃ (seq : BitVec 64), ∃ (j : Nat), ∃ (e : Exchange), s.dev.fab.exchanges = [e] ∧ (e.group ≠ g.toNat ∨ e.seq ≠ seq ∨ (e.sent.any fun s => s.1 == j) = false)) ∧
    (∃ (w : Wk), ∃ (e : Exchange), ∃ (pkg : Nat), ∃ (j : Nat), ∃ (data : PartData), e.due = [(pkg, j)] ∧ e.sent = [(j, data)] ∧ w.dev.portTo e.vdev pkg = none) ∧
    (∃ (w : Wk), ∃ (e : Exchange), ∃ (pkg : Nat), ∃ (j : Nat), ∃ (data : PartData), ∃ (p : Nat), e.due = [(pkg, j)] ∧ e.sent = [(j, data)] ∧ w.dev.portTo e.vdev pkg = some p) ∧
    (∃ (fs : List (BitVec 256)), (fs.length = 0 ∨ 4 < fs.length)) ∧
    (∃ (fs : List (BitVec 256)), fs.length ≠ 0 ∧ fs.length ≤ 4 ∧ (∃ f ∈ fs, fragDecode f = .corrupt)) ∧
    (∃ (fs : List (BitVec 256)), fs.length ≠ 0 ∧ fs.length ≤ 4 ∧ (∀ f ∈ fs, fragDecode f ≠ .corrupt)) ∧
    (∃ (s : State), ∃ (ep : BitVec 12), ∃ (f : BitVec 256), fragDecode f ≠ .corrupt ∧ s.dev.msgFor ep.toNat = none) ∧
    (∃ (s : State), ∃ (ep : BitVec 12), s.dev.msgFor ep.toNat = none) ∧
    (∃ (y : FragMsg), ∃ (w : Wk), ∃ (c : Cmd), ∃ (n : Nat), w.dev.msgFor y.ep.toNat = some (c, n) ∧ y.corrupt n = false ∧ y.complete n = true) ∧
    (∃ (y : FragMsg), ∃ (w : Wk), ∃ (c : Cmd), ∃ (n : Nat), w.dev.msgFor y.ep.toNat = some (c, n) ∧ y.corrupt n = false ∧ y.complete n = false) ∧
    (∃ (s : State), ∃ (h : Hop), ∃ (p : Packet), (s.dev.net.retired.contains h.1 = true ∨ s.dev.net.carried h p.hdr p.payload = none)) ∧
    (∃ (s : State), ∃ (h : Hop), ∃ (p : Packet), ∃ (f : Flight), s.dev.net.retired.contains h.1 = false ∧ s.dev.net.carried h p.hdr p.payload = some f) ∧
    (∃ (s : State), ∃ (h : Hop), ∃ (p : Packet), ∃ (f : Flight), s.dev.net.retired.contains h.1 = false ∧ s.dev.net.carried h p.hdr p.payload = some f) ∧
    (∃ (s : State), ∃ (r : Fin 212), s.dev.net.dead.contains r.val = true) ∧
    (∃ (s : State), ∃ (r : Fin 212), s.dev.net.dead.contains r.val = false) ∧
    (∃ (s : State), ∃ (p : Port), ∃ (hdr : BitVec 256), ∃ (bs : List Byte), (s.dev.port p.val).trained = true ∧ bits hdr.toNat 187 156 = bs.length ∧ bs.length ≤ 65536 ∧ bits hdr.toNat 255 252 = 11) ∧
    (∃ (s : State), ∃ (p : Port), ∃ (hdr : BitVec 256), ∃ (bs : List Byte), (s.dev.port p.val).trained = true ∧ bits hdr.toNat 187 156 = bs.length ∧ bs.length ≤ 65536 ∧ bits hdr.toNat 255 252 = 8 ∧ bs.length % 32 = 0 ∧ bs.length / 32 ≤ 2047) ∧
    (∃ (s : State), ∃ (p : Port), ∃ (hdr : BitVec 256), ∃ (bs : List Byte), (s.dev.port p.val).trained = true ∧ bits hdr.toNat 187 156 = bs.length ∧ bs.length ≤ 65536 ∧ bits hdr.toNat 255 252 = 9 ∧ bs.length = 96) ∧
    (∃ (s : State), ∃ (p : Port), ∃ (hdr : BitVec 256), ∃ (bs : List Byte), (s.dev.port p.val).trained = true ∧ bits hdr.toNat 187 156 = bs.length ∧ bs.length ≤ 65536 ∧ bits hdr.toNat 255 252 = 10) ∧
    (∃ (s : State), ∃ (p : Port), ∃ (hdr : BitVec 256), ∃ (bs : List Byte), ((s.dev.port p.val).trained = false ∨ bits hdr.toNat 187 156 ≠ bs.length ∨ 65536 < bs.length)) ∧
    (∃ (s : State), ∃ (v : VDev), ∃ (i : BitVec 16), ∃ (pv : Nat), ∃ (ps : Nat), ((s.dev.vd v.val).slot i.toNat).ref = .proxy pv ps ∧ ((s.dev.vd v.val).slot i.toNat).inUse = true ∧ s.dev.portTo v.val ((s.dev.vd v.val).slot i.toNat).pkg = none ∧ s.dev.proxyFailed pv ps = false) ∧
    (∃ (s : State), ∃ (v : VDev), ∃ (q : QId), ∃ (e : Engine), ∃ (c : Cmd), s.dev.cur? v.val q.val = some c ∧ c.aborts.contains e = true) ∧
    (∃ (s : State), ∃ (v : VDev), ∃ (q : QId), ∃ (e : Engine), (∀ c, s.dev.cur? v.val q.val = some c → c.aborts.contains e = false)) :=
  ⟨⟨st (ask (vfD vd0) 0 0x0260 0 (natLe 4 5 ++ natLe 2 4096 ++ natLe 2 4095 ++ natLe 8 9 ++ natLe 8 0) 0), 0, 0, slotBytes 0x0260 0 (natLe 4 5 ++ natLe 2 4096 ++ natLe 2 4095 ++ natLe 8 9 ++ natLe 8 0) 0, _, rfl, _, rfl, accepted_of (by decide +kernel), by decide +kernel⟩,
   ⟨st (ask (aDev 2) 0 0x0261 0 (natLe 4 5) 0), 0, 0, slotBytes 0x0261 0 (natLe 4 5) 0, _, rfl, ((pSome (some (((st (ask (aDev 2) 0 0x0261 0 (natLe 4 5) 0) : State).dev.vd (0 : VDev).val).group? (fieldLe (headReq (0 : VDev).val (0 : Nat) (slotBytes 0x0261 0 (natLe 4 5) 0 : List Byte)).args 0 4))))).get (by decide +kernel), accepted_of (by decide +kernel), by decide +kernel⟩,
   ⟨st { aDev 2 with fab := { (aDev 2).fab with refused := [(5, 3)] } }, 0, 0, [], .allReduce 0 (.good 0) [], .allReduce, ((pFst (pSome (some (runningOp (st { aDev 2 with fab := { (aDev 2).fab with refused := [(5, 3)] } } : State).dev (0 : VDev).val (0 : QId).val (.allReduce : OpK)))))).get (by decide +kernel), ((pSnd (pSome (some (runningOp (st { aDev 2 with fab := { (aDev 2).fab with refused := [(5, 3)] } } : State).dev (0 : VDev).val (0 : QId).val (.allReduce : OpK)))))).get (by decide +kernel), List.mem_cons_self, by decide +kernel⟩,
   ⟨st { aDev 2 with fab := { (aDev 2).fab with failed := [(5, 3)] } }, 0, 0, [], .allReduce 0 (.good 0) [], .allReduce, ((pFst (pSome (some (runningOp (st { aDev 2 with fab := { (aDev 2).fab with failed := [(5, 3)] } } : State).dev (0 : VDev).val (0 : QId).val (.allReduce : OpK)))))).get (by decide +kernel), ((pSnd (pSome (some (runningOp (st { aDev 2 with fab := { (aDev 2).fab with failed := [(5, 3)] } } : State).dev (0 : VDev).val (0 : QId).val (.allReduce : OpK)))))).get (by decide +kernel), List.mem_cons_self, by decide +kernel⟩,
   ⟨st (aDev 2), 0, 0, [⟨0, true, .bytes []⟩], .allReduce 0 (.good 0) [⟨0, true, .bytes []⟩], .allReduce, ((pFst (pSome (some (runningOp (st (aDev 2) : State).dev (0 : VDev).val (0 : QId).val (.allReduce : OpK)))))).get (by decide +kernel), ((pSnd (pSome (some (runningOp (st (aDev 2) : State).dev (0 : VDev).val (0 : QId).val (.allReduce : OpK)))))).get (by decide +kernel), _, rfl, _, rfl, List.mem_cons_self, by decide +kernel⟩,
   ⟨st (vfD { vd0 with queues := [(0, qc (aCmd 2 0x90001 0)), (1, qc { aCmd 2 0x90002 1 with no := 8 })], groups := [⟨5, 2, 0, 9, [0, 0]⟩] }), 0, 0, [], .allReduce 0 (.good 0) [], .allReduce, ((pFst (pSome (some (runningOp (st (vfD { vd0 with queues := [(0, qc (aCmd 2 0x90001 0)), (1, qc { aCmd 2 0x90002 1 with no := 8 })], groups := [⟨5, 2, 0, 9, [0, 0]⟩] }) : State).dev (0 : VDev).val (0 : QId).val (.allReduce : OpK)))))).get (by decide +kernel), ((pSnd (pSome (some (runningOp (st (vfD { vd0 with queues := [(0, qc (aCmd 2 0x90001 0)), (1, qc { aCmd 2 0x90002 1 with no := 8 })], groups := [⟨5, 2, 0, 9, [0, 0]⟩] }) : State).dev (0 : VDev).val (0 : QId).val (.allReduce : OpK)))))).get (by decide +kernel), _, rfl, _, rfl, _, rfl, _, rfl, _, rfl, _, rfl, List.mem_cons_self, by decide +kernel⟩,
   ⟨st (tDev 2 0x10000000000 1 0), 0, 0, [], .allReduce 0 (.good 0) [], .allReduce, ((pFst (pSome (some (runningOp (st (tDev 2 0x10000000000 1 0) : State).dev (0 : VDev).val (0 : QId).val (.allReduce : OpK)))))).get (by decide +kernel), ((pSnd (pSome (some (runningOp (st (tDev 2 0x10000000000 1 0) : State).dev (0 : VDev).val (0 : QId).val (.allReduce : OpK)))))).get (by decide +kernel), _, rfl, _, rfl, _, rfl, _, rfl, _, rfl, _, rfl, ((pFst (pErr (some (memberData (work (st (tDev 2 0x10000000000 1 0) : State)) (((st (tDev 2 0x10000000000 1 0) : State).dev.running (((pSnd (pSome (some (runningOp (st (tDev 2 0x10000000000 1 0) : State).dev (0 : VDev).val (0 : QId).val (.allReduce : OpK)))))).get (by decide +kernel)).group (((pSnd (pSome (some (runningOp (st (tDev 2 0x10000000000 1 0) : State).dev (0 : VDev).val (0 : QId).val (.allReduce : OpK)))))).get (by decide +kernel)).opSeq).filter fun m => !(((st (tDev 2 0x10000000000 1 0) : State).dev.running (((pSnd (pSome (some (runningOp (st (tDev 2 0x10000000000 1 0) : State).dev (0 : VDev).val (0 : QId).val (.allReduce : OpK)))))).get (by decide +kernel)).group (((pSnd (pSome (some (runningOp (st (tDev 2 0x10000000000 1 0) : State).dev (0 : VDev).val (0 : QId).val (.allReduce : OpK)))))).get (by decide +kernel)).opSeq).any fun o => o.c.rank == m.c.rank && decide (o.c.no < m.c.no)))))))).get (by decide +kernel), ((pSnd (pErr (some (memberData (work (st (tDev 2 0x10000000000 1 0) : State)) (((st (tDev 2 0x10000000000 1 0) : State).dev.running (((pSnd (pSome (some (runningOp (st (tDev 2 0x10000000000 1 0) : State).dev (0 : VDev).val (0 : QId).val (.allReduce : OpK)))))).get (by decide +kernel)).group (((pSnd (pSome (some (runningOp (st (tDev 2 0x10000000000 1 0) : State).dev (0 : VDev).val (0 : QId).val (.allReduce : OpK)))))).get (by decide +kernel)).opSeq).filter fun m => !(((st (tDev 2 0x10000000000 1 0) : State).dev.running (((pSnd (pSome (some (runningOp (st (tDev 2 0x10000000000 1 0) : State).dev (0 : VDev).val (0 : QId).val (.allReduce : OpK)))))).get (by decide +kernel)).group (((pSnd (pSome (some (runningOp (st (tDev 2 0x10000000000 1 0) : State).dev (0 : VDev).val (0 : QId).val (.allReduce : OpK)))))).get (by decide +kernel)).opSeq).any fun o => o.c.rank == m.c.rank && decide (o.c.no < m.c.no)))))))).get (by decide +kernel), List.mem_cons_self, by decide +kernel, by decide +kernel, by decide +kernel, by decide +kernel, by decide +kernel, by decide +kernel, by decide +kernel, by decide +kernel, ex_eq (by decide +kernel)⟩,
   ⟨st { aDev 2 with records := [⟨0, 1, 5, 3, 0, 1, 1, 0, 0, 0, some (0, 0), some (1, 0), 0, [⟨1, true, .sums [(1 <<< 252) ||| (449 <<< 192)] [] []⟩], stateDigest []⟩] }, 0, 0, [], .allReduce 0 (.good 0) [], .allReduce, ((pFst (pSome (some (runningOp (st { aDev 2 with records := [⟨0, 1, 5, 3, 0, 1, 1, 0, 0, 0, some (0, 0), some (1, 0), 0, [⟨1, true, .sums [(1 <<< 252) ||| (449 <<< 192)] [] []⟩], stateDigest []⟩] } : State).dev (0 : VDev).val (0 : QId).val (.allReduce : OpK)))))).get (by decide +kernel), ((pSnd (pSome (some (runningOp (st { aDev 2 with records := [⟨0, 1, 5, 3, 0, 1, 1, 0, 0, 0, some (0, 0), some (1, 0), 0, [⟨1, true, .sums [(1 <<< 252) ||| (449 <<< 192)] [] []⟩], stateDigest []⟩] } : State).dev (0 : VDev).val (0 : QId).val (.allReduce : OpK)))))).get (by decide +kernel), _, rfl, _, rfl, _, rfl, _, rfl, _, rfl, _, rfl, _, rfl, _, rfl, ((pOk (some (memberData (work (st { aDev 2 with records := [⟨0, 1, 5, 3, 0, 1, 1, 0, 0, 0, some (0, 0), some (1, 0), 0, [⟨1, true, .sums [(1 <<< 252) ||| (449 <<< 192)] [] []⟩], stateDigest []⟩] } : State)) (((st { aDev 2 with records := [⟨0, 1, 5, 3, 0, 1, 1, 0, 0, 0, some (0, 0), some (1, 0), 0, [⟨1, true, .sums [(1 <<< 252) ||| (449 <<< 192)] [] []⟩], stateDigest []⟩] } : State).dev.running (((pSnd (pSome (some (runningOp (st { aDev 2 with records := [⟨0, 1, 5, 3, 0, 1, 1, 0, 0, 0, some (0, 0), some (1, 0), 0, [⟨1, true, .sums [(1 <<< 252) ||| (449 <<< 192)] [] []⟩], stateDigest []⟩] } : State).dev (0 : VDev).val (0 : QId).val (.allReduce : OpK)))))).get (by decide +kernel)).group (((pSnd (pSome (some (runningOp (st { aDev 2 with records := [⟨0, 1, 5, 3, 0, 1, 1, 0, 0, 0, some (0, 0), some (1, 0), 0, [⟨1, true, .sums [(1 <<< 252) ||| (449 <<< 192)] [] []⟩], stateDigest []⟩] } : State).dev (0 : VDev).val (0 : QId).val (.allReduce : OpK)))))).get (by decide +kernel)).opSeq).filter fun m => !(((st { aDev 2 with records := [⟨0, 1, 5, 3, 0, 1, 1, 0, 0, 0, some (0, 0), some (1, 0), 0, [⟨1, true, .sums [(1 <<< 252) ||| (449 <<< 192)] [] []⟩], stateDigest []⟩] } : State).dev.running (((pSnd (pSome (some (runningOp (st { aDev 2 with records := [⟨0, 1, 5, 3, 0, 1, 1, 0, 0, 0, some (0, 0), some (1, 0), 0, [⟨1, true, .sums [(1 <<< 252) ||| (449 <<< 192)] [] []⟩], stateDigest []⟩] } : State).dev (0 : VDev).val (0 : QId).val (.allReduce : OpK)))))).get (by decide +kernel)).group (((pSnd (pSome (some (runningOp (st { aDev 2 with records := [⟨0, 1, 5, 3, 0, 1, 1, 0, 0, 0, some (0, 0), some (1, 0), 0, [⟨1, true, .sums [(1 <<< 252) ||| (449 <<< 192)] [] []⟩], stateDigest []⟩] } : State).dev (0 : VDev).val (0 : QId).val (.allReduce : OpK)))))).get (by decide +kernel)).opSeq).any fun o => o.c.rank == m.c.rank && decide (o.c.no < m.c.no))))))).get (by decide +kernel), List.mem_cons_self, by decide +kernel, by decide +kernel, by decide +kernel, by decide +kernel, by decide +kernel, by decide +kernel, by decide +kernel, by decide +kernel, ex_eq (by decide +kernel), by decide +kernel⟩,
   ⟨st (aDev 2), 0, 0, [], .allReduce 0 (.good 0) [], .allReduce, ((pFst (pSome (some (runningOp (st (aDev 2) : State).dev (0 : VDev).val (0 : QId).val (.allReduce : OpK)))))).get (by decide +kernel), ((pSnd (pSome (some (runningOp (st (aDev 2) : State).dev (0 : VDev).val (0 : QId).val (.allReduce : OpK)))))).get (by decide +kernel), _, rfl, _, rfl, _, rfl, _, rfl, _, rfl, _, rfl, _, rfl, _, rfl, ((pOk (some (memberData (work (st (aDev 2) : State)) (((st (aDev 2) : State).dev.running (((pSnd (pSome (some (runningOp (st (aDev 2) : State).dev (0 : VDev).val (0 : QId).val (.allReduce : OpK)))))).get (by decide +kernel)).group (((pSnd (pSome (some (runningOp (st (aDev 2) : State).dev (0 : VDev).val (0 : QId).val (.allReduce : OpK)))))).get (by decide +kernel)).opSeq).filter fun m => !(((st (aDev 2) : State).dev.running (((pSnd (pSome (some (runningOp (st (aDev 2) : State).dev (0 : VDev).val (0 : QId).val (.allReduce : OpK)))))).get (by decide +kernel)).group (((pSnd (pSome (some (runningOp (st (aDev 2) : State).dev (0 : VDev).val (0 : QId).val (.allReduce : OpK)))))).get (by decide +kernel)).opSeq).any fun o => o.c.rank == m.c.rank && decide (o.c.no < m.c.no))))))).get (by decide +kernel), _, rfl, _, rfl, _, rfl, _, rfl, _, rfl, List.mem_cons_self, by decide +kernel, by decide +kernel, by decide +kernel, by decide +kernel, by decide +kernel, by decide +kernel, by decide +kernel, by decide +kernel, ex_eq (by decide +kernel), by decide +kernel⟩,
   ⟨st (tDev 1 0x10000000000 0 1), 0, 0, [], .allReduce 0 (.good 0) [], .allReduce, ((pFst (pSome (some (runningOp (st (tDev 1 0x10000000000 0 1) : State).dev (0 : VDev).val (0 : QId).val (.allReduce : OpK)))))).get (by decide +kernel), ((pSnd (pSome (some (runningOp (st (tDev 1 0x10000000000 0 1) : State).dev (0 : VDev).val (0 : QId).val (.allReduce : OpK)))))).get (by decide +kernel), _, rfl, _, rfl, _, rfl, _, rfl, _, rfl, _, rfl, _, rfl, _, rfl, ((pOk (some (memberData (work (st (tDev 1 0x10000000000 0 1) : State)) (((st (tDev 1 0x10000000000 0 1) : State).dev.running (((pSnd (pSome (some (runningOp (st (tDev 1 0x10000000000 0 1) : State).dev (0 : VDev).val (0 : QId).val (.allReduce : OpK)))))).get (by decide +kernel)).group (((pSnd (pSome (some (runningOp (st (tDev 1 0x10000000000 0 1) : State).dev (0 : VDev).val (0 : QId).val (.allReduce : OpK)))))).get (by decide +kernel)).opSeq).filter fun m => !(((st (tDev 1 0x10000000000 0 1) : State).dev.running (((pSnd (pSome (some (runningOp (st (tDev 1 0x10000000000 0 1) : State).dev (0 : VDev).val (0 : QId).val (.allReduce : OpK)))))).get (by decide +kernel)).group (((pSnd (pSome (some (runningOp (st (tDev 1 0x10000000000 0 1) : State).dev (0 : VDev).val (0 : QId).val (.allReduce : OpK)))))).get (by decide +kernel)).opSeq).any fun o => o.c.rank == m.c.rank && decide (o.c.no < m.c.no))))))).get (by decide +kernel), _, rfl, _, rfl, _, rfl, _, rfl, _, rfl, ((pFst (pSome (some (memberBlocked (.allReduce : OpK) ((List.range (((pSnd (pSome (some (runningOp (st (tDev 1 0x10000000000 0 1) : State).dev (0 : VDev).val (0 : QId).val (.allReduce : OpK)))))).get (by decide +kernel)).participants).filterMap fun i => (((((pOk (some (memberData (work (st (tDev 1 0x10000000000 0 1) : State)) (((st (tDev 1 0x10000000000 0 1) : State).dev.running (((pSnd (pSome (some (runningOp (st (tDev 1 0x10000000000 0 1) : State).dev (0 : VDev).val (0 : QId).val (.allReduce : OpK)))))).get (by decide +kernel)).group (((pSnd (pSome (some (runningOp (st (tDev 1 0x10000000000 0 1) : State).dev (0 : VDev).val (0 : QId).val (.allReduce : OpK)))))).get (by decide +kernel)).opSeq).filter fun m => !(((st (tDev 1 0x10000000000 0 1) : State).dev.running (((pSnd (pSome (some (runningOp (st (tDev 1 0x10000000000 0 1) : State).dev (0 : VDev).val (0 : QId).val (.allReduce : OpK)))))).get (by decide +kernel)).group (((pSnd (pSome (some (runningOp (st (tDev 1 0x10000000000 0 1) : State).dev (0 : VDev).val (0 : QId).val (.allReduce : OpK)))))).get (by decide +kernel)).opSeq).any fun o => o.c.rank == m.c.rank && decide (o.c.no < m.c.no))))))).get (by decide +kernel)) ++ ((carriedParts (.allReduce : OpK) (⟨(0 : VDev).val, (0 : QId).val, (((pFst (pSome (some (runningOp (st (tDev 1 0x10000000000 0 1) : State).dev (0 : VDev).val (0 : QId).val (.allReduce : OpK)))))).get (by decide +kernel)), (((pSnd (pSome (some (runningOp (st (tDev 1 0x10000000000 0 1) : State).dev (0 : VDev).val (0 : QId).val (.allReduce : OpK)))))).get (by decide +kernel))⟩ : Member) ((((st (tDev 1 0x10000000000 0 1) : State).dev.running (((pSnd (pSome (some (runningOp (st (tDev 1 0x10000000000 0 1) : State).dev (0 : VDev).val (0 : QId).val (.allReduce : OpK)))))).get (by decide +kernel)).group (((pSnd (pSome (some (runningOp (st (tDev 1 0x10000000000 0 1) : State).dev (0 : VDev).val (0 : QId).val (.allReduce : OpK)))))).get (by decide +kernel)).opSeq).filter fun m => !(((st (tDev 1 0x10000000000 0 1) : State).dev.running (((pSnd (pSome (some (runningOp (st (tDev 1 0x10000000000 0 1) : State).dev (0 : VDev).val (0 : QId).val (.allReduce : OpK)))))).get (by decide +kernel)).group (((pSnd (pSome (some (runningOp (st (tDev 1 0x10000000000 0 1) : State).dev (0 : VDev).val (0 : QId).val (.allReduce : OpK)))))).get (by decide +kernel)).opSeq).any fun o => o.c.rank == m.c.rank && decide (o.c.no < m.c.no))).map fun m => m.c.rank) ([] : List RemotePart) (work (st (tDev 1 0x10000000000 0 1) : State))).map fun r => (r.rank, remoteData ((((pSnd (pSome (some (runningOp (st (tDev 1 0x10000000000 0 1) : State).dev (0 : VDev).val (0 : QId).val (.allReduce : OpK)))))).get (by decide +kernel)).block.inp 0) r.data)).filterMap fun e => e.2.map fun y => (e.1, y)).find? fun e => e.1 == i).map Prod.snd) (flushDue ((((st (tDev 1 0x10000000000 0 1) : State).dev.running (((pSnd (pSome (some (runningOp (st (tDev 1 0x10000000000 0 1) : State).dev (0 : VDev).val (0 : QId).val (.allReduce : OpK)))))).get (by decide +kernel)).group (((pSnd (pSome (some (runningOp (st (tDev 1 0x10000000000 0 1) : State).dev (0 : VDev).val (0 : QId).val (.allReduce : OpK)))))).get (by decide +kernel)).opSeq).filter fun m => !(((st (tDev 1 0x10000000000 0 1) : State).dev.running (((pSnd (pSome (some (runningOp (st (tDev 1 0x10000000000 0 1) : State).dev (0 : VDev).val (0 : QId).val (.allReduce : OpK)))))).get (by decide +kernel)).group (((pSnd (pSome (some (runningOp (st (tDev 1 0x10000000000 0 1) : State).dev (0 : VDev).val (0 : QId).val (.allReduce : OpK)))))).get (by decide +kernel)).opSeq).any fun o => o.c.rank == m.c.rank && decide (o.c.no < m.c.no))).foldl (fun w m => if m.c.no = (((pSnd (pSome (some (runningOp (st (tDev 1 0x10000000000 0 1) : State).dev (0 : VDev).val (0 : QId).val (.allReduce : OpK)))))).get (by decide +kernel)).no ∨ (((pSnd (pSome (some (runningOp (st (tDev 1 0x10000000000 0 1) : State).dev (0 : VDev).val (0 : QId).val (.allReduce : OpK)))))).get (by decide +kernel)).participants ≤ ((List.range (((pSnd (pSome (some (runningOp (st (tDev 1 0x10000000000 0 1) : State).dev (0 : VDev).val (0 : QId).val (.allReduce : OpK)))))).get (by decide +kernel)).participants).filterMap fun i => (((((pOk (some (memberData (work (st (tDev 1 0x10000000000 0 1) : State)) (((st (tDev 1 0x10000000000 0 1) : State).dev.running (((pSnd (pSome (some (runningOp (st (tDev 1 0x10000000000 0 1) : State).dev (0 : VDev).val (0 : QId).val (.allReduce : OpK)))))).get (by decide +kernel)).group (((pSnd (pSome (some (runningOp (st (tDev 1 0x10000000000 0 1) : State).dev (0 : VDev).val (0 : QId).val (.allReduce : OpK)))))).get (by decide +kernel)).opSeq).filter fun m => !(((st (tDev 1 0x10000000000 0 1) : State).dev.running (((pSnd (pSome (some (runningOp (st (tDev 1 0x10000000000 0 1) : State).dev (0 : VDev).val (0 : QId).val (.allReduce : OpK)))))).get (by decide +kernel)).group (((pSnd (pSome (some (runningOp (st (tDev 1 0x10000000000 0 1) : State).dev (0 : VDev).val (0 : QId).val (.allReduce : OpK)))))).get (by decide +kernel)).opSeq).any fun o => o.c.rank == m.c.rank && decide (o.c.no < m.c.no))))))).get (by decide +kernel)) ++ ((carriedParts (.allReduce : OpK) (⟨(0 : VDev).val, (0 : QId).val, (((pFst (pSome (some (runningOp (st (tDev 1 0x10000000000 0 1) : State).dev (0 : VDev).val (0 : QId).val (.allReduce : OpK)))))).get (by decide +kernel)), (((pSnd (pSome (some (runningOp (st (tDev 1 0x10000000000 0 1) : State).dev (0 : VDev).val (0 : QId).val (.allReduce : OpK)))))).get (by decide +kernel))⟩ : Member) ((((st (tDev 1 0x10000000000 0 1) : State).dev.running (((pSnd (pSome (some (runningOp (st (tDev 1 0x10000000000 0 1) : State).dev (0 : VDev).val (0 : QId).val (.allReduce : OpK)))))).get (by decide +kernel)).group (((pSnd (pSome (some (runningOp (st (tDev 1 0x10000000000 0 1) : State).dev (0 : VDev).val (0 : QId).val (.allReduce : OpK)))))).get (by decide +kernel)).opSeq).filter fun m => !(((st (tDev 1 0x10000000000 0 1) : State).dev.running (((pSnd (pSome (some (runningOp (st (tDev 1 0x10000000000 0 1) : State).dev (0 : VDev).val (0 : QId).val (.allReduce : OpK)))))).get (by decide +kernel)).group (((pSnd (pSome (some (runningOp (st (tDev 1 0x10000000000 0 1) : State).dev (0 : VDev).val (0 : QId).val (.allReduce : OpK)))))).get (by decide +kernel)).opSeq).any fun o => o.c.rank == m.c.rank && decide (o.c.no < m.c.no))).map fun m => m.c.rank) ([] : List RemotePart) (work (st (tDev 1 0x10000000000 0 1) : State))).map fun r => (r.rank, remoteData ((((pSnd (pSome (some (runningOp (st (tDev 1 0x10000000000 0 1) : State).dev (0 : VDev).val (0 : QId).val (.allReduce : OpK)))))).get (by decide +kernel)).block.inp 0) r.data)).filterMap fun e => e.2.map fun y => (e.1, y)).find? fun e => e.1 == i).map Prod.snd).length then commitPhases (.allReduce : OpK) m ((fun (m : Member) => ((((((pOk (some (memberData (work (st (tDev 1 0x10000000000 0 1) : State)) (((st (tDev 1 0x10000000000 0 1) : State).dev.running (((pSnd (pSome (some (runningOp (st (tDev 1 0x10000000000 0 1) : State).dev (0 : VDev).val (0 : QId).val (.allReduce : OpK)))))).get (by decide +kernel)).group (((pSnd (pSome (some (runningOp (st (tDev 1 0x10000000000 0 1) : State).dev (0 : VDev).val (0 : QId).val (.allReduce : OpK)))))).get (by decide +kernel)).opSeq).filter fun m => !(((st (tDev 1 0x10000000000 0 1) : State).dev.running (((pSnd (pSome (some (runningOp (st (tDev 1 0x10000000000 0 1) : State).dev (0 : VDev).val (0 : QId).val (.allReduce : OpK)))))).get (by decide +kernel)).group (((pSnd (pSome (some (runningOp (st (tDev 1 0x10000000000 0 1) : State).dev (0 : VDev).val (0 : QId).val (.allReduce : OpK)))))).get (by decide +kernel)).opSeq).any fun o => o.c.rank == m.c.rank && decide (o.c.no < m.c.no))))))).get (by decide +kernel)).find? fun e => e.1 == m.c.rank).map Prod.snd).getD ⟨[], ((((pSnd (pSome (some (runningOp (st (tDev 1 0x10000000000 0 1) : State).dev (0 : VDev).val (0 : QId).val (.allReduce : OpK)))))).get (by decide +kernel)).block.inp 0).fmt, []⟩ : Data)) m) ((List.range (((pSnd (pSome (some (runningOp (st (tDev 1 0x10000000000 0 1) : State).dev (0 : VDev).val (0 : QId).val (.allReduce : OpK)))))).get (by decide +kernel)).participants).filterMap fun i => (((((pOk (some (memberData (work (st (tDev 1 0x10000000000 0 1) : State)) (((st (tDev 1 0x10000000000 0 1) : State).dev.running (((pSnd (pSome (some (runningOp (st (tDev 1 0x10000000000 0 1) : State).dev (0 : VDev).val (0 : QId).val (.allReduce : OpK)))))).get (by decide +kernel)).group (((pSnd (pSome (some (runningOp (st (tDev 1 0x10000000000 0 1) : State).dev (0 : VDev).val (0 : QId).val (.allReduce : OpK)))))).get (by decide +kernel)).opSeq).filter fun m => !(((st (tDev 1 0x10000000000 0 1) : State).dev.running (((pSnd (pSome (some (runningOp (st (tDev 1 0x10000000000 0 1) : State).dev (0 : VDev).val (0 : QId).val (.allReduce : OpK)))))).get (by decide +kernel)).group (((pSnd (pSome (some (runningOp (st (tDev 1 0x10000000000 0 1) : State).dev (0 : VDev).val (0 : QId).val (.allReduce : OpK)))))).get (by decide +kernel)).opSeq).any fun o => o.c.rank == m.c.rank && decide (o.c.no < m.c.no))))))).get (by decide +kernel)) ++ ((carriedParts (.allReduce : OpK) (⟨(0 : VDev).val, (0 : QId).val, (((pFst (pSome (some (runningOp (st (tDev 1 0x10000000000 0 1) : State).dev (0 : VDev).val (0 : QId).val (.allReduce : OpK)))))).get (by decide +kernel)), (((pSnd (pSome (some (runningOp (st (tDev 1 0x10000000000 0 1) : State).dev (0 : VDev).val (0 : QId).val (.allReduce : OpK)))))).get (by decide +kernel))⟩ : Member) ((((st (tDev 1 0x10000000000 0 1) : State).dev.running (((pSnd (pSome (some (runningOp (st (tDev 1 0x10000000000 0 1) : State).dev (0 : VDev).val (0 : QId).val (.allReduce : OpK)))))).get (by decide +kernel)).group (((pSnd (pSome (some (runningOp (st (tDev 1 0x10000000000 0 1) : State).dev (0 : VDev).val (0 : QId).val (.allReduce : OpK)))))).get (by decide +kernel)).opSeq).filter fun m => !(((st (tDev 1 0x10000000000 0 1) : State).dev.running (((pSnd (pSome (some (runningOp (st (tDev 1 0x10000000000 0 1) : State).dev (0 : VDev).val (0 : QId).val (.allReduce : OpK)))))).get (by decide +kernel)).group (((pSnd (pSome (some (runningOp (st (tDev 1 0x10000000000 0 1) : State).dev (0 : VDev).val (0 : QId).val (.allReduce : OpK)))))).get (by decide +kernel)).opSeq).any fun o => o.c.rank == m.c.rank && decide (o.c.no < m.c.no))).map fun m => m.c.rank) ([] : List RemotePart) (work (st (tDev 1 0x10000000000 0 1) : State))).map fun r => (r.rank, remoteData ((((pSnd (pSome (some (runningOp (st (tDev 1 0x10000000000 0 1) : State).dev (0 : VDev).val (0 : QId).val (.allReduce : OpK)))))).get (by decide +kernel)).block.inp 0) r.data)).filterMap fun e => e.2.map fun y => (e.1, y)).find? fun e => e.1 == i).map Prod.snd) (carriedParts (.allReduce : OpK) (⟨(0 : VDev).val, (0 : QId).val, (((pFst (pSome (some (runningOp (st (tDev 1 0x10000000000 0 1) : State).dev (0 : VDev).val (0 : QId).val (.allReduce : OpK)))))).get (by decide +kernel)), (((pSnd (pSome (some (runningOp (st (tDev 1 0x10000000000 0 1) : State).dev (0 : VDev).val (0 : QId).val (.allReduce : OpK)))))).get (by decide +kernel))⟩ : Member) ((((st (tDev 1 0x10000000000 0 1) : State).dev.running (((pSnd (pSome (some (runningOp (st (tDev 1 0x10000000000 0 1) : State).dev (0 : VDev).val (0 : QId).val (.allReduce : OpK)))))).get (by decide +kernel)).group (((pSnd (pSome (some (runningOp (st (tDev 1 0x10000000000 0 1) : State).dev (0 : VDev).val (0 : QId).val (.allReduce : OpK)))))).get (by decide +kernel)).opSeq).filter fun m => !(((st (tDev 1 0x10000000000 0 1) : State).dev.running (((pSnd (pSome (some (runningOp (st (tDev 1 0x10000000000 0 1) : State).dev (0 : VDev).val (0 : QId).val (.allReduce : OpK)))))).get (by decide +kernel)).group (((pSnd (pSome (some (runningOp (st (tDev 1 0x10000000000 0 1) : State).dev (0 : VDev).val (0 : QId).val (.allReduce : OpK)))))).get (by decide +kernel)).opSeq).any fun o => o.c.rank == m.c.rank && decide (o.c.no < m.c.no))).map fun m => m.c.rank) ([] : List RemotePart) (work (st (tDev 1 0x10000000000 0 1) : State))) (openExchange (.allReduce : OpK) m ((fun (m : Member) => ((((((pOk (some (memberData (work (st (tDev 1 0x10000000000 0 1) : State)) (((st (tDev 1 0x10000000000 0 1) : State).dev.running (((pSnd (pSome (some (runningOp (st (tDev 1 0x10000000000 0 1) : State).dev (0 : VDev).val (0 : QId).val (.allReduce : OpK)))))).get (by decide +kernel)).group (((pSnd (pSome (some (runningOp (st (tDev 1 0x10000000000 0 1) : State).dev (0 : VDev).val (0 : QId).val (.allReduce : OpK)))))).get (by decide +kernel)).opSeq).filter fun m => !(((st (tDev 1 0x10000000000 0 1) : State).dev.running (((pSnd (pSome (some (runningOp (st (tDev 1 0x10000000000 0 1) : State).dev (0 : VDev).val (0 : QId).val (.allReduce : OpK)))))).get (by decide +kernel)).group (((pSnd (pSome (some (runningOp (st (tDev 1 0x10000000000 0 1) : State).dev (0 : VDev).val (0 : QId).val (.allReduce : OpK)))))).get (by decide +kernel)).opSeq).any fun o => o.c.rank == m.c.rank && decide (o.c.no < m.c.no))))))).get (by decide +kernel)).find? fun e => e.1 == m.c.rank).map Prod.snd).getD ⟨[], ((((pSnd (pSome (some (runningOp (st (tDev 1 0x10000000000 0 1) : State).dev (0 : VDev).val (0 : QId).val (.allReduce : OpK)))))).get (by decide +kernel)).block.inp 0).fmt, []⟩ : Data)) m) w) else w) (work (st (tDev 1 0x10000000000 0 1) : State)))) (((st (tDev 1 0x10000000000 0 1) : State).dev.running (((pSnd (pSome (some (runningOp (st (tDev 1 0x10000000000 0 1) : State).dev (0 : VDev).val (0 : QId).val (.allReduce : OpK)))))).get (by decide +kernel)).group (((pSnd (pSome (some (runningOp (st (tDev 1 0x10000000000 0 1) : State).dev (0 : VDev).val (0 : QId).val (.allReduce : OpK)))))).get (by decide +kernel)).opSeq).filter fun m => !(((st (tDev 1 0x10000000000 0 1) : State).dev.running (((pSnd (pSome (some (runningOp (st (tDev 1 0x10000000000 0 1) : State).dev (0 : VDev).val (0 : QId).val (.allReduce : OpK)))))).get (by decide +kernel)).group (((pSnd (pSome (some (runningOp (st (tDev 1 0x10000000000 0 1) : State).dev (0 : VDev).val (0 : QId).val (.allReduce : OpK)))))).get (by decide +kernel)).opSeq).any fun o => o.c.rank == m.c.rank && decide (o.c.no < m.c.no)))))))).get (by decide +kernel), ((pSnd (pSome (some (memberBlocked (.allReduce : OpK) ((List.range (((pSnd (pSome (some (runningOp (st (tDev 1 0x10000000000 0 1) : State).dev (0 : VDev).val (0 : QId).val (.allReduce : OpK)))))).get (by decide +kernel)).participants).filterMap fun i => (((((pOk (some (memberData (work (st (tDev 1 0x10000000000 0 1) : State)) (((st (tDev 1 0x10000000000 0 1) : State).dev.running (((pSnd (pSome (some (runningOp (st (tDev 1 0x10000000000 0 1) : State).dev (0 : VDev).val (0 : QId).val (.allReduce : OpK)))))).get (by decide +kernel)).group (((pSnd (pSome (some (runningOp (st (tDev 1 0x10000000000 0 1) : State).dev (0 : VDev).val (0 : QId).val (.allReduce : OpK)))))).get (by decide +kernel)).opSeq).filter fun m => !(((st (tDev 1 0x10000000000 0 1) : State).dev.running (((pSnd (pSome (some (runningOp (st (tDev 1 0x10000000000 0 1) : State).dev (0 : VDev).val (0 : QId).val (.allReduce : OpK)))))).get (by decide +kernel)).group (((pSnd (pSome (some (runningOp (st (tDev 1 0x10000000000 0 1) : State).dev (0 : VDev).val (0 : QId).val (.allReduce : OpK)))))).get (by decide +kernel)).opSeq).any fun o => o.c.rank == m.c.rank && decide (o.c.no < m.c.no))))))).get (by decide +kernel)) ++ ((carriedParts (.allReduce : OpK) (⟨(0 : VDev).val, (0 : QId).val, (((pFst (pSome (some (runningOp (st (tDev 1 0x10000000000 0 1) : State).dev (0 : VDev).val (0 : QId).val (.allReduce : OpK)))))).get (by decide +kernel)), (((pSnd (pSome (some (runningOp (st (tDev 1 0x10000000000 0 1) : State).dev (0 : VDev).val (0 : QId).val (.allReduce : OpK)))))).get (by decide +kernel))⟩ : Member) ((((st (tDev 1 0x10000000000 0 1) : State).dev.running (((pSnd (pSome (some (runningOp (st (tDev 1 0x10000000000 0 1) : State).dev (0 : VDev).val (0 : QId).val (.allReduce : OpK)))))).get (by decide +kernel)).group (((pSnd (pSome (some (runningOp (st (tDev 1 0x10000000000 0 1) : State).dev (0 : VDev).val (0 : QId).val (.allReduce : OpK)))))).get (by decide +kernel)).opSeq).filter fun m => !(((st (tDev 1 0x10000000000 0 1) : State).dev.running (((pSnd (pSome (some (runningOp (st (tDev 1 0x10000000000 0 1) : State).dev (0 : VDev).val (0 : QId).val (.allReduce : OpK)))))).get (by decide +kernel)).group (((pSnd (pSome (some (runningOp (st (tDev 1 0x10000000000 0 1) : State).dev (0 : VDev).val (0 : QId).val (.allReduce : OpK)))))).get (by decide +kernel)).opSeq).any fun o => o.c.rank == m.c.rank && decide (o.c.no < m.c.no))).map fun m => m.c.rank) ([] : List RemotePart) (work (st (tDev 1 0x10000000000 0 1) : State))).map fun r => (r.rank, remoteData ((((pSnd (pSome (some (runningOp (st (tDev 1 0x10000000000 0 1) : State).dev (0 : VDev).val (0 : QId).val (.allReduce : OpK)))))).get (by decide +kernel)).block.inp 0) r.data)).filterMap fun e => e.2.map fun y => (e.1, y)).find? fun e => e.1 == i).map Prod.snd) (flushDue ((((st (tDev 1 0x10000000000 0 1) : State).dev.running (((pSnd (pSome (some (runningOp (st (tDev 1 0x10000000000 0 1) : State).dev (0 : VDev).val (0 : QId).val (.allReduce : OpK)))))).get (by decide +kernel)).group (((pSnd (pSome (some (runningOp (st (tDev 1 0x10000000000 0 1) : State).dev (0 : VDev).val (0 : QId).val (.allReduce : OpK)))))).get (by decide +kernel)).opSeq).filter fun m => !(((st (tDev 1 0x10000000000 0 1) : State).dev.running (((pSnd (pSome (some (runningOp (st (tDev 1 0x10000000000 0 1) : State).dev (0 : VDev).val (0 : QId).val (.allReduce : OpK)))))).get (by decide +kernel)).group (((pSnd (pSome (some (runningOp (st (tDev 1 0x10000000000 0 1) : State).dev (0 : VDev).val (0 : QId).val (.allReduce : OpK)))))).get (by decide +kernel)).opSeq).any fun o => o.c.rank == m.c.rank && decide (o.c.no < m.c.no))).foldl (fun w m => if m.c.no = (((pSnd (pSome (some (runningOp (st (tDev 1 0x10000000000 0 1) : State).dev (0 : VDev).val (0 : QId).val (.allReduce : OpK)))))).get (by decide +kernel)).no ∨ (((pSnd (pSome (some (runningOp (st (tDev 1 0x10000000000 0 1) : State).dev (0 : VDev).val (0 : QId).val (.allReduce : OpK)))))).get (by decide +kernel)).participants ≤ ((List.range (((pSnd (pSome (some (runningOp (st (tDev 1 0x10000000000 0 1) : State).dev (0 : VDev).val (0 : QId).val (.allReduce : OpK)))))).get (by decide +kernel)).participants).filterMap fun i => (((((pOk (some (memberData (work (st (tDev 1 0x10000000000 0 1) : State)) (((st (tDev 1 0x10000000000 0 1) : State).dev.running (((pSnd (pSome (some (runningOp (st (tDev 1 0x10000000000 0 1) : State).dev (0 : VDev).val (0 : QId).val (.allReduce : OpK)))))).get (by decide +kernel)).group (((pSnd (pSome (some (runningOp (st (tDev 1 0x10000000000 0 1) : State).dev (0 : VDev).val (0 : QId).val (.allReduce : OpK)))))).get (by decide +kernel)).opSeq).filter fun m => !(((st (tDev 1 0x10000000000 0 1) : State).dev.running (((pSnd (pSome (some (runningOp (st (tDev 1 0x10000000000 0 1) : State).dev (0 : VDev).val (0 : QId).val (.allReduce : OpK)))))).get (by decide +kernel)).group (((pSnd (pSome (some (runningOp (st (tDev 1 0x10000000000 0 1) : State).dev (0 : VDev).val (0 : QId).val (.allReduce : OpK)))))).get (by decide +kernel)).opSeq).any fun o => o.c.rank == m.c.rank && decide (o.c.no < m.c.no))))))).get (by decide +kernel)) ++ ((carriedParts (.allReduce : OpK) (⟨(0 : VDev).val, (0 : QId).val, (((pFst (pSome (some (runningOp (st (tDev 1 0x10000000000 0 1) : State).dev (0 : VDev).val (0 : QId).val (.allReduce : OpK)))))).get (by decide +kernel)), (((pSnd (pSome (some (runningOp (st (tDev 1 0x10000000000 0 1) : State).dev (0 : VDev).val (0 : QId).val (.allReduce : OpK)))))).get (by decide +kernel))⟩ : Member) ((((st (tDev 1 0x10000000000 0 1) : State).dev.running (((pSnd (pSome (some (runningOp (st (tDev 1 0x10000000000 0 1) : State).dev (0 : VDev).val (0 : QId).val (.allReduce : OpK)))))).get (by decide +kernel)).group (((pSnd (pSome (some (runningOp (st (tDev 1 0x10000000000 0 1) : State).dev (0 : VDev).val (0 : QId).val (.allReduce : OpK)))))).get (by decide +kernel)).opSeq).filter fun m => !(((st (tDev 1 0x10000000000 0 1) : State).dev.running (((pSnd (pSome (some (runningOp (st (tDev 1 0x10000000000 0 1) : State).dev (0 : VDev).val (0 : QId).val (.allReduce : OpK)))))).get (by decide +kernel)).group (((pSnd (pSome (some (runningOp (st (tDev 1 0x10000000000 0 1) : State).dev (0 : VDev).val (0 : QId).val (.allReduce : OpK)))))).get (by decide +kernel)).opSeq).any fun o => o.c.rank == m.c.rank && decide (o.c.no < m.c.no))).map fun m => m.c.rank) ([] : List RemotePart) (work (st (tDev 1 0x10000000000 0 1) : State))).map fun r => (r.rank, remoteData ((((pSnd (pSome (some (runningOp (st (tDev 1 0x10000000000 0 1) : State).dev (0 : VDev).val (0 : QId).val (.allReduce : OpK)))))).get (by decide +kernel)).block.inp 0) r.data)).filterMap fun e => e.2.map fun y => (e.1, y)).find? fun e => e.1 == i).map Prod.snd).length then commitPhases (.allReduce : OpK) m ((fun (m : Member) => ((((((pOk (some (memberData (work (st (tDev 1 0x10000000000 0 1) : State)) (((st (tDev 1 0x10000000000 0 1) : State).dev.running (((pSnd (pSome (some (runningOp (st (tDev 1 0x10000000000 0 1) : State).dev (0 : VDev).val (0 : QId).val (.allReduce : OpK)))))).get (by decide +kernel)).group (((pSnd (pSome (some (runningOp (st (tDev 1 0x10000000000 0 1) : State).dev (0 : VDev).val (0 : QId).val (.allReduce : OpK)))))).get (by decide +kernel)).opSeq).filter fun m => !(((st (tDev 1 0x10000000000 0 1) : State).dev.running (((pSnd (pSome (some (runningOp (st (tDev 1 0x10000000000 0 1) : State).dev (0 : VDev).val (0 : QId).val (.allReduce : OpK)))))).get (by decide +kernel)).group (((pSnd (pSome (some (runningOp (st (tDev 1 0x10000000000 0 1) : State).dev (0 : VDev).val (0 : QId).val (.allReduce : OpK)))))).get (by decide +kernel)).opSeq).any fun o => o.c.rank == m.c.rank && decide (o.c.no < m.c.no))))))).get (by decide +kernel)).find? fun e => e.1 == m.c.rank).map Prod.snd).getD ⟨[], ((((pSnd (pSome (some (runningOp (st (tDev 1 0x10000000000 0 1) : State).dev (0 : VDev).val (0 : QId).val (.allReduce : OpK)))))).get (by decide +kernel)).block.inp 0).fmt, []⟩ : Data)) m) ((List.range (((pSnd (pSome (some (runningOp (st (tDev 1 0x10000000000 0 1) : State).dev (0 : VDev).val (0 : QId).val (.allReduce : OpK)))))).get (by decide +kernel)).participants).filterMap fun i => (((((pOk (some (memberData (work (st (tDev 1 0x10000000000 0 1) : State)) (((st (tDev 1 0x10000000000 0 1) : State).dev.running (((pSnd (pSome (some (runningOp (st (tDev 1 0x10000000000 0 1) : State).dev (0 : VDev).val (0 : QId).val (.allReduce : OpK)))))).get (by decide +kernel)).group (((pSnd (pSome (some (runningOp (st (tDev 1 0x10000000000 0 1) : State).dev (0 : VDev).val (0 : QId).val (.allReduce : OpK)))))).get (by decide +kernel)).opSeq).filter fun m => !(((st (tDev 1 0x10000000000 0 1) : State).dev.running (((pSnd (pSome (some (runningOp (st (tDev 1 0x10000000000 0 1) : State).dev (0 : VDev).val (0 : QId).val (.allReduce : OpK)))))).get (by decide +kernel)).group (((pSnd (pSome (some (runningOp (st (tDev 1 0x10000000000 0 1) : State).dev (0 : VDev).val (0 : QId).val (.allReduce : OpK)))))).get (by decide +kernel)).opSeq).any fun o => o.c.rank == m.c.rank && decide (o.c.no < m.c.no))))))).get (by decide +kernel)) ++ ((carriedParts (.allReduce : OpK) (⟨(0 : VDev).val, (0 : QId).val, (((pFst (pSome (some (runningOp (st (tDev 1 0x10000000000 0 1) : State).dev (0 : VDev).val (0 : QId).val (.allReduce : OpK)))))).get (by decide +kernel)), (((pSnd (pSome (some (runningOp (st (tDev 1 0x10000000000 0 1) : State).dev (0 : VDev).val (0 : QId).val (.allReduce : OpK)))))).get (by decide +kernel))⟩ : Member) ((((st (tDev 1 0x10000000000 0 1) : State).dev.running (((pSnd (pSome (some (runningOp (st (tDev 1 0x10000000000 0 1) : State).dev (0 : VDev).val (0 : QId).val (.allReduce : OpK)))))).get (by decide +kernel)).group (((pSnd (pSome (some (runningOp (st (tDev 1 0x10000000000 0 1) : State).dev (0 : VDev).val (0 : QId).val (.allReduce : OpK)))))).get (by decide +kernel)).opSeq).filter fun m => !(((st (tDev 1 0x10000000000 0 1) : State).dev.running (((pSnd (pSome (some (runningOp (st (tDev 1 0x10000000000 0 1) : State).dev (0 : VDev).val (0 : QId).val (.allReduce : OpK)))))).get (by decide +kernel)).group (((pSnd (pSome (some (runningOp (st (tDev 1 0x10000000000 0 1) : State).dev (0 : VDev).val (0 : QId).val (.allReduce : OpK)))))).get (by decide +kernel)).opSeq).any fun o => o.c.rank == m.c.rank && decide (o.c.no < m.c.no))).map fun m => m.c.rank) ([] : List RemotePart) (work (st (tDev 1 0x10000000000 0 1) : State))).map fun r => (r.rank, remoteData ((((pSnd (pSome (some (runningOp (st (tDev 1 0x10000000000 0 1) : State).dev (0 : VDev).val (0 : QId).val (.allReduce : OpK)))))).get (by decide +kernel)).block.inp 0) r.data)).filterMap fun e => e.2.map fun y => (e.1, y)).find? fun e => e.1 == i).map Prod.snd) (carriedParts (.allReduce : OpK) (⟨(0 : VDev).val, (0 : QId).val, (((pFst (pSome (some (runningOp (st (tDev 1 0x10000000000 0 1) : State).dev (0 : VDev).val (0 : QId).val (.allReduce : OpK)))))).get (by decide +kernel)), (((pSnd (pSome (some (runningOp (st (tDev 1 0x10000000000 0 1) : State).dev (0 : VDev).val (0 : QId).val (.allReduce : OpK)))))).get (by decide +kernel))⟩ : Member) ((((st (tDev 1 0x10000000000 0 1) : State).dev.running (((pSnd (pSome (some (runningOp (st (tDev 1 0x10000000000 0 1) : State).dev (0 : VDev).val (0 : QId).val (.allReduce : OpK)))))).get (by decide +kernel)).group (((pSnd (pSome (some (runningOp (st (tDev 1 0x10000000000 0 1) : State).dev (0 : VDev).val (0 : QId).val (.allReduce : OpK)))))).get (by decide +kernel)).opSeq).filter fun m => !(((st (tDev 1 0x10000000000 0 1) : State).dev.running (((pSnd (pSome (some (runningOp (st (tDev 1 0x10000000000 0 1) : State).dev (0 : VDev).val (0 : QId).val (.allReduce : OpK)))))).get (by decide +kernel)).group (((pSnd (pSome (some (runningOp (st (tDev 1 0x10000000000 0 1) : State).dev (0 : VDev).val (0 : QId).val (.allReduce : OpK)))))).get (by decide +kernel)).opSeq).any fun o => o.c.rank == m.c.rank && decide (o.c.no < m.c.no))).map fun m => m.c.rank) ([] : List RemotePart) (work (st (tDev 1 0x10000000000 0 1) : State))) (openExchange (.allReduce : OpK) m ((fun (m : Member) => ((((((pOk (some (memberData (work (st (tDev 1 0x10000000000 0 1) : State)) (((st (tDev 1 0x10000000000 0 1) : State).dev.running (((pSnd (pSome (some (runningOp (st (tDev 1 0x10000000000 0 1) : State).dev (0 : VDev).val (0 : QId).val (.allReduce : OpK)))))).get (by decide +kernel)).group (((pSnd (pSome (some (runningOp (st (tDev 1 0x10000000000 0 1) : State).dev (0 : VDev).val (0 : QId).val (.allReduce : OpK)))))).get (by decide +kernel)).opSeq).filter fun m => !(((st (tDev 1 0x10000000000 0 1) : State).dev.running (((pSnd (pSome (some (runningOp (st (tDev 1 0x10000000000 0 1) : State).dev (0 : VDev).val (0 : QId).val (.allReduce : OpK)))))).get (by decide +kernel)).group (((pSnd (pSome (some (runningOp (st (tDev 1 0x10000000000 0 1) : State).dev (0 : VDev).val (0 : QId).val (.allReduce : OpK)))))).get (by decide +kernel)).opSeq).any fun o => o.c.rank == m.c.rank && decide (o.c.no < m.c.no))))))).get (by decide +kernel)).find? fun e => e.1 == m.c.rank).map Prod.snd).getD ⟨[], ((((pSnd (pSome (some (runningOp (st (tDev 1 0x10000000000 0 1) : State).dev (0 : VDev).val (0 : QId).val (.allReduce : OpK)))))).get (by decide +kernel)).block.inp 0).fmt, []⟩ : Data)) m) w) else w) (work (st (tDev 1 0x10000000000 0 1) : State)))) (((st (tDev 1 0x10000000000 0 1) : State).dev.running (((pSnd (pSome (some (runningOp (st (tDev 1 0x10000000000 0 1) : State).dev (0 : VDev).val (0 : QId).val (.allReduce : OpK)))))).get (by decide +kernel)).group (((pSnd (pSome (some (runningOp (st (tDev 1 0x10000000000 0 1) : State).dev (0 : VDev).val (0 : QId).val (.allReduce : OpK)))))).get (by decide +kernel)).opSeq).filter fun m => !(((st (tDev 1 0x10000000000 0 1) : State).dev.running (((pSnd (pSome (some (runningOp (st (tDev 1 0x10000000000 0 1) : State).dev (0 : VDev).val (0 : QId).val (.allReduce : OpK)))))).get (by decide +kernel)).group (((pSnd (pSome (some (runningOp (st (tDev 1 0x10000000000 0 1) : State).dev (0 : VDev).val (0 : QId).val (.allReduce : OpK)))))).get (by decide +kernel)).opSeq).any fun o => o.c.rank == m.c.rank && decide (o.c.no < m.c.no)))))))).get (by decide +kernel), List.mem_cons_self, by decide +kernel, by decide +kernel, by decide +kernel, by decide +kernel, by decide +kernel, by decide +kernel, by decide +kernel, by decide +kernel, ex_eq (by decide +kernel), by decide +kernel⟩,
   ⟨st (aDev 1), 0, 0, [], .allReduce 0 (.good 0) [], .allReduce, ((pFst (pSome (some (runningOp (st (aDev 1) : State).dev (0 : VDev).val (0 : QId).val (.allReduce : OpK)))))).get (by decide +kernel), ((pSnd (pSome (some (runningOp (st (aDev 1) : State).dev (0 : VDev).val (0 : QId).val (.allReduce : OpK)))))).get (by decide +kernel), _, rfl, _, rfl, _, rfl, _, rfl, _, rfl, _, rfl, _, rfl, _, rfl, ((pOk (some (memberData (work (st (aDev 1) : State)) (((st (aDev 1) : State).dev.running (((pSnd (pSome (some (runningOp (st (aDev 1) : State).dev (0 : VDev).val (0 : QId).val (.allReduce : OpK)))))).get (by decide +kernel)).group (((pSnd (pSome (some (runningOp (st (aDev 1) : State).dev (0 : VDev).val (0 : QId).val (.allReduce : OpK)))))).get (by decide +kernel)).opSeq).filter fun m => !(((st (aDev 1) : State).dev.running (((pSnd (pSome (some (runningOp (st (aDev 1) : State).dev (0 : VDev).val (0 : QId).val (.allReduce : OpK)))))).get (by decide +kernel)).group (((pSnd (pSome (some (runningOp (st (aDev 1) : State).dev (0 : VDev).val (0 : QId).val (.allReduce : OpK)))))).get (by decide +kernel)).opSeq).any fun o => o.c.rank == m.c.rank && decide (o.c.no < m.c.no))))))).get (by decide +kernel), _, rfl, _, rfl, _, rfl, _, rfl, _, rfl, List.mem_cons_self, by decide +kernel, by decide +kernel, by decide +kernel, by decide +kernel, by decide +kernel, by decide +kernel, by decide +kernel, by decide +kernel, ex_eq (by decide +kernel), by decide +kernel⟩,
   ⟨st (({ aDev 2 with dredges := [⟨.lx 15, [], none, 0, none, false⟩] }.setVd 0 { (aDev 2).vd 0 with ports := 0x8000, groups := [⟨5, 2, 0, 9, [9, 0]⟩] }).onPort 15 fun p => { p with state := 4, active := 0x3FF, peerPkg := 9 }), 0, 0, [], .allReduce 0 (.good 0) [], .allReduce, ((pFst (pSome (some (runningOp (st (({ aDev 2 with dredges := [⟨.lx 15, [], none, 0, none, false⟩] }.setVd 0 { (aDev 2).vd 0 with ports := 0x8000, groups := [⟨5, 2, 0, 9, [9, 0]⟩] }).onPort 15 fun p => { p with state := 4, active := 0x3FF, peerPkg := 9 }) : State).dev (0 : VDev).val (0 : QId).val (.allReduce : OpK)))))).get (by decide +kernel), ((pSnd (pSome (some (runningOp (st (({ aDev 2 with dredges := [⟨.lx 15, [], none, 0, none, false⟩] }.setVd 0 { (aDev 2).vd 0 with ports := 0x8000, groups := [⟨5, 2, 0, 9, [9, 0]⟩] }).onPort 15 fun p => { p with state := 4, active := 0x3FF, peerPkg := 9 }) : State).dev (0 : VDev).val (0 : QId).val (.allReduce : OpK)))))).get (by decide +kernel), List.mem_cons_self, by decide +kernel⟩,
   ⟨.allReduce, ⟨0, 0, q0, aCmd 2 0x90001 0⟩, [], work (st (aDev 2)), _, rfl, _, rfl, by decide +kernel⟩,
   ⟨.allReduce, ⟨0, 0, q0, aCmd 2 0x90001 0⟩, [⟨[], .fp32, []⟩, ⟨[], .fp32, []⟩], work (st (aDev 2)), _, rfl, _, rfl, by decide +kernel⟩,
   ⟨State.reset, 0, 0, by decide +kernel⟩,
   ⟨{ aDev 2 with fab := { (aDev 2).fab with failed := [(5, 3)] } }, 5, 3, by decide +kernel⟩,
   ⟨Dev.reset, 0, 0, by decide +kernel⟩,
   ⟨State.reset, 0, 0, by decide +kernel⟩,
   ⟨st (aDev 2), 5, 3, by decide +kernel⟩,
   ⟨st { aDev 2 with fab := { (aDev 2).fab with exchanges := [⟨7, 0, 0, 5, 3, 0, [], [(2, .bytes [])], [(9, 2)]⟩] } }, 5, 3, 2, ((pHead (some ((st { aDev 2 with fab := { (aDev 2).fab with exchanges := [⟨7, 0, 0, 5, 3, 0, [], [(2, .bytes [])], [(9, 2)]⟩] } } : State).dev.fab.exchanges)))).get (by decide +kernel), by decide +kernel⟩,
   ⟨st { aDev 2 with fab := { (aDev 2).fab with exchanges := [⟨7, 0, 0, 5, 3, 0, [], [], []⟩] }, records := [⟨0, 1, 5, 3, 0, 1, 2, 0, 0, 0, some (0, 0), some (1, 0), 0, [], []⟩] }, 5, 0, 2, ((pHead (some ((st { aDev 2 with fab := { (aDev 2).fab with exchanges := [⟨7, 0, 0, 5, 3, 0, [], [], []⟩] }, records := [⟨0, 1, 5, 3, 0, 1, 2, 0, 0, 0, some (0, 0), some (1, 0), 0, [], []⟩] } : State).dev.fab.exchanges)))).get (by decide +kernel), by decide +kernel⟩,
   ⟨work (st (aDev 2)), ⟨7, 0, 0, 5, 3, 0, [], [(2, .bytes [])], [(9, 2)]⟩, ((pFst (pHead (some ((⟨7, 0, 0, 5, 3, 0, [], [(2, .bytes [])], [(9, 2)]⟩ : Exchange).due))))).get (by decide +kernel), ((pSnd (pHead (some ((⟨7, 0, 0, 5, 3, 0, [], [(2, .bytes [])], [(9, 2)]⟩ : Exchange).due))))).get (by decide +kernel), ((pSnd (pHead (some ((⟨7, 0, 0, 5, 3, 0, [], [(2, .bytes [])], [(9, 2)]⟩ : Exchange).sent))))).get (by decide +kernel), by decide +kernel⟩,
   ⟨work (st ((vfD { vd0 with ports := 0x8000 }).onPort 15 fun p => { p with state := 4, active := 0x3FF, peerPkg := 9 })), ⟨7, 0, 0, 5, 3, 0, [], [(2, .bytes [])], [(9, 2)]⟩, ((pFst (pHead (some ((⟨7, 0, 0, 5, 3, 0, [], [(2, .bytes [])], [(9, 2)]⟩ : Exchange).due))))).get (by decide +kernel), ((pSnd (pHead (some ((⟨7, 0, 0, 5, 3, 0, [], [(2, .bytes [])], [(9, 2)]⟩ : Exchange).due))))).get (by decide +kernel), ((pSnd (pHead (some ((⟨7, 0, 0, 5, 3, 0, [], [(2, .bytes [])], [(9, 2)]⟩ : Exchange).sent))))).get (by decide +kernel), ((pSome (some ((work (st ((vfD { vd0 with ports := 0x8000 }).onPort 15 fun p => { p with state := 4, active := 0x3FF, peerPkg := 9 })) : Wk).dev.portTo (⟨7, 0, 0, 5, 3, 0, [], [(2, .bytes [])], [(9, 2)]⟩ : Exchange).vdev (((pFst (pHead (some ((⟨7, 0, 0, 5, 3, 0, [], [(2, .bytes [])], [(9, 2)]⟩ : Exchange).due))))).get (by decide +kernel)))))).get (by decide +kernel), by decide +kernel⟩,
   ⟨[], by decide +kernel⟩,
   ⟨[0], by decide +kernel, by decide +kernel, ⟨0, List.mem_singleton.mpr rfl, by decide +kernel⟩⟩,
   ⟨[1 <<< 252, 1 <<< 252, 1 <<< 252, 1 <<< 252], by decide +kernel, by decide +kernel, by intro f h; simp only [List.mem_cons, List.not_mem_nil, or_false, or_self] at h; subst h; decide +kernel⟩,
   ⟨State.reset, 0, 1 <<< 252, by decide +kernel⟩,
   ⟨State.reset, 0, by decide +kernel⟩,
   ⟨⟨0, 0, 0, [], []⟩, work (st ((aDev 2).onCore 0 fun c => { c with busy := some 7 })), ((pFst (pSome (some ((work (st ((aDev 2).onCore 0 fun c => { c with busy := some 7 })) : Wk).dev.msgFor (⟨0, 0, 0, [], []⟩ : FragMsg).ep.toNat))))).get (by decide +kernel), ((pSnd (pSome (some ((work (st ((aDev 2).onCore 0 fun c => { c with busy := some 7 })) : Wk).dev.msgFor (⟨0, 0, 0, [], []⟩ : FragMsg).ep.toNat))))).get (by decide +kernel), by decide +kernel⟩,
   ⟨⟨0, 0, 0, [], []⟩, work (st ((tDev 2 0 1 0).onCore 0 fun c => { c with busy := some 7 })), ((pFst (pSome (some ((work (st ((tDev 2 0 1 0).onCore 0 fun c => { c with busy := some 7 })) : Wk).dev.msgFor (⟨0, 0, 0, [], []⟩ : FragMsg).ep.toNat))))).get (by decide +kernel), ((pSnd (pSome (some ((work (st ((tDev 2 0 1 0).onCore 0 fun c => { c with busy := some 7 })) : Wk).dev.msgFor (⟨0, 0, 0, [], []⟩ : FragMsg).ep.toNat))))).get (by decide +kernel), by decide +kernel⟩,
   ⟨st { upDev with net := { (upDev).net with retired := [.attach 0] } }, (.attach 0, false), ⟨0, []⟩, by decide +kernel⟩,
   ⟨st { upDev with net := { (upDev).net with links := [((.attach 0, false), ⟨[⟨0, [], []⟩], 0, 0, none, [], 0⟩)] } }, (.attach 0, false), ⟨0, []⟩, ((pSome (some ((st { upDev with net := { (upDev).net with links := [((.attach 0, false), ⟨[⟨0, [], []⟩], 0, 0, none, [], 0⟩)] } } : State).dev.net.carried ((.attach 0, false) : Hop) (⟨0, []⟩ : Packet).hdr (⟨0, []⟩ : Packet).payload)))).get (by decide +kernel), by decide +kernel⟩,
   ⟨st { upDev with net := { (upDev).net with links := [((.attach 0, false), ⟨[⟨0, [], []⟩], 0, 0, none, [], 0⟩)] } }, (.attach 0, false), ⟨0, []⟩, ((pSome (some ((st { upDev with net := { (upDev).net with links := [((.attach 0, false), ⟨[⟨0, [], []⟩], 0, 0, none, [], 0⟩)] } } : State).dev.net.carried ((.attach 0, false) : Hop) (⟨0, []⟩ : Packet).hdr (⟨0, []⟩ : Packet).payload)))).get (by decide +kernel), by decide +kernel⟩,
   ⟨st { upDev with net := { (upDev).net with dead := [211] } }, 211, by decide +kernel⟩,
   ⟨State.reset, 0, by decide +kernel⟩,
   ⟨st ((upDev).onPort 15 fun p => { p with state := 3, active := 0xFF, reserve := 0x300 }), 15, (11 <<< 252) ||| (0 <<< 156) ||| 0, [], by decide +kernel⟩,
   ⟨st ((upDev).onPort 15 fun p => { p with state := 3, active := 0xFF, reserve := 0x300 }), 15, (8 <<< 252) ||| (0 <<< 156) ||| 0, [], by decide +kernel⟩,
   ⟨st ((upDev).onPort 15 fun p => { p with state := 3, active := 0xFF, reserve := 0x300 }), 15, (9 <<< 252) ||| (96 <<< 156) ||| 0, natLe 96 0, by decide +kernel⟩,
   ⟨st ((upDev).onPort 15 fun p => { p with state := 3, active := 0xFF, reserve := 0x300 }), 15, (10 <<< 252) ||| (0 <<< 156) ||| 0, [], by decide +kernel⟩,
   ⟨State.reset, 0, 0, [], by decide +kernel⟩,
   ⟨st (vfD { vd0 with slots := [(65535, ⟨1, true, .proxy 0 3, false, true, false, 9, 5⟩)] }), 0, 65535, 0, 3, by decide +kernel⟩,
   ⟨st (vc ({ cmd 1 0 .aborting with aborts := [.core 0] })), 0, 0, .core 0, ((pSome (some ((st (vc ({ cmd 1 0 .aborting with aborts := [.core 0] })) : State).dev.cur? (0 : VDev).val (0 : QId).val)))).get (by decide +kernel), by decide +kernel⟩,
   ⟨State.reset, 0, 0, .core 0, by decide +kernel⟩⟩

/-- Witnesses for GroupInstructionsIssue. -/
theorem wit_GroupInstructionsIssue :
    (∃ (s : State), ∃ (i : Instr), ∃ (n : CoreId), ∃ (m : CoreMem), ∃ (g : Nat), ∃ (k : BitVec 32), ∃ (a : KAt), groupInstr i = some (⟨n, some m⟩, g, k) ∧ (∀ va f, m ≠ .line va f) ∧ s.dev.at? n.val g = some a) ∧
    (∃ (i : Instr), ∃ (n : CoreId), ∃ (va : Nat), ∃ (f : ReadFault), ∃ (g : Nat), ∃ (k : BitVec 32), groupInstr i = some (⟨n, some (.line va f)⟩, g, k)) ∧
    (∃ (s : State), ∃ (i : Instr), ∃ (n : CoreAt), ∃ (g : Nat), ∃ (k : BitVec 32), groupInstr i = some (n, g, k) ∧ s.dev.at? n.core.val g = none) ∧
    (∃ (s : State), ∃ (i : Instr), ∃ (n : CoreId), ∃ (g : Nat), ∃ (k : BitVec 32), ∃ (a : KAt), groupInstr i = some (⟨n, none⟩, g, k) ∧ s.dev.at? n.val g = some a ∧ (k &&& ~~~a.grp.ended = 0 ∨ k &&& ~~~a.grp.ended &&& (a.grp.atGroup ||| a.grp.atCohort) ≠ 0)) ∧
    (∃ (s : State), ∃ (n : CoreId), ∃ (m : CoreMem), ∃ (g : Nat), ∃ (a : KAt), s.dev.at? n.val g = some a ∧ (∀ va f, m ≠ .line va f)) ∧
    (∃ (s : State), ∃ (n : CoreId), ∃ (g : Nat), s.dev.at? n.val g = none) ∧
    (∃ (s : State), ∃ (n : CoreId), ∃ (g : Nat), s.dev.at? n.val g = none) ∧
    (∃ (s : State), ∃ (n : CoreId), ∃ (g : Nat), ∃ a, s.dev.at? n.val g = some a) :=
  ⟨⟨st (kGrp id), Instr.identityRead ⟨0, some (.reg 0)⟩ 0 1 .lane 0, 0, .reg 0, 0, 1, ((pSome (some ((st (kGrp id) : State).dev.at? (0 : CoreId).val (0 : Nat))))).get (by decide +kernel), rfl, (by intro va f h; cases h), by decide +kernel⟩,
   ⟨Instr.identityRead ⟨0, some (.line 0 .good)⟩ 0 1 .lane 0, 0, 0, .good, 0, 1, rfl⟩,
   ⟨st upDev, Instr.identityRead ⟨0, none⟩ 0 1 .lane 0, ⟨0, none⟩, 0, 1, rfl, by decide +kernel⟩,
   ⟨st (kGrp fun x => { x with atGroup := 1 }), Instr.identityRead ⟨0, none⟩ 0 1 .lane 0, 0, 0, 1, ((pSome (some ((st (kGrp fun x => { x with atGroup := 1 }) : State).dev.at? (0 : CoreId).val (0 : Nat))))).get (by decide +kernel), rfl, by decide +kernel⟩,
   ⟨st (kGrp id), 0, .reg 0, 0, ((pSome (some ((st (kGrp id) : State).dev.at? (0 : CoreId).val (0 : Nat))))).get (by decide +kernel), by decide +kernel, (by intro va f h; cases h)⟩,
   ⟨State.reset, 0, 0, by decide +kernel⟩,
   ⟨State.reset, 0, 0, by decide +kernel⟩,
   ⟨st (kGrp id), 0, 0, ((pSome (some ((st (kGrp id) : State).dev.at? (0 : CoreId).val (0 : Nat))))).get (by decide +kernel), by decide +kernel⟩⟩

/-- Witnesses for LaneInstructionsCompute. -/
theorem wit_LaneInstructionsCompute :
    (∃ (s : State), ∃ (n : CoreId), ∃ (g : Nat), ∃ (m : BitVec 32), ∃ (op : VecOp), ∃ (src : Fmt), ∃ (dst : Fmt), ∃ (rm : RoundMode), ∃ (rd : Nat), ∃ (rs : List Nat), ∃ (ru : Nat), ∃ (a : KAt), ∃ (ls : List Nat), s.dev.at? n.val g = some a ∧ fmtIsLane src = true ∧ fmtIsLane dst = true ∧ rs.length = vecArity op ∧ (activeLanes s.dev a g m (fmtRegs dst rd ++ rs.flatMap (fmtRegs src) ++ (if rm == .sr then [ru] else [])) = some ls)) ∧
    (∃ (s : State), ∃ (n : CoreId), ∃ (g : Nat), ∃ (m : BitVec 32), ∃ (fn : FnCode), ∃ (src : Fmt), ∃ (dst : Fmt), ∃ (rm : RoundMode), ∃ (rd : Nat), ∃ (rs : Nat), ∃ (ru : Nat), ∃ (a : KAt), ∃ (ls : List Nat), s.dev.at? n.val g = some a ∧ fmtIsLane src = true ∧ fmtIsLane dst = true ∧ (src = .fp64 ∨ dst = .fp64 → fnFp64Ok fn = true) ∧ (activeLanes s.dev a g m (fmtRegs dst rd ++ fmtRegs src rs ++ (if rm == .sr then [ru] else [])) = some ls)) ∧
    (∃ (s : State), ∃ (n : CoreId), ∃ (g : Nat), ∃ (m : BitVec 32), ∃ (rd : Nat), ∃ (r1 : Nat), ∃ (r2 : Nat), ∃ (r3 : Nat), ∃ (a : KAt), ∃ (ls : List Nat), s.dev.at? n.val g = some a ∧ activeLanes s.dev a g m [rd, rd + 1, rd + 2, rd + 3, r1, r2, r2 + 1, r3] = some ls ∧ hdrWisp a.cmd.hdr = true) ∧
    (∃ (src : Fmt), ∃ (dst : Fmt), (fmtIsLane src = false ∨ fmtIsLane dst = false)) ∧
    (∃ (s : State), ∃ (n : CoreId), ∃ (g : Nat), ∃ (m : BitVec 32), ∃ (rd : Nat), ∃ (a : KAt), ∃ (ls : List Nat), s.dev.at? n.val g = some a ∧ activeLanes s.dev a g m [rd, rd + 1] = some ls) ∧
    (∃ (i : Nat), i ∈ [3, 4, 7, 8, 9, 10, 11, 12]) ∧
    (∃ (s : State), ∃ (n : CoreId), ∃ (g : Nat), ∃ (m : BitVec 32), ∃ (i : Identity), ∃ (rd : Nat), ∃ (a : KAt), ∃ (ls : List Nat), s.dev.at? n.val g = some a ∧ i ≠ .takeFlags ∧ (activeLanes s.dev a g m (if 32 < identityBits i then [rd, rd + 1] else [rd]) = some ls)) ∧
    (∃ (s : State), ∃ (n : CoreId), ∃ (g : Nat), ∃ (m : BitVec 32), ∃ (rd : Nat), ∃ (a : KAt), ∃ (ls : List Nat), s.dev.at? n.val g = some a ∧ activeLanes s.dev a g m [rd] = some ls) :=
  ⟨⟨st (kGrp id), 0, 0, 0x80000000, .add, .fp32, .fp32, .rne, 31, [31, 31], 0, ((pSome (some ((st (kGrp id) : State).dev.at? (0 : CoreId).val (0 : Nat))))).get (by decide +kernel), ((pSome (some (activeLanes (st (kGrp id) : State).dev (((pSome (some ((st (kGrp id) : State).dev.at? (0 : CoreId).val (0 : Nat))))).get (by decide +kernel)) (0 : Nat) (0x80000000 : BitVec 32) (fmtRegs (.fp32 : Fmt) (31 : Nat) ++ ([31, 31] : List Nat).flatMap (fmtRegs (.fp32 : Fmt)) ++ (if (.rne : RoundMode) == .sr then [(0 : Nat)] else [])))))).get (by decide +kernel), by decide +kernel⟩,
   ⟨st (kGrp id), 0, 0, 1, .exp, .fp32, .fp32, .rne, 0, 0, 0, ((pSome (some ((st (kGrp id) : State).dev.at? (0 : CoreId).val (0 : Nat))))).get (by decide +kernel), ((pSome (some (activeLanes (st (kGrp id) : State).dev (((pSome (some ((st (kGrp id) : State).dev.at? (0 : CoreId).val (0 : Nat))))).get (by decide +kernel)) (0 : Nat) (1 : BitVec 32) (fmtRegs (.fp32 : Fmt) (0 : Nat) ++ fmtRegs (.fp32 : Fmt) (0 : Nat) ++ (if (.rne : RoundMode) == .sr then [(0 : Nat)] else [])))))).get (by decide +kernel), by decide +kernel⟩,
   ⟨st (kGrp id), 0, 0, 1, 0, 0, 0, 0, ((pSome (some ((st (kGrp id) : State).dev.at? (0 : CoreId).val (0 : Nat))))).get (by decide +kernel), ((pSome (some (activeLanes (st (kGrp id) : State).dev (((pSome (some ((st (kGrp id) : State).dev.at? (0 : CoreId).val (0 : Nat))))).get (by decide +kernel)) (0 : Nat) (1 : BitVec 32) [(0 : Nat), (0 : Nat) + 1, (0 : Nat) + 2, (0 : Nat) + 3, (0 : Nat), (0 : Nat), (0 : Nat) + 1, (0 : Nat)])))).get (by decide +kernel), by decide +kernel⟩,
   ⟨.mxint8, .fp32, by decide +kernel⟩,
   ⟨st (kGrp id), 0, 0, 1, 0, ((pSome (some ((st (kGrp id) : State).dev.at? (0 : CoreId).val (0 : Nat))))).get (by decide +kernel), ((pSome (some (activeLanes (st (kGrp id) : State).dev (((pSome (some ((st (kGrp id) : State).dev.at? (0 : CoreId).val (0 : Nat))))).get (by decide +kernel)) (0 : Nat) (1 : BitVec 32) [(0 : Nat), (0 : Nat) + 1])))).get (by decide +kernel), by decide +kernel⟩,
   ⟨12, by decide +kernel⟩,
   ⟨st (kGrp id), 0, 0, 1, .lane, 0, ((pSome (some ((st (kGrp id) : State).dev.at? (0 : CoreId).val (0 : Nat))))).get (by decide +kernel), ((pSome (some (activeLanes (st (kGrp id) : State).dev (((pSome (some ((st (kGrp id) : State).dev.at? (0 : CoreId).val (0 : Nat))))).get (by decide +kernel)) (0 : Nat) (1 : BitVec 32) (if 32 < identityBits (.lane : Identity) then [(0 : Nat), (0 : Nat) + 1] else [(0 : Nat)]))))).get (by decide +kernel), by decide +kernel⟩,
   ⟨st (kGrp id), 0, 0, 1, 0, ((pSome (some ((st (kGrp id) : State).dev.at? (0 : CoreId).val (0 : Nat))))).get (by decide +kernel), ((pSome (some (activeLanes (st (kGrp id) : State).dev (((pSome (some ((st (kGrp id) : State).dev.at? (0 : CoreId).val (0 : Nat))))).get (by decide +kernel)) (0 : Nat) (1 : BitVec 32) [(0 : Nat)])))).get (by decide +kernel), by decide +kernel⟩⟩

/-- Witnesses for LaneInstructionsFrame. -/
theorem wit_LaneInstructionsFrame :
    (∃ (d : Dev), ∃ (n : Nat), ∃ (g : Nat), ∃ (m : BitVec 32), ∃ (uses : List Nat), ∃ (rd : Nat), ∃ (f : KAt → Nat → List (BitVec 32) × FlagWord), ∃ (a : KAt), ∃ (ls : List Nat), d.at? n g = some a ∧ activeLanes d a g m uses = some ls ∧ hdrRegs a.cmd.hdr ≤ 256 ∧ (∀ l i, i < (f a l).1.length → rd + i ∈ uses)) :=
  ⟨kGrp id, 0, 0, 1, [31], 31, fun _ _ => ([], 0), ((pSome (some ((kGrp id : Dev).at? (0 : Nat) (0 : Nat))))).get (by decide +kernel), ((pSome (some (activeLanes (kGrp id : Dev) (((pSome (some ((kGrp id : Dev).at? (0 : Nat) (0 : Nat))))).get (by decide +kernel)) (0 : Nat) (1 : BitVec 32) ([31] : List Nat))))).get (by decide +kernel), by decide +kernel, by decide +kernel, by decide +kernel, by intro l i h; exact absurd h (Nat.not_lt_zero i)⟩

/-- Witnesses for KernelGroups. -/
theorem wit_KernelGroups :
    (∃ (s : State), ∃ (v : VDev), ∃ (q : QId), ∃ (c : Cmd), s.dev.cur? v.val q.val = some c ∧ c.kind = 2 ∧ c.phase = .running ∧ Tab.get? s.dev.kern c.no = none) ∧
    (∃ (s : State), ∃ (v : VDev), ∃ (q : QId), (∀ c, s.dev.cur? v.val q.val = some c → c.kind ≠ 2 ∨ c.phase ≠ .running ∨ Tab.get? s.dev.kern c.no ≠ none)) ∧
    (∃ (s : State), ∃ (v : VDev), ∃ (q : QId), (∀ c r cores, s.dev.cur? v.val q.val = some c → Tab.get? s.dev.kern c.no = some r → c.cohorts[r.next / max 1 (klCohort c.params)]? = some cores → c.phase ≠ .running ∨ r.stopped = true ∨ klGroups c.params ≤ r.next ∨ ∃ n ∈ cores, c.clusters.contains (n / 68) = false)) ∧
    (∃ (s : State), ∃ (v : VDev), ∃ (q : QId), ∃ (c : Cmd), ∃ (r : KRun), ∃ (cores : List Nat), s.dev.cur? v.val q.val = some c ∧ c.phase = .running ∧ Tab.get? s.dev.kern c.no = some r ∧ r.stopped = false ∧ c.cohorts[r.next / max 1 (klCohort c.params)]? = some cores ∧ r.next < klGroups c.params ∧ ((cores.all fun n => c.clusters.contains (n / 68)) = true)) ∧
    (∃ (s : State), ∃ (n : CoreId), ∃ (g : Nat), ∃ (lane : Fin 32), ∃ (a : KAt), s.dev.at? n.val g = some a ∧ activeLanes s.dev a g (laneBit lane.val) [] = some [lane.val] ∧ (a.grp.ended ||| laneBit lane.val) = BitVec.allOnes 32 ∧ a.run.groups = [(g, a.grp)] ∧ a.run.ordered = [] ∧ a.grp.movers = [] ∧ s.dev.mc.reqs = [] ∧ s.dev.mc.resps = [] ∧ a.run.ended + 1 = klGroups a.cmd.params) :=
  ⟨⟨st (vc kCmd), 0, 0, ((pSome (some ((st (vc kCmd) : State).dev.cur? (0 : VDev).val (0 : QId).val)))).get (by decide +kernel), by decide +kernel⟩,
   ⟨State.reset, 0, 0, by decide +kernel⟩,
   ⟨State.reset, 0, 0, by intro c r cores h; cases h⟩,
   ⟨st (kDev { kRun0 with groups := [], next := 0 }), 0, 0, ((pSome (some ((st (kDev { kRun0 with groups := [], next := 0 }) : State).dev.cur? (0 : VDev).val (0 : QId).val)))).get (by decide +kernel), ((pSome (some (Tab.get? (st (kDev { kRun0 with groups := [], next := 0 }) : State).dev.kern (((pSome (some ((st (kDev { kRun0 with groups := [], next := 0 }) : State).dev.cur? (0 : VDev).val (0 : QId).val)))).get (by decide +kernel)).no)))).get (by decide +kernel), ((pSome (some ((((pSome (some ((st (kDev { kRun0 with groups := [], next := 0 }) : State).dev.cur? (0 : VDev).val (0 : QId).val)))).get (by decide +kernel)).cohorts[(((pSome (some (Tab.get? (st (kDev { kRun0 with groups := [], next := 0 }) : State).dev.kern (((pSome (some ((st (kDev { kRun0 with groups := [], next := 0 }) : State).dev.cur? (0 : VDev).val (0 : QId).val)))).get (by decide +kernel)).no)))).get (by decide +kernel)).next / max 1 (klCohort (((pSome (some ((st (kDev { kRun0 with groups := [], next := 0 }) : State).dev.cur? (0 : VDev).val (0 : QId).val)))).get (by decide +kernel)).params)]?)))).get (by decide +kernel), by decide +kernel⟩,
   ⟨st (kGrp fun x => { x with ended := 0x7FFFFFFF }), 0, 0, 31, ((pSome (some ((st (kGrp fun x => { x with ended := 0x7FFFFFFF }) : State).dev.at? (0 : CoreId).val (0 : Nat))))).get (by decide +kernel), by decide +kernel⟩⟩

/-- Witnesses for MatrixInstructions. -/
theorem wit_MatrixInstructions :
    (∃ (s : State) (a : KAt) (l : Nat) (ls : List Nat), s.dev.at? 0 0 = some a ∧ activeLanes s.dev a 0 1 [] = some (l :: ls) ∧ fmtIsEngine .int8 = true ∧ klWatch a.cmd.params = false ∧ ∃ e fl k, mmaEngine false (fun i => tileVal (⟨0, .int8, 0⟩ : TileArg) (a.grp.bytes a.cmd.ws 0 128) (i / 32) ((tileElems a.grp a.cmd.ws ⟨0, .int8, 0⟩).getD i 0)) (fun i => tileVal (⟨0, .int8, 0⟩ : TileArg) (a.grp.bytes a.cmd.ws 0 128) (i % 128) ((tileElems a.grp a.cmd.ws ⟨0, .int8, 0⟩).getD i 0)) (a.run.engine 0) = some (e, fl, k)) ∧
    (∃ (s : State) (a : KAt) (l : Nat) (ls : List Nat), s.dev.at? 0 0 = some a ∧ activeLanes s.dev a 0 1 [] = some (l :: ls) ∧ fmtIsEngine .fp32 = true ∧ klWatch a.cmd.params = false ∧ mmaEngine false (fun i => tileVal (⟨0, .fp32, 0⟩ : TileArg) (a.grp.bytes a.cmd.ws 0 128) (i / 32) ((tileElems a.grp a.cmd.ws ⟨0, .fp32, 0⟩).getD i 0)) (fun i => tileVal (⟨16384, .fp32, 0⟩ : TileArg) (a.grp.bytes a.cmd.ws 0 128) (i % 128) ((tileElems a.grp a.cmd.ws ⟨16384, .fp32, 0⟩).getD i 0)) (a.run.engine 0) = none) ∧
    (∃ (set : Bool), ∃ (av : Nat → Val), ∃ (bv : Nat → Val), ∃ (m : Mx), (∀ pos < mxPositions, (windowTerms ((List.range 32).map fun k => (termMul (av (32 * (pos / 128) + k)) (bv (128 * k + pos % 128))).1) (Tab.getD (m.winSet set) pos Win.empty).toWindow).2 = [])) ∧
    (∃ (s : State), ∃ (n : CoreId), ∃ (no : Nat), ∃ (r : KRun), ∃ (p : Spill), ∃ (rest : List Spill), s.dev.runOn n.val = some (no, r) ∧ (r.engine n.val).queue = p :: rest ∧ Tab.get? (r.engine n.val).slots p.pos = none) ∧
    (∃ (s : State), ∃ (n : CoreId), ∃ (no : Nat), ∃ (r : KRun), ∃ (p : Spill), ∃ (rest : List Spill), ∃ (w : PSlot), s.dev.runOn n.val = some (no, r) ∧ (r.engine n.val).queue = p :: rest ∧ Tab.get? (r.engine n.val).slots p.pos = some w ∧ w.set = p.set) ∧
    (∃ (s : State), ∃ (n : CoreId), ∃ (no : Nat), ∃ (r : KRun), s.dev.runOn n.val = some (no, r) ∧ ((r.engine n.val).queue = [] ∨ (r.engine n.val).spillReady = false)) ∧
    (∃ (s : State), ∃ (n : CoreId), ∃ (no : Nat), ∃ (r : KRun), s.dev.runOn n.val = some (no, r)) ∧
    (∃ (s : State), ∃ (n : CoreAt), s.dev.runOn n.core.val = none) ∧
    (∃ (s : State), ∃ (n : CoreId), ∃ (g : Nat), ∃ (set : Bool), ∃ (mask : BitVec 32), ∃ (dst : Nat), ∃ (mode : DrainMode), ∃ (runs : List (Nat × List Byte)), ∃ (fl : FlagWord), ∃ (a : KAt), ∃ (l : Nat), ∃ (ls : List Nat), s.dev.at? n.val g = some a ∧ activeLanes s.dev a g mask [] = some (l :: ls) ∧ (((a.run.engine n.val).queue.any fun p => p.set == set) = false) ∧ klWatch a.cmd.params = false ∧ drainBytes a.cmd.key (drainBase mode dst).1 mode ((List.range mxPositions).map ((a.run.engine n.val).final set)) = some (runs, fl)) ∧
    (∃ (s : State), ∃ (n : CoreId), ∃ (g : Nat), ∃ (set : Bool), ∃ (a : KAt), s.dev.at? n.val g = some a ∧ (((a.run.engine n.val).queue.any fun p => p.set == set) = true)) ∧
    (∃ (s : State), ∃ (n : CoreId), ∃ (g : Nat), ∃ (mask : BitVec 32), ∃ (a : KAt), ∃ (ls : List Nat), s.dev.at? n.val g = some a ∧ activeLanes s.dev a g mask [] = some ls) :=
  ⟨⟨st (kDev kRun0), ((st (kDev kRun0)).dev.at? 0 0).get (by decide +kernel), 0, [], by decide +kernel, by decide +kernel, rfl, by decide +kernel, by obtain ⟨x, h⟩ := Option.isSome_iff_exists.mp (mma_takes false _ _); exact ⟨x.1, x.2.1, x.2.2, h⟩⟩,
   ⟨st (kDev stallRun), ((st (kDev stallRun)).dev.at? 0 0).get (by decide +kernel), 0, [], by decide +kernel, by decide +kernel, rfl, by decide +kernel, mma_stalls false _ _ _ (by decide +kernel) (by decide +kernel) (by decide +kernel)⟩,
   ⟨false, fun _ => Val.zero, fun _ => Val.zero, Mx.empty, by intro pos _; exact (by decide +kernel : (windowTerms ((List.range 32).map fun _ => (termMul Val.zero Val.zero).1) (Win.empty).toWindow).2 = [])⟩,
   ⟨st (kDev { kRun0 with engines := [(0, { Mx.empty with queue := [⟨16383, false, Peat.zero⟩] })] }), 0, ((pFst (pSome (some ((st (kDev { kRun0 with engines := [(0, { Mx.empty with queue := [⟨16383, false, Peat.zero⟩] })] }) : State).dev.runOn (0 : CoreId).val))))).get (by decide +kernel), ((pSnd (pSome (some ((st (kDev { kRun0 with engines := [(0, { Mx.empty with queue := [⟨16383, false, Peat.zero⟩] })] }) : State).dev.runOn (0 : CoreId).val))))).get (by decide +kernel), ((pHead (some (((((pSnd (pSome (some ((st (kDev { kRun0 with engines := [(0, { Mx.empty with queue := [⟨16383, false, Peat.zero⟩] })] }) : State).dev.runOn (0 : CoreId).val))))).get (by decide +kernel)).engine (0 : CoreId).val).queue)))).get (by decide +kernel), ((pTail (some (((((pSnd (pSome (some ((st (kDev { kRun0 with engines := [(0, { Mx.empty with queue := [⟨16383, false, Peat.zero⟩] })] }) : State).dev.runOn (0 : CoreId).val))))).get (by decide +kernel)).engine (0 : CoreId).val).queue)))).get (by decide +kernel), by decide +kernel⟩,
   ⟨st (kDev { kRun0 with engines := [(0, { Mx.empty with queue := [⟨16383, false, Peat.zero⟩], slots := [(16383, ⟨Peat.zero, false⟩)] })] }), 0, ((pFst (pSome (some ((st (kDev { kRun0 with engines := [(0, { Mx.empty with queue := [⟨16383, false, Peat.zero⟩], slots := [(16383, ⟨Peat.zero, false⟩)] })] }) : State).dev.runOn (0 : CoreId).val))))).get (by decide +kernel), ((pSnd (pSome (some ((st (kDev { kRun0 with engines := [(0, { Mx.empty with queue := [⟨16383, false, Peat.zero⟩], slots := [(16383, ⟨Peat.zero, false⟩)] })] }) : State).dev.runOn (0 : CoreId).val))))).get (by decide +kernel), ((pHead (some (((((pSnd (pSome (some ((st (kDev { kRun0 with engines := [(0, { Mx.empty with queue := [⟨16383, false, Peat.zero⟩], slots := [(16383, ⟨Peat.zero, false⟩)] })] }) : State).dev.runOn (0 : CoreId).val))))).get (by decide +kernel)).engine (0 : CoreId).val).queue)))).get (by decide +kernel), ((pTail (some (((((pSnd (pSome (some ((st (kDev { kRun0 with engines := [(0, { Mx.empty with queue := [⟨16383, false, Peat.zero⟩], slots := [(16383, ⟨Peat.zero, false⟩)] })] }) : State).dev.runOn (0 : CoreId).val))))).get (by decide +kernel)).engine (0 : CoreId).val).queue)))).get (by decide +kernel), ((pSome (some (Tab.get? ((((pSnd (pSome (some ((st (kDev { kRun0 with engines := [(0, { Mx.empty with queue := [⟨16383, false, Peat.zero⟩], slots := [(16383, ⟨Peat.zero, false⟩)] })] }) : State).dev.runOn (0 : CoreId).val))))).get (by decide +kernel)).engine (0 : CoreId).val).slots (((pHead (some (((((pSnd (pSome (some ((st (kDev { kRun0 with engines := [(0, { Mx.empty with queue := [⟨16383, false, Peat.zero⟩], slots := [(16383, ⟨Peat.zero, false⟩)] })] }) : State).dev.runOn (0 : CoreId).val))))).get (by decide +kernel)).engine (0 : CoreId).val).queue)))).get (by decide +kernel)).pos)))).get (by decide +kernel), by decide +kernel⟩,
   ⟨st (kDev { kRun0 with engines := [(0, { Mx.empty with queue := [⟨16383, false, Peat.zero⟩], slots := [(16383, ⟨Peat.zero, true⟩)] })] }), 0, ((pFst (pSome (some ((st (kDev { kRun0 with engines := [(0, { Mx.empty with queue := [⟨16383, false, Peat.zero⟩], slots := [(16383, ⟨Peat.zero, true⟩)] })] }) : State).dev.runOn (0 : CoreId).val))))).get (by decide +kernel), ((pSnd (pSome (some ((st (kDev { kRun0 with engines := [(0, { Mx.empty with queue := [⟨16383, false, Peat.zero⟩], slots := [(16383, ⟨Peat.zero, true⟩)] })] }) : State).dev.runOn (0 : CoreId).val))))).get (by decide +kernel), by decide +kernel⟩,
   ⟨st (kDev { kRun0 with engines := [(0, { Mx.empty with queue := [⟨16383, false, Peat.zero⟩] })] }), 0, ((pFst (pSome (some ((st (kDev { kRun0 with engines := [(0, { Mx.empty with queue := [⟨16383, false, Peat.zero⟩] })] }) : State).dev.runOn (0 : CoreId).val))))).get (by decide +kernel), ((pSnd (pSome (some ((st (kDev { kRun0 with engines := [(0, { Mx.empty with queue := [⟨16383, false, Peat.zero⟩] })] }) : State).dev.runOn (0 : CoreId).val))))).get (by decide +kernel), by decide +kernel⟩,
   ⟨State.reset, ⟨0, none⟩, by decide +kernel⟩,
   ⟨st (kGrp id), 0, 0, false, 0x80000000, 0, .peat, _, _, ((pSome (some ((st (kGrp id) : State).dev.at? (0 : CoreId).val (0 : Nat))))).get (by decide +kernel), ((pHead (pSome (some (activeLanes (st (kGrp id) : State).dev (((pSome (some ((st (kGrp id) : State).dev.at? (0 : CoreId).val (0 : Nat))))).get (by decide +kernel)) (0 : Nat) (0x80000000 : BitVec 32) []))))).get (by decide +kernel), ((pTail (pSome (some (activeLanes (st (kGrp id) : State).dev (((pSome (some ((st (kGrp id) : State).dev.at? (0 : CoreId).val (0 : Nat))))).get (by decide +kernel)) (0 : Nat) (0x80000000 : BitVec 32) []))))).get (by decide +kernel), by decide +kernel, by decide +kernel, by decide +kernel, by decide +kernel, rfl⟩,
   ⟨st (kDev { kRun0 with engines := [(0, { Mx.empty with queue := [⟨16383, false, Peat.zero⟩] })] }), 0, 0, false, ((pSome (some ((st (kDev { kRun0 with engines := [(0, { Mx.empty with queue := [⟨16383, false, Peat.zero⟩] })] }) : State).dev.at? (0 : CoreId).val (0 : Nat))))).get (by decide +kernel), by decide +kernel⟩,
   ⟨st (kGrp id), 0, 0, 1, ((pSome (some ((st (kGrp id) : State).dev.at? (0 : CoreId).val (0 : Nat))))).get (by decide +kernel), ((pSome (some (activeLanes (st (kGrp id) : State).dev (((pSome (some ((st (kGrp id) : State).dev.at? (0 : CoreId).val (0 : Nat))))).get (by decide +kernel)) (0 : Nat) (1 : BitVec 32) [])))).get (by decide +kernel), by decide +kernel⟩⟩

/-- Witnesses for CoreStoreInstructions. -/
theorem wit_CoreStoreInstructions :
    (∃ (s : State), ∃ (n : CoreId), ∃ (g : Nat), ∃ (m : BitVec 32), ∃ (z : AccSize), ∃ (rd : Nat), ∃ (ra : Nat), ∃ (a : KAt), ∃ (ls : List Nat), s.dev.at? n.val g = some a ∧ activeLanes s.dev a g m (ra :: regsFrom rd (accBytes z)) = some ls ∧ klWatch a.cmd.params = false ∧ (∀ l ∈ ls, a.run.turnDue g l true (csOffset a.cmd a.grp l ra (accBytes z)).1 (accBytes z) = false)) ∧
    (∃ (s : State), ∃ (n : CoreId), ∃ (g : Nat), ∃ (m : BitVec 32), ∃ (z : AccSize), ∃ (rd : Nat), ∃ (ra : Nat), ∃ (a : KAt), ∃ (l : Nat), ∃ (ls : List Nat), s.dev.at? n.val g = some a ∧ activeLanes s.dev a g m (ra :: regsFrom rd (accBytes z)) = some (l :: ls)) ∧
    (∃ (s : State), ∃ (n : CoreId), ∃ (g : Nat), ∃ (m : BitVec 32), ∃ (z : AccSize), ∃ (ra : Nat), ∃ (rs : Nat), ∃ (a : KAt), ∃ (ls : List Nat), ∃ at_, at_ = (fun (l : Nat) => (csOffset a.cmd a.grp l ra (accBytes z) : Nat × Bool × FlagWord)) ∧ s.dev.at? n.val g = some a ∧ activeLanes s.dev a g m (ra :: regsFrom rs (accBytes z)) = some ls ∧ klWatch a.cmd.params = false ∧ (∀ l ∈ ls, a.run.turnDue g l true (at_ l).1 (accBytes z) = false)) ∧
    (∃ (s : State), ∃ (n : CoreId), ∃ (g : Nat), ∃ (m : BitVec 32), ∃ (z : AccSize), ∃ (ra : Nat), ∃ (r : Nat), ∃ (a : KAt), ∃ (ls : List Nat), ∃ (l : Nat), s.dev.at? n.val g = some a ∧ activeLanes s.dev a g m (ra :: regsFrom r (accBytes z)) = some ls ∧ l ∈ ls ∧ a.run.turnDue g l true (csOffset a.cmd a.grp l ra (accBytes z)).1 (accBytes z) = true) :=
  ⟨⟨st (kGrp id), 0, 0, 0x80000000, .b4, 31, 31, ((pSome (some ((st (kGrp id) : State).dev.at? (0 : CoreId).val (0 : Nat))))).get (by decide +kernel), ((pSome (some (activeLanes (st (kGrp id) : State).dev (((pSome (some ((st (kGrp id) : State).dev.at? (0 : CoreId).val (0 : Nat))))).get (by decide +kernel)) (0 : Nat) (0x80000000 : BitVec 32) ((31 : Nat) :: regsFrom (31 : Nat) (accBytes (.b4 : AccSize))))))).get (by decide +kernel), by decide +kernel⟩,
   ⟨st (kGrp id), 0, 0, 1, .b4, 0, 0, ((pSome (some ((st (kGrp id) : State).dev.at? (0 : CoreId).val (0 : Nat))))).get (by decide +kernel), ((pHead (pSome (some (activeLanes (st (kGrp id) : State).dev (((pSome (some ((st (kGrp id) : State).dev.at? (0 : CoreId).val (0 : Nat))))).get (by decide +kernel)) (0 : Nat) (1 : BitVec 32) ((0 : Nat) :: regsFrom (0 : Nat) (accBytes (.b4 : AccSize)))))))).get (by decide +kernel), ((pTail (pSome (some (activeLanes (st (kGrp id) : State).dev (((pSome (some ((st (kGrp id) : State).dev.at? (0 : CoreId).val (0 : Nat))))).get (by decide +kernel)) (0 : Nat) (1 : BitVec 32) ((0 : Nat) :: regsFrom (0 : Nat) (accBytes (.b4 : AccSize)))))))).get (by decide +kernel), by decide +kernel⟩,
   ⟨st (kGrp id), 0, 0, 1, .b4, 0, 0, ((pSome (some ((st (kGrp id) : State).dev.at? (0 : CoreId).val (0 : Nat))))).get (by decide +kernel), ((pSome (some (activeLanes (st (kGrp id) : State).dev (((pSome (some ((st (kGrp id) : State).dev.at? (0 : CoreId).val (0 : Nat))))).get (by decide +kernel)) (0 : Nat) (1 : BitVec 32) ((0 : Nat) :: regsFrom (0 : Nat) (accBytes (.b4 : AccSize))))))).get (by decide +kernel), _, rfl, by decide +kernel⟩,
   ⟨st (kDev { kRun0 with ordered := [⟨0, 0, 0, 0, 31, 0, 9, .swap true false 0 0⟩] }), 0, 0, 0x80000000, .b4, 0, 0, ((pSome (some ((st (kDev { kRun0 with ordered := [⟨0, 0, 0, 0, 31, 0, 9, .swap true false 0 0⟩] }) : State).dev.at? (0 : CoreId).val (0 : Nat))))).get (by decide +kernel), ((pSome (some (activeLanes (st (kDev { kRun0 with ordered := [⟨0, 0, 0, 0, 31, 0, 9, .swap true false 0 0⟩] }) : State).dev (((pSome (some ((st (kDev { kRun0 with ordered := [⟨0, 0, 0, 0, 31, 0, 9, .swap true false 0 0⟩] }) : State).dev.at? (0 : CoreId).val (0 : Nat))))).get (by decide +kernel)) (0 : Nat) (0x80000000 : BitVec 32) ((0 : Nat) :: regsFrom (0 : Nat) (accBytes (.b4 : AccSize))))))).get (by decide +kernel), ((pHead (some ((((pSome (some (activeLanes (st (kDev { kRun0 with ordered := [⟨0, 0, 0, 0, 31, 0, 9, .swap true false 0 0⟩] }) : State).dev (((pSome (some ((st (kDev { kRun0 with ordered := [⟨0, 0, 0, 0, 31, 0, 9, .swap true false 0 0⟩] }) : State).dev.at? (0 : CoreId).val (0 : Nat))))).get (by decide +kernel)) (0 : Nat) (0x80000000 : BitVec 32) ((0 : Nat) :: regsFrom (0 : Nat) (accBytes (.b4 : AccSize))))))).get (by decide +kernel)))))).get (by decide +kernel), by decide +kernel⟩⟩

/-- Witnesses for GlobalAndAtomicInstructions. -/
theorem wit_GlobalAndAtomicInstructions :
    (∃ (s : State), ∃ (n : CoreId), ∃ (g : Nat), ∃ (m : BitVec 32), ∃ (z : AccSize), ∃ (rd : Nat), ∃ (ra : Nat), ∃ (a : KAt), ∃ (ls : List Nat), ∃ at_, at_ = (fun (l : Nat) => (alignDown (a.grp.pair l ra).toNat (accBytes z) : Nat × FlagWord)) ∧ s.dev.at? n.val g = some a ∧ activeLanes s.dev a g m (ra :: (ra + 1) :: regsFrom rd (accBytes z)) = some ls ∧ klWatch a.cmd.params = false ∧ (∀ l ∈ ls, a.run.turnDue g l false (at_ l).1 (accBytes z) = false)) ∧
    (∃ (s : State), ∃ (n : CoreId), ∃ (g : Nat), ∃ (m : BitVec 32), ∃ (z : AccSize), ∃ (ra : Nat), ∃ (rs : Nat), ∃ (a : KAt), ∃ (ls : List Nat), ∃ at_, at_ = (fun (l : Nat) => (alignDown (a.grp.pair l ra).toNat (accBytes z) : Nat × FlagWord)) ∧ s.dev.at? n.val g = some a ∧ activeLanes s.dev a g m (ra :: (ra + 1) :: regsFrom rs (accBytes z)) = some ls ∧ klWatch a.cmd.params = false ∧ (∀ l ∈ ls, a.run.turnDue g l false (at_ l).1 (accBytes z) = false)) ∧
    (∃ (s : State), ∃ (n : CoreId), ∃ (g : Nat), ∃ (m : BitVec 32), ∃ (core : Bool), ∃ (ra : Nat), ∃ (uses : List Nat), ∃ (i : Instr), ∃ (op : Nat → AtOp × FlagWord), ∃ (a : KAt), ∃ (ls : List Nat), ∃ place, place = (fun (l : Nat) => (alignDown (if core then (a.grp.reg l ra).toNat else (a.grp.pair l ra).toNat) (op l).1.align : Nat × FlagWord)) ∧ ((∃ rs wide o, i = .atomicInt ⟨n, none⟩ g m o wide core ra rs ∧ uses = (if wide then [rs, rs + 1] else [rs]) ∧ op = fun l => (.int o wide (BitVec.ofNat 64 (a.grp.operand l rs (if wide then 64 else 32))), 0)) ∨ (∃ rs wide mx, i = .atomicFpMinmax ⟨n, none⟩ g m mx wide core ra rs ∧ uses = (if wide then [rs, rs + 1] else [rs]) ∧ op = fun l => (.fp mx wide (BitVec.ofNat 64 (a.grp.operand l rs (if wide then 64 else 32))), fIf (decodeElem (if wide then .fp64 else .fp32) (a.grp.operand l rs (if wide then 64 else 32))).isSNan fInvalid)) ∨ (∃ rs src, i = .atomicPeatAccumulate ⟨n, none⟩ g m src core ra rs ∧ (∀ f, src = .term f → fmtIsLane f = true ∧ f ≠ .fp64) ∧ (ls.all fun l => (peatOperand src a l rs).isSome) = true ∧ uses = (match src with | .term f => if 32 < fmtBits f then [rs, rs + 1] else [rs] | _ => [rs]) ∧ op = fun l => (.peat ((peatOperand src a l rs).getD (Peat.zero, 0)).1, ((peatOperand src a l rs).getD (Peat.zero, 0)).2))) ∧ s.dev.at? n.val g = some a ∧ (activeLanes s.dev a g m ((if core then [ra] else [ra, ra + 1]) ++ uses) = some ls) ∧ klWatch a.cmd.params = false ∧ (∀ l ∈ ls, a.run.turnDue g l core (place l).1 (op l).1.width = false)) ∧
    (∃ (s : State), ∃ (n : CoreId), ∃ (g : Nat), ∃ (m : BitVec 32), ∃ (core : Bool), ∃ (ra : Nat), ∃ (rs : Nat), ∃ (a : KAt), ∃ (ls : List Nat), s.dev.at? n.val g = some a ∧ (activeLanes s.dev a g m ((if core then [ra] else [ra, ra + 1]) ++ [rs]) = some ls) ∧ ((ls.any fun l => (peatOperand .fragment a l rs).isNone) = true)) ∧
    (∃ (f : Fmt), (fmtIsLane f = false ∨ f = .fp64)) :=
  ⟨⟨st (kGrp id), 0, 0, 0x80000000, .b4, 31, 30, ((pSome (some ((st (kGrp id) : State).dev.at? (0 : CoreId).val (0 : Nat))))).get (by decide +kernel), ((pSome (some (activeLanes (st (kGrp id) : State).dev (((pSome (some ((st (kGrp id) : State).dev.at? (0 : CoreId).val (0 : Nat))))).get (by decide +kernel)) (0 : Nat) (0x80000000 : BitVec 32) ((30 : Nat) :: ((30 : Nat) + 1) :: regsFrom (31 : Nat) (accBytes (.b4 : AccSize))))))).get (by decide +kernel), _, rfl, by decide +kernel⟩,
   ⟨st (kGrp id), 0, 0, 1, .b4, 0, 0, ((pSome (some ((st (kGrp id) : State).dev.at? (0 : CoreId).val (0 : Nat))))).get (by decide +kernel), ((pSome (some (activeLanes (st (kGrp id) : State).dev (((pSome (some ((st (kGrp id) : State).dev.at? (0 : CoreId).val (0 : Nat))))).get (by decide +kernel)) (0 : Nat) (1 : BitVec 32) ((0 : Nat) :: ((0 : Nat) + 1) :: regsFrom (0 : Nat) (accBytes (.b4 : AccSize))))))).get (by decide +kernel), _, rfl, by decide +kernel⟩,
   ⟨st (kGrp id), 0, 0, 1, false, 0, [2], .atomicInt ⟨0, none⟩ 0 1 .add false false 0 2, _, ((pSome (some ((st (kGrp id) : State).dev.at? (0 : CoreId).val (0 : Nat))))).get (by decide +kernel), ((pSome (some (activeLanes (st (kGrp id) : State).dev (((pSome (some ((st (kGrp id) : State).dev.at? (0 : CoreId).val (0 : Nat))))).get (by decide +kernel)) (0 : Nat) (1 : BitVec 32) ((if (false : Bool) then [(0 : Nat)] else [(0 : Nat), (0 : Nat) + 1]) ++ ([2] : List Nat)))))).get (by decide +kernel), _, rfl, Or.inl ⟨2, false, .add, rfl, rfl, rfl⟩, by decide +kernel⟩,
   ⟨st (kGrp id), 0, 0, 1, false, 0, 0, ((pSome (some ((st (kGrp id) : State).dev.at? (0 : CoreId).val (0 : Nat))))).get (by decide +kernel), ((pSome (some (activeLanes (st (kGrp id) : State).dev (((pSome (some ((st (kGrp id) : State).dev.at? (0 : CoreId).val (0 : Nat))))).get (by decide +kernel)) (0 : Nat) (1 : BitVec 32) ((if (false : Bool) then [(0 : Nat)] else [(0 : Nat), (0 : Nat) + 1]) ++ [(0 : Nat)]))))).get (by decide +kernel), by decide +kernel⟩,
   ⟨.fp64, by decide +kernel⟩⟩

/-- Witnesses for HomeRequests. -/
theorem wit_HomeRequests :
    (∃ (s : State), ∃ (id : Nat), (arrived s.dev id (fun k => match k with | .read _ => true | _ => false) = none)) ∧
    (∃ (s : State), ∃ (id : Nat), (arrived s.dev id (fun k => match k with | .write _ => true | _ => false) = none)) ∧
    (∃ (s : State), ∃ (id : Nat), (arrived s.dev id (fun k => match k with | .atomic _ => true | _ => false) = none)) ∧
    (∃ (s : State), ∃ (id : Nat), ∃ (r : MReq), ∃ (ch : Nat), ∃ (y : Why), checkSpots s.dev r.vdev r.spots = .error (ch, y) ∧ (arrived s.dev id (fun k => match k with | .read _ => true | _ => false) = some r)) ∧
    (∃ (s : State), ∃ (id : Nat), ∃ (r : MReq), ∃ (ch : Nat), ∃ (y : Why), checkSpots s.dev r.vdev r.spots = .error (ch, y) ∧ (arrived s.dev id (fun k => match k with | .write _ => true | _ => false) = some r)) ∧
    (∃ (s : State), ∃ (id : Nat), ∃ (r : MReq), ∃ (ch : Nat), ∃ (y : Why), checkSpots s.dev r.vdev r.spots = .error (ch, y) ∧ (arrived s.dev id (fun k => match k with | .atomic _ => true | _ => false) = some r)) ∧
    (∃ (s : State), ∃ (id : Nat), ∃ (r : MReq), ∃ (l : List (Spot × Nat × Nat × Nat)), ∃ k, k = ((r.spots.head?.map fun p => p.chan / 32).getD 0) ∧ checkSpots s.dev r.vdev r.spots = .ok l ∧ (arrived s.dev id (fun k => match k with | .read _ => true | _ => false) = some r)) ∧
    (∃ (s : State), ∃ (id : Nat), ∃ (r : MReq), ∃ (l : List (Spot × Nat × Nat × Nat)), ∃ k, k = ((r.spots.head?.map fun p => p.chan / 32).getD 0) ∧ checkSpots s.dev r.vdev r.spots = .ok l ∧ (arrived s.dev id (fun k => match k with | .write _ => true | _ => false) = some r)) ∧
    (∃ (s : State), ∃ (id : Nat), ∃ (r : MReq), ∃ (l : List (Spot × Nat × Nat × Nat)), ∃ k, k = ((r.spots.head?.map fun p => p.chan / 32).getD 0) ∧ checkSpots s.dev r.vdev r.spots = .ok l ∧ (arrived s.dev id (fun k => match k with | .atomic _ => true | _ => false) = some r)) ∧
    (∃ (s : State), ∃ (id : Nat), ∃ f, ∃ (r : MReq), ∃ (p : Spot), ∃ (a : Nat), ∃ (k : Nat), ∃ (j : Nat), f ∈ [ReadFault.corrected, .badOnce, .badTwice] ∧ (arrived s.dev id (fun k => match k with | .read _ => true | _ => false) = some r) ∧ r.spots = [p] ∧ checkSpots s.dev r.vdev r.spots = .ok [(p, a, k, j)] ∧ (s.dev.die (p.chan / 32)).lost = false ∧ poisoned s.dev a = false ∧ s.dev.cacheHit r.vdev p.keySlot a = true) ∧
    (∃ (s : State), ∃ (id : Nat), ∃ (r : MReq), ∃ (p : Spot), ∃ (a : Nat), ∃ (k : Nat), ∃ (j : Nat), (arrived s.dev id (fun k => match k with | .read _ => true | _ => false) = some r) ∧ r.spots = [p] ∧ checkSpots s.dev r.vdev r.spots = .ok [(p, a, k, j)] ∧ (s.dev.die (p.chan / 32)).lost = false ∧ poisoned s.dev a = false ∧ s.dev.cacheHit r.vdev p.keySlot a = false) ∧
    (∃ (s : State), ∃ (id : Nat), ∃ (f : ReadFault), ∃ (r : MReq), ∃ (p : Spot), ∃ (a : Nat), ∃ (k : Nat), ∃ (j : Nat), (arrived s.dev id (fun k => match k with | .read _ => true | _ => false) = some r) ∧ f ≠ .xts ∧ r.spots = [p] ∧ checkSpots s.dev r.vdev r.spots = .ok [(p, a, k, j)] ∧ (s.dev.die (p.chan / 32)).lost = false ∧ poisoned s.dev a = true) ∧
    (∃ (s : State), ∃ (id : Nat), ∃ (f : ReadFault), ∃ (bs : List Byte), ∃ (r : MReq), ∃ (l : List (Spot × Nat × Nat × Nat)), (arrived s.dev id (fun k => match k with | .write _ => true | _ => false) = some r) ∧ r.kind = .write bs ∧ f ≠ .xts ∧ checkSpots s.dev r.vdev r.spots = .ok l ∧ ((s.dev.die ((r.spots.head?.map fun p => p.chan / 32).getD 0)).lost = false)) ∧
    (∃ (s : State), ∃ (id : Nat), ∃ (op : AtOp), ∃ (r : MReq), ∃ (p : Spot), ∃ (a : Nat), ∃ (k : Nat), ∃ (j : Nat), (arrived s.dev id (fun k => match k with | .atomic _ => true | _ => false) = some r) ∧ r.kind = .atomic op ∧ r.spots = [p] ∧ checkSpots s.dev r.vdev r.spots = .ok [(p, a, k, j)] ∧ (s.dev.die (p.chan / 32)).lost = false ∧ poisoned s.dev a = false ∧ parts r.va r.bytes = [(r.va, r.bytes)]) ∧
    (∃ (s : State), ∃ (id : Nat), ∃ (g : Nat), ∃ (l : Nat), ∃ (rd : Nat), ∃ (n : Nat), ∃ (x : MResp), ∃ (rest : List MResp), ∃ (r : KRun), (takeFirst (fun x : MResp => x.req.id == id && (match x.req.kind with | .read _ => true | _ => false)) s.dev.mc.resps = some (x, rest)) ∧ x.req.dest = .load g l rd n ∧ Tab.get? s.dev.kern x.req.cmd = some r) ∧
    (∃ (s : State), ∃ (id : Nat), ∃ (x : MResp), ∃ (rest : List MResp), (takeFirst (fun x : MResp => x.req.id == id && (match x.req.kind with | .write _ => true | _ => false)) s.dev.mc.resps = some (x, rest))) ∧
    (∃ (s : State), ∃ (id : Nat), ∃ (x : MResp), ∃ (rest : List MResp), (takeFirst (fun x : MResp => x.req.id == id && (match x.req.kind with | .atomic _ => true | _ => false)) s.dev.mc.resps = some (x, rest))) ∧
    (∃ (s : State), ∃ (id : Nat), ((s.dev.mc.resps.any fun x => x.req.id == id) = false)) :=
  ⟨⟨State.reset, 0, by decide +kernel⟩,
   ⟨State.reset, 0, by decide +kernel⟩,
   ⟨State.reset, 0, by decide +kernel⟩,
   ⟨st (rDev (.read 4) 2), 1, ((pSome (some (arrived (st (rDev (.read 4) 2) : State).dev (1 : Nat) (fun k => match k with | .read _ => true | _ => false))))).get (by decide +kernel), ((pFst (pErr (some (checkSpots (st (rDev (.read 4) 2) : State).dev (((pSome (some (arrived (st (rDev (.read 4) 2) : State).dev (1 : Nat) (fun k => match k with | .read _ => true | _ => false))))).get (by decide +kernel)).vdev (((pSome (some (arrived (st (rDev (.read 4) 2) : State).dev (1 : Nat) (fun k => match k with | .read _ => true | _ => false))))).get (by decide +kernel)).spots))))).get (by decide +kernel), ((pSnd (pErr (some (checkSpots (st (rDev (.read 4) 2) : State).dev (((pSome (some (arrived (st (rDev (.read 4) 2) : State).dev (1 : Nat) (fun k => match k with | .read _ => true | _ => false))))).get (by decide +kernel)).vdev (((pSome (some (arrived (st (rDev (.read 4) 2) : State).dev (1 : Nat) (fun k => match k with | .read _ => true | _ => false))))).get (by decide +kernel)).spots))))).get (by decide +kernel), ex_eq (by decide +kernel), by decide +kernel⟩,
   ⟨st (rDev (.write [1, 2, 3, 4]) 2), 1, ((pSome (some (arrived (st (rDev (.write [1, 2, 3, 4]) 2) : State).dev (1 : Nat) (fun k => match k with | .write _ => true | _ => false))))).get (by decide +kernel), ((pFst (pErr (some (checkSpots (st (rDev (.write [1, 2, 3, 4]) 2) : State).dev (((pSome (some (arrived (st (rDev (.write [1, 2, 3, 4]) 2) : State).dev (1 : Nat) (fun k => match k with | .write _ => true | _ => false))))).get (by decide +kernel)).vdev (((pSome (some (arrived (st (rDev (.write [1, 2, 3, 4]) 2) : State).dev (1 : Nat) (fun k => match k with | .write _ => true | _ => false))))).get (by decide +kernel)).spots))))).get (by decide +kernel), ((pSnd (pErr (some (checkSpots (st (rDev (.write [1, 2, 3, 4]) 2) : State).dev (((pSome (some (arrived (st (rDev (.write [1, 2, 3, 4]) 2) : State).dev (1 : Nat) (fun k => match k with | .write _ => true | _ => false))))).get (by decide +kernel)).vdev (((pSome (some (arrived (st (rDev (.write [1, 2, 3, 4]) 2) : State).dev (1 : Nat) (fun k => match k with | .write _ => true | _ => false))))).get (by decide +kernel)).spots))))).get (by decide +kernel), ex_eq (by decide +kernel), by decide +kernel⟩,
   ⟨st (rDev (.atomic (.int .add false 1)) 2), 1, ((pSome (some (arrived (st (rDev (.atomic (.int .add false 1)) 2) : State).dev (1 : Nat) (fun k => match k with | .atomic _ => true | _ => false))))).get (by decide +kernel), ((pFst (pErr (some (checkSpots (st (rDev (.atomic (.int .add false 1)) 2) : State).dev (((pSome (some (arrived (st (rDev (.atomic (.int .add false 1)) 2) : State).dev (1 : Nat) (fun k => match k with | .atomic _ => true | _ => false))))).get (by decide +kernel)).vdev (((pSome (some (arrived (st (rDev (.atomic (.int .add false 1)) 2) : State).dev (1 : Nat) (fun k => match k with | .atomic _ => true | _ => false))))).get (by decide +kernel)).spots))))).get (by decide +kernel), ((pSnd (pErr (some (checkSpots (st (rDev (.atomic (.int .add false 1)) 2) : State).dev (((pSome (some (arrived (st (rDev (.atomic (.int .add false 1)) 2) : State).dev (1 : Nat) (fun k => match k with | .atomic _ => true | _ => false))))).get (by decide +kernel)).vdev (((pSome (some (arrived (st (rDev (.atomic (.int .add false 1)) 2) : State).dev (1 : Nat) (fun k => match k with | .atomic _ => true | _ => false))))).get (by decide +kernel)).spots))))).get (by decide +kernel), ex_eq (by decide +kernel), by decide +kernel⟩,
   ⟨st (rDev (.read 4) 1), 1, ((pSome (some (arrived (st (rDev (.read 4) 1) : State).dev (1 : Nat) (fun k => match k with | .read _ => true | _ => false))))).get (by decide +kernel), ((pOk (some (checkSpots (st (rDev (.read 4) 1) : State).dev (((pSome (some (arrived (st (rDev (.read 4) 1) : State).dev (1 : Nat) (fun k => match k with | .read _ => true | _ => false))))).get (by decide +kernel)).vdev (((pSome (some (arrived (st (rDev (.read 4) 1) : State).dev (1 : Nat) (fun k => match k with | .read _ => true | _ => false))))).get (by decide +kernel)).spots)))).get (by decide +kernel), _, rfl, ex_eq (by decide +kernel), by decide +kernel⟩,
   ⟨st (rDev (.write [1, 2, 3, 4]) 1), 1, ((pSome (some (arrived (st (rDev (.write [1, 2, 3, 4]) 1) : State).dev (1 : Nat) (fun k => match k with | .write _ => true | _ => false))))).get (by decide +kernel), ((pOk (some (checkSpots (st (rDev (.write [1, 2, 3, 4]) 1) : State).dev (((pSome (some (arrived (st (rDev (.write [1, 2, 3, 4]) 1) : State).dev (1 : Nat) (fun k => match k with | .write _ => true | _ => false))))).get (by decide +kernel)).vdev (((pSome (some (arrived (st (rDev (.write [1, 2, 3, 4]) 1) : State).dev (1 : Nat) (fun k => match k with | .write _ => true | _ => false))))).get (by decide +kernel)).spots)))).get (by decide +kernel), _, rfl, ex_eq (by decide +kernel), by decide +kernel⟩,
   ⟨st (rDev (.atomic (.int .add false 1)) 1), 1, ((pSome (some (arrived (st (rDev (.atomic (.int .add false 1)) 1) : State).dev (1 : Nat) (fun k => match k with | .atomic _ => true | _ => false))))).get (by decide +kernel), ((pOk (some (checkSpots (st (rDev (.atomic (.int .add false 1)) 1) : State).dev (((pSome (some (arrived (st (rDev (.atomic (.int .add false 1)) 1) : State).dev (1 : Nat) (fun k => match k with | .atomic _ => true | _ => false))))).get (by decide +kernel)).vdev (((pSome (some (arrived (st (rDev (.atomic (.int .add false 1)) 1) : State).dev (1 : Nat) (fun k => match k with | .atomic _ => true | _ => false))))).get (by decide +kernel)).spots)))).get (by decide +kernel), _, rfl, ex_eq (by decide +kernel), by decide +kernel⟩,
   ⟨st ((rDev (.read 4) 1).onDie 0 fun x => { x with cache := [⟨0, 0, 1⟩] }), 1, .badTwice, ((pSome (some (arrived (st ((rDev (.read 4) 1).onDie 0 fun x => { x with cache := [⟨0, 0, 1⟩] }) : State).dev (1 : Nat) (fun k => match k with | .read _ => true | _ => false))))).get (by decide +kernel), ((pHead (some ((((pSome (some (arrived (st ((rDev (.read 4) 1).onDie 0 fun x => { x with cache := [⟨0, 0, 1⟩] }) : State).dev (1 : Nat) (fun k => match k with | .read _ => true | _ => false))))).get (by decide +kernel)).spots)))).get (by decide +kernel), ((pFst (pSnd (pHead (pOk (some (checkSpots (st ((rDev (.read 4) 1).onDie 0 fun x => { x with cache := [⟨0, 0, 1⟩] }) : State).dev (((pSome (some (arrived (st ((rDev (.read 4) 1).onDie 0 fun x => { x with cache := [⟨0, 0, 1⟩] }) : State).dev (1 : Nat) (fun k => match k with | .read _ => true | _ => false))))).get (by decide +kernel)).vdev (((pSome (some (arrived (st ((rDev (.read 4) 1).onDie 0 fun x => { x with cache := [⟨0, 0, 1⟩] }) : State).dev (1 : Nat) (fun k => match k with | .read _ => true | _ => false))))).get (by decide +kernel)).spots))))))).get (by decide +kernel), ((pFst (pSnd (pSnd (pHead (pOk (some (checkSpots (st ((rDev (.read 4) 1).onDie 0 fun x => { x with cache := [⟨0, 0, 1⟩] }) : State).dev (((pSome (some (arrived (st ((rDev (.read 4) 1).onDie 0 fun x => { x with cache := [⟨0, 0, 1⟩] }) : State).dev (1 : Nat) (fun k => match k with | .read _ => true | _ => false))))).get (by decide +kernel)).vdev (((pSome (some (arrived (st ((rDev (.read 4) 1).onDie 0 fun x => { x with cache := [⟨0, 0, 1⟩] }) : State).dev (1 : Nat) (fun k => match k with | .read _ => true | _ => false))))).get (by decide +kernel)).spots)))))))).get (by decide +kernel), ((pSnd (pSnd (pSnd (pHead (pOk (some (checkSpots (st ((rDev (.read 4) 1).onDie 0 fun x => { x with cache := [⟨0, 0, 1⟩] }) : State).dev (((pSome (some (arrived (st ((rDev (.read 4) 1).onDie 0 fun x => { x with cache := [⟨0, 0, 1⟩] }) : State).dev (1 : Nat) (fun k => match k with | .read _ => true | _ => false))))).get (by decide +kernel)).vdev (((pSome (some (arrived (st ((rDev (.read 4) 1).onDie 0 fun x => { x with cache := [⟨0, 0, 1⟩] }) : State).dev (1 : Nat) (fun k => match k with | .read _ => true | _ => false))))).get (by decide +kernel)).spots)))))))).get (by decide +kernel), by decide +kernel, by decide +kernel, by decide +kernel, ex_eq (by decide +kernel), by decide +kernel⟩,
   ⟨st (rDev (.read 4) 1), 1, ((pSome (some (arrived (st (rDev (.read 4) 1) : State).dev (1 : Nat) (fun k => match k with | .read _ => true | _ => false))))).get (by decide +kernel), ((pHead (some ((((pSome (some (arrived (st (rDev (.read 4) 1) : State).dev (1 : Nat) (fun k => match k with | .read _ => true | _ => false))))).get (by decide +kernel)).spots)))).get (by decide +kernel), ((pFst (pSnd (pHead (pOk (some (checkSpots (st (rDev (.read 4) 1) : State).dev (((pSome (some (arrived (st (rDev (.read 4) 1) : State).dev (1 : Nat) (fun k => match k with | .read _ => true | _ => false))))).get (by decide +kernel)).vdev (((pSome (some (arrived (st (rDev (.read 4) 1) : State).dev (1 : Nat) (fun k => match k with | .read _ => true | _ => false))))).get (by decide +kernel)).spots))))))).get (by decide +kernel), ((pFst (pSnd (pSnd (pHead (pOk (some (checkSpots (st (rDev (.read 4) 1) : State).dev (((pSome (some (arrived (st (rDev (.read 4) 1) : State).dev (1 : Nat) (fun k => match k with | .read _ => true | _ => false))))).get (by decide +kernel)).vdev (((pSome (some (arrived (st (rDev (.read 4) 1) : State).dev (1 : Nat) (fun k => match k with | .read _ => true | _ => false))))).get (by decide +kernel)).spots)))))))).get (by decide +kernel), ((pSnd (pSnd (pSnd (pHead (pOk (some (checkSpots (st (rDev (.read 4) 1) : State).dev (((pSome (some (arrived (st (rDev (.read 4) 1) : State).dev (1 : Nat) (fun k => match k with | .read _ => true | _ => false))))).get (by decide +kernel)).vdev (((pSome (some (arrived (st (rDev (.read 4) 1) : State).dev (1 : Nat) (fun k => match k with | .read _ => true | _ => false))))).get (by decide +kernel)).spots)))))))).get (by decide +kernel), by decide +kernel, by decide +kernel, ex_eq (by decide +kernel), by decide +kernel⟩,
   ⟨st ((rDev (.read 4) 1).onChan 0 fun c => { c with poison := [0] }), 1, .good, ((pSome (some (arrived (st ((rDev (.read 4) 1).onChan 0 fun c => { c with poison := [0] }) : State).dev (1 : Nat) (fun k => match k with | .read _ => true | _ => false))))).get (by decide +kernel), ((pHead (some ((((pSome (some (arrived (st ((rDev (.read 4) 1).onChan 0 fun c => { c with poison := [0] }) : State).dev (1 : Nat) (fun k => match k with | .read _ => true | _ => false))))).get (by decide +kernel)).spots)))).get (by decide +kernel), ((pFst (pSnd (pHead (pOk (some (checkSpots (st ((rDev (.read 4) 1).onChan 0 fun c => { c with poison := [0] }) : State).dev (((pSome (some (arrived (st ((rDev (.read 4) 1).onChan 0 fun c => { c with poison := [0] }) : State).dev (1 : Nat) (fun k => match k with | .read _ => true | _ => false))))).get (by decide +kernel)).vdev (((pSome (some (arrived (st ((rDev (.read 4) 1).onChan 0 fun c => { c with poison := [0] }) : State).dev (1 : Nat) (fun k => match k with | .read _ => true | _ => false))))).get (by decide +kernel)).spots))))))).get (by decide +kernel), ((pFst (pSnd (pSnd (pHead (pOk (some (checkSpots (st ((rDev (.read 4) 1).onChan 0 fun c => { c with poison := [0] }) : State).dev (((pSome (some (arrived (st ((rDev (.read 4) 1).onChan 0 fun c => { c with poison := [0] }) : State).dev (1 : Nat) (fun k => match k with | .read _ => true | _ => false))))).get (by decide +kernel)).vdev (((pSome (some (arrived (st ((rDev (.read 4) 1).onChan 0 fun c => { c with poison := [0] }) : State).dev (1 : Nat) (fun k => match k with | .read _ => true | _ => false))))).get (by decide +kernel)).spots)))))))).get (by decide +kernel), ((pSnd (pSnd (pSnd (pHead (pOk (some (checkSpots (st ((rDev (.read 4) 1).onChan 0 fun c => { c with poison := [0] }) : State).dev (((pSome (some (arrived (st ((rDev (.read 4) 1).onChan 0 fun c => { c with poison := [0] }) : State).dev (1 : Nat) (fun k => match k with | .read _ => true | _ => false))))).get (by decide +kernel)).vdev (((pSome (some (arrived (st ((rDev (.read 4) 1).onChan 0 fun c => { c with poison := [0] }) : State).dev (1 : Nat) (fun k => match k with | .read _ => true | _ => false))))).get (by decide +kernel)).spots)))))))).get (by decide +kernel), by decide +kernel, by decide +kernel, by decide +kernel, ex_eq (by decide +kernel), by decide +kernel⟩,
   ⟨st (rDev (.write [1, 2, 3, 4]) 1), 1, .good, [1, 2, 3, 4], ((pSome (some (arrived (st (rDev (.write [1, 2, 3, 4]) 1) : State).dev (1 : Nat) (fun k => match k with | .write _ => true | _ => false))))).get (by decide +kernel), ((pOk (some (checkSpots (st (rDev (.write [1, 2, 3, 4]) 1) : State).dev (((pSome (some (arrived (st (rDev (.write [1, 2, 3, 4]) 1) : State).dev (1 : Nat) (fun k => match k with | .write _ => true | _ => false))))).get (by decide +kernel)).vdev (((pSome (some (arrived (st (rDev (.write [1, 2, 3, 4]) 1) : State).dev (1 : Nat) (fun k => match k with | .write _ => true | _ => false))))).get (by decide +kernel)).spots)))).get (by decide +kernel), by decide +kernel, by decide +kernel, by decide +kernel, ex_eq (by decide +kernel), by decide +kernel⟩,
   ⟨st (rDev (.atomic (.int .add false 1)) 1), 1, .int .add false 1, ((pSome (some (arrived (st (rDev (.atomic (.int .add false 1)) 1) : State).dev (1 : Nat) (fun k => match k with | .atomic _ => true | _ => false))))).get (by decide +kernel), ((pHead (some ((((pSome (some (arrived (st (rDev (.atomic (.int .add false 1)) 1) : State).dev (1 : Nat) (fun k => match k with | .atomic _ => true | _ => false))))).get (by decide +kernel)).spots)))).get (by decide +kernel), ((pFst (pSnd (pHead (pOk (some (checkSpots (st (rDev (.atomic (.int .add false 1)) 1) : State).dev (((pSome (some (arrived (st (rDev (.atomic (.int .add false 1)) 1) : State).dev (1 : Nat) (fun k => match k with | .atomic _ => true | _ => false))))).get (by decide +kernel)).vdev (((pSome (some (arrived (st (rDev (.atomic (.int .add false 1)) 1) : State).dev (1 : Nat) (fun k => match k with | .atomic _ => true | _ => false))))).get (by decide +kernel)).spots))))))).get (by decide +kernel), ((pFst (pSnd (pSnd (pHead (pOk (some (checkSpots (st (rDev (.atomic (.int .add false 1)) 1) : State).dev (((pSome (some (arrived (st (rDev (.atomic (.int .add false 1)) 1) : State).dev (1 : Nat) (fun k => match k with | .atomic _ => true | _ => false))))).get (by decide +kernel)).vdev (((pSome (some (arrived (st (rDev (.atomic (.int .add false 1)) 1) : State).dev (1 : Nat) (fun k => match k with | .atomic _ => true | _ => false))))).get (by decide +kernel)).spots)))))))).get (by decide +kernel), ((pSnd (pSnd (pSnd (pHead (pOk (some (checkSpots (st (rDev (.atomic (.int .add false 1)) 1) : State).dev (((pSome (some (arrived (st (rDev (.atomic (.int .add false 1)) 1) : State).dev (1 : Nat) (fun k => match k with | .atomic _ => true | _ => false))))).get (by decide +kernel)).vdev (((pSome (some (arrived (st (rDev (.atomic (.int .add false 1)) 1) : State).dev (1 : Nat) (fun k => match k with | .atomic _ => true | _ => false))))).get (by decide +kernel)).spots)))))))).get (by decide +kernel), by decide +kernel, by decide +kernel, by decide +kernel, ex_eq (by decide +kernel), by decide +kernel⟩,
   ⟨st (sDev (.read 4)), 1, 0, 0, 4, 4, ((pFst (pSome (some (takeFirst (fun x : MResp => x.req.id == (1 : Nat) && (match x.req.kind with | .read _ => true | _ => false)) (st (sDev (.read 4)) : State).dev.mc.resps))))).get (by decide +kernel), ((pSnd (pSome (some (takeFirst (fun x : MResp => x.req.id == (1 : Nat) && (match x.req.kind with | .read _ => true | _ => false)) (st (sDev (.read 4)) : State).dev.mc.resps))))).get (by decide +kernel), ((pSome (some (Tab.get? (st (sDev (.read 4)) : State).dev.kern (((pFst (pSome (some (takeFirst (fun x : MResp => x.req.id == (1 : Nat) && (match x.req.kind with | .read _ => true | _ => false)) (st (sDev (.read 4)) : State).dev.mc.resps))))).get (by decide +kernel)).req.cmd)))).get (by decide +kernel), by decide +kernel⟩,
   ⟨st (sDev (.write [1, 2, 3, 4])), 1, ((pFst (pSome (some (takeFirst (fun x : MResp => x.req.id == (1 : Nat) && (match x.req.kind with | .write _ => true | _ => false)) (st (sDev (.write [1, 2, 3, 4])) : State).dev.mc.resps))))).get (by decide +kernel), ((pSnd (pSome (some (takeFirst (fun x : MResp => x.req.id == (1 : Nat) && (match x.req.kind with | .write _ => true | _ => false)) (st (sDev (.write [1, 2, 3, 4])) : State).dev.mc.resps))))).get (by decide +kernel), by decide +kernel⟩,
   ⟨st (sDev (.atomic (.int .add false 1))), 1, ((pFst (pSome (some (takeFirst (fun x : MResp => x.req.id == (1 : Nat) && (match x.req.kind with | .atomic _ => true | _ => false)) (st (sDev (.atomic (.int .add false 1))) : State).dev.mc.resps))))).get (by decide +kernel), ((pSnd (pSome (some (takeFirst (fun x : MResp => x.req.id == (1 : Nat) && (match x.req.kind with | .atomic _ => true | _ => false)) (st (sDev (.atomic (.int .add false 1))) : State).dev.mc.resps))))).get (by decide +kernel), by decide +kernel⟩,
   ⟨State.reset, 0, by decide +kernel⟩⟩

/-- Witnesses for OrderedInstructions. -/
theorem wit_OrderedInstructions :
    (∃ (s : State), ∃ (n : CoreId), ∃ (g : Nat), ∃ (lane : Fin 32), ∃ (rd : Nat), ∃ (uses : List Nat), ∃ (i : Instr), ∃ (o : OrdOp), ∃ (f : FlagWord), ∃ (a : KAt), ((∃ wide core ra re rs, i = .compareAndSwap ⟨n, none⟩ g lane wide core rd ra re rs ∧ klOrdered a.cmd.params = true ∧ uses = wideRegs wide rd ++ addrRegs core ra ++ wideRegs wide re ++ wideRegs wide rs ∧ o = .cas core wide (ordAddr a lane.val core wide ra).1 (wideVal a lane.val re wide) (wideVal a lane.val rs wide) ∧ f = (ordAddr a lane.val core wide ra).2) ∨ (∃ wide core ra rs, i = .exchange ⟨n, none⟩ g lane wide core rd ra rs ∧ klOrdered a.cmd.params = true ∧ uses = wideRegs wide rd ++ addrRegs core ra ++ wideRegs wide rs ∧ o = .swap core wide (ordAddr a lane.val core wide ra).1 (wideVal a lane.val rs wide) ∧ f = (ordAddr a lane.val core wide ra).2) ∨ (∃ op wide core ra rs, i = .fetchAtomic ⟨n, none⟩ g lane op wide core rd ra rs ∧ klOrdered a.cmd.params = true ∧ uses = wideRegs wide rd ++ addrRegs core ra ++ wideRegs wide rs ∧ o = .fetch core wide op (ordAddr a lane.val core wide ra).1 (wideVal a lane.val rs wide) ∧ f = (ordAddr a lane.val core wide ra).2) ∨ (∃ rs, i = .dalloc ⟨n, none⟩ g lane rd rs ∧ klHeap a.cmd.params ≠ 0 ∧ uses = [rd, rd + 1, rs, rs + 1] ∧ o = .alloc (a.grp.pair lane.val rs).toNat ∧ f = 0) ∨ (∃ ra rs, i = .dfree ⟨n, none⟩ g lane ra rs ∧ klHeap a.cmd.params ≠ 0 ∧ rd = 256 ∧ uses = [ra, ra + 1, rs, rs + 1] ∧ o = .free (a.grp.pair lane.val ra).toNat (a.grp.pair lane.val rs).toNat ∧ f = 0)) ∧ s.dev.at? n.val g = some a ∧ activeLanes s.dev a g (laneBit lane.val) uses = some [lane.val] ∧ klWatch a.cmd.params = false) ∧
    (∃ (s : State), ∃ (n : CoreId), ∃ (g : Nat), ∃ (lane : Fin 32), ∃ (rd : Nat), ∃ (rs : Nat), ∃ (a : KAt), s.dev.at? n.val g = some a ∧ klHeap a.cmd.params = 0 ∧ activeLanes s.dev a g (laneBit lane.val) [rd, rd + 1, rs, rs + 1] = some [lane.val]) ∧
    (∃ (s : State), ∃ (n : CoreId), ∃ (g : Nat), ∃ (m : BitVec 32), ∃ (a : KAt), ∃ (ls : List Nat), s.dev.at? n.val g = some a ∧ activeLanes s.dev a g m [] = some ls) ∧
    (∃ (s : State), ∃ (n : CoreId), ∃ (g : Nat), ∃ (a : KAt), s.dev.at? n.val g = some a ∧ klOrdered a.cmd.params = false) ∧
    (∃ (s : State), ∃ (v : VDev), ∃ (q : QId), (∀ c r o, s.dev.cur? v.val q.val = some c → Tab.get? s.dev.kern c.no = some r → leastOrd r.ordered = some o → c.phase ≠ .running ∨ r.stopped = true ∨ turnReady c r o = false)) ∧
    (∃ (s : State), ∃ (v : VDev), ∃ (q : QId), ∃ (c : Cmd), ∃ (r : KRun), ∃ (o : OrdReq), s.dev.cur? v.val q.val = some c ∧ Tab.get? s.dev.kern c.no = some r ∧ leastOrd r.ordered = some o ∧ c.phase = .running ∧ r.stopped = false ∧ turnReady c r o = true) ∧
    (∃ (l : List OrdReq), ∃ (o : OrdReq), leastOrd l = some o) :=
  ⟨⟨st (kPar 6 [2, 0] id), 0, 0, 0, 4, wideRegs false 4 ++ addrRegs false 0 ++ wideRegs false 2, .exchange ⟨0, none⟩ 0 0 false false 4 0 2, _, _, ((pSome (some ((st (kPar 6 [2, 0] id) : State).dev.at? (0 : CoreId).val (0 : Nat))))).get (by decide +kernel), Or.inr (Or.inl ⟨false, false, 0, 2, rfl, by decide +kernel, rfl, rfl, rfl⟩), by decide +kernel⟩,
   ⟨st (kGrp id), 0, 0, 0, 0, 0, ((pSome (some ((st (kGrp id) : State).dev.at? (0 : CoreId).val (0 : Nat))))).get (by decide +kernel), by decide +kernel⟩,
   ⟨st (kGrp id), 0, 0, 1, ((pSome (some ((st (kGrp id) : State).dev.at? (0 : CoreId).val (0 : Nat))))).get (by decide +kernel), ((pSome (some (activeLanes (st (kGrp id) : State).dev (((pSome (some ((st (kGrp id) : State).dev.at? (0 : CoreId).val (0 : Nat))))).get (by decide +kernel)) (0 : Nat) (1 : BitVec 32) [])))).get (by decide +kernel), by decide +kernel⟩,
   ⟨st (kGrp id), 0, 0, ((pSome (some ((st (kGrp id) : State).dev.at? (0 : CoreId).val (0 : Nat))))).get (by decide +kernel), by decide +kernel⟩,
   ⟨State.reset, 0, 0, by intro c r o h; cases h⟩,
   ⟨st (kDev { kRun0 with ordered := [⟨0, 0, 0, 0, 0, 0, 4, .alloc 16⟩], groups := [(0, { newGroup 0 0 none with beyond := BitVec.allOnes 32, ended := BitVec.allOnes 32 })] }), 0, 0, ((pSome (some ((st (kDev { kRun0 with ordered := [⟨0, 0, 0, 0, 0, 0, 4, .alloc 16⟩], groups := [(0, { newGroup 0 0 none with beyond := BitVec.allOnes 32, ended := BitVec.allOnes 32 })] }) : State).dev.cur? (0 : VDev).val (0 : QId).val)))).get (by decide +kernel), ((pSome (some (Tab.get? (st (kDev { kRun0 with ordered := [⟨0, 0, 0, 0, 0, 0, 4, .alloc 16⟩], groups := [(0, { newGroup 0 0 none with beyond := BitVec.allOnes 32, ended := BitVec.allOnes 32 })] }) : State).dev.kern (((pSome (some ((st (kDev { kRun0 with ordered := [⟨0, 0, 0, 0, 0, 0, 4, .alloc 16⟩], groups := [(0, { newGroup 0 0 none with beyond := BitVec.allOnes 32, ended := BitVec.allOnes 32 })] }) : State).dev.cur? (0 : VDev).val (0 : QId).val)))).get (by decide +kernel)).no)))).get (by decide +kernel), ((pSome (some (leastOrd (((pSome (some (Tab.get? (st (kDev { kRun0 with ordered := [⟨0, 0, 0, 0, 0, 0, 4, .alloc 16⟩], groups := [(0, { newGroup 0 0 none with beyond := BitVec.allOnes 32, ended := BitVec.allOnes 32 })] }) : State).dev.kern (((pSome (some ((st (kDev { kRun0 with ordered := [⟨0, 0, 0, 0, 0, 0, 4, .alloc 16⟩], groups := [(0, { newGroup 0 0 none with beyond := BitVec.allOnes 32, ended := BitVec.allOnes 32 })] }) : State).dev.cur? (0 : VDev).val (0 : QId).val)))).get (by decide +kernel)).no)))).get (by decide +kernel)).ordered)))).get (by decide +kernel), by decide +kernel⟩,
   ⟨[⟨0, 0, 0, 0, 0, 0, 4, .alloc 16⟩], ((pSome (some (leastOrd ([⟨0, 0, 0, 0, 0, 0, 4, .alloc 16⟩] : List OrdReq))))).get (by decide +kernel), by decide +kernel⟩⟩

/-- Witnesses for BarriersAndTransfers. -/
theorem wit_BarriersAndTransfers :
    (∃ (s : State), ∃ (n : CoreId), ∃ (g : Nat), ∃ (lane : Fin 32), ∃ (a : KAt), s.dev.at? n.val g = some a ∧ activeLanes s.dev a g (laneBit lane.val) [] = some [lane.val]) ∧
    (∃ (s : State), ∃ (n : CoreId), ∃ (g : Nat), ∃ (a : KAt), s.dev.at? n.val g = some a ∧ a.grp.atGroup ≠ 0 ∧ arrivedAll a.grp false = true ∧ outstanding s.dev a.no a.run g = false) ∧
    (∃ (s : State), ∃ (n : CoreId), ∃ (g : Nat), ∃ (a : KAt), ∃ gs, gs = (a.run.cohort a.cmd (a.cmd.cohortOf g)) ∧ s.dev.at? n.val g = some a ∧ ((gs.any fun x => x.2.atCohort != 0) = true) ∧ ((gs.all fun x => arrivedAll x.2 true && !outstanding s.dev a.no a.run x.1) = true)) ∧
    (∃ (s : State), ∃ (n : CoreId), ∃ (g : Nat), ∃ (a : KAt), s.dev.at? n.val g = some a ∧ (a.grp.atGroup = 0 ∨ arrivedAll a.grp false = false ∨ outstanding s.dev a.no a.run g = true)) ∧
    (∃ (s : State), ∃ (n : CoreId), ∃ (g : Nat), ∃ (a : KAt), s.dev.at? n.val g = some a ∧ (∃ x ∈ a.run.cohort a.cmd (a.cmd.cohortOf g), arrivedAll x.2 true = false ∨ outstanding s.dev a.no a.run x.1 = true)) ∧
    (∃ (s : State), ∃ (n : CoreId), ∃ (g : Nat), s.dev.at? n.val g = none) ∧
    (∃ (s : State), ∃ (n : CoreId), ∃ (g : Nat), ∃ (m : BitVec 32), ∃ (x : MoverArg), ∃ (a : KAt), ∃ (l : Nat), ∃ (ls : List Nat), s.dev.at? n.val g = some a ∧ activeLanes s.dev a g m [] = some (l :: ls) ∧ x.axes.length ≤ 5 ∧ a.grp.movers.length < moverRoom ∧ ((a.run.ordered.any fun o => o.g == g && o.t == l && o.op.place?.isSome) = false)) ∧
    (∃ (s : State), ∃ (n : CoreId), ∃ (g : Nat), ∃ (m : BitVec 32), ∃ (a : KAt), s.dev.at? n.val g = some a ∧ (moverRoom ≤ a.grp.movers.length ∨ ∃ l ls, activeLanes s.dev a g m [] = some (l :: ls) ∧ (a.run.ordered.any fun o => o.g == g && o.t == l && o.op.place?.isSome) = true)) ∧
    (∃ (x : MoverArg), 5 < x.axes.length) ∧
    (∃ (s : State), ∃ (n : CoreId), ∃ (g : Nat), ∃ (m : BitVec 32), ∃ (dst : Nat), ∃ (off : Nat), ∃ (len : Nat), ∃ (a : KAt), ∃ (l : Nat), ∃ (ls : List Nat), ∃ inside, inside = (dst < cohortSize a.cmd g ∧ off + len ≤ klPeer a.cmd.params) ∧ s.dev.at? n.val g = some a ∧ activeLanes s.dev a g m [] = some (l :: ls) ∧ a.grp.movers.length < moverRoom ∧ ((a.run.ordered.any fun o => o.g == g && o.t == l && o.op.place?.isSome) = false) ∧ inside) ∧
    (∃ (s : State), ∃ (n : CoreId), ∃ (g : Nat), ∃ (m : BitVec 32), ∃ (dst : Nat), ∃ (off : Nat), ∃ (len : Nat), ∃ (a : KAt), ∃ (l : Nat), ∃ (ls : List Nat), ∃ inside, inside = (dst < cohortSize a.cmd g ∧ off + len ≤ klPeer a.cmd.params) ∧ s.dev.at? n.val g = some a ∧ activeLanes s.dev a g m [] = some (l :: ls) ∧ a.grp.movers.length < moverRoom ∧ ((a.run.ordered.any fun o => o.g == g && o.t == l && o.op.place?.isSome) = false) ∧ (¬inside)) ∧
    (∃ (s : State), ∃ (id : Nat), ∃ (no : Nat), ∃ (g : Nat), ∃ (r : KRun), ∃ (x : KGroup), ∃ (t : MoverT), ∃ (c : Cmd), ∃ (src : Nat), ∃ (dst : Nat), ∃ (off : Nat), ∃ (len : Nat), ∃ (y : KGroup), findMover s.dev id = some (no, r, g, x, t) ∧ t.peer = some (src, dst, off, len) ∧ s.dev.cur? r.vdev r.queue = some c ∧ Tab.get? r.groups dst = some y ∧ y.tags = [] ∧ t.landed = false ∧ r.stopped = false ∧ c.no = no ∧ klWatch c.params = false) ∧
    (∃ (s : State), ∃ (n : CoreId), ∃ (id : Nat), ∃ (g : Nat), ∃ (no : Nat), ∃ (r : KRun), ∃ (x : KGroup), ∃ (t : MoverT), ∃ (qx : Queue), ∃ (c : Cmd), ∃ (src : Nat), ∃ (dst : Nat), ∃ (off : Nat), ∃ (len : Nat), findMover s.dev id = some (no, r, g, x, t) ∧ t.peer = some (src, dst, off, len) ∧ (t.landed = true ∨ len = 0) ∧ s.dev.queue? r.vdev r.queue = some qx ∧ qx.cur = some c ∧ x.core = n.val ∧ r.stopped = false ∧ c.no = no ∧ c.phase = .running ∧ moverWaits s.dev no g t = false) ∧
    (∃ (s : State), ∃ (n : CoreId), ∃ (id : Nat), ∃ (g : Nat), ∃ (no : Nat), ∃ (r : KRun), ∃ (x : KGroup), ∃ (t : MoverT), ∃ (qx : Queue), ∃ (c : Cmd), findMover s.dev id = some (no, r, g, x, t) ∧ t.peer = none ∧ s.dev.queue? r.vdev r.queue = some qx ∧ qx.cur = some c ∧ x.core = n.val ∧ r.stopped = false ∧ c.no = no ∧ c.phase = .running ∧ moverWaits s.dev no g t = false) ∧
    (∃ (s : State), ∃ (n : CoreId), ∃ (g : Nat), ∃ (lane : Fin 32), ∃ (k : Nat), ∃ (a : KAt), s.dev.at? n.val g = some a ∧ activeLanes s.dev a g (laneBit lane.val) [] = some [lane.val] ∧ k ≤ a.grp.count) ∧
    (∃ (s : State), ∃ (n : CoreId), ∃ (g : Nat), ∃ (k : Nat), ∃ (a : KAt), s.dev.at? n.val g = some a ∧ a.grp.count < k) ∧
    (∃ (s : State), ∃ (id : Nat), ∃ (g : Nat), ∃ (no : Nat), ∃ (r : KRun), ∃ (x : KGroup), ∃ (t : MoverT), findMover s.dev id = some (no, r, g, x, t) ∧ (moverWaits s.dev no g t = true ∨ r.stopped = true)) ∧
    (∃ (s : State), ∃ (id : Nat), findMover s.dev id = none) :=
  ⟨⟨st (kGrp id), 0, 0, 31, ((pSome (some ((st (kGrp id) : State).dev.at? (0 : CoreId).val (0 : Nat))))).get (by decide +kernel), by decide +kernel⟩,
   ⟨st (kGrp fun x => { x with atGroup := BitVec.allOnes 32 }), 0, 0, ((pSome (some ((st (kGrp fun x => { x with atGroup := BitVec.allOnes 32 }) : State).dev.at? (0 : CoreId).val (0 : Nat))))).get (by decide +kernel), by decide +kernel⟩,
   ⟨st (kGrp fun x => { x with atCohort := BitVec.allOnes 32 }), 0, 0, ((pSome (some ((st (kGrp fun x => { x with atCohort := BitVec.allOnes 32 }) : State).dev.at? (0 : CoreId).val (0 : Nat))))).get (by decide +kernel), _, rfl, by decide +kernel⟩,
   ⟨st (kGrp id), 0, 0, ((pSome (some ((st (kGrp id) : State).dev.at? (0 : CoreId).val (0 : Nat))))).get (by decide +kernel), by decide +kernel⟩,
   ⟨st (kGrp id), 0, 0, ((pSome (some ((st (kGrp id) : State).dev.at? (0 : CoreId).val (0 : Nat))))).get (by decide +kernel), by decide +kernel⟩,
   ⟨State.reset, 0, 0, by decide +kernel⟩,
   ⟨st (kGrp id), 0, 0, 1, ⟨true, 0x20000, 0, []⟩, ((pSome (some ((st (kGrp id) : State).dev.at? (0 : CoreId).val (0 : Nat))))).get (by decide +kernel), ((pHead (pSome (some (activeLanes (st (kGrp id) : State).dev (((pSome (some ((st (kGrp id) : State).dev.at? (0 : CoreId).val (0 : Nat))))).get (by decide +kernel)) (0 : Nat) (1 : BitVec 32) []))))).get (by decide +kernel), ((pTail (pSome (some (activeLanes (st (kGrp id) : State).dev (((pSome (some ((st (kGrp id) : State).dev.at? (0 : CoreId).val (0 : Nat))))).get (by decide +kernel)) (0 : Nat) (1 : BitVec 32) []))))).get (by decide +kernel), by decide +kernel⟩,
   ⟨st (kGrp fun x => { x with movers := List.replicate 256 (mov none false) }), 0, 0, 0, ((pSome (some ((st (kGrp fun x => { x with movers := List.replicate 256 (mov none false) }) : State).dev.at? (0 : CoreId).val (0 : Nat))))).get (by decide +kernel), by decide +kernel, Or.inl (by decide +kernel)⟩,
   ⟨⟨true, 0, 0, List.replicate 6 (1, 0, 0)⟩, by decide +kernel⟩,
   ⟨st (kPar 0x40 [64, 0, 0, 0] id), 0, 0, 1, 0, 0, 16, ((pSome (some ((st (kPar 0x40 [64, 0, 0, 0] id) : State).dev.at? (0 : CoreId).val (0 : Nat))))).get (by decide +kernel), ((pHead (pSome (some (activeLanes (st (kPar 0x40 [64, 0, 0, 0] id) : State).dev (((pSome (some ((st (kPar 0x40 [64, 0, 0, 0] id) : State).dev.at? (0 : CoreId).val (0 : Nat))))).get (by decide +kernel)) (0 : Nat) (1 : BitVec 32) []))))).get (by decide +kernel), ((pTail (pSome (some (activeLanes (st (kPar 0x40 [64, 0, 0, 0] id) : State).dev (((pSome (some ((st (kPar 0x40 [64, 0, 0, 0] id) : State).dev.at? (0 : CoreId).val (0 : Nat))))).get (by decide +kernel)) (0 : Nat) (1 : BitVec 32) []))))).get (by decide +kernel), _, rfl, by decide +kernel⟩,
   ⟨st (kGrp id), 0, 0, 1, 1, 0, 0, ((pSome (some ((st (kGrp id) : State).dev.at? (0 : CoreId).val (0 : Nat))))).get (by decide +kernel), ((pHead (pSome (some (activeLanes (st (kGrp id) : State).dev (((pSome (some ((st (kGrp id) : State).dev.at? (0 : CoreId).val (0 : Nat))))).get (by decide +kernel)) (0 : Nat) (1 : BitVec 32) []))))).get (by decide +kernel), ((pTail (pSome (some (activeLanes (st (kGrp id) : State).dev (((pSome (some ((st (kGrp id) : State).dev.at? (0 : CoreId).val (0 : Nat))))).get (by decide +kernel)) (0 : Nat) (1 : BitVec 32) []))))).get (by decide +kernel), _, rfl, by decide +kernel⟩,
   ⟨st (kGrp fun x => { x with movers := List.replicate 1 (mov (some (0, 0, 64, 16)) false) }), 1, ((pFst (pSome (some (findMover (st (kGrp fun x => { x with movers := List.replicate 1 (mov (some (0, 0, 64, 16)) false) }) : State).dev (1 : Nat)))))).get (by decide +kernel), ((pFst (pSnd (pSnd (pSome (some (findMover (st (kGrp fun x => { x with movers := List.replicate 1 (mov (some (0, 0, 64, 16)) false) }) : State).dev (1 : Nat)))))))).get (by decide +kernel), ((pFst (pSnd (pSome (some (findMover (st (kGrp fun x => { x with movers := List.replicate 1 (mov (some (0, 0, 64, 16)) false) }) : State).dev (1 : Nat))))))).get (by decide +kernel), ((pFst (pSnd (pSnd (pSnd (pSome (some (findMover (st (kGrp fun x => { x with movers := List.replicate 1 (mov (some (0, 0, 64, 16)) false) }) : State).dev (1 : Nat))))))))).get (by decide +kernel), ((pSnd (pSnd (pSnd (pSnd (pSome (some (findMover (st (kGrp fun x => { x with movers := List.replicate 1 (mov (some (0, 0, 64, 16)) false) }) : State).dev (1 : Nat))))))))).get (by decide +kernel), ((pSome (some ((st (kGrp fun x => { x with movers := List.replicate 1 (mov (some (0, 0, 64, 16)) false) }) : State).dev.cur? (((pFst (pSnd (pSome (some (findMover (st (kGrp fun x => { x with movers := List.replicate 1 (mov (some (0, 0, 64, 16)) false) }) : State).dev (1 : Nat))))))).get (by decide +kernel)).vdev (((pFst (pSnd (pSome (some (findMover (st (kGrp fun x => { x with movers := List.replicate 1 (mov (some (0, 0, 64, 16)) false) }) : State).dev (1 : Nat))))))).get (by decide +kernel)).queue)))).get (by decide +kernel), ((pFst (pSome (some ((((pSnd (pSnd (pSnd (pSnd (pSome (some (findMover (st (kGrp fun x => { x with movers := List.replicate 1 (mov (some (0, 0, 64, 16)) false) }) : State).dev (1 : Nat))))))))).get (by decide +kernel)).peer))))).get (by decide +kernel), ((pFst (pSnd (pSome (some ((((pSnd (pSnd (pSnd (pSnd (pSome (some (findMover (st (kGrp fun x => { x with movers := List.replicate 1 (mov (some (0, 0, 64, 16)) false) }) : State).dev (1 : Nat))))))))).get (by decide +kernel)).peer)))))).get (by decide +kernel), ((pFst (pSnd (pSnd (pSome (some ((((pSnd (pSnd (pSnd (pSnd (pSome (some (findMover (st (kGrp fun x => { x with movers := List.replicate 1 (mov (some (0, 0, 64, 16)) false) }) : State).dev (1 : Nat))))))))).get (by decide +kernel)).peer))))))).get (by decide +kernel), ((pSnd (pSnd (pSnd (pSome (some ((((pSnd (pSnd (pSnd (pSnd (pSome (some (findMover (st (kGrp fun x => { x with movers := List.replicate 1 (mov (some (0, 0, 64, 16)) false) }) : State).dev (1 : Nat))))))))).get (by decide +kernel)).peer))))))).get (by decide +kernel), ((pSome (some (Tab.get? (((pFst (pSnd (pSome (some (findMover (st (kGrp fun x => { x with movers := List.replicate 1 (mov (some (0, 0, 64, 16)) false) }) : State).dev (1 : Nat))))))).get (by decide +kernel)).groups (((pFst (pSnd (pSome (some ((((pSnd (pSnd (pSnd (pSnd (pSome (some (findMover (st (kGrp fun x => { x with movers := List.replicate 1 (mov (some (0, 0, 64, 16)) false) }) : State).dev (1 : Nat))))))))).get (by decide +kernel)).peer)))))).get (by decide +kernel)))))).get (by decide +kernel), by decide +kernel⟩,
   ⟨st (kGrp fun x => { x with movers := List.replicate 1 (mov (some (0, 0, 64, 16)) true) }), 0, 1, ((pFst (pSnd (pSnd (pSome (some (findMover (st (kGrp fun x => { x with movers := List.replicate 1 (mov (some (0, 0, 64, 16)) true) }) : State).dev (1 : Nat)))))))).get (by decide +kernel), ((pFst (pSome (some (findMover (st (kGrp fun x => { x with movers := List.replicate 1 (mov (some (0, 0, 64, 16)) true) }) : State).dev (1 : Nat)))))).get (by decide +kernel), ((pFst (pSnd (pSome (some (findMover (st (kGrp fun x => { x with movers := List.replicate 1 (mov (some (0, 0, 64, 16)) true) }) : State).dev (1 : Nat))))))).get (by decide +kernel), ((pFst (pSnd (pSnd (pSnd (pSome (some (findMover (st (kGrp fun x => { x with movers := List.replicate 1 (mov (some (0, 0, 64, 16)) true) }) : State).dev (1 : Nat))))))))).get (by decide +kernel), ((pSnd (pSnd (pSnd (pSnd (pSome (some (findMover (st (kGrp fun x => { x with movers := List.replicate 1 (mov (some (0, 0, 64, 16)) true) }) : State).dev (1 : Nat))))))))).get (by decide +kernel), ((pSome (some ((st (kGrp fun x => { x with movers := List.replicate 1 (mov (some (0, 0, 64, 16)) true) }) : State).dev.queue? (((pFst (pSnd (pSome (some (findMover (st (kGrp fun x => { x with movers := List.replicate 1 (mov (some (0, 0, 64, 16)) true) }) : State).dev (1 : Nat))))))).get (by decide +kernel)).vdev (((pFst (pSnd (pSome (some (findMover (st (kGrp fun x => { x with movers := List.replicate 1 (mov (some (0, 0, 64, 16)) true) }) : State).dev (1 : Nat))))))).get (by decide +kernel)).queue)))).get (by decide +kernel), ((pSome (some ((((pSome (some ((st (kGrp fun x => { x with movers := List.replicate 1 (mov (some (0, 0, 64, 16)) true) }) : State).dev.queue? (((pFst (pSnd (pSome (some (findMover (st (kGrp fun x => { x with movers := List.replicate 1 (mov (some (0, 0, 64, 16)) true) }) : State).dev (1 : Nat))))))).get (by decide +kernel)).vdev (((pFst (pSnd (pSome (some (findMover (st (kGrp fun x => { x with movers := List.replicate 1 (mov (some (0, 0, 64, 16)) true) }) : State).dev (1 : Nat))))))).get (by decide +kernel)).queue)))).get (by decide +kernel)).cur)))).get (by decide +kernel), ((pFst (pSome (some ((((pSnd (pSnd (pSnd (pSnd (pSome (some (findMover (st (kGrp fun x => { x with movers := List.replicate 1 (mov (some (0, 0, 64, 16)) true) }) : State).dev (1 : Nat))))))))).get (by decide +kernel)).peer))))).get (by decide +kernel), ((pFst (pSnd (pSome (some ((((pSnd (pSnd (pSnd (pSnd (pSome (some (findMover (st (kGrp fun x => { x with movers := List.replicate 1 (mov (some (0, 0, 64, 16)) true) }) : State).dev (1 : Nat))))))))).get (by decide +kernel)).peer)))))).get (by decide +kernel), ((pFst (pSnd (pSnd (pSome (some ((((pSnd (pSnd (pSnd (pSnd (pSome (some (findMover (st (kGrp fun x => { x with movers := List.replicate 1 (mov (some (0, 0, 64, 16)) true) }) : State).dev (1 : Nat))))))))).get (by decide +kernel)).peer))))))).get (by decide +kernel), ((pSnd (pSnd (pSnd (pSome (some ((((pSnd (pSnd (pSnd (pSnd (pSome (some (findMover (st (kGrp fun x => { x with movers := List.replicate 1 (mov (some (0, 0, 64, 16)) true) }) : State).dev (1 : Nat))))))))).get (by decide +kernel)).peer))))))).get (by decide +kernel), by decide +kernel⟩,
   ⟨st (kGrp fun x => { x with movers := List.replicate 1 (mov none false) }), 0, 1, ((pFst (pSnd (pSnd (pSome (some (findMover (st (kGrp fun x => { x with movers := List.replicate 1 (mov none false) }) : State).dev (1 : Nat)))))))).get (by decide +kernel), ((pFst (pSome (some (findMover (st (kGrp fun x => { x with movers := List.replicate 1 (mov none false) }) : State).dev (1 : Nat)))))).get (by decide +kernel), ((pFst (pSnd (pSome (some (findMover (st (kGrp fun x => { x with movers := List.replicate 1 (mov none false) }) : State).dev (1 : Nat))))))).get (by decide +kernel), ((pFst (pSnd (pSnd (pSnd (pSome (some (findMover (st (kGrp fun x => { x with movers := List.replicate 1 (mov none false) }) : State).dev (1 : Nat))))))))).get (by decide +kernel), ((pSnd (pSnd (pSnd (pSnd (pSome (some (findMover (st (kGrp fun x => { x with movers := List.replicate 1 (mov none false) }) : State).dev (1 : Nat))))))))).get (by decide +kernel), ((pSome (some ((st (kGrp fun x => { x with movers := List.replicate 1 (mov none false) }) : State).dev.queue? (((pFst (pSnd (pSome (some (findMover (st (kGrp fun x => { x with movers := List.replicate 1 (mov none false) }) : State).dev (1 : Nat))))))).get (by decide +kernel)).vdev (((pFst (pSnd (pSome (some (findMover (st (kGrp fun x => { x with movers := List.replicate 1 (mov none false) }) : State).dev (1 : Nat))))))).get (by decide +kernel)).queue)))).get (by decide +kernel), ((pSome (some ((((pSome (some ((st (kGrp fun x => { x with movers := List.replicate 1 (mov none false) }) : State).dev.queue? (((pFst (pSnd (pSome (some (findMover (st (kGrp fun x => { x with movers := List.replicate 1 (mov none false) }) : State).dev (1 : Nat))))))).get (by decide +kernel)).vdev (((pFst (pSnd (pSome (some (findMover (st (kGrp fun x => { x with movers := List.replicate 1 (mov none false) }) : State).dev (1 : Nat))))))).get (by decide +kernel)).queue)))).get (by decide +kernel)).cur)))).get (by decide +kernel), by decide +kernel⟩,
   ⟨st (kGrp id), 0, 0, 31, 0, ((pSome (some ((st (kGrp id) : State).dev.at? (0 : CoreId).val (0 : Nat))))).get (by decide +kernel), by decide +kernel⟩,
   ⟨st (kGrp id), 0, 0, 1, ((pSome (some ((st (kGrp id) : State).dev.at? (0 : CoreId).val (0 : Nat))))).get (by decide +kernel), by decide +kernel⟩,
   ⟨st (kDev { kRun0 with stopped := true, groups := [(0, { newGroup 0 0 none with movers := [mov none false] })] }), 1, ((pFst (pSnd (pSnd (pSome (some (findMover (st (kDev { kRun0 with stopped := true, groups := [(0, { newGroup 0 0 none with movers := [mov none false] })] }) : State).dev (1 : Nat)))))))).get (by decide +kernel), ((pFst (pSome (some (findMover (st (kDev { kRun0 with stopped := true, groups := [(0, { newGroup 0 0 none with movers := [mov none false] })] }) : State).dev (1 : Nat)))))).get (by decide +kernel), ((pFst (pSnd (pSome (some (findMover (st (kDev { kRun0 with stopped := true, groups := [(0, { newGroup 0 0 none with movers := [mov none false] })] }) : State).dev (1 : Nat))))))).get (by decide +kernel), ((pFst (pSnd (pSnd (pSnd (pSome (some (findMover (st (kDev { kRun0 with stopped := true, groups := [(0, { newGroup 0 0 none with movers := [mov none false] })] }) : State).dev (1 : Nat))))))))).get (by decide +kernel), ((pSnd (pSnd (pSnd (pSnd (pSome (some (findMover (st (kDev { kRun0 with stopped := true, groups := [(0, { newGroup 0 0 none with movers := [mov none false] })] }) : State).dev (1 : Nat))))))))).get (by decide +kernel), by decide +kernel⟩,
   ⟨State.reset, 0, by decide +kernel⟩⟩

/-- Witnesses for ScrubRepairAndRetirement. -/
theorem wit_ScrubRepairAndRetirement :
    (∃ (s : State), ∃ (c : Chan), ∃ (line : Nat), (s.dev.chan c.val).state ∈ [ChState.inService, .repairing, .retiring] ∧ line < chanLines ∧ poisoned s.dev (cellAt c.val (64 * line)) = false) ∧
    (∃ (s : State), ∃ (c : Chan), ∃ (line : Nat), ((s.dev.chan c.val).state ∉ [ChState.inService, .repairing, .retiring] ∨ chanLines ≤ line)) ∧
    (∃ (s : State), ∃ (c : Chan), ∃ (line : Nat), (s.dev.chan c.val).state ∈ [ChState.inService, .repairing, .retiring] ∧ line < chanLines ∧ poisoned s.dev (cellAt c.val (64 * line)) = true) ∧
    (∃ (s : State), ∃ (c : Chan), ∃ (row : Nat), ∃ (rest : List Nat), hostQuiet s.dev ∧ (s.dev.chan c.val).repairs = row :: rest) ∧
    (∃ (s : State), ∃ (c : Chan), hostQuiet s.dev ∧ (s.dev.chan c.val).repairs = []) ∧
    (∃ (s : State), ∃ (c : Chan), (s.dev.chan c.val).state ∈ [ChState.inService, .repairing, .retiring]) ∧
    (∃ (s : State), ∃ (c : Chan), (s.dev.chan c.val).state ∉ [ChState.inService, .repairing, .retiring]) ∧
    (∃ (s : State), ∃ (c : Chan), ∃ k, k = (s.dev.chan c.val) ∧ hostQuiet s.dev ∧ (s.dev.chan c.val).state = .training ∧ (s.dev.chan c.val).resume ∉ [ChState.unpowered, .retired] ∧ k.retrains = 0) ∧
    (∃ (s : State), ∃ (c : Chan), ∃ k, k = (s.dev.chan c.val) ∧ hostQuiet s.dev ∧ (s.dev.chan c.val).state = .training ∧ (s.dev.chan c.val).resume ∉ [ChState.unpowered, .retired] ∧ k.retrains ≠ 0 ∧ k.resume = .inService) ∧
    (∃ (s : State), ∃ (c : Chan), hostQuiet s.dev ∧ (s.dev.chan c.val).state = .training ∧ (s.dev.chan c.val).resume = .unpowered ∧ s.dev.boot.cold = true) ∧
    (∃ (s : State), ∃ (c : Chan), ∃ (ok : Bool), hostQuiet s.dev ∧ ((s.dev.chan c.val).state ≠ .training ∨ (s.dev.chan c.val).resume = .retired ∨ ((s.dev.chan c.val).resume = .unpowered ∧ (s.dev.boot.cold = false ∨ ok = false)))) ∧
    (∃ (s : State), ∃ (c : Chan), (s.dev.chan c.val).state = .inService) ∧
    (∃ (s : State), ∃ (c : Chan), ((s.dev.chan c.val).state = .retired ∨ (s.dev.chan c.val).state = .unpowered)) ∧
    (∃ (s : State), ∃ (c : Chan), ∃ (t : Nat), (s.dev.chan c.val).target = some t ∧ (s.dev.chan c.val).copied = false ∧ t ≠ c.val ∧ t < 1024 ∧ s.mem.wf = true) ∧
    (∃ (s : State), ∃ (c : Chan), ((s.dev.chan c.val).target = none ∨ (s.dev.chan c.val).copied = true)) ∧
    (∃ (s : State), ∃ (c : Chan), ∃ t, (s.dev.chan c.val).state = .retiring ∧ (s.dev.chan c.val).target = none ∧ retireTarget c.val s.dev = some t) ∧
    (∃ (s : State), ∃ (c : Chan), ∃ v, (s.dev.chan c.val).state = .retiring ∧ (s.dev.chan c.val).target = none ∧ retireTarget c.val s.dev = none ∧ s.dev.chanOwner c.val = some v) ∧
    (∃ (s : State), ∃ (c : Chan), (s.dev.chan c.val).state = .retiring ∧ (s.dev.chan c.val).target = none ∧ retireTarget c.val s.dev = none ∧ s.dev.chanOwner c.val = none) ∧
    (∃ (s : State), ∃ (c : Chan), ((s.dev.chan c.val).state ≠ .retiring ∨ (s.dev.chan c.val).target ≠ none)) ∧
    (∃ (s : State), ∃ (k : Die), hostQuiet s.dev ∧ (s.dev.die k.val).lost = false ∧ (∀ v x, (v, x) ∈ s.dev.vds → x.queues = []) ∧ s.dev.records = []) ∧
    (∃ (s : State), ∃ (k : Die), hostQuiet s.dev ∧ (s.dev.die k.val).lost = true) ∧
    (∃ (s : State), ∃ (v : VDev), ∃ (n : SetId), ∃ l, (s.dev.vd v.val).unmirrored.contains n.val = true ∧ (s.dev.set n.val).valid = true ∧ pickMirrors s.dev (s.dev.vd v.val) (s.dev.set n.val).members = some l) ∧
    (∃ (s : State), ∃ (v : VDev), ∃ (n : SetId), (s.dev.vd v.val).unmirrored.contains n.val = true ∧ (s.dev.set n.val).valid = true ∧ pickMirrors s.dev (s.dev.vd v.val) (s.dev.set n.val).members = none) ∧
    (∃ (s : State), ∃ (v : VDev), ∃ (n : SetId), ((s.dev.vd v.val).unmirrored.contains n.val = false ∨ (s.dev.set n.val).valid = false)) :=
  ⟨⟨st (vfD vd0), 0, 0, by decide +kernel⟩,
   ⟨State.reset, 0, 0, by decide +kernel⟩,
   ⟨st ((vfD vd0).onChan 0 fun c => { c with state := .inService, poison := [0] }), 0, 0, by decide +kernel⟩,
   ⟨st ((vfD vd0).onChan 1023 fun c => { c with repairs := [5, 6] }), 1023, ((pHead (some (((st ((vfD vd0).onChan 1023 fun c => { c with repairs := [5, 6] }) : State).dev.chan (1023 : Chan).val).repairs)))).get (by decide +kernel), ((pTail (some (((st ((vfD vd0).onChan 1023 fun c => { c with repairs := [5, 6] }) : State).dev.chan (1023 : Chan).val).repairs)))).get (by decide +kernel), by decide +kernel⟩,
   ⟨st ((vfD vd0).onChan 1023 fun c => { c with repairs := [] }), 1023, by decide +kernel⟩,
   ⟨st (vfD vd0), 0, by decide +kernel⟩,
   ⟨State.reset, 0, by decide +kernel⟩,
   ⟨st ((vfD vd0).onChan 1023 fun c => { c with state := .training, resume := .inService }), 1023, _, rfl, by decide +kernel⟩,
   ⟨st ((vfD vd0).onChan 1023 fun c => { c with state := .training, resume := .inService, retrains := 1 }), 1023, _, rfl, by decide +kernel⟩,
   ⟨st (({ vfD vd0 with boot := { upDev.boot with cold := true } }).onChan 1023 fun c => { c with state := .training, resume := .unpowered }), 1023, by decide +kernel⟩,
   ⟨st (vfD vd0), 0, true, by decide +kernel⟩,
   ⟨st (vfD vd0), 0, by decide +kernel⟩,
   ⟨State.reset, 0, by decide +kernel⟩,
   ⟨st ((vfD vd0).onChan 1023 fun c => { c with target := some 5 }), 1023, ((pSome (some (((st ((vfD vd0).onChan 1023 fun c => { c with target := some 5 }) : State).dev.chan (1023 : Chan).val).target)))).get (by decide +kernel), by decide +kernel⟩,
   ⟨State.reset, 0, by decide +kernel⟩,
   ⟨st (((vfD { vd0 with chans := [0, 5] }).onChan 0 fun c => { c with state := .retiring }).onChan 5 fun c => { c with state := .inService }), 0, ((pSome (some (retireTarget (0 : Chan).val (st (((vfD { vd0 with chans := [0, 5] }).onChan 0 fun c => { c with state := .retiring }).onChan 5 fun c => { c with state := .inService }) : State).dev)))).get (by decide +kernel), by decide +kernel⟩,
   ⟨st ((vfD vd0).onChan 0 fun c => { c with state := .retiring }), 0, ((pSome (some ((st ((vfD vd0).onChan 0 fun c => { c with state := .retiring }) : State).dev.chanOwner (0 : Chan).val)))).get (by decide +kernel), by decide +kernel⟩,
   ⟨st ((vfD vd0).onChan 1023 fun c => { c with state := .retiring }), 1023, by decide +kernel⟩,
   ⟨State.reset, 0, by decide +kernel⟩,
   ⟨State.reset, 31, by decide +kernel, by decide +kernel, (by intro v x h; cases h), by decide +kernel⟩,
   ⟨st ((vfD vd0).onDie 31 fun x => { x with lost := true }), 31, by decide +kernel⟩,
   ⟨st ((vfD { vd0 with unmirrored := [0], mirrored := true, chans := [0, 64] }).onChan 64 fun c => { c with state := .inService }), 0, 0, ((pSome (some (pickMirrors (st ((vfD { vd0 with unmirrored := [0], mirrored := true, chans := [0, 64] }).onChan 64 fun c => { c with state := .inService }) : State).dev ((st ((vfD { vd0 with unmirrored := [0], mirrored := true, chans := [0, 64] }).onChan 64 fun c => { c with state := .inService }) : State).dev.vd (0 : VDev).val) ((st ((vfD { vd0 with unmirrored := [0], mirrored := true, chans := [0, 64] }).onChan 64 fun c => { c with state := .inService }) : State).dev.set (0 : SetId).val).members)))).get (by decide +kernel), by decide +kernel⟩,
   ⟨st (vfD { vd0 with unmirrored := [0], mirrored := true, chans := [0] }), 0, 0, by decide +kernel⟩,
   ⟨State.reset, 0, 0, by decide +kernel⟩⟩

/-- Witnesses for HostWindows. -/
theorem wit_HostWindows :
    (∃ (s : State), ∃ (i : Nat), ∃ (bs : List Byte), ∃ a, a = ((headReq mgr i bs).args) ∧ ∃ h, h = (s.dev.decoder (fieldLe a 0 1) (fieldLe a 1 1)) ∧ Accepted s.dev mgr (adRow 0x0310 12) i bs ∧ fieldLe a 0 1 < 4 ∧ fieldLe a 1 1 < 4 ∧ 1 ≤ fieldLe a 3 1 ∧ fieldLe a 3 1 < 4 ∧ fieldLe a 4 8 % 65536 = 0 ∧ fieldLe a 4 8 + h.size ≤ 2 ^ 56 ∧ fieldLe a 2 1 / 64 = fieldLe a 0 1 ∧ h.committed = true ∧ h.bound = none ∧ (s.dev.fn (fieldLe a 2 1)).tdi ≠ .configLocked ∧ (s.dev.fn (fieldLe a 2 1)).tdi ≠ .run ∧ (s.dev.vd (fieldLe a 2 1)).frozen = false ∧ s.dev.sec.level < 2) ∧
    (∃ (s : State), ∃ (i : Nat), ∃ (bs : List Byte), ∃ a, a = ((headReq mgr i bs).args) ∧ Accepted s.dev mgr (adRow 0x0311 2) i bs ∧ fieldLe a 0 1 < 4 ∧ fieldLe a 1 1 < 4 ∧ (s.dev.decoder (fieldLe a 0 1) (fieldLe a 1 1)).bound.isSome = true) ∧
    (∃ (s : State), ∃ (p : HPort), ∃ (i : Fin 4), ∃ (size : Nat), (s.dev.link p.val).cxl = true ∧ (s.dev.decoder p.val i.val).committed = false ∧ 0 < size ∧ size % hdmUnit = 0) ∧
    (∃ (s : State), ∃ (p : HPort), ∃ (i : Fin 4), ∃ n, (s.dev.decoder p.val i.val).committed = true ∧ 0 < n ∧ n % hdmUnit = 0) ∧
    (∃ (s : State), ∃ (p : HPort), ∃ (i : Fin 4), ((s.dev.link p.val).cxl = false ∨ (s.dev.decoder p.val i.val).committed = true)) ∧
    (∃ (size : Nat), (size = 0 ∨ size % hdmUnit ≠ 0)) ∧
    (∃ (s : State), ∃ (p : HPort), ∃ (i : Fin 4), (s.dev.decoder p.val i.val).committed = false) ∧
    (∃ (s : State), ∃ (p : HPort), ∃ (a : Nat), ∃ (f : ReadFault), ∃ (v : Nat), ∃ (va : Nat), ∃ (r : Bool), ∃ (wr : Bool), ∃ reached, reached = (meetSpan (hubEng v) v (parts va 64) f ((work s).on (useXlt (hubEng v) v [(va, 64)]))) ∧ ∃ bs, (s.dev.link p.val).cxl = true ∧ windowAt s.dev p.val (lineOf a) = some (v, va, r, wr) ∧ r = true ∧ checkAs (hubEng v) s.dev v needR (parts va 64) = none ∧ readAs (hubEng v) reached v needR va 64 = .ok bs) ∧
    (∃ (s : State), ∃ (p : HPort), ∃ (a : Nat), ∃ (f : ReadFault), ∃ (v : Nat), ∃ (va : Nat), ∃ (r : Bool), ∃ (wr : Bool), ∃ reached, reached = (meetSpan (hubEng v) v (parts va 64) f ((work s).on (useXlt (hubEng v) v [(va, 64)]))) ∧ ∃ e, (s.dev.link p.val).cxl = true ∧ windowAt s.dev p.val (lineOf a) = some (v, va, r, wr) ∧ r = true ∧ checkAs (hubEng v) s.dev v needR (parts va 64) = none ∧ readAs (hubEng v) reached v needR va 64 = .error e) ∧
    (∃ (s : State), ∃ (p : HPort), ∃ (a : Nat), ∃ (v : Nat), ∃ (va : Nat), ∃ (r : Bool), ∃ (wr : Bool), ∃ e, (s.dev.link p.val).cxl = true ∧ windowAt s.dev p.val (lineOf a) = some (v, va, r, wr) ∧ r = true ∧ checkAs (hubEng v) s.dev v needR (parts va 64) = some e) ∧
    (∃ (s : State), ∃ (p : HPort), ∃ (a : Nat), ∃ (v : Nat), ∃ (va : Nat), ∃ (r : Bool), ∃ (wr : Bool), (s.dev.link p.val).cxl = true ∧ windowAt s.dev p.val (lineOf a) = some (v, va, r, wr) ∧ r = false) ∧
    (∃ (s : State), ∃ (p : HPort), ∃ (a : Nat), ∃ (line : List Byte), ∃ (v : Nat), ∃ (va : Nat), ∃ (r : Bool), ∃ (wr : Bool), ∃ blocked, blocked = ((checkAs (hubEng v) s.dev v needW (parts va 64)).orElse fun _ => partPoison s.dev v (parts va 64)) ∧ (s.dev.link p.val).cxl = true ∧ windowAt s.dev p.val (lineOf a) = some (v, va, r, wr) ∧ line.length = 64 ∧ wr = true ∧ blocked = none) ∧
    (∃ (s : State), ∃ (p : HPort), ∃ (a : Nat), ∃ (line : List Byte), ∃ (v : Nat), ∃ (va : Nat), ∃ (r : Bool), ∃ (wr : Bool), ∃ blocked, blocked = ((checkAs (hubEng v) s.dev v needW (parts va 64)).orElse fun _ => partPoison s.dev v (parts va 64)) ∧ ∃ e, (s.dev.link p.val).cxl = true ∧ windowAt s.dev p.val (lineOf a) = some (v, va, r, wr) ∧ line.length = 64 ∧ wr = true ∧ blocked = some e) ∧
    (∃ (s : State), ∃ (p : HPort), ∃ (a : Nat), ∃ (v : Nat), ∃ (va : Nat), ∃ (r : Bool), ∃ (wr : Bool), (s.dev.link p.val).cxl = true ∧ windowAt s.dev p.val (lineOf a) = some (v, va, r, wr) ∧ wr = false) ∧
    (∃ (s : State), ∃ (p : HPort), ∃ (a : Nat), (s.dev.link p.val).cxl = true ∧ windowAt s.dev p.val (lineOf a) = none) ∧
    (∃ (s : State), ∃ (p : HPort), (s.dev.link p.val).cxl = false) ∧
    (∃ (y : Why), (y = .poison ∨ y = .erased)) ∧
    (∃ (s : State), ∃ (v : VDev), ∃ (off : Nat), ∃ (n : Nat), ∃ (ide : Option Nat), ∃ (f : ReadFault), ∃ va, va = ((s.dev.fn v.val).hwbase.toNat + off) ∧ ∃ e, e = (hubEng v.val) ∧ ∃ reached, reached = (meetSpan e v.val (parts va n) f ((work s).on (useXlt e v.val [(va, n)]))) ∧ ∃ bs, s.dev.barTakes v.val ide = true ∧ off + n ≤ windowBytes ∧ checkAs e s.dev v.val needR (parts va n) = none ∧ readAs e reached v.val needR va n = .ok bs) ∧
    (∃ (s : State), ∃ (v : VDev), ∃ (off : Nat), ∃ (n : Nat), ∃ (ide : Option Nat), ∃ (f : ReadFault), ∃ va, va = ((s.dev.fn v.val).hwbase.toNat + off) ∧ ∃ e, e = (hubEng v.val) ∧ ∃ reached, reached = (meetSpan e v.val (parts va n) f ((work s).on (useXlt e v.val [(va, n)]))) ∧ ∃ x, s.dev.barTakes v.val ide = true ∧ off + n ≤ windowBytes ∧ checkAs e s.dev v.val needR (parts va n) = none ∧ readAs e reached v.val needR va n = .error x) ∧
    (∃ (s : State), ∃ (v : VDev), ∃ (off : Nat), ∃ (n : Nat), ∃ (ide : Option Nat), ∃ va, va = ((s.dev.fn v.val).hwbase.toNat + off) ∧ ∃ e, e = (hubEng v.val) ∧ ∃ x, s.dev.barTakes v.val ide = true ∧ off + n ≤ windowBytes ∧ checkAs e s.dev v.val needR (parts va n) = some x) ∧
    (∃ (s : State), ∃ (v : VDev), ∃ (off : Nat), ∃ (ide : Option Nat), ∃ (bs : List Byte), ∃ va, va = ((s.dev.fn v.val).hwbase.toNat + off) ∧ ∃ e, e = (hubEng v.val) ∧ ∃ blocked, blocked = ((checkAs e s.dev v.val needW (parts va bs.length)).orElse fun _ => partPoison s.dev v.val (parts va bs.length)) ∧ s.dev.barTakes v.val ide = true ∧ off + bs.length ≤ windowBytes ∧ blocked = none) ∧
    (∃ (s : State), ∃ (v : VDev), ∃ (off : Nat), ∃ (ide : Option Nat), ∃ (bs : List Byte), ∃ va, va = ((s.dev.fn v.val).hwbase.toNat + off) ∧ ∃ e, e = (hubEng v.val) ∧ ∃ blocked, blocked = ((checkAs e s.dev v.val needW (parts va bs.length)).orElse fun _ => partPoison s.dev v.val (parts va bs.length)) ∧ ∃ x, s.dev.barTakes v.val ide = true ∧ off + bs.length ≤ windowBytes ∧ blocked = some x) ∧
    (∃ (s : State), ∃ (v : VDev), ∃ (off : BarAt), s.dev.barTakes v.val off.ide = false) :=
  ⟨⟨st (ask (hDev true (none) (vd0)) 256 0x0310 0 (natLe 1 3 ++ natLe 1 3 ++ natLe 1 255 ++ natLe 1 3 ++ natLe 8 65536) 0), 0, slotBytes 0x0310 0 (natLe 1 3 ++ natLe 1 3 ++ natLe 1 255 ++ natLe 1 3 ++ natLe 8 65536) 0, _, rfl, _, rfl, accepted_of (by decide +kernel), by decide +kernel⟩,
   ⟨st (ask (hDev true (some (0, 0, true, true)) (vd0)) 256 0x0311 0 (natLe 1 3 ++ natLe 1 3) 0), 0, slotBytes 0x0311 0 (natLe 1 3 ++ natLe 1 3) 0, _, rfl, accepted_of (by decide +kernel), by decide +kernel⟩,
   ⟨st (hDev true (none) (vd0)), 3, 0, 268435456, by decide +kernel⟩,
   ⟨st (hDev true (none) (vd0)), 3, 3, 268435456, by decide +kernel⟩,
   ⟨State.reset, 0, 0, by decide +kernel⟩,
   ⟨0, by decide +kernel⟩,
   ⟨State.reset, 0, 0, by decide +kernel⟩,
   ⟨st (hDev true (some (0, 0, true, true)) (vd0)), 3, 4294967296, .good, ((pFst (pSome (some (windowAt (st (hDev true (some (0, 0, true, true)) (vd0)) : State).dev (3 : HPort).val (lineOf (4294967296 : Nat))))))).get (by decide +kernel), ((pFst (pSnd (pSome (some (windowAt (st (hDev true (some (0, 0, true, true)) (vd0)) : State).dev (3 : HPort).val (lineOf (4294967296 : Nat)))))))).get (by decide +kernel), ((pFst (pSnd (pSnd (pSome (some (windowAt (st (hDev true (some (0, 0, true, true)) (vd0)) : State).dev (3 : HPort).val (lineOf (4294967296 : Nat))))))))).get (by decide +kernel), ((pSnd (pSnd (pSnd (pSome (some (windowAt (st (hDev true (some (0, 0, true, true)) (vd0)) : State).dev (3 : HPort).val (lineOf (4294967296 : Nat))))))))).get (by decide +kernel), _, rfl, ((pOk (some (readAs (hubEng (((pFst (pSome (some (windowAt (st (hDev true (some (0, 0, true, true)) (vd0)) : State).dev (3 : HPort).val (lineOf (4294967296 : Nat))))))).get (by decide +kernel))) (meetSpan (hubEng (((pFst (pSome (some (windowAt (st (hDev true (some (0, 0, true, true)) (vd0)) : State).dev (3 : HPort).val (lineOf (4294967296 : Nat))))))).get (by decide +kernel))) (((pFst (pSome (some (windowAt (st (hDev true (some (0, 0, true, true)) (vd0)) : State).dev (3 : HPort).val (lineOf (4294967296 : Nat))))))).get (by decide +kernel)) (parts (((pFst (pSnd (pSome (some (windowAt (st (hDev true (some (0, 0, true, true)) (vd0)) : State).dev (3 : HPort).val (lineOf (4294967296 : Nat)))))))).get (by decide +kernel)) 64) (.good : ReadFault) ((work (st (hDev true (some (0, 0, true, true)) (vd0)) : State)).on (useXlt (hubEng (((pFst (pSome (some (windowAt (st (hDev true (some (0, 0, true, true)) (vd0)) : State).dev (3 : HPort).val (lineOf (4294967296 : Nat))))))).get (by decide +kernel))) (((pFst (pSome (some (windowAt (st (hDev true (some (0, 0, true, true)) (vd0)) : State).dev (3 : HPort).val (lineOf (4294967296 : Nat))))))).get (by decide +kernel)) [((((pFst (pSnd (pSome (some (windowAt (st (hDev true (some (0, 0, true, true)) (vd0)) : State).dev (3 : HPort).val (lineOf (4294967296 : Nat)))))))).get (by decide +kernel)), 64)]))) (((pFst (pSome (some (windowAt (st (hDev true (some (0, 0, true, true)) (vd0)) : State).dev (3 : HPort).val (lineOf (4294967296 : Nat))))))).get (by decide +kernel)) needR (((pFst (pSnd (pSome (some (windowAt (st (hDev true (some (0, 0, true, true)) (vd0)) : State).dev (3 : HPort).val (lineOf (4294967296 : Nat)))))))).get (by decide +kernel)) 64)))).get (by decide +kernel), by decide +kernel, by decide +kernel, by decide +kernel, by decide +kernel, ex_eq (by decide +kernel)⟩,
   ⟨st ((hDev true (some (0, 0, true, true)) vd0).onChan 0 fun c => { c with poison := [0] }), 3, 4294967296, .good, ((pFst (pSome (some (windowAt (st ((hDev true (some (0, 0, true, true)) vd0).onChan 0 fun c => { c with poison := [0] }) : State).dev (3 : HPort).val (lineOf (4294967296 : Nat))))))).get (by decide +kernel), ((pFst (pSnd (pSome (some (windowAt (st ((hDev true (some (0, 0, true, true)) vd0).onChan 0 fun c => { c with poison := [0] }) : State).dev (3 : HPort).val (lineOf (4294967296 : Nat)))))))).get (by decide +kernel), ((pFst (pSnd (pSnd (pSome (some (windowAt (st ((hDev true (some (0, 0, true, true)) vd0).onChan 0 fun c => { c with poison := [0] }) : State).dev (3 : HPort).val (lineOf (4294967296 : Nat))))))))).get (by decide +kernel), ((pSnd (pSnd (pSnd (pSome (some (windowAt (st ((hDev true (some (0, 0, true, true)) vd0).onChan 0 fun c => { c with poison := [0] }) : State).dev (3 : HPort).val (lineOf (4294967296 : Nat))))))))).get (by decide +kernel), _, rfl, ((pErr (some (readAs (hubEng (((pFst (pSome (some (windowAt (st ((hDev true (some (0, 0, true, true)) vd0).onChan 0 fun c => { c with poison := [0] }) : State).dev (3 : HPort).val (lineOf (4294967296 : Nat))))))).get (by decide +kernel))) (meetSpan (hubEng (((pFst (pSome (some (windowAt (st ((hDev true (some (0, 0, true, true)) vd0).onChan 0 fun c => { c with poison := [0] }) : State).dev (3 : HPort).val (lineOf (4294967296 : Nat))))))).get (by decide +kernel))) (((pFst (pSome (some (windowAt (st ((hDev true (some (0, 0, true, true)) vd0).onChan 0 fun c => { c with poison := [0] }) : State).dev (3 : HPort).val (lineOf (4294967296 : Nat))))))).get (by decide +kernel)) (parts (((pFst (pSnd (pSome (some (windowAt (st ((hDev true (some (0, 0, true, true)) vd0).onChan 0 fun c => { c with poison := [0] }) : State).dev (3 : HPort).val (lineOf (4294967296 : Nat)))))))).get (by decide +kernel)) 64) (.good : ReadFault) ((work (st ((hDev true (some (0, 0, true, true)) vd0).onChan 0 fun c => { c with poison := [0] }) : State)).on (useXlt (hubEng (((pFst (pSome (some (windowAt (st ((hDev true (some (0, 0, true, true)) vd0).onChan 0 fun c => { c with poison := [0] }) : State).dev (3 : HPort).val (lineOf (4294967296 : Nat))))))).get (by decide +kernel))) (((pFst (pSome (some (windowAt (st ((hDev true (some (0, 0, true, true)) vd0).onChan 0 fun c => { c with poison := [0] }) : State).dev (3 : HPort).val (lineOf (4294967296 : Nat))))))).get (by decide +kernel)) [((((pFst (pSnd (pSome (some (windowAt (st ((hDev true (some (0, 0, true, true)) vd0).onChan 0 fun c => { c with poison := [0] }) : State).dev (3 : HPort).val (lineOf (4294967296 : Nat)))))))).get (by decide +kernel)), 64)]))) (((pFst (pSome (some (windowAt (st ((hDev true (some (0, 0, true, true)) vd0).onChan 0 fun c => { c with poison := [0] }) : State).dev (3 : HPort).val (lineOf (4294967296 : Nat))))))).get (by decide +kernel)) needR (((pFst (pSnd (pSome (some (windowAt (st ((hDev true (some (0, 0, true, true)) vd0).onChan 0 fun c => { c with poison := [0] }) : State).dev (3 : HPort).val (lineOf (4294967296 : Nat)))))))).get (by decide +kernel)) 64)))).get (by decide +kernel), by decide +kernel, by decide +kernel, by decide +kernel, by decide +kernel, ex_eq (by decide +kernel)⟩,
   ⟨st (hDev true (some (0, 0, true, true)) ({ vd0 with table := [] })), 3, 4294967296, ((pFst (pSome (some (windowAt (st (hDev true (some (0, 0, true, true)) ({ vd0 with table := [] })) : State).dev (3 : HPort).val (lineOf (4294967296 : Nat))))))).get (by decide +kernel), ((pFst (pSnd (pSome (some (windowAt (st (hDev true (some (0, 0, true, true)) ({ vd0 with table := [] })) : State).dev (3 : HPort).val (lineOf (4294967296 : Nat)))))))).get (by decide +kernel), ((pFst (pSnd (pSnd (pSome (some (windowAt (st (hDev true (some (0, 0, true, true)) ({ vd0 with table := [] })) : State).dev (3 : HPort).val (lineOf (4294967296 : Nat))))))))).get (by decide +kernel), ((pSnd (pSnd (pSnd (pSome (some (windowAt (st (hDev true (some (0, 0, true, true)) ({ vd0 with table := [] })) : State).dev (3 : HPort).val (lineOf (4294967296 : Nat))))))))).get (by decide +kernel), ((pSome (some (checkAs (hubEng (((pFst (pSome (some (windowAt (st (hDev true (some (0, 0, true, true)) ({ vd0 with table := [] })) : State).dev (3 : HPort).val (lineOf (4294967296 : Nat))))))).get (by decide +kernel))) (st (hDev true (some (0, 0, true, true)) ({ vd0 with table := [] })) : State).dev (((pFst (pSome (some (windowAt (st (hDev true (some (0, 0, true, true)) ({ vd0 with table := [] })) : State).dev (3 : HPort).val (lineOf (4294967296 : Nat))))))).get (by decide +kernel)) needR (parts (((pFst (pSnd (pSome (some (windowAt (st (hDev true (some (0, 0, true, true)) ({ vd0 with table := [] })) : State).dev (3 : HPort).val (lineOf (4294967296 : Nat)))))))).get (by decide +kernel)) 64))))).get (by decide +kernel), by decide +kernel⟩,
   ⟨st (hDev true (some (0, 0, false, true)) (vd0)), 3, 4294967296, ((pFst (pSome (some (windowAt (st (hDev true (some (0, 0, false, true)) (vd0)) : State).dev (3 : HPort).val (lineOf (4294967296 : Nat))))))).get (by decide +kernel), ((pFst (pSnd (pSome (some (windowAt (st (hDev true (some (0, 0, false, true)) (vd0)) : State).dev (3 : HPort).val (lineOf (4294967296 : Nat)))))))).get (by decide +kernel), ((pFst (pSnd (pSnd (pSome (some (windowAt (st (hDev true (some (0, 0, false, true)) (vd0)) : State).dev (3 : HPort).val (lineOf (4294967296 : Nat))))))))).get (by decide +kernel), ((pSnd (pSnd (pSnd (pSome (some (windowAt (st (hDev true (some (0, 0, false, true)) (vd0)) : State).dev (3 : HPort).val (lineOf (4294967296 : Nat))))))))).get (by decide +kernel), by decide +kernel⟩,
   ⟨st (hDev true (some (0, 0, true, true)) (vd0)), 3, 4294967296, List.replicate 64 0, ((pFst (pSome (some (windowAt (st (hDev true (some (0, 0, true, true)) (vd0)) : State).dev (3 : HPort).val (lineOf (4294967296 : Nat))))))).get (by decide +kernel), ((pFst (pSnd (pSome (some (windowAt (st (hDev true (some (0, 0, true, true)) (vd0)) : State).dev (3 : HPort).val (lineOf (4294967296 : Nat)))))))).get (by decide +kernel), ((pFst (pSnd (pSnd (pSome (some (windowAt (st (hDev true (some (0, 0, true, true)) (vd0)) : State).dev (3 : HPort).val (lineOf (4294967296 : Nat))))))))).get (by decide +kernel), ((pSnd (pSnd (pSnd (pSome (some (windowAt (st (hDev true (some (0, 0, true, true)) (vd0)) : State).dev (3 : HPort).val (lineOf (4294967296 : Nat))))))))).get (by decide +kernel), _, rfl, by decide +kernel⟩,
   ⟨st (hDev true (some (0, 0, true, true)) ({ vd0 with table := [] })), 3, 4294967296, List.replicate 64 0, ((pFst (pSome (some (windowAt (st (hDev true (some (0, 0, true, true)) ({ vd0 with table := [] })) : State).dev (3 : HPort).val (lineOf (4294967296 : Nat))))))).get (by decide +kernel), ((pFst (pSnd (pSome (some (windowAt (st (hDev true (some (0, 0, true, true)) ({ vd0 with table := [] })) : State).dev (3 : HPort).val (lineOf (4294967296 : Nat)))))))).get (by decide +kernel), ((pFst (pSnd (pSnd (pSome (some (windowAt (st (hDev true (some (0, 0, true, true)) ({ vd0 with table := [] })) : State).dev (3 : HPort).val (lineOf (4294967296 : Nat))))))))).get (by decide +kernel), ((pSnd (pSnd (pSnd (pSome (some (windowAt (st (hDev true (some (0, 0, true, true)) ({ vd0 with table := [] })) : State).dev (3 : HPort).val (lineOf (4294967296 : Nat))))))))).get (by decide +kernel), _, rfl, ((pSome (some (((checkAs (hubEng (((pFst (pSome (some (windowAt (st (hDev true (some (0, 0, true, true)) ({ vd0 with table := [] })) : State).dev (3 : HPort).val (lineOf (4294967296 : Nat))))))).get (by decide +kernel))) (st (hDev true (some (0, 0, true, true)) ({ vd0 with table := [] })) : State).dev (((pFst (pSome (some (windowAt (st (hDev true (some (0, 0, true, true)) ({ vd0 with table := [] })) : State).dev (3 : HPort).val (lineOf (4294967296 : Nat))))))).get (by decide +kernel)) needW (parts (((pFst (pSnd (pSome (some (windowAt (st (hDev true (some (0, 0, true, true)) ({ vd0 with table := [] })) : State).dev (3 : HPort).val (lineOf (4294967296 : Nat)))))))).get (by decide +kernel)) 64)).orElse fun _ => partPoison (st (hDev true (some (0, 0, true, true)) ({ vd0 with table := [] })) : State).dev (((pFst (pSome (some (windowAt (st (hDev true (some (0, 0, true, true)) ({ vd0 with table := [] })) : State).dev (3 : HPort).val (lineOf (4294967296 : Nat))))))).get (by decide +kernel)) (parts (((pFst (pSnd (pSome (some (windowAt (st (hDev true (some (0, 0, true, true)) ({ vd0 with table := [] })) : State).dev (3 : HPort).val (lineOf (4294967296 : Nat)))))))).get (by decide +kernel)) 64)))))).get (by decide +kernel), by decide +kernel⟩,
   ⟨st (hDev true (some (0, 0, true, false)) (vd0)), 3, 4294967296, ((pFst (pSome (some (windowAt (st (hDev true (some (0, 0, true, false)) (vd0)) : State).dev (3 : HPort).val (lineOf (4294967296 : Nat))))))).get (by decide +kernel), ((pFst (pSnd (pSome (some (windowAt (st (hDev true (some (0, 0, true, false)) (vd0)) : State).dev (3 : HPort).val (lineOf (4294967296 : Nat)))))))).get (by decide +kernel), ((pFst (pSnd (pSnd (pSome (some (windowAt (st (hDev true (some (0, 0, true, false)) (vd0)) : State).dev (3 : HPort).val (lineOf (4294967296 : Nat))))))))).get (by decide +kernel), ((pSnd (pSnd (pSnd (pSome (some (windowAt (st (hDev true (some (0, 0, true, false)) (vd0)) : State).dev (3 : HPort).val (lineOf (4294967296 : Nat))))))))).get (by decide +kernel), by decide +kernel⟩,
   ⟨st (hDev true (some (0, 0, true, true)) (vd0)), 3, 0, by decide +kernel⟩,
   ⟨State.reset, 0, by decide +kernel⟩,
   ⟨.poison, by decide +kernel⟩,
   ⟨st (vfD vd0), 0, 0, 0, none, .good, _, rfl, _, rfl, _, rfl, ((pOk (some (readAs (hubEng (0 : VDev).val) (meetSpan (hubEng (0 : VDev).val) (0 : VDev).val (parts (((st (vfD vd0) : State).dev.fn (0 : VDev).val).hwbase.toNat + (0 : Nat)) (0 : Nat)) (.good : ReadFault) ((work (st (vfD vd0) : State)).on (useXlt (hubEng (0 : VDev).val) (0 : VDev).val [((((st (vfD vd0) : State).dev.fn (0 : VDev).val).hwbase.toNat + (0 : Nat)), (0 : Nat))]))) (0 : VDev).val needR (((st (vfD vd0) : State).dev.fn (0 : VDev).val).hwbase.toNat + (0 : Nat)) (0 : Nat))))).get (by decide +kernel), by decide +kernel, by decide +kernel, by decide +kernel, ex_eq (by decide +kernel)⟩,
   ⟨st ((vfD vd0).onChan 0 fun c => { c with poison := [0] }), 0, 0, 8, none, .good, _, rfl, _, rfl, _, rfl, ((pErr (some (readAs (hubEng (0 : VDev).val) (meetSpan (hubEng (0 : VDev).val) (0 : VDev).val (parts (((st ((vfD vd0).onChan 0 fun c => { c with poison := [0] }) : State).dev.fn (0 : VDev).val).hwbase.toNat + (0 : Nat)) (8 : Nat)) (.good : ReadFault) ((work (st ((vfD vd0).onChan 0 fun c => { c with poison := [0] }) : State)).on (useXlt (hubEng (0 : VDev).val) (0 : VDev).val [((((st ((vfD vd0).onChan 0 fun c => { c with poison := [0] }) : State).dev.fn (0 : VDev).val).hwbase.toNat + (0 : Nat)), (8 : Nat))]))) (0 : VDev).val needR (((st ((vfD vd0).onChan 0 fun c => { c with poison := [0] }) : State).dev.fn (0 : VDev).val).hwbase.toNat + (0 : Nat)) (8 : Nat))))).get (by decide +kernel), by decide +kernel, by decide +kernel, by decide +kernel, ex_eq (by decide +kernel)⟩,
   ⟨st (vfD { vd0 with table := [] }), 0, 0, 8, none, _, rfl, _, rfl, ((pSome (some (checkAs (hubEng (0 : VDev).val) (st (vfD { vd0 with table := [] }) : State).dev (0 : VDev).val needR (parts (((st (vfD { vd0 with table := [] }) : State).dev.fn (0 : VDev).val).hwbase.toNat + (0 : Nat)) (8 : Nat)))))).get (by decide +kernel), by decide +kernel⟩,
   ⟨st (vfD { vd0 with table := [] }), 0, 0, none, [], _, rfl, _, rfl, _, rfl, by decide +kernel⟩,
   ⟨st (vfD { vd0 with table := [] }), 0, 0, none, [1], _, rfl, _, rfl, _, rfl, ((pSome (some (((checkAs (hubEng (0 : VDev).val) (st (vfD { vd0 with table := [] }) : State).dev (0 : VDev).val needW (parts (((st (vfD { vd0 with table := [] }) : State).dev.fn (0 : VDev).val).hwbase.toNat + (0 : Nat)) ([1] : List Byte).length)).orElse fun _ => partPoison (st (vfD { vd0 with table := [] }) : State).dev (0 : VDev).val (parts (((st (vfD { vd0 with table := [] }) : State).dev.fn (0 : VDev).val).hwbase.toNat + (0 : Nat)) ([1] : List Byte).length)))))).get (by decide +kernel), by decide +kernel⟩,
   ⟨State.reset, 0, ⟨0, none⟩, by decide +kernel⟩⟩

/-- Witnesses for PowerAllocation. -/
theorem wit_PowerAllocation :
    (∃ (w : BitVec 32), w.getLsbD 0 = false) ∧
    (∃ (s : State), ∃ (w : BitVec 32), w.getLsbD 0 = true ∧ s.dev.pmUp = true ∧ s.dev.pwr.subs = [] ∧ s.dev.pwr.pend.ok = true) ∧
    (∃ (s : State), ∃ (w : BitVec 32), w.getLsbD 0 = true ∧ s.dev.pmUp = true ∧ s.dev.pwr.subs = [] ∧ s.dev.pwr.pend.ok = false) ∧
    (∃ (s : State), ∃ (w : BitVec 32), w.getLsbD 0 = true ∧ s.dev.pmUp = false) ∧
    (∃ (s : State), s.dev.pmUp = false) ∧
    (∃ (s : State), ∃ (c : Cluster), Tab.get? s.dev.pwr.request c.val = none) ∧
    (∃ (s : State), ∃ (c : Cluster), ∃ (mv : Nat), Tab.get? s.dev.pwr.request c.val = some mv) ∧
    (∃ (s : State), s.dev.pmUp = true) ∧
    (∃ (s : State), s.dev.pmUp = true ∧ s.dev.pwr.keys.length ≤ 4096) :=
  ⟨⟨0, by decide +kernel⟩,
   ⟨st { upDev with pwr := { (upDev).pwr with pend := ⟨2800, 1500, 14400, 600, 2100, 300, 500, 500, 1⟩ } }, 1, by decide +kernel⟩,
   ⟨st { upDev with pwr := { (upDev).pwr with pend := ⟨2799, 1500, 14400, 600, 2100, 300, 500, 500, 1⟩ } }, 1, by decide +kernel⟩,
   ⟨State.reset, 1, by decide +kernel⟩,
   ⟨State.reset, by decide +kernel⟩,
   ⟨State.reset, 0, by decide +kernel⟩,
   ⟨st { upDev with pwr := { (upDev).pwr with request := [(31, 700)] } }, 31, ((pSome (some (Tab.get? (st { upDev with pwr := { (upDev).pwr with request := [(31, 700)] } } : State).dev.pwr.request (31 : Cluster).val)))).get (by decide +kernel), by decide +kernel⟩,
   ⟨st upDev, by decide +kernel⟩,
   ⟨st upDev, by decide +kernel⟩⟩

/-- Witnesses for SafetyAndIdleStates. -/
theorem wit_SafetyAndIdleStates :
    (∃ (s : State), s.dev.pmUp = true) ∧
    (∃ (s : State), s.dev.pmUp = false) ∧
    (∃ (s : State), ∃ (t : ThermDie), ∃ old, old = (s.dev.therm (thermNum t)) ∧ old.throttled = false) ∧
    (∃ (t : ThermDie), ∃ (x : Int), x < (thermLimits t).2.2.1) ∧
    (∃ (s : State), ∃ (t : ThermDie), ∃ (x : Int), ∃ old, old = (s.dev.therm (thermNum t)) ∧ (thermLimits t).2.1 ≤ x ∧ old.throttled = false) ∧
    (∃ (t : ThermDie), ∃ (x : Int), x < (thermLimits t).2.1) ∧
    (∃ (s : State), ∃ (t : ThermDie), ∃ (x : Int), ∃ old, old = (s.dev.therm (thermNum t)) ∧ old.throttled = true ∧ x ≤ (thermLimits t).1 - 30) ∧
    (∃ (s : State), ∃ (t : ThermDie), ∃ (x : Int), ∃ old, old = (s.dev.therm (thermNum t)) ∧ old.throttled = true ∧ (thermLimits t).1 - 30 < x ∧ x ≤ (thermLimits t).1) ∧
    (∃ (s : State), ∃ (t : ThermDie), ∃ (x : Int), ∃ old, old = (s.dev.therm (thermNum t)) ∧ old.throttled = true ∧ (thermLimits t).1 < x) ∧
    (∃ (t : ThermDie), ∃ (x : Int), (thermLimits t).2.2.1 ≤ x) ∧
    (∃ (s : State), ∃ (n : CoreId), s.dev.coreIdle n.val = true) ∧
    (∃ (s : State), ∃ (n : CoreId), s.dev.coreIdle n.val = false) ∧
    (∃ (s : State), ∃ (c : Chan), ∃ allowed, allowed = (bitAt s.dev.pwr.bounds.idle.toNat 2 && (s.dev.chan c.val).state == .inService && !s.dev.channelBusy c.val && !s.dev.channelWanted c.val) ∧ allowed = true) ∧
    (∃ (s : State), ∃ (c : Chan), ∃ allowed, allowed = (bitAt s.dev.pwr.bounds.idle.toNat 2 && (s.dev.chan c.val).state == .inService && !s.dev.channelBusy c.val && !s.dev.channelWanted c.val) ∧ allowed = false) :=
  ⟨⟨st upDev, by decide +kernel⟩,
   ⟨State.reset, by decide +kernel⟩,
   ⟨State.reset, .cx 0, _, rfl, by decide +kernel⟩,
   ⟨.cx 0, 0, by decide +kernel⟩,
   ⟨State.reset, .cx 0, 950, _, rfl, by decide +kernel⟩,
   ⟨.cx 0, 0, by decide +kernel⟩,
   ⟨st { upDev with pwr := { (upDev).pwr with therm := [(0, ⟨none, true, false, 0⟩), (1, ⟨none, true, false, 0⟩), (16, ⟨none, true, false, 0⟩)] } }, .cx 0, 870, _, rfl, by decide +kernel⟩,
   ⟨st { upDev with pwr := { (upDev).pwr with therm := [(0, ⟨none, true, false, 0⟩), (1, ⟨none, true, false, 0⟩), (16, ⟨none, true, false, 0⟩)] } }, .cx 0, 900, _, rfl, by decide +kernel⟩,
   ⟨st { upDev with pwr := { (upDev).pwr with therm := [(0, ⟨none, true, false, 0⟩), (1, ⟨none, true, false, 0⟩), (16, ⟨none, true, false, 0⟩)] } }, .cx 0, 901, _, rfl, by decide +kernel⟩,
   ⟨.cx 0, 1050, by decide +kernel⟩,
   ⟨st (vfD vd0), 0, by decide +kernel⟩,
   ⟨State.reset, 0, by decide +kernel⟩,
   ⟨st (vfD vd0), 0, _, rfl, by decide +kernel⟩,
   ⟨State.reset, 0, _, rfl, by decide +kernel⟩⟩

/-- Witnesses for Recovery. -/
theorem wit_Recovery :
    (∃ (s : State), (s.dev.clk.powered = false ∨ s.dev.sec.level = 3)) ∧
    (∃ (s : State), s.dev.clk.powered = true ∧ s.dev.sec.level ≠ 3 ∧ (∀ t, t ∈ s.dev.boot.resets → within s.dev.clk.hlc0 t 600000000 = false)) ∧
    (∃ (s : State), s.dev.clk.powered = true ∧ s.dev.sec.level ≠ 3 ∧ (∃ t, t ∈ s.dev.boot.resets ∧ within s.dev.clk.hlc0 t 600000000 = true)) ∧
    (∃ (s : State), s.mem.wf = true) ∧
    (∃ (s : State), ∃ (e : Engine), suspectsOf s.dev e = []) ∧
    (∃ (s : State), ∃ (e : Engine), ∃ (a : Suspect), ∃ (l : List Suspect), suspectsOf s.dev e = a :: l ∧ s.dev.dredges = []) ∧
    (∃ (s : State), ∃ (e : Engine), ∃ (r : Dredge), r ∈ s.dev.dredges ∧ r.engine = e) ∧
    (∃ (s : State), ∃ (e : Engine), ∃ (r : Dredge), ((s.dev.dredges.find? fun r => r.engine == e) = some r) ∧ r.alone = none) ∧
    (∃ (s : State), ∃ (e : Engine), ∃ (r : Dredge), ∃ (a : Suspect), ((s.dev.dredges.find? fun r => r.engine == e) = some r) ∧ r.alone = some a ∧ s.dev.suspect? a = none) ∧
    (∃ (s : State), ∃ (e : Engine), ∃ (r : Dredge), ∃ (a : Suspect), ∃ c, ((s.dev.dredges.find? fun r => r.engine == e) = some r) ∧ r.alone = some a ∧ s.dev.suspect? a = some c ∧ c.attempting = false) ∧
    (∃ (s : State), ∃ (e : Engine), ∃ (r : Dredge), ∃ (a : Suspect), ∃ c, ((s.dev.dredges.find? fun r => r.engine == e) = some r) ∧ r.alone = some a ∧ s.dev.suspect? a = some c ∧ c.phase = .running ∧ c.failOut = none) ∧
    (∃ (s : State), ∃ (e : Engine), (∀ r, r ∈ s.dev.dredges → r.engine ≠ e)) ∧
    (∃ (s : State), ∃ (e : Engine), ∃ (r : Dredge), ∃ (a : Suspect), ∃ x, ∃ l, ((s.dev.dredges.find? fun r => r.engine == e) = some r) ∧ r.alone = some a ∧ r.second = none ∧ s.dev.suspect? a = none ∧ r.waiting = x :: l ∧ (s.dev.suspect? x).isSome = true) ∧
    (∃ (s : State), ∃ (e : Engine), ∃ (r : Dredge), ∃ (a : Suspect), ((s.dev.dredges.find? fun r => r.engine == e) = some r) ∧ r.alone = some a ∧ r.second = none ∧ s.dev.suspect? a = none ∧ r.waiting = [] ∧ r.guilty = true) ∧
    (∃ (s : State), ∃ (n : CoreId), ∃ (m : CoreId), ∃ (r : Dredge), ∃ (a : Suspect), ∃ (c : Cmd), s.dev.dredges = [r] ∧ r.engine = .core n ∧ r.alone = some a ∧ r.second = none ∧ s.dev.suspect? a = some c ∧ c.attempting = true ∧ otherCore s.dev a n.val = some m.val) :=
  ⟨⟨State.reset, by decide +kernel⟩,
   ⟨st upDev, by decide +kernel, by decide +kernel, by intro t h; cases h⟩,
   ⟨st { upDev with boot := { upDev.boot with resets := [1000] } }, by decide +kernel, by decide +kernel, ⟨1000, List.mem_singleton.mpr rfl, by decide +kernel⟩⟩,
   ⟨State.reset, by decide +kernel⟩,
   ⟨State.reset, .core 0, by decide +kernel⟩,
   ⟨st { (vc ({ cmd 1 0 .running with started := true, cores := [0] })).onCore 0 fun c => { c with busy := some 7 } with dredges := [] }, .core 0, ((pHead (some (suspectsOf (st { (vc ({ cmd 1 0 .running with started := true, cores := [0] })).onCore 0 fun c => { c with busy := some 7 } with dredges := [] } : State).dev (.core 0 : Engine))))).get (by decide +kernel), ((pTail (some (suspectsOf (st { (vc ({ cmd 1 0 .running with started := true, cores := [0] })).onCore 0 fun c => { c with busy := some 7 } with dredges := [] } : State).dev (.core 0 : Engine))))).get (by decide +kernel), by decide +kernel⟩,
   ⟨st { (vc ({ cmd 1 0 .running with started := true, cores := [0] })).onCore 0 fun c => { c with busy := some 7 } with dredges := [⟨.core 0, [], none, 0, none, false⟩] }, .core 0, ((pHead (some ((st { (vc ({ cmd 1 0 .running with started := true, cores := [0] })).onCore 0 fun c => { c with busy := some 7 } with dredges := [⟨.core 0, [], none, 0, none, false⟩] } : State).dev.dredges)))).get (by decide +kernel), by decide +kernel⟩,
   ⟨st { (vc ({ cmd 1 0 .running with started := true, cores := [0] })).onCore 0 fun c => { c with busy := some 7 } with dredges := [⟨.core 0, [], none, 0, none, false⟩] }, .core 0, ((pSome (some (((st { (vc ({ cmd 1 0 .running with started := true, cores := [0] })).onCore 0 fun c => { c with busy := some 7 } with dredges := [⟨.core 0, [], none, 0, none, false⟩] } : State).dev.dredges.find? fun r => r.engine == (.core 0 : Engine)))))).get (by decide +kernel), by decide +kernel⟩,
   ⟨st { upDev with dredges := [⟨.core 0, [], (some (0, 0, 7)), 0, none, false⟩] }, .core 0, ((pSome (some (((st { upDev with dredges := [⟨.core 0, [], (some (0, 0, 7)), 0, none, false⟩] } : State).dev.dredges.find? fun r => r.engine == (.core 0 : Engine)))))).get (by decide +kernel), ((pSome (some ((((pSome (some (((st { upDev with dredges := [⟨.core 0, [], (some (0, 0, 7)), 0, none, false⟩] } : State).dev.dredges.find? fun r => r.engine == (.core 0 : Engine)))))).get (by decide +kernel)).alone)))).get (by decide +kernel), by decide +kernel⟩,
   ⟨st { (vc (cmd 1 0 .running)).onCore 0 fun c => { c with busy := some 7 } with dredges := [⟨.core 0, [], (some (0, 0, 7)), 0, none, false⟩] }, .core 0, ((pSome (some (((st { (vc (cmd 1 0 .running)).onCore 0 fun c => { c with busy := some 7 } with dredges := [⟨.core 0, [], (some (0, 0, 7)), 0, none, false⟩] } : State).dev.dredges.find? fun r => r.engine == (.core 0 : Engine)))))).get (by decide +kernel), ((pSome (some ((((pSome (some (((st { (vc (cmd 1 0 .running)).onCore 0 fun c => { c with busy := some 7 } with dredges := [⟨.core 0, [], (some (0, 0, 7)), 0, none, false⟩] } : State).dev.dredges.find? fun r => r.engine == (.core 0 : Engine)))))).get (by decide +kernel)).alone)))).get (by decide +kernel), ((pSome (some ((st { (vc (cmd 1 0 .running)).onCore 0 fun c => { c with busy := some 7 } with dredges := [⟨.core 0, [], (some (0, 0, 7)), 0, none, false⟩] } : State).dev.suspect? (((pSome (some ((((pSome (some (((st { (vc (cmd 1 0 .running)).onCore 0 fun c => { c with busy := some 7 } with dredges := [⟨.core 0, [], (some (0, 0, 7)), 0, none, false⟩] } : State).dev.dredges.find? fun r => r.engine == (.core 0 : Engine)))))).get (by decide +kernel)).alone)))).get (by decide +kernel)))))).get (by decide +kernel), by decide +kernel⟩,
   ⟨st { (vc ({ cmd 1 0 .running with started := true, cores := [0] })).onCore 0 fun c => { c with busy := some 7 } with dredges := [⟨.core 0, [], (some (0, 0, 7)), 0, none, false⟩] }, .core 0, ((pSome (some (((st { (vc ({ cmd 1 0 .running with started := true, cores := [0] })).onCore 0 fun c => { c with busy := some 7 } with dredges := [⟨.core 0, [], (some (0, 0, 7)), 0, none, false⟩] } : State).dev.dredges.find? fun r => r.engine == (.core 0 : Engine)))))).get (by decide +kernel), ((pSome (some ((((pSome (some (((st { (vc ({ cmd 1 0 .running with started := true, cores := [0] })).onCore 0 fun c => { c with busy := some 7 } with dredges := [⟨.core 0, [], (some (0, 0, 7)), 0, none, false⟩] } : State).dev.dredges.find? fun r => r.engine == (.core 0 : Engine)))))).get (by decide +kernel)).alone)))).get (by decide +kernel), ((pSome (some ((st { (vc ({ cmd 1 0 .running with started := true, cores := [0] })).onCore 0 fun c => { c with busy := some 7 } with dredges := [⟨.core 0, [], (some (0, 0, 7)), 0, none, false⟩] } : State).dev.suspect? (((pSome (some ((((pSome (some (((st { (vc ({ cmd 1 0 .running with started := true, cores := [0] })).onCore 0 fun c => { c with busy := some 7 } with dredges := [⟨.core 0, [], (some (0, 0, 7)), 0, none, false⟩] } : State).dev.dredges.find? fun r => r.engine == (.core 0 : Engine)))))).get (by decide +kernel)).alone)))).get (by decide +kernel)))))).get (by decide +kernel), by decide +kernel⟩,
   ⟨st upDev, .core 0, by intro r h; cases h⟩,
   ⟨st { (vc ({ cmd 1 0 .running with started := true, cores := [0] })).onCore 0 fun c => { c with busy := some 7 } with dredges := [⟨.core 0, [(0, 0, 7)], (some (0, 0, 8)), 0, none, false⟩] }, .core 0, ((pSome (some (((st { (vc ({ cmd 1 0 .running with started := true, cores := [0] })).onCore 0 fun c => { c with busy := some 7 } with dredges := [⟨.core 0, [(0, 0, 7)], (some (0, 0, 8)), 0, none, false⟩] } : State).dev.dredges.find? fun r => r.engine == (.core 0 : Engine)))))).get (by decide +kernel), ((pSome (some ((((pSome (some (((st { (vc ({ cmd 1 0 .running with started := true, cores := [0] })).onCore 0 fun c => { c with busy := some 7 } with dredges := [⟨.core 0, [(0, 0, 7)], (some (0, 0, 8)), 0, none, false⟩] } : State).dev.dredges.find? fun r => r.engine == (.core 0 : Engine)))))).get (by decide +kernel)).alone)))).get (by decide +kernel), ((pHead (some ((((pSome (some (((st { (vc ({ cmd 1 0 .running with started := true, cores := [0] })).onCore 0 fun c => { c with busy := some 7 } with dredges := [⟨.core 0, [(0, 0, 7)], (some (0, 0, 8)), 0, none, false⟩] } : State).dev.dredges.find? fun r => r.engine == (.core 0 : Engine)))))).get (by decide +kernel)).waiting)))).get (by decide +kernel), ((pTail (some ((((pSome (some (((st { (vc ({ cmd 1 0 .running with started := true, cores := [0] })).onCore 0 fun c => { c with busy := some 7 } with dredges := [⟨.core 0, [(0, 0, 7)], (some (0, 0, 8)), 0, none, false⟩] } : State).dev.dredges.find? fun r => r.engine == (.core 0 : Engine)))))).get (by decide +kernel)).waiting)))).get (by decide +kernel), by decide +kernel⟩,
   ⟨st { upDev with dredges := [⟨.core 0, [], (some (0, 0, 7)), 0, none, true⟩] }, .core 0, ((pSome (some (((st { upDev with dredges := [⟨.core 0, [], (some (0, 0, 7)), 0, none, true⟩] } : State).dev.dredges.find? fun r => r.engine == (.core 0 : Engine)))))).get (by decide +kernel), ((pSome (some ((((pSome (some (((st { upDev with dredges := [⟨.core 0, [], (some (0, 0, 7)), 0, none, true⟩] } : State).dev.dredges.find? fun r => r.engine == (.core 0 : Engine)))))).get (by decide +kernel)).alone)))).get (by decide +kernel), by decide +kernel⟩,
   ⟨st { (((vfD { vd0 with queues := [(0, qc { cmd 1 0 .running with started := true })], cores := [0, 2175], parts := [(0, { part0 with cores := [0, 2175] })] }).onCore 0 fun c => { c with busy := some 7 }).onCore 2175 fun c => { c with state := .serviceable }) with dredges := [⟨.core 0, [], (some (0, 0, 7)), 0, none, false⟩] }, 0, 2175, ((pHead (some ((st { (((vfD { vd0 with queues := [(0, qc { cmd 1 0 .running with started := true })], cores := [0, 2175], parts := [(0, { part0 with cores := [0, 2175] })] }).onCore 0 fun c => { c with busy := some 7 }).onCore 2175 fun c => { c with state := .serviceable }) with dredges := [⟨.core 0, [], (some (0, 0, 7)), 0, none, false⟩] } : State).dev.dredges)))).get (by decide +kernel), ((pSome (some ((((pHead (some ((st { (((vfD { vd0 with queues := [(0, qc { cmd 1 0 .running with started := true })], cores := [0, 2175], parts := [(0, { part0 with cores := [0, 2175] })] }).onCore 0 fun c => { c with busy := some 7 }).onCore 2175 fun c => { c with state := .serviceable }) with dredges := [⟨.core 0, [], (some (0, 0, 7)), 0, none, false⟩] } : State).dev.dredges)))).get (by decide +kernel)).alone)))).get (by decide +kernel), ((pSome (some ((st { (((vfD { vd0 with queues := [(0, qc { cmd 1 0 .running with started := true })], cores := [0, 2175], parts := [(0, { part0 with cores := [0, 2175] })] }).onCore 0 fun c => { c with busy := some 7 }).onCore 2175 fun c => { c with state := .serviceable }) with dredges := [⟨.core 0, [], (some (0, 0, 7)), 0, none, false⟩] } : State).dev.suspect? (((pSome (some ((((pHead (some ((st { (((vfD { vd0 with queues := [(0, qc { cmd 1 0 .running with started := true })], cores := [0, 2175], parts := [(0, { part0 with cores := [0, 2175] })] }).onCore 0 fun c => { c with busy := some 7 }).onCore 2175 fun c => { c with state := .serviceable }) with dredges := [⟨.core 0, [], (some (0, 0, 7)), 0, none, false⟩] } : State).dev.dredges)))).get (by decide +kernel)).alone)))).get (by decide +kernel)))))).get (by decide +kernel), by decide +kernel⟩⟩

/-- Witnesses for StartUp. -/
theorem wit_StartUp :
    (∃ (s : State), s.dev.clk.powered = false) ∧
    (∃ (s : State), s.dev.clk.powered = true) ∧
    (∃ (s : State), s.mem.wf = true) ∧
    (∃ (s : State), s.dev.clk.powered = false) ∧
    (∃ (s : State), s.dev.clk.powered = true) ∧
    (∃ (s : State), ∃ (c : Chan), ((s.dev.chan c.val).state = .training ∨ (s.dev.chan c.val).state = .scrubbing) ∧ (s.dev.chan c.val).resume = .unpowered ∧ s.dev.boot.active = true ∧ (s.dev.unit .chan c.val).adminOut = false) ∧
    (∃ (s : State), ∃ (c : Chan), ((s.dev.chan c.val).state = .training ∨ (s.dev.chan c.val).state = .scrubbing) ∧ (s.dev.chan c.val).resume = .unpowered ∧ (s.dev.unit .chan c.val).adminOut = true) ∧
    (∃ (s : State), ∃ (c : Chan), ((s.dev.chan c.val).state = .training ∨ (s.dev.chan c.val).state = .scrubbing) ∧ (s.dev.chan c.val).resume = .unpowered ∧ (s.dev.chan c.val).retrains = 0) ∧
    (∃ (s : State), ∃ (c : Chan), ((s.dev.chan c.val).state = .training ∨ (s.dev.chan c.val).state = .scrubbing) ∧ (s.dev.chan c.val).resume = .unpowered ∧ s.dev.chanOwner c.val = none ∧ (s.dev.chan c.val).retrains ≠ 0) ∧
    (∃ (s : State), ∃ (c : Chan), (s.dev.chan c.val).state = .training ∧ (s.dev.chan c.val).resume = .retiring) ∧
    (∃ (s : State), ∃ (c : Chan), (¬((s.dev.chan c.val).state = .training ∧ (s.dev.chan c.val).resume ∈ [ChState.unpowered, .retiring])) ∧ (¬((s.dev.chan c.val).state = .scrubbing ∧ (s.dev.chan c.val).resume = .unpowered))) ∧
    (∃ (s : State), s.dev.boot.active = true ∧ s.dev.boot.ready = false ∧ s.dev.sec.level ≠ 3) ∧
    (∃ (s : State), (s.dev.boot.active = false ∨ s.dev.boot.ready = true ∨ s.dev.sec.level = 3)) ∧
    (∃ (s : State), s.dev.boot.early = true ∧ 20 ≤ s.dev.boot.calib ∧ (∀ n, n < 2176 → s.dev.settled .core n = true) ∧ (∀ n, n < 1024 → s.dev.settled .chan n = true) ∧ (∀ n, n < 16 → s.dev.settled .port n = true)) ∧
    (∃ (s : State), (s.dev.boot.early = false ∨ s.dev.boot.calib < 20 ∨ (∃ n, n < 2176 ∧ s.dev.settled .core n = false) ∨ (∃ n, n < 1024 ∧ s.dev.settled .chan n = false) ∨ ∃ n, n < 16 ∧ s.dev.settled .port n = false)) ∧
    (∃ (s : State), ∃ (u : BitVec 32), ∃ (n : Nat), unitOf u.toNat = some (.core, n) ∧ s.dev.clk.powered = true ∧ s.dev.boot.ready = false ∧ s.dev.settled .core n = false ∧ s.dev.boundTo .core n = none) ∧
    (∃ (s : State), ∃ (u : BitVec 32), ∃ (n : Nat), s.dev.clk.powered = true ∧ s.dev.boot.ready = false ∧ unitOf u.toNat = some (.chan, n) ∧ s.dev.settled .chan n = false ∧ s.dev.chanOwner n = none ∧ (s.dev.boot.active = true ∨ s.dev.boot.cold = true)) ∧
    (∃ (s : State), ∃ (u : BitVec 32), ∃ (n : Nat), s.dev.clk.powered = true ∧ s.dev.boot.ready = false ∧ unitOf u.toNat = some (.port, n) ∧ s.dev.settled .port n = false) ∧
    (∃ (s : State), ∃ (u : BitVec 32), (unitOf u.toNat = none ∨ s.dev.clk.powered = false ∨ (s.dev.boot.ready = true ∧ s.dev.boot.early = false))) ∧
    (∃ (s : State), ∃ (u : BitVec 32), ∃ (k : UnitKind), ∃ (n : Nat), unitOf u.toNat = some (k, n) ∧ s.dev.settled k n = true ∧ (k = .chan → s.dev.boot.active = true ∨ s.dev.boot.cold = true)) ∧
    (∃ (s : State), ∃ (u : BitVec 32), ∃ (n : Nat), unitOf u.toNat = some (.chan, n) ∧ s.dev.clk.powered = true ∧ s.dev.boot.ready = false ∧ s.dev.boot.active = false ∧ s.dev.boot.cold = false ∧ (expireUnit .chan n s.dev).twoStacksLeft = false) ∧
    (∃ (s : State), s.dev.clk.running = true ∧ (∀ p, p < 16 → (s.dev.port p).trained = false)) ∧
    (∃ (s : State), s.dev.clk.running = false) ∧
    (∃ (s : State), ∃ (r : Nat), ∃ (w : Nat), s.dev.clk.powered = true ∧ hostRates.contains r = true ∧ hostWidths.contains w = true) ∧
    (∃ (s : State), ∃ (r : Nat), ∃ (w : Nat), (s.dev.clk.powered = false ∨ hostRates.contains r = false ∨ hostWidths.contains w = false)) :=
  ⟨⟨State.reset, by decide +kernel⟩,
   ⟨st upDev, by decide +kernel⟩,
   ⟨State.reset, by decide +kernel⟩,
   ⟨State.reset, by decide +kernel⟩,
   ⟨st upDev, by decide +kernel⟩,
   ⟨st ((upDev).onChan 1023 fun c => { c with state := .training, resume := .unpowered, retrains := 0 }), 1023, by decide +kernel⟩,
   ⟨st (((upDev.onUnit .chan 1023 fun u => { u with adminOut := true })).onChan 1023 fun c => { c with state := .training, resume := .unpowered, retrains := 0 }), 1023, by decide +kernel⟩,
   ⟨st ((upDev).onChan 1023 fun c => { c with state := .training, resume := .unpowered, retrains := 0 }), 1023, by decide +kernel⟩,
   ⟨st ((upDev).onChan 1023 fun c => { c with state := .training, resume := .unpowered, retrains := 1 }), 1023, by decide +kernel⟩,
   ⟨st ((upDev).onChan 1023 fun c => { c with state := .training, resume := .retiring, retrains := 0 }), 1023, by decide +kernel⟩,
   ⟨State.reset, 0, by decide +kernel⟩,
   ⟨st { upDev with boot := { upDev.boot with ready := false } }, by decide +kernel⟩,
   ⟨State.reset, by decide +kernel⟩,
   ⟨st settledDev, by decide +kernel, by decide +kernel, fun n h => settled_core _ _ n (List.mem_range.mpr h), fun n h => settled_chan _ _ n (List.mem_range.mpr h), by intro p _; rfl⟩,
   ⟨State.reset, Or.inl rfl⟩,
   ⟨st { upDev with boot := { upDev.boot with ready := false } }, 0x1000087F, ((pSnd (pSome (some (unitOf (0x1000087F : BitVec 32).toNat))))).get (by decide +kernel), by decide +kernel⟩,
   ⟨st { upDev with boot := { upDev.boot with ready := false } }, 0x200003FF, ((pSnd (pSome (some (unitOf (0x200003FF : BitVec 32).toNat))))).get (by decide +kernel), by decide +kernel⟩,
   ⟨st (({ upDev with boot := { upDev.boot with ready := false } }).onPort 15 fun p => { p with state := 2 }), 0x3000000F, ((pSnd (pSome (some (unitOf (0x3000000F : BitVec 32).toNat))))).get (by decide +kernel), by decide +kernel⟩,
   ⟨State.reset, 0, by decide +kernel⟩,
   ⟨st upDev, 0x3000000F, ((pFst (pSome (some (unitOf (0x3000000F : BitVec 32).toNat))))).get (by decide +kernel), ((pSnd (pSome (some (unitOf (0x3000000F : BitVec 32).toNat))))).get (by decide +kernel), by decide +kernel⟩,
   ⟨st { upDev with boot := { upDev.boot with active := false, ready := false, cold := false }, mc := { upDev.mc with dies := (List.range 32).map fun i => (i, { (upDev.die i) with lost := true }) } }, 0x20000000, 0, by decide +kernel⟩,
   ⟨st upDev, by decide +kernel, by intro p _; rfl⟩,
   ⟨st { upDev with clk := ⟨0, 0, true, false⟩ }, by decide +kernel⟩,
   ⟨st upDev, 640, 16, by decide +kernel⟩,
   ⟨State.reset, 0, 0, by decide +kernel⟩⟩

/-- Witnesses for FirmwareControl. -/
theorem wit_FirmwareControl :
    (∃ (s : State), ∃ (w : BitVec 32), bitAt w.toNat 0 = true ∧ s.dev.clk.powered = true ∧ s.dev.sec.level ≠ 3 ∧ (s.dev.fw.state = 0 ∨ s.dev.fw.state = 3)) ∧
    (∃ (s : State), ∃ (w : BitVec 32), (bitAt w.toNat 0 = false ∨ s.dev.clk.powered = false ∨ s.dev.sec.level = 3 ∨ (s.dev.fw.state ≠ 0 ∧ s.dev.fw.state ≠ 3))) ∧
    (∃ (s : State), (s.dev.fw.state ≠ 1 ∨ s.dev.secUp = false)) ∧
    (∃ (s : State), s.dev.fw.state = 1 ∧ s.dev.secUp = true) ∧
    (∃ (s : State), ∃ (p : Proc), ∃ now, now = (s.dev.hlc (procHub (procNo p))) ∧ ∃ recent, recent = ((s.dev.proc (procNo p)).crashes.filter fun t => within now t 3600000000) ∧ (s.dev.fw.state = 2 ∨ p = .security) ∧ s.dev.clk.powered = true ∧ s.dev.sec.level ≠ 3 ∧ (s.dev.proc (procNo p)).up = true ∧ recent.length < 2 ∧ (procNo p = 1 ∨ procNo p = 3 → (s.dev.proc (4 - procNo p)).restarting = false)) ∧
    (∃ (s : State), ∃ (p : Proc), ((s.dev.fw.state ≠ 2 ∧ p ≠ .security) ∨ s.dev.clk.powered = false ∨ s.dev.sec.level = 3 ∨ (s.dev.proc (procNo p)).up = false)) ∧
    (∃ (s : State), s.dev.clk.powered = true ∧ s.dev.sec.level ≠ 3 ∧ (s.dev.proc 0).up = true ∧ (2 ≤ ((s.dev.proc 0).crashes.filter fun t => within (s.dev.hlc 0) t 3600000000).length)) ∧
    (∃ (s : State), ∃ (p : Proc), ∃ (bs : List Byte), (s.dev.proc (procNo p)).restarting = true ∧ (procNo p < 4 ∨ ∃ c ∈ s.dev.fw.area, (s.dev.chan c).serves = true) ∧ s.dev.sectionOk (procNo p) bs = false) ∧
    (∃ (s : State), ∃ (p : Proc), ∃ (bs : List Byte), (s.dev.proc (procNo p)).restarting = true ∧ (procNo p < 4 ∨ ∃ c ∈ s.dev.fw.area, (s.dev.chan c).serves = true) ∧ s.dev.sectionOk (procNo p) bs = true ∧ p ≠ .security ∧ (procNo p ≠ s.dev.activeProc ∨ ∃ c ∈ s.dev.fw.copies, s.dev.copyUnreadable c = false)) ∧
    (∃ (s : State), ∃ (p : Proc), (s.dev.proc (procNo p)).restarting = true ∧ (procNo p < 4 ∨ ∃ c ∈ s.dev.fw.area, (s.dev.chan c).serves = true) ∧ procNo p ≠ s.dev.activeProc) ∧
    (∃ (s : State), s.dev.fw.state = 2) ∧
    (∃ (s : State), (∀ k ∈ s.dev.fw.area, (s.dev.chan k).serves = false)) ∧
    (∃ (s : State), ∃ (p : Proc), (s.dev.proc (procNo p)).restarting = false) ∧
    (∃ (s : State), (s.dev.proc 0).restarting = true) ∧
    (∃ (s : State), (s.dev.proc 2).restarting = true) ∧
    (∃ (s : State), ∃ (p : Proc), procNo p ∈ [1, 3] ∧ procNo p ≠ s.dev.activeProc ∧ (s.dev.proc (procNo p)).restarting = true) ∧
    (∃ (s : State), s.dev.boot.active = true ∧ s.dev.fw.state = 2 ∧ (s.dev.proc s.dev.activeProc).up = false ∧ s.dev.fw.standbyReady = true ∧ (∃ c ∈ s.dev.fw.copies, s.dev.copyUnreadable c = false)) ∧
    (∃ (s : State), s.dev.boot.active = true ∧ s.dev.fw.state = 2 ∧ (s.dev.proc s.dev.activeProc).up = false ∧ s.dev.fw.standbyReady = true ∧ (∀ c ∈ s.dev.fw.copies, s.dev.copyUnreadable c = true) ∧ s.dev.clk.powered = true ∧ s.dev.sec.level ≠ 3) ∧
    (∃ (s : State), (s.dev.boot.active = false ∨ s.dev.fw.state ≠ 2 ∨ (s.dev.proc s.dev.activeProc).up = true ∨ s.dev.fw.standbyReady = false)) ∧
    (∃ (s : State), ∃ (r : List Byte), (s.dev.schedUp = false ∨ r.length ≠ 64)) ∧
    (∃ (s : State), ∃ (r : List Byte), s.dev.schedUp = true ∧ r.length = 64 ∧ s.dev.fw.journal.length < 4095) ∧
    (∃ (s : State), ∃ (r : List Byte), s.dev.schedUp = true ∧ r.length = 64 ∧ 4095 ≤ s.dev.fw.journal.length) :=
  ⟨⟨st { upDev with fw := { (upDev).fw with state := 3 } }, 1, by decide +kernel⟩,
   ⟨State.reset, 0, by decide +kernel⟩,
   ⟨State.reset, by decide +kernel⟩,
   ⟨st { upDev with fw := { (upDev).fw with state := 1 } }, by decide +kernel⟩,
   ⟨st upDev, .security, _, rfl, _, rfl, by decide +kernel⟩,
   ⟨State.reset, .security, by decide +kernel⟩,
   ⟨st { upDev with fw := { (upDev).fw with procs := [(0, ⟨true, [1000, 999], false, false⟩)] } }, by decide +kernel⟩,
   ⟨st { upDev with fw := { upDev.fw with  procs := [(0, ⟨false, [], true, false⟩)] } }, .security, [], by decide +kernel⟩,
   ⟨st { upDev with fw := { upDev.fw with copies := [0], sections := [sha3_256 [], sha3_256 []], procs := [(1, ⟨false, [], true, false⟩)] } }, .schedA, [], by decide +kernel⟩,
   ⟨st { upDev with fw := { upDev.fw with sections := [[], [], sha3_256 []],  procs := [(2, ⟨false, [], true, false⟩)] } }, .power, by decide +kernel⟩,
   ⟨st upDev, by decide +kernel⟩,
   ⟨State.reset, by decide +kernel⟩,
   ⟨State.reset, .security, by decide +kernel⟩,
   ⟨st { upDev with fw := { (upDev).fw with procs := [(0, ⟨false, [], true, false⟩)] } }, by decide +kernel⟩,
   ⟨st { upDev with fw := { (upDev).fw with procs := [(2, ⟨false, [], true, false⟩)] } }, by decide +kernel⟩,
   ⟨st { upDev with fw := { (upDev).fw with procs := [(3, ⟨false, [], true, false⟩)] } }, .schedB, by decide +kernel⟩,
   ⟨st (({ upDev with fw := { upDev.fw with standbyReady := true, copies := [0], procs := [(1, ⟨false, [], true, false⟩)] } }).onChan 0 fun c => { c with lost := false }), by decide +kernel⟩,
   ⟨st (({ upDev with fw := { upDev.fw with standbyReady := true, copies := [0], procs := [(1, ⟨false, [], true, false⟩)] } }).onChan 0 fun c => { c with lost := true }), by decide +kernel⟩,
   ⟨State.reset, by decide +kernel⟩,
   ⟨State.reset, [], by decide +kernel⟩,
   ⟨st upDev, natLe 64 0, by decide +kernel⟩,
   ⟨st { upDev with fw := { (upDev).fw with journal := List.replicate 4095 [] } }, natLe 64 0, by decide +kernel⟩⟩

/-- Witnesses for SecurityRequests. -/
theorem wit_SecurityRequests :
    (∃ (s : State), ∃ (i : Instr), ∃ (t : Transport), secTransport i = some t ∧ s.dev.hasTransport t = false) ∧
    (∃ (s : State), ∃ (i : Instr), ∃ (t : Transport), secTransport i = some t ∧ s.dev.hasTransport t = true ∧ s.dev.secUp = false) ∧
    (∃ (s : State), ∃ (i : Instr), ∃ (t : Transport), secTransport i = some t ∧ s.dev.hasTransport t = true ∧ s.dev.secUp = true) :=
  ⟨⟨st upDev, .getVersion (.doe 0), .doe 0, rfl, by decide +kernel⟩,
   ⟨st { upDev with fw := { upDev.fw with procs := [(0, ⟨false, [], true, false⟩)] } }, .getVersion (.mctp .i3c), .mctp .i3c, rfl, by decide +kernel⟩,
   ⟨st upDev, .getVersion (.mctp .i3c), .mctp .i3c, rfl, by decide +kernel⟩⟩

/-- Witnesses for AttestationAndInterfaces. -/
theorem wit_AttestationAndInterfaces :
    (∃ (s : State), ∃ (t : Transport), s.dev.spdmStage t = 0) ∧
    (∃ (s : State), ∃ (t : Transport), s.dev.spdmStage t < 2) ∧
    (∃ (s : State), ∃ (t : Transport), 1 ≤ s.dev.spdmStage t) ∧
    (∃ (s : State), ∃ (t : Transport), 2 ≤ s.dev.spdmStage t) ∧
    (∃ (s : State), ∃ (t : Transport), ∃ (slot : BitVec 8), ∃ (index : BitVec 8), ∃ (off : Nat), ∃ (len : Nat), ∃ (nonce : BitVec 256), ∃ i, s.dev.spdmStage t < 3 ∧ i ∈ [Instr.getDigests t, .getCertificate t slot off len, .challenge t slot nonce, .getMeasurements t index, .keyExchange t]) ∧
    (∃ (s : State), ∃ (t : Transport), ∃ off, 3 ≤ s.dev.spdmStage t ∧ off < Config.certificateChain.length) ∧
    (∃ (s : State), ∃ (t : Transport), ∃ slot, ∃ off, 3 ≤ s.dev.spdmStage t ∧ (slot ≠ 0 ∨ Config.certificateChain.length ≤ off)) ∧
    (∃ (s : State), ∃ (t : Transport), ∃ slot, 3 ≤ s.dev.spdmStage t ∧ (slot ≠ 0 ∨ s.dev.sec.attKey = false)) ∧
    (∃ (s : State), ∃ (t : Transport), ∃ (index : BitVec 8), 3 ≤ s.dev.spdmStage t ∧ (((s.dev.measurements t).any fun b => index.toNat == 0xFF || b.1 == index.toNat) = false ∨ s.dev.sec.attKey = false)) ∧
    (∃ (s : State), ∃ (t : Transport), ∃ (index : BitVec 8), 3 ≤ s.dev.spdmStage t ∧ s.dev.sec.attKey = true ∧ (((s.dev.measurements t).any fun b => index.toNat == 0xFF || b.1 == index.toNat) = true)) ∧
    (∃ (s : State), ∃ (t : Transport), 3 ≤ s.dev.spdmStage t ∧ s.dev.sec.attKey = false) ∧
    (∃ (s : State), ∃ (t : Transport), 3 ≤ s.dev.spdmStage t ∧ s.dev.sec.attKey = true) ∧
    (∃ (s : State), ∃ (t : Transport), 3 ≤ s.dev.spdmStage t ∧ s.dev.sec.attKey = true ∧ ((s.dev.sec.sessions.filter fun x => sameLimit x.transport t).length < sessionLimit t)) ∧
    (∃ (s : State), ∃ (t : Transport), 3 ≤ s.dev.spdmStage t ∧ s.dev.sec.attKey = true ∧ (sessionLimit t ≤ (s.dev.sec.sessions.filter fun x => sameLimit x.transport t).length)) ∧
    (∃ (s : State), ∃ (t : Transport), ∃ (id : Nat), s.dev.hasSession t id false = true) ∧
    (∃ (s : State), ∃ (t : Transport), ∃ (id : Nat), s.dev.hasSession t id false = false) ∧
    (∃ (s : State), ∃ (t : Transport), ∃ (id : Nat), ∃ i, s.dev.hasSession t id true = false ∧ i ∈ [Instr.keyUpdate t id, .heartbeat t id, .endSession t id]) ∧
    (∃ (s : State), ∃ (t : Transport), ∃ (id : Nat), s.dev.hasSession t id true = true) ∧
    (∃ (s : State), ∃ (p : HPort), s.dev.secured (portTransport p) = true) ∧
    (∃ (s : State), ∃ (p : HPort), s.dev.secured (portTransport p) = false) ∧
    (∃ (s : State), ∃ (p : HPort), ∃ (n : Fin 8), (Tab.get? s.dev.sec.ide (8 * p.val + n.val)).isSome = false) ∧
    (∃ (s : State), ∃ (p : HPort), ∃ (n : Fin 8), (Tab.get? s.dev.sec.ide (8 * p.val + n.val)).isSome = true) ∧
    (∃ (s : State), ∃ (v : VDev), (s.dev.fn v.val).tdi = .configUnlocked ∧ s.dev.windowed v.val = false) ∧
    (∃ (s : State), ∃ (v : VDev), ((s.dev.fn v.val).tdi ≠ .configUnlocked ∨ s.dev.windowed v.val = true)) ∧
    (∃ (s : State), ∃ (v : VDev), (s.dev.fn v.val).tdi = .configLocked) ∧
    (∃ (s : State), ∃ (v : VDev), ((s.dev.fn v.val).tdi = .configLocked ∨ (s.dev.fn v.val).tdi = .run)) ∧
    (∃ (s : State), ∃ (v : VDev), (s.dev.fn v.val).tdi ≠ .configLocked ∧ (s.dev.fn v.val).tdi ≠ .run) :=
  ⟨⟨State.reset, .mctp .i3c, by decide +kernel⟩,
   ⟨st { upDev with sec := { (upDev).sec with attKey := true, spdm := [(.doe 256, ⟨1⟩)], sessions := [] } }, .doe 256, by decide +kernel⟩,
   ⟨st { upDev with sec := { (upDev).sec with attKey := true, spdm := [(.doe 256, ⟨1⟩)], sessions := [] } }, .doe 256, by decide +kernel⟩,
   ⟨st { upDev with sec := { (upDev).sec with attKey := true, spdm := [(.doe 256, ⟨2⟩)], sessions := [] } }, .doe 256, by decide +kernel⟩,
   ⟨State.reset, .mctp .i3c, 0, 0, 0, 0, 0, ((pHead (some ([Instr.getDigests (.mctp .i3c : Transport), .getCertificate (.mctp .i3c : Transport) (0 : BitVec 8) (0 : Nat) (0 : Nat), .challenge (.mctp .i3c : Transport) (0 : BitVec 8) (0 : BitVec 256), .getMeasurements (.mctp .i3c : Transport) (0 : BitVec 8), .keyExchange (.mctp .i3c : Transport)])))).get (by decide +kernel), by decide +kernel⟩,
   ⟨st { upDev with sec := { (upDev).sec with attKey := true, spdm := [(.doe 256, ⟨3⟩)], sessions := [] } }, .doe 256, 0, by decide +kernel⟩,
   ⟨st { upDev with sec := { (upDev).sec with attKey := true, spdm := [(.doe 256, ⟨3⟩)], sessions := [] } }, .doe 256, 1, 0, by decide +kernel⟩,
   ⟨st { upDev with sec := { (upDev).sec with attKey := true, spdm := [(.doe 256, ⟨3⟩)], sessions := [] } }, .doe 256, 1, by decide +kernel⟩,
   ⟨st { upDev with sec := { (upDev).sec with attKey := true, spdm := [(.doe 256, ⟨3⟩)], sessions := [] } }, .doe 256, 7, by decide +kernel⟩,
   ⟨st { upDev with sec := { (upDev).sec with attKey := true, spdm := [(.doe 256, ⟨3⟩)], sessions := [] } }, .doe 256, 4, by decide +kernel⟩,
   ⟨st { upDev with sec := { (upDev).sec with attKey := false, spdm := [(.doe 256, ⟨3⟩)], sessions := [] } }, .doe 256, by decide +kernel⟩,
   ⟨st { upDev with sec := { (upDev).sec with attKey := true, spdm := [(.doe 256, ⟨3⟩)], sessions := [] } }, .doe 256, by decide +kernel⟩,
   ⟨st { upDev with sec := { (upDev).sec with attKey := true, spdm := [(.doe 256, ⟨3⟩)], sessions := [] } }, .doe 256, by decide +kernel⟩,
   ⟨st { upDev with sec := { (upDev).sec with attKey := true, spdm := [(.doe 256, ⟨3⟩)], sessions := [⟨0, .doe 256, 0, 0, true⟩, ⟨1, .doe 256, 0, 0, true⟩, ⟨2, .doe 256, 0, 0, true⟩, ⟨3, .doe 256, 0, 0, true⟩] } }, .doe 256, by decide +kernel⟩,
   ⟨st { upDev with sec := { (upDev).sec with attKey := true, sessions := [⟨5, .doe 256, 0, 0, false⟩] } }, .doe 256, 5, by decide +kernel⟩,
   ⟨State.reset, .mctp .i3c, 0, by decide +kernel⟩,
   ⟨State.reset, .mctp .i3c, 0, ((pHead (some ([Instr.keyUpdate (.mctp .i3c : Transport) (0 : Nat), .heartbeat (.mctp .i3c : Transport) (0 : Nat), .endSession (.mctp .i3c : Transport) (0 : Nat)])))).get (by decide +kernel), by decide +kernel⟩,
   ⟨st { upDev with sec := { (upDev).sec with attKey := true, sessions := [⟨5, .doe 256, 0, 0, true⟩] } }, .doe 256, 5, by decide +kernel⟩,
   ⟨st { upDev with sec := { (upDev).sec with attKey := true, sessions := [⟨5, .carrier 3, 0, 0, true⟩] } }, 3, by decide +kernel⟩,
   ⟨State.reset, 0, by decide +kernel⟩,
   ⟨State.reset, 0, 0, by decide +kernel⟩,
   ⟨st { upDev with sec := { (upDev).sec with attKey := true, ide := [(31, 7)] } }, 3, 7, by decide +kernel⟩,
   ⟨State.reset, 0, by decide +kernel⟩,
   ⟨st ((vfD vd0).onFn 0 fun f => { f with tdi := .configLocked }), 0, by decide +kernel⟩,
   ⟨st ((vfD vd0).onFn 0 fun f => { f with tdi := .configLocked }), 0, by decide +kernel⟩,
   ⟨st ((vfD vd0).onFn 0 fun f => { f with tdi := .run }), 0, by decide +kernel⟩,
   ⟨State.reset, 0, by decide +kernel⟩⟩

/-- Witnesses for KeyOperations. -/
theorem wit_KeyOperations :
    (∃ (s : State), ∃ (v : VDev), ∃ (tag : BitVec 32), ∃ (bs : List Byte), ∃ (slot : BitVec 16), ∃ (i : Instr), i ∈ [Instr.generate v tag, .importKey v tag bs, .erase v tag slot, .listKeys v tag] ∧ s.dev.secured (vfDoe v) = false) ∧
    (∃ (s : State), ∃ (v : VDev), ∃ (tag : BitVec 32), ∃ (bs : List Byte), ∃ (slot : BitVec 16), ∃ (i : Instr), i ∈ [Instr.generate v tag, .importKey v tag bs, .erase v tag slot, .listKeys v tag] ∧ s.dev.secured (vfDoe v) = true ∧ s.dev.sec.level = 2) ∧
    (∃ (s : State), ∃ (v : VDev), ∃ (bs : List Byte), ∃ i, s.dev.secured (vfDoe v) = true ∧ s.dev.sec.level ≠ 2 ∧ (s.dev.heldSlots v.val).length < (s.dev.vd v.val).quota.toNat ∧ s.dev.emptySlot = some i ∧ bs.length = 64 ∧ bs.take 32 ≠ bs.drop 32) ∧
    (∃ (s : State), ∃ (v : VDev), ∃ (bs : List Byte), s.dev.secured (vfDoe v) = true ∧ s.dev.sec.level ≠ 2 ∧ ((s.dev.vd v.val).quota.toNat ≤ (s.dev.heldSlots v.val).length ∨ s.dev.emptySlot = none) ∧ bs.length = 64 ∧ bs.take 32 ≠ bs.drop 32) ∧
    (∃ (s : State), ∃ (v : VDev), ∃ (bs : List Byte), s.dev.secured (vfDoe v) = true ∧ s.dev.sec.level ≠ 2 ∧ (bs.length ≠ 64 ∨ bs.take 32 = bs.drop 32)) ∧
    (∃ (s : State), ∃ (v : VDev), ∃ (slot : BitVec 16), s.dev.secured (vfDoe v) = true ∧ s.dev.sec.level ≠ 2 ∧ (s.dev.heldSlots v.val).contains slot.toNat = false) ∧
    (∃ (s : State), ∃ (v : VDev), ∃ (slot : BitVec 16), ∃ used, used = ((s.dev.vd v.val).table.any fun e => e.res == 1 && e.key == slot.toNat) ∧ s.dev.secured (vfDoe v) = true ∧ s.dev.sec.level ≠ 2 ∧ (s.dev.heldSlots v.val).contains slot.toNat = true ∧ used = true) ∧
    (∃ (s : State), ∃ (v : VDev), ∃ (slot : BitVec 16), ∃ used, used = ((s.dev.vd v.val).table.any fun e => e.res == 1 && e.key == slot.toNat) ∧ s.dev.secured (vfDoe v) = true ∧ s.dev.sec.level ≠ 2 ∧ (s.dev.heldSlots v.val).contains slot.toNat = true ∧ used = false) :=
  ⟨⟨State.reset, 0, 0, [], 0, ((pHead (some ([Instr.generate (0 : VDev) (0 : BitVec 32), .importKey (0 : VDev) (0 : BitVec 32) ([] : List Byte), .erase (0 : VDev) (0 : BitVec 32) (0 : BitVec 16), .listKeys (0 : VDev) (0 : BitVec 32)])))).get (by decide +kernel), by decide +kernel⟩,
   ⟨st { vfD (vd0) with sec := { (vfD (vd0)).sec with attKey := true, sessions := [⟨5, .doe 0, 0, 0, true⟩], level := 2 } }, 0, 9, [], 0, .listKeys 0 9, by decide +kernel⟩,
   ⟨st { vfD (vd0) with sec := { (vfD (vd0)).sec with attKey := true, sessions := [⟨5, .doe 0, 0, 0, true⟩], level := 0 } }, 0, natLe 32 1 ++ natLe 32 2, ((pSome (some ((st { vfD (vd0) with sec := { (vfD (vd0)).sec with attKey := true, sessions := [⟨5, .doe 0, 0, 0, true⟩], level := 0 } } : State).dev.emptySlot)))).get (by decide +kernel), by decide +kernel⟩,
   ⟨st { vfD ({ vd0 with quota := 0 }) with sec := { (vfD ({ vd0 with quota := 0 })).sec with attKey := true, sessions := [⟨5, .doe 0, 0, 0, true⟩], level := 0 } }, 0, natLe 32 1 ++ natLe 32 2, by decide +kernel⟩,
   ⟨st { vfD (vd0) with sec := { (vfD (vd0)).sec with attKey := true, sessions := [⟨5, .doe 0, 0, 0, true⟩], level := 0 } }, 0, natLe 32 1 ++ natLe 32 1, by decide +kernel⟩,
   ⟨st { vfD (vd0) with sec := { (vfD (vd0)).sec with attKey := true, sessions := [⟨5, .doe 0, 0, 0, true⟩], level := 0 } }, 0, 1023, by decide +kernel⟩,
   ⟨st { vfD (vd0) with sec := { (vfD (vd0)).sec with attKey := true, sessions := [⟨5, .doe 0, 0, 0, true⟩], level := 0 } }, 0, 1, _, rfl, by decide +kernel⟩,
   ⟨st { vfD ({ vd0 with table := [] }) with sec := { (vfD ({ vd0 with table := [] })).sec with attKey := true, sessions := [⟨5, .doe 0, 0, 0, true⟩], level := 0 } }, 0, 1, _, rfl, by decide +kernel⟩⟩

/-- Witnesses for Alarms. -/
theorem wit_Alarms :
    (∃ (s : State), ∃ (src : BitVec 8), alarmDefault src.toNat ≠ 0 ∧ s.dev.sec.level ≠ 3 ∧ s.dev.clk.powered = true ∧ s.dev.alarmLevel src.toNat ≠ 3 ∧ s.dev.sec.log = []) ∧
    (∃ (s : State), ∃ (src : BitVec 8), alarmDefault src.toNat ≠ 0 ∧ s.dev.sec.level ≠ 3 ∧ s.dev.clk.powered = true ∧ s.dev.alarmLevel src.toNat = 3) ∧
    (∃ (s : State), ∃ (src : BitVec 8), ∃ (x : BitVec 16), (alarmDefault src.toNat = 0 ∨ s.dev.sec.level = 3 ∨ s.dev.clk.powered = false) ∧ (src, x) ∉ s.dev.sec.raised) ∧
    (∃ (s : State), ∃ (src : BitVec 8), ∃ (x : BitVec 16), ∃ l, (alarmDefault src.toNat = 0 ∨ s.dev.sec.level = 3 ∨ s.dev.clk.powered = false) ∧ s.dev.sec.raised = (src, x) :: l) ∧
    (∃ (s : State), ∃ (l : Fin 3), ∃ (ns : Nat), s.dev.sec.lines.contains l.val = false ∧ ns < 200) ∧
    (∃ (s : State), ∃ (l : Fin 3), ∃ (ns : Nat), s.dev.sec.lines.contains l.val = false ∧ 200 ≤ ns) ∧
    (∃ (s : State), ∃ (l : Fin 3), s.dev.sec.lines.contains l.val = true) ∧
    (∃ (s : State), ∃ (l : Fin 3), s.dev.sec.lines.contains l.val = true) :=
  ⟨⟨st upDev, 13, by decide +kernel⟩,
   ⟨st upDev, 5, by decide +kernel⟩,
   ⟨State.reset, 0, 0, by decide +kernel⟩,
   ⟨st { upDev with sec := { (upDev).sec with attKey := true, raised := [(3, 7)], level := 3 } }, 3, ((pSnd (pHead (some ((st { upDev with sec := { (upDev).sec with attKey := true, raised := [(3, 7)], level := 3 } } : State).dev.sec.raised))))).get (by decide +kernel), ((pTail (some ((st { upDev with sec := { (upDev).sec with attKey := true, raised := [(3, 7)], level := 3 } } : State).dev.sec.raised)))).get (by decide +kernel), by decide +kernel⟩,
   ⟨State.reset, 0, 0, by decide +kernel⟩,
   ⟨st upDev, 2, 200, by decide +kernel⟩,
   ⟨st { upDev with sec := { (upDev).sec with attKey := true, lines := [2] } }, 2, by decide +kernel⟩,
   ⟨st { upDev with sec := { (upDev).sec with attKey := true, lines := [2] } }, 2, by decide +kernel⟩⟩

/-- Witnesses for ManagementPath. -/
theorem wit_ManagementPath :
    (∃ (s : State), ∃ (i : Instr), ∃ (b : MgmtBind), ∃ (r : OdReq), odReqOf i = some (b, r) ∧ s.dev.clk.powered = false) ∧
    (∃ (s : State), ∃ (i : Instr), ∃ (b : MgmtBind), ∃ (r : OdReq), odReqOf i = some (b, r) ∧ s.dev.clk.powered = true ∧ s.dev.pmUp = false ∧ (r.isOut = false ∨ s.dev.sec.level = 3)) ∧
    (∃ (s : State), ∃ (i : Instr), ∃ (b : MgmtBind), ∃ (r : OdReq), odReqOf i = some (b, r) ∧ s.dev.clk.powered = true ∧ s.dev.pmUp = false ∧ r.isOut = true ∧ s.dev.sec.level ≠ 3) ∧
    (∃ (s : State), ∃ (i : Instr), ∃ (b : MgmtBind), ∃ (r : OdReq), odReqOf i = some (b, r) ∧ s.dev.clk.powered = true ∧ s.dev.pmUp = true ∧ s.dev.outstanding b < 8 ∧ s.dev.od.confirm = none) ∧
    (∃ (s : State), ∃ (i : Instr), ∃ (b : MgmtBind), ∃ (r : OdReq), odReqOf i = some (b, r) ∧ s.dev.clk.powered = true ∧ s.dev.pmUp = true ∧ s.dev.outstanding b < 8 ∧ s.dev.od.confirm.isSome = true) ∧
    (∃ (s : State), ∃ (i : Instr), ∃ (b : MgmtBind), ∃ (r : OdReq), odReqOf i = some (b, r) ∧ s.dev.clk.powered = true ∧ s.dev.pmUp = true ∧ 8 ≤ s.dev.outstanding b) ∧
    (∃ (s : State), ∃ (e : BitVec 8), s.dev.clk.powered = true ∧ e ≠ 0 ∧ e ≠ 0xFF) ∧
    (∃ (s : State), s.dev.clk.powered = true) ∧
    (∃ (s : State), ∃ (b : MgmtBind), ∃ (e : BitVec 8), ∃ (i : Instr), s.dev.clk.powered = false ∧ i ∈ [Instr.setEndpointId b e, .getEndpointId b, .getMctpVersionSupport b, .getMessageTypeSupport b, .getVendorDefinedMessageSupport b]) ∧
    (∃ (s : State), s.dev.clk.powered = true ∧ s.dev.od.addr = none) ∧
    (∃ (s : State), (s.dev.od.addr.isSome = true ∨ s.dev.clk.powered = false)) ∧
    (∃ (s : State), s.dev.clk.powered = true ∧ s.dev.od.addr = none ∧ s.dev.od.hotJoined = false) ∧
    (∃ (s : State), (s.dev.od.hotJoined = true ∨ s.dev.od.addr.isSome = true ∨ s.dev.clk.powered = false)) :=
  ⟨⟨st { upDev with clk := ⟨0, 0, false, false⟩ }, .odRead .i3c 9 0 0 0 0, .i3c, .read 9 0 0 0 0, rfl, by decide +kernel⟩,
   ⟨st { upDev with fw := { upDev.fw with procs := [(0, ⟨true, [], false, false⟩)] } }, .odRead .i3c 9 0 0 0 0, .i3c, .read 9 0 0 0 0, rfl, by decide +kernel⟩,
   ⟨st { upDev with fw := { upDev.fw with procs := [(0, ⟨true, [], false, false⟩)] } }, .unitRequestOut .i3c 9 0x11000087F, .i3c, .write false 9 0x2900 1 (natLe 8 0x11000087F), rfl, by decide +kernel⟩,
   ⟨st upDev, .odRead .i3c 9 0 0 0 0, .i3c, .read 9 0 0 0 0, rfl, by decide +kernel⟩,
   ⟨st { upDev with od := { (upDev).od with confirm := some ⟨.i3c, 9, 8, 1⟩ } }, .odRead .i3c 9 0 0 0 0, .i3c, .read 9 0 0 0 0, rfl, by decide +kernel⟩,
   ⟨st { upDev with od := { upDev.od with confirm := some ⟨.i3c, 9, 8, 1⟩, waiting := List.replicate 7 (Instr.odWrite .i3c false 9 0 0 []) } }, .odRead .i3c 9 0 0 0 0, .i3c, .read 9 0 0 0 0, rfl, by decide +kernel⟩,
   ⟨st upDev, 254, by decide +kernel⟩,
   ⟨st upDev, by decide +kernel⟩,
   ⟨State.reset, .i3c, 0, ((pHead (some ([Instr.setEndpointId (.i3c : MgmtBind) (0 : BitVec 8), .getEndpointId (.i3c : MgmtBind), .getMctpVersionSupport (.i3c : MgmtBind), .getMessageTypeSupport (.i3c : MgmtBind), .getVendorDefinedMessageSupport (.i3c : MgmtBind)])))).get (by decide +kernel), by decide +kernel⟩,
   ⟨st upDev, by decide +kernel⟩,
   ⟨State.reset, by decide +kernel⟩,
   ⟨st upDev, by decide +kernel⟩,
   ⟨State.reset, by decide +kernel⟩⟩

/-- Witnesses for DictionaryEntries. -/
theorem wit_DictionaryEntries :
    (∃ (s : State), ∃ (b : MgmtBind), s.dev.clk.powered = true ∧ s.dev.pmUp = true ∧ s.dev.outstanding b < 8 ∧ s.dev.od.confirm = none) ∧
    (∃ (s : State), ∃ (b : MgmtBind), ∃ (id : BitVec 32), s.dev.clk.powered = true ∧ s.dev.pmUp = true ∧ s.dev.outstanding b < 8 ∧ s.dev.od.confirm = none ∧ id ≠ 0 ∧ s.dev.anyPortLive = false) ∧
    (∃ (s : State), ∃ (b : MgmtBind), ∃ (id : BitVec 32), s.dev.clk.powered = true ∧ s.dev.pmUp = true ∧ s.dev.outstanding b < 8 ∧ s.dev.od.confirm = none ∧ id ≠ 0 ∧ s.dev.anyPortLive = true) ∧
    (∃ (s : State), ∃ (b : MgmtBind), ∃ (src : BitVec 8), ∃ (secured : Bool), s.dev.clk.powered = true ∧ s.dev.pmUp = true ∧ s.dev.outstanding b < 8 ∧ s.dev.od.confirm = none ∧ s.dev.secUp = true ∧ 1 ≤ src.toNat ∧ src.toNat ≤ 16 ∧ secured = false) ∧
    (∃ (s : State), ∃ (b : MgmtBind), ∃ (src : BitVec 8), ∃ (level : BitVec 8), ∃ (secured : Bool), s.dev.clk.powered = true ∧ s.dev.pmUp = true ∧ s.dev.outstanding b < 8 ∧ s.dev.od.confirm = none ∧ s.dev.secUp = true ∧ 1 ≤ src.toNat ∧ src.toNat ≤ 16 ∧ secured = true ∧ s.dev.secured (.mctp b) = true ∧ alarmDefault src.toNat ≠ 0 ∧ alarmFloor src.toNat ≤ level.toNat ∧ 1 ≤ level.toNat ∧ level.toNat ≤ 3) ∧
    (∃ (s : State), ∃ (b : MgmtBind), ∃ (src : BitVec 8), ∃ (level : BitVec 8), ∃ (secured : Bool), s.dev.clk.powered = true ∧ s.dev.pmUp = true ∧ s.dev.outstanding b < 8 ∧ s.dev.od.confirm = none ∧ s.dev.secUp = true ∧ 1 ≤ src.toNat ∧ src.toNat ≤ 16 ∧ secured = true ∧ s.dev.secured (.mctp b) = true ∧ (level.toNat = 0 ∨ 3 < level.toNat)) ∧
    (∃ (s : State), ∃ (b : MgmtBind), ∃ (src : BitVec 8), ∃ (level : BitVec 8), ∃ (secured : Bool), s.dev.clk.powered = true ∧ s.dev.pmUp = true ∧ s.dev.outstanding b < 8 ∧ s.dev.od.confirm = none ∧ s.dev.secUp = true ∧ 1 ≤ src.toNat ∧ src.toNat ≤ 16 ∧ secured = true ∧ s.dev.secured (.mctp b) = true ∧ 1 ≤ level.toNat ∧ level.toNat ≤ 3 ∧ (alarmDefault src.toNat = 0 ∨ level.toNat < alarmFloor src.toNat)) ∧
    (∃ (s : State), ∃ (b : MgmtBind), ∃ (v : VDev), ∃ (quota : BitVec 16), s.dev.clk.powered = true ∧ s.dev.pmUp = true ∧ s.dev.outstanding b < 8 ∧ s.dev.od.confirm = none ∧ s.dev.secUp = true ∧ s.dev.secured (.mctp b) = true ∧ 0 < quota.toNat ∧ quota.toNat ≤ 1023 ∧ (((s.dev.vds.filter fun y => y.1 != v.val).map fun y => y.2.quota.toNat).sum + quota.toNat ≤ 1023) ∧ (s.dev.heldSlots v.val).length ≤ quota.toNat) ∧
    (∃ (s : State), ∃ (b : MgmtBind), ∃ (quota : BitVec 16), s.dev.clk.powered = true ∧ s.dev.pmUp = true ∧ s.dev.outstanding b < 8 ∧ s.dev.od.confirm = none ∧ s.dev.secUp = true ∧ s.dev.secured (.mctp b) = true ∧ 1023 < quota.toNat) ∧
    (∃ (s : State), ∃ (b : MgmtBind), ∃ (secured : Bool), s.dev.clk.powered = true ∧ s.dev.pmUp = true ∧ s.dev.outstanding b < 8 ∧ s.dev.od.confirm = none ∧ s.dev.secUp = true ∧ (secured = false ∨ s.dev.secured (.mctp b) = false)) ∧
    (∃ (s : State), ∃ (b : MgmtBind), ∃ (v : VDev), ∃ (quota : BitVec 16), s.dev.clk.powered = true ∧ s.dev.pmUp = true ∧ s.dev.outstanding b < 8 ∧ s.dev.od.confirm = none ∧ s.dev.secUp = true ∧ s.dev.secured (.mctp b) = true ∧ 0 < quota.toNat ∧ quota.toNat ≤ 1023 ∧ (1023 < ((s.dev.vds.filter fun y => y.1 != v.val).map fun y => y.2.quota.toNat).sum + quota.toNat ∨ quota.toNat < (s.dev.heldSlots v.val).length)) ∧
    (∃ (s : State), ∃ (b : MgmtBind), s.dev.clk.powered = true ∧ s.dev.pmUp = true ∧ s.dev.outstanding b < 8 ∧ s.dev.od.confirm = none ∧ s.dev.secUp = true ∧ s.dev.secured (.mctp b) = true) ∧
    (∃ (s : State), ∃ (b : MgmtBind), ∃ (bs : List Byte), s.dev.clk.powered = true ∧ s.dev.pmUp = true ∧ s.dev.outstanding b < 8 ∧ s.dev.od.confirm = none ∧ bs.length ≠ 24) ∧
    (∃ (s : State), ∃ (b : MgmtBind), ∃ (bs : List Byte), s.dev.clk.powered = true ∧ s.dev.pmUp = true ∧ s.dev.outstanding b < 8 ∧ s.dev.od.confirm = none ∧ bs.length = 24 ∧ fieldLe bs 0 1 ≠ 1 ∧ fieldLe bs 0 1 ≠ 2) ∧
    (∃ (s : State), ∃ (b : MgmtBind), ∃ (x : BitVec 32), s.dev.clk.powered = true ∧ s.dev.pmUp = true ∧ s.dev.outstanding b < 8 ∧ s.dev.od.confirm = none ∧ (unitOf (x.toNat % 2 ^ 32) = none ∨ (bits x.toNat 35 32 ≠ 1 ∧ bits x.toNat 35 32 ≠ 2))) ∧
    (∃ (s : State), ∃ (b : MgmtBind), ∃ (bs : List Byte), s.dev.clk.powered = true ∧ s.dev.pmUp = true ∧ s.dev.outstanding b < 8 ∧ s.dev.od.confirm = none ∧ bs.length = 24 ∧ fieldLe bs 0 1 = 1) ∧
    (∃ (s : State), ∃ (b : MgmtBind), ∃ (bs : List Byte), s.dev.clk.powered = true ∧ s.dev.pmUp = true ∧ s.dev.outstanding b < 8 ∧ s.dev.od.confirm = none ∧ bs.length = 24 ∧ fieldLe bs 0 1 = 2) ∧
    (∃ (s : State), ∃ (b : MgmtBind), ∃ (x : BitVec 32), s.dev.clk.powered = true ∧ s.dev.pmUp = true ∧ s.dev.outstanding b < 8 ∧ s.dev.od.confirm = none ∧ x ≠ 0xB5A70003 ∧ x ≠ 0xB5A70004) ∧
    (∃ (s : State), ∃ (b : MgmtBind), ∃ (u : BitVec 32), ∃ (k : UnitKind), ∃ (n : Nat), s.dev.clk.powered = true ∧ s.dev.pmUp = true ∧ s.dev.outstanding b < 8 ∧ s.dev.od.confirm = none ∧ unitOf u.toNat = some (k, n)) ∧
    (∃ (s : State), ∃ (c : OdWait), s.dev.od.confirm = some c ∧ s.dev.od.waiting = []) ∧
    (∃ (s : State), ∃ (c : OdWait), s.dev.od.confirm = some c) ∧
    (∃ (s : State), s.dev.od.confirm = none) ∧
    (∃ (s : State), s.dev.pmUp = false) ∧
    (∃ (s : State), ∃ (q : Fin 4), ∃ (tag : BitVec 16), ((s.dev.od.notices.find? fun n => n.dest == q.val && n.tag == tag && n.sent) = none)) ∧
    (∃ (s : State), s.dev.pmUp = true) ∧
    (∃ (s : State), ∃ (q : Fin 4), ∃ (tag : BitVec 16), ∃ (n : OdNotice), s.dev.pmUp = true ∧ ((s.dev.od.notices.find? fun n => n.dest == q.val && n.tag == tag && n.sent) = some n)) ∧
    (∃ (s : State), ∃ (u : BitVec 32), ∃ (k : UnitKind), ∃ (n : Nat), unitOf u.toNat = some (k, n) ∧ (s.dev.unit k n).returning = false) ∧
    (∃ (u : BitVec 32), unitOf u.toNat = none) ∧
    (∃ (s : State), ∃ (u : BitVec 32), ∃ (n : Nat), unitOf u.toNat = some (.core, n) ∧ (s.dev.unit .core n).returning = true) ∧
    (∃ (s : State), ∃ (u : BitVec 32), ∃ (n : Nat), unitOf u.toNat = some (.chan, n) ∧ ((s.dev.chan n).state ≠ .training ∨ (s.dev.chan n).resume ≠ .retired)) ∧
    (∃ (s : State), ∃ (u : BitVec 32), ∃ (n : Nat), unitOf u.toNat = some (.port, n) ∧ (s.dev.unit .port n).returning = true ∧ (s.dev.port n).trained = true) ∧
    (∃ (s : State), ∃ (u : BitVec 32), ∃ (n : Nat), unitOf u.toNat = some (.chan, n) ∧ (s.dev.unit .chan n).returning = true ∧ (s.dev.chan n).state = .training ∧ (s.dev.chan n).resume = .retired ∧ (s.dev.die (n / 32)).lost = false) :=
  ⟨⟨st upDev, .i3c, by decide +kernel⟩,
   ⟨st upDev, .i3c, 1, by decide +kernel⟩,
   ⟨st (upDev.onPort 15 fun p => { p with state := 2 }), .i3c, 1, by decide +kernel⟩,
   ⟨st upDev, .i3c, 16, false, by decide +kernel⟩,
   ⟨st { vfD (vd0) with sec := { (vfD (vd0)).sec with attKey := true, sessions := [⟨5, .mctp .i3c, 0, 0, true⟩] } }, .i3c, 8, 3, true, by decide +kernel⟩,
   ⟨st { vfD (vd0) with sec := { (vfD (vd0)).sec with attKey := true, sessions := [⟨5, .mctp .i3c, 0, 0, true⟩] } }, .i3c, 8, 4, true, by decide +kernel⟩,
   ⟨st { vfD (vd0) with sec := { (vfD (vd0)).sec with attKey := true, sessions := [⟨5, .mctp .i3c, 0, 0, true⟩] } }, .i3c, 2, 1, true, by decide +kernel⟩,
   ⟨st { vfD (vd0) with sec := { (vfD (vd0)).sec with attKey := true, sessions := [⟨5, .mctp .i3c, 0, 0, true⟩] } }, .i3c, 0, 1023, by decide +kernel⟩,
   ⟨st { vfD (vd0) with sec := { (vfD (vd0)).sec with attKey := true, sessions := [⟨5, .mctp .i3c, 0, 0, true⟩] } }, .i3c, 1024, by decide +kernel⟩,
   ⟨st upDev, .i3c, false, by decide +kernel⟩,
   ⟨st { (vfD vd0).setVd 255 { vd0 with quota := 2 } with sec := { ((vfD vd0).setVd 255 { vd0 with quota := 2 }).sec with attKey := true, sessions := [⟨5, .mctp .i3c, 0, 0, true⟩] } }, .i3c, 0, 1023, by decide +kernel⟩,
   ⟨st { vfD (vd0) with sec := { (vfD (vd0)).sec with attKey := true, sessions := [⟨5, .mctp .i3c, 0, 0, true⟩] } }, .i3c, by decide +kernel⟩,
   ⟨st upDev, .i3c, natLe 23 0, by decide +kernel⟩,
   ⟨st upDev, .i3c, natLe 24 0, by decide +kernel⟩,
   ⟨st upDev, .i3c, 0, by decide +kernel⟩,
   ⟨st upDev, .i3c, natLe 24 1, by decide +kernel⟩,
   ⟨st upDev, .i3c, natLe 24 2, by decide +kernel⟩,
   ⟨st upDev, .i3c, 0, by decide +kernel⟩,
   ⟨st upDev, .i3c, 0x1000087F, ((pFst (pSome (some (unitOf (0x1000087F : BitVec 32).toNat))))).get (by decide +kernel), ((pSnd (pSome (some (unitOf (0x1000087F : BitVec 32).toNat))))).get (by decide +kernel), by decide +kernel⟩,
   ⟨st { upDev with od := { (upDev).od with confirm := some ⟨.i3c, 9, 8, 1⟩ } }, ((pSome (some ((st { upDev with od := { (upDev).od with confirm := some ⟨.i3c, 9, 8, 1⟩ } } : State).dev.od.confirm)))).get (by decide +kernel), by decide +kernel⟩,
   ⟨st { upDev with od := { (upDev).od with confirm := some ⟨.i3c, 9, 8, 1⟩ } }, ((pSome (some ((st { upDev with od := { (upDev).od with confirm := some ⟨.i3c, 9, 8, 1⟩ } } : State).dev.od.confirm)))).get (by decide +kernel), by decide +kernel⟩,
   ⟨State.reset, by decide +kernel⟩,
   ⟨State.reset, by decide +kernel⟩,
   ⟨State.reset, 0, 0, by decide +kernel⟩,
   ⟨st upDev, by decide +kernel⟩,
   ⟨st { upDev with od := { (upDev).od with notices := [⟨3, 9, 1, 0, 1, [], true⟩] } }, 3, 9, ((pSome (some (((st { upDev with od := { (upDev).od with notices := [⟨3, 9, 1, 0, 1, [], true⟩] } } : State).dev.od.notices.find? fun n => n.dest == (3 : Fin 4).val && n.tag == (9 : BitVec 16) && n.sent))))).get (by decide +kernel), by decide +kernel⟩,
   ⟨st upDev, 0x1000087F, ((pFst (pSome (some (unitOf (0x1000087F : BitVec 32).toNat))))).get (by decide +kernel), ((pSnd (pSome (some (unitOf (0x1000087F : BitVec 32).toNat))))).get (by decide +kernel), by decide +kernel⟩,
   ⟨0, by decide +kernel⟩,
   ⟨st ((upDev).onUnit .core 2175 fun u => { u with returning := true }), 0x1000087F, ((pSnd (pSome (some (unitOf (0x1000087F : BitVec 32).toNat))))).get (by decide +kernel), by decide +kernel⟩,
   ⟨st upDev, 0x200003FF, ((pSnd (pSome (some (unitOf (0x200003FF : BitVec 32).toNat))))).get (by decide +kernel), by decide +kernel⟩,
   ⟨st (((upDev.onPort 15 fun p => { p with state := 3, active := 0xFF })).onUnit .port 15 fun u => { u with returning := true }), 0x3000000F, ((pSnd (pSome (some (unitOf (0x3000000F : BitVec 32).toNat))))).get (by decide +kernel), by decide +kernel⟩,
   ⟨st (((upDev.onChan 1023 fun c => { c with state := .training, resume := .retired })).onUnit .chan 1023 fun u => { u with returning := true }), 0x200003FF, ((pSnd (pSome (some (unitOf (0x200003FF : BitVec 32).toNat))))).get (by decide +kernel), by decide +kernel⟩⟩

end Sys2Proof.Tests
end

section
/-! Integer formats (R48): the model's two's-complement reading and writing are those of `BitVec`, and from that every pattern of an
integer format is a number of the format's range and every number of the range has a pattern. -/

namespace Sys2Proof

/-! ## Two's complement -/

/-- The link to the library: the bounds and the round trip below are `BitVec`'s. -/
theorem toSigned_eq_toInt_ofNat (w n : Nat) : toSigned w n = (BitVec.ofNat w n).toInt := by
  have half : n % 2 ^ w < 2 ^ (w - 1) ↔ 2 * (n % 2 ^ w) < 2 ^ w := by
    cases w with
    | zero => simp [Nat.mod_one]
    | succ w =>
      rw [Nat.add_sub_cancel, Nat.pow_succ']
      omega
  simp only [toSigned, BitVec.toInt_eq_toNat_cond, BitVec.toNat_ofNat, half]

theorem ofSigned_eq_toNat_ofInt (w : Nat) (i : Int) : ofSigned w i = (BitVec.ofInt w i).toNat :=
  (BitVec.toNat_ofInt i).symm

theorem neg_two_pow_le_toSigned (w n : Nat) : -(2 ^ (w - 1) : Int) ≤ toSigned w n := by
  rw [toSigned_eq_toInt_ofNat]
  exact BitVec.le_toInt _

theorem toSigned_lt_two_pow (w n : Nat) : toSigned w n < (2 ^ (w - 1) : Int) := by
  rw [toSigned_eq_toInt_ofNat]
  exact BitVec.toInt_lt

/-- A pattern of `w` bits is read without reduction. -/
theorem toSigned_of_lt {w n : Nat} (h : n < 2 ^ w) :
    toSigned w n = if n < 2 ^ (w - 1) then (n : Int) else (n : Int) - (2 ^ w : Int) := by
  simp only [toSigned, Nat.mod_eq_of_lt h, Nat.cast_pow, Nat.cast_ofNat]

theorem ofSigned_lt_two_pow (w : Nat) (i : Int) : ofSigned w i < 2 ^ w := by
  rw [ofSigned_eq_toNat_ofInt]
  exact (BitVec.ofInt w i).isLt

/-- A number in the range of `w` bits is read back from its pattern. -/
theorem toSigned_ofSigned {w : Nat} (hw : 0 < w) {i : Int} (lo : -(2 ^ (w - 1) : Int) ≤ i) (hi : i < (2 ^ (w - 1) : Int)) :
    toSigned w (ofSigned w i) = i := by
  rw [toSigned_eq_toInt_ofNat, ofSigned_eq_toNat_ofInt, BitVec.ofNat_toNat, BitVec.setWidth_eq]
  exact BitVec.toInt_ofInt_eq_self hw lo hi

end Sys2Proof

namespace Sys2Proof.Machine

/-! ## Elements of an integer format -/

theorem fmtIsInt_iff (f : Fmt) : fmtIsInt f = true ↔ f = .int4 ∨ f = .int8 ∨ f = .int32 ∨ f = .int64 := by
  cases f <;> decide

theorem fmtBits_pos (f : Fmt) : 0 < fmtBits f := by
  cases f <;> decide

/-- R48: an element of an integer format is the two's-complement number of its pattern. -/
theorem decodeElem_of_fmtIsInt {f : Fmt} (hf : fmtIsInt f = true) (b : Nat) :
    decodeElem f b = valOfInt (toSigned (fmtBits f) b) := by
  rcases (fmtIsInt_iff f).mp hf with rfl | rfl | rfl | rfl <;> rfl

/-- Settles O6: a pattern means its two's-complement number, and a number of the range is what its own pattern means. -/
theorem integerPatterns : Obligations.IntegerPatterns := by
  intro f hf
  have decode := decodeElem_of_fmtIsInt ((fmtIsInt_iff f).mpr hf)
  constructor
  · intro b
    exact ⟨toSigned (fmtBits f) b, decode b, neg_two_pow_le_toSigned _ b, Int.le_sub_one_of_lt (toSigned_lt_two_pow _ b),
      toSigned_of_lt⟩
  · intro i lo hi
    refine ⟨ofSigned (fmtBits f) i, ofSigned_lt_two_pow _ i, ?_⟩
    rw [decode, toSigned_ofSigned (fmtBits_pos f) lo (Int.lt_of_le_sub_one hi)]

end Sys2Proof.Machine
end

section
/-! Addition of peat words (R71). A term is added as a word of its own, so the laws of adding terms, and of a window that spills into
a slot, are those of `peatAdd`: associative and commutative. -/

namespace Sys2Proof.Machine

/-! ## Adding words -/

theorem peatAdd_comm (p q : Peat) : peatAdd p q = peatAdd q p := by
  simp only [peatAdd, BitVec.add_comm, Bool.or_comm]

theorem peatAdd_assoc (p q r : Peat) : peatAdd (peatAdd p q) r = peatAdd p (peatAdd q r) := by
  simp only [peatAdd, BitVec.add_assoc, Bool.or_assoc]

theorem peatAdd_right_comm (p q r : Peat) : peatAdd (peatAdd p q) r = peatAdd (peatAdd p r) q := by
  rw [peatAdd_assoc, peatAdd_comm q r, ← peatAdd_assoc]

/-- N is added modulo 2^640. -/
theorem toInt_peatAdd (p q : Peat) : (peatAdd p q).n.toInt = (p.n.toInt + q.n.toInt).bmod (2 ^ 640) :=
  BitVec.toInt_add p.n q.n

/-- A number of whole quanta as a word without flags. -/
def peatOfInt (i : Int) : Peat := ⟨BitVec.ofInt 640 i, false, false, false⟩

/-! ## Adding terms -/

theorem peatAddTerm_fin (p : Peat) (x : Ex) : peatAddTerm p (.fin x) = peatAdd p (peatOfInt (termInt x)) := by
  simp [peatAddTerm, peatAdd, peatOfInt]

theorem peatAddTerm_nan (p : Peat) (sig : Bool) : peatAddTerm p (.nan sig) = { p with nan := true } := rfl

theorem peatAddTerm_inf (p : Peat) (neg : Bool) :
    peatAddTerm p (.inf neg) = { p with
      pinf := p.pinf || !neg
      ninf := p.ninf || neg } := by
  cases neg <;> simp [peatAddTerm]

/-- The word of one term: N of a finite term, or the flag of another. -/
def termPeat (v : Val) : Peat := peatAddTerm Peat.zero v

/-- R71 adds a term as it adds a word. -/
theorem peatAddTerm_eq_peatAdd (p : Peat) (v : Val) : peatAddTerm p v = peatAdd p (termPeat v) := by
  cases v with
  | nan sig => simp [termPeat, peatAddTerm_nan, peatAdd, Peat.zero]
  | inf neg => simp [termPeat, peatAddTerm_inf, peatAdd, Peat.zero]
  | fin x => simp [termPeat, peatAddTerm_fin, peatAdd, Peat.zero]

theorem peatAddTerm_right_comm (p : Peat) (v w : Val) : peatAddTerm (peatAddTerm p v) w = peatAddTerm (peatAddTerm p w) v := by
  simp only [peatAddTerm_eq_peatAdd, peatAdd_right_comm]

theorem peatAdd_peatAddTerm (p q : Peat) (v : Val) : peatAdd p (peatAddTerm q v) = peatAddTerm (peatAdd p q) v := by
  simp only [peatAddTerm_eq_peatAdd, peatAdd_assoc]

/-- Any order of the same terms gives the same word. -/
theorem foldl_peatAddTerm_perm {l m : List Val} (h : l.Perm m) (p : Peat) : l.foldl peatAddTerm p = m.foldl peatAddTerm p :=
  have : RightCommutative peatAddTerm := ⟨peatAddTerm_right_comm⟩
  h.foldl_eq p

theorem peatAdd_foldl_peatAddTerm (l : List Val) (p q : Peat) :
    peatAdd p (l.foldl peatAddTerm q) = l.foldl peatAddTerm (peatAdd p q) := by
  induction l generalizing q with
  | nil => rfl
  | cons v l ih => rw [List.foldl_cons, ih, peatAdd_peatAddTerm, List.foldl_cons]

/-- A sum split in two parts is the sum of the parts (R87). -/
theorem peatAdd_foldl_foldl (l m : List Val) (p q : Peat) :
    peatAdd (l.foldl peatAddTerm p) (m.foldl peatAddTerm q) = (l ++ m).foldl peatAddTerm (peatAdd p q) := by
  rw [peatAdd_foldl_peatAddTerm, peatAdd_comm, peatAdd_foldl_peatAddTerm, peatAdd_comm q p, List.foldl_append]

/-- Settles O8: `peatAdd` is commutative and associative, and a term is added as a word. -/
theorem peatAddition : Obligations.PeatAddition := by
  refine ⟨?_, ?_, ?_, ?_, peatAdd_foldl_foldl⟩
  · intro p x
    exact ⟨by rw [peatAddTerm_fin, toInt_peatAdd, peatOfInt, BitVec.toInt_ofInt, Int.add_bmod_bmod], rfl, rfl, rfl⟩
  · exact fun p sig neg => ⟨peatAddTerm_nan p sig, peatAddTerm_inf p neg⟩
  · exact fun p q => ⟨toInt_peatAdd p q, rfl, rfl, rfl⟩
  · exact fun l m p h => foldl_peatAddTerm_perm h p

end Sys2Proof.Machine
end

section
/-! The lowest set bit of a number, which bounds the base of a window (R78) and of a fragment (R84). -/

namespace Sys2Proof.Machine

theorem lowBit_eq (n : Nat) : lowBit n = Nat.log2 (n ^^^ (n - 1)) := rfl

theorem xor_eq_two_mul_add (a b : Nat) : a ^^^ b = 2 * (a / 2 ^^^ b / 2) + (a + b) % 2 := by
  rw [← Nat.xor_div_two, ← Nat.xor_mod_two_eq, Nat.div_add_mod]

theorem lowBit_two_mul_add_one (m : Nat) : lowBit (2 * m + 1) = 0 := by
  have low : (2 * m + 1) ^^^ (2 * m) = 1 := by
    rw [xor_eq_two_mul_add, show (2 * m + 1) / 2 = 2 * m / 2 by omega, Nat.xor_self]
    omega
  rw [lowBit_eq, Nat.add_sub_cancel, low]
  exact Nat.log2_two_pow (n := 0)

theorem lowBit_two_mul {m : Nat} (h : m ≠ 0) : lowBit (2 * m) = lowBit m + 1 := by
  have low : (2 * m) ^^^ (2 * m - 1) = 2 * (m ^^^ (m - 1)) + 1 := by
    rw [xor_eq_two_mul_add, show 2 * m / 2 = m by omega, show (2 * m - 1) / 2 = m - 1 by omega]
    omega
  have ne : m ^^^ (m - 1) ≠ 0 := fun h0 => by
    have := Nat.xor_eq_zero_iff.mp h0
    omega
  rw [lowBit_eq, lowBit_eq, low, Nat.log2_def, if_pos (by omega), show (2 * (m ^^^ (m - 1)) + 1) / 2 = m ^^^ (m - 1) by omega]

theorem two_pow_dvd_iff_le_lowBit {n : Nat} (h : n ≠ 0) (b : Nat) : 2 ^ b ∣ n ↔ b ≤ lowBit n := by
  induction b generalizing n with
  | zero => simp
  | succ b ih =>
    obtain ⟨m, rfl | rfl⟩ := Nat.even_or_odd' n
    · have hm : m ≠ 0 := by omega
      rw [lowBit_two_mul hm, Nat.add_le_add_iff_right, ← ih hm, Nat.pow_succ', Nat.mul_dvd_mul_iff_left Nat.two_pos]
    · have odd : ¬ 2 ^ (b + 1) ∣ 2 * m + 1 := fun hd => by
        have := (Dvd.intro _ (Nat.pow_succ' (m := 2) (n := b)).symm).trans hd
        omega
      simp [lowBit_two_mul_add_one, odd]

/-- The low `b` bits of a number whose magnitude ends in them are zero. -/
theorem two_pow_dvd_of_le_lowBit {n : Int} (h : n ≠ 0) {b : Nat} (hb : b ≤ lowBit n.natAbs) : ((2 ^ b : Nat) : Int) ∣ n :=
  Int.natCast_dvd.mpr ((two_pow_dvd_iff_le_lowBit (Int.natAbs_ne_zero.mpr h) b).mpr hb)

end Sys2Proof.Machine
end

section
/-! The matrix-engine window (R77 … R82): a window and its slot together hold the exact sum, whether or not a term spills. -/

namespace Sys2Proof.Machine

/-! ## The base of a window -/

/-- A value that fits at a base is a multiple of the base's weight. -/
theorem two_pow_dvd_of_fitsAt {p : Int} {b : Nat} (h : fitsAt p b = true) : ((2 ^ b : Nat) : Int) ∣ p := by
  simp only [fitsAt, Bool.and_eq_true, decide_eq_true_eq] at h
  exact Int.dvd_of_emod_eq_zero h.1.1

/-- Case 2 of R78 chooses a base at which the value loses no bit. -/
theorem two_pow_dvd_of_chooseBase {p : Int} {b : Nat} (h : chooseBase p = some b) : ((2 ^ b : Nat) : Int) ∣ p := by
  unfold chooseBase at h
  split at h
  next hp => exact hp ▸ Int.dvd_zero _
  next hp =>
    dsimp only at h
    split at h
    next hlo =>
      cases h
      exact two_pow_dvd_of_le_lowBit hp (hlo.trans (Nat.min_le_left _ _))
    next =>
      split at h
      next hfit =>
        cases h
        exact two_pow_dvd_of_fitsAt hfit
      next => cases h

/-- The base of a window set to one term loses no bit of it, also of a value of no base, which is held at base 0. -/
theorem two_pow_dvd_chooseBase_getD (p : Int) : ((2 ^ (chooseBase p).getD 0 : Nat) : Int) ∣ p := by
  cases h : chooseBase p with
  | none => exact Int.one_dvd p
  | some b => exact two_pow_dvd_of_chooseBase h

/-! ## A term arrives -/

theorem windowInt_mk_ediv {p : Int} {b : Nat} (h : ((2 ^ b : Nat) : Int) ∣ p) (nan pinf ninf : Bool) :
    windowInt ⟨p / ((2 ^ b : Nat) : Int), b, nan, pinf, ninf⟩ = p :=
  Int.ediv_mul_cancel h

/-- R78, R79: the window after a finite term and what spilled hold together what the window held and the term. -/
theorem windowInt_windowAdd_fin (w : Window) (x : Ex) :
    (windowAdd w (.fin x)).2.getD 0 + windowInt (windowAdd w (.fin x)).1 = windowInt w + termInt x := by
  simp only [windowAdd]
  split
  next hfit => rw [windowInt_mk_ediv (two_pow_dvd_of_fitsAt hfit), Option.getD_none, Int.zero_add]
  next =>
    split
    next b hb => rw [windowInt_mk_ediv (two_pow_dvd_of_chooseBase hb), Option.getD_none, Int.zero_add]
    next => rw [windowInt_mk_ediv (two_pow_dvd_chooseBase_getD _), Option.getD_some]

theorem windowAdd_fin_flags (w : Window) (x : Ex) :
    (windowAdd w (.fin x)).1.nan = w.nan ∧ (windowAdd w (.fin x)).1.pinf = w.pinf ∧ (windowAdd w (.fin x)).1.ninf = w.ninf := by
  simp only [windowAdd]
  split
  · exact ⟨rfl, rfl, rfl⟩
  · split <;> exact ⟨rfl, rfl, rfl⟩

/-- The value and the flags of a window as a peat word. -/
def windowPeat (w : Window) : Peat := ⟨BitVec.ofInt 640 (windowInt w), w.nan, w.pinf, w.ninf⟩

/-- R78, R79: what spilled and the window after a term are together the window before it and the term. -/
theorem peatAdd_spill_windowPeat (w : Window) (v : Val) :
    peatAdd (peatOfInt ((windowAdd w v).2.getD 0)) (windowPeat (windowAdd w v).1) = peatAddTerm (windowPeat w) v := by
  cases v with
  | nan sig => simp [windowAdd, peatAddTerm_nan, peatAdd, peatOfInt, windowPeat, windowInt]
  | inf neg => cases neg <;> simp [windowAdd, peatAddTerm_inf, peatAdd, peatOfInt, windowPeat, windowInt]
  | fin x =>
    obtain ⟨hnan, hpinf, hninf⟩ := windowAdd_fin_flags w x
    simp only [peatAddTerm_fin, peatAdd, peatOfInt, windowPeat, ← BitVec.ofInt_add, windowInt_windowAdd_fin, hnan, hpinf, hninf,
      Bool.or_false, Bool.false_or]

/-! ## A window with its slot -/

/-- A slot of the peat store after a spill, if there is one (R79). -/
def spillInto (slot : Peat) : Option Int → Peat
  | some i => peatAdd slot ⟨BitVec.ofInt 640 i, false, false, false⟩
  | none => slot

theorem spillInto_eq_peatAdd (slot : Peat) (o : Option Int) : spillInto slot o = peatAdd slot (peatOfInt (o.getD 0)) := by
  cases o with
  | none => simp [spillInto, peatAdd, peatOfInt]
  | some i => rfl

/-- One term at a window and its slot (R78, R79). -/
def windowStep (a : Window × Peat) (v : Val) : Window × Peat := ((windowAdd a.1 v).1, spillInto a.2 (windowAdd a.1 v).2)

/-- Whether a term spills changes no result (R82): one term. -/
theorem windowPlusSlot_windowStep (a : Window × Peat) (v : Val) :
    windowPlusSlot (windowStep a v).1 (windowStep a v).2 = peatAddTerm (windowPlusSlot a.1 a.2) v :=
  calc peatAdd (spillInto a.2 (windowAdd a.1 v).2) (windowPeat (windowAdd a.1 v).1)
    _ = peatAdd a.2 (peatAdd (peatOfInt ((windowAdd a.1 v).2.getD 0)) (windowPeat (windowAdd a.1 v).1)) := by
      rw [spillInto_eq_peatAdd, peatAdd_assoc]
    _ = peatAddTerm (peatAdd a.2 (windowPeat a.1)) v := by
      rw [peatAdd_spill_windowPeat, peatAdd_peatAddTerm]

theorem windowPlusSlot_foldl_windowStep (l : List Val) (a : Window × Peat) :
    windowPlusSlot (l.foldl windowStep a).1 (l.foldl windowStep a).2 = l.foldl peatAddTerm (windowPlusSlot a.1 a.2) := by
  induction l generalizing a with
  | nil => rfl
  | cons v l ih => rw [List.foldl_cons, ih, windowPlusSlot_windowStep, List.foldl_cons]

/-- Settles O9: each step keeps the sum of window and slot exact. -/
theorem windowSumsAreExact : Obligations.WindowSumsAreExact :=
  fun l w slot => windowPlusSlot_foldl_windowStep l (w, slot)

end Sys2Proof.Machine
end

section
/-! The stored form of a peat word (R67): N below the three flags, and both read back. -/

namespace Sys2Proof

/-- Byte `k` of the bytes of a number holds its bits 8k to 8k + 7. -/
theorem getElem?_natLe {n k : Nat} (h : k < n) (x : Nat) : (natLe n x)[k]? = some (BitVec.ofNat 8 (x / 2 ^ (8 * k))) := by
  induction n generalizing k x with
  | zero => exact absurd h (Nat.not_lt_zero k)
  | succ n ih =>
    cases k with
    | zero => simp [natLe]
    | succ k =>
      have : x / 256 / 2 ^ (8 * k) = x / 2 ^ (8 * (k + 1)) := by
        rw [Nat.div_div_eq_div_mul, Nat.mul_succ, Nat.pow_add, Nat.mul_comm]
      rw [natLe, List.getElem?_cons_succ, ih (Nat.lt_of_succ_lt_succ h), this]

/-- Only the low `w` bits of a number are read. -/
theorem toSigned_mod (w n : Nat) : toSigned w (n % 2 ^ w) = toSigned w n := by
  simp only [toSigned, Nat.mod_mod]

/-! ## A number as a field of `i` bits and what stands above it -/

theorem field_mod {a i : Nat} (ha : a < 2 ^ i) (b : Nat) : (a + 2 ^ i * b) % 2 ^ i = a := by
  rw [Nat.add_mul_mod_self_left, Nat.mod_eq_of_lt ha]

theorem field_div {a i : Nat} (ha : a < 2 ^ i) (b : Nat) : (a + 2 ^ i * b) / 2 ^ i = b := by
  rw [Nat.add_mul_div_left _ _ (Nat.two_pow_pos i), Nat.div_eq_of_lt ha, Nat.zero_add]

theorem field_lt {a b i j : Nat} (ha : a < 2 ^ i) (hb : b < 2 ^ j) : a + 2 ^ i * b < 2 ^ (i + j) := by
  rw [Nat.pow_add, Nat.mul_comm (2 ^ i) (2 ^ j), ← Nat.div_lt_iff_lt_mul (Nat.two_pow_pos i), field_div ha]
  exact hb

theorem bitAt_add (n i j : Nat) : bitAt n (i + j) = bitAt (n / 2 ^ i) j := by
  rw [bitAt, bitAt, Nat.pow_add, Nat.div_div_eq_div_mul]

theorem bits_add (n i hi lo : Nat) : bits n (i + hi) (i + lo) = bits (n / 2 ^ i) hi lo := by
  rw [bits, bits, Nat.pow_add, Nat.div_div_eq_div_mul, Nat.add_assoc, Nat.add_sub_add_left]

end Sys2Proof

namespace Sys2Proof.Machine

/-! ## The flags -/

/-- NAN, PINF and NINF in this order, as they stand in a stored word (Table 3-1) and in a fragment (Table 3-8). -/
def flagBits (nan pinf ninf : Bool) : Nat := (if nan then 1 else 0) + (if pinf then 2 else 0) + (if ninf then 4 else 0)

theorem flagBits_lt : ∀ nan pinf ninf, flagBits nan pinf ninf < 8 := by decide

theorem bitAt_flagBits : ∀ nan pinf ninf, bitAt (flagBits nan pinf ninf) 0 = nan ∧ bitAt (flagBits nan pinf ninf) 1 = pinf ∧
    bitAt (flagBits nan pinf ninf) 2 = ninf := by decide

/-- The flags at bit `k` and above. -/
theorem two_pow_mul_flagBits (k : Nat) (nan pinf ninf : Bool) : 2 ^ k * flagBits nan pinf ninf =
    (if nan then 2 ^ k else 0) + (if pinf then 2 ^ (k + 1) else 0) + (if ninf then 2 ^ (k + 2) else 0) := by
  simp [flagBits, Nat.mul_add, Nat.pow_succ, Nat.mul_assoc]

/-! ## The stored word -/

/-- The number that the 96 bytes of a word hold (Table 3-1). -/
def storedNat (p : Peat) : Nat := p.n.toNat + 2 ^ 640 * flagBits p.nan p.pinf p.ninf

theorem peatBytes_eq (p : Peat) : peatBytes p = natLe 96 (storedNat p) := by
  rw [peatBytes, storedNat, two_pow_mul_flagBits, ← Nat.add_assoc, ← Nat.add_assoc]

theorem storedNat_lt (p : Peat) : storedNat p < 256 ^ 96 :=
  calc storedNat p
    _ < 2 ^ (640 + 128) := field_lt p.n.isLt ((flagBits_lt _ _ _).trans (by decide))
    _ = 256 ^ 96 := Nat.pow_mul 2 8 96

theorem peatOfNat_storedNat (p : Peat) : peatOfNat (storedNat p) = p := by
  have low : BitVec.ofNat 640 (storedNat p) = p.n := BitVec.eq_of_toNat_eq (field_mod p.n.isLt _)
  obtain ⟨hnan, hpinf, hninf⟩ := bitAt_flagBits p.nan p.pinf p.ninf
  rw [peatOfNat, low, bitAt_add _ 640 0, bitAt_add _ 640 1, bitAt_add _ 640 2, storedNat, field_div p.n.isLt, hnan, hpinf, hninf]

/-- Settles O7: the bytes are those of one number, of which N and the flags are fields. -/
theorem peatWordStored : Obligations.PeatWordStored := by
  intro p
  refine ⟨?_, ?_, ?_⟩
  · rw [peatBytes_eq, length_natLe]
  · intro k hk
    rw [peatBytes_eq]
    exact getElem?_natLe hk _
  · rw [peatOfBytes, peatBytes_eq, List.take_of_length_le (length_natLe _ _).le, leNat_natLe, Nat.mod_eq_of_lt (storedNat_lt p),
      peatOfNat_storedNat]

end Sys2Proof.Machine
end

section
/-! Peat fragments (R83 … R86): when a word fits a SPAN fragment, and what is read back of the two forms. -/

namespace Sys2Proof.Machine

/-! ## The base of a fragment -/

/-- The lowest base at which the magnitude of a non-zero N is within the 192 bits of a span, its low bits set aside. -/
def spanBase (n : Int) : Nat :=
  Nat.log2 n.natAbs + 1 - (if n < 0 ∧ n.natAbs = 2 ^ Nat.log2 n.natAbs then 192 else 191)

/-- R84: N is S · 2^b for a span S of 192 bits. -/
def SpansAt (n : Int) (b : Nat) : Prop :=
  ((2 ^ b : Nat) : Int) ∣ n ∧ -(2 ^ 191 : Int) ≤ n / ((2 ^ b : Nat) : Int) ∧ n / ((2 ^ b : Nat) : Int) < (2 ^ 191 : Int)

theorem fragBase_of_ne_zero {n : Int} (h : n ≠ 0) :
    fragBase n = if spanBase n ≤ 448 ∧ spanBase n ≤ lowBit n.natAbs then some (spanBase n) else none := by
  simp [fragBase, spanBase, h]

/-- A magnitude of `2^k` is reached by the most negative number of a format alone. -/
theorem spanBase_le_iff {n : Int} (h : n ≠ 0) (b : Nat) :
    spanBase n ≤ b ↔ -(2 ^ (191 + b) : Nat) ≤ n ∧ n < (2 ^ (191 + b) : Nat) := by
  have ha : n.natAbs ≠ 0 := Int.natAbs_ne_zero.mpr h
  have lt : n.natAbs < 2 ^ (191 + b) ↔ Nat.log2 n.natAbs < 191 + b := (Nat.log2_lt ha).symm
  unfold spanBase
  split
  next hp =>
    obtain ⟨hneg, hpow⟩ := hp
    have le : n.natAbs ≤ 2 ^ (191 + b) ↔ Nat.log2 n.natAbs ≤ 191 + b := by
      conv_lhs => rw [hpow]
      exact Nat.pow_le_pow_iff_right (by decide)
    omega
  next hp =>
    have ne : n < 0 → n.natAbs ≠ 2 ^ (191 + b) := fun hneg e => hp ⟨hneg, by rw [e, Nat.log2_two_pow]⟩
    omega

theorem spansAt_iff {n : Int} (h : n ≠ 0) (b : Nat) : SpansAt n b ↔ b ≤ lowBit n.natAbs ∧ spanBase n ≤ b := by
  have hb : (0 : Int) < ((2 ^ b : Nat) : Int) := by positivity
  have hpow : ((2 ^ (191 + b) : Nat) : Int) = (2 ^ 191 : Int) * ((2 ^ b : Nat) : Int) := by
    push_cast
    exact pow_add _ _ _
  rw [spanBase_le_iff h, hpow, ← neg_mul, ← two_pow_dvd_iff_le_lowBit (Int.natAbs_ne_zero.mpr h), ← Int.natCast_dvd, SpansAt,
    Int.le_ediv_iff_mul_le hb, Int.ediv_lt_iff_lt_mul hb]

/-- A word leaves as a SPAN fragment at a base at which it fits. -/
theorem spansAt_of_fragBase {n : Int} {b : Nat} (h : fragBase n = some b) : b ≤ 448 ∧ SpansAt n b := by
  by_cases hn : n = 0
  · subst hn
    cases h
    simp [SpansAt]
  · rw [fragBase_of_ne_zero hn] at h
    split at h
    next hb =>
      cases h
      exact ⟨hb.1, (spansAt_iff hn _).mpr ⟨hb.2, le_rfl⟩⟩
    next => cases h

/-- A word that fits at some base of a fragment leaves as a SPAN fragment. -/
theorem fragBase_isSome {n : Int} {b : Nat} (hb : b ≤ 448) (h : SpansAt n b) : (fragBase n).isSome = true := by
  by_cases hn : n = 0
  · subst hn
    rfl
  · obtain ⟨hlow, hspan⟩ := (spansAt_iff hn b).mp h
    rw [fragBase_of_ne_zero hn, if_pos ⟨hspan.trans hb, hspan.trans hlow⟩]
    rfl

/-! ## The fields of a fragment -/

/-- What stands above the span of a fragment: base, flags and form, the reserved bits 0 (Table 3-8). -/
def fragHead (form flags base : Nat) : Nat := base + 2 ^ 10 * (flags + 2 ^ 50 * form)

theorem fragHead_lt {form flags base : Nat} (hform : form < 16) (hflags : flags < 8) (hbase : base < 2 ^ 10) :
    fragHead form flags base < 2 ^ 64 := by
  unfold fragHead
  omega

theorem bits_fragHead_base {base : Nat} (hbase : base < 2 ^ 10) (form flags : Nat) : bits (fragHead form flags base) 9 0 = base := by
  rw [bits, Nat.pow_zero, Nat.div_one]
  exact field_mod hbase _

theorem bits_fragHead_form {form flags base : Nat} (hform : form < 16) (hflags : flags < 8) (hbase : base < 2 ^ 10) :
    bits (fragHead form flags base) 63 60 = form := by
  simp only [bits, fragHead]
  omega

/-- The flags stand below reserved bits that no flag reads. -/
theorem bitAt_flags_add (flags form : Nat) {i : Nat} (hi : i < 3) : bitAt (flags + 2 ^ 50 * form) i = bitAt flags i := by
  unfold bitAt
  interval_cases i <;> congr 1 <;> omega

/-- The number of a fragment (Table 3-8). -/
def fragNat (form flags base span : Nat) : Nat := span + 2 ^ 192 * fragHead form flags base

theorem toNat_ofNat_fragNat {form flags base span : Nat} (hform : form < 16) (hflags : flags < 8) (hbase : base < 2 ^ 10)
    (hspan : span < 2 ^ 192) : (BitVec.ofNat 256 (fragNat form flags base span)).toNat = fragNat form flags base span :=
  Nat.mod_eq_of_lt (field_lt hspan (fragHead_lt hform hflags hbase))

theorem bits_fragNat_base {base span : Nat} (hbase : base < 2 ^ 10) (hspan : span < 2 ^ 192) (form flags : Nat) :
    bits (fragNat form flags base span) 201 192 = base := by
  rw [bits_add _ 192 9 0, fragNat, field_div hspan, bits_fragHead_base hbase]

theorem bits_fragNat_form {form flags base span : Nat} (hform : form < 16) (hflags : flags < 8) (hbase : base < 2 ^ 10)
    (hspan : span < 2 ^ 192) : bits (fragNat form flags base span) 255 252 = form := by
  rw [bits_add _ 192 63 60, fragNat, field_div hspan, bits_fragHead_form hform hflags hbase]

theorem bitAt_fragNat_flags {base span : Nat} (hbase : base < 2 ^ 10) (hspan : span < 2 ^ 192) (form flags : Nat) {i : Nat}
    (hi : i < 3) : bitAt (fragNat form flags base span) (192 + (10 + i)) = bitAt flags i := by
  rw [bitAt_add, fragNat, field_div hspan, bitAt_add, fragHead, field_div hbase, bitAt_flags_add _ _ hi]

theorem fragNat_mod {span : Nat} (hspan : span < 2 ^ 192) (form flags base : Nat) : fragNat form flags base span % 2 ^ 192 = span :=
  field_mod hspan _

/-! ## Encoding and decoding -/

theorem fragFlags_eq (p : Peat) : fragFlags p = 2 ^ 202 * flagBits p.nan p.pinf p.ninf :=
  (two_pow_mul_flagBits 202 p.nan p.pinf p.ninf).symm

theorem fragNat_eq (p : Peat) (form base span : Nat) :
    form * 2 ^ 252 + fragFlags p + base * 2 ^ 192 + span = fragNat form (flagBits p.nan p.pinf p.ninf) base span := by
  rw [fragFlags_eq, fragNat, fragHead]
  ring

theorem fragEncode_of_some {p : Peat} {b : Nat} (h : fragBase (peatInt p) = some b) (o : Nat) : fragEncode p o =
    (BitVec.ofNat 256 (fragNat 1 (flagBits p.nan p.pinf p.ninf) b (ofSigned 192 (peatInt p / ((2 ^ b : Nat) : Int)))), false) := by
  rw [← fragNat_eq, Nat.one_mul]
  unfold fragEncode
  rw [h]

theorem fragEncode_of_none {p : Peat} (h : fragBase (peatInt p) = none) (o : Nat) : fragEncode p o =
    (BitVec.ofNat 256 (fragNat 2 (flagBits p.nan p.pinf p.ninf) 0 (o % 2 ^ 32)), true) := by
  rw [← fragNat_eq, Nat.zero_mul, Nat.add_zero]
  unfold fragEncode
  rw [h]

theorem fragDecode_of_form_span {f : BitVec 256} (hb : bits f.toNat 201 192 ≤ 448) (hf : bits f.toNat 255 252 = 1) :
    fragDecode f = .span ⟨BitVec.ofInt 640 (toSigned 192 f.toNat * ((2 ^ bits f.toNat 201 192 : Nat) : Int)),
      bitAt f.toNat 202, bitAt f.toNat 203, bitAt f.toNat 204⟩ := by
  unfold fragDecode
  simp only [if_neg (Nat.not_lt.mpr hb), hf]

theorem fragDecode_of_form_full {f : BitVec 256} (hb : bits f.toNat 201 192 ≤ 448) (hf : bits f.toNat 255 252 = 2) :
    fragDecode f = .full (bits f.toNat 31 0) := by
  unfold fragDecode
  simp only [if_neg (Nat.not_lt.mpr hb), hf]

theorem fragDecode_of_base_gt {f : BitVec 256} (hb : 448 < bits f.toNat 201 192) : fragDecode f = .corrupt :=
  if_pos hb

theorem fragDecode_of_form_reserved {f : BitVec 256} (h1 : bits f.toNat 255 252 ≠ 1) (h2 : bits f.toNat 255 252 ≠ 2) :
    fragDecode f = .corrupt := by
  unfold fragDecode
  dsimp only
  split
  · rfl
  · split
    · contradiction
    · contradiction
    · rfl

/-! ## A word read back -/

/-- R83, R86: a SPAN fragment is read as its span at its base, with its flags. -/
theorem fragDecode_fragNat_span {b span : Nat} (hb : b ≤ 448) (hspan : span < 2 ^ 192) (nan pinf ninf : Bool) :
    fragDecode (BitVec.ofNat 256 (fragNat 1 (flagBits nan pinf ninf) b span)) =
      .span ⟨BitVec.ofInt 640 (toSigned 192 span * ((2 ^ b : Nat) : Int)), nan, pinf, ninf⟩ := by
  have hb' : b < 2 ^ 10 := by omega
  have hfl := flagBits_lt nan pinf ninf
  have num := toNat_ofNat_fragNat (form := 1) (by decide) hfl hb' hspan
  have base := bits_fragNat_base hb' hspan 1 (flagBits nan pinf ninf)
  have form := bits_fragNat_form (form := 1) (by decide) hfl hb' hspan
  have flag {i : Nat} (hi : i < 3) := bitAt_fragNat_flags hb' hspan 1 (flagBits nan pinf ninf) hi
  obtain ⟨hnan, hpinf, hninf⟩ := bitAt_flagBits nan pinf ninf
  have signed : toSigned 192 (fragNat 1 (flagBits nan pinf ninf) b span) = toSigned 192 span := by
    rw [← toSigned_mod, fragNat_mod hspan]
  rw [fragDecode_of_form_span (by rw [num, base]; exact hb) (by rw [num, form]), num, base, signed, flag (i := 0) (by decide),
    flag (i := 1) (by decide), flag (i := 2) (by decide), hnan, hpinf, hninf]

/-- R85: a FULL fragment is read as its ordinal. -/
theorem fragDecode_fragNat_full (o flags : Nat) (hflags : flags < 8) :
    fragDecode (BitVec.ofNat 256 (fragNat 2 flags 0 (o % 2 ^ 32))) = .full (o % 2 ^ 32) := by
  have hspan : o % 2 ^ 32 < 2 ^ 192 := (Nat.mod_lt _ (by decide)).trans (by decide)
  have num := toNat_ofNat_fragNat (form := 2) (base := 0) (by decide) hflags (by decide) hspan
  have base := bits_fragNat_base (base := 0) (by decide) hspan 2 flags
  have form := bits_fragNat_form (form := 2) (base := 0) (by decide) hflags (by decide) hspan
  have ordinal : bits (fragNat 2 flags 0 (o % 2 ^ 32)) 31 0 = o % 2 ^ 32 := by
    have low : (2 ^ 32 : Nat) ∣ 2 ^ 192 := Nat.pow_dvd_pow 2 (by decide)
    rw [bits, Nat.pow_zero, Nat.div_one, ← Nat.mod_mod_of_dvd _ low, fragNat_mod hspan, Nat.mod_mod]
  rw [fragDecode_of_form_full (by rw [num, base]; decide) (by rw [num, form]), num, ordinal]

/-- The span at the base of a fragment is N. -/
theorem toSigned_span_mul {n : Int} {b : Nat} (h : SpansAt n b) :
    toSigned 192 (ofSigned 192 (n / ((2 ^ b : Nat) : Int))) * ((2 ^ b : Nat) : Int) = n := by
  obtain ⟨hd, lo, hi⟩ := h
  rw [toSigned_ofSigned (by decide) lo hi, Int.ediv_mul_cancel hd]

theorem fragDecode_fragEncode (p : Peat) (o : Nat) :
    fragDecode (fragEncode p o).1 = if (fragEncode p o).2 then .full (o % 2 ^ 32) else .span p := by
  cases h : fragBase (peatInt p) with
  | none => rw [fragEncode_of_none h, fragDecode_fragNat_full _ _ (flagBits_lt _ _ _), if_pos rfl]
  | some b =>
    obtain ⟨hb, hs⟩ := spansAt_of_fragBase h
    rw [fragEncode_of_some h, fragDecode_fragNat_span hb (ofSigned_lt_two_pow _ _), toSigned_span_mul hs, peatInt, BitVec.ofInt_toInt]
    rfl

/-- A span of 192 bits at a base of a fragment is in the range of N (R65). -/
theorem peatInt_of_span {p : Peat} {i : Int} {b : Nat} (hb : b ≤ 448) (lo : -(2 ^ 191 : Int) ≤ i) (hi : i < (2 ^ 191 : Int))
    (h : p.n = BitVec.ofInt 640 (i * (2 ^ b : Int))) : peatInt p = i * (2 ^ b : Int) := by
  have pos : (0 : Int) < 2 ^ b := by positivity
  have top : (2 ^ 191 : Int) * 2 ^ b ≤ 2 ^ (640 - 1) := by
    rw [← pow_add]
    exact pow_le_pow_right₀ (by decide) (by omega)
  have lo' : -(2 ^ 191 : Int) * 2 ^ b ≤ i * 2 ^ b := Int.mul_le_mul_of_nonneg_right lo pos.le
  have hi' : i * 2 ^ b < (2 ^ 191 : Int) * 2 ^ b := Int.mul_lt_mul_of_pos_right hi pos
  rw [neg_mul] at lo'
  rw [peatInt, h]
  exact BitVec.toInt_ofInt_eq_self (by decide) ((neg_le_neg top).trans lo') (hi'.trans_le top)

theorem fragEncode_fits {p : Peat} {i : Int} {b : Nat} (o : Nat) (hb : b ≤ 448) (lo : -(2 ^ 191 : Int) ≤ i) (hi : i < (2 ^ 191 : Int))
    (h : p.n = BitVec.ofInt 640 (i * (2 ^ b : Int))) : (fragEncode p o).2 = false := by
  have hs : SpansAt (peatInt p) b := by
    rw [peatInt_of_span hb lo hi h, SpansAt]
    push_cast
    rw [Int.mul_ediv_cancel _ (by positivity)]
    exact ⟨Int.dvd_mul_left _ _, lo, hi⟩
  obtain ⟨c, hc⟩ := Option.isSome_iff_exists.mp (fragBase_isSome hb hs)
  rw [fragEncode_of_some hc]

/-- Settles O10: N of a SPAN fragment is its span at a base at which it fits, and every N that fits has such a base. -/
theorem fragmentsKeepWords : Obligations.FragmentsKeepWords :=
  ⟨fragDecode_fragEncode, fun _ o _ _ hb lo hi h => fragEncode_fits o hb lo hi h, fun _ h1 h2 => fragDecode_of_form_reserved h1 h2,
    fun _ _ hb => fragDecode_of_base_gt hb⟩

end Sys2Proof.Machine
end

section
/-! Built-in operations and queries (R111, R276, R286, R524): the command of every operation is one step with the operation as its
parameter, and every query is one step with the answer as its parameter. -/

namespace Sys2Proof.Machine

open Sys2Proof

/-! ## Built-in operations -/

/-- A command of the operation catalogue is the step of its operation. -/
theorem exec_of_mem_opRows {v : VDev} {q : OpAt} {i : Instr} {k : OpK} (h : (i, k) ∈ opRows v q) (s : State) :
    exec i s = .next (after s (opStep k (runOp k) v.val q (work s))) :=
  have rows : (opRows v q).map (fun r => exec r.1 s) = (opRows v q).map (fun r => runMem (opStep r.2 (runOp r.2) v.val q) s) := rfl
  List.map_inj_left.mp rows (i, k) h

/-- With no parity error the step is the operation alone. -/
theorem exec_of_mem_opRows_good {v : VDev} {q : QId} {i : Instr} {k : OpK} (h : (i, k) ∈ opRows v (.good q)) (s : State) :
    exec i s = .next (after s (runOp k v.val q.val (work s))) :=
  exec_of_mem_opRows h s

theorem opStep_of_not_running {k : OpK} {v : Nat} {q : OpAt} {w : Wk} (h : runningOp w.dev v q.q.val k = none) (go : Nat → Nat → Wk → Wk) :
    opStep k go v q w = go v q.q.val w := by
  unfold opStep
  rw [h]
  split
  next hr => cases hr
  next => rfl

section
/-! Where a parity error of a running operation is met. -/

variable {k : OpK} {v : Nat} {q : QId} {w : Wk} {x : Queue} {c : Cmd} (h : runningOp w.dev v q.val k = some (x, c))
  (go : Nat → Nat → Wk → Wk) {n : CoreId}

include h

theorem opStep_of_other_core (hn : c.cores.contains n.val = false) (m : CoreMem) : opStep k go v ⟨q, some (n, m)⟩ w = go v q.val w := by
  simp only [opStep, h, hn, Bool.not_false, if_true]

theorem opStep_of_line (hn : c.cores.contains n.val = true) (va : Nat) (f : ReadFault) :
    opStep k go v ⟨q, some (n, .line va f)⟩ w = go v q.val (meetRead (.mover n.val) v (some (va, f)) (inputSpans c.block) w) := by
  simp only [opStep, h, hn, Bool.not_true, Bool.false_eq_true, if_false]

theorem opStep_of_shadow (hn : c.cores.contains n.val = true) (off : Nat) :
    opStep k go v ⟨q, some (n, .shadow off)⟩ w = go v q.val (w.on (shadowError n.val)) := by
  simp only [opStep, h, hn, Bool.not_true, Bool.false_eq_true, if_false]

theorem opStep_of_memory (hn : c.cores.contains n.val = true) {m : CoreMem} (hl : ∀ va f, m ≠ .line va f) (hs : ∀ off, m ≠ .shadow off) :
    opStep k go v ⟨q, some (n, m)⟩ w = replayCmd v q.val [n.val] (w.on (parityEvent n.val (coreMemPlace m))) := by
  simp only [opStep, h, hn, Bool.not_true, Bool.false_eq_true, if_false]

end

theorem runOp_of_not_running {k : OpK} {v q : Nat} {w : Wk} (h : runningOp w.dev v q k = none) : runOp k v q w = w := by
  simp only [runOp, h]

/-- An operation whose inputs cannot be read stalls. -/
theorem runOp_of_input_error {k : OpK} {v q : Nat} {w : Wk} {x : Queue} {c : Cmd} {e : Acc} (h : runningOp w.dev v q k = some (x, c))
    (hin : inputData c.mover w v c.block = .error e) : runOp k v q w = stallCmd c.mover v q x c 1 e w := by
  simp only [runOp, h, hin]

theorem runOp_of_input {k : OpK} {v q : Nat} {w : Wk} {x : Queue} {c : Cmd} {ds : List Data} (h : runningOp w.dev v q k = some (x, c))
    (hin : inputData c.mover w v c.block = .ok ds) :
    runOp k v q w = finishOp v q x c (writeOuts c.block c.key (evalOp k c.block c.key ds)).1
      (writeOuts c.block c.key (evalOp k c.block c.key ds)).2 w := by
  simp only [runOp, h, hin]

theorem finishOp_of_badRun {v q : Nat} {x : Queue} {c : Cmd} {ws : Writes} {w : Wk} {e : Acc}
    (h : badRun c.mover w.dev v (runsOf ws) = some e) (fl : FlagWord) : finishOp v q x c ws fl w = stallCmd c.mover v q x c 2 e w := by
  simp only [finishOp, h]

/-- An operation whose outputs can all be written has executed. -/
theorem finishOp_of_writable {v q : Nat} {x : Queue} {c : Cmd} {ws : Writes} {w : Wk} (h : badRun c.mover w.dev v (runsOf ws) = none)
    (fl : FlagWord) :
    finishOp v q x c ws fl w =
      (writeRuns c.mover v (jkey x c) (runsOf ws) (w.on (readFor c.context c.mover v needR (inputSpans c.block)))).on fun d =>
        dropHostBuf v (wroteFor c.context c.mover v ((runsOf ws).map fun r => (r.1, r.2.length))
          (d.draw.2.onCur v q fun c => { c with flags := c.flags ||| fl, phase := .executed })) := by
  simp only [finishOp, h]

/-! ## NOP and queries -/

theorem cur?_of_queue? {d : Dev} {v q : Nat} {x : Queue} (h : d.queue? v q = some x) : d.cur? v q = x.cur := by
  rw [Dev.cur?, h, Option.bind_some]

/-- Changing the current command of a queue changes the virtual devices alone. -/
theorem onCur_frame (d : Dev) (v q : Nat) (f : Cmd → Cmd) : { d.onCur v q f with vds := d.vds } = d := by
  unfold Dev.onCur Dev.onQueue
  split <;> rfl

theorem doNop_frame (v q : Nat) (d : Dev) : { doNop v q d with vds := d.vds } = d := onCur_frame d v q _

theorem runQuery_of_badRun {code : Nat} {answer : Wk → Cmd → List Byte} {v q : Nat} {w : Wk} {x : Queue} {c : Cmd} {e : Acc}
    (hq : w.dev.queue? v q = some x) (hc : x.cur = some c) (hp : c.phase = .running) (hk : c.kind = 3) (hcode : fieldLe c.params 0 4 = code)
    (h : badRun (hubEng v) w.dev v [((c.outs.headD (0, 0)).1, answer w c)] = some e) :
    runQuery code answer v q w = stallCmd (hubEng v) v q x c 2 e w := by
  simp only [runQuery, hq, hc, hp, hk, hcode, beq_self_eq_true, Bool.and_self, Bool.not_true, Bool.false_eq_true, if_false, h]

theorem runQuery_of_writable {code : Nat} {answer : Wk → Cmd → List Byte} {v q : Nat} {w : Wk} {x : Queue} {c : Cmd}
    (hq : w.dev.queue? v q = some x) (hc : x.cur = some c) (hp : c.phase = .running) (hk : c.kind = 3) (hcode : fieldLe c.params 0 4 = code)
    (h : badRun (hubEng v) w.dev v [((c.outs.headD (0, 0)).1, answer w c)] = none) :
    runQuery code answer v q w =
      (writeRuns (hubEng v) v (jkey x c) [((c.outs.headD (0, 0)).1, answer w c)] w).on fun d =>
        (wroteFor c.context (hubEng v) v [((c.outs.headD (0, 0)).1, (answer w c).length)] d).onCur v q fun c => { c with phase := .executed } := by
  simp only [runQuery, hq, hc, hp, hk, hcode, beq_self_eq_true, Bool.and_self, Bool.not_true, Bool.false_eq_true, if_false, h]

/-- R201: the bytes that QUERY_DISTANCE answers. -/
def distanceAnswer (w : Wk) (_ : Cmd) : List Byte := distTable w.dev.net.retired ++ natLe 8 w.dev.net.gen.toNat

/-- R296: the bytes that USAGE_SELF answers. -/
def usageSelfAnswer (w : Wk) (c : Cmd) : List Byte := ((w.dev.ctx? c.context).map fun k => usageRecord w c.context k).getD []

/-- R296: the bytes that USAGE_ALL answers for a virtual device. -/
def usageAllAnswer (v : Nat) (w : Wk) (c : Cmd) : List Byte :=
  let held := w.dev.ctxs.filter fun k => k.2.vdev == v
  let live := held.filter fun k => !k.2.destroying
  let n := min held.length (((c.outs.headD (0, 0)).2 - 16) / 64)
  natLe 4 live.length ++ natLe 4 n ++ natLe 8 0 ++ (held.take n).flatMap fun k => usageRecord w k.1 k.2

theorem exec_queryDistance (v : VDev) (q : QId) (s : State) :
    exec (.queryDistance v q) s = .next (after s (runQuery 1 distanceAnswer v.val q.val (work s))) := rfl

theorem exec_usageSelf (v : VDev) (q : QId) (s : State) :
    exec (.usageSelf v q) s = .next (after s (runQuery 0x100 usageSelfAnswer v.val q.val (work s))) := by
  have answer : (fun (w : Wk) (c : Cmd) => match w.dev.ctx? c.context with
      | some k => usageRecord w c.context k
      | none => []) = usageSelfAnswer := by
    funext w c
    cases h : w.dev.ctx? c.context <;> simp [usageSelfAnswer, h]
  rw [← answer]
  rfl

theorem exec_nop (v : VDev) (q : QId) (s : State) : exec (.nop v q) s = .next { s with dev := doNop v.val q.val s.dev } := rfl

theorem exec_usageAll (v : VDev) (q : QId) (s : State) :
    exec (.usageAll v q) s = .next (after s (runQuery 0x101 (usageAllAnswer v.val) v.val q.val (work s))) := rfl

/-- R276: a query answers, or stalls where its answer cannot be written. -/
theorem exec_query_of_running {s : State} {v : VDev} {q : QId} {x : Queue} {c : Cmd} {i : Instr} {code : Nat}
    {answer : Wk → Cmd → List Byte} (hi : exec i s = .next (after s (runQuery code answer v.val q.val (work s))))
    (hq : s.dev.queue? v.val q.val = some x) (hc : x.cur = some c) (hp : c.phase = .running) (hk : c.kind = 3)
    (hcode : fieldLe c.params 0 4 = code) {bs : List Byte} (hb : bs = answer (work s) c) :
    let hub := hubEng v.val
    let out := (c.outs.headD (0, 0)).1
    match badRun hub s.dev v.val [(out, bs)] with
    | some e => exec i s = .next (after s (stallCmd hub v.val q.val x c 2 e (work s)))
    | none => exec i s = .next (after s ((writeRuns hub v.val (jkey x c) [(out, bs)] (work s)).on fun d =>
        (wroteFor c.context hub v.val [(out, bs.length)] d).onCur v.val q.val fun c => { c with phase := .executed })) := by
  subst hb
  dsimp only
  split
  next e he => rw [hi, runQuery_of_badRun (w := work s) hq hc hp hk hcode he]
  next hn => rw [hi, runQuery_of_writable (w := work s) hq hc hp hk hcode hn]

/-- Settles O18: the command of an operation is the step of that operation, the command of a query the step of its answer. -/
theorem operationsAndQueries : Obligations.OperationsAndQueries := by
  unfold Obligations.OperationsAndQueries
  refine ⟨?_, ?_, ?_, ?_⟩
  · intro s v q i k x c hi hr
    have run := exec_of_mem_opRows_good hi s
    cases hin : inputData c.mover (work s) v.val c.block with
    | error e => rw [run, runOp_of_input_error (w := work s) hr hin]
    | ok ds =>
      have ran := runOp_of_input (w := work s) hr hin
      dsimp only
      split
      next e he => rw [run, ran, finishOp_of_badRun (w := work s) he]
      next hn =>
        rw [run, ran, finishOp_of_writable (w := work s) hn]
        rfl
  · intro s v q i j k n m hi hj
    have met := exec_of_mem_opRows hi s
    have good := exec_of_mem_opRows_good hj s
    refine ⟨fun hr => ?_, fun x c hr => ⟨fun hn => ?_, fun hn hl hs => ?_, ?_, ?_⟩⟩
    · rw [met, opStep_of_not_running (q := ⟨q, some (n, m)⟩) (w := work s) hr, runOp_of_not_running (w := work s) hr]
      rfl
    · rw [met, good, opStep_of_other_core (w := work s) hr _ hn]
    · rw [met, opStep_of_memory (w := work s) hr _ hn hl hs]
    · rintro a hn rfl
      rw [met, opStep_of_shadow (w := work s) hr _ hn]
    · rintro va f hn rfl
      rw [met, opStep_of_line (w := work s) hr _ hn]
      rfl
  · intro s v q c hc hp hk
    refine ⟨_, exec_nop v q s, ?_, doNop_frame v.val q.val s.dev⟩
    simp [doNop, Dev.cur?_onCur_same, hc, hp, hk]
  · intro s v q x c i code bs hq hc hp hk hcode hmem
    simp only [List.mem_cons, List.not_mem_nil, or_false, Prod.mk.injEq] at hmem
    rcases hmem with ⟨rfl, hn, hb⟩ | ⟨rfl, hn, hb⟩ | ⟨rfl, hn, hb⟩
    · exact exec_query_of_running (exec_queryDistance v q s) hq hc hp hk (hcode.trans hn) hb
    · exact exec_query_of_running (exec_usageSelf v q s) hq hc hp hk (hcode.trans hn) hb
    · exact exec_query_of_running (exec_usageAll v q s) hq hc hp hk (hcode.trans hn) hb

end Sys2Proof.Machine
end

section
/-! What shared updates leave alone: a fold of updates keeps what each of them keeps, and an event, a notice, a shadow or a core that
leaves service changes its own part of the device. -/

namespace Sys2Proof

/-- A little-endian number is below the bound of its bytes. -/
theorem leNat_lt (bs : List Byte) : leNat bs < 256 ^ bs.length := by
  induction bs with
  | nil => exact Nat.one_pos
  | cons b bs ih =>
    rw [leNat, List.length_cons, Nat.pow_succ]
    have := b.isLt
    omega

theorem fieldLe_lt (bs : List Byte) (off n : Nat) : fieldLe bs off n < 256 ^ n :=
  (leNat_lt _).trans_le (Nat.pow_le_pow_right (by decide) (List.length_take_le n _))

end Sys2Proof

namespace Sys2Proof.Machine

open Sys2Proof

/-! ## Folds over lists of updates -/

/-- A fold of updates that keep a part of the state keeps it. -/
theorem foldl_keeps {α β γ : Type} (part : β → γ) {f : β → α → β} (h : ∀ b a, part (f b a) = part b) (l : List α) (b : β) :
    part (l.foldl f b) = part b :=
  List.foldlRecOn l f (motive := fun x => part x = part b) rfl fun x hx a _ => (h x a).trans hx

/-- What the update for a listed element brings about, and no update undoes, holds after the fold. -/
theorem foldl_of_mem {α β : Type} {l : List α} {a : α} (ha : a ∈ l) {f : β → α → β} (before after_ : β → Prop)
    (keep : ∀ b x, before b → before (f b x)) (bring : ∀ b, before b → after_ (f b a)) (hold : ∀ b x, after_ b → after_ (f b x))
    {b : β} (hb : before b) : after_ (l.foldl f b) := by
  obtain ⟨s, t, rfl⟩ := List.append_of_mem ha
  rw [List.foldl_append, List.foldl_cons]
  exact List.foldlRecOn t f (bring _ (List.foldlRecOn s f hb fun x hx y _ => keep x y hx)) fun x hx y _ => hold x y hx

/-! ## Events, shadows and cores -/

/-- An event for the managers of the object dictionary changes its notices alone. -/
theorem raiseOd_spec (kind obj : Nat) (detail : List Byte) (d : Dev) : ∃ o, raiseOd kind obj detail d = { d with od := o } := by
  refine List.foldlRecOn _ _ (motive := fun x : Dev => ∃ o, x = { d with od := o }) ⟨d.od, rfl⟩ ?_
  rintro _ ⟨o, rfl⟩ dest -
  split
  · exact ⟨_, rfl⟩
  · exact ⟨_, rfl⟩

theorem raiseOd_net (kind obj : Nat) (detail : List Byte) (d : Dev) : (raiseOd kind obj detail d).net = d.net := by
  rw [(raiseOd_spec ..).choose_spec]

theorem foldl_raiseSrc_spec {α : Type} (c i : α → Nat) (l : List α) (d : Dev) : ∃ e,
    l.foldl (fun d a => raiseSrc (c a) (i a) d) d = { d with evcs := e } := by
  refine List.foldlRecOn l _ (motive := fun x : Dev => ∃ e, x = { d with evcs := e }) ⟨d.evcs, rfl⟩ ?_
  rintro _ ⟨e, rfl⟩ a -
  exact ⟨_, rfl⟩

theorem members_congr {d e : Dev} (h : d.vds = e.vds) (g : Nat) (seq : BitVec 64) (p : Cmd → Bool) : d.members g seq p = e.members g seq p := by
  rw [Dev.members, Dev.members, h]

theorem cur?_congr {d e : Dev} (h : d.vds = e.vds) : d.cur? = e.cur? := by
  funext v q
  rw [Dev.cur?, Dev.cur?, Dev.queue?, Dev.queue?, Dev.vd, Dev.vd, h]

/-- A shadow discarded changes scheduling state alone. -/
theorem dropShadow_spec (n : Nat) (d : Dev) : ∃ x, dropShadow n d = { d with sched := x } := by
  unfold dropShadow
  split
  · exact ⟨d.sched, rfl⟩
  · exact ⟨_, rfl⟩

theorem dropShadows_spec (p : Nat → Nat → Bool) (d : Dev) : ∃ x, dropShadows p d = { d with sched := x } := by
  refine List.foldlRecOn _ _ (motive := fun e : Dev => ∃ x, e = { d with sched := x }) ⟨d.sched, rfl⟩ ?_
  rintro _ ⟨x, rfl⟩ n -
  obtain ⟨y, hy⟩ := dropShadow_spec n { d with sched := x }
  exact ⟨y, hy⟩

/-- A core that enters the sluice changes scheduling state alone. -/
theorem sluiceCore_spec (n : Nat) (d : Dev) : ∃ x, sluiceCore n d = { d with sched := x } := by
  unfold sluiceCore
  split <;> exact ⟨_, rfl⟩

theorem setCause_net (k : UnitKind) (n cause : Nat) (d : Dev) : (setCause k n cause d).net = d.net := by
  have told (e : Dev) : (if e.disputed k n then raiseOd 5 (unitWord k n) (natLe 4 cause)
      (raiseNotice noticeDispute ((e.boundTo k n).getD 0) [BitVec.ofNat 32 (unitWord k n), BitVec.ofNat 32 cause] e) else e).net = e.net := by
    split
    · exact raiseOd_net ..
    · rfl
  exact (told _).trans (by cases k <;> rfl)

theorem drainCore_net (n cause : Nat) (d : Dev) : (drainCore n cause d).net = d.net := by
  have sluiced (e : Dev) : (sluiceCore n (dropShadow n e)).net = e.net := by
    rw [(sluiceCore_spec ..).choose_spec, (dropShadow_spec ..).choose_spec]
  have zeroed (e : Dev) : (zeroCore n e).net = e.net := by
    rw [zeroCore, (dropShadow_spec ..).choose_spec]
    rfl
  have drains (e : Dev) : (setCause .core n cause (sluiceCore n (dropShadow n e))).net = e.net := (setCause_net ..).trans (sluiced e)
  have retires (e : Dev) : (setCause .core n cause (zeroCore n e)).net = e.net := (setCause_net ..).trans (zeroed e)
  unfold drainCore
  dsimp only
  split
  · exact drains _
  · exact retires _
  · exact retires _
  · exact retires _
  · rfl

end Sys2Proof.Machine
end

section
/-! Groups and collectives (R133, R134, R388, R389, R425): a group is joined and left by a request that is performed, a step of a
collective goes through the checks of its exchange, and a phase leaves its record. -/

namespace Sys2Proof.Machine

open Sys2Proof

/-! ## Requests that are performed -/

theorem firstStatus_eq_none {cs : List (Bool × Nat)} (h : ∀ c ∈ cs, c.1 = true) : firstStatus cs = none := by
  rw [firstStatus, Option.map_eq_none_iff, List.find?_eq_none]
  intro c hc
  simp [h c hc]

/-- What an accepted request that is performed leaves stands, but for the registers and rings of functions, notices, the journal and what
leaves. -/
theorem takeRequest_performed {w w' : Wk} {fn : Nat} {row : AdRow} {i : Nat} {bs : List Byte} (h : Accepted w.dev fn row i bs)
    {body : AdReq → Wk → Ans × Wk} {res : List Byte} (hb : body (headReq fn i bs) w = performed res w') : ∃ fns ns l fw out,
    takeRequest fn row body w = { w' with dev := { w'.dev with fns := fns, notices := ns, evcs := l, fw := fw, out := out } } := by
  obtain ⟨fns, ns, l, fw, out, hf⟩ := finish_spec (headReq fn i bs) (.done stOk 0 res) w'
  refine ⟨fns, ns, l, fw, out, ?_⟩
  rw [takeRequest_accepted h, hb, ← hf]
  rfl

/-! ## Groups (R388) -/

/-- The group that the arguments of JOIN_GROUP name. -/
def groupOfArgs (a : List Byte) : Group := ⟨BitVec.ofNat 32 (fieldLe a 0 4), fieldLe a 4 2, fieldLe a 6 2, BitVec.ofNat 64 (fieldLe a 8 8),
  [BitVec.ofNat 32 (fieldLe a 16 4), BitVec.ofNat 32 (fieldLe a 20 4)]⟩

/-- A device whose virtual device `fn` has joined a group. -/
def joinedGroup (fn : Nat) (g : Group) (d : Dev) : Dev := d.onVd fn fun x => { x with groups := x.groups ++ [g] }

theorem doJoinGroup_performed {r : AdReq} {w : Wk} {g : Group} (hg : groupOfArgs r.args = g) (hlow : 1 ≤ g.size) (hhigh : g.size ≤ 4096)
    (hrank : g.rank < g.size) (hrouted : ((g.nbrs.filter (· != 0)).all fun n => (w.dev.portTo r.fn n.toNat).isSome) = true)
    (hnew : (w.dev.vd r.fn).group? g.id.toNat = none) (hroom : (w.dev.vd r.fn).groups.length < 64) :
    doJoinGroup r w = performed [] (w.on (joinedGroup r.fn g)) := by
  have pass : firstStatus [(decide (1 ≤ g.size) && decide (g.size ≤ 4096) && decide (g.rank < g.size), stField),
      ((g.nbrs.filter (· != 0)).all fun n => (w.dev.portTo r.fn n.toNat).isSome, stNotHeld),
      (((w.dev.vd r.fn).group? g.id.toNat).isNone, stState), (decide ((w.dev.vd r.fn).groups.length < 64), stNoRes)] = none := by
    rw [firstStatus, decide_eq_true hlow, decide_eq_true hhigh, decide_eq_true hrank, hrouted, hnew, decide_eq_true hroom]
    rfl
  subst hg
  exact (congrArg (fun o : Option Nat => match o with
    | some st => refuse st w
    | none => performed [] (w.on (joinedGroup r.fn (groupOfArgs r.args)))) pass :)

/-- A device whose virtual device `fn` has left a group. -/
def leftGroup (fn g : Nat) (d : Dev) : Dev := d.onVd fn fun x => { x with groups := x.groups.filter fun y => y.id.toNat != g }

theorem doLeaveGroup_performed {r : AdReq} {w : Wk} {y : Group} (h : (w.dev.vd r.fn).group? (fieldLe r.args 0 4) = some y) : ∃ fab,
    doLeaveGroup r w = performed [] (w.on fun d => { leftGroup r.fn (fieldLe r.args 0 4) d with fab := fab }) := by
  simp only [doLeaveGroup, h, Option.isNone_some, Bool.false_eq_true, if_false]
  by_cases hd : ((leftGroup r.fn (fieldLe r.args 0 4) w.dev).vds.any fun v => (v.2.group? (fieldLe r.args 0 4)).isSome) = true
  · exact ⟨w.dev.fab, congrArg (fun d => performed [] { w with dev := d }) (if_pos hd)⟩
  · exact ⟨_, congrArg (fun d => performed [] { w with dev := d }) (if_neg hd)⟩

theorem group?_filter_ne (x : Vd) (g : Nat) : ({ x with groups := x.groups.filter fun y => y.id.toNat != g } : Vd).group? g = none := by
  simp [Vd.group?]

/-- A request that is performed gives the device that its row leaves, but for registers and rings of functions, notices, the journal
and what leaves. -/
theorem gives_of_performed {i : Instr} {s : State} {fn : Nat} {row : AdRow} {body : AdReq → Wk → Ans × Wk} {slot : Nat} {bs res : List Byte}
    {d : Dev} (hi : exec i s = .next (after s (takeRequest fn row body (work s)))) (h : Accepted s.dev fn row slot bs)
    (hb : body (headReq fn slot bs) (work s) = performed res ((work s).on fun _ => d)) {P : Dev → Prop}
    (hP : ∀ fns ns l fw out, P { d with fns := fns, notices := ns, evcs := l, fw := fw, out := out }) : Gives i s P := by
  obtain ⟨fns, ns, l, fw, out, ht⟩ := takeRequest_performed (w := work s) h hb
  exact ⟨_, by rw [hi, ht]; rfl, hP fns ns l fw out⟩

/-! ## The step of a collective (R133 … R135) -/

/-- The commands of collectives, with the operation each runs. -/
def collectiveRows (v : VDev) (q : OpAt) (rs : List RemotePart) : List (Instr × OpK) :=
  [(.allReduce v q rs, .allReduce), (.reduceScatter v q rs, .reduceScatter), (.allGather v q rs, .allGather),
    (.allToAll v q rs, .allToAll), (.broadcast v q rs, .broadcast)]

theorem exec_of_mem_collectiveRows {v : VDev} {q : QId} {rs : List RemotePart} {i : Instr} {k : OpK}
    (h : (i, k) ∈ collectiveRows v (.good q) rs) (s : State) : exec i s = .next (after s (runCollective k v.val q.val rs (work s))) :=
  have rows : (collectiveRows v (.good q) rs).map (fun r => exec r.1 s) =
      (collectiveRows v (.good q) rs).map (fun r => runMem (runCollective r.2 v.val q.val rs) s) := rfl
  List.map_inj_left.mp rows (i, k) h

/-- Whether a port of the group of a collective is kept from it (R430). -/
def portBarred (d : Dev) (v : Nat) (c : Cmd) : Bool :=
  (d.groupPorts v c.group).any fun p => d.dredgeBars (fun e => match e with | .lx y => y.val == p | _ => false) c.no

/-- Whether a participant is another command of a command's number whose exchange goes before (R133). -/
def isTwin (c : Cmd) (m : Member) : Bool := m.c.rank == c.rank && m.c.no != c.no && (decide (m.c.no < c.no) || m.c.phase != .running)

/-- Whether the exchange of a participant has been opened, in this attempt or in an earlier one. -/
def exchangeOpened (d : Dev) (v : Nat) (c : Cmd) : Bool := (d.fab.exchanges.any fun e => e.cmd == c.no) || (d.phaseOf v c).isSome

/-- Of the participants of a number the first command. -/
def firstOfRank (all : List Member) : List Member := all.filter fun m => !(all.any fun o => o.c.rank == m.c.rank && decide (o.c.no < m.c.no))

/-- What the participants in other packages have put in, by number. -/
def farData (t : Tensor) (parts : List RemotePart) : List (Nat × Option Data) := parts.map fun r => (r.rank, remoteData t r.data)

/-- The inputs that are here of `n` participants, in ascending order. -/
def inputsHere (n : Nat) (mine : List (Nat × Data)) (far : List (Nat × Option Data)) : List Data :=
  let data := mine ++ far.filterMap fun e => e.2.map fun y => (e.1, y)
  (List.range n).filterMap fun i => (data.find? fun e => e.1 == i).map Prod.snd

/-- What a participant on this device has put in. -/
def ownData (t : Tensor) (mine : List (Nat × Data)) (m : Member) : Data := ((mine.find? fun e => e.1 == m.c.rank).map Prod.snd).getD ⟨[], t.fmt, []⟩

/-- The participants here commit the phases that are complete, and what they owe goes out: only the command's own where an input is
missing. -/
def phasesCommitted (k : OpK) (c : Cmd) (ms : List Member) (own : Member → Data) (xs : List Data) (parts : List RemotePart) (w : Wk) : Wk :=
  flushDue (ms.foldl (fun w m => if m.c.no = c.no || c.participants ≤ xs.length
    then commitPhases k m (own m) xs parts (openExchange k m (own m) w) else w) w)

/-- Whether a participant here owes a message. -/
def messageOwed (ms : List Member) (w : Wk) : Bool := w.dev.fab.exchanges.any fun e => (ms.any fun m => m.c.no == e.cmd) && !e.due.isEmpty

/-- The end of a step of a collective: with every input here and no message owed the outputs are written. -/
def writeWhenComplete (k : OpK) (c : Cmd) (ms : List Member) (xs : List Data) (w : Wk) : Wk :=
  if xs.length < c.participants || messageOwed ms w then w
  else match memberBlocked k xs w ms with
    | some (m, e) => stallCmd m.c.mover m.v m.q m.x m.c 2 e w
    | none => writeMembers k xs ms w

/-- A step of a collective from the inputs of the participants here. -/
def exchangeInputs (k : OpK) (me : Member) (ms : List Member) (parts : List RemotePart) (w : Wk) (mine : List (Nat × Data)) : Wk :=
  let far := farData (me.c.block.inp 0) parts
  if far.any fun e => e.2.isNone then replayCmd me.v me.q [] w
  else
    let xs := inputsHere me.c.participants mine far
    writeWhenComplete k me.c ms xs (phasesCommitted k me.c ms (ownData (me.c.block.inp 0) mine) xs parts w)

/-- A step of a collective whose participants are known. -/
def exchangeTerms (k : OpK) (me : Member) (ms : List Member) (parts : List RemotePart) (w : Wk) : Wk :=
  if ms.any (fun m => m.terms w.dev != me.terms w.dev) || parts.any (fun r => !r.same) then refuseAll me.c.group me.c.opSeq ms w
  else match memberData w ms with
    | .error (m, e) => stallCmd m.c.mover m.v m.q m.x m.c 1 e w
    | .ok mine => exchangeInputs k me ms parts w mine

/-- A step of a collective at its exchange. -/
def exchangeStep (k : OpK) (me : Member) (rs : List RemotePart) (w : Wk) : Wk :=
  if w.dev.fab.refused.contains (me.c.group, me.c.opSeq) then refuseMember me w
  else if w.dev.fab.failed.contains (me.c.group, me.c.opSeq) then failCmd me.v me.q 0x11 Detail.none w
  else if (w.dev.members me.c.group me.c.opSeq Cmd.inExchange).any (isTwin me.c) ||
      (!exchangeOpened w.dev me.v me.c && rs.any fun r => r.rank == me.c.rank) then refuseMember me w
  else
    let ms := firstOfRank (w.dev.running me.c.group me.c.opSeq)
    exchangeTerms k me ms (carriedParts k me (ms.map fun m => m.c.rank) rs w) w

/-- A running collective takes a step at its exchange unless one of its ports is kept from it. -/
theorem runCollective_of_running {k : OpK} {v q : Nat} {w : Wk} {x : Queue} {c : Cmd} (h : runningOp w.dev v q k = some (x, c))
    (rs : List RemotePart) : runCollective k v q rs w = if portBarred w.dev v c then w else exchangeStep k ⟨v, q, x, c⟩ rs w := by
  unfold runCollective
  rw [h]
  rfl

section
/-! The branches of a step at the exchange. -/

variable {k : OpK} {me : Member} {rs : List RemotePart} {w : Wk}

theorem exchangeStep_of_refused (h : w.dev.fab.refused.contains (me.c.group, me.c.opSeq) = true) :
    exchangeStep k me rs w = refuseMember me w := if_pos h

theorem exchangeStep_of_failed (hr : w.dev.fab.refused.contains (me.c.group, me.c.opSeq) = false)
    (h : w.dev.fab.failed.contains (me.c.group, me.c.opSeq) = true) :
    exchangeStep k me rs w = failCmd me.v me.q 0x11 Detail.none w := by
  rw [exchangeStep, if_neg (Bool.eq_false_iff.mp hr), if_pos h]

theorem exchangeStep_of_twin (hr : w.dev.fab.refused.contains (me.c.group, me.c.opSeq) = false)
    (hf : w.dev.fab.failed.contains (me.c.group, me.c.opSeq) = false)
    (h : (w.dev.members me.c.group me.c.opSeq Cmd.inExchange).any (isTwin me.c) = true ∨
      exchangeOpened w.dev me.v me.c = false ∧ (rs.any fun r => r.rank == me.c.rank) = true) :
    exchangeStep k me rs w = refuseMember me w := by
  rw [exchangeStep, if_neg (Bool.eq_false_iff.mp hr), if_neg (Bool.eq_false_iff.mp hf), if_pos]
  simpa only [Bool.or_eq_true, Bool.and_eq_true, Bool.not_eq_true'] using h

/-- The only command of its number goes on to the terms of the exchange, with the participants and the parts that there are. -/
theorem exchangeStep_of_single (hr : w.dev.fab.refused.contains (me.c.group, me.c.opSeq) = false)
    (hf : w.dev.fab.failed.contains (me.c.group, me.c.opSeq) = false)
    (ht : (w.dev.members me.c.group me.c.opSeq Cmd.inExchange).any (isTwin me.c) = false)
    (ho : exchangeOpened w.dev me.v me.c = true ∨ (rs.any fun r => r.rank == me.c.rank) = false) :
    exchangeStep k me rs w = exchangeTerms k me (firstOfRank (w.dev.running me.c.group me.c.opSeq))
      (carriedParts k me ((firstOfRank (w.dev.running me.c.group me.c.opSeq)).map fun m => m.c.rank) rs w) w := by
  rw [exchangeStep, if_neg (Bool.eq_false_iff.mp hr), if_neg (Bool.eq_false_iff.mp hf), if_neg]
  rcases ho with ho | ho <;> simp [ht, ho]

variable {ms : List Member} {parts : List RemotePart}

theorem exchangeTerms_of_mismatch (h : (∃ m ∈ ms, m.terms w.dev ≠ me.terms w.dev) ∨ ∃ r ∈ parts, r.same = false) :
    exchangeTerms k me ms parts w = refuseAll me.c.group me.c.opSeq ms w := by
  rw [exchangeTerms, if_pos]
  simpa only [Bool.or_eq_true, List.any_eq_true, bne_iff_ne, Bool.not_eq_true'] using h

section
/-! Every participant agrees on the terms. -/

variable (hm : ∀ m ∈ ms, m.terms w.dev = me.terms w.dev) (hp : ∀ r ∈ parts, r.same = true)

include hm hp

theorem not_mismatch : ¬ (ms.any (fun m => m.terms w.dev != me.terms w.dev) || parts.any (fun r => !r.same)) = true := by
  simp only [Bool.or_eq_true, List.any_eq_true, bne_iff_ne, Bool.not_eq_true']
  rintro (⟨m, hmem, hne⟩ | ⟨r, hmem, hne⟩)
  · exact hne (hm m hmem)
  · exact Bool.false_ne_true (hne.symm.trans (hp r hmem))

theorem exchangeTerms_of_error {m : Member} {e : Acc} (h : memberData w ms = .error (m, e)) :
    exchangeTerms k me ms parts w = stallCmd m.c.mover m.v m.q m.x m.c 1 e w := by
  rw [exchangeTerms, if_neg (not_mismatch hm hp), h]

theorem exchangeTerms_of_ok {mine : List (Nat × Data)} (h : memberData w ms = .ok mine) :
    exchangeTerms k me ms parts w = exchangeInputs k me ms parts w mine := by
  rw [exchangeTerms, if_neg (not_mismatch hm hp), h]

end

variable {mine : List (Nat × Data)}

theorem exchangeInputs_of_corrupt (h : ∃ e ∈ farData (me.c.block.inp 0) parts, e.2 = none) :
    exchangeInputs k me ms parts w mine = replayCmd me.v me.q [] w := by
  rw [exchangeInputs, if_pos]
  simpa only [List.any_eq_true, Option.isNone_iff_eq_none] using h

theorem exchangeInputs_of_intact (h : ∀ e ∈ farData (me.c.block.inp 0) parts, e.2 ≠ none) :
    exchangeInputs k me ms parts w mine =
      let xs := inputsHere me.c.participants mine (farData (me.c.block.inp 0) parts)
      writeWhenComplete k me.c ms xs (phasesCommitted k me.c ms (ownData (me.c.block.inp 0) mine) xs parts w) := by
  rw [exchangeInputs, if_neg]
  simp only [List.any_eq_true, Option.isNone_iff_eq_none]
  rintro ⟨e, hmem, hnone⟩
  exact h e hmem hnone

theorem phasesCommitted_eq (k : OpK) (c : Cmd) (ms : List Member) (own : Member → Data) (xs : List Data) (parts : List RemotePart) (w : Wk) :
    phasesCommitted k c ms own xs parts w = flushDue (ms.foldl (fun w m => if m.c.no = c.no ∨ c.participants ≤ xs.length
      then commitPhases k m (own m) xs parts (openExchange k m (own m) w) else w) w) := by
  simp only [phasesCommitted, Bool.or_eq_true, decide_eq_true_eq]

variable {c : Cmd} {xs : List Data}

theorem writeWhenComplete_of_incomplete (h : xs.length < c.participants ∨ messageOwed ms w = true) :
    writeWhenComplete k c ms xs w = w := by
  rw [writeWhenComplete, if_pos]
  simpa only [Bool.or_eq_true, decide_eq_true_eq] using h

section
/-! Every input is here, and no message is owed. -/

variable (h : c.participants ≤ xs.length) (ho : messageOwed ms w = false)

include h ho

theorem not_incomplete : ¬ (decide (xs.length < c.participants) || messageOwed ms w) = true := by
  simp [ho, h]

theorem writeWhenComplete_of_blocked {m : Member} {e : Acc} (hb : memberBlocked k xs w ms = some (m, e)) :
    writeWhenComplete k c ms xs w = stallCmd m.c.mover m.v m.q m.x m.c 2 e w := by
  rw [writeWhenComplete, if_neg (not_incomplete h ho), hb]

theorem writeWhenComplete_of_writable (hb : memberBlocked k xs w ms = none) : writeWhenComplete k c ms xs w = writeMembers k xs ms w := by
  rw [writeWhenComplete, if_neg (not_incomplete h ho), hb]

end

end

/-! ## Phase records (R424, R425) -/

/-- The record from which a participant goes on: its own, or a new one. -/
def recordOrNew (k : OpK) (m : Member) (d : Dev) : PhaseRec := (d.phaseOf m.v m.c).getD (newRecord k m d)

theorem isOf_newRecord (k : OpK) (m : Member) (d : Dev) : (newRecord k m d).isOf m.v m.c = true := by
  have group : m.c.group < 4294967296 := fieldLe_lt m.c.params 0x18 4
  simp [newRecord, PhaseRec.isOf, group]

theorem isOf_recordOrNew (k : OpK) (m : Member) (d : Dev) : (recordOrNew k m d).isOf m.v m.c = true := by
  unfold recordOrNew
  cases h : d.phaseOf m.v m.c with
  | none => exact isOf_newRecord k m d
  | some r => exact List.find?_some (p := fun r : PhaseRec => r.isOf m.v m.c) h

/-- How far a participant is when it has the inputs of `n` participants: all phases with the last one. -/
def phasesReached (r : PhaseRec) (p n : Nat) : Nat := if p ≤ n then r.phases else max r.phase (min (n - 1) r.phases)

/-- The record that a phase leaves. -/
def nextRecord (r : PhaseRec) (till : Nat) (parts : List RemotePart) : PhaseRec := { r with
  phase := till
  len := min r.room (ceilDiv (parts.flatMap partBytes).length 4096)
  carried := parts
  digest := carriedDigest parts }

theorem isOf_nextRecord (r : PhaseRec) (till : Nat) (parts : List RemotePart) (v : Nat) (c : Cmd) :
    (nextRecord r till parts).isOf v c = r.isOf v c := rfl

theorem commitPhases_of_reached {k : OpK} {m : Member} {xs : List Data} {w : Wk}
    (h : phasesReached (recordOrNew k m w.dev) m.c.participants xs.length ≤ (recordOrNew k m w.dev).phase) (own : Data)
    (parts : List RemotePart) : commitPhases k m own xs parts w = w := if_pos h

/-- A record takes the place of the participant's earlier one. -/
theorem phaseOf_put_record {r : PhaseRec} {v : Nat} {c : Cmd} (h : r.isOf v c = true) (d : Dev) :
    ({ d with records := (d.records.filter fun y => !y.isOf v c) ++ [r] } : Dev).phaseOf v c = some r := by
  have gone : (d.records.filter fun y => !y.isOf v c).find? (fun y => y.isOf v c) = none := by simp
  rw [Dev.phaseOf, List.find?_append, gone, Option.none_or, List.find?_cons_of_pos (p := fun y : PhaseRec => y.isOf v c) h]

/-- R425: a phase that is complete has left its record. -/
theorem phaseOf_commitPhases {k : OpK} {m : Member} {xs : List Data} {w : Wk}
    (h : (recordOrNew k m w.dev).phase < phasesReached (recordOrNew k m w.dev) m.c.participants xs.length) (own : Data)
    (parts : List RemotePart) : (commitPhases k m own xs parts w).dev.phaseOf m.v m.c =
      some (nextRecord (recordOrNew k m w.dev) (phasesReached (recordOrNew k m w.dev) m.c.participants xs.length) parts) := by
  rw [show commitPhases k m own xs parts w = _ from if_neg (Nat.not_le.mpr h)]
  refine (foldl_keeps (fun w : Wk => w.dev.phaseOf m.v m.c) (fun _ _ => by rfl) _ _).trans ?_
  exact phaseOf_put_record ((isOf_nextRecord ..).trans (isOf_recordOrNew k m w.dev)) _

end Sys2Proof.Machine
end

section
/-! What is said once round the ring of a group (R391, R427): a failure, a restart, a message sent again. -/

namespace Sys2Proof.Machine

open Sys2Proof

/-! ## Ports that reach a package -/

theorem port_onPort_same (d : Dev) (p : Nat) (f : PortSt → PortSt) : (d.onPort p f).port p = f (d.port p) := by
  simp [Dev.port, Dev.onPort]

theorem port_onPort_ne (d : Dev) {p r : Nat} (f : PortSt → PortSt) (h : r ≠ p) : (d.onPort p f).port r = d.port r := by
  simp [Dev.port, Dev.onPort, Tab.getD_put_ne d.fab.ports _ _ h]

theorem portTo_congr {d e : Dev} (hv : d.vds = e.vds) (hs : d.sched = e.sched)
    (hp : ∀ p, (d.port p).trained = (e.port p).trained ∧ (d.port p).peerPkg = (e.port p).peerPkg) : d.portTo = e.portTo := by
  funext v pkg
  simp only [Dev.portTo, Dev.mapOf, Dev.vd, hv, hs, hp]

/-- What leaves on a port changes neither whether its link is trained nor the package it reaches. -/
theorem groupPorts_send (d : Dev) (p n : Nat) (o : Output) : ((d.onPort p fun x => x.send n).emit o).groupPorts = d.groupPorts := by
  have reach : ((d.onPort p fun x => x.send n).emit o).portTo = d.portTo := by
    refine portTo_congr rfl rfl fun r => ?_
    by_cases h : r = p
    · subst h
      have sent := port_onPort_same d r fun x => x.send n
      exact ⟨(congrArg PortSt.trained sent).trans rfl, (congrArg PortSt.peerPkg sent).trans rfl⟩
    · have same := port_onPort_ne d (fun x => x.send n) h
      exact ⟨congrArg PortSt.trained same, congrArg PortSt.peerPkg same⟩
  funext v g
  rw [Dev.groupPorts, Dev.groupPorts, reach]
  rfl

/-! ## A failed exchange (R391) -/

theorem groupPorts_tellPeers (v g : Nat) (seq : BitVec 64) (d : Dev) : (tellPeers v g seq d).groupPorts = d.groupPorts :=
  foldl_keeps Dev.groupPorts (fun d p => groupPorts_send d p 1 _) _ d

theorem tellPeers_failed (v g : Nat) (seq : BitVec 64) (d : Dev) : (tellPeers v g seq d).fab.failed = d.fab.failed :=
  foldl_keeps (fun d : Dev => d.fab.failed) (fun d p => by rfl) _ d

theorem tellPeers_vds (v g : Nat) (seq : BitVec 64) (d : Dev) : (tellPeers v g seq d).vds = d.vds :=
  foldl_keeps Dev.vds (fun d p => by rfl) _ d

theorem mem_out_tellPeers {o : Output} {d : Dev} (h : o ∈ d.out) (v g : Nat) (seq : BitVec 64) : o ∈ (tellPeers v g seq d).out :=
  List.foldlRecOn _ _ (motive := fun d : Dev => o ∈ d.out) h fun _ h _ _ => List.mem_append_left _ h

theorem peerFailure_mem_tellPeers {v g p : Nat} {d : Dev} (h : p ∈ d.groupPorts v g) (seq : BitVec 64) :
    .peerFailure p g seq ∈ (tellPeers v g seq d).out :=
  foldl_of_mem h (fun _ => True) (fun d : Dev => .peerFailure p g seq ∈ d.out) (fun _ _ _ => trivial)
    (fun _ _ => List.mem_append_right _ (List.mem_singleton.mpr rfl)) (fun _ _ h => List.mem_append_left _ h) trivial

theorem failExchange_of_failed {d : Dev} {g : Nat} {seq : BitVec 64} (h : d.fab.failed.contains (g, seq) = true) : failExchange g seq d = d :=
  if_pos h

/-- The device when every member of a group has passed the notice on. -/
def allTold (g : Nat) (seq : BitVec 64) (d : Dev) : Dev :=
  (d.joined g).foldl (fun d v => tellPeers v g seq d) { d with fab := { d.fab with failed := d.fab.failed ++ [(g, seq)] } }

theorem failExchange_of_new {d : Dev} {g : Nat} {seq : BitVec 64} (h : d.fab.failed.contains (g, seq) = false) : ∃ o,
    failExchange g seq d = { allTold g seq d with od := o } := by
  rw [failExchange, if_neg (Bool.eq_false_iff.mp h)]
  exact raiseOd_spec 2 g (natLe 8 seq.toNat) (allTold g seq d)

theorem allTold_failed (g : Nat) (seq : BitVec 64) (d : Dev) : (allTold g seq d).fab.failed = d.fab.failed ++ [(g, seq)] :=
  foldl_keeps (fun d : Dev => d.fab.failed) (fun d v => tellPeers_failed v g seq d) _ _

theorem allTold_vds (g : Nat) (seq : BitVec 64) (d : Dev) : (allTold g seq d).vds = d.vds :=
  foldl_keeps Dev.vds (fun d v => tellPeers_vds v g seq d) _ _

theorem peerFailure_mem_allTold {d : Dev} {g v p : Nat} (hv : v ∈ d.joined g) (hp : p ∈ d.groupPorts v g) (seq : BitVec 64) :
    .peerFailure p g seq ∈ (allTold g seq d).out :=
  foldl_of_mem hv (fun e : Dev => e.groupPorts = d.groupPorts) (fun e : Dev => .peerFailure p g seq ∈ e.out)
    (fun e u he => (groupPorts_tellPeers u g seq e).trans he) (fun _ he => peerFailure_mem_tellPeers (he ▸ hp) seq)
    (fun _ u he => mem_out_tellPeers he u g seq) (b := { d with fab := { d.fab with failed := d.fab.failed ++ [(g, seq)] } }) rfl

theorem failExchange_vds (g : Nat) (seq : BitVec 64) (d : Dev) : (failExchange g seq d).vds = d.vds := by
  cases h : d.fab.failed.contains (g, seq) with
  | true => rw [failExchange_of_failed h]
  | false =>
    obtain ⟨o, ho⟩ := failExchange_of_new h
    rw [ho]
    exact allTold_vds g seq d

theorem mem_failed_failExchange (g : Nat) (seq : BitVec 64) (d : Dev) : (g, seq) ∈ (failExchange g seq d).fab.failed := by
  cases h : d.fab.failed.contains (g, seq) with
  | true =>
    rw [failExchange_of_failed h]
    exact List.contains_iff_mem.mp h
  | false =>
    obtain ⟨o, ho⟩ := failExchange_of_new h
    rw [ho]
    exact allTold_failed g seq d ▸ List.mem_append_right _ (List.mem_singleton.mpr rfl)

/-- The ports of a group on this device. -/
def portsOfGroup (d : Dev) (g : Nat) : List Nat := ((d.joined g).flatMap fun v => d.groupPorts v g).eraseDups

/-- The hubs of the group's ports hear of the notice, which is passed on. -/
def noticePassed (g : Nat) (seq : BitVec 64) (d : Dev) : Dev :=
  failExchange g seq ((portsOfGroup d g).foldl (fun d p => raiseSrc (portHub p) (0x141 + p) d) d)

theorem noticePassed_vds (g : Nat) (seq : BitVec 64) (d : Dev) : (noticePassed g seq d).vds = d.vds := by
  obtain ⟨e, he⟩ := foldl_raiseSrc_spec portHub (0x141 + ·) (portsOfGroup d g) d
  rw [noticePassed, failExchange_vds, he]

theorem exec_peerFailure (g : BitVec 32) (seq : BitVec 64) (s : State) :
    exec (.peerFailure g seq) s = .next (after s ((((work s).on (noticePassed g.toNat seq)).dev.members g.toNat seq Cmd.open_).foldl
      (fun w m => failCmd m.v m.q 0x11 Detail.none w) ((work s).on (noticePassed g.toNat seq)))) := rfl

/-- With no participant here the notice is passed on, and nothing else happens. -/
theorem exec_peerFailure_of_no_member {g : BitVec 32} {seq : BitVec 64} {s : State} (h : s.dev.members g.toNat seq Cmd.open_ = []) :
    exec (.peerFailure g seq) s = .next { s with dev := noticePassed g.toNat seq s.dev } := by
  have none_ : ((work s).on (noticePassed g.toNat seq)).dev.members g.toNat seq Cmd.open_ = [] :=
    (members_congr (noticePassed_vds g.toNat seq s.dev) _ _ _).trans h
  rw [exec_peerFailure, none_]
  rfl

/-! ## A restart (R427) -/

theorem exec_restart_of_no_attempt {g : BitVec 32} {seq : BitVec 64} {s : State} (h : s.dev.running g.toNat seq = []) :
    exec (.restart g seq) s = .next s := by
  have stay : doRestart g.toNat seq (work s) = work s := if_pos (List.isEmpty_iff.mpr h)
  exact congrArg (fun w => Host.Outcome.next (after s w)) stay

theorem doRestart_of_attempt {g : Nat} {seq : BitVec 64} {w : Wk} (h : w.dev.running g seq ≠ []) :
    doRestart g seq w = (w.dev.running g seq).foldl (fun w m => abandonCmd m.v m.q w)
      (freeRecords (fun r => r.kind == 1 && r.group.toNat == g && r.seq == seq) (w.on fun d =>
        (d.joined g).foldl (fun d v => (d.groupPorts v g).foldl (fun d p => (d.onPort p fun x => x.send 1).emit (.restart p g seq)) d) d)) :=
  if_neg fun hn => h (List.isEmpty_iff.mp hn)

/-! ## A message sent again (R427) and what waits for a port (R384, R392) -/

theorem exec_resume (g : BitVec 32) (seq : BitVec 64) (j : Nat) (s : State) :
    exec (.resume g seq j) s = .next (after s (doResume g.toNat seq j (work s))) := rfl

section
/-! One exchange is open. -/

variable {g : Nat} {seq : BitVec 64} {j : Nat} {w : Wk} {e : Exchange} (he : w.dev.fab.exchanges = [e])

include he

theorem doResume_of_kept (hg : e.group = g) (hs : e.seq = seq) (hj : (e.sent.any fun s => s.1 == j) = true) :
    doResume g seq j w = flushDue (w.on fun d => d.onExchange e.cmd fun e =>
      { e with due := (e.due.filter fun x => x.2 != j) ++ (w.dev.neighbours e.vdev g).map fun n => (n, j) }) := by
  simp [doResume, Wk.on, he, hg, hs, hj]

theorem doResume_of_not_kept (h : e.group ≠ g ∨ e.seq ≠ seq ∨ (e.sent.any fun s => s.1 == j) = false) :
    doResume g seq j w = flushDue w := by
  have other : (e.group != g || e.seq != seq || !(e.sent.any fun s => s.1 == j)) = true := by
    simpa only [Bool.or_eq_true, bne_iff_ne, Bool.not_eq_true', or_assoc] using h
  simp [doResume, Wk.on, he, other]

end

section
/-! One message waits. -/

variable {e : Exchange} {pkg j : Nat} {data : PartData} (hd : e.due = [(pkg, j)]) (hs : e.sent = [(j, data)])

include hd hs

theorem flushExchange_of_no_port {w : Wk} (h : w.dev.portTo e.vdev pkg = none) : (flushExchange e w).dev.out = w.dev.out := by
  simp [flushExchange, hd, hs, h, Dev.onExchange]

theorem flushExchange_of_port {w : Wk} {p : Nat} (h : w.dev.portTo e.vdev pkg = some p) :
    flushExchange e w = sendPart p pkg e j data (w.on fun d => d.onExchange e.cmd fun e => { e with
      due := []
      ports := (e.ports ++ (if h : p < 16 then [(⟨p, h⟩ : Port)] else [])).eraseDups }) := by
  by_cases hp : p < 16 <;> simp [flushExchange, hd, hs, h, hp]

end

end Sys2Proof.Machine
end

section
/-! The messages of the reedbed and of other packages, and the links that carry them (R197 … R200, R386, R387, R394, R311). -/

namespace Sys2Proof.Machine

open Sys2Proof

/-! ## Fragments and full words (R197, R198) -/

theorem exec_fragments_of_bad_length {fs : List (BitVec 256)} (h : fs.length = 0 ∨ 4 < fs.length) (ep src : BitVec 12) (m : BitVec 16)
    (first : Nat) (s : State) : exec (.fragments ep src m first fs) s = .next s := by
  have bad : (decide (fs.length = 0) || decide (4 < fs.length)) = true := by
    simpa only [Bool.or_eq_true, decide_eq_true_eq] using h
  exact congrArg (fun w => Host.Outcome.next (after s w)) (if_pos bad)

theorem exec_fragments_of_length {fs : List (BitVec 256)} (h0 : fs.length ≠ 0) (h4 : fs.length ≤ 4) (ep src : BitVec 12) (m : BitVec 16)
    (first : Nat) (s : State) :
    exec (.fragments ep src m first fs) s = .next (after s (placeFragments ep src m first fs (work s))) := by
  have good : ¬ (decide (fs.length = 0) || decide (4 < fs.length)) = true := by
    simp only [Bool.or_eq_true, decide_eq_true_eq]
    omega
  exact congrArg (fun w => Host.Outcome.next (after s w)) (if_neg good)

section
variable {fs : List (BitVec 256)} (ep src : BitVec 12) (m : BitVec 16) (first : Nat) (w : Wk)

theorem placeFragments_of_corrupt (h : ∃ f ∈ fs, fragDecode f = .corrupt) :
    placeFragments ep src m first fs w = replayEndpoint ep.toNat w := by
  rw [placeFragments, if_pos]
  simpa only [List.any_eq_true, beq_iff_eq] using h

/-- A message with consecutive fragments at their places. -/
def withFragments (y : FragMsg) (first : Nat) (fs : List (BitVec 256)) : FragMsg :=
  fs.zipIdx.foldl (fun (y : FragMsg) f => { y with frags := Tab.put y.frags (first + f.2) f.1 }) y

theorem placeFragments_of_good (h : ∀ f ∈ fs, fragDecode f ≠ .corrupt) :
    placeFragments ep src m first fs w = settleMsg (withFragments (w.dev.net.msg ep src m) first fs)
      (w.on fun d => { d with net := d.net.setMsg (withFragments (w.dev.net.msg ep src m) first fs) }) := by
  refine if_neg ?_
  simp only [List.any_eq_true, beq_iff_eq]
  rintro ⟨f, hmem, hc⟩
  exact h f hmem hc

end

/-! ## Messages in reception (R198) -/

/-- Whether a message is that of an endpoint, source and number. -/
def IsMsg (y : FragMsg) (ep src : BitVec 12) (m : BitVec 16) : Prop := y.ep = ep ∧ y.src = src ∧ y.msg = m

theorem isMsg_iff (y : FragMsg) (ep src : BitVec 12) (m : BitVec 16) :
    (y.ep == ep && y.src == src && y.msg == m) = true ↔ IsMsg y ep src m := by
  simp only [IsMsg, Bool.and_eq_true, beq_iff_eq, and_assoc]

theorem isMsg_msg (x : Net) (ep src : BitVec 12) (m : BitVec 16) : IsMsg (x.msg ep src m) ep src m := by
  unfold Net.msg
  cases h : x.msgs.find? fun y => y.ep == ep && y.src == src && y.msg == m with
  | none => exact ⟨rfl, rfl, rfl⟩
  | some y => exact (isMsg_iff ..).mp (List.find?_some (p := fun y : FragMsg => y.ep == ep && y.src == src && y.msg == m) h)

/-- A message that is put into reception is the one that is found there. -/
theorem msg_setMsg {y : FragMsg} {ep src : BitVec 12} {m : BitVec 16} (h : IsMsg y ep src m) (x : Net) : (x.setMsg y).msg ep src m = y := by
  obtain ⟨rfl, rfl, rfl⟩ := h
  have gone : (x.msgs.filter fun z => !(z.ep == y.ep && z.src == y.src && z.msg == y.msg)).find?
      (fun z => z.ep == y.ep && z.src == y.src && z.msg == y.msg) = none := by
    rw [List.find?_eq_none]
    intro z hz
    simpa only [Bool.not_eq_true, Bool.not_eq_true'] using (List.mem_filter.mp hz).2
  simp only [Net.msg, Net.setMsg, List.find?_append, gone, Option.none_or]
  simp

theorem settleMsg_of_no_command {y : FragMsg} {w : Wk} (h : w.dev.msgFor y.ep.toNat = none) : settleMsg y w = w := by
  simp only [settleMsg, h]

theorem settleMsg_of_incomplete {y : FragMsg} {w : Wk} {c : Cmd} {n : Nat} (h : w.dev.msgFor y.ep.toNat = some (c, n))
    (hc : y.corrupt n = false) (hn : y.complete n = false) : settleMsg y w = w := by
  simp only [settleMsg, h, hc, hn, Bool.false_eq_true, Bool.not_false, if_false, if_true]

/-- The words of a whole message, for the command of its endpoint. -/
def wholeMsg (y : FragMsg) (c : Cmd) (n : Nat) : WholeMsg := ⟨c.no, y.src, y.msg, (y.wordsOf n).map fun p => BitVec.ofNat 768 (leNat (peatBytes p))⟩

/-- R86, R87: a whole message leaves reception, and its words stand ready. -/
theorem settleMsg_of_complete {y : FragMsg} {w : Wk} {c : Cmd} {n : Nat} (h : w.dev.msgFor y.ep.toNat = some (c, n))
    (hc : y.corrupt n = false) (hn : y.complete n = true) :
    (settleMsg y w).dev.net.sums = (w.dev.net.sums.filter fun z => !(z.cmd == c.no && z.src == y.src && z.msg == y.msg)) ++ [wholeMsg y c n] ∧
    (settleMsg y w).dev.net.msgs = w.dev.net.msgs.filter fun z => !(z.ep == y.ep && z.src == y.src && z.msg == y.msg) := by
  simp only [settleMsg, h, hc, hn, Bool.false_eq_true, Bool.not_true, if_false]
  exact ⟨rfl, rfl⟩

/-- A message that is no running collective's stays in reception as it is put there. -/
theorem settleMsg_setMsg_of_no_command {s : State} {y : FragMsg} {ep src : BitVec 12} {m : BitVec 16} (hy : IsMsg y ep src m)
    (h : s.dev.msgFor ep.toNat = none) :
    after s (settleMsg y ((work s).on fun d => { d with net := d.net.setMsg y })) =
      { s with dev := { s.dev with net := s.dev.net.setMsg y } } := by
  obtain ⟨rfl, -, -⟩ := hy
  rw [settleMsg_of_no_command]
  · rfl
  · exact h

/-- A message with a full word at its place. -/
def withWord (y : FragMsg) (n : Nat) (x : BitVec 768) : FragMsg := { y with words := Tab.put y.words n x }

theorem exec_fullWord (ep src : BitVec 12) (m : BitVec 16) (n : Nat) (x : BitVec 768) (s : State) :
    exec (.fullWord ep src m n x) s = .next (after s (settleMsg (withWord (s.dev.net.msg ep src m) n x)
      ((work s).on fun d => { d with net := d.net.setMsg (withWord (s.dev.net.msg ep src m) n x) }))) := rfl

/-! ## Segments (R386, R387) -/

theorem exec_fabricSegment (p : Port) (hdr : BitVec 256) (bs : List Byte) (s : State) :
    exec (.fabricSegment p hdr bs) s = .next (after s (doSegment p.val hdr bs (work s))) := rfl

/-- A segment is framed again where its port's session is live and its length is what its header says. -/
def SegmentTaken (d : Dev) (p : Nat) (hdr : BitVec 256) (bs : List Byte) : Prop :=
  (d.port p).trained = true ∧ bits hdr.toNat 187 156 = bs.length ∧ bs.length ≤ 65536

section
variable {p : Nat} {hdr : BitVec 256} {bs : List Byte} {w : Wk}

theorem doSegment_of_not_taken (h : ¬ SegmentTaken w.dev p hdr bs) : doSegment p hdr bs w = w := by
  refine if_pos ?_
  simp only [Bool.or_eq_true, Bool.not_eq_true', decide_eq_true_eq]
  simp only [SegmentTaken, not_and_or, Bool.not_eq_true, Nat.not_le] at h
  simpa only [or_assoc] using h

theorem segment_condition (h : SegmentTaken w.dev p hdr bs) :
    ¬ (!(w.dev.port p).trained || decide (bits hdr.toNat 187 156 ≠ bs.length) || decide (65536 < bs.length)) = true := by
  obtain ⟨ht, hl, hn⟩ := h
  simp [ht, hl, hn]

variable (h : SegmentTaken w.dev p hdr bs)

include h

theorem doSegment_of_fragments (hk : bits hdr.toNat 255 252 = 8) (h32 : bs.length % 32 = 0) (hn : bs.length / 32 ≤ 2047) :
    doSegment p hdr bs w = w.on (reframe p (BitVec.ofNat 12 (bits hdr.toNat 251 240)) (BitVec.ofNat 12 (bits hdr.toNat 239 228))
      (bits hdr.toNat 227 220) (BitVec.ofNat 16 (bits (bits hdr.toNat 47 0) 47 32)) (bits (bits hdr.toNat 47 0) 31 0) (segFragments bs)) := by
  unfold doSegment
  dsimp only
  rw [if_neg (segment_condition h), hk]
  exact if_neg (by simp [h32, hn])

theorem doSegment_of_word (hk : bits hdr.toNat 255 252 = 9) (hn : bs.length = 96) :
    doSegment p hdr bs w = w.on fun d =>
      let r := relayId p (BitVec.ofNat 12 (bits hdr.toNat 239 228)) (BitVec.ofNat 16 (bits (bits hdr.toNat 47 0) 47 32)) d
      let k := wordPacket (BitVec.ofNat 12 (bits hdr.toNat 251 240)) (BitVec.ofNat 12 (0xB00 + p)) (bits hdr.toNat 227 220) r.1.toNat
        (bits (bits hdr.toNat 47 0) 31 0) (BitVec.ofNat 768 (leNat bs))
      { r.2 with net := r.2.net.send k.1 k.2 } := by
  unfold doSegment
  dsimp only
  rw [if_neg (segment_condition h), hk]
  exact if_neg (not_not.mpr hn)

theorem doSegment_of_control (hk : bits hdr.toNat 255 252 = 10) :
    doSegment p hdr bs w = controlSegment p (bits hdr.toNat 227 220) (bits hdr.toNat 219 188) (BitVec.ofNat 64 (bits hdr.toNat 123 60)) bs w := by
  unfold doSegment
  dsimp only
  rw [if_neg (segment_condition h), hk]
  rfl

theorem doSegment_of_mgmt (hk : bits hdr.toNat 255 252 = 11) :
    doSegment p hdr bs w = w.on (arriveMgmt (BitVec.ofNat 12 (bits hdr.toNat 251 240)) (BitVec.ofNat 12 (bits hdr.toNat 239 228)) bs) := by
  unfold doSegment
  dsimp only
  rw [if_neg (segment_condition h), hk]
  rfl

end

/-! ## Packets on a link (R199) -/

section
variable {h : Hop} {hdr : BitVec 128} {payload : List Byte} {w : Wk}

theorem doPacket_of_retired (hr : w.dev.net.retired.contains h.1 = true) (bad : Bool) : doPacket h hdr payload bad w = w := if_pos hr

theorem doPacket_of_not_carried (hc : w.dev.net.carried h hdr payload = none) (bad : Bool) : doPacket h hdr payload bad w = w := by
  unfold doPacket
  dsimp only
  rw [hc]
  exact ite_self w

/-- The reedbed with a packet that enters it on a link's first crossing. -/
def entered (x : Net) (h : Hop) (hdr : BitVec 128) : Net := if x.enters h then x.injected hdr else x

theorem on_entered (w : Wk) (h : Hop) (hdr : BitVec 128) :
    (if w.dev.net.enters h then w.on fun d => { d with net := d.net.injected hdr } else w) =
      w.on fun d => { d with net := entered w.dev.net h hdr } := by
  unfold entered
  split <;> rfl

variable (hr : w.dev.net.retired.contains h.1 = false) {f : Flight} (hc : w.dev.net.carried h hdr payload = some f)

include hr hc

section
/-! Good parity: the packet is acknowledged. -/

variable {net : Net} (hn : net = (entered w.dev.net h hdr).onLink h fun o => o.passed f)

include hn

theorem doPacket_of_last_hop (hlast : f.route.tail = []) : doPacket h hdr payload false w =
    deliverPacket hdr payload (w.on fun d => ({ d with net := net } : Dev).emit (.linkAck h (net.link h).accepted)) := by
  subst hn
  unfold doPacket
  dsimp only
  rw [if_neg (Bool.eq_false_iff.mp hr), hc]
  dsimp only
  rw [on_entered, hlast]
  rfl

theorem doPacket_of_next_hop {n : Hop} {rest : List Hop} (hnext : f.route.tail = n :: rest) : doPacket h hdr payload false w =
    (w.on fun d => ({ d with net := net } : Dev).emit (.linkAck h (net.link h).accepted)).on fun d =>
      { d with net := d.net.enqueue { f with route := n :: rest } } := by
  subst hn
  unfold doPacket
  dsimp only
  rw [if_neg (Bool.eq_false_iff.mp hr), hc]
  dsimp only
  rw [on_entered, hnext]
  rfl

end

/-- Bad parity: the packet is asked for again, and at the limits of R199 the link is retired. -/
theorem doPacket_of_bad : doPacket h hdr payload true w = w.on fun _ =>
    let now := w.dev.hlc (linkHub h.1)
    let e : Dev := { w.dev with net := (entered w.dev.net h hdr).onLink h fun o => o.failed f now }
    let recent (a : Bool) : Nat := ((e.net.link (h.1, a)).errors.filter fun t => within now t 1000).length
    let tries := ((e.net.link h).retry.map Prod.snd).getD 0
    if 4 ≤ tries ∨ 8 ≤ recent true + recent false then retireLink h.1 e else e.emit (.linkResend h) := by
  unfold doPacket
  dsimp only
  rw [if_neg (Bool.eq_false_iff.mp hr), hc]
  dsimp only
  rw [on_entered]
  simp only [if_true, Bool.or_eq_true, decide_eq_true_eq]
  rfl

end

/-! ## Retired links and failed routers (R200) -/

theorem enqueue_retired (x : Net) (f : Flight) : (x.enqueue f).retired = x.retired := by
  unfold Net.enqueue
  split <;> rfl

theorem enqueue_dead (x : Net) (f : Flight) : (x.enqueue f).dead = x.dead := by
  unfold Net.enqueue
  split <;> rfl

theorem detour_retired (x : Net) (l : LinkId) : (x.detour l).retired = x.retired ++ [l] :=
  foldl_keeps Net.retired enqueue_retired _ _

theorem detour_dead (x : Net) (l : LinkId) : (x.detour l).dead = x.dead := foldl_keeps Net.dead enqueue_dead _ _

theorem rebuildAll_net (d : Dev) : (rebuildAll d).net = d.net := foldl_keeps Dev.net (fun _ _ => by rfl) _ d

theorem retireLink_of_retired {l : LinkId} {d : Dev} (h : d.net.retired.contains l = true) : retireLink l d = d := if_pos h

theorem retireLink_net {l : LinkId} {d : Dev} (h : d.net.retired.contains l = false) :
    (retireLink l d).net = { d.net.detour l with gen := (d.net.detour l).gen + 1 } := by
  rw [retireLink, if_neg (Bool.eq_false_iff.mp h), rebuildAll_net]
  rfl

theorem mem_retired_retireLink (l : LinkId) (d : Dev) : l ∈ (retireLink l d).net.retired := by
  cases h : d.net.retired.contains l with
  | true =>
    rw [retireLink_of_retired h]
    exact List.contains_iff_mem.mp h
  | false =>
    rw [retireLink_net h]
    exact detour_retired d.net l ▸ List.mem_append_right _ (List.mem_singleton.mpr rfl)

theorem retireLink_keeps_retired {k : LinkId} {d : Dev} (hk : k ∈ d.net.retired) (l : LinkId) : k ∈ (retireLink l d).net.retired := by
  cases h : d.net.retired.contains l with
  | true => rwa [retireLink_of_retired h]
  | false =>
    rw [retireLink_net h]
    exact detour_retired d.net l ▸ List.mem_append_left _ hk

theorem retireLink_dead (l : LinkId) (d : Dev) : (retireLink l d).net.dead = d.net.dead := by
  cases h : d.net.retired.contains l with
  | true => rw [retireLink_of_retired h]
  | false =>
    rw [retireLink_net h]
    exact detour_dead d.net l

theorem exec_routerFail_of_dead {r : Fin 212} {s : State} (h : s.dev.net.dead.contains r.val = true) : exec (.routerFail r) s = .next s :=
  congrArg (fun d : Dev => Host.Outcome.next ({ s with dev := d } : State)) (if_pos h)

/-- A device with a router counted among the dead, and its links retired. -/
def linksRetired (r : Nat) (d : Dev) : Dev :=
  (routerLinks r).foldl (fun d l => retireLink l d) { d with net := { d.net with dead := d.net.dead ++ [r] } }

theorem linksRetired_dead (r : Nat) (d : Dev) : r ∈ (linksRetired r d).net.dead := by
  have kept : (linksRetired r d).net.dead = d.net.dead ++ [r] := foldl_keeps (fun d : Dev => d.net.dead) (fun d l => retireLink_dead l d) _ _
  exact kept ▸ List.mem_append_right _ (List.mem_singleton.mpr rfl)

theorem linksRetired_retired {r : Nat} {l : LinkId} (h : l ∈ routerLinks r) (d : Dev) : l ∈ (linksRetired r d).net.retired :=
  foldl_of_mem h (fun _ => True) (fun d : Dev => l ∈ d.net.retired) (fun _ _ _ => trivial) (fun d _ => mem_retired_retireLink l d)
    (fun _ k hd => retireLink_keeps_retired hd k) trivial

theorem exec_routerFail_of_alive {r : Fin 212} {s : State} (h : s.dev.net.dead.contains r.val = false) : ∃ d,
    exec (.routerFail r) s = .next { s with dev := d } ∧ d.net = (linksRetired r.val s.dev).net := by
  refine ⟨_, congrArg (fun d : Dev => Host.Outcome.next ({ s with dev := d } : State)) (if_neg (Bool.eq_false_iff.mp h)), ?_⟩
  dsimp only
  split
  · exact foldl_keeps Dev.net (fun d n => drainCore_net n 2 d) _ _
  · rfl

/-! ## Proxies whose home cannot be reached (R394) -/

theorem answerDead_fx (op : FOp) (src : FSrc) (d : Dev) :
    (answerDead op src d).fx.deadProxies = d.fx.deadProxies ∧ (answerDead op src d).fx.remote = d.fx.remote := by
  cases op <;> cases src <;> exact ⟨rfl, rfl⟩

/-- A proxy fails locally: its operations on their way are answered here. -/
def proxyFails (pv ps : Nat) (d : Dev) : Dev :=
  (d.fx.remote.filter fun r => r.vdev == pv && r.slot == ps).foldl (fun d r => answerDead r.op r.src d) (d.onFx fun x => { x with
    deadProxies := x.deadProxies ++ [(pv, ps)]
    remote := x.remote.filter fun r => !(r.vdev == pv && r.slot == ps) })

theorem proxyFailed_proxyFails (pv ps : Nat) (d : Dev) : (proxyFails pv ps d).proxyFailed pv ps = true := by
  have kept : (proxyFails pv ps d).fx.deadProxies = d.fx.deadProxies ++ [(pv, ps)] :=
    foldl_keeps (fun d : Dev => d.fx.deadProxies) (fun d (r : FRemote) => (answerDead_fx r.op r.src d).1) _ _
  simp [Dev.proxyFailed, kept]

theorem remote_proxyFails {pv ps : Nat} {d : Dev} {r : FRemote} (h : r ∈ (proxyFails pv ps d).fx.remote) :
    ¬ (r.vdev = pv ∧ r.slot = ps) := by
  have kept : (proxyFails pv ps d).fx.remote = d.fx.remote.filter fun r => !(r.vdev == pv && r.slot == ps) :=
    foldl_keeps (fun d : Dev => d.fx.remote) (fun d (r : FRemote) => (answerDead_fx r.op r.src d).2) _ _
  rw [kept, List.mem_filter] at h
  rintro ⟨rfl, rfl⟩
  simp at h

theorem exec_fenceProxyTimeout_of_unreached {s : State} {v : VDev} {i : BitVec 16} {pv ps : Nat}
    (href : ((s.dev.vd v.val).slot i.toNat).ref = .proxy pv ps) (huse : ((s.dev.vd v.val).slot i.toNat).inUse = true)
    (hport : s.dev.portTo v.val ((s.dev.vd v.val).slot i.toNat).pkg = none) (hlive : s.dev.proxyFailed pv ps = false) :
    exec (.fenceProxyTimeout v i) s = .next { s with dev := proxyFails pv ps s.dev } := by
  change execFenceProxyTimeout v i s = _
  unfold execFenceProxyTimeout runDev
  dsimp only
  rw [href]
  dsimp only
  rw [huse, hport, hlive]
  rfl

/-! ## Aborts (R311, Table 12-6) -/

theorem engineAbort_vds (e : Engine) (c : Cmd) (d : Dev) : (engineAbort e c d).vds = d.vds := by
  cases e with
  | core n =>
    simp only [engineAbort]
    split <;> rfl
  | ctl k =>
    rw [engineAbort, (dropShadows_spec ..).choose_spec]
  | mc k => rfl
  | dma h => rfl
  | sec => rfl
  | lx p => rfl

theorem exec_abort (v : VDev) (q : QId) (e : Engine) (s : State) :
    exec (.abort v q e) s = .next { s with dev := doAbort v.val q.val e s.dev } := rfl

/-- A command whose abort an engine has acknowledged. -/
def abortAcked (e : Engine) (c : Cmd) : Cmd := { c with
  aborts := c.aborts.filter (· != e)
  abortAcks := c.abortAcks ++ [e] }

theorem doAbort_of_listed {v q : Nat} {e : Engine} {c : Cmd} {d : Dev} (hc : d.cur? v q = some c) (ha : c.aborts.contains e = true) :
    doAbort v q e d = engineAbort e c (d.onCur v q (abortAcked e)) := by
  rw [doAbort, hc]
  simp only [ha, Bool.not_true, Bool.false_eq_true, if_false]
  rfl

theorem doAbort_of_not_listed {v q : Nat} {e : Engine} {d : Dev} (h : ∀ c, d.cur? v q = some c → c.aborts.contains e = false) :
    doAbort v q e d = d := by
  unfold doAbort
  split
  next => rfl
  next c hc => simp only [h c hc, Bool.not_false, if_true]

theorem cur?_doAbort_of_listed {v q : Nat} {e : Engine} {c : Cmd} {d : Dev} (hc : d.cur? v q = some c) (ha : c.aborts.contains e = true) :
    (doAbort v q e d).cur? v q = some (abortAcked e c) := by
  rw [doAbort_of_listed hc ha, cur?_congr (engineAbort_vds ..), Dev.cur?_onCur_same, hc, Option.map_some]

end Sys2Proof.Machine
end

section
/-! The statement about groups, collectives and messages, from the rules above. -/

namespace Sys2Proof.Machine

open Sys2Proof

/-- Settles O37: each clause is the rule of its command on the state it names. -/
theorem collectivesAndMessages : Obligations.CollectivesAndMessages := by
  unfold Obligations.CollectivesAndMessages
  refine ⟨?join, ?leave, ?collective, ?barred, ?phases, ?noMember, ?peerFailure, ?failExchange, ?noAttempt, ?restart, ?resume, ?flush,
    ?fragments, ?fragment, ?fullWord, ?word, ?whole, ?incomplete, ?mgmt, ?notCarried, ?goodPacket, ?badPacket, ?deadRouter, ?router,
    ?mgmtSegment, ?segment, ?noSegment, ?proxy, ?abort, ?noAbort⟩
  case join =>
    intro s v i bs h a g hlow hhigh hrank hrouted hnew hroom
    have joined : (joinedGroup v.val g s.dev).vd v.val = _ := Dev.vd_onVd_same s.dev v.val _
    exact gives_of_performed rfl h (doJoinGroup_performed (w := work s) (g := g) rfl hlow hhigh hrank hrouted hnew hroom)
      fun fns ns l fw out => ⟨congrArg Vd.groups joined, rfl⟩
  case leave =>
    intro s v i bs y h g hy
    obtain ⟨fab, hl⟩ := doLeaveGroup_performed (r := headReq v.val i bs) (w := work s) hy
    have left : (leftGroup v.val g s.dev).vd v.val = _ := Dev.vd_onVd_same s.dev v.val _
    exact gives_of_performed rfl h hl fun fns ns l fw out => ⟨(congrArg (fun x : Vd => x.group? g) left).trans (group?_filter_ne _ g),
      congrArg Vd.groups left⟩
  case collective =>
    intro s v q rs i k x c hi hr hb
    have step {w : Wk} (hw : exchangeStep k ⟨v.val, q.val, x, c⟩ rs (work s) = w) : exec i s = .next (after s w) := by
      rw [exec_of_mem_collectiveRows hi, runCollective_of_running (w := work s) hr, ← hw]
      exact congrArg (fun w => Host.Outcome.next (after s w)) (if_neg (Bool.eq_false_iff.mp hb))
    intro me all twin opened ms parts t far
    refine ⟨fun h => step (exchangeStep_of_refused h), fun hr => ⟨fun h => step (exchangeStep_of_failed hr h), fun hf =>
      ⟨fun h => step (exchangeStep_of_twin hr hf h), fun ht ho => ?_⟩⟩⟩
    have single := exchangeStep_of_single (k := k) (me := me) (w := work s) hr hf ht ho
    refine ⟨fun h => step (single.trans (exchangeTerms_of_mismatch h)),
      fun m e hm hp h => step (single.trans (exchangeTerms_of_error hm hp h)), fun mine hm hp h => ?_⟩
    have agreed := single.trans (exchangeTerms_of_ok hm hp h)
    refine ⟨fun h => step (agreed.trans (exchangeInputs_of_corrupt h)), fun h => ?_⟩
    intro data xs own w owed
    have here : exchangeStep k me rs (work s) = writeWhenComplete k c ms xs w :=
      (agreed.trans (exchangeInputs_of_intact h)).trans (congrArg (writeWhenComplete k c ms xs) (phasesCommitted_eq k c ms own xs parts (work s)))
    exact ⟨fun h => step (here.trans (writeWhenComplete_of_incomplete h)), fun hn ho =>
      ⟨fun m e h => step (here.trans (writeWhenComplete_of_blocked hn ho h)), fun h => step (here.trans (writeWhenComplete_of_writable hn ho h))⟩⟩
  case barred =>
    intro s v q rs i k x c hi hr hb
    rw [exec_of_mem_collectiveRows hi, runCollective_of_running (w := work s) hr]
    exact congrArg (fun w => Host.Outcome.next (after s w)) (if_pos hb)
  case phases =>
    intro k m own xs parts w r till
    exact ⟨fun h => commitPhases_of_reached h own parts, fun h => ⟨_, phaseOf_commitPhases h own parts, rfl, rfl, rfl⟩⟩
  case noMember =>
    intro s g seq _ hm
    exact ⟨_, exec_peerFailure_of_no_member hm, mem_failed_failExchange .., noticePassed_vds ..⟩
  case peerFailure => exact fun s g seq => exec_peerFailure g seq s
  case failExchange =>
    intro d g seq
    refine ⟨failExchange_of_failed, fun h => ⟨mem_failed_failExchange g seq d, fun v hv p hp => ?_⟩⟩
    obtain ⟨o, ho⟩ := failExchange_of_new h
    rw [ho]
    exact peerFailure_mem_allTold hv hp seq
  case noAttempt => exact fun s g seq h => exec_restart_of_no_attempt h
  case restart =>
    intro s g seq h
    exact congrArg (fun w => Host.Outcome.next (after s w)) (doRestart_of_attempt (w := work s) h)
  case resume =>
    intro s g seq j e he
    refine ⟨?_, fun h => ?_⟩
    · rintro ⟨hg, hs, hj⟩
      rw [exec_resume, doResume_of_kept (w := work s) he hg hs hj]
      rfl
    · rw [exec_resume, doResume_of_not_kept (w := work s) he h]
  case flush => exact fun w e p pkg j data hd hs => ⟨flushExchange_of_no_port hd hs, flushExchange_of_port hd hs⟩
  case fragments =>
    intro s ep src m first fs y
    refine ⟨fun h => exec_fragments_of_bad_length h ep src m first s, fun h0 h4 h => ?_, fun h0 h4 h => ?_⟩
    · rw [exec_fragments_of_length h0 h4, placeFragments_of_corrupt ep src m first (work s) h]
    · rw [exec_fragments_of_length h0 h4, placeFragments_of_good ep src m first (work s) h]
      rfl
  case fragment =>
    intro s ep src m first f hf hn
    have good : ∀ g ∈ [f], fragDecode g ≠ .corrupt := fun g hg => List.mem_singleton.mp hg ▸ hf
    have placed : IsMsg (withFragments (s.dev.net.msg ep src m) first [f]) ep src m := isMsg_msg s.dev.net ep src m
    refine ⟨{ s.dev with net := s.dev.net.setMsg (withFragments (s.dev.net.msg ep src m) first [f]) }, ?_, ?_, rfl⟩
    · rw [exec_fragments_of_length (by simp) (by simp), placeFragments_of_good ep src m first (work s) good]
      exact congrArg Host.Outcome.next (settleMsg_setMsg_of_no_command placed hn)
    · show Tab.get? ((s.dev.net.setMsg _).msg ep src m).frags first = some f
      rw [msg_setMsg placed]
      exact Tab.get?_put_same ..
  case fullWord => exact fun s ep src m n x => exec_fullWord ep src m n x s
  case word =>
    intro s ep src m n x hn
    have placed : IsMsg (withWord (s.dev.net.msg ep src m) n x) ep src m := isMsg_msg s.dev.net ep src m
    have kept : (s.dev.net.setMsg (withWord (s.dev.net.msg ep src m) n x)).msg ep src m = _ := msg_setMsg placed s.dev.net
    refine ⟨{ s.dev with net := s.dev.net.setMsg (withWord (s.dev.net.msg ep src m) n x) },
      (exec_fullWord ep src m n x s).trans (congrArg Host.Outcome.next (settleMsg_setMsg_of_no_command placed hn)), ?_,
      (congrArg FragMsg.frags kept).trans rfl, rfl⟩
    exact (congrArg (fun y : FragMsg => Tab.get? y.words n) kept).trans (Tab.get?_put_same ..)
  case whole =>
    intro y w c n h hc hn z
    obtain ⟨hsums, hmsgs⟩ := settleMsg_of_complete h hc hn
    refine ⟨hsums ▸ List.mem_append_right _ (List.mem_singleton.mpr rfl), fun k hk hsame => ?_⟩
    have other := (List.mem_filter.mp (hmsgs ▸ hk)).2
    rw [(isMsg_iff ..).mpr hsame] at other
    cases other
  case incomplete => exact fun y w c n => settleMsg_of_incomplete
  case mgmt => exact fun s dest src bs => ⟨_, rfl, rfl, rfl⟩
  case notCarried =>
    intro s h p bad hor
    refine congrArg (fun w => Host.Outcome.next (after s w)) (?_ : doPacket h p.hdr p.payload bad (work s) = work s)
    rcases hor with hr | hc
    · exact doPacket_of_retired hr bad
    · exact doPacket_of_not_carried hc bad
  case goodPacket =>
    intro s h p f hr hc came net w
    cases hroute : f.route.tail with
    | nil => exact congrArg (fun w => Host.Outcome.next (after s w)) (doPacket_of_last_hop (w := work s) hr hc rfl hroute)
    | cons n rest => exact congrArg (fun w => Host.Outcome.next (after s w)) (doPacket_of_next_hop (w := work s) hr hc rfl hroute)
  case badPacket =>
    intro s h p f hr hc came now e recent tries
    exact ⟨_, congrArg (fun w => Host.Outcome.next (after s w)) (doPacket_of_bad (w := work s) hr hc), rfl⟩
  case deadRouter => exact fun s r h => exec_routerFail_of_dead h
  case router =>
    intro s r h
    obtain ⟨d, hd, hnet⟩ := exec_routerFail_of_alive h
    exact ⟨d, hd, hnet ▸ linksRetired_dead r.val s.dev, fun l hl => hnet ▸ linksRetired_retired hl s.dev⟩
  case mgmtSegment =>
    intro s p hdr bs ht hl hn hk
    exact ⟨_, congrArg (fun w => Host.Outcome.next (after s w)) (doSegment_of_mgmt (w := work s) ⟨ht, hl, hn⟩ hk), rfl⟩
  case segment =>
    intro s p hdr bs ht hl hn dest src vdev msg first
    have taken : SegmentTaken (work s).dev p.val hdr bs := ⟨ht, hl, hn⟩
    exact ⟨fun hk h32 hmax => ⟨_, congrArg (fun w => Host.Outcome.next (after s w)) (doSegment_of_fragments taken hk h32 hmax), rfl⟩,
      fun hk h96 => ⟨_, congrArg (fun w => Host.Outcome.next (after s w)) (doSegment_of_word taken hk h96), rfl⟩,
      fun hk => congrArg (fun w => Host.Outcome.next (after s w)) (doSegment_of_control taken hk)⟩
  case noSegment =>
    intro s p hdr bs h
    refine congrArg (fun w => Host.Outcome.next (after s w)) (doSegment_of_not_taken (w := work s) ?_)
    rintro ⟨ht, hl, hn⟩
    rcases h with h | h | h
    · exact Bool.false_ne_true (h.symm.trans ht)
    · exact h hl
    · omega
  case proxy =>
    intro s v i pv ps href huse hport hlive
    exact ⟨_, exec_fenceProxyTimeout_of_unreached href huse hport hlive, proxyFailed_proxyFails .., fun r => remote_proxyFails⟩
  case abort =>
    intro s v q e c hc ha
    exact ⟨_, exec_abort v q e s, doAbort_of_listed hc ha, cur?_doAbort_of_listed hc ha⟩
  case noAbort =>
    intro s v q e h
    rw [exec_abort, doAbort_of_not_listed h]

end Sys2Proof.Machine
end

section
/-! Running kernels: a resident group and the lanes that issue (R138, R163, R167), the registers and flags that an instruction writes
(R139), and accesses outside watch mode (R172). -/

namespace Sys2Proof

/-- The first answer over a table stays the answer of its key when that key's entry is replaced by one that answers. -/
theorem Tab.findSome?_put {α β : Type} {p : Nat × α → Option β} {b c : β} {i : Nat} {y : α} (hi : ∀ e, p e = some b → e.1 = i)
    (hy : p (i, y) = some c) : {t : Tab α} → t.findSome? p = some b → (Tab.put t i y).findSome? p = some c
  | (k, a) :: t, h => by
    rcases Nat.lt_trichotomy i k with hlt | rfl | hgt
    · simp [Tab.put, hlt, hy]
    · simp [Tab.put, hy]
    · have hput : Tab.put ((k, a) :: t) i y = (k, a) :: Tab.put t i y := by
        simp [Tab.put, Nat.not_lt_of_gt hgt, Nat.ne_of_gt hgt]
      rw [List.findSome?_cons] at h
      rw [hput, List.findSome?_cons]
      split at h
      next hb => exact absurd (hi (k, a) (hb.trans h)) (Nat.ne_of_lt hgt)
      next => exact Tab.findSome?_put hi hy h

/-- Reading a table from which the entries of some keys are removed. -/
theorem Tab.get?_filter_key {α : Type} (p : Nat → Bool) (i : Nat) :
    (t : Tab α) → Tab.get? (t.filter fun e => p e.1) i = if p i then Tab.get? t i else none
  | [] => by simp
  | (k, a) :: t => by
    have ih := Tab.get?_filter_key p i t
    by_cases hk : k = i
    · subst hk
      cases hp : p k <;> simp [Tab.get?, hp] at ih ⊢
      exact ih
    · cases hp : p k <;> simp [Tab.get?, hp, hk, ih]

end Sys2Proof

namespace Sys2Proof.Machine

open Sys2Proof

/-! ## A resident group -/

/-- What one entry of the running kernels answers for a core and a group: the group, where its kernel runs on the core. -/
def residentOf (d : Dev) (n g : Nat) (p : Nat × KRun) : Option KAt :=
  match Tab.get? p.2.groups g, d.cur? p.2.vdev p.2.queue with
  | some x, some c =>
    if x.core == n && !p.2.stopped && c.no == p.1 && c.phase == .running &&
        ((d.core n).busy == some p.1 || (d.core n).switched == some p.1) then some ⟨p.1, p.2, x, c⟩
    else none
  | _, _ => none

theorem at?_eq (d : Dev) (n g : Nat) : d.at? n g = d.kern.findSome? (residentOf d n g) := rfl

/-- Whether the run of kernel `no` with command `c` issues on core `n`. -/
def IssuesOn (d : Dev) (n no : Nat) (r : KRun) (x : KGroup) (c : Cmd) : Prop :=
  x.core = n ∧ r.stopped = false ∧ c.no = no ∧ c.phase = .running ∧ ((d.core n).busy = some no ∨ (d.core n).switched = some no)

theorem residentOf_eq_some_iff {d : Dev} {n g : Nat} {p : Nat × KRun} {a : KAt} : residentOf d n g p = some a ↔
    p = (a.no, a.run) ∧ Tab.get? a.run.groups g = some a.grp ∧ d.cur? a.run.vdev a.run.queue = some a.cmd ∧
      IssuesOn d n a.no a.run a.grp a.cmd := by
  obtain ⟨no, r⟩ := p
  obtain ⟨no', r', x', c'⟩ := a
  unfold residentOf IssuesOn
  constructor
  · intro h
    split at h
    next x c hx hc =>
      split at h
      next hi =>
        cases h
        exact ⟨rfl, hx, hc, by simpa [and_assoc] using hi⟩
      next => cases h
    next => cases h
  · rintro ⟨hp, hx, hc, hi⟩
    cases hp
    dsimp only at hx hc hi ⊢
    rw [hx, hc]
    exact if_pos (by simpa [and_assoc] using hi)

theorem at?_spec {d : Dev} {n g : Nat} {a : KAt} (h : d.at? n g = some a) : Tab.get? a.run.groups g = some a.grp ∧
    d.cur? a.run.vdev a.run.queue = some a.cmd ∧ IssuesOn d n a.no a.run a.grp a.cmd := by
  obtain ⟨p, -, hp⟩ := List.exists_of_findSome?_eq_some (at?_eq .. ▸ h)
  exact (residentOf_eq_some_iff.mp hp).2

theorem groups_get?_of_at? {d : Dev} {n g : Nat} {a : KAt} (h : d.at? n g = some a) : Tab.get? a.run.groups g = some a.grp :=
  (at?_spec h).1

/-- A group is found again after its run was replaced by one of the same queue in which it still issues. -/
theorem at?_setRun {d : Dev} {n g : Nat} {a : KAt} (h : d.at? n g = some a) {r : KRun} {x : KGroup} (hx : Tab.get? r.groups g = some x)
    (hv : r.vdev = a.run.vdev) (hq : r.queue = a.run.queue) (hs : r.stopped = a.run.stopped) (hcore : x.core = a.grp.core) :
    (d.setRun a.no r).at? n g = some ⟨a.no, r, x, a.cmd⟩ := by
  obtain ⟨-, hcmd, hon, hstop, hrest⟩ := at?_spec h
  refine Tab.findSome?_put (p := residentOf d n g) (fun e he => congrArg Prod.fst (residentOf_eq_some_iff.mp he).1) ?_ (at?_eq .. ▸ h)
  exact residentOf_eq_some_iff.mpr ⟨rfl, hx, hv ▸ hq ▸ hcmd, hcore.trans hon, hs.trans hstop, hrest⟩

/-! ## The lanes that issue -/

theorem activeLanes_eq_some_iff {d : Dev} {a : KAt} {g : Nat} {mask : BitVec 32} {regs ls : List Nat} :
    activeLanes d a g mask regs = some ls ↔
      mask &&& ~~~a.grp.ended ≠ 0 ∧ mask &&& ~~~a.grp.ended &&& (a.grp.atGroup ||| a.grp.atCohort) = 0 ∧
      (∀ r ∈ regs, r < hdrRegs a.cmd.hdr) ∧ (∀ l ∈ ls, ∀ r ∈ pendingRegs d a g l, r ∉ regs) ∧
      lanesOf (mask &&& ~~~a.grp.ended) = ls := by
  unfold activeLanes
  dsimp only
  split
  next h =>
    simp only [Bool.or_eq_true, beq_iff_eq, bne_iff_ne, List.any_eq_true, decide_eq_true_eq] at h
    refine ⟨nofun, fun ⟨h0, hw, hr, _⟩ => ?_⟩
    rcases h with (h | h) | ⟨r, hm, h⟩
    · exact absurd h h0
    · exact absurd hw h
    · exact absurd (hr r hm) (Nat.not_lt.mpr h)
  next h =>
    simp only [Bool.or_eq_true, beq_iff_eq, bne_iff_ne, List.any_eq_true, decide_eq_true_eq, not_or, not_exists, not_and, Nat.not_le,
      not_not] at h
    obtain ⟨⟨h0, hw⟩, hr⟩ := h
    split
    next hp =>
      simp only [List.any_eq_true, List.contains_iff_mem] at hp
      obtain ⟨l, hl, r, hr', hmem⟩ := hp
      exact ⟨nofun, fun ⟨_, _, _, hn, he⟩ => absurd hmem (hn l (he ▸ hl) r hr')⟩
    next hp =>
      simp only [List.any_eq_true, List.contains_iff_mem, not_exists, not_and] at hp
      refine ⟨fun h => ?_, fun ⟨_, _, _, _, he⟩ => congrArg some he⟩
      cases h
      exact ⟨h0, hw, hr, hp, rfl⟩

/-- Lanes that issue an instruction issue one without registers, as long as they have neither ended nor come to a barrier. -/
theorem activeLanes_of_same_lanes {d e : Dev} {a b : KAt} {g : Nat} {mask : BitVec 32} {regs ls : List Nat}
    (h : activeLanes d a g mask regs = some ls) (he : b.grp.ended = a.grp.ended) (hg : b.grp.atGroup = a.grp.atGroup)
    (hc : b.grp.atCohort = a.grp.atCohort) : activeLanes e b g mask [] = some ls := by
  obtain ⟨h0, hw, -, -, hls⟩ := activeLanes_eq_some_iff.mp h
  rw [activeLanes_eq_some_iff, he, hg, hc]
  exact ⟨h0, hw, nofun, fun _ _ _ _ => List.not_mem_nil, hls⟩

/-! ## Changes of a run -/

theorem setRun_setRun (d : Dev) (no : Nat) (r r' : KRun) : (d.setRun no r).setRun no r' = d.setRun no r' := by
  simp only [Dev.setRun, Tab.put_put]

theorem onG_of_get? {r : KRun} {g : Nat} {x : KGroup} (h : Tab.get? r.groups g = some x) (f : KGroup → KGroup) :
    r.onG g f = { r with groups := Tab.put r.groups g (f x) } := by
  simp only [KRun.onG, h]

theorem onG_frame (r : KRun) (g : Nat) (f : KGroup → KGroup) : { r.onG g f with groups := r.groups } = r := by
  unfold KRun.onG
  split <;> rfl

/-- The resident group of a run after a change. -/
theorem get?_onG_same {r : KRun} {g : Nat} {x : KGroup} (h : Tab.get? r.groups g = some x) (f : KGroup → KGroup) :
    Tab.get? (r.onG g f).groups g = some (f x) := by
  rw [onG_of_get? h]
  exact Tab.get?_put_same ..

theorem get?_onG_ne {g h : Nat} (hne : h ≠ g) (r : KRun) (f : KGroup → KGroup) :
    Tab.get? (r.onG g f).groups h = Tab.get? r.groups h := by
  unfold KRun.onG
  split
  · exact Tab.get?_put_ne _ _ hne
  · rfl

/-! ## Registers and flags of a lane -/

theorem addFlags_zero (l : Nat) (x : KGroup) : x.addFlags l 0 = x := if_pos rfl

theorem addFlags_frame (l : Nat) (f : FlagWord) (x : KGroup) : { x.addFlags l f with flags := x.flags } = x := by
  unfold KGroup.addFlags
  split <;> rfl

@[simp] theorem addFlags_regs (l : Nat) (f : FlagWord) (x : KGroup) : (x.addFlags l f).regs = x.regs :=
  (congrArg KGroup.regs (addFlags_frame l f x) :)

@[simp] theorem addFlags_store (l : Nat) (f : FlagWord) (x : KGroup) : (x.addFlags l f).store = x.store :=
  (congrArg KGroup.store (addFlags_frame l f x) :)

@[simp] theorem addFlags_movers (l : Nat) (f : FlagWord) (x : KGroup) : (x.addFlags l f).movers = x.movers :=
  (congrArg KGroup.movers (addFlags_frame l f x) :)

theorem getD_flags_addFlags (l : Nat) (f : FlagWord) (x : KGroup) :
    Tab.getD (x.addFlags l f).flags l 0 = Tab.getD x.flags l 0 ||| f := by
  unfold KGroup.addFlags
  split
  next h => rw [h]; exact BitVec.or_zero.symm
  next => exact Tab.getD_put_same ..

theorem setRegs_frame (l : Nat) : ∀ (vs : List (BitVec 32)) (r : Nat) (x : KGroup), { KGroup.setRegs l r vs x with regs := x.regs } = x
  | [], _, _ => rfl
  | v :: vs, r, x => congrArg (fun y : KGroup => { y with regs := x.regs })
    (setRegs_frame l vs (r + 1) { x with regs := Tab.put x.regs (256 * l + r) v })

theorem get?_setRegs_of_ne {l k : Nat} : ∀ {vs : List (BitVec 32)} {r : Nat} {x : KGroup}, (∀ j < vs.length, k ≠ 256 * l + (r + j)) →
    Tab.get? (KGroup.setRegs l r vs x).regs k = Tab.get? x.regs k
  | [], _, _, _ => rfl
  | v :: vs, r, x, h => by
    rw [KGroup.setRegs, get?_setRegs_of_ne fun j hj => by have := h (j + 1) (Nat.succ_lt_succ hj); omega]
    exact Tab.get?_put_ne _ _ (h 0 (Nat.succ_pos _))

theorem get?_setRegs_of_getElem? {l : Nat} {v : BitVec 32} : ∀ {vs : List (BitVec 32)} {r i : Nat} {x : KGroup}, vs[i]? = some v →
    Tab.get? (KGroup.setRegs l r vs x).regs (256 * l + (r + i)) = some v
  | w :: vs, r, 0, x, h => by
    cases h
    rw [KGroup.setRegs, get?_setRegs_of_ne fun j _ => by omega]
    exact Tab.get?_put_same ..
  | w :: vs, r, i + 1, x, h => by
    rw [KGroup.setRegs, show r + (i + 1) = r + 1 + i by omega]
    exact get?_setRegs_of_getElem? (by simpa using h)

theorem reg_of_get? {x : KGroup} {l r : Nat} {v : BitVec 32} (h : Tab.get? x.regs (256 * l + r) = some v) : x.reg l r = v := by
  rw [KGroup.reg, h]
  rfl

theorem reg_congr {x y : KGroup} {l r : Nat} (hf : x.fresh = y.fresh) (h : Tab.get? x.regs (256 * l + r) = Tab.get? y.regs (256 * l + r)) :
    x.reg l r = y.reg l r := by
  rw [KGroup.reg, KGroup.reg, hf, h]

/-! ## Accesses outside watch mode -/

theorem watchAll_of_not_watching {k : Cmd} (h : klWatch k.params = false) (l : List WAcc) (r : KRun) : watchAll k l r = (r, none) := by
  refine List.foldlRecOn l _ (motive := fun p => p = (r, none)) rfl ?_
  rintro _ rfl a -
  simp [watch, h, firstRace]

theorem watchInstr_of_not_watching {a : KAt} (h : klWatch a.cmd.params = false) (g : Nat) (l : List (Nat × Loc × AccKind × Byte))
    (r : KRun) : watchInstr a g l r = ({ r with nextAcc := r.nextAcc + 1 }, none) := by
  rw [watchInstr, watchAll_of_not_watching h]

theorem firstRace_none (x : Option Race) : firstRace x none = x := by cases x <;> rfl

theorem putRun_none (no : Nat) (r : KRun) (w : Wk) : putRun no r none w = w.on fun d => d.setRun no r := rfl

theorem get?_kern_setRun (d : Dev) (no : Nat) (r : KRun) : Tab.get? (d.setRun no r).kern no = some r := Tab.get?_put_same ..

end Sys2Proof.Machine
end

section
/-! Where an instruction of a group issues (R138, R163), and what it comes to where one of its reads meets a parity error (R146, R147,
R414). -/

namespace Sys2Proof.Machine

open Sys2Proof

/-! ## Parity errors -/

theorem runMem_after (f : Wk → Wk) (s : State) : runMem f s = .next (after s (f (work s))) := rfl

theorem runMem_of_idle {f : Wk → Wk} {s : State} (h : f (work s) = work s) : runMem f s = .next s := by
  rw [runMem_after, h]
  rfl

/-- What an error in a core's own memories makes of an instruction of group `g`. -/
def memoryMet (n g : Nat) (m : CoreMem) (w : Wk) : Wk :=
  match w.dev.at? n g with
  | none => w
  | some a => coreError a m w

theorem coreStep_of_memory {n : CoreId} {m : CoreMem} (hm : ∀ va x, m ≠ .line va x) (g : Nat) (f : Wk → Wk) (s : State) :
    coreStep ⟨n, some m⟩ g f s = .next (after s (memoryMet n.val g m (work s))) := by
  cases m
  case line va x => exact absurd rfl (hm va x)
  all_goals rfl

theorem coreStep_of_parity {n : CoreId} {m : CoreMem} (hm : ∀ va x, m ≠ .line va x) {g : Nat} {s : State} {a : KAt}
    (h : s.dev.at? n.val g = some a) (f : Wk → Wk) : coreStep ⟨n, some m⟩ g f s = .next (after s (coreError a m (work s))) := by
  rw [coreStep_of_memory hm, memoryMet, show (work s).dev.at? n.val g = some a from h]

theorem coreStep_of_absent {n : CoreAt} {g : Nat} {s : State} (h : s.dev.at? n.core.val g = none) {f : Wk → Wk}
    (hf : f (work s) = work s) : coreStep n g f s = .next s := by
  obtain ⟨n, _ | m⟩ := n
  · exact runMem_of_idle hf
  · by_cases hm : ∃ va x, m = .line va x
    · obtain ⟨va, x, rfl⟩ := hm
      exact runMem_of_idle hf
    · rw [coreStep_of_memory (fun va x e => hm ⟨va, x, e⟩), memoryMet, show (work s).dev.at? n.val g = none from h]
      rfl

/-! ## No thread to issue -/

/-- No group on the core under this number has a thread of the mask that can issue. -/
def NoThread (d : Dev) (n g : Nat) (mask : BitVec 32) : Prop :=
  ∀ a, d.at? n g = some a → ∀ regs, activeLanes d a g mask regs = none

theorem noThread_of_absent {d : Dev} {n g : Nat} (h : d.at? n g = none) (mask : BitVec 32) : NoThread d n g mask := by
  intro a ha
  rw [h] at ha
  cases ha

/-- R138, R163: a group whose threads of the mask have all ended, or one of whose waits at a barrier, issues nothing. -/
theorem noThread_of_not_free {d : Dev} {n g : Nat} {mask : BitVec 32} {a : KAt} (h : d.at? n g = some a)
    (hm : mask &&& ~~~a.grp.ended = 0 ∨ mask &&& ~~~a.grp.ended &&& (a.grp.atGroup ||| a.grp.atCohort) ≠ 0) : NoThread d n g mask := by
  intro b hb regs
  obtain rfl : a = b := Option.some.inj (h.symm.trans hb)
  refine Option.eq_none_iff_forall_ne_some.mpr fun ls hls => ?_
  obtain ⟨h0, hw, -⟩ := activeLanes_eq_some_iff.mp hls
  exact hm.elim h0 fun hne => hne hw

/-- An effect that asks for the group, and then for its lanes that issue, is none without a thread to issue. -/
theorem effect_of_noThread {α : Type} {d : Dev} {n g : Nat} {mask : BitVec 32} {x : α} {regs : KAt → List Nat}
    {f : KAt → List Nat → α} (h : NoThread d n g mask) :
    (match d.at? n g with
      | none => x
      | some a => match activeLanes d a g mask (regs a) with
        | none => x
        | some ls => f a ls) = x := by
  cases ha : d.at? n g with
  | none => rfl
  | some a => simp only [h a ha]

theorem on_of_idle {f : Dev → Dev} {w : Wk} (h : f w.dev = w.dev) : w.on f = w := by
  rw [Wk.on, h]

section
/-! With no thread to issue, an instruction leaves the device or the work as it is. -/

variable {d : Dev} {w : Wk} {n g : Nat} {mask : BitVec 32}

theorem laneInstr_of_noThread (h : NoThread d n g mask) (uses : List Nat) (rd : Nat) (f : KAt → Nat → List (BitVec 32) × FlagWord) :
    laneInstr n g mask uses rd f d = d := effect_of_noThread h

theorem issueMover_of_noThread (h : NoThread d n g mask) (x : MoverArg) (peer : KAt → Option (Nat × Nat × Nat × Nat) × FlagWord) :
    issueMover n g mask x peer d = d := effect_of_noThread h

theorem issueOrdered_of_noThread {l : Nat} (h : NoThread w.dev n g (laneBit l)) (rd : Nat) (regs : List Nat) (anyLaunch : Bool)
    (op : KAt → OrdOp × FlagWord) : issueOrdered n g l rd regs anyLaunch op w = w := effect_of_noThread h

theorem doOrderFree_of_noThread (h : NoThread w.dev n g mask) (core : Bool) (ra : Nat) (uses : List Nat)
    (op : KAt → Nat → AtOp × FlagWord) (reads : KAt → Nat → List (Nat × Loc × AccKind × Byte)) :
    doOrderFree n g mask core ra uses op reads w = w := effect_of_noThread h

/-- R182: the allocator answers at once without a heap, and takes an ordered request with one. -/
theorem heapRequest_of_noThread {l : Nat} (h : NoThread w.dev n g (laneBit l)) {uses regs : List Nat} {rd rd' : Nat} {anyLaunch : Bool}
    {f : KAt → Nat → List (BitVec 32) × FlagWord} {op : KAt → OrdOp × FlagWord} :
    (match w.dev.at? n g with
      | none => w
      | some a => if klHeap a.cmd.params = 0 then w.on (laneInstr n g (laneBit l) uses rd f)
        else issueOrdered n g l rd' regs anyLaunch op w) = w := by
  split
  · rfl
  · rw [on_of_idle (laneInstr_of_noThread h ..), issueOrdered_of_noThread h, ite_self]

theorem loadMeetsParity_of_noThread (h : NoThread w.dev n g mask) (parityBad : Bool) {regs : KAt → List Nat} {f : KAt → List Nat → Wk}
    (size : AccSize) (rd ra : Nat) :
    (if parityBad then
      match w.dev.at? n g with
      | none => w
      | some a => match activeLanes w.dev a g mask (regs a) with
        | none => w
        | some ls => f a ls
    else doCsLoad n g mask size rd ra w) = w := by
  rw [effect_of_noThread h, show doCsLoad n g mask size rd ra w = w from effect_of_noThread h, ite_self]

theorem mclear_of_noThread (h : NoThread d n g mask) {f : KAt → Dev} :
    (match d.at? n g with
      | none => d
      | some a => if (activeLanes d a g mask []).isNone then d else f a) = d := by
  cases ha : d.at? n g with
  | none => rfl
  | some a => simp only [h a ha, Option.isNone_none, if_true]

theorem identityRead_of_noThread (h : NoThread d n g mask) (uses : List Nat) (rd : Nat) (f : KAt → Nat → List (BitVec 32) × FlagWord)
    (clears : Bool) :
    (let reads := match d.at? n g with
      | some a => (activeLanes d a g mask uses).isSome
      | none => false
    let e := laneInstr n g mask uses rd f d
    if reads && clears then clearFlags n g mask e else e) = d := by
  have silent : clearFlags n g mask d = d := effect_of_noThread h
  rw [laneInstr_of_noThread h]
  dsimp only
  rw [silent, ite_self]

end

/-! ## The instructions of a group -/

/-- Instruction `i` is the step `f` of group `g` on core `n`, which needs a thread of `mask` to issue. -/
structure IssuedBy (i : Instr) (n : CoreAt) (g : Nat) (mask : BitVec 32) (f : Wk → Wk) : Prop where
  exec_eq : ∀ s, exec i s = coreStep n g f s
  exec_readsGood : ∀ s, exec (readsGood i) s = runMem f s
  idle : ∀ w, NoThread w.dev n.core.val g mask → f w = w

theorem groupInstr_issuedBy {i : Instr} {n : CoreAt} {g : Nat} {mask : BitVec 32} (h : groupInstr i = some (n, g, mask)) :
    ∃ f, IssuedBy i n g mask f := by
  unfold groupInstr at h
  split at h <;> cases h
  -- MMA, MDRAIN, CORE_STORE_STORE, GLOBAL_LOAD, GLOBAL_STORE, ATOMIC_PEAT_ACCUMULATE
  case h_1 | h_2 | h_8 | h_9 | h_10 | h_13 => exact ⟨_, fun _ => rfl, fun _ => rfl, fun _ hn => effect_of_noThread hn⟩
  -- ORDREL, GROUP_BARRIER, COHORT_BARRIER, MOVER_WAIT, THREAD_END
  case h_19 | h_20 | h_21 | h_24 | h_26 => exact ⟨_, fun _ => rfl, fun _ => rfl, fun _ hn => on_of_idle (effect_of_noThread hn)⟩
  -- MCLEAR
  case h_3 => exact ⟨_, fun _ => rfl, fun _ => rfl, fun _ hn => on_of_idle (mclear_of_noThread hn)⟩
  -- VECTOR_OP, FUNCTION_OP
  case h_4 | h_5 => exact ⟨_, fun _ => rfl, fun _ => rfl, fun _ hn => on_of_idle (by rw [laneInstr_of_noThread hn, ite_self])⟩
  -- WISP
  case h_6 => exact ⟨_, fun _ => rfl, fun _ => rfl, fun _ hn => on_of_idle (laneInstr_of_noThread hn ..)⟩
  -- CORE_STORE_LOAD
  case h_7 => exact ⟨_, fun _ => rfl, fun _ => rfl, fun _ hn => loadMeetsParity_of_noThread hn ..⟩
  -- ATOMIC_INT, ATOMIC_FP_MINMAX
  case h_11 | h_12 => exact ⟨_, fun _ => rfl, fun _ => rfl, fun _ hn => doOrderFree_of_noThread hn ..⟩
  -- COMPARE_AND_SWAP, EXCHANGE, FETCH_ATOMIC
  case h_14 | h_15 | h_16 => exact ⟨_, fun _ => rfl, fun _ => rfl, fun _ hn => issueOrdered_of_noThread hn ..⟩
  -- DALLOC, DFREE
  case h_17 | h_18 => exact ⟨_, fun _ => rfl, fun _ => rfl, fun _ hn => heapRequest_of_noThread hn⟩
  -- MOVER_TRANSFER
  case h_22 => exact ⟨_, fun _ => rfl, fun _ => rfl, fun _ hn => on_of_idle (by rw [issueMover_of_noThread hn, ite_self])⟩
  -- PEER_TRANSFER
  case h_23 => exact ⟨_, fun _ => rfl, fun _ => rfl, fun _ hn => on_of_idle (issueMover_of_noThread hn ..)⟩
  -- IDENTITY_READ
  case h_25 => exact ⟨_, fun _ => rfl, fun _ => rfl, fun _ hn => on_of_idle (identityRead_of_noThread hn ..)⟩

/-! ## A transfer whose bytes have landed -/

theorem exec_moverTransferComplete_of_memory {n : CoreId} {m : CoreMem} (hm : ∀ va x, m ≠ .line va x) (g id : Nat) (s : State) :
    exec (.moverTransferComplete ⟨n, some m⟩ g id) s = coreStep ⟨n, some m⟩ g (doMoverComplete n.val g id) s := by
  cases m
  case line va x => exact absurd rfl (hm va x)
  all_goals rfl

/-- R219: a transfer meets a line of its command's inputs that its home finds bad, and then it is completed. -/
def lineMet (n g id va : Nat) (x : ReadFault) (w : Wk) : Wk :=
  match w.dev.at? n g with
  | none => w
  | some a => doMoverComplete n g id (meetRead (.mover n) a.run.vdev (some (va, x)) a.cmd.ins w)

theorem exec_moverTransferComplete_of_line (n : CoreId) (g id va : Nat) (x : ReadFault) (s : State) :
    exec (.moverTransferComplete ⟨n, some (.line va x)⟩ g id) s = .next (after s (lineMet n.val g id va x (work s))) := rfl

theorem lineMet_of_absent {n g : Nat} {w : Wk} (h : w.dev.at? n g = none) (id va : Nat) (x : ReadFault) : lineMet n g id va x w = w := by
  rw [lineMet, h]

theorem lineMet_of_at? {n g : Nat} {w : Wk} {a : KAt} (h : w.dev.at? n g = some a) (id va : Nat) (x : ReadFault) :
    lineMet n g id va x w = doMoverComplete n g id (meetRead (.mover n) a.run.vdev (some (va, x)) a.cmd.ins w) := by
  rw [lineMet, h]

/-- Settles O38: every instruction of a group is a step of that group, which its parity errors replace and which changes nothing
without a thread to issue. -/
theorem groupInstructionsIssue : Obligations.GroupInstructionsIssue := by
  unfold Obligations.GroupInstructionsIssue
  refine ⟨?parity, ?line, ?absent, ?notFree, ?parityElsewhere, ?counterAbsent, ?lineElsewhere⟩
  case parity =>
    intro s i n m g k a hi hm ha
    obtain ⟨f, hf⟩ := groupInstr_issuedBy hi
    rw [hf.exec_eq, coreStep_of_parity hm ha]
  case line =>
    intro s i n va x g k hi
    obtain ⟨f, hf⟩ := groupInstr_issuedBy hi
    rw [hf.exec_eq, hf.exec_readsGood]
    rfl
  case absent =>
    intro s i n g k hi ha
    obtain ⟨f, hf⟩ := groupInstr_issuedBy hi
    rw [hf.exec_eq, coreStep_of_absent ha (hf.idle _ (noThread_of_absent ha k))]
  case notFree =>
    intro s i n g k a hi ha hk
    obtain ⟨f, hf⟩ := groupInstr_issuedBy hi
    rw [hf.exec_eq]
    exact runMem_of_idle (hf.idle _ (noThread_of_not_free ha hk))
  case parityElsewhere =>
    intro s n m g k c rd id a ha hm
    exact ⟨coreStep_of_parity hm ha _, (exec_moverTransferComplete_of_memory hm ..).trans (coreStep_of_parity hm ha _)⟩
  case counterAbsent =>
    intro s n g k c rd ha
    exact coreStep_of_absent (n := ⟨n, none⟩) ha (on_of_idle (laneInstr_of_noThread (noThread_of_absent ha k) ..))
  case lineElsewhere =>
    intro s n g id va x k c rd
    refine ⟨rfl, fun ha => ?_, fun a ha => ?_⟩
    · rw [exec_moverTransferComplete_of_line, lineMet_of_absent (w := work s) ha]
      rfl
    · rw [exec_moverTransferComplete_of_line, lineMet_of_at? (w := work s) ha]

end Sys2Proof.Machine
end

section
/-! The lane instructions (R138, R139): what the results of the active lanes leave of the group, and the instructions that compute from
registers (R91, R107, R155, R161). -/

namespace Sys2Proof.Machine

open Sys2Proof

/-! ## The results of the active lanes -/

/-- The results of lanes `ls` written to a group, lane by lane: `f l` gives the words from register `rd` up and the flags. -/
def lanesDone (rd : Nat) (f : Nat → List (BitVec 32) × FlagWord) (ls : List Nat) (x : KGroup) : KGroup :=
  ls.foldl (fun x l => (KGroup.setRegs l rd (f l).1 x).addFlags l (f l).2) x

/-- What is left alone: all but registers and flags. -/
theorem lanesDone_frame (rd : Nat) (f : Nat → List (BitVec 32) × FlagWord) (ls : List Nat) (x : KGroup) :
    { lanesDone rd f ls x with regs := x.regs, flags := x.flags } = x := by
  refine foldl_keeps (fun y : KGroup => { y with regs := x.regs, flags := x.flags }) (fun y l => ?_) ls x
  exact (congrArg (fun z : KGroup => { z with regs := x.regs, flags := x.flags })
    (addFlags_frame l (f l).2 (KGroup.setRegs l rd (f l).1 y))).trans
    (congrArg (fun z : KGroup => { z with regs := x.regs, flags := x.flags }) (setRegs_frame l (f l).1 rd y))

section

variable (rd : Nat) (f : Nat → List (BitVec 32) × FlagWord) (ls : List Nat) (x : KGroup)

@[simp] theorem lanesDone_fresh : (lanesDone rd f ls x).fresh = x.fresh := (congrArg KGroup.fresh (lanesDone_frame rd f ls x) :)

@[simp] theorem lanesDone_store : (lanesDone rd f ls x).store = x.store := (congrArg KGroup.store (lanesDone_frame rd f ls x) :)

@[simp] theorem lanesDone_core : (lanesDone rd f ls x).core = x.core := (congrArg KGroup.core (lanesDone_frame rd f ls x) :)

@[simp] theorem lanesDone_ended : (lanesDone rd f ls x).ended = x.ended := (congrArg KGroup.ended (lanesDone_frame rd f ls x) :)

@[simp] theorem lanesDone_atGroup : (lanesDone rd f ls x).atGroup = x.atGroup := (congrArg KGroup.atGroup (lanesDone_frame rd f ls x) :)

@[simp] theorem lanesDone_atCohort : (lanesDone rd f ls x).atCohort = x.atCohort := (congrArg KGroup.atCohort (lanesDone_frame rd f ls x) :)

end

section

variable {rd k : Nat} {f : Nat → List (BitVec 32) × FlagWord}

theorem get?_regs_lanesDone_of_ne {ls : List Nat} (h : ∀ l ∈ ls, ∀ j < (f l).1.length, k ≠ 256 * l + (rd + j)) (x : KGroup) :
    Tab.get? (lanesDone rd f ls x).regs k = Tab.get? x.regs k := by
  refine List.foldlRecOn ls _ (motive := fun y : KGroup => Tab.get? y.regs k = Tab.get? x.regs k) rfl fun y hy l hl => ?_
  rw [addFlags_regs, get?_setRegs_of_ne (h l hl), hy]

/-- A lane's result stands where no other lane writes. -/
theorem get?_regs_lanesDone_of_mem {l i : Nat} {v : BitVec 32} (hv : (f l).1[i]? = some v) :
    ∀ {ls : List Nat} (x : KGroup), l ∈ ls →
      (∀ l' ∈ ls, l' ≠ l → ∀ j < (f l').1.length, 256 * l + (rd + i) ≠ 256 * l' + (rd + j)) →
      Tab.get? (lanesDone rd f ls x).regs (256 * l + (rd + i)) = some v
  | l' :: ls, x, hmem, hsep => by
    have hsep' := fun m hm => hsep m (List.mem_cons_of_mem l' hm)
    by_cases hl : l ∈ ls
    · exact get?_regs_lanesDone_of_mem (ls := ls) hv _ hl hsep'
    · obtain rfl : l = l' := (List.mem_cons.mp hmem).resolve_right hl
      refine (get?_regs_lanesDone_of_ne (fun m hm => hsep' m hm (ne_of_mem_of_not_mem hm hl)) _).trans ?_
      rw [addFlags_regs]
      exact get?_setRegs_of_getElem? hv

theorem lanesDone_flags_of_none {ls : List Nat} (h : ∀ l ∈ ls, (f l).2 = 0) (x : KGroup) : (lanesDone rd f ls x).flags = x.flags := by
  refine List.foldlRecOn ls _ (motive := fun y : KGroup => y.flags = x.flags) rfl fun y hy l hl => ?_
  rw [h l hl, addFlags_zero]
  exact (congrArg KGroup.flags (setRegs_frame l (f l).1 rd y) :).trans hy

end

/-! ## The frame -/

theorem lanesWrite_of_at? {d : Dev} {n g : Nat} {a : KAt} (h : d.at? n g = some a) (ls : List Nat) (rd : Nat)
    (f : KAt → Nat → List (BitVec 32) × FlagWord) :
    lanesWrite a g ls rd f d = d.setRun a.no { a.run with groups := Tab.put a.run.groups g (lanesDone rd (f a) ls a.grp) } :=
  congrArg (d.setRun a.no) (onG_of_get? (groups_get?_of_at? h) _)

/-- The registers that a lane instruction names lie below 256, and a lane's are its own. -/
theorem laneReg_ne {l l' r r' : Nat} (hr : r < 256) (hr' : r' < 256) (h : l ≠ l' ∨ r ≠ r') : 256 * l + r ≠ 256 * l' + r' := by
  omega

/-- Settles O40: no register of a lane is another's, since all lie below REGS. -/
theorem laneInstructionsFrame : Obligations.LaneInstructionsFrame := by
  unfold Obligations.LaneInstructionsFrame
  intro d n g m uses a ls rd f ha hls hregs huses
  obtain ⟨-, -, hbelow, -, -⟩ := activeLanes_eq_some_iff.mp hls
  have small (l i : Nat) (hi : i < (f a l).1.length) : rd + i < 256 := (hbelow _ (huses l i hi)).trans_le hregs
  rw [lanesWrite_of_at? ha]
  refine ⟨_, _, get?_kern_setRun .., Tab.get?_put_same .., ?written, ?kept, ?others, lanesDone_store .., lanesDone_ended .., ?kernels, rfl⟩
  case written =>
    intro l hl i v hv
    obtain ⟨hi, -⟩ := List.getElem?_eq_some_iff.mp hv
    exact reg_of_get? (get?_regs_lanesDone_of_mem hv _ hl fun l' _ hne j hj => laneReg_ne (small l i hi) (small l' j hj) (.inl hne.symm))
  case kept =>
    intro l k _ hk hout
    refine reg_congr (lanesDone_fresh ..) (get?_regs_lanesDone_of_ne (fun l' hl' j hj => laneReg_ne hk (small l' j hj) ?_) _)
    by_cases hll : l = l'
    · subst hll
      rcases hout with hn | hlt | hge
      · exact absurd hl' hn
      · right; omega
      · right; omega
    · exact .inl hll
  case others => exact fun h hne => Tab.get?_put_ne _ _ hne
  case kernels => exact fun k hne => Tab.get?_put_ne _ _ hne

/-! ## Instructions that compute -/

theorem laneInstr_of_active {d : Dev} {n g : Nat} {mask : BitVec 32} {uses ls : List Nat} {a : KAt} (ha : d.at? n g = some a)
    (hls : activeLanes d a g mask uses = some ls) (rd : Nat) (f : KAt → Nat → List (BitVec 32) × FlagWord) :
    laneInstr n g mask uses rd f d = lanesWrite a g ls rd f d := by
  unfold laneInstr
  simp only [ha, hls]
  rfl

/-- R138: a vector operation is a lane instruction where its formats are those of lanes and its operands as many as it takes. -/
def vectorDone (n g : Nat) (m : BitVec 32) (op : VecOp) (src dst : Fmt) (rm : RoundMode) (rd : Nat) (rs : List Nat) (ru : Nat)
    (d : Dev) : Dev :=
  if !fmtIsLane src || !fmtIsLane dst || rs.length ≠ vecArity op then d
  else laneInstr n g m (fmtRegs dst rd ++ rs.flatMap (fmtRegs src) ++ (if rm == .sr then [ru] else [])) rd
    (fun a l => vecLane op src dst rm rs ru a.grp l) d

theorem exec_vectorOp (n : CoreId) (g : Nat) (m : BitVec 32) (op : VecOp) (src dst : Fmt) (rm : RoundMode) (rd : Nat) (rs : List Nat)
    (ru : Nat) (s : State) :
    exec (.vectorOp ⟨n, none⟩ g m op src dst rm rd rs ru) s =
      .next { s with dev := vectorDone n.val g m op src dst rm rd rs ru s.dev } := rfl

/-- R91: a function is a lane instruction where its formats are those of lanes and the function has FP64 if they do. -/
def functionDone (n g : Nat) (m : BitVec 32) (fn : FnCode) (src dst : Fmt) (rm : RoundMode) (rd rs ru : Nat) (d : Dev) : Dev :=
  if !fmtIsLane src || !fmtIsLane dst || ((src == .fp64 || dst == .fp64) && !fnFp64Ok fn) then d
  else laneInstr n g m (fmtRegs dst rd ++ fmtRegs src rs ++ (if rm == .sr then [ru] else [])) rd
    (fun a l => fnLane fn src dst rm rs ru a.grp l) d

theorem exec_functionOp (n : CoreId) (g : Nat) (m : BitVec 32) (fn : FnCode) (src dst : Fmt) (rm : RoundMode) (rd rs ru : Nat) (s : State) :
    exec (.functionOp ⟨n, none⟩ g m fn src dst rm rd rs ru) s =
      .next { s with dev := functionDone n.val g m fn src dst rm rd rs ru s.dev } := rfl

/-- R107: the words of a wisp block for a lane, under the key of its command. -/
def wispLane (r1 r2 r3 : Nat) (a : KAt) (l : Nat) : List (BitVec 32) × FlagWord :=
  if !hdrWisp a.cmd.hdr then ([], 0)
  else
    let y := wispBlock a.cmd.key (a.grp.reg l r1) (a.grp.pair l r2) (a.grp.reg l r3)
    ([y.a, y.b, y.c, y.d], 0)

theorem exec_wisp (n : CoreId) (g : Nat) (m : BitVec 32) (rd r1 r2 r3 : Nat) (s : State) :
    exec (.wisp ⟨n, none⟩ g m rd r1 r2 r3) s = .next { s with
      dev := laneInstr n.val g m [rd, rd + 1, rd + 2, rd + 3, r1, r2, r2 + 1, r3] rd (wispLane r1 r2 r3) s.dev } := rfl

/-- R155: a count of core `n` since the attempt began, for a lane. -/
def countLane (n : Nat) (c : Fin 13) (d : Dev) (a : KAt) (_ : Nat) : List (BitVec 32) × FlagWord :=
  let since := if coreHub n = 0 then a.run.start.1 else a.run.start.2
  (regWords 64 (coreCount n c.val (Tab.getD a.run.base n []) (d.core n).ctr since.toNat (d.hlc (coreHub n)).toNat).toNat, 0)

theorem exec_counterRead (n : CoreId) (g : Nat) (m : BitVec 32) (c : Fin 13) (rd : Nat) (s : State) :
    exec (.counterRead ⟨n, none⟩ g m c rd) s = .next { s with
      dev := laneInstr n.val g m [rd, rd + 1] rd (countLane n.val c s.dev) s.dev } := rfl

theorem lanesWrite_congr {a : KAt} {g rd : Nat} {ls : List Nat} {f f' : KAt → Nat → List (BitVec 32) × FlagWord}
    (h : f a = f' a) (d : Dev) : lanesWrite a g ls rd f d = lanesWrite a g ls rd f' d := by
  unfold lanesWrite
  rw [h]

/-! ## Identities, and a thread's own flags (R63, R161) -/

/-- The registers of an identity. -/
def identityRegs (i : Identity) (rd : Nat) : List Nat := if 32 < identityBits i then [rd, rd + 1] else [rd]

/-- An identity written to a register of each lane. -/
def identityLanes (i : Identity) (g : Nat) (a : KAt) (l : Nat) : List (BitVec 32) × FlagWord :=
  (regWords (identityBits i) (identityOf a g l i), 0)

/-- An identity is read, and the flags are cleared where they are taken. -/
def identityDone (n g : Nat) (m : BitVec 32) (i : Identity) (rd : Nat) (d : Dev) : Dev :=
  let reads := match d.at? n g with
    | some a => (activeLanes d a g m (identityRegs i rd)).isSome
    | none => false
  let e := laneInstr n g m (identityRegs i rd) rd (identityLanes i g) d
  if reads && i == .takeFlags then clearFlags n g m e else e

theorem exec_identityRead (n : CoreId) (g : Nat) (m : BitVec 32) (i : Identity) (rd : Nat) (s : State) :
    exec (.identityRead ⟨n, none⟩ g m i rd) s = .next { s with dev := identityDone n.val g m i rd s.dev } := rfl

/-- A group whose lanes have read their flags. -/
def flagsRead (g rd : Nat) (ls : List Nat) (a : KAt) : KGroup := lanesDone rd (identityLanes .takeFlags g a) ls a.grp

/-- The group after its lanes have read their flags, where it is found again. -/
def readAt (g rd : Nat) (ls : List Nat) (a : KAt) : KAt :=
  ⟨a.no, { a.run with groups := Tab.put a.run.groups g (flagsRead g rd ls a) }, flagsRead g rd ls a, a.cmd⟩

/-- A group whose lanes have taken their flags. -/
def flagsTaken (g rd : Nat) (ls : List Nat) (a : KAt) : KGroup :=
  { flagsRead g rd ls a with flags := a.grp.flags.filter fun f => !ls.contains f.1 }

section

variable {d : Dev} {n g : Nat} {m : BitVec 32} {a : KAt} {ls : List Nat} {rd : Nat} (ha : d.at? n g = some a)

include ha

theorem identityDone_of_other {i : Identity} (hls : activeLanes d a g m (identityRegs i rd) = some ls) (hi : i ≠ .takeFlags) :
    identityDone n g m i rd d = lanesWrite a g ls rd (identityLanes i g) d := by
  have kept : (i == Identity.takeFlags) = false := beq_eq_false_iff_ne.mpr hi
  simp only [identityDone, kept, Bool.and_false, Bool.false_eq_true, if_false, laneInstr_of_active ha hls]

theorem clearFlags_of_active (hls : activeLanes d a g m [] = some ls) : clearFlags n g m d =
    d.setRun a.no { a.run with groups := Tab.put a.run.groups g { a.grp with flags := a.grp.flags.filter fun f => !ls.contains f.1 } } := by
  simp only [clearFlags, ha, hls]
  rw [onG_of_get? (groups_get?_of_at? ha)]

theorem identityDone_takeFlags (hls : activeLanes d a g m [rd] = some ls) : identityDone n g m .takeFlags rd d =
    d.setRun a.no { a.run with groups := Tab.put a.run.groups g (flagsTaken g rd ls a) } := by
  have reads : activeLanes d a g m (identityRegs .takeFlags rd) = some ls := hls
  have found : (d.setRun a.no (readAt g rd ls a).run).at? n g = some (readAt g rd ls a) :=
    at?_setRun ha (Tab.get?_put_same ..) rfl rfl rfl (lanesDone_core ..)
  have active : activeLanes (d.setRun a.no (readAt g rd ls a).run) (readAt g rd ls a) g m [] = some ls :=
    activeLanes_of_same_lanes hls (lanesDone_ended ..) (lanesDone_atGroup ..) (lanesDone_atCohort ..)
  have kept : (flagsRead g rd ls a).flags = a.grp.flags := lanesDone_flags_of_none (fun _ _ => rfl) a.grp
  calc identityDone n g m .takeFlags rd d
    _ = clearFlags n g m (laneInstr n g m (identityRegs .takeFlags rd) rd (identityLanes .takeFlags g) d) := by
      simp only [identityDone, ha, reads, Option.isSome_some, beq_self_eq_true, Bool.and_self, if_true]
    _ = clearFlags n g m (d.setRun a.no (readAt g rd ls a).run) := by
      rw [laneInstr_of_active ha reads, lanesWrite_of_at? ha]; rfl
    _ = d.setRun a.no { a.run with groups := Tab.put a.run.groups g (flagsTaken g rd ls a) } := by
      rw [clearFlags_of_active found active]
      simp only [readAt, setRun_setRun, Tab.put_put, flagsTaken, kept]

end

/-- The counters that the model counts, of those a core has (Table 6-7). -/
theorem coreCount_of_counted {i : Nat} (hi : i ∈ [3, 4, 7, 8, 9, 10, 11, 12]) (n from_ till : Nat) (old new : Tab (BitVec 64)) :
    coreCount n i old new from_ till = Tab.getD new i 0 - Tab.getD old i 0 := by
  have cycles : i ≠ 0 := by rintro rfl; simp at hi
  rw [coreCount, if_neg cycles, if_pos (List.contains_iff_mem.mpr hi)]

/-- Settles O39: the instructions that compute are lane instructions, and a thread that takes its flags finds its group again. -/
theorem laneInstructionsCompute : Obligations.LaneInstructionsCompute := by
  unfold Obligations.LaneInstructionsCompute
  refine ⟨?vector, ?function, ?wisp, ?otherFormats, ?counter, ?counted, ?cycles, ?identity, ?takeFlags⟩
  case vector =>
    intro s n g m a ls op src dst rm rd rs ru ha hsrc hdst hlen hls
    have computes : ¬ (!fmtIsLane src || !fmtIsLane dst || decide (rs.length ≠ vecArity op)) = true := by simp [hsrc, hdst, hlen]
    exact ⟨_, exec_vectorOp .., (if_neg computes).trans (laneInstr_of_active ha hls ..)⟩
  case function =>
    intro s n g m a ls fn src dst rm rd rs ru ha hsrc hdst hok hls
    have computes : ¬ (!fmtIsLane src || !fmtIsLane dst || ((src == .fp64 || dst == .fp64) && !fnFp64Ok fn)) = true := by
      simpa [hsrc, hdst] using hok
    exact ⟨_, exec_functionOp .., (if_neg computes).trans (laneInstr_of_active ha hls ..)⟩
  case wisp =>
    intro s n g m a ls rd r1 r2 r3 ha hls hw
    refine ⟨_, exec_wisp .., (laneInstr_of_active ha hls ..).trans (lanesWrite_congr ?_ _)⟩
    funext l
    simp only [wispLane, hw, Bool.not_true, Bool.false_eq_true, if_false]
  case otherFormats =>
    intro s n g m op fn src dst rm rd r ru rs hf
    have other : (!fmtIsLane src || !fmtIsLane dst) = true := by simpa using hf
    refine ⟨(exec_vectorOp ..).trans ?_, (exec_functionOp ..).trans ?_⟩
    · rw [vectorDone, other]; rfl
    · rw [functionDone, other]; rfl
  case counter =>
    intro s n g m a ls c rd ha hls
    exact ⟨_, exec_counterRead .., (laneInstr_of_active ha hls ..).trans (lanesWrite_congr rfl _)⟩
  case counted => exact fun n i from_ till old new hi => coreCount_of_counted hi ..
  case cycles => exact fun _ _ _ _ _ => if_pos rfl
  case identity =>
    intro s n g m a ls i rd ha hi hls
    exact ⟨_, exec_identityRead .., identityDone_of_other ha hls hi⟩
  case takeFlags =>
    intro s n g m a ls rd ha hls
    refine ⟨_, exec_identityRead .., ?_⟩
    rw [identityDone_takeFlags ha hls]
    refine ⟨_, _, get?_kern_setRun .., Tab.get?_put_same .., fun l hl => ⟨?_, ?_⟩, fun l hl => ?_, lanesDone_store .., rfl⟩
    · exact (Tab.get?_filter_key (fun k => !ls.contains k) l _).trans (if_neg (by simpa using hl))
    · refine reg_of_get? (get?_regs_lanesDone_of_mem (i := 0) (f := identityLanes .takeFlags g a) rfl _ hl ?_)
      rintro l' - hne j hj
      obtain rfl : j = 0 := Nat.lt_one_iff.mp hj
      omega
    · exact (Tab.get?_filter_key (fun k => !ls.contains k) l _).trans (if_pos (by simpa using hl))

end Sys2Proof.Machine
end

section
/-! The matrix engine in a running kernel (R139 … R142, R79, R80): products, spills, drains and clears. -/

namespace Sys2Proof.Machine

open Sys2Proof

/-! ## The engine -/

theorem engine_put (r : KRun) (n : Nat) (e : Mx) : ({ r with engines := Tab.put r.engines n e } : KRun).engine n = e :=
  Tab.getD_put_same ..

theorem takeSpill_of_free {m : Mx} {p : Spill} {rest : List Spill} (hq : m.queue = p :: rest) (hs : Tab.get? m.slots p.pos = none) :
    m.takeSpill = { m with queue := rest, slots := Tab.put m.slots p.pos ⟨p.word, p.set⟩ } := by
  simp only [Mx.takeSpill, hq, hs]

theorem takeSpill_of_owned {m : Mx} {p : Spill} {rest : List Spill} {w : PSlot} (hq : m.queue = p :: rest)
    (hs : Tab.get? m.slots p.pos = some w) (hw : w.set = p.set) :
    m.takeSpill = { m with queue := rest, slots := Tab.put m.slots p.pos ⟨peatAdd w.word p.word, w.set⟩ } := by
  simp only [Mx.takeSpill, hq, hs, hw, beq_self_eq_true, if_true]

/-- R142: no spill enters the store while the queue is empty or its head waits for a slot of the other set. -/
theorem takeSpill_of_waiting {m : Mx} (h : m.queue = [] ∨ m.spillReady = false) : m.takeSpill = m := by
  unfold Mx.takeSpill
  split
  next => rfl
  next p rest hq =>
    have waits : m.spillReady = false := h.resolve_left (by simp [hq])
    simp only [Mx.spillReady, hq] at waits
    split
    next hs => simp [hs] at waits
    next w hs => rw [hs] at waits; rw [if_neg (by simp [waits])]

theorem winSet_emptySet (m : Mx) (s : Bool) : (m.emptySet s).winSet s = [] := by cases s <;> rfl

theorem winSet_not_emptySet (m : Mx) (s : Bool) : (m.emptySet s).winSet (!s) = m.winSet (!s) := by cases s <;> rfl

theorem setWins_queue (m : Mx) (s : Bool) (t : Tab Win) : (m.setWins s t).queue = m.queue := by cases s <;> rfl

theorem setWins_slots (m : Mx) (s : Bool) (t : Tab Win) : (m.setWins s t).slots = m.slots := by cases s <;> rfl

/-- A product of which no position spills leaves the queue and the peat store alone. -/
theorem mmaEngine_of_no_spill {set : Bool} {av bv : Nat → Val} {m : Mx}
    (h : ∀ pos < mxPositions, (windowTerms
      ((List.range 32).map fun k => (termMul (av (32 * (pos / 128) + k)) (bv (128 * k + pos % 128))).1)
      (Tab.getD (m.winSet set) pos Win.empty).toWindow).2 = []) :
    ∃ e fl, mmaEngine set av bv m = some (e, fl, 0) ∧ e.queue = m.queue ∧ e.slots = m.slots := by
  unfold mmaEngine
  extract_lets cells wins spills
  have none_spills : spills = [] := by
    refine List.flatMap_eq_nil_iff.mpr fun c hc => ?_
    obtain ⟨pos, hpos, rfl⟩ := List.mem_map.mp hc
    have quiet := h pos (List.mem_range.mp hpos)
    simp only [List.map_map, Function.comp_def]
    rw [quiet]
    rfl
  rw [none_spills]
  exact ⟨_, _, rfl, setWins_queue .., setWins_slots ..⟩

/-! ## Products (R140) -/

theorem exec_mma (n : CoreId) (g : Nat) (x : MxSel) (ta tb : TileArg) (s : State) :
    exec (.mma ⟨n, none⟩ g x ta tb) s = .next (after s (doMma n.val g x ta tb (work s))) := rfl

section

variable {n g : Nat} {set : Bool} {mask : BitVec 32} {ta tb : TileArg} {w : Wk} {a : KAt} {l : Nat} {ls : List Nat}

/-- The engine after the product of two tiles of a group's window, unless it stalls. -/
def mmaResult (n : Nat) (set : Bool) (ta tb : TileArg) (a : KAt) : Option (Mx × FlagWord × Nat) :=
  mmaEngine set (fun i => tileVal ta (a.grp.bytes a.cmd.ws ta.scales 128) (i / 32) ((tileElems a.grp a.cmd.ws ta).getD i 0))
    (fun i => tileVal tb (a.grp.bytes a.cmd.ws tb.scales 128) (i % 128) ((tileElems a.grp a.cmd.ws tb).getD i 0)) (a.run.engine n)

/-- The run after a product: the engine, and the flags of the lowest active thread. -/
def mmaRun (n g l : Nat) (ta tb : TileArg) (a : KAt) (e : Mx) (fl : FlagWord) : KRun :=
  { a.run with engines := Tab.put a.run.engines n e }.onG g (KGroup.addFlags l (fl ||| tileFlags a.cmd.ws ta ||| tileFlags a.cmd.ws tb))

/-- The device after a product with `k` spills: the run, and what the core counts. -/
def mmaDone (n k : Nat) (no : Nat) (r : KRun) (d : Dev) : Dev :=
  (countCore n 4 k (countCore n 3 (32 * mxPositions) d)).setRun no { r with nextAcc := r.nextAcc + 1 }

variable (ha : w.dev.at? n g = some a) (hls : activeLanes w.dev a g mask [] = some (l :: ls)) (hta : fmtIsEngine ta.fmt = true)
  (htb : fmtIsEngine tb.fmt = true)

include ha hls hta htb

theorem doMma_of_stall (hx : mmaResult n set ta tb a = none) : doMma n g ⟨set, mask⟩ ta tb w = w := by
  unfold mmaResult at hx
  simp only [doMma, ha, hls, hta, htb, hx, Bool.not_true, Bool.or_self, Bool.false_eq_true, if_false]

theorem doMma_of_result {e : Mx} {fl : FlagWord} {k : Nat} (hx : mmaResult n set ta tb a = some (e, fl, k))
    (hw : klWatch a.cmd.params = false) :
    doMma n g ⟨set, mask⟩ ta tb w = w.on (mmaDone n k a.no (mmaRun n g l ta tb a e fl)) := by
  unfold mmaResult at hx
  simp only [doMma, ha, hls, hta, htb, hx, Bool.not_true, Bool.or_self, Bool.false_eq_true, if_false,
    watchInstr_of_not_watching hw, putRun_none]
  rfl

end

theorem engine_mmaRun (n g l : Nat) (ta tb : TileArg) (a : KAt) (e : Mx) (fl : FlagWord) : (mmaRun n g l ta tb a e fl).engine n = e := by
  have engines : (mmaRun n g l ta tb a e fl).engines = Tab.put a.run.engines n e := (congrArg KRun.engines (onG_frame ..) :)
  rw [KRun.engine, engines]
  exact Tab.getD_put_same ..

theorem groups_mmaRun (n g l : Nat) (ta tb : TileArg) (a : KAt) (e : Mx) (fl : FlagWord) : (mmaRun n g l ta tb a e fl).groups =
    (a.run.onG g (KGroup.addFlags l (fl ||| tileFlags a.cmd.ws ta ||| tileFlags a.cmd.ws tb))).groups := by
  unfold mmaRun KRun.onG
  cases h : Tab.get? a.run.groups g <;> rfl

/-! ## Spills (R79, R80) -/

/-- The head spill of the engine of core `n` enters its slot. -/
def spillTaken (n no : Nat) (r : KRun) (d : Dev) : Dev :=
  d.setRun no { r with engines := Tab.put r.engines n (r.engine n).takeSpill }

/-- The step of the spill queue of a core. -/
def spillStep (n : CoreAt) (w : Wk) : Wk :=
  match w.dev.runOn n.core.val with
  | none => w
  | some (no, r) =>
    match n.bad with
    | some m => replayCmd r.vdev r.queue [n.core.val] (w.on (parityEvent n.core.val (coreMemPlace m)))
    | none => w.on (spillTaken n.core.val no r)

theorem exec_peatSpill (n : CoreAt) (s : State) : exec (.peatSpill n) s = .next (after s (spillStep n (work s))) := rfl

theorem spillStep_of_good {n : CoreId} {w : Wk} {no : Nat} {r : KRun} (h : w.dev.runOn n.val = some (no, r)) :
    spillStep ⟨n, none⟩ w = w.on (spillTaken n.val no r) := by
  simp only [spillStep, h]

theorem spillStep_of_parity {n : CoreId} {w : Wk} {no : Nat} {r : KRun} (h : w.dev.runOn n.val = some (no, r)) (m : CoreMem) :
    spillStep ⟨n, some m⟩ w = replayCmd r.vdev r.queue [n.val] (w.on (parityEvent n.val (coreMemPlace m))) := by
  simp only [spillStep, h]

theorem spillStep_of_no_kernel {n : CoreAt} {w : Wk} (h : w.dev.runOn n.core.val = none) : spillStep n w = w := by
  simp only [spillStep, h]

theorem exec_peatSpill_of_good {s : State} {n : CoreId} {no : Nat} {r : KRun} (h : s.dev.runOn n.val = some (no, r)) :
    exec (.peatSpill ⟨n, none⟩) s = .next { s with dev := spillTaken n.val no r s.dev } := by
  rw [exec_peatSpill, spillStep_of_good (w := work s) h]
  rfl

theorem get?_kern_spillTaken (n no : Nat) (r : KRun) (d : Dev) : ∃ y, Tab.get? (spillTaken n no r d).kern no = some y ∧
    y.engine n = (r.engine n).takeSpill ∧ y.groups = r.groups := ⟨_, get?_kern_setRun .., engine_put .., rfl⟩

/-! ## Drains and clears (R141) -/

/-- The bytes of a drain, each at its offset of the window. -/
def runBytes (runs : List (Nat × List Byte)) : List (Nat × Byte) := runs.flatMap fun (o, bs) => bs.zipIdx.map fun (b, i) => (o + i, b)

/-- The group whose window a drain has written, and the race that this met. -/
def drainStored (g l : Nat) (runs : List (Nat × List Byte)) (a : KAt) : KGroup × Option Race :=
  storeAll a.cmd.ws ((runBytes runs).map fun (o, b) => (threadNo g l, o, b)) a.grp

/-- The run after a drain: the set is empty, the window is written, and the lowest active thread has the flags. -/
def drainRun (n g l : Nat) (set : Bool) (place : FlagWord) (runs : List (Nat × List Byte)) (fl : FlagWord) (a : KAt) : KRun := { a.run with
  engines := Tab.put a.run.engines n ((a.run.engine n).emptySet set)
  groups := Tab.put a.run.groups g ((drainStored g l runs a).1.addFlags l
    (fl ||| place ||| fIf ((runBytes runs).any fun (o, _) => decide (a.cmd.ws ≤ o)) fInvalid))
  nextAcc := a.run.nextAcc + 1 }

theorem exec_mdrain (n : CoreId) (g : Nat) (x : MxSel) (dst : Nat) (mode : DrainMode) (s : State) :
    exec (.mdrain ⟨n, none⟩ g x dst mode) s = .next (after s (doMdrain n.val g x dst mode (work s))) := rfl

/-- A set is emptied where a thread of the mask can issue. -/
def mclearDone (n g : Nat) (set : Bool) (mask : BitVec 32) (d : Dev) : Dev :=
  match d.at? n g with
  | none => d
  | some a =>
    if (activeLanes d a g mask []).isNone then d
    else d.setRun a.no { a.run with engines := Tab.put a.run.engines n ((a.run.engine n).emptySet set) }

theorem exec_mclear (n : CoreId) (g : Nat) (set : Bool) (mask : BitVec 32) (s : State) :
    exec (.mclear ⟨n, none⟩ g ⟨set, mask⟩) s = .next { s with dev := mclearDone n.val g set mask s.dev } := rfl

section

variable {n g : Nat} {set : Bool} {mask : BitVec 32} {w : Wk} {a : KAt} (ha : w.dev.at? n g = some a)

include ha

/-- A drain waits until its set's spills have left the queue. -/
theorem doMdrain_of_queued (hq : ((a.run.engine n).queue.any fun p => p.set == set) = true) (dst : Nat) (mode : DrainMode) :
    doMdrain n g ⟨set, mask⟩ dst mode w = w := by
  simp only [doMdrain, ha]
  split
  · rfl
  · exact if_pos hq

theorem doMdrain_of_written {l : Nat} {ls : List Nat} {runs : List (Nat × List Byte)} {fl : FlagWord} {dst : Nat} {mode : DrainMode}
    (hls : activeLanes w.dev a g mask [] = some (l :: ls)) (hq : ((a.run.engine n).queue.any fun p => p.set == set) = false)
    (hw : klWatch a.cmd.params = false)
    (hb : drainBytes a.cmd.key (drainBase mode dst).1 mode ((List.range mxPositions).map ((a.run.engine n).final set)) = some (runs, fl)) :
    doMdrain n g ⟨set, mask⟩ dst mode w = putRun a.no (drainRun n g l set (drainBase mode dst).2 runs fl a)
      (drainStored g l runs a).2 w := by
  simp only [doMdrain, ha, hls, hq, hb, watchInstr_of_not_watching hw, firstRace_none, Bool.false_eq_true, if_false]
  rfl

end

theorem mclearDone_of_active {n g : Nat} {set : Bool} {mask : BitVec 32} {d : Dev} {a : KAt} {ls : List Nat} (ha : d.at? n g = some a)
    (hls : activeLanes d a g mask [] = some ls) : mclearDone n g set mask d =
      d.setRun a.no { a.run with engines := Tab.put a.run.engines n ((a.run.engine n).emptySet set) } := by
  simp only [mclearDone, ha, hls, Option.isNone_some, Bool.false_eq_true, if_false]

/-- Settles O42: the engine's steps, with the run that each leaves. -/
theorem matrixInstructions : Obligations.MatrixInstructions := by
  unfold Obligations.MatrixInstructions
  refine ⟨?product, ?noSpill, ?freeSlot, ?ownedSlot, ?waiting, ?parity, ?noKernel, ?drain, ?drainWaits, ?clear⟩
  case product =>
    intro s n g set mask ta tb a l ls ha hls hta htb hw ws x
    refine ⟨fun e fl k hx => ⟨mmaDone n.val k a.no (mmaRun n.val g l ta tb a e fl) s.dev, ?_, _, get?_kern_setRun .., ?_, ?_, rfl⟩,
      fun hx => ?_⟩
    · rw [exec_mma, doMma_of_result (w := work s) ha hls hta htb hx hw]
      rfl
    · exact engine_mmaRun n.val g l ta tb a e fl
    · exact groups_mmaRun n.val g l ta tb a e fl
    · rw [exec_mma, doMma_of_stall (w := work s) ha hls hta htb hx]
      rfl
  case noSpill => exact fun set av bv m => mmaEngine_of_no_spill
  case freeSlot =>
    intro s n no r p rest hr hq hs
    obtain ⟨y, hy, he, -⟩ := get?_kern_spillTaken n.val no r s.dev
    rw [takeSpill_of_free hq hs] at he
    exact ⟨_, exec_peatSpill_of_good hr, y, hy, he ▸ rfl, he ▸ Tab.get?_put_same ..⟩
  case ownedSlot =>
    intro s n no r p rest w hr hq hs hw
    obtain ⟨y, hy, he, -⟩ := get?_kern_spillTaken n.val no r s.dev
    rw [takeSpill_of_owned hq hs hw] at he
    exact ⟨_, exec_peatSpill_of_good hr, y, hy, he ▸ rfl, he ▸ Tab.get?_put_same ..⟩
  case waiting =>
    intro s n no r hr hwait
    obtain ⟨y, hy, he, hg⟩ := get?_kern_spillTaken n.val no r s.dev
    exact ⟨_, exec_peatSpill_of_good hr, y, hy, he.trans (takeSpill_of_waiting hwait), hg⟩
  case parity => exact fun s n no r m hr => by rw [exec_peatSpill, spillStep_of_parity (w := work s) hr]
  case noKernel => exact fun s n hn => by rw [exec_peatSpill, spillStep_of_no_kernel (w := work s) hn]; rfl
  case drain =>
    intro s n g set mask dst mode a l ls runs fl ha hls hq hw hb bytes x f r
    rw [exec_mdrain, doMdrain_of_written (w := work s) ha hls hq hw hb]
    rfl
  case drainWaits =>
    intro s n g set mask dst mode a ha hq
    rw [exec_mdrain, doMdrain_of_queued (w := work s) ha hq]
    rfl
  case clear =>
    intro s n g set mask a ls ha hls
    refine ⟨_, exec_mclear .., ?_⟩
    rw [mclearDone_of_active ha hls]
    refine ⟨_, get?_kern_setRun .., ?_⟩
    rw [engine_put]
    exact ⟨rfl, winSet_emptySet .., winSet_not_emptySet .., rfl, rfl⟩

end Sys2Proof.Machine
end

section
/-! Barriers, transfers and waits (R148, R149, R165, R167, R168). -/

namespace Sys2Proof.Machine

open Sys2Proof

/-! ## Barriers (R167) -/

/-- A change of the group where a thread of the mask can issue. -/
def groupChanged (n g : Nat) (mask : BitVec 32) (f : KGroup → KGroup) (d : Dev) : Dev :=
  match d.at? n g with
  | none => d
  | some a => match activeLanes d a g mask [] with
    | none => d
    | some _ => groupLeft a g f d

theorem groupChanged_of_active {d : Dev} {n g : Nat} {mask : BitVec 32} {a : KAt} {ls : List Nat} (ha : d.at? n g = some a)
    (hls : activeLanes d a g mask [] = some ls) (f : KGroup → KGroup) : groupChanged n g mask f d = groupLeft a g f d := by
  simp only [groupChanged, ha, hls]

theorem exec_groupBarrier (n : CoreId) (g : Nat) (lane : Fin 32) (s : State) : exec (.groupBarrier ⟨n, none⟩ g lane) s = .next { s with
    dev := groupChanged n.val g (laneBit lane.val) (fun x => { x with atGroup := x.atGroup ||| laneBit lane.val }) s.dev } := rfl

theorem exec_cohortBarrier (n : CoreId) (g : Nat) (lane : Fin 32) (s : State) : exec (.cohortBarrier ⟨n, none⟩ g lane) s = .next { s with
    dev := groupChanged n.val g (laneBit lane.val) (fun x => { x with atCohort := x.atCohort ||| laneBit lane.val }) s.dev } := rfl

/-- The groups whose threads meet at a barrier. -/
def meeting (a : KAt) (g : Nat) (cohort : Bool) : List (Nat × KGroup) :=
  if cohort then a.run.cohort a.cmd (a.cmd.cohortOf g) else [(g, a.grp)]

/-- A barrier is passed where a thread waits at it, all have reached it, and nothing is outstanding. -/
def barrierOpen (d : Dev) (a : KAt) (g : Nat) (cohort : Bool) : Bool :=
  ((meeting a g cohort).any fun x => (if cohort then x.2.atCohort else x.2.atGroup) != 0) &&
    (meeting a g cohort).all fun x => arrivedAll x.2 cohort && !outstanding d a.no a.run x.1

/-- What a release at a barrier leaves. -/
def released (n g : Nat) (cohort : Bool) (d : Dev) : Dev :=
  match d.at? n g with
  | none => d
  | some a =>
    if barrierOpen d a g cohort then
      d.setRun a.no ((meeting a g cohort).foldl (fun r x => r.onG x.1 (passBarrier cohort)) a.run)
    else d

theorem exec_barrierRelease (n : CoreId) (g : Nat) (cohort : Bool) (s : State) :
    exec (.barrierRelease n g cohort) s = .next { s with dev := released n.val g cohort s.dev } := rfl

section

variable {d : Dev} {n g : Nat} {a : KAt} {cohort : Bool}

theorem released_of_absent (h : d.at? n g = none) : released n g cohort d = d := by
  simp only [released, h]

theorem released_of_open (ha : d.at? n g = some a) (h : barrierOpen d a g cohort = true) : released n g cohort d =
    d.setRun a.no ((meeting a g cohort).foldl (fun r x => r.onG x.1 (passBarrier cohort)) a.run) := by
  simp only [released, ha, h, if_true]

theorem released_of_closed (ha : d.at? n g = some a) (h : barrierOpen d a g cohort = false) : released n g cohort d = d := by
  simp only [released, ha, h, Bool.false_eq_true, if_false]

theorem barrierOpen_group (d : Dev) (a : KAt) (g : Nat) : barrierOpen d a g false = true ↔
    a.grp.atGroup ≠ 0 ∧ arrivedAll a.grp false = true ∧ outstanding d a.no a.run g = false := by
  simp [barrierOpen, meeting]

/-- A group of the cohort that has not arrived, or has something outstanding, holds the barrier closed. -/
theorem barrierOpen_cohort_of_late {x : Nat × KGroup} (hx : x ∈ a.run.cohort a.cmd (a.cmd.cohortOf g))
    (h : arrivedAll x.2 true = false ∨ outstanding d a.no a.run x.1 = true) : barrierOpen d a g true = false := by
  have late : ¬ (arrivedAll x.2 true && !outstanding d a.no a.run x.1) = true := by
    rcases h with h | h <;> simp [h]
  refine Bool.eq_false_iff.mpr fun ho => late (List.all_eq_true.mp (Bool.and_eq_true_iff.mp ho).2 x hx)

end

/-! ## Transfers in flight (R148, R149) -/

/-- Whether a thread has an ordered atomic that has not had its turn. -/
def owesTurn (a : KAt) (g l : Nat) : Bool := a.run.ordered.any fun o => o.g == g && o.t == l && o.op.place?.isSome

/-- A transfer that lane `l` of a group issues. -/
def transferOf (d : Dev) (a : KAt) (l : Nat) (x : MoverArg) (p : Option (Nat × Nat × Nat × Nat)) : MoverT :=
  ⟨d.mc.nextId, l, x, p, a.grp.c, a.grp.b, a.run.nextAcc, false⟩

/-- The group with a transfer in flight, and its flags at the issuing thread. -/
def transferAdded (t : MoverT) (f : FlagWord) (x : KGroup) : KGroup := { x with movers := x.movers ++ [t] }.addFlags t.lane f

theorem transferAdded_silent (t : MoverT) (x : KGroup) : transferAdded t 0 x = { x with movers := x.movers ++ [t] } := addFlags_zero ..

theorem transferAdded_movers (t : MoverT) (f : FlagWord) (x : KGroup) : (transferAdded t f x).movers = x.movers ++ [t] := addFlags_movers ..

section

variable {d : Dev} {n g : Nat} {mask : BitVec 32} {a : KAt} {l : Nat} {ls : List Nat} {x : MoverArg}
  {peer : KAt → Option (Nat × Nat × Nat × Nat) × FlagWord} (ha : d.at? n g = some a)

include ha

theorem issueMover_of_room (hls : activeLanes d a g mask [] = some (l :: ls)) (hroom : a.grp.movers.length < moverRoom)
    (hturn : owesTurn a g l = false) : ∃ r, Tab.get? (issueMover n g mask x peer d).kern a.no = some r ∧
      Tab.get? r.groups g = some (transferAdded (transferOf d a l x (peer a).1) (peer a).2 a.grp) ∧
      ∀ h, h ≠ g → Tab.get? r.groups h = Tab.get? a.run.groups h := by
  unfold owesTurn at hturn
  unfold issueMover
  simp only [ha, hls, Nat.not_le.mpr hroom, List.headD_cons, hturn, Bool.false_eq_true, if_false]
  exact ⟨_, get?_kern_setRun .., get?_onG_same (groups_get?_of_at? ha) _, fun h hne => get?_onG_ne hne ..⟩

theorem issueMover_of_full (h : moverRoom ≤ a.grp.movers.length) : issueMover n g mask x peer d = d := by
  unfold issueMover
  simp only [ha, h, if_true]
  split <;> rfl

theorem issueMover_of_owing (hls : activeLanes d a g mask [] = some (l :: ls)) (hturn : owesTurn a g l = true) :
    issueMover n g mask x peer d = d := by
  unfold owesTurn at hturn
  unfold issueMover
  simp only [ha, hls, List.headD_cons, hturn, if_true, ite_self]

end

theorem exec_moverTransfer (n : CoreId) (g : Nat) (m : BitVec 32) (x : MoverArg) (s : State) :
    exec (.moverTransfer ⟨n, none⟩ g m x) s = .next { s with
      dev := if 5 < x.axes.length then s.dev else issueMover n.val g m x (fun _ => (none, 0)) s.dev } := rfl

/-- Where a peer transfer goes, and INVALID where there is no such place (R168). -/
def peerPlace (g src dst off len : Nat) (a : KAt) : Option (Nat × Nat × Nat × Nat) × FlagWord :=
  let till := a.cmd.cohortOf g * max 1 (klCohort a.cmd.params) + dst
  if decide (dst < cohortSize a.cmd g) && decide (off + len ≤ klPeer a.cmd.params) then
    (some (src, till, a.cmd.ws - klPeer a.cmd.params + off, len), 0)
  else (some (src, till, 0, 0), fInvalid)

theorem peerPlace_of_inside {g src dst off len : Nat} {a : KAt} (h : dst < cohortSize a.cmd g ∧ off + len ≤ klPeer a.cmd.params) :
    peerPlace g src dst off len a =
      (some (src, a.cmd.cohortOf g * max 1 (klCohort a.cmd.params) + dst, a.cmd.ws - klPeer a.cmd.params + off, len), 0) :=
  if_pos (by simpa using h)

theorem peerPlace_of_outside {g src dst off len : Nat} {a : KAt} (h : ¬ (dst < cohortSize a.cmd g ∧ off + len ≤ klPeer a.cmd.params)) :
    peerPlace g src dst off len a = (some (src, a.cmd.cohortOf g * max 1 (klCohort a.cmd.params) + dst, 0, 0), fInvalid) :=
  if_neg (by simpa using h)

theorem exec_peerTransfer (n : CoreId) (g : Nat) (m : BitVec 32) (src dst off len : Nat) (s : State) :
    exec (.peerTransfer ⟨n, none⟩ g m src dst off len) s = .next { s with
      dev := issueMover n.val g m ⟨false, 0, src, []⟩ (peerPlace g src dst off len) s.dev } := rfl

/-! ## Peer writes (R168) -/

/-- Bytes with their places that a peer transfer of `thread` writes from `off` up, one by one, and the first race that this meets. -/
def peerBytes (thread off : Nat) (bs : List (Byte × Nat)) (y : KGroup) : KGroup × Option Race :=
  bs.foldl (fun acc b => ((peerByte thread (off + b.2) b.1 acc.1).1, firstRace acc.2 (peerByte thread (off + b.2) b.1 acc.1).2)) (y, none)

/-- No thread's store marks a line of the window in the current interval. -/
def Unmarked (x : KGroup) : Prop := ∀ line, (x.tagNow line).mask = 0

theorem unmarked_of_no_tags {x : KGroup} (h : x.tags = []) : Unmarked x := by
  intro line
  simp [KGroup.tagNow, h]

theorem tagNow_mask_of_put {y : KGroup} {ts : Tab Tag} {line : Nat} {t : Tag} (hy : y.tags = Tab.put ts line t) (ht : t.mask = 0) :
    (y.tagNow line).mask = 0 := by
  rw [KGroup.tagNow, hy, Tab.get?_put_same]
  dsimp only
  split
  · exact ht
  · rfl

theorem unmarked_peerByte {x : KGroup} (h : Unmarked x) (thread off : Nat) (b : Byte) : Unmarked (peerByte thread off b x).1 := by
  intro line
  by_cases hl : line = off / 64
  · subst hl
    exact tagNow_mask_of_put (ts := x.tags) rfl (h (off / 64))
  · have kept := h line
    simp only [peerByte, KGroup.tagNow, Tab.get?_put_ne _ _ hl] at kept ⊢
    exact kept

/-- A peer transfer races with the bytes alone that a thread's store has marked (R171). -/
theorem peerByte_race_of_unmarked {x : KGroup} (h : Unmarked x) (thread off : Nat) (b : Byte) : (peerByte thread off b x).2 = none := by
  simp [peerByte, h (off / 64)]

theorem peerBytes_race_of_unmarked {y : KGroup} (h : Unmarked y) (thread off : Nat) (bs : List (Byte × Nat)) :
    (peerBytes thread off bs y).2 = none := by
  have kept : Unmarked (peerBytes thread off bs y).1 ∧ (peerBytes thread off bs y).2 = none := by
    refine List.foldlRecOn bs _ (motive := fun acc : KGroup × Option Race => Unmarked acc.1 ∧ acc.2 = none) ⟨h, rfl⟩ ?_
    rintro ⟨x, _⟩ ⟨hx, rfl⟩ b -
    exact ⟨unmarked_peerByte hx _ _ _, peerByte_race_of_unmarked hx ..⟩
  exact kept.2

section

variable {thread off : Nat}

/-- The store of the window after the bytes are written. -/
theorem store_peerBytes (bs : List (Byte × Nat)) (y : KGroup) :
    (peerBytes thread off bs y).1.store = bs.foldl (fun t b => Tab.put t (off + b.2) b.1) y.store :=
  List.foldl_hom (fun acc : KGroup × Option Race => acc.1.store) (fun _ _ => rfl) |>.symm

theorem get?_foldl_put_of_ne {k : Nat} : ∀ (bs : List (Byte × Nat)) (t : Tab Byte), (∀ b ∈ bs, k ≠ off + b.2) →
    Tab.get? (bs.foldl (fun t b => Tab.put t (off + b.2) b.1) t) k = Tab.get? t k
  | [], _, _ => rfl
  | b :: bs, _, h =>
    (get?_foldl_put_of_ne bs _ fun c hc => h c (List.mem_cons_of_mem b hc)).trans (Tab.get?_put_ne _ _ (h b List.mem_cons_self))

/-- A place that takes one value holds it in the end. -/
theorem get?_foldl_put_of_mem {b : Byte} {i : Nat} : ∀ {bs : List (Byte × Nat)} {t : Tab Byte}, (b, i) ∈ bs →
    (∀ c, (c, i) ∈ bs → c = b) → Tab.get? (bs.foldl (fun t b => Tab.put t (off + b.2) b.1) t) (off + i) = some b
  | c :: bs, t, hmem, huniq => by
    by_cases later : ∃ e, (e, i) ∈ bs
    · obtain ⟨e, he⟩ := later
      obtain rfl : e = b := huniq e (List.mem_cons_of_mem c he)
      exact get?_foldl_put_of_mem (bs := bs) he fun e he => huniq e (List.mem_cons_of_mem c he)
    · obtain rfl : (b, i) = c := (List.mem_cons.mp hmem).resolve_right fun hm => later ⟨b, hm⟩
      refine (get?_foldl_put_of_ne bs _ fun e he heq => later ⟨e.1, ?_⟩).trans (Tab.get?_put_same ..)
      obtain rfl : i = e.2 := Nat.add_left_cancel heq
      exact he

end

theorem byte_of_get? {x : KGroup} {o : Nat} {b : Byte} (h : Tab.get? x.store o = some b) : x.byte o = b := by
  rw [KGroup.byte, h]
  rfl

/-- R168: the bytes of a peer transfer, read back. -/
theorem get?_store_peerBytes {bs : List Byte} {i : Nat} (hi : i < bs.length) (thread off : Nat) (y : KGroup) :
    Tab.get? (peerBytes thread off bs.zipIdx y).1.store (off + i) = some (bs.getD i 0) := by
  have here : (bs.getD i 0, i) ∈ bs.zipIdx := by
    rw [List.mk_mem_zipIdx_iff_getElem?, List.getD_eq_getElem?_getD, List.getElem?_eq_getElem hi]
    rfl
  rw [store_peerBytes]
  refine get?_foldl_put_of_mem here fun c hc => ?_
  rw [List.mk_mem_zipIdx_iff_getElem?] at hc
  rw [List.getD_eq_getElem?_getD, hc]
  rfl

/-- The group at any number after a change of one group. -/
theorem get?_onG {r : KRun} {h : Nat} {y : KGroup} (hy : Tab.get? r.groups h = some y) (g : Nat) (f : KGroup → KGroup) :
    ∃ y', Tab.get? (r.onG g f).groups h = some y' ∧ (y' = y ∨ y' = f y) := by
  by_cases hg : h = g
  · subst hg
    exact ⟨_, get?_onG_same hy f, .inr rfl⟩
  · exact ⟨y, (get?_onG_ne hg r f).trans hy, .inl rfl⟩

/-- A peer transfer has landed; the part of its source that lies past the window raised INVALID. -/
def peerLanded (id ws src len : Nat) (t : MoverT) (x : KGroup) : KGroup :=
  (x.onMover id fun t => { t with landed := true }).addFlags t.lane (fIf (decide (ws < src + len) && decide (0 < len)) fInvalid)

/-- The run after a peer write: the receiving window, and the transfer landed. -/
def peerRun (id g dst off : Nat) (r : KRun) (x y : KGroup) (t : MoverT) (ws src len : Nat) : KRun :=
  KRun.onG g (peerLanded id ws src len t)
    { r with groups := Tab.put r.groups dst (peerBytes (threadNo g t.lane) off (x.bytes ws src len).zipIdx y).1 }

theorem doPeerWrite_of_unmarked {id no g src dst off len : Nat} {r : KRun} {x y : KGroup} {t : MoverT} {c : Cmd} {w : Wk}
    (hf : findMover w.dev id = some (no, r, g, x, t)) (hp : t.peer = some (src, dst, off, len)) (hc : w.dev.cur? r.vdev r.queue = some c)
    (hy : Tab.get? r.groups dst = some y) (hu : Unmarked y) (hl : t.landed = false) (hs : r.stopped = false) (hno : c.no = no)
    (hw : klWatch c.params = false) : doPeerWrite id w = w.on fun d => d.setRun no (peerRun id g dst off r x y t c.ws src len) := by
  have race : (peerBytes (threadNo g t.lane) off (x.bytes c.ws src len).zipIdx y).2 = none := peerBytes_race_of_unmarked hu ..
  have lands : ¬ (t.landed || r.stopped || decide (c.no ≠ no)) = true := by simp [hl, hs, hno]
  simp only [doPeerWrite, hf, hp, hc, hy, if_neg lands, watchAll_of_not_watching hw, firstRace_none]
  exact congrArg (fun e => putRun no (peerRun id g dst off r x y t c.ws src len) e w) race

theorem exec_peerWrite (id : Nat) (s : State) : exec (.peerWrite id) s = .next (after s (doPeerWrite id (work s))) := rfl

theorem get?_groups_peerRun (id g dst off : Nat) (r : KRun) (x y : KGroup) (t : MoverT) (ws src len : Nat) :
    ∃ y', Tab.get? (peerRun id g dst off r x y t ws src len).groups dst = some y' ∧
      y'.store = (peerBytes (threadNo g t.lane) off (x.bytes ws src len).zipIdx y).1.store := by
  obtain ⟨y', hy', rfl | rfl⟩ := get?_onG (r := { r with
    groups := Tab.put r.groups dst (peerBytes (threadNo g t.lane) off (x.bytes ws src len).zipIdx y).1 }) (Tab.get?_put_same ..) g
    (peerLanded id ws src len t)
  · exact ⟨_, hy', rfl⟩
  · exact ⟨_, hy', addFlags_store ..⟩

/-! ## The end of a transfer (R149) -/

theorem exec_moverTransferComplete (n : CoreId) (g id : Nat) (s : State) :
    exec (.moverTransferComplete ⟨n, none⟩ g id) s = .next (after s (doMoverComplete n.val g id (work s))) := rfl

theorem doMoverComplete_of_absent {id : Nat} {w : Wk} (h : findMover w.dev id = none) (n g : Nat) : doMoverComplete n g id w = w := by
  simp only [doMoverComplete, h]

theorem doPeerWrite_of_absent {id : Nat} {w : Wk} (h : findMover w.dev id = none) : doPeerWrite id w = w := by
  simp only [doPeerWrite, h]

section

variable {n g id no : Nat} {r : KRun} {x : KGroup} {t : MoverT} {w : Wk} (hf : findMover w.dev id = some (no, r, g, x, t))

include hf

/-- A transfer is not complete while its issuer's earlier accesses are on their way, nor after its kernel has stopped. -/
theorem doMoverComplete_of_waiting (h : moverWaits w.dev no g t = true ∨ r.stopped = true) (n : Nat) : doMoverComplete n g id w = w := by
  unfold doMoverComplete
  simp only [hf]
  split
  · rfl
  · split
    · rfl
    · exact if_pos (by rcases h with h | h <;> simp [h])

variable {qx : Queue} {c : Cmd} (hq : w.dev.queue? r.vdev r.queue = some qx) (hc : qx.cur = some c)
  (ready : x.core = n ∧ r.stopped = false ∧ c.no = no ∧ c.phase = .running ∧ moverWaits w.dev no g t = false)

include hq hc ready

theorem doMoverComplete_of_peer {src dst off len : Nat} (hp : t.peer = some (src, dst, off, len)) (hl : t.landed = true ∨ len = 0) :
    doMoverComplete n g id w = w.on (finishMover no g t) := by
  obtain ⟨hcore, hs, hno, hph, hw⟩ := ready
  simp [doMoverComplete, hf, hq, hc, hcore, hs, hno, hph, hw, hp, hl]

theorem doMoverComplete_of_memory (hp : t.peer = none) : doMoverComplete n g id w =
    (let p := if t.arg.toStore then moverIn r.vdev r.queue qx no r c g t w else moverOut r.vdev r.queue qx no r c g x t w
    if p.2 then p.1.on fun d => dropHostBuf r.vdev (finishMover no g t d) else p.1) := by
  obtain ⟨hcore, hs, hno, hph, hw⟩ := ready
  have due : ¬ (decide (g ≠ g) || decide (x.core ≠ n) || r.stopped || decide (c.no ≠ no) || c.phase != .running ||
      moverWaits w.dev no g t) = true := by
    simp [hcore, hs, hno, hph, hw]
  simp only [doMoverComplete, hf, hq, hc, hp]
  exact if_neg due

end

/-! ## Waits (R149, R165) -/

/-- The transfers that a lane issued, that are done, and that it has not seen. -/
def newlySeen (a : KAt) (lane : Nat) : List Seen :=
  (a.grp.finished.filter fun f => f.2 == lane && !(a.grp.seen.any fun s => s.id == f.1)).map fun f =>
    ⟨f.1, lane, a.grp.c, a.grp.b, a.run.nextAcc⟩

/-- After a wait that has passed, the lane has seen every transfer it issued that is done. -/
theorem seen_of_finished {a : KAt} {lane : Nat} {f : Nat × Nat} (hf : f ∈ a.grp.finished) (hl : f.2 = lane) :
    ∃ z ∈ a.grp.seen ++ newlySeen a lane, z.id = f.1 := by
  by_cases old : ∃ s ∈ a.grp.seen, s.id = f.1
  · obtain ⟨s, hs, hid⟩ := old
    exact ⟨s, List.mem_append_left _ hs, hid⟩
  · refine ⟨_, List.mem_append_right _ (List.mem_map.mpr ⟨f, List.mem_filter.mpr ⟨hf, ?_⟩, rfl⟩), rfl⟩
    simpa [hl] using old

/-- What a wait of a lane for `k` transfers leaves. -/
def waitDone (n g lane k : Nat) (d : Dev) : Dev :=
  match d.at? n g with
  | none => d
  | some a => match activeLanes d a g (laneBit lane) [] with
    | none => d
    | some _ =>
      if a.grp.count < k then d
      else
        let r := a.run.onG g fun x => { x with seen := x.seen ++ newlySeen a lane }
        d.setRun a.no { r with nextAcc := r.nextAcc + 1 }

theorem exec_moverWait (n : CoreId) (g : Nat) (lane : Fin 32) (k : Nat) (s : State) :
    exec (.moverWait ⟨n, none⟩ g lane k) s = .next { s with dev := waitDone n.val g lane.val k s.dev } := rfl

theorem waitDone_of_reached {d : Dev} {n g lane k : Nat} {a : KAt} {ls : List Nat} (ha : d.at? n g = some a)
    (hls : activeLanes d a g (laneBit lane) [] = some ls) (hk : k ≤ a.grp.count) : waitDone n g lane k d =
      d.setRun a.no { a.run with
        groups := Tab.put a.run.groups g { a.grp with seen := a.grp.seen ++ newlySeen a lane }
        nextAcc := a.run.nextAcc + 1 } := by
  simp only [waitDone, ha, hls, Nat.not_lt.mpr hk, if_false]
  rw [onG_of_get? (groups_get?_of_at? ha)]

theorem waitDone_of_short {d : Dev} {n g lane k : Nat} {a : KAt} (ha : d.at? n g = some a) (hk : a.grp.count < k) :
    waitDone n g lane k d = d := by
  simp only [waitDone, ha, hk, if_true]
  split <;> rfl

/-- Settles O47: each barrier, transfer and wait comes to the step that the state of its group decides. -/
theorem barriersAndTransfers : Obligations.BarriersAndTransfers := by
  unfold Obligations.BarriersAndTransfers
  refine ⟨?reached, ?groupPassed, ?cohortPassed, ?closed, ?noGroup, ?issued, ?notIssued, ?tooManyAxes, ?peerIssued, ?peerWritten, ?peerDone,
    ?memoryDone, ?waitPasses, ?waitHolds, ?notDone, ?noTransfer⟩
  case reached =>
    intro s n g lane a ha hls
    exact ⟨⟨_, exec_groupBarrier .., groupChanged_of_active ha hls _⟩, ⟨_, exec_cohortBarrier .., groupChanged_of_active ha hls _⟩⟩
  case groupPassed =>
    intro s n g a ha hwait harr hout
    exact ⟨_, exec_barrierRelease .., released_of_open ha ((barrierOpen_group ..).mpr ⟨hwait, harr, hout⟩)⟩
  case cohortPassed =>
    intro s n g a ha gs hwait harr
    exact ⟨_, exec_barrierRelease .., released_of_open ha (Bool.and_eq_true_iff.mpr ⟨hwait, harr⟩)⟩
  case closed =>
    intro s n g a ha
    refine ⟨fun h => ?_, fun ⟨x, hx, hlate⟩ => ?_⟩
    · have closed : barrierOpen s.dev a g false = false := by
        rw [← Bool.not_eq_true, barrierOpen_group]
        rintro ⟨hwait, harr, hout⟩
        rcases h with h | h | h
        · exact hwait h
        · exact Bool.false_ne_true (h.symm.trans harr)
        · exact Bool.false_ne_true (hout.symm.trans h)
      rw [exec_barrierRelease, released_of_closed ha closed]
    · rw [exec_barrierRelease, released_of_closed ha (barrierOpen_cohort_of_late hx hlate)]
  case noGroup => exact fun s n g cohort h => by rw [exec_barrierRelease, released_of_absent h]
  case issued =>
    intro s n g m a x l ls ha hls haxes hroom hturn
    refine ⟨_, (exec_moverTransfer ..).trans (by rw [if_neg (Nat.not_lt.mpr haxes)]), ?_⟩
    obtain ⟨r, hr, hg, hne⟩ := issueMover_of_room (x := x) (peer := fun _ => (none, 0)) ha hls hroom hturn
    exact ⟨r, _, hr, hg, transferAdded_silent .., hne⟩
  case notIssued =>
    intro s n g m a x src dst off len ha h
    have idle (y : MoverArg) (p : KAt → Option (Nat × Nat × Nat × Nat) × FlagWord) : issueMover n.val g m y p s.dev = s.dev := by
      rcases h with hfull | ⟨l, ls, hls, hturn⟩
      · exact issueMover_of_full ha hfull
      · exact issueMover_of_owing ha hls hturn
    exact ⟨by rw [exec_moverTransfer, idle, ite_self], by rw [exec_peerTransfer, idle]⟩
  case tooManyAxes => exact fun s n g m x h => by rw [exec_moverTransfer, if_pos h]
  case peerIssued =>
    intro s n g m a src dst off len l ls ha hls hroom hturn inside till
    obtain ⟨r, hr, hg, -⟩ := issueMover_of_room (x := ⟨false, 0, src, []⟩) (peer := peerPlace g src dst off len) ha hls hroom hturn
    refine ⟨fun hin => ⟨_, exec_peerTransfer .., r, _, hr, hg, ?_⟩, fun hout => ⟨_, exec_peerTransfer .., r, _, hr, hg, ?_⟩⟩
    · rw [peerPlace_of_inside hin]
      exact ⟨(congrArg KGroup.flags (transferAdded_silent _ a.grp) :), transferAdded_movers ..⟩
    · rw [peerPlace_of_outside hout]
      exact ⟨getD_flags_addFlags .., transferAdded_movers ..⟩
  case peerWritten =>
    intro s id no g src dst off len r x y t c hf hp hc hy htags hl hs hno hw
    obtain ⟨y', hy', hstore⟩ := get?_groups_peerRun id g dst off r x y t c.ws src len
    have wrote := doPeerWrite_of_unmarked (w := work s) hf hp hc hy (unmarked_of_no_tags htags) hl hs hno hw
    refine ⟨_, (exec_peerWrite ..).trans (by rw [wrote]), _, y', get?_kern_setRun .., hy', fun i hi => ?_⟩
    refine byte_of_get? (hstore ▸ get?_store_peerBytes ?_ ..)
    simpa [KGroup.bytes] using hi
  case peerDone =>
    intro s n g id no src dst off len r x t qx c hf hp hl hq hc hcore hs hno hph hw
    refine ⟨_, (exec_moverTransferComplete ..).trans ?_, rfl⟩
    rw [doMoverComplete_of_peer (w := work s) hf hq hc ⟨hcore, hs, hno, hph, hw⟩ hp hl]
    rfl
  case memoryDone =>
    intro s n g id no r x t qx c hf hp hq hc hcore hs hno hph hw p
    rw [exec_moverTransferComplete, doMoverComplete_of_memory (w := work s) hf hq hc ⟨hcore, hs, hno, hph, hw⟩ hp]
  case waitPasses =>
    intro s n g lane a k ha hls hk
    refine ⟨_, exec_moverWait .., ?_⟩
    rw [waitDone_of_reached ha hls hk]
    exact ⟨_, _, get?_kern_setRun .., Tab.get?_put_same .., fun f hf hl => seen_of_finished hf hl, rfl, rfl⟩
  case waitHolds => exact fun s n g lane a k ha hk => by rw [exec_moverWait, waitDone_of_short ha hk]
  case notDone =>
    intro s n g id no r x t hf h
    rw [exec_moverTransferComplete, doMoverComplete_of_waiting (w := work s) hf h]
    rfl
  case noTransfer =>
    intro s n g id hf
    rw [exec_moverTransferComplete, doMoverComplete_of_absent (w := work s) hf, exec_peerWrite, doPeerWrite_of_absent (w := work s) hf]
    exact ⟨rfl, rfl⟩

end Sys2Proof.Machine
end

section
/-! Ordered atomics and the allocator (R177, R178, R180, R182). -/

namespace Sys2Proof.Machine

open Sys2Proof

/-! ## Keys (R178) -/

theorem ordLt_irrefl : ∀ k : Key, ordLt k k = false
  | [] => rfl
  | x :: xs => by simp [ordLt, ordLt_irrefl xs]

theorem ordLt_trans : ∀ {a b c : Key}, ordLt a b = true → ordLt b c = true → ordLt a c = true
  | x :: xs, y :: ys, z :: zs, hab, hbc => by
    simp only [ordLt, Bool.or_eq_true, Bool.and_eq_true, decide_eq_true_eq, beq_iff_eq] at hab hbc ⊢
    rcases hab with hxy | ⟨rfl, hxy⟩
    · exact .inl (hbc.elim hxy.trans fun h => h.1 ▸ hxy)
    · exact hbc.imp_right fun ⟨hyz, h⟩ => ⟨hyz, ordLt_trans hxy h⟩

theorem leastOrd_eq_none : ∀ {l : List OrdReq}, leastOrd l = none → l = []
  | [], _ => rfl
  | o :: t, h => by
    unfold leastOrd at h
    split at h
    · cases h
    · split at h <;> cases h

/-- The pending operation of smallest key is pending, and no pending key is smaller. -/
theorem leastOrd_spec : ∀ {l : List OrdReq} {o : OrdReq}, leastOrd l = some o → o ∈ l ∧ ∀ p ∈ l, ordLt p.key o.key = false
  | q :: t, o, h => by
    unfold leastOrd at h
    split at h
    next hnone =>
      cases h
      obtain rfl := leastOrd_eq_none hnone
      simp [ordLt_irrefl]
    next m hm =>
      obtain ⟨hmem, hleast⟩ := leastOrd_spec hm
      split at h
      next hlt =>
        cases h
        refine ⟨List.mem_cons_self, List.forall_mem_cons.mpr ⟨ordLt_irrefl _, fun p hp => Bool.eq_false_iff.mpr fun hpq => ?_⟩⟩
        exact Bool.false_ne_true ((hleast p hp).symm.trans (ordLt_trans hpq hlt))
      next hge =>
        cases h
        exact ⟨List.mem_cons_of_mem q hmem, List.forall_mem_cons.mpr ⟨Bool.eq_false_iff.mpr hge, hleast⟩⟩

/-! ## Ordered operations queued (R177, R178) -/

/-- The group of a lane whose next ordered operation has a later key. -/
def seqRisen (a : KAt) (lane : Nat) (f : FlagWord) : KGroup :=
  { a.grp with seqs := Tab.put a.grp.seqs lane (Tab.getD a.grp.seqs lane 0 + 1) }.addFlags lane f

/-- The run with an operation of a lane queued under its key. -/
def orderQueued (a : KAt) (g lane rd : Nat) (p : OrdOp × FlagWord) : KRun := { a.run with
  groups := Tab.put a.run.groups g (seqRisen a lane p.2)
  ordered := a.run.ordered ++ [⟨a.cmd.cohortOf g, a.grp.c, g, a.grp.b, lane, Tab.getD a.grp.seqs lane 0, rd, p.1⟩]
  nextAcc := a.run.nextAcc + 1 }

theorem seqRisen_seqs (a : KAt) (lane : Nat) (f : FlagWord) :
    Tab.getD (seqRisen a lane f).seqs lane 0 = Tab.getD a.grp.seqs lane 0 + 1 := by
  have kept : (seqRisen a lane f).seqs = Tab.put a.grp.seqs lane (Tab.getD a.grp.seqs lane 0 + 1) :=
    (congrArg KGroup.seqs (addFlags_frame lane f _) :)
  rw [kept]
  exact Tab.getD_put_same ..

section

variable {n g lane rd : Nat} {regs : List Nat} {w : Wk} {a : KAt} (ha : w.dev.at? n g = some a)

include ha

theorem issueOrdered_of_active {anyLaunch : Bool} {ls : List Nat} (hls : activeLanes w.dev a g (laneBit lane) regs = some ls)
    (hord : anyLaunch = true ∨ klOrdered a.cmd.params = true) (hw : klWatch a.cmd.params = false) (op : KAt → OrdOp × FlagWord) :
    issueOrdered n g lane rd regs anyLaunch op w = w.on fun d => d.setRun a.no (orderQueued a g lane rd (op a)) := by
  have issues : ¬ (!anyLaunch && !klOrdered a.cmd.params) = true := by rcases hord with h | h <;> simp [h]
  simp only [issueOrdered, ha, hls, if_neg issues, watchInstr_of_not_watching hw, onG_of_get? (groups_get?_of_at? ha)]
  rfl

/-- R177: a kernel without ORDERED issues no ordered atomic. -/
theorem issueOrdered_of_unordered (h : klOrdered a.cmd.params = false) (op : KAt → OrdOp × FlagWord) :
    issueOrdered n g lane rd regs false op w = w := by
  simp only [issueOrdered, ha, h, Bool.not_false, Bool.and_self, if_true]
  split <;> rfl

end

/-- The run and the group that an ordered instruction leaves, with all that it leaves alone. -/
theorem orderQueued_spec (d : Dev) (a : KAt) (g lane rd : Nat) (p : OrdOp × FlagWord) :
    ∃ r x, Tab.get? (d.setRun a.no (orderQueued a g lane rd p)).kern a.no = some r ∧ Tab.get? r.groups g = some x ∧
      r.ordered = a.run.ordered ++ [⟨a.cmd.cohortOf g, a.grp.c, g, a.grp.b, lane, Tab.getD a.grp.seqs lane 0, rd, p.1⟩] ∧
      Tab.getD x.seqs lane 0 = Tab.getD a.grp.seqs lane 0 + 1 ∧ x.regs = a.grp.regs ∧ x.store = a.grp.store ∧
      { d.setRun a.no (orderQueued a g lane rd p) with kern := d.kern } = d :=
  ⟨_, _, get?_kern_setRun .., Tab.get?_put_same .., rfl, seqRisen_seqs .., addFlags_regs .., addFlags_store .., rfl⟩

/-! ## The instructions that queue -/

/-- A compare-and-swap as the operation it queues. -/
def casOp (lane : Fin 32) (wide core : Bool) (ra re rs : Nat) (a : KAt) : OrdOp × FlagWord :=
  (.cas core wide (ordAddr a lane.val core wide ra).1 (wideVal a lane.val re wide) (wideVal a lane.val rs wide),
    (ordAddr a lane.val core wide ra).2)

/-- An exchange as the operation it queues. -/
def swapOp (lane : Fin 32) (wide core : Bool) (ra rs : Nat) (a : KAt) : OrdOp × FlagWord :=
  (.swap core wide (ordAddr a lane.val core wide ra).1 (wideVal a lane.val rs wide), (ordAddr a lane.val core wide ra).2)

/-- A fetch-and-operate as the operation it queues. -/
def fetchOp (lane : Fin 32) (op : IntAtomic) (wide core : Bool) (ra rs : Nat) (a : KAt) : OrdOp × FlagWord :=
  (.fetch core wide op (ordAddr a lane.val core wide ra).1 (wideVal a lane.val rs wide), (ordAddr a lane.val core wide ra).2)

/-- A request for a block as the operation it queues. -/
def allocOp (lane : Fin 32) (rs : Nat) (a : KAt) : OrdOp × FlagWord := (.alloc (a.grp.pair lane.val rs).toNat, 0)

/-- The return of a block as the operation it queues. -/
def freeOp (lane : Fin 32) (ra rs : Nat) (a : KAt) : OrdOp × FlagWord :=
  (.free (a.grp.pair lane.val ra).toNat (a.grp.pair lane.val rs).toNat, 0)

section

variable (n : CoreId) (g : Nat) (lane : Fin 32) (wide core : Bool) (rd ra re rs : Nat) (s : State)

theorem exec_compareAndSwap : exec (.compareAndSwap ⟨n, none⟩ g lane wide core rd ra re rs) s =
    .next (after s (issueOrdered n.val g lane.val rd (wideRegs wide rd ++ addrRegs core ra ++ wideRegs wide re ++ wideRegs wide rs) false
      (casOp lane wide core ra re rs) (work s))) := rfl

theorem exec_exchange : exec (.exchange ⟨n, none⟩ g lane wide core rd ra rs) s =
    .next (after s (issueOrdered n.val g lane.val rd (wideRegs wide rd ++ addrRegs core ra ++ wideRegs wide rs) false
      (swapOp lane wide core ra rs) (work s))) := rfl

theorem exec_fetchAtomic (op : IntAtomic) : exec (.fetchAtomic ⟨n, none⟩ g lane op wide core rd ra rs) s =
    .next (after s (issueOrdered n.val g lane.val rd (wideRegs wide rd ++ addrRegs core ra ++ wideRegs wide rs) false
      (fetchOp lane op wide core ra rs) (work s))) := rfl

end

/-! ## The allocator's requests (R180, R182) -/

/-- A request of the allocator: answered at once without a heap, queued with one. -/
def heapRequest (n g : Nat) (lane : Fin 32) (uses : List Nat) (rd dst : Nat) (answer : List (BitVec 32)) (op : KAt → OrdOp × FlagWord)
    (w : Wk) : Wk :=
  match w.dev.at? n g with
  | none => w
  | some a =>
    if klHeap a.cmd.params = 0 then w.on (laneInstr n g (laneBit lane.val) uses rd fun _ _ => (answer, fInvalid))
    else issueOrdered n g lane.val dst uses true op w

theorem exec_dalloc (n : CoreId) (g : Nat) (lane : Fin 32) (rd rs : Nat) (s : State) : exec (.dalloc ⟨n, none⟩ g lane rd rs) s =
    .next (after s (heapRequest n.val g lane [rd, rd + 1, rs, rs + 1] rd rd (regWords 64 0) (allocOp lane rs) (work s))) := rfl

theorem exec_dfree (n : CoreId) (g : Nat) (lane : Fin 32) (ra rs : Nat) (s : State) : exec (.dfree ⟨n, none⟩ g lane ra rs) s =
    .next (after s (heapRequest n.val g lane [ra, ra + 1, rs, rs + 1] ra 256 [] (freeOp lane ra rs) (work s))) := rfl

section

variable {n g rd dst : Nat} {lane : Fin 32} {uses : List Nat} {answer : List (BitVec 32)} {op : KAt → OrdOp × FlagWord} {w : Wk} {a : KAt}
  (ha : w.dev.at? n g = some a)

include ha

theorem heapRequest_of_heap (h : klHeap a.cmd.params ≠ 0) :
    heapRequest n g lane uses rd dst answer op w = issueOrdered n g lane.val dst uses true op w := by
  simp only [heapRequest, ha, h, if_false]

theorem heapRequest_of_no_heap {ls : List Nat} (h : klHeap a.cmd.params = 0)
    (hls : activeLanes w.dev a g (laneBit lane.val) uses = some ls) :
    heapRequest n g lane uses rd dst answer op w = w.on (lanesWrite a g ls rd fun _ _ => (answer, fInvalid)) := by
  simp only [heapRequest, ha, h, if_true, Wk.on, laneInstr_of_active ha hls]

end

/-- R178: the active threads have passed every key of their interval. -/
def beyondMarked (n g : Nat) (mask : BitVec 32) (d : Dev) : Dev :=
  match d.at? n g with
  | none => d
  | some a =>
    match activeLanes d a g mask [] with
    | none => d
    | some ls => groupLeft a g (fun x => { x with beyond := ls.foldl (fun m l => m ||| laneBit l) x.beyond }) d

theorem exec_ordrel (n : CoreId) (g : Nat) (mask : BitVec 32) (s : State) :
    exec (.ordrel ⟨n, none⟩ g mask) s = .next { s with dev := beyondMarked n.val g mask s.dev } := rfl

theorem beyondMarked_of_active {d : Dev} {n g : Nat} {mask : BitVec 32} {a : KAt} {ls : List Nat} (ha : d.at? n g = some a)
    (hls : activeLanes d a g mask [] = some ls) : beyondMarked n g mask d =
      groupLeft a g (fun x => { x with beyond := ls.foldl (fun m l => m ||| laneBit l) x.beyond }) d := by
  simp only [beyondMarked, ha, hls]

/-! ## The turn (R178) -/

/-- The ordered operation `o` of command `c` performed. -/
def turnTaken (v q : Nat) (c : Cmd) (o : OrdReq) (w : Wk) : Wk :=
  match o.op with
  | .cas core wide addr _ _ => if core then w.on (ordCore c.no c o wide addr) else ordGlobal v q c.no c o wide addr w
  | .swap core wide addr _ => if core then w.on (ordCore c.no c o wide addr) else ordGlobal v q c.no c o wide addr w
  | .fetch core wide _ addr _ => if core then w.on (ordCore c.no c o wide addr) else ordGlobal v q c.no c o wide addr w
  | .alloc size => ordHeap v q c.no c o (fun b n bm => (regWords 64 (heapAlloc b n size bm).1, 0, (heapAlloc b n size bm).2)) w
  | .free addr size => ordHeap v q c.no c o
      (fun b n bm => ([], fIf (heapFree b n addr size bm).1 fInvalid, (heapFree b n addr size bm).2)) w

theorem exec_orderedTurn (v : VDev) (q : QId) (s : State) :
    exec (.orderedTurn v q) s = .next (after s (doOrderedTurn v.val q.val (work s))) := rfl

theorem doOrderedTurn_of_ready {v q : Nat} {w : Wk} {c : Cmd} {r : KRun} {o : OrdReq} (hc : w.dev.cur? v q = some c)
    (hr : Tab.get? w.dev.kern c.no = some r) (ho : leastOrd r.ordered = some o) (hp : c.phase = .running) (hs : r.stopped = false)
    (ht : turnReady c r o = true) : doOrderedTurn v q w = turnTaken v q c o w := by
  have due : ¬ (c.phase != .running || r.stopped || !turnReady c r o) = true := by simp [hp, hs, ht]
  simp only [doOrderedTurn, hc, hr, ho, if_neg due]
  rfl

theorem doOrderedTurn_of_not_ready {v q : Nat} {w : Wk} (h : ∀ c r o, w.dev.cur? v q = some c → Tab.get? w.dev.kern c.no = some r →
    leastOrd r.ordered = some o → c.phase ≠ .running ∨ r.stopped = true ∨ turnReady c r o = false) : doOrderedTurn v q w = w := by
  unfold doOrderedTurn
  split
  · rfl
  next c hc =>
    split
    · rfl
    next r hr =>
      split
      · rfl
      next o ho => exact if_pos (by simpa [or_assoc] using h c r o hc hr ho)

/-- Settles O46: each ordered instruction queues its operation, and the turn takes the least of those queued. -/
theorem orderedInstructions : Obligations.OrderedInstructions := by
  unfold Obligations.OrderedInstructions
  refine ⟨?queued, ?noHeap, ?ordrel, ?unordered, ?notReady, ?turn, fun l o => leastOrd_spec⟩
  case queued =>
    intro s n g lane a rd uses i o f hi ha hls hw
    have queues : ∃ anyLaunch op, op a = (o, f) ∧ (anyLaunch = true ∨ klOrdered a.cmd.params = true) ∧
        exec i s = .next (after s (issueOrdered n.val g lane.val rd uses anyLaunch op (work s))) := by
      rcases hi with ⟨wide, core, ra, re, rs, rfl, hord, rfl, rfl, rfl⟩ | ⟨wide, core, ra, rs, rfl, hord, rfl, rfl, rfl⟩ |
        ⟨op, wide, core, ra, rs, rfl, hord, rfl, rfl, rfl⟩ | ⟨rs, rfl, hheap, rfl, rfl, rfl⟩ | ⟨ra, rs, rfl, hheap, rfl, rfl, rfl, rfl⟩
      · exact ⟨_, _, rfl, .inr hord, exec_compareAndSwap ..⟩
      · exact ⟨_, _, rfl, .inr hord, exec_exchange ..⟩
      · exact ⟨_, _, rfl, .inr hord, exec_fetchAtomic ..⟩
      · exact ⟨true, allocOp lane rs, rfl, .inl rfl, by rw [exec_dalloc, heapRequest_of_heap (w := work s) ha hheap]⟩
      · exact ⟨true, freeOp lane ra rs, rfl, .inl rfl, by rw [exec_dfree, heapRequest_of_heap (w := work s) ha hheap]⟩
    obtain ⟨anyLaunch, op, hop, hord, hexec⟩ := queues
    refine ⟨_, hexec.trans ?_, orderQueued_spec s.dev a g lane.val rd (o, f)⟩
    rw [issueOrdered_of_active (w := work s) ha hls hord hw, hop]
    rfl
  case noHeap =>
    intro s n g lane a rd rs ha hheap hls
    refine ⟨⟨_, (exec_dalloc ..).trans ?_, rfl⟩, ⟨_, (exec_dfree ..).trans ?_, rfl⟩⟩ <;>
      exact congrArg (fun w => Host.Outcome.next (after s w)) (heapRequest_of_no_heap (w := work s) ha hheap hls)
  case ordrel =>
    intro s n g m a ls ha hls
    exact ⟨_, exec_ordrel .., beyondMarked_of_active ha hls⟩
  case unordered =>
    intro s n g lane a wide core op rd ra re rs ha h
    refine ⟨(exec_compareAndSwap ..).trans ?_, (exec_exchange ..).trans ?_, (exec_fetchAtomic ..).trans ?_⟩ <;>
      exact congrArg (fun w => Host.Outcome.next (after s w)) (issueOrdered_of_unordered (w := work s) ha h _)
  case notReady =>
    intro s v q h
    rw [exec_orderedTurn, doOrderedTurn_of_not_ready (w := work s) h]
    rfl
  case turn =>
    intro s v q c r o hc hr ho hp hs ht
    rw [exec_orderedTurn, doOrderedTurn_of_ready (w := work s) hc hr ho hp hs ht]
    rfl

end Sys2Proof.Machine
end

section
/-! The life of a kernel's groups (R160, R163, R167): the launch, a cohort that becomes resident, and the end of threads, cohorts and
kernels. -/

namespace Sys2Proof.Machine

open Sys2Proof

/-! ## Launch (R160) -/

theorem exec_kernelLaunch (v : VDev) (q : QId) (s : State) :
    exec (.kernelLaunch v q) s = .next { s with dev := doKernelLaunch v.val q.val s.dev } := rfl

theorem doKernelLaunch_of_new {v q : Nat} {d : Dev} {c : Cmd} (hc : d.cur? v q = some c) (hk : c.kind = 2) (hp : c.phase = .running)
    (hn : Tab.get? d.kern c.no = none) : doKernelLaunch v q d = d.setRun c.no ⟨v, q, [], 0, 0, [], [], [], 0, false,
      c.cohorts.flatten.eraseDups.map fun n => (n, (d.core n).ctr), (d.hlc 0, d.hlc 1)⟩ := by
  have launches : ¬ (decide (c.kind ≠ 2) || c.phase != .running || (Tab.get? d.kern c.no).isSome) = true := by simp [hk, hp, hn]
  simp only [doKernelLaunch, hc, if_neg launches]

theorem doKernelLaunch_of_not_new {v q : Nat} {d : Dev} (h : ∀ c, d.cur? v q = some c → c.kind ≠ 2 ∨ c.phase ≠ .running ∨
    Tab.get? d.kern c.no ≠ none) : doKernelLaunch v q d = d := by
  unfold doKernelLaunch
  split
  · rfl
  next c hc => exact if_pos (by simpa [or_assoc, Option.isSome_iff_ne_none] using h c hc)

/-! ## Residency (R163) -/

/-- How many groups the next cohort of a run has: the last one may be short. -/
def nextCount (c : Cmd) (r : KRun) : Nat := min (max 1 (klCohort c.params)) (klGroups c.params - r.next)

/-- Group `i` of the next cohort, on the cores that hold the cohort. -/
def newcomer (c : Cmd) (r : KRun) (cores : List Nat) (d : Dev) (i : Nat) : Nat × KGroup :=
  let per := max 1 (groupsPerCore (hdrRegs c.hdr) (hdrGs c.hdr))
  let n := cores.getD (i / per) 0
  (r.next + i, newGroup n (i % per) (if (d.core n).zeroed then none else some (d.draws + i)))

/-- The device whose random draws are counted and whose cores of a cohort are in use. -/
def coresTaken (k : Nat) (cores : List Nat) (d : Dev) : Dev :=
  cores.foldl (fun d n => d.onCore n fun k => { k with zeroed := false }) { d with draws := d.draws + k }

/-- The run whose next cohort is resident. -/
def cohortJoined (c : Cmd) (r : KRun) (cores : List Nat) (d : Dev) : KRun := { r with
  groups := r.groups ++ (List.range (nextCount c r)).map (newcomer c r cores d)
  next := r.next + nextCount c r }

theorem exec_groupResident (v : VDev) (q : QId) (s : State) :
    exec (.groupResident v q) s = .next { s with dev := doGroupResident v.val q.val s.dev } := rfl

theorem doGroupResident_of_ready {v q : Nat} {d : Dev} {c : Cmd} {r : KRun} {cores : List Nat} (hc : d.cur? v q = some c)
    (hp : c.phase = .running) (hr : Tab.get? d.kern c.no = some r) (hs : r.stopped = false)
    (hcores : c.cohorts[r.next / max 1 (klCohort c.params)]? = some cores) (hn : r.next < klGroups c.params)
    (hall : (cores.all fun n => c.clusters.contains (n / 68)) = true) :
    doGroupResident v q d = (coresTaken (nextCount c r) cores d).setRun c.no (cohortJoined c r cores d) := by
  have due : ¬ (c.phase != .running || r.stopped || decide (klGroups c.params ≤ r.next) ||
      !(cores.all fun n => c.clusters.contains (n / 68))) = true := by
    rw [hall]; simp [hp, hs, hn]
  simp only [doGroupResident, hc, hr, hcores, if_neg due]
  rfl

theorem doGroupResident_of_not_ready {v q : Nat} {d : Dev} (h : ∀ c r cores, d.cur? v q = some c → Tab.get? d.kern c.no = some r →
    c.cohorts[r.next / max 1 (klCohort c.params)]? = some cores → c.phase ≠ .running ∨ r.stopped = true ∨ klGroups c.params ≤ r.next ∨
      ∃ n ∈ cores, c.clusters.contains (n / 68) = false) : doGroupResident v q d = d := by
  unfold doGroupResident
  split
  · rfl
  next c hc =>
    split
    · rfl
    next r hr =>
      dsimp only
      split
      · rfl
      next cores hcores => exact if_pos (by simpa [or_assoc] using h c r cores hc hr hcores)

theorem foldl_onCore_draws (f : Core → Core) (l : List Nat) (d : Dev) : (l.foldl (fun d n => d.onCore n f) d).draws = d.draws :=
  foldl_keeps Dev.draws (f := fun d n => d.onCore n f) (fun _ _ => rfl) l d

theorem foldl_onCore_vds (f : Core → Core) (l : List Nat) (d : Dev) : (l.foldl (fun d n => d.onCore n f) d).vds = d.vds :=
  foldl_keeps Dev.vds (f := fun d n => d.onCore n f) (fun _ _ => rfl) l d

theorem coresTaken_draws (k : Nat) (cores : List Nat) (d : Dev) : (coresTaken k cores d).draws = d.draws + k := foldl_onCore_draws ..

theorem coresTaken_vds (k : Nat) (cores : List Nat) (d : Dev) : (coresTaken k cores d).vds = d.vds := foldl_onCore_vds ..

/-- R137: a group that becomes resident has written no register and no byte, and none of its threads has ended. -/
theorem newcomer_spec {c : Cmd} {r : KRun} {cores : List Nat} {d : Dev} {k : Nat} {p : Nat × KGroup}
    (hp : p ∈ (List.range k).map (newcomer c r cores d)) :
    p.2.regs = [] ∧ p.2.store = [] ∧ p.2.tags = [] ∧ p.2.ended = 0 ∧ r.next ≤ p.1 ∧ p.1 < r.next + k ∧
      p.2.fresh = if (d.core p.2.core).zeroed then none else some (d.draws + (p.1 - r.next)) := by
  obtain ⟨i, hi, rfl⟩ := List.mem_map.mp hp
  refine ⟨rfl, rfl, rfl, rfl, Nat.le_add_right .., Nat.add_lt_add_left (List.mem_range.mp hi) _, ?_⟩
  simp [newcomer, newGroup]

/-! ## The end of threads, cohorts and kernels (R163, R167) -/

theorem cur?_setRun (d : Dev) (no : Nat) (r : KRun) : (d.setRun no r).cur? = d.cur? := rfl

/-- A thread ends where it can issue, and its group is settled. -/
def threadEnded (n g lane : Nat) (d : Dev) : Dev :=
  match d.at? n g with
  | none => d
  | some a =>
    match activeLanes d a g (laneBit lane) [] with
    | none => d
    | some _ => settleGroup a.no g (groupLeft a g (fun x => { x with ended := x.ended ||| laneBit lane }) d)

theorem exec_threadEnd (n : CoreId) (g : Nat) (lane : Fin 32) (s : State) :
    exec (.threadEnd ⟨n, none⟩ g lane) s = .next { s with dev := threadEnded n.val g lane.val s.dev } := rfl

theorem threadEnded_of_active {d : Dev} {n g lane : Nat} {a : KAt} {ls : List Nat} (ha : d.at? n g = some a)
    (hls : activeLanes d a g (laneBit lane) [] = some ls) : threadEnded n g lane d =
      settleGroup a.no g (groupLeft a g (fun x => { x with ended := x.ended ||| laneBit lane }) d) := by
  simp only [threadEnded, ha, hls]

section

variable {no : Nat} {d : Dev} {r : KRun} {c : Cmd} (hr : Tab.get? d.kern no = some r) (hc : d.cur? r.vdev r.queue = some c)

include hr hc

theorem settleGroup_eq (g : Nat) : settleGroup no g d = settleCohort no (c.cohortOf g) d := by
  simp only [settleGroup, hr, hc]

/-- A cohort that is done leaves its flags to the command, which has executed after its last group. -/
theorem cur?_settleCohort_of_done {h : Nat} (hno : c.no = no) (hp : c.phase = .running) (hne : r.cohort c h ≠ [])
    (hall : ∀ x ∈ r.cohort c h, x.2.allEnded = true ∧ outstanding d no r x.1 = false) :
    (settleCohort no h d).cur? r.vdev r.queue = some { c with
      flags := c.flags ||| orFlags ((r.cohort c h).flatMap fun x => x.2.flags.map Prod.snd)
      phase := if r.ended + (r.cohort c h).length == klGroups c.params then .executed else c.phase } := by
  have leaves : ¬ (decide (c.no ≠ no) || (r.cohort c h).isEmpty ||
      !((r.cohort c h).all fun x => x.2.allEnded && !outstanding d no r x.1)) = true := by
    simpa [hno, hne] using hall
  have runs : ¬ (c.phase != .running) = true := by simp [hp]
  simp only [settleCohort, hr, hc, if_neg leaves, if_neg runs]
  rw [Dev.cur?_onCur_same, cur?_congr (foldl_onCore_vds ..), cur?_setRun, hc]
  rfl

end

/-- A group without ordered operations and transfers has nothing outstanding when no request is on its way. -/
theorem outstanding_of_idle {d : Dev} {r : KRun} {g : Nat} {x : KGroup} (hreqs : d.mc.reqs = []) (hresps : d.mc.resps = [])
    (hord : r.ordered = []) (hx : Tab.get? r.groups g = some x) (hmovers : x.movers = []) (no : Nat) : outstanding d no r g = false := by
  simp [outstanding, hreqs, hresps, hord, hx, hmovers]

/-- A run with one resident group. -/
def withLone (g : Nat) (x : KGroup) (r : KRun) : KRun := { r with groups := [(g, x)] }

theorem cohort_withLone (c : Cmd) (g : Nat) (x : KGroup) (r : KRun) : (withLone g x r).cohort c (c.cohortOf g) = [(g, x)] := by
  simp [withLone, KRun.cohort]

theorem onG_of_single {r : KRun} {g : Nat} {x : KGroup} (h : r.groups = [(g, x)]) (f : KGroup → KGroup) :
    r.onG g f = withLone g (f x) r := by
  have hx : Tab.get? r.groups g = some x := by simp [h, Tab.get?]
  rw [onG_of_get? hx, h]
  simp [Tab.put, withLone]

/-- R163: when the last threads of the only group left have ended, with nothing outstanding, the command has executed. -/
theorem cur?_settleGroup_of_last {d : Dev} {n g : Nat} {a : KAt} {f : KGroup → KGroup} (ha : d.at? n g = some a)
    (hsingle : a.run.groups = [(g, a.grp)]) (hend : (f a.grp).allEnded = true) (hord : a.run.ordered = []) (hmovers : (f a.grp).movers = [])
    (hreqs : d.mc.reqs = []) (hresps : d.mc.resps = []) (hlast : a.run.ended + 1 = klGroups a.cmd.params) :
    (settleGroup a.no g (groupLeft a g f d)).cur? a.run.vdev a.run.queue = some { a.cmd with
      flags := a.cmd.flags ||| orFlags ((f a.grp).flags.map Prod.snd)
      phase := .executed } := by
  obtain ⟨-, hcmd, -, -, hno, hphase, -⟩ := at?_spec ha
  have placed : Tab.get? (d.setRun a.no (withLone g (f a.grp) a.run)).kern a.no = some (withLone g (f a.grp) a.run) :=
    get?_kern_setRun ..
  have idle := outstanding_of_idle (d := d.setRun a.no (withLone g (f a.grp) a.run)) (r := withLone g (f a.grp) a.run) hreqs hresps hord
    (if_pos rfl) hmovers a.no
  have done := cur?_settleCohort_of_done (h := a.cmd.cohortOf g) placed hcmd hno hphase
  rw [cohort_withLone, List.forall_mem_singleton] at done
  rw [groupLeft, onG_of_single hsingle, settleGroup_eq placed hcmd]
  simpa [withLone, hlast] using done (List.cons_ne_nil _ _) ⟨hend, idle⟩

/-- Settles O41: a launch, a residency and the end of a thread, and what each leaves. -/
theorem kernelGroups : Obligations.KernelGroups := by
  unfold Obligations.KernelGroups
  refine ⟨?launch, ?noLaunch, ?noResidency, ?residency, ?threadEnd, ?lastThread⟩
  case launch => exact fun s v q c hc hk hp hn => ⟨_, exec_kernelLaunch .., doKernelLaunch_of_new hc hk hp hn⟩
  case noLaunch => exact fun s v q h => by rw [exec_kernelLaunch, doKernelLaunch_of_not_new h]
  case noResidency => exact fun s v q h => by rw [exec_groupResident, doGroupResident_of_not_ready h]
  case residency =>
    intro s v q c r cores hc hp hr hs hcores hn hall count
    refine ⟨_, exec_groupResident .., ?_⟩
    rw [doGroupResident_of_ready hc hp hr hs hcores hn hall]
    refine ⟨coresTaken_draws .., coresTaken_vds .., _, get?_kern_setRun .., rfl, ?_, List.take_left, fun p hpd => ?_⟩
    · simp [cohortJoined, count, nextCount]
    · rw [cohortJoined, List.drop_left] at hpd
      exact newcomer_spec hpd
  case threadEnd => exact fun s n g lane a ha hls => ⟨_, exec_threadEnd .., threadEnded_of_active ha hls⟩
  case lastThread =>
    intro s n g lane a ha hls hend hsingle hord hmovers hreqs hresps hlast
    refine ⟨_, exec_threadEnd .., ?_⟩
    rw [threadEnded_of_active ha hls]
    exact ⟨_, cur?_settleGroup_of_last ha hsingle (beq_iff_eq.mpr hend) hord hmovers hreqs hresps hlast, rfl, rfl⟩

end Sys2Proof.Machine
end

section
/-! Core-store accesses (R146, R164, R170, R171): a load that fills registers, and a store that marks its lines and may meet a race. -/

namespace Sys2Proof.Machine

open Sys2Proof

/-- No lane of a list owes the turn of an ordered operation on the bytes that it is to access. -/
theorem turnDue_any_eq_false {r : KRun} {g : Nat} {core : Bool} {ls : List Nat} {at_ size : Nat → Nat}
    (h : ∀ l ∈ ls, r.turnDue g l core (at_ l) (size l) = false) : (ls.any fun l => r.turnDue g l core (at_ l) (size l)) = false :=
  List.any_eq_false.mpr fun l hl => Bool.eq_false_iff.mp (h l hl)

/-! ## Loads -/

/-- What a load gives lane `l`: the bytes at its aligned offset, as register words, and its flags. -/
def csLoaded (a : KAt) (ra size l : Nat) : List (BitVec 32) × FlagWord :=
  (wordsOf (a.grp.bytes a.cmd.ws (csOffset a.cmd a.grp l ra size).1 size), (csOffset a.cmd a.grp l ra size).2.2)

/-- R146: a load whose read meets a parity error of the window. -/
def loadParity (n g : Nat) (mask : BitVec 32) (size : AccSize) (rd ra : Nat) (w : Wk) : Wk :=
  match w.dev.at? n g with
  | none => w
  | some a =>
    match activeLanes w.dev a g mask (ra :: regsFrom rd (accBytes size)) with
    | none => w
    | some ls => coreError a (.store (csOffset a.cmd a.grp (ls.headD 0) ra (accBytes size)).1) w

section

variable (n : CoreId) (g : Nat) (mask : BitVec 32) (size : AccSize) (rd ra rs : Nat) (s : State)

theorem exec_coreStoreLoad : exec (.coreStoreLoad ⟨n, none⟩ g mask size rd ra false) s =
    .next (after s (doCsLoad n.val g mask size rd ra (work s))) := rfl

theorem exec_coreStoreLoad_of_parity : exec (.coreStoreLoad ⟨n, none⟩ g mask size rd ra true) s =
    .next (after s (loadParity n.val g mask size rd ra (work s))) := rfl

theorem exec_coreStoreStore : exec (.coreStoreStore ⟨n, none⟩ g mask size ra rs) s =
    .next (after s (doCsStore n.val g mask size ra rs (work s))) := rfl

end

/-! ## Stores -/

/-- What lane `l` stores: the bytes of its registers, each with its thread and its offset of the window. -/
def csStored (a : KAt) (g ra rs size l : Nat) : List (Nat × Nat × Byte) :=
  (a.grp.regBytes l rs size).zipIdx.map fun (b, i) => (threadNo g l, (csOffset a.cmd a.grp l ra size).1 + i, b)

/-- The window that a store leaves, and the race that it met. -/
def storesMade (a : KAt) (g ra rs size : Nat) (ls : List Nat) : KGroup × Option Race :=
  storeAll a.cmd.ws (ls.flatMap (csStored a g ra rs size)) a.grp

/-- The run that a store leaves: the window written, and the flags of each lane. -/
def storeRun (a : KAt) (g ra rs size : Nat) (ls : List Nat) : KRun := { a.run with
  groups := Tab.put a.run.groups g
    (ls.foldl (fun x l => x.addFlags l (csOffset a.cmd a.grp l ra size).2.2) (storesMade a g ra rs size ls).1)
  nextAcc := a.run.nextAcc + 1 }

section

variable {n g : Nat} {mask : BitVec 32} {size : AccSize} {r ra : Nat} {w : Wk} {a : KAt} {ls : List Nat} (ha : w.dev.at? n g = some a)
  (hls : activeLanes w.dev a g mask (ra :: regsFrom r (accBytes size)) = some ls)

include ha hls

/-- R165 link 1: a load waits for the turn of its lane's own ordered operation. -/
theorem doCsLoad_of_turnDue {l : Nat} (hl : l ∈ ls)
    (h : a.run.turnDue g l true (csOffset a.cmd a.grp l ra (accBytes size)).1 (accBytes size) = true) :
    doCsLoad n g mask size r ra w = w := by
  simp only [doCsLoad, ha, hls, List.any_map, Function.comp_def]
  exact if_pos (List.any_eq_true.mpr ⟨l, hl, h⟩)

theorem doCsStore_of_turnDue {l : Nat} (hl : l ∈ ls)
    (h : a.run.turnDue g l true (csOffset a.cmd a.grp l ra (accBytes size)).1 (accBytes size) = true) :
    doCsStore n g mask size ra r w = w := by
  simp only [doCsStore, ha, hls, List.any_map, Function.comp_def]
  exact if_pos (List.any_eq_true.mpr ⟨l, hl, h⟩)

theorem loadParity_of_active : loadParity n g mask size r ra w =
    coreError a (.store (csOffset a.cmd a.grp (ls.headD 0) ra (accBytes size)).1) w := by
  simp only [loadParity, ha, hls]

variable (hw : klWatch a.cmd.params = false)
  (due : ∀ l ∈ ls, a.run.turnDue g l true (csOffset a.cmd a.grp l ra (accBytes size)).1 (accBytes size) = false)

include hw due

theorem doCsLoad_of_turn : doCsLoad n g mask size r ra w = w.on fun d =>
    d.setRun a.no { a.run.onG g (lanesDone r (csLoaded a ra (accBytes size)) ls) with nextAcc := a.run.nextAcc + 1 } := by
  simp only [doCsLoad, ha, hls, List.any_map, Function.comp_def, turnDue_any_eq_false due, Bool.false_eq_true, if_false,
    watchInstr_of_not_watching hw, putRun_none, List.foldl_map, onG_of_get? (groups_get?_of_at? ha)]
  rfl

theorem doCsStore_of_turn : doCsStore n g mask size ra r w =
    putRun a.no (storeRun a g ra r (accBytes size) ls) (storesMade a g ra r (accBytes size) ls).2 w := by
  simp only [doCsStore, ha, hls, List.any_map, Function.comp_def, turnDue_any_eq_false due, Bool.false_eq_true, if_false,
    watchInstr_of_not_watching hw, firstRace_none, List.foldl_map, List.flatMap_map]
  rfl

end

/-- Settles O43: a load or a store whose lanes owe no turn, a load that meets a parity error, and accesses that wait. -/
theorem coreStoreInstructions : Obligations.CoreStoreInstructions := by
  unfold Obligations.CoreStoreInstructions
  refine ⟨?load, ?parity, ?store, ?waits⟩
  case load =>
    intro s n g m z rd ra a ls ha hls hw due
    exact ⟨_, by rw [exec_coreStoreLoad, doCsLoad_of_turn (w := work s) ha hls hw due]; rfl, rfl⟩
  case parity =>
    intro s n g m z rd ra a l ls ha hls
    rw [exec_coreStoreLoad_of_parity, loadParity_of_active (w := work s) ha hls]
    rfl
  case store =>
    intro s n g m z ra rs a ls ha hls hw at_ due x y
    rw [exec_coreStoreStore, doCsStore_of_turn (w := work s) ha hls hw due]
    rfl
  case waits =>
    intro s n g m z ra r l a ls ha hls hl due
    rw [exec_coreStoreLoad, doCsLoad_of_turnDue (w := work s) ha hls hl due, exec_coreStoreStore,
      doCsStore_of_turnDue (w := work s) ha hls hl due]
    exact ⟨rfl, rfl⟩

end Sys2Proof.Machine
end

section
/-! Global accesses (R164, R166) and order-free atomics (R88, R174, R175). -/

namespace Sys2Proof.Machine

open Sys2Proof

/-! ## Global accesses -/

/-- The address of a lane's global access, rounded down, with its flag. -/
def globalPlace (a : KAt) (ra size l : Nat) : Nat × FlagWord := alignDown (a.grp.pair l ra).toNat size

/-- The run after a global access has gone out: the flags of each lane. -/
def globalRun (a : KAt) (g ra size : Nat) (ls : List Nat) : KRun := { a.run.onG g (fun x =>
    ls.foldl (fun x l => x.addFlags l (globalPlace a ra size l).2) x) with
  nextAcc := a.run.nextAcc + 1 }

section

variable (n : CoreId) (g : Nat) (mask : BitVec 32) (size : AccSize) (rd ra rs : Nat) (s : State)

theorem exec_globalLoad : exec (.globalLoad ⟨n, none⟩ g mask size rd ra) s =
    .next (after s (doGlobalLoad n.val g mask size rd ra (work s))) := rfl

theorem exec_globalStore : exec (.globalStore ⟨n, none⟩ g mask size ra rs) s =
    .next (after s (doGlobalStore n.val g mask size ra rs (work s))) := rfl

end

section

variable {n g : Nat} {mask : BitVec 32} {size : AccSize} {r ra : Nat} {w : Wk} {a : KAt} {ls : List Nat} (ha : w.dev.at? n g = some a)
  (hls : activeLanes w.dev a g mask (ra :: (ra + 1) :: regsFrom r (accBytes size)) = some ls) (hw : klWatch a.cmd.params = false)
  (due : ∀ l ∈ ls, a.run.turnDue g l false (globalPlace a ra (accBytes size) l).1 (accBytes size) = false)

include ha hls hw due

theorem doGlobalLoad_of_turn : doGlobalLoad n g mask size r ra w = ls.foldl
    (fun w l => issueReq a (globalPlace a ra (accBytes size) l).1 (.read (accBytes size)) (.load g l r (accBytes size)) w)
    (w.on fun d => d.setRun a.no (globalRun a g ra (accBytes size) ls)) := by
  unfold globalPlace at due
  simp only [doGlobalLoad, ha, hls, List.any_map, Function.comp_def, turnDue_any_eq_false due, Bool.false_eq_true, if_false,
    watchInstr_of_not_watching hw, putRun_none, Option.isSome_none, List.foldl_map, globalRun, onG_of_get? (groups_get?_of_at? ha)]
  rfl

theorem doGlobalStore_of_turn : doGlobalStore n g mask size ra r w = ls.foldl
    (fun w l => issueReq a (globalPlace a ra (accBytes size) l).1 (.write (a.grp.regBytes l r (accBytes size))) (.store g l) w)
    (w.on fun d => d.setRun a.no (globalRun a g ra (accBytes size) ls)) := by
  unfold globalPlace at due
  simp only [doGlobalStore, ha, hls, List.any_map, Function.comp_def, turnDue_any_eq_false due, Bool.false_eq_true, if_false,
    watchInstr_of_not_watching hw, putRun_none, Option.isSome_none, List.foldl_map, globalRun, onG_of_get? (groups_get?_of_at? ha)]
  rfl

end

/-! ## Order-free atomics (R174, R175) -/

/-- The registers of an order-free atomic: those of its address and of its operand. -/
def atomicRegs (core : Bool) (ra : Nat) (uses : List Nat) : List Nat := (if core then [ra] else [ra, ra + 1]) ++ uses

/-- The aligned place of a lane's atomic, with its flag. -/
def atomicPlace (a : KAt) (core : Bool) (ra : Nat) (o : AtOp) (l : Nat) : Nat × FlagWord :=
  alignDown (if core then (a.grp.reg l ra).toNat else (a.grp.pair l ra).toNat) o.align

/-- A core-store atomic that runs past the window. -/
def atomicOutside (a : KAt) (core : Bool) (ra : Nat) (o : AtOp) (l : Nat) : Bool :=
  core && decide (a.cmd.ws < (atomicPlace a core ra o l).1 + o.width)

section

variable (a : KAt) (g : Nat) (core : Bool) (ra : Nat) (op : Nat → AtOp × FlagWord) (ls : List Nat)

/-- The lanes whose atomic is performed. -/
def atomicLive : List Nat := ls.filter fun l => !atomicOutside a core ra (op l).1 l

/-- A group with the flags of its lanes' atomics. -/
def atomicFlags (x : KGroup) : KGroup := ls.foldl (fun x l => x.addFlags l
  ((op l).2 ||| (atomicPlace a core ra (op l).1 l).2 ||| fIf (atomicOutside a core ra (op l).1 l) fInvalid)) x

/-- Lane `l` performs its atomic on the window. -/
def atomicMade (x : KGroup) (l : Nat) : KGroup :=
  storeBytes (threadNo g l) (atomicPlace a core ra (op l).1 l).1
    (atomicBytes (op l).1 (x.bytes a.cmd.ws (atomicPlace a core ra (op l).1 l).1 (op l).1.width)) x

/-- The run after an atomic: one on the core store is performed, lane by lane. -/
def atomicRun : KRun := { a.run.onG g (fun x => if core then (atomicLive a core ra op ls).foldl (atomicMade a g core ra op)
    (atomicFlags a core ra op ls x) else atomicFlags a core ra op ls x) with
  nextAcc := a.run.nextAcc + 1 }

/-- The work after an atomic: one on global memory goes out, lane by lane. -/
def atomicDone (w : Wk) : Wk :=
  let w := w.on fun d => d.setRun a.no (atomicRun a g core ra op ls)
  if core then w else (atomicLive a core ra op ls).foldl
    (fun w l => issueReq a (atomicPlace a core ra (op l).1 l).1 (.atomic (op l).1) (.store g l) w) w

end

section

variable {n g : Nat} {mask : BitVec 32} {core : Bool} {ra : Nat} {uses : List Nat} {w : Wk} {a : KAt} {ls : List Nat}
  (ha : w.dev.at? n g = some a) (hls : activeLanes w.dev a g mask (atomicRegs core ra uses) = some ls)

include ha hls

theorem doOrderFree_of_turn (hw : klWatch a.cmd.params = false) {op : KAt → Nat → AtOp × FlagWord}
    (due : ∀ l ∈ ls, a.run.turnDue g l core (atomicPlace a core ra (op a l).1 l).1 (op a l).1.width = false)
    (reads : KAt → Nat → List (Nat × Loc × AccKind × Byte)) :
    doOrderFree n g mask core ra uses op reads w = atomicDone a g core ra (op a) ls w := by
  unfold atomicPlace at due
  unfold atomicRegs at hls
  simp only [doOrderFree, ha, hls, List.any_map, Function.comp_def, turnDue_any_eq_false due, Bool.false_eq_true, if_false,
    watchInstr_of_not_watching hw, putRun_none, Option.isSome_none, Bool.or_false, List.filter_map, List.foldl_map,
    onG_of_get? (groups_get?_of_at? ha), atomicDone, atomicRun]
  rfl

end

/-- R175: the operation of an integer atomic of lane `l`. -/
def intOp (o : IntAtomic) (wide : Bool) (rs : Nat) (a : KAt) (l : Nat) : AtOp × FlagWord :=
  (.int o wide (BitVec.ofNat 64 (a.grp.operand l rs (if wide then 64 else 32))), 0)

/-- R98, R175: the operation of a floating-point minimum or maximum of lane `l`. -/
def fpOp (isMax wide : Bool) (rs : Nat) (a : KAt) (l : Nat) : AtOp × FlagWord :=
  (.fp isMax wide (BitVec.ofNat 64 (a.grp.operand l rs (if wide then 64 else 32))),
    fIf (decodeElem (if wide then .fp64 else .fp32) (a.grp.operand l rs (if wide then 64 else 32))).isSNan fInvalid)

theorem exec_atomicInt (n : CoreId) (g : Nat) (mask : BitVec 32) (o : IntAtomic) (wide core : Bool) (ra rs : Nat) (s : State) :
    exec (.atomicInt ⟨n, none⟩ g mask o wide core ra rs) s = .next (after s (doOrderFree n.val g mask core ra (wideRegs wide rs)
      (intOp o wide rs) (fun _ _ => []) (work s))) := rfl

theorem exec_atomicFpMinmax (n : CoreId) (g : Nat) (mask : BitVec 32) (isMax wide core : Bool) (ra rs : Nat) (s : State) :
    exec (.atomicFpMinmax ⟨n, none⟩ g mask isMax wide core ra rs) s = .next (after s (doOrderFree n.val g mask core ra (wideRegs wide rs)
      (fpOp isMax wide rs) (fun _ _ => []) (work s))) := rfl

/-! ## Peat-accumulate (R88) -/

/-- The formats of a term that a lane's registers hold. -/
def peatFmtOk : PeatSrc → Bool
  | .term f => fmtIsLane f && f != .fp64
  | _ => true

/-- The registers of a peat-accumulate's operand. -/
def peatRegs (src : PeatSrc) (rs : Nat) : List Nat :=
  match src with
  | .term f => if 32 < fmtBits f then [rs, rs + 1] else [rs]
  | _ => [rs]

/-- The operation of a peat-accumulate of lane `l`. -/
def peatOp (src : PeatSrc) (rs : Nat) (a : KAt) (l : Nat) : AtOp × FlagWord :=
  (.peat ((peatOperand src a l rs).getD (Peat.zero, 0)).1, ((peatOperand src a l rs).getD (Peat.zero, 0)).2)

/-- A peat-accumulate: replayed where a lane's fragment is corrupted (R86), an order-free atomic elsewhere. -/
def doPeatAccumulate (n g : Nat) (mask : BitVec 32) (src : PeatSrc) (core : Bool) (ra rs : Nat) (w : Wk) : Wk :=
  match w.dev.at? n g with
  | none => w
  | some a =>
    match activeLanes w.dev a g mask (atomicRegs core ra (peatRegs src rs)) with
    | none => w
    | some ls =>
      if !peatFmtOk src then w
      else if ls.any fun l => (peatOperand src a l rs).isNone then replayCmd a.run.vdev a.run.queue [] w
      else doOrderFree n g mask core ra (peatRegs src rs) (peatOp src rs) (fun a l => peatLoads src a g rs l) w

theorem exec_atomicPeatAccumulate (n : CoreId) (g : Nat) (mask : BitVec 32) (src : PeatSrc) (core : Bool) (ra rs : Nat) (s : State) :
    exec (.atomicPeatAccumulate ⟨n, none⟩ g mask src core ra rs) s =
      .next (after s (doPeatAccumulate n.val g mask src core ra rs (work s))) := rfl

theorem peatFmtOk_of_lane {src : PeatSrc} (h : ∀ f, src = .term f → fmtIsLane f = true ∧ f ≠ .fp64) : peatFmtOk src = true := by
  cases src with
  | term f => simpa [peatFmtOk] using h f rfl
  | word => rfl
  | fragment => rfl

theorem doPeatAccumulate_of_other_format {src : PeatSrc} (h : peatFmtOk src = false) (n g : Nat) (mask : BitVec 32) (core : Bool)
    (ra rs : Nat) (w : Wk) : doPeatAccumulate n g mask src core ra rs w = w := by
  simp only [doPeatAccumulate, h, Bool.not_false, if_true]
  split
  · rfl
  · split <;> rfl

section

variable {n g : Nat} {mask : BitVec 32} {src : PeatSrc} {core : Bool} {ra rs : Nat} {w : Wk} {a : KAt} {ls : List Nat}
  (ha : w.dev.at? n g = some a) (hls : activeLanes w.dev a g mask (atomicRegs core ra (peatRegs src rs)) = some ls)
  (hf : peatFmtOk src = true)

include ha hls hf

theorem doPeatAccumulate_of_corrupt (h : (ls.any fun l => (peatOperand src a l rs).isNone) = true) :
    doPeatAccumulate n g mask src core ra rs w = replayCmd a.run.vdev a.run.queue [] w := by
  simp only [doPeatAccumulate, ha, hls, hf, h, Bool.not_true, Bool.false_eq_true, if_false, if_true]

theorem doPeatAccumulate_of_intact (h : (ls.all fun l => (peatOperand src a l rs).isSome) = true) :
    doPeatAccumulate n g mask src core ra rs w =
      doOrderFree n g mask core ra (peatRegs src rs) (peatOp src rs) (fun a l => peatLoads src a g rs l) w := by
  have intact : ¬ (ls.any fun l => (peatOperand src a l rs).isNone) = true := by
    simpa [Option.isSome_iff_ne_none] using h
  simp only [doPeatAccumulate, ha, hls, hf, if_neg intact, Bool.not_true, Bool.false_eq_true, if_false]

end

/-- Settles O44: global accesses go out lane by lane, and each order-free atomic is one operation per lane. -/
theorem globalAndAtomicInstructions : Obligations.GlobalAndAtomicInstructions := by
  unfold Obligations.GlobalAndAtomicInstructions
  refine ⟨?load, ?store, ?atomic, ?corrupt, ?otherFormats⟩
  case load =>
    intro s n g m z rd ra a ls ha hls hw at_ due
    rw [exec_globalLoad, doGlobalLoad_of_turn (w := work s) ha hls hw due]
    rfl
  case store =>
    intro s n g m z ra rs a ls ha hls hw at_ due
    rw [exec_globalStore, doGlobalStore_of_turn (w := work s) ha hls hw due]
    rfl
  case atomic =>
    intro s n g m core ra a ls uses i op hi ha hls hw place outside flags perform live due w
    have performs : ∃ op' reads, op' a = op ∧ exec i s = .next (after s (doOrderFree n.val g m core ra uses op' reads (work s))) := by
      rcases hi with ⟨rs, wide, o, rfl, rfl, rfl⟩ | ⟨rs, wide, mx, rfl, rfl, rfl⟩ | ⟨rs, src, rfl, hfmt, hall, huses, rfl⟩
      · exact ⟨_, _, rfl, exec_atomicInt ..⟩
      · exact ⟨_, _, rfl, exec_atomicFpMinmax ..⟩
      · obtain rfl : uses = peatRegs src rs := huses.trans (by cases src <;> rfl)
        refine ⟨peatOp src rs, fun a l => peatLoads src a g rs l, rfl, ?_⟩
        rw [exec_atomicPeatAccumulate, doPeatAccumulate_of_intact (w := work s) ha hls (peatFmtOk_of_lane hfmt) hall]
    obtain ⟨op', reads, rfl, hexec⟩ := performs
    rw [hexec, doOrderFree_of_turn (w := work s) ha hls hw due]
    rfl
  case corrupt =>
    intro s n g m core ra rs a ls ha hls hany
    rw [exec_atomicPeatAccumulate, doPeatAccumulate_of_corrupt (src := .fragment) (ra := ra) (w := work s) ha hls rfl hany]
  case otherFormats =>
    intro s n g m f core ra rs hf
    have other : peatFmtOk (.term f) = false := by
      rcases hf with h | rfl
      · simp [peatFmtOk, h]
      · rfl
    rw [exec_atomicPeatAccumulate, doPeatAccumulate_of_other_format other]
    rfl

end Sys2Proof.Machine
end

section
/-! An idle reference period (R188, R297, R346, R512): the counts of the hubs advance, and with them only the service counters of
compositions and the core microseconds of contexts. -/

namespace Sys2Proof.Machine

open Sys2Proof

/-! ## What a passing of time may change -/

/-- A composition without its service counters. -/
def Vd.uncounted (x : Vd) : Vd := { x with ctr := [] }

/-- The device is `d` up to the counts of the hubs, the service counters of compositions and the core microseconds of contexts. -/
structure MeteredFrom (d e : Dev) : Prop where
  rest : { e with
    clk := d.clk
    vds := d.vds
    ctxs := d.ctxs } = d
  vds : (e.vds.map fun p => (p.1, p.2.uncounted)) = d.vds.map fun p => (p.1, p.2.uncounted)
  ctxs : ∀ c, ∃ us, e.ctx? c = (d.ctx? c).map fun x => { x with coreUs := x.coreUs + us }

theorem MeteredFrom.of_ctx? {d e : Dev} (rest : { e with ctxs := d.ctxs } = d)
    (ctxs : ∀ c, ∃ us, e.ctx? c = (d.ctx? c).map fun x => { x with coreUs := x.coreUs + us }) : MeteredFrom d e where
  rest := by rw [← rest]
  vds := by rw [← rest]
  ctxs := ctxs

theorem MeteredFrom.refl (d : Dev) : MeteredFrom d d :=
  .of_ctx? rfl fun c => ⟨0, by simp⟩

theorem MeteredFrom.trans {d e f : Dev} (hde : MeteredFrom d e) (hef : MeteredFrom e f) : MeteredFrom d f where
  rest := by
    have unmeter := congrArg (fun x : Dev => { x with clk := d.clk, vds := d.vds, ctxs := d.ctxs }) hef.rest
    exact unmeter.trans hde.rest
  vds := hef.vds.trans hde.vds
  ctxs c := by
    obtain ⟨us, hus⟩ := hde.ctxs c
    obtain ⟨vs, hvs⟩ := hef.ctxs c
    refine ⟨us + vs, ?_⟩
    rw [hvs, hus, Option.map_map]
    simp [Function.comp_def, BitVec.add_assoc]

theorem MeteredFrom.with_clk {d e : Dev} (h : MeteredFrom d e) (k : Clk) : MeteredFrom d { e with clk := k } :=
  ⟨h.rest, h.vds, h.ctxs⟩

/-! ## Charges (R297, R346) -/

theorem count_uncounted (x : Vd) (i n : Nat) : (x.count i n).uncounted = x.uncounted := rfl

theorem charge_uncounted (d : Dev) (us v : Nat) (x : Vd) : (d.charge us v x).uncounted = x.uncounted := by
  unfold Dev.charge
  dsimp only
  split <;> simp only [count_uncounted]

theorem onCtx_clk (d : Dev) (c : Nat) (f : Ctx → Ctx) : (d.onCtx c f).clk = d.clk := by
  unfold Dev.onCtx
  split <;> rfl

/-- Core microseconds charged to a context are charged to it alone. -/
theorem onCtx_metered (d : Dev) (c : Nat) (us : BitVec 64) :
    MeteredFrom d (d.onCtx c fun x => { x with coreUs := x.coreUs + us }) := by
  unfold Dev.onCtx
  split
  case h_1 x hx =>
    refine .of_ctx? rfl fun c' => ?_
    by_cases hc : c' = c
    · subst hc
      exact ⟨us, by rw [hx]; exact Tab.get?_put_same ..⟩
    · exact ⟨0, by rw [Dev.ctx?, Tab.get?_put_ne _ _ hc]; simp [Dev.ctx?]⟩
  case h_2 => exact .refl d

theorem chargeAll_clk (d : Dev) (h us : Nat) : (d.chargeAll h us).clk = d.clk := by
  unfold Dev.chargeAll
  split
  · rfl
  · exact foldl_keeps Dev.clk (fun _ _ => onCtx_clk ..) _ d

theorem chargeAll_metered (d : Dev) (h us : Nat) : MeteredFrom d (d.chargeAll h us) := by
  unfold Dev.chargeAll
  split
  · exact .refl d
  · have contexts : MeteredFrom d ((d.resident h).foldl
        (fun d c => d.onCtx c.1 fun x => { x with coreUs := x.coreUs + BitVec.ofNat 64 (us * c.2) }) d) :=
      List.foldlRecOn _ _ (.refl d) fun e he c _ => he.trans (onCtx_metered e ..)
    refine ⟨contexts.rest, ?_, contexts.ctxs⟩
    rw [← contexts.vds, List.map_map]
    refine List.map_congr_left fun p _ => Prod.ext rfl ?_
    dsimp only [Function.comp_apply]
    split
    · exact charge_uncounted ..
    · rfl

/-! ## Time on a hub's count (R188, R512) -/

theorem advance_metered (d : Dev) (h : Nat) (t : BitVec 64) : MeteredFrom d (d.advance h t) := by
  unfold Dev.advance
  dsimp only
  split
  · exact .refl d
  · split <;> exact (chargeAll_metered ..).with_clk _

theorem advance_of_stopped {d : Dev} (hrun : d.clk.running = false) (h : Nat) (t : BitVec 64) : d.advance h t = d := by
  simp [Dev.advance, hrun]

theorem advance_zero_clk {d : Dev} {t : BitVec 64} (hrun : d.clk.running = true) (ht : d.clk.hlc0 < t) :
    (d.advance 0 t).clk = { d.clk with hlc0 := t } := by
  simp [Dev.advance, Dev.hlc, hrun, ht, chargeAll_clk]

theorem advance_one_clk {d : Dev} {t : BitVec 64} (hrun : d.clk.running = true) (ht : d.clk.hlc1 < t) :
    (d.advance 1 t).clk = { d.clk with hlc1 := t } := by
  simp [Dev.advance, Dev.hlc, hrun, ht, chargeAll_clk]

/-! ## The idle step -/

theorem step_of_no_command {s : State} (h : s.pending = []) : step s = .next (idle s) := by
  rw [step, h]

theorem idle_of_unpowered {s : State} (h : s.dev.clk.powered = false) : idle s = s := by
  simp [idle, h]

theorem idle_of_stopped {s : State} (h : s.dev.clk.running = false) : idle s = s := by
  simp [idle, advance_of_stopped h]

theorem idle_of_powered {s : State} (h : s.dev.clk.powered = true) :
    idle s = { s with dev := (s.dev.advance 0 (s.dev.clk.hlc0 + 1)).advance 1 (s.dev.clk.hlc1 + 1) } := by
  rw [idle, if_pos h]

/-- A count that does not stand at its last value is below the next one. -/
theorem lt_add_one_of_ne_allOnes {x : BitVec 64} (h : x ≠ BitVec.allOnes 64) : x < x + 1 := by
  have notLast : x.toNat ≠ 2 ^ 64 - 1 := fun e => h (BitVec.eq_of_toNat_eq (e.trans (BitVec.toNat_allOnes ..).symm))
  bv_omega

/-- Settles O2: each hub's count advances by one on its own, and what an advance charges is the counters alone. -/
theorem idleStepTicks : Obligations.IdleStepTicks := by
  unfold Obligations.IdleStepTicks
  refine ⟨?ticks, ?stands⟩
  case ticks =>
    intro s hidle hpow hrun h0 h1
    have clk0 := advance_zero_clk hrun (lt_add_one_of_ne_allOnes h0)
    have clk1 := advance_one_clk (d := s.dev.advance 0 (s.dev.clk.hlc0 + 1)) (t := s.dev.clk.hlc1 + 1) (by rw [clk0]; exact hrun)
      (by rw [clk0]; exact lt_add_one_of_ne_allOnes h1)
    rw [clk0] at clk1
    have metered := (advance_metered s.dev 0 (s.dev.clk.hlc0 + 1)).trans (advance_metered _ 1 (s.dev.clk.hlc1 + 1))
    refine ⟨_, (step_of_no_command hidle).trans (congrArg _ (idle_of_powered hpow)), ?_, ?_, rfl, hidle, metered.rest, metered.vds,
      metered.ctxs⟩
    · exact congrArg Clk.hlc0 clk1
    · exact congrArg Clk.hlc1 clk1
  case stands =>
    rintro s hidle (hpow | hrun)
    · rw [step_of_no_command hidle, idle_of_unpowered hpow]
    · rw [step_of_no_command hidle, idle_of_stopped hrun]

end Sys2Proof.Machine
end

section
/-! Device memory stays canonical (R205): every command is one piece of work on the device whose writes are committed together, and a
committed write keeps the canonical form. -/

namespace Sys2Proof.Machine

open Sys2Proof

/-! ## Every command is one piece of work -/

theorem coreStep_next (n : CoreAt) (g : Nat) (f : Wk → Wk) (s : State) :
    ∃ d log, coreStep n g f s = .next { s with dev := d, mem := s.mem.commit log } := by
  unfold coreStep
  split
  · exact ⟨_, _, rfl⟩
  · exact ⟨_, _, rfl⟩
  · exact ⟨_, _, rfl⟩

theorem execPreload_next (v : VDev) (q : QId) (n : CoreAt) (s : State) :
    ∃ d log, execPreload v q n s = .next { s with dev := d, mem := s.mem.commit log } := by
  unfold execPreload
  split
  · exact ⟨_, _, rfl⟩
  · exact ⟨_, [], rfl⟩

theorem execMoverTransferComplete_next (n : CoreAt) (g id : Nat) (s : State) :
    ∃ d log, execMoverTransferComplete n g id s = .next { s with dev := d, mem := s.mem.commit log } := by
  unfold execMoverTransferComplete
  split
  · exact ⟨_, _, rfl⟩
  · exact coreStep_next n g _ s

/-- What every command does: a change of the device and writes to memory that are committed together. The rows named first change the
device alone; those after them are instructions of a group, which a parity error may stop; the others may write memory. -/
theorem exec_next (i : Instr) (s : State) : ∃ d log, exec i s = .next { s with dev := d, mem := s.mem.commit log } := by
  cases i with
  | rangeInvalidation | mbxGo | mbxWithdraw | mbxDone | noticeSend | evcClaim | evcEoi | evcHoldTimer | msixVectorControlWrite
  | msixModerationTimer | adminTailWrite | evHeadWrite | releaseComplete | fenceSlotRelease | warmingTimeout | hdmDecoderCommit
  | hdmDecoderDecommit | atsInvalidation | ideKm | getTdispVersion | getTdispCapabilities | lockInterfaceRequest | startInterfaceRequest
  | stopInterfaceRequest | getDeviceInterfaceReport | getDeviceInterfaceState | sriovConfigChange | getVersion | getCapabilities
  | negotiateAlgorithms | getDigests | getCertificate | challenge | getMeasurements | keyExchange | finish | keyUpdate | heartbeat
  | endSession | generate | importKey | erase | listKeys | setEndpointId | getEndpointId | getMctpVersionSupport | getMessageTypeSupport
  | getVendorDefinedMessageSupport | i3cAddressAssign | i3cHotJoin | notify | notifyAck | notifyResendTimer | pwrApply | fwLoad
  | fwImageReadDone | dispatchDecision | nop | kernelLaunch | groupResident | barrierRelease | readData | writeAck | atomicAck | mgmt
  | rangeWalk | translationFault | faultTableRetryTimer | faultBatchTimer | fenceSignal | fenceFail | fenceWait | fenceRead
  | fenceWaitRetryTimer | fenceProxyTimeout | leafHash | receiptSignDone | beSliceExpiry | abort | mapPublish | mapAck | drained
  | sluiceOverdue | routerFail | channelTrainingLoss | patrolScrub | channelRetire | retiringNoticeTimer | hbmTempRead | coreSelfTestDone
  | journalAppend | portSignalDetect | portTrainingDone | portTrainRetryTimer | flitMgmt | sessionRekey | powerGood | stackGroupPowerUp
  | channelReady | earlyServiceStart | fullServiceStart | voltageAck | currentAlert | currentAlertRelease | powerEstimateTick
  | pfpTelemetry | phaseKeyUpdate | powerAllocation | thermalThrottle | throttleStepTimer | thermalCritical | thermtrip | coreIdleEntry
  | coreWake | channelIdleTimer | pfsAlarm | pfsHeartbeatLoss | debugPortEnable | criticalTemperatureRelease | referenceClockReturn
  | pfsAlarmDeassert | hostPortLinkUp | evcMaskWrite =>
    exact ⟨_, [], rfl⟩
  | mma | mdrain | mclear | vectorOp | functionOp | wisp | coreStoreLoad | coreStoreStore | globalLoad | globalStore | atomicInt
  | atomicFpMinmax | atomicPeatAccumulate | compareAndSwap | exchange | fetchAtomic | dalloc | dfree | ordrel | groupBarrier
  | cohortBarrier | moverTransfer | peerTransfer | moverWait | counterRead | identityRead | threadEnd =>
    exact coreStep_next _ _ _ s
  | preload v q n => exact execPreload_next v q n s
  | moverTransferComplete n g id => exact execMoverTransferComplete_next n g id s
  | _ => exact ⟨_, _, rfl⟩

theorem exec_mem {i : Instr} {s t : State} (h : exec i s = .next t) : ∃ log, t.mem = s.mem.commit log := by
  obtain ⟨d, log, hd⟩ := exec_next i s
  cases hd.symm.trans h
  exact ⟨log, rfl⟩

theorem idle_mem (s : State) : (idle s).mem = s.mem := by
  unfold idle
  split <;> rfl

/-- Settles O4: an idle period leaves memory as it is, and a command only commits writes to it. -/
theorem stepKeepsMemory : Obligations.StepKeepsMemory := by
  intro s t hwf hstep
  rcases hq : s.pending with _ | ⟨c, rest⟩
  case nil =>
    cases (step_of_no_command hq).symm.trans hstep
    rwa [idle_mem]
  case cons =>
    rw [step, hq] at hstep
    obtain ⟨log, hmem⟩ := exec_mem hstep
    rw [hmem]
    exact Memory.commit_wf s.mem log hwf

end Sys2Proof.Machine
end

section
/-! The fence unit (R215, R216, Table 9-5): what a signal and a failure make of a cell, case by case. -/

namespace Sys2Proof.Machine

open Sys2Proof

theorem notifyWaits_mc (k : Nat) (d : Dev) : (notifyWaits k d).mc = d.mc := by
  unfold notifyWaits
  extract_lets due e
  exact foldl_keeps Dev.mc (fun d w => show (noteWait w.src ((d.evalWait k w.t).getD none) d).mc = d.mc from rfl) due e

/-- The notification of waits leaves every cell as it is. -/
theorem notifyWaits_cell (k : Nat) (d : Dev) : (notifyWaits k d).cell = d.cell := by
  funext j
  rw [Dev.cell, Dev.cell, notifyWaits_mc]

/-! ## A lost cell, a live cell and a failed cell -/

section
variable {d : Dev} {k : Nat} (code : Nat) {v : BitVec 64}

theorem commitSignal_of_lost (hl : d.cellLost k = true) : commitSignal k v d = (.refused 0x11, d) := by
  simp [commitSignal, hl]

theorem commitFail_of_lost (hl : d.cellLost k = true) : commitFail k code v d = (.alreadyFailed 0x11, d) := by
  simp [commitFail, hl]

theorem commitSignal_of_failed (hl : d.cellLost k = false) (hs : (d.cell k).state = 2) :
    commitSignal k v d = (.refused (d.cell k).error.toNat, d) := by
  simp [commitSignal, hl, hs]

theorem commitFail_of_failed (hl : d.cellLost k = false) (hs : (d.cell k).state = 2) :
    commitFail k code v d = (.alreadyFailed (d.cell k).error.toNat, d) := by
  simp [commitFail, hl, hs]

theorem commitSignal_of_le (hl : d.cellLost k = false) (hs : (d.cell k).state = 1) (hv : v ≤ (d.cell k).value) :
    commitSignal k v d = (.stale, d) := by
  simp [commitSignal, hl, hs, BitVec.not_lt.mpr hv]

theorem commitFail_of_le (hl : d.cellLost k = false) (hs : (d.cell k).state = 1) (hv : v ≤ (d.cell k).value) :
    commitFail k code v d = (.signalled, d) := by
  simp [commitFail, hl, hs, BitVec.not_lt.mpr hv]

theorem commitSignal_of_lt (hl : d.cellLost k = false) (hs : (d.cell k).state = 1) (hv : (d.cell k).value < v) :
    commitSignal k v d = (.applied, notifyWaits k (d.onCell k fun c => { c with value := v })) := by
  simp [commitSignal, hl, hs, hv]

theorem commitFail_of_lt (hl : d.cellLost k = false) (hs : (d.cell k).state = 1) (hv : (d.cell k).value < v) :
    commitFail k code v d = (.applied, notifyWaits k (d.onCell k fun c => { c with
      state := 2
      error := BitVec.ofNat 16 code })) := by
  simp [commitFail, hl, hs, hv]

/-! ## Whatever the cell -/

/-- A signal leaves the device as it is, or raises the value of its cell. -/
theorem commitSignal_cases : (commitSignal k v d).2 = d ∨
    (d.cell k).value < v ∧ (commitSignal k v d).2 = notifyWaits k (d.onCell k fun c => { c with value := v }) := by
  unfold commitSignal
  dsimp only
  split
  · exact .inl rfl
  · split
    · split
      case isTrue hv => exact .inr ⟨hv, rfl⟩
      case isFalse => exact .inl rfl
    · exact .inl rfl

/-- A failure leaves the device as it is, or changes its cell. -/
theorem commitFail_cases : (commitFail k code v d).2 = d ∨ ∃ f, (commitFail k code v d).2 = notifyWaits k (d.onCell k f) := by
  unfold commitFail
  dsimp only
  split
  · exact .inl rfl
  · split
    · split
      · exact .inr ⟨_, rfl⟩
      · exact .inl rfl
    · split
      · exact .inl rfl
      · exact .inl rfl

theorem value_le_commitSignal : (d.cell k).value ≤ ((commitSignal k v d).2.cell k).value := by
  rcases commitSignal_cases (d := d) (k := k) (v := v) with h | ⟨hv, h⟩
  · rw [h]
    exact BitVec.le_refl _
  · rw [h, notifyWaits_cell, Dev.cell_onCell_same]
    exact BitVec.le_of_lt hv

theorem commitSignal_cell_ne {j : Nat} (hj : j ≠ k) : (commitSignal k v d).2.cell j = d.cell j := by
  rcases commitSignal_cases (d := d) (k := k) (v := v) with h | ⟨-, h⟩
  · rw [h]
  · rw [h, notifyWaits_cell, Dev.cell_onCell_ne d _ hj]

theorem commitFail_cell_ne {j : Nat} (hj : j ≠ k) : (commitFail k code v d).2.cell j = d.cell j := by
  rcases commitFail_cases (d := d) (k := k) (v := v) code with h | ⟨f, h⟩
  · rw [h]
  · rw [h, notifyWaits_cell, Dev.cell_onCell_ne d _ hj]

end

/-- Settles O24: the rows of Table 9-5, and what holds whatever the row. -/
theorem fenceCellTable : Obligations.FenceCellTable := by
  unfold Obligations.FenceCellTable
  intro d k code v
  refine ⟨value_le_commitSignal, fun j hj => ⟨commitSignal_cell_ne hj, commitFail_cell_ne code hj⟩, fun hl hs hv => ?applied,
    fun hl hs hv => ⟨commitSignal_of_le hl hs hv, commitFail_of_le code hl hs hv⟩,
    fun hl hs => ⟨commitSignal_of_failed hl hs, commitFail_of_failed code hl hs⟩,
    fun hl => ⟨commitSignal_of_lost hl, commitFail_of_lost code hl⟩⟩
  case applied =>
    rw [commitSignal_of_lt hl hs hv, commitFail_of_lt code hl hs hv]
    simp only [notifyWaits_cell, Dev.cell_onCell_same, and_self]

end Sys2Proof.Machine
end

section
/-! The end of an attempt (R217): the cores that a command leaves, and a core that it does not leave. -/

namespace Sys2Proof.Machine

open Sys2Proof

/-- A core that a command occupies, and on which it stands aside for itself too. A command that leaves its cores leaves the second
place of such a core alone (R254). -/
def heldTwice (no : Nat) : Core := { Core.reset with
  state := .serviceable
  busy := some no
  switched := some no }

/-- A command that has executed, asks for no digest and has no write outstanding. -/
def executedCmd : Cmd := { mkCmd 7 0 0 0 0 [] with phase := .executed }

/-- A device whose one queue has that command as its current one, and whose core 0 holds it twice. -/
def heldTwiceDev : Dev := { Dev.reset with
  vds := [(0, { Vd.reset with queues := [(0, { mkQueue 1 0 [] with cur := some executedCmd })] })]
  sched := { Dev.reset.sched with cores := [(0, heldTwice 7)] } }

/-- Refutes O19: a core that holds the command in both its places still holds it when the last write is acknowledged, as a command that
leaves a core gives up the place aside first and then no other. -/
theorem not_attemptsClose : ¬ Obligations.AttemptsClose := by
  unfold Obligations.AttemptsClose
  rintro ⟨acked, -⟩
  obtain ⟨d, hexec, -, -, -, free, -⟩ := acked { State.reset with dev := heldTwiceDev } 0 0 executedCmd rfl rfl (by decide) rfl rfl
  have held : ∃ t, exec (.attemptLastWriteAcked 0 0) { State.reset with dev := heldTwiceDev } = .next t ∧ (t.dev.core 0).busy = some 7 :=
    ⟨_, rfl, rfl⟩
  obtain ⟨t, ht, busy⟩ := held
  cases hexec.symm.trans ht
  exact free 0 busy

end Sys2Proof.Machine
end

section
/-! Host windows (R230 … R233, R525): decoders are bound and committed, and a host access of a window is held, missed or performed. -/

namespace Sys2Proof.Machine

open Sys2Proof

/-! ## Decoders (R231) -/

theorem decoder_onDecoder_same (d : Dev) (p i : Nat) (f : Hdm → Hdm) : (d.onDecoder p i f).decoder p i = f (d.decoder p i) := by
  simp [Dev.decoder, Dev.onDecoder, Dev.onMc]

theorem decoder_of_mc {d e : Dev} {p i : Nat} {f : Hdm → Hdm} (h : e.mc = (d.onDecoder p i f).mc) : e.decoder p i = f (d.decoder p i) := by
  rw [← decoder_onDecoder_same d p i f, Dev.decoder, Dev.decoder, h]

/-- The binding that the arguments of EXPOSE_HDM ask for. -/
def bindingOf (a : List Byte) : Nat × Nat × Bool × Bool := (fieldLe a 2 1, fieldLe a 4 8, bitAt (fieldLe a 3 1) 0, bitAt (fieldLe a 3 1) 1)

theorem doExposeHdm_performed {r : AdReq} {w : Wk} {a : List Byte} {h : Hdm} (ha : r.args = a)
    (hh : w.dev.decoder (fieldLe a 0 1) (fieldLe a 1 1) = h) (port : fieldLe a 0 1 < 4) (number : fieldLe a 1 1 < 4)
    (some_ : 1 ≤ fieldLe a 3 1) (perm : fieldLe a 3 1 < 4) (aligned : fieldLe a 4 8 % 65536 = 0) (within : fieldLe a 4 8 + h.size ≤ 2 ^ 56)
    (own : fieldLe a 2 1 / 64 = fieldLe a 0 1) (committed : h.committed = true) (free : h.bound = none)
    (unlocked : (w.dev.fn (fieldLe a 2 1)).tdi ≠ .configLocked) (stopped : (w.dev.fn (fieldLe a 2 1)).tdi ≠ .run)
    (thawed : (w.dev.vd (fieldLe a 2 1)).frozen = false) (level : w.dev.sec.level < 2) :
    doExposeHdm r w = performed [] (w.on fun d => d.onDecoder (fieldLe a 0 1) (fieldLe a 1 1) fun h => { h with bound := some (bindingOf a) }) := by
  subst ha hh
  have pass : ∀ c ∈ [(true, stField), (true, stState)], c.1 = true := by simp
  simp only [doExposeHdm, decide_eq_true port, decide_eq_true number, decide_eq_true some_, decide_eq_true perm, beq_iff_eq.mpr aligned,
    decide_eq_true within, beq_iff_eq.mpr own, committed, free, bne_iff_ne.mpr unlocked, bne_iff_ne.mpr stopped, thawed,
    decide_eq_true level, Option.isNone_none, Bool.not_false, Bool.and_self, firstStatus_eq_none pass]
  rfl

/-- A bound decoder is unbound at once, whether the request is answered now or once the accesses that are held have their responses. -/
theorem doWithdrawHdm_of_bound {r : AdReq} {w : Wk} {p i : Nat} (hp : fieldLe r.args 0 1 = p) (hi : fieldLe r.args 1 1 = i) (port : p < 4)
    (number : i < 4) (bound : (w.dev.decoder p i).bound.isSome = true) : ∃ a, (a = .later (.withdrawHdm p) ∨ a = .done stOk 0 []) ∧
    doWithdrawHdm r w = (a, w.on fun d => d.onDecoder p i fun h => { h with bound := none }) := by
  subst hp hi
  have hb : (w.dev.decoder (fieldLe r.args 0 1) (fieldLe r.args 1 1)).bound.isNone = false := by
    simpa [Option.isSome_iff_ne_none] using bound
  simp only [doWithdrawHdm, hb, Nat.not_le.mpr port, Nat.not_le.mpr number, decide_false, Bool.or_self, Bool.false_eq_true, if_false]
  split
  · exact ⟨_, .inl rfl, rfl⟩
  · exact ⟨_, .inr rfl, rfl⟩

theorem exec_exposeHdm (s : State) : exec .exposeHdm s = .next (after s (takeRequest mgr (adRow 0x0310 12) doExposeHdm (work s))) := rfl

theorem exec_withdrawHdm (s : State) : exec .withdrawHdm s = .next (after s (takeRequest mgr (adRow 0x0311 2) doWithdrawHdm (work s))) := rfl

/-- What HDM_DECODER_COMMIT makes of the device. -/
def decoderCommitted (p i base size : Nat) (d : Dev) : Dev :=
  if !(d.link p).cxl || (d.decoder p i).committed || size = 0 || size % hdmUnit ≠ 0 then d
  else d.onDecoder p i fun _ => ⟨base, size, true, none⟩

theorem exec_hdmDecoderCommit (p : HPort) (i : Fin 4) (base size : Nat) (s : State) :
    exec (.hdmDecoderCommit p i base size) s = .next { s with dev := decoderCommitted p.val i.val base size s.dev } := rfl

/-- What HDM_DECODER_DECOMMIT makes of the device. -/
def decoderDecommitted (p i : Nat) (newSize : Option Nat) (d : Dev) : Dev :=
  if !(d.decoder p i).committed then d
  else match newSize with
    | none => d.onDecoder p i fun _ => Hdm.reset
    | some n => if n = 0 || n % hdmUnit ≠ 0 then d else d.onDecoder p i fun h => { h with size := n, bound := none }

theorem exec_hdmDecoderDecommit (p : HPort) (i : Fin 4) (n : Option Nat) (s : State) :
    exec (.hdmDecoderDecommit p i n) s = .next { s with dev := decoderDecommitted p.val i.val n s.dev } := rfl

section
variable {d : Dev} {p i : Nat} {size : Nat}

theorem decoderCommitted_of_free (base : Nat) (cxl : (d.link p).cxl = true) (free : (d.decoder p i).committed = false) (pos : 0 < size)
    (unit_ : size % hdmUnit = 0) : decoderCommitted p i base size d = d.onDecoder p i fun _ => ⟨base, size, true, none⟩ := by
  simp [decoderCommitted, cxl, free, pos.ne', unit_]

theorem decoderCommitted_of_refused (base : Nat) (h : (d.link p).cxl = false ∨ (d.decoder p i).committed = true) :
    decoderCommitted p i base size d = d := by
  rcases h with h | h <;> simp [decoderCommitted, h]

theorem decoderCommitted_of_bad_size (base : Nat) (h : size = 0 ∨ size % hdmUnit ≠ 0) : decoderCommitted p i base size d = d := by
  rcases h with h | h <;> simp [decoderCommitted, h]

theorem decoderDecommitted_of_free (n : Option Nat) (free : (d.decoder p i).committed = false) : decoderDecommitted p i n d = d := by
  simp [decoderDecommitted, free]

theorem decoderDecommitted_none (committed : (d.decoder p i).committed = true) :
    decoderDecommitted p i none d = d.onDecoder p i fun _ => Hdm.reset := by
  simp [decoderDecommitted, committed]

theorem decoderDecommitted_some (committed : (d.decoder p i).committed = true) (pos : 0 < size) (unit_ : size % hdmUnit = 0) :
    decoderDecommitted p i (some size) d = d.onDecoder p i fun h => { h with size := size, bound := none } := by
  simp [decoderDecommitted, committed, pos.ne', unit_]

theorem decoderDecommitted_of_bad_size (h : size = 0 ∨ size % hdmUnit ≠ 0) : decoderDecommitted p i (some size) d = d := by
  rcases h with h | h <;> simp [decoderDecommitted, h]

end

/-! ## Host accesses of a span (R232, R525) -/

/-- A command at work whose hub has translated a span and whose reads have met what the homes of its lines meet. -/
def hostReached (v va n : Nat) (f : ReadFault) (w : Wk) : Wk := meetSpan (hubEng v) v (parts va n) f (w.on (useXlt (hubEng v) v [(va, n)]))

section
variable {v va n : Nat} {w : Wk}

theorem hostReadVa_of_error {e : Acc} (h : checkAs (hubEng v) w.dev v needR (parts va n) = some e) (cxl : Bool) (f : ReadFault) (held : HeldAcc)
    (answer : Option (List Byte) → Wk → Wk) : hostReadVa cxl v va n f held answer w =
      if e.waits = true then holdHost held w else answer none (w.on (windowMiss cxl v e)) := by
  simp only [hostReadVa, h]

variable (h : checkAs (hubEng v) w.dev v needR (parts va n) = none)
include h

theorem hostReadVa_of_bytes {f : ReadFault} {bs : List Byte} (hr : readAs (hubEng v) (hostReached v va n f w) v needR va n = .ok bs)
    (cxl : Bool) (held : HeldAcc) (answer : Option (List Byte) → Wk → Wk) :
    hostReadVa cxl v va n f held answer w = answer (some bs) (hostReached v va n f w) := by
  rw [hostReached] at hr ⊢
  simp only [hostReadVa, h, hr]

theorem hostReadVa_of_miss {f : ReadFault} {e : Acc} (hr : readAs (hubEng v) (hostReached v va n f w) v needR va n = .error e)
    (cxl : Bool) (held : HeldAcc) (answer : Option (List Byte) → Wk → Wk) :
    hostReadVa cxl v va n f held answer w = answer none ((hostReached v va n f w).on (windowMiss cxl v e)) := by
  rw [hostReached] at hr ⊢
  simp only [hostReadVa, h, hr]

end

section
variable {v va : Nat} {bs : List Byte} {w : Wk}

/-- Why a host write of a span does not reach memory, if it does not. -/
def hostBlocked (d : Dev) (v va n : Nat) : Option Acc :=
  (checkAs (hubEng v) d v needW (parts va n)).orElse fun _ => partPoison d v (parts va n)

theorem hostWriteVa_of_blocked {e : Acc} (h : hostBlocked w.dev v va bs.length = some e) (held : HeldAcc) (done : Wk → Wk) :
    hostWriteVa v va bs held done w = if e.waits = true then holdHost held w else done (w.on (windowMiss false v e)) := by
  rw [hostBlocked] at h
  simp only [hostWriteVa, h]

theorem hostWriteVa_of_clear (h : hostBlocked w.dev v va bs.length = none) (held : HeldAcc) (done : Wk → Wk) :
    hostWriteVa v va bs held done w = done (writeAs (hubEng v) v va bs none (w.on (useXlt (hubEng v) v [(va, bs.length)]))).1 := by
  rw [hostBlocked] at h
  simp only [hostWriteVa, h]

end

/-! ## CXL.mem (R232, R233) -/

theorem sliceB_of_length {bs : List Byte} {n : Nat} (h : bs.length = n) : sliceB bs 0 n = bs := by
  subst h
  simp [sliceB]

theorem exec_cxlMemRead (p : HPort) (x : HostAt) (s : State) : exec (.cxlMemRead p x) s = .next (after s (doCxlRead p.val x (work s))) := rfl

theorem exec_cxlMemWrite (p : HPort) (a : Nat) (line : List Byte) (s : State) :
    exec (.cxlMemWrite p a line) s = .next (after s (doCxlWrite p.val a line (work s))) := rfl

section
variable {p a : Nat} {w : Wk}

theorem doCxlRead_of_not_cxl (h : (w.dev.link p).cxl = false) (x : HostAt) : doCxlRead p x w = w := by
  simp [doCxlRead, h]

theorem doCxlWrite_of_not_cxl (h : (w.dev.link p).cxl = false) (a : Nat) (line : List Byte) : doCxlWrite p a line w = w := by
  simp [doCxlWrite, h]

variable (cxl : (w.dev.link p).cxl = true)
include cxl

theorem doCxlRead_of_no_window (h : windowAt w.dev p (lineOf a) = none) (f : ReadFault) :
    doCxlRead p ⟨a, f⟩ w = w.on fun d => d.emit (.cxlRead p (lineOf a) [] true) := by
  simp only [doCxlRead, cxl, h, Bool.not_true, Bool.false_eq_true, if_false]

theorem doCxlWrite_of_no_window (h : windowAt w.dev p (lineOf a) = none) (line : List Byte) :
    doCxlWrite p a line w = w.on fun d => d.emit (.cxlWriteDone p (lineOf a)) := by
  simp only [doCxlWrite, cxl, h, Bool.not_true, Bool.false_eq_true, if_false]

variable {v va : Nat}

theorem doCxlRead_of_readable {wr : Bool} (h : windowAt w.dev p (lineOf a) = some (v, va, true, wr)) (f : ReadFault) :
    doCxlRead p ⟨a, f⟩ w = cxlLine p (lineOf a) v va f w := by
  simp only [doCxlRead, cxl, h, Bool.not_true, Bool.false_eq_true, if_false]

theorem doCxlRead_of_unreadable {wr : Bool} (h : windowAt w.dev p (lineOf a) = some (v, va, false, wr)) (f : ReadFault) :
    doCxlRead p ⟨a, f⟩ w = w.on fun d => (countWindow d).emit (.cxlRead p (lineOf a) [] true) := by
  simp only [doCxlRead, cxl, h, Bool.not_true, Bool.not_false, Bool.false_eq_true, if_false, if_true]
  rfl

theorem doCxlWrite_of_writable {r : Bool} (h : windowAt w.dev p (lineOf a) = some (v, va, r, true)) {line : List Byte} (hl : line.length = 64) :
    doCxlWrite p a line w = cxlStore p (lineOf a) v va line w := by
  simp only [doCxlWrite, cxl, h, Bool.not_true, Bool.false_eq_true, if_false, sliceB_of_length hl]

theorem doCxlWrite_of_unwritable {r : Bool} (h : windowAt w.dev p (lineOf a) = some (v, va, r, false)) (line : List Byte) :
    doCxlWrite p a line w = w.on fun d => (countWindow d).emit (.cxlWriteDone p (lineOf a)) := by
  simp only [doCxlWrite, cxl, h, Bool.not_true, Bool.not_false, Bool.false_eq_true, if_false, if_true]
  rfl

end

/-! ## The host window (R525) -/

theorem exec_hostWindowRead (v : VDev) (off : BarAt) (n : HostAt) (s : State) :
    exec (.hostWindowRead v off n) s = .next (after s (doWindowRead v.val off n (work s))) := rfl

theorem exec_hostWindowWrite (v : VDev) (off : BarAt) (bs : List Byte) (s : State) :
    exec (.hostWindowWrite v off bs) s = .next (after s (doWindowWrite v.val off bs (work s))) := rfl

section
variable {v off va : Nat} {ide : Option Nat} {w : Wk}

theorem doWindowRead_of_taken (h : w.dev.barTakes v ide = true) (hva : (w.dev.fn v).hwbase.toNat + off = va) {n : Nat}
    (within : off + n ≤ windowBytes) (f : ReadFault) :
    doWindowRead v ⟨off, ide⟩ ⟨n, f⟩ w = readWindow v va off n f w := by
  subst hva
  simp [doWindowRead, h, Nat.not_lt.mpr within]

theorem doWindowWrite_of_taken (h : w.dev.barTakes v ide = true) (hva : (w.dev.fn v).hwbase.toNat + off = va) {bs : List Byte}
    (within : off + bs.length ≤ windowBytes) :
    doWindowWrite v ⟨off, ide⟩ bs w = writeWindow v va bs w := by
  subst hva
  simp [doWindowWrite, h, Nat.not_lt.mpr within]

end

theorem doWindowRead_of_not_taken {v : Nat} {off : BarAt} {w : Wk} (h : w.dev.barTakes v off.ide = false) (n : HostAt) :
    doWindowRead v off n w = w := by
  simp [doWindowRead, h]

theorem doWindowWrite_of_not_taken {v : Nat} {off : BarAt} {w : Wk} (h : w.dev.barTakes v off.ide = false) (bs : List Byte) :
    doWindowWrite v off bs w = w := by
  simp [doWindowWrite, h]

/-! ## The statement -/

/-- A command whose work changes the device alone gives the device that the change leaves. -/
theorem gives_of_on {i : Instr} {s : State} {w : Wk} {d : Dev} (hi : exec i s = .next (after s w)) (hw : w = (work s).on fun _ => d)
    {P : Dev → Prop} (hP : P d) : Gives i s P :=
  ⟨d, by rw [hi, hw]; rfl, hP⟩

/-- What a finished request leaves stands, but for registers and rings of functions, notices, the journal and what leaves. -/
theorem gives_of_finish {i : Instr} {s : State} {r : AdReq} {a : Ans} {d : Dev}
    (hi : exec i s = .next (after s (finish r a ((work s).on fun _ => d)))) {P : Dev → Prop}
    (hP : ∀ fns ns l fw out, P { d with fns := fns, notices := ns, evcs := l, fw := fw, out := out }) : Gives i s P := by
  obtain ⟨fns, ns, l, fw, out, hfin⟩ := finish_spec r a ((work s).on fun _ => d)
  exact ⟨_, by rw [hi, hfin]; rfl, hP fns ns l fw out⟩

/-- Settles O49: requests bind and unbind a decoder, and a host access goes the way its window, its permissions and the homes of its lines
leave it. -/
theorem hostWindows : Obligations.HostWindows := by
  unfold Obligations.HostWindows
  refine ⟨?expose, ?withdraw, ?commit, ?decommit, ?commitRefused, ?badSize, ?decommitFree, ?window, ?noWindow, ?notCxl, ?miss, ?read, ?write,
    ?notTaken⟩
  case expose =>
    intro s i bs acc a h port number some_ perm aligned within own committed free unlocked stopped thawed level
    exact gives_of_performed (exec_exposeHdm s) acc (doExposeHdm_performed rfl rfl port number some_ perm aligned within own committed free
      unlocked stopped thawed level) fun fns ns l fw out =>
      decoder_of_mc (d := s.dev) (f := fun h => { h with bound := some (bindingOf a) }) rfl
  case withdraw =>
    intro s i bs acc a port number bound
    obtain ⟨ans, hans, hbody⟩ := doWithdrawHdm_of_bound (r := headReq mgr i bs) (w := work s) rfl rfl port number bound
    refine gives_of_finish (r := headReq mgr i bs) (a := ans) (d := s.dev.onDecoder (fieldLe a 0 1) (fieldLe a 1 1) fun h => { h with bound := none })
      ?_ fun fns ns l fw out => decoder_of_mc (d := s.dev) (f := fun h => { h with bound := none }) rfl
    rw [exec_withdrawHdm, takeRequest_accepted (w := work s) acc, hbody]
    rcases hans with rfl | rfl
    · rfl
    · rfl
  case commit =>
    intro s p i base size cxl free pos unit_
    refine ⟨_, exec_hdmDecoderCommit .., ?_⟩
    rw [decoderCommitted_of_free base cxl free pos unit_]
    exact ⟨decoder_onDecoder_same .., rfl⟩
  case decommit =>
    intro s p i committed
    refine ⟨⟨_, exec_hdmDecoderDecommit .., ?_⟩, fun n pos unit_ => ⟨_, exec_hdmDecoderDecommit .., ?_⟩⟩
    · rw [decoderDecommitted_none committed]
      exact decoder_onDecoder_same ..
    · rw [decoderDecommitted_some committed pos unit_]
      exact decoder_onDecoder_same ..
  case commitRefused =>
    intro s p i refused base size
    rw [exec_hdmDecoderCommit, decoderCommitted_of_refused base refused]
  case badSize =>
    intro s p i base size bad
    rw [exec_hdmDecoderCommit, exec_hdmDecoderDecommit, decoderCommitted_of_bad_size base bad, decoderDecommitted_of_bad_size bad]
    exact ⟨rfl, rfl⟩
  case decommitFree =>
    intro s p i n free
    rw [exec_hdmDecoderDecommit, decoderDecommitted_of_free n free]
  case window =>
    intro s p a v va f r wr cxl hwin reached blocked
    refine ⟨?_, ?_, ?_, ?_, ?_, ?_⟩
    · rintro rfl clear
      refine ⟨fun bs hr => ?_, fun e hr => ?_⟩
      · rw [exec_cxlMemRead, doCxlRead_of_readable (w := work s) cxl hwin, cxlLine, hostReadVa_of_bytes clear hr]
        rfl
      · rw [exec_cxlMemRead, doCxlRead_of_readable (w := work s) cxl hwin, cxlLine, hostReadVa_of_miss clear hr]
        rfl
    · rintro rfl e he
      refine gives_of_on (exec_cxlMemRead ..) ?_ rfl
      rw [doCxlRead_of_readable (w := work s) cxl hwin, cxlLine, hostReadVa_of_error he]
      split <;> rfl
    · rintro rfl
      exact gives_of_on (exec_cxlMemRead ..) (doCxlRead_of_unreadable (w := work s) cxl hwin f) rfl
    · rintro line hl rfl clear
      rw [exec_cxlMemWrite, doCxlWrite_of_writable (w := work s) cxl hwin hl, cxlStore, hostWriteVa_of_clear (by rw [hl]; exact clear), hl]
    · rintro line e hl rfl he
      refine gives_of_on (exec_cxlMemWrite ..) ?_ rfl
      rw [doCxlWrite_of_writable (w := work s) cxl hwin hl, cxlStore, hostWriteVa_of_blocked (by rw [hl]; exact he)]
      split <;> rfl
    · rintro line rfl
      exact gives_of_on (exec_cxlMemWrite ..) (doCxlWrite_of_unwritable (w := work s) cxl hwin line) rfl
  case noWindow =>
    intro s p a f line cxl none_
    exact ⟨gives_of_on (exec_cxlMemRead ..) (doCxlRead_of_no_window (w := work s) cxl none_ f) rfl,
      gives_of_on (exec_cxlMemWrite ..) (doCxlWrite_of_no_window (w := work s) cxl none_ line) rfl⟩
  case notCxl =>
    intro s p a n line h
    rw [exec_cxlMemRead, exec_cxlMemWrite, doCxlRead_of_not_cxl (w := work s) h, doCxlWrite_of_not_cxl (w := work s) h]
    exact ⟨rfl, rfl⟩
  case miss =>
    rintro v n d y (rfl | rfl)
    · exact ⟨rfl, rfl⟩
    · exact ⟨rfl, rfl⟩
  case read =>
    intro s v off n ide f taken within va e reached i
    refine ⟨fun clear => ⟨fun bs hr => ?_, fun x hr => ?_⟩, fun x hx => ?_⟩
    · rw [exec_hostWindowRead, doWindowRead_of_taken (w := work s) (va := va) taken rfl within, readWindow, hostReadVa_of_bytes clear hr]
      rfl
    · rw [exec_hostWindowRead, doWindowRead_of_taken (w := work s) (va := va) taken rfl within, readWindow, hostReadVa_of_miss clear hr]
      rfl
    · refine gives_of_on (exec_hostWindowRead ..) ?_ rfl
      rw [doWindowRead_of_taken (w := work s) (va := va) taken rfl within, readWindow, hostReadVa_of_error hx]
      split <;> rfl
  case write =>
    intro s v off ide bs taken within va e blocked
    refine ⟨fun clear => ?_, fun x hx => ?_⟩
    · rw [exec_hostWindowWrite, doWindowWrite_of_taken (w := work s) (va := va) taken rfl within, writeWindow,
        hostWriteVa_of_clear (w := work s) (va := va) clear]
      rfl
    · refine gives_of_on (exec_hostWindowWrite ..) ?_ rfl
      rw [doWindowWrite_of_taken (w := work s) (va := va) taken rfl within, writeWindow, hostWriteVa_of_blocked (w := work s) (va := va) hx]
      split <;> rfl
  case notTaken =>
    intro s v off n bs h
    rw [exec_hostWindowRead, exec_hostWindowWrite, doWindowRead_of_not_taken (w := work s) h, doWindowWrite_of_not_taken (w := work s) h]
    exact ⟨rfl, rfl⟩

end Sys2Proof.Machine
end

section
/-! Requests of cores at their home MC die (R208 … R213, R219, R220), and the responses that come back (R166, R210). -/

namespace Sys2Proof.Machine

open Sys2Proof

/-! ## A request that has arrived -/

/-- A request to read. -/
def MKind.isRead : MKind → Bool
  | .read _ => true
  | _ => false

/-- A request to write. -/
def MKind.isWrite : MKind → Bool
  | .write _ => true
  | _ => false

/-- A request for an atomic. -/
def MKind.isAtomic : MKind → Bool
  | .atomic _ => true
  | _ => false

theorem exec_readReq (id : Nat) (f : ReadFault) (s : State) :
    exec (.readReq id f) s = .next (after s (atHome id MKind.isRead f (readAtHome f) (work s))) := rfl

theorem exec_write (id : Nat) (f : ReadFault) (s : State) :
    exec (.write ⟨id, f⟩) s = .next (after s (atHome id MKind.isWrite f (writeAtHome f) (work s))) := rfl

theorem exec_atomic (id : Nat) (f : ReadFault) (s : State) :
    exec (.atomic ⟨id, f⟩) s = .next (after s (atHome id MKind.isAtomic f (atomicAtHome f) (work s))) := rfl

/-- The die of a request's first line, which is where the request arrives. -/
def MReq.die (r : MReq) : Nat := (r.spots.head?.map fun p => p.chan / 32).getD 0

section
variable {id : Nat} {p : MKind → Bool} {f : ReadFault} {go : MReq → List (Spot × Nat × Nat × Nat) → Wk → Wk} {w : Wk} {r : MReq}

theorem atHome_of_not_arrived (h : arrived w.dev id p = none) : atHome id p f go w = w := by
  simp only [atHome, h]

variable (h : arrived w.dev id p = some r)
include h

theorem atHome_of_refused {ch : Nat} {y : Why} (hc : checkSpots w.dev r.vdev r.spots = .error (ch, y)) :
    atHome id p f go w = failReq r ch y w := by
  simp only [atHome, h, hc]

theorem atHome_of_checked {l : List (Spot × Nat × Nat × Nat)} (hc : checkSpots w.dev r.vdev r.spots = .ok l) :
    atHome id p f go w = if ((if f = .xts then xtsEvent r.die w else w).dev.die r.die).lost then if f = .xts then xtsEvent r.die w else w
      else go r l (if f = .xts then xtsEvent r.die w else w) := by
  simp only [atHome, h, hc]
  rfl

/-- Where the XTS copies of the die agree and it is not lost, the request is performed on its lines. -/
theorem atHome_of_served {l : List (Spot × Nat × Nat × Nat)} (hc : checkSpots w.dev r.vdev r.spots = .ok l) (hf : f ≠ .xts)
    (lost : (w.dev.die r.die).lost = false) : atHome id p f go w = go r l w := by
  simp only [atHome_of_checked h hc, if_neg hf, lost, Bool.false_eq_true, if_false]

end

/-! ## What a read of a line meets (R211, R219) -/

section
variable (v key s j a : Nat) (d : Dev)

theorem meetLine_cacheParity : meetLine v key s j a .cacheParity d =
    (true, readLine v key a (cacheDrop (chanOf a / 32) (fun l => l == lineOf a) d)) := rfl

variable {v key a d}

theorem meetLine_of_hit (hit : d.cacheHit v key a = true) {f : ReadFault} (hf : f ≠ .cacheParity) :
    meetLine v key s j a f d = (true, readLine v key a d) := by
  simp [meetLine, hit, hf]

variable (v key a d) in
theorem meetLine_good : meetLine v key s j a .good d = (true, readLine v key a d) := by
  cases hit : d.cacheHit v key a
  case true => exact meetLine_of_hit s j hit (by decide)
  case false => simp [meetLine, hit]

section
variable (miss : d.cacheHit v key a = false)
include miss

theorem meetLine_corrected : meetLine v key s j a .corrected d = (true, correctedRead a (readLine v key a d)) := by
  simp [meetLine, miss]

theorem meetLine_badOnce : meetLine v key s j a .badOnce d =
    (true, countCh (chanOf a) 0 (countCh (chanOf a) 4 (readLine v key a d))) := by
  simp [meetLine, miss]

variable {s j} {round : Dev} (hround : failedRound a (countCh (chanOf a) 0 (readLine v key a d)) = round)
include hround

theorem meetLine_badTwice_of_mirror {x : Nat} (hx : mirrorOf round v s j a = some x) (good : poisoned round x = false) :
    meetLine v key s j a .badTwice d = (true, countCh (chanOf a) 1 (countCh (chanOf x) 0 round)) := by
  subst hround
  simp [meetLine, miss, hx, good]

theorem meetLine_badTwice_of_no_mirror (h : ∀ x, mirrorOf round v s j a = some x → poisoned round x = true) :
    meetLine v key s j a .badTwice d = (false, poisonLine a round) := by
  subst hround
  cases hx : mirrorOf (failedRound a (countCh (chanOf a) 0 (readLine v key a d))) v s j a
  case none => simp [meetLine, miss, hx]
  case some x => simp [meetLine, miss, hx, h x hx]

end

end

/-! ## Reads, writes and atomics (R210) -/

section
variable {f : ReadFault} {r : MReq} {p : Spot} {a k j : Nat} {w : Wk}

theorem readAtHome_of_poisoned (h : poisoned w.dev a = true) : readAtHome f r [(p, a, k, j)] w = failReq r p.chan .poison w := by
  simp only [readAtHome, h, if_true]

theorem readAtHome_of_met (h : poisoned w.dev a = false) {d : Dev} (hm : meetLine r.vdev p.keySlot k j a f w.dev = (true, d)) :
    readAtHome f r [(p, a, k, j)] w = w.on fun _ =>
      respond r (w.bytes (w.dev.keySlot p.keySlot).key a r.bytes) (tally r r.bytes 0 d) := by
  simp only [readAtHome, h, hm, Bool.false_eq_true, if_false, if_true]
  rfl

theorem readAtHome_of_failed (h : poisoned w.dev a = false) {d : Dev} (hm : meetLine r.vdev p.keySlot k j a f w.dev = (false, d)) :
    readAtHome f r [(p, a, k, j)] w = failReq r p.chan .poison (w.on fun _ => d) := by
  simp only [readAtHome, h, hm, Bool.false_eq_true, if_false]
  rfl

theorem writeAtHome_of_write {bs : List Byte} (hk : r.kind = .write bs) (l : List (Spot × Nat × Nat × Nat)) : writeAtHome f r l w =
    (storeLines r (reqJournal w.dev r) ((parts r.va bs.length).zip l) bs w).on fun d =>
      respond r [] (tally r 0 bs.length (if f = .queueParity then l.foldl (fun d x => countCh x.1.chan 1 d) d else d)) := by
  have hb : r.bytes = bs.length := by simp only [MReq.bytes, hk]
  simp only [writeAtHome, hk, hb]

/-- A line read leaves the key slots as they are. -/
theorem readLine_keySlot (v key a : Nat) (d : Dev) : (readLine v key a d).keySlot = d.keySlot := by
  funext n
  unfold readLine cachePut
  dsimp only
  split <;> rfl

/-- An atomic on one good line reads it, and stores what the operation leaves, in one step. -/
theorem atomicAtHome_of_line {op : AtOp} (hk : r.kind = .atomic op) (h : poisoned w.dev a = false)
    (one : parts r.va r.bytes = [(r.va, r.bytes)]) {w' : Wk} (hw : w.on (readLine r.vdev p.keySlot a) = w') :
    atomicAtHome .good r [(p, a, k, j)] w =
      (storeLines r (reqJournal w'.dev r) [((r.va, r.bytes), p, a, k, j)] (atomicBytes op (w.bytes (w.dev.keySlot p.keySlot).key a r.bytes)) w').on
        fun d => respond r [] (tally r r.bytes r.bytes d) := by
  subst hw
  have old : ({ w with dev := readLine r.vdev p.keySlot a w.dev } : Wk).bytes ((readLine r.vdev p.keySlot a w.dev).keySlot p.keySlot).key a
      r.bytes = w.bytes (w.dev.keySlot p.keySlot).key a r.bytes := by
    rw [readLine_keySlot]
    rfl
  simp [atomicAtHome, hk, h, meetLine_good, one, Wk.on, old]

end

/-! ## Responses (R166, R210) -/

theorem takeFirst_eq_none {α : Type} {p : α → Bool} {l : List α} (h : ∀ x ∈ l, p x = false) : takeFirst p l = none := by
  induction l with
  | nil => rfl
  | cons x l ih => simp [takeFirst, h x (by simp), ih fun y hy => h y (by simp [hy])]

section
variable {id : Nat} {p : MKind → Bool} {d : Dev}

theorem takeResp_of_takeFirst {x : MResp} {rest : List MResp}
    (h : takeFirst (fun x : MResp => x.req.id == id && p x.req.kind) d.mc.resps = some (x, rest)) :
    takeResp id p d = some (x, d.onMc fun m => { m with resps := rest }) := by
  simp only [takeResp, h]

theorem takeResp_of_none (h : (d.mc.resps.any fun x => x.req.id == id) = false) : takeResp id p d = none := by
  have none_ : takeFirst (fun x : MResp => x.req.id == id && p x.req.kind) d.mc.resps = none := by
    refine takeFirst_eq_none fun x hx => ?_
    rw [List.any_eq_false.mp h x hx |> Bool.eq_false_iff.mpr, Bool.false_and]
  simp only [takeResp, none_]

end

/-- What the acknowledgement of a request of a kind makes of the device. -/
def ackHeard (id : Nat) (p : MKind → Bool) (d : Dev) : Dev :=
  match takeResp id p d with
  | some (x, d) => hearResp x d
  | none => d

theorem exec_readData (id : Nat) (s : State) : exec (.readData id) s = .next { s with dev := doReadData id s.dev } := rfl

theorem exec_writeAck (id : Nat) (s : State) : exec (.writeAck id) s = .next { s with dev := ackHeard id MKind.isWrite s.dev } := rfl

theorem exec_atomicAck (id : Nat) (s : State) : exec (.atomicAck id) s = .next { s with dev := ackHeard id MKind.isAtomic s.dev } := rfl

theorem doReadData_eq (id : Nat) (d : Dev) : doReadData id d = (match takeResp id MKind.isRead d with
  | none => d
  | some (x, d) =>
    match x.req.dest, Tab.get? d.kern x.req.cmd with
    | .load g l rd _, some r => hearResp x (d.setRun x.req.cmd (r.onG g (KGroup.setRegs l rd (wordsOf x.data))))
    | _, _ => d) := rfl

section
variable {id : Nat} {d : Dev} {x : MResp} {d' : Dev}

theorem doReadData_of_load (h : takeResp id MKind.isRead d = some (x, d')) {g l rd n : Nat} (hx : x.req.dest = .load g l rd n) {r : KRun}
    (hr : Tab.get? d'.kern x.req.cmd = some r) :
    doReadData id d = hearResp x (d'.setRun x.req.cmd (r.onG g (KGroup.setRegs l rd (wordsOf x.data)))) := by
  rw [doReadData_eq, h]
  simp only [hx, hr]

theorem doReadData_of_none (h : takeResp id MKind.isRead d = none) : doReadData id d = d := by
  rw [doReadData_eq, h]

theorem ackHeard_of_some {p : MKind → Bool} (h : takeResp id p d = some (x, d')) : ackHeard id p d = hearResp x d' := by
  simp only [ackHeard, h]

theorem ackHeard_of_none {p : MKind → Bool} (h : takeResp id p d = none) : ackHeard id p d = d := by
  simp only [ackHeard, h]

end

theorem MReq.die_of_spot {r : MReq} {p : Spot} (h : r.spots = [p]) : r.die = p.chan / 32 := by
  rw [MReq.die, h]
  rfl

/-! ## The statement -/

section
variable {s : State} {id : Nat} {r : MReq} {p : Spot} {a k j : Nat} {f : ReadFault}
  (h : arrived s.dev id MKind.isRead = some r) (hp : r.spots = [p]) (hc : checkSpots s.dev r.vdev r.spots = .ok [(p, a, k, j)])
  (lost : (s.dev.die (p.chan / 32)).lost = false) (hf : f ≠ .xts)
include h hp hc lost hf

theorem exec_readReq_of_served : exec (.readReq id f) s = .next (after s (readAtHome f r [(p, a, k, j)] (work s))) := by
  rw [exec_readReq, atHome_of_served (w := work s) h hc hf (by rw [MReq.die_of_spot hp]; exact lost)]

/-- A read whose line is there answers its bytes. -/
theorem readReq_answers (good : poisoned s.dev a = false) {d : Dev} (hm : meetLine r.vdev p.keySlot k j a f s.dev = (true, d)) :
    Gives (.readReq id f) s fun t => t = respond r ((work s).bytes (s.dev.keySlot p.keySlot).key a r.bytes) (tally r r.bytes 0 d) :=
  gives_of_on (exec_readReq_of_served h hp hc lost hf) (readAtHome_of_met (w := work s) good hm) rfl

/-- A read whose line is bad and stands nowhere else fails, and the line is poisoned. -/
theorem readReq_fails (good : poisoned s.dev a = false) {d : Dev} (hm : meetLine r.vdev p.keySlot k j a f s.dev = (false, d)) :
    exec (.readReq id f) s = .next (after s (failReq r p.chan .poison ((work s).on fun _ => d))) := by
  rw [exec_readReq_of_served h hp hc lost hf, readAtHome_of_failed (w := work s) good hm]

end

/-- Settles O45: what a request that has arrived comes to follows from the checks of its home, and then from what its line meets. -/
theorem homeRequests : Obligations.HomeRequests := by
  unfold Obligations.HomeRequests
  refine ⟨?absent, ?refused, ?checked, ?read, ?poisonedRead, ?write, ?atomic, ?load, ?acks, ?noResponse⟩
  case absent =>
    intro s id f
    refine ⟨fun h => ?_, fun h => ?_, fun h => ?_⟩
    · rw [exec_readReq, atHome_of_not_arrived (w := work s) (p := MKind.isRead) h]; rfl
    · rw [exec_write, atHome_of_not_arrived (w := work s) (p := MKind.isWrite) h]; rfl
    · rw [exec_atomic, atHome_of_not_arrived (w := work s) (p := MKind.isAtomic) h]; rfl
  case refused =>
    intro s id f r ch y hc
    refine ⟨fun h => ?_, fun h => ?_, fun h => ?_⟩
    · rw [exec_readReq, atHome_of_refused (w := work s) (p := MKind.isRead) h hc]
    · rw [exec_write, atHome_of_refused (w := work s) (p := MKind.isWrite) h hc]
    · rw [exec_atomic, atHome_of_refused (w := work s) (p := MKind.isAtomic) h hc]
  case checked =>
    intro s id f r l hc k w
    refine ⟨fun h => ?_, fun h => ?_, fun h => ?_⟩
    · rw [exec_readReq, atHome_of_checked (w := work s) (p := MKind.isRead) h hc]; rfl
    · rw [exec_write, atHome_of_checked (w := work s) (p := MKind.isWrite) h hc]; rfl
    · rw [exec_atomic, atHome_of_checked (w := work s) (p := MKind.isAtomic) h hc]; rfl
  case read =>
    intro s id r p a k j h hp hc lost good bs line answers
    refine ⟨readReq_answers h hp hc lost (by decide) good (meetLine_good ..), fun hit f hf => ?_,
      readReq_answers h hp hc lost (by decide) good (meetLine_cacheParity ..), fun miss => ⟨?_, ?_, fun x hx px => ?_, fun x hx px => ?_,
      fun hx => ?_⟩⟩
    · have fault : f ≠ .xts ∧ f ≠ .cacheParity := by
        simp only [List.mem_cons, List.not_mem_nil, or_false] at hf
        rcases hf with rfl | rfl | rfl <;> decide
      exact readReq_answers h hp hc lost fault.1 good (meetLine_of_hit k j hit fault.2)
    · exact readReq_answers h hp hc lost (by decide) good (meetLine_corrected k j miss)
    · exact readReq_answers h hp hc lost (by decide) good (meetLine_badOnce k j miss)
    · exact readReq_answers h hp hc lost (by decide) good (meetLine_badTwice_of_mirror miss rfl hx px)
    · refine readReq_fails h hp hc lost (by decide) good (meetLine_badTwice_of_no_mirror miss rfl fun y hy => ?_)
      rwa [Option.some.inj (hy.symm.trans hx)]
    · refine readReq_fails h hp hc lost (by decide) good (meetLine_badTwice_of_no_mirror miss rfl fun y hy => ?_)
      exact absurd (hx.symm.trans hy) (by simp)
  case poisonedRead =>
    intro s id f r p a k j h hf hp hc lost bad
    rw [exec_readReq_of_served h hp hc lost hf, readAtHome_of_poisoned (w := work s) bad]
  case write =>
    intro s id f r bs l h hk hf hc lost
    rw [exec_write, atHome_of_served (w := work s) (p := MKind.isWrite) h hc hf lost, writeAtHome_of_write hk]
    rfl
  case atomic =>
    intro s id r op p a k j h hk hp hc lost good one w old
    rw [exec_atomic, atHome_of_served (w := work s) (p := MKind.isAtomic) h hc (by decide) (by rw [MReq.die_of_spot hp]; exact lost),
      atomicAtHome_of_line (w := work s) (w' := w) hk good one rfl]
    rfl
  case load =>
    intro s id g l rd n x rest r h hx hr
    exact ⟨_, exec_readData .., doReadData_of_load (takeResp_of_takeFirst (p := MKind.isRead) h) hx hr⟩
  case acks =>
    intro s id x rest
    exact ⟨fun h => ⟨_, exec_writeAck .., ackHeard_of_some (takeResp_of_takeFirst (p := MKind.isWrite) h)⟩,
      fun h => ⟨_, exec_atomicAck .., ackHeard_of_some (takeResp_of_takeFirst (p := MKind.isAtomic) h)⟩⟩
  case noResponse =>
    intro s id h
    rw [exec_readData, exec_writeAck, exec_atomicAck, doReadData_of_none (takeResp_of_none h), ackHeard_of_none (takeResp_of_none h),
      ackHeard_of_none (takeResp_of_none h)]
    exact ⟨rfl, rfl, rfl⟩

end Sys2Proof.Machine
end

section
/-! Telling (R347, R393, R409, R493, R504): events, notices and notices of the object dictionary change the rings, the journal and what
leaves, and nothing of the units, the virtual devices or memory. -/

namespace Sys2Proof.Machine

open Sys2Proof

/-- The device is `d` up to what telling changes: registers and rings of functions, notices, event controllers, the journal, notices of the
object dictionary and what leaves. The requests that firmware has taken stand. -/
structure ToldFrom (d e : Dev) : Prop where
  rest : { e with
    fns := d.fns
    notices := d.notices
    evcs := d.evcs
    fw := d.fw
    od := d.od
    out := d.out } = d
  taken : ∀ fn, (e.fn fn).taken = (d.fn fn).taken

namespace ToldFrom

variable {d e f : Dev}

theorem refl (d : Dev) : ToldFrom d d := ⟨rfl, fun _ => rfl⟩

theorem trans (hde : ToldFrom d e) (hef : ToldFrom e f) : ToldFrom d f where
  rest := by
    have untell := congrArg (fun x : Dev => { x with
      fns := d.fns
      notices := d.notices
      evcs := d.evcs
      fw := d.fw
      od := d.od
      out := d.out }) hef.rest
    exact untell.trans hde.rest
  taken fn := (hef.taken fn).trans (hde.taken fn)

/-- What leaves the registers of functions alone leaves the requests alone. -/
theorem of_fns (hf : e.fns = d.fns) (rest : { e with
    notices := d.notices
    evcs := d.evcs
    fw := d.fw
    od := d.od
    out := d.out } = d) : ToldFrom d e where
  rest := by rw [← hf]; exact rest
  taken fn := by rw [Dev.fn, Dev.fn, hf]

theorem vds (h : ToldFrom d e) : e.vds = d.vds := by rw [← h.rest]
theorem mc (h : ToldFrom d e) : e.mc = d.mc := by rw [← h.rest]
theorem sched (h : ToldFrom d e) : e.sched = d.sched := by rw [← h.rest]
theorem vd (h : ToldFrom d e) (v : Nat) : e.vd v = d.vd v := by rw [Dev.vd, Dev.vd, h.vds]
theorem core (h : ToldFrom d e) (n : Nat) : e.core n = d.core n := by rw [Dev.core, Dev.core, h.sched]
theorem unit (h : ToldFrom d e) (k : UnitKind) (n : Nat) : e.unit k n = d.unit k n := by rw [Dev.unit, Dev.unit, h.sched]

theorem foldl {α : Type} {f : Dev → α → Dev} (step : ∀ d a, ToldFrom d (f d a)) (l : List α) (d : Dev) : ToldFrom d (l.foldl f d) :=
  List.foldlRecOn l f (refl d) fun e he a _ => he.trans (step e a)

end ToldFrom

theorem taken_setFn {d : Dev} {fn : Nat} {x : Fn} (h : x.taken = (d.fn fn).taken) (k : Nat) :
    ((d.setFn fn x).fn k).taken = (d.fn k).taken := by
  by_cases hk : k = fn
  · subst hk
    rw [Dev.fn, Dev.setFn, Tab.getD_put_same, h]
  · rw [Dev.fn, Dev.setFn, Tab.getD_put_ne _ _ _ hk, Dev.fn]

theorem raiseSrc_told (c i : Nat) (d : Dev) : ToldFrom d (raiseSrc c i d) := .of_fns rfl rfl

theorem raiseNotice_told (kind v : Nat) (detail : List (BitVec 32)) (d : Dev) : ToldFrom d (raiseNotice kind v detail d) := .of_fns rfl rfl

theorem raiseOd_told (kind obj : Nat) (detail : List Byte) (d : Dev) : ToldFrom d (raiseOd kind obj detail d) := by
  obtain ⟨o, ho⟩ := raiseOd_spec kind obj detail d
  exact .of_fns (by rw [ho]) (by rw [ho])

theorem journal_told (kind : Nat) (ws : List Nat) (d : Dev) : ToldFrom d (journal kind ws d) := by
  obtain ⟨l, w, h⟩ := journal_spec kind ws d
  exact .of_fns (by rw [h]) (by rw [h])

theorem writeEntry_told (fn : Nat) (e : HeldEvent) (d : Dev) : ToldFrom d (writeEntry fn e d) :=
  (journal_told 7 [fn, e.kind] d).trans ⟨rfl, taken_setFn rfl⟩

theorem signalVec_told (fn i : Nat) (d : Dev) : ToldFrom d (signalVec fn i d) := by
  obtain ⟨vs, out, h, -⟩ := signalVec_spec fn i d
  exact ⟨by rw [h], fun k => by rw [h]; exact taken_setFn (d := d) (x := { d.fn fn with vecs := vs }) rfl k⟩

theorem postEvent_told (fn kind obj : Nat) (body : List Byte) (d : Dev) : ToldFrom d (postEvent fn kind obj body d) := by
  unfold postEvent
  extract_lets f e
  split
  · exact ⟨rfl, taken_setFn rfl⟩
  · exact (writeEntry_told fn e d).trans (signalVec_told ..)

theorem portsMoved_told (v : Nat) (units : List (UnitKind × Nat)) (d : Dev) : ToldFrom d (portsMoved v units d) :=
  .foldl (fun _ _ => raiseOd_told ..) _ d

theorem compositionChanged_told (v cause : Nat) (units : List (UnitKind × Nat)) (d : Dev) : ToldFrom d (compositionChanged v cause units d) :=
  ((ToldFrom.foldl (fun _ _ => postEvent_told ..) _ d).trans (portsMoved_told ..)).trans (raiseNotice_told ..)

theorem announce_told (old d : Dev) : ToldFrom d (announce old d) := by
  have served (v : Nat) (e : Dev) : ToldFrom e (postService v e) := postEvent_told ..
  have manager (c : Bool) : ToldFrom d (if c then postService mgr d else d) := by
    split
    · exact served ..
    · exact .refl d
  refine (manager _).trans (.foldl (fun e v => ?_) _ _)
  split
  · exact served ..
  · exact .refl e

/-- A change that changes nothing is not told of. -/
theorem announce_self (d : Dev) : announce d d = d := by
  have manager : (if d.boot.early && (decide (d.admitted.1 < d.admitted.1) || decide (d.admitted.2.1 < d.admitted.2.1) ||
      decide (d.admitted.2.2.length < d.admitted.2.2.length)) then postService mgr d else d) = d := by simp
  unfold announce
  dsimp only
  rw [manager]
  refine List.foldlRecOn d.vds _ (motive := fun e => e = d) rfl ?_
  rintro _ rfl v -
  simp

/-- A unit's cause recorded changes its record and a count, and is told. -/
theorem setCause_told (k : UnitKind) (n cause : Nat) (d : Dev) :
    ∃ evs, ToldFrom { d.onUnit k n fun u => { u with cause := cause } with events := evs } (setCause k n cause d) := by
  have disputed (e : Dev) : ToldFrom e (if e.disputed k n then raiseOd 5 (unitWord k n) (natLe 4 cause)
      (raiseNotice noticeDispute ((e.boundTo k n).getD 0) [BitVec.ofNat 32 (unitWord k n), BitVec.ofNat 32 cause] e) else e) := by
    split
    · exact (raiseNotice_told ..).trans (raiseOd_told ..)
    · exact .refl e
  cases k with
  | core => exact ⟨_, disputed _⟩
  | chan => exact ⟨_, disputed _⟩
  | port => exact ⟨_, disputed _⟩

theorem unit_onUnit_same (k : UnitKind) (n : Nat) (f : UnitRec → UnitRec) (d : Dev) : (d.onUnit k n f).unit k n = f (d.unit k n) :=
  Tab.getD_put_same ..

theorem setCause_sched (k : UnitKind) (n cause : Nat) (d : Dev) :
    (setCause k n cause d).sched = (d.onUnit k n fun u => { u with cause := cause }).sched := by
  obtain ⟨_, h⟩ := setCause_told k n cause d
  rw [h.sched]

theorem setCause_cause (k : UnitKind) (n cause : Nat) (d : Dev) : ((setCause k n cause d).unit k n).cause = cause := by
  rw [Dev.unit, setCause_sched]
  exact congrArg UnitRec.cause (unit_onUnit_same k n (fun u => { u with cause := cause }) d)

end Sys2Proof.Machine
end

section
/-! Compositions that change (R325, R328, R338): a change accepted gives its virtual device the next epoch and its core lists anew. -/

namespace Sys2Proof.Machine

open Sys2Proof

/-- A table whose entries change by their keys answers the changed entry. -/
theorem Tab.get?_map {α β : Type} (f : Nat → α → β) (t : Tab α) (i : Nat) :
    Tab.get? (t.map fun p => (p.1, f p.1 p.2)) i = (Tab.get? t i).map (f i) := by
  induction t with
  | nil => rfl
  | cons p t ih =>
    rw [List.map_cons, Tab.get?, Tab.get?]
    split
    · next h => rw [h]; rfl
    · exact ih

/-- The virtual device under its next epoch, with its core lists rebuilt. -/
def nextMap (v : Nat) (d : Dev) : Dev := rebuildLists v (d.onVd v fun x =>
  { x with
    epoch := nextEpoch x.epoch
    ctr := Tab.put x.ctr 5 (Tab.getD x.ctr 5 0 + 1) })

section
variable (v : Nat) (d : Dev)

theorem rebuildLists_vd_same : (rebuildLists v d).vd v =
    { d.vd v with parts := (d.vd v).parts.map fun p => (p.1, { p.2 with cores := coreOrder d p.2 p.2.cores }) } := Dev.vd_onVd_same ..

theorem rebuildLists_part {i : Nat} {p : Part} (h : Tab.get? (d.vd v).parts i = some p) :
    Tab.get? ((rebuildLists v d).vd v).parts i = some { p with cores := coreOrder d p p.cores } := by
  rw [rebuildLists_vd_same]
  exact (Tab.get?_map (fun _ (p : Part) => { p with cores := coreOrder d p p.cores }) ..).trans (by rw [h])

theorem nextMap_vd_epoch : ((nextMap v d).vd v).epoch = nextEpoch (d.vd v).epoch := by
  rw [nextMap, rebuildLists_vd_same, Dev.vd_onVd_same]

/-- A partition in the next map is the partition it was, with its cores in a new order. -/
theorem nextMap_part {i : Nat} {p : Part} (h : Tab.get? (d.vd v).parts i = some p) :
    ∃ cores, Tab.get? ((nextMap v d).vd v).parts i = some { p with cores := cores } :=
  ⟨_, rebuildLists_part v _ (by rw [Dev.vd_onVd_same]; exact h)⟩

theorem nextMap_vd_chans : ((nextMap v d).vd v).chans = (d.vd v).chans := by
  rw [nextMap, rebuildLists_vd_same, Dev.vd_onVd_same]

/-- Shadows dropped on the cores of a list change scheduling state alone. -/
theorem foldl_dropShadow_spec (l : List (UnitKind × Nat)) : ∃ x, l.foldl (fun d u => dropShadow u.2 d) d = { d with sched := x } := by
  refine List.foldlRecOn l _ (motive := fun e : Dev => ∃ x, e = { d with sched := x }) ⟨d.sched, rfl⟩ ?_
  rintro _ ⟨x, rfl⟩ u -
  obtain ⟨y, hy⟩ := dropShadow_spec u.2 { d with sched := x }
  exact ⟨y, hy⟩

/-- A change accepted starts the next map, and changes besides it scheduling state and the journal. -/
theorem publishChange_spec (old : Vd) (leave : List (UnitKind × Nat)) (retiring : Bool) (copies : List (Nat × Nat)) : ∃ l w x,
    publishChange v old leave retiring copies d = { nextMap v d with
      evcs := l
      fw := w
      sched := x } := by
  obtain ⟨l, w, h⟩ := journal_spec 6 [v, (nextEpoch (d.vd v).epoch).toNat] (keepMaps v d)
  unfold publishChange
  rw [h]
  obtain ⟨x, hx⟩ := foldl_dropShadow_spec (rebuildLists v ({ keepMaps v d with evcs := l, fw := w }.onVd v fun x =>
    { x with
      epoch := nextEpoch x.epoch
      ctr := Tab.put x.ctr 5 (Tab.getD x.ctr 5 0 + 1) })) (leave.filter fun u => u.1 == .core)
  dsimp only
  rw [hx]
  exact ⟨l, w, _, rfl⟩

/-- A change by which no unit leaves starts the next map, and changes besides it the publications and the journal. -/
theorem publishChange_nil (old : Vd) (retiring : Bool) (copies : List (Nat × Nat)) : ∃ l w ps ls,
    publishChange v old [] retiring copies d = { nextMap v d with
      evcs := l
      fw := w
      sched := { d.sched with
        publish := ps
        leaving := ls } } := by
  obtain ⟨l, w, h⟩ := journal_spec 6 [v, (nextEpoch (d.vd v).epoch).toNat] (keepMaps v d)
  refine ⟨l, w, ?_⟩
  unfold publishChange
  rw [h]
  exact ⟨_, _, rfl⟩

end

end Sys2Proof.Machine
end

section
/-! Sets, partitions and self-tests (R207, R326, R327, R345, R156 … R159): what their requests make of a virtual device, and where a core
stands after its test. -/

namespace Sys2Proof.Machine

open Sys2Proof

/-- A request performed by an update of the device gives the updated device, but for registers and rings of functions, notices, the
journal and what leaves. -/
theorem gives_of_update {i : Instr} {s : State} {fn : Nat} {row : AdRow} {body : AdReq → Wk → Ans × Wk} {slot : Nat} {bs res : List Byte}
    {f : Dev → Dev} (hi : exec i s = .next (after s (takeRequest fn row body (work s)))) (h : Accepted s.dev fn row slot bs)
    (hb : body (headReq fn slot bs) (work s) = performed res ((work s).on f)) {P : Dev → Prop}
    (hP : ∀ fns ns l fw out, P { f s.dev with fns := fns, notices := ns, evcs := l, fw := fw, out := out }) : Gives i s P :=
  gives_of_performed (d := f s.dev) hi h hb hP

/-! ## Sets (R207, R326) -/

section
variable (v k : Nat) (f : SetEnt → SetEnt) (m : Option (List Nat)) (d : Dev)

theorem putSet_epoch : ((putSet v k f m d).vd v).epoch = nextEpoch (d.vd v).epoch := by
  obtain ⟨l, w, ps, ls, h⟩ := publishChange_nil v d (d.vd v) false []
  unfold putSet
  rw [h, Dev.vd_onVd_same]
  dsimp only
  rw [rebuildLists_vd_same]
  exact nextMap_vd_epoch v d

theorem putSet_sets : (putSet v k f m d).mc.sets = Tab.put d.mc.sets k { f (d.set k) with epoch := nextEpoch (d.vd v).epoch } := by
  obtain ⟨l, w, ps, ls, h⟩ := publishChange_nil v d (d.vd v) false []
  unfold putSet
  rw [h, ← nextMap_vd_epoch v d]
  rfl

end

/-- What a set put under the next epoch says of the set table and of the epoch. -/
theorem setPut_of_putSet {v k : Nat} {f : SetEnt → SetEnt} {m : Option (List Nat)} {d e : Dev} (hvds : e.vds = (putSet v k f m d).vds)
    (hmc : e.mc = (putSet v k f m d).mc) : (e.vd v).epoch = nextEpoch (d.vd v).epoch ∧
      e.set k = { f (d.set k) with epoch := nextEpoch (d.vd v).epoch } ∧ ∀ j, j ≠ k → e.set j = d.set j := by
  refine ⟨?_, ?_, fun j hj => ?_⟩
  · rw [Dev.vd, hvds]
    exact putSet_epoch ..
  · rw [Dev.set, hmc, putSet_sets, Tab.getD_put_same]
  · rw [Dev.set, hmc, putSet_sets, Tab.getD_put_ne _ _ _ hj, Dev.set]

theorem doDefineSet_defined {r : AdReq} {w : Wk} {a : List Byte} {k l len : Nat} {ms : List (Nat × Nat)} (ha : r.args = a)
    (hk : fieldLe a 0 2 = k) (hl : fieldLe a 2 1 = l) (hlen : fieldLe a 4 4 = len) (hms : setMembers a (2 ^ l) = ms)
    (number : k < 1024) (valid : fieldLe a 3 1 = 1) (few : l ≤ 6) (some_ : 1 ≤ len) (fits : len ≤ 23040) (listed : 8 + 4 * 2 ^ l ≤ a.length)
    (within : (ms.all fun m => decide (m.1 < 1024) && decide (m.2 + len ≤ 23040)) = true) (apart : selfMeet len ms = false)
    (held : (ms.all fun m => (w.dev.vd r.fn).chans.contains m.1) = true) (new : (w.dev.set k).valid = false)
    (free : (w.dev.mc.sets.any fun y => y.2.valid && y.2.members.any fun b => ms.any fun m => membersMeet m len b y.2.len) = false)
    (mirrors : (w.dev.vd r.fn).mirrored = true → (pickMirrors w.dev (w.dev.vd r.fn) ms).isSome = true) :
    ∃ m, doDefineSet r w = performed [] (w.on (putSet r.fn k
      (fun e => { e with len := len, vdev := r.fn, log2n := l, valid := true, members := ms }) m)) := by
  subst ha hk hl hlen
  have picked : (if (w.dev.vd r.fn).mirrored then pickMirrors w.dev (w.dev.vd r.fn) ms else some []).isSome = true := by
    split
    · next h => exact mirrors h
    · rfl
  have pass : ∀ c ∈ [(true, stField), (true, stNotHeld), (true, stState), (true, stNoRes)], c.1 = true := by simp
  refine ⟨if (w.dev.vd r.fn).mirrored then if (w.dev.vd r.fn).mirrored then pickMirrors w.dev (w.dev.vd r.fn) ms else some [] else none, ?_⟩
  simp only [doDefineSet, Nat.min_eq_left few, valid, hms, Nat.not_le.mpr number, decide_false, decide_eq_true few, decide_eq_true some_,
    decide_eq_true fits, decide_eq_true listed, within, apart, held, new, free, picked, Bool.not_false, Bool.and_self,
    firstStatus_eq_none pass]
  rfl

theorem exec_defineSet (v : VDev) (s : State) :
    exec (.defineSet v) s = .next (after s (takeRequest v.val (adRow 0x0250 8) doDefineSet (work s))) := rfl

theorem gives_of_putSet {s : State} {v : VDev} {i k : Nat} {bs : List Byte} {f : SetEnt → SetEnt} {m : Option (List Nat)}
    (acc : Accepted s.dev v.val (adRow 0x0250 8) i bs)
    (hbody : doDefineSet (headReq v.val i bs) (work s) = performed [] ((work s).on (putSet v.val k f m))) :
    Gives (.defineSet v) s fun d => (d.vd v.val).epoch = nextEpoch (s.dev.vd v.val).epoch ∧
      d.set k = { f (s.dev.set k) with epoch := nextEpoch (s.dev.vd v.val).epoch } ∧ ∀ j, j ≠ k → d.set j = s.dev.set j :=
  gives_of_update (exec_defineSet ..) acc hbody fun _ _ _ _ _ =>
    setPut_of_putSet (f := f) (m := m) (d := s.dev) rfl rfl

theorem doDefineSet_removed {r : AdReq} {w : Wk} {k : Nat} (hk : fieldLe r.args 0 2 = k) (number : k < 1024) (valid : fieldLe r.args 3 1 = 0)
    (held : (w.dev.set k).valid = true) (own : (w.dev.set k).vdev = r.fn)
    (unmapped : ((w.dev.vd r.fn).table.any fun y => y.res == 1 && y.pbase / 2 ^ 38 == k) = false) :
    doDefineSet r w = performed [] (w.on (putSet r.fn k (fun e => { e with valid := false, members := [] }) none)) := by
  subst hk
  simp only [doDefineSet, valid, Nat.not_le.mpr number, held, beq_iff_eq.mpr own, unmapped]
  rfl

/-! ## Partitions (R327, R345) -/

/-- The partition that a definition starts from: the one there is, over the sets asked for, or a new one that is WARMING. -/
def partFrom (sets : List Nat) (now : BitVec 64) : Option Part → Part
  | some p => { p with sets := sets }
  | none => ⟨sets, [], 0, 0, 0, true, now, none, 0, none, 0⟩

theorem doDefinePartition_defined {r : AdReq} {w : Wk} {b : List Byte} {j n : Nat} {sets : List Nat} (hb : r.args.take 64 = b)
    (hj : fieldLe b 0 1 = j) (hn : fieldLe b 4 2 = n) (hsets : (List.range (fieldLe b 2 1)).map (fun j => fieldLe b (0x10 + 2 * j) 2) = sets)
    {old : Option Part} (hold : Tab.get? (w.dev.vd r.fn).parts j = old) {p : Part}
    (hp : partFrom sets (w.dev.hlcOf r.fn) old = p) (fields : partFieldsOk b = true)
    (define_ : bitAt (fieldLe b 1 1) 0 = false) (held : (sets.all fun k => (w.dev.set k).valid && (w.dev.set k).vdev == r.fn) = true)
    (enough : n ≤ (resizeCores w.dev (w.dev.vd r.fn) p n).length) :
    doDefinePartition r w = performed [] (w.on fun d => publishChange r.fn (w.dev.vd r.fn) [] false []
      ((if old.isSome then d
        else { d with pwr := { d.pwr with partE := Tab.del d.pwr.partE (16 * r.fn + j) } }).onVd r.fn fun x =>
          { x with parts := Tab.put x.parts j { p with
            wanted := n
            lcReserve := fieldLe b 6 2
            sliceUs := fieldLe b 8 4
            cores := resizeCores w.dev (w.dev.vd r.fn) p n } })) := by
  subst hb hj hn hsets hp
  cases old with
  | none =>
    simp only [doDefinePartition, hold, fields, define_, held, Bool.not_true, Bool.false_eq_true, if_false]
    exact if_neg (Nat.not_lt.mpr enough)
  | some p =>
    simp only [doDefinePartition, hold, fields, define_, held, Bool.not_true, Bool.false_eq_true, if_false]
    exact if_neg (Nat.not_lt.mpr enough)

/-- A partition put under the next map is there with its cores in a new order. -/
theorem part_of_published (v j : Nat) (p : Part) (old : Vd) (d : Dev) :
    let e := publishChange v old [] false [] (d.onVd v fun x => { x with parts := Tab.put x.parts j p })
    (∃ cores, Tab.get? (e.vd v).parts j = some { p with cores := cores }) ∧ (e.vd v).epoch = nextEpoch (d.vd v).epoch := by
  obtain ⟨l, w, ps, ls, h⟩ := publishChange_nil v (d.onVd v fun x => { x with parts := Tab.put x.parts j p }) old false []
  dsimp only
  rw [h]
  refine ⟨nextMap_part v _ ?_, (nextMap_vd_epoch ..).trans ?_⟩
  · rw [Dev.vd_onVd_same]
    exact Tab.get?_put_same ..
  · rw [Dev.vd_onVd_same]

theorem doDefinePartition_removed {r : AdReq} {w : Wk} {b : List Byte} {j : Nat} {p : Part} (hb : r.args.take 64 = b) (hj : fieldLe b 0 1 = j)
    (hp : Tab.get? (w.dev.vd r.fn).parts j = some p) (fields : partFieldsOk b = true) (remove : bitAt (fieldLe b 1 1) 0 = true)
    (empty : (w.dev.vd r.fn).partQueues j = []) :
    doDefinePartition r w = performed [] (w.on fun d => publishChange r.fn (w.dev.vd r.fn) [] false []
      (d.onVd r.fn fun x => { x with parts := Tab.del x.parts j })) := by
  subst hb hj
  simp only [doDefinePartition, fields, remove, hp, empty]
  rfl

/-- A request that is performed without a result is finished with OK. -/
theorem takeRequest_done {w w' : Wk} {fn : Nat} {row : AdRow} {i : Nat} {bs : List Byte} (h : Accepted w.dev fn row i bs)
    {body : AdReq → Wk → Ans × Wk} (hb : body (headReq fn i bs) w = performed [] w') :
    takeRequest fn row body w = finish (headReq fn i bs) (.done stOk 0 []) w' := by
  rw [takeRequest_accepted h, hb]
  rfl

theorem exec_definePartition (v : VDev) (s : State) :
    exec (.definePartition v) s = .next (after s (takeRequest v.val (adRow 0x0240 64) doDefinePartition (work s))) := rfl

theorem exec_prefetch (v : VDev) (s : State) :
    exec (.prefetch v) s = .next (after s (takeRequest v.val (adRow 0x0242 3) doPrefetch (work s))) := rfl

theorem exec_endWarming (v : VDev) (s : State) :
    exec (.endWarming v) s = .next (after s (takeRequest v.val (adRow 0x0243 1) doEndWarming (work s))) := rfl

/-- The partitions of virtual device `v` with partition `i` changed. -/
def partsChanged (v i : Nat) (g : Part → Part) (d : Dev) : Dev := d.onVd v fun x =>
  { x with parts := x.parts.map fun p => (p.1, if p.1 = i then g p.2 else p.2) }

section
variable {v i : Nat} {d : Dev} (g : Part → Part)

theorem partsChanged_same {p : Part} (h : Tab.get? (d.vd v).parts i = some p) :
    Tab.get? ((partsChanged v i g d).vd v).parts i = some (g p) := by
  rw [partsChanged, Dev.vd_onVd_same]
  refine (Tab.get?_map (fun j p => if j = i then g p else p) ..).trans ?_
  rw [h]
  exact congrArg some (if_pos rfl)

theorem partsChanged_ne {j : Nat} (hj : j ≠ i) : Tab.get? ((partsChanged v i g d).vd v).parts j = Tab.get? (d.vd v).parts j := by
  rw [partsChanged, Dev.vd_onVd_same]
  refine (Tab.get?_map (fun j p => if j = i then g p else p) ..).trans ?_
  simp only [if_neg hj, Option.map_id']

theorem stopWarming_vds (v i : Nat) (d : Dev) : (stopWarming v i d).vds = (partsChanged v i (fun p => { p with warming := false }) d).vds := by
  unfold stopWarming
  dsimp only
  split
  · rfl
  · rfl

theorem stopWarming_clk (v i : Nat) (d : Dev) : (stopWarming v i d).clk = d.clk := by
  unfold stopWarming
  dsimp only
  split
  · rfl
  · rfl

end

/-- What a passing of time leaves of a composition. -/
theorem MeteredFrom.vd_uncounted {d e : Dev} (h : MeteredFrom d e) (v : Nat) : (e.vd v).uncounted = (d.vd v).uncounted := by
  have entry := congrArg (fun t : Tab Vd => Tab.get? t v) h.vds
  rw [Tab.get?_map fun _ => Vd.uncounted, Tab.get?_map fun _ => Vd.uncounted] at entry
  rw [Dev.vd, Dev.vd, Tab.getD, Tab.getD, ← Option.getD_map Vd.uncounted, ← Option.getD_map Vd.uncounted, entry]

theorem advance_parts (d : Dev) (h : Nat) (t : BitVec 64) (v : Nat) : ((d.advance h t).vd v).parts = (d.vd v).parts :=
  (congrArg Vd.parts ((advance_metered d h t).vd_uncounted v) :)

/-- The device once ten seconds have passed without a prefetch. -/
def warmingExpired (v i : Nat) (d : Dev) : Dev := match Tab.get? (d.vd v).parts i with
  | some x => if x.warming then stopWarming v i (d.advance (hubOf v) (x.lastPrefetch + usTicks 10000000)) else d
  | none => d

theorem exec_warmingTimeout (v : VDev) (n : PartId) (s : State) :
    exec (.warmingTimeout v n) s = .next { s with dev := warmingExpired v.val n.val s.dev } := rfl

section
variable {v i : Nat} {d : Dev} {p : Part}

theorem warmingExpired_of_warming (h : Tab.get? (d.vd v).parts i = some p) (warming : p.warming = true) :
    warmingExpired v i d = stopWarming v i (d.advance (hubOf v) (p.lastPrefetch + usTicks 10000000)) := by
  simp only [warmingExpired, h, warming]
  rfl

theorem warmingExpired_of_warm (h : ∀ p, Tab.get? (d.vd v).parts i = some p → p.warming = false) : warmingExpired v i d = d := by
  unfold warmingExpired
  split
  · next p hp =>
    rw [h p hp]
    rfl
  · rfl

theorem doEndWarming_performed {r : AdReq} {w : Wk} {n : Nat} (hn : fieldLe r.args 0 1 = n) (number : n < 16)
    (held : Tab.get? (w.dev.vd r.fn).parts n = some p) : doEndWarming r w = performed [] (w.on (stopWarming r.fn n)) := by
  subst hn
  simp only [doEndWarming, held, Nat.not_le.mpr number, if_false]
  rfl

end

/-! ## Prefetches (R345) -/

/-- Die `k` receives a span of a virtual device. -/
def spanSent (f : Nat × Nat × Nat) (k : Nat) (d : Dev) : Dev := d.onDie k fun m => { m with prefetch := m.prefetch ++ [f] }

/-- Partitions changed leave the dies that home a span. -/
theorem mem_spanDies_partsChanged {v i k a n : Nat} (g : Part → Part) {d : Dev} (h : k ∈ spanDies d v a n) :
    k ∈ spanDies (partsChanged v i g d) v a n := by
  unfold spanDies
  rw [partsChanged, Dev.vd_onVd_same]
  exact h

/-- Dies `ks` receive a span of a virtual device. -/
def spanSentTo (ks : List Nat) (f : Nat × Nat × Nat) (d : Dev) : Dev := ks.foldl (fun d k => spanSent f k d) d

/-- Every die that homes bytes of a span receives it, for each of the spans in order. -/
def spansSent (v : Nat) (spans : List (Nat × Nat)) (d : Dev) : Dev :=
  spans.foldl (fun d x => spanSentTo (spanDies d v x.1 x.2) (v, x.1, x.2) d) d

/-- The device with lines read into the caches of their dies. -/
def linesRead (v : Nat) (lines : List (Nat × Nat)) (d : Dev) : Dev := lines.foldl (fun d l => readLine v l.2 l.1 d) d

/-- The device with spans sent to their dies and their lines read. -/
def prefetched (v : Nat) (spans : List (Nat × Nat)) (d : Dev) : Dev :=
  linesRead v (linesOf (spansSent v spans d) (hubEng v) v needNone spans) (spansSent v spans d)

section
variable {f g : Nat × Nat × Nat} {j k v : Nat} {d : Dev}

theorem mem_prefetch_spanSent (f : Nat × Nat × Nat) (k : Nat) (d : Dev) : f ∈ ((spanSent f k d).die k).prefetch := by
  rw [spanSent, Dev.die, Dev.onDie, Dev.onMc, Tab.getD_put_same]
  exact List.mem_append_right _ (List.mem_singleton_self f)

theorem mem_prefetch_of_spanSent (g : Nat × Nat × Nat) (j : Nat) (h : f ∈ (d.die k).prefetch) : f ∈ ((spanSent g j d).die k).prefetch := by
  by_cases hk : k = j
  · subst hk
    rw [spanSent, Dev.die, Dev.onDie, Dev.onMc, Tab.getD_put_same]
    exact List.mem_append_left _ h
  · rw [spanSent, Dev.die, Dev.onDie, Dev.onMc, Tab.getD_put_ne _ _ _ hk]
    exact h

theorem mem_prefetch_of_spanSentTo (ks : List Nat) (g : Nat × Nat × Nat) (h : f ∈ (d.die k).prefetch) :
    f ∈ ((spanSentTo ks g d).die k).prefetch :=
  List.foldlRecOn ks _ (motive := fun e : Dev => f ∈ (e.die k).prefetch) h fun _ he j _ => mem_prefetch_of_spanSent g j he

theorem mem_prefetch_spanSentTo {ks : List Nat} (hk : k ∈ ks) (f : Nat × Nat × Nat) (d : Dev) :
    f ∈ ((spanSentTo ks f d).die k).prefetch :=
  foldl_of_mem hk (f := fun d k => spanSent f k d) (fun _ => True) (fun e : Dev => f ∈ (e.die k).prefetch) (fun _ _ _ => trivial)
    (fun e _ => mem_prefetch_spanSent f k e) (fun _ j he => mem_prefetch_of_spanSent f j he) trivial

theorem spanSentTo_homes (ks : List Nat) (f : Nat × Nat × Nat) (d : Dev) :
    (spanSentTo ks f d).vds = d.vds ∧ spanDies (spanSentTo ks f d) = spanDies d :=
  List.foldlRecOn ks _ (motive := fun e : Dev => e.vds = d.vds ∧ spanDies e = spanDies d) ⟨rfl, rfl⟩ fun _ he _ _ => he

/-- Each die that homes bytes of a listed span has it after the spans are sent. -/
theorem mem_prefetch_spansSent {spans : List (Nat × Nat)} {x : Nat × Nat} (hx : x ∈ spans) (hk : k ∈ spanDies d v x.1 x.2) :
    (v, x.1, x.2) ∈ ((spansSent v spans d).die k).prefetch :=
  foldl_of_mem hx (f := fun d x => spanSentTo (spanDies d v x.1 x.2) (v, x.1, x.2) d) (fun e : Dev => spanDies e = spanDies d)
    (fun e : Dev => (v, x.1, x.2) ∈ (e.die k).prefetch) (fun _ _ he => (spanSentTo_homes ..).2.trans he)
    (fun _ he => mem_prefetch_spanSentTo (by rw [he]; exact hk) ..) (fun _ _ he => mem_prefetch_of_spanSentTo _ _ he) rfl

theorem spansSent_vds (v : Nat) (spans : List (Nat × Nat)) (d : Dev) : (spansSent v spans d).vds = d.vds :=
  List.foldlRecOn spans _ (motive := fun e : Dev => e.vds = d.vds) rfl fun _ he _ _ => (spanSentTo_homes ..).1.trans he

/-- A change of a die's cache leaves what every die is to prefetch. -/
theorem prefetch_onDie (j : Nat) (l : List CLine) (d : Dev) (k : Nat) : ((d.onDie j fun m => { m with cache := l }).die k).prefetch =
    (d.die k).prefetch := by
  by_cases hk : k = j
  · subst hk
    rw [Dev.die, Dev.onDie, Dev.onMc, Tab.getD_put_same]
  · rw [Dev.die, Dev.onDie, Dev.onMc, Tab.getD_put_ne _ _ _ hk, Dev.die]

theorem readLine_prefetch (v key a : Nat) (d : Dev) (k : Nat) : ((readLine v key a d).die k).prefetch = (d.die k).prefetch := by
  unfold readLine cachePut
  dsimp only
  split
  · exact (prefetch_onDie ..)
  · exact (prefetch_onDie ..)

theorem readLine_vds (v key a : Nat) (d : Dev) : (readLine v key a d).vds = d.vds := by
  unfold readLine cachePut
  dsimp only
  split
  · rfl
  · rfl

theorem prefetched_prefetch (v : Nat) (spans : List (Nat × Nat)) (d : Dev) (k : Nat) :
    ((prefetched v spans d).die k).prefetch = ((spansSent v spans d).die k).prefetch :=
  foldl_keeps (fun d : Dev => (d.die k).prefetch) (f := fun d (l : Nat × Nat) => readLine v l.2 l.1 d) (fun _ _ => readLine_prefetch ..) _ _

theorem prefetched_vds (v : Nat) (spans : List (Nat × Nat)) (d : Dev) : (prefetched v spans d).vds = d.vds :=
  (foldl_keeps Dev.vds (f := fun d (l : Nat × Nat) => readLine v l.2 l.1 d) (fun _ _ => readLine_vds ..) _ _).trans (spansSent_vds ..)

end

theorem doPrefetch_performed {r : AdReq} {w : Wk} {a : List Byte} {i n : Nat} {spans : List (Nat × Nat)} {p : Part} (ha : r.args = a)
    (hi : fieldLe a 0 1 = i) (hn : fieldLe a 1 2 = n)
    (hs : ((List.range n).map fun j => (fieldLe a (3 + 16 * j) 8, fieldLe a (11 + 16 * j) 8)) = spans) (part : i < 16) (some_ : 1 ≤ n)
    (few : n ≤ 256) (listed : 3 + 16 * n ≤ a.length) (within : (spans.all fun x => decide (x.1 + x.2 ≤ 2 ^ 56)) = true)
    (held : Tab.get? (w.dev.vd r.fn).parts i = some p) (warms : p.warming = true ∨ w.dev.boot.early = true)
    (mapped : (spans.all fun x => spanIn (w.dev.vd r.fn).table (fun _ => true) x.1 x.2) = true) :
    doPrefetch r w = performed [] (w.on fun d => prefetched r.fn spans
      (partsChanged r.fn i (fun p => { p with lastPrefetch := d.hlcOf r.fn }) d)) := by
  subst ha hi hn
  have pass : ∀ c ∈ [(true, stField), (true, stNotHeld), (true, stState)], c.1 = true := by simp
  have early : (p.warming || w.dev.boot.early) = true := by simpa using warms
  simp only [doPrefetch, hs, decide_eq_true part, decide_eq_true some_, decide_eq_true few, decide_eq_true listed, within, held, early, mapped,
    Option.isSome_some, Option.any_some, Bool.and_self, firstStatus_eq_none pass]
  rfl

/-! ## Cores of a cluster (R156 … R159) -/

section
variable {c n k : Nat} {st : CoreState} {d : Dev}

theorem coresIn_congr {e : Dev} (h : e.sched.cores = d.sched.cores) (c : Nat) (st : CoreState) : coresIn e c st = coresIn d c st := by
  simp only [coresIn, Dev.core, h]

theorem mem_coresIn : n ∈ coresIn d c st → (d.core n).state = st := by
  simp [coresIn]

/-- A core that leaves a state's list empty leaves it so when it enters another state. -/
theorem coresIn_onCore_eq_nil (h : coresIn d c st = []) {f : Core → Core} (hf : (f (d.core n)).state ≠ st) :
    coresIn (d.onCore n f) c st = [] := by
  rw [coresIn, List.filter_eq_nil_iff] at h ⊢
  intro k hk
  by_cases hkn : k = n
  · subst hkn
    simpa [Dev.core_onCore_same] using hf
  · rw [Dev.core_onCore_ne _ _ hkn]
    exact h k hk

theorem nextSpare_of_none_scrubbed (h : coresIn d c .scrubbed = []) : nextSpare c d = d := by
  unfold nextSpare
  simp [h]

theorem publishChange_nil_cores (v : Nat) (old : Vd) (r : Bool) (l : List (Nat × Nat)) (d : Dev) :
    (publishChange v old [] r l d).sched.cores = d.sched.cores ∧ (publishChange v old [] r l d).sched.units = d.sched.units := by
  obtain ⟨_, _, _, _, h⟩ := publishChange_nil v d old r l
  rw [h]
  exact ⟨rfl, rfl⟩

theorem lowerReserves_sched (v : Nat) (d : Dev) : (lowerReserves v d).sched = d.sched := by
  unfold lowerReserves
  dsimp only
  split
  · exact (compositionChanged_told ..).sched
  · rfl

theorem startReturn_core_ne (h : k ≠ n) : (startReturn .core n d).core k = d.core k := by
  unfold startReturn
  dsimp only
  split
  · exact Dev.core_onCore_ne _ _ h
  · rfl

theorem startReturn_core_unit (n : Nat) (d : Dev) : (startReturn .core n d).unit = d.unit := by
  unfold startReturn
  dsimp only
  split
  · rfl
  · rfl

/-- A core settled is one that was not scrubbed, or it is retired, and may begin its return. -/
theorem settleCore_cases (n : Nat) (d : Dev) : settleCore n d = d ∨ ∃ e : Dev,
    e.sched.cores = (d.onCore n fun k => { k with state := .retired }).sched.cores ∧ e.sched.units = d.sched.units ∧
    settleCore n d = if (e.unit .core n).returning then startReturn .core n e else e := by
  have left (v cause : Nat) (us : List (UnitKind × Nat)) (old : Vd) (e : Dev) :
      let x := compositionChanged v cause us (lowerReserves v (publishChange v old [] true [] e))
      x.sched.cores = e.sched.cores ∧ x.sched.units = e.sched.units := by
    dsimp only
    rw [(compositionChanged_told ..).sched, lowerReserves_sched]
    exact publishChange_nil_cores ..
  unfold settleCore
  split
  · exact .inl rfl
  · refine .inr ⟨_, ?_, ?_, rfl⟩
    · split
      · rfl
      · exact (left ..).1
    · split
      · rfl
      · exact (left ..).2

theorem settleCore_core_ne (h : k ≠ n) : (settleCore n d).core k = d.core k := by
  obtain same | ⟨e, hc, -, he⟩ := settleCore_cases n d
  · rw [same]
  have kept : e.core k = d.core k := by
    rw [Dev.core, hc]
    exact Dev.core_onCore_ne _ _ h
  rw [he]
  split
  · rw [startReturn_core_ne h, kept]
  · exact kept

theorem settleCore_unit (n : Nat) (d : Dev) : (settleCore n d).unit = d.unit := by
  obtain same | ⟨e, -, hu, he⟩ := settleCore_cases n d
  · rw [same]
  have kept : e.unit = d.unit := by
    funext k m
    rw [Dev.unit, Dev.unit, hu]
  rw [he]
  split
  · rw [startReturn_core_unit, kept]
  · exact kept

theorem foldl_settleCore_core (l : List Nat) (h : k ∉ l) (d : Dev) : (l.foldl (fun d n => settleCore n d) d).core k = d.core k :=
  List.foldlRecOn l _ (motive := fun e : Dev => e.core k = d.core k) rfl fun _ he _ hm =>
    (settleCore_core_ne (ne_of_mem_of_not_mem hm h).symm).trans he

/-- The next self-test of a cluster touches neither the unit table nor a core that is neither scrubbed nor in reserve. -/
theorem nextSpare_keeps (hs : (d.core n).state ≠ .scrubbed) (hr : (d.core n).state ≠ .spare) :
    ((nextSpare c d).core n).state = (d.core n).state ∧ (nextSpare c d).unit = d.unit := by
  unfold nextSpare
  dsimp only
  split
  · exact ⟨rfl, rfl⟩
  split
  · next m hm =>
    have spare := mem_coresIn (List.mem_of_find?_eq_some hm)
    have other : n ≠ m := by
      rintro rfl
      exact hr spare
    exact ⟨by rw [Dev.core_onCore_ne _ _ other], rfl⟩
  split
  · have other : n ∉ coresIn d c .scrubbed := fun h => hs (mem_coresIn h)
    exact ⟨by rw [foldl_settleCore_core _ other], foldl_keeps Dev.unit (fun _ _ => settleCore_unit ..) _ d⟩
  · exact ⟨rfl, rfl⟩

end

/-! ## Self-tests (R156 … R159, R494) -/

section
variable {n : Nat} {d : Dev}

/-- A return that ends changes the unit's record and the result of the last request. -/
theorem endReturn_cases (k : UnitKind) (n : Nat) (ok : Bool) (d : Dev) : (endReturn k n ok d).vds = d.vds ∧
    ((endReturn k n ok d).sched = d.sched ∨
      (endReturn k n ok d).sched = (d.onUnit k n fun u => { u with returning := false, cause := if ok then 0 else u.cause }).sched) := by
  unfold endReturn
  split
  · exact ⟨rfl, .inl rfl⟩
  · dsimp only
    by_cases last : d.od.lastUnit = unitWord k n ∧ d.od.lastResult = 1
    · exact (if_pos last : _ = _) ▸ ⟨rfl, .inr rfl⟩
    · exact (if_neg last : _ = _) ▸ ⟨rfl, .inr rfl⟩

theorem endReturn_cores (k : UnitKind) (n : Nat) (ok : Bool) (d : Dev) : (endReturn k n ok d).sched.cores = d.sched.cores := by
  obtain ⟨-, h | h⟩ := endReturn_cases k n ok d
  · rw [h]
  · rw [h]
    rfl

theorem endReturn_adminOut (k : UnitKind) (n : Nat) (ok : Bool) (d : Dev) :
    ((endReturn k n ok d).unit k n).adminOut = (d.unit k n).adminOut := by
  obtain ⟨-, h | h⟩ := endReturn_cases k n ok d
  · rw [Dev.unit, h, Dev.unit]
  · rw [Dev.unit, h]
    exact (congrArg UnitRec.adminOut (unit_onUnit_same k n (fun u => { u with returning := false, cause := if ok then 0 else u.cause }) d) :)

/-- The device once a self-test's end has been noticed and a return that was requested has ended. -/
def testEnded (n : Nat) (pass : Bool) (d : Dev) : Dev := endReturn .core n pass (raiseSrc (2 + n / 68) (n % 68) d)

theorem testEnded_cores (n : Nat) (pass : Bool) (d : Dev) : (testEnded n pass d).sched.cores = d.sched.cores := endReturn_cores ..

theorem testEnded_adminOut (n : Nat) (pass : Bool) (d : Dev) : ((testEnded n pass d).unit .core n).adminOut = (d.unit .core n).adminOut :=
  endReturn_adminOut ..

theorem testEnded_boundTo (n : Nat) (pass : Bool) (d : Dev) : (testEnded n pass d).boundTo = d.boundTo := by
  funext k m
  rw [Dev.boundTo, Dev.boundTo, testEnded, (endReturn_cases ..).1]
  rfl

theorem admitCore_state (n : Nat) (d : Dev) : ((admitCore n d).core n).state =
    (if 64 ≤ (serviceableIn d (n / 68)).length then .spare else .serviceable) := by
  unfold admitCore
  dsimp only
  rw [Dev.core_onCore_same]
  by_cases h : 64 ≤ (serviceableIn d (n / 68)).length
  · simp [h]
  · simp [h]

theorem admitCore_testEnded_state (n : Nat) (pass : Bool) (d : Dev) : ((admitCore n (testEnded n pass d)).core n).state =
    (if 64 ≤ (serviceableIn d (n / 68)).length then .spare else .serviceable) := by
  rw [admitCore_state, serviceableIn, serviceableIn, coresIn_congr (testEnded_cores ..)]

/-- A core retired for a cause is out of service, and its record says why. -/
def retiredFor (n cause : Nat) (d : Dev) : Dev := setCause .core n cause (d.onCore n fun k => { k with state := .retired })

theorem retiredFor_cores (n cause : Nat) (d : Dev) :
    (retiredFor n cause d).sched.cores = (d.onCore n fun k => { k with state := .retired }).sched.cores := by
  rw [retiredFor, setCause_sched]
  rfl

theorem retiredFor_state (n cause : Nat) (d : Dev) : ((retiredFor n cause d).core n).state = .retired := by
  rw [Dev.core, retiredFor_cores]
  exact congrArg Core.state (Dev.core_onCore_same d n fun k => { k with state := .retired })

theorem retiredFor_cause (n cause : Nat) (d : Dev) : ((retiredFor n cause d).unit .core n).cause = cause := setCause_cause ..

/-- What becomes of a bound core whose self-test failed (R159, R501). -/
def replacedFor (n : Nat) (d : Dev) : Dev := settleCore n (setCause .core n 1 (d.onCore n fun k => { k with state := .scrubbed }))

theorem doSelfTest_of_idle (pass : Bool) (ht : (d.core n).state ≠ .testing) (hr : (d.core n).state ≠ .returning) :
    doSelfTest n pass d = d := by
  unfold doSelfTest
  simp [ht, hr]

theorem doSelfTest_of_returning (h : (d.core n).state = .returning) :
    doSelfTest n true d = admitCore n (testEnded n true d) ∧ doSelfTest n false d = retiredFor n 1 (testEnded n false d) := by
  simp only [doSelfTest, h]
  exact ⟨rfl, rfl⟩

/-- The retirement that waited for a test goes on. -/
def goOn (c : Nat) (d : Dev) : Dev := nextSpare c (((coresIn d c .scrubbed).take 1).foldl (fun d n => settleCore n d) d)

theorem doSelfTest_of_admitted (h : (d.core n).state = .testing) (ha : (d.unit .core n).adminOut = false) :
    doSelfTest n true d = goOn (n / 68) (admitCore n (testEnded n true d)) := by
  have wanted := (testEnded_adminOut n true d).trans ha
  rw [testEnded] at wanted
  have running : (CoreState.testing == CoreState.returning) = false := rfl
  simp only [doSelfTest, h, wanted, goOn, testEnded, running, bne_self_eq_false, Bool.false_and, Bool.false_eq_true, if_false, if_true]

theorem doSelfTest_of_adminOut (h : (d.core n).state = .testing) (ha : (d.unit .core n).adminOut = true) :
    doSelfTest n true d = goOn (n / 68) (retiredFor n 3 (testEnded n true d)) := by
  have unwanted := (testEnded_adminOut n true d).trans ha
  rw [testEnded] at unwanted
  have running : (CoreState.testing == CoreState.returning) = false := rfl
  simp only [doSelfTest, h, unwanted, goOn, testEnded, retiredFor, running, bne_self_eq_false, Bool.false_and, Bool.false_eq_true, if_false,
    if_true]

theorem doSelfTest_of_unbound (h : (d.core n).state = .testing) (hb : d.boundTo .core n = none) :
    doSelfTest n false d = nextSpare (n / 68) (retiredFor n 1 (testEnded n false d)) := by
  have unbound : (testEnded n false d).boundTo .core n = none := by rw [testEnded_boundTo, hb]
  rw [testEnded] at unbound
  simp only [doSelfTest, h, unbound, testEnded, retiredFor]
  rfl

theorem doSelfTest_of_bound (h : (d.core n).state = .testing) {v : Nat} (hb : d.boundTo .core n = some v) :
    doSelfTest n false d = replacedFor n (testEnded n false d) := by
  have bound : (testEnded n false d).boundTo .core n = some v := by rw [testEnded_boundTo, hb]
  rw [testEnded] at bound
  simp only [doSelfTest, h, bound, testEnded, replacedFor]
  rfl

theorem goOn_of_none_scrubbed {c : Nat} (h : coresIn d c .scrubbed = []) : goOn c d = d := by
  rw [goOn, h]
  exact nextSpare_of_none_scrubbed h

/-- Where no core of a cluster is scrubbed, none is once a core of it is admitted. -/
theorem coresIn_admitCore {c : Nat} {pass : Bool} (h : coresIn d c .scrubbed = []) :
    coresIn (admitCore n (testEnded n pass d)) c .scrubbed = [] := by
  refine coresIn_onCore_eq_nil ((coresIn_congr (testEnded_cores ..) ..).trans h) ?_
  dsimp only
  split
  · exact nofun
  · exact nofun

theorem coresIn_retiredFor {c : Nat} (cause : Nat) {pass : Bool} (h : coresIn d c .scrubbed = []) :
    coresIn (retiredFor n cause (testEnded n pass d)) c .scrubbed = [] := by
  rw [coresIn_congr (retiredFor_cores ..)]
  exact coresIn_onCore_eq_nil ((coresIn_congr (testEnded_cores ..) ..).trans h) nofun

theorem exec_coreSelfTestDone (n : CoreId) (pass : Bool) (s : State) :
    exec (.coreSelfTestDone n pass) s = .next { s with dev := announce s.dev (doSelfTest n.val pass s.dev) } := rfl

/-- What a self-test makes of its core and of the core's record, telling leaves as it is. -/
theorem gives_of_selfTest {n : CoreId} {pass : Bool} {s : State} {P : Dev → Prop}
    (hP : ∀ e, ToldFrom (doSelfTest n.val pass s.dev) e → P e) : Gives (.coreSelfTestDone n pass) s P :=
  ⟨_, exec_coreSelfTestDone .., hP _ (announce_told ..)⟩

end

/-- Settles O33: a request gives its virtual device the next epoch and what it asked for, and a core's test decides where the core
stands. -/
theorem setsPartitionsAndSelfTests : Obligations.SetsPartitionsAndSelfTests := by
  unfold Obligations.SetsPartitionsAndSelfTests
  refine ⟨?defineSet, ?removeSet, ?newPart, ?oldPart, ?prefetch, ?endWarming, ?timeout, ?warm, ?pass, ?passed, ?unwanted, ?unbound, ?bound,
    ?returning, ?idle⟩
  case defineSet =>
    intro s v i bs acc a k l len ms number valid few some_ fits listed within apart held new free mirrors
    obtain ⟨m, hbody⟩ := doDefineSet_defined (r := headReq v.val i bs) (w := work s) rfl rfl rfl rfl rfl number valid few some_ fits listed
      within apart held new free mirrors
    have put := gives_of_putSet acc hbody
    exact put
  case removeSet =>
    intro s v i bs acc k number valid held own unmapped
    have put := gives_of_putSet acc
      (doDefineSet_removed (r := headReq v.val i bs) (w := work s) rfl number valid held own unmapped)
    exact put
  case newPart =>
    intro s v i bs acc b n sets p fields define_ new held enough
    have body := doDefinePartition_defined (r := headReq v.val i bs) (w := work s) (p := p) rfl rfl rfl rfl new
      rfl fields define_ held enough
    refine gives_of_update (exec_definePartition ..) acc body fun fns ns l fw out => ?_
    obtain ⟨⟨cores, put⟩, epoch⟩ := part_of_published v.val (fieldLe b 0 1)
      { p with
        wanted := n
        lcReserve := fieldLe b 6 2
        sliceUs := fieldLe b 8 4
        cores := resizeCores s.dev (s.dev.vd v.val) p n } (s.dev.vd v.val) { s.dev with
          pwr := { s.dev.pwr with partE := Tab.del s.dev.pwr.partE (16 * v.val + fieldLe b 0 1) } }
    exact ⟨_, put, rfl, rfl, rfl, rfl, epoch⟩
  case oldPart =>
    intro s v i bs old acc r b x j sets cores p fields part
    refine ⟨fun define_ held enough => ?_, fun remove empty => ?_⟩
    · rw [exec_definePartition, takeRequest_done acc (doDefinePartition_defined (r := headReq v.val i bs) (w := work s) rfl rfl rfl rfl
        part (p := { old with sets := sets }) rfl fields define_ held enough)]
      rfl
    · rw [exec_definePartition, takeRequest_done acc (doDefinePartition_removed (r := headReq v.val i bs) (w := work s) rfl rfl part
        fields remove empty)]
      rfl
  case prefetch =>
    intro s v i bs p acc a n spans part some_ few listed within held warms mapped
    refine gives_of_update (exec_prefetch ..) acc (doPrefetch_performed (r := headReq v.val i bs) (w := work s) rfl rfl rfl rfl part some_
      few listed within held warms mapped) fun fns ns l fw out => ⟨?_, fun x hx k hk => ?_⟩
    · rw [Dev.vd]
      dsimp only
      rw [prefetched_vds]
      exact partsChanged_same (fun p => { p with lastPrefetch := s.dev.hlcOf v.val }) held
    · rw [Dev.die]
      exact (prefetched_prefetch v.val spans _ k).symm ▸ mem_prefetch_spansSent hx (mem_spanDies_partsChanged (v := v.val) _ hk)
  case endWarming =>
    intro s v i bs p acc n number held
    refine gives_of_update (exec_endWarming ..) acc
      (doEndWarming_performed (r := headReq v.val i bs) (w := work s) rfl number held) fun fns ns l fw out => ⟨?_, fun j hj => ?_⟩
    · rw [Dev.vd]
      dsimp only
      rw [stopWarming_vds]
      exact partsChanged_same _ held
    · rw [Dev.vd]
      dsimp only
      rw [stopWarming_vds]
      exact partsChanged_ne _ hj
  case timeout =>
    intro s v n p held warming
    refine ⟨_, exec_warmingTimeout .., ?_⟩
    rw [warmingExpired_of_warming held warming]
    refine ⟨?_, stopWarming_clk ..⟩
    rw [Dev.vd, stopWarming_vds]
    exact partsChanged_same _ (by rw [advance_parts]; exact held)
  case warm =>
    intro s v n cold
    rw [exec_warmingTimeout, warmingExpired_of_warm cold]
  case pass =>
    intro s n test wanted noScrubbed
    refine gives_of_selfTest fun e he => ?_
    have none_ := coresIn_admitCore (n := n.val) (pass := true) noScrubbed
    rw [he.core, doSelfTest_of_admitted test wanted, goOn_of_none_scrubbed none_, admitCore_testEnded_state]
  case passed =>
    intro s n test wanted
    exact ⟨_, exec_coreSelfTestDone .., by rw [doSelfTest_of_admitted test wanted]; rfl⟩
  case unwanted =>
    intro s n test unwanted noScrubbed
    have none_ := coresIn_retiredFor (n := n.val) 3 (pass := true) noScrubbed
    refine gives_of_selfTest fun e he => ?_
    rw [he.core, he.unit, doSelfTest_of_adminOut test unwanted, goOn_of_none_scrubbed none_]
    exact ⟨retiredFor_state .., retiredFor_cause ..⟩
  case unbound =>
    intro s n test unbound
    have out : ((retiredFor n.val 1 (testEnded n.val false s.dev)).core n.val).state = .retired := retiredFor_state ..
    obtain ⟨state, record⟩ := nextSpare_keeps (c := n.val / 68) (n := n.val) (d := retiredFor n.val 1 (testEnded n.val false s.dev))
      (by simp [out]) (by simp [out])
    refine gives_of_selfTest fun e he => ?_
    rw [he.core, he.unit, doSelfTest_of_unbound test unbound, state, record]
    exact ⟨out, retiredFor_cause ..⟩
  case bound =>
    intro s n v test bound
    exact ⟨_, exec_coreSelfTestDone .., by rw [doSelfTest_of_bound test bound]; rfl⟩
  case returning =>
    intro s n ret
    obtain ⟨passed, failed⟩ := doSelfTest_of_returning ret
    refine ⟨gives_of_selfTest fun e he => ?_, gives_of_selfTest fun e he => ⟨?_, ?_⟩⟩
    · rw [he.core, passed, admitCore_testEnded_state]
    · rw [he.core, failed, retiredFor_state]
    · rw [he.unit, failed, retiredFor_cause]
  case idle =>
    intro s n pass test ret
    rw [exec_coreSelfTestDone, doSelfTest_of_idle pass test ret, announce_self]

end Sys2Proof.Machine
end

section
/-! The copy of a channel (Table 9-8 steps 3 and 4): every byte of its tenant memory is at the target under its key. -/

namespace Sys2Proof.Machine

open Sys2Proof

theorem Tab.get?_eq_none_of_not_mem {α : Type} {t : Tab α} {i : Nat} (h : i ∉ t.map Prod.fst) : Tab.get? t i = none := by
  induction t with
  | nil => rfl
  | cons p t ih =>
    obtain ⟨hne, ht⟩ : i ≠ p.1 ∧ i ∉ t.map Prod.fst := by simpa using h
    rw [Tab.get?, if_neg (Ne.symm hne)]
    exact ih ht

/-- Device memory as a command's writes will leave it. -/
def Wk.will (w : Wk) : Memory := w.mem.commit w.log

section
variable {w : Wk} {m : Memory}

/-- A byte of memory that a list of writes has made read as `b` under `k`. -/
def Memory.holds (m : Memory) (a : Nat) (b : Byte) (k : KeyId) : Prop := m.raw a = b ∧ m.keyAt a = k

theorem Wk.will_put (w : Wk) (k : KeyId) (a : Nat) (b : Byte) : (w.put k a [b]).will = w.will.write ⟨a, k, b⟩ := by
  rw [Wk.put, Wk.put, Wk.will, Wk.will, Memory.commit, List.foldr_cons, Memory.commit]

theorem Wk.will_wf (h : w.mem.wf = true) : w.will.wf = true := Memory.commit_wf _ _ h

theorem Wk.put_holds_same (wf : w.mem.wf = true) {a : Nat} (ha : a < memBytes) (k : KeyId) (b : Byte) : (w.put k a [b]).will.holds a b k := by
  rw [Wk.will_put]
  exact ⟨Memory.raw_write_same _ ⟨a, k, b⟩ (Wk.will_wf wf) ha, Memory.keyAt_write_same _ ⟨a, k, b⟩ (Wk.will_wf wf) ha⟩

theorem Wk.put_holds_ne {a x : Nat} (hx : a ≠ x) {b c : Byte} {k l : KeyId} (h : w.will.holds a b k) :
    (w.put l x [c]).will.holds a b k := by
  rw [Wk.will_put]
  exact ⟨(Memory.raw_write_ne _ ⟨x, l, c⟩ hx).trans h.1, (Memory.keyAt_write_ne _ ⟨x, l, c⟩ hx).trans h.2⟩

/-- An address that neither table of memory lists reads as an empty byte. -/
theorem Memory.holds_empty {a : Nat} (hc : a ∉ m.cells.map Prod.fst) (hk : a ∉ m.keys.map Prod.fst) : m.holds a emptyByte .slot0 := by
  refine ⟨?_, ?_⟩
  · rw [Memory.raw, Tab.getD, Tab.get?_eq_none_of_not_mem hc]
    rfl
  · rw [Memory.keyAt, Tab.getD, Tab.get?_eq_none_of_not_mem hk]
    rfl

/-! ## The writes of a copy -/

/-- Zeros under key slot 0 at listed addresses. -/
def Wk.zeroed (as : List Nat) (w : Wk) : Wk := as.foldl (fun w a => w.put .slot0 a [emptyByte]) w

/-- The bytes of listed addresses with their keys, at the same places of channel `t`. -/
def Wk.copied (t : Nat) (as : List Nat) (w : Wk) : Wk := as.foldl (fun w a => w.put (w.mem.keyAt a) (cellAt t (a % chanBytes)) [w.mem.raw a]) w

variable (as : List Nat)

theorem Wk.zeroed_mem (w : Wk) : (w.zeroed as).mem = w.mem :=
  List.foldlRecOn as _ (motive := fun u : Wk => u.mem = w.mem) rfl fun _ hu _ _ => hu
theorem Wk.zeroed_dev (w : Wk) : (w.zeroed as).dev = w.dev :=
  List.foldlRecOn as _ (motive := fun u : Wk => u.dev = w.dev) rfl fun _ hu _ _ => hu
theorem Wk.copied_mem (t : Nat) (w : Wk) : (w.copied t as).mem = w.mem :=
  List.foldlRecOn as _ (motive := fun u : Wk => u.mem = w.mem) rfl fun _ hu _ _ => hu
theorem Wk.copied_dev (t : Nat) (w : Wk) : (w.copied t as).dev = w.dev :=
  List.foldlRecOn as _ (motive := fun u : Wk => u.dev = w.dev) rfl fun _ hu _ _ => hu

variable {as}

theorem Wk.zeroed_other {a : Nat} (ha : a ∉ as) {b : Byte} {k : KeyId} (h : w.will.holds a b k) : (w.zeroed as).will.holds a b k :=
  List.foldlRecOn as _ (motive := fun u : Wk => u.will.holds a b k) h fun _ hu _ hx =>
    Wk.put_holds_ne (ne_of_mem_of_not_mem hx ha).symm hu

theorem Wk.zeroed_listed (wf : w.mem.wf = true) {a : Nat} (ha : a ∈ as) (hm : a < memBytes) : (w.zeroed as).will.holds a emptyByte .slot0 := by
  have zero (u : Wk) (hu : u.mem.wf = true) : (u.put .slot0 a [emptyByte]).will.holds a emptyByte .slot0 :=
    Wk.put_holds_same hu hm ..
  refine (foldl_of_mem ha (f := fun (w : Wk) a => w.put .slot0 a [emptyByte]) (fun u : Wk => u.mem.wf = true)
    (fun u => u.mem.wf = true ∧ u.will.holds a emptyByte .slot0)
    (fun _ _ h => h) (fun u hu => ⟨hu, zero u hu⟩) (fun u x ⟨hu, hz⟩ => ⟨hu, ?_⟩) wf).2
  by_cases hx : a = x
  · subst hx
    exact zero u hu
  · exact Wk.put_holds_ne hx hz

/-- A place where a copy puts nothing but the byte that is there keeps it. -/
theorem Wk.copied_kept (wf : w.mem.wf = true) {t a : Nat} (hm : a < memBytes) {b : Byte} {k : KeyId}
    (same : ∀ x ∈ as, cellAt t (x % chanBytes) = a → w.mem.holds x b k) (h : w.will.holds a b k) : (w.copied t as).will.holds a b k := by
  suffices (w.copied t as).mem = w.mem ∧ (w.copied t as).will.holds a b k from this.2
  refine List.foldlRecOn as _ (motive := fun u : Wk => u.mem = w.mem ∧ u.will.holds a b k) ⟨rfl, h⟩ fun u ⟨hu, hh⟩ x hx => ⟨hu, ?_⟩
  by_cases hxa : cellAt t (x % chanBytes) = a
  · obtain ⟨raw, key⟩ := same x hx hxa
    rw [hxa, hu, raw, key]
    exact Wk.put_holds_same (by rw [hu]; exact wf) hm ..
  · exact Wk.put_holds_ne (Ne.symm hxa) hh

/-- A listed address that alone is copied to its place is there after the copy. -/
theorem Wk.copied_listed (wf : w.mem.wf = true) {t a : Nat} (ha : a ∈ as) (hm : cellAt t (a % chanBytes) < memBytes)
    (alone : ∀ x ∈ as, cellAt t (x % chanBytes) = cellAt t (a % chanBytes) → x = a) :
    (w.copied t as).will.holds (cellAt t (a % chanBytes)) (w.mem.raw a) (w.mem.keyAt a) := by
  obtain ⟨l, r, rfl⟩ := List.append_of_mem ha
  have before : (w.copied t l).mem = w.mem := Wk.copied_mem l t w
  rw [Wk.copied, List.foldl_append, List.foldl_cons]
  refine Wk.copied_kept (w := (w.copied t l).put _ _ [_]) (by exact before ▸ wf) hm (fun x hx h => ?_) ?_
  · rw [alone x (by simp [hx]) h]
    exact ⟨congrArg (fun m : Memory => m.raw a) before, congrArg (fun m : Memory => m.keyAt a) before⟩
  · rw [← before]
    exact Wk.put_holds_same (by rw [before]; exact wf) hm ..

end

/-! ## Addresses of a channel -/

section
variable {c t o x : Nat} (ho : o < tenantBytes)
include ho

theorem chanOf_cellAt : chanOf (cellAt c o) = c := by
  unfold chanOf cellAt
  unfold tenantBytes at ho
  unfold chanBytes
  omega

theorem cellAt_mod : cellAt c o % chanBytes = o := by
  unfold cellAt
  unfold tenantBytes at ho
  unfold chanBytes
  omega

theorem cellAt_lt_memBytes (hc : c < 1024) : cellAt c o < memBytes := by
  unfold cellAt memBytes
  unfold tenantBytes at ho
  unfold chanBytes
  omega

theorem moved_ne_of_chan_ne (htc : t ≠ c) : cellAt c o ≠ cellAt t (x % chanBytes) := by
  unfold cellAt
  unfold tenantBytes at ho
  unfold chanBytes
  omega

end

/-- Of the addresses of channel `c`, the one at the same place goes to an address of the target. -/
theorem eq_cellAt_of_moved {c t o x : Nat} (hx : chanOf x = c) (h : cellAt t (x % chanBytes) = cellAt t o) : x = cellAt c o := by
  unfold chanOf at hx
  unfold cellAt at h ⊢
  unfold chanBytes at *
  omega

/-! ## The copy -/

/-- The addresses of tenant memory that memory lists. -/
def Memory.tenants (m : Memory) : List Nat :=
  ((m.cells.map Prod.fst ++ m.keys.map Prod.fst).eraseDups).filter fun a => decide (a % chanBytes < tenantBytes)

theorem Memory.mem_tenants {m : Memory} {c o : Nat} (ho : o < tenantBytes) : cellAt c o ∈ m.tenants ↔
    cellAt c o ∈ m.cells.map Prod.fst ∨ cellAt c o ∈ m.keys.map Prod.fst := by
  rw [Memory.tenants, List.mem_filter, List.mem_eraseDups, List.mem_append, cellAt_mod ho]
  simp [ho]

theorem Memory.holds_of_not_tenant {m : Memory} {c o : Nat} (ho : o < tenantBytes) (h : cellAt c o ∉ m.tenants) :
    m.holds (cellAt c o) emptyByte .slot0 := by
  rw [Memory.mem_tenants ho, not_or] at h
  exact Memory.holds_empty h.1 h.2

/-- What a copy writes: the target is emptied, and the bytes of the channel are put there. -/
def copyWrites (c t : Nat) (w : Wk) : Wk :=
  (w.zeroed (w.mem.tenants.filter fun a => chanOf a == t)).copied t (w.mem.tenants.filter fun a => chanOf a == c)

section
variable {c t o : Nat} {w : Wk}

theorem copyWrites_target (wf : w.mem.wf = true) (fresh : w.log = []) (ho : o < tenantBytes) (ht : t < 1024) :
    (copyWrites c t w).will.holds (cellAt t o) (w.mem.raw (cellAt c o)) (w.mem.keyAt (cellAt c o)) := by
  have same (x : Nat) (hx : x ∈ w.mem.tenants.filter fun a => chanOf a == c) (h : cellAt t (x % chanBytes) = cellAt t o) : x = cellAt c o :=
    eq_cellAt_of_moved (by simpa using (List.mem_filter.mp hx).2) h
  by_cases listed : cellAt c o ∈ w.mem.tenants
  · have copied := Wk.copied_listed (w := w.zeroed (w.mem.tenants.filter fun a => chanOf a == t)) (t := t) (a := cellAt c o)
      (as := w.mem.tenants.filter fun a => chanOf a == c) (by rw [Wk.zeroed_mem]; exact wf)
      (List.mem_filter.mpr ⟨listed, by simp [chanOf_cellAt ho]⟩) (by rw [cellAt_mod ho]; exact cellAt_lt_memBytes ho ht)
      (fun x hx h => same x hx (by rw [h, cellAt_mod ho]))
    rwa [cellAt_mod ho, Wk.zeroed_mem] at copied
  · obtain ⟨raw, key⟩ := Memory.holds_of_not_tenant ho listed
    rw [raw, key]
    refine Wk.copied_kept (by rw [Wk.zeroed_mem]; exact wf) (cellAt_lt_memBytes ho ht)
      (fun x hx h => absurd (same x hx h ▸ (List.mem_filter.mp hx).1) listed) ?_
    by_cases old : cellAt t o ∈ w.mem.tenants
    · exact Wk.zeroed_listed wf (List.mem_filter.mpr ⟨old, by simp [chanOf_cellAt ho]⟩) (cellAt_lt_memBytes ho ht)
    · refine Wk.zeroed_other (fun h => old (List.mem_filter.mp h).1) ?_
      rw [Wk.will, fresh]
      exact Memory.holds_of_not_tenant ho old

theorem copyWrites_source (wf : w.mem.wf = true) (hc : c < 1024) (fresh : w.log = []) (ho : o < tenantBytes) (htc : t ≠ c) :
    (copyWrites c t w).will.holds (cellAt c o) (w.mem.raw (cellAt c o)) (w.mem.keyAt (cellAt c o)) := by
  refine Wk.copied_kept (by rw [Wk.zeroed_mem]; exact wf) (cellAt_lt_memBytes ho hc)
    (fun x _ h => absurd h.symm (moved_ne_of_chan_ne ho htc)) (Wk.zeroed_other (fun h => ?_) ?_)
  · have : chanOf (cellAt c o) = t := by simpa using (List.mem_filter.mp h).2
    exact htc (this.symm.trans (chanOf_cellAt ho))
  · rw [Wk.will, fresh]
    exact ⟨rfl, rfl⟩

end

/-- The `n` lines that a copy reads and writes, counted at both channels. -/
def copyCounted (c t n : Nat) (d : Dev) : Dev := countLines t 1 n (countLines c 0 n d)

/-- The poisoned lines of a channel, at the target too. -/
def poisonCopied (c t : Nat) (d : Dev) : Dev := d.onChan t fun k => { k with
  lost := (d.chan c).lost
  poison := (d.chan c).poison.map fun a => cellAt t (a % chanBytes) }

theorem copyChan_eq (c t : Nat) (w : Wk) :
    copyChan c t w = (copyWrites c t (w.on (copyCounted c t (w.dev.usedLines c)))).on (poisonCopied c t) := by
  unfold copyChan copyWrites poisonCopied copyCounted Wk.zeroed Wk.copied Memory.tenants
  dsimp only [Wk.on_mem, Wk.on_dev]

theorem copyWrites_dev (c t : Nat) (w : Wk) : (copyWrites c t w).dev = w.dev := (Wk.copied_dev ..).trans (Wk.zeroed_dev ..)

theorem copyWrites_mem (c t : Nat) (w : Wk) : (copyWrites c t w).mem = w.mem := (Wk.copied_mem ..).trans (Wk.zeroed_mem ..)

theorem copyChan_dev (c t : Nat) (w : Wk) : (copyChan c t w).dev = poisonCopied c t (copyCounted c t (w.dev.usedLines c) w.dev) := by
  rw [copyChan_eq, Wk.on_dev, copyWrites_dev, Wk.on_dev]

/-- A copy of a channel changes channels alone. -/
theorem copyChan_keeps (c t : Nat) (w : Wk) : ∃ l, (copyChan c t w).dev = { w.dev with mc := { w.dev.mc with chans := l } } :=
  ⟨_, copyChan_dev c t w⟩

section
variable {c t o : Nat} {s : State}

/-- Every byte of tenant memory is at the target under its key once the copy is made. -/
theorem copyChan_target (wf : s.mem.wf = true) (ho : o < tenantBytes) (ht : t < 1024) :
    (s.mem.commit (copyChan c t (work s)).log).holds (cellAt t o) (s.mem.raw (cellAt c o)) (s.mem.keyAt (cellAt c o)) := by
  have target := copyWrites_target (c := c) (t := t) (o := o) (w := (work s).on (copyCounted c t (s.dev.usedLines c))) wf rfl ho ht
  rw [Wk.will, copyWrites_mem] at target
  rw [copyChan_eq]
  exact target

theorem copyChan_source (wf : s.mem.wf = true) (ho : o < tenantBytes) (hc : c < 1024) (htc : t ≠ c) :
    (s.mem.commit (copyChan c t (work s)).log).holds (cellAt c o) (s.mem.raw (cellAt c o)) (s.mem.keyAt (cellAt c o)) := by
  have source := copyWrites_source (c := c) (t := t) (o := o) (w := (work s).on (copyCounted c t (s.dev.usedLines c))) wf hc rfl ho htc
  rw [Wk.will, copyWrites_mem] at source
  rw [copyChan_eq]
  exact source

end

end Sys2Proof.Machine
end

section
/-! Scrub, repair and training (R219, R221 … R224) and the retirement of channels (R209, R225 … R228, R428): what each step makes of a
channel, and that the host accesses that are held wait for nothing else. -/

namespace Sys2Proof.Machine

open Sys2Proof

/-! ## What a retirement leaves alone -/

/-- The device is `d` up to channels and what does not touch a die: the dies, the host accesses held, the phase records and the requests that
firmware has taken stand. -/
structure DiesKept (d e : Dev) : Prop where
  dies : e.mc.dies = d.mc.dies
  held : e.mc.held = d.mc.held
  records : e.records = d.records
  taken : ∀ fn, (e.fn fn).taken = (d.fn fn).taken

/-- The channels stand besides. -/
structure ChansKept (d e : Dev) : Prop extends DiesKept d e where
  chans : e.mc.chans = d.mc.chans

section
variable {d e f : Dev}

theorem DiesKept.refl (d : Dev) : DiesKept d d := ⟨rfl, rfl, rfl, fun _ => rfl⟩

theorem DiesKept.trans (hde : DiesKept d e) (hef : DiesKept e f) : DiesKept d f :=
  ⟨hef.dies.trans hde.dies, hef.held.trans hde.held, hef.records.trans hde.records, fun fn => (hef.taken fn).trans (hde.taken fn)⟩

theorem DiesKept.onChan (d : Dev) (c : Nat) (f : Channel → Channel) : DiesKept d (d.onChan c f) := ⟨rfl, rfl, rfl, fun _ => rfl⟩

theorem ChansKept.refl (d : Dev) : ChansKept d d := ⟨.refl d, rfl⟩

theorem ChansKept.trans (hde : ChansKept d e) (hef : ChansKept e f) : ChansKept d f :=
  ⟨hde.toDiesKept.trans hef.toDiesKept, hef.chans.trans hde.chans⟩

theorem ChansKept.foldl {α : Type} {f : Dev → α → Dev} (step : ∀ d a, ChansKept d (f d a)) (l : List α) (d : Dev) :
    ChansKept d (l.foldl f d) :=
  List.foldlRecOn l f (refl d) fun e he a _ => he.trans (step e a)

theorem ChansKept.chan (h : ChansKept d e) (c : Nat) : e.chan c = d.chan c := by rw [Dev.chan, Dev.chan, h.chans]

theorem ToldFrom.chansKept (h : ToldFrom d e) : ChansKept d e where
  dies := by rw [h.mc]
  held := by rw [h.mc]
  records := by rw [← h.rest]
  taken := h.taken
  chans := by rw [h.mc]

theorem DiesKept.quiet (h : DiesKept d e) (q : hostQuiet d) : hostQuiet e := by
  refine ⟨h.held.trans q.1, ?_⟩
  rw [h.taken]
  exact q.2

end

/-- A unit's cause recorded leaves memory and the virtual devices as they are. -/
theorem setCause_kept (k : UnitKind) (n cause : Nat) (d : Dev) : ChansKept d (setCause k n cause d) := by
  obtain ⟨_, h⟩ := setCause_told k n cause d
  have recorded := h.chansKept
  exact ⟨⟨recorded.dies, recorded.held, recorded.records, recorded.taken⟩, recorded.chans⟩

theorem setCause_vds (k : UnitKind) (n cause : Nat) (d : Dev) : (setCause k n cause d).vds = d.vds := by
  obtain ⟨_, h⟩ := setCause_told k n cause d
  rw [h.vds]
  rfl

/-! ## The retirement of a channel (R225, Table 9-8) -/

/-- A channel that enters RETIRING looks for a target. -/
def retiring (c cause : Nat) (d : Dev) : Dev := setCause .chan c cause (d.onChan c fun k => { k with
  state := .retiring
  target := retireTarget c d
  copied := false })

section
variable {c cause : Nat} {d : Dev}

theorem retiring_chan : (retiring c cause d).chan c = { d.chan c with
    state := .retiring
    target := retireTarget c d
    copied := false } := by
  rw [retiring, (setCause_kept ..).chan, Dev.chan_onChan_same]

theorem retireChan_told (h : (d.chan c).state = .inService) : ToldFrom (retiring c cause d) (retireChan c cause d) := by
  unfold retireChan
  rw [h]
  cases d.chanOwner c with
  | none => exact .refl _
  | some v => exact compositionChanged_told ..

theorem retireChan_of_out (h : (d.chan c).state = .retired ∨ (d.chan c).state = .unpowered) : retireChan c cause d = d := by
  unfold retireChan
  rcases h with h | h
  · rw [h]
  · rw [h]

theorem retiring_kept : DiesKept d (retiring c cause d) := (DiesKept.onChan ..).trans (setCause_kept ..).toDiesKept

theorem retireChan_kept : DiesKept d (retireChan c cause d) := by
  unfold retireChan
  dsimp only
  split
  · exact .refl d
  · exact .refl d
  · exact .refl d
  · exact retiring_kept.trans (compositionChanged_told ..).chansKept.toDiesKept
  · exact retiring_kept
  · exact retiring_kept
  · exact (DiesKept.onChan ..).trans (setCause_kept ..).toDiesKept

end

/-! ## Host accesses that are held (R219) -/

theorem endWithdraw_of_quiet {d : Dev} (q : hostQuiet d) (p : Nat) : endWithdraw p d = d := by
  obtain ⟨held, taken⟩ := q
  have unheld : d.cxlHeld p = false := by
    rw [Dev.cxlHeld, held]
    rfl
  have none_ : (d.fn mgr).taken.find? (fun t => t.2.op == .withdrawHdm p) = none := by
    rw [List.find?_eq_none]
    intro t ht hop
    have other := List.all_eq_true.mp taken t ht
    rw [beq_iff_eq.mp hop] at other
    exact Bool.false_ne_true other
  rw [endWithdraw, unheld, answerMgr, none_]
  rfl

/-- Where no host access is held and no WITHDRAW_HDM waits, a channel that serves again releases nothing. -/
theorem releaseHost_of_quiet {w : Wk} (q : hostQuiet w.dev) : releaseHost w = w := by
  have emptied : w.dev.onMc (fun m => { m with held := [] }) = w.dev := by
    rw [Dev.onMc, ← q.1]
  unfold releaseHost
  rw [q.1, List.foldl_nil, Wk.on, Wk.on, emptied]
  exact congrArg (fun d => { w with dev := d })
    (List.foldlRecOn (List.range 4) (fun d p => endWithdraw p d) (motive := fun d => d = w.dev) rfl fun d hd p _ => by
      rw [hd, endWithdraw_of_quiet q])

section
variable {i : Instr} {s : State} {f : Dev → Dev}

theorem exec_of_released (hi : exec i s = .next (after s (releaseHost ((work s).on f)))) (q : hostQuiet (f s.dev)) :
    exec i s = .next { s with dev := f s.dev } := by
  rw [hi, releaseHost_of_quiet q]
  rfl

/-- With nothing held, a command that releases what is held gives what it makes of the device. -/
theorem gives_of_released (hi : exec i s = .next (after s (releaseHost ((work s).on f)))) (q : hostQuiet s.dev)
    (kept : DiesKept s.dev (f s.dev)) {P : Dev → Prop} (hP : P (f s.dev)) : Gives i s P :=
  ⟨_, exec_of_released hi (kept.quiet q), hP⟩

theorem exec_of_released_self (hi : exec i s = .next (after s (releaseHost ((work s).on f)))) (q : hostQuiet s.dev) (same : f s.dev = s.dev) :
    exec i s = .next s := by
  rw [exec_of_released hi (by rw [same]; exact q), same]

end

/-! ## Patrol scrub (R221) -/

theorem exec_patrolScrub (c : Chan) (line : Nat) (corrected written bad : Bool) (s : State) :
    exec (.patrolScrub c line corrected written bad) s = .next { s with dev := doPatrol c.val line corrected written bad s.dev } := rfl

/-- The counts of a patrol read: the line, and the end of a pass. -/
def patrolled (c line : Nat) (d : Dev) : Dev :=
  if line + 1 = chanLines then countCh c 8 (countCh c 0 d) else countCh c 0 d

theorem serves_of_mem {st : ChState} (h : st ∈ [ChState.inService, .repairing, .retiring]) :
    (st == .inService || st == .repairing || st == .retiring) = true := by
  simpa [or_assoc] using h

theorem not_serves_of_not_mem {st : ChState} (h : st ∉ [ChState.inService, .repairing, .retiring]) :
    (st == .inService || st == .repairing || st == .retiring) = false := by
  simpa [and_assoc] using h

section
variable {c line : Nat} {d : Dev}

/-- A line of a channel in service is read, and what the read met follows. -/
theorem doPatrol_of_serving (serves : (d.chan c).state ∈ [ChState.inService, .repairing, .retiring]) (hl : line < chanLines)
    (corrected written bad : Bool) : doPatrol c line corrected written bad d =
      if poisoned d (cellAt c (64 * line)) then patrolled c line d
      else if bad then badLine (cellAt c (64 * line)) (patrolled c line d)
      else if corrected then
        if written then correctedRead (cellAt c (64 * line)) (patrolled c line d)
        else countCh c 1 (correctedRead (cellAt c (64 * line)) (patrolled c line d))
      else patrolled c line d := by
  unfold doPatrol
  dsimp only
  rw [serves_of_mem serves, decide_eq_false (Nat.not_le.mpr hl)]
  exact if_neg (by simp)

theorem doPatrol_of_not_read (h : (d.chan c).state ∉ [ChState.inService, .repairing, .retiring] ∨ chanLines ≤ line)
    (corrected written bad : Bool) : doPatrol c line corrected written bad d = d := by
  unfold doPatrol
  dsimp only
  rcases h with h | h
  · rw [not_serves_of_not_mem h]
    exact if_pos rfl
  · rw [decide_eq_true h, Bool.or_true]
    exact if_pos rfl

end

/-! ## Soft repair (R222, R223) -/

section
variable {c : Nat} {d : Dev}

theorem exec_softRepairDone (c : Chan) (s : State) :
    exec (.softRepairDone c) s = .next (after s (releaseHost ((work s).on (doRepaired c.val)))) := rfl

theorem doRepaired_of_none (h : (d.chan c).repairs = []) : doRepaired c d = d := by
  rw [doRepaired, h]
  rfl

theorem doRepaired_of_some (h : (d.chan c).repairs ≠ []) :
    doRepaired c d = countLines c 1 (Config.rowLines c) (d.onChan c Channel.repaired) := by
  rw [doRepaired, if_neg (by simpa using h)]

theorem doRepaired_chan_ne {k : Nat} (hk : k ≠ c) : (doRepaired c d).chan k = d.chan k := by
  unfold doRepaired
  split
  · rfl
  · rw [countLines, Dev.chan_onChan_ne _ _ hk, Dev.chan_onChan_ne _ _ hk]

theorem doRepaired_kept : DiesKept d (doRepaired c d) := by
  unfold doRepaired
  split
  · exact .refl d
  · exact (DiesKept.onChan ..).trans (DiesKept.onChan ..)

/-! ## Training (R219, R224) -/

theorem exec_channelRetrainDone (c : Chan) (ok : Bool) (s : State) :
    exec (.channelRetrainDone c ok) s = .next (after s (releaseHost ((work s).on (doRetrain c.val ok)))) := rfl

/-- A channel that goes on where it was when it lost training. -/
def resumed (c : Nat) (d : Dev) : Dev := (countCh c 9 d).onChan c fun k => { k with
  state := k.resume
  retrains := 0 }

theorem resumed_chan : ((resumed c d).chan c).state = (d.chan c).resume ∧ ((resumed c d).chan c).retrains = 0 := by
  rw [resumed, Dev.chan_onChan_same, countCh, Dev.chan_onChan_same]
  exact ⟨rfl, rfl⟩

theorem resumed_kept : DiesKept d (resumed c d) := (DiesKept.onChan ..).trans (DiesKept.onChan ..)

section
variable (training : (d.chan c).state = .training) (resume : (d.chan c).resume ∉ [ChState.unpowered, .retired])
include training resume

theorem doRetrain_of_trained : doRetrain c true d = resumed c d := by
  obtain ⟨powered, used⟩ : (d.chan c).resume ≠ .unpowered ∧ (d.chan c).resume ≠ .retired := by simpa using resume
  simp [doRetrain, training, powered, used, resumed]

theorem doRetrain_of_failed_once (h : (d.chan c).retrains = 0) :
    doRetrain c false d = (countCh c 9 d).onChan c fun k => { k with retrains := 1 } := by
  obtain ⟨powered, used⟩ : (d.chan c).resume ≠ .unpowered ∧ (d.chan c).resume ≠ .retired := by simpa using resume
  simp [doRetrain, training, powered, used, h]

theorem doRetrain_of_failed_twice (h : (d.chan c).retrains ≠ 0) : doRetrain c false d = retireChan c 2 (resumed c d) := by
  obtain ⟨powered, used⟩ : (d.chan c).resume ≠ .unpowered ∧ (d.chan c).resume ≠ .retired := by simpa using resume
  simp [doRetrain, training, powered, used, h, resumed]

end

theorem doRetrain_of_cold (training : (d.chan c).state = .training) (resume : (d.chan c).resume = .unpowered) (cold : d.boot.cold = true) :
    doRetrain c true d = d.onChan c fun k => { k with state := .scrubbing } := by
  simp [doRetrain, training, resume, cold]

theorem doRetrain_of_idle {ok : Bool} (h : (d.chan c).state ≠ .training ∨ (d.chan c).resume = .retired ∨
    ((d.chan c).resume = .unpowered ∧ (d.boot.cold = false ∨ ok = false))) : doRetrain c ok d = d := by
  rcases h with h | h | ⟨h, h' | h'⟩
  · simp [doRetrain, h]
  · simp [doRetrain, h]
  · simp [doRetrain, h, h']
  · simp [doRetrain, h, h']

/-- The channel as it loses training. -/
def trainingLost (c : Nat) (d : Dev) : Dev :=
  if (d.chan c).state == .inService || (d.chan c).state == .repairing || (d.chan c).state == .retiring then
    raiseSrc d.schedHub (0x121 + c / 32) (d.onChan c fun k => { k with
      state := .training
      retrains := 0
      resume := (d.chan c).state })
  else d

theorem exec_channelTrainingLoss (c : Chan) (s : State) :
    exec (.channelTrainingLoss c) s = .next { s with dev := trainingLost c.val s.dev } := rfl

/-! ## Retirement (R225, R226) -/

theorem exec_channelRetire (c : Chan) (s : State) : exec (.channelRetire c) s = .next { s with dev := doChannelRetire c.val s.dev } := rfl

theorem doChannelRetire_of_not_retiring (h : (d.chan c).state ≠ .retiring) :
    doChannelRetire c d = retireChan c 2 (raiseSrc d.schedHub (0x121 + c / 32) d) :=
  if_neg (by
    change ¬((d.chan c).state == .retiring) = true
    simpa using h)

theorem exec_retiringNoticeTimer (c : Chan) (s : State) :
    exec (.retiringNoticeTimer c) s = .next { s with dev := doRetiringNotice c.val s.dev } := rfl

theorem doRetiringNotice_of_waiting (retiring : (d.chan c).state = .retiring) (target : (d.chan c).target = none) :
    doRetiringNotice c d = (match retireTarget c d with
      | some t => d.onChan c fun k => { k with
        target := some t
        copied := false }
      | none => match d.chanOwner c with
        | some v => compositionChanged v 2 [(.chan, c)] d
        | none => d) := by
  unfold doRetiringNotice
  rw [retiring, target]
  rfl

theorem doRetiringNotice_of_idle (h : (d.chan c).state ≠ .retiring ∨ (d.chan c).target ≠ none) : doRetiringNotice c d = d := by
  unfold doRetiringNotice
  rcases h with h | h
  · simp [h]
  · simp [Option.isSome_iff_ne_none.mpr h]

end

/-! ## The copy of a retiring channel (Table 9-8 steps 3 to 5) -/

theorem exec_channelCopyDone (c : Chan) (s : State) : exec (.channelCopyDone c) s = .next (after s (doCopyDone c.val (work s))) := rfl

/-- The device once a retiring channel has been copied and its region has moved. -/
def regionMoved (c t : Nat) (d : Dev) : Dev := moveRegion c t (d.onChan c fun k => { k with copied := true })

/-- A free channel that has been copied leaves. -/
def freeLeaves (c : Nat) (d : Dev) : Dev := d.onSched fun s => { s with leaving := s.leaving ++ [⟨.chan, c, 256, 0, [], true, true, false⟩] }

/-- A composition in whose sets and list the target has taken the place of a channel. -/
def targetJoins (v c t : Nat) (d : Dev) : Dev := (replaceChan v c t (keepMaps v d)).onVd v fun x =>
  { x with chans := (x.chans.filter (· != c)) ++ (if x.chans.contains t then [] else [t]) }

/-- A bound channel that has been copied leaves its composition, and the target takes its place. -/
def boundLeaves (v c t : Nat) (d : Dev) : Dev :=
  compositionChanged v 2 [(.chan, c), (.chan, t)] (stampSets v t (publishChange v (d.vd v) [(.chan, c)] true [] (targetJoins v c t d)))

section
variable {c t : Nat} {w : Wk}

theorem doCopyDone_of_idle (h : (w.dev.chan c).target = none ∨ (w.dev.chan c).copied = true) : doCopyDone c w = w := by
  unfold doCopyDone
  dsimp only
  rcases h with h | h
  · rw [h]
  · split
    · rfl
    · exact if_pos h

variable (target : (w.dev.chan c).target = some t) (uncopied : (w.dev.chan c).copied = false)
include target uncopied

theorem doCopyDone_log : (doCopyDone c w).log = (copyChan c t w).log := by
  unfold doCopyDone
  dsimp only
  rw [target]
  dsimp only
  rw [uncopied, if_neg Bool.false_ne_true]
  generalize copyChan c t w = u
  split
  · split
    · rfl
    · rfl
  · rfl

theorem doCopyDone_dev_of_free (retiring : (w.dev.chan c).state = .retiring)
    (free : (regionMoved c t (copyChan c t w).dev).chanOwner c = none) :
    (doCopyDone c w).dev = freeLeaves c (regionMoved c t (copyChan c t w).dev) := by
  unfold doCopyDone
  dsimp only
  rw [target]
  dsimp only
  rw [uncopied, if_neg Bool.false_ne_true, retiring, if_pos (beq_self_eq_true ChState.retiring)]
  generalize copyChan c t w = u at free ⊢
  rw [regionMoved] at free
  rw [Wk.on_dev, Wk.on_dev, free]
  rfl

theorem doCopyDone_dev_of_bound (retiring : (w.dev.chan c).state = .retiring) {v : Nat}
    (bound : (regionMoved c t (copyChan c t w).dev).chanOwner c = some v) :
    (doCopyDone c w).dev = boundLeaves v c t (regionMoved c t (copyChan c t w).dev) := by
  unfold doCopyDone
  dsimp only
  rw [target]
  dsimp only
  rw [uncopied, if_neg Bool.false_ne_true, retiring, if_pos (beq_self_eq_true ChState.retiring)]
  generalize copyChan c t w = u at bound ⊢
  rw [regionMoved] at bound
  rw [Wk.on_dev, Wk.on_dev, bound]
  rfl

end

section
variable (c t : Nat) (d : Dev)

theorem regionMoved_regions : Tab.get? (regionMoved c t d).mc.regions c = some t := Tab.get?_put_same ..

theorem regionMoved_leaving : (regionMoved c t d).sched = d.sched := rfl

/-- The region of a channel that moves leaves every channel bound to what it was bound to. -/
theorem regionMoved_chanOwner (k : Nat) : (regionMoved c t d).chanOwner k = d.chanOwner k := by
  rw [Dev.chanOwner, Dev.chanOwner, Dev.boundTo, Dev.boundTo]
  refine (congrArg (Option.map Prod.fst) (List.find?_map ..)).trans ?_
  rw [Option.map_map]
  rfl

theorem copyChan_chanOwner (w : Wk) (k : Nat) : (copyChan c t w).dev.chanOwner k = w.dev.chanOwner k := by
  obtain ⟨l, h⟩ := copyChan_keeps c t w
  rw [h]
  rfl

theorem boundLeaves_regions (v : Nat) : (boundLeaves v c t d).mc.regions = d.mc.regions := by
  obtain ⟨l, w, x, h⟩ := publishChange_spec v (targetJoins v c t d) (d.vd v) [(.chan, c)] true []
  rw [boundLeaves, (compositionChanged_told ..).mc, h]
  rfl

theorem boundLeaves_chans (v : Nat) : ((boundLeaves v c t d).vd v).chans = ((targetJoins v c t d).vd v).chans := by
  obtain ⟨l, w, x, h⟩ := publishChange_spec v (targetJoins v c t d) (d.vd v) [(.chan, c)] true []
  rw [boundLeaves, (compositionChanged_told ..).vd, h]
  exact nextMap_vd_chans ..

theorem targetJoins_chans (htc : t ≠ c) (v : Nat) : c ∉ ((targetJoins v c t d).vd v).chans ∧ t ∈ ((targetJoins v c t d).vd v).chans := by
  rw [targetJoins, Dev.vd_onVd_same]
  dsimp only
  generalize ((replaceChan v c t (keepMaps v d)).vd v).chans = l
  by_cases h : t ∈ l
  · simp [h, htc]
  · simp [h, htc.symm]

end

/-! ## Mirrors (R428) -/

theorem exec_remirrorCopyDone (v : VDev) (n : SetId) (s : State) :
    exec (.remirrorCopyDone v n) s = .next (after s (doRemirror v.val n.val (work s))) := rfl

theorem fillMirrors_vds (ms : List (Nat × Nat)) (l : List Nat) (w : Wk) : (fillMirrors ms l w).dev.vds = w.dev.vds := by
  refine List.foldlRecOn _ _ (motive := fun u : Wk => u.dev.vds = w.dev.vds) rfl fun u hu m _ => ?_
  obtain ⟨l, h⟩ := copyChan_keeps m.1.1 m.2 u
  exact (congrArg Dev.vds h).trans hu

/-- A set of a virtual device that is mirrored again. -/
def mirroredAgain (v n : Nat) (l : List Nat) (d : Dev) : Dev := d.onVd v fun x =>
  { x with
    mirrors := Tab.put x.mirrors n l
    unmirrored := x.unmirrored.filter (· != n) }

section
variable {v n : Nat} {w : Wk}

theorem doRemirror_of_idle (h : (w.dev.vd v).unmirrored.contains n = false ∨ (w.dev.set n).valid = false) : doRemirror v n w = w := by
  unfold doRemirror
  dsimp only
  rcases h with h | h
  · rw [h]
    rfl
  · rw [h, Bool.not_false, Bool.or_true]
    rfl

section
variable (lacks : (w.dev.vd v).unmirrored.contains n = true) (valid : (w.dev.set n).valid = true)
include lacks valid

theorem doRemirror_of_room {l : List Nat} (h : pickMirrors w.dev (w.dev.vd v) (w.dev.set n).members = some l) :
    doRemirror v n w = (fillMirrors (w.dev.set n).members l w).on (mirroredAgain v n l) := by
  unfold doRemirror
  dsimp only
  rw [lacks, valid, h]
  rfl

theorem doRemirror_of_no_room (h : pickMirrors w.dev (w.dev.vd v) (w.dev.set n).members = none) :
    doRemirror v n w = w.on (compositionChanged v 2 ((w.dev.set n).members.map fun m => (UnitKind.chan, m.1))) := by
  unfold doRemirror
  dsimp only
  rw [lacks, valid, h]
  rfl

end

end

/-! ## The loss of an MC die (R227) -/

theorem exec_mcDieLost (k : Die) (s : State) : exec (.mcDieLost k) s = .next (after s (releaseHost (doDieLost k.val (work s)))) := rfl

/-- A die is lost with the fence cells that it holds. -/
def dieGone (k : Nat) (d : Dev) : Dev :=
  let d := d.onDie k fun m => { m with
    lost := true
    prefetch := []
    cache := [] }
  d.onMc fun m => { m with cells := m.cells.map fun p =>
    (p.1, if cellDie p.1 = k || d.cellChan p.1 / 32 = k then { p.2 with lost := true } else p.2) }

/-- The waits of the cells of a die are notified. -/
def waitsTold (k : Nat) (d : Dev) : Dev :=
  ((d.fx.waits.map FWait.cell).eraseDups.filter fun i => cellDie i == k || d.cellChan i / 32 == k).foldl (fun d i => notifyWaits i d) d

/-- A channel of a lost die is out of service. -/
def chanGone (c : Nat) (d : Dev) : Dev := setCause .chan c 5 (d.onChan c fun x => { x with
  state := .retired
  target := none
  copied := false })

/-- The channels of a die go out of service. -/
def chansGone (k : Nat) (d : Dev) : Dev := ((List.range 32).map (32 * k + ·)).foldl (fun d c => chanGone c d) d

/-- Binaries that were kept on a die go. -/
def binariesGone (k : Nat) (d : Dev) : Dev :=
  d.onSched fun s => { s with binaries := Tab.put s.binaries k ((Tab.getD s.binaries k []).filter fun b => !b.overflow) }

/-- Virtual devices lose the channels of a die. -/
def compositionsLose (k : Nat) (vs : List Nat) (d : Dev) : Dev := vs.foldl (fun d v => loseChans v k d) d

/-- What the loss of a die makes of the device, before what becomes of the commands that used it. -/
def dieLost (k : Nat) (d : Dev) : Dev :=
  let e := binariesGone k (chansGone k (waitsTold k (dieGone k d)))
  compositionsLose k (e.vds.map Prod.fst) (moveJournal k (raiseSrc e.schedHub (0x121 + k) e))

theorem loseRecords_of_none {k : Nat} {w : Wk} (h : w.dev.records = []) : loseRecords k w = w := by
  unfold loseRecords
  rw [h]
  rfl

theorem doDieLost_of_lost {k : Nat} {w : Wk} (h : (w.dev.die k).lost = true) : doDieLost k w = w := if_pos h

theorem doDieLost_of_idle {k : Nat} {w : Wk} (h : (w.dev.die k).lost = false) (idle : ∀ v x, (v, x) ∈ w.dev.vds → x.queues = [])
    (none_ : (dieLost k w.dev).records = []) : doDieLost k w = w.on (dieLost k) := by
  have hits : (w.dev.vds.flatMap fun p => p.2.queues.filterMap fun y =>
      y.2.cur.bind fun c => (lossOf w.dev p.1 k c).map fun m => (p.1, y.1, m)) = [] := by
    rw [List.flatMap_eq_nil_iff]
    intro p hp
    rw [idle p.1 p.2 hp]
    rfl
  refine Eq.trans ?_ (loseRecords_of_none (k := k) (w := w.on (dieLost k)) none_)
  unfold doDieLost
  rw [if_neg (by simp [h])]
  refine congrArg (loseRecords k) ?_
  refine (congrArg (List.foldl _ _) hits).trans ?_
  rw [List.foldl_nil]
  refine congrArg (fun f => w.on f) ?_
  funext d
  unfold dieLost compositionsLose binariesGone chansGone chanGone waitsTold dieGone
  rfl

/-! What each stage leaves alone. -/

theorem publishChange_kept (v : Nat) (old : Vd) (leave : List (UnitKind × Nat)) (r : Bool) (l : List (Nat × Nat)) (d : Dev) :
    ChansKept d (publishChange v old leave r l d) := by
  obtain ⟨_, _, _, h⟩ := publishChange_spec v d old leave r l
  rw [h]
  exact ⟨⟨rfl, rfl, rfl, fun _ => rfl⟩, rfl⟩

theorem notifyWaits_kept (i : Nat) (d : Dev) : ChansKept d (notifyWaits i d) := by
  unfold notifyWaits
  extract_lets due e
  have forgotten : ChansKept d e := ⟨⟨rfl, rfl, rfl, fun _ => rfl⟩, rfl⟩
  have noted (src : FSrc) (o : Option Nat) (d : Dev) : ChansKept d (noteWait src o d) := ⟨⟨rfl, rfl, rfl, fun _ => rfl⟩, rfl⟩
  exact forgotten.trans (.foldl (fun _ _ => noted ..) due e)

theorem waitsTold_kept (k : Nat) (d : Dev) : ChansKept d (waitsTold k d) := .foldl (fun d i => notifyWaits_kept i d) _ d

theorem chanGone_kept (c : Nat) (d : Dev) : DiesKept d (chanGone c d) := (DiesKept.onChan ..).trans (setCause_kept ..).toDiesKept

theorem chanGone_state {c j : Nat} {d : Dev} (h : j = c ∨ (d.chan j).state = .retired) : ((chanGone c d).chan j).state = .retired := by
  rw [chanGone, (setCause_kept ..).chan]
  by_cases hj : j = c
  · subst hj
    rw [Dev.chan_onChan_same]
  · rw [Dev.chan_onChan_ne _ _ hj]
    exact h.resolve_left hj

theorem chansGone_kept (k : Nat) (d : Dev) : DiesKept d (chansGone k d) :=
  List.foldlRecOn _ (fun d c => chanGone c d) (motive := DiesKept d) (.refl d) fun e he c _ => he.trans (chanGone_kept c e)

theorem chansGone_state {k c : Nat} (hc : c / 32 = k) (d : Dev) : ((chansGone k d).chan c).state = .retired := by
  have listed : c ∈ (List.range 32).map (32 * k + ·) := List.mem_map.mpr ⟨c % 32, List.mem_range.mpr (by omega), by omega⟩
  exact foldl_of_mem listed (f := fun d c => chanGone c d) (fun _ => True) (fun e : Dev => (e.chan c).state = .retired) (fun _ _ _ => trivial)
    (fun _ _ => chanGone_state (.inl rfl)) (fun _ _ he => chanGone_state (.inr he)) trivial

theorem takeMirrors_kept (v : Nat) (ep : BitVec 32) (gone : Nat → Bool) (d : Dev) : ChansKept d (takeMirrors v ep gone d) := by
  unfold takeMirrors
  extract_lets hit sets take moved
  have put (d : Dev) (x : Nat × List Nat) : ChansKept d (take d x) := ⟨⟨rfl, rfl, rfl, fun _ => rfl⟩, rfl⟩
  exact (ChansKept.foldl put sets d).trans ⟨⟨rfl, rfl, rfl, fun _ => rfl⟩, rfl⟩

theorem loseChans_kept (v k : Nat) (d : Dev) : ChansKept d (loseChans v k d) := by
  have mirror (c : Prop) [Decidable c] : ChansKept d (if c then d.onVd v fun x => { x with mirrorLost := true } else d) := by
    split
    · exact ⟨⟨rfl, rfl, rfl, fun _ => rfl⟩, rfl⟩
    · exact .refl d
  unfold loseChans
  extract_lets gone e
  refine (show ChansKept d e from mirror _).trans ?_
  split
  · exact .refl e
  · have maps : ChansKept e (keepMaps v e) := ⟨⟨rfl, rfl, rfl, fun _ => rfl⟩, rfl⟩
    have listed (f : Vd → Vd) (x : Dev) : ChansKept x (x.onVd v f) := ⟨⟨rfl, rfl, rfl, fun _ => rfl⟩, rfl⟩
    exact (((maps.trans (takeMirrors_kept ..)).trans (listed ..)).trans (publishChange_kept ..)).trans (compositionChanged_told ..).chansKept

theorem moveJournal_kept (k : Nat) (d : Dev) : ChansKept d (moveJournal k d) := by
  unfold moveJournal renewCopies
  split
  · exact ⟨⟨rfl, rfl, rfl, fun _ => rfl⟩, rfl⟩
  · exact ⟨⟨rfl, rfl, rfl, fun _ => rfl⟩, rfl⟩

/-- After the channels of a die have gone, what follows leaves every channel and every die as it is. -/
theorem dieLost_kept (k : Nat) (d : Dev) : ChansKept (chansGone k (waitsTold k (dieGone k d))) (dieLost k d) := by
  have stored (e : Dev) : ChansKept e (binariesGone k e) := ⟨⟨rfl, rfl, rfl, fun _ => rfl⟩, rfl⟩
  exact (((stored _).trans (raiseSrc_told ..).chansKept).trans (moveJournal_kept ..)).trans (.foldl (fun d v => loseChans_kept v k d) _ _)

theorem dieGone_lost (k : Nat) (d : Dev) : ((dieGone k d).die k).lost = true := by
  rw [dieGone, Dev.die, Dev.onDie, Dev.onMc]
  exact congrArg McDie.lost (Tab.getD_put_same ..)

theorem dieLost_spec (k : Nat) (d : Dev) : ((dieLost k d).die k).lost = true ∧
    (∀ c, c / 32 = k → ((dieLost k d).chan c).state = .retired) ∧ (dieLost k d).records = d.records ∧
    (hostQuiet d → hostQuiet (dieLost k d)) := by
  have before : DiesKept (dieGone k d) (chansGone k (waitsTold k (dieGone k d))) := (waitsTold_kept ..).toDiesKept.trans (chansGone_kept ..)
  have kept := before.trans (dieLost_kept k d).toDiesKept
  refine ⟨?_, fun c hc => ?_, kept.records, fun q => kept.quiet q⟩
  · rw [Dev.die, kept.dies]
    exact dieGone_lost k d
  · rw [(dieLost_kept k d).chan]
    exact chansGone_state hc _

theorem cellLost_of_die {d : Dev} {i : Nat} (h : (d.die (cellDie i)).lost = true) : d.cellLost i = true := by
  rw [Dev.cellLost, h, Bool.or_true, Bool.true_or]

/-- Settles O48: each step of a scrub, a repair, a training, a copy or a loss does to its channel or die what the statement says, and
releases the host accesses that are held. -/
theorem scrubRepairAndRetirement : Obligations.ScrubRepairAndRetirement := by
  unfold Obligations.ScrubRepairAndRetirement
  refine ⟨?patrol, ?patrolOut, ?patrolPoisoned, ?release, ?repair, ?repairNone, ?loss, ?lossOut, ?retrain, ?cold, ?retrainIdle, ?retire,
    ?retireOut, ?copy, ?copyNone, ?notice, ?noticeOut, ?dieLost, ?dieLostTwice, ?remirror, ?remirrorOut⟩
  case patrol =>
    intro s c line written serves hl good a d1 d0
    have read (corrected written bad : Bool) := doPatrol_of_serving (d := s.dev) serves hl corrected written bad
    simp only [good, Bool.false_eq_true, if_false] at read
    refine ⟨⟨_, exec_patrolScrub .., read ..⟩, ⟨_, exec_patrolScrub .., read ..⟩, ⟨_, exec_patrolScrub .., read ..⟩, fun corrected =>
      ⟨_, exec_patrolScrub .., read ..⟩⟩
  case patrolOut =>
    intro s c line corrected written bad out
    rw [exec_patrolScrub, doPatrol_of_not_read out]
  case patrolPoisoned =>
    intro s c line corrected written bad serves hl poison
    refine ⟨_, exec_patrolScrub .., (doPatrol_of_serving serves hl corrected written bad).trans ?_⟩
    rw [if_pos poison]
    rfl
  case release =>
    exact fun s c ok => ⟨rfl, rfl⟩
  case repair =>
    intro s c row rest quiet repairs
    refine gives_of_released (exec_softRepairDone ..) quiet doRepaired_kept ?_
    have after_ (k : Channel) (hk : k.repairs = row :: rest) : k.repaired.repairs = rest ∧
        k.repaired.state = (if k.state = .repairing ∧ rest = [] then .inService else k.state) := by
      simp [Channel.repaired, hk]
    obtain ⟨left, state⟩ := after_ _ repairs
    refine ⟨?_, ?_, ?_, ?_, ?_, fun k hk => doRepaired_chan_ne hk⟩ <;>
      rw [doRepaired_of_some (by simp [repairs]), countLines, Dev.chan_onChan_same, Dev.chan_onChan_same]
    · exact left
    · rfl
    · exact state
    · rfl
    · rfl
  case repairNone =>
    intro s c quiet none_
    exact exec_of_released_self (exec_softRepairDone ..) quiet (doRepaired_of_none none_)
  case loss =>
    intro s c serves
    refine ⟨_, exec_channelTrainingLoss .., ?_⟩
    rw [trainingLost, if_pos (serves_of_mem serves)]
    refine ⟨?_, fun k hk => ?_, rfl⟩
    · rw [(raiseSrc_told ..).chansKept.chan, Dev.chan_onChan_same]
    · rw [(raiseSrc_told ..).chansKept.chan, Dev.chan_onChan_ne _ _ hk]
  case lossOut =>
    intro s c out
    rw [exec_channelTrainingLoss, trainingLost, if_neg (by rw [not_serves_of_not_mem out]; exact Bool.false_ne_true)]
  case retrain =>
    intro s c quiet training resume k
    refine ⟨?_, fun once => ?_, fun twice => ?_, fun twice service => ?_⟩
    · refine gives_of_released (exec_channelRetrainDone ..) quiet ?_ ?_
      · rw [doRetrain_of_trained training resume]
        exact resumed_kept
      · rw [doRetrain_of_trained training resume]
        exact resumed_chan
    · refine gives_of_released (exec_channelRetrainDone ..) quiet ?_ ?_
      · rw [doRetrain_of_failed_once training resume once]
        exact (DiesKept.onChan ..).trans (DiesKept.onChan ..)
      · rw [doRetrain_of_failed_once training resume once, Dev.chan_onChan_same, countCh, Dev.chan_onChan_same]
        exact ⟨training, rfl⟩
    · refine gives_of_released (exec_channelRetrainDone ..) quiet ?_ ?_
      · rw [doRetrain_of_failed_twice training resume twice]
        exact resumed_kept.trans retireChan_kept
      · exact doRetrain_of_failed_twice training resume twice
    · refine gives_of_released (exec_channelRetrainDone ..) quiet ?_ ?_
      · rw [doRetrain_of_failed_twice training resume twice]
        exact resumed_kept.trans retireChan_kept
      · have told := retireChan_told (c := c.val) (cause := 2) (d := resumed c.val s.dev) (resumed_chan.1.trans service)
        rw [doRetrain_of_failed_twice training resume twice, told.chansKept.chan, told.unit, retiring_chan]
        exact ⟨rfl, setCause_cause ..⟩
  case cold =>
    intro s c quiet training resume cold
    refine gives_of_released (exec_channelRetrainDone ..) quiet ?_ (doRetrain_of_cold training resume cold)
    rw [doRetrain_of_cold training resume cold]
    exact .onChan ..
  case retrainIdle =>
    intro s c ok quiet idle_
    exact exec_of_released_self (exec_channelRetrainDone ..) quiet (doRetrain_of_idle idle_)
  case retire =>
    intro s c service
    have told := retireChan_told (c := c.val) (cause := 2) (d := raiseSrc s.dev.schedHub (0x121 + c.val / 32) s.dev) service
    refine ⟨_, exec_channelRetire .., ?_⟩
    dsimp only
    rw [doChannelRetire_of_not_retiring (by rw [service]; exact nofun), told.chansKept.chan, told.unit, told.vds, retiring_chan]
    exact ⟨rfl, rfl, rfl, setCause_cause .., setCause_vds ..⟩
  case retireOut =>
    intro s c out
    refine ⟨_, exec_channelRetire .., ?_⟩
    have rests : (s.dev.chan c.val).state ≠ .retiring := by
      rcases out with h | h
      · simp [h]
      · simp [h]
    rw [doChannelRetire_of_not_retiring rests, retireChan_of_out (d := raiseSrc _ _ s.dev) out]
    exact ⟨rfl, rfl⟩
  case copy =>
    intro s c t target uncopied htc ht wf
    have log := doCopyDone_log (w := work s) target uncopied
    refine ⟨_, exec_channelCopyDone .., fun a ha => ?_, fun retiring_ => ?_⟩
    · obtain ⟨raw, key⟩ := copyChan_target (c := c.val) wf ha ht
      obtain ⟨rest, -⟩ := copyChan_source (t := t) wf ha c.isLt htc
      rw [after, log]
      exact ⟨raw, key, rest⟩
    · obtain ⟨l, hl⟩ := copyChan_keeps c.val t (work s)
      have owner := (regionMoved_chanOwner c.val t (copyChan c.val t (work s)).dev c.val).trans (copyChan_chanOwner ..)
      rcases free : s.dev.chanOwner c.val with _ | v
      · have left := doCopyDone_dev_of_free (w := work s) target uncopied retiring_ (owner.trans free)
        rw [after, left]
        refine ⟨regionMoved_regions .., fun _ => ?_, nofun⟩
        rw [freeLeaves, Dev.onSched, regionMoved_leaving, hl]
        rfl
      · have left := doCopyDone_dev_of_bound (w := work s) target uncopied retiring_ (owner.trans free)
        rw [after, left]
        refine ⟨?_, nofun, ?_⟩
        · rw [boundLeaves_regions]
          exact regionMoved_regions ..
        · rintro _ ⟨⟩
          rw [boundLeaves_chans]
          exact targetJoins_chans _ _ _ htc v
  case copyNone =>
    intro s c h
    rw [exec_channelCopyDone, doCopyDone_of_idle h]
    rfl
  case notice =>
    intro s c retiring_ target
    have waiting := doRetiringNotice_of_waiting retiring_ target
    refine ⟨fun t found => ⟨_, exec_retiringNoticeTimer .., ?_⟩, fun none_ v owner => ⟨_, exec_retiringNoticeTimer .., ?_⟩,
      fun none_ free => ?_⟩
    · rw [waiting, found]
    · rw [waiting, none_, owner]
    · rw [exec_retiringNoticeTimer, waiting, none_, free]
  case noticeOut =>
    intro s c h
    rw [exec_retiringNoticeTimer, doRetiringNotice_of_idle h]
  case dieLost =>
    intro s k quiet alive idle_ records
    obtain ⟨lost, chans, kept, quiet'⟩ := dieLost_spec k.val s.dev
    have lose := doDieLost_of_idle (w := work s) alive idle_ (kept.trans records)
    refine ⟨dieLost k.val s.dev, ?_, lost, chans, fun i hi => cellLost_of_die (by rw [hi]; exact lost)⟩
    exact exec_of_released (by rw [exec_mcDieLost, lose]) (quiet' quiet)
  case dieLostTwice =>
    intro s k quiet lost
    rw [exec_mcDieLost, doDieLost_of_lost (w := work s) lost, releaseHost_of_quiet (w := work s) quiet]
    rfl
  case remirror =>
    intro s v n lacks valid
    refine ⟨fun l room => ⟨_, exec_remirrorCopyDone .., ?_⟩, fun no_room => ?_⟩
    · rw [doRemirror_of_room (w := work s) lacks valid room, after, Wk.on_dev, mirroredAgain]
      dsimp only
      rw [Dev.vd_onVd_same, Dev.vd, fillMirrors_vds]
      exact ⟨Tab.get?_put_same .., rfl⟩
    · exact gives_of_on (exec_remirrorCopyDone ..) (doRemirror_of_no_room (w := work s) lacks valid no_room) rfl
  case remirrorOut =>
    intro s v n h
    rw [exec_remirrorCopyDone, doRemirror_of_idle (w := work s) h]
    rfl

end Sys2Proof.Machine
end

section
/-! Synchronisations (R240, R243, R244, R248, R258): what a request of one begins, what the bytes read, an invalidation, an
acknowledgement and a page copied make of the one in progress. -/

namespace Sys2Proof.Machine

open Sys2Proof

/-! ## A request (R243, R244) -/

theorem exec_xltSync (v : VDev) (req : BitVec 64) (s : State) :
    exec (.xltSync v req) s = .next (after s (syncRequest v.val req (work s))) := rfl

theorem exec_xltMoveAndSync (v : VDev) (req : BitVec 64) (s : State) :
    exec (.xltMoveAndSync v req) s = .next (after s (syncRequest v.val req (work s))) := rfl

/-- The synchronisation that a request asks for, under the registers of its function. -/
def syncAsked (f : Fn) (req : BitVec 64) : Sync :=
  ⟨BitVec.ofNat 32 (req.toNat / 2 ^ 32), bits req.toNat 3 0 == 2, .reading, f.syncFirst.toNat, f.syncSpan.toNat, f.masterCount.toNat,
    if bits req.toNat 3 0 = 2 then movePagesOf f else [], [], [], [], [], []⟩

/-- The synchronisation asked for is in progress. -/
def syncBegun (v : Nat) (req : BitVec 64) (d : Dev) : Dev := d.onVd v fun x => { x with sync := some (syncAsked (d.fn v) req) }

/-- A register that a request of operation `op` reads is out of its range (Table 10-3). -/
def syncRegsBad (f : Fn) (op : Nat) : Bool :=
  f.masterBase.toNat % 4096 ≠ 0 || 65536 < f.masterCount.toNat || 65536 < f.syncSpan.toNat ||
    (op = 2 && (f.moveVa.toNat % 65536 ≠ 0 || f.movePages.toNat < 1 || 16 < f.movePages.toNat))

theorem syncRegsBad_iff (f : Fn) (op : Nat) : syncRegsBad f op = true ↔
    f.masterBase.toNat % 4096 ≠ 0 ∨ 65536 < f.masterCount.toNat ∨ 65536 < f.syncSpan.toNat ∨
      (op = 2 ∧ (f.moveVa.toNat % 65536 ≠ 0 ∨ f.movePages.toNat < 1 ∨ 16 < f.movePages.toNat)) := by
  simp only [syncRegsBad, Bool.or_eq_true, Bool.and_eq_true, decide_eq_true_eq, or_assoc]

/-- An index of the new table has no source in the span or in the active table, whose length is `n` (R242). -/
def syncSourceless (f : Fn) (n : Nat) : Bool :=
  f.masterCount.toNat < f.syncFirst.toNat + f.syncSpan.toNat || (n < f.syncFirst.toNat && n < f.masterCount.toNat) ||
    (n < f.masterCount.toNat && f.syncFirst.toNat + f.syncSpan.toNat < f.masterCount.toNat)

section
variable {v : Nat} {req : BitVec 64} {w : Wk}

theorem syncRequest_of_closed (closed : w.dev.barOpen v = false) : syncRequest v req w = w := by
  simp [syncRequest, closed]

variable (opened : w.dev.barOpen v = true)
include opened

theorem syncRequest_of_busy (busy : (w.dev.vd v).sync.isSome = true) :
    syncRequest v req w = w.on fun d => d.onFn v fun f => { f with overrun := true } := by
  simp [syncRequest, opened, busy]

variable (idle : (w.dev.vd v).sync = none)
include idle

theorem syncRequest_of_reserved (not_sync : bits req.toNat 3 0 ≠ 1) (not_move : bits req.toNat 3 0 ≠ 2) :
    syncRequest v req w = w.on (postSyncDone v (BitVec.ofNat 32 (req.toNat / 2 ^ 32)) 2) := by
  simp [syncRequest, opened, idle, not_sync, not_move]

variable (known : bits req.toNat 3 0 = 1 ∨ bits req.toNat 3 0 = 2)
include known

theorem syncRequest_of_known : syncRequest v req w =
    if syncRegsBad (w.dev.fn v) (bits req.toNat 3 0) then completeSync v 2 (w.on (syncBegun v req))
    else if syncSourceless (w.dev.fn v) (w.dev.vd v).table.length then completeSync v 3 (w.on (syncBegun v req))
    else if (w.dev.fn v).syncSpan.toNat = 0 && !(w.dev.vd v).mirrorLost then
      checkSync v [] (syncAsked (w.dev.fn v) req) (w.on (syncBegun v req))
    else readMaster v (syncAsked (w.dev.fn v) req) (w.on (syncBegun v req)) := by
  have not_reserved : (decide (bits req.toNat 3 0 ≠ 1) && decide (bits req.toNat 3 0 ≠ 2)) = false := by
    rcases known with h | h <;> simp [h]
  unfold syncRequest
  dsimp only
  rw [opened, idle, not_reserved]
  rfl

theorem syncRequest_of_bad_regs (bad : syncRegsBad (w.dev.fn v) (bits req.toNat 3 0) = true) :
    syncRequest v req w = completeSync v 2 (w.on (syncBegun v req)) := by
  rw [syncRequest_of_known opened idle known, if_pos bad]

variable (good : syncRegsBad (w.dev.fn v) (bits req.toNat 3 0) = false)
include good

theorem syncRequest_of_sourceless (sourceless : syncSourceless (w.dev.fn v) (w.dev.vd v).table.length = true) :
    syncRequest v req w = completeSync v 3 (w.on (syncBegun v req)) := by
  rw [syncRequest_of_known opened idle known, if_neg (Bool.eq_false_iff.mp good), if_pos sourceless]

theorem syncRequest_of_sourced (sourced : syncSourceless (w.dev.fn v) (w.dev.vd v).table.length = false)
    (some_ : 0 < (w.dev.fn v).syncSpan.toNat) :
    syncRequest v req w = readMaster v (syncAsked (w.dev.fn v) req) (w.on (syncBegun v req)) := by
  have reads : ¬ (decide ((w.dev.fn v).syncSpan.toNat = 0) && !(w.dev.vd v).mirrorLost) = true := by simp [some_.ne']
  rw [syncRequest_of_known opened idle known, if_neg (Bool.eq_false_iff.mp good), if_neg (Bool.eq_false_iff.mp sourced), if_neg reads]

end

/-! ## The span read (Table 10-5 step 2, R248, R250) -/

theorem exec_syncMasterReadDone (v : VDev) (data : Option (List Byte)) (s : State) :
    exec (.syncMasterReadDone v data) s = .next (after s (doMasterRead v.val data (work s))) := rfl

section
variable {v : Nat} {y : Sync} {w : Wk}

theorem readMaster_of_refused (refused : ∃ p ∈ masterMissing w.dev v y, w.dev.priRefused v p = true) :
    readMaster v y w = completeSync v 5 w := by
  rw [readMaster, if_pos (List.any_eq_true.mpr refused)]

theorem readMaster_of_missing (missing : masterMissing w.dev v y ≠ [])
    (allowed : ∀ p ∈ masterMissing w.dev v y, w.dev.priRefused v p = false) :
    readMaster v y w = w.on fun d => (masterMissing w.dev v y).foldl (fun d p => askPage v p d) d := by
  have unrefused : ¬ ((masterMissing w.dev v y).any fun p => w.dev.priRefused v p) = true := by simpa using allowed
  rw [readMaster, if_neg unrefused, if_pos (by simpa using missing)]

theorem readMaster_of_whole (whole : masterMissing w.dev v y = []) :
    readMaster v y w = w.on fun d => d.emit (.masterRead v ((d.fn v).masterBase.toNat + 32 * y.first) (32 * y.span)) := by
  rw [readMaster, whole]
  rfl

variable (busy : (w.dev.vd v).sync = some y) (reading : y.step = .reading)
include busy reading

theorem doMasterRead_of_failed : doMasterRead v none w = completeSync v 5 w := by
  simp [doMasterRead, busy, reading]

theorem doMasterRead_of_missing (missing : masterMissing w.dev v y ≠ []) (bs : List Byte) :
    doMasterRead v (some bs) w = readMaster v y w := by
  simp [doMasterRead, busy, reading, missing]

theorem doMasterRead_of_lost (whole : masterMissing w.dev v y = []) (lost : (w.dev.vd v).mirrorLost = true) (bs : List Byte) :
    doMasterRead v (some bs) w = w := by
  simp [doMasterRead, busy, reading, whole, lost]

theorem doMasterRead_of_whole (whole : masterMissing w.dev v y = []) (serves : (w.dev.vd v).mirrorLost = false) (bs : List Byte) :
    doMasterRead v (some bs) w = checkSync v (entriesOf (sliceB bs 0 (32 * y.span))) y w := by
  simp [doMasterRead, busy, reading, whole, serves]

end

/-! ## Invalidations and their acknowledgements (R247, Table 10-5 steps 6 and 7) -/

/-- Whether a cached entry of node `m` goes with the invalidation of synchronisation `y` at node `n`: it is of an older generation, and one
of the changed entries overlaps it. -/
def invalidates (v : Nat) (n : XNode) (y : Sync) (d : Dev) (m : XNode) (c : CEntry) : Bool :=
  m == n && c.vdev == v && c.gen != (d.vd v).gen && y.changed.any fun r => rangesMeet r (c.e.start, c.e.len)

theorem invalidates_iff {v : Nat} {n : XNode} {y : Sync} {d : Dev} {m : XNode} {c : CEntry} : invalidates v n y d m c = true ↔
    m = n ∧ c.vdev = v ∧ c.gen ≠ (d.vd v).gen ∧ (y.changed.any fun r => rangesMeet r (c.e.start, c.e.len)) = true := by
  simp only [invalidates, Bool.and_eq_true, beq_iff_eq, bne_iff_ne, and_assoc]

/-- Node `n` has dropped what the invalidation of synchronisation `y` names, and acknowledges. -/
def invalidated (v : Nat) (n : XNode) (y : Sync) (d : Dev) : Dev :=
  (d.onXlt fun x => { x with
    caches := x.caches.filter fun c => !invalidates v n y d c.1 c.2
    buffers := x.buffers.filter fun c => !invalidates v n y d c.1.node c.2
    acked := (x.acked.filter fun a => !(a.1 == n && a.2.1 == v && !x.walking v n)) ++
      y.changed.map fun r => (n, v, r.1, r.2, (d.vd v).gen) }).onVd v fun x => { x with
    sync := x.sync.map fun y => { y with
      sent := y.sent.filter (· != n)
      acks := y.acks ++ [n] } }

theorem exec_rangeInvalidation_of_sent {s : State} {v : VDev} {n : XNode} {y : Sync} (busy : (s.dev.vd v.val).sync = some y)
    (sent : y.sent.contains n = true) : exec (.rangeInvalidation v n) s = .next { s with dev := invalidated v.val n y s.dev } := by
  change execRangeInvalidation v n s = _
  simp only [execRangeInvalidation, runDev_eq, busy, sent]
  rfl

theorem invalidated_sync {v : Nat} {n : XNode} {y : Sync} {d : Dev} (busy : (d.vd v).sync = some y) :
    ((invalidated v n y d).vd v).sync = some { y with
      sent := y.sent.filter (· != n)
      acks := y.acks ++ [n] } := by
  rw [invalidated, Dev.vd_onVd_same]
  exact congrArg (Option.map _) busy

theorem exec_invalidationAck (v : VDev) (n : XNode) (s : State) :
    exec (.invalidationAck v n) s = .next (after s (doInvAck v.val n (work s))) := rfl

/-- The acknowledgement of node `n` is heard. -/
def ackTaken (v : Nat) (n : XNode) (y : Sync) (d : Dev) : Dev :=
  d.onVd v fun x => { x with sync := some { y with acks := y.acks.filter (· != n) } }

section
variable {v : Nat} {n : XNode} {y : Sync} {w : Wk} (busy : (w.dev.vd v).sync = some y) (acked : y.acks.contains n = true)
include busy acked

theorem doInvAck_of_acked : doInvAck v n w =
    if (y.acks.filter (· != n)).isEmpty && y.sent.isEmpty && y.step == .invalidating then completeSync v 0 (w.on (ackTaken v n y))
    else w.on (ackTaken v n y) := by
  simp only [doInvAck, busy, acked]
  rfl

theorem doInvAck_of_last (last : y.acks.filter (· != n) = []) (sent : y.sent = []) (step : y.step = .invalidating) :
    doInvAck v n w = completeSync v 0 (w.on (ackTaken v n y)) := by
  rw [doInvAck_of_acked busy acked, last, sent, step]
  rfl

theorem doInvAck_of_more (more : y.acks.filter (· != n) ≠ [] ∨ y.sent ≠ []) : doInvAck v n w = w.on (ackTaken v n y) := by
  rw [doInvAck_of_acked busy acked, if_neg]
  simp only [Bool.and_eq_true, List.isEmpty_iff]
  rintro ⟨⟨acks, sent⟩, -⟩
  exact more.elim (· acks) (· sent)

end

/-! ## Moves (R258, Table 10-8) -/

theorem exec_movePageCopyDone (v : VDev) (ok : Bool) (bs : List Byte) (s : State) :
    exec (.movePageCopyDone v ok bs) s = .next (after s (doMoveCopy v.val ok bs (work s))) := rfl

/-- The page is copied, and the pages `rest` remain: after the last one the new table becomes active. -/
def pageCopied (v : Nat) (y : Sync) (rest : List Nat) (w : Wk) : Wk :=
  let w := w.on fun d => d.onVd v fun x => { x with sync := some { y with moveLeft := rest } }
  if rest.isEmpty then activate v { y with moveLeft := rest } w else w

/-- A page of a move is next, the mirror serves, and every access under way to the page has been performed. -/
structure PageDue (v : Nat) (y : Sync) (p : Nat) (rest : List Nat) (d : Dev) : Prop where
  busy : (d.vd v).sync = some y
  left : y.moveLeft = p :: rest
  step : y.step = .copying
  serves : (d.vd v).mirrorLost = false
  quiet : pageQuiet d v p = true

section
variable {v : Nat} {y : Sync} {p : Nat} {rest : List Nat} {w : Wk} (due : PageDue v y p rest w.dev) (bs : List Byte)
include due

theorem doMoveCopy_of_refused (refused : ∃ n ∈ moveMissing w.dev v p y, w.dev.priRefused v n = true) :
    doMoveCopy v true bs w = completeSync v 8 w := by
  have any_ := List.any_eq_true.mpr refused
  simp [doMoveCopy, due.busy, due.left, due.step, due.serves, due.quiet, any_]

theorem doMoveCopy_of_missing (missing : moveMissing w.dev v p y ≠ [])
    (allowed : ∀ n ∈ moveMissing w.dev v p y, w.dev.priRefused v n = false) :
    doMoveCopy v true bs w = w.on fun d => (moveMissing w.dev v p y).foldl (fun d n => askPage v n d) d := by
  have none_ : ((moveMissing w.dev v p y).any fun n => w.dev.priRefused v n) = false := by simpa using allowed
  simp [doMoveCopy, due.busy, due.left, due.step, due.serves, due.quiet, none_, missing]

variable {ok : Bool} (permitted : ok = true → moveMissing w.dev v p y = [])
include permitted

theorem doMoveCopy_of_stopped {e : Nat} (stops : copyPage v p y ok bs w = .error e) : doMoveCopy v ok bs w = completeSync v e w := by
  cases ok with
  | false => simp [doMoveCopy, due.busy, due.left, due.step, due.serves, due.quiet, stops]
  | true => simp [doMoveCopy, due.busy, due.left, due.step, due.serves, due.quiet, permitted rfl, stops]

theorem doMoveCopy_of_copied {k : Wk} (copies : copyPage v p y ok bs w = .ok k) : doMoveCopy v ok bs w = pageCopied v y rest k := by
  cases ok with
  | false => simp [doMoveCopy, due.busy, due.left, due.step, due.serves, due.quiet, copies, pageCopied]
  | true => simp [doMoveCopy, due.busy, due.left, due.step, due.serves, due.quiet, permitted rfl, copies, pageCopied]

end

/-! ## The mirror rebuilt (R240) -/

theorem exec_mirrorRebuildDone (v : VDev) (bs : List Byte) (s : State) :
    exec (.mirrorRebuildDone v bs) s = .next (after s (doMirrorRebuilt v.val bs (work s))) := rfl

/-- The entries of the master copy are taken as the table where they obey R239, and the mirror serves from its new place. -/
def mirrorRebuilt (v : Nat) (es : List (List Byte)) (d : Dev) : Dev := d.onVd v fun x => { x with
  mirrorLost := false
  mirrorCh := mirrorHome d v
  table := if tableOrdered (es.map entryOf) && es.all reservedZero && (es.map entryOf).all (entryFieldOk d v) &&
    !tableAlias (es.map entryOf) then es.map entryOf else x.table }

section
variable {v : Nat} {w : Wk}

theorem doMirrorRebuilt_of_lost (lost : (w.dev.vd v).mirrorLost = true) (bs : List Byte) : doMirrorRebuilt v bs w =
    releaseHost (w.on (mirrorRebuilt v (entriesOf (sliceB bs 0 (32 * (w.dev.vd v).table.length))))) := by
  rw [doMirrorRebuilt, lost]
  rfl

theorem doMirrorRebuilt_of_serving (serves : (w.dev.vd v).mirrorLost = false) (bs : List Byte) : doMirrorRebuilt v bs w = w := by
  rw [doMirrorRebuilt, serves]
  rfl

end

/-! ## The statement -/

/-- Settles O26: each event does what the synchronisation in progress and the permissions of its host pages decide. -/
theorem synchronisation : Obligations.Synchronisation := by
  unfold Obligations.Synchronisation
  refine ⟨?request, ?read, ?closed, ?invalidation, ?lastAck, ?ack, ?copy, ?copyMissing, ?rebuild, ?rebuildIdle⟩
  case request =>
    intro s v req i hi opened f x op
    have run : exec i s = .next (after s (syncRequest v.val req (work s))) := by
      rcases hi with rfl | rfl
      · exact exec_xltSync ..
      · exact exec_xltMoveAndSync ..
    refine ⟨?busy, ?reserved, ?checked, ?inside⟩
    case busy =>
      intro busy
      exact gives_of_on run (syncRequest_of_busy opened busy) rfl
    case reserved =>
      intro idle not_sync not_move
      exact gives_of_on run (syncRequest_of_reserved opened idle not_sync not_move) rfl
    case checked =>
      intro idle known pages y begun bad
      refine ⟨fun isBad => ?_, fun notBad outside => ?_⟩
      · rw [run, syncRequest_of_bad_regs (w := work s) opened idle known ((syncRegsBad_iff ..).mpr isBad)]
        rfl
      · have good : syncRegsBad f op = false := Bool.eq_false_iff.mpr (mt (syncRegsBad_iff ..).mp notBad)
        have sourceless : syncSourceless f x.table.length = true := by simp [syncSourceless, outside]
        rw [run, syncRequest_of_sourceless (w := work s) opened idle known good sourceless]
        rfl
    case inside =>
      intro idle known base count span inside before after_ some_ y begun missing
      have good : syncRegsBad f op = false := by
        rw [Bool.eq_false_iff, Ne, syncRegsBad_iff]
        omega
      have sourced : syncSourceless f x.table.length = false := by
        simp only [syncSourceless, Bool.or_eq_false_iff, Bool.and_eq_false_iff, decide_eq_false_iff_not]
        omega
      have reading : syncRequest v.val req (work s) = readMaster v.val y ((work s).on fun _ => begun) :=
        syncRequest_of_sourced (w := work s) opened idle (known.imp_right And.left) good sourced some_
      rw [reading] at run
      refine ⟨fun whole => ?_, fun some_missing allowed => ?_, fun refused => ?_⟩
      · exact gives_of_on run (readMaster_of_whole (w := (work s).on fun _ => begun) whole) rfl
      · exact gives_of_on run (readMaster_of_missing (w := (work s).on fun _ => begun) some_missing allowed) rfl
      · rw [run, readMaster_of_refused (w := (work s).on fun _ => begun) refused]
  case read =>
    intro s v y busy reading
    refine ⟨?_, fun bs => ⟨fun missing => ?_, fun whole lost => ?_, fun whole serves => ?_⟩⟩
    · rw [exec_syncMasterReadDone, doMasterRead_of_failed (w := work s) busy reading]
    · rw [exec_syncMasterReadDone, doMasterRead_of_missing (w := work s) busy reading missing]
    · rw [exec_syncMasterReadDone, doMasterRead_of_lost (w := work s) busy reading whole lost]
      rfl
    · rw [exec_syncMasterReadDone, doMasterRead_of_whole (w := work s) busy reading whole serves]
  case closed =>
    intro s v req closed
    rw [exec_xltSync, exec_xltMoveAndSync, syncRequest_of_closed (w := work s) closed]
    exact ⟨rfl, rfl⟩
  case invalidation =>
    intro s v n y busy sent
    refine ⟨_, exec_rangeInvalidation_of_sent busy sent, fun c hc => ?_, fun c hc => ?_, invalidated_sync busy⟩
    · obtain ⟨old, kept⟩ := List.mem_filter.mp hc
      exact ⟨old, fun gone => by simp [invalidates_iff.mpr gone] at kept⟩
    · obtain ⟨old, kept⟩ := List.mem_filter.mp hc
      exact ⟨old, fun gone => by simp [invalidates_iff.mpr gone] at kept⟩
  case lastAck =>
    intro s v n y busy acks sent step
    have acked : y.acks.contains n = true := by simp [acks]
    have last : y.acks.filter (· != n) = [] := by simp [acks]
    rw [exec_invalidationAck, doInvAck_of_last (w := work s) busy acked last sent step]
    unfold ackTaken
    rw [last]
  case ack =>
    intro s v n y busy acked more
    exact gives_of_on (exec_invalidationAck ..) (doInvAck_of_more (w := work s) busy acked more) rfl
  case copy =>
    intro s v y p rest ok bs busy left step serves quiet permitted
    have due : PageDue v.val y p rest (work s).dev := ⟨busy, left, step, serves, quiet⟩
    cases copied : copyPage v.val p y ok bs (work s) with
    | error e =>
      dsimp only
      rw [exec_movePageCopyDone, doMoveCopy_of_stopped due bs permitted copied]
    | ok w =>
      dsimp only
      rw [exec_movePageCopyDone, doMoveCopy_of_copied due bs permitted copied]
      cases rest with
      | nil => rfl
      | cons n rest => rfl
  case copyMissing =>
    intro s v y p rest bs busy left step serves quiet missing some_missing
    have due : PageDue v.val y p rest (work s).dev := ⟨busy, left, step, serves, quiet⟩
    refine ⟨fun refused => ?_, fun allowed => ?_⟩
    · rw [exec_movePageCopyDone, doMoveCopy_of_refused due bs refused]
    · exact gives_of_on (exec_movePageCopyDone ..) (doMoveCopy_of_missing due bs some_missing allowed) rfl
  case rebuild =>
    intro s v bs lost
    rw [exec_mirrorRebuildDone, doMirrorRebuilt_of_lost (w := work s) lost]
    rfl
  case rebuildIdle =>
    intro s v bs serves
    rw [exec_mirrorRebuildDone, doMirrorRebuilt_of_serving (w := work s) serves]
    rfl

end Sys2Proof.Machine
end

section
/-! Walks (R246, R247) and the fault table (R251, R254 … R256): what a walk answers and its reply installs, where a fault enters the table,
and what a response makes of its waiters. -/

namespace Sys2Proof.Machine

open Sys2Proof

/-! ## Walks (R247) -/

theorem exec_rangeWalk_of_lost {s : State} {v : VDev} (lost : (s.dev.vd v.val).mirrorLost = true) (n : XNode) (va : BitVec 64) :
    exec (.rangeWalk v n va) s = .next s := by
  change execRangeWalk v n va s = _
  simp only [execRangeWalk, runDev_eq, lost]
  rfl

/-- The mirror MC die has searched the active buffer for the first unanswered walk of a node for an address. -/
def walkAnswered (v : Nat) (n : XNode) (va : Nat) (d : Dev) : Dev := d.onXlt fun x => { x with
  walks := updFirst (fun w => w.vdev == v && w.node == n && w.va == va && w.reply.isNone)
    (fun w => { w with reply := some ((d.vd v).find va, (d.vd v).gen) }) x.walks }

theorem exec_rangeWalk_of_serving {s : State} {v : VDev} (serves : (s.dev.vd v.val).mirrorLost = false) (n : XNode) (va : BitVec 64) :
    exec (.rangeWalk v n va) s = .next { s with dev := walkAnswered v.val n va.toNat s.dev } := by
  change execRangeWalk v n va s = _
  simp only [execRangeWalk, runDev_eq, serves]
  rfl

theorem exec_walkReply (v : VDev) (n : XNode) (va : BitVec 64) (s : State) :
    exec (.walkReply v n va) s = .next (after s (doWalkReply v.val n va.toNat (work s))) := rfl

/-- The accesses of cores at a node that waited for an entry of a virtual device. -/
def entryAwaited (v : Nat) (n : XNode) (e : REntry) (d : Dev) : List MReq := d.mc.reqs.filter fun r =>
  r.vdev == v && r.stage == .walk && coreNode r.core == n && (decide (e.start ≤ r.va) && decide (r.va < e.start + e.len))

/-- The entry that a walk has found is installed, and the accesses that waited for it go on. -/
def entryFound (v : Nat) (n : XNode) (e : REntry) (g : BitVec 32) (rest : List Walk) (w : Wk) : Wk :=
  (entryAwaited v n e w.dev).foldl
    (fun w r => placeReq r (e :: w.dev.xview (.core r.core) v) g (w.on (bufferPut (.core r.core) ⟨v, g, e⟩)))
    (w.on fun d => installEntry n ⟨v, g, e⟩ (d.onXlt fun x => { x with walks := rest }))

/-- A walk has found no entry: the accesses to its address go on without one. -/
def entryMissed (v : Nat) (n : XNode) (va : Nat) (g : BitVec 32) (rest : List Walk) (w : Wk) : Wk :=
  (w.dev.mc.reqs.filter fun r => r.vdev == v && r.stage == .walk && coreNode r.core == n && r.va == va).foldl
    (fun w r => placeReq r [] g w) (w.on fun d => d.onXlt fun x => { x with walks := rest })

section
variable {v va : Nat} {n : XNode} {w : Wk} {k : Walk} {rest : List Walk} {g : BitVec 32}
  (took : takeFirst (fun x : Walk => x.vdev == v && x.node == n && x.va == va && x.reply.isSome) w.dev.xlt.walks = some (k, rest))
include took

theorem doWalkReply_of_missed (reply : k.reply = some (none, g)) : doWalkReply v n va w = entryMissed v n va g rest w := by
  simp only [doWalkReply, took, reply]
  rfl

variable {e : REntry} (reply : k.reply = some (some e, g))
include reply

theorem doWalkReply_of_stale (stale : walkStale w.dev v n e g = true) :
    doWalkReply v n va w = w.on fun d => d.onXlt fun x => { x with walks := rest ++ [{ k with reply := none }] } := by
  simp only [doWalkReply, took, reply, stale]
  rfl

theorem doWalkReply_of_found (fresh : walkStale w.dev v n e g = false) : doWalkReply v n va w = entryFound v n e g rest w := by
  simp only [doWalkReply, took, reply, fresh]
  rfl

end

theorem walkStale_of_none_acked {d : Dev} (acked : d.xlt.acked = []) (v : Nat) (n : XNode) (e : REntry) (g : BitVec 32) :
    walkStale d v n e g = false := by
  rw [walkStale, acked]
  rfl

theorem mem_installEntry_caches (n : XNode) (c : CEntry) (d : Dev) : (n, c) ∈ (installEntry n c d).xlt.caches :=
  List.mem_append_right _ (List.mem_singleton_self _)

theorem entryFound_of_none_waiting {w : Wk} (unwanted : w.dev.mc.reqs = []) (v : Nat) (n : XNode) (e : REntry) (g : BitVec 32)
    (rest : List Walk) :
    entryFound v n e g rest w = w.on fun d => installEntry n ⟨v, g, e⟩ (d.onXlt fun x => { x with walks := rest }) := by
  rw [entryFound, entryAwaited, unwanted]
  rfl

theorem entryMissed_of_none_waiting {w : Wk} (unwanted : w.dev.mc.reqs = []) (v : Nat) (n : XNode) (va : Nat) (g : BitVec 32)
    (rest : List Walk) : entryMissed v n va g rest w = w.on fun d => d.onXlt fun x => { x with walks := rest } := by
  rw [entryMissed, unwanted]
  rfl

/-! ## The slots of the fault table (R251) -/

theorem ToldFrom.xlt {d e : Dev} (h : ToldFrom d e) : e.xlt = d.xlt := by rw [← h.rest]

theorem putFault_faults (i : Nat) (e : FaultEnt) (d : Dev) : (putFault i e d).xlt.faults = Tab.put d.xlt.faults i e :=
  congrArg Xlt.faults (journal_told ..).xlt

theorem find?_getD_of_mem {α : Type} {p : α → Bool} {l : List α} {a : α} (ha : a ∈ l) (hp : p a = true) (b : α) :
    p ((l.find? p).getD b) = true := by
  obtain ⟨c, hc⟩ := Option.isSome_iff_exists.mp (List.find?_isSome.mpr ⟨a, ha, hp⟩)
  rw [hc]
  exact List.find?_some hc

/-- A table that is not full has a free slot, and firmware picks one. -/
theorem get?_freeFault {d : Dev} (room : d.xlt.faults.length < faultRoom) : Tab.get? d.xlt.faults (freeFault d) = none := by
  obtain ⟨i, hi, free⟩ : ∃ i ∈ List.range faultRoom, i ∉ d.xlt.faults.map Prod.fst := by
    by_contra! taken
    have short := (List.nodup_range.subperm taken).length_le
    rw [List.length_range, List.length_map] at short
    omega
  have unused : (Tab.get? d.xlt.faults i).isNone = true := Option.isNone_iff_eq_none.mpr (Tab.get?_eq_none_of_not_mem free)
  exact Option.isNone_iff_eq_none.mp (find?_getD_of_mem (p := fun i => (Tab.get? d.xlt.faults i).isNone) hi unused 0)

/-- Freed entries of which no report is held leave the table. -/
theorem freeFaults_faults (p : Nat × FaultEnt → Bool) (d : Dev) : (freeFaults p d).xlt.faults =
    (d.xlt.faults.filter fun e => !p e || d.unposted e.1 e.2).map fun e => (e.1, if p e then { e.2 with waiters := [] } else e.2) :=
  congrArg Xlt.faults (ToldFrom.foldl (fun _ _ => journal_told ..) _ _).xlt

theorem get?_freeFaults_slot {d : Dev} {i : Nat} (posted : ∀ e, (i, e) ∈ d.xlt.faults → d.unposted i e = false) :
    Tab.get? (freeFaults (fun x => x.1 == i) d).xlt.faults i = none := by
  apply Tab.get?_eq_none_of_not_mem
  rw [freeFaults_faults, List.map_map]
  intro left
  obtain ⟨⟨j, e⟩, he, hj⟩ := List.mem_map.mp left
  obtain rfl : j = i := hj
  obtain ⟨mem, kept⟩ := List.mem_filter.mp he
  simp [posted e mem] at kept

/-! ## A fault enters the table (R251, R254, R255) -/

theorem exec_translationFault_of_took {s : State} {id : Nat} {m : FaultMsg} {rest : List FaultMsg}
    (took : takeFirst (fun m : FaultMsg => m.id == id) s.dev.xlt.faultMsgs = some (m, rest)) :
    exec (.translationFault id) s =
      .next { s with dev := enterFault m (countFault m (s.dev.onXlt fun x => { x with faultMsgs := rest })) } := by
  change execTranslationFault id s = _
  simp only [execTranslationFault, runDev_eq, took]

theorem exec_faultTableRetryTimer_of_took {s : State} {id : Nat} {m : FaultMsg} {rest : List FaultMsg}
    (took : takeFirst (fun m : FaultMsg => m.id == id) s.dev.xlt.faultFull = some (m, rest)) :
    exec (.faultTableRetryTimer id) s = .next { s with dev := enterFault m (s.dev.onXlt fun x => { x with faultFull := rest }) } := by
  change execFaultTableRetryTimer id s = _
  simp only [execFaultTableRetryTimer, runDev_eq, took]

theorem exec_faultBatchTimer (v : VDev) (s : State) : exec (.faultBatchTimer v) s = .next { s with dev := closeBatch v.val s.dev } := rfl

/-- The entries of a batch that are still in the fault table, with their slots. -/
def batchLive (v : Nat) (slots : List (Nat × Nat)) (d : Dev) : List (Nat × FaultEnt) :=
  slots.filterMap fun i => ((Tab.get? d.xlt.faults i.1).filter fun e => e.use == i.2 && e.vdev == v).map fun e => (i.1, e)

theorem closeBatch_of_open {v : Nat} {d : Dev} {slots : List (Nat × Nat)} (opened : Tab.get? d.xlt.batches v = some slots) :
    closeBatch v d = postBatch v 1 ((batchLive v slots d).zipIdx.map fun x =>
      (faultId x.1.1 x.1.2.use, faultRecord x.1.1 ((batchLive v slots d).length - 1 - x.2) x.1.2))
      (d.onXlt fun x => { x with batches := Tab.del x.batches v }) := by
  rw [closeBatch, opened]
  rfl

theorem postBatch_told (fn kind : Nat) (bodies : List (Nat × List Byte)) (d : Dev) : ToldFrom d (postBatch fn kind bodies d) := by
  refine (ToldFrom.foldl (fun e b => ?_) bodies d).trans (signalVec_told ..)
  split
  · exact ⟨rfl, taken_setFn rfl⟩
  · exact writeEntry_told ..

theorem closeBatch_faults (v : Nat) (d : Dev) : (closeBatch v d).xlt.faults = d.xlt.faults := by
  cases h : Tab.get? d.xlt.batches v with
  | none => rw [closeBatch, h]
  | some slots => rw [closeBatch_of_open h, (postBatch_told ..).xlt]; rfl

theorem switchOut_xlt (y : Waiter) (d : Dev) : (switchOut y d).xlt = d.xlt := by
  unfold switchOut
  split
  · rfl
  · refine foldl_keeps Dev.xlt (fun e n => ?_) _ _
    dsimp only
    split
    · rfl
    · split
      · rfl
      · split <;> rfl

theorem reportFault_faults (i : Nat) (e : FaultEnt) (gathered : Bool) (y : Waiter) (d : Dev) :
    (reportFault i e gathered y d).xlt.faults = d.xlt.faults := by
  cases gathered with
  | false => exact congrArg Xlt.faults ((switchOut_xlt ..).trans (postEvent_told ..).xlt)
  | true =>
    unfold reportFault
    dsimp only
    rw [if_pos rfl]
    split
    · exact closeBatch_faults ..
    · rfl

theorem enterFault_of_blocked {m : FaultMsg} {d : Dev} {i : Nat} {e : FaultEnt} (blocked :
    (d.xlt.faults.find? fun e => e.2.vdev == m.vdev && e.2.page == pageOf m.va && e.2.kind == blockKind) = some (i, e)) :
    enterFault m d = putFault i { e with waiters := e.waiters ++ [(m.who, m.va)] } d := by
  simp only [enterFault, blocked]

/-- The entry that a fault on a page without one makes. -/
def faultEntry (m : FaultMsg) (d : Dev) : FaultEnt :=
  ⟨m.vdev, pageOf m.va, m.kind, m.access, m.sw, (((waiterQueue d m.who).bind fun (v, q) => d.queue? v q).map Queue.devq).getD 0,
    (((waiterCmd d m.who).bind fun (v, q, _) => d.cur? v q).map Cmd.context).getD 0, Tab.getD d.xlt.uses (freeFault d) 0, [(m.who, m.va)]⟩

/-- A fault read under the active table, on a page with no entry of its kind and none that blocks it, is a new entry in a free slot. -/
theorem enterFault_faults_of_new {m : FaultMsg} {d : Dev} (current : m.gen = (d.vd m.vdev).gen) (idle : (d.vd m.vdev).sync = none)
    (room : d.xlt.faults.length < faultRoom)
    (new : (d.xlt.faults.find? fun e => e.2.vdev == m.vdev && e.2.page == pageOf m.va &&
      (e.2.kind == m.kind || e.2.kind == blockKind)) = none) :
    (enterFault m d).xlt.faults = Tab.put d.xlt.faults (freeFault d) (faultEntry m d) := by
  have no_entry (k : Nat) (hk : k = m.kind ∨ k = blockKind) :
      (d.xlt.faults.find? fun e => e.2.vdev == m.vdev && e.2.page == pageOf m.va && e.2.kind == k) = none := by
    rw [List.find?_eq_none] at new ⊢
    intro e he same
    obtain ⟨page, kind⟩ := (Bool.and_eq_true ..).mp same
    refine new e he ((Bool.and_eq_true ..).mpr ⟨page, (Bool.or_eq_true ..).mpr ?_⟩)
    rw [beq_iff_eq.mp kind, beq_iff_eq, beq_iff_eq]
    exact hk
  unfold enterFault
  simp only [no_entry _ (.inl rfl), no_entry _ (.inr rfl), current, idle, bne_self_eq_false, Option.isSome_none, Bool.or_self,
    Bool.false_eq_true, if_false, if_neg (Nat.not_le.mpr room)]
  exact (reportFault_faults ..).trans (putFault_faults ..)

/-! ## Responses (R256) -/

theorem exec_faultRespFail (v : VDev) (r : BitVec 64) (s : State) :
    exec (.faultRespFail v r) s = .next (after s (doFaultResp v.val r (work s))) := rfl

section
variable {v : Nat} {r : BitVec 64} {w : Wk}

theorem doFaultResp_of_off (off : w.dev.barOpen v = false ∨ bitAt r.toNat 0 = false) : doFaultResp v r w = w := by
  rcases off with h | h <;> simp [doFaultResp, h]

variable {e : FaultEnt} (opened : w.dev.barOpen v = true) (fail : bitAt r.toNat 0 = true)
  (held : Tab.get? w.dev.xlt.faults (bits (r.toNat / 2 ^ 32) 11 0) = some e) (own : e.vdev = v)
  (live : faultId (bits (r.toNat / 2 ^ 32) 11 0) e.use = r.toNat / 2 ^ 32)
include opened fail held own live

theorem doFaultResp_of_blocking (blocks : e.kind = blockKind) : doFaultResp v r w = w := by
  simp only [doFaultResp, opened, fail, held, own, live]
  simp [blocks]

theorem doFaultResp_of_live (reported : e.kind ≠ blockKind) : doFaultResp v r w =
    e.waiters.foldl (fun w y => failWaiter e.kind y.1 y.2 w) (w.on (freeFaults fun x => x.1 == bits (r.toNat / 2 ^ 32) 11 0)) := by
  simp only [doFaultResp, opened, fail, held, own, live]
  simp [reported]

end

end Sys2Proof.Machine
end

section
/-! Host pages (R248 … R250): ATS and its invalidations, page requests, and the lines read at the host. -/

namespace Sys2Proof.Machine

open Sys2Proof

/-! ## Invalidations by the host (R249) -/

/-- The hub has dropped what an invalidation names, which waits for the requests that used it. -/
def atsDropped (fn page count : Nat) (d : Dev) : Dev := d.onXlt fun x => { x with
  atc := x.atc.filter fun e => !(e.1 == fn && decide (page ≤ e.2.1) && decide (e.2.1 < page + count))
  atsInval := x.atsInval ++ [(fn, page, count, (d.mc.host.filter fun r =>
    r.fn == fn && decide (page ≤ r.iova / 4096) && decide (r.iova / 4096 < page + count)).map HostReq.id)] }

theorem exec_atsInvalidation (fn : FnId) (page count : Nat) (s : State) :
    exec (.atsInvalidation fn page count) s = .next { s with dev := flushAts (atsDropped fn.val page count s.dev) } := rfl

theorem mem_atsDropped_atc {fn page count : Nat} {d : Dev} {e : Nat × Nat × Bool × Bool} : e ∈ (atsDropped fn page count d).xlt.atc ↔
    e ∈ d.xlt.atc ∧ ¬ (e.1 = fn ∧ page ≤ e.2.1 ∧ e.2.1 < page + count) := by
  refine List.mem_filter.trans (and_congr_right fun _ => ?_)
  simp only [Bool.not_eq_true', Bool.eq_false_iff, ne_eq, Bool.and_eq_true, beq_iff_eq, decide_eq_true_eq, and_assoc]

/-- Completing invalidations changes what the hubs know of them, and what leaves. -/
theorem flushAts_spec (d : Dev) : ∃ l out, flushAts d = { d with xlt := { d.xlt with atsInval := l }, out := out } := by
  refine List.foldlRecOn _ _ (motive := fun e : Dev => ∃ l out, e = { d with xlt := { d.xlt with atsInval := l }, out := out })
    ⟨_, d.out, rfl⟩ ?_
  rintro _ ⟨l, out, rfl⟩ i -
  exact ⟨l, _, rfl⟩

theorem flushAts_vds (d : Dev) : (flushAts d).vds = d.vds := by
  obtain ⟨l, out, h⟩ := flushAts_spec d
  rw [h]

theorem flushAts_mc (d : Dev) : (flushAts d).mc = d.mc := by
  obtain ⟨l, out, h⟩ := flushAts_spec d
  rw [h]

theorem flushAts_atc (d : Dev) : (flushAts d).xlt.atc = d.xlt.atc := by
  obtain ⟨l, out, h⟩ := flushAts_spec d
  rw [h]

/-- With no request at the host, every invalidation completes. -/
theorem flushAts_out_of_none {d : Dev} (none_ : d.mc.host = []) :
    (flushAts d).out = d.out ++ d.xlt.atsInval.map fun i => .atsDone i.1 i.2.1 i.2.2.1 := by
  have done : d.xlt.atsInval.filter (fun i => !d.mc.host.any fun r => i.2.2.2.contains r.id) = d.xlt.atsInval := by
    rw [none_]
    exact List.filter_eq_self.mpr fun _ _ => rfl
  have emits (l : List (Nat × Nat × Nat × List Nat)) (e : Dev) :
      (l.foldl (fun d i => d.emit (.atsDone i.1 i.2.1 i.2.2.1)) e).out = e.out ++ l.map fun i => .atsDone i.1 i.2.1 i.2.2.1 := by
    induction l generalizing e with
    | nil => simp
    | cons i l ih =>
      rw [List.foldl_cons, ih]
      simp [Dev.emit]
  exact (emits ..).trans (congrArg (fun l => d.out ++ l.map fun i => Output.atsDone i.1 i.2.1 i.2.2.1) done)

/-! ## Answers of ATS and PRI (R248, R250) -/

theorem exec_atsTranslationCompletion (fn : FnId) (page : Nat) (r w : Bool) (s : State) :
    exec (.atsTranslationCompletion fn page r w) s = .next (after s (doAtsDone fn.val page r w (work s))) := rfl

/-- The host's answer to a translation request is in the cache of the hub. -/
def atsAnswered (fn page : Nat) (r w : Bool) (d : Dev) : Dev := d.onXlt fun x => { x with
  atsOut := x.atsOut.filter (· != (fn, page))
  atc := if r || w then atcPut (fn, page, r, w) x.atc else x.atc.filter fun e => !(e.1 == fn && e.2.1 == page) }

section
variable {fn page : Nat} {r w : Bool} {k : Wk} (asked : k.dev.xlt.atsOut.contains (fn, page) = true)
include asked

theorem doAtsDone_of_asked : doAtsDone fn page r w k =
    if r || w then resumePage fn page (k.on (atsAnswered fn page r w))
    else if k.dev.xlt.priOff.contains fn then failPage fn page (k.on (atsAnswered fn page r w))
    else (k.on (atsAnswered fn page r w)).on (askPri fn page) := by
  simp only [doAtsDone, asked]
  rfl

theorem doAtsDone_of_granted (granted : (r || w) = true) :
    doAtsDone fn page r w k = resumePage fn page (k.on (atsAnswered fn page r w)) := by
  rw [doAtsDone_of_asked asked, if_pos granted]

variable (denied : (r || w) = false)
include denied

theorem doAtsDone_of_denied (on : k.dev.xlt.priOff.contains fn = false) :
    doAtsDone fn page r w k = (k.on (atsAnswered fn page r w)).on (askPri fn page) := by
  rw [doAtsDone_of_asked asked, if_neg (Bool.eq_false_iff.mp denied), if_neg (Bool.eq_false_iff.mp on)]

theorem doAtsDone_of_refused (off : k.dev.xlt.priOff.contains fn = true) :
    doAtsDone fn page r w k = failPage fn page (k.on (atsAnswered fn page r w)) := by
  rw [doAtsDone_of_asked asked, if_neg (Bool.eq_false_iff.mp denied), if_pos off]

end

theorem exec_priResponse (fn : FnId) (page : Nat) (r : PriResp) (s : State) :
    exec (.priResponse fn page r) s = .next (after s (doPri fn.val page r (work s))) := rfl

/-- The page request for a page is answered: what ATS had said of the page is forgotten. -/
def priAnswered (fn page : Nat) (r : PriResp) (d : Dev) : Dev := d.onXlt fun x => { x with
  pageReqs := x.pageReqs.filter fun x => !(x.fn == fn && x.page == page)
  atc := x.atc.filter fun e => !(e.1 == fn && e.2.1 == page)
  priOff := if r = .responseFailure && !x.priOff.contains fn then x.priOff ++ [fn] else x.priOff }

/-- The pages of a function whose requests wait for room. -/
def pagesWaiting (fn : Nat) (d : Dev) : List Nat := (d.xlt.priWait.filter fun x => x.fn == fn).map PageReq.page

/-- What an answered page request comes to for those that wait. -/
def priSettled (fn page : Nat) : PriResp → Wk → Wk
  | .success, w => w.on fun d => nextPri fn (askAts fn page d)
  | .invalidRequest, w => (failPage fn page w).on (nextPri fn)
  | .responseFailure, w => (page :: pagesWaiting fn w.dev).foldl (fun w p => failPage fn p w)
      (w.on fun d => d.onXlt fun x => { x with priWait := x.priWait.filter fun x => x.fn != fn })

theorem doPri_of_outstanding {fn page : Nat} {w : Wk} (outstanding : (w.dev.xlt.pageReqs.any fun x => x.fn == fn && x.page == page) = true)
    (r : PriResp) : doPri fn page r w = priSettled fn page r (w.on (priAnswered fn page r)) := by
  simp only [doPri, outstanding]
  cases r <;> rfl

theorem exec_priReenable (fn : FnId) (s : State) : exec (.priReenable fn) s = .next (after s (retryVd fn.val ((work s).on fun d =>
    d.onXlt fun x => { x with priOff := x.priOff.filter (· != fn.val) }))) := rfl

/-! ## Lines read at the host (R248, Table 17-1) -/

theorem exec_hostReadCompletion (id : Nat) (bs : List Byte) (s : State) :
    exec (.hostReadCompletion id bs) s = .next (after s (doHostRead id bs (work s))) := rfl

theorem exec_hostReadError (id : Nat) (s : State) : exec (.hostReadError id) s = .next (after s (doHostError id (work s))) := rfl

/-- The line of request `r` is in the hub's buffer. -/
def lineArrived (r : HostReq) (rest : List HostReq) (bs : List Byte) (d : Dev) : Dev := flushAts (d.onMc fun m => { m with
  host := rest
  hostBuf := m.hostBuf ++ [(r.fn, r.iova, sliceB bs 0 r.len)] })

theorem lineArrived_reqs (r : HostReq) (rest : List HostReq) (bs : List Byte) (d : Dev) : (lineArrived r rest bs d).mc.reqs = d.mc.reqs := by
  rw [lineArrived, flushAts_mc]
  rfl

/-- The accesses of cores that wait for the line of request `r`. -/
def lineAwaited (r : HostReq) (d : Dev) : List MReq :=
  d.mc.reqs.filter fun x => x.vdev == r.fn && x.stage == .host && decide (r.iova ≤ x.iova) && decide (x.iova < r.iova + r.len)

section
variable {id : Nat} {w : Wk} {r : HostReq} {rest : List HostReq}
  (took : takeFirst (fun r : HostReq => r.id == id) w.dev.mc.host = some (r, rest))
include took

theorem doHostRead_of_took (admitted : w.dev.dmaBars r = false) (bs : List Byte) : doHostRead id bs w =
    (lineAwaited r w.dev).foldl (fun w x => hostAccess x x.iova w) (w.on (lineArrived r rest bs)) := by
  rw [lineAwaited, ← lineArrived_reqs r rest bs w.dev]
  simp only [doHostRead, took, admitted]
  rfl

theorem doHostError_of_first (first : r.retried = false) : doHostError id w = w.on fun d =>
    (d.onMc fun m => { m with host := rest ++ [{ r with retried := true }] }).emit (.hostRead r.fn r.id r.iova r.len) := by
  simp only [doHostError, took, first]
  rfl

variable (again : r.retried = true)
include again

theorem doHostError_of_admin (admin : r.queue = adminQueue) : doHostError id w = w.on fun d =>
    (flushAts (d.onMc fun m => { m with host := rest })).onFn r.fn fun f => { f with argBad := true } := by
  simp only [doHostError, took, again, admin]
  rfl

theorem doHostError_of_command (ordinary : r.queue ≠ adminQueue) {q : Nat} {x : Queue} {c : Cmd}
    (queues : (w.dev.vd r.vdev).queues = [(q, x)]) (cur : x.cur = some c) (no : c.no = r.cmd) : doHostError id w =
    failCmd r.vdev q 0x12 Detail.none (w.on fun d => flushAts (d.onMc fun m => { m with host := rest })) := by
  have found : ((flushAts (w.dev.onMc fun m => { m with host := rest })).vd r.vdev).queues.find?
      (fun q => (q.2.cur.map fun c => c.no == r.cmd).getD false) = some (q, x) := by
    rw [Dev.vd, flushAts_vds]
    change (w.dev.vd r.vdev).queues.find? _ = _
    simp [queues, cur, no]
  simp only [doHostError, took, again, if_neg ordinary, Wk.on_dev, found]
  rfl

end

/-! ## The statement -/

/-- Settles O28: a walk, a fault and a host page each go on as the entry found, the fault table and the hub's permissions decide. -/
theorem walksFaultsAndPages : Obligations.WalksFaultsAndPages := by
  unfold Obligations.WalksFaultsAndPages
  refine ⟨?walk, ?walkLost, ?reply, ?replied, ?fault, ?retry, ?new, ?blocked, ?batch, ?respond, ?freed, ?respondOff, ?invalidation,
    ?invalidationRun, ?ats, ?pri, ?reenable, ?read, ?error⟩
  case walk =>
    intro s v n va serves walks
    refine ⟨_, exec_rangeWalk_of_serving serves n va, ?_, rfl⟩
    simp [walkAnswered, Dev.onXlt, walks, updFirst]
  case walkLost =>
    intro s v n va lost
    exact exec_rangeWalk_of_lost lost n va
  case reply =>
    intro s v n va e g walks acked unwanted
    have took : takeFirst (fun x : Walk => x.vdev == v.val && x.node == n && x.va == va.toNat && x.reply.isSome) (work s).dev.xlt.walks =
        some (⟨v.val, n, va.toNat, some (e, g)⟩, []) := by
      simp [work, walks, takeFirst]
    cases e with
    | none =>
      exact gives_of_on (exec_walkReply ..) ((doWalkReply_of_missed took rfl).trans (entryMissed_of_none_waiting unwanted ..))
        ⟨rfl, nofun⟩
    | some e =>
      refine gives_of_on (exec_walkReply ..) ((doWalkReply_of_found took rfl (walkStale_of_none_acked acked ..)).trans
        (entryFound_of_none_waiting unwanted ..)) ⟨rfl, ?_⟩
      rintro _ ⟨⟩
      exact mem_installEntry_caches ..
  case replied =>
    intro s v n va k rest e g took reply
    refine ⟨fun stale => ?_, fun fresh => ?_⟩
    · exact gives_of_on (exec_walkReply ..) (doWalkReply_of_stale (w := work s) took reply stale) rfl
    · rw [exec_walkReply, doWalkReply_of_found (w := work s) took reply fresh]
      rfl
  case fault =>
    intro s id m rest took
    exact ⟨_, exec_translationFault_of_took took, rfl⟩
  case retry =>
    intro s id m rest took
    exact ⟨_, exec_faultTableRetryTimer_of_took took, rfl⟩
  case new =>
    intro d m current idle room new
    refine ⟨freeFault d, faultEntry m d, get?_freeFault room, ?_, rfl, rfl, rfl, rfl⟩
    rw [enterFault_faults_of_new current idle room new, Tab.get?_put_same]
  case blocked =>
    intro d m i e blocked
    exact enterFault_of_blocked blocked
  case batch =>
    intro s v slots opened
    exact ⟨_, exec_faultBatchTimer .., closeBatch_of_open opened⟩
  case respond =>
    intro s v r e opened fail held own live
    refine ⟨fun blocks => ?_, fun reported => ?_⟩
    · rw [exec_faultRespFail, doFaultResp_of_blocking (w := work s) opened fail held own live blocks]
      rfl
    · rw [exec_faultRespFail, doFaultResp_of_live (w := work s) opened fail held own live reported]
  case freed =>
    intro d i posted
    exact get?_freeFaults_slot posted
  case respondOff =>
    intro s v r off
    rw [exec_faultRespFail, doFaultResp_of_off (w := work s) off]
    rfl
  case invalidation =>
    intro s fn page count host inval
    refine ⟨_, exec_atsInvalidation .., fun e he => ?_, fun e he unnamed => ?_, ?_⟩
    · rw [flushAts_atc] at he
      exact mem_atsDropped_atc.mp he
    · rw [flushAts_atc]
      exact mem_atsDropped_atc.mpr ⟨he, unnamed⟩
    · have named : (atsDropped fn.val page count s.dev).xlt.atsInval = [(fn.val, page, count, [])] := by
        simp [atsDropped, Dev.onXlt, host, inval]
      rw [flushAts_out_of_none (d := atsDropped fn.val page count s.dev) host, named]
      rfl
  case invalidationRun =>
    intro s fn page count
    exact ⟨_, exec_atsInvalidation .., rfl⟩
  case ats =>
    intro s fn page r w asked k
    refine ⟨fun granted => ?_, fun denied on => ?_, fun denied off => ?_⟩
    · rw [exec_atsTranslationCompletion, doAtsDone_of_granted (k := work s) asked granted]
      rfl
    · rw [exec_atsTranslationCompletion, doAtsDone_of_denied (k := work s) asked denied on]
      rfl
    · rw [exec_atsTranslationCompletion, doAtsDone_of_refused (k := work s) asked denied off]
      rfl
  case pri =>
    intro s fn page r outstanding w waiting quiet
    rw [exec_priResponse, doPri_of_outstanding (w := work s) outstanding r]
    cases r with
    | success => rfl
    | invalidRequest => rfl
    | responseFailure => rfl
  case reenable =>
    intro s fn
    exact exec_priReenable ..
  case read =>
    intro s id bs r rest took admitted w rs
    rw [exec_hostReadCompletion, doHostRead_of_took (w := work s) took admitted bs]
    rfl
  case error =>
    intro s id r rest took
    refine ⟨fun first => ?_, fun again admin => ?_, fun again ordinary q x c queues cur no => ?_⟩
    · exact gives_of_on (exec_hostReadError ..) (doHostError_of_first (w := work s) took first) ⟨rfl, rfl⟩
    · exact gives_of_on (exec_hostReadError ..) (doHostError_of_admin (w := work s) took again admin) rfl
    · rw [exec_hostReadError, doHostError_of_command (w := work s) took again ordinary queues cur no]

end Sys2Proof.Machine
end

section
/-! Records and the end of aborts (R268, R269, R311, R417, R421, R422). -/

namespace Sys2Proof.Machine

open Sys2Proof

/-! ## Completion records (R268, R269) -/

section
variable {v q : Nat} {w w' : Wk} {r : Rec} {x : Queue}

theorem length_recBytes (r : Rec) (phase : Bool) : (r.bytes phase).length = 32 := length_natLe ..

theorem tryRecord_of_full (hx : w.dev.queue? v q = some x) (full : x.cqIndex = (x.cqHead + x.C - 1) % x.C) :
    tryRecord v q r w = (.full, w) := by
  simp only [tryRecord, hx, if_pos full]

theorem tryRecord_of_written {pa key : Nat} (hx : w.dev.queue? v q = some x) (room : x.cqIndex ≠ (x.cqHead + x.C - 1) % x.C)
    (device : translate ((w.dev.seenBy (.dma (hubOf v)) v).vd v) needW (x.cqBase + 32 * x.cqIndex) = .device pa key)
    (written : writePiece v pa key (r.bytes x.cqPhase) none w = .ok w') :
    tryRecord v q r w = (.done, w'.on fun d => signalVec v x.msix
      (useXlt (.dma (hubOf v)) v [(x.cqBase + 32 * x.cqIndex, 32)] (d.setQueue v q x.bumpCq))) := by
  simp only [tryRecord, hx, if_neg room, device, written]

end

/-! ## Acknowledgements of an abort (R311) -/

theorem exec_abortAck (v : VDev) (q : QId) (e : Engine) (s : State) :
    exec (.abortAck v q e) s = .next (after s (doAbortAck v.val q.val e (work s))) := rfl

section
variable {v q : Nat} {w : Wk} {e : Engine} {c : Cmd}

/-- The current command once the hub has one acknowledgement more. -/
def abortAckTaken (v q : Nat) (e : Engine) (c : Cmd) (d : Dev) : Dev :=
  d.onCur v q fun x => { x with abortAcks := c.abortAcks.filter (· != e) }

theorem doAbortAck_of_last (hc : w.dev.cur? v q = some c) (acked : c.abortAcks = [e]) (none_ : c.aborts = [])
    (phase : c.phase = .aborting) :
    doAbortAck v q e w = afterAbort v q (w.on fun d => d.onCur v q fun c => { c with abortAcks := [] }) := by
  simp [doAbortAck, hc, acked, none_, phase]

theorem doAbortAck_of_more (hc : w.dev.cur? v q = some c) (acked : c.abortAcks.contains e = true)
    (more : c.aborts ≠ [] ∨ c.abortAcks.filter (· != e) ≠ []) : doAbortAck v q e w = w.on (abortAckTaken v q e c) := by
  have open_ : (c.phase == .aborting && (c.abortAcks.filter (· != e)).isEmpty && c.aborts.isEmpty) = false := by
    rcases more with h | h
    · simp [h]
    · simp only [List.isEmpty_eq_false_iff.mpr h, Bool.and_false, Bool.false_and]
  simp only [doAbortAck, hc, acked, open_, Bool.not_true, Bool.false_eq_true, if_false]
  rfl

end

/-! ## The undo journal (R421, R422) -/

theorem exec_undoJournalApplied (v : VDev) (q : QId) (s : State) :
    exec (.undoJournalApplied v q) s = .next (after s (doUndo v.val q.val (work s))) := rfl

/-- Freed records are gone. -/
theorem undo_freeUndos (w : Wk) (p : Undo → Bool) : ∀ u ∈ (freeUndos p w).dev.mc.undo, p u = false := by
  intro u hu
  have kept := (List.mem_filter.mp hu).2
  simpa using kept

/-- The lines of the records that can be read are restored, and the records of the command are freed. -/
def undoneReadable (no : Nat) (w : Wk) : Wk :=
  freeUndos (fun u => u.cmd == no) (((undosOf w.dev no).filter (undoReadable w.dev)).foldl (fun w u => applyUndo u w) w)

section
variable {v q : Nat} {w : Wk} {c : Cmd} (hc : w.dev.cur? v q = some c) (phase : c.phase = .replaying)
include hc phase

theorem doUndo_of_whole (whole : (undosOf w.dev c.no).all (undoReadable w.dev) = true) :
    doUndo v q w = placeAgain v q ((undosOf w.dev c.no).foldl (fun w u => applyUndo u w) w) := by
  have all_ : (undosOf w.dev c.no).filter (undoReadable w.dev) = undosOf w.dev c.no :=
    List.filter_eq_self.mpr (List.all_eq_true.mp whole)
  simp [doUndo, hc, phase, whole, all_]

theorem doUndo_of_torn_failing (torn : (undosOf w.dev c.no).all (undoReadable w.dev) = false) (out : c.failOut = none)
    (failing : c.thenReplay = false) : doUndo v q w = recordFailure v q (undoneReadable c.no w) := by
  simp [doUndo, hc, phase, torn, out, failing, undoneReadable]

theorem doUndo_of_torn_replaying (torn : (undosOf w.dev c.no).all (undoReadable w.dev) = false) (out : c.failOut = none)
    (replaying : c.thenReplay = true) : doUndo v q w = failCmd v q 0x11 Detail.none
      ((undoneReadable c.no (scribbleOuts v q w)).on fun d => d.onCur v q fun c => { c with thenReplay := false }) := by
  simp [doUndo, hc, phase, torn, out, replaying, undoneReadable]

end

/-! ## The statement -/

/-- Settles O22: a record takes the next entry where the ring has room, and the last acknowledgement, or the journal applied, ends an
abort. -/
theorem recordsAndAborts : Obligations.RecordsAndAborts := by
  unfold Obligations.RecordsAndAborts
  refine ⟨?written, ?full, ?lastAck, ?ack, ?whole, ?torn, undo_freeUndos⟩
  case written =>
    intro w v q r x pa key w' hx hub va room device written
    exact ⟨tryRecord_of_written hx room device written, length_recBytes ..⟩
  case full =>
    intro w v q r x hx full
    exact tryRecord_of_full hx full
  case lastAck =>
    intro s v q e c hc acked none_ phase
    rw [exec_abortAck, doAbortAck_of_last (w := work s) hc acked none_ phase]
  case ack =>
    intro s v q e c hc acked more
    refine gives_of_on (exec_abortAck ..) (doAbortAck_of_more (w := work s) hc acked more) ?_
    rw [abortAckTaken, Dev.cur?_onCur_same]
    exact congrArg (Option.map _) hc
  case whole =>
    intro s v q c hc phase whole
    rw [exec_undoJournalApplied, doUndo_of_whole (w := work s) hc phase whole]
    rfl
  case torn =>
    intro s v q c hc phase torn out back
    refine ⟨fun failing => ?_, fun replaying => ?_⟩
    · rw [exec_undoJournalApplied, doUndo_of_torn_failing (w := work s) hc phase torn out failing]
      rfl
    · rw [exec_undoJournalApplied, doUndo_of_torn_replaying (w := work s) hc phase torn out replaying]
      rfl

end Sys2Proof.Machine
end

section
/-! Completion and timeouts of commands (R278, R281, R283, R284, R286, R522). -/

namespace Sys2Proof.Machine

open Sys2Proof

/-- What a command leaves, once the work is known by another expression. -/
theorem next_after_of_eq {i : Instr} {s : State} {w w' : Wk} (hi : exec i s = .next (after s w)) (h : w = w') :
    exec i s = .next (after s w') := h ▸ hi

/-! ## The store of a fence unit (R214, R227) -/

/-- Every fence cell holds the same in `e` as in `d`, and is lost in one where it is lost in the other. -/
structure SameCells (d e : Dev) : Prop where
  cells : e.mc.cells = d.mc.cells
  regions : e.mc.regions = d.mc.regions
  lost : ∀ j, (e.die j).lost = (d.die j).lost

namespace SameCells

variable {d e f : Dev}

theorem trans (h : SameCells d e) (h' : SameCells e f) : SameCells d f :=
  ⟨h'.cells.trans h.cells, h'.regions.trans h.regions, fun j => (h'.lost j).trans (h.lost j)⟩

theorem cell (h : SameCells d e) (k : Nat) : e.cell k = d.cell k := by
  rw [Dev.cell, Dev.cell, h.cells]

theorem cellLost (h : SameCells d e) (k : Nat) : e.cellLost k = d.cellLost k := by
  simp only [Dev.cellLost, Dev.cellChan, Dev.regionChan, h.cell, h.lost, h.regions]

end SameCells

theorem storeRead_sameCells (k : Nat) (bad : Bool) (d : Dev) : SameCells d (storeRead k bad d) := by
  have stored (l : List Nat) : SameCells d (d.onDie (cellDie k) fun m => { m with store := l }) := by
    refine ⟨rfl, rfl, fun j => ?_⟩
    by_cases h : j = cellDie k
    · simp [Dev.onDie, Dev.onMc, Dev.die, h]
    · simp [Dev.onDie, Dev.onMc, Dev.die, Tab.getD_put_ne _ _ _ h]
  have bumped (e : Dev) : SameCells e (if bad then bump 1 e else e) := by
    split <;> exact ⟨rfl, rfl, fun _ => rfl⟩
  have counted (e : Dev) (b : Bool) : SameCells e (if b then e else countCh (cellHome k) 0 e) := by
    split <;> exact ⟨rfl, rfl, fun _ => rfl⟩
  exact ((stored _).trans (bumped _)).trans (counted ..)

/-- An operation that leaves the device as it is writes nothing through. -/
theorem storeWrite_self (k : Nat) (d : Dev) : storeWrite k d d = d := by
  simp [storeWrite]

section
variable {k : Nat} {v : BitVec 64} {d : Dev}

theorem storeOp_of_lost {α : Type} (lost : d.cellLost k = true) (bad : Bool) (go : Dev → α × Dev) : storeOp k bad go d = go d := by
  simp only [storeOp, lost, if_true]

theorem storeSignal_of_lost (lost : d.cellLost k = true) (bad : Bool) : storeOp k bad (commitSignal k v) d = (.refused 0x11, d) := by
  rw [storeOp_of_lost lost, commitSignal_of_lost lost]

/-- A signal at a fence that is not live is refused with the code the fence holds. -/
theorem storeSignal_of_not_live (kept : d.cellLost k = false) (live : (d.cell k).state ≠ 1) (bad : Bool) :
    storeOp k bad (commitSignal k v) d = (.refused (d.cell k).error.toNat, storeRead k bad d) := by
  have same := storeRead_sameCells k bad d
  have refused : commitSignal k v (storeRead k bad d) = (.refused (d.cell k).error.toNat, storeRead k bad d) := by
    simp [commitSignal, same.cellLost, same.cell, kept, live]
  simp [storeOp, kept, refused, storeWrite_self]

/-- A signal at a live fence is not refused. -/
theorem storeSignal_of_live (kept : d.cellLost k = false) (live : (d.cell k).state = 1) (bad : Bool) :
    (storeOp k bad (commitSignal k v) d).1 = .applied ∨ (storeOp k bad (commitSignal k v) d).1 = .stale := by
  have same := storeRead_sameCells k bad d
  have kept' := (same.cellLost k).trans kept
  have live' := (congrArg FCell.state (same.cell k)).trans live
  rw [storeOp, kept]
  by_cases hv : ((storeRead k bad d).cell k).value < v
  · exact .inl (by simp [commitSignal_of_lt kept' live' hv])
  · exact .inr (by simp [commitSignal_of_le kept' live' (BitVec.not_lt.mp hv)])

end

/-! ## Completion (R278, R281, R522) -/

theorem exec_commandComplete (v : VDev) (q : QId) (s : State) :
    exec (.commandComplete v q) s = .next (after s (doComplete v.val q.val (work s))) := rfl

/-- The audit slot of a command that completes, where it has one. -/
def slotWritten (v : Nat) (x : Queue) (c : Cmd) (w : Wk) : Wk × Option Acc :=
  if hasSlot x c then writeSlot v x c c.receipt w else (w, none)

/-- What a command does whose slot is written (R278, R281): its signal, where it has one here, commits before it succeeds. -/
def signalSent (v q : Nat) (c : Cmd) (w : Wk) : Wk :=
  match c.sig with
  | none => succeed v q w
  | some (.cell k) => match storeOp k false (commitSignal k c.sigValue) w.dev with
    | (.refused code, d) => failCommitted v q code Detail.none { w with dev := d }
    | (_, d) => succeed v q { w with dev := d }
  | some (.proxy pv s) => w.on fun d => sendFence (.proxy pv s) (.signal c.sigValue) (.signal v q c.no)
      (d.onCur v q fun c => { c with phase := .held })

section
variable {v q : Nat} {w : Wk} {x : Queue} {c : Cmd} (hx : w.dev.queue? v q = some x) (cur : x.cur = some c)
  (ready : c.canComplete = true) (timer : c.digestFlag = true → c.failOut = none)
include hx cur ready timer

/-- Neither its phase nor a FAIL of its timer holds the command up. -/
theorem doComplete_of_ready : doComplete v q w = (match (slotWritten v x c w).2 with
    | some e => failCmd v q 3 (Detail.xlate (x.auditBase + 1024 * c.index) (slotCause e)) (slotWritten v x c w).1
    | none => signalSent v q c (slotWritten v x c w).1) := by
  have goes : (!c.canComplete || (c.digestFlag && c.failOut.isSome)) = false := by
    cases digest : c.digestFlag with
    | false => simp [ready]
    | true => simp [ready, timer digest]
  simp only [doComplete, hx, cur, goes, Bool.false_eq_true, if_false]
  rfl

theorem doComplete_of_unwritable {e : Acc} (slot : (slotWritten v x c w).2 = some e) : doComplete v q w =
    failCmd v q 3 (Detail.xlate (x.auditBase + 1024 * c.index) (slotCause e)) (slotWritten v x c w).1 := by
  rw [doComplete_of_ready hx cur ready timer, slot]

theorem doComplete_of_slot (slot : (slotWritten v x c w).2 = none) :
    doComplete v q w = signalSent v q c (slotWritten v x c w).1 := by
  rw [doComplete_of_ready hx cur ready timer, slot]

end

section
variable {v q : Nat} {w : Wk} {c : Cmd}

theorem signalSent_of_none (sig : c.sig = none) : signalSent v q c w = succeed v q w := by
  rw [signalSent, sig]

theorem signalSent_of_proxy {pv i : Nat} (sig : c.sig = some (.proxy pv i)) : signalSent v q c w = w.on fun d =>
    sendFence (.proxy pv i) (.signal c.sigValue) (.signal v q c.no) (d.onCur v q fun c => { c with phase := .held }) := by
  rw [signalSent, sig]

variable {k : Nat} (sig : c.sig = some (.cell k))
include sig

theorem signalSent_of_live (kept : w.dev.cellLost k = false) (live : (w.dev.cell k).state = 1) :
    signalSent v q c w = succeed v q (w.on fun d => (storeOp k false (commitSignal k c.sigValue) d).2) := by
  have taken := storeSignal_of_live (v := c.sigValue) kept live false
  rw [signalSent, sig]
  dsimp only [Wk.on]
  generalize storeOp k false (commitSignal k c.sigValue) w.dev = r at taken ⊢
  obtain ⟨o, d⟩ := r
  rcases taken with rfl | rfl <;> rfl

theorem signalSent_of_not_live (kept : w.dev.cellLost k = false) (live : (w.dev.cell k).state ≠ 1) :
    signalSent v q c w = failCommitted v q (w.dev.cell k).error.toNat Detail.none (w.on (storeRead k false)) := by
  rw [signalSent, sig]
  dsimp only
  rw [storeSignal_of_not_live kept live]
  rfl

theorem signalSent_of_lost (lost : w.dev.cellLost k = true) : signalSent v q c w = failCommitted v q 0x11 Detail.none w := by
  rw [signalSent, sig]
  dsimp only
  rw [storeSignal_of_lost lost]

end

/-! ## Timeouts (R283, R284, R286) -/

theorem exec_commandTimeout (v : VDev) (q : QId) (s : State) :
    exec (.commandTimeout v q) s = .next (after s (doTimeout v.val q.val (work s))) := rfl

theorem advance_frozen (d : Dev) (h : Nat) (t : BitVec 64) (v : Nat) : ((d.advance h t).vd v).frozen = (d.vd v).frozen :=
  (congrArg Vd.frozen ((advance_metered d h t).vd_uncounted v) :)

section
variable {v q : Nat} {w : Wk} {x : Queue} {c : Cmd}

/-- The end of a command's timer: the owning hub's count has reached it. -/
def timerEnd (v : Nat) (x : Queue) (c : Cmd) (d : Dev) : Dev := d.advance (hubOf v) (c.start + x.timeoutTicks)

theorem doTimeout_of_dead (hx : w.dev.queue? v q = some x) (cur : x.cur = some c)
    (dead : c.timerLive = false ∨ ((w.dev.vd v).frozen = true ∧ c.started = false)) : doTimeout v q w = w.on (timerEnd v x c) := by
  have stands : (!c.timerLive || (w.dev.vd v).frozen && !c.started) = true := by
    rcases dead with h | ⟨h, h'⟩
    · simp [h]
    · simp [h, h']
  simp only [doTimeout, hx, cur, Wk.on_dev, advance_frozen, stands, if_true]
  rfl

variable (hx : w.dev.queue? v q = some x) (cur : x.cur = some c) (live : c.timerLive = true)
  (started : (w.dev.vd v).frozen = true → c.started = true)
include hx cur live started

theorem doTimeout_of_live : doTimeout v q w = (match c.sig with
    | none => failCommitted v q 2 Detail.none ((w.on (timerEnd v x c)).on fun d => d.onCur v q fun c => { c with expired := true })
    | some r => (w.on (timerEnd v x c)).on fun d => sendFence r (.fail 2 c.sigValue) (.timeout v q c.no 2)
        (d.onCur v q fun c => { c with failOut := some 2, expired := true })) := by
  have decides : (!c.timerLive || (w.dev.vd v).frozen && !c.started) = false := by
    cases frozen : (w.dev.vd v).frozen with
    | false => simp [live]
    | true => simp [live, started frozen]
  simp only [doTimeout, hx, cur, Wk.on_dev, advance_frozen, decides, Bool.false_eq_true, if_false]
  rfl

end

/-! ## The statement -/

/-- Settles O20: a command that is ready goes on to its slot and its signal, and a timer decides for a live command alone. -/
theorem commandsComplete : Obligations.CommandsComplete := by
  unfold Obligations.CommandsComplete
  refine ⟨?complete, ?live, ?dead⟩
  case complete =>
    intro s v q x c hx cur ready timer slot w run
    refine ⟨fun e failed => ?_, fun written => ?_⟩
    · exact next_after_of_eq (exec_commandComplete ..) (doComplete_of_unwritable (w := work s) hx cur ready timer failed)
    · have sent := next_after_of_eq (exec_commandComplete v q s) (doComplete_of_slot (w := work s) hx cur ready timer written)
      exact ⟨fun sig => next_after_of_eq sent (signalSent_of_none sig),
        fun k sig => ⟨fun kept live => next_after_of_eq sent (signalSent_of_live sig kept live),
          fun kept live => next_after_of_eq sent (signalSent_of_not_live sig kept live),
          fun lost => next_after_of_eq sent (signalSent_of_lost sig lost)⟩,
        fun pv i sig => next_after_of_eq sent (signalSent_of_proxy sig)⟩
  case live =>
    intro s v q x c hx cur live started
    have expired := doTimeout_of_live (w := work s) hx cur live started
    refine ⟨fun r sig => ?_, fun sig => ?_⟩
    · rw [sig] at expired
      exact gives_of_on (exec_commandTimeout ..) expired rfl
    · rw [sig] at expired
      rw [exec_commandTimeout, expired]
      rfl
  case dead =>
    intro s v q x c hx cur dead
    exact gives_of_on (exec_commandTimeout ..) (doTimeout_of_dead (w := work s) hx cur dead) rfl

end Sys2Proof.Machine
end

section
/-! How a command becomes current, eligible and checked (R280, R281, R283, R286, R216, R526, R259). -/

namespace Sys2Proof.Machine

open Sys2Proof

/-! ## The command that becomes current (R280, R281, R283) -/

theorem exec_commandCurrent (v : VDev) (q : QId) (s : State) :
    exec (.commandCurrent v q) s = .next (after s (doCurrent v.val q.val (work s))) := rfl

/-- The oldest command of a queue, with the rest behind it, may become current (R280, R289). -/
structure Oldest (d : Dev) (v q : Nat) (x : Queue) (c : Cmd) (rest : List Cmd) : Prop where
  queue : d.queue? v q = some x
  cur : x.cur = none
  fetched : x.fetched = c :: rest
  chain : x.chainNext = none
  state : x.state = .active ∨ x.state = .stalled ∨ x.state = .fetchError
  room : x.backlog.length + x.recWait.length < 256
  dispatching : d.dispatching v = true

/-- A command as its timer starts. -/
def Cmd.timed (c : Cmd) (v : Nat) (d : Dev) : Cmd := { c with start := d.hlcOf v }

/-- The oldest command stands as the current one, its timer started. -/
def madeCurrent (v q : Nat) (x : Queue) (c : Cmd) (rest : List Cmd) (d : Dev) : Dev := d.setQueue v q { x with
  cur := some (c.timed v d)
  fetched := rest }

/-- What becomes of the current command as it begins: one that has failed already, or that the front end refused, fails at once. -/
def currentStarts (v q : Nat) (c : Cmd) (w : Wk) : Wk :=
  match c.front, c.early with
  | _, some 0x70 => failCmd v q 0x70 Detail.none w
  | some r, _ => failCmd v q 0x22 ⟨r.addr, false, false, r.off, r.reason⟩ (w.on fun d => d.onCur v q fun c => { c with phase := .refusing })
  | none, some 1 => failCommitted v q 1 Detail.none w
  | none, some code => failCmd v q code Detail.none w
  | none, none => w.on fun d => markEligible v q (registerWaits v q c d)

section
variable {v q : Nat} {w : Wk} {x : Queue} {c : Cmd} {rest : List Cmd} (h : Oldest w.dev v q x c rest)
include h

theorem Oldest.not_held_back : (!(x.state == .active || x.state == .stalled || x.state == .fetchError) ||
    decide (256 ≤ x.backlog.length + x.recWait.length) || !w.dev.dispatching v) = false := by
  rcases h.state with e | e | e <;> simp [e, h.room, h.dispatching]

theorem doCurrent_of_oldest : doCurrent v q w = currentStarts v q (c.timed v w.dev) (w.on (madeCurrent v q x c rest)) := by
  unfold doCurrent
  rw [h.queue]
  dsimp only
  split
  next fetched _ =>
    obtain ⟨rfl, rfl⟩ := List.cons.inj (fetched.symm.trans h.fetched)
    rw [if_neg (Bool.eq_false_iff.mp h.not_held_back)]
    rfl
  next other => exact absurd h.chain (other c rest h.cur h.fetched)

end

section
variable {v q : Nat} {w : Wk} {c : Cmd}

theorem currentStarts_of_accepted (front : c.front = none) (early : c.early = none) :
    currentStarts v q c w = w.on fun d => markEligible v q (registerWaits v q c d) := by
  rw [currentStarts, front, early]

theorem currentStarts_of_refused {r : Refuse} (front : c.front = some r) (early : c.early ≠ some 0x70) : currentStarts v q c w =
    failCmd v q 0x22 ⟨r.addr, false, false, r.off, r.reason⟩ (w.on fun d => d.onCur v q fun c => { c with phase := .refusing }) := by
  unfold currentStarts
  split
  next lost => exact absurd lost early
  next e _ => rw [Option.some.inj (e.symm.trans front)]
  next e _ => exact absurd (front.symm.trans e) (Option.some_ne_none r)
  next e _ => exact absurd (front.symm.trans e) (Option.some_ne_none r)
  next e _ => exact absurd (front.symm.trans e) (Option.some_ne_none r)

/-- A command that failed before its turn is recorded with its code, or sends its FAIL now. -/
theorem currentStarts_of_early {code : Nat} (early : c.early = some code) (named : code = 0x70 ∨ c.front = none) :
    currentStarts v q c w = (if code = 1 then failCommitted v q 1 Detail.none w else failCmd v q code Detail.none w) := by
  unfold currentStarts
  split
  next lost =>
    obtain rfl := Option.some.inj (early.symm.trans lost)
    rfl
  next front lost =>
    rcases named with rfl | none_
    · exact absurd early lost
    · exact absurd (front.symm.trans none_) (Option.some_ne_none _)
  next one =>
    obtain rfl := Option.some.inj (early.symm.trans one)
    rfl
  next other _ sent =>
    obtain rfl := Option.some.inj (early.symm.trans sent)
    exact (if_neg other).symm
  next none_ => exact absurd (early.symm.trans none_) (Option.some_ne_none code)

end

theorem registerWaits_of_none {c : Cmd} (waits : c.waits = []) (v q : Nat) (d : Dev) : registerWaits v q c d = d := by
  simp [registerWaits, waits]

/-- A command without waits is eligible at once. -/
theorem cur?_markEligible_of_no_waits {v q : Nat} {d : Dev} {c : Cmd} (hc : d.cur? v q = some c) (waits : c.waits = [])
    (phase : c.phase = .waiting) : (markEligible v q d).cur? v q = some { c with
      phase := .eligible
      eligAt := d.hlcOf v } := by
  rw [markEligible, Dev.cur?_onCur_same, hc]
  simp [waits, phase]

theorem cur?_madeCurrent (v q : Nat) (x : Queue) (c : Cmd) (rest : List Cmd) (d : Dev) :
    (madeCurrent v q x c rest d).cur? v q = some (c.timed v d) :=
  cur?_of_queue? (Dev.queue?_setQueue_same ..)

/-! ## Waits (R216, R281, R286) -/

theorem exec_fenceWaitNotify (id : Nat) (s : State) : exec (.fenceWaitNotify id) s = .next (after s (doWaitNotify id (work s))) := rfl

/-- A notification is off its way. -/
def noteTaken (rest : List FNote) (d : Dev) : Dev := d.onFx fun x => { x with notes := rest }

section
variable {id : Nat} {w : Wk} {n : FNote} {rest : List FNote} (took : takeFirst (fun n => n.id == id) w.dev.fx.notes = some (n, rest))
include took

theorem doWaitNotify_of_remote {p rid : Nat} (src : n.src = .remote p rid) :
    doWaitNotify id w = (w.on (noteTaken rest)).on fun d => d.emit (.fenceNote p rid n.err) := by
  simp only [doWaitNotify, took, src]
  rfl

variable {v q no i : Nat} {c : Cmd} (src : n.src = .wait v q no i) (hc : w.dev.cur? v q = some c) (own : c.no = no)
  (phase : c.phase = .waiting)
include src hc own phase

theorem doWaitNotify_of_signalled (signalled : n.err = none) : doWaitNotify id w = (w.on (noteTaken rest)).on fun d =>
    markEligible v q (d.onCur v q fun c => { c with waitsOk := c.waitsOk ++ [i] }) := by
  have current : (w.on (noteTaken rest)).dev.cur? v q = some c := hc
  have waits : (decide (c.no ≠ no) || c.phase != .waiting) = false := by simp [own, phase]
  unfold noteTaken at current ⊢
  simp only [doWaitNotify, took, src, current, waits, signalled, Bool.false_eq_true, if_false]

/-- The only notification on its way fails its command with the code it carries. -/
theorem doWaitNotify_of_error {code : Nat} (error : n.err = some code) (last : rest = []) : doWaitNotify id w =
    failCmd v q code ⟨0, false, true, i, 0⟩ (w.on (noteTaken [])) := by
  subst last
  have current : (w.on (noteTaken [])).dev.cur? v q = some c := hc
  have waits : (decide (c.no ≠ no) || c.phase != .waiting) = false := by simp [own, phase]
  unfold noteTaken at current ⊢
  simp only [doWaitNotify, took, src, current, waits, error, Bool.false_eq_true, if_false]
  rfl

end

/-! ## The checks (R526) -/

theorem checkEligible_of_bad_level {w : Wk} {c : Cmd} (bad : c.acl = 0 ∨ w.dev.fw.aclMax.toNat < c.acl) (v : Nat) (x : Queue) :
    checkEligible w v x c = .error (.fail 0x20 ⟨0, false, false, c.acl, 0⟩) := by
  have level : (decide (c.acl = 0) || decide (w.dev.fw.aclMax.toNat < c.acl)) = true := by simpa using bad
  simp only [checkEligible, level, if_true]
  rfl

section
variable {w : Wk} {v : Nat} {c : Cmd} (low : 0 < c.acl) (high : c.acl ≤ w.dev.fw.aclMax.toNat)
include low high

theorem level_good : (decide (c.acl = 0) || decide (w.dev.fw.aclMax.toNat < c.acl)) = false := by
  simp [Nat.not_lt.mpr high, Nat.ne_of_gt low]

theorem checkEligible_of_revoked {a : Nat} (revoked : revokedAt w.dev v (c.ins ++ c.outs) = some a) (x : Queue) :
    checkEligible w v x c = .error (.fail 4 (Detail.xlate a 0)) := by
  simp only [checkEligible, level_good low high, revoked, Bool.false_eq_true, if_false]
  rfl

theorem checkEligible_of_nop (nop : c.kind = 0) (kept : revokedAt w.dev v (c.ins ++ c.outs) = none) (journal : c.journalFlag = false)
    (x : Queue) : checkEligible w v x c = .ok { c with resv := [] } := by
  have reserves : reservation w.dev v c = [] := by simp [reservation, journal]
  simp only [checkEligible, level_good low high, kept, nop, Bool.false_eq_true, if_false, Nat.zero_ne_one, OfNat.zero_ne_ofNat,
    bind, Except.bind, reserves, must]
  rfl

end

/-! ## COMMAND_ELIGIBLE (R526, R240, R246, R259) -/

/-- What the read of a structure of an eligible command meets at its home (R219). -/
def eligibleRead (v q : Nat) (bad : Option (Nat × ReadFault)) (w : Wk) : Wk := meetRead (hubEng v) v bad
  (curSpans v q (fun c => if c.phase == .eligible then [(c.param, 4160)] else []) w) w

theorem exec_commandEligible (v : VDev) (q : QId) (bad : Option (Nat × ReadFault)) (s : State) : exec (.commandEligible v ⟨q, bad⟩) s =
    .next (after s (doEligible v.val q.val (eligibleRead v.val q.val bad (work s)))) := rfl

theorem exec_commandEligible_good (v : VDev) (q : QId) (s : State) : exec (.commandEligible v (.good q)) s =
    .next (after s (doEligible v.val q.val (work s))) := rfl

theorem eligibleRead_of_fault {v q : Nat} {w : Wk} {c : Cmd} (hc : w.dev.cur? v q = some c) (va : Nat) (f : ReadFault) :
    eligibleRead v q (some (va, f)) w = (if c.phase = .eligible ∧ rangesMeet (c.param, 4160) (va, 1) = true
      then meetSpan (.dma (hubOf v)) v [(va, 1)] f w else w) := by
  by_cases phase : c.phase = .eligible
  · simp [eligibleRead, meetRead, curSpans, hc, phase, hubEng]
  · simp [eligibleRead, meetRead, curSpans, hc, phase]

/-- What the checks of a command leave: the command with what they read, and the caches that its lists and structures went through. -/
def checksDone (v q : Nat) (c : Cmd) (d : Dev) : Dev :=
  noteChecks v c (useXlt (listEng d v) v (c.ins ++ c.outs) (dropHostBuf v (d.onCur v q fun _ => c)))

section
variable {v q : Nat} {w : Wk} {x : Queue} {c : Cmd} (hx : w.dev.queue? v q = some x) (cur : x.cur = some c)
include hx cur

theorem doEligible_of_lists_wait (lists : listsWait w.dev v (c.ins ++ c.outs) = true) : doEligible v q w = w := by
  simp only [doEligible, hx, cur, lists, if_true, ite_self]

variable (dispatching : w.dev.dispatching v = true) (lists : listsWait w.dev v (c.ins ++ c.outs) = false)
include dispatching lists

theorem doEligible_of_resident (phase : c.phase = .resid) : doEligible v q w =
    checkResidency v q (w.on (useXlt (listEng w.dev v) v (c.ins ++ c.outs))) := by
  simp [doEligible, hx, cur, dispatching, lists, phase]

theorem doEligible_of_stopped (phase : c.phase = .eligible) {e : Stop} (stopped : checkEligible w v x c = .error e) :
    doEligible v q w = stopCmd (hubEng v) v q x c e w := by
  simp [doEligible, hx, cur, dispatching, lists, phase, stopped]

theorem doEligible_of_checked (phase : c.phase = .eligible) {c' : Cmd} (checked : checkEligible w v x c = .ok c') :
    doEligible v q w = checkResidency v q (w.on (checksDone v q c')) := by
  simp only [doEligible, hx, cur, dispatching, lists, phase, checked]
  rfl

end

theorem useXlt_vds (e : XEng) (v : Nat) (spans : List (Nat × Nat)) (d : Dev) : (useXlt e v spans d).vds = d.vds := by
  have missed (d : Dev) : (countMiss e d).vds = d.vds := by cases e <;> rfl
  have used (d : Dev) (c : CEntry) : (useEntry e c d).vds = d.vds := by
    unfold useEntry
    split
    · rfl
    · dsimp only
      split <;> exact missed d
  exact foldl_keeps Dev.vds (f := fun d c => useEntry e c d) used _ d

theorem countIo_vds (ctx r n : Nat) (d : Dev) : (countIo ctx r n d).vds = d.vds := by
  unfold countIo Dev.onCtx
  split <;> rfl

theorem noteRead_vds (e : XEng) (v : Nat) (need : Need) (spans : List (Nat × Nat)) (d : Dev) : (noteRead e v need spans d).vds = d.vds :=
  (foldl_keeps Dev.vds (f := fun d (l : Nat × Nat) => readLine v l.2 l.1 d) (fun _ _ => readLine_vds ..) _ _).trans (useXlt_vds ..)

theorem readFor_vds (ctx : Nat) (e : XEng) (v : Nat) (need : Need) (spans : List (Nat × Nat)) (d : Dev) :
    (readFor ctx e v need spans d).vds = d.vds :=
  (countIo_vds ..).trans (noteRead_vds ..)

theorem noteChecks_vds (v : Nat) (c : Cmd) (d : Dev) : (noteChecks v c d).vds = d.vds := by
  unfold noteChecks
  extract_lets e
  have block : e.vds = d.vds := by
    unfold e
    split
    · rfl
    · exact readFor_vds ..
  split
  · exact (readFor_vds ..).trans block
  · exact block

theorem checksDone_vds (v q : Nat) (c : Cmd) (d : Dev) : (checksDone v q c d).vds = (d.onCur v q fun _ => c).vds :=
  (noteChecks_vds ..).trans (useXlt_vds ..)

theorem cur?_checksDone {v q : Nat} {d : Dev} {c : Cmd} (hc : d.cur? v q = some c) (c' : Cmd) :
    (checksDone v q c' d).cur? v q = some c' := by
  rw [cur?_congr (checksDone_vds v q c' d), Dev.cur?_onCur_same, hc]
  rfl

/-- A command whose pages are all in device memory, or that does not digest, is checked. -/
theorem checkResidency_of_here {v q : Nat} {w : Wk} {c : Cmd} (hc : w.dev.cur? v q = some c)
    (here : c.digestFlag = true → awayPages w.dev v c = []) (kept : revokedAt w.dev v (c.ins ++ c.outs) = none) :
    checkResidency v q w = w.on fun d => d.onCur v q fun c => { c with phase := .checked } := by
  have away : (if c.digestFlag then awayPages w.dev v c else []) = [] := by
    split
    case isTrue digest => exact here digest
    case isFalse => rfl
  simp [checkResidency, hc, kept, away]

/-! ## The statement -/

/-- Settles O16: the oldest command becomes current and starts by what the front end found, a wait is counted or fails it, and the checks
decide what becomes of it. -/
theorem eligibilityAndChecks : Obligations.EligibilityAndChecks := by
  unfold Obligations.EligibilityAndChecks
  refine ⟨?accepted, ?refused, ?early, ?signalled, ?remote, ?error, ?checked, ?resident, ?listsWait, ?fault, ?stopped,
    fun w v x c bad => checkEligible_of_bad_level bad v x, fun w v x c a low high revoked => checkEligible_of_revoked low high revoked x,
    fun w v x c low high nop kept journal => checkEligible_of_nop low high nop kept journal x⟩
  case accepted =>
    intro s v q x c rest hx cur fetched chain state room dispatching front early
    have oldest : Oldest (work s).dev v.val q.val x c rest := ⟨hx, cur, fetched, chain, state, room, dispatching⟩
    refine gives_of_on (exec_commandCurrent ..) ((doCurrent_of_oldest oldest).trans (currentStarts_of_accepted front early))
      ⟨rfl, fun waits phase => ?_⟩
    rw [registerWaits_of_none (c := c.timed v.val (work s).dev) waits]
    exact cur?_markEligible_of_no_waits (cur?_madeCurrent ..) waits phase
  case refused =>
    intro s v q x c rest r hx cur fetched chain state room dispatching front early
    have oldest : Oldest (work s).dev v.val q.val x c rest := ⟨hx, cur, fetched, chain, state, room, dispatching⟩
    exact next_after_of_eq (exec_commandCurrent ..) ((doCurrent_of_oldest oldest).trans (currentStarts_of_refused front early))
  case early =>
    intro s v q x c rest code hx cur fetched chain state room dispatching early named
    have oldest : Oldest (work s).dev v.val q.val x c rest := ⟨hx, cur, fetched, chain, state, room, dispatching⟩
    exact next_after_of_eq (exec_commandCurrent ..) ((doCurrent_of_oldest oldest).trans (currentStarts_of_early early named))
  case signalled =>
    intro s id n rest v q no i c took src hc own phase signalled
    exact gives_of_on (exec_fenceWaitNotify ..) (doWaitNotify_of_signalled (w := work s) took src hc own phase signalled) rfl
  case remote =>
    intro s id n rest p rid took src
    exact gives_of_on (exec_fenceWaitNotify ..) (doWaitNotify_of_remote (w := work s) took src) rfl
  case error =>
    intro s id n v q no i code c notes named src hc own phase error
    have took : takeFirst (fun n => n.id == id) (work s).dev.fx.notes = some (n, []) := by
      simp [work, notes, takeFirst, named]
    exact next_after_of_eq (exec_fenceWaitNotify ..) (doWaitNotify_of_error took src hc own phase error rfl)
  case checked =>
    intro s v q x c c' hx cur dispatching phase lists checked w
    have run := next_after_of_eq (exec_commandEligible_good v q s)
      (doEligible_of_checked (w := work s) hx cur dispatching lists phase checked)
    refine ⟨run, fun here kept => ?_⟩
    have current : w.dev.cur? v.val q.val = some c' := cur?_checksDone ((cur?_of_queue? hx).trans cur) c'
    refine gives_of_on run (checkResidency_of_here current here kept) ?_
    rw [Dev.cur?_onCur_same]
    exact congrArg (Option.map _) current
  case resident =>
    intro s v q x c hx cur dispatching phase lists
    exact next_after_of_eq (exec_commandEligible_good ..) (doEligible_of_resident (w := work s) hx cur dispatching lists phase)
  case listsWait =>
    intro s v q x c hx cur lists
    exact next_after_of_eq (exec_commandEligible_good ..) (doEligible_of_lists_wait (w := work s) hx cur lists)
  case fault =>
    intro s v q c va f hc
    exact next_after_of_eq (exec_commandEligible ..) (congrArg (doEligible v.val q.val) (eligibleRead_of_fault (w := work s) hc va f))
  case stopped =>
    intro s v q x c e hx cur dispatching phase lists stopped
    exact next_after_of_eq (exec_commandEligible_good ..) (doEligible_of_stopped (w := work s) hx cur dispatching lists phase stopped)

end Sys2Proof.Machine
end

section
/-! The front end fetches descriptors (R267, R274, R275, R282, R219). -/

namespace Sys2Proof.Machine

open Sys2Proof

/-! ## Ring entries (R267) -/

/-- What the read of the entry at the head of the ring meets at its home (R219). -/
def entryRead (v q : Nat) (bad : Option (Nat × ReadFault)) (w : Wk) : Wk := meetRead (hubEng v) v bad (match w.dev.queue? v q with
  | some x => if x.sqHead == x.tail then [] else descSpans v (x.sqBase + 128 * x.sqHead) w
  | none => []) w

theorem exec_commandFetch (v : VDev) (q : QId) (bad : Option (Nat × ReadFault)) (s : State) : exec (.commandFetch v ⟨q, bad⟩) s =
    .next (after s (doFetch v.val q.val (entryRead v.val q.val bad (work s)))) := rfl

theorem exec_commandFetch_good (v : VDev) (q : QId) (s : State) : exec (.commandFetch v (.good q)) s =
    .next (after s (doFetch v.val q.val (work s))) := rfl

section
variable {v q : Nat} {w : Wk} {x : Queue} (hx : w.dev.queue? v q = some x)
include hx

theorem entryRead_of_fault (va : Nat) (f : ReadFault) : entryRead v q (some (va, f)) w =
    (if (if x.sqHead == x.tail then [] else descSpans v (x.sqBase + 128 * x.sqHead) w).any fun r => rangesMeet r (va, 1)
      then meetSpan (.dma (hubOf v)) v [(va, 1)] f w else w) := by
  rw [entryRead, hx]
  rfl

theorem doFetch_of_submitted (fetches : x.state.fetches = true) (submitted : x.sqHead ≠ x.tail) (frozen : (w.dev.vd v).frozen = false)
    (ready : w.dev.boot.ready = true) (level : w.dev.sec.level ≠ 3) : doFetch v q w = (fetchEntry v q x w).2 := by
  simp [doFetch, hx, fetches, submitted, frozen, ready, level]

theorem doFetch_of_idle (idle : x.state.fetches = false ∨ x.sqHead = x.tail ∨ (w.dev.vd v).frozen = true) : doFetch v q w = w := by
  rcases idle with h | h | h <;> simp [doFetch, hx, h]

end

/-! ## Descriptors (R274, R275) -/

/-- The command of a descriptor with the fences it names (R306). -/
def describedCmd (v ord addr index chain : Nat) (desc : List Byte) (d : Dev) : Cmd :=
  bindFences (d.vd v) (mkCmd d.sched.nextCmd ord addr index chain desc)

/-- A number is given out to a command, and the host lines that its fetch has used are dropped. -/
def numberTaken (v : Nat) (d : Dev) : Dev := dropHostBuf v (d.onSched fun s => { s with nextCmd := s.nextCmd + 1 })

section
variable {v ord addr index chain : Nat} {w : Wk} {x : Queue} {desc : List Byte}
  (read : readAs (.dma (hubOf v)) w v needR addr 128 = .ok desc)
include read

theorem fetchDesc_of_refused {r : Refuse} (refused : checkDesc w.dev v x (describedCmd v ord addr index chain desc w.dev) = some r)
    (q pred : Nat) {got : Cmd}
    (preset : presetEarly w.dev x { describedCmd v ord addr index chain desc w.dev with front := some r } = got) :
    fetchDesc v q x ord addr index chain pred w =
      (.got got, w.on fun d => if got.early = some 1 then failEarly v x.uid 1 got (numberTaken v d) else numberTaken v d) := by
  unfold describedCmd at refused preset
  subst preset
  simp only [fetchDesc, read, refused]
  rfl

theorem fetchDesc_of_no_ranges (checked : checkDesc w.dev v x (describedCmd v ord addr index chain desc w.dev) = none)
    (ranges : fieldLe desc 0x28 2 + fieldLe desc 0x2A 2 = 0) (q pred : Nat) {got : Cmd}
    (preset : presetEarly w.dev x { describedCmd v ord addr index chain desc w.dev with
      front := checkRanges w.dev v x (describedCmd v ord addr index chain desc w.dev) pred } = got)
    (alive : got.early ≠ some 1) :
    fetchDesc v q x ord addr index chain pred w = (.got got, w.on (numberTaken v)) := by
  unfold describedCmd at checked preset
  simp only [fetchDesc, read, checked, ranges, if_true, preset, if_neg alive]
  rfl

end

/-! ## Successors (R282) -/

/-- What the read of the successor that a completed command named meets at its home (R219). -/
def successorRead (v q : Nat) (bad : Option (Nat × ReadFault)) (w : Wk) : Wk := meetRead (hubEng v) v bad
  (match (w.dev.queue? v q).bind Queue.chainNext with
    | some n => descSpans v n.addr w
    | none => []) w

theorem exec_chainSuccessorFetch (v : VDev) (q : QId) (bad : Option (Nat × ReadFault)) (s : State) :
    exec (.chainSuccessorFetch v ⟨q, bad⟩) s =
      .next (after s (doChainFetch v.val q.val (successorRead v.val q.val bad (work s)))) := rfl

theorem exec_chainSuccessorFetch_good (v : VDev) (q : QId) (s : State) : exec (.chainSuccessorFetch v (.good q)) s =
    .next (after s (doChainFetch v.val q.val (work s))) := rfl

section
variable {v q : Nat} {w : Wk} {x : Queue} {n : Chain} (hx : w.dev.queue? v q = some x) (hn : x.chainNext = some n)
include hx hn

theorem successorRead_of_fault (va : Nat) (f : ReadFault) : successorRead v q (some (va, f)) w =
    (if (descSpans v n.addr w).any fun r => rangesMeet r (va, 1) then meetSpan (.dma (hubOf v)) v [(va, 1)] f w else w) := by
  rw [successorRead, hx, Option.bind_some, hn]
  rfl

theorem doChainFetch_of_leader_down {k : Nat} (leader : n.cluster = some k) (down : (w.dev.proc (4 + k)).up = false) :
    doChainFetch v q w = w := by
  simp [doChainFetch, hx, hn, leader, down]

theorem doChainFetch_of_named (state : x.state.fetches = true ∨ x.state = .fetchError) (frozen : (w.dev.vd v).frozen = false)
    (level : w.dev.sec.level ≠ 3) (up : (n.cluster.any fun k => !(w.dev.proc (4 + k)).up) = false) :
    doChainFetch v q w = (fetchNamed v q x n w).2 := by
  have reads : (!(x.state.fetches || x.state == .fetchError) || (w.dev.vd v).frozen || w.dev.sec.level == 3 ||
      (n.cluster.any fun k => !(w.dev.proc (4 + k)).up)) = false := by
    rcases state with h | h <;> simp [h, frozen, level, up]
  simp only [doChainFetch, hx, hn, reads, Bool.false_eq_true, if_false]

end

/-- The successor stands before every fetched entry. -/
def successorPut (v q : Nat) (c : Cmd) (d : Dev) : Dev := d.onQueue v q fun x => { x with
  fetched := c :: x.fetched
  chainNext := none
  rlistFail := 0 }

/-- A successor at a misaligned address, refused unread. -/
def misaligned (x : Queue) (n : Chain) (d : Dev) : Cmd :=
  presetEarly d x { mkCmd d.sched.nextCmd n.ord n.addr n.index n.pos [] with front := some ⟨0x09, n.pred, 0x30⟩ }

theorem fetchNamed_of_misaligned {n : Chain} (off : n.addr % 128 ≠ 0) (v q : Nat) (x : Queue) (w : Wk) : (fetchNamed v q x n w).2 =
    (w.on fun d => d.onSched fun s => { s with nextCmd := s.nextCmd + 1 }).on (successorPut v q (misaligned x n w.dev)) := by
  rw [fetchNamed, if_pos off]
  rfl

/-- A refusal that does not name the context stands, whatever failed the command before its turn (R313). -/
theorem presetEarly_of_refused {d : Dev} {x : Queue} {c : Cmd} {r : Refuse} (front : c.front = some r)
    (other : r ≠ ⟨0x08, c.addr, 8⟩) :
    (presetEarly d x c).front = some r ∧ (presetEarly d x c).addr = c.addr := by
  have unnamed : (c.front.isNone || c.front == some ⟨0x08, c.addr, 8⟩) = false := by simp [front, other]
  unfold presetEarly
  extract_lets named
  rw [show named = false from unnamed, Bool.false_and]
  split
  · exact ⟨front, rfl⟩
  · simp [front]

theorem misaligned_front (x : Queue) (n : Chain) (d : Dev) :
    (misaligned x n d).front = some ⟨0x09, n.pred, 0x30⟩ ∧ (misaligned x n d).addr = n.addr :=
  presetEarly_of_refused rfl (by simp)

/-! ## The statement -/

/-- Settles O15: the front end takes the entry at the head, or the successor that a completed command named, as the read of its descriptor
comes out. -/
theorem commandsAreFetched : Obligations.CommandsAreFetched := by
  unfold Obligations.CommandsAreFetched
  refine ⟨?entry, ?idle, ?noRanges, ?refused, ?successor, ?leaderDown, ?entryFault, ?successorFault, ?misaligned⟩
  case entry =>
    intro s v q x hx fetches submitted frozen ready level run
    have read : run = _ := next_after_of_eq (exec_commandFetch_good v q s)
      (doFetch_of_submitted (w := work s) hx fetches submitted frozen ready level)
    rw [fetchEntry] at read
    generalize fetchDesc v.val q.val x (x.nFetched + 1) (x.sqBase + 128 * x.sqHead) x.sqHead 0 0 (work s) = fetched at read ⊢
    obtain ⟨f, w⟩ := fetched
    cases f <;> exact read
  case idle =>
    intro s v q x hx idle
    exact next_after_of_eq (exec_commandFetch_good v q s) (doFetch_of_idle (w := work s) hx idle)
  case noRanges =>
    intro s v q x ord addr index chain pred desc c got read checked ranges alive
    exact fetchDesc_of_no_ranges (w := work s) read checked ranges q pred rfl alive
  case refused =>
    intro s v q x ord addr index chain pred desc r c got read refused
    exact fetchDesc_of_refused (w := work s) read refused q pred rfl
  case successor =>
    intro s v q x n hx hn state frozen level up aligned run
    have read : run = _ := next_after_of_eq (exec_chainSuccessorFetch_good v q s)
      (doChainFetch_of_named (w := work s) hx hn state frozen level up)
    rw [fetchNamed, if_neg (not_not_intro aligned)] at read
    generalize fetchDesc v.val q.val x n.ord n.addr n.index n.pos n.pred (work s) = fetched at read ⊢
    obtain ⟨f, w⟩ := fetched
    cases f <;> exact read
  case leaderDown =>
    intro s v q x n k hx hn leader down
    exact next_after_of_eq (exec_chainSuccessorFetch_good v q s) (doChainFetch_of_leader_down (w := work s) hx hn leader down)
  case entryFault =>
    intro s v q x va f hx spans
    exact next_after_of_eq (exec_commandFetch ..) (congrArg (doFetch v.val q.val) (entryRead_of_fault (w := work s) hx va f))
  case successorFault =>
    intro s v q x n va f hx hn
    exact next_after_of_eq (exec_chainSuccessorFetch ..)
      (congrArg (doChainFetch v.val q.val) (successorRead_of_fault (w := work s) hx hn va f))
  case misaligned =>
    intro s v q x n hx hn state frozen level up off
    refine gives_of_on (exec_chainSuccessorFetch_good v q s)
      ((doChainFetch_of_named (w := work s) hx hn state frozen level up).trans (fetchNamed_of_misaligned off ..)) ?_
    obtain ⟨front, addr⟩ := misaligned_front x n s.dev
    exact ⟨_, misaligned x n s.dev, (Dev.queue?_onQueue_same ..).trans (congrArg (Option.map _) hx), rfl, rfl, front, addr⟩

end Sys2Proof.Machine
end

section
/-! Bytes of a little-endian number. -/

namespace Sys2Proof

/-- The number of a list of bytes, written out again. -/
theorem natLe_leNat (bs : List Byte) : natLe bs.length (leNat bs) = bs := by
  induction bs with
  | nil => rfl
  | cons b bs ih =>
    have low : (b.toNat + 256 * leNat bs) / 256 = leNat bs := by have := b.isLt; omega
    simp only [List.length_cons, leNat, natLe, low, ih]
    congr 1
    apply BitVec.eq_of_toNat_eq
    simpa using b.isLt

/-- The bytes of a number, one by one. -/
theorem map_bytes_leNat (bs : List Byte) : ((List.range bs.length).map fun i => BitVec.ofNat 8 (leNat bs / 256 ^ i)) = bs := by
  refine List.ext_getElem? fun i => ?_
  by_cases hi : i < bs.length
  · have byte := getElem?_natLe hi (leNat bs)
    rw [natLe_leNat] at byte
    rw [byte, List.getElem?_map, List.getElem?_range hi, Option.map_some, Nat.pow_mul]
  · simp [hi]

theorem leNat_eq_sum (bs : List Byte) : leNat bs = ∑ i ∈ Finset.range bs.length, (bs.getD i 0).toNat * 256 ^ i := by
  induction bs with
  | nil => rfl
  | cons b bs ih =>
    rw [leNat, ih, List.length_cons, Finset.sum_range_succ', Finset.mul_sum, Nat.add_comm]
    simp only [List.getD_cons_zero, List.getD_cons_succ, Nat.pow_zero, Nat.mul_one]
    congr 1
    exact Finset.sum_congr rfl fun i _ => by rw [Nat.pow_succ]; ring

end Sys2Proof
end

section
/-! REGISTER_WRITE (R524, R525, R261, R465, R3, R7): which registers a write touches, and what it leaves in each. -/

namespace Sys2Proof.Machine

open Sys2Proof

/-! ## The bits that a write covers -/

/-- The bits of byte `i` of a register that a write covers, and their values. -/
def coverByte (off wo : Nat) (bs : List Byte) (i : Nat) : Nat × Nat :=
  if wo ≤ off + i && decide (off + i < wo + bs.length) then (255 * 256 ^ i, (bs.getD (off + i - wo) 0).toNat * 256 ^ i) else (0, 0)

theorem covers_eq_sum (off width wo : Nat) (bs : List Byte) : covers off width wo bs =
    (∑ i ∈ Finset.range width, (coverByte off wo bs i).1, ∑ i ∈ Finset.range width, (coverByte off wo bs i).2) := by
  have fold (l : List (Nat × Nat)) (a : Nat × Nat) :
      l.foldl (fun a b => (a.1 + b.1, a.2 + b.2)) a = (a.1 + (l.map Prod.fst).sum, a.2 + (l.map Prod.snd).sum) := by
    induction l generalizing a with
    | nil => simp
    | cons b l ih => simp [ih, Nat.add_assoc]
  refine (fold ((List.range width).map (coverByte off wo bs)) (0, 0)).trans ?_
  rw [List.map_map, List.map_map, Nat.zero_add, Nat.zero_add]
  rfl

theorem covers_of_disjoint {off width wo : Nat} {bs : List Byte} (apart : wo + bs.length ≤ off ∨ off + width ≤ wo) :
    covers off width wo bs = (0, 0) := by
  have none_ (i : Nat) (hi : i ∈ Finset.range width) : coverByte off wo bs i = (0, 0) := by
    have := Finset.mem_range.mp hi
    refine if_neg ?_
    simp only [Bool.and_eq_true, decide_eq_true_eq]
    omega
  rw [covers_eq_sum, Finset.sum_eq_zero fun i hi => congrArg Prod.fst (none_ i hi),
    Finset.sum_eq_zero fun i hi => congrArg Prod.snd (none_ i hi)]

theorem covers_whole (off : Nat) (bs : List Byte) : covers off bs.length off bs = (ones (8 * bs.length), leNat bs) := by
  have each (i : Nat) (hi : i ∈ Finset.range bs.length) :
      coverByte off off bs i = (256 ^ i * 255, (bs.getD i 0).toNat * 256 ^ i) := by
    have := Finset.mem_range.mp hi
    simp [coverByte, this, Nat.mul_comm]
  have mask : (∑ i ∈ Finset.range bs.length, 256 ^ i * 255) = ones (8 * bs.length) := by
    have geom := geom_sum_mul_add 255 bs.length
    rw [← Finset.sum_mul, ones, Nat.pow_mul]
    exact Nat.eq_sub_of_add_eq geom
  rw [covers_eq_sum, Finset.sum_congr rfl fun i hi => congrArg Prod.fst (each i hi),
    Finset.sum_congr rfl fun i hi => congrArg Prod.snd (each i hi), mask, leNat_eq_sum]

theorem covers_byte {width i : Nat} (hi : i < width) (off : Nat) (b : Byte) :
    covers off width (off + i) [b] = (255 * 256 ^ i, b.toNat * 256 ^ i) := by
  have each (j : Nat) : coverByte off (off + i) [b] j = if j = i then (255 * 256 ^ i, b.toNat * 256 ^ i) else (0, 0) := by
    by_cases h : j = i
    · simp [coverByte, h]
    · simp [coverByte, h]
      omega
  simp only [covers_eq_sum, each, apply_ite Prod.fst, apply_ite Prod.snd, Finset.sum_ite_eq', Finset.mem_range, hi, if_true]

/-! ## One register -/

theorem write_of_disjoint {r : BarReg} {wo : Nat} {bs : List Byte} (apart : wo + bs.length ≤ r.off ∨ r.off + r.width ≤ wo) (k : Wk) :
    r.write wo bs k = k := by
  rw [BarReg.write, covers_of_disjoint apart]
  rfl

theorem write_roReg (off width : Nat) (g : Dev → Nat) (wo : Nat) (bs : List Byte) (k : Wk) : (roReg off width g).write wo bs k = k := by
  unfold BarReg.write
  dsimp only
  split
  · rfl
  · rfl

/-- A write of all of a register whose every bit is RW stores the value written. -/
theorem write_rwReg_whole {off n : Nat} {g : Dev → Nat} {p : Nat → Dev → Dev} {bs : List Byte} (len : bs.length = n) (some_ : 0 < n)
    (k : Wk) : (rwReg off n (ones (8 * n)) g p).write off bs k = k.on (p (leNat bs)) := by
  subst len
  have nonzero : ones (8 * bs.length) ≠ 0 := by
    have : 2 ^ 8 ≤ 2 ^ (8 * bs.length) := Nat.pow_le_pow_right (by decide) (by omega)
    unfold ones
    omega
  have within : leNat bs < 2 ^ (8 * bs.length) := by
    rw [Nat.pow_mul]
    exact leNat_lt bs
  have value : leNat bs &&& ones (8 * bs.length) = leNat bs := Nat.and_two_pow_sub_one_of_lt_two_pow within
  simp only [BarReg.write, rwReg, covers_whole, nonzero, Bool.false_and, decide_false, Bool.or_false, Bool.false_eq_true, if_false,
    Nat.and_self, Nat.and_zero, Nat.or_zero, Nat.xor_self, Nat.zero_or, value]

/-- A write of one byte of a register whose every bit is RW stores that byte among the others. -/
theorem write_rwReg_byte {off n i : Nat} {g : Dev → Nat} {p : Nat → Dev → Dev} (hi : i < n) (b : Byte) (k : Wk) :
    (rwReg off n (ones (8 * n)) g p).write (off + i) [b] k =
      k.on (p (g k.dev &&& (ones (8 * n) ^^^ (255 * 256 ^ i)) ||| b.toNat * 256 ^ i)) := by
  have nonzero : 255 * 256 ^ i ≠ 0 := by positivity
  have mask : 255 * 256 ^ i &&& ones (8 * n) = 255 * 256 ^ i := by
    refine Nat.and_two_pow_sub_one_of_lt_two_pow ?_
    calc 255 * 256 ^ i < 256 * 256 ^ i := Nat.mul_lt_mul_of_pos_right (by decide) (by positivity)
      _ = 256 ^ (i + 1) := by rw [Nat.pow_succ, Nat.mul_comm]
      _ ≤ 256 ^ n := Nat.pow_le_pow_right (by decide) hi
      _ = 2 ^ (8 * n) := (Nat.pow_mul 2 8 n).symm
  have value : b.toNat * 256 ^ i &&& 255 * 256 ^ i = b.toNat * 256 ^ i := by
    rw [show 256 ^ i = 2 ^ (8 * i) from (Nat.pow_mul 2 8 i).symm, ← Nat.shiftLeft_eq, ← Nat.shiftLeft_eq, ← Nat.shiftLeft_and_distrib]
    exact congrArg (· <<< (8 * i)) (Nat.and_two_pow_sub_one_of_lt_two_pow (n := 8) b.isLt)
  simp only [BarReg.write, rwReg, covers_byte hi, nonzero, Bool.false_and, decide_false, Bool.or_false, Bool.false_eq_true, if_false,
    Nat.and_zero, Nat.or_zero, mask, value]

/-! ## Registers that lie apart -/

/-- Registers in ascending order that share no byte. -/
def Apart (l : List BarReg) : Prop := l.Pairwise fun a b => a.off + a.width ≤ b.off

/-- Whether registers lie apart is seen from their places and widths. -/
theorem apart_of_places {l : List BarReg} {places : List (Nat × Nat)} (h : l.map (fun r => (r.off, r.width)) = places)
    (apart : places.Pairwise fun a b => a.1 + a.2 ≤ b.1) : Apart l := by
  subst h
  exact List.pairwise_map.mp apart

theorem foldl_write_of_idle {l : List BarReg} {wo : Nat} {bs : List Byte} (idle : ∀ r ∈ l, ∀ k, r.write wo bs k = k) (k : Wk) :
    l.foldl (fun k r => r.write wo bs k) k = k :=
  List.foldlRecOn l _ (motive := (· = k)) rfl fun _ hb r hr => (idle r hr _).trans hb

section
variable {l : List BarReg} {r : BarReg} (apart : Apart l) (hr : r ∈ l)
include apart hr

/-- The registers before `r` end where it begins, and those behind it begin where it ends. -/
theorem Apart.split : ∃ s t, l = s ++ r :: t ∧ (∀ a ∈ s, a.off + a.width ≤ r.off) ∧ ∀ b ∈ t, r.off + r.width ≤ b.off := by
  obtain ⟨s, t, rfl⟩ := List.append_of_mem hr
  obtain ⟨-, behind, before⟩ := List.pairwise_append.mp apart
  exact ⟨s, t, rfl, fun a ha => before a ha r List.mem_cons_self, (List.pairwise_cons.mp behind).1⟩

/-- A write within one register acts on that register alone. -/
theorem Apart.foldl_write {wo : Nat} {bs : List Byte} (low : r.off ≤ wo) (high : wo + bs.length ≤ r.off + r.width) (k : Wk) :
    l.foldl (fun k r => r.write wo bs k) k = r.write wo bs k := by
  obtain ⟨s, t, rfl, before, behind⟩ := apart.split hr
  rw [List.foldl_append, List.foldl_cons,
    foldl_write_of_idle fun a ha k => write_of_disjoint (.inr ((before a ha).trans low)) k,
    foldl_write_of_idle fun b hb k => write_of_disjoint (.inl (high.trans (behind b hb))) k]

/-- The register that holds a byte is found. -/
theorem Apart.find?_eq {off : Nat} (low : r.off ≤ off) (high : off < r.off + r.width) :
    (l.find? fun r => r.off ≤ off && off < r.off + r.width) = some r := by
  obtain ⟨s, t, rfl, before, -⟩ := apart.split hr
  have missed : (s.find? fun r => r.off ≤ off && off < r.off + r.width) = none := by
    refine List.find?_eq_none.mpr fun a ha => ?_
    have := before a ha
    simp only [Bool.and_eq_true, decide_eq_true_eq]
    omega
  rw [List.find?_append, missed, List.find?_cons_of_pos (by simp [low, high])]
  rfl

end

/-! ## The registers that an access may touch -/

theorem touched_of_below {base off n : Nat} (below : off + n ≤ base) (stride count : Nat) : touched base stride count off n = [] := by
  simp [touched, below]

/-- The pending bits of a function's vectors, which only read. -/
def pbaReg (fn off : Nat) : BarReg := roReg off 8 fun d => (d.fn fn).pba

/-- An access within the first block touches identity registers alone. -/
theorem vfRegs_of_id {off n : Nat} (low : off + n ≤ 0x100) (v : Nat) :
    vfRegs v off n = (if 0 < off + n ∧ off < 0x100 then idRegs v else []) ++ [pbaReg v 0x6000] := by
  have other (base : Nat) (hb : 0x100 ≤ base) (stride count : Nat) : touched base stride count off n = [] :=
    touched_of_below (by omega) ..
  have beyond (base : Nat) (hb : 0x100 ≤ base) : ¬ base < off + n := by omega
  simp [vfRegs, ringWindows, other, beyond, pbaReg, and_comm]

/-- An access within the translation block touches translation registers alone. -/
theorem vfRegs_of_xlt {off n : Nat} (some_ : 0 < n) (low : 0x800 ≤ off) (high : off + n ≤ 0x850) (v : Nat) :
    vfRegs v off n = xltRegs v ++ [pbaReg v 0x6000] := by
  have other (base : Nat) (hb : 0x1000 ≤ base) (stride count : Nat) : touched base stride count off n = [] :=
    touched_of_below (by omega) ..
  have beyond (base : Nat) (hb : 0x1000 ≤ base) : ¬ base < off + n := by omega
  have before (bound : Nat) (hb : bound ≤ 0x800) : ¬ off < bound := by omega
  have within : off < 0x850 ∧ 0x800 < off + n := by omega
  simp [vfRegs, ringWindows, other, beyond, before, within, pbaReg]

theorem mgrRegs_of_id {off n : Nat} (low : off + n ≤ 0x100) :
    mgrRegs off n = (if 0 < off + n ∧ off < 0x100 then idRegs mgr else []) ++ [pbaReg mgr 0x31000] := by
  have other (base : Nat) (hb : 0x100 ≤ base) (stride count : Nat) : touched base stride count off n = [] :=
    touched_of_below (by omega) ..
  have beyond (base : Nat) (hb : 0x100 ≤ base) : ¬ base < off + n := by omega
  simp [mgrRegs, ringWindows, other, beyond, pbaReg, and_comm]

theorem apart_xltRegs (v : Nat) : Apart (xltRegs v ++ [pbaReg v 0x6000]) :=
  apart_of_places (places := [(0x800, 8), (0x808, 4), (0x80C, 4), (0x810, 4), (0x814, 4), (0x818, 8), (0x820, 4), (0x824, 4), (0x828, 8),
    (0x830, 8), (0x838, 4), (0x83C, 4), (0x840, 8), (0x848, 4), (0x6000, 8)]) rfl (by decide)

theorem apart_idRegs {v : Nat} (hv : v ≠ mgr) : Apart (idRegs v ++ [pbaReg v 0x6000]) := by
  refine apart_of_places (places := [(0, 4), (4, 2), (6, 2), (8, 2), (10, 2), (12, 1), (16, 4), (20, 4), (24, 8), (32, 8), (0x6000, 8)]) ?_
    (by decide)
  rw [idRegs, if_neg hv]
  rfl

end Sys2Proof.Machine
end

section
/-! What a write leaves in a register of a function, and what reads back (R524, R525, R3, R7). -/

namespace Sys2Proof.Machine

open Sys2Proof

/-! ## Whole writes -/

theorem exec_registerWrite_fn (fn : FnId) (off : BarAt) (bs : List Byte) (s : State) :
    exec (.registerWrite (.fn fn) off bs) s = .next (after s (doBarWrite fn off bs (work s))) := rfl

theorem doDoorbell_of_beside {v : VDev} {off : Nat} {bs : List Byte} {k : Wk}
    (beside : k.dev.barOpen v.val = false ∨ off + bs.length ≤ 0x2000 ∨ 0x2800 ≤ off ∨ bs = []) : doDoorbell v off bs k = k := by
  rcases beside with h | h | h | h <;> simp [doDoorbell, h]

section
variable {fn : FnId} {off : BarAt} {bs : List Byte} {k : Wk}

theorem doBarWrite_of_not_taken (taken : k.dev.barTakes fn.val off.ide = false) : doBarWrite fn off bs k = k := by
  simp [doBarWrite, taken]

variable (taken : k.dev.barTakes fn.val off.ide = true)
include taken

theorem doBarWrite_of_mgr (manager : fn.val = mgr) : doBarWrite fn off bs k =
    (barRegs mgr off.off bs.length).foldl (fun k r => r.write off.off bs k) k := by
  have same : (fn.val == mgr) = true := beq_iff_eq.mpr manager
  simp only [doBarWrite, taken, same, Bool.not_true, Bool.false_eq_true, if_false, Bool.true_or, List.filter_true]
  rw [if_pos manager, manager]

theorem doBarWrite_of_vf (guest : fn.val ≠ mgr) : doBarWrite fn off bs k =
    ((barRegs fn.val off.off bs.length).filter fun r => !decide (r.off < 0x2000)).foldl (fun k r => r.write off.off bs k)
      (doDoorbell (asVDev fn.val) off.off bs
        (((barRegs fn.val off.off bs.length).filter fun r => decide (r.off < 0x2000)).foldl (fun k r => r.write off.off bs k) k)) := by
  have other : (fn.val == mgr) = false := beq_false_of_ne guest
  simp only [doBarWrite, taken, guest, other, Bool.not_true, Bool.false_eq_true, if_false, Bool.false_or]

/-- A write that touches only registers on which it does not act changes nothing. -/
theorem doBarWrite_of_idle (low : off.off + bs.length ≤ 0x2000)
    (idle : ∀ r ∈ barRegs fn.val off.off bs.length, ∀ k, r.write off.off bs k = k) : doBarWrite fn off bs k = k := by
  by_cases manager : fn.val = mgr
  · rw [manager] at idle
    rw [doBarWrite_of_mgr taken manager, foldl_write_of_idle idle]
  · rw [doBarWrite_of_vf taken manager, foldl_write_of_idle fun r hr => idle r (List.mem_filter.mp hr).1,
      foldl_write_of_idle fun r hr => idle r (List.mem_filter.mp hr).1, doDoorbell_of_beside (.inr (.inl low))]

/-- A write within one register of a virtual function acts on that register alone. -/
theorem doBarWrite_of_register (guest : fn.val ≠ mgr) (apart : Apart (vfRegs fn.val off.off bs.length)) {r : BarReg}
    (hr : r ∈ vfRegs fn.val off.off bs.length) (low : r.off ≤ off.off) (high : off.off + bs.length ≤ r.off + r.width)
    (below : r.off < 0x2000) (beside : off.off + bs.length ≤ 0x2000) : doBarWrite fn off bs k = r.write off.off bs k := by
  have above (a : BarReg) (ha : a ∈ (vfRegs fn.val off.off bs.length).filter fun r => !decide (r.off < 0x2000)) (k : Wk) :
      a.write off.off bs k = k := by
    refine write_of_disjoint (.inl (beside.trans ?_)) k
    simpa using (List.mem_filter.mp ha).2
  rw [doBarWrite_of_vf taken guest, barRegs, if_neg guest, foldl_write_of_idle above, doDoorbell_of_beside (.inr (.inl beside)),
    Apart.foldl_write (List.Pairwise.filter _ apart) (List.mem_filter.mpr ⟨hr, decide_eq_true below⟩) low high]

end

/-! ## Identity registers (R524, R525, R3) -/

/-- An identity register only reads, but for the error bits and `GQI_ID_HWBASE`. -/
theorem roReg_of_mem_idRegs {fn : Nat} {r : BarReg} (hr : r ∈ idRegs fn) :
    (∃ off width g, r = roReg off width g) ∨ r.off = 0x14 ∧ r.width = 4 ∨ r.off = 0x20 ∧ r.width = 8 := by
  rcases List.mem_append.mp hr with h | h
  · simp only [List.mem_cons, List.not_mem_nil, or_false] at h
    rcases h with rfl | rfl | rfl | rfl | rfl | rfl | rfl | rfl | rfl
    case inr.inr.inr.inr.inr.inr.inr.inl => exact .inr (.inl ⟨rfl, rfl⟩)
    all_goals exact .inl ⟨_, _, _, rfl⟩
  · split at h
    · exact absurd h List.not_mem_nil
    · rw [List.mem_singleton.mp h]
      exact .inr (.inr ⟨rfl, rfl⟩)

/-- An access within the first block touches identity registers, and others that only read. -/
theorem mem_barRegs_of_id {fn off n : Nat} (low : off + n ≤ 0x100) {r : BarReg} (hr : r ∈ barRegs fn off n) :
    r ∈ idRegs fn ∨ ∃ off width g, r = roReg off width g := by
  have block {l : List BarReg} {p : Prop} [Decidable p] (h : r ∈ if p then l else []) : r ∈ l := by
    split at h
    · exact h
    · exact absurd h List.not_mem_nil
  unfold barRegs at hr
  split at hr
  next manager =>
    rw [mgrRegs_of_id low, List.mem_append, List.mem_singleton] at hr
    exact hr.imp (fun h => manager ▸ block h) fun h => ⟨_, _, _, h⟩
  next =>
    rw [vfRegs_of_id low, List.mem_append, List.mem_singleton] at hr
    exact hr.imp block fun h => ⟨_, _, _, h⟩

theorem write_of_readOnly {fn off : Nat} {bs : List Byte}
    (place : off + bs.length ≤ 0x14 ∨ (0x28 ≤ off ∧ off + bs.length ≤ 0x100)) :
    ∀ r ∈ barRegs fn off bs.length, ∀ k, r.write off bs k = k := by
  intro r hr k
  have readOnly : (∃ off width g, r = roReg off width g) → r.write off bs k = k := by
    rintro ⟨o, width, g, rfl⟩
    exact write_roReg ..
  rcases mem_barRegs_of_id (by omega) hr with h | h
  · rcases roReg_of_mem_idRegs h with h | ⟨ho, hw⟩ | ⟨ho, hw⟩
    · exact readOnly h
    · exact write_of_disjoint (by omega) k
    · exact write_of_disjoint (by omega) k
  · exact readOnly h

/-! ## Registers of a function held in a bit vector -/

theorem write_fnReg_whole {n : Nat} (fn off : Nat) (g : Fn → BitVec (8 * n)) (p : Fn → BitVec (8 * n) → Fn) {bs : List Byte}
    (len : bs.length = n) (some_ : 0 < n) (k : Wk) : (fnReg fn off (ones (8 * n)) g p).write off bs k =
      k.on fun d => d.onFn fn fun f => p f (BitVec.ofNat (8 * n) (leNat bs)) := by
  have width : 8 * n / 8 = n := by omega
  rw [fnReg, width, write_rwReg_whole len some_]

section
variable {v : FnId} {ide : Option Nat} {bs : List Byte} {k : Wk} (guest : v.val ≠ mgr) (taken : k.dev.barTakes v.val ide = true)
include guest taken

/-- A write of all of a register of a virtual function whose every bit is RW stores the value written. -/
theorem doBarWrite_fnReg {n off : Nat} {g : Fn → BitVec (8 * n)} {p : Fn → BitVec (8 * n) → Fn} (len : bs.length = n) (some_ : 0 < n)
    (below : off + n ≤ 0x2000) (apart : Apart (vfRegs v.val off n)) (here : fnReg v.val off (ones (8 * n)) g p ∈ vfRegs v.val off n) :
    doBarWrite v ⟨off, ide⟩ bs k = k.on fun d => d.onFn v.val fun f => p f (BitVec.ofNat (8 * n) (leNat bs)) := by
  have width : (fnReg v.val off (ones (8 * n)) g p).width = n := Nat.mul_div_cancel_left n (by decide)
  have high : off + bs.length ≤ off + (fnReg v.val off (ones (8 * n)) g p).width := by omega
  have here : fnReg v.val off (ones (8 * n)) g p ∈ vfRegs v.val off bs.length := by rwa [len]
  rw [← write_fnReg_whole v.val off g p len some_ k]
  exact doBarWrite_of_register (off := ⟨off, ide⟩) taken guest (by rwa [len]) here (Nat.le_refl off) high (by omega : off < 0x2000)
    (by omega : off + bs.length ≤ 0x2000)

theorem doBarWrite_hwbase (len : bs.length = 8) : doBarWrite v ⟨0x20, ide⟩ bs k = k.on fun d => d.onFn v.val fun f =>
    if leNat bs % 65536 = 0 then { f with hwbase := BitVec.ofNat 64 (leNat bs) } else f := by
  have regs : vfRegs v.val 0x20 8 = idRegs v.val ++ [pbaReg v.val 0x6000] := vfRegs_of_id (by decide) v.val
  have within : leNat bs < 2 ^ 64 := by
    have := leNat_lt bs
    rwa [len] at this
  have value : (BitVec.ofNat 64 (leNat bs)).toNat = leNat bs := by rw [BitVec.toNat_ofNat, Nat.mod_eq_of_lt within]
  refine (doBarWrite_fnReg (n := 8) (g := Fn.hwbase) (p := fun f x => if x.toNat % 65536 = 0 then { f with hwbase := x } else f)
    guest taken len (by decide) (by decide) (by rw [regs]; exact apart_idRegs guest) ?_).trans ?_
  · rw [regs, idRegs, if_neg guest]
    simp
  · rw [value]

end

/-! ## Reading back (R7, R261) -/

/-- Bytes of a register read as the bytes of what it holds. -/
theorem barRead_of_register {d : Dev} {v off n : Nat} {r : BarReg} (guest : v ≠ mgr)
    (apart : ∀ i < n, Apart (vfRegs v (off + i) 1)) (here : ∀ i < n, r ∈ vfRegs v (off + i) 1)
    (place : r.off = off) (width : r.width = n) :
    d.barRead v off n = (List.range n).map fun i => BitVec.ofNat 8 (r.get d / 256 ^ i) := by
  refine List.map_congr_left fun i hi => ?_
  have hi := List.mem_range.mp hi
  rw [Dev.barByte, barRegs, if_neg guest, (apart i hi).find?_eq (here i hi) (by omega) (by omega)]
  dsimp only
  rw [place, Nat.add_sub_cancel_left]

/-- A translation register of a virtual function whose every bit is RW reads back as it was written. -/
theorem registerWrite_readBack {s : State} {v : FnId} {ide : Option Nat} {bs : List Byte} {n off : Nat} {g : Fn → BitVec (8 * n)}
    {p : Fn → BitVec (8 * n) → Fn} (guest : v.val ≠ mgr) (taken : s.dev.barTakes v.val ide = true) (len : bs.length = n)
    (some_ : 0 < n) (low : 0x800 ≤ off) (high : off + n ≤ 0x850) (here : fnReg v.val off (ones (8 * n)) g p ∈ xltRegs v.val)
    (stored : ∀ f x, g (p f x) = x) :
    Gives (.registerWrite (.fn v) ⟨off, ide⟩ bs) s fun d => d.barRead v.val off n = bs := by
  have block {o m : Nat} (pos : 0 < m) (lo : 0x800 ≤ o) (hi : o + m ≤ 0x850) : Apart (vfRegs v.val o m) ∧
      fnReg v.val off (ones (8 * n)) g p ∈ vfRegs v.val o m := by
    rw [vfRegs_of_xlt pos lo hi]
    exact ⟨apart_xltRegs v.val, List.mem_append_left _ here⟩
  obtain ⟨apart, inBlock⟩ := block some_ low high
  refine gives_of_on (exec_registerWrite_fn ..) (doBarWrite_fnReg (k := work s) guest taken len some_ (by omega) apart inBlock) ?_
  rw [barRead_of_register (off := off) (r := fnReg v.val off (ones (8 * n)) g p) guest
    (fun i hi => (block Nat.one_pos (by omega) (by omega)).1) (fun i hi => (block Nat.one_pos (by omega) (by omega)).2) rfl (Nat.mul_div_cancel_left n (by decide))]
  have within : leNat bs < 2 ^ (8 * n) := by
    have := leNat_lt bs
    rwa [len, show 256 = 2 ^ 8 from rfl, ← Nat.pow_mul] at this
  have value : (fnReg v.val off (ones (8 * n)) g p).get ((work s).dev.onFn v.val fun f => p f (BitVec.ofNat (8 * n) (leNat bs))) =
      leNat bs := by
    refine (congrArg (fun f => (g f).toNat) (Dev.fn_onFn_same ..)).trans ?_
    rw [stored, BitVec.toNat_ofNat, Nat.mod_eq_of_lt within]
  rw [value, ← len]
  exact map_bytes_leNat bs

/-! ## A byte of a register (R524) -/

/-- A number with byte `i` replaced. -/
def byteMerged (i : Nat) (b : Byte) (x : BitVec 64) : BitVec 64 :=
  BitVec.ofNat 64 (x.toNat &&& (ones 64 ^^^ (255 * 256 ^ i)) ||| b.toNat * 256 ^ i)

/-- Bit `t` of a byte at place `i`. -/
theorem testBit_byte (x i t : Nat) : (x * 256 ^ i).testBit t = (decide (8 * i ≤ t) && x.testBit (t - 8 * i)) := by
  rw [show 256 ^ i = 2 ^ (8 * i) from (Nat.pow_mul 2 8 i).symm, Nat.testBit_mul_two_pow]

/-- Bit `t` of the number with byte `i` replaced. -/
theorem getLsbD_byteMerged (i : Nat) (b : Byte) (x : BitVec 64) {t : Nat} (ht : t < 64) : (byteMerged i b x).getLsbD t =
    if 8 * i ≤ t ∧ t < 8 * i + 8 then b.getLsbD (t - 8 * i) else x.getLsbD t := by
  have mask : (255 : Nat).testBit (t - 8 * i) = decide (t - 8 * i < 8) := Nat.testBit_two_pow_sub_one 8 (t - 8 * i)
  have all : (ones 64).testBit t = true := (Nat.testBit_two_pow_sub_one 64 t).trans (decide_eq_true ht)
  rw [byteMerged, BitVec.getLsbD_ofNat, Nat.testBit_or, Nat.testBit_and, Nat.testBit_xor, testBit_byte, testBit_byte, mask, all,
    BitVec.testBit_toNat, BitVec.testBit_toNat, decide_eq_true ht, Bool.true_and]
  split
  next within =>
    have inside : t - 8 * i < 8 := by omega
    simp [within.1, inside]
  next beside =>
    by_cases low : 8 * i ≤ t
    · have outside : ¬ t - 8 * i < 8 := by omega
      have none_ : b.getLsbD (t - 8 * i) = false := BitVec.getLsbD_of_ge b _ (by omega)
      simp [outside, none_]
    · simp [low]

/-- Bit `t` of byte `j`. -/
theorem getLsbD_byteOf (x : BitVec 64) (j : Nat) {t : Nat} (ht : t < 8) :
    ((x >>> (8 * j)).truncate 8).getLsbD t = x.getLsbD (8 * j + t) := by
  rw [BitVec.truncate_eq_setWidth, BitVec.getLsbD_setWidth, BitVec.getLsbD_ushiftRight, decide_eq_true ht, Bool.true_and]

theorem byteMerged_same {i : Nat} (hi : i < 8) (b : Byte) (x : BitVec 64) : ((byteMerged i b x) >>> (8 * i)).truncate 8 = b := by
  refine BitVec.eq_of_getLsbD_eq fun t ht => ?_
  rw [getLsbD_byteOf _ i ht, getLsbD_byteMerged i b x (by omega), if_pos (by omega), Nat.add_sub_cancel_left]

theorem byteMerged_other {i j : Nat} (hj : j < 8) (ne : j ≠ i) (b : Byte) (x : BitVec 64) :
    ((byteMerged i b x) >>> (8 * j)).truncate 8 = (x >>> (8 * j)).truncate 8 := by
  refine BitVec.eq_of_getLsbD_eq fun t ht => ?_
  rw [getLsbD_byteOf _ j ht, getLsbD_byteOf x j ht, getLsbD_byteMerged i b x (by omega), if_neg (by omega)]

end Sys2Proof.Machine
end

section
/-! The doorbell array and the completion heads (R266, R268, R279, R365). -/

namespace Sys2Proof.Machine

open Sys2Proof

/-! ## A doorbell of a queue -/

section
variable {v q w : Nat} {retry : Bool} {k : Wk}

/-- A doorbell that names no queue in use, or a tail beyond the ring, sets BAD_DOORBELL. -/
theorem ringDoorbell_of_bad (bad : ∀ x, k.dev.queue? v q = some x → (k.dev.vd v).queueGrant ≤ q ∨ x.S ≤ bits w 15 0) :
    ringDoorbell v q w retry k = k.on (setErr v 1) := by
  unfold ringDoorbell
  split
  · rfl
  next x hx => exact if_pos (by simpa using bad x hx)

variable {x : Queue} (hx : k.dev.queue? v q = some x) (granted : q < (k.dev.vd v).queueGrant) (within : bits w 15 0 < x.S)
include hx granted within

/-- A good doorbell records the tail; with RETRY it tries the backlog again unless the virtual device is frozen. -/
theorem ringDoorbell_of_good : ringDoorbell v q w retry k =
    let k' := k.on fun d => d.setQueue v q { x with tail := bits w 15 0 }
    if retry && !(k.dev.vd v).frozen then retryQueue v q k' else k' := by
  have good : ¬ ((decide ((k.dev.vd v).queueGrant ≤ q) || decide (x.S ≤ bits w 15 0)) = true) := by
    simp only [Bool.or_eq_true, decide_eq_true_eq]
    omega
  have kept (y : Queue) : ((k.on fun d => d.setQueue v q y).dev.vd v).frozen = (k.dev.vd v).frozen :=
    (congrArg Vd.frozen (Dev.vd_onVd_same k.dev v fun z => { z with queues := Tab.put z.queues q y })).trans rfl
  unfold ringDoorbell
  rw [hx]
  dsimp only
  rw [if_neg good, kept]

theorem ringDoorbell_of_noRetry (noRetry : retry = false) :
    ringDoorbell v q w retry k = k.on fun d => d.setQueue v q { x with tail := bits w 15 0 } := by
  rw [ringDoorbell_of_good hx granted within, noRetry]
  rfl

end

/-! ## The doorbell array -/

section
variable {v : VDev} {off : Nat} {bs : List Byte} {k : Wk} (opened : k.dev.barOpen v.val = true)
include opened

theorem doDoorbell_of_touching (above : 0x2000 < off + bs.length) (below : off < 0x2800) (some_ : bs ≠ []) : doDoorbell v off bs k =
    if bs.length = 8 && decide (0x2000 ≤ off) && off % 8 == 0 then
      ringDoorbell v.val ((off - 0x2000) / 8) (leNat bs) (bitAt (leNat bs) 16) k
    else k.on (setErr v.val 2) := by
  have touches : ¬ ((decide (0x2800 ≤ off) || decide (off + bs.length ≤ 0x2000) || bs.isEmpty) = true) := by
    simp only [Bool.or_eq_true, decide_eq_true_eq, List.isEmpty_iff, some_, or_false]
    omega
  unfold doDoorbell
  rw [opened, if_neg (by decide), if_neg touches]

/-- An aligned write of eight bytes is the doorbell of its queue. -/
theorem doDoorbell_of_aligned (q : QId) (w : BitVec 64) :
    doDoorbell v (0x2000 + 8 * q.val) (natLe 8 w.toNat) k = ringDoorbell v.val q.val w.toNat (bitAt w.toNat 16) k := by
  have len : (natLe 8 w.toNat).length = 8 := rfl
  have value : leNat (natLe 8 w.toNat) = w.toNat := (leNat_natLe 8 w.toNat).trans (Nat.mod_eq_of_lt w.isLt)
  have queue : (0x2000 + 8 * q.val - 0x2000) / 8 = q.val := by omega
  have aligned : (0x2000 + 8 * q.val) % 8 = 0 := by omega
  have low : 0x2000 ≤ 0x2000 + 8 * q.val := by omega
  have inArray : 0x2000 + 8 * q.val < 0x2800 := by have := q.isLt; omega
  rw [doDoorbell_of_touching opened (by omega) inArray (List.ne_nil_of_length_pos (by omega)), len, value, queue, aligned]
  simp [low]

theorem doDoorbell_of_narrow (above : 0x2000 < off + bs.length) (below : off < 0x2800) (some_ : bs ≠ [])
    (narrow : bs.length ≠ 8 ∨ off < 0x2000 ∨ off % 8 ≠ 0) : doDoorbell v off bs k = k.on (setErr v.val 2) := by
  rw [doDoorbell_of_touching opened above below some_]
  refine if_neg ?_
  simp only [Bool.and_eq_true, decide_eq_true_eq, beq_iff_eq]
  omega

end

/-! ## Completion heads -/

theorem resumeQueue_of_active {d : Dev} {v q : Nat} {x : Queue} (hx : d.queue? v q = some x) (active : x.state = .active) :
    resumeQueue v q d = d := by
  simp [resumeQueue, hx, active]

/-- With nothing in the backlog of an active queue there is nothing to try again. -/
theorem retryQueue_of_empty {v q : Nat} {x : Queue} {k : Wk} (hx : k.dev.queue? v q = some x) (empty : x.backlog = [])
    (active : x.state = .active) : retryQueue v q k = k := by
  simp [retryQueue, hx, empty, retryBacklog, Wk.on, resumeQueue_of_active hx active]

section
variable {v : VDev} {q : QId} {w : BitVec 32} {k : Wk}

theorem doCqHead_of_none (gone : k.dev.barOpen v.val = false ∨ k.dev.queue? v.val q.val = none) : doCqHead v q w k = k := by
  rcases gone with h | h <;> simp [doCqHead, h]

variable {x : Queue} (opened : k.dev.barOpen v.val = true) (hx : k.dev.queue? v.val q.val = some x)
include opened hx

theorem doCqHead_of_beyond (beyond : x.C ≤ w.toNat) : doCqHead v q w k = k.on (setErr v.val 4) := by
  simp only [doCqHead, opened, hx, beyond, Bool.not_true, Bool.false_eq_true, if_false, if_true]

theorem doCqHead_of_within (within : w.toNat < x.C) : doCqHead v q w k =
    retryQueue v.val q.val (k.on fun d => d.setQueue v.val q.val { x with cqHead := w.toNat }) := by
  simp only [doCqHead, opened, hx, Nat.not_le.mpr within, Bool.not_true, Bool.false_eq_true, if_false]

end

/-! ## The commands -/

theorem exec_doorbell (v : VDev) (off : Nat) (bs : List Byte) (s : State) :
    exec (.doorbell v off bs) s = .next (after s (doDoorbell v off bs (work s))) := rfl

theorem exec_cqHeadWrite (v : VDev) (q : QId) (w : BitVec 32) (s : State) :
    exec (.cqHeadWrite v q w) s = .next (after s (doCqHead v q w (work s))) := rfl

theorem exec_doorbellRetry (v : VDev) (q : QId) (w : BitVec 64) (s : State) : exec (.doorbellRetry v q w) s =
    .next (after s (if s.dev.barOpen v.val then ringDoorbell v.val q.val w.toNat true (work s) else work s)) := rfl

end Sys2Proof.Machine
end

section
/-! Mask bits, the moderation timer and the event ring (R363, R364, R406). -/

namespace Sys2Proof.Machine

open Sys2Proof

/-! ## The vectors of a function -/

theorem Fn.vec_putVec_same (f : Fn) (i : Nat) (x : Vec) : ({ f with vecs := Tab.put f.vecs i x } : Fn).vec i = x := Tab.getD_put_same ..

theorem Fn.vec_putVec_ne (f : Fn) {i j : Nat} (x : Vec) (ne : j ≠ i) : ({ f with vecs := Tab.put f.vecs i x } : Fn).vec j = f.vec j :=
  Tab.getD_put_ne _ x _ ne

theorem Dev.vec_putVec_same (d : Dev) (fn i : Nat) (g : Fn → Vec) :
    ((d.onFn fn fun f => { f with vecs := Tab.put f.vecs i (g f) }).fn fn).vec i = g (d.fn fn) := by
  rw [Dev.fn_onFn_same, Fn.vec_putVec_same]

theorem Dev.vec_putVec_ne (d : Dev) (fn : Nat) {i j : Nat} (g : Fn → Vec) (ne : j ≠ i) :
    ((d.onFn fn fun f => { f with vecs := Tab.put f.vecs i (g f) }).fn fn).vec j = (d.fn fn).vec j := by
  rw [Dev.fn_onFn_same, Fn.vec_putVec_ne _ _ ne]

/-! ## Pending vectors that are no longer masked (R363) -/

/-- The message of vector `i` is sent where it is pending and not masked. -/
def releaseVec (fn : Nat) (d : Dev) (i : Nat) : Dev :=
  let x := (d.fn fn).vec i
  if x.pend && !x.mask then
    (d.onFn fn fun f => { f with vecs := Tab.put f.vecs i { f.vec i with pend := false } }).emit (.msix fn i x.addr x.data)
  else d

theorem releaseVecs_of_masked {fn : Nat} {d : Dev} (masked : (d.fn fn).fnMask = true) : releaseVecs fn d = d := if_pos masked

theorem releaseVecs_of_unmasked {fn : Nat} {d : Dev} (unmasked : (d.fn fn).fnMask = false) :
    releaseVecs fn d = (List.range 64).foldl (releaseVec fn) d := if_neg (by rw [unmasked]; exact Bool.false_ne_true)

section
variable {fn i : Nat} {d : Dev}

theorem releaseVec_of_silent (silent : ((d.fn fn).vec i).pend = false ∨ ((d.fn fn).vec i).mask = true) : releaseVec fn d i = d := by
  rcases silent with h | h <;> simp [releaseVec, h]

theorem releaseVec_of_pending (pending : ((d.fn fn).vec i).pend = true) (unmasked : ((d.fn fn).vec i).mask = false) :
    releaseVec fn d i = (d.onFn fn fun f => { f with vecs := Tab.put f.vecs i { f.vec i with pend := false } }).emit
      (.msix fn i ((d.fn fn).vec i).addr ((d.fn fn).vec i).data) := by
  simp [releaseVec, pending, unmasked]

/-- Vector `j` stays as it is while the message of another is sent. -/
theorem vec_releaseVec_ne {j : Nat} (ne : j ≠ i) : ((releaseVec fn d i).fn fn).vec j = (d.fn fn).vec j := by
  unfold releaseVec
  dsimp only
  split
  · exact Dev.vec_putVec_ne d fn (fun f => { f.vec i with pend := false }) ne
  · rfl

theorem mem_out_releaseVec {o : Output} (sent : o ∈ d.out) : o ∈ (releaseVec fn d i).out := by
  unfold releaseVec
  dsimp only
  split
  · exact List.mem_append_left _ sent
  · exact sent

/-- A masked vector, or one with nothing pending, stays as it is. -/
theorem vec_releaseVec_of_silent {x : Vec} (silent : x.pend = false ∨ x.mask = true) (hx : (d.fn fn).vec i = x) (j : Nat) :
    ((releaseVec fn d j).fn fn).vec i = x := by
  by_cases ne : i = j
  · subst ne
    rw [releaseVec_of_silent (by rwa [hx]), hx]
  · rw [vec_releaseVec_ne ne, hx]

theorem vec_releaseVecs_of_masked (masked : ((d.fn fn).vec i).mask = true) : ((releaseVecs fn d).fn fn).vec i = (d.fn fn).vec i := by
  unfold releaseVecs
  split
  · rfl
  · exact List.foldlRecOn _ _ (motive := fun e : Dev => (e.fn fn).vec i = (d.fn fn).vec i) rfl fun e he j _ =>
      vec_releaseVec_of_silent (.inr masked) he j

/-- The message that vector `i`, which held `x`, was waiting to send has left. -/
def Sent (fn i : Nat) (x : Vec) (d : Dev) : Prop := (d.fn fn).vec i = { x with pend := false } ∧ .msix fn i x.addr x.data ∈ d.out

theorem Sent.releaseVec {x : Vec} (h : Sent fn i x d) (j : Nat) : Sent fn i x (releaseVec fn d j) :=
  ⟨vec_releaseVec_of_silent (.inl rfl) h.1 j, mem_out_releaseVec h.2⟩

section
variable {x : Vec} (pending : x.pend = true) (unmasked : x.mask = false) (hx : (d.fn fn).vec i = x)
include pending unmasked hx

theorem sent_releaseVec : Sent fn i x (releaseVec fn d i) := by
  rw [releaseVec_of_pending (by rwa [hx]) (by rwa [hx]), hx]
  refine ⟨?_, List.mem_append_right _ (List.mem_singleton.mpr rfl)⟩
  exact (Dev.vec_putVec_same d fn i fun f => { f.vec i with pend := false }).trans (by rw [hx])

/-- A pending vector that is not masked sends its one message. -/
theorem sent_releaseVecs (hi : i < 64) (open_ : (d.fn fn).fnMask = false) : Sent fn i x (releaseVecs fn d) := by
  rw [releaseVecs_of_unmasked open_]
  refine foldl_of_mem (List.mem_range.mpr hi) (fun e => (e.fn fn).vec i = x ∨ Sent fn i x e) (Sent fn i x) ?_ ?_ ?_ (.inl hx)
  case refine_1 =>
    rintro e j (waits | sent)
    · by_cases same : i = j
      · exact .inr (same ▸ sent_releaseVec pending unmasked waits)
      · exact .inl ((vec_releaseVec_ne same).trans waits)
    · exact .inr (sent.releaseVec j)
  case refine_2 => exact fun e h => h.elim (sent_releaseVec pending unmasked) fun sent => sent.releaseVec i
  case refine_3 => exact fun e j sent => sent.releaseVec j

end

end

/-! ## A write of a mask bit -/

theorem msixVector_masked (d : Dev) (fn i : Nat) :
    ((releaseVecs fn (d.onFn fn fun f => { f with vecs := Tab.put f.vecs i { f.vec i with mask := true } })).fn fn).vec i =
      { (d.fn fn).vec i with mask := true } := by
  have written := Dev.vec_putVec_same d fn i fun f => { f.vec i with mask := true }
  exact (vec_releaseVecs_of_masked (by rw [written])).trans written

theorem msixVector_unmasked {fn i : Nat} {d : Dev} (hi : i < 64) (open_ : (d.fn fn).fnMask = false)
    (pending : ((d.fn fn).vec i).pend = true) :
    Sent fn i { (d.fn fn).vec i with mask := false }
      (releaseVecs fn (d.onFn fn fun f => { f with vecs := Tab.put f.vecs i { f.vec i with mask := false } })) :=
  sent_releaseVecs pending rfl (Dev.vec_putVec_same d fn i fun f => { f.vec i with mask := false }) hi
    (by rw [Dev.fn_onFn_same]; exact open_)

theorem msixFunction_masked (d : Dev) (fn : Nat) : ((d.onFn fn fun f => { f with fnMask := true }).fn fn).fnMask = true :=
  congrArg Fn.fnMask (Dev.fn_onFn_same d fn fun f => { f with fnMask := true })

/-! ## MSIX_VECTOR_CONTROL_WRITE -/

theorem gives_of_next {i : Instr} {s : State} {d e : Dev} (hi : exec i s = .next { s with dev := d }) (hd : d = e) {P : Dev → Prop}
    (hP : P e) : Gives i s P :=
  ⟨e, hd ▸ hi, hP⟩

theorem exec_msixVectorControlWrite_vec (fn : FnId) (i : Fin 64) (m : Bool) (s : State) :
    exec (.msixVectorControlWrite fn (some i) m) s = .next { s with dev := (if !s.dev.barOpen fn.val then s.dev else
      releaseVecs fn.val (s.dev.onFn fn.val fun f => { f with vecs := Tab.put f.vecs i.val { f.vec i.val with mask := m } })) } := rfl

theorem exec_msixVectorControlWrite_fn (fn : FnId) (m : Bool) (s : State) :
    exec (.msixVectorControlWrite fn none m) s = .next { s with dev := (if !s.dev.barOpen fn.val then s.dev else
      releaseVecs fn.val (s.dev.onFn fn.val fun f => { f with fnMask := m })) } := rfl

section
variable {s : State} {fn : FnId} {m : Bool}

theorem exec_msixVectorControlWrite_of_closed (closed : s.dev.barOpen fn.val = false) (o : Option (Fin 64)) :
    exec (.msixVectorControlWrite fn o m) s = .next s := by
  cases o with
  | none => rw [exec_msixVectorControlWrite_fn, closed]; rfl
  | some i => rw [exec_msixVectorControlWrite_vec, closed]; rfl

variable (opened : s.dev.barOpen fn.val = true) {P : Dev → Prop}
include opened

theorem gives_msixVector {i : Fin 64} (hP : P (releaseVecs fn.val
    (s.dev.onFn fn.val fun f => { f with vecs := Tab.put f.vecs i.val { f.vec i.val with mask := m } }))) :
    Gives (.msixVectorControlWrite fn (some i) m) s P :=
  gives_of_next (exec_msixVectorControlWrite_vec fn i m s) (if_neg (by rw [opened]; exact Bool.false_ne_true)) hP

theorem gives_msixFunction (hP : P (releaseVecs fn.val (s.dev.onFn fn.val fun f => { f with fnMask := m }))) :
    Gives (.msixVectorControlWrite fn none m) s P :=
  gives_of_next (exec_msixVectorControlWrite_fn fn m s) (if_neg (by rw [opened]; exact Bool.false_ne_true)) hP

end

/-! ## The moderation timer (R364) -/

section
variable {s : State} {fn : FnId} {i : Fin 64}

theorem exec_msixModerationTimer (fn : FnId) (i : Fin 64) (s : State) : exec (.msixModerationTimer fn i) s =
    .next { s with dev := if ((s.dev.fn fn.val).vec i.val).held = 0 then s.dev else sendMsix fn.val i.val s.dev } := rfl

theorem exec_msixModerationTimer_of_none (none_ : ((s.dev.fn fn.val).vec i.val).held = 0) :
    exec (.msixModerationTimer fn i) s = .next s := by
  rw [exec_msixModerationTimer, if_pos none_]

end

/-- A vector whose held events are sent, or pend while it or the function is masked. -/
def Fn.sentVec (f : Fn) (i : Nat) : Vec := { f.vec i with pend := f.fnMask || (f.vec i).mask, held := 0 }

/-- A message on a vector leaves, or sets its pending bit while it or the function is masked; nothing else changes. -/
theorem sendMsix_eq (fn i : Nat) (d : Dev) : sendMsix fn i d =
    let x := (d.fn fn).vec i
    { d.onFn fn fun f => { f with vecs := Tab.put f.vecs i (f.sentVec i) } with
      out := d.out ++ if (d.fn fn).fnMask || x.mask then [] else [.msix fn i x.addr x.data] } := by
  unfold sendMsix
  dsimp only
  rw [Bool.or_comm]
  split
  · rw [List.append_nil]; rfl
  · rfl

/-! ## The admin tail and the event head (R403, R404, R406) -/

theorem exec_adminTailWrite (fn : FnId) (w : BitVec 32) (s : State) :
    exec (.adminTailWrite fn w) s = .next { s with dev := doAdminTail fn.val w s.dev } := rfl

theorem exec_evHeadWrite (fn : FnId) (w : BitVec 32) (s : State) :
    exec (.evHeadWrite fn w) s = .next { s with dev := doEvHead fn.val w s.dev } := rfl

section
variable {fn : Nat} {w : BitVec 32} {d : Dev}

theorem doAdminTail_of_closed (closed : d.barOpen fn = false) : doAdminTail fn w d = d := by
  rw [doAdminTail, closed]; rfl

theorem doEvHead_of_closed (closed : d.barOpen fn = false) : doEvHead fn w d = d := by
  rw [doEvHead, closed]; rfl

theorem doAdminTail_of_open (opened : d.barOpen fn = true) : doAdminTail fn w d = answerUnknown fn 32
    (raiseSrc d.schedHub fn (d.onFn fn fun f => { f with adTail := BitVec.ofNat 32 (bits w.toNat 4 0) })) := by
  rw [doAdminTail, opened]; rfl

theorem doEvHead_of_open (opened : d.barOpen fn = true) : doEvHead fn w d = drainHeld fn (d.fn fn).evHeld.length
    (d.onFn fn fun f => { f with evHead := BitVec.ofNat 32 (bits w.toNat 7 0) }) := by
  have held : ((d.onFn fn fun f => { f with evHead := BitVec.ofNat 32 (bits w.toNat 7 0) }).fn fn).evHeld = (d.fn fn).evHeld :=
    (congrArg Fn.evHeld (Dev.fn_onFn_same d fn fun f => { f with evHead := BitVec.ofNat 32 (bits w.toNat 7 0) })).trans rfl
  rw [doEvHead, opened, ← held]; rfl

/-- An entry written counts on: the index and the sequence number move by one, and the events held stay. -/
theorem fn_writeEvent (e : HeldEvent) : ((writeEvent fn e d).fn fn).evHeld = (d.fn fn).evHeld ∧
    ((writeEvent fn e d).fn fn).evSeq = (d.fn fn).evSeq + 1 ∧ ((writeEvent fn e d).fn fn).evIndex = ((d.fn fn).evIndex + 1) % 256 := by
  obtain ⟨l, x, journaled⟩ := journal_spec 7 [fn, e.kind] d
  obtain ⟨vs, out, signalled, -⟩ := signalVec_spec fn (d.fn fn).evVec (writeEntry fn e d)
  have same : ({ d with evcs := l, fw := x } : Dev).fn fn = d.fn fn := rfl
  rw [writeEvent, signalled, writeEntry, journaled, same]
  simp [Dev.fn, Dev.setFn]

theorem fns_faultPosted (e : HeldEvent) : (faultPosted e d).fns = d.fns := by
  unfold faultPosted
  split <;> rfl

/-- With one event held and room in the ring, the event is posted. -/
theorem fn_drainHeld_one {e : HeldEvent} (held : (d.fn fn).evHeld = [e]) (room : (d.fn fn).evFull = false) :
    ((drainHeld fn 1 d).fn fn).evHeld = [] ∧ ((drainHeld fn 1 d).fn fn).evSeq = (d.fn fn).evSeq + 1 ∧
      ((drainHeld fn 1 d).fn fn).evIndex = ((d.fn fn).evIndex + 1) % 256 := by
  have posts : drainHeld fn 1 d = faultPosted e (writeEvent fn e (d.setFn fn { d.fn fn with evHeld := [] })) := by
    simp [drainHeld, held, room]
  have posted := fn_writeEvent (fn := fn) (d := d.setFn fn { d.fn fn with evHeld := [] }) e
  rw [Dev.fn_setFn_same] at posted
  rw [posts, Dev.fn, fns_faultPosted]
  exact posted

end

end Sys2Proof.Machine
end

section
/-! Writes of the window base, queue, vector and ring registers (R524, R525, R261, R465, R266, R363, R403, R406). -/

namespace Sys2Proof.Machine

open Sys2Proof

/-! ## REGISTER_WRITE -/

section
variable {s : State}

theorem registerWrite_of_idle {fn : FnId} {off : BarAt} {bs : List Byte} (idle : doBarWrite fn off bs (work s) = work s) :
    exec (.registerWrite (.fn fn) off bs) s = .next s :=
  next_after_of_eq (exec_registerWrite_fn fn off bs s) idle

theorem registerWrite_readOnly {fn : FnId} {off : BarAt} {bs : List Byte}
    (place : off.off + bs.length ≤ 0x14 ∨ (0x28 ≤ off.off ∧ off.off + bs.length ≤ 0x100)) :
    exec (.registerWrite (.fn fn) off bs) s = .next s := by
  refine registerWrite_of_idle ?_
  cases taken : (work s).dev.barTakes fn.val off.ide with
  | false => exact doBarWrite_of_not_taken taken
  | true => exact doBarWrite_of_idle taken (by omega) (write_of_readOnly place)

variable {v : FnId} {ide : Option Nat} (guest : v.val ≠ mgr)
include guest

theorem registerWrite_hwbase (taken : s.dev.barTakes v.val ide = true) {bs : List Byte} (len : bs.length = 8)
    (aligned : leNat bs % 65536 = 0) : Gives (.registerWrite (.fn v) ⟨0x20, ide⟩ bs) s fun d =>
      d.fn v.val = { s.dev.fn v.val with hwbase := BitVec.ofNat 64 (leNat bs) } ∧
      (∀ i, i ≠ v.val → d.fn i = s.dev.fn i) ∧ { d with fns := s.dev.fns } = s.dev := by
  refine gives_of_on (exec_registerWrite_fn ..) (doBarWrite_hwbase (k := work s) guest taken len) ?_
  exact ⟨(Dev.fn_onFn_same ..).trans (if_pos aligned), fun i ne => Dev.fn_onFn_ne _ _ ne, rfl⟩

theorem registerWrite_hwbase_misaligned {bs : List Byte} (len : bs.length = 8) (misaligned : leNat bs % 65536 ≠ 0) :
    Gives (.registerWrite (.fn v) ⟨0x20, ide⟩ bs) s fun d => (∀ i, d.fn i = s.dev.fn i) ∧ { d with fns := s.dev.fns } = s.dev := by
  cases taken : s.dev.barTakes v.val ide with
  | false => exact ⟨s.dev, registerWrite_of_idle (doBarWrite_of_not_taken taken), fun _ => rfl, rfl⟩
  | true =>
    refine gives_of_on (exec_registerWrite_fn ..) (doBarWrite_hwbase (k := work s) guest taken len) ?_
    refine ⟨fun i => ?_, rfl⟩
    by_cases same : i = v.val
    · rw [same]
      exact (Dev.fn_onFn_same ..).trans (if_neg misaligned)
    · exact Dev.fn_onFn_ne _ _ same

theorem doBarWrite_masterBase {k : Wk} (taken : k.dev.barTakes v.val ide = true) (b : Byte) {i : Nat} (hi : i < 8) :
    doBarWrite v ⟨0x800 + i, ide⟩ [b] k = k.on fun d => d.onFn v.val fun f =>
      { f with masterBase := byteMerged i b (k.dev.fn v.val).masterBase } := by
  have regs := vfRegs_of_xlt (n := 1) Nat.one_pos (Nat.le_add_right 0x800 i) (by omega) v.val
  refine (doBarWrite_of_register (off := ⟨0x800 + i, ide⟩) (bs := [b]) taken guest ?_ (r := rwReg 0x800 8 (ones (8 * 8))
    (fun d => (d.fn v.val).masterBase.toNat) fun x d => d.onFn v.val fun f => { f with masterBase := BitVec.ofNat 64 x }) ?_
    (Nat.le_add_right 0x800 i) ?_ (by decide : (0x800 : Nat) < 0x2000) ?_).trans (write_rwReg_byte hi b k)
  · exact regs ▸ apart_xltRegs v.val
  · exact regs ▸ List.mem_append_left _ List.mem_cons_self
  · exact (Nat.add_le_add_left hi 0x800 : 0x800 + (i + 1) ≤ 0x800 + 8)
  · exact (by omega : 0x800 + i + 1 ≤ 0x2000)

theorem registerWrite_masterBase (taken : s.dev.barTakes v.val ide = true) (b : Byte) {i : Nat} (hi : i < 8) :
    Gives (.registerWrite (.fn v) ⟨0x800 + i, ide⟩ [b]) s fun d =>
      ((d.fn v.val).masterBase >>> (8 * i)).truncate 8 = b ∧
      (∀ j, j < 8 → j ≠ i → ((d.fn v.val).masterBase >>> (8 * j)).truncate 8 =
        ((s.dev.fn v.val).masterBase >>> (8 * j)).truncate 8) ∧
      { d.fn v.val with masterBase := (s.dev.fn v.val).masterBase } = s.dev.fn v.val := by
  refine gives_of_on (exec_registerWrite_fn ..) (doBarWrite_masterBase (k := work s) guest taken b hi) ?_
  rw [Dev.fn_onFn_same]
  exact ⟨byteMerged_same hi b _, fun j hj ne => byteMerged_other hj ne b _, rfl⟩

theorem registerWrite_plain (taken : s.dev.barTakes v.val ide = true) {o n : Nat} {bs : List Byte}
    (plain : (o, n) ∈ [(0x800, 8), (0x808, 4), (0x810, 4), (0x814, 4), (0x818, 8), (0x820, 4)]) (len : bs.length = n) :
    Gives (.registerWrite (.fn v) ⟨o, ide⟩ bs) s fun d => d.barRead v.val o n = bs := by
  simp only [List.mem_cons, Prod.mk.injEq, List.not_mem_nil, or_false] at plain
  rcases plain with ⟨rfl, rfl⟩ | ⟨rfl, rfl⟩ | ⟨rfl, rfl⟩ | ⟨rfl, rfl⟩ | ⟨rfl, rfl⟩ | ⟨rfl, rfl⟩
  · exact registerWrite_readBack (g := Fn.masterBase) (p := fun f x => { f with masterBase := x }) guest taken len (by decide) (by decide)
      (by decide) (by simp [xltRegs]) fun _ _ => rfl
  · exact registerWrite_readBack (g := Fn.masterCount) (p := fun f x => { f with masterCount := x }) guest taken len (by decide) (by decide)
      (by decide) (by simp [xltRegs]) fun _ _ => rfl
  · exact registerWrite_readBack (g := Fn.syncFirst) (p := fun f x => { f with syncFirst := x }) guest taken len (by decide) (by decide)
      (by decide) (by simp [xltRegs]) fun _ _ => rfl
  · exact registerWrite_readBack (g := Fn.syncSpan) (p := fun f x => { f with syncSpan := x }) guest taken len (by decide) (by decide)
      (by decide) (by simp [xltRegs]) fun _ _ => rfl
  · exact registerWrite_readBack (g := Fn.moveVa) (p := fun f x => { f with moveVa := x }) guest taken len (by decide) (by decide)
      (by decide) (by simp [xltRegs]) fun _ _ => rfl
  · exact registerWrite_readBack (g := Fn.movePages) (p := fun f x => { f with movePages := x }) guest taken len (by decide) (by decide)
      (by decide) (by simp [xltRegs]) fun _ _ => rfl

end

/-! ## Doorbells and completion heads -/

section
variable {s : State} {v : VDev} {q : QId} (opened : s.dev.barOpen v.val = true)
include opened

theorem exec_doorbell_aligned (w : BitVec 64) : exec (.doorbell v (0x2000 + 8 * q.val) (natLe 8 w.toNat)) s =
    .next (after s (ringDoorbell v.val q.val w.toNat (bitAt w.toNat 16) (work s))) :=
  next_after_of_eq (exec_doorbell ..) (doDoorbell_of_aligned (k := work s) opened q w)

theorem exec_doorbellRetry_of_open (w : BitVec 64) : exec (.doorbellRetry v q w) s =
    .next (after s (ringDoorbell v.val q.val w.toNat true (work s))) :=
  next_after_of_eq (exec_doorbellRetry ..) (if_pos opened)

theorem doorbell_bad {w : BitVec 64}
    (bad : ∀ x, s.dev.queue? v.val q.val = some x → (s.dev.vd v.val).queueGrant ≤ q.val ∨ x.S ≤ bits w.toNat 15 0) :
    Gives (.doorbell v (0x2000 + 8 * q.val) (natLe 8 w.toNat)) s (fun d => d = setErr v.val 1 s.dev) ∧
    Gives (.doorbellRetry v q w) s fun d => d = setErr v.val 1 s.dev :=
  ⟨gives_of_on (exec_doorbell_aligned opened w) (ringDoorbell_of_bad (k := work s) bad) rfl,
    gives_of_on (exec_doorbellRetry_of_open opened w) (ringDoorbell_of_bad (k := work s) bad) rfl⟩

section
variable {x : Queue} (hx : s.dev.queue? v.val q.val = some x)
include hx

theorem doorbell_good {w : BitVec 64} (granted : q.val < (s.dev.vd v.val).queueGrant) (within : bits w.toNat 15 0 < x.S)
    (retry : bitAt w.toNat 16 = false) : Gives (.doorbell v (0x2000 + 8 * q.val) (natLe 8 w.toNat)) s fun d =>
      d = s.dev.setQueue v.val q.val { x with tail := bits w.toNat 15 0 } :=
  gives_of_on (exec_doorbell_aligned opened w) (ringDoorbell_of_noRetry (k := work s) hx granted within retry) rfl

theorem doorbellRetry_good {w : BitVec 64} (granted : q.val < (s.dev.vd v.val).queueGrant) (within : bits w.toNat 15 0 < x.S) :
    exec (.doorbellRetry v q w) s = .next (after s
      (let k := (work s).on fun d => d.setQueue v.val q.val { x with tail := bits w.toNat 15 0 }
       if (s.dev.vd v.val).frozen then k else retryQueue v.val q.val k)) := by
  refine next_after_of_eq (exec_doorbellRetry_of_open opened w) ((ringDoorbell_of_good (k := work s) hx granted within).trans ?_)
  change (if true && !(s.dev.vd v.val).frozen then _ else _) = _
  cases (s.dev.vd v.val).frozen <;> rfl

theorem doorbell_retry {w : BitVec 64} (granted : q.val < (s.dev.vd v.val).queueGrant) (within : bits w.toNat 15 0 < x.S)
    (retry : bitAt w.toNat 16 = true) (thawed : (s.dev.vd v.val).frozen = false) :
    exec (.doorbell v (0x2000 + 8 * q.val) (natLe 8 w.toNat)) s = .next (after s (retryQueue v.val q.val
      ((work s).on fun d => d.setQueue v.val q.val { x with tail := bits w.toNat 15 0 }))) := by
  have same := exec_doorbell_aligned (q := q) opened w
  rw [retry, ← exec_doorbellRetry_of_open opened w, doorbellRetry_good opened hx granted within, thawed] at same
  exact same

variable {w : BitVec 32}

theorem cqHeadWrite_good (within : w.toNat < x.C) : exec (.cqHeadWrite v q w) s = .next (after s (retryQueue v.val q.val
    ((work s).on fun d => d.setQueue v.val q.val { x with cqHead := w.toNat }))) :=
  next_after_of_eq (exec_cqHeadWrite ..) (doCqHead_of_within (k := work s) opened hx within)

theorem cqHeadWrite_quiet (within : w.toNat < x.C) (empty : x.backlog = []) (active : x.state = .active) :
    Gives (.cqHeadWrite v q w) s fun d => d = s.dev.setQueue v.val q.val { x with cqHead := w.toNat } := by
  refine gives_of_on (cqHeadWrite_good opened hx within) ?_ rfl
  exact retryQueue_of_empty (k := (work s).on fun d => d.setQueue v.val q.val { x with cqHead := w.toNat })
    (Dev.queue?_setQueue_same ..) empty active

theorem cqHeadWrite_beyond (beyond : x.C ≤ w.toNat) : Gives (.cqHeadWrite v q w) s fun d => d = setErr v.val 4 s.dev :=
  gives_of_on (exec_cqHeadWrite ..) (doCqHead_of_beyond (k := work s) opened hx beyond) rfl

end

end

/-! ## Vectors -/

theorem msixModerationTimer_held {s : State} {fn : FnId} {i : Fin 64} (some_ : ((s.dev.fn fn.val).vec i.val).held ≠ 0) :
    Gives (.msixModerationTimer fn i) s fun d =>
      let x := (s.dev.fn fn.val).vec i.val
      let masked := (s.dev.fn fn.val).fnMask || x.mask
      d.out = s.dev.out ++ (if masked then [] else [.msix fn.val i.val x.addr x.data]) ∧
      (d.fn fn.val).vec i.val = { x with
        pend := masked
        held := 0 } ∧
      (∀ j, j ≠ i.val → (d.fn fn.val).vec j = (s.dev.fn fn.val).vec j) ∧ { d with fns := s.dev.fns, out := s.dev.out } = s.dev := by
  refine gives_of_next (exec_msixModerationTimer fn i s) ((if_neg some_).trans (sendMsix_eq ..)) ⟨rfl, ?_, fun j ne => ?_, rfl⟩
  · exact Dev.vec_putVec_same s.dev fn.val i.val (Fn.sentVec · i.val)
  · exact Dev.vec_putVec_ne s.dev fn.val (Fn.sentVec · i.val) ne

/-! ## The admin tail and the event head -/

theorem evHeadWrite_one {s : State} {fn : FnId} {w : BitVec 32} {e : HeldEvent} (opened : s.dev.barOpen fn.val = true)
    (held : (s.dev.fn fn.val).evHeld = [e]) (room : (s.dev.fn fn.val).evIndex ≠ (bits w.toNat 7 0 + 255) % 256) :
    Gives (.evHeadWrite fn w) s fun d => (d.fn fn.val).evHeld = [] ∧ (d.fn fn.val).evSeq = (s.dev.fn fn.val).evSeq + 1 ∧
      (d.fn fn.val).evIndex = ((s.dev.fn fn.val).evIndex + 1) % 256 := by
  refine gives_of_next (exec_evHeadWrite fn w s) (doEvHead_of_open opened) ?_
  have freed : (s.dev.onFn fn.val fun f => { f with evHead := BitVec.ofNat 32 (bits w.toNat 7 0) }).fn fn.val =
    { s.dev.fn fn.val with evHead := BitVec.ofNat 32 (bits w.toNat 7 0) } := Dev.fn_onFn_same ..
  have head : bits (BitVec.ofNat 32 (bits w.toNat 7 0)).toNat 7 0 = bits w.toNat 7 0 := by
    simp only [bits, BitVec.toNat_ofNat]
    omega
  have posted := fn_drainHeld_one (d := s.dev.onFn fn.val fun f => { f with evHead := BitVec.ofNat 32 (bits w.toNat 7 0) })
    (by rw [freed]; exact held) (by rw [freed, Fn.evFull, head]; exact beq_false_of_ne room)
  rw [freed] at posted
  rw [held, List.length_singleton]
  exact posted

/-- Settles O11: each write is one of a register, the doorbell array, a completion head, a mask bit, or a ring register, and each leaves
what the rule of that register says. -/
theorem registerWrites : Obligations.RegisterWrites := by
  unfold Obligations.RegisterWrites
  and_intros
  · exact fun s fn off bs taken => registerWrite_of_idle (doBarWrite_of_not_taken (k := work s) taken)
  · exact fun s fn off bs taken manager => next_after_of_eq (exec_registerWrite_fn ..) (doBarWrite_of_mgr (k := work s) taken manager)
  · exact fun s fn off bs taken guest => next_after_of_eq (exec_registerWrite_fn ..) (doBarWrite_of_vf (k := work s) taken guest)
  · exact fun s fn off bs place => registerWrite_readOnly place
  · exact fun s v ide bs guest taken len aligned => registerWrite_hwbase guest taken len aligned
  · exact fun s v ide bs guest len misaligned => registerWrite_hwbase_misaligned guest len misaligned
  · exact fun s v ide b i guest taken hi => registerWrite_masterBase guest taken b hi
  · exact fun s p off bs => rfl
  · exact fun d p off n => rfl
  · exact fun s v ide o n bs guest taken plain len => registerWrite_plain guest taken plain len
  · exact fun s v q w x opened hx granted within retry => doorbell_good opened hx granted within retry
  · exact fun s v q w x opened hx granted within retry thawed => doorbell_retry opened hx granted within retry thawed
  · exact fun s v q w opened bad => doorbell_bad opened bad
  · exact fun s v off bs opened above below some_ narrow =>
      gives_of_on (exec_doorbell ..) (doDoorbell_of_narrow (k := work s) opened above below some_ narrow) rfl
  · exact fun s v off bs beside => next_after_of_eq (exec_doorbell ..) (doDoorbell_of_beside (k := work s) beside)
  · exact fun s v q w x opened hx granted within => doorbellRetry_good opened hx granted within
  · exact fun s v q w closed => next_after_of_eq (exec_doorbellRetry ..) (if_neg (by rw [closed]; exact Bool.false_ne_true))
  · exact fun s v q w x opened hx within => cqHeadWrite_good opened hx within
  · exact fun s v q w x opened hx within empty active => cqHeadWrite_quiet opened hx within empty active
  · exact fun s v q w x opened hx beyond => cqHeadWrite_beyond opened hx beyond
  · exact fun s v q w gone => next_after_of_eq (exec_cqHeadWrite ..) (doCqHead_of_none (k := work s) gone)
  · exact fun s fn i m opened => gives_msixVector opened rfl
  · exact fun s fn m opened => gives_msixFunction opened rfl
  · exact fun s fn o m closed => exec_msixVectorControlWrite_of_closed closed o
  · exact fun s fn i opened => gives_msixVector opened (msixVector_masked s.dev fn.val i.val)
  · exact fun s fn opened => gives_msixFunction opened (releaseVecs_of_masked (msixFunction_masked s.dev fn.val))
  · exact fun s fn i opened open_ pending => gives_msixVector opened (msixVector_unmasked i.isLt open_ pending)
  · exact fun s fn i some_ => msixModerationTimer_held some_
  · exact fun s fn i none_ => exec_msixModerationTimer_of_none none_
  · exact fun s fn w opened => gives_of_next (exec_adminTailWrite fn w s) (doAdminTail_of_open opened) rfl
  · exact fun s fn w opened => gives_of_next (exec_evHeadWrite fn w s) (doEvHead_of_open opened) rfl
  · exact fun s fn w opened none_ =>
      gives_of_next (exec_evHeadWrite fn w s) ((doEvHead_of_open opened).trans (by rw [none_]; rfl)) rfl
  · exact fun s fn w e opened held room => evHeadWrite_one opened held room
  · exact fun s fn w closed => ⟨(exec_adminTailWrite fn w s).trans (by rw [doAdminTail_of_closed closed]),
      (exec_evHeadWrite fn w s).trans (by rw [doEvHead_of_closed closed])⟩

end Sys2Proof.Machine
end

section
/-! Requests that are answered, deferred or left at the head of the ring (R403, R404). Behind the last request submitted firmware finds
no other to refuse, so that what it leaves of the function is known. -/

namespace Sys2Proof.Machine

open Sys2Proof

/-! ## Requests that are taken -/

section
variable {w w' : Wk} {fn i : Nat} {row : AdRow} {bs : List Byte} {body : AdReq → Wk → Ans × Wk}

/-- A request performed is finished with its result. -/
theorem takeRequest_replied (h : Accepted w.dev fn row i bs) {res : List Byte} (hb : body (headReq fn i bs) w = performed res w') :
    takeRequest fn row body w = finish (headReq fn i bs) (.done stOk 0 res) w' := by
  rw [takeRequest_accepted h, hb]
  rfl

theorem takeRequest_deferred (h : Accepted w.dev fn row i bs) {op : DefOp} (hb : body (headReq fn i bs) w = (.later op, w')) :
    takeRequest fn row body w = finish (headReq fn i bs) (.later op) w' := by
  rw [takeRequest_accepted h, hb]

/-- A request that waits stays at the head of its ring. -/
theorem takeRequest_waiting (h : Accepted w.dev fn row i bs) (hb : body (headReq fn i bs) w = (.wait, w')) :
    takeRequest fn row body w = w' := by
  rw [takeRequest_accepted h, hb]
  rfl

end

/-- A deferred request gives the device that its body leaves, but for registers and rings of functions, notices, the journal and what
leaves. -/
theorem gives_of_deferred {c : Instr} {s : State} {fn slot : Nat} {row : AdRow} {body : AdReq → Wk → Ans × Wk} {bs : List Byte}
    {op : DefOp} {f : Dev → Dev} (hi : exec c s = .next (after s (takeRequest fn row body (work s))))
    (h : Accepted s.dev fn row slot bs) (hb : body (headReq fn slot bs) (work s) = (.later op, (work s).on f)) {P : Dev → Prop}
    (hP : ∀ fns ns l fw out, P { f s.dev with fns := fns, notices := ns, evcs := l, fw := fw, out := out }) : Gives c s P :=
  gives_of_finish (r := headReq fn slot bs) (a := .later op) (d := f s.dev) (next_after_of_eq hi (takeRequest_deferred h hb)) hP

/-! ## The last request submitted -/

/-- Slot `i` holds the last request that function `fn` has submitted, and firmware takes it next. -/
structure LastSlot (d : Dev) (fn i : Nat) : Prop where
  head : bits (d.fn fn).adHead.toNat 4 0 = i
  tail : bits (d.fn fn).adTail.toNat 4 0 = (i + 1) % 32

/-- A ring whose head has reached its tail holds no request to take. -/
theorem nextSlot_of_drained {d : Dev} {fn : Nat} (h : bits (d.fn fn).adHead.toNat 4 0 = bits (d.fn fn).adTail.toNat 4 0) :
    d.nextSlot fn = none := by
  simp [Dev.nextSlot, h]

theorem lastSlot_of_accepted {d : Dev} {fn i : Nat} {row : AdRow} {bs : List Byte} (h : Accepted d fn row i bs)
    (tail : bits (d.fn fn).adTail.toNat 4 0 = (i + 1) % 32) : LastSlot d fn i := by
  have head := h.head
  unfold Dev.nextSlot at head
  dsimp only at head
  split at head
  · cases head
  · exact ⟨congrArg Prod.fst (Option.some.inj head), tail⟩

/-- A slot number reads back from the register that holds it. -/
theorem bits_slot (n : Nat) : bits (BitVec.ofNat 32 (n % 32)).toNat 4 0 = n % 32 := by
  rw [BitVec.toNat_ofNat, bits]
  omega

/-- With the last request taken, the ring is drained. -/
theorem LastSlot.drained {d : Dev} {fn i : Nat} (h : LastSlot d fn i) :
    bits ((advanceHead fn d).fn fn).adHead.toNat 4 0 = bits ((advanceHead fn d).fn fn).adTail.toNat 4 0 := by
  rw [advanceHead, Dev.fn_onFn_same, h.head]
  exact (bits_slot (i + 1)).trans h.tail.symm

/-- A response leaves the function's ring pointers and writes the response slot of its request. -/
theorem adRespond_fn (fn slot : Nat) (tag : BitVec 32) (st code : Nat) (res : List Byte) (d : Dev) : ∃ vs,
    (adRespond fn slot tag st code res d).fn fn = { d.fn fn with
      vecs := vs
      respSlots := Tab.put (d.fn fn).respSlots slot (responseBytes st code (Tab.getD (d.fn fn).respUsed slot 0 % 2 == 0) tag res)
      respUsed := Tab.put (d.fn fn).respUsed slot (Tab.getD (d.fn fn).respUsed slot 0 + 1)
      taken := Tab.del (d.fn fn).taken slot } := by
  obtain ⟨l, w, hj⟩ := journal_spec 2 [fn, slot, st] d
  unfold adRespond
  rw [hj]
  extract_lets d' f n
  obtain ⟨vs, out, h, -⟩ := signalVec_spec fn f.adminVec (d'.setFn fn { f with
    respSlots := Tab.put f.respSlots slot (responseBytes st code (n % 2 == 0) tag res)
    respUsed := Tab.put f.respUsed slot (n + 1)
    taken := Tab.del f.taken slot })
  rw [h, Dev.fn_setFn_same]
  exact ⟨vs, Tab.getD_put_same ..⟩

section
variable {r : AdReq} {w : Wk}

/-- The last request deferred stands among those that firmware has taken, and nothing is answered. -/
theorem finish_deferred_of_last (last : LastSlot w.dev r.fn r.slot) (op : DefOp) : ∃ fns l fw,
    finish r (.later op) w = w.on (fun d => { d with fns := fns, evcs := l, fw := fw }) ∧
    Tab.get? ({ w.dev with fns := fns }.fn r.fn).taken r.slot = some ⟨r.tag, op, w.dev.hlc (fnHub r.fn)⟩ ∧
    ({ w.dev with fns := fns }.fn r.fn).respUsed = (w.dev.fn r.fn).respUsed := by
  obtain ⟨l, fw, took⟩ := took_spec r w.dev
  have deferred := Dev.fn_onFn_same (advanceHead r.fn w.dev) r.fn fun f =>
    { f with taken := Tab.put f.taken r.slot ⟨r.tag, op, w.dev.hlc (fnHub r.fn)⟩ }
  refine ⟨_, l, fw, ?_, (congrArg (fun f => Tab.get? f.taken r.slot) deferred).trans (Tab.get?_put_same ..),
    (congrArg Fn.respUsed deferred).trans (congrArg Fn.respUsed (Dev.fn_onFn_same w.dev r.fn _) :)⟩
  simp only [finish, Wk.on]
  rw [took, answerUnknown_none _ _ _ (nextSlot_of_drained ?_)]
  · rfl
  · rw [Dev.fn_onFn_same]
    exact last.drained

/-- The last request answered has its response in its slot. -/
theorem finish_replied_of_last (last : LastSlot w.dev r.fn r.slot) (st code : Nat) (res : List Byte) : ∃ fns l fw out phase,
    finish r (.done st code res) w = w.on (fun d => { d with fns := fns, evcs := l, fw := fw, out := out }) ∧
    Tab.getD ({ w.dev with fns := fns }.fn r.fn).respSlots r.slot [] = responseBytes st code phase r.tag res := by
  obtain ⟨l₀, fw₀, took⟩ := took_spec r w.dev
  obtain ⟨vs, answered⟩ := adRespond_fn r.fn r.slot r.tag st code res { advanceHead r.fn w.dev with evcs := l₀, fw := fw₀ }
  obtain ⟨x, l, fw, out, spec⟩ := adRespond_spec r.fn r.slot r.tag st code res { advanceHead r.fn w.dev with evcs := l₀, fw := fw₀ }
  refine ⟨_, l, fw, out, _, ?_, (congrArg (fun f => Tab.getD f.respSlots r.slot []) (spec ▸ answered :)).trans (Tab.getD_put_same ..)⟩
  simp only [finish, Wk.on]
  rw [took, answerUnknown_none _ _ _ (nextSlot_of_drained ?_)]
  · rw [spec]
    rfl
  · rw [answered]
    exact last.drained

end

/-- Requests that stand before the command find none unknown at the head. -/
theorem answerUnknown_of_accepted {d : Dev} {fn i : Nat} {row : AdRow} {bs : List Byte} (h : Accepted d fn row i bs) (n : Nat) :
    answerUnknown fn n d = d := answerUnknown_known d fn n i bs h.head h.known

end Sys2Proof.Machine
end

section
/-! The end of a context's destruction (R313): what it leaves where the slots of taken requests are listed once each, and a list in which
one is repeated. -/

namespace Sys2Proof.Machine

open Sys2Proof

theorem exec_destroyComplete (v : VDev) (slot : Fin 32) (s : State) :
    exec (.destroyComplete v slot) s = .next (after s (doDestroyComplete v.val slot.val (work s))) := rfl

/-- A device without a context, its virtual device without queues. -/
def withoutContext (v ctx : Nat) (d : Dev) : Dev := { d with ctxs := Tab.del d.ctxs ctx }.onVd v fun y => { y with queues := [] }

theorem withoutContext_vd (v ctx : Nat) (d : Dev) : (withoutContext v ctx d).vd v = { d.vd v with queues := [] } :=
  Dev.vd_onVd_same { d with ctxs := Tab.del d.ctxs ctx } v _

/-- With no queue, nothing is left to fetch and nothing runs. -/
theorem doDestroyComplete_of_no_queue {v slot ctx : Nat} {b : Bool} {started : List Nat} {t : Taken} {w : Wk}
    (taken : Tab.get? (w.dev.fn v).taken slot = some t) (op : t.op = .destroyContext ctx b started) (none_ : (w.dev.vd v).queues = []) :
    doDestroyComplete v slot w = w.on fun d => adRespond v slot t.tag stOk 0 [] (withoutContext v ctx d) := by
  have read : fetchVd v w = w := by rw [fetchVd, none_]; rfl
  have emptied (d : Dev) : ({ d with ctxs := Tab.del d.ctxs ctx } : Dev).vd v = d.vd v := rfl
  simp only [doDestroyComplete, taken, op, none_, read, List.any_nil, Bool.false_eq_true, if_false, Wk.on, Dev.onVd, emptied, List.map_nil]
  rfl

/-- The context and the request of its destruction are gone where each slot of the function is listed once. -/
theorem destroyComplete_of_rising_slots {s : State} {v : VDev} {slot : Fin 32} {t : Taken} {ctx : Nat} {b : Bool} {started : List Nat}
    (rising : keysFrom 0 (s.dev.fn v.val).taken) (taken : Tab.get? (s.dev.fn v.val).taken slot.val = some t)
    (op : t.op = .destroyContext ctx b started) (none_ : (s.dev.vd v.val).queues = []) :
    Gives (.destroyComplete v slot) s fun d => d.ctxs = Tab.del s.dev.ctxs ctx ∧ (d.vd v.val).queues = [] ∧
      Tab.get? (d.fn v.val).taken slot.val = none := by
  refine gives_of_on (exec_destroyComplete v slot s) (doDestroyComplete_of_no_queue (w := work s) taken op none_) ?_
  obtain ⟨x, l, fw, out, spec⟩ := adRespond_spec v.val slot.val t.tag stOk 0 [] (withoutContext v.val ctx s.dev)
  obtain ⟨vs, answered⟩ := adRespond_fn v.val slot.val t.tag stOk 0 [] (withoutContext v.val ctx s.dev)
  refine ⟨(congrArg Dev.ctxs spec :), ?_, ?_⟩
  · exact (congrArg (fun d : Dev => (d.vd v.val).queues) spec).trans (congrArg Vd.queues (withoutContext_vd v.val ctx s.dev))
  · exact (congrArg (fun f : Fn => Tab.get? f.taken slot.val) answered).trans (Tab.get?_del_same rising)

/-- The request to destroy context 1, with none of its commands started. -/
def destroyTaken : Taken := ⟨9, .destroyContext 1 true [], 0⟩

/-- A device that lists the request in slot 0 of function 0 twice. -/
def takenTwiceDev : Dev := { Dev.reset with fns := [(0, { Fn.reset with taken := [(0, destroyTaken), (0, destroyTaken)] })] }

/-- Refutes O13: a slot that a function lists twice among its taken requests is still listed once the destruction of a context has been
answered, as an answer removes one entry. Where each slot is listed once the clause holds, by `destroyComplete_of_rising_slots`. -/
theorem not_destructionRequests : ¬ Obligations.DestructionRequests := by
  unfold Obligations.DestructionRequests
  rintro ⟨-, -, -, -, -, -, -, complete, -⟩
  obtain ⟨d, hexec, -, -, gone⟩ := complete { State.reset with dev := takenTwiceDev } 0 0 destroyTaken 1 true [] rfl rfl rfl
  have listed : ∃ t, exec (.destroyComplete 0 0) { State.reset with dev := takenTwiceDev } = .next t ∧
      Tab.get? (t.dev.fn 0).taken 0 = some destroyTaken := ⟨_, rfl, rfl⟩
  obtain ⟨t, ht, left_⟩ := listed
  cases hexec.symm.trans ht
  cases gone.symm.trans left_

end Sys2Proof.Machine
end

section
/-! Fences created, signalled, read, exported, imported and revoked (R299, R301, R303, R304, R394), and releases of spans (R307 … R309). -/

namespace Sys2Proof.Machine

open Sys2Proof

/-! ## CREATE_FENCE (R299) -/

theorem exec_createFence (v : VDev) (s : State) :
    exec (.createFence v) s = .next (after s (takeRequest v.val (adRow 0x0210 8) doCreateFence (work s))) := rfl

/-- A cell changed outside the fence operations holds the change. -/
theorem storeSet_cell (k : Nat) (f : FCell → FCell) (d : Dev) : (storeSet k f d).cell k = f (d.cell k) := by
  have written (old new : Dev) : (storeWrite k old new).cell k = new.cell k := by
    unfold storeWrite
    split <;> rfl
  unfold storeSet storeOp
  split
  · exact Dev.cell_onCell_same ..
  · rw [written, Dev.cell_onCell_same, (storeRead_sameCells k false d).cell]

theorem bindSlot_slot (v i : Nat) (ref : FRef) (owned signal : Bool) (pkg home : Nat) (d : Dev) :
    ((bindSlot v i ref owned signal pkg home d).2.vd v).slot i =
      ⟨nextUse ((d.vd v).slot i).use, true, ref, owned, signal, false, pkg, home⟩ := by
  rw [bindSlot, Dev.vd_onVd_same]
  exact Tab.getD_put_same ..

/-- A cell made LIVE for a virtual device with an initial value. -/
def liveCell (v : Nat) (init : BitVec 64) (c : FCell) : FCell :=
  { c with
    gen := c.gen + 1
    vdev := v
    state := 1
    error := 0
    value := init
    lost := false }

/-- The device with cell `k` live and slot `j` of virtual device `v` bound to it. -/
def fenceCreated (v j k : Nat) (init : BitVec 64) (d : Dev) : Dev :=
  (bindSlot v j (.cell k) true true 0 0 (storeSet k (liveCell v init) d)).2

theorem fenceCreated_cell (v j k : Nat) (init : BitVec 64) (d : Dev) :
    (fenceCreated v j k init d).cell k = liveCell v init (d.cell k) := storeSet_cell k (liveCell v init) d

theorem fenceCreated_slot (v j k : Nat) (init : BitVec 64) (d : Dev) : ∃ use,
    ((fenceCreated v j k init d).vd v).slot j = ⟨use, true, .cell k, true, true, false, 0, 0⟩ := ⟨_, bindSlot_slot ..⟩

theorem doCreateFence_performed {r : AdReq} {w : Wk} {j k : Nat} (slot : (w.dev.vd r.fn).freeSlot = some j)
    (cell : (w.dev.vd r.fn).dies.findSome? (freeCell w.dev) = some k) : ∃ res,
    doCreateFence r w = performed res (w.on (fenceCreated r.fn j k (BitVec.ofNat 64 (fieldLe r.args 0 8)))) := by
  rw [doCreateFence, slot, cell]
  exact ⟨_, rfl⟩

/-! ## SIGNAL_FENCE and READ_FENCE (R301, R394) -/

theorem exec_signalFence (v : VDev) (s : State) :
    exec (.signalFence v) s = .next (after s (takeRequest v.val (adRow 0x0212 12) doSignalFence (work s))) := rfl

theorem exec_readFence (v : VDev) (s : State) : exec (.readFence v) s =
    .next (after s (takeRequest v.val { adRow 0x0213 4 with whileFrozen := true, whileA2 := true } doReadFence (work s))) := rfl

section
variable {r : AdReq} {w : Wk} {x : FSlot} (named : (w.dev.vd r.fn).fence? (fieldLe r.args 0 4) = some x)
include named

theorem doSignalFence_deferred (may : x.canSignal = true) : doSignalFence r w =
    (.later .signal, w.on (sendFence x.ref (.signal (BitVec.ofNat 64 (fieldLe r.args 4 8))) (.admin r.fn r.slot))) := by
  simp [doSignalFence, named, may]

theorem doReadFence_of_cell {k : Nat} (href : x.ref = .cell k) : doReadFence r w = performed (readReply (readCell k w.dev)) w := by
  simp only [doReadFence, named, href]

variable {pv ps : Nat} (href : x.ref = .proxy pv ps)
include href

theorem doReadFence_of_failed (failed : w.dev.proxyFailed pv ps = true) : doReadFence r w = performed (readReply (2, 0, 0x11)) w := by
  simp only [doReadFence, named, href, failed, if_true]

variable (alive : w.dev.proxyFailed pv ps = false)
include alive

theorem doReadFence_of_answer {y : Nat × Nat × Nat × Nat × Nat} {rest : List (Nat × Nat × Nat × Nat × Nat)}
    (answer : takeFirst (fun y : Nat × Nat × Nat × Nat × Nat => y.1 == r.fn && y.2.1 == r.slot) w.dev.fx.reads = some (y, rest)) :
    doReadFence r w = performed (readReply y.2.2) (w.on fun d => d.onFx fun z => { z with reads := rest }) := by
  simp only [doReadFence, named, href, alive, answer, Bool.false_eq_true, if_false]

theorem doReadFence_of_unsent
    (unanswered : takeFirst (fun y : Nat × Nat × Nat × Nat × Nat => y.1 == r.fn && y.2.1 == r.slot) w.dev.fx.reads = none)
    (unsent : (w.dev.fx.remote.any fun y => y.op == .read && y.src == .admin r.fn r.slot) = false) :
    doReadFence r w = (.wait, w.on (sendFence x.ref .read (.admin r.fn r.slot))) := by
  simp only [doReadFence, named, href, alive, unanswered, unsent, Bool.false_eq_true, if_false]

end

/-- An operation sent to a cell of this package joins those on their way. -/
theorem sendFence_cell (k : Nat) (op : FOp) (src : FSrc) (d : Dev) :
    ∃ f, (sendFence (.cell k) op src d).fx.reqs = d.fx.reqs ++ [f] ∧ f.cell = k ∧ f.op = op := ⟨_, rfl, rfl, rfl⟩

/-! ## EXPORT_FENCE and REVOKE_EXPORT (R303) -/

theorem exec_exportFence (v : VDev) (s : State) :
    exec (.exportFence v) s = .next (after s (takeRequest v.val (adRow 0x0214 5) doExportFence (work s))) := rfl

theorem exec_revokeExport (v : VDev) (s : State) :
    exec (.revokeExport v) s = .next (after s (takeRequest v.val (adRow 0x0216 4) doRevoke (work s))) := rfl

/-- The device with entry `ex` in the table of exports, and a random number drawn for its token. -/
def exported (ex : Nat) (y : FExport) (d : Dev) : Dev :=
  { (raiseSrc 0 0x154 d).draw.2 with
    exports := Tab.put d.exports ex y
    nextExport := ex + 1 }

theorem doExportFence_performed {r : AdReq} {w : Wk} {id rights : Nat} {x : FSlot} (hid : fieldLe r.args 0 4 = id)
    (hrights : fieldLe r.args 4 1 = rights) (some_ : 0 < rights) (few : rights < 4) (named : (w.dev.vd r.fn).fence? id = some x)
    (owned : x.owned = true) (alive : x.destroyed = false)
    (room : (w.dev.exports.filter fun e => e.2.vdev == r.fn && e.2.slot == fidSlot id).length < 16)
    (total : w.dev.exports.length < 16384) (secUp : w.dev.secUp = true) : ∃ ex res, doExportFence r w = performed res (w.on
      (exported ex ⟨r.fn, fidSlot id, x.ref, BitVec.ofNat 8 rights, (Config.randomBits w.dev.draws).truncate 64⟩)) := by
  subst hid hrights
  have within : (decide (fieldLe r.args 4 1 = 0) || decide (4 ≤ fieldLe r.args 4 1)) = false := by
    simp [some_.ne', few]
  have spare : (decide (16 ≤ (w.dev.exports.filter fun e => e.2.vdev == r.fn && e.2.slot == fidSlot (fieldLe r.args 0 4)).length) ||
      decide (16384 ≤ w.dev.exports.length)) = false := by
    simp [room, total]
  unfold doExportFence
  dsimp only
  rw [within, named]
  dsimp only
  rw [owned, alive, spare, secUp]
  exact ⟨_, _, rfl⟩

theorem doRevoke_performed {r : AdReq} {w : Wk} {ex : Nat} {y : FExport} (hex : fieldLe r.args 0 4 = ex)
    (held : Tab.get? w.dev.exports ex = some y) (own : y.vdev = r.fn) :
    doRevoke r w = performed [] (w.on fun d => { d with exports := Tab.del d.exports ex }) := by
  subst hex
  simp [doRevoke, held, own]

/-! ## IMPORT_FENCE (R304, R394) -/

theorem exec_importFence (v : VDev) (s : State) : exec (.importFence v) s = .next (after s
    (noteImport v.val (answerUnknown v.val 32 s.dev)
      (takeRequest v.val (adRow 0x0215 13) doImportFence ((work s).on (answerUnknown v.val 32))))) := rfl

theorem exec_importFence_accepted {v : VDev} {s : State} {i : Nat} {bs : List Byte} (acc : Accepted s.dev v.val (adRow 0x0215 13) i bs) :
    exec (.importFence v) s = .next (after s
      (noteImport v.val s.dev (takeRequest v.val (adRow 0x0215 13) doImportFence (work s)))) := by
  have known := answerUnknown_of_accepted acc 32
  rw [exec_importFence, known]
  simp only [Wk.on, work, known]

/-- The status that a response holds. -/
theorem fieldLe_responseBytes_status {st : Nat} (h : st < 65536) (code : Nat) (phase : Bool) (tag : BitVec 32) (res : List Byte) :
    fieldLe (responseBytes st code phase tag res) 0 2 = st := by
  have status : ((responseBytes st code phase tag res).drop 0).take 2 = natLe 2 st := rfl
  rw [fieldLe, status, leNat_natLe]
  omega

section
variable {v i : Nat} {before : Dev} {w : Wk} {bs : List Byte} (head : before.nextSlot v = some (i, bs))
include head

/-- An import answered with OK is none of the refusals that count. -/
theorem noteImport_of_ok (ok : fieldLe (Tab.getD (w.dev.fn v).respSlots i []) 0 2 = stOk) : noteImport v before w = w := by
  simp [noteImport, head, ok]

/-- An import not yet answered is none of the refusals that count. -/
theorem noteImport_of_unanswered (same : (w.dev.fn v).respUsed = (before.fn v).respUsed) : noteImport v before w = w := by
  simp [noteImport, head, same]

end

section
variable {r : AdReq} {w : Wk} (open_ : w.dev.importsBlocked r.fn = false) (unblocked : (w.dev.vd r.fn).imports.blocked = false)
include open_ unblocked

/-- An import of a fence of this package binds a slot. -/
theorem doImportFence_performed {y : FExport} {j : Nat} (inline : r.args.length = 13) (some_ : 0 < fieldLe r.args 12 1)
    (few : fieldLe r.args 12 1 < 4) (held : Tab.get? w.dev.exports (fieldLe r.args 0 4) = some y)
    (token : y.token = BitVec.ofNat 64 (fieldLe r.args 4 8)) (rights : fieldLe r.args 12 1 ||| y.rights.toNat = y.rights.toNat)
    (slot : (w.dev.vd r.fn).freeSlot = some j) : ∃ res, doImportFence r w = performed res
      (w.on fun d => (bindSlot r.fn j y.ref false (bitAt (fieldLe r.args 12 1) 1) 0 0 d).2) := by
  have here : fieldLe r.args 13 4 = 0 := by
    rw [fieldLe, List.drop_eq_nil_of_le inline.le]
    rfl
  have pass : firstStatus [(fieldLe r.args 12 1 != 0 && decide (fieldLe r.args 12 1 < 4), stField),
      (y.token == BitVec.ofNat 64 (fieldLe r.args 4 8) && (fieldLe r.args 12 1 ||| y.rights.toNat) == y.rights.toNat, stNotHeld),
      (true, stNoRes)] = none := by
    simp [firstStatus, some_.ne', few, token, rights]
  simp only [doImportFence, open_, unblocked, here, held, slot, Option.isSome_some, pass, Bool.false_eq_true, if_false]
  exact ⟨_, rfl⟩

/-- The device with an import sent to another package. -/
def importSent (v slot pkg ex : Nat) (token : BitVec 64) (rights : Nat) (d : Dev) : Dev :=
  ((d.portTo v pkg).toList.foldl (fun d p => d.onPort p fun x => x.send 1) d).emit (.importOut v slot pkg ex token rights)

/-- An import of a fence of another package is sent there. -/
theorem doImportFence_deferred {pkg rights p : Nat} (hpkg : fieldLe r.args 13 4 = pkg) (hrights : fieldLe r.args 12 1 = rights)
    (named : pkg ≠ 0) (away : pkg ≠ w.dev.fab.pkgId.toNat) (some_ : 0 < rights) (few : rights < 4) (number : p < 16)
    (held : bitAt (w.dev.vd r.fn).ports.toNat p = true) (trained : (w.dev.port p).trained = true)
    (reaches : (w.dev.port p).peerPkg.toNat = pkg) (slot : (w.dev.vd r.fn).freeSlot.isSome = true) :
    doImportFence r w = (.later (.importFence pkg rights), w.on
      (importSent r.fn r.slot pkg (fieldLe r.args 0 4) (BitVec.ofNat 64 (fieldLe r.args 4 8)) rights)) := by
  have port : ((List.range 16).any fun p => bitAt (w.dev.vd r.fn).ports.toNat p && (w.dev.port p).trained &&
      (w.dev.port p).peerPkg.toNat == pkg) = true :=
    List.any_eq_true.mpr ⟨p, List.mem_range.mpr number, by simp [held, trained, reaches]⟩
  have other : (decide (pkg ≠ 0) && decide (pkg ≠ w.dev.fab.pkgId.toNat)) = true := by simp [named, away]
  have within : (decide (rights = 0) || decide (4 ≤ rights)) = false := by simp [some_.ne', few]
  have free : (w.dev.vd r.fn).freeSlot.isNone = false := by simpa using slot
  subst hpkg hrights
  simp only [doImportFence, open_, unblocked, other, within, port, free, Bool.not_true, Bool.false_eq_true, if_false, if_true]
  rfl

end

/-- What an import that is sent leaves besides what leaves: counts of a port. -/
theorem importSent_spec (v slot pkg ex : Nat) (token : BitVec 64) (rights : Nat) (d : Dev) : ∃ fab,
    importSent v slot pkg ex token rights d = { d with
      fab := fab
      out := d.out ++ [.importOut v slot pkg ex token rights] } := by
  unfold importSent
  cases d.portTo v pkg with
  | none => exact ⟨d.fab, rfl⟩
  | some p => exact ⟨_, rfl⟩

/-! ## RELEASE_RANGE (R307, R308, R309) -/

theorem exec_releaseRange (v : VDev) (s : State) : exec (.releaseRange v) s = .next (after s (takeRequest v.val
    { adRow 0x0230 16 with sel := fun bs => slotOp bs == 0x0230 && !bitAt (fieldLe bs 2 2) 0 } doRelease (work s))) := rfl

theorem exec_releaseRangeForce (v : VDev) (s : State) : exec (.releaseRangeForce v) s = .next (after s (takeRequest v.val
    { adRow 0x0230 16 with sel := fun bs => slotOp bs == 0x0230 && bitAt (fieldLe bs 2 2) 0, flags := 1 } doReleaseForce (work s))) := rfl

theorem exec_releaseComplete (v : VDev) (slot : Fin 32) (s : State) :
    exec (.releaseComplete v slot) s = .next { s with dev := doReleaseComplete v.val slot.val s.dev } := rfl

/-- The started commands of a virtual device that name a byte of a span, each with its queue. -/
def startedNaming (x : Vd) (span : Nat × Nat) : List (Nat × Nat) := x.queues.filterMap fun e => match e.2.cur with
  | some c => if c.started && c.namesSpan span then some (e.1, c.no) else none
  | none => none

section
variable {r : AdReq} {w : Wk} {a n : Nat} (span : spanOf r.args = some (a, n))
  (within : spanIn (w.dev.vd r.fn).table (fun _ => true) a n = true)
include span within

theorem doRelease_deferred : ∃ fs mv, doRelease r w = (.later (.release a n false (horizonOf (w.dev.vd r.fn)) fs mv), w) := by
  simp only [doRelease, span, within, Bool.not_true, Bool.false_eq_true, if_false]
  exact ⟨_, _, rfl⟩

theorem doReleaseForce_deferred (revoked : spanIn (w.dev.vd r.fn).table (fun e => e.res == 4) a n = true)
    (clear : ∀ q ∈ (w.dev.vd r.fn).queues, q.2.rings.any (rangesMeet (a, n)) = false) :
    doReleaseForce r w = (.later (.release a n true [] ((startedNaming (w.dev.vd r.fn) (a, n)).map Prod.snd) none),
      (startedNaming (w.dev.vd r.fn) (a, n)).foldl (fun w c => killStarted r.fn c.1 4 w) w) := by
  have noRing : ((w.dev.vd r.fn).queues.any fun q => q.2.rings.any (rangesMeet (a, n))) = false := by
    rw [List.any_eq_false]
    exact fun q hq => Bool.eq_false_iff.mp (clear q hq)
  simp only [doReleaseForce, span, within, revoked, noRing, Bool.not_true, Bool.or_self, Bool.false_eq_true, if_false]
  rfl

end

section
variable {v slot a n : Nat} {d : Dev} {t : Taken} {h : List (Nat × Nat)} {fs : List Nat} {mv : Option (BitVec 32)}
  (taken : Tab.get? (d.fn v).taken slot = some t)
include taken

theorem doReleaseComplete_waiting (op : t.op = .release a n false h fs mv) : doReleaseComplete v slot d =
    if releaseHeld d v a n h fs mv then d else adRespond v slot t.tag stOk 0 [] d := by
  simp only [doReleaseComplete, taken, op]

theorem doReleaseComplete_forced (op : t.op = .release a n true h fs mv) : doReleaseComplete v slot d =
    if (d.vd v).queues.any fun q => q.2.cur.any fun c => fs.contains c.no then d else adRespond v slot t.tag stOk 0 [] d := by
  simp only [doReleaseComplete, taken, op]

end

/-! ## The statement -/

/-- Settles O14: each request on a fence is performed, deferred or left at the head of the ring as its row says, and a release waits for
what holds its span. -/
theorem fenceAndReleaseRequests : Obligations.FenceAndReleaseRequests := by
  unfold Obligations.FenceAndReleaseRequests
  refine ⟨?create, ?signal, ?signalCell, ?readCell, ?readFailed, ?readSent, ?readAnswered, ?exportFence, ?importHere, ?importAway, ?revoke,
    ?release, ?force, ?released, ?held, ?forced⟩
  case create =>
    intro s v i bs j k acc slot cell
    obtain ⟨res, body⟩ := doCreateFence_performed (r := headReq v.val i bs) (w := work s) slot cell
    refine gives_of_update (exec_createFence v s) acc body fun fns ns l fw out => ?_
    have live := fenceCreated_cell v.val j k (BitVec.ofNat 64 (fieldLe (headReq v.val i bs).args 0 8)) s.dev
    obtain ⟨use, bound⟩ := fenceCreated_slot v.val j k (BitVec.ofNat 64 (fieldLe (headReq v.val i bs).args 0 8)) s.dev
    exact ⟨congrArg FCell.state live, congrArg FCell.vdev live, congrArg FCell.error live, congrArg FCell.value live,
      congrArg FSlot.ref bound, congrArg FSlot.owned bound, congrArg FSlot.inUse bound⟩
  case signal =>
    intro s v i bs x acc a named may
    exact next_after_of_eq (exec_signalFence v s) (takeRequest_deferred acc
      (doSignalFence_deferred (r := headReq v.val i bs) (w := work s) named may))
  case signalCell =>
    intro s v i bs x k acc a named may href
    refine gives_of_deferred (exec_signalFence v s) acc (doSignalFence_deferred (r := headReq v.val i bs) (w := work s) named may)
      fun fns ns l fw out => ?_
    rw [href]
    exact sendFence_cell ..
  case readCell =>
    intro s v i bs x k acc r named href kept
    have read : readCell k s.dev = ((s.dev.cell k).state, (s.dev.cell k).value.toNat, (s.dev.cell k).error.toNat) := by
      rw [readCell, kept]
      rfl
    have body := doReadFence_of_cell (r := headReq v.val i bs) (w := work s) named href
    rw [show (work s).dev = s.dev from rfl, read] at body
    exact next_after_of_eq (exec_readFence v s) (takeRequest_replied acc body)
  case readFailed =>
    intro s v i bs x acc r named failed
    refine next_after_of_eq (exec_readFence v s) (takeRequest_replied acc ?_)
    cases href : x.ref with
    | cell k => exact doReadFence_of_cell (r := headReq v.val i bs) (w := work s) named href
    | proxy pv ps =>
      rw [href] at failed
      exact doReadFence_of_failed (r := headReq v.val i bs) (w := work s) named href failed
  case readSent =>
    intro s v i pv ps bs x acc named href alive unanswered unsent
    exact next_after_of_eq (exec_readFence v s) (takeRequest_waiting acc
      (doReadFence_of_unsent (r := headReq v.val i bs) (w := work s) named href alive unanswered unsent))
  case readAnswered =>
    intro s v i pv ps state value error bs x rest acc r named href alive answer
    exact next_after_of_eq (exec_readFence v s) (takeRequest_replied acc
      (doReadFence_of_answer (r := headReq v.val i bs) (w := work s) named href alive answer))
  case exportFence =>
    intro s v i bs x acc id rights some_ few named owned alive room total secUp
    obtain ⟨ex, res, body⟩ := doExportFence_performed (r := headReq v.val i bs) (w := work s) rfl rfl some_ few named owned alive room
      total secUp
    exact gives_of_update (exec_exportFence v s) acc body fun fns ns l fw out =>
      ⟨ex, _, Tab.get?_put_same .., rfl, rfl, rfl, rfl, rfl⟩
  case importHere =>
    intro s v i bs y j acc a open_ unblocked inline some_ few held token rights slot tail
    obtain ⟨res, body⟩ := doImportFence_performed (r := headReq v.val i bs) (w := work s) open_ unblocked inline some_ few held token
      rights slot
    have last := lastSlot_of_accepted acc tail
    obtain ⟨fns, l, fw, out, phase, fin, response⟩ := finish_replied_of_last (r := headReq v.val i bs)
      (w := (work s).on fun d => (bindSlot v.val j y.ref false (bitAt (fieldLe a 12 1) 1) 0 0 d).2) ⟨last.head, last.tail⟩ stOk 0 res
    have bound := bindSlot_slot v.val j y.ref false (bitAt (fieldLe a 12 1) 1) 0 0 s.dev
    have ok : fieldLe (responseBytes stOk 0 phase (headReq v.val i bs).tag res) 0 2 = stOk :=
      fieldLe_responseBytes_status (by decide) ..
    have quiet := (congrArg (noteImport v.val s.dev) ((takeRequest_replied acc body).trans fin)).trans
      (noteImport_of_ok acc.head ((congrArg (fieldLe · 0 2) response).trans ok))
    exact gives_of_on (exec_importFence_accepted acc) quiet
      ⟨congrArg FSlot.ref bound, congrArg FSlot.owned bound, congrArg FSlot.inUse bound⟩
  case importAway =>
    intro s v i p bs acc r pkg rights x open_ unblocked named away some_ few number held trained reaches slot tail
    have body := doImportFence_deferred (r := headReq v.val i bs) (w := work s) open_ unblocked rfl rfl named away some_ few number held
      trained reaches slot
    obtain ⟨fab, sent⟩ := importSent_spec v.val i pkg (fieldLe r.args 0 4) (BitVec.ofNat 64 (fieldLe r.args 4 8)) rights s.dev
    have last : LastSlot (importSent v.val i pkg (fieldLe r.args 0 4) (BitVec.ofNat 64 (fieldLe r.args 4 8)) rights s.dev) v.val i := by
      rw [sent]
      exact ⟨(lastSlot_of_accepted acc tail).head, tail⟩
    obtain ⟨fns, l, fw, fin, taken, unanswered⟩ := finish_deferred_of_last (r := headReq v.val i bs) (w := (work s).on
      (importSent v.val i pkg (fieldLe r.args 0 4) (BitVec.ofNat 64 (fieldLe r.args 4 8)) rights)) last (.importFence pkg rights)
    have quiet := (congrArg (noteImport v.val s.dev) ((takeRequest_deferred acc body).trans fin)).trans
      (noteImport_of_unanswered acc.head (unanswered.trans (congrArg (fun d => (d.fn v.val).respUsed) sent :)))
    exact gives_of_on (exec_importFence_accepted acc) quiet ⟨(congrArg Dev.out sent :), _, taken, rfl, rfl⟩
  case revoke =>
    intro s v i bs y acc ex held own
    exact gives_of_update (exec_revokeExport v s) acc (doRevoke_performed (r := headReq v.val i bs) (w := work s) rfl held own)
      fun fns ns l fw out => ⟨rfl, rfl⟩
  case release =>
    intro s v i bs a n acc span within tail
    obtain ⟨fs, mv, body⟩ := doRelease_deferred (r := headReq v.val i bs) (w := work s) span within
    obtain ⟨fns, l, fw, fin, taken, -⟩ := finish_deferred_of_last (r := headReq v.val i bs) (w := work s) (lastSlot_of_accepted acc tail)
      (.release a n false (horizonOf (s.dev.vd v.val)) fs mv)
    exact gives_of_on (exec_releaseRange v s) ((takeRequest_deferred acc body).trans fin) ⟨_, fs, mv, taken, rfl, rfl⟩
  case force =>
    intro s v i bs a n acc span within revoked clear
    exact next_after_of_eq (exec_releaseRangeForce v s) (takeRequest_deferred acc
      (doReleaseForce_deferred (r := headReq v.val i bs) (w := work s) span within revoked clear))
  case released =>
    intro s v slot t a n h fs mv taken op free
    exact gives_of_next (exec_releaseComplete v slot s) ((doReleaseComplete_waiting taken op).trans (by rw [free]; rfl)) rfl
  case held =>
    intro s v slot t a n h fs mv taken op held
    rw [exec_releaseComplete, doReleaseComplete_waiting taken op, if_pos held]
  case forced =>
    intro s v slot t a n h killed mv taken op
    exact gives_of_next (exec_releaseComplete v slot s) (doReleaseComplete_forced taken op) rfl

end Sys2Proof.Machine
end

section
/-! COMPOSE (R322 … R325, R337, R338): the change of a composition, its publication, and the units that leave. -/

namespace Sys2Proof.Machine

open Sys2Proof

/-! ## Publication (R325, R338) -/

/-- Shadows dropped on the cores of a list leave the publications and the units that leave as they were. -/
theorem foldl_dropShadow_published (l : List (UnitKind × Nat)) (d : Dev) :
    (l.foldl (fun d u => dropShadow u.2 d) d).sched.publish = d.sched.publish ∧
    (l.foldl (fun d u => dropShadow u.2 d) d).sched.leaving = d.sched.leaving := by
  have kept (n : Nat) (d : Dev) : (dropShadow n d).sched.publish = d.sched.publish ∧ (dropShadow n d).sched.leaving = d.sched.leaving := by
    unfold dropShadow
    split <;> exact ⟨rfl, rfl⟩
  exact ⟨foldl_keeps (fun d : Dev => d.sched.publish) (fun d u => (kept u.2 d).1) l d,
    foldl_keeps (fun d : Dev => d.sched.leaving) (fun d u => (kept u.2 d).2) l d⟩

section
variable (v : Nat) (old : Vd) (leave : List (UnitKind × Nat)) (retiring : Bool) (copies : List (Nat × Nat)) (d : Dev)

/-- A map is published to the endpoints that served a virtual device before or serve it now, and its units leave. -/
def mapPublished : Dev :=
  let x := d.vd v
  let ends := (old.endpoints v ++ x.endpoints v).eraseDups
  d.onSched fun s => { s with
    publish := s.publish ++ [⟨v, x.epoch, ends, [], copies, ⟨old.cores, old.reserve, old.chans, old.ports⟩, none⟩]
    leaving := s.leaving ++ leave.map fun u => ⟨u.1, u.2, v, x.epoch, ends, false, retiring, false⟩ }

/-- What a change accepted leaves when its map is published: the next map, without the shadows of the cores that leave. -/
def mapReady : Dev := (leave.filter fun u => u.1 == .core).foldl (fun d u => dropShadow u.2 d)
  (nextMap v (journal 6 [v, (nextEpoch (d.vd v).epoch).toNat] (keepMaps v d)))

theorem publishChange_eq :
    publishChange v old leave retiring copies d = mapPublished v old leave retiring copies (mapReady v leave d) := rfl

theorem mapReady_vd_epoch : ((mapReady v leave d).vd v).epoch = nextEpoch (d.vd v).epoch := by
  obtain ⟨_, dropped⟩ := foldl_dropShadow_spec (nextMap v (journal 6 [v, (nextEpoch (d.vd v).epoch).toNat] (keepMaps v d)))
    (leave.filter fun u => u.1 == .core)
  rw [mapReady, dropped]
  exact (nextMap_vd_epoch ..).trans (congrArg (fun x : Vd => nextEpoch x.epoch) ((journal_told ..).vd v))

/-- A change accepted adds one publication, whose map nobody has acknowledged, and the units that leave. -/
theorem publishChange_published : ∃ ends, (publishChange v old leave retiring copies d).sched.publish = (keepMaps v d).sched.publish ++
      [⟨v, nextEpoch (d.vd v).epoch, ends, [], copies, ⟨old.cores, old.reserve, old.chans, old.ports⟩, none⟩] ∧
    (publishChange v old leave retiring copies d).sched.leaving = d.sched.leaving ++
      leave.map fun u => ⟨u.1, u.2, v, nextEpoch (d.vd v).epoch, ends, false, retiring, false⟩ := by
  obtain ⟨published, leaving⟩ := foldl_dropShadow_published (leave.filter fun u => u.1 == .core)
    (nextMap v (journal 6 [v, (nextEpoch (d.vd v).epoch).toNat] (keepMaps v d)))
  have journaled : (nextMap v (journal 6 [v, (nextEpoch (d.vd v).epoch).toNat] (keepMaps v d))).sched = (keepMaps v d).sched :=
    (journal_told ..).sched
  rw [publishChange_eq, ← mapReady_vd_epoch v leave d]
  exact ⟨_, congrArg (· ++ _) (published.trans (congrArg Sched.publish journaled)),
    congrArg (· ++ _) (leaving.trans (congrArg Sched.leaving journaled :))⟩

/-- The virtual device of a change accepted keeps its units under the next epoch. -/
theorem publishChange_vd_same : ∃ ps ctr, (publishChange v old leave retiring copies d).vd v = { d.vd v with
    epoch := nextEpoch (d.vd v).epoch
    parts := ps
    ctr := ctr } := by
  obtain ⟨_, _, _, h⟩ := publishChange_spec v d old leave retiring copies
  have next : (nextMap v d).vd v = _ := rebuildLists_vd_same ..
  rw [Dev.vd_onVd_same] at next
  rw [h]
  exact ⟨_, _, next⟩

theorem publishChange_vd_ne {u : Nat} (hu : u ≠ v) : (publishChange v old leave retiring copies d).vd u = d.vd u := by
  obtain ⟨_, _, _, h⟩ := publishChange_spec v d old leave retiring copies
  have next : (nextMap v d).vd u = d.vd u := (Dev.vd_onVd_ne _ _ hu).trans (Dev.vd_onVd_ne _ _ hu)
  rw [h]
  exact next

/-! ## LC reserves (R329) -/

theorem lowerReserves_vd_same : ∃ ps, (lowerReserves v d).vd v = { d.vd v with parts := ps } := by
  unfold lowerReserves
  dsimp only
  split
  · exact ⟨_, ((compositionChanged_told ..).vd v).trans (Dev.vd_onVd_same ..)⟩
  · exact ⟨_, Dev.vd_onVd_same ..⟩

theorem lowerReserves_vd_ne {u : Nat} (hu : u ≠ v) : (lowerReserves v d).vd u = d.vd u := by
  unfold lowerReserves
  dsimp only
  split
  · exact ((compositionChanged_told ..).vd u).trans (Dev.vd_onVd_ne _ _ hu)
  · exact Dev.vd_onVd_ne _ _ hu

end

/-! ## The change (R322, R324) -/

/-- The units that a change releases, as the sluice takes them. -/
def Change.released (c : Change) : List (UnitKind × Nat) :=
  (c.outCores ++ c.outReserve).map (fun n => (UnitKind.core, n)) ++ c.outChans.map (fun n => (UnitKind.chan, n)) ++
    c.outPorts.map fun n => (UnitKind.port, n)

/-- The device `e` is `d` with the units of a change bound and released, before its map is published. -/
structure Rebound (v : Nat) (r : Req) (c : Change) (d e : Dev) : Prop where
  cores : (e.vd v).cores = ((d.vd v).cores.filter fun n => !c.outCores.contains n) ++ c.inCores
  chans : (e.vd v).chans = ((d.vd v).chans.filter fun k => !c.outChans.contains k) ++ c.inChans
  ports : (e.vd v).ports = BitVec.ofNat 16 r.ports
  queueGrant : (e.vd v).queueGrant = r.queues
  epoch : (e.vd v).epoch = (d.vd v).epoch
  others : ∀ u, u ≠ v → e.vd u = d.vd u
  sets : e.mc.sets = d.mc.sets
  sched : e.sched = d.sched

/-- Channels paired with the ones that their data must be copied to. -/
def pairChans (l : List (Nat × Nat)) (d : Dev) : Dev := l.foldl (fun d p => d.onChan p.1 fun k =>
  { k with
    target := some p.2
    copied := false }) d

/-- Pairing channels for their copies changes channels alone. -/
theorem pairChans_spec (l : List (Nat × Nat)) (d : Dev) : ∃ chans, pairChans l d = { d with mc := { d.mc with chans := chans } } := by
  refine List.foldlRecOn l _ (motive := fun e : Dev => ∃ chans, e = { d with mc := { d.mc with chans := chans } }) ⟨_, rfl⟩ ?_
  rintro _ ⟨_, rfl⟩ p -
  exact ⟨_, rfl⟩

theorem Rebound.paired {v : Nat} {r : Req} {c : Change} {d e : Dev} (h : Rebound v r c d e) (l : List (Nat × Nat)) :
    Rebound v r c d (pairChans l e) := by
  obtain ⟨_, paired⟩ := pairChans_spec l e
  rw [paired]
  exact ⟨h.cores, h.chans, h.ports, h.queueGrant, h.epoch, h.others, h.sets, h.sched⟩

/-- A change binds and releases its units, and publishes the map; LC reserves follow. -/
theorem applyChange_eq (v : Nat) (r : Req) (c : Change) (d : Dev) : ∃ e, Rebound v r c d e ∧
    applyChange v r c d = lowerReserves v (portsMoved v ((c.inPorts ++ c.outPorts).map fun n => (UnitKind.port, n))
      (publishChange v (d.vd v) c.released false c.pairs e)) := by
  refine ⟨_, Rebound.paired ?_ c.pairs, rfl⟩
  exact ⟨congrArg Vd.cores (Dev.vd_onVd_same ..), congrArg Vd.chans (Dev.vd_onVd_same ..), congrArg Vd.ports (Dev.vd_onVd_same ..),
    congrArg Vd.queueGrant (Dev.vd_onVd_same ..), (congrArg Vd.epoch (Dev.vd_onVd_same ..) :), fun u hu => Dev.vd_onVd_ne _ _ hu, rfl, rfl⟩

section
variable (v : Nat) (r : Req) (c : Change) (d : Dev)

/-- After a change its virtual device has the units of the request under the next epoch. -/
theorem applyChange_vd_same :
    ((applyChange v r c d).vd v).cores = ((d.vd v).cores.filter fun n => !c.outCores.contains n) ++ c.inCores ∧
    ((applyChange v r c d).vd v).chans = ((d.vd v).chans.filter fun k => !c.outChans.contains k) ++ c.inChans ∧
    ((applyChange v r c d).vd v).ports = BitVec.ofNat 16 r.ports ∧ ((applyChange v r c d).vd v).queueGrant = r.queues ∧
    ((applyChange v r c d).vd v).epoch = nextEpoch (d.vd v).epoch := by
  obtain ⟨e, re, applied⟩ := applyChange_eq v r c d
  obtain ⟨_, lowered⟩ := lowerReserves_vd_same v (portsMoved v ((c.inPorts ++ c.outPorts).map fun n => (UnitKind.port, n))
    (publishChange v (d.vd v) c.released false c.pairs e))
  obtain ⟨_, _, published⟩ := publishChange_vd_same v (d.vd v) c.released false c.pairs e
  rw [applied, lowered, (portsMoved_told ..).vd, published]
  exact ⟨re.cores, re.chans, re.ports, re.queueGrant, congrArg nextEpoch re.epoch⟩

theorem applyChange_vd_ne {u : Nat} (hu : u ≠ v) : (applyChange v r c d).vd u = d.vd u := by
  obtain ⟨e, re, applied⟩ := applyChange_eq v r c d
  rw [applied, lowerReserves_vd_ne _ _ hu, (portsMoved_told ..).vd, publishChange_vd_ne _ _ _ _ _ _ hu, re.others u hu]

/-- A change leaves a map to be published, and every unit released is leaving. -/
theorem applyChange_published : ∃ ends, (applyChange v r c d).sched.publish = (keepMaps v d).sched.publish ++
      [⟨v, nextEpoch (d.vd v).epoch, ends, [], c.pairs, ⟨(d.vd v).cores, (d.vd v).reserve, (d.vd v).chans, (d.vd v).ports⟩, none⟩] ∧
    (applyChange v r c d).sched.leaving = d.sched.leaving ++
      c.released.map fun u => ⟨u.1, u.2, v, nextEpoch (d.vd v).epoch, ends, false, false, false⟩ := by
  obtain ⟨e, re, applied⟩ := applyChange_eq v r c d
  obtain ⟨ends, published, leaving⟩ := publishChange_published v (d.vd v) c.released false c.pairs e
  have maps : (keepMaps v e).sched = (keepMaps v d).sched := by
    simp only [keepMaps, Dev.onSched, Dev.setsOf, re.sched, re.sets]
  rw [applied, lowerReserves_sched, (portsMoved_told ..).sched]
  exact ⟨ends, by rw [published, maps, re.epoch], by rw [leaving, re.sched, re.epoch]⟩

theorem applyChange_sluiced {k : UnitKind} {n : Nat} (h : (k, n) ∈ c.released) : (applyChange v r c d).sluiced k n = true := by
  obtain ⟨ends, -, leaving⟩ := applyChange_published v r c d
  rw [Dev.sluiced, leaving, List.any_append, List.any_map, Bool.or_eq_true_iff]
  exact .inr (List.any_eq_true.mpr ⟨(k, n), h, by simp⟩)

end

/-! ## COMPOSE (R323, R504) -/

theorem exec_compose (s : State) : exec .compose s =
    .next (after s ((takeRequest mgr (adRow 0x0301 192) doCompose (work s)).on (announce s.dev))) := rfl

section
variable {a : AdReq} {w : Wk} {r : Req} (hr : ⟨a.args.take 192⟩ = r)
include hr

theorem doCompose_performed (lawful : composeStatus w.dev (w.dev.vd r.vdev) r (changeOf w.dev (w.dev.vd r.vdev) r) = none) :
    doCompose a w = performed [] (w.on (applyChange r.vdev r (changeOf w.dev (w.dev.vd r.vdev) r))) := by
  subst hr
  simp only [doCompose, lawful]

theorem doCompose_refused {st : Nat} (broken : composeStatus w.dev (w.dev.vd r.vdev) r (changeOf w.dev (w.dev.vd r.vdev) r) = some st) :
    doCompose a w = refuse st w := by
  subst hr
  simp only [doCompose, broken]

end

/-- A request that its body refuses is answered, and the work stays as it was. -/
theorem takeRequest_refused {w : Wk} {fn : Nat} {row : AdRow} {i : Nat} {bs : List Byte} (h : Accepted w.dev fn row i bs)
    {body : AdReq → Wk → Ans × Wk} {st : Nat} (hb : body (headReq fn i bs) w = refuse st w) :
    takeRequest fn row body w = finish (headReq fn i bs) (.done st 0 []) w := by
  rw [takeRequest_accepted h, hb]
  exact ite_self _

/-- An accepted request that no rule refuses leaves its change, and what is told of it. -/
theorem exec_compose_lawful {s : State} {i : Nat} {bs : List Byte} {r : Req} (hr : ⟨(headReq mgr i bs).args.take 192⟩ = r)
    (acc : Accepted s.dev mgr (adRow 0x0301 192) i bs)
    (lawful : composeStatus s.dev (s.dev.vd r.vdev) r (changeOf s.dev (s.dev.vd r.vdev) r) = none) : ∃ d : Dev,
    exec .compose s = .next { s with dev := d } ∧
    d.vds = (applyChange r.vdev r (changeOf s.dev (s.dev.vd r.vdev) r) s.dev).vds ∧
    d.sched = (applyChange r.vdev r (changeOf s.dev (s.dev.vd r.vdev) r) s.dev).sched := by
  obtain ⟨fns, ns, l, fw, out, took⟩ := takeRequest_performed (w := work s) acc (doCompose_performed (w := work s) hr lawful)
  have told := announce_told s.dev { applyChange r.vdev r (changeOf s.dev (s.dev.vd r.vdev) r) s.dev with
    fns := fns
    notices := ns
    evcs := l
    fw := fw
    out := out }
  exact ⟨_, by rw [exec_compose, took]; rfl, told.vds, told.sched⟩

/-! ## The statement -/

/-- Settles O32: an accepted COMPOSE applies its change, whose map waits to be published and whose released units are leaving; a refused
one is answered alone. -/
theorem compositionChanges : Obligations.CompositionChanges := by
  unfold Obligations.CompositionChanges
  intro s i bs acc r x c
  refine ⟨fun lawful => ?_, fun st broken => ?_⟩
  · obtain ⟨d, runs, vds, sched⟩ := exec_compose_lawful (r := r) rfl acc lawful
    have vd (v : Nat) : d.vd v = (applyChange r.vdev r c s.dev).vd v := congrArg (Tab.getD · v Vd.reset) vds
    obtain ⟨cores, chans, ports, grant, epoch⟩ := applyChange_vd_same r.vdev r c s.dev
    obtain ⟨ends, published, -⟩ := applyChange_published r.vdev r c s.dev
    have sluiced {k : UnitKind} {n : Nat} (h : (k, n) ∈ c.released) : d.sluiced k n = true :=
      (congrArg (fun x : Sched => x.leaving.any fun u => u.kind == k && u.num == n) sched).trans (applyChange_sluiced _ _ _ _ h)
    refine ⟨d, runs, ?_⟩
    dsimp only
    rw [vd, sched]
    exact ⟨cores, chans, ports, grant, epoch, fun v hv => (vd v).trans (applyChange_vd_ne _ _ _ _ hv), ⟨_, published, rfl, rfl, rfl⟩,
      fun n hn => sluiced (by simp [Change.released, hn]), fun n hn => sluiced (by simp [Change.released, hn])⟩
  · rw [exec_compose, takeRequest_refused (w := work s) acc (doCompose_refused (w := work s) rfl broken)]

end Sys2Proof.Machine
end

section
/-! What dispatch leaves alone (R150, R211, R229, R246, R254): the reads of an engine, shadows, the journal of a hand-off, and the cores of
a partition that a command may take. -/

namespace Sys2Proof

/-- A table's first answer is not changed by writing an entry that has none over one that had none. -/
theorem Tab.findSome?_put_of_none {α β : Type} {p : Nat × α → Option β} {i : Nat} {y : α} (new : p (i, y) = none) :
    {t : Tab α} → (∀ a, Tab.get? t i = some a → p (i, a) = none) → (Tab.put t i y).findSome? p = t.findSome? p
  | [], _ => by simp [Tab.put, new]
  | (k, a) :: t, old => by
    rcases Nat.lt_trichotomy i k with hlt | rfl | hgt
    · simp [Tab.put, hlt, new]
    · simp [Tab.put, new, old a (by simp [Tab.get?])]
    · have ih := Tab.findSome?_put_of_none new (t := t) fun b hb => old b (by simpa [Tab.get?, Nat.ne_of_lt hgt] using hb)
      simp [Tab.put, Nat.not_lt_of_gt hgt, Nat.ne_of_gt hgt, List.findSome?_cons, ih]

end Sys2Proof

namespace Sys2Proof.Machine

open Sys2Proof

/-! ## Reads of an engine (R211, R229, R246, R247) -/

/-- A miss counted changes counters of cores alone. -/
theorem countMiss_spec (e : XEng) (d : Dev) : ∃ cores, countMiss e d = { d with sched := { d.sched with cores := cores } } := by
  cases e with
  | core n => exact ⟨_, rfl⟩
  | mover n => exact ⟨_, rfl⟩
  | _ => exact ⟨d.sched.cores, rfl⟩

theorem useEntry_spec (e : XEng) (c : CEntry) (d : Dev) : ∃ xlt cores, useEntry e c d =
    { d with
      xlt := xlt
      sched := { d.sched with cores := cores } } := by
  unfold useEntry
  split
  · exact ⟨_, d.sched.cores, rfl⟩
  · obtain ⟨cores, missed⟩ := countMiss_spec e d
    rw [missed]
    dsimp only
    split
    · exact ⟨_, cores, rfl⟩
    · exact ⟨_, cores, rfl⟩

/-- A line read at its die changes the memory system alone. -/
theorem readLine_spec (v key a : Nat) (d : Dev) : ∃ mc, readLine v key a d = { d with mc := mc } := by
  unfold readLine cachePut
  dsimp only
  split
  · exact ⟨_, rfl⟩
  · exact ⟨_, rfl⟩

/-- The device `e` is `d` after reads of engines: translation, the memory system, counters of cores and contexts may differ. -/
def ReadFrom (d e : Dev) : Prop := ∃ xlt mc ctxs cores, e =
  { d with
    xlt := xlt
    mc := mc
    ctxs := ctxs
    sched := { d.sched with cores := cores } }

namespace ReadFrom

variable {d e f : Dev}

theorem refl (d : Dev) : ReadFrom d d := ⟨d.xlt, d.mc, d.ctxs, d.sched.cores, rfl⟩

theorem trans (hde : ReadFrom d e) (hef : ReadFrom e f) : ReadFrom d f := by
  obtain ⟨_, _, _, _, rfl⟩ := hde
  obtain ⟨_, _, _, _, rfl⟩ := hef
  exact ⟨_, _, _, _, rfl⟩

theorem foldl {α : Type} {f : Dev → α → Dev} (step : ∀ d a, ReadFrom d (f d a)) (l : List α) (d : Dev) : ReadFrom d (l.foldl f d) :=
  List.foldlRecOn l f (refl d) fun e he a _ => he.trans (step e a)

theorem vds (h : ReadFrom d e) : e.vds = d.vds := by obtain ⟨_, _, _, _, rfl⟩ := h; rfl
theorem fx (h : ReadFrom d e) : e.fx = d.fx := by obtain ⟨_, _, _, _, rfl⟩ := h; rfl
theorem out (h : ReadFrom d e) : e.out = d.out := by obtain ⟨_, _, _, _, rfl⟩ := h; rfl
theorem binaries (h : ReadFrom d e) : e.sched.binaries = d.sched.binaries := by obtain ⟨_, _, _, _, rfl⟩ := h; rfl

end ReadFrom

theorem useXlt_read (e : XEng) (v : Nat) (spans : List (Nat × Nat)) (d : Dev) : ReadFrom d (useXlt e v spans d) := by
  refine .foldl (fun d c => ?_) _ d
  obtain ⟨_, _, used⟩ := useEntry_spec e c d
  exact ⟨_, _, _, _, used⟩

theorem noteRead_read (e : XEng) (v : Nat) (need : Need) (spans : List (Nat × Nat)) (d : Dev) : ReadFrom d (noteRead e v need spans d) := by
  refine (useXlt_read e v spans d).trans (.foldl (fun d l => ?_) _ _)
  obtain ⟨_, read⟩ := readLine_spec v l.2 l.1 d
  exact ⟨_, _, _, _, read⟩

theorem countIo_read (ctx r n : Nat) (d : Dev) : ReadFrom d (countIo ctx r n d) := by
  unfold countIo Dev.onCtx
  split
  · exact ⟨_, _, _, _, rfl⟩
  · exact .refl d

theorem readFor_read (ctx : Nat) (e : XEng) (v : Nat) (need : Need) (spans : List (Nat × Nat)) (d : Dev) :
    ReadFrom d (readFor ctx e v need spans d) :=
  (noteRead_read e v need spans d).trans (countIo_read ..)

/-! ## Events, shadows and the journal (R150, R409) -/

/-- An event of cluster controllers changes the event controllers alone. -/
theorem raiseClusters_spec (i : Nat) (cs : List Nat) (d : Dev) : ∃ l, raiseClusters i cs d = { d with evcs := l } :=
  foldl_raiseSrc_spec (fun c => 2 + c) (fun _ => 0x44 + i) cs d

/-- A core that starts a command changes scheduling state alone. -/
theorem useShadow_spec (no n : Nat) (d : Dev) : ∃ x, useShadow no n d = { d with sched := x } := by
  unfold useShadow
  split
  · exact ⟨d.sched, rfl⟩
  · split
    · exact ⟨_, rfl⟩
    · exact dropShadow_spec n d

/-- A shadow that gives way changes scheduling state alone. -/
theorem shadowFor_spec (no n : Nat) (d : Dev) : ∃ x, shadowFor no n d = { d with sched := x } := by
  unfold shadowFor
  split
  · split
    · exact ⟨d.sched, rfl⟩
    · exact dropShadow_spec n d
  · exact ⟨d.sched, rfl⟩

theorem journalHandoff_told (c : Cmd) (cs : List Nat) (d : Dev) : ToldFrom d (journalHandoff c cs d) :=
  .foldl (fun _ _ => journal_told ..) _ d

theorem dropShadow_busy (n : Nat) (d : Dev) : ((dropShadow n d).core n).busy = (d.core n).busy := by
  unfold dropShadow
  split
  · rfl
  · exact (congrArg Core.busy (Dev.core_onCore_same ..) :)

/-! ## Cores that a command takes (R331) -/

theorem takeCores_vds (no : Nat) (kernel : Bool) (cs : List Nat) (d : Dev) : (takeCores no kernel cs d).vds = d.vds := by
  refine foldl_keeps Dev.vds (fun d n => ?_) cs d
  dsimp only
  split
  · split
    · rfl
    · rw [(dropShadow_spec ..).choose_spec]
      rfl
  · rfl

/-- A core that is taken is busy with the command. -/
theorem takeCores_busy (no : Nat) (kernel : Bool) (n : Nat) (d : Dev) : ((takeCores no kernel [n] d).core n).busy = some no := by
  rw [takeCores, List.foldl_cons, List.foldl_nil]
  dsimp only
  split
  · split
    · exact congrArg Core.busy (Dev.core_onCore_same ..)
    · exact (dropShadow_busy ..).trans (congrArg Core.busy (Dev.core_onCore_same ..))
  · exact congrArg Core.busy (Dev.core_onCore_same ..)

/-- Whether a core may take a command of a virtual device. -/
def takesCmd (d : Dev) (v : Nat) (c : Cmd) (n : Nat) : Bool :=
  !d.joining v n && (d.core n).state == .serviceable && (d.core n).busy.isNone && !d.coreBarred n c.no && !d.sluiced .core n &&
    (match (d.core n).switched with
      | none => true
      | some no => no != c.no && c.joins (d.leftBy n no))

theorem freeFor_eq (d : Dev) (v : Nat) (p : Part) (c : Cmd) (be holder : Bool) : freeFor d v p c be holder =
    (let free := (if be && !holder then p.cores.drop p.lcReserve else p.cores).filter (takesCmd d v c)
     let good := free.filter fun n => !c.avoid.contains n
     if good.isEmpty then free else good) := rfl

section
variable {d e : Dev}

theorem takesCmd_congr (sched : e.sched = d.sched) (dredges : e.dredges = d.dredges) {c : Cmd}
    (left : ∀ n no, no ≠ c.no → e.leftBy n no = d.leftBy n no) (v : Nat) : takesCmd e v c = takesCmd d v c := by
  funext n
  have core : e.core n = d.core n := by rw [Dev.core, Dev.core, sched]
  unfold takesCmd
  simp only [Dev.joining, Dev.coreBarred, Dev.sluiced, core, sched, dredges]
  cases (d.core n).switched with
  | none => rfl
  | some no =>
    by_cases own : no = c.no
    · simp [own]
    · simp only [left n no own]

/-- A change of a virtual device whose queues hold no command of a number leaves the answer for that number. -/
theorem curNo_onVd {v no : Nat} {f : Vd → Vd} (kept : (f (d.vd v)).queues = (d.vd v).queues)
    (absent : ∀ q x c, (q, x) ∈ (d.vd v).queues → x.cur = some c → c.no ≠ no) : (d.onVd v f).curNo no = d.curNo no := by
  have none_ (y : Vd) (hy : y.queues = (d.vd v).queues) :
      (y.queues.findSome? fun q => q.2.cur.bind fun c => if c.no = no then some c else none) = none := by
    rw [hy, List.findSome?_eq_none_iff]
    rintro ⟨q, x⟩ hx
    cases cur : x.cur with
    | none => rfl
    | some c => exact if_neg (absent q x c hx cur)
  refine Tab.findSome?_put_of_none (none_ _ kept) fun y hy => none_ y ?_
  rw [Dev.vd, Tab.getD, hy]
  rfl

theorem leftBy_congr {n no : Nat} (kern : e.kern = d.kern) (cur : e.curNo no = d.curNo no) : e.leftBy n no = d.leftBy n no := by
  rw [Dev.leftBy, Dev.leftBy, kern, cur]

end

end Sys2Proof.Machine
end

section
/-! The scheduler's decision over a partition with one waiting command (R330, R331, R333). -/

namespace Sys2Proof.Machine

open Sys2Proof

theorem exec_dispatchDecision (v : VDev) (p : PartId) (s : State) :
    exec (.dispatchDecision v p) s = .next { s with dev := doDecision v.val p.val s.dev } := rfl

/-- A partition of a virtual device replaced. -/
def partPut (v p : Nat) (part : Part) (d : Dev) : Dev := d.onVd v fun y => { y with parts := Tab.put y.parts p part }

/-- The only queue of a virtual device is latency-critical and runs on a partition that no job holds, and its current command is checked
and waits for cores. -/
structure SoleWaiting (d : Dev) (v p : Nat) (part : Part) (q : Nat) (x : Queue) (c : Cmd) : Prop where
  here : Tab.get? (d.vd v).parts p = some part
  dispatching : d.dispatching v = true
  up : d.schedUp = true
  queues : (d.vd v).queues = [(q, x)]
  runsOn : x.part = p
  critical : x.be = false
  cur : x.cur = some c
  checked : c.phase = .checked
  alive : c.failOut = none
  plain : c.jobStart = false
  unheld : part.holder = none
  calm : d.dredges = []

/-- The partition after a decision over one latency-critical command that starts no job: the turn begins where there was none. -/
def Part.undisturbed (part : Part) (now : BitVec 64) : Part :=
  { (if part.turn.isSome then part else
    { part with
      turn := none
      turnStart := now }) with
    holder := none
    jobBy := 0 }

theorem Part.undisturbed_cores (part : Part) (now : BitVec 64) : (part.undisturbed now).cores = part.cores := by
  unfold Part.undisturbed
  dsimp only
  split <;> rfl

theorem fromTurn_nil (t : Option Nat) : fromTurn [] t = [] := by
  cases t <;> rfl

theorem Cmd.wantsCores_of_checked {c : Cmd} (checked : c.phase = .checked) (alive : c.failOut = none) : c.wantsCores = true := by
  simp [Cmd.wantsCores, checked, alive]

section
variable {d : Dev} {v p : Nat} {part : Part} {q : Nat} {x : Queue} {c : Cmd} (h : SoleWaiting d v p part q x c)
include h

theorem SoleWaiting.wants : x.wants = true := by
  rw [Queue.wants, h.cur]
  exact Cmd.wantsCores_of_checked h.checked h.alive

theorem SoleWaiting.partQueues : (d.vd v).partQueues p = [(q, x)] := by
  simp [Vd.partQueues, h.queues, h.runsOn]

theorem SoleWaiting.ring : beRing (d.vd v) p = [] := by
  simp [beRing, h.partQueues, h.critical, sortBy]

theorem doDecision_of_sole : doDecision v p d =
    placeCmd v q (part.undisturbed (d.hlcOf v)) false (partPut v p (part.undisturbed (d.hlcOf v)) d) := by
  have started : (if part.turn.isSome then part else
      { part with
        turn := none
        turnStart := d.hlcOf v }).holder = none := by
    split <;> exact h.unheld
  simp only [doDecision, h.here, h.dispatching, h.up, h.ring, h.partQueues, List.filter_cons, h.critical, h.wants, List.map_nil,
    List.length_nil, passTurn, fromTurn_nil, List.filter_nil, List.head?_nil, started]
  simp [sortBy, insertBy, h.cur, h.plain, partPut, Part.undisturbed]

end

/-! ## Placement (R154, R330, R331) -/

/-- A change of the current command is what it makes of that command. -/
theorem onCur_congr {d : Dev} {v q : Nat} {c : Cmd} (hc : d.cur? v q = some c) {f g : Cmd → Cmd} (fg : f c = g c) :
    d.onCur v q f = d.onCur v q g := by
  unfold Dev.onCur Dev.onQueue
  split
  next x hx =>
    rw [cur?_of_queue? hx] at hc
    dsimp only
    rw [hc, Option.map_some, Option.map_some, fg]
  next => rfl

theorem dropBinaries_vds (v : Nat) (outs : List (Nat × Nat)) (d : Dev) : (dropBinaries v outs d).vds = d.vds := rfl

theorem dropBinaries_core (v : Nat) (outs : List (Nat × Nat)) (d : Dev) (n : Nat) : (dropBinaries v outs d).core n = d.core n := rfl

theorem workUnitsOf_pos (c : Cmd) : 0 < workUnitsOf c := Nat.le_max_left ..

/-- A command that takes a core of its own: it is placed under its next attempt. -/
def placedOn (v q n : Nat) (c : Cmd) (d : Dev) : Dev := dropBinaries v c.outs (takeCores c.no false [n]
  ((journalHandoff c [n] d).onCur v q fun _ => { c with
    phase := .placed
    attempt := c.attempt + 1
    cores := [n] }))

section
variable {d : Dev} {v q n : Nat} {part : Part} {x : Queue} {c : Cmd} (hx : d.queue? v q = some x) (cur : x.cur = some c)
  (checked : c.phase = .checked) (alive : c.failOut = none) (calm : d.dredges = [])
include hx cur checked alive calm

/-- A command that uses no core is handed over at once. -/
theorem placeCmd_of_coreless (coreless : c.kind = 0) (holder : Bool) : placeCmd v q part holder d =
    dropBinaries v c.outs (d.onCur v q fun c => { c with
      phase := .running
      started := true }) := by
  simp [placeCmd, hx, cur, Dev.dredgeWaits, calm, Cmd.wantsCores_of_checked checked alive, coreless]

/-- A built-in operation that needs no journal takes the one core that is free. -/
theorem placeCmd_of_operation (operation : c.kind = 1) (new : c.cores = []) (unreserved : c.resv = [])
    (free : freeFor d v part c x.be false = [n]) : placeCmd v q part false d = placedOn v q n c d := by
  have one : [n].take (workUnitsOf c) = [n] := List.take_of_length_le (workUnitsOf_pos c)
  have wants := Cmd.wantsCores_of_checked checked alive
  have current : (journalHandoff c [n] d).cur? v q = some c := by
    rw [cur?_congr (journalHandoff_told c [n] d).vds, cur?_of_queue? hx, cur]
  rw [placedOn, onCur_congr current (g := fun c => { c with
    phase := if c.phase == .checked then .placed else c.phase
    attempt := if c.phase == .checked then c.attempt + 1 else c.attempt
    cores := c.cores ++ [n]
    cohorts := if c.kind = 2 then c.cohorts ++ [[n]] else c.cohorts }) (by simp [checked, operation, new])]
  simp [placeCmd, hx, cur, Dev.dredgeWaits, Dev.dredgeCore, aheadOf, Dev.fitsJournal, calm, wants, operation, checked, free, one,
    unreserved]

end

/-! ## What the decision leaves (R330, R331) -/

section
variable {s : State} {v : VDev} {p : PartId} {part : Part} {q : Nat} {x : Queue} {c : Cmd} (h : SoleWaiting s.dev v.val p.val part q x c)
include h

theorem SoleWaiting.queue?_partPut (part' : Part) : (partPut v.val p.val part' s.dev).queue? v.val q = some x := by
  simp [partPut, Dev.queue?, h.queues, Tab.get?]

/-- The cores that the command may take do not depend on the turn of its partition. -/
theorem SoleWaiting.freeFor_partPut {part' : Part} (cores : part'.cores = part.cores) :
    freeFor (partPut v.val p.val part' s.dev) v.val part' c false false = freeFor s.dev v.val part c false false := by
  have left (n no : Nat) (other : no ≠ c.no) : (partPut v.val p.val part' s.dev).leftBy n no = s.dev.leftBy n no := by
    refine leftBy_congr rfl (curNo_onVd rfl fun r y c' listed cur => ?_)
    rw [h.queues, List.mem_singleton, Prod.mk.injEq] at listed
    obtain ⟨-, rfl⟩ := listed
    rw [Option.some.inj (cur.symm.trans h.cur)]
    exact other.symm
  have takes : takesCmd (partPut v.val p.val part' s.dev) v.val c = takesCmd s.dev v.val c :=
    takesCmd_congr (Dev.onVd_sched ..) (Dev.onVd_dredges ..) left _
  simp only [freeFor_eq, Bool.false_and, Bool.false_eq_true, if_false, cores, takes]

/-- A decision hands a command that uses no core over at once. -/
theorem SoleWaiting.gives_handed_over (coreless : c.kind = 0) :
    Gives (.dispatchDecision v p) s fun d => d.cur? v.val q = some { c with
      phase := .running
      started := true } := by
  have queue := h.queue?_partPut (part.undisturbed (s.dev.hlcOf v.val))
  have placed := placeCmd_of_coreless (part := part.undisturbed (s.dev.hlcOf v.val)) queue h.cur h.checked h.alive h.calm coreless false
  refine gives_of_next (exec_dispatchDecision ..) ((doDecision_of_sole h).trans placed) ?_
  rw [cur?_congr (dropBinaries_vds ..), Dev.cur?_onCur_same, cur?_of_queue? queue, h.cur]
  rfl

/-- A decision places an operation on the only core that it may take. -/
theorem SoleWaiting.gives_placed {n : Nat} (operation : c.kind = 1) (new : c.cores = []) (unreserved : c.resv = [])
    (free : freeFor s.dev v.val part c false false = [n]) :
    Gives (.dispatchDecision v p) s fun d => d.cur? v.val q = some { c with
      phase := .placed
      attempt := c.attempt + 1
      cores := [n] } ∧ (d.core n).busy = some c.no := by
  have queue := h.queue?_partPut (part.undisturbed (s.dev.hlcOf v.val))
  have still : freeFor (partPut v.val p.val (part.undisturbed (s.dev.hlcOf v.val)) s.dev) v.val (part.undisturbed (s.dev.hlcOf v.val)) c
      x.be false = [n] := by
    rw [h.critical, h.freeFor_partPut (part.undisturbed_cores _), free]
  have placed := placeCmd_of_operation queue h.cur h.checked h.alive h.calm operation new unreserved still
  refine gives_of_next (exec_dispatchDecision ..) ((doDecision_of_sole h).trans placed) ⟨?_, ?_⟩
  · rw [placedOn, cur?_congr (dropBinaries_vds ..), cur?_congr (takeCores_vds ..), Dev.cur?_onCur_same,
      cur?_congr (journalHandoff_told ..).vds, cur?_of_queue? queue, h.cur]
    rfl
  · rw [placedOn, dropBinaries_core, takeCores_busy]

end

end Sys2Proof.Machine
end

section
/-! Hand-over, binaries and preload (R27, R150, R154, R219, R330, R333): what a cluster control core does with its part of a command. -/

namespace Sys2Proof.Machine

open Sys2Proof

/-! ## BE_SLICE_EXPIRY (R333) -/

theorem exec_beSliceExpiry_of_turn {s : State} {v : VDev} {p : PartId} {part : Part} (here : Tab.get? (s.dev.vd v.val).parts p.val = some part)
    (turn : part.turn.isSome = true) : exec (.beSliceExpiry v p) s =
      .next { s with dev := s.dev.advance (hubOf v.val) (part.turnStart + BitVec.ofNat 64 part.slice) } := by
  have held : part.turn.isNone = false := Option.isNone_eq_false_iff.mpr turn
  have expiry : exec (.beSliceExpiry v p) s = execBeSliceExpiry v p s := rfl
  simp only [expiry, execBeSliceExpiry, runDev, here, held, Bool.false_eq_true, if_false]

/-! ## DISPATCH_HANDOFF (R27, R330) -/

/-- What the read of the inputs to digest meets at its home (R219). -/
def inputRead (v q : Nat) (bad : Option (Nat × ReadFault)) (w : Wk) : Wk := meetRead (hubEng v) v bad
  (curSpans v q (fun c => if c.phase == .placed && c.digestFlag then c.ins else []) w) w

theorem exec_dispatchHandoff (v : VDev) (q : QId) (bad : Option (Nat × ReadFault)) (k : Cluster) (s : State) :
    exec (.dispatchHandoff v ⟨q, bad⟩ k) s = .next (after s (doHandoff v.val q.val k.val (inputRead v.val q.val bad (work s)))) := rfl

theorem exec_dispatchHandoff_good (v : VDev) (q : QId) (k : Cluster) (s : State) :
    exec (.dispatchHandoff v (.good q) k) s = .next (after s (doHandoff v.val q.val k.val (work s))) := rfl

theorem inputRead_of_fault {v q : Nat} {w : Wk} {c : Cmd} (hc : w.dev.cur? v q = some c) (va : Nat) (f : ReadFault) :
    inputRead v q (some (va, f)) w = (if (if c.phase == .placed && c.digestFlag then c.ins else []).any fun r => rangesMeet r (va, 1)
      then meetSpan (.dma (hubOf v)) v [(va, 1)] f w else w) := by
  rw [inputRead, meetRead, curSpans, hc]
  rfl

/-- A cluster has its part of a command: its cores start from their shadows where they hold it. -/
def clusterTook (k : Nat) (c : Cmd) (d : Dev) : Dev :=
  (c.cores.filter fun n => n / 68 == k).foldl (fun d n => useShadow c.no n d) (raiseClusters 0 [k] d)

theorem clusterTook_vds (k : Nat) (c : Cmd) (d : Dev) : (clusterTook k c d).vds = d.vds := by
  refine (foldl_keeps Dev.vds (fun d n => ?_) _ _).trans ?_
  · rw [(useShadow_spec ..).choose_spec]
  · rw [(raiseClusters_spec ..).choose_spec]

/-- A placed command whose cores are all of one cluster, which has no part of it yet, can be handed to it. -/
structure HandsOver (d : Dev) (v q k : Nat) (x : Queue) (c : Cmd) : Prop where
  queue : d.queue? v q = some x
  cur : x.cur = some c
  placed : c.phase = .placed
  need : (c.cores.map (· / 68)).eraseDups = [k]
  first : c.clusters = []
  alive : c.failOut = none
  up : d.schedUp = true
  control : (d.proc (4 + k)).up = true
  image : c.kind = 2 → ((d.binariesOf k).any fun b => b.matches v c) = true

/-- The device from which the input digests were taken. -/
def digestsTaken (v : Nat) (c : Cmd) (d : Dev) : Dev := if c.digestFlag then readFor c.context (hubEng v) v needR c.ins d else d

theorem digestsTaken_vds (v : Nat) (c : Cmd) (d : Dev) : (digestsTaken v c d).vds = d.vds := by
  unfold digestsTaken
  split
  · exact readFor_vds ..
  · rfl

section
variable {w : Wk} {v q k : Nat} {x : Queue} {c : Cmd} (h : HandsOver w.dev v q k x c) {ds : List (List Byte)}
  (digests : (if c.digestFlag then inputDigests w v (sortRanges c.ins) else .ok []) = .ok ds)
include h digests

/-- With its only cluster a command runs, with the digests of its inputs. -/
theorem doHandoff_of_last : doHandoff v q k w = w.on fun d => clusterTook k c ((digestsTaken v c d).onCur v q fun c => { c with
    clusters := [k]
    phase := .running
    started := true
    inDigests := ds }) := by
  have image : (c.kind == 2 && !((w.dev.binariesOf k).any fun b => b.matches v c)) = false := by
    by_cases kernel : c.kind = 2
    · simp [h.image kernel]
    · simp [kernel]
  simp only [doHandoff, h.queue, h.cur, h.placed, h.need, h.first, h.alive, h.up, h.control, image, digests]
  simp [clusterTook, digestsTaken]

end

theorem gives_handed {s : State} {v : VDev} {q : QId} {k : Cluster} {x : Queue} {c : Cmd} (h : HandsOver s.dev v.val q.val k.val x c)
    {ds : List (List Byte)} (digests : (if c.digestFlag then inputDigests (work s) v.val (sortRanges c.ins) else .ok []) = .ok ds) :
    Gives (.dispatchHandoff v (.good q) k) s fun d => d.cur? v.val q.val = some { c with
      clusters := [k.val]
      phase := .running
      started := true
      inDigests := ds } := by
  refine gives_of_on (exec_dispatchHandoff_good ..) (doHandoff_of_last (w := work s) h digests) ?_
  rw [cur?_congr (clusterTook_vds ..), Dev.cur?_onCur_same, cur?_congr (digestsTaken_vds ..)]
  exact congrArg (Option.map _) ((cur?_of_queue? h.queue).trans h.cur)

/-! ## BINARY_LOAD (R152 … R154) -/

/-- What the read of a kernel's image meets at its home (R219). -/
def imageRead (v q k : Nat) (bad : Option (Nat × ReadFault)) (w : Wk) : Wk := meetRead (.ctl k) v bad
  (curSpans v q (fun c => [(klImage c.params, hdrLen c.hdr)]) w) w

theorem exec_binaryLoad (v : VDev) (q : QId) (bad : Option (Nat × ReadFault)) (k : Cluster) (s : State) :
    exec (.binaryLoad v ⟨q, bad⟩ k) s = .next (after s (doBinaryLoad v.val q.val k.val (imageRead v.val q.val k.val bad (work s)))) := rfl

theorem exec_binaryLoad_good (v : VDev) (q : QId) (k : Cluster) (s : State) :
    exec (.binaryLoad v (.good q) k) s = .next (after s (doBinaryLoad v.val q.val k.val (work s))) := rfl

theorem imageRead_of_fault {v q k : Nat} {w : Wk} {c : Cmd} (hc : w.dev.cur? v q = some c) (va : Nat) (f : ReadFault) :
    imageRead v q k (some (va, f)) w =
      (if rangesMeet (klImage c.params, hdrLen c.hdr) (va, 1) then meetSpan (.ctl k) v [(va, 1)] f w else w) := by
  simp [imageRead, meetRead, curSpans, hc]

/-- The header and the image of a kernel as a cluster reads and checks them (R153). -/
def imageChecked (k v : Nat) (c : Cmd) (w : Wk) : Except Stop (List Byte × List Byte) := do
  let h ← readBy (.ctl k) w v needX (klImage c.params) 128
  if c.acl < fieldLe h 6 2 then .error (aclStop c.acl (fieldLe h 6 2)) else .ok ()
  rules 0x0B (klImage c.params) (hdrRules h)
  let img ← readBy (.ctl k) w v needX (klImage c.params) (hdrLen h)
  rules 0x0B (klImage c.params) (imageRules c.params h img)
  return (h, img)

section
variable {k v : Nat} {c : Cmd} {w : Wk} {hd img : List Byte} (header : readBy (.ctl k) w v needX (klImage c.params) 128 = .ok hd)
include header

theorem imageChecked_of_level (level : c.acl < fieldLe hd 6 2) : imageChecked k v c w = .error (aclStop c.acl (fieldLe hd 6 2)) := by
  simp only [imageChecked, header, bind, Except.bind, level, if_true]

theorem imageChecked_of_read (level : fieldLe hd 6 2 ≤ c.acl) (lawful : rules 0x0B (klImage c.params) (hdrRules hd) = .ok ())
    (read : readBy (.ctl k) w v needX (klImage c.params) (hdrLen hd) = .ok img) :
    imageChecked k v c w = (rules 0x0B (klImage c.params) (imageRules c.params hd img)).map fun _ => (hd, img) := by
  simp only [imageChecked, header, bind, Except.bind, Nat.not_lt.mpr level, if_false, lawful, read, Except.map]
  rfl

end

/-- A placed kernel has a core of a cluster whose control core runs and holds no image. -/
structure Unloaded (d : Dev) (v q k : Nat) (x : Queue) (c : Cmd) : Prop where
  queue : d.queue? v q = some x
  cur : x.cur = some c
  kernel : c.kind = 2
  placed : c.phase = .placed
  here : (c.cores.any fun n => n / 68 == k) = true
  control : (d.proc (4 + k)).up = true
  empty : d.binariesOf k = []

/-- The image of a kernel as a cluster keeps it in its on-die store. -/
def keptImage (v : Nat) (c : Cmd) (hd img : List Byte) : Binary := ⟨v, klImage c.params, sliceB hd 0x40 32, img.length, sha3_256 img,
  Config.coreCodeMatrix (sliceB img (fieldLe hd 0x10 4) (fieldLe hd 0x14 4)), false⟩

/-- What a cluster knows an image by (R154). -/
theorem keptImage_keys (v : Nat) (c : Cmd) (hd img : List Byte) : (keptImage v c hd img).vdev = v ∧
    (keptImage v c hd img).start = klImage c.params ∧ (keptImage v c hd img).digest = sliceB hd 0x40 32 ∧
    (keptImage v c hd img).image = sha3_256 img := by
  rw [keptImage]
  exact ⟨rfl, rfl, rfl, rfl⟩

/-- An image is the only one of its cluster, and its command has its header and code. -/
def imageKept (v q k : Nat) (c : Cmd) (hd img : List Byte) (d : Dev) : Dev :=
  readFor c.context (.ctl k) v needX [(klImage c.params, img.length)] (dropHostBuf v
    ((d.onSched fun s => { s with binaries := Tab.put s.binaries k [keptImage v c hd img] }).onCur v q fun c => { c with
      hdr := hd
      code := (keptImage v c hd img).image
      matrix := (keptImage v c hd img).matrix }))

theorem onCur_sched (d : Dev) (v q : Nat) (f : Cmd → Cmd) : (d.onCur v q f).sched = d.sched :=
  (congrArg Dev.sched (onCur_frame d v q f) :)

theorem onCur_out (d : Dev) (v q : Nat) (f : Cmd → Cmd) : (d.onCur v q f).out = d.out :=
  (congrArg Dev.out (onCur_frame d v q f) :)

theorem dropHostBuf_sched (v : Nat) (d : Dev) : (dropHostBuf v d).sched = d.sched := rfl

theorem dropHostBuf_out (v : Nat) (d : Dev) : (dropHostBuf v d).out = d.out := rfl

theorem imageKept_binariesOf (v q k : Nat) (c : Cmd) (hd img : List Byte) (d : Dev) :
    (imageKept v q k c hd img d).binariesOf k = [keptImage v c hd img] := by
  rw [Dev.binariesOf, imageKept, (readFor_read ..).binaries, dropHostBuf_sched, onCur_sched]
  exact Tab.getD_put_same ..

theorem imageKept_out (v q k : Nat) (c : Cmd) (hd img : List Byte) (d : Dev) : (imageKept v q k c hd img d).out = d.out := by
  rw [imageKept, (readFor_read ..).out, dropHostBuf_out, onCur_out, Dev.onSched_out]

/-- An image that the empty on-die store of a cluster can hold is put there. -/
theorem placeImage_empty {len : Nat} (fits : len ≤ storeRoom false) (d : Dev) (k : Nat) : placeImage d k len [] = some (false, []) := by
  simp [placeImage, evict, fitsStore, storeUsed, fits]

section
variable {w : Wk} {v q k : Nat} {x : Queue} {c : Cmd} (h : Unloaded w.dev v q k x c)
include h

theorem Unloaded.loads : (decide (c.kind ≠ 2) || !(c.phase == .placed || c.phase == .running) || !(c.cores.any fun n => n / 68 == k) ||
    !(w.dev.proc (4 + k)).up || (w.dev.binariesOf k).any (fun b => b.matches v c)) = false := by
  simp [h.kernel, h.placed, h.here, h.control, h.empty]

theorem doBinaryLoad_of_stopped {e : Stop} (stopped : imageChecked k v c (w.on (raiseClusters 4 [k])) = .error e) :
    doBinaryLoad v q k w = stopCmd (.ctl k) v q x c e (w.on (raiseClusters 4 [k])) := by
  unfold doBinaryLoad
  rw [h.queue]
  dsimp only
  rw [h.cur]
  dsimp only
  rw [if_neg (Bool.eq_false_iff.mp h.loads)]
  split
  next e' he => rw [Except.error.inj (he.symm.trans stopped)]
  next he => exact absurd (he.symm.trans stopped) (by simp)

theorem doBinaryLoad_of_checked {hd img : List Byte} (checked : imageChecked k v c (w.on (raiseClusters 4 [k])) = .ok (hd, img))
    (fits : img.length ≤ storeRoom false) :
    doBinaryLoad v q k w = (w.on (raiseClusters 4 [k])).on (imageKept v q k c hd img) := by
  have empty : (w.on (raiseClusters 4 [k])).dev.binariesOf k = [] := h.empty
  unfold doBinaryLoad
  rw [h.queue]
  dsimp only
  rw [h.cur]
  dsimp only
  rw [if_neg (Bool.eq_false_iff.mp h.loads)]
  split
  next he => exact absurd (he.symm.trans checked) (by simp)
  next he =>
    obtain ⟨rfl, rfl⟩ := Prod.mk.inj (Except.ok.inj (he.symm.trans checked))
    rw [empty, placeImage_empty fits]
    rfl

end

/-! ## PRELOAD (R150, R151) -/

theorem exec_preload (v : VDev) (q : QId) (n : CoreId) (s : State) :
    exec (.preload v q ⟨n, none⟩) s = .next (after s (doPreload v.val q.val n.val (work s))) := rfl

theorem exec_preload_bad (v : VDev) (q : QId) (n : CoreId) (m : CoreMem) (s : State) :
    exec (.preload v q ⟨n, some m⟩) s = .next { s with dev := shadowError n.val s.dev } := rfl

/-- A shadow put on a core in place of that of another command, after what its control core has read for it. -/
def shadowPut (n v : Nat) (c : Cmd) (code params : List (Nat × Nat)) (sh : Shadow) (d : Dev) : Dev :=
  (shadowFor c.no n (readFor c.context (.ctl (n / 68)) v needX code (readFor c.context (.ctl (n / 68)) v needR params d))).onSched fun s =>
    { s with shadows := Tab.put s.shadows n sh }

section
variable (n v : Nat) (c : Cmd) (code params : List (Nat × Nat)) (sh : Shadow) (d : Dev)

theorem shadowPut_shadow : Tab.get? (shadowPut n v c code params sh d).sched.shadows n = some sh := Tab.get?_put_same ..

theorem shadowPut_kept : (shadowPut n v c code params sh d).vds = d.vds ∧ (shadowPut n v c code params sh d).fx = d.fx := by
  have read := (readFor_read c.context (.ctl (n / 68)) v needR params d).trans (readFor_read c.context (.ctl (n / 68)) v needX code _)
  obtain ⟨_, gave⟩ := shadowFor_spec c.no n (readFor c.context (.ctl (n / 68)) v needX code (readFor c.context (.ctl (n / 68)) v needR params d))
  rw [shadowPut, gave]
  exact ⟨read.vds, read.fx⟩

end

/-- The shadow of a busy core of the virtual device takes the state of the command that its queue runs next. -/
theorem doPreload_of_busy {w : Wk} {v q n m : Nat} {x : Queue} {c : Cmd} (queue : w.dev.queue? v q = some x) (next : x.nextCmd = some c)
    (control : (w.dev.proc (4 + n / 68)).up = true) (busy : (w.dev.core n).busy = some m) (other : m ≠ c.no)
    (bound : (w.dev.vd v).cores.contains n = true) (stays : w.dev.sluiced .core n = false) : ∃ code params sh,
    sh.cmd = c.no ∧ sh.desc = c.desc ∧ sh.gen = (w.dev.vd v).gen ∧
      doPreload v q n w = { w with dev := shadowPut n v c code params sh w.dev } := by
  have free : (!(w.dev.proc (4 + n / 68)).up || (w.dev.core n).busy.isNone || (w.dev.core n).busy == some c.no ||
      !(w.dev.vd v).cores.contains n || w.dev.sluiced .core n) = false := by
    rw [control, busy, bound, stays]
    simp [other]
  unfold doPreload
  rw [queue]
  dsimp only
  rw [next]
  dsimp only
  rw [if_neg (Bool.eq_false_iff.mp free)]
  rcases preloadBytes (.ctl (n / 68)) w v c with ⟨p, hd, cs, key⟩
  exact ⟨_, _, ⟨c.no, (w.dev.vd v).gen, c.desc, p, hd, cs, _, key⟩, rfl, rfl, rfl, rfl⟩

/-! ## The statement -/

/-- Settles O17: decisions hand over and place commands, clusters take their parts and images, a busy core preloads, and reads meet bad
lines at their homes. -/
theorem dispatchCommands : Obligations.DispatchCommands := by
  unfold Obligations.DispatchCommands
  refine ⟨?coreless, ?placed, ?slice, ?handed, ?digested, ?loaded, ?understated, ?preloaded, ?shadowBad, ?noShadow, ?faults⟩
  case coreless =>
    intro s v p part q x c here dispatching up queues runsOn critical cur checked kind alive plain unheld calm
    exact SoleWaiting.gives_handed_over ⟨here, dispatching, up, queues, runsOn, critical, cur, checked, alive, plain, unheld, calm⟩ kind
  case placed =>
    intro s v p part q n x c here dispatching up queues runsOn critical cur checked kind alive plain new unreserved unheld calm _ free
    exact SoleWaiting.gives_placed ⟨here, dispatching, up, queues, runsOn, critical, cur, checked, alive, plain, unheld, calm⟩ kind new
      unreserved free
  case slice =>
    intro s v p part here turn
    exact ⟨_, exec_beSliceExpiry_of_turn here turn, rfl⟩
  case handed =>
    intro s v q k x c queue cur placed need first alive up control noDigest image
    exact gives_handed ⟨queue, cur, placed, need, first, alive, up, control, image⟩ (by simp [noDigest])
  case digested =>
    intro s v q k x c ds queue cur placed need first alive up control digest taken image
    exact gives_handed ⟨queue, cur, placed, need, first, alive, up, control, image⟩ (by simp [digest, taken])
  case loaded =>
    intro s v q k x c hd img queue cur kernel placed here control empty at_ ctl w header level lawful read fits
    have unloaded : Unloaded (work s).dev v.val q.val k.val x c := ⟨queue, cur, kernel, placed, here, control, empty⟩
    have checked := imageChecked_of_read header level lawful read
    split
    next e broken =>
      rw [broken] at checked
      exact next_after_of_eq (exec_binaryLoad_good ..) (doBinaryLoad_of_stopped unloaded checked)
    next good =>
      rw [good] at checked
      refine gives_of_on (exec_binaryLoad_good ..) (doBinaryLoad_of_checked unloaded checked fits)
        ⟨_, imageKept_binariesOf .., ?_⟩
      obtain ⟨vdev, start, digest, image⟩ := keptImage_keys v.val c hd img
      exact ⟨vdev, start, digest, image, imageKept_out ..⟩
  case understated =>
    intro s v q k x c hd queue cur kernel placed here control empty w header level
    exact next_after_of_eq (exec_binaryLoad_good ..) (doBinaryLoad_of_stopped (w := work s)
      ⟨queue, cur, kernel, placed, here, control, empty⟩ (imageChecked_of_level header level))
  case preloaded =>
    rintro s v q n x c queue next control ⟨m, busy, other⟩ bound stays
    obtain ⟨code, params, sh, cmd, desc, gen, preloads⟩ := doPreload_of_busy (w := work s) queue next control busy other bound stays
    have shadow := shadowPut_shadow n.val v.val c code params sh s.dev
    have kept := shadowPut_kept n.val v.val c code params sh s.dev
    exact ⟨_, by rw [exec_preload, preloads]; rfl, sh, shadow, cmd, desc, gen, kept⟩
  case shadowBad =>
    intro s v q n m h here
    exact gives_of_next (exec_preload_bad ..) (by rw [shadowError, here]; rfl) rfl
  case noShadow =>
    intro s v q n m none_
    rw [exec_preload_bad, shadowError, none_]
    rfl
  case faults =>
    intro s v q k c va f hc
    exact ⟨next_after_of_eq (exec_dispatchHandoff ..) (congrArg (doHandoff v.val q.val k.val) (inputRead_of_fault (w := work s) hc va f)),
      next_after_of_eq (exec_binaryLoad ..) (congrArg (doBinaryLoad v.val q.val k.val) (imageRead_of_fault (w := work s) hc va f))⟩

end Sys2Proof.Machine
end

section
/-! The step of the block and its state at reset (R444, R473, R495). -/

namespace Sys2Proof.Machine

open Sys2Proof

/-- Settles O1: the queue is a list, and a step takes its head. -/
theorem stepRunsFront : Obligations.StepRunsFront := fun _ _ _ => rfl

/-- Settles O3: a command is one piece of work on the device and the memory, which leaves the queue as it is. -/
theorem everyCommandAnswers : Obligations.EveryCommandAnswers := by
  intro c s
  obtain ⟨d, log, hd⟩ := exec_next c s
  exact ⟨_, hd, rfl⟩

/-- Settles O5: the reset state is given by its fields, and an empty table answers the default. -/
theorem resetState : Obligations.ResetState :=
  ⟨rfl, rfl, rfl, rfl, rfl, rfl, rfl, rfl, rfl, rfl, fun _ => rfl, fun _ => rfl, fun _ => rfl, fun _ => rfl⟩

end Sys2Proof.Machine
end

section
/-! Requests to the security core (R462): what each of them does to the device once it is served. -/

namespace Sys2Proof.Machine

open Sys2Proof

/-- A request to the security core reaches it on its transport, and is served as one that has waited is. -/
theorem exec_secRequest {i : Instr} {t : Transport} (h : secTransport i = some t) (s : State) :
    exec i s = .next { s with dev := secRequest t i (serveWaiting i) s.dev } := by
  cases i with
  | getVersion | getCapabilities | negotiateAlgorithms | getDigests | getCertificate | challenge | getMeasurements | keyExchange | finish
  | keyUpdate | heartbeat | endSession | ideKm | getTdispVersion | getTdispCapabilities | lockInterfaceRequest | startInterfaceRequest
  | stopInterfaceRequest | getDeviceInterfaceReport | getDeviceInterfaceState | generate | importKey | erase | listKeys =>
    cases h
    rfl
  | _ => cases h

section

variable {i : Instr} {t : Transport} {f : Dev → Dev} {d : Dev}

theorem secRequest_of_absent (absent : d.hasTransport t = false) : secRequest t i f d = d := by
  rw [secRequest, absent]
  rfl

variable (here : d.hasTransport t = true)
include here

theorem secRequest_of_down (down : d.secUp = false) :
    secRequest t i f d = (raiseSrc 0 0x154 d).onSec fun s => { s with waiting := s.waiting ++ [i] } := by
  have stays : (raiseSrc 0 0x154 d).secUp = false := down
  simp [secRequest, here, stays]

theorem secRequest_of_up (up : d.secUp = true) : secRequest t i f d = f (raiseSrc 0 0x154 d) := by
  have stays : (raiseSrc 0 0x154 d).secUp = true := up
  simp [secRequest, here, stays]

end

/-- Settles O55: a request on a transport that is there raises its source, and is served or waits as the core is up or down. -/
theorem securityRequests : Obligations.SecurityRequests := by
  refine ⟨?absent, ?down, ?up⟩
  case absent =>
    intro s i t reaches absent
    exact ⟨_, exec_secRequest reaches s, secRequest_of_absent absent⟩
  case down =>
    intro s i t reaches here down
    exact gives_of_next (exec_secRequest reaches s) (secRequest_of_down here down) ⟨rfl, rfl⟩
  case up =>
    intro s i t reaches here up
    exact ⟨_, exec_secRequest reaches s, secRequest_of_up here up⟩

/-- The same device with other event controllers, as a source that fires leaves it. -/
def Dev.withEvcs (d : Dev) (l : Tab Evc) : Dev := { d with evcs := l }

/-- What a served request leaves, whatever the event controllers hold. -/
theorem served_of_serveWaiting {i : Instr} {s : State} {P : Dev → Prop} (h : ∀ l, P (serveWaiting i (s.dev.withEvcs l))) :
    Served i s P := by
  intro t reaches here up
  exact ⟨_, exec_secRequest reaches s, by rw [secRequest_of_up here up]; exact h _⟩

/-- A request that is only answered changes nothing but what leaves. -/
theorem served_of_emit {i : Instr} {s : State} {o : Output} (h : ∀ l, serveWaiting i (s.dev.withEvcs l) = (s.dev.withEvcs l).emit o) :
    Served i s fun d => d.sec = s.dev.sec ∧ d.out = s.dev.out ++ [o] :=
  served_of_serveWaiting fun l => by
    rw [h l]
    exact ⟨rfl, rfl⟩

end Sys2Proof.Machine
end

section
/-! Key operations (R467 … R470, Table 19-3). -/

namespace Sys2Proof.Machine

open Sys2Proof

/-- A refused operation says so and leaves every slot as it is, whether the misuse alarm rises or not (source 0x0C). -/
theorem refuseKey_spec (v : Nat) (tag : BitVec 32) (status : Nat) (d : Dev) :
    (refuseKey v tag status d).out = d.out ++ [.key v tag status []] ∧ (refuseKey v tag status d).mc = d.mc := by
  unfold refuseKey
  simp only
  split <;> exact ⟨rfl, rfl⟩

section

variable {v : Nat} {t : Transport} {tag : BitVec 32} {f : Dev → Dev} {d : Dev}

theorem keyOp_of_unsecured (h : d.secured t = false) : keyOp v t tag f d = d.emit (.spdm t (.error false)) := by
  simp [keyOp, h]

theorem keyOp_of_quarantine (h : d.secured t = true) (level : d.sec.level = 2) : keyOp v t tag f d = refuseKey v tag 5 d := by
  simp [keyOp, h, level]

theorem keyOp_of_secured (h : d.secured t = true) (level : d.sec.level ≠ 2) : keyOp v t tag f d = f d := by
  simp [keyOp, h, level]

end

/-- A key operation is a request whose service is `keyOp` of something. -/
theorem serveWaiting_keyOp {v : VDev} {tag : BitVec 32} {bs : List Byte} {slot : BitVec 16} {i : Instr}
    (h : i ∈ [Instr.generate v tag, .importKey v tag bs, .erase v tag slot, .listKeys v tag]) :
    ∃ f, serveWaiting i = keyOp v.val (vfDoe v) tag f := by
  simp only [List.mem_cons, List.not_mem_nil, or_false] at h
  rcases h with rfl | rfl | rfl | rfl
  · exact ⟨doGenerate v.val tag, rfl⟩
  · exact ⟨doImportKey v.val tag bs, rfl⟩
  · exact ⟨doErase v.val tag slot.toNat, rfl⟩
  · exact ⟨doListKeys v.val tag, rfl⟩

section

variable {v : Nat} {tag : BitVec 32} {k : Dev → KeyId × Dev} {d : Dev}

theorem loadSlot_of_room {i : Nat} {key : KeyId} {e : Dev} (made : k d = (key, e)) (quota : (d.heldSlots v).length < (d.vd v).quota.toNat)
    (free : d.emptySlot = some i) :
    loadSlot v tag k d = (e.onKey i fun _ => ⟨.loaded, v, key⟩).emit (.key v tag 0 (natLe 2 i)) := by
  simp [loadSlot, quota, free, made]

theorem loadSlot_of_full (full : (d.vd v).quota.toNat ≤ (d.heldSlots v).length ∨ d.emptySlot = none) :
    loadSlot v tag k d = refuseKey v tag 2 d := by
  have none : (if (d.heldSlots v).length < (d.vd v).quota.toNat then d.emptySlot else none) = none := by
    rcases full with full | full
    · exact if_neg (by omega)
    · rw [full, ite_self]
  simp [loadSlot, none]

theorem doImportKey_of_pair {bs : List Byte} (length : bs.length = 64) (pair : bs.take 32 ≠ bs.drop 32) :
    doImportKey v tag bs d = loadSlot v tag (fun d => (.imported (BitVec.ofNat 512 (leNat bs)), d)) d := by
  simp [doImportKey, length, pair]

theorem doGenerate_of_room {i : Nat} (quota : (d.heldSlots v).length < (d.vd v).quota.toNat) (free : d.emptySlot = some i) :
    doGenerate v tag d = (d.draw.2.onKey i fun _ => ⟨.loaded, v, .gen d.draws⟩).emit (.key v tag 0 (natLe 2 i)) :=
  loadSlot_of_room rfl quota free

theorem doImportKey_of_room {bs : List Byte} {i : Nat} (length : bs.length = 64) (pair : bs.take 32 ≠ bs.drop 32)
    (quota : (d.heldSlots v).length < (d.vd v).quota.toNat) (free : d.emptySlot = some i) : doImportKey v tag bs d =
      (d.onKey i fun _ => ⟨.loaded, v, .imported (BitVec.ofNat 512 (leNat bs))⟩).emit (.key v tag 0 (natLe 2 i)) :=
  (doImportKey_of_pair length pair).trans (loadSlot_of_room rfl quota free)

theorem doImportKey_of_bad {bs : List Byte} (h : bs.length ≠ 64 ∨ bs.take 32 = bs.drop 32) :
    doImportKey v tag bs d = refuseKey v tag 4 d := by
  rcases h with h | h <;> simp [doImportKey, h]

theorem doErase_of_foreign {slot : Nat} (h : (d.heldSlots v).contains slot = false) : doErase v tag slot d = refuseKey v tag 1 d := by
  rw [doErase, h]
  rfl

section

variable {slot : Nat} (held : (d.heldSlots v).contains slot = true)
include held

theorem doErase_of_used (used : ((d.vd v).table.any fun e => e.res == 1 && e.key == slot) = true) :
    doErase v tag slot d = refuseKey v tag 3 d := by
  rw [doErase, held, if_neg (by decide), if_pos used]

theorem doErase_of_unused (used : ((d.vd v).table.any fun e => e.res == 1 && e.key == slot) = false) :
    doErase v tag slot d = (eraseSlots (fun i _ => i == slot) d).emit (.key v tag 0 []) := by
  rw [doErase, held, if_neg (by decide), if_neg (by simp [used])]

end

end

theorem keySlot_emit_onKey_same (d : Dev) (i : Nat) (x : KeySlot) (o : Output) : ((d.onKey i fun _ => x).emit o).keySlot i = x :=
  Dev.keySlot_onKey_same d i fun _ => x

theorem keySlot_emit_onKey_ne {i j : Nat} (h : j ≠ i) (d : Dev) (x : KeySlot) (o : Output) :
    ((d.onKey i fun _ => x).emit o).keySlot j = d.keySlot j :=
  Dev.keySlot_onKey_ne d (fun _ => x) h

/-- An erased slot is EMPTY, its key gone (R468). -/
theorem keySlot_eraseSlots (d : Dev) (slot : Nat) : (eraseSlots (fun i _ => i == slot) d).keySlot slot = KeySlot.reset := by
  have keys : (eraseSlots (fun i _ => i == slot) d).mc.keys = d.mc.keys.map fun (i, k) => (i, if i == slot then KeySlot.reset else k) := rfl
  rw [Dev.keySlot, keys, Tab.getD, Tab.get?_map (fun i k => if i == slot then KeySlot.reset else k)]
  cases Tab.get? d.mc.keys slot <;> simp

/-- A request served as one of a secured session outside quarantine is its own operation. -/
theorem served_of_secured {i : Instr} {s : State} {v : VDev} {tag : BitVec 32} {f : Dev → Dev} {P : Dev → Prop}
    (served : serveWaiting i = keyOp v.val (vfDoe v) tag f) (secured : s.dev.secured (vfDoe v) = true) (level : s.dev.sec.level ≠ 2)
    (h : ∀ l, P (f (s.dev.withEvcs l))) : Served i s P :=
  served_of_serveWaiting fun l => by
    rw [served, keyOp_of_secured (d := s.dev.withEvcs l) secured level]
    exact h l

/-- A refused request leaves the slots as they are, whatever the event controllers hold. -/
theorem refuseKey_served (v : Nat) (tag : BitVec 32) (status : Nat) (d : Dev) (l : Tab Evc) :
    (refuseKey v tag status (d.withEvcs l)).mc = d.mc ∧
      (refuseKey v tag status (d.withEvcs l)).out = d.out ++ [.key v tag status []] :=
  (refuseKey_spec v tag status (d.withEvcs l)).symm

/-- The guard of a key operation, whichever it is (R467, R475). -/
theorem keyOperation_guarded {s : State} {v : VDev} {tag : BitVec 32} {bs : List Byte} {slot : BitVec 16} {i : Instr}
    (h : i ∈ [Instr.generate v tag, .importKey v tag bs, .erase v tag slot, .listKeys v tag]) :
    (s.dev.secured (vfDoe v) = false → Served i s fun d => d.out = s.dev.out ++ [.spdm (vfDoe v) (.error false)] ∧ d.mc = s.dev.mc) ∧
    (s.dev.secured (vfDoe v) = true → s.dev.sec.level = 2 → Served i s fun d => d.out = s.dev.out ++ [.key v.val tag 5 []] ∧
      d.mc = s.dev.mc) := by
  obtain ⟨f, served⟩ := serveWaiting_keyOp h
  constructor
  · intro unsecured
    refine served_of_serveWaiting fun l => ?_
    rw [served, keyOp_of_unsecured (d := s.dev.withEvcs l) unsecured]
    exact ⟨rfl, rfl⟩
  · intro secured level
    refine served_of_serveWaiting fun l => ?_
    rw [served, keyOp_of_quarantine (d := s.dev.withEvcs l) secured level]
    exact (refuseKey_served v.val tag 5 s.dev l).symm

/-- Settles O57: the guards of every operation, and then each of them by what its operands allow. -/
theorem keyOperations : Obligations.KeyOperations := by
  refine ⟨fun s v tag bs slot i => keyOperation_guarded, fun s v tag secured level => ⟨?room, ?full, ?bad, ?foreign, ?held, ?list⟩⟩
  case room =>
    intro i quota free
    refine ⟨served_of_secured rfl secured level fun l => ?_, fun bs length pair => served_of_secured rfl secured level fun l => ?_⟩
    · rw [doGenerate_of_room (d := s.dev.withEvcs l) quota free]
      exact ⟨keySlot_emit_onKey_same .., rfl, rfl, fun j other => keySlot_emit_onKey_ne other ..⟩
    · rw [doImportKey_of_room (d := s.dev.withEvcs l) length pair quota free]
      exact ⟨keySlot_emit_onKey_same .., rfl⟩
  case full =>
    intro full
    refine ⟨served_of_secured rfl secured level fun l => ?_, fun bs length pair => served_of_secured rfl secured level fun l => ?_⟩
    · rw [doGenerate, loadSlot_of_full (d := s.dev.withEvcs l) full]
      exact refuseKey_served ..
    · rw [doImportKey_of_pair length pair, loadSlot_of_full (d := s.dev.withEvcs l) full]
      exact refuseKey_served ..
  case bad =>
    intro bs bad
    refine served_of_secured rfl secured level fun l => ?_
    rw [doImportKey_of_bad bad]
    exact refuseKey_served ..
  case foreign =>
    intro slot foreign
    refine served_of_secured rfl secured level fun l => ?_
    rw [doErase_of_foreign (d := s.dev.withEvcs l) foreign]
    exact refuseKey_served ..
  case held =>
    intro slot held
    refine ⟨fun used => served_of_secured rfl secured level fun l => ?_, fun used => served_of_secured rfl secured level fun l => ?_⟩
    · rw [doErase_of_used (d := s.dev.withEvcs l) held used]
      exact refuseKey_served ..
    · rw [doErase_of_unused (d := s.dev.withEvcs l) held used]
      exact ⟨keySlot_eraseSlots .., rfl⟩
  case list => exact served_of_secured rfl secured level fun _ => rfl

end Sys2Proof.Machine
end

section
/-! Attestation, link keys and TEE device interfaces (R460 … R466, Tables 19-1 and 19-2). -/

namespace Sys2Proof.Machine

open Sys2Proof

theorem Dev.withEvcs_sec (d : Dev) (l : Tab Evc) : (d.withEvcs l).sec = d.sec := rfl

theorem Dev.withEvcs_measurements (d : Dev) (l : Tab Evc) : (d.withEvcs l).measurements = d.measurements := rfl

/-! ## The stages of negotiation -/

theorem spdmStage_setStage (t : Transport) (n : Nat) (d : Dev) : (setStage t n d).spdmStage t = n := by
  have gone : ((d.sec.spdm.filter fun e => e.1 != t).find? fun e => e.1 == t) = none := by
    simp [List.find?_eq_none]
  simp [Dev.spdmStage, setStage, Dev.onSec, List.find?_append, gone]

section

variable {t : Transport} {n : Nat} {f : Dev → Dev} {d : Dev}

theorem atStage_of_reached (h : n ≤ d.spdmStage t) : atStage t n f d = f d := if_pos h

theorem atStage_of_early (h : d.spdmStage t < n) : atStage t n f d = d.emit (.spdm t (.error false)) := if_neg (by omega)

end

/-- A request before its stage is answered ERROR and changes nothing. -/
theorem served_of_early {i : Instr} {s : State} {t : Transport} {n : Nat} {f : Dev → Dev} (served : serveWaiting i = atStage t n f)
    (early : s.dev.spdmStage t < n) : Served i s fun d => d.sec = s.dev.sec ∧ d.out = s.dev.out ++ [.spdm t (.error false)] :=
  served_of_emit fun l => by rw [served, atStage_of_early (d := s.dev.withEvcs l) early]

/-- A request at its stage is what it is behind that guard. -/
theorem served_of_reached {i : Instr} {s : State} {t : Transport} {n : Nat} {f : Dev → Dev} {P : Dev → Prop}
    (served : serveWaiting i = atStage t n f) (reached : n ≤ s.dev.spdmStage t) (h : ∀ l, P (f (s.dev.withEvcs l))) : Served i s P :=
  served_of_serveWaiting fun l => by
    rw [served, atStage_of_reached (d := s.dev.withEvcs l) reached]
    exact h l

/-- A request at its stage that is only answered changes nothing but what leaves. -/
theorem served_of_reached_emit {i : Instr} {s : State} {t : Transport} {n : Nat} {f : Dev → Dev} {o : Output}
    (served : serveWaiting i = atStage t n f) (reached : n ≤ s.dev.spdmStage t)
    (h : ∀ l, f (s.dev.withEvcs l) = (s.dev.withEvcs l).emit o) : Served i s fun d => d.sec = s.dev.sec ∧ d.out = s.dev.out ++ [o] :=
  served_of_reached served reached fun l => by
    rw [h l]
    exact ⟨rfl, rfl⟩

theorem getCapabilities_early {s : State} {t : Transport} (early : s.dev.spdmStage t = 0) : Served (.getCapabilities t) s fun d =>
    d.sec = s.dev.sec ∧ d.out = s.dev.out ++ [.spdm t (.error false)] :=
  served_of_early rfl (show s.dev.spdmStage t < 1 by omega)

theorem getVersion_served (s : State) (t : Transport) : Served (.getVersion t) s fun d =>
    d.spdmStage t = 1 ∧ d.out = s.dev.out ++ [.spdm t .version] :=
  served_of_serveWaiting fun l => ⟨spdmStage_setStage t 1 (s.dev.withEvcs l), rfl⟩

theorem getCapabilities_served {s : State} {t : Transport} (reached : 1 ≤ s.dev.spdmStage t) : Served (.getCapabilities t) s fun d =>
    d.spdmStage t = max 2 (s.dev.spdmStage t) ∧ d.out = s.dev.out ++ [.spdm t .capabilities] :=
  served_of_reached rfl reached fun l => ⟨spdmStage_setStage t _ (s.dev.withEvcs l), rfl⟩

theorem negotiateAlgorithms_served {s : State} {t : Transport} (o : SpdmOffer) (reached : 2 ≤ s.dev.spdmStage t) :
    Served (.negotiateAlgorithms t o) s fun d =>
      if o.ecdsaP384 = true ∧ o.sha3_384 = true ∧ o.secp384r1 = true ∧ o.aes256gcm = true then
        d.spdmStage t = 3 ∧ d.out = s.dev.out ++ [.spdm t .algorithms]
      else d.sec = s.dev.sec ∧ d.out = s.dev.out ++ [.spdm t (.error false)] :=
  served_of_reached rfl reached fun l => by
    by_cases h : o.ecdsaP384 = true ∧ o.sha3_384 = true ∧ o.secp384r1 = true ∧ o.aes256gcm = true
    · rw [if_pos h, if_pos (by simpa [and_assoc] using h)]
      exact ⟨spdmStage_setStage t 3 (s.dev.withEvcs l), rfl⟩
    · rw [if_neg h, if_neg (by simpa [and_assoc] using h)]
      exact ⟨rfl, rfl⟩

/-- The requests of a negotiated connection, before it is one. -/
theorem authentication_early {s : State} {t : Transport} (early : s.dev.spdmStage t < 3) (slot index : BitVec 8) (off len : Nat)
    (nonce : BitVec 256) (i : Instr)
    (h : i ∈ [Instr.getDigests t, .getCertificate t slot off len, .challenge t slot nonce, .getMeasurements t index, .keyExchange t]) :
    Served i s fun d => d.sec = s.dev.sec ∧ d.out = s.dev.out ++ [.spdm t (.error false)] := by
  simp only [List.mem_cons, List.not_mem_nil, or_false] at h
  rcases h with rfl | rfl | rfl | rfl | rfl
  all_goals exact served_of_early rfl early

theorem served_imp {i : Instr} {s : State} {P Q : Dev → Prop} (h : Served i s P) (imp : ∀ d, P d → Q d) : Served i s Q := by
  intro t reaches here up
  obtain ⟨d, e, p⟩ := h t reaches here up
  exact ⟨d, e, imp d p⟩

/-! ## Requests of a negotiated connection -/

section

variable {s : State} {t : Transport} (reached : 3 ≤ s.dev.spdmStage t)
include reached

theorem getDigests_served : Served (.getDigests t) s fun d =>
    d.out = s.dev.out ++ [.spdm t (.digests (BitVec.ofNat 384 (beNat (sha3_384 Config.certificateChain))))] :=
  served_of_reached rfl reached fun _ => rfl

theorem getCertificate_served {off : Nat} (len : Nat) (within : off < Config.certificateChain.length) :
    Served (.getCertificate t 0 off len) s fun d => d.out = s.dev.out ++
      [.spdm t (.certificate ((Config.certificateChain.drop off).take len) (Config.certificateChain.length - (off + len)))] :=
  served_of_reached rfl reached fun l => by
    have rest : Config.certificateChain.length - off - min len (Config.certificateChain.length - off) =
      Config.certificateChain.length - (off + len) := by omega
    rw [if_pos (by simp [within]), rest]
    rfl

theorem getCertificate_refused {slot : BitVec 8} {off : Nat} (len : Nat) (h : slot ≠ 0 ∨ Config.certificateChain.length ≤ off) :
    Served (.getCertificate t slot off len) s fun d => d.sec = s.dev.sec ∧ d.out = s.dev.out ++ [.spdm t (.error false)] := by
  have beyond : (decide (slot.toNat = 0) && decide (off < Config.certificateChain.length)) = false := by
    rcases h with h | h
    · have : slot.toNat ≠ 0 := fun e => h (BitVec.eq_of_toNat_eq e)
      simp [this]
    · simp [h]
  exact served_of_reached_emit rfl reached fun l => by rw [beyond]; rfl

theorem challenge_refused {slot : BitVec 8} (nonce : BitVec 256) (h : slot ≠ 0 ∨ s.dev.sec.attKey = false) :
    Served (.challenge t slot nonce) s fun d => d.sec = s.dev.sec ∧ d.out = s.dev.out ++ [.spdm t (.error false)] := by
  have unable : (decide (slot.toNat = 0) && s.dev.sec.attKey) = false := by
    rcases h with h | h
    · have : slot.toNat ≠ 0 := fun e => h (BitVec.eq_of_toNat_eq e)
      simp [this]
    · simp [h]
  exact served_of_reached_emit rfl reached fun l => if_neg (by rw [Dev.withEvcs_sec, unable]; decide)

theorem challenge_served (nonce : BitVec 256) (key : s.dev.sec.attKey = true) : Served (.challenge t 0 nonce) s fun d =>
    d.out = s.dev.out ++
      [.spdm t (.challenge (BitVec.ofNat 384 (beNat (sha3_384 Config.certificateChain))) (attest s.dev.draws (natLe 32 nonce.toNat)))] :=
  served_of_reached rfl reached fun l => by
    rw [if_pos (show (decide ((0 : BitVec 8).toNat = 0) && (s.dev.withEvcs l).sec.attKey) = true from key)]
    rfl

theorem keyExchange_refused (key : s.dev.sec.attKey = false) : Served (.keyExchange t) s fun d =>
    d.sec = s.dev.sec ∧ d.out = s.dev.out ++ [.spdm t (.error false)] :=
  served_of_reached_emit rfl reached fun l => if_pos (by
    rw [Dev.withEvcs_sec, key]
    rfl)

theorem getMeasurements_refused {index : BitVec 8}
    (h : ((s.dev.measurements t).any fun b => index.toNat == 0xFF || b.1 == index.toNat) = false ∨ s.dev.sec.attKey = false) :
    Served (.getMeasurements t index) s fun d => d.sec = s.dev.sec ∧ d.out = s.dev.out ++ [.spdm t (.error false)] :=
  served_of_reached_emit rfl reached fun l => if_pos (by
    rcases h with h | h
    · have nothing : ((s.dev.measurements t).filter fun b => index.toNat == 0xFF || b.1 == index.toNat) = [] :=
        List.filter_eq_nil_iff.2 fun b mem => by simpa using List.any_eq_false.1 h b mem
      exact Bool.or_eq_true_iff.2 (.inl (List.isEmpty_iff.2 nothing))
    · exact Bool.or_eq_true_iff.2 (.inr (congrArg (!·) h)))

theorem getMeasurements_served {index : BitVec 8} (key : s.dev.sec.attKey = true)
    (asked : ((s.dev.measurements t).any fun b => index.toNat == 0xFF || b.1 == index.toNat) = true) :
    Served (.getMeasurements t index) s fun d => ∃ sig, d.out = s.dev.out ++ [.spdm t (.measurements
      ((s.dev.measurements t).filter fun b => index.toNat == 0xFF || b.1 == index.toNat) sig)] :=
  served_of_reached rfl reached fun l => by
    have signs : (((s.dev.measurements t).filter fun b => index.toNat == 0xFF || b.1 == index.toNat).isEmpty || !s.dev.sec.attKey) = false := by
      obtain ⟨b, mem, h⟩ := List.any_eq_true.1 asked
      have listed : b ∈ (s.dev.measurements t).filter fun b => index.toNat == 0xFF || b.1 == index.toNat := List.mem_filter.2 ⟨mem, h⟩
      rw [key, List.isEmpty_eq_false_iff.2 (List.ne_nil_of_mem listed)]
      rfl
    rw [Dev.withEvcs_measurements, Dev.withEvcs_sec, if_neg (ne_true_of_eq_false signs)]
    exact ⟨_, rfl⟩

theorem keyExchange_busy (key : s.dev.sec.attKey = true)
    (full : sessionLimit t ≤ (s.dev.sec.sessions.filter fun x => sameLimit x.transport t).length) :
    Served (.keyExchange t) s fun d => d.sec = s.dev.sec ∧ d.out = s.dev.out ++ [.spdm t (.error true)] :=
  served_of_reached_emit rfl reached fun l => by
    rw [if_neg (by rw [Dev.withEvcs_sec, key]; decide)]
    exact if_pos full

theorem keyExchange_served (key : s.dev.sec.attKey = true)
    (room : (s.dev.sec.sessions.filter fun x => sameLimit x.transport t).length < sessionLimit t) :
    Served (.keyExchange t) s fun d =>
      d.sec.sessions = s.dev.sec.sessions ++ [⟨s.dev.sec.nextSession, t, s.dev.draws, 0, false⟩] ∧
      d.out = s.dev.out ++ [.spdm t (.session s.dev.sec.nextSession)] :=
  served_of_reached rfl reached fun l => by
    rw [if_neg (by rw [Dev.withEvcs_sec, key]; decide),
      if_neg (Nat.not_le.2 (by rw [Dev.withEvcs_sec]; exact room))]
    exact ⟨rfl, rfl⟩

end

/-- Block 4 is what the alarm counts and the quarantine flag are (Table 19-2). -/
theorem measurements_alarms (d : Dev) (t : Transport) :
    ((d.measurements t).filter fun b => (4 : BitVec 8).toNat == 0xFF || b.1 == (4 : BitVec 8).toNat) =
    [(4, natLe 4 d.sec.a2Count.toNat ++ natLe 4 d.sec.a3Count.toNat ++ natLe 1 (if d.sec.level = 2 then 1 else 0))] := by
  cases t with
  | doe fn => by_cases h : fn.val = mgr <;> simp [Dev.measurements, h, List.filter]
  | carrier => simp [Dev.measurements, List.filter]
  | mctp => simp [Dev.measurements, List.filter]

theorem getMeasurements_alarms {s : State} {t : Transport} (reached : 3 ≤ s.dev.spdmStage t) (key : s.dev.sec.attKey = true) :
    Served (.getMeasurements t 4) s fun d => ∃ sig, d.out = s.dev.out ++ [.spdm t (.measurements
      [(4, natLe 4 s.dev.sec.a2Count.toNat ++ natLe 4 s.dev.sec.a3Count.toNat ++ natLe 1 (if s.dev.sec.level = 2 then 1 else 0))] sig)] := by
  have offered := measurements_alarms s.dev t
  have asked : ((s.dev.measurements t).any fun b => (4 : BitVec 8).toNat == 0xFF || b.1 == (4 : BitVec 8).toNat) = true := by
    obtain ⟨mem, h⟩ := List.mem_filter.1 (offered ▸ List.mem_singleton_self _)
    exact List.any_eq_true.2 ⟨_, mem, h⟩
  exact offered ▸ getMeasurements_served reached key asked

/-! ## Sessions -/

section

variable {s : State} {t : Transport} {id : Nat}

theorem finish_served (h : s.dev.hasSession t id false = true) : Served (.finish t id) s fun d =>
    d.out = s.dev.out ++ [.spdm t (.finished id)] ∧
      d.sec.sessions = updFirst (fun x => x.id == id) (fun x => { x with open_ := true }) s.dev.sec.sessions :=
  served_of_serveWaiting fun l => by
    rw [show serveWaiting (.finish t id) (s.dev.withEvcs l) = _ from if_pos h]
    exact ⟨rfl, rfl⟩

theorem finish_refused (h : s.dev.hasSession t id false = false) : Served (.finish t id) s fun d =>
    d.sec = s.dev.sec ∧ d.out = s.dev.out ++ [.spdm t (.error false)] :=
  served_of_emit fun _ => if_neg (ne_true_of_eq_false h)

/-- The requests of an established session, where there is none. -/
theorem established_refused (h : s.dev.hasSession t id true = false) (i : Instr)
    (mem : i ∈ [Instr.keyUpdate t id, .heartbeat t id, .endSession t id]) :
    Served i s fun d => d.sec = s.dev.sec ∧ d.out = s.dev.out ++ [.spdm t (.error false)] := by
  simp only [List.mem_cons, List.not_mem_nil, or_false] at mem
  rcases mem with rfl | rfl | rfl
  · exact served_of_emit fun _ => if_neg (ne_true_of_eq_false h)
  · exact served_of_emit fun l =>
      congrArg (fun r => (s.dev.withEvcs l).emit (.spdm t r)) (if_neg (ne_true_of_eq_false h))
  · exact served_of_emit fun _ => if_neg (ne_true_of_eq_false h)

variable (h : s.dev.hasSession t id true = true)
include h

theorem keyUpdate_served : Served (.keyUpdate t id) s fun d => d.out = s.dev.out ++ [.spdm t (.updated id)] :=
  served_of_serveWaiting fun l => by
    rw [show serveWaiting (.keyUpdate t id) (s.dev.withEvcs l) = _ from if_pos h]
    rfl

theorem heartbeat_served : Served (.heartbeat t id) s fun d => d.sec = s.dev.sec ∧ d.out = s.dev.out ++ [.spdm t (.alive id)] :=
  served_of_emit fun l => congrArg (fun r => (s.dev.withEvcs l).emit (.spdm t r)) (if_pos h)

theorem endSession_served : Served (.endSession t id) s fun d =>
    d.out = s.dev.out ++ [.spdm t (.ended id)] ∧ ∀ x, x ∈ d.sec.sessions → x.id ≠ id :=
  served_of_serveWaiting fun l => by
    rw [show serveWaiting (.endSession t id) (s.dev.withEvcs l) = _ from if_pos h]
    exact ⟨rfl, fun x mem => bne_iff_ne.1 (List.mem_filter.1 mem).2⟩

end

/-! ## Keys of the host links -/

section

variable {s : State} {p : HPort} {n : Fin 8}

theorem ideKm_served (k : BitVec 256) (secured : s.dev.secured (portTransport p) = true) :
    Served (.ideKm p n k) s fun d => Tab.get? d.sec.ide (8 * p.val + n.val) = some k :=
  served_of_serveWaiting fun l => by
    rw [show serveWaiting (.ideKm p n k) (s.dev.withEvcs l) = _ from if_pos secured]
    exact Tab.get?_put_same ..

theorem ideKm_refused (k : BitVec 256) (unsecured : s.dev.secured (portTransport p) = false) :
    Served (.ideKm p n k) s fun d => d.sec = s.dev.sec ∧ d.out = s.dev.out ++ [.spdm (portTransport p) (.error false)] :=
  served_of_emit fun _ => if_neg (ne_true_of_eq_false unsecured)

theorem ideIntegrityFail_unkeyed (r : Option Nat) (h : (Tab.get? s.dev.sec.ide (8 * p.val + n.val)).isSome = false) :
    exec (.ideIntegrityFail p n r) s = .next s := by
  cases r with
  | none => rfl
  | some id => exact runMem_of_idle (if_neg (ne_true_of_eq_false h))

theorem ideIntegrityFail_keyed (id : Nat) (h : (Tab.get? s.dev.sec.ide (8 * p.val + n.val)).isSome = true) :
    exec (.ideIntegrityFail p n (some id)) s = .next (after s (doHostError id (work s))) :=
  next_after_of_eq rfl (if_pos h)

end

/-! ## TEE device interfaces -/

section

variable {s : State} {v : VDev}

theorem setTdi_tdi (v : Nat) (t : Tdi) (r : TdispReply) (d : Dev) : ((setTdi v t r d).fn v).tdi = t :=
  congrArg Fn.tdi (Dev.fn_onFn_same d v fun f => { f with tdi := t })

theorem lockInterface_served (st : Fin 8) (unlocked : (s.dev.fn v.val).tdi = .configUnlocked) (free : s.dev.windowed v.val = false) :
    Served (.lockInterfaceRequest v st) s fun d =>
      (d.fn v.val).tdi = .configLocked ∧ (d.fn v.val).tdiStream = st.val ∧ d.out = s.dev.out ++ [.tdisp v.val .locked] :=
  served_of_serveWaiting fun l => by
    have can : ¬ ((s.dev.fn v.val).tdi != .configUnlocked || s.dev.windowed v.val) = true := by simp [unlocked, free]
    rw [show serveWaiting (.lockInterfaceRequest v st) (s.dev.withEvcs l) = _ from if_neg can]
    refine ⟨setTdi_tdi .., ?_, rfl⟩
    simp [setTdi, Dev.emit, Dev.fn, Dev.onFn, Dev.setFn]

theorem lockInterface_refused (st : Fin 8) (h : (s.dev.fn v.val).tdi ≠ .configUnlocked ∨ s.dev.windowed v.val = true) :
    Served (.lockInterfaceRequest v st) s fun d =>
      (d.fn v.val).tdi = (s.dev.fn v.val).tdi ∧ d.out = s.dev.out ++ [.tdisp v.val .error] :=
  served_of_serveWaiting fun l => by
    have cannot : ((s.dev.fn v.val).tdi != .configUnlocked || s.dev.windowed v.val) = true := by simpa using h
    rw [show serveWaiting (.lockInterfaceRequest v st) (s.dev.withEvcs l) = _ from if_pos cannot]
    exact ⟨rfl, rfl⟩

theorem startInterface_served (locked : (s.dev.fn v.val).tdi = .configLocked) : Served (.startInterfaceRequest v) s fun d =>
    (d.fn v.val).tdi = .run ∧ d.out = s.dev.out ++ [.tdisp v.val .started] :=
  served_of_serveWaiting fun l => by
    rw [show serveWaiting (.startInterfaceRequest v) (s.dev.withEvcs l) = _ from if_pos (beq_iff_eq.2 locked)]
    exact ⟨setTdi_tdi .., rfl⟩

theorem startInterface_refused (h : (s.dev.fn v.val).tdi ≠ .configLocked) : Served (.startInterfaceRequest v) s fun d =>
    (d.fn v.val).tdi = (s.dev.fn v.val).tdi ∧ d.out = s.dev.out ++ [.tdisp v.val .error] :=
  served_of_serveWaiting fun l => by
    rw [show serveWaiting (.startInterfaceRequest v) (s.dev.withEvcs l) = _ from if_neg (fun e => h (beq_iff_eq.1 e))]
    exact ⟨rfl, rfl⟩

theorem interfaceReport_served (h : (s.dev.fn v.val).tdi = .configLocked ∨ (s.dev.fn v.val).tdi = .run) :
    Served (.getDeviceInterfaceReport v) s fun d => d.out = s.dev.out ++ [.tdisp v.val (.report (Config.tdispReport v.val))] :=
  served_of_serveWaiting fun l =>
    have can : ((s.dev.fn v.val).tdi == .configLocked || (s.dev.fn v.val).tdi == .run) = true := by simpa using h
    congrArg (fun r => s.dev.out ++ [.tdisp v.val r]) (if_pos can)

theorem interfaceReport_refused (unlocked : (s.dev.fn v.val).tdi ≠ .configLocked) (idle : (s.dev.fn v.val).tdi ≠ .run) :
    Served (.getDeviceInterfaceReport v) s fun d => d.out = s.dev.out ++ [.tdisp v.val .error] :=
  served_of_serveWaiting fun l =>
    have cannot : ¬ ((s.dev.fn v.val).tdi == .configLocked || (s.dev.fn v.val).tdi == .run) = true := by simp [unlocked, idle]
    congrArg (fun r => s.dev.out ++ [.tdisp v.val r]) (if_neg cannot)

theorem sriovConfigChange_gives : Gives (.sriovConfigChange v) s fun d =>
    (d.fn v.val).tdi = .error ∧ ∀ k, k ≠ v.val → d.fn k = s.dev.fn k :=
  ⟨_, rfl, by simp, fun _ other => Dev.fn_onFn_ne _ _ other⟩

end

/-- Settles O56: negotiation, what a negotiated connection answers, sessions, link keys and device interfaces, each by its own lemma. -/
theorem attestationAndInterfaces : Obligations.AttestationAndInterfaces := by
  refine ⟨getVersion_served, fun s t => getCapabilities_early, fun s t o early => served_of_early rfl early,
    fun s t => getCapabilities_served, fun s t o => negotiateAlgorithms_served o,
    fun s t slot index off len nonce early i mem => served_imp (authentication_early early slot index off len nonce i mem) fun _ h => h.symm,
    fun s t reached => ?negotiated, fun s t id => finish_served, fun s t id => ⟨finish_refused, established_refused⟩,
    fun s t id h => ⟨keyUpdate_served h, heartbeat_served h, endSession_served h⟩, fun s p n => ideKm_served, fun s p n => ideKm_refused,
    fun s p n => ideIntegrityFail_unkeyed, fun s p n => ⟨⟨_, rfl, rfl⟩, ideIntegrityFail_keyed⟩, fun s v => ?interface⟩
  case negotiated =>
    exact ⟨getDigests_served reached, fun off len => getCertificate_served reached len, fun slot off len => getCertificate_refused reached len,
      fun slot nonce => challenge_refused reached nonce, fun index => getMeasurements_refused reached,
      fun index => getMeasurements_served reached, keyExchange_refused reached, challenge_served reached, getMeasurements_alarms reached,
      keyExchange_served reached, keyExchange_busy reached⟩
  case interface =>
    exact ⟨served_of_serveWaiting fun _ => rfl, served_of_serveWaiting fun _ => rfl, served_of_serveWaiting fun _ => rfl,
      served_of_serveWaiting fun l => ⟨setTdi_tdi .., rfl⟩, fun unlocked free st => lockInterface_served st unlocked free,
      fun h st => lockInterface_refused st h, startInterface_served, interfaceReport_served, interfaceReport_refused,
      startInterface_refused, sriovConfigChange_gives⟩

end Sys2Proof.Machine
end

section
/-! Alarms, quarantine and zeroize (R472 … R478, R513, Tables 19-4 and 19-5). -/

namespace Sys2Proof.Machine

open Sys2Proof

/-! ## What zeroization leaves to its last step: the security state, the key slots and the undo journals -/

/-- The security state, the key slots and the undo journals of a device, which steps 3 and 4 of the sequence leave as they are. -/
def Dev.vault (d : Dev) : Sec × Tab KeySlot × List Undo := (d.sec, d.mc.keys, d.mc.undo)

theorem notifyWaits_vault (k : Nat) (d : Dev) : (notifyWaits k d).vault = d.vault := by
  unfold notifyWaits
  extract_lets due e
  exact foldl_keeps Dev.vault (fun d w => show (noteWait w.src ((d.evalWait k w.t).getD none) d).vault = d.vault from rfl) due e

theorem commitFail_vault (k code : Nat) (v : BitVec 64) (d : Dev) : (commitFail k code v d).2.vault = d.vault := by
  obtain h | ⟨f, h⟩ := commitFail_cases (k := k) (code := code) (v := v) (d := d)
  · rw [h]
  · rw [h, notifyWaits_vault]
    rfl

theorem failCells_vault (d : Dev) : (failCells d).vault = d.vault :=
  foldl_keeps Dev.vault (fun d (c : Nat × FCell) => commitFail_vault c.1 0x50 0xFFFFFFFFFFFFFFFF d) (d.mc.cells.filter fun c => c.2.state == 1) d

/-- The bytes of one place of a store, with its lines and its poison. -/
def storePlace (v slot : Nat) (bs : List Byte) (whole : Bool) (w : Wk) (x : Nat) : Wk :=
  let w := (w.put (w.dev.keySlot slot).key x bs).on (writeLine v slot x)
  if whole then w.on (clearPoison x) else w

/-- A store writes its place, the mirror's and the twin's. -/
theorem storeAt_eq (v s j a slot : Nat) (bs : List Byte) (w : Wk) : ∃ whole l, storeAt v s j a slot bs w =
    (a :: l).foldl (storePlace v slot bs whole) w := by
  unfold storeAt
  extract_lets whole one w1 w2
  refine ⟨whole, (mirrorOf w1.dev v s j a).toList ++ ((w2.dev.twin (chanOf a)).map fun t => cellAt t (a % chanBytes)).toList, ?_⟩
  rw [List.foldl_cons, List.foldl_append, show storePlace v slot bs whole w a = w1 from rfl]
  have mirrored : w2 = (mirrorOf w1.dev v s j a).toList.foldl (storePlace v slot bs whole) w1 := by
    cases h : mirrorOf w1.dev v s j a <;> simp only [w2, h] <;> rfl
  rw [← mirrored]
  cases w2.dev.twin (chanOf a) <;> rfl

theorem writeLine_vault (v key a : Nat) (d : Dev) : (writeLine v key a d).vault = d.vault := by
  unfold writeLine cachePut
  simp only
  split <;> rfl

theorem clearPoison_vault (a : Nat) (d : Dev) : (clearPoison a d).vault = d.vault := by
  unfold clearPoison
  split <;> rfl

theorem put_dev (w : Wk) (k : KeyId) (a : Nat) (bs : List Byte) : (w.put k a bs).dev = w.dev := by
  induction bs generalizing w a with
  | nil => rfl
  | cons b bs ih => exact ih _ _

theorem storePlace_vault (v slot : Nat) (bs : List Byte) (whole : Bool) (w : Wk) (x : Nat) :
    (storePlace v slot bs whole w x).dev.vault = w.dev.vault := by
  have written : (writeLine v slot x (w.put (w.dev.keySlot slot).key x bs).dev).vault = w.dev.vault := by rw [writeLine_vault, put_dev]
  cases whole with
  | false => exact written
  | true => exact (clearPoison_vault x _).trans written

theorem writePiece_vault {v pa key : Nat} {bs : List Byte} {w w' : Wk} (h : writePiece v pa key bs none w = .ok w') :
    w'.dev.vault = w.dev.vault := by
  unfold writePiece at h
  split at h
  · cases h
  next a s m _ =>
    obtain ⟨whole, l, e⟩ := storeAt_eq v s m a key bs (journalLine none v a (w.dev.keySlot key).key w)
    cases h
    rw [e]
    exact foldl_keeps (fun w : Wk => w.dev.vault) (storePlace_vault v key bs whole) _ w

theorem useEntry_vault (e : XEng) (c : CEntry) (d : Dev) : (useEntry e c d).vault = d.vault := by
  have missed : (countMiss e d).vault = d.vault := by cases e <;> rfl
  unfold useEntry
  extract_lets d'
  split
  · rfl
  · split
    · exact missed
    · exact missed

theorem useXlt_vault (e : XEng) (v : Nat) (spans : List (Nat × Nat)) (d : Dev) : (useXlt e v spans d).vault = d.vault :=
  foldl_keeps Dev.vault (fun d c => useEntry_vault e c d) (entriesFor d e v spans) d

theorem signalVec_vault (fn i : Nat) (d : Dev) : (signalVec fn i d).vault = d.vault := by
  obtain ⟨_, _, e, -⟩ := signalVec_spec fn i d
  rw [e]
  rfl

theorem askPage_vault (fn page : Nat) (d : Dev) : (askPage fn page d).vault = d.vault := by
  unfold askPage askPri askAts
  repeat' split
  all_goals rfl

theorem onQueue_vault (d : Dev) (v q : Nat) (f : Queue → Queue) : (d.onQueue v q f).vault = d.vault := by
  unfold Dev.onQueue
  split <;> rfl

theorem tryRecord_vault (v q : Nat) (r : Rec) (w : Wk) : (tryRecord v q r w).2.dev.vault = w.dev.vault := by
  have signalled (x : Queue) (spans : List (Nat × Nat)) (d : Dev) :
      (signalVec v x.msix (useXlt (.dma (hubOf v)) v spans (d.setQueue v q x.bumpCq))).vault = d.vault :=
    (signalVec_vault ..).trans (useXlt_vault ..)
  unfold tryRecord
  split
  · rfl
  next x _ =>
    simp only
    split
    · rfl
    split
    · rfl
    · split
      · rfl
      next w' written => exact (signalled x _ w'.dev).trans (writePiece_vault written)
    · split
      · exact signalled x _ _
      · split <;> rfl

theorem writeRecords_vault (v q code : Nat) (l : List (Nat × Nat)) (w : Wk) : (writeRecords v q code l w).dev.vault = w.dev.vault := by
  unfold writeRecords
  refine foldl_keeps (fun w : Wk => w.dev.vault) (fun w e => ?_) l w
  simp only
  split
  · rfl
  next x _ =>
    split
    · rfl
    · have tried := tryRecord_vault v q ⟨e.1, code, 0, w.dev.hlcOf v, min e.2 31, Detail.none⟩ w
      split
      next page w' waiting => exact (askPage_vault ..).trans ((onQueue_vault ..).trans ((congrArg (fun r => r.2.dev.vault) waiting).symm.trans tried))
      next w' other => exact (congrArg (fun r => r.2.dev.vault) other).symm.trans tried

theorem zeroizeQueue_vault (v q : Nat) (w : Wk) : (zeroizeQueue v q w).dev.vault = w.dev.vault := by
  unfold zeroizeQueue
  split
  · rfl
  · simp only
    split
    · exact writeRecords_vault ..
    · rfl

/-! ## Zeroization (R476) -/

/-- Peers of the exchanges under way are told that they fail. -/
def peersTold (d : Dev) : Dev :=
  d.fab.exchanges.foldl (fun d e => e.ports.foldl (fun d p => d.emit (.peerFailure p.val e.group e.seq)) d) d

theorem peersTold_spec (d : Dev) : ∃ out, peersTold d = { d with out := out } := by
  refine List.foldlRecOn _ _ (motive := fun x : Dev => ∃ out, x = { d with out := out }) ⟨d.out, rfl⟩ ?_
  rintro _ ⟨out, rfl⟩ e -
  refine List.foldlRecOn _ _ (motive := fun x : Dev => ∃ out, x = { d with out := out }) ⟨out, rfl⟩ ?_
  rintro _ ⟨out, rfl⟩ p -
  exact ⟨_, rfl⟩

/-- What the last step of the sequence leaves of the security state, the slots, the sessions and the interfaces (Table 19-5). -/
theorem dropKeys_spec (d : Dev) :
    (dropKeys d).sec = { d.sec with ide := [], sessions := [], spdm := [], attKey := false, waiting := [] } ∧
    (dropKeys d).mc.keys = Tab.put d.mc.keys 0 { d.keySlot 0 with state := .zeroized } ∧ (dropKeys d).exports = [] ∧
    (dropKeys d).fab.exchanges = [] ∧ ∀ v f, (v, f) ∈ (dropKeys d).fns → f.tdi = .error := by
  obtain ⟨out, told⟩ := peersTold_spec d
  unfold dropKeys
  extract_lets e port fn e1 e2
  have he : e = { d with out := out } := told
  have interfaces : ∀ v f, (v, f) ∈ e.fns.map (fun (i, f) => (i, fn f)) → f.tdi = .error := by
    intro v f mem
    obtain ⟨p, _, hp⟩ := List.mem_map.1 mem
    cases hp
    rfl
  refine ⟨?_, ?_, rfl, rfl, interfaces⟩
  · show { e.sec with ide := [], sessions := [], spdm := [], attKey := false, waiting := [] } = _
    rw [he]
  · show Tab.put e.mc.keys 0 { e.keySlot 0 with state := .zeroized } = _
    rw [he]
    rfl

theorem state_zeroize (k : KeySlot) : k.zeroize.state = .empty ∨ k.zeroize.state = .zeroized := by
  unfold KeySlot.zeroize
  split
  next h => exact .inl h
  · exact .inr rfl

/-- The first three steps of the sequence. -/
def zeroizeEngines (d : Dev) : Dev :=
  let d := haltEngines (d.onSec fun s => { s with level := 3 })
  let d := dropKeyLines (fun i => i != 0) d
  failCells (d.onMc fun m => { m with keys := m.keys.map fun (i, k) => (i, if i = 0 then k else k.zeroize) })

theorem zeroizeEngines_vault (d : Dev) : (zeroizeEngines d).vault =
    ({ d.sec with level := 3 }, d.mc.keys.map fun (i, k) => (i, if i = 0 then k else k.zeroize), []) :=
  failCells_vault _

/-- The first four steps of the sequence. -/
def zeroizeQueues (w : Wk) : Wk :=
  let w := w.on zeroizeEngines
  (w.dev.vds.flatMap fun v => v.2.queues.map fun q => (v.1, q.1)).foldl (fun w q => zeroizeQueue q.1 q.2 w) w

theorem zeroizeQueues_vault (w : Wk) : (zeroizeQueues w).dev.vault =
    ({ w.dev.sec with level := 3 }, w.dev.mc.keys.map fun (i, k) => (i, if i = 0 then k else k.zeroize), []) := by
  unfold zeroizeQueues
  extract_lets w1
  rw [foldl_keeps (fun w : Wk => w.dev.vault) (fun w (q : Nat × Nat) => zeroizeQueue_vault q.1 q.2 w) _ w1]
  exact zeroizeEngines_vault w.dev

theorem zeroize_eq (w : Wk) : zeroize w =
    (zeroizeQueues w).on fun d => (dropKeys d).onSec fun s => { s with a3Count := s.a3Count + 1 } := rfl

theorem zeroize_sec (w : Wk) : (zeroize w).dev.sec =
    { w.dev.sec with
      level := 3
      a3Count := w.dev.sec.a3Count + 1
      ide := []
      sessions := []
      spdm := []
      attKey := false
      waiting := [] } := by
  have sec : (zeroizeQueues w).dev.sec = { w.dev.sec with level := 3 } := congrArg Prod.fst (zeroizeQueues_vault w)
  obtain ⟨hsec, -⟩ := dropKeys_spec (zeroizeQueues w).dev
  rw [zeroize_eq]
  show { (dropKeys (zeroizeQueues w).dev).sec with a3Count := (dropKeys (zeroizeQueues w).dev).sec.a3Count + 1 } = _
  rw [hsec, sec]

theorem zeroize_keys (w : Wk) : ∃ k : KeySlot, (zeroize w).dev.mc.keys =
    Tab.put (w.dev.mc.keys.map fun (i, k) => (i, if i = 0 then k else k.zeroize)) 0 { k with state := .zeroized } := by
  obtain ⟨-, hkeys, -⟩ := dropKeys_spec (zeroizeQueues w).dev
  have keys : (zeroizeQueues w).dev.mc.keys = w.dev.mc.keys.map fun (i, k) => (i, if i = 0 then k else k.zeroize) :=
    congrArg (fun v => v.2.1) (zeroizeQueues_vault w)
  refine ⟨(zeroizeQueues w).dev.keySlot 0, ?_⟩
  rw [zeroize_eq]
  exact hkeys.trans (by rw [keys])

theorem zeroize_slot0 (w : Wk) : ((zeroize w).dev.keySlot 0).state = .zeroized := by
  obtain ⟨k, keys⟩ := zeroize_keys w
  rw [Dev.keySlot, keys, Tab.getD_put_same]

/-- After the sequence every slot that is not EMPTY is zeroized (R212). -/
theorem zeroize_slot (w : Wk) {i : Nat} {k : KeySlot} (mem : (i, k) ∈ (zeroize w).dev.mc.keys) (other : i ≠ 0) :
    k.state = .empty ∨ k.state = .zeroized := by
  obtain ⟨k0, keys⟩ := zeroize_keys w
  rw [keys] at mem
  obtain first | listed := mem_put mem
  · exact absurd (congrArg Prod.fst first) other
  · obtain ⟨p, _, hp⟩ := List.mem_map.1 listed
    cases hp
    rw [if_neg other]
    exact state_zeroize p.2

theorem zeroize_peers (w : Wk) : (zeroize w).dev.exports = [] ∧ (zeroize w).dev.fab.exchanges = [] ∧
    ∀ v f, (v, f) ∈ (zeroize w).dev.fns → f.tdi = .error := by
  have dropped := dropKeys_spec (zeroizeQueues w).dev
  rw [zeroize_eq, Wk.on]
  generalize dropKeys (zeroizeQueues w).dev = d at dropped ⊢
  obtain ⟨-, -, hexports, hexchanges, hfns⟩ := dropped
  exact ⟨hexports, hexchanges, hfns⟩
/-- What the sequence leaves: the security state, the keys, the peers and the device interfaces (R475). -/
theorem zeroize_leaves (w : Wk) : (zeroize w).dev.sec.level = 3 ∧ (zeroize w).dev.sec.a3Count = w.dev.sec.a3Count + 1 ∧
    (zeroize w).dev.sec.sessions = [] ∧ (zeroize w).dev.sec.attKey = false ∧ (zeroize w).dev.sec.ide = [] := by
  have sec := zeroize_sec w
  generalize (zeroize w).dev.sec = x at sec ⊢
  subst sec
  exact ⟨rfl, rfl, rfl, rfl, rfl⟩

/-! ## Alarms (R472 … R477) -/

/-- An alarm that arrives is no longer among those on their way. -/
def alarmTaken (src : BitVec 8) (x : BitVec 16) (d : Dev) : Dev :=
  match takeFirst (fun r : BitVec 8 × BitVec 16 => r == (src, x)) d.sec.raised with
  | some (_, rest) => d.onSec fun s => { s with raised := rest }
  | none => d

theorem alarmTaken_spec (src : BitVec 8) (x : BitVec 16) (d : Dev) : ∃ l, alarmTaken src x d = d.onSec fun s => { s with raised := l } := by
  unfold alarmTaken
  split
  · exact ⟨_, rfl⟩
  · exact ⟨d.sec.raised, rfl⟩

theorem alarmTaken_of_not_mem {src : BitVec 8} {x : BitVec 16} {d : Dev} (h : (src, x) ∉ d.sec.raised) : alarmTaken src x d = d := by
  have none : takeFirst (fun r : BitVec 8 × BitVec 16 => r == (src, x)) d.sec.raised = none :=
    takeFirst_eq_none fun r mem => beq_eq_false_iff_ne.2 fun e => h (e ▸ mem)
  rw [alarmTaken, none]

theorem alarmTaken_of_first {src : BitVec 8} {x : BitVec 16} {d : Dev} {l : List (BitVec 8 × BitVec 16)} (h : d.sec.raised = (src, x) :: l) :
    alarmTaken src x d = d.onSec fun s => { s with raised := l } := by
  simp [alarmTaken, h, takeFirst]

/-- An alarm entered in the security log, and told to the managers. -/
def alarmLogged (src : BitVec 8) (x : BitVec 16) (d : Dev) : Dev :=
  raiseOd 6 src.toNat (natLe 1 (d.alarmLevel src.toNat) ++ natLe 2 (alarmDetail src.toNat x).toNat)
    (logAlarm src.toNat (d.alarmLevel src.toNat) (alarmDetail src.toNat x) d).2

theorem logAlarm_spec (src level : Nat) (detail : BitVec 16) (d : Dev) : ∃ log n, (logAlarm src level detail d).2 =
    d.onSec fun s => { s with log := log, logSeq := n } := by
  unfold logAlarm
  extract_lets now same n l
  split
  · exact ⟨_, d.sec.logSeq, rfl⟩
  · exact ⟨_, _, rfl⟩

/-- The first entry of an empty security log. -/
theorem logAlarm_of_empty {d : Dev} (h : d.sec.log = []) (src level : Nat) (detail : BitVec 16) : logAlarm src level detail d =
    (true, d.onSec fun s => { s with log := [⟨src, level, detail, d.clk.hlc0, d.sec.logSeq + 1⟩], logSeq := d.sec.logSeq + 1 }) := by
  simp [logAlarm, h]

section

variable {src : BitVec 8} {x : BitVec 16} {w : Wk}

theorem doAlarm_of_ignored (h : alarmDefault src.toNat = 0 ∨ w.dev.sec.level = 3 ∨ w.dev.clk.powered = false) :
    doAlarm src x w = w.on (alarmTaken src x) := by
  obtain ⟨l, taken⟩ := alarmTaken_spec src x w.dev
  have stays : (alarmTaken src x w.dev).sec.level = w.dev.sec.level ∧ (alarmTaken src x w.dev).clk = w.dev.clk := by
    rw [taken]
    exact ⟨rfl, rfl⟩
  obtain ⟨level, clk⟩ := stays
  refine if_pos ?_
  show (decide (alarmDefault src.toNat = 0) || (alarmTaken src x w.dev).sec.level == 3 || !(alarmTaken src x w.dev).clk.powered) = true
  rw [level, clk]
  rcases h with h | h | h <;> simp [h]

theorem alarmLevel_alarmTaken (src : BitVec 8) (x : BitVec 16) (d : Dev) : (alarmTaken src x d).alarmLevel = d.alarmLevel := by
  obtain ⟨l, taken⟩ := alarmTaken_spec src x d
  rw [taken]
  rfl

/-- An alarm of level A2 quarantines the device, and counts where its entry is new (R475). -/
def quarantine (new : Bool) (d : Dev) : Dev :=
  d.onSec fun s => { s with level := max s.level 2, a2Count := if new then s.a2Count + 1 else s.a2Count }

section

variable (known : alarmDefault src.toNat ≠ 0) (live : w.dev.sec.level ≠ 3) (powered : w.dev.clk.powered = true)
include known live powered

theorem doAlarm_of_acting : doAlarm src x w =
    let d := alarmTaken src x w.dev
    let w' : Wk := { w with dev := alarmLogged src x d }
    if w.dev.alarmLevel src.toNat = 3 then zeroize w'
    else if w.dev.alarmLevel src.toNat = 2 then
      w'.on (quarantine (logAlarm src.toNat (d.alarmLevel src.toNat) (alarmDetail src.toNat x) d).1)
    else w' := by
  obtain ⟨l, taken⟩ := alarmTaken_spec src x w.dev
  have acts : ¬ (decide (alarmDefault src.toNat = 0) || (alarmTaken src x w.dev).sec.level == 3 ||
      !(alarmTaken src x w.dev).clk.powered) = true := by
    rw [show (alarmTaken src x w.dev).sec.level = w.dev.sec.level by rw [taken]; rfl,
      show (alarmTaken src x w.dev).clk = w.dev.clk by rw [taken]; rfl]
    simp [known, live, powered]
  rw [← alarmLevel_alarmTaken src x w.dev]
  exact if_neg acts

theorem doAlarm_of_a3 (level : w.dev.alarmLevel src.toNat = 3) :
    doAlarm src x w = zeroize { w with dev := alarmLogged src x (alarmTaken src x w.dev) } := by
  rw [doAlarm_of_acting known live powered]
  exact if_pos level

/-- An alarm below A3 is logged, and quarantines the device at A2. -/
theorem doAlarm_of_logged (level : w.dev.alarmLevel src.toNat ≠ 3) (empty : w.dev.sec.log = []) : doAlarm src x w =
    w.on fun d => (if d.alarmLevel src.toNat = 2 then quarantine true else id) (alarmLogged src x (alarmTaken src x d)) := by
  have new : (logAlarm src.toNat ((alarmTaken src x w.dev).alarmLevel src.toNat) (alarmDetail src.toNat x) (alarmTaken src x w.dev)).1 = true := by
    obtain ⟨l, taken⟩ := alarmTaken_spec src x w.dev
    rw [taken, logAlarm_of_empty (d := w.dev.onSec fun s => { s with raised := l }) empty]
  rw [doAlarm_of_acting known live powered]
  show (if _ then _ else if _ then _ else _) = _
  rw [if_neg level, new]
  by_cases a2 : w.dev.alarmLevel src.toNat = 2
  · simp [Wk.on, a2]
  · simp [Wk.on, a2]

end

end

/-- The security state after an alarm that finds an empty log. -/
theorem alarmLogged_sec {d : Dev} (empty : d.sec.log = []) (src : BitVec 8) (x : BitVec 16) :
    let e := (alarmLogged src x (alarmTaken src x d)).sec
    e.log = [⟨src.toNat, d.alarmLevel src.toNat, alarmDetail src.toNat x, d.clk.hlc0, d.sec.logSeq + 1⟩] ∧
      e.level = d.sec.level ∧ e.a2Count = d.sec.a2Count := by
  obtain ⟨l, taken⟩ := alarmTaken_spec src x d
  rw [taken]
  let c := d.onSec fun s => { s with raised := l }
  obtain ⟨od, told⟩ := raiseOd_spec 6 src.toNat (natLe 1 (c.alarmLevel src.toNat) ++ natLe 2 (alarmDetail src.toNat x).toNat)
    (logAlarm src.toNat (c.alarmLevel src.toNat) (alarmDetail src.toNat x) c).2
  rw [alarmLogged, told, logAlarm_of_empty (d := c) empty]
  exact ⟨rfl, rfl, rfl⟩

theorem alarmLogged_a3Count (src : BitVec 8) (x : BitVec 16) (d : Dev) : (alarmLogged src x d).sec.a3Count = d.sec.a3Count := by
  obtain ⟨od, told⟩ := raiseOd_spec 6 src.toNat (natLe 1 (d.alarmLevel src.toNat) ++ natLe 2 (alarmDetail src.toNat x).toNat)
    (logAlarm src.toNat (d.alarmLevel src.toNat) (alarmDetail src.toNat x) d).2
  obtain ⟨log, n, logged⟩ := logAlarm_spec src.toNat (d.alarmLevel src.toNat) (alarmDetail src.toNat x) d
  rw [alarmLogged, told, logged]
  rfl

theorem exec_alarm (src : BitVec 8) (x : BitVec 16) (s : State) : exec (.alarm src x) s = .next (after s (doAlarm src x (work s))) := rfl

section

variable {s : State} {src : BitVec 8} (x : BitVec 16)

section

variable (known : alarmDefault src.toNat ≠ 0) (live : s.dev.sec.level ≠ 3) (powered : s.dev.clk.powered = true)
include known live powered

theorem alarm_logged (level : s.dev.alarmLevel src.toNat ≠ 3) (empty : s.dev.sec.log = []) : Gives (.alarm src x) s fun d =>
    d.sec.log = [⟨src.toNat, s.dev.alarmLevel src.toNat, if 8 ≤ src.toNat ∧ src.toNat ≤ 13 then x else 0, s.dev.clk.hlc0, s.dev.sec.logSeq + 1⟩] ∧
    d.sec.level = (if s.dev.alarmLevel src.toNat = 2 then max s.dev.sec.level 2 else s.dev.sec.level) ∧
    d.sec.a2Count = if s.dev.alarmLevel src.toNat = 2 then s.dev.sec.a2Count + 1 else s.dev.sec.a2Count := by
  refine gives_of_on (exec_alarm src x s) (doAlarm_of_logged known live powered level empty) ?_
  obtain ⟨log, levelKept, countKept⟩ := alarmLogged_sec empty src x
  by_cases a2 : s.dev.alarmLevel src.toNat = 2
  · rw [if_pos a2, if_pos a2, if_pos (show (work s).dev.alarmLevel src.toNat = 2 from a2)]
    exact ⟨log, congrArg (max · 2) levelKept, congrArg (· + 1) countKept⟩
  · rw [if_neg a2, if_neg a2, if_neg (show ¬ (work s).dev.alarmLevel src.toNat = 2 from a2)]
    exact ⟨log, levelKept, countKept⟩

theorem alarm_zeroizes (level : s.dev.alarmLevel src.toNat = 3) : Completes (.alarm src x) s fun t =>
    t.dev.sec.level = 3 ∧ t.dev.sec.a3Count = s.dev.sec.a3Count + 1 ∧
      t.dev.sec.sessions = [] ∧ t.dev.sec.attKey = false ∧ t.dev.sec.ide = [] ∧ t.dev.exports = [] ∧ t.dev.fab.exchanges = [] ∧
      (t.dev.keySlot 0).state = .zeroized ∧
      (∀ i k, (i, k) ∈ t.dev.mc.keys → i ≠ 0 → k.state = .empty ∨ k.state = .zeroized) ∧ ∀ v f, (v, f) ∈ t.dev.fns → f.tdi = .error := by
  obtain ⟨l, taken⟩ := alarmTaken_spec src x s.dev
  have count : (alarmLogged src x (alarmTaken src x s.dev)).sec.a3Count = s.dev.sec.a3Count := by
    rw [alarmLogged_a3Count, taken]
    rfl
  have answered : exec (.alarm src x) s = .next (after s (zeroize { work s with dev := alarmLogged src x (alarmTaken src x s.dev) })) :=
    next_after_of_eq (exec_alarm src x s) (doAlarm_of_a3 known live powered level)
  generalize alarmLogged src x (alarmTaken src x s.dev) = d at count answered
  obtain ⟨level3, counted, sessions, attKey, ide⟩ := zeroize_leaves { work s with dev := d }
  obtain ⟨exports, exchanges, interfaces⟩ := zeroize_peers { work s with dev := d }
  have oneMore := counted.trans (congrArg (· + 1) count)
  have slot0 := zeroize_slot0 { work s with dev := d }
  have slots := fun i k => zeroize_slot { work s with dev := d } (i := i) (k := k)
  generalize zeroize { work s with dev := d } = w at *
  exact ⟨_, answered, level3, oneMore, sessions, attKey, ide, exports, exchanges, slot0, slots, interfaces⟩

end

section

variable (ignored : alarmDefault src.toNat = 0 ∨ s.dev.sec.level = 3 ∨ s.dev.clk.powered = false)
include ignored

theorem alarm_ignored_unraised (h : (src, x) ∉ s.dev.sec.raised) : exec (.alarm src x) s = .next s :=
  runMem_of_idle ((doAlarm_of_ignored (w := work s) ignored).trans (congrArg (Wk.mk · s.mem []) (alarmTaken_of_not_mem h)))

theorem alarm_ignored_raised {l : List (BitVec 8 × BitVec 16)} (h : s.dev.sec.raised = (src, x) :: l) :
    Gives (.alarm src x) s fun d => d = { s.dev with sec := { s.dev.sec with raised := l } } :=
  gives_of_on (exec_alarm src x s) (doAlarm_of_ignored (w := work s) ignored) (alarmTaken_of_first h)

end

end

/-! ## Lines of PF-S (R513) -/

section

variable {s : State} {l : Fin 3}

theorem assertLine_lines (line : Nat) (counts : Bool) (d : Dev) : (assertLine line counts d).sec.lines = d.sec.lines ++ [line] := by
  cases counts <;> rfl

theorem assertLine_raised (line : Nat) (counts : Bool) (d : Dev) : (assertLine line counts d).sec.raised =
    if counts then d.sec.raised ++ [(BitVec.ofNat 8 (line + 1), 0)] else d.sec.raised := by
  cases counts <;> rfl

/-- Whether an assertion of a line counts: the line has been low for 1 ms, or was never high. -/
def lineCounts (d : Dev) (line : Nat) : Bool :=
  match Tab.get? d.sec.lineLow line with
  | some t => decide (100000 ≤ (d.clk.hlc0 - t).toNat)
  | none => true

theorem exec_pfsAlarm (l : Fin 3) (ns : Nat) (s : State) : exec (.pfsAlarm l ns) s = .next { s with
    dev := if ns < 200 || s.dev.sec.lines.contains l.val then s.dev else assertLine l.val (lineCounts s.dev l.val) s.dev } := rfl

theorem pfsAlarm_short {ns : Nat} (short : ns < 200) : Gives (.pfsAlarm l ns) s fun d => d = s.dev :=
  gives_of_next (exec_pfsAlarm l ns s) (if_pos (by simp [short])) rfl

theorem pfsAlarm_asserted {ns : Nat} (low : s.dev.sec.lines.contains l.val = false) (long : 200 ≤ ns) :
    Gives (.pfsAlarm l ns) s fun d => d.sec.lines = s.dev.sec.lines ++ [l.val] ∧
      (Tab.get? s.dev.sec.lineLow l.val = none → d.sec.raised = s.dev.sec.raised ++ [(BitVec.ofNat 8 (l.val + 1), 0)]) ∧
      ∀ t, Tab.get? s.dev.sec.lineLow l.val = some t → d.sec.raised =
        if (s.dev.clk.hlc0 - t).toNat < 100000 then s.dev.sec.raised else s.dev.sec.raised ++ [(BitVec.ofNat 8 (l.val + 1), 0)] := by
  have asserts : ¬ (decide (ns < 200) || s.dev.sec.lines.contains l.val) = true := by
    rw [low, Bool.or_false, decide_eq_true_eq]
    omega
  refine gives_of_next (exec_pfsAlarm l ns s) (if_neg asserts) ⟨assertLine_lines .., fun never => ?_, fun t since => ?_⟩
  · rw [assertLine_raised, lineCounts, never]
    rfl
  · rw [assertLine_raised, lineCounts, since]
    by_cases h : (s.dev.clk.hlc0 - t).toNat < 100000
    · rw [if_pos h, if_neg (by simpa using h)]
    · rw [if_neg h, if_pos (by simpa using h)]

theorem pfsAlarm_high {ns : Nat} (high : s.dev.sec.lines.contains l.val = true) : exec (.pfsAlarm l ns) s = .next s := by
  rw [exec_pfsAlarm, high, Bool.or_true]
  rfl

theorem exec_pfsAlarmDeassert (l : Fin 3) (s : State) : exec (.pfsAlarmDeassert l) s = .next { s with
    dev := if s.dev.sec.lines.contains l.val then s.dev.onSec fun x =>
      { x with lines := x.lines.filter (· != l.val), lineLow := Tab.put x.lineLow l.val s.dev.clk.hlc0 } else s.dev } := rfl

theorem pfsAlarmDeassert_low (low : s.dev.sec.lines.contains l.val = false) : exec (.pfsAlarmDeassert l) s = .next s := by
  rw [exec_pfsAlarmDeassert, low]
  rfl

theorem pfsAlarmDeassert_high (high : s.dev.sec.lines.contains l.val = true) : Gives (.pfsAlarmDeassert l) s fun d =>
    d.sec.lines.contains l.val = false ∧ Tab.get? d.sec.lineLow l.val = some s.dev.clk.hlc0 :=
  gives_of_next (exec_pfsAlarmDeassert l s) (if_pos high) ⟨by simp [Dev.onSec], Tab.get?_put_same ..⟩

end

/-- Settles O58: alarms below A3 and at A3, those that nothing comes of, and the lines and the link of PF-S. -/
theorem alarms : Obligations.Alarms :=
  ⟨fun _ _ x known live powered => ⟨alarm_logged x known live powered, alarm_zeroizes x known live powered⟩,
    fun _ _ x ignored => ⟨alarm_ignored_unraised x ignored, fun _ => alarm_ignored_raised x ignored⟩,
    fun _ _ _ low => ⟨pfsAlarm_short, pfsAlarm_asserted low⟩, fun _ _ _ => ⟨pfsAlarm_high, pfsAlarmDeassert_low⟩,
    fun _ _ => pfsAlarmDeassert_high, fun _ => ⟨_, rfl, rfl, rfl⟩, fun _ => ⟨⟨_, rfl, rfl⟩, ⟨_, rfl, rfl⟩⟩⟩

end Sys2Proof.Machine
end

section
/-! The management bindings, the MCTP endpoint and the I3C target (R480 … R483, R488, R514). -/

namespace Sys2Proof.Machine

open Sys2Proof

/-! ## Requests of the object dictionary -/

/-- A request of a management binding arrives there, whatever row it is. -/
theorem exec_odReq {i : Instr} {b : MgmtBind} {r : OdReq} (h : odReqOf i = some (b, r)) (s : State) :
    exec i s = .next (after s (odArrive i (work s))) := by
  cases i with
  | odRead | odWrite | odDescribe | unitRequestOut | unitRequestIn | ladderDeviceReset | ladderPowerCycle | alarmLevelWrite
  | keySlotQuotaWrite | fabricPackageIdWrite | fabricNoticeGroupHang | fabricNoticePackageLost => rfl
  | _ => cases h

section

variable {i : Instr} {b : MgmtBind} {r : OdReq} {w : Wk} (request : odReqOf i = some (b, r))
include request

theorem odArrive_of_unpowered (powered : w.dev.clk.powered = false) : odArrive i w = w := by
  simp [odArrive, request, powered]

variable (powered : w.dev.clk.powered = true)
include powered

section

variable (down : w.dev.pmUp = false)
include down

theorem odArrive_of_down (h : r.isOut = false ∨ w.dev.sec.level = 3) : odArrive i w = w.on (odAnswer b r.head.1 r.head.2 odBusy []) := by
  rcases h with h | h <;> simp [odArrive, request, powered, down, h]

theorem odArrive_of_out (out : r.isOut = true) (level : w.dev.sec.level ≠ 3) : odArrive i w = r.serve b w := by
  simp [odArrive, request, powered, down, out, level]

end

section

variable (up : w.dev.pmUp = true)
include up

theorem odArrive_of_full (full : 8 ≤ w.dev.outstanding b) : odArrive i w = w.on (odAnswer b r.head.1 r.head.2 odBusy []) := by
  simp [odArrive, request, powered, up, full]

theorem odArrive_of_behind (room : w.dev.outstanding b < 8) (behind : w.dev.od.confirm.isSome = true) :
    odArrive i w = w.on fun d => { d with od := { d.od with waiting := d.od.waiting ++ [i] } } := by
  have := Nat.not_le.2 room
  simp [odArrive, request, powered, up, this, behind]

theorem odArrive_of_free (room : w.dev.outstanding b < 8) (free : w.dev.od.confirm = none) : odArrive i w = r.serve b w := by
  have := Nat.not_le.2 room
  simp [odArrive, request, powered, up, this, free]

end

end

/-! ## The endpoint and the target -/

section

variable {s : State} {b : MgmtBind}

theorem exec_setEndpointId (b : MgmtBind) (e : BitVec 8) (s : State) : exec (.setEndpointId b e) s = .next { s with
    dev :=
      if !s.dev.clk.powered then s.dev
      else if e = 0 ∨ e = 0xFF then s.dev.emit (.mctp b .error)
      else ({ s.dev with od := { s.dev.od with eids := Tab.put s.dev.od.eids (bindNo b) e } }).emit (.mctp b (.endpoint e)) } := rfl

theorem setEndpointId_gives {e : BitVec 8} (powered : s.dev.clk.powered = true) (null : e ≠ 0) (broadcast : e ≠ 0xFF) :
    Gives (.setEndpointId b e) s fun d => Tab.get? d.od.eids (bindNo b) = some e ∧ d.out = s.dev.out ++ [.mctp b (.endpoint e)] :=
  gives_of_next (exec_setEndpointId b e s) ((if_neg (by simp [powered])).trans (if_neg (not_or.2 ⟨null, broadcast⟩)))
    ⟨Tab.get?_put_same .., rfl⟩

theorem setEndpointId_reserved {e : BitVec 8} (powered : s.dev.clk.powered = true) (reserved : e = 0 ∨ e = 0xFF) :
    Gives (.setEndpointId b e) s fun d => d = s.dev.emit (.mctp b .error) := by
  refine gives_of_next (exec_setEndpointId b e s) ?_ rfl
  rw [powered, if_neg (by decide), if_pos reserved]

theorem exec_getEndpointId (b : MgmtBind) (s : State) :
    exec (.getEndpointId b) s = mctpAnswer b (fun d => .endpoint (Tab.getD d.od.eids (bindNo b) 0)) s := rfl

theorem exec_getMctpVersionSupport (b : MgmtBind) (s : State) :
    exec (.getMctpVersionSupport b) s = mctpAnswer b (fun _ => .version 1 3) s := rfl

theorem exec_getMessageTypeSupport (b : MgmtBind) (s : State) :
    exec (.getMessageTypeSupport b) s = mctpAnswer b (fun _ => .types [0x00, 0x05, 0x06, 0x7E]) s := rfl

theorem exec_getVendorDefinedMessageSupport (b : MgmtBind) (s : State) :
    exec (.getVendorDefinedMessageSupport b) s = mctpAnswer b (fun _ => .vendor Config.vendorId) s := rfl

theorem mctpAnswer_gives {i : Instr} {f : Dev → MctpReply} (answers : exec i s = mctpAnswer b f s) (powered : s.dev.clk.powered = true) :
    Gives i s fun d => d = s.dev.emit (.mctp b (f s.dev)) :=
  ⟨_, answers, if_pos powered⟩

theorem mctpAnswer_unpowered {i : Instr} {f : Dev → MctpReply} (answers : exec i s = mctpAnswer b f s)
    (unpowered : s.dev.clk.powered = false) : Gives i s fun d => d = s.dev :=
  ⟨_, answers, if_neg (ne_true_of_eq_false unpowered)⟩

/-- No control message does anything without power. -/
theorem mctpControl_unpowered {e : BitVec 8} (unpowered : s.dev.clk.powered = false) {i : Instr}
    (h : i ∈ [Instr.setEndpointId b e, .getEndpointId b, .getMctpVersionSupport b, .getMessageTypeSupport b,
      .getVendorDefinedMessageSupport b]) : Gives i s fun d => d = s.dev := by
  simp only [List.mem_cons, List.not_mem_nil, or_false] at h
  rcases h with rfl | rfl | rfl | rfl | rfl
  · exact ⟨_, exec_setEndpointId b e s, if_pos (by rw [unpowered]; rfl)⟩
  · exact mctpAnswer_unpowered (exec_getEndpointId b s) unpowered
  · exact mctpAnswer_unpowered (exec_getMctpVersionSupport b s) unpowered
  · exact mctpAnswer_unpowered (exec_getMessageTypeSupport b s) unpowered
  · exact mctpAnswer_unpowered (exec_getVendorDefinedMessageSupport b s) unpowered

theorem exec_i3cAddressAssign (h : I3cAssign) (a : BitVec 7) (s : State) : exec (.i3cAddressAssign h a) s = .next { s with
    dev := if s.dev.clk.powered && s.dev.od.addr.isNone then { s.dev with od := { s.dev.od with addr := some a } } else s.dev } := rfl

theorem i3cAddressAssign_gives (h : I3cAssign) (a : BitVec 7) (powered : s.dev.clk.powered = true) (free : s.dev.od.addr = none) :
    Gives (.i3cAddressAssign h a) s fun d => d.od = { s.dev.od with addr := some a } :=
  gives_of_next (exec_i3cAddressAssign h a s) (if_pos (by rw [powered, free]; rfl)) rfl

theorem i3cAddressAssign_idle (h : I3cAssign) (a : BitVec 7) (idle : s.dev.od.addr.isSome = true ∨ s.dev.clk.powered = false) :
    exec (.i3cAddressAssign h a) s = .next s := by
  rw [exec_i3cAddressAssign, if_neg]
  rcases idle with idle | idle <;> simp [idle, ← Option.isSome_iff_ne_none]

theorem exec_i3cHotJoin (s : State) : exec .i3cHotJoin s = .next { s with
    dev := if s.dev.clk.powered && s.dev.od.addr.isNone && !s.dev.od.hotJoined then
        ({ s.dev with od := { s.dev.od with hotJoined := true } }).emit .hotJoin
      else s.dev } := rfl

theorem i3cHotJoin_gives (powered : s.dev.clk.powered = true) (free : s.dev.od.addr = none) (first : s.dev.od.hotJoined = false) :
    Gives .i3cHotJoin s fun d => d.od.hotJoined = true ∧ d.out = s.dev.out ++ [.hotJoin] :=
  gives_of_next (exec_i3cHotJoin s) (if_pos (by rw [powered, free, first]; rfl)) ⟨rfl, rfl⟩

theorem i3cHotJoin_idle (idle : s.dev.od.hotJoined = true ∨ s.dev.od.addr.isSome = true ∨ s.dev.clk.powered = false) :
    exec .i3cHotJoin s = .next s := by
  have nothing : (s.dev.clk.powered && s.dev.od.addr.isNone && !s.dev.od.hotJoined) = false := by
    rw [← Option.not_isSome]
    rcases idle with idle | idle | idle <;> simp [idle]
  rw [exec_i3cHotJoin, nothing]
  rfl

end

/-- Settles O59: requests of the dictionary by the state of the core that serves them, then the endpoint and the target. -/
theorem managementPath : Obligations.ManagementPath := by
  refine ⟨?unpowered, ?busy, ?out, ?up, fun s b e => setEndpointId_gives, ?control,
    fun s b e i unpowered mem => mctpControl_unpowered unpowered mem,
    fun s => i3cAddressAssign_gives, fun s => i3cAddressAssign_idle, fun s => i3cHotJoin_gives, fun s => i3cHotJoin_idle⟩
  case unpowered =>
    intro s i b r request unpowered
    exact gives_of_on (exec_odReq request s) (odArrive_of_unpowered request unpowered) rfl
  case busy =>
    intro s i b r request powered down h
    exact gives_of_on (exec_odReq request s) (odArrive_of_down request powered down h) rfl
  case out =>
    intro s i b r request powered down out level
    exact next_after_of_eq (exec_odReq request s) (odArrive_of_out request powered down out level)
  case up =>
    intro s i b r request powered up
    exact ⟨fun room free => next_after_of_eq (exec_odReq request s) (odArrive_of_free request powered up room free),
      fun room behind => gives_of_on (exec_odReq request s) (odArrive_of_behind request powered up room behind) rfl,
      fun full => gives_of_on (exec_odReq request s) (odArrive_of_full request powered up full) rfl⟩
  case control =>
    intro s b powered
    exact ⟨setEndpointId_reserved powered (.inl rfl), setEndpointId_reserved powered (.inr rfl),
      mctpAnswer_gives (exec_getEndpointId b s) powered, mctpAnswer_gives (exec_getMctpVersionSupport b s) powered,
      mctpAnswer_gives (exec_getMessageTypeSupport b s) powered, mctpAnswer_gives (exec_getVendorDefinedMessageSupport b s) powered⟩

end Sys2Proof.Machine
end

section
/-! Power bounds, the allocation, rails, energy and phase keys (R444, R446, R447, R452, R508). -/

namespace Sys2Proof.Machine

open Sys2Proof

/-! ## Submissions (R444) -/

theorem bitAt_zero {n : Nat} (w : BitVec n) : bitAt w.toNat 0 = w.getLsbD 0 := by
  rw [BitVec.getLsbD, Nat.testBit_zero, bitAt, pow_zero, Nat.div_one]
  rfl

theorem exec_pwrApply (w : BitVec 32) (s : State) :
    exec (.pwrApply w) s = .next { s with dev := if bitAt w.toNat 0 then submitBounds s.dev else s.dev } := rfl

theorem submitBounds_of_up {d : Dev} (up : d.pmUp = true) : submitBounds d =
    (d.pwr.subs ++ [d.pwr.pend]).foldl (fun d b => commitBounds b d) (d.onPwr fun p => { p with subs := [] }) :=
  if_neg (ne_true_of_eq_false (congrArg (!·) up))

section

variable {s : State} {w : BitVec 32}

theorem pwrApply_idle (h : w.getLsbD 0 = false) : Gives (.pwrApply w) s fun d => d = s.dev :=
  gives_of_next (exec_pwrApply w s) (if_neg (by rw [bitAt_zero, h]; decide)) rfl

variable (h : w.getLsbD 0 = true)
include h

theorem pwrApply_submits {P : Dev → Prop} (hP : P (submitBounds s.dev)) : Gives (.pwrApply w) s P :=
  gives_of_next (exec_pwrApply w s) (if_pos (by rw [bitAt_zero, h])) hP

theorem pwrApply_down (down : s.dev.pmUp = false) : Gives (.pwrApply w) s fun d =>
    d.pwr = { s.dev.pwr with subs := s.dev.pwr.subs ++ [s.dev.pwr.pend] } :=
  pwrApply_submits h (congrArg Dev.pwr (if_pos (congrArg (!·) down)))

variable (up : s.dev.pmUp = true)
include up

theorem pwrApply_up : Gives (.pwrApply w) s fun d =>
    d = (s.dev.pwr.subs ++ [s.dev.pwr.pend]).foldl (fun d b => commitBounds b d) (s.dev.onPwr fun p => { p with subs := [] }) :=
  pwrApply_submits h (submitBounds_of_up up)

/-- With no submission before it, the pending one alone commits. -/
theorem pwrApply_first {P : Dev → Prop} (first : s.dev.pwr.subs = []) (hP : P (commitBounds s.dev.pwr.pend s.dev)) :
    Gives (.pwrApply w) s P := by
  have same : (s.dev.onPwr fun p => { p with subs := [] }) = s.dev := by
    show { s.dev with pwr := { s.dev.pwr with subs := [] } } = s.dev
    rw [← first]
  refine pwrApply_submits h ?_
  rw [submitBounds_of_up up, first, same]
  exact hP

end

/-! ## The allocation (R446) -/

/-- A share of the spare power is no more than what is wanted above the floor. -/
theorem share_le {spare x ext : Nat} (h : spare ≤ ext) : spare * x / ext ≤ x := by
  rcases Nat.eq_zero_or_pos ext with rfl | pos
  · simp
  · exact Nat.div_le_of_le_mul (Nat.mul_le_mul_right x h)

/-- The shares of the spare power make no more than it. -/
theorem shares_le (spare x y z : Nat) : spare * x / (x + y + z) + spare * y / (x + y + z) + spare * z / (x + y + z) ≤ spare := by
  calc spare * x / (x + y + z) + spare * y / (x + y + z) + spare * z / (x + y + z)
      ≤ (spare * x + spare * y) / (x + y + z) + spare * z / (x + y + z) := Nat.add_le_add_right Nat.div_add_div_le_add_div _
    _ ≤ (spare * x + spare * y + spare * z) / (x + y + z) := Nat.div_add_div_le_add_div
    _ = spare * (x + y + z) / (x + y + z) := by rw [Nat.mul_add, Nat.mul_add]
    _ ≤ spare := Nat.div_le_of_le_mul (Nat.mul_comm ..).le

/-- What an accepted submission promises of floors, ceilings and cap. -/
theorem le_of_ok {b : Bounds} (ok : b.ok = true) : b.floor 0 + b.floor 1 + b.floor 2 + 400 ≤ b.cap.toNat ∧
    b.floor 0 ≤ b.ceil 0 ∧ b.floor 1 ≤ b.ceil 1 ∧ b.floor 2 ≤ b.ceil 2 := by
  simp only [Bounds.ok, Bool.and_eq_true, decide_eq_true_eq, BitVec.le_def] at ok
  simp only [Bounds.floor, Bounds.ceil]
  simp
  omega

/-- What a domain wants: its predicted demand, between its floor and its ceiling. -/
def Bounds.want (b : Bounds) (demand : Nat → Nat) (i : Nat) : Nat := max (b.floor i) (min (demand i) (b.ceil i))

theorem allocate_of_enough {b : Bounds} {demand : Nat → Nat}
    (h : b.want demand 0 + b.want demand 1 + b.want demand 2 ≤ b.cap.toNat - 400) : allocate b demand = b.want demand := if_pos h

theorem allocate_of_short {b : Bounds} {demand : Nat → Nat}
    (h : ¬ b.want demand 0 + b.want demand 1 + b.want demand 2 ≤ b.cap.toNat - 400) (i : Nat) : allocate b demand i =
      b.floor i + (b.cap.toNat - 400 - (b.floor 0 + b.floor 1 + b.floor 2)) * (b.want demand i - b.floor i) /
        ((b.want demand 0 - b.floor 0) + (b.want demand 1 - b.floor 1) + (b.want demand 2 - b.floor 2)) :=
  congrFun (if_neg h) i

theorem floor_le_want (b : Bounds) (demand : Nat → Nat) (i : Nat) : b.floor i ≤ b.want demand i := Nat.le_max_left ..

theorem want_le_ceil {b : Bounds} (demand : Nat → Nat) {i : Nat} (h : b.floor i ≤ b.ceil i) : b.want demand i ≤ b.ceil i :=
  Nat.max_le.2 ⟨h, Nat.min_le_right ..⟩

theorem floor_le_allocate (b : Bounds) (demand : Nat → Nat) (i : Nat) : b.floor i ≤ allocate b demand i := by
  by_cases h : b.want demand 0 + b.want demand 1 + b.want demand 2 ≤ b.cap.toNat - 400
  · rw [allocate_of_enough h]
    exact floor_le_want ..
  · rw [allocate_of_short h]
    exact Nat.le_add_right ..

/-- An allocation is no more than what is wanted. -/
theorem allocate_le_want (b : Bounds) (demand : Nat → Nat) (i : Nat) : allocate b demand i ≤ b.want demand i := by
  have wanted := floor_le_want b demand
  by_cases h : b.want demand 0 + b.want demand 1 + b.want demand 2 ≤ b.cap.toNat - 400
  · rw [allocate_of_enough h]
  · rw [allocate_of_short h]
    have fits : b.cap.toNat - 400 - (b.floor 0 + b.floor 1 + b.floor 2) ≤
        (b.want demand 0 - b.floor 0) + (b.want demand 1 - b.floor 1) + (b.want demand 2 - b.floor 2) := by
      have := wanted 0
      have := wanted 1
      have := wanted 2
      omega
    have := share_le (x := b.want demand i - b.floor i) fits
    have := wanted i
    omega

theorem allocate_sum {b : Bounds} (ok : b.ok = true) (demand : Nat → Nat) :
    allocate b demand 0 + allocate b demand 1 + allocate b demand 2 + 400 ≤ b.cap.toNat := by
  obtain ⟨floors, -⟩ := le_of_ok ok
  by_cases h : b.want demand 0 + b.want demand 1 + b.want demand 2 ≤ b.cap.toNat - 400
  · rw [allocate_of_enough h]
    omega
  · have := shares_le (b.cap.toNat - 400 - (b.floor 0 + b.floor 1 + b.floor 2)) (b.want demand 0 - b.floor 0)
      (b.want demand 1 - b.floor 1) (b.want demand 2 - b.floor 2)
    rw [allocate_of_short h, allocate_of_short h, allocate_of_short h]
    omega

theorem allocate_le_ceil {b : Bounds} (ok : b.ok = true) (demand : Nat → Nat) {i : Nat} (hi : i < 3) : allocate b demand i ≤ b.ceil i := by
  obtain ⟨-, h0, h1, h2⟩ := le_of_ok ok
  refine (allocate_le_want b demand i).trans (want_le_ceil demand ?_)
  match i, hi with
  | 0, _ => exact h0
  | 1, _ => exact h1
  | 2, _ => exact h2

/-- The allocation and the bounds of a device. -/
def Dev.granted (d : Dev) : Tab Nat × Bounds := (d.pwr.alloc, d.pwr.bounds)

theorem setCoreLever_granted (n : Nat) (l : Nat × Nat) (d : Dev) : (setCoreLever n l d).granted = d.granted := by
  unfold setCoreLever
  split <;> rfl

theorem onPwr_granted (f : Pwr → Pwr) (d : Dev) (alloc : (f d.pwr).alloc = d.pwr.alloc) (bounds : (f d.pwr).bounds = d.pwr.bounds) :
    (d.onPwr f).granted = d.granted := by
  rw [Dev.granted, Dev.granted]
  exact congrArg₂ Prod.mk alloc bounds

theorem askVoltage_granted (c : Nat) (d : Dev) : (askVoltage c d).granted = d.granted := by
  unfold askVoltage
  exact onPwr_granted _ d rfl rfl

theorem askVoltages_granted (l : List Nat) (d : Dev) : (l.foldl (fun d c => askVoltage c d) d).granted = d.granted :=
  foldl_keeps Dev.granted (fun e c => askVoltage_granted c e) l d

theorem setLetIns_granted (l : List Nat) (f : Dev → Nat → Nat) (d : Dev) :
    (l.foldl (fun d k => d.onPwr fun p => { p with letIn := Tab.put p.letIn k (f d k) }) d).granted = d.granted :=
  foldl_keeps Dev.granted (fun e _ => onPwr_granted _ e rfl rfl) l d

theorem setLinkDuties_granted (l : List Nat) (f : Dev → Nat → Nat) (d : Dev) :
    (l.foldl (fun d q => d.onPwr fun p => { p with linkDuty := Tab.put p.linkDuty q (f d q) }) d).granted = d.granted :=
  foldl_keeps Dev.granted (fun e _ => onPwr_granted _ e rfl rfl) l d

/-- The levers follow the allocation and leave it. -/
theorem setLevers_granted (d : Dev) : (setLevers d).granted = d.granted := by
  unfold setLevers
  extract_lets a d1 d2 d3
  have cores : d1.granted = d.granted := by
    refine foldl_keeps Dev.granted (fun e n => ?_) (d.sched.cores.map Prod.fst) d
    exact setCoreLever_granted n _ e
  rw [setLinkDuties_granted]
  show d3.granted = _
  rw [setLetIns_granted, askVoltages_granted, cores]

/-- The device with its allocation made, before the levers follow it. -/
def allocated (d : Dev) : Dev :=
  let al := allocate d.pwr.bounds d.demand
  d.onPwr fun p => { p with
    alloc := [(0, al 0 - p.overDraw), (1, al 1), (2, al 2)]
    capLimited := decide (al 0 - p.overDraw < d.demand 0) || decide (al 1 < d.demand 1) || decide (al 2 < d.demand 2) }

theorem doAllocation_of_up {d : Dev} (up : d.pmUp = true) : doAllocation d = setLevers (allocated d) :=
  if_neg (ne_true_of_eq_false (congrArg (!·) up))

theorem doAllocation_granted {d : Dev} (up : d.pmUp = true) : (doAllocation d).granted =
    ([(0, allocate d.pwr.bounds d.demand 0 - d.pwr.overDraw), (1, allocate d.pwr.bounds d.demand 1), (2, allocate d.pwr.bounds d.demand 2)],
      d.pwr.bounds) := by
  rw [doAllocation_of_up up, setLevers_granted]
  rfl

theorem exec_powerAllocation (s : State) : exec .powerAllocation s = .next { s with dev := doAllocation s.dev } := rfl

theorem powerAllocation_gives {s : State} (up : s.dev.pmUp = true) : Gives .powerAllocation s fun d =>
    let b := s.dev.pwr.bounds
    let al := allocate b s.dev.demand
    d.pwr.alloc = [(0, al 0 - s.dev.pwr.overDraw), (1, al 1), (2, al 2)] ∧ d.pwr.bounds = b ∧
    (b.ok = true → al 0 + al 1 + al 2 + 400 ≤ b.cap.toNat ∧ ∀ i, i < 3 → b.floor i ≤ al i ∧ al i ≤ b.ceil i) := by
  have granted := doAllocation_granted up
  exact ⟨_, exec_powerAllocation s, congrArg Prod.fst granted, congrArg Prod.snd granted,
    fun ok => ⟨allocate_sum ok _, fun i hi => ⟨floor_le_allocate _ _ i, allocate_le_ceil ok _ hi⟩⟩⟩

/-! ## Rails (R508) -/

/-- A core takes the clock it waited for, once its rail has the voltage. -/
def riseClock (n : Nat) (d : Dev) : Dev :=
  if (d.core n).wanted = 0 then d else d.onCore n fun k => { k with clock := max k.clock k.wanted, wanted := 0 }

theorem riseClock_core_ne {n m : Nat} (h : m ≠ n) (d : Dev) : (riseClock n d).core m = d.core m := by
  unfold riseClock
  split
  · rfl
  · exact Dev.core_onCore_ne d _ h

theorem riseClock_core_same (n : Nat) (d : Dev) : ((riseClock n d).core n).clock = max (d.core n).clock (d.core n).wanted ∧
    ((riseClock n d).core n).wanted = 0 := by
  unfold riseClock
  split
  next none => exact ⟨by rw [none, Nat.max_zero], none⟩
  · rw [Dev.core_onCore_same]
    exact ⟨rfl, rfl⟩

theorem mem_clusterCores {n c : Nat} (h : n / 68 = c) : n ∈ clusterCores c :=
  List.mem_map.2 ⟨n % 68, List.mem_range.2 (Nat.mod_lt n (by decide)), by omega⟩

/-- Whether a core runs at the clock that core `k` waited for, and waits for none. -/
def Core.risen (k e : Core) : Prop := e.clock = max k.clock k.wanted ∧ e.wanted = 0

/-- A core that has risen, or not yet, is one of the two after another core's turn and after its own. -/
theorem riseClock_keeps {n m : Nat} {k : Core} {d : Dev} (h : d.core n = k ∨ k.risen (d.core n)) :
    (riseClock m d).core n = k ∨ k.risen ((riseClock m d).core n) := by
  by_cases own : n = m
  · subst own
    obtain ⟨clock, wanted⟩ := riseClock_core_same n d
    right
    rcases h with rfl | ⟨hc, hw⟩
    · exact ⟨clock, wanted⟩
    · exact ⟨by rw [clock, hc, hw, Nat.max_zero], wanted⟩
  · rw [riseClock_core_ne own]
    exact h

theorem riseClock_risen {n : Nat} {k : Core} {d : Dev} (h : d.core n = k ∨ k.risen (d.core n)) : k.risen ((riseClock n d).core n) := by
  obtain ⟨clock, wanted⟩ := riseClock_core_same n d
  rcases h with rfl | ⟨hc, hw⟩
  · exact ⟨clock, wanted⟩
  · exact ⟨by rw [clock, hc, hw, Nat.max_zero], wanted⟩

theorem riseClocks_core {n c : Nat} (h : n / 68 = c) (d : Dev) :
    (d.core n).risen (((clusterCores c).foldl (fun d n => riseClock n d) d).core n) :=
  foldl_of_mem (f := fun d n => riseClock n d) (mem_clusterCores h) (fun e => e.core n = d.core n ∨ (d.core n).risen (e.core n))
    (fun e => (d.core n).risen (e.core n)) (fun _ _ => riseClock_keeps) (fun _ => riseClock_risen)
    (fun e m risen => by
      by_cases own : n = m
      · exact own ▸ riseClock_risen (.inr risen)
      · rwa [riseClock_core_ne own]) (.inl rfl)

theorem riseClock_pwr (n : Nat) (d : Dev) : (riseClock n d).pwr = d.pwr := by
  unfold riseClock
  split <;> rfl

/-- A rail that has the voltage asked for, and the clocks that rise with it. -/
def railReached (c mv : Nat) (d : Dev) : Dev :=
  (clusterCores c).foldl (fun d n => riseClock n d)
    (d.onPwr fun p => { p with volts := Tab.put p.volts c mv, request := Tab.del p.request c })

theorem exec_voltageAck (c : Cluster) (s : State) : exec (.voltageAck c) s = .next { s with
    dev := match Tab.get? s.dev.pwr.request c.val with
      | none => s.dev
      | some mv => railReached c.val mv s.dev } := rfl

section

variable {s : State} {c : Cluster}

theorem voltageAck_idle (h : Tab.get? s.dev.pwr.request c.val = none) : exec (.voltageAck c) s = .next s := by
  rw [exec_voltageAck, h]

theorem voltageAck_gives {mv : Nat} (h : Tab.get? s.dev.pwr.request c.val = some mv) : Gives (.voltageAck c) s fun d =>
    Tab.get? d.pwr.volts c.val = some mv ∧ d.pwr.request = Tab.del s.dev.pwr.request c.val ∧
      ∀ n, n / 68 = c.val → (d.core n).clock = max (s.dev.core n).clock (s.dev.core n).wanted ∧ (d.core n).wanted = 0 := by
  have pwr : (railReached c.val mv s.dev).pwr = { s.dev.pwr with
      volts := Tab.put s.dev.pwr.volts c.val mv
      request := Tab.del s.dev.pwr.request c.val } :=
    foldl_keeps Dev.pwr (fun d n => riseClock_pwr n d) (clusterCores c.val) _
  refine gives_of_next (exec_voltageAck c s) (by rw [h]) ⟨?_, congrArg Pwr.request pwr, fun n here => riseClocks_core here _⟩
  rw [pwr]
  exact Tab.get?_put_same ..

end

/-! ## Energy and phase keys (R443, R447, R452) -/

theorem noteOverride_pwr (d : Dev) : ∃ since ticks, (noteOverride d).pwr = { d.pwr with overSince := since, overTicks := ticks } ∧
    since.isSome = d.pwr.overridden := by
  show ∃ since ticks, (match d.pwr.overridden, d.pwr.overSince with
    | true, none => { d.pwr with overSince := some d.clk.hlc1 }
    | false, some t => { d.pwr with overSince := none, overTicks := d.pwr.overTicks + (d.clk.hlc1 - t).toNat }
    | _, _ => d.pwr) = _ ∧ _
  cases acts : d.pwr.overridden <;> cases since : d.pwr.overSince
  · exact ⟨d.pwr.overSince, d.pwr.overTicks, rfl, by rw [since]; rfl⟩
  · exact ⟨none, _, rfl, rfl⟩
  · exact ⟨some d.clk.hlc1, d.pwr.overTicks, rfl, rfl⟩
  next t => exact ⟨d.pwr.overSince, d.pwr.overTicks, rfl, by rw [since]; rfl⟩

theorem noteOverride_spec (d : Dev) : ∃ since ticks, noteOverride d = d.onPwr (fun p => { p with overSince := since, overTicks := ticks }) ∧
    since.isSome = d.pwr.overridden := by
  obtain ⟨since, ticks, pwr, isSome⟩ := noteOverride_pwr d
  exact ⟨since, ticks, congrArg (fun p => { d with pwr := p }) pwr, isSome⟩

theorem noteOverride_est (d : Dev) : (noteOverride d).pwr.est = d.pwr.est := by
  obtain ⟨since, ticks, pwr, -⟩ := noteOverride_pwr d
  rw [pwr]

theorem noteOverride_overDraw (d : Dev) : (noteOverride d).pwr.overDraw = d.pwr.overDraw := by
  obtain ⟨since, ticks, pwr, -⟩ := noteOverride_pwr d
  rw [pwr]

/-- POLICY_OVERRIDDEN follows the actions in force. -/
theorem noteOverride_follows (d : Dev) : (noteOverride d).pwr.overSince.isSome = (noteOverride d).pwr.overridden := by
  obtain ⟨since, ticks, e, isSome⟩ := noteOverride_spec d
  rw [e]
  exact isSome

section

variable {s : State}

theorem exec_powerEstimateTick (s : State) : exec .powerEstimateTick s = .next { s with dev := doEstimate s.dev } := rfl

theorem exec_pfpTelemetry (uj : Nat) (s : State) : exec (.pfpTelemetry uj) s = .next { s with dev := doTelemetry uj s.dev } := rfl

theorem exec_phaseKeyUpdate (s : State) : exec .phaseKeyUpdate s = .next { s with dev := doPhaseKeys s.dev } := rfl

/-- Nothing of the controller happens while its core is down. -/
theorem controller_down (uj : Nat) (down : s.dev.pmUp = false) : exec .powerAllocation s = .next s ∧ exec .powerEstimateTick s = .next s ∧
    exec (.pfpTelemetry uj) s = .next s ∧ exec .phaseKeyUpdate s = .next s := by
  have idle : (!s.dev.pmUp) = true := congrArg (!·) down
  rw [exec_powerAllocation, exec_powerEstimateTick, exec_pfpTelemetry, exec_phaseKeyUpdate, doAllocation, doEstimate, doTelemetry,
    doPhaseKeys, if_pos idle, if_pos idle, if_pos idle, if_pos idle]
  exact ⟨rfl, rfl, rfl, rfl⟩

variable (up : s.dev.pmUp = true)
include up

theorem powerEstimateTick_gives : Gives .powerEstimateTick s fun d => d.draws = s.dev.draws + 1 ∧ d.pwr.bounds = s.dev.pwr.bounds ∧
    let e (i : Nat) : Nat := 4 * Config.powerEstimate s.dev.draws i (Tab.getD s.dev.pwr.gains i 0)
    d.pwr.energy = s.dev.pwr.energy + BitVec.ofNat 64 (e 0 + e 1 + e 2 + 1600) ∧
    ∀ i, i < 3 → Tab.getD d.pwr.est i 0 = Tab.getD s.dev.pwr.est i 0 + e i := by
  refine gives_of_next (exec_powerEstimateTick s) (if_neg (ne_true_of_eq_false (congrArg (!·) up))) ⟨rfl, rfl, rfl, fun i hi => ?_⟩
  match i, hi with
  | 0, _ => rfl
  | 1, _ => rfl
  | 2, _ => rfl

theorem pfpTelemetry_gives (uj : Nat) : Gives (.pfpTelemetry uj) s fun d => d.pwr.est = [] ∧ (0 < d.pwr.overDraw ↔ 17400000 < uj) ∧
    d.pwr.overSince.isSome = d.pwr.overridden := by
  refine gives_of_next (exec_pfpTelemetry uj s) (if_neg (ne_true_of_eq_false (congrArg (!·) up))) ?_
  extract_lets d e sum diff excess d'
  refine ⟨noteOverride_est _, ?_, noteOverride_follows _⟩
  · rw [noteOverride_overDraw]
    show 0 < (if 17400000 < uj then excess + ceilDiv (excess * 5) 100 else 0) ↔ _
    split
    next above =>
      have : 0 < excess := by
        show 0 < (uj - 17400000 + 1000 - 1) / 1000
        omega
      exact ⟨fun _ => above, fun _ => Nat.add_pos_left this _⟩
    next within => exact ⟨fun h => absurd h (Nat.lt_irrefl 0), fun h => absurd h within⟩

theorem phaseKeyUpdate_gives (few : s.dev.pwr.keys.length ≤ 4096) : Gives .phaseKeyUpdate s fun d =>
    d.pwr.keys.length ≤ 4096 ∧ d.pwr.bounds = s.dev.pwr.bounds := by
  refine gives_of_next (exec_phaseKeyUpdate s) (if_neg (ne_true_of_eq_false (congrArg (!·) up))) ?_
  refine List.foldlRecOn _ _ (motive := fun d : Dev => d.pwr.keys.length ≤ 4096 ∧ d.pwr.bounds = s.dev.pwr.bounds) ⟨few, rfl⟩ ?_
  intro d h k _
  exact ⟨List.length_take_le .., h.2⟩

end

/-- Settles O50: submissions, the allocation, rails, energy and phase keys. -/
theorem powerAllocation : Obligations.PowerAllocation := by
  refine ⟨fun s w => pwrApply_idle, fun s w h up first => ⟨fun ok => ?accepted, fun bad => ?refused⟩, fun s w => pwrApply_up,
    fun s w => pwrApply_down, fun s => powerAllocation_gives, fun s uj => controller_down uj, fun s c => voltageAck_idle,
    fun s c mv => voltageAck_gives, fun s up => ⟨powerEstimateTick_gives up, pfpTelemetry_gives up, phaseKeyUpdate_gives up⟩⟩
  case accepted => exact pwrApply_first h up first (if_pos ok)
  case refused => exact pwrApply_first h up first (if_neg (ne_true_of_eq_false bad))

end Sys2Proof.Machine
end

section
/-! Safety actions (R448, R509, R510, Tables 18-4 and 18-5) and idle states (R453 … R456). -/

namespace Sys2Proof.Machine

open Sys2Proof

/-- An entry that a table answers is listed. -/
theorem Tab.mem_of_get? {α : Type} {t : Tab α} {i : Nat} {x : α} (h : Tab.get? t i = some x) : (i, x) ∈ t := by
  induction t with
  | nil => cases h
  | cons p t ih =>
    rw [Tab.get?] at h
    split at h
    next key =>
      cases h
      exact key ▸ List.mem_cons_self
    · exact List.mem_cons_of_mem _ (ih h)

/-! ## POLICY_OVERRIDDEN and the dies -/

theorem noteOverride_overridden (d : Dev) : (noteOverride d).pwr.overridden = d.pwr.overridden := by
  obtain ⟨since, ticks, pwr, -⟩ := noteOverride_pwr d
  rw [pwr]
  rfl

/-- An action in force sets POLICY_OVERRIDDEN. -/
theorem noteOverride_isSome {d : Dev} (h : d.pwr.overridden = true) : (noteOverride d).pwr.overSince.isSome = true := by
  rw [noteOverride_follows, noteOverride_overridden, h]

theorem noteOverride_alerts (d : Dev) : (noteOverride d).pwr.alerts = d.pwr.alerts := by
  obtain ⟨since, ticks, pwr, -⟩ := noteOverride_pwr d
  rw [pwr]

theorem noteOverride_core (d : Dev) : (noteOverride d).core = d.core := rfl

theorem therm_noteOverride (d : Dev) : (noteOverride d).therm = d.therm := by
  obtain ⟨since, ticks, e, -⟩ := noteOverride_spec d
  rw [e]
  rfl

section

variable (d : Dev) (i : Nat) (f : Therm → Therm)

@[simp] theorem therm_onTherm_same : (d.onTherm i f).therm i = f (d.therm i) := by
  rw [Dev.onTherm, therm_noteOverride]
  exact Tab.getD_put_same ..

theorem onTherm_follows : (d.onTherm i f).pwr.overSince.isSome = (d.onTherm i f).pwr.overridden := noteOverride_follows _

/-- A die that throttles or is held sets POLICY_OVERRIDDEN. -/
theorem onTherm_isSome (h : (f (d.therm i)).throttled = true) : (d.onTherm i f).pwr.overSince.isSome = true := by
  refine noteOverride_isSome ?_
  have listed : (i, f (d.therm i)) ∈ Tab.put d.pwr.therm i (f (d.therm i)) := Tab.mem_of_get? (Tab.get?_put_same ..)
  have acts : ((Tab.put d.pwr.therm i (f (d.therm i))).any fun t => t.2.throttled || t.2.critical) = true :=
    List.any_eq_true.2 ⟨_, listed, by rw [h]; rfl⟩
  exact Bool.or_eq_true_iff.2 (.inr acts)

end

/-- The actions in force and the time of POLICY_OVERRIDDEN, which the levers leave as they are. -/
def Dev.actions (d : Dev) : Tab Therm × List Nat × Option (BitVec 64) := (d.pwr.therm, d.pwr.alerts, d.pwr.overSince)

theorem holdCluster_pwr (c : Nat) (d : Dev) : (holdCluster c d).pwr = d.pwr := by
  refine foldl_keeps Dev.pwr (fun d n => ?_) (clusterCores c) d
  simp only
  split <;> rfl

theorem holdDie_actions (t : ThermDie) (d : Dev) : (holdDie t d).actions = d.actions := by
  cases t with
  | cx n => exact congrArg (fun p : Pwr => (p.therm, p.alerts, p.overSince)) ((holdCluster_pwr ..).trans (holdCluster_pwr ..))
  | mc => rfl
  | stack => rfl
  | lx => rfl
  | hb => rfl

theorem therm_holdDie (t : ThermDie) (d : Dev) : (holdDie t d).therm = d.therm :=
  congrArg (fun (p : Tab Therm × List Nat × Option (BitVec 64)) i => Tab.getD p.1 i Therm.reset) (holdDie_actions t d)

theorem overSince_holdDie (t : ThermDie) (d : Dev) : (holdDie t d).pwr.overSince = d.pwr.overSince :=
  congrArg (fun p => p.2.2) (holdDie_actions t d)

/-! ## Temperatures -/

/-- A die's temperature is read. -/
def tempRead (t : ThermDie) (x : Int) (d : Dev) : Dev := d.onTherm (thermNum t) fun y => { y with temp := some x }

theorem therm_tempRead (t : ThermDie) (x : Int) (d : Dev) :
    (tempRead t x d).therm (thermNum t) = { d.therm (thermNum t) with temp := some x } := therm_onTherm_same ..

/-- A die's throttle lever is lowered one step, for the first time. -/
def startThrottle (t : ThermDie) (d : Dev) : Dev :=
  holdDie t (d.onTherm (thermNum t) fun x => { x with throttled := true, steps := 1 })

theorem therm_startThrottle (t : ThermDie) (d : Dev) :
    (startThrottle t d).therm (thermNum t) = { d.therm (thermNum t) with throttled := true, steps := 1 } := by
  rw [startThrottle, therm_holdDie, therm_onTherm_same]

theorem startThrottle_isSome (t : ThermDie) (d : Dev) : (startThrottle t d).pwr.overSince.isSome = true := by
  rw [startThrottle, overSince_holdDie]
  exact onTherm_isSome _ _ _ rfl

theorem therm_startCritical (t : ThermDie) (d : Dev) : (startCritical t d).therm (thermNum t) =
    ⟨(d.therm (thermNum t)).temp, true, true, max (d.therm (thermNum t)).steps 1⟩ := by
  rw [startCritical, therm_holdDie, therm_onTherm_same]

theorem startCritical_isSome (t : ThermDie) (d : Dev) : (startCritical t d).pwr.overSince.isSome = true := by
  rw [startCritical, overSince_holdDie]
  exact onTherm_isSome _ _ _ rfl

section

variable {t : ThermDie} {x : Int} {d : Dev}

theorem stepThrottle_of_idle (h : (d.therm (thermNum t)).throttled = false) : stepThrottle t x d = d := by
  rw [stepThrottle, h]
  rfl

variable (h : (d.therm (thermNum t)).throttled = true)
include h

theorem stepThrottle_of_cool (cool : x ≤ (thermLimits t).1 - 30) :
    stepThrottle t x d = d.onTherm (thermNum t) fun x => { x with throttled := false, steps := 0 } := by
  rw [stepThrottle, h, if_neg (by decide), if_pos cool]

theorem stepThrottle_of_near (warm : (thermLimits t).1 - 30 < x) (within : x ≤ (thermLimits t).1) : stepThrottle t x d = d := by
  rw [stepThrottle, h, if_neg (by decide), if_neg (by omega), if_neg (by omega)]

theorem stepThrottle_of_hot (hot : (thermLimits t).1 < x) :
    stepThrottle t x d = holdDie t (d.onTherm (thermNum t) fun x => { x with steps := x.steps + 1 }) := by
  rw [stepThrottle, h, if_neg (by decide), if_neg (by omega), if_pos hot]

end

theorem therm_stepThrottle_critical (t : ThermDie) (x : Int) (d : Dev) :
    ((stepThrottle t x d).therm (thermNum t)).temp = (d.therm (thermNum t)).temp ∧
    ((stepThrottle t x d).therm (thermNum t)).critical = (d.therm (thermNum t)).critical := by
  unfold stepThrottle
  split
  · exact ⟨rfl, rfl⟩
  split
  · rw [therm_onTherm_same]
    exact ⟨rfl, rfl⟩
  split
  · rw [therm_holdDie, therm_onTherm_same]
    exact ⟨rfl, rfl⟩
  · exact ⟨rfl, rfl⟩

section

variable {s : State} {t : ThermDie} {x : Int}

theorem exec_thermalThrottle (t : ThermDie) (x : Int) (s : State) : exec (.thermalThrottle t x) s = .next { s with
    dev :=
      if x < (thermLimits t).2.1 || ((tempRead t x s.dev).therm (thermNum t)).throttled then tempRead t x s.dev
      else startThrottle t (tempRead t x s.dev) } := rfl

theorem exec_throttleStepTimer (t : ThermDie) (x : Int) (s : State) :
    exec (.throttleStepTimer t x) s = .next { s with dev := stepThrottle t x (tempRead t x s.dev) } := rfl

theorem exec_thermalCritical (t : ThermDie) (x : Int) (s : State) : exec (.thermalCritical t x) s = .next { s with
    dev := if x < (thermLimits t).2.2.1 then tempRead t x s.dev else startCritical t (tempRead t x s.dev) } := rfl

theorem exec_criticalTemperatureRelease (t : ThermDie) (x : Int) (s : State) : exec (.criticalTemperatureRelease t x) s = .next { s with
    dev := if x < (thermLimits t).2.1 then (tempRead t x s.dev).onTherm (thermNum t) fun y => { y with critical := false }
      else tempRead t x s.dev } := rfl

theorem thermalThrottle_read (h : (s.dev.therm (thermNum t)).throttled = true ∨ x < (thermLimits t).2.1) :
    Gives (.thermalThrottle t x) s fun d => d.therm (thermNum t) = { s.dev.therm (thermNum t) with temp := some x } := by
  refine gives_of_next (exec_thermalThrottle t x s) (if_pos ?_) (therm_tempRead t x s.dev)
  rw [therm_tempRead]
  rcases h with h | h <;> simp [h]

theorem thermalThrottle_starts (hot : (thermLimits t).2.1 ≤ x) (first : (s.dev.therm (thermNum t)).throttled = false) :
    Gives (.thermalThrottle t x) s fun d =>
      d.therm (thermNum t) = ⟨some x, true, (s.dev.therm (thermNum t)).critical, 1⟩ ∧ d.pwr.overSince.isSome = true := by
  refine gives_of_next (exec_thermalThrottle t x s) (if_neg ?_) ⟨?_, startThrottle_isSome ..⟩
  · rw [therm_tempRead, first]
    simpa using hot
  · rw [therm_startThrottle, therm_tempRead]

theorem throttleStepTimer_idle (idle : (s.dev.therm (thermNum t)).throttled = false) : Gives (.throttleStepTimer t x) s fun d =>
    d.therm (thermNum t) = { s.dev.therm (thermNum t) with temp := some x } :=
  gives_of_next (exec_throttleStepTimer t x s) (stepThrottle_of_idle (by rw [therm_tempRead, idle])) (therm_tempRead t x s.dev)

section

variable (on : (s.dev.therm (thermNum t)).throttled = true)
include on

theorem throttled_tempRead : ((tempRead t x s.dev).therm (thermNum t)).throttled = true := by rw [therm_tempRead, on]

theorem throttleStepTimer_cool (cool : x ≤ (thermLimits t).1 - 30) : Gives (.throttleStepTimer t x) s fun d =>
    d.therm (thermNum t) = ⟨some x, false, (s.dev.therm (thermNum t)).critical, 0⟩ :=
  gives_of_next (exec_throttleStepTimer t x s) (stepThrottle_of_cool (throttled_tempRead on) cool) (by
    rw [therm_onTherm_same, therm_tempRead])

theorem throttleStepTimer_near (warm : (thermLimits t).1 - 30 < x) (within : x ≤ (thermLimits t).1) :
    Gives (.throttleStepTimer t x) s fun d => d.therm (thermNum t) = { s.dev.therm (thermNum t) with temp := some x } :=
  gives_of_next (exec_throttleStepTimer t x s) (stepThrottle_of_near (throttled_tempRead on) warm within) (therm_tempRead t x s.dev)

theorem throttleStepTimer_hot (hot : (thermLimits t).1 < x) : Gives (.throttleStepTimer t x) s fun d =>
    d.therm (thermNum t) = ⟨some x, true, (s.dev.therm (thermNum t)).critical, (s.dev.therm (thermNum t)).steps + 1⟩ :=
  gives_of_next (exec_throttleStepTimer t x s) (stepThrottle_of_hot (throttled_tempRead on) hot) (by
    rw [therm_holdDie, therm_onTherm_same, therm_tempRead, on])

end

theorem thermalCritical_read (below : x < (thermLimits t).2.2.1) : Gives (.thermalCritical t x) s fun d =>
    d.therm (thermNum t) = { s.dev.therm (thermNum t) with temp := some x } :=
  gives_of_next (exec_thermalCritical t x s) (if_pos below) (therm_tempRead t x s.dev)

theorem thermalCritical_starts (hot : (thermLimits t).2.2.1 ≤ x) : Gives (.thermalCritical t x) s fun d =>
    d.therm (thermNum t) = ⟨some x, true, true, max (s.dev.therm (thermNum t)).steps 1⟩ ∧ d.pwr.overSince.isSome = true :=
  gives_of_next (exec_thermalCritical t x s) (if_neg (Int.not_lt.2 hot))
    ⟨by rw [therm_startCritical, therm_tempRead], startCritical_isSome ..⟩

theorem criticalTemperatureRelease_read (hot : (thermLimits t).2.1 ≤ x) : Gives (.criticalTemperatureRelease t x) s fun d =>
    d.therm (thermNum t) = { s.dev.therm (thermNum t) with temp := some x } :=
  gives_of_next (exec_criticalTemperatureRelease t x s) (if_neg (Int.not_lt.2 hot)) (therm_tempRead t x s.dev)

theorem criticalTemperatureRelease_ends (cool : x < (thermLimits t).2.1) : Gives (.criticalTemperatureRelease t x) s fun d =>
    d.therm (thermNum t) = { s.dev.therm (thermNum t) with
      temp := some x
      critical := false } ∧ d.pwr.overSince.isSome = d.pwr.overridden :=
  gives_of_next (exec_criticalTemperatureRelease t x s) (if_pos cool) ⟨by rw [therm_onTherm_same, therm_tempRead], onTherm_follows ..⟩

end

/-! ## Readouts of the stacks -/

/-- A stack's readout below its throttle temperature ends its critical action. -/
def stackRead (k : Die) (x : Int) (d : Dev) : Dev :=
  if x < 900 then (tempRead (.stack k) x d).onTherm (thermNum (.stack k)) fun y => { y with critical := false } else tempRead (.stack k) x d

theorem therm_stackRead (k : Die) (x : Int) (d : Dev) : (stackRead k x d).therm (48 + k.val) = { d.therm (48 + k.val) with
    temp := some x
    critical := !decide (x < 900) && (d.therm (48 + k.val)).critical } := by
  unfold stackRead
  split
  next cool =>
    refine (therm_onTherm_same ..).trans ?_
    rw [therm_tempRead]
    simp [cool, thermNum]
  next hot =>
    refine (therm_tempRead ..).trans ?_
    simp [hot, thermNum]

theorem doHbmTemp_eq (k : Die) (x : Int) (d : Dev) : doHbmTemp k x d =
    if 950 ≤ x then startCritical (.stack k) (stackRead k x d)
    else if ((stackRead k x d).therm (thermNum (.stack k))).throttled then stepThrottle (.stack k) x (stackRead k x d)
    else if 900 ≤ x then startThrottle (.stack k) (stackRead k x d)
    else stackRead k x d := rfl

/-- What a stack's readout makes of its actions, from the coolest readout to the hottest (Table 18-5). -/
structure StackRead (x : Int) (y : Therm) : Prop where
  temp : y.temp = some x
  throttles : 900 ≤ x → y.throttled = true
  critical : 950 ≤ x → y.critical = true
  released : x < 900 → y.critical = false
  cooled : x ≤ 820 → y.throttled = false

theorem doHbmTemp_stackRead (k : Die) (x : Int) (d : Dev) : StackRead x ((doHbmTemp k x d).therm (48 + k.val)) := by
  have read := therm_stackRead k x d
  rw [doHbmTemp_eq]
  split
  next hot =>
    have held := therm_startCritical (.stack k) (stackRead k x d)
    rw [show thermNum (.stack k) = 48 + k.val from rfl, read] at held
    rw [held]
    exact ⟨rfl, fun _ => rfl, fun _ => rfl, fun cool => by omega, fun cool => by omega⟩
  next below =>
    split
    next on =>
      obtain ⟨temp, critical⟩ := therm_stepThrottle_critical (.stack k) x (stackRead k x d)
      rw [show thermNum (.stack k) = 48 + k.val from rfl, read] at temp critical
      refine ⟨temp, fun hot => ?_, fun hot => absurd hot below, fun cool => by rw [critical]; simp [cool], fun cool => ?_⟩
      · rw [stepThrottle_of_hot on (show 850 < x by omega), therm_holdDie]
        exact (congrArg Therm.throttled (therm_onTherm_same ..)).trans on
      · rw [stepThrottle_of_cool on (show x ≤ 850 - 30 by omega)]
        exact congrArg Therm.throttled (therm_onTherm_same ..)
    next off =>
      split
      next hot =>
        have started := therm_startThrottle (.stack k) (stackRead k x d)
        rw [show thermNum (.stack k) = 48 + k.val from rfl, read] at started
        rw [started]
        exact ⟨rfl, fun _ => rfl, fun hot => absurd hot below, fun cool => by omega, fun cool => by omega⟩
      next cool =>
        refine ⟨by rw [read], fun hot => absurd hot cool, fun hot => absurd hot below, fun cool => by rw [read]; simp [cool],
          fun _ => Bool.not_eq_true _ ▸ off⟩

theorem hbmTempRead_gives (s : State) (k : Die) (x : Int) : Gives (.hbmTempRead k x) s fun d => (d.therm (48 + k.val)).temp = some x ∧
    (900 ≤ x → (d.therm (48 + k.val)).throttled = true) ∧ (950 ≤ x → (d.therm (48 + k.val)).critical = true) ∧
    (x < 900 → (d.therm (48 + k.val)).critical = false) ∧ (x ≤ 820 → (d.therm (48 + k.val)).throttled = false) := by
  obtain ⟨temp, throttles, critical, released, cooled⟩ := doHbmTemp_stackRead k x s.dev
  exact ⟨_, rfl, temp, throttles, critical, released, cooled⟩

/-! ## Current alerts (R509) -/

/-- A core's lever within an alert of its half: 500 MHz, and half matrix duty. -/
theorem coreLever_of_alert {d : Dev} {n : Nat} (alert : d.pwr.alerts.contains (n / 68) = true) (clock duty : Nat) :
    (d.coreLever n clock duty).1 ≤ 20 ∧ (d.coreLever n clock duty).2 ≤ 8 := by
  have listed : n / 68 ∈ d.pwr.alerts := List.contains_iff_mem.1 alert
  have hold : (d.coreHold n).1 = 20 ∧ (d.coreHold n).2 ≤ 8 := by
    simp [Dev.coreHold, listed]
  obtain ⟨hc, hd⟩ := hold
  simp only [Dev.coreLever, lowerLever]
  omega

/-- One core's levers are lowered to what the actions in force leave it. -/
def holdCore (n : Nat) (d : Dev) : Dev :=
  let k := d.core n
  let (clk, duty) := d.coreLever n k.clock k.duty
  if k.powered then d.onCore n fun k => { k with clock := min k.clock clk, duty := min k.duty duty, wanted := min k.wanted clk } else d

theorem holdCluster_eq (c : Nat) (d : Dev) : holdCluster c d = (clusterCores c).foldl (fun d n => holdCore n d) d := rfl

theorem holdCore_pwr (n : Nat) (d : Dev) : (holdCore n d).pwr = d.pwr := by
  unfold holdCore
  simp only
  split <;> rfl

theorem holdCore_core (n m : Nat) (d : Dev) : ((holdCore n d).core m).powered = (d.core m).powered ∧
    ((holdCore n d).core m).clock ≤ (d.core m).clock ∧ ((holdCore n d).core m).duty ≤ (d.core m).duty := by
  unfold holdCore
  simp only
  split
  · by_cases own : m = n
    · rw [own, Dev.core_onCore_same]
      exact ⟨rfl, Nat.min_le_left .., Nat.min_le_left ..⟩
    · rw [Dev.core_onCore_ne _ _ own]
      exact ⟨rfl, Nat.le_refl _, Nat.le_refl _⟩
  · exact ⟨rfl, Nat.le_refl _, Nat.le_refl _⟩

theorem holdCore_of_alert {n : Nat} {d : Dev} (alert : d.pwr.alerts.contains (n / 68) = true) (powered : (d.core n).powered = true) :
    ((holdCore n d).core n).clock ≤ 20 ∧ ((holdCore n d).core n).duty ≤ 8 := by
  obtain ⟨clock, duty⟩ := coreLever_of_alert alert (d.core n).clock (d.core n).duty
  unfold holdCore
  simp only
  rw [if_pos powered, Dev.core_onCore_same]
  exact ⟨(Nat.min_le_right ..).trans clock, (Nat.min_le_right ..).trans duty⟩

theorem holdCluster_of_alert {n c : Nat} {d : Dev} (here : n / 68 = c) (alert : d.pwr.alerts.contains c = true)
    (powered : (d.core n).powered = true) : ((holdCluster c d).core n).clock ≤ 20 ∧ ((holdCluster c d).core n).duty ≤ 8 := by
  rw [holdCluster_eq]
  refine foldl_of_mem (f := fun d n => holdCore n d) (mem_clusterCores here)
    (fun e => e.pwr.alerts.contains c = true ∧ (e.core n).powered = true) (fun e => (e.core n).clock ≤ 20 ∧ (e.core n).duty ≤ 8) ?_ ?_ ?_
    ⟨alert, powered⟩
  · intro e m ⟨alert, powered⟩
    exact ⟨by rw [holdCore_pwr]; exact alert, (holdCore_core m n e).1.trans powered⟩
  · intro e ⟨alert, powered⟩
    exact holdCore_of_alert (by rw [here]; exact alert) powered
  · intro e m ⟨clock, duty⟩
    obtain ⟨-, lower, less⟩ := holdCore_core m n e
    exact ⟨lower.trans clock, less.trans duty⟩

/-- A half with a current alert, before its levers follow. -/
def alerted (c : Nat) (d : Dev) : Dev :=
  noteOverride (d.onPwr fun p => { p with alerts := if p.alerts.contains c then p.alerts else p.alerts ++ [c] })

theorem alerted_alerts (c : Nat) (d : Dev) : (alerted c d).pwr.alerts.contains c = true := by
  rw [alerted, noteOverride_alerts]
  show (if d.pwr.alerts.contains c then d.pwr.alerts else d.pwr.alerts ++ [c]).contains c = true
  split
  next listed => exact listed
  · simp

section

variable {s : State} {c : Cluster}

theorem currentAlert_gives (s : State) (c : Cluster) : Gives (.currentAlert c) s fun d =>
    d.pwr.alerts.contains c.val = true ∧
    d.pwr.overSince.isSome = true ∧ ∀ n, n / 68 = c.val → (s.dev.core n).powered = true → (d.core n).clock ≤ 20 ∧ (d.core n).duty ≤ 8 := by
  have alert := alerted_alerts c.val s.dev
  have acts : (alerted c.val s.dev).pwr.overridden = true := by
    have some : (alerted c.val s.dev).pwr.alerts ≠ [] := List.ne_nil_of_mem (List.contains_iff_mem.1 alert)
    simp [Pwr.overridden, some]
  refine ⟨holdCluster c.val (alerted c.val s.dev), rfl, ?_, ?_, fun n here powered => holdCluster_of_alert here alert powered⟩
  · rw [holdCluster_pwr]
    exact alert
  · rw [holdCluster_pwr]
    exact (noteOverride_follows _).trans acts

theorem exec_currentAlertRelease (c : Cluster) (s : State) : exec (.currentAlertRelease c) s = .next { s with
    dev := if s.dev.pmUp then noteOverride (s.dev.onPwr fun p => { p with alerts := p.alerts.filter (· != c.val) }) else s.dev } := rfl

theorem currentAlertRelease_gives (up : s.dev.pmUp = true) : Gives (.currentAlertRelease c) s fun d =>
    d.pwr.alerts.contains c.val = false ∧ d.pwr.overSince.isSome = d.pwr.overridden := by
  refine gives_of_next (exec_currentAlertRelease c s) (if_pos up) ⟨?_, noteOverride_follows _⟩
  rw [noteOverride_alerts]
  simp [Dev.onPwr]

theorem currentAlertRelease_down (down : s.dev.pmUp = false) : exec (.currentAlertRelease c) s = .next s := by
  rw [exec_currentAlertRelease, down]
  rfl

end

/-! ## Idle states (R453 … R456) -/

/-- Whether an idle core may go as deep as a state: the bound, its reserve, its idle time and its next known event allow it (R454). -/
def Dev.mayIdle (d : Dev) (n s : Nat) : Bool :=
  decide (s ≤ bits d.pwr.bounds.idle.toNat 1 0) && !d.lcReserved n &&
    decide (wakeTicks s ≤ (d.hlc (((d.boundTo .core n).map hubOf).getD (coreHub n)) - (d.core n).idleFrom).toNat) &&
    (match d.knownEvent n with | none => true | some t => decide (4 * wakeTicks s ≤ t))

theorem idleState_eq (d : Dev) (n : Nat) : d.idleState n =
    if (d.core n).idle = 0 then 1 else if d.mayIdle n 3 then 3 else if d.mayIdle n 2 then 2 else 1 := rfl

section

variable {d : Dev} {n : Nat}

theorem mayIdle_allows {st : Nat} (h : d.mayIdle n st = true) : st ≤ bits d.pwr.bounds.idle.toNat 1 0 ∧ d.lcReserved n = false ∧
    ∀ t, d.knownEvent n = some t → 4 * wakeTicks st ≤ t := by
  simp only [Dev.mayIdle, Bool.and_eq_true, decide_eq_true_eq, Bool.not_eq_true'] at h
  obtain ⟨⟨⟨bound, reserve⟩, -⟩, event⟩ := h
  refine ⟨bound, reserve, fun t known => ?_⟩
  rw [known] at event
  exact of_decide_eq_true event

theorem idleState_bounds (d : Dev) (n : Nat) : 1 ≤ d.idleState n ∧ d.idleState n ≤ 3 := by
  rw [idleState_eq]
  split
  · decide
  split
  · decide
  split
  · decide
  · decide

theorem idleState_of_awake (h : (d.core n).idle = 0) : d.idleState n = 1 := by rw [idleState_eq, if_pos h]

theorem mayIdle_idleState (h : 1 < d.idleState n) : d.mayIdle n (d.idleState n) = true := by
  rw [idleState_eq] at h ⊢
  split at h
  · omega
  next asleep =>
    rw [if_neg asleep]
    split at h
    next three => rwa [if_pos three]
    next notThree =>
      rw [if_neg notThree]
      split at h
      next two => rwa [if_pos two]
      · omega

end

/-- A core enters an idle state, which loses its registers where its island is off (Table 18-7). -/
def Core.sleep (st : Nat) (now : BitVec 64) (c : Core) : Core :=
  { c with
    idle := st
    idleFrom := if c.idle = 0 then now else c.idleFrom
    zeroed := c.zeroed && st != 3 }

section

variable {s : State} {n : CoreId}

theorem exec_coreIdleEntry (n : CoreId) (s : State) : exec (.coreIdleEntry n) s = .next { s with
    dev :=
      if !s.dev.coreIdle n.val then s.dev
      else s.dev.onCore n.val (Core.sleep (s.dev.idleState n.val) (s.dev.hlc (((s.dev.boundTo .core n.val).map hubOf).getD (coreHub n.val)))) } := rfl

theorem coreIdleEntry_busy (h : s.dev.coreIdle n.val = false) : Gives (.coreIdleEntry n) s fun d => d = s.dev :=
  gives_of_next (exec_coreIdleEntry n s) (if_pos (congrArg (!·) h)) rfl

theorem coreIdleEntry_gives (h : s.dev.coreIdle n.val = true) : Gives (.coreIdleEntry n) s fun d =>
    1 ≤ (d.core n.val).idle ∧ (d.core n.val).idle ≤ 3 ∧ ((s.dev.core n.val).idle = 0 → (d.core n.val).idle = 1) ∧
    (1 < (d.core n.val).idle → (d.core n.val).idle ≤ bits s.dev.pwr.bounds.idle.toNat 1 0 ∧ s.dev.lcReserved n.val = false ∧
      ∀ t, s.dev.knownEvent n.val = some t → 4 * wakeTicks (d.core n.val).idle ≤ t) ∧
    (d.core n.val).zeroed = ((s.dev.core n.val).zeroed && (d.core n.val).idle != 3) ∧ ∀ k, k ≠ n.val → d.core k = s.dev.core k := by
  refine gives_of_next (exec_coreIdleEntry n s) (if_neg (ne_true_of_eq_false (congrArg (!·) h))) ?_
  rw [Dev.core_onCore_same]
  obtain ⟨least, most⟩ := idleState_bounds s.dev n.val
  exact ⟨least, most, idleState_of_awake, fun deep => mayIdle_allows (mayIdle_idleState deep), rfl,
    fun k other => Dev.core_onCore_ne _ _ other⟩

theorem exec_coreWake (n : CoreId) (s : State) : exec (.coreWake n) s = .next { s with
    dev := if (s.dev.core n.val).idle = 0 then s.dev
      else s.dev.onCore n.val fun c => { c with
        idle := 0
        idleFrom := s.dev.hlc (((s.dev.boundTo .core n.val).map hubOf).getD (coreHub n.val)) } } := rfl

theorem coreWake_gives (s : State) (n : CoreId) : Gives (.coreWake n) s fun d =>
    (d.core n.val).idle = 0 ∧ ∀ k, k ≠ n.val → d.core k = s.dev.core k := by
  by_cases awake : (s.dev.core n.val).idle = 0
  · exact gives_of_next (exec_coreWake n s) (if_pos awake) ⟨awake, fun _ _ => rfl⟩
  · refine gives_of_next (exec_coreWake n s) (if_neg awake) ⟨?_, fun k other => Dev.core_onCore_ne _ _ other⟩
    rw [Dev.core_onCore_same]

end

/-- Settles O51: alerts, temperatures by what they reach, readouts of the stacks, and the idle states of cores and channels. -/
theorem safetyAndIdleStates : Obligations.SafetyAndIdleStates := by
  refine ⟨currentAlert_gives, fun s c => currentAlertRelease_gives, fun s c => currentAlertRelease_down, fun s t x => ?reads,
    fun s t x => ⟨thermalThrottle_starts, fun cool => thermalThrottle_read (.inr cool)⟩,
    fun s t x on => ⟨throttleStepTimer_cool on, throttleStepTimer_near on, throttleStepTimer_hot on⟩,
    fun s t x => ⟨thermalCritical_starts, criticalTemperatureRelease_ends⟩, hbmTempRead_gives, fun s t => ⟨_, rfl, rfl⟩,
    fun s n => coreIdleEntry_gives, fun s n => coreIdleEntry_busy, coreWake_gives, fun s c => ?channel⟩
  case reads =>
    exact ⟨fun on => thermalThrottle_read (.inl on), throttleStepTimer_idle, thermalCritical_read, criticalTemperatureRelease_read⟩
  case channel => exact ⟨fun allowed => ⟨_, rfl, if_pos allowed⟩, fun barred => ⟨_, rfl, if_neg (ne_true_of_eq_false barred)⟩⟩

end Sys2Proof.Machine
end

section
/-! What abandoned attempts and events leave of the firmware's registers, the dredges, the levels of service and the undo journals. -/

namespace Sys2Proof.Machine

open Sys2Proof

/-- The registers of firmware but for its journal. -/
def Fw.registers (f : Fw) : Fw := { f with journal := [], applied := 0, checkpoint := 0 }

/-- The firmware's registers, the dredges, the levels of service and the undo journals of a device. -/
def Dev.office (d : Dev) : Fw × List Dredge × Boot × List Undo := (d.fw.registers, d.dredges, d.boot, d.mc.undo)

theorem Dev.proc_of_office {d e : Dev} (h : d.office = e.office) : d.proc = e.proc := by
  funext p
  exact congrArg (fun o : Fw × List Dredge × Boot × List Undo => Tab.getD o.1.procs p (ProcSt.reset p)) h

/-! ## Events -/

theorem journal_office (kind : Nat) (ws : List Nat) (d : Dev) : (journal kind ws d).office = d.office := by
  unfold journal
  split <;> rfl

theorem signalVec_office (fn i : Nat) (d : Dev) : (signalVec fn i d).office = d.office := by
  obtain ⟨_, _, e, -⟩ := signalVec_spec fn i d
  rw [e]
  rfl

theorem writeEntry_office (fn : Nat) (e : HeldEvent) (d : Dev) : (writeEntry fn e d).office = d.office :=
  journal_office 7 [fn, e.kind] d

theorem postEvent_office (fn kind obj : Nat) (body : List Byte) (d : Dev) : (postEvent fn kind obj body d).office = d.office := by
  unfold postEvent
  simp only
  split
  · rfl
  · exact (signalVec_office ..).trans (writeEntry_office ..)

theorem raiseOd_office (kind obj : Nat) (detail : List Byte) (d : Dev) : (raiseOd kind obj detail d).office = d.office := by
  obtain ⟨_, e⟩ := raiseOd_spec kind obj detail d
  rw [e]
  rfl

theorem announce_office (old d : Dev) : (announce old d).office = d.office := by
  unfold announce
  extract_lets a b e
  have managed : e.office = d.office := by
    show (if _ then postService mgr d else d).office = d.office
    split
    · exact postEvent_office ..
    · rfl
  refine (foldl_keeps Dev.office (fun d v => ?_) _ e).trans managed
  split
  · exact postEvent_office ..
  · rfl

theorem announcing_office (f : Dev → Dev) (d : Dev) : (announcing f d).office = (f d).office := announce_office ..

theorem tellRestart_office (p us : Nat) (d : Dev) : (tellRestart p us d).office = d.office := by
  unfold tellRestart
  extract_lets kind body
  exact foldl_keeps Dev.office (fun d fn => postEvent_office fn 8 p body d) _ d

theorem adRespond_office (fn slot : Nat) (tag : BitVec 32) (st code : Nat) (res : List Byte) (d : Dev) :
    (adRespond fn slot tag st code res d).office = d.office :=
  (signalVec_office ..).trans (journal_office ..)

theorem answerMgr_office (p : DefOp → Bool) (st : Nat) (d : Dev) : (answerMgr p st d).office = d.office := by
  unfold answerMgr
  split
  · exact adRespond_office ..
  · rfl

/-! ## An attempt abandoned for a replay -/

theorem dropFaults_office (v : Nat) (d : Dev) : (dropFaults v d).office = d.office := by
  unfold dropFaults
  extract_lets gone e f back
  have dropped : f.office = e.office := by
    refine foldl_keeps Dev.office (fun d x => ?_) gone e
    exact journal_office _ _ d
  exact dropped

theorem settleFreeze_office (v : Nat) (d : Dev) : (settleFreeze v d).office = d.office := by
  unfold settleFreeze
  split
  · rfl
  · exact (answerMgr_office ..).trans (dropFaults_office v d)

theorem onCur_office (d : Dev) (v q : Nat) (f : Cmd → Cmd) : (d.onCur v q f).office = d.office :=
  show ({ d.onCur v q f with vds := d.vds } : Dev).office = d.office from congrArg Dev.office (onCur_frame d v q f)

theorem raiseClusters_office (i : Nat) (cs : List Nat) (d : Dev) : (raiseClusters i cs d).office = d.office := by
  obtain ⟨_, e⟩ := raiseClusters_spec i cs d
  rw [e]
  rfl

theorem stopRun_office (no : Nat) (d : Dev) : (stopRun no d).office = d.office := by
  unfold stopRun
  split <;> rfl

theorem flushAts_office (d : Dev) : (flushAts d).office = d.office := by
  obtain ⟨_, _, e⟩ := flushAts_spec d
  rw [e]
  rfl

theorem dropWork_office (no : Nat) (d : Dev) : (dropWork no d).office = d.office := flushAts_office _

theorem dropWork_vds (no : Nat) (d : Dev) : (dropWork no d).vds = d.vds := flushAts_vds _

theorem stopRun_vds (no : Nat) (d : Dev) : (stopRun no d).vds = d.vds := by
  unfold stopRun
  split <;> rfl

/-- The current command of a queue, where there is one, is placed again once its attempt is gone. -/
def Dev.replays (d : Dev) (v q : Nat) : Prop := ∀ c, d.cur? v q = some c → c.thenReplay = true

theorem replays_congr {d e : Dev} {v q : Nat} (same : e.vds = d.vds) (h : d.replays v q) : e.replays v q := by
  intro c
  rw [cur?_congr same]
  exact h c

theorem replays_onCur {d : Dev} {v q : Nat} {f : Cmd → Cmd} (h : ∀ c, d.cur? v q = some c → (f c).thenReplay = true) :
    (d.onCur v q f).replays v q := by
  intro c cur
  rw [Dev.cur?_onCur_same] at cur
  obtain ⟨c0, cur0, rfl⟩ := Option.map_eq_some_iff.1 cur
  exact h c0 cur0

theorem placeAgain_office {v q : Nat} {w : Wk} (h : w.dev.replays v q) : (placeAgain v q w).dev.office = w.dev.office := by
  unfold placeAgain
  split
  · rfl
  next c cur =>
    rw [if_pos (h c cur)]
    exact (settleFreeze_office ..).trans (onCur_office ..)

theorem afterAbort_office {v q : Nat} {w : Wk} (h : w.dev.replays v q) : (afterAbort v q w).dev.office = w.dev.office := by
  unfold afterAbort
  split
  · rfl
  next c cur =>
    extract_lets w'
    have freed : w'.dev.office = w.dev.office := dropWork_office c.no w.dev
    split
    · exact (onCur_office ..).trans freed
    · exact (placeAgain_office (replays_congr (dropWork_vds c.no w.dev) h)).trans freed

theorem abortCmd_office {v q : Nat} {w : Wk} (h : w.dev.replays v q) : (abortCmd v q w).dev.office = w.dev.office := by
  unfold abortCmd
  split
  · rfl
  next x queue =>
    split
    · rfl
    next c cur =>
      have current : w.dev.cur? v q = some c := (cur?_of_queue? queue).trans cur
      have again := h c current
      simp only [again, if_true]
      have stopped (f : Cmd → Cmd) : (stopRun c.no ((raiseClusters 2 c.clusters w.dev).onCur v q f)).office = w.dev.office :=
        (stopRun_office ..).trans ((onCur_office ..).trans (raiseClusters_office ..))
      have stays (f : Cmd → Cmd) (keeps : ∀ c, (f c).thenReplay = c.thenReplay) :
          (stopRun c.no ((raiseClusters 2 c.clusters w.dev).onCur v q f)).replays v q :=
        replays_congr (stopRun_vds ..) (replays_onCur fun c0 cur0 => by
          rw [keeps]
          refine replays_congr ?_ h c0 cur0
          obtain ⟨_, e⟩ := raiseClusters_spec 2 c.clusters w.dev
          rw [e])
      split
      · refine (afterAbort_office ?_).trans (stopped _)
        refine stays _ fun _ => ?_
        rfl
      · exact stopped _

/-- An abandoned attempt changes no register of firmware but the journal's, no dredge, no level of service and no undo journal. -/
theorem abandonCmd_office (v q : Nat) (w : Wk) : (abandonCmd v q w).dev.office = w.dev.office := by
  unfold abandonCmd
  refine (abortCmd_office (replays_onCur fun _ _ => rfl)).trans ((onCur_office ..).trans ?_)
  split
  · exact journal_office ..
  · rfl
end Sys2Proof.Machine
end

section
/-! Firmware: load, crash, restart, takeover and journal (R398 … R400, R408 … R412). -/

namespace Sys2Proof.Machine

open Sys2Proof

/-! ## Processors -/

theorem proc_onProcSt_same (d : Dev) (p : Nat) (f : ProcSt → ProcSt) : (d.onProcSt p f).proc p = f (d.proc p) := Tab.getD_put_same ..

theorem proc_onProcSt_ne (d : Dev) {p k : Nat} (f : ProcSt → ProcSt) (h : k ≠ p) : (d.onProcSt p f).proc k = d.proc k :=
  Tab.getD_put_ne _ _ _ h

/-! ## Loading (R398 … R400) -/

theorem exec_fwLoad (w : BitVec 32) (s : State) : exec (.fwLoad w) s = .next { s with dev := doLoad w.toNat s.dev } := rfl

theorem exec_fwImageReadDone (image : Option (List Byte)) (s : State) :
    exec (.fwImageReadDone image) s = .next { s with dev := announcing (doImage image) s.dev } := rfl

section

variable {s : State} {w : BitVec 32}

theorem fwLoad_gives (load : bitAt w.toNat 0 = true) (powered : s.dev.clk.powered = true) (live : s.dev.sec.level ≠ 3)
    (waits : s.dev.fw.state = 0 ∨ s.dev.fw.state = 3) : Gives (.fwLoad w) s fun d => d.fw = { s.dev.fw with
      state := 1
      reason := 0 } ∧ d.out = s.dev.out ++ [.imageRead s.dev.fw.addr.toNat s.dev.fw.len.toNat] := by
  refine gives_of_next (exec_fwLoad w s) (if_neg ?_) ⟨rfl, rfl⟩
  rcases waits with h | h <;> simp [load, powered, live, h]

theorem fwLoad_idle (h : bitAt w.toNat 0 = false ∨ s.dev.clk.powered = false ∨ s.dev.sec.level = 3 ∨
    (s.dev.fw.state ≠ 0 ∧ s.dev.fw.state ≠ 3)) : exec (.fwLoad w) s = .next s := by
  have idle : doLoad w.toNat s.dev = s.dev := by
    refine if_pos ?_
    rcases h with h | h | h | ⟨h, h'⟩
    · simp [h]
    · simp [h]
    · simp [h]
    · simp [h, h']
  rw [exec_fwLoad, idle]

theorem fwImageReadDone_idle {image : Option (List Byte)} (h : s.dev.fw.state ≠ 1 ∨ s.dev.secUp = false) :
    exec (.fwImageReadDone image) s = .next s := by
  have idle : doImage image s.dev = s.dev := by
    refine if_pos ?_
    rcases h with h | h <;> simp [h]
  rw [exec_fwImageReadDone, announcing, idle, announce_self]

end

theorem imageRefusal_cases : imageRefusal none = some 4 ∧ ∀ bs, (imageFormatOk bs = false → imageRefusal (some bs) = some 1) ∧
    (imageFormatOk bs = true → imageSigned (bs.take (imageLength bs)) = false → imageRefusal (some bs) = some 2) ∧
    (imageFormatOk bs = true → imageSigned (bs.take (imageLength bs)) = true → fieldLe bs 8 4 < Config.svnFloor →
      imageRefusal (some bs) = some 3) := by
  refine ⟨rfl, fun bs => ⟨fun format => ?_, fun format signed => ?_, fun format signed old => ?_⟩⟩
  · simp [imageRefusal, format]
  · simp [imageRefusal, format, signed]
  · simp [imageRefusal, format, signed, old]

/-- The office and the security state of a device. -/
def Dev.command (d : Dev) : (Fw × List Dredge × Boot × List Undo) × Sec := (d.office, d.sec)

theorem enterPort_command (p st : Nat) (d : Dev) : (enterPort p st d).command = d.command := by
  obtain ⟨_, e⟩ := raiseOd_spec 1 p (natLe 1 st) (raiseSrc (portHub p) (0x141 + p) (d.onPort p fun x => { x with state := st }))
  rw [enterPort, e]
  rfl

/-- What a scheduler core's taking of its role leaves of the registers of firmware, and of the rest of the office. -/
theorem takeRole_command (d : Dev) : ∃ activeB standby copies area active, (takeRole d).command =
    (({ d.fw.registers with
        activeB := activeB
        standbyReady := standby
        copies := copies
        area := area }, d.dredges, { d.boot with active := active }, d.mc.undo), d.sec) := by
  unfold takeRole
  extract_lets ready e e'
  split
  · exact ⟨d.fw.activeB, d.fw.standbyReady, d.fw.copies, d.fw.area, d.boot.active, rfl⟩
  · have admitted : (e.fw, e.dredges, e.boot, e.mc.undo, e.sec) = (d.fw, d.dredges, d.boot, d.mc.undo, d.sec) := by
      refine foldl_keeps (fun d : Dev => (d.fw, d.dredges, d.boot, d.mc.undo, d.sec)) (fun d c => ?_) ready d
      rfl
    simp only [Prod.mk.injEq] at admitted
    obtain ⟨fw, dredges, boot, undo, sec⟩ := admitted
    refine ⟨false, (e.proc 3).up, twoStacks ready [], twoStacks ready [], true, ?_⟩
    rw [foldl_keeps Dev.command (fun e p => enterPort_command p 2 e)]
    show ((Fw.registers { e.fw with
      activeB := false
      standbyReady := (e.proc 3).up
      copies := twoStacks ready []
      area := twoStacks ready [] }, e.dredges, { e.boot with active := true }, e.mc.undo), e.sec) = _
    rw [fw, dredges, boot, undo, sec]
    rfl

/-- The processors of an image that runs leave reset. -/
def procsUp (l : List Nat) (d : Dev) : Dev := l.foldl (fun d p => d.onProcSt p fun x => ⟨true, x.crashes, false, false⟩) d

theorem procsUp_up {l : List Nat} {p : Nat} (h : p ∈ l) (d : Dev) : ((procsUp l d).proc p).up = true := by
  refine foldl_of_mem (f := fun (d : Dev) p => d.onProcSt p fun x => ⟨true, x.crashes, false, false⟩) h (fun _ => True)
    (fun d => (d.proc p).up = true) (fun _ _ _ => trivial) ?_ ?_ trivial
  · intro d _
    rw [proc_onProcSt_same]
  · intro d k up
    by_cases own : p = k
    · rw [own, proc_onProcSt_same]
    · rwa [proc_onProcSt_ne _ _ own]

theorem procsUp_frame (l : List Nat) (d : Dev) : ∃ procs, procsUp l d = { d with fw := { d.fw with procs := procs } } := by
  refine List.foldlRecOn l _ (motive := fun e : Dev => ∃ procs, e = { d with fw := { d.fw with procs := procs } }) ⟨d.fw.procs, rfl⟩ ?_
  rintro _ ⟨procs, rfl⟩ p -
  exact ⟨_, rfl⟩

/-- The cores that have no power begin their self-tests. -/
def coresTest (l : List Nat) (d : Dev) : Dev := l.foldl (fun d n => if (d.core n).state == .unpowered then powerCore n .testing d else d) d

theorem coresTest_frame (l : List Nat) (d : Dev) : ∃ x, coresTest l d = { d with sched := x } := by
  refine List.foldlRecOn l _ (motive := fun e : Dev => ∃ x, e = { d with sched := x }) ⟨d.sched, rfl⟩ ?_
  rintro _ ⟨x, rfl⟩ n -
  split
  · exact ⟨_, rfl⟩
  · exact ⟨x, rfl⟩

theorem enableSources_frame (d : Dev) : ∃ l, enableSources d = { d with evcs := l } := by
  unfold enableSources
  generalize List.range 34 = l
  refine List.foldlRecOn l _ (motive := fun e : Dev => ∃ l, e = { d with evcs := l }) ⟨d.evcs, rfl⟩ ?_
  rintro _ ⟨l, rfl⟩ c -
  exact ⟨_, rfl⟩

/-- The registers that an image which runs leaves. -/
def imageRegisters (bs : List Byte) (f : Fw) : Fw :=
  { f with
    state := 2
    reason := 0
    offered := BitVec.ofNat 128 (fieldLe bs 0x10 16)
    aclMax := BitVec.ofNat 16 (fieldLe bs 6 2)
    svn := BitVec.ofNat 32 (fieldLe bs 8 4)
    imageLen := BitVec.ofNat 64 (imageLength bs)
    meas := sha3_256 (bs.take (imageLength bs))
    sections := [1, 2, 3, 4].map fun k => match (imageSections bs).find? fun s => s.2.2 == k with
      | some s => sha3_256 ((bs.drop s.1).take s.2.1)
      | none => [] }

/-- What an image that runs brings up, before core A takes its role. -/
def imagePlaced (procs cores : List Nat) (bs : List Byte) (d : Dev) : Dev :=
  let d := (coresTest cores (procsUp procs (d.onFw (imageRegisters bs)))).onSec fun s => { s with attKey := true }
  enableSources { d with boot := { d.boot with calib := 0 } }

theorem imagePlaced_spec (procs cores : List Nat) (bs : List Byte) (d : Dev) : ∃ ps,
    (imagePlaced procs cores bs d).fw = { imageRegisters bs d.fw with procs := ps } ∧ (imagePlaced procs cores bs d).boot.calib = 0 ∧
    (imagePlaced procs cores bs d).sec.attKey = true ∧ ∀ p ∈ procs, ((imagePlaced procs cores bs d).proc p).up = true := by
  obtain ⟨ps, hps⟩ := procsUp_frame procs (d.onFw (imageRegisters bs))
  obtain ⟨x, htest⟩ := coresTest_frame cores (procsUp procs (d.onFw (imageRegisters bs)))
  let e := (coresTest cores (procsUp procs (d.onFw (imageRegisters bs)))).onSec fun s => { s with attKey := true }
  obtain ⟨l, hsources⟩ := enableSources_frame { e with boot := { e.boot with calib := 0 } }
  have placed : imagePlaced procs cores bs d = _ := hsources
  have fw : e.fw = (procsUp procs (d.onFw (imageRegisters bs))).fw := by
    show (coresTest cores (procsUp procs (d.onFw (imageRegisters bs)))).fw = _
    rw [htest]
  rw [placed]
  refine ⟨ps, ?_, rfl, rfl, fun p h => ?_⟩
  · show e.fw = _
    rw [fw, hps]
    rfl
  · show (Tab.getD e.fw.procs p (ProcSt.reset p)).up = true
    rw [fw]
    exact procsUp_up h _

theorem runImage_eq (bs : List Byte) (d : Dev) : runImage bs d = takeRole (imagePlaced (List.range 36) (List.range 2176) bs d) := by
  unfold runImage imagePlaced coresTest procsUp
  generalize List.range 36 = procs
  generalize List.range 2176 = cores
  rfl

/-- An image runs: its registers, the attestation key, the calibration and the processors (R400). -/
structure ImageRuns (bs : List Byte) (e : Dev) : Prop where
  state : e.fw.state = 2
  key : e.sec.attKey = true
  calib : e.boot.calib = 0
  up : ∀ p, p < 36 → (e.proc p).up = true
  svn : e.fw.svn = BitVec.ofNat 32 (fieldLe bs 8 4)
  aclMax : e.fw.aclMax = BitVec.ofNat 16 (fieldLe bs 6 2)

theorem imagePlaced_takeRole {procs : List Nat} (all : ∀ p, p < 36 → p ∈ procs) (cores : List Nat) (bs : List Byte) (d : Dev) :
    ImageRuns bs (takeRole (imagePlaced procs cores bs d)) := by
  obtain ⟨ps, fw, calib, key, up⟩ := imagePlaced_spec procs cores bs d
  obtain ⟨activeB, standby, copies, area, active, command⟩ := takeRole_command (imagePlaced procs cores bs d)
  simp only [Dev.command, Dev.office, Prod.mk.injEq] at command
  obtain ⟨⟨registers, -, boot, -⟩, sec⟩ := command
  have same := congrArg Fw.procs registers
  rw [fw] at registers
  exact {
    state := congrArg Fw.state registers
    key := (congrArg Sec.attKey sec).trans key
    calib := (congrArg Boot.calib boot).trans calib
    up := fun p h => (congrArg (fun t => (Tab.getD t p (ProcSt.reset p)).up) same).trans (up p (all p h))
    svn := congrArg Fw.svn registers
    aclMax := congrArg Fw.aclMax registers }

theorem runImage_runs (bs : List Byte) (d : Dev) : ImageRuns bs (runImage bs d) :=
  runImage_eq bs d ▸ imagePlaced_takeRole (fun _ h => List.mem_range.2 h) (List.range 2176) bs d

theorem imageRuns_congr {bs : List Byte} {d e : Dev} (office : d.office = e.office) (sec : d.sec = e.sec) (h : ImageRuns bs e) :
    ImageRuns bs d where
  state := (congrArg (fun o => o.1.state) office).trans h.state
  key := (congrArg Sec.attKey sec).trans h.key
  calib := (congrArg (fun o => o.2.2.1.calib) office).trans h.calib
  up p hp := by
    rw [Dev.proc_of_office office]
    exact h.up p hp
  svn := (congrArg (fun o => o.1.svn) office).trans h.svn
  aclMax := (congrArg (fun o => o.1.aclMax) office).trans h.aclMax

/-- An announcement leaves the security state as it is. -/
theorem announcing_sec (f : Dev → Dev) (d : Dev) : (announcing f d).sec = (f d).sec := by
  have told := congrArg Dev.sec (announce_told d (f d)).rest
  exact told

theorem fwImageReadDone_gives {s : State} {image : Option (List Byte)} (waits : s.dev.fw.state = 1) (up : s.dev.secUp = true) :
    Gives (.fwImageReadDone image) s fun d => match imageRefusal image with
      | some r => d.fw.state = 3 ∧ d.fw.reason = r ∧ (6, 0) ∈ d.sec.raised
      | none => d.fw.state = 2 ∧ d.sec.attKey = true ∧ d.boot.calib = 0 ∧ (∀ p, p < 36 → (d.proc p).up = true) ∧
        d.fw.svn = BitVec.ofNat 32 (fieldLe (image.getD []) 8 4) ∧ d.fw.aclMax = BitVec.ofNat 16 (fieldLe (image.getD []) 6 2) := by
  have office := announcing_office (doImage image) s.dev
  have sec := announcing_sec (doImage image) s.dev
  have read : doImage image s.dev = match imageRefusal image with
    | some r => raiseAlarm 6 0 (s.dev.onFw fun f => { f with state := 3, reason := r })
    | none => runImage (image.getD []) s.dev := if_neg (by simp [waits, up])
  refine ⟨_, exec_fwImageReadDone image s, ?_⟩
  rw [read] at office sec
  split at read
  next r refused =>
    rw [refused] at office sec
    refine ⟨congrArg (fun o => o.1.state) office, congrArg (fun o => o.1.reason) office, ?_⟩
    rw [sec]
    exact List.mem_append_right _ (List.mem_singleton_self _)
  next accepted =>
    rw [accepted] at office sec
    obtain ⟨state, key, calib, ups, svn, aclMax⟩ := imageRuns_congr office sec (runImage_runs (image.getD []) s.dev)
    exact ⟨state, key, calib, ups, svn, aclMax⟩

/-! ## Crashes (R408) -/

/-- The crashes of a processor within the hour, with the one now. -/
def crashTimes (p : Nat) (d : Dev) : List (BitVec 64) :=
  ((d.proc p).crashes.filter fun t => within (d.hlc (procHub p)) t 3600000000) ++ [d.hlc (procHub p)]

/-- A processor is down. -/
def crashed (p : Nat) (d : Dev) : Dev :=
  let times := crashTimes p d
  let d := raiseSrc 1 0x152 (raiseSrc 0 0x152 (d.onProcSt p fun _ => ⟨false, times, true, false⟩))
  let d := if (p = 1 ∨ p = 3) ∧ p ≠ d.activeProc then d.onFw fun f => { f with standbyReady := false } else d
  if p < 4 then d else dropShadows (fun n _ => n / 68 == p - 4) (d.onSched fun s =>
    { s with binaries := Tab.put s.binaries (p - 4) ((Tab.getD s.binaries (p - 4) []).filter fun b => b.overflow) })

theorem crashed_procs (p : Nat) (d : Dev) : (crashed p d).proc = (d.onProcSt p fun _ => ⟨false, crashTimes p d, true, false⟩).proc := by
  unfold crashed
  extract_lets times e f
  have standby : f.proc = (d.onProcSt p fun _ => ⟨false, times, true, false⟩).proc := by
    show (if _ then e.onFw fun f => { f with standbyReady := false } else e).proc = _
    split <;> rfl
  split
  · exact standby
  · obtain ⟨x, dropped⟩ := dropShadows_spec (fun n _ => n / 68 == p - 4) (f.onSched fun s =>
      { s with binaries := Tab.put s.binaries (p - 4) ((Tab.getD s.binaries (p - 4) []).filter fun b => b.overflow) })
    rw [dropped]
    exact standby

theorem crashed_proc_same (p : Nat) (d : Dev) : (crashed p d).proc p = ⟨false, crashTimes p d, true, false⟩ := by
  rw [crashed_procs, proc_onProcSt_same]

theorem crashed_proc_ne {p k : Nat} (h : k ≠ p) (d : Dev) : (crashed p d).proc k = d.proc k := by
  rw [crashed_procs, proc_onProcSt_ne _ _ h]

section

variable {p : Nat} {w : Wk}

theorem crash_of_idle (h : (w.dev.fw.state ≠ 2 ∧ p ≠ 0) ∨ w.dev.clk.powered = false ∨ w.dev.sec.level = 3 ∨ (w.dev.proc p).up = false) :
    crash p w = w := by
  refine if_pos ?_
  rcases h with ⟨h, h'⟩ | h | h | h
  · simp [h, h']
  · simp [h]
  · simp [h]
  · simp [h]

variable (runs : w.dev.fw.state = 2 ∨ p = 0) (powered : w.dev.clk.powered = true) (live : w.dev.sec.level ≠ 3)
  (up : (w.dev.proc p).up = true)
include runs powered live up

theorem crash_of_running : crash p w =
    (if (p = 1 ∨ p = 3) ∧ ((crashed p w.dev).proc (4 - p)).restarting = true then deviceReset { w with dev := crashed p w.dev }
    else if 3 ≤ (crashTimes p w.dev).length then fallBack p { w with dev := crashed p w.dev } else { w with dev := crashed p w.dev }) := by
  refine if_neg ?_
  rcases runs with h | h <;> simp [h, powered, live, up]
  rw [← h]
  exact up

/-- A crash that is not the third within the hour leaves the processor down, and the others as they are. -/
theorem crash_of_few (few : (crashTimes p w.dev).length < 3) (other : p = 1 ∨ p = 3 → (w.dev.proc (4 - p)).restarting = false) :
    crash p w = w.on (crashed p) := by
  rw [crash_of_running runs powered live up, if_neg ?_, if_neg (Nat.not_le.2 few)]
  · rfl
  · intro ⟨sched, restarting⟩
    rw [crashed_proc_ne (by omega), other sched] at restarting
    cases restarting

end

section

variable {s : State} {p : Proc}

theorem exec_fwWatchdogExpiry (p : Proc) (s : State) : exec (.fwWatchdogExpiry p) s = .next (after s (crash (procNo p) (work s))) := rfl

theorem procNo_security {p : Proc} : procNo p = 0 ↔ p = .security := by
  constructor
  · intro h
    cases p with
    | security => rfl
    | cluster c => exact absurd h (by simp [procNo])
    | _ => cases h
  · rintro rfl
    rfl

theorem fwWatchdogExpiry_gives (runs : s.dev.fw.state = 2 ∨ p = .security) (powered : s.dev.clk.powered = true) (live : s.dev.sec.level ≠ 3)
    (up : (s.dev.proc (procNo p)).up = true) : let now := s.dev.hlc (procHub (procNo p))
    let recent := (s.dev.proc (procNo p)).crashes.filter fun t => within now t 3600000000
    recent.length < 2 → (procNo p = 1 ∨ procNo p = 3 → (s.dev.proc (4 - procNo p)).restarting = false) →
      Gives (.fwWatchdogExpiry p) s fun d => d.proc (procNo p) = ⟨false, recent ++ [now], true, false⟩ ∧
        ∀ k, k ≠ procNo p → d.proc k = s.dev.proc k := by
  intro now recent few other
  have short : (crashTimes (procNo p) s.dev).length < 3 := by
    rw [crashTimes, List.length_append]
    exact Nat.add_lt_add_right few 1
  exact gives_of_on (exec_fwWatchdogExpiry p s) (crash_of_few (w := work s) (runs.imp_right procNo_security.2) powered live up short other)
    ⟨crashed_proc_same .., fun k h => crashed_proc_ne h _⟩

theorem fwWatchdogExpiry_idle (h : (s.dev.fw.state ≠ 2 ∧ p ≠ .security) ∨ s.dev.clk.powered = false ∨ s.dev.sec.level = 3 ∨
    (s.dev.proc (procNo p)).up = false) : exec (.fwWatchdogExpiry p) s = .next s :=
  runMem_of_idle (crash_of_idle (w := work s) (h.imp_left fun h => ⟨h.1, fun no => h.2 (procNo_security.1 no)⟩))

/-- The security core stays down: its source is raised, and its restart goes on. -/
theorem fallBack_security (w : Wk) : fallBack 0 w = w.on fun d => raiseAlarm 7 0 (d.onProcSt 0 fun x => { x with restarting := true }) := rfl

theorem fwWatchdogExpiry_security (powered : s.dev.clk.powered = true) (live : s.dev.sec.level ≠ 3) (up : (s.dev.proc 0).up = true)
    (third : 2 ≤ ((s.dev.proc 0).crashes.filter fun t => within (s.dev.hlc 0) t 3600000000).length) :
    Gives (.fwWatchdogExpiry .security) s fun d => (7, 0) ∈ d.sec.raised ∧ (d.proc 0).up = false ∧ (d.proc 0).restarting = true := by
  have long : 3 ≤ (crashTimes 0 (work s).dev).length := by
    rw [crashTimes, List.length_append]
    exact Nat.add_le_add_right third 1
  have fails : crash 0 (work s) = (work s).on fun d => raiseAlarm 7 0 ((crashed 0 d).onProcSt 0 fun x => { x with restarting := true }) := by
    rw [crash_of_running (.inr rfl) powered live up, if_neg (fun h => by omega), if_pos long, fallBack_security]
    rfl
  have proc : (raiseAlarm 7 0 ((crashed 0 s.dev).onProcSt 0 fun x => { x with restarting := true })).proc 0 =
      { (crashed 0 s.dev).proc 0 with restarting := true } :=
    proc_onProcSt_same (crashed 0 s.dev) 0 fun x => { x with restarting := true }
  refine gives_of_on (exec_fwWatchdogExpiry .security s) fails ⟨List.mem_append_right _ (List.mem_singleton_self _), ?_, ?_⟩
  · rw [show (work s).dev = s.dev from rfl, proc, crashed_proc_same]
  · rw [show (work s).dev = s.dev from rfl, proc]

end

/-! ## Restarts (R412) -/

theorem tellRestart_told (p us : Nat) (d : Dev) : ToldFrom d (tellRestart p us d) := by
  unfold tellRestart
  extract_lets kind body
  exact .foldl (fun d fn => postEvent_told fn 8 p body d) _ d

/-- The functions are told of a restart, unless they were. -/
def restartTold (p us : Nat) (d : Dev) : Dev := if (d.proc p).told then d else tellRestart p us d

theorem restartTold_office (p us : Nat) (d : Dev) : (restartTold p us d).office = d.office := by
  unfold restartTold
  split
  · rfl
  · exact tellRestart_office ..

theorem restartTold_told (p us : Nat) (d : Dev) : ToldFrom d (restartTold p us d) := by
  unfold restartTold
  split
  · exact .refl d
  · exact tellRestart_told ..

/-- A processor whose restart has ended, as its section is the recorded one or not. -/
def restartEnds (p : Nat) (d : Dev) : Dev := d.onProcSt p fun x => { x with restarting := false }

/-- A processor that runs again, before it does what its role asks of it. -/
def procReturns (p : Nat) (d : Dev) : Dev :=
  (bump 10 (restartTold p ((restartEnds p d).outage p) (restartEnds p d))).onProcSt p fun x => { x with up := true, told := true }

theorem procReturns_proc (p : Nat) (d : Dev) : (procReturns p d).proc p = ⟨true, (d.proc p).crashes, false, true⟩ := by
  have ended : (restartEnds p d).proc p = { d.proc p with restarting := false } := proc_onProcSt_same ..
  have told : (bump 10 (restartTold p ((restartEnds p d).outage p) (restartEnds p d))).proc p = (restartEnds p d).proc p :=
    congrFun (Dev.proc_of_office (restartTold_office ..)) p
  rw [procReturns, proc_onProcSt_same, told, ended]

theorem procReturns_mc (p : Nat) (d : Dev) : (procReturns p d).mc = d.mc :=
  (restartTold_told p ((restartEnds p d).outage p) (restartEnds p d)).mc

theorem procReturns_copies (p : Nat) (d : Dev) : (procReturns p d).fw.copies = d.fw.copies :=
  congrArg (fun o => o.1.copies) (restartTold_office p ((restartEnds p d).outage p) (restartEnds p d))

section

variable {p : Nat} {d : Dev}

theorem restartProc_of_idle (ok : Bool) (h : (d.proc p).restarting = false) : restartProc p ok d = d := by
  rw [restartProc, h]
  rfl

variable (h : (d.proc p).restarting = true)
include h

theorem restartProc_of_bad : restartProc p false d = raiseAlarm 6 0 (restartTold p 0xFFFFFFFF (restartEnds p d)) := by
  rw [restartProc, h]
  rfl

/-- A processor whose section is the recorded one does what its role asks of it. -/
theorem restartProc_of_ok : restartProc p true d =
    if p = 0 then serveAll (procReturns p d)
    else if p = 2 then commitSubs ((procReturns p d).onPwr fun x => { x with slow := false })
    else if (p = 1 ∨ p = 3) ∧ p ≠ (procReturns p d).activeProc then
      (procReturns p d).onFw fun f => { f with standbyReady := true, applied := f.journal.length }
    else procReturns p d := by
  rw [restartProc, h]
  rfl

end

theorem commitSubs_frame (d : Dev) : ∃ x, commitSubs d = { d with pwr := x } := by
  unfold commitSubs
  split
  · exact ⟨d.pwr, rfl⟩
  · refine List.foldlRecOn _ _ (motive := fun e : Dev => ∃ x, e = { d with pwr := x }) ⟨_, rfl⟩ ?_
    rintro _ ⟨x, rfl⟩ b -
    exact ⟨_, rfl⟩

/-- A processor other than the security core that has restarted runs, whatever its role; the contents of memory and the copies of the
journal are as they were. -/
theorem restartProc_returns {p : Nat} {d : Dev} (h : (d.proc p).restarting = true) (other : p ≠ 0) :
    (restartProc p true d).proc p = ⟨true, (d.proc p).crashes, false, true⟩ ∧ (restartProc p true d).mc = d.mc ∧
      (restartProc p true d).fw.copies = d.fw.copies := by
  have returned : (procReturns p d).proc p = ⟨true, (d.proc p).crashes, false, true⟩ ∧ (procReturns p d).mc = d.mc ∧
      (procReturns p d).fw.copies = d.fw.copies := ⟨procReturns_proc p d, procReturns_mc p d, procReturns_copies p d⟩
  rw [restartProc_of_ok h, if_neg other]
  generalize procReturns p d = e at returned ⊢
  split
  · obtain ⟨x, committed⟩ := commitSubs_frame (e.onPwr fun x => { x with slow := false })
    rw [committed]
    exact returned
  split
  · exact returned
  · exact returned

/-! ## Takeover (R411) -/

theorem abandonLost_office (w : Wk) : (abandonLost w).dev.office = w.dev.office := by
  unfold abandonLost
  extract_lets lost
  refine foldl_keeps (fun w : Wk => w.dev.office) (fun w e => ?_) lost w
  exact abandonCmd_office e.1 e.2 w

theorem checkCopies_frame (d : Dev) : ∃ copies journal applied checkpoint, checkCopies d = { d with
    fw := { d.fw with
      copies := copies
      journal := journal
      applied := applied
      checkpoint := checkpoint } } := by
  unfold checkCopies renewCopies
  generalize List.range 1024 = l
  split
  · exact ⟨d.fw.copies, d.fw.journal, d.fw.applied, d.fw.checkpoint, rfl⟩
  · exact ⟨_, _, _, _, rfl⟩

/-- The processors and the roles of the scheduler cores. -/
def Dev.roles (d : Dev) : Tab ProcSt × Bool × Bool := (d.fw.procs, d.fw.activeB, d.fw.standbyReady)

theorem Dev.roles_of_office {d e : Dev} (h : d.office = e.office) : d.roles = e.roles :=
  congrArg (fun o : Fw × List Dredge × Boot × List Undo => (o.1.procs, o.1.activeB, o.1.standbyReady)) h

theorem Dev.proc_of_roles {d e : Dev} (h : d.roles = e.roles) : d.proc = e.proc := by
  funext p
  exact congrArg (fun o : Tab ProcSt × Bool × Bool => Tab.getD o.1 p (ProcSt.reset p)) h

/-- With a copy of the journal that can be read, the roles stay as they are. -/
theorem reconcile_roles {w : Wk} (h : ∃ c ∈ w.dev.fw.copies, w.dev.copyUnreadable c = false) : (reconcile w).dev.roles = w.dev.roles := by
  have readable : w.dev.fw.copies.all w.dev.copyUnreadable = false := by
    obtain ⟨c, listed, good⟩ := h
    exact List.all_eq_false.2 ⟨c, listed, by simp [good]⟩
  obtain ⟨copies, journal, applied, checkpoint, renewed⟩ := checkCopies_frame w.dev
  rw [reconcile, readable, Bool.and_false, if_neg (by decide), Dev.roles_of_office (abandonLost_office _)]
  show (checkCopies w.dev).roles = _
  rw [renewed]
  rfl

/-- With no copy that can be read, the device is reset. -/
theorem reconcile_of_unreadable {w : Wk} (active : w.dev.boot.active = true) (h : ∀ c ∈ w.dev.fw.copies, w.dev.copyUnreadable c = true) :
    reconcile w = deviceReset w := if_pos (by rw [active, List.all_eq_true.2 h]; rfl)

section

variable {s : State} {p : Proc} {bs : List Byte}

theorem exec_fwRestart (p : Proc) (bs : List Byte) (s : State) :
    exec (.fwRestart p bs) s = .next (after s (doRestartProc (procNo p) bs (work s))) := rfl

theorem doRestartProc_of_away {p : Nat} {bs : List Byte} {w : Wk} (cluster : 4 ≤ p)
    (none : ∀ c ∈ w.dev.fw.area, (w.dev.chan c).serves = false) : doRestartProc p bs w = w := by
  refine if_pos ?_
  rw [List.any_eq_false.2 fun c listed => by rw [none c listed]; decide, decide_eq_true cluster]
  rfl

theorem doRestartProc_of_near {p : Nat} {w : Wk} (bs : List Byte) (near : p < 4 ∨ ∃ c ∈ w.dev.fw.area, (w.dev.chan c).serves = true) :
    doRestartProc p bs w =
      if p == w.dev.activeProc && (w.dev.proc p).restarting && w.dev.sectionOk p bs then
        reconcile (w.on (announcing (restartProc p (w.dev.sectionOk p bs))))
      else w.on (announcing (restartProc p (w.dev.sectionOk p bs))) := by
  refine if_neg ?_
  rcases near with near | ⟨c, listed, serves⟩
  · rw [decide_eq_false (by omega), Bool.false_and]
    decide
  · rw [List.any_eq_true.2 ⟨c, listed, serves⟩, Bool.not_true, Bool.and_false]
    decide

section

variable {p : Nat} {w : Wk} {bs : List Byte} (near : p < 4 ∨ ∃ c ∈ w.dev.fw.area, (w.dev.chan c).serves = true)
include near

theorem doRestartProc_of_plain (plain : p ≠ w.dev.activeProc ∨ w.dev.sectionOk p bs = false) :
    doRestartProc p bs w = w.on (announcing (restartProc p (w.dev.sectionOk p bs))) := by
  refine (doRestartProc_of_near bs near).trans (if_neg ?_)
  rcases plain with plain | plain
  · rw [beq_eq_false_iff_ne.2 plain, Bool.false_and, Bool.false_and]
    decide
  · rw [plain, Bool.and_false]
    decide

theorem doRestartProc_of_role (role : p = w.dev.activeProc) (restarting : (w.dev.proc p).restarting = true)
    (good : w.dev.sectionOk p bs = true) : doRestartProc p bs w = reconcile (w.on (announcing (restartProc p true))) := by
  rw [doRestartProc_of_near bs near, restarting, good, beq_iff_eq.2 role]
  rfl

end

theorem fwRestart_away {c : Cluster} (none : ∀ k ∈ s.dev.fw.area, (s.dev.chan k).serves = false) :
    exec (.fwRestart (.cluster c) bs) s = .next s :=
  runMem_of_idle (doRestartProc_of_away (w := work s) (Nat.le_add_right 4 c.val) none)

theorem fwRestart_idle (idle : (s.dev.proc (procNo p)).restarting = false) : exec (.fwRestart p bs) s = .next s := by
  refine runMem_of_idle ?_
  have same : announcing (restartProc (procNo p) (s.dev.sectionOk (procNo p) bs)) s.dev = s.dev := by
    rw [announcing, restartProc_of_idle _ idle, announce_self]
  have rest : (work s).on (announcing (restartProc (procNo p) (s.dev.sectionOk (procNo p) bs))) = work s := congrArg (Wk.mk · s.mem []) same
  by_cases near : procNo p < 4 ∨ ∃ c ∈ (work s).dev.fw.area, ((work s).dev.chan c).serves = true
  · rw [doRestartProc_of_near bs near, if_neg]
    · exact rest
    · rw [show ((work s).dev.proc (procNo p)).restarting = false from idle]
      simp
  · rw [not_or, not_lt] at near
    exact doRestartProc_of_away near.1 fun c listed => Bool.not_eq_true _ ▸ fun serves => near.2 ⟨c, listed, serves⟩

theorem exec_fwRestartTimeout (p : Proc) (s : State) : exec (.fwRestartTimeout p) s = .next (after s
    (if ((work s).dev.proc (procNo p)).restarting then fallBack (procNo p) (work s) else work s)) := rfl

theorem fwRestartTimeout_idle (idle : (s.dev.proc (procNo p)).restarting = false) : exec (.fwRestartTimeout p) s = .next s := by
  rw [exec_fwRestartTimeout, if_neg (show ¬ ((work s).dev.proc (procNo p)).restarting = true from ne_true_of_eq_false idle)]
  rfl

section

variable (near : procNo p < 4 ∨ ∃ c ∈ s.dev.fw.area, (s.dev.chan c).serves = true)
include near

/-- A processor that does not take the active role back restarts, and nothing else happens. -/
theorem fwRestart_plain (plain : procNo p ≠ s.dev.activeProc ∨ s.dev.sectionOk (procNo p) bs = false) : exec (.fwRestart p bs) s =
    .next { s with dev := announcing (restartProc (procNo p) (s.dev.sectionOk (procNo p) bs)) s.dev } := by
  rw [exec_fwRestart, doRestartProc_of_plain (w := work s) near plain]
  rfl

variable (restarting : (s.dev.proc (procNo p)).restarting = true)
include restarting

theorem fwRestart_bad (bad : s.dev.sectionOk (procNo p) bs = false) : Gives (.fwRestart p bs) s fun d =>
    (d.proc (procNo p)).restarting = false ∧ (d.proc (procNo p)).up = (s.dev.proc (procNo p)).up ∧ (6, 0) ∈ d.sec.raised := by
  have plain := fwRestart_plain near (.inr bad)
  rw [bad] at plain
  refine ⟨_, plain, ?_⟩
  beta_reduce
  rw [announcing_sec, Dev.proc_of_office (announcing_office ..), restartProc_of_bad restarting]
  have proc : (raiseAlarm 6 0 (restartTold (procNo p) 0xFFFFFFFF (restartEnds (procNo p) s.dev))).proc (procNo p) =
      { s.dev.proc (procNo p) with restarting := false } :=
    (congrFun (Dev.proc_of_office (restartTold_office ..)) _).trans (proc_onProcSt_same ..)
  rw [proc]
  exact ⟨rfl, rfl, List.mem_append_right _ (List.mem_singleton_self _)⟩

theorem fwRestart_returns (good : s.dev.sectionOk (procNo p) bs = true) (other : p ≠ .security)
    (copy : procNo p ≠ s.dev.activeProc ∨ ∃ c ∈ s.dev.fw.copies, s.dev.copyUnreadable c = false) : Completes (.fwRestart p bs) s fun t =>
    (t.dev.proc (procNo p)).restarting = false ∧ (t.dev.proc (procNo p)).up = true ∧ (t.dev.proc (procNo p)).told = true := by
  obtain ⟨proc, mc, copies⟩ := restartProc_returns restarting fun h => other (procNo_security.1 h)
  have office := announcing_office (restartProc (procNo p) true) s.dev
  have back : ((announcing (restartProc (procNo p) true) s.dev).proc (procNo p)) = ⟨true, (s.dev.proc (procNo p)).crashes, false, true⟩ := by
    rw [← proc, Dev.proc_of_office office]
  by_cases role : procNo p = s.dev.activeProc
  · obtain ⟨c, listed, readable⟩ := copy.resolve_left (fun h => h role)
    have sameCopies := (congrArg (fun o => o.1.copies) office).trans copies
    have sameMc := (announce_told s.dev (restartProc (procNo p) true s.dev)).mc.trans mc
    have still : (announcing (restartProc (procNo p) true) s.dev).copyUnreadable c = false := by
      rw [← readable, Dev.copyUnreadable, Dev.copyUnreadable, Dev.chan, Dev.chan, announcing, sameMc]
    refine ⟨_, next_after_of_eq (exec_fwRestart p bs s) (doRestartProc_of_role (w := work s) near role restarting good), ?_⟩
    have roles := reconcile_roles (w := (work s).on (announcing (restartProc (procNo p) true))) ⟨c, sameCopies.symm ▸ listed, still⟩
    have proc := (congrFun (Dev.proc_of_roles roles) (procNo p)).trans back
    exact ⟨congrArg ProcSt.restarting proc, congrArg ProcSt.up proc, congrArg ProcSt.told proc⟩
  · have plain := fwRestart_plain (bs := bs) near (.inl role)
    rw [good] at plain
    exact ⟨_, plain, congrArg ProcSt.restarting back, congrArg ProcSt.up back, congrArg ProcSt.told back⟩

end

end

theorem sectionOk_iff {s : State} (p : Proc) (bs : List Byte) (runs : s.dev.fw.state = 2) :
    s.dev.sectionOk (procNo p) bs = true ↔ s.dev.fw.sections[sectionOf (procNo p)]? = some (sha3_256 bs) := by
  have rom : (procNo p == 0 && s.dev.fw.state != 2) = false := by simp [runs]
  rw [Dev.sectionOk, rom, Bool.false_or, beq_iff_eq]

/-! ## Restarts that are late (Table 16-16) -/

section

variable {s : State}

/-- A restart that is late ends in what its processor falls back to. -/
theorem fwRestartTimeout_late {p : Proc} (late : (s.dev.proc (procNo p)).restarting = true) :
    exec (.fwRestartTimeout p) s = .next (after s (fallBack (procNo p) (work s))) :=
  next_after_of_eq (exec_fwRestartTimeout p s) (if_pos late)

theorem fwRestartTimeout_security (late : (s.dev.proc 0).restarting = true) : Gives (.fwRestartTimeout .security) s fun d =>
    (7, 0) ∈ d.sec.raised ∧ (d.proc 0).restarting = true := by
  refine gives_of_on (fwRestartTimeout_late (p := .security) late) (fallBack_security (work s))
    ⟨List.mem_append_right _ (List.mem_singleton_self _), ?_⟩
  exact congrArg ProcSt.restarting (proc_onProcSt_same s.dev 0 fun x => { x with restarting := true })

/-- The power-management core stays down: the cores run at 500 MHz. -/
def slowed (d : Dev) : Dev :=
  ((d.onProcSt 2 fun x => { x with restarting := true }).onPwr fun x => { x with slow := true }).onSched fun s =>
    { s with cores := s.cores.map fun (i, k) => (i, if k.powered then { k with clock := 20, wanted := 0 } else k) }

theorem fallBack_power (w : Wk) : fallBack 2 w = w.on slowed := rfl

theorem core_slowed (d : Dev) (n : Nat) : (slowed d).core n =
    if (d.core n).powered then { d.core n with clock := 20, wanted := 0 } else d.core n := by
  have cores : (slowed d).sched.cores = d.sched.cores.map fun p => (p.1, if p.2.powered then { p.2 with clock := 20, wanted := 0 } else p.2) := rfl
  rw [Dev.core, cores, Tab.getD, Tab.get?_map (fun _ (k : Core) => if k.powered then { k with clock := 20, wanted := 0 } else k), Dev.core, Tab.getD]
  cases Tab.get? d.sched.cores n <;> rfl

theorem fwRestartTimeout_power (late : (s.dev.proc 2).restarting = true) : Gives (.fwRestartTimeout .power) s fun d =>
    d.pwr.slow = true ∧ ∀ n, (s.dev.core n).powered = true → (d.core n).clock = 20 := by
  refine gives_of_on (fwRestartTimeout_late (p := .power) late) (fallBack_power (work s)) ⟨rfl, fun n powered => ?_⟩
  show ((slowed s.dev).core n).clock = 20
  rw [core_slowed, if_pos powered]

/-- A standby scheduler core stays down: the manager is told. -/
def standbyLost (p : Nat) (d : Dev) : Dev :=
  postEvent mgr 8 p (natLe 1 1 ++ natLe 3 0 ++ natLe 4 0xFFFFFFFF) (d.onProcSt p fun x => { x with restarting := p == 0 || p == 2 })

theorem fallBack_standby {p : Nat} {w : Wk} (sched : p = 1 ∨ p = 3) (standby : p ≠ w.dev.activeProc) :
    fallBack p w = w.on (standbyLost p) := by
  unfold fallBack
  rw [if_neg (by omega), if_neg (by omega), if_pos sched]
  exact if_neg standby

theorem fwRestartTimeout_standby {p : Proc} (sched : procNo p ∈ [1, 3]) (standby : procNo p ≠ s.dev.activeProc)
    (late : (s.dev.proc (procNo p)).restarting = true) : Gives (.fwRestartTimeout p) s fun d =>
      (d.proc (procNo p)).restarting = false ∧ (d.proc (procNo p)).up = (s.dev.proc (procNo p)).up ∧ d.vds = s.dev.vds := by
  have which : procNo p = 1 ∨ procNo p = 3 := by simpa using sched
  have proc : (standbyLost (procNo p) s.dev).proc (procNo p) =
      { s.dev.proc (procNo p) with restarting := procNo p == 0 || procNo p == 2 } :=
    (congrFun (Dev.proc_of_office (postEvent_office ..)) _).trans (proc_onProcSt_same ..)
  have up := congrArg ProcSt.up proc
  refine gives_of_on (fwRestartTimeout_late late) (fallBack_standby (w := work s) which standby)
    ⟨(congrArg ProcSt.restarting proc).trans ?_, up, (postEvent_told ..).vds⟩
  rcases which with h | h <;> rw [h] <;> rfl

end

/-- A device reset that happens leaves the scheduler without its role and READY clear. -/
theorem deviceReset_boot {w : Wk} (powered : w.dev.clk.powered = true) (live : w.dev.sec.level ≠ 3) :
    (deviceReset w).dev.boot.active = false ∧ (deviceReset w).dev.boot.ready = false := by
  have acts : ¬ (!w.dev.clk.powered || w.dev.sec.level == 3) = true := by simp [powered, live]
  rw [deviceReset, if_neg acts]
  split
  · exact ⟨rfl, rfl⟩
  · exact ⟨rfl, rfl⟩

/-! ## A takeover (R411) -/

section

variable {s : State}

/-- The standby takes the active role. -/
def roleSwapped (d : Dev) : Dev := d.onFw fun f => { f with activeB := !f.activeB, standbyReady := false, applied := f.journal.length }

/-- The standby holds the active role, and the functions are told of the other. -/
def takenOver (d : Dev) : Dev :=
  (tellRestart d.activeProc ((roleSwapped d).outage d.activeProc) (roleSwapped d)).onProcSt d.activeProc fun x => { x with told := true }

theorem onProcSt_frame (d : Dev) (p : Nat) (f : ProcSt → ProcSt) : ∃ procs, d.onProcSt p f = { d with fw := { d.fw with procs := procs } } :=
  ⟨_, rfl⟩

theorem takenOver_spec (d : Dev) : (takenOver d).mc = d.mc ∧ (takenOver d).clk = d.clk ∧ (takenOver d).sec = d.sec ∧
    (takenOver d).boot = d.boot ∧ (takenOver d).fw.copies = d.fw.copies ∧ (takenOver d).fw.activeB = (!d.fw.activeB) ∧
    (takenOver d).fw.standbyReady = false := by
  have told := tellRestart_told d.activeProc ((roleSwapped d).outage d.activeProc) (roleSwapped d)
  have office := tellRestart_office d.activeProc ((roleSwapped d).outage d.activeProc) (roleSwapped d)
  unfold takenOver
  generalize tellRestart d.activeProc ((roleSwapped d).outage d.activeProc) (roleSwapped d) = e at told office ⊢
  have clk := congrArg Dev.clk told.rest
  have sec := congrArg Dev.sec told.rest
  exact ⟨told.mc, clk, sec, congrArg (fun o => o.2.2.1) office,
    congrArg (fun o => o.1.copies) office, congrArg (fun o => o.1.activeB) office, congrArg (fun o => o.1.standbyReady) office⟩

theorem dev_on_work (f : Dev → Dev) (s : State) : ((work s).on f).dev = f s.dev := rfl

theorem takenOver_copyUnreadable (d : Dev) : (takenOver d).copyUnreadable = d.copyUnreadable := by
  obtain ⟨mc, -⟩ := takenOver_spec d
  funext c
  rw [Dev.copyUnreadable, Dev.copyUnreadable, Dev.chan, Dev.chan, mc]

theorem exec_schedulerTakeover (s : State) : exec .schedulerTakeover s = .next (after s (doTakeover (work s))) := rfl

theorem schedulerTakeover_idle (h : s.dev.boot.active = false ∨ s.dev.fw.state ≠ 2 ∨ (s.dev.proc s.dev.activeProc).up = true ∨
    s.dev.fw.standbyReady = false) : exec .schedulerTakeover s = .next s := by
  refine runMem_of_idle (if_pos ?_)
  rcases h with h | h | h | h <;> simp [work, h]

variable (active : s.dev.boot.active = true) (runs : s.dev.fw.state = 2) (down : (s.dev.proc s.dev.activeProc).up = false)
  (ready : s.dev.fw.standbyReady = true)
include active runs down ready

theorem schedulerTakeover_taken : exec .schedulerTakeover s = .next (after s (reconcile ((work s).on takenOver))) := by
  refine next_after_of_eq (exec_schedulerTakeover s) (if_neg ?_)
  simp [work, active, runs, down, ready]

theorem schedulerTakeover_gives (copy : ∃ c ∈ s.dev.fw.copies, s.dev.copyUnreadable c = false) : Completes .schedulerTakeover s fun t =>
    t.dev.fw.activeB = !s.dev.fw.activeB ∧ t.dev.fw.standbyReady = false := by
  obtain ⟨-, -, -, -, copies, activeB, standby⟩ := takenOver_spec s.dev
  obtain ⟨c, listed, readable⟩ := copy
  have taken := schedulerTakeover_taken active runs down ready
  have unreadable := takenOver_copyUnreadable s.dev
  rw [← dev_on_work takenOver] at copies activeB standby unreadable
  generalize (work s).on takenOver = w at taken copies activeB standby unreadable
  have roles := reconcile_roles (w := w) ⟨c, copies ▸ listed, unreadable ▸ readable⟩
  simp only [Dev.roles, Prod.mk.injEq, activeB, standby] at roles
  obtain ⟨-, swapped, given⟩ := roles
  exact ⟨_, taken, swapped, given⟩

theorem schedulerTakeover_resets (lost : ∀ c ∈ s.dev.fw.copies, s.dev.copyUnreadable c = true) (powered : s.dev.clk.powered = true)
    (live : s.dev.sec.level ≠ 3) : Completes .schedulerTakeover s fun t => t.dev.boot.active = false ∧ t.dev.boot.ready = false := by
  obtain ⟨-, clk, sec, boot, copies, -⟩ := takenOver_spec s.dev
  have taken := schedulerTakeover_taken active runs down ready
  have unreadable := takenOver_copyUnreadable s.dev
  rw [← dev_on_work takenOver] at clk sec boot copies unreadable
  generalize (work s).on takenOver = w at taken clk sec boot copies unreadable
  have resets : reconcile w = deviceReset w := reconcile_of_unreadable (boot ▸ active) (copies ▸ unreadable ▸ lost)
  exact ⟨_, next_after_of_eq taken resets, deviceReset_boot (clk ▸ powered) (sec ▸ live)⟩

end

/-! ## The journal (R409, R410) -/

section

variable {s : State} {r : List Byte}

theorem exec_journalAppend (r : List Byte) (s : State) : exec (.journalAppend r) s = .next { s with
    dev := if !s.dev.schedUp || r.length ≠ 64 then s.dev else appendJournal r s.dev } := by
  show Host.Outcome.next { s with dev := doJournal r s.dev } = _
  rw [doJournal]

theorem journalAppend_idle (h : s.dev.schedUp = false ∨ r.length ≠ 64) : exec (.journalAppend r) s = .next s := by
  rw [exec_journalAppend, if_pos]
  rcases h with h | h <;> simp [h]

variable (up : s.dev.schedUp = true) (whole : r.length = 64)
include up whole

theorem journalAppend_appends : exec (.journalAppend r) s = .next { s with dev := appendJournal r s.dev } := by
  rw [exec_journalAppend, if_neg]
  simp [up, whole]

theorem journalAppend_grows (room : s.dev.fw.journal.length < 4095) : Gives (.journalAppend r) s fun d =>
    d.fw.journal = s.dev.fw.journal ++ [r] ∧ d.fw.checkpoint = s.dev.fw.checkpoint := by
  have short : ¬ 4096 ≤ (s.dev.fw.journal ++ [r]).length := by
    rw [List.length_append]
    simp
    omega
  exact ⟨_, journalAppend_appends up whole, if_neg short, if_neg short⟩

theorem journalAppend_checkpoint (full : 4095 ≤ s.dev.fw.journal.length) : Gives (.journalAppend r) s fun d =>
    d.fw.journal = [] ∧ d.fw.checkpoint = s.dev.fw.checkpoint + 1 := by
  have long : 4096 ≤ (s.dev.fw.journal ++ [r]).length := by
    rw [List.length_append]
    simp
    omega
  exact ⟨_, journalAppend_appends up whole, if_pos long, if_pos long⟩

end

/-- Settles O54: load and image, crashes, restarts and those that are late, takeover and journal. -/
theorem firmwareControl : Obligations.FirmwareControl := by
  refine ⟨fun s w => fwLoad_gives, fun s w => fwLoad_idle, fun s image => fwImageReadDone_idle, fun s image => fwImageReadDone_gives,
    imageRefusal_cases, fun s p => rfl, fun s p => fwWatchdogExpiry_gives, fun s p => fwWatchdogExpiry_idle,
    fun s => fwWatchdogExpiry_security, fun s p bs restarting near => ?restart, fun s p bs => sectionOk_iff p bs,
    fun s c bs => fwRestart_away, fun s p bs idle => ⟨fwRestart_idle idle, fwRestartTimeout_idle idle⟩, fun s => fwRestartTimeout_security,
    fun s => fwRestartTimeout_power, fun s p => fwRestartTimeout_standby, fun s => schedulerTakeover_gives,
    fun s => schedulerTakeover_resets, fun s => schedulerTakeover_idle, fun s r => journalAppend_idle,
    fun s r up whole => ⟨journalAppend_grows up whole, journalAppend_checkpoint up whole⟩⟩
  case restart =>
    exact ⟨fwRestart_bad near restarting, fwRestart_returns near restarting, fun other => ⟨_, fwRestart_plain near (.inl other), rfl⟩⟩

end Sys2Proof.Machine
end

section
/-! Mailboxes and event controllers (R352 … R354, R357, R359, R360, R362). -/

namespace Sys2Proof.Machine

open Sys2Proof

/-! ## Mailbox channels -/

theorem put_put_same {α : Type} (t : Tab α) (i : Nat) (x y : α) : Tab.put (Tab.put t i x) i y = Tab.put t i y := by
  induction t with
  | nil => simp [Tab.put]
  | cons e t ih =>
    obtain ⟨k, a⟩ := e
    by_cases before : i < k
    · simp [Tab.put, before]
    · by_cases here : i = k
      · simp [Tab.put, here]
      · simp [Tab.put, before, here, ih]

theorem mbxCh_onMbx_same (d : Dev) (c : Nat) (f : Mbx → Mbx) : (d.onMbx c f).mbxCh c = f (d.mbxCh c) := Tab.getD_put_same ..

theorem mbxCh_onMbx_ne (d : Dev) {c k : Nat} (f : Mbx → Mbx) (h : k ≠ c) : (d.onMbx c f).mbxCh k = d.mbxCh k := Tab.getD_put_ne _ _ _ h

theorem onMbx_onMbx (d : Dev) (c : Nat) (f g : Mbx → Mbx) : (d.onMbx c f).onMbx c g = d.onMbx c fun m => g (f m) := by
  show { d with mbx := Tab.put (Tab.put d.mbx c (f (d.mbxCh c))) c (g ((d.onMbx c f).mbxCh c)) } = _
  rw [put_put_same, mbxCh_onMbx_same]
  rfl

theorem onMbx_of_eq {d : Dev} {c : Nat} {f g : Mbx → Mbx} (h : f (d.mbxCh c) = g (d.mbxCh c)) : d.onMbx c f = d.onMbx c g := by
  rw [Dev.onMbx, h]
  rfl

/-- A signal on a vector changes the function's registers and what the device says, and nothing else. -/
theorem signalVec_frame (fn i : Nat) (d : Dev) : ∃ fns out, signalVec fn i d = { d with
    fns := fns
    out := out } := by
  unfold signalVec sendMsix
  extract_lets
  split
  · split
    · exact ⟨_, d.out, rfl⟩
    · exact ⟨_, _, rfl⟩
  · exact ⟨_, d.out, rfl⟩

/-- The signal to one side of a channel changes no channel and no virtual device. -/
theorem mbxSignal_frame (fn : Nat) (irq : BitVec 32) (en : Nat) (d : Dev) :
    (mbxSignal fn irq en d).mbx = d.mbx ∧ (mbxSignal fn irq en d).vds = d.vds ∧ (mbxSignal fn irq en d).notices = d.notices := by
  unfold mbxSignal
  split
  · obtain ⟨fns, out, told⟩ := signalVec_frame fn (bits irq.toNat 13 8) d
    rw [told]
    exact ⟨rfl, rfl, rfl⟩
  · exact ⟨rfl, rfl, rfl⟩

theorem mbxCh_mbxSignal (fn : Nat) (irq : BitVec 32) (en : Nat) (d : Dev) (c : Nat) : (mbxSignal fn irq en d).mbxCh c = d.mbxCh c := by
  rw [Dev.mbxCh, (mbxSignal_frame fn irq en d).1]
  rfl

/-- A channel once the WITHDRAW of a write has acted. -/
def Mbx.withdrawnBy (w : Nat) (m : Mbx) : Mbx := if bitAt w 1 && m.go then { m with go := false, withdrawn := true } else m

/-- The length that a write of `MBX_CTRL` names. -/
def Mbx.setLen (w : Nat) (m : Mbx) : Mbx := { m with len := BitVec.ofNat 5 (bits w 12 8) }

section

variable {s : State} {c : MbxChan} {fn : Nat} (sends : mbxSender c = some fn) (opened : s.dev.barOpen fn = true)
include sends opened

theorem doMbxWithdraw_sent (go : (s.dev.mbxCh (chanNo c)).go = true) :
    doMbxWithdraw c s.dev = s.dev.onMbx (chanNo c) fun m => { m with go := false, withdrawn := true } := by
  simp [doMbxWithdraw, sends, opened, go]

/-- WITHDRAW and the length of one write, in one change of the channel. -/
theorem withdraw_setLen (w : Nat) : (if bitAt w 1 then doMbxWithdraw c s.dev else s.dev).onMbx (chanNo c) (Mbx.setLen w) =
    s.dev.onMbx (chanNo c) fun _ => ((s.dev.mbxCh (chanNo c)).withdrawnBy w).setLen w := by
  by_cases withdraws : bitAt w 1 = true
  · rw [if_pos withdraws]
    cases go : (s.dev.mbxCh (chanNo c)).go with
    | true =>
      rw [doMbxWithdraw_sent sends opened go, onMbx_onMbx]
      exact onMbx_of_eq (by simp [Mbx.withdrawnBy, withdraws, go])
    | false =>
      have idle : doMbxWithdraw c s.dev = s.dev := by simp [doMbxWithdraw, sends, go]
      rw [idle]
      exact onMbx_of_eq (by simp [Mbx.withdrawnBy, go])
  · rw [if_neg withdraws]
    exact onMbx_of_eq (by simp [Mbx.withdrawnBy, withdraws])

/-- What a write of `MBX_CTRL` does, as GO and the channel decide. -/
theorem doMbxCtrl_sent (w : Nat) : let m := ((s.dev.mbxCh (chanNo c)).withdrawnBy w).setLen w
    doMbxCtrl c w s.dev = (if !bitAt w 0 then s.dev.onMbx (chanNo c) fun _ => m
      else if m.go || m.len.toNat < 8 || 16 < m.len.toNat then s.dev.onMbx (chanNo c) fun _ => { m with err := true }
      else mbxSignal (mbxReceiver c) m.irqR 0 (s.dev.onMbx (chanNo c) fun _ => { m with go := true, seq := m.seq + 1 })) := by
  intro m
  have still : (if bitAt w 1 then doMbxWithdraw c s.dev else s.dev).barOpen fn = true := by
    rw [← opened]
    split
    · unfold doMbxWithdraw
      rw [sends]
      dsimp only
      split
      · rfl
      · rfl
    · rfl
  unfold doMbxCtrl doMbxGo
  rw [sends]
  dsimp only
  rw [still]
  simp only [Bool.not_true, Bool.false_eq_true, if_false]
  have placed := withdraw_setLen sends opened w
  unfold Mbx.setLen at placed
  rw [placed, mbxCh_onMbx_same, onMbx_onMbx, onMbx_onMbx]
  rfl

theorem mbxGo_gives (w : BitVec 32) : let m := ((s.dev.mbxCh (chanNo c)).withdrawnBy w.toNat).setLen w.toNat
    Gives (.mbxGo c w) s fun d =>
      (bitAt w.toNat 0 = false → d = s.dev.onMbx (chanNo c) fun _ => m) ∧
      (bitAt w.toNat 0 = true → m.go = false → 8 ≤ m.len.toNat → m.len.toNat ≤ 16 → d.mbxCh (chanNo c) = { m with
        go := true
        seq := m.seq + 1 }) ∧
      (bitAt w.toNat 0 = true → m.go = true ∨ m.len.toNat < 8 ∨ 16 < m.len.toNat → d.mbxCh (chanNo c) = { m with err := true }) ∧
      (∀ k, k ≠ chanNo c → d.mbxCh k = s.dev.mbxCh k) ∧ d.vds = s.dev.vds := by
  intro m
  have done : doMbxCtrl c w.toNat s.dev = _ := doMbxCtrl_sent sends opened w.toNat
  refine ⟨doMbxCtrl c w.toNat s.dev, rfl, ?_⟩
  rw [done]
  refine ⟨fun quiet => if_pos (by simp [quiet]), fun go free short long => ?_, fun go bad => ?_, fun k other => ?_, ?_⟩
  · rw [if_neg (by simp [go]), if_neg (by simp [m, free, short, long]), mbxCh_mbxSignal, mbxCh_onMbx_same]
  · rw [if_neg (by simp [go]), if_pos (by simpa [or_assoc] using bad), mbxCh_onMbx_same]
  · split
    · exact mbxCh_onMbx_ne _ _ other
    · split
      · exact mbxCh_onMbx_ne _ _ other
      · rw [mbxCh_mbxSignal]
        exact mbxCh_onMbx_ne _ _ other
  · split
    · rfl
    · split
      · rfl
      · exact (mbxSignal_frame _ _ _ _).2.1

theorem mbxWithdraw_gives (go : (s.dev.mbxCh (chanNo c)).go = true) : Gives (.mbxWithdraw c) s fun d =>
    d = s.dev.onMbx (chanNo c) fun m => { m with
      go := false
      withdrawn := true } :=
  ⟨_, rfl, doMbxWithdraw_sent sends opened go⟩

end

section

variable {s : State} {c : MbxChan} {w : BitVec 32}

theorem exec_mbxWithdraw (c : MbxChan) (s : State) : exec (.mbxWithdraw c) s = .next { s with dev := doMbxWithdraw c s.dev } := rfl

theorem mbx_closed (shut : ∀ fn, mbxSender c = some fn → s.dev.barOpen fn = false) :
    exec (.mbxGo c w) s = .next s ∧ exec (.mbxWithdraw c) s = .next s := by
  have withdraw : doMbxWithdraw c s.dev = s.dev := by
    unfold doMbxWithdraw
    split
    · rfl
    · next fn sends => simp [shut fn sends]
  have go : doMbxGo c w.toNat s.dev = s.dev := by
    unfold doMbxGo
    split
    · rfl
    · next fn sends => simp [shut fn sends]
  constructor
  · show Host.Outcome.next { s with dev := doMbxCtrl c w.toNat s.dev } = _
    rw [doMbxCtrl, withdraw, ite_self, go]
  · rw [exec_mbxWithdraw, withdraw]

theorem mbxWithdraw_empty (empty : (s.dev.mbxCh (chanNo c)).go = false) : exec (.mbxWithdraw c) s = .next s := by
  have idle : doMbxWithdraw c s.dev = s.dev := by
    unfold doMbxWithdraw
    split
    · rfl
    · simp [empty]
  rw [exec_mbxWithdraw, idle]

theorem exec_mbxDone (c : MbxChan) (w : BitVec 32) (s : State) :
    exec (.mbxDone c w) s = .next { s with dev := doMbxDone c w.toNat s.dev } := rfl

theorem mbxDone_closed (shut : s.dev.barOpen (mbxReceiver c) = false) : exec (.mbxDone c w) s = .next s := by
  have idle : doMbxDone c w.toNat s.dev = s.dev := if_pos (by simp [shut])
  rw [exec_mbxDone, idle]

theorem mbxDone_gives (opened : s.dev.barOpen (mbxReceiver c) = true) : let m := s.dev.mbxCh (chanNo c)
    Gives (.mbxDone c w) s fun d =>
      (m.go = true → m.seq.toNat = bits w.toNat 31 16 → d.mbxCh (chanNo c) = { m with go := false }) ∧
      (m.go = false ∨ m.seq.toNat ≠ bits w.toNat 31 16 → d = s.dev.onMbx (chanNo c) fun m => { m with late := true }) := by
  intro m
  refine ⟨_, exec_mbxDone c w s, fun go named => ?_, fun wrong => ?_⟩
  · unfold doMbxDone
    dsimp only
    rw [if_neg (by simp [opened]), if_pos (by simpa [m] using ⟨go, named⟩)]
    split
    · rw [mbxCh_mbxSignal, mbxCh_onMbx_same]
    · rw [mbxCh_onMbx_same]
  · unfold doMbxDone
    dsimp only
    rw [if_neg (by simp [opened]), if_neg]
    simp only [Bool.and_eq_true, beq_iff_eq]
    rintro ⟨go, named⟩
    rcases wrong with empty | other
    · exact absurd (go.symm.trans empty) (by decide)
    · exact other named

theorem exec_noticeSend (s : State) : exec .noticeSend s = .next { s with dev := doNoticeSend s.dev } := rfl

theorem noticeSend_idle (h : s.dev.notices = [] ∨ (s.dev.mbxCh 512).go = true ∨ s.dev.schedUp = false) :
    exec .noticeSend s = .next s := by
  have idle : doNoticeSend s.dev = s.dev := by
    unfold doNoticeSend
    split
    · rfl
    · next n rest held => rcases h with h | h | h <;> simp_all
  rw [exec_noticeSend, idle]

/-- The words of a notice as its channel holds them: kind and virtual device, count, six of detail. -/
def noticeWords (n : Notice) : List (BitVec 32) :=
  BitVec.ofNat 32 (n.kind + 65536 * n.vdev) :: BitVec.ofNat 32 n.count :: (List.range 6).map fun i => n.detail.getD i 0

/-- The channel once a notice has gone out on it. -/
def Mbx.noticed (n : Notice) (m : Mbx) : Mbx :=
  { m with
    data := (noticeWords n).zipIdx.foldl (fun t e => Tab.put t e.2 e.1) m.data
    len := 8
    go := true
    seq := m.seq + 1 }

theorem noticed_words (n : Notice) (m : Mbx) :
    Tab.get? (m.noticed n).data 0 = some (BitVec.ofNat 32 (n.kind + 65536 * n.vdev)) ∧
    Tab.get? (m.noticed n).data 1 = some (BitVec.ofNat 32 n.count) := by
  simp [Mbx.noticed, noticeWords, List.zipIdx_cons, List.range, List.range.loop, Tab.get?_put_ne]

theorem noticeSend_gives {n : Notice} {rest : List Notice} (held : s.dev.notices = n :: rest) (empty : (s.dev.mbxCh 512).go = false)
    (up : s.dev.schedUp = true) : Gives .noticeSend s fun d => d.notices = rest ∧ (d.mbxCh 512).go = true ∧
      (d.mbxCh 512).seq = (s.dev.mbxCh 512).seq + 1 ∧ (d.mbxCh 512).len = 8 ∧
      Tab.get? (d.mbxCh 512).data 0 = some (BitVec.ofNat 32 (n.kind + 65536 * n.vdev)) ∧
      Tab.get? (d.mbxCh 512).data 1 = some (BitVec.ofNat 32 n.count) := by
  have sent : doNoticeSend s.dev =
      mbxSignal mgr (s.dev.mbxCh 512).irqR 0 (({ s.dev with notices := rest }).onMbx 512 (Mbx.noticed n)) := by
    unfold doNoticeSend
    rw [held]
    exact if_neg (by simp [empty, up])
  obtain ⟨zero, one⟩ := noticed_words n (s.dev.mbxCh 512)
  have ch : (doNoticeSend s.dev).mbxCh 512 = (s.dev.mbxCh 512).noticed n := by
    rw [sent, mbxCh_mbxSignal, mbxCh_onMbx_same]
    rfl
  refine ⟨_, exec_noticeSend s, ?_, ?_⟩
  · rw [sent]
    exact (mbxSignal_frame _ _ _ _).2.2
  · rw [ch]
    exact ⟨rfl, rfl, rfl, zero, one⟩

end

/-! ## Event controllers -/

theorem reroute_src (x : Evc) (i : Nat) : x.reroute.src i = x.src i := rfl

theorem src_setProc (x : Evc) (p : Nat) (y : EvProc) (i : Nat) : (x.setProc p y).src i = x.src i := by
  unfold Evc.setProc
  split <;> rfl

theorem proc_setProc_same (x : Evc) (p : Nat) (y : EvProc) : (x.setProc p y).proc p = y := by
  unfold Evc.setProc Evc.proc
  split <;> rfl

/-- Routing changes of a processor whether it sleeps and what is delivered to it. -/
theorem reroute_proc (x : Evc) (p : Nat) : ∃ asleep given, x.reroute.proc p = { x.proc p with
    asleep := asleep
    given := given } := by
  by_cases zero : p = 0
  · rw [Evc.proc, Evc.proc, if_pos zero, if_pos zero, Evc.reroute]
    dsimp only
    split
    · exact ⟨_, _, rfl⟩
    · exact ⟨_, _, rfl⟩
  · rw [Evc.proc, Evc.proc, if_neg zero, if_neg zero, Evc.reroute]
    dsimp only
    split
    · exact ⟨_, _, rfl⟩
    · exact ⟨_, _, rfl⟩

theorem evc_onProc (c : EvCtl) (p : Nat) (f : EvProc → EvProc) (d : Dev) :
    (onProc c p f d).evc (ctlNo c) = ((d.evc (ctlNo c)).setProc p (f ((d.evc (ctlNo c)).proc p))).reroute := Dev.evc_setEvc_same ..

theorem evc_onProc_ne {c : EvCtl} {k : Nat} (p : Nat) (f : EvProc → EvProc) (d : Dev) (h : k ≠ ctlNo c) :
    (onProc c p f d).evc k = d.evc k := Dev.evc_setEvc_ne _ _ h

theorem src_onProc (c : EvCtl) (p : Nat) (f : EvProc → EvProc) (d : Dev) (i : Nat) :
    ((onProc c p f d).evc (ctlNo c)).src i = (d.evc (ctlNo c)).src i := by
  rw [evc_onProc, reroute_src, src_setProc]

theorem proc_onProc (c : EvCtl) (p : Nat) (f : EvProc → EvProc) (d : Dev) : ∃ asleep given,
    ((onProc c p f d).evc (ctlNo c)).proc p = { f ((d.evc (ctlNo c)).proc p) with
      asleep := asleep
      given := given } := by
  have routed := reroute_proc ((d.evc (ctlNo c)).setProc p (f ((d.evc (ctlNo c)).proc p))) p
  rwa [proc_setProc_same, ← evc_onProc] at routed

section

variable {s : State} {c : EvCtl} {p : Fin 2}

theorem exec_evcClaim (c : EvCtl) (p : Fin 2) (s : State) : exec (.evcClaim c p) s = .next { s with dev := doClaim c p.val s.dev } := rfl

theorem exec_evcEoi (c : EvCtl) (p : Fin 2) (s : State) : exec (.evcEoi c p) s = .next { s with dev := doEoi c p.val s.dev } := rfl

theorem exec_evcMaskWrite (c : EvCtl) (p : Fin 2) (m : Bool) (s : State) : exec (.evcMaskWrite c p m) s =
    .next { s with dev := if ctlHas c p.val then onProc c p.val (fun y => { y with mask := m }) s.dev else s.dev } := rfl

theorem exec_evcHoldTimer (c : EvCtl) (i : Fin 512) (s : State) :
    exec (.evcHoldTimer c i) s = .next { s with dev := doHold c i.val s.dev } := rfl

theorem evc_unserved {m : Bool} (none : ctlHas c p.val = false) :
    exec (.evcClaim c p) s = .next s ∧ exec (.evcEoi c p) s = .next s ∧ exec (.evcMaskWrite c p m) s = .next s := by
  have claim : doClaim c p.val s.dev = s.dev := if_pos (by simp [none])
  have eoi : doEoi c p.val s.dev = s.dev := if_pos (by simp [none])
  refine ⟨?_, ?_, ?_⟩
  · rw [exec_evcClaim, claim]
  · rw [exec_evcEoi, eoi]
  · rw [exec_evcMaskWrite, if_neg (by simp [none])]

theorem evcEoi_empty (empty : ((s.dev.evc (ctlNo c)).proc p.val).stack = []) : exec (.evcEoi c p) s = .next s := by
  have idle : doEoi c p.val s.dev = s.dev := by
    unfold doEoi
    rw [empty]
    exact ite_self _
  rw [exec_evcEoi, idle]

theorem evcHoldTimer_idle {i : Fin 512} (h : ((s.dev.evc (ctlNo c)).src i.val).pend = 0 ∨ ((s.dev.evc (ctlNo c)).src i.val).ready = true) :
    exec (.evcHoldTimer c i) s = .next s := by
  have idle : doHold c i.val s.dev = s.dev := if_pos (by simpa using h)
  rw [exec_evcHoldTimer, idle]

theorem evcHoldTimer_gives {i : Fin 512} (pend : ((s.dev.evc (ctlNo c)).src i.val).pend ≠ 0)
    (waits : ((s.dev.evc (ctlNo c)).src i.val).ready = false) : Gives (.evcHoldTimer c i) s fun d =>
      (d.evc (ctlNo c)).src i.val = { (s.dev.evc (ctlNo c)).src i.val with ready := true } := by
  have held : doHold c i.val s.dev = _ := if_neg (by simp [pend, waits])
  refine ⟨_, exec_evcHoldTimer c i s, ?_⟩
  dsimp only
  rw [held, Dev.evc_setEvc_same, reroute_src]
  exact Tab.getD_put_same ..

variable (serves : ctlHas c p.val = true)
include serves

theorem evcClaim_gives {i : Nat} (best : (s.dev.evc (ctlNo c)).best ((s.dev.evc (ctlNo c)).proc p.val).given = some i) :
    Gives (.evcClaim c p) s fun d =>
      let x := s.dev.evc (ctlNo c)
      let y := d.evc (ctlNo c)
      (y.src i).pend = 0 ∧ (y.src i).ready = false ∧ (y.proc p.val).last = BitVec.ofNat 10 i ∧
        (y.proc p.val).stack = (x.proc p.val).prio :: (x.proc p.val).stack ∧ (y.proc p.val).prio = (x.src i).prio ∧
        ∀ k, k ≠ ctlNo c → d.evc k = s.dev.evc k := by
  have claimed : doClaim c p.val s.dev = onProc c p.val
      (fun y => { y with
        last := BitVec.ofNat 10 i
        stack := y.prio :: y.stack
        prio := ((s.dev.evc (ctlNo c)).src i).prio })
      (s.dev.setEvc (ctlNo c) { s.dev.evc (ctlNo c) with
        srcs := Tab.put (s.dev.evc (ctlNo c)).srcs i { (s.dev.evc (ctlNo c)).src i with pend := 0, ready := false } }) := by
    unfold doClaim
    rw [if_neg (by simp [serves])]
    dsimp only
    rw [best]
  refine ⟨_, exec_evcClaim c p s, ?_⟩
  have src : ((doClaim c p.val s.dev).evc (ctlNo c)).src i = { (s.dev.evc (ctlNo c)).src i with pend := 0, ready := false } := by
    rw [claimed, src_onProc, Dev.evc_setEvc_same]
    exact Tab.getD_put_same ..
  obtain ⟨asleep, given, proc⟩ := proc_onProc c p.val (fun y => { y with
    last := BitVec.ofNat 10 i
    stack := y.prio :: y.stack
    prio := ((s.dev.evc (ctlNo c)).src i).prio }) (s.dev.setEvc (ctlNo c) { s.dev.evc (ctlNo c) with
    srcs := Tab.put (s.dev.evc (ctlNo c)).srcs i { (s.dev.evc (ctlNo c)).src i with pend := 0, ready := false } })
  rw [Dev.evc_setEvc_same, ← claimed] at proc
  refine ⟨congrArg EvSrc.pend src, congrArg EvSrc.ready src, congrArg EvProc.last proc, congrArg EvProc.stack proc,
    congrArg EvProc.prio proc, fun k other => ?_⟩
  rw [claimed, evc_onProc_ne _ _ _ other, Dev.evc_setEvc_ne _ _ other]

theorem evcClaim_nothing (best : (s.dev.evc (ctlNo c)).best ((s.dev.evc (ctlNo c)).proc p.val).given = none) :
    Gives (.evcClaim c p) s fun d => ((d.evc (ctlNo c)).proc p.val).last = 0x3FF ∧
      ((d.evc (ctlNo c)).proc p.val).stack = ((s.dev.evc (ctlNo c)).proc p.val).stack := by
  have claimed : doClaim c p.val s.dev = onProc c p.val
      (fun y => { y with last := 0x3FF, asleep := y.asleep || (y.stack.isEmpty && Config.sleeps s.dev.draw.1) }) s.dev.draw.2 := by
    unfold doClaim
    rw [if_neg (by simp [serves])]
    dsimp only
    rw [best]
  refine ⟨_, exec_evcClaim c p s, ?_⟩
  rw [claimed]
  obtain ⟨asleep, given, proc⟩ := proc_onProc c p.val
    (fun y => { y with last := 0x3FF, asleep := y.asleep || (y.stack.isEmpty && Config.sleeps s.dev.draw.1) }) s.dev.draw.2
  have stack := congrArg EvProc.stack proc
  exact ⟨congrArg EvProc.last proc, stack⟩

theorem evcEoi_gives {n : Nat} {rest : List Nat} (nested : ((s.dev.evc (ctlNo c)).proc p.val).stack = n :: rest) :
    Gives (.evcEoi c p) s fun d => ((d.evc (ctlNo c)).proc p.val).prio = n ∧ ((d.evc (ctlNo c)).proc p.val).stack = rest := by
  have popped : doEoi c p.val s.dev = onProc c p.val (fun y => { y with prio := n, stack := rest }) s.dev := by
    unfold doEoi
    rw [if_neg (by simp [serves]), nested]
  refine ⟨_, exec_evcEoi c p s, ?_⟩
  rw [popped]
  obtain ⟨asleep, given, proc⟩ := proc_onProc c p.val (fun y => { y with prio := n, stack := rest }) s.dev
  exact ⟨congrArg EvProc.prio proc, congrArg EvProc.stack proc⟩

end

/-- A source is routed to a processor only where it is eligible there. -/
theorem eligible_of_route {x : Evc} {i p : Nat} (h : x.route i = some p) : x.eligible i p = true := by
  unfold Evc.route at h
  cases zero : x.eligible i 0 <;> cases one : x.eligible i 1 <;> rw [zero, one] at h <;> dsimp only at h
  · cases h
  · cases h
    exact one
  · cases h
    exact zero
  · have both : p = 0 ∨ p = 1 := by
      split at h
      · exact .inl (Option.some.inj h).symm
      · split at h
        · exact .inr (Option.some.inj h).symm
        · split at h
          · exact .inr (Option.some.inj h).symm
          · exact .inl (Option.some.inj h).symm
    rcases both with rfl | rfl
    · exact zero
    · exact one

/-- The sources that are ready and enabled. -/
def Evc.readySources (x : Evc) : List Nat := (x.srcs.filter fun s => s.2.ready && decide (0 < s.2.prio)).map Prod.fst

/-- A controller whose processors that a ready source wants have woken. -/
def Evc.woken (x : Evc) : Evc :=
  let wake (p : Nat) (y : EvProc) : EvProc := if x.readySources.any fun i => (x.src i).targets p then { y with asleep := false } else y
  { x with p0 := wake 0 x.p0, p1 := wake 1 x.p1 }

/-- The processor that a ready source is delivered to (R360). -/
def Evc.dest (x : Evc) (i : Nat) : Option Nat := match x.route i with
  | some p => if (x.proc p).mask then x.woken.route i else some p
  | none => none

theorem reroute_given (x : Evc) {p : Nat} (h : p < 2) :
    (x.reroute.proc p).given = x.readySources.filter fun i => x.dest i == some p := by
  obtain rfl | rfl : p = 0 ∨ p = 1 := by omega
  · rfl
  · rfl

/-- A masked processor that a ready source wants is awake and eligible for nothing. -/
theorem woken_not_eligible {x : Evc} {i p : Nat} (h : p < 2) (ready : i ∈ x.readySources) (masked : (x.proc p).mask = true) :
    x.woken.eligible i p = false := by
  cases targets : (x.src i).targets p with
  | false =>
    have same : (x.woken.src i).targets p = false := targets
    simp [Evc.eligible, same]
  | true =>
    have wanted : (x.readySources.any fun i => (x.src i).targets p) = true := List.any_eq_true.2 ⟨i, ready, targets⟩
    have awake : x.woken.proc p = { x.proc p with asleep := false } := by
      obtain rfl | rfl : p = 0 ∨ p = 1 := by omega
      · exact if_pos wanted
      · exact if_pos wanted
    simp [Evc.eligible, awake, masked]

/-- A masked processor is delivered nothing (R360). -/
theorem dest_ne_of_masked {x : Evc} {i p : Nat} (h : p < 2) (ready : i ∈ x.readySources) (masked : (x.proc p).mask = true) :
    x.dest i ≠ some p := by
  intro here
  unfold Evc.dest at here
  split at here
  · next q routed =>
    by_cases shut : (x.proc q).mask = true
    · rw [if_pos shut] at here
      have eligible := eligible_of_route here
      rw [woken_not_eligible h ready masked] at eligible
      cases eligible
    · rw [if_neg shut] at here
      cases here
      exact shut masked
  · cases here

theorem reroute_masked {x : Evc} {p : Nat} (h : p < 2) (masked : (x.proc p).mask = true) : (x.reroute.proc p).given = [] := by
  rw [reroute_given x h, List.filter_eq_nil_iff]
  intro i ready
  rw [beq_iff_eq]
  exact dest_ne_of_masked h ready masked

theorem evcMaskWrite_gives {s : State} {c : EvCtl} {p : Fin 2} {m : Bool} (serves : ctlHas c p.val = true) :
    Gives (.evcMaskWrite c p m) s fun d => ((d.evc (ctlNo c)).proc p.val).mask = m ∧
      (m = true → ((d.evc (ctlNo c)).proc p.val).given = []) := by
  obtain ⟨asleep, given, proc⟩ := proc_onProc c p.val (fun y => { y with mask := m }) s.dev
  refine ⟨_, exec_evcMaskWrite c p m s, ?_⟩
  rw [if_pos serves]
  refine ⟨congrArg EvProc.mask proc, ?_⟩
  rintro rfl
  rw [evc_onProc]
  exact reroute_masked p.isLt (congrArg EvProc.mask (proc_setProc_same ..))

/-- Settles O29: the channels' writes, notices, and the claims, ends, hold limits and masks of the controllers. -/
theorem mailboxesAndEvents : Obligations.MailboxesAndEvents := by
  refine ⟨fun s c w fn sends opened => mbxGo_gives sends opened w, fun s c w => mbx_closed, fun s c => mbxWithdraw_empty,
    fun s c w => mbxDone_closed, fun s => noticeSend_idle, fun s c fn => mbxWithdraw_gives, fun s c w => mbxDone_gives,
    fun s n rest => noticeSend_gives, fun s c p i serves => evcClaim_gives serves, fun s c p => evcClaim_nothing,
    fun s c p n rest serves => evcEoi_gives serves, fun s c i => evcHoldTimer_gives, fun s c p m => evcMaskWrite_gives,
    fun s c p m => evc_unserved, fun s c p => evcEoi_empty, fun s c i => evcHoldTimer_idle⟩

end Sys2Proof.Machine
end

section
/-! The states of a port (R376, R377, R381 … R383). -/

namespace Sys2Proof.Machine

open Sys2Proof

/-! ## Ports, their events and the ends of their returns -/

/-- A port enters a state: the port's record changes, and its events are told. -/
theorem enterPort_frame (p st : Nat) (d : Dev) : ∃ evcs od, enterPort p st d = { d.onPort p fun x => { x with state := st } with
    evcs := evcs
    od := od } := by
  obtain ⟨od, told⟩ := raiseOd_spec 1 p (natLe 1 st) (raiseSrc (portHub p) (0x141 + p) (d.onPort p fun x => { x with state := st }))
  exact ⟨_, od, told⟩

theorem enterPort_fab (p st : Nat) (d : Dev) : (enterPort p st d).fab = (d.onPort p fun x => { x with state := st }).fab := by
  obtain ⟨evcs, od, entered⟩ := enterPort_frame p st d
  rw [entered]

theorem port_enterPort_same (p st : Nat) (d : Dev) : (enterPort p st d).port p = { d.port p with state := st } := by
  rw [Dev.port, enterPort_fab]
  exact port_onPort_same ..

theorem port_enterPort_ne {p k : Nat} (st : Nat) (d : Dev) (h : k ≠ p) : (enterPort p st d).port k = d.port k := by
  rw [Dev.port, enterPort_fab]
  exact port_onPort_ne _ _ h

/-- The end of a return changes a unit's record and the last result of management. -/
theorem endReturn_frame (k : UnitKind) (n : Nat) (ok : Bool) (d : Dev) : ∃ sched od, endReturn k n ok d = { d with
    sched := sched
    od := od } := by
  unfold endReturn
  split
  · exact ⟨d.sched, d.od, rfl⟩
  · extract_lets e
    split
    · exact ⟨_, _, rfl⟩
    · exact ⟨_, d.od, rfl⟩

theorem endReturn_fab (k : UnitKind) (n : Nat) (ok : Bool) (d : Dev) : (endReturn k n ok d).fab = d.fab := by
  obtain ⟨sched, od, ended⟩ := endReturn_frame k n ok d
  rw [ended]

theorem endReturn_out (k : UnitKind) (n : Nat) (ok : Bool) (d : Dev) : (endReturn k n ok d).out = d.out := by
  obtain ⟨sched, od, ended⟩ := endReturn_frame k n ok d
  rw [ended]

theorem enterPort_out (p st : Nat) (d : Dev) : (enterPort p st d).out = d.out := by
  obtain ⟨evcs, od, entered⟩ := enterPort_frame p st d
  rw [entered]
  rfl

theorem setCause_fab (k : UnitKind) (n cause : Nat) (d : Dev) : (setCause k n cause d).fab = d.fab := by
  obtain ⟨evs, told⟩ := setCause_told k n cause d
  have kept := congrArg Dev.fab told.rest
  exact kept

theorem setCause_fx (k : UnitKind) (n cause : Nat) (d : Dev) : (setCause k n cause d).fx = d.fx := by
  obtain ⟨evs, told⟩ := setCause_told k n cause d
  have kept := congrArg Dev.fx told.rest
  exact kept

theorem port_of_fab {d e : Dev} (h : e.fab = d.fab) (p : Nat) : e.port p = d.port p := by
  rw [Dev.port, Dev.port, h]

/-! ## Training (R376, R377) -/

theorem port_startTraining (p : Nat) (d : Dev) : (startTraining p d).port p = { d.port p with
    active := 0
    reserve := 0
    state := 1 } := by
  rw [startTraining, port_enterPort_same, port_onPort_same]

theorem port_startTraining_ne {p k : Nat} (d : Dev) (h : k ≠ p) : (startTraining p d).port k = d.port k := by
  rw [startTraining, port_enterPort_ne _ _ h, port_onPort_ne _ _ h]

section

variable {s : State} {p : Port}

theorem exec_portSignalDetect (p : Port) (s : State) : exec (.portSignalDetect p) s = .next { s with
    dev := if s.dev.clk.powered && (s.dev.port p.val).state == 0 then startTraining p.val s.dev else s.dev } := rfl

theorem exec_portTrainRetryTimer (p : Port) (s : State) : exec (.portTrainRetryTimer p) s = .next { s with
    dev := if (s.dev.port p.val).state == 0 && (s.dev.port p.val).active == 0 && (s.dev.port p.val).failed != 0
      then startTraining p.val s.dev else s.dev } := rfl

theorem portSignalDetect_gives (powered : s.dev.clk.powered = true) (down : (s.dev.port p.val).state = 0) :
    Gives (.portSignalDetect p) s fun d => (d.port p.val).state = 1 ∧ (d.port p.val).active = 0 ∧
      ∀ k, k ≠ p.val → d.port k = s.dev.port k := by
  refine gives_of_next (exec_portSignalDetect p s) (if_pos (by simp [powered, down])) ?_
  rw [port_startTraining]
  exact ⟨rfl, rfl, fun k other => port_startTraining_ne _ other⟩

theorem portSignalDetect_idle (h : s.dev.clk.powered = false ∨ (s.dev.port p.val).state ≠ 0) :
    exec (.portSignalDetect p) s = .next s := by
  rw [exec_portSignalDetect, if_neg]
  rcases h with h | h <;> simp [h]

theorem portTrainRetryTimer_gives (down : (s.dev.port p.val).state = 0) (few : (s.dev.port p.val).active = 0)
    (tried : (s.dev.port p.val).failed ≠ 0) : Gives (.portTrainRetryTimer p) s fun d => (d.port p.val).state = 1 ∧
      ∀ k, k ≠ p.val → d.port k = s.dev.port k := by
  refine gives_of_next (exec_portTrainRetryTimer p s) (if_pos (by simpa [down, few] using tried)) ?_
  rw [port_startTraining]
  exact ⟨rfl, fun k other => port_startTraining_ne _ other⟩

theorem portTrainRetryTimer_idle (h : (s.dev.port p.val).state ≠ 0 ∨ (s.dev.port p.val).active ≠ 0 ∨ (s.dev.port p.val).failed = 0) :
    exec (.portTrainRetryTimer p) s = .next s := by
  rw [exec_portTrainRetryTimer, if_neg]
  simp only [Bool.and_eq_true, beq_iff_eq, bne_iff_ne]
  rintro ⟨⟨down, few⟩, tried⟩
  rcases h with h | h | h
  · exact h down
  · exact h few
  · exact tried h

end

theorem chooseLanes_eight {locked : BitVec 10} (h : 8 ≤ (linkLanes locked).length) (x : PortSt) :
    (chooseLanes locked x).active = laneSet ((linkLanes locked).take 8) ∧
      (chooseLanes locked x).reserve = laneSet ((linkLanes locked).drop 8) := by
  simp [chooseLanes, h]

theorem chooseLanes_four {locked : BitVec 10} (h : 4 ≤ (linkLanes locked).length) (few : (linkLanes locked).length < 8) (x : PortSt) :
    (chooseLanes locked x).active = laneSet ((linkLanes locked).take 4) := by
  simp [chooseLanes, h, Nat.not_le.2 few]

/-- A port once the lanes that locked are known. -/
def trainingEnded (p : Nat) (locked : BitVec 10) (d : Dev) : Dev :=
  let d := d.onPort p (chooseLanes locked)
  if (linkLanes locked).length < 4 then enterPort p 0 (endReturn .port p false d)
  else if d.boot.active then enterPort p 2 d else d

/-- Whatever state a port enters then, its lanes are those that locked. -/
theorem port_trainingEnded (p : Nat) (locked : BitVec 10) (d : Dev) :
    ∃ st, (trainingEnded p locked d).port p = { chooseLanes locked (d.port p) with state := st } := by
  have chosen : (d.onPort p (chooseLanes locked)).port p = chooseLanes locked (d.port p) := port_onPort_same ..
  unfold trainingEnded
  extract_lets e
  split
  · exact ⟨0, by rw [port_enterPort_same, port_of_fab (endReturn_fab ..), chosen]⟩
  · split
    · exact ⟨2, by rw [port_enterPort_same, chosen]⟩
    · exact ⟨(d.port p).state, chosen⟩

theorem port_trainingEnded_few {p : Nat} {locked : BitVec 10} (few : (linkLanes locked).length < 4) (d : Dev) :
    ((trainingEnded p locked d).port p).state = 0 := by
  unfold trainingEnded
  extract_lets e
  rw [if_pos few, port_enterPort_same]

theorem port_trainingEnded_goes {p : Nat} {locked : BitVec 10} {d : Dev} (enough : 4 ≤ (linkLanes locked).length)
    (active : d.boot.active = true) : ((trainingEnded p locked d).port p).state = 2 := by
  unfold trainingEnded
  extract_lets e
  have on : e.boot.active = true := active
  rw [if_neg (Nat.not_lt.2 enough), if_pos on, port_enterPort_same]

section

variable {s : State} {p : Port} {l : LaneLock}

theorem exec_portTrainingDone (p : Port) (l : LaneLock) (s : State) : exec (.portTrainingDone p l) s = .next { s with
    dev := if (s.dev.port p.val).state != 1 then s.dev else trainingEnded p.val l.both s.dev } := rfl

theorem portTrainingDone_idle (h : (s.dev.port p.val).state ≠ 1) : exec (.portTrainingDone p l) s = .next s := by
  rw [exec_portTrainingDone, if_pos (by simpa using h)]

theorem portTrainingDone_gives (training : (s.dev.port p.val).state = 1) : let k := linkLanes (l.here &&& l.peer)
    Gives (.portTrainingDone p l) s fun d =>
      (d.port p.val).failed = ~~~(l.here &&& l.peer) ∧
      (k.length < 4 → (d.port p.val).state = 0) ∧
      (4 ≤ k.length → s.dev.boot.active = true → (d.port p.val).state = 2) ∧
      (8 ≤ k.length → (d.port p.val).active = laneSet (k.take 8) ∧ (d.port p.val).reserve = laneSet (k.drop 8)) ∧
      (4 ≤ k.length → k.length < 8 → (d.port p.val).active = laneSet (k.take 4)) := by
  intro k
  obtain ⟨st, lanes⟩ := port_trainingEnded p.val l.both s.dev
  refine gives_of_next (exec_portTrainingDone p l s) (if_neg (by simp [training])) ⟨congrArg PortSt.failed lanes,
    fun few => port_trainingEnded_few few s.dev, fun enough active => port_trainingEnded_goes enough active, fun eight => ?_,
    fun four few => ?_⟩
  · obtain ⟨active, reserve⟩ := chooseLanes_eight (locked := l.both) eight (s.dev.port p.val)
    exact ⟨(congrArg PortSt.active lanes).trans active, (congrArg PortSt.reserve lanes).trans reserve⟩
  · exact (congrArg PortSt.active lanes).trans (chooseLanes_four (locked := l.both) four few (s.dev.port p.val))

end

/-! ## Sessions (R382, R384) -/

/-- What waits for a port: the open exchanges and the fence operations of other packages. -/
def Dev.owed (d : Dev) : List Exchange × List FRemote := (d.fab.exchanges, d.fx.remote)

theorem enterPort_owed (p st : Nat) (d : Dev) : (enterPort p st d).owed = d.owed := by
  obtain ⟨evcs, od, entered⟩ := enterPort_frame p st d
  rw [entered]
  rfl

theorem endReturn_owed (k : UnitKind) (n : Nat) (ok : Bool) (d : Dev) : (endReturn k n ok d).owed = d.owed := by
  obtain ⟨sched, od, ended⟩ := endReturn_frame k n ok d
  rw [ended]
  rfl

theorem setCause_owed (k : UnitKind) (n cause : Nat) (d : Dev) : (setCause k n cause d).owed = d.owed := by
  rw [Dev.owed, Dev.owed, setCause_fab, setCause_fx]

/-- A port whose session begins: its record before the flits that it resends are counted. -/
def PortSt.secured (draw : Nat) (x : PortSt) : PortSt :=
  let x := (if x.session != 0 then x else x.fresh).count 3 1
  { x with session := draw + 1, keys := x.keys ++ [(x.rx, draw)] }

/-- A port whose session begins, before the flits that it resends. -/
def sessionBegun (p : Nat) (d : Dev) : Dev :=
  (({ d with draws := d.draws + 1 }).onPort p (PortSt.secured d.draws)).emit (.session p d.draws d.fab.pkgId.toNat)

/-- A port that sends flits again. -/
def PortSt.resent (n : Nat) (x : PortSt) : PortSt := { ((x.count 8 n).count 4 n) with hunting := false }

theorem resent_frame (n : Nat) (x : PortSt) : ∃ ctr hunting, x.resent n = { x with
    ctr := ctr
    hunting := hunting } := ⟨_, _, rfl⟩

theorem startSession_eq (p : Nat) (d : Dev) : let e := sessionBegun p d
    let k := ((e.port p).tx - (e.port p).acked).toNat
    startSession p d = if (d.port p).session != 0 && k != 0 then
      (e.onPort p (PortSt.resent k)).emit (.resend p (e.port p).acked k) else e := rfl

theorem port_sessionBegun (p : Nat) (d : Dev) : (sessionBegun p d).port p = (d.port p).secured d.draws := port_onPort_same ..

theorem port_startSession (p : Nat) (d : Dev) : ∃ ctr hunting,
    (startSession p d).port p = { (d.port p).secured d.draws with
      ctr := ctr
      hunting := hunting } := by
  have begun := port_sessionBegun p d
  rw [startSession_eq]
  dsimp only
  split
  · have again := port_onPort_same (sessionBegun p d) p (PortSt.resent (((sessionBegun p d).port p).tx - ((sessionBegun p d).port p).acked).toNat)
    obtain ⟨ctr, hunting, frame⟩ := resent_frame (((sessionBegun p d).port p).tx - ((sessionBegun p d).port p).acked).toNat
      ((sessionBegun p d).port p)
    refine ⟨ctr, hunting, again.trans ?_⟩
    rw [frame, begun]
  · exact ⟨_, _, begun⟩

theorem startSession_told (p : Nat) (d : Dev) : .session p d.draws d.fab.pkgId.toNat ∈ (startSession p d).out := by
  have begun : .session p d.draws d.fab.pkgId.toNat ∈ (sessionBegun p d).out := List.mem_append_right _ (List.mem_singleton_self _)
  rw [startSession_eq]
  split
  · exact List.mem_append_left _ begun
  · exact begun

theorem sessionBegun_owed (p : Nat) (d : Dev) : (sessionBegun p d).owed = d.owed := rfl

theorem startSession_owed (p : Nat) (d : Dev) : (startSession p d).owed = d.owed := by
  rw [startSession_eq, ← sessionBegun_owed p d]
  generalize sessionBegun p d = e
  split
  · rfl
  · rfl

/-- The state of a session that begins keeps a port's lanes; its counts go on where one was given up. -/
theorem secured_counts (draw : Nat) (x : PortSt) : (x.secured draw).liveState = x.liveState ∧
    (x.session = 0 → (x.secured draw).tx = 0 ∧ (x.secured draw).rx = 0) ∧
    (x.session ≠ 0 → (x.secured draw).tx = x.tx ∧ (x.secured draw).rx = x.rx) ∧
    (x.secured draw).peerPort = x.peerPort ∧ (x.secured draw).peerPkg = x.peerPkg := by
  by_cases fresh : x.session = 0
  · have begins : (x.session != 0) = false := by simp [fresh]
    unfold PortSt.secured
    rw [begins]
    exact ⟨rfl, fun _ => ⟨rfl, rfl⟩, fun other => absurd fresh other, rfl, rfl⟩
  · have goesOn : (x.session != 0) = true := by simp [fresh]
    unfold PortSt.secured
    rw [goesOn]
    exact ⟨rfl, fun none => absurd none fresh, fun _ => ⟨rfl, rfl⟩, rfl, rfl⟩

section

variable {d : Dev} {p : Nat} {acl : BitVec 16} {port : BitVec 4} {pkg : BitVec 32}

/-- A port that an authentic peer brings up. -/
def sessionUp (p : Nat) (port : BitVec 4) (pkg : BitVec 32) (d : Dev) : Dev :=
  let e := startSession p (d.onPort p fun x => { x with peerPort := port, peerPkg := pkg })
  endReturn .port p true (enterPort p (e.port p).liveState e)

theorem doSession_idle {ok : Bool} (h : (d.port p).state ≠ 2 ∨ d.fw.state ≠ 2 ∨ d.secUp = false) : doSession p ok acl port pkg d = d := by
  refine if_pos ?_
  rcases h with h | h | h <;> simp [h]

theorem doSession_owed (ok : Bool) : (doSession p ok acl port pkg d).owed = d.owed := by
  unfold doSession
  split
  · rfl
  · split
    · exact (enterPort_owed ..).trans (endReturn_owed ..)
    · split
      · exact (setCause_owed ..).trans (enterPort_owed ..)
      · split
        · exact enterPort_owed ..
        · exact (endReturn_owed ..).trans ((enterPort_owed ..).trans (startSession_owed ..))

variable (secures : (d.port p).state = 2) (runs : d.fw.state = 2) (up : d.secUp = true)
include secures runs up

theorem doSession_refused {ok : Bool} (bad : ok = false ∨ acl = 0) : ((doSession p ok acl port pkg d).port p).state = 0 ∧
    (0x0A, BitVec.ofNat 16 p) ∈ (doSession p ok acl port pkg d).sec.raised := by
  have refused : doSession p ok acl port pkg d = raiseAlarm 0x0A (BitVec.ofNat 16 p) (enterPort p 0 (endReturn .port p false d)) := by
    unfold doSession
    rw [if_neg (by simp [secures, runs, up]), if_pos (by simpa using bad)]
  rw [refused]
  exact ⟨congrArg PortSt.state (port_enterPort_same ..), List.mem_append_right _ (List.mem_singleton_self _)⟩

variable (level : acl ≠ 0)
include level

/-- What a session of an authentic peer does, as ADMIN OUT and the cause of the port decide. -/
theorem doSession_authentic : doSession p true acl port pkg d =
    if (d.unit .port p).adminOut then setCause .port p 3 (enterPort p 6 d)
    else if (d.unit .port p).cause != 0 && !(d.unit .port p).returning then enterPort p 6 d
    else sessionUp p port pkg d := by
  unfold doSession
  rw [if_neg (by simp [secures, runs, up]), if_neg (by simpa using level)]
  rfl

theorem doSession_up (admitted : (d.unit .port p).adminOut = false) (cleared : (d.unit .port p).cause = 0 ∨ (d.unit .port p).returning = true) :
    let e := doSession p true acl port pkg d
    (e.port p).state = (d.port p).liveState ∧ (e.port p).peerPort = port ∧ (e.port p).peerPkg = pkg ∧
      ((d.port p).session = 0 → (e.port p).tx = 0 ∧ (e.port p).rx = 0) ∧
      ((d.port p).session ≠ 0 → (e.port p).tx = (d.port p).tx ∧ (e.port p).rx = (d.port p).rx) ∧
      .session p d.draws d.fab.pkgId.toNat ∈ e.out := by
  intro e
  let peer (x : PortSt) : PortSt := { x with peerPort := port, peerPkg := pkg }
  have begun : e = sessionUp p port pkg d := by
    refine (doSession_authentic secures runs up level).trans ?_
    rw [if_neg (by simp [admitted]), if_neg (by rcases cleared with h | h <;> simp [h])]
  obtain ⟨ctr, hunting, started⟩ := port_startSession p (d.onPort p peer)
  rw [port_onPort_same] at started
  obtain ⟨lanes, fresh, goesOn, peerPort, peerPkg⟩ := secured_counts d.draws (peer (d.port p))
  have live : ((startSession p (d.onPort p peer)).port p).liveState = (d.port p).liveState := by
    rw [started]
    exact lanes
  have record : e.port p = { (startSession p (d.onPort p peer)).port p with state := (d.port p).liveState } := by
    rw [begun, ← live]
    exact (port_of_fab (endReturn_fab ..) p).trans (port_enterPort_same ..)
  rw [started] at record
  refine ⟨congrArg PortSt.state record, (congrArg PortSt.peerPort record).trans peerPort, (congrArg PortSt.peerPkg record).trans peerPkg,
    fun none => ?_, fun some => ?_, ?_⟩
  · exact ⟨(congrArg PortSt.tx record).trans (fresh none).1, (congrArg PortSt.rx record).trans (fresh none).2⟩
  · exact ⟨(congrArg PortSt.tx record).trans (goesOn some).1, (congrArg PortSt.rx record).trans (goesOn some).2⟩
  · rw [begun, sessionUp, endReturn_out, enterPort_out]
    exact startSession_told p (d.onPort p peer)

theorem doSession_adminOut (out : (d.unit .port p).adminOut = true) : let e := doSession p true acl port pkg d
    (e.port p).state = 6 ∧ (e.unit .port p).cause = 3 := by
  intro e
  have shut : e = setCause .port p 3 (enterPort p 6 d) := by
    refine (doSession_authentic secures runs up level).trans ?_
    rw [if_pos out]
  rw [shut]
  exact ⟨congrArg PortSt.state ((port_of_fab (setCause_fab ..) p).trans (port_enterPort_same ..)), setCause_cause ..⟩

theorem doSession_failed (admitted : (d.unit .port p).adminOut = false) (cause : (d.unit .port p).cause ≠ 0)
    (stays : (d.unit .port p).returning = false) : ((doSession p true acl port pkg d).port p).state = 6 := by
  rw [doSession_authentic secures runs up level, if_neg (by simp [admitted]), if_pos (by simp [cause, stays])]
  exact congrArg PortSt.state (port_enterPort_same ..)

end

section

variable {s : State} {p : Port} {ok : Bool} {acl : BitVec 16} {port : BitVec 4} {pkg : BitVec 32}

theorem exec_portSessionDone (p : Port) (ok : Bool) (acl : BitVec 16) (port : BitVec 4) (pkg : BitVec 32) (s : State) :
    exec (.portSessionDone p ok acl port pkg) s =
      .next (after s (flushDue ((work s).on fun d => announce d (doSession p.val ok acl port pkg d)))) := rfl

/-- Where nothing waits for a port, nothing leaves. -/
theorem flushDue_of_nothing {w : Wk} (none : w.dev.owed = ([], [])) : flushDue w = w := by
  simp only [Dev.owed, Prod.mk.injEq] at none
  obtain ⟨exchanges, remote⟩ := none
  have still : flushRemote w.dev = w.dev := by
    unfold flushRemote
    rw [remote]
    rfl
  unfold flushDue
  rw [exchanges]
  show { w with dev := flushRemote w.dev } = w
  rw [still]

theorem announce_owed (old d : Dev) : (announce old d).owed = d.owed := by
  have told := congrArg Dev.owed (announce_told old d).rest
  exact told

theorem portSessionDone_gives (exchanges : s.dev.fab.exchanges = []) (remote : s.dev.fx.remote = []) :
    Gives (.portSessionDone p ok acl port pkg) s fun d => d = announce s.dev (doSession p.val ok acl port pkg s.dev) := by
  have owed : (announce s.dev (doSession p.val ok acl port pkg s.dev)).owed = ([], []) := by
    rw [announce_owed, doSession_owed, Dev.owed, exchanges, remote]
  have answered := exec_portSessionDone p ok acl port pkg s
  change exec _ s = .next (after s (flushDue { work s with dev := announce s.dev (doSession p.val ok acl port pkg s.dev) })) at answered
  generalize announce s.dev (doSession p.val ok acl port pkg s.dev) = d at owed answered ⊢
  exact gives_of_on answered (flushDue_of_nothing owed) rfl

end

/-! ## Retraining (R381) -/

/-- A port that goes on after it retrained, and the flits that it sends again. -/
def retrained (p : Nat) (locked : BitVec 10) (d : Dev) : Dev :=
  let d := d.onPort p (chooseLanes locked)
  let n := ((d.port p).tx - (d.port p).acked).toNat
  let d := enterPort p (if (d.port p).session = 0 then 2 else (d.port p).liveState) (d.onPort p fun x => (x.count 8 n).count 4 n)
  if n = 0 then d else d.emit (.resend p (d.port p).acked n)

theorem retrained_spec (p : Nat) (locked : BitVec 10) (d : Dev) : let x := d.port p
    let e := retrained p locked d
    (e.port p).state = (if x.session = 0 then 2 else (chooseLanes locked x).liveState) ∧ (e.port p).tx = x.tx ∧
      (e.port p).acked = x.acked ∧ (x.tx ≠ x.acked → .resend p x.acked (x.tx - x.acked).toNat ∈ e.out) := by
  intro x e
  have chosen : (d.onPort p (chooseLanes locked)).port p = chooseLanes locked x := port_onPort_same ..
  let n := (x.tx - x.acked).toNat
  let entered := enterPort p (if x.session = 0 then 2 else (chooseLanes locked x).liveState)
    ((d.onPort p (chooseLanes locked)).onPort p fun x => (x.count 8 n).count 4 n)
  have record : entered.port p = { ((chooseLanes locked x).count 8 n).count 4 n with
      state := if x.session = 0 then 2 else (chooseLanes locked x).liveState } := by
    refine (port_enterPort_same ..).trans ?_
    rw [port_onPort_same, chosen]
  have goes : e = if n = 0 then entered else entered.emit (.resend p (entered.port p).acked n) := by
    show retrained p locked d = _
    unfold retrained
    dsimp only
    rw [chosen]
    rfl
  have same : e.port p = entered.port p := by
    rw [goes]
    split
    · rfl
    · rfl
  rw [same, record]
  refine ⟨rfl, rfl, rfl, fun owed => ?_⟩
  have some : n ≠ 0 := by
    intro zero
    apply owed
    have none : x.tx - x.acked = 0 := BitVec.eq_of_toNat_eq zero
    bv_omega
  rw [goes, if_neg some, record]
  exact List.mem_append_right _ (List.mem_singleton_self _)

theorem doRetrainDone_cases (w : Wk) (p : Nat) (ok : Bool) (l : LaneLock) : let x := w.dev.port p
    ((w.dev.port p).state = 5 → 4 ≤ (linkLanes (l.here &&& l.peer)).length → ∃ d, doRetrainDone p true l w = w.on (fun _ => d) ∧
      (d.port p).state = (if x.session = 0 then 2 else (chooseLanes (l.here &&& l.peer) x).liveState) ∧
      (d.port p).tx = x.tx ∧ (d.port p).acked = x.acked ∧ (x.tx ≠ x.acked → .resend p x.acked (x.tx - x.acked).toNat ∈ d.out)) ∧
    ((w.dev.port p).state = 5 → (ok = false ∨ (linkLanes (l.here &&& l.peer)).length < 4) → doRetrainDone p ok l w = failPort p w) ∧
    ((w.dev.port p).state ≠ 5 → doRetrainDone p ok l w = w) := by
  refine ⟨fun retrains enough => ⟨retrained p l.both w.dev, ?_, retrained_spec p l.both w.dev⟩, fun retrains bad => ?_,
    fun other => if_pos (by simpa using other)⟩
  · have locked : ¬ (linkLanes l.both).length < 4 := Nat.not_lt.2 enough
    unfold doRetrainDone
    rw [if_neg (by simp [retrains]), if_neg (by simpa using locked)]
    rfl
  · unfold doRetrainDone
    rw [if_neg (by simp [retrains]), if_pos]
    rcases bad with failed | few
    · simp [failed]
    · have short : (linkLanes l.both).length < 4 := few
      simp [short]

/-! ## New keys (R383) -/

section

variable {s : State} {p : Port}

/-- A port whose session goes on under new keys; flits that waited leave. -/
def PortSt.rekeyed (draw : Nat) (x : PortSt) : PortSt :=
  ({ (x.count 3 1) with session := draw + 1, span := x.span + 1, keys := x.keys ++ [(x.rx, draw)] } : PortSt).send 0

/-- The session of a port goes on under new keys. -/
def rekeyed (p : Nat) (d : Dev) : Dev :=
  (({ d with draws := d.draws + 1 }).onPort p (PortSt.rekeyed d.draws)).emit (.session p d.draws d.fab.pkgId.toNat)

theorem exec_sessionRekey (p : Port) (s : State) : exec (.sessionRekey p) s = .next { s with
    dev := if !(s.dev.port p.val).trained || !s.dev.secUp || (s.dev.port p.val).tx.toNat / 2 ^ 40 < (s.dev.port p.val).span then s.dev
      else rekeyed p.val s.dev } := rfl

theorem sessionRekey_idle (h : (s.dev.port p.val).trained = false ∨ s.dev.secUp = false ∨
    (s.dev.port p.val).tx.toNat / 2 ^ 40 < (s.dev.port p.val).span) : exec (.sessionRekey p) s = .next s := by
  rw [exec_sessionRekey, if_pos]
  rcases h with h | h | h
  · simp [h]
  · simp [h]
  · simp only [decide_eq_true h, Bool.or_true]

theorem send_nothing (x : PortSt) (h : x.waiting = 0) : (x.send 0).tx = x.tx := by
  simp [PortSt.send, h]

theorem sessionRekey_gives (trained : (s.dev.port p.val).trained = true) (up : s.dev.secUp = true)
    (reaches : (s.dev.port p.val).span ≤ (s.dev.port p.val).tx.toNat / 2 ^ 40) : Gives (.sessionRekey p) s fun d =>
      (d.port p.val).session = s.dev.draws + 1 ∧ d.draws = s.dev.draws + 1 ∧
      (d.port p.val).span = (s.dev.port p.val).span + 1 ∧
      (d.port p.val).keys = (s.dev.port p.val).keys ++ [((s.dev.port p.val).rx, s.dev.draws)] ∧
      d.out = s.dev.out ++ [.session p.val s.dev.draws s.dev.fab.pkgId.toNat] ∧
      ((s.dev.port p.val).waiting = 0 → (d.port p.val).tx = (s.dev.port p.val).tx) := by
  have record : (rekeyed p.val s.dev).port p.val = (s.dev.port p.val).rekeyed s.dev.draws := port_onPort_same ..
  refine gives_of_next (exec_sessionRekey p s) (if_neg ?_) ?_
  · simpa [trained, up] using reaches
  · rw [record]
    exact ⟨rfl, rfl, rfl, rfl, rfl, fun none => send_nothing _ none⟩

end

/-- Settles O35: training, sessions, retraining and new keys. -/
theorem portCommands : Obligations.PortCommands := by
  refine ⟨fun s p => portSignalDetect_gives, fun s p => portSignalDetect_idle, fun s p => portTrainRetryTimer_gives,
    fun s p => portTrainRetryTimer_idle, fun s p l => portTrainingDone_idle, fun s p l => portTrainingDone_gives,
    fun s p ok acl port pkg => exec_portSessionDone p ok acl port pkg s, fun s p ok acl port pkg => portSessionDone_gives,
    fun d p acl port pkg secures runs up level => ⟨doSession_up secures runs up level, doSession_adminOut secures runs up level,
      doSession_failed secures runs up level⟩,
    fun d p ok acl port pkg => doSession_idle, fun d p ok acl port pkg secures runs up => doSession_refused secures runs up, fun s p ok l => rfl,
    doRetrainDone_cases, fun s p => sessionRekey_idle, fun s p => sessionRekey_gives⟩

end Sys2Proof.Machine
end

section
/-! Lanes and flits (R378, R380, R383 … R386). -/

namespace Sys2Proof.Machine

open Sys2Proof

/-! ## Lanes (R378) -/

theorem onPort_onPort (d : Dev) (p : Nat) (f g : PortSt → PortSt) : (d.onPort p f).onPort p g = d.onPort p fun x => g (f x) := by
  show { d with fab := { d.fab with ports := Tab.put (Tab.put d.fab.ports p (f (d.port p))) p (g ((d.onPort p f).port p)) } } = _
  rw [put_put_same, port_onPort_same]
  rfl

theorem onPort_of_eq {d : Dev} {p : Nat} {f g : PortSt → PortSt} (h : f (d.port p) = g (d.port p)) : d.onPort p f = d.onPort p g := by
  rw [Dev.onPort, h]
  rfl

/-- A port that keeps its record reads as before. -/
theorem port_onPort_of_eq {d : Dev} {p : Nat} {f : PortSt → PortSt} (h : f (d.port p) = d.port p) (k : Nat) :
    (d.onPort p f).port k = d.port k := by
  by_cases own : k = p
  · rw [own, port_onPort_same, h]
  · exact port_onPort_ne _ _ own

section

variable {x : PortSt} {lane : Nat}

theorem dropLane_spare (spare : bitAt x.active.toNat lane = false) : (x.dropLane lane).active = x.active := by
  simp [PortSt.dropLane, spare]

variable (active : bitAt x.active.toNat lane = true)
include active

theorem dropLane_replaced {r : Nat} {rest : List Nat} (reserve : linkLanes x.reserve = r :: rest) :
    (x.dropLane lane).active = laneSet (r :: (linkLanes x.active).filter (· != lane)) ∧ (x.dropLane lane).reserve = laneSet rest := by
  simp [PortSt.dropLane, active, reserve]

theorem dropLane_four (reserve : linkLanes x.reserve = []) (enough : 4 ≤ ((linkLanes x.active).filter (· != lane)).length) :
    (x.dropLane lane).active = laneSet (((linkLanes x.active).filter (· != lane)).take 4) := by
  simp only [PortSt.dropLane, active, reserve, Bool.not_true, Bool.false_eq_true, if_false, if_neg (Nat.not_lt.2 enough)]

theorem dropLane_none (reserve : linkLanes x.reserve = []) (few : ((linkLanes x.active).filter (· != lane)).length < 4) :
    (x.dropLane lane).active = laneSet [] := by
  simp only [PortSt.dropLane, active, reserve, Bool.not_true, Bool.false_eq_true, if_false, if_pos few, List.take_zero]

end

/-- A lane dropped changes a port's lanes and a count. -/
theorem dropLane_frame (lane : Nat) (x : PortSt) : ∃ ctr active reserve, x.dropLane lane = { x with
    ctr := ctr
    active := active
    reserve := reserve
    failed := laneSet (lane :: linkLanes x.failed) } := by
  unfold PortSt.dropLane
  dsimp only
  split
  · exact ⟨_, _, _, rfl⟩
  · split
    · exact ⟨_, _, _, rfl⟩
    · exact ⟨_, _, _, rfl⟩

theorem dropLane_cases (x : PortSt) (lane : Nat) : let good := (linkLanes x.active).filter (· != lane)
    (bitAt x.active.toNat lane = false → (x.dropLane lane).active = x.active) ∧
    (bitAt x.active.toNat lane = true →
      (∀ r rest, linkLanes x.reserve = r :: rest → (x.dropLane lane).active = laneSet (r :: good) ∧
        (x.dropLane lane).reserve = laneSet rest) ∧
      (linkLanes x.reserve = [] → 4 ≤ good.length → (x.dropLane lane).active = laneSet (good.take 4)) ∧
      (linkLanes x.reserve = [] → good.length < 4 → (x.dropLane lane).active = laneSet [])) ∧
    (x.dropLane lane).failed = laneSet (lane :: linkLanes x.failed) := by
  intro good
  obtain ⟨ctr, active, reserve, frame⟩ := dropLane_frame lane x
  exact ⟨dropLane_spare, fun active => ⟨fun r rest => dropLane_replaced active, dropLane_four active, dropLane_none active⟩,
    congrArg PortSt.failed frame⟩

/-- What a failed lane does to its port. -/
theorem dropLane_port (w : Wk) (p lane : Nat) : let x := w.dev.port p
    let y := x.dropLane lane
    ((x.trained || x.state == 2) = false ∨ bitAt x.failed.toNat lane = true → dropLane p lane w = w) ∧
    ((x.trained || x.state == 2) = true → bitAt x.failed.toNat lane = false →
      (y.width = 0 → dropLane p lane w = retrain p (w.on fun d => d.onPort p fun _ => y)) ∧
      (y.width ≠ 0 → ∃ d, dropLane p lane w = w.on (fun _ => d) ∧
        d.port p = { y with state := if x.trained then y.liveState else x.state })) := by
  intro x y
  obtain ⟨ctr, active, reserve, frame⟩ := dropLane_frame lane x
  have same : y.state = x.state := by
    dsimp only [y]
    rw [frame]
  refine ⟨fun idle => if_pos ?_, fun live good => ?_⟩
  · rcases idle with h | h
    · rw [h, Bool.not_false, Bool.true_or]
    · rw [h, Bool.or_true]
  · have dropped : dropLane p lane w = (if y.width = 0 then retrain p (w.on fun d => d.onPort p fun _ => y)
        else if x.trained && y.liveState != x.state then (w.on fun d => d.onPort p fun _ => y).on (enterPort p y.liveState)
        else w.on fun d => d.onPort p fun _ => y) := by
      refine if_neg ?_
      rw [live, good]
      decide
    refine ⟨fun none => ?_, fun some => ?_⟩
    · rw [dropped, if_pos none]
    · rw [dropped, if_neg some]
      by_cases trained : x.trained = true
      · by_cases stays : y.liveState = x.state
        · refine ⟨w.dev.onPort p fun _ => y, if_neg (by simp [stays]), (port_onPort_same ..).trans ?_⟩
          rw [if_pos trained, stays, ← same]
        · refine ⟨enterPort p y.liveState (w.dev.onPort p fun _ => y), if_pos (by simp [trained, stays]), ?_⟩
          rw [port_enterPort_same, port_onPort_same, if_pos trained]
      · refine ⟨w.dev.onPort p fun _ => y, if_neg (by simp [trained]), (port_onPort_same ..).trans ?_⟩
        rw [if_neg trained, ← same]

/-- A port whose lane switches are those of a list. -/
def switching (p : Nat) (l : List (Nat × BitVec 64)) (d : Dev) : Dev := d.onPort p fun x => { x with switchAt := l }

/-- Whether a switch named for a flit takes effect now. -/
def PortSt.due (x : PortSt) (e : Nat × BitVec 64) : Bool := decide ((e.2 - x.acked).toNat ≤ (x.tx - x.acked).toNat)

theorem settleLanes_eq (p : Nat) (w : Wk) : settleLanes p w =
    ((w.dev.port p).switchAt.filter (w.dev.port p).due).foldl (fun w e => dropLane p e.1 w)
      (w.on (switching p ((w.dev.port p).switchAt.filter fun e => !(w.dev.port p).due e))) := rfl

/-- A port that names no switch has none to settle. -/
theorem settleLanes_of_nothing {p : Nat} {w : Wk} (none : (w.dev.port p).switchAt = []) : settleLanes p w = w.on (switching p []) := by
  rw [settleLanes_eq, none]
  rfl

theorem port_switching {p : Nat} {d : Dev} (none : (d.port p).switchAt = []) (k : Nat) : (switching p [] d).port k = d.port k := by
  refine port_onPort_of_eq ?_ k
  rw [← none]

section

variable {s : State} {p : Port} {lane : Fin 10} {q : BitVec 32}

theorem exec_laneSwitch (p : Port) (lane : Fin 10) (q : BitVec 32) (s : State) : exec (.laneSwitch p lane q) s =
    .next (after s (settleLanes p.val ((work s).on fun d => d.onPort p.val fun x =>
      { x with switchAt := x.switchAt ++ [(lane.val, extendSeq x.acked q.toNat)] }))) :=
  runMem_after (fun w => settleLanes p.val (w.on fun d => d.onPort p.val fun x =>
    { x with switchAt := x.switchAt ++ [(lane.val, extendSeq x.acked q.toNat)] })) s

/-- One switch named on a port without another is settled now, or waits for its flit. -/
theorem settleLanes_one {w : Wk} {p : Nat} {e : Nat × BitVec 64} (one : (w.dev.port p).switchAt = [e]) :
    settleLanes p w = if (w.dev.port p).due e then dropLane p e.1 (w.on (switching p [])) else w.on (switching p [e]) := by
  rw [settleLanes_eq, one]
  cases due : (w.dev.port p).due e
  · simp [List.filter, due]
  · simp [List.filter, due]

theorem laneSwitch_first (first : (s.dev.port p.val).switchAt = []) : let x := s.dev.port p.val
    let a := extendSeq x.acked q.toNat
    let put (l : List (Nat × BitVec 64)) : Wk := (work s).on (switching p.val l)
    ((a - x.acked).toNat ≤ (x.tx - x.acked).toNat → exec (.laneSwitch p lane q) s = .next (after s (dropLane p.val lane.val (put [])))) ∧
    ((x.tx - x.acked).toNat < (a - x.acked).toNat → exec (.laneSwitch p lane q) s = .next (after s (put [(lane.val, a)]))) := by
  intro x a put
  let named (x : PortSt) : PortSt := { x with switchAt := x.switchAt ++ [(lane.val, extendSeq x.acked q.toNat)] }
  have record : ((work s).on fun d => d.onPort p.val named).dev.port p.val = { x with switchAt := [(lane.val, a)] } := by
    refine (port_onPort_same (work s).dev p.val named).trans ?_
    show ({ x with switchAt := (s.dev.port p.val).switchAt ++ [(lane.val, a)] } : PortSt) = _
    rw [first]
    rfl
  have replaced (l : List (Nat × BitVec 64)) : ((work s).on fun d => d.onPort p.val named).on (switching p.val l) = put l := by
    have same : switching p.val l (s.dev.onPort p.val named) = switching p.val l s.dev := onPort_onPort ..
    show { (work s) with dev := switching p.val l (s.dev.onPort p.val named) } = _
    rw [same]
    rfl
  have settled := settleLanes_one (congrArg PortSt.switchAt record)
  rw [record, replaced, replaced] at settled
  refine ⟨fun now => ?_, fun later => ?_⟩
  · rw [if_pos (by simpa only [PortSt.due, decide_eq_true_eq] using now)] at settled
    exact next_after_of_eq (exec_laneSwitch p lane q s) settled
  · rw [if_neg (by simpa only [PortSt.due, decide_eq_true_eq, Nat.not_le] using later)] at settled
    exact next_after_of_eq (exec_laneSwitch p lane q s) settled

end

theorem exec_laneFail (p : Port) (lane : Fin 10) (s : State) : let x := s.dev.port p.val
    let w := dropLane p.val lane.val (work s)
    exec (.laneFail p lane) s = .next (after s
      (if (x.trained || x.state == 2) && bitAt x.active.toNat lane.val then w.on fun d => d.emit (.laneSwitch p.val lane.val x.rx) else w)) :=
  runMem_after (fun w =>
    let x := w.dev.port p.val
    let tell := (x.trained || x.state == 2) && bitAt x.active.toNat lane.val
    let w := dropLane p.val lane.val w
    if tell then w.on fun d => d.emit (.laneSwitch p.val lane.val x.rx) else w) s

/-! ## Flits that arrive (R380, R383, R384) -/

/-- A port once a flit's corrected codewords are counted. -/
def PortSt.counted (corrected : List Nat) (x : PortSt) : PortSt :=
  (corrected.filter fun l => decide (l < 10)).foldl (fun x l => x.count (12 + l) 1) (x.count 6 corrected.length)

theorem counted_frame (corrected : List Nat) (x : PortSt) : ∃ ctr, x.counted corrected = { x with ctr := ctr } := by
  refine List.foldlRecOn _ _ (motive := fun y : PortSt => ∃ ctr, y = { x with ctr := ctr }) ⟨_, rfl⟩ ?_
  rintro _ ⟨ctr, rfl⟩ l -
  exact ⟨_, rfl⟩

theorem ack_frame (low : Nat) (x : PortSt) : ∃ ctr tx acked resends waiting, x.ack low = { x with
    ctr := ctr
    tx := tx
    acked := acked
    resends := resends
    waiting := waiting } := by
  unfold PortSt.ack
  dsimp only
  split
  · exact ⟨_, _, _, _, _, rfl⟩
  · exact ⟨x.ctr, x.tx, x.acked, x.resends, x.waiting, rfl⟩

/-- A port that asks for a flit again. -/
def PortSt.hunts (x : PortSt) : PortSt := { x with hunting := true }

theorem discardFlit_eq (p seq : Nat) (d : Dev) : discardFlit p seq d =
    if (d.port p).hunting && seq != (d.port p).rx.toNat % 2 ^ 32 then d
    else (d.onPort p PortSt.hunts).emit (.retryReq p (d.port p).rx) := rfl

/-- A discarded flit makes its port ask again. -/
theorem port_discardFlit (p seq : Nat) (d : Dev) : (discardFlit p seq d).port p = (d.port p).hunts := by
  rw [discardFlit_eq]
  split
  · next again =>
    have hunting : (d.port p).hunting = true := ((Bool.and_eq_true _ _).mp again).1
    rw [PortSt.hunts, ← hunting]
  · exact port_onPort_same ..

theorem discardFlit_asks {p seq : Nat} {d : Dev} (first : (d.port p).hunting = false) :
    (discardFlit p seq d).out = d.out ++ [.retryReq p (d.port p).rx] := by
  rw [discardFlit_eq, if_neg (by simp [first])]
  rfl

/-- What a port has received and sent: the next flit it expects, the last acknowledged, its streams and lane switches; whether it hunts. -/
def PortSt.inbound (x : PortSt) : BitVec 64 × BitVec 64 × Tab (List Byte) × List (Nat × BitVec 64) × Bool :=
  (x.rx, x.acked, x.streams, x.switchAt, x.hunting)

theorem checkTags_inbound (p : Nat) (d : Dev) : ((checkTags p d).port p).inbound = (d.port p).inbound := by
  have secures : ((raiseAlarm 0x0B (BitVec.ofNat 16 p) (enterPort p 2 (d.onPort p fun x => { x with auths := [] }))).port p) =
      { d.port p with
        state := 2
        auths := [] } := (port_enterPort_same ..).trans (congrArg (fun x : PortSt => { x with state := 2 }) (port_onPort_same ..))
  unfold checkTags
  extract_lets x now clean
  split
  · have kept := congrArg PortSt.inbound secures
    exact kept
  · rfl

/-- A port once a flit came with a codeword that could not be corrected. -/
def PortSt.uncorrectable (now : BitVec 64) (x : PortSt) : PortSt := { (x.count 7 1) with uncorrAt := some now }

/-- A port once a flit came that does not authenticate. -/
def PortSt.untagged (now : BitVec 64) (x : PortSt) : PortSt :=
  { (x.count 9 1) with auths := (x.auths.filter fun t => within now t 1000000) ++ [now] }

/-- A port that accepts a flit in sequence. -/
def PortSt.accepts (hdr : BitVec 128) (x : PortSt) : PortSt :=
  { (x.count 5 1) with
    rx := x.rx + 1
    hunting := false
    credits := Tab.put x.credits (bits hdr.toNat 101 100) (Tab.getD x.credits (bits hdr.toNat 101 100) 0 + bits hdr.toNat 99 88) }

/-- An authentic flit in sequence: the port, and the segment that its last flit gives. -/
def PortSt.joined (kind : Nat) (hdr : BitVec 128) (b : FlitBody) (x : PortSt) : PortSt × Option (List Byte) :=
  if kind = 1 then x.assemble hdr (x.payload hdr b) else (x, none)

/-- A flit whose codewords are counted is accepted in sequence, or discarded. -/
def flitTaken (p kind : Nat) (hdr : BitVec 128) (fec : Bool) (b : FlitBody) (now : BitVec 64) (d : Dev) : Dev × Option (List Byte) :=
  if fec then (discardFlit p (flitSeq hdr) (d.onPort p (PortSt.uncorrectable now)), none)
  else if !(d.port p).authentic hdr b then (checkTags p (discardFlit p (flitSeq hdr) (d.onPort p (PortSt.untagged now))), none)
  else
    let d := d.onPort p (fun x => x.ack (flitAck hdr))
    if flitSeq hdr ≠ (d.port p).rx.toNat % 2 ^ 32 then (discardFlit p (flitSeq hdr) d, none)
    else (d.onPort p fun _ => ((d.port p).joined kind hdr b).1.accepts hdr, ((d.port p).joined kind hdr b).2)

section

variable {p kind : Nat} {hdr : BitVec 128} {fec : Bool} {b : FlitBody} {ls : List Nat} {d : Dev}

theorem doFlit_dead (dead : ((d.port p).trained || (kind == 2 && (d.port p).state == 2)) = false) :
    doFlit p kind hdr fec b ls d = (d, none) := by
  refine if_pos ?_
  rw [dead]
  rfl

variable (trained : (d.port p).trained = true) (own : flitKind hdr = kind)
include trained own

theorem doFlit_trained : doFlit p kind hdr fec b ls d =
    flitTaken p kind hdr fec b (d.hlc (portHub p)) (d.onPort p (PortSt.counted ls)) := by
  have live : (!((d.port p).trained || (kind == 2 && (d.port p).state == 2)) || flitKind hdr != kind) = false := by simp [trained, own]
  unfold doFlit
  dsimp only
  rw [live]
  rfl

end

section

variable {p kind : Nat} {hdr : BitVec 128} {fec : Bool} {b : FlitBody} {now : BitVec 64} {d : Dev}

/-- A flit that is discarded before its sequence number counts. -/
theorem flitTaken_bad (bad : fec = true ∨ (d.port p).authentic hdr b = false) : (flitTaken p kind hdr fec b now d).2 = none ∧
    ((flitTaken p kind hdr fec b now d).1.port p).inbound = (d.port p).hunts.inbound := by
  have discarded (f : PortSt → PortSt) (kept : (f (d.port p)).hunts.inbound = (d.port p).hunts.inbound) :
      ((discardFlit p (flitSeq hdr) (d.onPort p f)).port p).inbound = (d.port p).hunts.inbound := by
    rw [port_discardFlit, port_onPort_same, kept]
  cases fec with
  | true => exact ⟨rfl, discarded (PortSt.uncorrectable now) rfl⟩
  | false =>
    have fails : (d.port p).authentic hdr b = false := bad.resolve_left (by decide)
    unfold flitTaken
    rw [if_neg (by decide), if_pos (by simp [fails])]
    exact ⟨rfl, (checkTags_inbound ..).trans (discarded (PortSt.untagged now) rfl)⟩

variable (authentic : (d.port p).authentic hdr b = true)
include authentic

theorem flitTaken_authentic : flitTaken p kind hdr false b now d =
    (let e := d.onPort p fun x => x.ack (flitAck hdr)
    if flitSeq hdr ≠ (e.port p).rx.toNat % 2 ^ 32 then (discardFlit p (flitSeq hdr) e, none)
    else (e.onPort p fun _ => ((e.port p).joined kind hdr b).1.accepts hdr, ((e.port p).joined kind hdr b).2)) := by
  unfold flitTaken
  rw [if_neg (by decide), if_neg (by simp [authentic])]

omit authentic in
/-- What an acknowledgement leaves: the next flit expected, the keys, the streams, the switches and whether the port hunts. -/
theorem port_acked (d : Dev) (p low : Nat) : let x := (d.onPort p fun x => x.ack low).port p
    x.rx = (d.port p).rx ∧ x.keys = (d.port p).keys ∧ x.streams = (d.port p).streams ∧ x.switchAt = (d.port p).switchAt ∧
      x.hunting = (d.port p).hunting := by
  obtain ⟨ctr, tx, acked, resends, waiting, frame⟩ := ack_frame low (d.port p)
  intro x
  have record : x = (d.port p).ack low := port_onPort_same d p fun x => x.ack low
  rw [record, frame]
  exact ⟨rfl, rfl, rfl, rfl, rfl⟩

/-- An authentic flit out of sequence is discarded. -/
theorem flitTaken_early (early : flitSeq hdr ≠ (d.port p).rx.toNat % 2 ^ 32) : let r := flitTaken p kind hdr false b now d
    r.2 = none ∧ (r.1.port p).rx = (d.port p).rx ∧ (r.1.port p).hunting = true ∧ (r.1.port p).switchAt = (d.port p).switchAt ∧
      ((d.port p).hunting = false → r.1.out = d.out ++ [.retryReq p (d.port p).rx]) := by
  obtain ⟨rx, -, -, switchAt, hunting⟩ := port_acked d p (flitAck hdr)
  intro r
  have discarded : r = (discardFlit p (flitSeq hdr) (d.onPort p fun x => x.ack (flitAck hdr)), none) := by
    refine (flitTaken_authentic authentic).trans (if_pos ?_)
    rwa [rx]
  rw [discarded]
  refine ⟨rfl, ?_, ?_, ?_, fun first => ?_⟩
  · rw [port_discardFlit]
    exact rx
  · rw [port_discardFlit]
    rfl
  · rw [port_discardFlit]
    exact switchAt
  · rw [discardFlit_asks (hunting.trans first), rx]
    rfl

/-- An authentic flit in sequence is accepted. -/
theorem flitTaken_due (due : flitSeq hdr = (d.port p).rx.toNat % 2 ^ 32) : ∃ x : PortSt, x.rx = (d.port p).rx ∧ x.keys = (d.port p).keys ∧
    x.streams = (d.port p).streams ∧ x.switchAt = (d.port p).switchAt ∧ (flitTaken p kind hdr false b now d).2 = (x.joined kind hdr b).2 ∧
    (flitTaken p kind hdr false b now d).1.port p = (x.joined kind hdr b).1.accepts hdr ∧
    (flitTaken p kind hdr false b now d).1.out = d.out := by
  obtain ⟨rx, keys, streams, switchAt, -⟩ := port_acked d p (flitAck hdr)
  have accepted : flitTaken p kind hdr false b now d = _ := (flitTaken_authentic authentic).trans (if_neg (by rw [rx]; simpa using due))
  refine ⟨_, rx, keys, streams, switchAt, ?_⟩
  rw [accepted]
  exact ⟨rfl, port_onPort_same .., rfl⟩

end

/-- The bytes of a stream with the payload of a flit on it. -/
def PortSt.joining (hdr : BitVec 128) (b : FlitBody) (x : PortSt) : List Byte :=
  (if bitAt hdr.toNat 70 then [] else Tab.getD x.streams (flitStream hdr) []) ++ x.payload hdr b

theorem joined_kept (kind : Nat) (hdr : BitVec 128) (b : FlitBody) (x : PortSt) : (x.joined kind hdr b).1.rx = x.rx ∧
    (x.joined kind hdr b).1.switchAt = x.switchAt := by
  unfold PortSt.joined PortSt.assemble
  dsimp only
  split
  · split
    · exact ⟨rfl, rfl⟩
    · exact ⟨rfl, rfl⟩
  · exact ⟨rfl, rfl⟩

theorem joined_last {hdr : BitVec 128} (last : bitAt hdr.toNat 71 = true) (b : FlitBody) (x : PortSt) :
    (x.joined 1 hdr b).2 = some (x.joining hdr b) := by
  unfold PortSt.joined PortSt.assemble PortSt.joining
  rw [if_pos rfl, if_pos last]

theorem joined_middle {hdr : BitVec 128} (more : bitAt hdr.toNat 71 = false) (b : FlitBody) (x : PortSt) :
    (x.joined 1 hdr b).2 = none ∧ Tab.getD (x.joined 1 hdr b).1.streams (flitStream hdr) [] = x.joining hdr b := by
  unfold PortSt.joined PortSt.assemble PortSt.joining
  rw [if_pos rfl, if_neg (by simp [more])]
  exact ⟨rfl, Tab.getD_put_same ..⟩

theorem joined_other {kind : Nat} (other : kind ≠ 1) (hdr : BitVec 128) (b : FlitBody) (x : PortSt) : (x.joined kind hdr b).2 = none := by
  rw [PortSt.joined, if_neg other]

/-- Authenticity and payload follow from the flit expected and the keys. -/
theorem authentic_congr {x y : PortSt} (rx : x.rx = y.rx) (keys : x.keys = y.keys) (hdr : BitVec 128) (b : FlitBody) :
    x.authentic hdr b = y.authentic hdr b := by
  unfold PortSt.authentic PortSt.countOf PortSt.keyAt
  rw [rx, keys]

theorem payload_congr {x y : PortSt} (rx : x.rx = y.rx) (keys : x.keys = y.keys) (hdr : BitVec 128) (b : FlitBody) :
    x.payload hdr b = y.payload hdr b := by
  unfold PortSt.payload PortSt.countOf PortSt.keyAt
  rw [rx, keys]

section

variable {p kind : Nat} {hdr : BitVec 128} {fec : Bool} {b : FlitBody} {ls : List Nat} {d : Dev}
variable (trained : (d.port p).trained = true) (own : flitKind hdr = kind)
include trained own

/-- A flit that a trained port discards before its sequence number counts. -/
theorem doFlit_bad (bad : fec = true ∨ (d.port p).authentic hdr b = false) : (doFlit p kind hdr fec b ls d).2 = none ∧
    ((doFlit p kind hdr fec b ls d).1.port p).inbound = (d.port p).hunts.inbound := by
  obtain ⟨ctr, counted⟩ := counted_frame ls (d.port p)
  have record := port_onPort_same d p (PortSt.counted ls)
  rw [counted] at record
  rw [doFlit_trained trained own]
  have taken := flitTaken_bad (kind := kind) (now := d.hlc (portHub p)) (d := d.onPort p (PortSt.counted ls)) (p := p) (hdr := hdr)
    (fec := fec) (b := b) (bad.imp_right fun fails => by rw [record]; exact fails)
  rwa [record] at taken

variable (authentic : (d.port p).authentic hdr b = true)
include authentic

theorem doFlit_early (early : flitSeq hdr ≠ (d.port p).rx.toNat % 2 ^ 32) : let r := doFlit p kind hdr false b ls d
    r.2 = none ∧ (r.1.port p).rx = (d.port p).rx ∧ (r.1.port p).hunting = true ∧ (r.1.port p).switchAt = (d.port p).switchAt ∧
      ((d.port p).hunting = false → r.1.out = d.out ++ [.retryReq p (d.port p).rx]) := by
  obtain ⟨ctr, counted⟩ := counted_frame ls (d.port p)
  have record := port_onPort_same d p (PortSt.counted ls)
  rw [counted] at record
  rw [doFlit_trained trained own]
  have taken := flitTaken_early (kind := kind) (now := d.hlc (portHub p)) (d := d.onPort p (PortSt.counted ls)) (p := p) (hdr := hdr)
    (b := b) (by rw [record]; exact authentic) (by rw [record]; exact early)
  rw [record] at taken
  exact taken

theorem doFlit_due (due : flitSeq hdr = (d.port p).rx.toNat % 2 ^ 32) : ∃ x : PortSt, x.rx = (d.port p).rx ∧ x.keys = (d.port p).keys ∧
    x.streams = (d.port p).streams ∧ x.switchAt = (d.port p).switchAt ∧ (doFlit p kind hdr false b ls d).2 = (x.joined kind hdr b).2 ∧
    (doFlit p kind hdr false b ls d).1.port p = (x.joined kind hdr b).1.accepts hdr ∧
    (doFlit p kind hdr false b ls d).1.out = d.out := by
  obtain ⟨ctr, counted⟩ := counted_frame ls (d.port p)
  have record := port_onPort_same d p (PortSt.counted ls)
  rw [counted] at record
  rw [doFlit_trained trained own]
  have taken := flitTaken_due (kind := kind) (now := d.hlc (portHub p)) (d := d.onPort p (PortSt.counted ls)) (p := p) (hdr := hdr)
    (b := b) (by rw [record]; exact authentic) (by rw [record]; exact due)
  rw [record] at taken
  exact taken

end

theorem joining_congr {x y : PortSt} (rx : x.rx = y.rx) (keys : x.keys = y.keys) (streams : x.streams = y.streams) (hdr : BitVec 128)
    (b : FlitBody) : x.joining hdr b = y.joining hdr b := by
  rw [PortSt.joining, PortSt.joining, streams, payload_congr rx keys]

/-- The last flit of a segment gives it whole (R386). -/
theorem doFlit_whole (d : Dev) (p : Nat) (hdr : BitVec 128) (b : FlitBody) (trained : (d.port p).trained = true) (own : flitKind hdr = 1)
    (authentic : (d.port p).authentic hdr b = true) (due : flitSeq hdr = (d.port p).rx.toNat % 2 ^ 32) (last : bitAt hdr.toNat 71 = true) :
    (doFlit p 1 hdr false b [] d).2 = some ((d.port p).joining hdr b) := by
  obtain ⟨x, rx, keys, streams, -, segment, -⟩ := doFlit_due (ls := []) trained own authentic due
  rw [segment, joined_last last, joining_congr rx keys streams]

/-! ## The commands of flits -/

section

variable {s : State} {p : Port} {hdr : BitVec 128} {fec : Bool} {b : FlitBody} {ls : List Nat}

theorem exec_flitMgmt (p : Port) (hdr : BitVec 128) (fec : Bool) (b : FlitBody) (ls : List Nat) (s : State) :
    exec (.flitMgmt p hdr fec ⟨b, ls⟩) s = .next { s with dev := (doFlit p.val 2 hdr fec b ls s.dev).1 } := rfl

theorem exec_flitData (p : Port) (hdr : BitVec 128) (fec : Bool) (b : FlitBody) (ls : List Nat) (s : State) :
    exec (.flitData p hdr fec b ls) s = .next (after s (doFlitData p.val hdr fec b ls (work s))) := runMem_after ..

/-- A DATA flit settles the lanes, and gives its segment where it is the last. -/
theorem flitData_segments (p : Port) (hdr : BitVec 128) (fec : Bool) (b : FlitBody) (ls : List Nat) (s : State) :
    let r := doFlit p.val 1 hdr fec b ls s.dev
    let w := settleLanes p.val ((work s).on fun _ => r.1)
    (r.2 = none → exec (.flitData p hdr fec b ls) s = .next (after s w)) ∧
    (∀ bs, r.2 = some bs → let h := BitVec.ofNat 256 (fieldLe bs 0 32)
      exec (.flitData p hdr fec b ls) s = .next (after s (doSegment p.val h (sliceB bs 32 (min (bits h.toNat 187 156) (bs.length - 32))) w))) := by
  intro r w
  have taken : doFlitData p.val hdr fec b ls (work s) = match r.2 with
      | none => w
      | some bs => doSegment p.val (BitVec.ofNat 256 (fieldLe bs 0 32))
        (sliceB bs 32 (min (bits (BitVec.ofNat 256 (fieldLe bs 0 32)).toNat 187 156) (bs.length - 32))) w := rfl
  refine ⟨fun none => next_after_of_eq (exec_flitData p hdr fec b ls s) ?_,
    fun bs some => next_after_of_eq (exec_flitData p hdr fec b ls s) ?_⟩
  · rw [taken, none]
  · rw [taken, some]

/-- A DATA flit that gives no segment, on a port that names no lane switch. -/
theorem flitData_gives {P : Dev → Prop} (none : (doFlit p.val 1 hdr fec b ls s.dev).2 = none)
    (still : ((doFlit p.val 1 hdr fec b ls s.dev).1.port p.val).switchAt = [])
    (h : P (switching p.val [] (doFlit p.val 1 hdr fec b ls s.dev).1)) : Gives (.flitData p hdr fec b ls) s P := by
  refine gives_of_on ((flitData_segments p hdr fec b ls s).1 none) ?_ h
  exact settleLanes_of_nothing (w := (work s).on fun _ => (doFlit p.val 1 hdr fec b ls s.dev).1) still

theorem flit_untrained (untrained : (s.dev.port p.val).trained = false) (still : (s.dev.port p.val).switchAt = []) :
    ((s.dev.port p.val).state ≠ 2 → exec (.flitMgmt p hdr fec ⟨b, ls⟩) s = .next s) ∧
    Gives (.flitData p hdr fec b ls) s fun d => (∀ k, d.port k = s.dev.port k) ∧ { d with fab := s.dev.fab } = s.dev := by
  have data : doFlit p.val 1 hdr fec b ls s.dev = (s.dev, none) := doFlit_dead (by simp [untrained])
  refine ⟨fun other => ?_, flitData_gives ?_ ?_ ?_⟩
  · rw [exec_flitMgmt, doFlit_dead (by simp [untrained, other])]
  · rw [data]
  · rw [data]
    exact still
  · rw [data]
    exact ⟨port_switching still, rfl⟩

end

/-! ## Retries (R380, R381) -/

section

variable {s : State} {p : Port} {q : BitVec 32}

theorem exec_retryReq (p : Port) (q : BitVec 32) (s : State) : exec (.retryReq p q) s = .next (after s (doRetryReq p.val q.toNat (work s))) :=
  runMem_after ..

/-- A port that sends again from a flit that it is asked for. -/
def PortSt.resending (a : BitVec 64) (n resends : Nat) (x : PortSt) : PortSt :=
  { ((x.count 8 n).count 4 n) with acked := a, resends := resends }

/-- What a request that names a flit sent does. -/
theorem doRetryReq_named {w : Wk} {p low : Nat} {a : BitVec 64} (named : extendSeq (w.dev.port p).acked low = a) : let x := w.dev.port p
    let again := a == x.acked && decide (0 < x.resends)
    (x.trained || x.state == 2) = true → (a - x.acked).toNat < (x.tx - x.acked).toNat → doRetryReq p low w =
      if again && decide (4 ≤ x.resends) then retrain p w
      else w.on fun d => (d.onPort p (PortSt.resending a (x.tx - a).toNat (if again then x.resends + 1 else 1))).emit
        (.resend p a (x.tx - a).toNat) := by
  intro x again live sent
  unfold doRetryReq
  dsimp only
  rw [named, if_neg]
  · rfl
  · rw [Bool.or_eq_true, decide_eq_true_eq]
    rintro (dead | never)
    · rw [live] at dead
      exact absurd dead (by decide)
    · exact absurd sent (Nat.not_lt.2 never)

/-- The first request for a flit sends again from it. -/
theorem doRetryReq_first {w : Wk} {p low : Nat} {a : BitVec 64} (named : extendSeq (w.dev.port p).acked low = a)
    (live : ((w.dev.port p).trained || (w.dev.port p).state == 2) = true)
    (sent : (a - (w.dev.port p).acked).toNat < ((w.dev.port p).tx - (w.dev.port p).acked).toNat) (first : (w.dev.port p).resends = 0) :
    doRetryReq p low w = w.on fun _ => (w.dev.onPort p (PortSt.resending a ((w.dev.port p).tx - a).toNat 1)).emit
      (.resend p a ((w.dev.port p).tx - a).toNat) := by
  have never : (a == (w.dev.port p).acked && decide (0 < (w.dev.port p).resends)) = false := by simp [first]
  have acts := doRetryReq_named named live sent
  rw [never] at acts
  exact acts

theorem retryReq_idle (h : ((s.dev.port p.val).trained = false ∧ (s.dev.port p.val).state ≠ 2) ∨
    ((s.dev.port p.val).tx - (s.dev.port p.val).acked).toNat ≤
      (extendSeq (s.dev.port p.val).acked q.toNat - (s.dev.port p.val).acked).toNat) : exec (.retryReq p q) s = .next s := by
  refine runMem_of_idle (if_pos ?_)
  rw [Bool.or_eq_true, decide_eq_true_eq]
  rcases h with ⟨untrained, other⟩ | never
  · left
    simp [work, untrained, other]
  · exact .inr never

variable (trained : (s.dev.port p.val).trained = true)
  (sent : (extendSeq (s.dev.port p.val).acked q.toNat - (s.dev.port p.val).acked).toNat <
    ((s.dev.port p.val).tx - (s.dev.port p.val).acked).toNat)
include trained sent

theorem retryReq_gives (first : (s.dev.port p.val).resends = 0) : let x := s.dev.port p.val
    let a := extendSeq x.acked q.toNat
    Gives (.retryReq p q) s fun d => (d.port p.val).acked = a ∧ (d.port p.val).tx = x.tx ∧
      d.out = s.dev.out ++ [.resend p.val a (x.tx - a).toNat] := by
  have live : ((s.dev.port p.val).trained || (s.dev.port p.val).state == 2) = true := by simp [trained]
  generalize named : extendSeq (s.dev.port p.val).acked q.toNat = a at sent
  have acts := doRetryReq_first (w := work s) named live sent first
  have record := port_onPort_same s.dev p.val (PortSt.resending a ((s.dev.port p.val).tx - a).toNat 1)
  have acked := congrArg PortSt.acked record
  have tx := congrArg PortSt.tx record
  dsimp only
  rw [named]
  exact gives_of_on (exec_retryReq p q s) acts ⟨acked, tx, rfl⟩

theorem retryReq_retrains (same : extendSeq (s.dev.port p.val).acked q.toNat = (s.dev.port p.val).acked)
    (often : 4 ≤ (s.dev.port p.val).resends) : exec (.retryReq p q) s = .next (after s (retrain p.val (work s))) := by
  have live : ((s.dev.port p.val).trained || (s.dev.port p.val).state == 2) = true := by simp [trained]
  refine next_after_of_eq (exec_retryReq p q s) ((doRetryReq_named (w := work s) rfl live sent).trans (if_pos ?_))
  have again : 0 < (s.dev.port p.val).resends := by omega
  simp [work, same, often, again]

end

/-! ## The cases of O36 -/

section

variable {s : State} {p : Port} {i : Instr} {k : Nat} {hdr : BitVec 128} {b : FlitBody} {ls : List Nat}
variable (trained : (s.dev.port p.val).trained = true) (still : (s.dev.port p.val).switchAt = []) (own : flitKind hdr = k)
include trained still own

theorem flit_discarded (sort : (k = 1 ∧ (i = .flitData p hdr true b ls ∨ (i = .flitData p hdr false b ls ∧
      (s.dev.port p.val).authentic hdr b = false))) ∨
      (k = 2 ∧ (i = .flitMgmt p hdr true ⟨b, ls⟩ ∨ (i = .flitMgmt p hdr false ⟨b, ls⟩ ∧ (s.dev.port p.val).authentic hdr b = false)))) :
    Gives i s fun d => (d.port p.val).rx = (s.dev.port p.val).rx ∧ (d.port p.val).acked = (s.dev.port p.val).acked ∧
      (d.port p.val).streams = (s.dev.port p.val).streams ∧ (d.port p.val).hunting = true := by
  have data {fec : Bool} (hk : k = 1) (bad : fec = true ∨ (s.dev.port p.val).authentic hdr b = false) :
      Gives (.flitData p hdr fec b ls) s fun d => (d.port p.val).rx = (s.dev.port p.val).rx ∧
        (d.port p.val).acked = (s.dev.port p.val).acked ∧ (d.port p.val).streams = (s.dev.port p.val).streams ∧
        (d.port p.val).hunting = true := by
    obtain ⟨none, inbound⟩ := doFlit_bad (ls := ls) trained (own.trans hk) bad
    simp only [PortSt.inbound, PortSt.hunts, Prod.mk.injEq] at inbound
    obtain ⟨rx, acked, streams, switchAt, hunting⟩ := inbound
    refine flitData_gives none (switchAt.trans still) ?_
    rw [port_switching (switchAt.trans still)]
    exact ⟨rx, acked, streams, hunting⟩
  have mgmt {fec : Bool} (hk : k = 2) (bad : fec = true ∨ (s.dev.port p.val).authentic hdr b = false) :
      Gives (.flitMgmt p hdr fec ⟨b, ls⟩) s fun d => (d.port p.val).rx = (s.dev.port p.val).rx ∧
        (d.port p.val).acked = (s.dev.port p.val).acked ∧ (d.port p.val).streams = (s.dev.port p.val).streams ∧
        (d.port p.val).hunting = true := by
    obtain ⟨-, inbound⟩ := doFlit_bad (ls := ls) trained (own.trans hk) bad
    simp only [PortSt.inbound, PortSt.hunts, Prod.mk.injEq] at inbound
    obtain ⟨rx, acked, streams, -, hunting⟩ := inbound
    exact ⟨_, exec_flitMgmt p hdr fec b ls s, rx, acked, streams, hunting⟩
  rcases sort with ⟨hk, rfl | ⟨rfl, untagged⟩⟩ | ⟨hk, rfl | ⟨rfl, untagged⟩⟩
  · exact data hk (.inl rfl)
  · exact data hk (.inr untagged)
  · exact mgmt hk (.inl rfl)
  · exact mgmt hk (.inr untagged)

theorem flit_authentic (sort : (k = 1 ∧ i = .flitData p hdr false b ls ∧ bitAt hdr.toNat 71 = false) ∨
      (k = 2 ∧ i = .flitMgmt p hdr false ⟨b, ls⟩))
    (authentic : (s.dev.port p.val).authentic hdr b = true) : Gives i s fun d =>
      (flitSeq hdr = (s.dev.port p.val).rx.toNat % 2 ^ 32 → (d.port p.val).rx = (s.dev.port p.val).rx + 1 ∧ (d.port p.val).hunting = false ∧
        d.out = s.dev.out ∧ (k = 1 → Tab.getD (d.port p.val).streams (flitStream hdr) [] = (s.dev.port p.val).joining hdr b)) ∧
      (flitSeq hdr ≠ (s.dev.port p.val).rx.toNat % 2 ^ 32 → (d.port p.val).rx = (s.dev.port p.val).rx ∧ (d.port p.val).hunting = true ∧
        ((s.dev.port p.val).hunting = false → d.out = s.dev.out ++ [.retryReq p.val (s.dev.port p.val).rx])) := by
  have early := doFlit_early (ls := ls) trained own authentic
  have due := doFlit_due (ls := ls) trained own authentic
  rcases sort with ⟨rfl, rfl, more⟩ | ⟨rfl, rfl⟩
  · by_cases inOrder : flitSeq hdr = (s.dev.port p.val).rx.toNat % 2 ^ 32
    · obtain ⟨x, rx, keys, streams, switchAt, segment, record, out⟩ := due inOrder
      obtain ⟨none, stream⟩ := joined_middle more b x
      obtain ⟨next, switches⟩ := joined_kept 1 hdr b x
      have quiet : ((doFlit p.val 1 hdr false b ls s.dev).1.port p.val).switchAt = [] := by
        rw [record]
        exact (switches.trans switchAt).trans still
      refine flitData_gives (segment.trans none) quiet ⟨fun _ => ⟨?_, ?_, out, fun _ => ?_⟩, fun other => absurd inOrder other⟩
      · rw [port_switching quiet, record]
        exact congrArg (· + 1) (next.trans rx)
      · rw [port_switching quiet, record]
        rfl
      · rw [port_switching quiet, record]
        exact stream.trans (joining_congr rx keys streams hdr b)
    · obtain ⟨none, rx, hunting, switchAt, asks⟩ := early inOrder
      have quiet := switchAt.trans still
      refine flitData_gives none quiet ⟨fun same => absurd same inOrder, fun _ => ⟨?_, ?_, asks⟩⟩
      · rw [port_switching quiet]
        exact rx
      · rw [port_switching quiet]
        exact hunting
  · refine ⟨_, exec_flitMgmt p hdr false b ls s, fun inOrder => ?_, fun other => ?_⟩
    · obtain ⟨x, rx, -, -, -, -, record, out⟩ := due inOrder
      obtain ⟨next, -⟩ := joined_kept 2 hdr b x
      rw [record]
      exact ⟨congrArg (· + 1) (next.trans rx), rfl, out, fun wrong => absurd wrong (by decide)⟩
    · obtain ⟨-, rx, hunting, -, asks⟩ := early other
      exact ⟨rx, hunting, asks⟩

end

/-- Settles O36: the lanes of a port, the flits that it accepts and discards, and those that it sends again. -/
theorem laneAndFlitCommands : Obligations.LaneAndFlitCommands := by
  refine ⟨dropLane_cases, dropLane_port, fun s p lane => exec_laneFail p lane s, fun s p lane q => laneSwitch_first,
    fun s p lane q => exec_laneSwitch p lane q s, fun s p hdr fec b ls => flit_untrained,
    fun s p i k hdr b ls sort trained still own => flit_discarded trained still own sort,
    fun s p i k hdr b ls sort trained still authentic own => flit_authentic trained still own sort authentic,
    fun s p hdr fec b ls => flitData_segments p hdr fec b ls s, doFlit_whole,
    fun s p q trained first => fun sent => retryReq_gives trained sent first,
    fun s p q => ⟨retryReq_idle, fun trained sent => retryReq_retrains trained sent⟩⟩

end Sys2Proof.Machine
end

section
/-! Requests on functions, queues and contexts: NEGOTIATE, CREATE_QUEUE, READ_BACKLOG, CREATE_CONTEXT (R403, R401, R264, R290, R294). -/

namespace Sys2Proof.Machine

open Sys2Proof

/-! ## The answer to the last request submitted -/

theorem fn_advanceHead (fn : Nat) (d : Dev) : (advanceHead fn d).fn fn = { d.fn fn with
    adHead := BitVec.ofNat 32 ((bits (d.fn fn).adHead.toNat 4 0 + 1) % 32)
    argBad := false } := by
  rw [advanceHead, Dev.fn_onFn_same]

/-- The last request answered is answered, and no request is left to refuse. -/
theorem finish_answers_last {r : AdReq} {w : Wk} (last : LastSlot w.dev r.fn r.slot) (st code : Nat) (res : List Byte) : ∃ l fw vs,
    finish r (.done st code res) w =
      w.on (fun d => adRespond r.fn r.slot r.tag st code res { advanceHead r.fn d with evcs := l, fw := fw }) ∧
    (adRespond r.fn r.slot r.tag st code res { advanceHead r.fn w.dev with evcs := l, fw := fw }).fn r.fn = { w.dev.fn r.fn with
      adHead := BitVec.ofNat 32 ((r.slot + 1) % 32)
      argBad := false
      vecs := vs
      respSlots := Tab.put (w.dev.fn r.fn).respSlots r.slot
        (responseBytes st code (Tab.getD (w.dev.fn r.fn).respUsed r.slot 0 % 2 == 0) r.tag res)
      respUsed := Tab.put (w.dev.fn r.fn).respUsed r.slot (Tab.getD (w.dev.fn r.fn).respUsed r.slot 0 + 1)
      taken := Tab.del (w.dev.fn r.fn).taken r.slot } := by
  obtain ⟨l, fw, took⟩ := took_spec r w.dev
  obtain ⟨vs, answered⟩ := adRespond_fn r.fn r.slot r.tag st code res { advanceHead r.fn w.dev with evcs := l, fw := fw }
  have advanced : ({ advanceHead r.fn w.dev with evcs := l, fw := fw } : Dev).fn r.fn = { w.dev.fn r.fn with
      adHead := BitVec.ofNat 32 ((r.slot + 1) % 32)
      argBad := false } := by
    rw [← last.head]
    exact (fn_advanceHead r.fn w.dev :)
  refine ⟨l, fw, vs, ?_, ?_⟩
  · simp only [finish, Wk.on]
    rw [took, answerUnknown_none _ _ _ (nextSlot_of_drained ?_)]
    rw [answered]
    exact last.drained
  · rw [answered, advanced]

/-- Inline arguments are the bytes of the slot from 0x20 on. -/
theorem fieldLe_headReq {fn i n k off : Nat} {bs : List Byte} (len : fieldLe bs 0x10 4 = n) (h : off + k ≤ n) :
    fieldLe (headReq fn i bs).args off k = fieldLe bs (0x20 + off) k := by
  have inside : min k (n - off) = k := by omega
  rw [fieldLe, fieldLe, headReq, len, List.drop_take, List.take_take, List.drop_drop, inside]

/-! ## NEGOTIATE (R401, R403) -/

/-- A function whose feature mask is set. -/
def negotiated (fn : Nat) (m : BitVec 128) (d : Dev) : Dev := d.onFn fn fun f => { f with
  feat := m
  xltMode := f.xltMode &&& BitVec.ofNat 32 ((if bitAt m.toNat 2 then 1 else 0) + (if bitAt m.toNat 7 then 2 else 0)) }

theorem exec_negotiate (fn : FnId) (s : State) :
    exec (.negotiate fn) s = .next (after s (takeRequest fn.val (adRow 0x0001 16) doNegotiate (work s))) := rfl

theorem doNegotiate_performed {r : AdReq} {w : Wk} {m : BitVec 128} (mask : effectiveMask w.dev r.fn (BitVec.ofNat 128 (fieldLe r.args 0 16)) = m)
    (idle : r.fn = mgr ∨ (w.dev.vd r.fn).queues = []) :
    doNegotiate r w = performed (natLe 16 m.toNat) (w.on (negotiated r.fn m)) := by
  subst mask
  refine if_neg ?_
  rcases idle with h | h <;> simp [h]

theorem negotiate_gives {s : State} {fn : FnId} {i : Nat} {bs : List Byte} (acc : Accepted s.dev fn.val (adRow 0x0001 16) i bs)
    (idle : fn.val = mgr ∨ (s.dev.vd fn.val).queues = []) (tail : bits (s.dev.fn fn.val).adTail.toNat 4 0 = (i + 1) % 32) :
    Gives (.negotiate fn) s fun d =>
      let m := effectiveMask s.dev fn.val (BitVec.ofNat 128 (fieldLe bs 0x20 16))
      (d.fn fn.val).feat = m ∧ (d.fn fn.val).adHead = BitVec.ofNat 32 ((i + 1) % 32) ∧
      Tab.get? (d.fn fn.val).respSlots i =
        some (responseBytes stOk 0 (Tab.getD (s.dev.fn fn.val).respUsed i 0 % 2 == 0) (BitVec.ofNat 32 (fieldLe bs 4 4)) (natLe 16 m.toNat)) := by
  let m := effectiveMask s.dev fn.val (BitVec.ofNat 128 (fieldLe bs 0x20 16))
  have mask : effectiveMask s.dev fn.val (BitVec.ofNat 128 (fieldLe (headReq fn.val i bs).args 0 16)) = m := by
    rw [fieldLe_headReq rfl acc.length.1]
  have set := Dev.fn_onFn_same s.dev fn.val fun f => { f with
    feat := m
    xltMode := f.xltMode &&& BitVec.ofNat 32 ((if bitAt m.toNat 2 then 1 else 0) + (if bitAt m.toNat 7 then 2 else 0)) }
  have slot := lastSlot_of_accepted acc tail
  have last : LastSlot (negotiated fn.val m s.dev) fn.val i := by
    constructor
    · rw [negotiated, set]
      exact slot.head
    · rw [negotiated, set]
      exact slot.tail
  obtain ⟨l, fw, vs, answer, record⟩ := finish_answers_last (r := headReq fn.val i bs) (w := (work s).on (negotiated fn.val m)) last stOk 0
    (natLe 16 m.toNat)
  have done := (takeRequest_replied (w := work s) acc (doNegotiate_performed (r := headReq fn.val i bs) (w := work s) mask idle)).trans answer
  have before : ((work s).on (negotiated fn.val m)).dev.fn fn.val = _ := set
  have same : (headReq fn.val i bs).fn = fn.val := rfl
  rw [same, before] at record
  refine gives_of_on (exec_negotiate fn s) done ⟨congrArg Fn.feat record, congrArg Fn.adHead record, ?_⟩
  exact (congrArg (fun f => Tab.get? f.respSlots i) record).trans (Tab.get?_put_same ..)

/-! ## CREATE_QUEUE (R264) -/

/-- A device with a queue created. -/
def withQueue (v q : Nat) (x : Queue) (d : Dev) : Dev :=
  let d := (d.onSched fun s => { s with nextUid := s.nextUid + 1 }).setQueue v q x
  d.onVd v fun y => { y with parts := y.parts.map fun (i, p) =>
    (i, if i = x.part ∧ x.be ∧ p.turn.isNone then { p with turn := some x.devq, turnStart := d.hlcOf v } else p) }

theorem exec_createQueue (v : VDev) (s : State) :
    exec (.createQueue v) s = .next (after s (takeRequest v.val (adRow 0x0101 64) doCreateQueue (work s))) := rfl

theorem doCreateQueue_performed {r : AdReq} {w : Wk} {x : Queue}
    (made : mkQueue w.dev.sched.nextUid (lowestFree 0 w.dev.devqs) (r.args.take 64) = x) (fields : queueFieldsOk (r.args.take 64) = true)
    (granted : fieldLe (r.args.take 64) 0 2 < (w.dev.vd r.fn).queueGrant) (rings : ringsOk (w.dev.vd r.fn).table x = true)
    (part : (Tab.get? (w.dev.vd r.fn).parts x.part).isSome = true) (free : w.dev.queue? r.fn (fieldLe (r.args.take 64) 0 2) = none)
    (room : w.dev.devqs.length < 4096) :
    doCreateQueue r w = performed [] (w.on (withQueue r.fn (fieldLe (r.args.take 64) 0 2) x)) := by
  subst made
  have unused : Tab.get? (w.dev.vd r.fn).queues (fieldLe (r.args.take 64) 0 2) = none := free
  have pass : firstStatus [(queueFieldsOk (r.args.take 64) && decide (fieldLe (r.args.take 64) 0 2 < (w.dev.vd r.fn).queueGrant) &&
        ringsOk (w.dev.vd r.fn).table (mkQueue w.dev.sched.nextUid (lowestFree 0 w.dev.devqs) (r.args.take 64)), stField),
      ((Tab.get? (w.dev.vd r.fn).parts (mkQueue w.dev.sched.nextUid (lowestFree 0 w.dev.devqs) (r.args.take 64)).part).isSome, stNotHeld),
      ((Tab.get? (w.dev.vd r.fn).queues (fieldLe (r.args.take 64) 0 2)).isNone, stState),
      (decide (w.dev.devqs.length < 4096), stNoRes)] = none := by
    rw [fields, decide_eq_true granted, rings, part, unused, decide_eq_true room]
    rfl
  unfold doCreateQueue
  dsimp only
  rw [pass]
  rfl

theorem withQueue_queue (v q : Nat) (x : Queue) (d : Dev) : (withQueue v q x d).queue? v q = some x ∧
    ∀ u r, u ≠ v → (withQueue v q x d).queue? u r = d.queue? u r := by
  have placed := Dev.queue?_setQueue_same (d.onSched fun s => { s with nextUid := s.nextUid + 1 }) v q x
  refine ⟨?_, fun u r other => ?_⟩
  · unfold withQueue
    dsimp only
    rw [Dev.queue?, Dev.vd_onVd_same]
    exact placed
  · unfold withQueue
    dsimp only
    rw [Dev.queue?, Dev.vd_onVd_ne _ _ other]
    exact congrArg (fun y : Vd => Tab.get? y.queues r) (Dev.vd_onVd_ne _ _ other)

theorem createQueue_gives {s : State} {v : VDev} {i : Nat} {bs : List Byte} (acc : Accepted s.dev v.val (adRow 0x0101 64) i bs) :
    let cfg := (headReq v.val i bs).args.take 64
    let x := mkQueue s.dev.sched.nextUid (lowestFree 0 s.dev.devqs) cfg
    let q := fieldLe cfg 0 2
    queueFieldsOk cfg = true → q < (s.dev.vd v.val).queueGrant → ringsOk (s.dev.vd v.val).table x = true →
    (Tab.get? (s.dev.vd v.val).parts x.part).isSome = true → s.dev.queue? v.val q = none → s.dev.devqs.length < 4096 →
    Gives (.createQueue v) s fun d => d.queue? v.val q = some x ∧ x.state = .active ∧ x.backlog = [] ∧ x.cqPhase = true ∧
      ∀ u r, u ≠ v.val → d.queue? u r = s.dev.queue? u r := by
  intro cfg x q fields granted rings part free room
  obtain ⟨here, others⟩ := withQueue_queue v.val q x s.dev
  exact gives_of_update (exec_createQueue v s) acc
    (doCreateQueue_performed (r := headReq v.val i bs) (w := work s) rfl fields granted rings part free room)
    fun _ _ _ _ _ => ⟨here, rfl, rfl, rfl, others⟩

/-! ## READ_BACKLOG (R290) -/

theorem exec_readBacklog (v : VDev) (s : State) : exec (.readBacklog v) s =
    .next (after s (takeRequest v.val { adRow 0x0102 4 with bulk := true } doReadBacklog (work s))) := rfl

/-- The records of a backlog as READ_BACKLOG writes them, with phase 0. -/
def backlogBytes (n : Nat) (x : Queue) : List Byte := (x.backlog.take n).flatMap fun y => y.bytes false

theorem doReadBacklog_performed {r : AdReq} {w : Wk} {x : Queue} {n q : Nat} (hn : fieldLe r.args 2 2 = n) (hq : fieldLe r.args 0 2 = q)
    (some_ : 0 < n) (most : n ≤ 256) (number : q < 256) (queue : w.dev.queue? r.fn q = some x)
    (writable : checkAs (hubEng r.fn) w.dev r.fn needW (parts r.result (backlogBytes n x).length) = none) :
    doReadBacklog r w = performed (natLe 2 (x.backlog.take n).length)
      ((writeAs (hubEng r.fn) r.fn r.result (backlogBytes n x) none
        (w.on (useXlt (hubEng r.fn) r.fn [(r.result, (backlogBytes n x).length)]))).1.on fun d =>
          resumeQueue r.fn q (d.setQueue r.fn q { x with backlog := x.backlog.drop n })) := by
  have fields : (n = 0 || 256 < n || 256 ≤ q : Bool) = false := by
    simp only [Bool.or_eq_false_iff, decide_eq_false_iff_not]
    omega
  unfold backlogBytes at writable
  unfold doReadBacklog
  rw [hn, hq]
  dsimp only
  rw [fields, queue]
  dsimp only
  rw [writable]
  rfl

theorem readBacklog_answers {s : State} {v : VDev} {i : Nat} {bs : List Byte} {x : Queue}
    (acc : Accepted s.dev v.val { adRow 0x0102 4 with bulk := true } i bs) :
    let r := headReq v.val i bs
    let n := fieldLe r.args 2 2
    let rs := (x.backlog.take n).flatMap fun y => y.bytes false
    let hub := hubEng v.val
    0 < n → n ≤ 256 → fieldLe r.args 0 2 < 256 → s.dev.queue? v.val (fieldLe r.args 0 2) = some x →
    checkAs hub s.dev v.val needW (parts r.result rs.length) = none →
    exec (.readBacklog v) s = .next (after s (finish r (.done stOk 0 (natLe 2 (x.backlog.take n).length))
      ((writeAs hub v.val r.result rs none ((work s).on (useXlt hub v.val [(r.result, rs.length)]))).1.on fun d =>
        resumeQueue v.val (fieldLe r.args 0 2)
          (d.setQueue v.val (fieldLe r.args 0 2) { x with backlog := x.backlog.drop n })))) := by
  intro r n rs hub some_ most number queue writable
  exact next_after_of_eq (exec_readBacklog v s) (takeRequest_replied (w := work s) acc
    (doReadBacklog_performed (r := r) (w := work s) rfl rfl some_ most number queue writable))

/-! ## CREATE_CONTEXT (R294) -/

theorem exec_createContext (v : VDev) (s : State) :
    exec (.createContext v) s = .next (after s (takeRequest v.val (adRow 0x0201 0) doCreateContext (work s))) := rfl

theorem createContext_gives {s : State} {v : VDev} {i : Nat} {bs : List Byte} (acc : Accepted s.dev v.val (adRow 0x0201 0) i bs) :
    let live := s.dev.ctxs.filter fun c => !c.2.destroying
    let n := lowestFree 1 (s.dev.ctxs.map Prod.fst)
    live.length < 65536 → (live.filter fun c => c.2.vdev == v.val).length < 4096 → n < 2 ^ 20 →
    Gives (.createContext v) s fun d => d.ctxs = Tab.put s.dev.ctxs n ⟨v.val, false, 0, 0, 0, 0, 0, 0⟩ ∧ d.vds = s.dev.vds := by
  intro live n few own low
  have made : doCreateContext (headReq v.val i bs) (work s) = performed (natLe 4 n)
      ((work s).on fun d => { d with ctxs := Tab.put d.ctxs n ⟨v.val, false, 0, 0, 0, 0, 0, 0⟩ }) := by
    refine if_neg ?_
    simp only [Bool.or_eq_true, decide_eq_true_eq, not_or, Nat.not_le]
    exact ⟨⟨few, own⟩, low⟩
  exact gives_of_update (exec_createContext v s) acc made fun _ _ _ _ _ => ⟨rfl, rfl⟩

/-- Settles O12: the four requests, each by what its body performs. -/
theorem queueRequests : Obligations.QueueRequests := by
  refine ⟨fun s fn i bs => negotiate_gives, fun s v i bs => createQueue_gives, fun s v i bs x => readBacklog_answers,
    fun s v i bs => createContext_gives⟩

end Sys2Proof.Machine
end

section
/-! Re-initialisations of functions (R348 … R350, R523). -/

namespace Sys2Proof.Machine

open Sys2Proof

/-! ## RESET_FUNCTION -/

theorem exec_resetFunction (s : State) : exec .resetFunction s = .next (after s
    (startReset (fun k => !((s.dev.fn mgr).taken.map Prod.fst).contains k) (takeRequest mgr (adRow 0x0302 1) doResetFunction (work s)))) :=
  runMem_after (fun w => startReset (fun k => !((w.dev.fn mgr).taken.map Prod.fst).contains k)
    (takeRequest mgr (adRow 0x0302 1) doResetFunction w)) s

/-- The request to re-initialise a function, deferred and begun. -/
theorem resetFunction_defers {s : State} {i : Nat} {bs : List Byte} (acc : Accepted s.dev mgr (adRow 0x0302 1) i bs) :
    let r := headReq mgr i bs
    exec .resetFunction s = .next (after s (startReset (fun k => !((s.dev.fn mgr).taken.map Prod.fst).contains k)
      (finish r (.later (.reset (fieldLe r.args 0 1))) (work s)))) := by
  intro r
  have deferred : takeRequest mgr (adRow 0x0302 1) doResetFunction (work s) = finish r (.later (.reset (fieldLe r.args 0 1))) (work s) :=
    takeRequest_deferred (w := work s) acc rfl
  rw [exec_resetFunction, deferred]

/-- The last request deferred joins those that its function has taken. -/
theorem finish_taken_of_last {r : AdReq} {w : Wk} (last : LastSlot w.dev r.fn r.slot) (op : DefOp) :
    ((finish r (.later op) w).dev.fn r.fn).taken = Tab.put (w.dev.fn r.fn).taken r.slot ⟨r.tag, op, w.dev.hlc (fnHub r.fn)⟩ := by
  obtain ⟨l, fw, took⟩ := took_spec r w.dev
  have deferred := Dev.fn_onFn_same ({ advanceHead r.fn w.dev with evcs := l, fw := fw } : Dev) r.fn fun f =>
    { f with taken := Tab.put f.taken r.slot ⟨r.tag, op, w.dev.hlc (fnHub r.fn)⟩ }
  have before : ({ advanceHead r.fn w.dev with evcs := l, fw := fw } : Dev).fn r.fn = _ := fn_advanceHead r.fn w.dev
  rw [before] at deferred
  simp only [finish, Wk.on]
  rw [took, answerUnknown_none _ _ _ (nextSlot_of_drained ?_)]
  · exact congrArg Fn.taken deferred
  · refine (congrArg (fun f : Fn => bits f.adHead.toNat 4 0) deferred).trans
      (Eq.trans ?_ (congrArg (fun f : Fn => bits f.adTail.toNat 4 0) deferred).symm)
    dsimp only
    rw [last.head, last.tail]
    exact bits_slot _

/-- Where no request was taken before, the new one is begun. -/
theorem startReset_only {w : Wk} {i v : Nat} {tag : BitVec 32} {since : BitVec 64}
    (taken : (w.dev.fn mgr).taken = [(i, ⟨tag, .reset v, since⟩)]) :
    startReset (fun _ => true) w = resetVf v false w := by
  unfold startReset
  rw [taken]
  rfl

theorem resetFunction_begins {s : State} {i : Nat} {bs : List Byte} (acc : Accepted s.dev mgr (adRow 0x0302 1) i bs)
    (tail : bits (s.dev.fn mgr).adTail.toNat 4 0 = (i + 1) % 32) (none_ : (s.dev.fn mgr).taken = []) :
    exec .resetFunction s = .next (after s (resetVf (fieldLe (headReq mgr i bs).args 0 1) false
      (finish (headReq mgr i bs) (.later (.reset (fieldLe (headReq mgr i bs).args 0 1))) (work s)))) := by
  have taken := finish_taken_of_last (r := headReq mgr i bs) (w := work s) (lastSlot_of_accepted acc tail)
    (.reset (fieldLe (headReq mgr i bs).args 0 1))
  have before : ((work s).dev.fn (headReq mgr i bs).fn).taken = [] := none_
  rw [before] at taken
  refine next_after_of_eq (resetFunction_defers acc) ?_
  rw [none_]
  exact startReset_only taken

/-! ## Function-level resets and VF_ENABLE -/

section

variable {s : State} {v : VDev}

theorem exec_functionLevelReset (t : FlrTarget) (s : State) : exec (.functionLevelReset t) s = .next (after s (doFlr t (work s))) :=
  runMem_after ..

theorem exec_vfEnable (v : VDev) (on : Bool) (s : State) : exec (.vfEnable v on) s = .next (after s (doVfEnable v.val on (work s))) :=
  runMem_after ..

theorem vdev_ne_mgr (v : VDev) : v.val ≠ mgr := Nat.ne_of_lt v.isLt

theorem functionLevelReset_enabled (enabled : (s.dev.vd v.val).enabled = true) :
    exec (.functionLevelReset (.vf v)) s = .next (after s (resetVf v.val true (work s))) := by
  refine next_after_of_eq (exec_functionLevelReset _ s) (if_pos ?_)
  simp [Dev.barOpen, work, enabled]

theorem functionLevelReset_disabled (disabled : (s.dev.vd v.val).enabled = false) :
    exec (.functionLevelReset (.vf v)) s = .next s := by
  refine runMem_of_idle (if_neg ?_)
  simp [Dev.barOpen, work, disabled, vdev_ne_mgr v]

theorem vfEnable_same {on : Bool} (same : (s.dev.vd v.val).enabled = on) : exec (.vfEnable v on) s = .next s :=
  runMem_of_idle (if_pos (by simp [work, same]))

theorem vfEnable_on (disabled : (s.dev.vd v.val).enabled = false) : Gives (.vfEnable v true) s fun d =>
    d = s.dev.onVd v.val fun x => { x with enabled := true } :=
  gives_of_on (exec_vfEnable v true s) (if_neg (by simp [work, disabled])) rfl

theorem vfEnable_off (enabled : (s.dev.vd v.val).enabled = true) : exec (.vfEnable v false) s =
    .next (after s (resetVf v.val true ((work s).on fun d => d.onVd v.val fun x => { x with enabled := false }))) :=
  next_after_of_eq (exec_vfEnable v false s) (if_neg (by simp [work, enabled]))

/-- The manager function and its channels to the virtual functions re-initialised (R523). -/
def carrierReset (vs : List Nat) (d : Dev) : Dev :=
  vs.foldl (fun d v => d.onMbx (256 + v) Mbx.senderReset) (dropAts mgr ((cancelTaken mgr d).onFn mgr (Fn.reinit true)))

/-- The virtual functions of a port re-initialised, and its decoders unbound. -/
def portReset (p : Nat) (vs : List Nat) (w : Wk) : Wk := (vs.foldl (fun w v => resetVf v true w) w).on (unbindPort p)

theorem doFlr_carrier (p : Fin 4) (w : Wk) : doFlr (.carrier p) w =
    if p.val = 0 then (portReset p.val (portVfs p.val) w).on (carrierReset (List.range 256)) else portReset p.val (portVfs p.val) w := by
  unfold doFlr carrierReset
  generalize List.range 256 = vs
  rfl

theorem functionLevelReset_first {p : Fin 4} {n : Nat} (same : p.val = n) (first : n = 0) (s : State) :
    exec (.functionLevelReset (.carrier p)) s =
      .next (after s ((portReset n (portVfs n) (work s)).on (carrierReset (List.range 256)))) := by
  rw [exec_functionLevelReset, doFlr_carrier, same, if_pos first]

theorem functionLevelReset_port0 (s : State) : let w := ((portVfs 0).foldl (fun w v => resetVf v true w) (work s)).on (unbindPort 0)
    exec (.functionLevelReset (.carrier 0)) s = .next (after s (w.on fun d =>
      (List.range 256).foldl (fun d v => d.onMbx (256 + v) Mbx.senderReset)
        (dropAts mgr ((cancelTaken mgr d).onFn mgr (Fn.reinit true))))) := by
  have reset := functionLevelReset_first (p := 0) (n := 0) rfl rfl s
  unfold portReset carrierReset at reset
  exact reset

theorem functionLevelReset_port {p : Fin 4} (other : p.val ≠ 0) (s : State) : exec (.functionLevelReset (.carrier p)) s =
    .next (after s (((portVfs p.val).foldl (fun w v => resetVf v true w) (work s)).on (unbindPort p.val))) := by
  rw [exec_functionLevelReset, doFlr_carrier, if_neg other]
  rfl

end

/-! ## A function without queues, slots and taken requests -/

/-- A device whose virtual device is re-initialised: its contexts go, and what it holds in the translation services. -/
def reentered (v : Nat) (d : Dev) : Dev :=
  let d := d.onVd v fun x => { x with inReset := true, sync := none }
  let d := d.onXlt fun x => { x with
    caches := x.caches.filter fun c => c.2.vdev != v
    buffers := x.buffers.filter fun c => c.2.vdev != v }
  { d with ctxs := d.ctxs.map fun (n, c) => (n, if c.vdev = v then { c with destroying := true } else c) }

/-- The registers of a function re-initialised, its faults, messages and reads gone. -/
def reregistered (v : Nat) (flr : Bool) (d : Dev) : Dev :=
  let d := dropFaults v (d.onFn v (Fn.reinit flr))
  let d := (d.onMbx v Mbx.senderReset).onFx fun x => { x with reads := x.reads.filter fun y => y.1 != v }
  if flr then dropAts v d else d

section

variable {v : Nat}

theorem resetVf_of_empty {flr : Bool} {w : Wk} (queues : (w.dev.vd v).queues = []) (slots : (w.dev.vd v).slots = [])
    (taken : (w.dev.fn v).taken = []) :
    resetVf v flr w = w.on fun d => finishReset v (reregistered v flr (reentered v d)) := by
  have owned : failOwned v w.dev = w.dev := by
    rw [failOwned, slots]
    rfl
  have entered : ((w.on (reentered v)).dev.vd v).queues = [] := by
    show ((w.dev.onVd v fun x => { x with inReset := true, sync := none }).vd v).queues = []
    rw [Dev.vd_onVd_same]
    exact queues
  have destroyed : destroyQueues v (w.on (reentered v)) = w.on (reentered v) := by
    rw [destroyQueues, entered]
    rfl
  have cancelled : cancelTaken v (reentered v w.dev) = reentered v w.dev := by
    have same : (reentered v w.dev).fn v = w.dev.fn v := rfl
    rw [cancelTaken, same, taken]
    rfl
  have begun : (w.on (failOwned v)).on (reentered v) = w.on (reentered v) := by
    show ({ w with dev := reentered v (failOwned v w.dev) } : Wk) = _
    rw [owned]
    rfl
  have reset : resetVf v flr w = (destroyQueues v ((w.on (failOwned v)).on (reentered v))).on fun d =>
      finishReset v (reregistered v flr (cancelTaken v d)) := rfl
  rw [reset, begun, destroyed]
  show ({ w with dev := finishReset v (reregistered v flr (cancelTaken v (reentered v w.dev))) } : Wk) = _
  rw [cancelled]
  rfl

/-- The answer to a request of the manager changes no other function, no virtual device and no context. -/
theorem answerMgr_frame (p : DefOp → Bool) (st : Nat) (d : Dev) : (answerMgr p st d).vds = d.vds ∧ (answerMgr p st d).ctxs = d.ctxs ∧
    ∀ k, k ≠ mgr → (answerMgr p st d).fn k = d.fn k := by
  unfold answerMgr
  split
  · next slot t _ =>
    obtain ⟨x, l, fw, out, h⟩ := adRespond_spec mgr slot t.tag st 0 [] d
    rw [h]
    exact ⟨rfl, rfl, fun k other => Tab.getD_put_ne _ _ _ other⟩
  · exact ⟨rfl, rfl, fun _ _ => rfl⟩

/-- A re-initialisation with no command left ends. -/
theorem finishReset_of_empty {d : Dev} (inReset : (d.vd v).inReset = true) (queues : (d.vd v).queues = []) (slots : (d.vd v).slots = []) :
    finishReset v d = answerMgr (DefOp.resets v) stOk
      (({ d with ctxs := d.ctxs.filter fun c => c.2.vdev != v } : Dev).onVd v fun y => { y with inReset := false }) := by
  unfold finishReset
  dsimp only
  rw [inReset, queues, slots]
  rfl

/-- Queues whose current commands are changed. -/
def curMapped (back : Cmd → Cmd) (qs : Tab Queue) : Tab Queue := qs.map fun (q, y) => (q, { y with cur := y.cur.map back })

/-- Faults dropped change the journal, the translation services and the phases of the commands that waited on them. -/
theorem dropFaults_frame (v : Nat) (d : Dev) : ∃ xlt evcs fw back, dropFaults v d =
    ({ d with xlt := xlt, evcs := evcs, fw := fw } : Dev).onVd v fun x => { x with queues := curMapped back x.queues } := by
  have journaled (l : List (Nat × FaultEnt)) (e : Dev) : ∃ evcs fw, l.foldl (fun d e => journal 5 [e.1, 0, e.2.vdev, e.2.page % 2 ^ 32] d) e =
      { e with evcs := evcs, fw := fw } := by
    refine List.foldlRecOn l _ (motive := fun x : Dev => ∃ evcs fw, x = { e with evcs := evcs, fw := fw }) ⟨e.evcs, e.fw, rfl⟩ ?_
    rintro _ ⟨evcs, fw, rfl⟩ a -
    obtain ⟨l, j, h⟩ := journal_spec 5 [a.1, 0, a.2.vdev, a.2.page % 2 ^ 32] ({ e with evcs := evcs, fw := fw } : Dev)
    exact ⟨l, j, h⟩
  unfold dropFaults
  extract_lets gone e f back
  obtain ⟨evcs, fw, told⟩ := journaled gone e
  refine ⟨e.xlt, evcs, fw, back, ?_⟩
  dsimp only [f]
  rw [told]
  rfl

/-- What a device without the command, the slots and the requests of a virtual device looks like once its function is re-initialised. -/
theorem reregistered_spec (v : Nat) (d : Dev) : (reregistered v true (reentered v d)).fn v = (d.fn v).reinit true ∧
    (∃ qs, (reregistered v true (reentered v d)).vd v = { d.vd v with inReset := true, sync := none, queues := qs } ∧
      ((d.vd v).queues = [] → qs = [])) ∧
    (reregistered v true (reentered v d)).ctxs = (reentered v d).ctxs ∧ ∀ u, u ≠ v → (reregistered v true (reentered v d)).vd u = d.vd u := by
  obtain ⟨xlt, evcs, fw, back, dropped⟩ := dropFaults_frame v ((reentered v d).onFn v (Fn.reinit true))
  have base (u : Nat) : (reregistered v true (reentered v d)).vd u = (dropFaults v ((reentered v d).onFn v (Fn.reinit true))).vd u := rfl
  have entered : ({ (reentered v d).onFn v (Fn.reinit true) with xlt := xlt, evcs := evcs, fw := fw } : Dev).vd v =
      { d.vd v with inReset := true, sync := none } := (Dev.vd_onVd_same d v fun x => { x with inReset := true, sync := none } :)
  refine ⟨?_, ⟨curMapped back (d.vd v).queues, ?_, fun none => ?_⟩, ?_, fun u other => ?_⟩
  · show (dropFaults v ((reentered v d).onFn v (Fn.reinit true))).fn v = _
    rw [dropped]
    exact (Dev.fn_onFn_same (reentered v d) v (Fn.reinit true) :)
  · rw [base, dropped, Dev.vd_onVd_same, entered]
  · rw [none]
    rfl
  · show (dropFaults v ((reentered v d).onFn v (Fn.reinit true))).ctxs = _
    rw [dropped]
    rfl
  · rw [base, dropped, Dev.vd_onVd_ne _ _ other]
    exact (Dev.vd_onVd_ne d (fun x => { x with inReset := true, sync := none }) other :)

end

theorem functionLevelReset_empty {s : State} {v : VDev} (enabled : (s.dev.vd v.val).enabled = true) (queues : (s.dev.vd v.val).queues = [])
    (slots : (s.dev.vd v.val).slots = []) (taken : (s.dev.fn v.val).taken = []) :
    Gives (.functionLevelReset (.vf v)) s fun d => d.fn v.val = (s.dev.fn v.val).reinit true ∧
      (d.vd v.val).table = (s.dev.vd v.val).table ∧ (d.vd v.val).gen = (s.dev.vd v.val).gen ∧
      (d.vd v.val).cores = (s.dev.vd v.val).cores ∧ (d.vd v.val).chans = (s.dev.vd v.val).chans ∧
      (∀ c ∈ d.ctxs, c.2.vdev ≠ v.val) ∧ ∀ u, u ≠ v.val → d.vd u = s.dev.vd u := by
  obtain ⟨registers, ⟨qs, own, none⟩, -, others⟩ := reregistered_spec v.val s.dev
  have inReset := congrArg Vd.inReset own
  have noQueues := (congrArg Vd.queues own).trans (none queues)
  have noSlots := (congrArg Vd.slots own).trans slots
  let e := reregistered v.val true (reentered v.val s.dev)
  let f : Dev := ({ e with ctxs := e.ctxs.filter fun c => c.2.vdev != v.val } : Dev).onVd v.val fun y => { y with inReset := false }
  have ended : finishReset v.val e = answerMgr (DefOp.resets v.val) stOk f := finishReset_of_empty inReset noQueues noSlots
  obtain ⟨vds, ctxs, fns⟩ := answerMgr_frame (DefOp.resets v.val) stOk f
  rw [← ended] at vds ctxs fns
  have vd (u : Nat) : (finishReset v.val e).vd u = f.vd u := by rw [Dev.vd, Dev.vd, vds]
  have here : (finishReset v.val e).vd v.val = { e.vd v.val with inReset := false } := (vd v.val).trans
    (Dev.vd_onVd_same { e with ctxs := e.ctxs.filter fun c => c.2.vdev != v.val } v.val fun y => { y with inReset := false } :)
  have before : e.vd v.val = _ := own
  rw [before] at here
  refine gives_of_on (functionLevelReset_enabled enabled) (resetVf_of_empty (w := work s) queues slots taken)
    ⟨?_, (congrArg Vd.table here :), (congrArg Vd.gen here :), (congrArg Vd.cores here :), (congrArg Vd.chans here :), fun c listed => ?_,
      fun u other => ?_⟩
  · exact (fns v.val (vdev_ne_mgr v)).trans registers
  · have kept : c ∈ f.ctxs := by
      rw [← ctxs]
      exact listed
    simpa using (List.mem_filter.1 kept).2
  · exact (vd u).trans ((Dev.vd_onVd_ne { e with ctxs := e.ctxs.filter fun c => c.2.vdev != v.val }
      (fun y => { y with inReset := false }) other :).trans (others u other))

/-- Settles O30: a RESET_FUNCTION, the resets of functions and carriers, VF_ENABLE, and what a re-initialised function is. -/
theorem functionResets : Obligations.FunctionResets := by
  refine ⟨fun s i bs => resetFunction_begins, fun s i bs => resetFunction_defers, fun s v => functionLevelReset_enabled,
    fun s v => functionLevelReset_disabled, fun s v on => vfEnable_same, functionLevelReset_port0, fun s p other => functionLevelReset_port other s,
    fun s v => vfEnable_on, fun s v => vfEnable_off, fun s v => functionLevelReset_empty⟩

end Sys2Proof.Machine
end

section
/-! The power cycle (R435): memory reads empty, and every volatile value is lost. -/

namespace Sys2Proof.Machine

open Sys2Proof

/-! ## Memory that is lost -/

theorem raw_of_not_listed {m : Memory} {a : Nat} (h : a ∉ m.cells.map Prod.fst) : m.raw a = emptyByte := by
  rw [Memory.raw, Tab.getD, Tab.get?_eq_none_of_not_mem h]
  rfl

/-- There is no cell past the end of memory. -/
theorem raw_of_past_end {m : Memory} {a : Nat} (wf : m.wf = true) (h : ¬ a < memBytes) : m.raw a = emptyByte := by
  refine raw_of_not_listed fun listed => h ?_
  obtain ⟨c, mem, rfl⟩ := List.mem_map.1 listed
  simp only [Memory.wf, Bool.and_eq_true, List.all_eq_true, decide_eq_true_eq] at wf
  exact (wf.1.2 c mem).1

/-- An empty byte written is read back, wherever it is written. -/
theorem raw_write_empty {m : Memory} (wf : m.wf = true) (a : Nat) : (m.write ⟨a, .slot0, emptyByte⟩).raw a = emptyByte := by
  by_cases inside : a < memBytes
  · exact Memory.raw_write_same m ⟨a, .slot0, emptyByte⟩ wf inside
  · rw [Memory.write, if_neg inside]
    exact raw_of_past_end wf inside

theorem raw_write_keeps_empty {m : Memory} (wf : m.wf = true) {a : Nat} (b : Nat) (h : m.raw a = emptyByte) :
    (m.write ⟨b, .slot0, emptyByte⟩).raw a = emptyByte := by
  by_cases same : a = b
  · rw [same]
    exact raw_write_empty wf b
  · rwa [Memory.raw_write_ne m ⟨b, .slot0, emptyByte⟩ same]

/-- Memory once the bytes at some addresses are lost. -/
def emptied (l : List Nat) (w : Wk) : Wk := l.foldl (fun w a => w.put .slot0 a [emptyByte]) w

theorem put_mem (k : KeyId) (l : List Byte) : ∀ (w : Wk) (a : Nat), (w.put k a l).mem = w.mem := by
  induction l with
  | nil => exact fun _ _ => rfl
  | cons b l ih => exact fun w a => ih _ _

theorem raw_emptied {l : List Nat} {w : Wk} (wf : w.mem.wf = true) (a : Nat) (h : a ∈ l ∨ w.will.raw a = emptyByte) :
    (emptied l w).will.raw a = emptyByte := by
  have step (w : Wk) (b : Nat) (ok : w.mem.wf = true ∧ w.will.raw a = emptyByte) :
      (w.put .slot0 b [emptyByte]).mem.wf = true ∧ (w.put .slot0 b [emptyByte]).will.raw a = emptyByte := by
    rw [put_mem, Wk.will_put]
    exact ⟨ok.1, raw_write_keeps_empty (Wk.will_wf ok.1) b ok.2⟩
  rcases h with listed | empty
  · refine (foldl_of_mem (f := fun (w : Wk) a => w.put .slot0 a [emptyByte]) listed (fun w => w.mem.wf = true)
      (fun w => w.mem.wf = true ∧ w.will.raw a = emptyByte) ?_ ?_ step wf).2
    · intro w b ok
      rwa [put_mem]
    · intro w ok
      rw [put_mem, Wk.will_put]
      exact ⟨ok, raw_write_empty (Wk.will_wf ok) a⟩
  · exact (List.foldlRecOn l (fun (w : Wk) a => w.put .slot0 a [emptyByte]) (motive := fun w => w.mem.wf = true ∧ w.will.raw a = emptyByte)
      ⟨wf, empty⟩ fun w ok b _ => step w b ok).2

/-- With nothing written before, no byte is left. -/
theorem raw_loseMemory {w : Wk} (wf : w.mem.wf = true) (fresh : w.log = []) (a : Nat) : (loseMemory w).will.raw a = emptyByte := by
  refine raw_emptied wf a ?_
  by_cases listed : a ∈ w.mem.cells.map Prod.fst
  · left
    rw [List.mem_eraseDups]
    simp [listed]
  · right
    rw [Wk.will, fresh]
    exact raw_of_not_listed listed

theorem loseMemory_dev (w : Wk) : (loseMemory w).dev = w.dev := foldl_keeps Wk.dev (fun _ _ => put_dev ..) _ w

theorem loseMemory_mem (w : Wk) : (loseMemory w).mem = w.mem := foldl_keeps Wk.mem (fun _ _ => put_mem ..) _ w

theorem powerCycle_dev (w : Wk) : (powerCycle w).dev = coldDev w.dev := by
  show coldDev (loseMemory w).dev = _
  rw [loseMemory_dev]

/-- What a power cycle leaves of memory. -/
theorem powerCycle_raw {s : State} {w : Wk} (wf : s.mem.wf = true) (mem : w.mem = s.mem) (fresh : w.log = []) (a : Nat) :
    (after s (powerCycle w)).mem.raw a = emptyByte := by
  have same : (after s (powerCycle w)).mem = (loseMemory w).will := by
    show s.mem.commit (loseMemory w).log = (loseMemory w).mem.commit (loseMemory w).log
    rw [loseMemory_mem, mem]
  rw [same]
  exact raw_loseMemory (by rwa [mem]) fresh a

/-! ## The device that is left -/

theorem coldDev_keySlot (d : Dev) (i : Nat) : (coldDev d).keySlot i = KeySlot.reset := rfl

/-- A list of distinct keys, filtered: an entry is found where it passes. -/
theorem get?_filter_of_nodup {α : Type} (p : Nat × α → Bool) {t : Tab α} (nodup : (t.map Prod.fst).Nodup) (i : Nat) :
    Tab.get? (t.filter p) i = (Tab.get? t i).filter fun x => p (i, x) := by
  induction t with
  | nil => rfl
  | cons e t ih =>
    obtain ⟨k, a⟩ := e
    rw [List.map_cons, List.nodup_cons] at nodup
    obtain ⟨fresh, nodup⟩ := nodup
    have rest := ih nodup
    by_cases here : k = i
    · subst here
      have gone : Tab.get? t k = none := Tab.get?_eq_none_of_not_mem fresh
      rw [gone] at rest
      by_cases pass : p (k, a) = true
      · simp [List.filter_cons_of_pos pass, Tab.get?, pass, Option.filter]
      · simp [List.filter_cons_of_neg pass, Tab.get?, pass, Option.filter, rest]
    · by_cases pass : p (k, a) = true
      · simp [List.filter_cons_of_pos pass, Tab.get?, here, rest]
      · simp [List.filter_cons_of_neg pass, Tab.get?, here, rest]

/-- The spare rows of a channel are kept (R223). -/
theorem coldDev_spareUsed {d : Dev} (nodup : (d.mc.chans.map Prod.fst).Nodup) (c : Nat) :
    ((coldDev d).chan c).spareUsed = (d.chan c).spareUsed := by
  let cold (k : Channel) : Channel := { Channel.reset with spareUsed := k.spareUsed }
  have chans : (coldDev d).mc.chans = (d.mc.chans.filter fun c => !c.2.spareUsed.isEmpty).map fun p => (p.1, cold p.2) := rfl
  rw [Dev.chan, chans, Tab.getD, Tab.get?_map (fun _ => cold), get?_filter_of_nodup _ nodup, Dev.chan, Tab.getD]
  cases found : Tab.get? d.mc.chans c with
  | none => rfl
  | some k =>
    by_cases none_ : k.spareUsed = []
    · simp [Option.filter, none_]
      rfl
    · simp [Option.filter, none_, cold]

/-- Every unit's cause is cleared. -/
theorem coldDev_unit (d : Dev) (k : UnitKind) (n : Nat) : ((coldDev d).unit k n).cause = 0 ∧ ((coldDev d).unit k n).returning = false := by
  have units : (coldDev d).sched.units = (d.sched.units.filter fun u => u.2.adminOut).map fun p => (p.1, ⟨true, 0, false⟩) := rfl
  rw [Dev.unit, Tab.getD]
  cases found : Tab.get? (coldDev d).sched.units (unitWord k n) with
  | none => exact ⟨rfl, rfl⟩
  | some u =>
    have listed := Tab.mem_of_get? found
    rw [units] at listed
    obtain ⟨e, -, same⟩ := List.mem_map.1 listed
    obtain ⟨-, rfl⟩ := Prod.mk.inj same
    exact ⟨rfl, rfl⟩

end Sys2Proof.Machine
end

section
/-! Start-up (R495 … R503, R506, R507, R512, R515). -/

namespace Sys2Proof.Machine

open Sys2Proof

/-! ## Power-good (R495, R507) -/

/-- The device when power has come: counts, the key of slot 0, the attestation key and the rails. -/
def powerCome (d : Dev) : Dev :=
  let d := { d with clk := ⟨0, 0, true, true⟩ }
  let d := (d.onKey 0 fun _ => ⟨.loaded, 0, .slot0⟩).onSec fun s => { s with attKey := true }
  d.onPwr fun p => { p with volts := (List.range 32).map fun i => (i, 700) }

/-- Lines of PF-S found high. -/
def linesHigh (l : List Nat) (d : Dev) : Dev := l.foldl (fun d i => assertLine i true d) d

theorem assertLine_kept (line : Nat) (counts : Bool) (d : Dev) : ((assertLine line counts d).clk, (assertLine line counts d).mc,
    (assertLine line counts d).sec.attKey) = (d.clk, d.mc, d.sec.attKey) := by
  cases counts <;> rfl

theorem linesHigh_kept (l : List Nat) (d : Dev) : (linesHigh l d).clk = d.clk ∧ (linesHigh l d).mc = d.mc ∧
    (linesHigh l d).sec.attKey = d.sec.attKey := by
  have kept := foldl_keeps (fun d : Dev => (d.clk, d.mc, d.sec.attKey)) (fun d i => assertLine_kept i true d) l d
  simp only [Prod.mk.injEq] at kept
  exact kept

theorem linesHigh_mem {l : List Nat} {i : Nat} (h : i ∈ l) (d : Dev) : i ∈ (linesHigh l d).sec.lines ∧
    (BitVec.ofNat 8 (i + 1), 0) ∈ (linesHigh l d).sec.raised := by
  refine foldl_of_mem (f := fun d i => assertLine i true d) h (fun _ => True)
    (fun d : Dev => i ∈ d.sec.lines ∧ (BitVec.ofNat 8 (i + 1), 0) ∈ d.sec.raised) (fun _ _ _ => trivial) ?_ ?_ trivial
  · intro d _
    rw [assertLine_lines, assertLine_raised, if_pos rfl]
    simp
  · rintro d k ⟨line, raised⟩
    rw [assertLine_lines, assertLine_raised, if_pos rfl]
    exact ⟨List.mem_append_left _ line, List.mem_append_left _ raised⟩

section

variable {s : State} {l : BitVec 3}

theorem exec_powerGood (l : BitVec 3) (s : State) : exec (.powerGood l) s = .next { s with dev := doPowerGood l s.dev } := rfl

theorem powerGood_again (powered : s.dev.clk.powered = true) : Gives (.powerGood l) s fun d => d = s.dev :=
  gives_of_next (exec_powerGood l s) (if_pos powered) rfl

theorem powerGood_gives (off : s.dev.clk.powered = false) : Gives (.powerGood l) s fun d => d.clk = ⟨0, 0, true, true⟩ ∧
    d.keySlot 0 = ⟨.loaded, 0, .slot0⟩ ∧ d.sec.attKey = true ∧
    ∀ i, i < 3 → bitAt l.toNat i = true → i ∈ d.sec.lines ∧ (BitVec.ofNat 8 (i + 1), 0) ∈ d.sec.raised := by
  let high := (List.range 3).filter fun i => bitAt l.toNat i
  have come : doPowerGood l s.dev = linesHigh high (powerCome s.dev) := if_neg (by simp [off])
  obtain ⟨clk, mc, key⟩ := linesHigh_kept high (powerCome s.dev)
  refine gives_of_next (exec_powerGood l s) come ⟨clk, ?_, key, fun i low bit => ?_⟩
  · rw [Dev.keySlot, mc]
    exact Tab.getD_put_same ..
  · exact linesHigh_mem (List.mem_filter.2 ⟨List.mem_range.2 low, bit⟩) _

end

/-- The engines halted and the key slots zeroed, as power goes. -/
def powerGoing (d : Dev) : Dev := (haltEngines d).onMc fun m => { m with keys := m.keys.map fun (i, k) => (i, k.zeroize) }

theorem exec_powerGoodDeassert (s : State) : exec .powerGoodDeassert s = .next (after s (powerCycle ((work s).on powerGoing))) :=
  runMem_after ..

theorem powerGoodDeassert_completes {s : State} (wf : s.mem.wf = true) : Completes .powerGoodDeassert s fun t =>
    (∀ a, t.mem.raw a = emptyByte) ∧ t.dev.clk.powered = false ∧ t.dev.vds = [] ∧ (∀ i, t.dev.keySlot i = KeySlot.reset) ∧
    t.dev.sec.levels = s.dev.sec.levels := by
  have dev : (after s (powerCycle ((work s).on powerGoing))).dev = coldDev (powerGoing s.dev) := powerCycle_dev _
  refine ⟨_, exec_powerGoodDeassert s, powerCycle_raw wf rfl rfl, ?_⟩
  rw [dev]
  exact ⟨rfl, rfl, coldDev_keySlot _, rfl⟩

/-! ## Stack groups (R506) -/

/-- A channel whose stack is powered trains. -/
def Channel.trains (k : Channel) : Channel := { k with state := .training, resume := .unpowered, hardPending := false, softRows := [] }

/-- Channels whose stacks are powered. -/
def chansTrain (l : List Nat) (d : Dev) : Dev := l.foldl (fun d c => d.onChan c Channel.trains) d

theorem chansTrain_state (l : List Nat) (d : Dev) (c : Nat) : ((chansTrain l d).chan c).state =
    if c ∈ l then .training else (d.chan c).state := by
  induction l generalizing d with
  | nil => rfl
  | cons k l ih =>
    have rest := ih (d.onChan k Channel.trains)
    show ((chansTrain l (d.onChan k Channel.trains)).chan c).state = _
    rw [rest]
    by_cases here : c = k
    · subst here
      rw [Dev.chan_onChan_same]
      simp [Channel.trains]
    · rw [Dev.chan_onChan_ne _ _ here]
      simp [here]

section

variable {s : State} {g : Fin 4}

theorem exec_stackGroupPowerUp (g : Fin 4) (s : State) : exec (.stackGroupPowerUp g) s = .next { s with dev := doStackPower g.val s.dev } := rfl

theorem stackGroupPowerUp_off (off : s.dev.clk.powered = false) : exec (.stackGroupPowerUp g) s = .next s := by
  have idle : doStackPower g.val s.dev = s.dev := if_pos (by simp [off])
  rw [exec_stackGroupPowerUp, idle]

theorem stackGroupPowerUp_gives (powered : s.dev.clk.powered = true) : Gives (.stackGroupPowerUp g) s fun d => ∀ c, c < 1024 →
    (d.chan c).state = if (s.dev.chan c).state = .unpowered ∧ c / 32 / 4 % 4 = g.val then .training else (s.dev.chan c).state := by
  have up : doStackPower g.val s.dev = chansTrain (((List.range 1024).filter fun c => c / 32 / 4 % 4 == g.val).filter fun c =>
      (s.dev.chan c).state == .unpowered) s.dev := by
    unfold doStackPower chansTrain
    generalize List.range 1024 = chans
    exact if_neg (by simp [powered])
  refine gives_of_next (exec_stackGroupPowerUp g s) up fun c low => ?_
  rw [chansTrain_state]
  refine if_congr ?_ rfl rfl
  simp only [List.mem_filter, List.mem_range, beq_iff_eq]
  exact ⟨fun ⟨⟨_, group⟩, state⟩ => ⟨state, group⟩, fun ⟨state, group⟩ => ⟨⟨low, group⟩, state⟩⟩

end

/-! ## Channels (R496, R497, R501, R503) -/

theorem chan_of_mc {d e : Dev} (h : e.mc = d.mc) (c : Nat) : e.chan c = d.chan c := by
  rw [Dev.chan, Dev.chan, h]

theorem setCause_mc (k : UnitKind) (n cause : Nat) (d : Dev) : (setCause k n cause d).mc = d.mc := by
  obtain ⟨evs, told⟩ := setCause_told k n cause d
  exact told.mc

theorem setCause_boot (k : UnitKind) (n cause : Nat) (d : Dev) : (setCause k n cause d).boot = d.boot := by
  obtain ⟨evs, told⟩ := setCause_told k n cause d
  have kept := congrArg Dev.boot told.rest
  exact kept

theorem endReturn_mc (k : UnitKind) (n : Nat) (ok : Bool) (d : Dev) : (endReturn k n ok d).mc = d.mc := by
  obtain ⟨sched, od, ended⟩ := endReturn_frame k n ok d
  rw [ended]

theorem endReturn_boot (k : UnitKind) (n : Nat) (ok : Bool) (d : Dev) : (endReturn k n ok d).boot = d.boot := by
  obtain ⟨sched, od, ended⟩ := endReturn_frame k n ok d
  rw [ended]

theorem boundTo_of_vds {d e : Dev} (h : e.vds = d.vds) (k : UnitKind) (n : Nat) : e.boundTo k n = d.boundTo k n := by
  rw [Dev.boundTo, Dev.boundTo, h]

/-- A channel that leaves service for good, with the cause of a failure. -/
def chanOut (c : Nat) (d : Dev) : Dev :=
  setCause .chan c 1 ((endReturn .chan c false d).onChan c fun k => { k with state := .retired, target := none, copied := false })

theorem failChan_unbound {c : Nat} {d : Dev} (free : d.chanOwner c = none) : failChan c d = chanOut c d := by
  have still : (endReturn .chan c false d).chanOwner c = none := (boundTo_of_vds (endReturn_cases ..).1 .chan c).trans free
  unfold failChan
  dsimp only
  rw [still]
  rfl

theorem chanOut_spec (c : Nat) (d : Dev) : ((chanOut c d).chan c).state = .retired ∧ ((chanOut c d).unit .chan c).cause = 1 ∧
    (chanOut c d).boot = d.boot := by
  refine ⟨?_, setCause_cause .., (setCause_boot ..).trans (endReturn_boot ..)⟩
  rw [chanOut, chan_of_mc (setCause_mc ..), Dev.chan_onChan_same]

/-- The end of a channel's training or self-test is told, and the lines scrubbed on a cold start are counted. -/
def channelSeen (c : Nat) (pass : ReadyResult) (d : Dev) : Dev :=
  let d := raiseSrc d.schedHub (0x121 + c / 32) d
  if d.boot.cold && pass == .ready then countLines c 1 (chanBytes / 64) (countLines c 0 (chanBytes / 64) d) else d

theorem channelSeen_spec (c : Nat) (pass : ReadyResult) (d : Dev) : (channelSeen c pass d).sched = d.sched ∧
    (channelSeen c pass d).vds = d.vds ∧ (channelSeen c pass d).boot = d.boot ∧
    ((channelSeen c pass d).chan c).state = (d.chan c).state ∧ ((channelSeen c pass d).chan c).retrains = (d.chan c).retrains := by
  unfold channelSeen
  extract_lets e
  have same : e.chan c = d.chan c := rfl
  split
  · refine ⟨rfl, rfl, rfl, ?_, ?_⟩
    · rw [countLines, Dev.chan_onChan_same, countLines, Dev.chan_onChan_same, same]
    · rw [countLines, Dev.chan_onChan_same, countLines, Dev.chan_onChan_same, same]
  · exact ⟨rfl, rfl, rfl, rfl, rfl⟩

/-- A channel that is ready, and what a return that was asked for comes to. -/
def channelReturned (c : Nat) (d : Dev) : Dev := endReturn .chan c true (d.onChan c fun k => { k with retrains := 0 })

/-- What the end of a channel's training or self-test comes to. -/
def channelResult (c : Nat) (pass : ReadyResult) (k : Channel) (d : Dev) : Dev :=
  match pass with
  | .testFailed => failChan c d
  | .trainingFailed => if k.retrains = 0 then d.onChan c fun k => { k with retrains := 1 } else failChan c d
  | .ready =>
    let d := channelReturned c d
    if k.resume == .retiring then d.onChan c fun k => { k with state := .retiring, resume := .unpowered }
    else if (d.unit .chan c).adminOut then setCause .chan c 3 (d.onChan c fun k => { k with state := .retired })
    else if d.boot.active then d.onChan c fun k => { k with state := .inService }
    else takeRole (d.onChan c fun k => { k with state := .scrubbing, resume := .inService })

/-- Whether a channel waits for the end of its training or its self-test. -/
def Channel.waits (k : Channel) : Bool :=
  (k.state == .training && (k.resume == .unpowered || k.resume == .retiring)) || (k.state == .scrubbing && k.resume == .unpowered)

theorem doChannelReady_eq (c : Nat) (pass : ReadyResult) (d : Dev) : doChannelReady c pass d =
    if !(d.chan c).waits then d else channelResult c pass (d.chan c) (channelSeen c pass d) := by
  cases pass <;> rfl

section

variable {s : State} {c : Chan} {x : ReadyResult}

theorem exec_channelReady (c : Chan) (x : ReadyResult) (s : State) :
    exec (.channelReady c x) s = .next { s with dev := announcing (doChannelReady c.val x) s.dev } := rfl

theorem channelReady_idle (other : (s.dev.chan c.val).waits = false) : exec (.channelReady c x) s = .next s := by
  have idle : doChannelReady c.val x s.dev = s.dev := by
    rw [doChannelReady_eq, other]
    rfl
  rw [exec_channelReady, announcing, idle, announce_self]

/-- The result of a channel that waits is what its announcement leaves. -/
theorem channelReady_gives (waits : (s.dev.chan c.val).waits = true) {P : Channel → UnitRec → Prop}
    (h : P ((channelResult c.val x (s.dev.chan c.val) (channelSeen c.val x s.dev)).chan c.val)
      ((channelResult c.val x (s.dev.chan c.val) (channelSeen c.val x s.dev)).unit .chan c.val)) :
    Gives (.channelReady c x) s fun d => P (d.chan c.val) (d.unit .chan c.val) := by
  have done : doChannelReady c.val x s.dev = channelResult c.val x (s.dev.chan c.val) (channelSeen c.val x s.dev) := by
    rw [doChannelReady_eq, waits]
    rfl
  have told := announce_told s.dev (doChannelReady c.val x s.dev)
  refine ⟨_, exec_channelReady c x s, ?_⟩
  dsimp only [announcing]
  rw [chan_of_mc told.mc, told.unit, done]
  exact h

theorem waits_of_unpowered (state : (s.dev.chan c.val).state = .training ∨ (s.dev.chan c.val).state = .scrubbing)
    (resume : (s.dev.chan c.val).resume = .unpowered) : (s.dev.chan c.val).waits = true := by
  rcases state with h | h <;> simp [Channel.waits, h, resume]

theorem channelReturned_spec (n : Nat) (d : Dev) : ((channelReturned n d).chan n) = { d.chan n with retrains := 0 } ∧
    ((channelReturned n d).unit .chan n).adminOut = (d.unit .chan n).adminOut ∧ (channelReturned n d).boot = d.boot := by
  refine ⟨?_, endReturn_adminOut .., endReturn_boot ..⟩
  rw [channelReturned, chan_of_mc (endReturn_mc ..), Dev.chan_onChan_same]

/-- A channel that is ready serves at once where the scheduler is active. -/
theorem channelReady_serves (state : (s.dev.chan c.val).state = .training ∨ (s.dev.chan c.val).state = .scrubbing)
    (resume : (s.dev.chan c.val).resume = .unpowered) (active : s.dev.boot.active = true)
    (admitted : (s.dev.unit .chan c.val).adminOut = false) : Gives (.channelReady c .ready) s fun d =>
      (d.chan c.val).state = .inService ∧ (d.chan c.val).retrains = 0 := by
  refine channelReady_gives (waits_of_unpowered state resume) (P := fun k _ => k.state = .inService ∧ k.retrains = 0) ?_
  obtain ⟨sched, -, boot, -⟩ := channelSeen_spec c.val .ready s.dev
  obtain ⟨chan, adminOut, same⟩ := channelReturned_spec c.val (channelSeen c.val .ready s.dev)
  have stays : ((channelSeen c.val .ready s.dev).unit .chan c.val).adminOut = false := by
    rw [Dev.unit, sched]
    exact admitted
  have result : channelResult c.val .ready (s.dev.chan c.val) (channelSeen c.val .ready s.dev) =
      (channelReturned c.val (channelSeen c.val .ready s.dev)).onChan c.val fun k => { k with state := .inService } := by
    unfold channelResult
    dsimp only
    rw [if_neg (by simp [resume]), if_neg (by simp [adminOut, stays]), if_pos (by rw [same, boot]; exact active)]
  rw [result, Dev.chan_onChan_same, chan]
  exact ⟨rfl, rfl⟩

theorem channelReady_adminOut (state : (s.dev.chan c.val).state = .training ∨ (s.dev.chan c.val).state = .scrubbing)
    (resume : (s.dev.chan c.val).resume = .unpowered) (out : (s.dev.unit .chan c.val).adminOut = true) :
    Gives (.channelReady c .ready) s fun d => (d.chan c.val).state = .retired ∧ (d.unit .chan c.val).cause = 3 := by
  refine channelReady_gives (waits_of_unpowered state resume) (P := fun k u => k.state = .retired ∧ u.cause = 3) ?_
  obtain ⟨sched, -, boot, -⟩ := channelSeen_spec c.val .ready s.dev
  obtain ⟨-, adminOut, -⟩ := channelReturned_spec c.val (channelSeen c.val .ready s.dev)
  have stays : ((channelSeen c.val .ready s.dev).unit .chan c.val).adminOut = true := by
    rw [Dev.unit, sched]
    exact out
  have result : channelResult c.val .ready (s.dev.chan c.val) (channelSeen c.val .ready s.dev) =
      setCause .chan c.val 3 ((channelReturned c.val (channelSeen c.val .ready s.dev)).onChan c.val fun k => { k with state := .retired }) := by
    unfold channelResult
    dsimp only
    rw [if_neg (by simp [resume]), if_pos (adminOut.trans stays)]
  rw [result, chan_of_mc (setCause_mc ..), Dev.chan_onChan_same]
  exact ⟨rfl, setCause_cause ..⟩

theorem channelReady_retrains (state : (s.dev.chan c.val).state = .training ∨ (s.dev.chan c.val).state = .scrubbing)
    (resume : (s.dev.chan c.val).resume = .unpowered) (first : (s.dev.chan c.val).retrains = 0) :
    Gives (.channelReady c .trainingFailed) s fun d => (d.chan c.val).state = (s.dev.chan c.val).state ∧ (d.chan c.val).retrains = 1 := by
  refine channelReady_gives (waits_of_unpowered state resume) (P := fun k _ => k.state = (s.dev.chan c.val).state ∧ k.retrains = 1) ?_
  obtain ⟨-, -, -, same, -⟩ := channelSeen_spec c.val .trainingFailed s.dev
  have result : channelResult c.val .trainingFailed (s.dev.chan c.val) (channelSeen c.val .trainingFailed s.dev) =
      (channelSeen c.val .trainingFailed s.dev).onChan c.val fun k => { k with retrains := 1 } := if_pos first
  rw [result, Dev.chan_onChan_same]
  exact ⟨same, rfl⟩

/-- An unbound channel whose self-test fails, or whose training fails again, is retired. -/
theorem channelReady_fails (state : (s.dev.chan c.val).state = .training ∨ (s.dev.chan c.val).state = .scrubbing)
    (resume : (s.dev.chan c.val).resume = .unpowered) (free : s.dev.chanOwner c.val = none)
    (fails : x = .testFailed ∨ (x = .trainingFailed ∧ (s.dev.chan c.val).retrains ≠ 0)) :
    Gives (.channelReady c x) s fun d => (d.chan c.val).state = .retired ∧ (d.unit .chan c.val).cause = 1 := by
  refine channelReady_gives (waits_of_unpowered state resume) (P := fun k u => k.state = .retired ∧ u.cause = 1) ?_
  obtain ⟨-, vds, -⟩ := channelSeen_spec c.val x s.dev
  have unbound : (channelSeen c.val x s.dev).chanOwner c.val = none := (boundTo_of_vds vds .chan c.val).trans free
  have result : channelResult c.val x (s.dev.chan c.val) (channelSeen c.val x s.dev) = chanOut c.val (channelSeen c.val x s.dev) := by
    rw [← failChan_unbound unbound]
    rcases fails with rfl | ⟨rfl, again⟩
    · rfl
    · exact if_neg again
  obtain ⟨retired, cause, -⟩ := chanOut_spec c.val (channelSeen c.val x s.dev)
  rw [result]
  exact ⟨retired, cause⟩

theorem channelReady_retiring (state : (s.dev.chan c.val).state = .training) (resume : (s.dev.chan c.val).resume = .retiring) :
    Gives (.channelReady c .ready) s fun d => (d.chan c.val).state = .retiring ∧ (d.chan c.val).resume = .unpowered := by
  have waits : (s.dev.chan c.val).waits = true := by simp [Channel.waits, state, resume]
  refine channelReady_gives waits (P := fun k _ => k.state = .retiring ∧ k.resume = .unpowered) ?_
  have result : channelResult c.val .ready (s.dev.chan c.val) (channelSeen c.val .ready s.dev) =
      (channelReturned c.val (channelSeen c.val .ready s.dev)).onChan c.val fun k => { k with state := .retiring, resume := .unpowered } :=
    if_pos (by simp [resume])
  rw [result, Dev.chan_onChan_same]
  exact ⟨rfl, rfl⟩

theorem not_waits (training : ¬((s.dev.chan c.val).state = .training ∧ (s.dev.chan c.val).resume ∈ [ChState.unpowered, .retiring]))
    (scrubbing : ¬((s.dev.chan c.val).state = .scrubbing ∧ (s.dev.chan c.val).resume = .unpowered)) : (s.dev.chan c.val).waits = false := by
  rw [Channel.waits, Bool.or_eq_false_iff]
  constructor
  · simpa using training
  · simpa using scrubbing

end

/-! ## Levels of service (R498, R499) -/

theorem postService_told (fn : Nat) (d : Dev) : ToldFrom d (postService fn d) := postEvent_told ..

theorem boot_of_told {d e : Dev} (h : ToldFrom d e) : e.boot = d.boot := by
  have kept := congrArg Dev.boot h.rest
  exact kept

section

variable {s : State}

/-- Early service: READY and EARLY, core islands at 500 MHz, partitions warming. -/
def earlyStarted (d : Dev) : Dev :=
  let d := { d with boot := { d.boot with ready := true, early := true } }
  let d := d.onSched fun s => { s with cores := s.cores.map fun (i, k) => (i, if k.powered then { k with clock := 20 } else k) }
  let vd (v : Nat) (x : Vd) : Vd := { x with parts := x.parts.map fun (i, p) => (i, { p with lastPrefetch := d.hlcOf v }) }
  { d with vds := d.vds.map fun (v, x) => (v, vd v x) }

theorem core_earlyStarted (d : Dev) (n : Nat) : (earlyStarted d).core n =
    if (d.core n).powered then { d.core n with clock := 20 } else d.core n := by
  have cores : (earlyStarted d).sched.cores = d.sched.cores.map fun p => (p.1, if p.2.powered then { p.2 with clock := 20 } else p.2) := rfl
  rw [Dev.core, cores, Tab.getD, Tab.get?_map (fun _ (k : Core) => if k.powered then { k with clock := 20 } else k), Dev.core, Tab.getD]
  cases Tab.get? d.sched.cores n <;> rfl

theorem exec_earlyServiceStart (s : State) : exec .earlyServiceStart s = .next { s with dev := announcing doEarly s.dev } := rfl

theorem earlyServiceStart_gives (active : s.dev.boot.active = true) (waits : s.dev.boot.ready = false) (live : s.dev.sec.level ≠ 3) :
    Gives .earlyServiceStart s fun d => d.boot.ready = true ∧ d.boot.early = true ∧
      ∀ n, (s.dev.core n).powered = true → (d.core n).clock = 20 := by
  have started : doEarly s.dev = postService mgr (earlyStarted s.dev) := if_neg (by simp [active, waits, live])
  have told : ToldFrom (earlyStarted s.dev) (announcing doEarly s.dev) := by
    rw [announcing, started]
    exact (postService_told ..).trans (announce_told ..)
  have boot := boot_of_told told
  refine ⟨_, exec_earlyServiceStart s, congrArg Boot.ready boot, congrArg Boot.early boot, fun n powered => ?_⟩
  rw [told.core, core_earlyStarted, if_pos powered]

theorem earlyServiceStart_idle (h : s.dev.boot.active = false ∨ s.dev.boot.ready = true ∨ s.dev.sec.level = 3) :
    exec .earlyServiceStart s = .next s := by
  have idle : doEarly s.dev = s.dev := by
    refine if_pos ?_
    rcases h with h | h | h <;> simp [h]
  rw [exec_earlyServiceStart, announcing, idle, announce_self]

/-- Whether full service can begin: calibration has run and every unit is settled. -/
def Dev.fullReady (cores chans ports : List Nat) (d : Dev) : Bool :=
  d.boot.early && decide (20 ≤ d.boot.calib) && cores.all (fun n => d.settled .core n) && chans.all (fun n => d.settled .chan n) &&
    ports.all fun n => d.settled .port n

/-- Full service begins: the manager and each composed virtual function are told. -/
def fullStarted (d : Dev) : Dev :=
  let d := { d with boot := { d.boot with early := false } }
  (d.vds.filter fun v => v.2.composed).foldl (fun d v => postService v.1 d) (postService mgr d)

theorem doFull_eq (d : Dev) : doFull d = if d.fullReady (List.range 2176) (List.range 1024) (List.range 16) then fullStarted d else d := by
  unfold doFull Dev.fullReady fullStarted
  generalize List.range 2176 = cores
  generalize List.range 1024 = chans
  generalize List.range 16 = ports
  have short : decide (d.boot.calib < 20) = !decide (20 ≤ d.boot.calib) := by
    rw [← decide_not]; exact decide_eq_decide.2 Nat.not_le.symm
  have unready : (!d.boot.early || decide (d.boot.calib < 20) || !(cores.all fun n => d.settled .core n) ||
      !(chans.all fun n => d.settled .chan n) || !(ports.all fun n => d.settled .port n)) = !(d.boot.early && decide (20 ≤ d.boot.calib) &&
        cores.all (fun n => d.settled .core n) && chans.all (fun n => d.settled .chan n) && ports.all fun n => d.settled .port n) := by
    rw [short, Bool.not_and, Bool.not_and, Bool.not_and, Bool.not_and]
  dsimp only
  rw [unready]
  cases (d.boot.early && decide (20 ≤ d.boot.calib) && cores.all (fun n => d.settled .core n) && chans.all (fun n => d.settled .chan n) &&
      ports.all fun n => d.settled .port n)
  · rfl
  · rfl

theorem exec_fullServiceStart (s : State) : exec .fullServiceStart s = .next { s with dev := doFull s.dev } := rfl

theorem fullReady_iff (d : Dev) : d.fullReady (List.range 2176) (List.range 1024) (List.range 16) = true ↔
    (((d.boot.early = true ∧ 20 ≤ d.boot.calib) ∧ ∀ n, n < 2176 → d.settled .core n = true) ∧
      ∀ n, n < 1024 → d.settled .chan n = true) ∧ ∀ n, n < 16 → d.settled .port n = true := by
  unfold Dev.fullReady
  simp only [Bool.and_eq_true, decide_eq_true_eq, List.all_eq_true, List.mem_range]

theorem fullServiceStart_gives (early : s.dev.boot.early = true) (calib : 20 ≤ s.dev.boot.calib)
    (cores : ∀ n, n < 2176 → s.dev.settled .core n = true) (chans : ∀ n, n < 1024 → s.dev.settled .chan n = true)
    (ports : ∀ n, n < 16 → s.dev.settled .port n = true) : Gives .fullServiceStart s fun d => d.boot.early = false := by
  have ready := (fullReady_iff s.dev).2 ⟨⟨⟨⟨early, calib⟩, cores⟩, chans⟩, ports⟩
  have told : ToldFrom { s.dev with boot := { s.dev.boot with early := false } } (fullStarted s.dev) :=
    (postService_told ..).trans (.foldl (fun _ _ => postService_told ..) _ _)
  refine gives_of_next (exec_fullServiceStart s) ((doFull_eq s.dev).trans (if_pos ready)) ?_
  rw [boot_of_told told]

theorem fullServiceStart_idle (h : s.dev.boot.early = false ∨ s.dev.boot.calib < 20 ∨ (∃ n, n < 2176 ∧ s.dev.settled .core n = false) ∨
    (∃ n, n < 1024 ∧ s.dev.settled .chan n = false) ∨ ∃ n, n < 16 ∧ s.dev.settled .port n = false) :
    exec .fullServiceStart s = .next s := by
  have unready : ¬ s.dev.fullReady (List.range 2176) (List.range 1024) (List.range 16) = true := by
    rw [fullReady_iff]
    rintro ⟨⟨⟨⟨early, calib⟩, cores⟩, chans⟩, ports⟩
    rcases h with h | h | ⟨n, low, h⟩ | ⟨n, low, h⟩ | ⟨n, low, h⟩
    · exact absurd (h.symm.trans early) (by decide)
    · omega
    · exact absurd (h.symm.trans (cores n low)) (by decide)
    · exact absurd (h.symm.trans (chans n low)) (by decide)
    · exact absurd (h.symm.trans (ports n low)) (by decide)
  rw [exec_fullServiceStart, doFull_eq, if_neg unready]

end

/-! ## Units that are late (R499, R503) -/

section

variable {n : Nat} {d : Dev}

/-- A unit that is settled is not late. -/
theorem expireUnit_settled {k : UnitKind} (settled : d.settled k n = true) : expireUnit k n d = d := if_pos settled

theorem expireUnit_core (late : d.settled .core n = false) (free : d.boundTo .core n = none) : expireUnit .core n d =
    (setCause .core n 1 (endReturn .core n false d)).onCore n fun c => { c with state := .retired } := by
  have vds : (setCause .core n 1 (endReturn .core n false d)).vds = d.vds := (setCause_vds ..).trans (endReturn_cases ..).1
  have unbound : (setCause .core n 1 (endReturn .core n false d)).boundTo .core n = none := (boundTo_of_vds vds .core n).trans free
  unfold expireUnit
  rw [if_neg (by simp [late])]
  dsimp only
  rw [unbound]
  rfl

theorem expireUnit_chan (late : d.settled .chan n = false) (free : d.chanOwner n = none) : expireUnit .chan n d = chanOut n d := by
  unfold expireUnit
  rw [if_neg (by simp [late])]
  exact failChan_unbound free

theorem expireUnit_port (late : d.settled .port n = false) : expireUnit .port n d =
    setCause .port n 1 (enterPort n 6 (endReturn .port n false d)) := by
  unfold expireUnit
  rw [if_neg (by simp [late])]

theorem retireChan_boot (c cause : Nat) (d : Dev) : (retireChan c cause d).boot = d.boot := by
  unfold retireChan
  dsimp only
  split
  · rfl
  · rfl
  · rfl
  · exact (boot_of_told (compositionChanged_told ..)).trans (setCause_boot ..)
  · exact setCause_boot ..
  · exact setCause_boot ..
  · exact setCause_boot ..

theorem publishChange_boot (v : Nat) (old : Vd) (leave : List (UnitKind × Nat)) (retiring : Bool) (copies : List (Nat × Nat)) (d : Dev) :
    (publishChange v old leave retiring copies d).boot = d.boot := by
  obtain ⟨l, w, x, h⟩ := publishChange_spec (v := v) (d := d) old leave retiring copies
  rw [h]
  rfl

theorem takeMirrors_boot (v : Nat) (ep : BitVec 32) (gone : Nat → Bool) (d : Dev) : (takeMirrors v ep gone d).boot = d.boot := by
  unfold takeMirrors
  dsimp only
  show (List.foldl _ d _).boot = d.boot
  refine foldl_keeps Dev.boot (fun d s => ?_) _ d
  rfl

/-- A channel of a composition fails: its mirror takes its place, or its lines are poisoned. -/
def failBound (c v : Nat) (d : Dev) : Dev :=
  if (d.vd v).mirrored then
    setCause .chan c 1 ((compositionChanged v 2 [(.chan, c)] (publishChange v (d.vd v) [] true []
      ((takeMirrors v (nextEpoch (d.vd v).epoch) (· == c) (keepMaps v d)).onVd v fun x => { x with chans := x.chans.filter (· != c) }))).onChan c
        fun k => { k with state := .retired, target := none, copied := false })
  else retireChan c 1 (d.onChan c fun k => { k with state := .inService, lost := true, poison := [] })

theorem failBound_boot (c v : Nat) (d : Dev) : (failBound c v d).boot = d.boot := by
  unfold failBound
  split
  · exact (setCause_boot ..).trans ((boot_of_told (compositionChanged_told ..)).trans
      ((publishChange_boot ..).trans (takeMirrors_boot v _ (· == c) (keepMaps v d))))
  · exact retireChan_boot ..

theorem failChan_bound {c v : Nat} {d : Dev} (owner : d.chanOwner c = some v) : failChan c d =
    failBound c v (if ((endReturn .chan c false d).vd v).mirrorCh = c then
      (endReturn .chan c false d).onVd v fun x => { x with mirrorLost := true } else endReturn .chan c false d) := by
  have still : (endReturn .chan c false d).chanOwner c = some v := (boundTo_of_vds (endReturn_cases ..).1 .chan c).trans owner
  unfold failChan
  dsimp only
  rw [still]
  rfl

theorem failChan_boot (c : Nat) (d : Dev) : (failChan c d).boot = d.boot := by
  cases owner : d.chanOwner c with
  | none =>
    rw [failChan_unbound owner]
    exact (chanOut_spec c d).2.2
  | some v =>
    rw [failChan_bound owner, failBound_boot]
    split
    · exact endReturn_boot ..
    · exact endReturn_boot ..

theorem expireUnit_chan_boot : (expireUnit .chan n d).boot = d.boot := by
  unfold expireUnit
  split
  · rfl
  · exact failChan_boot ..

end

section

variable {s : State} {u : BitVec 32} {n : Nat}

theorem exec_startUpBoundExpiry (u : BitVec 32) (s : State) : exec (.startUpBoundExpiry u) s = .next (after s (doBoundExpiry u.toNat (work s))) :=
  runMem_after ..

/-- What the expiry of a unit's bound does before service. -/
theorem doBoundExpiry_eq {k : UnitKind} {w : Wk} {word : Nat} (unit : unitOf word = some (k, n)) : doBoundExpiry word w =
    if !w.dev.clk.powered || (w.dev.boot.ready && !w.dev.boot.early) then w
    else if k == .chan && !(expireUnit k n w.dev).boot.active && !(expireUnit k n w.dev).boot.cold && !(expireUnit k n w.dev).twoStacksLeft
      then powerCycle (w.on (expireUnit k n)) else w.on (expireUnit k n) := by
  unfold doBoundExpiry
  rw [unit]
  rfl

theorem startUpBoundExpiry_idle (h : unitOf u.toNat = none ∨ s.dev.clk.powered = false ∨ (s.dev.boot.ready = true ∧ s.dev.boot.early = false)) :
    exec (.startUpBoundExpiry u) s = .next s := by
  refine runMem_of_idle ?_
  cases unit : unitOf u.toNat with
  | none =>
    unfold doBoundExpiry
    rw [unit]
  | some e =>
    rw [doBoundExpiry_eq (k := e.1) (n := e.2) unit]
    refine if_pos ?_
    rcases h with h | h | ⟨ready, early⟩
    · exact absurd (unit.symm.trans h) (by simp)
    · simp [work, h]
    · simp [work, ready, early]

theorem startUpBoundExpiry_settled {k : UnitKind} (unit : unitOf u.toNat = some (k, n)) (settled : s.dev.settled k n = true)
    (cycle : k = .chan → s.dev.boot.active = true ∨ s.dev.boot.cold = true) : Gives (.startUpBoundExpiry u) s fun d => d = s.dev := by
  refine gives_of_on (exec_startUpBoundExpiry u s) ?_ rfl
  have same : expireUnit k n (work s).dev = (work s).dev := expireUnit_settled settled
  have stays : (work s).on (expireUnit k n) = work s := by
    rw [Wk.on, same]
  rw [doBoundExpiry_eq unit, same, stays]
  by_cases chan : k = .chan
  · have none_ : (k == .chan && !(work s).dev.boot.active && !(work s).dev.boot.cold && !(work s).dev.twoStacksLeft) = false := by
      rcases cycle chan with h | h <;> simp [work, h]
    rw [none_]
    exact ite_self _
  · have none_ : (k == .chan && !(work s).dev.boot.active && !(work s).dev.boot.cold && !(work s).dev.twoStacksLeft) = false := by
      simp [chan]
    rw [none_]
    exact ite_self _

section

variable (powered : s.dev.clk.powered = true) (early : s.dev.boot.ready = false)
include powered early

/-- A late unit is retired, where that leaves the device on. -/
theorem startUpBoundExpiry_late {k : UnitKind} (unit : unitOf u.toNat = some (k, n))
    (on : k = .chan → s.dev.boot.active = true ∨ s.dev.boot.cold = true) {P : Dev → Prop} (h : P (expireUnit k n s.dev)) :
    Gives (.startUpBoundExpiry u) s P := by
  refine gives_of_on (exec_startUpBoundExpiry u s) ?_ h
  have stays : (k == .chan && !(expireUnit k n (work s).dev).boot.active && !(expireUnit k n (work s).dev).boot.cold &&
      !(expireUnit k n (work s).dev).twoStacksLeft) = false := by
    by_cases chan : k = .chan
    · subst chan
      rw [expireUnit_chan_boot]
      rcases on rfl with h | h <;> simp [work, h]
    · simp [chan]
  rw [doBoundExpiry_eq unit, stays, if_neg (by simp [work, powered, early])]
  rfl

omit powered early in
theorem unit_onCore (d : Dev) (m : Nat) (f : Core → Core) (k : UnitKind) : (d.onCore m f).unit k n = d.unit k n := rfl

theorem startUpBoundExpiry_core (unit : unitOf u.toNat = some (.core, n)) (late : s.dev.settled .core n = false)
    (free : s.dev.boundTo .core n = none) : Gives (.startUpBoundExpiry u) s fun d => (d.core n).state = .retired ∧ (d.unit .core n).cause = 1 := by
  refine startUpBoundExpiry_late powered early unit (fun h => by cases h) ?_
  rw [expireUnit_core late free, Dev.core_onCore_same, unit_onCore]
  exact ⟨rfl, setCause_cause ..⟩

theorem startUpBoundExpiry_chan (unit : unitOf u.toNat = some (.chan, n)) (late : s.dev.settled .chan n = false)
    (free : s.dev.chanOwner n = none) (on : s.dev.boot.active = true ∨ s.dev.boot.cold = true) :
    Gives (.startUpBoundExpiry u) s fun d => (d.chan n).state = .retired ∧ (d.unit .chan n).cause = 1 := by
  refine startUpBoundExpiry_late powered early unit (fun _ => on) ?_
  obtain ⟨retired, cause, -⟩ := chanOut_spec n s.dev
  rw [expireUnit_chan late free]
  exact ⟨retired, cause⟩

theorem startUpBoundExpiry_port (unit : unitOf u.toNat = some (.port, n)) (late : s.dev.settled .port n = false) :
    Gives (.startUpBoundExpiry u) s fun d => (d.port n).state = 6 ∧ (d.unit .port n).cause = 1 := by
  refine startUpBoundExpiry_late powered early unit (fun h => by cases h) ?_
  rw [expireUnit_port late, port_of_fab (setCause_fab ..), port_enterPort_same]
  exact ⟨rfl, setCause_cause ..⟩

/-- Where no two stacks can reach service any more after a device reset, the power is cycled. -/
theorem startUpBoundExpiry_cycles (unit : unitOf u.toNat = some (.chan, n)) (inactive : s.dev.boot.active = false)
    (warm : s.dev.boot.cold = false) (few : (expireUnit .chan n s.dev).twoStacksLeft = false) :
    Completes (.startUpBoundExpiry u) s fun t => t.dev.clk.powered = false ∧ t.dev.boot.cold = true := by
  have cycles : doBoundExpiry u.toNat (work s) = powerCycle ((work s).on (expireUnit .chan n)) := by
    have last : (UnitKind.chan == .chan && !(expireUnit .chan n (work s).dev).boot.active && !(expireUnit .chan n (work s).dev).boot.cold &&
        !(expireUnit .chan n (work s).dev).twoStacksLeft) = true := by
      rw [expireUnit_chan_boot]
      simp [work, inactive, warm, few]
    rw [doBoundExpiry_eq unit, last, if_neg (by simp [work, powered, early])]
    rfl
  refine ⟨_, next_after_of_eq (exec_startUpBoundExpiry u s) cycles, ?_⟩
  have dev : (after s (powerCycle ((work s).on (expireUnit .chan n)))).dev = coldDev (expireUnit .chan n s.dev) := powerCycle_dev _
  dsimp only
  rw [dev]
  exact ⟨rfl, rfl⟩

end

end

/-! ## The reference clock and host ports (R512, R515, R230) -/

section

variable {s : State}

/-- A device whose reference clock has stopped. -/
def clockStopped (d : Dev) : Dev := { d with clk := { d.clk with running := false } }

theorem exec_referenceClockLoss (s : State) : exec .referenceClockLoss s = .next (after s (doClockLoss (work s))) := runMem_after ..

theorem referenceClockLoss_stops (running : s.dev.clk.running = true) : exec .referenceClockLoss s = .next (after s
    (((List.range 16).filter fun p => (s.dev.port p).trained).foldl (fun w p => retrain p w) ((work s).on clockStopped))) :=
  next_after_of_eq (exec_referenceClockLoss s) (if_neg (by simp [work, running]))

theorem referenceClockLoss_untrained (running : s.dev.clk.running = true) (untrained : ∀ p, p < 16 → (s.dev.port p).trained = false) :
    Gives .referenceClockLoss s fun d => d = { s.dev with clk := { s.dev.clk with running := false } } := by
  have none_ : ((List.range 16).filter fun p => (s.dev.port p).trained) = [] := by
    rw [List.filter_eq_nil_iff]
    intro p low
    rw [untrained p (List.mem_range.1 low)]
    decide
  refine gives_of_on (referenceClockLoss_stops running) ?_ rfl
  rw [none_]
  rfl

theorem referenceClockLoss_idle (stopped : s.dev.clk.running = false) : exec .referenceClockLoss s = .next s :=
  runMem_of_idle (if_pos (by simp [work, stopped]))

/-- A host port whose link is down and whose decoders are not committed. -/
def portDown (p : Nat) (d : Dev) : Dev :=
  { d with hostLinks := Tab.put d.hostLinks p HostLink.reset }.onMc fun m => { m with hdm := m.hdm.filter fun h => h.1 / 4 != p }

theorem exec_hostPortReset (p : HPort) (s : State) : exec (.hostPortReset p) s =
    .next (after s ((doFlr (.carrier p) (work s)).on (portDown p.val))) := runMem_after (doPortReset p) s

theorem hostPortReset_completes (s : State) (p : HPort) : Completes (.hostPortReset p) s fun t => t.dev.link p.val = HostLink.reset ∧
    ∀ h, h ∈ t.dev.mc.hdm → h.1 / 4 ≠ p.val := by
  have reset := exec_hostPortReset p s
  generalize doFlr (.carrier p) (work s) = w at reset
  refine ⟨_, reset, Tab.getD_put_same .., fun h listed => ?_⟩
  have kept : h ∈ w.dev.mc.hdm.filter fun h => h.1 / 4 != p.val := listed
  simpa using (List.mem_filter.1 kept).2

variable {p : HPort} {r w : Nat} {x : Bool}

theorem exec_hostPortLinkUp (p : HPort) (r w : Nat) (x : Bool) (s : State) : exec (.hostPortLinkUp p r w x) s = .next { s with
    dev := if !s.dev.clk.powered || !hostRates.contains r || !hostWidths.contains w then s.dev
      else { s.dev with hostLinks := Tab.put s.dev.hostLinks p.val ⟨true, r, w, x && cxlRuns r w⟩ } } := rfl

theorem hostPortLinkUp_gives (powered : s.dev.clk.powered = true) (rate : hostRates.contains r = true) (width : hostWidths.contains w = true) :
    Gives (.hostPortLinkUp p r w x) s fun d => d.link p.val = ⟨true, r, w, x && cxlRuns r w⟩ ∧
      ∀ q, q ≠ p.val → d.link q = s.dev.link q := by
  refine gives_of_next (exec_hostPortLinkUp p r w x s) (if_neg ?_) ⟨Tab.getD_put_same .., fun q other => Tab.getD_put_ne _ _ _ other⟩
  rw [powered, rate, width]
  decide

theorem hostPortLinkUp_idle (h : s.dev.clk.powered = false ∨ hostRates.contains r = false ∨ hostWidths.contains w = false) :
    exec (.hostPortLinkUp p r w x) s = .next s := by
  rw [exec_hostPortLinkUp, if_pos]
  rcases h with h | h | h
  · rw [h]
    rfl
  · rw [h, Bool.not_false, Bool.or_true, Bool.true_or]
  · rw [h, Bool.not_false, Bool.or_true]

end

/-- Settles O53: power-good, stacks, channels, levels of service, late units, the clock and host ports. -/
theorem startUp : Obligations.StartUp := by
  refine ⟨fun s l => powerGood_gives, fun s l => powerGood_again, fun s => powerGoodDeassert_completes, fun s g => stackGroupPowerUp_off,
    fun s g => stackGroupPowerUp_gives, fun s c state resume => ?ready, fun s c => channelReady_retiring,
    fun s c x training scrubbing => channelReady_idle (not_waits training scrubbing), fun s => earlyServiceStart_gives,
    fun s => earlyServiceStart_idle, fun s => fullServiceStart_gives, fun s => fullServiceStart_idle,
    fun s u n unit powered early => startUpBoundExpiry_core powered early unit,
    fun s u n powered early => ⟨startUpBoundExpiry_chan powered early, startUpBoundExpiry_port powered early⟩,
    fun s u => startUpBoundExpiry_idle, fun s u k n => startUpBoundExpiry_settled,
    fun s u n unit powered early => startUpBoundExpiry_cycles powered early unit, fun s => referenceClockLoss_untrained,
    fun s => referenceClockLoss_stops, fun s => referenceClockLoss_idle, fun s => ⟨_, rfl, rfl⟩, hostPortReset_completes,
    fun s p r w x => hostPortLinkUp_gives, fun s p r w x => hostPortLinkUp_idle⟩
  case ready =>
    exact ⟨channelReady_serves state resume, channelReady_adminOut state resume, channelReady_retrains state resume,
      fun free => ⟨channelReady_fails state resume free (.inl rfl), fun again => channelReady_fails state resume free (.inr ⟨rfl, again⟩)⟩⟩

end Sys2Proof.Machine
end

section
/-! What the loss of a queue's commands leaves of the undo journals (R434 step 3, R421). -/

namespace Sys2Proof.Machine

open Sys2Proof

/-! ## Operations that write no journal -/

theorem undo_of_office {d e : Dev} (h : d.office = e.office) : d.mc.undo = e.mc.undo := congrArg (fun o => o.2.2.2) h

theorem undo_of_vault {d e : Dev} (h : d.vault = e.vault) : d.mc.undo = e.mc.undo := congrArg (fun o => o.2.2) h

theorem onQueue_undo (d : Dev) (v q : Nat) (f : Queue → Queue) : (d.onQueue v q f).mc.undo = d.mc.undo := undo_of_vault (onQueue_vault d v q f)

theorem onCur_undo (d : Dev) (v q : Nat) (f : Cmd → Cmd) : (d.onCur v q f).mc.undo = d.mc.undo := onQueue_undo ..

theorem askPage_undo (fn page : Nat) (d : Dev) : (askPage fn page d).mc.undo = d.mc.undo := undo_of_vault (askPage_vault ..)

theorem replyFence_undo (src : FSrc) (o : FOut) (d : Dev) : (replyFence src o d).mc.undo = d.mc.undo := by
  cases src <;> rfl

theorem answerDead_undo (op : FOp) (src : FSrc) (d : Dev) : (answerDead op src d).mc.undo = d.mc.undo := by
  cases op with
  | signal _ => exact replyFence_undo ..
  | fail _ _ => exact replyFence_undo ..
  | wait _ => rfl
  | read => cases src <;> rfl

theorem sendFence_undo (r : FRef) (op : FOp) (src : FSrc) (d : Dev) : (sendFence r op src d).mc.undo = d.mc.undo := by
  cases r with
  | cell k => rfl
  | proxy v slot =>
    unfold sendFence
    dsimp only
    split
    · exact answerDead_undo ..
    · split <;> rfl

theorem storeSet_undo (k : Nat) (f : FCell → FCell) (d : Dev) : (storeSet k f d).mc.undo = d.mc.undo := by
  have read : (storeRead k false d).mc.undo = d.mc.undo := by
    unfold storeRead
    dsimp only
    split <;> rfl
  have written (old new : Dev) : (storeWrite k old new).mc.undo = new.mc.undo := by
    unfold storeWrite
    split <;> rfl
  unfold storeSet storeOp
  split
  · rfl
  · exact (written ..).trans read

theorem releaseCell_undo (k : Nat) (d : Dev) : (releaseCell k d).mc.undo = d.mc.undo := by
  unfold releaseCell
  split
  · rfl
  · split
    · rfl
    · exact storeSet_undo ..

theorem releaseRefs_undo (c : Cmd) (d : Dev) : (releaseRefs c d).mc.undo = d.mc.undo := by
  refine foldl_keeps (fun d : Dev => d.mc.undo) (fun d r => ?_) _ d
  cases r with
  | cell k => exact releaseCell_undo k d
  | proxy _ _ => rfl

theorem failExchange_undo (g : Nat) (seq : BitVec 64) (d : Dev) : (failExchange g seq d).mc.undo = d.mc.undo := by
  cases h : d.fab.failed.contains (g, seq) with
  | true => rw [failExchange_of_failed h]
  | false =>
    obtain ⟨_, told⟩ := failExchange_of_new h
    rw [told]
    refine foldl_keeps (fun d : Dev => d.mc.undo) (fun d v => ?_) _ _
    exact foldl_keeps (fun d : Dev => d.mc.undo) (fun d p => by rfl) _ d

theorem endColl_undo (v : Nat) (ok : Bool) (c : Cmd) (d : Dev) : (endColl v ok c d).mc.undo = d.mc.undo := by
  unfold endColl
  split
  · rfl
  · split
    · rfl
    · exact failExchange_undo ..

theorem countCtx_undo (v : Nat) (c : Cmd) (ok : Bool) (d : Dev) : (countCtx v c ok d).mc.undo = d.mc.undo := by
  unfold countCtx Dev.onCtx
  split <;> rfl

theorem endJob_undo (v : Nat) (x : Queue) (c : Cmd) (d : Dev) : (endJob v x c d).mc.undo = d.mc.undo := by
  unfold endJob
  dsimp only
  split <;> rfl

/-! ## The record of a command -/

theorem toBacklog_undo (v q cause : Nat) (r : Rec) (d : Dev) : (toBacklog v q cause r d).mc.undo = d.mc.undo := by
  unfold toBacklog
  split
  · rfl
  · dsimp only
    split
    · exact undo_of_office (postEvent_office ..)
    · rfl

theorem pushRecord_undo (v q : Nat) (r : Rec) (w : Wk) : (pushRecord v q r w).dev.mc.undo = w.dev.mc.undo := by
  have tried : (tryRecord v q r w).2.dev.mc.undo = w.dev.mc.undo := undo_of_vault (tryRecord_vault v q r w)
  unfold pushRecord
  split
  · rfl
  · split
    · rfl
    · split
      · exact toBacklog_undo ..
      · split
        · rfl
        · split
          next w' done => rwa [done] at tried
          next w' full => rw [full] at tried; exact (toBacklog_undo ..).trans tried
          next w' unwritable => rw [unwritable] at tried; exact (toBacklog_undo ..).trans tried
          next page w' waiting => rw [waiting] at tried; exact (askPage_undo ..).trans ((onQueue_undo ..).trans tried)

theorem freeQueue_undo (v q : Nat) (d : Dev) : (freeQueue v q d).mc.undo = d.mc.undo := by
  unfold freeQueue
  split <;> rfl

theorem releaseSlot_undo (v i : Nat) (d : Dev) : (releaseSlot v i d).mc.undo = d.mc.undo := by
  unfold releaseSlot
  dsimp only
  split
  · exact releaseCell_undo ..
  · rfl

theorem finishReset_undo (v : Nat) (d : Dev) : (finishReset v d).mc.undo = d.mc.undo := by
  unfold finishReset
  extract_lets x d1 d2 d3
  have queues : d1.mc.undo = d.mc.undo := foldl_keeps (fun d : Dev => d.mc.undo) (fun d (q : Nat × Queue) => freeQueue_undo v q.1 d) _ d
  have slots : d3.mc.undo = d2.mc.undo := foldl_keeps (fun d : Dev => d.mc.undo) (fun d (s : Nat × FSlot) => releaseSlot_undo v s.1 d) _ d2
  split
  · rfl
  · exact (undo_of_office (answerMgr_office ..)).trans (slots.trans queues)

theorem freeRecords_undo (p : PhaseRec → Bool) (w : Wk) : (freeRecords p w).dev.mc.undo = w.dev.mc.undo :=
  foldl_keeps (fun w : Wk => w.dev.mc.undo) (fun w c => congrArg (fun d : Dev => d.mc.undo) (put_dev w .slot0 (recordAt c) (natLe 64 0))) _ w

theorem freeUndos_of_none {w : Wk} (h : w.dev.mc.undo = []) (p : Undo → Bool) : freeUndos p w = w := by
  unfold freeUndos
  rw [h]
  show (w.on fun d => d.onMc fun m => { m with undo := m.undo.filter fun u => !p u }) = w
  rw [Wk.on, Dev.onMc, h, List.filter_nil, ← h]

/-! ## A queue without journals has none when its commands are lost -/

theorem endCmd_undo {w : Wk} (h : w.dev.mc.undo = []) (v q : Nat) (ok : Bool) (error : Nat) (flags : FlagWord) (dt : Detail) :
    (endCmd v q ok error flags dt w).dev.mc.undo = [] := by
  unfold endCmd
  split
  · exact h
  next x _ =>
    split
    · exact h
    next c _ =>
      extract_lets follow r b w1
      have freed : w1.dev.mc.undo = [] := by
        have told (d : Dev) : (if follow then raiseClusters 1 c.leader.toList d else d).mc.undo = d.mc.undo := by
          split
          · exact undo_of_office (raiseClusters_office ..)
          · rfl
        have journals : (freeRecords (fun r => r.isOf v c) ((freeUndos (fun u => u.cmd == c.no) w).on (endColl v ok b))).dev.mc.undo = [] := by
          rw [freeUndos_of_none h]
          exact (freeRecords_undo ..).trans ((endColl_undo ..).trans h)
        refine (releaseRefs_undo ..).trans ((endJob_undo ..).trans ((countCtx_undo ..).trans ?_))
        exact (told _).trans ((undo_of_office (dropWork_office ..)).trans journals)
      exact (undo_of_office (settleFreeze_office ..)).trans ((finishReset_undo ..).trans ((pushRecord_undo ..).trans freed))

theorem writeParts_undo (v : Nat) (need : Need) (l : List (Nat × Nat)) (bs : List Byte) (w : Wk) :
    (writeParts v need none l bs w).1.dev.mc.undo = w.dev.mc.undo := by
  induction l generalizing bs w with
  | nil => rfl
  | cons part l ih =>
    unfold writeParts
    split
    · rfl
    · split
      · exact ih ..
      · rfl
    · split
      · rfl
      next w' written => exact (ih ..).trans (undo_of_vault (writePiece_vault written))

theorem writeAs_undo (e : XEng) (v va : Nat) (bs : List Byte) (w : Wk) : (writeAs e v va bs none w).1.dev.mc.undo = w.dev.mc.undo :=
  writeParts_undo v needW (parts va bs.length) bs (w.on fun d => d.seenBy e v)

theorem clearSlot_undo (v : Nat) (x : Queue) (c : Cmd) (w : Wk) : (clearSlot v x c w).dev.mc.undo = w.dev.mc.undo := by
  unfold clearSlot writeSlot
  dsimp only
  split
  · split
    · rfl
    · exact (writeAs_undo ..).trans (undo_of_vault (useXlt_vault ..))
  · rfl

theorem recordFailure_undo {w : Wk} (h : w.dev.mc.undo = []) (v q : Nat) : (recordFailure v q w).dev.mc.undo = [] := by
  unfold recordFailure
  split
  · exact h
  · split
    · exact h
    · exact endCmd_undo ((clearSlot_undo ..).trans h) ..

theorem loseCur_undo {w : Wk} (h : w.dev.mc.undo = []) (v q : Nat) : (loseCur v q w).dev.mc.undo = [] := by
  unfold loseCur
  split
  · exact h
  next c _ =>
    extract_lets fail
    have failed (d : Dev) : (fail d).mc.undo = d.mc.undo := by
      show (match c.sig with | some (.cell k) => _ | some r => _ | none => _ : Dev).mc.undo = _
      split
      · exact undo_of_vault (commitFail_vault ..)
      · exact sendFence_undo ..
      · rfl
    exact recordFailure_undo ((onCur_undo ..).trans ((failed _).trans h)) ..

theorem loseFetched_undo (v q n : Nat) {w : Wk} (h : w.dev.mc.undo = []) : (loseFetched v q n w).dev.mc.undo = [] := by
  induction n generalizing w with
  | zero => exact h
  | succ n ih =>
    unfold loseFetched
    split
    · exact h
    · split
      · refine ih (loseCur_undo ?_ ..)
        exact h
      · exact h

/-! ## What the front end still reads -/

theorem raiseFault_undo (v va kind sw access : Nat) (gen : BitVec 32) (who : Waiter) (d : Dev) :
    (raiseFault v va kind sw access gen who d).mc.undo = d.mc.undo := by
  unfold raiseFault
  split <;> rfl

theorem askHostPage_undo (v page : Nat) (who : Waiter) (d : Dev) : (askHostPage v page who d).mc.undo = d.mc.undo := by
  refine (askPage_undo ..).trans ?_
  unfold waitHost
  split <;> rfl

theorem askHostLine_undo (v iova : Nat) (who : Waiter) (queue cmd : Nat) (d : Dev) : (askHostLine v iova who queue cmd d).mc.undo = d.mc.undo := by
  unfold askHostLine
  split
  · dsimp only
    split <;> rfl
  · exact askHostPage_undo ..

theorem holdAccess_undo (g : XEng) (v : Nat) (who : Waiter) (queue cmd access : Nat) (e : Acc) (d : Dev) :
    (holdAccess g v who queue cmd access e d).2.mc.undo = d.mc.undo := by
  unfold holdAccess
  split
  · exact raiseFault_undo ..
  · rfl
  · rfl
  next va i =>
    have asked : (if access = 2 then askHostPage v (i / 4096) who d else askHostLine v i who queue cmd d).mc.undo = d.mc.undo := by
      split
      · exact askHostPage_undo ..
      · exact askHostLine_undo ..
    generalize ((match d.atc? v (i / 4096) with | some (r, w) => !(if access = 2 then w else r) | none => false) &&
      d.priRefused v (i / 4096)) = refused
    cases refused with
    | true => rfl
    | false => exact asked

theorem refusedAt_undo (v va : Nat) (y : Why) (d : Dev) : (refusedAt v va y d).mc.undo = d.mc.undo := by
  cases y with
  | home b => cases b <;> rfl
  | _ => rfl

theorem failEarly_undo (v uid code : Nat) (c : Cmd) (d : Dev) : (failEarly v uid code c d).mc.undo = d.mc.undo := by
  unfold failEarly
  split
  · exact sendFence_undo ..
  · rfl

theorem fetchDesc_undo (v q : Nat) (x : Queue) (ord addr index chain pred : Nat) (w : Wk) :
    (fetchDesc v q x ord addr index chain pred w).2.dev.mc.undo = w.dev.mc.undo := by
  have held (e : Acc) : (holdAccess (.dma (hubOf v)) v (.fetch v q) x.devq 0 1 e w.dev).2.mc.undo = w.dev.mc.undo := holdAccess_undo ..
  unfold fetchDesc
  extract_lets hub got
  split
  next e _ =>
    specialize held e
    split
    next d waits => rwa [waits] at held
    next va y d fails => rw [fails] at held; exact (refusedAt_undo ..).trans held
  next desc _ =>
    extract_lets c nin n unread
    have fetched (c : Cmd) (w : Wk) : (got c w).2.dev.mc.undo = w.dev.mc.undo := by
      dsimp only [got, Wk.on]
      split
      · exact failEarly_undo ..
      · rfl
    split
    · exact fetched ..
    · split
      · exact fetched ..
      · split
        next e _ =>
          specialize held e
          split
          · exact fetched ..
          · split
            next d waits => rwa [waits] at held
            next va y d fails => rw [fails] at held; exact (fetched ..).trans ((refusedAt_undo ..).trans held)
        next bs _ => exact fetched ..

theorem fetchError_undo (v q : Nat) (d : Dev) : (fetchError v q d).mc.undo = d.mc.undo := by
  unfold fetchError
  split
  · rfl
  · split
    · exact undo_of_office (postEvent_office ..)
    · rfl

theorem fetchNamed_undo (v q : Nat) (x : Queue) (n : Chain) (w : Wk) : (fetchNamed v q x n w).2.dev.mc.undo = w.dev.mc.undo := by
  have fetched := fetchDesc_undo v q x n.ord n.addr n.index n.pos n.pred w
  unfold fetchNamed
  extract_lets put
  split
  · exact onQueue_undo ..
  · split
    next w' waits => rwa [waits] at fetched
    next w' unreadable => rw [unreadable] at fetched; exact (fetchError_undo ..).trans ((onQueue_undo ..).trans fetched)
    next c w' got => rw [got] at fetched; exact (onQueue_undo ..).trans fetched

theorem fetchEntry_undo (v q : Nat) (x : Queue) (w : Wk) : (fetchEntry v q x w).2.dev.mc.undo = w.dev.mc.undo := by
  have fetched := fetchDesc_undo v q x (x.nFetched + 1) (x.sqBase + 128 * x.sqHead) x.sqHead 0 0 w
  unfold fetchEntry
  split
  next w' waits => rwa [waits] at fetched
  next w' unreadable => rw [unreadable] at fetched; exact (fetchError_undo ..).trans fetched
  next c w' got => rw [got] at fetched; exact (onQueue_undo ..).trans fetched

theorem fetchLeft_undo (v q n : Nat) (w : Wk) : (fetchLeft v q n w).dev.mc.undo = w.dev.mc.undo := by
  induction n generalizing w with
  | zero => rfl
  | succ n ih =>
    have onward (r : Bool × Wk) : (if r.1 then fetchLeft v q n r.2 else r.2).dev.mc.undo = r.2.dev.mc.undo := by
      split
      · exact ih r.2
      · rfl
    unfold fetchLeft
    split
    · rfl
    · split
      · exact (onward _).trans (fetchNamed_undo ..)
      · split
        · rfl
        · exact (onward _).trans (fetchEntry_undo ..)

/-- The loss of a queue's commands leaves no undo journal where there was none. -/
theorem loseQueue_undo {w : Wk} (h : w.dev.mc.undo = []) (v q : Nat) : (loseQueue v q w).dev.mc.undo = [] := by
  unfold loseQueue
  split
  · exact h
  next x _ =>
    extract_lets w1 w2
    have current : w1.dev.mc.undo = [] := loseCur_undo (by exact h) v q
    have left : w2.dev.mc.undo = [] := (fetchLeft_undo ..).trans current
    split
    · exact left
    · split
      · exact left
      · exact loseFetched_undo _ _ _ left

end Sys2Proof.Machine
end

section
/-! Recovery: the device reset, the power cycle and the dredge (R429 … R435, R478). -/

namespace Sys2Proof.Machine

open Sys2Proof

/-! ## The equations of the commands -/

theorem exec_deviceReset (s : State) : exec .deviceReset s = .next (after s (deviceReset (work s))) := runMem_after ..

theorem exec_powerCycle (s : State) : exec .powerCycle s = .next (after s (powerCycle (work s))) := runMem_after ..

theorem exec_engineHang (e : Engine) (s : State) : exec (.engineHang e) s = .next (after s (doHang e (work s))) := runMem_after ..

theorem exec_dredgeSuspectEnd (e : Engine) (b : Bool) (s : State) :
    exec (.dredgeSuspectEnd e b) s = .next (after s (doSuspectEnd e b (work s))) := runMem_after ..

/-- A command that does no work leaves the state as it is. -/
theorem next_of_idle {i : Instr} {s : State} {w : Wk} (hi : exec i s = .next (after s w)) (idle : w = work s) : exec i s = .next s := by
  rw [hi, idle]
  rfl

theorem gives_self {i : Instr} {s : State} (h : exec i s = .next s) : Gives i s fun d => d = s.dev := ⟨s.dev, h, rfl⟩

/-! ## The device reset (R434, R478) -/

theorem deviceReset_of_dead {w : Wk} (dead : w.dev.clk.powered = false ∨ w.dev.sec.level = 3) : deviceReset w = w := by
  refine if_pos ?_
  rcases dead with h | h <;> simp [h]

/-- The device whose levels of service are over. -/
def serviceOver (d : Dev) : Dev := { d with boot := { d.boot with ready := false, early := false } }

/-- What is left of the work before the commands of a device reset are lost. -/
def enginesStopped (w : Wk) : Wk := undoAll (scribbleAll (w.on serviceOver))

/-- The commands of a device reset are lost. -/
def commandsLost (w : Wk) : Wk := ((enginesStopped w).dev.vds.flatMap fun v => v.2.queues.map fun q => (v.1, q.1)).foldl
  (fun w q => loseQueue q.1 q.2 w) (enginesStopped w)

section

variable {w : Wk} (powered : w.dev.clk.powered = true) (live : w.dev.sec.level ≠ 3)
include powered live

theorem deviceReset_of_recent (recent : ∃ t, t ∈ w.dev.boot.resets ∧ within w.dev.clk.hlc0 t 600000000 = true) :
    deviceReset w = powerCycle w := by
  have goes : ¬ (!w.dev.clk.powered || w.dev.sec.level == 3) = true := by simp [powered, live]
  exact (if_neg goes).trans (if_pos (List.any_eq_true.2 recent))

theorem deviceReset_of_first (first : ∀ t, t ∈ w.dev.boot.resets → within w.dev.clk.hlc0 t 600000000 = false) :
    deviceReset w = (commandsLost w).on restartDev := by
  have goes : ¬ (!w.dev.clk.powered || w.dev.sec.level == 3) = true := by simp [powered, live]
  have alone : ¬ (w.dev.boot.resets.any fun t => within w.dev.clk.hlc0 t 600000000) = true := by
    rw [List.any_eq_true]
    rintro ⟨t, listed, recent⟩
    exact Bool.false_ne_true ((first t listed).symm.trans recent)
  exact (if_neg goes).trans (if_neg alone)

end

theorem enginesStopped_undo (w : Wk) : (enginesStopped w).dev.mc.undo = [] := by
  refine List.eq_nil_iff_forall_not_mem.2 fun u mem => ?_
  exact absurd (undo_freeUndos _ (fun _ => true) u mem) (by simp)

theorem commandsLost_undo (w : Wk) : (commandsLost w).dev.mc.undo = [] := by
  have stopped := enginesStopped_undo w
  unfold commandsLost
  generalize enginesStopped w = w at stopped ⊢
  exact List.foldlRecOn _ _ (motive := fun w : Wk => w.dev.mc.undo = []) stopped fun _ h q _ => loseQueue_undo h q.1 q.2

theorem scribbleAll_of_empty {w : Wk} (vds : w.dev.vds = []) : scribbleAll w = w := by
  unfold scribbleAll
  rw [vds]
  rfl

theorem undoAll_of_none {w : Wk} (undo : w.dev.mc.undo = []) : undoAll w = w := by
  unfold undoAll
  rw [undo]
  exact freeUndos_of_none undo _

/-- A device without virtual devices and journals loses nothing. -/
theorem commandsLost_of_empty {w : Wk} (vds : w.dev.vds = []) (undo : w.dev.mc.undo = []) : commandsLost w = w.on serviceOver := by
  have stopped : enginesStopped w = w.on serviceOver := by
    rw [enginesStopped, scribbleAll_of_empty (w := w.on serviceOver) vds, undoAll_of_none (w := w.on serviceOver) undo]
  unfold commandsLost
  rw [stopped, show (w.on serviceOver).dev.vds = [] from vds]
  rfl

/-- What the last step of a device reset leaves. -/
structure Restarted (d e : Dev) : Prop where
  state : e.fw.state = 0
  ready : e.boot.ready = false
  active : e.boot.active = false
  kern : e.kern = []
  dredges : e.dredges = []
  records : e.records = []
  reqs : e.mc.reqs = []
  host : e.mc.host = []
  undo : e.mc.undo = d.mc.undo
  exchanges : e.fab.exchanges = []
  sessions : e.sec.sessions = []
  log : e.sec.log = d.sec.log
  keys : e.mc.keys = d.mc.keys
  resets : e.boot.resets = d.boot.resets ++ [d.clk.hlc0]

theorem restartDev_restarted (d : Dev) : Restarted d (restartDev d) := by
  unfold restartDev
  extract_lets e1
  have told : ∃ o, e1 = { d with od := o } := by
    refine List.foldlRecOn _ _ (motive := fun e : Dev => ∃ o, e = { d with od := o }) ⟨d.od, rfl⟩ ?_
    rintro _ ⟨o, rfl⟩ p _
    exact raiseOd_spec 1 p.1 (natLe 1 0) { d with od := o }
  obtain ⟨o, he⟩ := told
  have mc : e1.mc = d.mc := by rw [he]
  have sec : e1.sec = d.sec := by rw [he]
  have boot : e1.boot = d.boot := by rw [he]
  have clk : e1.clk = d.clk := by rw [he]
  clear_value e1
  exact {
    state := rfl
    ready := rfl
    active := rfl
    kern := rfl
    dredges := rfl
    records := rfl
    reqs := rfl
    host := rfl
    undo := by
      show e1.mc.undo = _
      rw [mc]
    exchanges := rfl
    sessions := rfl
    log := by
      show e1.sec.log = _
      rw [sec]
    keys := by
      show e1.mc.keys = _
      rw [mc]
    resets := by
      show e1.boot.resets ++ [e1.clk.hlc0] = _
      rw [boot, clk] }

section

variable {s : State} (powered : s.dev.clk.powered = true) (live : s.dev.sec.level ≠ 3)
include powered live

theorem deviceReset_first (first : ∀ t, t ∈ s.dev.boot.resets → within s.dev.clk.hlc0 t 600000000 = false) :
    Completes .deviceReset s fun t => t.dev.fw.state = 0 ∧ t.dev.boot.ready = false ∧ t.dev.boot.active = false ∧ t.dev.kern = [] ∧
      t.dev.dredges = [] ∧ t.dev.records = [] ∧ t.dev.mc.reqs = [] ∧ t.dev.mc.host = [] ∧ t.dev.mc.undo = [] ∧
      t.dev.fab.exchanges = [] ∧ t.dev.sec.sessions = [] ∧ (s.dev.vds = [] → s.dev.mc.undo = [] → t.mem = s.mem ∧
        t.dev.sec.log = s.dev.sec.log ∧ t.dev.mc.keys = s.dev.mc.keys ∧ t.dev.boot.resets = s.dev.boot.resets ++ [s.dev.clk.hlc0]) := by
  have restarted := restartDev_restarted (commandsLost (work s)).dev
  have lost := commandsLost_undo (work s)
  have still := commandsLost_of_empty (w := work s)
  refine ⟨_, next_after_of_eq (exec_deviceReset s) (deviceReset_of_first powered live first), ?_⟩
  generalize commandsLost (work s) = w at restarted lost still ⊢
  refine ⟨restarted.state, restarted.ready, restarted.active, restarted.kern, restarted.dredges, restarted.records, restarted.reqs,
    restarted.host, restarted.undo.trans lost, restarted.exchanges, restarted.sessions, fun vds undo => ?_⟩
  obtain rfl := still vds undo
  exact ⟨rfl, restarted.log, restarted.keys, restarted.resets⟩

theorem deviceReset_second (recent : ∃ t, t ∈ s.dev.boot.resets ∧ within s.dev.clk.hlc0 t 600000000 = true) :
    exec .deviceReset s = exec .powerCycle s := by
  rw [exec_deviceReset, exec_powerCycle, deviceReset_of_recent (w := work s) powered live recent]

end

/-! ## The power cycle (R435) -/

theorem powerCycle_leaves {s : State} (wf : s.mem.wf = true) : Completes .powerCycle s fun t => (∀ a, t.mem.raw a = emptyByte) ∧
    t.dev.clk.powered = false ∧ t.dev.vds = [] ∧ t.dev.fw.state = 0 ∧ t.dev.sec.level = 0 ∧ t.dev.sec.log = [] ∧
    t.dev.sec.levels = s.dev.sec.levels ∧ t.dev.sec.a2Count = s.dev.sec.a2Count ∧ t.dev.sec.a3Count = s.dev.sec.a3Count ∧
    t.dev.sec.serial = s.dev.sec.serial ∧ (∀ i, t.dev.keySlot i = KeySlot.reset) ∧
    ((s.dev.mc.chans.map Prod.fst).Nodup → ∀ c, (t.dev.chan c).spareUsed = (s.dev.chan c).spareUsed) ∧
    ∀ k n, (t.dev.unit k n).cause = 0 ∧ (t.dev.unit k n).returning = false := by
  have dev : (after s (powerCycle (work s))).dev = coldDev s.dev := powerCycle_dev _
  refine ⟨_, exec_powerCycle s, powerCycle_raw wf rfl rfl, ?_⟩
  rw [dev]
  exact ⟨rfl, rfl, rfl, rfl, rfl, rfl, rfl, rfl, rfl, coldDev_keySlot _, coldDev_spareUsed, coldDev_unit _⟩

/-! ## An engine that hangs (R429, R430) -/

theorem resetEngine_office (e : Engine) (d : Dev) : (resetEngine e d).office = d.office := by
  cases e with
  | core n =>
    obtain ⟨_, h⟩ := dropShadow_spec n.val d
    show (zeroCore n.val d).office = d.office
    rw [zeroCore, h]
    rfl
  | _ => rfl

theorem noteHang_office (x : Suspect) (d : Dev) : (noteHang x d).office = d.office := by
  unfold noteHang
  split
  · split
    · exact raiseOd_office ..
    · rfl
  · rfl

theorem dredges_of_office {d e : Dev} (h : d.office = e.office) : d.dredges = e.dredges := congrArg (fun o => o.2.1) h

theorem abandonCmd_dredges (v q : Nat) (w : Wk) : (abandonCmd v q w).dev.dredges = w.dev.dredges := by
  have kept := abandonCmd_office v q w
  exact dredges_of_office kept

theorem doHang_of_innocent {e : Engine} {w : Wk} (none_ : suspectsOf w.dev e = []) : doHang e w = w := by
  unfold doHang
  rw [none_]

/-- An engine whose dredge runs has hung before. -/
theorem doHang_of_dredged {e : Engine} {w : Wk} {r : Dredge} (listed : r ∈ w.dev.dredges) (own : r.engine = e) : doHang e w = w := by
  unfold doHang
  split
  · rfl
  · refine if_pos (List.any_eq_true.2 ⟨r, listed, ?_⟩)
    simp [own]

/-- The suspects of the first engine that hangs are dredged. -/
theorem doHang_dredges {e : Engine} {a : Suspect} {l : List Suspect} {w : Wk} (suspects : suspectsOf w.dev e = a :: l)
    (first : w.dev.dredges = []) : (doHang e w).dev.dredges = [⟨e, l, some a, 0, none, false⟩] := by
  have noted : ((a :: l).foldl (fun d x => noteHang x d) (resetEngine e (bump 4 w.dev))).office = w.dev.office := by
    refine (foldl_keeps Dev.office (fun d x => noteHang_office x d) (a :: l) _).trans ((resetEngine_office ..).trans ?_)
    rfl
  have begun := (dredges_of_office noted).trans first
  have abandoned (w : Wk) : ((a :: l).foldl (fun w x => abandonCmd x.1 x.2.1 w) w).dev.dredges = w.dev.dredges :=
    foldl_keeps (fun w : Wk => w.dev.dredges) (fun w (x : Suspect) => abandonCmd_dredges x.1 x.2.1 w) (a :: l) w
  unfold doHang
  rw [suspects, first]
  dsimp only
  rw [if_neg (by simp), abandoned]
  show ((a :: l).foldl (fun d x => noteHang x d) (resetEngine e (bump 4 w.dev))).dredges ++ _ = _
  rw [begun]
  rfl

/-! ## The suspects that run alone (R431) -/

section

variable {w : Wk} {e : Engine} {r : Dredge} {a : Suspect}

theorem doSuspectEnd_of_undredged (none_ : ∀ r, r ∈ w.dev.dredges → r.engine ≠ e) (b : Bool) : doSuspectEnd e b w = w := by
  have nothing : (w.dev.dredges.find? fun r => r.engine == e) = none :=
    List.find?_eq_none.2 fun r listed => by simp [none_ r listed]
  unfold doSuspectEnd
  rw [nothing]

variable (found : (w.dev.dredges.find? fun r => r.engine == e) = some r)
include found

theorem doSuspectEnd_of_none_alone (alone : r.alone = none) (b : Bool) : doSuspectEnd e b w = w := by
  simp only [doSuspectEnd, found, alone]

variable (alone : r.alone = some a)
include alone

/-- A suspect that is gone has not hung. -/
theorem doSuspectEnd_hung_gone (gone : w.dev.suspect? a = none) : doSuspectEnd e false w = w := by
  simp only [doSuspectEnd, found, alone, gone, Bool.false_eq_true, if_false]

/-- A suspect hangs where it makes an attempt. -/
theorem doSuspectEnd_hung {c : Cmd} (suspect : w.dev.suspect? a = some c) :
    doSuspectEnd e false w = if c.attempting then hungAlone r a w else w := by
  simp only [doSuspectEnd, found, alone, suspect, Bool.false_eq_true, if_false]

/-- A suspect that runs has not completed. -/
theorem doSuspectEnd_of_running {c : Cmd} (suspect : w.dev.suspect? a = some c) (running : c.phase = .running) (whole : c.failOut = none) :
    doSuspectEnd e true w = w := by
  simp only [doSuspectEnd, found, alone, suspect]
  simp [running, whole]

/-- A suspect that is done is innocent, and the next one runs. -/
theorem doSuspectEnd_of_done (first : r.second = none) (gone : w.dev.suspect? a = none) : doSuspectEnd e true w = nextSuspect r w := by
  simp only [doSuspectEnd, found, alone, gone, Bool.false_eq_true, if_false, if_true]
  unfold acquit
  rw [first]
  cases r.engine <;> rfl

end

theorem nextSuspect_of_waiting {w : Wk} {r : Dredge} {x : Suspect} {l : List Suspect} (waiting : r.waiting = x :: l)
    (there : (w.dev.suspect? x).isSome = true) : nextSuspect r w = w.on (onDredge r.engine fun _ => { r with
      waiting := l.filter fun y => (w.dev.suspect? y).isSome
      alone := some x
      hangs := 0
      second := none }) := by
  unfold nextSuspect
  rw [waiting, List.filter_cons_of_pos (p := fun s => (w.dev.suspect? s).isSome) there]

theorem nextSuspect_of_last {w : Wk} {r : Dredge} (last : r.waiting = []) (guilty : r.guilty = true) :
    nextSuspect r w = w.on (endDredge r.engine) := by
  unfold nextSuspect
  rw [last, List.filter_nil]
  exact if_pos guilty

/-- A suspect that hangs on a core runs alone once more on another (R431). -/
theorem hungAlone_dredges {w : Wk} {n : CoreId} {m : Nat} {r : Dredge} {a : Suspect} (alone : w.dev.dredges = [r]) (engine : r.engine = .core n)
    (first : r.second = none) (other : otherCore w.dev a n.val = some m) : (hungAlone r a w).dev.dredges = [{ r with
      hangs := 1
      second := some m }] := by
  have reset : (resetEngine (.core n) (bump 4 w.dev)).dredges = [r] := (dredges_of_office (resetEngine_office ..)).trans alone
  have counted : otherCore (w.on (bump 4)).dev a n.val = some m := other
  unfold hungAlone
  simp only [engine, first, counted]
  refine (abandonCmd_dredges ..).trans ?_
  show updFirst _ _ (resetEngine (.core n) (bump 4 w.dev)).dredges = _
  rw [reset]
  simp [updFirst, engine]

theorem engine_of_found {l : List Dredge} {r : Dredge} {e : Engine} (found : (l.find? fun r => r.engine == e) = some r) : r.engine = e :=
  eq_of_beq (List.find?_some (p := fun r : Dredge => r.engine == e) found)

/-- Settles O52: the device reset, the power cycle, and the engines that hang with their suspects. -/
theorem recovery : Obligations.Recovery := by
  refine ⟨fun s dead => gives_self (next_of_idle (exec_deviceReset s) (deviceReset_of_dead dead)),
    fun s powered live => ⟨deviceReset_first powered live, deviceReset_second powered live⟩, fun s h => runMem_after .., fun s => powerCycle_leaves,
    fun s e innocent => gives_self (next_of_idle (exec_engineHang e s) (doHang_of_innocent innocent)),
    fun s e a l suspects first => ⟨_, exec_engineHang e s, doHang_dredges (w := work s) suspects first⟩,
    fun s e r listed own => next_of_idle (exec_engineHang e s) (doHang_of_dredged (w := work s) listed own),
    fun s e b r found alone => next_of_idle (exec_dredgeSuspectEnd e b s) (doSuspectEnd_of_none_alone (w := work s) found alone b),
    fun s e r a found alone => ⟨fun gone => ?_, fun c suspect idle => ?_, fun c suspect running whole => ?_⟩,
    fun s e b none_ => gives_self (next_of_idle (exec_dredgeSuspectEnd e b s) (doSuspectEnd_of_undredged none_ b)),
    fun s e r a found alone first gone => ⟨fun x l waiting there => ?_, fun last guilty => ?_⟩,
    fun s n m r a c only engine alone first suspect attempting other => ?_⟩
  · exact next_of_idle (exec_dredgeSuspectEnd e false s) (doSuspectEnd_hung_gone (w := work s) found alone gone)
  · exact next_of_idle (exec_dredgeSuspectEnd e false s) ((doSuspectEnd_hung (w := work s) found alone suspect).trans (if_neg (by simp [idle])))
  · exact next_of_idle (exec_dredgeSuspectEnd e true s) (doSuspectEnd_of_running (w := work s) found alone suspect running whole)
  · have done_ := doSuspectEnd_of_done (w := work s) found alone first gone
    exact gives_of_on (exec_dredgeSuspectEnd e true s) (done_.trans (nextSuspect_of_waiting waiting there)) rfl
  · have done_ := doSuspectEnd_of_done (w := work s) found alone first gone
    refine gives_of_on (exec_dredgeSuspectEnd e true s) (done_.trans (nextSuspect_of_last last guilty)) ?_
    rw [engine_of_found found]
    rfl
  · have found : (s.dev.dredges.find? fun r => r.engine == .core n) = some r := by simp [only, engine]
    refine ⟨_, next_after_of_eq (exec_dredgeSuspectEnd (.core n) false s) ((doSuspectEnd_hung (w := work s) found alone suspect).trans
      (if_pos attempting)), ?_⟩
    exact hungAlone_dredges (w := work s) only engine first other

end Sys2Proof.Machine
end

section
/-! Migration of a virtual device: FREEZE, SAVE, RESTORE, THAW and DISCARD (R365 … R372, R235). -/

namespace Sys2Proof.Machine

open Sys2Proof

/-! ## The equations of the commands -/

theorem exec_freeze (s : State) : exec .freeze s =
    .next (after s ((migrate 0x0401 { adRow 0x0401 1 with whileA2 := true } doFreeze (work s)).on settleAll)) :=
  runMem_after (fun w => (migrate 0x0401 { adRow 0x0401 1 with whileA2 := true } doFreeze w).on settleAll) s

theorem exec_freezeGraceExpiry (v : VDev) (s : State) : exec (.freezeGraceExpiry v) s = .next (after s (doFreezeGrace v.val (work s))) :=
  runMem_after ..

theorem exec_save (ok : Bool) (s : State) : exec (.save ok) s =
    .next (after s (migrate 0x0402 { adRow 0x0402 19 with whileA2 := true } (doSave ok) (work s))) := runMem_after ..

theorem exec_restore (n : Nat) (intact : Bool) (s : State) : exec (.restore n intact) s =
    .next (after s (migrate 0x0403 (adRow 0x0403 210) (doRestore n intact) (work s))) := runMem_after ..

theorem exec_thaw (s : State) : exec .thaw s =
    .next (after s (migrate 0x0404 { adRow 0x0404 1 with whileA2 := true } doThaw (work s))) := runMem_after ..

theorem exec_discard (s : State) : exec .discard s =
    .next (after s (migrate 0x0405 { adRow 0x0405 1 with whileA2 := true } doDiscard (work s))) := runMem_after ..

/-! ## A row of migration (R372) -/

theorem noteRefusal_spec (op : Nat) (before : Dev) (w : Wk) : ∃ ns, noteRefusal op before w = w.on fun d => { d with notices := ns } := by
  unfold noteRefusal
  split
  · exact ⟨w.dev.notices, rfl⟩
  · dsimp only
    split
    · exact ⟨w.dev.notices, rfl⟩
    · exact ⟨_, rfl⟩

section

variable {w w' : Wk} {row : AdRow} {i : Nat} {bs : List Byte} {body : AdReq → Wk → Ans × Wk}

theorem migrate_of_accepted (h : Accepted w.dev mgr row i bs) (op : Nat) (body : AdReq → Wk → Ans × Wk) :
    migrate op row body w = noteRefusal op w.dev (takeRequest mgr row body w) := by
  have known : w.on (answerUnknown mgr 32) = w := by simp only [Wk.on, answerUnknown_of_accepted h]
  unfold migrate
  rw [known]

/-- A request that waits is not refused. -/
theorem migrate_waiting (h : Accepted w.dev mgr row i bs) (op : Nat) (hb : body (headReq mgr i bs) w = (.wait, w'))
    (unanswered : w'.dev.fns = w.dev.fns) : migrate op row body w = w' := by
  have same : (w'.dev.fn mgr).respUsed = (w.dev.fn mgr).respUsed := congrArg (fun t => (Tab.getD t mgr Fn.reset).respUsed) unanswered
  rw [migrate_of_accepted h, takeRequest_waiting h hb, noteRefusal, h.head]
  simp [same]

/-- A request performed or deferred leaves what its body leaves, but for functions, notices, the journal and what the device says. -/
theorem migrate_spec (h : Accepted w.dev mgr row i bs) (op : Nat) {a : Ans} (hb : takeRequest mgr row body w = finish (headReq mgr i bs) a w') :
    ∃ fns ns l fw out, migrate op row body w = w'.on (fun d => { d with fns := fns, notices := ns, evcs := l, fw := fw, out := out }) ∧
      out = (finish (headReq mgr i bs) a w').dev.out := by
  obtain ⟨fns, ns, l, fw, out, finished⟩ := finish_spec (headReq mgr i bs) a w'
  obtain ⟨ns', noted⟩ := noteRefusal_spec op w.dev (finish (headReq mgr i bs) a w')
  refine ⟨fns, ns', l, fw, out, ?_, by rw [finished]⟩
  rw [migrate_of_accepted h, hb, noted, finished]
  rfl

end

/-! ## What the device says is not taken back -/

/-- What has left stays said. -/
def Said (o : Output) (d e : Dev) : Prop := o ∈ d.out → o ∈ e.out

theorem said_adRespond (o : Output) (fn slot : Nat) (tag : BitVec 32) (st code : Nat) (res : List Byte) (d : Dev) :
    Said o d (adRespond fn slot tag st code res d) := by
  intro said
  obtain ⟨l, w, journaled⟩ := journal_spec 2 [fn, slot, st] d
  unfold adRespond
  rw [journaled]
  extract_lets d' f n
  obtain ⟨vs, out, signalled, before | ⟨a, b, more⟩⟩ := signalVec_spec fn f.adminVec (d'.setFn fn { f with
    respSlots := Tab.put f.respSlots slot (responseBytes st code (n % 2 == 0) tag res)
    respUsed := Tab.put f.respUsed slot (n + 1)
    taken := Tab.del f.taken slot })
  · rw [signalled, before]
    exact said
  · rw [signalled, more]
    exact List.mem_append_left _ said

theorem said_answerUnknown (o : Output) (fn n : Nat) (d : Dev) : Said o d (answerUnknown fn n d) := by
  induction n generalizing d with
  | zero => exact id
  | succ n ih =>
    intro said
    unfold answerUnknown
    split
    · exact said
    · split
      · refine ih _ ?_
        unfold noteUnknown
        split
        · exact said_adRespond o _ _ _ _ _ _ (advanceHead fn d) said
        · exact said_adRespond o _ _ _ _ _ _ (advanceHead fn d) said
      · exact said

theorem said_finish_done (o : Output) (r : AdReq) (st code : Nat) (res : List Byte) (w : Wk) :
    Said o w.dev (finish r (.done st code res) w).dev := by
  intro said
  obtain ⟨l, fw, took⟩ := took_spec r w.dev
  refine said_answerUnknown o _ _ _ (said_adRespond o _ _ _ _ _ _ _ ?_)
  show o ∈ (journal 1 [r.fn, r.slot, r.flags] (advanceHead r.fn w.dev)).out
  rw [took]
  exact said

/-! ## FREEZE (R366, R235) -/

/-- What a freeze leaves of a virtual device: whether it is frozen, its table and its cores. -/
def Dev.standing (v : Nat) (d : Dev) : Bool × List REntry × List Nat := ((d.vd v).frozen, (d.vd v).table, (d.vd v).cores)

theorem standing_of_vds {d e : Dev} (same : d.vds = e.vds) (v : Nat) : d.standing v = e.standing v := by
  rw [Dev.standing, Dev.vd, same]
  rfl

theorem standing_onVd_queues (v u : Nat) (f : Tab Queue → Tab Queue) (d : Dev) :
    (d.onVd u fun x => { x with queues := f x.queues }).standing v = d.standing v := by
  by_cases own : v = u
  · rw [own, Dev.standing, Dev.vd_onVd_same]
    rfl
  · rw [Dev.standing, Dev.vd_onVd_ne _ _ own]
    rfl

theorem standing_settleFreeze (v u : Nat) (d : Dev) : (settleFreeze u d).standing v = d.standing v := by
  have dropped : (dropFaults u d).standing v = d.standing v := by
    obtain ⟨xlt, evcs, fw, back, frame⟩ := dropFaults_frame u d
    rw [frame, standing_onVd_queues]
    rfl
  unfold settleFreeze
  split
  · rfl
  · refine (standing_of_vds ?_ v).trans dropped
    exact (answerMgr_frame ..).1

theorem standing_settleAll (v : Nat) (d : Dev) : (settleAll d).standing v = d.standing v :=
  foldl_keeps (Dev.standing v) (fun d u => standing_settleFreeze v u d) _ d

theorem freeze_gives {s : State} {i : Nat} {bs : List Byte} (h : Accepted s.dev mgr { adRow 0x0401 1 with whileA2 := true } i bs) {v : Nat}
    (hv : fieldLe (headReq mgr i bs).args 0 1 = v) (running : (s.dev.vd v).frozen = false) (closed : s.dev.windowed v = false) :
    Gives .freeze s fun d => (d.vd v).frozen = true ∧ (d.vd v).table = (s.dev.vd v).table ∧ (d.vd v).cores = (s.dev.vd v).cores := by
  have body : doFreeze (headReq mgr i bs) (work s) =
      (.later (.freeze v false), (work s).on fun _ => s.dev.onVd v fun x => { x with frozen := true }) := by
    have allowed : ¬ ((s.dev.vd v).frozen || s.dev.windowed v) = true := by simp [running, closed]
    unfold doFreeze
    rw [hv]
    exact if_neg allowed
  obtain ⟨fns, ns, l, fw, out, taken, -⟩ := migrate_spec (w := work s) h 0x0401 (takeRequest_deferred h body)
  have frozen : (s.dev.onVd v fun x => { x with frozen := true }).standing v = (true, (s.dev.vd v).table, (s.dev.vd v).cores) := by
    rw [Dev.standing, Dev.vd_onVd_same]
  generalize (s.dev.onVd v fun x => { x with frozen := true }) = e at frozen taken
  have stands := (standing_settleAll v { e with fns := fns, notices := ns, evcs := l, fw := fw, out := out }).trans
    ((standing_of_vds rfl v).trans frozen)
  refine ⟨_, (exec_freeze s).trans (by rw [taken]; rfl), ?_⟩
  simp only [Dev.standing, Prod.mk.injEq] at stands
  exact stands

theorem freezeGrace_none {s : State} {v : VDev} (none_ : (s.dev.fn mgr).taken.find? (fun t => t.2.op == .freeze v.val false) = none) :
    exec (.freezeGraceExpiry v) s = .next s := by
  refine next_of_idle (exec_freezeGraceExpiry v s) ?_
  unfold doFreezeGrace
  rw [show ((work s).dev.fn mgr).taken.find? (fun t => t.2.op == .freeze v.val false) = none from none_]

theorem doFreezeGrace_found {w : Wk} {v slot : Nat} {t : Taken}
    (found : (w.dev.fn mgr).taken.find? (fun t => t.2.op == .freeze v false) = some (slot, t)) :
    doFreezeGrace v w = ((((w.dev.advance 0 (t.since + graceTicks)).vd v).queues.map Prod.fst).foldl (fun w q => holdCmd v q w)
      (w.on fun d => (d.advance 0 (t.since + graceTicks)).onFn mgr fun f =>
        { f with taken := Tab.put f.taken slot { t with op := .freeze v true } })).on (settleFreeze v) := by
  unfold doFreezeGrace
  rw [found]
  rfl

/-! ## SAVE (R367, R368) -/

theorem askHomes_fns (v : Nat) (d : Dev) : (askHomes v d).fns = d.fns := by
  have sent (r : FRef) (src : FSrc) (d : Dev) : (sendFence r .read src d).fns = d.fns := by
    cases r with
    | cell k => rfl
    | proxy u slot =>
      unfold sendFence
      dsimp only
      split
      · cases src <;> rfl
      · split <;> rfl
  refine foldl_keeps Dev.fns (fun d x => ?_) _ d
  split
  · rfl
  · exact sent ..

/-- A part of a blob leaves for the host or for the peer, at an offset and under a number. -/
def partOut (kind p addr v : Nat) (bs : List Byte) (off n : Nat) : Output :=
  if kind = 0 then .hostWrite mgr (addr + off) bs else .blobPart p v n bs

/-- The device once a part of a blob has left, with the offset and the number of the next part. -/
def partSent (kind p addr v : Nat) (e : Dev × Nat × Nat) (bs : List Byte) : Dev × Nat × Nat :=
  (e.1.emit (partOut kind p addr v bs e.2.1 e.2.2), e.2.1 + bs.length, e.2.2 + 1)

theorem foldl_partSent (kind p addr v : Nat) (l : List (List Byte)) (e : Dev × Nat × Nat) : ∃ more,
    (l.foldl (partSent kind p addr v) e).1 = { e.1 with out := e.1.out ++ more } := by
  induction l generalizing e with
  | nil => exact ⟨[], by rw [List.append_nil]; rfl⟩
  | cons bs l ih =>
    obtain ⟨more, sent⟩ := ih (partSent kind p addr v e bs)
    refine ⟨partOut kind p addr v bs e.2.1 e.2.2 :: more, sent.trans ?_⟩
    show ({ e.1 with out := (e.1.out ++ [partOut kind p addr v bs e.2.1 e.2.2]) ++ more } : Dev) = _
    rw [List.append_assoc]
    rfl

/-- A blob that is written leaves from its first part on, and nothing else of the device changes. -/
theorem writeBlob_spec (kind p addr v : Nat) (x : List Byte × List (List Byte)) (d : Dev) : ∃ out,
    writeBlob kind p addr v x d = { d with out := out } ∧
    partOut kind p addr v x.1 0 0 ∈ out := by
  have parts : writeBlob kind p addr v x d = ((x.1 :: x.2).foldl (partSent kind p addr v) (d, 0, 0)).1 := rfl
  obtain ⟨more, sent⟩ := foldl_partSent kind p addr v x.2 (partSent kind p addr v (d, 0, 0) x.1)
  rw [parts]
  refine ⟨_, sent, ?_⟩
  exact List.mem_append_left _ (List.mem_append_right _ (List.mem_singleton_self _))

/-- The device that keeps a blob of a virtual device and has ended its exports. -/
def blobKept (v n : Nat) (b : Blob) (d : Dev) : Dev :=
  ({ d with blobs := Tab.put d.blobs n b, exports := d.exports.filter fun e => e.2.vdev != v }.onFx fun x =>
    { x with reads := x.reads.filter fun y => !(y.1 == mgr && y.2.1 / 65536 == v + 1) }).emit (.blobOut v n)

/-- The device once a SAVE has kept its blob `b`, numbered `n`, and written it as `x` where the request says. -/
def saved (a : AdReq) (v n : Nat) (b : Blob) (x : List Byte × List (List Byte)) (d : Dev) : Dev :=
  noteMigration v 0x0402 stOk (writeBlob (fieldLe a.args 1 1) (fieldLe a.args 2 1) (fieldLe a.args 3 8) v x (blobKept v n b d))

theorem saved_leaves (a : AdReq) (v n : Nat) (b : Blob) (x : List Byte × List (List Byte)) (d : Dev) :
    Tab.get? (saved a v n b x d).blobs n = some b ∧ (∀ e ∈ (saved a v n b x d).exports, e.2.vdev ≠ v) ∧ (saved a v n b x d).vds = d.vds ∧
    partOut (fieldLe a.args 1 1) (fieldLe a.args 2 1) (fieldLe a.args 3 8) v x.1 0 0 ∈ (saved a v n b x d).out := by
  obtain ⟨out, written, said⟩ := writeBlob_spec (fieldLe a.args 1 1) (fieldLe a.args 2 1) (fieldLe a.args 3 8) v x (blobKept v n b d)
  unfold saved
  rw [written]
  refine ⟨Tab.get?_put_same .., fun e mem => ?_, rfl, said⟩
  simpa using (List.mem_filter.1 mem).2

section

variable {w : Wk} {a : AdReq} {v : Nat} (arg : fieldLe a.args 0 1 = v) (kind : fieldLe a.args 1 1 < 2) (port : fieldLe a.args 2 1 < 16)
  (frozen : (w.dev.vd v).frozen = true) (rest : w.dev.atRest v = true) (taken : w.dev.mgrWaits (DefOp.freezes v) = false)
  (up : w.dev.secUp = true) (whole : w.dev.lostData v = false)
include arg kind port frozen rest taken up whole

theorem doSave_asks (unread : unreadSlots w.dev v ≠ []) : doSave true a w = (.wait, w.on (askHomes v)) := by
  have open_ : (unreadSlots w.dev v).isEmpty = false := by simpa using unread
  have args : ¬ (2 ≤ fieldLe a.args 1 1 || 16 ≤ fieldLe a.args 2 1) = true := by simp [kind, port]
  simp [doSave, arg, args, frozen, rest, taken, up, whole, open_]

theorem doSave_writes (read : unreadSlots w.dev v = []) {n : Nat} {b : Blob} {x : List Byte × List (List Byte)} (number : w.dev.nextBlob = n)
    (blob : blobOf w v = b) (sealed : sealBlob w v n b = x) : doSave true a w = performed [] (w.on (saved a v n b x)) := by
  subst number blob sealed
  have args : ¬ (2 ≤ fieldLe a.args 1 1 || 16 ≤ fieldLe a.args 2 1) = true := by simp [kind, port]
  simp only [doSave, arg, args, frozen, rest, taken, up, whole, read]
  rfl

end

section

variable {s : State} {i : Nat} {bs : List Byte} (h : Accepted s.dev mgr { adRow 0x0402 19 with whileA2 := true } i bs) {v : Nat}
  (arg : fieldLe (headReq mgr i bs).args 0 1 = v) (kind : fieldLe (headReq mgr i bs).args 1 1 < 2)
  (port : fieldLe (headReq mgr i bs).args 2 1 < 16) (frozen : (s.dev.vd v).frozen = true) (rest : s.dev.atRest v = true)
  (taken : s.dev.mgrWaits (DefOp.freezes v) = false) (up : s.dev.secUp = true) (whole : s.dev.lostData v = false)
include h arg kind port frozen rest taken up whole

theorem save_asks (unread : unreadSlots s.dev v ≠ []) : exec (.save true) s = .next (after s ((work s).on (askHomes v))) := by
  rw [exec_save, migrate_waiting (w := work s) h 0x0402 (doSave_asks (w := work s) arg kind port frozen rest taken up whole unread) (askHomes_fns ..)]

theorem save_writes (read : unreadSlots s.dev v = []) : Gives (.save true) s fun d =>
    Tab.get? d.blobs s.dev.nextBlob = some (blobOf (work s) v) ∧ (∀ e ∈ d.exports, e.2.vdev ≠ v) ∧ d.vds = s.dev.vds ∧
    partOut (fieldLe (headReq mgr i bs).args 1 1) (fieldLe (headReq mgr i bs).args 2 1) (fieldLe (headReq mgr i bs).args 3 8) v
      (sealBlob (work s) v s.dev.nextBlob (blobOf (work s) v)).1 0 0 ∈ d.out := by
  obtain ⟨b, blob⟩ : ∃ b, blobOf (work s) v = b := ⟨_, rfl⟩
  obtain ⟨x, sealed⟩ : ∃ x, sealBlob (work s) v s.dev.nextBlob b = x := ⟨_, rfl⟩
  have body := doSave_writes (w := work s) arg kind port frozen rest taken up whole read (n := s.dev.nextBlob) rfl blob sealed
  rw [blob, sealed]
  obtain ⟨blobs, exports, vds, said⟩ := saved_leaves (headReq mgr i bs) v s.dev.nextBlob b x s.dev
  obtain ⟨fns, ns, l, fw, out, answered, told⟩ := migrate_spec (w := work s) h 0x0402 (takeRequest_replied h body)
  have heard := said_finish_done _ (headReq mgr i bs) stOk 0 [] ((work s).on (saved (headReq mgr i bs) v s.dev.nextBlob b x)) said
  rw [← told] at heard
  exact ⟨_, next_after_of_eq (exec_save true s) answered, blobs, exports, vds, heard⟩

end

/-! ## RESTORE (R369, R471) -/

section

variable {a : AdReq} {r : Req} {d : Dev} {b : Blob} {n : Nat} (arg : ⟨a.args.take 192⟩ = r) (fields : r.fieldsOk = true)
  (kind : fieldLe a.args 192 1 < 2) (port : fieldLe a.args 193 1 < 16) (epoch : r.epoch = (d.vd r.vdev).epoch.toNat)
  (up : d.secUp = true) (blob : Tab.get? d.blobs n = some b) (fresh : (d.vd r.vdev).composed = false) (ready : (d.vd r.vdev).inReset = false)
  (acl : b.acl ≤ d.fw.aclMax.toNat) (keys : (b.keys.all fun k => (d.keySlot k.1).state == .empty) = true)
  (ctxs : (b.ctxs.all fun t => (d.ctx? t.1).isNone) = true) (sets : (b.sets.all fun e => !(d.set e.1).valid) = true)
  (queues : (b.queues.all fun q => decide (q.1 < r.queues)) = true)
  (lawful : composeStatus d { d.vd r.vdev with frozen := false } r (changeOf d (d.vd r.vdev) r) = none)
  (quota : b.keys.length ≤ (d.vd r.vdev).quota.toNat) (room : d.devqs.length + b.queues.length ≤ 4096)
include arg fields kind port epoch up blob fresh ready acl keys ctxs sets queues lawful quota room

/-- A blob that has its place is restored. -/
theorem doRestore_places {m : Memory} {w : Wk}
    (placed : restoreBlob r.vdev b (Wk.on (applyChange r.vdev r (changeOf d (d.vd r.vdev) r)) ⟨d, m, []⟩) = some w) :
    doRestore n true a ⟨d, m, []⟩ = performed [] (w.on (noteMigration r.vdev 0x0403 stOk)) := by
  have args : (!r.fieldsOk || 2 ≤ fieldLe a.args 192 1 || 16 ≤ fieldLe a.args 193 1) = false := by simp [fields, kind, port]
  have current : ¬ r.epoch ≠ (d.vd r.vdev).epoch.toNat := not_not.2 epoch
  unfold doRestore
  dsimp only at lawful ⊢
  rw [arg, args, if_neg Bool.false_ne_true, if_neg current, up, blob]
  simp only [lawful]
  simp only [fresh, ready, acl, keys, ctxs, sets, queues, quota, room, placed, decide_true, Bool.not_true, Bool.not_false, Bool.and_true,
    Bool.false_eq_true, if_false]

end

theorem restore_places {s : State} {n i : Nat} {bs : List Byte} {w : Wk} {v : Nat} (h : Accepted s.dev mgr (adRow 0x0403 210) i bs)
    (body : doRestore n true (headReq mgr i bs) (work s) = performed [] (w.on (noteMigration v 0x0403 stOk))) :
    Completes (.restore n true) s fun t => t.dev.vds = w.dev.vds ∧ t.mem = s.mem.commit w.log ∧ t.dev.ctxs = w.dev.ctxs := by
  obtain ⟨fns, ns, l, fw, out, done_, -⟩ := migrate_spec (w := work s) h 0x0403 (takeRequest_replied h body)
  exact ⟨_, next_after_of_eq (exec_restore n true s) done_, rfl, rfl, rfl⟩

/-! ## THAW and DISCARD (R370) -/

/-- The device that has answered a FREEZE which is not complete, where one waits. -/
def freezeCancelled (v : Nat) (d : Dev) : Dev :=
  if d.mgrWaits (DefOp.freezes v) then noteMigration v 0x0401 stState (answerMgr (DefOp.freezes v) stState d) else d

/-- The timer of a held command starts at a time. -/
def Cmd.restarted (t : BitVec 64) (c : Cmd) : Cmd := if c.held then { c with start := t } else c

/-- The virtual device released. -/
def thawed (v : Nat) (d : Dev) : Dev := d.onVd v fun x => { x with
  frozen := false
  queues := curMapped (Cmd.restarted (d.hlcOf v)) x.queues }

theorem freezeCancelled_spec (v : Nat) (d : Dev) : (freezeCancelled v d).vds = d.vds ∧ (freezeCancelled v d).clk = d.clk := by
  unfold freezeCancelled
  split
  · unfold answerMgr
    split
    next slot t _ =>
      obtain ⟨x, l, fw, out, answered⟩ := adRespond_spec mgr slot t.tag stState 0 [] d
      rw [answered]
      exact ⟨rfl, rfl⟩
    · exact ⟨rfl, rfl⟩
  · exact ⟨rfl, rfl⟩

theorem doThaw_frozen {w : Wk} {a : AdReq} {v : Nat} (arg : fieldLe a.args 0 1 = v) (frozen : (w.dev.vd v).frozen = true) :
    doThaw a w = performed [] (w.on fun d => thawed v (freezeCancelled v d)) := by
  subst arg
  have goes : ¬ (!(w.dev.vd (fieldLe a.args 0 1)).frozen) = true := by simp [frozen]
  exact if_neg goes

theorem cur?_thawed {v q : Nat} {d : Dev} {c : Cmd} (cur : d.cur? v q = some c) (held : c.held = true) :
    (thawed v d).cur? v q = some { c with start := d.hlcOf v } := by
  obtain ⟨x, queue, current⟩ := Option.bind_eq_some_iff.1 cur
  have there : (thawed v d).queue? v q = some { x with cur := x.cur.map (Cmd.restarted (d.hlcOf v)) } := by
    rw [Dev.queue?, thawed, Dev.vd_onVd_same]
    refine (Tab.get?_map (fun _ (y : Queue) => { y with cur := y.cur.map (Cmd.restarted (d.hlcOf v)) }) _ q).trans ?_
    rw [show Tab.get? (d.vd v).queues q = some x from queue]
    rfl
  rw [Dev.cur?, there, Option.bind_some, current, Option.map_some, Cmd.restarted, if_pos held]

theorem thaw_gives {s : State} {i : Nat} {bs : List Byte} (h : Accepted s.dev mgr { adRow 0x0404 1 with whileA2 := true } i bs) {v : Nat}
    (arg : fieldLe (headReq mgr i bs).args 0 1 = v) (frozen : (s.dev.vd v).frozen = true) :
    Gives .thaw s fun d => (d.vd v).frozen = false ∧ ∀ q c, s.dev.cur? v q = some c → c.held = true →
      d.cur? v q = some { c with start := s.dev.hlcOf v } := by
  obtain ⟨fns, ns, l, fw, out, answered, -⟩ :=
    migrate_spec (w := work s) h 0x0404 (takeRequest_replied h (doThaw_frozen (w := work s) arg frozen))
  obtain ⟨vds, clk⟩ := freezeCancelled_spec v s.dev
  have released : ((thawed v (freezeCancelled v s.dev)).vd v).frozen = false := by rw [thawed, Dev.vd_onVd_same]
  refine ⟨_, next_after_of_eq (exec_thaw s) answered, released, fun q c cur held => ?_⟩
  have before : (freezeCancelled v s.dev).cur? v q = some c := by rw [cur?_congr vds]; exact cur
  have time : (freezeCancelled v s.dev).hlcOf v = s.dev.hlcOf v := by rw [Dev.hlcOf, Dev.hlc, clk]; rfl
  rw [← time]
  exact cur?_thawed before held

/-- A virtual device that is destroyed keeps no unit and no table. -/
theorem destroyVd_leaves (v : Nat) (d : Dev) : ((destroyVd v d).vd v).frozen = false ∧ ((destroyVd v d).vd v).cores = [] ∧
    ((destroyVd v d).vd v).chans = [] ∧ ((destroyVd v d).vd v).parts = [] ∧ ((destroyVd v d).vd v).table = [] := by
  unfold destroyVd
  extract_lets old out d1 d2
  have emptied : (d2.vd v).frozen = false ∧ (d2.vd v).cores = [] ∧ (d2.vd v).chans = [] ∧ (d2.vd v).parts = [] ∧ (d2.vd v).table = [] := by
    simp only [d2, Dev.vd_onVd_same, and_self]
  clear_value d2
  obtain ⟨frozen, cores, chans, parts, table⟩ := emptied
  obtain ⟨l, fw, sched, published⟩ := publishChange_spec v d2 old out false []
  have mapped : (nextMap v d2).vd v = _ := rebuildLists_vd_same ..
  rw [Dev.vd_onVd_same] at mapped
  have left : (eraseKeys v (publishChange v old out false [] d2)).vd v = (nextMap v d2).vd v := by
    rw [published]
    rfl
  rw [left, mapped]
  exact ⟨frozen, cores, chans, by rw [parts]; rfl, table⟩

/-- The virtual device destroyed once its function is re-initialised. -/
def discarded (v : Nat) (d : Dev) : Dev := destroyVd v (d.onFn v fun f => { f with tdi := .configUnlocked, tdiStream := 0 })

theorem discarded_leaves (v : Nat) (d : Dev) : ((discarded v d).vd v).frozen = false ∧ ((discarded v d).vd v).cores = [] ∧
    ((discarded v d).vd v).chans = [] ∧ ((discarded v d).vd v).parts = [] ∧ ((discarded v d).vd v).table = [] := destroyVd_leaves ..

theorem doDiscard_frozen {w : Wk} {a : AdReq} {v : Nat} (arg : fieldLe a.args 0 1 = v) (frozen : (w.dev.vd v).frozen = true)
    (complete : w.dev.mgrWaits (DefOp.freezes v) = false) :
    doDiscard a w = performed [] { resetVf v false w with dev := discarded v (resetVf v false w).dev } := by
  subst arg
  have goes : ¬ (!(w.dev.vd (fieldLe a.args 0 1)).frozen || w.dev.mgrWaits (DefOp.freezes (fieldLe a.args 0 1))) = true := by
    simp [frozen, complete]
  exact if_neg goes

theorem discard_completes {s : State} {i : Nat} {bs : List Byte} (h : Accepted s.dev mgr { adRow 0x0405 1 with whileA2 := true } i bs) {v : Nat}
    (arg : fieldLe (headReq mgr i bs).args 0 1 = v) (frozen : (s.dev.vd v).frozen = true)
    (complete : s.dev.mgrWaits (DefOp.freezes v) = false) :
    Completes .discard s fun t => (t.dev.vd v).frozen = false ∧ (t.dev.vd v).cores = [] ∧ (t.dev.vd v).chans = [] ∧
      (t.dev.vd v).parts = [] ∧ (t.dev.vd v).table = [] := by
  have body := doDiscard_frozen (w := work s) arg frozen complete
  have left := discarded_leaves v (resetVf v false (work s)).dev
  generalize discarded v (resetVf v false (work s)).dev = e at body left
  obtain ⟨fns, ns, l, fw, out, answered, -⟩ := migrate_spec (w := work s) h 0x0405 (takeRequest_replied h body)
  exact ⟨_, next_after_of_eq (exec_discard s) answered, left⟩

/-- Settles O31: FREEZE and the end of its grace, SAVE, RESTORE, THAW and DISCARD. -/
theorem migrationCommands : Obligations.MigrationCommands := by
  refine ⟨fun s i bs h => freeze_gives h rfl, fun s v slot t found => ?_, fun s v => freezeGrace_none, fun s i bs h => ?_,
    fun s n i bs b w h => ?_, fun s i bs h => thaw_gives h rfl, fun s i bs h => discard_completes h rfl⟩
  · exact (exec_freezeGraceExpiry v s).trans (by rw [doFreezeGrace_found (w := work s) found]; rfl)
  · intro a v kind port frozen rest taken up whole
    refine ⟨save_asks h rfl kind port frozen rest taken up whole, fun read => ?_⟩
    obtain ⟨d, answered, blobs, exports, vds, said⟩ := save_writes h rfl kind port frozen rest taken up whole read
    refine ⟨d, answered, blobs, exports, vds, fun host => ?_, fun peer => ?_⟩
    · rwa [partOut, if_pos host] at said
    · rwa [partOut, if_neg (by rw [peer]; decide)] at said
  · intro a r x fields kind port epoch up blob fresh ready acl keys ctxs sets queues lawful quota room placed
    exact restore_places h (doRestore_places rfl fields kind port epoch up blob fresh ready acl keys ctxs sets queues lawful quota room placed)

end Sys2Proof.Machine
end
